-- ==== Sys2Proof/Word.lean ====
section
/-! DEFINITION. The word types: bytes, and the registers of a shader thread group (R215). Register fields, addresses
and counts are numbers (Nat), cut to their width by the one operation that writes them (`State.wr`). Then the types that the operands of
the commands take. -/

namespace Sys2Proof

/-- A byte of memory. -/
abbrev Byte := BitVec 8

/-- A 32-bit shader register (a lane of a vector register, or a scalar register). -/
abbrev Word32 := BitVec 32

/-- The poison value of a Tally (R132). -/
abbrev poison : Nat := 0xFFFFFFFFFFFFFFFF

/-- The register blocks of BAR0 (R55). LOOM and SCL have one window per instance. -/
inductive Blk where
  | glb | rst | intc | fe | mmu | tly | loom (k : Nat) | scl (k : Nat) | crd | glz | prs | mc | l2 | pxl | saf | ldg | odm | dbg
  deriving DecidableEq, Repr

/-- The address space of a host register access: BAR0, BAR2, or configuration space (assumption 6). -/
inductive Space where
  | bar0 | bar2 | cfg
  deriving DecidableEq, Repr

/-- CLASS of a shader instruction and its OP within the class (R218, R221); none for the classes 0 to 5, whose OPs the spec
does not number (log entry 75). -/
structure OpCode where
  cls : Nat
  op : Option Nat
  deriving DecidableEq, Repr

/-- A shader instruction (R218): its fields but CLASS and OP, which the command names, and its extension word. -/
structure Ins where
  ext : Bool := false
  ge : Bool := false
  pg : Nat := 0
  pgn : Bool := false
  dst : Nat := 0
  src0 : Nat := 0
  src1 : Nat := 0
  src2 : Nat := 0
  md : Nat := 0
  /-- the extension word, 0 without one -/
  x : Nat := 0
  deriving DecidableEq, Repr

/-- What the regulator of an adaptive rail reports in a control interval (R28, R591): voltage in mV, current in A, power in
W, and its temperature as an 8-bit signed number. -/
structure Tele where
  mv : Nat
  amps : Nat
  watts : Nat
  temp : Nat
  deriving DecidableEq, Repr

end Sys2Proof

namespace Sys2Proof.Machine

/-- The element types of the arithmetic classes. -/
inductive NTy where
  | f64 | f32 | f16 | bf16 | sf84 | sf85 | sf6 | i64 | u64 | i32 | u32 | i8 | u8 | i4
  deriving DecidableEq, Repr

end Sys2Proof.Machine
end

