-- ==== Sys2Proof/Syntax.lean ====
section
/-! DEFINITION. The commands of the block: one constructor per row of the opcode table, in the table's order. Commands from
the host and its buses carry what they write or address; an event carries which unit it befalls and what the event decides.
Where the spec's event needs a result that the block does not compute (a test's verdict, a measurement, a link's training), that
result is an operand. -/

namespace Sys2Proof

open Machine

/-- A command. -/
inductive Instr where
  /-- A write to a register field that has no row of its own sets Live fields or shadows by access type (R9) -/
  | registerWrite (func : Nat) (sp : Space) (off size v : Nat)
  /-- A COMMIT write checks the block's shadows and applies them all in one block clock (R12) -/
  | commit (b : Blk)
  /-- A DISCARD write sets every shadow of the block back to its committed value (R72) -/
  | discard (b : Blk)
  /-- A CLR write or a write of 0 clears a counter and its OVF bit (R15) -/
  | counterClear (func : Nat) (sp : Space) (off : Nat) (clr : Bool)
  /-- A 32-bit read of a 64-bit word's low half latches its high word for the reading function (R17) -/
  | lowWordRead (func : Nat) (sp : Space) (off : Nat) (wide : Bool)
  /-- A 32-bit read of the high half returns and releases the latched word, or the current word (R17) -/
  | highWordRead (func : Nat) (sp : Space) (off : Nat)
  /-- A BAR access that is not an aligned 32-bit or 64-bit access completes empty and sets GLB_ACC_ERR.SIZE (R57) -/
  | barAccessMisaligned (func : Nat) (sp : Space) (off : Nat)
  /-- Every 100 µs Foreman B measures package power and lowers or raises rail levels (R28) -/
  | controlInterval (core loom : Tele) (fixed tj busy guard : Nat) (resp : Bool)
  /-- The regulator acknowledges a raised voltage and the rail's clocks are raised (R31) -/
  | regulatorAck (r : Nat)
  /-- No acknowledgement in 500 µs keeps the rail's level, counts the miss and raises PWR_REG_NACK (R31) -/
  | regulatorAckTimeout (r : Nat)
  /-- PCIe link training ends at the best common rate and width and GLB_LINK updates (R41) -/
  | linkUp (speed width : Nat) (flit : Bool)
  /-- The PCIe link goes down; host requests fail and completion writes and messages are discarded (R47) -/
  | linkDown
  /-- A host-memory request gets UR, CA or a completion timeout and its context faults with HOST_ERROR (R47) -/
  | hostRequestError (c eng : Nat)
  /-- Enabling VFs lends PF MSI-X entries and suspends bindings that name them (R51) -/
  | vfEnable (n : Nat)
  /-- Clearing VF Enable or shrinking NumVFs resumes suspended bindings (R51) -/
  | vfDisable (n : Nat)
  /-- An L2 way is cleaned and invalidated in every slice and then handed to its new owner (R79) -/
  | l2WayHandover (w : Nat)
  /-- Writing EN = 1 to a FREE context in an enabled partition makes it ACTIVE (R83) -/
  | ctxEnable (c part : Nat)
  /-- Writing EN = 0 to an ACTIVE context starts a driver teardown (R83) -/
  | ctxTeardownRequest (c part : Nat)
  /-- Writing EN = 0 to a FAULTED context makes it FREE at once (R83) -/
  | ctxFree (c part : Nat)
  /-- A teardown step completes and the next runs, ending with the context FREE or FAULTED (R85) -/
  | teardownStepDone (c : Nat)
  /-- A GO of FE_CLAIM starts a claim with the committed fields (R93) -/
  | claimGo
  /-- A doorbell write updates WPTR and sets DB_PENDING of the matching queue (R109) -/
  | doorbell (func c slot value : Nat)
  /-- EN = 1 on a DISABLED queue with an ACTIVE context makes it ACTIVE (R107) -/
  | queueEnable (q : Nat)
  /-- EN = 0 on an ACTIVE queue stops fetching and drains dispatched work (R107) -/
  | queueDrain (q : Nat)
  /-- A draining queue's dispatched work has completed and it becomes DISABLED (R107) -/
  | queueDrainDone (q : Nat)
  /-- EN = 0 on a FAULTED queue makes it DISABLED at once (R107) -/
  | queueFree (q : Nat)
  /-- A fetcher begins a pass by reading WPTR and clearing DB_PENDING in one clock (R112) -/
  | sampleAndClear (q : Nat)
  /-- The fetcher reads a ring entry, checks SEQ and CTRL, and advances RPTR (R102) -/
  | entryFetch (q : Nat)
  /-- At the end of a pass the fetcher reads DB_PENDING and WPTR to start a new pass or leave the ready set (R112) -/
  | idleSample (q : Nat)
  /-- The selected queue's time slice ends and selection moves to the next queue of its level (R115) -/
  | tsliceExpiry (k : Nat)
  /-- A faulting queue's dispatched work is done and it becomes FAULTED and raises QUEUE_FAULT (R127) -/
  | queueFaultComplete (q : Nat)
  /-- The NOP packet skips its payload (R119) -/
  | nop (sid : Nat)
  /-- The SIGNAL packet signals a Tally once every earlier packet of the queue has completed (R122) -/
  | signal (sid : Nat)
  /-- The WAIT packet blocks its queue until a Tally reaches TARGET (R120) -/
  | wait (sid : Nat)
  /-- An unsatisfied WAIT reaches its TIMEOUT and its queue faults with WAIT_TIMEOUT (R120) -/
  | waitTimeout (sid : Nat)
  /-- The WRITE_IMM packet writes a 64-bit value as a system-scope release (R120) -/
  | writeImm (sid : Nat)
  /-- The TIMESTAMP packet writes the device timestamp to memory (R120) -/
  | timestamp (sid : Nat)
  /-- The DISPATCH packet reads its kernel descriptor and launches a compute grid (R190) -/
  | dispatch (sid : Nat)
  /-- The DISPATCH_INDIRECT packet reads its grid from memory and launches it (R120) -/
  | dispatchIndirect (sid : Nat)
  /-- The COPY packet copies bytes on one Press engine in 128-byte pieces (R121) -/
  | copy (sid : Nat)
  /-- The FILL packet writes a 32-bit pattern over a range (R120) -/
  | fill (sid : Nat)
  /-- The CLAIM packet checks and accepts a range for zeroing by the Sweep (R92) -/
  | claim (sid : Nat)
  /-- The ALLOC packet takes a run from the Chandler heap and writes its address or 0 (R96) -/
  | alloc (sid : Nat)
  /-- The FREE packet stamps a run and places it in quarantine (R97) -/
  | free (sid : Nat)
  /-- An entry and all earlier entries have completed and COMPLETED rises (R123) -/
  | entryComplete (q : Nat)
  /-- A signal raises a Tally's value, or is discarded as a regression or against poison (R131) -/
  | tallySignal (t : Nat) (vs : List Nat)
  /-- An export write that fails is lost, counted in TLY_EXP_ERR and raises TALLY_EXPORT_ERR (R144) -/
  | exportWriteError (t : Nat)
  /-- A polling waiter re-reads its Tally every 1 µs and retries for a pool entry (R138) -/
  | waitPoll (t k : Nat)
  /-- A 64-bit write to a Tally SIGNAL word through BAR2 signals its value (R139) -/
  | signalWrite (func t v : Nat)
  /-- A 32-bit write to the low SIGNAL word is held for the writing function (R139) -/
  | signalLowWrite (func t v : Nat)
  /-- A 32-bit write to the high SIGNAL word signals the combined value or sets SPLIT (R139) -/
  | signalHighWrite (func t v : Nat)
  /-- An engine loads a Tally slot word or stores to SIGNAL through the aperture (R140) -/
  | apertureAccess (c eng va : Nat) (write : Bool) (size v : Nat)
  /-- A GO of TLY_INIT sets a Tally to the committed value and clears its records (R146) -/
  | tlyInitGo
  /-- A write of LW_CLR sets LOW_WATER to the current free pool count (R137) -/
  | lwClr
  /-- The LAUNCH_PATTERN packet binds a revision, checks it and takes a snapshot slot (R150) -/
  | launchPattern (sid : Nat)
  /-- The parameter table is copied and patched into the slot and SNAPPED is written (R150) -/
  | snapshotWritten (l : Nat)
  /-- A node whose predecessors have all completed is dispatched to its fetcher (R150) -/
  | patternNodeReady (l i : Nat)
  /-- Every node has completed; the slot is freed, RETIRED written and the packet completes (R150) -/
  | patternLaunchComplete (l : Nat)
  /-- A GO of FE_PAT_EDIT makes a new descriptor the current revision or is refused BUSY (R153) -/
  | patEditGo
  /-- The MMU walks the page tables for a missing translation of context `c` at `va` for an access of kind `acc` (0 read, 1 write, 2
  atomic, 3 fetch), asked by requester `eng` (R157) -/
  | pageWalk (c va acc eng : Nat)
  /-- A GO of MMU_PTE_WR writes one page table entry to its L2 slice (R168) -/
  | pteWrGo
  /-- The entry write is visible to walks and BUSY clears (R168) -/
  | pteWrDone
  /-- A GO of MMU_INV_REQ queues an invalidation with the next ticket (R172) -/
  | invReqGo
  /-- The next invalidation sets ACKMASK and drops matching MMU entries (R173) -/
  | invStart
  /-- An engine finishes its in-scope transfers, drops its entries and acknowledges (R173) -/
  | invAck (e : Nat)
  /-- An engine not acknowledging within MMU_INV_TIMEOUT is reset and its contexts fault (R175) -/
  | invTimeoutExpiry
  /-- The next workgroup is placed on a core that fits it and its groups start (R190) -/
  | workgroupPlace (d : Nat)
  /-- A RETURN hit record is written to the emitting lane's registers (R241) -/
  | hitArrival (g lane : Nat)
  /-- Foreman A sets pre-emption requests on the groups of non-Realtime dispatches of a cluster (R452) -/
  | preemptRequest (c : Nat)
  /-- 20 µs after a request, unfinished workgroups are stopped at an instruction boundary (R452) -/
  | stopTimeout (c : Nat)
  /-- The workgroup saves are written and the cores are free (R452) -/
  | saveComplete (c : Nat)
  /-- A saved workgroup is read back, CRC checked and resumes (R455) -/
  | restoreComplete (core : Nat)
  /-- The CTRL NOP instruction does nothing (R224) -/
  | ctrlNop (g : Nat) (i : Ins)
  /-- Branches unconditionally to the target (R224) -/
  | br (g : Nat) (i : Ins)
  /-- Branches when a scalar is zero (R224) -/
  | brZ (g : Nat) (i : Ins)
  /-- Branches when a scalar is non-zero (R224) -/
  | brNz (g : Nat) (i : Ins)
  /-- Branches when EXEC is zero (R224) -/
  | brExecz (g : Nat) (i : Ins)
  /-- Branches when EXEC is non-zero (R224) -/
  | brExecnz (g : Nat) (i : Ins)
  /-- Saves EXEC, masks it with a predicate and branches when empty (R224) -/
  | ifOp (g : Nat) (i : Ins)
  /-- Inverts EXEC against the saved mask and branches when empty (R224) -/
  | elseOp (g : Nat) (i : Ins)
  /-- Restores EXEC from the saved mask (R224) -/
  | endif (g : Nat) (i : Ins)
  /-- Removes predicate lanes from EXEC (R224) -/
  | breakOp (g : Nat) (i : Ins)
  /-- Saves the return address in a scalar pair and branches (R224) -/
  | call (g : Nat) (i : Ins)
  /-- Jumps to the address in a scalar pair (R224) -/
  | ret (g : Nat) (i : Ins)
  /-- Raises SOFTWARE with an 8-bit code in TRAP_INFO (R224) -/
  | trap (g : Nat) (i : Ins)
  /-- Returns from the trap handler to TRAP_PC (R225) -/
  | rtt (g : Nat) (i : Ins)
  /-- A yield point that stops and saves the live registers when a pre-emption request is pending (R226) -/
  | yield (g : Nat) (i : Ins)
  /-- Ends the group and frees its slot once pending RETURN hits have arrived (R227) -/
  | endOp (g : Nat) (i : Ins)
  /-- Writes masked bits of STATUS (R224) -/
  | setmode (g : Nat) (i : Ins)
  /-- Reads trap state, STATUS or the device timestamp into scalars (R224) -/
  | getreg (g : Nat) (i : Ins)
  /-- Writes TRAP_PC inside a trap handler (R224) -/
  | setreg (g : Nat) (i : Ins)
  /-- Each active lane loads from global, local or scratch memory (R229) -/
  | ld (g : Nat) (i : Ins)
  /-- Each active lane stores to global, local or scratch memory (R229) -/
  | st (g : Nat) (i : Ins)
  /-- Loads 1 to 16 words into scalar registers (R229) -/
  | sld (g : Nat) (i : Ins)
  /-- Takes a filtered texture sample (R388) -/
  | texSample (g : Nat) (i : Ins)
  /-- Fetches a texel at integer coordinates (R388) -/
  | texFetch (g : Nat) (i : Ins)
  /-- Gathers one component of a 2 x 2 footprint (R388) -/
  | texGather (g : Nat) (i : Ins)
  /-- Writes a texel at integer coordinates (R388) -/
  | texStore (g : Nat) (i : Ins)
  /-- Interpolates a varying at given barycentrics (R388) -/
  | attrInterp (g : Nat) (i : Ins)
  /-- Reads the current tile-memory value at the lane's pixel (R388) -/
  | tileLd (g : Nat) (i : Ins)
  /-- Atomic integer add (R233) -/
  | atomAdd (g : Nat) (i : Ins)
  /-- Atomic integer subtract (R233) -/
  | atomSub (g : Nat) (i : Ins)
  /-- Atomic signed minimum (R233) -/
  | atomMinS (g : Nat) (i : Ins)
  /-- Atomic unsigned minimum (R233) -/
  | atomMinU (g : Nat) (i : Ins)
  /-- Atomic signed maximum (R233) -/
  | atomMaxS (g : Nat) (i : Ins)
  /-- Atomic unsigned maximum (R233) -/
  | atomMaxU (g : Nat) (i : Ins)
  /-- Atomic AND (R233) -/
  | atomAnd (g : Nat) (i : Ins)
  /-- Atomic OR (R233) -/
  | atomOr (g : Nat) (i : Ins)
  /-- Atomic XOR (R233) -/
  | atomXor (g : Nat) (i : Ins)
  /-- Atomic swap (R233) -/
  | atomSwap (g : Nat) (i : Ins)
  /-- Atomic compare and swap (R233) -/
  | atomCas (g : Nat) (i : Ins)
  /-- Atomic FP32 add in lane order, rounded each step (R236) -/
  | atomFaddF32 (g : Nat) (i : Ins)
  /-- Atomic FP64 add in lane order, rounded each step (R236) -/
  | atomFaddF64 (g : Nat) (i : Ins)
  /-- Atomic FP32 minimumNumber (R236) -/
  | atomFminF32 (g : Nat) (i : Ins)
  /-- Atomic FP32 maximumNumber (R236) -/
  | atomFmaxF32 (g : Nat) (i : Ins)
  /-- The group arrives and waits at a workgroup barrier, releasing all when the last arrives (R196) -/
  | bar (g : Nat) (i : Ins)
  /-- Orders memory operations at a scope (R237) -/
  | fence (g : Nat) (i : Ins)
  /-- Waits until a Tally reaches a target, with an optional timeout (R238) -/
  | tlyWait (g : Nat) (i : Ins)
  /-- A TLY.WAIT's TIMEOUT expires and it returns status 2 (R238) -/
  | tlyWaitTimeout (g : Nat)
  /-- Releases earlier memory operations and then signals a Tally (R239) -/
  | tlySignal (g : Nat) (i : Ins)
  /-- Reads a Tally's value into a scalar pair (R237) -/
  | tlyRead (g : Nat) (i : Ins)
  /-- Emits one ray per lane whose hit returns to the lane's registers (R240) -/
  | rayEmitReturn (g : Nat) (i : Ins)
  /-- Emits rays whose hits launch hit-shading groups (R240) -/
  | rayEmitShade (g : Nat) (i : Ins)
  /-- Emits rays whose hits are written into a Loom's Spool (R240) -/
  | rayEmitSpool (g : Nat) (i : Ins)
  /-- Group matrix product with BF16 operands (R243) -/
  | gmmaBf16 (g : Nat) (i : Ins)
  /-- Group matrix product with FP16 operands (R243) -/
  | gmmaF16 (g : Nat) (i : Ins)
  /-- Group matrix product with SF8-4 operands (R243) -/
  | gmmaSf84 (g : Nat) (i : Ins)
  /-- Group matrix product with SF8-5 operands (R243) -/
  | gmmaSf85 (g : Nat) (i : Ins)
  /-- Group matrix product with INT8 operands (R243) -/
  | gmmaI8 (g : Nat) (i : Ins)
  /-- Releases earlier writes and sends one Draft per active lane to its Loom (R248) -/
  | loomIssue (g : Nat) (i : Ins)
  /-- Vector add (R250) -/
  | valuAdd (g : Nat) (i : Ins) (t : NTy)
  /-- Vector subtract (R250) -/
  | valuSub (g : Nat) (i : Ins) (t : NTy)
  /-- Vector floating-point multiply (R250) -/
  | valuMul (g : Nat) (i : Ins) (t : NTy)
  /-- Vector fused multiply-add (R250) -/
  | valuFma (g : Nat) (i : Ins) (t : NTy)
  /-- Vector minimum (R250) -/
  | valuMin (g : Nat) (i : Ins) (t : NTy)
  /-- Vector maximum (R250) -/
  | valuMax (g : Nat) (i : Ins) (t : NTy)
  /-- Vector NaN-propagating minimum (R251) -/
  | valuMinimum (g : Nat) (i : Ins) (t : NTy)
  /-- Vector NaN-propagating maximum (R251) -/
  | valuMaximum (g : Nat) (i : Ins) (t : NTy)
  /-- Vector floor (R250) -/
  | valuFloor (g : Nat) (i : Ins) (t : NTy)
  /-- Vector ceiling (R250) -/
  | valuCeil (g : Nat) (i : Ins) (t : NTy)
  /-- Vector truncate (R250) -/
  | valuTrunc (g : Nat) (i : Ins) (t : NTy)
  /-- Vector round to nearest even (R250) -/
  | valuRndne (g : Nat) (i : Ins) (t : NTy)
  /-- Vector fractional part (R250) -/
  | valuFract (g : Nat) (i : Ins) (t : NTy)
  /-- Vector ldexp (R250) -/
  | valuLdexp (g : Nat) (i : Ins) (t : NTy)
  /-- Vector frexp (R250) -/
  | valuFrexp (g : Nat) (i : Ins) (t : NTy)
  /-- Vector select (R250) -/
  | valuSel (g : Nat) (i : Ins) (t : NTy)
  /-- Vector integer multiply low (R250) -/
  | valuMulLo (g : Nat) (i : Ins) (t : NTy)
  /-- Vector integer multiply high (R250) -/
  | valuMulHi (g : Nat) (i : Ins) (t : NTy)
  /-- Vector integer multiply-add low (R250) -/
  | valuMadLo (g : Nat) (i : Ins) (t : NTy)
  /-- Vector AND (R250) -/
  | valuAnd (g : Nat) (i : Ins) (t : NTy)
  /-- Vector OR (R250) -/
  | valuOr (g : Nat) (i : Ins) (t : NTy)
  /-- Vector XOR (R250) -/
  | valuXor (g : Nat) (i : Ins) (t : NTy)
  /-- Vector NOT (R250) -/
  | valuNot (g : Nat) (i : Ins) (t : NTy)
  /-- Vector shift left (R255) -/
  | valuShl (g : Nat) (i : Ins) (t : NTy)
  /-- Vector logical shift right (R255) -/
  | valuShr (g : Nat) (i : Ins) (t : NTy)
  /-- Vector arithmetic shift right (R255) -/
  | valuSar (g : Nat) (i : Ins) (t : NTy)
  /-- Vector bit-field extract (R250) -/
  | valuBfe (g : Nat) (i : Ins) (t : NTy)
  /-- Vector bit-field insert (R250) -/
  | valuBfi (g : Nat) (i : Ins) (t : NTy)
  /-- Vector population count (R250) -/
  | valuPopc (g : Nat) (i : Ins) (t : NTy)
  /-- Vector count leading zeros (R250) -/
  | valuClz (g : Nat) (i : Ins) (t : NTy)
  /-- Vector count trailing zeros (R250) -/
  | valuCtz (g : Nat) (i : Ins) (t : NTy)
  /-- Vector bit reverse (R250) -/
  | valuBrev (g : Nat) (i : Ins) (t : NTy)
  /-- Vector sum of four 8-bit products into INT32 (R250) -/
  | valuDot4 (g : Nat) (i : Ins) (t : NTy)
  /-- Vector move (R250) -/
  | valuMov (g : Nat) (i : Ins)
  /-- Vector cross-lane permute (R256) -/
  | valuPerm (g : Nat) (i : Ins)
  /-- Reads one lane into a scalar (R256) -/
  | valuReadlane (g : Nat) (i : Ins)
  /-- Writes a scalar into one lane (R256) -/
  | valuWritelane (g : Nat) (i : Ins)
  /-- Broadcasts the lowest active lane's value (R256) -/
  | valuBcast (g : Nat) (i : Ins)
  /-- 64-bit vector add (R250) -/
  | valu64Add (g : Nat) (i : Ins) (t : NTy)
  /-- 64-bit integer subtract (R250) -/
  | valu64Sub (g : Nat) (i : Ins) (t : NTy)
  /-- FP64 multiply (R250) -/
  | valu64Mul (g : Nat) (i : Ins)
  /-- FP64 fused multiply-add (R250) -/
  | valu64Fma (g : Nat) (i : Ins)
  /-- FP64 minimum (R250) -/
  | valu64Min (g : Nat) (i : Ins)
  /-- FP64 maximum (R250) -/
  | valu64Max (g : Nat) (i : Ins)
  /-- FP64 NaN-propagating minimum (R250) -/
  | valu64Minimum (g : Nat) (i : Ins)
  /-- FP64 NaN-propagating maximum (R250) -/
  | valu64Maximum (g : Nat) (i : Ins)
  /-- FP64 floor (R250) -/
  | valu64Floor (g : Nat) (i : Ins)
  /-- FP64 ceiling (R250) -/
  | valu64Ceil (g : Nat) (i : Ins)
  /-- FP64 truncate (R250) -/
  | valu64Trunc (g : Nat) (i : Ins)
  /-- FP64 round to nearest even (R250) -/
  | valu64Rndne (g : Nat) (i : Ins)
  /-- FP64 fractional part (R250) -/
  | valu64Fract (g : Nat) (i : Ins)
  /-- FP64 ldexp (R250) -/
  | valu64Ldexp (g : Nat) (i : Ins)
  /-- 64-bit AND (R250) -/
  | valu64And (g : Nat) (i : Ins)
  /-- 64-bit OR (R250) -/
  | valu64Or (g : Nat) (i : Ins)
  /-- 64-bit XOR (R250) -/
  | valu64Xor (g : Nat) (i : Ins)
  /-- 64-bit shift left (R250) -/
  | valu64Shl (g : Nat) (i : Ins)
  /-- 64-bit logical shift right (R250) -/
  | valu64Shr (g : Nat) (i : Ins)
  /-- 64-bit arithmetic shift right (R250) -/
  | valu64Sar (g : Nat) (i : Ins)
  /-- 64-bit integer multiply low (R250) -/
  | valu64MulLo (g : Nat) (i : Ins)
  /-- Compare equal into a predicate (R257) -/
  | vcmpEq (g : Nat) (i : Ins) (t : NTy) (sig : Bool)
  /-- Compare not equal into a predicate (R257) -/
  | vcmpNe (g : Nat) (i : Ins) (t : NTy) (sig : Bool)
  /-- Compare less than into a predicate (R257) -/
  | vcmpLt (g : Nat) (i : Ins) (t : NTy) (sig : Bool)
  /-- Compare less or equal into a predicate (R257) -/
  | vcmpLe (g : Nat) (i : Ins) (t : NTy) (sig : Bool)
  /-- Compare greater than into a predicate (R257) -/
  | vcmpGt (g : Nat) (i : Ins) (t : NTy) (sig : Bool)
  /-- Compare greater or equal into a predicate (R257) -/
  | vcmpGe (g : Nat) (i : Ins) (t : NTy) (sig : Bool)
  /-- Compare ordered into a predicate (R257) -/
  | vcmpOrd (g : Nat) (i : Ins) (t : NTy) (sig : Bool)
  /-- Compare unordered into a predicate (R257) -/
  | vcmpUnord (g : Nat) (i : Ins) (t : NTy) (sig : Bool)
  /-- Class test into a predicate (R257) -/
  | vcmpClass (g : Nat) (i : Ins) (t : NTy)
  /-- Converts between number formats (R266) -/
  | cvt (g : Nat) (i : Ins) (a b : NTy)
  /-- Reciprocal, or an FP64 seed (R253) -/
  | sfuRcp (g : Nat) (i : Ins) (t : NTy)
  /-- Reciprocal square root, or an FP64 seed (R253) -/
  | sfuRsq (g : Nat) (i : Ins) (t : NTy)
  /-- Correctly rounded square root (R253) -/
  | sfuSqrt (g : Nat) (i : Ins) (t : NTy)
  /-- Base-2 exponential (R253) -/
  | sfuExp2 (g : Nat) (i : Ins) (t : NTy)
  /-- Base-2 logarithm (R253) -/
  | sfuLog2 (g : Nat) (i : Ins) (t : NTy)
  /-- Sine of an argument in turns (R253) -/
  | sfuSin (g : Nat) (i : Ins) (t : NTy)
  /-- Cosine of an argument in turns (R253) -/
  | sfuCos (g : Nat) (i : Ins) (t : NTy)
  /-- Scalar add (R250) -/
  | saluAdd (g : Nat) (i : Ins) (t : NTy)
  /-- Scalar subtract (R250) -/
  | saluSub (g : Nat) (i : Ins) (t : NTy)
  /-- Scalar multiply low (R250) -/
  | saluMulLo (g : Nat) (i : Ins) (t : NTy)
  /-- Scalar AND (R250) -/
  | saluAnd (g : Nat) (i : Ins) (t : NTy)
  /-- Scalar OR (R250) -/
  | saluOr (g : Nat) (i : Ins) (t : NTy)
  /-- Scalar XOR (R250) -/
  | saluXor (g : Nat) (i : Ins) (t : NTy)
  /-- Scalar NOT (R250) -/
  | saluNot (g : Nat) (i : Ins) (t : NTy)
  /-- Scalar shift left (R250) -/
  | saluShl (g : Nat) (i : Ins) (t : NTy)
  /-- Scalar logical shift right (R250) -/
  | saluShr (g : Nat) (i : Ins) (t : NTy)
  /-- Scalar arithmetic shift right (R250) -/
  | saluSar (g : Nat) (i : Ins) (t : NTy)
  /-- Scalar minimum (R250) -/
  | saluMin (g : Nat) (i : Ins) (t : NTy)
  /-- Scalar maximum (R250) -/
  | saluMax (g : Nat) (i : Ins) (t : NTy)
  /-- Scalar compare giving 0 or 1 (R250) -/
  | saluCmp (g : Nat) (i : Ins) (t : NTy) (lt eq gt : Bool)
  /-- Scalar move (R250) -/
  | saluMov (g : Nat) (i : Ins) (t : NTy)
  /-- Scalar conditional select (R250) -/
  | saluCsel (g : Nat) (i : Ins) (t : NTy)
  /-- Moves between predicates and scalars (R257) -/
  | saluPmov (g : Nat) (i : Ins)
  /-- The DRAFT packet routes a run of Drafts to their Looms (R297) -/
  | draft (sid : Nat)
  /-- A Loom accepts a Draft from the fetcher or a thread into its queue and checks it (R297) -/
  | draftAccept (thread : Bool) (src : Nat)
  /-- A MATMUL Draft starts streaming once at the Loom head with its wait satisfied (R293) -/
  | matmul (n : Nat)
  /-- A CONV Draft runs a convolution as a MATMUL of im2col rows (R295) -/
  | convOp (n : Nat)
  /-- A LOAD_W Draft copies weights into the Beam in tile layout (R294) -/
  | loadW (n : Nat)
  /-- A LOAD_A Draft copies activations into the Spool (R294) -/
  | loadA (n : Nat)
  /-- A STORE_BOLT Draft drains Bolt rows through the epilogue to memory (R294) -/
  | storeBolt (n : Nat)
  /-- A row leaves the array and its column-lane and feed checks give a verdict (R320): the row, or the piece of a duplicated
  unit's work, and the error errM * 2^errE, 0 for none, that an upset has made -/
  | rowCheck (n kind pass slice row piece : Nat) (errM errE : Int)
  /-- A chunk's last row reaches the Bolt and the row-lane check gives its verdict (R321): the error errM * 2^errE, 0 for none, that an
  upset has made in a column's accumulators or corrections -/
  | chunkCheck (n col : Nat) (corr : Bool) (errM errE : Int)
  /-- A Draft's outputs are written, then its status record, then its Tally is signalled (R300) -/
  | draftComplete (n : Nat)
  /-- A GO of LOOM_RELEASE frees an owned Loom and zeroes its memories (R308) -/
  | loomRelease (n : Nat)
  /-- The Loom's zeroing completes and CLEARING clears (R308) -/
  | loomReleaseDone (n : Nat)
  /-- Foreman A's REQ write starts a yield-only or full stop of a Loom (R330) -/
  | loomStopReq (n : Nat) (full : Bool)
  /-- The Loom reaches its stop point or the Draft ends, and saving begins or the stop ends (R330) -/
  | loomStopPoint (n : Nat)
  /-- The save with its CRC is written and the Loom becomes SAVED (R330) -/
  | loomSaveDone (n : Nat)
  /-- A RESTORE write reads the save area back and checks its CRC (R331) -/
  | loomStopRestore (n : Nat)
  /-- The restore completes and the Draft resumes, or the context faults with LOOM_RESTORE (R331) -/
  | loomRestoreDone (n : Nat)
  /-- A bucket whose oldest ray waited BATCH_US becomes a batch (R351) -/
  | batchTimeout (b : Nat)
  /-- A batch is sent to the partition's RTU holding the fewest batches (R351) -/
  | batchDispatch (b : Nat)
  /-- An RTU finishes a ray's traversal and returns its hit, miss or candidate (R344) -/
  | traversalComplete (b k : Nat)
  /-- The SHADE hits of a batch are placed as a hit-shading group (R336) -/
  | hitShadeLaunch (b : Nat)
  /-- A pooled ray moves back into the store while the partition is below quota (R352) -/
  | poolReturn (p : Nat)
  /-- A pool full for 1 ms with no progress faults held emitters with RAY_DEADLOCK (R353) -/
  | rayDeadlock (p : Nat)
  /-- A sampled ray's two casts are compared and a mismatch is cast again or faults (R356) -/
  | dupCompare (b k odd : Nat)
  /-- Every 1 ms Foreman B casts a patrol batch on each RTU and compares the results (R357) -/
  | rtuPatrol (n : Nat) (fail : Bool)
  /-- An activation has written all EXPECT rays to the Spool and signals its Tally (R360) -/
  | activationComplete (a : Nat)
  /-- The GFX_STATE packet sets the pipeline state for later draws (R368) -/
  | gfxState (sid : Nat)
  /-- The RENDER_PASS_BEGIN packet checks the pass descriptor and opens a pass (R370) -/
  | renderPassBegin (sid : Nat)
  /-- The DRAW packet shades vertices and bins primitives (R367) -/
  | draw (sid : Nat)
  /-- The DRAW_INDEXED packet draws from an index buffer (R367) -/
  | drawIndexed (sid : Nat)
  /-- The DRAW_INDIRECT packet reads draw arguments from memory (R367) -/
  | drawIndirect (sid : Nat)
  /-- The RENDER_PASS_END packet starts tile shading and completes when all tiles are stored (R369) -/
  | renderPassEnd (sid : Nat)
  /-- A full bin pool shades and flushes binned tiles, then empties the pool (R380) -/
  | partialFlush (id : Nat)
  /-- A tile starts on the first core with room, loading its attachments (R381) -/
  | tileStart (id : Nat)
  /-- A shaded tile is stored, skipping writes whose signatures match (R386) -/
  | tileStore (id tile : Nat)
  /-- The DISPLAY_COMMIT packet latches a descriptor as the pipe's pending commit (R402) -/
  | displayCommit (sid : Nat)
  /-- At the start of vertical blanking the pipe applies a ready commit or repeats the last set (R404) -/
  | frameStart (p : Nat)
  /-- Layer data late for its pixels shows background and flags UNDERRUN (R407) -/
  | layerUnderrun (p x y n : Nat)
  /-- A written-back frame is acknowledged and FRAME is signalled to WB_TALLY (R410) -/
  | writebackDone (p : Nat)
  /-- A region's CRC is latched with the frame and compared with EXPECT (R411) -/
  | crcRegionDone (p r : Nat)
  /-- A pipe commit applies pipe fields at once or releases them to the next frame start (R417) -/
  | pipeCommit (p : Nat)
  /-- A pipe discard restores the pipe's shadows (R72) -/
  | pipeDiscard (p : Nat)
  /-- Writing pipe EN starts or stops the pipe at a frame start (R417) -/
  | pipeEnable (p : Nat) (en : Bool)
  /-- A GO trains a DisplayPort link with fallback (R414) -/
  | dpTrainGo (o : Nat)
  /-- Training ends with the port UP or FAILED (R414) -/
  | dpTrainDone (o : Nat) (ok : Bool) (rate lanes : Nat)
  /-- An HPD change or IRQ_HPD raises DISP_HPD (R415) -/
  | hpdChange (o : Nat) (level : Bool)
  /-- A lost DisplayPort link enters LOST and retrains if AUTO_RETRAIN is set (R415) -/
  | dpLinkLost (o : Nat)
  /-- An AUX_GO starts a native AUX or I2C-over-AUX transaction (R413) -/
  | auxGo (o : Nat)
  /-- The AUX transaction ends with ACK, NACK, DEFER or no reply (R413) -/
  | auxDone (o result data : Nat)
  /-- An A-PHY link loses lock, raises DISP_LINK_LOST and restarts (R416) -/
  | aphyLockLost (o : Nat)
  /-- A DSI_CMD write queues a short packet in the FIFO (R416) -/
  | dsiCmd (o v : Nat)
  /-- A compress job encodes its input with its END action (R425) -/
  | compress (sid : Nat)
  /-- A decompress job decodes its input under the expansion guard (R421) -/
  | decompress (sid : Nat)
  /-- A job writes output, state and status and signals its Tally (R429) -/
  | pressJobEnd (e : Nat)
  /-- The internal timer expires; the tick counter increments and budgets refill (R435) -/
  | tickStart
  /-- A rising SYNC_IN edge starts a tick or is ignored as early (R433) -/
  | syncInEdge
  /-- No external event by PERIOD_US + TOL_US: the device starts a tick and counts it missed (R434) -/
  | tickSelfStart
  /-- OFFSET_US after a tick start SYNC_OUT rises, and falls after WIDTH_US (R437) -/
  | syncOutPulse
  /-- A budget's USED reaches its limit; non-Realtime work is withheld (R440) -/
  | budgetExhausted (p k : Nat)
  /-- A Realtime start-by time arrives; the job is opened and its resources held (R449) -/
  | startBy (q : Nat)
  /-- A Realtime job incomplete at its deadline counts a miss (R450) -/
  | rtDeadline (q : Nat)
  /-- A Realtime job completes and its resources and stopped work are restored (R451) -/
  | rtJobComplete (q : Nat)
  /-- A Sweep job finishes zeroing its range and a waiting range takes the job (R475) -/
  | sweepJobDone (id : Nat)
  /-- Patrol scrub reads HBM lines and writes back corrected codewords (R471) -/
  | patrolScrub (line lo hi : Nat)
  /-- An on-die scrubber reads its memory and corrects errors (R472) -/
  | sramScrub (kind unit res pos c : Nat)
  /-- Every 1 ms an MC reads its stack temperature and acts on thresholds (R463) -/
  | hbmTempRead (m t : Nat)
  /-- Every 100 ms an MC re-centres the data eyes of a pseudo-channel (R463) -/
  | eyeRecentre (m pc : Nat)
  /-- A clean maintenance operation writes back dirty bytes over its scope (R481) -/
  | l2Clean
  /-- An invalidate maintenance operation drops lines over its scope (R481) -/
  | l2Invalidate
  /-- A clean-and-invalidate maintenance operation over its scope (R481) -/
  | l2CleanInvalidate
  /-- All write-backs are acknowledged; BUSY clears and the Tally is signalled (R481) -/
  | l2MaintDone
  /-- A Pexlink port finishes training UP, DEGRADED or DOWN (R485) -/
  | pxlTrainingDone (p : Nat) (ok narrow slow : Bool) (lat : Nat)
  /-- The peer's identity arrives and the port joins or becomes MISWIRED (R486) -/
  | identityExchange (p family rev devId mgr epoch : Nat)
  /-- A request from another device is checked and served or refused (R488) -/
  | remoteRequest (p kind a n op : Nat) (data : List Nat)
  /-- A home Tally change is forwarded to a mirror as an export signal (R493) -/
  | forwardedSignal (i v : Nat)
  /-- The home device refuses a binding registration and it becomes LOST (R503) -/
  | mirrorRefused (i : Nat)
  /-- A manager's tick broadcast arrives and is a worker's tick event (R495) -/
  | tickBroadcast (p n : Nat)
  /-- Every 100 µs a device sends a heartbeat on each link (R496) -/
  | heartbeatSend
  /-- A peer's heartbeat arrives and resets its silence timer (R496) -/
  | heartbeatReceive (p : Nat)
  /-- A peer silent for HB_TIMEOUT_US is counted silent and reported to others (R496) -/
  | hbTimeout (d : Nat)
  /-- A peer's report of a device's silence arrives (R496) -/
  | silenceReport (p d : Nat) (silent : Bool)
  /-- A RESIGN message from the manager makes the successor take over (R497) -/
  | resign (p : Nat)
  /-- A worker receives a new manager's message and follows it (R498) -/
  | managerMessage (p epoch : Nat)
  /-- A flit failing its CRC is NAKed and replayed from the replay buffer (R500) -/
  | flitNak (p : Nat) (again : Bool)
  /-- A port loses lock or exceeds REPLAY_LIMIT and retrains (R500) -/
  | lossOfLock (p : Nat)
  /-- Retraining ends; the port resumes or goes DOWN and fails its requests (R501) -/
  | pxlRetrainDone (p : Nat) (ok narrow slow : Bool) (lat : Nat)
  /-- A remote request without completion after REQ_TIMEOUT_US faults with REMOTE_TIMEOUT (R501) -/
  | reqTimeout (c eng d : Nat)
  /-- A device's 10 ms health word arrives at the manager (R540) -/
  | healthWord (d w : Nat)
  /-- A level source deasserts (R508) -/
  | sourceDeassert (n : Nat)
  /-- A CLAIM read returns and claims the lowest pending source of the target (R508) -/
  | intcClaim (t : Nat)
  /-- A COMPLETE write ends a claim and re-pends a refired or still-asserted source (R509) -/
  | intcComplete (t n : Nat)
  /-- A target-mask write notifies added targets of a pending source (R510) -/
  | maskWrite (fm pf : Bool) (n value : Nat)
  /-- A RELEASE write ends a host target's claim as a COMPLETE (R510) -/
  | intcRelease (n : Nat)
  /-- A moderation timer expires and the held notifications go out as one message (R511) -/
  | modTimer (m : Nat)
  /-- Setting IDLE_HINT sends held notifications at once (R511) -/
  | idleHintSet (v : Nat)
  /-- Unmasking an entry sends one message for its pending notifications (R512) -/
  | vectorUnmask (func v : Nat)
  /-- An INTC_SW write asserts software sources (R505) -/
  | swSet (k m : Nat)
  /-- An INTC_SW_CLR write deasserts software sources (R505) -/
  | swClr (k m : Nat)
  /-- A USDO upload request reads a dictionary entry (R535) -/
  | usdoUpload (bus c idx sub : Nat) (more : Bool)
  /-- A USDO download request writes a dictionary entry (R535) -/
  | usdoDownload (bus c idx sub : Nat) (data : List Nat) (more : Bool)
  /-- A session idle for 1,000 ms is aborted (R535) -/
  | usdoTimeout (c : Nat)
  /-- The save signature starts storing persistent entries to flash (R517) -/
  | storeParameters (bus c sig : Nat)
  /-- The load signature marks the stored set for replacement by defaults (R517) -/
  | restoreDefaults (bus c sig : Nat)
  /-- A save or restore has been written to flash and ODM_SAVE_DONE is raised (R517) -/
  | saveDone
  /-- NMT start remote node makes the node operational (R526) -/
  | nmtStart (node bus : Nat)
  /-- NMT stop remote node makes the node stopped (R526) -/
  | nmtStop (node bus : Nat)
  /-- NMT enter pre-operational (R526) -/
  | nmtEnterPreop (node bus : Nat)
  /-- NMT reset node reloads persistent entries and may request a warm reset (R527) -/
  | nmtResetNode (node bus : Nat)
  /-- NMT reset communication reloads communication objects and sends boot-up (R527) -/
  | nmtResetComm (node bus : Nat)
  /-- The producer timer sends the node's heartbeat (R529) -/
  | heartbeatProduce
  /-- A watched node's heartbeat arrives and ends any loss (R530) -/
  | heartbeatConsume (node bus : Nat)
  /-- A watched node silent past its time is lost and EMCY 0x8130 is sent (R530) -/
  | heartbeatLost (i : Nat)
  /-- A received SYNC triggers TPDOs and, at its delay, a tick event (R531) -/
  | syncReceive (bus ago : Nat) (good : Bool)
  /-- SYNC_DELAY_EFF after start of frame a good SYNC starts a tick, or counts SYNC_LATE (R531) -/
  | syncTickDelay
  /-- The node produces a SYNC on its period or at a tick start (R532) -/
  | syncProduce
  /-- One queued EMCY is sent per inhibit time (R534) -/
  | emcySend
  /-- A controller reaches bus-off and the node applies its error behaviour (R523) -/
  | busOff (k : Nat)
  /-- A controller recovers after 128 x 11 recessive bits and EMCY 0x8140 is sent (R523) -/
  | busOffRecover (k : Nat)
  /-- A received RPDO applies its mapped entries as one access or is rejected (R539) -/
  | rpdo (n bus : Nat) (data : List Nat)
  /-- A TPDO trigger samples its mapped entries and queues the frame (R538) -/
  | tpdo (n : Nat)
  /-- A mailbox read request of a dictionary entry (R541) -/
  | mbxRead
  /-- A mailbox write request of a dictionary entry (R541) -/
  | mbxWrite
  /-- A mailbox save request (R541) -/
  | mbxSave
  /-- A mailbox restore-defaults request (R541) -/
  | mbxRestore
  /-- All supplies stay above POR for 1 ms and the power-on reset ends (R652) -/
  | powerOn (rated : Bool)
  /-- PERST# release latches straps and starts bring-up or recovery mode (R543) -/
  | perstRelease (devId : Nat) (recov jtag : Bool)
  /-- Step 2 reads fuses, identifies the flash and reads the boot record (R543) -/
  | fuseRead (readErr : Bool)
  /-- Step 3 maps good clusters and applies the repair list (R551) -/
  | yieldMap
  /-- Step 4 verifies licence slots and powers off unlicensed units (R554) -/
  | licenceCheck (readErr : Bool)
  /-- Step 5 trains all four stacks (R463) -/
  | hbmTrain (fails : List Nat)
  /-- Step 6 verifies and loads a firmware slot and starts the Foreman (R559) -/
  | firmwareLoad (readErr : Bool)
  /-- Step 7 broadcasts microcode and retires units that fail twice (R560) -/
  | microcodeBroadcast (fails : List (Nat × Nat))
  /-- Step 8 runs LBIST and MBIST of every unit and the shared logic (R561) -/
  | bootSelftest (fails : List (Nat × Nat)) (spares : List Nat) (shared : Bool) (d0 d1 : Nat)
  /-- Step 9 checks that a partition is enabled and its zeroing started (R562) -/
  | carveoutCheck
  /-- Step 10 starts fetchers and the tick and releases the fault outputs (R563) -/
  | enable
  /-- A bring-up step ends DONE or FAILED (R543) -/
  | bootStepDone
  /-- A step's timeout expires and it stops with STATE = TIMEOUT (R543) -/
  | bootStepTimeout
  /-- A RECOV_EXIT write sets FAILS to 0 in both copies (R567) -/
  | recovExit
  /-- A TRIAL_REQ write sets TRIAL in the boot record (R559) -/
  | trialReq
  /-- A RST_FLASH READ fills the data buffer (R549) -/
  | flashRead
  /-- A RST_FLASH PROGRAM writes a permitted partition (R549) -/
  | flashProgram
  /-- A RST_FLASH ERASE erases one permitted 4 KiB sector (R549) -/
  | flashErase
  /-- A flash operation ends, clearing BUSY with its RESULT (R549) -/
  | flashDone
  /-- A WARM request or L3 recovery starts a warm reset (R575) -/
  | warmReset (src key : Nat)
  /-- A warm reset step completes and the next starts, or it fails to L4 (R575) -/
  | warmStepDone (ok unitFail : Bool) (fails : List (Nat × Nat))
  /-- A FULL request resets everything except the always-on domain (R569) -/
  | fullReset (src key : Nat)
  /-- A PCIe Hot Reset or Link Disable causes a full reset (R569) -/
  | hotReset
  /-- A GO of RST_PART resets one partition (R576) -/
  | partitionReset (p : Nat) (host : Bool)
  /-- A partition reset completes and RST_PART_DONE is raised (R576) -/
  | partitionResetDone (p : Nat)
  /-- A GO of a RST_BLOCK slot starts a block reset and drains the block (R577) -/
  | blockReset (slot typ unit core : Nat)
  /-- IDLE_US elapses without idle and the isolation wrapper closes (R577) -/
  | idleTimeout (typ unit core : Nat)
  /-- The block is reset, zeroed and resumes (R577) -/
  | blockResetDone (typ unit core : Nat)
  /-- An FLR of a VF tears down its contexts and clears its interrupt state (R579) -/
  | vfFlr (n : Nat)
  /-- An FLR of the PF tears down every context and clears host bindings (R580) -/
  | pfFlr
  /-- A PWR_CMD of DOZE samples the idle conditions and gates clocks (R583) -/
  | dozeEntry
  /-- A PWR_CMD of NAP cleans the L2, writes the NAP image and powers down (R585) -/
  | napEntry
  /-- A PWR_CMD of OFF mirrors the Ledger and powers off all but always-on (R590) -/
  | offEntry (key : Nat)
  /-- A PWR_CMD of ACTIVE wakes the device (R588) -/
  | activeCmd
  /-- A wake source during entry undoes the entry and returns to ACTIVE (R584) -/
  | entryAbort
  /-- An enabled wake source brings the device from DOZE or NAP to ACTIVE (R587) -/
  | wake (src : Nat) (ok : Bool)
  /-- WAKE_IN asserts from a CAN wake-up pattern (R524) -/
  | wakeIn
  /-- An enabled GPIO edge is detected as a wake source (R658) -/
  | gpioEdge (g : Nat) (level : Bool)
  /-- A BAR0 access to a gated domain wakes only that domain and stalls (R589) -/
  | domainWakeAccess (a : Nat)
  /-- A domain woken in DOZE is gated again after 100 µs without access (R589) -/
  | domainRegate (d : Nat)
  /-- A supply falls below its POR threshold and causes a full or power-on reset (R653) -/
  | supplyBelowPor (aon : Bool)
  /-- Every 2 ms each core runs its patrol sequence and compares the signature (R594) -/
  | corePatrol (c k : Nat) (fail : Bool)
  /-- A watchdog sees no progress for 1 ms and resets, tests or escalates (R595) -/
  | watchdogFire (kind unit : Nat)
  /-- A network transfer fails its CRC, is replayed once, then goes to L3 (R594) -/
  | fabricCrcError (again : Bool)
  /-- A Foreman lockstep pair disagrees and L3 or L4 starts (R594) -/
  | lockstepError (b : Bool)
  /-- A rail or supply monitor finds its voltage out of band and acts (R596) -/
  | voltageMonitor (sup mv : Nat)
  /-- A domain clock off by more than 2 % or stopped starts L3 (R596) -/
  | clockMonitor (d n : Nat)
  /-- The reference clock stops for 1 µs and L4 starts (R596) -/
  | refclkLoss
  /-- Every 100 µs die sensors are read and clamp, release or OFF applies (R596) -/
  | tempSensorRead (t : Nat)
  /-- SAFE_REQ_N low for 10 µs applies SAFE_ACTION (R601) -/
  | safeReqAssert
  /-- SAFE_REQ_N high for 10 µs releases the safe-state request (R601) -/
  | safeReqRelease
  /-- An L1 or L2 recovery still running 1 ms after detection asserts DEGRADED_N (R599) -/
  | recoveryOverrun (k : Nat)
  /-- A requested targeted self-test starts once no other test runs (R607) -/
  | assayerTestStart
  /-- A test ends transient or lasting and a lasting unit is remapped or disabled (R608) -/
  | testVerdict (fail : Bool)
  /-- Every 24 operating hours the Assayer measures delay and replans voltages (R610) -/
  | ageingMeasure (d0 d1 : Nat)
  /-- An event appends a record to the ring, overwriting the oldest if needed (R618) -/
  | ledgerAppend
  /-- Foreman B mirrors settled records to the LEDGER flash partition (R625) -/
  | mirrorWrite (ok : Bool)
  /-- Every 600 operating seconds the Ledger state area is written to flash (R626) -/
  | stateAreaWrite (ok : Bool)
  /-- A clear removes every record and writes a CLEARED record (R628) -/
  | ledgerClear (who node key : Nat)
  /-- A freeze stops appending and counts missed events (R629) -/
  | ledgerFreeze (who : Nat)
  /-- An unfreeze writes a FREEZE_SUMMARY and resumes appending (R629) -/
  | ledgerUnfreeze (who : Nat)
  /-- A freeze ends after FREEZE_MS and raises LDG_FREEZE_TIMEOUT (R629) -/
  | freezeTimeout
  /-- A HALT write halts a group or a context's DEBUG groups (R636) -/
  | halt (cluster core slot : Nat) (byCtx : Bool) (ctx : Nat)
  /-- A group reaches its halt at an instruction boundary and DBG_HALTED is raised (R212) -/
  | groupHalted (g : Nat)
  /-- A RESUME write releases a halted group or context (R638) -/
  | resume (cluster core slot : Nat) (byCtx : Bool) (ctx : Nat)
  /-- A STEP write issues one instruction of a halted group (R638) -/
  | step (cluster core slot : Nat) (byCtx : Bool) (ctx : Nat)
  /-- A GO of DBG_ACC reads or writes one register of a halted group (R637) -/
  | dbgAcc (space reg lane : Nat) (write : Bool)
  /-- A Loom halt takes effect at the next chunk boundary (R641) -/
  | loomHalt (n : Nat)
  /-- Ends a Loom debug halt (R641) -/
  | loomResume (n : Nat)
  /-- Streams one more chunk of a halted Loom and halts again (R641) -/
  | loomStep (n : Nat)
  /-- JTAG EXTEST drives boundary scan while PERST# is asserted (R635) -/
  | extest (v : Nat)
  /-- JTAG IDCODE returns the 32-bit identity (R634) -/
  | idcode
  /-- JTAG SAMPLE/PRELOAD captures boundary scan (R634) -/
  | samplePreload (v : Nat)
  /-- JTAG CLAMP holds pins while PERST# is asserted (R635) -/
  | clamp
  /-- JTAG DBGACC reads or writes the DBG/PMU window when JTAG_EN is set (R633) -/
  | dbgacc (off4 : Nat) (write wide : Bool) (data : Nat)
  /-- JTAG BYPASS selects the one-bit bypass register (R634) -/
  | bypass
  /-- An assertion of PERST# causes a full reset and returns every bring-up step to idle, counting an interrupted start as failed (R547) -/
  | perstAssert
  /-- Entry into DOZE, NAP or OFF finishes its last step and the device is in the new state (R585) -/
  | powerEntryDone
  /-- A COPY or FILL finishes on its Press engine, which becomes free for the next dispatch and stops charging the Press budget (R427) -/
  | copyComplete (e : Nat)
  /-- A read of GLB_CAP_GEN ends the SHRUNK condition of DEGRADED_N (R599) -/
  | capGenRead
  /-- An A-PHY transmitter's automatic link start-up completes and LOCKED sets (R416) -/
  | aphyLinkLocked (o : Nat)
  deriving DecidableEq, Repr

end Sys2Proof
end

