-- ==== Sys2Proof/WellFormed.lean ====
section
/-! DEFINITION. Which commands are well formed: every operand is a value that its field, bus or address space can carry. The
meanings are total; what a command does with a unit number that names no unit, each of them says. -/

namespace Sys2Proof

/-- A block whose instance exists (R55). -/
def Blk.wf : Blk → Bool
  | .loom k => decide (k < 12)
  | .scl k => decide (k < 48)
  | _ => true

/-- An instruction whose fields fit the base word, and its extension word if it has one (R218). -/
def Ins.wf (i : Ins) : Bool :=
  decide (i.pg < 8) && decide (i.dst < 512) && decide (i.src0 < 512) && decide (i.src1 < 512) && decide (i.src2 < 512) &&
  decide (i.md < 1024) && decide (i.x < 2 ^ 64) && (i.ext || i.x == 0)

/-- Telemetry whose temperature is an 8-bit number. -/
def Tele.wf (t : Tele) : Bool := decide (t.temp < 256)

/-- An offset inside its address space (R54; 4 KiB of configuration space). -/
def offOk : Space → Nat → Bool
  | .bar0, o => decide (o < 0x4000000)
  | .bar2, o => decide (o < 0x80000)
  | .cfg, o => decide (o < 0x1000)

/-- The command is well formed. -/
def Instr.wf : Instr → Bool
  | .registerWrite func sp off _ v => decide (func < 64) && offOk sp off && decide (v < 2 ^ 64)
  | .commit b => b.wf
  | .discard b => b.wf
  | .counterClear func sp off _ => decide (func < 64) && offOk sp off
  | .lowWordRead func sp off _ => decide (func < 64) && offOk sp off
  | .highWordRead func sp off => decide (func < 64) && offOk sp off
  | .barAccessMisaligned func sp off => decide (func < 64) && offOk sp off
  | .controlInterval core loom _ _ _ _ _ => core.wf && loom.wf
  | .regulatorAck _ => true
  | .regulatorAckTimeout _ => true
  | .linkUp _ _ _ => true
  | .linkDown => true
  | .hostRequestError c eng => decide (c < 1024) && decide (eng < 64)
  | .vfEnable _ => true
  | .vfDisable _ => true
  | .l2WayHandover _ => true
  | .ctxEnable c _ => decide (c < 1024)
  | .ctxTeardownRequest c _ => decide (c < 1024)
  | .ctxFree c _ => decide (c < 1024)
  | .teardownStepDone c => decide (c < 1024)
  | .claimGo => true
  | .doorbell func c _ _ => decide (func < 64) && decide (c < 1024)
  | .queueEnable q => decide (q < 2048)
  | .queueDrain q => decide (q < 2048)
  | .queueDrainDone q => decide (q < 2048)
  | .queueFree q => decide (q < 2048)
  | .sampleAndClear q => decide (q < 2048)
  | .entryFetch q => decide (q < 2048)
  | .idleSample q => decide (q < 2048)
  | .tsliceExpiry _ => true
  | .queueFaultComplete q => decide (q < 2048)
  | .nop _ => true
  | .signal _ => true
  | .wait _ => true
  | .waitTimeout _ => true
  | .writeImm _ => true
  | .timestamp _ => true
  | .dispatch _ => true
  | .dispatchIndirect _ => true
  | .copy _ => true
  | .fill _ => true
  | .claim _ => true
  | .alloc _ => true
  | .free _ => true
  | .entryComplete q => decide (q < 2048)
  | .tallySignal t _ => decide (t < 8192)
  | .exportWriteError t => decide (t < 8192)
  | .waitPoll t _ => decide (t < 8192)
  | .signalWrite func t v => decide (func < 64) && decide (t < 8192) && decide (v < 2 ^ 64)
  | .signalLowWrite func t _ => decide (func < 64) && decide (t < 8192)
  | .signalHighWrite func t _ => decide (func < 64) && decide (t < 8192)
  | .apertureAccess c eng _ _ _ v => decide (c < 1024) && decide (eng < 64) && decide (v < 2 ^ 64)
  | .tlyInitGo => true
  | .lwClr => true
  | .launchPattern _ => true
  | .snapshotWritten _ => true
  | .patternNodeReady _ _ => true
  | .patternLaunchComplete _ => true
  | .patEditGo => true
  | .pageWalk c _ _ eng => decide (c < 1024) && decide (eng < 64)
  | .pteWrGo => true
  | .pteWrDone => true
  | .invReqGo => true
  | .invStart => true
  | .invAck _ => true
  | .invTimeoutExpiry => true
  | .workgroupPlace _ => true
  | .hitArrival g _ => decide (g < 9216)
  | .preemptRequest _ => true
  | .stopTimeout _ => true
  | .saveComplete _ => true
  | .restoreComplete _ => true
  | .ctrlNop g i => decide (g < 9216) && i.wf
  | .br g i => decide (g < 9216) && i.wf
  | .brZ g i => decide (g < 9216) && i.wf
  | .brNz g i => decide (g < 9216) && i.wf
  | .brExecz g i => decide (g < 9216) && i.wf
  | .brExecnz g i => decide (g < 9216) && i.wf
  | .ifOp g i => decide (g < 9216) && i.wf
  | .elseOp g i => decide (g < 9216) && i.wf
  | .endif g i => decide (g < 9216) && i.wf
  | .breakOp g i => decide (g < 9216) && i.wf
  | .call g i => decide (g < 9216) && i.wf
  | .ret g i => decide (g < 9216) && i.wf
  | .trap g i => decide (g < 9216) && i.wf
  | .rtt g i => decide (g < 9216) && i.wf
  | .yield g i => decide (g < 9216) && i.wf
  | .endOp g i => decide (g < 9216) && i.wf
  | .setmode g i => decide (g < 9216) && i.wf
  | .getreg g i => decide (g < 9216) && i.wf
  | .setreg g i => decide (g < 9216) && i.wf
  | .ld g i => decide (g < 9216) && i.wf
  | .st g i => decide (g < 9216) && i.wf
  | .sld g i => decide (g < 9216) && i.wf
  | .texSample g i => decide (g < 9216) && i.wf
  | .texFetch g i => decide (g < 9216) && i.wf
  | .texGather g i => decide (g < 9216) && i.wf
  | .texStore g i => decide (g < 9216) && i.wf
  | .attrInterp g i => decide (g < 9216) && i.wf
  | .tileLd g i => decide (g < 9216) && i.wf
  | .atomAdd g i => decide (g < 9216) && i.wf
  | .atomSub g i => decide (g < 9216) && i.wf
  | .atomMinS g i => decide (g < 9216) && i.wf
  | .atomMinU g i => decide (g < 9216) && i.wf
  | .atomMaxS g i => decide (g < 9216) && i.wf
  | .atomMaxU g i => decide (g < 9216) && i.wf
  | .atomAnd g i => decide (g < 9216) && i.wf
  | .atomOr g i => decide (g < 9216) && i.wf
  | .atomXor g i => decide (g < 9216) && i.wf
  | .atomSwap g i => decide (g < 9216) && i.wf
  | .atomCas g i => decide (g < 9216) && i.wf
  | .atomFaddF32 g i => decide (g < 9216) && i.wf
  | .atomFaddF64 g i => decide (g < 9216) && i.wf
  | .atomFminF32 g i => decide (g < 9216) && i.wf
  | .atomFmaxF32 g i => decide (g < 9216) && i.wf
  | .bar g i => decide (g < 9216) && i.wf
  | .fence g i => decide (g < 9216) && i.wf
  | .tlyWait g i => decide (g < 9216) && i.wf
  | .tlyWaitTimeout g => decide (g < 9216)
  | .tlySignal g i => decide (g < 9216) && i.wf
  | .tlyRead g i => decide (g < 9216) && i.wf
  | .rayEmitReturn g i => decide (g < 9216) && i.wf
  | .rayEmitShade g i => decide (g < 9216) && i.wf
  | .rayEmitSpool g i => decide (g < 9216) && i.wf
  | .gmmaBf16 g i => decide (g < 9216) && i.wf
  | .gmmaF16 g i => decide (g < 9216) && i.wf
  | .gmmaSf84 g i => decide (g < 9216) && i.wf
  | .gmmaSf85 g i => decide (g < 9216) && i.wf
  | .gmmaI8 g i => decide (g < 9216) && i.wf
  | .loomIssue g i => decide (g < 9216) && i.wf
  | .valuAdd g i _ => decide (g < 9216) && i.wf
  | .valuSub g i _ => decide (g < 9216) && i.wf
  | .valuMul g i _ => decide (g < 9216) && i.wf
  | .valuFma g i _ => decide (g < 9216) && i.wf
  | .valuMin g i _ => decide (g < 9216) && i.wf
  | .valuMax g i _ => decide (g < 9216) && i.wf
  | .valuMinimum g i _ => decide (g < 9216) && i.wf
  | .valuMaximum g i _ => decide (g < 9216) && i.wf
  | .valuFloor g i _ => decide (g < 9216) && i.wf
  | .valuCeil g i _ => decide (g < 9216) && i.wf
  | .valuTrunc g i _ => decide (g < 9216) && i.wf
  | .valuRndne g i _ => decide (g < 9216) && i.wf
  | .valuFract g i _ => decide (g < 9216) && i.wf
  | .valuLdexp g i _ => decide (g < 9216) && i.wf
  | .valuFrexp g i _ => decide (g < 9216) && i.wf
  | .valuSel g i _ => decide (g < 9216) && i.wf
  | .valuMulLo g i _ => decide (g < 9216) && i.wf
  | .valuMulHi g i _ => decide (g < 9216) && i.wf
  | .valuMadLo g i _ => decide (g < 9216) && i.wf
  | .valuAnd g i _ => decide (g < 9216) && i.wf
  | .valuOr g i _ => decide (g < 9216) && i.wf
  | .valuXor g i _ => decide (g < 9216) && i.wf
  | .valuNot g i _ => decide (g < 9216) && i.wf
  | .valuShl g i _ => decide (g < 9216) && i.wf
  | .valuShr g i _ => decide (g < 9216) && i.wf
  | .valuSar g i _ => decide (g < 9216) && i.wf
  | .valuBfe g i _ => decide (g < 9216) && i.wf
  | .valuBfi g i _ => decide (g < 9216) && i.wf
  | .valuPopc g i _ => decide (g < 9216) && i.wf
  | .valuClz g i _ => decide (g < 9216) && i.wf
  | .valuCtz g i _ => decide (g < 9216) && i.wf
  | .valuBrev g i _ => decide (g < 9216) && i.wf
  | .valuDot4 g i _ => decide (g < 9216) && i.wf
  | .valuMov g i => decide (g < 9216) && i.wf
  | .valuPerm g i => decide (g < 9216) && i.wf
  | .valuReadlane g i => decide (g < 9216) && i.wf
  | .valuWritelane g i => decide (g < 9216) && i.wf
  | .valuBcast g i => decide (g < 9216) && i.wf
  | .valu64Add g i _ => decide (g < 9216) && i.wf
  | .valu64Sub g i _ => decide (g < 9216) && i.wf
  | .valu64Mul g i => decide (g < 9216) && i.wf
  | .valu64Fma g i => decide (g < 9216) && i.wf
  | .valu64Min g i => decide (g < 9216) && i.wf
  | .valu64Max g i => decide (g < 9216) && i.wf
  | .valu64Minimum g i => decide (g < 9216) && i.wf
  | .valu64Maximum g i => decide (g < 9216) && i.wf
  | .valu64Floor g i => decide (g < 9216) && i.wf
  | .valu64Ceil g i => decide (g < 9216) && i.wf
  | .valu64Trunc g i => decide (g < 9216) && i.wf
  | .valu64Rndne g i => decide (g < 9216) && i.wf
  | .valu64Fract g i => decide (g < 9216) && i.wf
  | .valu64Ldexp g i => decide (g < 9216) && i.wf
  | .valu64And g i => decide (g < 9216) && i.wf
  | .valu64Or g i => decide (g < 9216) && i.wf
  | .valu64Xor g i => decide (g < 9216) && i.wf
  | .valu64Shl g i => decide (g < 9216) && i.wf
  | .valu64Shr g i => decide (g < 9216) && i.wf
  | .valu64Sar g i => decide (g < 9216) && i.wf
  | .valu64MulLo g i => decide (g < 9216) && i.wf
  | .vcmpEq g i _ _ => decide (g < 9216) && i.wf
  | .vcmpNe g i _ _ => decide (g < 9216) && i.wf
  | .vcmpLt g i _ _ => decide (g < 9216) && i.wf
  | .vcmpLe g i _ _ => decide (g < 9216) && i.wf
  | .vcmpGt g i _ _ => decide (g < 9216) && i.wf
  | .vcmpGe g i _ _ => decide (g < 9216) && i.wf
  | .vcmpOrd g i _ _ => decide (g < 9216) && i.wf
  | .vcmpUnord g i _ _ => decide (g < 9216) && i.wf
  | .vcmpClass g i _ => decide (g < 9216) && i.wf
  | .cvt g i _ _ => decide (g < 9216) && i.wf
  | .sfuRcp g i _ => decide (g < 9216) && i.wf
  | .sfuRsq g i _ => decide (g < 9216) && i.wf
  | .sfuSqrt g i _ => decide (g < 9216) && i.wf
  | .sfuExp2 g i _ => decide (g < 9216) && i.wf
  | .sfuLog2 g i _ => decide (g < 9216) && i.wf
  | .sfuSin g i _ => decide (g < 9216) && i.wf
  | .sfuCos g i _ => decide (g < 9216) && i.wf
  | .saluAdd g i _ => decide (g < 9216) && i.wf
  | .saluSub g i _ => decide (g < 9216) && i.wf
  | .saluMulLo g i _ => decide (g < 9216) && i.wf
  | .saluAnd g i _ => decide (g < 9216) && i.wf
  | .saluOr g i _ => decide (g < 9216) && i.wf
  | .saluXor g i _ => decide (g < 9216) && i.wf
  | .saluNot g i _ => decide (g < 9216) && i.wf
  | .saluShl g i _ => decide (g < 9216) && i.wf
  | .saluShr g i _ => decide (g < 9216) && i.wf
  | .saluSar g i _ => decide (g < 9216) && i.wf
  | .saluMin g i _ => decide (g < 9216) && i.wf
  | .saluMax g i _ => decide (g < 9216) && i.wf
  | .saluCmp g i _ _ _ _ => decide (g < 9216) && i.wf
  | .saluMov g i _ => decide (g < 9216) && i.wf
  | .saluCsel g i _ => decide (g < 9216) && i.wf
  | .saluPmov g i => decide (g < 9216) && i.wf
  | .draft _ => true
  | .draftAccept _ _ => true
  | .matmul _ => true
  | .convOp _ => true
  | .loadW _ => true
  | .loadA _ => true
  | .storeBolt _ => true
  | .rowCheck _ _ _ _ _ _ _ _ => true
  | .chunkCheck _ _ _ _ _ => true
  | .draftComplete _ => true
  | .loomRelease _ => true
  | .loomReleaseDone _ => true
  | .loomStopReq _ _ => true
  | .loomStopPoint _ => true
  | .loomSaveDone _ => true
  | .loomStopRestore _ => true
  | .loomRestoreDone _ => true
  | .batchTimeout _ => true
  | .batchDispatch _ => true
  | .traversalComplete _ _ => true
  | .hitShadeLaunch _ => true
  | .poolReturn _ => true
  | .rayDeadlock _ => true
  | .dupCompare _ _ _ => true
  | .rtuPatrol _ _ => true
  | .activationComplete _ => true
  | .gfxState _ => true
  | .renderPassBegin _ => true
  | .draw _ => true
  | .drawIndexed _ => true
  | .drawIndirect _ => true
  | .renderPassEnd _ => true
  | .partialFlush _ => true
  | .tileStart _ => true
  | .tileStore _ _ => true
  | .displayCommit _ => true
  | .frameStart _ => true
  | .layerUnderrun _ _ _ _ => true
  | .writebackDone _ => true
  | .crcRegionDone _ _ => true
  | .pipeCommit _ => true
  | .pipeDiscard _ => true
  | .pipeEnable _ _ => true
  | .dpTrainGo _ => true
  | .dpTrainDone _ _ _ _ => true
  | .hpdChange _ _ => true
  | .dpLinkLost _ => true
  | .auxGo _ => true
  | .auxDone _ _ _ => true
  | .aphyLockLost _ => true
  | .dsiCmd _ _ => true
  | .compress _ => true
  | .decompress _ => true
  | .pressJobEnd _ => true
  | .tickStart => true
  | .syncInEdge => true
  | .tickSelfStart => true
  | .syncOutPulse => true
  | .budgetExhausted _ _ => true
  | .startBy q => decide (q < 2048)
  | .rtDeadline q => decide (q < 2048)
  | .rtJobComplete q => decide (q < 2048)
  | .sweepJobDone _ => true
  | .patrolScrub _ _ _ => true
  | .sramScrub _ _ _ _ _ => true
  | .hbmTempRead _ _ => true
  | .eyeRecentre _ _ => true
  | .l2Clean => true
  | .l2Invalidate => true
  | .l2CleanInvalidate => true
  | .l2MaintDone => true
  | .pxlTrainingDone _ _ _ _ _ => true
  | .identityExchange _ _ _ _ _ _ => true
  | .remoteRequest _ _ _ _ _ data => data.all (· < 256)
  | .forwardedSignal _ v => decide (v < 2 ^ 64)
  | .mirrorRefused _ => true
  | .tickBroadcast _ _ => true
  | .heartbeatSend => true
  | .heartbeatReceive _ => true
  | .hbTimeout _ => true
  | .silenceReport _ _ _ => true
  | .resign _ => true
  | .managerMessage _ _ => true
  | .flitNak _ _ => true
  | .lossOfLock _ => true
  | .pxlRetrainDone _ _ _ _ _ => true
  | .reqTimeout c eng _ => decide (c < 1024) && decide (eng < 64)
  | .healthWord _ _ => true
  | .sourceDeassert _ => true
  | .intcClaim _ => true
  | .intcComplete _ _ => true
  | .maskWrite _ _ _ _ => true
  | .intcRelease _ => true
  | .modTimer _ => true
  | .idleHintSet v => decide (v < 2048)
  | .vectorUnmask func v => decide (func < 64) && decide (v < 2048)
  | .swSet _ _ => true
  | .swClr _ _ => true
  | .usdoUpload bus _ _ _ _ => decide (bus < 2)
  | .usdoDownload bus _ _ _ data _ => decide (bus < 2) && data.all (· < 256)
  | .usdoTimeout _ => true
  | .storeParameters bus _ _ => decide (bus < 2)
  | .restoreDefaults bus _ _ => decide (bus < 2)
  | .saveDone => true
  | .nmtStart _ bus => decide (bus < 2)
  | .nmtStop _ bus => decide (bus < 2)
  | .nmtEnterPreop _ bus => decide (bus < 2)
  | .nmtResetNode _ bus => decide (bus < 2)
  | .nmtResetComm _ bus => decide (bus < 2)
  | .heartbeatProduce => true
  | .heartbeatConsume _ bus => decide (bus < 2)
  | .heartbeatLost _ => true
  | .syncReceive bus _ _ => decide (bus < 2)
  | .syncTickDelay => true
  | .syncProduce => true
  | .emcySend => true
  | .busOff _ => true
  | .busOffRecover _ => true
  | .rpdo _ bus data => decide (bus < 2) && data.all (· < 256)
  | .tpdo _ => true
  | .mbxRead => true
  | .mbxWrite => true
  | .mbxSave => true
  | .mbxRestore => true
  | .powerOn _ => true
  | .perstRelease _ _ _ => true
  | .fuseRead _ => true
  | .yieldMap => true
  | .licenceCheck _ => true
  | .hbmTrain _ => true
  | .firmwareLoad _ => true
  | .microcodeBroadcast _ => true
  | .bootSelftest _ _ _ _ _ => true
  | .carveoutCheck => true
  | .enable => true
  | .bootStepDone => true
  | .bootStepTimeout => true
  | .recovExit => true
  | .trialReq => true
  | .flashRead => true
  | .flashProgram => true
  | .flashErase => true
  | .flashDone => true
  | .warmReset _ _ => true
  | .warmStepDone _ _ _ => true
  | .fullReset _ _ => true
  | .hotReset => true
  | .partitionReset _ _ => true
  | .partitionResetDone _ => true
  | .blockReset _ _ _ _ => true
  | .idleTimeout _ _ _ => true
  | .blockResetDone _ _ _ => true
  | .vfFlr _ => true
  | .pfFlr => true
  | .dozeEntry => true
  | .napEntry => true
  | .offEntry _ => true
  | .activeCmd => true
  | .entryAbort => true
  | .wake _ _ => true
  | .wakeIn => true
  | .gpioEdge g _ => decide (g < 16)
  | .domainWakeAccess _ => true
  | .domainRegate _ => true
  | .supplyBelowPor _ => true
  | .corePatrol _ _ _ => true
  | .watchdogFire _ _ => true
  | .fabricCrcError _ => true
  | .lockstepError _ => true
  | .voltageMonitor _ _ => true
  | .clockMonitor _ _ => true
  | .refclkLoss => true
  | .tempSensorRead _ => true
  | .safeReqAssert => true
  | .safeReqRelease => true
  | .recoveryOverrun _ => true
  | .assayerTestStart => true
  | .testVerdict _ => true
  | .ageingMeasure _ _ => true
  | .ledgerAppend => true
  | .mirrorWrite _ => true
  | .stateAreaWrite _ => true
  | .ledgerClear _ _ _ => true
  | .ledgerFreeze _ => true
  | .ledgerUnfreeze _ => true
  | .freezeTimeout => true
  | .halt _ _ _ _ _ => true
  | .groupHalted g => decide (g < 9216)
  | .resume _ _ _ _ _ => true
  | .step _ _ _ _ _ => true
  | .dbgAcc _ _ _ _ => true
  | .loomHalt _ => true
  | .loomResume _ => true
  | .loomStep _ => true
  | .extest _ => true
  | .idcode => true
  | .samplePreload _ => true
  | .clamp => true
  | .dbgacc _ _ _ _ => true
  | .bypass => true
  | .perstAssert => true
  | .powerEntryDone => true
  | .copyComplete _ => true
  | .capGenRead => true
  | .aphyLinkLocked _ => true

end Sys2Proof
end

