-- ==== Sys2Proof/Decode.lean ====
section
/-! DEFINITION. The commands that a word spells by the opcode table's bits. The table gives no row any bits: every command
arrives as a register access, a bus event or an event inside the block, so no word spells one. And the instruction words of
the shader cores (R218), which a group fetches from memory. -/

namespace Sys2Proof

/-- The command of a table word: none, since no row of the table has bits. -/
def decodeTableWord (_nbits _w : Nat) : Option Instr := none

/-! ### Shader instruction words (R218, R221) -/

/-- Bits `[lo + n - 1 : lo]` of a word. -/
def wordBits (w lo n : Nat) : Nat := w / 2 ^ lo % 2 ^ n

/-- The fields of a base word and its extension word (R218). -/
def insOf (w x : Nat) : Ins := {
  ext := wordBits w 12 1 == 1, ge := wordBits w 13 1 == 1, pg := wordBits w 14 3, pgn := wordBits w 17 1 == 1,
  dst := wordBits w 18 9, src0 := wordBits w 27 9, src1 := wordBits w 36 9, src2 := wordBits w 45 9, md := wordBits w 54 10, x := x }

/-- CLASS and OP of a base word are defined (R221, R224, R229, R233, R237, R240, R243, R248, R388). The spec numbers no OP of the
classes 0 to 5 (log entry 75). -/
def opKnown (w : Nat) : Bool :=
  let c := wordBits w 8 4
  let o := wordBits w 0 8
  c ≤ 5 || (c == 6 && (o ≤ 2 || (0x10 ≤ o && o ≤ 0x15))) || (c == 7 && (o ≤ 0x0A || (0x10 ≤ o && o ≤ 0x13))) || (c == 8 && o ≤ 4) ||
  (c == 9 && o ≤ 0x12) || (c == 0xA && o == 0) || (c == 0xB && o ≤ 4) || (c == 0xC && o == 0)

/-- A word in memory is the instruction `i` of this opcode. -/
def OpCode.picks (k : OpCode) (i : Ins) (w x : Nat) : Bool :=
  wordBits w 8 4 == k.cls && k.op.all (· == wordBits w 0 8) && insOf w x == i

end Sys2Proof
end

