-- ==== Sys2Proof/Machine/Bits.lean ====
section
/-! DEFINITION. Bit fields of numbers (R6: bit 0 is the least significant), little-endian bytes, sign extension, and the
sparse maps that State is built from. -/

namespace Sys2Proof.Machine

/-- Bits `[lo + w - 1 : lo]` of `v`. -/
def bits (v lo w : Nat) : Nat := v / 2 ^ lo % 2 ^ w

/-- Bit `i` of `v`. -/
def bit (v i : Nat) : Bool := v / 2 ^ i % 2 == 1

/-- 1 for true, 0 for false. -/
def b2n (b : Bool) : Nat := if b then 1 else 0

/-- `v` with bits `[lo + w - 1 : lo]` replaced by `x`. -/
def setBits (v lo w x : Nat) : Nat := v - bits v lo w * 2 ^ lo + x % 2 ^ w * 2 ^ lo

/-- `v` with bit `i` set to `b`. -/
def setBit (v i : Nat) (b : Bool) : Nat := setBits v i 1 (b2n b)

/-- The bit numbers below `n` that are set in `v`, ascending. -/
def bitList (v n : Nat) : List Nat := (List.range n).filter (bit v)

/-- The number of bits set in `v` below bit `n`. -/
def popc (v n : Nat) : Nat := (bitList v n).length

/-- `v` rounded down to a multiple of `a`. -/
def alignDown (v a : Nat) : Nat := v / a * a

/-- Rounded up. -/
def ceilDiv (a b : Nat) : Nat := (a + b - 1) / b

/-- The signed value of the `w`-bit number `v`. -/
def toSigned (w v : Nat) : Int :=
  let v := v % 2 ^ w
  if v < 2 ^ (w - 1) then (v : Int) else (v : Int) - (2 ^ w : Nat)

/-- The `w`-bit two's complement number of `i`. -/
def ofSigned (w : Nat) (i : Int) : Nat := (i % (2 ^ w : Nat)).toNat

/-- The `n` bytes of `v`, lowest first (R6). -/
def leBytes : (n : Nat) → (v : Nat) → List Byte
  | 0, _ => []
  | n + 1, v => BitVec.ofNat 8 v :: leBytes n (v / 256)

/-- The number held in little-endian bytes (R6). -/
def ofBytes : List Byte → Nat
  | [] => 0
  | b :: r => b.toNat + 256 * ofBytes r

/-- The little-endian number of `n` bytes at offset `o` of a byte list; bytes beyond its end read as 0. -/
def field (bs : List Byte) (o n : Nat) : Nat := ofBytes ((bs.drop o).take n)

/-! ### Sparse maps over numbers: sorted association lists -/

/-- A sparse map from numbers: a list of pairs, keys strictly rising. -/
abbrev NMap (α : Type) := List (Nat × α)

/-- The value at a key. -/
def NMap.get? {α : Type} : NMap α → Nat → Option α
  | [], _ => none
  | (k, v) :: r, x => if k = x then some v else NMap.get? r x

/-- Set the value at a key. -/
def NMap.put {α : Type} : NMap α → Nat → α → NMap α
  | [], x, v => [(x, v)]
  | (k, w) :: r, x, v =>
    if x = k then (x, v) :: r else if x < k then (x, v) :: (k, w) :: r else (k, w) :: NMap.put r x v

/-- Remove a key. -/
def NMap.del {α : Type} (m : NMap α) (x : Nat) : NMap α := m.filter (fun p => p.1 != x)

/-- Change the value at a key, where there is one. -/
def NMap.upd {α : Type} (m : NMap α) (x : Nat) (f : α → α) : NMap α :=
  m.map (fun p => if p.1 = x then (p.1, f p.2) else p)

/-- The keys of a map rise strictly. -/
def NMap.sorted {α : Type} : NMap α → Bool
  | [] => true
  | [_] => true
  | a :: b :: r => a.1 < b.1 && NMap.sorted (b :: r)

/-- The keys of a map. -/
def NMap.keys {α : Type} (m : NMap α) : List Nat := m.map (·.1)

/-! ### The register store: a sparse map from (field, instance) to the field's value -/

/-- A sparse map from a register field's number and its instance to a value. -/
abbrev RMap := List ((Nat × Nat) × Nat)

/-- The order of keys: by field, then by instance. -/
def keyLt (a b : Nat × Nat) : Bool := a.1 < b.1 || (a.1 == b.1 && a.2 < b.2)

/-- The keys of a register store rise strictly. -/
def RMap.sorted : RMap → Bool
  | [] => true
  | [_] => true
  | a :: b :: r => keyLt a.1 b.1 && RMap.sorted (b :: r)

/-- The value at a key. -/
def RMap.get? : RMap → Nat × Nat → Option Nat
  | [], _ => none
  | (k, v) :: r, x => if k = x then some v else RMap.get? r x

/-- Set the value at a key. -/
def RMap.put : RMap → Nat × Nat → Nat → RMap
  | [], x, v => [(x, v)]
  | (k, w) :: r, x, v =>
    if x = k then (x, v) :: r else if keyLt x k then (x, v) :: (k, w) :: r else (k, w) :: RMap.put r x v

/-- Remove a key. -/
def RMap.del (m : RMap) (x : Nat × Nat) : RMap := m.filter (fun p => p.1 != x)

end Sys2Proof.Machine
end

