-- ==== Sys2Proof/Machine/Crc.lean ====
section
/-! DEFINITION. The cyclic redundancy checks: CRC-32C (R455, R619) and CRC-32 of the display (R411), reflected. -/

namespace Sys2Proof.Machine

/-- One bit of a reflected CRC with polynomial `poly`. -/
def crcBit (poly c : Nat) : Nat := if c % 2 = 1 then (c / 2) ^^^ poly else c / 2

/-- One byte of a reflected CRC. -/
def crcByte (poly c : Nat) (b : Byte) : Nat := (List.range 8).foldl (fun c _ => crcBit poly c) (c ^^^ b.toNat)

/-- A reflected 32-bit CRC, preset to ones and inverted at the end. -/
def crc32r (poly : Nat) (bs : List Byte) : Nat := bs.foldl (crcByte poly) 0xFFFFFFFF ^^^ 0xFFFFFFFF

/-- CRC-32C. -/
def crc32c (bs : List Byte) : Nat := crc32r 0x82F63B78 bs

end Sys2Proof.Machine
end

