-- ==== Sys2Proof/Config.lean ====
section
/-! DEFINITION. The free values: what the spec leaves open while the machine goes on. Each is an opaque constant, so
nothing can evaluate it; the first argument says which open value it is, the second is the counter of State that every
use advances (assumption 2). -/

namespace Sys2Proof

/-- A free number: kind and use. -/
opaque Config.freeNat : Nat → Nat → Nat

/-- A free byte of an open byte sequence: kind, use, and position. -/
opaque Config.freeByte : Nat → Nat → Nat → Byte

/-- The word at 0x000 of a VF's information page, by VF number, CTX_BASE and CTX_COUNT: the spec gives the three no places (R49). -/
opaque Config.vfInfo : Nat → Nat → Nat → BitVec 64

/-- The licence public key with a number, as its 32 bytes read: the boot ROM holds it (R554). -/
opaque Config.licenceKey : Nat → Nat

/-- The firmware public key with a number (R558). -/
opaque Config.firmwareKey : Nat → Nat

/-- The JEDEC manufacturer identity that IDCODE reports (R634), which the spec does not give. -/
opaque Config.jedecId : Nat

end Sys2Proof
end

