-- ==== Sys2Proof/Machine/Memory.lean ====
section
/-! DEFINITION. A byte-addressed memory as plain data: (address, byte) pairs in one canonical form, addresses strictly
rising and no entry equal to 0, which is what an unlisted address reads as (assumption 1). -/

namespace Sys2Proof.Machine

/-- A memory. -/
abbrev Memory := List Host.Cell

/-- The byte at an address. -/
def Memory.get : Memory → Nat → Byte
  | [], _ => 0
  | (k, v) :: r, x => if k = x then v else Memory.get r x

/-- The canonical form holds. -/
def Memory.wf : Memory → Bool
  | [] => true
  | [(_, v)] => v != 0
  | (k, v) :: (k', v') :: r => v != 0 && k < k' && Memory.wf ((k', v') :: r)

/-- Write one byte; writing 0 removes the entry. -/
def Memory.set : Memory → Nat → Byte → Memory
  | [], x, v => if v = 0 then [] else [(x, v)]
  | (k, w) :: r, x, v =>
    if x = k then (if v = 0 then r else (x, v) :: r)
    else if x < k then (if v = 0 then (k, w) :: r else (x, v) :: (k, w) :: r)
    else (k, w) :: Memory.set r x v

/-- The `n` bytes from address `a`. -/
def Memory.read (m : Memory) (a : Nat) : (n : Nat) → List Byte
  | 0 => []
  | n + 1 => m.get a :: Memory.read m (a + 1) n

/-- Write a run of bytes from address `a`. -/
def Memory.write (m : Memory) (a : Nat) : List Byte → Memory
  | [] => m
  | b :: r => Memory.write (m.set a b) (a + 1) r

/-- Write the bytes of a run whose bit in `mask` is set. -/
def Memory.writeMask (m : Memory) (a mask : Nat) : List Byte → Memory
  | [] => m
  | b :: r => Memory.writeMask (if mask % 2 = 1 then m.set a b else m) (a + 1) (mask / 2) r

/-- Zero the addresses from `lo` up to and not including `hi`. -/
def Memory.zero (m : Memory) (lo hi : Nat) : Memory := m.filter (fun p => p.1 < lo || hi ≤ p.1)

/-- The pieces of a run of `n` bytes at `a` that cross no multiple of `sz`: (address, length). -/
def pieces (sz : Nat) : (fuel : Nat) → (a n : Nat) → List (Nat × Nat)
  | 0, _, _ => []
  | f + 1, a, n =>
    let k := min n (sz - a % sz)
    if n = 0 then [] else (a, k) :: pieces sz f (a + k) (n - k)

/-- The 128-byte pieces of a run. -/
def linePieces (a n : Nat) : List (Nat × Nat) := pieces 128 (n / 128 + 2) a n

/-- `n` one bits from bit `o`. -/
def maskOf (o n : Nat) : Nat := (2 ^ n - 1) * 2 ^ o

/-- Replace the bytes of `l` whose bit in `mask` is set by those of `r`. -/
def mergeBytes : (mask : Nat) → (l r : List Byte) → List Byte
  | _, [], _ => []
  | m, a :: l, [] => a :: mergeBytes (m / 2) l []
  | m, a :: l, b :: r => (if m % 2 = 1 then b else a) :: mergeBytes (m / 2) l r

end Sys2Proof.Machine
end

