-- ==== Sys2Proof/Machine/Fld.lean ====
section
/-! DEFINITION. What a register field is: its place in BAR0, its bits, its access type (R9), Live or Staged (R10), its
reset value, and for a counter under R14 where its sticky overflow bit stands. -/

namespace Sys2Proof.Machine

/-- The access types of R9. -/
inductive Acc where
  | ro | rw | w1c | w1s | wo | rc
  deriving DecidableEq, Repr

/-- A register field. Instance `i` of a register repeated once stands at `addr + s1 * i`; of one repeated twice, at
`addr + s1 * (i / n2) + s2 * (i % n2)`. -/
structure Fld where
  /-- the field's number, the same for all its instances -/
  fid : Nat
  /-- BAR0 address of the 64-bit word that holds instance 0 (BAR2 words at 0x1000_0000 and up) -/
  addr : Nat
  s1 : Nat := 0
  s2 : Nat := 0
  n2 : Nat := 1
  /-- number of instances -/
  n : Nat := 1
  lo : Nat := 0
  w : Nat
  acc : Acc
  staged : Bool := false
  reset : Nat := 0
  /-- a counter under R14 -/
  ctr : Bool := false
  /-- number of the field that holds the counter's OVF bit, and the bit's place in it -/
  ovf : Option (Nat × Nat) := none
  deriving DecidableEq, Repr

/-- Address of the 64-bit word that holds instance `i`. -/
def Fld.addrAt (F : Fld) (i : Nat) : Nat := F.addr + F.s1 * (i / F.n2) + F.s2 * (i % F.n2)

/-- The instance of `F` whose word has address `a`, if one has. -/
def Fld.instAt (F : Fld) (a : Nat) : Option Nat :=
  if a < F.addr then none else
    let d := a - F.addr
    let i := if F.n = 1 then 0
      else if F.n2 = 1 then d / F.s1
      else (d / F.s1) * F.n2 + (d % F.s1) / F.s2
    if i < F.n && F.addrAt i == a then some i else none

end Sys2Proof.Machine
end

