-- ==== Sys2Proof/Machine/RegTable.lean ====
section
/-! DEFINITION. The register map: one `Fld` per field of every register table of the spec (chapters 02 to 26),
with its address in BAR0 (R55; BAR2 words stand at 0x1000_0000 and up), its bits, its access type (R9), whether it
is Staged (R10) and its reset value. Reserved bits have no field, so they read as 0 and ignore writes (R7). A reset
value that the spec calls fused, strap, pin, restored or a boot record's is 0 here (assumption 3); State holds those
sources and bring-up writes them. -/

namespace Sys2Proof.Machine

def GLB_VF_MAP.CTX_BASE : Fld := { fid := 0, addr := 0x2000, s1 := 0x8, n := 64, w := 10, acc := .rw, staged := true }
def GLB_VF_MAP.CTX_COUNT : Fld := { fid := 1, addr := 0x2000, s1 := 0x8, n := 64, lo := 16, w := 9, acc := .rw, staged := true }
/-- The fields of GLB_VF_MAP (spec chapter 02). -/
def GLB_VF_MAP.fields : List Fld := [GLB_VF_MAP.CTX_BASE, GLB_VF_MAP.CTX_COUNT]

def GLB_LINK.SPEED : Fld := { fid := 2, addr := 0x40, w := 4, acc := .ro }
def GLB_LINK.WIDTH : Fld := { fid := 3, addr := 0x40, lo := 4, w := 5, acc := .ro }
def GLB_LINK.FLIT : Fld := { fid := 4, addr := 0x40, lo := 9, w := 1, acc := .ro }
def GLB_LINK.UP : Fld := { fid := 5, addr := 0x40, lo := 10, w := 1, acc := .ro }
def GLB_LINK.BELOW_MIN : Fld := { fid := 6, addr := 0x40, lo := 11, w := 1, acc := .ro }
/-- The fields of GLB_LINK (spec chapter 02). -/
def GLB_LINK.fields : List Fld := [GLB_LINK.SPEED, GLB_LINK.WIDTH, GLB_LINK.FLIT, GLB_LINK.UP, GLB_LINK.BELOW_MIN]

def GLB_LINK_DROP.COUNT : Fld := { fid := 7, addr := 0x48, w := 48, acc := .rw, ctr := true, ovf := some (8, 0) }
def GLB_LINK_DROP.OVF : Fld := { fid := 8, addr := 0x48, lo := 48, w := 1, acc := .w1c }
/-- The fields of GLB_LINK_DROP (spec chapter 02). -/
def GLB_LINK_DROP.fields : List Fld := [GLB_LINK_DROP.COUNT, GLB_LINK_DROP.OVF]

def GLB_ACC_ERR.SIZE : Fld := { fid := 9, addr := 0x50, w := 1, acc := .w1c }
def GLB_ACC_ERR.SPLIT : Fld := { fid := 10, addr := 0x50, lo := 1, w := 1, acc := .w1c }
def GLB_ACC_ERR.BAR : Fld := { fid := 11, addr := 0x50, lo := 2, w := 1, acc := .ro }
def GLB_ACC_ERR.FUNC : Fld := { fid := 12, addr := 0x50, lo := 8, w := 8, acc := .ro }
def GLB_ACC_ERR.OFFSET : Fld := { fid := 13, addr := 0x50, lo := 32, w := 32, acc := .ro }
/-- The fields of GLB_ACC_ERR (spec chapter 02). -/
def GLB_ACC_ERR.fields : List Fld := [GLB_ACC_ERR.SIZE, GLB_ACC_ERR.SPLIT, GLB_ACC_ERR.BAR, GLB_ACC_ERR.FUNC, GLB_ACC_ERR.OFFSET]

def GLB_VF_VIOL.COUNT : Fld := { fid := 14, addr := 0x58, w := 48, acc := .rw, ctr := true, ovf := some (15, 0) }
def GLB_VF_VIOL.OVF : Fld := { fid := 15, addr := 0x58, lo := 48, w := 1, acc := .w1c }
def GLB_VF_VIOL.LAST_VF : Fld := { fid := 16, addr := 0x58, lo := 56, w := 6, acc := .ro }
/-- The fields of GLB_VF_VIOL (spec chapter 02). -/
def GLB_VF_VIOL.fields : List Fld := [GLB_VF_VIOL.COUNT, GLB_VF_VIOL.OVF, GLB_VF_VIOL.LAST_VF]

def GLB_ID.VENDOR : Fld := { fid := 17, addr := 0x0, w := 16, acc := .ro }
def GLB_ID.FAMILY : Fld := { fid := 18, addr := 0x0, lo := 16, w := 8, acc := .ro, reset := 0x1 }
def GLB_ID.DIE : Fld := { fid := 19, addr := 0x0, lo := 24, w := 16, acc := .ro, reset := 0x9240 }
def GLB_ID.METAL : Fld := { fid := 20, addr := 0x0, lo := 40, w := 4, acc := .ro }
def GLB_ID.BASE : Fld := { fid := 21, addr := 0x0, lo := 44, w := 4, acc := .ro }
def GLB_ID.VARIANT : Fld := { fid := 22, addr := 0x0, lo := 48, w := 8, acc := .ro, reset := 0xFF }
/-- The fields of GLB_ID (spec chapter 02). -/
def GLB_ID.fields : List Fld := [GLB_ID.VENDOR, GLB_ID.FAMILY, GLB_ID.DIE, GLB_ID.METAL, GLB_ID.BASE, GLB_ID.VARIANT]

def GLB_REV.IFACE_REV : Fld := { fid := 23, addr := 0x8, w := 16, acc := .ro, reset := 0x1 }
def GLB_REV.FW_REV : Fld := { fid := 24, addr := 0x8, lo := 16, w := 16, acc := .ro }
/-- The fields of GLB_REV (spec chapter 02). -/
def GLB_REV.fields : List Fld := [GLB_REV.IFACE_REV, GLB_REV.FW_REV]

def GLB_UID_LO.UID : Fld := { fid := 25, addr := 0x10, w := 64, acc := .ro }
/-- The fields of GLB_UID_LO (spec chapter 02). -/
def GLB_UID_LO.fields : List Fld := [GLB_UID_LO.UID]

def GLB_UID_HI.UID : Fld := { fid := 26, addr := 0x18, w := 64, acc := .ro }
/-- The fields of GLB_UID_HI (spec chapter 02). -/
def GLB_UID_HI.fields : List Fld := [GLB_UID_HI.UID]

def GLB_DEVNUM.DEV_ID : Fld := { fid := 27, addr := 0x20, w := 2, acc := .ro }
def GLB_DEVNUM.MANAGER : Fld := { fid := 28, addr := 0x20, lo := 2, w := 1, acc := .ro, reset := 0x1 }
/-- The fields of GLB_DEVNUM (spec chapter 02). -/
def GLB_DEVNUM.fields : List Fld := [GLB_DEVNUM.DEV_ID, GLB_DEVNUM.MANAGER]

def FE_PART.CLUSTERS : Fld := { fid := 29, addr := 0x310000, s1 := 0x80, n := 8, w := 48, acc := .rw, staged := true }
def FE_PART.LOOMS : Fld := { fid := 30, addr := 0x310008, s1 := 0x80, n := 8, w := 12, acc := .rw, staged := true }
def FE_PART.PIPES : Fld := { fid := 31, addr := 0x310008, s1 := 0x80, n := 8, lo := 16, w := 4, acc := .rw, staged := true }
def FE_PART.LOOM_SHARE : Fld := { fid := 32, addr := 0x310008, s1 := 0x80, n := 8, lo := 24, w := 1, acc := .rw, staged := true }
def FE_PART.EN : Fld := { fid := 33, addr := 0x310008, s1 := 0x80, n := 8, lo := 31, w := 1, acc := .rw, staged := true }
def FE_PART.L2_WAYS : Fld := { fid := 34, addr := 0x310010, s1 := 0x80, n := 8, w := 16, acc := .rw, staged := true }
def FE_PART.CRD_QUOTA : Fld := { fid := 35, addr := 0x310010, s1 := 0x80, n := 8, lo := 16, w := 9, acc := .rw, staged := true }
def FE_PART.TLY_BASE : Fld := { fid := 36, addr := 0x310018, s1 := 0x80, n := 8, w := 7, acc := .rw, staged := true }
def FE_PART.TLY_COUNT : Fld := { fid := 37, addr := 0x310018, s1 := 0x80, n := 8, lo := 16, w := 8, acc := .rw, staged := true }
def FE_PART.HBM_BASE : Fld := { fid := 38, addr := 0x310020, s1 := 0x80, s2 := 0x8, n2 := 4, n := 32, w := 16, acc := .rw, staged := true }
def FE_PART.HBM_SIZE : Fld := { fid := 39, addr := 0x310020, s1 := 0x80, s2 := 0x8, n2 := 4, n := 32, lo := 32, w := 16, acc := .rw, staged := true }
def FE_PART.CLEARING : Fld := { fid := 40, addr := 0x310040, s1 := 0x80, n := 8, w := 1, acc := .ro }
def FE_PART.CTX_ACTIVE : Fld := { fid := 41, addr := 0x310040, s1 := 0x80, n := 8, lo := 1, w := 11, acc := .ro }
/-- The fields of FE_PART (spec chapter 03). -/
def FE_PART.fields : List Fld := [FE_PART.CLUSTERS, FE_PART.LOOMS, FE_PART.PIPES, FE_PART.LOOM_SHARE, FE_PART.EN, FE_PART.L2_WAYS, FE_PART.CRD_QUOTA, FE_PART.TLY_BASE, FE_PART.TLY_COUNT, FE_PART.HBM_BASE, FE_PART.HBM_SIZE, FE_PART.CLEARING, FE_PART.CTX_ACTIVE]

def FE_CTX.EN : Fld := { fid := 42, addr := 0x320000, s1 := 0x10, n := 1024, w := 1, acc := .rw }
def FE_CTX.PART : Fld := { fid := 43, addr := 0x320000, s1 := 0x10, n := 1024, lo := 1, w := 3, acc := .rw }
def FE_CTX.STATE : Fld := { fid := 44, addr := 0x320000, s1 := 0x10, n := 1024, lo := 8, w := 2, acc := .ro }
def FE_CTX.FAULT_CODE : Fld := { fid := 45, addr := 0x320000, s1 := 0x10, n := 1024, lo := 16, w := 8, acc := .ro }
def FE_CTX.INCIDENT : Fld := { fid := 46, addr := 0x320000, s1 := 0x10, n := 1024, lo := 32, w := 32, acc := .ro }
def FE_CTX.PTBR : Fld := { fid := 47, addr := 0x320008, s1 := 0x10, n := 1024, lo := 12, w := 38, acc := .rw }
/-- The fields of FE_CTX (spec chapter 03). -/
def FE_CTX.fields : List Fld := [FE_CTX.EN, FE_CTX.PART, FE_CTX.STATE, FE_CTX.FAULT_CODE, FE_CTX.INCIDENT, FE_CTX.PTBR]

def FE_CLAIM.PA : Fld := { fid := 48, addr := 0x308000, lo := 12, w := 38, acc := .rw, staged := true }
def FE_CLAIM.PAGES : Fld := { fid := 49, addr := 0x308008, w := 36, acc := .rw, staged := true }
def FE_CLAIM.TALLY : Fld := { fid := 50, addr := 0x308010, w := 13, acc := .rw, staged := true }
def FE_CLAIM.CTX : Fld := { fid := 51, addr := 0x308010, lo := 16, w := 10, acc := .rw, staged := true }
def FE_CLAIM.VALUE : Fld := { fid := 52, addr := 0x308018, w := 64, acc := .rw, staged := true }
def FE_CLAIM.GO : Fld := { fid := 53, addr := 0x308020, w := 1, acc := .wo }
def FE_CLAIM.BUSY : Fld := { fid := 54, addr := 0x308020, lo := 1, w := 1, acc := .ro }
def FE_CLAIM.CLAIMED : Fld := { fid := 55, addr := 0x308028, w := 64, acc := .ro, ctr := true }
/-- The fields of FE_CLAIM (spec chapter 03). -/
def FE_CLAIM.fields : List Fld := [FE_CLAIM.PA, FE_CLAIM.PAGES, FE_CLAIM.TALLY, FE_CLAIM.CTX, FE_CLAIM.VALUE, FE_CLAIM.GO, FE_CLAIM.BUSY, FE_CLAIM.CLAIMED]

def FE_CHN.HEAP_PA : Fld := { fid := 56, addr := 0x310800, s1 := 0x40, n := 8, lo := 16, w := 34, acc := .rw, staged := true }
def FE_CHN.HEAP_VA : Fld := { fid := 57, addr := 0x310808, s1 := 0x40, n := 8, lo := 16, w := 32, acc := .rw, staged := true }
def FE_CHN.HEAP_BLOCKS : Fld := { fid := 58, addr := 0x310810, s1 := 0x40, n := 8, w := 24, acc := .rw, staged := true }
def FE_CHN.RETIRE_TALLY : Fld := { fid := 59, addr := 0x310810, s1 := 0x40, n := 8, lo := 32, w := 13, acc := .rw, staged := true }
def FE_CHN.FREE_SEQ : Fld := { fid := 60, addr := 0x310818, s1 := 0x40, n := 8, w := 64, acc := .ro }
def FE_CHN.EXHAUSTED : Fld := { fid := 61, addr := 0x310820, s1 := 0x40, n := 8, w := 48, acc := .rw, ctr := true }
def FE_CHN.QUARANTINED : Fld := { fid := 62, addr := 0x310828, s1 := 0x40, n := 8, w := 24, acc := .ro }
def FE_CHN.FREE_BLOCKS : Fld := { fid := 63, addr := 0x310830, s1 := 0x40, n := 8, w := 24, acc := .ro }
/-- The fields of FE_CHN (spec chapter 03). -/
def FE_CHN.fields : List Fld := [FE_CHN.HEAP_PA, FE_CHN.HEAP_VA, FE_CHN.HEAP_BLOCKS, FE_CHN.RETIRE_TALLY, FE_CHN.FREE_SEQ, FE_CHN.EXHAUSTED, FE_CHN.QUARANTINED, FE_CHN.FREE_BLOCKS]

def FE_STATUS.IDLE : Fld := { fid := 64, addr := 0x300000, w := 5, acc := .ro, reset := 0x1F }
/-- The fields of FE_STATUS (spec chapter 04). -/
def FE_STATUS.fields : List Fld := [FE_STATUS.IDLE]

def FE_DB_DROP.COUNT : Fld := { fid := 65, addr := 0x300008, w := 48, acc := .rw, ctr := true, ovf := some (66, 0) }
def FE_DB_DROP.OVF : Fld := { fid := 66, addr := 0x300008, lo := 48, w := 1, acc := .w1c }
/-- The fields of FE_DB_DROP (spec chapter 04). -/
def FE_DB_DROP.fields : List Fld := [FE_DB_DROP.COUNT, FE_DB_DROP.OVF]

def FE_Q.EN : Fld := { fid := 67, addr := 0x340000, s1 := 0x40, n := 2048, w := 1, acc := .rw }
def FE_Q.STATE : Fld := { fid := 68, addr := 0x340000, s1 := 0x40, n := 2048, lo := 1, w := 2, acc := .ro }
def FE_Q.DB_PENDING : Fld := { fid := 69, addr := 0x340000, s1 := 0x40, n := 2048, lo := 3, w := 1, acc := .ro }
def FE_Q.CLASS : Fld := { fid := 70, addr := 0x340000, s1 := 0x40, n := 2048, lo := 4, w := 3, acc := .rw, staged := true }
def FE_Q.PRIO : Fld := { fid := 71, addr := 0x340000, s1 := 0x40, n := 2048, lo := 7, w := 2, acc := .rw, staged := true, reset := 0x1 }
def FE_Q.CTX : Fld := { fid := 72, addr := 0x340000, s1 := 0x40, n := 2048, lo := 16, w := 10, acc := .rw, staged := true }
def FE_Q.SLOT : Fld := { fid := 73, addr := 0x340000, s1 := 0x40, n := 2048, lo := 26, w := 6, acc := .rw, staged := true }
def FE_Q.LOG2_SIZE : Fld := { fid := 74, addr := 0x340000, s1 := 0x40, n := 2048, lo := 32, w := 5, acc := .rw, staged := true, reset := 0x4 }
def FE_Q.FAULT_CODE : Fld := { fid := 75, addr := 0x340000, s1 := 0x40, n := 2048, lo := 40, w := 8, acc := .ro }
def FE_Q.TSLICE : Fld := { fid := 76, addr := 0x340000, s1 := 0x40, n := 2048, lo := 48, w := 16, acc := .rw, staged := true, reset := 0x3E8 }
def FE_Q.RING_VA : Fld := { fid := 77, addr := 0x340008, s1 := 0x40, n := 2048, lo := 12, w := 36, acc := .rw, staged := true }
def FE_Q.CPL_EN : Fld := { fid := 78, addr := 0x340010, s1 := 0x40, n := 2048, w := 1, acc := .rw, staged := true }
def FE_Q.MSI_EN : Fld := { fid := 79, addr := 0x340010, s1 := 0x40, n := 2048, lo := 1, w := 1, acc := .rw, staged := true }
def FE_Q.CPL_VA : Fld := { fid := 80, addr := 0x340010, s1 := 0x40, n := 2048, lo := 3, w := 45, acc := .rw, staged := true }
def FE_Q.VECTOR : Fld := { fid := 81, addr := 0x340018, s1 := 0x40, n := 2048, w := 11, acc := .rw, staged := true }
def FE_Q.SEQ_INIT : Fld := { fid := 82, addr := 0x340020, s1 := 0x40, n := 2048, w := 64, acc := .rw, staged := true, reset := 0x1 }
def FE_Q.RPTR : Fld := { fid := 83, addr := 0x340028, s1 := 0x40, n := 2048, w := 16, acc := .ro }
def FE_Q.WPTR : Fld := { fid := 84, addr := 0x340028, s1 := 0x40, n := 2048, lo := 16, w := 16, acc := .ro }
def FE_Q.RPTR_INIT : Fld := { fid := 85, addr := 0x340028, s1 := 0x40, n := 2048, lo := 32, w := 16, acc := .rw, staged := true }
def FE_Q.COMPLETED : Fld := { fid := 86, addr := 0x340030, s1 := 0x40, n := 2048, w := 64, acc := .ro }
def FE_Q.FAULT_SEQ : Fld := { fid := 87, addr := 0x340038, s1 := 0x40, n := 2048, w := 64, acc := .ro }
/-- The fields of FE_Q (spec chapter 04). -/
def FE_Q.fields : List Fld := [FE_Q.EN, FE_Q.STATE, FE_Q.DB_PENDING, FE_Q.CLASS, FE_Q.PRIO, FE_Q.CTX, FE_Q.SLOT, FE_Q.LOG2_SIZE, FE_Q.FAULT_CODE, FE_Q.TSLICE, FE_Q.RING_VA, FE_Q.CPL_EN, FE_Q.MSI_EN, FE_Q.CPL_VA, FE_Q.VECTOR, FE_Q.SEQ_INIT, FE_Q.RPTR, FE_Q.WPTR, FE_Q.RPTR_INIT, FE_Q.COMPLETED, FE_Q.FAULT_SEQ]

def FE_FETCH.READY : Fld := { fid := 88, addr := 0x301000, s1 := 0x40, n := 5, w := 12, acc := .ro }
def FE_FETCH.BLOCKED : Fld := { fid := 89, addr := 0x301000, s1 := 0x40, n := 5, lo := 16, w := 12, acc := .ro }
def FE_FETCH.ENTRIES : Fld := { fid := 90, addr := 0x301008, s1 := 0x40, n := 5, w := 64, acc := .rw, ctr := true, ovf := some (94, 0) }
def FE_FETCH.PACKETS : Fld := { fid := 91, addr := 0x301010, s1 := 0x40, n := 5, w := 64, acc := .rw, ctr := true, ovf := some (94, 1) }
def FE_FETCH.EXTRA_PASS : Fld := { fid := 92, addr := 0x301018, s1 := 0x40, n := 5, w := 48, acc := .rw, ctr := true, ovf := some (94, 2) }
def FE_FETCH.POLL_FALLBACK : Fld := { fid := 93, addr := 0x301020, s1 := 0x40, n := 5, w := 48, acc := .rw, ctr := true, ovf := some (94, 3) }
def FE_FETCH.OVF : Fld := { fid := 94, addr := 0x301028, s1 := 0x40, n := 5, w := 4, acc := .w1c }
def FE_FETCH.CLR : Fld := { fid := 95, addr := 0x301028, s1 := 0x40, n := 5, lo := 8, w := 1, acc := .wo }
/-- The fields of FE_FETCH (spec chapter 04). -/
def FE_FETCH.fields : List Fld := [FE_FETCH.READY, FE_FETCH.BLOCKED, FE_FETCH.ENTRIES, FE_FETCH.PACKETS, FE_FETCH.EXTRA_PASS, FE_FETCH.POLL_FALLBACK, FE_FETCH.OVF, FE_FETCH.CLR]

def TLY_SLOT.VALUE : Fld := { fid := 96, addr := 0x10000000, s1 := 0x40, n := 8192, w := 64, acc := .ro }
def TLY_SLOT.SIGNAL : Fld := { fid := 97, addr := 0x10000008, s1 := 0x40, n := 8192, w := 64, acc := .wo }
def TLY_SLOT.REGRESS : Fld := { fid := 98, addr := 0x10000010, s1 := 0x40, n := 8192, w := 48, acc := .rw, ctr := true, ovf := some (99, 0) }
def TLY_SLOT.OVF : Fld := { fid := 99, addr := 0x10000010, s1 := 0x40, n := 8192, lo := 48, w := 1, acc := .w1c }
def TLY_SLOT.POISONED : Fld := { fid := 100, addr := 0x10000018, s1 := 0x40, n := 8192, w := 1, acc := .ro }
def TLY_SLOT.EXPORTED : Fld := { fid := 101, addr := 0x10000018, s1 := 0x40, n := 8192, lo := 1, w := 1, acc := .ro }
def TLY_SLOT.WAITERS : Fld := { fid := 102, addr := 0x10000018, s1 := 0x40, n := 8192, lo := 16, w := 15, acc := .ro }
def TLY_SLOT.POLLING : Fld := { fid := 103, addr := 0x10000018, s1 := 0x40, n := 8192, lo := 31, w := 1, acc := .ro }
def TLY_SLOT.LAST_REGRESS : Fld := { fid := 104, addr := 0x10000020, s1 := 0x40, n := 8192, w := 64, acc := .ro }
/-- The fields of TLY_SLOT (spec chapter 05). -/
def TLY_SLOT.fields : List Fld := [TLY_SLOT.VALUE, TLY_SLOT.SIGNAL, TLY_SLOT.REGRESS, TLY_SLOT.OVF, TLY_SLOT.POISONED, TLY_SLOT.EXPORTED, TLY_SLOT.WAITERS, TLY_SLOT.POLLING, TLY_SLOT.LAST_REGRESS]

def TLY_POOL.FREE : Fld := { fid := 105, addr := 0x500000, w := 15, acc := .ro, reset := 0x4000 }
def TLY_POOL.LOW_WATER : Fld := { fid := 106, addr := 0x500000, lo := 16, w := 15, acc := .ro, reset := 0x4000 }
def TLY_POOL.LW_CLR : Fld := { fid := 107, addr := 0x500000, lo := 31, w := 1, acc := .wo }
/-- The fields of TLY_POOL (spec chapter 05). -/
def TLY_POOL.fields : List Fld := [TLY_POOL.FREE, TLY_POOL.LOW_WATER, TLY_POOL.LW_CLR]

def TLY_FALLBACK.COUNT : Fld := { fid := 108, addr := 0x500008, w := 48, acc := .rw, ctr := true, ovf := some (109, 0) }
def TLY_FALLBACK.OVF : Fld := { fid := 109, addr := 0x500008, lo := 48, w := 1, acc := .w1c }
/-- The fields of TLY_FALLBACK (spec chapter 05). -/
def TLY_FALLBACK.fields : List Fld := [TLY_FALLBACK.COUNT, TLY_FALLBACK.OVF]

def TLY_EXP_ERR.COUNT : Fld := { fid := 110, addr := 0x500010, w := 48, acc := .rw, ctr := true, ovf := some (111, 0) }
def TLY_EXP_ERR.OVF : Fld := { fid := 111, addr := 0x500010, lo := 48, w := 1, acc := .w1c }
/-- The fields of TLY_EXP_ERR (spec chapter 05). -/
def TLY_EXP_ERR.fields : List Fld := [TLY_EXP_ERR.COUNT, TLY_EXP_ERR.OVF]

def TLY_INIT.TALLY : Fld := { fid := 112, addr := 0x500100, w := 13, acc := .rw, staged := true }
def TLY_INIT.VALUE : Fld := { fid := 113, addr := 0x500108, w := 64, acc := .rw, staged := true }
def TLY_INIT.GO : Fld := { fid := 114, addr := 0x500110, w := 1, acc := .wo }
/-- The fields of TLY_INIT (spec chapter 05). -/
def TLY_INIT.fields : List Fld := [TLY_INIT.TALLY, TLY_INIT.VALUE, TLY_INIT.GO]

def TLY_EXP.EN : Fld := { fid := 115, addr := 0x520000, s1 := 0x10, n := 8192, w := 1, acc := .rw, staged := true }
def TLY_EXP.MSI_EN : Fld := { fid := 116, addr := 0x520000, s1 := 0x10, n := 8192, lo := 1, w := 1, acc := .rw, staged := true }
def TLY_EXP.PA : Fld := { fid := 117, addr := 0x520000, s1 := 0x10, n := 8192, lo := 3, w := 47, acc := .rw, staged := true }
def TLY_EXP.VECTOR : Fld := { fid := 118, addr := 0x520008, s1 := 0x10, n := 8192, w := 11, acc := .rw, staged := true }
/-- The fields of TLY_EXP (spec chapter 05). -/
def TLY_EXP.fields : List Fld := [TLY_EXP.EN, TLY_EXP.MSI_EN, TLY_EXP.PA, TLY_EXP.VECTOR]

def FE_PAT.EN : Fld := { fid := 119, addr := 0x360000, s1 := 0x40, n := 1024, w := 1, acc := .rw, staged := true }
def FE_PAT.CTX : Fld := { fid := 120, addr := 0x360000, s1 := 0x40, n := 1024, lo := 16, w := 10, acc := .rw, staged := true }
def FE_PAT.DESC_VA : Fld := { fid := 121, addr := 0x360008, s1 := 0x40, n := 1024, lo := 6, w := 42, acc := .rw, staged := true }
def FE_PAT.RET_TALLY : Fld := { fid := 122, addr := 0x360010, s1 := 0x40, n := 1024, w := 13, acc := .rw, staged := true }
def FE_PAT.STATUS_VA : Fld := { fid := 123, addr := 0x360018, s1 := 0x40, n := 1024, lo := 6, w := 42, acc := .rw, staged := true }
def FE_PAT.REV : Fld := { fid := 124, addr := 0x360020, s1 := 0x40, n := 1024, w := 64, acc := .ro }
def FE_PAT.INUSE : Fld := { fid := 125, addr := 0x360028, s1 := 0x40, n := 1024, w := 3, acc := .ro }
def FE_PAT.LAUNCHES : Fld := { fid := 126, addr := 0x360030, s1 := 0x40, n := 1024, w := 64, acc := .rw, ctr := true }
def FE_PAT.BUSY_REFUSED : Fld := { fid := 127, addr := 0x360038, s1 := 0x40, n := 1024, w := 48, acc := .rw, ctr := true }
/-- The fields of FE_PAT (spec chapter 05). -/
def FE_PAT.fields : List Fld := [FE_PAT.EN, FE_PAT.CTX, FE_PAT.DESC_VA, FE_PAT.RET_TALLY, FE_PAT.STATUS_VA, FE_PAT.REV, FE_PAT.INUSE, FE_PAT.LAUNCHES, FE_PAT.BUSY_REFUSED]

def FE_PAT_EDIT.PATTERN : Fld := { fid := 128, addr := 0x370000, w := 10, acc := .rw, staged := true }
def FE_PAT_EDIT.DESC_VA : Fld := { fid := 129, addr := 0x370008, lo := 6, w := 42, acc := .rw, staged := true }
def FE_PAT_EDIT.GO : Fld := { fid := 130, addr := 0x370010, w := 1, acc := .wo }
def FE_PAT_EDIT.RESULT : Fld := { fid := 131, addr := 0x370010, lo := 1, w := 2, acc := .ro }
/-- The fields of FE_PAT_EDIT (spec chapter 05). -/
def FE_PAT_EDIT.fields : List Fld := [FE_PAT_EDIT.PATTERN, FE_PAT_EDIT.DESC_VA, FE_PAT_EDIT.GO, FE_PAT_EDIT.RESULT]

def MMU_STATUS.WALKS : Fld := { fid := 132, addr := 0x400000, w := 6, acc := .ro }
def MMU_STATUS.INV_BUSY : Fld := { fid := 133, addr := 0x400000, lo := 8, w := 1, acc := .ro }
def MMU_STATUS.INV_FULL : Fld := { fid := 134, addr := 0x400000, lo := 9, w := 1, acc := .ro }
def MMU_STATUS.INV_QUEUED : Fld := { fid := 135, addr := 0x400000, lo := 16, w := 5, acc := .ro }
/-- The fields of MMU_STATUS (spec chapter 06). -/
def MMU_STATUS.fields : List Fld := [MMU_STATUS.WALKS, MMU_STATUS.INV_BUSY, MMU_STATUS.INV_FULL, MMU_STATUS.INV_QUEUED]

def MMU_INV_TIMEOUT.US : Fld := { fid := 136, addr := 0x400008, w := 14, acc := .rw, reset := 0x64 }
/-- The fields of MMU_INV_TIMEOUT (spec chapter 06). -/
def MMU_INV_TIMEOUT.fields : List Fld := [MMU_INV_TIMEOUT.US]

def MMU_INV_ACKMASK.MASK : Fld := { fid := 137, addr := 0x400010, w := 64, acc := .ro }
/-- The fields of MMU_INV_ACKMASK (spec chapter 06). -/
def MMU_INV_ACKMASK.fields : List Fld := [MMU_INV_ACKMASK.MASK]

def MMU_INV_ACKED.MASK : Fld := { fid := 138, addr := 0x400018, w := 64, acc := .ro }
/-- The fields of MMU_INV_ACKED (spec chapter 06). -/
def MMU_INV_ACKED.fields : List Fld := [MMU_INV_ACKED.MASK]

def MMU_INV_REQ.SCOPE : Fld := { fid := 139, addr := 0x400100, w := 2, acc := .rw, staged := true }
def MMU_INV_REQ.PART : Fld := { fid := 140, addr := 0x400100, lo := 2, w := 3, acc := .rw, staged := true }
def MMU_INV_REQ.CTX : Fld := { fid := 141, addr := 0x400100, lo := 16, w := 10, acc := .rw, staged := true }
def MMU_INV_REQ.VA_BASE : Fld := { fid := 142, addr := 0x400108, lo := 12, w := 36, acc := .rw, staged := true }
def MMU_INV_REQ.PAGES : Fld := { fid := 143, addr := 0x400110, w := 36, acc := .rw, staged := true }
def MMU_INV_REQ.TALLY : Fld := { fid := 144, addr := 0x400118, w := 13, acc := .rw, staged := true }
def MMU_INV_REQ.TALLY_EN : Fld := { fid := 145, addr := 0x400118, lo := 16, w := 1, acc := .rw, staged := true }
def MMU_INV_REQ.VALUE : Fld := { fid := 146, addr := 0x400120, w := 64, acc := .rw, staged := true }
def MMU_INV_REQ.GO : Fld := { fid := 147, addr := 0x400128, w := 1, acc := .wo }
def MMU_INV_REQ.TICKET : Fld := { fid := 148, addr := 0x400130, w := 64, acc := .ro }
/-- The fields of MMU_INV_REQ (spec chapter 06). -/
def MMU_INV_REQ.fields : List Fld := [MMU_INV_REQ.SCOPE, MMU_INV_REQ.PART, MMU_INV_REQ.CTX, MMU_INV_REQ.VA_BASE, MMU_INV_REQ.PAGES, MMU_INV_REQ.TALLY, MMU_INV_REQ.TALLY_EN, MMU_INV_REQ.VALUE, MMU_INV_REQ.GO, MMU_INV_REQ.TICKET]

def MMU_INV_DONE.TICKET : Fld := { fid := 149, addr := 0x400140, w := 64, acc := .ro }
/-- The fields of MMU_INV_DONE (spec chapter 06). -/
def MMU_INV_DONE.fields : List Fld := [MMU_INV_DONE.TICKET]

def MMU_PTE_WR.PA : Fld := { fid := 150, addr := 0x400200, lo := 3, w := 45, acc := .rw, staged := true }
def MMU_PTE_WR.VALUE : Fld := { fid := 151, addr := 0x400208, w := 64, acc := .rw, staged := true }
def MMU_PTE_WR.GO : Fld := { fid := 152, addr := 0x400210, w := 1, acc := .wo }
def MMU_PTE_WR.BUSY : Fld := { fid := 153, addr := 0x400210, lo := 1, w := 1, acc := .ro }
/-- The fields of MMU_PTE_WR (spec chapter 06). -/
def MMU_PTE_WR.fields : List Fld := [MMU_PTE_WR.PA, MMU_PTE_WR.VALUE, MMU_PTE_WR.GO, MMU_PTE_WR.BUSY]

def MMU_CTR.WALKS : Fld := { fid := 154, addr := 0x400300, w := 64, acc := .rw, ctr := true, ovf := some (158, 0) }
def MMU_CTR.CONTIG_MISMATCH : Fld := { fid := 155, addr := 0x400308, w := 48, acc := .rw, ctr := true, ovf := some (158, 1) }
def MMU_CTR.FAULT_SUPPRESSED : Fld := { fid := 156, addr := 0x400310, w := 48, acc := .rw, ctr := true, ovf := some (158, 2) }
def MMU_CTR.INV_TIMEOUTS : Fld := { fid := 157, addr := 0x400318, w := 48, acc := .rw, ctr := true, ovf := some (158, 3) }
def MMU_CTR.OVF : Fld := { fid := 158, addr := 0x400320, w := 4, acc := .w1c }
def MMU_CTR.CLR : Fld := { fid := 159, addr := 0x400320, lo := 8, w := 1, acc := .wo }
/-- The fields of MMU_CTR (spec chapter 06). -/
def MMU_CTR.fields : List Fld := [MMU_CTR.WALKS, MMU_CTR.CONTIG_MISMATCH, MMU_CTR.FAULT_SUPPRESSED, MMU_CTR.INV_TIMEOUTS, MMU_CTR.OVF, MMU_CTR.CLR]

def MMU_FAULT_WPTR.WPTR : Fld := { fid := 160, addr := 0x400400, w := 16, acc := .ro }
/-- The fields of MMU_FAULT_WPTR (spec chapter 06). -/
def MMU_FAULT_WPTR.fields : List Fld := [MMU_FAULT_WPTR.WPTR]

def SCL_STATUS.GROUPS0 : Fld := { fid := 161, addr := 0x800000, s1 := 0x10000, n := 48, w := 6, acc := .ro }
def SCL_STATUS.SPLIT0 : Fld := { fid := 162, addr := 0x800000, s1 := 0x10000, n := 48, lo := 6, w := 2, acc := .ro }
def SCL_STATUS.WGS0 : Fld := { fid := 163, addr := 0x800000, s1 := 0x10000, n := 48, lo := 8, w := 6, acc := .ro }
def SCL_STATUS.HALTED0 : Fld := { fid := 164, addr := 0x800000, s1 := 0x10000, n := 48, lo := 14, w := 1, acc := .ro }
def SCL_STATUS.GROUPS1 : Fld := { fid := 165, addr := 0x800000, s1 := 0x10000, n := 48, lo := 16, w := 6, acc := .ro }
def SCL_STATUS.SPLIT1 : Fld := { fid := 166, addr := 0x800000, s1 := 0x10000, n := 48, lo := 22, w := 2, acc := .ro }
def SCL_STATUS.WGS1 : Fld := { fid := 167, addr := 0x800000, s1 := 0x10000, n := 48, lo := 24, w := 6, acc := .ro }
def SCL_STATUS.HALTED1 : Fld := { fid := 168, addr := 0x800000, s1 := 0x10000, n := 48, lo := 30, w := 1, acc := .ro }
def SCL_STATUS.GROUPS2 : Fld := { fid := 169, addr := 0x800000, s1 := 0x10000, n := 48, lo := 32, w := 6, acc := .ro }
def SCL_STATUS.SPLIT2 : Fld := { fid := 170, addr := 0x800000, s1 := 0x10000, n := 48, lo := 38, w := 2, acc := .ro }
def SCL_STATUS.WGS2 : Fld := { fid := 171, addr := 0x800000, s1 := 0x10000, n := 48, lo := 40, w := 6, acc := .ro }
def SCL_STATUS.HALTED2 : Fld := { fid := 172, addr := 0x800000, s1 := 0x10000, n := 48, lo := 46, w := 1, acc := .ro }
def SCL_STATUS.GROUPS3 : Fld := { fid := 173, addr := 0x800000, s1 := 0x10000, n := 48, lo := 48, w := 6, acc := .ro }
def SCL_STATUS.SPLIT3 : Fld := { fid := 174, addr := 0x800000, s1 := 0x10000, n := 48, lo := 54, w := 2, acc := .ro }
def SCL_STATUS.WGS3 : Fld := { fid := 175, addr := 0x800000, s1 := 0x10000, n := 48, lo := 56, w := 6, acc := .ro }
def SCL_STATUS.HALTED3 : Fld := { fid := 176, addr := 0x800000, s1 := 0x10000, n := 48, lo := 62, w := 1, acc := .ro }
/-- The fields of SCL_STATUS (spec chapter 07). -/
def SCL_STATUS.fields : List Fld := [SCL_STATUS.GROUPS0, SCL_STATUS.SPLIT0, SCL_STATUS.WGS0, SCL_STATUS.HALTED0, SCL_STATUS.GROUPS1, SCL_STATUS.SPLIT1, SCL_STATUS.WGS1, SCL_STATUS.HALTED1, SCL_STATUS.GROUPS2, SCL_STATUS.SPLIT2, SCL_STATUS.WGS2, SCL_STATUS.HALTED2, SCL_STATUS.GROUPS3, SCL_STATUS.SPLIT3, SCL_STATUS.WGS3, SCL_STATUS.HALTED3]

def SCL_CTR.ISSUED : Fld := { fid := 177, addr := 0x800100, s1 := 0x10000, n := 48, w := 64, acc := .rw, ctr := true, ovf := some (181, 0) }
def SCL_CTR.DUAL : Fld := { fid := 178, addr := 0x800108, s1 := 0x10000, n := 48, w := 64, acc := .rw, ctr := true, ovf := some (181, 1) }
def SCL_CTR.TRAPS : Fld := { fid := 179, addr := 0x800110, s1 := 0x10000, n := 48, w := 48, acc := .rw, ctr := true, ovf := some (181, 2) }
def SCL_CTR.PLACE_STALL : Fld := { fid := 180, addr := 0x800118, s1 := 0x10000, n := 48, w := 64, acc := .rw, ctr := true, ovf := some (181, 3) }
def SCL_CTR.OVF : Fld := { fid := 181, addr := 0x800120, s1 := 0x10000, n := 48, w := 4, acc := .w1c }
def SCL_CTR.CLR : Fld := { fid := 182, addr := 0x800120, s1 := 0x10000, n := 48, lo := 8, w := 1, acc := .wo }
/-- The fields of SCL_CTR (spec chapter 07). -/
def SCL_CTR.fields : List Fld := [SCL_CTR.ISSUED, SCL_CTR.DUAL, SCL_CTR.TRAPS, SCL_CTR.PLACE_STALL, SCL_CTR.OVF, SCL_CTR.CLR]

def LOOM_STATUS.BUSY : Fld := { fid := 183, addr := 0x600000, s1 := 0x10000, n := 12, w := 1, acc := .ro }
def LOOM_STATUS.WAITING : Fld := { fid := 184, addr := 0x600000, s1 := 0x10000, n := 12, lo := 1, w := 1, acc := .ro }
def LOOM_STATUS.SAVED : Fld := { fid := 185, addr := 0x600000, s1 := 0x10000, n := 12, lo := 2, w := 1, acc := .ro }
def LOOM_STATUS.OWNED : Fld := { fid := 186, addr := 0x600000, s1 := 0x10000, n := 12, lo := 3, w := 1, acc := .ro }
def LOOM_STATUS.OWNER : Fld := { fid := 187, addr := 0x600000, s1 := 0x10000, n := 12, lo := 4, w := 10, acc := .ro }
def LOOM_STATUS.ACCEPTED : Fld := { fid := 188, addr := 0x600000, s1 := 0x10000, n := 12, lo := 16, w := 7, acc := .ro }
def LOOM_STATUS.THREAD_HELD : Fld := { fid := 189, addr := 0x600000, s1 := 0x10000, n := 12, lo := 24, w := 6, acc := .ro }
/-- The fields of LOOM_STATUS (spec chapter 10). -/
def LOOM_STATUS.fields : List Fld := [LOOM_STATUS.BUSY, LOOM_STATUS.WAITING, LOOM_STATUS.SAVED, LOOM_STATUS.OWNED, LOOM_STATUS.OWNER, LOOM_STATUS.ACCEPTED, LOOM_STATUS.THREAD_HELD]

def LOOM_FLAGS.FLUSHED : Fld := { fid := 190, addr := 0x600008, s1 := 0x10000, n := 12, w := 1, acc := .w1c }
def LOOM_FLAGS.SATURATED : Fld := { fid := 191, addr := 0x600008, s1 := 0x10000, n := 12, lo := 1, w := 1, acc := .w1c }
def LOOM_FLAGS.POISON_SKIP : Fld := { fid := 192, addr := 0x600008, s1 := 0x10000, n := 12, lo := 2, w := 1, acc := .w1c }
/-- The fields of LOOM_FLAGS (spec chapter 10). -/
def LOOM_FLAGS.fields : List Fld := [LOOM_FLAGS.FLUSHED, LOOM_FLAGS.SATURATED, LOOM_FLAGS.POISON_SKIP]

def LOOM_RELEASE.GO : Fld := { fid := 193, addr := 0x600010, s1 := 0x10000, n := 12, w := 1, acc := .wo }
def LOOM_RELEASE.CLEARING : Fld := { fid := 194, addr := 0x600010, s1 := 0x10000, n := 12, lo := 1, w := 1, acc := .ro }
/-- The fields of LOOM_RELEASE (spec chapter 10). -/
def LOOM_RELEASE.fields : List Fld := [LOOM_RELEASE.GO, LOOM_RELEASE.CLEARING]

def LOOM_SAVE.SAVE_PA : Fld := { fid := 195, addr := 0x600018, s1 := 0x10000, n := 12, lo := 12, w := 38, acc := .rw, staged := true }
/-- The fields of LOOM_SAVE (spec chapter 10). -/
def LOOM_SAVE.fields : List Fld := [LOOM_SAVE.SAVE_PA]

def LOOM_CUR.DRAFT_VA : Fld := { fid := 196, addr := 0x600020, s1 := 0x10000, n := 12, w := 48, acc := .ro }
def LOOM_CUR.CTX : Fld := { fid := 197, addr := 0x600028, s1 := 0x10000, n := 12, w := 10, acc := .ro }
def LOOM_CUR.NTILE : Fld := { fid := 198, addr := 0x600028, s1 := 0x10000, n := 12, lo := 16, w := 8, acc := .ro }
def LOOM_CUR.SLICE : Fld := { fid := 199, addr := 0x600028, s1 := 0x10000, n := 12, lo := 24, w := 8, acc := .ro }
def LOOM_CUR.BLOCK : Fld := { fid := 200, addr := 0x600028, s1 := 0x10000, n := 12, lo := 32, w := 24, acc := .ro }
/-- The fields of LOOM_CUR (spec chapter 10). -/
def LOOM_CUR.fields : List Fld := [LOOM_CUR.DRAFT_VA, LOOM_CUR.CTX, LOOM_CUR.NTILE, LOOM_CUR.SLICE, LOOM_CUR.BLOCK]

def LOOM_CTR.BUSY_CLOCKS : Fld := { fid := 201, addr := 0x600100, s1 := 0x10000, n := 12, w := 64, acc := .rw, ctr := true, ovf := some (208, 0) }
def LOOM_CTR.DRAFTS : Fld := { fid := 202, addr := 0x600108, s1 := 0x10000, n := 12, w := 64, acc := .rw, ctr := true, ovf := some (208, 1) }
def LOOM_CTR.ROWS : Fld := { fid := 203, addr := 0x600110, s1 := 0x10000, n := 12, w := 64, acc := .rw, ctr := true, ovf := some (208, 2) }
def LOOM_CTR.WAIT_CLOCKS : Fld := { fid := 204, addr := 0x600118, s1 := 0x10000, n := 12, w := 64, acc := .rw, ctr := true, ovf := some (208, 3) }
def LOOM_CTR.SHUTTLE_STALL : Fld := { fid := 205, addr := 0x600120, s1 := 0x10000, n := 12, w := 64, acc := .rw, ctr := true, ovf := some (208, 4) }
def LOOM_CTR.SHUTTLE_IN : Fld := { fid := 206, addr := 0x600128, s1 := 0x10000, n := 12, w := 64, acc := .rw, ctr := true, ovf := some (208, 5) }
def LOOM_CTR.SHUTTLE_OUT : Fld := { fid := 207, addr := 0x600130, s1 := 0x10000, n := 12, w := 64, acc := .rw, ctr := true, ovf := some (208, 6) }
def LOOM_CTR.OVF : Fld := { fid := 208, addr := 0x600138, s1 := 0x10000, n := 12, w := 7, acc := .w1c }
def LOOM_CTR.CLR : Fld := { fid := 209, addr := 0x600138, s1 := 0x10000, n := 12, lo := 8, w := 1, acc := .wo }
/-- The fields of LOOM_CTR (spec chapter 10). -/
def LOOM_CTR.fields : List Fld := [LOOM_CTR.BUSY_CLOCKS, LOOM_CTR.DRAFTS, LOOM_CTR.ROWS, LOOM_CTR.WAIT_CLOCKS, LOOM_CTR.SHUTTLE_STALL, LOOM_CTR.SHUTTLE_IN, LOOM_CTR.SHUTTLE_OUT, LOOM_CTR.OVF, LOOM_CTR.CLR]

def LOOM_CHK_CFG.THETA_C : Fld := { fid := 210, addr := 0x602000, s1 := 0x10000, n := 12, w := 5, acc := .rw, staged := true, reset := 0xC }
def LOOM_CHK_CFG.THETA_W : Fld := { fid := 211, addr := 0x602000, s1 := 0x10000, n := 12, lo := 8, w := 5, acc := .rw, staged := true, reset := 0x14 }
def LOOM_CHK_CFG.THETA_R : Fld := { fid := 212, addr := 0x602000, s1 := 0x10000, n := 12, lo := 16, w := 5, acc := .rw, staged := true, reset := 0x15 }
def LOOM_CHK_CFG.RETRY_MAX : Fld := { fid := 213, addr := 0x602000, s1 := 0x10000, n := 12, lo := 24, w := 2, acc := .rw, staged := true, reset := 0x1 }
/-- The fields of LOOM_CHK_CFG (spec chapter 11). -/
def LOOM_CHK_CFG.fields : List Fld := [LOOM_CHK_CFG.THETA_C, LOOM_CHK_CFG.THETA_W, LOOM_CHK_CFG.THETA_R, LOOM_CHK_CFG.RETRY_MAX]

def LOOM_CHK_STATUS.TESTING : Fld := { fid := 214, addr := 0x602008, s1 := 0x10000, n := 12, w := 1, acc := .ro }
def LOOM_CHK_STATUS.RETRYING : Fld := { fid := 215, addr := 0x602008, s1 := 0x10000, n := 12, lo := 1, w := 1, acc := .ro }
def LOOM_CHK_STATUS.ESCALATED : Fld := { fid := 216, addr := 0x602008, s1 := 0x10000, n := 12, lo := 2, w := 1, acc := .w1c }
/-- The fields of LOOM_CHK_STATUS (spec chapter 11). -/
def LOOM_CHK_STATUS.fields : List Fld := [LOOM_CHK_STATUS.TESTING, LOOM_CHK_STATUS.RETRYING, LOOM_CHK_STATUS.ESCALATED]

def LOOM_CHK_LAST.KIND : Fld := { fid := 217, addr := 0x602010, s1 := 0x10000, n := 12, w := 2, acc := .ro }
def LOOM_CHK_LAST.PASS : Fld := { fid := 218, addr := 0x602010, s1 := 0x10000, n := 12, lo := 2, w := 2, acc := .ro }
def LOOM_CHK_LAST.SLICE : Fld := { fid := 219, addr := 0x602010, s1 := 0x10000, n := 12, lo := 8, w := 8, acc := .ro }
def LOOM_CHK_LAST.NTILE : Fld := { fid := 220, addr := 0x602010, s1 := 0x10000, n := 12, lo := 16, w := 8, acc := .ro }
def LOOM_CHK_LAST.BLOCK : Fld := { fid := 221, addr := 0x602010, s1 := 0x10000, n := 12, lo := 24, w := 24, acc := .ro }
def LOOM_CHK_LAST.CTX : Fld := { fid := 222, addr := 0x602010, s1 := 0x10000, n := 12, lo := 48, w := 10, acc := .ro }
def LOOM_CHK_LAST.ROW : Fld := { fid := 223, addr := 0x602018, s1 := 0x10000, n := 12, w := 9, acc := .ro }
def LOOM_CHK_LAST.ROW_VALID : Fld := { fid := 224, addr := 0x602018, s1 := 0x10000, n := 12, lo := 9, w := 1, acc := .ro }
def LOOM_CHK_LAST.COLUMN : Fld := { fid := 225, addr := 0x602018, s1 := 0x10000, n := 12, lo := 16, w := 8, acc := .ro }
def LOOM_CHK_LAST.COLUMN_VALID : Fld := { fid := 226, addr := 0x602018, s1 := 0x10000, n := 12, lo := 24, w := 1, acc := .ro }
def LOOM_CHK_LAST.DIFF : Fld := { fid := 227, addr := 0x602018, s1 := 0x10000, n := 12, lo := 32, w := 32, acc := .ro }
def LOOM_CHK_LAST.LIMIT : Fld := { fid := 228, addr := 0x602020, s1 := 0x10000, n := 12, w := 32, acc := .ro }
def LOOM_CHK_LAST.TIME : Fld := { fid := 229, addr := 0x602028, s1 := 0x10000, n := 12, w := 64, acc := .ro }
/-- The fields of LOOM_CHK_LAST (spec chapter 11). -/
def LOOM_CHK_LAST.fields : List Fld := [LOOM_CHK_LAST.KIND, LOOM_CHK_LAST.PASS, LOOM_CHK_LAST.SLICE, LOOM_CHK_LAST.NTILE, LOOM_CHK_LAST.BLOCK, LOOM_CHK_LAST.CTX, LOOM_CHK_LAST.ROW, LOOM_CHK_LAST.ROW_VALID, LOOM_CHK_LAST.COLUMN, LOOM_CHK_LAST.COLUMN_VALID, LOOM_CHK_LAST.DIFF, LOOM_CHK_LAST.LIMIT, LOOM_CHK_LAST.TIME]

def LOOM_CHK_CTR.CHUNKS : Fld := { fid := 230, addr := 0x602100, s1 := 0x10000, n := 12, w := 64, acc := .rw, ctr := true, ovf := some (234, 0) }
def LOOM_CHK_CTR.MISMATCH : Fld := { fid := 231, addr := 0x602108, s1 := 0x10000, n := 12, w := 48, acc := .rw, ctr := true, ovf := some (234, 1) }
def LOOM_CHK_CTR.RETRIES : Fld := { fid := 232, addr := 0x602110, s1 := 0x10000, n := 12, w := 48, acc := .rw, ctr := true, ovf := some (234, 2) }
def LOOM_CHK_CTR.ESCALATIONS : Fld := { fid := 233, addr := 0x602118, s1 := 0x10000, n := 12, w := 48, acc := .rw, ctr := true, ovf := some (234, 3) }
def LOOM_CHK_CTR.OVF : Fld := { fid := 234, addr := 0x602120, s1 := 0x10000, n := 12, w := 4, acc := .w1c }
def LOOM_CHK_CTR.CLR : Fld := { fid := 235, addr := 0x602120, s1 := 0x10000, n := 12, lo := 8, w := 1, acc := .wo }
/-- The fields of LOOM_CHK_CTR (spec chapter 11). -/
def LOOM_CHK_CTR.fields : List Fld := [LOOM_CHK_CTR.CHUNKS, LOOM_CHK_CTR.MISMATCH, LOOM_CHK_CTR.RETRIES, LOOM_CHK_CTR.ESCALATIONS, LOOM_CHK_CTR.OVF, LOOM_CHK_CTR.CLR]

def LOOM_STOP.REQ : Fld := { fid := 236, addr := 0x602800, s1 := 0x10000, n := 12, w := 1, acc := .wo }
def LOOM_STOP.FULL : Fld := { fid := 237, addr := 0x602800, s1 := 0x10000, n := 12, lo := 1, w := 1, acc := .wo }
def LOOM_STOP.RESTORE : Fld := { fid := 238, addr := 0x602800, s1 := 0x10000, n := 12, lo := 2, w := 1, acc := .wo }
def LOOM_STOP.STATE : Fld := { fid := 239, addr := 0x602800, s1 := 0x10000, n := 12, lo := 3, w := 3, acc := .ro }
def LOOM_STOP.RESULT : Fld := { fid := 240, addr := 0x602800, s1 := 0x10000, n := 12, lo := 6, w := 2, acc := .ro }
/-- The fields of LOOM_STOP (spec chapter 11). -/
def LOOM_STOP.fields : List Fld := [LOOM_STOP.REQ, LOOM_STOP.FULL, LOOM_STOP.RESTORE, LOOM_STOP.STATE, LOOM_STOP.RESULT]

def LOOM_STOP_CLOCKS.CLOCKS : Fld := { fid := 241, addr := 0x602808, s1 := 0x10000, n := 12, w := 64, acc := .ro }
/-- The fields of LOOM_STOP_CLOCKS (spec chapter 11). -/
def LOOM_STOP_CLOCKS.fields : List Fld := [LOOM_STOP_CLOCKS.CLOCKS]

def CRD_STATUS.STORE_USED : Fld := { fid := 242, addr := 0xC00000, w := 19, acc := .ro }
def CRD_STATUS.BUCKETS : Fld := { fid := 243, addr := 0xC00000, lo := 32, w := 13, acc := .ro }
def CRD_STATUS.DESC_ACTIVE : Fld := { fid := 244, addr := 0xC00000, lo := 48, w := 7, acc := .ro }
/-- The fields of CRD_STATUS (spec chapter 12). -/
def CRD_STATUS.fields : List Fld := [CRD_STATUS.STORE_USED, CRD_STATUS.BUCKETS, CRD_STATUS.DESC_ACTIVE]

def CRD_CFG.BATCH_US : Fld := { fid := 245, addr := 0xC00008, w := 10, acc := .rw, staged := true, reset := 0x2 }
def CRD_CFG.DUP_LOG2 : Fld := { fid := 246, addr := 0xC00008, lo := 16, w := 4, acc := .rw, staged := true, reset := 0x6 }
/-- The fields of CRD_CFG (spec chapter 12). -/
def CRD_CFG.fields : List Fld := [CRD_CFG.BATCH_US, CRD_CFG.DUP_LOG2]

def CRD_POOL.PA : Fld := { fid := 247, addr := 0xC01000, s1 := 0x20, n := 8, lo := 21, w := 29, acc := .rw, staged := true }
def CRD_POOL.SIZE : Fld := { fid := 248, addr := 0xC01008, s1 := 0x20, n := 8, w := 16, acc := .rw, staged := true }
def CRD_POOL.POOLED : Fld := { fid := 249, addr := 0xC01010, s1 := 0x20, n := 8, w := 32, acc := .ro }
def CRD_POOL.IN_STORE : Fld := { fid := 250, addr := 0xC01018, s1 := 0x20, n := 8, w := 19, acc := .ro }
/-- The fields of CRD_POOL (spec chapter 12). -/
def CRD_POOL.fields : List Fld := [CRD_POOL.PA, CRD_POOL.SIZE, CRD_POOL.POOLED, CRD_POOL.IN_STORE]

def CRD_CTR.RAYS : Fld := { fid := 251, addr := 0xC00100, w := 64, acc := .rw, ctr := true, ovf := some (258, 0) }
def CRD_CTR.BATCHES : Fld := { fid := 252, addr := 0xC00108, w := 64, acc := .rw, ctr := true, ovf := some (258, 1) }
def CRD_CTR.PARTIAL : Fld := { fid := 253, addr := 0xC00110, w := 64, acc := .rw, ctr := true, ovf := some (258, 2) }
def CRD_CTR.SPILLED : Fld := { fid := 254, addr := 0xC00118, w := 48, acc := .rw, ctr := true, ovf := some (258, 3) }
def CRD_CTR.EVICTED : Fld := { fid := 255, addr := 0xC00120, w := 48, acc := .rw, ctr := true, ovf := some (258, 4) }
def CRD_CTR.DUP_MISMATCH : Fld := { fid := 256, addr := 0xC00128, w := 48, acc := .rw, ctr := true, ovf := some (258, 5) }
def CRD_CTR.POOL_FULL : Fld := { fid := 257, addr := 0xC00130, w := 64, acc := .rw, ctr := true, ovf := some (258, 6) }
def CRD_CTR.OVF : Fld := { fid := 258, addr := 0xC00138, w := 7, acc := .w1c }
def CRD_CTR.CLR : Fld := { fid := 259, addr := 0xC00138, lo := 8, w := 1, acc := .wo }
/-- The fields of CRD_CTR (spec chapter 12). -/
def CRD_CTR.fields : List Fld := [CRD_CTR.RAYS, CRD_CTR.BATCHES, CRD_CTR.PARTIAL, CRD_CTR.SPILLED, CRD_CTR.EVICTED, CRD_CTR.DUP_MISMATCH, CRD_CTR.POOL_FULL, CRD_CTR.OVF, CRD_CTR.CLR]

def RTU_CTR.NODE_STEPS : Fld := { fid := 260, addr := 0xC80000, s1 := 0x100, n := 48, w := 64, acc := .rw, ctr := true, ovf := some (264, 0) }
def RTU_CTR.TRI_TESTS : Fld := { fid := 261, addr := 0xC80008, s1 := 0x100, n := 48, w := 64, acc := .rw, ctr := true, ovf := some (264, 1) }
def RTU_CTR.FETCHES : Fld := { fid := 262, addr := 0xC80010, s1 := 0x100, n := 48, w := 64, acc := .rw, ctr := true, ovf := some (264, 2) }
def RTU_CTR.RESTARTS : Fld := { fid := 263, addr := 0xC80018, s1 := 0x100, n := 48, w := 48, acc := .rw, ctr := true, ovf := some (264, 3) }
def RTU_CTR.OVF : Fld := { fid := 264, addr := 0xC80020, s1 := 0x100, n := 48, w := 4, acc := .w1c }
def RTU_CTR.CLR : Fld := { fid := 265, addr := 0xC80020, s1 := 0x100, n := 48, lo := 8, w := 1, acc := .wo }
/-- The fields of RTU_CTR (spec chapter 12). -/
def RTU_CTR.fields : List Fld := [RTU_CTR.NODE_STEPS, RTU_CTR.TRI_TESTS, RTU_CTR.FETCHES, RTU_CTR.RESTARTS, RTU_CTR.OVF, RTU_CTR.CLR]

def GLZ_PIPE.EN : Fld := { fid := 266, addr := 0xD01000, s1 := 0x100, n := 4, w := 1, acc := .rw }
def GLZ_PIPE.OUT : Fld := { fid := 267, addr := 0xD01000, s1 := 0x100, n := 4, lo := 1, w := 3, acc := .rw, staged := true }
def GLZ_PIPE.EXPECT : Fld := { fid := 268, addr := 0xD01000, s1 := 0x100, n := 4, lo := 4, w := 1, acc := .rw, staged := true }
def GLZ_PIPE.BPC : Fld := { fid := 269, addr := 0xD01000, s1 := 0x100, n := 4, lo := 5, w := 1, acc := .rw, staged := true }
def GLZ_PIPE.DSC_EN : Fld := { fid := 270, addr := 0xD01000, s1 := 0x100, n := 4, lo := 6, w := 1, acc := .rw, staged := true }
def GLZ_PIPE.LUT_EN : Fld := { fid := 271, addr := 0xD01000, s1 := 0x100, n := 4, lo := 7, w := 1, acc := .rw, staged := true }
def GLZ_PIPE.LAYERS : Fld := { fid := 272, addr := 0xD01000, s1 := 0x100, n := 4, lo := 8, w := 24, acc := .rw, staged := true }
def GLZ_PIPE.STALE_LIMIT : Fld := { fid := 273, addr := 0xD01000, s1 := 0x100, n := 4, lo := 32, w := 8, acc := .rw, staged := true }
def GLZ_PIPE.OCSC : Fld := { fid := 274, addr := 0xD01000, s1 := 0x100, n := 4, lo := 40, w := 2, acc := .rw, staged := true }
def GLZ_PIPE.HS_POL : Fld := { fid := 275, addr := 0xD01000, s1 := 0x100, n := 4, lo := 42, w := 1, acc := .rw, staged := true }
def GLZ_PIPE.VS_POL : Fld := { fid := 276, addr := 0xD01000, s1 := 0x100, n := 4, lo := 43, w := 1, acc := .rw, staged := true }
def GLZ_PIPE.PIXCLK : Fld := { fid := 277, addr := 0xD01008, s1 := 0x100, n := 4, w := 21, acc := .rw, staged := true, reset := 0x24414 }
def GLZ_PIPE.SLICES : Fld := { fid := 278, addr := 0xD01008, s1 := 0x100, n := 4, lo := 24, w := 8, acc := .rw, staged := true }
def GLZ_PIPE.BPP_X16 : Fld := { fid := 279, addr := 0xD01008, s1 := 0x100, n := 4, lo := 32, w := 12, acc := .rw, staged := true }
def GLZ_PIPE.SLICE_H : Fld := { fid := 280, addr := 0xD01008, s1 := 0x100, n := 4, lo := 44, w := 14, acc := .rw, staged := true }
def GLZ_PIPE.H_ACTIVE : Fld := { fid := 281, addr := 0xD01010, s1 := 0x100, n := 4, w := 14, acc := .rw, staged := true }
def GLZ_PIPE.H_FP : Fld := { fid := 282, addr := 0xD01010, s1 := 0x100, n := 4, lo := 16, w := 14, acc := .rw, staged := true }
def GLZ_PIPE.H_SYNC : Fld := { fid := 283, addr := 0xD01010, s1 := 0x100, n := 4, lo := 32, w := 14, acc := .rw, staged := true }
def GLZ_PIPE.H_BP : Fld := { fid := 284, addr := 0xD01010, s1 := 0x100, n := 4, lo := 48, w := 14, acc := .rw, staged := true }
def GLZ_PIPE.V_ACTIVE : Fld := { fid := 285, addr := 0xD01018, s1 := 0x100, n := 4, w := 14, acc := .rw, staged := true }
def GLZ_PIPE.V_FP : Fld := { fid := 286, addr := 0xD01018, s1 := 0x100, n := 4, lo := 16, w := 14, acc := .rw, staged := true }
def GLZ_PIPE.V_SYNC : Fld := { fid := 287, addr := 0xD01018, s1 := 0x100, n := 4, lo := 32, w := 14, acc := .rw, staged := true }
def GLZ_PIPE.V_BP : Fld := { fid := 288, addr := 0xD01018, s1 := 0x100, n := 4, lo := 48, w := 14, acc := .rw, staged := true }
def GLZ_PIPE.FLAT_PA : Fld := { fid := 289, addr := 0xD01040, s1 := 0x100, n := 4, lo := 16, w := 34, acc := .rw, staged := true }
def GLZ_PIPE.FLAT_SIZE : Fld := { fid := 290, addr := 0xD01048, s1 := 0x100, n := 4, w := 9, acc := .rw, staged := true }
def GLZ_PIPE.COMMIT : Fld := { fid := 291, addr := 0xD01050, s1 := 0x100, n := 4, w := 1, acc := .wo }
def GLZ_PIPE.DISCARD : Fld := { fid := 292, addr := 0xD01050, s1 := 0x100, n := 4, lo := 1, w := 1, acc := .wo }
def GLZ_PIPE.FRAME : Fld := { fid := 293, addr := 0xD01058, s1 := 0x100, n := 4, w := 64, acc := .ro }
def GLZ_PIPE.STALE : Fld := { fid := 294, addr := 0xD01060, s1 := 0x100, n := 4, w := 1, acc := .ro }
def GLZ_PIPE.POISON : Fld := { fid := 295, addr := 0xD01060, s1 := 0x100, n := 4, lo := 1, w := 1, acc := .ro }
def GLZ_PIPE.BLANKED : Fld := { fid := 296, addr := 0xD01060, s1 := 0x100, n := 4, lo := 2, w := 1, acc := .ro }
def GLZ_PIPE.UNDERRUN : Fld := { fid := 297, addr := 0xD01060, s1 := 0x100, n := 4, lo := 3, w := 1, acc := .ro }
def GLZ_PIPE.PENDING : Fld := { fid := 298, addr := 0xD01060, s1 := 0x100, n := 4, lo := 4, w := 1, acc := .ro }
def GLZ_PIPE.STALE_RUN : Fld := { fid := 299, addr := 0xD01060, s1 := 0x100, n := 4, lo := 8, w := 8, acc := .ro }
def GLZ_PIPE.CTX : Fld := { fid := 300, addr := 0xD01060, s1 := 0x100, n := 4, lo := 16, w := 10, acc := .ro }
def GLZ_PIPE.LINE : Fld := { fid := 301, addr := 0xD01060, s1 := 0x100, n := 4, lo := 32, w := 14, acc := .ro }
def GLZ_PIPE.STALE_CNT : Fld := { fid := 302, addr := 0xD01068, s1 := 0x100, n := 4, w := 48, acc := .rw, ctr := true, ovf := some (306, 0) }
def GLZ_PIPE.REPLACED : Fld := { fid := 303, addr := 0xD01070, s1 := 0x100, n := 4, w := 48, acc := .rw, ctr := true, ovf := some (306, 1) }
def GLZ_PIPE.UNDERRUNS : Fld := { fid := 304, addr := 0xD01078, s1 := 0x100, n := 4, w := 48, acc := .rw, ctr := true, ovf := some (306, 2) }
def GLZ_PIPE.FLATTENS : Fld := { fid := 305, addr := 0xD01080, s1 := 0x100, n := 4, w := 48, acc := .rw, ctr := true, ovf := some (306, 3) }
def GLZ_PIPE.OVF : Fld := { fid := 306, addr := 0xD01088, s1 := 0x100, n := 4, w := 4, acc := .w1c }
def GLZ_PIPE.CLR : Fld := { fid := 307, addr := 0xD01088, s1 := 0x100, n := 4, lo := 8, w := 1, acc := .wo }
def GLZ_PIPE.MAT0 : Fld := { fid := 308, addr := 0xD01020, s1 := 0x100, s2 := 0x8, n2 := 4, n := 16, w := 16, acc := .rw, staged := true }
def GLZ_PIPE.MAT1 : Fld := { fid := 309, addr := 0xD01020, s1 := 0x100, s2 := 0x8, n2 := 4, n := 16, lo := 16, w := 16, acc := .rw, staged := true }
def GLZ_PIPE.MAT2 : Fld := { fid := 310, addr := 0xD01020, s1 := 0x100, s2 := 0x8, n2 := 4, n := 16, lo := 32, w := 16, acc := .rw, staged := true }
def GLZ_PIPE.MAT3 : Fld := { fid := 311, addr := 0xD01020, s1 := 0x100, s2 := 0x8, n2 := 4, n := 16, lo := 48, w := 16, acc := .rw, staged := true }
/-- The fields of GLZ_PIPE (spec chapter 14). -/
def GLZ_PIPE.fields : List Fld := [GLZ_PIPE.EN, GLZ_PIPE.OUT, GLZ_PIPE.EXPECT, GLZ_PIPE.BPC, GLZ_PIPE.DSC_EN, GLZ_PIPE.LUT_EN, GLZ_PIPE.LAYERS, GLZ_PIPE.STALE_LIMIT, GLZ_PIPE.OCSC, GLZ_PIPE.HS_POL, GLZ_PIPE.VS_POL, GLZ_PIPE.PIXCLK, GLZ_PIPE.SLICES, GLZ_PIPE.BPP_X16, GLZ_PIPE.SLICE_H, GLZ_PIPE.H_ACTIVE, GLZ_PIPE.H_FP, GLZ_PIPE.H_SYNC, GLZ_PIPE.H_BP, GLZ_PIPE.V_ACTIVE, GLZ_PIPE.V_FP, GLZ_PIPE.V_SYNC, GLZ_PIPE.V_BP, GLZ_PIPE.FLAT_PA, GLZ_PIPE.FLAT_SIZE, GLZ_PIPE.COMMIT, GLZ_PIPE.DISCARD, GLZ_PIPE.FRAME, GLZ_PIPE.STALE, GLZ_PIPE.POISON, GLZ_PIPE.BLANKED, GLZ_PIPE.UNDERRUN, GLZ_PIPE.PENDING, GLZ_PIPE.STALE_RUN, GLZ_PIPE.CTX, GLZ_PIPE.LINE, GLZ_PIPE.STALE_CNT, GLZ_PIPE.REPLACED, GLZ_PIPE.UNDERRUNS, GLZ_PIPE.FLATTENS, GLZ_PIPE.OVF, GLZ_PIPE.CLR, GLZ_PIPE.MAT0, GLZ_PIPE.MAT1, GLZ_PIPE.MAT2, GLZ_PIPE.MAT3]

def GLZ_CRC.X : Fld := { fid := 312, addr := 0xD02000, s1 := 0x200, s2 := 0x20, n2 := 16, n := 64, w := 14, acc := .rw, staged := true }
def GLZ_CRC.Y : Fld := { fid := 313, addr := 0xD02000, s1 := 0x200, s2 := 0x20, n2 := 16, n := 64, lo := 16, w := 14, acc := .rw, staged := true }
def GLZ_CRC.W : Fld := { fid := 314, addr := 0xD02000, s1 := 0x200, s2 := 0x20, n2 := 16, n := 64, lo := 32, w := 14, acc := .rw, staged := true }
def GLZ_CRC.H : Fld := { fid := 315, addr := 0xD02000, s1 := 0x200, s2 := 0x20, n2 := 16, n := 64, lo := 48, w := 14, acc := .rw, staged := true }
def GLZ_CRC.EN : Fld := { fid := 316, addr := 0xD02008, s1 := 0x200, s2 := 0x20, n2 := 16, n := 64, w := 1, acc := .rw, staged := true }
def GLZ_CRC.CMP_EN : Fld := { fid := 317, addr := 0xD02008, s1 := 0x200, s2 := 0x20, n2 := 16, n := 64, lo := 1, w := 1, acc := .rw, staged := true }
def GLZ_CRC.EXPECT : Fld := { fid := 318, addr := 0xD02008, s1 := 0x200, s2 := 0x20, n2 := 16, n := 64, lo := 32, w := 32, acc := .rw, staged := true }
def GLZ_CRC.VALUE : Fld := { fid := 319, addr := 0xD02010, s1 := 0x200, s2 := 0x20, n2 := 16, n := 64, w := 64, acc := .ro }
def GLZ_CRC.MISMATCH : Fld := { fid := 320, addr := 0xD02018, s1 := 0x200, s2 := 0x20, n2 := 16, n := 64, w := 48, acc := .rw, ctr := true, ovf := some (321, 0) }
def GLZ_CRC.OVF : Fld := { fid := 321, addr := 0xD02018, s1 := 0x200, s2 := 0x20, n2 := 16, n := 64, lo := 48, w := 1, acc := .w1c }
/-- The fields of GLZ_CRC (spec chapter 14). -/
def GLZ_CRC.fields : List Fld := [GLZ_CRC.X, GLZ_CRC.Y, GLZ_CRC.W, GLZ_CRC.H, GLZ_CRC.EN, GLZ_CRC.CMP_EN, GLZ_CRC.EXPECT, GLZ_CRC.VALUE, GLZ_CRC.MISMATCH, GLZ_CRC.OVF]

def GLZ_DP.EN : Fld := { fid := 322, addr := 0xD20000, s1 := 0x100, n := 2, w := 1, acc := .rw, staged := true }
def GLZ_DP.MST : Fld := { fid := 323, addr := 0xD20000, s1 := 0x100, n := 2, lo := 1, w := 1, acc := .rw, staged := true }
def GLZ_DP.RATE : Fld := { fid := 324, addr := 0xD20000, s1 := 0x100, n := 2, lo := 2, w := 3, acc := .rw, staged := true }
def GLZ_DP.LANES : Fld := { fid := 325, addr := 0xD20000, s1 := 0x100, n := 2, lo := 5, w := 2, acc := .rw, staged := true, reset := 0x2 }
def GLZ_DP.FALLBACK : Fld := { fid := 326, addr := 0xD20000, s1 := 0x100, n := 2, lo := 7, w := 1, acc := .rw, staged := true, reset := 0x1 }
def GLZ_DP.AUTO_RETRAIN : Fld := { fid := 327, addr := 0xD20000, s1 := 0x100, n := 2, lo := 8, w := 1, acc := .rw, staged := true, reset := 0x1 }
def GLZ_DP.GO : Fld := { fid := 328, addr := 0xD20008, s1 := 0x100, n := 2, w := 1, acc := .wo }
def GLZ_DP.STATE : Fld := { fid := 329, addr := 0xD20008, s1 := 0x100, n := 2, lo := 1, w := 3, acc := .ro }
def GLZ_DP.RATE_ACT : Fld := { fid := 330, addr := 0xD20008, s1 := 0x100, n := 2, lo := 8, w := 3, acc := .ro }
def GLZ_DP.LANES_ACT : Fld := { fid := 331, addr := 0xD20008, s1 := 0x100, n := 2, lo := 12, w := 2, acc := .ro }
def GLZ_DP.HPD : Fld := { fid := 332, addr := 0xD20008, s1 := 0x100, n := 2, lo := 16, w := 1, acc := .ro }
def GLZ_DP.AUX_ADDR : Fld := { fid := 333, addr := 0xD20010, s1 := 0x100, n := 2, w := 20, acc := .rw }
def GLZ_DP.AUX_LEN : Fld := { fid := 334, addr := 0xD20010, s1 := 0x100, n := 2, lo := 20, w := 4, acc := .rw }
def GLZ_DP.AUX_WRITE : Fld := { fid := 335, addr := 0xD20010, s1 := 0x100, n := 2, lo := 24, w := 1, acc := .rw }
def GLZ_DP.AUX_I2C : Fld := { fid := 336, addr := 0xD20010, s1 := 0x100, n := 2, lo := 25, w := 1, acc := .rw }
def GLZ_DP.AUX_GO : Fld := { fid := 337, addr := 0xD20010, s1 := 0x100, n := 2, lo := 26, w := 1, acc := .wo }
def GLZ_DP.AUX_BUSY : Fld := { fid := 338, addr := 0xD20010, s1 := 0x100, n := 2, lo := 27, w := 1, acc := .ro }
def GLZ_DP.AUX_RESULT : Fld := { fid := 339, addr := 0xD20010, s1 := 0x100, n := 2, lo := 28, w := 2, acc := .ro }
def GLZ_DP.AUX_DATA0 : Fld := { fid := 340, addr := 0xD20018, s1 := 0x100, n := 2, w := 64, acc := .rw }
def GLZ_DP.AUX_DATA1 : Fld := { fid := 341, addr := 0xD20020, s1 := 0x100, n := 2, w := 64, acc := .rw }
def GLZ_DP.RETRAINS : Fld := { fid := 342, addr := 0xD20028, s1 := 0x100, n := 2, w := 48, acc := .rw, ctr := true, ovf := some (343, 0) }
def GLZ_DP.OVF : Fld := { fid := 343, addr := 0xD20028, s1 := 0x100, n := 2, lo := 48, w := 1, acc := .w1c }
/-- The fields of GLZ_DP (spec chapter 14). -/
def GLZ_DP.fields : List Fld := [GLZ_DP.EN, GLZ_DP.MST, GLZ_DP.RATE, GLZ_DP.LANES, GLZ_DP.FALLBACK, GLZ_DP.AUTO_RETRAIN, GLZ_DP.GO, GLZ_DP.STATE, GLZ_DP.RATE_ACT, GLZ_DP.LANES_ACT, GLZ_DP.HPD, GLZ_DP.AUX_ADDR, GLZ_DP.AUX_LEN, GLZ_DP.AUX_WRITE, GLZ_DP.AUX_I2C, GLZ_DP.AUX_GO, GLZ_DP.AUX_BUSY, GLZ_DP.AUX_RESULT, GLZ_DP.AUX_DATA0, GLZ_DP.AUX_DATA1, GLZ_DP.RETRAINS, GLZ_DP.OVF]

def GLZ_APHY.EN : Fld := { fid := 344, addr := 0xD20400, s1 := 0x100, n := 2, w := 1, acc := .rw, staged := true }
def GLZ_APHY.GEAR : Fld := { fid := 345, addr := 0xD20400, s1 := 0x100, n := 2, lo := 1, w := 3, acc := .rw, staged := true, reset := 0x1 }
def GLZ_APHY.FMT : Fld := { fid := 346, addr := 0xD20400, s1 := 0x100, n := 2, lo := 4, w := 2, acc := .rw, staged := true }
def GLZ_APHY.LOCKED : Fld := { fid := 347, addr := 0xD20408, s1 := 0x100, n := 2, w := 1, acc := .ro }
def GLZ_APHY.CMD_USED : Fld := { fid := 348, addr := 0xD20408, s1 := 0x100, n := 2, lo := 1, w := 4, acc := .ro }
def GLZ_APHY.DSI_CMD : Fld := { fid := 349, addr := 0xD20410, s1 := 0x100, n := 2, w := 32, acc := .wo }
def GLZ_APHY.RESTARTS : Fld := { fid := 350, addr := 0xD20418, s1 := 0x100, n := 2, w := 48, acc := .rw, ctr := true, ovf := some (351, 0) }
def GLZ_APHY.OVF : Fld := { fid := 351, addr := 0xD20418, s1 := 0x100, n := 2, lo := 48, w := 1, acc := .w1c }
/-- The fields of GLZ_APHY (spec chapter 14). -/
def GLZ_APHY.fields : List Fld := [GLZ_APHY.EN, GLZ_APHY.GEAR, GLZ_APHY.FMT, GLZ_APHY.LOCKED, GLZ_APHY.CMD_USED, GLZ_APHY.DSI_CMD, GLZ_APHY.RESTARTS, GLZ_APHY.OVF]

def PRS_STATUS.BUSY : Fld := { fid := 352, addr := 0xE00000, w := 4, acc := .ro }
/-- The fields of PRS_STATUS (spec chapter 15). -/
def PRS_STATUS.fields : List Fld := [PRS_STATUS.BUSY]

def PRS_CFG.DEF_LOG2_RATIO : Fld := { fid := 353, addr := 0xE00008, w := 5, acc := .rw, staged := true, reset := 0xA }
/-- The fields of PRS_CFG (spec chapter 15). -/
def PRS_CFG.fields : List Fld := [PRS_CFG.DEF_LOG2_RATIO]

def PRS_ENG.WORK : Fld := { fid := 354, addr := 0xE01000, s1 := 0x100, n := 4, w := 2, acc := .ro }
def PRS_ENG.CTX : Fld := { fid := 355, addr := 0xE01000, s1 := 0x100, n := 4, lo := 16, w := 10, acc := .ro }
def PRS_ENG.JOBS : Fld := { fid := 356, addr := 0xE01008, s1 := 0x100, n := 4, w := 64, acc := .rw, ctr := true, ovf := some (362, 0) }
def PRS_ENG.IN_BYTES : Fld := { fid := 357, addr := 0xE01010, s1 := 0x100, n := 4, w := 64, acc := .rw, ctr := true, ovf := some (362, 1) }
def PRS_ENG.OUT_BYTES : Fld := { fid := 358, addr := 0xE01018, s1 := 0x100, n := 4, w := 64, acc := .rw, ctr := true, ovf := some (362, 2) }
def PRS_ENG.BUSY_CLOCKS : Fld := { fid := 359, addr := 0xE01020, s1 := 0x100, n := 4, w := 64, acc := .rw, ctr := true, ovf := some (362, 3) }
def PRS_ENG.ERRORS : Fld := { fid := 360, addr := 0xE01028, s1 := 0x100, n := 4, w := 48, acc := .rw, ctr := true, ovf := some (362, 4) }
def PRS_ENG.STOPS : Fld := { fid := 361, addr := 0xE01030, s1 := 0x100, n := 4, w := 48, acc := .rw, ctr := true, ovf := some (362, 5) }
def PRS_ENG.OVF : Fld := { fid := 362, addr := 0xE01038, s1 := 0x100, n := 4, w := 6, acc := .w1c }
def PRS_ENG.CLR : Fld := { fid := 363, addr := 0xE01038, s1 := 0x100, n := 4, lo := 8, w := 1, acc := .wo }
/-- The fields of PRS_ENG (spec chapter 15). -/
def PRS_ENG.fields : List Fld := [PRS_ENG.WORK, PRS_ENG.CTX, PRS_ENG.JOBS, PRS_ENG.IN_BYTES, PRS_ENG.OUT_BYTES, PRS_ENG.BUSY_CLOCKS, PRS_ENG.ERRORS, PRS_ENG.STOPS, PRS_ENG.OVF, PRS_ENG.CLR]

def FE_TICK_CFG.SRC : Fld := { fid := 364, addr := 0x380000, w := 3, acc := .rw, staged := true }
def FE_TICK_CFG.PIPE : Fld := { fid := 365, addr := 0x380000, lo := 3, w := 2, acc := .rw, staged := true }
def FE_TICK_CFG.PERIOD_US : Fld := { fid := 366, addr := 0x380000, lo := 8, w := 18, acc := .rw, staged := true, reset := 0x4E20 }
def FE_TICK_CFG.TOL_US : Fld := { fid := 367, addr := 0x380000, lo := 32, w := 10, acc := .rw, staged := true, reset := 0x32 }
def FE_TICK_CFG.LOST_LIMIT : Fld := { fid := 368, addr := 0x380000, lo := 44, w := 8, acc := .rw, staged := true, reset := 0xA }
/-- The fields of FE_TICK_CFG (spec chapter 16). -/
def FE_TICK_CFG.fields : List Fld := [FE_TICK_CFG.SRC, FE_TICK_CFG.PIPE, FE_TICK_CFG.PERIOD_US, FE_TICK_CFG.TOL_US, FE_TICK_CFG.LOST_LIMIT]

def FE_TICK_OUT.EN : Fld := { fid := 369, addr := 0x380008, w := 1, acc := .rw, staged := true }
def FE_TICK_OUT.WIDTH_US : Fld := { fid := 370, addr := 0x380008, lo := 8, w := 8, acc := .rw, staged := true, reset := 0xA }
def FE_TICK_OUT.OFFSET_US : Fld := { fid := 371, addr := 0x380008, lo := 32, w := 18, acc := .rw, staged := true }
/-- The fields of FE_TICK_OUT (spec chapter 16). -/
def FE_TICK_OUT.fields : List Fld := [FE_TICK_OUT.EN, FE_TICK_OUT.WIDTH_US, FE_TICK_OUT.OFFSET_US]

def FE_TICK_STATUS.SELF : Fld := { fid := 372, addr := 0x380010, w := 1, acc := .ro }
def FE_TICK_STATUS.FREE_RUN : Fld := { fid := 373, addr := 0x380010, lo := 8, w := 8, acc := .ro }
def FE_TICK_STATUS.SRC_ACT : Fld := { fid := 374, addr := 0x380010, lo := 16, w := 3, acc := .ro }
/-- The fields of FE_TICK_STATUS (spec chapter 16). -/
def FE_TICK_STATUS.fields : List Fld := [FE_TICK_STATUS.SELF, FE_TICK_STATUS.FREE_RUN, FE_TICK_STATUS.SRC_ACT]

def FE_TICK_COUNT.COUNT : Fld := { fid := 375, addr := 0x380018, w := 64, acc := .ro }
/-- The fields of FE_TICK_COUNT (spec chapter 16). -/
def FE_TICK_COUNT.fields : List Fld := [FE_TICK_COUNT.COUNT]

def FE_TICK_TIME.TIME : Fld := { fid := 376, addr := 0x380020, w := 64, acc := .ro }
/-- The fields of FE_TICK_TIME (spec chapter 16). -/
def FE_TICK_TIME.fields : List Fld := [FE_TICK_TIME.TIME]

def FE_TICK_CTR.MISSED : Fld := { fid := 377, addr := 0x380028, w := 48, acc := .rw, ctr := true, ovf := some (380, 0) }
def FE_TICK_CTR.EARLY : Fld := { fid := 378, addr := 0x380030, w := 48, acc := .rw, ctr := true, ovf := some (380, 1) }
def FE_TICK_CTR.SKEW : Fld := { fid := 379, addr := 0x380038, w := 48, acc := .rw, ctr := true, ovf := some (380, 2) }
def FE_TICK_CTR.OVF : Fld := { fid := 380, addr := 0x380040, w := 3, acc := .w1c }
def FE_TICK_CTR.CLR : Fld := { fid := 381, addr := 0x380040, lo := 8, w := 1, acc := .wo }
/-- The fields of FE_TICK_CTR (spec chapter 16). -/
def FE_TICK_CTR.fields : List Fld := [FE_TICK_CTR.MISSED, FE_TICK_CTR.EARLY, FE_TICK_CTR.SKEW, FE_TICK_CTR.OVF, FE_TICK_CTR.CLR]

def FE_SCH_PLAT.COMPUTE_NS : Fld := { fid := 382, addr := 0x380100, w := 32, acc := .ro, reset := 0x7E20 }
def FE_SCH_PLAT.LOOM_NS : Fld := { fid := 383, addr := 0x380100, lo := 32, w := 32, acc := .ro, reset := 0xFCAD }
/-- The fields of FE_SCH_PLAT (spec chapter 16). -/
def FE_SCH_PLAT.fields : List Fld := [FE_SCH_PLAT.COMPUTE_NS, FE_SCH_PLAT.LOOM_NS]

def FE_SCH_CTR.STOPS : Fld := { fid := 384, addr := 0x380200, w := 64, acc := .rw, ctr := true, ovf := some (386, 0) }
def FE_SCH_CTR.LATE_STOPS : Fld := { fid := 385, addr := 0x380208, w := 48, acc := .rw, ctr := true, ovf := some (386, 1) }
def FE_SCH_CTR.OVF : Fld := { fid := 386, addr := 0x380210, w := 2, acc := .w1c }
def FE_SCH_CTR.CLR : Fld := { fid := 387, addr := 0x380210, lo := 8, w := 1, acc := .wo }
/-- The fields of FE_SCH_CTR (spec chapter 16). -/
def FE_SCH_CTR.fields : List Fld := [FE_SCH_CTR.STOPS, FE_SCH_CTR.LATE_STOPS, FE_SCH_CTR.OVF, FE_SCH_CTR.CLR]

def FE_BUDGET.CL_LIMIT : Fld := { fid := 388, addr := 0x381000, s1 := 0x80, n := 8, w := 32, acc := .rw, staged := true, reset := 0xFFFFFFFF }
def FE_BUDGET.LM_LIMIT : Fld := { fid := 389, addr := 0x381000, s1 := 0x80, n := 8, lo := 32, w := 32, acc := .rw, staged := true, reset := 0xFFFFFFFF }
def FE_BUDGET.PR_LIMIT : Fld := { fid := 390, addr := 0x381008, s1 := 0x80, n := 8, w := 32, acc := .rw, staged := true, reset := 0xFFFFFFFF }
def FE_BUDGET.OVERRUN : Fld := { fid := 391, addr := 0x381008, s1 := 0x80, n := 8, lo := 32, w := 1, acc := .rw, staged := true }
def FE_BUDGET.LOOM_PREEMPT : Fld := { fid := 392, addr := 0x381008, s1 := 0x80, n := 8, lo := 33, w := 1, acc := .rw, staged := true }
def FE_BUDGET.YSAVE_PA : Fld := { fid := 393, addr := 0x381010, s1 := 0x80, n := 8, lo := 12, w := 38, acc := .rw, staged := true }
def FE_BUDGET.GFX_STOP_US : Fld := { fid := 394, addr := 0x381018, s1 := 0x80, n := 8, w := 16, acc := .rw, staged := true, reset := 0x64 }
def FE_BUDGET.CL_USED : Fld := { fid := 395, addr := 0x381020, s1 := 0x80, n := 8, w := 48, acc := .ro }
def FE_BUDGET.LM_USED : Fld := { fid := 396, addr := 0x381028, s1 := 0x80, n := 8, w := 48, acc := .ro }
def FE_BUDGET.PR_USED : Fld := { fid := 397, addr := 0x381030, s1 := 0x80, n := 8, w := 48, acc := .ro }
def FE_BUDGET.EXHAUSTED : Fld := { fid := 398, addr := 0x381038, s1 := 0x80, n := 8, w := 3, acc := .ro }
def FE_BUDGET.YSAVE_HELD : Fld := { fid := 399, addr := 0x381038, s1 := 0x80, n := 8, lo := 3, w := 1, acc := .ro }
def FE_BUDGET.EXH_CL : Fld := { fid := 400, addr := 0x381040, s1 := 0x80, n := 8, w := 48, acc := .rw, ctr := true, ovf := some (404, 0) }
def FE_BUDGET.EXH_LM : Fld := { fid := 401, addr := 0x381048, s1 := 0x80, n := 8, w := 48, acc := .rw, ctr := true, ovf := some (404, 1) }
def FE_BUDGET.EXH_PR : Fld := { fid := 402, addr := 0x381050, s1 := 0x80, n := 8, w := 48, acc := .rw, ctr := true, ovf := some (404, 2) }
def FE_BUDGET.RT_OVER_NS : Fld := { fid := 403, addr := 0x381058, s1 := 0x80, n := 8, w := 64, acc := .rw, ctr := true, ovf := some (404, 3) }
def FE_BUDGET.OVF : Fld := { fid := 404, addr := 0x381060, s1 := 0x80, n := 8, w := 4, acc := .w1c }
def FE_BUDGET.CLR : Fld := { fid := 405, addr := 0x381060, s1 := 0x80, n := 8, lo := 8, w := 1, acc := .wo }
/-- The fields of FE_BUDGET (spec chapter 16). -/
def FE_BUDGET.fields : List Fld := [FE_BUDGET.CL_LIMIT, FE_BUDGET.LM_LIMIT, FE_BUDGET.PR_LIMIT, FE_BUDGET.OVERRUN, FE_BUDGET.LOOM_PREEMPT, FE_BUDGET.YSAVE_PA, FE_BUDGET.GFX_STOP_US, FE_BUDGET.CL_USED, FE_BUDGET.LM_USED, FE_BUDGET.PR_USED, FE_BUDGET.EXHAUSTED, FE_BUDGET.YSAVE_HELD, FE_BUDGET.EXH_CL, FE_BUDGET.EXH_LM, FE_BUDGET.EXH_PR, FE_BUDGET.RT_OVER_NS, FE_BUDGET.OVF, FE_BUDGET.CLR]

def FE_RT.DEADLINE_US : Fld := { fid := 406, addr := 0x390000, s1 := 0x40, n := 2048, w := 18, acc := .rw, staged := true }
def FE_RT.EN : Fld := { fid := 407, addr := 0x390000, s1 := 0x40, n := 2048, lo := 18, w := 1, acc := .rw, staged := true }
def FE_RT.BUDGET_US : Fld := { fid := 408, addr := 0x390008, s1 := 0x40, n := 2048, w := 18, acc := .rw, staged := true }
def FE_RT.RT_CLUSTERS : Fld := { fid := 409, addr := 0x390010, s1 := 0x40, n := 2048, w := 48, acc := .rw, staged := true }
def FE_RT.RT_LOOMS : Fld := { fid := 410, addr := 0x390010, s1 := 0x40, n := 2048, lo := 48, w := 12, acc := .rw, staged := true }
def FE_RT.START_BY : Fld := { fid := 411, addr := 0x390018, s1 := 0x40, n := 2048, w := 64, acc := .ro }
def FE_RT.MISSES : Fld := { fid := 412, addr := 0x390020, s1 := 0x40, n := 2048, w := 48, acc := .rw, ctr := true, ovf := some (413, 0) }
def FE_RT.OVF : Fld := { fid := 413, addr := 0x390020, s1 := 0x40, n := 2048, lo := 48, w := 1, acc := .w1c }
def FE_RT.LAST_LATE_US : Fld := { fid := 414, addr := 0x390028, s1 := 0x40, n := 2048, w := 32, acc := .ro }
/-- The fields of FE_RT (spec chapter 16). -/
def FE_RT.fields : List Fld := [FE_RT.DEADLINE_US, FE_RT.EN, FE_RT.BUDGET_US, FE_RT.RT_CLUSTERS, FE_RT.RT_LOOMS, FE_RT.START_BY, FE_RT.MISSES, FE_RT.OVF, FE_RT.LAST_LATE_US]

def MC_SCRUB_CFG.EN : Fld := { fid := 415, addr := 0xF00000, w := 1, acc := .rw, staged := true, reset := 0x1 }
def MC_SCRUB_CFG.INTERVAL_H : Fld := { fid := 416, addr := 0xF00000, lo := 8, w := 8, acc := .rw, staged := true, reset := 0xC }
/-- The fields of MC_SCRUB_CFG (spec chapter 17). -/
def MC_SCRUB_CFG.fields : List Fld := [MC_SCRUB_CFG.EN, MC_SCRUB_CFG.INTERVAL_H]

def MC_SWEEP.JOBS : Fld := { fid := 417, addr := 0xF00008, w := 7, acc := .ro }
def MC_SWEEP.BUSY : Fld := { fid := 418, addr := 0xF00008, lo := 7, w := 1, acc := .ro }
/-- The fields of MC_SWEEP (spec chapter 17). -/
def MC_SWEEP.fields : List Fld := [MC_SWEEP.JOBS, MC_SWEEP.BUSY]

def MC_STATUS.TRAIN : Fld := { fid := 419, addr := 0xF01000, s1 := 0x1000, n := 4, w := 2, acc := .ro }
def MC_STATUS.SELF_REFRESH : Fld := { fid := 420, addr := 0xF01000, s1 := 0x1000, n := 4, lo := 2, w := 1, acc := .ro }
def MC_STATUS.TEMP : Fld := { fid := 421, addr := 0xF01000, s1 := 0x1000, n := 4, lo := 8, w := 8, acc := .ro }
def MC_STATUS.POISON_USED : Fld := { fid := 422, addr := 0xF01000, s1 := 0x1000, n := 4, lo := 16, w := 9, acc := .ro }
/-- The fields of MC_STATUS (spec chapter 17). -/
def MC_STATUS.fields : List Fld := [MC_STATUS.TRAIN, MC_STATUS.SELF_REFRESH, MC_STATUS.TEMP, MC_STATUS.POISON_USED]

def MC_ECC_CTR.CORR : Fld := { fid := 423, addr := 0xF01010, s1 := 0x1000, n := 4, w := 48, acc := .rw, ctr := true, ovf := some (426, 0) }
def MC_ECC_CTR.SCRUB_CORR : Fld := { fid := 424, addr := 0xF01018, s1 := 0x1000, n := 4, w := 48, acc := .rw, ctr := true, ovf := some (426, 1) }
def MC_ECC_CTR.UNCORR : Fld := { fid := 425, addr := 0xF01020, s1 := 0x1000, n := 4, w := 48, acc := .rw, ctr := true, ovf := some (426, 2) }
def MC_ECC_CTR.OVF : Fld := { fid := 426, addr := 0xF01028, s1 := 0x1000, n := 4, w := 3, acc := .w1c }
def MC_ECC_CTR.CLR : Fld := { fid := 427, addr := 0xF01028, s1 := 0x1000, n := 4, lo := 8, w := 1, acc := .wo }
/-- The fields of MC_ECC_CTR (spec chapter 17). -/
def MC_ECC_CTR.fields : List Fld := [MC_ECC_CTR.CORR, MC_ECC_CTR.SCRUB_CORR, MC_ECC_CTR.UNCORR, MC_ECC_CTR.OVF, MC_ECC_CTR.CLR]

def MC_ERRLOG_WPTR.WPTR : Fld := { fid := 428, addr := 0xF01100, s1 := 0x1000, n := 4, w := 16, acc := .ro }
/-- The fields of MC_ERRLOG_WPTR (spec chapter 17). -/
def MC_ERRLOG_WPTR.fields : List Fld := [MC_ERRLOG_WPTR.WPTR]

def L2_STATUS.INIT_DONE : Fld := { fid := 429, addr := 0x1000000, w := 1, acc := .ro }
def L2_STATUS.MAINT_BUSY : Fld := { fid := 430, addr := 0x1000000, lo := 1, w := 1, acc := .ro }
/-- The fields of L2_STATUS (spec chapter 17). -/
def L2_STATUS.fields : List Fld := [L2_STATUS.INIT_DONE, L2_STATUS.MAINT_BUSY]

def L2_MAINT.OP : Fld := { fid := 431, addr := 0x1000100, w := 2, acc := .rw, staged := true }
def L2_MAINT.SCOPE : Fld := { fid := 432, addr := 0x1000100, lo := 2, w := 2, acc := .rw, staged := true }
def L2_MAINT.SLICE : Fld := { fid := 433, addr := 0x1000100, lo := 8, w := 8, acc := .rw, staged := true }
def L2_MAINT.WAYS : Fld := { fid := 434, addr := 0x1000100, lo := 16, w := 16, acc := .rw, staged := true }
def L2_MAINT.SET_BASE : Fld := { fid := 435, addr := 0x1000100, lo := 32, w := 9, acc := .rw, staged := true }
def L2_MAINT.SET_LAST : Fld := { fid := 436, addr := 0x1000100, lo := 41, w := 9, acc := .rw, staged := true }
def L2_MAINT.PA : Fld := { fid := 437, addr := 0x1000108, lo := 7, w := 43, acc := .rw, staged := true }
def L2_MAINT.LINES : Fld := { fid := 438, addr := 0x1000110, w := 36, acc := .rw, staged := true }
def L2_MAINT.TALLY : Fld := { fid := 439, addr := 0x1000118, w := 13, acc := .rw, staged := true }
def L2_MAINT.TALLY_EN : Fld := { fid := 440, addr := 0x1000118, lo := 16, w := 1, acc := .rw, staged := true }
def L2_MAINT.VALUE : Fld := { fid := 441, addr := 0x1000120, w := 64, acc := .rw, staged := true }
def L2_MAINT.GO : Fld := { fid := 442, addr := 0x1000128, w := 1, acc := .wo }
def L2_MAINT.BUSY : Fld := { fid := 443, addr := 0x1000128, lo := 1, w := 1, acc := .ro }
/-- The fields of L2_MAINT (spec chapter 17). -/
def L2_MAINT.fields : List Fld := [L2_MAINT.OP, L2_MAINT.SCOPE, L2_MAINT.SLICE, L2_MAINT.WAYS, L2_MAINT.SET_BASE, L2_MAINT.SET_LAST, L2_MAINT.PA, L2_MAINT.LINES, L2_MAINT.TALLY, L2_MAINT.TALLY_EN, L2_MAINT.VALUE, L2_MAINT.GO, L2_MAINT.BUSY]

def L2_SLICE_CTR.LOOKUPS : Fld := { fid := 444, addr := 0x1010000, s1 := 0x40, n := 48, w := 64, acc := .rw, ctr := true, ovf := some (450, 0) }
def L2_SLICE_CTR.HITS : Fld := { fid := 445, addr := 0x1010008, s1 := 0x40, n := 48, w := 64, acc := .rw, ctr := true, ovf := some (450, 1) }
def L2_SLICE_CTR.WRITEBACKS : Fld := { fid := 446, addr := 0x1010010, s1 := 0x40, n := 48, w := 64, acc := .rw, ctr := true, ovf := some (450, 2) }
def L2_SLICE_CTR.ATOM_STALL : Fld := { fid := 447, addr := 0x1010018, s1 := 0x40, n := 48, w := 64, acc := .rw, ctr := true, ovf := some (450, 3) }
def L2_SLICE_CTR.CORR : Fld := { fid := 448, addr := 0x1010020, s1 := 0x40, n := 48, w := 48, acc := .rw, ctr := true, ovf := some (450, 4) }
def L2_SLICE_CTR.UNCORR : Fld := { fid := 449, addr := 0x1010028, s1 := 0x40, n := 48, w := 48, acc := .rw, ctr := true, ovf := some (450, 5) }
def L2_SLICE_CTR.OVF : Fld := { fid := 450, addr := 0x1010030, s1 := 0x40, n := 48, w := 6, acc := .w1c }
def L2_SLICE_CTR.CLR : Fld := { fid := 451, addr := 0x1010030, s1 := 0x40, n := 48, lo := 8, w := 1, acc := .wo }
/-- The fields of L2_SLICE_CTR (spec chapter 17). -/
def L2_SLICE_CTR.fields : List Fld := [L2_SLICE_CTR.LOOKUPS, L2_SLICE_CTR.HITS, L2_SLICE_CTR.WRITEBACKS, L2_SLICE_CTR.ATOM_STALL, L2_SLICE_CTR.CORR, L2_SLICE_CTR.UNCORR, L2_SLICE_CTR.OVF, L2_SLICE_CTR.CLR]

def PXL_CFG.EXPECT : Fld := { fid := 452, addr := 0x1100000, w := 3, acc := .rw, staged := true, reset := 0x1 }
def PXL_CFG.HB_TIMEOUT_US : Fld := { fid := 453, addr := 0x1100000, lo := 8, w := 14, acc := .rw, staged := true, reset := 0x1F4 }
def PXL_CFG.REQ_TIMEOUT_US : Fld := { fid := 454, addr := 0x1100000, lo := 24, w := 14, acc := .rw, staged := true, reset := 0x3E8 }
def PXL_CFG.TAKEOVER_SRC : Fld := { fid := 455, addr := 0x1100000, lo := 40, w := 3, acc := .rw, staged := true }
def PXL_CFG.TAKEOVER_PIPE : Fld := { fid := 456, addr := 0x1100000, lo := 43, w := 2, acc := .rw, staged := true }
def PXL_CFG.REPLAY_LIMIT : Fld := { fid := 457, addr := 0x1100000, lo := 48, w := 3, acc := .rw, staged := true, reset := 0x4 }
/-- The fields of PXL_CFG (spec chapter 18). -/
def PXL_CFG.fields : List Fld := [PXL_CFG.EXPECT, PXL_CFG.HB_TIMEOUT_US, PXL_CFG.REQ_TIMEOUT_US, PXL_CFG.TAKEOVER_SRC, PXL_CFG.TAKEOVER_PIPE, PXL_CFG.REPLAY_LIMIT]

def PXL_STATUS.JOINED : Fld := { fid := 458, addr := 0x1100008, w := 3, acc := .ro, reset := 0x1 }
def PXL_STATUS.MANAGER_ID : Fld := { fid := 459, addr := 0x1100008, lo := 4, w := 2, acc := .ro }
def PXL_STATUS.NO_QUORUM : Fld := { fid := 460, addr := 0x1100008, lo := 6, w := 1, acc := .ro }
def PXL_STATUS.EPOCH : Fld := { fid := 461, addr := 0x1100008, lo := 32, w := 32, acc := .ro }
/-- The fields of PXL_STATUS (spec chapter 18). -/
def PXL_STATUS.fields : List Fld := [PXL_STATUS.JOINED, PXL_STATUS.MANAGER_ID, PXL_STATUS.NO_QUORUM, PXL_STATUS.EPOCH]

def PXL_PORT.EN : Fld := { fid := 462, addr := 0x1101000, s1 := 0x100, n := 2, w := 1, acc := .rw, staged := true }
def PXL_PORT.WIDTH_MAX : Fld := { fid := 463, addr := 0x1101000, s1 := 0x100, n := 2, lo := 1, w := 1, acc := .rw, staged := true }
def PXL_PORT.RATE_MAX : Fld := { fid := 464, addr := 0x1101000, s1 := 0x100, n := 2, lo := 2, w := 1, acc := .rw, staged := true }
def PXL_PORT.STATE : Fld := { fid := 465, addr := 0x1101008, s1 := 0x100, n := 2, w := 3, acc := .ro }
def PXL_PORT.PEER : Fld := { fid := 466, addr := 0x1101008, s1 := 0x100, n := 2, lo := 4, w := 2, acc := .ro }
def PXL_PORT.WIDTH_ACT : Fld := { fid := 467, addr := 0x1101008, s1 := 0x100, n := 2, lo := 8, w := 1, acc := .ro }
def PXL_PORT.RATE_ACT : Fld := { fid := 468, addr := 0x1101008, s1 := 0x100, n := 2, lo := 9, w := 1, acc := .ro }
def PXL_PORT.LAT_NS : Fld := { fid := 469, addr := 0x1101008, s1 := 0x100, n := 2, lo := 16, w := 16, acc := .ro }
def PXL_PORT.FEC_CORR : Fld := { fid := 470, addr := 0x1101010, s1 := 0x100, n := 2, w := 64, acc := .rw, ctr := true, ovf := some (475, 0) }
def PXL_PORT.REPLAYS : Fld := { fid := 471, addr := 0x1101018, s1 := 0x100, n := 2, w := 48, acc := .rw, ctr := true, ovf := some (475, 1) }
def PXL_PORT.RETRAINS : Fld := { fid := 472, addr := 0x1101020, s1 := 0x100, n := 2, w := 48, acc := .rw, ctr := true, ovf := some (475, 2) }
def PXL_PORT.REQ_ERR : Fld := { fid := 473, addr := 0x1101028, s1 := 0x100, n := 2, w := 48, acc := .rw, ctr := true, ovf := some (475, 3) }
def PXL_PORT.VIOL : Fld := { fid := 474, addr := 0x1101030, s1 := 0x100, n := 2, w := 48, acc := .rw, ctr := true, ovf := some (475, 4) }
def PXL_PORT.OVF : Fld := { fid := 475, addr := 0x1101038, s1 := 0x100, n := 2, w := 5, acc := .w1c }
def PXL_PORT.CLR : Fld := { fid := 476, addr := 0x1101038, s1 := 0x100, n := 2, lo := 8, w := 1, acc := .wo }
/-- The fields of PXL_PORT (spec chapter 18). -/
def PXL_PORT.fields : List Fld := [PXL_PORT.EN, PXL_PORT.WIDTH_MAX, PXL_PORT.RATE_MAX, PXL_PORT.STATE, PXL_PORT.PEER, PXL_PORT.WIDTH_ACT, PXL_PORT.RATE_ACT, PXL_PORT.LAT_NS, PXL_PORT.FEC_CORR, PXL_PORT.REPLAYS, PXL_PORT.RETRAINS, PXL_PORT.REQ_ERR, PXL_PORT.VIOL, PXL_PORT.OVF, PXL_PORT.CLR]

def PXL_MIRROR.EN : Fld := { fid := 477, addr := 0x1102000, s1 := 0x10, n := 256, w := 1, acc := .rw, staged := true }
def PXL_MIRROR.HOME_DEV : Fld := { fid := 478, addr := 0x1102000, s1 := 0x10, n := 256, lo := 1, w := 2, acc := .rw, staged := true }
def PXL_MIRROR.HOME_TALLY : Fld := { fid := 479, addr := 0x1102000, s1 := 0x10, n := 256, lo := 16, w := 13, acc := .rw, staged := true }
def PXL_MIRROR.LOCAL_TALLY : Fld := { fid := 480, addr := 0x1102000, s1 := 0x10, n := 256, lo := 32, w := 13, acc := .rw, staged := true }
def PXL_MIRROR.STATE : Fld := { fid := 481, addr := 0x1102000, s1 := 0x10, n := 256, lo := 48, w := 2, acc := .ro }
/-- The fields of PXL_MIRROR (spec chapter 18). -/
def PXL_MIRROR.fields : List Fld := [PXL_MIRROR.EN, PXL_MIRROR.HOME_DEV, PXL_MIRROR.HOME_TALLY, PXL_MIRROR.LOCAL_TALLY, PXL_MIRROR.STATE]

def INTC_SW.SET : Fld := { fid := 482, addr := 0x200100, s1 := 0x8, n := 4, w := 64, acc := .w1s }
/-- The fields of INTC_SW (spec chapter 19). -/
def INTC_SW.fields : List Fld := [INTC_SW.SET]

def INTC_SW_CLR.CLR : Fld := { fid := 483, addr := 0x200120, s1 := 0x8, n := 4, w := 64, acc := .wo }
/-- The fields of INTC_SW_CLR (spec chapter 19). -/
def INTC_SW_CLR.fields : List Fld := [INTC_SW_CLR.CLR]

def INTC_FMOD.TIMER_US : Fld := { fid := 484, addr := 0x200200, s1 := 0x8, n := 2, w := 10, acc := .rw, staged := true }
def INTC_FMOD.COUNT : Fld := { fid := 485, addr := 0x200200, s1 := 0x8, n := 2, lo := 10, w := 8, acc := .rw, staged := true }
/-- The fields of INTC_FMOD (spec chapter 19). -/
def INTC_FMOD.fields : List Fld := [INTC_FMOD.TIMER_US, INTC_FMOD.COUNT]

def INTC_TGT.EN : Fld := { fid := 486, addr := 0x201000, s1 := 0x20, n := 64, w := 1, acc := .rw, staged := true }
def INTC_TGT.VECTOR : Fld := { fid := 487, addr := 0x201000, s1 := 0x20, n := 64, lo := 16, w := 11, acc := .rw, staged := true }
def INTC_TGT.CLAIM : Fld := { fid := 488, addr := 0x201008, s1 := 0x20, n := 64, w := 11, acc := .rc, reset := 0x7FF }
def INTC_TGT.MORE : Fld := { fid := 489, addr := 0x201008, s1 := 0x20, n := 64, lo := 16, w := 1, acc := .rc }
def INTC_TGT.COMPLETE : Fld := { fid := 490, addr := 0x201010, s1 := 0x20, n := 64, w := 11, acc := .wo }
/-- The fields of INTC_TGT (spec chapter 19). -/
def INTC_TGT.fields : List Fld := [INTC_TGT.EN, INTC_TGT.VECTOR, INTC_TGT.CLAIM, INTC_TGT.MORE, INTC_TGT.COMPLETE]

def INTC_MOD.TIMER_US : Fld := { fid := 491, addr := 0x210000, s1 := 0x10, n := 2048, w := 10, acc := .rw, staged := true }
def INTC_MOD.COUNT : Fld := { fid := 492, addr := 0x210000, s1 := 0x10, n := 2048, lo := 10, w := 8, acc := .rw, staged := true }
def INTC_MOD.IDLE_HINT : Fld := { fid := 493, addr := 0x210000, s1 := 0x10, n := 2048, lo := 24, w := 1, acc := .w1s }
def INTC_MOD.HELD : Fld := { fid := 494, addr := 0x210000, s1 := 0x10, n := 2048, lo := 25, w := 1, acc := .ro }
/-- The fields of INTC_MOD (spec chapter 19). -/
def INTC_MOD.fields : List Fld := [INTC_MOD.TIMER_US, INTC_MOD.COUNT, INTC_MOD.IDLE_HINT, INTC_MOD.HELD]

def INTC_SRC.FM_MASK : Fld := { fid := 495, addr := 0x220000, s1 := 0x10, n := 2048, w := 2, acc := .rw }
def INTC_SRC.TYPE : Fld := { fid := 496, addr := 0x220000, s1 := 0x10, n := 2048, lo := 2, w := 1, acc := .ro }
def INTC_SRC.STATE : Fld := { fid := 497, addr := 0x220000, s1 := 0x10, n := 2048, lo := 3, w := 2, acc := .ro }
def INTC_SRC.REFIRE : Fld := { fid := 498, addr := 0x220000, s1 := 0x10, n := 2048, lo := 5, w := 1, acc := .ro }
def INTC_SRC.ASSERTED : Fld := { fid := 499, addr := 0x220000, s1 := 0x10, n := 2048, lo := 6, w := 1, acc := .ro }
def INTC_SRC.RELEASE : Fld := { fid := 500, addr := 0x220000, s1 := 0x10, n := 2048, lo := 7, w := 1, acc := .wo }
def INTC_SRC.CLAIMANT : Fld := { fid := 501, addr := 0x220000, s1 := 0x10, n := 2048, lo := 8, w := 7, acc := .ro }
def INTC_SRC.HOST_MASK : Fld := { fid := 502, addr := 0x220008, s1 := 0x10, n := 2048, w := 64, acc := .rw }
/-- The fields of INTC_SRC (spec chapter 19). -/
def INTC_SRC.fields : List Fld := [INTC_SRC.FM_MASK, INTC_SRC.TYPE, INTC_SRC.STATE, INTC_SRC.REFIRE, INTC_SRC.ASSERTED, INTC_SRC.RELEASE, INTC_SRC.CLAIMANT, INTC_SRC.HOST_MASK]

def ODM_MBX_CMD.INDEX : Fld := { fid := 503, addr := 0x1400000, w := 16, acc := .rw }
def ODM_MBX_CMD.SUB : Fld := { fid := 504, addr := 0x1400000, lo := 16, w := 8, acc := .rw }
def ODM_MBX_CMD.OP : Fld := { fid := 505, addr := 0x1400000, lo := 24, w := 2, acc := .rw }
def ODM_MBX_CMD.LENGTH : Fld := { fid := 506, addr := 0x1400000, lo := 32, w := 13, acc := .rw }
/-- The fields of ODM_MBX_CMD (spec chapter 20). -/
def ODM_MBX_CMD.fields : List Fld := [ODM_MBX_CMD.INDEX, ODM_MBX_CMD.SUB, ODM_MBX_CMD.OP, ODM_MBX_CMD.LENGTH]

def ODM_MBX_CTL.GO : Fld := { fid := 507, addr := 0x1400008, w := 1, acc := .wo }
def ODM_MBX_CTL.BUSY : Fld := { fid := 508, addr := 0x1400008, lo := 1, w := 1, acc := .ro }
def ODM_MBX_CTL.DONE : Fld := { fid := 509, addr := 0x1400008, lo := 2, w := 1, acc := .w1c }
def ODM_MBX_CTL.RLEN : Fld := { fid := 510, addr := 0x1400008, lo := 32, w := 13, acc := .ro }
/-- The fields of ODM_MBX_CTL (spec chapter 20). -/
def ODM_MBX_CTL.fields : List Fld := [ODM_MBX_CTL.GO, ODM_MBX_CTL.BUSY, ODM_MBX_CTL.DONE, ODM_MBX_CTL.RLEN]

def ODM_MBX_ABORT.ABORT : Fld := { fid := 511, addr := 0x1400010, w := 32, acc := .ro }
/-- The fields of ODM_MBX_ABORT (spec chapter 20). -/
def ODM_MBX_ABORT.fields : List Fld := [ODM_MBX_ABORT.ABORT]

def ODM_NMT.STATE : Fld := { fid := 512, addr := 0x1400100, w := 2, acc := .ro }
def ODM_NMT.NODE_ID : Fld := { fid := 513, addr := 0x1400100, lo := 8, w := 7, acc := .ro }
def ODM_NMT.RECOVERY : Fld := { fid := 514, addr := 0x1400100, lo := 16, w := 1, acc := .ro }
def ODM_NMT.HB_LOST : Fld := { fid := 515, addr := 0x1400100, lo := 17, w := 1, acc := .ro }
/-- The fields of ODM_NMT (spec chapter 20). -/
def ODM_NMT.fields : List Fld := [ODM_NMT.STATE, ODM_NMT.NODE_ID, ODM_NMT.RECOVERY, ODM_NMT.HB_LOST]

def ODM_CAN.RUN : Fld := { fid := 516, addr := 0x1400200, s1 := 0x40, n := 2, w := 1, acc := .ro }
def ODM_CAN.BUS : Fld := { fid := 517, addr := 0x1400200, s1 := 0x40, n := 2, lo := 1, w := 2, acc := .ro }
def ODM_CAN.TEC : Fld := { fid := 518, addr := 0x1400200, s1 := 0x40, n := 2, lo := 8, w := 8, acc := .ro }
def ODM_CAN.REC : Fld := { fid := 519, addr := 0x1400200, s1 := 0x40, n := 2, lo := 16, w := 8, acc := .ro }
def ODM_CAN.RX_FRAMES : Fld := { fid := 520, addr := 0x1400208, s1 := 0x40, n := 2, w := 64, acc := .rw, ctr := true, ovf := some (524, 0) }
def ODM_CAN.TX_FRAMES : Fld := { fid := 521, addr := 0x1400210, s1 := 0x40, n := 2, w := 64, acc := .rw, ctr := true, ovf := some (524, 1) }
def ODM_CAN.ERR_FRAMES : Fld := { fid := 522, addr := 0x1400218, s1 := 0x40, n := 2, w := 48, acc := .rw, ctr := true, ovf := some (524, 2) }
def ODM_CAN.BUS_OFF : Fld := { fid := 523, addr := 0x1400220, s1 := 0x40, n := 2, w := 48, acc := .rw, ctr := true, ovf := some (524, 3) }
def ODM_CAN.OVF : Fld := { fid := 524, addr := 0x1400228, s1 := 0x40, n := 2, w := 4, acc := .w1c }
def ODM_CAN.CLR : Fld := { fid := 525, addr := 0x1400228, s1 := 0x40, n := 2, lo := 8, w := 1, acc := .wo }
/-- The fields of ODM_CAN (spec chapter 20). -/
def ODM_CAN.fields : List Fld := [ODM_CAN.RUN, ODM_CAN.BUS, ODM_CAN.TEC, ODM_CAN.REC, ODM_CAN.RX_FRAMES, ODM_CAN.TX_FRAMES, ODM_CAN.ERR_FRAMES, ODM_CAN.BUS_OFF, ODM_CAN.OVF, ODM_CAN.CLR]

def ODM_CTR.EMCY_SENT : Fld := { fid := 526, addr := 0x1400300, w := 48, acc := .rw, ctr := true, ovf := some (531, 0) }
def ODM_CTR.EMCY_DROPPED : Fld := { fid := 527, addr := 0x1400308, w := 48, acc := .rw, ctr := true, ovf := some (531, 1) }
def ODM_CTR.USDO_ABORTS : Fld := { fid := 528, addr := 0x1400310, w := 48, acc := .rw, ctr := true, ovf := some (531, 2) }
def ODM_CTR.SYNC_LATE : Fld := { fid := 529, addr := 0x1400318, w := 48, acc := .rw, ctr := true, ovf := some (531, 3) }
def ODM_CTR.RPDO_REJECT : Fld := { fid := 530, addr := 0x1400320, w := 48, acc := .rw, ctr := true, ovf := some (531, 4) }
def ODM_CTR.OVF : Fld := { fid := 531, addr := 0x1400328, w := 5, acc := .w1c }
def ODM_CTR.CLR : Fld := { fid := 532, addr := 0x1400328, lo := 8, w := 1, acc := .wo }
/-- The fields of ODM_CTR (spec chapter 20). -/
def ODM_CTR.fields : List Fld := [ODM_CTR.EMCY_SENT, ODM_CTR.EMCY_DROPPED, ODM_CTR.USDO_ABORTS, ODM_CTR.SYNC_LATE, ODM_CTR.RPDO_REJECT, ODM_CTR.OVF, ODM_CTR.CLR]

def GLB_YIELD.GOOD : Fld := { fid := 533, addr := 0x100, s1 := 0x8, n := 4, w := 13, acc := .ro }
def GLB_YIELD.PHYS : Fld := { fid := 534, addr := 0x100, s1 := 0x8, n := 4, lo := 16, w := 48, acc := .ro }
/-- The fields of GLB_YIELD (spec chapter 21). -/
def GLB_YIELD.fields : List Fld := [GLB_YIELD.GOOD, GLB_YIELD.PHYS]

def RST_BOOT_CTL.GO_STEP : Fld := { fid := 535, addr := 0x108000, w := 4, acc := .wo }
def RST_BOOT_CTL.CUR_STEP : Fld := { fid := 536, addr := 0x108000, lo := 4, w := 4, acc := .ro, reset := 0x1 }
def RST_BOOT_CTL.RECOVERY : Fld := { fid := 537, addr := 0x108000, lo := 8, w := 1, acc := .ro }
def RST_BOOT_CTL.ENABLED : Fld := { fid := 538, addr := 0x108000, lo := 9, w := 1, acc := .ro }
def RST_BOOT_CTL.FORCED : Fld := { fid := 539, addr := 0x108000, lo := 10, w := 1, acc := .ro }
def RST_BOOT_CTL.RECOV_EXIT : Fld := { fid := 540, addr := 0x108000, lo := 11, w := 1, acc := .wo }
def RST_BOOT_CTL.FAILS : Fld := { fid := 541, addr := 0x108000, lo := 12, w := 2, acc := .ro }
/-- The fields of RST_BOOT_CTL (spec chapter 21). -/
def RST_BOOT_CTL.fields : List Fld := [RST_BOOT_CTL.GO_STEP, RST_BOOT_CTL.CUR_STEP, RST_BOOT_CTL.RECOVERY, RST_BOOT_CTL.ENABLED, RST_BOOT_CTL.FORCED, RST_BOOT_CTL.RECOV_EXIT, RST_BOOT_CTL.FAILS]

def RST_BOOT_FW.FW_PA : Fld := { fid := 542, addr := 0x108008, lo := 26, w := 22, acc := .rw, reset := 0x5FF }
/-- The fields of RST_BOOT_FW (spec chapter 21). -/
def RST_BOOT_FW.fields : List Fld := [RST_BOOT_FW.FW_PA]

def RST_BOOT_STEP.STATE : Fld := { fid := 543, addr := 0x108100, s1 := 0x8, n := 11, w := 3, acc := .ro }
def RST_BOOT_STEP.ERR : Fld := { fid := 544, addr := 0x108100, s1 := 0x8, n := 11, lo := 8, w := 8, acc := .ro }
def RST_BOOT_STEP.ELAPSED_US : Fld := { fid := 545, addr := 0x108100, s1 := 0x8, n := 11, lo := 16, w := 32, acc := .ro }
/-- The fields of RST_BOOT_STEP (spec chapter 21). -/
def RST_BOOT_STEP.fields : List Fld := [RST_BOOT_STEP.STATE, RST_BOOT_STEP.ERR, RST_BOOT_STEP.ELAPSED_US]

def RST_BOOT_INFO.FW_SLOT : Fld := { fid := 546, addr := 0x108010, w := 1, acc := .ro }
def RST_BOOT_INFO.FW_FALLBACK : Fld := { fid := 547, addr := 0x108010, lo := 1, w := 1, acc := .ro }
def RST_BOOT_INFO.TRIAL : Fld := { fid := 548, addr := 0x108010, lo := 2, w := 1, acc := .ro }
def RST_BOOT_INFO.FWA_ERR : Fld := { fid := 549, addr := 0x108010, lo := 8, w := 4, acc := .ro }
def RST_BOOT_INFO.FWB_ERR : Fld := { fid := 550, addr := 0x108010, lo := 12, w := 4, acc := .ro }
def RST_BOOT_INFO.REPAIR_SKIP : Fld := { fid := 551, addr := 0x108010, lo := 16, w := 7, acc := .ro }
def RST_BOOT_INFO.LIC_SLOT : Fld := { fid := 552, addr := 0x108010, lo := 24, w := 3, acc := .ro }
def RST_BOOT_INFO.SVN : Fld := { fid := 553, addr := 0x108010, lo := 32, w := 16, acc := .ro }
/-- The fields of RST_BOOT_INFO (spec chapter 21). -/
def RST_BOOT_INFO.fields : List Fld := [RST_BOOT_INFO.FW_SLOT, RST_BOOT_INFO.FW_FALLBACK, RST_BOOT_INFO.TRIAL, RST_BOOT_INFO.FWA_ERR, RST_BOOT_INFO.FWB_ERR, RST_BOOT_INFO.REPAIR_SKIP, RST_BOOT_INFO.LIC_SLOT, RST_BOOT_INFO.SVN]

def RST_BOOT_LIC.RES : Fld := { fid := 554, addr := 0x108018, w := 24, acc := .ro }
/-- The fields of RST_BOOT_LIC (spec chapter 21). -/
def RST_BOOT_LIC.fields : List Fld := [RST_BOOT_LIC.RES]

def RST_BOOT_SEL.TRIAL_REQ : Fld := { fid := 555, addr := 0x108020, w := 1, acc := .w1s }
/-- The fields of RST_BOOT_SEL (spec chapter 21). -/
def RST_BOOT_SEL.fields : List Fld := [RST_BOOT_SEL.TRIAL_REQ]

def RST_FLASH.ADDR : Fld := { fid := 556, addr := 0x109000, w := 29, acc := .rw }
def RST_FLASH.LEN : Fld := { fid := 557, addr := 0x109000, lo := 32, w := 13, acc := .rw }
def RST_FLASH.OP : Fld := { fid := 558, addr := 0x109000, lo := 48, w := 2, acc := .rw }
def RST_FLASH.GO : Fld := { fid := 559, addr := 0x109008, w := 1, acc := .wo }
def RST_FLASH.BUSY : Fld := { fid := 560, addr := 0x109008, lo := 1, w := 1, acc := .ro }
def RST_FLASH.RESULT : Fld := { fid := 561, addr := 0x109008, lo := 2, w := 2, acc := .ro }
def RST_FLASH.SIZE_MIB : Fld := { fid := 562, addr := 0x109010, w := 10, acc := .ro }
def RST_FLASH.JEDEC_ID : Fld := { fid := 563, addr := 0x109010, lo := 16, w := 24, acc := .ro }
/-- The fields of RST_FLASH (spec chapter 21). -/
def RST_FLASH.fields : List Fld := [RST_FLASH.ADDR, RST_FLASH.LEN, RST_FLASH.OP, RST_FLASH.GO, RST_FLASH.BUSY, RST_FLASH.RESULT, RST_FLASH.SIZE_MIB, RST_FLASH.JEDEC_ID]

def RST_CTL.WARM : Fld := { fid := 564, addr := 0x100000, w := 1, acc := .wo }
def RST_CTL.FULL : Fld := { fid := 565, addr := 0x100000, lo := 1, w := 1, acc := .wo }
def RST_CTL.KEY : Fld := { fid := 566, addr := 0x100000, lo := 8, w := 8, acc := .wo }
/-- The fields of RST_CTL (spec chapter 22). -/
def RST_CTL.fields : List Fld := [RST_CTL.WARM, RST_CTL.FULL, RST_CTL.KEY]

def RST_STATUS.LAST_FULL : Fld := { fid := 567, addr := 0x100008, w := 3, acc := .ro }
def RST_STATUS.LAST_WARM : Fld := { fid := 568, addr := 0x100008, lo := 4, w := 2, acc := .ro }
def RST_STATUS.WARM_ACTIVE : Fld := { fid := 569, addr := 0x100008, lo := 6, w := 1, acc := .ro }
def RST_STATUS.WARM_FAILED : Fld := { fid := 570, addr := 0x100008, lo := 7, w := 1, acc := .w1c }
def RST_STATUS.WARM_STEP : Fld := { fid := 571, addr := 0x100008, lo := 8, w := 4, acc := .ro }
def RST_STATUS.PART_ACTIVE : Fld := { fid := 572, addr := 0x100008, lo := 16, w := 8, acc := .ro }
/-- The fields of RST_STATUS (spec chapter 22). -/
def RST_STATUS.fields : List Fld := [RST_STATUS.LAST_FULL, RST_STATUS.LAST_WARM, RST_STATUS.WARM_ACTIVE, RST_STATUS.WARM_FAILED, RST_STATUS.WARM_STEP, RST_STATUS.PART_ACTIVE]

def RST_CFG.IDLE_US : Fld := { fid := 573, addr := 0x100010, w := 14, acc := .rw, staged := true, reset := 0x64 }
/-- The fields of RST_CFG (spec chapter 22). -/
def RST_CFG.fields : List Fld := [RST_CFG.IDLE_US]

def RST_PART.PART : Fld := { fid := 574, addr := 0x100018, w := 3, acc := .wo }
def RST_PART.GO : Fld := { fid := 575, addr := 0x100018, lo := 3, w := 1, acc := .wo }
/-- The fields of RST_PART (spec chapter 22). -/
def RST_PART.fields : List Fld := [RST_PART.PART, RST_PART.GO]

def RST_CTR.WARMS : Fld := { fid := 576, addr := 0x100020, w := 48, acc := .rw, ctr := true, ovf := some (580, 0) }
def RST_CTR.PART_RESETS : Fld := { fid := 577, addr := 0x100028, w := 48, acc := .rw, ctr := true, ovf := some (580, 1) }
def RST_CTR.BLOCK_RESETS : Fld := { fid := 578, addr := 0x100030, w := 48, acc := .rw, ctr := true, ovf := some (580, 2) }
def RST_CTR.IDLE_TIMEOUTS : Fld := { fid := 579, addr := 0x100038, w := 48, acc := .rw, ctr := true, ovf := some (580, 3) }
def RST_CTR.OVF : Fld := { fid := 580, addr := 0x100040, w := 4, acc := .w1c }
def RST_CTR.CLR : Fld := { fid := 581, addr := 0x100040, lo := 8, w := 1, acc := .wo }
/-- The fields of RST_CTR (spec chapter 22). -/
def RST_CTR.fields : List Fld := [RST_CTR.WARMS, RST_CTR.PART_RESETS, RST_CTR.BLOCK_RESETS, RST_CTR.IDLE_TIMEOUTS, RST_CTR.OVF, RST_CTR.CLR]

def RST_BLOCK.TYPE : Fld := { fid := 582, addr := 0x100100, s1 := 0x10, n := 8, w := 3, acc := .rw }
def RST_BLOCK.UNIT : Fld := { fid := 583, addr := 0x100100, s1 := 0x10, n := 8, lo := 4, w := 6, acc := .rw }
def RST_BLOCK.CORE : Fld := { fid := 584, addr := 0x100100, s1 := 0x10, n := 8, lo := 10, w := 2, acc := .rw }
def RST_BLOCK.GO : Fld := { fid := 585, addr := 0x100100, s1 := 0x10, n := 8, lo := 16, w := 1, acc := .wo }
def RST_BLOCK.BUSY : Fld := { fid := 586, addr := 0x100100, s1 := 0x10, n := 8, lo := 17, w := 1, acc := .ro }
def RST_BLOCK.RESULT : Fld := { fid := 587, addr := 0x100100, s1 := 0x10, n := 8, lo := 18, w := 2, acc := .ro }
/-- The fields of RST_BLOCK (spec chapter 22). -/
def RST_BLOCK.fields : List Fld := [RST_BLOCK.TYPE, RST_BLOCK.UNIT, RST_BLOCK.CORE, RST_BLOCK.GO, RST_BLOCK.BUSY, RST_BLOCK.RESULT]

def PWR_CMD.STATE : Fld := { fid := 588, addr := 0x101000, w := 2, acc := .wo }
def PWR_CMD.KEY : Fld := { fid := 589, addr := 0x101000, lo := 8, w := 8, acc := .wo }
/-- The fields of PWR_CMD (spec chapter 22). -/
def PWR_CMD.fields : List Fld := [PWR_CMD.STATE, PWR_CMD.KEY]

def PWR_STATUS.STATE : Fld := { fid := 590, addr := 0x101008, w := 2, acc := .ro }
def PWR_STATUS.ENTERING : Fld := { fid := 591, addr := 0x101008, lo := 2, w := 1, acc := .ro }
def PWR_STATUS.EXITING : Fld := { fid := 592, addr := 0x101008, lo := 3, w := 1, acc := .ro }
def PWR_STATUS.RESULT : Fld := { fid := 593, addr := 0x101008, lo := 4, w := 3, acc := .ro }
def PWR_STATUS.OFF_READY : Fld := { fid := 594, addr := 0x101008, lo := 7, w := 1, acc := .ro }
def PWR_STATUS.LAST_WAKE_US : Fld := { fid := 595, addr := 0x101008, lo := 16, w := 16, acc := .ro }
/-- The fields of PWR_STATUS (spec chapter 22). -/
def PWR_STATUS.fields : List Fld := [PWR_STATUS.STATE, PWR_STATUS.ENTERING, PWR_STATUS.EXITING, PWR_STATUS.RESULT, PWR_STATUS.OFF_READY, PWR_STATUS.LAST_WAKE_US]

def PWR_ENVELOPE.WATTS : Fld := { fid := 596, addr := 0x101010, w := 9, acc := .rw, staged := true, reset := 0x12C }
/-- The fields of PWR_ENVELOPE (spec chapter 22). -/
def PWR_ENVELOPE.fields : List Fld := [PWR_ENVELOPE.WATTS]

def PWR_LEVEL.CORE : Fld := { fid := 597, addr := 0x101018, w := 3, acc := .ro, reset := 0x7 }
def PWR_LEVEL.LOOM : Fld := { fid := 598, addr := 0x101018, lo := 4, w := 3, acc := .ro, reset := 0x7 }
def PWR_LEVEL.TJ : Fld := { fid := 599, addr := 0x101018, lo := 8, w := 8, acc := .ro }
def PWR_LEVEL.PKG_W : Fld := { fid := 600, addr := 0x101018, lo := 16, w := 16, acc := .ro }
def PWR_LEVEL.FIXED_W : Fld := { fid := 601, addr := 0x101018, lo := 32, w := 16, acc := .ro }
/-- The fields of PWR_LEVEL (spec chapter 22). -/
def PWR_LEVEL.fields : List Fld := [PWR_LEVEL.CORE, PWR_LEVEL.LOOM, PWR_LEVEL.TJ, PWR_LEVEL.PKG_W, PWR_LEVEL.FIXED_W]

def PWR_WAKE_EN.PCIE : Fld := { fid := 602, addr := 0x101020, w := 1, acc := .ro, reset := 0x1 }
def PWR_WAKE_EN.CAN : Fld := { fid := 603, addr := 0x101020, lo := 1, w := 1, acc := .rw, staged := true, reset := 0x1 }
def PWR_WAKE_EN.PEXLINK : Fld := { fid := 604, addr := 0x101020, lo := 2, w := 1, acc := .rw, staged := true, reset := 0x1 }
def PWR_WAKE_EN.SYNC_IN : Fld := { fid := 605, addr := 0x101020, lo := 3, w := 1, acc := .rw, staged := true }
def PWR_WAKE_EN.GPIO : Fld := { fid := 606, addr := 0x101020, lo := 16, w := 16, acc := .rw, staged := true }
/-- The fields of PWR_WAKE_EN (spec chapter 22). -/
def PWR_WAKE_EN.fields : List Fld := [PWR_WAKE_EN.PCIE, PWR_WAKE_EN.CAN, PWR_WAKE_EN.PEXLINK, PWR_WAKE_EN.SYNC_IN, PWR_WAKE_EN.GPIO]

def PWR_WAKE_SRC.SRC : Fld := { fid := 607, addr := 0x101028, w := 4, acc := .w1c }
def PWR_WAKE_SRC.ACCESS : Fld := { fid := 608, addr := 0x101028, lo := 4, w := 1, acc := .w1c }
def PWR_WAKE_SRC.RESET : Fld := { fid := 609, addr := 0x101028, lo := 5, w := 1, acc := .w1c }
def PWR_WAKE_SRC.GPIO : Fld := { fid := 610, addr := 0x101028, lo := 16, w := 16, acc := .w1c }
/-- The fields of PWR_WAKE_SRC (spec chapter 22). -/
def PWR_WAKE_SRC.fields : List Fld := [PWR_WAKE_SRC.SRC, PWR_WAKE_SRC.ACCESS, PWR_WAKE_SRC.RESET, PWR_WAKE_SRC.GPIO]

def PWR_DOMAIN.CLUSTERS_Q : Fld := { fid := 611, addr := 0x101030, w := 4, acc := .ro }
def PWR_DOMAIN.LOOMS_Q : Fld := { fid := 612, addr := 0x101030, lo := 4, w := 4, acc := .ro }
def PWR_DOMAIN.HUB : Fld := { fid := 613, addr := 0x101030, lo := 8, w := 1, acc := .ro }
def PWR_DOMAIN.FOREMAN_A : Fld := { fid := 614, addr := 0x101030, lo := 9, w := 1, acc := .ro }
def PWR_DOMAIN.FOREMAN_B : Fld := { fid := 615, addr := 0x101030, lo := 10, w := 1, acc := .ro }
def PWR_DOMAIN.DISPLAY : Fld := { fid := 616, addr := 0x101030, lo := 11, w := 1, acc := .ro }
def PWR_DOMAIN.HBM_SR : Fld := { fid := 617, addr := 0x101030, lo := 12, w := 4, acc := .ro }
/-- The fields of PWR_DOMAIN (spec chapter 22). -/
def PWR_DOMAIN.fields : List Fld := [PWR_DOMAIN.CLUSTERS_Q, PWR_DOMAIN.LOOMS_Q, PWR_DOMAIN.HUB, PWR_DOMAIN.FOREMAN_A, PWR_DOMAIN.FOREMAN_B, PWR_DOMAIN.DISPLAY, PWR_DOMAIN.HBM_SR]

def PWR_AVS.VREQ_MV : Fld := { fid := 618, addr := 0x101100, s1 := 0x40, n := 2, w := 16, acc := .ro }
def PWR_AVS.VACK_MV : Fld := { fid := 619, addr := 0x101100, s1 := 0x40, n := 2, lo := 16, w := 16, acc := .ro }
def PWR_AVS.LEVEL : Fld := { fid := 620, addr := 0x101100, s1 := 0x40, n := 2, lo := 32, w := 3, acc := .ro, reset := 0x7 }
def PWR_AVS.PENDING : Fld := { fid := 621, addr := 0x101100, s1 := 0x40, n := 2, lo := 35, w := 1, acc := .ro }
def PWR_AVS.VOUT_MV : Fld := { fid := 622, addr := 0x101108, s1 := 0x40, n := 2, w := 16, acc := .ro }
def PWR_AVS.IOUT_A : Fld := { fid := 623, addr := 0x101108, s1 := 0x40, n := 2, lo := 16, w := 16, acc := .ro }
def PWR_AVS.POUT_W : Fld := { fid := 624, addr := 0x101108, s1 := 0x40, n := 2, lo := 32, w := 16, acc := .ro }
def PWR_AVS.TEMP : Fld := { fid := 625, addr := 0x101108, s1 := 0x40, n := 2, lo := 48, w := 8, acc := .ro }
def PWR_AVS.NACKS : Fld := { fid := 626, addr := 0x101110, s1 := 0x40, n := 2, w := 48, acc := .rw, ctr := true, ovf := some (627, 0) }
def PWR_AVS.OVF : Fld := { fid := 627, addr := 0x101110, s1 := 0x40, n := 2, lo := 48, w := 1, acc := .w1c }
def PWR_AVS.V0_3 : Fld := { fid := 628, addr := 0x101118, s1 := 0x40, n := 2, w := 64, acc := .ro }
def PWR_AVS.V4_7 : Fld := { fid := 629, addr := 0x101120, s1 := 0x40, n := 2, w := 64, acc := .ro }
/-- The fields of PWR_AVS (spec chapter 22). -/
def PWR_AVS.fields : List Fld := [PWR_AVS.VREQ_MV, PWR_AVS.VACK_MV, PWR_AVS.LEVEL, PWR_AVS.PENDING, PWR_AVS.VOUT_MV, PWR_AVS.IOUT_A, PWR_AVS.POUT_W, PWR_AVS.TEMP, PWR_AVS.NACKS, PWR_AVS.OVF, PWR_AVS.V0_3, PWR_AVS.V4_7]

def PWR_CTR.DOZE_ENTRIES : Fld := { fid := 630, addr := 0x101200, w := 48, acc := .rw, ctr := true, ovf := some (634, 0) }
def PWR_CTR.NAP_ENTRIES : Fld := { fid := 631, addr := 0x101208, w := 48, acc := .rw, ctr := true, ovf := some (634, 1) }
def PWR_CTR.ENTRY_ABORTS : Fld := { fid := 632, addr := 0x101210, w := 48, acc := .rw, ctr := true, ovf := some (634, 2) }
def PWR_CTR.DOMAIN_WAKES : Fld := { fid := 633, addr := 0x101218, w := 48, acc := .rw, ctr := true, ovf := some (634, 3) }
def PWR_CTR.OVF : Fld := { fid := 634, addr := 0x101220, w := 4, acc := .w1c }
def PWR_CTR.CLR : Fld := { fid := 635, addr := 0x101220, lo := 8, w := 1, acc := .wo }
/-- The fields of PWR_CTR (spec chapter 22). -/
def PWR_CTR.fields : List Fld := [PWR_CTR.DOZE_ENTRIES, PWR_CTR.NAP_ENTRIES, PWR_CTR.ENTRY_ABORTS, PWR_CTR.DOMAIN_WAKES, PWR_CTR.OVF, PWR_CTR.CLR]

def SAF_STATUS.FAULT : Fld := { fid := 636, addr := 0x1200000, w := 1, acc := .ro, reset := 0x1 }
def SAF_STATUS.DEGRADED : Fld := { fid := 637, addr := 0x1200000, lo := 1, w := 1, acc := .ro, reset := 0x1 }
def SAF_STATUS.SAFE_REQ : Fld := { fid := 638, addr := 0x1200000, lo := 2, w := 1, acc := .ro }
def SAF_STATUS.LEVEL : Fld := { fid := 639, addr := 0x1200000, lo := 3, w := 3, acc := .ro }
def SAF_STATUS.THERMAL_CLAMP : Fld := { fid := 640, addr := 0x1200000, lo := 6, w := 1, acc := .ro }
def SAF_STATUS.WDOG : Fld := { fid := 641, addr := 0x1200000, lo := 8, w := 1, acc := .w1c }
def SAF_STATUS.VMON : Fld := { fid := 642, addr := 0x1200000, lo := 9, w := 1, acc := .w1c }
def SAF_STATUS.CMON : Fld := { fid := 643, addr := 0x1200000, lo := 10, w := 1, acc := .w1c }
def SAF_STATUS.TMON : Fld := { fid := 644, addr := 0x1200000, lo := 11, w := 1, acc := .w1c }
def SAF_STATUS.LOCKSTEP : Fld := { fid := 645, addr := 0x1200000, lo := 12, w := 1, acc := .w1c }
def SAF_STATUS.SHARED : Fld := { fid := 646, addr := 0x1200000, lo := 13, w := 1, acc := .w1c }
/-- The fields of SAF_STATUS (spec chapter 23). -/
def SAF_STATUS.fields : List Fld := [SAF_STATUS.FAULT, SAF_STATUS.DEGRADED, SAF_STATUS.SAFE_REQ, SAF_STATUS.LEVEL, SAF_STATUS.THERMAL_CLAMP, SAF_STATUS.WDOG, SAF_STATUS.VMON, SAF_STATUS.CMON, SAF_STATUS.TMON, SAF_STATUS.LOCKSTEP, SAF_STATUS.SHARED]

def SAF_CFG.DEG_MASK : Fld := { fid := 647, addr := 0x1200008, w := 5, acc := .rw, staged := true, reset := 0x1F }
def SAF_CFG.SAFE_ACTION : Fld := { fid := 648, addr := 0x1200008, lo := 8, w := 2, acc := .rw, staged := true, reset := 0x1 }
def SAF_CFG.SAFE_PARTS : Fld := { fid := 649, addr := 0x1200008, lo := 16, w := 8, acc := .rw, staged := true }
/-- The fields of SAF_CFG (spec chapter 23). -/
def SAF_CFG.fields : List Fld := [SAF_CFG.DEG_MASK, SAF_CFG.SAFE_ACTION, SAF_CFG.SAFE_PARTS]

def SAF_ROUTE.ACTION : Fld := { fid := 650, addr := 0x1200010, w := 18, acc := .rw, staged := true, reset := 0x1555A }
/-- The fields of SAF_ROUTE (spec chapter 23). -/
def SAF_ROUTE.fields : List Fld := [SAF_ROUTE.ACTION]

def SAF_ROUTED.HIT : Fld := { fid := 651, addr := 0x1200018, w := 9, acc := .w1c }
/-- The fields of SAF_ROUTED (spec chapter 23). -/
def SAF_ROUTED.fields : List Fld := [SAF_ROUTED.HIT]

def SAF_INC.INCIDENT : Fld := { fid := 652, addr := 0x1200100, s1 := 0x20, n := 3, w := 64, acc := .ro }
def SAF_INC.OPEN : Fld := { fid := 653, addr := 0x1200108, s1 := 0x20, n := 3, w := 1, acc := .ro }
def SAF_INC.LEVEL : Fld := { fid := 654, addr := 0x1200108, s1 := 0x20, n := 3, lo := 1, w := 3, acc := .ro }
def SAF_INC.OWNER : Fld := { fid := 655, addr := 0x1200108, s1 := 0x20, n := 3, lo := 4, w := 4, acc := .ro }
def SAF_INC.SOURCE : Fld := { fid := 656, addr := 0x1200108, s1 := 0x20, n := 3, lo := 8, w := 11, acc := .ro }
def SAF_INC.DETECT_TIME : Fld := { fid := 657, addr := 0x1200110, s1 := 0x20, n := 3, w := 64, acc := .ro }
def SAF_INC.DONE_TIME : Fld := { fid := 658, addr := 0x1200118, s1 := 0x20, n := 3, w := 64, acc := .ro }
/-- The fields of SAF_INC (spec chapter 23). -/
def SAF_INC.fields : List Fld := [SAF_INC.INCIDENT, SAF_INC.OPEN, SAF_INC.LEVEL, SAF_INC.OWNER, SAF_INC.SOURCE, SAF_INC.DETECT_TIME, SAF_INC.DONE_TIME]

def SAF_CTR.INCIDENTS : Fld := { fid := 659, addr := 0x1200200, w := 64, acc := .rw, ctr := true, ovf := some (667, 0) }
def SAF_CTR.L0 : Fld := { fid := 660, addr := 0x1200208, w := 48, acc := .rw, ctr := true, ovf := some (667, 1) }
def SAF_CTR.L1 : Fld := { fid := 661, addr := 0x1200210, w := 48, acc := .rw, ctr := true, ovf := some (667, 2) }
def SAF_CTR.L2 : Fld := { fid := 662, addr := 0x1200218, w := 48, acc := .rw, ctr := true, ovf := some (667, 3) }
def SAF_CTR.L3 : Fld := { fid := 663, addr := 0x1200220, w := 48, acc := .rw, ctr := true, ovf := some (667, 4) }
def SAF_CTR.L4 : Fld := { fid := 664, addr := 0x1200228, w := 48, acc := .rw, ctr := true, ovf := some (667, 5) }
def SAF_CTR.ESCALATIONS : Fld := { fid := 665, addr := 0x1200230, w := 48, acc := .rw, ctr := true, ovf := some (667, 6) }
def SAF_CTR.DOWN_US : Fld := { fid := 666, addr := 0x1200238, w := 64, acc := .rw, ctr := true, ovf := some (667, 7) }
def SAF_CTR.OVF : Fld := { fid := 667, addr := 0x1200240, w := 8, acc := .w1c }
def SAF_CTR.CLR : Fld := { fid := 668, addr := 0x1200240, lo := 8, w := 1, acc := .wo }
/-- The fields of SAF_CTR (spec chapter 23). -/
def SAF_CTR.fields : List Fld := [SAF_CTR.INCIDENTS, SAF_CTR.L0, SAF_CTR.L1, SAF_CTR.L2, SAF_CTR.L3, SAF_CTR.L4, SAF_CTR.ESCALATIONS, SAF_CTR.DOWN_US, SAF_CTR.OVF, SAF_CTR.CLR]

def ASY_CFG.CORR_LIMIT : Fld := { fid := 669, addr := 0x1208000, w := 8, acc := .rw, staged := true, reset := 0x40 }
def ASY_CFG.EOL_MARGIN_MV : Fld := { fid := 670, addr := 0x1208000, lo := 8, w := 8, acc := .rw, staged := true, reset := 0x14 }
def ASY_CFG.EOL_HOURS : Fld := { fid := 671, addr := 0x1208000, lo := 16, w := 16, acc := .rw, staged := true, reset := 0xAF }
/-- The fields of ASY_CFG (spec chapter 23). -/
def ASY_CFG.fields : List Fld := [ASY_CFG.CORR_LIMIT, ASY_CFG.EOL_MARGIN_MV, ASY_CFG.EOL_HOURS]

def ASY_STATUS.TESTING : Fld := { fid := 672, addr := 0x1208008, w := 1, acc := .ro }
def ASY_STATUS.UNIT_TYPE : Fld := { fid := 673, addr := 0x1208008, lo := 1, w := 3, acc := .ro }
def ASY_STATUS.UNIT : Fld := { fid := 674, addr := 0x1208008, lo := 4, w := 6, acc := .ro }
def ASY_STATUS.VERDICT : Fld := { fid := 675, addr := 0x1208008, lo := 16, w := 1, acc := .w1c }
def ASY_STATUS.LASTING : Fld := { fid := 676, addr := 0x1208008, lo := 17, w := 1, acc := .ro }
def ASY_STATUS.RETIRED : Fld := { fid := 677, addr := 0x1208008, lo := 18, w := 1, acc := .w1c }
def ASY_STATUS.REPLANNED : Fld := { fid := 678, addr := 0x1208008, lo := 19, w := 1, acc := .w1c }
def ASY_STATUS.WITHDRAWN : Fld := { fid := 679, addr := 0x1208008, lo := 20, w := 1, acc := .w1c }
def ASY_STATUS.EOL : Fld := { fid := 680, addr := 0x1208008, lo := 21, w := 1, acc := .ro }
def ASY_STATUS.MARGIN_MV : Fld := { fid := 681, addr := 0x1208008, lo := 32, w := 12, acc := .ro }
/-- The fields of ASY_STATUS (spec chapter 23). -/
def ASY_STATUS.fields : List Fld := [ASY_STATUS.TESTING, ASY_STATUS.UNIT_TYPE, ASY_STATUS.UNIT, ASY_STATUS.VERDICT, ASY_STATUS.LASTING, ASY_STATUS.RETIRED, ASY_STATUS.REPLANNED, ASY_STATUS.WITHDRAWN, ASY_STATUS.EOL, ASY_STATUS.MARGIN_MV]

def ASY_PROJECT.HOURS : Fld := { fid := 682, addr := 0x1208010, w := 32, acc := .ro, reset := 0xFFFFFFFF }
/-- The fields of ASY_PROJECT (spec chapter 23). -/
def ASY_PROJECT.fields : List Fld := [ASY_PROJECT.HOURS]

def ASY_AGE.DEGR : Fld := { fid := 683, addr := 0x1208100, s1 := 0x40, n := 2, w := 16, acc := .ro }
def ASY_AGE.TOP_LEVEL : Fld := { fid := 684, addr := 0x1208100, s1 := 0x40, n := 2, lo := 16, w := 3, acc := .ro, reset := 0x7 }
def ASY_AGE.MARGIN_MV : Fld := { fid := 685, addr := 0x1208100, s1 := 0x40, n := 2, lo := 20, w := 12, acc := .ro }
def ASY_AGE.MEAS_OPSEC : Fld := { fid := 686, addr := 0x1208100, s1 := 0x40, n := 2, lo := 32, w := 32, acc := .ro }
def ASY_AGE.VT0 : Fld := { fid := 687, addr := 0x1208108, s1 := 0x40, s2 := 0x8, n2 := 2, n := 4, w := 64, acc := .ro }
def ASY_AGE.VMAX : Fld := { fid := 688, addr := 0x1208118, s1 := 0x40, s2 := 0x8, n2 := 2, n := 4, w := 64, acc := .ro }
def ASY_AGE.SENS : Fld := { fid := 689, addr := 0x1208128, s1 := 0x40, n := 2, w := 64, acc := .ro }
/-- The fields of ASY_AGE (spec chapter 23). -/
def ASY_AGE.fields : List Fld := [ASY_AGE.DEGR, ASY_AGE.TOP_LEVEL, ASY_AGE.MARGIN_MV, ASY_AGE.MEAS_OPSEC, ASY_AGE.VT0, ASY_AGE.VMAX, ASY_AGE.SENS]

def ASY_CTR.TESTS : Fld := { fid := 690, addr := 0x1208200, w := 48, acc := .rw, ctr := true, ovf := some (696, 0) }
def ASY_CTR.TRANSIENT : Fld := { fid := 691, addr := 0x1208208, w := 48, acc := .rw, ctr := true, ovf := some (696, 1) }
def ASY_CTR.LASTING : Fld := { fid := 692, addr := 0x1208210, w := 48, acc := .rw, ctr := true, ovf := some (696, 2) }
def ASY_CTR.REMAPPED : Fld := { fid := 693, addr := 0x1208218, w := 48, acc := .rw, ctr := true, ovf := some (696, 3) }
def ASY_CTR.DISABLED : Fld := { fid := 694, addr := 0x1208220, w := 48, acc := .rw, ctr := true, ovf := some (696, 4) }
def ASY_CTR.MEASUREMENTS : Fld := { fid := 695, addr := 0x1208228, w := 48, acc := .rw, ctr := true, ovf := some (696, 5) }
def ASY_CTR.OVF : Fld := { fid := 696, addr := 0x1208230, w := 6, acc := .w1c }
def ASY_CTR.CLR : Fld := { fid := 697, addr := 0x1208230, lo := 8, w := 1, acc := .wo }
/-- The fields of ASY_CTR (spec chapter 23). -/
def ASY_CTR.fields : List Fld := [ASY_CTR.TESTS, ASY_CTR.TRANSIENT, ASY_CTR.LASTING, ASY_CTR.REMAPPED, ASY_CTR.DISABLED, ASY_CTR.MEASUREMENTS, ASY_CTR.OVF, ASY_CTR.CLR]

def LDG_STATUS.FROZEN : Fld := { fid := 698, addr := 0x1300000, w := 1, acc := .ro }
def LDG_STATUS.OWNER : Fld := { fid := 699, addr := 0x1300000, lo := 1, w := 2, acc := .ro }
def LDG_STATUS.MIRROR_BUSY : Fld := { fid := 700, addr := 0x1300000, lo := 3, w := 1, acc := .ro }
/-- The fields of LDG_STATUS (spec chapter 24). -/
def LDG_STATUS.fields : List Fld := [LDG_STATUS.FROZEN, LDG_STATUS.OWNER, LDG_STATUS.MIRROR_BUSY]

def LDG_CTL.FREEZE : Fld := { fid := 701, addr := 0x1300008, w := 1, acc := .wo }
def LDG_CTL.UNFREEZE : Fld := { fid := 702, addr := 0x1300008, lo := 1, w := 1, acc := .wo }
def LDG_CTL.CLEAR : Fld := { fid := 703, addr := 0x1300008, lo := 2, w := 1, acc := .wo }
def LDG_CTL.KEY : Fld := { fid := 704, addr := 0x1300008, lo := 8, w := 8, acc := .wo }
/-- The fields of LDG_CTL (spec chapter 24). -/
def LDG_CTL.fields : List Fld := [LDG_CTL.FREEZE, LDG_CTL.UNFREEZE, LDG_CTL.CLEAR, LDG_CTL.KEY]

def LDG_CFG.IRQ_SEV : Fld := { fid := 705, addr := 0x1300010, w := 2, acc := .rw, staged := true, reset := 0x2 }
def LDG_CFG.FREEZE_MS : Fld := { fid := 706, addr := 0x1300010, lo := 4, w := 10, acc := .rw, staged := true, reset := 0x64 }
def LDG_CFG.MIRROR_HOLD_MS : Fld := { fid := 707, addr := 0x1300010, lo := 16, w := 14, acc := .rw, staged := true, reset := 0x3E8 }
/-- The fields of LDG_CFG (spec chapter 24). -/
def LDG_CFG.fields : List Fld := [LDG_CFG.IRQ_SEV, LDG_CFG.FREEZE_MS, LDG_CFG.MIRROR_HOLD_MS]

def LDG_HEAD.OFFSET : Fld := { fid := 708, addr := 0x1300018, w := 18, acc := .ro }
/-- The fields of LDG_HEAD (spec chapter 24). -/
def LDG_HEAD.fields : List Fld := [LDG_HEAD.OFFSET]

def LDG_TAIL.OFFSET : Fld := { fid := 709, addr := 0x1300020, w := 18, acc := .ro }
/-- The fields of LDG_TAIL (spec chapter 24). -/
def LDG_TAIL.fields : List Fld := [LDG_TAIL.OFFSET]

def LDG_MIRRORED.OFFSET : Fld := { fid := 710, addr := 0x1300028, w := 18, acc := .ro }
/-- The fields of LDG_MIRRORED (spec chapter 24). -/
def LDG_MIRRORED.fields : List Fld := [LDG_MIRRORED.OFFSET]

def LDG_SEQ.SEQ : Fld := { fid := 711, addr := 0x1300030, w := 64, acc := .ro }
/-- The fields of LDG_SEQ (spec chapter 24). -/
def LDG_SEQ.fields : List Fld := [LDG_SEQ.SEQ]

def LDG_INCIDENT.NEXT : Fld := { fid := 712, addr := 0x1300038, w := 64, acc := .ro }
/-- The fields of LDG_INCIDENT (spec chapter 24). -/
def LDG_INCIDENT.fields : List Fld := [LDG_INCIDENT.NEXT]

def LDG_TIME.OPSEC : Fld := { fid := 713, addr := 0x1300040, w := 32, acc := .ro }
def LDG_TIME.PCYC : Fld := { fid := 714, addr := 0x1300040, lo := 32, w := 24, acc := .ro }
/-- The fields of LDG_TIME (spec chapter 24). -/
def LDG_TIME.fields : List Fld := [LDG_TIME.OPSEC, LDG_TIME.PCYC]

def LDG_CTR.RECORDS : Fld := { fid := 715, addr := 0x1300100, w := 64, acc := .rw, ctr := true, ovf := some (721, 0) }
def LDG_CTR.REPEATS : Fld := { fid := 716, addr := 0x1300108, w := 64, acc := .rw, ctr := true, ovf := some (721, 1) }
def LDG_CTR.OVERWRITTEN : Fld := { fid := 717, addr := 0x1300110, w := 48, acc := .rw, ctr := true, ovf := some (721, 2) }
def LDG_CTR.LOST : Fld := { fid := 718, addr := 0x1300118, w := 48, acc := .rw, ctr := true, ovf := some (721, 3) }
def LDG_CTR.MISSED : Fld := { fid := 719, addr := 0x1300120, w := 48, acc := .rw, ctr := true, ovf := some (721, 4) }
def LDG_CTR.MIRROR_ERR : Fld := { fid := 720, addr := 0x1300128, w := 48, acc := .rw, ctr := true, ovf := some (721, 5) }
def LDG_CTR.OVF : Fld := { fid := 721, addr := 0x1300130, w := 6, acc := .w1c }
def LDG_CTR.CLR : Fld := { fid := 722, addr := 0x1300130, lo := 8, w := 1, acc := .wo }
/-- The fields of LDG_CTR (spec chapter 24). -/
def LDG_CTR.fields : List Fld := [LDG_CTR.RECORDS, LDG_CTR.REPEATS, LDG_CTR.OVERWRITTEN, LDG_CTR.LOST, LDG_CTR.MISSED, LDG_CTR.MIRROR_ERR, LDG_CTR.OVF, LDG_CTR.CLR]

def DBG_CFG.JTAG_EN : Fld := { fid := 723, addr := 0x1500000, w := 1, acc := .rw }
def DBG_CFG.LOOM_DBG_PARTS : Fld := { fid := 724, addr := 0x1500000, lo := 8, w := 8, acc := .rw, staged := true }
/-- The fields of DBG_CFG (spec chapter 25). -/
def DBG_CFG.fields : List Fld := [DBG_CFG.JTAG_EN, DBG_CFG.LOOM_DBG_PARTS]

def DBG_HALT.CLUSTER : Fld := { fid := 725, addr := 0x1500008, w := 6, acc := .rw }
def DBG_HALT.CORE : Fld := { fid := 726, addr := 0x1500008, lo := 6, w := 2, acc := .rw }
def DBG_HALT.SLOT : Fld := { fid := 727, addr := 0x1500008, lo := 8, w := 6, acc := .rw }
def DBG_HALT.BY_CTX : Fld := { fid := 728, addr := 0x1500008, lo := 14, w := 1, acc := .rw }
def DBG_HALT.CTX : Fld := { fid := 729, addr := 0x1500008, lo := 16, w := 10, acc := .rw }
def DBG_HALT.HALT : Fld := { fid := 730, addr := 0x1500008, lo := 32, w := 1, acc := .wo }
def DBG_HALT.RESUME : Fld := { fid := 731, addr := 0x1500008, lo := 33, w := 1, acc := .wo }
def DBG_HALT.STEP : Fld := { fid := 732, addr := 0x1500008, lo := 34, w := 1, acc := .wo }
/-- The fields of DBG_HALT (spec chapter 25). -/
def DBG_HALT.fields : List Fld := [DBG_HALT.CLUSTER, DBG_HALT.CORE, DBG_HALT.SLOT, DBG_HALT.BY_CTX, DBG_HALT.CTX, DBG_HALT.HALT, DBG_HALT.RESUME, DBG_HALT.STEP]

def DBG_HALT_STATUS.HALTED : Fld := { fid := 733, addr := 0x1500010, w := 1, acc := .ro }
def DBG_HALT_STATUS.BUSY : Fld := { fid := 734, addr := 0x1500010, lo := 1, w := 1, acc := .ro }
def DBG_HALT_STATUS.LAST : Fld := { fid := 735, addr := 0x1500010, lo := 2, w := 2, acc := .ro }
def DBG_HALT_STATUS.HALTED_GROUPS : Fld := { fid := 736, addr := 0x1500010, lo := 16, w := 16, acc := .ro }
/-- The fields of DBG_HALT_STATUS (spec chapter 25). -/
def DBG_HALT_STATUS.fields : List Fld := [DBG_HALT_STATUS.HALTED, DBG_HALT_STATUS.BUSY, DBG_HALT_STATUS.LAST, DBG_HALT_STATUS.HALTED_GROUPS]

def DBG_ACC.SPACE : Fld := { fid := 737, addr := 0x1500018, w := 1, acc := .rw }
def DBG_ACC.REG : Fld := { fid := 738, addr := 0x1500018, lo := 1, w := 9, acc := .rw }
def DBG_ACC.LANE : Fld := { fid := 739, addr := 0x1500018, lo := 10, w := 5, acc := .rw }
def DBG_ACC.WRITE : Fld := { fid := 740, addr := 0x1500018, lo := 16, w := 1, acc := .rw }
def DBG_ACC.GO : Fld := { fid := 741, addr := 0x1500018, lo := 17, w := 1, acc := .wo }
def DBG_ACC.BUSY : Fld := { fid := 742, addr := 0x1500018, lo := 18, w := 1, acc := .ro }
def DBG_ACC.ERR : Fld := { fid := 743, addr := 0x1500018, lo := 19, w := 1, acc := .ro }
/-- The fields of DBG_ACC (spec chapter 25). -/
def DBG_ACC.fields : List Fld := [DBG_ACC.SPACE, DBG_ACC.REG, DBG_ACC.LANE, DBG_ACC.WRITE, DBG_ACC.GO, DBG_ACC.BUSY, DBG_ACC.ERR]

def DBG_DATA.DATA : Fld := { fid := 744, addr := 0x1500020, w := 64, acc := .rw }
/-- The fields of DBG_DATA (spec chapter 25). -/
def DBG_DATA.fields : List Fld := [DBG_DATA.DATA]

def DBG_BP.VA : Fld := { fid := 745, addr := 0x1500100, s1 := 0x20, n := 8, lo := 3, w := 45, acc := .rw, staged := true }
def DBG_BP.CTX : Fld := { fid := 746, addr := 0x1500108, s1 := 0x20, n := 8, w := 10, acc := .rw, staged := true }
def DBG_BP.EN : Fld := { fid := 747, addr := 0x1500108, s1 := 0x20, n := 8, lo := 12, w := 1, acc := .rw, staged := true }
def DBG_BP.ACTION : Fld := { fid := 748, addr := 0x1500108, s1 := 0x20, n := 8, lo := 13, w := 1, acc := .rw, staged := true }
def DBG_BP.HITS : Fld := { fid := 749, addr := 0x1500110, s1 := 0x20, n := 8, w := 48, acc := .rw, ctr := true, ovf := some (750, 0) }
def DBG_BP.OVF : Fld := { fid := 750, addr := 0x1500118, s1 := 0x20, n := 8, w := 1, acc := .w1c }
/-- The fields of DBG_BP (spec chapter 25). -/
def DBG_BP.fields : List Fld := [DBG_BP.VA, DBG_BP.CTX, DBG_BP.EN, DBG_BP.ACTION, DBG_BP.HITS, DBG_BP.OVF]

def DBG_WP.VA : Fld := { fid := 751, addr := 0x1500200, s1 := 0x20, n := 4, w := 48, acc := .rw, staged := true }
def DBG_WP.LOG2_LEN : Fld := { fid := 752, addr := 0x1500208, s1 := 0x20, n := 4, w := 4, acc := .rw, staged := true }
def DBG_WP.KINDS : Fld := { fid := 753, addr := 0x1500208, s1 := 0x20, n := 4, lo := 4, w := 3, acc := .rw, staged := true }
def DBG_WP.EN : Fld := { fid := 754, addr := 0x1500208, s1 := 0x20, n := 4, lo := 7, w := 1, acc := .rw, staged := true }
def DBG_WP.ACTION : Fld := { fid := 755, addr := 0x1500208, s1 := 0x20, n := 4, lo := 8, w := 1, acc := .rw, staged := true }
def DBG_WP.CTX : Fld := { fid := 756, addr := 0x1500208, s1 := 0x20, n := 4, lo := 16, w := 10, acc := .rw, staged := true }
def DBG_WP.HITS : Fld := { fid := 757, addr := 0x1500210, s1 := 0x20, n := 4, w := 48, acc := .rw, ctr := true, ovf := some (758, 0) }
def DBG_WP.OVF : Fld := { fid := 758, addr := 0x1500218, s1 := 0x20, n := 4, w := 1, acc := .w1c }
/-- The fields of DBG_WP (spec chapter 25). -/
def DBG_WP.fields : List Fld := [DBG_WP.VA, DBG_WP.LOG2_LEN, DBG_WP.KINDS, DBG_WP.EN, DBG_WP.ACTION, DBG_WP.CTX, DBG_WP.HITS, DBG_WP.OVF]

def DBG_LOOM.LOOM : Fld := { fid := 759, addr := 0x1500300, w := 4, acc := .rw }
def DBG_LOOM.HALT : Fld := { fid := 760, addr := 0x1500300, lo := 4, w := 1, acc := .wo }
def DBG_LOOM.RESUME : Fld := { fid := 761, addr := 0x1500300, lo := 5, w := 1, acc := .wo }
def DBG_LOOM.STEP : Fld := { fid := 762, addr := 0x1500300, lo := 6, w := 1, acc := .wo }
def DBG_LOOM.HALTED : Fld := { fid := 763, addr := 0x1500300, lo := 16, w := 12, acc := .ro }
/-- The fields of DBG_LOOM (spec chapter 25). -/
def DBG_LOOM.fields : List Fld := [DBG_LOOM.LOOM, DBG_LOOM.HALT, DBG_LOOM.RESUME, DBG_LOOM.STEP, DBG_LOOM.HALTED]

def DBG_TRACE.TRACE_EN : Fld := { fid := 764, addr := 0x1500400, w := 1, acc := .rw, staged := true }
def DBG_TRACE.MASK : Fld := { fid := 765, addr := 0x1500400, lo := 16, w := 12, acc := .rw, staged := true }
def DBG_TRACE.TRACE_PA : Fld := { fid := 766, addr := 0x1500408, lo := 12, w := 38, acc := .rw, staged := true }
def DBG_TRACE.LOG2_SIZE : Fld := { fid := 767, addr := 0x1500410, w := 5, acc := .rw, staged := true, reset := 0x10 }
def DBG_TRACE.TRACE_WPTR : Fld := { fid := 768, addr := 0x1500418, w := 64, acc := .ro }
def DBG_TRACE.DROPPED : Fld := { fid := 769, addr := 0x1500420, w := 48, acc := .rw, ctr := true, ovf := some (770, 0) }
def DBG_TRACE.OVF : Fld := { fid := 770, addr := 0x1500420, lo := 48, w := 1, acc := .w1c }
/-- The fields of DBG_TRACE (spec chapter 25). -/
def DBG_TRACE.fields : List Fld := [DBG_TRACE.TRACE_EN, DBG_TRACE.MASK, DBG_TRACE.TRACE_PA, DBG_TRACE.LOG2_SIZE, DBG_TRACE.TRACE_WPTR, DBG_TRACE.DROPPED, DBG_TRACE.OVF]

def DBG_CTR.HALT_REFUSED : Fld := { fid := 771, addr := 0x1500500, w := 48, acc := .rw, ctr := true, ovf := some (773, 0) }
def DBG_CTR.STEPS : Fld := { fid := 772, addr := 0x1500508, w := 48, acc := .rw, ctr := true, ovf := some (773, 1) }
def DBG_CTR.OVF : Fld := { fid := 773, addr := 0x1500510, w := 2, acc := .w1c }
def DBG_CTR.CLR : Fld := { fid := 774, addr := 0x1500510, lo := 8, w := 1, acc := .wo }
/-- The fields of DBG_CTR (spec chapter 25). -/
def DBG_CTR.fields : List Fld := [DBG_CTR.HALT_REFUSED, DBG_CTR.STEPS, DBG_CTR.OVF, DBG_CTR.CLR]

def PMU_CTL.EN : Fld := { fid := 775, addr := 0x1580000, w := 1, acc := .rw }
def PMU_CTL.SNAP_TICK : Fld := { fid := 776, addr := 0x1580000, lo := 1, w := 1, acc := .rw, staged := true }
/-- The fields of PMU_CTL (spec chapter 25). -/
def PMU_CTL.fields : List Fld := [PMU_CTL.EN, PMU_CTL.SNAP_TICK]

def PMU_CNT.EVENT : Fld := { fid := 777, addr := 0x1580100, s1 := 0x20, n := 16, w := 8, acc := .rw, staged := true }
def PMU_CNT.UNIT : Fld := { fid := 778, addr := 0x1580100, s1 := 0x20, n := 16, lo := 8, w := 6, acc := .rw, staged := true, reset := 0x3F }
def PMU_CNT.PART : Fld := { fid := 779, addr := 0x1580100, s1 := 0x20, n := 16, lo := 16, w := 4, acc := .rw, staged := true, reset := 0x8 }
def PMU_CNT.EN : Fld := { fid := 780, addr := 0x1580100, s1 := 0x20, n := 16, lo := 20, w := 1, acc := .rw, staged := true }
def PMU_CNT.VALUE : Fld := { fid := 781, addr := 0x1580108, s1 := 0x20, n := 16, w := 64, acc := .rw, ctr := true, ovf := some (783, 0) }
def PMU_CNT.SNAP : Fld := { fid := 782, addr := 0x1580110, s1 := 0x20, n := 16, w := 64, acc := .ro }
def PMU_CNT.OVF : Fld := { fid := 783, addr := 0x1580118, s1 := 0x20, n := 16, w := 1, acc := .w1c }
def PMU_CNT.CLR : Fld := { fid := 784, addr := 0x1580118, s1 := 0x20, n := 16, lo := 8, w := 1, acc := .wo }
/-- The fields of PMU_CNT (spec chapter 25). -/
def PMU_CNT.fields : List Fld := [PMU_CNT.EVENT, PMU_CNT.UNIT, PMU_CNT.PART, PMU_CNT.EN, PMU_CNT.VALUE, PMU_CNT.SNAP, PMU_CNT.OVF, PMU_CNT.CLR]

def PMU_FIXED.GFX_FLUSHES : Fld := { fid := 785, addr := 0x1580400, w := 48, acc := .rw, ctr := true, ovf := some (787, 0) }
def PMU_FIXED.SNAPS : Fld := { fid := 786, addr := 0x1580408, w := 64, acc := .rw, ctr := true, ovf := some (787, 1) }
def PMU_FIXED.OVF : Fld := { fid := 787, addr := 0x1580410, w := 2, acc := .w1c }
def PMU_FIXED.CLR : Fld := { fid := 788, addr := 0x1580410, lo := 8, w := 1, acc := .wo }
/-- The fields of PMU_FIXED (spec chapter 25). -/
def PMU_FIXED.fields : List Fld := [PMU_FIXED.GFX_FLUSHES, PMU_FIXED.SNAPS, PMU_FIXED.OVF, PMU_FIXED.CLR]

def GLB_GPIO.DIR : Fld := { fid := 789, addr := 0x3000, w := 16, acc := .rw }
def GLB_GPIO.OUT : Fld := { fid := 790, addr := 0x3000, lo := 16, w := 16, acc := .rw }
def GLB_GPIO.IN : Fld := { fid := 791, addr := 0x3000, lo := 32, w := 16, acc := .ro }
def GLB_GPIO.FALL : Fld := { fid := 792, addr := 0x3000, lo := 48, w := 16, acc := .rw }
/-- The fields of GLB_GPIO (spec chapter 26). -/
def GLB_GPIO.fields : List Fld := [GLB_GPIO.DIR, GLB_GPIO.OUT, GLB_GPIO.IN, GLB_GPIO.FALL]

def MMU_FAULT.W0 : Fld := { fid := 793, addr := 0x401000, s1 := 0x20, n := 32, w := 64, acc := .ro }
def MMU_FAULT.W1 : Fld := { fid := 794, addr := 0x401008, s1 := 0x20, n := 32, w := 64, acc := .ro }
def MMU_FAULT.W2 : Fld := { fid := 795, addr := 0x401010, s1 := 0x20, n := 32, w := 64, acc := .ro }
def MMU_FAULT.W3 : Fld := { fid := 796, addr := 0x401018, s1 := 0x20, n := 32, w := 64, acc := .ro }
/-- The fields of MMU_FAULT (spec chapter 06). -/
def MMU_FAULT.fields : List Fld := [MMU_FAULT.W0, MMU_FAULT.W1, MMU_FAULT.W2, MMU_FAULT.W3]

def MC_ERRLOG.W0 : Fld := { fid := 797, addr := 0xF01200, s1 := 0x1000, s2 := 0x20, n2 := 16, n := 64, w := 64, acc := .ro }
def MC_ERRLOG.W1 : Fld := { fid := 798, addr := 0xF01208, s1 := 0x1000, s2 := 0x20, n2 := 16, n := 64, w := 64, acc := .ro }
def MC_ERRLOG.W2 : Fld := { fid := 799, addr := 0xF01210, s1 := 0x1000, s2 := 0x20, n2 := 16, n := 64, w := 64, acc := .ro }
def MC_ERRLOG.W3 : Fld := { fid := 800, addr := 0xF01218, s1 := 0x1000, s2 := 0x20, n2 := 16, n := 64, w := 64, acc := .ro }
/-- The fields of MC_ERRLOG (spec chapter 17). -/
def MC_ERRLOG.fields : List Fld := [MC_ERRLOG.W0, MC_ERRLOG.W1, MC_ERRLOG.W2, MC_ERRLOG.W3]

def CFG.CFG_ERR : Fld := { fid := 801, addr := 0x20000000, s1 := 0x8, n := 128, w := 1, acc := .w1c }
def CFG.REFUSED : Fld := { fid := 802, addr := 0x20000000, s1 := 0x8, n := 128, lo := 2, w := 1, acc := .w1c }
def CFG.ERR_OFFSET : Fld := { fid := 803, addr := 0x20000000, s1 := 0x8, n := 128, lo := 12, w := 18, acc := .ro }
/-- The fields of CFG (spec chapter 02). -/
def CFG.fields : List Fld := [CFG.CFG_ERR, CFG.REFUSED, CFG.ERR_OFFSET]

/-- Every field of the register map. -/
def regTable : List Fld :=
  GLB_VF_MAP.fields ++ GLB_LINK.fields ++ GLB_LINK_DROP.fields ++ GLB_ACC_ERR.fields ++ GLB_VF_VIOL.fields ++ GLB_ID.fields ++
  GLB_REV.fields ++ GLB_UID_LO.fields ++ GLB_UID_HI.fields ++ GLB_DEVNUM.fields ++ FE_PART.fields ++ FE_CTX.fields ++
  FE_CLAIM.fields ++ FE_CHN.fields ++ FE_STATUS.fields ++ FE_DB_DROP.fields ++ FE_Q.fields ++ FE_FETCH.fields ++
  TLY_SLOT.fields ++ TLY_POOL.fields ++ TLY_FALLBACK.fields ++ TLY_EXP_ERR.fields ++ TLY_INIT.fields ++ TLY_EXP.fields ++
  FE_PAT.fields ++ FE_PAT_EDIT.fields ++ MMU_STATUS.fields ++ MMU_INV_TIMEOUT.fields ++ MMU_INV_ACKMASK.fields ++ MMU_INV_ACKED.fields ++
  MMU_INV_REQ.fields ++ MMU_INV_DONE.fields ++ MMU_PTE_WR.fields ++ MMU_CTR.fields ++ MMU_FAULT_WPTR.fields ++ SCL_STATUS.fields ++
  SCL_CTR.fields ++ LOOM_STATUS.fields ++ LOOM_FLAGS.fields ++ LOOM_RELEASE.fields ++ LOOM_SAVE.fields ++ LOOM_CUR.fields ++
  LOOM_CTR.fields ++ LOOM_CHK_CFG.fields ++ LOOM_CHK_STATUS.fields ++ LOOM_CHK_LAST.fields ++ LOOM_CHK_CTR.fields ++ LOOM_STOP.fields ++
  LOOM_STOP_CLOCKS.fields ++ CRD_STATUS.fields ++ CRD_CFG.fields ++ CRD_POOL.fields ++ CRD_CTR.fields ++ RTU_CTR.fields ++
  GLZ_PIPE.fields ++ GLZ_CRC.fields ++ GLZ_DP.fields ++ GLZ_APHY.fields ++ PRS_STATUS.fields ++ PRS_CFG.fields ++
  PRS_ENG.fields ++ FE_TICK_CFG.fields ++ FE_TICK_OUT.fields ++ FE_TICK_STATUS.fields ++ FE_TICK_COUNT.fields ++ FE_TICK_TIME.fields ++
  FE_TICK_CTR.fields ++ FE_SCH_PLAT.fields ++ FE_SCH_CTR.fields ++ FE_BUDGET.fields ++ FE_RT.fields ++ MC_SCRUB_CFG.fields ++
  MC_SWEEP.fields ++ MC_STATUS.fields ++ MC_ECC_CTR.fields ++ MC_ERRLOG_WPTR.fields ++ L2_STATUS.fields ++ L2_MAINT.fields ++
  L2_SLICE_CTR.fields ++ PXL_CFG.fields ++ PXL_STATUS.fields ++ PXL_PORT.fields ++ PXL_MIRROR.fields ++ INTC_SW.fields ++
  INTC_SW_CLR.fields ++ INTC_FMOD.fields ++ INTC_TGT.fields ++ INTC_MOD.fields ++ INTC_SRC.fields ++ ODM_MBX_CMD.fields ++
  ODM_MBX_CTL.fields ++ ODM_MBX_ABORT.fields ++ ODM_NMT.fields ++ ODM_CAN.fields ++ ODM_CTR.fields ++ GLB_YIELD.fields ++
  RST_BOOT_CTL.fields ++ RST_BOOT_FW.fields ++ RST_BOOT_STEP.fields ++ RST_BOOT_INFO.fields ++ RST_BOOT_LIC.fields ++ RST_BOOT_SEL.fields ++
  RST_FLASH.fields ++ RST_CTL.fields ++ RST_STATUS.fields ++ RST_CFG.fields ++ RST_PART.fields ++ RST_CTR.fields ++
  RST_BLOCK.fields ++ PWR_CMD.fields ++ PWR_STATUS.fields ++ PWR_ENVELOPE.fields ++ PWR_LEVEL.fields ++ PWR_WAKE_EN.fields ++
  PWR_WAKE_SRC.fields ++ PWR_DOMAIN.fields ++ PWR_AVS.fields ++ PWR_CTR.fields ++ SAF_STATUS.fields ++ SAF_CFG.fields ++
  SAF_ROUTE.fields ++ SAF_ROUTED.fields ++ SAF_INC.fields ++ SAF_CTR.fields ++ ASY_CFG.fields ++ ASY_STATUS.fields ++
  ASY_PROJECT.fields ++ ASY_AGE.fields ++ ASY_CTR.fields ++ LDG_STATUS.fields ++ LDG_CTL.fields ++ LDG_CFG.fields ++
  LDG_HEAD.fields ++ LDG_TAIL.fields ++ LDG_MIRRORED.fields ++ LDG_SEQ.fields ++ LDG_INCIDENT.fields ++ LDG_TIME.fields ++
  LDG_CTR.fields ++ DBG_CFG.fields ++ DBG_HALT.fields ++ DBG_HALT_STATUS.fields ++ DBG_ACC.fields ++ DBG_DATA.fields ++
  DBG_BP.fields ++ DBG_WP.fields ++ DBG_LOOM.fields ++ DBG_TRACE.fields ++ DBG_CTR.fields ++ PMU_CTL.fields ++
  PMU_CNT.fields ++ PMU_FIXED.fields ++ GLB_GPIO.fields ++ MMU_FAULT.fields ++ MC_ERRLOG.fields ++ CFG.fields

end Sys2Proof.Machine
end

