-- ==== Sys2Proof/Machine/Types.lean ====
section
/-! DEFINITION. The parts of State that are not register fields: link and function state, held interrupt
notifications, the capability table, the Ledger ring, incidents, and the contexts' teardowns. -/

namespace Sys2Proof.Machine

/-- What leaves the device, in the order it left. -/
inductive Out where
  /-- an MSI-X message of PF table entry `entry` (R512); a VF's own entries are the PF entries they occupy (R50) -/
  | msi (entry : Nat)
  /-- a notification of Foreman hart `h` (R508) -/
  | foreman (h : Nat)
  /-- a CAN frame: bus, COB-ID, bytes -/
  | can (bus cob : Nat) (data : List Nat)
  /-- a Pexlink message: port, kind, words. Kinds: 1 read, 2 write, 3 export signal, 4 tick broadcast, 5 heartbeat, 6 silence
  report, 7 RESIGN, 8 manager message, 9 health word, 10 identity, 11 mirror registration, 12 forwarded signal, 13
  registration refused, 14 mirror released, 15 answer to a request (0 done, 1 error, then data), 0 atomic (address, bytes, OP, then operand and new value of each lane) -/
  | pxl (port kind : Nat) (data : List Nat)
  /-- a DSI short packet of A-PHY transmitter `tx` (R416) -/
  | dsi (tx data : Nat)
  /-- a frame on the output stream OUT (R394): its number and its pixels, after step 3 of R401 -/
  | video (out frame : Nat) (px : List Nat)
  /-- an AUX or I2C-over-AUX request of DisplayPort port `port` (R413) -/
  | aux (port : Nat) (data : List Nat)
  /-- an output pin changes level -/
  | pin (name level : Nat)
  /-- bits shifted out on JTAG TDO (R634) -/
  | tdo (width value : Nat)
  deriving DecidableEq, Repr

/-- The PCIe endpoint's function state (chapter 02). -/
structure Bus where
  /-- VF Enable of SR-IOV control, and NumVFs (R51) -/
  vfEn : Bool := false
  numVfs : Nat := 0
  /-- functions whose MSI-X Enable bit is set, and whose Function Mask bit is set (R512) -/
  msixEn : List Nat := []
  funcMask : List Nat := []
  /-- PF table entries whose mask bit is clear -/
  unmasked : List Nat := []
  /-- MSI-X table (R50): the address of entry e by 2e, its data by 2e + 1, where not 0 -/
  msix : NMap Nat := []
  /-- what the PF left in entries that are lent to a VF: their table words and which of them were unmasked (R50, R51) -/
  keptMsix : NMap Nat := []
  keptUnmasked : List Nat := []
  /-- configuration registers that software has written, by 4096 * function + offset of their 64-bit word (R43, R54) -/
  cfg : NMap Nat := []
  /-- the latched high word of each function: word key and value (R17) -/
  latch : NMap (Nat × Nat) := []
  /-- low SIGNAL word held for each function: Tally and value (R139) -/
  splitLow : NMap (Nat × Nat) := []
  /-- the host path carries AtomicOps (R45) -/
  atomicOps : Bool := true
  /-- the link has been up and went down (R47) -/
  down : Bool := false
  deriving DecidableEq, Repr

/-- Moderation and pending bits of the interrupt controller (chapter 19). -/
structure Irq where
  /-- moderation entry (vector, or 2048 + hart) to held notifications and the time of the first -/
  held : NMap (Nat × Nat) := []
  /-- MSI-X pending bits set -/
  pba : List Nat := []
  deriving DecidableEq, Repr

/-- One entry of the capability table (R67). -/
structure CapEnt where
  cls : Nat
  shrunk : Bool := false
  count : Nat
  present : Nat := 0
  deriving DecidableEq, Repr

/-- The capability table (R66). -/
structure Cap where
  valid : Bool := false
  gen : Nat := 0
  ents : List CapEnt := []
  deriving DecidableEq, Repr

/-- An event waiting to be appended to the Ledger (R618): type, severity, whether the fault collection unit writes it,
time of occurrence and the body after TIME. -/
structure LRec where
  typ : Nat
  sev : Nat
  fcu : Bool := false
  time : Nat
  body : List Byte
  deriving DecidableEq, Repr

/-- A record of the Ledger ring (R617): its ring offset, header and body. -/
structure LEnt where
  off : Nat
  typ : Nat
  /-- length in 8-byte units -/
  len : Nat
  flags : Nat
  rep : Nat
  /-- the full record number; a PAD has none -/
  seq : Nat
  opsec : Nat
  pcyc : Nat
  time : Nat
  body : List Byte
  mirrored : Bool := false
  /-- time of the last change, for MIRROR_HOLD_MS -/
  changed : Nat
  deriving DecidableEq, Repr

/-- The Ledger beside its registers (chapter 24). -/
structure Ledger where
  ring : List LEnt := []
  wait : List LRec := []
  /-- missed events of a freeze: first and last time, counts by severity, by type in order of first miss, others -/
  fzFirst : Nat := 0
  fzLast : Nat := 0
  fzSev : List Nat := [0, 0, 0, 0]
  fzTypes : List (Nat × Nat) := []
  fzOther : Nat := 0
  fzMissed : Nat := 0
  fzSince : Nat := 0
  /-- records lost since the last MIRROR_GAP, and the number of the first -/
  gapLost : Nat := 0
  gapFirst : Nat := 0
  /-- the bytes of the ring -/
  bytes : Memory := []
  /-- the flash mirror: the records that a reload takes, oldest first -/
  flash : List LEnt := []
  /-- the record number after the last record mirrored -/
  flashSeq : Nat := 0
  deriving DecidableEq, Repr

/-- The state area of the LEDGER partition and the operating time behind it (R626). -/
structure LedgerArea where
  seq : Nat := 0
  opsec : Nat := 0
  pcyc : Nat := 0
  nextInc : Nat := 0
  downUs : Nat := 0
  /-- operating seconds at the last write of the state area -/
  lastWrite : Nat := 0
  /-- log sectors erased and written -/
  sectors : Nat := 0
  deriving DecidableEq, Repr

/-- A running context teardown (R85). -/
structure Teardown where
  /-- 1 to 6 -/
  step : Nat
  /-- started by the driver -/
  driver : Bool
  code : Nat := 0
  inc : Nat := 0
  engine : Nat := 0
  detail : List Byte := []
  /-- Tallies to poison at step 3 (R662) -/
  poison : List Nat := []
  deriving DecidableEq, Repr

/-- A unit whose test the Assayer runs or holds (R606): type and number as ASY_STATUS, trigger source, incident. -/
structure Test where
  typ : Nat
  unit : Nat
  trigger : Nat
  inc : Nat
  since : Nat
  deriving DecidableEq, Repr

/-- The fault collection unit and recovery beside their registers (chapter 23). -/
structure Saf where
  /-- FAULT_N causes that are not computed from registers: 0 before bring-up step 10, 1 monitor action, 2 rail over
  V_MAX, 3 entry into OFF by a monitor, 4 SAFE_ACTION 2 or 3 -/
  causes : List Nat := [0]
  /-- the device has been enabled once since power-on (R613) -/
  everEnabled : Bool := false
  /-- level inputs of R600 now asserted -/
  routedLevel : List Nat := []
  /-- R599 bit 0 and bit 1 conditions -/
  shrunk : Bool := false
  overrun : List Nat := []
  /-- running L0 incidents: number and owner -/
  l0 : List (Nat × Nat) := []
  /-- recoveries that an escalation has asked for: partitions to reset, a warm reset, a full reset -/
  wantPart : List Nat := []
  wantWarm : Bool := false
  wantFull : Bool := false
  /-- SAFE_REQ_N hold of SAFE_ACTION 1 (R601) -/
  hold : Bool := false
  /-- time at which FAULT_N was asserted, and whether it counts as unavailability (R613) -/
  faultAt : Nat := 0
  counts : Bool := false
  /-- conditions behind the bits of 0x1001 now holding (R533) -/
  emcyConds : List Nat := []
  /-- unit named in the device incident: ASY type and number (R575 step 8) -/
  incUnit : Option (Nat × Nat) := none
  /-- the warm reset's cause is a fault in the L2 or the fabric, so that its clean is skipped (R483) -/
  noClean : Bool := false
  /-- a safe-state request waits for a reset to complete (R601) -/
  safeWait : Bool := false
  deriving DecidableEq, Repr

/-- The Assayer beside its registers. -/
structure Asy where
  /-- test running, and tests waiting -/
  running : Option Test := none
  queue : List Test := []
  /-- times (operating seconds) of transient verdicts, by unit key 64 * type + unit -/
  transients : NMap (List Nat) := []
  /-- corrected errors by unit key: hour and count (R606) -/
  corr : NMap (Nat × Nat) := []
  /-- levels withdrawn on each rail -/
  withdrawn : List (Nat × Nat) := []
  /-- the 64 most recent measurements of each rail: (rail, operating hour, D) -/
  meas : List (Nat × Nat × Nat) := []
  lastMeas : Nat := 0
  /-- physical cluster behind each remapped logical cluster: quadrants whose spare is used -/
  sparesUsed : List Nat := []
  deriving DecidableEq, Repr

/-- A line of the L2 (R478): way, the bytes it holds, the dirty bytes, the data, and the order of its last use. -/
structure L2Line where
  way : Nat
  held : Nat
  dirty : Nat
  data : List Byte
  used : Nat
  deriving DecidableEq, Repr

/-- What the end of a Sweep job brings about. -/
inductive SweepDone where
  /-- a partition commit's range: the partitions concerned (R79) -/
  | part (ps : List Nat)
  /-- a claim: Tally, value, pages, and whether FE_CLAIM issued it (R92); the entry it completes: queue and sequence -/
  | claim (tally value pages : Nat) (reg : Bool) (q seq : Nat)
  /-- an ALLOC: partition, queue and sequence of its packet, context, address of the result and the address allocated -/
  | alloc (p q seq ctx resVa va : Nat)
  deriving DecidableEq, Repr

/-- A range being zeroed (R475): byte offsets in HBM, and the lines already zeroed ahead of order (R477). -/
structure SweepJob where
  id : Nat
  lo : Nat
  hi : Nat
  done : SweepDone
  ahead : List Nat := []
  deriving DecidableEq, Repr

/-- A run of blocks of a Chandler heap (R96): first block, length, context. -/
structure HRun where
  blk : Nat
  n : Nat
  ctx : Nat
  stamp : Nat := 0
  deriving DecidableEq, Repr

/-- HBM, its controllers, the Sweep and the L2 (chapter 17). -/
structure Mems where
  hbm : Memory := []
  /-- host memory behind PCIe, by bus address -/
  host : Memory := []
  /-- L2 lines by line number PA[49:7] -/
  l2 : NMap L2Line := []
  clock : Nat := 0
  /-- lost lines (R468), by line number of the local offset -/
  poison : List Nat := []
  /-- stored codewords in error: codeword number and the mask of wrong symbols -/
  upsets : NMap Nat := []
  /-- lines whose first corrected error is logged since the last clear; MCs whose MEM_CORR is disarmed (R474) -/
  corrLines : List Nat := []
  corrRaised : List Nat := []
  /-- Sweep jobs held, and ranges that wait for one: of commits first, then claims and ALLOCs (R476) -/
  jobs : List SweepJob := []
  waitParts : List SweepJob := []
  waitJobs : List SweepJob := []
  nextJob : Nat := 0
  /-- runs that ALLOCs have handed out, newest first, each at its physical block: the last owners of R98 -/
  owners : List HRun := []
  /-- ways of the L2 that a commit gives another owner and that are not handed over yet: way and partitions (R79) -/
  ways : List (Nat × List Nat) := []
  /-- L2_ATOMIC_BUSY disarmed, by slice (R480) -/
  atomBusy : List Nat := []
  deriving DecidableEq, Repr

/-- A command packet read from a ring entry or a Pattern node (R117). -/
structure Pkt where
  /-- number within the stream, for the engine that runs it -/
  pid : Nat
  op : Nat
  /-- payload words -/
  w : List Nat
  barrier : Bool
  acquire : Bool
  /-- the first packet of an entry with CTRL.BARRIER (R102) -/
  first : Bool := false
  /-- 0 fetched, 1 started, 2 completed -/
  st : Nat := 0
  deriving DecidableEq, Repr

/-- A fetched entry that has not completed (R123). -/
structure Ent where
  seq : Nat
  irq : Bool
  pkts : List Pkt
  /-- the entry never completes: it holds a faulting packet (R127), or a teardown discarded a packet of it (R86) -/
  bad : Bool := false
  /-- words of its indirect buffer that the fetcher has not reached yet: their address, how many, and whether the entry's
  first packet, still among them, waits for the earlier entries (R102) -/
  rest : Option (Nat × Nat × Bool) := none
  deriving DecidableEq, Repr

/-- A stream of packets that a fetcher serves: a queue's, or a Pattern node's (R152). -/
structure Strm where
  /-- the queue whose number, priority and context it has -/
  q : Nat
  cls : Nat
  ctx : Nat
  ents : List Ent := []
  /-- in the ready set, in a pass, and the WPTR sampled (R112) -/
  ready : Bool := false
  inPass : Bool := false
  sampled : Nat := 0
  nextSeq : Nat := 0
  nextPid : Nat := 0
  /-- a queue fault in progress: code and sequence (R127) -/
  fault : Option (Nat × Nat) := none
  /-- the WAIT packet that blocks it -/
  waitPid : Option Nat := none
  /-- time at which the WAIT times out -/
  waitEnd : Option Nat := none
  /-- a Pattern node's stream: launch and node -/
  node : Option (Nat × Nat) := none
  deriving DecidableEq, Repr

/-- The Front End beside its registers (chapter 04). -/
structure Fe where
  strms : NMap Strm := []
  /-- the stream that each fetcher has selected at each priority, by 8 * fetcher + priority, and since when (R115) -/
  sel : NMap (Nat × Nat) := []
  /-- by the same key, where a slice ended and no other queue could take the selection: the stream after which selection
  goes on -/
  after : NMap Nat := []
  /-- partitions whose non-Realtime dispatch is withheld (R440, R576) -/
  held : List Nat := []
  /-- the fetchers run (R563) -/
  run : Bool := false
  /-- Press engines busy with a COPY or FILL: engine to (stream, packet, context) -/
  copies : NMap (Nat × Nat × Nat) := []
  deriving DecidableEq, Repr

/-- Who waits on a Tally (R136). -/
inductive Waiter where
  | strm (sid : Nat)
  | group (gid : Nat)
  | loom (n draft : Nat)
  | glz (pipe : Nat)
  /-- a mirror binding of the device behind a port (R493) -/
  | remote (port id : Nat)
  deriving DecidableEq, Repr

/-- A wait of another device's mirror binding, which lasts as long as the binding. -/
def Waiter.isRemote : Waiter → Bool
  | .remote _ _ => true
  | _ => false

/-- A registered or polling wait (R137, R138). -/
structure TWait where
  tally : Nat
  target : Nat
  who : Waiter
  polling : Bool
  deriving DecidableEq, Repr

/-- The Tally unit beside its registers. -/
structure Tly where
  waits : List TWait := []
  /-- a fallback has been raised since the pool was last non-empty (R138) -/
  emptyRaised : Bool := false
  /-- Tallies whose next export write gets an error response (R144) -/
  expErr : List Nat := []
  deriving DecidableEq, Repr

/-- The Chandler heap of a partition. -/
structure Heap where
  live : List HRun := []
  quar : List HRun := []
  /-- the retire Tally was poisoned since the partition's reset, so that the quarantine holds every run (R97) -/
  stuck : Bool := false
  deriving DecidableEq, Repr

/-- A translation held by an engine's cache or by the MMU (R170). -/
structure TlbE where
  /-- ack bit of the engine, or 64 for the MMU's shared cache -/
  eng : Nat
  ctx : Nat
  va : Nat
  size : Nat
  pa : Nat
  /-- leaf bits [8:2] -/
  rights : Nat
  deriving DecidableEq, Repr

/-- A walk-cache entry: context, level of the table it names, address prefix, and the table (R170). -/
structure WalkE where
  ctx : Nat
  level : Nat
  pre : Nat
  table : Nat
  deriving DecidableEq, Repr

/-- An invalidation (R171): its ticket, 0 when the device starts it. -/
structure Inv where
  ticket : Nat
  scope : Nat
  part : Nat := 0
  ctx : Nat := 0
  va : Nat := 0
  pages : Nat := 0
  tallyEn : Bool := false
  tally : Nat := 0
  value : Nat := 0
  deriving DecidableEq, Repr

/-- The MMU beside its registers. -/
structure Mmu where
  tlb : List TlbE := []
  walks : List WalkE := []
  fifo : List Inv := []
  dev : List Inv := []
  running : Option Inv := none
  since : Nat := 0
  nextTicket : Nat := 1
  /-- address and value of the entry write in flight -/
  pte : Option (Nat × Nat) := none
  deriving DecidableEq, Repr

/-- A node of a Pattern launch (R148). -/
structure PNode where
  cls : Nat
  preds : List Nat
  words : Nat
  va : Nat
  /-- substitution entries: word, kind, parameter -/
  subst : List (Nat × Nat × Nat)
  /-- 0 waiting, 1 dispatched, 2 completed -/
  st : Nat := 0
  deriving DecidableEq, Repr

/-- A launch of a Pattern (R150). -/
structure Launch where
  pat : Nat
  rev : Nat
  sid : Nat
  pid : Nat
  seq : Nat
  ctx : Nat
  desc : Nat
  num : Nat
  patches : List (Nat × Nat)
  tag : Nat
  nodes : List PNode
  paramWords : Nat
  paramVa : Nat
  snapVa : Nat
  slots : Nat
  /-- snapshot slot held; none while it waits for one -/
  slot : Option Nat
  snapped : Bool := false
  failed : Option Nat := none
  deriving DecidableEq, Repr

/-- A Pattern slot: its revisions in use, oldest first, with their descriptors (R153), and how many launches of the slot
have been snapshotted and have retired since it was enabled (R150). -/
structure Pat where
  revs : List (Nat × Nat) := []
  snapped : Nat := 0
  done : Nat := 0
  deriving DecidableEq, Repr

/-- Patterns in flight. -/
structure Pats where
  slots : NMap Pat := []
  launches : NMap Launch := []
  next : Nat := 0
  deriving DecidableEq, Repr

/-- What a group waits for (R197, R241). -/
inductive GWait where
  | none
  | bar (b : Nat)
  /-- a LOOM.ISSUE that waits: Drafts still to be sent -/
  | loom (drafts : List Nat)
  /-- a TLY.WAIT: destination register of the status, and the time it ends -/
  | tally (dst : Nat) (till : Option Nat)
  /-- a pre-emption save -/
  | save
  /-- a RAY.EMIT that the Carder cannot accept yet (R240) -/
  | ray
  deriving DecidableEq, Repr

/-- A wait in the middle of an instruction, no wait of R197. -/
def GWait.mid : GWait → Bool
  | .loom _ => true
  | .ray => true
  | _ => false

/-- The trap state of a group (R207). -/
structure TrapSt where
  inHandler : Bool := false
  pc : Nat := 0
  cause : Nat := 0
  exec : Nat := 0
  info : Nat := 0
  deriving DecidableEq, Repr

/-- A resident shader group (R188): its registers and control state. -/
structure Grp where
  wg : Nat
  ctx : Nat
  /-- index within the workgroup, and the mask of the lanes that exist -/
  gi : Nat
  lanes : Nat
  /-- vector registers, key 32 * register + lane; scalar registers; predicates -/
  v : NMap Nat := []
  sg : NMap Nat := []
  p : NMap Nat := []
  /-- what an unlisted register holds: free values of this use (R186), or 0 where there is none -/
  bg : Option Nat := none
  exec : Nat
  pc : Nat
  /-- STATUS (R217) -/
  status : Nat := 0
  trap : TrapSt := {}
  /-- scratch index (R187) -/
  scratch : Nat := 0
  wait : GWait := .none
  halted : Bool := false
  haltReq : Bool := false
  /-- a debugger's step: 0 none, 1 granted, 2 its instruction has issued -/
  stepping : Nat := 0
  /-- the next issue does not hit the breakpoint that halted the group (R639) -/
  skipBp : Bool := false
  /-- RETURN emissions pending: first register, and the mask of lanes still to arrive (R241) -/
  rets : List (Nat × Nat) := []
  /-- a trap that waits for them: cause and info (R204) -/
  trapReq : Option (Nat × Nat) := none
  /-- when a GMMA last set FLUSHED (R271) -/
  gmmaAt : Option Nat := none
  /-- ENDed, and held until its pending hits have arrived (R227) -/
  ended : Bool := false
  /-- a pre-emption request is pending; stopped at a YIELD with VLIVE and SLIVE (R226) -/
  preempt : Bool := false
  yield : Option (Nat × Nat) := none
  order : Nat := 0
  /-- helper lanes of a fragment group (R376) -/
  helper : Nat := 0
  deriving DecidableEq, Repr

/-- The fields of a kernel descriptor (R184). -/
structure KDesc where
  code : Nat := 0
  args : Nat := 0
  wgx : Nat := 1
  wgy : Nat := 1
  wgz : Nat := 1
  vregs : Nat := 8
  localBytes : Nat := 0
  split : Nat := 0
  flags : Nat := 0
  scratchVa : Nat := 0
  scratchBytes : Nat := 0
  trapVa : Nat := 0
  saveVa : Nat := 0
  deriving DecidableEq, Repr

/-- What launches a dispatch's groups. -/
inductive DispKind where
  | compute
  /-- a graphics stage (0 vertex, 1 fragment, 2 tessellation control, 3 evaluation), its render pass and its tile -/
  | gfx (stage pass tile : Nat)
  /-- hit shading for rays of the dispatches named (R336) -/
  | hit (parents : List Nat)
  deriving DecidableEq, Repr

/-- A dispatch in progress (R190). -/
structure Disp where
  kind : DispKind
  ctx : Nat
  part : Nat
  prio : Nat
  /-- packet to complete: stream and packet -/
  sid : Nat
  pid : Nat
  kd : KDesc
  gx : Nat
  gy : Nat
  gz : Nat
  clusters : Nat
  /-- queue whose work it is -/
  q : Nat := 0
  /-- next workgroup to place, workgroups live; the cluster that took the last one -/
  next : Nat := 0
  live : Nat := 0
  lastCluster : Nat := 47
  /-- hit-shading descriptors that its rays have named, as checked when the first group of each was placed (R336) -/
  hitKds : List (Nat × KDesc) := []
  deriving DecidableEq, Repr

/-- A resident workgroup. -/
structure Wg where
  disp : Nat
  idx : Nat
  cluster : Nat
  core : Nat
  /-- group slots, in group order; a slot whose group has ended is removed -/
  slots : List Nat
  groups : Nat
  /-- local store; unlisted bytes are free values of use `bg`, or 0 where there is none (R94) -/
  lmem : NMap Byte := []
  bg : Option Nat := none
  /-- groups (by index) that have arrived at each barrier, groups that have ended -/
  arrived : NMap (List Nat) := []
  ended : List Nat := []
  /-- 0 running, 1 to be stopped at a boundary, 2 saving, since -/
  stop : Nat := 0
  since : Nat := 0
  deriving DecidableEq, Repr

/-- A saved workgroup (R452): its groups and local store, and whether its save can be read back. -/
structure SavedWg where
  disp : Nat
  idx : Nat
  cluster : Nat
  core : Nat
  groups : List Grp
  ended : List Nat
  wgs : Wg
  /-- the saved image: address of each piece and its bytes, in virtual memory of the context or in the yield area -/
  image : List (Nat × List Byte) := []
  crc : Nat := 0
  full : Bool
  area : Bool := false
  /-- register blocks and local-store bytes that the image takes in its core's part of the area -/
  blocks : Nat := 0
  lbytes : Nat := 0
  /-- Tally waits to register again: group index, Tally, target (R226) -/
  waits : List (Nat × Nat × Nat) := []
  deriving DecidableEq, Repr

/-- A line held by a core's L1 (R199). -/
structure L1Line where
  core : Nat
  ctx : Nat
  key : Nat
  data : List Byte
  deriving DecidableEq, Repr

/-- A line of a cluster's instruction cache (R180, R201), tagged by context. -/
structure ILine where
  cluster : Nat
  ctx : Nat
  key : Nat
  data : List Byte
  deriving DecidableEq, Repr

/-- A block reset in progress (R577): TYPE, UNIT and CORE as RST_BLOCK, its slot, and since when. -/
structure BlkRst where
  typ : Nat
  unit : Nat := 0
  core : Nat := 0
  slot : Option Nat := none
  since : Nat
  /-- 0 draining, 1 the wrapper is closed, 2 idle was reached -/
  phase : Nat := 0
  /-- the code its contexts fault with, the incident, and whether a self-test follows -/
  code : Nat := 0xB0
  inc : Nat := 0
  test : Bool := false
  /-- the source that asked for the self-test -/
  trigger : Nat := 0
  /-- it is a part of a partition's reset (R576) -/
  part : Bool := false
  deriving DecidableEq, Repr

/-- The shader cores. A group's key is (cluster * 4 + core) * 48 + slot. -/
structure Sh where
  grps : NMap Grp := []
  wgs : NMap Wg := []
  disps : NMap Disp := []
  saved : List SavedWg := []
  l1 : List L1Line := []
  /-- the instruction caches of the clusters, 64 KiB each (R25, R180) -/
  icache : List ILine := []
  /-- graphics and hit-shading launches whose workgroups have all ended -/
  fin : List DispKind := []
  /-- local store that tiles being shaded hold: core, bytes (R389) -/
  tileBytes : List (Nat × Nat) := []
  /-- clusters on which a stop of graphics is under way, and since when (R389, R447) -/
  gfxStops : NMap Nat := []
  /-- owner tags of a core's register file and shared pool: the contexts that have held some of them since they were zeroed (R94) -/
  held : NMap (List Nat) := []
  /-- contexts under a sticky debugger halt (R636) -/
  sticky : List Nat := []
  nextWg : Nat := 0
  nextDisp : Nat := 0
  nextOrder : Nat := 0
  deriving DecidableEq, Repr

/-- An accepted Draft (R284, R297). -/
structure LDraft where
  /-- number within its Loom -/
  id : Nat
  va : Nat
  ctx : Nat
  /-- priority of the queue whose work it is (R440) -/
  prio : Nat
  raw : List Byte
  /-- the DRAFT packet that sent it: stream and packet; none for LOOM.ISSUE -/
  src : Option (Nat × Nat)
  /-- its wait: 0 not registered, 1 registered, 2 satisfied, 3 poisoned -/
  waitSt : Nat := 0
  /-- 0 accepted, 1 streaming, 2 its last rows are being drained -/
  st : Nat := 0
  /-- m-block, n-tile and chunk that stream, and restarts of this (b, t) -/
  b : Nat := 0
  t : Nat := 0
  chunk : Nat := 0
  tries : Nat := 0
  /-- restarts in all, FLAGS of the status record, and the incident of its retry -/
  retries : Nat := 0
  flags : Nat := 0
  inc : Option Nat := none
  /-- it had a mismatch: the self-test of R328 follows it -/
  mism : Bool := false
  /-- the pieces of this (b, t) that a duplicated unit has repeated (R325) -/
  dups : List Nat := []
  deriving DecidableEq, Repr

/-- What a stopped Loom holds in its save area (R306): the Draft to resume, if any, the memories as they stood, the rows
of a yield save, and the saved pieces, the progress record first, with their CRC. -/
structure LSave where
  draft : Option LDraft
  full : Bool
  rows : List Nat
  bolt : NMap Nat
  spool : Memory
  image : List (Nat × List Byte)
  crc : Nat
  ctx : Nat
  deriving DecidableEq, Repr

/-- A Loom beside its registers (chapters 10 and 11). -/
structure Lm where
  drafts : List LDraft := []
  nextId : Nat := 0
  /-- memories by byte address; the Bolt by 256 * row + column -/
  beam : Memory := []
  spool : Memory := []
  bolt : NMap Nat := []
  /-- a stop: FULL, and since when; its stop point is reached; a YIELD Draft completed at its own end -/
  full : Bool := false
  since : Nat := 0
  stopAt : Bool := false
  ended : Option LDraft := none
  save : Option LSave := none
  /-- debugger: 0 none, 1 halt asked, 2 halted, 3 one chunk to stream (R641) -/
  dbg : Nat := 0
  deriving DecidableEq, Repr

/-- A DRAFT packet whose Drafts are being sent: packet, next address, Drafts left (R297). -/
structure Route where
  pid : Nat
  va : Nat
  left : Nat
  /-- it waits for a full Loom, and holds no other queue of its fetcher (R297) -/
  held : Bool := false
  deriving DecidableEq, Repr

/-- The tick beside its registers (chapter 16). -/
structure Tick where
  /-- the tick runs; the next external event is not checked against the early limit (R563, R582) -/
  run : Bool := false
  first : Bool := false
  /-- the time from which the period counts; the internal timer stands in for the external source (R434) -/
  base : Nat := 0
  self : Bool := false
  /-- fields released by a commit to the next tick start (R435) -/
  rel : RMap := []
  /-- the last SYNC_IN edge; SYNC_OUT is high, and the tick whose pulse began last (R437) -/
  edge : Option Nat := none
  high : Bool := false
  since : Nat := 0
  pulsed : Nat := 0
  /-- clusters that worked in the present microsecond, and those of them with Realtime work (R439, R442) -/
  busy : Nat := 0
  rt : Nat := 0
  /-- an RT_MISS of this tick has been reported on CAN (R533) -/
  told : Bool := false
  deriving DecidableEq, Repr

/-- A Realtime queue's job in a tick (R444). -/
structure RtJob where
  startBy : Nat
  deadline : Nat
  /-- 0 before the start-by time, 1 passed with no entry yet, 2 open, 3 completed or none, 4 passed while a WAIT blocks
  the queue -/
  phase : Nat := 0
  /-- the sequence that completes it -/
  j : Nat := 0
  missed : Bool := false
  /-- resources held (R449) -/
  holds : Bool := false
  /-- jobs of later ticks that wait for this one to complete, oldest first: start-by, deadline, and J once opened at the
  deadline and missed there -/
  later : List (Nat × Nat × Option Nat) := []
  deriving DecidableEq, Repr

/-- A ray in the Carder (R333, R350): its record, and where its hit goes. -/
structure Ray where
  raw : List Byte
  /-- 0 RETURN, 1 SHADE, 2 SPOOL -/
  kind : Nat
  ctx : Nat
  part : Nat
  /-- SRC1 of SHADE and SPOOL -/
  tgt : Nat := 0
  /-- dispatches that wait for it (R337), and the emitting dispatch's CLUSTERS, queue and priority -/
  ds : List Nat
  clusters : Nat
  q : Nat
  prio : Nat
  /-- emitting group's slot, first register of the hit, lane -/
  grp : Nat
  reg : Nat
  lane : Nat
  /-- sampled (R356) -/
  dup : Bool := false
  since : Nat := 0
  /-- activation of a SPOOL ray -/
  act : Nat := 0
  /-- its context was torn down while it was in a Ray Pool (R352) -/
  dead : Bool := false
  deriving DecidableEq, Repr

/-- A batch (R351): the RTU that holds it, rays still to be traversed, hits to be compared, SHADE hits held. -/
structure Batch where
  rtu : Option Nat := none
  /-- rays with which it was sent -/
  size : Nat := 0
  rays : List Ray
  cmps : List (Ray × List Byte) := []
  hits : List (Ray × List Byte) := []
  deriving DecidableEq, Repr

/-- An open ray-to-Spool activation (R359, R360). -/
structure Activation where
  id : Nat
  ctx : Nat
  va : Nat
  desc : List Byte
  accepted : Nat := 0
  written : Nat := 0
  deriving DecidableEq, Repr

/-- The Carder and the RTUs (chapter 12). -/
structure Crd where
  /-- rays of RAY.EMITs that are held, in order -/
  held : List Ray := []
  /-- buckets, each with its rays, oldest first -/
  buckets : NMap (List Ray) := []
  batches : NMap Batch := []
  /-- Ray Pools, oldest first, and the next record of each ring -/
  pools : NMap (List Ray) := []
  poolNext : NMap Nat := []
  /-- RETURN hits on their way to their lanes -/
  rets : List (Ray × List Byte) := []
  acts : List Activation := []
  /-- rays accepted in each partition, for the sampling -/
  taken : NMap Nat := []
  /-- since when a partition's pool is full without progress (R353) -/
  full : NMap Nat := []
  next : Nat := 0
  deriving DecidableEq, Repr

/-- The pipeline state of a draw (R373, R374): PSO, dynamic block, and the fragment stage's descriptor. -/
structure GState where
  pso : List Byte
  dyn : List Byte
  fs : Option KDesc
  deriving DecidableEq, Repr

/-- A triangle of a primitive: its corners, snapped to 1/256 pixel, and their FP32 depths. -/
structure GTri where
  xs : List (Int × Int)
  zs : List Nat
  deriving DecidableEq, Repr

/-- A binned primitive (R379): its draw and its number there; the triangles that it covers, of which a point, a line and a
clipped triangle have several; and its vertices as output words. -/
structure GPrim where
  draw : Nat
  prim : Nat
  tris : List GTri
  front : Bool
  verts : List (List Nat)
  /-- quadrant whose Shears binned it, and the tiles it touches -/
  quad : Nat := 0
  tiles : List Nat := []
  deriving DecidableEq, Repr

/-- A patch after its control group (R376, R377): the core, factors, patch constants and control points. -/
structure GPatch where
  idx : Nat
  core : Nat
  outer : List Nat := []
  inner : List Nat := []
  consts : List Nat := []
  cps : List (List Nat) := []
  /-- domain points and the primitives over them -/
  points : List (Nat × Nat × Nat) := []
  tris : List (List Nat) := []
  deriving DecidableEq, Repr

/-- A draw in progress. -/
structure GDraw where
  num : Nat
  sub : Nat
  st : GState
  vin : List Byte
  kds : List KDesc
  /-- vertices of an instance: count, first vertex or index, offset; the indices read, none at a restart -/
  count : Nat
  first : Nat
  nInst : Nat
  firstInst : Nat
  idx : Option (List (Option Nat)) := none
  /-- outputs of shaded vertices (or domain points): cluster and words -/
  outs : NMap (Nat × List Nat) := []
  patches : NMap GPatch := []
  /-- evaluation groups: patch, first point, points -/
  eval : List (Nat × Nat × Nat) := []
  /-- clusters that no stop held as the draw began -/
  clusters : Nat := 0
  deriving DecidableEq, Repr

/-- A quad to be shaded: its origin, the sample coverage of its four pixels, and the sample with sample shading. -/
structure GQuad where
  x : Nat
  y : Nat
  cov : List Nat
  sample : Option Nat := none
  deriving DecidableEq, Repr

/-- A tile in a core (R381): its memory, the half or quarter that is shaded now (R382), primitives still to be shaded there,
quads of the present one, and the group that shades. -/
structure GTile where
  idx : Nat
  core : Nat
  mem : Memory
  work : List GPrim
  sub : Nat := 0
  prim : Option GPrim := none
  quads : List GQuad := []
  grp : List GQuad := []
  busy : Bool := false
  deriving DecidableEq, Repr

/-- An open render pass (R368 to R370). -/
structure GPass where
  sid : Nat
  q : Nat
  ctx : Nat
  part : Nat
  prio : Nat
  desc : List Byte
  clusters : Nat
  ndraw : Nat := 0
  cur : Option GDraw := none
  /-- the draws of an indirect packet that remain -/
  rest : List GDraw := []
  states : NMap GState := []
  bins : List GPrim := []
  toBin : List GPrim := []
  /-- the run of 4,096 primitives of the present draw that is binned (R389) -/
  binRun : Nat := 0
  /-- its first and last packets -/
  pid0 : Nat := 0
  pidEnd : Nat := 0
  /-- entries of each Shears' list of each tile, by 2^20 * quadrant + tile; bytes of pool in use, and the most -/
  lists : NMap Nat := []
  used : Nat := 0x10000
  high : Nat := 0x10000
  /-- 0 binning, 1 the pool is full, 2 a partial flush, 3 the final shading -/
  phase : Nat := 0
  tiles : List Nat := []
  run : List GTile := []
  marked : List Nat := []
  flushes : Nat := 0
  shaded : Nat := 0
  skipped : Nat := 0
  /-- attachments whose signature header is valid and matches -/
  sigOk : List Nat := []
  deriving DecidableEq, Repr

/-- A layer of a display commit (R396). -/
structure GLayer where
  raw : List Byte
  va : Nat
  va1 : Nat
  pitch : Nat
  pitch1 : Nat
  fmt : Nat
  blend : Nat
  pa : Nat
  csc : Nat
  flags : Nat
  sx : Nat
  sy : Nat
  w : Nat
  h : Nat
  dx : Nat
  dy : Nat
  deriving DecidableEq, Repr

/-- A display commit: its context, its descriptor's first 64 bytes and its layers; the state of its READY wait: 0 none or
satisfied, 1 waiting, 2 released by poison (R396, R402). -/
structure GSet where
  ctx : Nat
  raw : List Byte
  layers : List GLayer
  wait : Nat := 0
  /-- the time at which its wait counts as released (R405); none where it had none or waits still -/
  at_ : Option Nat := none
  deriving DecidableEq, Repr

/-- A display pipe beside its registers (chapter 14). -/
structure GPipe where
  /-- frames run (EN acts at a frame start) -/
  run : Bool := false
  pend : Option GSet := none
  applied : Option GSet := none
  /-- fields and LUT entries that a pipe commit has released to the next frame start -/
  rel : RMap := []
  relLut : NMap Nat := []
  /-- the frame being output: its pixels after step 2 of R401 as R | G << 10 | B << 20, row by row, and its width -/
  img : List Nat := []
  width : Nat := 0
  /-- background of the set applied last -/
  bg : Nat := 0
  /-- regions whose CRC of the frame has been taken -/
  crcDone : List Nat := []
  /-- the flattened run that the region holds: its layer records, and the context, background, size, region and matrix it was
  made with -/
  flat : Option (List (List Byte) × List Nat) := none
  /-- the frame now being output writes the flattened run -/
  flatNew : Bool := false
  /-- frames written back and not yet acknowledged: context, Tally, frame -/
  wb : List (Nat × Nat × Nat) := []
  deriving DecidableEq, Repr

/-- The Glazier beside its registers: pipes, gamma LUT entries that differ from their reset value (key 3072 p + 1024 c +
i) and their shadows, and the DSI short packets waiting in each A-PHY transmitter (R416). -/
structure Glz where
  pipes : NMap GPipe := []
  lut : NMap Nat := []
  lutSh : NMap Nat := []
  dsi : NMap (List Nat) := []
  /-- DisplayPort ports that retrain by themselves with the last trained parameters (R415) -/
  retrain : List Nat := []
  deriving DecidableEq, Repr

/-- A Press job that runs on an engine (R427). -/
structure PJob where
  sid : Nat
  pid : Nat
  ctx : Nat
  va : Nat
  desc : List Byte
  /-- the expansion guard's R -/
  ratio : Nat
  /-- a job of another queue has used its state area while it ran (R427) -/
  clash : Bool := false
  deriving DecidableEq, Repr

/-- A Press stream behind a state area (R424): the input consumed and the bytes of output made so far, output made and not
yet written, whether its END has acted, and the image that stands in the state area. -/
structure PStream where
  ctx : Nat
  va : Nat
  op : Nat
  fmt : Nat
  inp : List Byte
  out : List Byte
  pend : List Byte := []
  /-- an END whose bytes are all produced, though some still wait in `pend`: 1 NONE, 2 FLUSH, 3 FINISH (R425) -/
  ended : Nat := 0
  image : List Byte := []
  deriving DecidableEq, Repr

/-- The Press beside its registers and the COPY and FILL work of its engines. -/
structure Prs where
  jobs : NMap PJob := []
  streams : List PStream := []
  deriving DecidableEq, Repr

/-- The raster pipeline (chapter 13): PSO and dynamic block of each stream, and the open passes. -/
structure Gfx where
  states : NMap (Nat × Nat) := []
  passes : NMap GPass := []
  next : Nat := 0
  deriving DecidableEq, Repr

/-- The fuses of the die (R543 step 2): unique ID, steppings, revoked keys (licence keys in [3:0], firmware keys in
[7:4]), least security version, good clusters of each quadrant, and the Assayer's values by 8 * rail + level (R611). -/
structure Fuses where
  uid : Nat := 0
  metal : Nat := 0
  base : Nat := 0
  revoked : Nat := 0
  minSvn : Nat := 0
  good : List Nat := [0x1FFF, 0x1FFF, 0x1FFF, 0x1FFF]
  crcOk : Bool := true
  vt0 : List Nat := List.replicate 16 750
  vmax : List Nat := List.replicate 16 800
  sens : List Nat := List.replicate 16 8
  deriving DecidableEq, Repr

/-- A copy of the boot record (R550). -/
structure BootRec where
  seq : Nat := 0
  fails : Nat := 0
  slot : Nat := 0
  trial : Bool := false
  failStep : Nat := 0
  failErr : Nat := 0
  /-- repair entries: class, unit, action (R552) -/
  repairs : List (Nat × Nat × Nat) := []
  deriving DecidableEq, Repr

/-- Bring-up beside its registers (chapter 21), and the flash. -/
structure Boot where
  fuses : Fuses := {}
  /-- size of the flash, its JEDEC ID, whether it answers; its bytes, each complemented, so that erased bytes are not
  listed -/
  mib : Nat := 64
  jedec : Nat := 0
  answers : Bool := true
  flash : Memory := []
  /-- the boot record in force -/
  rcd : BootRec := {}
  /-- the data buffer of RST_FLASH -/
  buf : List Byte := List.replicate 4096 0
  /-- the power-on reset holds the device; PERST# is asserted; supplies hold it in a full reset (R652, R653) -/
  por : Bool := true
  perst : Bool := true
  hold : Bool := false
  /-- DEV_ID is latched since power-on; it was 0b11 (R656); JTAG_MODE -/
  latched : Bool := false
  three : Bool := false
  jtagMode : Bool := false
  /-- the start of the step that runs, and the error it ends with, 0 for none (R568) -/
  since : Nat := 0
  err : Nat := 0
  /-- Foreman sections loaded: type, offset in HBM, bytes; and the CRC-32C of each (R575 step 6) -/
  sects : List (Nat × Nat × Nat) := []
  crcs : List Nat := []
  /-- units whose microcode has failed once (R560): class and unit -/
  ucode : List (Nat × Nat) := []
  /-- a flash operation of RST_FLASH: result to come -/
  result : Nat := 0
  /-- units that the repair list leaves absent: class and unit (R552); stacks whose training fails (R463) -/
  absent : List (Nat × Nat) := []
  untrained : List Nat := []
  deriving DecidableEq, Repr

/-- Power control beside its registers (chapters 01 and 22). -/
structure Pwr where
  /-- intervals in a row below 95 % of the envelope; a second qualifying rail waits for ten more (R29) -/
  below : Nat := 0
  second : Option Nat := none
  /-- rail to the level it is being raised to, and since when (R31) -/
  raising : NMap (Nat × Nat) := []
  /-- intervals in a row without an AVSBus response (R591) -/
  mute : Nat := 0
  /-- stacks at or above 95 °C (R463) -/
  hot : List Nat := []
  /-- rails whose voltage is above V_MAX + 60 mV, and since when (R596) -/
  excess : NMap Nat := []
  /-- levels raised by 5 mV between measurements: 8 * rail + level to mV (R611) -/
  bump : NMap Nat := []
  /-- entry in progress: 1 DOZE, 2 NAP, 3 OFF, and since when -/
  entry : Option (Nat × Nat) := none
  /-- a wake source has been recorded and its wake is still to come, and since when (R584, R587) -/
  ask : Bool := false
  askAt : Nat := 0
  /-- OFF; entered by a monitor (R596) -/
  off : Bool := false
  monOff : Bool := false
  /-- NAP exit steps 1 to 5 are done and the device stays in DOZE (R589); domains woken in DOZE, since when -/
  woken : NMap Nat := []
  /-- levels before NAP: VDD_CORE, VDD_LOOM -/
  lvls : Nat × Nat := (7, 7)
  deriving DecidableEq, Repr

/-- Pexlink beside its registers (chapter 18). -/
structure Mesh where
  /-- time of the last heartbeat from each device -/
  hb : NMap Nat := []
  /-- when this device's last heartbeat left -/
  sent : Option Nat := none
  /-- peers silent here; reports held, as (device that reports, device silent there) -/
  silent : List Nat := []
  reports : List (Nat × Nat) := []
  /-- TAKEOVER_SRC stands in for SRC = 4 (R498) -/
  takeover : Bool := false
  /-- HEALTH of each device (R540), and when this device's own word was sent last -/
  health : NMap Nat := []
  told : Option Nat := none
  /-- consecutive failed replays of a flit, by port (R500) -/
  replays : NMap Nat := []
  deriving DecidableEq, Repr

/-- A dictionary access (R515). -/
inductive OdReq where
  /-- a mailbox request with operation `op` -/
  | mbx (op : Nat)
  /-- a USDO upload of client `c` on `bus`; `more` says that the transfer goes on after it -/
  | up (bus c idx sub : Nat) (more : Bool)
  /-- a USDO download with its bytes -/
  | down (bus c idx sub : Nat) (data : List Nat) (more : Bool)
  /-- an RPDO with its bytes -/
  | rpdo (n : Nat) (data : List Nat)
  deriving DecidableEq, Repr

/-- The object dictionary and the CAN node beside their registers (chapter 20). -/
structure Odm where
  /-- writable entries that differ from their defaults, by 256 * index + sub-index -/
  ent : NMap Nat := []
  /-- the stored set's two copies: sequence number and entries -/
  copies : List (Nat × NMap Nat) := []
  /-- a save or restore being written (R517): the entries; the mailbox asked for it -/
  saving : Option (NMap Nat) := none
  mbx : Bool := false
  /-- USDO sessions by client: bus and time of the last request (R535) -/
  sess : NMap (Nat × Nat) := []
  /-- the mailbox's data buffer -/
  buf : List Byte := []
  /-- heartbeat consumer: entry (1 to 4) to the time of the last heartbeat; entries lost (R530) -/
  seen : NMap Nat := []
  lost : List Nat := []
  /-- when the heartbeat, an EMCY and a SYNC were sent last -/
  hbAt : Nat := 0
  emcyAt : Option Nat := none
  syncAt : Nat := 0
  /-- SYNC counter, and the tick of the last SYNC queued at a tick start (R532) -/
  syncN : Nat := 0
  syncTick : Nat := 0
  /-- start of frame of the last SYNC and whether it was received without error; its tick event is still to come; its bus -/
  sof : Option (Nat × Bool) := none
  sofBus : Nat := 0
  /-- SYNCs received since each TPDO was sent, the tick, time and values of its last send (R538) -/
  syncs : NMap Nat := []
  tpTick : NMap Nat := []
  tpAt : NMap Nat := []
  tpVal : NMap (List Byte) := []
  /-- frames taken from one bus, for the copy on the other: COB-ID, bus and time (R522) -/
  rx : List (Nat × Nat × Nat) := []
  /-- the NMT state from before NAP (R524) -/
  nmtNap : Nat := 0
  /-- the bit timing in effect: the values of 0x2001 (R521) -/
  timing : List Nat := [1, 127, 32, 32, 1, 29, 10, 10, 30]
  /-- accesses that wait for the end of a warm reset, in arrival order (R515, R528) -/
  waiting : List OdReq := []
  deriving DecidableEq, Repr

/-- The JTAG port (R634): the instruction, and a DBGACC result to be shifted out. -/
structure Jtag where
  ir : Nat := 1
  dr : Nat := 0
  /-- levels that EXTEST or CLAMP holds on the pins, and the captured boundary -/
  pins : Option Nat := none
  cap : Nat := 0
  deriving DecidableEq, Repr

end Sys2Proof.Machine
end

