-- ==== Sys2Proof/Machine/State.lean ====
section
/-! DEFINITION. The state of the device: registers, shadows, memories, the parts of Types.lean, and the queue of
commands that wait. Plain data. -/

namespace Sys2Proof.Machine

/-- The reasons a step stops the machine. -/
inductive Fault where
  /-- The supplies came up out of the order or range of R652, for which the spec gives no behaviour. Raised by
  POWER_ON. Safe: the model stops where hardware is outside its ratings. -/
  | ratings
  deriving DecidableEq, Repr

/-- The reasons a command is turned away by the model. -/
inductive Refusal where
  /-- Raised by an arm of exec whose command has no meaning yet. Safe: the model stops. -/
  | notModelled (mnemonic : String)
  deriving DecidableEq, Repr

/-- The device. -/
structure State where
  /-- device timestamp, ns since power-up (R17) -/
  now : Nat := 0
  /-- uses of free values so far (the model's own) -/
  freeCtr : Nat := 0
  /-- register fields that differ from their reset values -/
  regs : RMap := []
  /-- shadows of Staged fields that differ from the committed value (R10) -/
  shadows : RMap := []
  /-- what the last read returned (the model's own: a read's answer to its sender) -/
  rdata : Nat := 0
  /-- what left the device, oldest first -/
  out : List Out := []
  bus : Bus := {}
  irq : Irq := {}
  cap : Cap := {}
  ldg : Ledger := {}
  area : LedgerArea := {}
  tds : NMap Teardown := []
  saf : Saf := {}
  asy : Asy := {}
  mem : Mems := {}
  fe : Fe := {}
  tly : Tly := {}
  heaps : NMap Heap := []
  mmu : Mmu := {}
  pats : Pats := {}
  sh : Sh := {}
  /-- the Looms, and DRAFT packets being routed, by stream -/
  looms : NMap Lm := []
  routes : NMap Route := []
  crd : Crd := {}
  gfx : Gfx := {}
  glz : Glz := {}
  prs : Prs := {}
  rt : NMap RtJob := []
  tick : Tick := {}
  mesh : Mesh := {}
  odm : Odm := {}
  boot : Boot := {}
  pwr : Pwr := {}
  jtag : Jtag := {}
  /-- block resets in progress (R577) -/
  rsts : List BlkRst := []
  /-- EMCY messages waiting: code, source, incident (R534) -/
  emcyQ : List (Nat × Nat × Nat) := []
  /-- the pre-defined error field 0x1003, newest first, and the error register 0x1001 -/
  errField : List Nat := []
  errReg : Nat := 0
  /-- commands that wait, first in first out -/
  pending : List Instr := []
  deriving DecidableEq, Repr

/-- The device right after the supplies came up: the power-on reset still holds it, no bring-up step has run, every
register field at its reset value, every memory empty, and no command waiting. -/
def State.reset : State := {}

end Sys2Proof.Machine
end

