-- ==== Sys2Proof/Machine/Regs.lean ====
section
/-! DEFINITION. Reading and writing register fields, shadows and free values; counters (R14). Every read and write of a
register goes through these operations. -/

namespace Sys2Proof.Machine

/-- The committed value of instance `i` of field `F`. -/
def State.rd (s : State) (F : Fld) (i : Nat := 0) : Nat := (s.regs.get? (F.fid, i)).getD F.reset

/-- Field `F` instance `i` takes `v`, cut to the field's width. -/
def State.wr (s : State) (F : Fld) (i v : Nat) : State :=
  { s with regs := if v % 2 ^ F.w = F.reset then s.regs.del (F.fid, i) else s.regs.put (F.fid, i) (v % 2 ^ F.w) }

/-- A field read as a flag. -/
def State.on (s : State) (F : Fld) (i : Nat := 0) : Bool := s.rd F i != 0

/-- A one-bit field takes `b`. -/
def State.fl (s : State) (F : Fld) (i : Nat) (b : Bool) : State := s.wr F i (b2n b)

/-- The shadow of a Staged field; its committed value where no shadow differs (R10). -/
def State.rdSh (s : State) (F : Fld) (i : Nat := 0) : Nat := (s.shadows.get? (F.fid, i)).getD (s.rd F i)

/-- A write of a Staged field's shadow (R10). -/
def State.wrSh (s : State) (F : Fld) (i v : Nat) : State :=
  { s with shadows :=
      if v % 2 ^ F.w = s.rd F i then s.shadows.del (F.fid, i) else s.shadows.put (F.fid, i) (v % 2 ^ F.w) }

/-- Replace the 64-bit word at `F`'s word position: all given fields of one instance at once. -/
def State.wrs (s : State) (i : Nat) (l : List (Fld × Nat)) : State := l.foldl (fun s p => s.wr p.1 i p.2) s

/-- The field with number `n`. -/
def fldOf (n : Nat) : Option Fld := regTable.find? (fun F => F.fid == n)

/-- A free number of kind `k`, and the state with the counter advanced. -/
def State.free (s : State) (k : Nat) : Nat × State := (Config.freeNat k s.freeCtr, { s with freeCtr := s.freeCtr + 1 })

/-- `n` free bytes of kind `k`. -/
def State.freeBytes (s : State) (k n : Nat) : List Byte × State :=
  ((List.range n).map (Config.freeByte k s.freeCtr), { s with freeCtr := s.freeCtr + 1 })

/-- Something leaves the device. -/
def State.emit (s : State) (o : Out) : State := { s with out := s.out ++ [o] }

/-- One entry of the capability table, by class. -/
def State.capEnt (s : State) (cls : Nat) : Option CapEnt := s.cap.ents.find? (fun e => e.cls == cls)

/-- Unit `n` of a class is present (R2, R68); before the table is valid no unit is. -/
def State.present (s : State) (cls n : Nat) : Bool :=
  s.cap.valid && match s.capEnt cls with
    | some e => bit e.present n
    | none => false

/-- The value of a scalar class, 0 before the table is valid. -/
def State.capVal (s : State) (cls : Nat) : Nat :=
  if s.cap.valid then match s.capEnt cls with
    | some e => e.count
    | none => 0
  else 0

/-- The HBM capacity in bytes (class 0x0100). -/
def State.hbmBytes (s : State) : Nat := s.capVal 0x100 * 0x100000

end Sys2Proof.Machine

namespace Sys2Proof

/-- The window base of a block in BAR0 (R55). -/
def Blk.base : Blk → Nat
  | .glb => 0 | .rst => 0x100000 | .intc => 0x200000 | .fe => 0x300000 | .mmu => 0x400000 | .tly => 0x500000
  | .loom k => 0x600000 + 0x10000 * k | .scl k => 0x800000 + 0x10000 * k | .crd => 0xC00000 | .glz => 0xD00000
  | .prs => 0xE00000 | .mc => 0xF00000 | .l2 => 0x1000000 | .pxl => 0x1100000 | .saf => 0x1200000
  | .ldg => 0x1300000 | .odm => 0x1400000 | .dbg => 0x1500000

/-- The index of a block's CFG_STATUS fields. -/
def Blk.idx : Blk → Nat
  | .glb => 0 | .rst => 1 | .intc => 2 | .fe => 3 | .mmu => 4 | .tly => 5 | .crd => 6 | .glz => 7 | .prs => 8 | .mc => 9
  | .l2 => 10 | .pxl => 11 | .saf => 12 | .ldg => 13 | .odm => 14 | .dbg => 15
  | .loom k => 16 + k | .scl k => 32 + k

/-- The block whose window holds a BAR0 address (R55). -/
def Blk.ofAddr (a : Nat) : Option Blk :=
  if a < 0x100000 then some .glb
  else if a < 0x200000 then some .rst
  else if a < 0x300000 then some .intc
  else if a < 0x400000 then some .fe
  else if a < 0x500000 then some .mmu
  else if a < 0x600000 then some .tly
  else if a < 0x6C0000 then some (.loom ((a - 0x600000) / 0x10000))
  else if a < 0x800000 then none
  else if a < 0xB00000 then some (.scl ((a - 0x800000) / 0x10000))
  else if a < 0xC00000 then none
  else if a < 0xD00000 then some .crd
  else if a < 0xE00000 then some .glz
  else if a < 0xF00000 then some .prs
  else if a < 0x1000000 then some .mc
  else if a < 0x1100000 then some .l2
  else if a < 0x1200000 then some .pxl
  else if a < 0x1300000 then some .saf
  else if a < 0x1400000 then some .ldg
  else if a < 0x1500000 then some .odm
  else if a < 0x1600000 then some .dbg
  else none

/-- The block's configuration-error source (R505, R632). SAF/ASY has none. -/
def Blk.cfgSrc : Blk → Nat
  | .glb => 0x20 | .rst => 0x30 | .intc => 0x80 | .fe => 0x40 | .mmu => 0x70 | .tly => 0x60
  | .loom k => 0x100 + 0x10 * k | .scl k => 0x200 + 0x10 * k | .crd => 0x90 | .glz => 0x500
  | .prs => 0xB0 | .mc => 0xC0 | .l2 => 0xD0 | .pxl => 0xE0 | .saf => 0
  | .ldg => 0x540 | .odm => 0x560 | .dbg => 0x580

/-- The block's counter-overflow source (R506). The INTC and the Shears have none. -/
def Blk.ovfSrc : Blk → Nat
  | .glb => 0x2F | .rst => 0x3F | .intc => 0 | .fe => 0x5F | .mmu => 0x7F | .tly => 0x6F
  | .loom k => 0x10F + 0x10 * k | .scl k => 0x20F + 0x10 * k | .crd => 0x9F | .glz => 0x50F
  | .prs => 0xBF | .mc => 0xCF | .l2 => 0xDF | .pxl => 0xEF | .saf => 0x1F
  | .ldg => 0x55F | .odm => 0x57F | .dbg => 0x581

end Sys2Proof
end

