-- ==== Sys2Proof/Machine/Events.lean ====
section
/-! DEFINITION. What a step raises: interrupt sources and their notifications (chapter 19), counters and their overflow
events (R14), configuration errors (R13), Ledger occurrences (R618), EMCY messages (R534), the fault outputs
(R598 to R600), and incidents (R602 to R604). -/

namespace Sys2Proof.Machine

/-- The VF to which PF table entry `v` is lent (R50). -/
def State.lentTo (s : State) (v : Nat) : Option Nat :=
  let n := (2048 - v + 31) / 32
  if s.bus.vfEn && 1 ≤ n && n ≤ s.bus.numVfs && n ≤ 63 && v < 2048 then some n else none

/-- A source reports a level (R504, R505, R616). -/
def srcIsLevel (n : Nat) : Bool :=
  (1 ≤ n && n ≤ 0x1F) || n == 0x22 || n == 0x48 || n == 0xE4 ||
  n == 0x563 || n == 0x511 || n == 0x519 || n == 0x521 || n == 0x529 || (0x600 ≤ n && n ≤ 0x6FF)

/-- The unit behind a source is present (R505); sources of the device itself always are. -/
def State.srcPresent (s : State) (n : Nat) : Bool :=
  if 0x100 ≤ n ∧ n < 0x1C0 then s.present 3 ((n - 0x100) / 0x10)
  else if 0x200 ≤ n ∧ n < 0x500 then s.present 1 ((n - 0x200) / 0x10)
  else if 0x510 ≤ n ∧ n < 0x530 then s.present 5 ((n - 0x510) / 8)
  else if 0x500 ≤ n ∧ n < 0x510 then (List.range 4).any (s.present 5)
  else if 0x90 ≤ n ∧ n < 0xA0 then s.present 0xC 0
  else 0 < n && n < 0x700

/-- The window of block `b` is reachable, and its events are raised: the windows of R566 in recovery mode, else those that
bring-up has reached (R545). -/
def State.blkUp (s : State) (b : Blk) : Bool :=
  if s.on RST_BOOT_CTL.RECOVERY then b == .glb || b == .rst || b == .ldg || b == .odm
  else if b == .glb || b == .rst then s.rd RST_BOOT_STEP.STATE 1 == 2
  else if b == .mc then s.on RST_BOOT_STEP.STATE 5
  else if b == .ldg || b == .odm then s.rd RST_BOOT_STEP.STATE 6 == 2
  else s.rd RST_BOOT_STEP.STATE 7 == 2

/-- The unit behind a register window is present (R2). -/
def State.winPresent (s : State) : Blk → Bool
  | .loom k => s.present 3 k
  | .scl k => s.present 1 k
  | .crd => s.present 0xC 0
  | .glz => (List.range 4).any (s.present 5)
  | _ => true

/-- A block of R573 that a warm reset keeps. -/
def warmKept : Blk → Bool
  | .glb | .rst | .intc | .tly | .mc | .ldg | .odm => true
  | _ => false

/-- The host reaches a block's window: bring-up has reached it, the unit is present, a warm reset does not reset it (R575; the
always-on part of SAF/ASY goes on), and the device is not in OFF. -/
def State.winUp (s : State) (b : Blk) : Bool :=
  s.blkUp b && s.winPresent b && !s.pwr.off && (!s.on RST_STATUS.WARM_ACTIVE || warmKept b || b == .saf)

/-- A register write of the host to block `b`: ignored where the window is not reached (R2, R545, R566, R575). -/
def State.hostDo (s : State) (b : Blk) (f : State → Host.Outcome State Fault Refusal) : Host.Outcome State Fault Refusal :=
  if s.winUp b then f s else .next s

/-- The block of a source (R505). -/
def srcBlk (n : Nat) : Blk :=
  if n < 0x20 then .saf else if n < 0x30 then .glb else if n < 0x40 then .rst else if n < 0x60 then .fe
  else if n < 0x70 then .tly else if n < 0x80 then .mmu else if n < 0x90 then .intc else if n < 0xB0 then .crd
  else if n < 0xC0 then .prs else if n < 0xD0 then .mc else if n < 0xE0 then .l2 else if n < 0x100 then .pxl
  else if n < 0x1C0 then .loom ((n - 0x100) / 16) else if n < 0x200 then .intc
  else if n < 0x500 then .scl ((n - 0x200) / 16) else if n < 0x540 then .glz else if n < 0x560 then .ldg
  else if n < 0x580 then .odm else if n < 0x5C0 then .dbg else .intc

/-- The events behind a source are raised: its block's window is reachable, and in recovery mode no source asserts (R545,
R566). -/
def State.srcUp (s : State) (n : Nat) : Bool := !s.on RST_BOOT_CTL.RECOVERY && s.blkUp (srcBlk n)

/-- A counter takes one more occurrence: it sticks at its largest value and sets its OVF bit on the step that reaches
it (R14). The answer says whether this was that step. -/
def State.bump (s : State) (F : Fld) (i : Nat := 0) (n : Nat := 1) : State × Bool :=
  let v := s.rd F i
  let m := 2 ^ F.w - 1
  if v = m ∨ n = 0 then (s, false)
  else if v + n < m then (s.wr F i (v + n), false)
  else
    let s := s.wr F i m
    match F.ovf with
    | some (o, b) =>
      match fldOf o with
      | some O => (s.wr O i (setBit (s.rd O i) b true), true)
      | none => (s, true)
    | none => (s, true)

/-- A message leaves on vector `v`, which clears its IDLE_HINT (R511), or sets the entry's pending bit, or is discarded while the
link is down (R512, R47). `drop` is what a discard counts. -/
def State.msiWith (drop : State → State) (s : State) (v : Nat) : State :=
  if !s.on GLB_LINK.UP then drop s
  else
    let f := (s.lentTo v).getD 0
    if s.bus.unmasked.contains v && s.bus.msixEn.contains f && !s.bus.funcMask.contains f then (s.fl INTC_MOD.IDLE_HINT v false).emit (.msi v)
    else if s.irq.pba.contains v then s else { s with irq := { s.irq with pba := v :: s.irq.pba } }

/-- Send what moderation entry `m` (a vector, or 2048 + hart) holds: the entry empties (R511). -/
def State.sendHeldWith (drop : State → State) (s : State) (m : Nat) : State :=
  let s := { s with irq := { s.irq with held := s.irq.held.del m } }
  if m < 2048 then State.msiWith drop (s.fl INTC_MOD.HELD m false) m
  else s.emit (.foreman (m - 2048))

/-- A notification reaches moderation entry `m` (R511). Whether a Foreman hart is in WFI is a free value. -/
def State.notifyVecWith (drop : State → State) (s : State) (m : Nat) : State :=
  let h := m - 2048
  let (idle, s) :=
    if m < 2048 then (s.on INTC_MOD.IDLE_HINT m, s)
    else let r := s.free 1; (r.1 % 2 == 1, r.2)
  let timer := if m < 2048 then s.rd INTC_MOD.TIMER_US m else s.rd INTC_FMOD.TIMER_US h
  let cnt := if m < 2048 then s.rd INTC_MOD.COUNT m else s.rd INTC_FMOD.COUNT h
  let (k, t) := (s.irq.held.get? m).getD (0, s.now)
  if idle || (timer == 0 && cnt == 0) || (cnt != 0 && k + 1 ≥ cnt) then s.sendHeldWith drop m
  else
    let s := { s with irq := { s.irq with held := s.irq.held.put m (k + 1, t) } }
    if m < 2048 then s.fl INTC_MOD.HELD m true else s

/-- Target `t` is notified: a hart, or a host target that is enabled and whose entry is not lent (R507, R51). -/
def State.notifyTgtWith (drop : State → State) (s : State) (t : Nat) : State :=
  if t < 2 then s.notifyVecWith drop (2048 + t)
  else if s.on INTC_TGT.EN (t - 2) && (s.lentTo (s.rd INTC_TGT.VECTOR (t - 2))).isNone then
    s.notifyVecWith drop (s.rd INTC_TGT.VECTOR (t - 2))
  else s

/-- The targets in a source's mask, ascending: harts 0 and 1, then host targets from 2. -/
def State.srcTargets (s : State) (n : Nat) : List Nat :=
  bitList (s.rd INTC_SRC.FM_MASK n) 2 ++ (bitList (s.rd INTC_SRC.HOST_MASK n) 64).map (· + 2)

/-- Source `n` becomes pending and notifies its targets. -/
def State.pendWith (drop : State → State) (s : State) (n : Nat) : State :=
  (s.srcTargets n).foldl (fun s t => s.notifyTgtWith drop t) (s.wr INTC_SRC.STATE n 1)

/-- Source `n` asserts (R508). -/
def State.assertWith (drop : State → State) (s : State) (n : Nat) : State :=
  if !s.srcPresent n || !s.srcUp n then s
  else
    let lvl := srcIsLevel n
    let was := s.on INTC_SRC.ASSERTED n
    let s := if lvl then s.fl INTC_SRC.ASSERTED n true else s
    if lvl && was then s
    else if s.rd INTC_SRC.STATE n = 0 then s.pendWith drop n
    else if s.rd INTC_SRC.STATE n = 2 && !lvl then s.fl INTC_SRC.REFIRE n true
    else s

/-- A message or completion write is discarded while the link is down and counts in GLB_LINK_DROP (R47). At the largest
value the GLB overflow source asserts; messages it would send are discarded too and change nothing more. -/
def State.linkDrop (s : State) : State :=
  let (s, o) := s.bump GLB_LINK_DROP.COUNT
  if o then s.assertWith id 0x2F else s

/-- A message on vector `v`. -/
def State.msi (s : State) (v : Nat) : State := s.msiWith State.linkDrop v

/-- A notification that does not pass through a source: completion and TLY_EXP interrupts share the vector's
moderation (R125, R142). -/
def State.notifyVec (s : State) (v : Nat) : State := s.notifyVecWith State.linkDrop v

/-- Source `n` asserts. -/
def State.raise (s : State) (n : Nat) : State := s.assertWith State.linkDrop n

/-- The condition of level source `n` holds now (R504). -/
def State.levelCond (s : State) (n : Nat) : Bool :=
  if n = 0x001 then s.on SAF_STATUS.FAULT
  else if n = 0x002 then s.on SAF_STATUS.DEGRADED
  else if n = 0x003 then s.on SAF_STATUS.SAFE_REQ
  else if n = 0x004 then s.on SAF_INC.OPEN 0 || s.on SAF_INC.OPEN 1 || s.on SAF_INC.OPEN 2 || !s.saf.l0.isEmpty
  else if n = 0x005 then s.on SAF_ROUTED.HIT
  else if n = 0x006 then
    s.on SAF_STATUS.WDOG || s.on SAF_STATUS.VMON || s.on SAF_STATUS.CMON || s.on SAF_STATUS.TMON ||
    s.on SAF_STATUS.LOCKSTEP || s.on SAF_STATUS.SHARED
  else if n = 0x007 then s.on SAF_STATUS.THERMAL_CLAMP
  else if n = 0x010 then s.on ASY_STATUS.VERDICT
  else if n = 0x011 then s.on ASY_STATUS.RETIRED
  else if n = 0x012 then s.on ASY_STATUS.REPLANNED || s.on ASY_STATUS.WITHDRAWN
  else if n = 0x013 then s.on ASY_STATUS.EOL
  else if n = 0x01F then s.on SAF_CTR.OVF || s.on ASY_CTR.OVF
  else if n = 0x022 then s.bus.down
  else if n = 0x048 then s.rd FE_TICK_STATUS.FREE_RUN ≥ s.rd FE_TICK_CFG.LOST_LIMIT
  else if n = 0x0E4 then s.rd PXL_PORT.STATE 0 = 5 || s.rd PXL_PORT.STATE 1 = 5
  else if n = 0x563 then s.on ODM_NMT.HB_LOST
  else if n = 0x511 ∨ n = 0x519 ∨ n = 0x521 ∨ n = 0x529 then
    let p := (n - 0x511) / 8
    s.rd GLZ_PIPE.STALE_LIMIT p != 0 && s.rd GLZ_PIPE.STALE_RUN p ≥ s.rd GLZ_PIPE.STALE_LIMIT p
  else if 0x600 ≤ n ∧ n ≤ 0x6FF then bit (s.rd INTC_SW.SET ((n - 0x600) / 64)) ((n - 0x600) % 64)
  else false

/-- Level source `n` follows its condition: it asserts when the condition begins to hold and deasserts when it ends; a
pending source stays pending (R508). -/
def State.syncLevel (s : State) (n : Nat) : State :=
  if s.levelCond n then s.raise n else s.fl INTC_SRC.ASSERTED n false

/-- The level sources of the SAF/ASY window (R616). -/
def safSources : List Nat := [1, 2, 3, 4, 5, 6, 7, 0x10, 0x11, 0x12, 0x13, 0x1F]

/-- The SAF/ASY sources follow their conditions. -/
def State.syncSaf (s : State) : State := safSources.foldl State.syncLevel s

/-- The block whose window holds a field; the Tally slots of BAR2 belong to TLY. -/
def Fld.blk (F : Fld) (i : Nat) : Blk :=
  if 0x10000000 ≤ F.addr ∧ F.addr < 0x20000000 then .tly else (Blk.ofAddr (F.addrAt i)).getD .glb

/-- A counter of field `F` counts `n` occurrences; reaching its largest value raises its block's overflow source once
(R14, R506). The SAF/ASY source is a level source. -/
def State.countN (s : State) (F : Fld) (i n : Nat) : State :=
  let (s, o) := s.bump F i n
  if !o then s
  else match F.blk i with
    | .saf => s.syncLevel 0x1F
    | b => s.raise b.ovfSrc

/-- One occurrence. -/
def State.count (s : State) (F : Fld) (i : Nat := 0) : State := s.countN F i 1

/-- `n` occurrences of PMU event `ev` in unit `u` for partition `p` (R643); 8 stands for none. -/
def State.pmu (s : State) (ev u p : Nat) (n : Nat := 1) : State :=
  if !s.on PMU_CTL.EN then s
  else (List.range 16).foldl (fun s k =>
    if s.on PMU_CNT.EN k && s.rd PMU_CNT.EVENT k == ev && (s.rd PMU_CNT.UNIT k == 0x3F || s.rd PMU_CNT.UNIT k == u) &&
       (s.rd PMU_CNT.PART k == 8 || s.rd PMU_CNT.PART k == p) then s.countN PMU_CNT.VALUE k n
    else s) s

/-- A forbidden write of a word at window offset `off` of block `b`: CFG_ERR and ERR_OFFSET, and the block's
configuration-error event (R13). -/
def State.cfgErr (s : State) (b : Blk) (off : Nat) : State :=
  let s := (s.fl CFG.CFG_ERR b.idx true).wr CFG.ERR_OFFSET b.idx (bits off 2 18)
  s.raise b.cfgSrc

/-- A refused commit (R71): as a forbidden write at COMMIT's offset, and REFUSED. -/
def State.refuse (s : State) (b : Blk) : State := (s.fl CFG.REFUSED b.idx true).cfgErr b 0xFF0

/-- An occurrence for the Ledger, which waits for its append (R618). -/
def State.ledger (s : State) (typ sev : Nat) (body : List Byte) (fcu : Bool := false) : State :=
  { s with ldg := { s.ldg with wait := s.ldg.wait ++ [{ typ := typ, sev := sev, fcu := fcu, time := s.now, body := body }] } }

/-- EMCY code to the bits of 0x1001 it sets (R533). -/
def emcyBits (code : Nat) : Nat :=
  if code = 0x4210 then 0b1001
  else if code = 0x3100 then 0b101
  else if code = 0x8110 ∨ code = 0x8120 ∨ code = 0x8130 ∨ code = 0x8140 then 0b10001
  else 0b10000001

/-- An EMCY event (R533, R534): 0x1003 and the Ledger record it; it joins the queue of 16, or is dropped and counted. -/
def State.emcy (s : State) (code src inc : Nat) : State :=
  let full := s.emcyQ.length ≥ 16
  let s := { s with errField := ((code + src * 0x10000) :: s.errField).take 16 }
  let s := if code = 0 then s else { s with errReg := s.errReg ||| emcyBits code }
  let s := s.ledger 0x1C 0 (leBytes 2 code ++ leBytes 2 src ++ leBytes 4 (b2n full) ++ leBytes 8 inc)
  if full then (s.count ODM_CTR.EMCY_DROPPED).raise 0x566
  else { s with emcyQ := s.emcyQ ++ [(code, src, inc)] }

/-- A Ledger LINK record (R619): kind 0 PCIe, 1 Pexlink, 2 DisplayPort, 3 A-PHY, 4 CAN; the spec gives DETAIL no contents. -/
def State.linkRec (s : State) (kind index state : Nat) : State :=
  let (d, s) := s.freeBytes 40 8
  s.ledger 0x16 1 (leBytes 1 kind ++ leBytes 1 index ++ leBytes 1 state ++ leBytes 5 0 ++ d)

/-- The action of routed input `i` (R600). -/
def State.routeAct (s : State) (i : Nat) : Nat := bits (s.rd SAF_ROUTE.ACTION) (2 * i) 2

/-- A routed input whose action is `a` is in force: its bit is set, or its level still holds (R600). -/
def State.routed (s : State) (a : Nat) : Bool :=
  (List.range 9).any (fun i => s.routeAct i == a && (bit (s.rd SAF_ROUTED.HIT) i || s.saf.routedLevel.contains i))

/-- FAULT_N is to be asserted (R598). -/
def State.faultNow (s : State) : Bool := !s.saf.causes.isEmpty || s.on SAF_INC.OPEN 2 || s.routed 2

/-- DEGRADED_N is to be asserted (R599). -/
def State.degradedNow (s : State) : Bool :=
  let m := s.rd SAF_CFG.DEG_MASK
  s.faultNow || s.routed 1 || (bit m 0 && s.saf.shrunk) || (bit m 1 && !s.saf.overrun.isEmpty) ||
  (bit m 2 && s.on SAF_STATUS.THERMAL_CLAMP) || (bit m 3 && !s.asy.withdrawn.isEmpty) || (bit m 4 && s.on ASY_STATUS.EOL)

/-- The highest running level, 1 to 5 for L0 to L4 (SAF_STATUS.LEVEL). -/
def State.runLevel (s : State) : Nat :=
  [0, 1, 2].foldl (fun m k => if s.on SAF_INC.OPEN k then max m (s.rd SAF_INC.LEVEL k) else m) (if s.saf.l0.isEmpty then 0 else 1)

/-- The condition behind EMCY code `c` holds (R533): the code's own condition, in the order of its table. -/
def State.emcyHolds (s : State) (c : Nat) : Bool :=
  if c = 0x5000 then s.on SAF_STATUS.FAULT
  else if c = 0x5010 then s.on SAF_STATUS.DEGRADED
  else if c = 0x8110 then s.bus.down
  else if c = 0x8120 then s.on PXL_STATUS.NO_QUORUM || s.levelCond 0xE4
  else if c = 0x8130 then s.on ODM_NMT.HB_LOST
  else if c = 0x5020 then s.on ASY_STATUS.EOL
  else if c = 0x4210 then s.saf.emcyConds.contains c
  else false

/-- When no condition behind a set bit of 0x1001 holds any more, EMCY 0x0000 is sent and 0x1001 clears (R533). -/
def State.emcyClear (s : State) : State :=
  if s.errReg ≠ 0 ∧ ¬ [0x5000, 0x5010, 0x8110, 0x8120, 0x8130, 0x5020, 0x4210].any s.emcyHolds then
    { (s.emcy 0 0 0) with errReg := 0 }
  else s

/-- The low 32 bits of the device's or the newest running incident, for EMCY (R533). -/
def State.lastInc (s : State) : Nat := s.rd LDG_INCIDENT.NEXT - 1

/-- The fault outputs follow their conditions: pins, SAF_STATUS, sources 0x001 and 0x002, EMCY on assertion, and the
unavailability counter over each assertion of FAULT_N (R598, R599, R533, R613). -/
def State.safUpdate (s : State) : State :=
  let f := s.faultNow
  let d := s.degradedNow
  let f0 := s.on SAF_STATUS.FAULT
  let d0 := s.on SAF_STATUS.DEGRADED
  let s := ((s.fl SAF_STATUS.FAULT 0 f).fl SAF_STATUS.DEGRADED 0 d).wr SAF_STATUS.LEVEL 0 s.runLevel
  let s := if f && !f0 then
      let counts := s.saf.everEnabled && !(s.saf.causes.contains 4 || s.saf.causes.contains 5)
      { (s.emit (.pin 0 0)).emcy 0x5000 1 s.lastInc with saf := { s.saf with faultAt := s.now, counts := counts } }
    else if f0 && !f then
      let s := s.emit (.pin 0 1)
      if s.saf.counts then
        let s := s.countN SAF_CTR.DOWN_US 0 ((s.now - s.saf.faultAt) / 1000)
        s.ledger 0x1D 0 (leBytes 8 (s.rd SAF_CTR.DOWN_US) ++ leBytes 8 0)
      else s
    else s
  let s := if d && !d0 then (s.emit (.pin 1 0)).emcy 0x5010 2 s.lastInc
    else if d0 && !d then s.emit (.pin 1 1) else s
  s.syncSaf.emcyClear

/-- Routed input `i` of R600 arises. -/
def State.routeHit (s : State) (i : Nat) : State :=
  (s.wr SAF_ROUTED.HIT 0 (setBit (s.rd SAF_ROUTED.HIT) i true)).safUpdate

/-- The level of routed input `i` begins or ends. -/
def State.routeLevel (s : State) (i : Nat) (b : Bool) : State :=
  let l := s.saf.routedLevel.filter (· != i)
  let s := { s with saf := { s.saf with routedLevel := if b then i :: l else l } }
  if b then s.routeHit i else s.safUpdate

/-- A Ledger INCIDENT record (R619, R620): severity 3 from L3 up. -/
def State.incRec (s : State) (num act lvl owner src : Nat) : State :=
  s.ledger 0x10 (if lvl ≥ 4 then 3 else 0)
    (leBytes 8 num ++ leBytes 1 act ++ leBytes 1 lvl ++ leBytes 1 owner ++ leBytes 1 0 ++ leBytes 2 src ++ leBytes 2 0)
    (lvl ≥ 4)

/-- Slot `k` of SAF_INC takes an open incident. -/
def State.incOpenSlot (s : State) (k num lvl owner src det : Nat) : State :=
  s.wrs k [(SAF_INC.INCIDENT, num), (SAF_INC.OPEN, 1), (SAF_INC.LEVEL, lvl), (SAF_INC.OWNER, owner),
    (SAF_INC.SOURCE, src), (SAF_INC.DETECT_TIME, det), (SAF_INC.DONE_TIME, 0)]

/-- A new incident number (R603); it advances during a freeze too (R629). -/
def State.incNew (s : State) : Nat × State :=
  let n := s.rd LDG_INCIDENT.NEXT
  (n, ((s.wr LDG_INCIDENT.NEXT 0 (n + 1)).count SAF_CTR.INCIDENTS))

/-- The recovery that an incident of level `lvl` and owner `o` asks for: L2 resets the partition, L3 the device warm, L4
the device fully (R602). -/
def State.incWant (s : State) (lvl o : Nat) : State :=
  if lvl = 3 then { s with saf := { s.saf with wantPart := if s.saf.wantPart.contains o then s.saf.wantPart else o :: s.saf.wantPart } }
  else if lvl = 4 then { s with saf := { s.saf with wantWarm := true } }
  else if lvl = 5 then { s with saf := { s.saf with wantFull := true } }
  else s

/-- Incidents held in slots 0 and 1 that run, oldest number first. -/
def State.incRunning (s : State) : List Nat := [0, 1].filter (fun k => s.on SAF_INC.OPEN k)

/-- Every running incident becomes the one device incident at level `lvl` (4 for L3, 5 for L4): the number of the
device incident that runs, else the lowest running one, else a new one (R604 rules 1 and 3). -/
def State.incDevice (s : State) (lvl src : Nat) : Nat × State :=
  let s := { s with saf := { s.saf with overrun := [] } }
  if s.on SAF_INC.OPEN 2 then
    let n := s.rd SAF_INC.INCIDENT 2
    let l := max (s.rd SAF_INC.LEVEL 2) lvl
    let l := if s.rd SAF_INC.LEVEL 2 = 4 then 5 else l
    let s := ((s.wr SAF_INC.LEVEL 2 l).count SAF_CTR.ESCALATIONS).incRec n 1 l 9 src
    (n, s.incWant l 9)
  else match s.incRunning with
    | [] =>
      let (n, s) := s.incNew
      let s := (s.incOpenSlot 2 n lvl 9 src s.now).incRec n 0 lvl 9 src
      (n, s.incWant lvl 9)
    | k :: _ =>
      let k := if s.on SAF_INC.OPEN 1 && (k = 1 || s.rd SAF_INC.INCIDENT 1 < s.rd SAF_INC.INCIDENT 0) then 1 else k
      let n := s.rd SAF_INC.INCIDENT k
      let src0 := s.rd SAF_INC.SOURCE k
      let det := s.rd SAF_INC.DETECT_TIME k
      let s := ((s.fl SAF_INC.OPEN 0 false).fl SAF_INC.OPEN 1 false).incOpenSlot 2 n lvl 9 src0 det
      let s := (s.count SAF_CTR.ESCALATIONS).incRec n 1 lvl 9 src
      (n, { s with saf := { s.saf with wantPart := [] } }.incWant lvl 9)

/-- A detected fault opens an incident or joins one (R604). `lvl` is 1 to 5 for L0 to L4, `owner` a partition, 8 for no
partition or 9 for the device; the answer is the incident's number. -/
def State.incident (s : State) (lvl owner src : Nat) : Nat × State :=
  let (n, s) :=
    if owner = 9 ∨ lvl ≥ 4 then s.incDevice (max lvl 4) src
    else match [0, 1].find? (fun k => s.on SAF_INC.OPEN k && s.rd SAF_INC.OWNER k == owner) with
      | some k =>
        let n := s.rd SAF_INC.INCIDENT k
        let l := max (s.rd SAF_INC.LEVEL k) lvl + 1
        if l ≥ 4 ∨ owner = 8 then s.incDevice 4 src
        else
          let s := ((s.wr SAF_INC.LEVEL k l).count SAF_CTR.ESCALATIONS).incRec n 1 l owner src
          (n, s.incWant l owner)
      | none =>
        if lvl = 1 then
          let (n, s) := s.incNew
          let s := s.incRec n 0 1 owner src
          (n, { s with saf := { s.saf with l0 := (n, owner) :: s.saf.l0 } })
        else match [0, 1].find? (fun k => !s.on SAF_INC.OPEN k) with
          | none => s.incDevice 4 src
          | some k =>
            let (n, s) := s.incNew
            let s := (s.incOpenSlot k n lvl owner src s.now).incRec n 0 lvl owner src
            (n, s.incWant lvl owner)
  (n, s.safUpdate)

/-- The counter of incidents closed at a level. -/
def incClosedCtr (lvl : Nat) : Fld :=
  if lvl = 1 then SAF_CTR.L0 else if lvl = 2 then SAF_CTR.L1 else if lvl = 3 then SAF_CTR.L2
  else if lvl = 4 then SAF_CTR.L3 else SAF_CTR.L4

/-- The incident in slot `k` completes (R603). -/
def State.incClose (s : State) (k : Nat) : State :=
  if s.on SAF_INC.OPEN k then
    let lvl := s.rd SAF_INC.LEVEL k
    let n := s.rd SAF_INC.INCIDENT k
    let s := (s.fl SAF_INC.OPEN k false).wr SAF_INC.DONE_TIME k s.now
    let s := (s.count (incClosedCtr lvl)).incRec n 2 lvl (s.rd SAF_INC.OWNER k) (s.rd SAF_INC.SOURCE k)
    { s with saf := { s.saf with overrun := s.saf.overrun.filter (· != n) } }.safUpdate
  else s

/-- The incident with number `n` completes, in a slot or as an L0 retry. -/
def State.incDone (s : State) (n : Nat) : State :=
  if s.saf.l0.any (fun p => p.1 == n) then
    let o := ((s.saf.l0.find? (fun p => p.1 == n)).getD (n, 8)).2
    let s := { s with saf := { s.saf with l0 := s.saf.l0.filter (fun p => p.1 != n) } }
    ((s.count SAF_CTR.L0).incRec n 2 1 o 0).safUpdate
  else match [0, 1, 2].find? (fun k => s.on SAF_INC.OPEN k && s.rd SAF_INC.INCIDENT k == n) with
    | some k => s.incClose k
    | none => s

/-- An L0 retry that fails raises its own incident to L1 (R604): it takes a slot, joins its owner's recovery, or raises
every running incident to L3. -/
def State.incRetryFailed (s : State) (n owner src : Nat) : Nat × State :=
  let s := { s with saf := { s.saf with l0 := s.saf.l0.filter (fun p => p.1 != n) } }
  match [0, 1].find? (fun k => s.on SAF_INC.OPEN k && s.rd SAF_INC.OWNER k == owner) with
  | some _ => s.incident 2 owner src
  | none =>
    match [0, 1].find? (fun k => !s.on SAF_INC.OPEN k) with
    | none => s.incident 2 owner src
    | some k =>
      let s := ((s.count SAF_CTR.ESCALATIONS).incOpenSlot k n 2 owner src s.now).incRec n 1 2 owner src
      (n, s.safUpdate)

/-- An enabled partition (R73). -/
def State.partOn (s : State) (p : Nat) : Bool := p < 8 && s.on FE_PART.EN p

/-- The enabled partition that owns unit `n` by mask field `F`. -/
def State.ownerOf (s : State) (F : Fld) (n : Nat) : Option Nat :=
  (List.range 8).find? (fun p => s.on FE_PART.EN p && bit (s.rd F p) n)

/-- The incident owner of a unit: its partition, or 8 for none. -/
def State.incOwner (s : State) (F : Fld) (n : Nat) : Nat := (s.ownerOf F n).getD 8

/-- A wake source is recorded while the device is in DOZE or NAP or enters a state; in OFF every one is ignored (R584, R588,
R590). `F` is its field of PWR_WAKE_SRC, `m` its bits. -/
def State.wakeAsk (s : State) (F : Fld) (m : Nat) : State :=
  if s.pwr.off ∨ (s.rd PWR_STATUS.STATE = 0 ∧ s.pwr.entry.isNone) then s
  else
    let s := s.wr F 0 (s.rd F ||| m)
    { s with pwr := { s.pwr with ask := true, askAt := if s.pwr.ask then s.pwr.askAt else s.now } }

/-- A doorbell, a BAR2 write, PWR_CMD or a BAR0 access wakes the device. -/
def State.wakeAccess (s : State) : State := s.wakeAsk PWR_WAKE_SRC.ACCESS 1

end Sys2Proof.Machine
end

