-- ==== Sys2Proof/Machine/Flash.lean ====
section
/-! DEFINITION. The flash (R548, R549) and the boot record in it (R550). An erased byte reads 0xFF; the bytes are held
complemented, so that erased bytes are not listed. -/

namespace Sys2Proof.Machine

/-- Change bring-up's own state. -/
def State.updBoot (s : State) (f : Boot → Boot) : State := { s with boot := f s.boot }

/-- `n` bytes of the flash from offset `a`. -/
def State.flashRead (s : State) (a n : Nat) : List Byte := (s.boot.flash.read a n).map (fun b => ~~~b)

/-- Erase the flash from `lo` up to `hi`. -/
def State.flashErase (s : State) (lo hi : Nat) : State := s.updBoot (fun b => { b with flash := b.flash.zero lo hi })

/-- Program bytes: a bit goes from 1 to 0 only, as flash cells do (assumption 50). -/
def State.flashProgram (s : State) (a : Nat) (bs : List Byte) : State :=
  let old := s.flashRead a bs.length
  s.updBoot (fun b => { b with flash := b.flash.write a ((old.zip bs).map (fun p => ~~~(p.1 &&& p.2))) })

/-- Erase and write: what the device's own writers do. -/
def State.flashStore (s : State) (a : Nat) (bs : List Byte) : State := (s.flashErase a (a + bs.length)).flashProgram a bs

/-- Every byte is erased. -/
def erased (bs : List Byte) : Bool := bs.all (· == 0xFF)

/-! ### The boot record -/

/-- The 4 KiB of a boot record copy. -/
def BootRec.image (r : BootRec) : List Byte :=
  let reps := (r.repairs.take 64).flatMap (fun e => leBytes 2 e.1 ++ leBytes 1 e.2.1 ++ leBytes 1 e.2.2)
  let b := leBytes 4 0x44524342 ++ leBytes 4 r.seq ++ leBytes 1 r.fails ++ leBytes 1 r.slot ++ leBytes 1 (b2n r.trial) ++
    leBytes 1 r.failStep ++ leBytes 1 r.failErr ++ leBytes 1 (min 64 r.repairs.length) ++ leBytes 2 0 ++
    reps ++ List.replicate (0xFFC - 0x10 - reps.length) 0
  b ++ leBytes 4 (crc32c b)

/-- A valid copy's record. -/
def bootRecOf (b : List Byte) : Option BootRec :=
  if field b 0 4 = 0x44524342 ∧ field b 0xFFC 4 = crc32c (b.take 0xFFC) then
    some {
      seq := field b 4 4, fails := field b 8 1, slot := field b 9 1, trial := field b 0xA 1 == 1,
      failStep := field b 0xB 1, failErr := field b 0xC 1,
      repairs := (List.range (min 64 (field b 0xD 1))).map (fun i =>
        (field b (0x10 + 4 * i) 2, field b (0x12 + 4 * i) 1, field b (0x13 + 4 * i) 1)) }
  else none

/-- The record of copy `k`. -/
def State.recCopy (s : State) (k : Nat) : Option BootRec := bootRecOf (s.flashRead (0x1000 * k) 4096)

/-- The record that readers take: the valid copy with the higher SEQ, or the defaults. -/
def State.recRead (s : State) : BootRec := match s.recCopy 0, s.recCopy 1 with
  | some a, some b => if a.seq < b.seq then b else a
  | some a, none => a
  | none, some b => b
  | none, none => {}

/-- A writer overwrites an invalid copy or the one with the lower SEQ, with the next SEQ. -/
def State.recWrite (s : State) (r : BootRec) : State :=
  let k := match s.recCopy 0, s.recCopy 1 with
    | some a, some b => if a.seq < b.seq then 0 else 1
    | some _, none => 1
    | none, _ => 0
  let r := { r with seq := (s.recRead).seq + 1 }
  let s := s.flashStore (0x1000 * k) r.image
  (s.updBoot (fun b => { b with rcd := r })).fl RST_BOOT_SEL.TRIAL_REQ 0 r.trial

/-- A repair entry is appended, unless the list is full (R552). -/
def State.addRepair (s : State) (cls unit act : Nat) : State :=
  if s.boot.rcd.repairs.length ≥ 64 then s
  else s.recWrite { s.boot.rcd with repairs := s.boot.rcd.repairs ++ [(cls, unit, act)] }

end Sys2Proof.Machine
end

