-- ==== Sys2Proof/Machine/Float.lean ====
section
/-! DEFINITION. Number formats and arithmetic (chapter 09, R250 to R253, R258 to R268): exact dyadic values, one rounding,
the IEEE operations with their flags, conversions, the bounded functions, and the matrix accumulation model. -/

namespace Sys2Proof.Machine

/-- The value `m * 2 ^ e`. -/
structure Dy where
  m : Int
  e : Int
  deriving DecidableEq, Repr

/-- The mantissa of `a` at exponent `e`, which is not above its own. -/
def Dy.at (a : Dy) (e : Int) : Int := a.m * (2 ^ (a.e - e).toNat : Nat)

/-- Exact sum. -/
def Dy.add (a b : Dy) : Dy :=
  if a.m = 0 then b else if b.m = 0 then a else
    let e := min a.e b.e
    { m := a.at e + b.at e, e := e }

/-- Exact product. -/
def Dy.mul (a b : Dy) : Dy := { m := a.m * b.m, e := a.e + b.e }

/-- Negation. -/
def Dy.neg (a : Dy) : Dy := { a with m := -a.m }

/-- Magnitude. -/
def Dy.abs (a : Dy) : Dy := { a with m := a.m.natAbs }

/-- `a < b`. -/
def Dy.lt (a b : Dy) : Bool :=
  let e := min a.e b.e
  a.at e < b.at e

/-- `a = b` in value. -/
def Dy.eq (a b : Dy) : Bool :=
  let e := min a.e b.e
  a.at e == b.at e

/-- `a <= b`. -/
def Dy.le (a b : Dy) : Bool := !b.lt a

/-- The largest integer not above a value. -/
def Dy.floor (a : Dy) : Int := if a.e ≥ 0 then a.m * (2 ^ a.e.toNat : Nat) else a.m / (2 ^ (-a.e).toNat : Nat)

/-- The nearest integer, ties to even (R258). -/
def Dy.rne (a : Dy) : Int :=
  if a.e ≥ 0 then a.m * (2 ^ a.e.toNat : Nat)
  else
    let d : Int := (2 ^ (-a.e).toNat : Nat)
    let q := a.m / d
    let r := a.m % d
    if 2 * r > d ∨ (2 * r = d ∧ q % 2 ≠ 0) then q + 1 else q

/-- An integer as a dyadic value. -/
def Dy.ofInt (i : Int) : Dy := { m := i, e := 0 }

/-- The bit length of a number. -/
def bitLen (n : Nat) : Nat := if n = 0 then 0 else Nat.log2 n + 1

/-- A format with infinities and NaNs: exponent and fraction bits (R259). -/
structure Fmt where
  eb : Nat
  mb : Nat
  deriving DecidableEq, Repr

def fp64 : Fmt := ⟨11, 52⟩
def fp32 : Fmt := ⟨8, 23⟩
def fp16 : Fmt := ⟨5, 10⟩
def bf16 : Fmt := ⟨8, 7⟩

/-- The sticky flags (R217). -/
def flNV : Nat := 1
def flDZ : Nat := 2
def flOF : Nat := 4
def flUF : Nat := 8
def flNX : Nat := 16

namespace Fmt

def width (f : Fmt) : Nat := 1 + f.eb + f.mb
def bias (f : Fmt) : Nat := 2 ^ (f.eb - 1) - 1
def sign (f : Fmt) (w : Nat) : Bool := bit w (f.eb + f.mb)
def expo (f : Fmt) (w : Nat) : Nat := bits w f.mb f.eb
def frac (f : Fmt) (w : Nat) : Nat := bits w 0 f.mb
def isNaN (f : Fmt) (w : Nat) : Bool := f.expo w == 2 ^ f.eb - 1 && f.frac w != 0
/-- A signalling NaN has its quiet bit clear. -/
def isSNaN (f : Fmt) (w : Nat) : Bool := f.isNaN w && !bit w (f.mb - 1)
def isInf (f : Fmt) (w : Nat) : Bool := f.expo w == 2 ^ f.eb - 1 && f.frac w == 0
def isZero (f : Fmt) (w : Nat) : Bool := f.expo w == 0 && f.frac w == 0
/-- A NaN made quiet (R251). -/
def quiet (f : Fmt) (w : Nat) : Nat := setBit (w % 2 ^ f.width) (f.mb - 1) true
/-- The canonical quiet NaN (R251, R260). -/
def qnan (f : Fmt) : Nat := (2 ^ f.eb - 1) * 2 ^ f.mb + 2 ^ (f.mb - 1)
def sbit (f : Fmt) (s : Bool) : Nat := if s then 2 ^ (f.eb + f.mb) else 0
def inf (f : Fmt) (s : Bool) : Nat := f.sbit s + (2 ^ f.eb - 1) * 2 ^ f.mb
def zero (f : Fmt) (s : Bool) : Nat := f.sbit s
/-- The exponent of the smallest subnormal. -/
def emin (f : Fmt) : Int := 1 - (f.bias : Int) - f.mb

/-- The value of a finite code (R259, R260). -/
def val (f : Fmt) (w : Nat) : Dy :=
  let m := if f.expo w = 0 then f.frac w else 2 ^ f.mb + f.frac w
  let e := f.emin + (if f.expo w = 0 then 0 else (f.expo w : Int) - 1)
  { m := if f.sign w then -(m : Int) else m, e := e }

/-- Round `(-1)^s * (m + d) * 2^e` to the format, where `d` is 0, or between 0 and 1 when `sticky` (R258): the code and
the flags, with tininess after rounding (R251). With `sticky`, `m` has at least two bits more than the format. -/
def round (f : Fmt) (s : Bool) (m : Nat) (e : Int) (sticky : Bool := false) : Nat × Nat :=
  if m = 0 ∧ !sticky then (f.zero s, 0)
  else
    let E : Int := e + bitLen m - 1
    let q0 := E - f.mb
    let q := max q0 f.emin
    let cut (q : Int) : Nat × Bool :=
      if q ≤ e then (m * 2 ^ (e - q).toNat, sticky)
      else
        let d := (q - e).toNat
        let r := m % 2 ^ d
        let h := 2 ^ (d - 1)
        let M := m / 2 ^ d
        (if r > h || (r == h && (sticky || M % 2 == 1)) then M + 1 else M, r != 0 || sticky)
    let (M, inexact) := cut q
    let tiny := E < f.emin + f.mb && !((cut q0).1 == 2 ^ (f.mb + 1) && E + 1 == f.emin + f.mb)
    let w := (q - f.emin).toNat * 2 ^ f.mb + M
    if w ≥ (2 ^ f.eb - 1) * 2 ^ f.mb then (f.inf s, flOF + flNX)
    else (f.sbit s + w, (if inexact then flNX else 0) + (if inexact && tiny then flUF else 0))

/-- Round a non-zero or zero dyadic value; `z` is the sign of a zero. -/
def rnd (f : Fmt) (a : Dy) (z : Bool := false) : Nat × Nat :=
  if a.m = 0 then (f.zero z, 0) else f.round (a.m < 0) a.m.natAbs a.e

/-- NV when an operand is a signalling NaN. -/
def snanFlag (f : Fmt) (l : List Nat) : Nat := if l.any f.isSNaN then flNV else 0

/-- The result where an operand is a NaN: the first, made quiet (R251). -/
def nanOf (f : Fmt) (l : List Nat) : Option (Nat × Nat) := (l.find? f.isNaN).map (fun w => (f.quiet w, f.snanFlag l))

/-- `a + b`. -/
def add (f : Fmt) (a b : Nat) : Nat × Nat :=
  match f.nanOf [a, b] with
  | some r => r
  | none =>
    if f.isInf a then (if f.isInf b ∧ f.sign a ≠ f.sign b then (f.qnan, flNV) else (f.inf (f.sign a), 0))
    else if f.isInf b then (f.inf (f.sign b), 0)
    else f.rnd ((f.val a).add (f.val b)) (f.isZero a && f.isZero b && f.sign a && f.sign b)

/-- The sign of a code inverted. -/
def flip (f : Fmt) (w : Nat) : Nat := setBit w (f.eb + f.mb) (!f.sign w)

/-- `a - b`; a NaN keeps its own sign. -/
def sub (f : Fmt) (a b : Nat) : Nat × Nat := if f.isNaN b then f.add a b else f.add a (f.flip b)

/-- `a * b`. -/
def mul (f : Fmt) (a b : Nat) : Nat × Nat :=
  match f.nanOf [a, b] with
  | some r => r
  | none =>
    let s := f.sign a != f.sign b
    if f.isInf a || f.isInf b then (if f.isZero a || f.isZero b then (f.qnan, flNV) else (f.inf s, 0))
    else f.rnd ((f.val a).mul (f.val b)) s

/-- `a * b + c`, rounded once (R251). -/
def fma (f : Fmt) (a b c : Nat) : Nat × Nat :=
  match f.nanOf [a, b, c] with
  | some r => r
  | none =>
    let s := f.sign a != f.sign b
    if f.isInf a || f.isInf b then
      if f.isZero a || f.isZero b || (f.isInf c && f.sign c != s) then (f.qnan, flNV) else (f.inf s, 0)
    else if f.isInf c then (f.inf (f.sign c), 0)
    else
      let p := (f.val a).mul (f.val b)
      f.rnd (p.add (f.val c)) (p.m == 0 && f.isZero c && s && f.sign c)

/-- `a < b` of two codes that are no NaN, with -0 below +0 where `z`. -/
def ltv (f : Fmt) (a b : Nat) (z : Bool := false) : Bool :=
  if f.isZero a && f.isZero b then z && f.sign a && !f.sign b
  else if f.isInf a then f.sign a && !(f.isInf b && f.sign b)
  else if f.isInf b then !f.sign b
  else (f.val a).lt (f.val b)

/-- minimumNumber and maximumNumber (R251): a NaN gives way to a number. -/
def minNum (f : Fmt) (mx : Bool) (a b : Nat) : Nat × Nat :=
  let fl := f.snanFlag [a, b]
  if f.isNaN a && f.isNaN b then (f.quiet a, fl)
  else if f.isNaN a then (b, fl) else if f.isNaN b then (a, fl)
  else (if (f.ltv a b true) != mx then a else b, fl)

/-- minimum and maximum, which propagate NaN (R251). -/
def minProp (f : Fmt) (mx : Bool) (a b : Nat) : Nat × Nat :=
  match f.nanOf [a, b] with
  | some r => r
  | none => (if (f.ltv a b true) != mx then a else b, 0)

/-- The four roundings to an integral value: 0 floor, 1 ceiling, 2 truncate, 3 nearest even. -/
def integral (f : Fmt) (k : Nat) (a : Nat) : Nat × Nat :=
  match f.nanOf [a] with
  | some r => r
  | none =>
    if f.isInf a || f.isZero a then (a, 0)
    else
      let v := f.val a
      let i := if k = 0 then v.floor else if k = 1 then -(v.neg.floor)
        else if k = 2 then (if v.m < 0 then -(v.neg.floor) else v.floor) else v.rne
      (f.rnd (Dy.ofInt i) (f.sign a)).1 |> fun w => (w, 0)

/-- The fractional part `a - floor a`, rounded once. -/
def fract (f : Fmt) (a : Nat) : Nat × Nat :=
  match f.nanOf [a] with
  | some r => r
  | none =>
    if f.isInf a then (f.qnan, flNV)
    else
      let v := f.val a
      f.rnd (v.add (Dy.ofInt (-v.floor))) false

/-- `a * 2^k`. -/
def ldexp (f : Fmt) (a : Nat) (k : Int) : Nat × Nat :=
  match f.nanOf [a] with
  | some r => r
  | none =>
    if f.isInf a || f.isZero a then (a, 0)
    else
      let v := f.val a
      let k := max (-(2 ^ 13 : Int)) (min (2 ^ 13) k)
      f.rnd { v with e := v.e + k }

end Fmt

/-! ### Roots and the bounded functions (R253) -/

/-- The integer square root, one bit of the result a step. -/
def isqrtAux (n : Nat) : (fuel : Nat) → (r : Nat) → Nat
  | 0, r => r
  | k + 1, r => let t := r + 2 ^ k; isqrtAux n k (if t * t ≤ n then t else r)

/-- The integer square root of a number below 2^512. -/
def isqrt (n : Nat) : Nat := isqrtAux n (bitLen n / 2 + 1) 0

/-- Square root, correctly rounded, with the IEEE flags. -/
def Fmt.sqrt (f : Fmt) (a : Nat) : Nat × Nat :=
  match f.nanOf [a] with
  | some r => r
  | none =>
    if f.isZero a then (a, 0)
    else if f.sign a then (f.qnan, flNV)
    else if f.isInf a then (a, 0)
    else
      let v := f.val a
      let k := 2 * f.mb + 8
      let odd := (v.e % 2 == 1)
      let m := v.m.natAbs * (if odd then 2 else 1) * 2 ^ (2 * k)
      let e := (if odd then v.e - 1 else v.e) / 2 - k
      let r := isqrt m
      f.round false r e (r * r != m)

/-- ln 2 and pi in units of 2^-120. -/
def ln2Fix : Nat := 921350637599661305226344307672478454
def piFix : Nat := 4175892906503776358826876457663557747

/-- The product of two numbers in units of 2^-120. -/
def fixMul (a b : Nat) : Nat := a * b / 2 ^ 120

/-- `x * e^y` by its series, in units of 2^-120, for y below 1. -/
def expFix (y : Nat) : (fuel : Nat) → (n term sum : Nat) → Nat
  | 0, _, _, sum => sum
  | k + 1, n, t, sum => expFix y k (n + 1) (fixMul t y / n) (sum + fixMul t y / n)

/-- 2^v for a value, to about 100 bits. -/
def exp2Dy (v : Dy) : Dy :=
  let i := v.floor
  let fr := v.add (Dy.ofInt (-i))
  let x := (Dy.floor { fr with e := fr.e + 120 }).toNat
  { m := expFix (fixMul x ln2Fix) 40 1 (2 ^ 120) (2 ^ 120), e := i - 120 }

/-- Bits of the logarithm by squaring. -/
def log2Fix : (fuel : Nat) → (y acc : Nat) → Nat
  | 0, _, acc => acc
  | k + 1, y, acc =>
    let y := fixMul y y
    if y ≥ 2 ^ 121 then log2Fix k (y / 2) (2 * acc + 1) else log2Fix k y (2 * acc)

/-- log2 of a positive value, to about 90 bits after the point. -/
def log2Dy (v : Dy) : Dy :=
  let m := v.m.natAbs
  let l := bitLen m - 1
  let y := if l ≤ 120 then m * 2 ^ (120 - l) else m / 2 ^ (l - 120)
  ({ m := log2Fix 90 y 0, e := -90 } : Dy).add (Dy.ofInt (v.e + l))

/-- The alternating series of sine (from x) or cosine (from 1), in units of 2^-120. -/
def sinFix (x2 : Int) : (fuel : Nat) → (n : Nat) → (term sum : Int) → Int
  | 0, _, _, sum => sum
  | k + 1, n, t, sum =>
    let t := -(t * x2 / (2 ^ 120 : Nat)) / ((n + 1) * (n + 2) : Nat)
    sinFix x2 k (n + 2) t (sum + t)

/-- Sine of a value in turns; cosine with `c`. -/
def sinDy (c : Bool) (v : Dy) : Dy :=
  let v := if c then v.add { m := 1, e := -2 } else v
  let r := v.add (Dy.ofInt (-v.floor))
  let t := Dy.floor { r with e := r.e + 120 }
  let (s, t) := if t ≥ 2 ^ 119 then (-1, t - 2 ^ 119) else ((1 : Int), t)
  let t := if t > 2 ^ 118 then 2 ^ 119 - t else t
  let x := 2 * t * (piFix : Int) / (2 ^ 120 : Nat)
  { m := s * sinFix (x * x / (2 ^ 120 : Nat)) 30 1 x x, e := -120 }

/-- The weight of the last place of a result near `v`. -/
def Fmt.ulp (f : Fmt) (v : Dy) : Dy :=
  { m := 1, e := max (v.e + bitLen v.m.natAbs - 1 - f.mb) f.emin }

/-- A value whose error the spec bounds and does not fix: the free candidate where it lies within `bound` of `v`, else
`v` rounded. -/
def Fmt.bounded (f : Fmt) (kind key : Nat) (v bound : Dy) : Nat :=
  let c := Config.freeNat kind key % 2 ^ f.width
  if !f.isNaN c && !f.isInf c && ((f.val c).add v.neg).abs.le bound then c
  else (f.round (v.m < 0) v.m.natAbs v.e (v.m != 0)).1

/-- The reciprocal of a non-zero value to 130 bits. -/
def rcpDy (v : Dy) : Dy :=
  let m := v.m.natAbs
  let k := 130 + bitLen m
  let q : Int := (2 ^ k / m : Nat)
  { m := if v.m < 0 then -q else q, e := -v.e - k }

/-- The reciprocal square root of a positive value to 130 bits. -/
def rsqDy (v : Dy) : Dy :=
  let m := v.m.natAbs * (if v.e % 2 = 1 then 2 else 1)
  let e := if v.e % 2 = 1 then v.e - 1 else v.e
  let k := 260 + bitLen m + bitLen m % 2
  { m := isqrt (2 ^ k / m), e := -(e / 2) - k / 2 }

/-- The SFU functions. -/
inductive Sfu where
  | rcp | rsq | sqrt | exp2 | log2 | sin | cos
  deriving DecidableEq, Repr

/-- The bound of R253 for a function, format and exact value. -/
def sfuBound (f : Fmt) (op : Sfu) (x v : Dy) : Dy :=
  let u := f.ulp v
  let half := { u with e := u.e - 1 }
  if f = fp64 then { v.abs with e := v.e - 23 }
  else match op with
    | .rcp | .rsq | .sqrt => if f = fp16 then half else u
    | .exp2 => if f = fp16 then u else { u with m := 2 }
    | .log2 => if f = fp16 then u
      else if ({ m := 1, e := -1 } : Dy).le x && x.le (Dy.ofInt 2) then { m := 1, e := -22 } else { u with m := 2 }
    | .sin | .cos => if f = fp16 then { m := 1, e := -10 } else { m := 1, e := -21 }

/-- An SFU operation (R253): the code and its flags. FP16 RCP and RSQ are correctly rounded. -/
def Fmt.sfu (f : Fmt) (op : Sfu) (a : Nat) : Nat × Nat :=
  if op = .sqrt then f.sqrt a
  else match f.nanOf [a] with
  | some r => r
  | none =>
    let v := f.val a
    let key := a + 2 ^ 64 * (match op with | .rcp => 0 | .rsq => 1 | .sqrt => 2 | .exp2 => 3 | .log2 => 4 | .sin => 5 | .cos => 6) + 2 ^ 70 * f.mb
    let out (y : Dy) : Nat × Nat :=
      if f = fp16 ∧ (op = .rcp ∨ op = .rsq) then ((f.round (y.m < 0) y.m.natAbs y.e (y.m != 0)).1, 0)
      else (f.bounded 20 key y (sfuBound f op v y), 0)
    match op with
    | .rcp => if f.isZero a then (f.inf (f.sign a), flDZ) else if f.isInf a then (f.zero (f.sign a), 0)
      else
        let y := rcpDy v
        if v.m.natAbs = 2 ^ (bitLen v.m.natAbs - 1) then f.rnd { m := if v.m < 0 then -1 else 1, e := -v.e - (bitLen v.m.natAbs - 1 : Nat) } |> fun r => (r.1, 0)
        else out y
    | .rsq => if f.isZero a then (f.inf (f.sign a), flDZ) else if f.sign a then (f.qnan, flNV)
      else if f.isInf a then (f.zero false, 0) else out (rsqDy v)
    | .exp2 => if f.isInf a then (if f.sign a then f.zero false else f.inf false, 0)
      else if (Dy.ofInt 5000).lt v then (f.inf false, 0)
      else if v.lt (Dy.ofInt (-5000)) then (f.bounded 20 key ⟨0, 0⟩ ⟨1, f.emin + 1⟩, 0)
      else out (exp2Dy v)
    | .log2 => if f.isZero a then (f.inf true, flDZ) else if f.sign a then (f.qnan, flNV)
      else if f.isInf a then (f.inf false, 0) else out (log2Dy v)
    | .sin | .cos => if f.isInf a then (f.qnan, flNV) else out (sinDy (op == .cos) v)
    | .sqrt => f.sqrt a

/-! ### Short formats (R259 to R268) -/

/-- A short format without infinities: fraction bits, exponent bits, bias. -/
structure Sf where
  eb : Nat
  mb : Nat
  bias : Nat
  deriving DecidableEq, Repr

def sf84 : Sf := ⟨4, 3, 7⟩
def sf85 : Sf := ⟨5, 2, 15⟩
def sf6 : Sf := ⟨3, 2, 3⟩

/-- The only NaN code (R261). -/
def Sf.nan (f : Sf) : Nat := 2 ^ (f.eb + f.mb)

/-- The value of a code that is no NaN (R261). -/
def Sf.val (f : Sf) (w : Nat) : Dy :=
  let E := bits w f.mb f.eb
  let M := bits w 0 f.mb
  let m : Nat := if E = 0 then M else 2 ^ f.mb + M
  { m := if bit w (f.eb + f.mb) then -(m : Int) else m, e := (if E = 0 then 1 else (E : Int)) - f.bias - f.mb }

/-- Round a value to a short format (R267): the code and flags; UF where the inexact result is subnormal or zero (assumption
55). -/
def Sf.rnd (f : Sf) (v : Dy) : Nat × Nat :=
  if v.m = 0 then (0, 0)
  else
    let m := v.m.natAbs
    let E : Int := v.e + bitLen m - 1
    let lo : Int := 1 - (f.bias : Int) - f.mb
    let cut (q : Int) : Nat × Bool :=
      if q ≤ v.e then (m * 2 ^ (v.e - q).toNat, false)
      else
        let d := (q - v.e).toNat
        let r := m % 2 ^ d
        let h := 2 ^ (d - 1)
        let M := m / 2 ^ d
        (if r > h || (r == h && M % 2 == 1) then M + 1 else M, r != 0)
    let q := max (E - f.mb) lo
    let (M, nx) := cut q
    let w := (q - lo).toNat * 2 ^ f.mb + M
    let s := if v.m < 0 then 2 ^ (f.eb + f.mb) else 0
    if w ≥ 2 ^ (f.eb + f.mb) then (s + (2 ^ (f.eb + f.mb) - 1), flOF + flNX)
    else (if w = 0 then 0 else s + w, (if nx then flNX else 0) + (if nx && w < 2 ^ f.mb then flUF else 0))

/-- Bits of an element in a register (R262). -/
def NTy.size : NTy → Nat
  | .f64 | .i64 | .u64 => 64
  | .f32 | .i32 | .u32 => 32
  | .f16 | .bf16 => 16
  | .sf84 | .sf85 | .sf6 | .i8 | .u8 => 8
  | .i4 => 4

/-- The format of a type with infinities. -/
def NTy.fmt? : NTy → Option Fmt
  | .f64 => some fp64
  | .f32 => some fp32
  | .f16 => some fp16
  | .bf16 => some Machine.bf16
  | _ => none

/-- The short format of a type. -/
def NTy.sf? : NTy → Option Sf
  | .sf84 => some Machine.sf84
  | .sf85 => some Machine.sf85
  | .sf6 => some Machine.sf6
  | _ => none

/-- What a source element is worth. -/
inductive NVal where
  /-- a NaN: sign, signalling, and for an IEEE format its format and code -/
  | nan (s sig : Bool) (src : Option (Fmt × Nat))
  | inf (s : Bool)
  /-- a number; `s` is its sign where it is zero -/
  | num (v : Dy) (s : Bool)
  deriving DecidableEq, Repr

/-- The value of an element code (R259 to R262). -/
def NTy.decode (t : NTy) (w : Nat) : NVal :=
  match t.fmt? with
  | some f =>
    if f.isNaN w then .nan (f.sign w) (f.isSNaN w) (if t = .bf16 then none else some (f, w))
    else if f.isInf w then .inf (f.sign w) else .num (f.val w) (f.sign w)
  | none => match t.sf? with
    | some f => if bits w 0 (1 + f.eb + f.mb) = f.nan then .nan true false none else .num (f.val w) false
    | none => match t with
      | .i64 | .i32 | .i8 | .i4 => .num (Dy.ofInt (toSigned t.size w)) false
      | _ => .num (Dy.ofInt (w % 2 ^ t.size : Nat)) false

/-- A number rounded and saturated to an integer type (R252). -/
def satInt (n : Nat) (v : Dy) : Nat × Nat :=
  let i := v.rne
  let hi : Int := 2 ^ (n - 1) - 1
  let lo : Int := -(2 ^ (n - 1))
  if i > hi then (ofSigned n hi, flNV) else if i < lo then (ofSigned n lo, flNV)
  else (ofSigned n i, if v.eq (Dy.ofInt i) then 0 else flNX)

/-- The conversion of one element (R252, R266 to R268): the code and its flags. -/
def convert (src dst : NTy) (w : Nat) : Nat × Nat :=
  let x := src.decode w
  match dst.fmt? with
  | some f => match x with
    | .inf s => (f.inf s, 0)
    | .num v s => f.rnd v s
    | .nan s sig p =>
      let fl := if sig then flNV else 0
      match p with
      | none => (f.qnan, fl)
      | some (g, c) =>
        if dst = .bf16 then
          if src = .f32 then (setBit (c / 2 ^ 16) 6 true, fl) else (f.qnan, fl)
        else
          let pay := if g.mb ≤ f.mb then g.frac c * 2 ^ (f.mb - g.mb) else g.frac c / 2 ^ (g.mb - f.mb)
          (setBit (f.inf s + pay) (f.mb - 1) true, fl)
  | none => match dst.sf? with
    | some f => match x with
      | .nan _ sig _ => (f.nan, if sig then flNV else 0)
      | .inf s => ((if s then 2 ^ (f.eb + f.mb) else 0) + (2 ^ (f.eb + f.mb) - 1), flOF)
      | .num v _ => f.rnd v
    | none => match x with
      | .nan _ _ _ => (0, flNV)
      | .inf s => (if s then 2 ^ (dst.size - 1) else 2 ^ (dst.size - 1) - 1, flNV)
      | .num v _ => satInt dst.size v

/-! ### Matrix accumulation (R272 to R276) -/

/-- A term of a group: its product's value, and the sum of its operands' exponents. -/
structure Term where
  v : Dy
  ex : Int
  deriving DecidableEq, Repr

/-- The exponent of an operand of a floating type (R272): that of a normal value, or 1 - bias. -/
def NTy.expOf (t : NTy) (w : Nat) : Int :=
  match t.fmt? with
  | some f => (if f.expo w = 0 then 1 else (f.expo w : Int)) - f.bias
  | none => match t.sf? with
    | some f => (if bits w f.mb f.eb = 0 then 1 else (bits w f.mb f.eb : Int)) - f.bias
    | none => 0

/-- Truncate a magnitude to a multiple of 2^k. -/
def truncTo (v : Dy) (k : Int) : Dy :=
  if v.e ≥ k then v
  else
    let q : Nat := v.m.natAbs / 2 ^ (k - v.e).toNat
    { m := if v.m < 0 then -(q : Int) else q, e := k }

/-- The sum of a group of at most 16 terms aligned to its largest exponent with `F` fraction bits (R272), and the
exponent; zero products do not count. -/
def groupSum (F : Nat) (l : List Term) : Dy × Option Int :=
  let l := l.filter (fun t => t.v.m != 0)
  match l with
  | [] => (⟨0, 0⟩, none)
  | t :: r =>
    let eg := r.foldl (fun m x => max m x.ex) t.ex
    (l.foldl (fun s x => s.add (truncTo x.v (eg - F))) ⟨0, 0⟩, some eg)

/-- Cut a list into runs of `n`. -/
def chunksOf {α : Type} (n : Nat) : (fuel : Nat) → List α → List (List α)
  | 0, _ => []
  | k + 1, l => if l.isEmpty then [] else l.take n :: chunksOf n k (l.drop n)

/-- The exact sum of a list. -/
def sumDy (l : List Dy) : Dy := l.foldl Dy.add ⟨0, 0⟩

/-- Round to FP32, flushing a subnormal result where `flush` (R270, R274): the code, and whether it was flushed. -/
def rndAcc (flush : Bool) (v : Dy) : Nat × Bool :=
  let w := (fp32.rnd v).1
  if flush && fp32.expo w == 0 && fp32.frac w != 0 then (fp32.zero (v.m < 0), true) else (w, false)

/-- The bound of R276 on the distance from the exact value: the group errors, the roundings, and the subnormal term. -/
def accBound (F : Nat) (flush : Bool) (acc : Dy) (slices : List (List Term)) : Dy :=
  let gs := slices.flatMap (fun sl => (chunksOf 16 (sl.length + 1) sl).filterMap (fun g => (groupSum F g).2))
  let ge := sumDy (gs.map (fun e => { m := 15, e := e - F }))
  let mag := acc.abs.add (sumDy (slices.flatMap (fun sl => sl.map (fun t => t.v.abs))))
  let s := slices.length
  (ge.add { mag with m := mag.m * s, e := mag.e - 23 }).add { m := s, e := if flush then -126 else -150 }

/-! ### Quotients -/

/-- The quotient of two exact values, rounded once to FP32. -/
def divRnd (n d : Dy) : Nat :=
  let k := bitLen d.m.natAbs + 32 - bitLen n.m.natAbs
  let q := n.m.natAbs * 2 ^ k / d.m.natAbs
  (fp32.round ((n.m < 0) != (d.m < 0) && n.m != 0) q (n.e - k - d.e) (n.m.natAbs * 2 ^ k % d.m.natAbs != 0)).1

/-- A rational value rounded once to FP32. -/
def ratRnd (q : Rat) : Nat := if q.num = 0 then 0 else divRnd ⟨q.num, 0⟩ ⟨q.den, 0⟩

/-- The value of a finite FP32 word. -/
def ratOf (w : Nat) : Rat :=
  let v := fp32.val w
  if v.e ≥ 0 then (v.m * (2 ^ v.e.toNat : Nat) : Int) else (v.m : Rat) / ((2 ^ (-v.e).toNat : Nat) : Rat)

/-- An FP32 word is finite. -/
def finite32 (w : Nat) : Bool := fp32.expo w != 255

end Sys2Proof.Machine
end

