-- ==== Sys2Proof/Machine/Mem.lean ====
section
/-! DEFINITION. Physical memory (chapters 02 and 17): where a line lives, the L2 and its write policies, the memory
controllers with their poison tables and error log, host memory, and the Sweep. Accesses answer an error code: 0 for
none, else the context fault code that the issuing context takes (R615). -/

namespace Sys2Proof.Machine

/-- The stack, and so the MC, of line index `L` (R461). -/
def stackOf (L : Nat) : Nat := (bits L 0 2 ^^^ bits L 7 2) ^^^ (bits L 15 2 ^^^ bits L 23 2)

/-- The pseudo-channel of a line within its stack (R461). -/
def pcOf (L : Nat) : Nat := (bits L 2 5 ^^^ bits L 9 5) ^^^ (bits L 18 5 ^^^ bits L 25 5)

/-- The L2 slice of a line (R461). -/
def sliceOf (L : Nat) : Nat := 12 * stackOf L + (L / 4) % 12

/-- The set of a line within its slice (R461). -/
def setOf (L : Nat) : Nat := (L / 4) / 12 % 512

/-- Bytes of one 2 MiB unit of a partition's HBM ranges. -/
def unit2M : Nat := 0x200000

/-- The enabled partition whose HBM ranges cover a local offset (R73). -/
def State.hbmOwner (s : State) (off : Nat) : Option Nat :=
  (List.range 8).find? (fun p => s.on FE_PART.EN p && (List.range 4).any (fun k =>
    let b := s.rd FE_PART.HBM_BASE (p * 4 + k)
    let n := s.rd FE_PART.HBM_SIZE (p * 4 + k)
    b * unit2M ≤ off && off < (b + n) * unit2M))

/-- The L2 ways that no enabled partition owns (R75). -/
def State.freeWays (s : State) : Nat :=
  (List.range 8).foldl (fun m p => if s.on FE_PART.EN p then m - (m &&& s.rd FE_PART.L2_WAYS p) else m) 0xFFFF

/-- Ways that are being handed over take no new line (R79). -/
def State.waysKept (s : State) (m : Nat) : Nat := s.mem.ways.foldl (fun m w => setBit m w.1 false) m

/-- The ways in which a line of physical address `pa` may be allocated (R75). `hub` forces the unowned ways (R158). -/
def State.waysFor (s : State) (pa : Nat) (hub : Bool) : Nat :=
  s.waysKept (if hub ∨ bits pa 48 2 = 3 then s.freeWays
  else match s.hbmOwner (bits pa 0 48) with
    | some p => s.rd FE_PART.L2_WAYS p
    | none => s.freeWays)

/-- A local HBM offset lies in the Foreman region, which stands from the start of bring-up step 6 on (R557). -/
def State.inFw (s : State) (off : Nat) : Bool :=
  s.on RST_BOOT_STEP.STATE 6 && s.rd RST_BOOT_FW.FW_PA * 0x4000000 ≤ off && off < (s.rd RST_BOOT_FW.FW_PA + 1) * 0x4000000

/-- The device's own number (R5). -/
def State.dev (s : State) : Nat := s.rd GLB_DEVNUM.DEV_ID

/-- A log record of MC `m` (R474); an uncorrectable one also goes to the Ledger (R619) under incident `inc`. -/
def State.mcLog (s : State) (m L half kind syms inc : Nat) : State :=
  let i := s.rd MC_ERRLOG_WPTR.WPTR m % 16
  let k := 16 * m + i
  let w0 := L * 128 + half * 64
  let w1 := kind + pcOf L * 0x100 + syms % 2 ^ 32 * 2 ^ 32
  let w2 := syms / 2 ^ 32
  let s := (((s.wr MC_ERRLOG.W0 k w0).wr MC_ERRLOG.W1 k w1).wr MC_ERRLOG.W2 k w2).wr MC_ERRLOG.W3 k s.now
  let s := s.wr MC_ERRLOG_WPTR.WPTR m (s.rd MC_ERRLOG_WPTR.WPTR m + 1)
  s.ledger 0x12 (if kind ≥ 2 then 2 else 1)
    (leBytes 8 inc ++ leBytes 8 (m * 0x100) ++ leBytes 8 w0 ++ leBytes 8 w1 ++ leBytes 8 w2 ++ leBytes 8 s.now)

/-- MC_STATUS.POISON_USED of every MC. -/
def State.poisonUsed (s : State) : State :=
  [0, 1, 2, 3].foldl (fun s m => s.wr MC_STATUS.POISON_USED m (s.mem.poison.filter (fun L => stackOf L == m)).length) s

/-- A line is entered in its MC's poison table; a full table keeps what it holds and raises MC_POISON_FULL, which goes
to the fault collection unit (R468, R600). -/
def State.poisonLine (s : State) (L : Nat) : State :=
  let m := stackOf L
  if s.mem.poison.contains L then s
  else if (s.mem.poison.filter (fun x => stackOf x == m)).length ≥ 256 then (s.raise 0xC5).routeHit 6
  else { s with mem := { s.mem with poison := L :: s.mem.poison } }.poisonUsed

/-- A poison entry is removed (R468). -/
def State.unpoison (s : State) (L : Nat) : State :=
  if s.mem.poison.contains L then
    { s with mem := { s.mem with poison := s.mem.poison.filter (· != L) } }.poisonUsed
  else s

/-- An uncorrectable access that no context is responsible for: MEM_UNCORR_SHARED, a fault in shared logic (R467). -/
def State.uncorrShared (s : State) : State :=
  let s := (s.raise 0xC3).fl SAF_STATUS.SHARED 0 true
  (s.incident 4 9 0xC3).2

/-- The MC reads the codewords of line `L` named by `need` (bit 0 the lower half, bit 1 the upper): 0, or the error
code of R467. A correctable codeword is counted, logged once per line, and written back (R465, R471, R474). `scrub`
says that patrol scrub reads. -/
def State.mcCheck (s : State) (L need : Nat) (scrub : Bool) : State × Nat :=
  let m := stackOf L
  if s.mem.poison.contains L then
    let s := (s.count MC_ECC_CTR.UNCORR m).mcLog m L 0 3 0 0
    (s.raise 0xC2, 0x90)
  else
    [0, 1].foldl (fun (r : State × Nat) h =>
      let (s, e) := r
      let cw := 2 * L + h
      match s.mem.upsets.get? cw with
      | none => (s, e)
      | some syms =>
        if !bit need h || popc syms 36 = 0 then (s, e)
        else if popc syms 36 ≤ 2 then
          let s := s.count (if scrub then MC_ECC_CTR.SCRUB_CORR else MC_ECC_CTR.CORR) m
          let s := if s.mem.corrLines.contains L then s
            else { s with mem := { s.mem with corrLines := L :: s.mem.corrLines } }.mcLog m L h (if scrub then 1 else 0) syms 0
          let s := if s.mem.corrRaised.contains m then s
            else { s with mem := { s.mem with corrRaised := m :: s.mem.corrRaised } }.raise 0xC1
          ({ s with mem := { s.mem with upsets := s.mem.upsets.del cw } }, e)
        else
          let s := ((s.count MC_ECC_CTR.UNCORR m).mcLog m L h 2 0 0).raise 0xC2
          (s, 0x90)) (s, 0)

/-- Zero line `L`: any L2 copy is dropped without a write-back, then the MC writes zeros and removes a poison entry
(R475). The Sweep skips the lines of the Foreman region (R557). -/
def State.zeroLine (s : State) (L : Nat) : State :=
  if s.inFw (L * 128) then s
  else
    let up := (s.mem.upsets.del (2 * L)).del (2 * L + 1)
    let l2 := s.mem.l2.del (L + s.dev * 2 ^ 41)
    { s with mem := { s.mem with l2 := l2, hbm := s.mem.hbm.zero (L * 128) (L * 128 + 128), upsets := up } }.unpoison L

/-- A range that covers line `L` and has not zeroed it. -/
def SweepJob.pends (j : SweepJob) (L : Nat) : Bool := j.lo ≤ L * 128 && L * 128 < j.hi && !j.ahead.contains L

/-- Mark line `L` as zeroed ahead in every job that covers it. -/
def aheadIn (L : Nat) (l : List SweepJob) : List SweepJob :=
  l.map (fun j => if j.pends L then { j with ahead := L :: j.ahead } else j)

/-- A request reaches a line that a Sweep range covers and has not zeroed: it is zeroed ahead of order (R477). -/
def State.sweepAhead (s : State) (L : Nat) : State :=
  if s.mem.jobs.any (·.pends L) || s.mem.waitParts.any (·.pends L) || s.mem.waitJobs.any (·.pends L) then
    let s := s.zeroLine L
    { s with mem := { s.mem with jobs := aheadIn L s.mem.jobs, waitParts := aheadIn L s.mem.waitParts,
                                 waitJobs := aheadIn L s.mem.waitJobs } }
  else s

/-- The MC writes the bytes of `mask` of line `L`. A part of a codeword is merged after a read; an uncorrectable read
poisons the line (R466); a part of a poisoned line is not applied (R468). -/
def State.mcWrite (s : State) (L mask : Nat) (data : List Byte) : State × Nat :=
  let full := mask = 2 ^ 128 - 1
  let s := s.pmu 0x41 (stackOf L) 8
  if s.mem.poison.contains L && !full then (s, 0x90)
  else
    let part := (if bits mask 0 64 ≠ 0 ∧ bits mask 0 64 ≠ 2 ^ 64 - 1 then 1 else 0) +
      (if bits mask 64 64 ≠ 0 ∧ bits mask 64 64 ≠ 2 ^ 64 - 1 then 2 else 0)
    let (s, e) := if full then (s, 0) else s.mcCheck L part false
    if e ≠ 0 then (s.poisonLine L, 0x90)
    else
      let s := if full then s.unpoison L else s
      let up := s.mem.upsets
      let up := if bits mask 0 64 = 2 ^ 64 - 1 then up.del (2 * L) else up
      let up := if bits mask 64 64 = 2 ^ 64 - 1 then up.del (2 * L + 1) else up
      ({ s with mem := { s.mem with hbm := s.mem.hbm.writeMask (L * 128) mask data, upsets := up } }, 0)

/-- A host-memory request can be served now (R47). -/
def State.hostUp (s : State) : Bool := s.on GLB_LINK.UP

/-- Write bytes of a line to the memory behind the L2: HBM through the MC, or the host. -/
def State.backWrite (s : State) (key mask : Nat) (data : List Byte) : State × Nat :=
  if bits key 41 2 = 3 then
    if s.hostUp then
      ({ s with mem := { s.mem with host := s.mem.host.writeMask (bits key 0 41 * 128) mask data } }, 0)
    else (s, 0xA2)
  else s.mcWrite (bits key 0 41) mask data

/-- Read a whole line from the memory behind the L2. -/
def State.backRead (s : State) (key need : Nat) : State × List Byte × Nat :=
  let L := bits key 0 41
  if bits key 41 2 = 3 then
    if s.hostUp then (s, s.mem.host.read (L * 128) 128, 0) else (s, [], 0xA2)
  else
    let h := (if bits need 0 64 ≠ 0 then 1 else 0) + (if bits need 64 64 ≠ 0 then 2 else 0)
    let (s, e) := (s.pmu 0x40 (stackOf L) 8).mcCheck L h false
    (s, s.mem.hbm.read (L * 128) 128, e)

/-- The codewords that hold a dirty byte are sent on a write-back (R478); a write-back that the MC does not apply loses
the dirty bytes, which the slice counts (R468). The line stays, clean. -/
def State.cleanLine (s : State) (key : Nat) : State :=
  match s.mem.l2.get? key with
  | none => s
  | some l =>
    if l.dirty = 0 then s
    else
      let sl := sliceOf (bits key 0 41)
      let (s, e) := s.backWrite key l.dirty l.data
      let s := s.count L2_SLICE_CTR.WRITEBACKS sl
      let s := if e ≠ 0 ∧ bits key 41 2 ≠ 3 then (s.count L2_SLICE_CTR.UNCORR sl).raise 0xC2 else s
      { s with mem := { s.mem with l2 := s.mem.l2.upd key (fun l => { l with dirty := 0 }) } }

/-- A line leaves the L2 without a write-back. -/
def State.dropLine (s : State) (key : Nat) : State := { s with mem := { s.mem with l2 := s.mem.l2.del key } }

/-- A line leaves the L2 after its write-back. -/
def State.evictLine (s : State) (key : Nat) : State := (s.cleanLine key).dropLine key

/-- The lines of the set that line `key` maps to. -/
def State.setLines (s : State) (key : Nat) : List (Nat × L2Line) :=
  let L := bits key 0 41
  s.mem.l2.filter (fun p => sliceOf (bits p.1 0 41) == sliceOf L && setOf (bits p.1 0 41) == setOf L)

/-- The least recently used of a list of lines. -/
def lruOf : List (Nat × L2Line) → Option (Nat × L2Line)
  | [] => none
  | p :: r => match lruOf r with
    | none => some p
    | some q => if q.2.used < p.2.used then some q else some p

/-- Allocate a line within the ways allowed: a free way, else that of the least recently used line, which is evicted
(R75, R478). With no way allowed the line is not allocated. -/
def State.allocLine (s : State) (key : Nat) (hub : Bool) (l : L2Line) : State :=
  let ws := s.waysFor (key * 128) hub
  let here := s.setLines key
  match (bitList ws 16).find? (fun w => !here.any (fun p => p.2.way == w)) with
  | some w => { s with mem := { s.mem with l2 := s.mem.l2.put key { l with way := w } } }
  | none =>
    match lruOf (here.filter (fun p => bit ws p.2.way)) with
    | none => s
    | some (k, v) =>
      let s := s.evictLine k
      { s with mem := { s.mem with l2 := s.mem.l2.put key { l with way := v.way } } }

/-- A lookup of a slice counts, and a hit counts. -/
def State.l2Look (s : State) (key : Nat) : State × Option L2Line :=
  let sl := sliceOf (bits key 0 41)
  let s := (s.count L2_SLICE_CTR.LOOKUPS sl).pmu 0x30 sl 8
  let s := { s with mem := { s.mem with clock := s.mem.clock + 1 } }
  match s.mem.l2.get? key with
  | none => (s, none)
  | some l =>
    let s := (s.count L2_SLICE_CTR.HITS sl).pmu 0x31 sl 8
    ({ s with mem := { s.mem with l2 := s.mem.l2.upd key (fun l => { l with used := s.mem.clock }) } }, some l)

/-- The CACHE policy that applies to a target (R165): WB of host memory acts as WT. -/
def policyFor (pa cache : Nat) : Nat := if bits pa 48 2 = 3 ∧ cache = 0 then 1 else cache

/-- Read `n` bytes at `pa` within one line of this device's HBM or of the host, under a CACHE policy (R478, R479). -/
def State.lineRead (s : State) (pa n cache : Nat) (hub : Bool) : State × List Byte × Nat :=
  let key := pa / 128
  let o := pa % 128
  let need := maskOf o n
  let s := if bits pa 48 2 = 3 then s else s.sweepAhead (bits key 0 41)
  let (s, hit) := s.l2Look key
  match hit with
  | some l =>
    if l.held &&& need = need then (s, (l.data.drop o).take n, 0)
    else
      let (s, d, e) := s.backRead key need
      if e ≠ 0 then (s, [], e)
      else
        let d := mergeBytes l.held d l.data
        let s := { s with mem := { s.mem with l2 := s.mem.l2.upd key (fun l => { l with held := 2 ^ 128 - 1, data := d }) } }
        (s, (d.drop o).take n, 0)
  | none =>
    let (s, d, e) := s.backRead key need
    if e ≠ 0 then (s, [], e)
    else
      let s := if policyFor pa cache ≤ 1 then
          s.allocLine key hub { way := 0, held := 2 ^ 128 - 1, dirty := 0, data := d, used := s.mem.clock }
        else s
      (s, (d.drop o).take n, 0)

/-- Write bytes at `pa` within one line under a CACHE policy (R479). -/
def State.lineWrite (s : State) (pa cache : Nat) (hub : Bool) (bs : List Byte) : State × Nat :=
  let key := pa / 128
  let o := pa % 128
  let mask := maskOf o bs.length
  let data := List.replicate o 0 ++ bs ++ List.replicate (128 - o - bs.length) 0
  let pol := policyFor pa cache
  let s := if bits pa 48 2 = 3 then s else s.sweepAhead (bits key 0 41)
  let (s, hit) := s.l2Look key
  match hit with
  | some l =>
    let d := mergeBytes mask l.data data
    let upd (s : State) (dirty : Nat) : State :=
      { s with mem := { s.mem with l2 := s.mem.l2.upd key (fun l => { l with held := l.held ||| mask, dirty := dirty, data := d }) } }
    if pol = 0 then (upd s (l.dirty ||| mask), 0)
    else if pol = 1 then
      let (s, e) := s.backWrite key mask data
      (upd s (l.dirty - (l.dirty &&& mask)), e)
    else
      let through := mask - (mask &&& l.dirty)
      let (s, e) := if through = 0 then (s, 0) else s.backWrite key through data
      (upd s l.dirty, e)
  | none =>
    if pol = 0 then
      let before := s.waysFor pa hub
      if before = 0 then s.backWrite key mask data
      else (s.allocLine key hub { way := 0, held := mask, dirty := mask, data := data, used := s.mem.clock }, 0)
    else if pol = 1 then
      let (s, e) := s.backWrite key mask data
      (if e = 0 then s.allocLine key hub { way := 0, held := mask, dirty := 0, data := data, used := s.mem.clock } else s, e)
    else s.backWrite key mask data

/-- The port of device `own` toward device `d`: port 0 leads to the lower-numbered of the two others (R484). -/
def portTo (own d : Nat) : Nat := if d = (if own = 0 then 1 else 0) then 0 else 1

/-- Device `d` is joined and its port is not DOWN (R63, R488, R501); while a port retrains, its requests wait for the
replay (R500). -/
def State.reachable (s : State) (d : Nat) : Bool :=
  d < 3 && bit (s.rd PXL_STATUS.JOINED) d && [2, 3, 4].contains (s.rd PXL_PORT.STATE (portTo s.dev d))

/-- A request toward device `d` that cannot be made fails at the port (R501). -/
def State.reqErr (s : State) (d : Nat) : State := s.count PXL_PORT.REQ_ERR (portTo s.dev d)

/-- A request to device `d` leaves; whether the target refuses it under R488 is a free value. -/
def State.pxlReq (s : State) (d kind : Nat) (w : List Nat) : State × Bool :=
  let (k, s) := (s.emit (.pxl (portTo s.dev d) kind w)).free 38
  (s, k % 2 == 1)

/-- Read at a physical address (R60 to R63). A remote read crosses Pexlink; its data are free. Offsets that the map
reserves answer BAD_PA. -/
def State.physRead (s : State) (pa n cache : Nat) (hub : Bool := false) : State × List Byte × Nat :=
  let t := bits pa 48 2
  if t = 3 then
    (linePieces pa n).foldl (fun (r : State × List Byte × Nat) p =>
      let (s, d, e) := r
      if e ≠ 0 then (s, [], e) else
        let (s, d', e) := s.lineRead p.1 p.2 cache hub
        (s, d ++ d', e)) (s, [], 0)
  else if t = s.dev then
    if bits pa 0 48 + n ≤ s.hbmBytes then
      (linePieces pa n).foldl (fun (r : State × List Byte × Nat) p =>
        let (s, d, e) := r
        if e ≠ 0 then (s, [], e) else
          let (s, d', e) := s.lineRead p.1 p.2 cache hub
          (s, d ++ d', e)) (s, [], 0)
    else (s, [], 0x28)
  else if s.reachable t then
    let (s, bad) := s.pxlReq t 1 [pa, n]
    let (bs, s) := s.freeBytes 2 n
    if bad then (s, [], 0xC0) else (s, bs, 0)
  else (s.reqErr t, [], 0xA0)

/-- Write at a physical address. -/
def State.physWrite (s : State) (pa cache : Nat) (bs : List Byte) (hub : Bool := false) : State × Nat :=
  let t := bits pa 48 2
  if t = 3 ∨ t = s.dev then
    if t = s.dev ∧ ¬ bits pa 0 48 + bs.length ≤ s.hbmBytes then (s, 0x28)
    else
      let r := (linePieces pa bs.length).foldl (fun (r : State × List Byte × Nat) p =>
        let (s, bs, e) := r
        if e ≠ 0 then (s, bs, e) else
          let (s, e) := s.lineWrite p.1 cache hub (bs.take p.2)
          (s, bs.drop p.2, e)) (s, bs, 0)
      (r.1, r.2.2)
  else if s.reachable t then
    let (s, bad) := s.pxlReq t 2 (pa :: bs.map (·.toNat))
    (s, if bad then 0xC0 else 0)
  else (s.reqErr t, 0xA0)

/-- A scheduling decision is traced (R642): a 16-byte record in the trace ring, or a dropped one where the write fails. -/
def State.trace (s : State) (kind part unit value : Nat) : State :=
  if s.on DBG_TRACE.TRACE_EN ∧ bit (s.rd DBG_TRACE.MASK) kind then
    let w := s.rd DBG_TRACE.TRACE_WPTR
    let pa := s.rd DBG_TRACE.TRACE_PA * 0x1000 + w % 2 ^ s.rd DBG_TRACE.LOG2_SIZE
    let (s, e) := s.physWrite pa 0 (leBytes 8 s.now ++ leBytes 1 kind ++ leBytes 1 part ++ leBytes 2 unit ++ leBytes 4 value)
    if e = 0 then s.wr DBG_TRACE.TRACE_WPTR 0 (w + 16)
    else
      let first := s.rd DBG_TRACE.DROPPED = 0
      let s := s.count DBG_TRACE.DROPPED
      if first then s.raise 0x583 else s
  else s

/-- The jobs that claims and ALLOCs hold. -/
def SweepJob.ofPart (j : SweepJob) : Bool := match j.done with
  | .part _ => true
  | _ => false

/-- Sweep state registers follow the jobs held. -/
def State.sweepRegs (s : State) : State :=
  (s.wr MC_SWEEP.JOBS 0 s.mem.jobs.length).fl MC_SWEEP.BUSY 0 (!s.mem.jobs.isEmpty)

/-- Waiting ranges take free jobs: those of commits first, then claims and ALLOCs, which hold at most 48 together
(R475, R476). -/
def State.sweepTake : (fuel : Nat) → State → State
  | 0, s => s.sweepRegs
  | f + 1, s =>
    if s.mem.jobs.length ≥ 64 then s.sweepRegs
    else match s.mem.waitParts with
      | j :: r => State.sweepTake f { s with mem := { s.mem with jobs := s.mem.jobs ++ [j], waitParts := r } }
      | [] => match s.mem.waitJobs with
        | j :: r =>
          if (s.mem.jobs.filter (fun j => !j.ofPart)).length ≥ 48 then s.sweepRegs
          else State.sweepTake f { s with mem := { s.mem with jobs := s.mem.jobs ++ [j], waitJobs := r } }
        | [] => s.sweepRegs

/-- A range to zero is accepted: it counts as being zeroed from now on (R93, R476). -/
def State.sweepAdd (s : State) (lo hi : Nat) (d : SweepDone) : State :=
  let j : SweepJob := { id := s.mem.nextJob, lo := lo, hi := hi, done := d }
  let s := { s with mem := { s.mem with nextJob := s.mem.nextJob + 1 } }
  let s := if j.ofPart then { s with mem := { s.mem with waitParts := s.mem.waitParts ++ [j] } }
    else { s with mem := { s.mem with waitJobs := s.mem.waitJobs ++ [j] } }
  s.sweepTake 64

/-- Zero every line of a range that its job has not zeroed ahead (R475). -/
def State.sweepZero (s : State) (j : SweepJob) : State :=
  let keep (L : Nat) : Bool := j.ahead.contains L
  let inR (L : Nat) : Bool := j.lo ≤ L * 128 && L * 128 < j.hi && !keep L && !s.inFw (L * 128)
  let d := s.dev
  { s with mem := { s.mem with
      hbm := s.mem.hbm.filter (fun p => !inR (p.1 / 128)),
      l2 := s.mem.l2.filter (fun p => !(p.1 / 2 ^ 41 == d && inR (p.1 % 2 ^ 41))),
      upsets := s.mem.upsets.filter (fun p => !inR (p.1 / 2)),
      poison := s.mem.poison.filter (fun L => !inR L) } }.poisonUsed

/-- CLEARING of every partition follows the ranges and ways that are being zeroed for it (R79, R476). -/
def State.clearSync (s : State) : State :=
  let parts : List Nat := (s.mem.jobs ++ s.mem.waitParts).flatMap (fun j => match j.done with
    | .part ps => ps
    | _ => []) ++ s.mem.ways.flatMap (·.2)
  (List.range 8).foldl (fun s p => s.fl FE_PART.CLEARING p (parts.contains p)) s

end Sys2Proof.Machine
end

