-- ==== Sys2Proof/Machine/Streams.lean ====
section
/-! DEFINITION. Streams of packets and the start of a context teardown: what queues, Tallies and engines share
(chapters 03 and 04). -/

namespace Sys2Proof.Machine

/-- Change a stream, where it exists. -/
def State.updStrm (s : State) (sid : Nat) (f : Strm → Strm) : State :=
  { s with fe := { s.fe with strms := s.fe.strms.upd sid f } }

/-- All packets of a stream, in order. -/
def Strm.pkts (st : Strm) : List Pkt := st.ents.flatMap (·.pkts)

/-- Change one packet of a stream. -/
def Strm.updPkt (st : Strm) (pid : Nat) (f : Pkt → Pkt) : Strm :=
  { st with ents := st.ents.map (fun e => { e with pkts := e.pkts.map (fun p => if p.pid = pid then f p else p) }) }

/-- Packets that take effect only after every earlier packet and then hold up no later one (R122): SIGNAL, WRITE_IMM,
TIMESTAMP. -/
def opDeferred (op : Nat) : Bool := op == 1 || op == 3 || op == 4

/-- Every packet before packet `pid` has completed. -/
def Strm.earlierDone (st : Strm) (pid : Nat) : Bool := st.pkts.all (fun p => pid ≤ p.pid || p.st == 2)

/-- A BARRIER holds packet `p` (R102, R117). -/
def Strm.barred (st : Strm) (p : Pkt) : Bool := (p.barrier || p.first) && !st.earlierDone p.pid

/-- The next packet to dispatch: the first that has not started, but a deferred one that no BARRIER holds is passed, since
it holds up no later packet (R122). -/
def Strm.nextPkt (st : Strm) : Option Pkt := st.pkts.find? (fun p => p.st == 0 && (!opDeferred p.op || st.barred p))

/-- The sequence of the entry that holds packet `pid`. -/
def Strm.seqOf (st : Strm) (pid : Nat) : Nat :=
  ((st.ents.find? (fun e => e.pkts.any (fun p => p.pid == pid))).map (·.seq)).getD 0

/-- A WAIT or a BARRIER holds the stream (R115). -/
def Strm.blocked (st : Strm) : Bool :=
  st.waitPid.isSome || match st.nextPkt with
    | some p => st.barred p
    | none => false

/-- The stream holds a packet to dispatch. -/
def Strm.hasWork (st : Strm) : Bool := st.nextPkt.isSome

/-- Packet `pid` starts, and with it the deferred packets before it: dispatch follows the order of the ring (R122). -/
def Pkt.starts (pid : Nat) (p : Pkt) : Bool := p.st == 0 && (p.pid == pid || (p.pid < pid && opDeferred p.op))

/-- The packets that start with packet `pid` have started. -/
def Strm.started (st : Strm) (pid : Nat) : Strm :=
  { st with ents := st.ents.map (fun e => { e with pkts := e.pkts.map (fun p => if p.starts pid then { p with st := 1 } else p) }) }

/-- Partition of a context. -/
def State.partOf (s : State) (c : Nat) : Nat := s.rd FE_CTX.PART c

/-- A context is ACTIVE. -/
def State.ctxActive (s : State) (c : Nat) : Bool := s.rd FE_CTX.STATE c = 1

/-- The priority of a stream: its queue's (R152). -/
def State.strmPrio (s : State) (st : Strm) : Nat := s.rd FE_Q.PRIO st.q

/-- The budget of EXHAUSTED that work of a class draws on: cluster, Loom or Press (R440). -/
def budgetBit (cls : Nat) : Nat := if cls ≤ 1 then 0 else if cls = 2 then 1 else if cls = 3 then 2 else 3

/-- Dispatch of a stream is withheld: the fetchers do not run, a reset of its partition runs, or, Realtime apart, SAFE_ACTION HOLD is in force or
its partition's budget is exhausted (R440, R576, R601). -/
def State.strmHeld (s : State) (st : Strm) : Bool :=
  !s.fe.run || s.fe.held.contains (s.partOf st.ctx) ||
  (s.strmPrio st ≠ 3 && (s.saf.hold || bit (s.rd FE_BUDGET.EXHAUSTED (s.partOf st.ctx)) (budgetBit st.cls)))

/-- READY, BLOCKED and IDLE of fetcher `k` follow its streams. -/
def State.feSync (s : State) (k : Nat) : State :=
  let l := s.fe.strms.filter (fun p => p.2.cls == k)
  let r := l.filter (fun p => p.2.ready)
  let b := r.filter (fun p => p.2.blocked || s.strmHeld p.2)
  let idle := r.isEmpty && l.all (fun p => p.2.pkts.all (fun q => q.st == 2))
  let s := (s.wr FE_FETCH.READY k r.length).wr FE_FETCH.BLOCKED k b.length
  s.wr FE_STATUS.IDLE 0 (setBit (s.rd FE_STATUS.IDLE) k idle)

/-- A packet starts; PACKETS counts it and the deferred ones that are dispatched before it (R122). -/
def State.startPkt (s : State) (sid pid : Nat) : State :=
  match s.fe.strms.get? sid with
  | none => s
  | some st => ((s.updStrm sid (fun st => st.started pid)).countN FE_FETCH.PACKETS st.cls
      (st.pkts.filter (Pkt.starts pid)).length).feSync st.cls

/-- A packet completes. -/
def State.donePkt (s : State) (sid pid : Nat) : State :=
  match s.fe.strms.get? sid with
  | none => s
  | some st => (s.updStrm sid (fun st => st.updPkt pid (fun p => { p with st := 2 }))).feSync st.cls

/-- Packets that have not started and follow packet `pid` go, with the deferred ones among them that are not in effect,
and the packet's entry and those behind it of which something goes never complete (R127). -/
def Strm.cutAfter (st : Strm) (pid : Nat) : Strm :=
  let goes (p : Pkt) : Bool := pid < p.pid && (p.st == 0 || (p.st == 1 && opDeferred p.op))
  { st with ents := st.ents.map (fun e =>
      { e with bad := e.bad || e.rest.isSome || e.pkts.any (fun p => p.pid == pid || goes p), rest := none,
               pkts := e.pkts.filter (fun p => !goes p) }) }

/-- A queue fault (R127): its queue fetches nothing further; the first fault of the stream stands. In a Pattern node the
nodes not yet dispatched are discarded and the launching queue faults with the launch's sequence (R152). -/
def State.queueFault (s : State) (sid code seq : Nat) : State :=
  match s.fe.strms.get? sid with
  | none => s
  | some st =>
    let s := match st.fault with
      | some _ => s
      | none => (s.updStrm sid (fun st => { st with fault := some (code, seq), ready := false, inPass := false })).feSync st.cls
    match st.node with
    | none => s
    | some (l, _) =>
      match s.pats.launches.get? l with
      | none => s
      | some la =>
        let s := { s with pats := { s.pats with launches := s.pats.launches.upd l (fun x => { x with failed := some code }) } }
        let s := s.updStrm la.sid (fun st => st.cutAfter la.pid)
        match s.fe.strms.get? la.sid with
        | none => s
        | some q => match q.fault with
          | some _ => s
          | none => (s.updStrm la.sid (fun st => { st with fault := some (code, la.seq), ready := false, inPass := false })).feSync q.cls

/-- A packet faults its queue: it is done with, what follows it and has not started goes (R127). -/
def State.pktFault (s : State) (sid code pid : Nat) : State :=
  match s.fe.strms.get? sid with
  | none => s
  | some st =>
    let s := s.queueFault sid code (st.seqOf pid)
    (s.updStrm sid (fun st => (st.cutAfter pid).updPkt pid (fun p => { p with st := 2 }))).feSync st.cls

/-- SIGNAL packets of a context that have been fetched and are not in effect: the Tallies they name (R662). -/
def State.signalTallies (s : State) (c : Nat) : List Nat :=
  (s.fe.strms.filter (fun p => p.2.ctx == c)).flatMap (fun p =>
    (p.2.pkts.filter (fun k => k.op == 1 && k.st != 2)).map (fun k => k.w.headD 0 % 0x2000))

/-- The packets of an entry that step 1 of a teardown leaves: the dispatched ones. SIGNAL, WRITE_IMM and TIMESTAMP that are
not in effect go. An entry that loses a packet never completes (R86). -/
def Ent.torn (e : Ent) : Ent :=
  let stays (k : Pkt) : Bool := k.st == 1 && !opDeferred k.op
  { e with bad := e.bad || e.rest.isSome || e.pkts.any (fun k => k.st != 2 && !stays k), rest := none, pkts := e.pkts.filter stays }

/-- Step 1 of a teardown (R85): the context's state, its queues fetch no more, undispatched packets go. -/
def State.tdBegin (s : State) (c : Nat) (t : Teardown) : State :=
  let pz := s.signalTallies c
  let s := s.wr FE_CTX.STATE c 2
  let s := { s with
    fe := { s.fe with strms := s.fe.strms.map (fun p =>
      if p.2.ctx = c then
        (p.1, { p.2 with ready := false, inPass := false, waitPid := none, waitEnd := none, ents := p.2.ents.map Ent.torn })
      else p) },
    tds := s.tds.put c { t with step := 1, poison := t.poison ++ pz } }
  [0, 1, 2, 3, 4].foldl State.feSync s

/-- A running teardown of context `c` that has not reached step 3 poisons Tally `t` there: of work that goes before the
engines let go of the context (R662). -/
def State.tdPoison (s : State) (c t : Nat) : State :=
  { s with tds := s.tds.upd c (fun d => if d.step ≤ 2 then { d with poison := d.poison ++ [t] } else d) }

/-- A fault confined to context `c` (R84): an ACTIVE context starts a teardown by the device; one already in TEARDOWN
joins it without changing its outcome; any other is unaffected. `inc` is the fault's Ledger incident; a fault that opens
none leaves INCIDENT 0 (log entry 62, DESIGN CHOICE). -/
def State.ctxFault (s : State) (c code : Nat) (inc : Nat := 0) (engine : Nat := 60) (detail : List Byte := []) : State :=
  if s.ctxActive c then s.tdBegin c { step := 1, driver := false, code := code, inc := inc, engine := engine, detail := detail }
  else s

/-- The partition range that holds a Tally, or none for a shared one (R74). -/
def State.tallyOwner (s : State) (t : Nat) : Option Nat :=
  (List.range 8).find? (fun p => s.on FE_PART.EN p && s.rd FE_PART.TLY_BASE p * 64 ≤ t &&
    t < (s.rd FE_PART.TLY_BASE p + s.rd FE_PART.TLY_COUNT p) * 64)

/-- Work of partition `p` may name Tally `t` (R88). -/
def State.tallyOk (s : State) (p t : Nat) : Bool :=
  t < 8192 && match s.tallyOwner t with
    | none => true
    | some o => o == p

end Sys2Proof.Machine
end

