-- ==== Sys2Proof/Machine/Tally.lean ====
section
/-! DEFINITION. The Tally unit (chapter 05): signals, waits, poison, exports, and the Chandler quarantine that a retire
Tally releases. -/

namespace Sys2Proof.Machine

/-- Change a resident group. -/
def State.updGrp (s : State) (g : Nat) (f : Grp → Grp) : State :=
  { s with sh := { s.sh with grps := s.sh.grps.upd g f } }

/-- A Tally's value. -/
def State.tval (s : State) (t : Nat) : Nat := s.rd TLY_SLOT.VALUE t

/-- A Tally is poisoned (R132). -/
def State.poisoned (s : State) (t : Nat) : Bool := s.tval t == poison

/-- WAITERS and POLLING of a Tally follow its waits. -/
def State.waitSync (s : State) (t : Nat) : State :=
  let l := s.tly.waits.filter (fun w => w.tally == t)
  (s.wr TLY_SLOT.WAITERS t (l.filter (fun w => !w.polling)).length).fl TLY_SLOT.POLLING t (l.any (·.polling))

/-- A wait leaves the list and returns its pool entry (R137). -/
def State.dropWait (s : State) (w : TWait) : State :=
  let s := { s with tly := { s.tly with waits := s.tly.waits.filter (· != w) } }
  let s := if w.polling then s
    else { s.wr TLY_POOL.FREE 0 (s.rd TLY_POOL.FREE + 1) with tly := { s.tly with emptyRaised := false } }
  s.waitSync w.tally

/-- The waiter of a satisfied wait goes on (R136): a queue's packet completes, or its queue faults with WAIT_POISON; a
group's status is written, an acquire by its core (R238); a Loom's head Draft can start, or is skipped (R298, R302); a
display commit is ready, or is to be discarded (R402, R404). -/
def State.wakeWaiter (s : State) (who : Waiter) (poisoned : Bool) : State :=
  match who with
  | .strm sid =>
    match s.fe.strms.get? sid with
    | none => s
    | some st => match st.waitPid with
      | none => s
      | some pid =>
        let s := s.updStrm sid (fun st => { st with waitPid := none, waitEnd := none })
        if poisoned then s.pktFault sid 0x0A pid else s.donePkt sid pid
  | .group g =>
    let c := ((s.sh.grps.get? g).map (·.ctx)).getD 0
    let s := { s with sh := { s.sh with l1 := s.sh.l1.filter (fun l => !(l.core == g / 48 && l.ctx == c)) } }
    s.updGrp g (fun x => match x.wait with
      | .tally d _ => { x with wait := .none, sg := x.sg.put d (b2n poisoned) }
      | _ => x)
  | .loom n d =>
    let s := s.fl LOOM_STATUS.WAITING n false
    { s with looms := s.looms.upd n (fun l => { l with drafts := l.drafts.map (fun x =>
        if x.id = d then { x with waitSt := if poisoned then 3 else 2 } else x) }) }
  | .glz p => { s with glz := { s.glz with pipes := s.glz.pipes.upd p (fun x => { x with pend := x.pend.map (fun c =>
      { c with wait := if poisoned then 2 else 0, at_ := some s.now }) }) } }
  | _ => s

/-- Registered waits on `t` that the value now satisfies are released (R135, R137); polling ones see it at their next
poll (R138). -/
def State.settle (s : State) (t : Nat) : State :=
  let v := s.tval t
  (s.tly.waits.filter (fun w => w.tally == t && !w.polling && (v == poison || v ≥ w.target) && !w.who.isRemote)).foldl
    (fun s w => (s.dropWait w).wakeWaiter w.who (v == poison)) s

/-- Each mirror bound to Tally `t` gets its value as a forwarded signal (R493). -/
def State.mirrorOut (s : State) (t : Nat) : State :=
  (s.tly.waits.filter (fun w => w.tally == t)).foldl (fun s w => match w.who with
    | .remote p i => s.emit (.pxl p 12 [i, s.tval t])
    | _ => s) s

/-- Blocks of a list of runs. -/
def runBlocks (l : List HRun) : Nat := l.foldl (fun n r => n + r.n) 0

/-- Blocks that hold the metadata at a heap's start, 16 bytes a block, and are never allocated (R96). The spec lays out no
contents of the metadata: the model holds it in Heap and writes no bytes of it to HBM (log entry 63, DESIGN CHOICE). -/
def heapMeta (blocks : Nat) : Nat := (blocks * 16 + 0xFFFF) / 0x10000

/-- QUARANTINED and FREE_BLOCKS of partition `p` follow its heap. -/
def State.heapSync (s : State) (p : Nat) : State :=
  let n := s.rd FE_CHN.HEAP_BLOCKS p
  let h := (s.heaps.get? p).getD {}
  let q := runBlocks h.quar
  (s.wr FE_CHN.QUARANTINED p q).wr FE_CHN.FREE_BLOCKS p (n - heapMeta n - runBlocks h.live - q)

/-- Quarantined runs whose stamp the retire Tally has reached return to the pool. From the retire Tally's poison on the
quarantine holds every run until the partition is reset (R97). -/
def State.quarRelease (s : State) (t : Nat) : State :=
  (List.range 8).foldl (fun s p =>
    if s.rd FE_CHN.HEAP_BLOCKS p ≠ 0 ∧ s.rd FE_CHN.RETIRE_TALLY p = t then
      let h := (s.heaps.get? p).getD {}
      if s.poisoned t then { s with heaps := s.heaps.put p { h with stuck := true } }
      else if h.stuck ∨ ¬ h.quar.any (fun r => r.stamp ≤ s.tval t) then s
      else { s with heaps := s.heaps.put p { h with quar := h.quar.filter (fun r => !(r.stamp ≤ s.tval t)) } }.heapSync p
    else s) s

/-- A lost write of an exported Tally (R144). -/
def State.exportLost (s : State) : State := (s.count TLY_EXP_ERR.COUNT).raise 0x64

/-- The export write of Tally `t` gets an error response (R144): a write to memory or to another device can. -/
def State.exportErr (s : State) (t : Nat) : State := { s.exportLost with tly := { s.tly with expErr := s.tly.expErr.filter (· != t) } }

/-- One change of an exported Tally is written (R142, R143). The answer is the signal to make where the target is the
SIGNAL word of another Tally of this device. -/
def State.exportOne (s : State) (t : Nat) : State × Option (Nat × Nat) :=
  if !s.on TLY_EXP.EN t then (s, none)
  else
    let pa := s.rd TLY_EXP.PA t * 8
    let v := s.tval t
    let d := bits pa 48 2
    let off := bits pa 0 48
    let follows := s.on TLY_EXP.MSI_EN t && (s.lentTo (s.rd TLY_EXP.VECTOR t)).isNone
    let msi (s : State) : State := if follows then s.notifyVec (s.rd TLY_EXP.VECTOR t) else s
    if d = 3 ∧ !s.hostUp then
      let s := s.exportLost
      (if follows then s.linkDrop else s, none)
    else if d ≠ 3 ∧ off ≥ 0xFFFFFFF80000 then
      if off % 64 ≠ 8 then (s.exportLost, none)
      else if d = s.dev then (msi s, some ((off - 0xFFFFFFF80000) / 64, v))
      else if s.tly.expErr.contains t then (s.exportErr t, none)
      else if s.reachable d then (msi (s.emit (.pxl (portTo s.dev d) 3 [(off - 0xFFFFFFF80000) / 64, v])), none)
      else (s.exportLost, none)
    else if s.tly.expErr.contains t then (s.exportErr t, none)
    else
      let (s, e) := s.physWrite pa 0 (leBytes 8 v)
      if e ≠ 0 then (s.exportLost, none) else (msi s, none)

/-- The Tally takes a new value: POISONED follows, waits and quarantine are compared, and the change is exported. -/
def State.setTally (s : State) (t v : Nat) : State × Option (Nat × Nat) :=
  let s := (s.wr TLY_SLOT.VALUE t v).fl TLY_SLOT.POISONED t (v == poison)
  let s := if v = poison then s.raise 0x62 else s
  (((s.settle t).mirrorOut t).quarRelease t).exportOne t

/-- A regression: counted, recorded and raised (R131). -/
def State.regress (s : State) (t v : Nat) : State :=
  ((s.count TLY_SLOT.REGRESS t).wr TLY_SLOT.LAST_REGRESS t v).raise 0x61

/-- One signal (R131 to R133). `base` is the value at the start of the clock (R134); `pz` says that poison is accepted. -/
def State.signalStep (s : State) (t v base : Nat) (pz : Bool) : State × Option (Nat × Nat) :=
  let cur := s.tval t
  let s := s.pmu 0x70 0 ((s.tallyOwner t).getD 8)
  if cur = poison then (s, none)
  else if v = poison ∧ !pz then (s.regress t v, none)
  else if v > cur then s.setTally t v
  else if v < base then (s.regress t v, none)
  else (s, none)

/-- Signals that follow from one another through exports to Tallies of this device (R143). No Tally is lowered, so a
chain of 8192 is long enough for each to change once. -/
def State.signalChain : (fuel : Nat) → State → (t v : Nat) → (pz : Bool) → State
  | 0, s, _, _, _ => s
  | f + 1, s, t, v, pz =>
    match s.signalStep t v (s.tval t) pz with
    | (s, none) => s
    | (s, some (t', v')) => State.signalChain f s t' v' true

/-- A signal of Tally `t` with value `v` (R131). -/
def State.signal (s : State) (t v : Nat) : State := s.signalChain 8192 t v false

/-- An error path sets poison (R132). -/
def State.poisonTally (s : State) (t : Nat) : State := s.signalChain 8192 t poison true

/-- Insert into an ascending list. -/
def insertAsc (v : Nat) : List Nat → List Nat
  | [] => [v]
  | x :: r => if v ≤ x then v :: x :: r else x :: insertAsc v r

/-- Ascending order. -/
def sortAsc (l : List Nat) : List Nat := l.foldr insertAsc []

/-- Signals that reach one Tally in the same fabric clock: ascending; only one below the value at the start regresses
(R134). -/
def State.signalMany (s : State) (t : Nat) (vs : List Nat) : State :=
  let base := s.tval t
  (sortAsc vs).foldl (fun s v =>
    match s.signalStep t v base false with
    | (s, none) => s
    | (s, some (t', v')) => s.signalChain 8192 t' v' true) s

/-- A Tally is set to a value by TLY_INIT or the zeroing of a Tally range: regression records clear, waits are compared,
and the new value is exported (R146, R80). -/
def State.initTally (s : State) (t v : Nat) : State :=
  let s := ((s.wr TLY_SLOT.REGRESS t 0).fl TLY_SLOT.OVF t false).wr TLY_SLOT.LAST_REGRESS t 0
  match s.setTally t v with
  | (s, none) => s
  | (s, some (t', v')) => s.signalChain 8192 t' v' true

/-- A wait joins the list. -/
def State.pushWait (s : State) (w : TWait) : State :=
  State.waitSync { s with tly := { s.tly with waits := s.tly.waits ++ [w] } } w.tally

/-- A wait is registered (R135, R137, R138). The answer says whether it is satisfied at once. -/
def State.addWait (s : State) (t target : Nat) (who : Waiter) : State × Bool :=
  let v := s.tval t
  if v = poison ∨ v ≥ target then (s, true)
  else if s.rd TLY_POOL.FREE > 0 then
    let free := s.rd TLY_POOL.FREE - 1
    let s := (s.wr TLY_POOL.FREE 0 free).wr TLY_POOL.LOW_WATER 0 (min free (s.rd TLY_POOL.LOW_WATER))
    (s.pushWait { tally := t, target := target, who := who, polling := false }, false)
  else
    let s := (s.count TLY_FALLBACK.COUNT).pmu 0x71 0 ((s.tallyOwner t).getD 8)
    let s := match who with
      | .strm sid => match s.fe.strms.get? sid with
        | some st => s.count FE_FETCH.POLL_FALLBACK st.cls
        | none => s
      | _ => s
    let s := if s.tly.emptyRaised then s else { s.raise 0x63 with tly := { s.tly with emptyRaised := true } }
    (s.pushWait { tally := t, target := target, who := who, polling := true }, false)

/-- Discard every wait of a waiter. -/
def State.dropWaits (s : State) (who : Waiter) : State :=
  (s.tly.waits.filter (fun w => w.who == who)).foldl State.dropWait s

/-- A load of one word of a Tally slot at offset `o` (R140). -/
def State.slotWord (s : State) (t o : Nat) : Nat :=
  if o = 0 then s.tval t
  else if o = 0x10 then s.rd TLY_SLOT.REGRESS t + s.rd TLY_SLOT.OVF t * 2 ^ 48
  else if o = 0x18 then
    s.rd TLY_SLOT.POISONED t + s.rd TLY_EXP.EN t * 2 + s.rd TLY_SLOT.WAITERS t * 2 ^ 16 + s.rd TLY_SLOT.POLLING t * 2 ^ 31
  else if o = 0x20 then s.rd TLY_SLOT.LAST_REGRESS t
  else 0

/-- The Tally aperture of a device's local map (R62). -/
def inAperture (pa : Nat) : Bool := bits pa 48 2 != 3 && bits pa 0 48 ≥ 0xFFFFFFF80000

/-- Read at a physical address or the aperture: an aperture load is 64 bits wide and aligned (R140). -/
def State.paRead (s : State) (pa n cache : Nat) : State × List Byte × Nat :=
  if inAperture pa then
    if n = 8 ∧ pa % 8 = 0 then
      let o := bits pa 0 48 - 0xFFFFFFF80000
      if bits pa 48 2 = s.dev then (s, leBytes 8 (s.slotWord (o / 64) (o % 64)), 0)
      else s.physRead pa 8 cache
    else (s, [], 0xC5)
  else s.physRead pa n cache

/-- Write at a physical address or the aperture: only a 64-bit store to SIGNAL is served there (R140). -/
def State.paWrite (s : State) (pa cache : Nat) (bs : List Byte) : State × Nat :=
  if inAperture pa then
    let o := bits pa 0 48 - 0xFFFFFFF80000
    if bs.length = 8 ∧ o % 64 = 8 then
      if bits pa 48 2 = s.dev then (s.signal (o / 64) (ofBytes bs), 0)
      else s.physWrite pa cache bs
    else (s, 0xC5)
  else s.physWrite pa cache bs

end Sys2Proof.Machine
end

