-- ==== Sys2Proof/Machine/Mmu.lean ====
section
/-! DEFINITION. Address translation (chapter 06): walks, rights, translation caches, translation faults, and memory as a
context's work sees it through its page tables. -/

namespace Sys2Proof.Machine

/-- The result of a walk: a page, or a fault code with the level that failed. -/
inductive WalkR where
  | page (va size pa rights : Nat)
  | fail (code level : Nat)
  deriving DecidableEq, Repr

/-- Bytes that a leaf at a level maps (R157). -/
def leafSize (lvl : Nat) : Nat := if lvl = 0 then 0x1000 else if lvl = 1 then 0x200000 else if lvl = 2 then 0x40000000 else 2 ^ 39

/-- A table lies in the HBM of this device (R158). -/
def State.tableOk (s : State) (pa : Nat) : Bool := bits pa 48 2 == s.dev && bits pa 0 48 + 0x1000 ≤ s.hbmBytes

/-- The PA field of an entry (R159). -/
def ptePa (e : Nat) : Nat := bits e 12 38 * 0x1000

/-- The rights and policy of a leaf: bits [8:2], R in bit 0, W 1, A 2, X 3, CACHE [5:4], CONTIG 6. -/
def pteRights (e : Nat) : Nat := bits e 2 7

/-- A leaf at level `lvl` breaks R161. -/
def leafBad (e lvl : Nat) : Bool :=
  lvl == 3 || (lvl != 0 && bit e 8) || ptePa e % leafSize lvl != 0 || (bit e 4 && !(bit e 2 && bit e 3))

/-- The 16 entries of a CONTIG group qualify as one 64 KiB translation (R160). -/
def contigOk (es : List Nat) : Bool :=
  match es with
  | [] => false
  | e0 :: _ => ptePa e0 % 0x10000 == 0 && (List.range 16).all (fun i =>
      let e := es.getD i 0
      bit e 0 && bit e 1 && bit e 8 && bits e 0 12 == bits e0 0 12 && ptePa e == ptePa e0 + i * 0x1000 && bits e 50 14 == 0)

/-- An invalidation's scope covers a translation (R171). -/
def State.invCovers (s : State) (i : Inv) (c va size : Nat) : Bool :=
  if i.scope = 3 then true
  else if i.scope = 2 then s.partOf c == i.part
  else if i.scope = 1 then c == i.ctx
  else c == i.ctx && va < i.va + i.pages * 0x1000 && i.va < va + size

/-- The running invalidation covers a translation, so that no cache takes it in before step 4 (R173; log entry 72, DEDUCED). -/
def State.invHolds (s : State) (c va size : Nat) : Bool :=
  match s.mmu.running with
  | some i => s.invCovers i c va size
  | none => false

/-- A table address enters the walk cache, which drops its oldest entry when it is full (R170). -/
def State.walkFill (s : State) (w : WalkE) : State :=
  if s.invHolds w.ctx (w.pre * 2 ^ (12 + 9 * (w.level + 1))) (2 ^ (12 + 9 * (w.level + 1))) then s
  else { s with mmu := { s.mmu with walks := (w :: s.mmu.walks).take 1024 } }

/-- Walk from level `lvl` in the table at `table` (R157 to R162). An uncorrectable error in a table read, the 128-byte read of
a CONTIG group too, is WALK_ERR (R178). -/
def State.walkFrom (s : State) (c va : Nat) : (lvl : Nat) → (table : Nat) → State × WalkR
  | lvl, table =>
    if !s.tableOk table then (s, .fail 0x22 lvl)
    else
      let (s, bs, err) := s.physRead (table + 8 * bits va (12 + 9 * lvl) 9) 8 0 true
      let e := ofBytes bs
      if err ≠ 0 then (s, .fail 0x29 lvl)
      else if !bit e 0 then (s, .fail 0x21 lvl)
      else if bits e 50 14 ≠ 0 then (s, .fail 0x22 lvl)
      else if bit e 1 then
        if leafBad e lvl then (s, .fail 0x22 lvl)
        else if lvl = 0 ∧ bit e 8 then
          let (s, g, err) := s.physRead (table + alignDown (8 * bits va 12 9) 128) 128 0 true
          let es := (List.range 16).map (fun i => field g (8 * i) 8)
          if err ≠ 0 then (s, .fail 0x29 0)
          else if contigOk es then (s, .page (alignDown va 0x10000) 0x10000 (ptePa (es.getD 0 0)) (pteRights e))
          else ((s.count MMU_CTR.CONTIG_MISMATCH).raise 0x71, .page (alignDown va 0x1000) 0x1000 (ptePa e) (pteRights e))
        else (s, .page (alignDown va (leafSize lvl)) (leafSize lvl) (ptePa e) (pteRights e))
      else match lvl with
        | 0 => (s, .fail 0x22 0)
        | l + 1 =>
          if !s.tableOk (ptePa e) then (s, .fail 0x22 (l + 1))
          else
            let w : WalkE := { ctx := c, level := l, pre := va / 2 ^ (12 + 9 * (l + 1)), table := ptePa e }
            s.walkFill w |>.walkFrom c va l (ptePa e)

/-- Where a walk starts: the deepest table that the walk cache holds, else the root (R170). -/
def State.walkStart (s : State) (c va : Nat) : Nat × Nat :=
  match [0, 1, 2].findSome? (fun l =>
      (s.mmu.walks.find? (fun w => w.ctx == c && w.level == l && w.pre == va / 2 ^ (12 + 9 * (l + 1)))).map (fun w => (l, w.table))) with
  | some r => r
  | none => (3, s.rd FE_CTX.PTBR c * 0x1000)

/-- A page of local HBM touches no other partition's ranges (R88). -/
def State.pageOk (s : State) (p pa size : Nat) : Bool :=
  (List.range 8).all (fun q => q == p || !s.on FE_PART.EN q || (List.range 4).all (fun k =>
    let b := s.rd FE_PART.HBM_BASE (q * 4 + k) * unit2M
    let n := s.rd FE_PART.HBM_SIZE (q * 4 + k) * unit2M
    b + n ≤ pa || pa + size ≤ b))

/-- A walk with the checks made when a translation is filled (R167, R88): PART_RANGE and BAD_PA for local addresses, the Foreman region among them (R557). -/
def State.walk (s : State) (c va : Nat) : State × WalkR :=
  let s := s.count MMU_CTR.WALKS
  let (l, t) := s.walkStart c va
  match s.walkFrom c va l t with
  | (s, .page v n pa r) =>
    let off := bits pa 0 48
    if bits pa 48 2 = s.dev then
      if off ≥ 0xFFFFFFF80000 then (s, .page v n pa r)
      else if off + n > 0x1800000000 then (s, .fail 0x28 0)
      else if s.on RST_BOOT_STEP.STATE 6 && off < (s.rd RST_BOOT_FW.FW_PA + 1) * 0x4000000 &&
          s.rd RST_BOOT_FW.FW_PA * 0x4000000 < off + n then (s, .fail 0x28 0)
      else if !s.pageOk (s.partOf c) off n then (s, .fail 0x27 0)
      else (s, .page v n pa r)
    else (s, .page v n pa r)
  | r => r

/-! Each cache of R170 has a number: the ack bit of its engine where the engine has one cache; 64 the MMU's shared cache;
68 to 71 the caches of the Press engines; from 128 the micro-TLBs of the 192 cores. -/

/-- The cache of Press engine `e`. -/
def prsUnit (e : Nat) : Nat := 68 + e

/-- The micro-TLB of core `k`, 4 × cluster + core. -/
def coreTlb (k : Nat) : Nat := 128 + k

/-- The ack bit of the engine behind a cache (R170). -/
def ackBit (eng : Nat) : Nat := if eng ≥ 128 then (eng - 128) / 4 else if 68 ≤ eng ∧ eng < 72 then 61 else eng

/-- The caches that engines look into first. -/
def isRequester (eng : Nat) : Bool := eng < 61 || eng == 62 || eng == 63 || (68 ≤ eng && eng < 72) || (128 ≤ eng && eng < 320)

/-- Entries that a cache holds (R170). -/
def tlbCap (eng : Nat) : Nat :=
  if eng ≥ 128 then 32 else if eng = 64 then 16384 else if eng ≥ 68 then 128
  else if eng < 48 then 1024 else if eng = 60 then 512 else 256

/-- A translation enters a cache, which drops its oldest entry when it is full; none in the scope of the running
invalidation does (R173). -/
def State.tlbFill (s : State) (e : TlbE) : State :=
  if s.invHolds e.ctx e.va e.size then s else
  let mine := s.mmu.tlb.filter (fun x => x.eng == e.eng)
  let others := s.mmu.tlb.filter (fun x => x.eng != e.eng)
  { s with mmu := { s.mmu with tlb := (e :: mine).take (tlbCap e.eng) ++ others } }

/-- The caches that a request of cache `eng` passes on its way to the walker: a core's micro-TLB, its cluster's, and the
MMU's shared cache (R170). -/
def tlbPath (eng : Nat) : List Nat := if eng ≥ 128 then [eng, ackBit eng, 64] else [eng, 64]

/-- A translation in a cache. -/
def State.tlbFind (s : State) (eng c va : Nat) : Option TlbE :=
  s.mmu.tlb.find? (fun e => e.eng == eng && e.ctx == c && e.va ≤ va && va < e.va + e.size)

/-- A translation fault (R177, R179): the first fault of an ACTIVE context is logged and starts its teardown; every other
is counted. `acc` is 0 read, 1 write, 2 atomic, 3 fetch. -/
def State.mmuFault (s : State) (c va code acc lvl eng : Nat) (inc : Nat := 0) : State :=
  if s.ctxActive c then
    let i := s.rd MMU_FAULT_WPTR.WPTR % 32
    let w1 := c + code * 2 ^ 16 + (acc + lvl * 4) * 2 ^ 24 + ackBit eng * 2 ^ 32
    let s := (((s.wr MMU_FAULT.W0 i va).wr MMU_FAULT.W1 i w1).wr MMU_FAULT.W2 i s.now).wr MMU_FAULT.W3 i (inc % 2 ^ 32)
    let s := s.wr MMU_FAULT_WPTR.WPTR 0 (s.rd MMU_FAULT_WPTR.WPTR + 1)
    s.ctxFault c code inc (ackBit eng) (leBytes 16 va)
  else s.count MMU_CTR.FAULT_SUPPRESSED

/-- The fault code of an access without its right (R163). -/
def permCode (acc : Nat) : Nat := 0x23 + acc

/-- The rights bit an access needs. -/
def permBit (acc : Nat) : Nat := if acc = 0 then 0 else if acc = 1 then 1 else if acc = 2 then 2 else 3

/-- Look for a translation in caches, one after the other; those in front of the one that has it take it in (R170). -/
def State.tlbGet (s : State) (c va : Nat) : List Nat → State × Option TlbE
  | [] => (s, none)
  | k :: r => match s.tlbFind k c va with
    | some e => (s, some e)
    | none => match State.tlbGet s c va r with
      | (s, some e) => (s.tlbFill { e with eng := k }, some e)
      | x => x

/-- The fault of an access whose walk failed. WALK_ERR is a memory error too: it opens an L1 incident of the context's
partition (R178, R467). -/
def State.walkFault (s : State) (c va code acc lvl eng : Nat) : State :=
  if code = 0x29 ∧ s.ctxActive c then
    let (n, s) := s.incident 2 (s.partOf c) 0xC2
    s.mmuFault c va code acc lvl eng n
  else s.mmuFault c va code acc lvl eng

/-- Find or walk for a translation; a fault is reported (R156, R157, R170). -/
def State.lookup (s : State) (c va acc eng : Nat) : State × Option TlbE :=
  if va ≥ 2 ^ 48 then (s.mmuFault c va 0x20 acc 0 eng, none)
  else match s.tlbGet c va (tlbPath eng) with
    | (s, some e) => (s, some e)
    | (s, none) => match s.walk c va with
      | (s, .page v n pa r) =>
        let e : TlbE := { eng := eng, ctx := c, va := v, size := n, pa := pa, rights := r }
        ((tlbPath eng).foldl (fun s k => s.tlbFill { e with eng := k }) s, some e)
      | (s, .fail code l) => (s.walkFault c va code acc l eng, none)

/-- Translate an address for an access (R163): the physical address and the CACHE policy, or a fault. -/
def State.translate (s : State) (c va acc eng : Nat) : State × Option (Nat × Nat) :=
  match s.lookup c va acc eng with
  | (s, none) => (s, none)
  | (s, some e) =>
    if bit e.rights (permBit acc) then (s, some (e.pa + (va - e.va), bits e.rights 4 2))
    else (s.mmuFault c va (permCode acc) acc 0 eng, none)

/-- The fault of a context whose access got error code `e` (R467, R47, R63, R140): an uncorrectable error opens an
L1 incident of its partition. `acc` is the access: 0 read, 1 write, 2 atomic. -/
def State.accFault (s : State) (c e eng : Nat) (va : Nat) (acc : Nat := 0) : State :=
  if e = 0x28 then s.mmuFault c va 0x28 acc 0 eng
  else if e = 0x90 then
    if s.ctxActive c then
      let (n, s) := s.incident 2 (s.partOf c) 0xC2
      s.ctxFault c e n (ackBit eng) (leBytes 16 va)
    else s
  else s.ctxFault c e 0 (ackBit eng) (leBytes 16 va)

/-- Read `n` bytes of a context's memory; `none` after a fault (R177: no data). -/
def State.vread (s : State) (c eng va n : Nat) (acc : Nat := 0) : State × Option (List Byte) :=
  (pieces 0x1000 (n / 0x1000 + 2) va n).foldl (fun (r : State × Option (List Byte)) p =>
    match r with
    | (s, none) => (s, none)
    | (s, some d) => match s.translate c p.1 acc eng with
      | (s, none) => (s, none)
      | (s, some (pa, cache)) => match s.paRead pa p.2 cache with
        | (s, d', 0) => (s, some (d ++ d'))
        | (s, _, e) => (s.accFault c e eng p.1 acc, none)) (s, some [])

/-- What follows a read: `f` with the bytes read, and nothing after a fault. -/
def State.onRead {α : Type} (r : State × Option α) (f : State → α → State) : State :=
  match r.2 with
  | none => r.1
  | some b => f r.1 b

/-- What follows a check or a write: `f` where it succeeded, and nothing after a fault. -/
def State.onOk (r : State × Bool) (f : State → State) : State := if r.2 then f r.1 else r.1

/-- Write bytes of a context's memory; `false` after a fault. -/
def State.vwrite (s : State) (c eng va : Nat) (bs : List Byte) : State × Bool :=
  let r := (pieces 0x1000 (bs.length / 0x1000 + 2) va bs.length).foldl (fun (r : State × List Byte × Bool) p =>
    match r with
    | (s, bs, false) => (s, bs, false)
    | (s, bs, true) => match s.translate c p.1 1 eng with
      | (s, none) => (s, bs, false)
      | (s, some (pa, cache)) => match s.paWrite pa cache (bs.take p.2) with
        | (s, 0) => (s, bs.drop p.2, true)
        | (s, e) => (s.accFault c e eng p.1 1, bs, false)) (s, bs, true)
  (r.1, r.2.2)

/-- Read a little-endian number; 0 after a fault, with the flag false. -/
def State.vreadN (s : State) (c eng va n : Nat) : State × Nat × Bool :=
  match s.vread c eng va n with
  | (s, some d) => (s, ofBytes d, true)
  | (s, none) => (s, 0, false)

/-- Drop from the caches of the engines in `p`, by ack bit, every translation in scope (R173). -/
def State.invDrop (s : State) (i : Inv) (p : Nat → Bool) : State :=
  { s with mmu := { s.mmu with
      tlb := s.mmu.tlb.filter (fun e => !(p (ackBit e.eng) && s.invCovers i e.ctx e.va e.size)),
      walks := if p 64 then s.mmu.walks.filter (fun w =>
          !s.invCovers i w.ctx (w.pre * 2 ^ (12 + 9 * (w.level + 1))) (2 ^ (12 + 9 * (w.level + 1)))) else s.mmu.walks } }

/-- INV_QUEUED, INV_FULL and INV_BUSY follow the FIFO. -/
def State.invSync (s : State) : State :=
  s.wrs 0 [(MMU_STATUS.INV_QUEUED, s.mmu.fifo.length), (MMU_STATUS.INV_FULL, b2n (s.mmu.fifo.length ≥ 16)),
    (MMU_STATUS.INV_BUSY, b2n s.mmu.running.isSome)]

/-- An invalidation that the device starts itself (R172). -/
def State.invDevice (s : State) (i : Inv) : State := { s with mmu := { s.mmu with dev := s.mmu.dev ++ [i] } }

/-- The ack bits of the engines in an invalidation's mask (R173 step 1); a partition with EN = 0 owns none (R78). -/
def State.invMask (s : State) (i : Inv) : Nat :=
  let p := if i.scope = 2 then i.part else s.partOf i.ctx
  if i.scope = 3 then 2 ^ 64 - 1
  else if s.on FE_PART.EN p then 0xF000000000000000 + s.rd FE_PART.CLUSTERS p + s.rd FE_PART.LOOMS p * 2 ^ 48
  else 0xF000000000000000

/-- Engines in the mask that are absent, or clock-gated because no partition owns them, are acknowledged at once. -/
def State.invAuto (s : State) (mask : Nat) : Nat :=
  (bitList mask 64).foldl (fun m b =>
    let gone := if b < 48 then !s.present 1 b || (s.ownerOf FE_PART.CLUSTERS b).isNone
      else if b < 60 then !s.present 3 (b - 48) || (s.ownerOf FE_PART.LOOMS (b - 48)).isNone
      else if b = 61 then !([0, 1, 2, 3].any (s.present 8))
      else if b = 62 then !([0, 1, 2, 3].any (s.present 5))
      else if b = 63 then !(s.present 0xC 0 || [0, 1, 2, 3].any (s.present 4))
      else false
    if gone then setBit m b true else m) 0

end Sys2Proof.Machine
end

