-- ==== Sys2Proof/Machine/StartBy.lean ====
section
/-! DEFINITION. Clocks by level (R30), the latency bounds of R447, start-by times (R448), and a Realtime queue's job of a
tick. -/

namespace Sys2Proof.Machine

/-! ### Clocks (R30) -/

/-- The cluster clock of a VDD_CORE level, MHz. -/
def clusterMHz (lvl : Nat) : Nat := [600, 900, 1050, 1200, 1350, 1500, 1650, 1800].getD lvl 1800
/-- The fabric clock of a VDD_CORE level, MHz. -/
def fabricMHz (lvl : Nat) : Nat := [900, 1200, 1200, 1350, 1350, 1500, 1500, 1500].getD lvl 1500
/-- The Loom clock of a VDD_LOOM level, MHz. -/
def loomMHz (lvl : Nat) : Nat := [450, 600, 750, 850, 950, 1050, 1150, 1250].getD lvl 1250

/-- The latency bounds of R447 follow the levels. -/
def State.platSync (s : State) : State :=
  (s.wr FE_SCH_PLAT.COMPUTE_NS 0 (20000 + ceilDiv (18432 * 1000) (fabricMHz (s.rd PWR_LEVEL.CORE)))).wr
    FE_SCH_PLAT.LOOM_NS 0 (20000 + ceilDiv (55856 * 1000) (loomMHz (s.rd PWR_LEVEL.LOOM)))

/-! ### Start-by times (R448) -/

/-- The start-by time of queue `q` in a tick that starts at `t0`, in ns. -/
def State.startBy (s : State) (q t0 : Nat) : Nat :=
  let p := s.partOf (s.rd FE_Q.CTX q)
  let rc : Rat := (1800 : Rat) / (clusterMHz (s.rd PWR_LEVEL.CORE) : Rat)
  let rl : Rat := (1250 : Rat) / (loomMHz (s.rd PWR_LEVEL.LOOM) : Rat)
  let cl := s.rd FE_RT.RT_CLUSTERS q ≠ 0
  let lm := s.rd FE_RT.RT_LOOMS q ≠ 0
  let rho : Rat := max (if cl then rc else 0) (if lm then rl else 0)
  let lc : Rat := if cl then max (s.rd FE_SCH_PLAT.COMPUTE_NS : Rat) ((s.rd FE_BUDGET.GFX_STOP_US p * 1000 : Nat) * rc) else 0
  let ll : Rat := if lm ∧ s.on FE_BUDGET.LOOM_PREEMPT p then (s.rd FE_SCH_PLAT.LOOM_NS : Rat) else 0
  let t : Rat := ((t0 + s.rd FE_RT.DEADLINE_US q * 1000 : Nat) : Rat) - (s.rd FE_RT.BUDGET_US q * 1000 : Nat) * rho - max lc ll
  t.floor.toNat

/-- The jobs behind a running one that have been opened. -/
def RtJob.opened (r : RtJob) : List (Nat × Nat × Option Nat) := r.later.filter (fun x => x.2.2.isSome)

/-- The tick's job that waits behind a running one, not opened yet: its start-by and deadline. -/
def RtJob.waits (r : RtJob) : Option (Nat × Nat) := (r.later.find? (fun x => x.2.2.isNone)).map (fun x => (x.1, x.2.1))

/-- A new tick's job of queue `q`: a job that still runs goes on, and the new one waits for it (R444). -/
def State.rtNew (s : State) (q : Nat) : State :=
  let t0 := s.rd FE_TICK_TIME.TIME
  let sb := s.startBy q t0
  let dl := t0 + s.rd FE_RT.DEADLINE_US q * 1000
  let s := s.wr FE_RT.START_BY q sb
  match s.rt.get? q with
  | some r =>
    if r.phase = 2 then { s with rt := s.rt.put q { r with later := r.opened ++ [(sb, dl, none)] } }
    else { s with rt := s.rt.put q { startBy := sb, deadline := dl } }
  | none => { s with rt := s.rt.put q { startBy := sb, deadline := dl } }

/-- A queue enabled within a tick has a job in that tick, unless its deadline has come (R444, R448). -/
def State.rtJoin (s : State) (q : Nat) : State :=
  if s.rd FE_Q.PRIO q = 3 ∧ s.on FE_RT.EN q ∧ s.tick.run ∧ ¬ s.tick.first then
    if s.rd FE_TICK_TIME.TIME + s.rd FE_RT.DEADLINE_US q * 1000 ≤ s.now then { s with rt := s.rt.put q { startBy := 0, deadline := 0, phase := 3 } }
    else s.rtNew q
  else s

end Sys2Proof.Machine
end

