-- ==== Sys2Proof/Machine/Queues.lean ====
section
/-! DEFINITION. Queues, doorbells, the fetchers and the common packets (chapter 04), and the Chandler packets
(chapter 03). -/

namespace Sys2Proof.Machine

/-- The function that owns a context: 0 the PF, n a VF (R49). -/
def State.funcOf (s : State) (c : Nat) : Nat :=
  (((List.range 63).map (· + 1)).find? (fun n => s.rd GLB_VF_MAP.CTX_BASE n ≤ c && c < s.rd GLB_VF_MAP.CTX_BASE n + s.rd GLB_VF_MAP.CTX_COUNT n)).getD 0

/-- The PF table entry of entry `v` of the function that owns context `c` (R50, R125). -/
def State.entryFor (s : State) (c v : Nat) : Nat :=
  let f := s.funcOf c
  if f = 0 then v else 2048 - 32 * f + v

/-- Ring size of a queue in entries (R101). -/
def State.ringSize (s : State) (q : Nat) : Nat := 2 ^ s.rd FE_Q.LOG2_SIZE q

/-- The live queue on a context's doorbell slot (R109). -/
def State.slotQueue (s : State) (c slot : Nat) : Option Nat :=
  (s.fe.strms.find? (fun p => p.1 < 2048 && s.rd FE_Q.CTX p.1 == c && s.rd FE_Q.SLOT p.1 == slot && s.rd FE_Q.STATE p.1 != 0)).map (·.1)

/-- The sequence of the last entry written to a queue's ring (R444). -/
def State.lastSeq (s : State) (q : Nat) : Nat :=
  match s.fe.strms.get? q with
  | none => 0
  | some st => st.nextSeq + (s.rd FE_Q.WPTR q + s.ringSize q - s.rd FE_Q.RPTR q) % s.ringSize q - 1

/-- A Realtime queue's job opens with the entries written so far, if there are any (R444). -/
def State.rtOpen (s : State) (q : Nat) : State :=
  match s.rt.get? q, s.fe.strms.get? q with
  | some r, some st =>
    let held := s.rd FE_Q.RPTR q ≠ s.rd FE_Q.WPTR q ∨ ¬ st.ents.isEmpty
    if held then
      State.trace { s.wr FE_RT.START_BY q r.startBy with rt := s.rt.put q { r with phase := 2, j := s.lastSeq q, holds := true } } 7
        (s.partOf st.ctx) q 0
    else { s.wr FE_RT.START_BY q 0 with rt := s.rt.put q { r with phase := 1 } }
  | _, _ => s

/-- A doorbell value reaches its queue, but one to a VF's page beyond its contexts (R49): WPTR and DB_PENDING in one clock; a value not below the ring size faults a live
queue; no live queue drops it (R108 to R110). -/
def State.doorbell (s : State) (func c slot value : Nat) : State :=
  if func ≠ 0 ∧ s.rd GLB_VF_MAP.CTX_COUNT func ≤ c then s
  else
  let c := if func = 0 then c else s.rd GLB_VF_MAP.CTX_BASE func + c
  let v := value % 0x10000
  match s.slotQueue c slot with
  | none => (s.count FE_DB_DROP.COUNT).raise 0x41
  | some q =>
    if v ≥ s.ringSize q then
      if s.rd FE_Q.STATE q = 3 then s
      else s.queueFault q 0x02 ((s.fe.strms.get? q).map (·.nextSeq) |>.getD 0)
    else
      let s := (s.wr FE_Q.WPTR q v).fl FE_Q.DB_PENDING q true
      if s.rd FE_Q.STATE q = 1 ∧ ((s.fe.strms.get? q).map (·.fault)).getD none = none then
        let s := (s.updStrm q (fun st => { st with ready := true })).feSync (s.rd FE_Q.CLASS q)
        match s.rt.get? q with
        | some r => if r.phase = 1 ∧ s.now < r.deadline then s.rtOpen q else s
        | none => s
      else s

/-- DOORBELL: dropped without being counted during a warm reset (R575) and ignored before the FE's window is reachable
(R545); in DOZE, NAP or an entry it wakes the device as well (R584, R588). -/
def execDoorbell (func c slot value : Nat) (s : State) : Host.Outcome State Fault Refusal :=
  .next (if s.on RST_STATUS.WARM_ACTIVE ∨ ¬ s.blkUp .fe ∨ s.pwr.off then s else (s.doorbell func c slot value).wakeAccess)

/-- The window offset of a queue's first word. -/
def qOff (q : Nat) : Nat := 0x40000 + 0x40 * q

/-- QUEUE_ENABLE: EN = 1 on a DISABLED queue (R107, R443). The sequence it then expects is SEQ_INIT where nothing was fetched
since the commit, else the one after COMPLETED (log entry 64, DESIGN CHOICE). -/
def execQueueEnable (q : Nat) (s : State) : Host.Outcome State Fault Refusal :=
  s.hostDo .fe (fun s =>
    if s.on FE_Q.EN q then .next s
    else
      let c := s.rd FE_Q.CTX q
      let ok := s.rd FE_Q.STATE q = 0 ∧ s.ctxActive c ∧ (s.slotQueue c (s.rd FE_Q.SLOT q)).isNone ∧
        (s.rd FE_Q.PRIO q ≠ 3 ∨ s.on FE_RT.EN q)
      if ok then
        let wake := s.on FE_Q.DB_PENDING q || s.rd FE_Q.RPTR q != s.rd FE_Q.WPTR q
        let done := s.rd FE_Q.COMPLETED q
        let next := if done = 0 ∧ s.rd FE_Q.RPTR q = s.rd FE_Q.RPTR_INIT q then s.rd FE_Q.SEQ_INIT q else done + 1
        let st : Strm := { q := q, cls := s.rd FE_Q.CLASS q, ctx := c, ready := wake, nextSeq := next }
        let s := { (s.fl FE_Q.EN q true).wr FE_Q.STATE q 1 with fe := { s.fe with strms := s.fe.strms.put q st } }
        .next ((s.rtJoin q).feSync (s.rd FE_Q.CLASS q))
      else .next (s.cfgErr .fe (qOff q)))

/-- QUEUE_DRAIN: EN = 0 on an ACTIVE queue fetches no further entry (R107). Packets of entries it has fetched are still
dispatched (log entry 65, DESIGN CHOICE). -/
def execQueueDrain (q : Nat) (s : State) : Host.Outcome State Fault Refusal :=
  s.hostDo .fe (fun s =>
    if s.rd FE_Q.STATE q = 1 then
      let s := (s.fl FE_Q.EN q false).wr FE_Q.STATE q 2
      .next ((s.updStrm q (fun st => { st with ready := false, inPass := false })).feSync (s.rd FE_Q.CLASS q))
    else .next s)

/-- A queue's stream goes, and its graphics state with it (R368); its state is DISABLED. -/
def State.queueOff (s : State) (q : Nat) : State :=
  let s := ((s.fl FE_Q.EN q false).wr FE_Q.STATE q 0).wr FE_RT.START_BY q 0
  { s with fe := { s.fe with strms := s.fe.strms.del q }, rt := s.rt.del q, gfx := { s.gfx with states := s.gfx.states.del q } }

/-- QUEUE_DRAIN_DONE: the dispatched work of a DRAINING queue that has no fault has completed (R107). -/
def execQueueDrainDone (q : Nat) (s : State) : Host.Outcome State Fault Refusal :=
  match s.fe.strms.get? q with
  | some st =>
    if s.rd FE_Q.STATE q = 2 ∧ st.ents.isEmpty ∧ st.fault.isNone then .next ((s.queueOff q).feSync st.cls) else .next s
  | none => .next s

/-- QUEUE_FREE: EN = 0 on a FAULTED queue (R107). -/
def execQueueFree (q : Nat) (s : State) : Host.Outcome State Fault Refusal :=
  s.hostDo .fe (fun s => if s.rd FE_Q.STATE q = 3 then .next ((s.queueOff q).feSync (s.rd FE_Q.CLASS q)) else .next s)

/-- SAMPLE_AND_CLEAR: WPTR is read and DB_PENDING cleared in one clock, and a pass begins (R112); one that will read no
entry counts (R113). -/
def execSampleAndClear (q : Nat) (s : State) : Host.Outcome State Fault Refusal :=
  match s.fe.strms.get? q with
  | some st =>
    if st.ready ∧ ¬ st.inPass ∧ q < 2048 ∧ s.fe.run then
      let w := s.rd FE_Q.WPTR q
      let s := (s.fl FE_Q.DB_PENDING q false).updStrm q (fun st => { st with inPass := true, sampled := w })
      .next (if w = s.rd FE_Q.RPTR q then s.count FE_FETCH.EXTRA_PASS st.cls else s)
    else .next s
  | none => .next s

/-- IDLE_SAMPLE: at the end of a pass DB_PENDING starts a new one, or the queue leaves the ready set (R112). -/
def execIdleSample (q : Nat) (s : State) : Host.Outcome State Fault Refusal :=
  match s.fe.strms.get? q with
  | some st =>
    if st.inPass ∧ s.rd FE_Q.RPTR q = st.sampled then
      .next ((s.updStrm q (fun st => { st with inPass := false, ready := s.on FE_Q.DB_PENDING q })).feSync st.cls)
    else .next s
  | none => .next s

/-- Payload length of an opcode: none where it is not defined, some none where it is not fixed (R119, R367). -/
def opLen (op : Nat) : Option (Option Nat) :=
  if op = 0x00 ∨ op = 0x05 then some none
  else if op = 0x01 then some (some 3)
  else if op = 0x02 ∨ op = 0x03 then some (some 4)
  else if op = 0x04 then some (some 2)
  else if op = 0x10 then some (some 7)
  else if op = 0x11 then some (some 6)
  else if op = 0x20 ∨ op = 0x22 then some (some 4)
  else if op = 0x21 then some (some 2)
  else if op = 0x23 then some (some 8)
  else if op = 0x24 then some (some 7)
  else if op = 0x25 then some (some 0)
  else if op = 0x30 ∨ op = 0x43 ∨ op = 0x50 then some (some 3)
  else if op = 0x40 then some (some 6)
  else if op = 0x41 then some (some 5)
  else if op = 0x42 then some (some 7)
  else if op = 0x44 ∨ op = 0x48 then some (some 2)
  else none

/-- A class accepts an opcode (R114). -/
def opClass (cls op : Nat) : Bool :=
  if op ≤ 4 then true
  else if op = 5 then cls ≤ 2
  else if op = 0x10 ∨ op = 0x11 then cls = 1
  else if 0x20 ≤ op ∧ op < 0x30 then cls = 0
  else if op = 0x30 then cls = 2
  else if op = 0x50 then cls = 4
  else cls = 3

/-- Two payload words as a 64-bit field, the low word first; word numbers start at 1 (R120). -/
def pw2 (w : List Nat) (i : Nat) : Nat := w.getD (i - 1) 0 + w.getD i 0 * 2 ^ 32

/-- Payload word `i`, from 1. -/
def pw1 (w : List Nat) (i : Nat) : Nat := w.getD (i - 1) 0

/-- The field rules of R120, R121, R132 and R367: 0, or the fault code. Where several fields of a packet break their rules,
reserved bits stand before alignment and alignment before range (log entry 66, DESIGN CHOICE). -/
def State.fieldCheck (s : State) (op : Nat) (w : List Nat) : Nat :=
  let w1 := pw1 w 1
  if op = 0x01 then
    if w1 ≥ 0x2000 then 6 else if pw2 w 2 = poison then 8 else 0
  else if op = 0x02 then (if w1 ≥ 0x2000 then 6 else 0)
  else if op = 0x03 ∨ op = 0x04 then (if pw2 w 1 % 8 ≠ 0 then 7 else 0)
  else if op = 0x05 then
    let n := bits w1 12 2
    if bits w1 10 2 ≠ 0 ∨ bits w1 15 17 ≠ 0 ∨ (List.range n).any (fun k => pw1 w (2 + 2 * k) ≥ 0x1000) then 6
    else if w.length ≠ 1 + 2 * n + bits w1 14 1 then 5 else 0
  else if op = 0x10 then
    if bits (pw2 w 6) 48 16 ≠ 0 then 6 else if pw2 w 1 % 256 ≠ 0 then 7 else 0
  else if op = 0x11 then
    if bits (pw2 w 5) 48 16 ≠ 0 then 6 else if pw2 w 1 % 256 ≠ 0 ∨ pw2 w 3 % 4 ≠ 0 then 7 else 0
  else if op = 0x20 then (if pw2 w 1 % 256 ≠ 0 ∨ pw2 w 3 % 64 ≠ 0 then 7 else 0)
  else if op = 0x21 then (if pw2 w 1 % 256 ≠ 0 then 7 else 0)
  else if op = 0x23 then
    let k := bits (pw1 w 8) 0 2
    if bits (pw1 w 8) 3 29 ≠ 0 then 6
    else if k = 3 then 8
    else if pw2 w 1 % (if k = 0 then 2 else if k = 1 then 4 else 1) ≠ 0 then 7 else 0
  else if op = 0x24 then
    let k := bits (pw1 w 7) 1 2
    if bits (pw1 w 7) 4 28 ≠ 0 then 6
    else if pw2 w 1 % 4 ≠ 0 then 7
    else if k = 3 ∨ pw1 w 3 = 0 ∨ pw1 w 3 > 65535 ∨ pw1 w 4 % 4 ≠ 0 then 8
    else if bit (pw1 w 7) 0 ∧ pw2 w 5 % (if k = 0 then 2 else if k = 1 then 4 else 1) ≠ 0 then 7 else 0
  else if op = 0x30 then
    if bits (pw1 w 3) 16 16 ≠ 0 then 6 else if pw2 w 1 % 256 ≠ 0 then 7 else if bits (pw1 w 3) 0 16 = 0 then 8 else 0
  else if op = 0x40 then
    let n := pw2 w 5
    let a := pw2 w 1
    let b := pw2 w 3
    if bits n 48 16 ≠ 0 then 6 else if n ≠ 0 ∧ a < b + n ∧ b < a + n then 8 else 0
  else if op = 0x41 then
    if bits (pw2 w 3) 48 16 ≠ 0 then 6 else if pw2 w 1 % 4 ≠ 0 ∨ pw2 w 3 % 4 ≠ 0 then 7 else 0
  else if op = 0x42 then
    let pa := pw2 w 1
    if bits pa 0 12 ≠ 0 ∨ bits pa 50 14 ≠ 0 ∨ bits (pw2 w 3) 36 28 ≠ 0 ∨ bits (pw1 w 5) 13 3 ≠ 0 ∨ bits (pw1 w 5) 26 6 ≠ 0 then 6
    else if pw2 w 3 = 0 ∨ bits pa 48 2 ≠ s.dev ∨ bits pa 0 48 + pw2 w 3 * 0x1000 > s.hbmBytes ∨ pw2 w 6 = poison then 8
    else 0
  else if op = 0x43 then
    if bits w1 15 17 ≠ 0 then 6 else if pw2 w 2 % 8 ≠ 0 then 7 else if w1 = 0 ∨ w1 > 16384 then 8 else 0
  else if op = 0x48 then (if pw2 w 1 % 64 ≠ 0 then 7 else 0)
  else if op = 0x50 then
    if bits w1 2 30 ≠ 0 then 6 else if pw2 w 2 % 64 ≠ 0 then 7 else 0
  else 0

/-- The checks of R118 on the packet at the head of the words left; 0, or the fault code. -/
def State.pktCheck (s : State) (cls : Nat) (node : Bool) (ws : List Nat) : Nat :=
  let h := ws.headD 0
  let op := bits h 0 8
  let len := bits h 8 12
  if 1 + len > ws.length then 5
  else match opLen op with
    | none => 3
    | some l =>
      if !opClass cls op || (node && (op == 0x05 || op == 0x50)) then 4
      else if (match l with | some n => n != len | none => op == 5 && !(1 ≤ len && len ≤ 8)) then 5
      else if bits h 22 10 ≠ 0 then 6
      else s.fieldCheck op ((ws.drop 1).take len)

/-- The packets of a run of words, and the fault code of the first that fails (0 for none). -/
def State.parsePkts (s : State) (cls : Nat) (node : Bool) : (fuel : Nat) → (ws : List Nat) → (pid : Nat) → List Pkt × Nat
  | 0, _, _ => ([], 0)
  | f + 1, ws, pid =>
    match ws with
    | [] => ([], 0)
    | h :: r =>
      let c := s.pktCheck cls node ws
      if c ≠ 0 then ([], c)
      else
        let len := bits h 8 12
        let p : Pkt := { pid := pid, op := bits h 0 8, w := r.take len, barrier := bit h 20, acquire := bit h 21 }
        let (ps, c) := s.parsePkts cls node f (r.drop len) (pid + 1)
        (p :: ps, c)

/-- The 32-bit words of a byte list. -/
def wordsOf (bs : List Byte) (n : Nat) : List Nat := (List.range n).map (fun i => field bs (4 * i) 4)

/-- An entry joins a stream: its packets, the words of its indirect buffer that are still to be read, and a fault where one
fails (R127). -/
def State.addEntry (s : State) (sid seq : Nat) (irq bar : Bool) (ps : List Pkt) (code : Nat) (rest : Option (Nat × Nat × Bool) := none) :
    State :=
  let ps := match ps with
    | p :: r => { p with first := bar } :: r
    | [] => []
  let s := s.updStrm sid (fun st => { st with
    ents := st.ents ++ [{ seq := seq, irq := irq, pkts := ps, bad := code != 0, rest := rest }], nextPid := st.nextPid + ps.length + 1 })
  if code ≠ 0 then s.queueFault sid code seq else s

/-- The first entry of a stream with words of an indirect buffer to read. -/
def Strm.reading (st : Strm) : Option Ent := st.ents.find? (fun e => e.rest.isSome)

/-- Change the entry with sequence `seq`. -/
def Strm.updEnt (st : Strm) (seq : Nat) (f : Ent → Ent) : Strm :=
  { st with ents := st.ents.map (fun e => if e.seq = seq then f e else e) }

/-- The fetcher reads the next packet of entry `e` from its indirect buffer, through the context's page tables, and checks it
(R102, R118). The answer is false where a read faults or the packet does. -/
def State.reachOne (s : State) (sid : Nat) (st : Strm) (e : Ent) : State × Bool :=
  match e.rest with
  | none => (s, false)
  | some (_, 0, _) => (s.updStrm sid (fun st => st.updEnt e.seq (fun e => { e with rest := none })), true)
  | some (va, n + 1, bar) => match s.vread st.ctx 60 va 4 with
    | (s, none) => (s, false)
    | (s, some b) =>
      let h := field b 0 4
      let len := bits h 8 12
      let bad (s : State) (code : Nat) : State × Bool :=
        ((s.updStrm sid (fun st => st.updEnt e.seq (fun e => { e with rest := none, bad := true }))).queueFault sid code e.seq, false)
      if n < len then bad s 5
      else match s.vread st.ctx 60 (va + 4) (4 * len) with
        | (s, none) => (s, false)
        | (s, some d) =>
          let w := wordsOf d len
          match s.pktCheck st.cls false (h :: w) with
          | 0 =>
            let p : Pkt := { pid := st.nextPid, op := bits h 0 8, w := w, barrier := bit h 20, acquire := bit h 21, first := bar }
            (s.updStrm sid (fun st => { st.updEnt e.seq (fun e => { e with
              pkts := e.pkts ++ [p], rest := some (va + 4 * (len + 1), n - len, false) }) with nextPid := st.nextPid + 1 }), true)
          | c => bad s c

/-- The fetcher reads on in the indirect buffers of a stream until it has reached a packet to dispatch (R102). -/
def State.reachOn : (fuel : Nat) → State → (sid : Nat) → State
  | 0, s, _ => s
  | f + 1, s, sid => match s.fe.strms.get? sid with
    | none => s
    | some st => match st.nextPkt, st.reading with
      | none, some e => match s.reachOne sid st e with
        | (s, true) => State.reachOn f s sid
        | (s, false) => s
      | _, _ => s

/-- Words of indirect buffers that a stream has still to read, and its entries. -/
def Strm.unread (st : Strm) : Nat := st.ents.foldl (fun n e => n + 1 + ((e.rest.map (fun r => r.2.1)).getD 0)) 1

/-- The fetcher reads on in a stream. -/
def State.reach (s : State) (sid : Nat) : State := match s.fe.strms.get? sid with
  | none => s
  | some st => (State.reachOn st.unread s sid).feSync st.cls

/-- A ring entry has been read: RPTR advances, the entry is checked, and its packets or the words of its indirect buffer are
taken (R102 to R104). WORDS of an indirect entry counts modulo 2^24 (log entry 68, DESIGN CHOICE). -/
def State.entryIn (s : State) (q : Nat) (st : Strm) (e : List Byte) : State :=
  let s := (s.wr FE_Q.RPTR q ((s.rd FE_Q.RPTR q + 1) % s.ringSize q)).count FE_FETCH.ENTRIES st.cls
  let ctrl := field e 8 4
  let n := field e 12 4
  let ind := bit ctrl 0
  let code :=
    if bits ctrl 3 29 ≠ 0 then 6
    else if !ind && n > 12 then 5
    else if ind && (field e 0x18 8 != 0 || field e 0x20 8 != 0 || field e 0x28 8 != 0 || field e 0x30 8 != 0 || field e 0x38 8 != 0) then 6
    else if ind && field e 0x10 8 % 4 != 0 then 7
    else 0
  if field e 0 8 ≠ st.nextSeq then s.queueFault q 0x01 st.nextSeq
  else
    let s := s.updStrm q (fun st => { st with nextSeq := st.nextSeq + 1 })
    if code ≠ 0 then s.addEntry q st.nextSeq (bit ctrl 1) (bit ctrl 2) [] code
    else if ind then (s.addEntry q st.nextSeq (bit ctrl 1) false [] 0 (some (field e 0x10 8, n % 2 ^ 24, bit ctrl 2))).reach q
    else
      let pc := s.parsePkts st.cls false 13 (wordsOf (e.drop 16) n) st.nextPid
      (s.addEntry q st.nextSeq (bit ctrl 1) (bit ctrl 2) pc.1 pc.2).feSync st.cls

/-- ENTRY_FETCH: one ring entry is read and checked, and RPTR advances (R102 to R104, R118). Of an indirect buffer the words
up to the first packet to dispatch are read with its entry; each further ENTRY_FETCH reads on in it once every packet read so
far has started, and no later entry is fetched before its end. A blocked stream fetches no entry (log entry 67, DESIGN
CHOICE). -/
def execEntryFetch (q : Nat) (s : State) : Host.Outcome State Fault Refusal :=
  match s.fe.strms.get? q with
  | none => .next s
  | some st =>
    if ¬ (q < 2048 ∧ s.fe.run ∧ s.ctxActive st.ctx ∧ ¬ bit (s.rd RST_STATUS.PART_ACTIVE) (s.partOf st.ctx)) then .next s
    else if st.reading ≠ none then .next (s.reach q)
    else if ¬ (st.inPass ∧ st.ready ∧ st.fault.isNone ∧ s.rd FE_Q.STATE q = 1 ∧ s.rd FE_Q.RPTR q ≠ st.sampled ∧ ¬ st.blocked) then .next s
    else if st.nextSeq = poison then .next (s.queueFault q 0x09 poison)
    else match s.vread st.ctx 60 (s.rd FE_Q.RING_VA q * 0x1000 + s.rd FE_Q.RPTR q * 64) 64 with
      | (s, none) => .next s
      | (s, some e) => .next (s.entryIn q st e)

/-- A stream's DRAFT packet waits for a full Loom. -/
def State.routeHeld (s : State) (sid : Nat) : Bool := ((s.routes.get? sid).map (·.held)).getD false

/-- Streams from which fetcher `k` can dispatch now (R115); one whose Draft waits for a full Loom holds no other (R297). -/
def State.cands (s : State) (k : Nat) : List (Nat × Strm) :=
  s.fe.strms.filter (fun p => p.2.cls == k && p.2.hasWork && !p.2.blocked && !s.routeHeld p.1 && !s.strmHeld p.2 && s.ctxActive p.2.ctx)

/-- The order of streams in a round: queue number, then stream. -/
def strmLt (a b : Nat × Strm) : Bool := a.2.q < b.2.q || (a.2.q == b.2.q && a.1 < b.1)

/-- The least stream of a list by a strict order. -/
def leastBy (lt : (Nat × Strm) → (Nat × Strm) → Bool) : List (Nat × Strm) → Option (Nat × Strm)
  | [] => none
  | p :: r => match leastBy lt r with
    | none => some p
    | some q => if lt q p then some q else some p

/-- The deadline of a Realtime queue in the current tick. -/
def State.rtDeadline (s : State) (q : Nat) : Nat := (s.rt.get? q).map (·.deadline) |>.getD (2 ^ 64)

/-- The stream of a list that follows stream `sid` of queue `q` in round-robin order. -/
def rrNext (l : List (Nat × Strm)) (q sid : Nat) : Option Nat :=
  ((leastBy strmLt (l.filter (fun p => q < p.2.q || (q == p.2.q && sid < p.1)))).or (leastBy strmLt l)).map (·.1)

/-- The queue of a stream, which may have gone. -/
def State.strmQ (s : State) (sid : Nat) : Nat := ((s.fe.strms.get? sid).map (·.q)).getD (sid % 2048)

/-- The stream that fetcher `k` dispatches from: the highest priority with a candidate; Realtime by earliest deadline
(R445); else the selected queue of that level until its slice ends, then the next in round-robin order (R115). -/
def State.chosen (s : State) (k : Nat) : Option Nat :=
  let c := s.cands k
  let m := c.foldl (fun m p => max m (s.strmPrio p.2)) 0
  let l := c.filter (fun p => s.strmPrio p.2 == m)
  if m = 3 then
    (leastBy (fun a b => s.rtDeadline a.2.q < s.rtDeadline b.2.q || (s.rtDeadline a.2.q == s.rtDeadline b.2.q && strmLt a b)) l).map (·.1)
  else
    let next (sid : Nat) : Option Nat := rrNext l (s.strmQ sid) sid
    match s.fe.sel.get? (8 * k + m), s.fe.after.get? (8 * k + m) with
    | none, none => (leastBy strmLt l).map (·.1)
    | none, some sid => next sid
    | some (sid, since), _ =>
      match l.find? (fun p => p.1 == sid) with
      | some p => if s.now - since < s.rd FE_Q.TSLICE p.2.q * 1000 then some sid else next sid
      | none => next sid

/-- The selection of fetcher `k` at a level: its slice has ended, and the next candidate of the level in round-robin order
takes it (R115). -/
def State.sliceEnd (s : State) (k m : Nat) : State :=
  match s.fe.sel.get? (8 * k + m) with
  | none => s
  | some (sid, since) =>
    if s.now - since < s.rd FE_Q.TSLICE (s.strmQ sid) * 1000 then s
    else match rrNext ((s.cands k).filter (fun p => s.strmPrio p.2 == m)) (s.strmQ sid) sid with
      | some n => { s with fe := { s.fe with sel := s.fe.sel.put (8 * k + m) (n, s.now) } }
      | none => { s with fe := { s.fe with sel := s.fe.sel.del (8 * k + m), after := s.fe.after.put (8 * k + m) sid } }

/-- TSLICE_EXPIRY: slices of fetcher `k` have ended, and the next queues of their levels are selected (R115). -/
def execTsliceExpiry (k : Nat) (s : State) : Host.Outcome State Fault Refusal :=
  .next ([0, 1, 2].foldl (fun s m => s.sliceEnd k m) s)

/-- The packet that stream `sid` can dispatch now, if it is one with opcode `op` and the stream is its fetcher's choice. -/
def State.canRun (s : State) (sid op : Nat) : Option (Strm × Pkt) :=
  match s.fe.strms.get? sid with
  | none => none
  | some st =>
    if s.chosen st.cls == some sid then
      match st.nextPkt with
      | some p => if p.op == op then some (st, p) else none
      | none => none
    else none

/-- Its fetcher selects a stream at its level, from now unless it was selected already (R115). -/
def State.select (s : State) (sid : Nat) (st : Strm) : State :=
  let k := 8 * st.cls + s.strmPrio st
  let since := match s.fe.sel.get? k with
    | some (x, t) => if x = sid then t else s.now
    | none => s.now
  { s with fe := { s.fe with sel := s.fe.sel.put k (sid, since), after := s.fe.after.del k } }

/-- A packet of the selected stream starts (R115). -/
def State.dispatch (s : State) (sid : Nat) (st : Strm) (p : Pkt) : State := (s.select sid st).startPkt sid p.pid

/-- NOP: the payload is skipped (R119). -/
def execNop (sid : Nat) (s : State) : Host.Outcome State Fault Refusal :=
  match s.canRun sid 0 with
  | some (st, p) => .next ((s.dispatch sid st p).donePkt sid p.pid)
  | none => .next s

/-- The first deferred packet with opcode `op` of a stream, where every earlier packet has completed (R122). -/
def State.canDefer (s : State) (sid op : Nat) : Option (Strm × Pkt) :=
  match s.fe.strms.get? sid with
  | none => none
  | some st =>
    if s.ctxActive st.ctx && !s.strmHeld st then
      match st.pkts.find? (fun p => p.st != 2) with
      | some p =>
        if p.op == op then some (st, p) else none
      | none => none
    else none

/-- SIGNAL: once every earlier packet has completed the Tally is signalled; a Tally outside the partition faults the
context (R122, R88). -/
def execSignal (sid : Nat) (s : State) : Host.Outcome State Fault Refusal :=
  match s.canDefer sid 1 with
  | none => .next s
  | some (st, p) =>
    let t := pw1 p.w 1
    let s := s.startPkt sid p.pid
    if s.tallyOk (s.partOf st.ctx) t then .next ((s.signal t (pw2 p.w 2)).donePkt sid p.pid)
    else .next (s.ctxFault st.ctx 0xC1)

/-- WAIT: the stream is blocked until the Tally reaches TARGET (R120, R122, R135). -/
def execWait (sid : Nat) (s : State) : Host.Outcome State Fault Refusal :=
  match s.canRun sid 2 with
  | none => .next s
  | some (st, p) =>
    let t := pw1 p.w 1
    let s := s.dispatch sid st p
    if !s.tallyOk (s.partOf st.ctx) t then .next (s.ctxFault st.ctx 0xC1)
    else if s.poisoned t then .next (s.pktFault sid 0x0A p.pid)
    else
      let tmo := pw1 p.w 4
      let (s, now) := s.addWait t (pw2 p.w 2) (.strm sid)
      if now then .next (s.donePkt sid p.pid)
      else .next ((s.updStrm sid (fun st => { st with
        waitPid := some p.pid, waitEnd := if tmo = 0 then none else some (s.now + tmo * 1000) })).feSync st.cls)

/-- WAIT_TIMEOUT: a WAIT not satisfied within its TIMEOUT faults its queue (R120). -/
def execWaitTimeout (sid : Nat) (s : State) : Host.Outcome State Fault Refusal :=
  match s.fe.strms.get? sid with
  | none => .next s
  | some st => match st.waitPid, st.waitEnd with
    | some pid, some e =>
      if s.now < e then .next s
      else
        let s := s.dropWaits (.strm sid)
        let s := s.updStrm sid (fun st => { st with waitPid := none, waitEnd := none })
        .next (s.pktFault sid 0x0B pid)
    | _, _ => .next s

/-- A packet whose effect is a write completes where the write was made; a write that faults leaves it (R122). -/
def State.doneIf (sid pid : Nat) (r : State × Bool) : State := if r.2 then r.1.donePkt sid pid else r.1

/-- WRITE_IMM: one 64-bit write after every earlier packet, a release at system scope (R120, R122). -/
def execWriteImm (sid : Nat) (s : State) : Host.Outcome State Fault Refusal :=
  match s.canDefer sid 3 with
  | none => .next s
  | some (st, p) => .next (State.doneIf sid p.pid ((s.startPkt sid p.pid).vwrite st.ctx 60 (pw2 p.w 1) (leBytes 8 (pw2 p.w 3))))

/-- TIMESTAMP: the device timestamp is written after every earlier packet (R120, R122). -/
def execTimestamp (sid : Nat) (s : State) : Host.Outcome State Fault Refusal :=
  match s.canDefer sid 4 with
  | none => .next s
  | some (st, p) => .next (State.doneIf sid p.pid ((s.startPkt sid p.pid).vwrite st.ctx 60 (pw2 p.w 1) (leBytes 8 s.now)))

/-- A Press engine that is present and free of work (R427); `busy` are engines that hold a Press job. -/
def State.freePress (s : State) (busy : Nat → Bool) : Option Nat :=
  [0, 1, 2, 3].find? (fun e => s.present 8 e && (s.fe.copies.get? e).isNone && !busy e)

/-- A COPY by Press engine `e` in pieces counted from its start, each read whole before it is written whole (R121). -/
def State.copyLoop (c e : Nat) : (fuel : Nat) → State → (src dst n : Nat) → State × Bool
  | 0, s, _, _, _ => (s, true)
  | f + 1, s, src, dst, n =>
    if n = 0 then (s, true)
    else
      let k := min n 128
      match s.vread c (prsUnit e) src k with
      | (s, none) => (s, false)
      | (s, some d) => match s.vwrite c (prsUnit e) dst d with
        | (s, false) => (s, false)
        | (s, true) => State.copyLoop c e f s (src + k) (dst + k) (n - k)

/-- A FILL by Press engine `e` in 128-byte pieces of the 32-bit pattern (R120). -/
def State.fillLoop (c e : Nat) (pat : List Byte) : (fuel : Nat) → State → (dst n : Nat) → State × Bool
  | 0, s, _, _ => (s, true)
  | f + 1, s, dst, n =>
    if n = 0 then (s, true)
    else
      let k := min n 128
      match s.vwrite c (prsUnit e) dst ((List.replicate (k / 4) pat).flatten) with
      | (s, false) => (s, false)
      | (s, true) => State.fillLoop c e pat f s (dst + k) (n - k)

/-- FREE_BLOCKS of the heap: the first address at or above which a run of `n` blocks is free, the lowest (R96). -/
def heapFit (h : Heap) (first blocks n : Nat) : Option Nat :=
  let used := h.live ++ h.quar
  let starts := first :: used.map (fun r => r.blk + r.n)
  let ok (b : Nat) : Bool := first ≤ b && b + n ≤ blocks && used.all (fun r => r.blk + r.n ≤ b || b + n ≤ r.blk)
  (starts.filter ok).foldl (fun m b => match m with
    | none => some b
    | some x => some (min x b)) none

/-- The last owner of some block of a run is another context (R98): blocks `b` to `b + n - 1` of 64 KiB of the device's
memory, and the runs that ALLOCs have handed out, newest first. -/
def heapForeign (owners : List HRun) (b n c : Nat) : Bool :=
  (List.range n).any (fun i => match owners.find? (fun r => r.blk ≤ b + i && b + i < r.blk + r.n) with
    | some r => r.ctx != c
    | none => false)

/-- A run of partition `p`'s heap is handed out: it is live, and its context is the last owner of its blocks (R96, R98). -/
def State.heapTake (s : State) (p : Nat) (r : HRun) : State :=
  let h := (s.heaps.get? p).getD {}
  State.heapSync { s with
    heaps := s.heaps.put p { h with live := r :: h.live },
    mem := { s.mem with owners := { r with blk := s.rd FE_CHN.HEAP_PA p + r.blk } :: s.mem.owners } } p

/-- ALLOC: a run of the partition's heap, zeroed first where another context had it; its address or 0 is written, and
only then the packet completes (R96, R98, R121). -/
def execAlloc (sid : Nat) (s : State) : Host.Outcome State Fault Refusal :=
  match s.canRun sid 0x43 with
  | none => .next s
  | some (st, p) =>
    let s := s.dispatch sid st p
    let pt := s.partOf st.ctx
    let blocks := s.rd FE_CHN.HEAP_BLOCKS pt
    if blocks = 0 then .next (s.ctxFault st.ctx 0x27)
    else
      let h := (s.heaps.get? pt).getD {}
      let n := pw1 p.w 1
      match heapFit h (heapMeta blocks) blocks n with
      | none =>
        let s := (s.count FE_CHN.EXHAUSTED pt).raise 0x45
        .next (State.doneIf sid p.pid (s.vwrite st.ctx 60 (pw2 p.w 2) (leBytes 8 0)))
      | some b =>
        let va := (s.rd FE_CHN.HEAP_VA pt + b) * 0x10000
        let pa := (s.rd FE_CHN.HEAP_PA pt + b) * 0x10000 % 2 ^ 48
        let zero := heapForeign s.mem.owners (s.rd FE_CHN.HEAP_PA pt + b) n st.ctx
        let s := s.heapTake pt { blk := b, n := n, ctx := st.ctx }
        if zero then
          let s := s.sweepAdd pa (pa + n * 0x10000) (.alloc pt sid p.pid st.ctx (pw2 p.w 2) va)
          .next (if s.mem.waitJobs.isEmpty then s else s.updStrm sid (fun st => { st with waitPid := some p.pid }))
        else .next (State.doneIf sid p.pid (s.vwrite st.ctx 60 (pw2 p.w 2) (leBytes 8 va)))

/-- FREE: a live run of the heap is stamped with the next free sequence and held in quarantine (R97). -/
def execFree (sid : Nat) (s : State) : Host.Outcome State Fault Refusal :=
  match s.canRun sid 0x44 with
  | none => .next s
  | some (st, p) =>
    let s := s.dispatch sid st p
    let pt := s.partOf st.ctx
    if s.rd FE_CHN.HEAP_BLOCKS pt = 0 then .next (s.ctxFault st.ctx 0x27)
    else
      let h := (s.heaps.get? pt).getD {}
      match h.live.find? (fun r => (s.rd FE_CHN.HEAP_VA pt + r.blk) * 0x10000 == pw2 p.w 1) with
      | none => .next (s.pktFault sid 0x0C p.pid)
      | some r =>
        let stamp := s.rd FE_CHN.FREE_SEQ pt + 1
        let s := s.wr FE_CHN.FREE_SEQ pt stamp
        let h := { h with live := h.live.filter (· != r), quar := { r with stamp := stamp } :: h.quar }
        let s := State.heapSync { s with heaps := s.heaps.put pt h } pt
        .next ((s.quarRelease (s.rd FE_CHN.RETIRE_TALLY pt)).donePkt sid p.pid)

/-- Local HBM bytes from `lo` to `hi` lie in partition `p`'s ranges or the shared region. -/
def State.rangeOk (s : State) (p lo hi : Nat) : Bool := s.pageOk p lo (hi - lo)

/-- A claim is accepted: the Ledger records it and its range counts as being zeroed (R92, R93). -/
def State.claimAdd (s : State) (pa pages tally value ctx : Nat) (reg : Bool) (sid pid : Nat) : State :=
  let s := s.ledger 0x1A 0 (leBytes 8 pa ++ leBytes 8 pages ++ leBytes 2 ctx ++ leBytes 6 0)
  s.sweepAdd (bits pa 0 48) (bits pa 0 48 + pages * 0x1000) (.claim tally value pages reg sid pid)

/-- CLAIM: the partition and Tally checks, then acceptance (R92, R93). -/
def execClaim (sid : Nat) (s : State) : Host.Outcome State Fault Refusal :=
  match s.canRun sid 0x42 with
  | none => .next s
  | some (st, p) =>
    let s := s.dispatch sid st p
    let pt := s.partOf st.ctx
    let pa := pw2 p.w 1
    let pages := pw2 p.w 3
    let t := bits (pw1 p.w 5) 0 13
    let c := bits (pw1 p.w 5) 16 10
    if !s.rangeOk pt (bits pa 0 48) (bits pa 0 48 + pages * 0x1000) || s.partOf c != pt then .next (s.ctxFault st.ctx 0x27)
    else if !s.tallyOk pt t then .next (s.ctxFault st.ctx 0xC1)
    else
      let s := s.claimAdd pa pages t (pw2 p.w 6) c false sid p.pid
      .next (if s.mem.waitJobs.isEmpty then s else s.updStrm sid (fun st => { st with waitPid := some p.pid }))

/-- The committed fields of FE_CLAIM describe a claim that can start (R93). -/
def State.claimOk (s : State) (rd : Fld → Nat) : Bool :=
  let pa := rd FE_CLAIM.PA * 0x1000
  let n := rd FE_CLAIM.PAGES
  n != 0 && bits pa 48 2 == s.dev && bits pa 0 48 + n * 0x1000 ≤ s.hbmBytes && rd FE_CLAIM.VALUE != poison

/-- CLAIM_GO: a claim through FE_CLAIM (R93). -/
def execClaimGo (s : State) : Host.Outcome State Fault Refusal :=
  s.hostDo .fe (fun s =>
    if s.on FE_CLAIM.BUSY || !s.claimOk (fun F => s.rd F) then .next (s.cfgErr .fe 0x8020)
    else
      let s := s.fl FE_CLAIM.BUSY 0 true
      .next (s.claimAdd (s.rd FE_CLAIM.PA * 0x1000) (s.rd FE_CLAIM.PAGES) (s.rd FE_CLAIM.TALLY) (s.rd FE_CLAIM.VALUE)
        (s.rd FE_CLAIM.CTX) true 0 0))

/-- The entries at the head of a stream that have completed. -/
def doneEnts : List Ent → List Ent
  | [] => []
  | e :: r => if !e.bad && e.rest.isNone && e.pkts.all (fun p => p.st == 2) then e :: doneEnts r else []

/-- The completion write of a queue (R123): discarded and counted while the link is down (R47). The answer is false where it
faulted. -/
def State.cplWrite (s : State) (q c v : Nat) : State × Bool :=
  if !s.on FE_Q.CPL_EN q then (s, true)
  else match s.translate c (s.rd FE_Q.CPL_VA q * 8) 1 60 with
    | (s, none) => (s, false)
    | (s, some (pa, cache)) =>
      if bits pa 48 2 = 3 ∧ !s.hostUp then (s.linkDrop, true)
      else match s.paWrite pa cache (leBytes 8 v) with
        | (s, 0) => (s, true)
        | (s, e) => (s.accFault c e 60 (s.rd FE_Q.CPL_VA q * 8), false)

/-- COMPLETED of a queue of an ACTIVE context rises over the entries that have completed; the completion write and, after it,
the interrupt follow (R86, R123 to R125). -/
def State.entriesDone (s : State) (q : Nat) (st : Strm) : State :=
  let d := doneEnts st.ents
  match d.getLast? with
  | none => s
  | some e =>
    if q ≥ 2048 ∨ ¬ s.ctxActive st.ctx then s
    else
      let s := s.updStrm q (fun st => { st with ents := st.ents.drop d.length })
      let (s, ok) := (s.wr FE_Q.COMPLETED q e.seq).cplWrite q st.ctx e.seq
      let s := if ok && s.on FE_Q.MSI_EN q && d.any (·.irq) then s.notifyVec (s.entryFor st.ctx (s.rd FE_Q.VECTOR q)) else s
      s.feSync st.cls

/-- ENTRY_COMPLETE (R123 to R125). -/
def execEntryComplete (q : Nat) (s : State) : Host.Outcome State Fault Refusal :=
  match s.fe.strms.get? q with
  | none => .next s
  | some st => .next (s.entriesDone q st)

/-- QUEUE_FAULT_COMPLETE: the faulting queue's dispatched work is done and its completions are written; it becomes FAULTED
(R127). A completion write that faults tears the context down instead (R129). -/
def execQueueFaultComplete (q : Nat) (s : State) : Host.Outcome State Fault Refusal :=
  match s.fe.strms.get? q with
  | none => .next s
  | some st => match st.fault with
    | none => .next s
    | some (code, seq) =>
      if q < 2048 ∧ s.ctxActive st.ctx ∧ st.pkts.all (fun p => p.st == 2) ∧ st.ents.all (fun e => e.rest.isNone) then
        let s := s.entriesDone q st
        if ¬ s.ctxActive st.ctx then .next s
        else
        let s := s.wrs q [(FE_Q.EN, 1), (FE_Q.STATE, 3), (FE_Q.FAULT_CODE, code), (FE_Q.FAULT_SEQ, seq)]
        let s := s.updStrm q (fun st => { st with ents := [], waitPid := none, waitEnd := none, ready := false, inPass := false })
        .next ((s.feSync st.cls).raise 0x42)
      else .next s

end Sys2Proof.Machine
end

