-- ==== Sys2Proof/Machine/Shader.lean ====
section
/-! DEFINITION. What every shader instruction shares (chapters 07 and 08): the group and its operands, issue with its
checks, traps, debugger halts, barriers, and a core's path to memory. -/

namespace Sys2Proof.Machine

/-- A resident group with its workgroup and dispatch. -/
structure GEnv where
  id : Nat
  grp : Grp
  wg : Wg
  disp : Disp

/-- The core of a group, numbered 4 * cluster + core. -/
def coreOf (g : Nat) : Nat := g / 48

/-- The cluster of a group. -/
def clusterOf (g : Nat) : Nat := g / 192

/-- Change a resident workgroup. -/
def State.updWg (s : State) (w : Nat) (f : Wg → Wg) : State := { s with sh := { s.sh with wgs := s.sh.wgs.upd w f } }

/-- Change a dispatch. -/
def State.updDisp (s : State) (d : Nat) (f : Disp → Disp) : State := { s with sh := { s.sh with disps := s.sh.disps.upd d f } }

/-- The group in a slot. -/
def State.genv (s : State) (g : Nat) : Option GEnv :=
  match s.sh.grps.get? g with
  | none => none
  | some x => match s.sh.wgs.get? x.wg with
    | none => none
    | some w => (s.sh.disps.get? w.disp).map (fun d => { id := g, grp := x, wg := w, disp := d })

/-- The flags of a kernel descriptor (R184). -/
def KDesc.debug (k : KDesc) : Bool := bit k.flags 2
def KDesc.yields (k : KDesc) : Bool := bit k.flags 3

/-! ### Registers and operands (R215, R216, R219) -/

/-- What an unlisted register of a group holds. -/
def Grp.fill (x : Grp) (key : Nat) : Nat :=
  match x.bg with
  | none => 0
  | some u => ofBytes ((List.range 4).map (fun i => Config.freeByte 10 u (4 * key + i)))

/-- Vector register `r` in a lane. -/
def Grp.rv (x : Grp) (lane r : Nat) : Nat := (x.v.get? (32 * r + lane)).getD (x.fill (32 * r + lane))

/-- A scalar register. -/
def Grp.rs (x : Grp) (r : Nat) : Nat := (x.sg.get? r).getD (x.fill (0x10000 + r))

/-- A predicate; lanes that do not exist are 0 (R216). -/
def Grp.rp (x : Grp) (r : Nat) : Nat := ((x.p.get? r).getD (x.fill (0x20000 + r))) &&& x.lanes

def Grp.wv (x : Grp) (lane r val : Nat) : Grp := { x with v := x.v.put (32 * r + lane) (val % 2 ^ 32) }
def Grp.ws (x : Grp) (r val : Nat) : Grp := { x with sg := x.sg.put r (val % 2 ^ 32) }
/-- A 64-bit value in a scalar pair (R216). -/
def Grp.ws2 (x : Grp) (r val : Nat) : Grp := (x.ws r val).ws (r + 1) (val / 2 ^ 32)
def Grp.wp (x : Grp) (r val : Nat) : Grp := { x with p := x.p.put r (val &&& x.lanes) }
def Grp.wx (x : Grp) (val : Nat) : Grp := { x with exec := val &&& x.lanes }
/-- STATUS takes sticky flags (R217). -/
def Grp.fl (x : Grp) (f : Nat) : Grp := { x with status := x.status ||| f }

/-- The active lanes of a vector instruction (R222). -/
def Grp.active (x : Grp) (i : Ins) : Nat :=
  if i.ge then x.exec &&& (if i.pgn then 0xFFFFFFFF - x.rp i.pg else x.rp i.pg) else x.exec

/-- The active lanes, ascending. -/
def Grp.lanesOf (x : Grp) (i : Ins) : List Nat := bitList (x.active i) 32

/-- The active lanes that can write memory: helper lanes write nothing (R376). -/
def Grp.writers (x : Grp) (i : Ins) : List Nat := (x.lanesOf i).filter (fun l => !bit x.helper l)

/-- What an operand field may name. -/
inductive OpK where
  /-- a vector register; a scalar register; a predicate; a scalar or inline value; anything that a source can be -/
  | v | s | p | inl | any
  /-- a scalar value: a scalar register, predicate, EXEC, STATUS, an inline value or LIT -/
  | sc
  /-- a destination that may be a vector register, scalar register, predicate or EXEC -/
  | dst
  deriving DecidableEq, Repr

/-- An operand: its code, what it may name, and the registers it spans. -/
structure Opd where
  code : Nat
  k : OpK
  n : Nat := 1
  deriving DecidableEq, Repr

/-- The alignment of an operand that spans `n` registers (R216). -/
def spanAlign (n : Nat) : Nat := if n = 12 then 4 else n

/-- An operand is legal (R216, R219, R220). -/
def Opd.legal (o : Opd) (scalar : Bool) (vregs : Nat) (ext lit : Bool) : Bool :=
  if o.code < 0x100 then
    (o.k == .v || o.k == .any || o.k == .dst) && !scalar && o.code % spanAlign o.n == 0 && o.code + o.n ≤ vregs
  else if o.code < 0x180 then
    (o.k == .s || o.k == .inl || o.k == .any || o.k == .dst || o.k == .sc) && (o.code - 0x100) % spanAlign o.n == 0 && o.code - 0x100 + o.n ≤ 128
  else if o.code < 0x188 then o.k == .p || o.k == .any || o.k == .dst || o.k == .sc
  else if o.code = 0x188 then o.k == .any || o.k == .dst || o.k == .sc
  else if o.code = 0x189 then o.k == .any && !scalar
  else if o.code = 0x18A then o.k == .any || o.k == .sc
  else if 0x1C0 ≤ o.code ∧ o.code < 0x1F8 then o.k == .any || o.k == .inl || o.k == .sc
  else if o.code = 0x1F8 then (o.k == .any || o.k == .inl || o.k == .sc) && ext && lit
  else false

/-- An inline floating-point value in a format. -/
def inlineF (f : Fmt) (k : Nat) : Nat :=
  let e : Int := [(-1 : Int), 0, 1, 2].getD (k % 4) 0
  (f.rnd { m := if k < 4 then 1 else -1, e := e }).1

/-- A source operand of `w` bits (32 or 64) in a lane, with `t` the type of the instruction (R219). In a 16-bit type an
inline value stands in both halves. -/
def Grp.src (x : Grp) (i : Ins) (t : NTy) (w code lane : Nat) : Nat :=
  if code < 0x100 then x.rv lane code + (if w = 64 then x.rv lane (code + 1) * 2 ^ 32 else 0)
  else if code < 0x180 then x.rs (code - 0x100) + (if w = 64 then x.rs (code - 0xFF) * 2 ^ 32 else 0)
  else if code < 0x188 then x.rp (code - 0x180)
  else if code = 0x188 then x.exec
  else if code = 0x189 then lane
  else if code = 0x18A then x.status
  else if code < 0x1F0 then
    let v : Int := if code < 0x1E0 then (code - 0x1C0 : Nat) else (code : Int) - 0x1F0
    if t.size = 16 ∧ w = 32 then ofSigned 16 v * 0x10001 else ofSigned w v
  else if code < 0x1F8 then
    match t.fmt? with
    | some f => if t.size = 16 then inlineF f (code - 0x1F0) * 0x10001 else inlineF f (code - 0x1F0)
    | none => inlineF (if w = 64 then fp64 else fp32) (code - 0x1F0)
  else if w = 64 then i.x else i.x % 2 ^ 32

/-- Write a destination of `w` bits in a lane: a vector register there; a scalar register, predicate or EXEC whole. -/
def Grp.dst (x : Grp) (w code lane val : Nat) : Grp :=
  if code < 0x100 then (if w = 64 then (x.wv lane code val).wv lane (code + 1) (val / 2 ^ 32) else x.wv lane code val)
  else if code < 0x180 then (if w = 64 then x.ws2 (code - 0x100) val else x.ws (code - 0x100) val)
  else if code < 0x188 then x.wp (code - 0x180) val
  else x.wx val

/-! ### Residency registers (SCL_STATUS) -/

def sclGroups (k : Nat) : Fld := [SCL_STATUS.GROUPS0, SCL_STATUS.GROUPS1, SCL_STATUS.GROUPS2, SCL_STATUS.GROUPS3].getD k SCL_STATUS.GROUPS0
def sclWgs (k : Nat) : Fld := [SCL_STATUS.WGS0, SCL_STATUS.WGS1, SCL_STATUS.WGS2, SCL_STATUS.WGS3].getD k SCL_STATUS.WGS0
def sclSplit (k : Nat) : Fld := [SCL_STATUS.SPLIT0, SCL_STATUS.SPLIT1, SCL_STATUS.SPLIT2, SCL_STATUS.SPLIT3].getD k SCL_STATUS.SPLIT0
def sclHalted (k : Nat) : Fld := [SCL_STATUS.HALTED0, SCL_STATUS.HALTED1, SCL_STATUS.HALTED2, SCL_STATUS.HALTED3].getD k SCL_STATUS.HALTED0

/-- SCL_STATUS of a core follows its residents. -/
def State.sclSync (s : State) (core : Nat) : State :=
  let gs := s.sh.grps.filter (fun p => coreOf p.1 == core)
  let ws := s.sh.wgs.filter (fun p => p.2.cluster * 4 + p.2.core == core)
  ((s.wr (sclGroups (core % 4)) (core / 4) gs.length).wr (sclWgs (core % 4)) (core / 4) ws.length).fl
    (sclHalted (core % 4)) (core / 4) (gs.any (fun p => p.2.halted))

/-- The group that DBG_HALT names. -/
def State.dbgGroup (s : State) : Nat :=
  (s.rd DBG_HALT.CLUSTER * 4 + s.rd DBG_HALT.CORE) * 48 + s.rd DBG_HALT.SLOT

/-- DBG_HALT_STATUS follows the groups halted on the device. -/
def State.haltSync (s : State) : State :=
  let n := (s.sh.grps.filter (fun p => p.2.halted)).length
  let (h, b) := match s.sh.grps.get? s.dbgGroup with
    | some x => (x.halted, x.stepping != 0)
    | none => (false, false)
  s.wrs 0 [(DBG_HALT_STATUS.HALTED, b2n h), (DBG_HALT_STATUS.BUSY, b2n b), (DBG_HALT_STATUS.HALTED_GROUPS, n)]

/-- A group halts: it keeps its slot and issues nothing, and DBG_HALTED of its cluster is raised (R212, R636). -/
def State.haltGroup (s : State) (g : Nat) : State :=
  let s := s.updGrp g (fun x => { x with halted := true, haltReq := false, stepping := 0 })
  ((s.sclSync (coreOf g)).haltSync).raise (0x201 + 0x10 * clusterOf g)

/-! ### Traps (R204 to R208) -/

/-- Where a group stands and the cause of its trap, for the Ledger record of its fault (R208). R619 lists TRAP_PC, cluster,
core and slot; the cause stands behind them (log entry 76). -/
def trapDetail (pc g : Nat) (cause : Nat := 0) : List Byte :=
  leBytes 8 pc ++ leBytes 1 (clusterOf g) ++ leBytes 1 (coreOf g % 4) ++ leBytes 1 (g % 48) ++ leBytes 1 cause ++ leBytes 4 0

/-- A group traps at its present instruction, every earlier one complete: it enters its handler, or its context faults (R207,
R208). -/
def State.trapNow (s : State) (e : GEnv) (cause info : Nat) : State :=
  let s := s.count SCL_CTR.TRAPS (clusterOf e.id)
  let st (x : Grp) : Nat := if x.stepping = 1 then 2 else x.stepping
  if e.grp.trap.inHandler then s.ctxFault e.grp.ctx 0x32 0 (clusterOf e.id) (trapDetail e.grp.pc e.id cause)
  else if e.disp.kd.trapVa = 0 then s.ctxFault e.grp.ctx 0x31 0 (clusterOf e.id) (trapDetail e.grp.pc e.id cause)
  else s.updGrp e.id (fun x => { x with
    trap := { inHandler := true, pc := x.pc, cause := cause, exec := x.exec, info := info }, pc := e.disp.kd.trapVa, stepping := st x })

/-- A group traps at its present instruction. While hits of an earlier RAY.EMIT are still to come the trap waits for them, so
that every earlier instruction has completed its register writes (R204). -/
def State.trap (s : State) (e : GEnv) (cause info : Nat) : State :=
  if e.grp.rets.isEmpty then s.trapNow e cause info
  else s.updGrp e.id (fun x => { x with trapReq := some (cause, info) })

/-- The trap that waited for a group's hits is taken once they are there. -/
def State.trapGo (s : State) (g : Nat) : State :=
  match s.genv g with
  | none => s
  | some e => match e.grp.trapReq with
    | none => s
    | some (c, n) =>
      if e.grp.rets.isEmpty then
        (s.updGrp g (fun x => { x with trapReq := none })).trapNow { e with grp := { e.grp with trapReq := none } } c n
      else s

/-- A trap whose TRAP_INFO the spec does not give: it is a free value. -/
def State.trapFree (s : State) (e : GEnv) (cause : Nat) : State :=
  let (i, s) := s.free 11
  s.trap e cause (i % 256)

/-! ### Issue (R192, R193, R223, R639) -/

/-- A group can issue: it neither waits, nor is halted, stopped, ended or about to trap. -/
def State.canIssue (s : State) (e : GEnv) : Bool :=
  e.grp.wait == .none && (!e.grp.halted || e.grp.stepping == 1) && !e.grp.haltReq && e.grp.stepping != 2 && !e.grp.ended && e.grp.trapReq.isNone &&
  e.wg.stop == 0 && s.ctxActive e.grp.ctx

/-- An operand names a register of a pending RETURN emission (R241). -/
def Grp.hitWait (x : Grp) (ops : List Opd) : Bool :=
  x.rets.any (fun r => ops.any (fun o => o.code < 0x100 && o.code < r.1 + 8 && r.1 < o.code + o.n))

/-- The breakpoint that an instruction of a group hits. -/
def State.bpHit (s : State) (e : GEnv) : Option Nat :=
  if e.disp.kd.debug && !e.grp.skipBp then
    (List.range 8).find? (fun k => s.on DBG_BP.EN k && s.rd DBG_BP.CTX k == e.grp.ctx && s.rd DBG_BP.VA k * 8 == e.grp.pc)
  else none

/-- Bytes of an instruction. -/
def insLen (i : Ins) : Nat := if i.ext then 16 else 8

/-- A RAY.EMIT that the Carder cannot take holds its core's memory pipe, which MEM, ATOM, RAY and LOOM issue to (R221, R240,
R352). -/
def State.pipeHeld (s : State) (k : OpCode) (g : Nat) : Bool :=
  (k.cls == 6 || k.cls == 7 || k.cls == 0xA || k.cls == 0xC) &&
  s.sh.grps.any (fun p => coreOf p.1 == coreOf g && p.2.wait == .ray)

/-- Lines of 128 bytes that the instruction cache of a cluster holds (R180; log entry 77). -/
def icacheLines : Nat := 512

/-- Drop the instruction cache lines of a context in the clusters that `f` names (R201). -/
def State.icDrop (s : State) (c : Nat) (f : Nat → Bool) : State :=
  { s with sh := { s.sh with icache := s.sh.icache.filter (fun l => !(l.ctx == c && f l.cluster)) } }

/-- Instruction bytes within one 128-byte line, through the cluster's instruction cache, which is not coherent with stores
(R201). A fetch needs X rights (R163); the Tally aperture answers none (R140). -/
def State.fetchLine (s : State) (c core va n : Nat) : State × Option (List Byte) :=
  match s.translate c va 3 (coreTlb core) with
  | (s, none) => (s, none)
  | (s, some (pa, cache)) =>
    let key := pa / 128
    let pick (d : List Byte) : List Byte := (d.drop (pa % 128)).take n
    if inAperture pa then (s.accFault c 0xC5 (coreTlb core) va 3, none)
    else match s.sh.icache.find? (fun l => l.cluster == core / 4 && l.ctx == c && l.key == key) with
      | some l => (s, some (pick l.data))
      | none => match s.paRead (key * 128) 128 cache with
        | (s, d, 0) =>
          let l : ILine := { cluster := core / 4, ctx := c, key := key, data := d }
          let mine := s.sh.icache.filter (fun l => l.cluster == core / 4)
          let rest := s.sh.icache.filter (fun l => l.cluster != core / 4)
          ({ s with sh := { s.sh with icache := (l :: mine).take icacheLines ++ rest } }, some (pick d))
        | (s, _, e) => (s.accFault c e (coreTlb core) va 3, none)

/-- An instruction word of a context at `va`. -/
def State.fetchWord (s : State) (c core va : Nat) : State × Option Nat :=
  match (linePieces va 8).foldl (fun (r : State × Option (List Byte)) p =>
    match r with
    | (s, none) => (s, none)
    | (s, some d) => match s.fetchLine c core p.1 p.2 with
      | (s, some d') => (s, some (d ++ d'))
      | (s, none) => (s, none)) (s, some []) with
  | (s, some d) => (s, some (ofBytes d))
  | (s, none) => (s, none)

/-- The base word at a group's PC, and its extension word, or 0 without one (R218, R220); none after a context fault. -/
def State.fetch (s : State) (e : GEnv) : State × Option (Nat × Nat) :=
  match s.fetchWord e.grp.ctx (coreOf e.id) e.grp.pc with
  | (s, none) => (s, none)
  | (s, some w) =>
    if wordBits w 12 1 = 0 then (s, some (w, 0))
    else match s.fetchWord e.grp.ctx (coreOf e.id) (e.grp.pc + 8) with
      | (s, none) => (s, none)
      | (s, some x) => (s, some (w, x))

/-- One instruction of group `g` issues. The word that the group fetches decides: where its CLASS or OP is undefined it raises
ILLEGAL, and where it is another instruction than the command's the command is not what the group runs. `ops` are its operands,
`mods` the MOD bits its class defines, `lit` that its extension word may be a literal; `chk` is the trap it raises, if any, and
`run` its effect, the PC already advanced. -/
def State.issue (s : State) (k : OpCode) (g : Nat) (i : Ins) (scalar : Bool) (ops : List Opd) (mods : Nat) (lit : Bool)
    (chk : GEnv → Option Nat) (run : State → GEnv → State) : State :=
  match s.genv g with
  | none => s
  | some e =>
    if !s.canIssue e || e.grp.hitWait ops || s.pipeHeld k g then s
    else match s.fetch e with
      | (t, none) => t
      | (t, some (w, x)) =>
        if opKnown w && !k.picks i w x then s
        else match t.bpHit e with
        | some b =>
          let s := t.count DBG_BP.HITS b
          if s.on DBG_BP.ACTION b then
            let s := s.updGrp g (fun x => { x with skipBp := true })
            if e.grp.rets.isEmpty then s.haltGroup g else s.updGrp g (fun x => { x with haltReq := true })
          else s.trapFree e 7
        | none =>
          let s := t.updGrp g (fun x => { x with skipBp := false })
          if !opKnown w || (scalar && i.ge) || !ops.all (·.legal scalar e.disp.kd.vregs i.ext lit) || i.md - (i.md &&& mods) ≠ 0 then s.trapFree e 1
          else match chk e with
            | some c => s.trapFree e c
            | none =>
              let s := (s.count SCL_CTR.ISSUED (clusterOf g)).pmu 2 (clusterOf g) e.disp.part
              let s := s.updGrp g (fun x => { x with pc := x.pc + insLen i, stepping := if x.stepping = 1 then 2 else x.stepping })
              match s.genv g with
              | none => s
              | some e => run s e

/-- The group's registers after a pure effect. -/
def State.setGrp (s : State) (g : Nat) (x : Grp) : State := s.updGrp g (fun _ => x)

/-! ### Barriers (R196) -/

/-- Every group of a workgroup has arrived at barrier `b` or ended. -/
def Wg.barFull (w : Wg) (b : Nat) : Bool :=
  (List.range w.groups).all (fun k => w.ended.contains k || ((w.arrived.get? b).getD []).contains k)

/-- Release barriers that are complete. -/
def State.barRelease (s : State) (wid : Nat) : State :=
  match s.sh.wgs.get? wid with
  | none => s
  | some w =>
    (w.arrived.filter (fun p => w.barFull p.1)).foldl (fun s p =>
      let s := s.updWg wid (fun w => { w with arrived := w.arrived.del p.1 })
      { s with sh := { s.sh with grps := s.sh.grps.map (fun q =>
          if q.2.wg = wid ∧ q.2.wait = .bar p.1 then (q.1, { q.2 with wait := .none }) else q) } }) s

/-! ### Local store, L1 and memory (R187, R198 to R200) -/

/-- A byte of a workgroup's local store. -/
def Wg.lbyte (w : Wg) (a : Nat) : Byte := (w.lmem.get? a).getD (match w.bg with
  | some u => Config.freeByte 12 u a
  | none => 0)

/-- Bytes of the local store. -/
def Wg.lread (w : Wg) (a n : Nat) : List Byte := (List.range n).map (fun k => w.lbyte (a + k))

/-- Write bytes of the local store. -/
def Wg.lwrite (w : Wg) (a : Nat) : List Byte → Wg
  | [] => w
  | b :: r => Wg.lwrite { w with lmem := w.lmem.put a b } (a + 1) r

/-- Sets of 8 lines of the L1 of a core at its present split (R184, R198). -/
def State.l1Sets (s : State) (core : Nat) : Nat := [224, 192, 128, 64].getD (s.rd (sclSplit (core % 4)) (core / 4)) 224

/-- Of a core's lines, newest first, the newest 8 of each set; a line's set is its number modulo the sets (R198; log entry
78). -/
def l1Ways (sets : Nat) (ls : List L1Line) : List L1Line :=
  ls.foldl (fun a l => if (a.filter (fun m => m.key % sets == l.key % sets)).length < 8 then a ++ [l] else a) []

/-- Drop the L1 lines of a context in the cores that `f` names. -/
def State.l1Drop (s : State) (c : Nat) (f : Nat → Bool) : State :=
  { s with sh := { s.sh with l1 := s.sh.l1.filter (fun l => !(l.ctx == c && f l.core)) } }

/-- ACQUIRE of a packet (R117, R201): the L1 and instruction cache lines of its context go in the clusters that it uses. -/
def State.pktAcquire (s : State) (c clusters : Nat) : State :=
  (s.l1Drop c (fun core => bit clusters (core / 4))).icDrop c (bit clusters)

/-- An acquire at scope `sc` by a group (R202): from device scope up, the context's L1 lines in the core go. -/
def State.acquire (s : State) (e : GEnv) (sc : Nat) : State :=
  if sc ≥ 3 then s.l1Drop e.grp.ctx (· == coreOf e.id) else s

/-- A core's load within one 128-byte line through its L1 (R198, R164). `seen` are the lines that this instruction has
requested already. -/
def State.coreLine (s : State) (c core va n : Nat) (seen : List Nat) : State × List Nat × Option (List Byte) :=
  match s.translate c va 0 (coreTlb core) with
  | (s, none) => (s, seen, none)
  | (s, some (pa, cache)) =>
    let key := pa / 128
    let o := pa % 128
    if inAperture pa || cache == 3 then
      match s.paRead pa n cache with
      | (s, d, 0) => (s, seen, some d)
      | (s, _, e) => (s.accFault c e (coreTlb core) va, seen, none)
    else
      let p := s.partOf c
      match s.sh.l1.find? (fun l => l.core == core && l.ctx == c && l.key == key) with
      | some l =>
        let s := if seen.contains key then s else s.pmu 5 (core / 4) p
        (s, key :: seen, some ((l.data.drop o).take n))
      | none =>
        let s := if seen.contains key then s else s.pmu 6 (core / 4) p
        match s.paRead (key * 128) 128 cache with
        | (s, d, 0) =>
          let mine := s.sh.l1.filter (fun l => l.core == core)
          let rest := s.sh.l1.filter (fun l => l.core != core)
          let l : L1Line := { core := core, ctx := c, key := key, data := d }
          ({ s with sh := { s.sh with l1 := l1Ways (s.l1Sets core) (l :: mine) ++ rest } }, key :: seen, some ((d.drop o).take n))
        | (s, _, e) => (s.accFault c e (coreTlb core) va, seen, none)

/-- A core's load of `n` bytes. -/
def State.coreRead (s : State) (c core va n : Nat) (seen : List Nat := []) : State × List Nat × Option (List Byte) :=
  (linePieces va n).foldl (fun (r : State × List Nat × Option (List Byte)) p =>
    match r with
    | (s, sn, none) => (s, sn, none)
    | (s, sn, some d) => match s.coreLine c core p.1 p.2 sn with
      | (s, sn, some d') => (s, sn, some (d ++ d'))
      | (s, sn, none) => (s, sn, none)) (s, seen, some [])

/-- A core's store within one line: written through, and into an L1 line that it hits (R199). -/
def State.coreWrite (s : State) (c core va : Nat) (bs : List Byte) : State × Bool :=
  match s.translate c va 1 (coreTlb core) with
  | (s, none) => (s, false)
  | (s, some (pa, cache)) =>
    match s.paWrite pa cache bs with
    | (s, 0) =>
      let o := pa % 128
      let data := List.replicate o 0 ++ bs ++ List.replicate (128 - o - bs.length) 0
      ({ s with sh := { s.sh with l1 := s.sh.l1.map (fun l =>
          if l.core = core ∧ l.ctx = c ∧ l.key = pa / 128 then { l with data := mergeBytes (maskOf o bs.length) l.data data } else l) } }, true)
    | (s, e) => (s.accFault c e (coreTlb core) va 1, false)

/-- The address in memory of byte `b` of a lane's scratch (R187). -/
def GEnv.scratchVa (e : GEnv) (lane b : Nat) : Nat :=
  e.disp.kd.scratchVa + 32 * e.disp.kd.scratchBytes * e.grp.scratch + 512 * (b / 16) + 16 * lane + b % 16

/-- The watchpoint that an access hits (R640): `kind` 0 read, 1 write, 2 atomic. -/
def State.wpHit (s : State) (e : GEnv) (kind : Nat) (acc : List (Nat × Nat)) : Option Nat :=
  if e.disp.kd.debug then
    (List.range 4).find? (fun k =>
      let lo := s.rd DBG_WP.VA k
      let hi := lo + 2 ^ s.rd DBG_WP.LOG2_LEN k
      s.on DBG_WP.EN k && s.rd DBG_WP.CTX k == e.grp.ctx && bit (s.rd DBG_WP.KINDS k) kind &&
      acc.any (fun a => a.1 < hi && lo < a.1 + a.2))
  else none

/-- A watchpoint hit: the instruction that had issued is taken back, and the group traps or halts before it (R640). -/
def State.wpTake (s : State) (e : GEnv) (i : Ins) (k : Nat) : State :=
  let s := s.count DBG_WP.HITS k
  let back (x : Grp) : Grp := { x with pc := x.pc - insLen i }
  let s := s.updGrp e.id back
  if s.on DBG_WP.ACTION k then
    if e.grp.rets.isEmpty then s.haltGroup e.id else s.updGrp e.id (fun x => { x with haltReq := true })
  else s.trapFree { e with grp := back e.grp } 8

/-! ### The end of groups, workgroups and dispatches (R190, R227) -/

/-- A ray belongs to dispatch `d`. -/
def Ray.of (r : Ray) (d : Nat) : Bool := !r.dead && r.ds.contains d

/-- SHADE or SPOOL rays of dispatch `d`, or hit-shading groups that its rays caused, remain (R337). -/
def State.rayBusy (s : State) (d : Nat) : Bool :=
  let c := s.crd
  c.held.any (·.of d) || c.buckets.any (fun b => b.2.any (·.of d)) || c.pools.any (fun b => b.2.any (·.of d)) ||
  c.batches.any (fun b => b.2.rays.any (·.of d) || b.2.cmps.any (·.1.of d) || b.2.hits.any (·.1.of d)) ||
  s.sh.disps.any (fun p => match p.2.kind with
    | .hit ps => ps.contains d
    | _ => false)

/-- A dispatch completes once all its workgroups have ended and its rays are done with (R190, R337): its packet
completes, or its stage is noted. -/
def State.dispCheck (s : State) (d : Nat) : State :=
  match s.sh.disps.get? d with
  | none => s
  | some x =>
    if x.live = 0 ∧ x.next = x.gx * x.gy * x.gz ∧ ¬ s.rayBusy d then
      let s := { s with sh := { s.sh with disps := s.sh.disps.del d } }
      match x.kind with
      | .compute => s.donePkt x.sid x.pid
      | k => { s with sh := { s.sh with fin := s.sh.fin ++ [k] } }
    else s

/-- A workgroup of dispatch `d` has ended. Hit shading leaves nothing but the dispatches that wait for it. -/
def State.wgEnded (s : State) (d : Nat) : State :=
  let s := s.updDisp d (fun x => { x with live := x.live - 1 })
  match s.sh.disps.get? d with
  | none => s
  | some x => match x.kind with
    | .hit ps => if x.live = 0 then ps.foldl State.dispCheck { s with sh := { s.sh with disps := s.sh.disps.del d } } else s
    | _ => s.dispCheck d

/-- A group leaves its slot. -/
def State.grpGone (s : State) (g : Nat) : State :=
  match s.sh.grps.get? g with
  | none => s
  | some x =>
    let s := { s with sh := { s.sh with grps := s.sh.grps.del g } }
    let s := s.updWg x.wg (fun w => { w with slots := w.slots.filter (· != g) })
    let s := match s.sh.wgs.get? x.wg with
      | none => s
      | some w =>
        if w.ended.length = w.groups ∧ w.slots.isEmpty then
          { s with sh := { s.sh with wgs := s.sh.wgs.del x.wg } }.wgEnded w.disp
        else s
    (s.sclSync (coreOf g)).haltSync

end Sys2Proof.Machine
end

