-- ==== Sys2Proof/Machine/ShCtrl.lean ====
section
/-! DEFINITION. The CTRL class (R224 to R227) and the SYNC class (R237 to R239). -/

namespace Sys2Proof.Machine

/-- A scalar control instruction, `op` of its class, whose effect is on its own group alone. -/
def State.ctl (s : State) (op : Nat) (g : Nat) (i : Ins) (ops : List Opd) (needExt : Bool) (xmask : Nat) (f : Grp → Grp) : State :=
  s.issue ⟨9, some op⟩ g i true ops 0 false
    (fun _ => if (needExt && !i.ext) || i.x - (i.x &&& xmask) ≠ 0 then some 1 else none)
    (fun s _ => s.updGrp g f)

/-- The target of a branch (R224): PC, already at the next instruction, plus 8 times the signed 32-bit offset. -/
def target (x : Grp) (i : Ins) : Nat := ((x.pc : Int) + 8 * toSigned 32 i.x).toNat % 2 ^ 48

/-- A scalar source of 32 bits. -/
def Grp.s32 (x : Grp) (i : Ins) (code : Nat) : Nat := x.src i .u32 32 code 0

/-- A scalar source of 64 bits. -/
def Grp.s64 (x : Grp) (i : Ins) (code : Nat) : Nat := x.src i .u64 64 code 0

/-- A predicate source. -/
def Grp.sp (x : Grp) (code : Nat) : Nat := x.rp (code - 0x180)

/-- The low 32 bits of the extension word hold a branch offset. -/
def m32 : Nat := 0xFFFFFFFF

/-- NOP (R224). -/
def execCtrlNop (g : Nat) (i : Ins) (s : State) : Host.Outcome State Fault Refusal := .next (s.ctl 0x0 g i [] false 0 id)

/-- BR (R224). -/
def execBr (g : Nat) (i : Ins) (s : State) : Host.Outcome State Fault Refusal :=
  .next (s.ctl 0x1 g i [] true m32 (fun x => { x with pc := target x i }))

/-- BR.Z (R224). -/
def execBrZ (g : Nat) (i : Ins) (s : State) : Host.Outcome State Fault Refusal :=
  .next (s.ctl 0x2 g i [⟨i.src0, .s, 1⟩] true m32 (fun x => if x.s32 i i.src0 = 0 then { x with pc := target x i } else x))

/-- BR.NZ (R224). -/
def execBrNz (g : Nat) (i : Ins) (s : State) : Host.Outcome State Fault Refusal :=
  .next (s.ctl 0x3 g i [⟨i.src0, .s, 1⟩] true m32 (fun x => if x.s32 i i.src0 ≠ 0 then { x with pc := target x i } else x))

/-- BR.EXECZ (R224). -/
def execBrExecz (g : Nat) (i : Ins) (s : State) : Host.Outcome State Fault Refusal :=
  .next (s.ctl 0x4 g i [] true m32 (fun x => if x.exec = 0 then { x with pc := target x i } else x))

/-- BR.EXECNZ (R224). -/
def execBrExecnz (g : Nat) (i : Ins) (s : State) : Host.Outcome State Fault Refusal :=
  .next (s.ctl 0x5 g i [] true m32 (fun x => if x.exec ≠ 0 then { x with pc := target x i } else x))

/-- Where EXEC is empty, branch. -/
def Grp.skipEmpty (x : Grp) (i : Ins) : Grp := if x.exec = 0 then { x with pc := target x i } else x

/-- IF (R224). -/
def execIf (g : Nat) (i : Ins) (s : State) : Host.Outcome State Fault Refusal :=
  .next (s.ctl 0x6 g i [⟨i.dst, .s, 1⟩, ⟨i.src0, .p, 1⟩] true m32 (fun x =>
    ((x.ws (i.dst - 0x100) x.exec).wx (x.exec &&& x.sp i.src0)).skipEmpty i))

/-- ELSE (R224). -/
def execElse (g : Nat) (i : Ins) (s : State) : Host.Outcome State Fault Refusal :=
  .next (s.ctl 0x7 g i [⟨i.src0, .s, 1⟩] true m32 (fun x => (x.wx (x.s32 i i.src0 &&& (m32 - x.exec))).skipEmpty i))

/-- ENDIF (R224). -/
def execEndif (g : Nat) (i : Ins) (s : State) : Host.Outcome State Fault Refusal :=
  .next (s.ctl 0x8 g i [⟨i.src0, .s, 1⟩] false 0 (fun x => x.wx (x.s32 i i.src0)))

/-- BREAK (R224). -/
def execBreak (g : Nat) (i : Ins) (s : State) : Host.Outcome State Fault Refusal :=
  .next (s.ctl 0x9 g i [⟨i.src0, .p, 1⟩] false 0 (fun x => x.wx (x.exec &&& (m32 - x.sp i.src0))))

/-- CALL (R224). -/
def execCall (g : Nat) (i : Ins) (s : State) : Host.Outcome State Fault Refusal :=
  .next (s.ctl 0xA g i [⟨i.dst, .s, 2⟩] true m32 (fun x => { x.ws2 (i.dst - 0x100) x.pc with pc := target x i }))

/-- RET (R224): an address not aligned to 8 bytes raises MISALIGNED. -/
def execRet (g : Nat) (i : Ins) (s : State) : Host.Outcome State Fault Refusal :=
  .next (s.issue ⟨9, some 0x0B⟩ g i true [⟨i.src0, .s, 2⟩] 0 false
    (fun e => if i.x ≠ 0 then some 1 else if e.grp.s64 i i.src0 % 8 ≠ 0 then some 3 else none)
    (fun s _ => s.updGrp g (fun x => { x with pc := x.s64 i i.src0 % 2 ^ 48 })))

/-- TRAP (R224, R207): raises SOFTWARE with the low byte of its operand in TRAP_INFO. -/
def execTrap (g : Nat) (i : Ins) (s : State) : Host.Outcome State Fault Refusal :=
  .next (s.issue ⟨9, some 0x0C⟩ g i true [⟨i.src0, .inl, 1⟩] 0 false
    (fun _ => if i.x ≠ 0 then some 1 else none)
    (fun s e =>
      let s := s.updGrp g (fun x => { x with pc := x.pc - insLen i })
      s.trap { e with grp := { e.grp with pc := e.grp.pc - insLen i } } 6 (e.grp.s32 i i.src0 % 256)))

/-- RTT (R225): outside a handler it raises ILLEGAL. -/
def execRtt (g : Nat) (i : Ins) (s : State) : Host.Outcome State Fault Refusal :=
  .next (s.issue ⟨9, some 0x0D⟩ g i true [] 0 false (fun e => if i.x ≠ 0 ∨ !e.grp.trap.inHandler then some 1 else none)
    (fun s _ => s.updGrp g (fun x => { x with pc := x.trap.pc, trap := { x.trap with inHandler := false } })))

/-- YIELD (R226): with a request pending, a group of a YIELDS dispatch stops here; its pending RETURN emissions must have
completed first. -/
def execYield (g : Nat) (i : Ins) (s : State) : Host.Outcome State Fault Refusal :=
  match s.genv g with
  | none => .next s
  | some e =>
    if e.grp.preempt && e.disp.kd.yields && !e.grp.rets.isEmpty then .next s
    else
      let vl := bits i.x 0 9
      let sl := if bit i.x 23 then 128 else bits i.x 16 7
      .next (s.issue ⟨9, some 0x0E⟩ g i true [] 0 false
        (fun e => if !i.ext || i.x - (i.x &&& 0xFF01FF) ≠ 0 || vl > e.disp.kd.vregs || vl > 256 || (bit i.x 23 && bits i.x 16 7 != 0) then some 1 else none)
        (fun s e => if e.grp.preempt && e.disp.kd.yields then s.updGrp g (fun x => { x with wait := .save, yield := some (vl, sl) }) else s))

/-- The STATUS bits that SETMODE can write (R224). -/
def modeMask : Nat := 0x33F

/-- A GMMA that set FLUSHED may not have written D yet: its result takes 24 cluster clocks (R243, R271). -/
def State.gmmaBusy (s : State) (e : GEnv) : Bool :=
  match e.grp.gmmaAt with
  | some t => (s.now - t) * clusterMHz (s.rd PWR_LEVEL.CORE) < 24 * 1000
  | none => false

/-- SETMODE (R224). Where it clears FLUSHED in the 24 clocks after a GMMA that set it, the clock in which the GMMA writes D may be
this one or a later one, and the flag then ends set: a free value says (R271; log entry 79). -/
def execSetmode (g : Nat) (i : Ins) (s : State) : Host.Outcome State Fault Refusal :=
  .next (s.issue ⟨9, some 0x10⟩ g i true [⟨i.src0, .any, 1⟩, ⟨i.src1, .any, 1⟩] 0 false
    (fun _ => if i.x ≠ 0 then some 1 else none)
    (fun s e =>
      let m := e.grp.s32 i i.src1 &&& modeMask
      let st := (e.grp.status - (e.grp.status &&& m)) ||| (e.grp.s32 i i.src0 &&& m)
      if s.gmmaBusy e ∧ bit m 5 ∧ ¬ bit st 5 then
        let (k, s) := s.free 55
        s.updGrp g (fun x => { x with status := setBit st 5 (bit k 0) })
      else s.updGrp g (fun x => { x with status := st })))

/-- GETREG (R224). -/
def execGetreg (g : Nat) (i : Ins) (s : State) : Host.Outcome State Fault Refusal :=
  let c := bits i.x 0 4
  .next (s.issue ⟨9, some 0x11⟩ g i true [⟨i.dst, .s, if c = 0 ∨ c = 5 then 2 else 1⟩] 0 false
    (fun _ => if !i.ext || c > 5 || i.x > 15 then some 1 else none)
    (fun s e => s.updGrp g (fun x =>
      let d := i.dst - 0x100
      if c = 0 then x.ws2 d x.trap.pc else if c = 1 then x.ws d x.trap.cause else if c = 2 then x.ws d x.trap.exec
      else if c = 3 then x.ws d x.trap.info else if c = 4 then x.ws d e.grp.status else x.ws2 d s.now)))

/-- SETREG (R224): outside a trap handler it raises ILLEGAL. -/
def execSetreg (g : Nat) (i : Ins) (s : State) : Host.Outcome State Fault Refusal :=
  .next (s.issue ⟨9, some 0x12⟩ g i true [⟨i.src0, .s, 2⟩] 0 false (fun e => if i.x ≠ 0 ∨ !e.grp.trap.inHandler then some 1 else none)
    (fun s _ => s.updGrp g (fun x => { x with trap := { x.trap with pc := x.s64 i i.src0 % 2 ^ 48 } })))

/-! ### SYNC -/

/-- BAR (R196): the group arrives and waits; the last to arrive releases all. -/
def execBar (g : Nat) (i : Ins) (s : State) : Host.Outcome State Fault Refusal :=
  .next (s.issue ⟨8, some 0⟩ g i true [⟨i.src0, .inl, 1⟩] 0 false
    (fun _ => if i.x ≠ 0 || i.src0 < 0x1C0 || i.src0 > 0x1CF then some 1 else none)
    (fun s e =>
      let b := i.src0 - 0x1C0
      let s := s.updWg e.grp.wg (fun w => { w with arrived := w.arrived.put b (e.grp.gi :: ((w.arrived.get? b).getD [])) })
      (s.updGrp g (fun x => { x with wait := .bar b })).barRelease e.grp.wg))

/-- The extension fields of R228 are legal. -/
def ordOk (i : Ins) : Bool := bits i.x 37 27 == 0 && bits i.x 32 3 ≤ 4

/-- ORDER of an instruction. -/
def ordOf (i : Ins) : Nat := bits i.x 35 2

/-- SCOPE of an instruction. -/
def scopeOf (i : Ins) : Nat := bits i.x 32 3

/-- FENCE (R237, R228): an acquire at its SCOPE drops the L1 lines of the context, but with SPACE = 1 it acts at workgroup scope
(R232); every earlier write has already reached its home. -/
def execFence (g : Nat) (i : Ins) (s : State) : Host.Outcome State Fault Refusal :=
  .next (s.issue ⟨8, some 1⟩ g i true [] 0x7F false
    (fun _ => if bits i.md 0 2 == 3 || bits i.md 2 3 > 4 || !ordOk i || ordOf i == 0 then some 1 else none)
    (fun s e => if ordOf i % 2 = 1 ∧ bits i.md 0 2 ≠ 1 then s.acquire e (scopeOf i) else s))

/-- The Tally that an instruction names; one above 8191, or outside the partition, faults the context (R237). -/
def State.tlyArg (s : State) (e : GEnv) (i : Ins) : State × Option Nat :=
  let t := e.grp.s32 i i.src0
  if s.tallyOk (s.partOf e.grp.ctx) t then (s, some t)
  else (s.ctxFault e.grp.ctx 0xC1 0 (clusterOf e.id) (trapDetail e.grp.pc e.id), none)

/-- TLY.WAIT (R238). -/
def execTlyWait (g : Nat) (i : Ins) (s : State) : Host.Outcome State Fault Refusal :=
  .next (s.issue ⟨8, some 2⟩ g i true [⟨i.dst, .s, 1⟩, ⟨i.src0, .s, 1⟩, ⟨i.src1, .s, 2⟩] 0 false
    (fun _ => if !ordOk i || bits i.x 16 16 != 0 || !(scopeOf i == 3 || scopeOf i == 4) then some 1 else none)
    (fun s e =>
      match s.tlyArg e i with
      | (s, none) => s
      | (s, some t) =>
        let d := i.dst - 0x100
        let tmo := bits i.x 0 16
        let (s, now) := s.addWait t (e.grp.s64 i i.src1) (.group g)
        if now then (s.updGrp g (fun x => x.ws d (b2n (s.poisoned t)))).acquire e (scopeOf i)
        else
          s.updGrp g (fun x => { x with wait := .tally d (if tmo = 0 then none else some (s.now + tmo * 1000)) })))

/-- TLY_WAIT_TIMEOUT: the TIMEOUT of a group's wait expires and it returns status 2 (R238). -/
def execTlyWaitTimeout (g : Nat) (s : State) : Host.Outcome State Fault Refusal :=
  match s.sh.grps.get? g with
  | none => .next s
  | some x => match x.wait with
    | .tally d (some t) =>
      if s.now < t then .next s
      else .next ((s.dropWaits (.group g)).updGrp g (fun x => { x.ws d 2 with wait := .none }))
    | _ => .next s

/-- TLY.SIGNAL (R239). -/
def execTlySignal (g : Nat) (i : Ins) (s : State) : Host.Outcome State Fault Refusal :=
  .next (s.issue ⟨8, some 3⟩ g i true [⟨i.src0, .s, 1⟩, ⟨i.src1, .s, 2⟩] 0 false
    (fun _ => if !ordOk i || bits i.x 0 32 != 0 || !(scopeOf i == 3 || scopeOf i == 4) then some 1 else none)
    (fun s e => match s.tlyArg e i with
      | (s, none) => s
      | (s, some t) => s.signal t (e.grp.s64 i i.src1)))

/-- TLY.READ (R237). -/
def execTlyRead (g : Nat) (i : Ins) (s : State) : Host.Outcome State Fault Refusal :=
  .next (s.issue ⟨8, some 4⟩ g i true [⟨i.dst, .s, 2⟩, ⟨i.src0, .s, 1⟩] 0 false
    (fun _ => if !ordOk i || bits i.x 0 32 != 0 then some 1 else none)
    (fun s e => match s.tlyArg e i with
      | (s, none) => s
      | (s, some t) =>
        let s := s.updGrp g (fun x => x.ws2 (i.dst - 0x100) (s.tval t))
        if ordOf i = 1 then s.acquire e (scopeOf i) else s))

end Sys2Proof.Machine
end

