-- ==== Sys2Proof/Machine/ShMem.lean ====
section
/-! DEFINITION. The loads, stores and atomics of the MEM and ATOM classes (R228 to R236). -/

namespace Sys2Proof.Machine

/-- OFFSET of an access (R228). -/
def offOf (i : Ins) : Int := toSigned 32 i.x

/-- The address of a lane (R230): 64 bits in the global space, else 32. -/
def laneAddr (x : Grp) (i : Ins) (lane : Nat) : Nat :=
  if bits i.md 0 2 = 0 then
    if bit i.md 6 then ofSigned 64 ((x.src i .u64 64 i.src1 lane + x.src i .u32 32 i.src0 lane : Nat) + offOf i)
    else ofSigned 64 ((x.src i .u64 64 i.src0 lane : Nat) + offOf i)
  else ofSigned 32 ((x.src i .u32 32 i.src0 lane : Nat) + offOf i)

/-- The operands of an address (R228). -/
def addrOpds (i : Ins) : List Opd :=
  if bits i.md 0 2 = 0 then
    if bit i.md 6 then [⟨i.src0, .any, 1⟩, ⟨i.src1, .s, 2⟩] else [⟨i.src0, .any, 2⟩]
  else [⟨i.src0, .any, 1⟩]

/-- The trap of an access of `n` bytes by the active lanes (R223, R230): MISALIGNED, LOCAL_RANGE, SCRATCH_RANGE. -/
def accTrap (e : GEnv) (i : Ins) (n : Nat) : Option Nat :=
  let as := (e.grp.lanesOf i).map (laneAddr e.grp i)
  let sp := bits i.md 0 2
  if as.any (fun a => a % n != 0) then some 3
  else if sp = 1 ∧ as.any (fun a => a + n > e.disp.kd.localBytes) then some 4
  else if sp = 2 ∧ as.any (fun a => a + n > e.disp.kd.scratchBytes) then some 5
  else none

/-- The virtual address of a lane's access in the global or scratch space. -/
def GEnv.memVa (e : GEnv) (i : Ins) (lane : Nat) : Nat :=
  if bits i.md 0 2 = 2 then e.scratchVa lane (laneAddr e.grp i lane) else laneAddr e.grp i lane

/-- The watchpoint that the lanes of an access hit. -/
def State.wpLanes (s : State) (e : GEnv) (i : Ins) (kind n : Nat) : Option Nat :=
  if bits i.md 0 2 = 1 then none else s.wpHit e kind ((e.grp.lanesOf i).map (fun l => (e.memVa i l, n)))

/-- Bytes of a SIZE code (R228). -/
def sizeBytes (i : Ins) : Nat := 2 ^ bits i.md 2 3

/-- Registers of a SIZE code. -/
def sizeRegs (i : Ins) : Nat := (sizeBytes i + 3) / 4

/-- The fields of R228 and R229 are legal for an access; `bad` is the ORDER it may not have. -/
def memIllegal (i : Ins) (bad : Nat) : Bool :=
  bits i.md 0 2 == 3 || bits i.md 2 3 > 4 || bits i.md 7 3 != 0 || (bit i.md 6 && bits i.md 0 2 != 0) || !ordOk i ||
  ordOf i == bad || ordOf i == 3

/-- The loaded bytes as register words, extended to 32 bits (R228). -/
def loadWords (i : Ins) (d : List Byte) : List Nat :=
  let n := sizeBytes i
  if n ≥ 4 then wordsOf d (n / 4)
  else if bit i.md 5 then [ofSigned 32 (toSigned (8 * n) (ofBytes d))] else [ofBytes d]

/-- Write words into consecutive vector registers of a lane. -/
def Grp.putWords (x : Grp) (lane r : Nat) : List Nat → Grp
  | [] => x
  | w :: t => Grp.putWords (x.wv lane r w) lane (r + 1) t

/-- The lanes of a load, in turn; the flag is false after a context fault. -/
def State.loadLanes (e : GEnv) (i : Ins) : List Nat → State → List Nat → Grp → State × Grp × Bool
  | [], s, _, x => (s, x, true)
  | l :: r, s, seen, x =>
    let n := sizeBytes i
    if bits i.md 0 2 = 1 then
      State.loadLanes e i r s seen (x.putWords l i.dst (loadWords i (e.wg.lread (laneAddr e.grp i l) n)))
    else match s.coreRead e.grp.ctx (coreOf e.id) (e.memVa i l) n seen with
      | (s, seen, some d) => State.loadLanes e i r s seen (x.putWords l i.dst (loadWords i d))
      | (s, _, none) => (s, x, false)

/-- LD (R229 to R232): each active lane loads SIZE bytes. -/
def execLd (g : Nat) (i : Ins) (s : State) : Host.Outcome State Fault Refusal :=
  .next (s.issue ⟨6, some 0⟩ g i false (⟨i.dst, .v, sizeRegs i⟩ :: addrOpds i) 0x7F false
    (fun e => if memIllegal i 2 then some 1 else accTrap e i (sizeBytes i))
    (fun s e => match s.wpLanes e i 0 (sizeBytes i) with
      | some k => s.wpTake e i k
      | none => match State.loadLanes e i (e.grp.lanesOf i) s [] e.grp with
        | (s, x, true) =>
          let s := s.setGrp g x
          if ordOf i = 1 ∧ bits i.md 0 2 ≠ 1 then s.acquire e (scopeOf i) else s
        | (s, _, false) => s))

/-- The bytes that a lane stores. -/
def storeBytes (x : Grp) (i : Ins) (lane : Nat) : List Byte :=
  ((List.range (sizeRegs i)).flatMap (fun k => leBytes 4 (x.rv lane (i.src2 + k)))).take (sizeBytes i)

/-- The lanes of a store, ascending, so that the highest lane's byte stands (R231). -/
def State.storeLanes (e : GEnv) (i : Ins) : List Nat → State → State
  | [], s => s
  | l :: r, s =>
    if bits i.md 0 2 = 1 then
      State.storeLanes e i r (s.updWg e.grp.wg (fun w => w.lwrite (laneAddr e.grp i l) (storeBytes e.grp i l)))
    else match s.coreWrite e.grp.ctx (coreOf e.id) (e.memVa i l) (storeBytes e.grp i l) with
      | (s, true) => State.storeLanes e i r s
      | (s, false) => s

/-- ST (R229 to R232): each active lane stores SIZE bytes. -/
def execSt (g : Nat) (i : Ins) (s : State) : Host.Outcome State Fault Refusal :=
  .next (s.issue ⟨6, some 1⟩ g i false (⟨i.src2, .v, sizeRegs i⟩ :: addrOpds i) 0x7F false
    (fun e => if memIllegal i 1 then some 1 else accTrap e i (sizeBytes i))
    (fun s e => match s.wpLanes e i 1 (sizeBytes i) with
      | some k => s.wpTake e i k
      | none => State.storeLanes e i (e.grp.writers i) s))

/-- SLD (R229): a scalar load of 1, 2, 4, 8 or 16 words. -/
def execSld (g : Nat) (i : Ins) (s : State) : Host.Outcome State Fault Refusal :=
  let n := i.src1 - 0x1C0
  .next (s.issue ⟨6, some 2⟩ g i true [⟨i.dst, .s, n⟩, ⟨i.src0, .s, 2⟩] 0x7F false
    (fun e => if memIllegal i 2 || bits i.md 0 2 != 0 || i.src1 < 0x1C0 || !(n == 1 || n == 2 || n == 4 || n == 8 || n == 16) then some 1
      else if ofSigned 64 ((e.grp.s64 i i.src0 : Nat) + offOf i) % 4 ≠ 0 then some 3 else none)
    (fun s e =>
      let a := ofSigned 64 ((e.grp.s64 i i.src0 : Nat) + offOf i)
      match s.wpHit e 0 [(a, 4 * n)] with
      | some k => s.wpTake e i k
      | none => match s.coreRead e.grp.ctx (coreOf e.id) a (4 * n) with
        | (s, _, none) => s
        | (s, _, some d) =>
          let s := s.updGrp g (fun x => (List.range n).foldl (fun x k => x.ws (i.dst - 0x100 + k) (field d (4 * k) 4)) x)
          if ordOf i = 1 then s.acquire e (scopeOf i) else s))

/-! ### Atomics -/

/-- The atomic operations (R233). -/
inductive Atom where
  | add | sub | minS | minU | maxS | maxU | and | or | xor | swap | cas | faddF32 | faddF64 | fminF32 | fmaxF32
  deriving DecidableEq, Repr

/-- Floating-point addition of a step of R236: any NaN gives the canonical quiet NaN. -/
def atomFadd (f : Fmt) (a b : Nat) : Nat := if f.isNaN a || f.isNaN b then f.qnan else (f.add a b).1

/-- minimumNumber and maximumNumber of a step (R233), -0 below +0; two NaNs give the canonical quiet NaN. -/
def atomFmin (mx : Bool) (a b : Nat) : Nat :=
  if fp32.isNaN a && fp32.isNaN b then fp32.qnan else (fp32.minNum mx a b).1

/-- What memory becomes (R233): `w` bits, the old value, the operand, and for CAS the new value. -/
def Atom.apply (op : Atom) (w old x new : Nat) : Nat :=
  let m := 2 ^ w
  match op with
  | .add => (old + x) % m
  | .sub => (old + m - x) % m
  | .minS => if toSigned w x < toSigned w old then x else old
  | .minU => min old x
  | .maxS => if toSigned w old < toSigned w x then x else old
  | .maxU => max old x
  | .and => old &&& x
  | .or => old ||| x
  | .xor => old ^^^ x
  | .swap => x
  | .cas => if old = x then new else old
  | .faddF32 => atomFadd fp32 old x
  | .faddF64 => atomFadd fp64 old x
  | .fminF32 => atomFmin false old x
  | .fmaxF32 => atomFmin true old x

/-- OP of an atomic (R233). -/
def Atom.code : Atom → Nat
  | .add => 0x00 | .sub => 0x01 | .minS => 0x02 | .minU => 0x03 | .maxS => 0x04 | .maxU => 0x05 | .and => 0x06 | .or => 0x07
  | .xor => 0x08 | .swap => 0x09 | .cas => 0x0A | .faddF32 => 0x10 | .faddF64 => 0x11 | .fminF32 => 0x12 | .fmaxF32 => 0x13

/-- PCIe carries the operation (R45). -/
def Atom.host : Atom → Bool
  | .add | .swap | .cas => true
  | _ => false

/-- Another device's memory: reachable over Pexlink, and neither the host's nor this device's. -/
def State.farPa (s : State) (pa : Nat) : Bool := bits pa 48 2 != 3 && bits pa 48 2 != s.dev && s.reachable (bits pa 48 2)

/-- The first lane's atomic of an address group on memory (R234, R235): the old value, or none after a context fault. On another
device's memory the whole group, whose operands are `xs`, is one operation of the home device's slice: one request goes there, and
the value it found comes back. -/
def State.atomLane (s : State) (e : GEnv) (op : Atom) (va w x new : Nat) (xs : List Nat) : State × Option (Nat × Bool) :=
  let c := e.grp.ctx
  match s.translate c va 2 (coreTlb (coreOf e.id)) with
  | (s, none) => (s, none)
  | (s, some (pa, cache)) =>
    let n := w / 8
    if inAperture pa then (s.accFault c 0xC5 (coreTlb (coreOf e.id)) va 2, none)
    else if bits pa 48 2 = 3 ∧ !s.bus.atomicOps then (s.accFault c 0xA2 (coreTlb (coreOf e.id)) va 2, none)
    else if s.farPa pa then
      let (s, bad) := s.pxlReq (bits pa 48 2) 0 (pa :: n :: op.code :: xs)
      let (bs, s) := s.freeBytes 2 n
      if bad then (s.accFault c 0xC0 (coreTlb (coreOf e.id)) va 2, none) else (s, some (ofBytes bs, true))
    else match s.physRead pa n (if bits pa 48 2 = 3 then 3 else cache) with
      | (s, d, 0) =>
        let old := ofBytes d
        match s.physWrite pa (if bits pa 48 2 = 3 then 3 else cache) (leBytes n (op.apply w old x new)) with
        | (s, 0) =>
          ({ s with sh := { s.sh with l1 := s.sh.l1.filter (fun l => !(l.core == coreOf e.id && l.key == pa / 128)) } }, some (old, false))
        | (s, er) => (s.accFault c er (coreTlb (coreOf e.id)) va 2, none)
      | (s, _, er) => (s.accFault c er (coreTlb (coreOf e.id)) va 2, none)

/-- The operands of the lanes that name the address `a`, for one request to another device. -/
def atomOperands (e : GEnv) (i : Ins) (w a : Nat) (ls : List Nat) : List Nat :=
  (ls.filter (fun l => laneAddr e.grp i l == a)).flatMap
    (fun l => [e.grp.src i .u64 w i.src2 l, e.grp.src i .u64 w (i.src2 + w / 32) l])

/-- The lanes of an atomic, ascending (R235); local store for SPACE 1. `far` holds, for each address on another device whose group
was sent there, what its next lane finds. -/
def State.atomLanes (e : GEnv) (i : Ins) (op : Atom) (w : Nat) : List Nat → State → Grp → NMap Nat → State × Grp × Bool
  | [], s, x, _ => (s, x, true)
  | l :: r, s, x, far =>
    let v := e.grp.src i .u64 w i.src2 l
    let nw := e.grp.src i .u64 w (i.src2 + w / 32) l
    let a := laneAddr e.grp i l
    let ret (x : Grp) (old : Nat) : Grp := if bit i.md 3 then x.dst w i.dst l old else x
    if bits i.md 0 2 = 1 then
      match s.sh.wgs.get? e.grp.wg with
      | none => (s, x, false)
      | some wg =>
        let old := ofBytes (wg.lread a (w / 8))
        State.atomLanes e i op w r (s.updWg e.grp.wg (fun wg => wg.lwrite a (leBytes (w / 8) (op.apply w old v nw)))) (ret x old) far
    else match far.get? a with
      | some old => State.atomLanes e i op w r s (ret x old) (far.put a (op.apply w old v nw))
      | none => match s.atomLane e op a w v nw (atomOperands e i w a (l :: r)) with
        | (s, some (old, sent)) => State.atomLanes e i op w r s (ret x old) (if sent then far.put a (op.apply w old v nw) else far)
        | (s, none) => (s, x, false)

/-- Some active lane names a host page: each lane is translated first, so that a HOST_ATOMIC fault lets no lane take
effect (R234). -/
def State.atomHost (e : GEnv) (i : Ins) : List Nat → State → State × Bool
  | [], s => (s, false)
  | l :: r, s =>
    match s.translate e.grp.ctx (laneAddr e.grp i l) 2 (coreTlb (coreOf e.id)) with
    | (s, some (pa, _)) => if bits pa 48 2 = 3 then (s, true) else State.atomHost e i r s
    | (s, none) => (s, false)

/-- An atomic instruction (R233 to R236). `ws` are the widths that its table row allows. -/
def State.atom (s : State) (g : Nat) (i : Ins) (op : Atom) (w32 w64 : Bool) : State :=
  let w := if bit i.md 2 then 64 else 32
  s.issue ⟨7, some op.code⟩ g i false ((if bit i.md 3 then [⟨i.dst, .v, w / 32⟩] else []) ++
      [⟨i.src2, if op = .cas then .v else .any, if op = .cas then w / 16 else w / 32⟩] ++ addrOpds i) 0x4F false
    (fun e => if bits i.md 0 2 ≥ 2 || (bit i.md 6 && bits i.md 0 2 != 0) || !ordOk i || (ordOf i == 1 && !bit i.md 3) ||
        (w == 32 && !w32) || (w == 64 && !w64) then some 1 else accTrap e i (w / 8))
    (fun s e => match s.wpLanes e i 2 (w / 8) with
      | some k => s.wpTake e i k
      | none =>
        let (s, h) := if bits i.md 0 2 = 0 ∧ !op.host then State.atomHost e i (e.grp.writers i) s else (s, false)
        if h then s.ctxFault e.grp.ctx 0x33 0 (clusterOf g) (trapDetail e.grp.pc g)
        else if !s.ctxActive e.grp.ctx then s
        else match State.atomLanes e i op w (e.grp.writers i) s e.grp [] with
          | (s, x, true) =>
            let s := s.setGrp g x
            if ordOf i % 2 = 1 ∧ bits i.md 0 2 = 0 then s.acquire e (scopeOf i) else s
          | (s, _, false) => s)

/-- ATOM ADD (R233). -/
def execAtomAdd (g : Nat) (i : Ins) (s : State) : Host.Outcome State Fault Refusal := .next (s.atom g i .add true true)
/-- ATOM SUB (R233). -/
def execAtomSub (g : Nat) (i : Ins) (s : State) : Host.Outcome State Fault Refusal := .next (s.atom g i .sub true true)
/-- ATOM MIN.S (R233). -/
def execAtomMinS (g : Nat) (i : Ins) (s : State) : Host.Outcome State Fault Refusal := .next (s.atom g i .minS true true)
/-- ATOM MIN.U (R233). -/
def execAtomMinU (g : Nat) (i : Ins) (s : State) : Host.Outcome State Fault Refusal := .next (s.atom g i .minU true true)
/-- ATOM MAX.S (R233). -/
def execAtomMaxS (g : Nat) (i : Ins) (s : State) : Host.Outcome State Fault Refusal := .next (s.atom g i .maxS true true)
/-- ATOM MAX.U (R233). -/
def execAtomMaxU (g : Nat) (i : Ins) (s : State) : Host.Outcome State Fault Refusal := .next (s.atom g i .maxU true true)
/-- ATOM AND (R233). -/
def execAtomAnd (g : Nat) (i : Ins) (s : State) : Host.Outcome State Fault Refusal := .next (s.atom g i .and true true)
/-- ATOM OR (R233). -/
def execAtomOr (g : Nat) (i : Ins) (s : State) : Host.Outcome State Fault Refusal := .next (s.atom g i .or true true)
/-- ATOM XOR (R233). -/
def execAtomXor (g : Nat) (i : Ins) (s : State) : Host.Outcome State Fault Refusal := .next (s.atom g i .xor true true)
/-- ATOM SWAP (R233). -/
def execAtomSwap (g : Nat) (i : Ins) (s : State) : Host.Outcome State Fault Refusal := .next (s.atom g i .swap true true)
/-- ATOM CAS (R233). -/
def execAtomCas (g : Nat) (i : Ins) (s : State) : Host.Outcome State Fault Refusal := .next (s.atom g i .cas true true)
/-- ATOM FADD.F32 (R233, R236). -/
def execAtomFaddF32 (g : Nat) (i : Ins) (s : State) : Host.Outcome State Fault Refusal := .next (s.atom g i .faddF32 true false)
/-- ATOM FADD.F64 (R233, R236). -/
def execAtomFaddF64 (g : Nat) (i : Ins) (s : State) : Host.Outcome State Fault Refusal := .next (s.atom g i .faddF64 false true)
/-- ATOM FMIN.F32 (R233, R236). -/
def execAtomFminF32 (g : Nat) (i : Ins) (s : State) : Host.Outcome State Fault Refusal := .next (s.atom g i .fminF32 true false)
/-- ATOM FMAX.F32 (R233, R236). -/
def execAtomFmaxF32 (g : Nat) (i : Ins) (s : State) : Host.Outcome State Fault Refusal := .next (s.atom g i .fmaxF32 true false)

end Sys2Proof.Machine
end

