-- ==== Sys2Proof/Machine/ShMtx.lean ====
section
/-! DEFINITION. The group matrix instructions of the MTX class (R243 to R247), and the sum of products that they share
with the Looms (R270 to R276). -/

namespace Sys2Proof.Machine

/-- An operand element of a matrix product: its format, numbered as the Looms' OFMT (R287) with 9 for INT4, its code,
and the exponent byte of its SB4 block. -/
structure MElt where
  c : Nat
  w : Nat
  x : Nat := 0
  deriving DecidableEq, Repr

/-- The element type of a format number. -/
def fmtTy (c : Nat) : NTy :=
  if c = 0 then .f32 else if c = 1 then .bf16 else if c = 2 then .f16 else if c = 3 then .sf84 else if c = 4 then .sf85
  else if c = 5 then .sf6 else if c = 6 then .i8 else if c = 7 then .i32 else .i4

/-- Bits of an element of a format number in memory (R262, R264). -/
def fmtBits (c : Nat) : Nat := [32, 16, 16, 8, 8, 6, 8, 32, 4, 4].getD c 0

/-- An element code is a subnormal number of its floating type. -/
def NTy.subnormal (t : NTy) (w : Nat) : Bool :=
  match t.fmt? with
  | some f => f.expo w == 0 && f.frac w != 0
  | none => match t.sf? with
    | some f => bits w f.mb f.eb == 0 && bits w 0 f.mb != 0
    | none => false

/-- A subnormal element is read as zero of its sign in the flush mode (R270): the code, and whether it was replaced. -/
def NTy.flushed (t : NTy) (flush : Bool) (w : Nat) : Nat × Bool :=
  if flush && t.subnormal w then
    (match t.fmt? with
     | some f => (f.zero (f.sign w), true)
     | none => (0, true))
  else (w, false)

/-- The element as the array reads it; SB4 elements are not affected (R270). -/
def MElt.flush (e : MElt) (flush : Bool) : MElt × Bool :=
  if e.c = 8 then (e, false) else let r := (fmtTy e.c).flushed flush e.w; ({ e with w := r.1 }, r.2)

/-- What an element is worth (R259 to R264), and the exponent that aligns it (R272). -/
def MElt.val (e : MElt) : NVal × Int :=
  if e.c = 8 then
    if e.x = 255 then (.nan false false none, 0)
    else
      let q : Int := bits e.w 0 3
      (.num ⟨if bit e.w 3 then -q else q, (e.x : Int) - 129⟩ false, (e.x : Int) - 129)
  else ((fmtTy e.c).decode e.w, (fmtTy e.c).expOf e.w)

/-- A product of two elements. -/
inductive Prod where
  | nan | inf (s : Bool) | fin (t : Term)
  deriving DecidableEq, Repr

/-- The exact product (R272, R274). -/
def prodOf (a b : MElt) : Prod :=
  let (u, eu) := a.val
  let (v, ev) := b.val
  match u, v with
  | .nan .., _ => .nan
  | _, .nan .. => .nan
  | .inf s, .inf r => .inf (s != r)
  | .inf s, .num v _ => if v.m = 0 then .nan else .inf (s != (v.m < 0))
  | .num v _, .inf s => if v.m = 0 then .nan else .inf (s != (v.m < 0))
  | .num v _, .num w _ => .fin ⟨v.mul w, eu + ev⟩

/-- A number that names the operands of a sum, for the free values that depend on them. -/
def sumKey (tag : Nat) (l : List Nat) : Nat := l.foldl (fun k x => k * 2 ^ 32 + x) tag

/-- A number that names an element; a zero of an SB4 block is one operand whatever the block's exponent. -/
def MElt.key (e : MElt) : Nat := e.c * 2 ^ 24 + (if e.c = 8 ∧ e.x ≠ 255 ∧ bits e.w 0 3 = 0 then 0 else e.x * 2 ^ 16 + e.w)

/-- The products of a slice, subnormal elements flushed where `flush`. -/
def prodsOf (flush : Bool) (sl : List (MElt × MElt)) : List Prod := sl.map (fun p => prodOf (p.1.flush flush).1 (p.2.flush flush).1)

/-- The finite products of a slice. -/
def termsOf (ps : List Prod) : List Term :=
  ps.filterMap (fun p => match p with
    | .fin x => some x
    | _ => none)

/-- What T_j, an accumulator's FP32 code plus a slice of products, comes to (R274): a NaN, an infinity, or a number, by the model of
R272 and R273. -/
inductive SliceSum where
  | nan | inf (s : Bool) | fin (v : Dy)

/-- The sum T_j of a slice: a NaN operand, an infinity times zero or opposite infinities give a NaN; otherwise an infinity stands. An
accumulator that an earlier slice has made infinite is an infinity of the sum. -/
def sliceSum (F : Nat) (acc : Nat) (ps : List Prod) : SliceSum :=
  let infs := (if fp32.isInf acc then [fp32.sign acc] else []) ++
    ps.filterMap (fun p => match p with
      | .inf s => some s
      | _ => none)
  if fp32.isNaN acc || ps.contains .nan || (infs.contains true && infs.contains false) then .nan
  else match infs with
    | s :: _ => .inf s
    | [] => .fin ((fp32.val acc).add (sumDy ((chunksOf 16 (ps.length + 1) (termsOf ps)).map (fun g => (groupSum F g).1))))

/-- D_j, the rounding of T_j (R274), and whether it was flushed (R270). -/
def SliceSum.round (flush : Bool) : SliceSum → Nat × Bool
  | .nan => (fp32.qnan, false)
  | .inf s => (fp32.inf s, false)
  | .fin v => if v.m = 0 then (0, false) else rndAcc flush v

/-- The accumulation of slices by the model of R272 to R274: the FP32 code, whether a result before the last was flushed, and
whether the last was. -/
def modelAcc (F : Nat) (flush : Bool) (acc : Nat) : List (List Prod) → Nat × Bool × Bool
  | [] => (acc, false, false)
  | ps :: r =>
    let (w, fl) := (sliceSum F acc ps).round flush
    match r with
    | [] => (w, false, fl)
    | _ => let (x, fe, fx) := modelAcc F flush w r; (x, fl || fe, fx)

/-- A result of an FP32 rounding as the flush mode writes it: the code, and whether it was replaced (R270). -/
def flushRes (flush : Bool) (w : Nat) : Nat × Bool := NTy.flushed .f32 flush w

/-- A matrix result: the device promises the bound, and the same bits for the same operands (R275, R276). The free candidate is
what the last rounding gives, flushed as the mode says; it stands where the result lies within the bound. Else the model's own
result does, as it does where that is no number. The flag tells of a flush. -/
def accPick (kind key : Nat) (F : Nat) (flush : Bool) (acc : Nat) (slices : List (List Prod)) : Nat × Bool :=
  let (w, fe, fl) := modelAcc F flush acc slices
  if fp32.isInf w || fp32.isNaN w then (w, fe || fl)
  else
    let ts := slices.map termsOf
    let x := (fp32.val acc).add (sumDy (ts.flatMap (fun sl => sl.map (·.v))))
    let c0 := Config.freeNat kind key % 2 ^ 32
    let (c, fc) := flushRes flush c0
    if !fp32.isNaN c && !fp32.isInf c && ((fp32.val c).add x.neg).abs.le (accBound F flush (fp32.val acc) ts) then (c, fe || fc)
    else (w, fe || fl)

/-- An operand of a sum was flushed (R270). -/
def opFlushed (flush : Bool) (slices : List (List (MElt × MElt))) : Bool :=
  slices.any (fun sl => sl.any (fun p => (p.1.flush flush).2 || (p.2.flush flush).2))

/-- The key of a sum's free value. -/
def dotKey (tag : Nat) (flush : Bool) (acc : Nat) (slices : List (List (MElt × MElt))) : Nat :=
  sumKey (2 * tag + 2 + b2n flush) (acc :: slices.flatMap (fun sl =>
    sl.length :: sl.flatMap (fun p => [((p.1.flush flush).1).key, ((p.2.flush flush).1).key])))

/-- The sum of an FP32 accumulator and slices of products with `F` fraction bits, rounded once per slice (R274): the FP32
code, and whether an operand or a result was flushed. -/
def dotSum (kind F : Nat) (flush : Bool) (acc : Nat) (slices : List (List (MElt × MElt))) : Nat × Bool :=
  let (acc', fc) := NTy.flushed .f32 flush acc
  let (w, fr) := accPick kind (dotKey F flush acc' slices) F flush acc' (slices.map (prodsOf flush))
  (w, fc || opFlushed flush slices || fr)

/-- An integer sum of products, modulo 2^32 (R245). -/
def dotInt (acc : Nat) (l : List (Nat × Nat)) : Nat :=
  ofSigned 32 (l.foldl (fun s p => s + toSigned 8 p.1 * toSigned 8 p.2) (acc : Int))

/-- Element `k` of a row of A held in 8 registers of a lane (R244). -/
def Grp.aElt (x : Grp) (lane r size k : Nat) : Nat :=
  let per := 32 / size
  bits (x.rv lane (r + k / per)) (size * (k % per)) size

/-- The 16 results of a lane in a GMMA with elements of format `c4`, numbered as the Looms' OFMT, and whether each flushed:
row `l` of A from the lane's registers, B as the group reads it, C from the lane's registers or zero (R243 to R246). -/
def Grp.gmmaRow (x : Grp) (i : Ins) (c4 : Nat) (B : List Byte) (l : Nat) : List (Nat × Bool) :=
  let cz := bit i.md 0
  let sz := fmtBits c4
  let n8 := sz / 8
  (List.range 16).map (fun n =>
    let c := if cz then 0 else x.rv l (i.src2 + n)
    let ps := (List.range (256 / sz)).map (fun k => (x.aElt l i.src0 sz k, field B ((16 * k + n) * n8) n8))
    if c4 = 6 then (dotInt c ps, false)
    else dotSum 21 (if c4 = 2 then 23 else 17) (bit x.status 9) c [ps.map (fun p => ({ c := c4, w := p.1 }, { c := c4, w := p.2 }))])

/-- The operands of a GMMA. -/
def gmmaOpds (i : Ins) : List Opd :=
  [⟨i.dst, .v, 16⟩, ⟨i.src0, .v, 8⟩, ⟨i.src1, .s, 1⟩] ++ if bit i.md 0 then [] else [⟨i.src2, .v, 16⟩]

/-- Why a GMMA traps: an overlap or a reserved form, lanes that have diverged, or the place of B, in R223's order (R243, R246). -/
def gmmaTrap (i : Ins) (e : GEnv) : Option Nat :=
  let a := e.grp.s32 i i.src1
  if i.x ≠ 0 || (bit i.md 0 && i.src2 != 0) || (i.dst < i.src0 + 8 && i.src0 < i.dst + 16) then some 1
  else if e.grp.active i ≠ 0xFFFFFFFF ∧ ¬ bit e.grp.status 8 then some 2
  else if a % 128 ≠ 0 then some 3
  else if a + 512 > e.disp.kd.localBytes then some 4
  else none

/-- A GMMA with elements of format `c4` (R243 to R246). -/
def State.gmma (s : State) (op : Nat) (g : Nat) (i : Ins) (c4 : Nat) : State :=
  s.issue ⟨0xB, some op⟩ g i false (gmmaOpds i) 1 false (gmmaTrap i)
    (fun s e =>
      let s := s.pmu 4 (clusterOf g) e.disp.part
      let x := e.grp
      let rows := (x.lanesOf i).map (fun l => (l, x.gmmaRow i c4 (e.wg.lread (x.s32 i i.src1) 512) l))
      let y := rows.foldl (fun y r => y.putWords r.1 i.dst (r.2.map (·.1))) x
      s.setGrp g (if rows.any (fun r => r.2.any (·.2)) then { y.fl 32 with gmmaAt := some s.now } else y))

/-- GMMA.BF16 (R243). -/
def execGmmaBf16 (g : Nat) (i : Ins) (s : State) : Host.Outcome State Fault Refusal := .next (s.gmma 0 g i 1)
/-- GMMA.F16 (R243). -/
def execGmmaF16 (g : Nat) (i : Ins) (s : State) : Host.Outcome State Fault Refusal := .next (s.gmma 1 g i 2)
/-- GMMA.SF84 (R243). -/
def execGmmaSf84 (g : Nat) (i : Ins) (s : State) : Host.Outcome State Fault Refusal := .next (s.gmma 2 g i 3)
/-- GMMA.SF85 (R243). -/
def execGmmaSf85 (g : Nat) (i : Ins) (s : State) : Host.Outcome State Fault Refusal := .next (s.gmma 3 g i 4)
/-- GMMA.I8 (R243, R245). -/
def execGmmaI8 (g : Nat) (i : Ins) (s : State) : Host.Outcome State Fault Refusal := .next (s.gmma 4 g i 6)

end Sys2Proof.Machine
end

