-- ==== Sys2Proof/Machine/Compute.lean ====
section
/-! DEFINITION. Compute dispatches: the kernel descriptor, placement (R183 to R190), and stopping and restoring
workgroups (R209 to R211, R449 to R457). -/

namespace Sys2Proof.Machine

/-! ### Units that take no new work -/

/-- A test of a cluster that waits until the cluster's work has been stopped: the trigger is its corrected errors (R607). -/
def Test.stops (t : Test) : Bool := t.typ == 0 && t.trigger == 0xC1

/-- The Assayer tests a unit, or holds a request to: the unit does nothing in the meantime (R606). Types as ASY_STATUS. -/
def State.tested (s : State) (typ unit : Nat) : Bool :=
  s.asy.queue.any (fun t => t.typ == typ && t.unit == unit && !t.stops) || match s.asy.running with
    | some t => t.typ == typ && t.unit == unit
    | none => false

/-- A request for a test of the unit waits or runs. -/
def State.testHeld (s : State) (typ unit : Nat) : Bool :=
  s.tested typ unit || s.asy.queue.any (fun t => t.typ == typ && t.unit == unit)

/-- A test joins the requests that wait; one for a unit that already has one is merged. -/
def State.queueTest (s : State) (typ unit trigger inc : Nat) : State :=
  if s.testHeld typ unit then s
  else { s with asy := { s.asy with queue := s.asy.queue ++ [{ typ := typ, unit := unit, trigger := trigger, inc := inc, since := s.now }] } }

/-- The block that is reset before a unit's test (R607), as RST_BLOCK.TYPE. -/
def resetBefore (typ : Nat) : Option Nat := if typ = 0 then some 1 else if typ = 4 then some 5 else if typ = 5 then some 4 else none

/-- A block reset is the one of TYPE, UNIT and CORE. UNIT counts for a core, a cluster and a Loom, CORE for a core. -/
def BlkRst.isFor (r : BlkRst) (typ unit core : Nat) : Bool :=
  r.typ == typ && (typ ≥ 3 || r.unit == unit) && (typ != 0 || r.core == core)

/-- A block reset takes over the self-test that follows an absorbed one. -/
def BlkRst.takeTest (x r : BlkRst) : BlkRst :=
  if r.test && !x.test then { x with test := true, trigger := r.trigger, inc := if x.inc = 0 then r.inc else x.inc } else x

/-- A block reset that the device starts (R577); one of a block that is already resetting is absorbed (R571), and its self-test
follows the reset that runs. -/
def State.startReset (s : State) (r : BlkRst) : State :=
  if s.rsts.any (fun x => x.isFor r.typ r.unit r.core) then
    { s with rsts := s.rsts.map (fun x => if x.isFor r.typ r.unit r.core then x.takeTest r else x) }
  else State.count { s with rsts := s.rsts ++ [r] } RST_CTR.BLOCK_RESETS

/-- A self-test of a unit is requested (R606): a cluster, the Carder with the Shears, and the Glazier are block-reset first,
but for the corrected-error trigger of a cluster (R607). `code` is what contexts with work in the block fault with. -/
def State.askTest (s : State) (typ unit trigger inc : Nat) (code : Nat := 0xB0) : State :=
  match resetBefore typ with
  | some b =>
    if trigger = 0xC1 ∧ typ = 0 then s.queueTest typ unit trigger inc
    else s.startReset { typ := b, unit := unit, since := s.now, code := code, inc := inc, test := true, trigger := trigger }
  | none => s.queueTest typ unit trigger inc

/-- Core `k` of cluster `c` is present and neither in a reset nor under test (R577, R607). -/
def State.coreUp (s : State) (c k : Nat) : Bool :=
  s.present 1 c && !s.rsts.any (fun r => (r.typ == 1 && r.unit == c) || (r.typ == 0 && r.unit == c && r.core == k)) &&
  !s.tested 0 c

/-- Loom `n` is present and neither in a reset nor under test. -/
def State.loomUp (s : State) (n : Nat) : Bool :=
  s.present 3 n && !s.rsts.any (fun r => r.typ == 2 && r.unit == n) && !s.tested 1 n

/-- The clusters of a partition. -/
def State.partClusters (s : State) (p : Nat) : Nat := s.rd FE_PART.CLUSTERS p

/-! ### Realtime holds and stops (R441, R449) -/

/-- Queues whose Realtime job holds its resources. -/
def State.rtHolders (s : State) : List Nat := (s.rt.filter (fun p => p.2.holds)).map (·.1)

/-- A Realtime job holds cluster `c` (R449). -/
def State.rtHoldsCluster (s : State) (c : Nat) : Bool := s.rtHolders.any (fun q => bit (s.rd FE_RT.RT_CLUSTERS q) c)

/-- A Realtime job holds Loom `n` (R449). -/
def State.rtHoldsLoom (s : State) (n : Nat) : Bool := s.rtHolders.any (fun q => bit (s.rd FE_RT.RT_LOOMS q) n)

/-- The running non-Realtime work of cluster `c` is to be stopped: a Realtime job holds it, or its partition's cluster
budget is exhausted with OVERRUN HARD (R441, R449), or a test waits for it (R607). -/
def State.stopCluster (s : State) (c : Nat) : Bool :=
  s.rtHoldsCluster c || s.asy.queue.any (fun t => t.stops && t.unit == c) || match s.ownerOf FE_PART.CLUSTERS c with
    | some p => bit (s.rd FE_BUDGET.EXHAUSTED p) 0 && s.on FE_BUDGET.OVERRUN p
    | none => false

/-! ### The kernel descriptor (R184, R185) -/

/-- Local store of a split. -/
def splitLocal (n : Nat) : Nat := [32, 64, 128, 192].getD n 0 * 1024

/-- The fields of a descriptor's 256 bytes. -/
def kdescOf (b : List Byte) : KDesc :=
  { code := field b 0 8, args := field b 8 8, wgx := field b 0x10 2, wgy := field b 0x12 2, wgz := field b 0x14 2,
    vregs := field b 0x16 2, localBytes := field b 0x18 4, split := field b 0x1C 1, flags := field b 0x1D 1,
    scratchVa := field b 0x20 8, scratchBytes := field b 0x28 4, trapVa := field b 0x30 8, saveVa := field b 0x38 8 }

/-- Threads of a workgroup. -/
def KDesc.threads (k : KDesc) : Nat := k.wgx * k.wgy * k.wgz

/-- Groups of a workgroup (R183). -/
def KDesc.groups (k : KDesc) : Nat := (k.threads + 31) / 32

/-- Bytes of register file that a group takes (R188). -/
def KDesc.regBytes (k : KDesc) : Nat := 128 * k.vregs + 1024

/-- The reserved fields of a descriptor are 0. -/
def kdescRsv (b : List Byte) : Bool := field b 0x1E 2 == 0 && field b 0x2C 4 == 0 && field b 0x40 192 == 0

/-- The rules of R185 on the fields that every stage uses. -/
def KDesc.okRegs (k : KDesc) : Bool :=
  k.vregs ≥ 8 && k.vregs ≤ 256 && k.vregs % 8 == 0 && k.flags < 16 && k.code % 8 == 0 && k.trapVa % 8 == 0 &&
  k.saveVa % 0x1000 == 0 && k.scratchVa % 512 == 0 && k.scratchBytes % 16 == 0 && k.scratchBytes ≤ 65536 &&
  !(k.scratchBytes > 0 && k.scratchVa == 0)

/-- The rules of R185 on the workgroup, its local store and its split. -/
def KDesc.okWg (k : KDesc) : Bool :=
  let dim (n : Nat) : Bool := 1 ≤ n && n ≤ 1024
  dim k.wgx && dim k.wgy && dim k.wgz && k.threads ≤ 1024 && k.split ≤ 3 && k.localBytes % 256 == 0 &&
  k.localBytes ≤ splitLocal k.split && k.groups * k.regBytes ≤ 0x40000

/-- Read a kernel descriptor through an engine; an invalid one faults the context with KDESC_INVALID (R185). -/
def State.readKdesc (s : State) (c eng va : Nat) : State × Option KDesc :=
  match s.vread c eng va 256 with
  | (s, none) => (s, none)
  | (s, some b) =>
    let k := kdescOf b
    if kdescRsv b && k.okRegs && k.okWg then (s, some k) else (s.ctxFault c 0x30 0 eng, none)

/-! ### DISPATCH (R120, R190) -/

/-- A dispatch of a grid starts; an empty grid launches nothing and completes at once. -/
def State.launchGrid (s : State) (sid : Nat) (st : Strm) (p : Pkt) (kva gx gy gz mask : Nat) : State :=
  let c := st.ctx
  let part := s.partOf c
  let own := s.partClusters part
  if mask &&& own ≠ mask then s.ctxFault c 0xC4
  else if gx * gy * gz = 0 then s.donePkt sid p.pid
  else
    let m := if mask = 0 then own else mask
    match s.readKdesc c ((bitList m 48).headD 60) kva with
    | (s, none) => s
    | (s, some k) =>
      let s := if p.acquire then s.pktAcquire c m else s
      let d : Disp := { kind := .compute, ctx := c, part := part, prio := s.strmPrio st, sid := sid, pid := p.pid, kd := k,
                        gx := gx, gy := gy, gz := gz, clusters := m, q := st.q }
      { s with sh := { s.sh with disps := s.sh.disps.put s.sh.nextDisp d, nextDisp := s.sh.nextDisp + 1 } }

/-- DISPATCH (R120). -/
def execDispatch (sid : Nat) (s : State) : Host.Outcome State Fault Refusal :=
  match s.canRun sid 0x10 with
  | none => .next s
  | some (st, p) =>
    .next ((s.dispatch sid st p).launchGrid sid st p (pw2 p.w 1) (pw1 p.w 3) (pw1 p.w 4) (pw1 p.w 5) (pw2 p.w 6))

/-- DISPATCH_INDIRECT: as DISPATCH, with the grid read from memory (R120). -/
def execDispatchIndirect (sid : Nat) (s : State) : Host.Outcome State Fault Refusal :=
  match s.canRun sid 0x11 with
  | none => .next s
  | some (st, p) =>
    .next (State.onRead ((s.dispatch sid st p).vread st.ctx 60 (pw2 p.w 3) 12) (fun s b =>
      s.launchGrid sid st p (pw2 p.w 1) (field b 0 4) (field b 4 4) (field b 8 4) (pw2 p.w 5)))

/-! ### Placement (R186 to R190) -/

/-- The dispatch of a resident workgroup. -/
def State.wgKd (s : State) (w : Wg) : KDesc := ((s.sh.disps.get? w.disp).map (·.kd)).getD {}

/-- Workgroups resident on a core. -/
def State.coreWgs (s : State) (core : Nat) : List (Nat × Wg) := s.sh.wgs.filter (fun p => p.2.cluster * 4 + p.2.core == core)

/-- Free slots of a core, ascending. -/
def State.freeSlots (s : State) (core : Nat) : List Nat := (List.range 48).filter (fun k => (s.sh.grps.get? (core * 48 + k)).isNone)

/-- Register-file bytes in use on a core. -/
def State.coreRegs (s : State) (core : Nat) : Nat :=
  (s.sh.grps.filter (fun p => coreOf p.1 == core)).foldl (fun n p => n + match s.sh.wgs.get? p.2.wg with
    | some w => (s.wgKd w).regBytes
    | none => 0) 0

/-- The split of a core. -/
def State.coreSplit (s : State) (core : Nat) : Nat := s.rd (sclSplit (core % 4)) (core / 4)

/-- A tile being shaded on a core holds its local store at split 3 (R389). -/
def State.coreTiles (s : State) (core : Nat) : Nat := s.sh.tileBytes.foldl (fun n p => if p.1 = core then n + p.2 else n) 0

/-- A workgroup with descriptor `k` and `n` groups fits on a core (R188, R189, R389). -/
def State.coreFits (s : State) (k : KDesc) (n core : Nat) : Bool :=
  let ws := s.coreWgs core
  let empty := ws.isEmpty && !s.sh.tileBytes.any (fun p => p.1 == core)
  s.coreUp (core / 4) (core % 4) && (empty || s.coreSplit core == k.split) &&
  s.coreRegs core + n * k.regBytes ≤ 0x40000 && n ≤ (s.freeSlots core).length &&
  (ws.foldl (fun t p => t + (s.wgKd p.2).localBytes) 0) + s.coreTiles core + k.localBytes ≤ splitLocal k.split

/-- The core of a cluster with the most free slots, among those that fit. -/
def State.bestCore (s : State) (k : KDesc) (n c : Nat) : Option Nat :=
  ([0, 1, 2, 3].filter (fun x => s.coreFits k n (4 * c + x))).foldl (fun b x =>
    match b with
    | none => some x
    | some y => if (s.freeSlots (4 * c + y)).length < (s.freeSlots (4 * c + x)).length then some x else some y) none

/-- Scratch indices held by live groups of a dispatch, resident or saved (R187, R211). -/
def State.scratchUsed (s : State) (d : Nat) : List Nat :=
  (s.sh.grps.filter (fun p => ((s.sh.wgs.get? p.2.wg).map (·.disp)) == some d)).map (fun p => p.2.scratch) ++
  (s.sh.saved.filter (fun w => w.disp == d)).flatMap (fun w => w.groups.map (·.scratch))

/-- The scratch index of a group placed in slot `g` (R187). -/
def State.scratchFor (s : State) (d : Nat) (x : Disp) (g : Nat) : Nat :=
  let used := s.scratchUsed d
  let want := 48 * (4 * popc x.clusters (clusterOf g) + coreOf g % 4) + g % 48
  if used.contains want then ((List.range (192 * popc x.clusters 48)).find? (fun i => !used.contains i)).getD want else want

/-- A core takes a split; when it changes, the lines in the part that moves go (R189). -/
def State.setSplit (s : State) (core split : Nat) : State :=
  if s.coreSplit core = split then s
  else
    let s := s.wr (sclSplit (core % 4)) (core / 4) split
    let mine := s.sh.l1.filter (fun l => l.core == core)
    { s with sh := { s.sh with l1 := l1Ways (s.l1Sets core) mine ++ s.sh.l1.filter (fun l => l.core != core) } }

/-- The initial registers of group `gi` of workgroup `idx` (R186). -/
def initGrp (x : Disp) (idx gi : Nat) (y : Grp) : Grp :=
  let y := (((y.ws2 0 x.kd.args).ws 2 (idx % x.gx)).ws 3 (idx / x.gx % x.gy)).ws 4 (idx / (x.gx * x.gy))
  let y := ((y.ws 5 gi).ws 6 x.kd.groups).ws 7 0
  (bitList y.lanes 32).foldl (fun y l =>
    let t := 32 * gi + l
    (((y.wv l 0 t).wv l 1 (t % x.kd.wgx)).wv l 2 (t / x.kd.wgx % x.kd.wgy)).wv l 3 (t / (x.kd.wgx * x.kd.wgy))) y

/-- Contexts tagged as owners of a core's register file and shared pool. -/
def State.coreTags (s : State) (core : Nat) : List Nat := (s.sh.held.get? core).getD []

/-- What stands in space of a core that context `c` takes: values left by an earlier group of the same context, or 0 where no group
of it has held any since the core was zeroed (R94, R186). -/
def State.leftBy (s : State) (core c : Nat) : Option Nat := if (s.coreTags core).contains c then some s.freeCtr else none

/-- Context `c` holds space of a core. -/
def State.tagCore (s : State) (core c : Nat) : State :=
  if (s.coreTags core).contains c then s else { s with sh := { s.sh with held := s.sh.held.put core (c :: s.coreTags core) } }

/-- A new group of a workgroup in slot `g`, before its registers are set. -/
def State.newGrp (s : State) (wid d : Nat) (x : Disp) (gi lanes g : Nat) : Grp :=
  { wg := wid, ctx := x.ctx, gi := gi, lanes := lanes, bg := s.leftBy (coreOf g) x.ctx, exec := lanes, pc := x.kd.code,
    status := bits x.kd.flags 0 2 * 256, scratch := s.scratchFor d x g, order := s.sh.nextOrder,
    haltReq := x.kd.debug && s.sh.sticky.contains x.ctx }

/-- A group starts. -/
def State.startGrp (s : State) (g : Nat) (y : Grp) : State :=
  { s with freeCtr := s.freeCtr + 1, sh := { s.sh with grps := s.sh.grps.put g y, nextOrder := s.sh.nextOrder + 1 } }

/-- Workgroup `idx` of dispatch `d` starts on a core, its groups in the lowest free slots. -/
def State.placeOn (s : State) (d : Nat) (x : Disp) (core idx n : Nat) (init : Nat → Grp → Grp) (lanes : Nat → Nat) : State :=
  let slots := ((s.freeSlots core).take n).map (fun k => core * 48 + k)
  let wid := s.sh.nextWg
  let w : Wg := {
    disp := d, idx := idx, cluster := core / 4, core := core % 4, slots := slots, groups := n, bg := s.leftBy core x.ctx }
  let s := s.setSplit core x.kd.split
  let s := { s with freeCtr := s.freeCtr + 1, sh := { s.sh with wgs := s.sh.wgs.put wid w, nextWg := wid + 1 } }
  let s := (List.range n).foldl (fun s gi =>
    let g := slots.getD gi 0
    s.startGrp g (init gi (s.newGrp wid d x gi (lanes gi) g))) s
  let s := s.updDisp d (fun x => { x with next := x.next + 1, live := x.live + 1, lastCluster := core / 4 })
  (s.tagCore core x.ctx).sclSync core

/-- Work of a dispatch may be placed on cluster `c` now: Realtime work and the groups of a draw or tile that has begun
(R389) always, other work where no Realtime job holds the
cluster, no Realtime workgroup waits for it, and neither a budget nor SAFE_ACTION HOLD withholds it (R440, R445, R449,
R601). -/
def State.mayPlace (s : State) (x : Disp) (c : Nat) : Bool :=
  x.prio == 3 || (match x.kind with
    | .gfx .. => true
    | _ => false) ||
  (!s.saf.hold && !s.rtHoldsCluster c &&
   !s.sh.disps.any (fun p => p.2.prio == 3 && p.2.part == x.part && p.2.next < p.2.gx * p.2.gy * p.2.gz &&
      bit (s.rd FE_RT.RT_CLUSTERS p.2.q) c && bit p.2.clusters c) &&
   !(bit (s.rd FE_BUDGET.EXHAUSTED x.part) 0 && (match x.kind with
      | .hit _ => false
      | _ => true)))

/-- The core for the next workgroup: clusters in turn after the last one used (R190). -/
def State.placeCore (s : State) (x : Disp) (n : Nat) : Option Nat :=
  let cs := (List.range 48).map (fun i => (x.lastCluster + 1 + i) % 48)
  cs.findSome? (fun c => if bit x.clusters c && s.mayPlace x c then (s.bestCore x.kd n c).map (fun k => 4 * c + k) else none)

/-- A batch of SHADE rays whose hits are all there (R336). -/
def Batch.ready (b : Batch) : Bool := b.rays.isEmpty && b.cmps.isEmpty && !b.hits.isEmpty

/-- The next workgroup of a dispatch can be taken: its context is ACTIVE, its partition is not being reset, none of its
stopped workgroups waits (R211), and no hit-shading group of its rays does (R336). -/
def State.dispReady (s : State) (d : Nat) : Option Disp :=
  match s.sh.disps.get? d with
  | none => none
  | some x =>
    if s.ctxActive x.ctx && !s.fe.held.contains x.part && x.next < x.gx * x.gy * x.gz && !s.sh.saved.any (fun w => w.disp == d) &&
       !s.crd.batches.any (fun b => b.2.ready && b.2.hits.any (·.1.of d))
    then some x else none

/-- The lanes that exist in group `gi` of a workgroup of `t` threads (R183). -/
def lanesFor (t gi : Nat) : Nat := 2 ^ min 32 (t - 32 * gi) - 1

/-! ### Stopping (R209, R210, R226, R452, R457) -/

/-- Resident groups of a workgroup. -/
def State.wgGrps (s : State) (wid : Nat) : List (Nat × Grp) := s.sh.grps.filter (fun p => p.2.wg == wid)

/-- A dispatch without a save area may use its partition's yield area: none other of the partition does (R457). -/
def State.yieldArea (s : State) (d : Nat) (x : Disp) : Bool :=
  s.on FE_BUDGET.YSAVE_PA x.part && x.kd.yields &&
  !s.sh.saved.any (fun w => w.area && w.disp != d && ((s.sh.disps.get? w.disp).map (·.part)) == some x.part) &&
  !s.sh.grps.any (fun p => p.2.preempt && match s.sh.wgs.get? p.2.wg with
    | none => false
    | some w => w.disp != d && match s.sh.disps.get? w.disp with
      | some y => y.part == x.part && y.kd.saveVa == 0
      | none => false)

/-- A tile or a draw of a non-Realtime pass is under way on cluster `c` (R389). -/
def State.gfxOn (s : State) (c : Nat) : Bool :=
  s.gfx.passes.any (fun p => p.2.prio != 3 && p.2.run.any (fun t => t.core / 4 == c)) ||
  s.sh.disps.any (fun d => d.2.prio != 3 && bit d.2.clusters c && match d.2.kind with
    | .gfx stage _ _ => stage != 1
    | _ => false)

/-- A stop of cluster `c` begins: every group of a non-Realtime dispatch that can be stopped has a request (R452 step 1), and
graphics goes on to its next stop (R454). -/
def execPreemptRequest (c : Nat) (s : State) : Host.Outcome State Fault Refusal :=
  if !s.stopCluster c then .next s
  else
    let todo := s.sh.wgs.filter (fun p => p.2.cluster == c && (s.wgGrps p.1).any (fun g => !g.2.preempt))
    let r := todo.foldl (fun (r : State × Bool) p =>
      let s := r.1
      match s.sh.disps.get? p.2.disp with
      | none => r
      | some x =>
        if x.prio = 3 ∨ ¬ x.kind = .compute ∨ (x.kd.saveVa = 0 ∧ ¬ s.yieldArea p.2.disp x) then r
        else
          let s := s.updWg p.1 (fun w => { w with since := s.now })
          ({ s with sh := { s.sh with grps := s.sh.grps.map (fun g => if g.2.wg = p.1 then (g.1, { g.2 with preempt := true }) else g) } },
            true)) (s, false)
    let g := s.gfxOn c && (s.sh.gfxStops.get? c).isNone
    let r := if g then ({ r.1 with sh := { r.1.sh with gfxStops := r.1.sh.gfxStops.put c s.now } }, true) else r
    if r.2 then .next ((r.1.count FE_SCH_CTR.STOPS).trace 3 ((s.ownerOf FE_PART.CLUSTERS c).getD 0xFF) c 0) else .next s

/-- A group has stopped at a YIELD, or waits at a barrier or for a Tally (R226). -/
def Grp.stopped (x : Grp) : Bool :=
  match x.wait with
  | .none => x.ended
  | .loom _ => false
  | .ray => false
  | _ => !x.halted

/-- A workgroup has a pre-emption request. -/
def State.wgAsked (s : State) (wid : Nat) : Bool := (s.wgGrps wid).any (fun p => p.2.preempt)

/-- Every group of a workgroup has stopped, ended or begun a wait, for a yield save (R452 step 2). -/
def State.wgYielded (s : State) (wid : Nat) (w : Wg) : Bool :=
  (s.wgKd w).yields && (s.wgGrps wid).all (fun p => p.2.stopped)

/-- STOP_TIMEOUT: 20 µs after the request, each workgroup of the cluster that has not stopped is stopped whole at an
instruction boundary, where it has a save area (R452 step 3, R210). -/
def execStopTimeout (c : Nat) (s : State) : Host.Outcome State Fault Refusal :=
  .next { s with sh := { s.sh with wgs := s.sh.wgs.map (fun p =>
    if p.2.cluster = c ∧ s.wgAsked p.1 ∧ s.now ≥ p.2.since + 20000 ∧ (s.wgKd p.2).saveVa ≠ 0 ∧ ¬ s.wgYielded p.1 p.2 then
      (p.1, { p.2 with stop := 1 })
    else p) } }

/-- Keep only the live registers of a yield save; the others read 0 after the restore (R226). -/
def Grp.keepLive (x : Grp) (vl sl : Nat) : Grp :=
  let y : Grp := { x with v := [], sg := [], bg := none, yield := none }
  let y := (List.range vl).foldl (fun y r => (List.range 32).foldl (fun y l => y.wv l r (x.rv l r)) y) y
  let y := (List.range sl).foldl (fun y r => y.ws r (x.rs r)) y
  (List.range 8).foldl (fun y r => y.wp r (x.rp r)) y

/-- A group as it resumes: its wait is registered again by the restore, and a debugger's step goes on (R213, R214). -/
def Grp.saved (x : Grp) : Grp :=
  let y := match x.yield with
    | some (vl, sl) => x.keepLive vl sl
    | none => x
  { y with preempt := false, wait := if y.wait = .save then .none else y.wait }

/-- Register blocks of 1 KiB that a group's save writes (R456). -/
def Grp.saveBlocks (x : Grp) (k : KDesc) : Nat :=
  match x.yield with
  | some (vl, sl) => (128 * vl + 4 * sl + 1023) / 1024
  | none => k.regBytes / 1024

/-- Write a piece of a save: to the dispatch's area through the core, or to the yield area (R456, R457). -/
def State.savePiece (s : State) (c eng : Nat) (area : Bool) (a : Nat) (bs : List Byte) : State × Bool :=
  if area then
    match s.physWrite a 0 bs with
    | (s, 0) => (s, true)
    | (s, e) => (s.accFault c e eng a 1, false)
  else s.vwrite c eng a bs

/-- Base of a core's part of a save area (R456). -/
def State.saveBase (s : State) (x : Disp) (area : Bool) (core : Nat) : Nat :=
  if area then
    s.rd FE_BUDGET.YSAVE_PA x.part * 0x1000 + 0x80000 * (4 * popc (s.partClusters x.part) (core / 4) + core % 4)
  else x.kd.saveVa + 0x80000 * (4 * popc x.clusters (core / 4) + core % 4)

/-- Save a stopped workgroup: its image is written with its CRC, and its slots are freed (R452 step 4). The spec gives
the image's regions; bytes of the register and control regions have no stated place and are free values. -/
def State.saveWg (s : State) (wid : Nat) (w : Wg) (x : Disp) : State :=
  let core := w.cluster * 4 + w.core
  let gs := s.wgGrps wid
  let full := w.stop = 1
  let area := x.kd.saveVa = 0
  let prior := s.sh.saved.filter (fun v => v.disp == w.disp && v.cluster == w.cluster && v.core == w.core)
  let b0 := prior.foldl (fun n v => n + v.blocks) 0
  let l0 := prior.foldl (fun n v => n + v.lbytes) 0
  let base := s.saveBase x area core
  let blocks := gs.foldl (fun n g => n + (if full then x.kd.regBytes / 1024 else g.2.saveBlocks x.kd)) 0
  let (regs, s) := s.freeBytes 14 (1024 * blocks)
  let (hdr, s) := s.freeBytes 14 16384
  let (ctl, s) := gs.foldl (fun (r : List (Nat × List Byte) × State) g =>
    let (b, s) := r.2.freeBytes 14 1024
    (r.1 ++ [(base + 0x70000 + 1024 * (g.1 % 48), b)], s)) ([], s)
  let image := (base + 1024 * b0, regs) :: (base + 0x40000 + l0, w.lread 0 x.kd.localBytes) :: ctl
  let (s, ok) := (image ++ [(base + 0x7C000, hdr)]).foldl (fun (r : State × Bool) p =>
    if r.2 then r.1.savePiece x.ctx w.cluster area p.1 p.2 else r) (s, true)
  if !ok then s
  else
    let waits := gs.flatMap (fun g => (s.tly.waits.filter (fun t => t.who == .group g.1)).map (fun t => (g.2.gi, t.tally, t.target)))
    let s := gs.foldl (fun s g => s.dropWaits (.group g.1)) s
    let sv : SavedWg := {
      disp := w.disp, idx := w.idx, cluster := w.cluster, core := w.core,
      groups := gs.map (fun g => if full then { g.2 with yield := none }.saved else g.2.saved), ended := w.ended,
      wgs := { w with stop := 0 }, image := image, crc := crc32c (image.flatMap (·.2)), full := full, area := area,
      blocks := blocks, lbytes := x.kd.localBytes, waits := waits }
    let s := { s with sh := { s.sh with
      grps := s.sh.grps.filter (fun g => g.2.wg != wid), wgs := s.sh.wgs.del wid, saved := s.sh.saved ++ [sv] } }
    let s := if area then s.fl FE_BUDGET.YSAVE_HELD x.part true else s
    (s.sclSync core).haltSync

/-- A stop of a cluster that took longer than its bound (R447). -/
def State.lateStop (s : State) (since bound : Nat) : State :=
  if s.now > since + bound then (s.count FE_SCH_CTR.LATE_STOPS).raise 0x4B else s

/-- The bound of a stop of graphics on cluster `c` (R447): its partition's GFX_STOP_US by the cluster clock, in ns. -/
def State.gfxBound (s : State) (c : Nat) : Nat :=
  ceilDiv (s.rd FE_BUDGET.GFX_STOP_US ((s.ownerOf FE_PART.CLUSTERS c).getD 0) * 1000 * 1800) (clusterMHz (s.rd PWR_LEVEL.CORE))

/-- Stops of graphics whose clusters hold no such work any more are done, as a time sample finds 10 ns later; a stop that its cause has
left behind has no bound. -/
def State.gfxStopped (s : State) : State :=
  s.sh.gfxStops.foldl (fun s x =>
    if s.gfxOn x.1 then s
    else
      let s := { s with sh := { s.sh with gfxStops := s.sh.gfxStops.del x.1 } }
      if s.stopCluster x.1 then (s.lateStop x.2 (s.gfxBound x.1 + 10)).trace 4 ((s.ownerOf FE_PART.CLUSTERS x.1).getD 0xFF) x.1 0 else s) s

/-- A stopped workgroup can be saved: every group of it stands at an instruction boundary (R209), and no RETURN emission of it is
pending (R241). -/
def State.wgSavable (s : State) (wid : Nat) (w : Wg) : Bool :=
  s.wgAsked wid && (w.stop == 1 || s.wgYielded wid w) && (s.wgGrps wid).all (fun p => p.2.rets.isEmpty && !p.2.wait.mid)

/-- SAVE_COMPLETE: every workgroup of the cluster with a save area has stopped; those that stopped are saved and the
cores are free (R452 step 4). -/
def execSaveComplete (c : Nat) (s : State) : Host.Outcome State Fault Refusal :=
  let ws := s.sh.wgs.filter (fun p => p.2.cluster == c && s.wgAsked p.1)
  let rdy := ws.filter (fun p => s.wgSavable p.1 p.2)
  if rdy.isEmpty || ws.any (fun p => (s.wgKd p.2).saveVa != 0 && !s.wgSavable p.1 p.2) then .next s
  else
    let since := rdy.foldl (fun m p => min m p.2.since) s.now
    let s := rdy.foldl (fun s p => match s.sh.disps.get? p.2.disp with
      | some x => s.saveWg p.1 p.2 x
      | none => s) s
    let s := s.lateStop since (s.rd FE_SCH_PLAT.COMPUTE_NS)
    .next (s.trace 4 ((s.ownerOf FE_PART.CLUSTERS c).getD 0xFF) c 0)

/-! ### Restoring (R211, R455) -/

/-- YSAVE_HELD of a partition follows the saves in its yield area (R457). -/
def State.ysaveSync (s : State) (p : Nat) : State :=
  s.fl FE_BUDGET.YSAVE_HELD p (s.sh.saved.any (fun w => w.area && ((s.sh.disps.get? w.disp).map (·.part)) == some p))

/-- Read a saved image back. -/
def State.readImage (c eng : Nat) (area : Bool) : List (Nat × List Byte) → State → List Byte → State × Option (List Byte)
  | [], s, acc => (s, some acc)
  | (a, b) :: r, s, acc =>
    if area then
      match s.physRead a b.length 0 with
      | (s, d, 0) => State.readImage c eng area r s (acc ++ d)
      | (s, _, e) => (s.accFault c e eng a, none)
    else match s.vread c eng a b.length with
      | (s, some d) => State.readImage c eng area r s (acc ++ d)
      | (s, none) => (s, none)

/-- A saved workgroup resumes on a core: its groups in the lowest free slots, its waits registered again (R211, R226). -/
def State.resumeWg (s : State) (v : SavedWg) (x : Disp) (core : Nat) : State :=
  let slots := ((s.freeSlots core).take v.groups.length).map (fun k => core * 48 + k)
  let wid := s.sh.nextWg
  let s := s.setSplit core x.kd.split
  let s := { s with sh := { s.sh with
    nextWg := wid + 1, saved := s.sh.saved.filter (· != v),
    wgs := s.sh.wgs.put wid { v.wgs with cluster := core / 4, core := core % 4, slots := slots },
    grps := (v.groups.zip slots).foldl (fun (m : NMap Grp) (p : Grp × Nat) => m.put p.2 { p.1 with
        wg := wid, haltReq := p.1.haltReq || (!p.1.halted && x.kd.debug && s.sh.sticky.contains x.ctx) }) s.sh.grps } }
  let s := (v.groups.zip slots).foldl (fun s p =>
    (v.waits.filter (fun w => w.1 == p.1.gi)).foldl (fun s w =>
      let (s, now) := s.addWait w.2.1 w.2.2 (.group p.2)
      if now then s.wakeWaiter (.group p.2) (s.poisoned w.2.1) else s) s) s
  (((s.tagCore core x.ctx).sclSync core).haltSync).ysaveSync x.part

/-- RESTORE_COMPLETE: the workgroup stopped first, of those that may run on the core, is read back and resumes there; a
CRC that fails faults its context with PREEMPT_RESTORE (R451, R455). -/
def execRestoreComplete (core : Nat) (s : State) : Host.Outcome State Fault Refusal :=
  let c := core / 4
  match s.sh.saved.find? (fun v => match s.sh.disps.get? v.disp with
      | some x => bit x.clusters c && s.ctxActive x.ctx
      | none => false) with
  | none => .next s
  | some v => match s.sh.disps.get? v.disp with
    | none => .next s
    | some x =>
      if core ≥ 192 || s.stopCluster c || s.fe.held.contains x.part || !s.coreFits x.kd v.groups.length core then .next s
      else match State.readImage x.ctx c v.area v.image s [] with
        | (s, none) => .next s
        | (s, some b) =>
          if crc32c b = v.crc then .next ((s.resumeWg v x core).trace 5 x.part c 0)
          else .next ((({ s with sh := { s.sh with saved := s.sh.saved.filter (· != v) } }).ysaveSync x.part).ctxFault x.ctx 0x34 0 c)

end Sys2Proof.Machine
end

