-- ==== Sys2Proof/Machine/Pixels.lean ====
section
/-! DEFINITION. Image formats (R371), and the tests and blending of samples (R373, R383), with the codes of Vulkan 1.3
that the spec names. -/

namespace Sys2Proof.Machine

/-- A channel of a format: 0 UNORM, 1 SRGB, 2 FP16, 3 FP32, 4 unsigned integer; its place, width and component. -/
structure Chan where
  kind : Nat
  lo : Nat
  w : Nat
  comp : Nat
  deriving DecidableEq, Repr

/-- `n` equal channels of `w` bits in order. -/
def evenChans (kind w n : Nat) : List Chan := (List.range n).map (fun i => ⟨kind, w * i, w, i⟩)

/-- The channels of a format (R371). -/
def chansOf (f : Nat) : List Chan :=
  if f = 1 then evenChans 0 8 1 else if f = 2 then evenChans 0 8 2 else if f = 3 then evenChans 0 8 4
  else if f = 4 then evenChans 1 8 3 ++ [⟨0, 24, 8, 3⟩]
  else if f = 5 then [⟨0, 16, 8, 0⟩, ⟨0, 8, 8, 1⟩, ⟨0, 0, 8, 2⟩, ⟨0, 24, 8, 3⟩]
  else if f = 6 then evenChans 0 10 3 ++ [⟨0, 30, 2, 3⟩]
  else if f = 7 then evenChans 2 16 1 else if f = 8 then evenChans 2 16 2 else if f = 9 then evenChans 2 16 4
  else if f = 0xA then evenChans 3 32 1 else if f = 0xB then evenChans 3 32 2 else if f = 0xC then evenChans 3 32 4
  else if f = 0xD then evenChans 4 32 1 else if f = 0xE then evenChans 4 16 4 else if f = 0xF then evenChans 3 32 3
  else if f = 0x40 then evenChans 0 16 1 else if f = 0x41 ∨ f = 0x42 then evenChans 3 32 1 else []

/-- Bytes per sample (R371). -/
def fmtBpp (f : Nat) : Nat :=
  if f = 0x42 then 8 else ((chansOf f).foldl (fun n c => max n (c.lo + c.w)) 0 + 7) / 8

def fmtColor (f : Nat) : Bool := 1 ≤ f && f ≤ 0xE
def fmtDepth (f : Nat) : Bool := 0x40 ≤ f && f ≤ 0x42
def fmtVertex (f : Nat) : Bool := 1 ≤ f && f ≤ 0xF
/-- A format of unsigned integers. -/
def fmtInt (f : Nat) : Bool := f == 0xD || f == 0xE
/-- A fixed-point format. -/
def fmtUnorm (f : Nat) : Bool := 1 ≤ f && f ≤ 6

/-- The FP32 word 1.0. -/
def one32 : Nat := 0x3F800000

/-- A UNORM code of `b` bits as FP32. -/
def unormDec (b n : Nat) : Nat := if n = 0 then 0 else divRnd ⟨n, 0⟩ ⟨(2 ^ b - 1 : Nat), 0⟩

/-- An FP32 word clamped to [0, 1]; a NaN becomes 0. -/
def clamp01 (w : Nat) : Nat := if fp32.isNaN w || fp32.sign w then 0 else if fp32.ltv one32 w then one32 else w

/-- FP32 to a UNORM code of `b` bits. -/
def unormEnc (b w : Nat) : Nat := ((fp32.val (clamp01 w)).mul (Dy.ofInt (2 ^ b - 1 : Nat))).rne.toNat

/-- A positive value to a power, to about 90 bits. -/
def powDy (v k : Dy) : Dy := exp2Dy ((log2Dy v).mul k)

/-- A decimal constant to 130 bits. -/
def decDy (n d : Nat) : Dy := ⟨((n * 2 ^ 130 / d : Nat) : Int), -130⟩

/-- An SRGB code of 8 bits as linear FP32. -/
def srgbDec (n : Nat) : Nat :=
  if n ≤ 10 then (if n = 0 then 0 else divRnd ⟨(n : Int) * 100, 0⟩ ⟨255 * 1292, 0⟩)
  else
    let c := (decDy (n * 1000 + 255 * 55) (255 * 1055))
    let y := powDy c (decDy 24 10)
    (fp32.round false y.m.natAbs y.e true).1

/-- Linear FP32 to an SRGB code of 8 bits. -/
def srgbEnc (w : Nat) : Nat :=
  let x := fp32.val (clamp01 w)
  if x.m = 0 then 0
  else if x.le (decDy 31308 10000000) then (x.mul (decDy (1292 * 255) 100)).rne.toNat
  else (((powDy x (decDy 10 24)).mul (decDy (1055 * 255) 1000)).add (decDy (55 * 255) 1000).neg).rne.toNat

/-- One channel to its 32-bit component. -/
def Chan.dec (c : Chan) (n : Nat) : Nat :=
  let x := bits n c.lo c.w
  if c.kind = 0 then unormDec c.w x else if c.kind = 1 then srgbDec x
  else if c.kind = 2 then (convert .f16 .f32 x).1 else x

/-- A 32-bit component to its channel. -/
def Chan.enc (c : Chan) (w : Nat) : Nat :=
  (if c.kind = 0 then unormEnc c.w w else if c.kind = 1 then srgbEnc w
   else if c.kind = 2 then (convert .f32 .f16 w).1
   else if c.kind = 3 then w else min w (2 ^ c.w - 1)) * 2 ^ c.lo

/-- A texel as four components; missing ones are (0, 0, 0, 1) (R375). -/
def texDec (f n : Nat) : List Nat :=
  (List.range 4).map (fun k => match (chansOf f).find? (fun c => c.comp == k) with
    | some c => c.dec n
    | none => if k = 3 then (if fmtInt f then 1 else one32) else 0)

/-- Components as a texel; `mask` names the components written over `old`. -/
def texEnc (f mask old : Nat) (v : List Nat) : Nat :=
  (chansOf f).foldl (fun n c => if bit mask c.comp then n - bits n c.lo c.w * 2 ^ c.lo + c.enc (v.getD c.comp 0) else n) old

/-! ### Comparison and stencil -/

/-- A comparison by VkCompareOp, of values in an order. -/
def cmpOp (op : Nat) (lt eq : Bool) : Bool :=
  if op = 0 then false else if op = 1 then lt else if op = 2 then eq else if op = 3 then lt || eq
  else if op = 4 then !lt && !eq else if op = 5 then !eq else if op = 6 then !lt else true

/-- A stencil value by VkStencilOp. -/
def stencilOp (op ref v : Nat) : Nat :=
  if op = 0 then v else if op = 1 then 0 else if op = 2 then ref else if op = 3 then min (v + 1) 255
  else if op = 4 then v - 1 else if op = 5 then 255 - v else if op = 6 then (v + 1) % 256 else (v + 255) % 256

/-! ### Blending (R383) -/

/-- The blend factor of component `k` by VkBlendFactor: source, second source, destination and constant colours. -/
def blendFactor (op k : Nat) (src src1 dst con : List Nat) : Nat :=
  let g (l : List Nat) (k : Nat) := l.getD k 0
  let inv (w : Nat) : Nat := (fp32.sub one32 w).1
  if op = 0 then 0 else if op = 1 then one32
  else if op = 2 then g src k else if op = 3 then inv (g src k)
  else if op = 4 then g dst k else if op = 5 then inv (g dst k)
  else if op = 6 then g src 3 else if op = 7 then inv (g src 3)
  else if op = 8 then g dst 3 else if op = 9 then inv (g dst 3)
  else if op = 10 then g con k else if op = 11 then inv (g con k)
  else if op = 12 then g con 3 else if op = 13 then inv (g con 3)
  else if op = 14 then (if k = 3 then one32 else (fp32.minNum false (g src 3) (inv (g dst 3))).1)
  else if op = 15 then g src1 k else if op = 16 then inv (g src1 k)
  else if op = 17 then g src1 3 else inv (g src1 3)

/-- One component of a blend by VkBlendOp: one rounding per operation. -/
def blendOp (op s d sf df : Nat) : Nat :=
  let a := (fp32.mul s sf).1
  let b := (fp32.mul d df).1
  if op = 0 then (fp32.add a b).1 else if op = 1 then (fp32.sub a b).1 else if op = 2 then (fp32.sub b a).1
  else (fp32.minNum (op == 4) s d).1

/-- A blend record of the PSO is in range (R373). -/
def blendOk (n : Nat) : Bool :=
  bits n 31 33 == 0 && bits n 1 5 ≤ 18 && bits n 6 5 ≤ 18 && bits n 11 3 ≤ 4 && bits n 14 5 ≤ 18 && bits n 19 5 ≤ 18 && bits n 24 3 ≤ 4

/-- A colour over the destination texel of an attachment: blended where the record and the format say so, and masked. -/
def blendTexel (f rec old : Nat) (src src1 con : List Nat) : Nat :=
  let m := bits rec 27 4
  if !bit rec 0 || fmtInt f then texEnc f m old src
  else
    let cl (l : List Nat) : List Nat := if fmtUnorm f then l.map clamp01 else l
    let s := cl src
    let s1 := cl src1
    let c := cl con
    let d := texDec f old
    let out (k : Nat) : Nat :=
      let o := if k = 3 then 14 else 1
      blendOp (bits rec (o + 10) 3) (s.getD k 0) (d.getD k 0) (blendFactor (bits rec o 5) k s s1 d c)
        (blendFactor (bits rec (o + 5) 5) k s s1 d c)
    texEnc f m old ((List.range 4).map out)

end Sys2Proof.Machine
end

