-- ==== Sys2Proof/Machine/Geometry.lean ====
section
/-! DEFINITION. Geometry of the raster pipeline (R377, R378): the tessellator, primitive assembly, clipping, the viewport,
snapping, coverage and interpolation. Steps that the spec leaves to Vulkan 1.3 follow it (assumption 40). -/

namespace Sys2Proof.Machine

/-! ### Fields of the pipeline state (R373, R374) -/

namespace GState
def topology (g : GState) : Nat := field g.pso 0x28 1
def patchCp (g : GState) : Nat := field g.pso 0x29 1
def nout (g : GState) : Nat := field g.pso 0x2A 1
def tess (g : GState) : Nat := field g.pso 0x2B 1
def raster (g : GState) : Nat := field g.pso 0x2C 1
def fsFlags (g : GState) : Nat := field g.pso 0x2D 1
def depth (g : GState) : Nat := field g.pso 0x2E 2
def stencil (g : GState) : Nat := field g.pso 0x30 4
def blend (g : GState) (a : Nat) : Nat := field g.pso (0x40 + 8 * a) 8
def isPatch (g : GState) : Bool := field g.pso 8 8 != 0
/-- FP32 word `k` of the dynamic block. -/
def dynw (g : GState) (k : Nat) : Nat := field g.dyn (4 * k) 4
/-- Viewport x, y, width, height, minimum and maximum depth. -/
def vp (g : GState) (k : Nat) : Rat := ratOf (g.dynw k)
def scissor (g : GState) (k : Nat) : Nat := field g.dyn (0x18 + 2 * k) 2
def blendCon (g : GState) : List Nat := (List.range 4).map (fun k => g.dynw (8 + k))
def stencilRef (g : GState) : Nat := field g.dyn 0x3C 1
def stencilCmp (g : GState) : Nat := field g.dyn 0x3D 1
def stencilWr (g : GState) : Nat := field g.dyn 0x3E 1
def clampDepth (g : GState) : Bool := bit g.raster 5
end GState

/-! ### The tessellator (R377) -/

/-- A factor clamped to [1, 64] and rounded as the spacing requires: the clamped value and the number of segments. -/
def tessFactor (spacing w : Nat) : Rat × Nat :=
  let lo : Rat := if spacing = 2 then 2 else 1
  let hi : Rat := if spacing = 1 then 63 else 64
  let v : Rat := if fp32.isInf w then (if fp32.sign w then lo else hi) else max lo (min hi (ratOf w))
  let n := v.ceil.toNat
  (v, if spacing = 0 then n else if spacing = 1 then n + (n + 1) % 2 else n + n % 2)

/-- The subdivision points of an edge: n + 1 positions in [0, 1]. -/
def tessPos (spacing : Nat) (f : Rat) (n : Nat) : List Rat :=
  (List.range (n + 1)).map (fun (i : Nat) =>
    if spacing = 0 ∨ n ≤ 2 then (i : Rat) / n
    else if i = 0 then 0 else if i = n then 1
    else (1 - ((n : Rat) - 2) / f) / 2 + ((i : Rat) - 1) / f)

/-- Triangles between two chains of points from end to end; which chain advances, where both can, is a free value that
Vulkan leaves open (assumption 40). -/
def stitch (use : Nat) : (fuel : Nat) → (a b : List Nat) → List (List Nat)
  | 0, _, _ => []
  | f + 1, a, b => match a, b with
    | a0 :: a1 :: ar, b0 :: b1 :: br =>
      if Config.freeNat 33 (use * 4096 + f) % 2 = 0 then [a0, a1, b0] :: stitch use f (a1 :: ar) (b0 :: b1 :: br)
      else [a0, b1, b0] :: stitch use f (a0 :: a1 :: ar) (b1 :: br)
    | a0 :: a1 :: ar, b0 :: [] => [a0, a1, b0] :: stitch use f (a1 :: ar) [b0]
    | a0 :: [], b0 :: b1 :: br => [a0, b1, b0] :: stitch use f [a0] (b1 :: br)
    | _, _ => []

/-- A domain point as exact coordinates. -/
abbrev DPt := Rat × Rat × Rat

/-- Points along a segment at the given parameters. -/
def along (p q : DPt) (ts : List Rat) : List DPt :=
  ts.map (fun t => (p.1 + t * (q.1 - p.1), p.2.1 + t * (q.2.1 - p.2.1), p.2.2 + t * (q.2.2 - p.2.2)))

/-- Add points to a list, a known one once: their numbers. -/
def addPts (all : List DPt) : List DPt → List DPt × List Nat
  | [] => (all, [])
  | p :: r =>
    let (all, k) := match all.findIdx? (· == p) with
      | some k => (all, k)
      | none => (all ++ [p], all.length)
    let (all, ks) := addPts all r
    (all, k :: ks)

/-- A closed ring of sides, each a chain of points. -/
abbrev Ring := List (List DPt)

/-- Triangles between rings, outermost first, and over the innermost, which is a point, a segment or a triangle. -/
def ringTris (use : Nat) : (rings : List Ring) → (all : List DPt) → List DPt × List (List Nat)
  | [], all => (all, [])
  | [last], all =>
    let (all, ks) := addPts all last.flatten
    let ks := ks.eraseDups
    (all, if ks.length = 3 then [ks] else if ks.length = 4 then [[ks.getD 0 0, ks.getD 1 0, ks.getD 2 0], [ks.getD 0 0, ks.getD 2 0, ks.getD 3 0]] else [])
  | o :: i :: r, all =>
    let (all, ts) := (o.zip i).foldl (fun (x : List DPt × List (List Nat)) s =>
      let (all, a) := addPts x.1 s.1
      let (all, b) := addPts all s.2
      (all, x.2 ++ stitch (use + x.2.length) (a.length + b.length) a b)) (all, [])
    let (all, us) := ringTris use (i :: r) all
    (all, ts ++ us)

/-- Segment parameters of the part of an edge from point `i` to point `n - i`, over that part. -/
def innerTs (ps : List Rat) (n i : Nat) : List Rat :=
  let a := ps.getD i 0
  let b := ps.getD (n - i) 1
  ((List.range (n + 1 - 2 * i)).map (fun k => if b = a then 0 else (ps.getD (i + k) 0 - a) / (b - a)))

/-- The points and primitives of the triangle domain. -/
def tessTri (use sp : Nat) (outer : List Nat) (inner : Nat) : List DPt × List (List Nat) :=
  let o := (List.range 3).map (fun k => tessFactor sp (outer.getD k 0))
  let (fi, ni) := tessFactor sp inner
  let a : DPt := (1, 0, 0)
  let b : DPt := (0, 1, 0)
  let c : DPt := (0, 0, 1)
  if ni = 1 ∧ o.all (·.2 == 1) then ([a, b, c], [[0, 1, 2]])
  else
    let ni2 := if ni = 1 then (if sp = 1 then 3 else 2) else ni
    let fi := if ni = 1 then ((if sp = 1 then 3 else 2 : Nat) : Rat) else fi
    let ps := tessPos sp fi ni2
    let ts (k : Nat) : List Rat := let q := o.getD k (1, 1); tessPos sp q.1 q.2
    let ring (i : Nat) : Ring :=
      let d := ps.getD i 0
      let x : Rat := 1 - 4 * d / 3
      let y : Rat := 2 * d / 3
      let t := innerTs ps ni2 i
      [along (y, x, y) (y, y, x) t, along (y, y, x) (x, y, y) t, along (x, y, y) (y, x, y) t]
    let out : Ring := [along b c (ts 0), along c a (ts 1), along a b (ts 2)]
    ringTris use (out :: (List.range (ni2 / 2)).map (fun i => ring (i + 1))) []

/-- The points and primitives of the quad domain. -/
def tessQuad (use sp : Nat) (outer inner : List Nat) : List DPt × List (List Nat) :=
  let o := (List.range 4).map (fun k => tessFactor sp (outer.getD k 0))
  let u0 := tessFactor sp (inner.getD 0 0)
  let v0 := tessFactor sp (inner.getD 1 0)
  let p (u v : Rat) : DPt := (u, v, 0)
  if u0.2 = 1 ∧ v0.2 = 1 ∧ o.all (·.2 == 1) then ([p 0 0, p 1 0, p 1 1, p 0 1], [[0, 1, 2], [0, 2, 3]])
  else
    let fix (q : Rat × Nat) : Rat × Nat := if q.2 = 1 then (if sp = 1 then (3, 3) else (2, 2)) else q
    let (fu, nu) := fix u0
    let (fv, nv) := fix v0
    let pu := tessPos sp fu nu
    let pv := tessPos sp fv nv
    let ts (k : Nat) : List Rat := let q := o.getD k (1, 1); tessPos sp q.1 q.2
    let ring (us vs us' vs' : List Rat) (x0 x1 y0 y1 : Rat) : Ring :=
      [vs'.map (fun v => p x0 v) |>.reverse, us.map (fun u => p u y0), vs.map (fun v => p x1 v), us'.map (fun u => p u y1) |>.reverse]
    let cut (l : List Rat) (n : Nat) : List Rat := ((l.drop 1).take (n - 1))
    let iu := cut pu nu
    let iv := cut pv nv
    let out := ring (ts 1) (ts 2) (ts 3) (ts 0) 0 1 0 1
    let inn := ring iu iv iu iv (pu.getD 1 0) (pu.getD (nu - 1) 1) (pv.getD 1 0) (pv.getD (nv - 1) 1)
    let (all, t1) := ringTris use [out, inn] []
    let t1 := t1.filter (fun t => t.eraseDups.length == 3)
    let grid := (List.range (nv - 2)).flatMap (fun j => (List.range (nu - 2)).map (fun i => (i + 1, j + 1)))
    grid.foldl (fun (x : List DPt × List (List Nat)) g =>
      let q (i j : Nat) : DPt := p (pu.getD i 0) (pv.getD j 0)
      let (all, k) := addPts x.1 [q g.1 g.2, q (g.1 + 1) g.2, q (g.1 + 1) (g.2 + 1), q g.1 (g.2 + 1)]
      (all, x.2 ++ [[k.getD 0 0, k.getD 1 0, k.getD 2 0], [k.getD 0 0, k.getD 2 0, k.getD 3 0]])) (all, t1.filter (fun t =>
        !(t.all (fun k => match all[k]? with
          | some (u, v, _) => 0 < u && u < 1 && 0 < v && v < 1
          | none => false))))

/-- The points and lines of the isoline domain. -/
def tessIso (sp : Nat) (outer : List Nat) : List DPt × List (List Nat) :=
  let n := (tessFactor 0 (outer.getD 0 0)).2
  let (f, m) := tessFactor sp (outer.getD 1 0)
  let us := tessPos sp f m
  ((List.range n).flatMap (fun (j : Nat) => us.map (fun (u : Rat) => (u, (j : Rat) / n, 0))),
   (List.range n).flatMap (fun (j : Nat) => (List.range m).map (fun (i : Nat) => [j * (m + 1) + i, j * (m + 1) + i + 1])))

/-- Tessellate a patch: its domain points in FP32, and its primitives; none when the patch is culled (R377). -/
def tessellate (use t : Nat) (outer inner : List Nat) : List (Nat × Nat × Nat) × List (List Nat) :=
  let dom := bits t 0 2
  let sp := bits t 2 2
  let n := if dom = 0 then 3 else if dom = 1 then 4 else 2
  if (outer.take n).any (fun w => fp32.isNaN w || fp32.sign w || fp32.isZero w) then ([], [])
  else
    let (ps, ts) := if dom = 0 then tessTri use sp outer (inner.getD 0 0) else if dom = 1 then tessQuad use sp outer inner else tessIso sp outer
    let ts := if bit t 5 then (List.range ps.length).map (fun k => [k]) else if bit t 4 ∧ dom ≠ 2 then ts.map (·.reverse) else ts
    (ps.map (fun p => (ratRnd p.1, ratRnd p.2.1, ratRnd p.2.2)), ts)

/-! ### Primitive assembly -/

/-- The primitives of a run of `n` vertices: lists of vertex places, the provoking vertex first. -/
def assemble (topo n : Nat) : List (List Nat) :=
  if topo = 0 then (List.range n).map (fun i => [i])
  else if topo = 1 then (List.range (n / 2)).map (fun i => [2 * i, 2 * i + 1])
  else if topo = 2 then (List.range (n - 1)).map (fun i => [i, i + 1])
  else if topo = 3 then (List.range (n / 3)).map (fun i => [3 * i, 3 * i + 1, 3 * i + 2])
  else if topo = 4 then (List.range (n - 2)).map (fun i => if i % 2 = 0 then [i, i + 1, i + 2] else [i, i + 2, i + 1])
  else if topo = 5 then (List.range (n - 2)).map (fun i => [i + 1, i + 2, 0])
  else []

/-- Runs of vertex places between restarts. -/
def runsOf : List (Nat × Option Nat) → List (List Nat)
  | [] => [[]]
  | (_, none) :: r => [] :: runsOf r
  | (k, some _) :: r => match runsOf r with
    | a :: b => (k :: a) :: b
    | [] => [[k]]

/-! ### Clipping and the viewport (R378) -/

/-- A clip-space point with its depth and homogeneous pixel coordinates: X, Y, z, w, where X / w and Y / w are pixels. -/
structure HPt where
  x : Rat
  y : Rat
  z : Rat
  w : Rat
  deriving DecidableEq, Repr

/-- A shaded position in the viewport. -/
def GState.hpt (g : GState) (v : List Nat) : HPt :=
  let p (k : Nat) := ratOf (v.getD k 0)
  ⟨g.vp 0 * p 3 + (p 0 + p 3) * g.vp 2 / 2, g.vp 1 * p 3 + (p 1 + p 3) * g.vp 3 / 2, p 2, p 3⟩

def HPt.lerp (a b : HPt) (t : Rat) : HPt :=
  ⟨a.x + t * (b.x - a.x), a.y + t * (b.y - a.y), a.z + t * (b.z - a.z), a.w + t * (b.w - a.w)⟩

/-- The clip planes: the guard band on X and Y, and near and far unless depth is clamped. -/
def clipPlanes (g : GState) : List (HPt → Rat) :=
  [fun p => p.x + 32768 * p.w, fun p => 32768 * p.w - p.x, fun p => p.y + 32768 * p.w, fun p => 32768 * p.w - p.y] ++
  (if g.clampDepth then [] else [fun p => p.z, fun p => p.w - p.z])

/-- One plane of a polygon's clipping. -/
def clipPoly (f : HPt → Rat) (ps : List HPt) : List HPt :=
  (ps.zip (ps.drop 1 ++ ps.take 1)).flatMap (fun (e : HPt × HPt) =>
    let a := f e.1
    let b := f e.2
    (if a ≥ 0 then [e.1] else []) ++ (if (a < 0) != (b < 0) && a != b then [e.1.lerp e.2 (a / (a - b))] else []))

/-- One plane of a segment's clipping. -/
def clipSeg (f : HPt → Rat) : List HPt → List HPt
  | [p, q] =>
    let a := f p
    let b := f q
    if a < 0 ∧ b < 0 then [] else if a < 0 then [p.lerp q (a / (a - b)), q] else if b < 0 then [p, p.lerp q (a / (a - b))] else [p, q]
  | l => l

/-- A value in pixels snapped to 1/256 (R378). -/
def snap (q : Rat) : Int :=
  let v := q * 256
  let f := v.floor
  let r := v - f
  if r > 1 / 2 ∨ (r = 1 / 2 ∧ f % 2 ≠ 0) then f + 1 else f

/-- A clipped point in pixels, snapped, with its FP32 depth. -/
def GState.place (g : GState) (p : HPt) : (Int × Int) × Nat :=
  ((snap (p.x / p.w), snap (p.y / p.w)), ratRnd (g.vp 4 + p.z / p.w * (g.vp 5 - g.vp 4)))

/-- Twice the area of a snapped triangle, in 1/65536 of a pixel; positive when it winds clockwise on the screen. -/
def area2 (a b c : Int × Int) : Int := (b.1 - a.1) * (c.2 - a.2) - (c.1 - a.1) * (b.2 - a.2)

/-- A triangle of a primitive; a clockwise one keeps its corners, the other exchanges two, so that coverage sees one
winding. -/
def mkTri (a b c : (Int × Int) × Nat) : List GTri :=
  let s := area2 a.1 b.1 c.1
  if s = 0 then []
  else if s > 0 then [{ xs := [a.1, b.1, c.1], zs := [a.2, b.2, c.2] }]
  else [{ xs := [a.1, c.1, b.1], zs := [a.2, c.2, b.2] }]

/-- A rectangle or parallelogram as two triangles. -/
def mkQuad (a b c d : (Int × Int) × Nat) : List GTri := mkTri a b c ++ mkTri a c d

/-- A point of a primitive as a square (R378). -/
def pointTris (g : GState) (v : List Nat) : List GTri :=
  let h := g.hpt v
  if h.w ≤ 0 ∨ (clipPlanes g).any (fun f => f h < 0) then []
  else
    let sw := v.getD (4 + 4 * g.nout) one32
    let sz : Rat := if !bit g.raster 7 then 1 else if fp32.isNaN sw then 1 else if fp32.isInf sw then (if fp32.sign sw then 1 else 64) else max 1 (min 64 (ratOf sw))
    let ((x, y), z) := g.place h
    let r := snap (sz / 2)
    mkQuad ((x - r, y - r), z) ((x + r, y - r), z) ((x + r, y + r), z) ((x - r, y + r), z)

/-- A line of a primitive, one pixel wide across its minor axis (R378). -/
def lineTris (g : GState) (v w : List Nat) : List GTri :=
  match (clipPlanes g).foldl (fun l f => clipSeg f l) [g.hpt v, g.hpt w] with
  | [p, q] =>
    if p.w ≤ 0 ∨ q.w ≤ 0 then []
    else
      let ((x0, y0), z0) := g.place p
      let ((x1, y1), z1) := g.place q
      let xMajor := (x1 - x0).natAbs ≥ (y1 - y0).natAbs
      let dx : Int := if xMajor then 0 else 128
      let dy : Int := if xMajor then 128 else 0
      mkQuad ((x0 - dx, y0 - dy), z0) ((x1 - dx, y1 - dy), z1) ((x1 + dx, y1 + dy), z1) ((x0 + dx, y0 + dy), z0)
  | _ => []

/-- Consecutive triangles of a polygon from its first corner. -/
def fanOf {α : Type} : List α → List (α × α × α)
  | a :: r => (r.zip (r.drop 1)).map (fun p => (a, p.1, p.2))
  | [] => []

/-- A triangle primitive: clipped, faced and culled once, and filled or outlined as the PSO says (R373, R378). The answer
is what it covers, and whether it is front-facing. -/
def triTris (g : GState) (vs : List (List Nat)) : List GTri × Bool :=
  let ps := (clipPlanes g).foldl (fun l f => clipPoly f l) (vs.map g.hpt)
  if ps.any (fun p => p.w ≤ 0) then ([], true)
  else
    let fan := fanOf (ps.map g.place)
    let s := fan.foldl (fun (n : Int) (t : ((Int × Int) × Nat) × ((Int × Int) × Nat) × ((Int × Int) × Nat)) => n + area2 t.1.1 t.2.1.1 t.2.2.1) 0
    let front := (s > 0) == bit g.raster 2
    if s = 0 ∨ (bit g.raster 0 ∧ front) ∨ (bit g.raster 1 ∧ ¬ front) then ([], front)
    else
      let mode := bits g.raster 3 2
      let v (k : Nat) := vs.getD k []
      (if mode = 0 then fan.flatMap (fun t => mkTri t.1 t.2.1 t.2.2)
       else if mode = 1 then lineTris g (v 0) (v 1) ++ lineTris g (v 1) (v 2) ++ lineTris g (v 2) (v 0)
       else vs.flatMap (pointTris g), front)

/-- Every position word of a vertex is finite. -/
def vertFinite (v : List Nat) : Bool := (v.take 4).all finite32

/-- What one assembled primitive is binned as; none where nothing of it survives (R379). -/
def GState.prims (g : GState) (draw prim : Nat) (vs : List (List Nat)) : Option GPrim :=
  if bit g.raster 6 || !vs.all vertFinite || g.dyn.isEmpty || !(List.range 6).all (fun k => finite32 (g.dynw k)) then none
  else
    let (ts, front) := match vs with
      | [a] => (pointTris g a, true)
      | [a, b] => (lineTris g a b, true)
      | [_, _, _] => triTris g vs
      | _ => ([], true)
    if ts.isEmpty then none else some { draw := draw, prim := prim, tris := ts, front := front, verts := vs }

/-! ### Coverage and interpolation -/

/-- Sample locations in 1/16 pixel (R384). -/
def sampleLocs (log2n : Nat) : List (Nat × Nat) :=
  if log2n = 0 then [(8, 8)] else if log2n = 1 then [(12, 12), (4, 4)]
  else if log2n = 2 then [(6, 2), (14, 6), (2, 10), (10, 14)]
  else [(9, 5), (7, 11), (13, 9), (5, 3), (3, 13), (1, 7), (11, 15), (15, 1)]

/-- A sample's place in 1/256 pixel. -/
def samplePos (x y : Nat) (l : Nat × Nat) : Int × Int := ((256 * x + 16 * l.1 : Nat), (256 * y + 16 * l.2 : Nat))

/-- A place lies inside a snapped clockwise triangle: each edge function is positive, or zero on a top or left edge
(R378). -/
def covers (xs : List (Int × Int)) (p : Int × Int) : Bool :=
  let v (k : Nat) := xs.getD (k % 3) (0, 0)
  (List.range 3).all (fun k =>
    let a := v k
    let b := v (k + 1)
    let e := area2 a b p
    let topLeft := (b.2 == a.2 && b.1 > a.1) || b.2 < a.2
    e > 0 || (e == 0 && topLeft))

/-- The samples of a pixel that a primitive covers: those inside one of its triangles, each once. -/
def GPrim.mask (t : GPrim) (log2n x y : Nat) : Nat :=
  (sampleLocs log2n).zipIdx.foldl (fun m l => if t.tris.any (fun u => covers u.xs (samplePos x y l.1)) then m + 2 ^ l.2 else m) 0

/-- Depth at a place, before the bias and the clamp. -/
def GTri.depthAt (t : GTri) (p : Int × Int) : Rat :=
  let v (k : Nat) := t.xs.getD (k % 3) (0, 0)
  let z (k : Nat) := ratOf (t.zs.getD k 0)
  let a := area2 (v 0) (v 1) (v 2)
  if a = 0 then z 0
  else ((area2 (v 1) (v 2) p : Rat) * z 0 + (area2 (v 2) (v 0) p : Rat) * z 1 + (area2 (v 0) (v 1) p : Rat) * z 2) / (a : Rat)

/-- The depth bias of a triangle for a depth format (R374). -/
def GTri.bias (t : GTri) (g : GState) (fmt : Nat) : Rat :=
  if !bit g.depth 5 then 0
  else
    let d (dx dy : Int) : Rat := t.depthAt (dx, dy) - t.depthAt (0, 0)
    let ab (q : Rat) : Rat := if q < 0 then -q else q
    let m := max (ab (d 256 0)) (ab (d 0 256))
    let zm := t.zs.foldl (fun e w => max e (fp32.expo w)) 1
    let r : Rat := if fmt = 0x40 then 1 / 65536 else if zm ≥ 150 then ((2 ^ (zm - 150) : Nat) : Rat) else 1 / ((2 ^ (150 - zm) : Nat) : Rat)
    let c (k : Nat) := if finite32 (g.dynw k) then ratOf (g.dynw k) else 0
    let b := m * c 13 + r * c 12
    let cl := c 14
    if cl = 0 then b else if cl > 0 then min b cl else max b cl

/-- The triangle of a primitive that gives the depth at a place: the first that covers it, else the first. -/
def GPrim.triAt (t : GPrim) (p : Int × Int) : GTri := (t.tris.find? (fun u => covers u.xs p)).getD (t.tris.headD { xs := [], zs := [] })

/-- The FP32 depth of a sample. -/
def GPrim.depth32 (t : GPrim) (g : GState) (fmt : Nat) (p : Int × Int) : Nat :=
  let u := t.triAt p
  let z := u.depthAt p + u.bias g fmt
  let z := if g.clampDepth then max (min (g.vp 4) (g.vp 5)) (min (max (g.vp 4) (g.vp 5)) z) else z
  ratRnd z

/-- Perspective weights of vertices 1 and 2 at a place in 1/256 pixel, and 1 / w there. -/
def GPrim.bary (t : GPrim) (g : GState) (p : Int × Int) : Rat × Rat × Rat :=
  let h (k : Nat) := g.hpt (t.verts.getD k [])
  let px : Rat := (p.1 : Rat) / 256
  let py : Rat := (p.2 : Rat) / 256
  if t.verts.length = 1 then (0, 0, 1 / (h 0).w)
  else if t.verts.length = 2 then
    let a := h 0
    let b := h 1
    let x0 := a.x / a.w
    let y0 := a.y / a.w
    let dx := b.x / b.w - x0
    let dy := b.y / b.w - y0
    let q := dx * dx + dy * dy
    let u := if q = 0 then 0 else ((px - x0) * dx + (py - y0) * dy) / q
    let k0 := (1 - u) / a.w
    let k1 := u / b.w
    (if k0 + k1 = 0 then 0 else k1 / (k0 + k1), 0, k0 + k1)
  else
    let l (a b : HPt) : Rat := px * (a.y * b.w - a.w * b.y) + py * (a.w * b.x - a.x * b.w) + (a.x * b.y - a.y * b.x)
    let l0 := l (h 1) (h 2)
    let l1 := l (h 2) (h 0)
    let l2 := l (h 0) (h 1)
    let s := l0 + l1 + l2
    let w := l0 * (h 0).w + l1 * (h 1).w + l2 * (h 2).w
    if s = 0 then (0, 0, 0) else (l1 / s, l2 / s, if w = 0 then 0 else s / w)

/-- The tiles that a primitive's bounding box touches inside the scissor and the render area (R379): columns and rows. -/
def GPrim.tileList (t : GPrim) (g : GState) (w h : Nat) : List Nat :=
  let xs := t.tris.flatMap (fun u => u.xs.map (·.1))
  let ys := t.tris.flatMap (fun u => u.xs.map (·.2))
  let lo (l : List Int) (m : Nat) : Nat := max m ((l.foldl min (l.headD 0)) / 256).toNat
  let hi (l : List Int) (m : Nat) : Nat := min m (((l.foldl max (l.headD 0)) + 255) / 256).toNat
  let x0 := lo xs (g.scissor 0)
  let y0 := lo ys (g.scissor 1)
  let x1 := hi xs (min w (g.scissor 0 + g.scissor 2))
  let y1 := hi ys (min h (g.scissor 1 + g.scissor 3))
  let tw := (w + 31) / 32
  if x1 ≤ x0 ∨ y1 ≤ y0 then []
  else (List.range ((y1 - 1) / 32 + 1 - y0 / 32)).flatMap (fun j =>
    (List.range ((x1 - 1) / 32 + 1 - x0 / 32)).map (fun i => (y0 / 32 + j) * tw + (x0 / 32 + i)))

end Sys2Proof.Machine
end

