-- ==== Sys2Proof/Machine/Raster.lean ====
section
/-! DEFINITION. Render passes (R366 to R390): the packets, the stages on the cores, binning and partial flushes, tiles,
resolve, signatures and the status record. -/

namespace Sys2Proof.Machine

/-! ### The render pass descriptor (R370) -/

namespace GPass
def w (p : GPass) : Nat := field p.desc 0 2
def h (p : GPass) : Nat := field p.desc 2 2
/-- log2 of the sample count. -/
def sm (p : GPass) : Nat := field p.desc 4 1
def ncolor (p : GPass) : Nat := field p.desc 5 1
def flags (p : GPass) : Nat := field p.desc 6 1
def poolVa (p : GPass) : Nat := field p.desc 8 8
def poolBytes (p : GPass) : Nat := field p.desc 0x10 4
def flushVa (p : GPass) : Nat := field p.desc 0x18 8
def statusVa (p : GPass) : Nat := field p.desc 0x20 8
/-- The attachments that are named. -/
def atts (p : GPass) : List Nat := List.range p.ncolor ++ if bit p.flags 0 then [8] else []
/-- A field of attachment record `a`. -/
def att (p : GPass) (a o n : Nat) : Nat := field p.desc (0x40 + 48 * a + o) n
def va (p : GPass) (a : Nat) : Nat := p.att a 0 8
def pitch (p : GPass) (a : Nat) : Nat := p.att a 8 4
def fmt (p : GPass) (a : Nat) : Nat := p.att a 0x0C 1
def load (p : GPass) (a : Nat) : Nat := p.att a 0x0D 1
def store (p : GPass) (a : Nat) : Nat := p.att a 0x0E 1
def resolve (p : GPass) (a : Nat) : Nat := p.att a 0x0F 1
def resolveVa (p : GPass) (a : Nat) : Nat := p.att a 0x10 8
def sigVa (p : GPass) (a : Nat) : Nat := p.att a 0x18 8
def bpp (p : GPass) (a : Nat) : Nat := fmtBpp (p.fmt a)
/-- TILE_BYTES (R382). -/
def tileBytes (p : GPass) : Nat := p.atts.foldl (fun n a => n + 1024 * 2 ^ p.sm * p.bpp a) 0
/-- Where an attachment stands in tile memory. -/
def attOff (p : GPass) (a : Nat) : Nat := (p.atts.takeWhile (· != a)).foldl (fun n a => n + 1024 * 2 ^ p.sm * p.bpp a) 0
/-- Tiles across and down. -/
def tw (p : GPass) : Nat := (p.w + 31) / 32
def th (p : GPass) : Nat := (p.h + 31) / 32
/-- SUBTILES (R382). -/
def subtiles (p : GPass) : Nat := if p.tileBytes ≤ 0x30000 then 1 else if p.tileBytes / 2 ≤ 0x30000 then 2 else 4
/-- Local store that a tile holds. -/
def coreBytes (p : GPass) : Nat := p.tileBytes / p.subtiles
def hasDepth (p : GPass) : Bool := bit p.flags 0
/-- The binning has nothing left to do. -/
def idle (p : GPass) : Bool := p.cur.isNone && p.rest.isEmpty && p.toBin.isEmpty && p.phase == 0
/-- All tiles, in row-major order of blocks of 4 × 4 (R381). -/
def allTiles (p : GPass) : List Nat :=
  (List.range ((p.th + 3) / 4)).flatMap (fun by_ => (List.range ((p.tw + 3) / 4)).flatMap (fun bx =>
    (List.range 4).flatMap (fun y => (List.range 4).filterMap (fun x =>
      if 4 * bx + x < p.tw ∧ 4 * by_ + y < p.th then some ((4 * by_ + y) * p.tw + 4 * bx + x) else none))))

/-- The rules of R370 to R372 and R382 on an attachment record. -/
def attOk (p : GPass) (a : Nat) : Bool :=
  let f := p.fmt a
  (if a = 8 then fmtDepth f else fmtColor f) && p.va a % 256 == 0 && p.pitch a % 128 == 0 && p.load a ≤ 2 && p.store a ≤ 3 &&
  p.resolve a ≤ 3 && p.resolveVa a % 256 == 0 && p.sigVa a % 64 == 0 &&
  !(p.store a ≥ 2 && p.resolve a == 0 && (fmtInt f || fmtDepth f))

/-- The rules of R370 to R372 and R382 on the descriptor. -/
def ok (p : GPass) : Bool :=
  let z (o n : Nat) : Bool := ((p.desc.drop o).take n).all (· == 0)
  1 ≤ p.w && p.w ≤ 16384 && 1 ≤ p.h && p.h ≤ 16384 && p.sm ≤ 3 && p.ncolor ≤ 8 && p.flags < 8 && z 7 1 && z 0x14 4 && z 0x30 16 &&
  field p.desc 0x2E 2 == 0 && p.poolVa % 0x1000 == 0 && p.poolBytes % 0x10000 == 0 && p.poolBytes ≥ 0x100000 && p.poolBytes ≤ 0x80000000 &&
  p.flushVa % 0x1000 == 0 && p.statusVa % 64 == 0 && p.atts.all p.attOk &&
  (List.range 9).all (fun a => p.atts.contains a || z (0x40 + 48 * a) 48) && p.tileBytes / 4 ≤ 0x30000
end GPass

/-- Change a pass. -/
def State.updPass (s : State) (id : Nat) (f : GPass → GPass) : State :=
  { s with gfx := { s.gfx with passes := s.gfx.passes.upd id f } }

/-- The open pass of a stream: the one that has not had its RENDER_PASS_END, in the order of the queue (R368, R122). -/
def State.passOf (s : State) (sid : Nat) : Option (Nat × GPass) := s.gfx.passes.find? (fun p => p.2.sid == sid && p.2.phase != 3)

/-- A graphics fault of a context (R392). -/
def State.gfxFault (s : State) (c code : Nat) : State := s.ctxFault c code

/-- A pass that is open in a Pattern node whose packets left hold no RENDER_PASS_END would have to end in another stream
(R368). -/
def State.nodeEnd (s : State) (sid : Nat) : State :=
  match s.passOf sid, s.fe.strms.get? sid with
  | some (_, p), some st =>
    if st.node.isSome && !st.ents.any (·.bad) && !st.pkts.any (fun k => k.st == 0 && k.op == 0x25) then s.gfxFault p.ctx 0x61 else s
  | _, _ => s

/-- GFX_STATE: the PSO and dynamic block of the draws that follow in the stream (R368). -/
def execGfxState (sid : Nat) (s : State) : Host.Outcome State Fault Refusal :=
  match s.canRun sid 0x20 with
  | none => .next s
  | some (st, p) =>
    let s := s.dispatch sid st p
    let s := { s with gfx := { s.gfx with states := s.gfx.states.put sid (pw2 p.w 1, pw2 p.w 3) } }
    .next ((if (s.passOf sid).isSome then s else s.donePkt sid p.pid).nodeEnd sid)

/-- The page at `va` lies in this device's HBM. -/
def State.vaLocal (s : State) (c va : Nat) : State × Bool :=
  match s.translate c va 1 63 with
  | (s, some (pa, _)) => (s, bits pa 48 2 == s.dev)
  | (s, none) => (s, false)

/-- RENDER_PASS_BEGIN: the descriptor is read and checked, and a pass opens (R368, R370 to R372). -/
def execRenderPassBegin (sid : Nat) (s : State) : Host.Outcome State Fault Refusal :=
  match s.canRun sid 0x21 with
  | none => .next s
  | some (st, p) =>
    let s := s.dispatch sid st p
    if (s.passOf sid).isSome then .next (s.gfxFault st.ctx 0x61)
    else .next (State.onRead (s.vread st.ctx 60 (pw2 p.w 1) 512) (fun s d =>
      let part := s.partOf st.ctx
      let own := s.partClusters part
      let m := bits (field d 0x28 8) 0 48
      let g : GPass := { sid := sid, q := st.q, ctx := st.ctx, part := part, prio := s.strmPrio st, desc := d,
                         clusters := if m = 0 then own else m, pid0 := p.pid }
      if !g.ok then s.gfxFault st.ctx 0x60
      else if m &&& own ≠ m then s.ctxFault st.ctx 0xC4
      else match s.vaLocal st.ctx g.poolVa with
        | (s, false) => s.gfxFault st.ctx 0x60
        | (s, true) =>
          let (b, s) := s.freeBytes 34 0x10000
          State.onOk (s.vwrite st.ctx 63 g.poolVa b) (fun s =>
            State.nodeEnd { s with gfx := { s.gfx with passes := s.gfx.passes.put s.gfx.next g, next := s.gfx.next + 1 } } sid)))

/-! ### Draws (R367, R372 to R376) -/

/-- The rules of R373 on a PSO. -/
def psoOk (b : List Byte) : Bool :=
  let z (o n : Nat) : Bool := ((b.drop o).take n).all (· == 0)
  let tcs := field b 8 8
  let tes := field b 0x10 8
  let topo := field b 0x28 1
  let cp := field b 0x29 1
  let tess := field b 0x2B 1
  let ras := field b 0x2C 1
  field b 0 8 != 0 && ((tcs == 0) == (tes == 0)) && (List.range 4).all (fun k => field b (8 * k) 8 % 256 == 0) && field b 0x20 8 % 8 == 0 &&
  topo ≤ 6 && ((topo == 6) == (tcs != 0)) && 1 ≤ cp && cp ≤ 32 && field b 0x2A 1 ≤ 31 && bits tess 0 2 ≤ 2 && bits tess 2 2 ≤ 2 &&
  bits tess 6 2 == 0 && bits ras 3 2 ≤ 2 && field b 0x2D 1 < 8 && field b 0x2E 2 < 64 && field b 0x30 4 < 2 ^ 25 && z 0x34 12 &&
  (List.range 8).all (fun a => blendOk (field b (0x40 + 8 * a) 8)) && z 0x80 128

/-- The rules of R375 on a vertex input table. -/
def vinOk (b : List Byte) : Bool :=
  let nb := field b 0 1
  let na := field b 1 1
  1 ≤ nb && nb ≤ 16 && na ≤ 16 && field b 2 6 == 0 &&
  (List.range nb).all (fun k => let o := 8 + 16 * k; field b (o + 12) 2 ≤ 2048 && field b (o + 14) 1 ≤ 1 && field b (o + 15) 1 == 0) &&
  (List.range na).all (fun k =>
    let o := 0x108 + 8 * k
    field b o 1 < nb && fmtVertex (field b (o + 1) 1) && field b (o + 2) 2 ≤ 2047 && field b (o + 4) 4 == 0)

/-- The dynamic block of DYN_VA = 0: the render area (R374). -/
def dynZero (p : GPass) : List Byte :=
  [0, 0, (fp32.rnd (Dy.ofInt p.w)).1, (fp32.rnd (Dy.ofInt p.h)).1, 0, one32].flatMap (leBytes 4) ++
  leBytes 2 0 ++ leBytes 2 0 ++ leBytes 2 p.w ++ leBytes 2 p.h ++ leBytes 32 0

/-- The descriptor of a graphics stage: fields that R376 ignores are set to what a graphics group has. -/
def gfxKd (k : KDesc) (localBytes : Nat) : KDesc :=
  { k with wgx := 32, wgy := 1, wgz := 1, split := 3, localBytes := (localBytes + 255) / 256 * 256, saveVa := 0, flags := k.flags % 8 }

/-- Read a stage descriptor; an invalid one faults the context (R185, R372, R376). -/
def State.readStage (s : State) (c eng va loc : Nat) : State × Option KDesc :=
  match s.vread c eng va 256 with
  | (s, none) => (s, none)
  | (s, some b) =>
    let k := gfxKd (kdescOf b) loc
    if kdescRsv b && k.okRegs && (kdescOf b).flags < 16 then (s, some k) else (s.ctxFault c 0x30 0 eng, none)

/-- Read the pipeline state of a draw and check it; 0x60 where a rule is broken (R372). -/
def State.drawState (s : State) (g : GPass) (pso dyn : Nat) : State × Option (GState × List Byte × List KDesc) :=
  let c := g.ctx
  let bad (s : State) : State × Option (GState × List Byte × List KDesc) := (s.gfxFault c 0x60, none)
  match s.vread c 60 pso 256 with
  | (s, none) => (s, none)
  | (s, some b) =>
    if !psoOk b then bad s
    else
      let (s, d) := if dyn = 0 then (s, some (dynZero g)) else s.vread c 60 dyn 64
      match d with
      | none => (s, none)
      | some d =>
        if field d 0x3F 1 ≠ 0 then bad s
        else match s.vread c 60 (field b 0x20 8) 0x188 with
          | (s, none) => (s, none)
          | (s, some v) =>
            if !vinOk v then bad s
            else
              let eng := (bitList g.clusters 48).headD 60
              let no := field b 0x2A 1
              let cp := field b 0x29 1
              let want : List (Nat × Nat) := [(field b 0 8, 0)] ++
                (if field b 8 8 = 0 then [] else [(field b 8 8, 16 * (no + 1) * cp), (field b 0x10 8, 16 * (no + 1) * cp)])
              let r := want.foldl (fun (r : State × Option (List KDesc)) (x : Nat × Nat) => match r with
                | (s, none) => (s, none)
                | (s, some ks) => match s.readStage c eng x.1 x.2 with
                  | (s, some k) => (s, some (ks ++ [k]))
                  | (s, none) => (s, none)) (s, some [])
              match r with
              | (s, none) => (s, none)
              | (s, some ks) =>
                if field b 0x18 8 = 0 then (s, some ({ pso := b, dyn := d, fs := none }, v, ks))
                else match s.readStage c eng (field b 0x18 8) 0 with
                  | (s, some k) => (s, some ({ pso := b, dyn := d, fs := some k }, v, ks))
                  | (s, none) => (s, none)

/-- A graphics dispatch of `n` groups for a pass, on clusters `cl`. -/
def State.gfxDisp (s : State) (id : Nat) (g : GPass) (stage tile n cl : Nat) (k : KDesc) : State :=
  let d : Disp := { kind := .gfx stage id tile, ctx := g.ctx, part := g.part, prio := g.prio, sid := g.sid, pid := 0, kd := k, gx := n,
                    gy := 1, gz := 1, clusters := cl, q := g.q }
  { s with sh := { s.sh with disps := s.sh.disps.put s.sh.nextDisp d, nextDisp := s.sh.nextDisp + 1 } }

/-- Vertex groups of an instance of a draw. -/
def GDraw.gpi (d : GDraw) : Nat := (d.count + 31) / 32

/-- The arguments of a draw: vertex or index count, instances, first vertex or index, offset, first instance. -/
structure DrawArgs where
  count : Nat
  nInst : Nat
  first : Nat
  voff : Nat
  firstInst : Nat

/-- The indices of an indexed draw (R367): none at a restart. -/
def State.readIndices (s : State) (c eng va size : Nat) (restart : Bool) (a : DrawArgs) : State × Option (List (Option Nat)) :=
  let b := if size = 0 then 2 else if size = 1 then 4 else 1
  match s.vread c eng (va + b * a.first) (b * a.count) with
  | (s, none) => (s, none)
  | (s, some d) => (s, some ((List.range a.count).map (fun i =>
      let x := field d (b * i) b
      if restart && x == 2 ^ (8 * b) - 1 then none else some ((x + a.voff) % 2 ^ 32))))

/-- The draw of a set of arguments; `idx` describes the index buffer of an indexed one: address, size and RESTART. -/
def State.mkDraw (s : State) (g : GPass) (num sub : Nat) (st : GState) (vin : List Byte) (ks : List KDesc) (a : DrawArgs)
    (idx : Option (Nat × Nat × Bool)) : State × Option GDraw :=
  let d : GDraw := { num := num, sub := sub, st := st, vin := vin, kds := ks, count := a.count, first := a.first,
                     nInst := if a.count = 0 then 0 else a.nInst, firstInst := a.firstInst }
  match idx with
  | none => (s, some d)
  | some (va, size, restart) =>
    if d.nInst = 0 then (s, some d)
    else match s.readIndices g.ctx ((bitList g.clusters 48).headD 60) va size restart a with
      | (s, some l) => (s, some { d with idx := some l })
      | (s, none) => (s, none)

/-! ### Binning (R379, R380) -/

/-- The places of the vertices to be shaded: all, or those of an index list that are no restart. -/
def GDraw.places (d : GDraw) : List Nat := match d.idx with
  | none => List.range d.count
  | some l => (l.zipIdx.filter (fun p => p.1.isSome)).map (·.2)

/-- Vertices to be shaded in an instance. -/
def GDraw.live (d : GDraw) : Nat := match d.idx with
  | none => d.count
  | some l => (l.filter (·.isSome)).length

/-- The runs of vertex places of a draw. -/
def GDraw.runs (d : GDraw) : List (List Nat) := match d.idx with
  | none => [List.range d.count]
  | some l => runsOf (l.zipIdx.map (fun p => (p.2, p.1)))

/-- The output words of a shaded vertex, and the quadrant it was shaded in. -/
def GDraw.out (d : GDraw) (k : Nat) : List Nat := ((d.outs.get? k).map (·.2)).getD []
def GDraw.quad (d : GDraw) (k : Nat) : Nat := ((d.outs.get? k).map (·.1)).getD 0 / 12

/-- The primitives of a draw whose stages are done, numbered in order (R378, R379). -/
def GDraw.prims (d : GDraw) : List GPrim :=
  let keys : List (List Nat) :=
    if d.st.isPatch then d.patches.flatMap (fun p => p.2.tris.map (fun t => t.map (fun k => p.1 * 65536 + k)))
    else (List.range d.nInst).flatMap (fun i => d.runs.flatMap (fun r =>
      (assemble d.st.topology r.length).map (fun t => t.map (fun j => i * d.count + r.getD j 0))))
  keys.zipIdx.flatMap (fun (x : List Nat × Nat) =>
    ((d.st.prims d.num x.2 (x.1.map d.out)).map (fun p => { p with quad := d.quad (x.1.getLastD 0) })).toList)

/-- A stop withholds the work of pass `p` on cluster `c`: a test waits for the cluster, or, Realtime apart, a Realtime job
holds it or the partition's cluster budget is exhausted with OVERRUN HARD (R389, R441, R449, R607). -/
def State.passStops (s : State) (p : GPass) (c : Nat) : Bool :=
  if p.prio = 3 then s.asy.queue.any (fun t => t.stops && t.unit == c) else s.stopCluster c

/-- The clusters of a pass that no stop holds. -/
def State.passFree (s : State) (p : GPass) : Nat :=
  (bitList p.clusters 48).foldl (fun m c => if s.passStops p c then m else m + 2 ^ c) 0

/-- A stop holds every cluster of a pass: its binning goes on at none (R389). -/
def State.passHeld (s : State) (p : GPass) : Bool := s.passFree p == 0

/-- Bin primitives until the pool is full (R380), or to the end of a run of 4,096 where a stop holds the pass (R389): the
record and the blocks are written, their layout being free. -/
def State.binGo (id : Nat) : List GPrim → State → State
  | [], s => s.updPass id (fun p => { p with toBin := [] })
  | t :: r, s => match s.gfx.passes.get? id with
    | none => s
    | some p => match p.states.get? t.draw with
      | none => s
      | some g =>
        let tiles := t.tileList g p.w p.h
        let key (k : Nat) := 0x100000 * t.quad + k
        let blocks := (tiles.filter (fun k => (p.lists.get? (key k)).getD 0 % 15 = 0)).length
        let need := 32 + 48 * (g.nout + 1) + 128 * blocks
        if p.binRun < t.prim / 4096 ∧ s.passHeld p then s.updPass id (fun p => { p with toBin := t :: r })
        else if tiles.isEmpty then State.binGo id r s
        else if p.used + need > p.poolBytes then
          if p.flushVa = 0 then s.gfxFault p.ctx 0x62 else s.updPass id (fun p => { p with toBin := t :: r, phase := 1 })
        else
          let (b, s) := s.freeBytes 34 need
          match s.vwrite p.ctx 63 (p.poolVa + p.used) b with
          | (s, false) => s
          | (s, true) =>
            let s := (s.pmu 0x80 t.quad p.part).updPass id (fun p => { p with
              bins := p.bins ++ [{ t with tiles := tiles }], binRun := t.prim / 4096, used := p.used + need, high := max p.high (p.used + need),
              lists := tiles.foldl (fun m k => m.put (key k) ((m.get? (key k)).getD 0 + 1)) p.lists })
            State.binGo id r s

/-- Begin the stages of a draw: its vertex groups, or nothing where it draws nothing. -/
def State.drawGo (s : State) (id : Nat) : (fuel : Nat) → State
  | 0 => s
  | f + 1 => match s.gfx.passes.get? id with
    | none => s
    | some p => match p.rest with
      | [] => s.updPass id (fun p => { p with cur := none })
      | d :: r =>
        let n := d.nInst * ((d.live + 31) / 32)
        let d := { d with clusters := s.passFree p }
        let s := s.updPass id (fun p => { p with cur := some d, rest := r, states := p.states.put d.num d.st, ndraw := d.num + 1, binRun := 0 })
        if n = 0 then State.drawGo s id f
        else s.gfxDisp id p 0 0 n d.clusters (d.kds.getD 0 {})

/-- Start the next draw where the last one has been binned; a stop holds it (R389). -/
def State.drawNext (s : State) (id : Nat) : State :=
  match s.gfx.passes.get? id with
  | none => s
  | some p =>
    if p.toBin.isEmpty ∧ p.phase = 0 then
      if s.passHeld p then s.updPass id (fun p => { p with cur := none }) else s.drawGo id (p.rest.length + 1)
    else s

/-- The stages of the present draw are done: its primitives are binned. -/
def State.geomDone (s : State) (id : Nat) : State :=
  match (s.gfx.passes.get? id).bind (·.cur) with
  | none => s
  | some d => (State.binGo id d.prims s).drawNext id

/-- Pass `id` stands where a stop has left its binning, and no stop holds it now. -/
def State.passStood (s : State) (p : GPass) : Bool :=
  p.phase == 0 && s.ctxActive p.ctx && !s.fe.held.contains p.part && !s.passHeld p && (!p.toBin.isEmpty || (p.cur.isNone && !p.rest.isEmpty))

/-- Binning that a stop has held resumes at the next primitive or draw (R389). -/
def State.binResume (s : State) : State :=
  s.gfx.passes.foldl (fun s x => if s.passStood x.2 then (State.binGo x.1 x.2.toBin (s.updPass x.1 (fun p => { p with
    binRun := ((p.toBin.head?.map (·.prim)).getD 0) / 4096 }))).drawNext x.1 else s) s

/-- A draw packet: outside a pass, or before any GFX_STATE, it faults (R368); else its draws start. -/
def State.drawPkt (s : State) (sid op : Nat) (mk : State → Nat → GPass → GState → List Byte → List KDesc → Pkt → State × Option (List GDraw)) : State :=
  match s.canRun sid op with
  | none => s
  | some (st, p) =>
    match s.passOf sid, s.gfx.states.get? sid with
    | some (id, g), some (pso, dyn) =>
      if !g.idle || s.passHeld g then s
      else
        let s := s.dispatch sid st p
        let s := if p.acquire then s.pktAcquire st.ctx g.clusters else s
        match s.drawState g pso dyn with
        | (s, none) => s
        | (s, some (gs, vin, ks)) => match mk s id g gs vin ks p with
          | (s, none) => s
          | (s, some ds) => ((s.updPass id (fun p => { p with rest := ds })).drawNext id).nodeEnd sid
    | _, _ => (s.dispatch sid st p).gfxFault st.ctx 0x61

/-- DRAW (R367). -/
def execDraw (sid : Nat) (s : State) : Host.Outcome State Fault Refusal :=
  .next (s.drawPkt sid 0x22 (fun s _ g gs vin ks p =>
    match s.mkDraw g g.ndraw 0 gs vin ks ⟨pw1 p.w 1, pw1 p.w 2, pw1 p.w 3, 0, pw1 p.w 4⟩ none with
    | (s, some d) => (s, some [d])
    | (s, none) => (s, none)))

/-- DRAW_INDEXED (R367). -/
def execDrawIndexed (sid : Nat) (s : State) : Host.Outcome State Fault Refusal :=
  .next (s.drawPkt sid 0x23 (fun s _ g gs vin ks p =>
    match s.mkDraw g g.ndraw 0 gs vin ks ⟨pw1 p.w 3, pw1 p.w 4, pw1 p.w 5, pw1 p.w 6, pw1 p.w 7⟩
        (some (pw2 p.w 1, bits (pw1 p.w 8) 0 2, bit (pw1 p.w 8) 2)) with
    | (s, some d) => (s, some [d])
    | (s, none) => (s, none)))

/-- The draws of an indirect packet, whose arguments are read when it starts (R367). -/
def State.indirect (g : GPass) (gs : GState) (vin : List Byte) (ks : List KDesc) (p : Pkt) : List Nat → State → List GDraw → State × Option (List GDraw)
  | [], s, acc => (s, some acc)
  | k :: r, s, acc =>
    let ind := bit (pw1 p.w 7) 0
    match s.vread g.ctx 60 (pw2 p.w 1 + pw1 p.w 4 * k) (if ind then 20 else 16) with
    | (s, none) => (s, none)
    | (s, some b) =>
      let a (i : Nat) := field b (4 * i) 4
      let args : DrawArgs := if ind then ⟨a 0, a 1, a 2, a 3, a 4⟩ else ⟨a 0, a 1, a 2, 0, a 3⟩
      match s.mkDraw g (g.ndraw + k) k gs vin ks args (if ind then some (pw2 p.w 5, bits (pw1 p.w 7) 1 2, bit (pw1 p.w 7) 3) else none) with
      | (s, some d) => State.indirect g gs vin ks p r s (acc ++ [d])
      | (s, none) => (s, none)

/-- DRAW_INDIRECT (R367). -/
def execDrawIndirect (sid : Nat) (s : State) : Host.Outcome State Fault Refusal :=
  .next (s.drawPkt sid 0x24 (fun s _ g gs vin ks p => State.indirect g gs vin ks p (List.range (pw1 p.w 3)) s []))

/-! ### Groups of the stages (R376) -/

/-- An attribute of a vertex (R375): four 32-bit components; bytes at or beyond SIZE read as 0. -/
def State.attribute (s : State) (c eng : Nat) (vin : List Byte) (k vert inst : Nat) : State × Option (List Nat) :=
  let o := 0x108 + 8 * k
  let b := 8 + 16 * field vin o 1
  let f := field vin (o + 1) 1
  let at0 := (if field vin (b + 14) 1 = 1 then inst else vert) * field vin (b + 12) 2 + field vin (o + 2) 2
  let n := min (fmtBpp f) (field vin (b + 8) 4 - at0)
  if n = 0 then (s, some (texDec f 0))
  else match s.vread c eng (field vin b 8 + at0) n with
    | (s, some d) => (s, some (texDec f (ofBytes d)))
    | (s, none) => (s, none)

/-- All attributes of one vertex, in a group's registers. -/
def State.vertexIn (c eng lane vert inst : Nat) (vin : List Byte) : List Nat → State → Grp → State × Option Grp
  | [], s, y => (s, some y)
  | k :: r, s, y => match s.attribute c eng vin k vert inst with
    | (s, none) => (s, none)
    | (s, some v) => State.vertexIn c eng lane vert inst vin r s ((List.range 4).foldl (fun y j => y.wv lane (4 + 4 * k + j) (v.getD j 0)) y)

/-- The registers that a group's stage adds to those of R186, applied as the group starts. -/
abbrev RegSet := List (Nat × Nat × Nat)

/-- The vertices of group `idx` of a draw: instance, places. -/
def GDraw.vertsOf (d : GDraw) (idx : Nat) : Nat × List Nat :=
  let gpi := (d.live + 31) / 32
  (idx / gpi, (d.places.drop (32 * (idx % gpi))).take 32)

/-- The vertex index of a place of a draw. -/
def GDraw.vertAt (d : GDraw) (j : Nat) : Nat := match d.idx with
  | none => (d.first + j) % 2 ^ 32
  | some l => ((l[j]?).getD none).getD 0

/-- The attributes of every vertex of a group. -/
def State.vertsIn (c eng inst : Nat) (d : GDraw) : List (Nat × Nat) → State → Grp → State × Option Grp
  | [], s, y => (s, some y)
  | (lane, j) :: r, s, y =>
    let v := d.vertAt j
    match State.vertexIn c eng lane v (d.firstInst + inst) d.vin (List.range (field d.vin 1 1)) s (y.wv lane 0 v) with
    | (s, some y) => State.vertsIn c eng inst d r s y
    | (s, none) => (s, none)

/-- Words into a workgroup's local store from byte 0. -/
def wordsBytes (l : List Nat) : List Byte := l.flatMap (leBytes 4)

/-- Place a graphics group of dispatch `d` on `core`, with lanes, registers over those of R186, and local store. -/
def State.gfxPlace (s : State) (d : Nat) (x : Disp) (core lanes : Nat) (regs : Grp → Grp) (loc : List Byte) : State :=
  let wid := s.sh.nextWg
  let s := s.placeOn d x core x.next 1 (fun gi y => regs (initGrp x x.next gi y)) (fun _ => lanes)
  if loc.isEmpty then s else s.updWg wid (fun w => w.lwrite 0 loc)

/-- The FP32 word of a rational. -/
def rw (q : Rat) : Nat := ratRnd q

/-- The lanes of a fragment group: quad and pixel of each. -/
def fragLanes (qs : List GQuad) : List (Nat × GQuad × Nat) :=
  qs.zipIdx.flatMap (fun (p : GQuad × Nat) => (List.range 4).map (fun k => (4 * p.2 + k, p.1, k)))

/-- The registers of a fragment group (R376). -/
def fragRegs (p : GPass) (g : GState) (t : GPrim) (qs : List GQuad) (y : Grp) : Grp :=
  let locs := sampleLocs p.sm
  let y := (y.ws 2 t.prim).ws 3 (b2n t.front)
  let cov := (fragLanes qs).foldl (fun m x => if x.2.1.cov.getD x.2.2 0 ≠ 0 then m + 2 ^ x.1 else m) 0
  let y := { y.wp 7 cov with helper := y.lanes - (y.lanes &&& cov) }
  (fragLanes qs).foldl (fun y x =>
    let (l, q, k) := x
    let px := q.x + k % 2
    let py := q.y + k / 2
    let c := q.cov.getD k 0
    let ctr := match q.sample with
      | some sm => samplePos px py (locs.getD sm (8, 8))
      | none => samplePos px py (8, 8)
    let full := c = 2 ^ (2 ^ p.sm) - 1
    let cen := if full || q.sample.isSome then ctr else samplePos px py (locs.getD ((bitList c 8).headD 0) (8, 8))
    let (i, j, ow) := t.bary g ctr
    let (ci, cj, _) := t.bary g cen
    ((((((((y.wv l 0 (px + 65536 * py)).wv l 1 c).wv l 2 (t.depth32 g (p.fmt 8) ctr)).wv l 3 (rw ow)).wv l 4 (rw i)).wv l 5 (rw j)).wv l 6
      (rw ci)).wv l 7 (rw cj))) y

/-- Place the next group of a graphics dispatch. -/
def State.placeGfx (s : State) (d : Nat) (x : Disp) (stage id tile : Nat) : State :=
  match s.gfx.passes.get? id with
  | none => s
  | some p =>
    if stage = 1 then
      match p.run.find? (fun t => t.idx == tile) with
      | none => s
      | some t => match t.prim, t.prim.bind (fun q => p.states.get? q.draw) with
        | some q, some g =>
          if s.coreFits x.kd 1 t.core then
            s.gfxPlace d x t.core (2 ^ (4 * t.grp.length) - 1) (fragRegs p g q t.grp) []
          else s
        | _, _ => s
    else match p.cur with
      | none => s
      | some w =>
        if stage = 3 then
          match w.eval[x.next]? with
          | none => s
          | some (pt, st, n) => match w.patches.get? pt with
            | none => s
            | some q =>
              if s.coreFits x.kd 1 q.core then
                s.gfxPlace d x q.core (2 ^ n - 1) (fun y =>
                  let y := q.consts.zipIdx.foldl (fun (y : Grp) (c : Nat × Nat) => y.ws (16 + c.2) c.1) (y.ws 2 pt)
                  (List.range n).foldl (fun (y : Grp) l =>
                    let (u, v, z) := q.points.getD (st + l) (0, 0, 0)
                    ((y.wv l 0 u).wv l 1 v).wv l 2 z) y) (wordsBytes (q.cps.flatMap (fun c => c.take (4 * (w.st.nout + 1)))))
              else s
        else match s.placeCore x 1 with
          | none => s
          | some core =>
            if stage = 2 then
              match w.patches.get? x.next with
              | none => s
              | some q => s.gfxPlace d x core (2 ^ w.st.patchCp - 1) (fun y => y.ws 2 x.next)
                  (wordsBytes (q.cps.flatMap (fun c => c.take (4 * (w.st.nout + 1)))))
            else
              let (inst, js) := w.vertsOf x.next
              let blank : Grp := { wg := 0, ctx := 0, gi := 0, lanes := 0, exec := 0, pc := 0 }
              match State.vertsIn p.ctx (core / 4) inst w (js.zipIdx.map (fun q => (q.2, q.1))) s blank with
              | (s, none) => s
              | (s, some a) =>
                s.gfxPlace d x core (2 ^ js.length - 1) (fun y =>
                  a.v.foldl (fun y q => y.wv (q.1 % 32) (q.1 / 32) q.2) ((y.ws 2 (w.firstInst + inst)).ws 3 w.sub)) []

/-- WORKGROUP_PLACE: the next workgroup of dispatch `d` is placed (R190). -/
def execWorkgroupPlace (d : Nat) (s : State) : Host.Outcome State Fault Refusal :=
  match s.dispReady d with
  | none => .next s
  | some x => match x.kind with
    | .compute =>
      let n := x.kd.groups
      match s.placeCore x n with
      | none => .next s
      | some core => .next (s.placeOn d x core x.next n (initGrp x x.next) (lanesFor x.kd.threads))
    | .gfx stage id tile => .next (s.placeGfx d x stage id tile)
    | .hit _ => .next s

/-! ### Tile memory (R381 to R384) -/

/-- The place of a sample in tile memory. -/
def GPass.spot (p : GPass) (a x y sm : Nat) : Nat := p.attOff a + (((y % 32) * 32 + x % 32) * 2 ^ p.sm + sm) * p.bpp a

/-- A sample of an attachment, and a tile with it written. -/
def GTile.get (t : GTile) (p : GPass) (a x y sm : Nat) : Nat := ofBytes (t.mem.read (p.spot a x y sm) (p.bpp a))
def GTile.put (t : GTile) (p : GPass) (a x y sm v : Nat) : GTile := { t with mem := t.mem.write (p.spot a x y sm) (leBytes (p.bpp a) v) }

/-- The depth and stencil test of one sample (R373): the tile, and whether the sample passes. -/
def GTile.test (t : GTile) (p : GPass) (g : GState) (front : Bool) (x y sm z : Nat) : GTile × Bool :=
  if !p.hasDepth then (t, true)
  else
    let f := p.fmt 8
    let old := t.get p 8 x y sm
    let zOld := (texDec f old).getD 0 0
    let zNew := (texDec f (texEnc f 1 0 [z])).getD 0 0
    let st := bits old 32 8
    let o := if front then 1 else 13
    let stOn := bit g.stencil 0 && f == 0x42
    let sOk := !stOn || cmpOp (bits g.stencil (o + 9) 3) ((g.stencilRef &&& g.stencilCmp) < (st &&& g.stencilCmp))
      ((g.stencilRef &&& g.stencilCmp) == (st &&& g.stencilCmp))
    let zOn := bit g.depth 0
    let un := fp32.isNaN zNew || fp32.isNaN zOld
    let zOk := !zOn || (if un then bits g.depth 2 3 == 7 || bits g.depth 2 3 == 5
      else cmpOp (bits g.depth 2 3) (fp32.ltv zNew zOld) (!fp32.ltv zNew zOld && !fp32.ltv zOld zNew))
    let op := if !sOk then bits g.stencil o 3 else if zOk then bits g.stencil (o + 3) 3 else bits g.stencil (o + 6) 3
    let st' := if stOn then (st &&& (255 - g.stencilWr)) ||| (stencilOp op g.stencilRef st &&& g.stencilWr) else st
    let new := if sOk && zOk && zOn && bit g.depth 1 then texEnc f 1 old [z] else old
    let new := if f = 0x42 then bits new 0 32 + 2 ^ 32 * st' else new
    (if new = old then t else t.put p 8 x y sm new, sOk && zOk)

/-- Test the samples of a pixel at given depths: the tile, and those that pass. -/
def GTile.testMask (t : GTile) (p : GPass) (g : GState) (front : Bool) (x y mask : Nat) (z : Nat → Nat) : GTile × Nat :=
  (bitList mask 8).foldl (fun (r : GTile × Nat) sm =>
    let (t, ok) := r.1.test p g front x y sm (z sm)
    (t, if ok then r.2 + 2 ^ sm else r.2)) (t, 0)

/-- Depth and stencil are tested after shading (R381). -/
def GState.late (g : GState) : Bool := bits g.fsFlags 0 2 != 0

/-- The quads of a primitive in a tile, or in the half or quarter of it that is shaded (R382), in row order, within the scissor and the render area; early tests apply. -/
def GTile.quadsOf (t : GTile) (p : GPass) (g : GState) (q : GPrim) : GTile × List GQuad :=
  let x0 := t.idx % p.tw * 32
  let y0 := t.idx / p.tw * 32
  let inSub (k : Nat) : Bool := p.subtiles == 1 || (if p.subtiles = 2 then k / 128 == t.sub else k / 128 * 2 + k % 16 / 8 == t.sub)
  let inA (x y : Nat) : Bool := x < p.w && y < p.h && g.scissor 0 ≤ x && x < g.scissor 0 + g.scissor 2 && g.scissor 1 ≤ y &&
    y < g.scissor 1 + g.scissor 3
  ((List.range 256).filter inSub).foldl (fun (r : GTile × List GQuad) k =>
    let qx := x0 + 2 * (k % 16)
    let qy := y0 + 2 * (k / 16)
    let (t, cov) := (List.range 4).foldl (fun (r : GTile × List Nat) j =>
      let x := qx + j % 2
      let y := qy + j / 2
      let m := if inA x y then q.mask p.sm x y else 0
      if m = 0 || (g.late && g.fs.isSome) then (r.1, r.2 ++ [m])
      else
        let (t, m) := r.1.testMask p g q.front x y m (fun sm => q.depth32 g (p.fmt 8) (samplePos x y ((sampleLocs p.sm).getD sm (8, 8))))
        (t, r.2 ++ [m])) (r.1, [])
    if cov.all (· == 0) then (t, r.2)
    else if bit g.fsFlags 2 then
      (t, r.2 ++ (List.range (2 ^ p.sm)).filterMap (fun sm =>
        let c := cov.map (fun m => if bit m sm then 2 ^ sm else 0)
        if c.all (· == 0) then none else some { x := qx, y := qy, cov := c, sample := some sm }))
    else (t, r.2 ++ [{ x := qx, y := qy, cov := cov }])) (t, [])

/-- Go on with a tile until a group must shade, or its work is done, one half or quarter after another (R382). -/
def GTile.advance (p : GPass) : (fuel : Nat) → GTile → GTile
  | 0, t => t
  | f + 1, t =>
    match t.quads with
    | q :: r => { t with grp := (q :: r).take 8, quads := (q :: r).drop 8, busy := true }
    | [] => match t.work with
      | [] =>
        if t.sub + 1 < p.subtiles then GTile.advance p f { t with sub := t.sub + 1, work := p.bins.filter (fun b => b.tiles.contains t.idx) }
        else { t with prim := none, grp := [], busy := false }
      | q :: r => match p.states.get? q.draw with
        | none => GTile.advance p f { t with work := r }
        | some g =>
          let (t, qs) := t.quadsOf p g q
          GTile.advance p f { t with work := r, prim := some q, quads := if g.fs.isSome then qs else [] }

/-- A tile goes on; its next fragment group waits to be placed on its core. -/
def State.tileGo (s : State) (id : Nat) (t : GTile) : State :=
  match s.gfx.passes.get? id with
  | none => s
  | some p =>
    let t := GTile.advance p (t.work.length + 4 * (p.bins.length + 1) + 2) { t with busy := false, grp := [] }
    let s := s.updPass id (fun p => { p with run := p.run.map (fun x => if x.idx = t.idx then t else x) })
    if !t.busy then s
    else match (t.prim.bind (fun q => p.states.get? q.draw)).bind (·.fs) with
      | some k => s.gfxDisp id p 1 t.idx 1 p.clusters k
      | none => s

/-- The colours and depths of an ended fragment group reach its tile: late tests, then blending (R376, R381, R383). -/
def GTile.blendGroup (t : GTile) (p : GPass) (g : GState) (q : GPrim) (y : Grp) : GTile :=
  (fragLanes t.grp).foldl (fun (t : GTile) x =>
    let (l, d, k) := x
    let px := d.x + k % 2
    let py := d.y + k / 2
    let c := d.cov.getD k 0
    if c = 0 ∨ ¬ bit (y.rp 7) l then t
    else
      let z (sm : Nat) : Nat :=
        if bit g.fsFlags 0 then y.rv l 40 else q.depth32 g (p.fmt 8) (samplePos px py ((sampleLocs p.sm).getD sm (8, 8)))
      let (t, m) := if g.late then t.testMask p g q.front px py c z else (t, c)
      let col (a : Nat) : List Nat := (List.range 4).map (fun j => y.rv l (8 + 4 * a + j))
      (List.range p.ncolor).foldl (fun (t : GTile) a => (bitList m 8).foldl (fun (t : GTile) sm =>
        t.put p a px py sm (blendTexel (p.fmt a) (g.blend a) (t.get p a px py sm) (col a) (col 1) g.blendCon)) t) t) t

/-! ### The end of a graphics group (R376) -/

/-- The outputs of a lane: position, NOUT vectors, and the word after them. -/
def outWords (y : Grp) (nout lane : Nat) : List Nat := (List.range (4 * (nout + 1) + 1)).map (fun r => y.rv lane r)

/-- What an ending group leaves to its stage. -/
def State.gfxEnd (s : State) (e : GEnv) : State :=
  match e.disp.kind with
  | .gfx stage id tile =>
    match s.gfx.passes.get? id with
    | none => s
    | some p =>
      let y := e.grp
      if stage = 1 then
        match p.run.find? (fun t => t.idx == tile) with
        | none => s
        | some t => match t.prim, t.prim.bind (fun q => p.states.get? q.draw) with
          | some q, some g =>
            s.updPass id (fun p => { p with run := p.run.map (fun x => if x.idx = tile then t.blendGroup p g q y else x) })
          | _, _ => s
      else match p.cur with
        | none => s
        | some w =>
          let c := clusterOf e.id
          let outs (lanes : List (Nat × Nat)) (m : NMap (Nat × List Nat)) : NMap (Nat × List Nat) :=
            lanes.foldl (fun m q => m.put q.2 (c, outWords y w.st.nout q.1)) m
          let w := if stage = 0 then
              let (inst, js) := w.vertsOf e.wg.idx
              { w with outs := outs (js.zipIdx.map (fun q => (q.2, inst * w.count + q.1))) w.outs }
            else if stage = 2 then
              { w with patches := w.patches.upd e.wg.idx (fun q => { q with
                core := coreOf e.id, outer := (List.range 4).map (fun k => y.rs (8 + k)), inner := [y.rs 12, y.rs 13],
                consts := (List.range 16).map (fun k => y.rs (16 + k)),
                cps := (List.range w.st.patchCp).map (fun l => outWords y w.st.nout l) }) }
            else match w.eval[e.wg.idx]? with
              | none => w
              | some (pt, st, n) => { w with outs := outs ((List.range n).map (fun l => (l, pt * 65536 + st + l))) w.outs }
          s.updPass id (fun p => { p with cur := some w })
  | _ => s

/-- The patches of a draw whose vertices are shaded, in order. -/
def GDraw.mkPatches (d : GDraw) : NMap GPatch :=
  let cp := d.st.patchCp
  let all := (List.range d.nInst).flatMap (fun i => d.runs.flatMap (fun r =>
    (List.range (r.length / cp)).map (fun k => ((r.drop (cp * k)).take cp).map (fun j => i * d.count + j))))
  all.zipIdx.map (fun q => (q.2, { idx := q.2, core := 0, cps := q.1.map d.out }))

/-- A graphics dispatch has ended: the next stage starts, or the tile goes on. -/
def State.stageDone (s : State) (stage id tile : Nat) : State :=
  match s.gfx.passes.get? id with
  | none => s
  | some p =>
    if stage = 1 then
      match p.run.find? (fun t => t.idx == tile) with
      | none => s
      | some t => s.tileGo id t
    else match p.cur with
      | none => s
      | some w =>
        if stage = 0 ∧ w.st.isPatch then
          let w := { w with patches := w.mkPatches }
          let s := s.updPass id (fun p => { p with cur := some w })
          if w.patches.isEmpty then s.geomDone id else s.gfxDisp id p 2 0 w.patches.length w.clusters (w.kds.getD 1 {})
        else if stage = 2 then
          let use := s.freeCtr
          let w := { w with patches := w.patches.map (fun (q : Nat × GPatch) =>
            let (ps, ts) := tessellate (use + q.1) w.st.tess q.2.outer q.2.inner
            (q.1, { q.2 with points := ps, tris := ts })) }
          let w := { w with eval := w.patches.flatMap (fun (q : Nat × GPatch) =>
            (List.range ((q.2.points.length + 31) / 32)).map (fun k => (q.1, 32 * k, min 32 (q.2.points.length - 32 * k)))) }
          let s := { s with freeCtr := use + w.patches.length }.updPass id (fun p => { p with cur := some w })
          if w.eval.isEmpty then s.geomDone id else s.gfxDisp id p 3 0 w.eval.length w.clusters (w.kds.getD 2 {})
        else s.geomDone id

/-- Graphics dispatches that have ended, in turn. -/
def State.gfxGo (s : State) : State :=
  s.sh.fin.foldl (fun s k => match k with
    | .gfx stage id tile => s.stageDone stage id tile
    | _ => s) { s with sh := { s.sh with fin := [] } }

/-! ### Tiles (R380 to R386) -/

/-- Rows of the pixels of a tile inside the image: y, and how many pixels. -/
def GPass.rowsIn (p : GPass) (tile : Nat) : List Nat × Nat :=
  let y0 := tile / p.tw * 32
  ((List.range (min 32 (p.h - y0))).map (y0 + ·), min 32 (p.w - tile % p.tw * 32))

/-- Load rows of an attachment into tile memory. -/
def State.loadRows (c eng : Nat) (p : GPass) (a tile : Nat) : List Nat → State → Memory → State × Option Memory
  | [], s, m => (s, some m)
  | y :: r, s, m =>
    let x0 := tile % p.tw * 32
    let n := (p.rowsIn tile).2 * 2 ^ p.sm * p.bpp a
    match s.vread c eng (p.va a + y * p.pitch a + x0 * 2 ^ p.sm * p.bpp a) n with
    | (s, none) => (s, none)
    | (s, some d) => State.loadRows c eng p a tile r s (m.write (p.spot a x0 y 0) d)

/-- The clear value of an attachment (R370). -/
def GPass.clearVal (p : GPass) (a : Nat) : Nat :=
  let v := (List.range 4).map (fun k => p.att a (0x20 + 4 * k) 4)
  let f := p.fmt a
  texEnc f 15 0 v + (if f = 0x42 then 2 ^ 32 * (v.getD 1 0 % 256) else 0)

/-- Load the attachments of a tile (R370): from memory, cleared, or with free contents. -/
def State.loadAtts (c eng : Nat) (p : GPass) (tile : Nat) : List Nat → State → Memory → State × Option Memory
  | [], s, m => (s, some m)
  | a :: r, s, m =>
    let n := 1024 * 2 ^ p.sm
    if p.load a = 0 then
      match State.loadRows c eng p a tile (p.rowsIn tile).1 s m with
      | (s, some m) => State.loadAtts c eng p tile r s m
      | (s, none) => (s, none)
    else if p.load a = 1 then
      State.loadAtts c eng p tile r s (m.write (p.attOff a) ((List.replicate n (leBytes (p.bpp a) (p.clearVal a))).flatten))
    else
      let (b, s) := s.freeBytes 35 (n * p.bpp a)
      State.loadAtts c eng p tile r s (m.write (p.attOff a) b)

/-- A tile of pass `p` may start on cluster `c`: Realtime apart, no Realtime job holds it and the budget is not exhausted, and no
test waits for it (R389, R440, R449, R607). -/
def State.tileMay (s : State) (p : GPass) (c : Nat) : Bool :=
  !s.passStops p c && (p.prio == 3 || !bit (s.rd FE_BUDGET.EXHAUSTED p.part) 0)

/-- Tiles in a core of a pass, and the room for one more (R382, R389). -/
def State.tileFits (s : State) (p : GPass) (core : Nat) : Bool :=
  let here := s.sh.tileBytes.filter (fun q => q.1 == core)
  let ws := s.coreWgs core
  s.coreUp (core / 4) (core % 4) && s.tileMay p (core / 4) && here.length < 4 &&
  ((ws.isEmpty && here.isEmpty) || s.coreSplit core == 3) &&
  (ws.foldl (fun t q => t + (s.wgKd q.2).localBytes) 0) + here.foldl (fun n q => n + q.2) 0 + p.coreBytes ≤ 0x30000

/-- TILE_START: the next tile of pass `id` starts on the first core with room, and loads its attachments (R381). -/
def execTileStart (id : Nat) (s : State) : Host.Outcome State Fault Refusal :=
  match s.gfx.passes.get? id with
  | none => .next s
  | some p => match p.tiles with
    | [] => .next s
    | tile :: r =>
      if p.phase < 2 ∨ ¬ s.ctxActive p.ctx ∨ s.fe.held.contains p.part ∨ (s.saf.hold ∧ p.prio ≠ 3) then .next s
      else match ((bitList p.clusters 48).flatMap (fun c => (List.range 4).map (4 * c + ·))).find? (s.tileFits p) with
        | none => .next s
        | some core =>
          let eng := core / 4
          let s := s.setSplit core 3
          let (s, m) := if p.marked.contains tile then
              match s.vread p.ctx eng (p.flushVa + p.tileBytes * tile) p.tileBytes with
              | (s, some d) => (s, some (Memory.write [] 0 d))
              | (s, none) => (s, none)
            else State.loadAtts p.ctx eng p tile p.atts s []
          match m with
          | none => .next s
          | some m =>
            let t : GTile := { idx := tile, core := core, mem := m, work := p.bins.filter (fun b => b.tiles.contains tile) }
            let s := State.tagCore { s with sh := { s.sh with tileBytes := s.sh.tileBytes ++ [(core, p.coreBytes)] } } core p.ctx
            let s := s.updPass id (fun p => { p with tiles := r, run := p.run ++ [t], shaded := p.shaded + 1 })
            .next (s.tileGo id t)

/-- A component of a resolved pixel (R384). -/
def resolveComp (mode : Nat) (isInt : Bool) (vs : List Nat) : Nat :=
  if mode = 1 then vs.headD 0
  else if isInt then (if mode = 2 then vs.foldl min (vs.headD 0) else vs.foldl max (vs.headD 0))
  else if mode ≥ 2 then (vs.drop 1).foldl (fun a b => (fp32.minNum (mode == 3) a b).1) (vs.headD 0)
  else if vs.all finite32 then ratRnd ((vs.foldl (fun (a : Rat) w => a + ratOf w) 0) / (vs.length : Rat))
  else vs.foldl (fun a b => (fp32.add a b).1) 0

/-- A resolved pixel. -/
def GTile.resolved (t : GTile) (p : GPass) (a x y : Nat) : Nat :=
  let f := p.fmt a
  let ss := (List.range (2 ^ p.sm)).map (fun sm => t.get p a x y sm)
  let v := (List.range 4).map (fun k => resolveComp (p.resolve a) (fmtInt f) (ss.map (fun n => (texDec f n).getD k 0)))
  let st := resolveComp (p.resolve a) true (ss.map (fun n => bits n 32 8))
  texEnc f 15 0 v + (if f = 0x42 then 2 ^ 32 * st else 0)

/-- The bytes that a store writes for samples of a format: those of D32_FLOAT_S8 have bits [63:40] 0 (R371). -/
def attBytes (fmt : Nat) (b : List Byte) : List Byte :=
  if fmt = 0x42 then b.zipIdx.map (fun x => if x.2 % 8 ≥ 5 then 0 else x.1) else b

/-- The rows that the store of an attachment writes: the sample image, and the resolved image. -/
def GTile.rows (t : GTile) (p : GPass) (a : Nat) (res : Bool) : List (Nat × List Byte) :=
  let x0 := t.idx % p.tw * 32
  let (ys, n) := p.rowsIn t.idx
  ys.map (fun y =>
    if res then
      (p.resolveVa a + y * (p.pitch a / 2 ^ p.sm) + x0 * p.bpp a, (List.range n).flatMap (fun x => leBytes (p.bpp a) (t.resolved p a (x0 + x) y)))
    else (p.va a + y * p.pitch a + x0 * 2 ^ p.sm * p.bpp a, attBytes (p.fmt a) (t.mem.read (p.spot a x0 y 0) (n * 2 ^ p.sm * p.bpp a))))

/-- Write rows in order; false after a fault. -/
def State.putRows (c eng : Nat) : List (Nat × List Byte) → State → State × Bool
  | [], s => (s, true)
  | (a, b) :: r, s => match s.vwrite c eng a b with
    | (s, true) => State.putRows c eng r s
    | (s, false) => (s, false)

/-- The header of a signature buffer (R385, assumption 42). -/
def GPass.sigHeader (p : GPass) (a : Nat) : List Byte :=
  leBytes 8 (p.va a) ++ leBytes 4 (p.pitch a) ++ leBytes 4 (p.fmt a) ++ leBytes 4 p.w ++ leBytes 4 p.h ++ leBytes 4 p.sm ++
  leBytes 4 0x53494700 ++ leBytes 32 0

/-- Store the attachments of a tile: a tile whose signature matches is not written; new signatures always are (R385,
R386). The answer counts the skips; none after a fault. -/
def State.storeAtts (eng : Nat) (p : GPass) (t : GTile) : List Nat → State → Nat → State × Option Nat
  | [], s, k => (s, some k)
  | a :: r, s, k =>
    let st := p.store a
    if st = 1 then State.storeAtts eng p t r s k
    else
      let main := t.rows p a (st == 2)
      let all := main ++ if st = 3 then t.rows p a true else []
      let put (s : State) (k : Nat) (skip : Bool) (sig : Option Nat) : State × Option Nat :=
        match State.putRows p.ctx eng ((if skip then [] else all) ++ (match sig with
            | some v => [(p.sigVa a + 0x40 + 4 * t.idx, leBytes 4 v)]
            | none => [])) s with
        | (s, true) => State.storeAtts eng p t r s (if skip then k + 1 else k)
        | (s, false) => (s, none)
      if !bit p.flags 1 then put s k false none
      else
        let sig := crc32c (main.flatMap (·.2))
        match s.vread p.ctx eng (p.sigVa a + 0x40 + 4 * t.idx) 4 with
        | (s, none) => (s, none)
        | (s, some o) =>
          put s k (p.sigOk.contains a && !bit p.flags 2 && p.flushes == 0 && ofBytes o == sig) (some sig)

/-- The packets of a pass, from its RENDER_PASS_BEGIN to its RENDER_PASS_END, complete together (R369). -/
def State.passPkts (s : State) (p : GPass) : State :=
  match s.fe.strms.get? p.sid with
  | none => s
  | some st => (st.pkts.filter (fun k => k.st == 1 && 0x20 ≤ k.op && k.op < 0x30 && p.pid0 ≤ k.pid && k.pid ≤ p.pidEnd)).foldl (fun s k => s.donePkt p.sid k.pid) s

/-- The pass ends: signature headers, the status record, and its packets (R386, R387, R369). -/
def State.passEnd (s : State) (id : Nat) (p : GPass) : State :=
  let eng := (bitList p.clusters 48).headD 60
  let hdr := if bit p.flags 1 then (p.atts.filter (fun a => p.store a != 1)).map (fun a => (p.sigVa a, p.sigHeader a)) else []
  let (clk, s) := s.free 36
  let rec_ := leBytes 8 p.flushes ++ leBytes 8 p.high ++ leBytes 4 p.shaded ++ leBytes 4 p.skipped ++ leBytes 4 p.subtiles ++ leBytes 4 0 ++
    leBytes 8 clk ++ leBytes 8 s.now ++ leBytes 16 0
  match State.putRows p.ctx eng (hdr ++ if p.statusVa = 0 then [] else [(p.statusVa, rec_)]) s with
  | (s, false) => s
  | (s, true) => State.passPkts { s with gfx := { s.gfx with passes := s.gfx.passes.del id } } p

/-- A partial flush has written its last tile: the pool is emptied but for its header, and binning resumes (R380). -/
def State.flushEnd (s : State) (id : Nat) (p : GPass) : State :=
  let s := s.updPass id (fun p => { p with bins := [], lists := [], used := 0x10000, phase := 0 })
  (State.binGo id p.toBin s).drawNext id

/-- The tile has left its core; after the last one the phase ends. -/
def State.tileDone' (s : State) (id : Nat) (t : GTile) (skips : Nat) : State :=
  match s.gfx.passes.get? id with
  | none => s
  | some p =>
    let s := { s with sh := { s.sh with tileBytes := s.sh.tileBytes.erase (t.core, p.coreBytes) } }
    let p := { p with run := p.run.filter (fun x => x.idx != t.idx), skipped := p.skipped + skips,
                      marked := if p.phase = 2 then t.idx :: p.marked else p.marked }
    let s := s.updPass id (fun _ => p)
    if !p.run.isEmpty || !p.tiles.isEmpty then s
    else if p.phase = 2 then s.flushEnd id p else s.passEnd id p

/-- Another open pass of the context uses the pass's bin pool or flush area (R390). -/
def State.poolShared (s : State) (id : Nat) (p : GPass) : Bool :=
  let meet (a n b m : Nat) : Bool := a < b + m && b < a + n
  let area (p : GPass) : Nat := p.tileBytes * ((p.w + 31) / 32 * ((p.h + 31) / 32))
  s.gfx.passes.any (fun x => x.1 != id && x.2.ctx == p.ctx &&
    (meet p.poolVa p.poolBytes x.2.poolVa x.2.poolBytes ||
     (p.flushVa != 0 && x.2.flushVa != 0 && meet p.flushVa (area p) x.2.flushVa (area x.2))))

/-- A tile as it is stored: where two passes share a bin pool or flush area its result is undefined (R390), so it is free. -/
def State.shownTile (s : State) (id : Nat) (p : GPass) (t : GTile) : GTile × State :=
  if s.poolShared id p then
    let (d, s) := s.freeBytes 53 p.tileBytes
    ({ t with mem := Memory.write [] 0 d }, s)
  else (t, s)

/-- TILE_STORE: a shaded tile of pass `id` is stored, or written to the flush area during a partial flush (R380, R386). -/
def execTileStore (id tile : Nat) (s : State) : Host.Outcome State Fault Refusal :=
  match s.gfx.passes.get? id with
  | none => .next s
  | some p => match p.run.find? (fun t => t.idx == tile) with
    | none => .next s
    | some t =>
      if t.busy ∨ ¬ s.ctxActive p.ctx then .next s
      else
        let eng := t.core / 4
        let (t, s) := s.shownTile id p t
        if p.phase = 2 then
          match s.vwrite p.ctx eng (p.flushVa + p.tileBytes * tile) (t.mem.read 0 p.tileBytes) with
          | (s, true) => .next (s.tileDone' id t 0)
          | (s, false) => .next s
        else match State.storeAtts eng p t p.atts s 0 with
          | (s, some k) => .next (s.tileDone' id t k)
          | (s, none) => .next s

/-- PARTIAL_FLUSH: the full pool of pass `id` is shaded and flushed (R380). -/
def execPartialFlush (id : Nat) (s : State) : Host.Outcome State Fault Refusal :=
  match s.gfx.passes.get? id with
  | none => .next s
  | some p =>
    if p.phase ≠ 1 ∨ ¬ s.ctxActive p.ctx then .next s
    else
      let s := if p.flushes = 0 then s.raise 0x0A0 else s
      let s := (s.count PMU_FIXED.GFX_FLUSHES).pmu 0x81 ((p.toBin.head?.map (·.quad)).getD 0) p.part
      let tiles := p.allTiles.filter (fun k => p.bins.any (fun b => b.tiles.contains k))
      let s := s.updPass id (fun p => { p with phase := 2, flushes := p.flushes + 1, tiles := tiles })
      .next (if tiles.isEmpty then s.flushEnd id { p with flushes := p.flushes + 1 } else s)

/-- The attachments whose signature headers match (R386). -/
def State.sigHeaders (eng : Nat) (p : GPass) : List Nat → State → List Nat → State × Option (List Nat)
  | [], s, l => (s, some l)
  | a :: r, s, l => match s.vread p.ctx eng (p.sigVa a) 64 with
    | (s, none) => (s, none)
    | (s, some b) => State.sigHeaders eng p r s (if b.take 32 = (p.sigHeader a).take 32 then l ++ [a] else l)

/-- RENDER_PASS_END: outside a pass it faults; once everything is binned, every tile is shaded (R368, R369, R381). ACQUIRE drops the context's L1 lines in
the clusters that shade them (R117). -/
def execRenderPassEnd (sid : Nat) (s : State) : Host.Outcome State Fault Refusal :=
  match s.canRun sid 0x25 with
  | none => .next s
  | some (st, k) => match s.passOf sid with
    | none => .next ((s.dispatch sid st k).gfxFault st.ctx 0x61)
    | some (id, p) =>
      if !p.idle then .next s
      else
        let s := s.dispatch sid st k
        let s := if k.acquire then s.pktAcquire st.ctx p.clusters else s
        let eng := (bitList p.clusters 48).headD 60
        match State.sigHeaders eng p (if bit p.flags 1 then p.atts.filter (fun a => p.store a != 1) else []) s [] with
        | (s, none) => .next s
        | (s, some ok) => .next (s.updPass id (fun p => { p with phase := 3, tiles := p.allTiles, sigOk := ok, pidEnd := k.pid }))

/-- END (R227): the group ends, and leaves its outputs to its stage (R376); its slot is freed once its pending hits have
arrived. -/
def execEnd (g : Nat) (i : Ins) (s : State) : Host.Outcome State Fault Refusal :=
  .next (s.issue ⟨9, some 0x0F⟩ g i true [] 0 false (fun _ => if i.x ≠ 0 then some 1 else none) (fun s e =>
    let s := s.gfxEnd e
    let s := s.updWg e.grp.wg (fun w => { w with ended := e.grp.gi :: w.ended })
    let s := s.barRelease e.grp.wg
    if e.grp.rets.isEmpty then (s.grpGone g).gfxGo else s.updGrp g (fun x => { x with ended := true })))

/-- The passes of context `c` go (R390): tiles not yet stored are not written. -/
def State.gfxTeardown (s : State) (c : Nat) : State :=
  let mine := s.gfx.passes.filter (fun p => p.2.ctx == c)
  let held := mine.flatMap (fun p => p.2.run.map (fun t => (t.core, p.2.coreBytes)))
  { s with
    gfx := { s.gfx with passes := s.gfx.passes.filter (fun p => p.2.ctx != c),
                        states := s.gfx.states.filter (fun p => ((s.fe.strms.get? p.1).map (·.ctx)) != some c) },
    sh := { s.sh with tileBytes := held.foldl (fun l x => l.erase x) s.sh.tileBytes } }

end Sys2Proof.Machine
end

