-- ==== Sys2Proof/Machine/Loom.lean ====
section
/-! DEFINITION. The Looms' Drafts, layouts and arithmetic (chapters 10 and 11, R277 to R322). -/

namespace Sys2Proof.Machine

/-! ### The Draft (R284, R285) -/

namespace LDraft

def f (d : LDraft) (o n : Nat) : Nat := field d.raw o n
def op (d : LDraft) : Nat := d.f 1 1
def pair (d : LDraft) : Nat := d.f 2 1
def wfmt (d : LDraft) : Nat := bits (d.f 3 1) 0 2
def afmt (d : LDraft) : Nat := bits (d.f 3 1) 2 2
def ofmt (d : LDraft) : Nat := bits (d.f 3 1) 4 4
def mode (d : LDraft) : Nat := d.f 4 4
def passes (d : LDraft) : Nat := bits d.mode 0 2
def comp (d : LDraft) : Bool := bit d.mode 2
def flush (d : LDraft) : Bool := bit d.mode 3
def accInit (d : LDraft) : Bool := bit d.mode 4
/-- 0 BOLT, 1 SPOOL, 2 MEMORY, 3 BEAM -/
def dest (d : LDraft) : Nat := bits d.mode 5 2
def act (d : LDraft) : Nat := bits d.mode 7 2
def yields (d : LDraft) : Bool := bit d.mode 9
def m (d : LDraft) : Nat := d.f 8 4
def k (d : LDraft) : Nat := d.f 0xC 4
def n (d : LDraft) : Nat := d.f 0x10 4
def mblk (d : LDraft) : Nat := d.f 0x14 2
def boltBase (d : LDraft) : Nat := d.f 0x16 2
def epiVa (d : LDraft) : Nat := d.f 0x78 8
def clampLo (d : LDraft) : Nat := d.f 0x80 4
def clampHi (d : LDraft) : Nat := d.f 0x84 4
def waitEn (d : LDraft) : Bool := bit (d.f 0x88 2) 15
def waitTally (d : LDraft) : Nat := bits (d.f 0x88 2) 0 13
def waitTarget (d : LDraft) : Nat := d.f 0x90 8
def sigEn (d : LDraft) : Bool := bit (d.f 0x98 2) 15
def sigTally (d : LDraft) : Nat := bits (d.f 0x98 2) 0 13
def sigValue (d : LDraft) : Nat := d.f 0xA0 8
def statusVa (d : LDraft) : Nat := d.f 0xA8 8
def liveBase (d : LDraft) : Nat := d.f 0xD0 2
def liveRows (d : LDraft) : Nat := d.f 0xD2 2
/-- a descriptor: 0x18 A, 0x38 W, 0x58 O -/
def src1 (d : LDraft) (o : Nat) : Nat := d.f o 1
def layout (d : LDraft) (o : Nat) : Nat := d.f (o + 1) 1
def base (d : LDraft) (o : Nat) : Nat := d.f (o + 2) 2
def rows (d : LDraft) (o : Nat) : Nat := d.f (o + 4) 2
def tva (d : LDraft) (o : Nat) : Nat := d.f (o + 8) 8
def stride (d : LDraft) (o : Nat) : Nat := d.f (o + 16) 8
def expVa (d : LDraft) (o : Nat) : Nat := d.f (o + 24) 8
/-- the convolution block (R295) -/
def hIn (d : LDraft) : Nat := d.f 0xB0 2
def wIn (d : LDraft) : Nat := d.f 0xB2 2
def cIn (d : LDraft) : Nat := d.f 0xB4 2
def batch (d : LDraft) : Nat := d.f 0xB6 2
def kh (d : LDraft) : Nat := d.f 0xB8 1
def kw (d : LDraft) : Nat := d.f 0xB9 1
def strideH (d : LDraft) : Nat := d.f 0xBA 1
def strideW (d : LDraft) : Nat := d.f 0xBB 1
def padT (d : LDraft) : Nat := d.f 0xBC 1
def padL (d : LDraft) : Nat := d.f 0xBD 1
def dilH (d : LDraft) : Nat := d.f 0xBE 1
def dilW (d : LDraft) : Nat := d.f 0xBF 1
def hOut (d : LDraft) : Nat := d.f 0xC0 2
def wOut (d : LDraft) : Nat := d.f 0xC2 2
def packed (d : LDraft) : Bool := d.f 0xC4 1 == 1

end LDraft

/-- Places of the three descriptors. -/
def dA : Nat := 0x18
def dW : Nat := 0x38
def dO : Nat := 0x58

/-- K_t of a pairing (R280). -/
def pairKt (p : Nat) : Nat := [256, 512, 512, 512, 1024].getD p 256

/-- Format of the weights, and of the activations, of a Draft (R280). -/
def LDraft.wc (d : LDraft) : Nat := [1, 3 + d.wfmt, 6, 9, 8].getD d.pair 1
def LDraft.ac (d : LDraft) : Nat := [1, 3 + d.afmt, 6, 6, 8].getD d.pair 1

/-- The pairing of which a format is an operand format, as its K_t (R287, R292). -/
def fmtKt (c : Nat) : Nat := if c = 1 then 256 else if c = 8 then 1024 else 512

/-- Beam rows of a weight tile of a format (R280). -/
def tileRows (c : Nat) : Nat := if c = 5 then 192 else if c = 9 then 128 else if c = 8 then 272 else 256

def LDraft.kt (d : LDraft) : Nat := pairKt d.pair
/-- J and T (R289). -/
def LDraft.J (d : LDraft) : Nat := ceilDiv d.k d.kt
def LDraft.T (d : LDraft) : Nat := ceilDiv d.n 256
/-- m-blocks, and rows of block `b`. -/
def LDraft.blocks (d : LDraft) : Nat := ceilDiv d.m d.mblk
def LDraft.mb (d : LDraft) (b : Nat) : Nat := min d.mblk (d.m - b * d.mblk)
/-- Planes of the weights and of the activations (R313). -/
def LDraft.wPlanes (d : LDraft) : Nat := if d.passes ≥ 2 then 2 else 1
def LDraft.aPlanes (d : LDraft) : Nat := if d.passes = 3 then 2 else 1
/-- Bits of an element of W and of A in memory (R311, R313). -/
def LDraft.wMem (d : LDraft) : Nat := if d.passes ≥ 2 then 32 else fmtBits d.wc
def LDraft.aMem (d : LDraft) : Nat := if d.passes = 3 then 32 else fmtBits d.ac
/-- The Draft accumulates in INT32 (R280). -/
def LDraft.isInt (d : LDraft) : Bool := d.pair == 2 || d.pair == 3
/-- In-place mode (R291). -/
def LDraft.inPlace (d : LDraft) : Bool := d.dest == 0 || d.accInit

/-- Rows with their SB4 exponent rows (R290). -/
def withExp (sb4 : Bool) (r : Nat) : Nat := if sb4 then r + ceilDiv r 16 else r

/-- Spool rows of a pixel in the direct form (R296). -/
def LDraft.pixRows (d : LDraft) : Nat := ceilDiv d.cIn d.kt

/-- Input rows that a block whose outputs touch `q` output rows reads; the largest of the Draft (R296). -/
def LDraft.convU (d : LDraft) : Nat :=
  let one (b : Nat) : Nat :=
    let q := (b * d.mblk + d.mb b - 1) / d.wOut - b * d.mblk / d.wOut + 1
    (q - 1) * d.strideH + (d.kh - 1) * d.dilH + 1
  (List.range d.blocks).foldl (fun u b => max u (one b)) 0

/-- Element rows of the A region (R289, R296, R313). -/
def LDraft.aElRows (d : LDraft) : Nat :=
  if d.op = 3 ∨ d.src1 dA = 0 then d.aPlanes * d.J * d.m
  else if d.op = 1 ∧ ¬ d.packed then 2 * d.convU * d.wIn * d.pixRows * d.aPlanes
  else 2 * d.aPlanes * d.J * d.mblk

/-- Rows that each region needs: A, W, and the output in the Spool or the Beam (R289 to R292, R313). -/
def LDraft.aNeed (d : LDraft) : Nat := withExp (d.pair == 4) d.aElRows
def LDraft.wNeed (d : LDraft) : Nat := d.wPlanes * d.J * d.T * tileRows d.wc
def LDraft.oNeed (d : LDraft) : Nat :=
  if d.dest = 1 then withExp (d.ofmt == 8) (ceilDiv d.n (fmtKt d.ofmt) * d.m)
  else
    let (k', n') := if d.layout dO = 0 then (d.m, d.n) else (d.n, d.m)
    ceilDiv k' (fmtKt d.ofmt) * ceilDiv n' 256 * tileRows d.ofmt

/-- Bytes of one row of a tensor in memory. -/
def rowLen (elems w : Nat) : Nat := ceilDiv (elems * w) 8

/-- A descriptor of a tensor in memory is wrong: misaligned, absent, or with a short stride (R285, R286). -/
def LDraft.memBad (d : LDraft) (o len : Nat) (sb4 : Bool) : Bool :=
  d.tva o % 16 != 0 || d.tva o == 0 || d.stride o % 16 != 0 || d.stride o < len || d.expVa o % 16 != 0 ||
  (sb4 && d.expVa o == 0) || (!sb4 && d.expVa o != 0)

/-- Two row ranges overlap. -/
def overlap (a n b k : Nat) : Bool := n != 0 && k != 0 && a < b + k && b < a + n

/-- The reserved fields of R284, R285 and R295 are not all 0 (R664). -/
def LDraft.reserved (d : LDraft) : Bool :=
  bits (d.f 0 1) 4 4 != 0 || d.op > 4 || d.pair > 4 || bits d.mode 10 22 != 0 || bits (d.f 0x88 2) 13 2 != 0 ||
  bits (d.f 0x98 2) 13 2 != 0 || d.f 0x8A 6 != 0 || d.f 0x9A 6 != 0 || d.f 0xD4 44 != 0 || d.f (dA + 6) 2 != 0 ||
  d.f (dW + 6) 2 != 0 || d.f (dO + 6) 2 != 0 || (if d.op = 1 then d.f 0xC5 11 != 0 else d.f 0xB0 32 != 0)

/-- An in-range number. -/
def inR (v lo hi : Nat) : Bool := lo ≤ v && v ≤ hi

/-- The rules on the CONV block (R295). -/
def LDraft.convBad (d : LDraft) : Bool :=
  !(d.hIn ≥ 1 && d.wIn ≥ 1 && d.cIn ≥ 1 && d.batch ≥ 1 && inR d.kh 1 15 && inR d.kw 1 15 && inR d.strideH 1 8 &&
    inR d.strideW 1 8 && inR d.dilH 1 8 && inR d.dilW 1 8 && d.padT ≤ (d.kh - 1) * d.dilH && d.padL ≤ (d.kw - 1) * d.dilW &&
    d.hOut ≥ 1 && d.wOut ≥ 1 && d.f 0xC4 1 ≤ 1 && d.m == d.batch * d.hOut * d.wOut && d.k == d.kh * d.kw * d.cIn &&
    (d.packed || d.cIn % d.kt == 0))

/-- The rules on MODE and the formats of what an OP uses (R284, R286, R287, R317). -/
def LDraft.modeBad (d : LDraft) : Bool :=
  let mm := d.op ≤ 1
  let usesW := mm || d.op == 2
  let usesA := mm || d.op == 3
  let usesO := (mm && d.dest != 0) || d.op == 4
  (usesW && (d.wfmt == 3 || (d.pair != 1 && d.wfmt != 0))) || (usesA && (d.afmt == 3 || (d.pair != 1 && d.afmt != 0))) ||
  (d.op != 4 && (d.passes == 0 || (d.passes > 1 && d.pair != 0))) ||
  ((mm || d.op == 4) && d.act == 3) ||
  (usesO && (d.ofmt > 8 || (d.ofmt == 7 && !d.isInt))) ||
  (mm && (d.dest == 1 || d.dest == 3) && !([1, 3, 4, 5, 6, 8] : List Nat).contains d.ofmt) ||
  (d.comp && (mm || d.op == 4) && (d.pair != 0 || (mm && (d.dest == 1 || d.dest == 3)) || (usesO && d.ofmt != 0) ||
    d.epiVa != 0 || d.act != 0)) ||
  (mm && d.yields && d.src1 dA == 0 && d.op == 0)

/-- The ranges of M, K, N and M_BLOCK, and the SRC of each descriptor that the OP uses (R664). -/
def LDraft.sizeBad (d : LDraft) : Bool :=
  let mm := d.op ≤ 1
  ((mm || d.op == 3 || d.op == 4) && !inR d.m 1 16777215) || ((mm || d.op == 2 || d.op == 3) && !inR d.k 1 65536) ||
  ((mm || d.op == 2 || d.op == 4) && !inR d.n 1 65536) || (mm && !inR d.mblk 1 512) ||
  ((d.op == 0) && d.src1 dA > 1) || ((d.op == 1 || d.op == 3) && d.src1 dA != 1) || (mm && d.src1 dW > 1) ||
  (d.op == 2 && d.src1 dW != 1) || (mm && d.src1 dO != b2n (d.dest == 2)) || (d.op == 4 && d.src1 dO != 1)

/-- The rules on regions, layouts and addresses (R286, R289, R290, R313). -/
def LDraft.regionBad (d : LDraft) : Bool :=
  let mm := d.op ≤ 1
  let usesA := mm || d.op == 3
  let usesW := mm || d.op == 2
  let toMem := (mm && d.dest == 2) || d.op == 4
  (usesA && (d.layout dA > 1 || d.base dA + d.rows dA > 8192 || d.rows dA < d.aNeed ||
    (d.src1 dA == 1 && d.memBad dA
      (if d.op = 1 then rowLen d.cIn d.aMem else if d.layout dA = 0 then rowLen d.k d.aMem else rowLen d.m d.aMem) (d.pair == 4)))) ||
  (usesW && (d.layout dW > 1 || d.base dW + d.rows dW > 24576 || d.rows dW < d.wNeed ||
    (d.src1 dW == 1 && d.memBad dW (if d.layout dW = 0 then rowLen d.n d.wMem else rowLen d.k d.wMem) (d.pair == 4)))) ||
  (toMem && (d.layout dO > 1 || d.memBad dO
    (let w := if d.comp then 64 else fmtBits d.ofmt
     if d.layout dO = 0 then rowLen d.n w else rowLen d.m w) (d.ofmt == 8))) ||
  (mm && (d.dest == 1 || d.dest == 3) && (d.layout dO > 1 || d.base dO + d.rows dO > (if d.dest = 1 then 8192 else 24576) ||
    d.rows dO < d.oNeed)) ||
  (mm && d.dest == 1 && overlap (d.base dO) (d.rows dO) (d.base dA) (d.rows dA)) ||
  (mm && d.dest == 3 && overlap (d.base dO) (d.rows dO) (d.base dW) (d.rows dW)) ||
  ((mm || d.op == 4) && d.epiVa % 8 != 0) || d.statusVa % 32 != 0

/-- The rules on the Bolt (R286, R291, R317, R326). -/
def LDraft.boltBad (d : LDraft) : Bool :=
  let mm := d.op ≤ 1
  let cap := if d.comp then 512 else 1024
  let ip := d.T * d.m
  let half (a n : Nat) (h : Nat) : Bool := n == 0 || (512 * h ≤ a && a + n ≤ 512 * h + 512)
  (((mm && d.inPlace) || d.op == 4) && d.boltBase + ip > cap) ||
  (mm && (d.liveRows > 1024 || d.liveBase + d.liveRows > 1024)) ||
  (mm && !d.inPlace && d.liveRows != 0 && (d.T * d.blocks ≥ 2 || d.comp || overlap d.liveBase d.liveRows 0 512)) ||
  (mm && d.accInit && !d.comp && !((half d.boltBase ip 0 && half d.liveBase d.liveRows 0) ||
    (half d.boltBase ip 1 && half d.liveBase d.liveRows 1)))

/-- A Draft is invalid (R286). -/
def LDraft.bad (d : LDraft) : Bool :=
  d.reserved || d.sizeBad || d.modeBad || (d.op == 1 && d.convBad) || d.regionBad || d.boltBad || (d.sigEn && d.sigValue == poison)

/-! ### Elements in the Loom memories -/

/-- Bits of a byte-addressed memory. -/
def memBits (m : Memory) (a w : Nat) : Nat := bits (ofBytes (m.read (a / 8) ((a % 8 + w + 7) / 8))) (a % 8) w

/-- Set bits of a byte-addressed memory. -/
def memPut (m : Memory) (a w v : Nat) : Memory :=
  let n := (a % 8 + w + 7) / 8
  m.write (a / 8) (leBytes n (setBits (ofBytes (m.read (a / 8) n)) (a % 8) w v))

/-- The byte of the Beam at which plane `q` of tile (j, t) of a region starts (R289, R313). -/
def tileByte (base planes J c j t q : Nat) : Nat := (base + ((t * J + j) * planes + q) * tileRows c) * 512

/-- Bit of element (k of the tile, column) of a tile at byte `a`. -/
def tileBit (a c kt col k : Nat) : Nat := 8 * a + col * kt * fmtBits c + k * fmtBits c

/-- A weight element (k, n) of plane `q`. -/
def LDraft.wElt (d : LDraft) (beam : Memory) (q k n : Nat) : MElt :=
  let a := tileByte (d.base dW) d.wPlanes d.J d.wc (k / d.kt) (n / 256) q
  let kk := k % d.kt
  { c := d.wc, w := memBits beam (tileBit a d.wc d.kt (n % 256) kk) (fmtBits d.wc),
    x := if d.pair = 4 then (beam.get (a + 131072 + 32 * (n % 256) + kk / 32)).toNat else 0 }

/-- Write a weight element of a region, and the exponent of its SB4 block where one comes with it. -/
def tilePut (beam : Memory) (base planes J c kt q k n w : Nat) (x : Option Nat) : Memory :=
  let a := tileByte base planes J c (k / kt) (n / 256) q
  let kk := k % kt
  let m := memPut beam (tileBit a c kt (n % 256) kk) (fmtBits c) w
  match x with
  | some x => if c = 8 then m.set (a + 131072 + 32 * (n % 256) + kk / 32) (BitVec.ofNat 8 x) else m
  | none => m

/-- Element `k` of element row `i` of a Spool region, with its SB4 exponent (R290). -/
def spoolElt (sp : Memory) (base elRows i k c : Nat) : MElt :=
  { c := c, w := memBits sp ((base + i) * 4096 + k * fmtBits c) (fmtBits c),
    x := if c = 8 then (sp.get ((base + elRows + i / 16) * 512 + i % 16 * 32 + k / 32)).toNat else 0 }

/-- Write an element of a Spool region, and the exponent of its SB4 block where one comes with it. -/
def spoolPut (sp : Memory) (base elRows i k c w : Nat) (x : Option Nat) : Memory :=
  let m := memPut sp ((base + i) * 4096 + k * fmtBits c) (fmtBits c) w
  match x with
  | some x => if c = 8 then m.set ((base + elRows + i / 16) * 512 + i % 16 * 32 + k / 32) (BitVec.ofNat 8 x) else m
  | none => m

/-! ### The rows of a block -/

/-- The input position that output row `m` reads at reduction index `k` (R295): pixel and channel, none outside. -/
def LDraft.convAt (d : LDraft) (m k : Nat) : Option (Nat × Nat) :=
  let c := k % d.cIn
  let i' := k / d.cIn % d.kw
  let i := k / d.cIn / d.kw
  let x := m % d.wOut
  let y := m / d.wOut % d.hOut
  let b := m / d.wOut / d.hOut
  let yy := y * d.strideH + i * d.dilH
  let xx := x * d.strideW + i' * d.dilW
  if d.padT ≤ yy ∧ yy - d.padT < d.hIn ∧ d.padL ≤ xx ∧ xx - d.padL < d.wIn then
    some ((b * d.hIn + (yy - d.padT)) * d.wIn + (xx - d.padL), c)
  else none

/-- The in-range input rows that block `b` reads, ascending (R296): in each image that it touches, all rows from the first tap of
its first output row to the last tap of its last. -/
def LDraft.convRows (d : LDraft) (b : Nat) : List Nat :=
  let r0 := b * d.mblk / d.wOut
  let r1 := (b * d.mblk + d.mb b - 1) / d.wOut
  (List.range (r1 / d.hOut - r0 / d.hOut + 1)).flatMap (fun q =>
    let im := r0 / d.hOut + q
    let y0 := if im = r0 / d.hOut then r0 % d.hOut else 0
    let y1 := if im = r1 / d.hOut then r1 % d.hOut else d.hOut - 1
    (List.range ((y1 - y0) * d.strideH + (d.kh - 1) * d.dilH + 1)).filterMap (fun i =>
      let yy := y0 * d.strideH + i
      if d.padT ≤ yy ∧ yy - d.padT < d.hIn then some (im * d.hIn + (yy - d.padT)) else none))

/-- The element row of the A region that holds row `r` of block `b` at slice `j` in plane `q` (R289, R313). -/
def LDraft.aRow (d : LDraft) (b r j q : Nat) : Nat :=
  if d.src1 dA = 0 ∨ d.op = 3 then q * d.J * d.m + j * d.m + b * d.mblk + r
  else (b % 2) * d.aPlanes * d.J * d.mblk + q * d.J * d.mblk + j * d.mblk + r

/-- The element row of the direct form's A region for input pixel `p` and its Spool row `j`: the block's input rows in
ascending order in one of two buffers, each pixel's rows together (R296). -/
def LDraft.pixRow (d : LDraft) (b p j q : Nat) : Nat :=
  (b % 2) * d.convU * d.wIn * d.pixRows * d.aPlanes + q * d.convU * d.wIn * d.pixRows +
  (((d.convRows b).idxOf (p / d.wIn)) * d.wIn + p % d.wIn) * d.pixRows + j

/-- The activation element of row `r` of block `b` at reduction index `k` in plane `q`, as the array reads it. -/
def LDraft.aElt (d : LDraft) (sp : Memory) (b r q k : Nat) : MElt :=
  if d.op = 1 ∧ ¬ d.packed then
    match d.convAt (b * d.mblk + r) k with
    | none => { c := d.ac, w := 0 }
    | some (p, c) => spoolElt sp (d.base dA) d.aElRows (d.pixRow b p (c / d.kt) q) (c % d.kt) d.ac
  else spoolElt sp (d.base dA) d.aElRows (d.aRow b r (k / d.kt) q) (k % d.kt) d.ac

/-! ### Splitting (R309) and SB4 blocks (R265) -/

/-- The hi and lo parts of an FP32 value. -/
def split32 (x : Nat) : Nat × Nat :=
  if fp32.isNaN x then ((convert .f32 .bf16 x).1, 0)
  else if fp32.isInf x then (bf16.inf (fp32.sign x), 0)
  else
    let h := (bf16.rnd (fp32.val x) (fp32.sign x)).1
    let h := if bf16.isInf h then bf16.sbit (fp32.sign x) + 0x7F7F else h
    (h, (bf16.rnd ((fp32.val x).add (bf16.val h).neg)).1)

/-- A block of FP32 codes as an SB4 exponent and element codes; the flag tells that an element saturated (R265). -/
def sb4Block (xs : List Nat) : Nat × List Nat × Bool :=
  if xs.any (fun x => fp32.isNaN x || fp32.isInf x) then (255, xs.map (fun _ => 0), false)
  else if xs.all fp32.isZero then (0, xs.map (fun _ => 0), false)
  else
    let e := xs.foldl (fun (m : Int) x =>
      let v := fp32.val x
      if v.m = 0 then m else max m (v.e + (bitLen v.m.natAbs : Nat) - 1)) (-200)
    let X := min 254 (max 0 (e + 127)).toNat
    let q (x : Nat) : Nat :=
      let v := (fp32.val x).abs
      (Dy.rne { v with e := v.e - ((X : Int) - 129) }).toNat
    (X, xs.map (fun x =>
      let r := min 7 (q x)
      if r = 0 then 0 else r + (if fp32.sign x then 8 else 0)), xs.any (fun x => q x > 7))

/-! ### Sums of a tile (R272 to R274, R312, R314, R316) -/

/-- The planes of A and W that pass `p` multiplies (R312). -/
def passPlanes (passes p : Nat) : Nat × Nat :=
  if passes = 2 then (0, if p = 0 then 1 else 0)
  else if passes = 3 then (if p = 0 then (1, 0) else if p = 1 then (0, 1) else (0, 0))
  else (0, 0)

/-- Fraction bits that a group keeps (R272, R314); SB4 and integer products are exact. -/
def LDraft.groupF (d : LDraft) : Nat := if d.passes ≥ 2 then 30 else if d.pair = 4 ∨ d.isInt then 600 else 17

/-- The slices of 256 reduction indices that one array row, (row r of block b, array slice j, pass p), gives column n (R273, R280). -/
def LDraft.rowSlices (d : LDraft) (beam sp : Memory) (b r n j p : Nat) : List (List (MElt × MElt)) :=
  let (qa, qw) := passPlanes d.passes p
  (List.range (d.kt / 256)).filterMap (fun u =>
    let k0 := j * d.kt + u * 256
    if k0 ≥ d.k then none
    else some ((List.range (min 256 (d.k - k0))).map (fun i => (d.aElt sp b r qa (k0 + i), d.wElt beam qw (k0 + i) n))))

/-- The slices that output (row r of block b, column n) accumulates, in order: per array slice and pass (R273, R293). -/
def LDraft.slices (d : LDraft) (beam sp : Memory) (b r n : Nat) : List (List (MElt × MElt)) :=
  (List.range d.J).flatMap (fun j => (List.range d.passes).flatMap (fun p => d.rowSlices beam sp b r n j p))

/-- The model of the compensated pair (R316): accumulator, correction, whether a result before the last was flushed, and whether the
last was. Where a sum is no number the correction keeps its value. -/
def compModel (F : Nat) (flush : Bool) : Nat → Nat → List (List Prod) → Nat × Nat × Bool × Bool
  | D, E, [] => (D, E, false, false)
  | D, E, ps :: r =>
    let T := sliceSum F D ps
    let (w, fl) := T.round flush
    let e := match T with
      | .fin t => if fp32.isInf w then E else (fp32.rnd ((fp32.val E).add (t.add (fp32.val w).neg))).1
      | _ => E
    match r with
    | [] => (w, e, false, fl)
    | _ => let (D', E', fe, fx) := compModel F flush w e r; (D', E', fl || fe, fx)

/-- A compensated sum: D within the bound of its row, D + E within that of the pair (R315, R316). Free candidates stand
where they keep both bounds, else the model's values do; where D is no number, E is free. The flag tells of a flush (R270). -/
def compPick (F : Nat) (flush : Bool) (D E : Nat) (slices : List (List (MElt × MElt))) : Nat × Nat × Bool :=
  let (D', fo) := NTy.flushed .f32 flush D
  let fo := fo || opFlushed flush slices
  let key := dotKey (F + 64) flush D' slices * 2 ^ 32 + E
  let ps := slices.map (prodsOf flush)
  let (w, e, fe, fl) := compModel F flush D' E ps
  let c := Config.freeNat 23 key % 2 ^ 64
  let (cd, fc) := flushRes flush (c % 2 ^ 32)
  let ce := c / 2 ^ 32
  let ok (v : Nat) : Bool := !fp32.isNaN v && !fp32.isInf v
  if !ok w then (w, Config.freeNat 25 key % 2 ^ 32, fo || fe || fl)
  else if !ok cd || !ok ce || !ok E then (w, e, fo || fe || fl)
  else
    let ts := ps.map termsOf
    let x := (fp32.val D').add (sumDy (ts.flatMap (fun sl => sl.map (·.v))))
    let gs := ts.flatMap (fun sl => (chunksOf 16 (sl.length + 1) sl).filterMap (fun g => (groupSum F g).2))
    let ge := sumDy (gs.map (fun e => { m := 15, e := e - F }))
    let mag := (fp32.val D').abs.add (sumDy (ts.flatMap (fun sl => sl.map (fun t => t.v.abs))))
    let n := ts.length
    let pairB := ge.add { mag with m := mag.m * (n * n), e := mag.e - 48 }
    if ((fp32.val cd).add x.neg).abs.le (accBound F flush (fp32.val D') ts) &&
       (((fp32.val cd).add (fp32.val ce)).add (x.add (fp32.val E)).neg).abs.le pairB then (cd, ce, fo || fe || fc)
    else (w, e, fo || fe || fl)

/-- An INT32 sum of products, modulo 2^32 (R263, R274). -/
def intSum (acc : Nat) (slices : List (List (MElt × MElt))) : Nat :=
  ofSigned 32 (slices.foldl (fun s sl => sl.foldl (fun s p =>
    s + toSigned (fmtBits p.1.c) p.1.w * toSigned (fmtBits p.2.c) p.2.w) s) (toSigned 32 acc))

/-- The Bolt row of row `r` of (b, t) (R291). -/
def LDraft.boltRow (d : LDraft) (b t r : Nat) : Nat :=
  if d.inPlace then d.boltBase + t * d.m + b * d.mblk + r
  else if d.comp then r else 512 * ((t + b * d.T) % 2) + r

/-- An accumulator of the Bolt. -/
def boltGet (bolt : NMap Nat) (row col : Nat) : Nat := (bolt.get? (256 * row + col)).getD 0

/-- Set an accumulator; a zero is not listed. -/
def boltPut (bolt : NMap Nat) (row col v : Nat) : NMap Nat :=
  if v = 0 then bolt.del (256 * row + col) else bolt.put (256 * row + col) v

/-- Columns of n-tile `t`. -/
def LDraft.cols (d : LDraft) (t : Nat) : Nat := min 256 (d.n - 256 * t)

/-- The accumulators of (b, t) after its last slice, and whether a subnormal was flushed (R293). Columns beyond N are not
written (R283). -/
def LDraft.accumulate (d : LDraft) (l : Lm) (b t : Nat) : NMap Nat × Bool :=
  let cells := (List.range (d.mb b)).flatMap (fun r => (List.range (d.cols t)).map (fun c => (r, c)))
  cells.foldl (fun (z : NMap Nat × Bool) p =>
    let (bolt, fl) := z
    let row := d.boltRow b t p.1
    let sl := d.slices l.beam l.spool b p.1 (256 * t + p.2)
    let a0 := if d.accInit then boltGet bolt row p.2 else 0
    if d.isInt then (boltPut bolt row p.2 (intSum a0 sl), fl)
    else if d.comp then
      let e0 := if d.accInit then boltGet bolt (row + 512) p.2 else 0
      let (D, E, f) := compPick d.groupF d.flush a0 e0 sl
      (boltPut (boltPut bolt row p.2 D) (row + 512) p.2 E, fl || f)
    else
      let (w, f) := dotSum 22 d.groupF d.flush a0 sl
      (boltPut bolt row p.2 w, fl || f)) (l.bolt, false)

/-! ### The epilogue (R288) -/

/-- One accumulator through the epilogue, before the conversion to OFMT: an FP32 code, or the INT32 as it is. -/
def LDraft.epi (d : LDraft) (acc scale bias : Nat) : Nat :=
  if d.ofmt = 7 then acc
  else
    let a := if d.isInt then (convert .i32 .f32 acc).1 else acc
    let y := (fp32.fma a scale bias).1
    let y := if fp32.isNaN y then fp32.qnan else y
    if fp32.isNaN y then y
    else if d.act = 1 then (if fp32.sign y then 0 else y)
    else if d.act = 2 then (if fp32.ltv y d.clampLo then d.clampLo else if fp32.ltv d.clampHi y then d.clampHi else y)
    else y

/-- The conversion of one element to OFMT, and whether it saturated or overflowed. -/
def toOfmt (c y : Nat) : Nat × Bool :=
  if c = 0 ∨ c = 7 then (y, false)
  else
    let (w, fl) := convert .f32 (fmtTy c) y
    (w, if c = 6 then !fp32.isNaN y && bit fl 0 else bit fl 2)

/-- The elements of a row of FP32 codes in OFMT, with their SB4 exponents, and whether one saturated; `n0` is the first
column, a multiple of 256. -/
def rowOfmt (c : Nat) (ys : List Nat) : List (Nat × Nat) × Bool :=
  if c = 8 then
    let bs := (chunksOf 32 (ys.length + 1) ys).map sb4Block
    (bs.flatMap (fun b => b.2.1.map (fun w => (w, b.1))), bs.any (·.2.2))
  else
    let l := ys.map (toOfmt c)
    (l.map (fun p => (p.1, 0)), l.any (·.2))

/-! ### The Shuttle's accesses to memory (R279) -/

/-- Read bytes for a Draft, counted. -/
def State.shRead (s : State) (n c va len : Nat) : State × Option (List Byte) :=
  match s.vread c (48 + n) va len with
  | (s, some b) => (s.countN LOOM_CTR.SHUTTLE_IN n len, some b)
  | r => r

/-- Read `cnt` elements of `w` bits from bit `o` of the bytes at `va`. -/
def State.shElts (s : State) (n c va o w cnt : Nat) : State × Option (List Nat) :=
  if cnt = 0 then (s, some [])
  else match s.shRead n c (va + o / 8) ((o % 8 + w * cnt + 7) / 8) with
    | (s, none) => (s, none)
    | (s, some b) =>
      let v := ofBytes b
      (s, some ((List.range cnt).map (fun i => bits v (o % 8 + i * w) w)))

/-- Write elements of `w` bits from bit `o` of the bytes at `va`; other bits of the first and last bytes are kept. -/
def State.shPut (s : State) (n c va o w : Nat) (vals : List Nat) : State × Bool :=
  if vals.isEmpty then (s, true)
  else
    let a := va + o / 8
    let len := (o % 8 + w * vals.length + 7) / 8
    let old : State × Option (List Byte) :=
      if o % 8 = 0 ∧ w * vals.length % 8 = 0 then (s, some (List.replicate len 0)) else s.vread c (48 + n) a len
    match old with
    | (s, none) => (s, false)
    | (s, some b) =>
      let v := (vals.zip (List.range vals.length)).foldl (fun v p => setBits v (o % 8 + p.2 * w) w p.1) (ofBytes b)
      match s.vwrite c (48 + n) a (leBytes len v) with
      | (s, true) => (s.countN LOOM_CTR.SHUTTLE_OUT n len, true)
      | r => r

/-- The state of Loom `n` beside its registers. -/
def State.loom (s : State) (n : Nat) : Lm := (s.looms.get? n).getD {}

/-- Change a Loom. -/
def State.updLoom (s : State) (n : Nat) (f : Lm → Lm) : State := { s with looms := s.looms.put n (f (s.loom n)) }

/-- The memory rows of W that the Shuttle reads, tile by tile in the order in which the loops use the tiles (R293): n-tile, slice, and
the row's index, a reduction index in layout 0 and a column in layout 1. -/
def LDraft.wRows (d : LDraft) : List (Nat × Nat × Nat) :=
  (List.range d.T).flatMap (fun t => (List.range d.J).flatMap (fun j =>
    if d.layout dW = 1 then (List.range (d.cols t)).map (fun c => (t, j, 256 * t + c))
    else (List.range (min d.kt (d.k - j * d.kt))).map (fun k => (t, j, j * d.kt + k))))

/-- The weights of a Draft into the Beam, one memory row of a tile at a time (R289, R293, R294, R311). Layout 0 reads a row's
elements of the tile's columns, layout 1 those of its reduction indices; the SB4 exponent plane holds a byte per block of 32 reduction
indices in the same order, and is read once for a block. -/
def State.loadW (n : Nat) (d : LDraft) : List (Nat × Nat × Nat) → State → State × Bool
  | [], s => (s, true)
  | (t, j, i) :: r, s =>
    let l1 := d.layout dW = 1
    let o := if l1 then j * d.kt else 256 * t
    let cnt := if l1 then min d.kt (d.k - j * d.kt) else d.cols t
    match s.shElts n d.ctx (d.tva dW + i * d.stride dW) (o * d.wMem) d.wMem cnt with
    | (s, none) => (s, false)
    | (s, some ws) =>
      let ex : State × Option (List Byte) :=
        if d.pair ≠ 4 ∨ (¬ l1 ∧ i % 32 ≠ 0) then (s, some [])
        else if l1 then s.shRead n d.ctx (d.expVa dW + i * ceilDiv d.k 32 + o / 32) (ceilDiv cnt 32)
        else s.shRead n d.ctx (d.expVa dW + i / 32 * d.n + o) cnt
      match ex with
      | (s, none) => (s, false)
      | (s, some xs) =>
        let s := s.updLoom n (fun l => { l with beam := (ws.zip (List.range cnt)).foldl (fun m p =>
          let (k, c) := if l1 then (o + p.2, i) else (i, o + p.2)
          let x := xs[if l1 then p.2 / 32 else p.2]?.map BitVec.toNat
          if d.passes ≥ 2 then
            let (hi, lo) := split32 p.1
            tilePut (tilePut m (d.base dW) 2 d.J 1 d.kt 0 k c hi none) (d.base dW) 2 d.J 1 d.kt 1 k c lo none
          else tilePut m (d.base dW) 1 d.J d.wc d.kt 0 k c p.1 x) l.beam })
        State.loadW n d r s

/-- Put an activation element of row `r` of block `b` at index `k` into the Spool, split where the Draft splits. -/
def LDraft.putA (d : LDraft) (sp : Memory) (row : Nat → Nat) (kk w : Nat) (x : Option Nat) : Memory :=
  if d.passes = 3 then
    let (hi, lo) := split32 w
    spoolPut (spoolPut sp (d.base dA) d.aElRows (row 0) kk 1 hi none) (d.base dA) d.aElRows (row 1) kk 1 lo none
  else spoolPut sp (d.base dA) d.aElRows (row 0) kk d.ac w x

/-- The rows `ms` of A, one memory row at a time, into the Spool (R289, R294): layout 0. -/
def State.loadA0 (n : Nat) (d : LDraft) : List Nat → State → State × Bool
  | [], s => (s, true)
  | m :: r, s =>
    match s.shElts n d.ctx (d.tva dA + m * d.stride dA) 0 d.aMem d.k with
    | (s, none) => (s, false)
    | (s, some ws) =>
      let ex : State × Option (List Byte) :=
        if d.pair ≠ 4 then (s, some []) else s.shRead n d.ctx (d.expVa dA + m * ceilDiv d.k 32) (ceilDiv d.k 32)
      match ex with
      | (s, none) => (s, false)
      | (s, some xs) =>
        let (b, rr) := if d.op = 3 then (0, m) else (m / d.mblk, m % d.mblk)
        let s := s.updLoom n (fun l => { l with spool := (ws.zip (List.range d.k)).foldl (fun sp p =>
          d.putA sp (fun q => if d.op = 3 then q * d.J * d.m + p.2 / d.kt * d.m + m else d.aRow b rr (p.2 / d.kt) q)
            (p.2 % d.kt) p.1 (xs[p.2 / 32]?.map BitVec.toNat)) l.spool })
        State.loadA0 n d r s

/-- Layout 1 (R289): memory row k holds element k of every row of A; rows `m0` to `m0 + cnt - 1` are taken. -/
def State.loadA1 (n : Nat) (d : LDraft) (m0 cnt : Nat) : List Nat → State → State × Bool
  | [], s => (s, true)
  | k :: r, s =>
    match s.shElts n d.ctx (d.tva dA + k * d.stride dA) (m0 * d.aMem) d.aMem cnt with
    | (s, none) => (s, false)
    | (s, some ws) =>
      let ex : State × Option (List Byte) :=
        if d.pair ≠ 4 ∨ k % 32 ≠ 0 then (s, some []) else s.shRead n d.ctx (d.expVa dA + k / 32 * d.m + m0) cnt
      match ex with
      | (s, none) => (s, false)
      | (s, some xs) =>
        let s := s.updLoom n (fun l => { l with spool := (ws.zip (List.range cnt)).foldl (fun sp p =>
          let m := m0 + p.2
          d.putA sp (fun q => if d.op = 3 then q * d.J * d.m + k / d.kt * d.m + m else d.aRow (m / d.mblk) (m % d.mblk) (k / d.kt) q)
            (k % d.kt) p.1 (xs[p.2]?.map BitVec.toNat)) l.spool })
        State.loadA1 n d m0 cnt r s

/-- One input pixel of a convolution: its C_IN elements, with exponents. -/
def State.convPix (s : State) (n : Nat) (d : LDraft) (p : Nat) : State × Option (List Nat × List Byte) :=
  match s.shElts n d.ctx (d.tva dA + p * d.stride dA) 0 d.aMem d.cIn with
  | (s, none) => (s, none)
  | (s, some ws) =>
    if d.pair ≠ 4 then (s, some (ws, []))
    else match s.shRead n d.ctx (d.expVa dA + p * ceilDiv d.cIn 32) (ceilDiv d.cIn 32) with
      | (s, some xs) => (s, some (ws, xs))
      | (s, none) => (s, none)

/-- The direct form's loads of block `b`: its in-range input rows, pixel by pixel (R296). -/
def State.loadDirect (n : Nat) (d : LDraft) (b : Nat) : List Nat → State → State × Bool
  | [], s => (s, true)
  | p :: r, s =>
    match s.convPix n d p with
    | (s, none) => (s, false)
    | (s, some (ws, xs)) =>
      let s := s.updLoom n (fun l => { l with spool := (ws.zip (List.range d.cIn)).foldl (fun sp e =>
        d.putA sp (fun q => d.pixRow b p (e.2 / d.kt) q) (e.2 % d.kt) e.1 (xs[e.2 / 32]?.map BitVec.toNat)) l.spool })
      State.loadDirect n d b r s

/-- The packed form's loads: output row `m` and kernel position `i`, or the end of the im2col rows where `i` is past the kernel. What
lies outside the input or beyond K is zero; a block that K or a tap's end cuts keeps the exponent of its elements (R296). -/
def State.loadPacked (n : Nat) (d : LDraft) : List (Nat × Nat) → State → State × Bool
  | [], s => (s, true)
  | (m, i) :: r, s =>
    let row (k q : Nat) : Nat := d.aRow (m / d.mblk) (m % d.mblk) (k / d.kt) q
    let past := i ≥ d.kh * d.kw
    match if past then none else d.convAt m (i * d.cIn) with
    | none =>
      let cnt := if past then d.J * d.kt - d.k else d.cIn
      let s := s.updLoom n (fun l => { l with spool := (List.range cnt).foldl (fun sp c =>
        let k := i * d.cIn + c
        d.putA sp (row k) (k % d.kt) 0 (if k / 32 * 32 < i * d.cIn then none else some 0)) l.spool })
      State.loadPacked n d r s
    | some (p, _) =>
      match s.convPix n d p with
      | (s, none) => (s, false)
      | (s, some (ws, xs)) =>
        let s := s.updLoom n (fun l => { l with spool := (ws.zip (List.range d.cIn)).foldl (fun sp e =>
          let k := i * d.cIn + e.2
          d.putA sp (row k) (k % d.kt) e.1 (xs[e.2 / 32]?.map BitVec.toNat)) l.spool })
        State.loadPacked n d r s

/-- The Shuttle fills the A buffer of block `b` (R289, R293, R296). -/
def State.loadBlock (s : State) (n : Nat) (d : LDraft) (b : Nat) : State × Bool :=
  let ms := (List.range (d.mb b)).map (· + b * d.mblk)
  if d.src1 dA = 0 then (s, true)
  else if d.op = 1 then
    if d.packed then State.loadPacked n d (ms.flatMap (fun m => (List.range (d.kh * d.kw + 1)).map (fun i => (m, i)))) s
    else State.loadDirect n d b ((d.convRows b).flatMap (fun r => (List.range d.wIn).map (fun x => r * d.wIn + x))) s
  else if d.layout dA = 0 then State.loadA0 n d ms s
  else State.loadA1 n d (b * d.mblk) (d.mb b) (List.range d.k) s

/-! ### Draining a tile (R288, R291, R292, R318) -/

/-- The blocks `b` to `b + 1` of the Draft that there are, into the ring (R293). -/
def State.loadPair (s : State) (n : Nat) (d : LDraft) (b : Nat) : State × Bool :=
  match s.loadBlock n d b with
  | (s, true) => if b + 1 < d.blocks then s.loadBlock n d (b + 1) else (s, true)
  | r => r

/-- The epilogue pairs of n-tile `t`, read whole (R303): SCALE and BIAS by column. -/
def State.epiPairs (s : State) (n : Nat) (d : LDraft) (t : Nat) : State × Option (List (Nat × Nat)) :=
  if d.epiVa = 0 then (s, some [])
  else match s.shRead n d.ctx (d.epiVa + 2048 * t) 2048 with
    | (s, none) => (s, none)
    | (s, some b) => (s, some ((List.range (d.cols t)).map (fun c => (field b (8 * c) 4, field b (8 * c + 4) 4))))

/-- An output row of a tile in memory: layout 0. -/
def State.outRow (s : State) (n : Nat) (d : LDraft) (m n0 w : Nat) (es : List (Nat × Nat)) : State × Bool :=
  match s.shPut n d.ctx (d.tva dO + m * d.stride dO) (n0 * w) w (es.map (·.1)) with
  | (s, false) => (s, false)
  | (s, true) =>
    if d.ofmt = 8 then
      let xs := (chunksOf 32 (es.length + 1) es).map (fun b => (b.map (·.2)).headD 0)
      s.shPut n d.ctx (d.expVa dO + m * ceilDiv d.n 32) (n0 / 32 * 8) 8 xs
    else (s, true)

/-- An output element in memory: layout 1. -/
def State.outElt (s : State) (n : Nat) (d : LDraft) (m c w : Nat) (e : Nat × Nat) : State × Bool :=
  match s.shPut n d.ctx (d.tva dO + c * d.stride dO) (m * w) w [e.1] with
  | (s, false) => (s, false)
  | (s, true) =>
    if d.ofmt = 8 ∧ c % 32 = 0 then s.shPut n d.ctx (d.expVa dO + c / 32 * d.m + m) 0 8 [e.2] else (s, true)

/-- The rows of (b, t) through the epilogue to the Draft's destination. `row` gives the Bolt row of block row `r`, `m0` the
first output row, and `rs` the block rows left. -/
def State.drainRows (n : Nat) (d : LDraft) (pairs : List (Nat × Nat)) (t m0 : Nat) (row : Nat → Nat) : List Nat → State → State × Bool
  | [], s => (s, true)
  | r :: rest, s =>
    let l := s.loom n
    let m := m0 + r
    let cs := List.range (d.cols t)
    let ys := cs.map (fun c => (pairs.getD c (0x3F800000, 0)) |> fun p => d.epi (boltGet l.bolt (row r) c) p.1 p.2)
    let (es, sat) := rowOfmt d.ofmt ys
    let s := if sat then (s.fl LOOM_FLAGS.SATURATED n true).updLoom n (fun l => { l with drafts := l.drafts.map (fun x =>
        if x.id = d.id then { x with flags := x.flags ||| 2 } else x) }) else s
    let (s, ok) :=
      if d.op = 4 ∨ d.dest = 2 then
        if d.comp then
          let ps := (cs.zip es).map (fun p => (p.2.1 + 2 ^ 32 * boltGet l.bolt (row r + 512) p.1, 0))
          if d.layout dO = 0 then s.outRow n d m (256 * t) 64 ps
          else (cs.zip ps).foldl (fun (z : State × Bool) p => if z.2 then z.1.outElt n d m (256 * t + p.1) 64 p.2 else z) (s, true)
        else if d.layout dO = 0 then s.outRow n d m (256 * t) (fmtBits d.ofmt) es
        else (cs.zip es).foldl (fun (z : State × Bool) p =>
          if z.2 then z.1.outElt n d m (256 * t + p.1) (fmtBits d.ofmt) p.2 else z) (s, true)
      else if d.dest = 1 then
        let kt := fmtKt d.ofmt
        let rows := ceilDiv d.n kt * d.m
        (s.updLoom n (fun l => { l with spool := (cs.zip es).foldl (fun sp p =>
          let k := 256 * t + p.1
          spoolPut sp (d.base dO) rows (k / kt * d.m + m) (k % kt) d.ofmt p.2.1 (some p.2.2)) l.spool }), true)
      else
        let kt := fmtKt d.ofmt
        let l0 := d.layout dO = 0
        let J := ceilDiv (if l0 then d.m else d.n) kt
        let (xf, s) := if l0 ∧ d.ofmt = 8 then s.free 26 else (0, s)
        (s.updLoom n (fun l => { l with beam := (cs.zip es).foldl (fun m' p =>
          let c := 256 * t + p.1
          let (k, cc) := if l0 then (m, c) else (c, m)
          tilePut m' (d.base dO) 1 J d.ofmt kt 0 k cc p.2.1 (some (if l0 then xf % 256 else p.2.2))) l.beam }), true)
    if ok then State.drainRows n d pairs t m0 row rest s else (s, false)

/-- The epilogue drains a finished (b, t) (R291). -/
def State.drainTile (s : State) (n : Nat) (d : LDraft) (b t : Nat) : State × Bool :=
  match s.epiPairs n d t with
  | (s, none) => (s, false)
  | (s, some ps) => State.drainRows n d ps t (b * d.mblk) (d.boltRow b t) (List.range (d.mb b)) s

/-- STORE_BOLT's drain of n-tile `t` (R294). -/
def State.drainStore (n : Nat) (d : LDraft) : List Nat → State → State × Bool
  | [], s => (s, true)
  | t :: r, s =>
    match s.epiPairs n d t with
    | (s, none) => (s, false)
    | (s, some ps) => match State.drainRows n d ps t 0 (fun r => d.boltBase + t * d.m + r) (List.range d.m) s with
      | (s, true) => State.drainStore n d r s
      | r => r

end Sys2Proof.Machine
end

