-- ==== Sys2Proof/Machine/Rays.lean ====
section
/-! DEFINITION. A ray's traversal of an acceleration structure (R338 to R349): nodes, triangles and instances, the box and
triangle tests, and the hit record. -/

namespace Sys2Proof.Machine

/-! ### Records -/

/-- Three FP32 words. -/
structure V3 where
  x : Nat
  y : Nat
  z : Nat
  deriving DecidableEq, Repr

/-- A component by axis number. -/
def V3.at (v : V3) (k : Nat) : Nat := if k = 0 then v.x else if k = 1 then v.y else v.z

/-- Three words of a byte list. -/
def v3At (b : List Byte) (o : Nat) : V3 := ⟨field b o 4, field b (o + 4) 4, field b (o + 8) 4⟩

namespace Ray
/-- The fields of a ray record (R333). -/
def org (r : Ray) : V3 := v3At r.raw 0
def tmin (r : Ray) : Nat := field r.raw 0x0C 4
def dir (r : Ray) : V3 := v3At r.raw 0x10
def tmax (r : Ray) : Nat := field r.raw 0x1C 4
def root (r : Ray) : Nat := field r.raw 0x20 8
def user (r : Ray) : Nat := field r.raw 0x28 4
def mask (r : Ray) : Nat := field r.raw 0x2C 1
def flags (r : Ray) : Nat := field r.raw 0x2D 1
/-- Candidates to skip, of a RETURN ray (R345). -/
def skip (r : Ray) : Nat := bits r.user 0 12
/-- The signs of the direction, -0 counting as negative (R350). -/
def octant (r : Ray) : Nat := b2n (fp32.sign r.dir.x) + 2 * b2n (fp32.sign r.dir.y) + 4 * b2n (fp32.sign r.dir.z)

/-- The bucket key (R350). -/
def key (r : Ray) : List Nat := [r.ctx, r.kind, if r.kind = 0 then 0 else r.tgt, r.root, r.tmin, r.mask, r.flags, r.octant]

/-- The record breaks R334. -/
def invalid (r : Ray) : Bool :=
  bits r.flags 5 3 != 0 || field r.raw 0x2E 2 != 0 || (r.kind == 0 && bits r.user 12 20 != 0) || r.root == 0 ||
  r.root % 128 != 0 || (bit r.flags 3 && bit r.flags 4) || (r.kind != 0 && !bit r.flags 3 && !bit r.flags 4)

/-- The ray returns MISS at once (R334). -/
def missNow (r : Ray) : Bool :=
  let o := r.org
  let d := r.dir
  [o.x, o.y, o.z, d.x, d.y, d.z, r.tmin, r.tmax].any fp32.isNaN || [o.x, o.y, o.z].any fp32.isInf ||
  [d.x, d.y, d.z].all fp32.isZero || fp32.ltv r.tmax r.tmin
end Ray

/-- A triangle as it is tested: its vertices, and what its hit reports. -/
structure Tri where
  a : V3
  b : V3
  c : V3
  opaque_ : Bool
  prim : Nat
  geom : Nat
  deriving DecidableEq, Repr

/-- An instance record (R341). -/
structure Inst where
  w2o : List Nat
  root : Nat
  index : Nat
  custom : Nat
  imask : Nat
  iflags : Nat
  deriving DecidableEq, Repr

/-- A child still to be visited: an internal node, triangle blocks or instance records, and how many are left. -/
structure Kid where
  typ : Nat
  va : Nat
  n : Nat
  deriving DecidableEq, Repr

/-- A node of the current path: its level, the enclosing instance, children left, and whether the traversal stack holds
it. -/
structure Frame where
  kids : List Kid
  level : Nat
  inst : Option Inst
  pushed : Bool := false
  deriving DecidableEq, Repr

/-- An accepted hit. -/
structure Hit where
  t : Nat
  u : Nat
  v : Nat
  tri : Tri
  front : Bool
  inst : Option Inst
  cand : Bool := false
  deriving DecidableEq, Repr

/-- A traversal: the current path, deepest first, and its counts. -/
structure Trav where
  frames : List Frame := []
  /-- a node to step into: address, level, instance -/
  into : Option (Nat × Nat × Option Inst)
  hit : Option Hit := none
  cands : Nat := 0
  steps : Nat := 0
  tests : Nat := 0
  reads : Nat := 0
  restarts : Nat := 0
  /-- 0 running, 1 ended, 2 a structure that breaks R342, 3 the context has faulted -/
  fin : Nat := 0
  deriving DecidableEq, Repr

/-! ### The box test (R343) -/

/-- A quotient with a positive denominator. -/
structure Rat2 where
  n : Dy
  d : Dy
  deriving DecidableEq, Repr

def Rat2.lt (a b : Rat2) : Bool := (a.n.mul b.d).lt (b.n.mul a.d)
def Rat2.max (a b : Rat2) : Rat2 := if a.lt b then b else a
def Rat2.min (a b : Rat2) : Rat2 := if b.lt a then b else a
def Rat2.ofDy (a : Dy) : Rat2 := ⟨a, Dy.ofInt 1⟩

/-- A value larger than every finite FP32 distance between box planes. -/
def bigDy : Dy := ⟨1, 1000⟩

/-- An FP32 word as an exact value; an infinity stands beyond every finite quotient of the box test. -/
def dyOf (w : Nat) : Dy := if fp32.isInf w then (if fp32.sign w then bigDy.neg else bigDy) else fp32.val w

/-- One axis of the slab test: the interval left, or none when the axis fails. -/
def slab (o d : Nat) (lo hi : Dy) (iv : Option (Rat2 × Rat2)) : Option (Rat2 × Rat2) :=
  match iv with
  | none => none
  | some (t0, t1) =>
    let dd := dyOf d
    let a := lo.add (dyOf o).neg
    let b := hi.add (dyOf o).neg
    if dd.m = 0 then (if (Dy.ofInt 0).lt a || b.lt (Dy.ofInt 0) then none else some (t0, t1))
    else
      let (n, f) := if dd.m < 0 then (b.neg, a.neg) else (a, b)
      let e0 := t0.max ⟨n, dd.abs⟩
      let e1 := t1.min ⟨f, dd.abs⟩
      if e1.lt e0 then none else some (e0, e1)

/-- Insert by entry value, an equal one after those already there. -/
def insertKid (x : Rat2 × Kid) : List (Rat2 × Kid) → List (Rat2 × Kid)
  | [] => [x]
  | y :: r => if x.1.lt y.1 then x :: y :: r else y :: insertKid x r

/-! ### Reading the structure (R338 to R342) -/

/-- Byte `o` of an object, as a number. -/
def b8 (b : List Byte) (o : Nat) : Nat := field b o 1

/-- All bytes of a field are 0. -/
def zeros (b : List Byte) (o n : Nat) : Bool := ((b.drop o).take n).all (· == 0)

/-- An internal node breaks R342. -/
def nodeBad (b : List Byte) : Bool :=
  let typ (c : Nat) := bits (b8 b (0x20 + c)) 0 2
  let all := List.range 8
  b8 b 0x0F != 0 || !zeros b 0x60 32 || [0, 1, 2].any (fun k => b8 b (0x0C + k) == 0 || b8 b (0x0C + k) == 255) ||
  all.any (fun c => bits (b8 b (0x20 + c)) 5 3 != 0 || (typ c < 2 && bits (b8 b (0x20 + c)) 2 3 != 0)) ||
  (all.any (fun c => typ c == 1) && field b 0x10 8 == 0) || (all.any (fun c => typ c ≥ 2) && field b 0x18 8 == 0)

/-- Child `c` of a node (R339). -/
def childOf (b : List Byte) (c : Nat) : Kid :=
  let typ (c : Nat) := bits (b8 b (0x20 + c)) 0 2
  let n (c : Nat) := bits (b8 b (0x20 + c)) 2 3 + 1
  if typ c = 1 then ⟨1, field b 0x10 8 + 128 * ((List.range c).filter (fun i => typ i == 1)).length, 1⟩
  else ⟨typ c, field b 0x18 8 + 128 * (List.range c).foldl (fun t i => if typ i ≥ 2 then t + n i else t) 0, n c⟩

/-- The plane of a child box on an axis. -/
def planeOf (b : List Byte) (k q : Nat) : Dy := (fp32.val (field b (4 * k) 4)).add ⟨(q : Int), (b8 b (0x0C + k) : Int) - 127⟩

/-- The children of a node that a ray visits, in order: not empty, visible, LO not above HI, and reported by the exact
slab test against [TMIN, t_cur] (R339, R343). -/
def kidsOf (b : List Byte) (o d : V3) (mask tmin tcur : Nat) : List Kid :=
  ((List.range 8).foldl (fun (l : List (Rat2 × Kid)) c =>
    let lo (k : Nat) := b8 b (0x28 + 8 * k + c)
    let hi (k : Nat) := b8 b (0x40 + 8 * k + c)
    let kid := childOf b c
    if kid.typ = 0 ∨ mask &&& b8 b (0x58 + c) = 0 ∨ [0, 1, 2].any (fun k => hi k < lo k) then l
    else match [0, 1, 2].foldl (fun iv k => slab (o.at k) (d.at k) (planeOf b k (lo k)) (planeOf b k (hi k)) iv)
        (some (Rat2.ofDy (dyOf tmin), Rat2.ofDy (dyOf tcur))) with
      | none => l
      | some (t, _) => insertKid (t, kid) l) []).map (·.2)

/-- A triangle block breaks R342. -/
def blockBad (b : List Byte) : Bool :=
  !zeros b 0x70 16 || (List.range 4).any (fun i =>
    let t := field b (0x54 + 2 * i) 2
    if bit t 9 then bits t 11 5 != 0 || bits t 0 3 == 7 || bits t 3 3 == 7 || bits t 6 3 == 7 else t != 0)

/-- The valid triangles of a block, in index order (R340). -/
def trisOf (b : List Byte) : List Tri :=
  (List.range 4).filterMap (fun i =>
    let t := field b (0x54 + 2 * i) 2
    let v (k : Nat) := v3At b (12 * bits t (3 * k) 3)
    if bit t 9 then some ⟨v 0, v 1, v 2, bit t 10, field b (0x60 + 4 * i) 4, field b 0x5C 4⟩ else none)

/-- An instance record (R341); none when it breaks R342. -/
def instOf (b : List Byte) : Option Inst :=
  let f := b8 b 0x40
  if bits f 4 4 ≠ 0 ∨ ¬ zeros b 0x41 63 ∨ (bit f 0 ∧ bit f 1) then none
  else some ⟨(List.range 12).map (fun i => field b (4 * i) 4), field b 0x30 8, field b 0x38 4, field b 0x3C 3, b8 b 0x3F, f⟩

/-! ### Instances (R346) -/

/-- One FP32 word from terms that are summed exactly and rounded once; special operands follow the FP32 rules. -/
def sumOnce (ps : List (Nat × Nat)) : Nat :=
  if ps.any (fun p => fp32.expo p.1 == 255 || fp32.expo p.2 == 255) then
    ps.foldl (fun a p => (fp32.fma p.1 p.2 a).1) 0
  else (fp32.rnd (ps.foldl (fun a p => a.add ((fp32.val p.1).mul (fp32.val p.2))) (Dy.ofInt 0))).1

/-- A row of W2O applied to a point or a direction. -/
def Inst.row (i : Inst) (k : Nat) (v : V3) (w : Nat) : Nat :=
  let m (j : Nat) := i.w2o.getD (4 * k + j) 0
  sumOnce [(m 0, v.x), (m 1, v.y), (m 2, v.z), (m 3, w)]

/-- The ray inside an instance: origin and direction. -/
def Inst.ray (i : Inst) (o d : V3) : V3 × V3 :=
  (⟨i.row 0 o 0x3F800000, i.row 1 o 0x3F800000, i.row 2 o 0x3F800000⟩, ⟨i.row 0 d 0, i.row 1 d 0, i.row 2 d 0⟩)

/-! ### The triangle test (R347, R348) -/

/-- An FP32 quotient of words; special operands follow the FP32 rules. -/
def fdiv (a b : Nat) : Nat :=
  if fp32.isNaN a || fp32.isNaN b || (fp32.isInf a && fp32.isInf b) || (fp32.isZero a && fp32.isZero b) then fp32.qnan
  else
    let s := fp32.sign a != fp32.sign b
    if fp32.isInf a || fp32.isZero b then fp32.inf s
    else if fp32.isInf b || fp32.isZero a then fp32.zero s
    else divRnd (fp32.val a) (fp32.val b)

/-- The magnitude of a word. -/
def fabs (w : Nat) : Nat := bits w 0 31

/-- A triangle that a ray passes through: t, U and V, and whether it is front-facing. -/
def triHit (o d : V3) (tr : Tri) : Option (Nat × Nat × Nat × Bool) :=
  let kz := if fabs d.x < fabs d.y then (if fabs d.y < fabs d.z then 2 else 1) else if fabs d.x < fabs d.z then 2 else 0
  let dz := d.at kz
  let k1 := (kz + 1) % 3
  let k2 := (kz + 2) % 3
  let neg := fp32.sign dz && !fp32.isZero dz
  let kx := if neg then k2 else k1
  let ky := if neg then k1 else k2
  let sx := fdiv (d.at kx) dz
  let sy := fdiv (d.at ky) dz
  let sz := fdiv 0x3F800000 dz
  let shear (p : V3) : Nat × Nat × Nat :=
    let a (k : Nat) := (fp32.sub (p.at k) (o.at k)).1
    ((fp32.fma (fp32.flip sx) (a kz) (a kx)).1, (fp32.fma (fp32.flip sy) (a kz) (a ky)).1, (fp32.mul sz (a kz)).1)
  let (ax, ay, az) := shear tr.a
  let (bx, by_, bz) := shear tr.b
  let (cx, cy, cz) := shear tr.c
  if [ax, ay, az, bx, by_, bz, cx, cy, cz].any (fun w => fp32.expo w == 255) then none
  else
    let v := fp32.val
    let det2 (p q r s : Nat) : Dy := ((v p).mul (v q)).add ((v r).mul (v s)).neg
    let e0 := det2 cx by_ cy bx
    let e1 := det2 ax cy ay cx
    let e2 := det2 bx ay by_ ax
    let det := (e0.add e1).add e2
    if det.m = 0 then none
    else
      let sg (x : Dy) : Dy := if det.m < 0 then x.neg else x
      let pos (x : Dy) : Bool := (Dy.ofInt 0).lt (sg x)
      let owns (px py qx qy : Nat) : Bool :=
        let dy := (v qy).add (v py).neg
        let dx := (v qx).add (v px).neg
        pos dy || (dy.m == 0 && pos dx.neg)
      let inside (e : Dy) (px py qx qy : Nat) : Bool := pos e || (e.m == 0 && owns px py qx qy)
      if inside e0 bx by_ cx cy && inside e1 cx cy ax ay && inside e2 ax ay bx by_ then
        let t := ((e0.mul (v az)).add (e1.mul (v bz))).add (e2.mul (v cz))
        some (divRnd t det, divRnd e1 det, divRnd e2 det, !(det.m < 0))
      else none

/-! ### The traversal (R343 to R345, R349) -/

/-- t_cur: TMAX until a hit is held. -/
def Trav.tcur (x : Trav) (r : Ray) : Nat := match x.hit with
  | some h => h.t
  | none => r.tmax

/-- One triangle (R344, R345). -/
def Trav.tri (x : Trav) (r : Ray) (o d : V3) (i : Option Inst) (tr : Tri) : Trav :=
  if x.fin ≠ 0 then x
  else
    let fl := (i.map (·.iflags)).getD 0
    match triHit o d tr with
    | none => x
    | some (t, u, v, front) =>
      let front := front != bit fl 3
      let opq := bit r.flags 3 || (if bit fl 0 then true else if bit fl 1 then false else tr.opaque_)
      let cull := !bit fl 2 && ((bit r.flags 1 && !front) || (bit r.flags 2 && front))
      if (bit r.flags 4 && !opq) || cull || fp32.ltv t r.tmin then x
      else if !opq then
        if fp32.ltv r.tmax t then x
        else if x.cands = r.skip then
          { x with fin := 1, cands := x.cands + 1, hit := some { t := t, u := u, v := v, tri := tr, front := front, inst := i, cand := true } }
        else { x with cands := x.cands + 1 }
      else
        let ok := match x.hit with
          | none => !fp32.ltv r.tmax t
          | some h => fp32.ltv t h.t
        if ok then
          { x with fin := if bit r.flags 0 then 1 else 0, hit := some { t := t, u := u, v := v, tri := tr, front := front, inst := i } }
        else x

/-- The ray in the space of an instance, or of the top level. -/
def Ray.inSpace (r : Ray) (i : Option Inst) : V3 × V3 := match i with
  | some i => i.ray r.org r.dir
  | none => (r.org, r.dir)

/-- The oldest entry of the traversal stack is dropped (R349). -/
def dropOldest (l : List Frame) : List Frame :=
  match l.reverse.span (fun f => !f.pushed) with
  | (a, f :: b) => (a ++ { f with pushed := false } :: b).reverse
  | (_, []) => l

/-- Descend from the deepest node, whose children left are `rest`: with children left, the node is pushed on the stack of
24. -/
def Trav.descend (x : Trav) (f : Frame) (rest : List Kid) (r : List Frame) (node : Nat × Nat × Option Inst) : Trav :=
  let push := !rest.isEmpty
  let full := (r.filter (·.pushed)).length = 24
  { x with frames := { f with kids := rest, pushed := push } :: (if push && full then dropOldest r else r), into := some node }

/-- The stack is popped, or the restart trail is walked from the root when the entry was dropped: the descent steps
through every node of the path again (R349). -/
def Trav.pop (x : Trav) : List Frame → Trav
  | [] => { x with frames := [], fin := 1 }
  | f :: r =>
    if f.kids.isEmpty || f.pushed then { x with frames := { f with pushed := false } :: r }
    else { x with
      frames := f :: r, restarts := x.restarts + 1, steps := x.steps + (f.level + 1), reads := x.reads + (f.level + 1) }

/-- Read an object of the structure through RTU `n`. -/
def State.rtuRead (s : State) (n c va : Nat) : State × Option (List Byte) := s.vread c n va 128

/-- One step of a traversal on RTU `n`. -/
def State.travStep (s : State) (n : Nat) (r : Ray) (x : Trav) : State × Trav :=
  match x.into with
  | some (va, lvl, i) =>
    if lvl ≥ 32 then (s, { x with fin := 2 })
    else match s.rtuRead n r.ctx va with
      | (s, none) => (s, { x with fin := 3 })
      | (s, some b) =>
        let x := { x with into := none, steps := x.steps + 1, reads := x.reads + 1 }
        if nodeBad b then (s, { x with fin := 2 })
        else
          let (o, d) := r.inSpace i
          (s, { x with frames := { kids := kidsOf b o d r.mask r.tmin (x.tcur r), level := lvl, inst := i } :: x.frames })
  | none => match x.frames with
    | [] => (s, { x with fin := 1 })
    | f :: r' => match f.kids with
      | [] => (s, x.pop r')
      | k :: ks =>
        if k.typ = 1 then (s, x.descend f ks r' (k.va, f.level + 1, f.inst))
        else
          let rest := if k.n ≤ 1 then ks else { k with va := k.va + 128, n := k.n - 1 } :: ks
          match s.rtuRead n r.ctx k.va with
          | (s, none) => (s, { x with fin := 3 })
          | (s, some b) =>
            let x := { x with reads := x.reads + 1 }
            if k.typ = 2 then
              if blockBad b then (s, { x with fin := 2 })
              else
                let (o, d) := r.inSpace f.inst
                (s, { (trisOf b).foldl (fun x t => x.tri r o d f.inst t) { x with tests := x.tests + (trisOf b).length } with
                  frames := { f with kids := rest } :: r' })
            else match f.inst, instOf b with
              | none, some i =>
                if r.mask &&& i.imask = 0 then (s, { x with frames := { f with kids := rest } :: r' })
                else (s, x.descend f rest r' (i.root, f.level + 1, some i))
              | _, _ => (s, { x with fin := 2 })

/-- Steps until the traversal ends. -/
def State.travRun (n : Nat) (r : Ray) : (fuel : Nat) → State → Trav → State × Trav
  | 0, s, x => (s, x)
  | f + 1, s, x =>
    if x.fin ≠ 0 then (s, x)
    else
      let p := s.travStep n r x
      State.travRun n r f p.1 p.2

/-- The whole traversal of a ray. No structure of 32 levels has more than 2^128 steps. -/
def State.traverse (s : State) (n : Nat) (r : Ray) : State × Trav :=
  if r.missNow then (s, { into := none, fin := 1 })
  else State.travRun n r (2 ^ 128) s { into := some (r.root, 0, none) }

/-! ### Hit records (R335) -/

/-- The hit record of a traversal. -/
def hitRecord (r : Ray) (x : Trav) : List Byte :=
  let user := if r.kind = 0 then 0 else r.user
  let dup := 16 * b2n r.dup
  match x.hit with
  | none =>
    leBytes 4 0x7F800000 ++ leBytes 16 0 ++ leBytes 4 0xFFFFFFFF ++ leBytes 4 user ++ leBytes 4 dup
  | some h =>
    let st := (if h.cand then 2 else 1) + 4 * b2n h.front + (if x.restarts = 0 then 0 else 8) + dup + 0x100 * (h.inst.map (·.custom)).getD 0
    leBytes 4 h.t ++ leBytes 4 h.u ++ leBytes 4 h.v ++ leBytes 4 h.tri.prim ++ leBytes 4 h.tri.geom ++
    leBytes 4 ((h.inst.map (·.index)).getD 0xFFFFFFFF) ++ leBytes 4 user ++ leBytes 4 st

end Sys2Proof.Machine
end

