-- ==== Sys2Proof/Machine/Carder.lean ====
section
/-! DEFINITION. The Carder (R350 to R360): emission, buckets, batches, the Ray Pools, delivery of hits, the checks on RTU
results, and ray-to-Spool activations. -/

namespace Sys2Proof.Machine

/-! ### Units and counts -/

/-- Change the Carder's state. -/
def State.updCrd (s : State) (f : Crd → Crd) : State := { s with crd := f s.crd }

/-- RTU `n` takes work: present, its cluster in no reset, and not under test. -/
def State.rtuUp (s : State) (n : Nat) : Bool :=
  s.present 2 n && !s.rsts.any (fun r => r.typ == 1 && r.unit == n) && !s.tested 2 n && !s.tested 0 n

/-- The present RTUs of a partition. -/
def State.partRtus (s : State) (p : Nat) : List Nat := (bitList (s.partClusters p) 48).filter (s.present 2)

/-- A counter of R363: its first occurrence after a clear raises the event. -/
def State.countFirst (s : State) (F : Fld) (i n src : Nat) : State :=
  let first := s.rd F i == 0 && n != 0
  let s := s.countN F i n
  if first then s.raise src else s

/-- Rays that hold slots: those of buckets, those in batches whose hits have not left, and held SHADE hits (R350, R351). -/
def Crd.slots (c : Crd) : List Ray :=
  c.buckets.flatMap (·.2) ++ c.batches.flatMap (fun b => b.2.rays ++ b.2.cmps.map (·.1) ++ b.2.hits.map (·.1))

/-- Slots that a partition holds. -/
def State.inStore (s : State) (p : Nat) : Nat := (s.crd.slots.filter (fun r => r.part == p)).length

/-- Records in a partition's Ray Pool, and how many it can hold. -/
def State.pooled (s : State) (p : Nat) : Nat := ((s.crd.pools.get? p).getD []).length
def State.poolCap (s : State) (p : Nat) : Nat := s.rd CRD_POOL.SIZE p * 32768
/-- Physical address of record `k` of a partition's Ray Pool, a ring; PA holds the device's bits. -/
def State.poolPa (s : State) (p k : Nat) : Nat := s.rd CRD_POOL.PA p * 0x200000 + 64 * (k % s.poolCap p)

/-- Progress of a partition restarts the time of R353. -/
def State.crdMoved (s : State) (p : Nat) : State :=
  if (s.crd.full.get? p).isSome then s.updCrd (fun c => { c with full := c.full.put p s.now }) else s

/-- The registers of the store follow it; the time of R353 starts and ends with a full pool. -/
def State.crdSync (s : State) : State :=
  let s := s.wrs 0 [(CRD_STATUS.STORE_USED, s.crd.slots.length), (CRD_STATUS.BUCKETS, s.crd.buckets.length),
    (CRD_STATUS.DESC_ACTIVE, s.crd.acts.length)]
  (List.range 8).foldl (fun s p =>
    let s := s.wrs p [(CRD_POOL.POOLED, s.pooled p), (CRD_POOL.IN_STORE, s.inStore p)]
    let full := s.pooled p ≥ s.poolCap p && s.crd.held.any (fun r => r.part == p) || (s.poolCap p != 0 && s.pooled p ≥ s.poolCap p)
    s.updCrd (fun c => { c with full := if full then (if (c.full.get? p).isSome then c.full else c.full.put p s.now) else c.full.del p })) s

/-! ### Batches (R351) -/

/-- A bucket becomes a batch. -/
def State.batchOf (s : State) (b : Nat) : State :=
  match s.crd.buckets.get? b with
  | none => s
  | some rs => s.updCrd (fun c => { c with buckets := c.buckets.del b, batches := c.batches.put c.next { rays := rs }, next := c.next + 1 })

/-- The bucket whose oldest ray has waited longest. -/
def oldestBucket : NMap (List Ray) → Option (Nat × Nat)
  | [] => none
  | (k, rs) :: r =>
    let t := ((rs.head?).map (·.since)).getD 0
    match oldestBucket r with
    | none => some (k, t)
    | some (k', t') => if t' < t then some (k', t') else some (k, t)

/-- A ray enters its bucket; a new key that finds the table full evicts the oldest bucket, and a bucket of 32 becomes a
batch (R351). -/
def State.bucketIn (s : State) (r : Ray) : State :=
  let r := { r with since := s.now }
  match s.crd.buckets.find? (fun b => match b.2 with
      | x :: _ => x.key == r.key
      | [] => false) with
  | some (b, rs) =>
    let s := s.updCrd (fun c => { c with buckets := c.buckets.put b (rs ++ [r]) })
    if rs.length ≥ 31 then s.batchOf b else s
  | none =>
    let s := if s.crd.buckets.length ≥ 4096 then
        match oldestBucket s.crd.buckets with
        | some (b, _) => (s.batchOf b).countFirst CRD_CTR.EVICTED 0 1 0x92
        | none => s
      else s
    s.updCrd (fun c => { c with buckets := c.buckets.put c.next [r], next := c.next + 1 })

/-! ### Ray-to-Spool (R358 to R360) -/

/-- A free word within 2^-20 of `n` / sqrt(`q`), an exact value scaled alike (R358). -/
def State.unitComp (s : State) (n q : Int) : Nat × State :=
  let root := isqrt (q.toNat * 2 ^ 80)
  let k := s.free 29
  let x : Int := n * (2 ^ 80 : Nat) / root
  (if root = 0 then k.1 % 2 ^ 32 else (fp32.rnd ⟨x + (((k.1 % 2 ^ 20 : Nat) : Int) - 2 ^ 19), -40⟩).1, k.2)

/-- The world normal of a hit, as three FP32 words. -/
def State.worldNormal (s : State) (h : Hit) : List Nat × State :=
  let v := fp32.val
  let e (p q : V3) (k : Nat) : Dy := (v (q.at k)).add (v (p.at k)).neg
  let x (k : Nat) : Dy :=
    let i := (k + 1) % 3
    let j := (k + 2) % 3
    ((e h.tri.a h.tri.b i).mul (e h.tri.a h.tri.c j)).add ((e h.tri.a h.tri.b j).mul (e h.tri.a h.tri.c i)).neg
  let y (j : Nat) : Dy := match h.inst with
    | none => x j
    | some i => [0, 1, 2].foldl (fun a k => a.add ((v (i.w2o.getD (4 * k + j) 0)).mul (x k))) (Dy.ofInt 0)
  let ex := min (y 0).e (min (y 1).e (y 2).e)
  let n (j : Nat) : Int := (y j).at ex
  let q := n 0 * n 0 + n 1 * n 1 + n 2 * n 2
  [0, 1, 2].foldl (fun r j =>
    let c := r.2.unitComp (n j) q
    (r.1 ++ [c.1], c.2)) ([], s)

/-- Fields of an activation's descriptor. -/
def Activation.loom (a : Activation) : Nat := bits (b8 a.desc 0) 0 4
def Activation.fmt (a : Activation) : Nat := b8 a.desc 1
def Activation.nf (a : Activation) : Nat := b8 a.desc 2
def Activation.base (a : Activation) : Nat := field a.desc 4 2
def Activation.rows (a : Activation) : Nat := field a.desc 6 2
def Activation.expect (a : Activation) : Nat := field a.desc 8 8
def Activation.sigEn (a : Activation) : Bool := bit (field a.desc 0x10 2) 15
def Activation.sigTally (a : Activation) : Nat := bits (field a.desc 0x10 2) 0 13
def Activation.value (a : Activation) : Nat := field a.desc 0x18 8
/-- Rays of a row (R360). -/
def Activation.rpr (a : Activation) : Nat := (if a.fmt = 0 then 256 else 512) / a.nf

/-- The checks of R359 on a descriptor; 0, or the fault code. -/
def State.actBad (s : State) (a : Activation) (p : Nat) : Nat :=
  let d := a.desc
  let rsv := bits (b8 d 0) 4 4 != 0 || b8 d 3 != 0 || bits (field d 0x10 2) 13 2 != 0 || !zeros d 0x12 6 || !zeros d 0x24 4 ||
    !zeros d 0x30 16
  if rsv || a.fmt > 3 || a.nf = 0 || a.nf > 8 || !zeros d (0x28 + a.nf) (8 - a.nf) ||
     (List.range a.nf).any (fun f => b8 d (0x28 + f) > 11) || a.rows = 0 || a.rows > 8192 || a.expect = 0 || a.expect > 2 ^ 32 ||
     a.base + a.rows > 8192 || (a.sigEn && a.value == poison) || !s.tallyOk p a.sigTally then 0x50
  else if !bit (s.rd FE_PART.LOOMS p) a.loom then 0xC2 else 0

/-- The open activation that takes a ray. -/
def State.openAct (s : State) (r : Ray) : Option Activation :=
  s.crd.acts.find? (fun a => a.ctx == r.ctx && a.va == r.tgt && a.accepted < a.expect)

/-- The open activation for a ray, opened where there is none: the ray with its activation; none while 64 are open, or
after a fault. `rs` are the rays of its emission that have not been accepted: all are held to the activation, so that none takes effect
where one breaks R360 (R334). -/
def State.actFor (s : State) (r : Ray) (rs : List Ray) : State × Option Ray :=
  let bad (s : State) (code : Nat) : State × Option Ray := (s.ctxFault r.ctx code 0 63, none)
  let use (s : State) (a : Activation) : State × Option Ray :=
    if rs.any (fun x => x.user ≥ a.rows * a.rpr) then bad s 0x50 else (s, some { r with act := a.id })
  match s.openAct r with
  | some a => use s a
  | none =>
    if s.crd.acts.length ≥ 64 then (s, none)
    else if r.tgt % 128 ≠ 0 then bad s 0x50
    else match s.vread r.ctx 63 r.tgt 128 with
      | (s, none) => (s, none)
      | (s, some b) =>
        let a : Activation := { id := s.crd.next, ctx := r.ctx, va := r.tgt, desc := b }
        match s.actBad a r.part with
        | 0 => use (s.updCrd (fun c => { c with acts := c.acts ++ [a], next := c.next + 1 })) a
        | code => bad s code

/-- Change an activation. -/
def State.updAct (s : State) (id : Nat) (f : Activation → Activation) : State :=
  s.updCrd (fun c => { c with acts := c.acts.map (fun a => if a.id = id then f a else a) })

/-- The exact value of an integer, scaled and offset and rounded once; special operands follow the FP32 rules. -/
def intFma (n sc off : Nat) : Nat :=
  if fp32.expo sc == 255 || fp32.expo off == 255 then (fp32.fma (fp32.rnd (Dy.ofInt n)).1 sc off).1
  else (fp32.rnd (((Dy.ofInt n).mul (fp32.val sc)).add (fp32.val off))).1

/-- Field `f` of a hit in FP32 (R358, R360). `h` is the hit record with the world normal after it. -/
def Activation.value32 (a : Activation) (h : List Byte) (f : Nat) : Nat :=
  let src := b8 a.desc (0x28 + f)
  let sc := field a.desc (0x40 + 8 * f) 4
  let off := field a.desc (0x44 + 8 * f) 4
  let st := field h 0x1C 4
  let hit := bits st 0 2 != 0
  let fma (w : Nat) : Nat := (fp32.fma w sc off).1
  let one (b : Bool) : Nat := if b then 0x3F800000 else 0
  if src = 0 then fma (if hit then field h 0 4 else field a.desc 0x20 4)
  else if !hit then fma 0
  else if src = 1 then fma (one true)
  else if src = 2 then fma (field h 4 4)
  else if src = 3 then fma (field h 8 4)
  else if src < 7 then fma (field h (0x20 + 4 * (src - 4)) 4)
  else if src = 7 then fma (one (bit st 2))
  else if src = 8 then intFma (field h 0x0C 4) sc off
  else if src = 9 then intFma (field h 0x10 4) sc off
  else if src = 10 then intFma (let i := field h 0x14 4; if i = 0xFFFFFFFF then 0 else i) sc off
  else intFma (bits st 8 24) sc off

/-- A SPOOL hit is written into its Loom's Spool (R360). -/
def State.spoolHit (s : State) (r : Ray) (h : List Byte) : State :=
  match s.crd.acts.find? (fun a => a.id == r.act) with
  | none => s
  | some a =>
    let c := [1, 3, 4, 6].getD a.fmt 1
    let w := if c = 1 then 2 else 1
    let at0 := (a.base + r.user / a.rpr) * 512 + r.user % a.rpr * a.nf * w
    let s := s.updLoom a.loom (fun l => { l with spool := (List.range a.nf).foldl (fun m f =>
      m.write (at0 + f * w) (leBytes w (toOfmt c (a.value32 h f)).1)) l.spool })
    s.updAct a.id (fun a => { a with written := a.written + 1 })

/-! ### Acceptance (R334, R350, R352) -/

/-- A hit leaves the RTU: to the emitting lane, to its batch, or to the Spool, where it is delivered (R353). -/
def State.hitOut (s : State) (b : Option Nat) (r : Ray) (h : List Byte) : State :=
  if r.kind = 0 then s.updCrd (fun c => { c with rets := c.rets ++ [(r, h)] })
  else if r.kind = 2 then r.ds.foldl State.dispCheck ((s.crdMoved r.part).spoolHit r h)
  else match b with
    | some b => s.updCrd (fun c => { c with batches := c.batches.upd b (fun x => { x with hits := x.hits ++ [(r, h)] }) })
    | none => s.updCrd (fun c => { c with batches := c.batches.put c.next { rays := [], hits := [(r, h)] }, next := c.next + 1 })

/-- A ray is accepted: it is counted, sampled after every 2^DUP_LOG2 rays of its partition, and stored, or it misses at
once. A pool record whose write fails faults the ray's context, and the ray is not pooled. -/
def State.takeRay (s : State) (r : Ray) (pool : Bool) : State :=
  let n := (s.crd.taken.get? r.part).getD 0 + 1
  let r := { r with dup := n % 2 ^ s.rd CRD_CFG.DUP_LOG2 == 0 }
  let s := (s.updCrd (fun c => { c with taken := c.taken.put r.part n })).count CRD_CTR.RAYS
  let s := if r.kind = 2 then s.updAct r.act (fun a => { a with accepted := a.accepted + 1 }) else s
  if r.missNow then s.hitOut none r (hitRecord r { into := none })
  else if pool then
    let k := (s.crd.poolNext.get? r.part).getD 0
    let (img, s) := s.freeBytes 30 64
    let w := s.physWrite (s.poolPa r.part k) 0 img
    let s := w.1
    if w.2 ≠ 0 then s.accFault r.ctx w.2 63 0 1
    else
      let s := s.updCrd (fun c => { c with
        pools := c.pools.put r.part ((c.pools.get? r.part).getD [] ++ [r]), poolNext := c.poolNext.put r.part (k + 1) })
      s.countFirst CRD_CTR.SPILLED 0 1 0x91
  else s.bucketIn r

/-- Where a ray of partition `p` goes: some false into the store, some true into the Ray Pool, none while both are
full (R352). -/
def State.rayRoom (s : State) (p : Nat) : Option Bool :=
  if s.inStore p < s.rd FE_PART.CRD_QUOTA p * 1024 && s.crd.slots.length < 262144 then some false
  else if s.pooled p < s.poolCap p then some true else none

/-- Held rays are accepted in order, for as long as there is room; the first of a partition that finds none holds those
behind it. The groups whose last ray is accepted go on. -/
def State.crdPump : (fuel : Nat) → State → State
  | 0, s => s
  | f + 1, s =>
    let first (r : Ray) : Bool := (s.crd.held.find? (fun x => x.part == r.part)) == some r
    match s.crd.held.find? (fun r => first r && (s.rayRoom r.part).isSome &&
        !(r.kind == 2 && s.crd.acts.length ≥ 64 && (s.openAct r).isNone)) with
    | none => s
    | some r =>
      let (s, r') := if r.kind = 2 then s.actFor r (s.crd.held.filter (fun x => x.grp == r.grp)) else (s, some r)
      let s := s.updCrd (fun c => { c with held := c.held.erase r })
      match r' with
      | none => State.crdPump f { s with crd := { s.crd with held := s.crd.held.filter (fun x => s.ctxActive x.ctx) } }
      | some r' =>
        let s := s.takeRay r' ((s.rayRoom r.part).getD false)
        let s := if s.crd.held.any (fun x => x.grp == r.grp) then s
          else s.updGrp r.grp (fun x => if x.wait = .ray then { x with wait := .none } else x)
        State.crdPump f s

/-- Clocks in which an emission of partition `p` waited on a full pool, a free number of them: the first since POOL_FULL was cleared
raises its event (R363). -/
def State.poolWait (s : State) (p : Nat) : State :=
  if s.crd.held.any (fun r => r.part == p) && (s.rayRoom p).isNone then
    let (k, s) := s.free 31
    s.countFirst CRD_CTR.POOL_FULL 0 (k % 2 ^ 32 + (if s.rd CRD_CTR.POOL_FULL = 0 then 1 else 0)) 0x93
  else s

/-- Accept what can be accepted, and bring the registers up to date. -/
def State.crdGo (s : State) : State := ((List.range 8).foldl State.poolWait (s.crdPump 65536)).crdSync.gfxGo

/-! ### RAY.EMIT (R240 to R242) -/

/-- The ray record of a lane. -/
def Grp.rayRec (x : Grp) (lane r0 : Nat) : List Byte := (List.range 12).flatMap (fun k => leBytes 4 (x.rv lane (r0 + k)))

/-- The rays of an instruction, in lane order. -/
def GEnv.raysOf (e : GEnv) (i : Ins) (kind tgt : Nat) : List Ray :=
  let ds := match e.disp.kind with
    | .hit ps => ps
    | _ => [e.wg.disp]
  (e.grp.lanesOf i).map (fun l => {
    raw := e.grp.rayRec l i.src0, kind := kind, ctx := e.grp.ctx, part := e.disp.part, tgt := tgt, ds := ds,
    clusters := e.disp.clusters, q := e.disp.q, prio := e.disp.prio, grp := e.id, reg := i.dst, lane := l })

/-- The emission of an instruction's rays: all are checked before any takes effect (R334, R352); where 64 activations are open, that is
when one opens for it. The pool that is full is counted and reported (R363). -/
def State.emitRays (s : State) (e : GEnv) (i : Ins) (kind tgt : Nat) : State :=
  let rs := e.raysOf i kind tgt
  let p := e.disp.part
  let fault (s : State) (code : Nat) : State := s.ctxFault e.grp.ctx code 0 63
  match rs with
  | [] => s
  | r :: _ =>
    if s.rd FE_PART.CRD_QUOTA p = 0 ∧ s.poolCap p = 0 then fault s 0x54
    else if rs.any (·.invalid) then fault s 0x50
    else
      let (s, ok) := if kind = 2 ∧ (s.crd.acts.length < 64 ∨ (s.openAct r).isSome) then
          let (s, o) := s.actFor r rs
          (s, o.isSome)
        else (s, true)
      if !ok then s
      else
        let s := s.updGrp e.id (fun x => { x with
          rets := if kind = 0 then x.rets ++ [(i.dst, e.grp.active i)] else x.rets, wait := .ray })
        let s := s.updCrd (fun c => { c with held := c.held ++ rs })
        ((s.crdPump (rs.length + 1)).poolWait p).crdSync

/-- RAY.EMIT with disposition `kind`, which MOD names (R240). -/
def State.rayEmit (s : State) (g : Nat) (i : Ins) (kind : Nat) : State :=
  match s.genv g with
  | none => s
  | some e =>
    if bits i.md 0 2 ≠ kind ∧ bits i.md 0 2 ≠ 3 ∨ kind = 0 ∧ e.grp.rets.length ≥ 2 then s
    else s.issue ⟨0xA, some 0⟩ g i false (⟨i.src0, .v, 12⟩ :: if kind = 0 then [⟨i.dst, .v, 8⟩] else [⟨i.src1, .s, 2⟩]) 3 false
      (fun e => if (s.partRtus e.disp.part).isEmpty || bits i.md 0 2 == 3 || (kind != 0 && i.dst != 0) || i.x != 0 then some 1 else none)
      (fun s e => s.emitRays e i kind (if kind = 0 then 0 else e.grp.s64 i i.src1))

/-- RAY.EMIT RETURN: a third pending emission waits (R240, R241). -/
def execRayEmitReturn (g : Nat) (i : Ins) (s : State) : Host.Outcome State Fault Refusal := .next (s.rayEmit g i 0)

/-- RAY.EMIT SHADE (R240). -/
def execRayEmitShade (g : Nat) (i : Ins) (s : State) : Host.Outcome State Fault Refusal := .next (s.rayEmit g i 1)

/-- RAY.EMIT SPOOL (R240). -/
def execRayEmitSpool (g : Nat) (i : Ins) (s : State) : Host.Outcome State Fault Refusal := .next (s.rayEmit g i 2)

/-- HIT_ARRIVAL: the oldest RETURN hit for a lane of group `g` is written to its registers, or discarded where the group
has ended (R241, R227). -/
def execHitArrival (g lane : Nat) (s : State) : Host.Outcome State Fault Refusal :=
  match s.crd.rets.find? (fun p => p.1.grp == g && p.1.lane == lane) with
  | none => .next s
  | some (r, h) =>
    let s := (s.updCrd (fun c => { c with rets := c.rets.erase (r, h) })).crdMoved r.part
    match s.sh.grps.get? g with
    | none => .next s
    | some x =>
      let x := if x.ended then x else (List.range 8).foldl (fun x k => x.wv lane (r.reg + k) (field h (4 * k) 4)) x
      let rets := (x.rets.map (fun q => if q.1 = r.reg then (q.1, setBit q.2 lane false) else q)).filter (fun q => q.2 != 0)
      let s := s.setGrp g { x with rets := rets }
      .next (if x.ended && rets.isEmpty then (s.grpGone g).gfxGo else s.trapGo g)

/-! ### Batches and traversal -/

/-- BATCH_TIMEOUT: the oldest ray of bucket `b` has waited BATCH_US (R351). -/
def execBatchTimeout (b : Nat) (s : State) : Host.Outcome State Fault Refusal :=
  match s.crd.buckets.get? b with
  | some (r :: _) => if s.now ≥ r.since + 1000 * s.rd CRD_CFG.BATCH_US then .next (s.batchOf b).crdSync else .next s
  | _ => .next s

/-- Batches that an RTU holds. -/
def State.rtuLoad (s : State) (n : Nat) : Nat := (s.crd.batches.filter (fun b => b.2.rtu == some n)).length

/-- BATCH_DISPATCH: batch `b` goes to the RTU of its partition that holds the fewest batches, the lowest on a tie, unless
that one holds four (R351). -/
def execBatchDispatch (b : Nat) (s : State) : Host.Outcome State Fault Refusal :=
  match s.crd.batches.get? b with
  | none => .next s
  | some x => match x.rays with
    | [] => .next s
    | r :: _ =>
      if x.rtu.isSome || !s.ctxActive r.ctx then .next s
      else match ((s.partRtus r.part).filter s.rtuUp).foldl (fun m n => match m with
          | none => some n
          | some k => if s.rtuLoad n < s.rtuLoad k then some n else some k) none with
        | none => .next s
        | some n =>
          if s.rtuLoad n ≥ 4 then .next s
          else
            let s := s.updCrd (fun c => { c with batches := c.batches.put b { x with rtu := some n, size := x.rays.length } })
            let s := s.count CRD_CTR.BATCHES
            let s := if x.rays.length < 32 then s.count CRD_CTR.PARTIAL else s
            .next ((s.crdMoved r.part).crdSync)

/-- The counts of a cast on RTU `n` (R363); of the reads that a ray shares with others of its batch, how many count with it is a free
value (R361). -/
def State.castCount (s : State) (n p : Nat) (x : Trav) (lone : Bool) : State :=
  let (k, s) := if lone then (x.reads, s) else s.free 27
  let reads := k % (x.reads + 1)
  let s := ((s.countN RTU_CTR.NODE_STEPS n x.steps).countN RTU_CTR.TRI_TESTS n x.tests).countN RTU_CTR.FETCHES n reads
  let s := s.countFirst RTU_CTR.RESTARTS n x.restarts 0x94
  ((s.pmu 0x20 n p x.steps).pmu 0x21 n p x.tests).pmu 0x22 n p reads

/-- The RTU of the second cast: the lowest other present RTU of the partition, or the same one (R356). -/
def State.dupRtu (s : State) (p n : Nat) : Nat := (((s.partRtus p).filter (· != n)).head?).getD n

/-- A sampled ray is cast again on RTU `n`, alone (R356): what the cast counts, and the accesses it makes. -/
def State.recast (s : State) (n : Nat) (r : Ray) : State :=
  let (s, tr) := s.traverse n r
  if tr.fin = 2 then s.ctxFault r.ctx 0x51 0 n
  else if tr.fin = 3 then s
  else s.castCount n r.part tr true

/-- A sampled ray is cast again on an RTU, where there is one. -/
def State.recastOn (s : State) (n : Option Nat) (r : Ray) : State :=
  match n with
  | some n => s.recast n r
  | none => s

/-- A batch with nothing left goes; one whose hits are all there leaves its RTU. -/
def State.batchSettle (s : State) (b : Nat) : State :=
  match s.crd.batches.get? b with
  | none => s
  | some x =>
    if !x.rays.isEmpty || !x.cmps.isEmpty then s
    else s.updCrd (fun c => { c with batches := if x.hits.isEmpty then c.batches.del b else c.batches.put b { x with rtu := none } })

/-- TRAVERSAL_COMPLETE: RTU `n`, which holds batch `b`, finishes the ray at place `k` of it. A sampled ray is cast twice and
waits for its comparison (R343 to R349, R356). -/
def execTraversalComplete (b k : Nat) (s : State) : Host.Outcome State Fault Refusal :=
  match s.crd.batches.get? b with
  | none => .next s
  | some x => match x.rtu, x.rays[k]? with
    | some n, some r =>
      if !s.ctxActive r.ctx then .next s
      else
        let (s, tr) := s.traverse n r
        if tr.fin = 3 then .next s
        else if tr.fin = 2 then .next (s.ctxFault r.ctx 0x51 0 n)
        else
          let s := s.castCount n r.part tr (x.size = 1)
          let (nm, s) := match r.kind, tr.hit with
            | 2, some h => s.worldNormal h
            | _, _ => ([], s)
          let h := hitRecord r tr ++ nm.flatMap (leBytes 4)
          let s := s.updCrd (fun c => { c with batches := c.batches.put b { x with rays := x.rays.eraseIdx k } })
          if r.dup then
            let s := s.recast (s.dupRtu r.part n) r
            .next (s.updCrd (fun c => { c with batches := c.batches.upd b (fun x => { x with cmps := x.cmps ++ [(r, h)] }) })).crdGo
          else .next ((s.hitOut (some b) r h).batchSettle b).crdGo
    | _, _ => .next s

/-- The casts of a sampled ray on RTUs `n` and `m` disagree (R356): a third cast on RTU `third`, where there is one, settles which of the
two differs, `odd`, and `out` delivers the record; else the context faults and all are tested. -/
def State.dupOdd (s : State) (n m odd : Nat) (third : Option Nat) (r : Ray) (out : State → State) : State :=
  let own := s.incOwner FE_PART.CLUSTERS n
  if odd < 3 ∧ third.isSome then
    let (inc, s) := s.incident 1 own 0x95
    ((out s).incDone inc).askTest 2 (if odd = 1 then n else m) 0x95 inc
  else
    let (inc, s) := match third with
      | none => s.incident 2 own 0x95
      | some _ => let p := s.incident 1 own 0x95; p.2.incRetryFailed p.1 own 0x95
    let s := s.ctxFault r.ctx 0x53 inc n
    (([n, m] ++ third.toList).foldl (fun s q => s.askTest 2 q 0x95 inc) s).crdSync

/-- DUP_COMPARE: the two casts of the sampled ray at place `k` of batch `b` are compared. `odd` is what the comparison
finds: 0 they agree; 1 or 2 the first or the second record differs from the other two after a third cast; 3 no two agree
(R356). With no third RTU every mismatch faults the context. -/
def execDupCompare (b k odd : Nat) (s : State) : Host.Outcome State Fault Refusal :=
  match s.crd.batches.get? b with
  | none => .next s
  | some x => match x.rtu, x.cmps[k]? with
    | some n, some (r, h) =>
      if !s.ctxActive r.ctx then .next s
      else
        let s := s.updCrd (fun c => { c with batches := c.batches.put b { x with cmps := x.cmps.eraseIdx k } })
        let m := s.dupRtu r.part n
        let out (s : State) : State := ((s.hitOut (some b) r h).batchSettle b).crdGo
        if odd = 0 then .next (out s)
        else
          let third := (s.partRtus r.part).find? (fun q => q != n && q != m)
          let s := ((s.count CRD_CTR.DUP_MISMATCH).raise 0x95).recastOn third r
          .next (if s.ctxActive r.ctx then s.dupOdd n m odd third r out else s)
    | _, _ => .next s

/-- The hit-shading descriptor at `va` of rays of dispatches `ds`: as it was when their first group that names it was placed, else read
and checked now, by the lowest cluster of their mask (R185, R336). -/
def State.hitKdesc (s : State) (ds : List Nat) (r : Ray) : State × Option KDesc :=
  match ds.findSome? (fun i => (s.sh.disps.get? i).bind (fun d => (d.hitKds.find? (fun p => p.1 == r.tgt)).map (·.2))) with
  | some kd => (s, some kd)
  | none =>
    let c := (bitList r.clusters 48).headD 60
    match s.readKdesc r.ctx c r.tgt with
    | (s, none) => (s, none)
    | (s, some kd) => if kd.wgx = 32 ∧ kd.wgy = 1 ∧ kd.wgz = 1 then (s, some kd) else (s.ctxFault r.ctx 0x30 0 c, none)

/-- The dispatches `ds` keep the descriptor of their first group that names `va`. -/
def State.keepKdesc (s : State) (ds : List Nat) (va : Nat) (kd : KDesc) : State :=
  { s with sh := { s.sh with disps := ds.foldl (fun m i => m.upd i (fun d =>
      { d with hitKds := (va, kd) :: d.hitKds.filter (fun p => p.1 != va) })) s.sh.disps } }

/-- HIT_SHADE_LAUNCH: the hits of batch `b` start as one hit-shading group on the emitting dispatch's clusters, as soon as a core has
room for it (R336). -/
def execHitShadeLaunch (b : Nat) (s : State) : Host.Outcome State Fault Refusal :=
  match s.crd.batches.get? b with
  | none => .next s
  | some x => match x.hits with
    | [] => .next s
    | (r, h0) :: rest =>
      let hs := (r, h0) :: rest
      let ds := (hs.flatMap (·.1.ds)).eraseDups
      if !x.ready || !s.ctxActive r.ctx || s.fe.held.contains r.part || s.sh.saved.any (fun w => ds.contains w.disp) then .next s
      else match s.hitKdesc ds r with
        | (t, none) => .next t
        | (t, some kd) =>
            let d : Disp := { kind := .hit ds, ctx := r.ctx, part := r.part, prio := r.prio, sid := 0, pid := 0, kd := kd, gx := 1,
                              gy := 1, gz := 1, clusters := r.clusters, q := r.q }
            match t.placeCore d 1 with
            | none => .next s
            | some core =>
              let s := t.keepKdesc ds r.tgt kd
              let id := s.sh.nextDisp
              let s := { s with sh := { s.sh with disps := s.sh.disps.put id d, nextDisp := id + 1 } }
              let init (_ : Nat) (y : Grp) : Grp :=
                let y := (y.ws2 0 kd.args).ws 2 hs.length
                ((List.range hs.length).foldl (fun (y : Grp) l =>
                  let h := ((hs[l]?).map (·.2)).getD []
                  (List.range 8).foldl (fun (y : Grp) k => y.wv l k (field h (4 * k) 4)) y) y)
              let s := s.placeOn id d core 0 1 init (fun _ => 2 ^ hs.length - 1)
              let s := s.updCrd (fun c => { c with batches := c.batches.del b })
              .next (s.crdMoved r.part).crdGo

/-- POOL_RETURN: the oldest pooled ray of partition `p` moves back into the store while the partition is below its quota;
a record of a torn-down context is skipped (R352). -/
def execPoolReturn (p : Nat) (s : State) : Host.Outcome State Fault Refusal :=
  match (s.crd.pools.get? p).getD [] with
  | [] => .next s
  | r :: rest =>
    if ¬ (s.inStore p < s.rd FE_PART.CRD_QUOTA p * 1024 ∧ s.crd.slots.length < 262144) then .next s
    else
      let k := (s.crd.poolNext.get? p).getD 0
      let x := s.physRead (s.poolPa p (k - (rest.length + 1))) 64 0
      let s := x.1.updCrd (fun c => { c with pools := c.pools.put p rest })
      if r.dead then .next s.crdGo
      else if x.2.2 ≠ 0 then .next (s.accFault r.ctx x.2.2 63 0).crdSync
      else .next (s.bucketIn r).crdGo

/-- RAY_DEADLOCK: partition `p`'s pool has been full for 1 ms with no batch sent and no hit delivered (R353). -/
def execRayDeadlock (p : Nat) (s : State) : Host.Outcome State Fault Refusal :=
  match s.crd.full.get? p with
  | none => .next s
  | some t =>
    if s.now < t + 1000000 then .next s
    else .next (((s.crd.held.filter (fun r => r.part == p)).map (·.ctx)).eraseDups.foldl (fun s c => s.ctxFault c 0x52 0 63) s)

/-- RTU_PATROL: RTU `n` runs its patrol batch; `fail` is the comparison with the stored results. The fixed structure is the
firmware's, so what it counts is a free value (R357). -/
def execRtuPatrol (n : Nat) (fail : Bool) (s : State) : Host.Outcome State Fault Refusal :=
  if !s.rtuUp n then .next s
  else
    let (a, s) := s.free 28
    let (b, s) := s.free 28
    let (c, s) := s.free 28
    let s := s.castCount n 8 { into := none, steps := a % 2 ^ 16, tests := b % 2 ^ 16, reads := c % 2 ^ 16 } false
    if fail then .next ((s.raise 0x96).askTest 2 n 0x96 0) else .next s

/-- ACTIVATION_COMPLETE: activation `a` has written all its rays; it closes and signals its Tally (R360). -/
def execActivationComplete (a : Nat) (s : State) : Host.Outcome State Fault Refusal :=
  match s.crd.acts.find? (fun x => x.id == a) with
  | none => .next s
  | some x =>
    if x.written < x.expect ∨ ¬ s.ctxActive x.ctx then .next s
    else
      let s := s.updCrd (fun c => { c with acts := c.acts.filter (fun y => y.id != a) })
      .next (if x.sigEn then s.signal x.sigTally x.value else s).crdGo

/-! ### Teardown and reset -/

/-- The rays and activations of context `c` go (R85 step 2); the Tallies of its activations are answered. Pooled records
stay until they come back (R352). -/
def State.crdTeardown (s : State) (c : Nat) : State × List Nat :=
  let mine (r : Ray) : Bool := r.ctx == c
  let pz := (s.crd.acts.filter (fun a => a.ctx == c && a.sigEn)).map (·.sigTally)
  let keep (rs : List Ray) : List Ray := rs.filter (fun r => !mine r)
  let keepH (rs : List (Ray × List Byte)) : List (Ray × List Byte) := rs.filter (fun r => !mine r.1)
  let s := s.updCrd (fun k => { k with
    held := keep k.held, rets := keepH k.rets, acts := k.acts.filter (fun a => a.ctx != c),
    buckets := (k.buckets.map (fun b => (b.1, keep b.2))).filter (fun b => !b.2.isEmpty),
    batches := (k.batches.map (fun b => (b.1, { b.2 with rays := keep b.2.rays, cmps := keepH b.2.cmps, hits := keepH b.2.hits }))).filter
      (fun b => !(b.2.rays.isEmpty && b.2.cmps.isEmpty && b.2.hits.isEmpty)),
    pools := k.pools.map (fun p => (p.1, p.2.map (fun r => if mine r then { r with dead := true } else r))) })
  (s.crdGo, pz)

/-- A partition's slots and Ray Pool are emptied (R576). -/
def State.crdEmpty (s : State) (p : Nat) : State :=
  let keep (rs : List Ray) : List Ray := rs.filter (fun r => r.part != p)
  let keepH (rs : List (Ray × List Byte)) : List (Ray × List Byte) := rs.filter (fun r => r.1.part != p)
  (s.updCrd (fun k => { k with
    held := keep k.held, rets := keepH k.rets,
    buckets := (k.buckets.map (fun b => (b.1, keep b.2))).filter (fun b => !b.2.isEmpty),
    batches := (k.batches.map (fun b => (b.1, { b.2 with rays := keep b.2.rays, cmps := keepH b.2.cmps, hits := keepH b.2.hits }))).filter
      (fun b => !(b.2.rays.isEmpty && b.2.cmps.isEmpty && b.2.hits.isEmpty)),
    pools := k.pools.del p, poolNext := k.poolNext.del p })).crdSync

/-- The unfinished batches of RTU `n` go to other RTUs (R607). -/
def State.rtuDrop (s : State) (n : Nat) : State :=
  s.updCrd (fun c => { c with batches := c.batches.map (fun b => if b.2.rtu = some n then (b.1, { b.2 with rtu := none, rays := b.2.rays ++ b.2.cmps.map (·.1), cmps := [] }) else b) })

end Sys2Proof.Machine
end

