-- ==== Sys2Proof/Machine/LoomCheck.lean ====
section
/-! DEFINITION. What a Loom's checks compute (R319 to R323): the chunks of a (b, t), the values of the column lanes and of the row
lanes, and their verdicts.

Without a fault the values agree within the tolerance. An upset is the command's operand: the error that it adds to a row's sum, or
to the change of an accumulator. -/

namespace Sys2Proof.Machine

/-! ### Rows and chunks (R281, R282, R323) -/

/-- Streaming clocks of one array pass. -/
def LDraft.passLen (d : LDraft) (b : Nat) : Nat :=
  let l := max (d.mb b) 256
  if d.pair = 4 then (l * 17 + 15) / 16 else l

/-- Streaming clocks of a (b, t) (R281, R282). -/
def LDraft.tileClocks (d : LDraft) (b : Nat) : Nat := d.passes * d.J * d.passLen b

/-- Chunks of a (b, t) (R323). -/
def LDraft.chunks (d : LDraft) (b : Nat) : Nat := ceilDiv (d.tileClocks b) 4096

/-- Array rows among the streaming clocks of a chunk (R281, R282). -/
def LDraft.chunkRows (d : LDraft) (b chunk : Nat) : Nat :=
  let L := d.passLen b
  let hi := min ((chunk + 1) * 4096) (d.tileClocks b)
  ((List.range (hi - chunk * 4096)).filter (fun i =>
    let x := (chunk * 4096 + i) % L
    if d.pair = 4 then x % 17 != 0 && 16 * (x / 17) + x % 17 - 1 < d.mb b else x < d.mb b)).length

/-- The chunk in which block row `r` streams in pass `p` of slice `j`. -/
def LDraft.chunkOf (d : LDraft) (b j p r : Nat) : Nat :=
  ((j * d.passes + p) * d.passLen b + (if d.pair = 4 then r + r / 16 + 1 else r)) / 4096

/-- Block row `r` in pass `p` of slice `j` is a row of the chunk that streams. -/
def LDraft.rowIn (d : LDraft) (j p r : Nat) : Bool := r < d.mb d.b && j < d.J && p < d.passes && d.chunkOf d.b j p r == d.chunk

/-! ### Exact values -/

/-- The sum of numbers; none where one is no number. -/
def optSum (l : List (Option Dy)) : Option Dy := if l.contains none then none else some (sumDy (l.filterMap id))

/-- An element's value as the array reads it (R270); none where it is no number. -/
def MElt.num (e : MElt) (flush : Bool) : Option (Dy × Int) :=
  match (e.flush flush).1.val with
  | (.num v _, x) => some (v, x)
  | _ => none

/-- The FP32 code of a magnitude, rounded upward. -/
def fpUp (v : Dy) : Nat :=
  let w := (fp32.rnd v).1
  if fp32.isInf w || v.le (fp32.val w) then w else w + 1

/-- What stage one makes of a slice's products (R272): none where one is no number. -/
def sliceSums (F : Nat) (ps : List Prod) : Option Dy :=
  if ps.all (fun p => match p with
    | .fin _ => true
    | _ => false)
  then some (sumDy ((chunksOf 16 (ps.length + 1) (termsOf ps)).map (fun g => (groupSum F g).1))) else none

/-- The verdict on a difference (R320 to R322): whether it is past 2^-`theta` times the magnitude, with a margin of 2^-112, and DIFF
and LIMIT as LOOM_CHK_LAST gives them. Without `theta` the check is exact, modulo 2^32. -/
def checkVerdict (theta : Option Nat) (diff mag : Dy) : Bool × Nat × Nat :=
  match theta with
  | none => let x := ofSigned 32 diff.floor; (x != 0, x, 0)
  | some k =>
    let lim := ({ mag with e := mag.e - k } : Dy).add { m := 1, e := -112 }
    (lim.lt diff.abs, (fp32.rnd diff).1, fpUp lim)

/-! ### The column lanes (R320) -/

/-- A lane's value for reduction index `k` in tile column range `t` and weight plane `q`: c0, the sum of the weights, or c1, of their
magnitudes, with the exponent that aligns it. -/
def LDraft.lane (d : LDraft) (beam : Memory) (mag : Bool) (t q k : Nat) : Option (Dy × Int) :=
  match optSum ((List.range (d.cols t)).map fun c =>
      ((d.wElt beam q k (256 * t + c)).num d.flush).map fun v => if mag then v.1.abs else v.1) with
  | none => none
  | some v =>
    let w := if mag then fpUp v else (fp32.rnd v).1
    if fp32.isInf w then none else some (fp32.val w, NTy.expOf .f32 w)

/-- R, or the magnitude G, of block row `r` in pass `p` of slice `j`: the row's activations times c0, or their magnitudes times c1,
aligned in groups of 16 with F = 30. -/
def LDraft.laneSum (d : LDraft) (l : Lm) (mag : Bool) (j p r : Nat) : Option Dy :=
  let (qa, qw) := passPlanes d.passes p
  let ts := (List.range (min d.kt (d.k - j * d.kt))).map fun i =>
    match (d.aElt l.spool d.b r qa (j * d.kt + i)).num d.flush, d.lane l.beam mag d.t qw (j * d.kt + i) with
    | some (a, x), some (c, y) => some ({ v := (if mag then a.abs else a).mul c, ex := x + y } : Term)
    | _, _ => none
  if ts.contains none then none
  else some (sumDy ((chunksOf 16 (ts.length + 1) (ts.filterMap fun x => x)).map fun g => (groupSum (if d.isInt then 600 else 30) g).1))

/-- Y of the row: its column results, summed exactly. -/
def LDraft.edgeSum (d : LDraft) (l : Lm) (j p r : Nat) : Option Dy :=
  optSum ((List.range (d.cols d.t)).flatMap fun c =>
    (d.rowSlices l.beam l.spool d.b r (256 * d.t + c) j p).map fun sl => sliceSums d.groupF (prodsOf d.flush sl))

/-- The exponent of a Draft's column tolerance (R322): none for the integer pairings. -/
def State.thetaCol (s : State) (n : Nat) (d : LDraft) : Option Nat :=
  if d.isInt then none
  else if d.pair = 4 ∨ (d.pair = 0 ∧ d.passes ≥ 2) then some (s.rd LOOM_CHK_CFG.THETA_W n)
  else some (s.rd LOOM_CHK_CFG.THETA_C n)

/-- The verdict of the column lanes on a row whose results an upset has changed by `err` in all: whether it fails, DIFF and LIMIT.
A row with a value that is no number has none to compare and passes. -/
def State.rowVerdict (s : State) (n : Nat) (d : LDraft) (j p r : Nat) (err : Dy) : Bool × Nat × Nat :=
  let l := s.loom n
  match d.edgeSum l j p r, d.laneSum l false j p r, d.laneSum l true j p r with
  | some y, some x, some g => checkVerdict (s.thetaCol n d) ((y.add err).add x.neg) g
  | _, _, _ => (false, 0, 0)

/-! ### The row lanes (R321) -/

/-- A read-modify-write of an accumulator: its old value, what is added, and its new value; none where one is no number. -/
abbrev Rmw := Option (Dy × Dy × Dy)

/-- The read-modify-writes of an FP32 accumulator over slices of products (R274), or, with `corr`, those of its correction (R316). -/
def rmws (F : Nat) (flush corr : Bool) : Nat → Nat → List (List Prod) → List Rmw
  | _, _, [] => []
  | D, E, ps :: r =>
    let T := sliceSum F D ps
    let w := (T.round flush).1
    let num (c : Nat) : Bool := !fp32.isNaN c && !fp32.isInf c
    match T, sliceSums F ps with
    | .fin t, some y =>
      let x := t.add (fp32.val w).neg
      let e := if num w then (fp32.rnd ((fp32.val E).add x)).1 else E
      (if ¬ num w ∨ ¬ num D then none
       else if ¬ corr then some (fp32.val D, y, fp32.val w)
       else if num E ∧ num e then some (fp32.val E, x, fp32.val e) else none) :: rmws F flush corr w e r
    | _, _ => none :: rmws F flush corr w E r

/-- The read-modify-writes that the chunk makes of tile column `c`, row by row. -/
def LDraft.chunkRmws (d : LDraft) (l : Lm) (corr : Bool) (c : Nat) : List Rmw :=
  (List.range (d.mb d.b)).flatMap fun r =>
    let row := d.boltRow d.b d.t r
    let sl := (List.range d.J).flatMap fun j => (List.range d.passes).flatMap fun p =>
      (d.rowSlices l.beam l.spool d.b r (256 * d.t + c) j p).map fun x => (d.chunkOf d.b j p r, prodsOf d.flush x)
    let D := (NTy.flushed .f32 d.flush (if d.accInit then boltGet l.bolt row c else 0)).1
    let E := if d.accInit then boltGet l.bolt (row + 512) c else 0
    ((sl.map (·.1)).zip (rmws d.groupF d.flush corr D E (sl.map (·.2)))).filterMap fun x => if x.1 = d.chunk then some x.2 else none

/-- The verdict of the row lanes on column `c` of the chunk, whose accumulators, or corrections, an upset has changed by `err` beyond
what was added: U = the changes, V = what was added, H = the magnitudes. -/
def State.chunkVerdict (s : State) (n : Nat) (d : LDraft) (corr : Bool) (c : Nat) (err : Dy) : Bool × Nat × Nat :=
  if d.isInt then checkVerdict none err ⟨0, 0⟩
  else
    let ms := d.chunkRmws (s.loom n) corr c
    if ms.contains none then (false, 0, 0)
    else
      let ms := ms.filterMap id
      let U := sumDy (ms.map fun m => m.2.2.add m.1.neg)
      let V := sumDy (ms.map (·.2.1))
      checkVerdict (some (s.rd LOOM_CHK_CFG.THETA_R n)) ((U.add err).add V.neg) (sumDy (ms.map (·.2.2.abs)))

end Sys2Proof.Machine
end

