-- ==== Sys2Proof/Machine/LoomCmds.lean ====
section
/-! DEFINITION. What Looms do: accepting, starting, checking and completing Drafts, releases, stops and restores
(R248, R297 to R308, R319 to R331, R641, R663). -/

namespace Sys2Proof.Machine

/-! ### Status registers -/

/-- The active Drafts of a Loom. -/
def Lm.active (l : Lm) : List LDraft := l.drafts.filter (fun d => d.st != 0)

/-- The streaming Draft. -/
def Lm.streaming (l : Lm) : Option LDraft := l.drafts.find? (fun d => d.st == 1)

/-- LOOM_STATUS follows the Loom. A debugger's halt reads as WAITING (R641). -/
def State.loomSync (s : State) (n : Nat) : State :=
  let l := s.loom n
  let st := s.rd LOOM_STOP.STATE n
  s.wrs n [(LOOM_STATUS.BUSY, b2n (!l.active.isEmpty || s.on LOOM_RELEASE.CLEARING n || st == 2 || st == 4)),
    (LOOM_STATUS.ACCEPTED, l.drafts.length), (LOOM_STATUS.THREAD_HELD, (l.drafts.filter (fun d => d.src.isNone)).length),
    (LOOM_STATUS.WAITING, b2n (l.drafts.any (fun d => d.waitSt == 1) || (l.dbg == 2 && l.streaming.isSome))),
    (LOOM_STATUS.SAVED, b2n l.save.isSome)]

/-- Change the Draft with number `id` of Loom `n`. -/
def State.updDraft (s : State) (n id : Nat) (f : LDraft → LDraft) : State :=
  s.updLoom n (fun l => { l with drafts := l.drafts.map (fun d => if d.id = id then f d else d) })

/-- Remove a Draft. -/
def State.dropDraft (s : State) (n id : Nat) : State :=
  (s.updLoom n (fun l => { l with drafts := l.drafts.filter (fun d => d.id != id) })).loomSync n

/-! ### Ownership (R95) -/

/-- A context's Draft or transfer reaches Loom `n`: the answer says whether it may. With LOOM_SHARE = 0 a free Loom takes
the context as its owner. -/
def State.loomClaim (s : State) (n c : Nat) : State × Bool :=
  let p := s.partOf c
  if !bit (s.rd FE_PART.LOOMS p) n then (s, false)
  else if s.on FE_PART.LOOM_SHARE p then (s, true)
  else if s.on LOOM_STATUS.OWNED n then (s, s.rd LOOM_STATUS.OWNER n == c)
  else (s.wrs n [(LOOM_STATUS.OWNED, 1), (LOOM_STATUS.OWNER, c)], true)

/-- The memories of a Loom are zeroed (R94). -/
def State.loomClear (s : State) (n : Nat) : State := s.updLoom n (fun l => { l with beam := [], spool := [], bolt := [] })

/-! ### The head of a Loom (R298, R440, R449, R453) -/

/-- Non-Realtime Drafts of a Loom are withheld: it holds a stopped Draft, a Realtime job holds it, or a budget or
SAFE_ACTION HOLD withholds. -/
def State.loomHeld (s : State) (n : Nat) : Bool :=
  (s.loom n).save.isSome || s.rtHoldsLoom n || s.saf.hold || match s.ownerOf FE_PART.LOOMS n with
    | some p => bit (s.rd FE_BUDGET.EXHAUSTED p) 1
    | none => false

/-- The Draft that is to start next: the first accepted one, or the first Realtime one while others are withheld. -/
def State.loomHead (s : State) (n : Nat) : Option LDraft :=
  (s.loom n).drafts.find? (fun d => d.st == 0 && (d.prio == 3 || !s.loomHeld n))

/-- The wait of the Draft at the head is registered (R298). -/
def State.loomWait (s : State) (n : Nat) : State :=
  match s.loomHead n with
  | none => s.loomSync n
  | some d =>
    if d.waitEn ∧ d.waitSt = 0 then
      let (s, now) := s.addWait d.waitTally d.waitTarget (.loom n d.id)
      (s.updDraft n d.id (fun x => { x with waitSt := if !now then 1 else if s.poisoned d.waitTally then 3 else 2 })).loomSync n
    else s.loomSync n

/-! ### Issue and acceptance (R248, R297) -/

/-- LOOM.ISSUE: one Draft for each active lane is sent in lane order (R248). -/
def execLoomIssue (g : Nat) (i : Ins) (s : State) : Host.Outcome State Fault Refusal :=
  let addr (x : Grp) (l : Nat) : Nat := x.src i .u64 64 i.src0 l
  .next (s.issue ⟨0xC, some 0⟩ g i false [⟨i.src0, .any, 2⟩] 0 false
    (fun e => if i.x ≠ 0 then some 1 else if (e.grp.lanesOf i).any (fun l => addr e.grp l % 256 != 0) then some 3 else none)
    (fun s e =>
      let ds := (e.grp.lanesOf i).map (addr e.grp)
      if ds.isEmpty then s else s.updGrp g (fun x => { x with wait := .loom ds })))

/-- DRAFT: the packet's run of Drafts begins to be routed (R120, R297). It counts as dispatched when its last Draft has
been accepted. -/
def execDraft (sid : Nat) (s : State) : Host.Outcome State Fault Refusal :=
  match s.canRun sid 0x30 with
  | none => .next s
  | some (st, p) =>
    if (s.routes.get? sid).isSome then .next s
    else .next { s.select sid st with
      routes := s.routes.put sid { pid := p.pid, va := pw2 p.w 1, left := bits (pw1 p.w 3) 0 16 } }

/-- Loom `n` can take one more Draft from its source. -/
def State.loomRoom (s : State) (n : Nat) (thread : Bool) : Bool :=
  let l := s.loom n
  l.drafts.length < 64 && (!thread || (l.drafts.filter (fun d => d.src.isNone)).length < 48) && !s.on LOOM_RELEASE.CLEARING n &&
  s.present 3 n && !s.rsts.any (fun r => r.typ == 2 && r.unit == n)

/-- A Draft at `va` reaches Loom `n`: the whole Draft is read through the Loom's TLB, checked, and accepted (R286, R297).
The answer says whether it was accepted. -/
def State.loomAccept (s : State) (n c va prio : Nat) (src : Option (Nat × Nat)) : State × Bool :=
  match s.vread c (48 + n) va 256 with
  | (s, none) => (s, false)
  | (s, some raw) =>
    let d : LDraft := { id := (s.loom n).nextId, va := va, ctx := c, prio := prio, raw := raw, src := src }
    let p := s.partOf c
    let (s, own) := s.loomClaim n c
    if !own then (s.ctxFault c 0xC2 0 (48 + n), false)
    else if (d.waitEn && !s.tallyOk p d.waitTally) || (d.sigEn && !s.tallyOk p d.sigTally) then (s.ctxFault c 0xC1 0 (48 + n), false)
    else if d.bad then (s.ctxFault c 0x40 0 (48 + n), false)
    else ((s.updLoom n (fun l => { l with drafts := l.drafts ++ [d], nextId := l.nextId + 1 })).loomWait n, true)

/-- DRAFT_ACCEPT from the fetcher: the next Draft of stream `src`'s DRAFT packet; or, from a thread, of group `src`. Where
its Loom is full the Draft waits (R248, R297). -/
def execDraftAccept (thread : Bool) (src : Nat) (s : State) : Host.Outcome State Fault Refusal :=
  if thread then
    match s.genv src with
    | none => .next s
    | some e => match e.grp.wait with
      | .loom (va :: rest) =>
        if !s.ctxActive e.grp.ctx then .next s
        else match s.vread e.grp.ctx (coreTlb (coreOf src)) va 1 with
          | (t, none) => .next t
          | (t, some b) =>
            let n := field b 0 1 % 16
            if n ≥ 12 ∨ ¬ bit (t.rd FE_PART.LOOMS e.disp.part) n then .next (t.ctxFault e.grp.ctx 0xC2 0 (clusterOf src))
            else if !t.loomRoom n true then .next s
            else match t.loomAccept n e.grp.ctx va e.disp.prio none with
              | (t, true) => .next (t.updGrp src (fun x => { x with wait := if rest.isEmpty then .none else .loom rest }))
              | (t, false) => .next t
      | _ => .next s
  else
    match s.fe.strms.get? src, s.routes.get? src with
    | some st, some r =>
      if !s.ctxActive st.ctx || s.strmHeld st then .next s
      else match s.vread st.ctx 60 r.va 1 with
        | (t, none) => .next t
        | (t, some b) =>
          let n := field b 0 1 % 16
          if n ≥ 12 ∨ ¬ bit (t.rd FE_PART.LOOMS (t.partOf st.ctx)) n then .next (t.ctxFault st.ctx 0xC2)
          else if !t.loomRoom n false then .next { s with routes := s.routes.put src { r with held := true } }
          else match t.loomAccept n st.ctx r.va (t.strmPrio st) (some (src, r.pid)) with
            | (t, false) => .next t
            | (t, true) =>
              if r.left ≤ 1 then .next (State.startPkt { t with routes := t.routes.del src } src r.pid)
              else .next { t with routes := t.routes.put src { r with va := r.va + 256, left := r.left - 1, held := false } }
    | _, _ => .next s

/-! ### Completion (R300 to R302) -/

/-- The DRAFT packet of a Draft completes when none of its Drafts is left (R300). -/
def State.draftPkt (s : State) (src : Option (Nat × Nat)) : State :=
  match src with
  | none => s
  | some (sid, pid) =>
    let here := (List.range 12).any (fun n =>
      (s.loom n).drafts.any (fun d => d.src == src) || (match (s.loom n).save with
        | some v => (v.draft.map (·.src)) == some src
        | none => false))
    let routing := match s.routes.get? sid with
      | some r => r.pid == pid
      | none => false
    if here || routing then s else s.donePkt sid pid

/-- Write a Draft's status record (R301). Its CLOCKS are timing, a free value. -/
def State.draftStatus (s : State) (n : Nat) (d : LDraft) (code : Nat) : State × Bool :=
  if d.statusVa = 0 then (s, true)
  else
    let (clk, s) := s.free 24
    s.vwrite d.ctx (48 + n) d.statusVa
      (leBytes 4 code ++ leBytes 4 d.flags ++ leBytes 8 s.now ++ leBytes 8 clk ++ leBytes 4 d.retries ++ leBytes 4 0)

/-- The self-test of Loom `n` that follows a Draft that had a mismatch (R328). -/
def State.loomTest (s : State) (n inc : Nat) : State := s.askTest 1 n (0x101 + 0x10 * n) inc

/-- DRAFT_COMPLETE: the outputs are written; then the status record, then the Tally (R300). -/
def execDraftComplete (n : Nat) (s : State) : Host.Outcome State Fault Refusal :=
  match (s.loom n).drafts.find? (fun d => d.st == 2) with
  | none => .next s
  | some d =>
    if !s.ctxActive d.ctx then .next s
    else match s.draftStatus n d 0 with
      | (s, false) => .next s
      | (s, true) =>
        let s := s.dropDraft n d.id
        let s := if d.sigEn then s.signal d.sigTally d.sigValue else s
        let s := (s.count LOOM_CTR.DRAFTS n).draftPkt d.src
        .next ((if d.mism then s.loomTest n (d.inc.getD 0) else s).loomWait n)

/-- A Draft whose wait Tally is poisoned does not run (R302): CODE = 1, and its queue or its context faults. The Drafts that follow
it in its packet, which lie behind it in memory, are not started; those before it run on, and the packet is done with them. -/
def State.skipDraft (s : State) (n : Nat) (d : LDraft) : State :=
  match s.draftStatus n d 1 with
  | (s, false) => s
  | (s, true) =>
    let s := ((s.fl LOOM_FLAGS.POISON_SKIP n true).count LOOM_CTR.DRAFTS n).dropDraft n d.id
    match d.src with
    | none =>
      let s := s.ctxFault d.ctx 0x41 0 (48 + n)
      if d.sigEn then s.tdPoison d.ctx d.sigTally else s
    | some (sid, pid) =>
      let s := { s with routes := s.routes.filter (fun p => !(p.1 == sid && p.2.pid == pid)) }
      let after (x : LDraft) : Bool := x.src == d.src && x.st == 0 && d.va < x.va
      let s := (List.range 12).foldl (fun s k =>
        (((s.loom k).drafts.filter after).foldl (fun s x => s.dropWaits (.loom k x.id)) s).updLoom k
          (fun l => { l with drafts := l.drafts.filter (fun x => !after x) })) s
      let s := (List.range 12).foldl State.loomSync s
      match s.fe.strms.get? sid with
      | none => s
      | some st =>
        let s := s.queueFault sid 0x0A (st.seqOf pid)
        (s.updStrm sid (fun st => (st.cutAfter pid).updPkt pid (fun p => { p with st := max p.st 1 }))).draftPkt d.src

/-! ### Starting (R293, R294, R298, R299) -/

/-- The head Draft of Loom `n`, if it is one of `op` and can start now. -/
def State.canStart (s : State) (n op : Nat) : Option LDraft :=
  let l := s.loom n
  let st := s.rd LOOM_STOP.STATE n
  if n < 12 && s.loomUp n && (st == 0 || st == 3) && l.dbg == 0 && !s.on LOOM_RELEASE.CLEARING n && l.streaming.isNone &&
      l.active.length < 2 && !l.active.any (·.mism) then
    match s.loomHead n with
    | some d => if d.op == op && s.ctxActive d.ctx then some d else none
    | none => none
  else none

/-- LOOM_CUR follows the streaming Draft (R293): the slice is that of the next chunk's first row. -/
def State.loomCur (s : State) (n : Nat) (d : LDraft) : State :=
  s.wrs n [(LOOM_CUR.DRAFT_VA, d.va), (LOOM_CUR.CTX, d.ctx), (LOOM_CUR.NTILE, d.t),
    (LOOM_CUR.SLICE, d.chunk * 4096 / d.passLen d.b / d.passes), (LOOM_CUR.BLOCK, d.b)]

/-- The head Draft starts, unless its wait holds it or has been poisoned. -/
def State.startDraft (s : State) (n op : Nat) (run : State → LDraft → State) : State :=
  let s := s.loomWait n
  match s.canStart n op with
  | none => s
  | some d =>
    if d.waitEn && d.waitSt == 1 then s
    else if d.waitEn && d.waitSt == 3 then (s.skipDraft n d).loomWait n
    else (run (s.updDraft n d.id (fun x => { x with st := 1 })) { d with st := 1 }).loomWait n

/-- A MATMUL or CONV Draft starts: its weights are loaded, the first block of its activations, and, while that streams, the second
(R293). -/
def State.startMat (n : Nat) (s : State) (d : LDraft) : State :=
  let s := s.loomCur n d
  let (s, ok) := if d.src1 dW = 1 then State.loadW n d d.wRows s else (s, true)
  if ok then (s.loadPair n d 0).1 else s

/-- MATMUL (R293). -/
def execMatmul (n : Nat) (s : State) : Host.Outcome State Fault Refusal := .next (s.startDraft n 0 (State.startMat n))

/-- CONV (R295). -/
def execConv (n : Nat) (s : State) : Host.Outcome State Fault Refusal := .next (s.startDraft n 1 (State.startMat n))

/-- A Draft's Shuttle work is done; it awaits its completion. -/
def State.shuttled (n : Nat) (d : LDraft) (r : State × Bool) : State :=
  if r.2 then r.1.updDraft n d.id (fun x => { x with st := 2 }) else r.1

/-- LOAD_W: weights from memory into the Beam in tile layout (R294). -/
def execLoadW (n : Nat) (s : State) : Host.Outcome State Fault Refusal :=
  .next (s.startDraft n 2 (fun s d => State.shuttled n d (State.loadW n d d.wRows s)))

/-- LOAD_A: activations from memory into the Spool in resident layout (R294). -/
def execLoadA (n : Nat) (s : State) : Host.Outcome State Fault Refusal :=
  .next (s.startDraft n 3 (fun s d => State.shuttled n d
    (if d.layout dA = 0 then State.loadA0 n d (List.range d.m) s else State.loadA1 n d 0 d.m (List.range d.k) s)))

/-- STORE_BOLT: in-place rows of the Bolt through the epilogue to memory (R294). -/
def execStoreBolt (n : Nat) (s : State) : Host.Outcome State Fault Refusal :=
  .next (s.startDraft n 4 (fun s d => State.shuttled n d (State.drainStore n d (List.range d.T) s)))

/-! ### Checks (R319 to R329) -/

/-- The Loom streams: no debugger holds it, no stop point is reached, its context lives. -/
def State.loomRuns (s : State) (n : Nat) : Option LDraft :=
  let l := s.loom n
  if n < 12 ∧ l.dbg ≠ 2 ∧ ¬ l.stopAt ∧ s.loomUp n then
    match l.streaming with
    | some d => if d.op ≤ 1 then some d else none
    | none => none
  else none

/-- The Draft is abandoned after a mismatch (R327); the Tally it would have signalled is answered by the teardown (R662). -/
def State.loomEscalate (s : State) (n : Nat) (d : LDraft) : State :=
  let src := 0x101 + 0x10 * n
  let own := s.incOwner FE_PART.LOOMS n
  let (inc, s) := match d.inc with
    | some i => s.incRetryFailed i own src
    | none => s.incident 2 own src
  let s := ((s.fl LOOM_CHK_STATUS.ESCALATED n true).fl LOOM_CHK_STATUS.RETRYING n false).count LOOM_CHK_CTR.ESCALATIONS n
  let s := s.raise (0x102 + 0x10 * n)
  let s := s.ctxFault d.ctx 0x42 inc (48 + n)
  let s := if d.sigEn then s.tdPoison d.ctx d.sigTally else s
  (s.dropDraft n d.id).loomTest n inc

/-- A retry of Draft `d` is an L0 incident, opened with its first one in a (b, t) (R325, R604): its number. -/
def State.retryInc (s : State) (n : Nat) (d : LDraft) : Nat × State :=
  match d.inc with
  | some i => (i, s)
  | none => s.incident 1 (s.incOwner FE_PART.LOOMS n) (0x101 + 0x10 * n)

/-- A failed check (R325 to R329). `kind` 0 column lanes, 1 row lanes, 2 feed parity, 3 duplicated unit; `row` and `col`
where they are meaningful, `piece` the work that a duplicated unit repeats, once. -/
def State.mismatch (s : State) (n : Nat) (d : LDraft) (kind pass slice : Nat) (row col : Option Nat) (piece diff limit : Nat) : State :=
  let s := s.wrs n [(LOOM_CHK_LAST.KIND, kind), (LOOM_CHK_LAST.PASS, pass), (LOOM_CHK_LAST.SLICE, slice), (LOOM_CHK_LAST.NTILE, d.t),
    (LOOM_CHK_LAST.BLOCK, d.b), (LOOM_CHK_LAST.CTX, d.ctx), (LOOM_CHK_LAST.ROW, row.getD 0), (LOOM_CHK_LAST.ROW_VALID, b2n row.isSome),
    (LOOM_CHK_LAST.COLUMN, col.getD 0), (LOOM_CHK_LAST.COLUMN_VALID, b2n col.isSome), (LOOM_CHK_LAST.DIFF, diff),
    (LOOM_CHK_LAST.LIMIT, limit), (LOOM_CHK_LAST.TIME, s.now)]
  let s := ((s.count LOOM_CHK_CTR.MISMATCH n).raise (0x101 + 0x10 * n)).updDraft n d.id (fun x => { x with mism := true })
  if !s.ctxActive d.ctx then s
  else if (d.accInit && d.comp) || (if kind = 3 then d.dups.contains piece else decide (d.tries ≥ s.rd LOOM_CHK_CFG.RETRY_MAX n)) then
    s.loomEscalate n d
  else
    let (inc, s) := s.retryInc n d
    let s := s.count LOOM_CHK_CTR.RETRIES n
    let s := s.updDraft n d.id (fun x => { x with retries := x.retries + 1, flags := x.flags ||| 4, inc := some inc })
    if kind = 3 then s.updDraft n d.id (fun x => { x with dups := piece :: x.dups })
    else ((s.fl LOOM_CHK_STATUS.RETRYING n true).updDraft n d.id (fun x => { x with chunk := 0, tries := x.tries + 1 })).loomCur n
      { d with chunk := 0 }

/-- ROW_CHECK: a streamed row leaves the array (R320, R325). Kind 0 is the verdict of the column lanes on a row to whose results an upset
has added errM * 2^errE; in kinds 2 and 3, feed parity and a duplicated unit, which compare exactly, that is the difference found, and
in kind 3 `piece` names the piece of work. -/
def execRowCheck (n kind pass slice row piece : Nat) (errM errE : Int) (s : State) : Host.Outcome State Fault Refusal :=
  match s.loomRuns n with
  | none => .next s
  | some d =>
    let err : Dy := ⟨errM, errE⟩
    if kind = 3 then
      .next (if errM = 0 then s else s.mismatch n d 3 pass slice none none piece (fp32.rnd err).1 0)
    else if !d.rowIn slice pass row then .next s
    else if kind = 2 then
      .next (if errM = 0 then s else s.mismatch n d 2 pass slice (some row) none 0 (fp32.rnd err).1 0)
    else
      let (bad, diff, limit) := s.rowVerdict n d slice pass row err
      .next (if bad then s.mismatch n d 0 pass slice (some row) none 0 diff limit else s)

/-- The checkpoint of (b, t) (R326): the first read of each accumulator row also writes the value to row XOR 512. -/
def LDraft.checkpoint (d : LDraft) (bolt : NMap Nat) : NMap Nat :=
  if d.accInit && !d.comp then
    (List.range (d.mb d.b)).foldl (fun m r => (List.range (d.cols d.t)).foldl (fun m c =>
      boltPut m (d.boltRow d.b d.t r ^^^ 512) c (boltGet bolt (d.boltRow d.b d.t r) c)) m) bolt
  else bolt

/-- A (b, t) has passed: its sums stand in the Bolt and are drained, and the next (b, t) streams (R293, R324). -/
def State.tileDone (s : State) (n : Nat) (d : LDraft) : State :=
  let (bolt, fl) := d.accumulate (s.loom n) d.b d.t
  let s := s.updLoom n (fun l => { l with bolt := bolt })
  let s := if fl then (s.fl LOOM_FLAGS.FLUSHED n true).updDraft n d.id (fun x => { x with flags := x.flags ||| 1 }) else s
  let s := s.fl LOOM_CHK_STATUS.RETRYING n false
  let s := match d.inc with
    | some i => s.incDone i
    | none => s
  let (s, ok) := if d.dest = 0 then (s, true) else s.drainTile n d d.b d.t
  if !ok then s
  else if d.t + 1 < d.T then
    (s.updDraft n d.id (fun x => { x with t := d.t + 1, chunk := 0, tries := 0, inc := none, dups := [] })).loomCur n
      { d with t := d.t + 1, chunk := 0 }
  else if d.b + 1 < d.blocks then
    let d' := { d with b := d.b + 1, t := 0, chunk := 0 }
    let s := (s.updDraft n d.id (fun x => { x with b := d.b + 1, t := 0, chunk := 0, tries := 0, inc := none, dups := [] })).loomCur n d'
    if d.b + 2 < d.blocks then (s.loadBlock n d' (d.b + 2)).1 else s
  else
    let s := s.updDraft n d.id (fun x => { x with st := 2, tries := 0, inc := none, dups := [] })
    if s.rd LOOM_STOP.STATE n = 1 ∧ d.yields then s.updLoom n (fun l => { l with ended := some d }) else s

/-- CHUNK_CHECK: a chunk's last row reaches the Bolt, and the row lanes give their verdict (R321, R323, R324). An upset, if any, has
changed the accumulators, or the corrections, of tile column `col` by errM * 2^errE. A pending stop reaches its stop point (R330), a
debugger's halt takes effect (R641). -/
def execChunkCheck (n col : Nat) (corr : Bool) (errM errE : Int) (s : State) : Host.Outcome State Fault Refusal :=
  match s.loomRuns n with
  | none => .next s
  | some d =>
    let (bad, diff, limit) := if errM = 0 ∨ d.cols d.t ≤ col ∨ (corr ∧ ¬ d.comp) then (false, 0, 0)
      else s.chunkVerdict n d corr col ⟨errM, errE⟩
    if bad then .next (s.mismatch n d 1 0 0 none (some col) 0 diff limit)
    else if !s.ctxActive d.ctx then .next s
    else
      let s := if d.chunk = 0 then s.updLoom n (fun l => { l with bolt := d.checkpoint l.bolt }) else s
      let rows := d.chunkRows d.b d.chunk
      let s := (s.count LOOM_CHK_CTR.CHUNKS n).countN LOOM_CTR.ROWS n rows
      let s := s.pmu 0x11 n ((s.ownerOf FE_PART.LOOMS n).getD 8) rows
      let last := d.chunk + 1 ≥ d.chunks d.b
      let s := if last then s.tileDone n d
        else (s.updDraft n d.id (fun x => { x with chunk := d.chunk + 1 })).loomCur n { d with chunk := d.chunk + 1 }
      let l := s.loom n
      let blockEnd := last && d.t + 1 ≥ d.T
      let s := if s.rd LOOM_STOP.STATE n = 1 ∧ l.streaming.isSome ∧ (l.full ∨ (d.yields ∧ blockEnd)) then
          s.updLoom n (fun l => { l with stopAt := true }) else s
      let s := if l.dbg = 1 ∨ l.dbg = 3 then ((s.updLoom n (fun l => { l with dbg := 2 })).wr DBG_LOOM.HALTED 0
          (setBit (s.rd DBG_LOOM.HALTED) n true)).raise 0x582 else s
      .next (s.loomSync n)

/-! ### Release (R308) -/

/-- LOOM_RELEASE: a GO frees an owned, empty Loom; any other GO sets CFG_ERR. -/
def execLoomRelease (n : Nat) (s : State) : Host.Outcome State Fault Refusal :=
  s.hostDo (.loom n) (fun s =>
    if n < 12 ∧ s.on LOOM_STATUS.OWNED n ∧ (s.loom n).drafts.isEmpty ∧ (s.loom n).save.isNone ∧ ¬ s.on LOOM_RELEASE.CLEARING n then
      .next ((((s.wrs n [(LOOM_STATUS.OWNED, 0), (LOOM_STATUS.OWNER, 0)]).loomClear n).fl LOOM_RELEASE.CLEARING n true).loomSync n)
    else .next (s.cfgErr (.loom n) 0x10))

/-- LOOM_RELEASE_DONE: the zeroing completes. -/
def execLoomReleaseDone (n : Nat) (s : State) : Host.Outcome State Fault Refusal :=
  if s.on LOOM_RELEASE.CLEARING n then .next ((s.fl LOOM_RELEASE.CLEARING n false).loomSync n) else .next s

/-! ### Stopping for pre-emption (R305 to R307, R330, R331, R663) -/

/-- LOOM_STOP_REQ: Foreman A writes REQ with FULL (R330). -/
def execLoomStopReq (n : Nat) (full : Bool) (s : State) : Host.Outcome State Fault Refusal :=
  let st := s.rd LOOM_STOP.STATE n
  if n ≥ 12 then .next s
  else if st = 0 then
    let s := s.updLoom n (fun l => { l with full := full, since := s.now, stopAt := false, ended := none })
    .next (((s.wrs n [(LOOM_STOP.STATE, 1), (LOOM_STOP.RESULT, 0)]).count FE_SCH_CTR.STOPS).trace 3
      ((s.ownerOf FE_PART.LOOMS n).getD 0xFF) (0x100 + n) 0)
  else if st = 1 ∧ full then .next (s.updLoom n (fun l => { l with full := true }))
  else .next (s.cfgErr (.loom n) 0x2800)

/-- The clocks of a stop are timing, a free value; a stop past its bound counts (R330, R447). -/
def State.stopEnd (s : State) (n : Nat) : State :=
  let (clk, s) := s.free 24
  let s := (s.wr LOOM_STOP_CLOCKS.CLOCKS n clk).lateStop (s.loom n).since (s.rd FE_SCH_PLAT.LOOM_NS)
  s.trace 4 ((s.ownerOf FE_PART.LOOMS n).getD 0xFF) (0x100 + n) 0

/-- LOOM_STOP_POINT: the stop point is reached and saving begins, or there is nothing to stop (R330, R663). A debugger's
halt holds the stop until RESUME (R641). -/
def execLoomStopPoint (n : Nat) (s : State) : Host.Outcome State Fault Refusal :=
  let l := s.loom n
  if n ≥ 12 ∨ s.rd LOOM_STOP.STATE n ≠ 1 ∨ l.dbg = 2 then .next s
  else if l.drafts.any (fun d => d.st == 2) then .next s
  else if l.stopAt ∨ l.ended.isSome then .next ((s.wr LOOM_STOP.STATE n 2).loomSync n)
  else if l.streaming.isSome then .next s
  else .next ((((s.wrs n [(LOOM_STOP.STATE, 0), (LOOM_STOP.RESULT, 3)]).stopEnd n)).loomSync n)

/-- The Bolt rows of a yield save: the in-place rows of the stopped Draft and the LIVE rows (R306). -/
def LDraft.saveRows (d : LDraft) (whole : Bool) : List Nat :=
  (((if whole ∧ d.inPlace then (List.range (d.T * d.m)).flatMap (fun i =>
      (d.boltBase + i) :: (if d.comp then [d.boltBase + i + 512] else [])) else []) ++
    (List.range d.liveRows).map (· + d.liveBase)).eraseDups)

/-- The bytes of a Bolt row. -/
def boltBytes (bolt : NMap Nat) (row : Nat) : List Byte := (List.range 256).flatMap (fun c => leBytes 4 (boltGet bolt row c))

/-- LOOM_SAVE_DONE: the save area is written with its CRC and the Loom is SAVED (R306, R307, R330). The progress record, with the
CRC in it, is in an internal format: its bytes are free values, as are the rows of a (b, t) under way. -/
def execLoomSaveDone (n : Nat) (s : State) : Host.Outcome State Fault Refusal :=
  let l := s.loom n
  if n ≥ 12 ∨ s.rd LOOM_STOP.STATE n ≠ 2 then .next s
  else
    let (d, resume) := match l.streaming, l.ended with
      | some d, _ => (d, true)
      | none, some d => (d, false)
      | none, none => ({ id := 0, va := 0, ctx := 0, prio := 0, raw := [], src := none }, false)
    let yield := !resume || (d.yields && d.t == 0 && d.chunk == 0)
    let base := s.rd LOOM_SAVE.SAVE_PA n * 0x1000
    let (prog, s) := s.freeBytes 15 4096
    let under := (List.range (d.mb d.b)).map (d.boltRow d.b d.t)
    let (junk, s) := s.freeBytes 15 (1024 * under.length)
    let rowB (r : Nat) : List Byte :=
      if ¬ yield ∧ d.chunk ≠ 0 ∧ under.contains r then (junk.drop (1024 * under.idxOf r)).take 1024 else boltBytes l.bolt r
    let rows := d.saveRows resume
    let image := (base, prog) :: if yield then rows.map (fun r => (base + 0x1000 + 1024 * r, rowB r))
      else (List.range 1024).map (fun r => (base + 0x1000 + 1024 * r, rowB r)) ++ [(base + 0x101000, l.spool.read 0 0x400000)]
    let s := image.foldl (fun s p => (s.physWrite p.1 0 p.2).1) s
    let s := s.countN LOOM_CTR.SHUTTLE_OUT n (image.map (fun p => p.2.length)).sum
    let v : LSave := { draft := if resume then some d else none, full := !yield, rows := rows, bolt := l.bolt, spool := l.spool,
                       image := image, crc := crc32c (image.flatMap (·.2)), ctx := d.ctx }
    let s := s.updLoom n (fun l => { l with
      save := some v, stopAt := false, ended := none, drafts := if resume then l.drafts.filter (fun x => x.id != d.id) else l.drafts })
    .next ((((s.wrs n [(LOOM_STOP.STATE, 3), (LOOM_STOP.RESULT, if yield then 1 else 2)]).stopEnd n)).loomSync n)

/-- LOOM_STOP_RESTORE: a RESTORE write in STATE = SAVED starts the restore (R331). -/
def execLoomStopRestore (n : Nat) (s : State) : Host.Outcome State Fault Refusal :=
  if n ≥ 12 then .next s
  else if s.rd LOOM_STOP.STATE n = 3 then .next ((s.wr LOOM_STOP.STATE n 4).loomSync n)
  else .next (s.cfgErr (.loom n) 0x2800)

/-- LOOM_RESTORE_DONE: the save is read back, its progress record with it; with its CRC the Draft resumes, else the memories are
zeroed and the context faults with LOOM_RESTORE; the stopped Draft is discarded work (R331, R662). It waits while another Draft is
active. -/
def execLoomRestoreDone (n : Nat) (s : State) : Host.Outcome State Fault Refusal :=
  let l := s.loom n
  match l.save with
  | none => .next s
  | some v =>
    if n ≥ 12 ∨ s.rd LOOM_STOP.STATE n ≠ 4 ∨ ¬ l.active.isEmpty then .next s
    else
      let (s, bs) := v.image.foldl (fun (z : State × List Byte) p =>
        let (s, d, _) := z.1.physRead p.1 p.2.length 0
        (s, z.2 ++ d)) (s, [])
      let s := s.countN LOOM_CTR.SHUTTLE_IN n bs.length
      let s := (s.wr LOOM_STOP.STATE n 0).updLoom n (fun l => { l with save := none })
      if crc32c bs = v.crc then
        let bolt := if v.full then v.bolt
          else v.rows.foldl (fun m r => (List.range 256).foldl (fun m c => boltPut m r c (boltGet v.bolt r c)) m) l.bolt
        let s := s.updLoom n (fun l => { l with
          bolt := bolt, spool := if v.full then v.spool else l.spool, drafts := v.draft.toList ++ l.drafts })
        let s := match v.draft with
          | some d => if v.full then s.loomCur n d else (s.loadPair n d d.b).1.loomCur n d
          | none => s
        .next ((s.loomSync n).trace 5 ((s.ownerOf FE_PART.LOOMS n).getD 0xFF) (0x100 + n) 0)
      else
        let s := ((s.loomClear n).loomSync n).ctxFault v.ctx 0x43 0 (48 + n)
        match v.draft with
        | none => .next s
        | some d =>
          let s := if d.sigEn then s.tdPoison v.ctx d.sigTally else s
          let s := (d.inc.toList).foldl State.incDone s
          .next (if d.mism then s.loomTest n 0 else s)

/-! ### Teardown (R85 steps 2 and 5, R662) -/

/-- Drafts of context `c` go; the Tallies they would have signalled are answered. -/
def State.loomTeardown (s : State) (c : Nat) : State × List Nat :=
  let mine (l : Lm) : List LDraft := l.drafts.filter (fun d => d.ctx == c) ++ (match l.save with
    | some v => if v.ctx == c then v.draft.toList else []
    | none => [])
  let pz := (List.range 12).flatMap (fun n => ((mine (s.loom n)).filter (·.sigEn)).map (·.sigTally))
  let s := { s with routes := s.routes.filter (fun p => ((s.fe.strms.get? p.1).map (·.ctx)) != some c) }
  let s := (List.range 12).foldl (fun s n =>
    let l := s.loom n
    let saved := match l.save with
      | some v => v.ctx == c
      | none => false
    if (mine l).isEmpty && !saved then s
    else
      let incs := (mine l).filterMap (·.inc)
      let s := (mine l).foldl (fun s d => s.dropWaits (.loom n d.id)) s
      let str := match l.streaming with
        | some d => d.ctx == c
        | none => false
      let s := s.updLoom n (fun l => { l with
        drafts := l.drafts.filter (fun d => d.ctx != c), save := if saved then none else l.save,
        stopAt := l.stopAt && !str, dbg := if str then 0 else l.dbg,
        ended := match l.ended with
          | some d => if d.ctx = c then none else some d
          | none => none })
      let s := if saved then s.wr LOOM_STOP.STATE n 0 else s
      let s := if str then (s.wr DBG_LOOM.HALTED 0 (setBit (s.rd DBG_LOOM.HALTED) n false)).fl LOOM_CHK_STATUS.RETRYING n false else s
      let s := incs.foldl State.incDone s
      ((if (mine l).any (·.mism) then s.loomTest n 0 else s).loomSync n).loomWait n) s
  (s, pz)

/-- The Looms that context `c` owns are cleared and freed (R85 step 5, R95). -/
def State.loomFree (s : State) (c : Nat) : State :=
  (List.range 12).foldl (fun s n =>
    if s.on LOOM_STATUS.OWNED n && s.rd LOOM_STATUS.OWNER n == c then
      ((s.wrs n [(LOOM_STATUS.OWNED, 0), (LOOM_STATUS.OWNER, 0)]).loomClear n).loomSync n else s) s

/-! ### The debugger (R641) -/

/-- A request for a Loom outside LOOM_DBG_PARTS is refused and counted. -/
def State.loomDbg (s : State) (n : Nat) (f : State → State) : State :=
  match s.ownerOf FE_PART.LOOMS n with
  | some p => if n < 12 && bit (s.rd DBG_CFG.LOOM_DBG_PARTS) p then f s else s.count DBG_CTR.HALT_REFUSED
  | none => s.count DBG_CTR.HALT_REFUSED

/-- LOOM_HALT: the halt takes effect at the next chunk boundary, at once where nothing streams. -/
def State.loomHalt (s : State) (n : Nat) : State :=
   ((s.wr DBG_LOOM.LOOM 0 n).loomDbg n (fun s =>
    let l := s.loom n
    if l.dbg = 2 then s
    else if l.streaming.isSome then s.updLoom n (fun l => { l with dbg := 1 })
    else (((s.updLoom n (fun l => { l with dbg := 2 })).wr DBG_LOOM.HALTED 0 (setBit (s.rd DBG_LOOM.HALTED) n true)).raise 0x582).loomSync n))

/-- LOOM_HALT of the host. -/
def execLoomHalt (n : Nat) (s : State) : Host.Outcome State Fault Refusal :=
  s.hostDo .dbg (fun s => .next (s.loomHalt n))

/-- LOOM_RESUME ends a halt. -/
def State.loomResume (s : State) (n : Nat) : State :=
  let s := s.wr DBG_LOOM.LOOM 0 n
  if n ≥ 12 then s
  else (((s.updLoom n (fun l => { l with dbg := 0 })).wr DBG_LOOM.HALTED 0 (setBit (s.rd DBG_LOOM.HALTED) n false)).loomSync n)

/-- LOOM_RESUME of the host. -/
def execLoomResume (n : Nat) (s : State) : Host.Outcome State Fault Refusal :=
  s.hostDo .dbg (fun s => .next (s.loomResume n))

/-- LOOM_STEP streams one more chunk of a halted Loom. -/
def State.loomStep (s : State) (n : Nat) : State :=
  let s := s.wr DBG_LOOM.LOOM 0 n
  if n < 12 ∧ (s.loom n).dbg = 2 ∧ (s.loom n).streaming.isSome then
    ((s.count DBG_CTR.STEPS).updLoom n (fun l => { l with dbg := 3 }))
  else s

/-- LOOM_STEP of the host. -/
def execLoomStep (n : Nat) (s : State) : Host.Outcome State Fault Refusal :=
  s.hostDo .dbg (fun s => .next (s.loomStep n))

end Sys2Proof.Machine
end

