-- ==== Sys2Proof/Machine/MmuCmds.lean ====
section
/-! DEFINITION. The commands of the MMU (chapter 06): walks, entry writes, and invalidations up to an engine's
acknowledgement. -/

namespace Sys2Proof.Machine

/-- PAGE_WALK: the MMU walks for an access of context `c` through cache `eng` and fills, or faults (R157 to R163,
R167, R177). -/
def execPageWalk (c va acc eng : Nat) (s : State) : Host.Outcome State Fault Refusal :=
  if s.ctxActive c ∧ acc < 4 ∧ isRequester eng then .next (s.translate c va acc eng).1 else .next s

/-- PTE_WR_GO: one entry write with the committed fields (R168). -/
def execPteWrGo (s : State) : Host.Outcome State Fault Refusal :=
  s.hostDo .mmu (fun s =>
    if s.on MMU_PTE_WR.BUSY then .next (s.cfgErr .mmu 0x210)
    else .next { s.fl MMU_PTE_WR.BUSY 0 true with
      mmu := { s.mmu with pte := some (s.rd MMU_PTE_WR.PA * 8, s.rd MMU_PTE_WR.VALUE) } })

/-- PTE_WR_DONE: the write has reached its L2 slice (R168). -/
def execPteWrDone (s : State) : Host.Outcome State Fault Refusal :=
  match s.mmu.pte with
  | none => .next s
  | some (off, v) =>
    let r := s.physWrite (s.dev * 2 ^ 48 + off) 0 (leBytes 8 v) true
    let s := if r.2 = 0x90 then r.1.uncorrShared else r.1
    .next { s.fl MMU_PTE_WR.BUSY 0 false with mmu := { s.mmu with pte := none } }

/-- INV_REQ_GO: a request joins the FIFO with the next ticket, or finds it full (R172). -/
def execInvReqGo (s : State) : Host.Outcome State Fault Refusal :=
  s.hostDo .mmu (fun s =>
    if s.mmu.fifo.length ≥ 16 then .next (s.cfgErr .mmu 0x128)
    else
      let i : Inv := {
        ticket := s.mmu.nextTicket, scope := s.rd MMU_INV_REQ.SCOPE, part := s.rd MMU_INV_REQ.PART,
        ctx := s.rd MMU_INV_REQ.CTX, va := s.rd MMU_INV_REQ.VA_BASE * 0x1000, pages := s.rd MMU_INV_REQ.PAGES,
        tallyEn := s.on MMU_INV_REQ.TALLY_EN, tally := s.rd MMU_INV_REQ.TALLY, value := s.rd MMU_INV_REQ.VALUE }
      let s := s.wr MMU_INV_REQ.TICKET 0 i.ticket
      .next (State.invSync { s with mmu := { s.mmu with fifo := s.mmu.fifo ++ [i], nextTicket := i.ticket + 1 } }))

/-- The running invalidation has every acknowledgement: its entry leaves the FIFO, MMU_INV_DONE and the Tally follow
(R173 step 4, R174). -/
def State.invDone (s : State) : State :=
  match s.mmu.running with
  | none => s
  | some i =>
    if s.rd MMU_INV_ACKED.MASK ≠ s.rd MMU_INV_ACKMASK.MASK then s
    else if i.ticket = 0 then State.invSync { s with mmu := { s.mmu with running := none } }
    else
      let s := State.invSync { s with mmu := { s.mmu with running := none, fifo := s.mmu.fifo.drop 1 } }
      let s := s.wr MMU_INV_DONE.TICKET 0 i.ticket
      if i.tallyEn then s.signal i.tally i.value else s

/-- INV_START: the next invalidation, one of the device's own first, sets ACKMASK, clears ACKED and drops the MMU's own
entries (R172, R173 steps 1 and 2). -/
def execInvStart (s : State) : Host.Outcome State Fault Refusal :=
  match s.mmu.running with
  | some _ => .next s
  | none =>
    let (i, dev) := match s.mmu.dev with
      | i :: r => (some i, r)
      | [] => (s.mmu.fifo.head?, [])
    match i with
    | none => .next s
    | some i =>
      let m := s.invMask i
      let s := (s.wr MMU_INV_ACKMASK.MASK 0 m).wr MMU_INV_ACKED.MASK 0 (s.invAuto m)
      let s := { s with mmu := { s.mmu with running := some i, dev := dev, since := s.now } }
      .next (s.invDrop i (· == 64)).invSync.invDone

/-- INV_ACK: engine `e` has no transfer in scope, drops its entries and acknowledges (R173 step 3). -/
def execInvAck (e : Nat) (s : State) : Host.Outcome State Fault Refusal :=
  match s.mmu.running with
  | none => .next s
  | some i =>
    if bit (s.rd MMU_INV_ACKMASK.MASK) e ∧ ¬ bit (s.rd MMU_INV_ACKED.MASK) e then
      let s := s.invDrop i (· == e)
      .next (s.wr MMU_INV_ACKED.MASK 0 (setBit (s.rd MMU_INV_ACKED.MASK) e true)).invDone
    else .next s

end Sys2Proof.Machine
end

