-- ==== Sys2Proof/Machine/Patterns.lean ====
section
/-! DEFINITION. Patterns (chapter 05): launches, snapshots, nodes, and revisions. -/

namespace Sys2Proof.Machine

/-- INUSE and REV of a slot follow its revisions in use (R154). -/
def State.patSync (s : State) (n : Nat) : State :=
  s.wr FE_PAT.INUSE n (((s.pats.slots.get? n).getD {}).revs.length)

/-- Launches bound to a revision of a slot. -/
def State.revLaunches (s : State) (n r : Nat) : Bool := s.pats.launches.any (fun p => p.2.pat == n && p.2.rev == r)

/-- Revisions that are not current and have no launch retire, and RET_TALLY is signalled with the highest r such that
every revision up to r has retired (R153). -/
def State.patRetire (s : State) (n : Nat) : State :=
  let p := (s.pats.slots.get? n).getD {}
  let cur := s.rd FE_PAT.REV n
  let keep := p.revs.filter (fun r => (r.1 == cur && s.on FE_PAT.EN n) || s.revLaunches n r.1)
  if keep.length = p.revs.length then s
  else
    let low := p.revs.foldl (fun m r => min m r.1) cur
    let r := match keep with
      | [] => cur
      | x :: _ => keep.foldl (fun m r => min m r.1) x.1 - 1
    let s := State.patSync { s with pats := { s.pats with slots := s.pats.slots.put n { p with revs := keep } } } n
    if r ≥ low then s.signal (s.rd FE_PAT.RET_TALLY n) r else s

/-- A word of the slot's status record is written (R150). -/
def State.patStatus (s : State) (n c o v : Nat) : State :=
  (s.vwrite c 60 (s.rd FE_PAT.STATUS_VA n * 64 + o) (leBytes 8 v)).1

/-- Enabling a slot makes its committed descriptor revision RET_TALLY + 1 (R153). -/
def State.patEnable (s : State) (n : Nat) : State :=
  let r := s.tval (s.rd FE_PAT.RET_TALLY n) + 1
  let s := s.wr FE_PAT.REV n r
  let s := State.patSync { s with pats := { s.pats with slots := s.pats.slots.put n { revs := [(r, s.rd FE_PAT.DESC_VA n * 64)] } } } n
  if s.ctxActive (s.rd FE_PAT.CTX n) then s.patStatus n (s.rd FE_PAT.CTX n) 0x10 r else s

/-- PAT_EDIT_GO: the committed descriptor becomes the current revision of the committed slot, or the edit is refused
(R153, R154). -/
def execPatEditGo (s : State) : Host.Outcome State Fault Refusal :=
  s.hostDo .fe (fun s =>
    let n := s.rd FE_PAT_EDIT.PATTERN
    if !s.on FE_PAT.EN n then .next (s.wr FE_PAT_EDIT.RESULT 0 3)
    else if s.rd FE_PAT.INUSE n = 4 then .next (((s.wr FE_PAT_EDIT.RESULT 0 2).count FE_PAT.BUSY_REFUSED n).raise 0x46)
    else
      let p := (s.pats.slots.get? n).getD {}
      let r := s.rd FE_PAT.REV n + 1
      let s := (s.wr FE_PAT_EDIT.RESULT 0 1).wr FE_PAT.REV n r
      let s := { s with pats := { s.pats with slots := s.pats.slots.put n { p with revs := p.revs ++ [(r, s.rd FE_PAT_EDIT.DESC_VA * 64)] } } }
      let s := (s.patSync n).patRetire n
      .next (if s.ctxActive (s.rd FE_PAT.CTX n) then s.patStatus n (s.rd FE_PAT.CTX n) 0x10 r else s))

/-- Bytes of a snapshot slot (R151). -/
def snapSize (words : Nat) : Nat := (64 + 4 * words + 255) / 256 * 256

/-- The node record at a byte offset of a descriptor and its substitution list satisfy R148; the node, if so. -/
def nodeOf (i params : Nat) (r sub : List Byte) : Option PNode :=
  let cls := field r 0 1
  let np := field r 1 1
  let ns := field r 2 2
  let preds := (List.range np).map (fun k => field r (0x18 + 2 * k) 2)
  let subst := (List.range ns).map (fun k => field sub (8 * k) 8)
  let words := field r 4 4
  if cls ≤ 3 && np ≤ 8 && ns ≤ 1024 && 1 ≤ words && words ≤ 16777215 && field r 8 8 % 4 == 0 && field r 0x10 8 % 8 == 0 &&
     preds.all (· < i) && field r 0x28 24 == 0 &&
     subst.all (fun e => bits e 26 6 == 0 && bits e 44 20 == 0 && bits e 0 24 < words && (bits e 24 2 != 0 || bits e 32 12 < params))
  then some { cls := cls, preds := preds, words := words, va := field r 8 8,
              subst := subst.map (fun e => (bits e 0 24, bits e 24 2, bits e 32 12)) }
  else none

/-- Read the node records and substitution lists of a descriptor: the nodes, or none where a check fails; the flag says
that no access faulted. -/
def State.readNodes (c va params : Nat) : (n : Nat) → (i : Nat) → State → State × Bool × Option (List PNode)
  | 0, _, s => (s, true, some [])
  | n + 1, i, s =>
    match s.vread c 60 (va + 0x40 + 64 * i) 64 with
    | (s, none) => (s, false, none)
    | (s, some r) =>
      match s.vread c 60 (field r 0x10 8) (8 * min (field r 2 2) 1024) with
      | (s, none) => (s, false, none)
      | (s, some sub) =>
        match nodeOf i params r sub with
        | none => (s, true, none)
        | some nd =>
          match State.readNodes c va params n (i + 1) s with
          | (s, ok, some l) => (s, ok, some (nd :: l))
          | x => x

/-- Change a launch. -/
def State.updLaunch (s : State) (l : Nat) (f : Launch → Launch) : State :=
  { s with pats := { s.pats with launches := s.pats.launches.upd l f } }

/-- The lowest free snapshot slot of a revision. -/
def State.freeSnap (s : State) (n r slots : Nat) : Option Nat :=
  (List.range slots).find? (fun j => !s.pats.launches.any (fun p => p.2.pat == n && p.2.rev == r && p.2.slot == some j))

/-- Every page of a snapshot area of `n` bytes lies in this device's HBM (R148); none after a fault. -/
def State.snapHere (s : State) (c va n : Nat) : State × Option Bool :=
  (pieces 0x1000 (n / 0x1000 + 2) va n).foldl (fun (r : State × Option Bool) p => match r with
    | (s, some true) => match s.translate c p.1 1 60 with
      | (s, none) => (s, none)
      | (s, some (pa, _)) => (s, some (bits pa 48 2 == s.dev && !inAperture pa))
    | x => x) (s, some true)

/-- LAUNCH_PATTERN: the launch binds the current revision and counts, reads and checks its descriptor, and takes a snapshot slot or
holds its queue until one is free (R150 steps 1 to 3). -/
def execLaunchPattern (sid : Nat) (s : State) : Host.Outcome State Fault Refusal :=
  match s.canRun sid 5 with
  | none => .next s
  | some (st, p) =>
    let s := s.dispatch sid st p
    let w1 := pw1 p.w 1
    let n := bits w1 0 10
    let c := st.ctx
    let seq := st.seqOf p.pid
    let patches := (List.range (bits w1 12 2)).map (fun k => (pw1 p.w (2 + 2 * k), pw1 p.w (3 + 2 * k)))
    let tag := if bit w1 14 then pw1 p.w (2 + 2 * bits w1 12 2) else 0
    if !s.on FE_PAT.EN n || s.rd FE_PAT.CTX n != c then .next (s.pktFault sid 8 p.pid)
    else
      let s := s.count FE_PAT.LAUNCHES n
      let num := s.rd FE_PAT.LAUNCHES n
      let r := s.rd FE_PAT.REV n
      let d := ((((s.pats.slots.get? n).getD {}).revs.find? (fun x => x.1 == r)).map (·.2)).getD 0
      match s.vread c 60 d 64 with
      | (s, none) => .next s
      | (s, some h) =>
        let nodes := field h 0 4
        let params := field h 4 4
        let snap := field h 0x10 8
        let slots := field h 0x18 4
        if !(1 ≤ nodes && nodes ≤ 256 && params ≤ 4096 && field h 8 8 % 4 == 0 && snap % 256 == 0 && 1 ≤ slots && slots ≤ 64 &&
             field h 0x1C 36 == 0 && patches.all (fun x => x.1 < params)) then .next (s.pktFault sid 8 p.pid)
        else match State.readNodes c d params nodes 0 s with
          | (s, false, _) => .next s
          | (s, true, none) => .next (s.pktFault sid 8 p.pid)
          | (s, true, some nl) =>
            match s.snapHere c snap (slots * snapSize params) with
            | (s, none) => .next s
            | (s, some false) => .next (s.pktFault sid 8 p.pid)
            | (s, some true) =>
                let slot := s.freeSnap n r slots
                let la : Launch := {
                  pat := n, rev := r, sid := sid, pid := p.pid, seq := seq, ctx := c, desc := d,
                  num := num, patches := patches, tag := tag, nodes := nl, paramWords := params,
                  paramVa := field h 8 8, snapVa := snap, slots := slots, slot := slot }
                let id := s.pats.next
                let s := { s with pats := { s.pats with launches := s.pats.launches.put id la, next := id + 1 } }
                .next (if slot.isNone then (s.updStrm sid (fun st => { st with waitPid := some p.pid })).feSync st.cls else s)

/-- SNAPSHOT_WRITTEN: the parameter table is copied and patched into the slot, with its header, and SNAPPED is written
(R150 step 4, R151). -/
def execSnapshotWritten (l : Nat) (s : State) : Host.Outcome State Fault Refusal :=
  match s.pats.launches.get? l with
  | none => .next s
  | some la => match la.slot with
    | none => .next s
    | some j =>
      if la.snapped || la.failed.isSome then .next s
      else
        let va := la.snapVa + j * snapSize la.paramWords
        match s.vread la.ctx 60 la.paramVa (4 * la.paramWords) with
        | (s, none) => .next s
        | (s, some b) =>
          let ws := la.patches.foldl (fun ws x => ws.set x.1 x.2) (wordsOf b la.paramWords)
          let bs := leBytes 8 la.num ++ leBytes 4 la.tag ++ leBytes 52 0 ++ ws.flatMap (leBytes 4)
          match s.vwrite la.ctx 60 va bs with
          | (s, false) => .next s
          | (s, true) =>
            let s := s.updLaunch l (fun x => { x with snapped := true })
            let k := ((s.pats.slots.get? la.pat).getD {}).snapped + 1
            let s := { s with pats := { s.pats with slots := s.pats.slots.upd la.pat (fun x => { x with snapped := k }) } }
            .next (s.patStatus la.pat la.ctx 0 k)

/-- The stream of node `i` of launch `l`. -/
def nodeSid (l i : Nat) : Nat := 2048 + 256 * l + i

/-- A dispatched node has completed its packets. -/
def State.nodeDone (s : State) (l i : Nat) : Bool :=
  match s.fe.strms.get? (nodeSid l i) with
  | some st => st.pkts.all (fun p => p.st == 2)
  | none => false

/-- PATTERN_NODE_READY: a node whose predecessors have all completed is dispatched to the fetcher of its class, its
substituted words replaced (R150 step 5, R152). -/
def execPatternNodeReady (l i : Nat) (s : State) : Host.Outcome State Fault Refusal :=
  match s.pats.launches.get? l with
  | none => .next s
  | some la => match la.nodes[i]?, la.slot with
    | some nd, some j =>
      if ¬ (la.snapped ∧ la.failed.isNone ∧ nd.st = 0 ∧ nd.preds.all (fun k => s.nodeDone l k)) then .next s
      else
        match s.fe.strms.get? la.sid with
        | none => .next s
        | some q =>
          let va := la.snapVa + j * snapSize la.paramWords
          match s.vread la.ctx 60 nd.va (4 * nd.words) with
          | (s, none) => .next s
          | (s, some b) =>
            match s.vread la.ctx 60 (va + 0x40) (4 * la.paramWords) with
            | (s, none) => .next s
            | (s, some pb) =>
              let ws := nd.subst.foldl (fun ws (e : Nat × Nat × Nat) =>
                let v := if e.2.1 = 0 then field pb (4 * e.2.2) 4
                  else if e.2.1 = 1 then va % 2 ^ 32 else if e.2.1 = 2 then va / 2 ^ 32 else la.tag
                ws.set e.1 v) (wordsOf b nd.words)
              let (ps, code) := s.parsePkts nd.cls true (nd.words + 1) ws 0
              let st : Strm := { q := q.q, cls := nd.cls, ctx := la.ctx, node := some (l, i) }
              let s := { s with fe := { s.fe with strms := s.fe.strms.put (nodeSid l i) st } }
              let s := s.updLaunch l (fun x => { x with nodes := x.nodes.set i { nd with st := 1 } })
              .next ((s.addEntry (nodeSid l i) la.seq false false ps code).feSync nd.cls)
    | _, _ => .next s

/-- The streams of a launch go. -/
def State.dropNodes (s : State) (l : Nat) : State :=
  { s with fe := { s.fe with strms := s.fe.strms.filter (fun p => (p.2.node.map (·.1)) != some l) } }

/-- A snapshot slot of a revision is free: the oldest launch of it that waits takes it, and its queue goes on. -/
def State.snapFreed (s : State) (n r j : Nat) : State :=
  match s.pats.launches.find? (fun p => p.2.pat == n && p.2.rev == r && p.2.slot.isNone && p.2.failed.isNone) with
  | none => s
  | some (l, la) =>
    let s := s.updLaunch l (fun x => { x with slot := some j })
    match s.fe.strms.get? la.sid with
    | none => s
    | some q => (s.updStrm la.sid (fun st => { st with waitPid := none })).feSync q.cls

/-- PATTERN_LAUNCH_COMPLETE: every node has completed; the slot is freed, the packet completes, RETIRED is written, and
revisions retire (R150 step 6). After a packet fault the dispatched nodes have run and the slot is freed (R152). -/
def execPatternLaunchComplete (l : Nat) (s : State) : Host.Outcome State Fault Refusal :=
  match s.pats.launches.get? l with
  | none => .next s
  | some la =>
    let out := (List.range la.nodes.length).all (fun i =>
      match la.nodes[i]? with
      | some nd => if nd.st = 0 then la.failed.isSome else s.nodeDone l i
      | none => true)
    if ¬ (la.slot.isSome ∧ out ∧ (la.snapped ∨ la.failed.isSome)) then .next s
    else
      let s := s.dropNodes l
      let s := { s with pats := { s.pats with launches := s.pats.launches.del l } }
      let s := match la.slot with
        | some j => s.snapFreed la.pat la.rev j
        | none => s
      let s := [0, 1, 2, 3].foldl State.feSync s
      match la.failed with
      | some _ =>
        let s := s.updStrm la.sid (fun st => { st with
          ents := st.ents.map (fun e => if e.pkts.any (fun p => p.pid == la.pid) then { e with bad := true } else e) })
        .next ((s.donePkt la.sid la.pid).patRetire la.pat)
      | none =>
        let s := s.donePkt la.sid la.pid
        let k := ((s.pats.slots.get? la.pat).getD {}).done + 1
        let s := { s with pats := { s.pats with slots := s.pats.slots.upd la.pat (fun x => { x with done := k }) } }
        .next ((s.patStatus la.pat la.ctx 8 k).patRetire la.pat)

/-- A teardown discards the launches of a context; the revisions they held retire normally (R154). -/
def State.patTeardown (s : State) (c : Nat) : State :=
  let mine := s.pats.launches.filter (fun p => p.2.ctx == c)
  let s := mine.foldl (fun s p => { (s.dropNodes p.1) with pats := { s.pats with launches := s.pats.launches.del p.1 } }) s
  mine.foldl (fun s p => s.patRetire p.2.pat) s

end Sys2Proof.Machine
end

