-- ==== Sys2Proof/Machine/Ticks.lean ====
section
/-! DEFINITION. Ticks, budgets and Realtime jobs (chapter 16), and what the passing of time charges. -/

namespace Sys2Proof.Machine

/-- Queues with an enabled Realtime entry. -/
def State.rtQueues (s : State) : List Nat :=
  (s.fe.strms.filter (fun p => p.1 < 2048 && s.on FE_RT.EN p.1 && s.rd FE_Q.PRIO p.1 == 3)).map (·.1)

/-- Every start-by time of the tick is computed anew, after a change of level or of an entry (R33, R448); a tick that has
not started has none. -/
def State.rtRecompute (s : State) : State :=
  let s := s.platSync
  s.rtQueues.foldl (fun s q =>
    let sb := s.startBy q (s.rd FE_TICK_TIME.TIME)
    match s.rt.get? q with
    | none => s
    | some r => match r.waits with
      | some (_, d) => { s.wr FE_RT.START_BY q sb with rt := s.rt.put q { r with later := r.opened ++ [(sb, d, none)] } }
      | none => if r.phase = 0 then { s.wr FE_RT.START_BY q sb with rt := s.rt.put q { r with startBy := sb } } else s) s

/-! ### The tick start (R435) -/

/-- PMU counters are copied at a tick start when SNAP_TICK asks for it (R645). -/
def State.pmuSnap (s : State) : State :=
  let s := (List.range 16).foldl (fun s k => s.wr PMU_CNT.SNAP k (s.rd PMU_CNT.VALUE k)) s
  s.count PMU_FIXED.SNAPS

/-- Fields released by a commit apply: each shadow keeps what software sees in it. -/
def State.applyRel (s : State) (rel : RMap) : State :=
  rel.foldl (fun s p => match fldOf p.1.1 with
    | some F =>
      let sh := s.rdSh F p.1.2
      (s.wr F p.1.2 p.2).wrSh F p.1.2 sh
    | none => s) s

/-- Shadows of released fields take the released values. -/
def State.shRel (s : State) (rel : RMap) : State :=
  rel.foldl (fun s p => match fldOf p.1.1 with
    | some F => s.wrSh F p.1.2 p.2
    | none => s) s

/-- The tick source in effect: TAKEOVER_SRC in place of SRC = 4 after a takeover (R433, R498). -/
def State.tickSrc (s : State) : Nat :=
  if s.mesh.takeover && s.rd FE_TICK_CFG.SRC == 4 then s.rd PXL_CFG.TAKEOVER_SRC else s.rd FE_TICK_CFG.SRC

/-- The pipe of source 3. -/
def State.tickPipe (s : State) : Nat :=
  if s.mesh.takeover && s.rd FE_TICK_CFG.SRC == 4 then s.rd PXL_CFG.TAKEOVER_PIPE else s.rd FE_TICK_CFG.PIPE

/-- The tick starts; `num` is the number it takes, none for the next one. -/
def State.tickStart (s : State) (num : Option Nat) (self : Bool) : State :=
  let n := num.getD (s.rd FE_TICK_COUNT.COUNT + 1)
  let s := (s.wr FE_TICK_COUNT.COUNT 0 n).wr FE_TICK_TIME.TIME 0 s.now
  let s := (List.range 8).foldl (fun s p => s.wrs p [(FE_BUDGET.CL_USED, 0), (FE_BUDGET.LM_USED, 0), (FE_BUDGET.PR_USED, 0),
    (FE_BUDGET.EXHAUSTED, 0)]) s
  let s := s.applyRel s.tick.rel
  let s := { s with tick := { s.tick with rel := [], base := s.now, first := false, self := self, told := false } }
  let s := (s.wr FE_TICK_STATUS.SRC_ACT 0 s.tickSrc).fl FE_TICK_STATUS.SELF 0 self
  let s := s.rtQueues.foldl State.rtNew s
  let s := [0, 1, 2, 3, 4].foldl State.feSync s
  let s := if s.on PMU_CTL.SNAP_TICK then s.pmuSnap else s
  let s := if s.on GLB_DEVNUM.MANAGER then
      [0, 1].foldl (fun s p => if [2, 3].contains (s.rd PXL_PORT.STATE p) then s.emit (.pxl p 4 [n]) else s) s
    else s
  s.trace 1 0xFF 0 n

/-- FREE_RUN takes a value and TICK_LOST follows it (R434, R600). -/
def State.freeRun (s : State) (n : Nat) : State :=
  let was := s.levelCond 0x48
  let s := (s.wr FE_TICK_STATUS.FREE_RUN 0 (min n 255)).syncLevel 0x48
  let is := s.levelCond 0x48
  if is != was then s.routeLevel 2 is else s

/-- An event of source `src` reaches the tick: a tick start, or one too early (R433, R434). A broadcast number that is not above
the counter counts in SKEW, and the counter rises by 1 (R436). -/
def State.extTick (s : State) (src : Nat) (num : Option Nat) : State :=
  if ¬ s.tick.run ∨ s.tickSrc ≠ src then s
  else
    let per := s.rd FE_TICK_CFG.PERIOD_US * 1000
    let tol := s.rd FE_TICK_CFG.TOL_US * 1000
    if ¬ s.tick.first ∧ s.now + tol < s.tick.base + per then s.count FE_TICK_CTR.EARLY
    else match num with
      | none => (s.freeRun 0).tickStart none false
      | some n =>
        if n > s.rd FE_TICK_COUNT.COUNT then (s.freeRun 0).tickStart (some n) false
        else ((s.freeRun 0).count FE_TICK_CTR.SKEW).tickStart none false

/-- TICK_START: the internal timer expires (R433); after a wake or at step 10 the first tick starts at once (R563, R582). -/
def execTickStart (s : State) : Host.Outcome State Fault Refusal :=
  if s.tick.run ∧ s.tickSrc = 0 ∧ (s.tick.first ∨ s.tick.base + s.rd FE_TICK_CFG.PERIOD_US * 1000 ≤ s.now) then
    .next ((s.freeRun 0).tickStart none false)
  else .next s

/-- SYNC_IN_EDGE: a rising edge; edges closer than 8 fabric clocks count as one (R433). -/
def execSyncInEdge (s : State) : Host.Outcome State Fault Refusal :=
  let one : Bool := match s.tick.edge with
    | some t => decide ((s.now - t) * fabricMHz (s.rd PWR_LEVEL.CORE) < 8 * 1000)
    | none => false
  let s := { s with tick := { s.tick with edge := some s.now } }
  .next (if one then s else s.extTick 1 none)

/-- TICK_SELF_START: no event of the external source has come in time (R434). -/
def execTickSelfStart (s : State) : Host.Outcome State Fault Refusal :=
  let wait := s.rd FE_TICK_CFG.PERIOD_US * 1000 + (if s.tick.self then 0 else s.rd FE_TICK_CFG.TOL_US * 1000)
  if s.tick.run ∧ s.tickSrc ≠ 0 ∧ s.tick.base + wait ≤ s.now then
    let s := (s.count FE_TICK_CTR.MISSED).raise 0x47
    .next ((s.freeRun (s.rd FE_TICK_STATUS.FREE_RUN + 1)).tickStart none true)
  else .next s

/-- SYNC_OUT_PULSE: SYNC_OUT rises OFFSET_US after a tick start, and falls after WIDTH_US (R437). -/
def execSyncOutPulse (s : State) : Host.Outcome State Fault Refusal :=
  if s.tick.high then
    if s.tick.since + s.rd FE_TICK_OUT.WIDTH_US * 1000 ≤ s.now then
      .next { s.emit (.pin 2 0) with tick := { s.tick with high := false } }
    else .next s
  else if s.on FE_TICK_OUT.EN ∧ s.rd FE_TICK_COUNT.COUNT ≠ s.tick.pulsed ∧
      s.rd FE_TICK_TIME.TIME + s.rd FE_TICK_OUT.OFFSET_US * 1000 ≤ s.now then
    .next { s.emit (.pin 2 1) with tick := { s.tick with high := true, since := s.now, pulsed := s.rd FE_TICK_COUNT.COUNT } }
  else .next s

/-! ### Budgets (R439 to R442) -/

/-- The USED and LIMIT fields of a budget (cluster, Loom, Press) and its counter. -/
def usedFld (k : Nat) : Fld := if k = 0 then FE_BUDGET.CL_USED else if k = 1 then FE_BUDGET.LM_USED else FE_BUDGET.PR_USED
def limitFld (k : Nat) : Fld := if k = 0 then FE_BUDGET.CL_LIMIT else if k = 1 then FE_BUDGET.LM_LIMIT else FE_BUDGET.PR_LIMIT
def exhFld (k : Nat) : Fld := if k = 0 then FE_BUDGET.EXH_CL else if k = 1 then FE_BUDGET.EXH_LM else FE_BUDGET.EXH_PR

/-- A budget of partition `p` has been used up (R439). -/
def State.usedUp (s : State) (p k : Nat) : Bool :=
  s.rd (limitFld k) p != 0xFFFFFFFF && s.rd (usedFld k) p ≥ 1000 * s.rd (limitFld k) p

/-- BUDGET_EXHAUSTED: EXHAUSTED sets once a tick, and non-Realtime work of the partition is withheld from now on
(R440). -/
def execBudgetExhausted (p k : Nat) (s : State) : Host.Outcome State Fault Refusal :=
  if s.partOn p ∧ k < 3 ∧ s.usedUp p k ∧ ¬ bit (s.rd FE_BUDGET.EXHAUSTED p) k then
    let s := (s.wr FE_BUDGET.EXHAUSTED p (setBit (s.rd FE_BUDGET.EXHAUSTED p) k true)).count (exhFld k) p
    let s := [0, 1, 2, 3, 4].foldl State.feSync (s.raise 0x49)
    .next ((s.trace 6 p k 0).trace 11 p 0 0)
  else .next s

/-- `ns` are charged to a budget of partition `p`; what an exhausted budget takes while its unit holds Realtime work adds
to RT_OVER_NS (R439, R442). -/
def State.charge (s : State) (p k ns : Nat) (rt : Bool) : State :=
  let s := s.wr (usedFld k) p (s.rd (usedFld k) p + ns)
  if rt && bit (s.rd FE_BUDGET.EXHAUSTED p) k then s.countN FE_BUDGET.RT_OVER_NS p ns else s

/-- Cluster `c` works (R439): a resident group, a tile, a patch, rays, or a test. -/
def State.clusterWorks (s : State) (c : Nat) : Bool :=
  s.sh.grps.any (fun p => p.1 / 192 == c) || s.sh.tileBytes.any (fun t => t.1 / 4 == c) || s.tested 0 c ||
  s.crd.batches.any (fun b => b.2.rtu == some c) ||
  s.gfx.passes.any (fun p => match p.2.cur with
    | some d => d.patches.any (fun x => x.2.core / 4 == c)
    | none => false)

/-- Cluster `c` holds Realtime work. -/
def State.clusterRt (s : State) (c : Nat) : Bool :=
  s.sh.grps.any (fun p => p.1 / 192 == c && match s.sh.wgs.get? p.2.wg with
    | some w => match s.sh.disps.get? w.disp with
      | some d => d.prio == 3
      | none => false
    | none => false) ||
  s.gfx.passes.any (fun p => p.2.prio == 3 && p.2.run.any (fun t => t.core / 4 == c)) ||
  s.crd.batches.any (fun b => b.2.rtu == some c && b.2.rays.any (fun r => r.prio == 3))

/-- The context of the work on Press engine `e`, and its stream. -/
def State.pressWork (s : State) (e : Nat) : Option (Nat × Nat) :=
  match s.fe.copies.get? e with
  | some (sid, _, c) => some (c, sid)
  | none => (s.prs.jobs.get? e).map (fun j => (j.ctx, j.sid))

/-- What the device does by itself at a time sample: the operating-time clock, and the charges for clusters, Looms and
Press engines (R439). -/
def State.idleWork (s : State) : State :=
  let s := if s.now % 1000000000 < 10 then s.wr LDG_TIME.OPSEC 0 (min (s.rd LDG_TIME.OPSEC + 1) 0xFFFFFFFF) else s
  if !s.tick.run then s
  else
    let cs := (List.range 48).filter s.clusterWorks
    let m := cs.foldl (fun m c => m ||| 2 ^ c) s.tick.busy
    let r := (cs.filter s.clusterRt).foldl (fun m c => m ||| 2 ^ c) s.tick.rt
    let s := { s with tick := { s.tick with busy := m, rt := r } }
    let s := if s.now % 1000 < 10 then
        let s := (bitList m 48).foldl (fun s c => match s.ownerOf FE_PART.CLUSTERS c with
          | some p => s.charge p 0 1000 (bit r c)
          | none => s) s
        { s with tick := { s.tick with busy := 0, rt := 0 } }
      else s
    let s := (List.range 12).foldl (fun s n =>
      if s.on LOOM_STATUS.BUSY n || s.on LOOM_STATUS.WAITING n || s.tested 1 n then
        match s.ownerOf FE_PART.LOOMS n with
        | some p => s.charge p 1 10 (((s.looms.get? n).map (fun l => l.drafts.any (fun d => d.prio == 3 && d.st != 0))).getD false)
        | none => s
      else s) s
    [0, 1, 2, 3].foldl (fun s e => match s.pressWork e with
      | some (c, sid) => s.charge (s.partOf c) 2 10 (((s.fe.strms.get? sid).map (fun st => s.strmPrio st == 3)).getD false)
      | none => s) s

/-- A counter that counts clocks, or what traffic brings, and its PMU event: a free count each time (kind 57). -/
def State.clocks (s : State) (F : Fld) (i ev u p : Nat) : State :=
  let (k, s) := s.free 57
  (s.countN F i k).pmu ev u p k

/-- A PMU event that counts clocks or traffic and has no other counter. -/
def State.pmuClocks (s : State) (ev u p : Nat) : State :=
  if s.on PMU_CTL.EN then
    let (k, s) := s.free 57
    s.pmu ev u p k
  else s

/-- An L2 slice may stop accepting atomics; the first such clock after a clear raises L2_ATOMIC_BUSY (R480). -/
def State.atomStall (s : State) (sl : Nat) : State :=
  let (k, s) := s.free 57
  if k = 0 then s
  else
    let s := (s.countN L2_SLICE_CTR.ATOM_STALL sl k).pmu 0x32 sl 8 k
    if s.mem.atomBusy.contains sl then s else { s with mem := { s.mem with atomBusy := sl :: s.mem.atomBusy } }.raise 0xD1

/-- What counts clocks goes on (R643, R644): clusters with groups, clusters that a workgroup waits for, L2 slices, active and
waiting Looms, working Press engines, and the links. -/
def State.idleClocks (s : State) : State :=
  let own (F : Fld) (n : Nat) (s : State) : Nat := (s.ownerOf F n).getD 8
  let s := ((List.range 48).filter (s.present 1)).foldl (fun s c => s.pmuClocks 0x01 c (own FE_PART.CLUSTERS c s)) s
  let busy := (List.range 48).filter (fun c => s.sh.grps.any (fun p => p.1 / 192 == c))
  let s := busy.foldl (fun s c =>
    let p := own FE_PART.CLUSTERS c s
    ((s.clocks SCL_CTR.DUAL c 0x03 c p).pmuClocks 0x07 c p).pmuClocks 0x08 c p) s
  let s := if busy.isEmpty then s else (List.range 48).foldl State.atomStall s
  let wait := (List.range 48).filter (fun c => s.sh.disps.any (fun d => bit d.2.clusters c && d.2.next < d.2.gx * d.2.gy * d.2.gz))
  let s := wait.foldl (fun s c => let (k, s) := s.free 57; s.countN SCL_CTR.PLACE_STALL c k) s
  let s := (List.range 12).foldl (fun s n =>
    let p := own FE_PART.LOOMS n s
    if s.on LOOM_STATUS.BUSY n then (s.clocks LOOM_CTR.BUSY_CLOCKS n 0x10 n p).clocks LOOM_CTR.SHUTTLE_STALL n 0x12 n p
    else if s.on LOOM_STATUS.WAITING n then (let (k, s) := s.free 57; s.countN LOOM_CTR.WAIT_CLOCKS n k)
    else s) s
  let s := [0, 1, 2, 3].foldl (fun s e => if s.rd PRS_ENG.WORK e ≠ 0 then (let (k, s) := s.free 57; s.countN PRS_ENG.BUSY_CLOCKS e k) else s) s
  let s := [0, 1].foldl (fun s p => if s.rd PXL_PORT.STATE p ≠ 2 ∧ s.rd PXL_PORT.STATE p ≠ 3 then s
    else (((let (k, s) := s.free 57; s.countN PXL_PORT.FEC_CORR p k).pmuClocks 0x50 p 8).pmuClocks 0x51 p 8)) s
  if !s.on GLB_LINK.UP then s else (s.pmuClocks 0x60 0 8).pmuClocks 0x61 0 8

/-- Time passes: 10 ns, with the operating seconds and what they charge (R439), with the binning that goes on after a stop
(R389), and with the stops of graphics that are done (R447). Cluster time is charged by whole microseconds. -/
def State.idleTime (s : State) : State :=
  (State.idleClocks (State.idleWork { s with now := s.now + 10 })).binResume.gfxStopped

/-! ### Realtime jobs (R444 to R451) -/

/-- A queue is blocked by a WAIT. -/
def State.rtWaits (s : State) (q : Nat) : Bool := ((s.fe.strms.get? q).map (fun st => st.waitPid.isSome)).getD false

/-- A queue holds entries (R444). -/
def State.rtHeld (s : State) (q : Nat) : Bool :=
  s.rd FE_Q.RPTR q != s.rd FE_Q.WPTR q || ((s.fe.strms.get? q).map (fun st => !st.ents.isEmpty)).getD false

/-- START_BY: the start-by time of queue `q` has come: its job is opened, at this time or when no WAIT blocks the queue any
more, and holds its resources (R444, R449). -/
def execStartBy (q : Nat) (s : State) : Host.Outcome State Fault Refusal :=
  match s.rt.get? q with
  | none => .next s
  | some r =>
    if (r.phase = 0 ∨ r.phase = 4) ∧ r.startBy ≤ s.now ∧ s.ctxActive (s.rd FE_Q.CTX q) then
      let s := if r.phase = 0 then s.trace 2 (s.partOf (s.rd FE_Q.CTX q)) q 0 else s
      if s.rtWaits q then .next { s with rt := s.rt.put q { r with phase := 4 } }
      else .next (s.rtOpen q)
    else if r.phase = 2 ∧ ¬ r.holds ∧ ¬ s.rtWaits q then .next { s with rt := s.rt.put q { r with holds := true } }
    else .next s

/-- A miss is counted (R450), and reported by an EMCY at most once in a tick (R533). -/
def State.rtMiss (s : State) (q deadline : Nat) : State :=
  let s := if s.tick.told then s else { s.emcy 0x6100 0x4A s.lastInc with tick := { s.tick with told := true } }
  ((s.count FE_RT.MISSES q).raise 0x4A).trace 9 (s.partOf (s.rd FE_Q.CTX q)) q ((s.now - deadline) / 1000)

/-- The last entry that the jobs of a queue cover. -/
def RtJob.covers (r : RtJob) : Nat := r.opened.foldl (fun m x => max m (x.2.2.getD 0)) r.j

/-- RT_DEADLINE: the deadline of queue `q` has come: an open job is missed; entries held with no job open one that is
missed at once, behind an earlier tick's job where one runs; otherwise the tick has no job (R444, R450). -/
def execRtDeadline (q : Nat) (s : State) : Host.Outcome State Fault Refusal :=
  match s.rt.get? q with
  | none => .next s
  | some r =>
    let none' (s : State) (r : RtJob) : State := { s with rt := s.rt.put q r }.wr FE_RT.START_BY q 0
    let opens (s : State) : State := s.trace 7 (s.partOf (s.rd FE_Q.CTX q)) q 0
    if r.phase = 2 then
      if ¬ r.missed ∧ r.deadline ≤ s.now then .next (State.rtMiss { s with rt := s.rt.put q { r with missed := true } } q r.deadline)
      else match r.waits with
        | none => .next s
        | some (sb, d) =>
          if s.now < d then .next s
          else if s.lastSeq q > r.covers then
            .next (opens (State.rtMiss { s with rt := s.rt.put q { r with later := r.opened ++ [(sb, d, some (s.lastSeq q))] } } q d))
          else .next (none' s { r with later := r.opened })
    else if s.now < r.deadline ∨ r.phase = 3 then .next s
    else if s.rtHeld q then
      .next (opens (State.rtMiss { s with rt := s.rt.put q { r with phase := 2, j := s.lastSeq q, missed := true, holds := !s.rtWaits q } } q r.deadline))
    else .next (none' s { r with phase := 3 })

/-- RT_JOB_COMPLETE: COMPLETED has reached J: the job's resources are released, and the next job takes its place
(R444, R450, R451). -/
def execRtJobComplete (q : Nat) (s : State) : Host.Outcome State Fault Refusal :=
  match s.rt.get? q with
  | none => .next s
  | some r =>
    if r.phase = 2 ∧ s.rd FE_Q.COMPLETED q ≥ r.j then
      let s := if r.missed then s.wr FE_RT.LAST_LATE_US q (min ((s.now - r.deadline) / 1000) 0xFFFFFFFF) else s
      let s := s.trace 8 (s.partOf (s.rd FE_Q.CTX q)) q 0
      match r.later with
      | (sb, d, some j) :: l =>
        .next { s with rt := s.rt.put q { startBy := sb, deadline := d, phase := 2, j := j, missed := true, holds := !s.rtWaits q, later := l } }
      | (sb, d, none) :: _ => .next { s with rt := s.rt.put q { startBy := sb, deadline := d } }
      | [] => .next ({ s with rt := s.rt.put q { r with phase := 3, holds := false } }.wr FE_RT.START_BY q 0)
    else .next s

end Sys2Proof.Machine
end

