-- ==== Sys2Proof/Machine/Display.lean ====
section
/-! DEFINITION. The Glazier (chapter 14): commits, frames, composition, the flatten cache, writeback, region CRCs, and the
DisplayPort and A-PHY outputs. A frame is composed, and its layers are read, at its frame start. -/

namespace Sys2Proof.Machine

/-- The Glazier's ack bit (R173). -/
def glzEng : Nat := 62

/-- Pipe `p` beside its registers. -/
def State.pipe (s : State) (p : Nat) : GPipe := (s.glz.pipes.get? p).getD {}

/-- Change a pipe. -/
def State.updPipe (s : State) (p : Nat) (f : GPipe → GPipe) : State :=
  { s with glz := { s.glz with pipes := s.glz.pipes.put p (f (s.pipe p)) } }

/-! ### The commit descriptor (R396, R397) -/

/-- The layer record in 64 bytes. -/
def layerOf (b : List Byte) : GLayer :=
  { raw := b, va := field b 0 8, va1 := field b 8 8, pitch := field b 0x10 4, pitch1 := field b 0x14 4, fmt := field b 0x18 1,
    blend := field b 0x19 1, pa := field b 0x1A 1, csc := field b 0x1B 1, flags := field b 0x1C 1, sx := field b 0x20 2,
    sy := field b 0x22 2, w := field b 0x24 2, h := field b 0x26 2, dx := field b 0x28 2, dy := field b 0x2A 2 }

/-- An RGB layer format, and one of luma and chroma; with a chroma plane of its own (R398). -/
def glzRgb (f : Nat) : Bool := f == 3 || f == 5 || f == 6 || f == 9 || f == 0x23
def glzYuv (f : Nat) : Bool := f == 0x20 || f == 0x21 || f == 0x22
def glzPlanar (f : Nat) : Bool := f == 0x20 || f == 0x21

/-- A layer record keeps R397 and R398 in an active area of `ha` by `va` pixels. -/
def GLayer.ok (l : GLayer) (ha va : Nat) : Bool :=
  field l.raw 0x1D 3 == 0 && field l.raw 0x2C 20 == 0 && l.flags < 2 && l.blend ≤ 2 &&
  l.va % 256 == 0 && l.pitch % 64 == 0 && 1 ≤ l.w && 1 ≤ l.h && l.dx + l.w ≤ ha && l.dy + l.h ≤ va &&
  (if glzRgb l.fmt then l.csc == 0 || l.csc == 4 else glzYuv l.fmt && 1 ≤ l.csc && l.csc ≤ 4) &&
  (if glzPlanar l.fmt then
     l.va1 % 256 == 0 && l.sx % 2 == 0 && l.sy % 2 == 0 && l.dx % 2 == 0 && l.dy % 2 == 0 && l.w % 2 == 0 && l.h % 2 == 0
   else l.va1 == 0 && l.pitch1 == 0)

/-- Fields of a commit. -/
def GSet.f (c : GSet) (o n : Nat) : Nat := field c.raw o n
def GSet.flag (c : GSet) (i : Nat) : Bool := bit (c.f 1 1) i

/-- The first 64 bytes of a descriptor keep R397 on a pipe with output matrix `ocsc`. -/
def commitOk (b : List Byte) (ocsc : Nat) : Bool :=
  let fl := field b 1 1
  let wf := field b 0x1C 1
  fl < 16 && field b 2 2 < 8192 && field b 4 2 < 8192 && field b 6 2 < 8192 && field b 0x18 4 < 2 ^ 30 &&
  field b 0x1F 1 == 0 && field b 0x30 16 == 0 && !(bit fl 1 && field b 0x10 8 == poison) &&
  (!bit fl 3 || ((wf == 3 || wf == 6 || (wf == 0x20 && ocsc == 1)) && 1 ≤ field b 0x1D 1 && field b 0x1D 1 ≤ 4 &&
    1 ≤ field b 0x1E 1 && field b 0x1E 1 ≤ 8 && field b 0x20 8 % 256 == 0 && field b 0x28 4 % 128 == 0 && field b 0x2C 4 % 4096 == 0))

/-- RELEASE_VALUE is signalled where RELEASE_EN asks for it. -/
def State.glzRelease (s : State) (c : GSet) : State := if c.flag 1 then s.signal (c.f 4 2) (c.f 0x10 8) else s

/-- A pipe's pending commit goes, its wait with it. -/
def State.dropPend (s : State) (p : Nat) : State :=
  ((s.dropWaits (.glz p)).updPipe p (fun x => { x with pend := none })).fl GLZ_PIPE.PENDING p false

/-- DISPLAY_COMMIT: the descriptor is checked and becomes the pipe's pending commit, in place of one already pending
(R88, R397, R402, R403). -/
def execDisplayCommit (sid : Nat) (s : State) : Host.Outcome State Fault Refusal :=
  match s.canRun sid 0x50 with
  | none => .next s
  | some (st, k) =>
    let s := s.dispatch sid st k
    let c := st.ctx
    let part := s.partOf c
    let p := bits (pw1 k.w 1) 0 2
    if !bit (s.rd FE_PART.PIPES part) p then .next (s.ctxFault c 0xC3)
    else .next (State.onRead (s.vread c glzEng (pw2 k.w 2) 64) (fun s b =>
      let n := field b 0 1
      if n > popc (s.rd GLZ_PIPE.LAYERS p) 24 then s.ctxFault c 0x70 0 glzEng
      else State.onRead (s.vread c glzEng (pw2 k.w 2 + 64) (64 * n)) (fun s lb =>
        let ls := (List.range n).map (fun i => layerOf ((lb.drop (64 * i)).take 64))
        let g : GSet := { ctx := c, raw := b, layers := ls }
        let tal (f o : Nat) : Bool := !g.flag f || s.tallyOk part (g.f o 2)
        if !(commitOk b (s.rd GLZ_PIPE.OCSC p) && ls.all (fun l => l.ok (s.rd GLZ_PIPE.H_ACTIVE p) (s.rd GLZ_PIPE.V_ACTIVE p))) then
          s.ctxFault c 0x70 0 glzEng
        else if !(tal 0 2 && tal 1 4 && tal 3 6) then s.ctxFault c 0xC1 0 glzEng
        else
          let s := match (s.pipe p).pend with
            | some o => ((s.dropPend p).glzRelease o).count GLZ_PIPE.REPLACED p
            | none => s
          let s := (s.updPipe p (fun x => { x with pend := some { g with wait := if g.flag 0 then 1 else 0 } })).fl GLZ_PIPE.PENDING p true
          let s := if g.flag 0 then
              let r := s.addWait (g.f 2 2) (g.f 8 8) (.glz p)
              if r.2 then
                let w := if r.1.poisoned (g.f 2 2) then 2 else 0
                r.1.updPipe p (fun x => { x with pend := x.pend.map (fun c => { c with wait := w, at_ := some r.1.now }) })
              else r.1
            else s
          s.donePkt sid k.pid)))

/-! ### Pipe commits (R417) -/

/-- The pipe that a Staged field belongs to, by field number and instance. -/
def pipeOfKey (k : Nat × Nat) : Option Nat :=
  match fldOf k.1 with
  | none => none
  | some F =>
    if [GLZ_PIPE.MAT0, GLZ_PIPE.MAT1, GLZ_PIPE.MAT2, GLZ_PIPE.MAT3].contains F then some (k.2 / 4)
    else if GLZ_PIPE.fields.contains F then some k.2
    else if GLZ_CRC.fields.contains F then some (k.2 / 16)
    else none

/-- The number of a gamma LUT entry: pipe, component, index. -/
def lutKey (p c i : Nat) : Nat := 3072 * p + 1024 * c + i

/-- A committed LUT entry; entry i resets to i. -/
def State.lut (s : State) (k : Nat) : Nat := (s.glz.lut.get? k).getD (k % 1024)
/-- The shadow of a LUT entry. -/
def State.lutShadow (s : State) (k : Nat) : Nat := (s.glz.lutSh.get? k).getD (s.lut k)

/-- A LUT entry takes a value, its shadow standing as it is. -/
def State.wrLut (s : State) (k v : Nat) : State :=
  let sh := s.lutShadow k
  let s := { s with glz := { s.glz with lut := if v = k % 1024 then s.glz.lut.del k else s.glz.lut.put k v } }
  { s with glz := { s.glz with lutSh := if sh = s.lut k then s.glz.lutSh.del k else s.glz.lutSh.put k sh } }

/-- A write of a LUT entry's shadow. -/
def State.wrLutShadow (s : State) (k v : Nat) : State :=
  { s with glz := { s.glz with lutSh := if v % 1024 = s.lut k then s.glz.lutSh.del k else s.glz.lutSh.put k (v % 1024) } }

/-- The timing fields. -/
def pipeTiming : List Fld := [GLZ_PIPE.H_ACTIVE, GLZ_PIPE.H_FP, GLZ_PIPE.H_SYNC, GLZ_PIPE.H_BP,
  GLZ_PIPE.V_ACTIVE, GLZ_PIPE.V_FP, GLZ_PIPE.V_SYNC, GLZ_PIPE.V_BP]

/-- A field of pipe `p` as its last pipe commit left it: released, or in force. -/
def State.pipeEff (s : State) (p : Nat) (F : Fld) : Nat := (RMap.get? (s.pipe p).rel (F.fid, p)).getD (s.rd F p)

/-- The output stream `o` exists on this part (R394). -/
def State.outPresent (s : State) (o : Nat) : Bool :=
  o == 0 || (1 ≤ o && o ≤ 4 && s.present 6 ((o - 1) / 2)) || (5 ≤ o && o ≤ 6 && s.present 7 (o - 5))

/-- The flatten regions keep R409: within 16 MiB together, and pipe `p`'s in its partition's HBM ranges. -/
def State.flatOk (s : State) (p : Nat) : Bool :=
  let size (q : Nat) : Nat := if q = p then s.rdSh GLZ_PIPE.FLAT_SIZE p else s.pipeEff q GLZ_PIPE.FLAT_SIZE
  let n := size p * 0x10000
  let pa := s.rdSh GLZ_PIPE.FLAT_PA p * 0x10000
  size 0 + size 1 + size 2 + size 3 ≤ 256 &&
  (n == 0 || (bits pa 48 2 == s.dev && match s.ownerOf FE_PART.PIPES p with
    | none => false
    | some q => (List.range 4).any (fun k =>
        s.rd FE_PART.HBM_BASE (q * 4 + k) * unit2M ≤ bits pa 0 48 &&
        bits pa 0 48 + n ≤ (s.rd FE_PART.HBM_BASE (q * 4 + k) + s.rd FE_PART.HBM_SIZE (q * 4 + k)) * unit2M)))

/-- A CRC region lies in the active area; an enabled one is not empty. -/
def State.crcRegionOk (s : State) (p r : Nat) : Bool :=
  let i := 16 * p + r
  s.rdSh GLZ_CRC.X i + s.rdSh GLZ_CRC.W i ≤ s.rdSh GLZ_PIPE.H_ACTIVE p &&
  s.rdSh GLZ_CRC.Y i + s.rdSh GLZ_CRC.H i ≤ s.rdSh GLZ_PIPE.V_ACTIVE p &&
  (s.rdSh GLZ_CRC.EN i == 0 || (s.rdSh GLZ_CRC.W i != 0 && s.rdSh GLZ_CRC.H i != 0))

/-- The rules of R417 on a commit of pipe `p`, and the largest active area of R393 (log entry 58). -/
def State.pipeCommitOk (s : State) (p : Nat) : Bool :=
  let others := [0, 1, 2, 3].filter (· != p)
  let lay := s.rdSh GLZ_PIPE.LAYERS p
  let out := s.rdSh GLZ_PIPE.OUT p
  let need := max (((s.pipe p).pend.map (fun c => c.layers.length)).getD 0) (((s.pipe p).applied.map (fun c => c.layers.length)).getD 0)
  let clk := s.rdSh GLZ_PIPE.PIXCLK p
  popc lay 24 ≤ 8 && others.all (fun q => lay &&& s.pipeEff q GLZ_PIPE.LAYERS == 0) &&
  (out == 0 || others.all (fun q => s.pipeEff q GLZ_PIPE.OUT != out)) && s.outPresent out &&
  !((out == 2 && !s.on GLZ_DP.MST 0) || (out == 4 && !s.on GLZ_DP.MST 1)) &&
  25000 ≤ clk && clk ≤ 1200000 && pipeTiming.all (fun F => s.rdSh F p != 0) &&
  s.rdSh GLZ_PIPE.H_ACTIVE p ≤ 8192 && s.rdSh GLZ_PIPE.V_ACTIVE p ≤ 8192 && s.flatOk p && need ≤ popc lay 24 &&
  !(s.on GLZ_PIPE.EN p && (GLZ_PIPE.OUT :: GLZ_PIPE.LAYERS :: GLZ_PIPE.PIXCLK :: pipeTiming).any (fun F => s.rdSh F p != s.rd F p)) &&
  !(s.rdSh GLZ_PIPE.DSC_EN p == 1 && !(128 ≤ s.rdSh GLZ_PIPE.BPP_X16 p && s.rdSh GLZ_PIPE.BPP_X16 p ≤ 255)) &&
  (List.range 16).all (s.crcRegionOk p)

/-- The fields that a pipe commit releases apply: each shadow keeps what software sees in it. -/
def State.pipeApply (s : State) (p : Nat) : State :=
  let x := s.pipe p
  let s := (s.applyRel x.rel).updPipe p (fun x => { x with rel := [], relLut := [] })
  x.relLut.foldl (fun s e => s.wrLut e.1 e.2) s

/-- The Staged fields of pipe `p` that a pipe commit takes: shadows, and what the last one released and no frame has taken yet. -/
def State.pipeKeys (s : State) (p : Nat) : List (Nat × Nat) :=
  (s.shadows.filter (fun e => pipeOfKey e.1 == some p)).map (·.1) ++ (s.pipe p).rel.map (·.1)

/-- The same for the pipe's gamma LUT. -/
def State.pipeLuts (s : State) (p : Nat) : List Nat :=
  (s.glz.lutSh.filter (fun e => e.1 / 3072 == p)).map (·.1) ++ (s.pipe p).relLut.map (·.1)

/-- A shadow of pipe `p` differs from what its last commit left (R12). -/
def State.pipeChanged (s : State) (p : Nat) : Bool :=
  let x := s.pipe p
  (s.pipeKeys p).any (fun k => match fldOf k.1 with
    | some F => s.rdSh F k.2 != (RMap.get? x.rel k).getD (s.rd F k.2)
    | none => false) ||
  (s.pipeLuts p).any (fun k => s.lutShadow k != (x.relLut.get? k).getD (s.lut k))

/-- PIPE_COMMIT: the pipe's shadows are checked; they apply at once while it is disabled, and at its next frame start while
it is enabled (R71, R404, R409, R417). Without a changed shadow it has no effect (R12). -/
def execPipeCommit (p : Nat) (s : State) : Host.Outcome State Fault Refusal :=
  s.hostDo .glz (fun s =>
    if p ≥ 4 || !s.present 5 p || !s.pipeChanged p then .next s
    else if !s.pipeCommitOk p then .next ((s.fl CFG.REFUSED Blk.glz.idx true).cfgErr .glz (0x1050 + 0x100 * p))
    else
      let x := s.pipe p
      let rel := (s.pipeKeys p).foldl (fun (m : RMap) k => match fldOf k.1 with
        | some F => m.put k (s.rdSh F k.2)
        | none => m) []
      let relLut := (s.pipeLuts p).foldl (fun (m : NMap Nat) k => m.put k (s.lutShadow k)) []
      let s := s.updPipe p (fun x => { x with rel := rel, relLut := relLut })
      .next (if s.on GLZ_PIPE.EN p || x.run then s else s.pipeApply p))

/-- PIPE_DISCARD: the pipe's shadows take the committed values again, those still released to the next frame start among them
(R72). -/
def execPipeDiscard (p : Nat) (s : State) : Host.Outcome State Fault Refusal :=
  s.hostDo .glz (fun s =>
    let s := { s with
      shadows := s.shadows.filter (fun e => pipeOfKey e.1 != some p),
      glz := { s.glz with lutSh := s.glz.lutSh.filter (fun e => e.1 / 3072 != p) } }
    let s := s.shRel (s.pipe p).rel
    .next ((s.pipe p).relLut.foldl (fun s e => s.wrLutShadow e.1 e.2) s))

/-- PIPE_ENABLE: EN of a pipe, which acts at a frame start (R417); FRAME counts from an enable. -/
def execPipeEnable (p : Nat) (en : Bool) (s : State) : Host.Outcome State Fault Refusal :=
  s.hostDo .glz (fun s =>
    if p ≥ 4 || !s.present 5 p then .next s
    else
      let s := if en && !s.on GLZ_PIPE.EN p then s.wr GLZ_PIPE.FRAME p 0 else s
      .next (s.fl GLZ_PIPE.EN p en))

/-! ### Composition (R398 to R401) -/

/-- A pixel in internal form: three components of 10 bits, and A of 8. -/
structure Px where
  c0 : Nat
  c1 : Nat
  c2 : Nat
  a : Nat
  deriving DecidableEq, Repr

/-- The code of an FP16 value clamped to [0, 1], in steps of 1/`n`; a NaN gives 0 (R398). -/
def half01 (n h : Nat) : Nat := ((fp32.val (clamp01 (convert .f16 .f32 h).1)).mul (Dy.ofInt (n : Int))).rne.toNat

/-- An 8-bit code to 10 bits. -/
def c8to10 (c : Nat) : Nat := c * 4 + c / 64

/-- A pixel of an RGB format (R398). -/
def rgbPx (f n : Nat) : Px :=
  let b (i : Nat) : Nat := bits n (8 * i) 8
  if f = 3 then ⟨c8to10 (b 0), c8to10 (b 1), c8to10 (b 2), b 3⟩
  else if f = 5 then ⟨c8to10 (b 2), c8to10 (b 1), c8to10 (b 0), b 3⟩
  else if f = 6 then ⟨bits n 0 10, bits n 10 10, bits n 20 10, 85 * bits n 30 2⟩
  else if f = 9 then ⟨half01 1023 (bits n 0 16), half01 1023 (bits n 16 16), half01 1023 (bits n 32 16), half01 255 (bits n 48 16)⟩
  else ⟨bits n 11 5 * 32 + bits n 11 5, bits n 5 6 * 16 + bits n 5 6 / 4, bits n 0 5 * 32 + bits n 0 5, 255⟩

/-- Bytes per pixel of an RGB format. -/
def rgbBytes (f : Nat) : Nat := if f = 9 then 8 else if f = 0x23 then 2 else 4

/-- Row `y` of a layer as its format stores it, in internal components before any colour conversion; none after a fault. -/
def State.layerRow (s : State) (c : Nat) (l : GLayer) (y : Nat) : State × Option (List Px) :=
  let row := l.va + l.pitch * (l.sy + y)
  if glzRgb l.fmt then
    let n := rgbBytes l.fmt
    match s.vread c glzEng (row + n * l.sx) (n * l.w) with
    | (s, none) => (s, none)
    | (s, some b) => (s, some ((List.range l.w).map (fun i => rgbPx l.fmt (field b (n * i) n))))
  else if l.fmt = 0x22 then
    let x0 := l.sx / 2
    match s.vread c glzEng (row + 4 * x0) (4 * ((l.sx + l.w + 1) / 2 - x0)) with
    | (s, none) => (s, none)
    | (s, some b) => (s, some ((List.range l.w).map (fun i =>
        let k := (l.sx + i) / 2 - x0
        let g (o : Nat) : Nat := field b (4 * k + o) 1 * 4
        ⟨g (2 * ((l.sx + i) % 2)), g 1, g 3, 255⟩)))
  else
    let n := if l.fmt = 0x21 then 2 else 1
    let smp (b : List Byte) (i : Nat) : Nat := if n = 2 then field b (2 * i) 2 / 64 else field b i 1 * 4
    match s.vread c glzEng (row + n * l.sx) (n * l.w) with
    | (s, none) => (s, none)
    | (s, some b) =>
      match s.vread c glzEng (l.va1 + l.pitch1 * ((l.sy + y) / 2) + n * l.sx) (n * l.w) with
      | (s, none) => (s, none)
      | (s, some d) => (s, some ((List.range l.w).map (fun i => ⟨smp b i, smp d (i / 2 * 2), smp d (i / 2 * 2 + 1), 255⟩)))

/-- A matrix with its offsets (R399): rows, PRE, POST. -/
structure Csc where
  m : List (List Int)
  pre : List Int
  post : List Int
  deriving DecidableEq, Repr

/-- The presets of R399. -/
def cscPreset (n : Nat) : Csc :=
  { pre := [-64, -512, -512], post := [0, 0, 0],
    m := if n = 1 then [[4769, 0, 6537], [4769, -1605, -3330], [4769, 8263, 0]]
      else if n = 2 then [[4769, 0, 7343], [4769, -873, -2183], [4769, 8652, 0]]
      else [[4769, 0, 6876], [4769, -767, -2664], [4769, 8773, 0]] }

/-- The output matrix OCSC = 1 (R401). -/
def cscOut : Csc :=
  { pre := [0, 0, 0], post := [64, 512, 512], m := [[748, 2516, 254], [-412, -1387, 1799], [1799, -1634, -165]] }

/-- Element `e` of a pipe's MAT field. -/
def State.mat (s : State) (p e : Nat) : Int :=
  let F := if e % 4 = 0 then GLZ_PIPE.MAT0 else if e % 4 = 1 then GLZ_PIPE.MAT1 else if e % 4 = 2 then GLZ_PIPE.MAT2 else GLZ_PIPE.MAT3
  toSigned 16 (s.rd F (4 * p + e / 4))

/-- The pipe matrix. -/
def State.pipeCsc (s : State) (p : Nat) : Csc :=
  let r (k : Nat) : List Int := [s.mat p (3 * k), s.mat p (3 * k + 1), s.mat p (3 * k + 2)]
  { m := [r 0, r 1, r 2], pre := r 3, post := r 4 }

/-- One output component of a conversion (R399). -/
def Csc.comp (c : Csc) (i x y z : Nat) : Nat :=
  let row := c.m.getD i []
  let g (l : List Int) (k : Nat) : Int := l.getD k 0
  let sum := g row 0 * (x + g c.pre 0) + g row 1 * (y + g c.pre 1) + g row 2 * (z + g c.pre 2) + 2048
  (max 0 (min 1023 (sum / 4096 + g c.post i))).toNat

/-- A conversion of a pixel. -/
def Csc.app (c : Csc) (p : Px) : Px := ⟨c.comp 0 p.c0 p.c1 p.c2, c.comp 1 p.c0 p.c1 p.c2, c.comp 2 p.c0 p.c1 p.c2, p.a⟩

/-- [x / 255] of R400. -/
def div255 (x : Nat) : Nat := (x + 127) / 255

/-- A layer component over a destination (R400). -/
def blendC (mode pa a c d : Nat) : Nat :=
  if mode = 0 then div255 (c * pa)
  else
    let e := div255 (a * pa)
    if mode = 1 then min 1023 (div255 (c * pa) + div255 (d * (255 - e)))
    else div255 (c * e + d * (255 - e))

/-- A pixel over a destination. -/
def blendPx (mode pa : Nat) (d x : Px) : Px :=
  ⟨blendC mode pa x.a x.c0 d.c0, blendC mode pa x.a x.c1 d.c1, blendC mode pa x.a x.c2 d.c2, 255⟩

/-- A word R | G << 10 | B << 20. -/
def Px.word (p : Px) : Nat := p.c0 + p.c1 * 1024 + p.c2 * 1048576
/-- The pixel of such a word. -/
def pxOf (n : Nat) : Px := ⟨bits n 0 10, bits n 10 10, bits n 20 10, 255⟩

/-- The rows of an image with a layer over them; a layer that faults leaves its later rows as they are (R407). -/
def State.overLayer (s : State) (p c : Nat) (l : GLayer) (img : List (List Px)) : State × List (List Px) :=
  let csc : Option Csc := if l.csc = 0 then none else some (if l.csc = 4 then s.pipeCsc p else cscPreset l.csc)
  let r := (List.range l.h).foldl (fun (r : State × List (List Px) × Bool) y =>
    if !r.2.2 then r
    else match r.1.layerRow c l y with
      | (s, none) => (s, r.2.1, false)
      | (s, some px) =>
        let px := match csc with
          | some m => px.map m.app
          | none => px
        let old := r.2.1.getD (l.dy + y) []
        let new := old.take l.dx ++ ((old.drop l.dx).zipWith (blendPx l.blend l.pa) px) ++ old.drop (l.dx + l.w)
        (s, r.2.1.set (l.dy + y) new, true)) (s, img, true)
  (r.1, r.2.1)

/-- Layers over an image, from the bottom up. -/
def State.overLayers (s : State) (p c : Nat) (ls : List GLayer) (img : List (List Px)) : State × List (List Px) :=
  ls.foldl (fun r l => r.1.overLayer p c l r.2) (s, img)

/-- Steps 1 and 2 of R401 on a pixel of pipe `p`. -/
def State.outPx (s : State) (p : Nat) (x : Px) : Px :=
  let x := if s.on GLZ_PIPE.LUT_EN p then ⟨s.lut (lutKey p 0 x.c0), s.lut (lutKey p 1 x.c1), s.lut (lutKey p 2 x.c2), x.a⟩ else x
  if s.rd GLZ_PIPE.OCSC p = 1 then cscOut.app x else x

/-- Step 3 of R401 on a word: 8 bits a component with BPC = 1. -/
def State.depthPx (s : State) (p w : Nat) : Nat :=
  if s.on GLZ_PIPE.BPC p then
    let g (i : Nat) : Nat := min ((bits w (10 * i) 10 + 2) / 4) 255
    g 0 + g 1 * 256 + g 2 * 65536
  else w

/-- An image of `w` by `h` pixels of one colour. -/
def solid (w h : Nat) (x : Px) : List (List Px) := List.replicate h (List.replicate w x)

/-! ### The flatten cache (R408) -/

/-- The lowest run of static layers, where it can be flattened. -/
def State.flatRun (s : State) (p : Nat) (c : GSet) : Nat :=
  let n := (c.layers.takeWhile (fun l => bit l.flags 0)).length
  if n ≥ 2 ∧ s.rd GLZ_PIPE.H_ACTIVE p * s.rd GLZ_PIPE.V_ACTIVE p * 4 ≤ s.rd GLZ_PIPE.FLAT_SIZE p * 0x10000 then n else 0

/-- What a flattened image depends on: the records of its layers, which R408 compares; and, since flattening changes no output
bit (log entry 59), the context that reads them, the background, the active area, the region, and the pipe matrix where a layer
of the run takes it. -/
def State.flatKey (s : State) (p n : Nat) (c : GSet) : List (List Byte) × List Nat :=
  let run := c.layers.take n
  (run.map (·.raw),
   c.ctx :: c.f 0x18 4 :: s.rd GLZ_PIPE.H_ACTIVE p :: s.rd GLZ_PIPE.V_ACTIVE p :: s.rd GLZ_PIPE.FLAT_PA p ::
     if run.any (fun l => l.csc == 4) then (List.range 15).map (fun e => (s.mat p e).toNat + 65536 * (-(s.mat p e)).toNat) else [])

/-- The flattened image read from the pipe's region, or the background where it cannot be read. -/
def State.flatRead (s : State) (p w h : Nat) (bg : Px) : State × List (List Px) :=
  match s.physRead (s.rd GLZ_PIPE.FLAT_PA p * 0x10000) (4 * w * h) 0 with
  | (s, b, 0) => (s, (List.range h).map (fun y => (List.range w).map (fun x => pxOf (field b (4 * (y * w + x)) 4))))
  | (s, _, e) => (if e = 0x90 then s.uncorrShared else s, solid w h bg)

/-- The next frame of a pipe: its layers are read and composed, through the flatten cache where it holds the run. `fresh`
says that the set has just been applied. -/
def State.compose (s : State) (p : Nat) (fresh : Bool) : State × List (List Px) :=
  let x := s.pipe p
  let w := s.rd GLZ_PIPE.H_ACTIVE p
  let h := s.rd GLZ_PIPE.V_ACTIVE p
  let bg := pxOf x.bg
  match x.applied with
  | none => (s, solid w h bg)
  | some c =>
    let n := s.flatRun p c
    let key := s.flatKey p n c
    if n = 0 then (s.updPipe p (fun x => { x with flat := none })).overLayers p c.ctx c.layers (solid w h bg)
    else if x.flat = some key ∧ ¬ (fresh ∧ c.flag 2) then
      let (s, base) := s.flatRead p w h bg
      s.overLayers p c.ctx (c.layers.drop n) base
    else
      let (s, base) := s.overLayers p c.ctx (c.layers.take n) (solid w h bg)
      let ok := s.ctxActive c.ctx
      let (s, _) := s.physWrite (s.rd GLZ_PIPE.FLAT_PA p * 0x10000) 0 (base.flatten.flatMap (fun x => leBytes 4 x.word))
      let s := (s.updPipe p (fun x => { x with flat := if ok then some key else none, flatNew := true })).count GLZ_PIPE.FLATTENS p
      s.overLayers p c.ctx (c.layers.drop n) base

/-! ### Writeback (R410) -/

/-- 10 bits to 8. -/
def wb8 (c : Nat) : Nat := min ((c + 2) / 4) 255

/-- A row of a writeback image in a format of one plane. -/
def wbRow (f : Nat) (row : List Px) : List Byte :=
  row.flatMap (fun x =>
    if f = 3 then [BitVec.ofNat 8 (wb8 x.c0), BitVec.ofNat 8 (wb8 x.c1), BitVec.ofNat 8 (wb8 x.c2), 255]
    else leBytes 4 (x.word + 3 * 2 ^ 30))

/-- The chroma row `y` of an NV12 writeback. -/
def wbChroma (img : List (List Px)) (w y : Nat) : List Byte :=
  (List.range (w / 2)).flatMap (fun i =>
    let at_ (a b : Nat) : Px := (img.getD (2 * y + b) []).getD (2 * i + a) ⟨0, 0, 0, 255⟩
    let sum (f : Px → Nat) : Nat := f (at_ 0 0) + f (at_ 1 0) + f (at_ 0 1) + f (at_ 1 1)
    [BitVec.ofNat 8 (min ((sum Px.c1 + 8) / 16) 255), BitVec.ofNat 8 (min ((sum Px.c2 + 8) / 16) 255)])

/-- Write rows at a pitch; false after a fault. -/
def State.wbRows (s : State) (c va pitch : Nat) (rows : List (List Byte)) : State × Bool :=
  (rows.zipIdx).foldl (fun (r : State × Bool) e => if r.2 then r.1.vwrite c glzEng (va + pitch * e.2) e.1 else r) (s, true)

/-- The frame is written back where its set asks for it. NV12 puts its chroma plane below the luma plane. -/
def State.writeback (s : State) (p : Nat) (img : List (List Px)) : State :=
  match (s.pipe p).applied with
  | none => s
  | some c =>
    let fr := s.rd GLZ_PIPE.FRAME p
    if !c.flag 3 || fr % c.f 0x1E 1 != 0 then s
    else
      let va := c.f 0x20 8 + c.f 0x2C 4 * (fr % c.f 0x1D 1)
      let pitch := c.f 0x28 4
      let w := s.rd GLZ_PIPE.H_ACTIVE p
      let rows := if c.f 0x1C 1 = 0x20 then
          img.map (fun r => r.map (fun x => BitVec.ofNat 8 (wb8 x.c0))) ++ (List.range (img.length / 2)).map (wbChroma img w)
        else img.map (wbRow (c.f 0x1C 1))
      match s.wbRows c.ctx va pitch rows with
      | (s, true) => s.updPipe p (fun x => { x with wb := x.wb ++ [(c.ctx, c.f 6 2, fr)] })
      | (s, false) => s

/-- WRITEBACK_DONE: every write of the oldest written-back frame is acknowledged, and FRAME is signalled (R410). -/
def execWritebackDone (p : Nat) (s : State) : Host.Outcome State Fault Refusal :=
  match (s.pipe p).wb with
  | [] => .next s
  | (_, t, fr) :: r => .next ((s.updPipe p (fun x => { x with wb := r })).signal t fr)

/-! ### Frame starts (R395, R404, R405) -/

/-- The stale-frame limit of any pipe is a routed input (R404, R600). -/
def State.staleSync (s : State) (p : Nat) : State :=
  let s := s.syncLevel (0x511 + 8 * p)
  let is := [0, 1, 2, 3].any (fun q => s.levelCond (0x511 + 8 * q))
  if is != s.saf.routedLevel.contains 0 then s.routeLevel 0 is else s

/-- The frame that has been output leaves on its stream, where that has a link; stream 1 of a port exists only with MST (R394). -/
def State.sendFrame (s : State) (p : Nat) : State :=
  let o := s.rd GLZ_PIPE.OUT p
  let up := (1 ≤ o && o ≤ 4 && s.rd GLZ_DP.STATE ((o - 1) / 2) == 2 && (o % 2 == 1 || s.on GLZ_DP.MST ((o - 1) / 2))) || (5 ≤ o && o ≤ 6 && s.on GLZ_APHY.LOCKED (o - 5))
  if up && !(s.pipe p).img.isEmpty then s.emit (.video o (s.rd GLZ_PIPE.FRAME p) ((s.pipe p).img.map (s.depthPx p))) else s

/-- The short packets of an A-PHY transmitter go out in the vertical blanking period (R416). -/
def State.dsiSend (s : State) (p : Nat) : State :=
  let o := s.rd GLZ_PIPE.OUT p
  if 5 ≤ o ∧ o ≤ 6 ∧ s.on GLZ_APHY.LOCKED (o - 5) then
    let s := ((s.glz.dsi.get? (o - 5)).getD []).foldl (fun s v => s.emit (.dsi (o - 5) v)) s
    { s.wr GLZ_APHY.CMD_USED (o - 5) 0 with glz := { s.glz with dsi := s.glz.dsi.del (o - 5) } }
  else s

/-- A pipe stops: its sets are released. -/
def State.pipeStop (s : State) (p : Nat) : State :=
  let x := s.pipe p
  let s := (s.sendFrame p).dropPend p
  let s := s.pipeApply p
  let s := s.updPipe p (fun y => { run := false, wb := y.wb })
  let s := s.wrs p [(GLZ_PIPE.STALE, 0), (GLZ_PIPE.POISON, 0), (GLZ_PIPE.BLANKED, 0), (GLZ_PIPE.UNDERRUN, 0),
    (GLZ_PIPE.STALE_RUN, 0), (GLZ_PIPE.CTX, 0), (GLZ_PIPE.LINE, 0)]
  let s := match x.pend with
    | some c => s.glzRelease c
    | none => s
  (match x.applied with
    | some c => s.glzRelease c
    | none => s).staleSync p

/-- Every pipe is disabled and its sets are released (R578). -/
def State.pipesOff (s : State) : State := [0, 1, 2, 3].foldl (fun s p => (s.pipeStop p).wr GLZ_PIPE.EN p 0) s

/-- The pending commit is seen as ready or poisoned: its wait was released at least 32 fabric clocks ago (R405). -/
def State.pendSeen (s : State) (c : GSet) : Bool :=
  c.wait != 1 && match c.at_ with
    | none => true
    | some t => (s.now - t) * fabricMHz (s.rd PWR_LEVEL.CORE) ≥ 32 * 1000

/-- What a frame start does with the pipe's sets (R404): whether the frame is stale, poisoned, and shows a new set. -/
def State.frameCase (s : State) (p : Nat) : State × Bool × Bool × Bool :=
  let x := s.pipe p
  match x.pend with
  | none => (s, s.on GLZ_PIPE.EXPECT p, false, false)
  | some c =>
    if !s.pendSeen c then (s, true, false, false)
    else if c.wait = 2 then ((s.dropPend p).glzRelease c, true, true, false)
    else
      let s := s.dropPend p
      let s := (s.updPipe p (fun x => { x with applied := some c, bg := c.f 0x18 4 })).fl GLZ_PIPE.BLANKED p false
      let s := match x.applied with
        | some o => s.glzRelease o
        | none => s
      (s.wr GLZ_PIPE.CTX p c.ctx, false, false, true)

/-- FRAME_START: vertical blanking of pipe `p` begins: a ready commit is applied or the last set repeated, and the next
frame is composed (R394 to R408, R410, R416, R433). -/
def execFrameStart (p : Nat) (s : State) : Host.Outcome State Fault Refusal :=
  if p ≥ 4 || !s.present 5 p || !(s.on GLZ_PIPE.EN p || (s.pipe p).run) then .next s
  else if !s.on GLZ_PIPE.EN p then .next (s.pipeStop p)
  else
    let s := (s.sendFrame p).dsiSend p
    let s := (s.pipeApply p).wr GLZ_PIPE.FRAME p (s.rd GLZ_PIPE.FRAME p + 1)
    let (s, stale, pz, fresh) := s.frameCase p
    let s := ((s.fl GLZ_PIPE.STALE p stale).fl GLZ_PIPE.POISON p pz).fl GLZ_PIPE.UNDERRUN p false
    let s := s.wr GLZ_PIPE.STALE_RUN p (if stale then min 255 (s.rd GLZ_PIPE.STALE_RUN p + 1) else 0)
    let s := if stale then (s.count GLZ_PIPE.STALE_CNT p).raise (0x510 + 8 * p) else s
    let s := if pz then s.raise (0x512 + 8 * p) else s
    let s := s.staleSync p
    let s := s.updPipe p (fun x => { x with run := true, flatNew := false, crcDone := [] })
    let (s, img) := s.compose p fresh
    let img := img.map (fun r => r.map (s.outPx p))
    let s := s.updPipe p (fun x => { x with img := img.flatten.map Px.word, width := s.rd GLZ_PIPE.H_ACTIVE p })
    let s := s.writeback p img
    .next (if s.tickPipe = p then s.extTick 3 none else s)

/-- Pixels `k` to `k + n` of the frame take a word. -/
def setRun (l : List Nat) (k n w : Nat) : List Nat := (l.take k) ++ List.replicate (min n (l.length - k)) w ++ l.drop (k + n)

/-- LAYER_UNDERRUN: layer data for `n` pixels from (`x`, `y`) came too late: they show the background (R407). -/
def execLayerUnderrun (p x y n : Nat) (s : State) : Host.Outcome State Fault Refusal :=
  let g := s.pipe p
  if !g.run || g.applied.isNone || n = 0 || x ≥ g.width || y * g.width + x ≥ g.img.length then .next s
  else
    let w := (s.outPx p (pxOf g.bg)).word
    let first := !s.on GLZ_PIPE.UNDERRUN p
    let s := s.updPipe p (fun g => { g with
      img := setRun g.img (y * g.width + x) n w, flat := if g.flatNew then none else g.flat })
    let s := s.fl GLZ_PIPE.UNDERRUN p true
    .next (if first then (s.count GLZ_PIPE.UNDERRUNS p).raise (0x513 + 8 * p) else s)

/-- CRC_REGION_DONE: region `r` of the frame has been output: VALUE takes its CRC and the frame, and a comparison is made
(R411, R412). -/
def execCrcRegionDone (p r : Nat) (s : State) : Host.Outcome State Fault Refusal :=
  let g := s.pipe p
  let i := 16 * p + r
  if p ≥ 4 || r ≥ 16 || !g.run || !s.on GLZ_CRC.EN i || g.crcDone.contains r then .next s
  else
    let rows := (List.range (s.rd GLZ_CRC.H i)).flatMap (fun y =>
      (g.img.drop ((s.rd GLZ_CRC.Y i + y) * g.width + s.rd GLZ_CRC.X i)).take (s.rd GLZ_CRC.W i))
    let crc := crc32r 0xEDB88320 (rows.flatMap (leBytes 4))
    let s := s.updPipe p (fun g => { g with crcDone := r :: g.crcDone })
    let s := s.wr GLZ_CRC.VALUE i (crc + s.rd GLZ_PIPE.FRAME p % 2 ^ 32 * 2 ^ 32)
    .next (if s.on GLZ_CRC.CMP_EN i && crc != s.rd GLZ_CRC.EXPECT i then
      ((s.count GLZ_CRC.MISMATCH i).raise (0x514 + 8 * p)).routeHit 1
    else s)

/-- The display side of a teardown of context `c` (R406): pending commits go, applied sets are blanked from a pixel that is
free; the Tallies to poison (R662). -/
def State.glzTeardown (s : State) (c : Nat) : State × List Nat :=
  [0, 1, 2, 3].foldl (fun (r : State × List Nat) p =>
    let (s, pz) := r
    let tallies (g : GSet) : List Nat := (if g.flag 1 then [g.f 4 2] else []) ++ (if g.flag 3 then [g.f 6 2] else [])
    let mine (g : Option GSet) : List Nat := match g with
      | some g => if g.ctx = c then tallies g else []
      | none => []
    let x := s.pipe p
    let pz := pz ++ mine x.pend ++ mine x.applied
    let s := if (x.pend.map (·.ctx)) = some c then s.dropPend p else s
    let s := s.updPipe p (fun x => { x with wb := x.wb.filter (fun w => w.1 != c) })
    if (x.applied.map (·.ctx)) = some c then
      let (k, s) := s.free 39
      let k := k % (x.img.length + 1)
      let w := (s.outPx p (pxOf x.bg)).word
      let s := s.updPipe p (fun x => { x with applied := none, flat := none, img := setRun x.img k x.img.length w })
      ((s.fl GLZ_PIPE.BLANKED p true).wr GLZ_PIPE.LINE p (k / max 1 x.width), pz)
    else (s, pz)) (s, [])

/-! ### DisplayPort (R413 to R415) -/

/-- DP_TRAIN_GO: port `o` trains at the committed rate and lanes (R414). -/
def execDpTrainGo (o : Nat) (s : State) : Host.Outcome State Fault Refusal :=
  s.hostDo .glz (fun s =>
    if o < 2 && s.present 6 o && s.on GLZ_DP.EN o then
      .next { s.wr GLZ_DP.STATE o 1 with glz := { s.glz with retrain := s.glz.retrain.filter (· != o) } }
    else .next s)

/-- DP_TRAIN_DONE: training of port `o` ends UP at a rate and lane count that R414 allows, or FAILED. -/
def execDpTrainDone (o : Nat) (ok : Bool) (rate lanes : Nat) (s : State) : Host.Outcome State Fault Refusal :=
  if o ≥ 2 || s.rd GLZ_DP.STATE o != 1 then .next s
  else
    let again := s.glz.retrain.contains o
    let r := if again then s.rd GLZ_DP.RATE_ACT o else s.rd GLZ_DP.RATE o
    let l := if again then s.rd GLZ_DP.LANES_ACT o else s.rd GLZ_DP.LANES o
    let fits := if s.on GLZ_DP.FALLBACK o then rate ≤ r && lanes ≤ l && (r < 4 || rate ≥ 4) else rate == r && lanes == l
    let s := { s with glz := { s.glz with retrain := s.glz.retrain.filter (· != o) } }
    if ok && fits then
      .next ((s.wrs o [(GLZ_DP.STATE, 2), (GLZ_DP.RATE_ACT, rate), (GLZ_DP.LANES_ACT, lanes)]).linkRec 2 o 2)
    else .next ((s.wr GLZ_DP.STATE o 3).linkRec 2 o 3)

/-- The link of port `o` is lost; with AUTO_RETRAIN it trains again with the last parameters (R415). -/
def State.dpLost (s : State) (o : Nat) : State :=
  let s := ((s.wr GLZ_DP.STATE o 4).raise (0x503 + o)).linkRec 2 o 4
  if s.on GLZ_DP.AUTO_RETRAIN o then
    { (s.count GLZ_DP.RETRAINS o).wr GLZ_DP.STATE o 1 with glz := { s.glz with retrain := o :: s.glz.retrain } }
  else s

/-- HPD_CHANGE: HPD of port `o` takes a level, or the sink pulses IRQ_HPD (R415). -/
def execHpdChange (o : Nat) (level : Bool) (s : State) : Host.Outcome State Fault Refusal :=
  if o ≥ 2 || !s.present 6 o then .next s
  else
    let fell := s.on GLZ_DP.HPD o && !level
    let s := (s.fl GLZ_DP.HPD o level).raise (0x501 + o)
    .next (if fell && s.rd GLZ_DP.STATE o == 2 then s.dpLost o else s)

/-- DP_LINK_LOST: the link of port `o` reports lost lock (R415). -/
def execDpLinkLost (o : Nat) (s : State) : Host.Outcome State Fault Refusal :=
  .next (if o < 2 && s.rd GLZ_DP.STATE o == 2 then s.dpLost o else s)

/-- AUX_GO: a native AUX or I2C-over-AUX transaction starts with the fields of the port (R413). -/
def execAuxGo (o : Nat) (s : State) : Host.Outcome State Fault Refusal :=
  s.hostDo .glz (fun s =>
    if o ≥ 2 || !s.present 6 o then .next s
    else if s.on GLZ_DP.AUX_BUSY o then .next (s.cfgErr .glz (0x20010 + 0x100 * o))
    else
      let n := s.rd GLZ_DP.AUX_LEN o + 1
      let data := ((leBytes 8 (s.rd GLZ_DP.AUX_DATA0 o) ++ leBytes 8 (s.rd GLZ_DP.AUX_DATA1 o)).take n).map (·.toNat)
      let hdr := [s.rd GLZ_DP.AUX_ADDR o, s.rd GLZ_DP.AUX_I2C o, s.rd GLZ_DP.AUX_WRITE o, n]
      .next ((s.fl GLZ_DP.AUX_BUSY o true).emit (.aux o (hdr ++ if s.on GLZ_DP.AUX_WRITE o then data else []))))

/-- AUX_DONE: the transaction ends; the bytes of an acknowledged read replace the first ones of AUX_DATA (R413). -/
def execAuxDone (o result data : Nat) (s : State) : Host.Outcome State Fault Refusal :=
  if o ≥ 2 || !s.on GLZ_DP.AUX_BUSY o then .next s
  else
    let s := (s.fl GLZ_DP.AUX_BUSY o false).wr GLZ_DP.AUX_RESULT o result
    if result % 4 = 0 ∧ ¬ s.on GLZ_DP.AUX_WRITE o then
      let old := s.rd GLZ_DP.AUX_DATA0 o + s.rd GLZ_DP.AUX_DATA1 o * 2 ^ 64
      let v := setBits old 0 (8 * (s.rd GLZ_DP.AUX_LEN o + 1)) data
      .next ((s.wr GLZ_DP.AUX_DATA0 o v).wr GLZ_DP.AUX_DATA1 o (v / 2 ^ 64))
    else .next s

/-! ### A-PHY (R416) -/

/-- APHY_LOCK_LOST: transmitter `o` loses lock and restarts its link. -/
def execAphyLockLost (o : Nat) (s : State) : Host.Outcome State Fault Refusal :=
  .next (if o < 2 && s.on GLZ_APHY.LOCKED o then (((s.fl GLZ_APHY.LOCKED o false).raise (0x505 + o)).count GLZ_APHY.RESTARTS o).linkRec 3 o 0 else s)

/-- APHY_LINK_LOCKED: the automatic start-up of an enabled transmitter completes. -/
def execAphyLinkLocked (o : Nat) (s : State) : Host.Outcome State Fault Refusal :=
  .next (if o < 2 && s.present 7 o && s.on GLZ_APHY.EN o then (s.fl GLZ_APHY.LOCKED o true).linkRec 3 o 1 else s)

/-- DSI_CMD: a short packet joins the transmitter's FIFO of 16; a full one ignores it and sets CFG_ERR. -/
def execDsiCmd (o v : Nat) (s : State) : Host.Outcome State Fault Refusal :=
  s.hostDo .glz (fun s =>
    if o ≥ 2 || !s.present 7 o then .next s
    else
      let q := (s.glz.dsi.get? o).getD []
      if q.length ≥ 16 then .next (s.cfgErr .glz (0x20410 + 0x100 * o))
      else
        let q := q ++ [v % 2 ^ 24]
        .next { s.wr GLZ_APHY.CMD_USED o (min 15 q.length) with glz := { s.glz with dsi := s.glz.dsi.put o q } })

end Sys2Proof.Machine
end

