-- ==== Sys2Proof/Machine/Deflate.lean ====
section
/-! DEFINITION. What the Press decodes (R418, R421): the result of a decoder, and raw Deflate (RFC 1951), zlib (RFC 1950)
and gzip (RFC 1952). A decoder reads the whole stream so far; every byte it makes carries the number of input bytes read
by then. -/

namespace Sys2Proof.Machine

/-- A decoded byte and the input bytes read when it was made. -/
abbrev OutB := Byte × Nat

/-- The result of a decoder. Codes as R429: 0 a stream end or a boundary, 2 input ended inside, 0x10 to 0x12 errors. -/
structure DecR where
  code : Nat
  /-- oldest first -/
  out : List OutB
  /-- input bytes read -/
  used : Nat
  /-- output counts at which members or frames begin, newest first -/
  starts : List Nat := [0]
  deriving DecidableEq, Repr

/-- A failure: the code, and the output made so far, newest first. -/
abbrev DecE := Nat × List OutB

/-- The bits of bytes, the least significant first. -/
def bitsOf (bs : List Byte) : List Bool := bs.flatMap (fun b => (List.range 8).map (fun i => bit b.toNat i))

/-- The number of `n` bits at the head of a list, the first the least significant; none where there are too few. -/
def takeBits : (n : Nat) → List Bool → Option (Nat × List Bool)
  | 0, l => some (0, l)
  | _ + 1, [] => none
  | n + 1, b :: l => match takeBits n l with
    | none => none
    | some (v, r) => some (b2n b + 2 * v, r)

/-- Copy `n` bytes from `d` back, onto output kept newest first. -/
def copyBack (d pos : Nat) : (n : Nat) → List OutB → List OutB
  | 0, out => out
  | n + 1, out => copyBack d pos n ((((out[d - 1]?).map (·.1)).getD 0, pos) :: out)

/-! ### Prefix codes of RFC 1951 -/

/-- A prefix code: how many codes each length from 1 has, and the symbols by length and number. -/
structure Pfx where
  cnt : List Nat
  syms : List Nat
  deriving DecidableEq, Repr

/-- The code with the given lengths. -/
def pfxOf (lens : List Nat) : Pfx :=
  { cnt := (List.range 15).map (fun k => (lens.filter (· == k + 1)).length),
    syms := (List.range 15).flatMap (fun k => (List.range lens.length).filter (fun s => lens.getD s 0 == k + 1)) }

/-- Codes left unused at the longest length: negative for a set that is over-subscribed. -/
def Pfx.left (p : Pfx) : Int := p.cnt.foldl (fun (l : Int) (c : Nat) => 2 * l - (c : Int)) 1

/-- A set of lengths that can be decoded: complete, or one code of one bit. -/
def Pfx.ok (p : Pfx) : Bool := p.left == 0 || (p.left > 0 && p.syms.length ≤ 1)

/-- Decode one symbol by lengths: `.error 2` for too few bits, `.error 0x10` for a code that is not in the set. `code` is
the code read, `first` the first code of this length, `index` the place of its symbol. -/
def pfxWalk (syms : List Nat) : (cnt : List Nat) → (code first index : Nat) → List Bool → Except Nat (Nat × List Bool)
  | [], _, _, _, _ => .error 0x10
  | _ :: _, _, _, _, [] => .error 2
  | c :: r, code, first, index, b :: l =>
    let code := code + b2n b
    if code < first + c then
      match syms[index + (code - first)]? with
      | some s => .ok (s, l)
      | none => .error 0x10
    else pfxWalk syms r (2 * code) (2 * (first + c)) (index + c) l

/-- Decode one symbol. -/
def Pfx.get (p : Pfx) (l : List Bool) : Except Nat (Nat × List Bool) := pfxWalk p.syms p.cnt 0 0 0 l

/-- Base and extra bits of length symbols 257 to 285, and of distance symbols 0 to 29. -/
def lenBase (s : Nat) : Nat × Nat :=
  if s = 28 then (258, 0) else if s < 8 then (s + 3, 0)
  else let e := (s - 4) / 4; ((4 + s % 4) * 2 ^ e + 3, e)
def distBase (s : Nat) : Nat × Nat :=
  if s < 4 then (s + 1, 0) else let e := (s - 2) / 2; ((2 + s % 2) * 2 ^ e + 1, e)

/-- The bit reader's place: `t` bits in all. -/
def usedAt (t : Nat) (l : List Bool) : Nat := (t - l.length + 7) / 8

/-- The symbols of a block up to its end; output of this stream begins at count `floor`. -/
def inflateSyms (t : Nat) (lit dist : Pfx) (floor : Nat) :
    (fuel : Nat) → List Bool → List OutB → Except DecE (List Bool × List OutB)
  | 0, _, out => .error (2, out)
  | f + 1, l, out =>
    match lit.get l with
    | .error e => .error (e, out)
    | .ok (s, l) =>
      if s < 256 then inflateSyms t lit dist floor f l ((BitVec.ofNat 8 s, usedAt t l) :: out)
      else if s = 256 then .ok (l, out)
      else if s > 285 then .error (0x10, out)
      else
        let (lb, le) := lenBase (s - 257)
        match takeBits le l with
        | none => .error (2, out)
        | some (x, l) =>
          match dist.get l with
          | .error e => .error (e, out)
          | .ok (d, l) =>
            if d > 29 then .error (0x10, out)
            else
              let (db, de) := distBase d
              match takeBits de l with
              | none => .error (2, out)
              | some (y, l) =>
                if db + y > out.length - floor then .error (0x10, out)
                else inflateSyms t lit dist floor f l (copyBack (db + y) (usedAt t l) (lb + x) out)

/-- The code lengths of a dynamic block, `n` of them. -/
def readLens (cl : Pfx) : (fuel n : Nat) → List Nat → List Bool → Except Nat (List Nat × List Bool)
  | 0, _, _, _ => .error 0x10
  | f + 1, n, acc, l =>
    if acc.length = n then .ok (acc, l)
    else if acc.length > n then .error 0x10
    else match cl.get l with
      | .error e => .error e
      | .ok (s, l) =>
        if s < 16 then readLens cl f n (acc ++ [s]) l
        else
          let (base, ex, v) := if s = 16 then (3, 2, acc.getLast?) else if s = 17 then (3, 3, some 0) else (11, 7, some 0)
          match v, takeBits ex l with
          | none, _ => .error 0x10
          | _, none => .error 2
          | some v, some (k, l) => readLens cl f n (acc ++ List.replicate (base + k) v) l

/-- The order of the code length code's lengths. -/
def clOrder : List Nat := [16, 17, 18, 0, 8, 7, 9, 6, 10, 5, 11, 4, 12, 3, 13, 2, 14, 1, 15]

/-- `n` numbers of `w` bits. -/
def takeNums (w : Nat) : (n : Nat) → List Bool → Option (List Nat × List Bool)
  | 0, l => some ([], l)
  | n + 1, l => match takeBits w l with
    | none => none
    | some (v, l) => match takeNums w n l with
      | none => none
      | some (vs, l) => some (v :: vs, l)

/-- The two codes of a dynamic block. -/
def dynCodes (l : List Bool) : Except Nat (Pfx × Pfx × List Bool) :=
  match takeNums 1 14 l with
  | none => .error 2
  | some (h, l) =>
    let num (o n : Nat) : Nat := (List.range n).foldl (fun v i => v + h.getD (o + i) 0 * 2 ^ i) 0
    let hl := num 0 5 + 257
    let hd := num 5 5 + 1
    let hc := num 10 4 + 4
    if hl > 286 ∨ hd > 30 then .error 0x10
    else match takeNums 3 hc l with
      | none => .error 2
      | some (cs, l) =>
        let cl := pfxOf ((List.range 19).map (fun s => match clOrder.idxOf? s with
          | some i => if i < hc then cs.getD i 0 else 0
          | none => 0))
        if cl.left ≠ 0 then .error 0x10
        else match readLens cl (hl + hd + 1) (hl + hd) [] l with
          | .error e => .error e
          | .ok (ls, l) =>
            let lit := pfxOf (ls.take hl)
            let dist := pfxOf (ls.drop hl)
            if ls.getD 256 0 = 0 ∨ ¬ lit.ok ∨ ¬ dist.ok then .error 0x10 else .ok (lit, dist, l)

/-- The fixed codes. -/
def fixedLit : Pfx :=
  pfxOf (List.replicate 144 8 ++ List.replicate 112 9 ++ List.replicate 24 7 ++ List.replicate 8 8)
def fixedDist : Pfx := pfxOf (List.replicate 32 5)

/-- Drop the bits up to a byte boundary of `t` bits in all. -/
def alignBits (l : List Bool) : List Bool := l.drop (l.length % 8)

/-- The stored bytes of a block. -/
def storedBytes (t : Nat) : (n : Nat) → List Bool → List OutB → Except DecE (List Bool × List OutB)
  | 0, l, out => .ok (l, out)
  | n + 1, l, out => match takeBits 8 l with
    | none => .error (2, out)
    | some (b, l) => storedBytes t n l ((BitVec.ofNat 8 b, usedAt t l) :: out)

/-- Raw Deflate blocks up to the last one (RFC 1951). -/
def inflate (t floor : Nat) : (fuel : Nat) → List Bool → List OutB → Except DecE (List Bool × List OutB)
  | 0, _, out => .error (2, out)
  | f + 1, l, out =>
    match takeBits 3 l with
    | none => .error (2, out)
    | some (h, l) =>
      let r : Except DecE (List Bool × List OutB) :=
        if h / 2 = 0 then
          match takeBits 32 (alignBits l) with
          | none => .error (2, out)
          | some (n, l) => if n % 65536 + n / 65536 ≠ 65535 then .error (0x10, out) else storedBytes t (n % 65536) l out
        else if h / 2 = 1 then inflateSyms t fixedLit fixedDist floor (l.length + 1) l out
        else if h / 2 = 2 then
          match dynCodes l with
          | .error e => .error (e, out)
          | .ok (a, b, l) => inflateSyms t a b floor (l.length + 1) l out
        else .error (0x10, out)
      match r with
      | .error e => .error e
      | .ok (l, out) => if h % 2 = 1 then .ok (l, out) else inflate t floor f l out

/-! ### Checks -/

/-- CRC-32 of IEEE 802.3. -/
def crc32 (bs : List Byte) : Nat := crc32r 0xEDB88320 bs

/-- Adler-32. -/
def adler32 (bs : List Byte) : Nat :=
  let r := bs.foldl (fun (p : Nat × Nat) b => let a := (p.1 + b.toNat) % 65521; (a, (p.2 + a) % 65521)) (1, 0)
  r.1 + r.2 * 65536

/-- The bytes made since output count `floor`, oldest first. -/
def madeSince (floor : Nat) (out : List OutB) : List Byte := ((out.take (out.length - floor)).map (·.1)).reverse

/-- A big-endian number of bytes. -/
def beNat (bs : List Byte) : Nat := bs.foldl (fun n b => 256 * n + b.toNat) 0

/-- Raw Deflate. -/
def decDeflate (bs : List Byte) : DecR :=
  let l := bitsOf bs
  match inflate l.length 0 (l.length + 1) l [] with
  | .error (e, out) => { code := e, out := out.reverse, used := bs.length }
  | .ok (r, out) => { code := 0, out := out.reverse, used := usedAt l.length r }

/-- zlib. -/
def decZlib (bs : List Byte) : DecR :=
  let n := bs.length
  let fail (c : Nat) : DecR := { code := c, out := [], used := n }
  if n < 2 then fail 2
  else
    let cmf := field bs 0 1
    let flg := field bs 1 1
    if (cmf * 256 + flg) % 31 ≠ 0 then fail 0x11
    else if cmf % 16 ≠ 8 ∨ cmf / 16 > 7 then fail 0x10
    else if bit flg 5 then fail 0x12
    else
      let l := bitsOf bs
      match inflate l.length 0 (l.length + 1) (l.drop 16) [] with
      | .error (e, out) => { code := e, out := out.reverse, used := n }
      | .ok (r, out) =>
        let u := usedAt l.length r
        if n < u + 4 then { code := 2, out := out.reverse, used := n }
        else if beNat ((bs.drop u).take 4) = adler32 (madeSince 0 out) then { code := 0, out := out.reverse, used := u + 4 }
        else { code := 0x11, out := out.reverse, used := u + 4 }

/-- A string that a zero byte ends: its length with the zero. -/
def zstr : List Byte → Option Nat
  | [] => none
  | b :: r => if b = 0 then some 1 else (zstr r).map (· + 1)

/-- The length of a gzip member's header, or the code of R429. -/
def gzHeader (bs : List Byte) : Except Nat Nat :=
  let has (o n : Nat) : Bool := o + n ≤ bs.length
  if (has 0 1 && field bs 0 1 != 0x1F) || (has 1 1 && field bs 1 1 != 0x8B) || (has 2 1 && field bs 2 1 != 8) ||
     (has 3 1 && field bs 3 1 ≥ 32) then .error 0x10
  else if !has 0 10 then .error 2
  else
    let flg := field bs 3 1
    let ex : Option Nat := if bit flg 2 then (if has 10 2 then (if has 12 (field bs 10 2) then some (12 + field bs 10 2) else none) else none)
      else some 10
    let str (o : Option Nat) (on : Bool) : Option Nat := match o with
      | none => none
      | some o => if on then (zstr (bs.drop o)).map (· + o) else some o
    match str (str ex (bit flg 3)) (bit flg 4) with
    | none => .error 2
    | some o =>
      if !bit flg 1 then .ok o
      else if !has o 2 then .error 2
      else if field bs o 2 = crc32 (bs.take o) % 65536 then .ok (o + 2) else .error 0x11

/-- gzip members in sequence, `bs` being all the input and `o` where the next member begins. -/
def gzMembers (bs : List Byte) (l : List Bool) : (fuel o : Nat) → List OutB → List Nat → DecR
  | 0, _, out, st => { code := 2, out := out.reverse, used := bs.length, starts := st }
  | f + 1, o, out, st =>
    if o = bs.length then { code := 0, out := out.reverse, used := o, starts := st }
    else
      let floor := out.length
      let st := floor :: st
      match gzHeader (bs.drop o) with
      | .error e => { code := e, out := out.reverse, used := bs.length, starts := st }
      | .ok h => match inflate l.length floor (l.length + 1) (l.drop (8 * (o + h))) out with
        | .error (e, out) => { code := e, out := out.reverse, used := bs.length, starts := st }
        | .ok (r, out) =>
          let u := usedAt l.length r
          if bs.length < u + 8 then { code := 2, out := out.reverse, used := bs.length, starts := st }
          else if field bs u 4 = crc32 (madeSince floor out) ∧ field bs (u + 4) 4 = (out.length - floor) % 2 ^ 32 then
            gzMembers bs l f (u + 8) out st
          else { code := 0x11, out := out.reverse, used := u + 8, starts := st }

/-- gzip. -/
def decGzip (bs : List Byte) : DecR := gzMembers bs (bitsOf bs) (bs.length + 1) 0 [] []

end Sys2Proof.Machine
end

