-- ==== Sys2Proof/Machine/Lz4.lean ====
section
/-! DEFINITION. The LZ4 block and frame formats, and the xxHash sums that LZ4 frames and Zstandard carry (R418, R421). -/

namespace Sys2Proof.Machine

/-! ### xxHash -/

/-- Rotate a `w`-bit number left. -/
def rotL (w v n : Nat) : Nat := (v * 2 ^ n + v / 2 ^ (w - n)) % 2 ^ w

def xp32 (k : Nat) : Nat := [2654435761, 2246822519, 3266489917, 668265263, 374761393].getD (k - 1) 0
def xp64 (k : Nat) : Nat :=
  [11400714785074694791, 14029467366897019727, 1609587929392839161, 9650029242287828579, 2870177450012600261].getD (k - 1) 0

/-- The little-endian words of `n` bytes of a list. -/
def wordsLE (n : Nat) (bs : List Byte) : List Nat := (List.range (bs.length / n)).map (fun i => field bs (n * i) n)

/-- xxHash32 with seed 0. -/
def xxh32 (bs : List Byte) : Nat :=
  let m (v : Nat) : Nat := v % 2 ^ 32
  let n := bs.length
  let rnd (a v : Nat) : Nat := m (rotL 32 (m (a + m (v * xp32 2))) 13 * xp32 1)
  let full := n / 16 * 16
  let h :=
    if n < 16 then xp32 5
    else
      let ws := wordsLE 4 (bs.take full)
      let acc := (ws.zipIdx).foldl (fun (a : List Nat) p => a.set (p.2 % 4) (rnd (a.getD (p.2 % 4) 0) p.1))
        [m (xp32 1 + xp32 2), xp32 2, 0, m (2 ^ 32 - xp32 1)]
      let g (i : Nat) : Nat := acc.getD i 0
      m (rotL 32 (g 0) 1 + rotL 32 (g 1) 7 + rotL 32 (g 2) 12 + rotL 32 (g 3) 18)
  let h := m (h + n)
  let tail := bs.drop (if n < 16 then 0 else full)
  let h := (wordsLE 4 tail).foldl (fun h w => m (rotL 32 (m (h + w * xp32 3)) 17 * xp32 4)) h
  let h := (tail.drop (tail.length / 4 * 4)).foldl (fun h b => m (rotL 32 (m (h + b.toNat * xp32 5)) 11 * xp32 1)) h
  let h := m ((h ^^^ (h / 2 ^ 15)) * xp32 2)
  let h := m ((h ^^^ (h / 2 ^ 13)) * xp32 3)
  h ^^^ (h / 2 ^ 16)

/-- XXH64 with seed 0. -/
def xxh64 (bs : List Byte) : Nat :=
  let m (v : Nat) : Nat := v % 2 ^ 64
  let n := bs.length
  let rnd (a v : Nat) : Nat := m (rotL 64 (m (a + m (v * xp64 2))) 31 * xp64 1)
  let full := n / 32 * 32
  let h :=
    if n < 32 then xp64 5
    else
      let ws := wordsLE 8 (bs.take full)
      let acc := (ws.zipIdx).foldl (fun (a : List Nat) p => a.set (p.2 % 4) (rnd (a.getD (p.2 % 4) 0) p.1))
        [m (xp64 1 + xp64 2), xp64 2, 0, m (2 ^ 64 - xp64 1)]
      let g (i : Nat) : Nat := acc.getD i 0
      let h := m (rotL 64 (g 0) 1 + rotL 64 (g 1) 7 + rotL 64 (g 2) 12 + rotL 64 (g 3) 18)
      acc.foldl (fun h a => m ((h ^^^ rnd 0 a) * xp64 1 + xp64 4)) h
  let h := m (h + n)
  let tail := bs.drop (if n < 32 then 0 else full)
  let h := (wordsLE 8 tail).foldl (fun h w => m (rotL 64 (h ^^^ rnd 0 w) 27 * xp64 1 + xp64 4)) h
  let t4 := tail.drop (tail.length / 8 * 8)
  let h := (wordsLE 4 t4).foldl (fun h w => m (rotL 64 (h ^^^ m (w * xp64 1)) 23 * xp64 2 + xp64 3)) h
  let h := (t4.drop (t4.length / 4 * 4)).foldl (fun h b => m (rotL 64 (h ^^^ m (b.toNat * xp64 5)) 11 * xp64 1)) h
  let h := m ((h ^^^ (h / 2 ^ 33)) * xp64 2)
  let h := m ((h ^^^ (h / 2 ^ 29)) * xp64 3)
  h ^^^ (h / 2 ^ 32)

/-! ### LZ4 blocks -/

/-- A length that 255-bytes continue: none where the input ends first. -/
def lz4Len : List Byte → Nat → Nat → Option (Nat × Nat × List Byte)
  | [], _, _ => none
  | b :: r, n, k => if b = 255 then lz4Len r (n + 255) (k + 1) else some (n + b.toNat, k + 1, r)

/-- Literals onto the output, `pos` being the input read before them. -/
def litsOnto : (n : Nat) → List Byte → (pos : Nat) → List OutB → List Byte × Nat × List OutB
  | 0, l, p, out => (l, p, out)
  | _ + 1, [], p, out => ([], p, out)
  | n + 1, b :: l, p, out => litsOnto n l (p + 1) ((b, p + 1) :: out)

/-- The sequences of a block: `l` is the input left, `pos` the input read, `floor` where its history begins. It ends where
the input ends after a sequence's literals; otherwise the input has ended inside it. -/
def lz4Seqs (floor : Nat) : (fuel : Nat) → List Byte → (pos : Nat) → List OutB → Except DecE (List OutB)
  | 0, _, _, out => .error (2, out)
  | f + 1, l, pos, out =>
    match l with
    | [] => .error (2, out)
    | tk :: l =>
      let lit := tk.toNat / 16
      match (if lit = 15 then lz4Len l 15 0 else some (lit, 0, l)) with
      | none => .error (2, out)
      | some (n, k, l) =>
        let short := l.length < n
        let (l, pos, out) := litsOnto n l (pos + 1 + k) out
        if short then .error (2, out)
        else match l with
          | [] => .ok out
          | [_] => .error (2, out)
          | a :: b :: l =>
            let off := a.toNat + 256 * b.toNat
            if off = 0 ∨ off > out.length - floor then .error (0x10, out)
            else
              match (if tk.toNat % 16 = 15 then lz4Len l 15 0 else some (tk.toNat % 16, 0, l)) with
              | none => .error (2, out)
              | some (ml, k, l) => lz4Seqs floor f l (pos + 2 + k) (copyBack off (pos + 2 + k) (ml + 4) out)

/-- An LZ4 block: an empty input is inside it. -/
def decLz4 (bs : List Byte) : DecR :=
  match lz4Seqs 0 (bs.length + 1) bs 0 [] with
  | .ok out => { code := 0, out := out.reverse, used := bs.length }
  | .error (e, out) => { code := e, out := out.reverse, used := bs.length }

/-! ### LZ4 frames -/

/-- A skippable frame of LZ4 or Zstandard: its whole length, or 2 where the input ends inside it. -/
def skipFrame (bs : List Byte) : Except Nat Nat :=
  if bs.length < 8 ∨ bs.length < 8 + field bs 4 4 then .error 2 else .ok (8 + field bs 4 4)

/-- The blocks of a frame, `o` being where the next one begins: the flags are independent blocks and block checksums. -/
def lz4Blocks (bs : List Byte) (indep bck : Bool) (maxB frame : Nat) : (fuel o : Nat) → List OutB → Except DecE (Nat × List OutB)
  | 0, _, out => .error (2, out)
  | f + 1, o, out =>
    if bs.length < o + 4 then .error (2, out)
    else
      let w := field bs o 4
      if w = 0 then .ok (o + 4, out)
      else
        let n := w % 2 ^ 31
        let d := (bs.drop (o + 4)).take n
        let more := d.length < n
        let floor := if indep then out.length else frame
        if n > maxB then .error (0x10, out)
        else
          let r : Except DecE (List OutB) :=
            if w ≥ 2 ^ 31 then
              let (_, _, out) := litsOnto n d (o + 4) out
              if more then .error (2, out) else .ok out
            else match lz4Seqs floor (n + 1) d (o + 4) out with
              | .ok x => if more then .error (2, x) else .ok x
              | .error (2, x) => .error (if more then 2 else 0x10, x)
              | .error e => .error e
          match r with
          | .error e => .error e
          | .ok x =>
            let e := o + 4 + n
            if x.length - out.length > maxB then .error (0x10, x)
            else if !bck then lz4Blocks bs indep bck maxB frame f e x
            else if bs.length < e + 4 then .error (2, x)
            else if field bs e 4 = xxh32 d then lz4Blocks bs indep bck maxB frame f (e + 4) x
            else .error (0x11, x)

/-- LZ4 frames in sequence. -/
def lz4Frames (bs : List Byte) : (fuel o : Nat) → List OutB → List Nat → DecR
  | 0, _, out, st => { code := 2, out := out.reverse, used := bs.length, starts := st }
  | f + 1, o, out, st =>
    let stop (c : Nat) (out : List OutB) (st : List Nat) : DecR := { code := c, out := out.reverse, used := bs.length, starts := st }
    let r := bs.drop o
    if r.isEmpty then { code := 0, out := out.reverse, used := o, starts := st }
    else if r.length < 4 then stop 2 out st
    else if field r 0 4 / 16 = 0x184D2A5 then
      match skipFrame r with
      | .error e => stop e out st
      | .ok n => lz4Frames bs f (o + n) out st
    else if field r 0 4 = 0x184C2102 then stop 0x12 out st
    else if field r 0 4 ≠ 0x184D2204 then stop 0x10 out st
    else
      let st := out.length :: st
      if r.length < 7 then stop 2 out st
      else
        let flg := field r 4 1
        let bd := field r 5 1
        let csz := bit flg 3
        let h := 6 + (if csz then 8 else 0) + (if bit flg 0 then 4 else 0)
        if flg / 64 ≠ 1 then stop 0x12 out st
        else if bit flg 1 ∨ bd % 16 ≠ 0 ∨ bd ≥ 128 ∨ bd / 16 < 4 then stop 0x10 out st
        else if bit flg 0 then stop 0x12 out st
        else if r.length < h + 1 then stop 2 out st
        else if field r h 1 ≠ xxh32 ((r.drop 4).take (h - 4)) / 256 % 256 then stop 0x11 out st
        else
          let maxB := 2 ^ (8 + 2 * (bd / 16))
          let floor := out.length
          match lz4Blocks bs (bit flg 5) (bit flg 4) maxB floor (r.length + 1) (o + h + 1) out with
          | .error (e, out) => stop e out st
          | .ok (p, out) =>
            if csz ∧ field r 6 8 ≠ out.length - floor then { code := 0x11, out := out.reverse, used := p, starts := st }
            else if !bit flg 2 then lz4Frames bs f p out st
            else if bs.length < p + 4 then stop 2 out st
            else if field bs p 4 = xxh32 (madeSince floor out) then lz4Frames bs f (p + 4) out st
            else { code := 0x11, out := out.reverse, used := p + 4, starts := st }

/-- The LZ4 frame format. -/
def decLz4Frame (bs : List Byte) : DecR := lz4Frames bs (bs.length + 1) 0 [] []

end Sys2Proof.Machine
end

