-- ==== Sys2Proof/Machine/Zstd.lean ====
section
/-! DEFINITION. Zstandard (RFC 8878) without dictionaries, with windows up to 8 MiB (R418, R421). -/

namespace Sys2Proof.Machine

/-- The place of the highest set bit. -/
def hiBit (n : Nat) : Nat := Nat.log2 n

/-- The bits of a backward bitstream in the order they are read, most significant first; none without its end mark. -/
def backBits (bs : List Byte) : Option (List Bool) :=
  match bs.getLast? with
  | none => none
  | some b =>
    if b = 0 then none
    else some (((bitsOf bs).take (8 * (bs.length - 1) + hiBit b.toNat)).reverse)

/-- A number of `n` bits of a backward bitstream; none where there are too few. -/
def takeMsb : (n acc : Nat) → List Bool → Option (Nat × List Bool)
  | 0, acc, l => some (acc, l)
  | _ + 1, _, [] => none
  | n + 1, acc, b :: l => takeMsb n (2 * acc + b2n b) l

/-- As `takeMsb`, with zeros past the end. -/
def takeMsb0 : (n acc : Nat) → List Bool → Nat × List Bool
  | 0, acc, l => (acc, l)
  | n + 1, acc, [] => takeMsb0 n (2 * acc) []
  | n + 1, acc, b :: l => takeMsb0 n (2 * acc + b2n b) l

/-! ### FSE (RFC 8878 section 4.1) -/

/-- A decoding table: symbol, bits, base for each state; its accuracy log. -/
structure FseT where
  al : Nat
  tab : List (Nat × Nat × Nat)
  deriving DecidableEq, Repr

/-- Zeros that repeat flags add to a distribution. -/
def fseZeros : (fuel : Nat) → List Int → List Bool → Option (List Int × List Bool)
  | 0, acc, l => some (acc, l)
  | f + 1, acc, l => match takeBits 2 l with
    | none => none
    | some (k, l) =>
      let acc := acc ++ List.replicate k 0
      if k = 3 then fseZeros f acc l else some (acc, l)

/-- The probabilities of a distribution; `rem` points remain to be given out. -/
def fseProbs (maxSym : Nat) : (fuel rem : Nat) → List Int → List Bool → Option (List Int × List Bool)
  | 0, _, _, _ => none
  | f + 1, rem, acc, l =>
    if rem = 0 then (if acc.length ≤ maxSym + 1 then some (acc, l) else none)
    else if acc.length > maxSym then none
    else
      let n := hiBit (rem + 1) + 1
      match takeBits (n - 1) l with
      | none => none
      | some (lo, l1) =>
        let thr := 2 ^ n - 1 - (rem + 1)
        let r : Option (Nat × List Bool) :=
          if lo < thr then some (lo, l1)
          else match takeBits 1 l1 with
            | none => none
            | some (h, l2) => some (if h = 1 then lo + 2 ^ (n - 1) - thr else lo, l2)
        match r with
        | none => none
        | some (v, l) =>
          let p : Int := (v : Int) - 1
          if p.natAbs > rem then none
          else if p = 0 then
            match fseZeros (maxSym + 2) (acc ++ [0]) l with
            | none => none
            | some (acc, l) => fseProbs maxSym f rem acc l
          else fseProbs maxSym f (rem - p.natAbs) (acc ++ [p]) l

/-- The next free place of a table below the places of rare symbols. -/
def fseNext (step mask high : Nat) : (fuel pos : Nat) → Nat
  | 0, pos => pos
  | f + 1, pos => let p := (pos + step) &&& mask; if p ≥ high then fseNext step mask high f p else p

/-- The decoding table of a distribution. -/
def fseTable (al : Nat) (probs : List Int) : FseT :=
  let size := 2 ^ al
  let rare := (List.range probs.length).filter (fun s => probs.getD s 0 == -1)
  let high := size - rare.length
  let syms0 := (rare.zipIdx).foldl (fun (t : List Nat) p => t.set (size - 1 - p.2) p.1) (List.replicate size 0)
  let step := size / 2 + size / 8 + 3
  let spread := (List.range probs.length).flatMap (fun s => if probs.getD s 0 > 0 then List.replicate (probs.getD s 0).toNat s else [])
  let syms := (spread.foldl (fun (r : List Nat × Nat) s => (r.1.set r.2 s, fseNext step (size - 1) high size r.2)) (syms0, 0)).1
  let start (s : Nat) : Nat := if probs.getD s 0 = -1 then 1 else (probs.getD s 0).toNat
  let r := syms.foldl (fun (r : List (Nat × Nat × Nat) × List Nat) s =>
    let x := r.2.getD s 0
    let nb := al - hiBit x
    (r.1 ++ [(s, nb, x * 2 ^ nb - size)], r.2.set s (x + 1))) ([], (List.range probs.length).map start)
  { al := al, tab := r.1 }

/-- A distribution at the head of bytes: the table, and the bytes it took. -/
def fseRead (maxAl maxSym : Nat) (bs : List Byte) : Option (FseT × Nat) :=
  let l := bitsOf bs
  match takeBits 4 l with
  | none => none
  | some (a, l1) =>
    if a + 5 > maxAl then none
    else match fseProbs maxSym (maxSym + 2) (2 ^ (a + 5)) [] l1 with
      | none => none
      | some (ps, r) => some (fseTable (a + 5) ps, (l.length - r.length + 7) / 8)

/-- The symbol, bits and base of a state. -/
def FseT.at_ (t : FseT) (st : Nat) : Nat × Nat × Nat := t.tab.getD st (0, 0, 0)

/-! ### Huffman codes (RFC 8878 section 4.2) -/

/-- A Huffman code: the longest length, and each symbol's first table place and length. -/
structure Huf where
  maxB : Nat
  ents : List (Nat × Nat × Nat)
  deriving DecidableEq, Repr

/-- The code of given weights, the last one being implied; none where they do not fit. -/
def hufOf (ws : List Nat) : Option Huf :=
  let sum := ws.foldl (fun n w => if w = 0 then n else n + 2 ^ (w - 1)) 0
  if sum = 0 then none
  else
    let maxB := hiBit sum + 1
    let left := 2 ^ maxB - sum
    if maxB > 11 ∨ left ≠ 2 ^ hiBit left ∨ ws.length > 255 then none
    else
      let ws := ws ++ [hiBit left + 1]
      let ord := (List.range maxB).flatMap (fun k => (List.range ws.length).filter (fun s => ws.getD s 0 == k + 1))
      let r := ord.foldl (fun (r : List (Nat × Nat × Nat) × Nat) s =>
        let w := ws.getD s 0
        (r.1 ++ [(s, r.2, maxB + 1 - w)], r.2 + 2 ^ (w - 1))) ([], 0)
      some { maxB := maxB, ents := r.1 }

/-- The symbol at the head of a backward bitstream. -/
def Huf.get (h : Huf) (l : List Bool) : Option (Nat × List Bool) :=
  let (v, _) := takeMsb0 h.maxB 0 l
  match h.ents.find? (fun e => e.2.1 ≤ v && v < e.2.1 + 2 ^ (h.maxB - e.2.2)) with
  | some (s, _, n) => if n ≤ l.length then some (s, l.drop n) else none
  | none => none

/-- `n` symbols that take the bitstream exactly. -/
def Huf.run (h : Huf) : (n : Nat) → List Bool → List Byte → Option (List Byte)
  | 0, l, acc => if l.isEmpty then some acc.reverse else none
  | n + 1, l, acc => match h.get l with
    | none => none
    | some (s, l) => Huf.run h n l (BitVec.ofNat 8 s :: acc)

/-- Weights that two interleaved FSE states give, up to the end of their bitstream. -/
def fseWeights (t : FseT) : (fuel s1 s2 : Nat) → List Bool → List Nat → Option (List Nat)
  | 0, _, _, _, _ => none
  | f + 1, s1, s2, l, acc =>
    let (sym, nb, base) := t.at_ s1
    let acc := acc ++ [sym]
    if acc.length > 255 then none
    else if nb > l.length then some (acc ++ [(t.at_ s2).1])
    else
      let (v, l) := takeMsb0 nb 0 l
      fseWeights t f s2 (base + v) l acc

/-- A tree description at the head of bytes: the code, and the bytes it took. -/
def hufRead (bs : List Byte) : Option (Huf × Nat) :=
  match bs with
  | [] => none
  | b :: r =>
    let n := b.toNat
    if n ≥ 128 then
      let k := n - 127
      let m := (k + 1) / 2
      if r.length < m then none
      else (hufOf ((List.range k).map (fun i => let x := ((r.getD (i / 2) 0).toNat); if i % 2 = 0 then x / 16 else x % 16))).map (fun h => (h, 1 + m))
    else if r.length < n then none
    else
      let d := r.take n
      match fseRead 6 255 d with
      | none => none
      | some (t, k) => match backBits (d.drop k) with
        | none => none
        | some l =>
          match takeMsb t.al 0 l with
          | none => none
          | some (s1, l) => match takeMsb t.al 0 l with
            | none => none
            | some (s2, l) => match fseWeights t 256 s1 s2 l [] with
              | none => none
              | some ws => (hufOf ws).map (fun h => (h, 1 + n))

/-! ### Blocks -/

/-- What blocks of a frame hand on: the Huffman code, the three sequence tables and the repeated offsets. -/
structure ZCtx where
  huf : Option Huf := none
  ll : Option FseT := none
  of : Option FseT := none
  ml : Option FseT := none
  rep : List Nat := [1, 4, 8]
  deriving DecidableEq, Repr

/-- Literals of a block: the bytes, the code kept, and the bytes the section took. -/
def zLiterals (c : ZCtx) (bs : List Byte) : Option (List Byte × ZCtx × Nat) :=
  match bs with
  | [] => none
  | b0 :: _ =>
    let ty := b0.toNat % 4
    let sf := b0.toNat / 4 % 4
    if ty < 2 then
      let (h, n) := if sf % 2 = 0 then (1, field bs 0 1 / 8) else if sf = 1 then (2, field bs 0 2 / 16) else (3, field bs 0 3 / 16)
      let body := bs.drop h
      if bs.length < h ∨ n > 131072 then none
      else if ty = 0 then (if body.length < n then none else some (body.take n, c, h + n))
      else match body with
        | [] => none
        | x :: _ => some (List.replicate n x, c, h + 1)
    else
      let (h, w, streams) := if sf = 0 then (3, 10, 1) else if sf = 1 then (3, 10, 4) else if sf = 2 then (4, 14, 4) else (5, 18, 4)
      let v := field bs 0 h / 16
      let n := v % 2 ^ w
      let k := v / 2 ^ w % 2 ^ w
      let body := (bs.drop h).take k
      if body.length < k ∨ bs.length < h ∨ n > 131072 then none
      else
        let tree : Option (Huf × Nat) := if ty = 2 then hufRead body else c.huf.map (fun x => (x, 0))
        match tree with
        | none => none
        | some (hf, t) =>
          let d := body.drop t
          let c := { c with huf := some hf }
          let one (n : Nat) (d : List Byte) : Option (List Byte) := match backBits d with
            | none => none
            | some l => hf.run n l []
          if streams = 1 then (one n d).map (fun o => (o, c, h + k))
          else if d.length < 6 then none
          else
            let z1 := field d 0 2
            let z2 := field d 2 2
            let z3 := field d 4 2
            let q := (n + 3) / 4
            let d := d.drop 6
            if d.length < z1 + z2 + z3 ∨ n < 3 * q then none
            else match one q (d.take z1), one q ((d.drop z1).take z2), one q ((d.drop (z1 + z2)).take z3), one (n - 3 * q) (d.drop (z1 + z2 + z3)) with
              | some a, some b, some e, some g => some (a ++ b ++ e ++ g, c, h + k)
              | _, _, _, _ => none

/-- Default distributions of literal lengths, match lengths and offsets. -/
def llDefault : FseT := fseTable 6 [4, 3, 2, 2, 2, 2, 2, 2, 2, 2, 2, 2, 2, 1, 1, 1, 2, 2, 2, 2, 2, 2, 2, 2, 2, 3, 2, 1, 1, 1, 1, 1, -1, -1, -1, -1]
def mlDefault : FseT :=
  fseTable 6 ([1, 4, 3, 2, 2, 2, 2, 2, 2] ++ List.replicate 37 1 ++ List.replicate 7 (-1))
def ofDefault : FseT := fseTable 5 ([1, 1, 1, 1, 1, 1, 2, 2, 2] ++ List.replicate 15 1 ++ List.replicate 5 (-1))

/-- Base and extra bits of literal length and match length codes. -/
def llBase (c : Nat) : Nat × Nat :=
  if c < 16 then (c, 0)
  else [(16, 1), (18, 1), (20, 1), (22, 1), (24, 2), (28, 2), (32, 3), (40, 3), (48, 4), (64, 6), (128, 7), (256, 8), (512, 9),
    (1024, 10), (2048, 11), (4096, 12), (8192, 13), (16384, 14), (32768, 15), (65536, 16)].getD (c - 16) (0, 0)
def mlBase (c : Nat) : Nat × Nat :=
  if c < 32 then (c + 3, 0)
  else [(35, 1), (37, 1), (39, 1), (41, 1), (43, 2), (47, 2), (51, 3), (59, 3), (67, 4), (83, 4), (99, 5), (131, 7), (259, 8),
    (515, 9), (1027, 10), (2051, 11), (4099, 12), (8195, 13), (16387, 14), (32771, 15), (65539, 16)].getD (c - 32) (0, 0)

/-- A sequence table by its mode: predefined, one symbol, read from the bytes, or the one before; and the bytes it took. -/
def zTable (mode maxAl maxSym : Nat) (dflt : FseT) (prev : Option FseT) (bs : List Byte) : Option (FseT × Nat) :=
  if mode = 0 then some (dflt, 0)
  else if mode = 1 then match bs with
    | [] => none
    | b :: _ => if b.toNat > maxSym then none else some ({ al := 0, tab := [(b.toNat, 0, 0)] }, 1)
  else if mode = 2 then fseRead maxAl maxSym bs
  else prev.map (fun t => (t, 0))

/-- The offset of a sequence and the repeated offsets after it; 0 stands for a broken one. -/
def zOffset (rep : List Nat) (v ll : Nat) : Nat × List Nat :=
  let g (i : Nat) : Nat := rep.getD i 0
  if v > 3 then (v - 3, [v - 3, g 0, g 1])
  else
    let i := v - 1 + (if ll = 0 then 1 else 0)
    if i = 0 then (g 0, rep)
    else if i = 1 then (g 1, [g 1, g 0, g 2])
    else if i = 2 then (g 2, [g 2, g 0, g 1])
    else (g 0 - 1, [g 0 - 1, g 0, g 1])

/-- The sequences of a block executed: `floor` and `win` bound the history. -/
def zSeqs (tl tf tm : FseT) (floor win pos : Nat) : (n sl so sm : Nat) → List Bool → List Byte → List Nat → List OutB →
    Except DecE (List Byte × List Nat × List OutB)
  | 0, _, _, _, l, lits, rep, out => if l.isEmpty then .ok (lits, rep, out) else .error (0x10, out)
  | n + 1, sl, so, sm, l, lits, rep, out =>
    let (lc, lnb, lba) := tl.at_ sl
    let (oc, onb, oba) := tf.at_ so
    let (mc, mnb, mba) := tm.at_ sm
    match takeMsb oc 0 l with
    | none => .error (0x10, out)
    | some (ox, l) => match takeMsb (mlBase mc).2 0 l with
      | none => .error (0x10, out)
      | some (mx, l) => match takeMsb (llBase lc).2 0 l with
        | none => .error (0x10, out)
        | some (lx, l) =>
          let ll := (llBase lc).1 + lx
          let ml := (mlBase mc).1 + mx
          let (off, rep) := zOffset rep (2 ^ oc + ox) ll
          if lits.length < ll then .error (0x10, out)
          else
            let out := (lits.take ll).foldl (fun o b => (b, pos) :: o) out
            if off = 0 ∨ off > out.length - floor ∨ off > win then .error (0x10, out)
            else
              let out := copyBack off pos ml out
              let lits := lits.drop ll
              if n = 0 then zSeqs tl tf tm floor win pos 0 0 0 0 l lits rep out
              else match takeMsb lnb 0 l with
                | none => .error (0x10, out)
                | some (a, l) => match takeMsb mnb 0 l with
                  | none => .error (0x10, out)
                  | some (b, l) => match takeMsb onb 0 l with
                    | none => .error (0x10, out)
                    | some (d, l) => zSeqs tl tf tm floor win pos n (lba + a) (oba + d) (mba + b) l lits rep out

/-- A compressed block. -/
def zBlock (c : ZCtx) (floor win pos : Nat) (bs : List Byte) (out : List OutB) : Except DecE (ZCtx × List OutB) :=
  let bad : Except DecE (ZCtx × List OutB) := .error (0x10, out)
  match zLiterals c bs with
  | none => bad
  | some (lits, c, k) =>
    let q := bs.drop k
    match q with
    | [] => bad
    | b0 :: _ =>
      let n0 := b0.toNat
      let (h, n) := if n0 < 128 then (1, n0) else if n0 < 255 then (2, (n0 - 128) * 256 + field q 1 1) else (3, field q 1 2 + 0x7F00)
      if n0 = 0 then (if q.length = 1 then .ok (c, lits.foldl (fun o b => (b, pos) :: o) out) else bad)
      else if q.length < h + 1 then bad
      else
        let md := field q h 1
        let q := q.drop (h + 1)
        if md % 4 ≠ 0 then bad
        else match zTable (md / 64) 9 35 llDefault c.ll q with
          | none => bad
          | some (tl, k1) => match zTable (md / 16 % 4) 8 31 ofDefault c.of (q.drop k1) with
            | none => bad
            | some (tf, k2) => match zTable (md / 4 % 4) 9 52 mlDefault c.ml (q.drop (k1 + k2)) with
              | none => bad
              | some (tm, k3) => match backBits (q.drop (k1 + k2 + k3)) with
                | none => bad
                | some l => match takeMsb tl.al 0 l with
                  | none => bad
                  | some (sl, l) => match takeMsb tf.al 0 l with
                    | none => bad
                    | some (so, l) => match takeMsb tm.al 0 l with
                      | none => bad
                      | some (sm, l) => match zSeqs tl tf tm floor win pos n sl so sm l lits c.rep out with
                        | .error e => .error e
                        | .ok (lits, rep, out) =>
                          .ok ({ c with ll := some tl, of := some tf, ml := some tm, rep := rep },
                            lits.foldl (fun o b => (b, pos) :: o) out)

/-- The blocks of a frame from byte `o` on. -/
def zBlocks (bs : List Byte) (floor win : Nat) : (fuel o : Nat) → ZCtx → List OutB → Except DecE (Nat × List OutB)
  | 0, _, _, out => .error (2, out)
  | f + 1, o, c, out =>
    if bs.length < o + 3 then .error (2, out)
    else
      let h := field bs o 3
      let n := h / 8
      let ty := h / 2 % 4
      let maxB := min win 131072
      let body := bs.drop (o + 3)
      let go (k : Nat) (c : ZCtx) (x : List OutB) : Except DecE (Nat × List OutB) :=
        if x.length - out.length > maxB then .error (0x10, x)
        else if h % 2 = 1 then .ok (o + 3 + k, x) else zBlocks bs floor win f (o + 3 + k) c x
      if n > maxB ∨ ty = 3 then .error (0x10, out)
      else if ty = 0 then
        let (_, _, x) := litsOnto n body (o + 3) out
        if body.length < n then .error (2, x) else go n c x
      else if ty = 1 then match body with
        | [] => .error (2, out)
        | b :: _ => go 1 c (List.replicate n (b, o + 4) ++ out)
      else if body.length < n then .error (2, out)
      else match zBlock c floor win (o + 3 + n) (body.take n) out with
        | .error e => .error e
        | .ok (c, x) => go n c x

/-- Zstandard frames in sequence. -/
def zFrames (bs : List Byte) : (fuel o : Nat) → List OutB → List Nat → DecR
  | 0, _, out, st => { code := 2, out := out.reverse, used := bs.length, starts := st }
  | f + 1, o, out, st =>
    let stop (c : Nat) (out : List OutB) (st : List Nat) : DecR := { code := c, out := out.reverse, used := bs.length, starts := st }
    let r := bs.drop o
    if r.isEmpty then { code := 0, out := out.reverse, used := o, starts := st }
    else if r.length < 4 then stop 2 out st
    else if field r 0 4 / 16 = 0x184D2A5 then
      match skipFrame r with
      | .error e => stop e out st
      | .ok n => zFrames bs f (o + n) out st
    else if field r 0 4 ≠ 0xFD2FB528 then stop 0x10 out st
    else
      let st := out.length :: st
      if r.length < 5 then stop 2 out st
      else
        let d := field r 4 1
        let single := bit d 5
        let wl := if single then 0 else 1
        let dl := [0, 1, 2, 4].getD (d % 4) 0
        let cl := if d / 64 = 0 then (if single then 1 else 0) else 2 ^ (d / 64)
        let hl := 5 + wl + dl + cl
        if bit d 3 then stop 0x10 out st
        else if r.length < hl then stop 2 out st
        else
          let w := field r 5 1
          let csz := field r (5 + wl + dl) cl + (if cl = 2 then 256 else 0)
          let win := if single then csz else 2 ^ (10 + w / 8) + 2 ^ (10 + w / 8) / 8 * (w % 8)
          if win > 0x800000 ∨ field r (5 + wl) dl ≠ 0 then stop 0x12 out st
          else
            let floor := out.length
            match zBlocks bs floor win (r.length + 1) (o + hl) {} out with
            | .error (e, out) => stop e out st
            | .ok (p, out) =>
              let bad : DecR := { code := 0x11, out := out.reverse, used := p, starts := st }
              if cl ≠ 0 ∧ out.length - floor ≠ csz then bad
              else if !bit d 2 then zFrames bs f p out st
              else if bs.length < p + 4 then stop 2 out st
              else if field bs p 4 = xxh64 (madeSince floor out) % 2 ^ 32 then zFrames bs f (p + 4) out st
              else { bad with used := p + 4 }

/-- Zstandard. -/
def decZstd (bs : List Byte) : DecR := zFrames bs (bs.length + 1) 0 [] []

end Sys2Proof.Machine
end

