-- ==== Sys2Proof/Machine/Press.lean ====
section
/-! DEFINITION. The Press (chapter 15): COPY, FILL, compress and decompress jobs. What a job does to memory happens at its
end; the compressed bytes are free values that decode to the input. -/

namespace Sys2Proof.Machine

/-- The Press's ack bit (R173). -/
def prsEng : Nat := 61

/-- Engine `e` takes work: 1 COPY, 2 FILL, 3 PRESS_JOB. -/
def State.prsTake (s : State) (e work c : Nat) : State :=
  (s.wrs e [(PRS_ENG.WORK, work), (PRS_ENG.CTX, c)]).wr PRS_STATUS.BUSY 0 (setBit (s.rd PRS_STATUS.BUSY) e true)

/-- Engine `e` is free again. -/
def State.prsFree (s : State) (e : Nat) : State :=
  { (s.wr PRS_ENG.WORK e 0).wr PRS_STATUS.BUSY 0 (setBit (s.rd PRS_STATUS.BUSY) e false) with
    fe := { s.fe with copies := s.fe.copies.del e }, prs := { s.prs with jobs := s.prs.jobs.del e } }

/-- The free present engine with the lowest number (R427); none while the Press is being reset. -/
def State.prsPick (s : State) : Option Nat :=
  if s.rsts.any (fun r => r.typ == 3) then none
  else s.freePress (fun e => (s.prs.jobs.get? e).isSome || s.tested 3 e)

/-- A COPY or FILL packet starts on engine `e`; its engine stays busy until COPY_COMPLETE, or until the teardown of a
context that faults. -/
def State.prsMove (s : State) (sid : Nat) (st : Strm) (p : Pkt) (e work : Nat) : State :=
  let s := (s.dispatch sid st p).prsTake e work st.ctx
  { s with fe := { s.fe with copies := s.fe.copies.put e (sid, p.pid, st.ctx) } }

/-- COPY (R120, R121): pieces of 128 bytes in ascending order, each read whole before it is written. One of no bytes
completes at once and needs no engine. -/
def execCopy (sid : Nat) (s : State) : Host.Outcome State Fault Refusal :=
  match s.canRun sid 0x40 with
  | none => .next s
  | some (st, p) =>
    let n := pw2 p.w 5
    if n = 0 then .next ((s.dispatch sid st p).donePkt sid p.pid)
    else match s.prsPick with
      | none => .next s
      | some e => .next ((s.prsMove sid st p e 1).copyLoop st.ctx e (n / 128 + 1) (pw2 p.w 1) (pw2 p.w 3) n).1

/-- FILL (R120): a 32-bit pattern over a range. -/
def execFill (sid : Nat) (s : State) : Host.Outcome State Fault Refusal :=
  match s.canRun sid 0x41, s.prsPick with
  | some (st, p), some e =>
    let n := pw2 p.w 3
    .next (State.fillLoop st.ctx e (leBytes 4 (pw1 p.w 5)) (n / 128 + 1) (s.prsMove sid st p e 2) (pw2 p.w 1) n).1
  | _, _ => .next s

/-- COPY_COMPLETE: a COPY or FILL of an ACTIVE context finishes and its engine is free (R427). -/
def execCopyComplete (e : Nat) (s : State) : Host.Outcome State Fault Refusal :=
  match s.fe.copies.get? e with
  | none => .next s
  | some (sid, pid, c) => if s.ctxActive c then .next ((s.prsFree e).donePkt sid pid) else .next s

/-! ### Job descriptors (R422, R423) -/

/-- Fields of a job. -/
def PJob.f (j : PJob) (o n : Nat) : Nat := field j.desc o n
def PJob.resume (j : PJob) : Bool := bit (j.f 2 1) 0
def PJob.ending (j : PJob) : Nat := bits (j.f 2 1) 1 2
def PJob.fmt (j : PJob) : Nat := j.f 1 1
def PJob.stateVa (j : PJob) : Nat := j.f 0x28 8

/-- Bytes of a format's state area (R424). -/
def stateBytes (fmt : Nat) : Nat := if fmt ≤ 2 then 49152 else if fmt ≤ 4 then 81920 else 16384 + 0x800000

/-- Two ranges overlap. -/
def overlaps (a n b m : Nat) : Bool := n != 0 && m != 0 && a < b + m && b < a + n

/-- Two jobs of different queues use one state area (R427). -/
def PJob.meets (a b : PJob) : Bool :=
  a.ctx == b.ctx && a.sid != b.sid && a.stateVa != 0 && b.stateVa != 0 && overlaps a.stateVa (stateBytes a.fmt) b.stateVa (stateBytes b.fmt)

/-- The descriptor keeps R423. -/
def pressOk (d : List Byte) : Bool :=
  let op := field d 0 1
  let fmt := field d 1 1
  let fl := field d 2 1
  let e := bits fl 1 2
  let sva := field d 0x28 8
  let res := bit fl 0
  let rs := [(field d 8 8, field d 0x10 8), (field d 0x18 8, field d 0x20 8), (sva, if sva = 0 then 0 else stateBytes fmt), (field d 0x30 8, 32)]
  let clash := (List.range 4).any (fun i => (List.range 4).any (fun k => i < k &&
    overlaps (rs.getD i (0, 0)).1 (rs.getD i (0, 0)).2 (rs.getD k (0, 0)).1 (rs.getD k (0, 0)).2))
  op ≤ 1 && fmt ≤ 5 && fl < 16 && e ≤ 2 && field d 3 1 ≤ 20 && field d 4 2 < 8192 && field d 6 2 == 0 &&
  field d 0x16 2 == 0 && field d 0x26 2 == 0 && field d 0x30 8 != 0 && field d 0x30 8 % 32 == 0 && sva % 4096 == 0 &&
  !(op == 0 && fmt == 5) && !(op == 1 && e != 0) && !(op == 0 && e == 1 && fmt == 3) &&
  !(sva == 0 && (res || (op == 0 && e != 2))) && !clash && !(bit fl 3 && field d 0x38 8 == poison)

/-- A PRESS_JOB packet starts: its descriptor is read and checked (R423, R427). `want` is the OP that this command starts;
an invalid OP counts as a compress. -/
def State.prsStart (s : State) (sid want : Nat) : State :=
  match s.canRun sid 0x48, s.prsPick with
  | some (st, p), some e =>
    State.onRead ((s.dispatch sid st p).vread st.ctx (prsUnit e) (pw2 p.w 1) 64) (fun t d =>
      let op := if field d 0 1 = 1 then 1 else 0
      let early := st.pkts.any (fun q => q.op == 0x48 && q.pid < p.pid && q.st != 2)
      if op ≠ want ∨ (bit (field d 2 1) 0 ∧ early) then s
      else if !pressOk d then t.ctxFault st.ctx 0x80 0 prsEng
      else if bit (field d 2 1) 3 && !t.tallyOk (t.partOf st.ctx) (field d 4 2) then t.ctxFault st.ctx 0xC1 0 prsEng
      else
        let r := if field d 3 1 = 0 then t.rd PRS_CFG.DEF_LOG2_RATIO else field d 3 1
        let j : PJob := { sid := sid, pid := p.pid, ctx := st.ctx, va := pw2 p.w 1, desc := d, ratio := r }
        let t := t.prsTake e 3 st.ctx
        let old : NMap PJob := t.prs.jobs.map (fun x => (x.1, { x.2 with clash := x.2.clash || x.2.meets j }))
        { t with prs := { t.prs with jobs := old.put e { j with clash := old.any (fun x => x.2.meets j) } } })
  | _, _ => s

/-- COMPRESS: a compress job starts (R419 to R425). -/
def execCompress (sid : Nat) (s : State) : Host.Outcome State Fault Refusal := .next (s.prsStart sid 0)

/-- DECOMPRESS: a decompress job starts (R421, R428). -/
def execDecompress (sid : Nat) (s : State) : Host.Outcome State Fault Refusal := .next (s.prsStart sid 1)

/-! ### Streams -/

/-- The decoder of a format (R418). -/
def decode (fmt : Nat) (bs : List Byte) : DecR :=
  if fmt = 0 then decDeflate bs else if fmt = 1 then decZlib bs else if fmt = 2 then decGzip bs
  else if fmt = 3 then decLz4 bs else if fmt = 4 then decLz4Frame bs else decZstd bs

/-- The running check of a stream (R430). -/
def checkOf (fmt : Nat) (bs : List Byte) : Nat :=
  if fmt = 1 then adler32 bs else if fmt = 2 then crc32 bs else if fmt = 4 then xxh32 bs
  else if fmt = 5 then xxh64 bs % 2 ^ 32 else 0

/-- What a job comes to: code, input consumed, bytes written, flags STREAM_END, CHECK, and the stream as it stands. -/
structure PRes where
  code : Nat
  cons : Nat
  out : List Byte
  fin : Bool
  check : Nat
  strm : PStream

/-- Input consumed by a job that stops before its input's end: a free value between what its output needs and all of it. -/
def State.consumed (s : State) (lo n : Nat) : Nat × State :=
  let (k, s) := s.free 41
  (min n (lo + k % (n + 1 - min lo n)), s)

/-- A decompress job on new input (R421, R426, R428). -/
def State.decompress (s : State) (x : PStream) (inp : List Byte) (outB ratio : Nat) : PRes × State :=
  let had := x.inp.length
  let made := x.out.length
  let r := decode x.fmt (x.inp ++ inp)
  let new := r.out.drop made
  let okLen := ((new.zipIdx).takeWhile (fun p => made + p.2 + 1 ≤ 2 ^ ratio * p.1.2 + 65536)).length
  let n := min (min new.length okLen) outB
  let out := (new.take n).map (·.1)
  let all := x.out ++ out
  let start := (r.starts.find? (fun k => k < all.length)).getD 0
  let check := checkOf x.fmt (all.drop start)
  let need := (((new.take n).getLast?).map (fun p => p.2 - had)).getD 0
  let upTo (k : Nat) : PStream := { x with inp := x.inp ++ inp.take k, out := all }
  if n = outB ∧ n < new.length then
    let (k, s) := s.consumed need inp.length
    ({ code := 1, cons := k, out := out, fin := false, check := check, strm := upTo k }, s)
  else if n < new.length then
    let (k, s) := s.consumed need inp.length
    ({ code := 0x13, cons := k, out := out, fin := false, check := check, strm := upTo k }, s)
  else if r.code = 0 then
    ({ code := 0, cons := r.used - had, out := out, fin := true, check := check, strm := upTo (r.used - had) }, s)
  else if r.code = 2 then
    ({ code := 2, cons := inp.length, out := out, fin := false, check := check, strm := upTo inp.length }, s)
  else
    let (k, s) := s.consumed need inp.length
    ({ code := r.code, cons := k, out := out, fin := false, check := check, strm := upTo k }, s)

/-- The header that R419 fixes for a compressed stream. -/
def cmpHeader (fmt : Nat) : List Byte :=
  if fmt = 1 then [0x78, 0x5E] else if fmt = 2 then [0x1F, 0x8B, 8, 0, 0, 0, 0, 0, 0, 0xFF]
  else if fmt = 4 then [0x04, 0x22, 0x4D, 0x18, 0x44, 0x40, BitVec.ofNat 8 (xxh32 [0x44, 0x40] / 256)] else []

/-- A compressed stream stands for `inp` after a job with the END action `e` (R419, R425). -/
def cmpValid (fmt e : Nat) (inp strm : List Byte) : Bool :=
  let r := decode fmt strm
  let out := r.out.map (·.1)
  let head := strm.take (cmpHeader fmt).length == cmpHeader fmt
  if e = 2 then head && r.code == 0 && r.used == strm.length && out == inp
  else if e = 1 then
    head && r.code == 2 && out == inp && (fmt > 2 || strm.drop (strm.length - 4) == [0, 0, 0xFF, 0xFF])
  else strm.isEmpty && inp.length ≤ 16384 || ((head || strm.length < (cmpHeader fmt).length) &&
    (r.code == 2 || (fmt == 3 && r.code == 0)) && inp.take out.length == out && inp.length ≤ out.length + 16384)

/-- Stored Deflate blocks, the last of them final where `fin` says so. -/
def storedBlocks (fin : Bool) : (fuel : Nat) → List Byte → List Byte
  | 0, _ => []
  | f + 1, bs =>
    let d := bs.take 16384
    let r := bs.drop 16384
    let last := fin && r.isEmpty
    if bs.isEmpty && !fin then []
    else BitVec.ofNat 8 (b2n last) :: leBytes 2 d.length ++ leBytes 2 (65535 - d.length) ++ d ++ (if r.isEmpty then [] else storedBlocks fin f r)

/-- Uncompressed LZ4 frame blocks. -/
def lz4Stored : (fuel : Nat) → List Byte → List Byte
  | 0, _ => []
  | f + 1, bs =>
    let d := bs.take 65536
    if bs.isEmpty then [] else leBytes 4 (d.length + 2 ^ 31) ++ d ++ lz4Stored f (bs.drop 65536)

/-- The bytes of one LZ4 sequence of literals alone. -/
def lz4Lits (bs : List Byte) : List Byte :=
  let n := bs.length
  if n < 15 then BitVec.ofNat 8 (16 * n) :: bs
  else 0xF0 :: List.replicate ((n - 15) / 255) 255 ++ [BitVec.ofNat 8 ((n - 15) % 255)] ++ bs

/-- What a stream of stored data adds to `prior` so that it stands for `inp`. -/
def storedTail (fmt e : Nat) (inp prior : List Byte) : List Byte :=
  let done := (decode fmt prior).out.length
  let rest := inp.drop done
  let head := if prior.isEmpty then cmpHeader fmt else []
  if fmt = 3 then (if e = 2 then lz4Lits inp else [])
  else if fmt = 4 then head ++ lz4Stored (rest.length + 1) rest ++ (if e = 2 then leBytes 4 0 ++ leBytes 4 (xxh32 inp) else [])
  else
    let body := storedBlocks (e == 2) (rest.length + 1) rest ++ (if e = 1 then [0, 0, 0, 0xFF, 0xFF] else [])
    let trail := if e ≠ 2 then [] else if fmt = 1 then (leBytes 4 (adler32 inp)).reverse
      else if fmt = 2 then leBytes 4 (crc32 inp) ++ leBytes 4 inp.length else []
    head ++ body ++ trail

/-- The bound of R420 for `n` input bytes. -/
def cmpBound (fmt n : Nat) : Nat :=
  if fmt ≤ 2 then n + 5 * ((n + 16383) / 16384) + 32
  else if fmt = 3 then n + (n + 254) / 255 + 16 else n + (n + 254) / 255 + 20 * ((n + 65535) / 65536) + 32

/-- The bytes that a compress job adds to a stream: free ones that make it valid, else stored ones. -/
def State.compressed (s : State) (fmt e : Nat) (inp prior : List Byte) (n : Nat) : List Byte × State :=
  let (k, s) := s.free 42
  let (c, s) := s.freeBytes 42 (k % (cmpBound fmt n + 1))
  (if cmpValid fmt e inp (prior ++ c) then c else storedTail fmt e inp prior, s)

/-- A compress job on new input (R425, R426). -/
def State.compress (s : State) (x : PStream) (inp : List Byte) (outB e : Nat) : PRes × State :=
  let all := x.inp ++ inp
  let (full, s) := if inp.isEmpty && (x.ended == e + 1 || x.ended == 3) then ([], s) else s.compressed x.fmt e all x.out inp.length
  let tot := x.pend ++ full
  let fin := e == 2 || (inp.isEmpty && x.ended == 3)
  if tot.length ≤ outB then
    ({ code := 0, cons := inp.length, out := tot, fin := fin, check := checkOf x.fmt all,
       strm := { x with inp := all, out := x.out ++ full, pend := [], ended := if fin then 3 else 0 } }, s)
  else
    let (k, s) := s.consumed 0 inp.length
    let (part, s) := s.compressed x.fmt 0 (x.inp ++ inp.take k) x.out k
    if outB ≤ (x.pend ++ part).length ∧ k < inp.length then
      let tot := x.pend ++ part
      ({ code := 1, cons := k, out := tot.take outB, fin := false, check := checkOf x.fmt (x.inp ++ inp.take k),
         strm := { x with inp := x.inp ++ inp.take k, out := x.out ++ part, pend := tot.drop outB, ended := 0 } }, s)
    else
      ({ code := 1, cons := inp.length, out := tot.take outB, fin := false, check := checkOf x.fmt all,
         strm := { x with inp := all, out := x.out ++ full, pend := tot.drop outB, ended := e + 1 } }, s)

/-- The stream behind a state area: its header, and then the rest, still stand there as they were written (R424). -/
def State.loadStream (s : State) (e : Nat) (j : PJob) : State × Option (Option PStream) :=
  match s.vread j.ctx (prsUnit e) j.stateVa 64 with
  | (s, none) => (s, none)
  | (s, some h) =>
    match s.prs.streams.find? (fun x => x.op == j.f 0 1 && x.fmt == j.fmt && x.image.take 64 == h) with
    | none => (s, some none)
    | some x => match s.vread j.ctx (prsUnit e) j.stateVa x.image.length with
      | (s, none) => (s, none)
      | (s, some b) => (s, some (if b == x.image then some x else none))

/-- A job writes its state back: an image of free bytes stands for the stream. -/
def State.saveStream (s : State) (e : Nat) (j : PJob) (x : PStream) : State × Bool :=
  let (k, s) := s.free 43
  let (img, s) := s.freeBytes 43 (64 + k % (stateBytes j.fmt - 63))
  let x := { x with ctx := j.ctx, va := j.stateVa, image := img }
  { s with prs := { s.prs with streams := x :: s.prs.streams } }.vwrite j.ctx (prsUnit e) j.stateVa img

/-- A job ends with its result (R429, R430): output, state, status record, counters and events, then the signal. -/
def State.prsFinish (s : State) (e : Nat) (j : PJob) (r : PRes) : State :=
  let resumable := (r.code == 1 || r.code == 2) && j.stateVa != 0
  let rec1 := leBytes 2 r.code ++ leBytes 2 (b2n r.fin + 2 * b2n resumable) ++ leBytes 4 r.check ++ leBytes 8 r.cons ++
    leBytes 8 r.out.length ++ leBytes 8 s.now
  match s.vwrite j.ctx (prsUnit e) (j.f 0x18 8) r.out with
  | (s, false) => s
  | (s, true) =>
    match (if j.stateVa ≠ 0 ∧ r.code < 0x10 then s.saveStream e j r.strm else (s, true)) with
    | (s, false) => s
    | (s, true) => match s.vwrite j.ctx (prsUnit e) (j.f 0x30 8) rec1 with
      | (s, false) => s
      | (s, true) =>
        let p := s.partOf j.ctx
        let s := ((s.count PRS_ENG.JOBS e).countN PRS_ENG.IN_BYTES e r.cons).countN PRS_ENG.OUT_BYTES e r.out.length
        let s := if r.code ≥ 0x10 then s.count PRS_ENG.ERRORS e else if r.code ≠ 0 then s.count PRS_ENG.STOPS e else s
        let s := (s.pmu 0x90 e p r.cons).pmu 0x91 e p r.out.length
        let s := if r.code = 0x13 ∨ r.code = 0x11 then
            (s.raise (if r.code = 0x13 then 0xB1 else 0xB2)).ledger 0x1B 1
              (leBytes 2 r.code ++ leBytes 2 j.ctx ++ leBytes 1 e ++ leBytes 3 0 ++ leBytes 8 j.va)
          else s
        let s := if bit (j.f 2 1) 3 then s.signal (j.f 4 2) (j.f 0x38 8) else s
        (s.prsFree e).donePkt j.sid j.pid

/-- The physical pieces, page by page, of a virtual range: start and length. -/
def State.physSpans (s : State) (e c va n : Nat) : List (Nat × Nat) :=
  (List.range (if n = 0 then 0 else (va % 4096 + n + 4095) / 4096)).filterMap (fun i =>
    let a := if i = 0 then va else va / 4096 * 4096 + 4096 * i
    match (s.translate c a 0 (prsUnit e)).2 with
    | none => none
    | some x => some (x.1, min (va + n) (a / 4096 * 4096 + 4096) - a))

/-- Two of a job's ranges overlap through aliased physical pages, which R423 does not detect. -/
def State.aliased (s : State) (e : Nat) (j : PJob) : Bool :=
  let rs := [(j.f 8 8, j.f 0x10 8), (j.f 0x18 8, j.f 0x20 8), (j.stateVa, if j.stateVa = 0 then 0 else stateBytes j.fmt), (j.f 0x30 8, 32)].map
    (fun r => s.physSpans e j.ctx r.1 r.2)
  (List.range 4).any (fun i => (List.range 4).any (fun k => i < k &&
    (rs.getD i []).any (fun x => (rs.getD k []).any (fun y => overlaps x.1 x.2 y.1 y.2))))

/-- The result of a job whose ranges are aliased is undefined (R423): free output bytes and a free CHECK. -/
def State.undefRes (s : State) (r : PRes) : PRes × State :=
  let (o, s) := s.freeBytes 52 r.out.length
  let (k, s) := s.free 52
  ({ r with out := o, check := k % 2 ^ 32 }, s)

/-- The result of a job whose state area another job used meanwhile is undefined, and can be BAD_STATE (R427). -/
def State.clashRes (s : State) (r : PRes) : PRes × State :=
  let (k, s) := s.free 56
  let (r, s) := s.undefRes r
  (if k % 2 = 0 then { r with code := 0x14, cons := 0, out := [], fin := false } else r, s)

/-- A job's result as it stands: undefined where another job used its state area, or where its ranges are aliased. -/
def State.openRes (s : State) (e : Nat) (j : PJob) (r : PRes) : PRes × State :=
  if j.clash then s.clashRes r else if s.aliased e j then s.undefRes r else (r, s)

/-- PRESS_JOB_END: the job on engine `e` has run: its input is read, coded, and its end is written (R424 to R430). -/
def execPressJobEnd (e : Nat) (s : State) : Host.Outcome State Fault Refusal :=
  match s.prs.jobs.get? e with
  | none => .next s
  | some j =>
    if !s.ctxActive j.ctx then .next s
    else match s.vread j.ctx (prsUnit e) (j.f 8 8) (j.f 0x10 8) with
      | (s, none) => .next s
      | (s, some inp) =>
        let fresh : PStream := { ctx := j.ctx, va := j.stateVa, op := j.f 0 1, fmt := j.fmt, inp := [], out := [] }
        match (if j.resume then s.loadStream e j else (s, some (some fresh))) with
        | (s, none) => .next s
        | (s, some none) => .next (s.prsFinish e j { code := 0x14, cons := 0, out := [], fin := false, check := 0, strm := fresh })
        | (s, some (some x)) =>
          let (r, s) := if x.op = 1 then s.decompress x inp (j.f 0x20 8) j.ratio else s.compress x inp (j.f 0x20 8) j.ending
          let (r, s) := s.openRes e j r
          .next (s.prsFinish e j r)

/-! ### Teardown and reset (R85, R431, R662) -/

/-- The Press lets go of a context's work: the Tallies of its started jobs are to be poisoned. -/
def State.prsTeardown (s : State) (c : Nat) : State × List Nat :=
  [0, 1, 2, 3].foldl (fun (r : State × List Nat) e =>
    match r.1.prs.jobs.get? e with
    | some j => if j.ctx = c then (r.1.prsFree e, r.2 ++ if bit (j.f 2 1) 3 then [j.f 4 2] else []) else r
    | none => match r.1.fe.copies.get? e with
      | some (_, _, x) => if x = c then (r.1.prsFree e, r.2) else r
      | none => r) (s, [])

/-- The contexts with work on the Press. -/
def State.prsCtxs (s : State) : List Nat :=
  ((s.prs.jobs.map (fun j => j.2.ctx)) ++ (s.fe.copies.map (fun x => x.2.2.2))).eraseDups

end Sys2Proof.Machine
end

