-- ==== Sys2Proof/Machine/MemCmds.lean ====
section
/-! DEFINITION. The commands of the memory system (chapter 17): the end of a Sweep job, scrubbing, the stacks' sensors, L2
maintenance, and the handover of an L2 way (R79). -/

namespace Sys2Proof.Machine

/-! ### The Sweep -/

/-- Where a claim or an ALLOC came from: FE_CLAIM, or its queue. -/
def SweepJob.source (j : SweepJob) : Option (Option Nat) := match j.done with
  | .part _ => none
  | .claim _ _ _ true _ _ => some none
  | .claim _ _ _ false q _ => some (some q)
  | .alloc _ q _ _ _ _ => some (some q)

/-- Job `j` waits for job `k`: `k` was accepted before it, and both are claims of one source or their ranges overlap (R93,
R477). -/
def SweepJob.waitsFor (j k : SweepJob) : Bool :=
  k.id < j.id && ((j.source.isSome && j.source == k.source) || (j.lo < k.hi && k.lo < j.hi))

/-- SWEEP_JOB_DONE: a job that waits for no other has zeroed its range; what it was for happens, and waiting ranges take jobs
(R93, R475, R476). -/
def execSweepJobDone (id : Nat) (s : State) : Host.Outcome State Fault Refusal :=
  match s.mem.jobs.find? (fun j => j.id == id && !(s.mem.jobs ++ s.mem.waitParts ++ s.mem.waitJobs).any j.waitsFor) with
  | none => .next s
  | some j =>
    let s := s.sweepZero j
    let s := [0, 1, 2, 3].foldl (fun s m => s.pmu 0x42 m 8 ((j.hi - j.lo) / 512)) s
    let s := { s with mem := { s.mem with jobs := s.mem.jobs.filter (fun k => k.id != id) } }
    let s := (s.sweepTake 64).clearSync
    match j.done with
    | .part _ => .next s
    | .claim t v pages reg sid pid =>
      let s := s.countN FE_CLAIM.CLAIMED 0 pages
      let s := if reg then s.fl FE_CLAIM.BUSY 0 false
        else (s.updStrm sid (fun st => if st.waitPid = some pid then { st with waitPid := none } else st)).donePkt sid pid
      .next (s.signal t v)
    | .alloc _ sid pid c res va =>
      let s := s.updStrm sid (fun st => if st.waitPid = some pid then { st with waitPid := none } else st)
      if !s.ctxActive c then .next (s.donePkt sid pid)
      else match s.vwrite c 60 res (leBytes 8 va) with
        | (s, true) => .next (s.donePkt sid pid)
        | (s, false) => .next s

/-! ### Scrubbing and errors in stored data -/

/-- A corrected error of a unit counts toward CORR_LIMIT of its operating hour, which starts a test (R606). -/
def State.corrCount (s : State) (typ unit : Nat) : State :=
  let key := 64 * typ + unit
  let hour := s.rd LDG_TIME.OPSEC / 3600
  let n := match s.asy.corr.get? key with
    | some (h, n) => if h = hour then n + 1 else 1
    | none => 1
  let s := { s with asy := { s.asy with corr := s.asy.corr.put key (hour, n) } }
  if n = s.rd ASY_CFG.CORR_LIMIT + 1 then s.askTest typ unit 0xC1 0 else s

/-- PATROL_SCRUB: patrol scrub reads line `L`; `lo` and `hi` name the symbols of its two codewords that upsets have
changed since they were read last. A corrected codeword is written back (R465, R471, R474); an uncorrectable one is a read
that no context is responsible for (R467). -/
def execPatrolScrub (L lo hi : Nat) (s : State) : Host.Outcome State Fault Refusal :=
  if ¬ s.on MC_SCRUB_CFG.EN ∨ s.rd MC_STATUS.TRAIN (stackOf L) ≠ 2 ∨ L * 128 ≥ s.hbmBytes then .next s
  else
    let put (up : NMap Nat) (cw m : Nat) : NMap Nat :=
      let v := ((up.get? cw).getD 0) ||| m % 2 ^ 36
      if v = 0 then up else up.put cw v
    let s := { s with mem := { s.mem with upsets := put (put s.mem.upsets (2 * L) lo) (2 * L + 1) hi } }
    let (s, e) := s.mcCheck L 3 true
    .next (if e = 0 then s else s.uncorrShared)

/-- An uncorrectable error in a memory of a unit: the context that owns the data faults with MEM_UNCORR and the Assayer
tests the unit (R470, R606); the Ledger records it (R619). -/
def State.unitUncorr (s : State) (typ unit owner c eng : Nat) : State :=
  let (n, s) := s.incident 2 owner 0xC2
  let s := s.ledger 0x12 2 (leBytes 8 n ++ leBytes 8 (2 + unit * 0x100 + typ * 0x10000) ++ leBytes 32 0)
  (s.ctxFault c 0x90 n eng).askTest typ unit 0xC2 n

/-- A read of a memory under SECDED or parity meets an error (R469, R470, R472): `kind` 5 the vector registers and 6 the shared pool
of a core of cluster `unit`, 7 line `at_` of an instruction cache, 8 a memory of the shared logic, 9 the entry for address `at_` of the
translation cache of requester `unit`, 10 the walk cache's entries for it. -/
def State.readError (s : State) (kind unit res at_ c : Nat) : State :=
  if kind = 5 ∨ kind = 6 then
    if !s.present 1 unit then s
    else if res = 1 then s.corrCount 0 unit
    else s.unitUncorr 0 unit (s.incOwner FE_PART.CLUSTERS unit) c unit
  else if kind = 7 then
    if res = 1 then s
    else { s with sh := { s.sh with icache := s.sh.icache.filter (fun l => !(l.cluster == unit && l.ctx == c && l.key == at_)) } }
  else if kind = 8 then (if res = 1 then s else s.uncorrShared)
  else if kind = 9 then
    { s with mmu := { s.mmu with tlb := s.mmu.tlb.filter (fun e => !(e.eng == unit && e.ctx == c && e.va ≤ at_ && at_ < e.va + e.size)) } }
  else if kind = 10 then { s with mmu := { s.mmu with walks := s.mmu.walks.filter (fun w => w.ctx != c) } }
  else s

/-- SRAM_SCRUB: a scrubber has read its memory (R472, R469): `kind` 0 an L2 slice, 1 Beam, 2 Spool, 3 Bolt, 4 the Carder
store; or a memory that no scrubber reads was read, kinds 5 to 10 of `State.readError` (log entry 80). `res` is 0 no error, 1
corrected, 2 uncorrectable; `at_` names the L2 line, and `c` the context that owns the data in error. -/
def execSramScrub (kind unit res at_ c : Nat) (s : State) : Host.Outcome State Fault Refusal :=
  if res = 0 ∨ res > 2 then .next s
  else if kind = 0 then
    match s.mem.l2.get? at_ with
    | none => .next s
    | some l =>
      let sl := sliceOf (bits at_ 0 41)
      if sl ≠ unit then .next s
      else if res = 1 then .next (s.count L2_SLICE_CTR.CORR sl)
      else if l.dirty = 0 then .next ((s.dropLine at_).count L2_SLICE_CTR.CORR sl)
      else
        let s := (s.dropLine at_).count L2_SLICE_CTR.UNCORR sl
        let s := s.ledger 0x12 2 (leBytes 8 0 ++ leBytes 8 (1 + sl * 0x100) ++ leBytes 32 0)
        .next (if bits at_ 41 2 = 3 then s.raise 0xC2 else (s.poisonLine (bits at_ 0 41)).raise 0xC2)
  else if kind ≤ 3 then
    if !s.present 3 unit then .next s
    else if res = 1 then .next (s.corrCount 1 unit)
    else .next (s.unitUncorr 1 unit (s.incOwner FE_PART.LOOMS unit) c (48 + unit))
  else if kind = 4 then
    if !s.present 0xC 0 then .next s
    else if res = 1 then .next (s.corrCount 4 0)
    else .next (s.unitUncorr 4 0 8 c 63)
  else .next (s.readError kind unit res at_ c)

/-! ### The stacks -/

/-- A monitor action that makes the device enter OFF as R590 does, without the flash writes: FAULT_N is held, the tick
stops, every wake source is ignored (R596). Everything but the always-on domain is powered off. -/
def State.monitorOff (s : State) : State :=
  let s := { s with saf := { s.saf with causes := if s.saf.causes.contains 3 then s.saf.causes else 3 :: s.saf.causes },
                    pwr := { s.pwr with off := true, monOff := true, entry := none },
                    tick := { s.tick with run := false }, fe := { s.fe with run := false } }
  let s := s.wr PWR_DOMAIN.HBM_SR 0 0xF
  s.safUpdate

/-- A record of a monitor or watchdog (R619): severity 3 where it names FAULT_N (R620); the fault collection unit writes
it. The spec gives the monitors no unit numbers, and a watchdog or a stopped clock no reading: free values. -/
def State.monRec (s : State) (inc kind : Nat) (unit value : Option Nat) (faultN : Bool) : State :=
  let (u, s) := match unit with
    | some u => (leBytes 2 u, s)
    | none => s.freeBytes 48 2
  let (v, s) := match value with
    | some v => (leBytes 8 v, s)
    | none => s.freeBytes 47 8
  s.ledger 0x15 (if faultN then 3 else 0) (leBytes 8 inc ++ leBytes 2 kind ++ u ++ leBytes 4 0 ++ v) true

/-- A code's condition of R533 begins or ends. -/
def State.emcyCond (s : State) (code : Nat) (b : Bool) : State :=
  let l := s.saf.emcyConds.filter (· != code)
  { s with saf := { s.saf with emcyConds := if b then code :: l else l } }

/-- HBM_TEMP_READ: MC `m` reads its stack at `t` °C, an 8-bit signed number: MC_HBM_HOT at 95 °C and above (R463), OFF
at 105 °C (R596). -/
def execHbmTempRead (m t : Nat) (s : State) : Host.Outcome State Fault Refusal :=
  if m ≥ 4 ∨ s.rd MC_STATUS.TRAIN m ≠ 2 then .next s
  else
    let s := s.wr MC_STATUS.TEMP m t
    let c := toSigned 8 t
    let was := s.pwr.hot.contains m
    let s := { s with pwr := { s.pwr with hot := if c ≥ 95 then (if was then s.pwr.hot else m :: s.pwr.hot) else s.pwr.hot.filter (· != m) } }
    let s := if c ≥ 95 ∧ ¬ was then
        ((s.raise 0xC4).emcyCond 0x4210 true).emcy 0x4210 0xC4 s.lastInc
      else if s.pwr.hot.isEmpty ∧ toSigned 8 (s.rd PWR_LEVEL.TJ) < 105 then (s.emcyCond 0x4210 false).emcyClear
      else s
    .next (if c ≥ 105 ∧ ¬ s.pwr.monOff then
        ((s.fl SAF_STATUS.TMON 0 true).monRec 0 6 none (some t) true).monitorOff
      else s)

/-- EYE_RECENTRE: the MC re-centres the data eyes of a pseudo-channel; requests to it wait for at most 2 µs (R463), which
is time alone. -/
def execEyeRecentre (_m _pc : Nat) (s : State) : Host.Outcome State Fault Refusal := .next s

/-! ### L2 maintenance (R481, R482) -/

/-- MAINT_BUSY follows the register operation and the handovers that the device runs itself. -/
def State.l2Sync (s : State) : State := s.fl L2_STATUS.MAINT_BUSY 0 (s.on L2_MAINT.BUSY || !s.mem.ways.isEmpty)

/-- A line lies in the scope of the committed operation. -/
def State.maintCovers (s : State) (key : Nat) (l : L2Line) : Bool :=
  let L := bits key 0 41
  if s.rd L2_MAINT.SCOPE = 0 then s.rd L2_MAINT.PA ≤ key && key < s.rd L2_MAINT.PA + s.rd L2_MAINT.LINES
  else if s.rd L2_MAINT.SCOPE = 1 then
    (s.rd L2_MAINT.SLICE == 0xFF || s.rd L2_MAINT.SLICE == sliceOf L) && bit (s.rd L2_MAINT.WAYS) l.way &&
    s.rd L2_MAINT.SET_BASE ≤ setOf L && setOf L ≤ s.rd L2_MAINT.SET_LAST
  else true

/-- Clean (0), invalidate (1) or clean and invalidate (2) every line that `p` selects. -/
def State.maintLines (s : State) (op : Nat) (p : Nat → L2Line → Bool) : State :=
  let ks := (s.mem.l2.filter (fun x => p x.1 x.2)).map (·.1)
  ks.foldl (fun s k => if op = 0 then s.cleanLine k else if op = 1 then s.dropLine k else s.evictLine k) s

/-- A GO write of L2_MAINT: ignored while an operation runs; else the committed operation visits its lines. -/
def State.maintGo (s : State) (op : Nat) : State :=
  if s.on L2_MAINT.BUSY then s.cfgErr .l2 0x128
  else if s.rd L2_MAINT.OP ≠ op then s
  else ((s.maintLines op s.maintCovers).fl L2_MAINT.BUSY 0 true).l2Sync

/-- L2_CLEAN: a GO with OP = 0. -/
def execL2Clean (s : State) : Host.Outcome State Fault Refusal :=
  s.hostDo .l2 (fun s => .next (s.maintGo 0))
/-- L2_INVALIDATE: a GO with OP = 1. -/
def execL2Invalidate (s : State) : Host.Outcome State Fault Refusal :=
  s.hostDo .l2 (fun s => .next (s.maintGo 1))
/-- L2_CLEAN_INVALIDATE: a GO with OP = 2. -/
def execL2CleanInvalidate (s : State) : Host.Outcome State Fault Refusal :=
  s.hostDo .l2 (fun s => .next (s.maintGo 2))

/-- L2_MAINT_DONE: every write-back is acknowledged: BUSY clears and TALLY is signalled (R481). -/
def execL2MaintDone (s : State) : Host.Outcome State Fault Refusal :=
  if s.on L2_MAINT.BUSY then
    let s := (s.fl L2_MAINT.BUSY 0 false).l2Sync
    .next (if s.on L2_MAINT.TALLY_EN then s.signal (s.rd L2_MAINT.TALLY) (s.rd L2_MAINT.VALUE) else s)
  else .next s

/-- L2_WAY_HANDOVER: way `w` is cleaned and invalidated in every slice and goes to its new owner (R79). -/
def execL2WayHandover (w : Nat) (s : State) : Host.Outcome State Fault Refusal :=
  if s.mem.ways.any (fun x => x.1 == w) then
    let s := s.maintLines 2 (fun _ l => l.way == w)
    .next ({ s with mem := { s.mem with ways := s.mem.ways.filter (fun x => x.1 != w) } }.clearSync.l2Sync)
  else .next s

end Sys2Proof.Machine
end

