-- ==== Sys2Proof/Machine/LedgerCmds.lean ====
section
/-! DEFINITION. The Ledger (chapter 24): appending, merging and overwriting records, the flash mirror, clears and
freezes. -/

namespace Sys2Proof.Machine

/-- Bytes of the ring. -/
def ldgBytes : Nat := 0x40000

/-- The bytes of a record (R617); a PAD has no body. -/
def LEnt.image (e : LEnt) : List Byte :=
  let h := leBytes 2 e.typ ++ leBytes 1 e.len ++ leBytes 1 e.flags ++ leBytes 2 e.rep ++
    leBytes 2 (if e.typ = 0 then 0 else e.seq) ++ leBytes 4 e.opsec ++ leBytes 3 e.pcyc ++ leBytes 1 0
  if e.typ = 0 then h else h ++ leBytes 8 e.time ++ e.body

/-- Change the Ledger. -/
def State.updLdg (s : State) (f : Ledger → Ledger) : State := { s with ldg := f s.ldg }

/-- LDG_TAIL names the oldest record, HEAD where the ring is empty (R622). -/
def State.tailSync (s : State) : State :=
  s.wr LDG_TAIL.OFFSET 0 (match s.ldg.ring with
    | [] => s.rd LDG_HEAD.OFFSET
    | e :: _ => e.off)

/-- Two byte ranges of the ring meet. -/
def LEnt.meets (e : LEnt) (o n : Nat) : Bool := e.off < o + n && o < e.off + 8 * e.len

/-- The records that a write of `[o, o + n)` overlaps go; a record that starts where HEAD then stands goes too, since the
ring would read as empty (R622). -/
def State.ldgMake (s : State) (o n : Nat) : State :=
  let gone := s.ldg.ring.filter (fun e => e.meets o n || e.off == (o + n) % ldgBytes)
  let s := gone.foldl (fun s e =>
    let s := s.count LDG_CTR.OVERWRITTEN
    if e.typ = 0 || e.mirrored then s
    else
      let s := (s.count LDG_CTR.LOST).raise 0x542
      s.updLdg (fun l => { l with gapLost := l.gapLost + 1, gapFirst := if l.gapLost = 0 then e.seq else l.gapFirst })) s
  s.updLdg (fun l => { l with ring := l.ring.filter (fun e => !(e.meets o n || e.off == (o + n) % ldgBytes)) })

/-- An entry takes its place at HEAD. -/
def State.ldgPlace (s : State) (e : LEnt) : State :=
  let o := s.rd LDG_HEAD.OFFSET
  let s := s.ldgMake o (8 * e.len)
  let e := { e with off := o }
  let s := s.updLdg (fun l => { l with ring := l.ring ++ [e], bytes := l.bytes.write o (e.image.take (8 * e.len)) })
  (s.wr LDG_HEAD.OFFSET 0 ((o + 8 * e.len) % ldgBytes)).tailSync

/-- A new record (R622, R623): a PAD fills the end of the ring where the record does not fit. -/
def State.ldgOpen (s : State) (r : LRec) : State :=
  let n := (24 + r.body.length + 7) / 8 * 8
  let o := s.rd LDG_HEAD.OFFSET
  let opsec := s.rd LDG_TIME.OPSEC
  let pcyc := s.rd LDG_TIME.PCYC
  let s := if o + n > ldgBytes then
      s.ldgPlace { off := o, typ := 0, len := (ldgBytes - o) / 8, flags := 0, rep := 1, seq := 0, opsec := opsec,
                   pcyc := pcyc, time := 0, body := [], changed := s.now }
    else s
  let q := s.rd LDG_SEQ.SEQ
  let s := s.ldgPlace { off := 0, typ := r.typ, len := n / 8, flags := r.sev + (if r.fcu then 4 else 0), rep := 1, seq := q,
                        opsec := opsec, pcyc := pcyc, time := r.time, body := r.body, changed := s.now }
  let s := (s.wr LDG_SEQ.SEQ 0 (q + 1)).count LDG_CTR.RECORDS
  if r.sev ≥ s.rd LDG_CFG.IRQ_SEV then s.raise 0x541 else s

/-- A MIRROR_GAP record comes before the next record after a loss (R622). -/
def State.ldgGap (s : State) : State :=
  if s.ldg.gapLost = 0 then s
  else
    let b := leBytes 8 s.ldg.gapLost ++ leBytes 8 s.ldg.gapFirst
    (s.updLdg (fun l => { l with gapLost := 0 })).ldgOpen { typ := 4, sev := 2, time := s.now, body := b }

/-- The last record of the ring takes an occurrence (R621). -/
def State.ldgMerges (s : State) (r : LRec) : Bool :=
  match s.ldg.ring.getLast? with
  | none => false
  | some e => e.typ == r.typ && 8 * e.len == (24 + r.body.length + 7) / 8 * 8 && e.flags == r.sev + (if r.fcu then 4 else 0) &&
      e.pcyc == s.rd LDG_TIME.PCYC && e.body == r.body && !e.mirrored && e.rep < 65535

/-- An event is counted in place of its record while the ring is frozen (R629). -/
def State.ldgMiss (s : State) (r : LRec) : State :=
  let s := s.count LDG_CTR.MISSED
  s.updLdg (fun l =>
    let known := l.fzTypes.any (fun t => t.1 == r.typ)
    { l with
      fzFirst := if l.fzMissed = 0 then r.time else l.fzFirst, fzLast := r.time, fzMissed := l.fzMissed + 1,
      fzSev := l.fzSev.set r.sev (l.fzSev.getD r.sev 0 + 1),
      fzTypes := if known then l.fzTypes.map (fun t => if t.1 = r.typ then (t.1, t.2 + 1) else t)
        else if l.fzTypes.length < 16 then l.fzTypes ++ [(r.typ, 1)] else l.fzTypes,
      fzOther := if !known && l.fzTypes.length ≥ 16 then l.fzOther + 1 else l.fzOther })

/-- One occurrence: missed, merged, or a new record. -/
def State.ldgTake (s : State) (r : LRec) : State :=
  if s.on LDG_STATUS.FROZEN then s.ldgMiss r
  else if s.ldgMerges r then
    let s := s.count LDG_CTR.REPEATS
    s.updLdg (fun l => match l.ring.getLast? with
      | none => l
      | some e =>
        let e := { e with rep := e.rep + 1, time := r.time, changed := s.now }
        { l with ring := l.ring.dropLast ++ [e], bytes := l.bytes.write e.off e.image })
  else s.ldgGap.ldgOpen r

/-- Foreman B runs, from step 6 of bring-up or from the recovery program (R559, R565). -/
def State.foremanB (s : State) : Bool :=
  (s.rd RST_BOOT_STEP.STATE 6 == 2 || (s.on RST_BOOT_CTL.RECOVERY && 2 ≤ s.rd RST_BOOT_STEP.STATE 2)) && !s.pwr.off &&
  s.rd PWR_STATUS.STATE != 2

/-- LEDGER_APPEND: the next waiting event reaches the ring; of those of one always-on clock the fault collection unit's
first (R618). Foreman B's events wait while it does not run. -/
def execLedgerAppend (s : State) : Host.Outcome State Fault Refusal :=
  match s.ldg.wait.filter (fun r => r.fcu || s.foremanB) with
  | [] => .next s
  | r :: rest =>
    let x := ((r :: rest).find? (fun x => x.fcu && x.time == r.time)).getD r
    .next ((s.updLdg (fun l => { l with wait := l.wait.erase x })).ldgTake x)

/-! ### The flash mirror (R625 to R627) -/

/-- A record may be mirrored now: a newer one follows it, or it has stayed unchanged for MIRROR_HOLD_MS, or `all`. -/
def State.settled (s : State) (all : Bool) (e : LEnt) : Bool :=
  all || s.ldg.ring.getLast? != some e || e.changed + s.rd LDG_CFG.MIRROR_HOLD_MS * 1000000 ≤ s.now

/-- Record `e` has been written to the flash. -/
def State.mirrored (s : State) (e : LEnt) : State :=
  let s := s.updLdg (fun l => { l with
    ring := l.ring.map (fun x => if x = e then { x with mirrored := true } else x),
    flash := if e.typ = 1 then [e] else l.flash ++ [e], flashSeq := e.seq + 1 })
  s.wr LDG_MIRRORED.OFFSET 0 ((e.off + 8 * e.len) % ldgBytes)

/-- The next record to mirror, in record order. -/
def State.nextMirror (s : State) (all : Bool) : Option LEnt :=
  match s.ldg.ring.find? (fun e => e.typ != 0 && !e.mirrored) with
  | some e => if s.settled all e then some e else none
  | none => none

/-- A write of the mirror failed (R626). -/
def State.mirrorErr (s : State) : State := (s.count LDG_CTR.MIRROR_ERR).raise 0x543

/-- MIRROR_WRITE: the next settled record is written to the LEDGER partition; a write that fails is tried again on the
next sector (R625, R626). -/
def execMirrorWrite (ok : Bool) (s : State) : Host.Outcome State Fault Refusal :=
  match s.nextMirror false with
  | none => .next s
  | some e => .next (if ok then s.mirrored e else s.mirrorErr)

/-- The Ledger state area takes the present values (R626). -/
def State.areaWrite (s : State) : State :=
  { s with area := { s.area with
      seq := s.area.seq + 1, opsec := s.rd LDG_TIME.OPSEC, pcyc := s.rd LDG_TIME.PCYC, nextInc := s.rd LDG_INCIDENT.NEXT,
      downUs := s.rd SAF_CTR.DOWN_US, lastWrite := s.rd LDG_TIME.OPSEC } }

/-- STATE_AREA_WRITE: the older copy of the state area is overwritten (R626). -/
def execStateAreaWrite (ok : Bool) (s : State) : Host.Outcome State Fault Refusal :=
  .next (if ok then s.areaWrite else s.mirrorErr)

/-- Every record is mirrored at once (R590). -/
def State.mirrorAll : (fuel : Nat) → State → State
  | 0, s => s
  | f + 1, s => match s.nextMirror true with
    | none => s
    | some e => State.mirrorAll f (s.mirrored e)

/-- The newest mirrored records that fit in the ring (R627). -/
def reloadFit : (room : Nat) → List LEnt → List LEnt
  | _, [] => []
  | room, e :: r => if 8 * e.len < room then e :: reloadFit (room - 8 * e.len) r else []

/-- The ring is loaded anew from the mirror at power-on with the records that follow CLEARED (R627); record numbers go on, and
records that the fault collection unit has appended since follow. -/
def State.ldgReload (s : State) : State :=
  let es := (reloadFit ldgBytes (s.ldg.flash.reverse.filter (fun e => e.typ != 1))).reverse
  let old := s.ldg.ring
  let (es, o) := es.foldl (fun (p : List LEnt × Nat) e => (p.1 ++ [{ e with off := p.2, mirrored := true }], p.2 + 8 * e.len)) ([], 0)
  let s := s.updLdg (fun l => { l with ring := es, bytes := es.foldl (fun m e => Memory.write m e.off e.image) [] })
  let s := s.wr LDG_SEQ.SEQ 0 s.ldg.flashSeq
  let s := ((s.wr LDG_HEAD.OFFSET 0 o).wr LDG_MIRRORED.OFFSET 0 o).tailSync
  old.foldl (fun s e => s.ldgTake { typ := e.typ, sev := e.flags % 4, fcu := bit e.flags 2, time := e.time, body := e.body }) s

/-! ### Clear and freeze (R628 to R630) -/

/-- A request of agent `who` (0 PF, 1 mailbox, 2 CAN) is refused while another agent holds a freeze (R630). -/
def State.ldgRefused (s : State) (who : Nat) : Bool := s.on LDG_STATUS.FROZEN && s.rd LDG_STATUS.OWNER != who

/-- The answer of a refused request: CFG_ERR for the PF, an abort code through the dictionary. -/
def State.ldgRefuse (s : State) (who : Nat) : State × Nat := if who = 0 then (s.cfgErr .ldg 8, 0) else (s, 0x08000022)

/-- A clear (R628): every record goes, the CLEARED record is written, and what waits follows it. -/
def State.ldgClear (s : State) (who node : Nat) : State × Nat :=
  if s.ldgRefused who then s.ldgRefuse who
  else
    let n := (s.ldg.ring.filter (fun e => e.typ != 0)).length
    let s := (s.updLdg (fun l => { l with ring := [], flash := [] })).tailSync
    let s := s.ldgTake { typ := 1, sev := 0, time := s.now, body := leBytes 1 who ++ leBytes 1 node ++ leBytes 6 0 ++ leBytes 8 n }
    (s.raise 0x545, 0)

/-- A freeze (R629). -/
def State.ldgFreeze (s : State) (who : Nat) : State × Nat :=
  if s.ldgRefused who then s.ldgRefuse who
  else if s.on LDG_STATUS.FROZEN then (s, 0)
  else
    let s := (s.fl LDG_STATUS.FROZEN 0 true).wr LDG_STATUS.OWNER 0 who
    (s.updLdg (fun l => { l with fzFirst := 0, fzLast := 0, fzSev := [0, 0, 0, 0], fzTypes := [], fzOther := 0, fzMissed := 0,
                                 fzSince := s.now }), 0)

/-- The freeze ends: the summary is written (R629). -/
def State.ldgThaw (s : State) : State :=
  if !s.on LDG_STATUS.FROZEN then s
  else
    let l := s.ldg
    let b := leBytes 8 l.fzMissed ++ leBytes 8 l.fzFirst ++ leBytes 8 l.fzLast ++ l.fzSev.flatMap (leBytes 4) ++
      leBytes 4 l.fzOther ++ leBytes 4 0 ++ l.fzTypes.flatMap (fun t => leBytes 2 t.1 ++ leBytes 2 0 ++ leBytes 4 t.2)
    ((s.fl LDG_STATUS.FROZEN 0 false).wr LDG_STATUS.OWNER 0 0).ldgTake { typ := 2, sev := 0, time := s.now, body := b }

/-- An unfreeze by agent `who`. -/
def State.ldgUnfreeze (s : State) (who : Nat) : State × Nat :=
  if s.ldgRefused who then s.ldgRefuse who else (s.ldgThaw, 0)

/-- LEDGER_CLEAR by agent `who`: the PF's LDG_CTL.CLEAR needs KEY = 0x5A, the dictionary's its signature; `node` is a CAN
client's node-ID (R628). -/
def execLedgerClear (who node key : Nat) (s : State) : Host.Outcome State Fault Refusal :=
  if who > 2 ∨ (who = 0 ∧ ¬ s.winUp .ldg) then .next s
  else if who = 0 then .next (if key = 0x5A then (s.ldgClear 0 0).1 else s.cfgErr .ldg 8)
  else if key ≠ 0x65706977 then .next { s with rdata := 0x06090030 }
  else
    let r := s.ldgClear who (if who = 2 then node else 0)
    .next { r.1 with rdata := r.2 }

/-- LEDGER_FREEZE by agent `who` (R629, R630). -/
def execLedgerFreeze (who : Nat) (s : State) : Host.Outcome State Fault Refusal :=
  if who > 2 ∨ (who = 0 ∧ ¬ s.winUp .ldg) then .next s
  else
    let r := s.ldgFreeze who
    .next { r.1 with rdata := r.2 }

/-- LEDGER_UNFREEZE by agent `who`. -/
def execLedgerUnfreeze (who : Nat) (s : State) : Host.Outcome State Fault Refusal :=
  if who > 2 ∨ (who = 0 ∧ ¬ s.winUp .ldg) then .next s
  else
    let r := s.ldgUnfreeze who
    .next { r.1 with rdata := r.2 }

/-- FREEZE_TIMEOUT: a freeze ends after FREEZE_MS and LDG_FREEZE_TIMEOUT is raised. -/
def execFreezeTimeout (s : State) : Host.Outcome State Fault Refusal :=
  if s.on LDG_STATUS.FROZEN ∧ s.ldg.fzSince + s.rd LDG_CFG.FREEZE_MS * 1000000 ≤ s.now then
    .next (s.ldgThaw.raise 0x544)
  else .next s

end Sys2Proof.Machine
end

