-- ==== Sys2Proof/Machine/Intc.lean ====
section
/-! DEFINITION. The interrupt controller's commands (chapter 19): claims, masks, moderation, software sources. -/

namespace Sys2Proof.Machine

/-- The source numbers that R505, R506 and the chapters they name assign. -/
def srcExists (n : Nat) : Bool :=
  (1 ≤ n && n ≤ 7) || (0x10 ≤ n && n ≤ 0x13) || n == 0x1F || (0x20 ≤ n && n ≤ 0x25) || n == 0x2F || (0x30 ≤ n && n ≤ 0x37) ||
  n == 0x3F || (0x40 ≤ n && n ≤ 0x4B) || n == 0x5F || (0x60 ≤ n && n ≤ 0x64) || n == 0x6F || (0x70 ≤ n && n ≤ 0x72) || n == 0x7F ||
  n == 0x80 || (0x90 ≤ n && n ≤ 0x96) || n == 0x9F || n == 0xA0 || (0xB0 ≤ n && n ≤ 0xB2) || n == 0xBF || (0xC0 ≤ n && n ≤ 0xC5) ||
  n == 0xCF || (0xD0 ≤ n && n ≤ 0xD1) || n == 0xDF || (0xE0 ≤ n && n ≤ 0xE4) || n == 0xEF ||
  (0x100 ≤ n && n < 0x1C0 && (n % 16 ≤ 2 || n % 16 == 15)) || (0x200 ≤ n && n < 0x500 && (n % 16 ≤ 1 || n % 16 == 15)) ||
  (0x500 ≤ n && n ≤ 0x506) || n == 0x50F || (0x510 ≤ n && n < 0x530 && n % 8 ≤ 4) || (0x540 ≤ n && n ≤ 0x545) || n == 0x55F ||
  (0x560 ≤ n && n ≤ 0x568) || n == 0x57F || (0x580 ≤ n && n ≤ 0x583) || (0x600 ≤ n && n ≤ 0x6FF)

/-- Target `t` (0 and 1 the harts, 2 + k host target k) is in the mask of source `n`. -/
def State.inMask (s : State) (t n : Nat) : Bool :=
  if t < 2 then bit (s.rd INTC_SRC.FM_MASK n) t else bit (s.rd INTC_SRC.HOST_MASK n) (t - 2)

/-- The pending sources that target `t` can claim, lowest first (R508). -/
def State.claimable (s : State) (t : Nat) : List Nat :=
  (s.regs.filter (fun e => e.1.1 == INTC_SRC.STATE.fid && e.2 == 1 && s.inMask t e.1.2)).map (fun e => e.1.2)

/-- Notify target `t`. -/
def State.notifyTgt (s : State) (t : Nat) : State := s.notifyTgtWith State.linkDrop t

/-- Source `n` becomes pending and notifies every target in its mask. -/
def State.pend (s : State) (n : Nat) : State := s.pendWith State.linkDrop n

/-- SOURCE_DEASSERT: the condition of a level source has ended; a pending source stays pending (R508). -/
def execSourceDeassert (n : Nat) (s : State) : Host.Outcome State Fault Refusal :=
  .next (if srcIsLevel n ∧ ¬ s.levelCond n then s.fl INTC_SRC.ASSERTED n false else s)

/-- INTC_CLAIM: a read of CLAIM by target `t`: the lowest pending source in its mask becomes claimed; 0x7FF where there is
none; MORE in bit 16 (R508). -/
def execIntcClaim (t : Nat) (s : State) : Host.Outcome State Fault Refusal :=
  if t ≥ 66 then .next s
  else if t ≥ 2 ∧ ¬ s.winUp .intc then .next { s with rdata := 0 }
  else match s.claimable t with
    | [] => .next { s with rdata := 0x7FF }
    | n :: r => .next { s.wrs n [(INTC_SRC.STATE, 2), (INTC_SRC.CLAIMANT, t)] with rdata := n + b2n (!r.isEmpty) * 0x10000 }

/-- A claim of source `n` ends (R509). -/
def State.endClaim (s : State) (n : Nat) : State :=
  let s := s.wr INTC_SRC.CLAIMANT n 0
  if srcIsLevel n then
    let on := s.levelCond n
    let s := s.fl INTC_SRC.ASSERTED n on
    if on then s.pend n else s.wr INTC_SRC.STATE n 0
  else if s.on INTC_SRC.REFIRE n then (s.fl INTC_SRC.REFIRE n false).pend n
  else s.wr INTC_SRC.STATE n 0

/-- INTC_COMPLETE: target `t` writes `n` to its COMPLETE: a COMPLETE that is not the claimant's sets CFG_ERR (R509). The
harts' registers have no window offset, so ERR_OFFSET is free there. -/
def execIntcComplete (t n : Nat) (s : State) : Host.Outcome State Fault Refusal :=
  if t ≥ 66 ∨ (t ≥ 2 ∧ ¬ s.winUp .intc) then .next s
  else if n < 2048 ∧ s.rd INTC_SRC.STATE n = 2 ∧ s.rd INTC_SRC.CLAIMANT n = t then .next (s.endClaim n)
  else if t < 2 then
    let (o, s) := s.free 45
    .next (s.cfgErr .intc o)
  else .next (s.cfgErr .intc (0x1010 + 0x20 * (t - 2)))

/-- A RELEASE write for source `n` (R510). -/
def State.release (s : State) (n : Nat) : State :=
  if n ≥ 2048 ∨ s.rd INTC_SRC.STATE n ≠ 2 then s
  else if s.rd INTC_SRC.CLAIMANT n < 2 then s.cfgErr .intc (0x20000 + 0x10 * n)
  else s.endClaim n

/-- INTC_RELEASE: the PF driver ends any claim held by a host target (R510). -/
def execIntcRelease (n : Nat) (s : State) : Host.Outcome State Fault Refusal :=
  s.hostDo .intc (fun s => .next (s.release n))

/-- MASK_WRITE of source `n`: HOST_MASK (`fm` false) from the PF, or FM_MASK, which only Foreman firmware writes, from bring-up
step 6 until step 7 is DONE (R507). A pending source notifies the targets that the write adds (R510). -/
def execMaskWrite (fm pf : Bool) (n value : Nat) (s : State) : Host.Outcome State Fault Refusal :=
  if ¬ srcExists n ∨ (pf ∧ ¬ s.winUp .intc) then .next s
  else if fm then
    if pf then .next (s.cfgErr .intc (0x20000 + 0x10 * n))
    else if s.on RST_BOOT_STEP.STATE 6 ∧ s.rd RST_BOOT_STEP.STATE 7 ≠ 2 then
      let old := s.rd INTC_SRC.FM_MASK n
      let s := s.wr INTC_SRC.FM_MASK n value
      .next (if s.rd INTC_SRC.STATE n = 1 then
          (bitList (s.rd INTC_SRC.FM_MASK n) 2).foldl (fun s t => if bit old t then s else s.notifyTgt t) s
        else s)
    else .next s
  else if pf then
    let old := s.rd INTC_SRC.HOST_MASK n
    let s := s.wr INTC_SRC.HOST_MASK n value
    .next (if s.rd INTC_SRC.STATE n = 1 then
        (bitList (s.rd INTC_SRC.HOST_MASK n) 64).foldl (fun s t => if bit old t then s else s.notifyTgt (t + 2)) s
      else s)
  else .next s

/-! ### Moderation (R511, R512) -/

/-- What moderation entry `m` holds is sent. -/
def State.sendHeld (s : State) (m : Nat) : State := s.sendHeldWith State.linkDrop m

/-- MOD_TIMER: TIMER_US have passed since the first notification that moderation entry `m` (a vector, or 2048 + hart)
holds. -/
def execModTimer (m : Nat) (s : State) : Host.Outcome State Fault Refusal :=
  match s.irq.held.get? m with
  | none => .next s
  | some (_, t) =>
    let timer := if m < 2048 then s.rd INTC_MOD.TIMER_US m else s.rd INTC_FMOD.TIMER_US (m - 2048)
    .next (if timer ≠ 0 ∧ t + timer * 1000 ≤ s.now then s.sendHeld m else s)

/-- IDLE_HINT_SET: the driver sets IDLE_HINT of vector `v`; held notifications go at once (R511). -/
def execIdleHintSet (v : Nat) (s : State) : Host.Outcome State Fault Refusal :=
  s.hostDo .intc (fun s =>
    if v ≥ 2048 then .next s
    else
      let s := s.fl INTC_MOD.IDLE_HINT v true
      .next (if (s.irq.held.get? v).isSome then s.sendHeld v else s))

/-- Entry `v` may send: it is unmasked, and its function's MSI-X is enabled and not masked (R512). -/
def State.entryOpen (s : State) (v : Nat) : Bool :=
  let f := (s.lentTo v).getD 0
  s.bus.unmasked.contains v && s.bus.msixEn.contains f && !s.bus.funcMask.contains f

/-- An entry that may send now sends one message for its pending bit. -/
def State.pbaFlush (s : State) (v : Nat) : State :=
  if s.irq.pba.contains v && s.entryOpen v then
    State.msi { s with irq := { s.irq with pba := s.irq.pba.filter (· != v) } } v
  else s

/-- VECTOR_UNMASK: the mask bit of PF table entry `v` is cleared by function `func` (R50, R512). -/
def execVectorUnmask (func v : Nat) (s : State) : Host.Outcome State Fault Refusal :=
  if v ≥ 2048 ∨ (s.lentTo v).getD 0 ≠ func then .next s
  else
    let s := { s with bus := { s.bus with unmasked := if s.bus.unmasked.contains v then s.bus.unmasked else v :: s.bus.unmasked } }
    .next (s.pbaFlush v)

/-! ### Software sources (R505) -/

/-- The software sources of word `k` follow INTC_SW. -/
def State.swSync (s : State) (k m : Nat) : State := (bitList m 64).foldl (fun s b => s.syncLevel (0x600 + 64 * k + b)) s

/-- SW_SET: a write of INTC_SW[k] asserts the sources whose bits are 1. -/
def execSwSet (k m : Nat) (s : State) : Host.Outcome State Fault Refusal :=
  s.hostDo .intc (fun s => if k ≥ 4 then .next s else .next ((s.wr INTC_SW.SET k (s.rd INTC_SW.SET k ||| m % 2 ^ 64)).swSync k m))

/-- SW_CLR: a write of INTC_SW_CLR[k] deasserts them. -/
def execSwClr (k m : Nat) (s : State) : Host.Outcome State Fault Refusal :=
  s.hostDo .intc (fun s =>
    if k ≥ 4 then .next s
    else
      let v := s.rd INTC_SW.SET k
      .next ((s.wr INTC_SW.SET k (v - (v &&& m))).swSync k m))

end Sys2Proof.Machine
end

