-- ==== Sys2Proof/Machine/Power.lean ====
section
/-! DEFINITION. The power envelope and the performance levels (R26 to R33, R591), and the monitors of voltage, clocks and
temperature (R596). Rail 0 is VDD_CORE, rail 1 VDD_LOOM. -/

namespace Sys2Proof.Machine

/-- The planned voltage of a level of a rail, mV (R611), with what replicas have added since the last measurement. -/
def State.plan (s : State) (r l : Nat) : Nat :=
  bits (if l < 4 then s.rd PWR_AVS.V0_3 r else s.rd PWR_AVS.V4_7 r) (16 * (l % 4)) 16 + (s.pwr.bump.get? (8 * r + l)).getD 0

/-- V_MAX of a level of a rail, mV. -/
def State.vmaxOf (s : State) (r l : Nat) : Nat := bits (s.rd ASY_AGE.VMAX (2 * r + l / 4)) (16 * (l % 4)) 16

/-- The level in force. -/
def State.levelOf (s : State) (r : Nat) : Nat := s.rd PWR_AVS.LEVEL r

/-- Change power control's own state. -/
def State.updPwr (s : State) (f : Pwr → Pwr) : State := { s with pwr := f s.pwr }

/-- A rail's clocks take level `l`: the start-by times are computed anew and the change is traced (R30, R33, R642). -/
def State.setLevel (s : State) (r l : Nat) : State :=
  let s := (if r = 0 then s.wr PWR_LEVEL.CORE 0 l else s.wr PWR_LEVEL.LOOM 0 l).wr PWR_AVS.LEVEL r l
  (s.rtRecompute).trace 10 0xFF r l

/-- The voltage of level `l` is requested of a rail's regulator (R31, R591). -/
def State.askVolt (s : State) (r l : Nat) : State :=
  let s := s.wrs r [(PWR_AVS.VREQ_MV, s.plan r l), (PWR_AVS.PENDING, 1)]
  s.updPwr (fun p => { p with raising := p.raising.put r (l, s.now) })

/-- A rail goes down to level `l`: the clocks first, then the voltage (R31). -/
def State.lowerTo (s : State) (r l : Nat) : State := if l < s.levelOf r then (s.setLevel r l).askVolt r l else s

/-- One level down. -/
def State.lowerOne (s : State) (r : Nat) : State := s.lowerTo r (s.levelOf r - 1)

/-- A POWER record (R619); the spec gives VALUE no contents. -/
def State.powerRec (s : State) (kind : Nat) : State :=
  let (v, s) := s.freeBytes 46 7
  s.ledger 0x19 1 (leBytes 1 kind ++ v)

/-- A Realtime start-by time falls within the next tick, which is demand for either rail (R29). -/
def State.rtSoon (s : State) : Bool :=
  let per := s.rd FE_TICK_CFG.PERIOD_US * 1000
  let t := s.tick.base + per
  s.rtQueues.any (fun q => t ≤ s.startBy q t && s.startBy q t < t + per)

/-- A rail can be raised: it is below its highest level, is not being changed, no clamp holds it, and it has demand (R29,
R596). -/
def State.wantsUp (s : State) (r : Nat) (busy : Bool) : Bool :=
  s.levelOf r < s.rd ASY_AGE.TOP_LEVEL r && !s.on PWR_AVS.PENDING r && !s.on SAF_STATUS.THERMAL_CLAMP &&
  s.pwr.excess.isEmpty && (busy || s.rtSoon)

/-- A raise begins: the higher voltage is requested (R31). -/
def State.raiseOne (s : State) (r : Nat) : State := s.askVolt r (s.levelOf r + 1)

/-- Rail `r` is raised, the count of qualifying intervals starts again, and `second` names the rail that waits for ten more. -/
def State.raiseWith (s : State) (r : Nat) (second : Option Nat) : State :=
  (s.raiseOne r).updPwr (fun p => { p with second := second, below := 0 })

/-- The rails that are raised in an interval that qualifies (R29): of two that qualify the one further below its share first,
the other after ten more intervals. `below` gives how far each is below its share, in units of 1/260 W. DESIGN CHOICE (log entry
56): of two rails equally far below their shares VDD_CORE is first; and every raise starts the count of ten intervals again, for
the rail raised too. -/
def State.raiseStep (s : State) (busy : Nat) (below0 below1 : Int) : State :=
  let w0 := s.wantsUp 0 (bit busy 0)
  let w1 := s.wantsUp 1 (bit busy 1)
  let first := if below0 ≥ below1 then 0 else 1
  if w0 && w1 then
    match s.pwr.second with
    | some r => s.raiseWith r none
    | none => s.raiseWith first (some (1 - first))
  else if w0 then s.raiseWith 0 none
  else if w1 then s.raiseWith 1 none
  else s

/-- No regulator answers: at the tenth interval in a row both rails' clocks go to level 0 and the supply fault is raised
(R591, R600). -/
def State.avsMute (s : State) : State :=
  let n := s.pwr.mute + 1
  let s := s.updPwr (fun p => { p with mute := n, below := 0, second := none })
  if n = 10 then (([0, 1] : List Nat).foldl (fun s r => if s.levelOf r ≠ 0 then s.setLevel r 0 else s) s).routeLevel 7 true else s

/-- The fixed supplies' power and the highest junction temperature of the interval, and EMCY 0x4210 as the temperature crosses
105 °C (R28, R533). -/
def State.tjReport (s : State) (fixed tj : Nat) : State :=
  let hot0 := toSigned 8 (s.rd PWR_LEVEL.TJ) > 105
  let s := (s.wr PWR_LEVEL.TJ 0 tj).wr PWR_LEVEL.FIXED_W 0 fixed
  let hot := toSigned 8 tj > 105
  if hot ∧ ¬ hot0 then (s.emcyCond 0x4210 true).emcy 0x4210 0 s.lastInc
  else if ¬ hot ∧ s.pwr.hot.isEmpty then (s.emcyCond 0x4210 false).emcyClear
  else s

/-- An interval's reports are taken: the AVSBus answers again, telemetry, power and temperature (R28, R591). -/
def State.avsReport (s : State) (core loom : Tele) (fixed tj : Nat) : State :=
  let s := if s.pwr.mute ≥ 10 then s.routeLevel 7 false else s
  let s := s.updPwr (fun p => { p with mute := 0 })
  let tele (s : State) (r : Nat) (t : Tele) : State :=
    s.wrs r [(PWR_AVS.VOUT_MV, t.mv), (PWR_AVS.IOUT_A, t.amps), (PWR_AVS.POUT_W, t.watts), (PWR_AVS.TEMP, t.temp)]
  let s := tele (tele s 0 core) 1 loom
  (s.wr PWR_LEVEL.PKG_W 0 (core.watts + loom.watts + fixed)).tjReport fixed tj

/-- Rail `r` is being raised and waits for its regulator. -/
def State.rising (s : State) (r : Nat) : Bool := match s.pwr.raising.get? r with
  | some (l, _) => s.levelOf r < l
  | none => false

/-- Rails with a replica below its guard: the voltage of their level goes up by 5 mV and is measured anew (R611). A raise that
waits for its regulator keeps its request (log entry 57). -/
def State.guardRaise (s : State) (guard : Nat) : State :=
  ([0, 1] : List Nat).foldl (fun s r =>
    if bit guard r then
      let l := s.levelOf r
      let s := s.updPwr (fun p => { p with bump := p.bump.put (8 * r + l) ((p.bump.get? (8 * r + l)).getD 0 + 5) })
      { (if s.rising r then s else s.askVolt r l) with asy := { s.asy with lastMeas := 0 } }
    else s) s

/-- The levels go down in an interval that is too hot or over the envelope (R29). -/
def State.levelsDown (s : State) (hot over0 over1 high : Bool) : State :=
  if hot then (s.lowerOne 0).lowerOne 1
  else if high then
    let s := if over0 then s.lowerOne 0 else s
    if over1 then s.lowerOne 1 else s
  else s

/-- CONTROL_INTERVAL: the regulators' reports, the fixed-supply power, the highest junction temperature (8-bit signed), the
rails busy for more than 90 % of the interval, the rails with a replica below its guard, and whether the AVSBus answered
(R28, R29, R591, R611). -/
def execControlInterval (core loom : Tele) (fixed tj busy guard : Nat) (resp : Bool) (s : State) : Host.Outcome State Fault Refusal :=
  if s.rd RST_BOOT_STEP.STATE 6 ≠ 2 ∨ s.pwr.off ∨ s.rd PWR_STATUS.STATE = 2 then .next s
  else
    let hot := toSigned 8 tj > 105 || !s.pwr.hot.isEmpty
    if ¬ resp then .next (((s.tjReport fixed tj).guardRaise guard).levelsDown hot false false false).avsMute
    else
    let p := core.watts + loom.watts + fixed
    let env := s.rd PWR_ENVELOPE.WATTS
    let a := env - fixed
    let s := (s.avsReport core loom fixed tj).guardRaise guard
    let s := s.levelsDown hot (260 * core.watts > a * 110) (260 * loom.watts > a * 150) (p > env)
    if 100 * p < 95 * env then
      let n := s.pwr.below + 1
      let s := s.updPwr (fun p => { p with below := n })
      .next (if n ≥ 10 then
          s.raiseStep busy ((a * 110 : Nat) - (260 * core.watts : Nat) : Int) ((a * 150 : Nat) - (260 * loom.watts : Nat) : Int)
        else s)
    else .next (s.updPwr (fun p => { p with below := 0, second := none }))

/-- No acknowledgement came in 500 µs: the level stays, the miss is counted and PWR_REG_NACK raised (R31). -/
def State.regMiss (s : State) (r : Nat) : State :=
  let s := s.updPwr (fun p => { p with raising := p.raising.del r })
  let s := (s.fl PWR_AVS.PENDING r false).count PWR_AVS.NACKS r
  ((s.raise 0x31).powerRec 2).emcy 0x3100 0x31 s.lastInc

/-- REGULATOR_ACK: the regulator of rail `r` acknowledges its last voltage; a rail being raised takes its clocks. An
acknowledgement later than 500 µs is a miss (R31). -/
def execRegulatorAck (r : Nat) (s : State) : Host.Outcome State Fault Refusal :=
  if r > 1 ∨ ¬ s.on PWR_AVS.PENDING r then .next s
  else match s.pwr.raising.get? r with
    | none => .next (s.wrs r [(PWR_AVS.VACK_MV, s.rd PWR_AVS.VREQ_MV r), (PWR_AVS.PENDING, 0)])
    | some (l, t) =>
      if t + 500000 < s.now then .next (s.regMiss r)
      else
        let s := s.wrs r [(PWR_AVS.VACK_MV, s.rd PWR_AVS.VREQ_MV r), (PWR_AVS.PENDING, 0)]
        let s := s.updPwr (fun p => { p with raising := p.raising.del r })
        .next (if l > s.levelOf r then s.setLevel r l else s)

/-- REGULATOR_ACK_TIMEOUT: 500 µs have passed without an acknowledgement (R31). -/
def execRegulatorAckTimeout (r : Nat) (s : State) : Host.Outcome State Fault Refusal :=
  match s.pwr.raising.get? r with
  | none => .next s
  | some (_, t) => .next (if r > 1 ∨ s.now < t + 500000 then s else s.regMiss r)

/-! ### Monitors (R596) -/

/-- The fault collection unit's record of a monitor that acts with a recovery at level `lvl` (4 for L3, 5 for L4). -/
def State.monIncident (s : State) (lvl : Nat) (value : Option Nat) : State :=
  let (n, s) := s.incident lvl 9 6
  s.monRec n 6 none value false

/-- The nominal voltages of the fixed supplies, mV (R650): VDD_AON, VDD_IO, VDD_PHY, VDDH_PHY, VPP_HBM, VDD_HBM, VDDQ_HBM. -/
def nominalMv : List Nat := [750, 1800, 750, 1200, 1800, 1100, 400]

/-- VOLTAGE_MONITOR: a monitor reads `mv`: `sup` 0 and 1 an adaptive rail, 2 to 8 the fixed supplies in the order of
`nominalMv` (R596). -/
def execVoltageMonitor (sup mv : Nat) (s : State) : Host.Outcome State Fault Refusal :=
  if sup < 2 then
    let l := s.levelOf sup
    if mv > s.vmaxOf sup l + 60 then
      match s.pwr.excess.get? sup with
      | some t => .next (if t + 1000000 ≤ s.now ∧ ¬ s.pwr.monOff then (s.monRec 0 6 none (some mv) true).monitorOff else s)
      | none =>
        let s := { s.updPwr (fun p => { p with excess := p.excess.put sup s.now }) with saf := { s.saf with causes := 2 :: s.saf.causes.filter (· != 2) } }
        let s := ((s.fl SAF_STATUS.VMON 0 true).monRec 0 6 none (some mv) true).safUpdate
        .next ((s.lowerTo 0 0).lowerTo 1 0)
    else
      let s := if (s.pwr.excess.get? sup).isSome then
          let s := s.updPwr (fun p => { p with excess := p.excess.del sup })
          if s.pwr.excess.isEmpty then { s with saf := { s.saf with causes := s.saf.causes.filter (· != 2) } }.safUpdate else s
        else s
      if mv + 60 < s.plan sup l then .next ((s.fl SAF_STATUS.VMON 0 true).monIncident 4 (some mv)) else .next s
  else match nominalMv[sup - 2]? with
    | none => .next s
    | some n =>
      if 20 * mv > 21 * n ∨ 20 * mv < 19 * n then .next ((s.fl SAF_STATUS.VMON 0 true).monIncident 4 (some mv)) else .next s

/-- CLOCK_MONITOR: domain `d` (0 cluster, 1 Loom, 2 fabric, 3 Foreman) counted `n` clocks in 2 µs of the reference clock: off
by more than 2 % or stopped (R596). -/
def execClockMonitor (d n : Nat) (s : State) : Host.Outcome State Fault Refusal :=
  let mhz := if d = 0 then clusterMHz (s.levelOf 0) else if d = 1 then loomMHz (s.levelOf 1)
    else if d = 2 then fabricMHz (s.levelOf 0) else 1200
  let e := 2 * mhz
  if d < 4 ∧ (50 * n > 51 * e ∨ 50 * n < 49 * e) then .next ((s.fl SAF_STATUS.CMON 0 true).monIncident 4 (some n)) else .next s

/-- REFCLK_LOSS: the reference clock has stopped for 1 µs (R596). -/
def execRefclkLoss (s : State) : Host.Outcome State Fault Refusal :=
  .next ((s.fl SAF_STATUS.CMON 0 true).monIncident 5 none)

/-- TEMP_SENSOR_READ: the hottest of the 64 die sensors reads `t` °C, an 8-bit signed number (R596). -/
def execTempSensorRead (t : Nat) (s : State) : Host.Outcome State Fault Refusal :=
  let c := toSigned 8 t
  let s := if c ≥ 110 ∧ ¬ s.on SAF_STATUS.THERMAL_CLAMP then
      let s := (((s.fl SAF_STATUS.THERMAL_CLAMP 0 true).fl SAF_STATUS.TMON 0 true).powerRec 3).monRec 0 6 none (some t) false
      (((s.lowerTo 0 0).lowerTo 1 0).updPwr (fun p => { p with second := none, below := 0 })).safUpdate
    else if c < 100 ∧ s.on SAF_STATUS.THERMAL_CLAMP then ((s.fl SAF_STATUS.THERMAL_CLAMP 0 false).powerRec 3).safUpdate
    else s
  .next (if c ≥ 125 ∧ ¬ s.pwr.monOff then ((s.fl SAF_STATUS.TMON 0 true).monRec 0 6 none (some t) true).monitorOff else s)

end Sys2Proof.Machine
end

