-- ==== Sys2Proof/Machine/Teardown.lean ====
section
/-! DEFINITION. The steps of a context teardown (R85, R662), what isolates a unit (R577 step 4, R175), and the end of L1
recoveries (R603). -/

namespace Sys2Proof.Machine

/-! ### Engines let go of a context (R85 step 2) -/

/-- The groups, workgroups, saved workgroups and dispatches of context `c` go without being saved. -/
def State.shTeardown (s : State) (c : Nat) : State :=
  let gs := (s.sh.grps.filter (fun p => p.2.ctx == c)).map (·.1)
  let mine (d : Nat) : Bool := ((s.sh.disps.get? d).map (·.ctx)) == some c
  let ps := ((s.sh.disps.filter (fun p => p.2.ctx == c)).map (·.2.part)).eraseDups
  let s := gs.foldl (fun s g => s.dropWaits (.group g)) s
  let s := { s with sh := { s.sh with
    grps := s.sh.grps.filter (fun p => p.2.ctx != c),
    wgs := s.sh.wgs.filter (fun p => !mine p.2.disp),
    saved := s.sh.saved.filter (fun v => !mine v.disp),
    disps := s.sh.disps.filter (fun p => p.2.ctx != c) } }
  let s := (gs.map coreOf).eraseDups.foldl State.sclSync s
  (ps.foldl State.ysaveSync s).haltSync

/-- Every engine drops the work of context `c`; the Tallies that R662 names are kept for step 3. -/
def State.engStop (s : State) (c : Nat) : State :=
  let s := (((s.fe.strms.filter (fun p => p.2.ctx == c)).map (·.1)).foldl (fun s k => s.dropWaits (.strm k)) s).shTeardown c
  let (s, a) := s.loomTeardown c
  let (s, b) := s.crdTeardown c
  let (s, d) := s.glzTeardown c
  let (s, e) := s.prsTeardown c
  let s := (s.gfxTeardown c).patTeardown c
  { s with tds := s.tds.upd c (fun t => { t with poison := t.poison ++ a ++ b ++ d ++ e }) }

/-- A queue that a teardown disables while it faults: FAULT_CODE and FAULT_SEQ keep what its fault set (R129). -/
def State.faultKept (s : State) (q : Nat) : State :=
  match (s.fe.strms.get? q).bind (·.fault) with
  | some (code, seq) => s.wrs q [(FE_Q.FAULT_CODE, code), (FE_Q.FAULT_SEQ, seq)]
  | none => s

/-- The queues of context `c` are disabled (R85 step 6). -/
def State.ctxQueuesOff (s : State) (c : Nat) : State :=
  let qs := (List.range 2048).filter (fun q => s.rd FE_Q.STATE q != 0 && s.rd FE_Q.CTX q == c)
  let s := qs.foldl (fun s q => (s.faultKept q).queueOff q) s
  let s := { s with fe := { s.fe with strms := s.fe.strms.filter (fun p => p.2.ctx != c) } }
  [0, 1, 2, 3, 4].foldl State.feSync s

/-- The Ledger record of a device teardown (R619). -/
def State.ctxFaultRec (s : State) (c : Nat) (t : Teardown) : State :=
  s.ledger 0x11 2 (leBytes 8 t.inc ++ leBytes 2 c ++ leBytes 1 t.code ++ leBytes 1 t.engine ++ leBytes 4 0 ++
    (t.detail ++ List.replicate 16 0).take 16)

/-- Context `c` ends FREE, or FAULTED with the teardown's code and incident. -/
def State.ctxEnd (s : State) (c : Nat) (t : Teardown) : State :=
  { (if t.driver then s.wrs c [(FE_CTX.STATE, 0), (FE_CTX.EN, 0)]
     else s.wrs c [(FE_CTX.STATE, 3), (FE_CTX.EN, 1), (FE_CTX.FAULT_CODE, t.code), (FE_CTX.INCIDENT, t.inc)]) with
    tds := s.tds.del c }

/-! ### The end of recoveries (R603) -/

/-- Incidents whose L1 action has completed close: their contexts are torn down and their units reset. -/
def State.incSettle (s : State) : State :=
  [0, 1].foldl (fun s k =>
    let n := s.rd SAF_INC.INCIDENT k
    if s.on SAF_INC.OPEN k && s.rd SAF_INC.LEVEL k == 2 && !s.tds.any (fun p => p.2.inc == n) && !s.rsts.any (fun r => r.inc == n)
    then s.incClose k else s) s

/-- An invalidation that the device starts for a context waits or runs. -/
def State.ctxInvBusy (s : State) (c : Nat) : Bool :=
  let mine (i : Inv) : Bool := i.ticket == 0 && i.scope == 1 && i.ctx == c
  s.mmu.dev.any mine || match s.mmu.running with
    | some i => mine i
    | none => false

/-- A teardown goes to step `n`. -/
def State.tdStep (s : State) (c n : Nat) : State := { s with tds := s.tds.upd c (fun t => { t with step := n }) }

/-- TEARDOWN_STEP_DONE: the running step of context `c`'s teardown is complete and the next one runs (R85). -/
def execTeardownStepDone (c : Nat) (s : State) : Host.Outcome State Fault Refusal :=
  match s.tds.get? c with
  | none => .next s
  | some t =>
    if t.step = 1 then .next ((s.engStop c).tdStep c 2)
    else if t.step = 2 then .next ((t.poison.foldl State.poisonTally s).tdStep c 3)
    else if t.step = 3 then .next ((s.invDevice { ticket := 0, scope := 1, ctx := c }).tdStep c 4)
    else if t.step = 4 then .next (if s.ctxInvBusy c then s else ((s.loomFree c).icDrop c (fun _ => true)).tdStep c 5)
    else
      let s := ((s.ctxQueuesOff c).ctxEnd c t).raise 0x44
      .next (if t.driver then s else ((s.ctxFaultRec c t).raise 0x43).incSettle)

/-! ### Isolation (R577 step 4) -/

/-- Contexts with work in a unit: TYPE, UNIT and CORE as RST_BLOCK. A block reset of the Glazier finds none: its pipes are
disabled and their sets released when it is asked for (R578). -/
def State.unitCtxs (s : State) (typ unit core : Nat) : List Nat :=
  let onCore (k : Nat) : Bool := k / 4 == unit && (typ == 1 || k % 4 == core)
  let tiles := s.gfx.passes.flatMap (fun p => if p.2.run.any (fun t => onCore t.core) then [p.2.ctx] else [])
  let l := s.loom unit
  let cs :=
    if typ = 0 then (s.sh.grps.filter (fun p => onCore (coreOf p.1))).map (·.2.ctx) ++ tiles
    else if typ = 1 then (s.sh.grps.filter (fun p => onCore (coreOf p.1))).map (·.2.ctx) ++ tiles ++
      (s.crd.batches.filter (fun b => b.2.rtu == some unit)).flatMap (fun b => b.2.rays.map (·.ctx) ++ b.2.cmps.map (·.1.ctx))
    else if typ = 2 then l.drafts.map (·.ctx) ++ (match l.save with
      | some v => if v.draft.isSome then [v.ctx] else []
      | none => [])
    else if typ = 3 then s.prsCtxs
    else if typ = 5 then s.crd.slots.map (·.ctx) ++ s.gfx.passes.map (·.2.ctx)
    else []
  cs.eraseDups

/-- The engine number of a unit (R173). -/
def unitEng (typ unit : Nat) : Nat := if typ ≤ 1 then unit else if typ = 2 then 48 + unit else if typ = 3 then 61 else if typ = 4 then 62 else 63

/-- Contexts with work in the Glazier: their sets are pending or applied, or a frame is still written back for them. -/
def State.glzCtxs (s : State) : List Nat :=
  ([0, 1, 2, 3].flatMap (fun p => let x := s.pipe p
    (x.pend.map (·.ctx)).toList ++ (x.applied.map (·.ctx)).toList ++ x.wb.map (·.1))).eraseDups

/-- A context's work is lost in the reset of engine `eng`, which the MMU reports with INV_TIMEOUT (R175, R177, R178). The spec
gives no address and no access for that record: they are free values (log entry 73). -/
def State.lostFault (s : State) (c inc eng : Nat) : State :=
  let (va, s) := s.free 54
  let (acc, s) := s.free 54
  s.mmuFault c (va % 2 ^ 48) 0x2A (acc % 4) 0 eng inc

/-- Work of a late engine is lost: its contexts fault with INV_TIMEOUT and the unit holds nothing of them (R175). -/
def State.lateFault (s : State) (cs : List Nat) (inc eng : Nat) : State :=
  cs.foldl (fun s c => (s.lostFault c inc eng).engStop c) s

/-- The wrapper closes: contexts with work in the unit fault and the unit holds nothing of them. -/
def State.isolate (s : State) (typ unit core code inc : Nat) : State :=
  (s.unitCtxs typ unit core).foldl (fun s c => (s.ctxFault c code inc (unitEng typ unit)).engStop c) s

/-- The unit of an engine number. -/
def engUnit (e : Nat) : Nat × Nat :=
  if e < 48 then (1, e) else if e < 60 then (2, e - 48) else if e = 61 then (3, 0) else if e = 62 then (4, 0) else (5, 0)

/-- The partition that owns an engine, or 8. -/
def State.engOwner (s : State) (e : Nat) : Nat :=
  if e < 48 then s.incOwner FE_PART.CLUSTERS e else if e < 60 then s.incOwner FE_PART.LOOMS (e - 48) else 8

/-- The reset of a unit goes to step 4 of R577 at once: one that already runs goes on as it, with its slot. -/
def State.rstOnly (s : State) (r : BlkRst) : State :=
  let s := match s.rsts.find? (fun (x : BlkRst) => x.isFor r.typ r.unit r.core) with
    | some x => { s with rsts := s.rsts.filter (fun (y : BlkRst) => !y.isFor r.typ r.unit r.core) ++ [{ r with slot := x.slot, part := x.part }] }
    | none => State.count { s with rsts := s.rsts ++ [r] } RST_CTR.BLOCK_RESETS
  (s.count RST_CTR.IDLE_TIMEOUTS).raise 0x37

/-- A late engine is isolated and its reset, which a test follows, begins; the pipes of the Glazier stop with it (R175, R577). -/
def State.lateReset (s : State) (typ unit n e : Nat) : State :=
  let s := s.lateFault (if typ = 4 then s.glzCtxs else s.unitCtxs typ unit 0) n e
  let s := if typ = 4 then s.pipesOff else s
  s.rstOnly { typ := typ, unit := unit, since := s.now, phase := 1, code := 0x2A, inc := n, test := true, trigger := 0x72 }

/-- Engine `e` has not acknowledged in time: it is isolated and reset, its contexts fault with INV_TIMEOUT, and it is
tested; the FE's reset is a warm reset (R175). -/
def State.invLate (s : State) (e : Nat) : State :=
  let (n, s) := s.incident (if e = 60 then 4 else 2) (if e = 60 then 9 else s.engOwner e) 0x72
  let (typ, unit) := engUnit e
  let s :=
    if e = 60 then
      let cs := ((s.fe.strms.filter (fun p => !p.2.ents.isEmpty)).map (·.2.ctx)).eraseDups
      cs.foldl (fun s c => s.lostFault c n 60) s
    else s.lateReset typ unit n e
  let s := { s with mmu := { s.mmu with tlb := s.mmu.tlb.filter (fun t => ackBit t.eng != e) } }
  let s := (s.wr MMU_INV_ACKED.MASK 0 (setBit (s.rd MMU_INV_ACKED.MASK) e true)).count MMU_CTR.INV_TIMEOUTS
  (s.monRec n 0x72 (some e) none false).raise 0x72

/-- INV_TIMEOUT_EXPIRY: MMU_INV_TIMEOUT has passed since step 1 of the running invalidation (R175). -/
def execInvTimeoutExpiry (s : State) : Host.Outcome State Fault Refusal :=
  match s.mmu.running with
  | none => .next s
  | some _ =>
    if s.mmu.since + s.rd MMU_INV_TIMEOUT.US * 1000 ≤ s.now then
      let late := bitList (s.rd MMU_INV_ACKMASK.MASK - (s.rd MMU_INV_ACKMASK.MASK &&& s.rd MMU_INV_ACKED.MASK)) 64
      .next (late.foldl State.invLate s).invDone
    else .next s

end Sys2Proof.Machine
end

