-- ==== Sys2Proof/Machine/Assayer.lean ====
section
/-! DEFINITION. The Assayer (R606 to R612): tests and their verdicts, retirement and the changes of the capability table
(R20, R69), and the ageing measurement. -/

namespace Sys2Proof.Machine

/-! ### Retirement -/

/-- Change one entry of the capability table. -/
def State.capEdit (s : State) (cls : Nat) (f : CapEnt → CapEnt) : State :=
  { s with cap := { s.cap with ents := s.cap.ents.map (fun e => if e.cls = cls then f e else e) } }

/-- A unit leaves its class for good. -/
def CapEnt.lose (u : Nat) (e : CapEnt) : CapEnt :=
  if bit e.present u then { e with present := setBit e.present u false, count := e.count - 1, shrunk := true } else e

/-- Every unit of a class leaves it. -/
def CapEnt.loseAll (e : CapEnt) : CapEnt :=
  if e.count = 0 then e else { e with present := 0, count := 0, shrunk := true }

/-- Unit `u` is named in the table. -/
def State.inTable (s : State) (cls u : Nat) : Bool := match s.capEnt cls with
  | some e => bit e.present u
  | none => false

/-- The Carder goes once no RTU remains (R69). -/
def State.dropCarder (s : State) : State :=
  match s.capEnt 2 with
  | some e => if e.present = 0 then s.capEdit 0xC CapEnt.loseAll else s
  | none => s

/-- A unit is disabled together with its degradations (R69, R608). Types as ASY_STATUS. -/
def State.disableUnit (s : State) (typ u : Nat) : State :=
  if typ = 0 then
    let s := (s.capEdit 1 (CapEnt.lose u)).capEdit 2 (CapEnt.lose u)
    let q := u / 12
    let ph := s.rd GLB_YIELD.PHYS q
    let s := (s.wr GLB_YIELD.GOOD q (setBit (s.rd GLB_YIELD.GOOD q) (bits ph (4 * (u % 12)) 4) false)).wr GLB_YIELD.PHYS q (setBits ph (4 * (u % 12)) 4 0xF)
    let s := if (List.range 12).any (fun j => s.inTable 1 (12 * q + j)) then s else s.capEdit 4 (CapEnt.lose q)
    s.dropCarder
  else if typ = 1 then s.capEdit 3 (CapEnt.lose u)
  else if typ = 2 then (s.capEdit 2 (CapEnt.lose u)).dropCarder
  else if typ = 3 then s.capEdit 8 (CapEnt.lose u)
  else if typ = 4 then (s.capEdit 0xC CapEnt.loseAll).capEdit 4 CapEnt.loseAll
  else
    let s := [5, 6, 7].foldl (fun s c => s.capEdit c CapEnt.loseAll) s
    s.capEdit 0x106 (fun e => { e with count := 0, shrunk := true })

/-- The physical position of quadrant `q`'s spare, the 13th of its good clusters by the fuses (R551), where it is good still and no
logical cluster uses it. -/
def State.sparePos (s : State) (q : Nat) : Option Nat :=
  let used := (List.range 12).map (fun j => bits (s.rd GLB_YIELD.PHYS q) (4 * j) 4)
  (bitList ((s.boot.fuses.good[q]?).getD 0) 13)[12]?.filter (fun k => bit (s.rd GLB_YIELD.GOOD q) k && !used.contains k)

/-- Logical cluster `u` is mapped to its quadrant's spare; the cluster that it replaces is no longer good (R20, R552). -/
def State.mapSpare (s : State) (u : Nat) : State :=
  let q := u / 12
  let j := u % 12
  match s.sparePos q with
  | none => s
  | some k =>
    let ph := s.rd GLB_YIELD.PHYS q
    let old := bits ph (4 * j) 4
    let s := (s.wr GLB_YIELD.PHYS q (setBits ph (4 * j) 4 k)).wr GLB_YIELD.GOOD q (setBit (s.rd GLB_YIELD.GOOD q) old false)
    { s with asy := { s.asy with sparesUsed := q :: s.asy.sparesUsed } }

/-- The capability class of a unit type. -/
def unitClass (typ : Nat) : Nat := [1, 3, 2, 8, 0xC, 5].getD typ 1

/-- A change of the table: GEN and CAP_CHANGED (R69), with its EMCY (R533). -/
def State.capChanged (s : State) : State :=
  ({ s with cap := { s.cap with gen := s.cap.gen + 1 } }.emcy 0x5010 0x25 s.lastInc).raise 0x25

/-- A lasting unit is retired: remapped to the unused spare of its quadrant, or disabled (R608). The answer says which: 1
remapped, 2 disabled. -/
def State.retire (s : State) (typ u : Nat) : Nat × State :=
  if (typ = 0 ∨ typ = 2) ∧ s.inTable 0x10 (u / 12) then
    let s := s.capEdit 0x10 (fun e => { e with present := setBit e.present (u / 12) false, count := e.count - 1 })
    let s := ((s.mapSpare u).addRepair 1 u 0).capChanged
    (1, (s.count ASY_CTR.REMAPPED).fl ASY_STATUS.RETIRED 0 true)
  else
    let s := ((s.disableUnit typ u).addRepair (unitClass typ) u 1).capChanged
    let s := if typ = 0 ∨ typ = 2 then s.rtuDrop u else s
    let s := (s.count ASY_CTR.DISABLED).fl ASY_STATUS.RETIRED 0 true
    (2, { s with saf := { s.saf with shrunk := true } }.routeHit 8)

/-! ### Tests (R606 to R608) -/

/-- The test at the head of the requests can start: no other runs, and work that has to be stopped is (R606, R607). -/
def State.testReady (s : State) (t : Test) : Bool :=
  s.asy.running.isNone && !(t.stops && s.sh.wgs.any (fun w => w.2.cluster == t.unit))

/-- ASSAYER_TEST_START: the next test runs; an RTU's batches go to other RTUs. -/
def execAssayerTestStart (s : State) : Host.Outcome State Fault Refusal :=
  match s.asy.queue with
  | [] => .next s
  | t :: r =>
    if s.testReady t then
      let s := { s with asy := { s.asy with running := some { t with since := s.now }, queue := r } }
      let s := (s.wrs 0 [(ASY_STATUS.TESTING, 1), (ASY_STATUS.UNIT_TYPE, t.typ), (ASY_STATUS.UNIT, t.unit)]).count ASY_CTR.TESTS
      let s := if t.typ = 1 then (s.fl LOOM_CHK_STATUS.TESTING t.unit true).loomSync t.unit else s
      .next (if t.typ = 2 then (s.rtuDrop t.unit).crdSync else s)
    else .next s

/-- Three transient verdicts of a unit within 24 operating hours make the third a lasting one (R608). -/
def State.third (s : State) (key : Nat) : Bool × State :=
  let t := s.rd LDG_TIME.OPSEC
  let l := ((s.asy.transients.get? key).getD []).filter (fun x => t < x + 86400)
  if l.length ≥ 2 then (true, { s with asy := { s.asy with transients := s.asy.transients.del key } })
  else (false, { s with asy := { s.asy with transients := s.asy.transients.put key (t :: l) } })

/-- The Ledger record of a test (R619, R620). -/
def State.testRec (s : State) (inc typ unit : Nat) (lasting : Bool) (act trigger : Nat) : State :=
  s.ledger 0x13 (if lasting then 2 else 0) (leBytes 8 inc ++ leBytes 1 typ ++ leBytes 1 unit ++ leBytes 1 (b2n lasting) ++
    leBytes 1 act ++ leBytes 1 trigger ++ leBytes 3 0)

/-- A unit is lasting or transient: counted, retired where lasting, recorded (R608). -/
def State.verdict (s : State) (typ unit inc trigger : Nat) (lasting : Bool) : State :=
  let s := s.count (if lasting then ASY_CTR.LASTING else ASY_CTR.TRANSIENT)
  let s := s.wrs 0 [(ASY_STATUS.VERDICT, 1), (ASY_STATUS.LASTING, b2n lasting)]
  let (act, s) := if lasting then s.retire typ unit else (0, s)
  s.testRec inc typ unit lasting act trigger

/-- TEST_VERDICT: the running test ends; `fail` is its result. A unit that passes returns to service (R608). -/
def execTestVerdict (fail : Bool) (s : State) : Host.Outcome State Fault Refusal :=
  match s.asy.running with
  | none => .next s
  | some t =>
    let s := { s.fl ASY_STATUS.TESTING 0 false with asy := { s.asy with running := none } }
    let (again, s) := if fail then (false, s) else s.third (64 * t.typ + t.unit)
    let s := s.verdict t.typ t.unit t.inc t.trigger (fail || again)
    let s := if t.typ = 1 then ((s.fl LOOM_CHK_STATUS.TESTING t.unit false).loomSync t.unit).loomWait t.unit else s
    .next (s.crdGo.safUpdate)

/-! ### Ageing (R610 to R612) -/

/-- Fixed-point numbers in units of 2^-60. -/
def fxOne : Int := 2 ^ 60
def fxMul (a b : Int) : Int := a * b / fxOne
def fxDiv (a b : Int) : Int := a * fxOne / b

/-- 2 * atanh z as its series, `k` terms. -/
def fxAtanh2 (z : Int) : (k : Nat) → (pow : Int) → (i : Nat) → Int
  | 0, _, _ => 0
  | k + 1, pow, i => 2 * pow / (2 * i + 1) + fxAtanh2 z k (fxMul pow (fxMul z z)) (i + 1)

/-- ln 2. -/
def fxLn2 : Int := fxAtanh2 (fxOne / 3) 40 (fxOne / 3) 0

/-- The natural logarithm of a positive number. -/
def fxLn (x : Nat) : Int :=
  let k := Nat.log2 x
  let m : Int := (x : Int) * fxOne / 2 ^ k
  let z := fxDiv (m - fxOne) (m + fxOne)
  k * fxLn2 + fxAtanh2 z 40 z 0

/-- The exponential series, `k` terms. -/
def fxExpSer (r : Int) : (k : Nat) → (term : Int) → (i : Nat) → Int
  | 0, _, _ => 0
  | k + 1, term, i => term + fxExpSer r k (fxMul term r / (i + 1)) (i + 1)

/-- The exponential, rounded down to an integer; at most 2^64. -/
def fxExp (y : Int) : Nat :=
  if y < 0 then 0
  else
    let k := y / fxLn2
    if k > 64 then 2 ^ 64
    else (fxExpSer (y - k * fxLn2) 32 fxOne 0 * 2 ^ k.toNat / fxOne).toNat

/-- The measurements of a rail that the fit uses: operating seconds and D, both logarithms (R612). A D of 0 has none. -/
def State.fitPoints (s : State) (r : Nat) : List (Int × Int) :=
  (s.asy.meas.filter (fun m => m.1 == r && m.2.1 > 168 * 3600 && m.2.2 > 0)).map (fun m => (fxLn m.2.1, fxLn m.2.2))

/-- n and ln a of the least-squares fit, with n clamped to 0.1 to 0.5; none with fewer than two times. -/
def fitOf (ps : List (Int × Int)) : Option (Int × Int) :=
  let c : Int := (ps.length : Nat)
  let sx := ps.foldl (fun a p => a + p.1) 0
  let sy := ps.foldl (fun a p => a + p.2) 0
  let sxx := ps.foldl (fun a p => a + p.1 * p.1) 0
  let sxy := ps.foldl (fun a p => a + p.1 * p.2) 0
  let den := c * sxx - sx * sx
  if den ≤ 0 then none
  else
    let n := (c * sxy - sx * sy) * fxOne / den
    let n := if n < fxOne / 10 then fxOne / 10 else if n > fxOne / 2 then fxOne / 2 else n
    some (n, (sy - fxMul n sx) / c)

/-- The D (0.01 %) above which a level of a rail is withdrawn: S * D / 100 > V_MAX - V_T0, with V_MAX at a multiple of 5 mV. -/
def State.dLimit (s : State) (r l : Nat) : Option Nat :=
  let sens := bits (s.rd ASY_AGE.SENS r) (8 * l) 8
  let vt0 := bits (s.rd ASY_AGE.VT0 (2 * r + l / 4)) (16 * (l % 4)) 16
  if sens = 0 then none else some ((s.vmaxOf r l / 5 * 5 - vt0) * 100 / sens)

/-- Levels of a rail that are still present. -/
def State.levels (s : State) (r : Nat) : List Nat := (List.range 8).filter (fun l => !s.asy.withdrawn.contains (r, l))

/-- Projected operating hours until a level of rail `r` is first withdrawn; none with no fit (R612). -/
def State.projected (s : State) (r : Nat) : Option Nat :=
  match fitOf (s.fitPoints r) with
  | none => none
  | some (n, la) =>
    ((s.levels r).filterMap (s.dLimit r)).foldl (fun (m : Option Nat) d =>
      let h := if d = 0 then 0 else fxExp (fxDiv (fxLn d - la) n) / 3600 - s.rd LDG_TIME.OPSEC / 3600
      match m with
      | some x => some (min x h)
      | none => some h) none

/-- V_plan of a level (R611). -/
def State.planned (s : State) (r l d : Nat) : Nat :=
  let sens := bits (s.rd ASY_AGE.SENS r) (8 * l) 8
  let vt0 := bits (s.rd ASY_AGE.VT0 (2 * r + l / 4)) (16 * (l % 4)) 16
  ceilDiv (100 * vt0 + sens * d) 500 * 5

/-- Rail `r` is measured at the delay increase `d`: voltages are planned anew, and levels withdrawn (R611). -/
def State.measure (s : State) (r d : Nat) : State :=
  let vs := (List.range 8).map (fun l => s.planned r l d)
  let word (k : Nat) : Nat := ofBytes ((vs.drop (4 * k)).take 4 |>.flatMap (leBytes 2))
  let changed := s.rd PWR_AVS.V0_3 r != word 0 || s.rd PWR_AVS.V4_7 r != word 1
  let gone := (s.levels r).filter (fun l => s.vmaxOf r l < s.planned r l d)
  let s := s.wrs r [(PWR_AVS.V0_3, word 0), (PWR_AVS.V4_7, word 1), (ASY_AGE.DEGR, d), (ASY_AGE.MEAS_OPSEC, s.rd LDG_TIME.OPSEC)]
  let s := { s with asy := { s.asy with
    withdrawn := s.asy.withdrawn ++ gone.map (fun l => (r, l)),
    meas := (s.asy.meas.filter (fun (m : Nat × Nat × Nat) => m.1 != r)) ++
      (let l := s.asy.meas.filter (fun (m : Nat × Nat × Nat) => m.1 == r); (l.drop (l.length - 63)) ++ [(r, s.rd LDG_TIME.OPSEC, d)]) } }
  let s := if changed then s.fl ASY_STATUS.REPLANNED 0 true else s
  let s := if gone.isEmpty then s else gone.foldl (fun s _ => s.powerRec 4) (s.fl ASY_STATUS.WITHDRAWN 0 true)
  let top := (s.levels r).foldl max 0
  let margin := ((s.levels r).map (fun l => s.vmaxOf r l - s.planned r l d)).foldl min 4095
  let s := s.wrs r [(ASY_AGE.TOP_LEVEL, top), (ASY_AGE.MARGIN_MV, margin)]
  let s := s.lowerTo r top
  (s.count ASY_CTR.MEASUREMENTS).ledger 0x14 0 (leBytes 1 r ++ leBytes 1 top ++ leBytes 2 0 ++ leBytes 2 d ++ leBytes 2 margin ++
    vs.flatMap (leBytes 2))

/-- Both rails are measured; the margin, the projection and EOL_WARNING follow (R612). -/
def State.ageMeasure (s : State) (d0 d1 : Nat) : State :=
  let s := (s.updPwr (fun p => { p with bump := [] })).measure 0 d0 |>.measure 1 d1
  let margin := min (s.rd ASY_AGE.MARGIN_MV 0) (s.rd ASY_AGE.MARGIN_MV 1)
  let hours := match s.projected 0, s.projected 1 with
    | some a, some b => min a b
    | some a, none => a
    | none, some b => b
    | none, none => 0xFFFFFFFF
  let hours := min hours 0xFFFFFFFF
  let s := (s.wr ASY_STATUS.MARGIN_MV 0 margin).wr ASY_PROJECT.HOURS 0 hours
  let s := { s with asy := { s.asy with lastMeas := s.rd LDG_TIME.OPSEC } }
  let eol := margin < s.rd ASY_CFG.EOL_MARGIN_MV || hours < s.rd ASY_CFG.EOL_HOURS * 100
  (if eol && !s.on ASY_STATUS.EOL then (s.fl ASY_STATUS.EOL 0 true).emcy 0x5020 0x13 s.lastInc else s).safUpdate

/-- AGEING_MEASURE: every 24 operating hours, or after a replica has raised a level's voltage, both rails are measured; `d0`
and `d1` are the largest delay increases, in 0.01 % (R610, R611). -/
def execAgeingMeasure (d0 d1 : Nat) (s : State) : Host.Outcome State Fault Refusal :=
  .next (if s.rd LDG_TIME.OPSEC ≥ s.asy.lastMeas + 86400 ∨ ¬ s.pwr.bump.isEmpty then s.ageMeasure (d0 % 0x10000) (d1 % 0x10000) else s)

end Sys2Proof.Machine
end

