-- ==== Sys2Proof/Machine/Dictionary.lean ====
section
/-! DEFINITION. The object dictionary (R514 to R519, R536, R537, R631): its entries, what a read answers, what a write checks
and does, saves and loads. -/

namespace Sys2Proof.Machine

/-! ### The entries -/

/-- An entry: size in bytes (0 for a string or a DOMAIN), access (0 const, 1 ro, 2 wo, 3 rw), whether a PDO can map it,
whether a save stores it, and its default. -/
structure OdE where
  idx : Nat
  sub : Nat
  size : Nat
  acc : Nat := 1
  pdo : Bool := false
  keep : Bool := false
  dflt : Nat := 0
  deriving DecidableEq, Repr

/-- Sub-index 0 of a record or array: its highest sub-index (R514). -/
def odTop (idx n : Nat) : OdE := { idx := idx, sub := 0, size := 1, acc := 0, dflt := n }

/-- A read-only entry. -/
def odRo (idx sub size : Nat) (pdo : Bool := false) : OdE := { idx := idx, sub := sub, size := size, pdo := pdo }

/-- A persistent read-write entry. -/
def odRw (idx sub size dflt : Nat) (pdo : Bool := false) : OdE :=
  { idx := idx, sub := sub, size := size, acc := 3, pdo := pdo, keep := true, dflt := dflt }

/-- Communication objects but for the PDOs (R518). -/
def odComm : List OdE :=
  [{ idx := 0x1000, sub := 0, size := 4, acc := 0 }, odRo 0x1001 0 1 true,
   { idx := 0x1003, sub := 0, size := 1, acc := 3, dflt := 16 }] ++ (List.range 16).map (fun k => odRo 0x1003 (k + 1) 4) ++
  [odRw 0x1005 0 4 0x80, odRw 0x1006 0 4 0] ++
  [0x1008, 0x1009, 0x100A].map (fun i => { idx := i, sub := 0, size := 0, acc := 0 }) ++
  [odTop 0x1010 1, { idx := 0x1010, sub := 1, size := 4, acc := 3 }, odTop 0x1011 1, { idx := 0x1011, sub := 1, size := 4, acc := 3 },
   odRw 0x1014 0 4 0x80, odRw 0x1015 0 2 10, odTop 0x1016 4, odRw 0x1016 1 4 0, odRw 0x1016 2 4 0, odRw 0x1016 3 4 0, odRw 0x1016 4 4 0,
   odRw 0x1017 0 2 100, odTop 0x1018 4] ++ [1, 2, 3, 4].map (fun k => { idx := 0x1018, sub := k, size := 4, acc := 0 }) ++
  [odRw 0x1019 0 1 0, odTop 0x1029 1, odRw 0x1029 1 1 0]

/-- A mapping object: how many entries are mapped, and 16 places (R537). -/
def odMap (idx : Nat) : List OdE := odRw idx 0 1 0 :: (List.range 16).map (fun k => odRw idx (k + 1) 4 0)

/-- The PDO objects (R518, R537): sub-indices 1 COB-ID, 2 transmission type, and for a TPDO 3 inhibit time and 5 event timer. -/
def odPdos : List OdE :=
  (List.range 4).flatMap (fun n =>
    [odTop (0x1400 + n) 2, odRw (0x1400 + n) 1 4 (0x80000200 + 0x100 * n), odRw (0x1400 + n) 2 1 254] ++ odMap (0x1600 + n) ++
    [odTop (0x1800 + n) 5, odRw (0x1800 + n) 1 4 (0x80000180 + 0x100 * n), odRw (0x1800 + n) 2 1 254, odRw (0x1800 + n) 3 2 0,
     odRw (0x1800 + n) 5 2 0] ++ odMap (0x1A00 + n))

/-- Sizes and defaults of the bit timing (R519). -/
def odTiming : List (Nat × Nat) := [(2, 1), (2, 127), (1, 32), (1, 32), (2, 1), (1, 29), (1, 10), (1, 10), (1, 30)]

/-- The Silmepin objects (R519) and the Ledger objects (R631). -/
def odSilmepin : List OdE :=
  [odTop 0x2000 5, odRw 0x2000 1 1 0x20, odRw 0x2000 2 1 0, odRw 0x2000 3 1 0, odRo 0x2000 4 0, odRo 0x2000 5 8, odTop 0x2001 9] ++
  (List.range 9).map (fun k => let t := odTiming.getD k (1, 0); odRw 0x2001 (k + 1) t.1 t.2) ++
  [odTop 0x2002 3, odRw 0x2002 1 2 200, odRw 0x2002 2 1 0, odRo 0x2002 3 2, odTop 0x2003 1, odRw 0x2003 1 1 0,
   odTop 0x2004 4, odRo 0x2004 1 4 true, odRo 0x2004 2 4, odRo 0x2004 3 8 true, odRo 0x2004 4 8 true,
   odTop 0x2100 0x20, odRo 0x2100 0x20 8 true] ++ (List.range 13).map (fun k => odRo 0x2100 (k + 1) 4) ++
  [odTop 0x2200 9] ++ [1, 2, 3, 4, 6, 7, 8].map (fun k => odRo 0x2200 k 1 true) ++ [odRo 0x2200 5 4 true, odRo 0x2200 9 2,
   odTop 0x2300 5, odRw 0x2300 1 2 300 true, odRo 0x2300 2 1 true, odRo 0x2300 3 2 true, odRo 0x2300 4 1 true, odRo 0x2300 5 1 true,
   odTop 0x2400 3, odRo 0x2400 1 4, odRo 0x2400 2 1, odRo 0x2400 3 4 true,
   odTop 0x2800 0x12, odRo 0x2800 1 1 true, odRo 0x2800 2 1 true, odRo 0x2800 3 4, odRo 0x2800 0x10 4 true, odRo 0x2800 0x11 4 true,
   odRo 0x2800 0x12 4 true,
   odTop 0x2500 7, { idx := 0x2500, sub := 1, size := 1, acc := 3 }, { idx := 0x2500, sub := 2, size := 4, acc := 2 }, odRo 0x2500 3 4,
   odRo 0x2500 4 4, odRo 0x2500 5 8, { idx := 0x2500, sub := 6, size := 4, acc := 3 }, odRo 0x2500 7 0]

/-- Every entry. -/
def odTable : List OdE := odComm ++ odPdos ++ odSilmepin

/-- The entry at an address, or the abort code of R536. In recovery mode the node offers only the objects of R528. -/
def State.odFind (s : State) (idx sub : Nat) : Nat × Option OdE :=
  let off := s.on RST_BOOT_CTL.RECOVERY && !((0x1000 ≤ idx && idx ≤ 0x101F) || (0x2000 ≤ idx && idx ≤ 0x2004))
  match odTable.filter (fun e => e.idx == idx) with
  | [] => (0x06020000, none)
  | es => if off then (0x06020000, none) else match es.find? (fun e => e.sub == sub) with
    | some e => (0, some e)
    | none => (0x06090011, none)

/-! ### Values -/

/-- The key of an entry. -/
def odKey (idx sub : Nat) : Nat := 256 * idx + sub

/-- An entry's default; the COB-IDs of R518 and R537 hold the node-ID. -/
def State.odDefault (s : State) (e : OdE) : Nat :=
  let n := s.rd ODM_NMT.NODE_ID
  if e.idx = 0x1014 ∨ ((0x1400 ≤ e.idx ∧ e.idx < 0x1404 ∨ 0x1800 ≤ e.idx ∧ e.idx < 0x1804) ∧ e.sub = 1) then e.dflt + n else e.dflt

/-- The value of a writable entry that has no counterpart. -/
def State.odVal (s : State) (idx sub : Nat) : Nat :=
  match s.odm.ent.get? (odKey idx sub) with
  | some v => v
  | none => match odTable.find? (fun e => e.idx == idx && e.sub == sub) with
    | some e => s.odDefault e
    | none => 0

/-- Nominal bit time in ns, from the timing in effect (R521). -/
def State.bitNs (s : State) : Nat :=
  let t (k : Nat) : Nat := s.odm.timing.getD k 1
  ceilDiv (t 0 * (1 + t 1 + t 2) * 1000) 80

/-- SYNC_DELAY_EFF: the larger of SYNC_DELAY_US and 80 nominal bit times, in whole µs (R531). -/
def State.syncDelay (s : State) : Nat :=
  let t (k : Nat) : Nat := s.odm.timing.getD k 1
  max (s.odVal 0x2002 1) (t 0 * (1 + t 1 + t 2))

/-- The characters of a string. -/
def strBytes (x : String) : List Byte := x.toList.map (fun c => BitVec.ofNat 8 c.toNat)

/-- A hex digit's character. -/
def hexByte (n : Nat) : Byte := BitVec.ofNat 8 (if n < 10 then 0x30 + n else 0x37 + n)

/-- The highest of the stack temperatures, as a signed byte. -/
def State.hbmTemp (s : State) : Nat :=
  ofSigned 8 ([1, 2, 3].foldl (fun (m : Int) k => max m (toSigned 8 (s.rd MC_STATUS.TEMP k))) (toSigned 8 (s.rd MC_STATUS.TEMP 0)))

/-- MISSES over all FE_RT entries, sticking at its largest value. -/
def State.rtMisses (s : State) : Nat := min 0xFFFFFFFF ((List.range FE_RT.MISSES.n).foldl (fun n q => n + s.rd FE_RT.MISSES q) 0)

/-- COUNT of a capability class. -/
def State.capCount (s : State) (c : Nat) : Nat := match s.capEnt c with
  | some e => if s.cap.valid then e.count else 0
  | none => 0

/-- The number that a read-only or const entry of fixed size answers. -/
def State.odRoVal (s : State) (e : OdE) : Nat :=
  let k := e.sub
  match e.idx with
  | 0x1001 => s.errReg
  | 0x1003 => if k = 0 then 16 else s.errField.getD (k - 1) 0
  | 0x1018 => if k = 1 then s.rd GLB_ID.VENDOR else if k = 2 then 0x9240 else if k = 3 then s.rd GLB_REV.IFACE_REV * 0x10000 + s.rd GLB_REV.FW_REV
      else if k = 4 then s.rd GLB_UID_LO.UID % 2 ^ 32 else e.dflt
  | 0x2000 => if k = 5 then
        (GLB_ID.fields).foldl (fun n F => n + s.rd F * 2 ^ F.lo) 0
      else e.dflt
  | 0x2002 => if k = 3 then s.syncDelay else e.dflt
  | 0x2004 => if k = 1 then s.rd LDG_TIME.OPSEC else if k = 2 then s.rd LDG_TIME.PCYC else if k = 3 then s.now
      else if k = 4 then s.rd FE_TICK_COUNT.COUNT else e.dflt
  | 0x2100 => if k = 0x20 then s.cap.gen else if k = 0 then e.dflt else s.capCount k
  | 0x2200 =>
    match k with
    | 1 => s.rd SAF_STATUS.FAULT
    | 2 => s.rd SAF_STATUS.DEGRADED
    | 3 => s.rd SAF_STATUS.SAFE_REQ
    | 4 => s.rd SAF_STATUS.LEVEL
    | 5 => s.lastInc % 2 ^ 32
    | 6 => s.rd PWR_LEVEL.TJ
    | 7 => s.hbmTemp
    | 8 => s.rd ASY_STATUS.EOL
    | 9 => s.rd ASY_STATUS.MARGIN_MV
    | _ => e.dflt
  | 0x2300 => if k = 2 then s.rd PWR_STATUS.STATE else if k = 3 then s.rd PWR_LEVEL.PKG_W else if k = 4 then s.rd PWR_LEVEL.LOOM
      else if k = 5 then s.rd PWR_LEVEL.CORE else e.dflt
  | 0x2400 => if k = 1 then s.rd FE_TICK_CFG.PERIOD_US else if k = 2 then s.rd FE_TICK_STATUS.SRC_ACT else if k = 3 then s.rtMisses else e.dflt
  | 0x2500 => if k = 3 then s.rd LDG_HEAD.OFFSET else if k = 4 then s.rd LDG_TAIL.OFFSET else if k = 5 then s.rd LDG_SEQ.SEQ else e.dflt
  | 0x2800 => if k = 1 then s.rd PXL_STATUS.JOINED else if k = 2 then s.rd PXL_STATUS.MANAGER_ID else if k = 3 then s.rd PXL_STATUS.EPOCH
      else if k = 0 then e.dflt else if s.on GLB_DEVNUM.MANAGER then (s.mesh.health.get? (k - 0x10)).getD 0 else 0
  | _ => e.dflt

/-- What a read of an entry answers. The value of 0x1010 and 0x1011 when read is free. -/
def State.odGet (s : State) (e : OdE) : List Byte × State :=
  if e.size = 0 then
    let b := match e.idx with
      | 0x1008 => strBytes (if s.rd GLB_ID.VARIANT = 0 then "TY9240" else if s.rd GLB_ID.VARIANT = 1 then "TY9232"
          else if s.rd GLB_ID.VARIANT = 2 then "TY9224H" else "")
      | 0x1009 => [BitVec.ofNat 8 (0x41 + s.rd GLB_ID.BASE), hexByte (s.rd GLB_ID.METAL)]
      | 0x100A => [12, 8, 4, 0].map (fun k => hexByte (bits (s.rd GLB_REV.FW_REV) k 4))
      | 0x2000 => leBytes 8 (s.rd GLB_UID_LO.UID) ++ leBytes 8 (s.rd GLB_UID_HI.UID)
      | _ =>
        let o := s.odVal 0x2500 6
        (List.range 4096).map (fun k => s.ldg.bytes.get ((o + k) % ldgBytes))
    (b, s)
  else if (e.idx = 0x1010 ∨ e.idx = 0x1011) ∧ e.sub = 1 then
    let (x, s) := s.free 44
    (leBytes 4 x, s)
  else if e.idx = 0x2300 ∧ e.sub = 1 then (leBytes 2 (s.rd PWR_ENVELOPE.WATTS), s)
  else if e.idx = 0x2500 ∧ e.sub = 1 then (leBytes 1 (s.rd LDG_STATUS.FROZEN), s)
  else if e.acc = 3 ∧ e.idx ≠ 0x1003 then (leBytes e.size (s.odVal e.idx e.sub), s)
  else (leBytes e.size (s.odRoVal e), s)

/-! ### Writes -/

/-- The set of bit timing is in range (R521). -/
def timingOk (t : List Nat) : Bool :=
  let g (k : Nat) : Nat := t.getD k 0
  let inR (k lo hi : Nat) : Bool := lo ≤ g k && g k ≤ hi
  let nom := g 0 * (1 + g 1 + g 2)
  let dat := g 4 * (1 + g 5 + g 6)
  inR 0 1 512 && inR 1 2 256 && inR 2 2 128 && inR 3 1 (g 2) && inR 4 1 32 && inR 5 1 32 && inR 6 1 16 && inR 7 1 (g 6) && inR 8 0 127 &&
  80 ≤ nom && 10 ≤ dat && dat ≤ nom

/-- A mapped entry: index and sub-index of a mapping word, where the word names an entry that can be mapped with its length;
`rx` for an RPDO, which maps rw entries only. -/
def mapEntry (rx : Bool) (w : Nat) : Option OdE :=
  (odTable.find? (fun e => e.idx == bits w 16 16 && e.sub == bits w 8 8)).filter (fun e => e.pdo && 8 * e.size == w % 256 && (!rx || e.acc == 3))

/-- The mapping of a mapping object: its first entries, as sub-index 0 counts. -/
def State.mapping (s : State) (idx : Nat) : List Nat := (List.range (s.odVal idx 0)).map (fun k => s.odVal idx (k + 1))

/-- Bytes that mapping words take. -/
def mapBytes (ws : List Nat) : Nat := ws.foldl (fun n w => n + w % 256 / 8) 0

/-- The check of a write to a mapping object (R537). -/
def State.mapCheck (s : State) (e : OdE) (v : Nat) : Nat :=
  let rx := e.idx < 0x1800
  let com := e.idx - 0x200
  let words := if e.sub = 0 then (List.range v).map (fun k => s.odVal e.idx (k + 1))
    else (List.range (s.odVal e.idx 0)).map (fun k => if k + 1 = e.sub then v else s.odVal e.idx (k + 1))
  if ¬ bit (s.odVal com 1) 31 ∨ s.rd ODM_NMT.STATE ≠ 1 then 0x08000022
  else if e.sub = 0 ∧ v > 16 then 0x06090030
  else if e.sub ≠ 0 ∧ (mapEntry rx v).isNone then 0x06040041
  else if e.sub = 0 ∧ words.any (fun w => (mapEntry rx w).isNone) then 0x06040041
  else if mapBytes words > 64 then 0x06040042
  else 0

/-- The range check of a write: 0 or an abort code (R516 to R537). -/
def State.odRange (s : State) (e : OdE) (v : Nat) : Nat :=
  let bad (b : Bool) : Nat := if b then 0x06090030 else 0
  let isMap := (0x1600 ≤ e.idx && e.idx < 0x1604) || (0x1A00 ≤ e.idx && e.idx < 0x1A04)
  if isMap then s.mapCheck e v
  else if e.idx = 0x1003 then bad (v != 0)
  else if e.idx = 0x1005 then if bit v 30 ∧ s.rd FE_TICK_STATUS.SRC_ACT = 2 then 0x08000022 else 0
  else if e.idx = 0x1010 then if v ≠ 0x65766173 then 0x06090030 else if s.odm.saving.isSome then 0x08000020 else 0
  else if e.idx = 0x1011 then if v ≠ 0x64616F6C then 0x06090030 else if s.odm.saving.isSome then 0x08000020 else 0
  else if 0x1800 ≤ e.idx ∧ e.idx < 0x1804 ∧ e.sub = 2 then bad !((1 ≤ v && v ≤ 240) || v == 254 || v == 255)
  else if e.idx = 0x2000 then
    if e.sub = 1 then bad !(1 ≤ v && v + 2 ≤ 127) else bad (v > 1)
  else if e.idx = 0x2001 then
    bad !(timingOk ((List.range 9).map (fun k => if k + 1 = e.sub then v else s.odVal 0x2001 (k + 1))))
  else if e.idx = 0x2002 then
    if e.sub = 1 then bad !(50 ≤ v && v ≤ 5000) else bad (v > 1)
  else if e.idx = 0x2300 then bad !(150 ≤ v && v ≤ 300)
  else if e.idx = 0x2500 then
    if e.sub = 1 then bad (v > 1) else if e.sub = 2 then bad (v != 0x65706977) else bad (v % 8 != 0 || v ≥ 0x40000)
  else 0

/-- An entry without a counterpart takes a value. -/
def State.odSet (s : State) (e : OdE) (v : Nat) : State :=
  let k := odKey e.idx e.sub
  { s with odm := { s.odm with ent := if v = s.odDefault e then s.odm.ent.del k else s.odm.ent.put k v } }

/-- A counterpart's committed value and shadow (R516). -/
def State.odEnvelope (s : State) (v : Nat) : State :=
  let old := s.rd PWR_ENVELOPE.WATTS
  let s := (s.wr PWR_ENVELOPE.WATTS 0 v).wrSh PWR_ENVELOPE.WATTS 0 v
  if v = old then s else s.powerRec 1

/-- What a save stores (R517): the persistent entries that differ from their defaults, and the envelope. -/
def State.odImage (s : State) : NMap Nat :=
  let m := s.odm.ent.filter (fun p => (odTable.find? (fun e => odKey e.idx e.sub == p.1)).any (·.keep))
  let m : NMap Nat := m
  if s.rd PWR_ENVELOPE.WATTS = 300 then m else m.put (odKey 0x2300 1) (s.rd PWR_ENVELOPE.WATTS)

/-- A save (or, with `defaults`, a restore of defaults) starts; `mbx` says that the mailbox waits for it. -/
def State.odSave (s : State) (defaults mbx : Bool) : State :=
  { s with odm := { s.odm with saving := some (if defaults then [] else s.odImage), mbx := mbx } }

/-- HB_LOST, its source, and routed input 5 follow the entries lost. -/
def State.hbSync (s : State) : State :=
  let was := s.saf.routedLevel.contains 5
  let s := (s.fl ODM_NMT.HB_LOST 0 !s.odm.lost.isEmpty).syncLevel 0x563
  let b := s.odm.lost.any (fun i => bit (s.odVal 0x2003 1) i)
  let s := if b != was then s.routeLevel 5 b else s
  s.emcyClear

/-- A consumer entry that no longer holds its value `old` watches anew: its watch and its loss end, and the first heartbeat
starts the new watch (R530; log entry 92). -/
def State.watchSync (s : State) (old : Nat → Nat) : State :=
  let same (i : Nat) : Bool := s.odVal 0x1016 i == old i
  if [1, 2, 3, 4].all same then s
  else State.hbSync { s with odm := { s.odm with seen := s.odm.seen.filter (fun p => same p.1), lost := s.odm.lost.filter same } }

/-- An entry without a counterpart is written; what watches heartbeats follows its own entries. -/
def State.odPut (s : State) (e : OdE) (v : Nat) : State :=
  let t := s.odSet e v
  if e.idx = 0x1016 then t.watchSync (s.odVal 0x1016) else if e.idx = 0x2003 then t.hbSync else t

/-- The effect of a write that has passed its checks. `who` is 1 for the mailbox, 2 for a CAN client `node`. The answer is an
abort code. -/
def State.odApply (s : State) (who node : Nat) (e : OdE) (v : Nat) : Nat × State :=
  if e.idx = 0x1003 then (0, { s with errField := [] })
  else if e.idx = 0x1010 then (0, s.odSave false false)
  else if e.idx = 0x1011 then (0, s.odSave true false)
  else if e.idx = 0x2300 then (0, s.odEnvelope v)
  else if e.idx = 0x2500 ∧ e.sub = 1 then
    let r := if v = 1 then s.ldgFreeze who else s.ldgUnfreeze who
    (r.2, r.1)
  else if e.idx = 0x2500 ∧ e.sub = 2 then
    let r := s.ldgClear who (if who = 2 then node else 0)
    (r.2, r.1)
  else (0, s.odPut e v)

/-- A write access: an abort code or 0 (R515, R536). -/
def State.odWrite (s : State) (who node idx sub : Nat) (bs : List Byte) : Nat × State :=
  match s.odFind idx sub with
  | (c, none) => (c, s)
  | (_, some e) =>
    if e.acc ≤ 1 then (0x06010002, s)
    else if bs.length ≠ e.size then (0x06070010, s)
    else
      let v := ofBytes bs
      let c := s.odRange e v
      if c ≠ 0 then (c, s) else s.odApply who node e v

/-- A read access: an abort code or 0, and the bytes. -/
def State.odRead (s : State) (idx sub : Nat) : Nat × List Byte × State :=
  match s.odFind idx sub with
  | (c, none) => (c, [], s)
  | (_, some e) =>
    if e.acc = 2 then (0x06010001, [], s)
    else
      let r := s.odGet e
      (0, r.1, r.2)

/-- An access whose block is in a warm reset waits (R528, R573): the Front End's entries, and Pexlink's. -/
def State.odWaits (s : State) (idx sub : Nat) : Bool :=
  s.on RST_STATUS.WARM_ACTIVE && (idx == 0x2400 || (idx == 0x2004 && sub == 4) || (idx == 0x2800 && 1 ≤ sub && sub ≤ 3))

/-! ### Loads (R517, R527) -/

/-- The stored set in force: the copy with the higher sequence number. -/
def State.odStored (s : State) : Option (NMap Nat) :=
  match s.odm.copies with
  | [] => none
  | c :: cs => some (cs.foldl (fun (m : Nat × NMap Nat) x => if m.1 < x.1 then x else m) c).2

/-- Persistent entries for which `which` holds take their stored values, or their defaults. A stored value out of range is
left out. -/
def State.odLoad (s : State) (which : Nat → Bool) : State :=
  let st := (s.odStored).getD []
  let s := { s with odm := { s.odm with ent := s.odm.ent.filter (fun p => !which (p.1 / 256)) } }
  let es := odTable.filter (fun e => e.keep && which e.idx && e.idx != 0x2300)
  let plain (e : OdE) : Bool := !((0x1600 ≤ e.idx && e.idx < 0x1604) || (0x1A00 ≤ e.idx && e.idx < 0x1A04) || e.idx == 0x2001)
  let tim := (List.range 9).map (fun k => (st.get? (odKey 0x2001 (k + 1))).getD ((odTiming.getD k (1, 0)).2))
  let s := es.foldl (fun s e => match st.get? (odKey e.idx e.sub) with
    | none => s
    | some v =>
      let ok := if plain e then s.odRange e v = 0 || e.idx == 0x1005 else if e.idx = 0x2001 then timingOk tim else true
      if ok then s.odSet e v else s) s
  if which 0x2300 then s.odEnvelope (let v := (st.get? (odKey 0x2300 1)).getD 300; if 150 ≤ v ∧ v ≤ 300 then v else 300) else s

end Sys2Proof.Machine
end

