-- ==== Sys2Proof/Machine/Canopen.lean ====
section
/-! DEFINITION. The CANopen FD node and the mailbox (R520 to R541): NMT, heartbeat, SYNC, EMCY, USDO, PDOs. -/

namespace Sys2Proof.Machine

/-! ### The bus -/

/-- Change the node's own state. -/
def State.updOdm (s : State) (f : Odm → Odm) : State := { s with odm := f s.odm }

/-- The node runs: its dictionary has started, and the device is neither in NAP nor in OFF (R524, R526, R590). -/
def State.nodeUp (s : State) : Bool :=
  (s.on ODM_CAN.RUN 0 || s.on ODM_CAN.RUN 1) && s.rd PWR_STATUS.STATE != 2 && !s.pwr.off

/-- Controller `k` is on its bus. -/
def State.canUp (s : State) (k : Nat) : Bool := s.on ODM_CAN.RUN k && s.rd ODM_CAN.BUS k != 2

/-- A frame is sent on every bus that runs (R522). -/
def State.sendCan (s : State) (cob : Nat) (d : List Nat) : State :=
  [0, 1].foldl (fun s k => if s.canUp k then (s.emit (.can k (cob % 0x800) d)).count ODM_CAN.TX_FRAMES k else s) s

/-- The node's answer on the bus of a session (R522, R535): client, abort code, data. -/
def State.sendUsdo (s : State) (bus client code : Nat) (bs : List Byte) : State :=
  if s.canUp bus then
    (s.emit (.can bus (0x580 + s.rd ODM_NMT.NODE_ID) ([client, code] ++ bs.map BitVec.toNat))).count ODM_CAN.TX_FRAMES bus
  else s

/-- A frame with COB-ID `cob` arrives on `bus`: it is counted; the copy of one taken from the other bus within 100 µs is
discarded (R522). The answer says whether the frame is taken. -/
def State.canRx (s : State) (bus cob : Nat) : Bool × State :=
  if bus > 1 ∨ ¬ s.nodeUp ∨ ¬ s.canUp bus then (false, s)
  else
    let s := s.count ODM_CAN.RX_FRAMES bus
    let live := s.odm.rx.filter (fun r => s.now ≤ r.2.2 + 100000)
    match live.find? (fun r => r.1 == cob && r.2.1 != bus) with
    | some r => (false, s.updOdm (fun o => { o with rx := live.erase r }))
    | none => (true, s.updOdm (fun o => { o with rx := live ++ [(cob, bus, s.now)] }))

/-! ### NMT (R525 to R528) -/

/-- The NMT state changes; each change raises ODM_NMT. -/
def State.nmtSet (s : State) (st : Nat) : State :=
  if s.rd ODM_NMT.STATE = st then s else (s.wr ODM_NMT.STATE 0 st).raise 0x562

/-- The boot-up message, into pre-operational. -/
def State.bootUp (s : State) : State :=
  let s := (s.wr ODM_NMT.NODE_ID 0 (s.odVal 0x2000 1 + s.dev)).wrs 0 [(ODM_CAN.RUN, 1)]
  let s := s.fl ODM_CAN.RUN 1 (s.odVal 0x2000 2 == 1)
  let s := s.updOdm (fun o => { o with timing := (List.range 9).map (fun k => s.odVal 0x2001 (k + 1)), hbAt := s.now, syncAt := s.now })
  (s.sendCan (0x700 + s.rd ODM_NMT.NODE_ID) [0]).nmtSet 1

/-- The dictionary starts with the stored set, or with defaults and EMCY 0x5530 (R517, R526, R528). -/
def State.odmStart (s : State) (recovery : Bool) : State :=
  let s := (s.fl ODM_NMT.RECOVERY 0 recovery).odLoad (fun _ => true)
  let none_ := s.odStored.isNone
  let s := s.bootUp
  if none_ then s.emcy 0x5530 0 s.lastInc else s

/-- What a communication error does (0x1029 sub 1): 0 an operational node goes pre-operational, 1 nothing, 2 it stops. -/
def State.commError (s : State) : State :=
  let v := s.odVal 0x1029 1
  if v = 0 then (if s.rd ODM_NMT.STATE = 2 then s.nmtSet 1 else s)
  else if v = 2 then (if s.rd ODM_NMT.STATE = 0 then s else s.nmtSet 3) else s

/-- An NMT command for node `node` (0 for all) arrives on `bus`; it reaches a node that has left initialisation. -/
def State.nmtCmd (s : State) (node bus : Nat) (f : State → State) : State :=
  let r := s.canRx bus 0
  if r.1 ∧ (node = 0 ∨ node = r.2.rd ODM_NMT.NODE_ID) ∧ r.2.rd ODM_NMT.STATE ≠ 0 then f r.2 else r.2

/-- NMT_START: start remote node. -/
def execNmtStart (node bus : Nat) (s : State) : Host.Outcome State Fault Refusal := .next (s.nmtCmd node bus (fun s => s.nmtSet 2))

/-- NMT_STOP: stop remote node. -/
def execNmtStop (node bus : Nat) (s : State) : Host.Outcome State Fault Refusal := .next (s.nmtCmd node bus (fun s => s.nmtSet 3))

/-- NMT_ENTER_PREOP: enter pre-operational. -/
def execNmtEnterPreop (node bus : Nat) (s : State) : Host.Outcome State Fault Refusal :=
  .next (s.nmtCmd node bus (fun s => s.nmtSet 1))

/-- Reset communication: initialisation, the objects of `which` from the stored set, 0x1003 cleared, boot-up (R527). -/
def State.resetComm (s : State) (which : Nat → Bool) : State :=
  let t := ((s.nmtSet 0).odLoad which).watchSync (s.odVal 0x1016)
  State.bootUp { t with errField := [] }

/-- NMT_RESET_COMM: reset communication. -/
def execNmtResetComm (node bus : Nat) (s : State) : Host.Outcome State Fault Refusal :=
  .next (s.nmtCmd node bus (fun s => s.resetComm (fun i => 0x1000 ≤ i && i ≤ 0x1FFF)))

/-- NMT_RESET_NODE: reset node; with RESET_ACTION = 1 it also asks for a warm reset, with an incident (R527). -/
def execNmtResetNode (node bus : Nat) (s : State) : Host.Outcome State Fault Refusal :=
  .next (s.nmtCmd node bus (fun s =>
    let warm := s.odVal 0x2000 3 == 1
    let s := s.resetComm (fun _ => true)
    if warm ∧ s.on RST_BOOT_CTL.ENABLED then (s.incident 4 9 0x562).2 else s))

/-! ### Heartbeat (R529, R530) -/

/-- The heartbeat's byte for an NMT state. -/
def nmtByte (st : Nat) : Nat := if st = 1 then 127 else if st = 2 then 5 else if st = 3 then 4 else 0

/-- HEARTBEAT_PRODUCE: the producer's time has elapsed. -/
def execHeartbeatProduce (s : State) : Host.Outcome State Fault Refusal :=
  let ms := s.odVal 0x1017 0
  if s.nodeUp ∧ s.rd ODM_NMT.STATE ≠ 0 ∧ ms ≠ 0 ∧ s.odm.hbAt + ms * 1000000 ≤ s.now then
    let s := s.updOdm (fun o => { o with hbAt := s.now })
    .next (s.sendCan (0x700 + s.rd ODM_NMT.NODE_ID) [nmtByte (s.rd ODM_NMT.STATE)])
  else .next s

/-- HEARTBEAT_CONSUME: node `node`'s heartbeat arrives: the watch of its entries begins anew and a loss ends. -/
def execHeartbeatConsume (node bus : Nat) (s : State) : Host.Outcome State Fault Refusal :=
  let (ok, s) := s.canRx bus (0x700 + node)
  if ¬ ok ∨ node = 0 ∨ s.rd ODM_NMT.STATE = 0 then .next s
  else
    let es := [1, 2, 3, 4].filter (fun i => bits (s.odVal 0x1016 i) 16 7 == node && s.odVal 0x1016 i % 0x10000 != 0)
    let s := s.updOdm (fun o => { o with seen := es.foldl (fun m i => m.put i s.now) o.seen, lost := o.lost.filter (fun i => !es.contains i) })
    .next s.hbSync

/-- HEARTBEAT_LOST: consumer entry `i` (1 to 4) has been silent for longer than its time. -/
def execHeartbeatLost (i : Nat) (s : State) : Host.Outcome State Fault Refusal :=
  let ms := s.odVal 0x1016 i % 0x10000
  match s.odm.seen.get? i with
  | none => .next s
  | some t =>
    if s.nodeUp ∧ 1 ≤ i ∧ i ≤ 4 ∧ ms ≠ 0 ∧ t + ms * 1000000 < s.now then
      let s := s.updOdm (fun o => { o with seen := o.seen.del i, lost := if o.lost.contains i then o.lost else i :: o.lost })
      .next ((s.hbSync.emcy 0x8130 0x563 s.lastInc).commError)
    else .next s

/-! ### SYNC (R531, R532) -/

/-- SYNC_RECEIVE: a SYNC frame whose start of frame was `ago` ns ago ends, `good` without error. It counts towards the TPDOs
of type 1 to 240, and with SRC = 2 its tick event is due SYNC_DELAY_EFF after the start of frame; one that ends later, or with
an error, gives none. -/
def execSyncReceive (bus ago : Nat) (good : Bool) (s : State) : Host.Outcome State Fault Refusal :=
  let (ok, s) := if good then s.canRx bus (s.odVal 0x1005 0 % 0x800)
    else (bus ≤ 1 && s.nodeUp && s.canUp bus, if bus ≤ 1 ∧ s.nodeUp ∧ s.canUp bus then s.count ODM_CAN.ERR_FRAMES bus else s)
  if ¬ ok ∨ s.rd ODM_NMT.STATE = 0 then .next s
  else
    let s := if good ∧ s.rd ODM_NMT.STATE = 2 then
        s.updOdm (fun o => { o with syncs := [0, 1, 2, 3].foldl (fun m n => m.put n ((m.get? n).getD 0 + 1)) o.syncs })
      else s
    if s.tickSrc ≠ 2 then .next s
    else if ago > s.syncDelay * 1000 then .next ((s.count ODM_CTR.SYNC_LATE).raise 0x568)
    else .next (s.updOdm (fun o => { o with sof := some (s.now - ago, good), sofBus := bus }))

/-- SYNC_TICK_DELAY: SYNC_DELAY_EFF has passed since the start of frame of a SYNC. -/
def execSyncTickDelay (s : State) : Host.Outcome State Fault Refusal :=
  match s.odm.sof with
  | none => .next s
  | some (t, good) =>
    if s.now < t + s.syncDelay * 1000 then .next s
    else
      let s := s.updOdm (fun o => { o with sof := none })
      .next (if good then s.extTick 2 none else (s.count ODM_CTR.SYNC_LATE).raise 0x568)

/-- SYNC_PRODUCE: the node's period has elapsed, or with SYNC_AT_TICK a tick has started since its last SYNC (R532). -/
def execSyncProduce (s : State) : Host.Outcome State Fault Refusal :=
  let cob := s.odVal 0x1005 0
  let us := s.odVal 0x1006 0
  let atTick := s.odVal 0x2002 2 == 1
  let due := if atTick then s.odm.syncTick != s.rd FE_TICK_COUNT.COUNT else us != 0 && s.odm.syncAt + us * 1000 ≤ s.now
  if s.nodeUp ∧ bit cob 30 ∧ (s.rd ODM_NMT.STATE = 1 ∨ s.rd ODM_NMT.STATE = 2) ∧ s.rd FE_TICK_STATUS.SRC_ACT ≠ 2 ∧ s.tickSrc ≠ 2 ∧ due then
    let top := s.odVal 0x1019 0
    let k := if s.odm.syncN ≥ top then 1 else s.odm.syncN + 1
    let s := s.updOdm (fun o => { o with syncAt := s.now, syncTick := s.rd FE_TICK_COUNT.COUNT, syncN := k })
    .next (s.sendCan cob (if top = 0 then [] else [k]))
  else .next s

/-! ### EMCY and bus-off (R523, R533, R534) -/

/-- EMCY_SEND: the inhibit time has passed since the last EMCY, and the next one is sent. -/
def execEmcySend (s : State) : Host.Outcome State Fault Refusal :=
  match s.emcyQ with
  | [] => .next s
  | (code, src, inc) :: r =>
    let ok : Bool := match s.odm.emcyAt with
      | some t => decide (t + s.odVal 0x1015 0 * 100000 ≤ s.now)
      | none => true
    if s.nodeUp ∧ (s.rd ODM_NMT.STATE = 1 ∨ s.rd ODM_NMT.STATE = 2) ∧ ok then
      let s := { s.updOdm (fun o => { o with emcyAt := some s.now }) with emcyQ := r }
      let s := s.sendCan (s.odVal 0x1014 0) ((leBytes 2 code ++ leBytes 1 s.errReg ++ leBytes 2 src ++ leBytes 4 inc).map BitVec.toNat)
      .next (s.count ODM_CTR.EMCY_SENT)
    else .next s

/-- Every running controller is bus-off. -/
def State.allOff (s : State) : Bool := [0, 1].all (fun k => !s.on ODM_CAN.RUN k || s.rd ODM_CAN.BUS k == 2)

/-- BUS_OFF: controller `k` reaches bus-off. -/
def execBusOff (k : Nat) (s : State) : Host.Outcome State Fault Refusal :=
  if k > 1 ∨ ¬ s.nodeUp ∨ ¬ s.canUp k then .next s
  else
    let s := ((s.wr ODM_CAN.BUS k 2).count ODM_CAN.BUS_OFF k).linkRec 4 k 2
    let s := s.raise (0x564 + k)
    .next (if s.allOff then s.commError else s)

/-- BUS_OFF_RECOVER: 128 occurrences of 11 recessive bits have passed. -/
def execBusOffRecover (k : Nat) (s : State) : Host.Outcome State Fault Refusal :=
  if k > 1 ∨ ¬ s.nodeUp ∨ ¬ s.on ODM_CAN.RUN k ∨ s.rd ODM_CAN.BUS k ≠ 2 then .next s
  else
    let all := s.allOff
    let s := (s.wrs k [(ODM_CAN.BUS, 0), (ODM_CAN.TEC, 0), (ODM_CAN.REC, 0)]).linkRec 4 k 0
    .next (if all then s.emcy 0x8140 (0x564 + k) s.lastInc else s)

/-! ### USDO (R535) -/

/-- The answer to client `c` on `bus`; a session stays while its transfer goes on. -/
def State.usdoAnswer (bus c : Nat) (more : Bool) (r : Nat × List Byte × State) : State :=
  let s := { r.2.2 with rdata := r.1 }
  let s := s.updOdm (fun o => { o with sess := if more ∧ r.1 = 0 then o.sess.put c (bus, s.now) else o.sess.del c })
  (if r.1 = 0 then s else s.count ODM_CTR.USDO_ABORTS).sendUsdo bus c r.1 r.2.1

/-- The mailbox's request ends (R541). -/
def State.mbxEnd (s : State) (code len : Nat) : State :=
  let s := if code = 0 then s else s.count ODM_CTR.USDO_ABORTS
  (s.wrs 0 [(ODM_MBX_CTL.BUSY, 0), (ODM_MBX_CTL.DONE, 1), (ODM_MBX_CTL.RLEN, len), (ODM_MBX_ABORT.ABORT, code)]).raise 0x561

/-- The mailbox's request is served: a read into the data buffer, a write of LENGTH bytes of it, or a save or a restore of
defaults, which ends with SAVE_DONE (R517, R541). -/
def State.mbxServe (s : State) (op : Nat) : State :=
  let idx := s.rd ODM_MBX_CMD.INDEX
  let sub := s.rd ODM_MBX_CMD.SUB
  if op = 0 then
    let (code, bs, s) := s.odRead idx sub
    let s := if code = 0 then s.updOdm (fun o => { o with buf := bs ++ o.buf.drop bs.length }) else s
    s.mbxEnd code bs.length
  else if op = 1 then
    let bs := (s.odm.buf ++ List.replicate 4096 0).take (s.rd ODM_MBX_CMD.LENGTH)
    let (code, s) := s.odWrite 1 0 idx sub bs
    if code = 0 ∧ (idx = 0x1010 ∨ idx = 0x1011) then s.updOdm (fun o => { o with mbx := true }) else s.mbxEnd code 0
  else if s.odm.saving.isSome then s.mbxEnd 0x08000020 0
  else s.odSave (op == 3) true

/-- The entries of an RPDO with their values. -/
def State.rpdoVals (data : List Byte) : (ws : List Nat) → (o : Nat) → List (OdE × List Byte)
  | [], _ => []
  | w :: ws, o => match mapEntry true w with
    | some e => (e, (data.drop o).take e.size) :: rpdoVals data ws (o + e.size)
    | none => rpdoVals data ws (o + w % 256 / 8)

/-- RPDO `n`'s entries are applied in mapping order as one access, or it is discarded whole (R539). -/
def State.rpdoServe (s : State) (n : Nat) (data : List Nat) : State :=
  let ws := s.mapping (0x1600 + n)
  let es := State.rpdoVals (data.map (BitVec.ofNat 8)) ws 0
  if data.length < mapBytes ws ∨ es.any (fun p => s.odRange p.1 (ofBytes p.2) != 0) then
    (s.count ODM_CTR.RPDO_REJECT).emcy 0x8210 0 s.lastInc
  else es.foldl (fun s p => (s.odApply 2 0 p.1 (ofBytes p.2)).2) s

/-- An access is served; a USDO download is, with the request that ends the transfer. -/
def State.odServe (s : State) : OdReq → State
  | .mbx op => s.mbxServe op
  | .up bus c idx sub more => State.usdoAnswer bus c more (s.odRead idx sub)
  | .down bus c idx sub data more => State.usdoAnswer bus c more (
      if more then (0, [], s)
      else
        let r := s.odWrite 2 c idx sub (data.map (BitVec.ofNat 8))
        (r.1, [], r.2))
  | .rpdo n data => s.rpdoServe n data

/-- The entry of an access waits (R528). -/
def State.odHeld (s : State) : OdReq → Bool
  | .mbx op => op ≤ 1 && s.odWaits (s.rd ODM_MBX_CMD.INDEX) (s.rd ODM_MBX_CMD.SUB)
  | .up _ _ idx sub _ => s.odWaits idx sub
  | .down _ _ idx sub _ _ => s.odWaits idx sub
  | .rpdo _ _ => false

/-- An access joins those that wait; its USDO session stands. -/
def State.odWait (s : State) (r : OdReq) : State :=
  s.updOdm (fun o => { o with
    waiting := o.waiting ++ [r]
    sess := match r with
      | .up bus c _ _ _ => o.sess.put c (bus, s.now)
      | .down bus c _ _ _ _ => o.sess.put c (bus, s.now)
      | _ => o.sess })

/-- An access arrives. Accesses are served one at a time in arrival order (R515), so that one behind a waiting access waits too. -/
def State.odTake (s : State) (r : OdReq) : State :=
  if s.odHeld r ∨ ¬ s.odm.waiting.isEmpty then s.odWait r else s.odServe r

/-- At the end of a warm reset the waiting accesses are served. -/
def State.odDrain (s : State) : State := s.odm.waiting.foldl State.odServe (s.updOdm (fun o => { o with waiting := [] }))

/-- A request of client `c` on `bus`, on COB-ID 0x600 + `c`: a copy of one taken from the other bus (R522) and a request on
another bus than its session's are ignored, a fifth client is aborted. -/
def State.usdo (s : State) (bus c : Nat) (r : OdReq) : State :=
  if c = 0 ∨ c > 127 ∨ ¬ (s.rd ODM_NMT.STATE = 1 ∨ s.rd ODM_NMT.STATE = 2) then s
  else
    let (ok, s) := s.canRx bus (0x600 + c)
    let old := s.odm.sess.get? c
    if ¬ ok ∨ old.any (fun x => x.1 != bus) then s
    else if old.isNone ∧ s.odm.sess.length ≥ 4 then
      ({ s with rdata := 0x05040005 }.count ODM_CTR.USDO_ABORTS).sendUsdo bus c 0x05040005 []
    else s.odTake r

/-- USDO_UPLOAD: a client reads an entry. -/
def execUsdoUpload (bus c idx sub : Nat) (more : Bool) (s : State) : Host.Outcome State Fault Refusal :=
  .next (s.usdo bus c (.up bus c idx sub more))

/-- USDO_DOWNLOAD: a client writes an entry. -/
def execUsdoDownload (bus c idx sub : Nat) (data : List Nat) (more : Bool) (s : State) : Host.Outcome State Fault Refusal :=
  .next (s.usdo bus c (.down bus c idx sub data more))

/-- Its request waits for the end of a warm reset. -/
def OdReq.ofClient (c : Nat) : OdReq → Bool
  | .up _ k _ _ _ => k == c
  | .down _ k _ _ _ _ => k == c
  | _ => false

/-- USDO_TIMEOUT: a session of client `c` has had no request for 1,000 ms. -/
def execUsdoTimeout (c : Nat) (s : State) : Host.Outcome State Fault Refusal :=
  match s.odm.sess.get? c with
  | some (bus, t) =>
    if t + 1000000000 ≤ s.now then
      let s := (s.updOdm (fun o => { o with sess := o.sess.del c, waiting := o.waiting.filter (fun r => !r.ofClient c) })).count ODM_CTR.USDO_ABORTS
      .next (s.sendUsdo bus c 0x05040000 [])
    else .next s
  | none => .next s

/-- STORE_PARAMETERS: a client writes `sig` to 0x1010 sub 1 (R517). -/
def execStoreParameters (bus c sig : Nat) (s : State) : Host.Outcome State Fault Refusal :=
  .next (s.usdo bus c (.down bus c 0x1010 1 ((leBytes 4 sig).map BitVec.toNat) false))

/-- RESTORE_DEFAULTS: a client writes `sig` to 0x1011 sub 1. -/
def execRestoreDefaults (bus c sig : Nat) (s : State) : Host.Outcome State Fault Refusal :=
  .next (s.usdo bus c (.down bus c 0x1011 1 ((leBytes 4 sig).map BitVec.toNat) false))

/-- SAVE_DONE: what was being saved has been written over the older copy (R517). -/
def execSaveDone (s : State) : Host.Outcome State Fault Refusal :=
  match s.odm.saving with
  | none => .next s
  | some m =>
    let top := s.odm.copies.foldl (fun n c => max n c.1) 0
    let keep := if s.odm.copies.length < 2 then s.odm.copies else s.odm.copies.filter (fun c => c.1 == top)
    let mbx := s.odm.mbx
    let s := (s.updOdm (fun o => { o with copies := keep ++ [(top + 1, m)], saving := none, mbx := false })).raise 0x567
    .next (if mbx then s.mbxEnd 0 0 else s)

/-! ### PDOs (R537 to R539) -/

/-- The transmission a TPDO waits for has come (R538). -/
def State.tpdoDue (s : State) (n : Nat) (bs : List Byte) : Bool :=
  let typ := s.odVal (0x1800 + n) 2
  if typ ≤ 240 then (s.odm.syncs.get? n).getD 0 ≥ typ && typ != 0
  else if typ = 254 then (s.odm.tpTick.get? n).getD 0 != s.rd FE_TICK_COUNT.COUNT
  else
    let at_ := (s.odm.tpAt.get? n).getD 0
    let inh := s.odVal (0x1800 + n) 3 * 100000
    let ev := s.odVal (0x1800 + n) 5 * 1000000
    ((s.odm.tpVal.get? n) != some bs && at_ + inh ≤ s.now) || (ev != 0 && at_ + ev ≤ s.now)

/-- The bytes of mapped entries, sampled in one step (R515). -/
def State.sample (s : State) (ws : List Nat) : List Byte × State :=
  ws.foldl (fun (p : List Byte × State) w => match mapEntry false w with
    | some e =>
      let r := p.2.odGet e
      (p.1 ++ r.1, r.2)
    | none => p) ([], s)

/-- TPDO: the trigger of TPDO `n` (0 to 3) has come: its mapped entries are sampled and the frame is queued; one with an entry
whose block is in a warm reset waits (R528). -/
def execTpdo (n : Nat) (s : State) : Host.Outcome State Fault Refusal :=
  if n ≥ 4 ∨ ¬ s.nodeUp ∨ s.rd ODM_NMT.STATE ≠ 2 ∨ s.on ODM_NMT.RECOVERY ∨ bit (s.odVal (0x1800 + n) 1) 31 ∨
      (s.mapping (0x1A00 + n)).any (fun w => s.odWaits (bits w 16 16) (bits w 8 8)) then .next s
  else
    let (bs, s) := s.sample (s.mapping (0x1A00 + n))
    if ¬ s.tpdoDue n bs then .next s
    else
      let s := s.updOdm (fun o => { o with
        syncs := o.syncs.put n 0, tpTick := o.tpTick.put n (s.rd FE_TICK_COUNT.COUNT), tpAt := o.tpAt.put n s.now, tpVal := o.tpVal.put n bs })
      .next (s.sendCan (s.odVal (0x1800 + n) 1) (bs.map BitVec.toNat))

/-- RPDO: RPDO `n` (0 to 3) is received on `bus`. -/
def execRpdo (n bus : Nat) (data : List Nat) (s : State) : Host.Outcome State Fault Refusal :=
  if n ≥ 4 then .next s
  else
    let (ok, s) := s.canRx bus (s.odVal (0x1400 + n) 1 % 0x800)
    if ¬ ok ∨ s.rd ODM_NMT.STATE ≠ 2 ∨ s.on ODM_NMT.RECOVERY ∨ bit (s.odVal (0x1400 + n) 1) 31 then .next s
    else .next (s.odTake (.rpdo n data))

/-! ### The mailbox (R541) -/

/-- A GO of the mailbox with operation `op` in ODM_MBX_CMD. -/
def State.mbxGo (s : State) (op : Nat) : State :=
  if ¬ s.winUp .odm ∨ s.rd ODM_MBX_CMD.OP ≠ op then s
  else if s.on ODM_MBX_CTL.BUSY then s.cfgErr .odm 8
  else ((s.fl ODM_MBX_CTL.BUSY 0 true).wr ODM_MBX_ABORT.ABORT 0 0).odTake (.mbx op)

/-- MBX_READ: a read request. -/
def execMbxRead (s : State) : Host.Outcome State Fault Refusal := .next (s.mbxGo 0)

/-- MBX_WRITE: a write request with LENGTH bytes of the data buffer. -/
def execMbxWrite (s : State) : Host.Outcome State Fault Refusal := .next (s.mbxGo 1)

/-- MBX_SAVE: a save; the request ends with SAVE_DONE. -/
def execMbxSave (s : State) : Host.Outcome State Fault Refusal := .next (s.mbxGo 2)

/-- MBX_RESTORE: a restore of defaults. -/
def execMbxRestore (s : State) : Host.Outcome State Fault Refusal := .next (s.mbxGo 3)

end Sys2Proof.Machine
end

