-- ==== Sys2Proof/Machine/Crypto.lean ====
section
/-! DEFINITION. SHA-512 (FIPS 180-4) and the verification of Ed25519 signatures (RFC 8032, section 5.1.7) as R554 asks for it:
the cofactored equation, with S at or above the group order and non-canonical encodings of R and of the key rejected. -/

namespace Sys2Proof.Machine

/-! ### SHA-512 -/

/-- The largest x below 2^k with `f x` at most `n`, for a monotone `f`. -/
def rootOf (f : Nat → Nat) (n : Nat) : (k : Nat) → (acc : Nat) → Nat
  | 0, acc => acc
  | k + 1, acc => rootOf f n k (if f (acc + 2 ^ k) ≤ n then acc + 2 ^ k else acc)

/-- The first 80 primes. -/
def primes80 : List Nat := ((List.range 410).filter (fun n => n ≥ 2 && (List.range n).all (fun d => d < 2 || n % d != 0))).take 80

/-- The round constants: fractional bits of cube roots of primes. -/
def shaK : List (BitVec 64) := primes80.map (fun p => BitVec.ofNat 64 (rootOf (fun x => x * x * x) (p * 2 ^ 192) 68 0))

/-- The initial hash: fractional bits of square roots of primes. -/
def shaH : List (BitVec 64) := (primes80.take 8).map (fun p => BitVec.ofNat 64 (rootOf (fun x => x * x) (p * 2 ^ 128) 68 0))

/-- A 64-bit word from 8 bytes, the most significant first. -/
def beWord (bs : List Byte) : BitVec 64 := BitVec.ofNat 64 (bs.foldl (fun n b => n * 256 + b.toNat) 0)

/-- `n` bytes of a number, the most significant first. -/
def beBytes (n v : Nat) : List Byte := (leBytes n v).reverse

/-- The padded message. -/
def shaPad (m : List Byte) : List Byte :=
  let k := (239 - m.length % 128) % 128
  m ++ [0x80] ++ List.replicate k 0 ++ beBytes 16 (8 * m.length)

/-- The message schedule, newest word first. -/
def shaSched : (n : Nat) → List (BitVec 64) → List (BitVec 64)
  | 0, w => w
  | n + 1, w =>
    let g (k : Nat) : BitVec 64 := w.getD (k - 1) 0
    let a := g 2
    let b := g 15
    let s1 := a.rotateRight 19 ^^^ a.rotateRight 61 ^^^ (a >>> 6)
    let s0 := b.rotateRight 1 ^^^ b.rotateRight 8 ^^^ (b >>> 7)
    shaSched n ((s1 + g 7 + s0 + g 16) :: w)

/-- One round over the eight working variables. -/
def shaRound (v : List (BitVec 64)) (kw : BitVec 64 × BitVec 64) : List (BitVec 64) :=
  match v with
  | [a, b, c, d, e, f, g, h] =>
    let t1 := h + (e.rotateRight 14 ^^^ e.rotateRight 18 ^^^ e.rotateRight 41) + ((e &&& f) ^^^ (~~~e &&& g)) + kw.1 + kw.2
    let t2 := (a.rotateRight 28 ^^^ a.rotateRight 34 ^^^ a.rotateRight 39) + ((a &&& b) ^^^ (a &&& c) ^^^ (b &&& c))
    [t1 + t2, a, b, c, d + t1, e, f, g]
  | _ => v

/-- One block of 128 bytes. -/
def shaBlock (h : List (BitVec 64)) (b : List Byte) : List (BitVec 64) :=
  let w0 := (List.range 16).map (fun i => beWord ((b.drop (8 * i)).take 8))
  let ws := (shaSched 64 w0.reverse).reverse
  let v := (shaK.zip ws).foldl shaRound h
  (h.zip v).map (fun p => p.1 + p.2)

/-- The blocks of a padded message. -/
def shaBlocks : (n : Nat) → List (BitVec 64) → List Byte → List (BitVec 64)
  | 0, h, _ => h
  | n + 1, h, bs => shaBlocks n (shaBlock h (bs.take 128)) (bs.drop 128)

/-- SHA-512. -/
def sha512 (m : List Byte) : List Byte :=
  let p := shaPad m
  (shaBlocks (p.length / 128) shaH p).flatMap (fun x => beBytes 8 x.toNat)

/-! ### Ed25519 -/

/-- The field's prime and the group's order. -/
def edP : Nat := 2 ^ 255 - 19
def edL : Nat := 2 ^ 252 + 27742317777372353535851937790883648493

/-- Powers by square and multiply from the top bit down. -/
def expP (b e : Nat) : (n : Nat) → (acc : Nat) → Nat
  | 0, acc => acc
  | n + 1, acc => expP b e n (if bit e n then acc * acc % edP * b % edP else acc * acc % edP)

/-- The inverse, 0 for 0. -/
def invP (x : Nat) : Nat := expP (x % edP) (edP - 2) 255 1

/-- The difference. -/
def subP (a b : Nat) : Nat := (a + edP - b % edP) % edP

/-- The curve's constant. -/
def edD : Nat := subP 0 (121665 * invP 121666 % edP)

/-- A square root of -1. -/
def sqrtM1 : Nat := expP 2 ((edP - 1) / 4) 255 1

/-- A point (X, Y, Z, T) with x = X/Z, y = Y/Z, xy = T/Z. -/
structure EdPoint where
  x : Nat
  y : Nat
  z : Nat
  t : Nat
  deriving DecidableEq, Repr

/-- The sum of two points. -/
def edAdd (p q : EdPoint) : EdPoint :=
  let a := subP p.y p.x * subP q.y q.x % edP
  let b := (p.y + p.x) * (q.y + q.x) % edP
  let c := 2 * p.t * q.t % edP * edD % edP
  let d := 2 * p.z * q.z % edP
  let e := subP b a
  let f := subP d c
  let g := (d + c) % edP
  let h := (b + a) % edP
  { x := e * f % edP, y := g * h % edP, z := f * g % edP, t := e * h % edP }

/-- The neutral point. -/
def edZero : EdPoint := { x := 0, y := 1, z := 1, t := 0 }

/-- A multiple of a point, over the lower `n` bits of the factor. -/
def edMul (k : Nat) (p : EdPoint) : (n : Nat) → (acc : EdPoint) → EdPoint
  | 0, acc => acc
  | n + 1, acc =>
    let d := edAdd acc acc
    edMul k p n (if bit k n then edAdd d p else d)

/-- The same point. -/
def edEq (p q : EdPoint) : Bool := p.x * q.z % edP == q.x * p.z % edP && p.y * q.z % edP == q.y * p.z % edP

/-- A point from its 32-byte encoding; none where it is not a canonical one (RFC 8032, section 5.1.3). -/
def edDecode (v : Nat) : Option EdPoint :=
  let y := v % 2 ^ 255
  let sign := v / 2 ^ 255 % 2
  if y ≥ edP then none
  else
    let u := subP (y * y) 1
    let w := (edD * (y * y % edP) + 1) % edP
    let x2 := u * invP w % edP
    let r := expP x2 ((edP + 3) / 8) 255 1
    let x := if r * r % edP = x2 then some r
      else
        let r := r * sqrtM1 % edP
        if r * r % edP = x2 then some r else none
    match x with
    | none => none
    | some x =>
      if x = 0 ∧ sign = 1 then none
      else
        let x := if x % 2 = sign then x else edP - x
        some { x := x, y := y, z := 1, t := x * y % edP }

/-- The base point. -/
def edBase : Option EdPoint := edDecode (4 * invP 5 % edP)

/-- A signature of `m` verifies under a public key; both are numbers of 32 and 64 bytes, the least significant first. -/
def edVerify (key : Nat) (m sig : List Byte) : Bool :=
  let r := ofBytes (sig.take 32)
  let sc := ofBytes ((sig.drop 32).take 32)
  match edBase, edDecode key, edDecode r with
  | some b, some a, some rp =>
    let k := ofBytes (sha512 (leBytes 32 r ++ leBytes 32 key ++ m)) % edL
    sc < edL && edEq (edMul 8 (edMul sc b 253 edZero) 4 edZero) (edMul 8 (edAdd rp (edMul k a 253 edZero)) 4 edZero)
  | _, _, _ => false

end Sys2Proof.Machine
end

