-- ==== Sys2Proof/Machine/TallyCmds.lean ====
section
/-! DEFINITION. The commands of the Tally unit (chapter 05): signals through BAR2 and the aperture, polls, failed exports,
and TLY_INIT. -/

namespace Sys2Proof.Machine

/-- TALLY_SIGNAL: the signals that reach Tally `t` in one fabric clock (R131 to R134). -/
def execTallySignal (t : Nat) (vs : List Nat) (s : State) : Host.Outcome State Fault Refusal :=
  .next (if t < 8192 then s.signalMany t (vs.map (· % 2 ^ 64)) else s)

/-- EXPORT_WRITE_ERROR: the next export write of Tally `t` gets an error response: it is lost, counted and raised when it is
made, and no message follows it (R144). That the command stands before the write is the model's form (log entry 69, DESIGN
CHOICE). -/
def execExportWriteError (t : Nat) (s : State) : Host.Outcome State Fault Refusal :=
  .next (if t < 8192 ∧ s.on TLY_EXP.EN t then { s with tly := { s.tly with expErr := t :: s.tly.expErr } } else s)

/-- A display commit's wait that a poll released counts from 1 µs later (R405). -/
def State.polledGlz (s : State) (who : Waiter) : State := match who with
  | .glz p => { s with glz := { s.glz with pipes := s.glz.pipes.upd p (fun x => { x with pend := x.pend.map (fun c =>
      { c with at_ := c.at_.map (· + 1000) }) }) } }
  | _ => s

/-- WAIT_POLL: the `k`-th polling waiter of Tally `t` re-reads the value and tries for a pool entry (R138). -/
def execWaitPoll (t k : Nat) (s : State) : Host.Outcome State Fault Refusal :=
  match (s.tly.waits.filter (fun w => w.tally == t && w.polling))[k]? with
  | none => .next s
  | some w =>
    let v := s.tval t
    if (v = poison ∨ v ≥ w.target) ∧ ¬ w.who.isRemote then .next (((s.dropWait w).wakeWaiter w.who (v == poison)).polledGlz w.who)
    else if s.rd TLY_POOL.FREE > 0 then
      let free := s.rd TLY_POOL.FREE - 1
      let s := (s.wr TLY_POOL.FREE 0 free).wr TLY_POOL.LOW_WATER 0 (min free (s.rd TLY_POOL.LOW_WATER))
      .next (State.waitSync { s with tly := { s.tly with
        waits := s.tly.waits.map (fun x => if x = w then { x with polling := false } else x) } } t)
    else .next s

/-- The Tallies that respond to function `n`: all to the PF; to a VF those in the ranges of the partitions that own its
contexts (R52). -/
def State.vfTally (s : State) (n t : Nat) : Bool :=
  n == 0 || match s.tallyOwner t with
    | some p => (List.range (s.rd GLB_VF_MAP.CTX_COUNT n)).any (fun i => s.partOf (s.rd GLB_VF_MAP.CTX_BASE n + i) == p)
    | none => false

/-- A refused VF access to a Tally (R52). -/
def State.vfViol (s : State) (n : Nat) : State :=
  ((s.count GLB_VF_VIOL.COUNT).wr GLB_VF_VIOL.LAST_VF 0 n).raise 0x23

/-- A rejected BAR access: `spl` for one under R139, else one under R57 (R59). -/
def State.accErr (s : State) (spl : Bool) (func bar off : Nat) : State :=
  let s := if spl then s.fl GLB_ACC_ERR.SPLIT 0 true else s.fl GLB_ACC_ERR.SIZE 0 true
  ((s.wrs 0 [(GLB_ACC_ERR.BAR, bar), (GLB_ACC_ERR.FUNC, func), (GLB_ACC_ERR.OFFSET, off)])).raise 0x24

/-- The low word that a function holds for a split signal. -/
def State.setLow (s : State) (f : Nat) (x : Option (Nat × Nat)) : State :=
  { s with bus := { s.bus with splitLow := match x with
      | none => s.bus.splitLow.del f
      | some p => s.bus.splitLow.put f p } }

/-- A BAR2 write of function `func` to Tally `t` is taken by the Tally unit: in DOZE, NAP or an entry it wakes the device as
well (R584, R588); before the unit is reachable and in OFF it is ignored (R545, R590); a VF may reach only its own (R52). -/
def State.bar2 (s : State) (func t : Nat) (f : State → State) : State :=
  if t ≥ 8192 ∨ ¬ s.blkUp .tly ∨ s.pwr.off then s
  else if !s.vfTally func t then s.vfViol func
  else (f s).wakeAccess

/-- SIGNAL_WRITE: a 64-bit write to the SIGNAL word of Tally `t` (R139, R52). -/
def execSignalWrite (func t v : Nat) (s : State) : Host.Outcome State Fault Refusal :=
  .next (s.bar2 func t (fun s =>
    let s := match s.bus.splitLow.get? func with
      | some (x, _) => if x = t then s.setLow func none else s
      | none => s
    s.signal t (v % 2 ^ 64)))

/-- SIGNAL_LOW_WRITE: a 32-bit write to the low SIGNAL word is held for its function (R139). -/
def execSignalLowWrite (func t v : Nat) (s : State) : Host.Outcome State Fault Refusal :=
  .next (s.bar2 func t (fun s => s.setLow func (some (t, v % 2 ^ 32))))

/-- SIGNAL_HIGH_WRITE: a 32-bit write to the high SIGNAL word signals the combined value, or breaks R139. -/
def execSignalHighWrite (func t v : Nat) (s : State) : Host.Outcome State Fault Refusal :=
  .next (s.bar2 func t (fun s => match s.bus.splitLow.get? func with
    | some (x, lo) =>
      if x = t then (s.setLow func none).signal t (lo + v % 2 ^ 32 * 2 ^ 32) else s.accErr true func 1 (t * 64 + 12)
    | none => s.accErr true func 1 (t * 64 + 12)))

/-- APERTURE_ACCESS: an engine's load or store of `size` bytes of context `c` at a virtual address whose page maps the
Tally aperture (R140). A load's value is its answer. -/
def execApertureAccess (c eng va : Nat) (write : Bool) (size v : Nat) (s : State) : Host.Outcome State Fault Refusal :=
  if !s.ctxActive c then .next s
  else match s.translate c va (b2n write) eng with
    | (s, none) => .next s
    | (s, some (pa, cache)) =>
      if !inAperture pa then .next s
      else if write then
        match s.paWrite pa cache (leBytes size v) with
        | (s, 0) => .next s
        | (s, e) => .next (s.accFault c e eng va 1)
      else
        match s.paRead pa size cache with
        | (s, d, 0) => .next { s with rdata := ofBytes d }
        | (s, _, e) => .next (s.accFault c e eng va)

/-- TLY_INIT_GO: the committed Tally takes the committed value (R146). -/
def execTlyInitGo (s : State) : Host.Outcome State Fault Refusal :=
  s.hostDo .tly (fun s => .next (s.initTally (s.rd TLY_INIT.TALLY) (s.rd TLY_INIT.VALUE)))

/-- LW_CLR: LOW_WATER takes FREE (R137). -/
def execLwClr (s : State) : Host.Outcome State Fault Refusal :=
  s.hostDo .tly (fun s => .next (s.wr TLY_POOL.LOW_WATER 0 (s.rd TLY_POOL.FREE)))

end Sys2Proof.Machine
end

