-- ==== Sys2Proof/Machine/PowerStates.lean ====
section
/-! DEFINITION. The power states (R581 to R590): entry into DOZE, NAP and OFF, wake sources, wakes, and domains brought back
alone. -/

namespace Sys2Proof.Machine

/-! ### Domains -/

/-- PWR_DOMAIN follows the power state, what partitions own (R38), and the domains brought back in DOZE (R589). -/
def State.domSync (s : State) : State :=
  let act := s.rd PWR_STATUS.STATE = 0 && !s.pwr.off
  let won (d : Nat) : Bool := (s.pwr.woken.get? d).isSome
  let up (n : Nat) : Bool := s.rd RST_BOOT_STEP.STATE n == 2
  let cl (q : Nat) : Bool := (List.range 12).any (fun j => s.present 1 (12 * q + j) && (s.ownerOf FE_PART.CLUSTERS (12 * q + j)).isSome)
  let lm (q : Nat) : Bool := (List.range 3).any (fun j => s.present 3 (3 * q + j) && (s.ownerOf FE_PART.LOOMS (3 * q + j)).isSome)
  let mask (f : Nat → Bool) (d b n : Nat) : Nat := (List.range 4).foldl (fun m q =>
    if (act && f q) || won (d + q) || (act && (List.range n).any (fun j => won (b + n * q + j))) then m + 2 ^ q else m) 0
  s.wrs 0 [(PWR_DOMAIN.CLUSTERS_Q, mask cl 0 16 12), (PWR_DOMAIN.LOOMS_Q, mask lm 4 64 3), (PWR_DOMAIN.HUB, b2n ((act && up 7) || won 8)),
    (PWR_DOMAIN.FOREMAN_A, b2n (up 6 && s.rd PWR_STATUS.STATE != 2 && !s.pwr.off)),
    (PWR_DOMAIN.FOREMAN_B, b2n ((up 6 || s.on RST_BOOT_CTL.RECOVERY) && s.rd PWR_STATUS.STATE != 2 && !s.pwr.off)),
    (PWR_DOMAIN.DISPLAY, b2n ((act && up 7 && [0, 1, 2, 3].any (s.present 5)) || won 11))]

/-- Every stack enters (`b`) or leaves self-refresh. -/
def State.selfRefresh (s : State) (b : Bool) : State :=
  ([0, 1, 2, 3].foldl (fun s m => s.fl MC_STATUS.SELF_REFRESH m b) s).wr PWR_DOMAIN.HBM_SR 0 (if b then 0xF else 0)

/-! ### Entry (R583 to R586, R590) -/

/-- A reset runs (R583). -/
def State.resetRuns (s : State) : Bool :=
  s.on RST_STATUS.WARM_ACTIVE || s.rd RST_STATUS.PART_ACTIVE != 0 || !s.rsts.isEmpty

/-- The idle conditions of R583, beside ENABLED. -/
def State.allIdle (s : State) : Bool :=
  !s.resetRuns && !s.pwr.off && s.pwr.entry.isNone && s.rd PWR_STATUS.STATE == 0 &&
  [0, 1, 2, 3].all (fun p => !s.on GLZ_PIPE.EN p) && s.rd FE_STATUS.IDLE == 0x1F &&
  (List.range 2048).all (fun q => !s.on FE_Q.DB_PENDING q) && s.sh.grps.isEmpty &&
  (List.range 12).all (fun n => !s.on LOOM_STATUS.BUSY n && !s.on LOOM_STATUS.SAVED n) &&
  s.rd PRS_STATUS.BUSY == 0 && s.crd.slots.isEmpty && s.crd.pools.all (fun p => p.2.isEmpty) &&
  s.mem.jobs.isEmpty && s.mem.waitParts.isEmpty && s.mem.waitJobs.isEmpty && !s.on L2_STATUS.MAINT_BUSY &&
  s.mmu.fifo.isEmpty && s.mmu.dev.isEmpty && s.mmu.running.isNone

/-- Fetchers and tick stop or run: the tick is suspended in every state but ACTIVE (R582). -/
def State.runAll (s : State) (b : Bool) : State :=
  { s with fe := { s.fe with run := b }, tick := { s.tick with run := b, first := b || s.tick.first } }

/-- An entry begins, or RESULT reports why not. `kind` is 1 DOZE, 2 NAP, 3 OFF. -/
def State.enter (s : State) (kind : Nat) : State :=
  if !s.on RST_BOOT_CTL.ENABLED then s.wr PWR_STATUS.RESULT 0 5
  else if !s.allIdle then s.wr PWR_STATUS.RESULT 0 2
  else if kind = 2 ∧ s.rd PXL_STATUS.JOINED ≠ 2 ^ s.dev then s.wr PWR_STATUS.RESULT 0 3
  else
    let s := ((s.fl PWR_STATUS.ENTERING 0 true).wr PWR_STATUS.RESULT 0 0).runAll false
    s.updPwr (fun p => { p with entry := some (kind, s.now), ask := false })

/-- DOZE_ENTRY: a PWR_CMD with STATE = 1. -/
def execDozeEntry (s : State) : Host.Outcome State Fault Refusal :=
  s.hostDo .rst (fun s => .next (s.enter 1))

/-- NAP_ENTRY: a PWR_CMD with STATE = 2. -/
def execNapEntry (s : State) : Host.Outcome State Fault Refusal :=
  s.hostDo .rst (fun s => .next (s.enter 2))

/-- OFF_ENTRY: a PWR_CMD with STATE = 3, which needs KEY = 0xA5 (R583). -/
def execOffEntry (key : Nat) (s : State) : Host.Outcome State Fault Refusal :=
  s.hostDo .rst (fun s => .next (if key ≠ 0xA5 then s.wr PWR_STATUS.RESULT 0 6 else s.enter 3))

/-- What NAP does not keep is lost (R586). -/
def State.napLoss (s : State) : State :=
  let s := { s with
    mmu := { s.mmu with tlb := [], walks := [] }, mem := { s.mem with l2 := [] }, sh := { s.sh with l1 := [], icache := [], saved := [], held := [] },
    looms := s.looms.map (fun p => (p.1, { p.2 with beam := [], spool := [], bolt := [] })) }
  let s := (List.range 12).foldl (fun s n => s.wrs n [(LOOM_STATUS.OWNED, 0), (LOOM_STATUS.OWNER, 0)]) s
  (List.range 8).foldl State.ysaveSync s

/-- POWER_ENTRY_DONE: the entry's last step is done: translations are dropped, for NAP and OFF the L2 is cleaned and the
stacks are in self-refresh, both rails go to level 0, and for OFF the Ledger is mirrored and the CAN node stops (R585,
R590). -/
def execPowerEntryDone (s : State) : Host.Outcome State Fault Refusal :=
  match s.pwr.entry with
  | none => .next s
  | some (kind, _) =>
    if s.pwr.ask then .next s
    else
      let s := (s.fl PWR_STATUS.ENTERING 0 false).updPwr (fun p => { p with entry := none, woken := [] })
      let s := s.wr PWR_STATUS.RESULT 0 1
      if kind = 1 then
        let s := { s with mmu := { s.mmu with tlb := [], walks := [] } }
        .next (((s.wr PWR_STATUS.STATE 0 1).count PWR_CTR.DOZE_ENTRIES).powerRec 0).domSync
      else
        let s := s.maintLines 0 (fun _ _ => true)
        let s := if kind = 3 then (s.mirrorAll 16384).areaWrite else s
        let s := (s.napLoss).selfRefresh true
        let s := s.updPwr (fun p => { p with lvls := (s.levelOf 0, s.levelOf 1) })
        let s := (s.lowerTo 0 0).lowerTo 1 0
        let s := { s with odm := { s.odm with nmtNap := s.rd ODM_NMT.STATE } }
        if kind = 2 then .next (((s.wr PWR_STATUS.STATE 0 2).count PWR_CTR.NAP_ENTRIES).powerRec 0).domSync
        else .next (((s.fl PWR_STATUS.OFF_READY 0 true).updPwr (fun p => { p with off := true })).wr ODM_NMT.STATE 0 0).domSync

/-- ENTRY_ABORT: a wake source, a doorbell or a BAR2 write has met the entry: its steps are undone (R584). -/
def execEntryAbort (s : State) : Host.Outcome State Fault Refusal :=
  match s.pwr.entry with
  | none => .next s
  | some (kind, _) =>
    if s.pwr.ask ∧ kind ≠ 3 then
      let s := (s.fl PWR_STATUS.ENTERING 0 false).wr PWR_STATUS.RESULT 0 4
      let s := (s.updPwr (fun p => { p with entry := none, ask := false })).runAll true
      .next ((s.count PWR_CTR.ENTRY_ABORTS).raise 0x36)
    else .next s

/-! ### Wakes (R587, R588) -/

/-- A wake source with number `src` (bits [3:0] of PWR_WAKE_EN) is enabled. -/
def State.wakeEn (s : State) (src : Nat) : Bool :=
  if src = 0 then true else if src = 1 then s.on PWR_WAKE_EN.CAN else if src = 2 then s.on PWR_WAKE_EN.PEXLINK
  else src == 3 && s.on PWR_WAKE_EN.SYNC_IN

/-- NAP exit steps 2 to 5: power, HBM and what the image holds come back; the node has its NMT state again, and its first heartbeat is
due at once (R524). -/
def State.napExit (s : State) : State :=
  let s := (s.selfRefresh false).wr ODM_NMT.STATE 0 s.odm.nmtNap
  let s := { s with odm := { s.odm with hbAt := 0 } }
  let up (s : State) (r l : Nat) : State := if s.levelOf r < l then (s.setLevel r l).wrs r [(PWR_AVS.VREQ_MV, s.plan r l), (PWR_AVS.VACK_MV, s.plan r l), (PWR_AVS.PENDING, 0)] else s
  let s := up (up s 0 s.pwr.lvls.1) 1 s.pwr.lvls.2
  s.updPwr (fun p => { p with raising := [] })

/-- The device is ACTIVE again: fetchers and tick run, PWR_WAKE is raised. -/
def State.wakeEnd (s : State) : State :=
  let us := (s.now - s.pwr.askAt) / 1000
  let s := (s.wrs 0 [(PWR_STATUS.STATE, 0), (PWR_STATUS.EXITING, 0), (PWR_STATUS.LAST_WAKE_US, min us 0xFFFF)]).updPwr
    (fun p => { p with ask := false, woken := [] })
  ((s.runAll true).domSync.powerRec 0).raise 0x35

/-- The device wakes: `ok` says that the CRCs of NAP exit match; if one fails, the exit ends in a warm reset (R587). -/
def State.wakeNow (s : State) (ok : Bool) : State :=
  if s.pwr.off ∨ s.rd PWR_STATUS.STATE = 0 then s
  else if s.rd PWR_STATUS.STATE = 1 then s.wakeEnd
  else
    let s := s.napExit
    if ok then s.wakeEnd
    else
      let s := ((s.wr PWR_STATUS.STATE 0 0).updPwr (fun p => { p with ask := false })).domSync
      (s.incident 4 9 0x35).2

/-- WAKE: a source wakes the device from DOZE or NAP: 0 PCIe, 1 CAN activity, 2 Pexlink activity, 3 a SYNC_IN edge, each where
enabled, or 4 one already recorded. CAN activity wakes from DOZE only. A SYNC_IN edge that wakes from DOZE starts a tick
(R582). `ok` is the outcome of the CRC checks of NAP exit. -/
def execWake (src : Nat) (ok : Bool) (s : State) : Host.Outcome State Fault Refusal :=
  let st := s.rd PWR_STATUS.STATE
  if s.pwr.off ∨ st = 0 then
    .next (if src < 4 ∧ s.pwr.entry.isSome ∧ s.wakeEn src then s.wakeAsk PWR_WAKE_SRC.SRC (2 ^ src) else s)
  else if src < 4 then
    if s.wakeEn src ∧ ¬ (src = 1 ∧ st = 2) then
      let s := (s.wakeAsk PWR_WAKE_SRC.SRC (2 ^ src)).wakeNow ok
      .next (if src = 3 ∧ st = 1 then s.extTick 1 none else s)
    else .next s
  else .next (if s.pwr.ask then s.wakeNow ok else s)

/-- WAKE_IN: the transceiver's wake output asserts; it wakes the device from NAP (R524, R588). -/
def execWakeIn (s : State) : Host.Outcome State Fault Refusal :=
  .next (if s.rd PWR_STATUS.STATE = 2 ∧ s.wakeEn 1 then s.wakeAsk PWR_WAKE_SRC.SRC 2 else s)

/-- GPIO_EDGE: GPIO `g` takes a level; an enabled edge of an input is a wake source (R658). -/
def execGpioEdge (g : Nat) (level : Bool) (s : State) : Host.Outcome State Fault Refusal :=
  if g ≥ 16 then .next s
  else
    let was := bit (s.rd GLB_GPIO.IN) g
    let s := s.wr GLB_GPIO.IN 0 (setBit (s.rd GLB_GPIO.IN) g level)
    let edge := was != level && level == !bit (s.rd GLB_GPIO.FALL) g
    .next (if edge ∧ ¬ bit (s.rd GLB_GPIO.DIR) g ∧ bit (s.rd PWR_WAKE_EN.GPIO) g then s.wakeAsk PWR_WAKE_SRC.GPIO (2 ^ g) else s)

/-- ACTIVE_CMD: a PWR_CMD with STATE = 0 wakes the device. -/
def execActiveCmd (s : State) : Host.Outcome State Fault Refusal :=
  s.hostDo .rst (fun s => .next s.wakeAccess)

/-! ### Domains brought back alone (R589) -/

/-- The domain behind a BAR0 address: clusters and Looms by quadrant, 8 the hub, 11 the Glazier; none for a block that is
never gated. -/
def domainOf (a : Nat) : Option Nat := match Blk.ofAddr a with
  | some (.loom k) => some (4 + k / 3)
  | some (.scl k) => some (k / 12)
  | some .glz => some 11
  | some .fe | some .mmu | some .tly | some .intc | some .crd | some .prs | some .l2 | some .dbg => some 8
  | _ => none

/-- The unit behind a BAR0 address that R38 gates in ACTIVE: a present cluster (16 and up) or Loom (64 and up) of no partition. -/
def State.gatedUnit (s : State) (a : Nat) : Option Nat := match Blk.ofAddr a with
  | some (.loom k) => if (s.ownerOf FE_PART.LOOMS k).isNone then some (64 + k) else none
  | some (.scl k) => if (s.ownerOf FE_PART.CLUSTERS k).isNone then some (16 + k) else none
  | _ => none

/-- The unit behind a BAR0 address is present: one that the licence does not enable stays powered off (R2). -/
def State.unitThere (s : State) (a : Nat) : Bool := match Blk.ofAddr a with
  | some (.loom k) => s.present 3 k
  | some (.scl k) => s.present 1 k
  | some .glz => [0, 1, 2, 3].any (s.present 5)
  | _ => true

/-- Domain or unit `d` is brought back, and the wake is counted where it was not awake already. -/
def State.wakeDomain (s : State) (d : Nat) : State :=
  let s := if (s.pwr.woken.get? d).isSome then s else s.count PWR_CTR.DOMAIN_WAKES
  (s.updPwr (fun p => { p with woken := p.woken.put d s.now })).domSync

/-- DOMAIN_WAKE_ACCESS: a BAR0 access to a gated domain brings back that domain: in ACTIVE the one unit that R38 gates; from NAP
the device exits to DOZE first (R589). -/
def execDomainWakeAccess (a : Nat) (s : State) : Host.Outcome State Fault Refusal :=
  let st := s.rd PWR_STATUS.STATE
  match domainOf a with
  | none => .next s
  | some d =>
    if s.pwr.off ∨ ¬ s.on RST_BOOT_CTL.ENABLED ∨ ¬ s.unitThere a then .next s
    else if st = 0 then
      match s.gatedUnit a with
      | some u => .next (s.wakeDomain u)
      | none => .next s
    else .next ((if st = 2 then s.napExit.wr PWR_STATUS.STATE 0 1 else s).wakeDomain d)

/-- DOMAIN_REGATE: a domain brought back has had no access for 100 µs. -/
def execDomainRegate (d : Nat) (s : State) : Host.Outcome State Fault Refusal :=
  match s.pwr.woken.get? d with
  | none => .next s
  | some t => .next (if t + 100000 ≤ s.now then (s.updPwr (fun p => { p with woken := p.woken.del d })).domSync else s)

end Sys2Proof.Machine
end

