-- ==== Sys2Proof/Machine/Resets.lean ====
section
/-! DEFINITION. Resets (R569 to R580) and the power-on reset (R652, R653). -/

namespace Sys2Proof.Machine

/-! ### What a reset does to register fields -/

/-- `F` is one of these fields. -/
def Fld.among (F : Fld) (l : List Fld) : Bool := l.any (fun G => G.fid == F.fid)

/-- Only the fields that `keep` names keep their values; the others take their reset values. -/
def State.wipe (s : State) (keep : Fld → Nat → Bool) : State :=
  { s with regs := s.regs.filter (fun e => match fldOf e.1.1 with
      | some F => keep F e.1.2
      | none => true) }

/-- Fields of the always-on domain and of the Ledger that a full reset keeps: what is neither committed configuration nor
the progress of a start (R569, R586, R627). -/
def keptFull : List Fld :=
  LDG_STATUS.fields ++ LDG_HEAD.fields ++ LDG_TAIL.fields ++ LDG_MIRRORED.fields ++ LDG_SEQ.fields ++ LDG_INCIDENT.fields ++
  LDG_TIME.fields ++ LDG_CTR.fields ++ RST_CTR.fields ++ PWR_CTR.fields ++ SAF_CTR.fields ++ PWR_WAKE_SRC.fields ++
  SAF_INC.fields ++ GLB_LINK_DROP.fields ++ GLB_ACC_ERR.fields ++ GLB_VF_VIOL.fields ++
  [PWR_AVS.NACKS, PWR_AVS.OVF, SAF_STATUS.FAULT, SAF_STATUS.DEGRADED, SAF_STATUS.SAFE_REQ, SAF_STATUS.WDOG, SAF_STATUS.VMON,
   SAF_STATUS.CMON, SAF_STATUS.TMON, SAF_STATUS.LOCKSTEP, SAF_STATUS.SHARED, SAF_ROUTED.HIT, RST_STATUS.WARM_FAILED,
   RST_BOOT_CTL.FAILS, GLB_DEVNUM.DEV_ID, GLB_GPIO.IN, ASY_STATUS.EOL]

/-! ### The full reset -/

/-- A start that a reset or PERST# interrupts counts as failed: the boot record names its step (R547, R550). -/
def State.startLost (s : State) : State :=
  let k := s.rd RST_BOOT_CTL.CUR_STEP
  if k ≥ 2 ∧ ¬ s.on RST_BOOT_CTL.ENABLED ∧ ¬ s.on RST_BOOT_CTL.RECOVERY then
    s.recWrite { s.boot.rcd with failStep := k, failErr := s.rd RST_BOOT_STEP.ERR k }
  else s

/-- Step 1 of bring-up starts (R543). -/
def State.bootStart (s : State) : State :=
  (s.wrs 1 [(RST_BOOT_STEP.STATE, 1), (RST_BOOT_STEP.ERR, 0), (RST_BOOT_STEP.ELAPSED_US, 0)]).updBoot
    (fun b => { b with since := s.now, err := 0 })

/-- The device is in bring-up's beginning: step 1 runs unless PERST#, a supply or the power-on reset holds the device. -/
def State.tryStart (s : State) : State := if s.boot.por || s.boot.perst || s.boot.hold then s else s.bootStart

/-- PXL_CFG.EXPECT and JOINED hold the device's own bit, and the device is its own manager (R486, R499). -/
def State.meshOwn (s : State) : State :=
  s.wrs 0 [(PXL_CFG.EXPECT, 2 ^ s.dev), (PXL_STATUS.JOINED, 2 ^ s.dev), (PXL_STATUS.MANAGER_ID, s.dev), (GLB_DEVNUM.MANAGER, 1)]

/-- What a full reset leaves of the device: the always-on domain, with the registers that stand, and what is outside the
device. HBM is as memory that nothing has written (R569). -/
def State.fullKeep (t : State) : State :=
  let n : State := {}
  { n with
    now := t.now, freeCtr := t.freeCtr, rdata := t.rdata, out := t.out, pending := t.pending, regs := t.regs,
    ldg := t.ldg, area := t.area, jtag := t.jtag,
    bus := { n.bus with atomicOps := t.bus.atomicOps },
    mem := { n.mem with host := t.mem.host },
    odm := { n.odm with copies := t.odm.copies },
    asy := { n.asy with meas := t.asy.meas, withdrawn := t.asy.withdrawn, lastMeas := t.asy.lastMeas, transients := t.asy.transients },
    saf := { n.saf with
      causes := t.saf.causes, everEnabled := t.saf.everEnabled, faultAt := t.saf.faultAt, counts := t.saf.counts },
    boot := { n.boot with
      fuses := t.boot.fuses, mib := t.boot.mib, jedec := t.boot.jedec, answers := t.boot.answers, flash := t.boot.flash,
      rcd := t.boot.rcd, por := t.boot.por, perst := t.boot.perst, hold := t.boot.hold, latched := t.boot.latched,
      three := t.boot.three, jtagMode := t.boot.jtagMode } }

/-- A full reset (R569, R570): everything but the always-on domain. `cause` as RST_STATUS.LAST_FULL. -/
def State.fullReset (s : State) (cause : Nat) : State :=
  let s := (s.incClose 0).incClose 1
  let s := s.startLost
  let keep4 := if s.saf.causes.contains 4 then [4] else []
  let s := { s with saf := { s.saf with causes := [0] ++ (if cause = 4 then [] else [5]) ++ keep4 } }.safUpdate
  let rec_ := s.on RST_BOOT_CTL.RECOVERY
  let forced := s.on RST_BOOT_CTL.FORCED
  let r := (s.wipe (fun F i => F.among keptFull || (F.among CFG.fields && (i == 0 || i == 1 || i == 13)))).fullKeep
  let r := (r.meshOwn.wr RST_STATUS.LAST_FULL 0 cause).fl RST_BOOT_SEL.TRIAL_REQ 0 r.boot.rcd.trial
  let r := if rec_ then (r.fl RST_BOOT_CTL.RECOVERY 0 true).fl RST_BOOT_CTL.FORCED 0 forced else r
  r.safUpdate

/-- FULL_RESET: RST_CTL.FULL with its key (`src` 0), or recovery at L4 (`src` 1). -/
def execFullReset (src key : Nat) (s : State) : Host.Outcome State Fault Refusal :=
  .next (
    if s.boot.por ∨ s.boot.perst ∨ s.boot.hold then s
    else if src = 0 then
      if ¬ s.winUp .rst then s
      else if key = 0xA5 then ((s.wakeAsk PWR_WAKE_SRC.RESET 1).fullReset 3).tryStart else s.cfgErr .rst 0
    else if s.saf.wantFull then (s.fullReset 4).tryStart
    else s)

/-- HOT_RESET: a PCIe Hot Reset or Link Disable. -/
def execHotReset (s : State) : Host.Outcome State Fault Refusal :=
  .next (if s.boot.por ∨ s.boot.perst ∨ s.boot.hold then s else ((s.wakeAsk PWR_WAKE_SRC.RESET 1).fullReset 2).tryStart)

/-- PERST_ASSERT: PERST# is asserted. -/
def execPerstAssert (s : State) : Host.Outcome State Fault Refusal :=
  if s.boot.perst then .next s
  else
    let s := s.updBoot (fun b => { b with perst := true })
    .next (if s.boot.por then s else s.fullReset 1)

/-! ### The power-on reset -/

/-- POWER_ON: every supply has stayed above its threshold for 1 ms, and the reset they held ends. `rated` says that VDDQ_HBM
did not rise before VDD_HBM nor VDD_HBM before VPP_HBM; a rise that overstresses the stacks lies outside the ratings. The
Ledger's state area gives operating time, the counts and the next incident back (R603, R626). -/
def execPowerOn (rated : Bool) (s : State) : Host.Outcome State Fault Refusal :=
  if !rated then .fault .ratings
  else if s.boot.por then
    let s := s.updBoot (fun b => { b with por := false })
    let s := s.wrs 0 [(LDG_TIME.OPSEC, s.area.opsec), (LDG_TIME.PCYC, min (s.area.pcyc + 1) 0xFFFFFF),
      (LDG_INCIDENT.NEXT, if s.area.nextInc = 0 then s.rd LDG_INCIDENT.NEXT else s.area.nextInc), (SAF_CTR.DOWN_US, s.area.downUs)]
    .next s.areaWrite.tryStart
  else if s.boot.hold then .next ((s.updBoot (fun b => { b with hold := false })).tryStart)
  else .next s

/-- What a power-on reset leaves: what is outside the device, the fuses and the flash with what it holds. The time starts
again (R17). -/
def State.porKeep (s : State) : State :=
  let n : State := {}
  { n with
    freeCtr := s.freeCtr, rdata := s.rdata, out := s.out, pending := s.pending, area := s.area, jtag := n.jtag,
    bus := { n.bus with atomicOps := s.bus.atomicOps },
    mem := { n.mem with host := s.mem.host },
    odm := { n.odm with copies := s.odm.copies },
    ldg := { n.ldg with flash := s.ldg.flash, flashSeq := s.ldg.flashSeq },
    asy := { n.asy with meas := s.asy.meas },
    boot := { n.boot with
      fuses := s.boot.fuses, mib := s.boot.mib, jedec := s.boot.jedec, answers := s.boot.answers, flash := s.boot.flash,
      rcd := s.boot.rcd, perst := s.boot.perst } }

/-- SUPPLY_BELOW_POR: a supply falls below its threshold: VDD_AON (`aon`) causes a power-on reset, any other a full reset that
lasts until the supplies are back (R653). -/
def execSupplyBelowPor (aon : Bool) (s : State) : Host.Outcome State Fault Refusal :=
  if aon then .next (if s.boot.por then s else s.startLost).porKeep
  else if s.boot.por then .next s
  else .next ((s.updBoot (fun b => { b with hold := true })).fullReset 5)

/-! ### Block resets (R577, R578) -/

/-- The unit of a block reset is present (R578). -/
def State.blkPresent (s : State) (typ unit : Nat) : Bool :=
  if typ ≤ 1 then s.present 1 unit else if typ = 2 then s.present 3 unit
  else if typ = 3 then (List.range 4).any (s.present 8) else if typ = 4 then (List.range 4).any (s.present 5)
  else typ == 5 && (s.present 0xC 0 || (List.range 4).any (s.present 4))

/-- The block is idle (R578); a Draft that is accepted and not active waits at its Loom. -/
def State.blkIdle (s : State) (typ unit core : Nat) : Bool :=
  let onCore (k : Nat) : Bool := k / 4 == unit && (typ == 1 || k % 4 == core)
  if typ ≤ 1 then
    !s.sh.grps.any (fun p => onCore (coreOf p.1)) && !s.gfx.passes.any (fun p => p.2.run.any (fun t => onCore t.core)) &&
    (typ == 0 || !s.crd.batches.any (fun b => b.2.rtu == some unit))
  else if typ = 2 then !(s.loom unit).drafts.any (fun d => d.st != 0)
  else if typ = 3 then s.prsCtxs.isEmpty
  else if typ = 4 then true
  else s.crd.batches.all (fun b => b.2.rtu.isNone) && s.gfx.passes.all (fun p => p.2.toBin.isEmpty)

/-- A block is resetting already: its own reset, its cluster's, or its partition's (R571, R578). -/
def State.blkTaken (s : State) (typ unit core : Nat) : Bool :=
  s.rsts.any (fun r => r.isFor typ unit core || (typ == 0 && r.isFor 1 unit 0)) ||
  (List.range 8).any (fun p => bit (s.rd RST_STATUS.PART_ACTIVE) p &&
    ((typ ≤ 1 && bit (s.rd FE_PART.CLUSTERS p) unit) || (typ == 2 && bit (s.rd FE_PART.LOOMS p) unit)))

/-- BLOCK_RESET: a GO of RST_BLOCK slot `slot` (R577 step 1). -/
def execBlockReset (slot typ unit core : Nat) (s : State) : Host.Outcome State Fault Refusal :=
  s.hostDo .rst (fun s =>
    if slot ≥ 8 ∨ typ ≥ 8 ∨ unit ≥ 64 ∨ core ≥ 4 then .next s
    else
      let off := 0x100 + 0x10 * slot
      if s.on RST_BLOCK.BUSY slot then .next (s.cfgErr .rst off)
      else
        let s := s.wrs slot [(RST_BLOCK.TYPE, typ), (RST_BLOCK.UNIT, unit), (RST_BLOCK.CORE, core)]
        if ¬ s.blkPresent typ unit then .next (s.cfgErr .rst off)
        else if s.on RST_STATUS.WARM_ACTIVE ∨ s.blkTaken typ unit core then .next (s.wr RST_BLOCK.RESULT slot 3)
        else
          let s := (s.wrs slot [(RST_BLOCK.BUSY, 1), (RST_BLOCK.RESULT, 0)]).count RST_CTR.BLOCK_RESETS
          let s := { s with rsts := s.rsts ++ [{ typ := typ, unit := unit, core := core, slot := some slot, since := s.now }] }
          .next (if typ = 4 then s.pipesOff else s))

/-- The block resets other than `r`. -/
def State.otherRsts (s : State) (typ unit core : Nat) : List BlkRst := s.rsts.filter (fun r => !r.isFor typ unit core)

/-- IDLE_TIMEOUT: IDLE_US has elapsed without idle, and the isolation wrapper closes (R577 step 4). -/
def execIdleTimeout (typ unit core : Nat) (s : State) : Host.Outcome State Fault Refusal :=
  match s.rsts.find? (fun r => r.isFor typ unit core) with
  | none => .next s
  | some r =>
    if r.phase = 0 ∧ ¬ s.blkIdle typ unit core ∧ r.since + s.rd RST_CFG.IDLE_US * 1000 ≤ s.now then
      let s := s.isolate typ unit core r.code r.inc
      let s := { s with rsts := s.rsts.map (fun (x : BlkRst) => if x.isFor typ unit core then { x with phase := 1 } else x) }
      .next ((s.count RST_CTR.IDLE_TIMEOUTS).raise 0x37)
    else .next s

/-- The memories and caches of a block are zeroed (R577 step 5). -/
def State.blkClear (s : State) (typ unit core : Nat) : State :=
  let s := { s with mmu := { s.mmu with tlb := s.mmu.tlb.filter (fun t => if typ = 0 then t.eng != coreTlb (4 * unit + core) else ackBit t.eng != unitEng typ unit) } }
  if typ ≤ 1 then
    let mine (k : Nat) : Bool := k / 4 == unit && (typ == 1 || k % 4 == core)
    { s with sh := { s.sh with
        l1 := s.sh.l1.filter (fun l => !mine l.core), held := s.sh.held.filter (fun h => !mine h.1),
        icache := if typ = 1 then s.sh.icache.filter (fun l => l.cluster != unit) else s.sh.icache } }
  else if typ = 2 then
    ((s.updLoom unit (fun l => { drafts := l.drafts.filter (fun d => d.st == 0), nextId := l.nextId, dbg := 0 })).wr LOOM_STOP.STATE unit 0).loomClear unit
  else if typ = 5 then { s with crd := { ({} : Crd) with held := s.crd.held, next := s.crd.next, taken := s.crd.taken } }.crdSync
  else s

/-- A Draft held in SAVED state is discarded and its context faults (R578). -/
def State.blkSaved (s : State) (typ unit code inc : Nat) : State :=
  if typ = 2 then
    match (s.loom unit).save with
    | some v => if v.draft.isSome then (s.ctxFault v.ctx code inc (48 + unit)).engStop v.ctx else s
    | none => s
  else s

/-- Rays and bins that remain are discarded with their contexts (R578). -/
def State.blkLeft (s : State) (typ unit core code inc : Nat) : State := if typ = 5 then s.isolate typ unit core code inc else s

/-- BLOCK_RESET_DONE: the block was idle or isolated; it is reset, zeroed and resumes (R577 steps 5 and 6), and a self-test
that waits for the reset is asked for. -/
def execBlockResetDone (typ unit core : Nat) (s : State) : Host.Outcome State Fault Refusal :=
  match s.rsts.find? (fun r => r.isFor typ unit core) with
  | none => .next s
  | some r =>
    if r.phase = 0 ∧ ¬ s.blkIdle typ unit core then .next s
    else
      let s := if r.phase = 0 then (s.blkSaved typ unit r.code r.inc).blkLeft typ unit core r.code r.inc else s
      let s := s.blkClear typ unit core
      let s := { s with rsts := s.otherRsts typ unit core }
      let s := match r.slot with
        | some k => (s.wrs k [(RST_BLOCK.BUSY, 0), (RST_BLOCK.RESULT, if r.phase = 0 then 1 else 2)]).raise 0x32
        | none => if r.part then s else s.raise 0x32
      let t := if typ = 1 then 0 else if typ = 2 then 1 else if typ = 3 then 3 else if typ = 4 then 5 else 4
      let s := if r.test ∧ typ ≠ 0 then s.queueTest t r.unit r.trigger r.inc else s
      let s := if typ = 2 then (s.loomSync unit).loomWait unit else s
      .next s.crdGo.incSettle

/-! ### Partition resets (R576) -/

/-- The reset of cluster or Loom `u` as part of a partition's, with no idle wait: block resets that run on it or its cores are
absorbed, their slots report 3, and a self-test that was to follow them follows it (R571, R576). -/
def State.partBlk (s : State) (n typ u : Nat) : State :=
  let old (x : BlkRst) : Bool := x.isFor typ u 0 || (typ == 1 && x.typ == 0 && x.unit == u)
  let r : BlkRst := { typ := typ, unit := u, since := s.now, phase := 1, code := 0xB1, part := true }
  let r := (s.rsts.filter old).foldl BlkRst.takeTest r
  let s := (s.rsts.filter old).foldl (fun s x => match x.slot with
    | some k => s.wrs k [(RST_BLOCK.BUSY, 0), (RST_BLOCK.RESULT, 3)]
    | none => s) s
  { s.isolate typ u 0 0xB1 n with rsts := s.rsts.filter (fun x => !old x) ++ [{ r with inc := if r.test then r.inc else n }] }

/-- PARTITION_RESET: a GO of RST_PART (`host`), or recovery at L2. -/
def execPartitionReset (p : Nat) (host : Bool) (s : State) : Host.Outcome State Fault Refusal :=
  if p ≥ 8 ∨ (host ∧ ¬ s.winUp .rst) ∨ (¬ host ∧ ¬ s.saf.wantPart.contains p) then .next s
  else
    let act := s.rd RST_STATUS.PART_ACTIVE
    let s := { s with saf := { s.saf with wantPart := s.saf.wantPart.filter (· != p) } }
    let s := if s.rd PWR_STATUS.STATE = 0 then s else (s.wakeAsk PWR_WAKE_SRC.RESET 1).wakeNow true
    if ¬ s.partOn p ∨ bit act p ∨ popc act 8 ≥ 2 ∨ s.on RST_STATUS.WARM_ACTIVE then .next (if host then s.cfgErr .rst 0x18 else s)
    else
      let n := match [0, 1].find? (fun k => s.on SAF_INC.OPEN k && s.rd SAF_INC.OWNER k == p) with
        | some k => if host then 0 else s.rd SAF_INC.INCIDENT k
        | none => 0
      let s := (s.wr RST_STATUS.PART_ACTIVE 0 (setBit act p true)).count RST_CTR.PART_RESETS
      let s := { s with fe := { s.fe with held := p :: s.fe.held } }
      let cs := (List.range 1024).filter (fun c => s.ctxActive c && s.rd FE_CTX.PART c == p)
      let s := cs.foldl (fun s c => s.ctxFault c 0xB1 n) s
      let s := (bitList (s.rd FE_PART.CLUSTERS p) 48).foldl (fun s u => if s.present 1 u then s.partBlk n 1 u else s) s
      let s := (bitList (s.rd FE_PART.LOOMS p) 12).foldl (fun s u => if s.present 3 u then s.partBlk n 2 u else s) s
      let s := s.crdEmpty p
      .next (({ s with heaps := s.heaps.del p }.wr FE_CHN.FREE_SEQ p 0).heapSync p)

/-- Work of partition `p`'s reset is left: teardowns of its contexts, resets of its blocks. -/
def State.partBusy (s : State) (p : Nat) : Bool :=
  s.tds.any (fun t => s.rd FE_CTX.PART t.1 == p) ||
  s.rsts.any (fun r => (r.typ ≤ 1 && bit (s.rd FE_PART.CLUSTERS p) r.unit) || (r.typ == 2 && bit (s.rd FE_PART.LOOMS p) r.unit))

/-- PARTITION_RESET_DONE: a partition's reset has completed. -/
def execPartitionResetDone (p : Nat) (s : State) : Host.Outcome State Fault Refusal :=
  let act := s.rd RST_STATUS.PART_ACTIVE
  if p ≥ 8 ∨ ¬ bit act p ∨ s.partBusy p then .next s
  else
    let s := (s.wr RST_STATUS.PART_ACTIVE 0 (setBit act p false)).raise 0x33
    let s := { s with fe := { s.fe with held := s.fe.held.filter (· != p) } }
    .next ([0, 1].foldl (fun s k =>
      if s.on SAF_INC.OPEN k && s.rd SAF_INC.OWNER k == p && s.rd SAF_INC.LEVEL k == 3 then s.incClose k else s) s)

/-! ### Warm reset (R572 to R575) -/

/-- Narrower resets that run end with a wider one: their slots report 3 (R571). -/
def State.absorb (s : State) : State :=
  let s := (s.rsts.filterMap (·.slot)).foldl (fun s k => s.wrs k [(RST_BLOCK.BUSY, 0), (RST_BLOCK.RESULT, 3)]) s
  { s.wr RST_STATUS.PART_ACTIVE 0 0 with rsts := [], saf := { s.saf with wantPart := [] } }

/-- The unit that a device incident names: one under test or in a reset with the incident's number. -/
def State.suspect (s : State) (n : Nat) : Option (Nat × Nat) :=
  match s.asy.running with
  | some t => if t.inc = n then some (t.typ, t.unit) else none
  | none => match s.asy.queue.find? (fun t => t.inc == n) with
    | some t => some (t.typ, t.unit)
    | none => (s.rsts.find? (fun r => r.inc == n && r.typ != 0 && r.inc != 0)).map (fun r =>
        (if r.typ = 1 then 0 else if r.typ = 2 then 1 else if r.typ = 3 then 3 else if r.typ = 4 then 5 else 4, r.unit))

/-- Step 1 of a warm reset. -/
def State.warmBegin (s : State) (host : Bool) : State :=
  let s := if host then
      (({ s with saf := { s.saf with causes := 5 :: s.saf.causes } }).incident 4 9 0x34).2
    else s
  let n := s.rd SAF_INC.INCIDENT 2
  let fe := s.rd SAF_INC.SOURCE 2 = 0x72
  let s := { s with saf := { s.saf with wantWarm := false, incUnit := s.suspect n } }.absorb
  let s := (s.wrs 0 [(RST_STATUS.WARM_ACTIVE, 1), (RST_STATUS.WARM_STEP, 1), (RST_STATUS.LAST_WARM, if host then 1 else if fe then 3 else 2)]).count RST_CTR.WARMS
  let s := if s.on GLB_DEVNUM.MANAGER ∧ s.rd PXL_STATUS.JOINED ≠ 2 ^ s.dev then
      [0, 1].foldl (fun s p => if s.rd PXL_PORT.STATE p = 2 ∨ s.rd PXL_PORT.STATE p = 3 then s.emit (.pxl p 7 []) else s) s
    else s
  s.safUpdate

/-- WARM_RESET: RST_CTL.WARM with its key (`src` 0), or recovery at L3 (`src` 1), which merges with one that runs. -/
def execWarmReset (src key : Nat) (s : State) : Host.Outcome State Fault Refusal :=
  if src = 0 ∧ ¬ s.winUp .rst then .next s
  else if src = 0 ∧ (key ≠ 0xA5 ∨ ¬ s.on RST_BOOT_CTL.ENABLED ∨ s.on RST_STATUS.WARM_ACTIVE) then .next (s.cfgErr .rst 0)
  else if src ≠ 0 ∧ ¬ s.saf.wantWarm then .next s
  else if s.on RST_STATUS.WARM_ACTIVE then .next { s with saf := { s.saf with wantWarm := false } }
  else if ¬ s.on RST_BOOT_CTL.ENABLED then .next s
  else
    let s := if s.rd PWR_STATUS.STATE = 0 then s.updPwr (fun p => { p with entry := none }) else (s.wakeAsk PWR_WAKE_SRC.RESET 1).wakeNow true
    .next ((s.fl PWR_STATUS.ENTERING 0 false).warmBegin (src == 0))

/-- WB_TALLYs of the display sets that are pending or applied, and of frames written back and not acknowledged: writebacks that
a warm reset discards (R130, R662). -/
def State.wbTallies (s : State) : List Nat :=
  [0, 1, 2, 3].flatMap (fun p =>
    let of (g : Option GSet) : List Nat := match g with
      | some g => if g.flag 3 then [g.f 6 2] else []
      | none => []
    of (s.pipe p).pend ++ of (s.pipe p).applied ++ (s.pipe p).wb.map (·.2.1))

/-- Step 3: contexts, queues and work end at once, and the Tallies of discarded work are poisoned (R574, R575). -/
def State.warmStop (s : State) : State :=
  let n := s.rd SAF_INC.INCIDENT 2
  let wb := s.wbTallies
  let s := s.pipesOff
  let act := (List.range 1024).filter s.ctxActive
  let s := act.foldl (fun s c => s.tdBegin c { step := 1, driver := false, code := 0xB2, inc := n }) s
  let cs := s.tds.keys
  let s := cs.foldl State.engStop s
  let s := s.tds.foldl (fun s t => if t.2.step ≤ 2 then t.2.poison.foldl State.poisonTally s else s) s
  let s := wb.foldl State.poisonTally s
  let dev := s.tds.any (fun t => !t.2.driver)
  let s := s.tds.foldl (fun s t => ((s.loomFree t.1).ctxQueuesOff t.1).ctxEnd t.1 t.2) s
  let s := if dev then s.raise 0x43 else s
  let ws := s.tly.waits.filter (fun w => match w.who with
    | .remote _ _ => false
    | _ => true)
  let s := ws.foldl State.dropWait s
  let s := (List.range 12).foldl (fun s k => (s.wrs k [(LOOM_STATUS.OWNED, 0), (LOOM_STATUS.OWNER, 0)])) s
  let s := { s with
    heaps := [], routes := [], rt := [], crd := {}, gfx := {}, prs := {}, looms := [],
    fe := { s.fe with strms := [], sel := [], after := [], copies := [], held := [] } }
  (List.range 8).foldl (fun s p => (s.wr FE_CHN.FREE_SEQ p 0).heapSync p) s

/-- Fields of the windows that a warm reset resets which keep their values beside configuration: the FE's configuration
memory, the tick counter, trained links, the PMU and the trace, and what the always-on domain holds (R573, R574, R646). -/
def keptWarm : List Fld :=
  FE_CTX.fields ++ FE_Q.fields ++ FE_PAT.fields ++ FE_RT.fields ++ FE_PART.fields ++ FE_TICK_COUNT.fields ++ FE_TICK_TIME.fields ++
  [FE_CLAIM.BUSY, FE_CHN.FREE_SEQ, FE_CHN.FREE_BLOCKS, GLZ_DP.STATE, GLZ_DP.RATE_ACT, GLZ_DP.LANES_ACT, GLZ_DP.HPD, GLZ_APHY.LOCKED,
   PXL_PORT.STATE, PXL_PORT.PEER, PXL_PORT.WIDTH_ACT, PXL_PORT.RATE_ACT, PXL_PORT.LAT_NS, FE_SCH_PLAT.COMPUTE_NS, FE_SCH_PLAT.LOOM_NS] ++
  PXL_STATUS.fields ++ PXL_MIRROR.fields ++ PMU_CTL.fields ++ PMU_CNT.fields ++ PMU_FIXED.fields ++ DBG_TRACE.fields ++
  SAF_STATUS.fields ++ SAF_ROUTED.fields ++ SAF_INC.fields ++ SAF_CTR.fields ++ ASY_STATUS.fields ++ ASY_PROJECT.fields ++ ASY_AGE.fields

/-- Step 5: every domain that R573 does not keep is reset, with its configuration restored; the L2 is invalidated and the
on-die memories are zeroed. Shadows survive only in the FE's configuration memory. -/
def State.warmDomains (s : State) : State :=
  let held (i : Nat) : Bool := [0, 1, 2, 5, 9, 12, 13, 14].contains i
  let s := s.wipe (fun F i =>
    if F.among CFG.fields then held i
    else warmKept (F.blk i) || F.among keptWarm || (F.acc == .rw && !F.ctr))
  let s := { s with
    shadows := s.shadows.filter (fun e => match fldOf e.1.1 with
      | some F => warmKept (F.blk e.1.2) || F.among (FE_Q.fields ++ FE_PAT.fields ++ FE_RT.fields)
      | none => false),
    mmu := {}, sh := {}, looms := [], crd := {}, gfx := {}, prs := {}, rt := [], routes := [],
    glz := { ({} : Glz) with lut := s.glz.lut, retrain := s.glz.retrain },
    mem := { s.mem with l2 := [], atomBusy := [] },
    asy := { s.asy with running := none, queue := [] } }
  let s := (s.fl L2_STATUS.INIT_DONE 0 true).fl ASY_STATUS.TESTING 0 false
  s.wr PXL_STATUS.EPOCH 0 0

/-- Foreman A's section in the Foreman region has the CRC-32C recorded at bring-up (R575 step 6). -/
def State.foremanOk (s : State) : Bool :=
  ((s.boot.sects.zip s.boot.crcs).filter (fun p => p.1.1 == 0)).all (fun p => crc32c (s.mem.hbm.read p.1.2.1 p.1.2.2) == p.2)

/-- Units whose microcode has failed twice are retired (R560). Types as ASY_STATUS. -/
def State.ucodeFail (s : State) (fails : List (Nat × Nat)) : State :=
  fails.foldl (fun s f => if f.1 ≤ 1 ∧ s.inTable (unitClass f.1) f.2 then (s.retire f.1 f.2).2.syncSaf else s) s

/-- SAFE_ACTION HOLD is in force: what the fetchers report follows (R601). -/
def State.safeHold (s : State) : State := [0, 1, 2, 3, 4].foldl State.feSync { s with saf := { s.saf with hold := true } }

/-- A safe-state request asks for its action: none, HOLD, STOP of the partitions in SAFE_PARTS, or a warm reset (R601). The
answer is the incident of the last. -/
def State.safeApply (s : State) : State :=
  let a := s.rd SAF_CFG.SAFE_ACTION
  let four (s : State) : State :=
    { s with saf := { s.saf with causes := if s.saf.causes.contains 4 then s.saf.causes else 4 :: s.saf.causes } }
  let (n, s) :=
    if a = 1 then (0, s.safeHold)
    else if a = 2 then
      let cs := (List.range 1024).filter (fun c => s.ctxActive c && bit (s.rd SAF_CFG.SAFE_PARTS) (s.rd FE_CTX.PART c))
      (0, cs.foldl (fun s c => s.ctxFault c 0xD1) (four s))
    else if a = 3 then
      if s.on RST_STATUS.WARM_ACTIVE then (s.rd SAF_INC.INCIDENT 2, four s) else (four s).incident 4 9 3
    else (0, s)
  (s.ledger 0x18 3 (leBytes 1 1 ++ leBytes 1 a ++ leBytes 6 0 ++ leBytes 8 n)).safUpdate

/-- A safe-state request that waits for a reset to complete is applied. -/
def State.safeLate (s : State) : State := if s.saf.safeWait then { s with saf := { s.saf with safeWait := false } }.safeApply else s

/-- Step 9: fetchers and tick run again (R575), and dictionary accesses that waited are served (R528). -/
def State.warmEnd (s : State) : State :=
  let s := (s.wrs 0 [(RST_STATUS.WARM_ACTIVE, 0), (RST_STATUS.WARM_STEP, 0)]).runAll true
  let s := { s with tick := { s.tick with base := s.now }, saf := { s.saf with causes := s.saf.causes.filter (· != 5), incUnit := none, noClean := false, wantWarm := false } }
  (((s.incClose 2).safUpdate).raise 0x34).odDrain.safeLate

/-- A warm reset fails, and recovery proceeds to L4 (R575). -/
def State.warmFail (s : State) : State := ((s.fl RST_STATUS.WARM_FAILED 0 true).incident 5 9 0x34).2

/-- WARM_STEP_DONE: the running step's action is complete and the next step starts. `ok` is false if the step fails (the
shared logic fails step 8's tests, a start fails); `unitFail` is the result of step 8's test of the unit named in the
incident; `fails` are the units whose microcode fails twice in step 7. -/
def execWarmStepDone (ok unitFail : Bool) (fails : List (Nat × Nat)) (s : State) : Host.Outcome State Fault Refusal :=
  if ¬ s.on RST_STATUS.WARM_ACTIVE then .next s
  else if s.saf.wantFull then .next (s.fl RST_STATUS.WARM_FAILED 0 true)
  else
    let k := s.rd RST_STATUS.WARM_STEP
    if ¬ ok ∨ (k = 6 ∧ ¬ s.foremanOk) then .next s.warmFail
    else
      let next (s : State) : State := s.wr RST_STATUS.WARM_STEP 0 (k + 1)
      if k = 1 then .next (next s)
      else if k = 2 then .next (next (s.runAll false))
      else if k = 3 then .next (next s.warmStop)
      else if k = 4 then .next (next (if s.saf.noClean then s else s.maintLines 0 (fun _ _ => true)))
      else if k = 5 then .next (next s.warmDomains)
      else if k = 6 then .next (next s)
      else if k = 7 then .next (next (s.ucodeFail fails))
      else if k = 8 then
        .next (next (match s.saf.incUnit with
          | some (t, u) => s.verdict t u (s.rd SAF_INC.INCIDENT 2) (s.rd SAF_INC.SOURCE 2 % 256) unitFail
          | none => s))
      else .next s.warmEnd

/-! ### Function-level resets (R579, R580) -/

/-- Context `c` ends FREE: an ACTIVE one through a driver's teardown, one in TEARDOWN with that outcome, a FAULTED one at
once. -/
def State.flrCtx (s : State) (c : Nat) : State :=
  let st := s.rd FE_CTX.STATE c
  if st = 1 then (s.fl FE_CTX.EN c false).tdBegin c { step := 1, driver := true }
  else if st = 2 then { s with tds := s.tds.upd c (fun t => { t with driver := true }) }
  else if st = 3 then s.wrs c [(FE_CTX.EN, 0), (FE_CTX.STATE, 0)]
  else s

/-- A function's latched word and held SIGNAL low word go (R17, R139). -/
def State.flrLow (s : State) (f : Nat) : State :=
  { s with bus := { s.bus with latch := s.bus.latch.del f, splitLow := s.bus.splitLow.del f } }

/-- The MSI-X table of function `f` clears, and the moderation entries `vs` empty (R513). -/
def State.flrMsix (s : State) (f : Nat) (vs : List Nat) : State :=
  let s := { s with
    bus := { s.bus with cfg := s.bus.cfg.filter (fun p => p.1 / 4096 != f), msixEn := s.bus.msixEn.filter (· != f), funcMask := s.bus.funcMask.filter (· != f),
                        unmasked := s.bus.unmasked.filter (fun v => !vs.contains v),
                        msix := s.bus.msix.filter (fun p => !vs.contains (p.1 / 2)) },
    irq := { s.irq with pba := s.irq.pba.filter (fun v => !vs.contains v), held := s.irq.held.filter (fun p => !vs.contains p.1) } }
  vs.foldl (fun s v => (s.fl INTC_MOD.HELD v false).fl INTC_MOD.IDLE_HINT v false) s

/-- An FLR wakes the device first (R588). -/
def State.flrWake (s : State) : State :=
  if s.rd PWR_STATUS.STATE = 0 then s.wakeAsk PWR_WAKE_SRC.RESET 1 else (s.wakeAsk PWR_WAKE_SRC.RESET 1).wakeNow true

/-- VF_FLR: an FLR of VF `n`. -/
def execVfFlr (n : Nat) (s : State) : Host.Outcome State Fault Refusal :=
  if n = 0 ∨ n > 63 ∨ ¬ s.bus.vfEn ∨ n > s.bus.numVfs then .next s
  else
    let s := s.flrWake
    let b := s.rd GLB_VF_MAP.CTX_BASE n
    let cs := (List.range (s.rd GLB_VF_MAP.CTX_COUNT n)).map (· + b)
    let s := cs.foldl State.flrCtx s
    let s := cs.foldl (fun s c => if s.rd FE_CTX.STATE c = 0 then s.ctxQueuesOff c else s) s
    .next ((s.flrLow n).flrMsix n ((List.range 2048).filter (fun v => s.lentTo v == some n)))

/-- PF_FLR: an FLR of the PF. -/
def execPfFlr (s : State) : Host.Outcome State Fault Refusal :=
  if s.boot.por ∨ s.boot.perst ∨ s.boot.hold then .next s
  else
    let s := s.flrWake
    let s := (List.range 1024).foldl State.flrCtx s
    let s := ((List.range 2048).filter (fun q => s.rd FE_Q.STATE q != 0)).foldl State.queueOff s
    let s := [0, 1, 2, 3, 4].foldl State.feSync { s with fe := { s.fe with strms := s.fe.strms.filter (fun p => 2048 ≤ p.1) } }
    let s := (List.range 1024).foldl (fun s n => if s.on FE_PAT.EN n then (s.fl FE_PAT.EN n false).patRetire n else s) s
    let s := (List.range 64).foldl (fun s n => s.wrs n [(GLB_VF_MAP.CTX_BASE, 0), (GLB_VF_MAP.CTX_COUNT, 0)]) s
    let s := { s with bus := { s.bus with vfEn := false, numVfs := 0, keptMsix := [], keptUnmasked := [] } }
    let s := (List.range 64).foldl State.flrLow s
    let s := (List.range 64).foldl (fun s f => s.flrMsix f []) s
    let s := s.flrMsix 0 (List.range 2048)
    let claimed := (List.range 0x700).filter (fun n => s.rd INTC_SRC.STATE n == 2 && s.rd INTC_SRC.CLAIMANT n ≥ 2)
    let s := claimed.foldl State.release s
    let s := (List.range 64).foldl (fun s t => s.wrs t (INTC_TGT.fields.map (fun F => (F, F.reset)))) s
    .next (if s.on LDG_STATUS.FROZEN ∧ s.rd LDG_STATUS.OWNER = 0 then s.ldgThaw else s)

end Sys2Proof.Machine
end

