-- ==== Sys2Proof/Machine/Bringup.lean ====
section
/-! DEFINITION. Bring-up (R543 to R568): its ten steps, yield repair, licences, Foreman firmware, recovery mode, and the flash
port. A step's work is done by the command that starts it; BOOT_STEP_DONE ends it. -/

namespace Sys2Proof.Machine

/-! ### Steps (R543, R544, R547, R568) -/

/-- A step runs. -/
def State.stepRuns (s : State) : Option Nat := (List.range 11).find? (fun n => s.rd RST_BOOT_STEP.STATE n == 1)

/-- A GO of step `n`: it starts, or the GO is ignored and sets CFG_ERR (R544). Before step 1 is DONE the window ignores it
(R545). -/
def State.goStep (s : State) (n : Nat) (f : State → State) : State :=
  if s.rd RST_BOOT_STEP.STATE 1 ≠ 2 then s
  else if s.rd RST_BOOT_STEP.STATE (n - 1) ≠ 2 ∨ s.rd RST_BOOT_STEP.STATE n ≠ 0 ∨ s.stepRuns.isSome ∨
      (List.range 11).any (fun k => 3 ≤ s.rd RST_BOOT_STEP.STATE k) ∨ s.on RST_BOOT_CTL.RECOVERY then s.cfgErr .rst 0x8000
  else
    let s := (s.wr RST_BOOT_CTL.CUR_STEP 0 n).wr RST_BOOT_STEP.STATE n 1
    f (s.updBoot (fun b => { b with since := s.now, err := 0 }))

/-- The running step is to end with error `e`. -/
def State.stepErr (s : State) (e : Nat) : State := s.updBoot (fun b => { b with err := e })

/-- A flash of 64 MiB or more answers without an error (R548). -/
def State.flashOk (s : State) (readErr : Bool) : Bool := s.boot.answers && 64 ≤ s.boot.mib && !readErr

/-! ### Step 2 -/

/-- Step 2 reads the fuses, identifies the flash and reads the boot record; `count` says that a start is counted (R564). -/
def State.fuseRead (s : State) (readErr count : Bool) : State :=
  let f := s.boot.fuses
  if !f.crcOk then s.stepErr 1
  else
    let word (l : List Nat) (k : Nat) : Nat := ofBytes ((List.range 4).flatMap (fun i => leBytes 2 (l.getD (k + i) 0)))
    let s := s.wrs 0 [(GLB_ID.METAL, f.metal), (GLB_ID.BASE, f.base), (GLB_UID_LO.UID, f.uid % 2 ^ 64), (GLB_UID_HI.UID, f.uid / 2 ^ 64)]
    let s := [0, 1].foldl (fun s r =>
      let s := s.wrs r [(PWR_AVS.V0_3, word f.vt0 (8 * r)), (PWR_AVS.V4_7, word f.vt0 (8 * r + 4)),
        (ASY_AGE.SENS, ofBytes ((List.range 8).flatMap (fun i => leBytes 1 (f.sens.getD (8 * r + i) 0))))]
      [0, 1].foldl (fun s h => s.wrs (2 * r + h) [(ASY_AGE.VT0, word f.vt0 (8 * r + 4 * h)), (ASY_AGE.VMAX, word f.vmax (8 * r + 4 * h))]) s) s
    let up := if count then min 3 (s.rd RST_BOOT_CTL.FAILS + 1) else s.rd RST_BOOT_CTL.FAILS
    if !s.flashOk readErr then (s.wr RST_BOOT_CTL.FAILS 0 up).stepErr 2
    else
      let s := s.wrs 0 [(RST_FLASH.SIZE_MIB, s.boot.mib), (RST_FLASH.JEDEC_ID, s.boot.jedec)]
      let r := s.recRead
      let n := max (s.rd RST_BOOT_CTL.FAILS) r.fails
      let n := if count then min 3 (n + 1) else n
      let s := (s.updBoot (fun b => { b with rcd := r })).wrs 0 [(RST_BOOT_CTL.FAILS, n), (RST_BOOT_SEL.TRIAL_REQ, b2n r.trial)]
      if count then s.recWrite { r with fails := n } else s

/-- FUSE_READ: GO 2. `readErr` is a read error of the flash. -/
def execFuseRead (readErr : Bool) (s : State) : Host.Outcome State Fault Refusal := .next (s.goStep 2 (fun s => s.fuseRead readErr true))

/-! ### Step 3 (R551, R552) -/

/-- Logical units that a class has on the die (R1). -/
def dieUnits (cls : Nat) : Nat := [0, 48, 48, 12, 4, 4, 2, 2, 4, 2, 4, 48, 1, 2].getD cls 0

/-- The repair list applied in order: spares left, absent units, entries skipped. -/
def State.repairs (s : State) (l : List (Nat × Nat × Nat)) (spares : List Nat) : State :=
  let r := l.foldl (fun (a : State × List Nat × List (Nat × Nat) × Nat) e =>
    let (s, sp, ab, k) := a
    let (cls, u, act) := e
    if u ≥ dieUnits cls ∨ act > 1 then (s, sp, ab, k + 1)
    else if act = 0 then
      if cls = 1 ∧ sp.contains (u / 12) then (s.mapSpare u, sp.filter (· != u / 12), ab, k) else (s, sp, ab, k + 1)
    else
      let q := u / 12
      let ph := s.rd GLB_YIELD.PHYS q
      let s := if cls = 1 ∧ ¬ ab.contains (1, u) then
          (s.wr GLB_YIELD.GOOD q (setBit (s.rd GLB_YIELD.GOOD q) (bits ph (4 * (u % 12)) 4) false)).wr GLB_YIELD.PHYS q (setBits ph (4 * (u % 12)) 4 0xF)
        else s
      (s, sp, (cls, u) :: ab, k)) (s, spares, [], 0)
  let ab := r.2.2.1
  ({ r.1 with asy := { r.1.asy with sparesUsed := (List.range 4).filter (fun q => !r.2.1.contains q) } }.updBoot
    (fun b => { b with absent := ab })).wr RST_BOOT_INFO.REPAIR_SKIP 0 (min 127 r.2.2.2)

/-- YIELD_MAP: GO 3. -/
def execYieldMap (s : State) : Host.Outcome State Fault Refusal :=
  .next (s.goStep 3 (fun s =>
    let good (q : Nat) : List Nat := bitList (s.boot.fuses.good.getD q 0) 13
    if (List.range 4).any (fun q => (good q).length < 12) then s.stepErr 3
    else
      let s := (List.range 4).foldl (fun s q =>
        let ph := ((good q).take 12).foldr (fun k n => n * 16 + k) 0
        s.wrs q [(GLB_YIELD.GOOD, s.boot.fuses.good.getD q 0), (GLB_YIELD.PHYS, ph)]) s
      s.repairs s.boot.rcd.repairs ((List.range 4).filter (fun q => (good q).length == 13))))

/-! ### Step 4 (R553 to R556) -/

/-- What a licence slot holds: the code of RST_BOOT_LIC, with the variant and the serial number of an accepted one. -/
def State.licSlot (s : State) (k : Nat) : Nat × Nat × Nat :=
  let b := s.flashRead (0x10000 + 0x200 * k) 512
  if erased b then (0, 0, 0)
  else if field b 0 4 ≠ 0x43494C53 ∨ field b 4 2 ≠ 1 ∨ field b 6 1 > 2 ∨ field b 7 1 > 3 ∨ field b 0x40 384 ≠ 0 then (4, 0, 0)
  else if bit s.boot.fuses.revoked (field b 7 1) then (5, 0, 0)
  else if field b 8 16 ≠ s.boot.fuses.uid then (3, 0, 0)
  else if !edVerify (Config.licenceKey (field b 7 1)) (b.take 0x1C0) (b.drop 0x1C0) then (6, 0, 0)
  else (2, field b 6 1, field b 0x18 8)

/-- The capability table of a variant with the spares of quadrants `sp` (R1, R68). -/
def capTable (v : Nat) (sp : List Nat) : List CapEnt :=
  let row (cls a b c : Nat) : CapEnt := let n := [a, b, c].getD v a; { cls := cls, count := n, present := 2 ^ n - 1 }
  let num (cls a c : Nat) : CapEnt := { cls := cls, count := if v = 2 then c else a }
  let sp := if v = 2 then sp.filter (· < 2) else sp
  [row 1 48 40 24, row 2 48 40 0, row 3 12 8 12, row 4 4 4 2, row 5 4 2 0, row 6 2 2 0, row 7 2 2 0, row 8 4 2 2, row 9 2 2 2,
   row 0xA 4 4 4, row 0xB 48 48 48, row 0xC 1 1 0, row 0xD 2 2 2,
   { cls := 0x10, count := sp.length, present := sp.foldl (fun m q => m + 2 ^ q) 0 },
   num 0x100 98304 98304, num 0x101 1024 1024, num 0x102 2048 2048, num 0x103 8 8, num 0x104 8192 8192, num 0x105 3 3, num 0x106 24 0]

/-- A class's units that the repair list leaves absent go, with what depends on them (R69, R552). -/
def State.capAbsent (s : State) : State :=
  s.boot.absent.foldl (fun s a =>
    match [1, 3, 2, 8].findIdx? (· == a.1) with
    | some typ => s.disableUnit typ a.2
    | none => if a.1 = 0xC then s.disableUnit 4 0 else if a.1 = 5 then s.disableUnit 5 0 else s.capEdit a.1 (CapEnt.lose a.2)) s

/-- LICENCE_CHECK: GO 4. -/
def execLicenceCheck (readErr : Bool) (s : State) : Host.Outcome State Fault Refusal :=
  .next (s.goStep 4 (fun s =>
    if !s.flashOk readErr then s.stepErr 2
    else
      let res := (List.range 8).map s.licSlot
      let best := (List.range 8).foldl (fun (m : Option Nat) k =>
        if (res.getD k (0, 0, 0)).1 = 2 then
          match m with
          | none => some k
          | some j => if (res.getD j (0, 0, 0)).2.2 < (res.getD k (0, 0, 0)).2.2 then some k else m
        else m) none
      let word := (List.range 8).foldl (fun n k => n + 8 ^ k * (if best = some k then 1 else (res.getD k (0, 0, 0)).1)) 0
      let s := s.wr RST_BOOT_LIC.RES 0 word
      match best with
      | none => s.stepErr 4
      | some k =>
        let v := (res.getD k (0, 0, 0)).2.1
        let s := s.wrs 0 [(RST_BOOT_INFO.LIC_SLOT, k), (GLB_ID.VARIANT, v)]
        let sp := (List.range 4).filter (fun q => !s.asy.sparesUsed.contains q)
        let s := { s with cap := { valid := true, gen := 0, ents := capTable v sp } }.capAbsent
        let s := { s with cap := { s.cap with ents := s.cap.ents.map (fun e => { e with shrunk := false }) } }
        (List.range 48).foldl (fun s u => if s.inTable 1 u then s
          else s.wr GLB_YIELD.PHYS (u / 12) (setBits (s.rd GLB_YIELD.PHYS (u / 12)) (4 * (u % 12)) 4 0xF)) s))

/-! ### Step 5 -/

/-- HBM_TRAIN: GO 5; `fails` are the stacks in which a pseudo-channel fails to train (R463). -/
def execHbmTrain (fails : List Nat) (s : State) : Host.Outcome State Fault Refusal :=
  .next (s.goStep 5 (fun s =>
    let fails := fails.filter (· < 4)
    let s := [0, 1, 2, 3].foldl (fun s m => s.wr MC_STATUS.TRAIN m 1) s
    let s := s.updBoot (fun b => { b with untrained := fails })
    if fails.isEmpty then s else s.stepErr 5))

/-! ### Step 6 (R557 to R559) -/

/-- The offset of a firmware slot. -/
def slotOff (k : Nat) : Nat := if k = 0 then 0x100000 else 0x1100000

/-- A section of a firmware header: type, offset, size, load offset, digest. -/
structure Sect where
  typ : Nat
  off : Nat
  size : Nat
  load : Nat
  digest : List Byte
  deriving DecidableEq, Repr

/-- The sections of a header. -/
def sectsOf (h : List Byte) : List Sect :=
  (List.range 4).map (fun i =>
    let o := 0x10 + 96 * i
    { typ := field h o 1, off := field h (o + 4) 4, size := field h (o + 8) 4, load := field h (o + 12) 4, digest := (h.drop (o + 32)).take 64 })

/-- The header obeys R558; its reserved bytes are 0. -/
def headerOk (h : List Byte) : Bool :=
  let ss := sectsOf h
  let fm := ss.filter (fun x => x.typ ≤ 1)
  field h 0 4 == 0x49574653 && field h 4 2 == 1 && field h 0xA 1 ≤ 3 && field h 0xB 1 == 0 && field h 0xC 4 == 4 &&
  (List.range 4).all (fun t => (ss.filter (fun x => x.typ == t)).length == 1) && field h 0x190 3632 == 0 &&
  (List.range 4).all (fun i => field h (0x11 + 96 * i) 3 == 0 && field h (0x20 + 96 * i) 16 == 0) &&
  ss.all (fun x => 0x1000 ≤ x.off && x.off + x.size ≤ 0x1000000 && (x.typ ≤ 1 || x.size ≤ 0x100000)) &&
  fm.all (fun x => x.load + x.size ≤ 0x4000000) &&
  match fm with
    | [a, b] => a.load + a.size ≤ b.load || b.load + b.size ≤ a.load
    | _ => false

/-- The check of a slot: 0, or the code of RST_BOOT_INFO.FWA_ERR (R559). -/
def State.slotCheck (s : State) (k : Nat) : Nat :=
  let h := s.flashRead (slotOff k) 4096
  if erased h then 1
  else if !headerOk h then 2
  else if bit s.boot.fuses.revoked (4 + field h 0xA 1) then 3
  else if !edVerify (Config.firmwareKey (field h 0xA 1)) (h.take 0xFC0) (h.drop 0xFC0) then 4
  else if field h 8 2 < s.boot.fuses.minSvn then 5
  else if (sectsOf h).all (fun x => sha512 (s.flashRead (slotOff k + x.off) x.size) == x.digest) then 0
  else 6

/-- The Foreman region takes slot `k`'s sections: Foreman sections at their load offsets, microcode above them. -/
def State.slotLoad (s : State) (k : Nat) : State :=
  let base := s.rd RST_BOOT_FW.FW_PA * 2 ^ 26
  let h := s.flashRead (slotOff k) 4096
  let ss := sectsOf h
  let top := (ss.filter (fun x => x.typ ≤ 1)).foldl (fun n x => max n (x.load + x.size)) 0
  let micro := ss.filter (fun x => 2 ≤ x.typ)
  let place (x : Sect) : Nat := base + if x.typ ≤ 1 then x.load
    else top + (micro.filter (fun y => y.typ < x.typ)).foldl (fun n y => n + y.size) 0
  let s := s.updBoot (fun b => { b with sects := [], crcs := [] })
  let s := ss.foldl (fun s x =>
    let d := s.flashRead (slotOff k + x.off) x.size
    { s.updBoot (fun b => { b with sects := b.sects ++ [(x.typ, place x, x.size)], crcs := b.crcs ++ [crc32c d] }) with
      mem := { s.mem with hbm := s.mem.hbm.write (place x) d } }) s
  s.wrs 0 [(RST_BOOT_INFO.FW_SLOT, k), (RST_BOOT_INFO.SVN, field h 8 2), (GLB_REV.FW_REV, field h 6 2)]

/-- FIRMWARE_LOAD: GO 6. -/
def execFirmwareLoad (readErr : Bool) (s : State) : Host.Outcome State Fault Refusal :=
  .next (s.goStep 6 (fun s =>
    if (s.rd RST_BOOT_FW.FW_PA + 1) * 2 ^ 26 > s.hbmBytes then s.stepErr 7
    else if !s.flashOk readErr then s.stepErr 2
    else
      let trial := s.boot.rcd.trial
      let s := if trial then (s.recWrite { s.boot.rcd with trial := false }).fl RST_BOOT_INFO.TRIAL 0 true else s
      let act := s.boot.rcd.slot % 2
      let a := if trial then 1 - act else act
      let note (s : State) (k e : Nat) : State := s.wr (if k = 0 then RST_BOOT_INFO.FWA_ERR else RST_BOOT_INFO.FWB_ERR) 0 e
      let e := s.slotCheck a
      if e = 0 then s.slotLoad a
      else
        let s := (note s a e).fl RST_BOOT_INFO.FW_FALLBACK 0 true
        let e := s.slotCheck (1 - a)
        if e = 0 then s.slotLoad (1 - a) else (note s (1 - a) e).stepErr 6))

/-- The START record (R619, R627). -/
def State.startRec (s : State) : State :=
  let info := (RST_BOOT_INFO.fields).foldl (fun n F => n + s.rd F * 2 ^ F.lo) 0
  let r := s.boot.rcd
  s.ldgTake { typ := 3, sev := 0, time := s.now,
              body := leBytes 1 (s.rd RST_STATUS.LAST_FULL) ++ leBytes 1 (s.rd RST_BOOT_CTL.FAILS) ++ leBytes 1 r.failStep ++ leBytes 1 r.failErr ++
                leBytes 1 (s.rd RST_BOOT_CTL.RECOVERY) ++ leBytes 3 0 ++ leBytes 8 info }

/-- Foreman B starts: the Ledger is reloaded after a power-on, a freeze ends, the START record is written and the dictionary
starts (R526, R528, R627, R629). -/
def State.foremanStart (s : State) (recovery : Bool) : State :=
  let s := if s.rd RST_STATUS.LAST_FULL = 0 then s.ldgReload else s
  ((s.ldgThaw.startRec).odmStart recovery).domSync

/-! ### Steps 7 and 8 (R560, R561) -/

/-- MICROCODE_BROADCAST: GO 7; `fails` are the units whose second check of the microcode fails too: type 0 cluster, 1 Loom. -/
def execMicrocodeBroadcast (fails : List (Nat × Nat)) (s : State) : Host.Outcome State Fault Refusal :=
  .next (s.goStep 7 (fun s =>
    let s := s.ucodeFail fails
    if (List.range 48).any (s.inTable 1) ∨ (List.range 12).any (s.inTable 3) then s else s.stepErr 8))

/-- BOOT_SELFTEST: GO 8; the clusters, Looms, RTUs and Press engines and the quadrants' spares that fail, whether the shared
logic fails, and the delay increases that the Assayer measures (R561, R610). -/
def execBootSelftest (fails : List (Nat × Nat)) (spares : List Nat) (shared : Bool) (d0 d1 : Nat) (s : State) :
    Host.Outcome State Fault Refusal :=
  .next (s.goStep 8 (fun s =>
    let s := spares.foldl (fun s q => if s.inTable 0x10 q then
        (s.capEdit 0x10 (fun e => { e with present := setBit e.present q false, count := e.count - 1 })).capChanged else s) s
    let s := fails.foldl (fun s f =>
      if f.1 ≤ 3 ∧ s.inTable (unitClass f.1) f.2 then
        let r := (s.count ASY_CTR.LASTING).retire f.1 f.2
        r.2.testRec 0 f.1 f.2 true r.1 0
      else s) s
    let s := s.ageMeasure (d0 % 0x10000) (d1 % 0x10000)
    if shared then s.stepErr 9 else s))

/-! ### Steps 9 and 10 (R562, R563) -/

/-- CARVEOUT_CHECK: GO 9. -/
def execCarveoutCheck (s : State) : Host.Outcome State Fault Refusal :=
  .next (s.goStep 9 (fun s => if (List.range 8).any s.partOn then s else s.stepErr 0xA))

/-- ENABLE: GO 10. -/
def execEnable (s : State) : Host.Outcome State Fault Refusal := .next (s.goStep 10 id)

/-- The device is enabled. -/
def State.enabled (s : State) : State :=
  let s := (s.fl RST_BOOT_CTL.ENABLED 0 true).wr RST_BOOT_CTL.FAILS 0 0
  let s := s.recWrite { s.boot.rcd with fails := 0, slot := s.rd RST_BOOT_INFO.FW_SLOT }
  let s := s.runAll true
  let s := { s with tick := { s.tick with base := s.now },
                    saf := { s.saf with causes := s.saf.causes.filter (fun c => c != 0 && c != 5), everEnabled := true } }
  let s := if s.on SAF_INC.OPEN 2 ∧ s.rd SAF_INC.LEVEL 2 = 5 then s.incClose 2 else s
  s.domSync.safUpdate.safeLate

/-! ### The end of a step -/

/-- The failure of a start goes into the boot record (R550). -/
def State.failRec (s : State) (n e : Nat) : State :=
  if s.on RST_BOOT_CTL.RECOVERY ∨ ¬ s.boot.answers then s else s.recWrite { s.boot.rcd with failStep := n, failErr := e }

/-- Step 2 of recovery mode runs by itself (R565). -/
def State.recoveryFuses (s : State) : State :=
  let s := (s.wr RST_BOOT_CTL.CUR_STEP 0 2).wr RST_BOOT_STEP.STATE 2 1
  (s.updBoot (fun b => { b with since := s.now, err := 0 })).fuseRead false false

/-- What the end of step `n` brings when it is DONE. -/
def State.stepDone (s : State) (n : Nat) : State :=
  if n = 5 then [0, 1, 2, 3].foldl (fun s m => s.wr MC_STATUS.TRAIN m 2) s
  else if n = 6 then s.foremanStart false
  else if n = 7 then (s.domSync).fl L2_STATUS.INIT_DONE 0 true
  else if n = 10 then s.enabled
  else s

/-- BOOT_STEP_DONE: the running step ends, DONE or FAILED (R543, R568). In recovery mode step 2 follows step 1, and Foreman B
starts from the recovery program after step 2. -/
def execBootStepDone (s : State) : Host.Outcome State Fault Refusal :=
  match s.stepRuns with
  | none => .next s
  | some n =>
    let e := s.boot.err
    let s := s.wrs n [(RST_BOOT_STEP.STATE, if e = 0 then 2 else 3), (RST_BOOT_STEP.ERR, e),
      (RST_BOOT_STEP.ELAPSED_US, min ((s.now - s.boot.since) / 1000) 0xFFFFFFFF)]
    let s := if e = 0 then s.stepDone n else s.failRec n e
    let s := if n = 5 ∧ e ≠ 0 then [0, 1, 2, 3].foldl (fun s m => s.wr MC_STATUS.TRAIN m (if s.boot.untrained.contains m then 3 else 2)) s else s
    .next (
      if ¬ s.on RST_BOOT_CTL.RECOVERY then s
      else if n = 1 then s.recoveryFuses
      else if n = 2 then s.foremanStart true
      else s)

/-- The limit of a step in ns (R543). -/
def stepLimit (n : Nat) : Nat := [0, 0, 5, 10, 50, 60, 250, 20, 300, 10, 5].getD n 0 * 1000000

/-- BOOT_STEP_TIMEOUT: the running step's timeout expires. -/
def execBootStepTimeout (s : State) : Host.Outcome State Fault Refusal :=
  match s.stepRuns with
  | none => .next s
  | some n =>
    if n ≥ 2 ∧ s.boot.since + stepLimit n ≤ s.now then
      let s := s.wrs n [(RST_BOOT_STEP.STATE, 4), (RST_BOOT_STEP.ELAPSED_US, min ((s.now - s.boot.since) / 1000) 0xFFFFFFFF)]
      .next (s.failRec n 0)
    else .next s

/-- PERST_RELEASE: PERST# is released: the straps are latched, and step 1 of bring-up starts, in recovery mode after three
failed starts or with FORCE_RECOV (R543, R565, R656). -/
def execPerstRelease (devId : Nat) (recov jtag : Bool) (s : State) : Host.Outcome State Fault Refusal :=
  if ¬ s.boot.perst then .next s
  else
    let s := if s.boot.latched then s
      else (s.wr GLB_DEVNUM.DEV_ID 0 (devId % 4)).meshOwn.updBoot (fun b => { b with latched := true, three := devId % 4 == 3 })
    let s := { s.updBoot (fun b => { b with perst := false, jtagMode := jtag }) with jtag := { s.jtag with pins := none } }
    let forced := recov || s.boot.three
    let n := max (s.rd RST_BOOT_CTL.FAILS) (if s.boot.answers then s.recRead.fails else 0)
    let s := s.wrs 0 [(RST_BOOT_CTL.FORCED, b2n forced), (RST_BOOT_CTL.RECOVERY, b2n (forced || n ≥ 3)), (RST_BOOT_CTL.FAILS, min 3 n),
      (RST_BOOT_CTL.CUR_STEP, 1)]
    .next s.tryStart

/-! ### Recovery mode and the trial slot -/

/-- RECOV_EXIT: a write of 1 in recovery mode sets FAILS to 0 in both copies (R567). -/
def execRecovExit (s : State) : Host.Outcome State Fault Refusal :=
  .next (
    if ¬ s.winUp .rst then s
    else if s.on RST_BOOT_CTL.RECOVERY then (s.wr RST_BOOT_CTL.FAILS 0 0).recWrite { s.boot.rcd with fails := 0 }
    else s.cfgErr .rst 0x8000)

/-- TRIAL_REQ: a write of 1 sets TRIAL in the boot record. -/
def execTrialReq (s : State) : Host.Outcome State Fault Refusal :=
  .next (if s.winUp .rst then s.recWrite { s.boot.rcd with trial := true } else s)

/-! ### The flash port (R549) -/

/-- The partition of a flash offset: 0 BOOT, 1 LICENCES, 2 CONFIG, 3 FW_A, 4 FW_B, 5 LEDGER (R548). -/
def flashPart (a : Nat) : Nat :=
  if a < 0x10000 then 0 else if a < 0x20000 then 1 else if a < 0x100000 then 2 else if a < 0x1100000 then 3 else if a < 0x2100000 then 4 else 5

/-- The driver may program or erase a partition. -/
def State.flashMay (s : State) (p : Nat) : Bool :=
  if s.on RST_BOOT_CTL.RECOVERY then p ≤ 4 else p == 1 || (p == 3 && s.rd RST_BOOT_INFO.FW_SLOT == 1) || (p == 4 && s.rd RST_BOOT_INFO.FW_SLOT == 0)

/-- A GO of RST_FLASH with operation `op`, on `n` bytes from ADDR. -/
def State.flashGo (s : State) (op : Nat) (f : State → Nat → Nat → State) : State :=
  if ¬ s.winUp .rst ∨ s.rd RST_FLASH.OP ≠ op then s
  else if s.on RST_FLASH.BUSY then s.cfgErr .rst 0x9008
  else
    let a := s.rd RST_FLASH.ADDR
    let n := if op = 2 then 4096 else s.rd RST_FLASH.LEN
    if n = 0 ∨ n > 4096 ∨ (op = 2 ∧ a % 4096 ≠ 0) then s.cfgErr .rst 0x9008
    else
      let s := s.fl RST_FLASH.BUSY 0 true
      let res (s : State) (r : Nat) : State := s.updBoot (fun b => { b with result := r })
      if ¬ s.boot.answers ∨ a + n > s.boot.mib * 0x100000 then res s 2
      else if op ≠ 0 ∧ ¬ (s.flashMay (flashPart a) ∧ s.flashMay (flashPart (a + n - 1))) then res s 1
      else f (res s 0) a n

/-- FLASH_READ: the operation READ fills the data buffer. The spec gives no layout of the stored set's bytes nor of the
Ledger's mirror, so those bytes are free where they are written. -/
def execFlashRead (s : State) : Host.Outcome State Fault Refusal :=
  .next (s.flashGo 0 (fun s a n =>
    let p := flashPart a
    let (b, s) := if (p = 2 ∧ ¬ s.odm.copies.isEmpty) ∨ p = 5 then s.freeBytes 49 n else (s.flashRead a n, s)
    s.updBoot (fun x => { x with buf := b ++ x.buf.drop n })))

/-- What a driver's change of BOOT or CONFIG means for what is read from there: a changed CONFIG holds no stored set. -/
def State.flashSync (s : State) (a n : Nat) : State :=
  if flashPart a = 2 ∨ flashPart (a + n - 1) = 2 then s.updOdm (fun o => { o with copies := [] })
  else if flashPart a = 0 then s.updBoot (fun b => { b with rcd := s.recRead })
  else s

/-- FLASH_PROGRAM: the operation PROGRAM takes from the data buffer; bits that cannot go from 0 to 1 show as a read-back
mismatch. -/
def execFlashProgram (s : State) : Host.Outcome State Fault Refusal :=
  .next (s.flashGo 1 (fun s a n =>
    let d := (s.boot.buf).take n
    let s := (s.flashProgram a d).flashSync a n
    s.updBoot (fun b => { b with result := if s.flashRead a n = d then 0 else 3 })))

/-- FLASH_ERASE: the operation ERASE erases one sector. -/
def execFlashErase (s : State) : Host.Outcome State Fault Refusal :=
  .next (s.flashGo 2 (fun s a n => (s.flashErase a (a + n)).flashSync a n))

/-- FLASH_DONE: the operation ends. -/
def execFlashDone (s : State) : Host.Outcome State Fault Refusal :=
  .next (if s.on RST_FLASH.BUSY then s.wrs 0 [(RST_FLASH.BUSY, 0), (RST_FLASH.RESULT, s.boot.result)] else s)

end Sys2Proof.Machine
end

