-- ==== Sys2Proof/Machine/Contexts.lean ====
section
/-! DEFINITION. Contexts (chapter 03): the host's writes of a context's first word (R82, R83). -/

namespace Sys2Proof.Machine

/-- The window offset of a context's first word. -/
def ctxOff (c : Nat) : Nat := 0x20000 + 0x10 * c

/-- PART of a context is written: only in FREE; writing the value it has is no write (R82, R83). -/
def State.ctxPart (s : State) (c part : Nat) : State :=
  if part = s.rd FE_CTX.PART c then s
  else if s.rd FE_CTX.STATE c = 0 then s.wr FE_CTX.PART c part
  else s.cfgErr .fe (ctxOff c)

/-- The word at +0x0 of a context is written with EN and PART (R82, R83). -/
def State.ctxWrite (s : State) (c : Nat) (en : Bool) (part : Nat) : State :=
  let st := s.rd FE_CTX.STATE c
  if en = s.on FE_CTX.EN c then s.ctxPart c part
  else if st = 2 then s.cfgErr .fe (ctxOff c)
  else if en then
    if s.partOn part then ((s.wr FE_CTX.PART c part).fl FE_CTX.EN c true).wr FE_CTX.STATE c 1
    else s.cfgErr .fe (ctxOff c)
  else
    let s := s.ctxPart c part
    if st = 1 then (s.fl FE_CTX.EN c false).tdBegin c { step := 1, driver := true }
    else (s.fl FE_CTX.EN c false).wr FE_CTX.STATE c 0

/-- CTX_ENABLE: a write of EN = 1; a FREE context of an enabled partition becomes ACTIVE (R83). -/
def execCtxEnable (c part : Nat) (s : State) : Host.Outcome State Fault Refusal :=
  s.hostDo .fe (fun s => .next (if c < 1024 ∧ part < 8 then s.ctxWrite c true part else s))

/-- CTX_TEARDOWN_REQUEST: a write of EN = 0; an ACTIVE context starts a driver teardown (R83, R85). -/
def execCtxTeardownRequest (c part : Nat) (s : State) : Host.Outcome State Fault Refusal :=
  s.hostDo .fe (fun s => .next (if c < 1024 ∧ part < 8 then s.ctxWrite c false part else s))

/-- CTX_FREE: a write of EN = 0; a FAULTED context becomes FREE at once (R83). -/
def execCtxFree (c part : Nat) (s : State) : Host.Outcome State Fault Refusal :=
  s.hostDo .fe (fun s => .next (if c < 1024 ∧ part < 8 then s.ctxWrite c false part else s))

end Sys2Proof.Machine
end

