-- ==== Sys2Proof/Machine/Debug.lean ====
section
/-! DEFINITION. The debugger's view of shader groups (R636 to R638), and the JTAG port (R634, R635). -/

namespace Sys2Proof.Machine

/-! ### Groups -/

/-- DBG_HALT takes what a write names, and DBG_HALT_STATUS follows. -/
def State.dbgName (s : State) (cluster core slot : Nat) (byCtx : Bool) (ctx : Nat) : State :=
  (s.wrs 0 [(DBG_HALT.CLUSTER, cluster), (DBG_HALT.CORE, core), (DBG_HALT.SLOT, slot), (DBG_HALT.BY_CTX, b2n byCtx), (DBG_HALT.CTX, ctx)]).haltSync

/-- The outcome of a request: 0 accepted, 1 refused, 2 absent unit, 3 not halted. -/
def State.dbgLast (s : State) (v : Nat) : State := s.wr DBG_HALT_STATUS.LAST 0 v

/-- A group whose dispatch has DEBUG = 1. -/
def State.debugGrp (s : State) (g : Nat) : Bool := match s.genv g with
  | some e => e.disp.kd.debug
  | none => false

/-- A halt is asked of group `g`: one that waits under R197 halts at once, any other at its next instruction boundary (R212), and
neither before its pending RETURN emissions have completed (R241). -/
def State.askHalt (s : State) (g : Nat) : State :=
  match s.sh.grps.get? g with
  | none => s
  | some x =>
    if x.halted || x.ended then s
    else if x.wait != .none && !x.wait.mid && x.rets.isEmpty then s.haltGroup g
    else s.updGrp g (fun x => { x with haltReq := true })

/-- A step of the named group runs (R638). -/
def State.dbgBusy (s : State) : Bool := ((s.sh.grps.get? s.dbgGroup).map (fun x => x.stepping != 0)).getD false

/-- The groups of context `c` whose dispatch has DEBUG = 1. -/
def State.debugGrps (s : State) (c : Nat) : List Nat := ((s.sh.grps.filter (fun p => p.2.ctx == c)).map (·.1)).filter s.debugGrp

/-- HALT: a write of DBG_HALT with HALT = 1 (R636). -/
def State.dbgHalt (s : State) (cluster core slot : Nat) (byCtx : Bool) (ctx : Nat) : State :=
  let t := s.dbgName cluster core slot byCtx ctx
  let c := t.rd DBG_HALT.CTX
  (
    if byCtx then
      if t.sh.disps.any (fun d => d.2.ctx == c && d.2.kd.debug) then
        let t := { t with sh := { t.sh with sticky := if t.sh.sticky.contains c then t.sh.sticky else c :: t.sh.sticky } }
        ((t.debugGrps c).foldl State.askHalt t).dbgLast 0
      else (t.count DBG_CTR.HALT_REFUSED).dbgLast 1
    else if t.dbgBusy then s.cfgErr .dbg 8
    else if ¬ t.present 1 (t.rd DBG_HALT.CLUSTER) then t.dbgLast 2
    else if t.debugGrp t.dbgGroup then (t.askHalt t.dbgGroup).dbgLast 0
    else (t.count DBG_CTR.HALT_REFUSED).dbgLast 1)

/-- HALT of the host. -/
def execHalt (cluster core slot : Nat) (byCtx : Bool) (ctx : Nat) (s : State) : Host.Outcome State Fault Refusal :=
  s.hostDo .dbg (fun s => .next (s.dbgHalt cluster core slot byCtx ctx))

/-- GROUP_HALTED: group `g` reaches the boundary that a halt request or a step asks for (R212, R213). -/
def execGroupHalted (g : Nat) (s : State) : Host.Outcome State Fault Refusal :=
  .next (match s.sh.grps.get? g with
    | none => s
    | some x => if ((x.haltReq && !x.wait.mid) || (x.stepping == 2 && x.wait == .none)) && x.rets.isEmpty && !x.ended then s.haltGroup g else s)

/-- A group goes on. -/
def State.release1 (s : State) (g : Nat) : State :=
  (s.updGrp g (fun x => { x with halted := false, haltReq := false, stepping := 0 })).sclSync (coreOf g)

/-- RESUME: the named group, or every group of the context together with its sticky halt, is released (R638). -/
def State.dbgResume (s : State) (cluster core slot : Nat) (byCtx : Bool) (ctx : Nat) : State :=
  let t := s.dbgName cluster core slot byCtx ctx
  let c := t.rd DBG_HALT.CTX
  (
    if byCtx then
      let gs := t.debugGrps c
      if t.sh.sticky.contains c || gs.any (fun g => ((t.sh.grps.get? g).map (·.halted)).getD false) then
        let t := { t with sh := { t.sh with sticky := t.sh.sticky.filter (· != c) } }
        ((gs.foldl State.release1 t).haltSync).dbgLast 0
      else t.dbgLast 3
    else if t.dbgBusy then s.cfgErr .dbg 8
    else match t.sh.grps.get? t.dbgGroup with
      | some x => if x.halted then ((t.release1 t.dbgGroup).haltSync).dbgLast 0 else t.dbgLast 3
      | none => t.dbgLast 3)

/-- RESUME of the host. -/
def execResume (cluster core slot : Nat) (byCtx : Bool) (ctx : Nat) (s : State) : Host.Outcome State Fault Refusal :=
  s.hostDo .dbg (fun s => .next (s.dbgResume cluster core slot byCtx ctx))

/-- STEP: a halted group issues exactly one instruction (R213, R638). A step names a group, not a context. -/
def State.dbgStep (s : State) (cluster core slot : Nat) (byCtx : Bool) (ctx : Nat) : State :=
  let t := s.dbgName cluster core slot byCtx ctx
  (
    if t.dbgBusy ∧ ¬ byCtx then s.cfgErr .dbg 8
    else match t.sh.grps.get? t.dbgGroup with
      | some x =>
        if x.halted ∧ ¬ byCtx then
          let t := (t.updGrp t.dbgGroup (fun x => { x with halted := false, stepping := 1 })).sclSync (coreOf t.dbgGroup)
          ((t.count DBG_CTR.STEPS).haltSync).dbgLast 0
        else t.dbgLast 3
      | none => t.dbgLast 3)

/-- STEP of the host. -/
def execStep (cluster core slot : Nat) (byCtx : Bool) (ctx : Nat) (s : State) : Host.Outcome State Fault Refusal :=
  s.hostDo .dbg (fun s => .next (s.dbgStep cluster core slot byCtx ctx))

/-- The register that an access of DBG_ACC names in a group, or none (R637). -/
def dbgRead (e : GEnv) (space reg lane : Nat) : Option Nat :=
  let x := e.grp
  if space = 0 then
    if reg < 0x100 then (if reg < e.disp.kd.vregs then some (x.rv lane reg) else none)
    else if reg < 0x180 then some (x.rs (reg - 0x100))
    else if reg < 0x188 then some (x.rp (reg - 0x180))
    else if reg = 0x188 then some x.exec
    else none
  else if reg = 0 then some x.pc else if reg = 1 then some x.trap.pc else if reg = 2 then some x.trap.cause
  else if reg = 3 then some x.trap.exec else if reg = 4 then some x.trap.info else if reg = 5 then some x.status
  else none

/-- The group after a write of that register: bits of lanes that do not exist and reserved STATUS bits stay 0 (R216, R217). -/
def dbgWrite (x : Grp) (space reg lane v : Nat) : Grp :=
  if space = 0 then
    if reg < 0x100 then x.wv lane reg v
    else if reg < 0x180 then x.ws (reg - 0x100) v
    else if reg < 0x188 then x.wp (reg - 0x180) v
    else x.wx v
  else if reg = 0 then { x with pc := v % 2 ^ 48 }
  else if reg = 1 then { x with trap := { x.trap with pc := v % 2 ^ 48 } }
  else if reg = 2 then { x with trap := { x.trap with cause := v % 2 ^ 8 } }
  else if reg = 3 then { x with trap := { x.trap with exec := v &&& x.lanes } }
  else if reg = 4 then { x with trap := { x.trap with info := v % 2 ^ 8 } }
  else { x with status := v &&& 0x33F }

/-- DBG_ACC: a GO reads or writes one register of the halted group that DBG_HALT names; DBG_DATA holds the value (R637). -/
def State.dbgAccess (s : State) (space reg lane : Nat) (write : Bool) : State :=
  let s := s.wrs 0 [(DBG_ACC.SPACE, space), (DBG_ACC.REG, reg), (DBG_ACC.LANE, lane), (DBG_ACC.WRITE, b2n write), (DBG_ACC.ERR, 0)]
  let err := s.fl DBG_ACC.ERR 0 true
  (match s.genv s.dbgGroup with
    | none => err
    | some e =>
      if ¬ e.grp.halted then err
      else match dbgRead e (space % 2) (reg % 512) (lane % 32) with
        | none => err
        | some v =>
          if write then s.updGrp s.dbgGroup (fun x => dbgWrite x (space % 2) (reg % 512) (lane % 32) (s.rd DBG_DATA.DATA))
          else s.wr DBG_DATA.DATA 0 v)

/-- DBG_ACC of the host. -/
def execDbgAcc (space reg lane : Nat) (write : Bool) (s : State) : Host.Outcome State Fault Refusal :=
  s.hostDo .dbg (fun s => .next (s.dbgAccess space reg lane write))

/-! ### JTAG -/

/-- The TAP takes instruction `ir`, with `dr` shifted in; pins that EXTEST or CLAMP held return to their function. -/
def State.tap (s : State) (ir dr : Nat) : State := { s with jtag := { s.jtag with ir := ir, dr := dr, pins := none } }

/-- The one-bit bypass register, which captures 0. -/
def State.tapBypass (s : State) : State := s.emit (.tdo 1 0)

/-- The boundary is captured and shifted out. The spec gives neither its length nor its cells: a free value. -/
def State.tapCapture (s : State) : State :=
  let (v, s) := s.free 50
  { (s.emit (.tdo 0 v)) with jtag := { s.jtag with cap := v } }

/-- EXTEST: `v` is driven on the pins while PERST# is asserted; at any other time it acts as BYPASS (R635). -/
def execExtest (v : Nat) (s : State) : Host.Outcome State Fault Refusal :=
  let t := s.tap 0x00 v
  .next (if s.boot.perst then { t.tapCapture with jtag := { t.tapCapture.jtag with pins := some v } } else t.tapBypass)

/-- IDCODE: the 32-bit identity (R634). -/
def execIdcode (s : State) : Host.Outcome State Fault Refusal :=
  .next ((s.tap 0x01 s.jtag.dr).emit (.tdo 32 (s.rd GLB_ID.BASE * 2 ^ 28 + 0x9240 * 2 ^ 12 + Config.jedecId % 2 ^ 11 * 2 + 1)))

/-- SAMPLE_PRELOAD: the boundary is captured, and `v` is preloaded. -/
def execSamplePreload (v : Nat) (s : State) : Host.Outcome State Fault Refusal := .next (s.tap 0x02 v).tapCapture

/-- CLAMP: the pins hold the preloaded values while PERST# is asserted; the data register is the bypass (R635). -/
def execClamp (s : State) : Host.Outcome State Fault Refusal :=
  let t := (s.tap 0x03 s.jtag.dr).tapBypass
  .next (if s.boot.perst then { t with jtag := { t.jtag with pins := some s.jtag.dr } } else t)

/-- BYPASS, also selected by every other code. -/
def execBypass (s : State) : Host.Outcome State Fault Refusal := .next (s.tap 0x1F s.jtag.dr).tapBypass

end Sys2Proof.Machine
end

