-- ==== Sys2Proof/Machine/Link.lean ====
section
/-! DEFINITION. The PCIe link (R40 to R47) and SR-IOV's enable (R50, R51). -/

namespace Sys2Proof.Machine

/-- Enabled host targets with a claimable source are notified once each (R51, R512). -/
def State.notifyOpen (s : State) (p : Nat → Bool) : State :=
  (List.range 64).foldl (fun s t =>
    if p t && s.on INTC_TGT.EN t && !(s.claimable (2 + t)).isEmpty then s.notifyTgt (2 + t) else s) s

/-- LINK_UP: training ends at a rate code `speed` (as GLB_LINK.SPEED) and a width; 64 GT/s runs in FLIT mode (R40, R41). -/
def execLinkUp (speed width : Nat) (flit : Bool) (s : State) : Host.Outcome State Fault Refusal :=
  if s.boot.por ∨ s.boot.perst ∨ s.boot.hold ∨ s.rd RST_BOOT_STEP.STATE 1 = 0 ∨ speed = 0 ∨ speed > 6 ∨ ¬ [1, 2, 4, 8, 16].contains width then .next s
  else
    let below := speed < 4 || width < 4
    let s := s.wrs 0 [(GLB_LINK.SPEED, speed), (GLB_LINK.WIDTH, width), (GLB_LINK.FLIT, b2n ((flit && 4 ≤ speed) || speed == 6)),
      (GLB_LINK.UP, 1), (GLB_LINK.BELOW_MIN, b2n below)]
    let was := s.bus.down
    let s := { s with bus := { s.bus with down := false } }.syncLevel 0x22
    let s := if was then s.linkRec 0 0 1 else s
    let s := if below then s.raise 0x21 else s
    .next ((if was then s.notifyOpen (fun _ => true) else s).emcyClear)

/-- LINK_DOWN: the link goes down; on an enabled device that is the LINK_DOWN event, with its EMCY (R47). -/
def execLinkDown (s : State) : Host.Outcome State Fault Refusal :=
  if ¬ s.on GLB_LINK.UP then .next s
  else
    let s := s.wrs 0 [(GLB_LINK.SPEED, 0), (GLB_LINK.WIDTH, 0), (GLB_LINK.FLIT, 0), (GLB_LINK.UP, 0), (GLB_LINK.BELOW_MIN, 0)]
    if ¬ s.on RST_BOOT_CTL.ENABLED then .next s
    else
      let s := { s with bus := { s.bus with down := true } }
      .next (((s.syncLevel 0x22).linkRec 0 0 0).emcy 0x8110 0x22 s.lastInc)

/-- HOST_REQUEST_ERROR: a request of context `c` from engine `eng` to host memory got an Unsupported Request, a Completer Abort
or a completion timeout (R45, R47). -/
def execHostRequestError (c eng : Nat) (s : State) : Host.Outcome State Fault Refusal :=
  .next (if c < 1024 ∧ eng < 64 then s.ctxFault c 0xA2 0 eng else s)

/-- What moderation holds for the vectors `vs` is discarded. -/
def State.dropHeld (s : State) (vs : List Nat) : State :=
  vs.foldl (fun s v => s.fl INTC_MOD.HELD v false)
    { s with irq := { s.irq with held := s.irq.held.filter (fun p => !vs.contains p.1) } }

/-- Entries `vs` go to VFs: they start masked and empty, and what the PF left in them is kept for their return (R50, R51; log
entry 60). -/
def State.lendEntries (s : State) (vs : List Nat) : State :=
  let gone (v : Nat) : Bool := vs.contains v
  State.dropHeld { s with
    bus := { s.bus with
      keptMsix := s.bus.keptMsix.filter (fun p => !gone (p.1 / 2)) ++ s.bus.msix.filter (fun p => gone (p.1 / 2))
      keptUnmasked := s.bus.keptUnmasked.filter (fun v => !gone v) ++ s.bus.unmasked.filter gone
      msix := s.bus.msix.filter (fun p => !gone (p.1 / 2)), unmasked := s.bus.unmasked.filter (fun v => !gone v) },
    irq := { s.irq with pba := s.irq.pba.filter (fun v => !gone v) } } vs

/-- Entries `vs` come back to the PF as it left them (log entry 60). -/
def State.returnEntries (s : State) (vs : List Nat) : State :=
  let back (v : Nat) : Bool := vs.contains v
  State.dropHeld { s with
    bus := { s.bus with
      msix := (s.bus.keptMsix.filter (fun p => back (p.1 / 2))).foldl (fun m p => m.put p.1 p.2) (s.bus.msix.filter (fun p => !back (p.1 / 2)))
      unmasked := s.bus.keptUnmasked.filter back ++ s.bus.unmasked.filter (fun v => !back v)
      keptMsix := s.bus.keptMsix.filter (fun p => !back (p.1 / 2)), keptUnmasked := s.bus.keptUnmasked.filter (fun v => !back v) },
    irq := { s.irq with pba := s.irq.pba.filter (fun v => !back v) } } vs

/-- VF_DISABLE: NumVFs shrinks to `n`, or VF Enable is cleared (`n` = 0). Bindings to entries no longer lent resume, and a
resumed host target with a claimable source receives one message (R51). -/
def execVfDisable (n : Nat) (s : State) : Host.Outcome State Fault Refusal :=
  if ¬ s.bus.vfEn ∨ n ≥ s.bus.numVfs then .next s
  else
    let vs := (List.range 2048).filter (fun v => n < (2048 - v + 31) / 32 && (2048 - v + 31) / 32 ≤ s.bus.numVfs)
    let s := { s with
      bus := { s.bus with
        vfEn := n != 0, numVfs := n, msixEn := s.bus.msixEn.filter (fun f => f ≤ n), funcMask := s.bus.funcMask.filter (fun f => f ≤ n),
        cfg := s.bus.cfg.filter (fun p => p.1 / 4096 ≤ n),
        latch := s.bus.latch.filter (fun p => p.1 ≤ n), splitLow := s.bus.splitLow.filter (fun p => p.1 ≤ n) } }
    .next ((s.returnEntries vs).notifyOpen (fun t => vs.contains (s.rd INTC_TGT.VECTOR t)))

/-- VF_ENABLE: VF Enable with NumVFs = `n`. Each committed binding to an entry that becomes lent sets GLB CFG_ERR and raises the
configuration-error event once, and is suspended; the entry counts as masked for the PF (R50, R51). A smaller NumVFs is VF_DISABLE's. -/
def execVfEnable (n : Nat) (s : State) : Host.Outcome State Fault Refusal :=
  if n = 0 ∨ n > 63 ∨ s.rd RST_BOOT_STEP.STATE 1 = 0 then .next s
  else if s.bus.vfEn ∧ n ≤ s.bus.numVfs then execVfDisable n s
  else
    let was (v : Nat) : Bool := (s.lentTo v).isSome
    let t := { s with bus := { s.bus with vfEn := true, numVfs := n } }
    let new (v : Nat) : Bool := !was v && (t.lentTo v).isSome
    let exps := (t.regs.filter (fun e => e.1.1 == TLY_EXP.MSI_EN.fid && e.2 == 1 && new (t.rd TLY_EXP.VECTOR e.1.2))).length
    let tgts := ((List.range 64).filter (fun k => t.on INTC_TGT.EN k && new (t.rd INTC_TGT.VECTOR k))).length
    let t := t.lendEntries ((List.range 2048).filter new)
    .next ((List.range (exps + tgts)).foldl (fun s _ => (s.fl CFG.CFG_ERR Blk.glb.idx true).raise 0x20) t)

end Sys2Proof.Machine
end

