-- ==== Sys2Proof/Machine/Pexlink.lean ====
section
/-! DEFINITION. Pexlink: ports, requests of other devices, mirrors, heartbeats and the manager role (R484 to R503), and the
health words (R540). -/

namespace Sys2Proof.Machine

/-- The device that R484 places behind port `p`. -/
def peerOf (own p : Nat) : Nat := if own = 0 then p + 1 else if own = 1 then 2 * p else p

/-- Port `p` carries traffic: UP or DEGRADED (R485). -/
def State.portOpen (s : State) (p : Nat) : Bool := p < 2 && (s.rd PXL_PORT.STATE p == 2 || s.rd PXL_PORT.STATE p == 3)

/-- The port carries traffic and its peer has joined (R486). -/
def State.peerUp (s : State) (p : Nat) : Bool :=
  s.portOpen p && bit (s.rd PXL_STATUS.JOINED) (peerOf s.dev p) && s.rd PXL_PORT.PEER p == peerOf s.dev p

/-- A message leaves on each port toward a joined peer that is open and satisfies `q`. -/
def State.tellPeers (s : State) (q : Nat → Bool) (kind : Nat) (w : List Nat) : State :=
  [0, 1].foldl (fun s p => if s.peerUp p && q p then s.emit (.pxl p kind w) else s) s

/-- A port's state changes, with its LINK record; PXL_LINK_DOWN, its routed input and its EMCY follow the ports (R501, R533,
R600). -/
def State.portSet (s : State) (p st : Nat) : State :=
  let was := s.levelCond 0xE4
  let s := (s.wr PXL_PORT.STATE p st).linkRec 1 p st
  let is := s.levelCond 0xE4
  let s := s.syncLevel 0xE4
  if is && !was then (s.routeLevel 3 true).emcy 0x8120 0xE4 s.lastInc
  else if was && !is then (s.routeLevel 3 false).emcyClear
  else s

/-- Binding `i` is LOST and raises PXL_MIRROR_LOST (R494, R503). -/
def State.mirrorLost (s : State) (i : Nat) : State := (s.wr PXL_MIRROR.STATE i 2).raise 0xE2

/-- Every BOUND mirror of device `d` is lost (R494). -/
def State.mirrorsLost (s : State) (d : Nat) : State :=
  (List.range 256).foldl (fun s i =>
    if s.rd PXL_MIRROR.STATE i == 1 && s.rd PXL_MIRROR.HOME_DEV i == d then s.mirrorLost i else s) s

/-- The port leaves training at the width and rate that both ends allow, under its own caps: UP at the full ones, else
DEGRADED (R485). -/
def State.portTrained (s : State) (p : Nat) (narrow slow : Bool) (lat : Nat) : State :=
  let w := narrow || s.on PXL_PORT.WIDTH_MAX p
  let r := slow || s.on PXL_PORT.RATE_MAX p
  (s.wrs p [(PXL_PORT.WIDTH_ACT, b2n w), (PXL_PORT.RATE_ACT, b2n r), (PXL_PORT.LAT_NS, lat)]).portSet p (if w || r then 3 else 2)

/-- The port goes DOWN: mirrors of its peer are lost (R494, R501). -/
def State.portDown (s : State) (p : Nat) : State := (s.portSet p 5).mirrorsLost (peerOf s.dev p)

/-- PXL_TRAINING_DONE: training of port `p` ends: `ok` with the narrower width, the lower rate and a latency in ns, or not
within 100 ms. A port that is DOWN may train again. -/
def execPxlTrainingDone (p : Nat) (ok narrow slow : Bool) (lat : Nat) (s : State) : Host.Outcome State Fault Refusal :=
  .next (
    if p ≥ 2 then s
    else if s.rd PXL_PORT.STATE p = 1 ∨ (s.rd PXL_PORT.STATE p = 5 ∧ s.on PXL_PORT.EN p ∧ ok) then
      if ok then s.portTrained p narrow slow lat else s.portDown p
    else s)

/-! ### The manager role -/

/-- The role, the manager and the epoch change, with a ROLE record (R619). -/
def State.roleSet (s : State) (mgr epoch : Nat) : State :=
  let me := mgr == s.dev
  let s := s.wrs 0 [(PXL_STATUS.MANAGER_ID, mgr), (PXL_STATUS.EPOCH, epoch), (GLB_DEVNUM.MANAGER, b2n me)]
  let s := { s with mesh := { s.mesh with takeover := me && s.mesh.takeover } }
  s.ledger 0x17 1 (leBytes 1 (b2n me) ++ leBytes 7 0 ++ leBytes 8 epoch)

/-- The successor: the lowest-numbered device in EXPECT other than the manager (R497). -/
def State.isSuccessor (s : State) : Bool :=
  let m := s.rd PXL_STATUS.MANAGER_ID
  m != s.dev && ((bitList (s.rd PXL_CFG.EXPECT) 3).filter (· != m)).head? == some s.dev

/-- NO_QUORUM takes a value, with its event, routed input and EMCY (R497, R533, R600). -/
def State.noQuorum (s : State) (b : Bool) : State :=
  if b == s.on PXL_STATUS.NO_QUORUM then s
  else if b then
    ((((s.fl PXL_STATUS.NO_QUORUM 0 true).raise 0xE3).routeLevel 4 true)).emcy 0x8120 0xE3 s.lastInc
  else ((s.fl PXL_STATUS.NO_QUORUM 0 false).routeLevel 4 false).emcyClear

/-- A takeover (R498). -/
def State.takeOver (s : State) : State :=
  let old := s.rd PXL_STATUS.MANAGER_ID
  let e := s.rd PXL_STATUS.EPOCH + 1
  let s := s.wr PXL_STATUS.JOINED 0 (setBit (s.rd PXL_STATUS.JOINED) old false)
  let s := { s with mesh := { s.mesh with takeover := true, health := s.mesh.health.del old } }
  let s := (s.roleSet s.dev e).noQuorum false
  [0, 1].foldl (fun s p => if s.portOpen p then s.emit (.pxl p 8 [s.dev, e]) else s) s

/-- The successor sees whether it may take the role (R497): the manager is silent here, and with the devices that report it
silent they are a majority of EXPECT, or EXPECT holds two devices. -/
def State.roleCheck (s : State) : State :=
  let m := s.rd PXL_STATUS.MANAGER_ID
  if !s.isSuccessor then s
  else if !s.mesh.silent.contains m then s.noQuorum false
  else
    let n := popc (s.rd PXL_CFG.EXPECT) 3
    let k := ((bitList (s.rd PXL_CFG.EXPECT) 3).filter (fun d => d == s.dev || s.mesh.reports.contains (d, m))).length
    if n = 2 ∨ 2 * k > n then s.takeOver else s.noQuorum true

/-- IDENTITY_EXCHANGE: the identity of the peer on port `p` arrives: FAMILY, IFACE_REV, DEV_ID, the manager it knows and its
epoch (R486, R499). -/
def execIdentityExchange (p family rev devId mgr epoch : Nat) (s : State) : Host.Outcome State Fault Refusal :=
  .next (
    if !s.portOpen p then s
    else if family ≠ s.rd GLB_ID.FAMILY ∨ rev ≠ s.rd GLB_REV.IFACE_REV ∨ devId ≠ peerOf s.dev p ∨ devId > 2 ∨
        ¬ bit (s.rd PXL_CFG.EXPECT) devId then
      (s.portSet p 6).raise 0xE1
    else
      let s := (s.wr PXL_PORT.PEER p devId).wr PXL_STATUS.JOINED 0 (setBit (s.rd PXL_STATUS.JOINED) devId true)
      let s := { s with mesh := { s.mesh with
        hb := s.mesh.hb.put devId s.now, silent := s.mesh.silent.filter (· != devId),
        reports := s.mesh.reports.filter (fun r => r.1 != devId && r.2 != devId) } }
      let own := s.rd PXL_STATUS.EPOCH
      let s := if epoch > own ∨ (epoch = own ∧ mgr = devId ∧ (if s.on GLB_DEVNUM.MANAGER then devId < s.dev else true)) then
          if s.rd PXL_STATUS.MANAGER_ID = mgr ∧ own = epoch then s else s.roleSet mgr epoch
        else s
      (s.emit (.pxl p 10 [s.rd GLB_ID.FAMILY, s.rd GLB_REV.IFACE_REV, s.dev, s.rd GLB_UID_LO.UID, s.rd GLB_UID_HI.UID,
        s.rd PXL_STATUS.MANAGER_ID, s.rd PXL_STATUS.EPOCH])).roleCheck)

/-- HEARTBEAT_SEND: 100 µs after the last one, with role, epoch, tick number and recovery level (R496). -/
def execHeartbeatSend (s : State) : Host.Outcome State Fault Refusal :=
  .next (
    if (s.mesh.sent.map (fun t => decide (s.now < t + 100000))).getD false then s
    else
      let w := [s.rd GLB_DEVNUM.MANAGER, s.rd PXL_STATUS.EPOCH, s.rd FE_TICK_COUNT.COUNT, s.rd SAF_STATUS.LEVEL]
      { s with mesh := { s.mesh with sent := some s.now } }.tellPeers (fun _ => true) 5 w)

/-- A change in a peer's silence is kept and reported to every other peer (R496). -/
def State.silence (s : State) (d : Nat) (b : Bool) : State :=
  let l := s.mesh.silent.filter (· != d)
  ({ s with mesh := { s.mesh with silent := if b then d :: l else l } }.tellPeers (fun p => peerOf s.dev p != d) 6 [d, b2n b]).roleCheck

/-- HEARTBEAT_RECEIVE: a heartbeat of the peer on port `p` arrives (R496). -/
def execHeartbeatReceive (p : Nat) (s : State) : Host.Outcome State Fault Refusal :=
  .next (
    if !s.peerUp p then s
    else
      let d := peerOf s.dev p
      let s := { s with mesh := { s.mesh with hb := s.mesh.hb.put d s.now } }
      if s.mesh.silent.contains d then s.silence d false else s)

/-- HB_TIMEOUT: no heartbeat has arrived from device `d` for HB_TIMEOUT_US (R496); its mirrors are lost (R494). -/
def execHbTimeout (d : Nat) (s : State) : Host.Outcome State Fault Refusal :=
  .next (match s.mesh.hb.get? d with
    | none => s
    | some t =>
      if bit (s.rd PXL_STATUS.JOINED) d ∧ d ≠ s.dev ∧ ¬ s.mesh.silent.contains d ∧ t + s.rd PXL_CFG.HB_TIMEOUT_US * 1000 ≤ s.now then
        (s.mirrorsLost d).silence d true
      else s)

/-- SILENCE_REPORT: the peer on port `p` reports that device `d` is silent there, or no longer (R496, R497). -/
def execSilenceReport (p d : Nat) (silent : Bool) (s : State) : Host.Outcome State Fault Refusal :=
  .next (
    if !s.peerUp p ∨ d > 2 then s
    else
      let r := (peerOf s.dev p, d)
      let l := s.mesh.reports.filter (· != r)
      { s with mesh := { s.mesh with reports := if silent then r :: l else l } }.roleCheck)

/-- RESIGN: the manager, on port `p`, resigns; the successor takes the role (R497). -/
def execResign (p : Nat) (s : State) : Host.Outcome State Fault Refusal :=
  .next (if s.peerUp p ∧ s.rd PXL_STATUS.MANAGER_ID = peerOf s.dev p ∧ s.isSuccessor then s.takeOver else s)

/-- MANAGER_MESSAGE: the peer on port `p` has taken the role with a higher epoch (R498, R499). -/
def execManagerMessage (p epoch : Nat) (s : State) : Host.Outcome State Fault Refusal :=
  .next (
    if s.portOpen p ∧ epoch % 2 ^ 32 > s.rd PXL_STATUS.EPOCH then (s.roleSet (peerOf s.dev p) (epoch % 2 ^ 32)).noQuorum false
    else s)

/-! ### Traffic -/

/-- TICK_BROADCAST: the manager's broadcast of tick `n` arrives on port `p` (R495). -/
def execTickBroadcast (p n : Nat) (s : State) : Host.Outcome State Fault Refusal :=
  .next (if s.peerUp p ∧ s.rd PXL_STATUS.MANAGER_ID = peerOf s.dev p then s.extTick 4 (some n) else s)

/-- A local range of this device's HBM lies in the shared region (R74, R88). -/
def State.sharedMem (s : State) (off n : Nat) : Bool := n > 0 && off + n ≤ s.hbmBytes && s.pageOk 8 off n

/-- A shared Tally (R74). -/
def State.sharedTally (s : State) (t : Nat) : Bool := t < 8192 && (s.tallyOwner t).isNone

/-- The home device registers binding `i` of the device behind port `p` as a remote waiter of Tally `t`, and writes the
current value once (R493). A waiter that the empty pool cannot take polls (R138). -/
def State.remoteWait (s : State) (p i t : Nat) : State :=
  let who := Waiter.remote p i
  let s := s.dropWaits who
  let s := if s.rd TLY_POOL.FREE > 0 then
      let free := s.rd TLY_POOL.FREE - 1
      ((s.wr TLY_POOL.FREE 0 free).wr TLY_POOL.LOW_WATER 0 (min free (s.rd TLY_POOL.LOW_WATER))).pushWait
        { tally := t, target := poison, who := who, polling := false }
    else
      let s := (s.count TLY_FALLBACK.COUNT).pmu 0x71 0 8
      let s := if s.tly.emptyRaised then s else { s.raise 0x63 with tly := { s.tly with emptyRaised := true } }
      s.pushWait { tally := t, target := poison, who := who, polling := true }
  s.emit (.pxl p 12 [i, s.tval t])

/-- The atomic operations of R233's table. -/
def atomOps : List Atom :=
  [.add, .sub, .minS, .minU, .maxS, .maxU, .and, .or, .xor, .swap, .cas, .faddF32, .faddF64, .fminF32, .fmaxF32]

/-- An error response leaves on port `p`; a violation of R488 counts. -/
def State.answerErr (s : State) (p : Nat) (viol : Bool) : State :=
  (if viol then s.count PXL_PORT.VIOL p else s).emit (.pxl p 15 [1])

/-- An address group of an atomic applies its lanes' operands and new values in turn (R235). -/
def Atom.applyAll (op : Atom) (w : Nat) : Nat → List Nat → Nat
  | v, x :: y :: r => Atom.applyAll op w (op.apply w v (x % 2 ^ w) (y % 2 ^ w)) r
  | v, [x] => op.apply w v (x % 2 ^ w) 0
  | v, [] => v

/-- An atomic of the peer on port `p` runs in this device's slice (R234); the answer is what its first lane found. -/
def State.serveAtomic (s : State) (p pa n op : Nat) (data : List Nat) : State :=
  match atomOps.find? (·.code == op) with
  | none => s.answerErr p true
  | some o => match s.physRead pa n 0 with
    | (s, d, 0) =>
      match s.physWrite pa 0 (leBytes n (o.applyAll (8 * n) (ofBytes d) data)) with
      | (s, 0) => s.emit (.pxl p 15 (0 :: d.map (·.toNat)))
      | (s, _) => s.answerErr p false
    | (s, _, _) => s.answerErr p false

/-- A request of the peer on port `p` is served: kinds as Out.pxl's 1, 2, 3, 11 and 14, and 0 for an atomic. `a` is the local
offset (kinds 0 to 2), the Tally (3, 11); `n` bytes are read or changed, or `n` is the binding; `data` are the bytes written,
the value of an export signal, or operand and new value of each lane of the atomic, whose OP is `op`. -/
def State.serve (s : State) (p kind a n op : Nat) (data : List Nat) : State :=
  let pa := s.dev * 2 ^ 48 + a
  let tally : Bool := 0xFFFFFFF80000 ≤ a && a < 2 ^ 48
  let t := (a - 0xFFFFFFF80000) / 64
  let o := (a - 0xFFFFFFF80000) % 64
  if kind = 1 then
    if tally then
      if n ≠ 8 ∨ a % 8 ≠ 0 ∨ !s.sharedTally t then s.answerErr p true
      else s.emit (.pxl p 15 (0 :: (leBytes 8 (s.slotWord t o)).map (·.toNat)))
    else if !s.sharedMem a n then s.answerErr p true
    else match s.physRead pa n 0 with
      | (s, d, 0) => s.emit (.pxl p 15 (0 :: d.map (·.toNat)))
      | (s, _, _) => s.answerErr p false
  else if kind = 2 then
    let bs := data.map (BitVec.ofNat 8)
    if tally then
      if bs.length ≠ 8 ∨ o ≠ 8 ∨ !s.sharedTally t then s.answerErr p true
      else (s.signal t (ofBytes bs)).emit (.pxl p 15 [0])
    else if !s.sharedMem a bs.length then s.answerErr p true
    else match s.physWrite pa 0 bs with
      | (s, 0) => s.emit (.pxl p 15 [0])
      | (s, _) => s.answerErr p false
  else if kind = 3 then
    if !s.sharedTally a then s.answerErr p true else (s.signalChain 8192 a (data.headD 0 % 2 ^ 64) true).emit (.pxl p 15 [0])
  else if kind = 0 then
    if tally ∨ (n ≠ 4 ∧ n ≠ 8) ∨ a % n ≠ 0 ∨ !s.sharedMem a n then s.answerErr p true else s.serveAtomic p pa n op data
  else if kind = 11 then
    if !s.sharedTally a then (s.count PXL_PORT.VIOL p).emit (.pxl p 13 [n]) else s.remoteWait p n a
  else if kind = 14 then s.dropWaits (.remote p n)
  else s

/-- REMOTE_REQUEST: a request of the peer on port `p` arrives. A device in warm reset answers it with an error response
(R488, R493, R501). -/
def execRemoteRequest (p kind a n op : Nat) (data : List Nat) (s : State) : Host.Outcome State Fault Refusal :=
  .next (
    if !s.peerUp p then s
    else if s.on RST_STATUS.WARM_ACTIVE then s.answerErr p false
    else s.serve p kind a n op data)

/-- FORWARDED_SIGNAL: binding `i` receives its home Tally's value `v`, which acts as an export signal on the mirror (R493). -/
def execForwardedSignal (i v : Nat) (s : State) : Host.Outcome State Fault Refusal :=
  .next (
    if i < 256 ∧ s.on PXL_MIRROR.EN i ∧ s.rd PXL_MIRROR.STATE i = 1 ∧ s.peerUp (portTo s.dev (s.rd PXL_MIRROR.HOME_DEV i)) then
      s.signalChain 8192 (s.rd PXL_MIRROR.LOCAL_TALLY i) (v % 2 ^ 64) true
    else s)

/-- MIRROR_REFUSED: the home device refuses the registration of binding `i` (R503). -/
def execMirrorRefused (i : Nat) (s : State) : Host.Outcome State Fault Refusal :=
  .next (if i < 256 ∧ s.on PXL_MIRROR.EN i ∧ s.rd PXL_MIRROR.STATE i = 1 then s.mirrorLost i else s)

/-! ### Link errors -/

/-- The port loses its link and retrains (R500). -/
def State.retrain (s : State) (p : Nat) : State :=
  { ((s.count PXL_PORT.RETRAINS p).portSet p 4) with mesh := { s.mesh with replays := s.mesh.replays.del p } }

/-- FLIT_NAK: a flit on port `p` fails its CRC; `again` says that it is a flit whose replay has failed. The flit is replayed,
until REPLAY_LIMIT consecutive replays have failed (R500). -/
def execFlitNak (p : Nat) (again : Bool) (s : State) : Host.Outcome State Fault Refusal :=
  .next (
    if !s.portOpen p then s
    else
      let k := if again then (s.mesh.replays.get? p).getD 0 + 1 else 0
      if again ∧ k ≥ s.rd PXL_CFG.REPLAY_LIMIT then s.retrain p
      else { (s.count PXL_PORT.REPLAYS p) with mesh := { s.mesh with replays := s.mesh.replays.put p k } })

/-- LOSS_OF_LOCK: port `p` loses lock (R500). -/
def execLossOfLock (p : Nat) (s : State) : Host.Outcome State Fault Refusal :=
  .next (if s.portOpen p then s.retrain p else s)

/-- PXL_RETRAIN_DONE: retraining of port `p` ends, or fails (R500, R501). -/
def execPxlRetrainDone (p : Nat) (ok narrow slow : Bool) (lat : Nat) (s : State) : Host.Outcome State Fault Refusal :=
  .next (
    if p ≥ 2 ∨ s.rd PXL_PORT.STATE p ≠ 4 then s
    else if ok then s.portTrained p narrow slow lat
    else s.portDown p)

/-- REQ_TIMEOUT: a request of context `c`, from engine `eng`, to device `d` has no completion after REQ_TIMEOUT_US (R501). -/
def execReqTimeout (c eng d : Nat) (s : State) : Host.Outcome State Fault Refusal :=
  .next (
    if c < 1024 ∧ eng < 64 ∧ d < 3 ∧ d ≠ s.dev ∧ s.ctxActive c ∧ bit (s.rd PXL_STATUS.JOINED) d then
      (s.reqErr d).ctxFault c 0xA1 0 eng
    else s)

/-! ### Health words (R540) -/

/-- This device's health word. -/
def State.healthWord (s : State) : Nat :=
  1 + s.rd SAF_STATUS.FAULT * 2 + s.rd SAF_STATUS.DEGRADED * 4 + s.rd SAF_STATUS.LEVEL * 8 + s.rd ASY_STATUS.EOL * 64

/-- HEALTH_WORD: device `d`'s word `w` arrives at the manager; for this device itself, its own word is kept by the manager or
sent to it. -/
def execHealthWord (d w : Nat) (s : State) : Host.Outcome State Fault Refusal :=
  .next (
    if d > 2 ∨ ¬ bit (s.rd PXL_STATUS.JOINED) d then s
    else if d = s.dev then
      if (s.mesh.told.map (fun t => decide (s.now < t + 10000000))).getD false then s else
      let s := { s with mesh := { s.mesh with told := some s.now } }
      if s.on GLB_DEVNUM.MANAGER then { s with mesh := { s.mesh with health := s.mesh.health.put d s.healthWord } }
      else s.tellPeers (fun p => peerOf s.dev p == s.rd PXL_STATUS.MANAGER_ID) 9 [s.healthWord]
    else if s.on GLB_DEVNUM.MANAGER ∧ s.peerUp (portTo s.dev d) then
      { s with mesh := { s.mesh with health := s.mesh.health.put d (w % 2 ^ 32) } }
    else s)

end Sys2Proof.Machine
end

