-- ==== Sys2Proof/Machine/Recovery.lean ====
section
/-! DEFINITION. Fault detection and the safe-state request: core patrol, fabric check, lockstep, watchdogs, the overrun condition
and SAFE_REQ_N (R594 to R601). -/

namespace Sys2Proof.Machine

/-- CORE_PATROL: core `k` of cluster `c` runs its patrol sequence; `fail` is the comparison of its signature. A mismatch asks for
the cluster's self-test (R594, R606). -/
def execCorePatrol (c k : Nat) (fail : Bool) (s : State) : Host.Outcome State Fault Refusal :=
  .next (if fail ∧ k < 4 ∧ c < 48 ∧ s.coreUp c k then s.askTest 0 c 6 0 else s)

/-- An incident of level L0 in shared logic goes to L3 with its own number, or joins the recoveries that run (R594, R604). -/
def State.retryToL3 (s : State) (n : Nat) : State :=
  let s := { s with saf := { s.saf with l0 := s.saf.l0.filter (fun p => p.1 != n) } }.fl SAF_STATUS.SHARED 0 true
  if s.on SAF_INC.OPEN 2 ∨ ¬ s.incRunning.isEmpty then (s.incident 4 9 6).2
  else
    let s := ((s.count SAF_CTR.ESCALATIONS).incOpenSlot 2 n 4 9 6 s.now).incRec n 1 4 9 6
    (s.incWant 4 9).safUpdate

/-- FABRIC_CRC_ERROR: a network transfer fails its CRC and is replayed once; `again` says that the replay fails too, which
starts L3, whose reset skips the L2's clean (R594, R483). -/
def execFabricCrcError (again : Bool) (s : State) : Host.Outcome State Fault Refusal :=
  let (n, s) := s.incident 1 8 6
  .next (if again then { s.retryToL3 n with saf := { (s.retryToL3 n).saf with noClean := true } } else s.incDone n)

/-- LOCKSTEP_ERROR: the pair of Foreman A, or of Foreman B (`b`), disagrees: L3, or L4 (R594). -/
def execLockstepError (b : Bool) (s : State) : Host.Outcome State Fault Refusal :=
  let s := if b then s else (s.fl SAF_STATUS.LOCKSTEP 0 true).fl SAF_STATUS.SHARED 0 true
  let (n, s) := s.incident (if b then 5 else 4) 9 6
  .next ((s.monRec n 6 none none true).safUpdate)

/-! ### Watchdogs (R595) -/

/-- A watchdog's unit and its contexts: the contexts with work on it fault with WATCHDOG, its block is reset, where
other contexts that R577 finds there fault with BLOCK_RESET, and it is tested. `typ` and `unit` as RST_BLOCK. -/
def State.wdogUnit (s : State) (typ unit owner : Nat) (cs : List Nat) : State :=
  let (n, s) := s.incident 2 owner 6
  let s := s.monRec n 6 (some unit) none false
  let s := cs.foldl (fun s c => s.ctxFault c 0xD0 n (unitEng typ unit)) s
  s.startReset { typ := typ, unit := unit, since := s.now, inc := n, test := true, trigger := 6 }

/-- A watchdog of shared logic: `lvl` 4 for L3, 5 for L4. -/
def State.wdogShared (s : State) (lvl : Nat) : State :=
  let s := if lvl = 4 then s.fl SAF_STATUS.SHARED 0 true else s
  let (n, s) := s.incident lvl 9 6
  s.monRec n 6 none none false

/-- WATCHDOG_FIRE: a watchdog sees no progress for 1 ms. `kind` 0 core issue, 1 Loom, 2 RTU, 3 Press engine, 4 fetcher, 5 memory
controller, 6 Foreman A, 7 Foreman B; `unit` is the cluster, Loom, RTU or engine. -/
def execWatchdogFire (kind unit : Nat) (s : State) : Host.Outcome State Fault Refusal :=
  let w := s.fl SAF_STATUS.WDOG 0 true
  .next (
    if kind = 0 then
      if s.present 1 unit ∧ s.sh.grps.any (fun p => clusterOf p.1 == unit) then
        (w.wdogUnit 1 unit (s.incOwner FE_PART.CLUSTERS unit) (s.unitCtxs 1 unit 0)).safUpdate
      else s
    else if kind = 1 then
      if s.present 3 unit ∧ s.on LOOM_STATUS.BUSY unit ∧ ¬ s.on LOOM_STATUS.WAITING unit then
        (w.wdogUnit 2 unit (s.incOwner FE_PART.LOOMS unit) (s.unitCtxs 2 unit 0)).safUpdate
      else s
    else if kind = 2 then
      if s.present 2 unit ∧ s.crd.batches.any (fun b => b.2.rtu == some unit) then
        (w.wdogUnit 1 unit (s.incOwner FE_PART.CLUSTERS unit) []).safUpdate
      else s
    else if kind = 3 then
      if s.present 8 unit ∧ ¬ s.prsCtxs.isEmpty then (w.wdogUnit 3 unit 8 s.prsCtxs).safUpdate else s
    else if kind ≤ 5 then (w.wdogShared 4).safUpdate
    else if kind = 6 then (w.wdogShared 4).safUpdate
    else if kind = 7 then (w.wdogShared 5).safUpdate
    else s)

/-- RECOVERY_OVERRUN: the recovery in slot `k` still runs 1 ms after its incident was detected (R599). -/
def execRecoveryOverrun (k : Nat) (s : State) : Host.Outcome State Fault Refusal :=
  .next (
    let n := s.rd SAF_INC.INCIDENT k
    if k < 2 ∧ s.on SAF_INC.OPEN k ∧ s.rd SAF_INC.DETECT_TIME k + 1000000 ≤ s.now ∧ ¬ s.saf.overrun.contains n then
      { s with saf := { s.saf with overrun := n :: s.saf.overrun } }.safUpdate
    else s)

/-- CAP_GEN_READ: the read ends the SHRUNK condition (R70, R599). -/
def execCapGenRead (s : State) : Host.Outcome State Fault Refusal :=
  .next { s with rdata := s.cap.gen, saf := { s.saf with shrunk := false } }.safUpdate

/-! ### SAFE_REQ_N (R601) -/

/-- SAFE_REQ_ASSERT: the pin has been low for 10 µs. A request during a reset or before the device is enabled waits, but RESET
merges with a warm reset that runs. -/
def execSafeReqAssert (s : State) : Host.Outcome State Fault Refusal :=
  .next (
    if s.on SAF_STATUS.SAFE_REQ ∨ s.boot.por then s
    else
      let s := s.fl SAF_STATUS.SAFE_REQ 0 true
      if ¬ s.on RST_BOOT_CTL.ENABLED ∨ (s.on RST_STATUS.WARM_ACTIVE ∧ s.rd SAF_CFG.SAFE_ACTION ≠ 3) then
        { s with saf := { s.saf with safeWait := true } }.safUpdate
      else s.safeApply)

/-- SAFE_REQ_RELEASE: the pin has been high for 10 µs: HOLD and the assertion of FAULT_N by the request end. -/
def execSafeReqRelease (s : State) : Host.Outcome State Fault Refusal :=
  .next (
    if ¬ s.on SAF_STATUS.SAFE_REQ then s
    else
      let s := s.fl SAF_STATUS.SAFE_REQ 0 false
      let s := { s with saf := { s.saf with safeWait := false, hold := false, causes := s.saf.causes.filter (· != 4) } }
      let s := s.ledger 0x18 3 (leBytes 1 0 ++ leBytes 1 (s.rd SAF_CFG.SAFE_ACTION) ++ leBytes 6 0 ++ leBytes 8 0)
      ([0, 1, 2, 3, 4].foldl State.feSync s).safUpdate)

end Sys2Proof.Machine
end

