-- ==== Sys2Proof/Machine/Commit.lean ====
section
/-! DEFINITION. COMMIT and DISCARD of a block (R10 to R12, R71, R72): the consistency rules of each chapter over the shadow set,
and what applying the shadows brings about. -/

namespace Sys2Proof.Machine

/-! ### Shadow sets -/

/-- The block whose COMMIT applies a key's shadow; a pipe's fields have the pipe's own commit. -/
def commitBlk (k : Nat × Nat) : Option Blk := if (pipeOfKey k).isSome then none else (fldOf k.1).map (fun F => F.blk k.2)

/-- Fields that a commit releases to the next tick start (R435). -/
def isTickFld (n : Nat) : Bool := (FE_TICK_CFG.fields ++ FE_TICK_OUT.fields).any (·.fid == n)

/-- The last committed value behind a key: released to a tick or frame start, or in force. -/
def State.lastOf (s : State) (k : Nat × Nat) : Nat :=
  let cur := match fldOf k.1 with
    | some F => s.rd F k.2
    | none => 0
  match pipeOfKey k with
  | some p => (RMap.get? (s.pipe p).rel k).getD cur
  | none => (s.tick.rel.get? k).getD cur

/-- What software sees behind a key (R10). -/
def State.seen (s : State) (k : Nat × Nat) : Nat := match fldOf k.1 with
  | some F => s.rdSh F k.2
  | none => 0

/-- Every key of a block whose shadow or released value may differ from the value in force. -/
def State.blkKeys (s : State) (b : Blk) : List (Nat × Nat) :=
  ((s.shadows.map (·.1)).filter (fun k => commitBlk k == some b) ++ (if b = .fe then (s.tick.rel.map (·.1)).filter (fun k => isTickFld k.1) else [])).eraseDups

/-- The keys of a block whose shadow differs from the committed value. -/
def State.changed (s : State) (b : Blk) : List (Nat × Nat) := (s.blkKeys b).filter (fun k => s.seen k != s.lastOf k)

/-- PENDING of a block's CFG_STATUS; the Glazier's pipes and gamma entries count for its window. -/
def State.pendingBit (s : State) (b : Blk) : Bool :=
  !(s.changed b).isEmpty || (b == .glz &&
    ((s.shadows.map (·.1)).any (fun k => (pipeOfKey k).isSome && s.seen k != s.lastOf k) ||
     s.glz.lutSh.any (fun e => ((NMap.get? (s.pipe (e.1 / 3072)).relLut e.1).getD (s.lut e.1)) != e.2)))

/-- The state as if every shadow of the keys were in force. -/
def State.withKeys (s : State) (ks : List (Nat × Nat)) : State :=
  ks.foldl (fun s k => match fldOf k.1 with
    | some F => s.wr F k.2 (s.rdSh F k.2)
    | none => s) s

/-- The instances of some fields among keys. -/
def keyInsts (ks : List (Nat × Nat)) (fs : List Fld) : List Nat :=
  ((ks.filter (fun k => fs.any (·.fid == k.1))).map (·.2)).eraseDups

/-- Some field is among keys. -/
def hasFld (ks : List (Nat × Nat)) (fs : List Fld) : Bool := ks.any (fun k => fs.any (·.fid == k.1))

/-! ### Carve-outs -/

/-- Contexts of partition `p` that are not FREE: CTX_ACTIVE of FE_PART. -/
def State.ctxCount (s : State) (p : Nat) : Nat :=
  (s.regs.filter (fun e => e.1.1 == FE_CTX.STATE.fid && e.2 != 0 && s.partOf e.1.2 == p)).length

/-- The enabled partitions. -/
def State.partsOn (s : State) : List Nat := (List.range 8).filter (fun p => s.on FE_PART.EN p)

/-- The HBM ranges of partition `p` in bytes, the empty ones left out. -/
def State.partRanges (s : State) (p : Nat) : List (Nat × Nat) :=
  ((List.range 4).map (fun k =>
    (s.rd FE_PART.HBM_BASE (4 * p + k) * unit2M, (s.rd FE_PART.HBM_BASE (4 * p + k) + s.rd FE_PART.HBM_SIZE (4 * p + k)) * unit2M))).filter
    (fun r => r.1 < r.2)

/-- `[lo, hi)` lies in the union of ranges. -/
def covered (rs : List (Nat × Nat)) : (fuel : Nat) → (lo hi : Nat) → Bool
  | 0, lo, hi => hi ≤ lo
  | f + 1, lo, hi => hi ≤ lo || match rs.find? (fun r => r.1 ≤ lo && lo < r.2) with
    | some r => covered rs f r.2 hi
    | none => false

/-- `n` bytes at physical address `pa` lie in local HBM inside the ranges of partition `p`. -/
def State.inPart (s : State) (p pa n : Nat) : Bool :=
  bits pa 48 2 == s.dev && covered (s.partRanges p) 4 (bits pa 0 48) (bits pa 0 48 + n)

/-- No two members of a list are related. -/
def noPair {α : Type} (bad : α → α → Bool) : List α → Bool
  | [] => true
  | x :: r => r.all (fun y => !bad x y) && noPair bad r

/-- Two ranges share a member; an empty range shares none. -/
def meets (a b : Nat × Nat) : Bool := max a.1 b.1 < min a.2 b.2

/-- R77 and R80, beside what the commit changes: the partitions of `t`. -/
def State.partsOk (t : State) : Bool :=
  let ps := t.partsOn
  let tl (p : Nat) : Nat × Nat := (t.rd FE_PART.TLY_BASE p, t.rd FE_PART.TLY_BASE p + t.rd FE_PART.TLY_COUNT p)
  let apart (F : Fld) : Bool := noPair (fun p q => t.rd F p &&& t.rd F q != 0) ps
  [FE_PART.CLUSTERS, FE_PART.LOOMS, FE_PART.PIPES, FE_PART.L2_WAYS].all apart && noPair (fun p q => meets (tl p) (tl q)) ps &&
  noPair meets (ps.flatMap t.partRanges) &&
  ps.all (fun p => (t.partRanges p).all (fun r => r.2 ≤ 96 * 2 ^ 30 && r.2 ≤ t.hbmBytes)) &&
  t.freeWays != 0 && ps.foldl (fun n p => n + t.rd FE_PART.CRD_QUOTA p) 0 ≤ 256 &&
  ps.all (fun p => (bitList (t.rd FE_PART.CLUSTERS p) 48).all (t.present 1) && (bitList (t.rd FE_PART.LOOMS p) 12).all (t.present 3) &&
    (bitList (t.rd FE_PART.PIPES p) 4).all (t.present 5) && (tl p).2 ≤ 128)

/-- The partitions that a key concerns. -/
def partKeys (ks : List (Nat × Nat)) : List Nat :=
  (ks.filter (fun k => FE_PART.fields.any (·.fid == k.1))).map
    (fun k => if k.1 = FE_PART.HBM_BASE.fid ∨ k.1 = FE_PART.HBM_SIZE.fid then k.2 / 4 else k.2)

/-! ### The rules of each block over its shadow set: `s` before, `t` with every shadow in force, `ks` the changes -/

/-- R53. -/
def glbOk (s t : State) (ks : List (Nat × Nat)) : Bool :=
  let rng (s : State) (n : Nat) : Nat × Nat := (s.rd GLB_VF_MAP.CTX_BASE n, s.rd GLB_VF_MAP.CTX_BASE n + s.rd GLB_VF_MAP.CTX_COUNT n)
  let used := (List.range 64).filter (fun n => 1 ≤ n && (rng t n).1 < (rng t n).2)
  let inR (r : Nat × Nat) (c : Nat) : Bool := r.1 ≤ c && c < r.2
  let live (c : Nat) : Bool := s.regs.any (fun e => e.1.1 == FE_Q.EN.fid && e.2 == 1 && s.rd FE_Q.CTX e.1.2 == c)
  (keyInsts ks GLB_VF_MAP.fields).all (fun n => (rng t n).2 ≤ 1024 && t.rd GLB_VF_MAP.CTX_COUNT n ≤ 256 &&
    (List.range 1024).all (fun c => inR (rng s n) c == inR (rng t n) c || !live c)) &&
  noPair (fun a b => meets (rng t a) (rng t b)) used

/-- R99. The ranges of a disabled partition are ignored (R78), so that a heap committed for one lies in none of them. -/
def heapsOk (t : State) (ks : List (Nat × Nat)) : Bool :=
  (keyInsts ks FE_CHN.fields).all (fun p => t.ctxCount p == 0) &&
  (t.partsOn ++ keyInsts ks FE_CHN.fields).all (fun p =>
    let n := t.rd FE_CHN.HEAP_BLOCKS p
    let r := t.rd FE_CHN.RETIRE_TALLY p
    n == 0 || (t.on FE_PART.EN p && t.inPart p (t.rd FE_CHN.HEAP_PA p * 0x10000) (n * 0x10000) && t.rd FE_PART.TLY_BASE p * 64 ≤ r &&
      r < (t.rd FE_PART.TLY_BASE p + t.rd FE_PART.TLY_COUNT p) * 64))

/-- R106, of queue `q`. -/
def queueOk (s t : State) (q : Nat) : Bool :=
  let l := t.rd FE_Q.LOG2_SIZE q
  s.rd FE_Q.STATE q == 0 && t.rd FE_Q.CLASS q ≤ 4 && 4 ≤ l && l ≤ 16 && t.rd FE_Q.RPTR_INIT q < 2 ^ l && t.rd FE_Q.TSLICE q != 0 &&
  t.rd FE_Q.SEQ_INIT q != 0 && t.rd FE_Q.SEQ_INIT q != poison &&
  (s.funcOf (t.rd FE_Q.CTX q) == 0 || t.rd FE_Q.VECTOR q < 32) &&
  (t.rd FE_Q.CLASS q != 4 || (List.range 4).any (t.present 5))

/-- R155, of Pattern slot `n`. -/
def patOk (s t : State) (n : Nat) : Bool :=
  let r := t.rd FE_PAT.RET_TALLY n
  s.rd FE_PAT.INUSE n ≤ 1 && !s.pats.launches.any (fun p => p.2.pat == n) && t.tallyOk (t.partOf (t.rd FE_PAT.CTX n)) r &&
  (s.on FE_PAT.EN n || !t.on FE_PAT.EN n || s.tval r < poison - 1)

/-- R459, of an enabled Realtime entry. -/
def rtOk (t : State) (q : Nat) : Bool :=
  let p := t.partOf (t.rd FE_Q.CTX q)
  let d := t.rd FE_RT.DEADLINE_US q
  let b := t.rd FE_RT.BUDGET_US q
  let c := t.rd FE_RT.RT_CLUSTERS q
  let l := t.rd FE_RT.RT_LOOMS q
  let own (F : Fld) : Nat := if t.partOn p then t.rd F p else 0
  d != 0 && d ≤ t.rd FE_TICK_CFG.PERIOD_US && b != 0 && b < d && (c != 0 || l != 0) &&
  c &&& own FE_PART.CLUSTERS == c && l &&& own FE_PART.LOOMS == l

/-- R459. -/
def tickOk (s t : State) (ks : List (Nat × Nat)) : Bool :=
  let src := t.rd FE_TICK_CFG.SRC
  let per := t.rd FE_TICK_CFG.PERIOD_US
  src ≤ 4 && (src != 3 || t.present 5 (t.rd FE_TICK_CFG.PIPE)) &&
  (src != 4 || (!s.on GLB_DEVNUM.MANAGER && s.rd PXL_STATUS.JOINED != 2 ^ s.dev)) &&
  1000 ≤ per && per ≤ 200000 && 4 * t.rd FE_TICK_CFG.TOL_US ≤ per && t.rd FE_TICK_OUT.OFFSET_US < per &&
  t.rd FE_TICK_OUT.WIDTH_US != 0 &&
  ((t.regs.filter (fun e => e.1.1 == FE_RT.EN.fid && e.2 == 1)).map (fun e => e.1.2)).all (rtOk t) &&
  (keyInsts ks FE_RT.fields).all (fun q => s.rd FE_Q.STATE q == 0) &&
  (List.range 8).all (fun p => t.rd FE_BUDGET.GFX_STOP_US p != 0 &&
    (s.rd FE_BUDGET.YSAVE_PA p == t.rd FE_BUDGET.YSAVE_PA p || !s.on FE_BUDGET.YSAVE_HELD p)) &&
  t.partsOn.all (fun p =>
    (!t.on FE_BUDGET.LOOM_PREEMPT p || (bitList (t.rd FE_PART.LOOMS p) 12).all (fun n => t.rd LOOM_SAVE.SAVE_PA n != 0)) &&
    (t.rd FE_BUDGET.YSAVE_PA p == 0 ||
      t.inPart p (t.rd FE_BUDGET.YSAVE_PA p * 0x1000) (unit2M * popc (t.rd FE_PART.CLUSTERS p) 48)))

/-- The rules of FE_COMMIT: R77, R80, R93, R99, R106, R155, R459. -/
def feOk (s t : State) (ks : List (Nat × Nat)) : Bool :=
  t.partsOk &&
  (partKeys ks).all (fun p => s.ctxCount p == 0 && !s.on FE_PART.CLEARING p) &&
  (List.range 8).all (fun p => !s.on FE_PART.EN p || t.on FE_PART.EN p || s.rd CRD_POOL.IN_STORE p == 0) &&
  (!hasFld ks FE_CLAIM.fields || s.claimOk (fun F => t.rd F)) && heapsOk t ks &&
  (keyInsts ks FE_Q.fields).all (queueOk s t) && (keyInsts ks FE_PAT.fields).all (patOk s t) && tickOk s t ks

/-- R147; a binding is checked when a commit changes it (R51). -/
def tlyOk (s t : State) (ks : List (Nat × Nat)) : Bool :=
  t.rd TLY_INIT.VALUE != poison &&
  (keyInsts ks TLY_EXP.fields).all (fun i => !t.on TLY_EXP.EN i ||
    (t.rd TLY_EXP.PA i * 8 != s.dev * 2 ^ 48 + 0xFFFFFFF80000 + 64 * i + 8 &&
     (!t.on TLY_EXP.MSI_EN i || (s.lentTo (t.rd TLY_EXP.VECTOR i)).isNone)))

/-- The rules on MMU_INV_REQ and MMU_PTE_WR, each over a set that the commit changes. -/
def mmuOk (s t : State) (ks : List (Nat × Nat)) : Bool :=
  (!hasFld ks MMU_INV_REQ.fields ||
    ((t.rd MMU_INV_REQ.SCOPE != 0 || (t.rd MMU_INV_REQ.PAGES != 0 && t.rd MMU_INV_REQ.VA_BASE + t.rd MMU_INV_REQ.PAGES ≤ 2 ^ 36)) &&
     (!t.on MMU_INV_REQ.TALLY_EN || (!s.poisoned (t.rd MMU_INV_REQ.TALLY) && t.rd MMU_INV_REQ.VALUE != poison)))) &&
  (!hasFld ks MMU_PTE_WR.fields || t.rd MMU_PTE_WR.PA * 8 < s.hbmBytes)

/-- The rules on LOOM_SAVE and LOOM_CHK_CFG of Loom `n` (R307). -/
def loomOk (s t : State) (n : Nat) : Bool :=
  let pa := t.rd LOOM_SAVE.SAVE_PA n * 0x1000
  let rng (F : Fld) (lo hi : Nat) : Bool := lo ≤ t.rd F n && t.rd F n ≤ hi
  !s.on LOOM_STATUS.BUSY n && !s.on LOOM_STATUS.SAVED n &&
  rng LOOM_CHK_CFG.THETA_C 8 13 && rng LOOM_CHK_CFG.THETA_W 16 23 && rng LOOM_CHK_CFG.THETA_R 18 23 &&
  match s.ownerOf FE_PART.LOOMS n with
  | none => pa == 0
  | some p => if pa = 0 then !s.on FE_BUDGET.LOOM_PREEMPT p else s.inPart p pa 0x501000

/-- The rules on CRD_CFG and CRD_POOL. -/
def crdOk (s t : State) (ks : List (Nat × Nat)) : Bool :=
  1 ≤ t.rd CRD_CFG.BATCH_US && t.rd CRD_CFG.BATCH_US ≤ 1000 && t.rd CRD_CFG.DUP_LOG2 ≤ 10 &&
  (keyInsts ks CRD_POOL.fields).all (fun p => s.rd CRD_POOL.POOLED p == 0 && s.rd CRD_POOL.IN_STORE p == 0 &&
    (t.rd CRD_POOL.SIZE p == 0 || (s.partOn p && s.inPart p (t.rd CRD_POOL.PA p * unit2M) (t.rd CRD_POOL.SIZE p * unit2M))))

/-- The rules of GLZ_COMMIT on its transmitters. A port partner has trained once LANES_ACT and RATE_ACT stand in STATE UP. -/
def glzOk (s t : State) (ks : List (Nat × Nat)) : Bool :=
  let drives (out : List Nat) : Bool := (List.range 4).any (fun p => s.on GLZ_PIPE.EN p && out.contains (s.rd GLZ_PIPE.OUT p))
  let chg (o : Nat) (fs : List Fld) : Bool := ks.any (fun k => k.2 == o && fs.any (·.fid == k.1))
  [0, 1].all (fun o =>
    (t.rd GLZ_DP.RATE o ≤ 3 || !chg o [GLZ_DP.RATE] || s.rd GLZ_DP.STATE o == 2) &&
    1 ≤ t.rd GLZ_APHY.GEAR o && t.rd GLZ_APHY.GEAR o ≤ 5 &&
    !(chg o [GLZ_DP.EN, GLZ_DP.RATE, GLZ_DP.LANES, GLZ_DP.MST] && drives [1 + 2 * o, 2 + 2 * o]) &&
    !(chg o [GLZ_APHY.EN, GLZ_APHY.GEAR] && drives [5 + o]))

/-- The rules on L2_MAINT. -/
def l2Ok (s t : State) : Bool :=
  let sc := t.rd L2_MAINT.SCOPE
  let d := t.rd L2_MAINT.PA / 2 ^ 41
  t.rd L2_MAINT.OP != 3 && sc != 3 &&
  (sc != 0 || (t.rd L2_MAINT.LINES != 0 && (d == s.dev || d == 3))) &&
  (sc != 1 || (t.rd L2_MAINT.WAYS != 0 && (t.rd L2_MAINT.SLICE ≤ 47 || t.rd L2_MAINT.SLICE == 0xFF) &&
    t.rd L2_MAINT.SET_BASE ≤ t.rd L2_MAINT.SET_LAST)) &&
  (!t.on L2_MAINT.TALLY_EN || (!s.poisoned (t.rd L2_MAINT.TALLY) && t.rd L2_MAINT.VALUE != poison))

/-- R503. -/
def pxlOk (s t : State) (ks : List (Nat × Nat)) : Bool :=
  let rng (F : Fld) (lo hi : Nat) : Bool := lo ≤ t.rd F && t.rd F ≤ hi
  let on := ((t.regs.filter (fun e => e.1.1 == PXL_MIRROR.EN.fid && e.2 == 1)).map (fun e => e.1.2))
  bit (t.rd PXL_CFG.EXPECT) s.dev && rng PXL_CFG.HB_TIMEOUT_US 200 10000 && rng PXL_CFG.REQ_TIMEOUT_US 100 10000 &&
  rng PXL_CFG.TAKEOVER_SRC 0 3 && rng PXL_CFG.REPLAY_LIMIT 1 7 &&
  (t.rd PXL_CFG.TAKEOVER_SRC != 3 || s.present 5 (t.rd PXL_CFG.TAKEOVER_PIPE)) &&
  (keyInsts ks PXL_PORT.fields).all (fun p => !([2, 3, 4].contains (s.rd PXL_PORT.STATE p))) &&
  on.all (fun i => t.rd PXL_MIRROR.HOME_DEV i != s.dev && bit (t.rd PXL_CFG.EXPECT) (t.rd PXL_MIRROR.HOME_DEV i) &&
    s.sharedTally (t.rd PXL_MIRROR.LOCAL_TALLY i)) &&
  noPair (fun i j => t.rd PXL_MIRROR.LOCAL_TALLY i == t.rd PXL_MIRROR.LOCAL_TALLY j) on &&
  (keyInsts ks PXL_MIRROR.fields).all (fun i => s.rd PXL_MIRROR.STATE i != 1 ||
    (!t.on PXL_MIRROR.EN i && keyInsts (ks.filter (fun k => k.2 == i)) [PXL_MIRROR.HOME_DEV, PXL_MIRROR.HOME_TALLY, PXL_MIRROR.LOCAL_TALLY] == []))

/-- The rules on INTC_TGT; a lent vector is refused to a new binding (R51). -/
def intcOk (s t : State) (ks : List (Nat × Nat)) : Bool :=
  noPair (fun i j => t.rd INTC_TGT.VECTOR i == t.rd INTC_TGT.VECTOR j) ((List.range 64).filter (fun i => t.on INTC_TGT.EN i)) &&
  (keyInsts ks INTC_TGT.fields).all (fun i => !t.on INTC_TGT.EN i || (s.lentTo (t.rd INTC_TGT.VECTOR i)).isNone)

/-- The class of a PMU event's units (R644): 0 for none; none for a reserved code. -/
def pmuClass (e : Nat) : Option Nat :=
  if 1 ≤ e ∧ e ≤ 8 then some 1 else if 0x10 ≤ e ∧ e ≤ 0x12 then some 3 else if 0x20 ≤ e ∧ e ≤ 0x22 then some 2
  else if 0x30 ≤ e ∧ e ≤ 0x32 then some 0xB else if 0x40 ≤ e ∧ e ≤ 0x42 then some 0xA else if e = 0x50 ∨ e = 0x51 then some 9
  else if e = 0x60 ∨ e = 0x61 ∨ e = 0x70 ∨ e = 0x71 then some 0 else if e = 0x80 ∨ e = 0x81 then some 4
  else if e = 0x90 ∨ e = 0x91 then some 8 else none

/-- R648. The ring is checked while TRACE_EN is 1, and a counter unless it is off with no event selected: the reset values
break no rule. -/
def dbgOk (s t : State) : Bool :=
  let pa := t.rd DBG_TRACE.TRACE_PA * 0x1000
  let l := t.rd DBG_TRACE.LOG2_SIZE
  let lo := bits pa 0 48
  let r : Nat × Nat := (lo, lo + 2 ^ l)
  let fw := s.rd RST_BOOT_FW.FW_PA * 0x4000000
  12 ≤ l && l ≤ 30 &&
  (!t.on DBG_TRACE.TRACE_EN || (bits pa 48 2 == s.dev && r.2 ≤ s.hbmBytes &&
    (s.partsOn.flatMap s.partRanges).all (fun x => !meets r x) && !meets r (fw, fw + 0x4000000))) &&
  (List.range 4).all (fun i => t.rd DBG_WP.LOG2_LEN i ≤ 12 && t.rd DBG_WP.VA i % 2 ^ t.rd DBG_WP.LOG2_LEN i == 0) &&
  (List.range 16).all (fun k =>
    let e := t.rd PMU_CNT.EVENT k
    let u := t.rd PMU_CNT.UNIT k
    (e == 0 && !t.on PMU_CNT.EN k) || match pmuClass e with
      | none => false
      | some c => u == 0x3F || (c != 0 && s.present c u))

/-- The rules that a block's shadow set keeps (R71). -/
def commitRules (b : Blk) (s t : State) (ks : List (Nat × Nat)) : Bool :=
  match b with
  | .glb => glbOk s t ks
  | .fe => feOk s t ks
  | .tly => tlyOk s t ks
  | .mmu => mmuOk s t ks
  | .loom n => loomOk s t n
  | .crd => crdOk s t ks
  | .glz => glzOk s t ks
  | .prs => 1 ≤ t.rd PRS_CFG.DEF_LOG2_RATIO && t.rd PRS_CFG.DEF_LOG2_RATIO ≤ 20
  | .mc => 1 ≤ t.rd MC_SCRUB_CFG.INTERVAL_H && t.rd MC_SCRUB_CFG.INTERVAL_H ≤ 168
  | .l2 => l2Ok s t
  | .pxl => pxlOk s t ks
  | .intc => intcOk s t ks
  | .rst => 1 ≤ t.rd RST_CFG.IDLE_US && t.rd RST_CFG.IDLE_US ≤ 10000 && 150 ≤ t.rd PWR_ENVELOPE.WATTS && t.rd PWR_ENVELOPE.WATTS ≤ 300
  | .saf => (List.range 9).all (fun i => t.routeAct i != 3) && t.on ASY_CFG.CORR_LIMIT && 5 ≤ t.rd ASY_CFG.EOL_MARGIN_MV &&
      t.rd ASY_CFG.EOL_MARGIN_MV ≤ 100
  | .ldg => 1 ≤ t.rd LDG_CFG.FREEZE_MS && t.rd LDG_CFG.FREEZE_MS ≤ 1000 && 1 ≤ t.rd LDG_CFG.MIRROR_HOLD_MS &&
      t.rd LDG_CFG.MIRROR_HOLD_MS ≤ 10000
  | .dbg => dbgOk s t
  | .scl _ | .odm => true

/-! ### What an applied commit brings about -/

/-- Insert a number into a strictly rising list. -/
def insertNew (v : Nat) (l : List Nat) : List Nat := if l.contains v then l else insertAsc v l

/-- The ranges of HBM whose owner changes, each with the partitions concerned (R79). -/
def hbmMoves (s t : State) : List (Nat × Nat × List Nat) :=
  let ends := ((s.partsOn.flatMap s.partRanges ++ t.partsOn.flatMap t.partRanges).flatMap (fun r => [r.1, r.2])).foldl
    (fun l v => insertNew v l) []
  (ends.zip (ends.drop 1)).filterMap (fun r =>
    let a := s.hbmOwner r.1
    let b := t.hbmOwner r.1
    if a = b then none else some (r.1, r.2, a.toList ++ b.toList))

/-- Units of a mask field whose owner changes. -/
def unitMoves (F : Fld) (n : Nat) (s t : State) : List Nat := (List.range n).filter (fun u => s.ownerOf F u != t.ownerOf F u)

/-- A Loom changes owner: its memories are zeroed and no context owns it (R79, R94). -/
def State.loomZero (s : State) (n : Nat) : State :=
  { (s.wrs n [(LOOM_STATUS.OWNED, 0), (LOOM_STATUS.OWNER, 0)]) with
    looms := s.looms.upd n (fun l => { l with beam := [], spool := [], bolt := [] }) }

/-- Every unit whose owner changes is zeroed before its new owner can use it (R79, R80). `t` is the state before the commit. -/
def State.carve (s t : State) : State :=
  let s := (unitMoves FE_PART.LOOMS 12 t s).foldl State.loomZero s
  let cl := unitMoves FE_PART.CLUSTERS 48 t s
  let s := { s with sh := { s.sh with
    l1 := s.sh.l1.filter (fun l => !cl.contains (l.core / 4)), icache := s.sh.icache.filter (fun l => !cl.contains l.cluster),
    held := s.sh.held.filter (fun h => !cl.contains (h.1 / 4)) } }
  let s := ((List.range 128).filter (fun g => t.tallyOwner (64 * g) != s.tallyOwner (64 * g))).foldl
    (fun s g => (List.range 64).foldl (fun s i => s.initTally (64 * g + i) 0) s) s
  let ways := (unitMoves FE_PART.L2_WAYS 16 t s).map (fun w => (w, (t.ownerOf FE_PART.L2_WAYS w).toList ++ (s.ownerOf FE_PART.L2_WAYS w).toList))
  let s := { s with mem := { s.mem with ways := s.mem.ways.filter (fun x => !ways.any (fun y => y.1 == x.1)) ++ ways } }
  let s := (hbmMoves t s).foldl (fun s m => s.sweepAdd m.1 m.2.1 (.part m.2.2)) s
  s.clearSync

/-- A changed queue starts anew (R106). -/
def State.queueInit (s : State) (q : Nat) : State :=
  let r := s.rd FE_Q.RPTR_INIT q
  s.wrs q [(FE_Q.RPTR, r), (FE_Q.WPTR, r), (FE_Q.COMPLETED, s.rd FE_Q.SEQ_INIT q - 1), (FE_Q.DB_PENDING, 0)]

/-- A slot is enabled or disabled (R153, R154). Disabling retires its current revision (log entry 71, DESIGN CHOICE). -/
def State.patFlip (s t : State) (n : Nat) : State :=
  if s.on FE_PAT.EN n && !t.on FE_PAT.EN n then s.patEnable n
  else if t.on FE_PAT.EN n && !s.on FE_PAT.EN n then s.patRetire n
  else s

/-- After FE_COMMIT. `t` is the state before it. -/
def State.feApplied (s t : State) (ks : List (Nat × Nat)) : State :=
  let s := if hasFld ks FE_PART.fields then s.carve t else s
  let s := (keyInsts ks FE_CHN.fields).foldl (fun s p =>
    (State.heapSync { s with heaps := s.heaps.put p {} } p).wr FE_CHN.FREE_SEQ p 0) s
  let s := (keyInsts ks FE_Q.fields).foldl State.queueInit s
  let s := (keyInsts ks FE_PAT.fields).foldl (fun s n => s.patFlip t n) s
  let s := (keyInsts ks FE_RT.fields).foldl (fun s q => s.wr FE_RT.START_BY q 0) s
  let s := if hasFld ks FE_BUDGET.fields || hasFld ks FE_RT.fields then s.rtRecompute else s
  [0, 1, 2, 3, 4].foldl State.feSync s.domSync

/-- After TLY_COMMIT: an enabled export writes the current value once (R142). -/
def State.tlyApplied (s t : State) (ks : List (Nat × Nat)) : State :=
  (keyInsts ks TLY_EXP.fields).foldl (fun s i =>
    if s.on TLY_EXP.EN i && !t.on TLY_EXP.EN i then
      match s.exportOne i with
      | (s, none) => s
      | (s, some (t', v)) => s.signalChain 8192 t' v true
    else s) s

/-- After PXL_COMMIT: ports train or stop, and bindings are registered or released (R485, R493, R494, R499). -/
def State.pxlApplied (s t : State) (ks : List (Nat × Nat)) : State :=
  let s := (keyInsts ks [PXL_PORT.EN]).foldl (fun s p =>
    if s.on PXL_PORT.EN p then s.portSet p 1 else (s.portSet p 0).mirrorsLost (peerOf s.dev p)) s
  let s := if hasFld ks [PXL_CFG.EXPECT] && s.rd PXL_STATUS.JOINED == 2 ^ s.dev then
      let m := ((bitList (s.rd PXL_CFG.EXPECT) 3).head?).getD s.dev
      s.wrs 0 [(PXL_STATUS.MANAGER_ID, m), (GLB_DEVNUM.MANAGER, b2n (m == s.dev))]
    else s
  (keyInsts ks PXL_MIRROR.fields).foldl (fun s i =>
    let p := portTo s.dev (s.rd PXL_MIRROR.HOME_DEV i)
    if s.on PXL_MIRROR.EN i then
      if s.reachable (s.rd PXL_MIRROR.HOME_DEV i) then
        (s.wr PXL_MIRROR.STATE i 1).emit (.pxl p 11 [i, s.rd PXL_MIRROR.HOME_TALLY i])
      else s.mirrorLost i
    else if t.on PXL_MIRROR.EN i then
      let s := if t.rd PXL_MIRROR.STATE i = 1 then s.emit (.pxl (portTo s.dev (t.rd PXL_MIRROR.HOME_DEV i)) 14 [i]) else s
      s.wr PXL_MIRROR.STATE i 0
    else s) s

/-- After GLZ_COMMIT: a port or transmitter that is switched off has neither training nor lock. -/
def State.glzApplied (s t : State) (ks : List (Nat × Nat)) : State :=
  let s := (keyInsts ks [GLZ_DP.EN]).foldl (fun s o => if t.on GLZ_DP.EN o && !s.on GLZ_DP.EN o then s.wr GLZ_DP.STATE o 0 else s) s
  (keyInsts ks [GLZ_APHY.EN]).foldl (fun s o => if t.on GLZ_APHY.EN o && !s.on GLZ_APHY.EN o then s.fl GLZ_APHY.LOCKED o false else s) s

/-- After INTC_COMMIT: what the new moderation no longer holds is sent (R511). -/
def State.intcApplied (s : State) (ks : List (Nat × Nat)) : State :=
  (keyInsts ks [INTC_MOD.TIMER_US, INTC_MOD.COUNT]).foldl (fun s v => match s.irq.held.get? v with
    | none => s
    | some (k, _) =>
      let c := s.rd INTC_MOD.COUNT v
      if (c == 0 && s.rd INTC_MOD.TIMER_US v == 0) || (c != 0 && k ≥ c) then s.sendHeld v else s) s

/-- After DBG_COMMIT: a counter whose selection changes starts at 0 (R645). -/
def State.dbgApplied (s : State) (ks : List (Nat × Nat)) : State :=
  (keyInsts ks [PMU_CNT.EVENT, PMU_CNT.UNIT, PMU_CNT.PART, PMU_CNT.EN]).foldl (fun s k =>
    s.wrs k [(PMU_CNT.VALUE, 0), (PMU_CNT.SNAP, 0), (PMU_CNT.OVF, 0)]) s

/-- After a commit of block `b`. `t` is the state before it. -/
def State.applied (s : State) (b : Blk) (t : State) (ks : List (Nat × Nat)) : State :=
  match b with
  | .fe => s.feApplied t ks
  | .tly => s.tlyApplied t ks
  | .pxl => s.pxlApplied t ks
  | .glz => s.glzApplied t ks
  | .intc => s.intcApplied ks
  | .dbg => s.dbgApplied ks
  | .rst => if hasFld ks [PWR_ENVELOPE.WATTS] then s.powerRec 1 else s
  | .saf => s.safUpdate
  | .crd => { s with crd := { s.crd with poolNext := (keyInsts ks CRD_POOL.fields).foldl NMap.del s.crd.poolNext } }
  | _ => s

/-- Shadows of block `b` go into force in one clock; the tick's are released to the next tick start (R12, R435). -/
def State.applyShadows (s : State) (b : Blk) : State :=
  let ks := s.blkKeys b
  let now := ks.filter (fun k => !isTickFld k.1)
  let rel := (ks.filter (fun k => isTickFld k.1)).foldl (fun (m : RMap) k => m.put k (s.seen k)) s.tick.rel
  let s := s.withKeys now
  { s with shadows := s.shadows.filter (fun e => !now.contains e.1), tick := { s.tick with rel := rel } }

/-- A COMMIT write to block `b` (R12, R71). -/
def State.commit (s : State) (b : Blk) : State :=
  let ks := s.changed b
  if ks.isEmpty then s
  else if commitRules b s (s.withKeys (s.blkKeys b)) ks then (s.applyShadows b).applied b s ks
  else s.refuse b

/-- A DISCARD write to block `b` (R72): each shadow takes the last committed value. -/
def State.discard (s : State) (b : Blk) : State :=
  let s := { s with shadows := s.shadows.filter (fun e => commitBlk e.1 != some b) }
  if b = .fe then s.shRel s.tick.rel else s

/-- A block has COMMIT: the ODM window has none (R541). -/
def hasCommit (b : Blk) : Bool := match b with
  | .odm => false
  | .loom k => k < 12
  | .scl k => k < 48
  | _ => true

/-- COMMIT (R12, R71). -/
def execCommit (b : Blk) (s : State) : Host.Outcome State Fault Refusal :=
  .next (if s.winUp b && hasCommit b then s.commit b else s)

/-- DISCARD (R72). -/
def execDiscard (b : Blk) (s : State) : Host.Outcome State Fault Refusal :=
  .next (if s.winUp b && hasCommit b then s.discard b else s)

end Sys2Proof.Machine
end

