-- ==== Sys2Proof/Machine/Host.lean ====
section
/-! DEFINITION. Host accesses to BAR0, BAR2 and configuration space (chapters 00 and 02): reads of whole and half words, register
writes that have no row of their own, counter clears, misaligned accesses, and the same window through JTAG. -/

namespace Sys2Proof.Machine

/-! ### Words -/

/-- Function `f` exists: the PF, or an enabled VF. -/
def State.funcUp (s : State) (f : Nat) : Bool := f == 0 || (s.bus.vfEn && f ≤ s.bus.numVfs)

/-- The fields of the word at an address, each with its instance. -/
def fieldsAt (a : Nat) : List (Fld × Nat) := regTable.filterMap (fun F => (F.instAt a).map (fun i => (F, i)))

/-- The unit behind a field is present (R2); entries of reserved sources are none (R505), and no VF has
number 0 (R49). -/
def State.fldThere (s : State) (F : Fld) (i : Nat) : Bool :=
  if F.among RTU_CTR.fields then s.present 2 i
  else if F.among PRS_ENG.fields then s.present 8 i
  else if F.among GLZ_DP.fields then s.present 6 i
  else if F.among GLZ_APHY.fields then s.present 7 i
  else if F.among PXL_PORT.fields then s.present 9 i
  else if F.among L2_SLICE_CTR.fields then s.present 0xB i
  else if F.among MC_ERRLOG.fields then s.present 0xA (i / 16)
  else if F.among (MC_STATUS.fields ++ MC_ECC_CTR.fields ++ MC_ERRLOG_WPTR.fields) then s.present 0xA i
  else if F.among INTC_SRC.fields then srcExists i
  else if F.among GLB_VF_MAP.fields then i != 0
  else match pipeOfKey (F.fid, i) with
    | some p => s.present 5 p
    | none => true

/-- A field as a read sees it (R9, R10): the shadow of a Staged field, 0 of a write-only one. -/
def State.fldRead (s : State) (F : Fld) (i : Nat) : Nat :=
  if ¬ s.fldThere F i then 0
  else if F.acc = .wo ∨ F.acc = .rc then 0
  else if F.fid = INTC_SRC.TYPE.fid then b2n (srcIsLevel i)
  else if F.fid = FE_PART.CTX_ACTIVE.fid then s.ctxCount i
  else if F.fid = TLY_SLOT.EXPORTED.fid then s.rd TLY_EXP.EN i
  else if F.fid = GLB_GPIO.IN.fid then
    (s.rd GLB_GPIO.IN &&& (0xFFFF - s.rd GLB_GPIO.DIR)) + (s.rd GLB_GPIO.OUT &&& s.rd GLB_GPIO.DIR)
  else if F.staged then s.rdSh F i
  else s.rd F i

/-- The word at a register address: its fields in place; reserved bits read as 0 (R7). -/
def State.regWord (s : State) (a : Nat) : Nat :=
  (fieldsAt a).foldl (fun n p => n ||| (s.fldRead p.1 p.2 % 2 ^ p.1.w) * 2 ^ p.1.lo) 0

/-- CFG_STATUS of a block. -/
def State.cfgWord (s : State) (b : Blk) : Nat :=
  s.rd CFG.CFG_ERR b.idx + b2n (s.pendingBit b) * 2 + s.rd CFG.REFUSED b.idx * 4 + s.rd CFG.ERR_OFFSET b.idx * 2 ^ 12

/-- The capability table from GLB_CAP_HDR on, at offset `o` (R66, R67). -/
def State.capWord (s : State) (o : Nat) : Nat :=
  if o = 8 then s.cap.gen
  else if ¬ s.cap.valid then 0
  else if o = 0 then 1 + s.cap.ents.length * 2 ^ 8
  else match s.cap.ents[(o - 0x10) / 16]? with
    | none => 0
    | some e => if o % 16 = 0 then e.cls + b2n e.shrunk * 2 ^ 16 + e.count * 2 ^ 32 else e.present

/-- The word at offset `o` of an MSI-X table that begins at PF entry `base`: address, or data with the vector control. -/
def State.msixWord (s : State) (base o : Nat) : Nat :=
  let e := base + o / 16
  let w (k : Nat) : Nat := (s.bus.msix.get? (2 * e + k)).getD 0
  if o % 16 = 0 then w 0 else w 1 + b2n (!s.bus.unmasked.contains e) * 2 ^ 32

/-- The `k`-th word of a pending bit array of the entries from `base` that `own` admits. -/
def State.pbaWord (s : State) (base : Nat) (own : Nat → Bool) : Nat :=
  (List.range 64).foldl (fun n j => n + b2n (own (base + j) && s.irq.pba.contains (base + j)) * 2 ^ j) 0

/-- The word of doorbell slot `slot` in context `c`'s page (R108). -/
def State.dbWord (s : State) (c o : Nat) : Nat :=
  if o ≥ 0x200 then 0
  else match s.slotQueue c (o / 8) with
    | some q => s.rd FE_Q.WPTR q
    | none => 0

/-- The word at offset `o` of context `c`'s register page (R111). -/
def State.ctxPage (s : State) (c o : Nat) : Nat :=
  if o = 0 then s.regWord (0x300000 + ctxOff c)
  else if o < 0x100 ∨ o ≥ 0x900 then 0
  else match s.slotQueue c ((o - 0x100) / 0x20) with
    | none => 0
    | some q =>
      let k := (o - 0x100) % 0x20
      if k = 0 then
        1 + s.rd FE_Q.STATE q * 2 + s.rd FE_Q.DB_PENDING q * 8 + s.rd FE_Q.CLASS q * 2 ^ 4 + s.rd FE_Q.PRIO q * 2 ^ 7 + q * 2 ^ 16 +
          s.rd FE_Q.FAULT_CODE q * 2 ^ 32
      else if k = 8 then s.rd FE_Q.RPTR q + s.rd FE_Q.WPTR q * 2 ^ 16
      else if k = 0x10 then s.rd FE_Q.COMPLETED q
      else s.rd FE_Q.FAULT_SEQ q

/-- Eight bytes of a buffer. -/
def bufWord (bs : List Byte) (o : Nat) : Nat := field bs o 8

/-- The gamma LUT entry at GLZ window offset `o`: key of the first of the word's two entries (R401). -/
def lutAt (o : Nat) : Option Nat :=
  if o < 0x10000 ∨ o ≥ 0x20000 then none
  else
    let r := o % 0x4000
    if r ≥ 0x3000 then none else some (lutKey ((o - 0x10000) / 0x4000) (r / 0x1000) (r % 0x1000 / 4))

/-- The word at BAR0 address `a` in the window of block `b`. -/
def State.blkWord (s : State) (b : Blk) (a : Nat) : Nat :=
  let o := a - b.base
  if o = 0xFF8 then s.cfgWord b
  else match b with
    | .glb =>
      if 0x1000 ≤ o ∧ o < 0x1210 then s.capWord (o - 0x1000)
      else if 0x80000 ≤ o ∧ o < 0x88000 then
        if (s.lentTo ((o - 0x80000) / 16)).isSome then 0 else s.msixWord 0 (o - 0x80000)
      else if 0x90000 ≤ o ∧ o < 0x90100 then s.pbaWord ((o - 0x90000) * 8) (fun v => (s.lentTo v).isNone)
      else s.regWord a
    | .glz => match lutAt o with
      | some k => if s.present 5 (k / 3072) then s.lutShadow k + s.lutShadow (k + 1) * 2 ^ 32 else 0
      | none => s.regWord a
    | .rst => if 0xA000 ≤ o ∧ o < 0xB000 then bufWord s.boot.buf (o - 0xA000) else s.regWord a
    | .ldg => if 0x40000 ≤ o ∧ o < 0x80000 then ofBytes (s.ldg.bytes.read (o - 0x40000) 8) else s.regWord a
    | .odm => if 0x1000 ≤ o ∧ o < 0x2000 then bufWord s.odm.buf (o - 0x1000) else s.regWord a
    | _ => s.regWord a

/-- The word of BAR0 at `a` for the PF; windows that cannot be reached read as 0. -/
def State.pfWord (s : State) (a : Nat) : Nat :=
  match Blk.ofAddr a with
  | some b => if s.winUp b then s.blkWord b a else 0
  | none =>
    if 0x2000000 ≤ a ∧ a < 0x2400000 ∧ s.winUp .fe then s.dbWord ((a - 0x2000000) / 0x1000) (a % 0x1000) else 0

/-- The word of BAR0 at `a` for VF `n` (R49). The spec gives the word at 0x000 no layout: a free value of its three contents. -/
def State.vfWord (s : State) (n a : Nat) : Nat :=
  let base := s.rd GLB_VF_MAP.CTX_BASE n
  let page := a / 0x1000 % 0x100
  let mine := page < s.rd GLB_VF_MAP.CTX_COUNT n && s.winUp .fe
  let ent := 2048 - 32 * n
  if ¬ s.winUp .glb then 0
  else if a = 0 then (Config.vfInfo n base (s.rd GLB_VF_MAP.CTX_COUNT n)).toNat
  else if a = 8 then s.regWord 0
  else if a = 0x10 then s.regWord 8
  else if 0x100 ≤ a ∧ a < 0x320 then (if a < 0x310 then s.capWord (a - 0x100) else 0)
  else if 0x100000 ≤ a ∧ a < 0x200000 then (if mine then s.ctxPage (base + page) (a % 0x1000) else 0)
  else if 0x200000 ≤ a ∧ a < 0x300000 then (if mine then s.dbWord (base + page) (a % 0x1000) else 0)
  else if 0x300000 ≤ a ∧ a < 0x300200 then s.msixWord ent (a - 0x300000)
  else if a = 0x301000 then s.pbaWord ent (fun v => v < ent + 32)
  else 0

/-- A word of configuration space: its offset, the bits that never change, those that software writes, and these at reset
(log entry 6: the layout of the PCIe base specification, with what R43, R47, R50 and R54 state in it). -/
structure CfgReg where
  off : Nat
  fixed : Nat := 0
  mask : Nat := 0
  reset : Nat := 0

/-- The device control register: error reporting, Relaxed Ordering, Max Payload Size, Max Read Request Size. -/
def cfgDevCtl : CfgReg := { off := 0x58, mask := 0x70FF, reset := 0x2010 }

/-- The configuration space of the PF: header with the class code and two 64-bit non-prefetchable BARs of 64 MiB and 512 KiB
(R54); MSI-X; the PCIe capability with Max Payload Size to 512 B, FLR, ASPM L1 and no L0s; AER; SR-IOV with 63 VFs and stride 1;
L1 PM substates L1.1 and L1.2 (R43). -/
def cfgPf : List CfgReg := [
  { off := 0x00, fixed := 0x9240 * 2 ^ 16 + 0x10 * 2 ^ 48, mask := 0x546 * 2 ^ 32 },
  { off := 0x08, fixed := 0x120000 * 2 ^ 8 },
  { off := 0x10, fixed := 4, mask := 2 ^ 64 - 2 ^ 26 },
  { off := 0x18, fixed := 4, mask := 2 ^ 64 - 2 ^ 19 },
  { off := 0x30, fixed := 0x40 * 2 ^ 32 },
  { off := 0x40, fixed := 0x5011 + 2047 * 2 ^ 16 + 0x80000 * 2 ^ 32 },
  { off := 0x48, fixed := 0x90000 },
  { off := 0x50, fixed := 0x20010 + 0x10008002 * 2 ^ 32 },
  { cfgDevCtl with fixed := (6 + 16 * 2 ^ 4 + 2 * 2 ^ 10) * 2 ^ 32 },
  { off := 0x60, mask := 0x42 },
  { off := 0x70, fixed := 3 * 2 ^ 48 },
  { off := 0x78, fixed := 0x7E * 2 ^ 32, mask := 0x1340 },
  { off := 0x100, fixed := 0x15020001 },
  { off := 0x108, mask := 2 ^ 64 - 1, reset := 0x462030 * 2 ^ 32 },
  { off := 0x110, mask := (2 ^ 32 - 1) * 2 ^ 32, reset := 0x2000 * 2 ^ 32 },
  { off := 0x150, fixed := 0x1A010010 },
  { off := 0x158, fixed := (63 + 63 * 2 ^ 16) * 2 ^ 32, mask := 8 },
  { off := 0x160, fixed := (1 + 2 ^ 16) * 2 ^ 32 },
  { off := 0x168, fixed := 0x9241 * 2 ^ 16 + 0x553 * 2 ^ 32 },
  { off := 0x170, fixed := 4 * 2 ^ 32, mask := 0x7FF + (2 ^ 32 - 2 ^ 22) * 2 ^ 32, reset := 1 },
  { off := 0x178, fixed := 4 * 2 ^ 32, mask := 2 ^ 32 - 1 + (2 ^ 32 - 2 ^ 19) * 2 ^ 32 },
  { off := 0x180, mask := 2 ^ 32 - 1 },
  { off := 0x1A0, fixed := 0x1001E + 0x1F * 2 ^ 32 },
  { off := 0x1A8, mask := 0xF }]

/-- The configuration space of a VF: its own IDs, MSI-X table and device control; it has no BARs of its own there. -/
def cfgVf : List CfgReg := [
  { off := 0x00, fixed := 0x9241 * 2 ^ 16 + 0x10 * 2 ^ 48, mask := 4 * 2 ^ 32 },
  { off := 0x08, fixed := 0x120000 * 2 ^ 8 },
  { off := 0x30, fixed := 0x40 * 2 ^ 32 },
  { off := 0x40, fixed := 0x5011 + 31 * 2 ^ 16 + 0x300000 * 2 ^ 32 },
  { off := 0x48, fixed := 0x301000 },
  { off := 0x50, fixed := 0x20010 + 0x10008002 * 2 ^ 32 },
  { cfgDevCtl with },
  { off := 0x70, fixed := 3 * 2 ^ 48 }]

/-- The register behind the word at `o` of function `func`'s configuration space. -/
def cfgReg (func o : Nat) : Option CfgReg := (if func = 0 then cfgPf else cfgVf).find? (fun r => r.off == o)

/-- What software has written to a word of configuration space. -/
def State.cfgSoft (s : State) (func : Nat) (r : CfgReg) : Nat := ((s.bus.cfg.get? (4096 * func + r.off)).getD r.reset) &&& r.mask

/-- The bits of a configuration word that follow the device's state: the vendor, MSI-X Enable and Function Mask, the link's width and
speed, VF Enable and NumVFs. -/
def State.cfgLive (s : State) (func o : Nat) : Nat :=
  if o = 0 then s.rd GLB_ID.VENDOR
  else if o = 0x40 then b2n (s.bus.funcMask.contains func) * 2 ^ 30 + b2n (s.bus.msixEn.contains func) * 2 ^ 31
  else if o = 0x60 ∧ func = 0 then (s.rd GLB_LINK.SPEED + s.rd GLB_LINK.WIDTH * 2 ^ 4) * 2 ^ 16
  else if o = 0x158 ∧ func = 0 then b2n s.bus.vfEn
  else if o = 0x160 ∧ func = 0 then s.bus.numVfs
  else 0

/-- A word of configuration space (log entry 6). -/
def State.cfgSpWord (s : State) (func o : Nat) : Nat := match cfgReg func o with
  | none => 0
  | some r => (r.fixed ||| s.cfgSoft func r) ||| s.cfgLive func o

/-- What a read of the word at `o` returns, and what the read does: a VF's read of a Tally that does not respond counts (R52),
one of GLB_CAP_GEN ends the SHRUNK condition (R599). -/
def State.readWord (s : State) (func : Nat) (sp : Space) (o : Nat) : Nat × State :=
  if ¬ s.funcUp func ∨ s.pwr.off then (0, s)
  else match sp with
    | .bar0 =>
      if func = 0 then
        let v := s.pfWord o
        if o = 0x1008 ∧ s.winUp .glb then (v, { s with saf := { s.saf with shrunk := false } }.safUpdate) else (v, s)
      else (s.vfWord func o, s)
    | .bar2 =>
      let t := o / 64
      if t ≥ 8192 ∨ ¬ s.winUp .tly then (0, s)
      else if s.vfTally func t then (s.regWord (0x10000000 + o), s.wakeAccess)
      else (0, s.vfViol func)
    | .cfg => (s.cfgSpWord func o, s)

/-- The key of a word in a function's latch. -/
def latchKey (sp : Space) (o : Nat) : Nat := o * 4 + match sp with
  | .bar0 => 0
  | .bar2 => 1
  | .cfg => 2

/-- LOW_WORD_READ: a read at a word's offset: whole (`wide`), or its low half, which latches the high half of
a word of BAR0 or BAR2 for the function (R17). -/
def execLowWordRead (func : Nat) (sp : Space) (off : Nat) (wide : Bool) (s : State) : Host.Outcome State Fault Refusal :=
  .next (
    if off % 8 ≠ 0 then s
    else
      let (v, s) := s.readWord func sp off
      if wide then { s with rdata := v }
      else if sp = .cfg then { s with rdata := v % 2 ^ 32 }
      else { s with rdata := v % 2 ^ 32, bus := { s.bus with latch := s.bus.latch.put func (latchKey sp off, v / 2 ^ 32) } })

/-- HIGH_WORD_READ: a 32-bit read at offset + 4: the latched word and its release, or the current high half (R17). -/
def execHighWordRead (func : Nat) (sp : Space) (off : Nat) (s : State) : Host.Outcome State Fault Refusal :=
  .next (
    if off % 8 ≠ 4 then s
    else match s.bus.latch.get? func with
      | some (k, h) =>
        if k = latchKey sp (off - 4) then { s with rdata := h, bus := { s.bus with latch := s.bus.latch.del func } }
        else
          let (v, s) := s.readWord func sp (off - 4)
          { s with rdata := v / 2 ^ 32 }
      | none =>
        let (v, s) := s.readWord func sp (off - 4)
        { s with rdata := v / 2 ^ 32 })

/-- BAR_ACCESS_MISALIGNED: an access that is not an aligned 32-bit or 64-bit access returns 0, writes nothing, and sets
GLB_ACC_ERR.SIZE (R57). -/
def execBarAccessMisaligned (func : Nat) (sp : Space) (off : Nat) (s : State) : Host.Outcome State Fault Refusal :=
  .next (
    let s := { s with rdata := 0 }
    if ¬ s.funcUp func ∨ ¬ s.winUp .glb then s
    else match sp with
      | .bar0 => s.accErr false func 0 off
      | .bar2 => s.accErr false func 1 off
      | .cfg => s)

/-! ### Writes -/

/-- Fields whose writes have rows of their own. -/
def ownRow : List Fld := [FE_CTX.EN, FE_CTX.PART, FE_Q.EN, GLZ_PIPE.EN, INTC_SRC.FM_MASK, INTC_SRC.HOST_MASK]

/-- `old` with the bits of `m` taken from `v`. -/
def merge (old m v : Nat) : Nat := (old - (old &&& m)) + (v &&& m)

/-- A write of bits `m` of value `v` to one field, both at the field's own place (R9). -/
def State.fldWrite (s : State) (F : Fld) (i m v : Nat) : State :=
  if m = 0 ∨ ¬ s.fldThere F i ∨ F.among ownRow then s
  else match F.acc with
    | .ro | .rc | .wo | .w1s => s
    | .w1c => s.wr F i (s.rd F i - (s.rd F i &&& (v &&& m)))
    | .rw =>
      let n := merge (s.fldRead F i) m v
      if F.staged then s.wrSh F i n
      else if F.ctr ∧ n = 0 then s
      else s.wr F i n

/-- A write of bits `m` of a register word. -/
def State.regWrite (s : State) (a m v : Nat) : State :=
  (fieldsAt a).foldl (fun s p => s.fldWrite p.1 p.2 (bits m p.1.lo p.1.w) (bits v p.1.lo p.1.w)) s

/-- R13: the window offset, with ERR_OFFSET's granularity, of a write that a block forbids now. -/
def State.forbidden (s : State) (a m v : Nat) : Bool :=
  let has (F : Fld) : Bool := (fieldsAt a).any (fun p => p.1.fid == F.fid && bits m F.lo F.w != 0)
  let inst (F : Fld) : Nat := (F.instAt a).getD 0
  if has FE_CTX.PTBR then s.rd FE_CTX.STATE (inst FE_CTX.PTBR) != 0
  else if has MMU_INV_TIMEOUT.US then
    let n := merge (s.rd MMU_INV_TIMEOUT.US) (bits m MMU_INV_TIMEOUT.US.lo 14) (bits v MMU_INV_TIMEOUT.US.lo 14)
    n == 0 || 10000 < n
  else if has ODM_MBX_CMD.INDEX || has ODM_MBX_CMD.LENGTH then s.on ODM_MBX_CTL.BUSY
  else if has RST_BOOT_FW.FW_PA then s.on RST_BOOT_STEP.STATE 6
  else if has RST_FLASH.ADDR || has RST_FLASH.LEN || has RST_FLASH.OP then s.on RST_FLASH.BUSY
  else if has RST_CTL.KEY then bits v RST_CTL.KEY.lo RST_CTL.KEY.w != 0xA5
  else if has RST_BLOCK.TYPE then s.on RST_BLOCK.BUSY (inst RST_BLOCK.TYPE)
  else if has RST_BOOT_CTL.GO_STEP then
    let n := bits v RST_BOOT_CTL.GO_STEP.lo RST_BOOT_CTL.GO_STEP.w
    n == 1 || 10 < n
  else if has DBG_HALT.CLUSTER then
    (s.dbgName (bits v DBG_HALT.CLUSTER.lo 6) (bits v DBG_HALT.CORE.lo 2) (bits v DBG_HALT.SLOT.lo 6) false 0).dbgBusy
  else has INTC_FMOD.TIMER_US || has INTC_FMOD.COUNT || has LOOM_STOP.REQ || has LOOM_STOP.RESTORE || has LOOM_STOP.STATE

/-- The driven GPIO pins whose level or direction changes leave the device (R658). `t` is the state before. -/
def State.gpioPins (s t : State) : State :=
  (List.range 16).foldl (fun s g =>
    let drv (s : State) : Bool := bit (s.rd GLB_GPIO.DIR) g
    let lvl (s : State) : Nat := b2n (bit (s.rd GLB_GPIO.OUT) g)
    if drv s && (!drv t || lvl s != lvl t) then s.emit (.pin (16 + g) (lvl s)) else s) s

/-- What follows a write of the word at `a` of block `b`. `t` is the state before. -/
def State.afterWrite (s t : State) (b : Blk) (a : Nat) : State :=
  match b with
  | .saf => s.safUpdate
  | .glb => if a = GLB_GPIO.DIR.addr then s.gpioPins t else s
  | .dbg => if a = DBG_HALT.CLUSTER.addr then s.haltSync else s
  | _ => s

/-- The bytes of a buffer after a write of the bits `m` of the word at `o`. -/
def bufWrite (bs : List Byte) (o m v : Nat) : List Byte :=
  let bs := bs ++ List.replicate (4096 - bs.length) 0
  bs.take o ++ leBytes 8 (merge (bufWord bs o) m v) ++ bs.drop (o + 8)

/-- A write to word `o` of an MSI-X table that begins at PF entry `base`. Clearing a mask bit is VECTOR_UNMASK's. -/
def State.msixWrite (s : State) (base o m v : Nat) : State :=
  let e := base + o / 16
  let k := 2 * e + o % 16 / 8
  let n := merge (s.msixWord base o) m v
  let x := if o % 16 = 0 then n / 4 * 4 else n % 2 ^ 32
  let s := { s with bus := { s.bus with msix := if x = 0 then s.bus.msix.del k else s.bus.msix.put k x } }
  if o % 16 = 8 ∧ bit n 32 then { s with bus := { s.bus with unmasked := s.bus.unmasked.filter (· != e) } } else s

/-- A write of the PF to a context's first word that is no EN write acts on PART (R83). -/
def State.ctxWord (s : State) (c m v : Nat) : State :=
  if bit m 0 ∧ bit v 0 = s.on FE_CTX.EN c then s.ctxPart c (bits v 1 3) else s

/-- A plain write of register fields, and what follows it. -/
def State.plainWrite (s : State) (b : Blk) (a m v : Nat) : State := (s.regWrite a m v).afterWrite s b a

/-- A write to GLB: the MSI-X table, or registers. -/
def State.glbWrite (s : State) (o a m v : Nat) : State :=
  if 0x80000 ≤ o ∧ o < 0x88000 then
    if (s.lentTo ((o - 0x80000) / 16)).isSome then s else s.msixWrite 0 (o - 0x80000) m v
  else s.plainWrite .glb a m v

/-- A write to GLZ: a pair of gamma LUT entries, or registers. -/
def State.glzWrite (s : State) (o a m v : Nat) : State :=
  match lutAt o with
  | some k =>
    if ¬ s.present 5 (k / 3072) then s
    else
      let one (s : State) (k lo : Nat) : State :=
        if bits m lo 10 = 0 then s else s.wrLutShadow k (merge (s.lutShadow k) (bits m lo 10) (bits v lo 10))
      one (one s k 0) (k + 1) 32
  | none => s.plainWrite .glz a m v

/-- A write to RST: the data buffer of RST_FLASH, or registers. -/
def State.rstWrite (s : State) (o a off m v : Nat) : State :=
  if 0xA000 ≤ o ∧ o < 0xB000 then
    if s.on RST_FLASH.BUSY then s.cfgErr .rst off else s.updBoot (fun x => { x with buf := bufWrite x.buf (o - 0xA000) m v })
  else s.regWrite a m v

/-- A write to ODM: the mailbox's data buffer, or registers. -/
def State.odmWrite (s : State) (o a off m v : Nat) : State :=
  if 0x1000 ≤ o ∧ o < 0x2000 then
    if s.on ODM_MBX_CTL.BUSY then s.cfgErr .odm off else s.updOdm (fun x => { x with buf := bufWrite x.buf (o - 0x1000) m v })
  else s.regWrite a m v

/-- A write to FE: a context's first word, or registers. -/
def State.feWrite (s : State) (o a m v : Nat) : State :=
  if 0x20000 ≤ o ∧ o < 0x24000 ∧ o % 16 = 0 then s.ctxWord ((o - 0x20000) / 16) m v else s.regWrite a m v

/-- A write of the PF to the word at BAR0 address `a` of block `b`; `off` is the access's own window offset. -/
def State.blkWrite (s : State) (b : Blk) (a off m v : Nat) : State :=
  let o := a - b.base
  if o = 0xFF0 then s
  else if o = 0xFF8 then
    let clr (s : State) (F : Fld) : State := if bit (m &&& v) F.lo then s.fl F b.idx false else s
    clr (clr s CFG.CFG_ERR) CFG.REFUSED
  else if s.forbidden a m v then s.cfgErr b off
  else match b with
    | .glb => s.glbWrite o a m v
    | .glz => s.glzWrite o a m v
    | .rst => s.rstWrite o a off m v
    | .odm => s.odmWrite o a off m v
    | .fe => s.feWrite o a m v
    | _ => s.plainWrite b a m v

/-- A write of the PF to BAR0. -/
def State.pfWrite (s : State) (a off m v : Nat) : State :=
  match Blk.ofAddr a with
  | some b => if s.winUp b then s.blkWrite b a (off - b.base) m v else s
  | none => s

/-- A write of VF `n` to its BAR0 window: its MSI-X table; the rest ignores writes or has rows of its own (R48, R49). -/
def State.vfWrite (s : State) (n a m v : Nat) : State :=
  if 0x300000 ≤ a ∧ a < 0x300200 ∧ s.winUp .glb then s.msixWrite (2048 - 32 * n) (a - 0x300000) m v else s

/-- A write to MSI-X Message Control of function `f`; pending messages of entries that open leave (R512). -/
def State.msixCtl (s : State) (f m v : Nat) : State :=
  let put (l : List Nat) (k : Nat) : List Nat :=
    if ¬ bit m k then l else if bit v k then (if l.contains f then l else f :: l) else l.filter (· != f)
  let s := { s with bus := { s.bus with msixEn := put s.bus.msixEn 31, funcMask := put s.bus.funcMask 30 } }
  s.irq.pba.foldl State.pbaFlush s

/-- A write to configuration space (log entry 6). -/
def State.cfgSpWrite (s : State) (f o m v : Nat) : State :=
  if o = 0x40 then s.msixCtl f m v
  else match cfgReg f o with
    | none => s
    | some r => if r.mask = 0 then s
      else { s with bus := { s.bus with cfg := s.bus.cfg.put (4096 * f + o) (merge (s.cfgSoft f r) (m &&& r.mask) v) } }

/-- REGISTER_WRITE: a write of `size` bytes to a word whose fields have no rows of their own (R9, R10, R13). -/
def execRegisterWrite (func : Nat) (sp : Space) (off size v : Nat) (s : State) : Host.Outcome State Fault Refusal :=
  .next (
    if ¬ s.funcUp func ∨ s.pwr.off ∨ ¬ (size = 4 ∨ size = 8) ∨ off % size ≠ 0 then s
    else
      let a := alignDown off 8
      let sh := 2 ^ (8 * (off % 8))
      let m := (2 ^ (8 * size) - 1) * sh
      let v := v % 2 ^ (8 * size) * sh
      match sp with
      | .bar0 => if func = 0 then s.pfWrite a off m v else s.vfWrite func a m v
      | .bar2 => s.bar2 func (a / 64) (fun s => s.regWrite (0x10000000 + a) m v)
      | .cfg => s.cfgSpWrite func a m v)

/-! ### Counters (R15) -/

/-- One counter is cleared with its OVF bit; a clear of an MC counter re-arms its logging (R474), and one of
ATOM_STALL its source (R480). -/
def State.ctrClear (s : State) (F : Fld) (i : Nat) : State :=
  if ¬ s.fldThere F i then s
  else
    let s := s.wr F i 0
    let s := match F.ovf with
      | some (o, b) => match fldOf o with
        | some O => s.wr O i (setBit (s.rd O i) b false)
        | none => s
      | none => s
    if F.among MC_ECC_CTR.fields then
      { s with mem := { s.mem with corrLines := s.mem.corrLines.filter (fun L => stackOf L != i), corrRaised := s.mem.corrRaised.filter (· != i) } }
    else if F == L2_SLICE_CTR.ATOM_STALL then { s with mem := { s.mem with atomBusy := s.mem.atomBusy.filter (· != i) } }
    else s

/-- The CLR bits of the blocks (R15). -/
def clrBits : List Fld := [FE_FETCH.CLR, MMU_CTR.CLR, SCL_CTR.CLR, LOOM_CTR.CLR, LOOM_CHK_CTR.CLR, CRD_CTR.CLR, RTU_CTR.CLR, GLZ_PIPE.CLR,
  PRS_ENG.CLR, FE_TICK_CTR.CLR, FE_SCH_CTR.CLR, FE_BUDGET.CLR, MC_ECC_CTR.CLR, L2_SLICE_CTR.CLR, PXL_PORT.CLR, ODM_CAN.CLR, ODM_CTR.CLR,
  RST_CTR.CLR, PWR_CTR.CLR, SAF_CTR.CLR, ASY_CTR.CLR, LDG_CTR.CLR, DBG_CTR.CLR, PMU_CNT.CLR, PMU_FIXED.CLR]

/-- The counters that a clear of the word at `a` names: those whose OVF bits stand beside its CLR bit, or those of the word
that software can write. FE_CLAIM.CLAIMED is typed RO, and no write clears it (log entry 70, DESIGN CHOICE). -/
def clrTargets (a : Nat) (clr : Bool) : List (Fld × Nat) :=
  let fs := fieldsAt a
  if clr then
    if fs.any (fun p => p.1.among clrBits) then
      fs.flatMap (fun p => (regTable.filter (fun F => F.ctr && (match F.ovf with
        | some (o, _) => o == p.1.fid
        | none => false))).map (fun F => (F, p.2)))
    else []
  else fs.filter (fun p => p.1.ctr && p.1.acc == .rw)

/-- COUNTER_CLEAR: a write of 0 to a counter, or of 1 to the CLR bit beside its OVF bits (R15). -/
def execCounterClear (func : Nat) (sp : Space) (off : Nat) (clr : Bool) (s : State) : Host.Outcome State Fault Refusal :=
  .next (
    let a := alignDown off 8
    if ¬ s.funcUp func ∨ s.pwr.off then s
    else match sp with
      | .bar0 => match Blk.ofAddr a with
        | none => s
        | some b =>
          if func ≠ 0 ∨ ¬ s.winUp b then s
          else
            let t := (clrTargets a clr).foldl (fun s p => s.ctrClear p.1 p.2) s
            if b = .saf then t.safUpdate else t
      | .bar2 => s.bar2 func (a / 64) (fun s => (clrTargets (0x10000000 + a) clr).foldl (fun s p => s.ctrClear p.1 p.2) s)
      | .cfg => s)

/-! ### JTAG (R633, R634) -/

/-- The result of a DBGACC scan is shifted out: the address and direction as shifted in, data, and the result code. -/
def State.dbgaccOut (s : State) (off4 : Nat) (write wide : Bool) (data res : Nat) : State :=
  s.emit (.tdo 100 (off4 % 2 ^ 24 + b2n write * 2 ^ 24 + b2n wide * 2 ^ 25 + data % 2 ^ 64 * 2 ^ 26 + res * 2 ^ 90))

/-- A JTAG write to the DBG/PMU window: as the PF's, the triggers among them, but for JTAG_EN (R633). -/
def State.jtagWrite (s : State) (a off m v : Nat) : State :=
  let o := a - Blk.dbg.base
  let b (F : Fld) : Nat := bits v F.lo F.w
  let hit (F : Fld) : Bool := bits m F.lo F.w != 0 && b F != 0
  if o = 0xFF0 then (if bit (m &&& v) 1 then s.discard .dbg else if bit (m &&& v) 0 then s.commit .dbg else s)
  else if a = DBG_HALT.HALT.addr then
    let ar (f : State → Nat → Nat → Nat → Bool → Nat → State) : State :=
      f s (b DBG_HALT.CLUSTER) (b DBG_HALT.CORE) (b DBG_HALT.SLOT) (b DBG_HALT.BY_CTX != 0) (b DBG_HALT.CTX)
    if hit DBG_HALT.HALT then ar State.dbgHalt
    else if hit DBG_HALT.RESUME then ar State.dbgResume
    else if hit DBG_HALT.STEP then ar State.dbgStep
    else s.blkWrite .dbg a off m v
  else if a = DBG_ACC.GO.addr ∧ hit DBG_ACC.GO then
    s.dbgAccess (b DBG_ACC.SPACE) (b DBG_ACC.REG) (b DBG_ACC.LANE) (b DBG_ACC.WRITE != 0)
  else if a = DBG_LOOM.HALT.addr then
    if hit DBG_LOOM.HALT then s.loomHalt (b DBG_LOOM.LOOM)
    else if hit DBG_LOOM.RESUME then s.loomResume (b DBG_LOOM.LOOM)
    else if hit DBG_LOOM.STEP then s.loomStep (b DBG_LOOM.LOOM)
    else s.blkWrite .dbg a off m v
  else if (clrTargets a true).length ≠ 0 ∧ (fieldsAt a).any (fun p => p.1.among clrBits && bits m p.1.lo 1 != 0 && bits v p.1.lo 1 != 0) then
    (clrTargets a true).foldl (fun s p => s.ctrClear p.1 p.2) s
  else if v &&& m = 0 ∧ (clrTargets a false).length ≠ 0 then (clrTargets a false).foldl (fun s p => s.ctrClear p.1 p.2) s
  else
    let en := s.rd DBG_CFG.JTAG_EN
    (s.blkWrite .dbg a off m v).wr DBG_CFG.JTAG_EN 0 en

/-- DBGACC: a JTAG scan reads the GLB or the DBG/PMU window, or writes the latter, while JTAG_EN = 1; else it is refused. In
recovery mode the TAP does not offer it, and its code selects BYPASS (R633, R634). -/
def execDbgacc (off4 : Nat) (write wide : Bool) (data : Nat) (s : State) : Host.Outcome State Fault Refusal :=
  .next (
    if s.on RST_BOOT_CTL.RECOVERY then (s.tap 0x1F s.jtag.dr).tapBypass
    else
      let s := s.tap 0x10 s.jtag.dr
      let off := off4 % 2 ^ 24 * 4
      let a := alignDown off 8
      let sh := 2 ^ (8 * (off % 8))
      let bad := s.dbgaccOut off4 write wide data 2
      match Blk.ofAddr a with
      | none => bad
      | some b =>
        if ¬ s.on DBG_CFG.JTAG_EN ∨ ¬ s.winUp b ∨ ¬ (b = .dbg ∨ (b = .glb ∧ ¬ write)) ∨ (wide ∧ off % 8 ≠ 0) then bad
        else if write then
          let n := if wide then 2 ^ 64 else 2 ^ 32
          (s.jtagWrite a (off - b.base) ((n - 1) * sh) (data % n * sh)).dbgaccOut off4 write wide data 0
        else s.dbgaccOut off4 write wide (s.pfWord a / sh % (if wide then 2 ^ 64 else 2 ^ 32)) 0)

end Sys2Proof.Machine
end

