-- ==== Sys2Proof/Machine/ShAlu.lean ====
section
/-! DEFINITION. The arithmetic classes VALU, VALU64, VCMP, CVT, SFU and SALU (R250 to R257, R266). -/

namespace Sys2Proof.Machine

/-! ### Elements of an operand -/

/-- A source element with its modifiers: absolute value, then negation, on the sign bit alone (R250). `k` is the source's
number. -/
def modElt (i : Ins) (size k v : Nat) : Nat :=
  let v := if bit i.md (3 + k) then setBit v (size - 1) false else v
  if bit i.md k then setBit v (size - 1) (!bit v (size - 1)) else v

/-- Bits of the register operand of a type. -/
def NTy.regW (t : NTy) : Nat := if t.size = 64 then 64 else 32

/-- Elements of a register operand: a packed pair for the 16-bit types, else one. -/
def NTy.elts (t : NTy) : Nat := if t.size = 16 then 2 else 1

/-- Element `j` of source `k` in a lane, modified. -/
def Grp.elt (x : Grp) (i : Ins) (t : NTy) (k code lane j : Nat) : Nat :=
  let v := x.src i t t.regW code lane
  if t.size = 16 then modElt i 16 k (bits v (16 * j) 16) else modElt i t.regW k v

/-- A result with its flags. -/
abbrev Res := Nat × Nat

/-- A vector instruction that writes one register operand of type `t`: `f` gives the result of a lane with its flags. -/
def State.vecOp (s : State) (cls : Nat) (g : Nat) (i : Ins) (t : NTy) (bad : Bool) (srcs : List Opd) (mods : Nat)
    (f : Grp → Nat → Res) : State :=
  s.issue ⟨cls, none⟩ g i false (⟨i.dst, .v, t.regW / 32⟩ :: srcs) mods true (fun _ => if bad then some 1 else none)
    (fun s e =>
      let rs := (e.grp.lanesOf i).map (fun l => (l, f e.grp l))
      s.setGrp g (rs.foldl (fun x r => (x.dst t.regW i.dst r.1 r.2.1).fl r.2.2) e.grp))

/-- The extension word of an arithmetic instruction is a literal or absent. -/
def litBad (i : Ins) (srcs : List Opd) : Bool := i.x != 0 && !srcs.any (fun o => o.code == 0x1F8)

/-- An element-wise operation of `ns` sources on one of the types `ts`. -/
def State.elOp (s : State) (cls : Nat) (g : Nat) (i : Ins) (t : NTy) (ts : List NTy) (ns : Nat) (f : NTy → Nat → Nat → Nat → Res) : State :=
  let n := t.regW / 32
  let srcs := ([⟨i.src0, .any, n⟩, ⟨i.src1, .any, n⟩, ⟨i.src2, .any, n⟩] : List Opd).take ns
  s.vecOp cls g i t (!ts.contains t || litBad i srcs) srcs 0x3F (fun x l =>
    let one (j : Nat) : Res := f t (x.elt i t 0 i.src0 l j) (if ns > 1 then x.elt i t 1 i.src1 l j else 0)
      (if ns > 2 then x.elt i t 2 i.src2 l j else 0)
    if t.size = 16 then ((one 0).1 + (one 1).1 * 2 ^ 16, (one 0).2 ||| (one 1).2) else one 0)

/-- The format of a floating type; FP32 for the others. -/
def NTy.fm (t : NTy) : Fmt := (t.fmt?).getD fp32

/-- A type is an integer type. -/
def NTy.isInt : NTy → Bool
  | .i64 | .u64 | .i32 | .u32 | .i8 | .u8 | .i4 => true
  | _ => false

/-- A type is signed. -/
def NTy.signed : NTy → Bool
  | .u64 | .u32 | .u8 => false
  | _ => true

def iRes (t : NTy) (v : Int) : Res := (ofSigned t.size v, 0)

/-- The value of an integer element. -/
def NTy.int (t : NTy) (v : Nat) : Int := if t.signed then toSigned t.size v else (v % 2 ^ t.size : Nat)

/-- Addition (R250, R255). -/
def eAdd (t : NTy) (a b _c : Nat) : Res := if t.isInt then iRes t (a + b : Nat) else t.fm.add a b
/-- Subtraction. -/
def eSub (t : NTy) (a b _c : Nat) : Res := if t.isInt then iRes t ((a : Int) - b) else t.fm.sub a b
def eMul (t : NTy) (a b _c : Nat) : Res := t.fm.mul a b
def eFma (t : NTy) (a b c : Nat) : Res := t.fm.fma a b c
def eMin (mx : Bool) (t : NTy) (a b _c : Nat) : Res :=
  if t.isInt then (if (t.int a < t.int b) != mx then a else b, 0) else t.fm.minNum mx a b
def eMinP (mx : Bool) (t : NTy) (a b _c : Nat) : Res := t.fm.minProp mx a b
def eIntegral (k : Nat) (t : NTy) (a _b _c : Nat) : Res := t.fm.integral k a
def eFract (t : NTy) (a _b _c : Nat) : Res := t.fm.fract a
def eMulLo (t : NTy) (a b _c : Nat) : Res := iRes t (a * b : Nat)
def eMulHi (t : NTy) (a b _c : Nat) : Res := iRes t (t.int a * t.int b / (2 ^ t.size : Nat))
def eMadLo (t : NTy) (a b c : Nat) : Res := iRes t (a * b + c : Nat)
def eBit (f : Nat → Nat → Nat) (_t : NTy) (a b _c : Nat) : Res := (f a b, 0)
def eNot (t : NTy) (a _b _c : Nat) : Res := (2 ^ t.size - 1 - a, 0)
/-- Shifts: the count is modulo the operand width (R255). -/
def eShl (t : NTy) (a b _c : Nat) : Res := (a * 2 ^ (b % t.size) % 2 ^ t.size, 0)
def eShr (t : NTy) (a b _c : Nat) : Res := (a / 2 ^ (b % t.size), 0)
def eSar (t : NTy) (a b _c : Nat) : Res := iRes t (toSigned t.size a / (2 ^ (b % t.size) : Nat))
/-- Bit-field extract: offset SRC1 and width SRC2, each modulo 32, sign-extended for the signed type (assumption 30). -/
def eBfe (t : NTy) (a b c : Nat) : Res :=
  let n := c % 32
  let v := bits a (b % 32) n
  if t.signed ∧ n > 0 then iRes t (toSigned n v) else (v, 0)
/-- Bit-field insert: the bits of SRC1 where the mask SRC0 is set, else those of SRC2 (assumption 30). -/
def eBfi (_t : NTy) (a b c : Nat) : Res := ((a &&& b) ||| (c - (c &&& a)), 0)
def ePopc (t : NTy) (a _b _c : Nat) : Res := (popc a t.size, 0)
def eClz (t : NTy) (a _b _c : Nat) : Res := (t.size - bitLen a, 0)
def eCtz (t : NTy) (a _b _c : Nat) : Res := (((List.range t.size).find? (bit a)).getD t.size, 0)
def eBrev (t : NTy) (a _b _c : Nat) : Res := ((List.range t.size).foldl (fun r k => 2 * r + bits a k 1) 0, 0)

/-! ### VALU -/

def fpTys : List NTy := [.f32, .f16]
def fpbTys : List NTy := [.f32, .f16, .bf16]
def intTys : List NTy := [.i32, .u32]

/-- ADD and SUB with the carry in and out through the predicate that SRC2 names (assumption 30). -/
def State.addCarry (s : State) (g : Nat) (i : Ins) (t : NTy) (sub : Bool) : State :=
  let srcs : List Opd := [⟨i.src0, .any, 1⟩, ⟨i.src1, .any, 1⟩]
  s.issue ⟨0, none⟩ g i false (⟨i.dst, .v, 1⟩ :: ⟨i.src2, .p, 1⟩ :: srcs) 0x3F true
    (fun _ => if litBad i srcs then some 1 else none)
    (fun s e =>
      let p := i.src2 - 0x180
      let rs := (e.grp.lanesOf i).map (fun l =>
        let a := e.grp.elt i t 0 i.src0 l 0
        let b := e.grp.elt i t 1 i.src1 l 0 + b2n (bit (e.grp.rp p) l)
        (l, if sub then ofSigned 32 ((a : Int) - b) else (a + b) % 2 ^ 32, if sub then decide (a < b) else decide (a + b ≥ 2 ^ 32)))
      let x := rs.foldl (fun x r => x.wv r.1 i.dst r.2.1) e.grp
      s.setGrp g (x.wp p (rs.foldl (fun m r => setBit m r.1 r.2.2) (e.grp.rp p))))

/-- SRC2 names a predicate. -/
def carryForm (i : Ins) (t : NTy) : Bool := t.isInt && 0x180 ≤ i.src2 && i.src2 < 0x188

/-- VALU ADD (R250, R251). -/
def execValuAdd (g : Nat) (i : Ins) (t : NTy) (s : State) : Host.Outcome State Fault Refusal :=
  .next (if carryForm i t && intTys.contains t then s.addCarry g i t false else s.elOp 0 g i t (fpbTys ++ intTys) 2 eAdd)
/-- VALU SUB. -/
def execValuSub (g : Nat) (i : Ins) (t : NTy) (s : State) : Host.Outcome State Fault Refusal :=
  .next (if carryForm i t && intTys.contains t then s.addCarry g i t true else s.elOp 0 g i t (fpTys ++ intTys) 2 eSub)
/-- VALU MUL. -/
def execValuMul (g : Nat) (i : Ins) (t : NTy) (s : State) : Host.Outcome State Fault Refusal := .next (s.elOp 0 g i t fpbTys 2 eMul)
/-- VALU FMA. -/
def execValuFma (g : Nat) (i : Ins) (t : NTy) (s : State) : Host.Outcome State Fault Refusal := .next (s.elOp 0 g i t fpbTys 3 eFma)
/-- VALU MIN. -/
def execValuMin (g : Nat) (i : Ins) (t : NTy) (s : State) : Host.Outcome State Fault Refusal := .next (s.elOp 0 g i t (fpTys ++ intTys) 2 (eMin false))
/-- VALU MAX. -/
def execValuMax (g : Nat) (i : Ins) (t : NTy) (s : State) : Host.Outcome State Fault Refusal := .next (s.elOp 0 g i t (fpTys ++ intTys) 2 (eMin true))
/-- VALU MINIMUM. -/
def execValuMinimum (g : Nat) (i : Ins) (t : NTy) (s : State) : Host.Outcome State Fault Refusal := .next (s.elOp 0 g i t fpTys 2 (eMinP false))
/-- VALU MAXIMUM. -/
def execValuMaximum (g : Nat) (i : Ins) (t : NTy) (s : State) : Host.Outcome State Fault Refusal := .next (s.elOp 0 g i t fpTys 2 (eMinP true))
/-- VALU FLOOR. -/
def execValuFloor (g : Nat) (i : Ins) (t : NTy) (s : State) : Host.Outcome State Fault Refusal := .next (s.elOp 0 g i t fpTys 1 (eIntegral 0))
/-- VALU CEIL. -/
def execValuCeil (g : Nat) (i : Ins) (t : NTy) (s : State) : Host.Outcome State Fault Refusal := .next (s.elOp 0 g i t fpTys 1 (eIntegral 1))
/-- VALU TRUNC. -/
def execValuTrunc (g : Nat) (i : Ins) (t : NTy) (s : State) : Host.Outcome State Fault Refusal := .next (s.elOp 0 g i t fpTys 1 (eIntegral 2))
/-- VALU RNDNE. -/
def execValuRndne (g : Nat) (i : Ins) (t : NTy) (s : State) : Host.Outcome State Fault Refusal := .next (s.elOp 0 g i t fpTys 1 (eIntegral 3))
/-- VALU FRACT. -/
def execValuFract (g : Nat) (i : Ins) (t : NTy) (s : State) : Host.Outcome State Fault Refusal := .next (s.elOp 0 g i t fpTys 1 eFract)

/-- LDEXP: SRC0 times 2 to the signed integer SRC1, an element for an element. -/
def State.ldexpOp (s : State) (cls : Nat) (g : Nat) (i : Ins) (t : NTy) (ts : List NTy) : State :=
  let srcs : List Opd := [⟨i.src0, .any, t.regW / 32⟩, ⟨i.src1, .any, 1⟩]
  s.vecOp cls g i t (!ts.contains t || litBad i srcs) srcs 0x3F (fun x l =>
    let k := x.src i .i32 32 i.src1 l
    if t.size = 16 then
      let one (j : Nat) : Res := t.fm.ldexp (x.elt i t 0 i.src0 l j) (toSigned 16 (modElt i 16 1 (bits k (16 * j) 16)))
      ((one 0).1 + (one 1).1 * 2 ^ 16, (one 0).2 ||| (one 1).2)
    else t.fm.ldexp (x.elt i t 0 i.src0 l 0) (toSigned 32 (modElt i 32 1 k)))

/-- VALU LDEXP. -/
def execValuLdexp (g : Nat) (i : Ins) (t : NTy) (s : State) : Host.Outcome State Fault Refusal := .next (s.ldexpOp 0 g i t fpTys)

/-- The significand in [1/2, 1) of a number, and its exponent; for a zero, infinity or NaN the exponent is the free number
`fr` (R250 names no value). -/
def frexpOf (f : Fmt) (w fr : Nat) : Nat × Int × Nat :=
  if f.isNaN w then (f.quiet w, toSigned 16 fr, f.snanFlag [w])
  else if f.isInf w || f.isZero w then (w, toSigned 16 fr, 0)
  else
    let v := f.val w
    let b := bitLen v.m.natAbs
    ((f.rnd { v with e := -(b : Int) }).1, v.e + b, 0)

/-- VALU FREXP: the significand to DST and the exponent, an INT32 or a pair of 16-bit integers, to DST + 1 (assumption
30). -/
def execValuFrexp (g : Nat) (i : Ins) (t : NTy) (s : State) : Host.Outcome State Fault Refusal :=
  let srcs : List Opd := [⟨i.src0, .any, 1⟩]
  .next (s.issue ⟨0, none⟩ g i false (⟨i.dst, .v, 2⟩ :: srcs) 0x3F true (fun _ => if !fpTys.contains t || litBad i srcs then some 1 else none)
    (fun s e =>
      let (fr, s) := s.free 13
      let rs := (e.grp.lanesOf i).map (fun l =>
        let a := frexpOf t.fm (e.grp.elt i t 0 i.src0 l 0) (fr / 2 ^ (32 * l))
        let b := frexpOf t.fm (e.grp.elt i t 0 i.src0 l 1) (fr / 2 ^ (32 * l + 16))
        if t.size = 16 then (l, a.1 + b.1 * 2 ^ 16, ofSigned 16 a.2.1 + ofSigned 16 b.2.1 * 2 ^ 16, a.2.2 ||| b.2.2)
        else (l, a.1, ofSigned 32 a.2.1, a.2.2))
      s.setGrp g (rs.foldl (fun x r => ((x.wv r.1 i.dst r.2.1).wv r.1 (i.dst + 1) r.2.2.1).fl r.2.2.2) e.grp)))

/-- VALU SEL: SRC0 in the lanes of the predicate SRC2, else SRC1 (assumption 30). -/
def execValuSel (g : Nat) (i : Ins) (t : NTy) (s : State) : Host.Outcome State Fault Refusal :=
  let srcs : List Opd := [⟨i.src0, .any, 1⟩, ⟨i.src1, .any, 1⟩]
  .next (s.vecOp 0 g i t (!(fpTys ++ intTys).contains t || litBad i srcs) (⟨i.src2, .p, 1⟩ :: srcs) 0x3F (fun x l =>
    let pick (j : Nat) : Nat := if bit (x.rp (i.src2 - 0x180)) l then x.elt i t 0 i.src0 l j else x.elt i t 1 i.src1 l j
    (if t.size = 16 then pick 0 + pick 1 * 2 ^ 16 else pick 0, 0)))

/-- VALU MUL.LO. -/
def execValuMulLo (g : Nat) (i : Ins) (t : NTy) (s : State) : Host.Outcome State Fault Refusal := .next (s.elOp 0 g i t intTys 2 eMulLo)
/-- VALU MUL.HI, signed or unsigned. -/
def execValuMulHi (g : Nat) (i : Ins) (t : NTy) (s : State) : Host.Outcome State Fault Refusal := .next (s.elOp 0 g i t intTys 2 eMulHi)
/-- VALU MAD.LO. -/
def execValuMadLo (g : Nat) (i : Ins) (t : NTy) (s : State) : Host.Outcome State Fault Refusal := .next (s.elOp 0 g i t intTys 3 eMadLo)
/-- VALU AND. -/
def execValuAnd (g : Nat) (i : Ins) (t : NTy) (s : State) : Host.Outcome State Fault Refusal := .next (s.elOp 0 g i t intTys 2 (eBit (· &&& ·)))
/-- VALU OR. -/
def execValuOr (g : Nat) (i : Ins) (t : NTy) (s : State) : Host.Outcome State Fault Refusal := .next (s.elOp 0 g i t intTys 2 (eBit (· ||| ·)))
/-- VALU XOR. -/
def execValuXor (g : Nat) (i : Ins) (t : NTy) (s : State) : Host.Outcome State Fault Refusal := .next (s.elOp 0 g i t intTys 2 (eBit (· ^^^ ·)))
/-- VALU NOT. -/
def execValuNot (g : Nat) (i : Ins) (t : NTy) (s : State) : Host.Outcome State Fault Refusal := .next (s.elOp 0 g i t intTys 1 eNot)
/-- VALU SHL. -/
def execValuShl (g : Nat) (i : Ins) (t : NTy) (s : State) : Host.Outcome State Fault Refusal := .next (s.elOp 0 g i t intTys 2 eShl)
/-- VALU SHR. -/
def execValuShr (g : Nat) (i : Ins) (t : NTy) (s : State) : Host.Outcome State Fault Refusal := .next (s.elOp 0 g i t intTys 2 eShr)
/-- VALU SAR. -/
def execValuSar (g : Nat) (i : Ins) (t : NTy) (s : State) : Host.Outcome State Fault Refusal := .next (s.elOp 0 g i t intTys 2 eSar)
/-- VALU BFE. -/
def execValuBfe (g : Nat) (i : Ins) (t : NTy) (s : State) : Host.Outcome State Fault Refusal := .next (s.elOp 0 g i t intTys 3 eBfe)
/-- VALU BFI. -/
def execValuBfi (g : Nat) (i : Ins) (t : NTy) (s : State) : Host.Outcome State Fault Refusal := .next (s.elOp 0 g i t intTys 3 eBfi)
/-- VALU POPC. -/
def execValuPopc (g : Nat) (i : Ins) (t : NTy) (s : State) : Host.Outcome State Fault Refusal := .next (s.elOp 0 g i t intTys 1 ePopc)
/-- VALU CLZ. -/
def execValuClz (g : Nat) (i : Ins) (t : NTy) (s : State) : Host.Outcome State Fault Refusal := .next (s.elOp 0 g i t intTys 1 eClz)
/-- VALU CTZ. -/
def execValuCtz (g : Nat) (i : Ins) (t : NTy) (s : State) : Host.Outcome State Fault Refusal := .next (s.elOp 0 g i t intTys 1 eCtz)
/-- VALU BREV. -/
def execValuBrev (g : Nat) (i : Ins) (t : NTy) (s : State) : Host.Outcome State Fault Refusal := .next (s.elOp 0 g i t intTys 1 eBrev)

/-- DOT4: four INT8 or UINT8 products added to INT32, modulo 2^32 (R250). -/
def execValuDot4 (g : Nat) (i : Ins) (t : NTy) (s : State) : Host.Outcome State Fault Refusal :=
  let srcs : List Opd := [⟨i.src0, .any, 1⟩, ⟨i.src1, .any, 1⟩, ⟨i.src2, .any, 1⟩]
  .next (s.vecOp 0 g i .i32 (!(t == .i8 || t == .u8) || litBad i srcs) srcs 0x3F (fun x l =>
    let a := x.elt i .i32 0 i.src0 l 0
    let b := x.elt i .i32 1 i.src1 l 0
    let c : Int := (x.elt i .i32 2 i.src2 l 0 : Nat)
    (ofSigned 32 ((List.range 4).foldl (fun r k => r + t.int (bits a (8 * k) 8) * t.int (bits b (8 * k) 8)) c), 0)))

/-- VALU MOV. -/
def execValuMov (g : Nat) (i : Ins) (s : State) : Host.Outcome State Fault Refusal :=
  .next (s.elOp 0 g i .u32 [.u32] 1 (fun _ a _ _ => (a, 0)))

/-- The value of source `k` in a lane that may not exist, modified (R250, R256): a lane that does not exist supplies 0. -/
def Grp.eltx (x : Grp) (i : Ins) (k code l : Nat) : Nat := modElt i 32 k (if bit x.lanes l then x.src i .u32 32 code l else 0)

/-- VALU PERM (R256). -/
def execValuPerm (g : Nat) (i : Ins) (s : State) : Host.Outcome State Fault Refusal :=
  let srcs : List Opd := [⟨i.src0, .any, 1⟩, ⟨i.src1, .any, 1⟩]
  .next (s.vecOp 0 g i .u32 (litBad i srcs) srcs 0x3F (fun x l => (x.eltx i 0 i.src0 (x.elt i .u32 1 i.src1 l 0 % 32), 0)))

/-- VALU READLANE (R256). -/
def execValuReadlane (g : Nat) (i : Ins) (s : State) : Host.Outcome State Fault Refusal :=
  let srcs : List Opd := [⟨i.src0, .v, 1⟩, ⟨i.src1, .sc, 1⟩]
  .next (s.issue ⟨0, none⟩ g i false (⟨i.dst, .s, 1⟩ :: srcs) 0x3F true (fun _ => if litBad i srcs then some 1 else none)
    (fun s e => s.updGrp g (fun x => x.ws (i.dst - 0x100) (e.grp.eltx i 0 i.src0 (e.grp.elt i .u32 1 i.src1 0 0 % 32)))))

/-- VALU WRITELANE (R256): one named lane, whatever EXEC holds. -/
def execValuWritelane (g : Nat) (i : Ins) (s : State) : Host.Outcome State Fault Refusal :=
  let srcs : List Opd := [⟨i.src0, .sc, 1⟩, ⟨i.src1, .sc, 1⟩]
  .next (s.issue ⟨0, none⟩ g i false (⟨i.dst, .v, 1⟩ :: srcs) 0x3F true (fun _ => if litBad i srcs then some 1 else none)
    (fun s e =>
      let l := e.grp.elt i .u32 1 i.src1 0 0 % 32
      s.updGrp g (fun x => if bit x.lanes l then x.wv l i.dst (e.grp.elt i .u32 0 i.src0 0 0) else x)))

/-- VALU BCAST (R256): the value of the lowest active lane, or of lane 0. -/
def execValuBcast (g : Nat) (i : Ins) (s : State) : Host.Outcome State Fault Refusal :=
  let srcs : List Opd := [⟨i.src0, .any, 1⟩]
  .next (s.vecOp 0 g i .u32 (litBad i srcs) srcs 0x3F (fun x _ => (x.eltx i 0 i.src0 ((x.lanesOf i).headD 0), 0)))

/-! ### VALU64 -/

def i64Tys : List NTy := [.i64, .u64]

/-- VALU64 ADD. -/
def execValu64Add (g : Nat) (i : Ins) (t : NTy) (s : State) : Host.Outcome State Fault Refusal := .next (s.elOp 1 g i t (.f64 :: i64Tys) 2 eAdd)
/-- VALU64 SUB. -/
def execValu64Sub (g : Nat) (i : Ins) (t : NTy) (s : State) : Host.Outcome State Fault Refusal := .next (s.elOp 1 g i t i64Tys 2 eSub)
/-- VALU64 MUL. -/
def execValu64Mul (g : Nat) (i : Ins) (s : State) : Host.Outcome State Fault Refusal := .next (s.elOp 1 g i .f64 [.f64] 2 eMul)
/-- VALU64 FMA. -/
def execValu64Fma (g : Nat) (i : Ins) (s : State) : Host.Outcome State Fault Refusal := .next (s.elOp 1 g i .f64 [.f64] 3 eFma)
/-- VALU64 MIN. -/
def execValu64Min (g : Nat) (i : Ins) (s : State) : Host.Outcome State Fault Refusal := .next (s.elOp 1 g i .f64 [.f64] 2 (eMin false))
/-- VALU64 MAX. -/
def execValu64Max (g : Nat) (i : Ins) (s : State) : Host.Outcome State Fault Refusal := .next (s.elOp 1 g i .f64 [.f64] 2 (eMin true))
/-- VALU64 MINIMUM. -/
def execValu64Minimum (g : Nat) (i : Ins) (s : State) : Host.Outcome State Fault Refusal := .next (s.elOp 1 g i .f64 [.f64] 2 (eMinP false))
/-- VALU64 MAXIMUM. -/
def execValu64Maximum (g : Nat) (i : Ins) (s : State) : Host.Outcome State Fault Refusal := .next (s.elOp 1 g i .f64 [.f64] 2 (eMinP true))
/-- VALU64 FLOOR. -/
def execValu64Floor (g : Nat) (i : Ins) (s : State) : Host.Outcome State Fault Refusal := .next (s.elOp 1 g i .f64 [.f64] 1 (eIntegral 0))
/-- VALU64 CEIL. -/
def execValu64Ceil (g : Nat) (i : Ins) (s : State) : Host.Outcome State Fault Refusal := .next (s.elOp 1 g i .f64 [.f64] 1 (eIntegral 1))
/-- VALU64 TRUNC. -/
def execValu64Trunc (g : Nat) (i : Ins) (s : State) : Host.Outcome State Fault Refusal := .next (s.elOp 1 g i .f64 [.f64] 1 (eIntegral 2))
/-- VALU64 RNDNE. -/
def execValu64Rndne (g : Nat) (i : Ins) (s : State) : Host.Outcome State Fault Refusal := .next (s.elOp 1 g i .f64 [.f64] 1 (eIntegral 3))
/-- VALU64 FRACT. -/
def execValu64Fract (g : Nat) (i : Ins) (s : State) : Host.Outcome State Fault Refusal := .next (s.elOp 1 g i .f64 [.f64] 1 eFract)
/-- VALU64 LDEXP. -/
def execValu64Ldexp (g : Nat) (i : Ins) (s : State) : Host.Outcome State Fault Refusal := .next (s.ldexpOp 1 g i .f64 [.f64])
/-- VALU64 AND. -/
def execValu64And (g : Nat) (i : Ins) (s : State) : Host.Outcome State Fault Refusal := .next (s.elOp 1 g i .u64 [.u64] 2 (eBit (· &&& ·)))
/-- VALU64 OR. -/
def execValu64Or (g : Nat) (i : Ins) (s : State) : Host.Outcome State Fault Refusal := .next (s.elOp 1 g i .u64 [.u64] 2 (eBit (· ||| ·)))
/-- VALU64 XOR. -/
def execValu64Xor (g : Nat) (i : Ins) (s : State) : Host.Outcome State Fault Refusal := .next (s.elOp 1 g i .u64 [.u64] 2 (eBit (· ^^^ ·)))

/-- A 64-bit shift; the count is the 32-bit SRC1. -/
def State.shift64 (s : State) (g : Nat) (i : Ins) (f : NTy → Nat → Nat → Nat → Res) : State :=
  let srcs : List Opd := [⟨i.src0, .any, 2⟩, ⟨i.src1, .any, 1⟩]
  s.vecOp 1 g i .u64 (litBad i srcs) srcs 0x3F (fun x l => f .u64 (x.elt i .u64 0 i.src0 l 0) (x.elt i .u32 1 i.src1 l 0) 0)

/-- VALU64 SHL. -/
def execValu64Shl (g : Nat) (i : Ins) (s : State) : Host.Outcome State Fault Refusal := .next (s.shift64 g i eShl)
/-- VALU64 SHR. -/
def execValu64Shr (g : Nat) (i : Ins) (s : State) : Host.Outcome State Fault Refusal := .next (s.shift64 g i eShr)
/-- VALU64 SAR. -/
def execValu64Sar (g : Nat) (i : Ins) (s : State) : Host.Outcome State Fault Refusal := .next (s.shift64 g i eSar)
/-- VALU64 MUL.LO. -/
def execValu64MulLo (g : Nat) (i : Ins) (s : State) : Host.Outcome State Fault Refusal := .next (s.elOp 1 g i .u64 [.u64] 2 eMulLo)

/-! ### VCMP (R257) -/

/-- A comparison of a type: its result and flags. -/
abbrev Cmp := NTy → Nat → Nat → Bool × Nat

/-- NV of a compare: a signalling NaN, or in the signalling form any NaN (R250). -/
def cmpNv (sig : Bool) (f : Fmt) (a b : Nat) : Nat :=
  if f.isSNaN a || f.isSNaN b || (sig && (f.isNaN a || f.isNaN b)) then flNV else 0

/-- A compare of two elements: `lt`, `eq`, `gt`, and `un` name the relations under which it holds. -/
def cmpRel (sig lt eq gt un : Bool) (t : NTy) (a b : Nat) : Bool × Nat :=
  if t.isInt then
    (if t.int a < t.int b then lt else if t.int a = t.int b then eq else gt, 0)
  else
    let f := t.fm
    if f.isNaN a || f.isNaN b then (un, cmpNv sig f a b)
    else (if f.ltv a b then lt else if f.ltv b a then gt else eq, 0)

def cmpTys : List NTy := [.f64, .f32, .f16, .i32, .i64]

/-- A compare into a predicate: lanes that are not active get 0. FP16 compares the low elements (assumption 30). -/
def State.vcmp (s : State) (g : Nat) (i : Ins) (t : NTy) (ts : List NTy) (w1 : Nat) (f : Grp → Nat → Bool × Nat) : State :=
  let srcs : List Opd := [⟨i.src0, .any, t.regW / 32⟩, ⟨i.src1, .any, w1⟩]
  s.issue ⟨2, none⟩ g i false (⟨i.dst, .p, 1⟩ :: srcs) 0x3F true (fun _ => if !ts.contains t || litBad i srcs then some 1 else none)
    (fun s e =>
      let rs := (e.grp.lanesOf i).map (fun l => (l, f e.grp l))
      s.setGrp g ((e.grp.wp (i.dst - 0x180) (rs.foldl (fun m r => setBit m r.1 r.2.1) 0)).fl (rs.foldl (fun m r => m ||| r.2.2) 0)))

/-- A relational compare. -/
def State.vrel (s : State) (g : Nat) (i : Ins) (t : NTy) (ts : List NTy) (sig lt eq gt un : Bool) : State :=
  s.vcmp g i t ts (t.regW / 32) (fun x l => cmpRel sig lt eq gt un t (x.elt i t 0 i.src0 l 0) (x.elt i t 1 i.src1 l 0))

/-- VCMP EQ. -/
def execVcmpEq (g : Nat) (i : Ins) (t : NTy) (sig : Bool) (s : State) : Host.Outcome State Fault Refusal := .next (s.vrel g i t cmpTys sig false true false false)
/-- VCMP NE. -/
def execVcmpNe (g : Nat) (i : Ins) (t : NTy) (sig : Bool) (s : State) : Host.Outcome State Fault Refusal := .next (s.vrel g i t cmpTys sig true false true true)
/-- VCMP LT. -/
def execVcmpLt (g : Nat) (i : Ins) (t : NTy) (sig : Bool) (s : State) : Host.Outcome State Fault Refusal := .next (s.vrel g i t cmpTys sig true false false false)
/-- VCMP LE. -/
def execVcmpLe (g : Nat) (i : Ins) (t : NTy) (sig : Bool) (s : State) : Host.Outcome State Fault Refusal := .next (s.vrel g i t cmpTys sig true true false false)
/-- VCMP GT. -/
def execVcmpGt (g : Nat) (i : Ins) (t : NTy) (sig : Bool) (s : State) : Host.Outcome State Fault Refusal := .next (s.vrel g i t cmpTys sig false false true false)
/-- VCMP GE. -/
def execVcmpGe (g : Nat) (i : Ins) (t : NTy) (sig : Bool) (s : State) : Host.Outcome State Fault Refusal := .next (s.vrel g i t cmpTys sig false true true false)
/-- VCMP ORD. -/
def execVcmpOrd (g : Nat) (i : Ins) (t : NTy) (sig : Bool) (s : State) : Host.Outcome State Fault Refusal := .next (s.vrel g i t [.f64, .f32, .f16] sig true true true false)
/-- VCMP UNORD. -/
def execVcmpUnord (g : Nat) (i : Ins) (t : NTy) (sig : Bool) (s : State) : Host.Outcome State Fault Refusal := .next (s.vrel g i t [.f64, .f32, .f16] sig false false false true)

/-- The class of a code, in the order of IEEE 754-2019: signalling and quiet NaN, then from minus infinity to plus
infinity (assumption 30). -/
def classOf (f : Fmt) (w : Nat) : Nat :=
  if f.isSNaN w then 0 else if f.isNaN w then 1
  else
    let k := if f.isInf w then 3 else if f.isZero w then 0 else if f.expo w = 0 then 1 else 2
    if f.sign w then 5 - k else 6 + k

/-- VCMP CLASS: the class of SRC0 is one that the mask SRC1 names; it sets no flag. -/
def execVcmpClass (g : Nat) (i : Ins) (t : NTy) (s : State) : Host.Outcome State Fault Refusal :=
  .next (s.vcmp g i t [.f64, .f32, .f16] 1 (fun x l => (bit (x.src i .u32 32 i.src1 l) (classOf t.fm (x.elt i t 0 i.src0 l 0)), 0)))

/-! ### CVT (R252, R262, R266 to R268) -/

/-- Elements that one conversion moves: as many as fill a register of the narrower type (R262; assumption 31). -/
def cvtElts (a b : NTy) : Nat := max 1 (max (32 / a.size) (32 / b.size))

/-- Registers that `n` elements of a type take. -/
def cvtRegs (t : NTy) (n : Nat) : Nat := n * t.size / 32

/-- Element `j` of a run of registers of a lane, through a source operand. -/
def Grp.cvtElt (x : Grp) (i : Ins) (t : NTy) (lane j : Nat) : Nat :=
  if t.size = 64 then x.src i t 64 (if i.src0 < 0x180 then i.src0 + 2 * j else i.src0) lane
  else
    let per := 32 / t.size
    bits (x.src i t 32 (if i.src0 < 0x180 then i.src0 + j / per else i.src0) lane) (t.size * (j % per)) t.size

/-- The pairs of types that CVT converts (R250). -/
def cvtOk (a b : NTy) : Bool :=
  a != b && !(a == .u8 || a == .u32 || a == .u64 || b == .u8 || b == .u32 || b == .u64) && !(a.isInt && b.isInt)

/-- CVT (R252, R266). -/
def execCvt (g : Nat) (i : Ins) (a b : NTy) (s : State) : Host.Outcome State Fault Refusal :=
  let n := cvtElts a b
  let srcs : List Opd := [⟨i.src0, .any, cvtRegs a n⟩]
  .next (s.issue ⟨3, none⟩ g i false (⟨i.dst, .v, cvtRegs b n⟩ :: srcs) 0 true (fun _ => if !cvtOk a b || litBad i srcs then some 1 else none)
    (fun s e =>
      let lane (x : Grp) (l : Nat) : Grp :=
        let rs := (List.range n).map (fun j => convert a b (e.grp.cvtElt i a l j))
        let x := x.fl (rs.foldl (fun m r => m ||| r.2) 0)
        let all := (List.range n).foldl (fun v j => v + (rs.getD j (0, 0)).1 * 2 ^ (b.size * j)) 0
        (List.range (cvtRegs b n)).foldl (fun x k => x.wv l (i.dst + k) (bits all (32 * k) 32)) x
      s.setGrp g ((e.grp.lanesOf i).foldl lane e.grp)))

/-! ### SFU (R253) -/

/-- An SFU operation on FP32, a pair of FP16, or an FP64 seed. -/
def State.sfuOp (s : State) (g : Nat) (i : Ins) (t : NTy) (ts : List NTy) (op : Sfu) : State :=
  s.elOp 4 g i t ts 1 (fun t a _ _ => t.fm.sfu op a)

/-- SFU RCP. -/
def execSfuRcp (g : Nat) (i : Ins) (t : NTy) (s : State) : Host.Outcome State Fault Refusal := .next (s.sfuOp g i t [.f32, .f16, .f64] .rcp)
/-- SFU RSQ. -/
def execSfuRsq (g : Nat) (i : Ins) (t : NTy) (s : State) : Host.Outcome State Fault Refusal := .next (s.sfuOp g i t [.f32, .f16, .f64] .rsq)
/-- SFU SQRT. -/
def execSfuSqrt (g : Nat) (i : Ins) (t : NTy) (s : State) : Host.Outcome State Fault Refusal := .next (s.sfuOp g i t fpTys .sqrt)
/-- SFU EXP2. -/
def execSfuExp2 (g : Nat) (i : Ins) (t : NTy) (s : State) : Host.Outcome State Fault Refusal := .next (s.sfuOp g i t fpTys .exp2)
/-- SFU LOG2. -/
def execSfuLog2 (g : Nat) (i : Ins) (t : NTy) (s : State) : Host.Outcome State Fault Refusal := .next (s.sfuOp g i t fpTys .log2)
/-- SFU SIN. -/
def execSfuSin (g : Nat) (i : Ins) (t : NTy) (s : State) : Host.Outcome State Fault Refusal := .next (s.sfuOp g i t fpTys .sin)
/-- SFU COS. -/
def execSfuCos (g : Nat) (i : Ins) (t : NTy) (s : State) : Host.Outcome State Fault Refusal := .next (s.sfuOp g i t fpTys .cos)

/-! ### SALU (R250) -/

/-- The scalar integer types. -/
def sTys : List NTy := [.i32, .u32, .i64, .u64]

/-- A scalar operation of `ns` sources on a type; the destination is of type `d`. -/
def State.salu (s : State) (g : Nat) (i : Ins) (t d : NTy) (ns : Nat) (w1 : Nat) (f : Nat → Nat → Nat → Nat) : State :=
  let n := t.regW / 32
  let srcs := ([⟨i.src0, .any, n⟩, ⟨i.src1, .any, w1⟩, ⟨i.src2, .any, 1⟩] : List Opd).take ns
  s.issue ⟨5, none⟩ g i true (⟨i.dst, .dst, d.regW / 32⟩ :: srcs) 0 true (fun _ => if !sTys.contains t || litBad i srcs then some 1 else none)
    (fun s e =>
      let x := e.grp
      let r := f (x.src i t t.regW i.src0 0) (if ns > 1 then x.src i t (32 * w1) i.src1 0 else 0) (if ns > 2 then x.src i .u32 32 i.src2 0 else 0)
      s.setGrp g (x.dst d.regW i.dst 0 r))

/-- A two-source scalar operation by its element function. -/
def State.salu2 (s : State) (g : Nat) (i : Ins) (t : NTy) (f : NTy → Nat → Nat → Nat → Res) : State :=
  s.salu g i t t 2 (t.regW / 32) (fun a b _ => (f t a b 0).1)

/-- SALU ADD. -/
def execSaluAdd (g : Nat) (i : Ins) (t : NTy) (s : State) : Host.Outcome State Fault Refusal := .next (s.salu2 g i t eAdd)
/-- SALU SUB. -/
def execSaluSub (g : Nat) (i : Ins) (t : NTy) (s : State) : Host.Outcome State Fault Refusal := .next (s.salu2 g i t eSub)
/-- SALU MUL.LO. -/
def execSaluMulLo (g : Nat) (i : Ins) (t : NTy) (s : State) : Host.Outcome State Fault Refusal := .next (s.salu2 g i t eMulLo)
/-- SALU AND. -/
def execSaluAnd (g : Nat) (i : Ins) (t : NTy) (s : State) : Host.Outcome State Fault Refusal := .next (s.salu2 g i t (eBit (· &&& ·)))
/-- SALU OR. -/
def execSaluOr (g : Nat) (i : Ins) (t : NTy) (s : State) : Host.Outcome State Fault Refusal := .next (s.salu2 g i t (eBit (· ||| ·)))
/-- SALU XOR. -/
def execSaluXor (g : Nat) (i : Ins) (t : NTy) (s : State) : Host.Outcome State Fault Refusal := .next (s.salu2 g i t (eBit (· ^^^ ·)))
/-- SALU NOT. -/
def execSaluNot (g : Nat) (i : Ins) (t : NTy) (s : State) : Host.Outcome State Fault Refusal :=
  .next (s.salu g i t t 1 1 (fun a _ _ => (eNot t a 0 0).1))
/-- SALU SHL: the count is 32 bits. -/
def execSaluShl (g : Nat) (i : Ins) (t : NTy) (s : State) : Host.Outcome State Fault Refusal := .next (s.salu g i t t 2 1 (fun a b _ => (eShl t a b 0).1))
/-- SALU SHR. -/
def execSaluShr (g : Nat) (i : Ins) (t : NTy) (s : State) : Host.Outcome State Fault Refusal := .next (s.salu g i t t 2 1 (fun a b _ => (eShr t a b 0).1))
/-- SALU SAR. -/
def execSaluSar (g : Nat) (i : Ins) (t : NTy) (s : State) : Host.Outcome State Fault Refusal := .next (s.salu g i t t 2 1 (fun a b _ => (eSar t a b 0).1))
/-- SALU MIN. -/
def execSaluMin (g : Nat) (i : Ins) (t : NTy) (s : State) : Host.Outcome State Fault Refusal := .next (s.salu2 g i t (eMin false))
/-- SALU MAX. -/
def execSaluMax (g : Nat) (i : Ins) (t : NTy) (s : State) : Host.Outcome State Fault Refusal := .next (s.salu2 g i t (eMin true))

/-- SALU CMP: 0 or 1; the condition holds below, at or above equality as its three flags say. -/
def execSaluCmp (g : Nat) (i : Ins) (t : NTy) (lt eq gt : Bool) (s : State) : Host.Outcome State Fault Refusal :=
  .next (s.salu g i t .u32 2 (t.regW / 32) (fun a b _ => b2n (cmpRel false lt eq gt false t a b).1))

/-- SALU MOV. -/
def execSaluMov (g : Nat) (i : Ins) (t : NTy) (s : State) : Host.Outcome State Fault Refusal := .next (s.salu g i t t 1 1 (fun a _ _ => a))

/-- SALU CSEL: SRC0 where SRC2 is not 0, else SRC1 (assumption 30). -/
def execSaluCsel (g : Nat) (i : Ins) (t : NTy) (s : State) : Host.Outcome State Fault Refusal :=
  .next (s.salu g i t t 3 (t.regW / 32) (fun a b c => if c ≠ 0 then a else b))

/-- SALU PMOV: a predicate to a scalar register, or a scalar to a predicate (R257). -/
def execSaluPmov (g : Nat) (i : Ins) (s : State) : Host.Outcome State Fault Refusal :=
  let toP := 0x180 ≤ i.dst && i.dst < 0x188
  .next (s.issue ⟨5, none⟩ g i true [⟨i.dst, if toP then .p else .s, 1⟩, ⟨i.src0, if toP then .s else .p, 1⟩] 0 true
    (fun _ => if i.x ≠ 0 then some 1 else none)
    (fun s e => s.updGrp g (fun x => x.dst 32 i.dst 0 (e.grp.src i .u32 32 i.src0 0))))

end Sys2Proof.Machine
end

