-- ==== Sys2Proof/Machine/Textures.lean ====
section
/-! DEFINITION. The image and tile instructions (R388). Steps that the spec leaves to Vulkan 1.3 follow it, and places of
operands that it does not give are a choice (assumption 43). -/

namespace Sys2Proof.Machine

/-- An image descriptor: its 32 bytes, from eight scalar registers. -/
structure Img where
  b : List Byte

namespace Img
def va (m : Img) : Nat := field m.b 0 8
def w (m : Img) : Nat := field m.b 8 2
def h (m : Img) : Nat := field m.b 10 2
def d (m : Img) : Nat := field m.b 12 2
def mips (m : Img) : Nat := field m.b 14 1
def fmt (m : Img) : Nat := field m.b 15 1
/-- 0 1D, 1 2D, 2 3D, 3 cube, 4 2D array. -/
def typ (m : Img) : Nat := field m.b 16 1
/-- Sizes at level `l`. -/
def wl (m : Img) (l : Nat) : Nat := max 1 (m.w / 2 ^ l)
def hl (m : Img) (l : Nat) : Nat := if m.typ = 0 then 1 else max 1 (m.h / 2 ^ l)
def dl (m : Img) (l : Nat) : Nat := if m.typ = 2 then max 1 (m.d / 2 ^ l) else if m.typ = 3 then 6 else if m.typ = 4 then m.d else 1
def bpp (m : Img) : Nat := fmtBpp m.fmt
def pitch (m : Img) (l : Nat) : Nat := (m.wl l * m.bpp + 127) / 128 * 128
/-- Where level `l` starts. -/
def level (m : Img) (l : Nat) : Nat := (List.range l).foldl (fun a k => a + m.pitch k * m.hl k * m.dl k) m.va
/-- The address of a texel. -/
def addr (m : Img) (l x y s : Nat) : Nat := m.level l + (s * m.hl l + y) * m.pitch l + x * m.bpp
/-- Coordinates that an instruction takes. -/
def coords (m : Img) : Nat := if m.typ = 0 then 1 else if m.typ = 1 then 2 else 3
/-- The descriptor is in range (R388). -/
def ok (m : Img) : Bool :=
  (fmtColor m.fmt || fmtDepth m.fmt) && m.typ ≤ 4 && 1 ≤ m.mips && m.mips ≤ 15 && m.w != 0 && m.h != 0 && m.d != 0 &&
  (m.b.drop 17).all (· == 0)
end Img

/-- A sampler descriptor: its 16 bytes. -/
structure Smp where
  b : List Byte

namespace Smp
def w0 (p : Smp) : Nat := field p.b 0 4
def mag (p : Smp) : Nat := bits p.w0 0 2
def min (p : Smp) : Nat := bits p.w0 2 2
def mip (p : Smp) : Nat := bits p.w0 4 2
/-- The address mode of coordinate `k`. -/
def mode (p : Smp) (k : Nat) : Nat := bits p.w0 (6 + 3 * k) 3
def cmpEn (p : Smp) : Bool := bit p.w0 15
def cmp (p : Smp) : Nat := bits p.w0 16 3
def border (p : Smp) : Nat := bits p.w0 19 2
def aniso (p : Smp) : Nat := bits p.w0 21 3
/-- LOD bias, minimum and maximum, in 1/256. -/
def bias (p : Smp) : Int := toSigned 16 (field p.b 4 2)
def minLod (p : Smp) : Int := (field p.b 6 2 : Nat)
def maxLod (p : Smp) : Int := (field p.b 8 2 : Nat)
/-- The descriptor is in range (R388). -/
def ok (p : Smp) : Bool :=
  p.mag ≤ 1 && p.min ≤ 1 && p.mip ≤ 1 && p.mode 0 ≤ 4 && p.mode 1 ≤ 4 && p.mode 2 ≤ 4 && p.border ≤ 2 && p.aniso ≤ 4 &&
  bits p.w0 24 8 == 0 && field p.b 10 6 == 0
end Smp

/-! ### Coordinates -/

/-- A texel number under an address mode (VkSamplerAddressMode); none for the border. -/
def wrapTexel (mode : Nat) (n : Nat) (i : Int) : Option Nat :=
  let N : Int := n
  let mir (j : Int) : Int := if j ≥ 0 then j else -(1 + j)
  if mode = 0 then some (i % N).toNat
  else if mode = 1 then some ((N - 1) - mir (i % (2 * N) - N)).toNat
  else if mode = 2 then some (max 0 (min (N - 1) i)).toNat
  else if mode = 3 then (if 0 ≤ i ∧ i < N then some i.toNat else none)
  else some (max 0 (min (N - 1) (mir i))).toNat

/-- An FP32 coordinate scaled to texels; a special operand reads as 0. -/
def scaled (w n : Nat) : Rat := if finite32 w then ratOf w * (n : Rat) else 0

/-- The texels and weights of a coordinate: nearest, or two neighbours with the weight of the second in 1/256. -/
def footprint (lin : Bool) (q : Rat) : Int × Nat :=
  if lin then
    let v := q - 1 / 2
    let f := v.floor
    let a := (((v - f) * 256 + 1 / 2).floor).toNat
    if a = 256 then (f + 1, 0) else (f, a)
  else (q.floor, 0)

/-- The face of a cube direction and its coordinates there in [0, 1] (the table of Vulkan 1.3). -/
def cubeFace (x y z : Rat) : Nat × Rat × Rat :=
  let ab (q : Rat) : Rat := if q < 0 then -q else q
  let (f, s, t, m) :=
    if ab z ≥ ab x ∧ ab z ≥ ab y then (if z ≥ 0 then (4, x, -y, ab z) else (5, -x, -y, ab z))
    else if ab y ≥ ab x then (if y ≥ 0 then (2, x, z, ab y) else (3, x, -z, ab y))
    else (if x ≥ 0 then (0, -z, -y, ab x) else (1, z, -y, ab x))
  if m = 0 then (f, 1 / 2, 1 / 2) else (f, (s / m + 1) / 2, (t / m + 1) / 2)

/-- The direction of a place on a cube face. -/
def cubeDir (f : Nat) (s t : Rat) : Rat × Rat × Rat :=
  let u := 2 * s - 1
  let v := 2 * t - 1
  if f = 0 then (1, -v, -u) else if f = 1 then (-1, -v, u) else if f = 2 then (u, 1, v) else if f = 3 then (u, -1, -v)
  else if f = 4 then (u, -v, 1) else (-u, -v, -1)

/-- A texel of a cube face that may lie beyond its edge: the texel of the neighbouring face there. -/
def cubeTexel (n f : Nat) (i j : Int) : Nat × Nat × Nat :=
  let inside (k : Int) : Bool := 0 ≤ k && k < n
  if inside i && inside j then (f, i.toNat, j.toNat)
  else
    let c (k : Int) : Rat := ((k : Rat) + 1 / 2) / (n : Rat)
    let (x, y, z) := cubeDir f (c i) (c j)
    let (g, s, t) := cubeFace x y z
    let k (q : Rat) : Nat := min (n - 1) ((q * (n : Rat)).floor.toNat)
    (g, k s, k t)

/-! ### Reading texels -/

/-- Read a texel through the core; none after a fault. -/
def State.texel (s : State) (e : GEnv) (m : Img) (l x y sl : Nat) : State × Option (List Nat) :=
  match s.coreRead e.grp.ctx (coreOf e.id) (m.addr l x y sl) m.bpp with
  | (s, _, some d) => (s, some (texDec m.fmt (ofBytes d)))
  | (s, _, none) => (s, none)

/-- The border colour of a sampler. -/
def Smp.borderColor (p : Smp) (f : Nat) : List Nat :=
  let o := if fmtInt f then 1 else one32
  if p.border = 0 then [0, 0, 0, 0] else if p.border = 1 then [0, 0, 0, o] else [o, o, o, o]

/-- A wanted texel: level, place and slice, or the border; and its weight in 1/2^24. -/
structure Tap where
  l : Nat
  at_ : Option (Nat × Nat × Nat)
  wt : Nat

/-- The taps of a level at coordinates (R388). -/
def tapsOf (m : Img) (p : Smp) (lin : Bool) (l : Nat) (c : List Nat) : List Tap :=
  let u := c.getD 0 0
  let v := c.getD 1 0
  let r := c.getD 2 0
  if m.typ = 3 then
    let q (w : Nat) : Rat := if finite32 w then ratOf w else 0
    let (f, s, t) := cubeFace (q u) (q v) (q r)
    let n := m.wl l
    let (i, a) := footprint lin (s * n)
    let (j, b) := footprint lin (t * n)
    let tap (di dj wt : Nat) : Tap :=
      let (g, x, y) := cubeTexel n f (i + di) (j + dj)
      { l := l, at_ := some (x, y, g), wt := wt * 256 }
    if lin then [tap 0 0 ((256 - a) * (256 - b)), tap 1 0 (a * (256 - b)), tap 0 1 ((256 - a) * b), tap 1 1 (a * b)]
    else [{ tap 0 0 0 with wt := 2 ^ 24 }]
  else
    let x := footprint lin (scaled u (m.wl l))
    let y := if m.typ = 0 then (0, 0) else footprint lin (scaled v (m.hl l))
    let z := if m.typ = 2 then footprint lin (scaled r (m.dl l))
      else if m.typ = 4 then (max 0 (min ((m.d : Int) - 1) ((scaled r 1 + 1 / 2).floor)), 0) else (0, 0)
    let both (k : Int × Nat) : List (Int × Nat) := if k.2 = 0 then [(k.1, 256)] else [(k.1, 256 - k.2), (k.1 + 1, k.2)]
    (both z).flatMap (fun zz => (both y).flatMap (fun yy => (both x).map (fun xx =>
      let at_ := match wrapTexel (p.mode 0) (m.wl l) xx.1, (if m.typ = 0 then some 0 else wrapTexel (p.mode 1) (m.hl l) yy.1),
          (if m.typ = 2 then wrapTexel (p.mode 2) (m.dl l) zz.1 else some zz.1.toNat) with
        | some i, some j, some k => some (i, j, k)
        | _, _, _ => none
      { l := l, at_ := at_, wt := xx.2 * yy.2 * zz.2 })))

/-- Read taps in turn. -/
def State.readTaps (e : GEnv) (m : Img) (p : Smp) : List Tap → State → List (List Nat × Nat) → State × Option (List (List Nat × Nat))
  | [], s, acc => (s, some acc)
  | t :: r, s, acc => match t.at_ with
    | none => State.readTaps e m p r s (acc ++ [(p.borderColor m.fmt, t.wt)])
    | some (x, y, z) =>
      if t.l ≥ m.mips then State.readTaps e m p r s (acc ++ [([0, 0, 0, 0], t.wt)])
      else match s.texel e m t.l x y z with
        | (s, some v) => State.readTaps e m p r s (acc ++ [(v, t.wt)])
        | (s, none) => (s, none)

/-- The comparison of a texel with the reference (compare samplers). -/
def Smp.compare (p : Smp) (ref : Nat) (v : List Nat) : List Nat :=
  if !p.cmpEn then v
  else
    let d := v.getD 0 0
    let un := fp32.isNaN ref || fp32.isNaN d
    let ok := if un then p.cmp == 5 || p.cmp == 7 else cmpOp p.cmp (fp32.ltv ref d) (!fp32.ltv ref d && !fp32.ltv d ref)
    [if ok then one32 else 0, 0, 0, one32]

/-- The weighted sum of taps of one component, rounded once to FP32; the weights come to `tot`. -/
def weigh (f : Nat) (tot : Nat) (l : List (List Nat × Nat)) (k : Nat) : Nat :=
  let ws := l.filter (fun t => t.2 != 0)
  if fmtInt f then ((ws.head?.map (·.1)).getD []).getD k 0
  else match ws with
    | [t] => t.1.getD k 0
    | _ =>
      if ws.all (fun t => finite32 (t.1.getD k 0)) then
        ratRnd ((ws.foldl (fun (a : Rat) t => a + ratOf (t.1.getD k 0) * (t.2 : Rat)) 0) / (tot : Rat))
      else ws.foldl (fun a t => (fp32.fma (t.1.getD k 0) (ratRnd ((t.2 : Rat) / (tot : Rat))) a).1) 0

/-! ### Level of detail -/

/-- Squared lengths of the footprint along x and y in texels of level 0, from the lanes of a quad. -/
def gradients (m : Img) (c : Nat → List Nat) (lane : Nat) : Rat × Rat :=
  let base := lane / 4 * 4
  let d (dest : Nat) : Rat :=
    (List.range (if m.typ = 4 then 2 else m.coords)).foldl (fun (a : Rat) k =>
      let n := if m.typ = 3 then m.w / 2 else if k = 0 then m.w else if k = 1 then m.h else m.d
      let q := scaled ((c dest).getD k 0) n - scaled ((c base).getD k 0) n
      a + q * q) 0
  (d (base + 1), d (base + 2))

/-- log2 of the square root of a positive value, in 1/256. -/
def halfLog (q : Rat) : Int :=
  if q ≤ 0 then -65536
  else
    let l := log2Dy ⟨q.num, 0⟩
    let r := log2Dy ⟨(q.den : Int), 0⟩
    (((l.add r.neg).mul ⟨1, 7⟩)).rne

/-- The LOD of a lane in 1/256, clamped; and whether anisotropic taps are taken. -/
def lodOf (m : Img) (p : Smp) (c : Nat → List Nat) (lane : Nat) (explicit : Option Nat) : Int × Bool :=
  let (l, an) := match explicit with
    | some w => (if finite32 w then ((fp32.val w).mul ⟨1, 8⟩).rne else if fp32.isInf w then (if fp32.sign w then -65536 else 65536) else 0, false)
    | none =>
      let (gx, gy) := gradients m c lane
      let hi := max gx gy
      let lo := min gx gy
      (halfLog hi, p.aniso != 0 && lo < hi)
  let l := max p.minLod (min p.maxLod (l + p.bias))
  (l, an)

/-! ### The instructions -/

/-- The descriptors of an instruction: the image's eight registers and the sampler's four. -/
def Grp.imgOf (x : Grp) (r : Nat) : Img := ⟨(List.range 8).flatMap (fun k => leBytes 4 (x.rs (r - 0x100 + k)))⟩
def Grp.smpOf (x : Grp) (r : Nat) : Smp := ⟨(List.range 4).flatMap (fun k => leBytes 4 (x.rs (r - 0x100 + 8 + k)))⟩

/-- Four words into a lane's result registers. -/
def Grp.put4 (x : Grp) (lane r : Nat) (v : List Nat) : Grp := (List.range 4).foldl (fun y k => y.wv lane (r + k) (v.getD k 0)) x

/-- One lane after another. -/
def State.texLanes (f : State → Nat → State × Option (List Nat)) (dst : Nat) : List Nat → State → Grp → State × Option Grp
  | [], s, x => (s, some x)
  | l :: r, s, x => match f s l with
    | (s, none) => (s, none)
    | (s, some v) => State.texLanes f dst r s (x.put4 l dst v)

/-- Registers that the coordinates of an image instruction span, with the reference behind them where the sampler compares
(R216, R388); `span` is 12 with a sampler, else 8. -/
def Grp.texSpan (x : Grp) (i : Ins) (span : Nat) : Nat :=
  let m := x.imgOf i.src1
  if m.ok then m.coords + b2n (span == 12 && (x.smpOf i.src1).cmpEn) else 1

/-- The image instructions use no field of an extension word (log entry 43). -/
def noExt (i : Ins) : Option Nat := if i.x ≠ 0 then some 1 else none

/-- A texture instruction, `op` of its class: descriptors are checked, each active lane has its result or the context has
faulted. -/
def State.texOp (s : State) (op : Nat) (g : Nat) (i : Ins) (mods span : Nat) (more : List Opd)
    (f : GEnv → Img → Smp → State → Nat → State × Option (List Nat)) : State :=
  match s.sh.grps.get? g with
  | none => s
  | some x =>
    s.issue ⟨6, some op⟩ g i false ([⟨i.dst, .v, 4⟩, ⟨i.src0, .v, x.texSpan i span⟩, ⟨i.src1, .s, span⟩] ++ more) mods false (fun _ => noExt i)
      (fun s e =>
        let m := e.grp.imgOf i.src1
        let p : Smp := if span = 12 then e.grp.smpOf i.src1 else ⟨[]⟩
        if !m.ok || (span == 12 && !p.ok) then s.ctxFault e.grp.ctx 0x60 0 (clusterOf g) (trapDetail e.grp.pc g)
        else match State.texLanes (f e m p) i.dst (e.grp.lanesOf i) s e.grp with
          | (s, some x) => s.setGrp g x
          | (s, none) => s)

/-- The coordinates of a lane. -/
def Grp.coordsOf (x : Grp) (i : Ins) (n lane : Nat) : List Nat := (List.range n).map (fun k => x.rv lane (i.src0 + k))

/-- The four components that TEX.SAMPLE gives a lane; with more than one anisotropic tap a free value. -/
def State.texSampled (i : Ins) (e : GEnv) (m : Img) (p : Smp) (s : State) (lane : Nat) : State × Option (List Nat) :=
  let x := e.grp
  let c (l : Nat) := x.coordsOf i m.coords l
  let (lod, an) := lodOf m p c lane (if bit i.md 0 then some (x.src i .f32 32 i.src2 lane) else none)
  let ref := x.rv lane (i.src0 + m.coords)
  let lin := if lod ≤ 0 then p.mag = 1 else p.min = 1
  let lc : Nat := (max 0 (min (((m.mips - 1 : Nat) : Int) * 256) lod)).toNat
  let taps := if p.mip = 0 then tapsOf m p lin ((lc + 127) / 256) (c lane)
    else
      let a := lc % 256
      (tapsOf m p lin (lc / 256) (c lane)).map (fun t => { t with wt := t.wt * (256 - a) }) ++
      (if a = 0 then [] else (tapsOf m p lin (lc / 256 + 1) (c lane)).map (fun t => { t with wt := t.wt * a }))
  match State.readTaps e m p taps s [] with
  | (s, none) => (s, none)
  | (s, some l) =>
    if an then
      let (k, s) := s.free 37
      (s, some ((List.range 4).map (fun j => k / 2 ^ (32 * j) % 2 ^ 32)))
    else
      let l := l.map (fun t => (p.compare ref t.1, t.2))
      let tot := l.foldl (fun n t => n + t.2) 0
      (s, some ((List.range 4).map (weigh m.fmt tot l)))

/-- TEX.SAMPLE (R388): a filtered sample. With more than one anisotropic tap the result is a free value. -/
def execTexSample (g : Nat) (i : Ins) (s : State) : Host.Outcome State Fault Refusal :=
  .next (s.texOp 0x10 g i 1 12 (if bit i.md 0 then [⟨i.src2, .any, 1⟩] else []) (State.texSampled i))

/-- Integer coordinates of a lane inside a level; none outside. -/
def Img.inside (m : Img) (l : Nat) (c : List Nat) : Option (Nat × Nat × Nat) :=
  let x := c.getD 0 0
  let y := if m.typ = 0 then 0 else c.getD 1 0
  let z := if m.typ ≥ 2 then c.getD 2 0 else 0
  if x < m.wl l ∧ y < m.hl l ∧ z < m.dl l then some (x, y, z) else none

/-- The four components that TEX.FETCH gives a lane: free outside the image, 0 beyond the last level. -/
def State.texFetched (i : Ins) (e : GEnv) (m : Img) (_p : Smp) (s : State) (lane : Nat) : State × Option (List Nat) :=
  let l := e.grp.src i .u32 32 i.src2 lane
  if l ≥ m.mips then (s, some [0, 0, 0, 0])
  else match m.inside l (e.grp.coordsOf i m.coords lane) with
    | some (x, y, z) => s.texel e m l x y z
    | none =>
      let (k, s) := s.free 37
      (s, some ((List.range 4).map (fun j => k / 2 ^ (32 * j) % 2 ^ 32)))

/-- TEX.FETCH (R388): a texel at integer coordinates and the level in SRC2. Outside the image the spec states no value: it
is free; beyond the last level it is 0. -/
def execTexFetch (g : Nat) (i : Ins) (s : State) : Host.Outcome State Fault Refusal :=
  .next (s.texOp 0x11 g i 0 8 [⟨i.src2, .any, 1⟩] (State.texFetched i))

/-- The component of four texels that TEX.GATHER gives a lane. -/
def State.texGathered (i : Ins) (e : GEnv) (m : Img) (p : Smp) (s : State) (lane : Nat) : State × Option (List Nat) :=
  let c := e.grp.coordsOf i m.coords lane
  let ref := e.grp.rv lane (i.src0 + m.coords)
  let u (k n : Nat) : Int := (scaled (c.getD k 0) n - 1 / 2).floor
  let four : List (Int × Int) := [(0, 1), (1, 1), (1, 0), (0, 0)]
  let taps : List Tap := four.map (fun d =>
    if m.typ = 3 then
      let q (k : Nat) : Rat := let w := c.getD k 0; if finite32 w then ratOf w else 0
      let (f, a, b) := cubeFace (q 0) (q 1) (q 2)
      let (g, x, y) := cubeTexel (m.wl 0) f ((a * (m.wl 0 : Nat) - 1 / 2).floor + d.1) ((b * (m.wl 0 : Nat) - 1 / 2).floor + d.2)
      { l := 0, at_ := some (x, y, g), wt := 1 }
    else
      let z := if m.typ = 4 then (max 0 (min ((m.d : Int) - 1) ((scaled (c.getD 2 0) 1 + 1 / 2).floor))).toNat else 0
      { l := 0, wt := 1, at_ := match wrapTexel (p.mode 0) (m.wl 0) (u 0 (m.wl 0) + d.1),
          (if m.typ = 0 then some 0 else wrapTexel (p.mode 1) (m.hl 0) (u 1 (m.hl 0) + d.2)) with
        | some x, some y => some (x, y, z)
        | _, _ => none })
  match State.readTaps e m p taps s [] with
  | (s, none) => (s, none)
  | (s, some l) => (s, some (l.map (fun t => (p.compare ref t.1).getD (bits i.md 1 2) 0)))

/-- TEX.GATHER (R388): one component of the 2 × 2 footprint at level 0, in the order of Vulkan 1.3. -/
def execTexGather (g : Nat) (i : Ins) (s : State) : Host.Outcome State Fault Refusal :=
  .next (s.texOp 0x12 g i 6 12 [] (State.texGathered i))

/-- Stores of texels, lane after lane. -/
def State.texStores (e : GEnv) (i : Ins) (m : Img) : List Nat → State → State
  | [], s => s
  | l :: r, s => match m.inside 0 (e.grp.coordsOf i m.coords l) with
    | none => State.texStores e i m r s
    | some (x, y, z) =>
      let v := (List.range 4).map (fun k => e.grp.rv l (i.src2 + k))
      match s.coreWrite e.grp.ctx (coreOf e.id) (m.addr 0 x y z) (leBytes m.bpp (texEnc m.fmt 15 0 v)) with
      | (s, true) => State.texStores e i m r s
      | (s, false) => s

/-- TEX.STORE (R388): the four registers at SRC2 go to a texel of level 0 at integer coordinates. -/
def execTexStore (g : Nat) (i : Ins) (s : State) : Host.Outcome State Fault Refusal :=
  .next (match s.sh.grps.get? g with
    | none => s
    | some x =>
      s.issue ⟨6, some 0x13⟩ g i false [⟨i.src0, .v, x.texSpan i 8⟩, ⟨i.src1, .s, 8⟩, ⟨i.src2, .v, 4⟩] 0 false (fun _ => noExt i) (fun s e =>
        let m := e.grp.imgOf i.src1
        if !m.ok then s.ctxFault e.grp.ctx 0x60 0 (clusterOf g) (trapDetail e.grp.pc g)
        else State.texStores e i m (e.grp.writers i) s))

/-- The tile and primitive that a fragment group shades. -/
def State.fragOf (s : State) (e : GEnv) : Option (GPass × GTile × GPrim × GState) :=
  match e.disp.kind with
  | .gfx 1 id tile => match s.gfx.passes.get? id with
    | none => none
    | some p => match p.run.find? (fun t => t.idx == tile) with
      | none => none
      | some t => match t.prim, t.prim.bind (fun q => p.states.get? q.draw) with
        | some q, some g => some (p, t, q, g)
        | _, _ => none
  | _ => none

/-- The number that an operand of ATTR.INTERP or TILE.LD names: an inline value or a scalar register. -/
def Grp.named (x : Grp) (i : Ins) : Nat := x.src i .u32 32 i.src0 0

/-- Component `k` of the output vector that ATTR.INTERP gives lane `l` for primitive `q`. -/
def Grp.interp (x : Grp) (i : Ins) (q : GPrim) (l k : Nat) : Nat :=
  let a (v : Nat) : Nat := (q.verts.getD v (q.verts.headD [])).getD (4 + 4 * x.named i + k) 0
  if bit i.md 3 then a 0
  else (fp32.fma (x.rv l (i.src2 + 1)) (fp32.sub (a 2) (a 0)).1 (fp32.fma (x.rv l i.src2) (fp32.sub (a 1) (a 0)).1 (a 0)).1).1

/-- ATTR.INTERP (R388): the four components of output vector SRC0 at the weights in the pair SRC2, or those of the provoking
vertex with FLAT; outside a fragment stage it raises ILLEGAL. -/
def execAttrInterp (g : Nat) (i : Ins) (s : State) : Host.Outcome State Fault Refusal :=
  let flat := bit i.md 3
  .next (s.issue ⟨6, some 0x14⟩ g i false ([⟨i.dst, .v, 4⟩, ⟨i.src0, .inl, 1⟩] ++ if flat then [] else [⟨i.src2, .v, 2⟩]) 8 false
    (fun e => match s.fragOf e with
      | some (_, _, _, gs) => if i.x = 0 ∧ e.grp.named i < gs.nout then none else some 1
      | none => some 1)
    (fun s e => match s.fragOf e with
      | none => s
      | some (_, _, q, _) =>
        s.setGrp g ((e.grp.lanesOf i).foldl (fun x l => x.put4 l i.dst ((List.range 4).map (e.grp.interp i q l))) e.grp)))

/-- TILE.LD (R388): the tile-memory value of attachment SRC0 at each lane's pixel and sample; elsewhere ILLEGAL. -/
def execTileLd (g : Nat) (i : Ins) (s : State) : Host.Outcome State Fault Refusal :=
  .next (s.issue ⟨6, some 0x15⟩ g i false [⟨i.dst, .v, 4⟩, ⟨i.src0, .inl, 1⟩] 0 false
    (fun e => match s.fragOf e with
      | some (p, _, _, _) => if i.x = 0 && p.atts.contains (e.grp.named i) then none else some 1
      | none => some 1)
    (fun s e => match s.fragOf e with
      | none => s
      | some (p, t, _, _) =>
        let a := e.grp.named i
        s.setGrp g ((e.grp.lanesOf i).foldl (fun x l => match (fragLanes t.grp).find? (fun q => q.1 == l) with
          | none => x
          | some (_, q, k) =>
            let sm := q.sample.getD ((bitList (q.cov.getD k 0) 8).headD 0)
            x.put4 l i.dst (texDec (p.fmt a) (t.get p a (q.x + k % 2) (q.y + k / 2) sm))) e.grp)))

end Sys2Proof.Machine
end

