-- ==== Sys2Proof/Machine/Dispatch.lean ====
section
/-! DEFINITION. The meaning of each command, by name. -/

namespace Sys2Proof.Machine

/-- A command's effect on everything but the queue. -/
def exec (i : Instr) (s : State) : Host.Outcome State Fault Refusal :=
  match i with
  | .registerWrite func sp off size v => Sys2Proof.Machine.execRegisterWrite func sp off size v s
  | .commit b => Sys2Proof.Machine.execCommit b s
  | .discard b => Sys2Proof.Machine.execDiscard b s
  | .counterClear func sp off clr => Sys2Proof.Machine.execCounterClear func sp off clr s
  | .lowWordRead func sp off wide => Sys2Proof.Machine.execLowWordRead func sp off wide s
  | .highWordRead func sp off => Sys2Proof.Machine.execHighWordRead func sp off s
  | .barAccessMisaligned func sp off => Sys2Proof.Machine.execBarAccessMisaligned func sp off s
  | .controlInterval core loom fixed tj busy guard resp => Sys2Proof.Machine.execControlInterval core loom fixed tj busy guard resp s
  | .regulatorAck r => Sys2Proof.Machine.execRegulatorAck r s
  | .regulatorAckTimeout r => Sys2Proof.Machine.execRegulatorAckTimeout r s
  | .linkUp speed width flit => Sys2Proof.Machine.execLinkUp speed width flit s
  | .linkDown => Sys2Proof.Machine.execLinkDown s
  | .hostRequestError c eng => Sys2Proof.Machine.execHostRequestError c eng s
  | .vfEnable n => Sys2Proof.Machine.execVfEnable n s
  | .vfDisable n => Sys2Proof.Machine.execVfDisable n s
  | .l2WayHandover w => Sys2Proof.Machine.execL2WayHandover w s
  | .ctxEnable c part => Sys2Proof.Machine.execCtxEnable c part s
  | .ctxTeardownRequest c part => Sys2Proof.Machine.execCtxTeardownRequest c part s
  | .ctxFree c part => Sys2Proof.Machine.execCtxFree c part s
  | .teardownStepDone c => Sys2Proof.Machine.execTeardownStepDone c s
  | .claimGo => Sys2Proof.Machine.execClaimGo s
  | .doorbell func c slot value => Sys2Proof.Machine.execDoorbell func c slot value s
  | .queueEnable q => Sys2Proof.Machine.execQueueEnable q s
  | .queueDrain q => Sys2Proof.Machine.execQueueDrain q s
  | .queueDrainDone q => Sys2Proof.Machine.execQueueDrainDone q s
  | .queueFree q => Sys2Proof.Machine.execQueueFree q s
  | .sampleAndClear q => Sys2Proof.Machine.execSampleAndClear q s
  | .entryFetch q => Sys2Proof.Machine.execEntryFetch q s
  | .idleSample q => Sys2Proof.Machine.execIdleSample q s
  | .tsliceExpiry k => Sys2Proof.Machine.execTsliceExpiry k s
  | .queueFaultComplete q => Sys2Proof.Machine.execQueueFaultComplete q s
  | .nop sid => Sys2Proof.Machine.execNop sid s
  | .signal sid => Sys2Proof.Machine.execSignal sid s
  | .wait sid => Sys2Proof.Machine.execWait sid s
  | .waitTimeout sid => Sys2Proof.Machine.execWaitTimeout sid s
  | .writeImm sid => Sys2Proof.Machine.execWriteImm sid s
  | .timestamp sid => Sys2Proof.Machine.execTimestamp sid s
  | .dispatch sid => Sys2Proof.Machine.execDispatch sid s
  | .dispatchIndirect sid => Sys2Proof.Machine.execDispatchIndirect sid s
  | .copy sid => Sys2Proof.Machine.execCopy sid s
  | .fill sid => Sys2Proof.Machine.execFill sid s
  | .claim sid => Sys2Proof.Machine.execClaim sid s
  | .alloc sid => Sys2Proof.Machine.execAlloc sid s
  | .free sid => Sys2Proof.Machine.execFree sid s
  | .entryComplete q => Sys2Proof.Machine.execEntryComplete q s
  | .tallySignal t vs => Sys2Proof.Machine.execTallySignal t vs s
  | .exportWriteError t => Sys2Proof.Machine.execExportWriteError t s
  | .waitPoll t k => Sys2Proof.Machine.execWaitPoll t k s
  | .signalWrite func t v => Sys2Proof.Machine.execSignalWrite func t v s
  | .signalLowWrite func t v => Sys2Proof.Machine.execSignalLowWrite func t v s
  | .signalHighWrite func t v => Sys2Proof.Machine.execSignalHighWrite func t v s
  | .apertureAccess c eng va write size v => Sys2Proof.Machine.execApertureAccess c eng va write size v s
  | .tlyInitGo => Sys2Proof.Machine.execTlyInitGo s
  | .lwClr => Sys2Proof.Machine.execLwClr s
  | .launchPattern sid => Sys2Proof.Machine.execLaunchPattern sid s
  | .snapshotWritten l => Sys2Proof.Machine.execSnapshotWritten l s
  | .patternNodeReady l n => Sys2Proof.Machine.execPatternNodeReady l n s
  | .patternLaunchComplete l => Sys2Proof.Machine.execPatternLaunchComplete l s
  | .patEditGo => Sys2Proof.Machine.execPatEditGo s
  | .pageWalk c va acc eng => Sys2Proof.Machine.execPageWalk c va acc eng s
  | .pteWrGo => Sys2Proof.Machine.execPteWrGo s
  | .pteWrDone => Sys2Proof.Machine.execPteWrDone s
  | .invReqGo => Sys2Proof.Machine.execInvReqGo s
  | .invStart => Sys2Proof.Machine.execInvStart s
  | .invAck e => Sys2Proof.Machine.execInvAck e s
  | .invTimeoutExpiry => Sys2Proof.Machine.execInvTimeoutExpiry s
  | .workgroupPlace d => Sys2Proof.Machine.execWorkgroupPlace d s
  | .hitArrival g lane => Sys2Proof.Machine.execHitArrival g lane s
  | .preemptRequest c => Sys2Proof.Machine.execPreemptRequest c s
  | .stopTimeout c => Sys2Proof.Machine.execStopTimeout c s
  | .saveComplete c => Sys2Proof.Machine.execSaveComplete c s
  | .restoreComplete core => Sys2Proof.Machine.execRestoreComplete core s
  | .ctrlNop g ins => Sys2Proof.Machine.execCtrlNop g ins s
  | .br g ins => Sys2Proof.Machine.execBr g ins s
  | .brZ g ins => Sys2Proof.Machine.execBrZ g ins s
  | .brNz g ins => Sys2Proof.Machine.execBrNz g ins s
  | .brExecz g ins => Sys2Proof.Machine.execBrExecz g ins s
  | .brExecnz g ins => Sys2Proof.Machine.execBrExecnz g ins s
  | .ifOp g ins => Sys2Proof.Machine.execIf g ins s
  | .elseOp g ins => Sys2Proof.Machine.execElse g ins s
  | .endif g ins => Sys2Proof.Machine.execEndif g ins s
  | .breakOp g ins => Sys2Proof.Machine.execBreak g ins s
  | .call g ins => Sys2Proof.Machine.execCall g ins s
  | .ret g ins => Sys2Proof.Machine.execRet g ins s
  | .trap g ins => Sys2Proof.Machine.execTrap g ins s
  | .rtt g ins => Sys2Proof.Machine.execRtt g ins s
  | .yield g ins => Sys2Proof.Machine.execYield g ins s
  | .endOp g ins => Sys2Proof.Machine.execEnd g ins s
  | .setmode g ins => Sys2Proof.Machine.execSetmode g ins s
  | .getreg g ins => Sys2Proof.Machine.execGetreg g ins s
  | .setreg g ins => Sys2Proof.Machine.execSetreg g ins s
  | .ld g ins => Sys2Proof.Machine.execLd g ins s
  | .st g ins => Sys2Proof.Machine.execSt g ins s
  | .sld g ins => Sys2Proof.Machine.execSld g ins s
  | .texSample g ins => Sys2Proof.Machine.execTexSample g ins s
  | .texFetch g ins => Sys2Proof.Machine.execTexFetch g ins s
  | .texGather g ins => Sys2Proof.Machine.execTexGather g ins s
  | .texStore g ins => Sys2Proof.Machine.execTexStore g ins s
  | .attrInterp g ins => Sys2Proof.Machine.execAttrInterp g ins s
  | .tileLd g ins => Sys2Proof.Machine.execTileLd g ins s
  | .atomAdd g ins => Sys2Proof.Machine.execAtomAdd g ins s
  | .atomSub g ins => Sys2Proof.Machine.execAtomSub g ins s
  | .atomMinS g ins => Sys2Proof.Machine.execAtomMinS g ins s
  | .atomMinU g ins => Sys2Proof.Machine.execAtomMinU g ins s
  | .atomMaxS g ins => Sys2Proof.Machine.execAtomMaxS g ins s
  | .atomMaxU g ins => Sys2Proof.Machine.execAtomMaxU g ins s
  | .atomAnd g ins => Sys2Proof.Machine.execAtomAnd g ins s
  | .atomOr g ins => Sys2Proof.Machine.execAtomOr g ins s
  | .atomXor g ins => Sys2Proof.Machine.execAtomXor g ins s
  | .atomSwap g ins => Sys2Proof.Machine.execAtomSwap g ins s
  | .atomCas g ins => Sys2Proof.Machine.execAtomCas g ins s
  | .atomFaddF32 g ins => Sys2Proof.Machine.execAtomFaddF32 g ins s
  | .atomFaddF64 g ins => Sys2Proof.Machine.execAtomFaddF64 g ins s
  | .atomFminF32 g ins => Sys2Proof.Machine.execAtomFminF32 g ins s
  | .atomFmaxF32 g ins => Sys2Proof.Machine.execAtomFmaxF32 g ins s
  | .bar g ins => Sys2Proof.Machine.execBar g ins s
  | .fence g ins => Sys2Proof.Machine.execFence g ins s
  | .tlyWait g ins => Sys2Proof.Machine.execTlyWait g ins s
  | .tlyWaitTimeout g => Sys2Proof.Machine.execTlyWaitTimeout g s
  | .tlySignal g ins => Sys2Proof.Machine.execTlySignal g ins s
  | .tlyRead g ins => Sys2Proof.Machine.execTlyRead g ins s
  | .rayEmitReturn g ins => Sys2Proof.Machine.execRayEmitReturn g ins s
  | .rayEmitShade g ins => Sys2Proof.Machine.execRayEmitShade g ins s
  | .rayEmitSpool g ins => Sys2Proof.Machine.execRayEmitSpool g ins s
  | .gmmaBf16 g ins => Sys2Proof.Machine.execGmmaBf16 g ins s
  | .gmmaF16 g ins => Sys2Proof.Machine.execGmmaF16 g ins s
  | .gmmaSf84 g ins => Sys2Proof.Machine.execGmmaSf84 g ins s
  | .gmmaSf85 g ins => Sys2Proof.Machine.execGmmaSf85 g ins s
  | .gmmaI8 g ins => Sys2Proof.Machine.execGmmaI8 g ins s
  | .loomIssue g ins => Sys2Proof.Machine.execLoomIssue g ins s
  | .valuAdd g ins t => Sys2Proof.Machine.execValuAdd g ins t s
  | .valuSub g ins t => Sys2Proof.Machine.execValuSub g ins t s
  | .valuMul g ins t => Sys2Proof.Machine.execValuMul g ins t s
  | .valuFma g ins t => Sys2Proof.Machine.execValuFma g ins t s
  | .valuMin g ins t => Sys2Proof.Machine.execValuMin g ins t s
  | .valuMax g ins t => Sys2Proof.Machine.execValuMax g ins t s
  | .valuMinimum g ins t => Sys2Proof.Machine.execValuMinimum g ins t s
  | .valuMaximum g ins t => Sys2Proof.Machine.execValuMaximum g ins t s
  | .valuFloor g ins t => Sys2Proof.Machine.execValuFloor g ins t s
  | .valuCeil g ins t => Sys2Proof.Machine.execValuCeil g ins t s
  | .valuTrunc g ins t => Sys2Proof.Machine.execValuTrunc g ins t s
  | .valuRndne g ins t => Sys2Proof.Machine.execValuRndne g ins t s
  | .valuFract g ins t => Sys2Proof.Machine.execValuFract g ins t s
  | .valuLdexp g ins t => Sys2Proof.Machine.execValuLdexp g ins t s
  | .valuFrexp g ins t => Sys2Proof.Machine.execValuFrexp g ins t s
  | .valuSel g ins t => Sys2Proof.Machine.execValuSel g ins t s
  | .valuMulLo g ins t => Sys2Proof.Machine.execValuMulLo g ins t s
  | .valuMulHi g ins t => Sys2Proof.Machine.execValuMulHi g ins t s
  | .valuMadLo g ins t => Sys2Proof.Machine.execValuMadLo g ins t s
  | .valuAnd g ins t => Sys2Proof.Machine.execValuAnd g ins t s
  | .valuOr g ins t => Sys2Proof.Machine.execValuOr g ins t s
  | .valuXor g ins t => Sys2Proof.Machine.execValuXor g ins t s
  | .valuNot g ins t => Sys2Proof.Machine.execValuNot g ins t s
  | .valuShl g ins t => Sys2Proof.Machine.execValuShl g ins t s
  | .valuShr g ins t => Sys2Proof.Machine.execValuShr g ins t s
  | .valuSar g ins t => Sys2Proof.Machine.execValuSar g ins t s
  | .valuBfe g ins t => Sys2Proof.Machine.execValuBfe g ins t s
  | .valuBfi g ins t => Sys2Proof.Machine.execValuBfi g ins t s
  | .valuPopc g ins t => Sys2Proof.Machine.execValuPopc g ins t s
  | .valuClz g ins t => Sys2Proof.Machine.execValuClz g ins t s
  | .valuCtz g ins t => Sys2Proof.Machine.execValuCtz g ins t s
  | .valuBrev g ins t => Sys2Proof.Machine.execValuBrev g ins t s
  | .valuDot4 g ins t => Sys2Proof.Machine.execValuDot4 g ins t s
  | .valuMov g ins => Sys2Proof.Machine.execValuMov g ins s
  | .valuPerm g ins => Sys2Proof.Machine.execValuPerm g ins s
  | .valuReadlane g ins => Sys2Proof.Machine.execValuReadlane g ins s
  | .valuWritelane g ins => Sys2Proof.Machine.execValuWritelane g ins s
  | .valuBcast g ins => Sys2Proof.Machine.execValuBcast g ins s
  | .valu64Add g ins t => Sys2Proof.Machine.execValu64Add g ins t s
  | .valu64Sub g ins t => Sys2Proof.Machine.execValu64Sub g ins t s
  | .valu64Mul g ins => Sys2Proof.Machine.execValu64Mul g ins s
  | .valu64Fma g ins => Sys2Proof.Machine.execValu64Fma g ins s
  | .valu64Min g ins => Sys2Proof.Machine.execValu64Min g ins s
  | .valu64Max g ins => Sys2Proof.Machine.execValu64Max g ins s
  | .valu64Minimum g ins => Sys2Proof.Machine.execValu64Minimum g ins s
  | .valu64Maximum g ins => Sys2Proof.Machine.execValu64Maximum g ins s
  | .valu64Floor g ins => Sys2Proof.Machine.execValu64Floor g ins s
  | .valu64Ceil g ins => Sys2Proof.Machine.execValu64Ceil g ins s
  | .valu64Trunc g ins => Sys2Proof.Machine.execValu64Trunc g ins s
  | .valu64Rndne g ins => Sys2Proof.Machine.execValu64Rndne g ins s
  | .valu64Fract g ins => Sys2Proof.Machine.execValu64Fract g ins s
  | .valu64Ldexp g ins => Sys2Proof.Machine.execValu64Ldexp g ins s
  | .valu64And g ins => Sys2Proof.Machine.execValu64And g ins s
  | .valu64Or g ins => Sys2Proof.Machine.execValu64Or g ins s
  | .valu64Xor g ins => Sys2Proof.Machine.execValu64Xor g ins s
  | .valu64Shl g ins => Sys2Proof.Machine.execValu64Shl g ins s
  | .valu64Shr g ins => Sys2Proof.Machine.execValu64Shr g ins s
  | .valu64Sar g ins => Sys2Proof.Machine.execValu64Sar g ins s
  | .valu64MulLo g ins => Sys2Proof.Machine.execValu64MulLo g ins s
  | .vcmpEq g ins t sig => Sys2Proof.Machine.execVcmpEq g ins t sig s
  | .vcmpNe g ins t sig => Sys2Proof.Machine.execVcmpNe g ins t sig s
  | .vcmpLt g ins t sig => Sys2Proof.Machine.execVcmpLt g ins t sig s
  | .vcmpLe g ins t sig => Sys2Proof.Machine.execVcmpLe g ins t sig s
  | .vcmpGt g ins t sig => Sys2Proof.Machine.execVcmpGt g ins t sig s
  | .vcmpGe g ins t sig => Sys2Proof.Machine.execVcmpGe g ins t sig s
  | .vcmpOrd g ins t sig => Sys2Proof.Machine.execVcmpOrd g ins t sig s
  | .vcmpUnord g ins t sig => Sys2Proof.Machine.execVcmpUnord g ins t sig s
  | .vcmpClass g ins t => Sys2Proof.Machine.execVcmpClass g ins t s
  | .cvt g ins a b => Sys2Proof.Machine.execCvt g ins a b s
  | .sfuRcp g ins t => Sys2Proof.Machine.execSfuRcp g ins t s
  | .sfuRsq g ins t => Sys2Proof.Machine.execSfuRsq g ins t s
  | .sfuSqrt g ins t => Sys2Proof.Machine.execSfuSqrt g ins t s
  | .sfuExp2 g ins t => Sys2Proof.Machine.execSfuExp2 g ins t s
  | .sfuLog2 g ins t => Sys2Proof.Machine.execSfuLog2 g ins t s
  | .sfuSin g ins t => Sys2Proof.Machine.execSfuSin g ins t s
  | .sfuCos g ins t => Sys2Proof.Machine.execSfuCos g ins t s
  | .saluAdd g ins t => Sys2Proof.Machine.execSaluAdd g ins t s
  | .saluSub g ins t => Sys2Proof.Machine.execSaluSub g ins t s
  | .saluMulLo g ins t => Sys2Proof.Machine.execSaluMulLo g ins t s
  | .saluAnd g ins t => Sys2Proof.Machine.execSaluAnd g ins t s
  | .saluOr g ins t => Sys2Proof.Machine.execSaluOr g ins t s
  | .saluXor g ins t => Sys2Proof.Machine.execSaluXor g ins t s
  | .saluNot g ins t => Sys2Proof.Machine.execSaluNot g ins t s
  | .saluShl g ins t => Sys2Proof.Machine.execSaluShl g ins t s
  | .saluShr g ins t => Sys2Proof.Machine.execSaluShr g ins t s
  | .saluSar g ins t => Sys2Proof.Machine.execSaluSar g ins t s
  | .saluMin g ins t => Sys2Proof.Machine.execSaluMin g ins t s
  | .saluMax g ins t => Sys2Proof.Machine.execSaluMax g ins t s
  | .saluCmp g ins t lt eq gt => Sys2Proof.Machine.execSaluCmp g ins t lt eq gt s
  | .saluMov g ins t => Sys2Proof.Machine.execSaluMov g ins t s
  | .saluCsel g ins t => Sys2Proof.Machine.execSaluCsel g ins t s
  | .saluPmov g ins => Sys2Proof.Machine.execSaluPmov g ins s
  | .draft sid => Sys2Proof.Machine.execDraft sid s
  | .draftAccept thread src => Sys2Proof.Machine.execDraftAccept thread src s
  | .matmul n => Sys2Proof.Machine.execMatmul n s
  | .convOp n => Sys2Proof.Machine.execConv n s
  | .loadW n => Sys2Proof.Machine.execLoadW n s
  | .loadA n => Sys2Proof.Machine.execLoadA n s
  | .storeBolt n => Sys2Proof.Machine.execStoreBolt n s
  | .rowCheck n kind pass slice row piece errM errE => Sys2Proof.Machine.execRowCheck n kind pass slice row piece errM errE s
  | .chunkCheck n col corr errM errE => Sys2Proof.Machine.execChunkCheck n col corr errM errE s
  | .draftComplete n => Sys2Proof.Machine.execDraftComplete n s
  | .loomRelease n => Sys2Proof.Machine.execLoomRelease n s
  | .loomReleaseDone n => Sys2Proof.Machine.execLoomReleaseDone n s
  | .loomStopReq n full => Sys2Proof.Machine.execLoomStopReq n full s
  | .loomStopPoint n => Sys2Proof.Machine.execLoomStopPoint n s
  | .loomSaveDone n => Sys2Proof.Machine.execLoomSaveDone n s
  | .loomStopRestore n => Sys2Proof.Machine.execLoomStopRestore n s
  | .loomRestoreDone n => Sys2Proof.Machine.execLoomRestoreDone n s
  | .batchTimeout b => Sys2Proof.Machine.execBatchTimeout b s
  | .batchDispatch b => Sys2Proof.Machine.execBatchDispatch b s
  | .traversalComplete b k => Sys2Proof.Machine.execTraversalComplete b k s
  | .hitShadeLaunch b => Sys2Proof.Machine.execHitShadeLaunch b s
  | .poolReturn p => Sys2Proof.Machine.execPoolReturn p s
  | .rayDeadlock p => Sys2Proof.Machine.execRayDeadlock p s
  | .dupCompare b k odd => Sys2Proof.Machine.execDupCompare b k odd s
  | .rtuPatrol n fail => Sys2Proof.Machine.execRtuPatrol n fail s
  | .activationComplete a => Sys2Proof.Machine.execActivationComplete a s
  | .gfxState sid => Sys2Proof.Machine.execGfxState sid s
  | .renderPassBegin sid => Sys2Proof.Machine.execRenderPassBegin sid s
  | .draw sid => Sys2Proof.Machine.execDraw sid s
  | .drawIndexed sid => Sys2Proof.Machine.execDrawIndexed sid s
  | .drawIndirect sid => Sys2Proof.Machine.execDrawIndirect sid s
  | .renderPassEnd sid => Sys2Proof.Machine.execRenderPassEnd sid s
  | .partialFlush id => Sys2Proof.Machine.execPartialFlush id s
  | .tileStart id => Sys2Proof.Machine.execTileStart id s
  | .tileStore id tile => Sys2Proof.Machine.execTileStore id tile s
  | .displayCommit sid => Sys2Proof.Machine.execDisplayCommit sid s
  | .frameStart p => Sys2Proof.Machine.execFrameStart p s
  | .layerUnderrun p x y n => Sys2Proof.Machine.execLayerUnderrun p x y n s
  | .writebackDone p => Sys2Proof.Machine.execWritebackDone p s
  | .crcRegionDone p r => Sys2Proof.Machine.execCrcRegionDone p r s
  | .pipeCommit p => Sys2Proof.Machine.execPipeCommit p s
  | .pipeDiscard p => Sys2Proof.Machine.execPipeDiscard p s
  | .pipeEnable p en => Sys2Proof.Machine.execPipeEnable p en s
  | .dpTrainGo o => Sys2Proof.Machine.execDpTrainGo o s
  | .dpTrainDone o ok rate lanes => Sys2Proof.Machine.execDpTrainDone o ok rate lanes s
  | .hpdChange o level => Sys2Proof.Machine.execHpdChange o level s
  | .dpLinkLost o => Sys2Proof.Machine.execDpLinkLost o s
  | .auxGo o => Sys2Proof.Machine.execAuxGo o s
  | .auxDone o result data => Sys2Proof.Machine.execAuxDone o result data s
  | .aphyLockLost o => Sys2Proof.Machine.execAphyLockLost o s
  | .dsiCmd o v => Sys2Proof.Machine.execDsiCmd o v s
  | .compress sid => Sys2Proof.Machine.execCompress sid s
  | .decompress sid => Sys2Proof.Machine.execDecompress sid s
  | .pressJobEnd e => Sys2Proof.Machine.execPressJobEnd e s
  | .tickStart => Sys2Proof.Machine.execTickStart s
  | .syncInEdge => Sys2Proof.Machine.execSyncInEdge s
  | .tickSelfStart => Sys2Proof.Machine.execTickSelfStart s
  | .syncOutPulse => Sys2Proof.Machine.execSyncOutPulse s
  | .budgetExhausted p k => Sys2Proof.Machine.execBudgetExhausted p k s
  | .startBy q => Sys2Proof.Machine.execStartBy q s
  | .rtDeadline q => Sys2Proof.Machine.execRtDeadline q s
  | .rtJobComplete q => Sys2Proof.Machine.execRtJobComplete q s
  | .sweepJobDone id => Sys2Proof.Machine.execSweepJobDone id s
  | .patrolScrub line lo hi => Sys2Proof.Machine.execPatrolScrub line lo hi s
  | .sramScrub kind unit res pos c => Sys2Proof.Machine.execSramScrub kind unit res pos c s
  | .hbmTempRead m t => Sys2Proof.Machine.execHbmTempRead m t s
  | .eyeRecentre m pc => Sys2Proof.Machine.execEyeRecentre m pc s
  | .l2Clean => Sys2Proof.Machine.execL2Clean s
  | .l2Invalidate => Sys2Proof.Machine.execL2Invalidate s
  | .l2CleanInvalidate => Sys2Proof.Machine.execL2CleanInvalidate s
  | .l2MaintDone => Sys2Proof.Machine.execL2MaintDone s
  | .pxlTrainingDone p ok narrow slow lat => Sys2Proof.Machine.execPxlTrainingDone p ok narrow slow lat s
  | .identityExchange p family rev devId mgr epoch => Sys2Proof.Machine.execIdentityExchange p family rev devId mgr epoch s
  | .remoteRequest p kind a n op data => Sys2Proof.Machine.execRemoteRequest p kind a n op data s
  | .forwardedSignal n v => Sys2Proof.Machine.execForwardedSignal n v s
  | .mirrorRefused n => Sys2Proof.Machine.execMirrorRefused n s
  | .tickBroadcast p n => Sys2Proof.Machine.execTickBroadcast p n s
  | .heartbeatSend => Sys2Proof.Machine.execHeartbeatSend s
  | .heartbeatReceive p => Sys2Proof.Machine.execHeartbeatReceive p s
  | .hbTimeout d => Sys2Proof.Machine.execHbTimeout d s
  | .silenceReport p d silent => Sys2Proof.Machine.execSilenceReport p d silent s
  | .resign p => Sys2Proof.Machine.execResign p s
  | .managerMessage p epoch => Sys2Proof.Machine.execManagerMessage p epoch s
  | .flitNak p again => Sys2Proof.Machine.execFlitNak p again s
  | .lossOfLock p => Sys2Proof.Machine.execLossOfLock p s
  | .pxlRetrainDone p ok narrow slow lat => Sys2Proof.Machine.execPxlRetrainDone p ok narrow slow lat s
  | .reqTimeout c eng d => Sys2Proof.Machine.execReqTimeout c eng d s
  | .healthWord d w => Sys2Proof.Machine.execHealthWord d w s
  | .sourceDeassert n => Sys2Proof.Machine.execSourceDeassert n s
  | .intcClaim t => Sys2Proof.Machine.execIntcClaim t s
  | .intcComplete t n => Sys2Proof.Machine.execIntcComplete t n s
  | .maskWrite fm pf n value => Sys2Proof.Machine.execMaskWrite fm pf n value s
  | .intcRelease n => Sys2Proof.Machine.execIntcRelease n s
  | .modTimer m => Sys2Proof.Machine.execModTimer m s
  | .idleHintSet v => Sys2Proof.Machine.execIdleHintSet v s
  | .vectorUnmask func v => Sys2Proof.Machine.execVectorUnmask func v s
  | .swSet k m => Sys2Proof.Machine.execSwSet k m s
  | .swClr k m => Sys2Proof.Machine.execSwClr k m s
  | .usdoUpload bus c idx sub more => Sys2Proof.Machine.execUsdoUpload bus c idx sub more s
  | .usdoDownload bus c idx sub data more => Sys2Proof.Machine.execUsdoDownload bus c idx sub data more s
  | .usdoTimeout c => Sys2Proof.Machine.execUsdoTimeout c s
  | .storeParameters bus c sig => Sys2Proof.Machine.execStoreParameters bus c sig s
  | .restoreDefaults bus c sig => Sys2Proof.Machine.execRestoreDefaults bus c sig s
  | .saveDone => Sys2Proof.Machine.execSaveDone s
  | .nmtStart node bus => Sys2Proof.Machine.execNmtStart node bus s
  | .nmtStop node bus => Sys2Proof.Machine.execNmtStop node bus s
  | .nmtEnterPreop node bus => Sys2Proof.Machine.execNmtEnterPreop node bus s
  | .nmtResetNode node bus => Sys2Proof.Machine.execNmtResetNode node bus s
  | .nmtResetComm node bus => Sys2Proof.Machine.execNmtResetComm node bus s
  | .heartbeatProduce => Sys2Proof.Machine.execHeartbeatProduce s
  | .heartbeatConsume node bus => Sys2Proof.Machine.execHeartbeatConsume node bus s
  | .heartbeatLost n => Sys2Proof.Machine.execHeartbeatLost n s
  | .syncReceive bus ago good => Sys2Proof.Machine.execSyncReceive bus ago good s
  | .syncTickDelay => Sys2Proof.Machine.execSyncTickDelay s
  | .syncProduce => Sys2Proof.Machine.execSyncProduce s
  | .emcySend => Sys2Proof.Machine.execEmcySend s
  | .busOff k => Sys2Proof.Machine.execBusOff k s
  | .busOffRecover k => Sys2Proof.Machine.execBusOffRecover k s
  | .rpdo n bus data => Sys2Proof.Machine.execRpdo n bus data s
  | .tpdo n => Sys2Proof.Machine.execTpdo n s
  | .mbxRead => Sys2Proof.Machine.execMbxRead s
  | .mbxWrite => Sys2Proof.Machine.execMbxWrite s
  | .mbxSave => Sys2Proof.Machine.execMbxSave s
  | .mbxRestore => Sys2Proof.Machine.execMbxRestore s
  | .powerOn rated => Sys2Proof.Machine.execPowerOn rated s
  | .perstRelease devId recov jtag => Sys2Proof.Machine.execPerstRelease devId recov jtag s
  | .fuseRead readErr => Sys2Proof.Machine.execFuseRead readErr s
  | .yieldMap => Sys2Proof.Machine.execYieldMap s
  | .licenceCheck readErr => Sys2Proof.Machine.execLicenceCheck readErr s
  | .hbmTrain fails => Sys2Proof.Machine.execHbmTrain fails s
  | .firmwareLoad readErr => Sys2Proof.Machine.execFirmwareLoad readErr s
  | .microcodeBroadcast fails => Sys2Proof.Machine.execMicrocodeBroadcast fails s
  | .bootSelftest fails spares shared d0 d1 => Sys2Proof.Machine.execBootSelftest fails spares shared d0 d1 s
  | .carveoutCheck => Sys2Proof.Machine.execCarveoutCheck s
  | .enable => Sys2Proof.Machine.execEnable s
  | .bootStepDone => Sys2Proof.Machine.execBootStepDone s
  | .bootStepTimeout => Sys2Proof.Machine.execBootStepTimeout s
  | .recovExit => Sys2Proof.Machine.execRecovExit s
  | .trialReq => Sys2Proof.Machine.execTrialReq s
  | .flashRead => Sys2Proof.Machine.execFlashRead s
  | .flashProgram => Sys2Proof.Machine.execFlashProgram s
  | .flashErase => Sys2Proof.Machine.execFlashErase s
  | .flashDone => Sys2Proof.Machine.execFlashDone s
  | .warmReset src key => Sys2Proof.Machine.execWarmReset src key s
  | .warmStepDone ok unitFail fails => Sys2Proof.Machine.execWarmStepDone ok unitFail fails s
  | .fullReset src key => Sys2Proof.Machine.execFullReset src key s
  | .hotReset => Sys2Proof.Machine.execHotReset s
  | .partitionReset p host => Sys2Proof.Machine.execPartitionReset p host s
  | .partitionResetDone p => Sys2Proof.Machine.execPartitionResetDone p s
  | .blockReset slot typ unit core => Sys2Proof.Machine.execBlockReset slot typ unit core s
  | .idleTimeout typ unit core => Sys2Proof.Machine.execIdleTimeout typ unit core s
  | .blockResetDone typ unit core => Sys2Proof.Machine.execBlockResetDone typ unit core s
  | .vfFlr n => Sys2Proof.Machine.execVfFlr n s
  | .pfFlr => Sys2Proof.Machine.execPfFlr s
  | .dozeEntry => Sys2Proof.Machine.execDozeEntry s
  | .napEntry => Sys2Proof.Machine.execNapEntry s
  | .offEntry key => Sys2Proof.Machine.execOffEntry key s
  | .activeCmd => Sys2Proof.Machine.execActiveCmd s
  | .entryAbort => Sys2Proof.Machine.execEntryAbort s
  | .wake src ok => Sys2Proof.Machine.execWake src ok s
  | .wakeIn => Sys2Proof.Machine.execWakeIn s
  | .gpioEdge g level => Sys2Proof.Machine.execGpioEdge g level s
  | .domainWakeAccess a => Sys2Proof.Machine.execDomainWakeAccess a s
  | .domainRegate d => Sys2Proof.Machine.execDomainRegate d s
  | .supplyBelowPor aon => Sys2Proof.Machine.execSupplyBelowPor aon s
  | .corePatrol c k fail => Sys2Proof.Machine.execCorePatrol c k fail s
  | .watchdogFire kind unit => Sys2Proof.Machine.execWatchdogFire kind unit s
  | .fabricCrcError again => Sys2Proof.Machine.execFabricCrcError again s
  | .lockstepError b => Sys2Proof.Machine.execLockstepError b s
  | .voltageMonitor sup mv => Sys2Proof.Machine.execVoltageMonitor sup mv s
  | .clockMonitor d n => Sys2Proof.Machine.execClockMonitor d n s
  | .refclkLoss => Sys2Proof.Machine.execRefclkLoss s
  | .tempSensorRead t => Sys2Proof.Machine.execTempSensorRead t s
  | .safeReqAssert => Sys2Proof.Machine.execSafeReqAssert s
  | .safeReqRelease => Sys2Proof.Machine.execSafeReqRelease s
  | .recoveryOverrun k => Sys2Proof.Machine.execRecoveryOverrun k s
  | .assayerTestStart => Sys2Proof.Machine.execAssayerTestStart s
  | .testVerdict fail => Sys2Proof.Machine.execTestVerdict fail s
  | .ageingMeasure d0 d1 => Sys2Proof.Machine.execAgeingMeasure d0 d1 s
  | .ledgerAppend => Sys2Proof.Machine.execLedgerAppend s
  | .mirrorWrite ok => Sys2Proof.Machine.execMirrorWrite ok s
  | .stateAreaWrite ok => Sys2Proof.Machine.execStateAreaWrite ok s
  | .ledgerClear who node key => Sys2Proof.Machine.execLedgerClear who node key s
  | .ledgerFreeze who => Sys2Proof.Machine.execLedgerFreeze who s
  | .ledgerUnfreeze who => Sys2Proof.Machine.execLedgerUnfreeze who s
  | .freezeTimeout => Sys2Proof.Machine.execFreezeTimeout s
  | .halt cluster core slot byCtx ctx => Sys2Proof.Machine.execHalt cluster core slot byCtx ctx s
  | .groupHalted g => Sys2Proof.Machine.execGroupHalted g s
  | .resume cluster core slot byCtx ctx => Sys2Proof.Machine.execResume cluster core slot byCtx ctx s
  | .step cluster core slot byCtx ctx => Sys2Proof.Machine.execStep cluster core slot byCtx ctx s
  | .dbgAcc space reg lane write => Sys2Proof.Machine.execDbgAcc space reg lane write s
  | .loomHalt n => Sys2Proof.Machine.execLoomHalt n s
  | .loomResume n => Sys2Proof.Machine.execLoomResume n s
  | .loomStep n => Sys2Proof.Machine.execLoomStep n s
  | .extest v => Sys2Proof.Machine.execExtest v s
  | .idcode => Sys2Proof.Machine.execIdcode s
  | .samplePreload v => Sys2Proof.Machine.execSamplePreload v s
  | .clamp => Sys2Proof.Machine.execClamp s
  | .dbgacc off4 write wide data => Sys2Proof.Machine.execDbgacc off4 write wide data s
  | .bypass => Sys2Proof.Machine.execBypass s
  | .perstAssert => Sys2Proof.Machine.execPerstAssert s
  | .powerEntryDone => Sys2Proof.Machine.execPowerEntryDone s
  | .copyComplete e => Sys2Proof.Machine.execCopyComplete e s
  | .capGenRead => Sys2Proof.Machine.execCapGenRead s
  | .aphyLinkLocked o => Sys2Proof.Machine.execAphyLinkLocked o s

end Sys2Proof.Machine
end

