-- ==== Sys2Proof/Safety.lean ====
section
/-! DEFINITION. What claims call safe: the forms of State that every step is to keep, and a run without a fault. -/

namespace Sys2Proof.Machine

/-- The state's data are in canonical form: HBM, host memory, the Ledger's ring and the flash as memories, and the register
store with its keys in order, so that equal contents are equal data. -/
def State.canon (s : State) : Prop :=
  s.mem.hbm.wf = true ∧ s.mem.host.wf = true ∧ s.ldg.bytes.wf = true ∧ s.boot.flash.wf = true ∧ s.regs.sorted = true

/-- A register field that the delivery of notifications writes: a source's state, a vector's held notifications, and the
count of messages that the link dropped (R47, R508, R511). -/
def evFld (F : Fld) : Bool :=
  F.fid == INTC_SRC.STATE.fid || F.fid == INTC_SRC.ASSERTED.fid || F.fid == INTC_SRC.REFIRE.fid || F.fid == INTC_MOD.HELD.fid ||
  F.fid == INTC_MOD.IDLE_HINT.fid || F.fid == GLB_LINK_DROP.COUNT.fid || F.fid == GLB_LINK_DROP.OVF.fid

/-- From `s` to `t` notifications were delivered and nothing else happened: held and pending notifications, messages and the
registers of the delivery may differ. -/
structure NotifyOnly (s t : State) : Prop where
  rd : ∀ F i, evFld F = false → t.rd F i = s.rd F i
  rest : t = { s with regs := t.regs, irq := t.irq, out := t.out, freeCtr := t.freeCtr }

/-- Register fields other than the listed ones, pairs of a field and an instance, read in `t` as in `s`. -/
def RegsKept (s t : State) (l : List (Fld × Nat)) : Prop :=
  ∀ F i, (∀ p ∈ l, (p.1.fid, p.2) ≠ (F.fid, i)) → t.rd F i = s.rd F i

/-- Register fields other than the listed ones and those of the notification delivery read in `t` as in `s`. -/
def RegsKeptEv (s t : State) (l : List (Fld × Nat)) : Prop :=
  ∀ F i, evFld F = false → (∀ p ∈ l, (p.1.fid, p.2) ≠ (F.fid, i)) → t.rd F i = s.rd F i

/-- From `s` to `t` only register fields changed, and of these only the listed ones. -/
structure WriteOnly (s t : State) (l : List (Fld × Nat)) : Prop where
  rd : RegsKept s t l
  rest : t = { s with regs := t.regs }

/-- From `s` to `t` the listed register fields changed, notifications were delivered, and nothing else happened. -/
structure WriteEv (s t : State) (l : List (Fld × Nat)) : Prop where
  rd : RegsKeptEv s t l
  rest : t = { s with regs := t.regs, irq := t.irq, out := t.out, freeCtr := t.freeCtr }

/-- At `s` the command `c` goes on to a next state that has `P`. -/
def Answers (c : Instr) (s : State) (P : State → Prop) : Prop := ∃ t, exec c s = .next t ∧ P t

/-- Packet `pid` of stream `sid` has completed. -/
def State.pktDone (t : State) (sid pid : Nat) : Prop :=
  ∃ st, t.fe.strms.get? sid = some st ∧ ∀ k ∈ st.pkts, k.pid = pid → k.st = 2

/-- What the issue of an instruction leaves: it is counted, the PC stands behind it, and a debugger's granted step is spent. -/
def State.issued (s : State) (g : Nat) (i : Ins) (part : Nat) : State :=
  (((s.updGrp g (fun x => { x with skipBp := false })).count SCL_CTR.ISSUED (clusterOf g)).pmu 2 (clusterOf g) part).updGrp g
    (fun x => { x with pc := x.pc + insLen i, stepping := if x.stepping = 1 then 2 else x.stepping })

/-- The word at the PC of `e0` is fetched, at `v`, and it is the instruction `i` of opcode `k`. -/
def State.fetches (s : State) (k : OpCode) (i : Ins) (e0 : GEnv) (v : State) : Prop :=
  ∃ w x, s.fetch e0 = (v, some (w, x)) ∧ opKnown w = true ∧ k.picks i w x = true

/-- Group `e0` in slot `g` can issue `i`, a scalar or vector instruction of opcode `k` with these operands, and comes to run it at
`u` as `e`: the group is ready and its memory pipe free, the word at its PC is this instruction, it hits no breakpoint, and the form
is legal. -/
structure Issues (s : State) (k : OpCode) (g : Nat) (i : Ins) (scalar : Bool) (ops : List Opd) (mods : Nat) (lit : Bool) (e0 : GEnv)
    (u : State) (e : GEnv) : Prop where
  grp : s.genv g = some e0
  can : s.canIssue e0 = true
  hits : e0.grp.hitWait ops = false
  held : s.pipeHeld k g = false
  fetch : ∃ v, s.fetches k i e0 v ∧ v.bpHit e0 = none ∧ u = v.issued g i e0.disp.part
  guard : (scalar && i.ge) = false
  legal : ops.all (·.legal scalar e0.disp.kd.vregs i.ext lit) = true
  modOk : i.md - (i.md &&& mods) = 0
  run : u.genv g = some e
  same : e.wg = e0.wg ∧ e.disp = e0.disp ∧ e.grp = { e0.grp with
    skipBp := false, pc := e0.grp.pc + insLen i, stepping := if e0.grp.stepping = 1 then 2 else e0.grp.stepping }

/-- From registers `x` to `y` an instruction wrote `n` vector registers from its DST on in every active lane, the value and
the STATUS flags of a lane being `res`, and nothing else. -/
structure LaneWrite (x y : Grp) (i : Ins) (n : Nat) (res : Nat → Nat × Nat) : Prop where
  val : ∀ l k, l < 32 → k < n → bit (x.active i) l = true → y.rv l (i.dst + k) = bits (res l).1 (32 * k) 32
  keep : ∀ l r, l < 32 → bit (x.active i) l = false ∨ r < i.dst ∨ i.dst + n ≤ r → y.rv l r = x.rv l r
  flags : y.status = (x.lanesOf i).foldl (fun m l => m ||| (res l).2) x.status
  rest : y = { x with v := y.v, status := y.status }

/-- From `s` to `t` only the group in slot `g` changed, and it is `y`. -/
structure GrpOnly (s t : State) (g : Nat) (y : Grp) : Prop where
  at_g : t.sh.grps.get? g = some y
  keep : ∀ k, k ≠ g → t.sh.grps.get? k = s.sh.grps.get? k
  rest : t = { s with sh := { s.sh with grps := t.sh.grps } }

/-- An element-wise command: it, the types it has, the number of its sources, and the result and flags of an element. -/
abbrev ElRow := (Nat → Ins → NTy → Instr) × List NTy × Nat × (NTy → Nat → Nat → Nat → Nat × Nat)

/-- The element-wise commands of VALU but ADD and SUB (R250). -/
def valuTable : List ElRow := [
    (.valuMul, fpbTys, 2, eMul),
    (.valuFma, fpbTys, 3, eFma),
    (.valuMin, fpTys ++ intTys, 2, eMin false),
    (.valuMax, fpTys ++ intTys, 2, eMin true),
    (.valuMinimum, fpTys, 2, eMinP false),
    (.valuMaximum, fpTys, 2, eMinP true),
    (.valuFloor, fpTys, 1, eIntegral 0),
    (.valuCeil, fpTys, 1, eIntegral 1),
    (.valuTrunc, fpTys, 1, eIntegral 2),
    (.valuRndne, fpTys, 1, eIntegral 3),
    (.valuFract, fpTys, 1, eFract),
    (.valuMulLo, intTys, 2, eMulLo),
    (.valuMulHi, intTys, 2, eMulHi),
    (.valuMadLo, intTys, 3, eMadLo),
    (.valuAnd, intTys, 2, eBit (· &&& ·)),
    (.valuOr, intTys, 2, eBit (· ||| ·)),
    (.valuXor, intTys, 2, eBit (· ^^^ ·)),
    (.valuNot, intTys, 1, eNot),
    (.valuShl, intTys, 2, eShl),
    (.valuShr, intTys, 2, eShr),
    (.valuSar, intTys, 2, eSar),
    (.valuBfe, intTys, 3, eBfe),
    (.valuBfi, intTys, 3, eBfi),
    (.valuPopc, intTys, 1, ePopc),
    (.valuClz, intTys, 1, eClz),
    (.valuCtz, intTys, 1, eCtz),
    (.valuBrev, intTys, 1, eBrev),
    (fun g i _ => .valuMov g i, [.u32], 1, fun _ a _ _ => (a, 0))]

/-- ADD and SUB of VALU. -/
def addTable : List ElRow := [(.valuAdd, fpbTys ++ intTys, 2, eAdd), (.valuSub, fpTys ++ intTys, 2, eSub)]

/-- The element-wise commands of VALU64 (R250). -/
def valu64Table : List ElRow := [
    (.valu64Add, .f64 :: i64Tys, 2, eAdd),
    (.valu64Sub, i64Tys, 2, eSub),
    (fun g i _ => .valu64Mul g i, [.f64], 2, eMul),
    (fun g i _ => .valu64Fma g i, [.f64], 3, eFma),
    (fun g i _ => .valu64Min g i, [.f64], 2, eMin false),
    (fun g i _ => .valu64Max g i, [.f64], 2, eMin true),
    (fun g i _ => .valu64Minimum g i, [.f64], 2, eMinP false),
    (fun g i _ => .valu64Maximum g i, [.f64], 2, eMinP true),
    (fun g i _ => .valu64Floor g i, [.f64], 1, eIntegral 0),
    (fun g i _ => .valu64Ceil g i, [.f64], 1, eIntegral 1),
    (fun g i _ => .valu64Trunc g i, [.f64], 1, eIntegral 2),
    (fun g i _ => .valu64Rndne g i, [.f64], 1, eIntegral 3),
    (fun g i _ => .valu64Fract g i, [.f64], 1, eFract),
    (fun g i _ => .valu64And g i, [.u64], 2, eBit (· &&& ·)),
    (fun g i _ => .valu64Or g i, [.u64], 2, eBit (· ||| ·)),
    (fun g i _ => .valu64Xor g i, [.u64], 2, eBit (· ^^^ ·)),
    (fun g i _ => .valu64MulLo g i, [.u64], 2, eMulLo)]

/-- The SFU commands (R253). -/
def sfuTable : List ElRow := [
    (.sfuRcp, [.f32, .f16, .f64], 1, fun t a _ _ => t.fm.sfu .rcp a),
    (.sfuRsq, [.f32, .f16, .f64], 1, fun t a _ _ => t.fm.sfu .rsq a),
    (.sfuSqrt, fpTys, 1, fun t a _ _ => t.fm.sfu .sqrt a),
    (.sfuExp2, fpTys, 1, fun t a _ _ => t.fm.sfu .exp2 a),
    (.sfuLog2, fpTys, 1, fun t a _ _ => t.fm.sfu .log2 a),
    (.sfuSin, fpTys, 1, fun t a _ _ => t.fm.sfu .sin a),
    (.sfuCos, fpTys, 1, fun t a _ _ => t.fm.sfu .cos a)]

/-- The sources of an element-wise command. -/
def elSrcs (i : Ins) (t : NTy) (ns : Nat) : List Opd :=
  ([⟨i.src0, .any, t.regW / 32⟩, ⟨i.src1, .any, t.regW / 32⟩, ⟨i.src2, .any, t.regW / 32⟩] : List Opd).take ns

/-- Result and flags of an element-wise command in a lane: of the one element, or of both of a packed pair. -/
def Grp.elRes (x : Grp) (i : Ins) (t : NTy) (ns : Nat) (f : NTy → Nat → Nat → Nat → Nat × Nat) (l : Nat) : Nat × Nat :=
  let r (j : Nat) : Nat × Nat := f t (x.elt i t 0 i.src0 l j) (if ns > 1 then x.elt i t 1 i.src1 l j else 0)
    (if ns > 2 then x.elt i t 2 i.src2 l j else 0)
  if t.size = 16 then ((r 0).1 + (r 1).1 * 2 ^ 16, (r 0).2 ||| (r 1).2) else r 0

/-- A scalar command of one or two sources: it, the number of its sources, the registers of its second one for a type, and
its result. -/
abbrev SalRow := (Nat → Ins → NTy → Instr) × Nat × (NTy → Nat) × (NTy → Nat → Nat → Nat)

/-- The scalar commands whose destination has the type of the source (R250). -/
def saluTable : List SalRow := [
    (.saluAdd, 2, fun t => t.regW / 32, fun t a b => (a + b) % 2 ^ t.size),
    (.saluSub, 2, fun t => t.regW / 32, fun t a b => ofSigned t.size ((a : Int) - b)),
    (.saluMulLo, 2, fun t => t.regW / 32, fun t a b => a * b % 2 ^ t.size),
    (.saluAnd, 2, fun t => t.regW / 32, fun _ a b => a &&& b),
    (.saluOr, 2, fun t => t.regW / 32, fun _ a b => a ||| b),
    (.saluXor, 2, fun t => t.regW / 32, fun _ a b => a ^^^ b),
    (.saluNot, 1, fun _ => 1, fun t a _ => 2 ^ t.size - 1 - a),
    (.saluShl, 2, fun _ => 1, fun t a b => a * 2 ^ (b % t.size) % 2 ^ t.size),
    (.saluShr, 2, fun _ => 1, fun t a b => a / 2 ^ (b % t.size)),
    (.saluSar, 2, fun _ => 1, fun t a b => ofSigned t.size (toSigned t.size a / (2 ^ (b % t.size) : Nat))),
    (.saluMin, 2, fun t => t.regW / 32, fun t a b => if t.int a < t.int b then a else b),
    (.saluMax, 2, fun t => t.regW / 32, fun t a b => if t.int a < t.int b then b else a),
    (.saluMov, 1, fun _ => 1, fun _ a _ => a)]

/-- The byte of HBM or of host memory at a physical address, whatever the L2 holds. -/
def State.homeByte (s : State) (pa : Nat) : Byte := if pa / 2 ^ 48 = 3 then s.mem.host.get (pa % 2 ^ 48) else s.mem.hbm.get (pa % 2 ^ 48)

/-- The byte that a reader of a physical address gets: the L2's where a line holds it, else that of the memory behind. -/
def State.lineByte (s : State) (pa : Nat) : Byte :=
  match s.mem.l2.get? (pa / 128) with
  | some l => if bit l.held (pa % 128) then l.data.getD (pa % 128) 0 else s.homeByte pa
  | none => s.homeByte pa

/-- A physical address of this device's HBM or of the host. -/
def State.nearPa (s : State) (pa : Nat) : Prop := pa / 2 ^ 48 = 3 ∨ pa / 2 ^ 48 = s.dev

/-- Memory is sound and at rest: no upset and no poisoned line, no range being zeroed, the link up, and every line of the L2
is of near memory, whole, and where clean as the memory behind it. -/
structure State.quietMem (s : State) : Prop where
  upsets : s.mem.upsets = []
  poison : s.mem.poison = []
  jobs : s.mem.jobs = [] ∧ s.mem.waitParts = [] ∧ s.mem.waitJobs = []
  dev : s.dev < 3
  link : s.hostUp = true
  canon : s.mem.hbm.wf = true ∧ s.mem.host.wf = true
  lines : ∀ k l, s.mem.l2.get? k = some l → s.nearPa (k * 128) ∧ l.data.length = 128 ∧
    ∀ o < 128, (bit l.dirty o = true → bit l.held o = true) ∧
      (bit l.held o = true → bit l.dirty o = false → l.data.getD o 0 = s.homeByte (k * 128 + o))

/-- The step at `s` answers a next state. -/
def State.goesOn (s : State) : Prop := ∃ t, step s = .next t

/-- A write of the whole word at BAR0 address `a` of block `b` reaches register fields: the device is not in OFF, the window
answers, the word is none of COMMIT, CFG_STATUS, a buffer, a table or a context's first word, and the block forbids no field of
it now (R13). -/
structure State.RegWordAt (s : State) (b : Blk) (a v : Nat) : Prop where
  on : s.pwr.off = false
  up : s.winUp b = true
  blk : Blk.ofAddr a = some b
  whole : a % 8 = 0
  commit : a - b.base ≠ 0xFF0 ∧ a - b.base ≠ 0xFF8
  allowed : s.forbidden a (2 ^ 64 - 1) v = false
  table : b = .glb → ¬ (0x80000 ≤ a ∧ a < 0x88000)
  gamma : b = .glz → lutAt (a - b.base) = none
  buf : (b = .rst → ¬ (0xA000 ≤ a - b.base ∧ a - b.base < 0xB000)) ∧ (b = .odm → ¬ (0x1000 ≤ a - b.base ∧ a - b.base < 0x2000))
  ctx : b = .fe → ¬ (0x20000 ≤ a - b.base ∧ a - b.base < 0x24000 ∧ a % 16 = 0)

/-- Every field of a list of keys reads in `t` as in `s`. -/
def FldsKept (s t : State) (l : List (Fld × Nat)) : Prop := ∀ p ∈ l, t.rd p.1 p.2 = s.rd p.1 p.2

/-- A register field that the recording of an event writes: those of the delivery of notifications, the fault outputs and
incidents of SAF, the counters of SAF and ODM, and the next incident number. -/
def recFld (F : Fld) : Bool :=
  evFld F || F.among (SAF_STATUS.fields ++ SAF_ROUTED.fields ++ SAF_INC.fields ++ SAF_CTR.fields ++ ODM_CTR.fields ++ LDG_INCIDENT.fields)

/-- From `s` to `t` events were recorded and nothing else happened: notifications, the fault outputs and incidents, records that
wait for the Ledger, EMCY messages and the error field. -/
structure RecordOnly (s t : State) : Prop where
  rd : ∀ F i, recFld F = false → t.rd F i = s.rd F i
  ldg : ∃ r, t.ldg = { s.ldg with wait := s.ldg.wait ++ r }
  rest : t = { s with regs := t.regs, irq := t.irq, out := t.out, freeCtr := t.freeCtr, ldg := t.ldg, saf := t.saf,
                      emcyQ := t.emcyQ, errField := t.errField, errReg := t.errReg }

/-- A register field that an access to memory writes: those of recording, the counters and logs of the memory controllers, of
the L2 and of the ports, the performance counters, and the trace's and the Sweep's own. -/
def memFld (F : Fld) : Bool :=
  recFld F || F.among (MC_ECC_CTR.fields ++ MC_ERRLOG.fields ++ MC_ERRLOG_WPTR.fields ++ MC_STATUS.fields ++ L2_SLICE_CTR.fields ++
    PXL_PORT.fields ++ PMU_CNT.fields ++ DBG_TRACE.fields ++ DBG_CTR.fields ++ MC_SWEEP.fields)

/-- From `s` to `t` memory was accessed and nothing else happened: memory and the L2 with their logs and counters, requests on
the ports, and what is recorded. -/
structure MemOnly (s t : State) : Prop where
  rd : ∀ F i, memFld F = false → t.rd F i = s.rd F i
  rest : t = { s with regs := t.regs, irq := t.irq, out := t.out, freeCtr := t.freeCtr, ldg := t.ldg, saf := t.saf,
                      emcyQ := t.emcyQ, errField := t.errField, errReg := t.errReg, mem := t.mem }

/-- A shader command `c` of opcode `k` whose instruction issues with these operands, and where `ok` holds of it and of its group, goes on to
change its group alone, to `f`. -/
def GroupRule (c : Nat → Ins → Instr) (k : OpCode) (scalar : Bool) (ops : Ins → List Opd) (mods : Nat) (lit : Bool) (ok : Ins → GEnv → Prop)
    (f : Ins → GEnv → Grp) : Prop :=
  ∀ (s u : State) (g : Nat) (i : Ins) (e0 e : GEnv), Issues s k g i scalar (ops i) mods lit e0 u e → ok i e →
    Answers (c g i) s fun t => GrpOnly u t g (f i e)

/-- The group of `e` can issue at `s` the instruction `i` of opcode `k`, which it fetches at `v`, and meets no breakpoint; no
emission of it is pending. -/
structure Fetches (s : State) (k : OpCode) (g : Nat) (i : Ins) (e : GEnv) (v : State) : Prop where
  grp : s.genv g = some e
  can : s.canIssue e = true
  rets : e.grp.rets = []
  held : s.pipeHeld k g = false
  fetch : s.fetches k i e v
  bp : v.bpHit e = none

/-- From `v` to `t` the group of `e` trapped with cause `c` (R204 to R208): with a handler and outside of it, the group enters it
with the trap's registers set and all else as it was; else its context faults. With hits of an emission still to come it stays where
it is and waits for them. Memory and the other groups are as before. -/
structure TrapsAt (v t : State) (e : GEnv) (c : Nat) : Prop where
  enter : e.grp.rets = [] → e.grp.trap.inHandler = false → e.disp.kd.trapVa ≠ 0 → ∃ info, t.sh.grps.get? e.id = some { e.grp with
    skipBp := false, pc := e.disp.kd.trapVa, stepping := if e.grp.stepping = 1 then 2 else e.grp.stepping,
    trap := { inHandler := true, pc := e.grp.pc, cause := c, exec := e.grp.exec, info := info } }
  fault : e.grp.rets = [] → e.grp.trap.inHandler = true ∨ e.disp.kd.trapVa = 0 → t.rd FE_CTX.STATE e.grp.ctx = 2 ∧
    ∃ td, t.tds.get? e.grp.ctx = some td ∧ td.driver = false ∧ td.code = (if e.grp.trap.inHandler then 0x32 else 0x31) ∧
      td.engine = clusterOf e.id ∧ td.detail = trapDetail e.grp.pc e.id c
  waits : e.grp.rets ≠ [] → ∃ info n, t.sh.grps.get? e.id = some { e.grp with
    skipBp := false, stepping := n, trapReq := some (c, info) }
  keep : ∀ k, k ≠ e.id → t.sh.grps.get? k = v.sh.grps.get? k
  mem : t.mem = v.mem ∧ t.tly = v.tly

/-- The command `c`, an instruction `i` of opcode `k` that the group of `e` fetches at `s`, traps with cause `n`. -/
def Traps (c : Instr) (s : State) (k : OpCode) (i : Ins) (e : GEnv) (n : Nat) : Prop :=
  ∃ v, s.fetches k i e v ∧ Answers c s fun t => TrapsAt v t e n

/-- The branch target of an instruction of a group whose PC stands behind it (R224). -/
def branchTo (x : Grp) (i : Ins) : Nat := ((x.pc : Int) + 8 * toSigned 32 i.x).toNat % 2 ^ 48

/-- A compare and what it holds for: less, equal, greater and unordered operands. -/
abbrev CmpRow := (Nat → Ins → NTy → Bool → Instr) × List NTy × (Bool × Bool × Bool × Bool)

/-- The relational compares (R250, R257). -/
def vcmpTable : List CmpRow := [
    (.vcmpEq, cmpTys, false, true, false, false), (.vcmpNe, cmpTys, true, false, true, true),
    (.vcmpLt, cmpTys, true, false, false, false), (.vcmpLe, cmpTys, true, true, false, false),
    (.vcmpGt, cmpTys, false, false, true, false), (.vcmpGe, cmpTys, false, true, true, false),
    (.vcmpOrd, [.f64, .f32, .f16], true, true, true, false), (.vcmpUnord, [.f64, .f32, .f16], false, false, false, true)]

/-- The atomic commands with their operations and widths (R233). -/
def atomTable : List ((Nat → Ins → Instr) × Atom × Bool × Bool) := [
    (.atomAdd, .add, true, true), (.atomSub, .sub, true, true), (.atomMinS, .minS, true, true), (.atomMinU, .minU, true, true),
    (.atomMaxS, .maxS, true, true), (.atomMaxU, .maxU, true, true), (.atomAnd, .and, true, true), (.atomOr, .or, true, true),
    (.atomXor, .xor, true, true), (.atomSwap, .swap, true, true), (.atomCas, .cas, true, true),
    (.atomFaddF32, .faddF32, true, false), (.atomFaddF64, .faddF64, false, true), (.atomFminF32, .fminF32, true, false),
    (.atomFmaxF32, .fmaxF32, true, false)]

/-- The operands of an atomic. -/
def atomOpds (i : Ins) (op : Atom) : List Opd :=
  let w := if bit i.md 2 then 64 else 32
  (if bit i.md 3 then [⟨i.dst, .v, w / 32⟩] else []) ++
    [⟨i.src2, if op = .cas then .v else .any, if op = .cas then w / 16 else w / 32⟩] ++ addrOpds i

/-- The atomic's form is defined (R233). -/
def atomForm (i : Ins) (w32 w64 : Bool) : Prop :=
  bits i.md 0 2 < 2 ∧ (bit i.md 6 = true → bits i.md 0 2 = 0) ∧ ordOk i = true ∧ (ordOf i = 1 → bit i.md 3 = true) ∧
  (if bit i.md 2 then w64 else w32) = true

/-- The opcode of a CTRL instruction (R221, R224). -/
def ctrlOp (n : Nat) : OpCode := ⟨9, some n⟩

end Sys2Proof.Machine
end

