-- ==== Sys2Proof/Certificates/Slice0/Obligations.lean ====
section
/-! DEFINITION. The statements for the provers, in the order of the spec's chapters. Each says when its commands go on to a next state
and what that state holds. -/

open Sys2Proof Sys2Proof.Machine

/-! ## The machine as a whole -/

/-- A step on a queue with a command in front is that command's effect on the state with the queue's rest. -/
def Obligations.StepRunsFront : Prop :=
  ∀ (s : State) (c : Instr) (r : List Instr), s.pending = c :: r → step s = exec c { s with pending := r }

/-- The model's choice (assumption 5): on an empty queue 10 ns pass. Only register fields (operating seconds, budgets), the
tick's own samples and notifications move with the time, and no command is invented.

The model's choice: the table gives no row a word, so no word spells a command and no word enters the queue. -/
def Obligations.IdleStepAndNoWords : Prop :=
  (
  ∀ s : State, s.pending = [] → ∃ t, step s = .next t ∧ t.now = s.now + 10 ∧ t.pending = [] ∧
    t = { s with now := s.now + 10, regs := t.regs, tick := t.tick, irq := t.irq, out := t.out, freeCtr := t.freeCtr }
  ) ∧ (
  ∀ (nbits w : Nat) (s : State), decodeTableWord nbits w = none ∧ s.withFetchWord nbits w = s
  )

/-- What reset leaves: every register field reads its reset value, with identity, revision and manager role as their register
tables state; the capability table is not valid; no context or queue is in use; time is 0 and no command waits. -/
def Obligations.ResetValues : Prop :=
  (∀ (F : Fld) (i : Nat), State.reset.rd F i = F.reset ∧ State.reset.rdSh F i = F.reset) ∧
  State.reset.rd GLB_ID.FAMILY = 1 ∧ State.reset.rd GLB_ID.DIE = 0x9240 ∧ State.reset.rd GLB_ID.VARIANT = 0xFF ∧
  State.reset.rd GLB_REV.IFACE_REV = 1 ∧ State.reset.rd GLB_DEVNUM.MANAGER = 1 ∧ State.reset.rd PWR_ENVELOPE.WATTS = 300 ∧
  State.reset.rd FE_STATUS.IDLE = 0x1F ∧ (∀ c, State.reset.rd FE_CTX.STATE c = 0) ∧ (∀ q, State.reset.rd FE_Q.STATE q = 0) ∧
  State.reset.cap.valid = false ∧ State.reset.now = 0 ∧ State.reset.pending = [] ∧ State.reset.out = []

/-- The canonical form of the data holds at reset. -/
def Obligations.ResetIsCanonical : Prop := State.reset.canon

/-- Every step keeps the canonical form of the data: the memories of HBM, the host, the Ledger and the flash list no byte twice
and none that reads 0, and the register store lists each field once, in order. -/
def Obligations.StepKeepsCanonicalForm : Prop :=
  ∀ s t : State, s.canon → step s = .next t → t.canon

/-- No step changes the fuses, takes back what has left the device, or uses a free value twice; the timestamp runs on or, at a
power-on reset, starts again; and a step takes from the queue the command in front and no other. -/
def Obligations.StepKeepsFusesAndRecord : Prop :=
  ∀ s t : State, step s = .next t →
    t.boot.fuses = s.boot.fuses ∧ s.out <+: t.out ∧ s.freeCtr ≤ t.freeCtr ∧ (t.now = 0 ∨ s.now ≤ t.now) ∧
    t.pending = s.pending.tail

/-- Every command goes on to a next state, but for POWER_ON with supplies outside the order or range of R652, for which the
spec gives no behaviour: there, and nowhere else, the machine stops. -/
def Obligations.OnlyRatingsStop : Prop :=
  ∀ (c : Instr) (s : State), if c = .powerOn false then exec c s = .fault .ratings else ∃ t, exec c s = .next t

/-! ## Registers and the host (chapters 01 and 02) -/

/-- A whole-word write of the physical function to a register word (R9, R10): of each field in the word, an RW Live field is
set, an RW Staged field is held in its shadow while the committed value stays, a W1C bit written 1 clears, and an RO field and
a field whose writes are commands of their own stay. Nothing else in the registers changes before what follows the write in
the SAF/ASY, GLB and DBG windows (`afterWrite`). A nonzero write loads an RW counter: the model's choice, assumption 9.

Where a write of a register word does not reach a field: in OFF and in a window that does not answer it is ignored (R2,
R545, R566, R590), as is a virtual function's outside its MSI-X table (R48); a write that the block forbids now changes no field, sets CFG_ERR, records the word's offset in ERR_OFFSET,
leaves REFUSED, and raises the block's event (R13); a write to CFG_STATUS clears CFG_ERR and REFUSED where it writes 1. -/
def Obligations.RegisterWrites : Prop :=
  (
  ∀ (s : State) (b : Blk) (a v : Nat), v < 2 ^ 64 → s.RegWordAt b a v →
    Answers (.registerWrite 0 .bar0 a 8 v) s fun t => ∃ u : State, t = u.afterWrite s b a ∧
      u = { s with regs := u.regs, shadows := u.shadows } ∧ RegsKept s u (fieldsAt a) ∧
      ∀ F i, F ∈ regTable → (F, i) ∈ fieldsAt a →
        if s.fldThere F i = false ∨ F.among ownRow ∨ F.acc = .ro ∨ F.acc = .rc ∨ F.acc = .wo ∨ F.acc = .w1s then u.rd F i = s.rd F i
        else if F.acc = .w1c then u.rd F i = (s.rd F i - (s.rd F i &&& bits v F.lo F.w)) % 2 ^ F.w
        else if F.staged then u.rdSh F i = bits v F.lo F.w ∧ u.rd F i = s.rd F i
        else F.ctr = false ∨ bits v F.lo F.w ≠ 0 → u.rd F i = bits v F.lo F.w
  ) ∧ (
  ∀ (s : State) (b : Blk) (a v : Nat), v < 2 ^ 64 → Blk.ofAddr a = some b → a % 8 = 0 →
    (∀ n, n ≠ 0 → ¬ (0x300000 ≤ a ∧ a < 0x300200) → exec (.registerWrite n .bar0 a 8 v) s = .next s) ∧
    (s.pwr.off = true ∨ s.winUp b = false → exec (.registerWrite 0 .bar0 a 8 v) s = .next s) ∧
    (s.pwr.off = false → s.winUp b = true → a - b.base ≠ 0xFF0 → a - b.base ≠ 0xFF8 → s.forbidden a (2 ^ 64 - 1) v = true →
      Answers (.registerWrite 0 .bar0 a 8 v) s fun t => ∃ u : State, t = u.raise b.cfgSrc ∧
        WriteOnly s u [(CFG.CFG_ERR, b.idx), (CFG.ERR_OFFSET, b.idx)] ∧
        u.on CFG.CFG_ERR b.idx = true ∧ u.rd CFG.ERR_OFFSET b.idx = bits (a - b.base) 2 18) ∧
    (s.pwr.off = false → s.winUp b = true → a - b.base = 0xFF8 →
      Answers (.registerWrite 0 .bar0 a 8 v) s fun t => WriteOnly s t [(CFG.CFG_ERR, b.idx), (CFG.REFUSED, b.idx)] ∧
        (bit v 0 = true → t.on CFG.CFG_ERR b.idx = false) ∧ (bit v 0 = false → t.rd CFG.CFG_ERR b.idx = s.rd CFG.CFG_ERR b.idx) ∧
        (bit v 2 = true → t.on CFG.REFUSED b.idx = false) ∧ (bit v 2 = false → t.rd CFG.REFUSED b.idx = s.rd CFG.REFUSED b.idx))
  )

/-- COMMIT (R12, R71): with no changed shadow nothing happens. When the block's rules hold, every shadow of the block goes into
force at once, the tick's to the next tick start (R435), and the block's `applied` follows. When a rule fails, no shadow is
applied and none is lost, CFG_ERR and REFUSED are set with the COMMIT offset, and the block's event is raised.

DISCARD (R72): every shadow of the block takes its committed value and no committed value changes. The Tick fields that a
commit has released to the next tick start count as committed (R435).

A clear (R15): a write of 0 to a counter, or of 1 to its CLR bit, makes the counter and its OVF bit 0, in every counter that
it names and that is there; what follows in the SAF/ASY window is its level source. A Tally's counter in BAR2 is cleared so by a function that may reach it. -/
def Obligations.CommitDiscardAndClear : Prop :=
  (
  ∀ (s : State) (b : Blk), s.winUp b = true → hasCommit b = true →
    (s.changed b = [] → exec (.commit b) s = .next s) ∧
    (s.changed b ≠ [] → commitRules b s (s.withKeys (s.blkKeys b)) (s.changed b) = true →
      Answers (.commit b) s fun t => ∃ u : State, t = u.applied b s (s.changed b) ∧
        u = { s with regs := u.regs, shadows := u.shadows, tick := { s.tick with rel := u.tick.rel } } ∧
        ∀ F ∈ regTable, ∀ i, if commitBlk (F.fid, i) = some b ∧ isTickFld F.fid = false then u.rd F i % 2 ^ F.w = s.rdSh F i % 2 ^ F.w
          else u.rd F i = s.rd F i) ∧
    (s.changed b ≠ [] → commitRules b s (s.withKeys (s.blkKeys b)) (s.changed b) = false →
      Answers (.commit b) s fun t => ∃ u : State, t = u.raise b.cfgSrc ∧
        WriteOnly s u [(CFG.CFG_ERR, b.idx), (CFG.REFUSED, b.idx), (CFG.ERR_OFFSET, b.idx)] ∧
        u.on CFG.CFG_ERR b.idx = true ∧ u.on CFG.REFUSED b.idx = true ∧ u.rd CFG.ERR_OFFSET b.idx = 0x3FC)
  ) ∧ (
  ∀ (s : State) (b : Blk), s.winUp b = true → hasCommit b = true →
    Answers (.discard b) s fun t => t = { s with shadows := t.shadows } ∧
      ((b = .fe → s.tick.rel = []) → ∀ F ∈ regTable, ∀ i,
        t.rdSh F i = if commitBlk (F.fid, i) = some b then s.rd F i else s.rdSh F i)
  ) ∧ (
  (∀ (s : State) (f off : Nat) (clr : Bool), s.funcUp f = true → s.pwr.off = false → s.blkUp .tly = true →
    alignDown off 8 / 64 < 8192 → s.vfTally f (alignDown off 8 / 64) = true →
    Answers (.counterClear f .bar2 off clr) s fun t => ∃ u : State, t = u.wakeAccess ∧
      ∀ p ∈ clrTargets (0x10000000 + alignDown off 8) clr, u.rd p.1 p.2 = 0 ∧
        ∀ o k O, p.1.ovf = some (o, k) → fldOf o = some O → k < O.w → bit (u.rd O p.2) k = false) ∧
  ∀ (s : State) (b : Blk) (off : Nat) (clr : Bool), s.pwr.off = false → Blk.ofAddr (alignDown off 8) = some b → s.winUp b = true →
    Answers (.counterClear 0 .bar0 off clr) s fun t => ∃ u : State, t = (if b = .saf then u.safUpdate else u) ∧
      ∀ p ∈ clrTargets (alignDown off 8) clr, s.fldThere p.1 p.2 = true →
        u.rd p.1 p.2 = 0 ∧ ∀ o k O, p.1.ovf = some (o, k) → fldOf o = some O → k < O.w → bit (u.rd O p.2) k = false
  )

/-- Reads of a 64-bit word (R17, R57): a whole read returns it; a low-half read returns its low half and a high-half read that
follows returns the high half of the same moment, whatever stands there by then, and releases the latch; without a latch of
that word the current high half is returned (configuration space has no latch); an access of another size or alignment returns 0, sets GLB_ACC_ERR.SIZE with the
function, BAR and offset, raises MMIO_ACCESS, and does nothing else. A reserved register word reads as 0 (R7).

The PCIe link (R41, R42, R47, R59): when training ends GLB_LINK holds the rate, width, mode and UP, and BELOW_MIN exactly
below 16 GT/s or ×4; a link that was down on an enabled device is up again. When the link goes down GLB_LINK is all zero, and
an enabled device goes on, holds that it is down, keeps its EMCY and Ledger record, and sets the communication bit of the error
register.

SR-IOV (R50, R51): enabling lends the entries of VF `n`, masked; shrinking or clearing gives them back as the PF left them
(the model's choice, log entry 60) and drops what the gone functions held; a smaller NumVFs with VF Enable set shrinks. -/
def Obligations.HostReads : Prop :=
  (
  (∀ (s : State) (f : Nat) (sp : Space) (off : Nat), off % 8 = 0 →
    Answers (.lowWordRead f sp off true) s (fun t => t = { (s.readWord f sp off).2 with rdata := (s.readWord f sp off).1 }) ∧
    Answers (.lowWordRead f sp off false) s (fun t => t.rdata = (s.readWord f sp off).1 % 2 ^ 32 ∧
      t.bus.latch.get? f = if sp = .cfg then (s.readWord f sp off).2.bus.latch.get? f
        else some (latchKey sp off, (s.readWord f sp off).1 / 2 ^ 32)) ∧
    (∀ h, s.bus.latch.get? f = some (latchKey sp off, h) → Answers (.highWordRead f sp (off + 4)) s fun t =>
      t = { s with rdata := h, bus := t.bus } ∧ t.bus.latch.get? f = none) ∧
    ((∀ h, s.bus.latch.get? f ≠ some (latchKey sp off, h)) → Answers (.highWordRead f sp (off + 4)) s fun t =>
      t = { (s.readWord f sp off).2 with rdata := (s.readWord f sp off).1 / 2 ^ 32 })) ∧
  (∀ (s : State) (f : Nat) (sp : Space) (off : Nat), s.funcUp f = true → s.winUp .glb = true → sp ≠ .cfg →
    Answers (.barAccessMisaligned f sp off) s fun t => ∃ u : State, t = u.raise 0x24 ∧ u.rdata = 0 ∧
      WriteOnly { s with rdata := 0 } u [(GLB_ACC_ERR.SIZE, 0), (GLB_ACC_ERR.BAR, 0), (GLB_ACC_ERR.FUNC, 0), (GLB_ACC_ERR.OFFSET, 0)] ∧
      u.on GLB_ACC_ERR.SIZE = true ∧ u.rd GLB_ACC_ERR.BAR = (if sp = .bar0 then 0 else 1) ∧
      u.rd GLB_ACC_ERR.FUNC = f % 256 ∧ u.rd GLB_ACC_ERR.OFFSET = off % 2 ^ 32) ∧
  (∀ (s : State) (a : Nat), fieldsAt a = [] → s.regWord a = 0)
  ) ∧ (
  (∀ (s : State) (speed width : Nat) (flit : Bool), s.boot.por = false → s.boot.perst = false → s.boot.hold = false →
    s.rd RST_BOOT_STEP.STATE 1 ≠ 0 → 1 ≤ speed ∧ speed ≤ 6 → width ∈ [1, 2, 4, 8, 16] →
    Answers (.linkUp speed width flit) s fun t => t.rd GLB_LINK.SPEED = speed ∧ t.rd GLB_LINK.WIDTH = width ∧
      t.on GLB_LINK.UP = true ∧ t.rd GLB_LINK.FLIT = b2n ((flit && 4 ≤ speed) || speed == 6) ∧
      (t.on GLB_LINK.BELOW_MIN = true ↔ speed < 4 ∨ width < 4) ∧ t.bus = { s.bus with down := false } ∧ t.mem = s.mem ∧
      t.fe = s.fe ∧ t.tick = s.tick ∧
      (s.bus.down = false → s.errReg = 0 → t = { s with regs := t.regs, irq := t.irq, out := t.out, freeCtr := t.freeCtr } ∧
        RegsKeptEv s t [(GLB_LINK.SPEED, 0), (GLB_LINK.WIDTH, 0), (GLB_LINK.FLIT, 0), (GLB_LINK.UP, 0), (GLB_LINK.BELOW_MIN, 0)])) ∧
  (∀ s : State, s.on GLB_LINK.UP = true → Answers .linkDown s fun t => t.rd GLB_LINK.SPEED = 0 ∧ t.rd GLB_LINK.WIDTH = 0 ∧
      t.on GLB_LINK.FLIT = false ∧ t.on GLB_LINK.UP = false ∧ t.on GLB_LINK.BELOW_MIN = false ∧ t.mem = s.mem ∧ t.fe = s.fe ∧
      t.tick = s.tick ∧
      (s.on RST_BOOT_CTL.ENABLED = true → t.bus = { s.bus with down := true } ∧ (∃ r, t.ldg.wait = s.ldg.wait ++ r ∧ r ≠ []) ∧
        bit t.errReg 4 = true) ∧
      (s.on RST_BOOT_CTL.ENABLED = false → t = { s with regs := t.regs }))
  ) ∧ (
  (∀ (s : State) (n : Nat), 1 ≤ n → n ≤ 63 → s.rd RST_BOOT_STEP.STATE 1 ≠ 0 → s.bus.vfEn = true → n ≤ s.bus.numVfs →
    exec (.vfEnable n) s = exec (.vfDisable n) s) ∧
  (∀ (s : State) (n : Nat), 1 ≤ n → n ≤ 63 → s.rd RST_BOOT_STEP.STATE 1 ≠ 0 → (s.bus.vfEn = true → s.bus.numVfs < n) →
    Answers (.vfEnable n) s fun t => t.bus.vfEn = true ∧ t.bus.numVfs = n ∧
      (∀ v, 2048 - 32 * n ≤ v → v < 2048 → (t.lentTo v).isSome = true ∧ ((s.lentTo v) = none → v ∉ t.bus.unmasked ∧
        (v ∈ t.bus.keptUnmasked ↔ v ∈ s.bus.unmasked) ∧ t.irq.held.get? v = none)) ∧
      (∀ v, v < 2048 - 32 * n → t.lentTo v = none) ∧
      RegsKeptEv s t [(CFG.CFG_ERR, 0)] ∧ t = { s with regs := t.regs, irq := t.irq, out := t.out, freeCtr := t.freeCtr, bus := t.bus } ∧
      ((∃ k < 64, s.on INTC_TGT.EN k = true ∧ s.lentTo (s.rd INTC_TGT.VECTOR k) = none ∧
        2048 - 32 * n ≤ s.rd INTC_TGT.VECTOR k ∧ s.rd INTC_TGT.VECTOR k < 2048) → t.on CFG.CFG_ERR 0 = true)) ∧
  (∀ (s : State) (n : Nat), s.bus.vfEn = true → n < s.bus.numVfs →
    Answers (.vfDisable n) s fun t => t.bus.numVfs = n ∧ (t.bus.vfEn = true ↔ n ≠ 0) ∧
      (∀ v, v < 2048 - 32 * n → t.lentTo v = none) ∧ (∀ f, n < f → f ∉ t.bus.msixEn ∧ t.bus.latch.get? f = none) ∧
      (∀ v, 2048 - 32 * s.bus.numVfs ≤ v → v < 2048 - 32 * n → (v ∈ t.bus.unmasked ↔ v ∈ s.bus.keptUnmasked)) ∧
      RegsKeptEv s t [] ∧ t = { s with regs := t.regs, irq := t.irq, out := t.out, freeCtr := t.freeCtr, bus := t.bus })
  )

/-- The control interval (R28, R29, R591): package power, the fixed supplies and the temperature are what was measured; above
105 °C both rails lose one level, over the envelope each rail over its share loses one, no other clock changes in the interval,
and the count of qualifying intervals starts again where power is not below 95 % of the envelope. Without an answer of the
AVSBus the interval counts as mute, the temperature is taken all the same, and the tenth in a row brings both rails to level 0.
The tenth interval
below 95 % asks the one rail that wants more for the voltage of its next level, and its clocks wait for the answer.

A regulator (R31): its acknowledgement is recorded and ends the request, and a rail being raised takes the clocks of the
requested level only then, and one later than 500 µs is a miss; without one in 500 µs the rail keeps its level, the miss is counted, and the device raises
PWR_REG_NACK and goes on.

The monitors (R596): an adaptive rail more than 60 mV above its highest voltage sets VMON, makes FAULT_N's cause and brings
both rails to level 0; one more than 60 mV below its plan and a fixed supply off by more than 5 % set VMON and open the device
incident; a reading in range changes nothing. A clock off by more than 2 % and a stopped reference clock set CMON and open the
device incident. The die at 110 °C or more sets TMON and the clamp and brings both rails to level 0; below 100 °C the clamp
ends; at 125 °C the device goes off. -/
def Obligations.PowerControl : Prop :=
  (
  (∀ (s : State) (core loom : Tele) (fixed tj busy : Nat), s.rd RST_BOOT_STEP.STATE 6 = 2 → s.pwr.off = false →
    s.rd PWR_STATUS.STATE ≠ 2 → s.on DBG_TRACE.TRACE_EN = false →
    Answers (.controlInterval core loom fixed tj busy 0 true) s fun t =>
      t.rd PWR_LEVEL.PKG_W = (core.watts + loom.watts + fixed) % 2 ^ PWR_LEVEL.PKG_W.w ∧
      t.rd PWR_LEVEL.FIXED_W = fixed % 2 ^ PWR_LEVEL.FIXED_W.w ∧ t.rd PWR_LEVEL.TJ = tj % 2 ^ PWR_LEVEL.TJ.w ∧
      (∀ r < 2, t.levelOf r =
        if toSigned 8 tj > 105 ∨ s.pwr.hot ≠ [] ∨ (core.watts + loom.watts + fixed > s.rd PWR_ENVELOPE.WATTS ∧
            260 * (if r = 0 then core.watts else loom.watts) > (s.rd PWR_ENVELOPE.WATTS - fixed) * (if r = 0 then 110 else 150))
        then (if s.levelOf r = 0 then 0 else (s.levelOf r - 1) % 8) else s.levelOf r) ∧
      (95 * s.rd PWR_ENVELOPE.WATTS ≤ 100 * (core.watts + loom.watts + fixed) → t.pwr.below = 0 ∧ t.pwr.second = none) ∧
      t.fe = s.fe ∧ t.sh = s.sh ∧ t.mem = s.mem ∧ t.tly = s.tly ∧ t.looms = s.looms) ∧
  (∀ (s : State) (core loom : Tele) (fixed tj busy guard : Nat), s.rd RST_BOOT_STEP.STATE 6 = 2 → s.pwr.off = false →
    s.rd PWR_STATUS.STATE ≠ 2 → s.on DBG_TRACE.TRACE_EN = false →
    Answers (.controlInterval core loom fixed tj busy guard false) s fun t => t.pwr.mute = s.pwr.mute + 1 ∧
      t.rd PWR_LEVEL.TJ = tj % 2 ^ PWR_LEVEL.TJ.w ∧ (∀ r < 2, t.levelOf r = if s.pwr.mute = 9 then 0
        else if toSigned 8 tj > 105 ∨ s.pwr.hot ≠ [] then (if s.levelOf r = 0 then 0 else (s.levelOf r - 1) % 8)
        else s.levelOf r) ∧ t.fe = s.fe ∧ t.sh = s.sh ∧ t.mem = s.mem ∧ t.tly = s.tly ∧ t.looms = s.looms) ∧
  (∀ (s : State) (core loom : Tele) (fixed tj busy r : Nat), s.rd RST_BOOT_STEP.STATE 6 = 2 → s.pwr.off = false →
    s.rd PWR_STATUS.STATE ≠ 2 → s.pwr.mute = 0 → toSigned 8 tj ≤ 105 → s.pwr.hot = [] → s.errReg = 0 → s.pwr.second = none →
    9 ≤ s.pwr.below → 100 * (core.watts + loom.watts + fixed) < 95 * s.rd PWR_ENVELOPE.WATTS → r < 2 →
    s.wantsUp r (bit busy r) = true → s.wantsUp (1 - r) (bit busy (1 - r)) = false →
    Answers (.controlInterval core loom fixed tj busy 0 true) s fun t => t.on PWR_AVS.PENDING r = true ∧
      t.rd PWR_AVS.VREQ_MV r = s.plan r (s.levelOf r + 1) % 2 ^ PWR_AVS.VREQ_MV.w ∧ t.levelOf 0 = s.levelOf 0 ∧
      t.levelOf 1 = s.levelOf 1 ∧ t.pwr.below = 0 ∧ t.pwr.raising.get? r = some (s.levelOf r + 1, s.now) ∧
      t = { s with regs := t.regs, pwr := t.pwr, saf := t.saf })
  ) ∧ (
  (∀ (s : State) (r l t0 : Nat), r ≤ 1 → s.on PWR_AVS.PENDING r = true → s.pwr.raising.get? r = some (l, t0) →
    t0 + 500000 ≥ s.now → s.on DBG_TRACE.TRACE_EN = false →
    Answers (.regulatorAck r) s fun t => t.rd PWR_AVS.VACK_MV r = s.rd PWR_AVS.VREQ_MV r % 2 ^ PWR_AVS.VACK_MV.w ∧
      t.on PWR_AVS.PENDING r = false ∧ t.pwr = { s.pwr with raising := s.pwr.raising.del r } ∧
      t.levelOf r = (if s.levelOf r < l then l % 8 else s.levelOf r) ∧ t.levelOf (1 - r) = s.levelOf (1 - r) ∧
      t = { s with regs := t.regs, pwr := t.pwr, rt := t.rt }) ∧
  (∀ (s : State) (r l t0 : Nat), r ≤ 1 → s.on PWR_AVS.PENDING r = true → s.pwr.raising.get? r = some (l, t0) →
    t0 + 500000 < s.now → exec (.regulatorAck r) s = exec (.regulatorAckTimeout r) s) ∧
  (∀ (s : State) (r l t0 : Nat), r ≤ 1 → s.pwr.raising.get? r = some (l, t0) → t0 + 500000 ≤ s.now →
    Answers (.regulatorAckTimeout r) s fun t => t.on PWR_AVS.PENDING r = false ∧ t.levelOf r = s.levelOf r ∧
      t.rd PWR_AVS.VREQ_MV r = s.rd PWR_AVS.VREQ_MV r ∧
      (s.rd PWR_AVS.NACKS r + 1 < 2 ^ PWR_AVS.NACKS.w → t.rd PWR_AVS.NACKS r = s.rd PWR_AVS.NACKS r + 1) ∧
      t.pwr = { s.pwr with raising := s.pwr.raising.del r } ∧ t.fe = s.fe ∧ t.mem = s.mem ∧ t.sh = s.sh ∧ t.errReg &&& 4 = 4)
  ) ∧ (
  (∀ (s : State) (sup mv : Nat), sup < 2 → mv > s.vmaxOf sup (s.levelOf sup) + 60 → s.pwr.excess.get? sup = none →
    s.on DBG_TRACE.TRACE_EN = false →
    Answers (.voltageMonitor sup mv) s fun t => t.on SAF_STATUS.VMON = true ∧ 2 ∈ t.saf.causes ∧ t.on SAF_STATUS.FAULT = true ∧
      (t.pwr.excess.get? sup).isSome = true ∧ t.levelOf 0 = 0 ∧ t.levelOf 1 = 0 ∧ t.fe = s.fe ∧ t.mem = s.mem) ∧
  (∀ (s : State) (sup mv : Nat), sup < 2 → mv + 60 < s.plan sup (s.levelOf sup) → mv ≤ s.vmaxOf sup (s.levelOf sup) + 60 →
    s.pwr.excess.get? sup = none →
    Answers (.voltageMonitor sup mv) s fun t => RecordOnly s t ∧ t.on SAF_STATUS.VMON = true ∧ t.on SAF_INC.OPEN 2 = true) ∧
  (∀ (s : State) (sup mv : Nat), sup < 2 → s.plan sup (s.levelOf sup) ≤ mv + 60 → mv ≤ s.vmaxOf sup (s.levelOf sup) + 60 →
    s.pwr.excess.get? sup = none → exec (.voltageMonitor sup mv) s = .next s) ∧
  (∀ (s : State) (k n mv : Nat), nominalMv[k]? = some n →
    if 20 * mv > 21 * n ∨ 20 * mv < 19 * n then
      Answers (.voltageMonitor (k + 2) mv) s fun t => RecordOnly s t ∧ t.on SAF_STATUS.VMON = true ∧ t.on SAF_INC.OPEN 2 = true
    else exec (.voltageMonitor (k + 2) mv) s = .next s) ∧
  (∀ (s : State) (d n : Nat), d < 4 →
    let e := 2 * (if d = 0 then clusterMHz (s.levelOf 0) else if d = 1 then loomMHz (s.levelOf 1)
      else if d = 2 then fabricMHz (s.levelOf 0) else 1200)
    if 50 * n > 51 * e ∨ 50 * n < 49 * e then
      Answers (.clockMonitor d n) s fun t => RecordOnly s t ∧ t.on SAF_STATUS.CMON = true ∧ t.on SAF_INC.OPEN 2 = true
    else exec (.clockMonitor d n) s = .next s) ∧
  (∀ s : State, Answers .refclkLoss s fun t => RecordOnly s t ∧ t.on SAF_STATUS.CMON = true ∧ t.on SAF_INC.OPEN 2 = true ∧
    (s.on SAF_INC.OPEN 2 = false → t.rd SAF_INC.LEVEL 2 = 5 ∧ t.saf.wantFull = true)) ∧
  (∀ (s : State) (c : Nat), s.on DBG_TRACE.TRACE_EN = false → s.pwr.monOff = false →
    Answers (.tempSensorRead c) s fun t =>
      (toSigned 8 c ≥ 110 → s.on SAF_STATUS.THERMAL_CLAMP = false →
        t.on SAF_STATUS.THERMAL_CLAMP = true ∧ t.on SAF_STATUS.TMON = true ∧ t.levelOf 0 = 0 ∧ t.levelOf 1 = 0) ∧
      (toSigned 8 c < 100 → t.on SAF_STATUS.THERMAL_CLAMP = false ∧ RecordOnly s t) ∧
      (100 ≤ toSigned 8 c → toSigned 8 c < 110 → t = s) ∧ (t.pwr.off = true ↔ s.pwr.off = true ∨ toSigned 8 c ≥ 125) ∧ t.sh = s.sh ∧ t.looms = s.looms)
  )

/-! ## Contexts, queues and packets (chapters 03 and 04) -/

/-- The host's EN writes of a context (R82, R83): EN = 1 makes a FREE context of an enabled partition ACTIVE, in the partition
that the write names; in a disabled partition it is ignored and sets CFG_ERR. EN = 0 starts the driver's teardown of an ACTIVE
context and makes a FAULTED one FREE. A write that leaves EN and PART as they read does nothing; one in TEARDOWN that differs
in EN is ignored and sets CFG_ERR.

A fault of an ACTIVE context, here a failed request to host memory, starts its teardown by the device with the fault's code
and EN as it read; a context in another state is unaffected (R47, R84, R177).

The steps of a teardown (R85): each completion moves it one step on, the invalidation of step 4 first being done; the last
ends with the context FREE after the driver's, or FAULTED with the fault's code and incident and EN reading 1 after the
device's, its queues disabled and no stream of it left. -/
def Obligations.ContextsStartAndEnd : Prop :=
  (
  ∀ (s : State) (c p : Nat), c < 1024 → p < 8 → s.winUp .fe = true →
    (s.rd FE_CTX.STATE c = 0 → s.on FE_CTX.EN c = false → s.partOn p = true →
      Answers (.ctxEnable c p) s fun t => t.rd FE_CTX.STATE c = 1 ∧ t.on FE_CTX.EN c = true ∧ t.rd FE_CTX.PART c = p ∧
        WriteOnly s t [(FE_CTX.PART, c), (FE_CTX.EN, c), (FE_CTX.STATE, c)]) ∧
    (s.rd FE_CTX.STATE c = 0 → s.on FE_CTX.EN c = false → s.partOn p = false →
      Answers (.ctxEnable c p) s fun t => t.on CFG.CFG_ERR Blk.fe.idx = true ∧
        WriteEv s t [(CFG.CFG_ERR, Blk.fe.idx), (CFG.ERR_OFFSET, Blk.fe.idx)]) ∧
    (s.on FE_CTX.EN c = true → p = s.rd FE_CTX.PART c → exec (.ctxEnable c p) s = .next s) ∧
    (s.on FE_CTX.EN c = false → p = s.rd FE_CTX.PART c →
      exec (.ctxTeardownRequest c p) s = .next s ∧ exec (.ctxFree c p) s = .next s) ∧
    (s.rd FE_CTX.STATE c = 1 → s.on FE_CTX.EN c = true → p = s.rd FE_CTX.PART c →
      Answers (.ctxTeardownRequest c p) s fun t => t.rd FE_CTX.STATE c = 2 ∧ t.on FE_CTX.EN c = false ∧ t.rd FE_CTX.PART c = p ∧
        (∃ td, t.tds.get? c = some td ∧ td.driver = true ∧ td.step = 1) ∧
        (∀ k, k ≠ c → t.tds.get? k = s.tds.get? k ∧ t.rd FE_CTX.STATE k = s.rd FE_CTX.STATE k) ∧
        (∀ k st, t.fe.strms.get? k = some st → st.ctx = c → st.ready = false ∧ ∀ x ∈ st.pkts, x.st = 1) ∧
        t = { s with regs := t.regs, fe := t.fe, tds := t.tds }) ∧
    (s.rd FE_CTX.STATE c = 3 → s.on FE_CTX.EN c = true → p = s.rd FE_CTX.PART c →
      Answers (.ctxFree c p) s fun t => t.rd FE_CTX.STATE c = 0 ∧ t.on FE_CTX.EN c = false ∧
        WriteOnly s t [(FE_CTX.EN, c), (FE_CTX.STATE, c)]) ∧
    (s.rd FE_CTX.STATE c = 2 → ∀ en, s.on FE_CTX.EN c = !en →
      Answers (if en then .ctxEnable c p else .ctxTeardownRequest c p) s fun t => t.on CFG.CFG_ERR Blk.fe.idx = true ∧
        WriteEv s t [(CFG.CFG_ERR, Blk.fe.idx), (CFG.ERR_OFFSET, Blk.fe.idx)])
  ) ∧ (
  ∀ (s : State) (c eng : Nat), c < 1024 → eng < 64 →
    (s.rd FE_CTX.STATE c = 1 →
      Answers (.hostRequestError c eng) s fun t => t.rd FE_CTX.STATE c = 2 ∧ t.rd FE_CTX.EN c = s.rd FE_CTX.EN c ∧
        (∃ td, t.tds.get? c = some td ∧ td.driver = false ∧ td.step = 1 ∧ td.code = 0xA2 ∧ td.engine = eng) ∧
        (∀ k, k ≠ c → t.tds.get? k = s.tds.get? k ∧ t.rd FE_CTX.STATE k = s.rd FE_CTX.STATE k) ∧
        t = { s with regs := t.regs, fe := t.fe, tds := t.tds }) ∧
    (s.rd FE_CTX.STATE c ≠ 1 → exec (.hostRequestError c eng) s = .next s)
  ) ∧ (
  ∀ (s : State) (c : Nat) (td : Teardown), c < 1024 → s.tds.get? c = some td →
    (td.step = 1 → Answers (.teardownStepDone c) s fun t => (∃ u, t.tds.get? c = some u ∧ u.step = 2) ∧
      ∀ g x, t.sh.grps.get? g = some x → x.ctx ≠ c) ∧
    (td.step = 2 → Answers (.teardownStepDone c) s fun t => (∃ u, t.tds.get? c = some u ∧ u.step = 3) ∧
      (td.poison = [] → t = { s with tds := t.tds })) ∧
    (td.step = 3 → Answers (.teardownStepDone c) s fun t => ∃ u, t.tds.get? c = some u ∧ u.step = 4) ∧
    (td.step = 4 → s.ctxInvBusy c = true → exec (.teardownStepDone c) s = .next s) ∧
    (td.step = 4 → s.ctxInvBusy c = false → Answers (.teardownStepDone c) s fun t => ∃ u, t.tds.get? c = some u ∧ u.step = 5) ∧
    (td.step = 5 → td.driver = true → Answers (.teardownStepDone c) s fun t => t.rd FE_CTX.STATE c = 0 ∧
      t.on FE_CTX.EN c = false ∧ t.tds.get? c = none ∧ (∀ k st, t.fe.strms.get? k = some st → st.ctx ≠ c) ∧ t.mem = s.mem) ∧
    (td.step = 5 → td.driver = false → Answers (.teardownStepDone c) s fun t => t.rd FE_CTX.STATE c = 3 ∧
      t.on FE_CTX.EN c = true ∧ t.rd FE_CTX.FAULT_CODE c = td.code % 256 ∧ t.rd FE_CTX.INCIDENT c = td.inc % 2 ^ 32 ∧
      t.tds.get? c = none ∧ (∀ k st, t.fe.strms.get? k = some st → st.ctx ≠ c) ∧ t.mem = s.mem)
  )

/-- Ownership of memory (R79, R93): a GO of FE_CLAIM accepts the committed claim, which sets BUSY and counts its range as being
zeroed, where the fields describe a claim and none runs; else it is ignored and sets CFG_ERR. The hand-over of an L2 way waits for its request and leaves no line in it. -/
def Obligations.ClaimsAndWays : Prop :=
  (∀ s : State, s.winUp .fe = true → s.on FE_CLAIM.BUSY = false → s.claimOk (fun F => s.rd F) = true →
    Answers .claimGo s fun t => t.on FE_CLAIM.BUSY = true ∧ t.mem.hbm = s.mem.hbm ∧ t.mem.l2 = s.mem.l2 ∧
      (∃ j ∈ t.mem.jobs ++ t.mem.waitParts ++ t.mem.waitJobs, j.lo = bits (s.rd FE_CLAIM.PA * 0x1000) 0 48 ∧
        j.hi = j.lo + s.rd FE_CLAIM.PAGES * 0x1000 ∧
        j.done = .claim (s.rd FE_CLAIM.TALLY) (s.rd FE_CLAIM.VALUE) (s.rd FE_CLAIM.PAGES) true 0 0) ∧
      t = { s with regs := t.regs, mem := t.mem, ldg := t.ldg } ∧
      RegsKept s t [(FE_CLAIM.BUSY, 0), (MC_SWEEP.JOBS, 0), (MC_SWEEP.BUSY, 0)]) ∧
  (∀ s : State, s.winUp .fe = true → s.on FE_CLAIM.BUSY = true ∨ s.claimOk (fun F => s.rd F) = false →
    Answers .claimGo s fun t => t.on CFG.CFG_ERR Blk.fe.idx = true ∧
      WriteEv s t [(CFG.CFG_ERR, Blk.fe.idx), (CFG.ERR_OFFSET, Blk.fe.idx)]) ∧
  (∀ (s : State) (w : Nat), (∃ x ∈ s.mem.ways, x.1 = w) →
    Answers (.l2WayHandover w) s fun t => (∀ x ∈ t.mem.ways, x.1 ≠ w) ∧ (∀ k l, t.mem.l2.get? k = some l → l.way ≠ w) ∧
      t = { s with regs := t.regs, irq := t.irq, out := t.out, freeCtr := t.freeCtr, ldg := t.ldg, saf := t.saf,
                   emcyQ := t.emcyQ, errField := t.errField, errReg := t.errReg, mem := t.mem }) ∧
  (∀ (s : State) (w : Nat), (∀ x ∈ s.mem.ways, x.1 ≠ w) → exec (.l2WayHandover w) s = .next s)

/-- The states of a queue (R107, R112, R127): EN = 1 on a DISABLED queue whose context is ACTIVE and whose slot is free makes it
ACTIVE with its committed fields, in the ready set at once exactly when DB_PENDING is set or entries wait; where a condition
fails it sets CFG_ERR. EN = 0 drains an ACTIVE queue, whose end is DISABLED once its dispatched work is done, and frees a FAULTED
one. A queue in a fault ends FAULTED with the code and sequence, EN reading 1, after COMPLETED has risen over the entries that
completed.

Doorbells and passes (R109, R110, R112, R113, R115): a doorbell to a live queue writes WPTR and sets DB_PENDING at once and
returns an ACTIVE queue to the ready set; one that no queue takes is counted and dropped. A pass begins by sampling WPTR and
clearing DB_PENDING, which counts when it will read no entry; at its end the queue stays ready exactly when DB_PENDING is set.
Each level of
a fetcher has its own selection: when its slice is over, and only then, it goes to the level's next candidate in round-robin order. -/
def Obligations.QueuesAndDoorbells : Prop :=
  (
  ∀ (s : State) (q : Nat), q < 2048 →
    (s.winUp .fe = true → s.rd FE_Q.STATE q = 0 → s.on FE_Q.EN q = false →
      (s.ctxActive (s.rd FE_Q.CTX q) = true → (s.slotQueue (s.rd FE_Q.CTX q) (s.rd FE_Q.SLOT q)) = none → s.rd FE_Q.PRIO q ≠ 3 →
        Answers (.queueEnable q) s fun t => t.rd FE_Q.STATE q = 1 ∧ t.on FE_Q.EN q = true ∧ t.mem = s.mem ∧ t.sh = s.sh ∧
          ∃ st, t.fe.strms.get? q = some st ∧ st.cls = s.rd FE_Q.CLASS q ∧ st.ctx = s.rd FE_Q.CTX q ∧ st.ents = [] ∧
            (st.ready = true ↔ s.on FE_Q.DB_PENDING q = true ∨ s.rd FE_Q.RPTR q ≠ s.rd FE_Q.WPTR q) ∧
            (s.rd FE_Q.COMPLETED q ≠ 0 → st.nextSeq = s.rd FE_Q.COMPLETED q + 1)) ∧
      (s.ctxActive (s.rd FE_Q.CTX q) = false ∨ (s.slotQueue (s.rd FE_Q.CTX q) (s.rd FE_Q.SLOT q)).isSome = true →
        Answers (.queueEnable q) s fun t => t.on CFG.CFG_ERR Blk.fe.idx = true ∧
          WriteEv s t [(CFG.CFG_ERR, Blk.fe.idx), (CFG.ERR_OFFSET, Blk.fe.idx)])) ∧
    (s.winUp .fe = true → s.rd FE_Q.STATE q = 1 → Answers (.queueDrain q) s fun t => t.rd FE_Q.STATE q = 2 ∧
      t.on FE_Q.EN q = false ∧ t = { s with regs := t.regs, fe := t.fe } ∧
      (∀ st, t.fe.strms.get? q = some st → st.ready = false ∧ st.inPass = false) ∧
      ∀ k, k ≠ q → t.fe.strms.get? k = s.fe.strms.get? k ∧ t.rd FE_Q.STATE k = s.rd FE_Q.STATE k) ∧
    (∀ st, s.fe.strms.get? q = some st → s.rd FE_Q.STATE q = 2 → st.ents = [] → st.fault = none →
      Answers (.queueDrainDone q) s fun t => t.rd FE_Q.STATE q = 0 ∧ t.on FE_Q.EN q = false ∧ t.fe.strms.get? q = none ∧
        t = { s with regs := t.regs, fe := t.fe, rt := t.rt, gfx := { s.gfx with states := s.gfx.states.del q } } ∧
        ∀ k, k ≠ q → t.fe.strms.get? k = s.fe.strms.get? k) ∧
    (s.winUp .fe = true → s.rd FE_Q.STATE q = 3 → Answers (.queueFree q) s fun t => t.rd FE_Q.STATE q = 0 ∧
      t.on FE_Q.EN q = false ∧ t.fe.strms.get? q = none ∧ t = { s with regs := t.regs, fe := t.fe, rt := t.rt, gfx := { s.gfx with states := s.gfx.states.del q } } ∧
      ∀ k, k ≠ q → t.fe.strms.get? k = s.fe.strms.get? k) ∧
    (∀ st code seq, s.fe.strms.get? q = some st → st.fault = some (code, seq) → s.ctxActive st.ctx = true →
      (∀ p ∈ st.pkts, p.st = 2) → (∀ e ∈ st.ents, e.rest = none) → s.on FE_Q.CPL_EN q = false →
      Answers (.queueFaultComplete q) s fun t => t.rd FE_Q.STATE q = 3 ∧ t.on FE_Q.EN q = true ∧
        t.rd FE_Q.FAULT_CODE q = code % 256 ∧ t.rd FE_Q.FAULT_SEQ q = seq % 2 ^ 64 ∧
        t.rd FE_Q.COMPLETED q = ((doneEnts st.ents).getLast?.map (·.seq % 2 ^ 64)).getD (s.rd FE_Q.COMPLETED q) ∧
        t = { s with regs := t.regs, fe := t.fe, irq := t.irq, out := t.out, freeCtr := t.freeCtr } ∧
        ∀ k, k ≠ q → t.fe.strms.get? k = s.fe.strms.get? k)
  ) ∧ (
  (∀ (s : State) (c slot v q : Nat) (st : Strm), s.on RST_STATUS.WARM_ACTIVE = false → s.blkUp .fe = true → s.pwr.off = false →
    s.slotQueue c slot = some q → v < 0x10000 → v < s.ringSize q → s.fe.strms.get? q = some st → st.fault = none →
    s.rt.get? q = none →
    Answers (.doorbell 0 c slot v) s fun t => ∃ u : State, t = u.wakeAccess ∧ u.rd FE_Q.WPTR q = v ∧ u.on FE_Q.DB_PENDING q = true ∧
      u = { s with regs := u.regs, fe := u.fe } ∧ (∀ k, k ≠ q → u.fe.strms.get? k = s.fe.strms.get? k) ∧
      u.rd FE_Q.RPTR q = s.rd FE_Q.RPTR q ∧ u.rd FE_Q.STATE q = s.rd FE_Q.STATE q ∧
      u.fe.strms.get? q = some (if s.rd FE_Q.STATE q = 1 then { st with ready := true } else st)) ∧
  (∀ (s : State) (c slot v : Nat), s.on RST_STATUS.WARM_ACTIVE = false → s.blkUp .fe = true → s.pwr.off = false →
    s.slotQueue c slot = none → s.rd FE_DB_DROP.COUNT + 1 < 2 ^ 48 - 1 →
    Answers (.doorbell 0 c slot v) s fun t => ∃ u : State, t = u.wakeAccess ∧ u.rd FE_DB_DROP.COUNT = s.rd FE_DB_DROP.COUNT + 1 ∧
      WriteEv s u [(FE_DB_DROP.COUNT, 0)]) ∧
  (∀ (s : State) (q : Nat) (st : Strm), s.fe.strms.get? q = some st → st.ready = true → st.inPass = false → q < 2048 →
    s.fe.run = true →
    Answers (.sampleAndClear q) s fun t => t.on FE_Q.DB_PENDING q = false ∧ t.rd FE_Q.WPTR q = s.rd FE_Q.WPTR q ∧
      t.fe.strms.get? q = some { st with inPass := true, sampled := s.rd FE_Q.WPTR q } ∧
      (∀ k, k ≠ q → t.fe.strms.get? k = s.fe.strms.get? k) ∧ t.mem = s.mem ∧
      (s.rd FE_Q.WPTR q ≠ s.rd FE_Q.RPTR q → t.rd FE_FETCH.EXTRA_PASS st.cls = s.rd FE_FETCH.EXTRA_PASS st.cls) ∧
      (s.rd FE_Q.WPTR q = s.rd FE_Q.RPTR q → s.rd FE_FETCH.EXTRA_PASS st.cls + 1 < 2 ^ 48 - 1 →
        t.rd FE_FETCH.EXTRA_PASS st.cls = s.rd FE_FETCH.EXTRA_PASS st.cls + 1)) ∧
  (∀ (s : State) (q : Nat) (st : Strm), s.fe.strms.get? q = some st → st.inPass = true → s.rd FE_Q.RPTR q = st.sampled →
    Answers (.idleSample q) s fun t => t.fe.strms.get? q = some { st with inPass := false, ready := s.on FE_Q.DB_PENDING q } ∧
      t = { s with regs := t.regs, fe := t.fe } ∧ (∀ k, k ≠ q → t.fe.strms.get? k = s.fe.strms.get? k) ∧
      t.rd FE_Q.DB_PENDING q = s.rd FE_Q.DB_PENDING q) ∧
  (∀ (s : State) (k m sid since : Nat), m < 3 → s.fe.sel.get? (8 * k + m) = some (sid, since) →
    Answers (.tsliceExpiry k) s fun t => t = { s with fe := { s.fe with sel := t.fe.sel, after := t.fe.after } } ∧
      (s.now - since < s.rd FE_Q.TSLICE (s.strmQ sid) * 1000 → t.fe.sel.get? (8 * k + m) = some (sid, since)) ∧
      (s.rd FE_Q.TSLICE (s.strmQ sid) * 1000 ≤ s.now - since → t.fe.sel.get? (8 * k + m) =
        (rrNext ((s.cands k).filter (fun p => s.strmPrio p.2 == m)) (s.strmQ sid) sid).map (fun n => (n, s.now))))
  )

/-- One ring entry is read (R102 to R104, R118), and no word of an indirect buffer before the fetcher reaches it: RPTR advances modulo the ring; an entry of the expected sequence whose CTRL and
packets pass the checks joins its stream with its packets in order, and the next sequence is expected; a stale sequence faults
the queue with BAD_SEQ and the queue leaves the ready set.

Completion of entries (R86, R123, R125): COMPLETED takes the sequence of the last entry of the completed run at the head of the
queue, those entries go, and later ones stay; in a context that is not ACTIVE nothing completes (R86); without CPL_EN and MSI_EN nothing is written or sent. -/
def Obligations.EntriesAreFetchedAndComplete : Prop :=
  (
  (∀ (s : State) (q : Nat) (st : Strm), s.fe.strms.get? q = some st → st.reading.isSome = true → st.nextPkt.isSome = true →
    Answers (.entryFetch q) s fun t => t.mem = s.mem ∧ t.mmu = s.mmu ∧ t.fe.strms = s.fe.strms ∧ t.rd FE_Q.RPTR q = s.rd FE_Q.RPTR q) ∧
  (∀ (s u : State) (q : Nat) (st st' : Strm) (e : List Byte), q < 2048 → s.fe.run = true → s.fe.strms.get? q = some st →
    st.inPass = true → st.ready = true → st.fault = none → s.ctxActive st.ctx = true → s.rd FE_Q.STATE q = 1 →
    s.rd FE_Q.RPTR q ≠ st.sampled → st.blocked = false → bit (s.rd RST_STATUS.PART_ACTIVE) (s.partOf st.ctx) = false →
    st.nextSeq ≠ poison → st.reading = none →
    s.vread st.ctx 60 (s.rd FE_Q.RING_VA q * 0x1000 + s.rd FE_Q.RPTR q * 64) 64 = (u, some e) → u.fe.strms.get? q = some st' →
    (field e 0 8 = st.nextSeq → bit (field e 8 4) 0 = false → bits (field e 8 4) 3 29 = 0 → field e 12 4 ≤ 12 →
      ∀ ps, (∀ v : State, v.dev = u.dev → v.hbmBytes = u.hbmBytes →
        v.parsePkts st.cls false 13 (wordsOf (e.drop 16) (field e 12 4)) st.nextPid = (ps, 0)) → st'.nextPid = st.nextPid →
      Answers (.entryFetch q) s fun t => t.rd FE_Q.RPTR q = (u.rd FE_Q.RPTR q + 1) % u.ringSize q % 2 ^ 16 ∧ t.mem = u.mem ∧
        ∃ x, t.fe.strms.get? q = some x ∧ x.nextSeq = st'.nextSeq + 1 ∧ x.fault = st'.fault ∧
          x.ents.length = st'.ents.length + 1 ∧ (∀ k < st'.ents.length, x.ents[k]? = st'.ents[k]?) ∧
          ∃ ent, x.ents.getLast? = some ent ∧ ent.seq = st.nextSeq ∧ ent.irq = bit (field e 8 4) 1 ∧ ent.bad = false ∧
            ent.pkts.map (fun p => (p.op, p.w, p.st)) = ps.map (fun p => (p.op, p.w, p.st))) ∧
    (field e 0 8 ≠ st.nextSeq → st'.node = none → st'.fault = none →
      Answers (.entryFetch q) s fun t => t.rd FE_Q.RPTR q = (u.rd FE_Q.RPTR q + 1) % u.ringSize q % 2 ^ 16 ∧
        ∃ x, t.fe.strms.get? q = some x ∧ x.fault = some (0x01, st.nextSeq) ∧ x.ready = false ∧ x.ents = st'.ents))
  ) ∧ (
  ∀ (s : State) (q : Nat) (st : Strm) (e : Ent), q < 2048 → s.fe.strms.get? q = some st → (doneEnts st.ents).getLast? = some e →
    (∃ t, exec (.entryComplete q) s = .next t) ∧
    (s.ctxActive st.ctx = false → exec (.entryComplete q) s = .next s) ∧
    (s.ctxActive st.ctx = true →
    (s.on FE_Q.CPL_EN q = false → s.on FE_Q.MSI_EN q = false →
      Answers (.entryComplete q) s fun t => t.rd FE_Q.COMPLETED q = e.seq % 2 ^ 64 ∧
        t.fe.strms.get? q = some { st with ents := st.ents.drop (doneEnts st.ents).length } ∧
        (∀ k, k ≠ q → t.fe.strms.get? k = s.fe.strms.get? k) ∧ t = { s with regs := t.regs, fe := t.fe }) ∧
    (s.on FE_Q.CPL_EN q = false → s.on FE_Q.MSI_EN q = true →
      Answers (.entryComplete q) s fun t => t.rd FE_Q.COMPLETED q = e.seq % 2 ^ 64 ∧
        t.fe.strms.get? q = some { st with ents := st.ents.drop (doneEnts st.ents).length } ∧
        t = { s with regs := t.regs, fe := t.fe, irq := t.irq, out := t.out, freeCtr := t.freeCtr }))
  )

/-- The common packets (R119, R120, R122): each starts when its queue is the fetcher's choice, SIGNAL, WRITE_IMM and TIMESTAMP
only when every earlier packet of the queue has completed. NOP completes; SIGNAL signals its Tally with its value; WAIT on a
Tally at or above TARGET completes, on one below blocks its queue until the timeout it names, and on a poisoned one faults the
queue with WAIT_POISON; a WAIT that times out faults its queue with WAIT_TIMEOUT. WRITE_IMM and TIMESTAMP write 8 bytes at their
address. A Tally outside the partition faults the context with PART_TALLY. -/
def Obligations.CommonPackets : Prop :=
  (∀ (s : State) (sid : Nat) (st : Strm) (p : Pkt), s.canRun sid 0 = some (st, p) →
    Answers (.nop sid) s fun t => t.pktDone sid p.pid ∧
      t = { s with regs := t.regs, fe := t.fe, irq := t.irq, out := t.out, freeCtr := t.freeCtr } ∧
      ∀ k, k ≠ sid → t.fe.strms.get? k = s.fe.strms.get? k) ∧
  (∀ (s : State) (sid : Nat) (st : Strm) (p : Pkt), s.canDefer sid 1 = some (st, p) →
    (s.tallyOk (s.partOf st.ctx) (pw1 p.w 1) = true →
      exec (.signal sid) s = .next (((s.startPkt sid p.pid).signal (pw1 p.w 1) (pw2 p.w 2)).donePkt sid p.pid)) ∧
    (s.tallyOk (s.partOf st.ctx) (pw1 p.w 1) = false →
      exec (.signal sid) s = .next ((s.startPkt sid p.pid).ctxFault st.ctx 0xC1))) ∧
  (∀ (s : State) (sid : Nat) (st : Strm) (p : Pkt), s.canRun sid 2 = some (st, p) →
    s.tallyOk (s.partOf st.ctx) (pw1 p.w 1) = true →
    (s.poisoned (pw1 p.w 1) = true → s.fe.strms.get? sid = some st → st.fault = none → st.node = none →
      Answers (.wait sid) s fun t => ∃ x, t.fe.strms.get? sid = some x ∧ x.fault = some (0x0A, st.seqOf p.pid) ∧ x.ready = false) ∧
    (s.poisoned (pw1 p.w 1) = false → pw2 p.w 2 ≤ s.tval (pw1 p.w 1) →
      Answers (.wait sid) s fun t => t.pktDone sid p.pid ∧ t.tly = s.tly ∧ t.mem = s.mem) ∧
    (s.poisoned (pw1 p.w 1) = false → s.tval (pw1 p.w 1) < pw2 p.w 2 →
      Answers (.wait sid) s fun t => t.mem = s.mem ∧ ∃ x, t.fe.strms.get? sid = some x ∧ x.waitPid = some p.pid ∧
        x.waitEnd = (if pw1 p.w 4 = 0 then none else some (s.now + pw1 p.w 4 * 1000)))) ∧
  (∀ (s : State) (sid pid e : Nat) (st : Strm), s.fe.strms.get? sid = some st → st.waitPid = some pid → st.waitEnd = some e →
    e ≤ s.now → st.fault = none → st.node = none →
    Answers (.waitTimeout sid) s fun t => t.mem = s.mem ∧ ∃ x, t.fe.strms.get? sid = some x ∧ x.waitPid = none ∧
      x.fault = some (0x0B, st.seqOf pid) ∧ x.ready = false) ∧
  (∀ (s u : State) (sid : Nat) (st : Strm) (p : Pkt), s.canDefer sid 3 = some (st, p) →
    (s.startPkt sid p.pid).vwrite st.ctx 60 (pw2 p.w 1) (leBytes 8 (pw2 p.w 3)) = (u, true) →
    exec (.writeImm sid) s = .next (u.donePkt sid p.pid)) ∧
  (∀ (s u : State) (sid : Nat) (st : Strm) (p : Pkt), s.canDefer sid 4 = some (st, p) →
    (s.startPkt sid p.pid).vwrite st.ctx 60 (pw2 p.w 1) (leBytes 8 s.now) = (u, true) →
    exec (.timestamp sid) s = .next (u.donePkt sid p.pid))

/-- The heap and claim packets of the copy class (R92, R93, R96 to R98, R120): CLAIM is accepted for a range of the partition and counts as being
zeroed; ALLOC takes the lowest run that fits and writes its address, after the Sweep where the run
held another context's data, or 0 and a count where none fits; FREE gives the run the
next stamp and holds it in quarantine. Without a heap ALLOC and FREE fault the context with PART_RANGE. -/
def Obligations.CopyClassPackets : Prop :=
  (∀ (s : State) (sid : Nat) (st : Strm) (p : Pkt), s.canRun sid 0x43 = some (st, p) → s.rd FE_CHN.HEAP_BLOCKS (s.partOf st.ctx) = 0 →
    exec (.alloc sid) s = .next ((s.dispatch sid st p).ctxFault st.ctx 0x27)) ∧
  (∀ (s : State) (sid : Nat) (st : Strm) (p : Pkt), s.canRun sid 0x44 = some (st, p) → s.rd FE_CHN.HEAP_BLOCKS (s.partOf st.ctx) = 0 →
    exec (.free sid) s = .next ((s.dispatch sid st p).ctxFault st.ctx 0x27)) ∧
  (∀ (s u : State) (sid b : Nat) (st : Strm) (p : Pkt) (h : Heap), s.canRun sid 0x43 = some (st, p) →
    s.rd FE_CHN.HEAP_BLOCKS (s.partOf st.ctx) ≠ 0 → (s.heaps.get? (s.partOf st.ctx)).getD {} = h →
    heapFit h (heapMeta (s.rd FE_CHN.HEAP_BLOCKS (s.partOf st.ctx))) (s.rd FE_CHN.HEAP_BLOCKS (s.partOf st.ctx)) (pw1 p.w 1) = some b →
    heapForeign s.mem.owners (s.rd FE_CHN.HEAP_PA (s.partOf st.ctx) + b) (pw1 p.w 1) st.ctx = false →
    (State.heapSync { s.dispatch sid st p with
        heaps := s.heaps.put (s.partOf st.ctx) { h with live := ⟨b, pw1 p.w 1, st.ctx, 0⟩ :: h.live },
        mem := { s.mem with owners := ⟨s.rd FE_CHN.HEAP_PA (s.partOf st.ctx) + b, pw1 p.w 1, st.ctx, 0⟩ :: s.mem.owners } } (s.partOf st.ctx)).vwrite
      st.ctx 60 (pw2 p.w 2) (leBytes 8 ((s.rd FE_CHN.HEAP_VA (s.partOf st.ctx) + b) * 0x10000)) = (u, true) →
    exec (.alloc sid) s = .next (u.donePkt sid p.pid)) ∧
  (∀ (s u : State) (sid b : Nat) (st : Strm) (p : Pkt) (h : Heap), s.canRun sid 0x43 = some (st, p) →
    s.rd FE_CHN.HEAP_BLOCKS (s.partOf st.ctx) ≠ 0 → (s.heaps.get? (s.partOf st.ctx)).getD {} = h →
    heapFit h (heapMeta (s.rd FE_CHN.HEAP_BLOCKS (s.partOf st.ctx))) (s.rd FE_CHN.HEAP_BLOCKS (s.partOf st.ctx)) (pw1 p.w 1) = some b →
    heapForeign s.mem.owners (s.rd FE_CHN.HEAP_PA (s.partOf st.ctx) + b) (pw1 p.w 1) st.ctx = true →
    (State.heapSync { s.dispatch sid st p with
        heaps := s.heaps.put (s.partOf st.ctx) { h with live := ⟨b, pw1 p.w 1, st.ctx, 0⟩ :: h.live },
        mem := { s.mem with owners := ⟨s.rd FE_CHN.HEAP_PA (s.partOf st.ctx) + b, pw1 p.w 1, st.ctx, 0⟩ :: s.mem.owners } } (s.partOf st.ctx)).sweepAdd
      ((s.rd FE_CHN.HEAP_PA (s.partOf st.ctx) + b) * 0x10000 % 2 ^ 48)
      ((s.rd FE_CHN.HEAP_PA (s.partOf st.ctx) + b) * 0x10000 % 2 ^ 48 + pw1 p.w 1 * 0x10000)
      (.alloc (s.partOf st.ctx) sid p.pid st.ctx (pw2 p.w 2) ((s.rd FE_CHN.HEAP_VA (s.partOf st.ctx) + b) * 0x10000)) = u →
    exec (.alloc sid) s = .next (if u.mem.waitJobs.isEmpty then u else u.updStrm sid (fun st => { st with waitPid := some p.pid }))) ∧
  (∀ (s u : State) (sid : Nat) (st : Strm) (p : Pkt), s.canRun sid 0x43 = some (st, p) →
    s.rd FE_CHN.HEAP_BLOCKS (s.partOf st.ctx) ≠ 0 →
    heapFit ((s.heaps.get? (s.partOf st.ctx)).getD {}) (heapMeta (s.rd FE_CHN.HEAP_BLOCKS (s.partOf st.ctx)))
      (s.rd FE_CHN.HEAP_BLOCKS (s.partOf st.ctx)) (pw1 p.w 1) = none →
    (((s.dispatch sid st p).count FE_CHN.EXHAUSTED (s.partOf st.ctx)).raise 0x45).vwrite st.ctx 60 (pw2 p.w 2) (leBytes 8 0) = (u, true) →
    exec (.alloc sid) s = .next (u.donePkt sid p.pid)) ∧
  (∀ (s : State) (sid : Nat) (st : Strm) (p : Pkt) (r : HRun), s.canRun sid 0x44 = some (st, p) →
    s.rd FE_CHN.HEAP_BLOCKS (s.partOf st.ctx) ≠ 0 →
    ((s.heaps.get? (s.partOf st.ctx)).getD {}).live.find? (fun r => (s.rd FE_CHN.HEAP_VA (s.partOf st.ctx) + r.blk) * 0x10000 == pw2 p.w 1) = some r →
    s.tval (s.rd FE_CHN.RETIRE_TALLY (s.partOf st.ctx)) < s.rd FE_CHN.FREE_SEQ (s.partOf st.ctx) + 1 →
    s.rd FE_CHN.FREE_SEQ (s.partOf st.ctx) + 1 < 2 ^ 64 →
    Answers (.free sid) s fun t => t.pktDone sid p.pid ∧
      t.rd FE_CHN.FREE_SEQ (s.partOf st.ctx) = s.rd FE_CHN.FREE_SEQ (s.partOf st.ctx) + 1 ∧
      (∃ h, t.heaps.get? (s.partOf st.ctx) = some h ∧ r ∉ h.live ∧
        { r with stamp := s.rd FE_CHN.FREE_SEQ (s.partOf st.ctx) + 1 } ∈ h.quar) ∧ t.mem = s.mem ∧ t.tly = s.tly) ∧
  (∀ (s : State) (sid : Nat) (st : Strm) (p : Pkt), s.canRun sid 0x42 = some (st, p) →
    s.rangeOk (s.partOf st.ctx) (bits (pw2 p.w 1) 0 48) (bits (pw2 p.w 1) 0 48 + pw2 p.w 3 * 0x1000) = true →
    s.partOf (bits (pw1 p.w 5) 16 10) = s.partOf st.ctx → s.tallyOk (s.partOf st.ctx) (bits (pw1 p.w 5) 0 13) = true →
    Answers (.claim sid) s fun t => t.sh = s.sh ∧ t.mem.hbm = s.mem.hbm ∧
      ∃ j ∈ t.mem.jobs ++ t.mem.waitJobs, j.lo = bits (pw2 p.w 1) 0 48 ∧ j.hi = bits (pw2 p.w 1) 0 48 + pw2 p.w 3 * 0x1000 ∧
        j.done = .claim (bits (pw1 p.w 5) 0 13) (pw2 p.w 6) (pw2 p.w 3) false sid p.pid)

/-! ## Tallies and Patterns (chapter 05) -/

/-- A signal (R131 to R133, R135, R137): one to a poisoned Tally changes nothing, one equal to the value changes nothing, one below
it, or of poison, is counted as a regression with LAST_REGRESS and TALLY_REGRESS and leaves the value; one above it becomes the
value and leaves no registered wait of this device whose target it reaches.

No signal ever lowers a value (R131): whatever signals reach a Tally in a clock, and whatever exports and waits follow from
them, no Tally of the device ends below where it was. -/
def Obligations.SignalsRaiseOrAreDiscarded : Prop :=
  (
  ∀ (s : State) (t v : Nat), t < 8192 → v < 2 ^ 64 →
    let s' := s.pmu 0x70 0 ((s.tallyOwner t).getD 8)
    (s.tval t = poison → exec (.tallySignal t [v]) s = .next s') ∧
    (s.tval t ≠ poison → v ≠ poison → v = s.tval t → exec (.tallySignal t [v]) s = .next s') ∧
    (s.tval t ≠ poison → v = poison ∨ v < s.tval t → Answers (.tallySignal t [v]) s fun u => u.tval t = s.tval t ∧
      u.rd TLY_SLOT.LAST_REGRESS t = v ∧
      (s.rd TLY_SLOT.REGRESS t + 1 < 2 ^ 48 - 1 → u.rd TLY_SLOT.REGRESS t = s.rd TLY_SLOT.REGRESS t + 1) ∧
      WriteEv s' u [(TLY_SLOT.REGRESS, t), (TLY_SLOT.OVF, t), (TLY_SLOT.LAST_REGRESS, t)]) ∧
    (s.tval t ≠ poison → v ≠ poison → s.tval t < v → Answers (.tallySignal t [v]) s fun u => u.tval t = v ∧
      ∀ w ∈ u.tly.waits, w.tally = t → w.polling = false → w.who.isRemote = false → v < w.target) ∧
    (s.tval t ≠ poison → v ≠ poison → s.tval t < v → (∀ w ∈ s.tly.waits, w.tally ≠ t) → s.on TLY_EXP.EN t = false →
      (∀ p < 8, s.rd FE_CHN.HEAP_BLOCKS p = 0 ∨ s.rd FE_CHN.RETIRE_TALLY p ≠ t) →
      Answers (.tallySignal t [v]) s fun u => u.tval t = v ∧ u.on TLY_SLOT.POISONED t = false ∧
        WriteOnly s' u [(TLY_SLOT.VALUE, t), (TLY_SLOT.POISONED, t)])
  ) ∧ (
  ∀ (s : State) (t k : Nat) (vs : List Nat), Answers (.tallySignal t vs) s fun u => s.tval k ≤ u.tval k
  )

/-- Signals of the host through BAR2 (R52, R139): a 64-bit write signals its value and drops the word held for its Tally; a low word
is held for its function; a high word signals the combined value with the held word of its Tally, and without one sets
GLB_ACC_ERR.SPLIT and changes no Tally. A VF that writes a Tally of another's is refused.

The Tally unit's other commands (R137, R138, R140, R144, R146): through the aperture an engine loads a word of a slot and stores
to SIGNAL, and any other access faults its context with APERTURE_ACCESS; TLY_INIT sets a Tally to any value and clears its
records; LW_CLR sets LOW_WATER to FREE; a lost export write counts; a polling wait goes on when it is satisfied, takes a pool
entry where one is free, and else polls on. -/
def Obligations.TalliesFromHostAndEngines : Prop :=
  (
  ∀ (s : State) (func t v : Nat), t < 8192 → s.blkUp .tly = true → s.pwr.off = false →
    (s.vfTally func t = true →
      (s.bus.splitLow.get? func = none →
        exec (.signalWrite func t v) s = .next (s.signal t (v % 2 ^ 64)).wakeAccess) ∧
      (∀ x lo, s.bus.splitLow.get? func = some (x, lo) → exec (.signalWrite func t v) s = .next
        (((if x = t then s.setLow func none else s).signal t (v % 2 ^ 64)).wakeAccess)) ∧
      exec (.signalLowWrite func t v) s = .next (s.setLow func (some (t, v % 2 ^ 32))).wakeAccess ∧
      (∀ lo, s.bus.splitLow.get? func = some (t, lo) → exec (.signalHighWrite func t v) s = .next
        ((s.setLow func none).signal t (lo + v % 2 ^ 32 * 2 ^ 32)).wakeAccess) ∧
      ((∀ lo, s.bus.splitLow.get? func ≠ some (t, lo)) → Answers (.signalHighWrite func t v) s fun u =>
        ∃ x : State, u = x.wakeAccess ∧ x.on GLB_ACC_ERR.SPLIT = true ∧ x.rd GLB_ACC_ERR.OFFSET = (t * 64 + 12) % 2 ^ GLB_ACC_ERR.OFFSET.w ∧
          WriteEv s x [(GLB_ACC_ERR.SPLIT, 0), (GLB_ACC_ERR.BAR, 0), (GLB_ACC_ERR.FUNC, 0), (GLB_ACC_ERR.OFFSET, 0)])) ∧
    (s.vfTally func t = false → ∀ c ∈ [Instr.signalWrite func t v, .signalLowWrite func t v, .signalHighWrite func t v],
      Answers c s fun u => u.rd GLB_VF_VIOL.LAST_VF = func % 2 ^ GLB_VF_VIOL.LAST_VF.w ∧
        (s.rd GLB_VF_VIOL.COUNT + 1 < 2 ^ 48 - 1 → u.rd GLB_VF_VIOL.COUNT = s.rd GLB_VF_VIOL.COUNT + 1) ∧
        WriteEv s u [(GLB_VF_VIOL.COUNT, 0), (GLB_VF_VIOL.OVF, 0), (GLB_VF_VIOL.LAST_VF, 0)])
  ) ∧ (
  (∀ (s u : State) (c eng va pa cache size v : Nat), s.ctxActive c = true → inAperture pa = true → bits pa 48 2 = s.dev →
    let o := bits pa 0 48 - 0xFFFFFFF80000
    (s.translate c va 1 eng = (u, some (pa, cache)) → size = 8 → o % 64 = 8 →
      exec (.apertureAccess c eng va true size v) s = .next (u.signal (o / 64) (v % 2 ^ 64))) ∧
    (s.translate c va 1 eng = (u, some (pa, cache)) → size ≠ 8 ∨ o % 64 ≠ 8 →
      exec (.apertureAccess c eng va true size v) s = .next (u.accFault c 0xC5 eng va)) ∧
    (s.translate c va 0 eng = (u, some (pa, cache)) → size = 8 → pa % 8 = 0 →
      exec (.apertureAccess c eng va false size v) s = .next { u with rdata := u.slotWord (o / 64) (o % 64) % 2 ^ 64 }) ∧
    (s.translate c va 0 eng = (u, some (pa, cache)) → size ≠ 8 ∨ pa % 8 ≠ 0 →
      exec (.apertureAccess c eng va false size v) s = .next (u.accFault c 0xC5 eng va))) ∧
  (∀ s : State, s.winUp .tly = true → s.rd TLY_INIT.VALUE ≠ poison → (∀ w ∈ s.tly.waits, w.tally ≠ s.rd TLY_INIT.TALLY) →
    s.on TLY_EXP.EN (s.rd TLY_INIT.TALLY) = false →
    (∀ p < 8, s.rd FE_CHN.HEAP_BLOCKS p = 0 ∨ s.rd FE_CHN.RETIRE_TALLY p ≠ s.rd TLY_INIT.TALLY) →
    Answers .tlyInitGo s fun u => u.tval (s.rd TLY_INIT.TALLY) = s.rd TLY_INIT.VALUE % 2 ^ 64 ∧
      (∀ F ∈ [TLY_SLOT.POISONED, TLY_SLOT.REGRESS, TLY_SLOT.OVF, TLY_SLOT.LAST_REGRESS], u.rd F (s.rd TLY_INIT.TALLY) = 0) ∧
      WriteOnly s u ([TLY_SLOT.VALUE, TLY_SLOT.POISONED, TLY_SLOT.REGRESS, TLY_SLOT.OVF, TLY_SLOT.LAST_REGRESS].map
        fun F => (F, s.rd TLY_INIT.TALLY))) ∧
  (∀ s : State, s.winUp .tly = true → Answers .lwClr s fun u => u.rd TLY_POOL.LOW_WATER = s.rd TLY_POOL.FREE % 2 ^ 15 ∧
    WriteOnly s u [(TLY_POOL.LOW_WATER, 0)]) ∧
  (∀ (s : State) (t : Nat), t < 8192 → s.on TLY_EXP.EN t = true → Answers (.exportWriteError t) s fun u =>
    u = { s with tly := { s.tly with expErr := t :: s.tly.expErr } } ∧
    (inAperture (s.rd TLY_EXP.PA t * 8) = false → bits (s.rd TLY_EXP.PA t * 8) 48 2 ≠ 3 →
      (u.exportOne t).2 = none ∧ (u.exportOne t).1.on TLY_EXP.EN t = true ∧
      (u.exportOne t).1.tly.expErr = s.tly.expErr.filter (· != t) ∧
      (s.rd TLY_EXP_ERR.COUNT + 1 < 2 ^ 48 - 1 → (u.exportOne t).1.rd TLY_EXP_ERR.COUNT = s.rd TLY_EXP_ERR.COUNT + 1) ∧
      WriteEv u { (u.exportOne t).1 with tly := u.tly } [(TLY_EXP_ERR.COUNT, 0), (TLY_EXP_ERR.OVF, 0)])) ∧
  (∀ (s : State) (t k : Nat) (w : TWait), (s.tly.waits.filter (fun w => w.tally == t && w.polling))[k]? = some w →
    w.who.isRemote = false →
    (s.poisoned t = true ∨ w.target ≤ s.tval t → exec (.waitPoll t k) s = .next ((s.dropWait w).wakeWaiter w.who (s.poisoned t))) ∧
    (s.poisoned t = false → s.tval t < w.target → 0 < s.rd TLY_POOL.FREE → s.rd TLY_POOL.FREE ≤ 16384 →
      Answers (.waitPoll t k) s fun u => u.rd TLY_POOL.FREE = s.rd TLY_POOL.FREE - 1 ∧
        { w with polling := false } ∈ u.tly.waits ∧ w ∉ u.tly.waits ∧ u.fe = s.fe ∧ u.sh = s.sh ∧ u.tval t = s.tval t) ∧
    (s.poisoned t = false → s.tval t < w.target → s.rd TLY_POOL.FREE = 0 → exec (.waitPoll t k) s = .next s))
  )

/-- Editing and launching a Pattern (R148, R150, R153, R154): an edit of a slot that is not enabled answers 3, one with four
revisions in use is refused BUSY and counted, and else the new descriptor is the next revision and the current one. A launch of a
slot that is disabled or of another context faults its queue with BAD_FIELD; one whose descriptor passes the checks is bound to
the current revision, counts, and takes the lowest free snapshot slot, or holds its queue where none is free.

A launch runs (R150 to R153): the source table with the inline patches goes to its slot behind the header and SNAPPED is
written; a node is dispatched once its predecessors have completed, as a stream of its class with the launching queue's number
and context; when every node has completed the launch ends, its streams go and its packet completes. -/
def Obligations.PatternsAreEditedAndRun : Prop :=
  (
  (∀ s : State, s.winUp .fe = true →
    let n := s.rd FE_PAT_EDIT.PATTERN
    (s.on FE_PAT.EN n = false → Answers .patEditGo s fun t => t.rd FE_PAT_EDIT.RESULT = 3 ∧ WriteOnly s t [(FE_PAT_EDIT.RESULT, 0)]) ∧
    (s.on FE_PAT.EN n = true → s.rd FE_PAT.INUSE n = 4 → Answers .patEditGo s fun t => t.rd FE_PAT_EDIT.RESULT = 2 ∧
      t.rd FE_PAT.REV n = s.rd FE_PAT.REV n ∧
      (s.rd FE_PAT.BUSY_REFUSED n + 1 < 2 ^ 48 - 1 → t.rd FE_PAT.BUSY_REFUSED n = s.rd FE_PAT.BUSY_REFUSED n + 1) ∧
      WriteEv s t [(FE_PAT_EDIT.RESULT, 0), (FE_PAT.BUSY_REFUSED, n)]) ∧
    (s.on FE_PAT.EN n = true → s.rd FE_PAT.INUSE n ≠ 4 → s.rd FE_PAT.REV n + 1 < 2 ^ 64 → Answers .patEditGo s fun t =>
      t.rd FE_PAT_EDIT.RESULT = 1 ∧ t.rd FE_PAT.REV n = s.rd FE_PAT.REV n + 1 ∧
      ∃ p, t.pats.slots.get? n = some p ∧ (s.rd FE_PAT.REV n + 1, s.rd FE_PAT_EDIT.DESC_VA * 64) ∈ p.revs)) ∧
  (∀ (s : State) (sid : Nat) (st : Strm) (p : Pkt), s.canRun sid 5 = some (st, p) →
    s.on FE_PAT.EN (bits (pw1 p.w 1) 0 10) = false ∨ s.rd FE_PAT.CTX (bits (pw1 p.w 1) 0 10) ≠ st.ctx →
    exec (.launchPattern sid) s = .next ((s.dispatch sid st p).pktFault sid 8 p.pid)) ∧
  (∀ (s u1 u2 u3 : State) (sid : Nat) (st : Strm) (p : Pkt) (x : Pat) (d : Nat) (h : List Byte) (nl : List PNode),
    s.canRun sid 5 = some (st, p) →
    let n := bits (pw1 p.w 1) 0 10
    let r := s.rd FE_PAT.REV n
    s.on FE_PAT.EN n = true → s.rd FE_PAT.CTX n = st.ctx → s.pats.slots.get? n = some x → x.revs.find? (fun y => y.1 == r) = some (r, d) →
    ((s.dispatch sid st p).count FE_PAT.LAUNCHES n).vread st.ctx 60 d 64 = (u1, some h) →
    1 ≤ field h 0 4 → field h 0 4 ≤ 256 → field h 4 4 ≤ 4096 → field h 8 8 % 4 = 0 → field h 0x10 8 % 256 = 0 →
    1 ≤ field h 0x18 4 → field h 0x18 4 ≤ 64 → field h 0x1C 36 = 0 →
    (∀ k < bits (pw1 p.w 1) 12 2, pw1 p.w (2 + 2 * k) < field h 4 4) →
    u1.readNodes st.ctx d (field h 4 4) (field h 0 4) 0 = (u2, true, some nl) →
    u2.snapHere st.ctx (field h 0x10 8) (field h 0x18 4 * snapSize (field h 4 4)) = (u3, some true) →
    Answers (.launchPattern sid) s fun t =>
      (∃ la, t.pats.launches.get? s.pats.next = some la ∧ la.pat = n ∧ la.rev = r ∧ la.sid = sid ∧ la.pid = p.pid ∧ la.ctx = st.ctx ∧
        la.nodes = nl ∧ la.slots = field h 0x18 4 ∧ la.slot = u3.freeSnap n r (field h 0x18 4) ∧ la.snapped = false) ∧
      t.mem = u3.mem ∧ t.sh = u3.sh ∧
      (u3.freeSnap n r (field h 0x18 4) = none → ∀ y, t.fe.strms.get? sid = some y → y.waitPid = some p.pid))
  ) ∧ (
  (∀ (s u1 u2 : State) (l j : Nat) (la : Launch) (b : List Byte), s.pats.launches.get? l = some la → la.slot = some j →
    la.snapped = false → la.failed = none → s.vread la.ctx 60 la.paramVa (4 * la.paramWords) = (u1, some b) →
    u1.vwrite la.ctx 60 (la.snapVa + j * snapSize la.paramWords)
      (leBytes 8 la.num ++ leBytes 4 la.tag ++ leBytes 52 0 ++
        ((la.patches.foldl (fun ws x => ws.set x.1 x.2) (wordsOf b la.paramWords)).flatMap (leBytes 4))) = (u2, true) →
    Answers (.snapshotWritten l) s fun t => (t.pats.launches.get? l).map (·.snapped) = some true ∧
      ∀ x, u2.pats.slots.get? la.pat = some x → ∃ v : State, v.mem = u2.mem ∧ t = v.patStatus la.pat la.ctx 0 (x.snapped + 1)) ∧
  (∀ (s u1 u2 : State) (l i j : Nat) (la : Launch) (nd : PNode) (q : Strm) (b pb : List Byte),
    s.pats.launches.get? l = some la → la.nodes[i]? = some nd → la.slot = some j → la.snapped = true → la.failed = none → nd.st = 0 →
    s.fe.strms.get? la.sid = some q →
    (¬ (nd.preds.all fun k => s.nodeDone l k) = true → exec (.patternNodeReady l i) s = .next s) ∧
    ((nd.preds.all fun k => s.nodeDone l k) = true → s.vread la.ctx 60 nd.va (4 * nd.words) = (u1, some b) →
      u1.vread la.ctx 60 (la.snapVa + j * snapSize la.paramWords + 0x40) (4 * la.paramWords) = (u2, some pb) →
      Answers (.patternNodeReady l i) s fun t => t.mem = u2.mem ∧ t.sh = u2.sh ∧
        (∃ x, t.fe.strms.get? (nodeSid l i) = some x ∧ x.q = q.q ∧ x.cls = nd.cls ∧ x.ctx = la.ctx ∧ x.node = some (l, i)) ∧
        ∃ y, t.pats.launches.get? l = some y ∧ (y.nodes[i]?).map (·.st) = some 1)) ∧
  (∀ (s : State) (l j : Nat) (la : Launch) (q : Strm), s.pats.launches.get? l = some la → la.slot = some j → la.snapped = true →
    la.failed = none → s.fe.strms.get? la.sid = some q → q.node = none →
    (∀ i nd, la.nodes[i]? = some nd → nd.st ≠ 0 ∧ s.nodeDone l i = true) →
    Answers (.patternLaunchComplete l) s fun t => t.pats.launches.get? l = none ∧ t.pktDone la.sid la.pid ∧
      ∀ k x, t.fe.strms.get? k = some x → x.node.map (·.1) ≠ some l)
  )

/-! ## Translation and shader cores (chapters 06 to 08) -/

/-- One level of a walk (R157 to R162): the entry decides. V = 0 is NOT_MAPPED; a reserved bit, a leaf at level 3 or out of line with
its page, A without R and W, CONTIG above level 0, and a table entry at level 0 or outside local HBM are BAD_PTE; an uncorrectable
error in a table read, a CONTIG group's line too, is WALK_ERR; a leaf maps a
page of its level's size, 16 CONTIG leaves that qualify one of 64 KiB, and a table entry goes on in its table one level below.

PAGE_WALK (R156, R163, R170, R177 to R179): an address over 48 bits faults with VA_RANGE, a walk that fails with its code, WALK_ERR
with its incident, and a translation without the right the access needs with PERM_R to PERM_X; a translation that is found is held
by every cache on the request's way, a core's micro-TLB, its engine's and the MMU's, unless it is in the scope of the running
invalidation (log entry 72, DEDUCED). A fault of an ACTIVE context writes the next record of the fault log and starts the context's teardown with the code.

Entry writes and invalidations (R168, R171 to R175): MMU_PTE_WR writes the committed entry at its L2 slice and is BUSY until then;
a request takes the next ticket and the last place of the FIFO, and with 16 places held sets CFG_ERR; the next invalidation, the
device's own first, drops the MMU's entries in scope; an engine's acknowledgement drops its own; when all have acknowledged the
ticket is done and the Tally signalled; engines late by MMU_INV_TIMEOUT are acknowledged for them. -/
def Obligations.TranslationAndInvalidation : Prop :=
  (
  (∀ (s u : State) (c va lvl table err : Nat) (bs : List Byte), lvl ≤ 3 → s.tableOk table = true → err ≠ 0 →
    s.physRead (table + 8 * bits va (12 + 9 * lvl) 9) 8 0 true = (u, bs, err) → s.walkFrom c va lvl table = (u, .fail 0x29 lvl)) ∧
  ∀ (s u : State) (c va lvl table : Nat) (bs : List Byte), lvl ≤ 3 → s.tableOk table = true →
    s.physRead (table + 8 * bits va (12 + 9 * lvl) 9) 8 0 true = (u, bs, 0) →
    let e := ofBytes bs
    (bit e 0 = false → s.walkFrom c va lvl table = (u, .fail 0x21 lvl)) ∧
    (bit e 0 = true → bits e 50 14 ≠ 0 ∨
        (bit e 1 = true ∧ (lvl = 3 ∨ (lvl ≠ 0 ∧ bit e 8 = true) ∨ ptePa e % 2 ^ (12 + 9 * lvl) ≠ 0 ∨
          (bit e 4 = true ∧ (bit e 2 = false ∨ bit e 3 = false)))) ∨ (bit e 1 = false ∧ lvl = 0) →
      s.walkFrom c va lvl table = (u, .fail 0x22 lvl)) ∧
    (bit e 0 = true → bits e 50 14 = 0 → bit e 1 = true → lvl ≠ 3 → bit e 8 = false → ptePa e % 2 ^ (12 + 9 * lvl) = 0 →
      (bit e 4 = true → bit e 2 = true ∧ bit e 3 = true) →
      s.walkFrom c va lvl table =
        (u, .page (va - va % 2 ^ (12 + 9 * lvl)) (2 ^ (12 + 9 * lvl)) (bits e 12 38 * 0x1000) (bits e 2 7))) ∧
    (∀ (w : State) (g : List Byte), lvl = 0 → bit e 0 = true → bits e 50 14 = 0 → bit e 1 = true → bit e 8 = true →
      ptePa e % 0x1000 = 0 → (bit e 4 = true → bit e 2 = true ∧ bit e 3 = true) →
      u.physRead (table + alignDown (8 * bits va 12 9) 128) 128 0 true = (w, g, 0) →
      let es := (List.range 16).map (fun i => field g (8 * i) 8)
      (contigOk es = true → s.walkFrom c va lvl table =
        (w, .page (va - va % 0x10000) 0x10000 (ptePa (es.getD 0 0)) (bits e 2 7))) ∧
      (contigOk es = false → s.walkFrom c va lvl table =
        ((w.count MMU_CTR.CONTIG_MISMATCH).raise 0x71, .page (va - va % 0x1000) 0x1000 (ptePa e) (bits e 2 7)))) ∧
    (∀ (w : State) (g : List Byte) (err : Nat), lvl = 0 → bit e 0 = true → bits e 50 14 = 0 → bit e 1 = true → bit e 8 = true →
      ptePa e % 0x1000 = 0 → (bit e 4 = true → bit e 2 = true ∧ bit e 3 = true) → err ≠ 0 →
      u.physRead (table + alignDown (8 * bits va 12 9) 128) 128 0 true = (w, g, err) →
      s.walkFrom c va lvl table = (w, .fail 0x29 0)) ∧
    (∀ l, lvl = l + 1 → bit e 0 = true → bits e 50 14 = 0 → bit e 1 = false → u.tableOk (ptePa e) = false →
      s.walkFrom c va lvl table = (u, .fail 0x22 lvl)) ∧
    (∀ l, lvl = l + 1 → bit e 0 = true → bits e 50 14 = 0 → bit e 1 = false → u.tableOk (ptePa e) = true →
      ∃ v : State, v = { u with mmu := v.mmu } ∧ v.mmu.tlb = u.mmu.tlb ∧
        s.walkFrom c va lvl table = v.walkFrom c va l (bits e 12 38 * 0x1000))
  ) ∧ (
  ∀ (s : State) (c va acc eng : Nat), s.ctxActive c = true → c < 1024 → acc < 4 → isRequester eng = true →
    (2 ^ 48 ≤ va → va < 2 ^ 64 → Answers (.pageWalk c va acc eng) s fun t => t.rd FE_CTX.STATE c = 2 ∧ t.mem = s.mem ∧
      t.rd MMU_FAULT.W0 (s.rd MMU_FAULT_WPTR.WPTR % 32) = va ∧
      t.rd MMU_FAULT.W1 (s.rd MMU_FAULT_WPTR.WPTR % 32) = c + 0x20 * 2 ^ 16 + acc * 2 ^ 24 + ackBit eng * 2 ^ 32 ∧
      t.rd MMU_FAULT_WPTR.WPTR = (s.rd MMU_FAULT_WPTR.WPTR + 1) % 2 ^ 16 ∧
      ∃ td, t.tds.get? c = some td ∧ td.driver = false ∧ td.code = 0x20 ∧ td.engine = ackBit eng) ∧
    (∀ e, va < 2 ^ 48 → s.tlbFind eng c va = some e →
      exec (.pageWalk c va acc eng) s =
        .next (if bit e.rights (permBit acc) then s else s.mmuFault c va (0x23 + acc) acc 0 eng)) ∧
    (∀ (u : State) (v n pa r : Nat), va < 2 ^ 48 → (∀ k ∈ tlbPath eng, s.tlbFind k c va = none) →
      s.walk c va = (u, .page v n pa r) → v ≤ va → va < v + n → bit r (permBit acc) = true →
      Answers (.pageWalk c va acc eng) s fun t => t = { u with mmu := t.mmu } ∧
        (u.invHolds c v n = true → t = u) ∧
        (u.invHolds c v n = false → ∀ k ∈ tlbPath eng, t.tlbFind k c va = some ⟨k, c, v, n, pa, r⟩)) ∧
    (∀ (u : State) (code l : Nat), va < 2 ^ 48 → (∀ k ∈ tlbPath eng, s.tlbFind k c va = none) →
      s.walk c va = (u, .fail code l) →
      (code ≠ 0x29 → exec (.pageWalk c va acc eng) s = .next (u.mmuFault c va code acc l eng)) ∧
      (code = 0x29 → u.ctxActive c = true → ∃ n v, u.incident 2 (u.partOf c) 0xC2 = (n, v) ∧
        exec (.pageWalk c va acc eng) s = .next (v.mmuFault c va 0x29 acc l eng n)))
  ) ∧ (
  (∀ s : State, s.winUp .mmu = true →
    (s.on MMU_PTE_WR.BUSY = false → Answers .pteWrGo s fun t => t.on MMU_PTE_WR.BUSY = true ∧
      t.mmu = { s.mmu with pte := some (s.rd MMU_PTE_WR.PA * 8, s.rd MMU_PTE_WR.VALUE) } ∧
      t = { s with regs := t.regs, mmu := t.mmu } ∧ RegsKept s t [(MMU_PTE_WR.BUSY, 0)]) ∧
    (s.on MMU_PTE_WR.BUSY = true → Answers .pteWrGo s fun t => t.on CFG.CFG_ERR Blk.mmu.idx = true ∧
      WriteEv s t [(CFG.CFG_ERR, Blk.mmu.idx), (CFG.ERR_OFFSET, Blk.mmu.idx)])) ∧
  (∀ (s : State) (off v : Nat), s.mmu.pte = some (off, v) → Answers .pteWrDone s fun t => t.on MMU_PTE_WR.BUSY = false ∧
    t.mmu.pte = none ∧ ∃ u e, s.physWrite (s.dev * 2 ^ 48 + off) 0 (leBytes 8 v) true = (u, e) ∧
      (e ≠ 0x90 → t = { u with regs := t.regs, mmu := t.mmu } ∧ RegsKept u t [(MMU_PTE_WR.BUSY, 0)])) ∧
  (∀ s : State, s.winUp .mmu = true →
    (s.mmu.fifo.length < 16 → s.mmu.nextTicket < 2 ^ 64 → Answers .invReqGo s fun t =>
      t.rd MMU_INV_REQ.TICKET = s.mmu.nextTicket ∧ t.mmu.nextTicket = s.mmu.nextTicket + 1 ∧
      t.rd MMU_STATUS.INV_QUEUED = s.mmu.fifo.length + 1 ∧ t = { s with regs := t.regs, mmu := t.mmu } ∧
      ∃ i, t.mmu.fifo = s.mmu.fifo ++ [i] ∧ i.ticket = s.mmu.nextTicket ∧ i.scope = s.rd MMU_INV_REQ.SCOPE ∧
        i.ctx = s.rd MMU_INV_REQ.CTX ∧ i.part = s.rd MMU_INV_REQ.PART ∧ i.va = s.rd MMU_INV_REQ.VA_BASE * 0x1000 ∧
        i.pages = s.rd MMU_INV_REQ.PAGES ∧ i.tallyEn = s.on MMU_INV_REQ.TALLY_EN ∧ i.tally = s.rd MMU_INV_REQ.TALLY ∧
        i.value = s.rd MMU_INV_REQ.VALUE) ∧
    (16 ≤ s.mmu.fifo.length → Answers .invReqGo s fun t => t.on CFG.CFG_ERR Blk.mmu.idx = true ∧
      WriteEv s t [(CFG.CFG_ERR, Blk.mmu.idx), (CFG.ERR_OFFSET, Blk.mmu.idx)])) ∧
  (∀ (s : State) (i : Inv), s.mmu.running = none → (s.mmu.dev ++ s.mmu.fifo).head? = some i →
    s.invAuto (s.invMask i) % 2 ^ 64 ≠ s.invMask i % 2 ^ 64 →
    Answers .invStart s fun t => t.mmu.running = some i ∧ t.rd MMU_INV_ACKMASK.MASK = s.invMask i % 2 ^ 64 ∧
      t.rd MMU_INV_ACKED.MASK = s.invAuto (s.invMask i) % 2 ^ 64 ∧ t.on MMU_STATUS.INV_BUSY = true ∧
      t.mmu.fifo = s.mmu.fifo ∧ t = { s with regs := t.regs, mmu := t.mmu } ∧
      (∀ x ∈ s.mmu.tlb, x.eng ≠ 64 → x ∈ t.mmu.tlb) ∧ ∀ x ∈ t.mmu.tlb, x.eng = 64 → s.invCovers i x.ctx x.va x.size = false) ∧
  (∀ (s : State) (i : Inv) (e : Nat), e < 64 → s.mmu.running = some i → bit (s.rd MMU_INV_ACKMASK.MASK) e = true →
    bit (s.rd MMU_INV_ACKED.MASK) e = false → s.rd MMU_INV_ACKED.MASK < 2 ^ 64 →
    (setBit (s.rd MMU_INV_ACKED.MASK) e true ≠ s.rd MMU_INV_ACKMASK.MASK → Answers (.invAck e) s fun t =>
      t.rd MMU_INV_ACKED.MASK = setBit (s.rd MMU_INV_ACKED.MASK) e true ∧ t.mmu.running = some i ∧
      (∀ x ∈ t.mmu.tlb, ackBit x.eng = e → s.invCovers i x.ctx x.va x.size = false) ∧
      t = { s with regs := t.regs, mmu := t.mmu } ∧ RegsKept s t [(MMU_INV_ACKED.MASK, 0)]) ∧
    (setBit (s.rd MMU_INV_ACKED.MASK) e true = s.rd MMU_INV_ACKMASK.MASK → i.ticket ≠ 0 → i.ticket < 2 ^ 64 →
      Answers (.invAck e) s fun t => t.mmu.running = none ∧ t.mmu.fifo = s.mmu.fifo.drop 1 ∧ t.rd MMU_INV_DONE.TICKET = i.ticket ∧
        t.on MMU_STATUS.INV_BUSY = false ∧
        (i.tallyEn = true → i.tally < 8192 → i.value < poison → i.value ≤ t.tval i.tally))) ∧
  (∀ (s : State) (i : Inv), s.mmu.running = some i →
    (s.now < s.mmu.since + s.rd MMU_INV_TIMEOUT.US * 1000 → exec .invTimeoutExpiry s = .next s) ∧
    (s.mmu.since + s.rd MMU_INV_TIMEOUT.US * 1000 ≤ s.now → Answers .invTimeoutExpiry s fun t =>
      ∀ e < 64, bit (s.rd MMU_INV_ACKMASK.MASK) e = true → bit (t.rd MMU_INV_ACKED.MASK) e = true))
  )

/-- DISPATCH and DISPATCH_INDIRECT (R120, R184, R185): a mask outside the partition faults the context with PART_RESOURCE, an empty
grid completes at once, an invalid descriptor faults the context with KDESC_INVALID; a valid one starts one dispatch of the grid
over the mask's clusters, or the partition's. DISPATCH_INDIRECT reads its grid from memory first.

Placement (R183, R186, R188, R190): the next workgroup of a dispatch is placed on a core of a cluster of its mask that it fits
on, in the lowest free slots, and stalls while there is none. Its groups start together at the entry point, with the lanes that
exist and their first registers as R186 gives them. No other group changes.

Stops of compute (R209, R210, R451, R452, R455): a stop request reaches every group of the cluster's workgroups with a save
area and no Realtime work; 20 µs later those that have not yielded are to stop whole; a stopped workgroup is saved, which frees its
slots and ends its Tally waits; a restore reads the image back and the groups resume in free slots of a core that fits, or faults
the context with PREEMPT_RESTORE where the CRC fails. Where each byte of the image lies is free (log entry 20). -/
def Obligations.ComputeWork : Prop :=
  (
  let starts (u t : State) (st : Strm) (sid pid gx gy gz m : Nat) (b : List Byte) : Prop :=
    ∃ d : Disp, t = { u with sh := { u.sh with disps := u.sh.disps.put u.sh.nextDisp d, nextDisp := u.sh.nextDisp + 1 } } ∧
      d.kind = .compute ∧ d.ctx = st.ctx ∧ d.sid = sid ∧ d.pid = pid ∧ d.gx = gx ∧ d.gy = gy ∧ d.gz = gz ∧ d.clusters = m ∧
      d.next = 0 ∧ d.live = 0 ∧ d.kd.code = field b 0 8 ∧ d.kd.args = field b 8 8 ∧ d.kd.wgx = field b 0x10 2 ∧
      d.kd.wgy = field b 0x12 2 ∧ d.kd.wgz = field b 0x14 2 ∧ d.kd.vregs = field b 0x16 2 ∧ d.kd.localBytes = field b 0x18 4 ∧
      d.kd.trapVa = field b 0x30 8 ∧ d.kd.saveVa = field b 0x38 8
  ∀ (s u v : State) (sid : Nat) (st : Strm) (p : Pkt) (b gb : List Byte), s.dispatch sid st p = v →
    let own := v.rd FE_PART.CLUSTERS (v.partOf st.ctx)
    (s.canRun sid 0x10 = some (st, p) →
      let mask := pw2 p.w 6
      let m := if mask = 0 then own else mask
      (mask &&& own ≠ mask → exec (.dispatch sid) s = .next (v.ctxFault st.ctx 0xC4)) ∧
      (mask &&& own = mask → pw1 p.w 3 = 0 ∨ pw1 p.w 4 = 0 ∨ pw1 p.w 5 = 0 → exec (.dispatch sid) s = .next (v.donePkt sid p.pid)) ∧
      (mask &&& own = mask → pw1 p.w 3 ≠ 0 → pw1 p.w 4 ≠ 0 → pw1 p.w 5 ≠ 0 → p.acquire = false →
        v.vread st.ctx ((bitList m 48).headD 60) (pw2 p.w 1) 256 = (u, some b) →
        if kdescRsv b = true ∧ (kdescOf b).okRegs = true ∧ (kdescOf b).okWg = true then
          Answers (.dispatch sid) s fun t => starts u t st sid p.pid (pw1 p.w 3) (pw1 p.w 4) (pw1 p.w 5) m b
        else exec (.dispatch sid) s = .next (u.ctxFault st.ctx 0x30 0 ((bitList m 48).headD 60)))) ∧
    (s.canRun sid 0x11 = some (st, p) → v.vread st.ctx 60 (pw2 p.w 3) 12 = (u, some gb) →
      let own := u.rd FE_PART.CLUSTERS (u.partOf st.ctx)
      let mask := pw2 p.w 5
      let m := if mask = 0 then own else mask
      (mask &&& own ≠ mask → exec (.dispatchIndirect sid) s = .next (u.ctxFault st.ctx 0xC4)) ∧
      (∀ w : State, mask &&& own = mask → field gb 0 4 * field gb 4 4 * field gb 8 4 ≠ 0 → p.acquire = false →
        u.vread st.ctx ((bitList m 48).headD 60) (pw2 p.w 1) 256 = (w, some b) →
        kdescRsv b = true → (kdescOf b).okRegs = true → (kdescOf b).okWg = true →
        Answers (.dispatchIndirect sid) s fun t => starts w t st sid p.pid (field gb 0 4) (field gb 4 4) (field gb 8 4) m b))
  ) ∧ (
  ∀ (s : State) (d : Nat) (x : Disp), s.dispReady d = some x → x.kind = .compute →
    (s.placeCore x x.kd.groups = none → exec (.workgroupPlace d) s = .next s) ∧
    ∀ core, s.placeCore x x.kd.groups = some core → x.kd.okWg = true → x.gx < 2 ^ 32 → x.gy < 2 ^ 32 → x.gz < 2 ^ 32 →
      bit x.clusters (core / 4) = true ∧ s.coreFits x.kd x.kd.groups core = true ∧
      Answers (.workgroupPlace d) s fun t =>
        let slot (gi : Nat) : Nat := core * 48 + (s.freeSlots core).getD gi 0
        (∃ w, t.sh.wgs.get? s.sh.nextWg = some w ∧ w.disp = d ∧ w.idx = x.next ∧ w.cluster = core / 4 ∧ w.core = core % 4 ∧
          w.groups = x.kd.groups ∧ w.slots = (List.range x.kd.groups).map slot ∧ w.arrived = [] ∧ w.ended = []) ∧
        (∀ gi < x.kd.groups, ∃ y, t.sh.grps.get? (slot gi) = some y ∧ y.wg = s.sh.nextWg ∧ y.gi = gi ∧ y.pc = x.kd.code ∧
          y.exec = 2 ^ min 32 (x.kd.threads - 32 * gi) - 1 ∧ y.lanes = y.exec ∧ y.trap.inHandler = false ∧
          y.rs 0 + 2 ^ 32 * y.rs 1 = x.kd.args % 2 ^ 64 ∧ y.rs 2 = x.next % x.gx ∧ y.rs 3 = x.next / x.gx % x.gy ∧
          y.rs 4 = x.next / (x.gx * x.gy) ∧ y.rs 5 = gi ∧ y.rs 6 = x.kd.groups ∧ y.rs 7 = 0 ∧
          ∀ l < 32, bit y.exec l = true → y.rv l 0 = 32 * gi + l ∧ y.rv l 1 = (32 * gi + l) % x.kd.wgx ∧
            y.rv l 2 = (32 * gi + l) / x.kd.wgx % x.kd.wgy ∧ y.rv l 3 = (32 * gi + l) / (x.kd.wgx * x.kd.wgy)) ∧
        (∀ k, (∀ gi < x.kd.groups, k ≠ slot gi) → t.sh.grps.get? k = s.sh.grps.get? k) ∧
        t.sh.disps.get? d = some { x with next := x.next + 1, live := x.live + 1, lastCluster := core / 4 } ∧
        t = { s with regs := t.regs, freeCtr := t.freeCtr, sh := t.sh }
  ) ∧ (
  (∀ (s : State) (c : Nat), s.stopCluster c = false → exec (.preemptRequest c) s = .next s) ∧
  (∀ (s : State) (c g wid : Nat) (y : Grp) (w : Wg) (x : Disp), s.stopCluster c = true → s.sh.grps.get? g = some y → y.wg = wid →
    s.sh.wgs.get? wid = some w → (∀ p ∈ s.sh.wgs, p.1 = wid → p.2 = w) → s.sh.disps.get? w.disp = some x → x.kind = .compute →
    Answers (.preemptRequest c) s fun t =>
      (w.cluster = c → x.prio ≠ 3 → x.kd.saveVa ≠ 0 → t.sh.grps.get? g = some { y with preempt := true }) ∧
      (w.cluster ≠ c ∨ x.prio = 3 → t.sh.grps.get? g = some y) ∧ t.fe = s.fe ∧ t.looms = s.looms ∧ t.tly = s.tly) ∧
  (∀ (s : State) (c : Nat), Answers (.stopTimeout c) s fun t => t = { s with sh := { s.sh with wgs := t.sh.wgs } } ∧
    ∀ wid w, s.sh.wgs.get? wid = some w → t.sh.wgs.get? wid = some (
      if w.cluster = c ∧ s.wgAsked wid = true ∧ w.since + 20000 ≤ s.now ∧ (s.wgKd w).saveVa ≠ 0 ∧ s.wgYielded wid w = false
      then { w with stop := 1 } else w)) ∧
  (∀ (s : State) (c wid : Nat) (w : Wg) (x : Disp), s.sh.wgs.filter (fun p => p.2.cluster == c && s.wgAsked p.1) = [(wid, w)] →
    s.sh.disps.get? w.disp = some x → (s.sh.grps.map (·.1)).Nodup →
    (s.wgSavable wid w = false → exec (.saveComplete c) s = .next s) ∧
    (s.wgSavable wid w = true → (s.saveWg wid w x).sh.wgs.get? wid = none → Answers (.saveComplete c) s fun t =>
      (∀ g y, s.sh.grps.get? g = some y → y.wg = wid → t.sh.grps.get? g = none ∧ ∀ z ∈ t.tly.waits, z.who ≠ .group g) ∧
      (∀ g y, s.sh.grps.get? g = some y → y.wg ≠ wid → t.sh.grps.get? g = some y) ∧
      ∃ v, t.sh.saved = s.sh.saved ++ [v] ∧ v.disp = w.disp ∧ v.idx = w.idx ∧ v.groups.length = (s.wgGrps wid).length ∧
        v.full = decide (w.stop = 1) ∧
        (w.stop = 1 → v.groups = (s.wgGrps wid).map fun p =>
          { p.2 with yield := none, preempt := false, stepping := 0, wait := if p.2.wait = .save then .none else p.2.wait }))) ∧
  (∀ (s u : State) (core : Nat) (v : SavedWg) (x : Disp) (b : List Byte), s.sh.disps.get? v.disp = some x →
    s.sh.saved.find? (fun v => match s.sh.disps.get? v.disp with
      | some x => bit x.clusters (core / 4) && s.ctxActive x.ctx
      | none => false) = some v → core < 192 →
    (s.coreFits x.kd v.groups.length core = false → exec (.restoreComplete core) s = .next s) ∧
    (s.stopCluster (core / 4) = false → s.fe.held.contains x.part = false → s.coreFits x.kd v.groups.length core = true →
      State.readImage x.ctx (core / 4) v.area v.image s [] = (u, some b) → s.on DBG_TRACE.TRACE_EN = false →
      u.on DBG_TRACE.TRACE_EN = false →
      (crc32c b = v.crc → v.waits = [] → Answers (.restoreComplete core) s fun t => v ∉ t.sh.saved ∧ t.mem = u.mem ∧
        (∃ w, t.sh.wgs.get? u.sh.nextWg = some w ∧ w.disp = v.wgs.disp ∧ w.cluster = core / 4 ∧ w.core = core % 4) ∧
        ((u.freeSlots core).length ≥ v.groups.length → ∀ k y, v.groups[k]? = some y →
          ∃ z, t.sh.grps.get? (core * 48 + (u.freeSlots core).getD k 0) = some z ∧ z.pc = y.pc ∧ z.exec = y.exec ∧ z.scratch = y.scratch ∧
            z.wg = u.sh.nextWg ∧ z.v = y.v ∧ z.sg = y.sg ∧ z.p = y.p ∧ z.status = y.status ∧ z.trap = y.trap)) ∧
      (crc32c b ≠ v.crc → u.ctxActive x.ctx = true → Answers (.restoreComplete core) s fun t => v ∉ t.sh.saved ∧
        t.rd FE_CTX.STATE x.ctx = 2 ∧ ∃ td, t.tds.get? x.ctx = some td ∧ td.code = 0x34)))
  )

/-- The CTRL class (R224 to R226): every command changes its own group alone. The branches go to their target on their condition,
and else fall through; IF, ELSE, ENDIF and BREAK set EXEC as the table says and branch where it is empty; CALL saves the address
behind it; RET and RTT take the PC from their register, RTT leaving the handler; SETMODE changes the bits of its mask that exist, where a GMMA that may still
write its result can set FLUSHED after it (R271; a free value, entry 79);
GETREG and SETREG read and write the trap registers; YIELD without a request does nothing.

Traps (R201, R204, R205, R207, R208, R218, R220 to R223): TRAP raises SOFTWARE with the low byte of its operand in TRAP_INFO; a
return to an address out of alignment raises MISALIGNED; RTT and SETREG outside a handler, a scalar command with a guard, a reserved
MOD bit, a type that the class lacks, and a destination beyond the group's registers raise ILLEGAL, as does a word whose CLASS or OP
is undefined. A trap waits for the hits of earlier emissions. A group that cannot issue, or whose next word is another instruction,
does nothing.

END (R227): the group ends and counts as arrived at every barrier. With no emission pending, its slot is free; a group with
pending hits stays in its slot, ended, until they have arrived. -/
def Obligations.ControlAndTraps : Prop :=
  (
  let brOk (i : Ins) (_ : GEnv) : Prop := i.ext = true ∧ i.x < 2 ^ 32
  let x0 (i : Ins) (_ : GEnv) : Prop := i.x = 0
  GroupRule .ctrlNop (ctrlOp 0) true (fun _ => []) 0 false x0 (fun _ e => e.grp) ∧
  GroupRule .br (ctrlOp 1) true (fun _ => []) 0 false brOk (fun i e => { e.grp with pc := branchTo e.grp i }) ∧
  GroupRule .brZ (ctrlOp 2) true (fun i => [⟨i.src0, .s, 1⟩]) 0 false brOk
    (fun i e => { e.grp with pc := if e.grp.rs (i.src0 - 0x100) = 0 then branchTo e.grp i else e.grp.pc }) ∧
  GroupRule .brNz (ctrlOp 3) true (fun i => [⟨i.src0, .s, 1⟩]) 0 false brOk
    (fun i e => { e.grp with pc := if e.grp.rs (i.src0 - 0x100) ≠ 0 then branchTo e.grp i else e.grp.pc }) ∧
  GroupRule .brExecz (ctrlOp 4) true (fun _ => []) 0 false brOk
    (fun i e => { e.grp with pc := if e.grp.exec = 0 then branchTo e.grp i else e.grp.pc }) ∧
  GroupRule .brExecnz (ctrlOp 5) true (fun _ => []) 0 false brOk
    (fun i e => { e.grp with pc := if e.grp.exec ≠ 0 then branchTo e.grp i else e.grp.pc }) ∧
  GroupRule .ifOp (ctrlOp 6) true (fun i => [⟨i.dst, .s, 1⟩, ⟨i.src0, .p, 1⟩]) 0 false brOk (fun i e =>
    let m := e.grp.exec &&& e.grp.rp (i.src0 - 0x180) &&& e.grp.lanes
    { e.grp.ws (i.dst - 0x100) e.grp.exec with exec := m, pc := if m = 0 then branchTo e.grp i else e.grp.pc }) ∧
  GroupRule .elseOp (ctrlOp 7) true (fun i => [⟨i.src0, .s, 1⟩]) 0 false brOk (fun i e =>
    let m := e.grp.rs (i.src0 - 0x100) &&& (0xFFFFFFFF - e.grp.exec) &&& e.grp.lanes
    { e.grp with exec := m, pc := if m = 0 then branchTo e.grp i else e.grp.pc }) ∧
  GroupRule .endif (ctrlOp 8) true (fun i => [⟨i.src0, .s, 1⟩]) 0 false x0
    (fun i e => { e.grp with exec := e.grp.rs (i.src0 - 0x100) &&& e.grp.lanes }) ∧
  GroupRule .breakOp (ctrlOp 9) true (fun i => [⟨i.src0, .p, 1⟩]) 0 false x0
    (fun i e => { e.grp with exec := e.grp.exec &&& (0xFFFFFFFF - e.grp.rp (i.src0 - 0x180)) &&& e.grp.lanes }) ∧
  GroupRule .call (ctrlOp 0xa) true (fun i => [⟨i.dst, .s, 2⟩]) 0 false brOk
    (fun i e => { e.grp.ws2 (i.dst - 0x100) e.grp.pc with pc := branchTo e.grp i }) ∧
  (∀ (s u : State) (g : Nat) (i : Ins) (e0 e : GEnv), i.x = 0 →
    let p := e.grp.rs (i.src0 - 0x100) + e.grp.rs (i.src0 - 0xFF) * 2 ^ 32
    (Issues s (ctrlOp 0xB) g i true [⟨i.src0, .s, 2⟩] 0 false e0 u e → p % 8 = 0 →
      Answers (.ret g i) s fun t => GrpOnly u t g { e.grp with pc := p % 2 ^ 48 }) ∧
    (Issues s (ctrlOp 0x12) g i true [⟨i.src0, .s, 2⟩] 0 false e0 u e → e0.grp.trap.inHandler = true →
      Answers (.setreg g i) s fun t => GrpOnly u t g { e.grp with trap := { e.grp.trap with pc := p % 2 ^ 48 } })) ∧
  (∀ (s u : State) (g : Nat) (i : Ins) (e0 e : GEnv), Issues s (ctrlOp 0xD) g i true [] 0 false e0 u e → i.x = 0 →
    e0.grp.trap.inHandler = true →
    Answers (.rtt g i) s fun t => GrpOnly u t g { e.grp with pc := e.grp.trap.pc, trap := { e.grp.trap with inHandler := false } }) ∧
  (∀ (s u : State) (g : Nat) (i : Ins) (e0 e : GEnv), i.x = 0 →
    Issues s (ctrlOp 0x10) g i true [⟨i.src0, .any, 1⟩, ⟨i.src1, .any, 1⟩] 0 false e0 u e →
    let m := e.grp.s32 i i.src1 &&& 0x33F
    let st := (e.grp.status - (e.grp.status &&& m)) ||| (e.grp.s32 i i.src0 &&& m)
    (e.grp.gmmaAt = none ∨ bit m 5 = false ∨ bit st 5 = true →
      Answers (.setmode g i) s fun t => GrpOnly u t g { e.grp with status := st }) ∧
    (Answers (.setmode g i) s fun t => ∃ b, t.sh.grps.get? g = some { e.grp with status := setBit st 5 b } ∧
      ∀ k, k ≠ g → t.sh.grps.get? k = u.sh.grps.get? k)) ∧
  (∀ (s u : State) (g : Nat) (i : Ins) (e0 e : GEnv), i.ext = true → i.x ≤ 5 →
    Issues s (ctrlOp 0x11) g i true [⟨i.dst, .s, if i.x = 0 ∨ i.x = 5 then 2 else 1⟩] 0 false e0 u e →
    Answers (.getreg g i) s fun t => GrpOnly u t g (
      if i.x = 0 then e.grp.ws2 (i.dst - 0x100) e.grp.trap.pc
      else if i.x = 5 then e.grp.ws2 (i.dst - 0x100) u.now
      else e.grp.ws (i.dst - 0x100) ([0, e.grp.trap.cause, e.grp.trap.exec, e.grp.trap.info, e.grp.status].getD i.x 0))) ∧
  (∀ (s u : State) (g : Nat) (i : Ins) (e0 e : GEnv), Issues s (ctrlOp 0xE) g i true [] 0 false e0 u e → i.ext = true →
    i.x &&& 0xFF01FF = i.x → bits i.x 0 9 ≤ e.disp.kd.vregs → e.disp.kd.vregs ≤ 256 → (bit i.x 23 = true → bits i.x 16 7 = 0) →
    e0.grp.rets = [] →
    (e0.grp.preempt = false ∨ e.disp.kd.yields = false → exec (.yield g i) s = .next u) ∧
    (e0.grp.preempt = true → e.disp.kd.yields = true → Answers (.yield g i) s fun t => GrpOnly u t g { e.grp with
      wait := .save, yield := some (bits i.x 0 9, if bit i.x 23 then 128 else bits i.x 16 7) }))
  ) ∧ (
  (∀ (s : State) (g : Nat) (i : Ins) (e : GEnv), s.genv g = some e → s.canIssue e = false →
    ∀ c ∈ [Instr.br g i, .ctrlNop g i, .valuAdd g i .f32, .ld g i, .atomAdd g i, .bar g i, .gmmaI8 g i, .saluMov g i .u32],
      exec c s = .next s) ∧
  (∀ (s v : State) (g w x : Nat) (i : Ins) (e : GEnv), s.genv g = some e → s.canIssue e = true → e.grp.rets = [] →
    s.fetch e = (v, some (w, x)) →
    (opKnown w = true → insOf w x ≠ i → ∀ c ∈ [Instr.br g i, .ctrlNop g i, .valuAdd g i .f32, .bar g i, .saluMov g i .u32], exec c s = .next s) ∧
    (opKnown w = true → wordBits w 8 4 ≠ 9 → exec (.ctrlNop g i) s = .next s) ∧
    (opKnown w = false → v.bpHit e = none → Answers (.ctrlNop g i) s fun t => TrapsAt v t e 1)) ∧
  (∀ (s v : State) (g : Nat) (i : Ins) (e : GEnv),
    (i.ge = true → ∀ p ∈ [(Instr.br g i, ctrlOp 1), (.call g i, ctrlOp 0xA), (.ret g i, ctrlOp 0xB), (.trap g i, ctrlOp 0xC),
        (.setmode g i, ctrlOp 0x10), (.sld g i, ⟨6, some 2⟩), (.bar g i, ⟨8, some 0⟩), (.fence g i, ⟨8, some 1⟩), (.saluAdd g i .u32, ⟨5, none⟩)],
      Fetches s p.2 g i e v → Answers p.1 s fun t => TrapsAt v t e 1) ∧
    (Fetches s ⟨0, none⟩ g i e v →
      (∀ r ∈ valuTable, ∀ ty : NTy, 64 ≤ i.md → i.md < 1024 → Answers (r.1 g i ty) s fun t => TrapsAt v t e 1) ∧
      (∀ r ∈ valuTable, ∀ ty : NTy, e.disp.kd.vregs ≤ i.dst → Answers (r.1 g i ty) s fun t => TrapsAt v t e 1) ∧
      (∀ ty : NTy, ty ∉ intTys → Answers (.valuAnd g i ty) s fun t => TrapsAt v t e 1)) ∧
    (e.grp.trap.inHandler = false →
      (Fetches s (ctrlOp 0xD) g i e v → Answers (.rtt g i) s fun t => TrapsAt v t e 1) ∧
      (Fetches s (ctrlOp 0x12) g i e v → Answers (.setreg g i) s fun t => TrapsAt v t e 1))) ∧
  (∀ (s u : State) (g : Nat) (i : Ins) (e e' : GEnv), i.x = 0 →
    (Issues s (ctrlOp 0xB) g i true [⟨i.src0, .s, 2⟩] 0 false e u e' → e.grp.s64 i i.src0 % 8 ≠ 0 → Traps (.ret g i) s (ctrlOp 0xB) i e 3) ∧
    (Issues s (ctrlOp 0xC) g i true [⟨i.src0, .inl, 1⟩] 0 false e u e' → Answers (.trap g i) s fun t => TrapsAt u t e 6 ∧
      (e.grp.rets = [] → e.grp.trap.inHandler = false → e.disp.kd.trapVa ≠ 0 →
        (t.sh.grps.get? g).map (·.trap.info) = some (e.grp.s32 i i.src0 % 256)))) ∧
  (∀ (s : State) (g : Nat) (e : GEnv) (c n : Nat), s.genv g = some e → e.grp.trapReq = some (c, n) →
    (e.grp.rets ≠ [] → s.trapGo g = s) ∧
    (e.grp.rets = [] → e.grp.trap.inHandler = false → e.disp.kd.trapVa ≠ 0 → (s.trapGo g).sh.grps.get? g = some { e.grp with
      trapReq := none, pc := e.disp.kd.trapVa, stepping := if e.grp.stepping = 1 then 2 else e.grp.stepping,
      trap := { inHandler := true, pc := e.grp.pc, cause := c, exec := e.grp.exec, info := n } }))
  ) ∧ (
  ∀ (s u : State) (g : Nat) (i : Ins) (e0 e : GEnv), Issues s (ctrlOp 0xF) g i true [] 0 false e0 u e → i.x = 0 → e.disp.kind = .compute →
    u.sh.wgs.get? e.grp.wg = some e.wg → e.wg.arrived = [] →
    (e.grp.rets = [] → u.gfx.passes = [] → Answers (.endOp g i) s fun t => t.sh.grps.get? g = none ∧
      (∀ k, k ≠ g → t.sh.grps.get? k = u.sh.grps.get? k) ∧ t.mem = u.mem) ∧
    (e.grp.rets ≠ [] → Answers (.endOp g i) s fun t => t.sh.grps.get? g = some { e.grp with ended := true } ∧
      (∀ k, k ≠ g → t.sh.grps.get? k = u.sh.grps.get? k) ∧
      ∃ w, t.sh.wgs.get? e.grp.wg = some w ∧ e.grp.gi ∈ w.ended ∧ t.mem = u.mem)
  )

/-- Loads and stores (R199, R228 to R232): LD in the local store gives each active lane the bytes at its address, zero- or
sign-extended, and changes nothing else; LD and SLD of memory read through the core's L1, and ST writes each lane's bytes,
ascending, through it or to the local store. An acquire drops the context's L1 lines of the core. An access that is not aligned, or
beyond LOCAL_BYTES or SCRATCH_BYTES, traps before any lane takes effect.

Atomics (R233 to R236): in a defined form, each active lane that writes does its operation in turn in ascending lane order, in
the local store or at memory, and with RET gives its register the value found. FADD of a NaN is the canonical NaN; no flag is set.
On another device's
memory an address group is one request, which its home device serves. An atomic that is not aligned traps, and one of another operation than ADD, SWAP and CAS on a host page faults its context with
HOST_ATOMIC before any lane takes effect. -/
def Obligations.LoadsStoresAndAtomics : Prop :=
  (
  (∀ (s u : State) (g : Nat) (i : Ins) (e0 e : GEnv), Issues s ⟨6, some 0⟩ g i false (⟨i.dst, .v, sizeRegs i⟩ :: addrOpds i) 0x7F false e0 u e →
    memIllegal i 2 = false →
    (accTrap e0 i (sizeBytes i) = none → bits i.md 0 2 = 1 → Answers (.ld g i) s fun t => ∃ y, GrpOnly u t g y ∧
      LaneWrite e.grp y i (sizeRegs i) (fun l =>
        let d := ofBytes (e.wg.lread (laneAddr e.grp i l) (sizeBytes i))
        (if bit i.md 5 = true ∧ sizeBytes i < 4 then ofSigned 32 (toSigned (8 * sizeBytes i) d) else d, 0))) ∧
    (accTrap e0 i (sizeBytes i) = none → u.wpLanes e i 0 (sizeBytes i) = none → ∀ (v : State) (y : Grp),
      State.loadLanes e i (e.grp.lanesOf i) u [] e.grp = (v, y, true) →
      exec (.ld g i) s = .next (if ordOf i = 1 ∧ bits i.md 0 2 ≠ 1 then (v.setGrp g y).acquire e (scopeOf i) else v.setGrp g y)) ∧
    (∀ c, accTrap e0 i (sizeBytes i) = some c → Traps (.ld g i) s ⟨6, some 0⟩ i e0 c)) ∧
  (∀ (s u : State) (g : Nat) (i : Ins) (e0 e : GEnv), Issues s ⟨6, some 1⟩ g i false (⟨i.src2, .v, sizeRegs i⟩ :: addrOpds i) 0x7F false e0 u e →
    memIllegal i 1 = false →
    (accTrap e0 i (sizeBytes i) = none → u.wpLanes e i 1 (sizeBytes i) = none →
      exec (.st g i) s = .next (State.storeLanes e i (e.grp.writers i) u)) ∧
    (accTrap e0 i (sizeBytes i) = none → bits i.md 0 2 = 1 → u.sh.wgs.get? e.grp.wg = some e.wg → Answers (.st g i) s fun t =>
      t.mem = u.mem ∧ t.sh.grps = u.sh.grps ∧ ∃ w, t.sh.wgs.get? e.grp.wg = some w ∧
        (∀ a, (∀ l ∈ e.grp.writers i, a < laneAddr e.grp i l ∨ laneAddr e.grp i l + sizeBytes i ≤ a) → w.lbyte a = e.wg.lbyte a) ∧
        ∀ k < sizeBytes i, ∀ l ∈ e.grp.writers i, (∀ m ∈ e.grp.writers i, l < m → laneAddr e.grp i m ≠ laneAddr e.grp i l) →
          w.lbyte (laneAddr e.grp i l + k) = (storeBytes e.grp i l).getD k 0) ∧
    (∀ c, accTrap e0 i (sizeBytes i) = some c → Traps (.st g i) s ⟨6, some 1⟩ i e0 c)) ∧
  (∀ (s u v : State) (g n : Nat) (i : Ins) (e0 e : GEnv) (sn : List Nat) (d : List Byte), n ∈ [1, 2, 4, 8, 16] → i.src1 = 0x1C0 + n →
    Issues s ⟨6, some 2⟩ g i true [⟨i.dst, .s, n⟩, ⟨i.src0, .s, 2⟩] 0x7F false e0 u e → memIllegal i 2 = false → bits i.md 0 2 = 0 →
    let a := ofSigned 64 ((e.grp.s64 i i.src0 : Nat) + offOf i)
    a % 4 = 0 → u.wpHit e 0 [(a, 4 * n)] = none → u.coreRead e.grp.ctx (coreOf e.id) a (4 * n) = (v, sn, some d) → ordOf i = 0 →
    v.sh.grps.get? g = some e.grp →
    Answers (.sld g i) s fun t => ∃ y, GrpOnly v t g y ∧ (∀ k < n, y.rs (i.dst - 0x100 + k) = field d (4 * k) 4) ∧
      (∀ r, r < i.dst - 0x100 ∨ i.dst - 0x100 + n ≤ r → y.rs r = e.grp.rs r) ∧ y = { e.grp with sg := y.sg })
  ) ∧ (
  (∀ r ∈ atomTable, ∀ (s u : State) (g : Nat) (i : Ins) (e0 e : GEnv), atomForm i r.2.2.1 r.2.2.2 →
    let w := if bit i.md 2 then 64 else 32
    Issues s ⟨7, some r.2.1.code⟩ g i false (atomOpds i r.2.1) 0x4F false e0 u e →
    (accTrap e0 i (w / 8) = none → bits i.md 0 2 = 1 → u.ctxActive e.grp.ctx = true → ∀ (v : State) (y : Grp),
      State.atomLanes e i r.2.1 w (e.grp.writers i) u e.grp [] = (v, y, true) → exec (r.1 g i) s = .next (v.setGrp g y)) ∧
    (accTrap e0 i (w / 8) = none → bits i.md 0 2 = 0 → u.wpLanes e i 2 (w / 8) = none → ∀ (x v : State) (y : Grp),
      (if r.2.1.host then (u, false) else State.atomHost e i (e.grp.writers i) u) = (x, false) → x.ctxActive e.grp.ctx = true →
      State.atomLanes e i r.2.1 w (e.grp.writers i) x e.grp [] = (v, y, true) →
      exec (r.1 g i) s = .next (if ordOf i % 2 = 1 then (v.setGrp g y).acquire e (scopeOf i) else v.setGrp g y)) ∧
    (accTrap e0 i (w / 8) = none → bits i.md 0 2 = 0 → u.wpLanes e i 2 (w / 8) = none → ∀ x : State, r.2.1.host = false →
      State.atomHost e i (e.grp.writers i) u = (x, true) →
      exec (r.1 g i) s = .next (x.ctxFault e.grp.ctx 0x33 0 (clusterOf g) (trapDetail e.grp.pc g))) ∧
    (∀ c, accTrap e0 i (w / 8) = some c → Traps (r.1 g i) s ⟨7, some r.2.1.code⟩ i e0 c)) ∧
  (∀ (e : GEnv) (i : Ins) (op : Atom) (w l : Nat) (r : List Nat) (s : State) (x : Grp) (wg : Wg), bits i.md 0 2 = 1 →
    s.sh.wgs.get? e.grp.wg = some wg →
    let old := ofBytes (wg.lread (laneAddr e.grp i l) (w / 8))
    let v := e.grp.src i .u64 w i.src2 l
    State.atomLanes e i op w (l :: r) s x [] = State.atomLanes e i op w r
      (s.updWg e.grp.wg fun z => z.lwrite (laneAddr e.grp i l) (leBytes (w / 8) (op.apply w old v (e.grp.src i .u64 w (i.src2 + w / 32) l))))
      (if bit i.md 3 then x.dst w i.dst l old else x) []) ∧
  (∀ (e : GEnv) (i : Ins) (op : Atom) (w l old : Nat) (r : List Nat) (s : State) (x : Grp) (far : NMap Nat), bits i.md 0 2 = 0 →
    far.get? (laneAddr e.grp i l) = some old →
    State.atomLanes e i op w (l :: r) s x far = State.atomLanes e i op w r s (if bit i.md 3 then x.dst w i.dst l old else x)
      (far.put (laneAddr e.grp i l) (op.apply w old (e.grp.src i .u64 w i.src2 l) (e.grp.src i .u64 w (i.src2 + w / 32) l)))) ∧
  (∀ (s v : State) (e : GEnv) (op : Atom) (va w x new pa c : Nat) (xs : List Nat),
    s.translate e.grp.ctx va 2 (coreTlb (coreOf e.id)) = (v, some (pa, c)) → inAperture pa = false → v.farPa pa = true →
    Out.pxl (portTo v.dev (bits pa 48 2)) 0 (pa :: w / 8 :: op.code :: xs) ∈ (s.atomLane e op va w x new xs).1.out) ∧
  (∀ w a b c : Nat, 0 < w → a < 2 ^ w → b < 2 ^ w →
    Atom.add.apply w a b c = (a + b) % 2 ^ w ∧ Atom.sub.apply w a b c = (a + 2 ^ w - b) % 2 ^ w ∧
    Atom.minU.apply w a b c = min a b ∧ Atom.maxU.apply w a b c = max a b ∧
    toSigned w (Atom.minS.apply w a b c) = min (toSigned w a) (toSigned w b) ∧
    toSigned w (Atom.maxS.apply w a b c) = max (toSigned w a) (toSigned w b) ∧
    Atom.swap.apply w a b c = b ∧ Atom.cas.apply w a b c = (if a = b then c else a) ∧
    (fp32.isNaN a = true ∨ fp32.isNaN b = true → Atom.faddF32.apply w a b c = 0x7FC00000) ∧
    (fp64.isNaN a = true ∨ fp64.isNaN b = true → Atom.faddF64.apply w a b c = 0x7FF8000000000000))
  )

/-- The SYNC class (R196, R202, R237 to R239): BAR arrives and waits, or releases all where it is the last; FENCE acquires at device
scope and beyond, but for the local store alone, and raises ILLEGAL for a form that R228 does not define; TLY.WAIT goes on with status 0 or 1 where it is satisfied or the Tally poisoned, and else waits until it times
out, with status 2; TLY.SIGNAL signals, TLY.READ reads. A Tally out of the partition faults the context with PART_TALLY. -/
def Obligations.SyncClass : Prop :=
  (∀ (s u : State) (g b : Nat) (i : Ins) (e0 e : GEnv), Issues s ⟨8, some 0⟩ g i true [⟨i.src0, .inl, 1⟩] 0 false e0 u e → i.x = 0 → b < 16 →
    i.src0 = 0x1C0 + b → u.sh.wgs.get? e.grp.wg = some e.wg → e.grp.wait = .none →
    (∀ k, k ≠ b → e.wg.barFull k = false ∨ e.wg.arrived.get? k = none) →
    let w := { e.wg with arrived := e.wg.arrived.put b (e.grp.gi :: ((e.wg.arrived.get? b).getD [])) }
    (w.barFull b = false → Answers (.bar g i) s fun t => t.sh.grps.get? g = some { e.grp with wait := .bar b } ∧
      t.sh.wgs.get? e.grp.wg = some w ∧ ∀ k, k ≠ g → t.sh.grps.get? k = u.sh.grps.get? k) ∧
    (w.barFull b = true → Answers (.bar g i) s fun t => t.sh.grps.get? g = some e.grp ∧
      (∀ k x, t.sh.grps.get? k = some x → x.wg = e.grp.wg → x.wait ≠ .bar b) ∧
      ∃ z, t.sh.wgs.get? e.grp.wg = some z ∧ z.arrived.get? b = none)) ∧
  (∀ (s u : State) (g : Nat) (i : Ins) (e0 e : GEnv), Issues s ⟨8, some 1⟩ g i true [] 0x7F false e0 u e →
    (ordOk i = true → ordOf i ≠ 0 → bits i.md 0 2 ≠ 3 → bits i.md 2 3 ≤ 4 →
      exec (.fence g i) s = .next (if ordOf i % 2 = 1 ∧ bits i.md 0 2 ≠ 1 then u.acquire e (scopeOf i) else u)) ∧
    (ordOk i = false ∨ ordOf i = 0 ∨ bits i.md 0 2 = 3 ∨ 4 < bits i.md 2 3 → Traps (.fence g i) s ⟨8, some 1⟩ i e0 1)) ∧
  (∀ (s u : State) (g : Nat) (i : Ins) (e0 e : GEnv),
    let t := e.grp.s32 i i.src0
    let d := i.dst - 0x100
    (Issues s ⟨8, some 2⟩ g i true [⟨i.dst, .s, 1⟩, ⟨i.src0, .s, 1⟩, ⟨i.src1, .s, 2⟩] 0 false e0 u e → ordOk i = true → bits i.x 16 16 = 0 →
      scopeOf i = 3 ∨ scopeOf i = 4 →
      (u.tallyOk (u.partOf e.grp.ctx) t = false →
        exec (.tlyWait g i) s = .next (u.ctxFault e.grp.ctx 0xC1 0 (clusterOf e.id) (trapDetail e.grp.pc e.id))) ∧
      (u.tallyOk (u.partOf e.grp.ctx) t = true → u.poisoned t = true ∨ e.grp.s64 i i.src1 ≤ u.tval t →
        Answers (.tlyWait g i) s fun v => v.sh.grps.get? g = some (e.grp.ws d (b2n (u.poisoned t))) ∧ v.tly = u.tly ∧ v.mem = u.mem ∧
          (∀ l ∈ v.sh.l1, ¬ (l.ctx = e.grp.ctx ∧ l.core = coreOf e.id))) ∧
      (u.tallyOk (u.partOf e.grp.ctx) t = true → u.poisoned t = false → u.tval t < e.grp.s64 i i.src1 →
        Answers (.tlyWait g i) s fun v => v.sh.grps.get? g = some { e.grp with
            wait := .tally d (if bits i.x 0 16 = 0 then none else some (u.now + bits i.x 0 16 * 1000)) } ∧
          (∃ w ∈ v.tly.waits, w.tally = t ∧ w.target = e.grp.s64 i i.src1 ∧ w.who = .group g) ∧ v.mem = u.mem ∧ v.fe = u.fe)) ∧
    (Issues s ⟨8, some 3⟩ g i true [⟨i.src0, .s, 1⟩, ⟨i.src1, .s, 2⟩] 0 false e0 u e → ordOk i = true → bits i.x 0 32 = 0 →
      scopeOf i = 3 ∨ scopeOf i = 4 → u.tallyOk (u.partOf e.grp.ctx) t = true →
      exec (.tlySignal g i) s = .next (u.signal t (e.grp.s64 i i.src1))) ∧
    (Issues s ⟨8, some 4⟩ g i true [⟨i.dst, .s, 2⟩, ⟨i.src0, .s, 1⟩] 0 false e0 u e → ordOk i = true → bits i.x 0 32 = 0 → ordOf i ≠ 1 →
      u.tallyOk (u.partOf e.grp.ctx) t = true → Answers (.tlyRead g i) s fun v => GrpOnly u v g (e.grp.ws2 d (u.tval t)))) ∧
  (∀ (s : State) (g d till : Nat) (x : Grp), s.sh.grps.get? g = some x → x.wait = .tally d (some till) → till ≤ s.now →
    Answers (.tlyWaitTimeout g) s fun v => v.sh.grps.get? g = some { x.ws d 2 with wait := .none } ∧
      (∀ w ∈ v.tly.waits, w.who ≠ .group g) ∧ v.mem = s.mem ∧ ∀ k, k ≠ g → v.sh.grps.get? k = s.sh.grps.get? k)

/-- Element-wise arithmetic (R216, R222, R250, R251, R255): where a command of VALU, VALU64 or the SFU issues with a type of its
row, every active lane's destination takes the result of that lane's elements, packed pairs element by element, STATUS collects the
lanes' flags, and no other register, lane or group changes. ADD and SUB of integers with a predicate in SRC2 add or subtract the
carry of each lane and leave the lane's carry or borrow there (the place of the carry is the model's choice, entry 30).

The other vector commands (R250, R252, R256, R266; places of operands as entry 30 names them): LDEXP, SEL, DOT4, the 64-bit shifts, PERM and BCAST
write their result in every active lane; WRITELANE writes the one lane it names, whatever EXEC holds, and READLANE one scalar
register; FREXP writes the significand, with a free exponent where none exists (kind 13 of entry 1), and CVT the converted
elements. -/
def Obligations.VectorCommands : Prop :=
  (
  (∀ p ∈ ([(0, valuTable), (1, valu64Table), (4, sfuTable)] : List (Nat × List ElRow)), ∀ r ∈ p.2, ∀ (s u : State) (g : Nat) (i : Ins) (e0 e : GEnv) (t : NTy), t ∈ r.2.1 →
    i.x = 0 ∨ (∃ o ∈ elSrcs i t r.2.2.1, o.code = 0x1F8) →
    Issues s ⟨p.1, none⟩ g i false (⟨i.dst, .v, t.regW / 32⟩ :: elSrcs i t r.2.2.1) 0x3F true e0 u e →
    Answers (r.1 g i t) s fun v => ∃ y, GrpOnly u v g y ∧ LaneWrite e.grp y i (t.regW / 32) (e.grp.elRes i t r.2.2.1 r.2.2.2)) ∧
  (∀ r ∈ addTable, ∀ (s u : State) (g : Nat) (i : Ins) (e0 e : GEnv) (t : NTy), t ∈ r.2.1 → carryForm i t = false →
    i.x = 0 ∨ (∃ o ∈ elSrcs i t 2, o.code = 0x1F8) →
    Issues s ⟨0, none⟩ g i false (⟨i.dst, .v, t.regW / 32⟩ :: elSrcs i t 2) 0x3F true e0 u e →
    Answers (r.1 g i t) s fun v => ∃ y, GrpOnly u v g y ∧ LaneWrite e.grp y i (t.regW / 32) (e.grp.elRes i t 2 r.2.2.2)) ∧
  (∀ (sub : Bool) (s u : State) (g : Nat) (i : Ins) (e0 e : GEnv) (t : NTy), t ∈ intTys → carryForm i t = true → i.x = 0 →
    Issues s ⟨0, none⟩ g i false [⟨i.dst, .v, 1⟩, ⟨i.src2, .p, 1⟩, ⟨i.src0, .any, 1⟩, ⟨i.src1, .any, 1⟩] 0x3F true e0 u e →
    Answers (if sub then .valuSub g i t else .valuAdd g i t) s fun v => ∃ y, GrpOnly u v g y ∧
      ∀ l < 32, bit (e.grp.active i) l = true →
        let a := e.grp.elt i t 0 i.src0 l 0
        let b := e.grp.elt i t 1 i.src1 l 0 + b2n (bit (e.grp.rp (i.src2 - 0x180)) l)
        y.rv l i.dst = (if sub then ofSigned 32 ((a : Int) - b) else (a + b) % 2 ^ 32) ∧
        (bit e.grp.lanes l = true → bit (y.rp (i.src2 - 0x180)) l = if sub then decide (a < b) else decide (2 ^ 32 ≤ a + b)))
  ) ∧ (
  (∀ (s u : State) (g : Nat) (i : Ins) (e0 e : GEnv) (t : NTy), i.x = 0 → t ∈ fpTys ++ [.f64] →
    Issues s ⟨if t = .f64 then 1 else 0, none⟩ g i false [⟨i.dst, .v, t.regW / 32⟩, ⟨i.src0, .any, t.regW / 32⟩, ⟨i.src1, .any, 1⟩] 0x3F true e0 u e →
    Answers (if t = .f64 then .valu64Ldexp g i else .valuLdexp g i t) s fun v => ∃ y, GrpOnly u v g y ∧
      LaneWrite e.grp y i (t.regW / 32) (fun l =>
        let k := e.grp.src i .i32 32 i.src1 l
        if t.size = 16 then
          let one (j : Nat) := t.fm.ldexp (e.grp.elt i t 0 i.src0 l j) (toSigned 16 (modElt i 16 1 (bits k (16 * j) 16)))
          ((one 0).1 + (one 1).1 * 2 ^ 16, (one 0).2 ||| (one 1).2)
        else t.fm.ldexp (e.grp.elt i t 0 i.src0 l 0) (toSigned 32 (modElt i 32 1 k)))) ∧
  (∀ (s u : State) (g : Nat) (i : Ins) (e0 e : GEnv) (t : NTy), i.x = 0 → t ∈ intTys →
    Issues s ⟨0, none⟩ g i false [⟨i.dst, .v, 1⟩, ⟨i.src2, .p, 1⟩, ⟨i.src0, .any, 1⟩, ⟨i.src1, .any, 1⟩] 0x3F true e0 u e →
    Answers (.valuSel g i t) s fun v => ∃ y, GrpOnly u v g y ∧ LaneWrite e.grp y i 1 (fun l =>
      (if bit (e.grp.rp (i.src2 - 0x180)) l then e.grp.elt i t 0 i.src0 l 0 else e.grp.elt i t 1 i.src1 l 0, 0))) ∧
  (∀ (s u : State) (g : Nat) (i : Ins) (e0 e : GEnv) (t : NTy), i.x = 0 → t = .i8 ∨ t = .u8 →
    Issues s ⟨0, none⟩ g i false [⟨i.dst, .v, 1⟩, ⟨i.src0, .any, 1⟩, ⟨i.src1, .any, 1⟩, ⟨i.src2, .any, 1⟩] 0x3F true e0 u e →
    Answers (.valuDot4 g i t) s fun v => ∃ y, GrpOnly u v g y ∧ LaneWrite e.grp y i 1 (fun l =>
      let p (k : Nat) : Int := t.int (bits (e.grp.elt i .i32 0 i.src0 l 0) (8 * k) 8) * t.int (bits (e.grp.elt i .i32 1 i.src1 l 0) (8 * k) 8)
      (ofSigned 32 (((e.grp.elt i .i32 2 i.src2 l 0 : Nat) : Int) + p 0 + p 1 + p 2 + p 3), 0))) ∧
  (∀ r ∈ ([(.valu64Shl, eShl), (.valu64Shr, eShr), (.valu64Sar, eSar)] : List ((Nat → Ins → Instr) × (NTy → Nat → Nat → Nat → Nat × Nat))),
    ∀ (s u : State) (g : Nat) (i : Ins) (e0 e : GEnv), i.x = 0 →
    Issues s ⟨1, none⟩ g i false [⟨i.dst, .v, 2⟩, ⟨i.src0, .any, 2⟩, ⟨i.src1, .any, 1⟩] 0x3F true e0 u e →
    Answers (r.1 g i) s fun v => ∃ y, GrpOnly u v g y ∧ LaneWrite e.grp y i 2 (fun l =>
      r.2 .u64 (e.grp.elt i .u64 0 i.src0 l 0) (e.grp.elt i .u32 1 i.src1 l 0) 0)) ∧
  (∀ (s u : State) (g : Nat) (i : Ins) (e0 e : GEnv), i.x = 0 →
    Issues s ⟨0, none⟩ g i false [⟨i.dst, .v, 1⟩, ⟨i.src0, .any, 1⟩, ⟨i.src1, .any, 1⟩] 0x3F true e0 u e →
    Answers (.valuPerm g i) s fun v => ∃ y, GrpOnly u v g y ∧ LaneWrite e.grp y i 1 (fun l =>
      let k := modElt i 32 1 (e.grp.src i .u32 32 i.src1 l) % 32
      (modElt i 32 0 (if bit e.grp.lanes k then e.grp.src i .u32 32 i.src0 k else 0), 0))) ∧
  (∀ (s u : State) (g : Nat) (i : Ins) (e0 e : GEnv), i.x = 0 → Issues s ⟨0, none⟩ g i false [⟨i.dst, .v, 1⟩, ⟨i.src0, .any, 1⟩] 0x3F true e0 u e →
    Answers (.valuBcast g i) s fun v => ∃ y, GrpOnly u v g y ∧ LaneWrite e.grp y i 1 (fun _ =>
      let k := (bitList (e.grp.active i) 32).headD 0
      (modElt i 32 0 (if bit e.grp.lanes k then e.grp.src i .u32 32 i.src0 k else 0), 0))) ∧
  GroupRule .valuReadlane ⟨0, none⟩ false (fun i => [⟨i.dst, .s, 1⟩, ⟨i.src0, .v, 1⟩, ⟨i.src1, .sc, 1⟩]) 0x3F true (fun i _ => i.x = 0)
    (fun i e => let k := modElt i 32 1 (e.grp.src i .u32 32 i.src1 0) % 32
      e.grp.ws (i.dst - 0x100) (modElt i 32 0 (if bit e.grp.lanes k then e.grp.rv k i.src0 else 0))) ∧
  GroupRule .valuWritelane ⟨0, none⟩ false (fun i => [⟨i.dst, .v, 1⟩, ⟨i.src0, .sc, 1⟩, ⟨i.src1, .sc, 1⟩]) 0x3F true (fun i _ => i.x = 0)
    (fun i e => let k := modElt i 32 1 (e.grp.src i .u32 32 i.src1 0) % 32
      if bit e.grp.lanes k then e.grp.wv k i.dst (modElt i 32 0 (e.grp.src i .u32 32 i.src0 0)) else e.grp) ∧
  (∀ (s u : State) (g : Nat) (i : Ins) (e0 e : GEnv), i.x = 0 →
    Issues s ⟨0, none⟩ g i false [⟨i.dst, .v, 2⟩, ⟨i.src0, .any, 1⟩] 0x3F true e0 u e →
    Answers (.valuFrexp g i .f32) s fun v => ∃ y, v = { u with freeCtr := v.freeCtr, sh := v.sh } ∧ v.sh.grps.get? g = some y ∧
      (∀ k, k ≠ g → v.sh.grps.get? k = u.sh.grps.get? k) ∧
      ∀ l < 32, bit (e.grp.active i) l = true → let w := e.grp.elt i .f32 0 i.src0 l 0
        (fp32.isNaN w = true → y.rv l i.dst = fp32.quiet w % 2 ^ 32) ∧ (fp32.isInf w = true ∨ fp32.isZero w = true → y.rv l i.dst = w % 2 ^ 32) ∧
        ∀ fr, fp32.isNaN w = false → fp32.isInf w = false → fp32.isZero w = false →
          y.rv l i.dst = (frexpOf fp32 w fr).1 % 2 ^ 32 ∧ y.rv l (i.dst + 1) = ofSigned 32 (frexpOf fp32 w fr).2.1 % 2 ^ 32) ∧
  (∀ (s u : State) (g : Nat) (i : Ins) (e0 e : GEnv) (a b : NTy), i.x = 0 → cvtOk a b = true →
    Issues s ⟨3, none⟩ g i false [⟨i.dst, .v, cvtRegs b (cvtElts a b)⟩, ⟨i.src0, .any, cvtRegs a (cvtElts a b)⟩] 0 true e0 u e →
    Answers (.cvt g i a b) s fun v => ∃ y, GrpOnly u v g y ∧ LaneWrite e.grp y i (cvtRegs b (cvtElts a b)) (fun l =>
      let rs := (List.range (cvtElts a b)).map (fun j => convert a b (e.grp.cvtElt i a l j))
      ((List.range (cvtElts a b)).foldl (fun v j => v + (rs.getD j (0, 0)).1 * 2 ^ (b.size * j)) 0, rs.foldl (fun m r => m ||| r.2) 0)))
  )

/-- Compares and scalar arithmetic (R250, R255, R257): a compare writes the mask of the active lanes that meet its condition to its
predicate, and sets NV for a signalling NaN, or in the signalling form for any NaN; CLASS tests the class of SRC0 against its mask.
A scalar command runs once whatever EXEC holds and writes its one destination. -/
def Obligations.ComparesAndScalars : Prop :=
  (∀ r ∈ vcmpTable, ∀ (s u : State) (g : Nat) (i : Ins) (e0 e : GEnv) (t : NTy) (sig : Bool), t ∈ r.2.1 → i.x = 0 →
    Issues s ⟨2, none⟩ g i false [⟨i.dst, .p, 1⟩, ⟨i.src0, .any, t.regW / 32⟩, ⟨i.src1, .any, t.regW / 32⟩] 0x3F true e0 u e →
    Answers (r.1 g i t sig) s fun v => ∃ y, GrpOnly u v g y ∧ y = { e.grp with p := y.p, status := y.status } ∧
      (∀ l < 32, bit e.grp.lanes l = true → bit (y.rp (i.dst - 0x180)) l = (bit (e.grp.active i) l &&
        (cmpRel sig r.2.2.1 r.2.2.2.1 r.2.2.2.2.1 r.2.2.2.2.2 t (e.grp.elt i t 0 i.src0 l 0) (e.grp.elt i t 1 i.src1 l 0)).1)) ∧
      (∀ k, k ≠ i.dst - 0x180 → y.rp k = e.grp.rp k) ∧
      y.status = e.grp.status ||| (e.grp.lanesOf i).foldl (fun m l => m ||| (if t.isInt then 0 else
        let a := e.grp.elt i t 0 i.src0 l 0
        let b := e.grp.elt i t 1 i.src1 l 0
        if t.fm.isSNaN a || t.fm.isSNaN b || (sig && (t.fm.isNaN a || t.fm.isNaN b)) then 1 else 0)) 0) ∧
  (∀ (s u : State) (g : Nat) (i : Ins) (e0 e : GEnv) (t : NTy), t ∈ ([.f64, .f32, .f16] : List NTy) → i.x = 0 →
    Issues s ⟨2, none⟩ g i false [⟨i.dst, .p, 1⟩, ⟨i.src0, .any, t.regW / 32⟩, ⟨i.src1, .any, 1⟩] 0x3F true e0 u e →
    Answers (.vcmpClass g i t) s fun v => ∃ y, GrpOnly u v g y ∧ y = { e.grp with p := y.p } ∧
      ∀ l < 32, bit e.grp.lanes l = true → bit (y.rp (i.dst - 0x180)) l = (bit (e.grp.active i) l &&
        bit (e.grp.src i .u32 32 i.src1 l) (classOf t.fm (e.grp.elt i t 0 i.src0 l 0)))) ∧
  (∀ r ∈ saluTable, ∀ (s u : State) (g : Nat) (i : Ins) (e0 e : GEnv) (t : NTy), t ∈ sTys → i.x = 0 →
    Issues s ⟨5, none⟩ g i true (⟨i.dst, .dst, t.regW / 32⟩ :: ([⟨i.src0, .any, t.regW / 32⟩, ⟨i.src1, .any, r.2.2.1 t⟩] : List Opd).take r.2.1)
      0 true e0 u e →
    Answers (r.1 g i t) s fun v => GrpOnly u v g (e.grp.dst t.regW i.dst 0
      (r.2.2.2 t (e.grp.src i t t.regW i.src0 0) (if r.2.1 > 1 then e.grp.src i t (32 * r.2.2.1 t) i.src1 0 else 0)))) ∧
  (∀ (s u : State) (g : Nat) (i : Ins) (e0 e : GEnv) (t : NTy) (lt eq gt : Bool), t ∈ sTys → i.x = 0 →
    Issues s ⟨5, none⟩ g i true [⟨i.dst, .dst, 1⟩, ⟨i.src0, .any, t.regW / 32⟩, ⟨i.src1, .any, t.regW / 32⟩] 0 true e0 u e →
    let a := t.int (e.grp.src i t t.regW i.src0 0)
    let b := t.int (e.grp.src i t t.regW i.src1 0)
    Answers (.saluCmp g i t lt eq gt) s fun v => GrpOnly u v g
      (e.grp.dst 32 i.dst 0 (b2n ((lt && a < b) || (eq && a = b) || (gt && b < a))))) ∧
  (∀ (s u : State) (g : Nat) (i : Ins) (e0 e : GEnv) (t : NTy), t ∈ sTys → i.x = 0 →
    Issues s ⟨5, none⟩ g i true [⟨i.dst, .dst, t.regW / 32⟩, ⟨i.src0, .any, t.regW / 32⟩, ⟨i.src1, .any, t.regW / 32⟩, ⟨i.src2, .any, 1⟩] 0 true e0 u e →
    Answers (.saluCsel g i t) s fun v => GrpOnly u v g (e.grp.dst t.regW i.dst 0
      (if e.grp.src i .u32 32 i.src2 0 ≠ 0 then e.grp.src i t t.regW i.src0 0 else e.grp.src i t t.regW i.src1 0))) ∧
  GroupRule .saluPmov ⟨5, none⟩ true
    (fun i => [⟨i.dst, if 0x180 ≤ i.dst && i.dst < 0x188 then .p else .s, 1⟩, ⟨i.src0, if 0x180 ≤ i.dst && i.dst < 0x188 then .s else .p, 1⟩])
    0 true (fun i _ => i.x = 0)
    (fun i e => if 0x180 ≤ i.dst ∧ i.dst < 0x188 then e.grp.wp (i.dst - 0x180) (e.grp.rs (i.src0 - 0x100))
      else e.grp.ws (i.dst - 0x100) (e.grp.rp (i.src0 - 0x180)))

/-- GMMA completes (R195, R223, R243 to R246): each of the five shapes, where its instruction issues with its form defined, D and A
apart, all 32 lanes active or MTX_PAD set, and B aligned and within LOCAL_BYTES, goes on to a next state in which its own group alone
has changed and each active lane's destination register `n` holds result `n` of the lane's row.

The matrix products (R195, R223, R243 to R246, R271): with the operands in place and all 32 lanes active, or MTX_PAD, each active
lane's 16 destination registers take C plus its row of A times B, I8 exactly modulo 2^32, and FLUSHED is the only flag that may be
set; no other lane or register changes. An overlap of D and A is ILLEGAL; then, with a lane inactive and no MTX_PAD, the group traps
MATRIX_CONVERGENCE; then B out of alignment traps MISALIGNED, and beyond LOCAL_BYTES LOCAL_RANGE. -/
def Obligations.MatrixProducts : Prop :=
  (
  ∀ (s u : State) (g : Nat) (i : Ins) (e0 e : GEnv), i.x = 0 → (bit i.md 0 = true → i.src2 = 0) →
    i.src0 + 8 ≤ i.dst ∨ i.dst + 16 ≤ i.src0 → e.grp.active i = 0xFFFFFFFF ∨ bit e.grp.status 8 = true →
    e.grp.s32 i i.src1 % 128 = 0 → e.grp.s32 i i.src1 + 512 ≤ e.disp.kd.localBytes →
    let D (c4 : Nat) (t : State) : Prop := ∃ y, GrpOnly (u.pmu 4 (clusterOf g) e.disp.part) t g y ∧ ∀ l n, l < 32 → n < 16 →
      bit (e.grp.active i) l = true →
      y.rv l (i.dst + n) = ((e.grp.gmmaRow i c4 (e.wg.lread (e.grp.s32 i i.src1) 512) l).map (·.1)).getD n 0 % 2 ^ 32
    let go (op : Nat) : Prop := Issues s ⟨0xB, some op⟩ g i false (gmmaOpds i) 1 false e0 u e
    (go 0 → ∃ t, exec (.gmmaBf16 g i) s = .next t ∧ D 1 t) ∧
    (go 1 → ∃ t, exec (.gmmaF16 g i) s = .next t ∧ D 2 t) ∧
    (go 2 → ∃ t, exec (.gmmaSf84 g i) s = .next t ∧ D 3 t) ∧
    (go 3 → ∃ t, exec (.gmmaSf85 g i) s = .next t ∧ D 4 t) ∧
    (go 4 → ∃ t, exec (.gmmaI8 g i) s = .next t ∧ D 6 t)
  ) ∧ (
  ∀ r ∈ ([(.gmmaBf16, 0, 1), (.gmmaF16, 1, 2), (.gmmaSf84, 2, 3), (.gmmaSf85, 3, 4), (.gmmaI8, 4, 6)] : List ((Nat → Ins → Instr) × Nat × Nat)),
    ∀ (s u : State) (g : Nat) (i : Ins) (e0 e : GEnv), Issues s ⟨0xB, some r.2.1⟩ g i false (gmmaOpds i) 1 false e0 u e →
      i.x = 0 → (bit i.md 0 = true → i.src2 = 0) →
      let a := e.grp.s32 i i.src1
      let apart := i.src0 + 8 ≤ i.dst ∨ i.dst + 16 ≤ i.src0
      let whole := e.grp.active i = 0xFFFFFFFF ∨ bit e.grp.status 8 = true
      (¬ apart → Traps (r.1 g i) s ⟨0xB, some r.2.1⟩ i e0 1) ∧
      (apart → ¬ whole → Traps (r.1 g i) s ⟨0xB, some r.2.1⟩ i e0 2) ∧
      (apart → whole → a % 128 ≠ 0 → Traps (r.1 g i) s ⟨0xB, some r.2.1⟩ i e0 3) ∧
      (apart → whole → a % 128 = 0 → e.disp.kd.localBytes < a + 512 → Traps (r.1 g i) s ⟨0xB, some r.2.1⟩ i e0 4) ∧
      (apart → whole → a % 128 = 0 → a + 512 ≤ e.disp.kd.localBytes →
        Answers (r.1 g i) s fun t => ∃ y, GrpOnly (u.pmu 4 (clusterOf g) e.disp.part) t g y ∧
          y = { e.grp with v := y.v, status := y.status, gmmaAt := y.gmmaAt } ∧
          (y.status = e.grp.status ∧ y.gmmaAt = e.grp.gmmaAt ∨ y.status = e.grp.status ||| 32 ∧ y.gmmaAt = some u.now) ∧
          (∀ l n, l < 32 → n < 16 → bit (e.grp.active i) l = true → y.rv l (i.dst + n) =
            ((e.grp.gmmaRow i r.2.2 (e.wg.lread a 512) l).map (·.1)).getD n 0 % 2 ^ 32) ∧
          ∀ l k, l < 32 → bit (e.grp.active i) l = false ∨ k < i.dst ∨ i.dst + 16 ≤ k → y.rv l k = e.grp.rv l k)
  )

/-- The formats and their conversions (R258 to R261, R266, R267): a finite code of FP64, FP32, FP16 or BF16, and a code of a short format
but its one NaN, is the rounding of its own value, exactly; BF16 widens to FP32 as its upper half, and its NaNs to the canonical one; FP32
survives FP64, and INT8 survives FP32. -/
def Obligations.FormatsRoundTheirOwnValues : Prop :=
  (∀ f ∈ [fp64, fp32, fp16, bf16], ∀ w < 2 ^ f.width, f.isNaN w = false → f.isInf w = false → f.rnd (f.val w) (f.sign w) = (w, 0)) ∧
  (∀ f ∈ [sf84, sf85, sf6], ∀ w < 2 ^ (1 + f.eb + f.mb), w ≠ f.nan → f.rnd (f.val w) = (w, 0)) ∧
  (∀ w < 2 ^ 16, convert .bf16 .f32 w =
    if bf16.isNaN w then (0x7FC00000, if bf16.isSNaN w then flNV else 0) else (w * 2 ^ 16, 0)) ∧
  (∀ w < 2 ^ 32, fp32.isNaN w = false → convert .f64 .f32 (convert .f32 .f64 w).1 = (w, 0) ∧ (convert .f32 .f64 w).2 = 0) ∧
  (∀ w < 2 ^ 8, convert .f32 .i8 (convert .i8 .f32 w).1 = (w, 0))

/-! ## Looms, rays, graphics, display and Press (chapters 10 to 15) -/

/-- Drafts come to a Loom (R88, R120, R248, R286, R297): LOOM.ISSUE checks every active lane's alignment and then holds the group
until its Drafts are sent; a DRAFT packet routes its run of Drafts in order and counts as dispatched with the last one. A Loom reads
and checks the whole Draft: another partition's Loom faults the context with PART_LOOM, another partition's Tally with PART_TALLY,
an invalid Draft with DRAFT_INVALID; a valid one is the Loom's last. A Loom that is full holds the Draft. -/
def Obligations.LoomsAcceptDrafts : Prop :=
  (∀ (s u : State) (g : Nat) (i : Ins) (e0 e : GEnv), Issues s ⟨0xC, some 0⟩ g i false [⟨i.src0, .any, 2⟩] 0 false e0 u e → i.x = 0 →
    let ds := (e.grp.lanesOf i).map fun l => e.grp.src i .u64 64 i.src0 l
    ((∀ a ∈ ds, a % 256 = 0) → Answers (.loomIssue g i) s fun t =>
      GrpOnly u t g (if ds = [] then e.grp else { e.grp with wait := .loom ds })) ∧
    ((∃ a ∈ ds, a % 256 ≠ 0) → Traps (.loomIssue g i) s ⟨0xC, some 0⟩ i e0 3)) ∧
  (∀ (s : State) (sid : Nat) (st : Strm) (p : Pkt), s.canRun sid 0x30 = some (st, p) → s.routes.get? sid = none →
    Answers (.draft sid) s fun t => t.routes.get? sid = some { pid := p.pid, va := pw2 p.w 1, left := bits (pw1 p.w 3) 0 16 } ∧
      (∀ k, k ≠ sid → t.routes.get? k = s.routes.get? k) ∧ t = { s with fe := { s.fe with sel := t.fe.sel, after := t.fe.after }, routes := t.routes }) ∧
  (∀ (s u v : State) (sid : Nat) (st : Strm) (r : Route) (b : List Byte), s.fe.strms.get? sid = some st → s.routes.get? sid = some r →
    s.ctxActive st.ctx = true → s.strmHeld st = false → s.vread st.ctx 60 r.va 1 = (u, some b) →
    let n := field b 0 1 % 16
    (n < 12 → bit (u.rd FE_PART.LOOMS (u.partOf st.ctx)) n = false → exec (.draftAccept false sid) s = .next (u.ctxFault st.ctx 0xC2)) ∧
    (n < 12 → bit (u.rd FE_PART.LOOMS (u.partOf st.ctx)) n = true →
      (u.loomRoom n false = false → Answers (.draftAccept false sid) s fun t => t.routes.get? sid = some { r with held := true } ∧
        t = { s with routes := t.routes }) ∧
      (u.loomRoom n false = true → u.loomAccept n st.ctx r.va (u.strmPrio st) (some (sid, r.pid)) = (v, true) →
        exec (.draftAccept false sid) s = .next (if r.left ≤ 1 then State.startPkt { v with routes := v.routes.del sid } sid r.pid
          else { v with routes := v.routes.put sid { r with va := r.va + 256, left := r.left - 1, held := false } })) ∧
      (u.loomRoom n false = true → u.loomAccept n st.ctx r.va (u.strmPrio st) (some (sid, r.pid)) = (v, false) →
        exec (.draftAccept false sid) s = .next v))) ∧
  (∀ (s u v : State) (g va : Nat) (rest : List Nat) (e : GEnv) (b : List Byte), s.genv g = some e → e.grp.wait = .loom (va :: rest) →
    s.ctxActive e.grp.ctx = true → s.vread e.grp.ctx (coreTlb (coreOf g)) va 1 = (u, some b) → field b 0 1 % 16 < 12 →
    bit (u.rd FE_PART.LOOMS e.disp.part) (field b 0 1 % 16) = true →
    (u.loomRoom (field b 0 1 % 16) true = false → exec (.draftAccept true g) s = .next s) ∧
    (u.loomRoom (field b 0 1 % 16) true = true → u.loomAccept (field b 0 1 % 16) e.grp.ctx va e.disp.prio none = (v, true) →
      exec (.draftAccept true g) s = .next (v.updGrp g fun x => { x with wait := if rest.isEmpty then .none else .loom rest }))) ∧
  (∀ (s u v : State) (n c va prio : Nat) (src : Option (Nat × Nat)) (raw : List Byte), s.vread c (48 + n) va 256 = (u, some raw) →
    let d : LDraft := { id := (u.loom n).nextId, va := va, ctx := c, prio := prio, raw := raw, src := src }
    (u.loomClaim n c = (v, false) → s.loomAccept n c va prio src = (v.ctxFault c 0xC2 0 (48 + n), false)) ∧
    (u.loomClaim n c = (v, true) → d.sigEn = true → v.tallyOk (u.partOf c) d.sigTally = false →
      s.loomAccept n c va prio src = (v.ctxFault c 0xC1 0 (48 + n), false)) ∧
    (u.loomClaim n c = (v, true) → d.waitEn = false → d.sigEn = false →
      (d.bad = true → s.loomAccept n c va prio src = (v.ctxFault c 0x40 0 (48 + n), false)) ∧
      (d.bad = false → (∀ x ∈ (u.loom n).drafts, x.id ≠ d.id) → ∃ t, s.loomAccept n c va prio src = (t, true) ∧ (t.loom n).drafts.getLast? = some d ∧
        (t.loom n).drafts.length = (v.loom n).drafts.length + 1 ∧ ∀ k, k ≠ n → (t.loom k).drafts = (v.loom k).drafts)) ∧
    (u.on FE_PART.LOOM_SHARE (u.partOf c) = false → bit (u.rd FE_PART.LOOMS (u.partOf c)) n = true → u.on LOOM_STATUS.OWNED n = true →
      u.rd LOOM_STATUS.OWNER n ≠ c → u.loomClaim n c = (u, false)))

/-- Drafts run (R293 to R302): the head Draft of its kind starts once its wait is satisfied, one whose Tally is poisoned is skipped;
MATMUL and CONV stream, LOAD_W, LOAD_A and STORE_BOLT are done when the Shuttle has moved their bytes. A completed Draft leaves the
Loom after its status record is written and before its Tally is signalled. Of a skipped Draft's packet those that follow it do not
start, and those before it stay.

Checks of a streaming Draft (R319 to R329): a row fails where |Y - R| is past theta * G + 2^-112, or modulo 2^32 in the integer
pairings, a chunk's column where |U - V| is past theta_R * H + 2^-112, feed parity and a duplicated unit on any difference. What passes
changes nothing; what fails is recorded and counted and the (b, t) restarts from its first chunk, with RETRIED, a duplicated unit's
piece is repeated, once (log entry 83); past RETRY_MAX, and where no checkpoint can be kept, the Draft is abandoned, its context faults with
LOOM_CHECK and the Loom is to be tested. A chunk that passes counts and the next one streams, the first leaving the checkpoint rows;
behind the last one of a (b, t) its sums stand in the Bolt, and the next n-tile, or the end of the Draft, follows. -/
def Obligations.DraftsRunAndAreChecked : Prop :=
  (
  (∀ r ∈ ([(.matmul, 0, State.startMat), (.convOp, 1, State.startMat),
      (.loadW, 2, fun n s d => State.shuttled n d (State.loadW n d d.wRows s)),
      (.loadA, 3, fun n s d => State.shuttled n d
        (if d.layout dA = 0 then State.loadA0 n d (List.range d.m) s else State.loadA1 n d 0 d.m (List.range d.k) s)),
      (.storeBolt, 4, fun n s d => State.shuttled n d (State.drainStore n d (List.range d.T) s))] :
      List ((Nat → Instr) × Nat × (Nat → State → LDraft → State))), ∀ (s u : State) (n : Nat), s.loomWait n = u →
    (u.canStart n r.2.1 = none → exec (r.1 n) s = .next u) ∧
    ∀ d, u.canStart n r.2.1 = some d →
      (d.waitEn = true → d.waitSt = 1 → exec (r.1 n) s = .next u) ∧
      (d.waitEn = true → d.waitSt = 3 → exec (r.1 n) s = .next ((u.skipDraft n d).loomWait n)) ∧
      (d.waitEn = false ∨ d.waitSt = 2 →
        exec (r.1 n) s = .next ((r.2.2 n (u.updDraft n d.id fun x => { x with st := 1 }) { d with st := 1 }).loomWait n))) ∧
  (∀ (s u : State) (n : Nat) (d : LDraft), (s.loom n).drafts.find? (fun d => d.st == 2) = some d → s.ctxActive d.ctx = true →
    s.draftStatus n d 0 = (u, true) →
    let v := u.dropDraft n d.id
    let w := if d.sigEn then v.signal d.sigTally d.sigValue else v
    let x := (w.count LOOM_CTR.DRAFTS n).draftPkt d.src
    exec (.draftComplete n) s = .next ((if d.mism then x.loomTest n (d.inc.getD 0) else x).loomWait n) ∧
    (∀ x ∈ (v.loom n).drafts, x.id ≠ d.id)) ∧
  (∀ (s : State) (n : Nat) (d : LDraft), d.statusVa = 0 → d.src = none → s.ctxActive d.ctx = true →
    let t := s.skipDraft n d
    t.on LOOM_FLAGS.POISON_SKIP n = true ∧ t.rd FE_CTX.STATE d.ctx = 2 ∧ (∃ td, t.tds.get? d.ctx = some td ∧ td.code = 0x41) ∧
      (∀ x ∈ (t.loom n).drafts, x.id ≠ d.id) ∧ (t.loom n).bolt = (s.loom n).bolt ∧ (t.loom n).spool = (s.loom n).spool ∧
      (t.loom n).beam = (s.loom n).beam ∧ t.tly = s.tly) ∧
  (∀ (s : State) (n sid pid : Nat) (d : LDraft), d.statusVa = 0 → d.src = some (sid, pid) →
    let t := s.skipDraft n d
    ∀ k, k < 12 → (∀ x ∈ (t.loom k).drafts, x.src = d.src → x.st = 0 → x.va ≤ d.va) ∧
      ∀ x ∈ (s.loom k).drafts, x.src = d.src → x.va < d.va → (k = n → x.id ≠ d.id) → x ∈ (t.loom k).drafts)
  ) ∧ (
  ∀ (s : State) (n : Nat) (d : LDraft), s.loomRuns n = some d →
    (∀ (slice pass row : Nat) (err y x g : Dy), d.edgeSum (s.loom n) slice pass row = some y → d.laneSum (s.loom n) false slice pass row = some x →
      d.laneSum (s.loom n) true slice pass row = some g →
      let diff := (y.add err).add x.neg
      (d.isInt = true → s.rowVerdict n d slice pass row err = (ofSigned 32 diff.floor != 0, ofSigned 32 diff.floor, 0)) ∧
      (d.isInt = false →
        let lim := (⟨g.m, g.e - s.rd (if d.pair = 4 ∨ (d.pair = 0 ∧ 2 ≤ d.passes) then LOOM_CHK_CFG.THETA_W else LOOM_CHK_CFG.THETA_C) n⟩ : Dy).add ⟨1, -112⟩
        s.rowVerdict n d slice pass row err = (lim.lt diff.abs, (fp32.rnd diff).1, fpUp lim))) ∧
    (∀ (corr : Bool) (col : Nat) (err : Dy) (ms : List (Dy × Dy × Dy)), d.isInt = false → d.chunkRmws (s.loom n) corr col = ms.map some →
      let diff := ((sumDy (ms.map fun m => m.2.2.add m.1.neg)).add err).add (sumDy (ms.map (·.2.1))).neg
      let H := sumDy (ms.map (·.2.2.abs))
      let lim := (⟨H.m, H.e - s.rd LOOM_CHK_CFG.THETA_R n⟩ : Dy).add ⟨1, -112⟩
      s.chunkVerdict n d corr col err = (lim.lt diff.abs, (fp32.rnd diff).1, fpUp lim)) ∧
    (∀ (slice pass row piece : Nat) (errM errE : Int), exec (.rowCheck n 3 pass slice row piece 0 errE) s = .next s ∧
      (d.rowIn slice pass row = true → exec (.rowCheck n 2 pass slice row piece 0 errE) s = .next s ∧
        ((s.rowVerdict n d slice pass row ⟨errM, errE⟩).1 = false → exec (.rowCheck n 0 pass slice row piece errM errE) s = .next s))) ∧
    (∀ (kind pass slice row piece : Nat) (errM errE : Int), d.rowIn slice pass row = true →
      (kind = 0 ∧ (s.rowVerdict n d slice pass row ⟨errM, errE⟩).1 = true) ∨ (kind = 2 ∧ errM ≠ 0) → s.ctxActive d.ctx = true →
      (d.tries < s.rd LOOM_CHK_CFG.RETRY_MAX n → (d.accInit && d.comp) = false → Answers (.rowCheck n kind pass slice row piece errM errE) s fun t =>
        t.rd LOOM_CHK_LAST.KIND n = kind ∧ t.rd LOOM_CHK_LAST.ROW n = row % 2 ^ LOOM_CHK_LAST.ROW.w ∧ t.on LOOM_CHK_LAST.ROW_VALID n = true ∧
        t.rd LOOM_CHK_LAST.PASS n = pass % 4 ∧ t.rd LOOM_CHK_LAST.TIME n = s.now % 2 ^ 64 ∧ t.on LOOM_CHK_STATUS.RETRYING n = true ∧
        t.rd LOOM_CHK_LAST.LIMIT n = (if kind = 0 then (s.rowVerdict n d slice pass row ⟨errM, errE⟩).2.2 % 2 ^ 32 else 0) ∧
        t.rd LOOM_CUR.SLICE n = 0 ∧
        (s.rd LOOM_CHK_CTR.MISMATCH n + 1 < 2 ^ 48 - 1 → t.rd LOOM_CHK_CTR.MISMATCH n = s.rd LOOM_CHK_CTR.MISMATCH n + 1) ∧
        (s.rd LOOM_CHK_CTR.RETRIES n + 1 < 2 ^ 48 - 1 → t.rd LOOM_CHK_CTR.RETRIES n = s.rd LOOM_CHK_CTR.RETRIES n + 1) ∧
        (t.loom n).bolt = (s.loom n).bolt ∧
        ∃ inc, (t.loom n).drafts = (s.loom n).drafts.map fun x => if x.id = d.id then { x with
          chunk := 0, tries := x.tries + 1, retries := x.retries + 1, flags := x.flags ||| 4, inc := some inc, mism := true } else x) ∧
      (s.rd LOOM_CHK_CFG.RETRY_MAX n ≤ d.tries ∨ (d.accInit && d.comp) = true → Answers (.rowCheck n kind pass slice row piece errM errE) s fun t =>
        t.on LOOM_CHK_STATUS.ESCALATED n = true ∧ t.rd FE_CTX.STATE d.ctx = 2 ∧ (∃ td, t.tds.get? d.ctx = some td ∧ td.code = 0x42) ∧
        (∀ x ∈ (t.loom n).drafts, x.id ≠ d.id) ∧ t.testHeld 1 n = true)) ∧
    (∀ (pass slice row piece : Nat) (errM errE : Int), errM ≠ 0 → s.ctxActive d.ctx = true →
      (piece ∉ d.dups → (d.accInit && d.comp) = false → Answers (.rowCheck n 3 pass slice row piece errM errE) s fun t =>
        t.rd LOOM_CHK_LAST.KIND n = 3 ∧ t.on LOOM_CHK_LAST.ROW_VALID n = false ∧ (t.loom n).bolt = (s.loom n).bolt ∧
        ∃ inc, (t.loom n).drafts = (s.loom n).drafts.map fun x => if x.id = d.id then { x with
          dups := piece :: x.dups, retries := x.retries + 1, flags := x.flags ||| 4, inc := some inc, mism := true } else x) ∧
      (piece ∈ d.dups ∨ (d.accInit && d.comp) = true → Answers (.rowCheck n 3 pass slice row piece errM errE) s fun t =>
        t.on LOOM_CHK_STATUS.ESCALATED n = true ∧ t.rd FE_CTX.STATE d.ctx = 2 ∧ (∀ x ∈ (t.loom n).drafts, x.id ≠ d.id) ∧
        t.testHeld 1 n = true)) ∧
    (∀ (col : Nat) (corr : Bool) (errM errE : Int) (diff limit : Nat), errM ≠ 0 → col < d.cols d.t → (corr = true → d.comp = true) →
      s.chunkVerdict n d corr col ⟨errM, errE⟩ = (true, diff, limit) →
      exec (.chunkCheck n col corr errM errE) s = .next (s.mismatch n d 1 0 0 none (some col) 0 diff limit)) ∧
    (∀ (bolt : NMap Nat) (r c : Nat), d.accInit = true → d.comp = false → r < d.mb d.b → c < d.cols d.t →
      boltGet (d.checkpoint bolt) (d.boltRow d.b d.t r ^^^ 512) c = boltGet bolt (d.boltRow d.b d.t r) c) ∧
    (∀ (col : Nat) (corr : Bool) (errE : Int), s.ctxActive d.ctx = true → Answers (.chunkCheck n col corr 0 errE) s fun t =>
      let l := if d.chunk = 0 then { s.loom n with bolt := d.checkpoint (s.loom n).bolt } else s.loom n
      (s.rd LOOM_CHK_CTR.CHUNKS n + 1 < 2 ^ 64 - 1 → t.rd LOOM_CHK_CTR.CHUNKS n = s.rd LOOM_CHK_CTR.CHUNKS n + 1) ∧
      (d.chunk + 1 < d.chunks d.b → (t.loom n).drafts = (s.loom n).drafts.map (fun x => if x.id = d.id then
        { x with chunk := d.chunk + 1 } else x) ∧ (t.loom n).bolt = l.bolt ∧ (t.loom n).spool = (s.loom n).spool) ∧
      (d.chunks d.b ≤ d.chunk + 1 → d.dest = 0 → d.inc = none → d.t + 1 < d.T →
        (t.loom n).bolt = (d.accumulate l d.b d.t).1 ∧ (t.loom n).spool = (s.loom n).spool ∧
        ∀ x ∈ (t.loom n).drafts, x.id = d.id → x.t = d.t + 1 ∧ x.chunk = 0 ∧ x.tries = 0) ∧
      (d.chunks d.b ≤ d.chunk + 1 → d.dest = 0 → d.inc = none → d.T ≤ d.t + 1 → d.blocks ≤ d.b + 1 →
        (t.loom n).bolt = (d.accumulate l d.b d.t).1 ∧ ∀ x ∈ (t.loom n).drafts, x.id = d.id → x.st = 2))
  )

/-- Releases, stops, saves and restores (R94, R95, R305 to R308, R330, R331, R641, R663): GO frees an owned, empty Loom and zeroes its
memories, another GO sets CFG_ERR; a stop request moves IDLE to STOPPING, FULL widens a pending stop, any other sets CFG_ERR; with
nothing to stop RESULT is 3; at the stop point the Loom saves and is SAVED; a restore whose CRC holds gives back Bolt, Spool and
Draft, else the memories are zeroed and the context faults with LOOM_RESTORE. A debugger's halt, step and resume follow R641. -/
def Obligations.LoomsReleaseStopAndRestore : Prop :=
  ∀ (s : State) (n : Nat), n < 12 →
    (s.winUp (.loom n) = true →
      (s.on LOOM_STATUS.OWNED n = true → (s.loom n).drafts = [] → (s.loom n).save = none → s.on LOOM_RELEASE.CLEARING n = false →
        Answers (.loomRelease n) s fun t => t.on LOOM_STATUS.OWNED n = false ∧ t.on LOOM_RELEASE.CLEARING n = true ∧
          (t.loom n).beam = [] ∧ (t.loom n).spool = [] ∧ (t.loom n).bolt = [] ∧ t = { s with regs := t.regs, looms := t.looms } ∧
          ∀ k, k ≠ n → t.loom k = s.loom k) ∧
      (s.on LOOM_STATUS.OWNED n = false ∨ (s.loom n).drafts ≠ [] → Answers (.loomRelease n) s fun t =>
        t.on CFG.CFG_ERR (Blk.loom n).idx = true ∧ WriteEv s t [(CFG.CFG_ERR, (Blk.loom n).idx), (CFG.ERR_OFFSET, (Blk.loom n).idx)])) ∧
    (Answers (.loomReleaseDone n) s fun t => t.on LOOM_RELEASE.CLEARING n = false ∧ t = { s with regs := t.regs }) ∧
    (∀ full, s.on DBG_TRACE.TRACE_EN = false → s.rd LOOM_STOP.STATE n = 0 → Answers (.loomStopReq n full) s fun t =>
      t.rd LOOM_STOP.STATE n = 1 ∧ t.rd LOOM_STOP.RESULT n = 0 ∧ (t.loom n).full = full ∧ (t.loom n).drafts = (s.loom n).drafts ∧
      t.mem = s.mem ∧ t.fe = s.fe ∧ t.sh = s.sh) ∧
    (s.rd LOOM_STOP.STATE n = 1 → Answers (.loomStopReq n true) s fun t => (t.loom n).full = true ∧ t = { s with looms := t.looms }) ∧
    (∀ full, s.rd LOOM_STOP.STATE n ≠ 0 → s.rd LOOM_STOP.STATE n ≠ 1 ∨ full = false → Answers (.loomStopReq n full) s fun t =>
      t.on CFG.CFG_ERR (Blk.loom n).idx = true ∧ WriteEv s t [(CFG.CFG_ERR, (Blk.loom n).idx), (CFG.ERR_OFFSET, (Blk.loom n).idx)]) ∧
    (s.rd LOOM_STOP.STATE n = 1 → (s.loom n).dbg ≠ 2 → (∀ d ∈ (s.loom n).drafts, d.st = 0) → (s.loom n).stopAt = false →
      (s.loom n).ended = none → Answers (.loomStopPoint n) s fun t => t.rd LOOM_STOP.STATE n = 0 ∧ t.rd LOOM_STOP.RESULT n = 3 ∧
        (t.loom n) = s.loom n) ∧
    (s.rd LOOM_STOP.STATE n = 1 → (s.loom n).dbg ≠ 2 → (∀ d ∈ (s.loom n).drafts, d.st ≠ 2) → (s.loom n).stopAt = true →
      Answers (.loomStopPoint n) s fun t => t.rd LOOM_STOP.STATE n = 2 ∧ t = { s with regs := t.regs }) ∧
    (∀ d, s.rd LOOM_STOP.STATE n = 2 → (s.loom n).streaming = some d → Answers (.loomSaveDone n) s fun t =>
      t.rd LOOM_STOP.STATE n = 3 ∧ t.rd LOOM_STOP.RESULT n = (if d.yields = true ∧ d.t = 0 ∧ d.chunk = 0 then 1 else 2) ∧
      t.on LOOM_STATUS.SAVED n = true ∧ (∀ x ∈ (t.loom n).drafts, x.id ≠ d.id) ∧ (t.loom n).beam = (s.loom n).beam ∧
      ∃ v rest, (t.loom n).save = some v ∧ v.draft = some d ∧ v.bolt = (s.loom n).bolt ∧ v.spool = (s.loom n).spool ∧
        v.image = (s.rd LOOM_SAVE.SAVE_PA n * 0x1000, (s.freeBytes 15 4096).1) :: rest ∧ v.crc = crc32c (v.image.flatMap (·.2))) ∧
    (Answers (.loomStopRestore n) s fun t => if s.rd LOOM_STOP.STATE n = 3 then t.rd LOOM_STOP.STATE n = 4 ∧ t = { s with regs := t.regs }
      else t.on CFG.CFG_ERR (Blk.loom n).idx = true ∧ WriteEv s t [(CFG.CFG_ERR, (Blk.loom n).idx), (CFG.ERR_OFFSET, (Blk.loom n).idx)]) ∧
    (∀ (v : LSave) (u : State) (bs : List Byte), s.rd LOOM_STOP.STATE n = 4 → (s.loom n).save = some v → (∀ d ∈ (s.loom n).drafts, d.st = 0) →
      v.image.foldl (fun (z : State × List Byte) p => ((z.1.physRead p.1 p.2.length 0).1, z.2 ++ (z.1.physRead p.1 p.2.length 0).2.1)) (s, []) = (u, bs) →
      (crc32c bs = v.crc → v.full = true → Answers (.loomRestoreDone n) s fun t => t.rd LOOM_STOP.STATE n = 0 ∧
        t.on LOOM_STATUS.SAVED n = false ∧ (t.loom n).save = none ∧ (t.loom n).bolt = v.bolt ∧ (t.loom n).spool = v.spool ∧
        (t.loom n).drafts = v.draft.toList ++ (u.loom n).drafts) ∧
      (crc32c bs ≠ v.crc → u.ctxActive v.ctx = true → Answers (.loomRestoreDone n) s fun t => t.rd LOOM_STOP.STATE n = 0 ∧
        (t.loom n).beam = [] ∧ (t.loom n).spool = [] ∧ (t.loom n).bolt = [] ∧ t.rd FE_CTX.STATE v.ctx = 2 ∧
        ∃ td, t.tds.get? v.ctx = some td ∧ td.code = 0x43 ∧ ∀ d, v.draft = some d → d.sigEn = true → d.sigTally ∈ td.poison)) ∧
    (s.winUp .dbg = true →
      (∀ p, s.ownerOf FE_PART.LOOMS n = some p → bit (s.rd DBG_CFG.LOOM_DBG_PARTS) p = true → Answers (.loomHalt n) s fun t =>
        ((s.loom n).streaming.isSome = true → (s.loom n).dbg ≠ 2 → (t.loom n).dbg = 1) ∧
        ((s.loom n).streaming = none → (s.loom n).dbg ≠ 2 → (t.loom n).dbg = 2 ∧ bit (t.rd DBG_LOOM.HALTED) n = true) ∧
        (t.loom n).drafts = (s.loom n).drafts ∧ t.mem = s.mem) ∧
      (s.ownerOf FE_PART.LOOMS n = none → s.rd DBG_CTR.HALT_REFUSED + 1 < 2 ^ 48 - 1 → Answers (.loomHalt n) s fun t =>
        t.rd DBG_CTR.HALT_REFUSED = s.rd DBG_CTR.HALT_REFUSED + 1 ∧ t.looms = s.looms) ∧
      (Answers (.loomResume n) s fun t => (t.loom n).dbg = 0 ∧ bit (t.rd DBG_LOOM.HALTED) n = false ∧
        (t.loom n).drafts = (s.loom n).drafts ∧ t = { s with regs := t.regs, looms := t.looms }) ∧
      (Answers (.loomStep n) s fun t => (t.loom n).dbg =
        (if (s.loom n).dbg = 2 ∧ (s.loom n).streaming.isSome = true then 3 else (s.loom n).dbg) ∧ (t.loom n).drafts = (s.loom n).drafts))

/-- RAY.EMIT and the arrival of hits (R227, R240 to R242, R334, R352): a third pending RETURN waits; while
an emission is held its core's memory pipe takes nothing (R221); a partition without an RTU traps
ILLEGAL; with no store and no pool the context faults with RAY_NO_STORE, and an invalid ray faults it with RAY_INVALID before any
lane takes effect; with room for all, the rays of the active lanes are accepted in ascending lane order and the group goes on, a
SPOOL ray into its open activation. A RETURN hit is written to the eight registers of its lane and is no more pending there; a
trap that waited for the last one is taken. -/
def Obligations.RaysAreEmittedAndReturn : Prop :=
  let room (u : State) (p n : Nat) : Prop := u.crd.held = [] ∧ u.inStore p + n ≤ u.rd FE_PART.CRD_QUOTA p * 1024 ∧ u.crd.slots.length + n ≤ 262144
  let goOn (x : Grp) : Grp := if x.wait = .ray then { x with wait := .none } else x
  (∀ (s : State) (g : Nat) (i : Ins) (e : GEnv), s.genv g = some e → 2 ≤ e.grp.rets.length → exec (.rayEmitReturn g i) s = .next s) ∧
  (∀ (s : State) (g k : Nat) (i : Ins) (x : Grp), s.sh.grps.get? k = some x → x.wait = .ray → coreOf k = coreOf g →
    ∀ c ∈ [Instr.ld g i, .st g i, .sld g i, .atomAdd g i, .loomIssue g i, .rayEmitShade g i], exec c s = .next s) ∧
  (∀ (s u : State) (g kind : Nat) (i : Ins) (e0 e : GEnv) (c : Instr),
    (kind, c) ∈ [(0, Instr.rayEmitReturn g i), (1, Instr.rayEmitShade g i), (2, Instr.rayEmitSpool g i)] →
    Issues s ⟨0xA, some 0⟩ g i false (⟨i.src0, .v, 12⟩ :: if kind = 0 then [⟨i.dst, .v, 8⟩] else [⟨i.src1, .s, 2⟩]) 3 false e0 u e →
    bits i.md 0 2 = kind → (kind ≠ 0 → i.dst = 0) → i.x = 0 → e0.grp.rets.length < 2 →
    let p := e.disp.part
    let tgt := if kind = 0 then 0 else e.grp.s64 i i.src1
    let rs := e.raysOf i kind tgt
    (s.partRtus p = [] → Traps c s ⟨0xA, some 0⟩ i e0 1) ∧
    (s.partRtus p ≠ [] → rs = [] → exec c s = .next u) ∧
    (s.partRtus p ≠ [] → rs ≠ [] → u.rd FE_PART.CRD_QUOTA p = 0 → u.rd CRD_POOL.SIZE p = 0 →
      exec c s = .next (u.ctxFault e.grp.ctx 0x54 0 63)) ∧
    (s.partRtus p ≠ [] → (∃ r ∈ rs, r.invalid = true) → u.rd FE_PART.CRD_QUOTA p ≠ 0 →
      exec c s = .next (u.ctxFault e.grp.ctx 0x50 0 63)) ∧
    (s.partRtus p ≠ [] → rs ≠ [] → (∀ r ∈ rs, r.invalid = false) → room u p rs.length →
      (kind ≠ 2 → exec c s = .next (((rs.foldl (fun v r => v.takeRay r false) (u.updGrp g fun x => { x with
        rets := if kind = 0 then x.rets ++ [(i.dst, e.grp.active i)] else x.rets, wait := .ray })).updGrp g goOn).crdSync)) ∧
      (∀ a : Activation, kind = 2 → u.crd.acts.find? (fun a => a.ctx == e.grp.ctx && a.va == tgt && a.accepted < a.expect) = some a →
        a.accepted + rs.length ≤ a.expect → (∀ r ∈ rs, r.user < a.rows * a.rpr) →
        (∀ b ∈ u.crd.acts, b.id = a.id → b = a) → (∀ r ∈ rs, r.missNow = false) →
        exec c s = .next (((rs.foldl (fun v r => v.takeRay { r with act := a.id } false) (u.updGrp g fun x => { x with
          wait := .ray })).updGrp g goOn).crdSync)))) ∧
  (∀ (s : State) (g lane : Nat) (r : Ray) (h : List Byte) (x : Grp),
    s.crd.rets.find? (fun p => p.1.grp == g && p.1.lane == lane) = some (r, h) → s.sh.grps.get? g = some x → x.ended = false → lane < 32 →
    ∃ v y, exec (.hitArrival g lane) s = .next (v.trapGo g) ∧ (x.trapReq = none → v.trapGo g = v) ∧
      GrpOnly (({ s with crd := { s.crd with rets := s.crd.rets.erase (r, h) } } : State).crdMoved r.part) v g y ∧
      (∀ k < 8, y.rv lane (r.reg + k) = field h (4 * k) 4) ∧
      (∀ l q, l < 32 → l ≠ lane ∨ q < r.reg ∨ r.reg + 8 ≤ q → y.rv l q = x.rv l q) ∧ y = { x with v := y.v, rets := y.rets } ∧
      ∀ q ∈ y.rets, q.1 = r.reg → bit q.2 lane = false) ∧
  (∀ (s : State) (g lane : Nat), (∀ p ∈ s.crd.rets, p.1.grp ≠ g ∨ p.1.lane ≠ lane) → exec (.hitArrival g lane) s = .next s)

/-- Batching and casting (R334, R335, R342, R351, R356): a bucket whose oldest ray has waited BATCH_US becomes a batch; a batch goes
to the RTU of its partition that holds the fewest, the lowest on a tie, unless that holds four; a finished ray's hit record leaves
the RTU, or waits for its comparison where it was sampled; a structure that breaks R342 faults the context with RAY_NODE. A ray
that is not traversed returns MISS. Casts that disagree count a mismatch: with a third cast that settles it the record is delivered
and the RTU that differed is tested, and otherwise the context faults with RAY_CHECK.

Delivery (R184, R336, R352, R353, R357, R360): the hits of a batch start one hit-shading group, one hit a lane, on a cluster of
the emitting dispatch, with its descriptor as it was checked for the dispatch's first group that names it, a wrong one faulting the
context with KDESC_INVALID; a pooled ray comes back in order below the quota,
one of a torn-down context being skipped; a pool full for 1 ms without progress faults the contexts whose emissions are held with
RAY_DEADLOCK; a patrol batch changes counters alone, and its failure has the RTU tested; a complete activation closes and signals.
What a patrol counts is free (log entry 25). -/
def Obligations.RaysAreCastAndDelivered : Prop :=
  (
  (∀ (s : State) (b : Nat) (r : Ray) (l : List Ray), s.crd.buckets.get? b = some (r :: l) →
    if r.since + 1000 * s.rd CRD_CFG.BATCH_US ≤ s.now then
      Answers (.batchTimeout b) s fun t => t.crd.buckets.get? b = none ∧ t.crd.batches.get? s.crd.next = some { rays := r :: l } ∧
        (∀ k, k ≠ b → t.crd.buckets.get? k = s.crd.buckets.get? k) ∧ t = { s with regs := t.regs, crd := t.crd }
    else exec (.batchTimeout b) s = .next s) ∧
  (∀ (s : State) (b : Nat) (x : Batch) (r : Ray) (l : List Ray), s.crd.batches.get? b = some x → x.rays = r :: l → x.rtu = none →
    s.ctxActive r.ctx = true →
    let up := (s.partRtus r.part).filter s.rtuUp
    ((∀ m ∈ up, 4 ≤ s.rtuLoad m) → exec (.batchDispatch b) s = .next s) ∧
    ∀ n ∈ up, s.rtuLoad n < 4 → (∀ m ∈ up, s.rtuLoad n ≤ s.rtuLoad m ∧ (m < n → s.rtuLoad n < s.rtuLoad m)) →
      Answers (.batchDispatch b) s fun t => t.crd.batches.get? b = some { x with rtu := some n, size := l.length + 1 } ∧
        (∀ k, k ≠ b → t.crd.batches.get? k = s.crd.batches.get? k) ∧
        t = { s with regs := t.regs, crd := t.crd, irq := t.irq, out := t.out, freeCtr := t.freeCtr } ∧
        (s.rd CRD_CTR.BATCHES + 1 < 2 ^ CRD_CTR.BATCHES.w - 1 → t.rd CRD_CTR.BATCHES = s.rd CRD_CTR.BATCHES + 1) ∧
        (31 ≤ l.length → t.rd CRD_CTR.PARTIAL = s.rd CRD_CTR.PARTIAL) ∧
        (l.length < 31 → s.rd CRD_CTR.PARTIAL + 1 < 2 ^ CRD_CTR.PARTIAL.w - 1 → t.rd CRD_CTR.PARTIAL = s.rd CRD_CTR.PARTIAL + 1)) ∧
  (∀ (s u : State) (b k n : Nat) (x : Batch) (r : Ray) (tr : Trav), s.crd.batches.get? b = some x → x.rtu = some n →
    x.rays[k]? = some r → s.ctxActive r.ctx = true → s.traverse n r = (u, tr) → r.kind ≠ 2 →
    let v := (u.castCount n r.part tr (decide (x.size = 1))).updCrd fun c => { c with batches := c.batches.put b { x with rays := x.rays.eraseIdx k } }
    (tr.fin = 3 → exec (.traversalComplete b k) s = .next u) ∧
    (tr.fin = 2 → exec (.traversalComplete b k) s = .next (u.ctxFault r.ctx 0x51 0 n)) ∧
    (tr.fin < 2 → r.dup = false →
      exec (.traversalComplete b k) s = .next ((v.hitOut (some b) r (hitRecord r tr)).batchSettle b).crdGo) ∧
    (tr.fin < 2 → r.dup = true → exec (.traversalComplete b k) s = .next ((v.recast (v.dupRtu r.part n) r).updCrd fun c =>
      { c with batches := c.batches.upd b fun y => { y with cmps := y.cmps ++ [(r, hitRecord r tr)] } }).crdGo) ∧
    (r.missNow = true → u = s ∧ tr.fin = 1 ∧ tr.steps = 0 ∧ field (hitRecord r tr) 0 4 = 0x7F800000 ∧
      field (hitRecord r tr) 0x14 4 = 0xFFFFFFFF ∧ field (hitRecord r tr) 0x1C 4 % 16 = 0)) ∧
  (∀ (s : State) (b k : Nat) (x : Batch) (n : Nat) (r : Ray) (h : List Byte), s.crd.batches.get? b = some x → x.rtu = some n →
    x.cmps[k]? = some (r, h) → s.ctxActive r.ctx = true →
    let u := s.updCrd fun c => { c with batches := c.batches.put b { x with cmps := x.cmps.eraseIdx k } }
    let out (v : State) : State := ((v.hitOut (some b) r h).batchSettle b).crdGo
    exec (.dupCompare b k 0) s = .next (out u) ∧
    (∀ odd q, 0 < odd → odd < 3 → (s.partRtus r.part).find? (fun q => q != n && q != u.dupRtu r.part n) = some q →
      (((u.count CRD_CTR.DUP_MISMATCH).raise 0x95).recast q r).ctxActive r.ctx = true → Answers (.dupCompare b k odd) s fun t =>
      let w := ((u.count CRD_CTR.DUP_MISMATCH).raise 0x95).recast q r
      let inc := w.incident 1 (w.incOwner FE_PART.CLUSTERS n) 0x95
      t = (((out inc.2).incDone inc.1).askTest 2 (if odd = 1 then n else u.dupRtu r.part n) 0x95 inc.1)) ∧
    (∀ odd, 0 < odd → (∀ q ∈ s.partRtus r.part, q = n ∨ q = u.dupRtu r.part n) → Answers (.dupCompare b k odd) s fun t =>
      t.rd FE_CTX.STATE r.ctx = 2 ∧ (∃ td, t.tds.get? r.ctx = some td ∧ td.code = 0x53) ∧ t.testHeld 2 n = true ∧
        t.testHeld 2 (u.dupRtu r.part n) = true))
  ) ∧ (
  (∀ (s u : State) (b : Nat) (x : Batch) (r : Ray) (h0 : List Byte) (rest : List (Ray × List Byte)) (kd : KDesc),
    s.crd.batches.get? b = some x → x.hits = (r, h0) :: rest → x.rays = [] → x.cmps = [] → s.ctxActive r.ctx = true →
    s.fe.held.contains r.part = false → s.sh.saved = [] → s.hitKdesc ((((r, h0) :: rest).flatMap (·.1.ds)).eraseDups) r = (u, some kd) →
      let d : Disp := { kind := .hit (((r, h0) :: rest).flatMap (·.1.ds)).eraseDups, ctx := r.ctx, part := r.part, prio := r.prio, sid := 0,
                        pid := 0, kd := kd, gx := 1, gy := 1, gz := 1, clusters := r.clusters, q := r.q }
      (u.placeCore d 1 = none → exec (.hitShadeLaunch b) s = .next s) ∧
      ∀ core, u.placeCore d 1 = some core → rest.length < 32 → ∃ v : State, exec (.hitShadeLaunch b) s = .next v.crdGo ∧
        bit r.clusters (core / 4) = true ∧ v.crd.batches.get? b = none ∧ v.sh.disps.get? u.sh.nextDisp =
          some { d with next := 1, live := 1, lastCluster := core / 4 } ∧
        (∀ i ∈ (((r, h0) :: rest).flatMap (·.1.ds)).eraseDups, i ≠ u.sh.nextDisp → (s.sh.disps.get? i).isSome = true → u.sh.disps = s.sh.disps →
          ∃ e, v.sh.disps.get? i = some e ∧ (r.tgt, kd) ∈ e.hitKds) ∧
        ∃ y, v.sh.grps.get? (core * 48 + (u.freeSlots core).headD 0) = some y ∧ y.pc = kd.code ∧ y.exec = 2 ^ (rest.length + 1) - 1 ∧
          y.rs 0 + 2 ^ 32 * y.rs 1 = kd.args % 2 ^ 64 ∧ y.rs 2 = rest.length + 1 ∧
          ∀ l k hit, ((r, h0) :: rest)[l]? = some hit → k < 8 → y.rv l k = field hit.2 (4 * k) 4) ∧
  (∀ (s u : State) (ds : List Nat) (r : Ray) (kd : KDesc),
    (∀ i d, ds = [i] → s.sh.disps.get? i = some d → d.hitKds = [(r.tgt, kd)] → s.hitKdesc ds r = (s, some kd)) ∧
    ((∀ i ∈ ds, ∀ d, s.sh.disps.get? i = some d → ∀ p ∈ d.hitKds, p.1 ≠ r.tgt) →
      (s.readKdesc r.ctx ((bitList r.clusters 48).headD 60) r.tgt = (u, none) → s.hitKdesc ds r = (u, none)) ∧
      (s.readKdesc r.ctx ((bitList r.clusters 48).headD 60) r.tgt = (u, some kd) →
        (kd.wgx = 32 ∧ kd.wgy = 1 ∧ kd.wgz = 1 → s.hitKdesc ds r = (u, some kd)) ∧
        (kd.wgx ≠ 32 ∨ kd.wgy ≠ 1 ∨ kd.wgz ≠ 1 →
          s.hitKdesc ds r = (u.ctxFault r.ctx 0x30 0 ((bitList r.clusters 48).headD 60), none))))) ∧
  (∀ (s u : State) (b : Nat) (x : Batch) (r : Ray) (h0 : List Byte) (rest : List (Ray × List Byte)),
    s.crd.batches.get? b = some x → x.hits = (r, h0) :: rest → x.rays = [] → x.cmps = [] → s.ctxActive r.ctx = true →
    s.fe.held.contains r.part = false → s.sh.saved = [] → s.hitKdesc ((((r, h0) :: rest).flatMap (·.1.ds)).eraseDups) r = (u, none) →
    exec (.hitShadeLaunch b) s = .next u) ∧
  (∀ (s : State) (p : Nat) (r : Ray) (rest : List Ray), s.crd.pools.get? p = some (r :: rest) →
    let a := s.rd CRD_POOL.PA p * 0x200000 + 64 * ((((s.crd.poolNext.get? p).getD 0) - (rest.length + 1)) % s.poolCap p)
    (s.rd FE_PART.CRD_QUOTA p * 1024 ≤ s.inStore p → exec (.poolReturn p) s = .next s) ∧
    ∀ (u : State) (d : List Byte), s.inStore p < s.rd FE_PART.CRD_QUOTA p * 1024 → s.crd.slots.length < 262144 →
      s.physRead a 64 0 = (u, d, 0) →
      let v := u.updCrd fun c => { c with pools := c.pools.put p rest }
      (r.dead = true → exec (.poolReturn p) s = .next v.crdGo) ∧ (r.dead = false → exec (.poolReturn p) s = .next (v.bucketIn r).crdGo)) ∧
  (∀ (s : State) (p t0 c : Nat), s.crd.full.get? p = some t0 → (∃ r ∈ s.crd.held, r.part = p) →
    (∀ r ∈ s.crd.held, r.part = p → r.ctx = c) →
    exec (.rayDeadlock p) s = .next (if s.now < t0 + 1000000 then s else s.ctxFault c 0x52 0 63)) ∧
  (∀ (s : State) (n : Nat), s.rtuUp n = true →
    (Answers (.rtuPatrol n false) s fun t => t.crd = s.crd ∧ t.sh = s.sh ∧ t.fe = s.fe ∧ t.mem = s.mem ∧ t.asy = s.asy) ∧
    (Answers (.rtuPatrol n true) s fun t => t.testHeld 2 n = true ∧ t.crd = s.crd ∧ t.sh = s.sh ∧ t.fe = s.fe) ∧
    ∀ fail m, s.rtuUp m = false → exec (.rtuPatrol m fail) s = .next s) ∧
  (∀ (s : State) (a : Nat) (x : Activation), s.crd.acts.find? (fun y => y.id == a) = some x → s.ctxActive x.ctx = true →
    if x.written < x.expect then exec (.activationComplete a) s = .next s
    else
      let v := s.updCrd fun c => { c with acts := c.acts.filter fun y => y.id != a }
      exec (.activationComplete a) s = .next (if x.sigEn then v.signal x.sigTally x.value else v).crdGo)
  )

/-- Render passes (R367 to R376, R380, R389): GFX_STATE sets the state of the draws that follow; a pass begins with a valid descriptor whose
bin pool lies in this device's HBM, else the context faults with GFX_INVALID or PART_RESOURCE; a draw in an open, idle pass reads its
pipeline state and starts, each draw numbered in order; RENDER_PASS_END has every tile shaded, in the order of R381, and the queue has
no open pass then. A stop that holds every cluster of a pass ends binning at a run of 4,096 primitives, and holds no Realtime pass for a
Realtime job or a budget (R389). A packet out of
its sequence faults the context with GFX_SEQUENCE. A pool with no room makes a partial flush, or with no flush area faults the
context with GFX_POOL. -/
def Obligations.RenderPassesTakeDraws : Prop :=
  let plain (s : State) (sid : Nat) : Prop := ∀ x, s.fe.strms.get? sid = some x → x.node = none
  (∀ (s : State) (sid : Nat) (st : Strm) (p : Pkt), s.canRun sid 0x20 = some (st, p) → plain (s.dispatch sid st p) sid →
    Answers (.gfxState sid) s fun t => t.gfx.states.get? sid = some (pw2 p.w 1, pw2 p.w 3) ∧ t.gfx.passes = s.gfx.passes ∧
      (∀ k, k ≠ sid → t.gfx.states.get? k = s.gfx.states.get? k) ∧ (s.passOf sid = none → t.pktDone sid p.pid) ∧
      t.mem = s.mem ∧ t.sh = s.sh) ∧
  (∀ (s u : State) (sid : Nat) (st : Strm) (p : Pkt) (d : List Byte), s.canRun sid 0x21 = some (st, p) →
    let v := s.dispatch sid st p
    (v.passOf sid ≠ none → exec (.renderPassBegin sid) s = .next (v.ctxFault st.ctx 0x61)) ∧
    (v.passOf sid = none → v.vread st.ctx 60 (pw2 p.w 1) 512 = (u, some d) →
      let own := u.rd FE_PART.CLUSTERS (u.partOf st.ctx)
      let m := bits (field d 0x28 8) 0 48
      let g : GPass := { sid := sid, q := st.q, ctx := st.ctx, part := u.partOf st.ctx, prio := u.strmPrio st, desc := d,
                         clusters := if m = 0 then own else m, pid0 := p.pid }
      (g.ok = false → exec (.renderPassBegin sid) s = .next (u.ctxFault st.ctx 0x60)) ∧
      (g.ok = true → m &&& own ≠ m → exec (.renderPassBegin sid) s = .next (u.ctxFault st.ctx 0xC4)) ∧
      (∀ w, g.ok = true → m &&& own = m → u.vaLocal st.ctx g.poolVa = (w, false) →
        exec (.renderPassBegin sid) s = .next (w.ctxFault st.ctx 0x60)) ∧
      (∀ w x, g.ok = true → m &&& own = m → u.vaLocal st.ctx g.poolVa = (w, true) →
        (w.freeBytes 34 0x10000).2.vwrite st.ctx 63 g.poolVa (w.freeBytes 34 0x10000).1 = (x, true) → plain x sid →
        exec (.renderPassBegin sid) s = .next { x with gfx := { x.gfx with passes := x.gfx.passes.put x.gfx.next g, next := x.gfx.next + 1 } }))) ∧
  (∀ r ∈ ([(.draw, 0x22), (.drawIndexed, 0x23), (.drawIndirect, 0x24)] : List ((Nat → Instr) × Nat)),
    ∀ (s u : State) (sid id pso dyn : Nat) (st : Strm) (p : Pkt) (g : GPass) (gs : GState) (vin : List Byte) (ks : List KDesc),
    s.canRun sid r.2 = some (st, p) → let v := s.dispatch sid st p
    (s.passOf sid = none ∨ s.gfx.states.get? sid = none → exec (r.1 sid) s = .next (v.ctxFault st.ctx 0x61)) ∧
    (s.passOf sid = some (id, g) → s.gfx.states.get? sid = some (pso, dyn) →
      (g.idle = false ∨ s.passHeld g = true → exec (r.1 sid) s = .next s) ∧
      (g.idle = true → s.passHeld g = false → p.acquire = false → v.drawState g pso dyn = (u, some (gs, vin, ks)) →
        let go (z : State) (ds : List GDraw) : State := ((z.updPass id fun q => { q with rest := ds }).drawNext id).nodeEnd sid
        (r.2 = 0x22 → ∃ d : GDraw, exec (r.1 sid) s = .next (go u [d]) ∧ d.num = g.ndraw ∧ d.st = gs ∧ d.vin = vin ∧ d.kds = ks ∧
          d.count = pw1 p.w 1 ∧ d.first = pw1 p.w 3 ∧ d.nInst = (if pw1 p.w 1 = 0 then 0 else pw1 p.w 2) ∧
          d.firstInst = pw1 p.w 4 ∧ d.idx = none) ∧
        (∀ w l, r.2 = 0x23 → pw1 p.w 3 ≠ 0 → pw1 p.w 4 ≠ 0 →
          u.readIndices g.ctx ((bitList g.clusters 48).headD 60) (pw2 p.w 1) (bits (pw1 p.w 8) 0 2) (bit (pw1 p.w 8) 2)
            ⟨pw1 p.w 3, pw1 p.w 4, pw1 p.w 5, pw1 p.w 6, pw1 p.w 7⟩ = (w, some l) →
          ∃ d : GDraw, exec (r.1 sid) s = .next (go w [d]) ∧ d.num = g.ndraw ∧ d.idx = some l ∧ d.count = pw1 p.w 3 ∧
            d.nInst = pw1 p.w 4 ∧ d.firstInst = pw1 p.w 7) ∧
        (∀ w ds, r.2 = 0x24 → State.indirect g gs vin ks p (List.range (pw1 p.w 3)) u [] = (w, some ds) →
          exec (r.1 sid) s = .next (go w ds) ∧ ds.length = pw1 p.w 3 ∧ ∀ k d, ds[k]? = some d → d.num = g.ndraw + k ∧ d.sub = k)))) ∧
  (∀ (s : State) (sid id : Nat) (st : Strm) (p : Pkt) (g : GPass), s.canRun sid 0x25 = some (st, p) →
    (s.passOf sid = none → exec (.renderPassEnd sid) s = .next ((s.dispatch sid st p).ctxFault st.ctx 0x61)) ∧
    (s.passOf sid = some (id, g) → g.idle = false → exec (.renderPassEnd sid) s = .next s) ∧
    (s.passOf sid = some (id, g) → s.gfx.passes.get? id = some g → g.idle = true → bit g.flags 1 = false →
      Answers (.renderPassEnd sid) s fun t => t.gfx.passes.get? id = some { g with phase := 3, tiles := g.allTiles, sigOk := [], pidEnd := p.pid } ∧
        t.passOf sid ≠ some (id, g) ∧
        t.mem = s.mem ∧ t.sh = s.sh)) ∧
  (∀ (s : State) (id : Nat) (p : GPass) (q : GPrim) (r : List GPrim) (gs : GState), s.gfx.passes.get? id = some p →
    p.states.get? q.draw = some gs → q.tileList gs p.w p.h ≠ [] → q.prim / 4096 ≤ p.binRun ∨ s.passHeld p = false → p.poolBytes < p.used + 32 + 48 * (gs.nout + 1) →
    State.binGo id (q :: r) s = if p.flushVa = 0 then s.ctxFault p.ctx 0x62
      else s.updPass id fun p => { p with toBin := q :: r, phase := 1 }) ∧
  (∀ (s : State) (id : Nat) (p : GPass) (q : GPrim) (r : List GPrim) (gs : GState), s.gfx.passes.get? id = some p →
    p.states.get? q.draw = some gs → s.passHeld p = true → p.binRun < q.prim / 4096 →
    State.binGo id (q :: r) s = s.updPass id fun p => { p with toBin := q :: r }) ∧
  (∀ (s : State) (p : GPass), (s.passHeld p = true ↔ ∀ c ∈ bitList p.clusters 48, s.passStops p c = true) ∧
    (p.prio ≠ 3 → ∀ c, s.passStops p c = s.stopCluster c) ∧
    (p.prio = 3 → s.asy.queue = [] → ∀ c, s.passStops p c = false))

/-- Tiles (R370, R380 to R387): the next tile starts on the first core of the pass with room and loads its attachments, a marked one
from the flush area; a shaded tile is stored, one whose signatures match leaving the image as it is; in a partial flush it is written
to the flush area. A partial flush shades the tiles that have entries, counts, and its first one of a pass raises its event. The
contents of the bin pool, the clock count of the status record, and a tile of a pass that shares its pool are free (log entry 40). -/
def Obligations.TilesAreShadedAndStored : Prop :=
  (∀ (s u : State) (id tile core : Nat) (r : List Nat) (p : GPass) (m : Memory), s.gfx.passes.get? id = some p → p.tiles = tile :: r →
    2 ≤ p.phase → s.ctxActive p.ctx = true → s.fe.held.contains p.part = false → s.saf.hold = false →
    let cores := (bitList p.clusters 48).flatMap fun c => (List.range 4).map (4 * c + ·)
    (cores.find? (s.tileFits p) = none → exec (.tileStart id) s = .next s) ∧
    (cores.find? (s.tileFits p) = some core →
      (if p.marked.contains tile then ∃ d, (s.setSplit core 3).vread p.ctx (core / 4) (p.flushVa + p.tileBytes * tile) p.tileBytes = (u, some d) ∧
          m = Memory.write [] 0 d
        else State.loadAtts p.ctx (core / 4) p tile p.atts (s.setSplit core 3) [] = (u, some m)) →
      let t0 : GTile := { idx := tile, core := core, mem := m, work := p.bins.filter fun b => b.tiles.contains tile }
      exec (.tileStart id) s = .next (({ u with sh := { u.sh with tileBytes := u.sh.tileBytes ++ [(core, p.coreBytes)] } }.updPass id fun q =>
        { q with tiles := r, run := q.run ++ [t0],
                 shaded := q.shaded + 1 }).tileGo id t0))) ∧
  (∀ (s : State) (c eng tile : Nat) (p : GPass) (a : Nat) (r : List Nat) (m : Memory), p.load a = 1 →
    State.loadAtts c eng p tile (a :: r) s m = State.loadAtts c eng p tile r s
      (m.write (p.attOff a) ((List.replicate (1024 * 2 ^ p.sm) (leBytes (p.bpp a) (p.clearVal a))).flatten))) ∧
  (∀ (s u : State) (id tile k : Nat) (p : GPass) (t : GTile), s.gfx.passes.get? id = some p →
    p.run.find? (fun t => t.idx == tile) = some t →
    (t.busy = true → exec (.tileStore id tile) s = .next s) ∧
    (s.poolShared id p = false → s.shownTile id p t = (t, s)) ∧
    (t.busy = false → s.ctxActive p.ctx = true → p.phase = 2 →
      (s.shownTile id p t).2.vwrite p.ctx (t.core / 4) (p.flushVa + p.tileBytes * tile)
        ((s.shownTile id p t).1.mem.read 0 p.tileBytes) = (u, true) →
      exec (.tileStore id tile) s = .next (u.tileDone' id (s.shownTile id p t).1 0)) ∧
    (t.busy = false → s.ctxActive p.ctx = true → p.phase ≠ 2 →
      State.storeAtts (t.core / 4) p (s.shownTile id p t).1 p.atts (s.shownTile id p t).2 0 = (u, some k) →
      exec (.tileStore id tile) s = .next (u.tileDone' id (s.shownTile id p t).1 k))) ∧
  (∀ (s u : State) (eng a k : Nat) (p : GPass) (t : GTile) (o : List Byte), p.store a ≠ 1 → bit p.flags 1 = true →
    s.vread p.ctx eng (p.sigVa a + 0x40 + 4 * t.idx) 4 = (u, some o) →
    let all := t.rows p a (p.store a == 2) ++ if p.store a = 3 then t.rows p a true else []
    let sig := crc32c ((t.rows p a (p.store a == 2)).flatMap (·.2))
    let skip := p.sigOk.contains a && !bit p.flags 2 && p.flushes == 0 && ofBytes o == sig
    State.storeAtts eng p t [a] s k =
      match State.putRows p.ctx eng ((if skip then [] else all) ++ [(p.sigVa a + 0x40 + 4 * t.idx, leBytes 4 sig)]) u with
      | (v, true) => (v, some (if skip then k + 1 else k))
      | (v, false) => (v, none)) ∧
  (∀ (s : State) (id : Nat) (p : GPass), s.gfx.passes.get? id = some p →
    (p.phase ≠ 1 → exec (.partialFlush id) s = .next s) ∧
    (p.phase = 1 → s.ctxActive p.ctx = true →
      let tiles := p.allTiles.filter fun k => p.bins.any fun b => b.tiles.contains k
      tiles ≠ [] → Answers (.partialFlush id) s fun t =>
        t.gfx.passes.get? id = some { p with phase := 2, flushes := p.flushes + 1, tiles := tiles } ∧ t.mem = s.mem ∧ t.sh = s.sh ∧
        (∀ k, k ≠ id → t.gfx.passes.get? k = s.gfx.passes.get? k) ∧
        (s.rd PMU_FIXED.GFX_FLUSHES + 1 < 2 ^ PMU_FIXED.GFX_FLUSHES.w - 1 →
          t.rd PMU_FIXED.GFX_FLUSHES = s.rd PMU_FIXED.GFX_FLUSHES + 1)))

/-- The texture and tile commands (R372, R388): an image or sampler descriptor that breaks its rules faults the context with
GFX_INVALID; otherwise each active lane takes its four components and nothing else of the group changes but through faults, a level
beyond the last reading as 0, and TEX.STORE writes the texels of the lanes that lie inside the image. ATTR.INTERP interpolates and
TILE.LD reads tile memory in a fragment stage, and both raise ILLEGAL elsewhere. Where operands stand follows log entry 43. -/
def Obligations.TexturesAndTiles : Prop :=
  (∀ r ∈ ([(.texSample, 1, 12, 0x10, State.texSampled), (.texFetch, 0, 8, 0x11, State.texFetched),
      (.texGather, 6, 12, 0x12, State.texGathered)] : List ((Nat → Ins → Instr) × Nat × Nat × Nat × (Ins → GEnv → Img → Smp → State → Nat → State × Option (List Nat)))),
    ∀ (s u v : State) (g : Nat) (i : Ins) (e0 e : GEnv) (x : Grp),
    i.x = 0 → Issues s ⟨6, some r.2.2.2.1⟩ g i false ([⟨i.dst, .v, 4⟩, ⟨i.src0, .v, e0.grp.texSpan i r.2.2.1⟩, ⟨i.src1, .s, r.2.2.1⟩] ++
      if r.2.2.1 = 8 ∨ r.2.1 = 1 ∧ bit i.md 0 = true then [⟨i.src2, .any, 1⟩] else []) r.2.1 false e0 u e →
    let m := e.grp.imgOf i.src1
    let p : Smp := if r.2.2.1 = 12 then e.grp.smpOf i.src1 else ⟨[]⟩
    (m.ok = false ∨ r.2.2.1 = 12 ∧ p.ok = false →
      exec (r.1 g i) s = .next (u.ctxFault e.grp.ctx 0x60 0 (clusterOf g) (trapDetail e.grp.pc g))) ∧
    (m.ok = true → (r.2.2.1 = 12 → p.ok = true) →
      State.texLanes (r.2.2.2.2 i e m p) i.dst (e.grp.lanesOf i) u e.grp = (v, some x) →
      Answers (r.1 g i) s fun t => GrpOnly v t g x ∧ x = { e.grp with v := x.v } ∧
        ∀ l k, l < 32 → bit (e.grp.active i) l = false ∨ k < i.dst ∨ i.dst + 4 ≤ k → x.rv l k = e.grp.rv l k)) ∧
  (∀ (s u : State) (g : Nat) (i : Ins) (e0 e : GEnv),
    i.x = 0 → Issues s ⟨6, some 0x11⟩ g i false [⟨i.dst, .v, 4⟩, ⟨i.src0, .v, e0.grp.texSpan i 8⟩, ⟨i.src1, .s, 8⟩, ⟨i.src2, .any, 1⟩] 0 false e0 u e →
    (e.grp.imgOf i.src1).ok = true →
    (∀ l ∈ e.grp.lanesOf i, (e.grp.imgOf i.src1).mips ≤ e.grp.src i .u32 32 i.src2 l) →
    Answers (.texFetch g i) s fun t => ∃ y, GrpOnly u t g y ∧ LaneWrite e.grp y i 4 (fun _ => (0, 0))) ∧
  (∀ (s u : State) (g : Nat) (i : Ins) (e0 e : GEnv), i.x = 0 →
    Issues s ⟨6, some 0x13⟩ g i false [⟨i.src0, .v, e0.grp.texSpan i 8⟩, ⟨i.src1, .s, 8⟩, ⟨i.src2, .v, 4⟩] 0 false e0 u e →
    let m := e.grp.imgOf i.src1
    (m.ok = false → exec (.texStore g i) s = .next (u.ctxFault e.grp.ctx 0x60 0 (clusterOf g) (trapDetail e.grp.pc g))) ∧
    (m.ok = true → exec (.texStore g i) s = .next (State.texStores e i m (e.grp.writers i) u)) ∧
    (m.ok = true → (∀ l ∈ e.grp.writers i, m.inside 0 (e.grp.coordsOf i m.coords l) = none) → exec (.texStore g i) s = .next u)) ∧
  (∀ (s u : State) (g : Nat) (i : Ins) (e0 e : GEnv),
    i.x = 0 → Issues s ⟨6, some 0x14⟩ g i false ([⟨i.dst, .v, 4⟩, ⟨i.src0, .inl, 1⟩] ++ if bit i.md 3 then [] else [⟨i.src2, .v, 2⟩]) 8 false e0 u e → u.gfx = s.gfx →
    (∀ p t q gs, s.fragOf e = some (p, t, q, gs) → e.grp.named i < gs.nout → Answers (.attrInterp g i) s fun t => ∃ y,
      GrpOnly u t g y ∧ y = { e.grp with v := y.v } ∧
      (∀ l k, l < 32 → k < 4 → bit (e.grp.active i) l = true → y.rv l (i.dst + k) = e.grp.interp i q l k % 2 ^ 32) ∧
      ∀ l k, l < 32 → bit (e.grp.active i) l = false ∨ k < i.dst ∨ i.dst + 4 ≤ k → y.rv l k = e.grp.rv l k) ∧
    (s.fragOf e = none → Traps (.attrInterp g i) s ⟨6, some 0x14⟩ i e0 1)) ∧
  (∀ (s u : State) (g : Nat) (i : Ins) (e0 e : GEnv), i.x = 0 →
    Issues s ⟨6, some 0x15⟩ g i false [⟨i.dst, .v, 4⟩, ⟨i.src0, .inl, 1⟩] 0 false e0 u e → u.gfx = s.gfx →
    (∀ p t q gs, s.fragOf e = some (p, t, q, gs) → p.atts.contains (e.grp.named i) = true → Answers (.tileLd g i) s fun v => ∃ y,
      GrpOnly u v g y ∧ y = { e.grp with v := y.v } ∧
      (∀ l k fq, l < 32 → k < 4 → bit (e.grp.active i) l = true → (fragLanes t.grp).find? (fun z => z.1 == l) = some fq →
        y.rv l (i.dst + k) = (texDec (p.fmt (e.grp.named i)) (t.get p (e.grp.named i) (fq.2.1.x + fq.2.2 % 2) (fq.2.1.y + fq.2.2 / 2)
          (fq.2.1.sample.getD ((bitList (fq.2.1.cov.getD fq.2.2 0) 8).headD 0)))).getD k 0 % 2 ^ 32) ∧
      ∀ l k, l < 32 → bit (e.grp.active i) l = false ∨ k < i.dst ∨ i.dst + 4 ≤ k → y.rv l k = e.grp.rv l k) ∧
    (s.fragOf e = none → Traps (.tileLd g i) s ⟨6, some 0x15⟩ i e0 1))

/-- Commits, frames and pipes (R394, R396 to R408, R410 to R412, R417): DISPLAY_COMMIT checks its descriptor and makes it the pipe's
pending commit, replacing one that is pending; a pipe's EN acts at a frame start; a pipe commit against R417 is refused and a valid
one of a disabled pipe applies at once. At a frame start FRAME rises and the pipe takes the first case of R404 that applies; a pipe
with no applied set shows the background. Late layer data shows the background and marks the frame; a region's CRC stands in VALUE
with the frame, and a mismatch counts; a written-back frame signals its number. A frame's layers are read at its frame start
(log entry 44). -/
def Obligations.DisplayCommitsAndFrames : Prop :=
  (∀ (s u w : State) (sid : Nat) (st : Strm) (k : Pkt) (b lb : List Byte), s.canRun sid 0x50 = some (st, k) →
    let v := s.dispatch sid st k
    let part := v.partOf st.ctx
    let p := bits (pw1 k.w 1) 0 2
    (bit (v.rd FE_PART.PIPES part) p = false → exec (.displayCommit sid) s = .next (v.ctxFault st.ctx 0xC3)) ∧
    (bit (v.rd FE_PART.PIPES part) p = true → v.vread st.ctx 62 (pw2 k.w 2) 64 = (u, some b) →
      (popc (u.rd GLZ_PIPE.LAYERS p) 24 < field b 0 1 → exec (.displayCommit sid) s = .next (u.ctxFault st.ctx 0x70 0 62)) ∧
      (field b 0 1 ≤ popc (u.rd GLZ_PIPE.LAYERS p) 24 → u.vread st.ctx 62 (pw2 k.w 2 + 64) (64 * field b 0 1) = (w, some lb) →
        let ls := (List.range (field b 0 1)).map fun i => layerOf ((lb.drop (64 * i)).take 64)
        let ok := commitOk b (w.rd GLZ_PIPE.OCSC p) && ls.all fun l => l.ok (w.rd GLZ_PIPE.H_ACTIVE p) (w.rd GLZ_PIPE.V_ACTIVE p)
        (ok = false → exec (.displayCommit sid) s = .next (w.ctxFault st.ctx 0x70 0 62)) ∧
        (ok = true → bit (field b 1 1) 0 = true → w.tallyOk part (field b 2 2) = false →
          exec (.displayCommit sid) s = .next (w.ctxFault st.ctx 0xC1 0 62)) ∧
        (ok = true → bit (field b 1 1) 0 = false → bit (field b 1 1) 1 = false → bit (field b 1 1) 3 = false →
          (∀ o, (w.pipe p).pend = some o → o.flag 1 = false) → Answers (.displayCommit sid) s fun t =>
          (t.pipe p).pend = some { ctx := st.ctx, raw := b, layers := ls } ∧ t.on GLZ_PIPE.PENDING p = true ∧ t.mem = w.mem ∧
          (t.pipe p).applied = (w.pipe p).applied ∧ (∀ q, q ≠ p → t.pipe q = w.pipe q) ∧
          ((w.pipe p).pend ≠ none → w.rd GLZ_PIPE.REPLACED p + 1 < 2 ^ 48 - 1 →
            t.rd GLZ_PIPE.REPLACED p = w.rd GLZ_PIPE.REPLACED p + 1))))) ∧
  (∀ (s : State) (p : Nat) (en : Bool), p < 4 → s.present 5 p = true → s.winUp .glz = true →
    (Answers (.pipeEnable p en) s fun t => t.on GLZ_PIPE.EN p = en ∧ WriteOnly s t [(GLZ_PIPE.EN, p), (GLZ_PIPE.FRAME, p)] ∧
      (en = true → s.on GLZ_PIPE.EN p = false → t.rd GLZ_PIPE.FRAME p = 0)) ∧
    (s.pipeChanged p = false → exec (.pipeCommit p) s = .next s) ∧
    (s.pipeChanged p = true → s.pipeCommitOk p = false → Answers (.pipeCommit p) s fun t => t.on CFG.REFUSED Blk.glz.idx = true ∧
      t.on CFG.CFG_ERR Blk.glz.idx = true ∧
      WriteEv s t [(CFG.REFUSED, Blk.glz.idx), (CFG.CFG_ERR, Blk.glz.idx), (CFG.ERR_OFFSET, Blk.glz.idx)]) ∧
    (s.pipeChanged p = true → s.pipeCommitOk p = true → s.on GLZ_PIPE.EN p = false → (s.pipe p).run = false →
      Answers (.pipeCommit p) s fun t =>
      ∀ F ∈ [GLZ_PIPE.OUT, GLZ_PIPE.LAYERS, GLZ_PIPE.PIXCLK, GLZ_PIPE.H_ACTIVE, GLZ_PIPE.V_ACTIVE], s.rdSh F p < 2 ^ F.w →
        t.rd F p = s.rdSh F p) ∧
    ((s.pipe p).rel = [] → (s.pipe p).relLut = [] → Answers (.pipeDiscard p) s fun t =>
      (∀ F ∈ [GLZ_PIPE.OUT, GLZ_PIPE.LAYERS, GLZ_PIPE.PIXCLK, GLZ_PIPE.H_ACTIVE, GLZ_PIPE.V_ACTIVE], t.rdSh F p = s.rd F p) ∧
        t = { s with shadows := t.shadows, glz := { s.glz with lutSh := t.glz.lutSh } })) ∧
  (∀ (s : State) (p : Nat), p < 4 → s.present 5 p = true → s.on GLZ_PIPE.EN p = true → (s.pipe p).rel = [] → (s.pipe p).relLut = [] →
    s.tickPipe ≠ p → Answers (.frameStart p) s fun t =>
      t.rd GLZ_PIPE.FRAME p = (s.rd GLZ_PIPE.FRAME p + 1) % 2 ^ 64 ∧ (t.pipe p).run = true ∧
      (match (s.pipe p).pend with
      | none => (t.pipe p).pend = none ∧ (t.pipe p).applied = (s.pipe p).applied ∧ t.on GLZ_PIPE.STALE p = s.on GLZ_PIPE.EXPECT p
      | some c =>
        if s.pendSeen c = false then
          (t.pipe p).pend = some c ∧ (t.pipe p).applied = (s.pipe p).applied ∧ t.on GLZ_PIPE.STALE p = true
        else if c.wait = 2 then (t.pipe p).pend = none ∧ (t.pipe p).applied = (s.pipe p).applied ∧ t.on GLZ_PIPE.STALE p = true ∧
          t.on GLZ_PIPE.POISON p = true
        else (t.pipe p).pend = none ∧ (t.pipe p).applied = some c ∧ t.on GLZ_PIPE.STALE p = false ∧ t.on GLZ_PIPE.BLANKED p = false ∧
          t.rd GLZ_PIPE.CTX p = c.ctx % 2 ^ GLZ_PIPE.CTX.w) ∧
      (t.on GLZ_PIPE.STALE p = true → t.rd GLZ_PIPE.STALE_RUN p = min 255 (s.rd GLZ_PIPE.STALE_RUN p + 1)) ∧
      (t.on GLZ_PIPE.STALE p = false → t.rd GLZ_PIPE.STALE_RUN p = 0) ∧
      ((s.pipe p).pend = none → (s.pipe p).applied = none → ∀ i < s.rd GLZ_PIPE.H_ACTIVE p * s.rd GLZ_PIPE.V_ACTIVE p,
        (t.pipe p).img[i]? = some (s.outPx p (pxOf (s.pipe p).bg)).word)) ∧
  (∀ (s : State) (p : Nat), p < 4 → s.present 5 p = true → s.on GLZ_PIPE.EN p = false → (s.pipe p).run = true →
    Answers (.frameStart p) s fun t => (t.pipe p).run = false ∧ (t.pipe p).applied = none ∧ (t.pipe p).pend = none) ∧
  (∀ mode pa a c d : Nat, pa ≤ 255 → a ≤ 255 → c ≤ 1023 → d ≤ 1023 → blendC mode pa a c d ≤ 1023 ∧ (pa = 255 → blendC 0 pa a c d = c) ∧
    (pa = 255 → a = 255 → blendC 1 pa a c d = c ∧ blendC 2 pa a c d = c) ∧ (a = 0 → blendC 2 pa a c d = d)) ∧
  (∀ (s : State) (p x y n : Nat), (s.pipe p).run = true → (s.pipe p).applied ≠ none → 0 < n → x < (s.pipe p).width →
    y * (s.pipe p).width + x < (s.pipe p).img.length → Answers (.layerUnderrun p x y n) s fun t =>
      t.on GLZ_PIPE.UNDERRUN p = true ∧ (t.pipe p).img.length = (s.pipe p).img.length ∧
      (∀ i < (s.pipe p).img.length, (t.pipe p).img[i]? =
        if y * (s.pipe p).width + x ≤ i ∧ i < y * (s.pipe p).width + x + n then some (s.outPx p (pxOf (s.pipe p).bg)).word
        else (s.pipe p).img[i]?) ∧
      (s.on GLZ_PIPE.UNDERRUN p = false → s.rd GLZ_PIPE.UNDERRUNS p + 1 < 2 ^ 48 - 1 →
        t.rd GLZ_PIPE.UNDERRUNS p = s.rd GLZ_PIPE.UNDERRUNS p + 1)) ∧
  (∀ (s : State) (p r : Nat), p < 4 → r < 16 → (s.pipe p).run = true → s.on GLZ_CRC.EN (16 * p + r) = true →
    (s.pipe p).crcDone.contains r = false →
    let i := 16 * p + r
    let g := s.pipe p
    let crc := crc32r 0xEDB88320 ((((List.range (s.rd GLZ_CRC.H i)).flatMap fun y =>
      (g.img.drop ((s.rd GLZ_CRC.Y i + y) * g.width + s.rd GLZ_CRC.X i)).take (s.rd GLZ_CRC.W i))).flatMap (leBytes 4))
    Answers (.crcRegionDone p r) s fun t =>
      t.rd GLZ_CRC.VALUE i = (crc + s.rd GLZ_PIPE.FRAME p % 2 ^ 32 * 2 ^ 32) % 2 ^ 64 ∧ (t.pipe p).img = g.img ∧ t.mem = s.mem ∧
      (s.on GLZ_CRC.CMP_EN i = true → crc ≠ s.rd GLZ_CRC.EXPECT i → s.rd GLZ_CRC.MISMATCH i + 1 < 2 ^ 48 - 1 →
        t.rd GLZ_CRC.MISMATCH i = s.rd GLZ_CRC.MISMATCH i + 1) ∧
      (s.on GLZ_CRC.CMP_EN i = false ∨ crc = s.rd GLZ_CRC.EXPECT i → t.rd GLZ_CRC.MISMATCH i = s.rd GLZ_CRC.MISMATCH i)) ∧
  (∀ (s : State) (p c tal fr : Nat) (r : List (Nat × Nat × Nat)), (s.pipe p).wb = (c, tal, fr) :: r →
    exec (.writebackDone p) s = .next ((s.updPipe p fun x => { x with wb := r }).signal tal fr))

/-- The display links (R413 to R416): GO trains a powered port, which ends UP at the committed rate and lanes, or with FALLBACK at
lower ones, or FAILED; a lost link, or HPD falling on one that is UP, is LOST and with AUTO_RETRAIN trains again; an AUX transaction
sends its fields and ends with its result, an acknowledged read giving its bytes; an A-PHY transmitter that is enabled locks and one
that loses lock counts a restart; a DSI short packet joins its FIFO, a full one setting CFG_ERR. -/
def Obligations.DisplayLinks : Prop :=
  ∀ (s : State) (o : Nat), o < 2 →
    (s.winUp .glz = true → s.present 6 o = true →
      (s.on GLZ_DP.EN o = true → Answers (.dpTrainGo o) s fun t => t.rd GLZ_DP.STATE o = 1 ∧ WriteOnly s { t with glz := s.glz } [(GLZ_DP.STATE, o)]) ∧
      (s.on GLZ_DP.EN o = false → exec (.dpTrainGo o) s = .next s) ∧
      (s.on GLZ_DP.AUX_BUSY o = true → Answers (.auxGo o) s fun t => t.on CFG.CFG_ERR Blk.glz.idx = true ∧
        WriteEv s t [(CFG.CFG_ERR, Blk.glz.idx), (CFG.ERR_OFFSET, Blk.glz.idx)]) ∧
      (s.on GLZ_DP.AUX_BUSY o = false → Answers (.auxGo o) s fun t => t.on GLZ_DP.AUX_BUSY o = true ∧
        t = { s with regs := t.regs, out := t.out } ∧ ∃ l, t.out = s.out ++ [.aux o l] ∧
        l.take 4 = [s.rd GLZ_DP.AUX_ADDR o, s.rd GLZ_DP.AUX_I2C o, s.rd GLZ_DP.AUX_WRITE o, s.rd GLZ_DP.AUX_LEN o + 1])) ∧
    (∀ rate lanes, rate < 8 → lanes < 4 → s.rd GLZ_DP.STATE o = 1 → s.glz.retrain.contains o = false → Answers (.dpTrainDone o true rate lanes) s fun t =>
      (rate = s.rd GLZ_DP.RATE o → lanes = s.rd GLZ_DP.LANES o → s.on GLZ_DP.FALLBACK o = false →
        t.rd GLZ_DP.STATE o = 2 ∧ t.rd GLZ_DP.RATE_ACT o = rate ∧ t.rd GLZ_DP.LANES_ACT o = lanes) ∧
      (s.on GLZ_DP.FALLBACK o = false → rate ≠ s.rd GLZ_DP.RATE o → t.rd GLZ_DP.STATE o = 3) ∧
      (s.on GLZ_DP.FALLBACK o = true → rate > s.rd GLZ_DP.RATE o ∨ lanes > s.rd GLZ_DP.LANES o → t.rd GLZ_DP.STATE o = 3)) ∧
    (∀ rate lanes, s.rd GLZ_DP.STATE o = 1 → Answers (.dpTrainDone o false rate lanes) s fun t => t.rd GLZ_DP.STATE o = 3) ∧
    (s.rd GLZ_DP.STATE o = 2 → Answers (.dpLinkLost o) s fun t =>
      t.rd GLZ_DP.STATE o = (if s.on GLZ_DP.AUTO_RETRAIN o = true then 1 else 4) ∧
      (s.on GLZ_DP.AUTO_RETRAIN o = true → t.glz.retrain.contains o = true ∧ (s.rd GLZ_DP.RETRAINS o + 1 < 2 ^ 48 - 1 →
        t.rd GLZ_DP.RETRAINS o = s.rd GLZ_DP.RETRAINS o + 1)) ∧ t.glz.pipes = s.glz.pipes) ∧
    (s.rd GLZ_DP.STATE o ≠ 2 → exec (.dpLinkLost o) s = .next s) ∧
    (∀ level, s.present 6 o = true → Answers (.hpdChange o level) s fun t => t.on GLZ_DP.HPD o = level ∧
      (s.on GLZ_DP.HPD o = false ∨ level = true ∨ s.rd GLZ_DP.STATE o ≠ 2 → t.rd GLZ_DP.STATE o = s.rd GLZ_DP.STATE o) ∧
      (s.on GLZ_DP.HPD o = true → level = false → s.rd GLZ_DP.STATE o = 2 → s.on GLZ_DP.AUTO_RETRAIN o = false →
        t.rd GLZ_DP.STATE o = 4)) ∧
    (∀ result data, s.on GLZ_DP.AUX_BUSY o = true → Answers (.auxDone o result data) s fun t => t.on GLZ_DP.AUX_BUSY o = false ∧
      t.rd GLZ_DP.AUX_RESULT o = result % 4 ∧ t = { s with regs := t.regs } ∧
      (result % 4 ≠ 0 ∨ s.on GLZ_DP.AUX_WRITE o = true → t.rd GLZ_DP.AUX_DATA0 o = s.rd GLZ_DP.AUX_DATA0 o ∧
        t.rd GLZ_DP.AUX_DATA1 o = s.rd GLZ_DP.AUX_DATA1 o) ∧
      (result % 4 = 0 → s.on GLZ_DP.AUX_WRITE o = false → s.rd GLZ_DP.AUX_LEN o = 7 → s.rd GLZ_DP.AUX_DATA0 o < 2 ^ 64 →
        t.rd GLZ_DP.AUX_DATA0 o = data % 2 ^ 64)) ∧
    (s.present 7 o = true → s.on GLZ_APHY.EN o = true → Answers (.aphyLinkLocked o) s fun t => t.on GLZ_APHY.LOCKED o = true ∧
      t.glz = s.glz ∧ t.mem = s.mem) ∧
    (s.on GLZ_APHY.LOCKED o = true → Answers (.aphyLockLost o) s fun t => t.on GLZ_APHY.LOCKED o = false ∧ t.glz = s.glz ∧
      (s.rd GLZ_APHY.RESTARTS o + 1 < 2 ^ 48 - 1 → t.rd GLZ_APHY.RESTARTS o = s.rd GLZ_APHY.RESTARTS o + 1)) ∧
    (s.winUp .glz = true → s.present 7 o = true → ∀ v : Nat,
      let q := (s.glz.dsi.get? o).getD []
      (16 ≤ q.length → Answers (.dsiCmd o v) s fun t => t.on CFG.CFG_ERR Blk.glz.idx = true ∧
        WriteEv s t [(CFG.CFG_ERR, Blk.glz.idx), (CFG.ERR_OFFSET, Blk.glz.idx)]) ∧
      (q.length < 16 → Answers (.dsiCmd o v) s fun t => t.glz.dsi.get? o = some (q ++ [v % 2 ^ 24]) ∧
        t.rd GLZ_APHY.CMD_USED o = min 15 (q.length + 1) ∧ t = { s with regs := t.regs, glz := { s.glz with dsi := t.glz.dsi } }))

/-- COPY, FILL and their end (R120, R121, R427): each takes the free present engine with the lowest number, marks it busy and
moves its bytes in ascending pieces of a line, but a COPY of
no bytes completes at once and needs none; the engine's end frees it and completes the packet.

Press jobs (R422 to R430): COMPRESS and DECOMPRESS read and check the descriptor; an invalid one faults the context with
PRESS_INVALID, a valid one takes the engine as a job. At its end a job without RESUME has read its whole input, its output is never
longer than OUT_BYTES, a compress job with OUT_FULL fills it, and its result is written and reported. -/
def Obligations.PressWork : Prop :=
  (
  (∀ (s : State) (sid : Nat) (st : Strm) (p : Pkt), s.canRun sid 0x40 = some (st, p) → pw2 p.w 5 = 0 →
    exec (.copy sid) s = .next ((s.dispatch sid st p).donePkt sid p.pid)) ∧
  (∀ (s : State) (sid e : Nat) (st : Strm) (p : Pkt), s.canRun sid 0x40 = some (st, p) → pw2 p.w 5 ≠ 0 → s.prsPick = some e →
    exec (.copy sid) s = .next
      ((s.prsMove sid st p e 1).copyLoop st.ctx e (pw2 p.w 5 / 128 + 1) (pw2 p.w 1) (pw2 p.w 3) (pw2 p.w 5)).1 ∧
    (s.prsMove sid st p e 1).rd PRS_ENG.WORK e = 1 ∧ bit ((s.prsMove sid st p e 1).rd PRS_STATUS.BUSY) e = true) ∧
  (∀ (s : State) (sid e : Nat) (st : Strm) (p : Pkt), s.canRun sid 0x41 = some (st, p) → s.prsPick = some e →
    exec (.fill sid) s = .next
      (State.fillLoop st.ctx e (leBytes 4 (pw1 p.w 5)) (pw2 p.w 3 / 128 + 1) (s.prsMove sid st p e 2) (pw2 p.w 1) (pw2 p.w 3)).1 ∧
    (s.prsMove sid st p e 2).rd PRS_ENG.WORK e = 2 ∧ bit ((s.prsMove sid st p e 2).rd PRS_STATUS.BUSY) e = true) ∧
  (∀ (s : State) (sid pid c e : Nat) (st : Strm), e < 4 → s.fe.copies.get? e = some (sid, pid, c) → s.ctxActive c = true →
    s.fe.strms.get? sid = some st →
    Answers (.copyComplete e) s fun t => t.rd PRS_ENG.WORK e = 0 ∧ bit (t.rd PRS_STATUS.BUSY) e = false ∧
      t.fe.copies.get? e = none ∧ t.pktDone sid pid ∧ t = { s with regs := t.regs, fe := t.fe, prs := t.prs } ∧
      ∀ k, k ≠ sid → t.fe.strms.get? k = s.fe.strms.get? k)
  ) ∧ (
  (∀ (s u : State) (sid e : Nat) (st : Strm) (p : Pkt) (d : List Byte), s.canRun sid 0x48 = some (st, p) → s.prsPick = some e →
    (s.dispatch sid st p).vread st.ctx (prsUnit e) (pw2 p.w 1) 64 = (u, some d) →
    (bit (field d 2 1) 0 = false ∨ ∀ q ∈ st.pkts, q.op = 0x48 → q.pid < p.pid → q.st = 2) →
    (pressOk d = false →
      exec (if field d 0 1 = 1 then .decompress sid else .compress sid) s = .next (u.ctxFault st.ctx 0x80 0 prsEng)) ∧
    (pressOk d = true → (bit (field d 2 1) 3 = true → u.tallyOk (u.partOf st.ctx) (field d 4 2) = true) →
      Answers (if field d 0 1 = 1 then .decompress sid else .compress sid) s fun t => t.rd PRS_ENG.WORK e = 3 ∧
        bit (t.rd PRS_STATUS.BUSY) e = true ∧ t = { u with regs := t.regs, prs := t.prs } ∧
        (∃ j, t.prs.jobs.get? e = some j ∧ j.sid = sid ∧ j.pid = p.pid ∧ j.ctx = st.ctx ∧ j.desc = d ∧
          j.ratio = if field d 3 1 = 0 then u.rd PRS_CFG.DEF_LOG2_RATIO else field d 3 1) ∧
        ∀ k, k ≠ e → ∀ j, t.prs.jobs.get? e = some j →
          t.prs.jobs.get? k = (u.prs.jobs.get? k).map fun x => { x with clash := x.clash || x.meets j })) ∧
  (∀ (s u : State) (e : Nat) (j : PJob) (inp : List Byte), s.prs.jobs.get? e = some j → s.ctxActive j.ctx = true →
    s.vread j.ctx (prsUnit e) (j.f 8 8) (j.f 0x10 8) = (u, some inp) → j.resume = false →
    ∃ r v, exec (.pressJobEnd e) s = .next (State.prsFinish v e j r) ∧ r.out.length ≤ j.f 0x20 8 ∧
      (j.f 0 1 = 0 → r.code = 1 → r.out.length = j.f 0x20 8) ∧ v = { u with freeCtr := v.freeCtr })
  )

/-! ## Ticks, memory, mesh, interrupts and CAN (chapters 16 to 20) -/

/-- Tick starts (R433 to R437): the internal timer starts a tick when its period is over, an edge of SYNC_IN unless it comes too
early, and the device itself when the external source stays away, which counts as MISSED and in FREE_RUN. A start raises the counter
by 1, takes the time, clears what the budgets used and EXHAUSTED, and gives every Realtime queue that runs no job its start-by and
deadline. Two edges within 8 fabric clocks are one. SYNC_OUT rises OFFSET_US after a start and falls WIDTH_US later.

Budgets and Realtime jobs (R439, R440, R444, R449 to R451): a used-up budget sets its EXHAUSTED bit and counts once a tick, and
from then on the partition's non-Realtime work is withheld. At its start-by a queue's job opens with every entry written so far and
holds its resources, or later when a WAIT blocks it, or not at all without entries. An open job is missed once at its deadline;
entries that first come before it open a job that is missed at once. When COMPLETED reaches J the job gives its resources back
and shows how late it was. -/
def Obligations.TicksBudgetsAndRealtime : Prop :=
  (
  let started (s t : State) (self : Bool) : Prop :=
    t.rd FE_TICK_COUNT.COUNT = (s.rd FE_TICK_COUNT.COUNT + 1) % 2 ^ 64 ∧ t.rd FE_TICK_TIME.TIME = s.now ∧
    (∀ p < 8, t.rd FE_BUDGET.CL_USED p = 0 ∧ t.rd FE_BUDGET.LM_USED p = 0 ∧ t.rd FE_BUDGET.PR_USED p = 0 ∧
      t.rd FE_BUDGET.EXHAUSTED p = 0) ∧
    t.on FE_TICK_STATUS.SELF = self ∧
    (∀ q ∈ s.rtQueues, (∀ r, s.rt.get? q = some r → r.phase ≠ 2) → t.rt.get? q = some
      { startBy := s.startBy q s.now, deadline := s.now + s.rd FE_RT.DEADLINE_US q * 1000 }) ∧
    t.tick = { s.tick with base := s.now, first := false, self := self, told := false, edge := t.tick.edge } ∧
    t.mem = s.mem ∧ t.sh = s.sh ∧ t.fe = s.fe ∧ t.tly = s.tly ∧ t.shadows = s.shadows
  let per (s : State) : Nat := s.rd FE_TICK_CFG.PERIOD_US * 1000
  let tol (s : State) : Nat := s.rd FE_TICK_CFG.TOL_US * 1000
  (∀ s : State, s.tick.run = true → s.tickSrc = 0 → s.tick.rel = [] → s.on DBG_TRACE.TRACE_EN = false → s.now < 2 ^ 64 →
    if s.tick.first = true ∨ s.tick.base + per s ≤ s.now then
      Answers .tickStart s fun t => started s t false ∧ t.rd FE_TICK_STATUS.FREE_RUN = 0
    else exec .tickStart s = .next s) ∧
  (∀ s : State, s.tick.rel = [] → s.on DBG_TRACE.TRACE_EN = false → s.now < 2 ^ 64 →
    let u := { s with tick := { s.tick with edge := some s.now } }
    (∀ e, s.tick.edge = some e → (s.now - e) * fabricMHz (s.rd PWR_LEVEL.CORE) < 8000 → exec .syncInEdge s = .next u) ∧
    ((∀ e, s.tick.edge = some e → 8000 ≤ (s.now - e) * fabricMHz (s.rd PWR_LEVEL.CORE)) →
      (s.tick.run = false ∨ s.tickSrc ≠ 1 → exec .syncInEdge s = .next u) ∧
      (s.tick.run = true → s.tickSrc = 1 →
        if s.tick.first = false ∧ s.now + tol s < s.tick.base + per s then
          Answers .syncInEdge s fun t => (s.rd FE_TICK_CTR.EARLY + 1 < 2 ^ 48 - 1 →
            t.rd FE_TICK_CTR.EARLY = s.rd FE_TICK_CTR.EARLY + 1 ∧ WriteOnly u t [(FE_TICK_CTR.EARLY, 0)])
        else Answers .syncInEdge s fun t => started s t false ∧ t.tick.edge = some s.now ∧ t.rd FE_TICK_STATUS.FREE_RUN = 0))) ∧
  (∀ s : State, s.tick.run = true → s.tickSrc ≠ 0 → s.tick.rel = [] → s.on DBG_TRACE.TRACE_EN = false → s.now < 2 ^ 64 →
    if s.tick.base + (per s + if s.tick.self = true then 0 else tol s) ≤ s.now then
      Answers .tickSelfStart s fun t => started s t true ∧ t.rd FE_TICK_STATUS.FREE_RUN = min (s.rd FE_TICK_STATUS.FREE_RUN + 1) 255 ∧
        (s.rd FE_TICK_CTR.MISSED + 1 < 2 ^ 48 - 1 → t.rd FE_TICK_CTR.MISSED = s.rd FE_TICK_CTR.MISSED + 1)
    else exec .tickSelfStart s = .next s) ∧
  (∀ s : State, exec .syncOutPulse s = .next (
    if s.tick.high then
      if s.tick.since + s.rd FE_TICK_OUT.WIDTH_US * 1000 ≤ s.now then
        { s with out := s.out ++ [.pin 2 0], tick := { s.tick with high := false } }
      else s
    else if s.on FE_TICK_OUT.EN ∧ s.rd FE_TICK_COUNT.COUNT ≠ s.tick.pulsed ∧
        s.rd FE_TICK_TIME.TIME + s.rd FE_TICK_OUT.OFFSET_US * 1000 ≤ s.now then
      { s with out := s.out ++ [.pin 2 1], tick := { s.tick with high := true, since := s.now, pulsed := s.rd FE_TICK_COUNT.COUNT } }
    else s))
  ) ∧ (
  (∀ (s : State) (p k : Nat), p < 8 → k < 3 → s.on FE_PART.EN p = true → s.on DBG_TRACE.TRACE_EN = false →
    let past := s.rd (limitFld k) p ≠ 0xFFFFFFFF ∧ 1000 * s.rd (limitFld k) p ≤ s.rd (usedFld k) p ∧ bit (s.rd FE_BUDGET.EXHAUSTED p) k = false
    (past → Answers (.budgetExhausted p k) s fun t => bit (t.rd FE_BUDGET.EXHAUSTED p) k = true ∧
      (∀ j < 3, j ≠ k → bit (t.rd FE_BUDGET.EXHAUSTED p) j = bit (s.rd FE_BUDGET.EXHAUSTED p) j) ∧
      (s.rd (exhFld k) p + 1 < 2 ^ 48 - 1 → t.rd (exhFld k) p = s.rd (exhFld k) p + 1) ∧
      (∀ q F, q ≠ p → F ∈ FE_BUDGET.fields → F ≠ FE_BUDGET.OVF → t.rd F q = s.rd F q) ∧
      (∀ st : Strm, t.partOf st.ctx = p → budgetBit st.cls = k → t.strmPrio st ≠ 3 → t.strmHeld st = true) ∧
      t = { s with regs := t.regs, irq := t.irq, out := t.out, freeCtr := t.freeCtr }) ∧
    (¬ past → exec (.budgetExhausted p k) s = .next s)) ∧
  (∀ (s : State) (q : Nat) (r : RtJob) (st : Strm), s.rt.get? q = some r → s.fe.strms.get? q = some st → s.on DBG_TRACE.TRACE_EN = false →
    r.phase = 0 ∨ r.phase = 4 → s.ctxActive (s.rd FE_Q.CTX q) = true →
    (s.now < r.startBy → exec (.startBy q) s = .next s) ∧
    (r.startBy ≤ s.now → Answers (.startBy q) s fun t =>
      t.rt.get? q = some (if st.waitPid.isSome then { r with phase := 4 }
        else if s.rd FE_Q.RPTR q ≠ s.rd FE_Q.WPTR q ∨ st.ents ≠ [] then { r with phase := 2, j := s.lastSeq q, holds := true }
        else { r with phase := 1 }) ∧
      (∀ k, k ≠ q → t.rt.get? k = s.rt.get? k) ∧ RegsKept s t [(FE_RT.START_BY, q)] ∧ t = { s with regs := t.regs, rt := t.rt })) ∧
  (∀ (s : State) (q : Nat) (r : RtJob), s.rt.get? q = some r → s.on DBG_TRACE.TRACE_EN = false → r.later = [] →
    (s.now < r.deadline ∨ r.phase = 3 ∨ (r.phase = 2 ∧ r.missed = true) → exec (.rtDeadline q) s = .next s) ∧
    (r.deadline ≤ s.now → r.phase = 2 → r.missed = false → Answers (.rtDeadline q) s fun t =>
      t.rt.get? q = some { r with missed := true } ∧ t.tick = { s.tick with told := true } ∧
      (s.rd FE_RT.MISSES q + 1 < 2 ^ 48 - 1 → t.rd FE_RT.MISSES q = s.rd FE_RT.MISSES q + 1) ∧
      (∀ k, k ≠ q → t.rt.get? k = s.rt.get? k) ∧ t.fe = s.fe ∧ t.sh = s.sh ∧ t.mem = s.mem ∧
      (s.tick.told = true → t.emcyQ = s.emcyQ)) ∧
    (r.deadline ≤ s.now → r.phase ∈ [0, 1, 4] → s.rtHeld q = true → Answers (.rtDeadline q) s fun t =>
      t.rt.get? q = some { r with phase := 2, j := s.lastSeq q, missed := true, holds := !s.rtWaits q } ∧
      (s.rd FE_RT.MISSES q + 1 < 2 ^ 48 - 1 → t.rd FE_RT.MISSES q = s.rd FE_RT.MISSES q + 1) ∧
      (∀ k, k ≠ q → t.rt.get? k = s.rt.get? k) ∧ t.fe = s.fe ∧ t.sh = s.sh ∧ t.mem = s.mem) ∧
    (r.deadline ≤ s.now → r.phase ∈ [0, 1, 4] → s.rtHeld q = false → Answers (.rtDeadline q) s fun t =>
      t.rt.get? q = some { r with phase := 3 } ∧ t.rd FE_RT.START_BY q = 0 ∧ WriteOnly { s with rt := t.rt } t [(FE_RT.START_BY, q)] ∧
      (∀ k, k ≠ q → t.rt.get? k = s.rt.get? k))) ∧
  (∀ (s : State) (q : Nat) (r : RtJob), s.rt.get? q = some r → s.on DBG_TRACE.TRACE_EN = false → r.phase = 2 →
    (s.rd FE_Q.COMPLETED q < r.j → exec (.rtJobComplete q) s = .next s) ∧
    (r.j ≤ s.rd FE_Q.COMPLETED q → Answers (.rtJobComplete q) s fun t =>
      (r.missed = true → t.rd FE_RT.LAST_LATE_US q = min ((s.now - r.deadline) / 1000) 0xFFFFFFFF) ∧
      t.rt.get? q = some (match r.later with
        | [] => { r with phase := 3, holds := false }
        | (sb, d, none) :: _ => { startBy := sb, deadline := d }
        | (sb, d, some j) :: l =>
          { startBy := sb, deadline := d, phase := 2, j := j, missed := true, holds := !s.rtWaits q, later := l }) ∧
      (∀ k, k ≠ q → t.rt.get? k = s.rt.get? k) ∧
      WriteOnly { s with rt := t.rt } t [(FE_RT.LAST_LATE_US, q), (FE_RT.START_BY, q)]))
  )

/-- The Sweep and scrubbing (R93, R463, R465 to R472, R474 to R476, R596, R606): a finished Sweep job has zeroed its range in HBM and in the
L2, and does what it was for: CLEARING follows, a claim counts its pages and signals, an ALLOC writes its result; a job that one accepted
before it goes ahead of, of its source or over its range, does not finish. Patrol scrub corrects
a codeword with errors in at most two symbols and counts it; with more, UNCORR counts and shared logic is at fault. A scrubbed SRAM's
corrected error counts; an uncorrectable one drops the L2 line, poisons it where it was dirty, or faults the context that owns the
data; a bad line of an instruction cache or entry of a translation cache goes, and one of the shared logic is a fault there. A stack's temperature is recorded, and at 105 °C the device goes off with FAULT_N asserted.

L2 maintenance (R481, R482): a GO with the committed OP cleans, invalidates, or cleans and invalidates every line of its scope and
sets BUSY; a GO while one runs sets CFG_ERR. A clean writes back every dirty byte, so that no reader sees another value, and leaves
no covered line dirty; an invalidate drops lines without a write-back. At the end BUSY clears and the Tally is signalled. -/
def Obligations.MemorySystem : Prop :=
  (
  (∀ (s : State) (j : SweepJob), s.mem.jobs.find? (fun k => k.id == j.id) = some j →
    (∀ k ∈ s.mem.jobs ++ s.mem.waitParts ++ s.mem.waitJobs, j.waitsFor k = false) → s.on PMU_CTL.EN = false → s.dev < 4 →
    let w := { s.sweepZero j with mem := { (s.sweepZero j).mem with jobs := s.mem.jobs.filter (fun k => k.id != j.id) } }
    let u := (w.sweepTake 64).clearSync
    let done (v : State) (sid pid : Nat) : State := v.updStrm sid fun st => if st.waitPid = some pid then { st with waitPid := none } else st
    let inR (L : Nat) : Prop := j.lo ≤ L * 128 ∧ L * 128 < j.hi ∧ L ∉ j.ahead ∧ s.inFw (L * 128) = false
    (∀ a, (inR (a / 128) → u.mem.hbm.get a = 0) ∧ (¬ inR (a / 128) → u.mem.hbm.get a = s.mem.hbm.get a)) ∧
    (∀ k, (k / 2 ^ 41 = s.dev ∧ inR (k % 2 ^ 41) → u.mem.l2.get? k = none)) ∧
    (∀ p < 8, u.on FE_PART.CLEARING p = ((u.mem.jobs ++ u.mem.waitParts).any (fun k => match k.done with
      | .part ps => ps.contains p
      | _ => false) || u.mem.ways.any (fun x => x.2.contains p))) ∧
    ((∀ k ∈ s.mem.waitParts ++ s.mem.waitJobs, k.id ≠ j.id) → ∀ k ∈ u.mem.jobs, k.id ≠ j.id) ∧
    exec (.sweepJobDone j.id) s = .next (match j.done with
      | .part _ => u
      | .claim t v pages reg sid pid =>
        let v1 := u.countN FE_CLAIM.CLAIMED 0 pages
        (if reg then v1.fl FE_CLAIM.BUSY 0 false else (done v1 sid pid).donePkt sid pid).signal t v
      | .alloc _ sid pid c res va =>
        let v1 := done u sid pid
        if v1.ctxActive c = false then v1.donePkt sid pid
        else if (v1.vwrite c 60 res (leBytes 8 va)).2 then (v1.vwrite c 60 res (leBytes 8 va)).1.donePkt sid pid
        else (v1.vwrite c 60 res (leBytes 8 va)).1)) ∧
  (∀ (s : State) (id : Nat), (∀ j ∈ s.mem.jobs, j.id = id → ∃ k ∈ s.mem.jobs ++ s.mem.waitParts ++ s.mem.waitJobs, j.waitsFor k = true) →
    exec (.sweepJobDone id) s = .next s) ∧
  (∀ (s : State) (L lo : Nat), s.on MC_SCRUB_CFG.EN = true → s.rd MC_STATUS.TRAIN (stackOf L) = 2 → L * 128 < s.hbmBytes →
    s.mem.upsets.get? (2 * L) = none → s.mem.upsets.get? (2 * L + 1) = none → L ∉ s.mem.poison → lo < 2 ^ 36 →
    exec (.patrolScrub L 0 0) s = .next s ∧
    (0 < popc lo 36 → popc lo 36 ≤ 2 → Answers (.patrolScrub L lo 0) s fun t => t.mem.hbm = s.mem.hbm ∧
      t.mem.upsets.get? (2 * L) = none ∧ t.mem.l2 = s.mem.l2 ∧ t.mem.poison = s.mem.poison ∧
      (s.rd MC_ECC_CTR.SCRUB_CORR (stackOf L) + 1 < 2 ^ MC_ECC_CTR.SCRUB_CORR.w - 1 →
        t.rd MC_ECC_CTR.SCRUB_CORR (stackOf L) = s.rd MC_ECC_CTR.SCRUB_CORR (stackOf L) + 1) ∧
      t.fe = s.fe ∧ t.sh = s.sh ∧ t.rd SAF_INC.OPEN 2 = s.rd SAF_INC.OPEN 2) ∧
    (2 < popc lo 36 → Answers (.patrolScrub L lo 0) s fun t => t.mem.upsets.get? (2 * L) = some lo ∧
      (s.rd MC_ECC_CTR.UNCORR (stackOf L) + 1 < 2 ^ MC_ECC_CTR.UNCORR.w - 1 →
        t.rd MC_ECC_CTR.UNCORR (stackOf L) = s.rd MC_ECC_CTR.UNCORR (stackOf L) + 1) ∧
      t.on SAF_STATUS.SHARED = true ∧ t.on SAF_INC.OPEN 2 = true ∧ t.on SAF_STATUS.FAULT = true)) ∧
  (∀ (s : State) (L lo hi : Nat), s.on MC_SCRUB_CFG.EN = false → exec (.patrolScrub L lo hi) s = .next s) ∧
  (∀ (s : State) (kind unit at_ c : Nat) (l : L2Line), exec (.sramScrub kind unit 0 at_ c) s = .next s ∧
    (s.mem.l2.get? at_ = some l → sliceOf (bits at_ 0 41) = unit →
      exec (.sramScrub 0 unit 1 at_ c) s = .next (s.count L2_SLICE_CTR.CORR unit) ∧
      (l.dirty = 0 → exec (.sramScrub 0 unit 2 at_ c) s = .next
        (({ s with mem := { s.mem with l2 := s.mem.l2.del at_ } } : State).count L2_SLICE_CTR.CORR unit)) ∧
      (l.dirty ≠ 0 → Answers (.sramScrub 0 unit 2 at_ c) s fun t => t.mem.l2 = s.mem.l2.del at_ ∧ t.mem.hbm = s.mem.hbm ∧
        (bits at_ 41 2 ≠ 3 → (s.mem.poison.filter (fun x => stackOf x == stackOf (bits at_ 0 41))).length < 256 →
          bits at_ 0 41 ∈ t.mem.poison) ∧
        (s.rd L2_SLICE_CTR.UNCORR unit + 1 < 2 ^ L2_SLICE_CTR.UNCORR.w - 1 →
          t.rd L2_SLICE_CTR.UNCORR unit = s.rd L2_SLICE_CTR.UNCORR unit + 1))) ∧
    (kind ∈ [1, 2, 3] → s.present 3 unit = true → exec (.sramScrub kind unit 1 at_ c) s = .next (s.corrCount 1 unit) ∧
      exec (.sramScrub kind unit 2 at_ c) s = .next (s.unitUncorr 1 unit (s.incOwner FE_PART.LOOMS unit) c (48 + unit))) ∧
    (s.present 0xC 0 = true → exec (.sramScrub 4 unit 1 at_ c) s = .next (s.corrCount 4 0) ∧
      exec (.sramScrub 4 unit 2 at_ c) s = .next (s.unitUncorr 4 0 8 c 63)) ∧
    (kind ∈ [5, 6] → s.present 1 unit = true → exec (.sramScrub kind unit 1 at_ c) s = .next (s.corrCount 0 unit) ∧
      exec (.sramScrub kind unit 2 at_ c) s = .next (s.unitUncorr 0 unit (s.incOwner FE_PART.CLUSTERS unit) c unit)) ∧
    (exec (.sramScrub 7 unit 1 at_ c) s = .next s ∧ Answers (.sramScrub 7 unit 2 at_ c) s fun t =>
      (∀ l, l ∈ t.sh.icache ↔ l ∈ s.sh.icache ∧ ¬ (l.cluster = unit ∧ l.ctx = c ∧ l.key = at_)) ∧
      t = { s with sh := { s.sh with icache := t.sh.icache } }) ∧
    (exec (.sramScrub 8 unit 1 at_ c) s = .next s ∧ exec (.sramScrub 8 unit 2 at_ c) s = .next s.uncorrShared) ∧
    (Answers (.sramScrub 9 unit 1 at_ c) s fun t => t.tlbFind unit c at_ = none ∧
      (∀ e ∈ s.mmu.tlb, e.eng ≠ unit ∨ e.ctx ≠ c → e ∈ t.mmu.tlb) ∧ t = { s with mmu := { s.mmu with tlb := t.mmu.tlb } }) ∧
    exec (.eyeRecentre unit c) s = .next s) ∧
  (∀ (s : State) (m t : Nat), m < 4 → s.rd MC_STATUS.TRAIN m = 2 → Answers (.hbmTempRead m t) s fun u =>
    u.rd MC_STATUS.TEMP m = t % 256 ∧ (u.pwr.hot.contains m ↔ 95 ≤ toSigned 8 t) ∧ (∀ k, k ≠ m → (u.pwr.hot.contains k ↔ s.pwr.hot.contains k)) ∧
    u.mem = s.mem ∧ u.sh = s.sh ∧
    (toSigned 8 t < 105 → u.pwr.off = s.pwr.off ∧ u.tick = s.tick ∧ u.rd SAF_STATUS.TMON = s.rd SAF_STATUS.TMON) ∧
    (105 ≤ toSigned 8 t → s.pwr.monOff = false → u.pwr.off = true ∧ u.tick.run = false ∧ u.fe.run = false ∧ u.on SAF_STATUS.TMON = true ∧
      u.on SAF_STATUS.FAULT = true))
  ) ∧ (
  (∀ (s : State) (op : Nat) (c : Instr), (op, c) ∈ [(0, Instr.l2Clean), (1, .l2Invalidate), (2, .l2CleanInvalidate)] → s.winUp .l2 = true →
    (s.on L2_MAINT.BUSY = true → Answers c s fun t => t.on CFG.CFG_ERR Blk.l2.idx = true ∧
      WriteEv s t [(CFG.CFG_ERR, Blk.l2.idx), (CFG.ERR_OFFSET, Blk.l2.idx)]) ∧
    (s.on L2_MAINT.BUSY = false → s.rd L2_MAINT.OP ≠ op → exec c s = .next s) ∧
    (s.on L2_MAINT.BUSY = false → s.rd L2_MAINT.OP = op → s.quietMem → (s.mem.l2.map (·.1)).Nodup → Answers c s fun t =>
      t.on L2_MAINT.BUSY = true ∧ t.on L2_STATUS.MAINT_BUSY = true ∧
      (∀ k l, s.mem.l2.get? k = some l →
        if s.maintCovers k l = false then t.mem.l2.get? k = some l
        else t.mem.l2.get? k = if op = 0 then some { l with dirty := 0 } else none) ∧
      (∀ k, s.mem.l2.get? k = none → t.mem.l2.get? k = none) ∧
      (op = 1 → t.mem.hbm = s.mem.hbm ∧ t.mem.host = s.mem.host) ∧
      (op ≠ 1 → ∀ pa, s.nearPa pa → t.lineByte pa = s.lineByte pa) ∧
      t = { s with regs := t.regs, irq := t.irq, out := t.out, freeCtr := t.freeCtr, ldg := t.ldg, saf := t.saf,
                   emcyQ := t.emcyQ, errField := t.errField, errReg := t.errReg, mem := t.mem })) ∧
  (∀ s : State, s.on L2_MAINT.BUSY = false → exec .l2MaintDone s = .next s) ∧
  (∀ s : State, s.on L2_MAINT.BUSY = true →
    (s.on L2_MAINT.TALLY_EN = false → Answers .l2MaintDone s fun t => t.on L2_MAINT.BUSY = false ∧
      (t.on L2_STATUS.MAINT_BUSY ↔ s.mem.ways ≠ []) ∧ WriteOnly s t [(L2_MAINT.BUSY, 0), (L2_STATUS.MAINT_BUSY, 0)]) ∧
    (s.on L2_MAINT.TALLY_EN = true → ∃ u : State, exec .l2MaintDone s = .next (u.signal (s.rd L2_MAINT.TALLY) (s.rd L2_MAINT.VALUE)) ∧
      u.on L2_MAINT.BUSY = false ∧ WriteOnly s u [(L2_MAINT.BUSY, 0), (L2_STATUS.MAINT_BUSY, 0)]))
  )

/-- Ports and errors on them (R485, R486, R494, R500, R501): training ends UP at the full width and rate, DEGRADED below, or DOWN; a
port that goes DOWN loses every mirror of its peer. An identity that fits joins the peer, and one that does not makes the port
MISWIRED. A higher epoch brings its manager, and with equal epochs the lower of two managers keeps the role (R499). A flit whose
replays have failed REPLAY_LIMIT times, or loss of lock, sends the port into retraining. -/
def Obligations.PortsTrainAndJoin : Prop :=
  let lost (s t : State) (d : Nat) : Prop := ∀ i < 256, t.rd PXL_MIRROR.STATE i =
    if s.rd PXL_MIRROR.STATE i = 1 ∧ s.rd PXL_MIRROR.HOME_DEV i = d then 2 else s.rd PXL_MIRROR.STATE i
  let trained (s : State) (p : Nat) (narrow slow : Bool) (lat : Nat) (t : State) : Prop :=
    let w := narrow || s.on PXL_PORT.WIDTH_MAX p
    let r := slow || s.on PXL_PORT.RATE_MAX p
    t.rd PXL_PORT.STATE p = (if w || r then 3 else 2) ∧ t.on PXL_PORT.WIDTH_ACT p = w ∧ t.on PXL_PORT.RATE_ACT p = r ∧
    t.rd PXL_PORT.LAT_NS p = lat % 2 ^ 16 ∧ (∀ q, q ≠ p → t.rd PXL_PORT.STATE q = s.rd PXL_PORT.STATE q) ∧
    (∀ i, t.rd PXL_MIRROR.STATE i = s.rd PXL_MIRROR.STATE i) ∧ t.mesh = s.mesh ∧ t.mem = s.mem ∧ t.tly = s.tly ∧ t.fe = s.fe
  let down (s : State) (p : Nat) (t : State) : Prop :=
    t.rd PXL_PORT.STATE p = 5 ∧ lost s t (peerOf s.dev p) ∧ (∀ q, q ≠ p → t.rd PXL_PORT.STATE q = s.rd PXL_PORT.STATE q) ∧
    (∀ i, t.tval i = s.tval i) ∧ t.tly = s.tly ∧ t.fe = s.fe ∧ t.mem = s.mem
  (∀ (s : State) (p : Nat) (narrow slow : Bool) (lat : Nat), p < 2 →
    (s.rd PXL_PORT.STATE p = 1 ∨ (s.rd PXL_PORT.STATE p = 5 ∧ s.on PXL_PORT.EN p = true) →
      Answers (.pxlTrainingDone p true narrow slow lat) s (trained s p narrow slow lat)) ∧
    (s.rd PXL_PORT.STATE p = 1 → Answers (.pxlTrainingDone p false narrow slow lat) s (down s p)) ∧
    (s.rd PXL_PORT.STATE p = 4 → Answers (.pxlRetrainDone p true narrow slow lat) s (trained s p narrow slow lat) ∧
      Answers (.pxlRetrainDone p false narrow slow lat) s (down s p)) ∧
    (s.rd PXL_PORT.STATE p ≠ 4 → ∀ ok, exec (.pxlRetrainDone p ok narrow slow lat) s = .next s)) ∧
  (∀ (s : State) (p family rev d mgr epoch : Nat), s.portOpen p = true →
    let fits := family = s.rd GLB_ID.FAMILY ∧ rev = s.rd GLB_REV.IFACE_REV ∧ d = peerOf s.dev p ∧ d ≤ 2 ∧ bit (s.rd PXL_CFG.EXPECT) d = true
    (¬ fits → Answers (.identityExchange p family rev d mgr epoch) s fun t => t.rd PXL_PORT.STATE p = 6 ∧
      t.rd PXL_STATUS.JOINED = s.rd PXL_STATUS.JOINED ∧ t.mesh = s.mesh) ∧
    (fits → s.mesh.silent = [] → mgr < 3 → epoch < 2 ^ 32 → s.dev < 3 → Answers (.identityExchange p family rev d mgr epoch) s fun t =>
      bit (t.rd PXL_STATUS.JOINED) d = true ∧ (∀ k < 3, k ≠ d → bit (t.rd PXL_STATUS.JOINED) k = bit (s.rd PXL_STATUS.JOINED) k) ∧
      t.rd PXL_PORT.PEER p = d ∧ t.mesh.hb.get? d = some s.now ∧ t.mem = s.mem ∧ t.fe = s.fe ∧ t.tly = s.tly ∧
      (s.rd PXL_STATUS.EPOCH < epoch → t.rd PXL_STATUS.EPOCH = epoch ∧ t.rd PXL_STATUS.MANAGER_ID = mgr ∧ (t.on GLB_DEVNUM.MANAGER ↔ mgr = s.dev)) ∧
      (epoch < s.rd PXL_STATUS.EPOCH → t.rd PXL_STATUS.EPOCH = s.rd PXL_STATUS.EPOCH ∧
        t.rd PXL_STATUS.MANAGER_ID = s.rd PXL_STATUS.MANAGER_ID ∧ t.rd GLB_DEVNUM.MANAGER = s.rd GLB_DEVNUM.MANAGER) ∧
      (epoch = s.rd PXL_STATUS.EPOCH → mgr = d → s.on GLB_DEVNUM.MANAGER = true → s.rd PXL_STATUS.MANAGER_ID = s.dev →
        t.rd PXL_STATUS.MANAGER_ID = min d s.dev ∧ (t.on GLB_DEVNUM.MANAGER ↔ s.dev ≤ d)))) ∧
  (∀ (s : State) (p : Nat), s.portOpen p = true →
    let re (t : State) : Prop := t.rd PXL_PORT.STATE p = 4 ∧
      (s.rd PXL_PORT.RETRAINS p + 1 < 2 ^ 48 - 1 → t.rd PXL_PORT.RETRAINS p = s.rd PXL_PORT.RETRAINS p + 1) ∧
      (∀ i, t.rd PXL_MIRROR.STATE i = s.rd PXL_MIRROR.STATE i) ∧ t.mem = s.mem ∧ t.tly = s.tly
    Answers (.lossOfLock p) s re ∧
    ((s.mesh.replays.get? p).getD 0 + 1 ≥ s.rd PXL_CFG.REPLAY_LIMIT → Answers (.flitNak p true) s re) ∧
    (∀ again, (again = true → (s.mesh.replays.get? p).getD 0 + 1 < s.rd PXL_CFG.REPLAY_LIMIT) → Answers (.flitNak p again) s fun t =>
      t.mesh.replays.get? p = some (if again then (s.mesh.replays.get? p).getD 0 + 1 else 0) ∧
      (s.rd PXL_PORT.REPLAYS p + 1 < 2 ^ 48 - 1 → t.rd PXL_PORT.REPLAYS p = s.rd PXL_PORT.REPLAYS p + 1) ∧
      t = { s with regs := t.regs, irq := t.irq, out := t.out, freeCtr := t.freeCtr, mesh := { s.mesh with replays := t.mesh.replays } }))

/-- The manager role (R496 to R499, R540): a heartbeat leaves every 100 µs on each link, and one that arrives restarts its peer's
silence timer. A silent peer is reported to the others and its mirrors are lost; the successor takes the role when the manager
resigns, or is silent here with a majority of EXPECT or EXPECT of two, and else sets NO_QUORUM. A takeover raises the epoch by 1,
takes the old manager out of JOINED and brings TAKEOVER_SRC into effect. A higher epoch's message is followed. -/
def Obligations.MeshRoles : Prop :=
  let took (s t : State) : Prop := t.on GLB_DEVNUM.MANAGER = true ∧ t.rd PXL_STATUS.MANAGER_ID = s.dev ∧
    t.rd PXL_STATUS.EPOCH = (s.rd PXL_STATUS.EPOCH + 1) % 2 ^ 32 ∧ t.on PXL_STATUS.NO_QUORUM = false ∧
    (∀ k < 3, bit (t.rd PXL_STATUS.JOINED) k = (bit (s.rd PXL_STATUS.JOINED) k && k != s.rd PXL_STATUS.MANAGER_ID)) ∧
    t.tickSrc = (if s.rd FE_TICK_CFG.SRC = 4 then s.rd PXL_CFG.TAKEOVER_SRC else s.rd FE_TICK_CFG.SRC) ∧
    (∀ p < 2, s.portOpen p = true → Out.pxl p 8 [s.dev, s.rd PXL_STATUS.EPOCH + 1] ∈ t.out) ∧ t.tly = s.tly ∧ t.mem = s.mem ∧ t.fe = s.fe
  (∀ s : State,
    (∀ t0, s.mesh.sent = some t0 → s.now < t0 + 100000 → exec .heartbeatSend s = .next s) ∧
    ((∀ t0, s.mesh.sent = some t0 → t0 + 100000 ≤ s.now) → Answers .heartbeatSend s fun t =>
      t = { s with mesh := { s.mesh with sent := some s.now }, out := t.out } ∧ ∀ p < 2, s.peerUp p = true →
        Out.pxl p 5 [s.rd GLB_DEVNUM.MANAGER, s.rd PXL_STATUS.EPOCH, s.rd FE_TICK_COUNT.COUNT, s.rd SAF_STATUS.LEVEL] ∈ t.out)) ∧
  (∀ (s : State) (p : Nat), s.peerUp p = true → peerOf s.dev p ∉ s.mesh.silent →
    exec (.heartbeatReceive p) s = .next { s with mesh := { s.mesh with hb := s.mesh.hb.put (peerOf s.dev p) s.now } }) ∧
  (∀ (s : State) (p : Nat), s.peerUp p = false → exec (.heartbeatReceive p) s = .next s) ∧
  (∀ (s : State) (p : Nat), s.peerUp p = true → Answers (.heartbeatReceive p) s fun t => peerOf s.dev p ∉ t.mesh.silent ∧
    t.mesh.hb.get? (peerOf s.dev p) = some s.now) ∧
  (∀ (s : State) (d t0 : Nat), s.mesh.hb.get? d = some t0 → bit (s.rd PXL_STATUS.JOINED) d = true → d ≠ s.dev → d ∉ s.mesh.silent → s.dev < 3 →
    (s.now < t0 + s.rd PXL_CFG.HB_TIMEOUT_US * 1000 → exec (.hbTimeout d) s = .next s) ∧
    (t0 + s.rd PXL_CFG.HB_TIMEOUT_US * 1000 ≤ s.now → Answers (.hbTimeout d) s fun t =>
      d ∈ t.mesh.silent ∧ (∀ i < 256, s.rd PXL_MIRROR.STATE i = 1 → s.rd PXL_MIRROR.HOME_DEV i = d → t.rd PXL_MIRROR.STATE i = 2) ∧
      (∀ i, t.tval i = s.tval i) ∧ t.tly = s.tly ∧
      (∀ p < 2, s.peerUp p = true → peerOf s.dev p ≠ d → Out.pxl p 6 [d, 1] ∈ t.out) ∧
      (s.isSuccessor = true → d = s.rd PXL_STATUS.MANAGER_ID →
        let n := popc (s.rd PXL_CFG.EXPECT) 3
        let k := ((bitList (s.rd PXL_CFG.EXPECT) 3).filter fun x => x = s.dev ∨ (x, d) ∈ s.mesh.reports).length
        if n = 2 ∨ n < 2 * k then took s t
        else t.on PXL_STATUS.NO_QUORUM = true ∧ t.rd GLB_DEVNUM.MANAGER = s.rd GLB_DEVNUM.MANAGER ∧
          t.rd PXL_STATUS.MANAGER_ID = s.rd PXL_STATUS.MANAGER_ID ∧ t.rd PXL_STATUS.EPOCH = s.rd PXL_STATUS.EPOCH) ∧
      (s.isSuccessor = false → t.rd GLB_DEVNUM.MANAGER = s.rd GLB_DEVNUM.MANAGER ∧ t.rd PXL_STATUS.MANAGER_ID = s.rd PXL_STATUS.MANAGER_ID))) ∧
  (∀ (s : State) (p d : Nat), s.peerUp p = true → d ≤ 2 → s.dev < 3 →
    (Answers (.silenceReport p d false) s fun t => (peerOf s.dev p, d) ∉ t.mesh.reports) ∧
    (Answers (.silenceReport p d true) s fun t => (peerOf s.dev p, d) ∈ t.mesh.reports ∧
      (s.isSuccessor = true → d = s.rd PXL_STATUS.MANAGER_ID → d ∈ s.mesh.silent →
        (∃ l : List Nat, l.Nodup ∧ popc (s.rd PXL_CFG.EXPECT) 3 < 2 * l.length ∧ ∀ x ∈ l, x < 3 ∧ bit (s.rd PXL_CFG.EXPECT) x = true ∧
          (x = s.dev ∨ x = peerOf s.dev p ∨ (x, d) ∈ s.mesh.reports)) → took s t)) ∧
    (s.isSuccessor = true → s.rd PXL_STATUS.MANAGER_ID = peerOf s.dev p → Answers (.resign p) s (took s)) ∧
    (s.isSuccessor = false → exec (.resign p) s = .next s)) ∧
  (∀ (s : State) (p e : Nat), s.portOpen p = true → e < 2 ^ 32 → s.dev < 3 →
    (s.rd PXL_STATUS.EPOCH < e → Answers (.managerMessage p e) s fun t => t.rd PXL_STATUS.EPOCH = e ∧
      t.rd PXL_STATUS.MANAGER_ID = peerOf s.dev p % 4 ∧ (t.on GLB_DEVNUM.MANAGER ↔ peerOf s.dev p = s.dev) ∧ t.on PXL_STATUS.NO_QUORUM = false) ∧
    (e ≤ s.rd PXL_STATUS.EPOCH → exec (.managerMessage p e) s = .next s)) ∧
  (∀ (s : State) (w : Nat), bit (s.rd PXL_STATUS.JOINED) s.dev = true → s.dev < 3 → s.mesh.told = none →
    (s.on GLB_DEVNUM.MANAGER = true → exec (.healthWord s.dev w) s = .next { s with
      mesh := { s.mesh with told := some s.now, health := s.mesh.health.put s.dev s.healthWord } }) ∧
    (s.on GLB_DEVNUM.MANAGER = true → ∀ d, d < 3 → d ≠ s.dev → bit (s.rd PXL_STATUS.JOINED) d = true → s.peerUp (portTo s.dev d) = true →
      exec (.healthWord d w) s = .next { s with mesh := { s.mesh with health := s.mesh.health.put d (w % 2 ^ 32) } }) ∧
    (s.on GLB_DEVNUM.MANAGER = false → Answers (.healthWord s.dev w) s fun t => t = { s with
      mesh := { s.mesh with told := some s.now }, out := t.out } ∧ ∀ p < 2, s.peerUp p = true → peerOf s.dev p = s.rd PXL_STATUS.MANAGER_ID →
        Out.pxl p 9 [s.healthWord] ∈ t.out))

/-- Traffic (R88, R140, R436, R488, R493, R495, R501, R503): a request of a joined peer reads, writes or changes shared memory and
shared Tallies and is answered; one outside of them gets an error response and counts in VIOL, as every request during a warm
reset does without the count. A mirror's registration holds a wait of the home Tally and tells its value, and one of a Tally that
is not shared is refused. A forwarded value is an export write on the local Tally of a BOUND mirror; a refused mirror is LOST. A
broadcast of a higher tick number sets the counter to it; one that is not above counts in SKEW. A request without a completion
faults its context with REMOTE_TIMEOUT. -/
def Obligations.MeshTraffic : Prop :=
  (∀ (s : State) (p kind a n op : Nat) (data : List Nat), s.peerUp p = true →
    let req := Instr.remoteRequest p kind a n op data
    let pa := s.dev * 2 ^ 48 + a
    let t := (a - 0xFFFFFFF80000) / 64
    let o := (a - 0xFFFFFFF80000) % 64
    let aperture := 0xFFFFFFF80000 ≤ a ∧ a < 2 ^ 48
    let bs := data.map (BitVec.ofNat 8)
    let bad : Prop := Answers req s fun u => u.mem = s.mem ∧ u.tly = s.tly ∧ (∀ i, u.tval i = s.tval i) ∧ Out.pxl p 15 [1] ∈ u.out ∧
      (s.rd PXL_PORT.VIOL p + 1 < 2 ^ 48 - 1 → u.rd PXL_PORT.VIOL p = s.rd PXL_PORT.VIOL p + 1)
    (s.on RST_STATUS.WARM_ACTIVE = true → exec req s = .next { s with out := s.out ++ [.pxl p 15 [1]] }) ∧
    (s.on RST_STATUS.WARM_ACTIVE = false →
      (kind = 1 → aperture → n = 8 → a % 8 = 0 → s.sharedTally t = true → exec req s = .next { s with
        out := s.out ++ [.pxl p 15 (0 :: (leBytes 8 (s.slotWord t o)).map (·.toNat))] }) ∧
      (kind = 1 → ¬ aperture → s.sharedMem a n = true → ∀ u d, s.physRead pa n 0 = (u, d, 0) → exec req s = .next { u with
        out := u.out ++ [.pxl p 15 (0 :: d.map (·.toNat))] }) ∧
      (kind = 2 → aperture → bs.length = 8 → o = 8 → s.sharedTally t = true → exec req s = .next { s.signal t (ofBytes bs) with
        out := (s.signal t (ofBytes bs)).out ++ [.pxl p 15 [0]] }) ∧
      (kind = 2 → ¬ aperture → s.sharedMem a bs.length = true → ∀ u, s.physWrite pa 0 bs = (u, 0) → exec req s = .next { u with
        out := u.out ++ [.pxl p 15 [0]] }) ∧
      (kind = 0 → ¬ aperture → n = 4 ∨ n = 8 → a % n = 0 → s.sharedMem a n = true → ∀ at_ ∈ atomOps, op = at_.code →
        ∀ u d v, s.physRead pa n 0 = (u, d, 0) →
        u.physWrite pa 0 (leBytes n (at_.applyAll (8 * n) (ofBytes d) data)) = (v, 0) →
        exec req s = .next { v with out := v.out ++ [.pxl p 15 (0 :: d.map (·.toNat))] }) ∧
      (kind = 1 ∨ kind = 2 ∨ kind = 0 → ¬ aperture → s.sharedMem a (if kind = 2 then bs.length else n) = false → bad) ∧
      (kind = 3 → s.sharedTally a = false → bad) ∧
      (kind = 3 → s.sharedTally a = true → Answers req s fun u => ∃ v : State, v = s.signalChain 8192 a (data.headD 0 % 2 ^ 64) true ∧
        u = { v with out := v.out ++ [.pxl p 15 [0]] }) ∧
      (kind = 11 → s.sharedTally a = true → (∀ w ∈ s.tly.waits, w.who ≠ .remote p n) → 0 < s.rd TLY_POOL.FREE → Answers req s fun u =>
        u.tly.waits = s.tly.waits ++ [{ tally := a, target := poison, who := .remote p n, polling := false }] ∧
        u.out = s.out ++ [.pxl p 12 [n, s.tval a]] ∧ u.rd TLY_POOL.FREE = (s.rd TLY_POOL.FREE - 1) % 2 ^ TLY_POOL.FREE.w) ∧
      (kind = 11 → s.sharedTally a = false → Answers req s fun u => u.tly = s.tly ∧ Out.pxl p 13 [n] ∈ u.out) ∧
      (kind = 14 → exec req s = .next (s.dropWaits (.remote p n))))) ∧
  (∀ (s : State) (i v : Nat), i < 256 → s.on PXL_MIRROR.EN i = true → s.rd PXL_MIRROR.STATE i = 1 →
    (s.peerUp (portTo s.dev (s.rd PXL_MIRROR.HOME_DEV i)) = true →
      exec (.forwardedSignal i v) s = .next (s.signalChain 8192 (s.rd PXL_MIRROR.LOCAL_TALLY i) (v % 2 ^ 64) true)) ∧
    (Answers (.mirrorRefused i) s fun t => t.rd PXL_MIRROR.STATE i = 2 ∧ WriteEv s t [(PXL_MIRROR.STATE, i)])) ∧
  (∀ (s : State) (i v : Nat), s.rd PXL_MIRROR.STATE i ≠ 1 → exec (.forwardedSignal i v) s = .next s ∧ exec (.mirrorRefused i) s = .next s) ∧
  (∀ (s : State) (p n : Nat), s.peerUp p = true → s.rd PXL_STATUS.MANAGER_ID = peerOf s.dev p → s.tick.run = true → s.tickSrc = 4 →
    s.tick.rel = [] → s.on DBG_TRACE.TRACE_EN = false → n < 2 ^ 64 → s.now < 2 ^ 64 →
    let early := s.tick.first = false ∧ s.now + s.rd FE_TICK_CFG.TOL_US * 1000 < s.tick.base + s.rd FE_TICK_CFG.PERIOD_US * 1000
    (early → Answers (.tickBroadcast p n) s fun t => t.rd FE_TICK_COUNT.COUNT = s.rd FE_TICK_COUNT.COUNT ∧ t.tick = s.tick) ∧
    (¬ early → Answers (.tickBroadcast p n) s fun t => t.rd FE_TICK_TIME.TIME = s.now ∧ t.rd FE_TICK_STATUS.FREE_RUN = 0 ∧
      t.rd FE_TICK_COUNT.COUNT = (if s.rd FE_TICK_COUNT.COUNT < n then n else (s.rd FE_TICK_COUNT.COUNT + 1) % 2 ^ 64) ∧
      (n ≤ s.rd FE_TICK_COUNT.COUNT → s.rd FE_TICK_CTR.SKEW + 1 < 2 ^ 48 - 1 →
        t.rd FE_TICK_CTR.SKEW = s.rd FE_TICK_CTR.SKEW + 1))) ∧
  (∀ (s : State) (c eng d : Nat), c < 1024 → eng < 64 → d < 3 → d ≠ s.dev → s.ctxActive c = true → bit (s.rd PXL_STATUS.JOINED) d = true →
    exec (.reqTimeout c eng d) s = .next ((s.count PXL_PORT.REQ_ERR (portTo s.dev d)).ctxFault c 0xA1 0 eng))

/-- Sources and claims (R504, R505, R507 to R510): a level source's ASSERTED follows its condition, and a pending source stays pending. A
read of CLAIM takes the lowest pending source of the target and says whether more remain, or 0x7FF. The claimant's COMPLETE makes an
edge source with REFIRE, or a level source that is still asserted, pending again, and any other idle; one that is not the claimant's
sets CFG_ERR. RELEASE ends a host target's claim in the same way. A mask write takes effect at once, and the PF cannot write FM_MASK.

Moderation and software sources (R505, R511, R512): held notifications leave as one message when the timer has run, or when
IDLE_HINT is set, which the message clears; a message for a masked entry or a disabled function sets the pending bit, and an unmask
sends one message for it. A write of INTC_SW asserts its sources, which become pending where they are idle; one of INTC_SW_CLR
deasserts them and leaves a pending source pending. -/
def Obligations.SourcesAndMessages : Prop :=
  (
  let ended (s t : State) (n : Nat) : Prop :=
    let again := if srcIsLevel n then s.levelCond n else s.on INTC_SRC.REFIRE n
    t.rd INTC_SRC.STATE n = (if again then 1 else 0) ∧ t.rd INTC_SRC.CLAIMANT n = 0 ∧
    (srcIsLevel n = false → t.on INTC_SRC.REFIRE n = false) ∧ (∀ k, k ≠ n → k ≠ 0x2F → t.rd INTC_SRC.STATE k = s.rd INTC_SRC.STATE k) ∧
    WriteEv s t [(INTC_SRC.CLAIMANT, n)]
  let cfg (s t : State) : Prop := t.on CFG.CFG_ERR Blk.intc.idx = true ∧
    WriteEv s t [(CFG.CFG_ERR, Blk.intc.idx), (CFG.ERR_OFFSET, Blk.intc.idx)]
  (∀ (s : State) (n : Nat),
    (srcIsLevel n = true → s.levelCond n = false → Answers (.sourceDeassert n) s fun t => t.on INTC_SRC.ASSERTED n = false ∧
      WriteOnly s t [(INTC_SRC.ASSERTED, n)]) ∧
    (srcIsLevel n = false ∨ s.levelCond n = true → exec (.sourceDeassert n) s = .next s)) ∧
  (∀ (s : State) (t : Nat), t < 66 → t < 2 ∨ s.winUp .intc = true → s.regs.sorted = true →
    let can (k : Nat) : Prop := s.rd INTC_SRC.STATE k = 1 ∧ s.inMask t k = true
    ((∀ k, ¬ can k) → exec (.intcClaim t) s = .next { s with rdata := 0x7FF }) ∧
    ∀ n, can n → (∀ k, k < n → ¬ can k) → Answers (.intcClaim t) s fun u => u.rd INTC_SRC.STATE n = 2 ∧ u.rd INTC_SRC.CLAIMANT n = t ∧
      ((∃ k, n < k ∧ can k) → u.rdata = n + 0x10000) ∧ ((∀ k, n < k → ¬ can k) → u.rdata = n) ∧
      WriteOnly { s with rdata := u.rdata } u [(INTC_SRC.STATE, n), (INTC_SRC.CLAIMANT, n)]) ∧
  (∀ (s : State) (t n : Nat), t < 66 → t < 2 ∨ s.winUp .intc = true →
    (n < 2048 → s.rd INTC_SRC.STATE n = 2 → s.rd INTC_SRC.CLAIMANT n = t → Answers (.intcComplete t n) s fun u => ended s u n) ∧
    (¬ (n < 2048 ∧ s.rd INTC_SRC.STATE n = 2 ∧ s.rd INTC_SRC.CLAIMANT n = t) → Answers (.intcComplete t n) s (cfg s))) ∧
  (∀ (s : State) (n : Nat), n < 2048 → s.winUp .intc = true →
    (s.rd INTC_SRC.STATE n ≠ 2 → exec (.intcRelease n) s = .next s) ∧
    (s.rd INTC_SRC.STATE n = 2 → s.rd INTC_SRC.CLAIMANT n < 2 → Answers (.intcRelease n) s (cfg s)) ∧
    (s.rd INTC_SRC.STATE n = 2 → 2 ≤ s.rd INTC_SRC.CLAIMANT n → Answers (.intcRelease n) s fun u => ended s u n)) ∧
  (∀ (s : State) (n v : Nat), srcExists n = true → s.winUp .intc = true → v < 2 ^ 64 →
    (Answers (.maskWrite false true n v) s fun t => t.rd INTC_SRC.HOST_MASK n = v ∧ WriteEv s t [(INTC_SRC.HOST_MASK, n)] ∧
      (s.rd INTC_SRC.STATE n ≠ 1 → WriteOnly s t [(INTC_SRC.HOST_MASK, n)]) ∧ ∀ k, k ≠ 0x2F → t.rd INTC_SRC.STATE k = s.rd INTC_SRC.STATE k) ∧
    (Answers (.maskWrite true true n v) s (cfg s)) ∧
    (s.on RST_BOOT_STEP.STATE 6 = true → s.rd RST_BOOT_STEP.STATE 7 ≠ 2 → Answers (.maskWrite true false n v) s fun t =>
      t.rd INTC_SRC.FM_MASK n = v % 4 ∧ WriteEv s t [(INTC_SRC.FM_MASK, n)]) ∧
    (s.on RST_BOOT_STEP.STATE 6 = false ∨ s.rd RST_BOOT_STEP.STATE 7 = 2 → exec (.maskWrite true false n v) s = .next s))
  ) ∧ (
  let sent (s t : State) (v : Nat) : Prop := t.irq.held.get? v = none ∧ t.on INTC_MOD.HELD v = false ∧
    (s.on GLB_LINK.UP = true → s.entryOpen v = true → t.on INTC_MOD.IDLE_HINT v = false ∧ t.out = s.out ++ [.msi v] ∧ t.irq.pba = s.irq.pba) ∧
    (s.on GLB_LINK.UP = true → s.entryOpen v = false → t.out = s.out ∧ v ∈ t.irq.pba ∧ ∀ k, k ≠ v → (k ∈ t.irq.pba ↔ k ∈ s.irq.pba)) ∧
    (s.on GLB_LINK.UP = false → t.irq.pba = s.irq.pba ∧ t.rd GLB_LINK_DROP.COUNT = s.rd GLB_LINK_DROP.COUNT + 1 ∧ t.out = s.out) ∧
    WriteEv s t []
  (∀ (s : State) (v k t0 : Nat), s.irq.held.get? v = some (k, t0) →
    s.on GLB_LINK.UP = true ∨ s.rd GLB_LINK_DROP.COUNT + 1 < 2 ^ GLB_LINK_DROP.COUNT.w - 1 →
    (v < 2048 →
      (s.rd INTC_MOD.TIMER_US v = 0 ∨ s.now < t0 + s.rd INTC_MOD.TIMER_US v * 1000 → exec (.modTimer v) s = .next s) ∧
      (s.rd INTC_MOD.TIMER_US v ≠ 0 → t0 + s.rd INTC_MOD.TIMER_US v * 1000 ≤ s.now → Answers (.modTimer v) s fun t => sent s t v) ∧
      (s.winUp .intc = true → Answers (.idleHintSet v) s fun t => sent s t v)) ∧
    (2048 ≤ v → s.rd INTC_FMOD.TIMER_US (v - 2048) ≠ 0 → t0 + s.rd INTC_FMOD.TIMER_US (v - 2048) * 1000 ≤ s.now →
      exec (.modTimer v) s = .next { s with irq := { s.irq with held := s.irq.held.del v }, out := s.out ++ [.foreman (v - 2048)] })) ∧
  (∀ (s : State) (v : Nat), s.irq.held.get? v = none → exec (.modTimer v) s = .next s ∧
    (v < 2048 → s.winUp .intc = true → Answers (.idleHintSet v) s fun t => t.on INTC_MOD.IDLE_HINT v = true ∧
      WriteOnly s t [(INTC_MOD.IDLE_HINT, v)])) ∧
  (∀ (s : State) (v : Nat), v < 2048 →
    (∀ f, f ≠ (s.lentTo v).getD 0 → exec (.vectorUnmask f v) s = .next s) ∧
    (s.on GLB_LINK.UP = true → Answers (.vectorUnmask ((s.lentTo v).getD 0) v) s fun t =>
      let fo := s.bus.msixEn.contains ((s.lentTo v).getD 0) && !s.bus.funcMask.contains ((s.lentTo v).getD 0)
      v ∈ t.bus.unmasked ∧ (∀ k, k ≠ v → (k ∈ t.bus.unmasked ↔ k ∈ s.bus.unmasked)) ∧
      (fo = true → v ∈ s.irq.pba → v ∉ t.irq.pba ∧ t.out = s.out ++ [.msi v]) ∧
      (fo = false ∨ v ∉ s.irq.pba → t.irq = s.irq ∧ t.out = s.out) ∧
      t = { (if fo && s.irq.pba.contains v then s.fl INTC_MOD.IDLE_HINT v false else s) with
        bus := { s.bus with unmasked := t.bus.unmasked }, irq := { s.irq with pba := t.irq.pba }, out := t.out })) ∧
  (∀ (s : State) (k m : Nat), k < 4 → m < 2 ^ 64 → s.rd INTC_SW.SET k < 2 ^ 64 → s.winUp .intc = true →
    (Answers (.swSet k m) s fun t => t.rd INTC_SW.SET k = (s.rd INTC_SW.SET k ||| m) ∧ WriteEv s t [(INTC_SW.SET, k)] ∧
      ∀ b < 64, bit m b = true → s.srcPresent (0x600 + 64 * k + b) = true → s.srcUp (0x600 + 64 * k + b) = true →
        t.on INTC_SRC.ASSERTED (0x600 + 64 * k + b) = true ∧
        (s.on INTC_SRC.ASSERTED (0x600 + 64 * k + b) = false → s.rd INTC_SRC.STATE (0x600 + 64 * k + b) = 0 →
          t.rd INTC_SRC.STATE (0x600 + 64 * k + b) = 1)) ∧
    (Answers (.swClr k m) s fun t => t.rd INTC_SW.SET k = s.rd INTC_SW.SET k - (s.rd INTC_SW.SET k &&& m) ∧
      t = { s with regs := t.regs } ∧ (∀ i, t.rd INTC_SRC.STATE i = s.rd INTC_SRC.STATE i) ∧
      ∀ b < 64, bit m b = true → t.on INTC_SRC.ASSERTED (0x600 + 64 * k + b) = false))
  )

/-- The node on its buses (R522, R526, R527, R529 to R531, R533, R534): a frame that also came on the other bus within 100 µs is
discarded; an NMT command to the node or to all sets its state once it has left initialisation; reset communication loads the
communication objects from the stored set, clears 0x1003 and boots into pre-operational, and reset node every persistent object and,
with RESET_ACTION = 1, asks for a warm reset. Heartbeats leave and are watched; a SYNC's tick event comes SYNC_DELAY_EFF after its
start of frame; EMCY messages leave one per inhibit time; bus-off and its recovery show in BUS. -/
def Obligations.TheCanNodeRuns : Prop :=
  (∀ (s : State) (bus cob : Nat),
    (1 < bus ∨ s.nodeUp = false ∨ s.canUp bus = false → s.canRx bus cob = (false, s)) ∧
    (bus ≤ 1 → s.nodeUp = true → s.canUp bus = true → ∃ ok u, s.canRx bus cob = (ok, u) ∧
      (ok = false ↔ ∃ r ∈ s.odm.rx, r.1 = cob ∧ r.2.1 ≠ bus ∧ s.now ≤ r.2.2 + 100000) ∧ (ok = true → (cob, bus, s.now) ∈ u.odm.rx) ∧
      u = { s with regs := u.regs, irq := u.irq, out := u.out, freeCtr := u.freeCtr, odm := { s.odm with rx := u.odm.rx } })) ∧
  (∀ (s : State) (cob : Nat) (d : List Nat) (k : Nat), k < 2 → s.canUp k = true → Out.can k (cob % 0x800) d ∈ (s.sendCan cob d).out) ∧
  (∀ (s u : State) (node bus st : Nat) (c : Instr),
    (st, c) ∈ [(2, Instr.nmtStart node bus), (3, .nmtStop node bus), (1, .nmtEnterPreop node bus)] → s.canRx bus 0 = (true, u) →
    (node = 0 ∨ node = u.rd ODM_NMT.NODE_ID → u.rd ODM_NMT.STATE ≠ 0 → Answers c s fun t => t.rd ODM_NMT.STATE = st ∧
      WriteEv u t [(ODM_NMT.STATE, 0)]) ∧
    (u.rd ODM_NMT.STATE = 0 ∨ (node ≠ 0 ∧ node ≠ u.rd ODM_NMT.NODE_ID) → exec c s = .next u)) ∧
  (∀ (s u : State) (bus : Nat) (all : Bool), s.canRx bus 0 = (true, u) → u.rd ODM_NMT.STATE ≠ 0 →
    Answers (if all then .nmtResetNode 0 bus else .nmtResetComm 0 bus) s fun t =>
      t.rd ODM_NMT.STATE = 1 ∧ t.rd ODM_NMT.NODE_ID = (t.odVal 0x2000 1 + s.dev) % 128 ∧ t.odm.copies = u.odm.copies ∧
      (all = false → t.errField = [] ∧ ∀ i sub, sub < 256 → ¬ (0x1000 ≤ i ∧ i ≤ 0x1FFF) → t.odVal i sub = u.odVal i sub) ∧
      (∀ e ∈ odTable, e.keep = true → e.idx ≠ 0x2300 → all = true ∨ (0x1000 ≤ e.idx ∧ e.idx ≤ 0x1FFF) →
        ((u.odStored.getD []).get? (odKey e.idx e.sub) = none → t.odVal e.idx e.sub = t.odDefault e) ∧
        ∀ v, (u.odStored.getD []).get? (odKey e.idx e.sub) = some v → e.idx ∈ [0x1006, 0x1015, 0x1016, 0x1017, 0x1019, 0x1029] →
          t.odVal e.idx e.sub = v) ∧
      (all = true → u.odVal 0x2000 3 = 1 → u.on RST_BOOT_CTL.ENABLED = true →
        t.on SAF_INC.OPEN 2 = true)) ∧
  (∀ s : State, s.nodeUp = true → s.rd ODM_NMT.STATE ≠ 0 → exec .heartbeatProduce s = .next (
    if s.odVal 0x1017 0 ≠ 0 ∧ s.odm.hbAt + s.odVal 0x1017 0 * 1000000 ≤ s.now then
      ({ s with odm := { s.odm with hbAt := s.now } } : State).sendCan (0x700 + s.rd ODM_NMT.NODE_ID)
        [if s.rd ODM_NMT.STATE = 1 then 127 else if s.rd ODM_NMT.STATE = 2 then 5 else if s.rd ODM_NMT.STATE = 3 then 4 else 0]
    else s)) ∧
  (∀ (s u : State) (node bus : Nat), s.canRx bus (0x700 + node) = (true, u) → node ≠ 0 → u.rd ODM_NMT.STATE ≠ 0 →
    Answers (.heartbeatConsume node bus) s fun t =>
      (∀ i ∈ [1, 2, 3, 4], bits (u.odVal 0x1016 i) 16 7 = node → u.odVal 0x1016 i % 0x10000 ≠ 0 →
        t.odm.seen.get? i = some s.now ∧ i ∉ t.odm.lost) ∧
      (t.on ODM_NMT.HB_LOST ↔ t.odm.lost ≠ []) ∧ t.rd ODM_NMT.STATE = u.rd ODM_NMT.STATE ∧ t.mem = s.mem) ∧
  (∀ (s : State) (i t0 : Nat), s.nodeUp = true → i ∈ [1, 2, 3, 4] → s.odm.seen.get? i = some t0 →
    (s.odVal 0x1016 i % 0x10000 = 0 ∨ s.now ≤ t0 + s.odVal 0x1016 i % 0x10000 * 1000000 → exec (.heartbeatLost i) s = .next s) ∧
    (s.odVal 0x1016 i % 0x10000 ≠ 0 → t0 + s.odVal 0x1016 i % 0x10000 * 1000000 < s.now → Answers (.heartbeatLost i) s fun t =>
      i ∈ t.odm.lost ∧ t.odm.seen.get? i = none ∧ t.on ODM_NMT.HB_LOST = true ∧ (s.odVal 0x1029 1 = 0 → s.rd ODM_NMT.STATE = 2 →
        t.rd ODM_NMT.STATE = 1) ∧ (s.odVal 0x1029 1 = 1 → t.rd ODM_NMT.STATE = s.rd ODM_NMT.STATE) ∧ t.mem = s.mem)) ∧
  (∀ (s u : State) (bus ago : Nat), s.canRx bus (s.odVal 0x1005 0 % 0x800) = (true, u) → u.rd ODM_NMT.STATE = 1 →
    u.rd FE_TICK_CFG.SRC = 2 →
    (ago ≤ u.syncDelay * 1000 → exec (.syncReceive bus ago true) s = .next { u with odm := { u.odm with sof := some (s.now - ago, true), sofBus := bus } }) ∧
    (u.syncDelay * 1000 < ago → exec (.syncReceive bus ago true) s = .next ((u.count ODM_CTR.SYNC_LATE).raise 0x568))) ∧
  (∀ (s : State) (t0 : Nat) (good : Bool), s.odm.sof = some (t0, good) →
    (s.now < t0 + s.syncDelay * 1000 → exec .syncTickDelay s = .next s) ∧
    (t0 + s.syncDelay * 1000 ≤ s.now → let v := { s with odm := { s.odm with sof := none } }
      exec .syncTickDelay s = .next (if good then v.extTick 2 none else (v.count ODM_CTR.SYNC_LATE).raise 0x568))) ∧
  (∀ s : State, s.nodeUp = true → bit (s.odVal 0x1005 0) 30 = true → s.rd ODM_NMT.STATE = 1 ∨ s.rd ODM_NMT.STATE = 2 →
    s.rd FE_TICK_STATUS.SRC_ACT ≠ 2 → s.tickSrc ≠ 2 →
    let due := if s.odVal 0x2002 2 = 1 then s.odm.syncTick ≠ s.rd FE_TICK_COUNT.COUNT
      else s.odVal 0x1006 0 ≠ 0 ∧ s.odm.syncAt + s.odVal 0x1006 0 * 1000 ≤ s.now
    let k := if s.odVal 0x1019 0 ≤ s.odm.syncN then 1 else s.odm.syncN + 1
    (¬ due → exec .syncProduce s = .next s) ∧
    (due → exec .syncProduce s = .next (({ s with odm := { s.odm with syncAt := s.now, syncTick := s.rd FE_TICK_COUNT.COUNT, syncN := k } } :
      State).sendCan (s.odVal 0x1005 0) (if s.odVal 0x1019 0 = 0 then [] else [k])))) ∧
  (∀ (s : State) (code src inc : Nat) (r : List (Nat × Nat × Nat)), s.emcyQ = (code, src, inc) :: r → s.nodeUp = true →
    s.rd ODM_NMT.STATE = 1 ∨ s.rd ODM_NMT.STATE = 2 →
    (∀ t0, s.odm.emcyAt = some t0 → s.now < t0 + s.odVal 0x1015 0 * 100000 → exec .emcySend s = .next s) ∧
    ((∀ t0, s.odm.emcyAt = some t0 → t0 + s.odVal 0x1015 0 * 100000 ≤ s.now) → Answers .emcySend s fun t =>
      t.emcyQ = r ∧ t.odm.emcyAt = some s.now ∧ (∀ k < 2, s.canUp k = true → Out.can k (s.odVal 0x1014 0 % 0x800)
        ((leBytes 2 code ++ leBytes 1 s.errReg ++ leBytes 2 src ++ leBytes 4 inc).map BitVec.toNat) ∈ t.out) ∧ t.errField = s.errField)) ∧
  (∀ (s : State) (k : Nat), k < 2 → s.nodeUp = true → s.on ODM_CAN.RUN k = true →
    (s.rd ODM_CAN.BUS k ≠ 2 → Answers (.busOff k) s fun t => t.rd ODM_CAN.BUS k = 2 ∧
      (s.rd ODM_CAN.BUS_OFF k + 1 < 2 ^ 48 - 1 → t.rd ODM_CAN.BUS_OFF k = s.rd ODM_CAN.BUS_OFF k + 1) ∧
      (s.canUp (1 - k) = true → t.rd ODM_NMT.STATE = s.rd ODM_NMT.STATE) ∧ t.mem = s.mem) ∧
    (s.rd ODM_CAN.BUS k = 2 → Answers (.busOffRecover k) s fun t => t.rd ODM_CAN.BUS k = 0 ∧ t.rd ODM_CAN.TEC k = 0 ∧
      t.rd ODM_CAN.REC k = 0 ∧ t.rd ODM_NMT.STATE = s.rd ODM_NMT.STATE ∧ t.mem = s.mem ∧
      (s.canUp (1 - k) = true → t.emcyQ = s.emcyQ ∧ t.errField = s.errField)))

/-- Access to the dictionary (R515 to R517, R535 to R539, R541): an entry that is not there, that may not be read or written so, or a
value out of range is aborted by its code and changes no entry; a write of a persistent entry reads back; a save takes the
persistent entries as they stand and SAVE_DONE puts them over the older copy. An access to an entry whose block is in a warm reset waits, and so
does one behind it (log entry 92). A USDO session stays on the bus of its first request,
a fifth is aborted, and one that stays idle for 1,000 ms ends. The mailbox serves the same entries with BUSY, DONE, ABORT and RLEN.
A TPDO samples its mapped entries; an RPDO is applied whole or not at all. -/
def Obligations.TheDictionaryIsServed : Prop :=
  (∀ (s : State) (who node idx sub : Nat) (bs : List Byte),
    ((s.odFind idx sub).2 = none → s.odWrite who node idx sub bs = ((s.odFind idx sub).1, s) ∧ s.odRead idx sub = ((s.odFind idx sub).1, [], s)) ∧
    ((∀ e ∈ odTable, e.idx ≠ idx) → (s.odFind idx sub).1 = 0x06020000) ∧
    ∀ e, s.odFind idx sub = (0, some e) →
      (e.acc ≤ 1 → s.odWrite who node idx sub bs = (0x06010002, s)) ∧ (e.acc = 2 → s.odRead idx sub = (0x06010001, [], s)) ∧
      (2 ≤ e.acc → bs.length ≠ e.size → s.odWrite who node idx sub bs = (0x06070010, s)) ∧
      (2 ≤ e.acc → bs.length = e.size → s.odRange e (ofBytes bs) ≠ 0 → s.odWrite who node idx sub bs = (s.odRange e (ofBytes bs), s)) ∧
      (e.keep = true → e.idx ∉ [0x1016, 0x2003, 0x2300] → bs.length = e.size → s.odRange e (ofBytes bs) = 0 → ∃ u, s.odWrite who node idx sub bs = (0, u) ∧
        (u.odRead idx sub).1 = 0 ∧ (u.odRead idx sub).2.1 = bs ∧ (∀ i j, j < 256 → (i, j) ≠ (idx, sub) → u.odVal i j = s.odVal i j) ∧
        u = { s with odm := { s.odm with ent := u.odm.ent } })) ∧
  (∀ (s : State) (bs : List Byte), s.on RST_BOOT_CTL.RECOVERY = false → bs.length = 2 → 150 ≤ ofBytes bs → ofBytes bs ≤ 300 →
    ∃ u, s.odWrite 2 1 0x2300 1 bs = (0, u) ∧ u.rd PWR_ENVELOPE.WATTS = ofBytes bs ∧ u.rdSh PWR_ENVELOPE.WATTS = ofBytes bs) ∧
  (∀ (s u : State) (bus c idx sub : Nat) (more : Bool) (data : List Nat), s.canRx bus (0x600 + c) = (true, u) → 0 < c → c ≤ 127 →
    s.rd ODM_NMT.STATE = 1 ∨ s.rd ODM_NMT.STATE = 2 →
    (u.odWaits idx sub = true ∨ u.odm.waiting ≠ [] → s.odm.sess.get? c = none ∧ s.odm.sess.length < 4 →
      exec (.usdoUpload bus c idx sub more) s = .next { u with odm := { u.odm with
        waiting := u.odm.waiting ++ [.up bus c idx sub more], sess := u.odm.sess.put c (bus, s.now) } }) ∧
    (u.odWaits idx sub = false → u.odm.waiting = [] →
    let aborted (v : State) (code : Nat) : State :=
      (({ v with rdata := code, odm := { v.odm with sess := v.odm.sess.del c } } : State).count ODM_CTR.USDO_ABORTS).sendUsdo bus c code []
    let done (v : State) (bs : List Byte) : State := ({ v with rdata := 0, odm := { v.odm with
      sess := if more then v.odm.sess.put c (bus, v.now) else v.odm.sess.del c } } : State).sendUsdo bus c 0 bs
    (∀ b t0, s.odm.sess.get? c = some (b, t0) → b ≠ bus → exec (.usdoUpload bus c idx sub more) s = .next u ∧
      exec (.usdoDownload bus c idx sub data more) s = .next u) ∧
    (s.odm.sess.get? c = none → 4 ≤ s.odm.sess.length →
      exec (.usdoUpload bus c idx sub more) s = .next ((({ u with rdata := 0x05040005 } : State).count ODM_CTR.USDO_ABORTS).sendUsdo bus c 0x05040005 []) ∧
      exec (.usdoDownload bus c idx sub data more) s = exec (.usdoUpload bus c idx sub more) s) ∧
    (s.odm.sess.get? c = none ∧ s.odm.sess.length < 4 ∨ (∃ t0, s.odm.sess.get? c = some (bus, t0)) →
      (∀ code bs v, u.odRead idx sub = (code, bs, v) → exec (.usdoUpload bus c idx sub more) s = .next (if code = 0 then done v bs else
        aborted v code)) ∧
      (more = true → exec (.usdoDownload bus c idx sub data more) s = .next (done u [])) ∧
      (more = false → ∀ code v, u.odWrite 2 c idx sub (data.map (BitVec.ofNat 8)) = (code, v) →
        exec (.usdoDownload bus c idx sub data more) s = .next (if code = 0 then done v [] else aborted v code)) ∧
      (more = false → s.odm.saving = none →
        (Answers (.storeParameters bus c 0x65766173) s fun t => t.odm.saving = some s.odImage) ∧
        (Answers (.restoreDefaults bus c 0x64616F6C) s fun t => t.odm.saving = some []))))) ∧
  (∀ (s : State) (c bus t0 : Nat), s.odm.sess.get? c = some (bus, t0) →
    (s.now < t0 + 1000000000 → exec (.usdoTimeout c) s = .next s) ∧
    (t0 + 1000000000 ≤ s.now → Answers (.usdoTimeout c) s fun t => t.odm.sess.get? c = none ∧
      (s.canUp bus = true → Out.can bus (0x580 + s.rd ODM_NMT.NODE_ID) [c, 0x05040000] ∈ t.out))) ∧
  (∀ (s : State) (m : NMap Nat), s.odm.saving = some m → Answers .saveDone s fun t => t.odm.saving = none ∧ t.odStored = some m ∧
    t.odm.ent = s.odm.ent ∧ (s.odm.mbx = true → t.on ODM_MBX_CTL.BUSY = false ∧ t.on ODM_MBX_CTL.DONE = true ∧ t.rd ODM_MBX_ABORT.ABORT = 0)) ∧
  (∀ s : State, s.odm.saving = none → exec .saveDone s = .next s) ∧
  (∀ s : State, s.winUp .odm = true → s.odWaits (s.rd ODM_MBX_CMD.INDEX) (s.rd ODM_MBX_CMD.SUB) = false → s.odm.waiting = [] →
    let idx := s.rd ODM_MBX_CMD.INDEX
    let sub := s.rd ODM_MBX_CMD.SUB
    let u := (s.fl ODM_MBX_CTL.BUSY 0 true).wr ODM_MBX_ABORT.ABORT 0 0
    let past (t : State) (code len : Nat) : Prop := t.on ODM_MBX_CTL.BUSY = false ∧ t.on ODM_MBX_CTL.DONE = true ∧
      t.rd ODM_MBX_ABORT.ABORT = code % 2 ^ 32 ∧ t.rd ODM_MBX_CTL.RLEN = len % 2 ^ 13
    (∀ (op : Nat) (c : Instr), (op, c) ∈ [(0, Instr.mbxRead), (1, .mbxWrite), (2, .mbxSave), (3, .mbxRestore)] →
      (s.rd ODM_MBX_CMD.OP ≠ op → exec c s = .next s) ∧
      (s.rd ODM_MBX_CMD.OP = op → s.on ODM_MBX_CTL.BUSY = true → Answers c s fun t => t.on CFG.CFG_ERR Blk.odm.idx = true ∧
        WriteEv s t [(CFG.CFG_ERR, Blk.odm.idx), (CFG.ERR_OFFSET, Blk.odm.idx)])) ∧
    (s.on ODM_MBX_CTL.BUSY = false →
      (s.rd ODM_MBX_CMD.OP = 0 → ∀ code bs v, u.odRead idx sub = (code, bs, v) → Answers .mbxRead s fun t => past t code bs.length ∧
        (code = 0 → t.odm.buf.take bs.length = bs) ∧ t.odm.ent = s.odm.ent) ∧
      (s.rd ODM_MBX_CMD.OP = 1 → idx ≠ 0x1010 → idx ≠ 0x1011 →
        ∀ code v, u.odWrite 1 0 idx sub ((s.odm.buf ++ List.replicate 4096 0).take (s.rd ODM_MBX_CMD.LENGTH)) = (code, v) →
        Answers .mbxWrite s fun t => past t code 0 ∧ t.odm = v.odm ∧ (code ≠ 0 → t.odm = s.odm)) ∧
      (s.rd ODM_MBX_CMD.OP = 2 → s.odm.saving = none → Answers .mbxSave s fun t => t.odm.saving = some s.odImage ∧ t.on ODM_MBX_CTL.BUSY = true) ∧
      (s.rd ODM_MBX_CMD.OP = 3 → s.odm.saving = none → Answers .mbxRestore s fun t => t.odm.saving = some [] ∧ t.on ODM_MBX_CTL.BUSY = true) ∧
      (s.rd ODM_MBX_CMD.OP = 2 → s.odm.saving ≠ none → Answers .mbxSave s fun t => past t 0x08000020 0))) ∧
  (∀ (s u : State) (n : Nat) (bs : List Byte), n < 4 → s.nodeUp = true → s.rd ODM_NMT.STATE = 2 → s.on ODM_NMT.RECOVERY = false →
    bit (s.odVal (0x1800 + n) 1) 31 = false → s.on RST_STATUS.WARM_ACTIVE = false → s.sample (s.mapping (0x1A00 + n)) = (bs, u) →
    exec (.tpdo n) s = .next (if u.tpdoDue n bs then ({ u with odm := { u.odm with
        syncs := u.odm.syncs.put n 0, tpTick := u.odm.tpTick.put n (u.rd FE_TICK_COUNT.COUNT), tpAt := u.odm.tpAt.put n u.now,
        tpVal := u.odm.tpVal.put n bs } } : State).sendCan (u.odVal (0x1800 + n) 1) (bs.map BitVec.toNat) else u)) ∧
  (∀ (s u : State) (n bus : Nat) (data : List Nat), n < 4 → s.canRx bus (s.odVal (0x1400 + n) 1 % 0x800) = (true, u) →
    u.rd ODM_NMT.STATE = 2 → u.on ODM_NMT.RECOVERY = false → bit (u.odVal (0x1400 + n) 1) 31 = false → u.odm.waiting = [] →
    let es := State.rpdoVals (data.map (BitVec.ofNat 8)) (u.mapping (0x1600 + n)) 0
    (data.length < mapBytes (u.mapping (0x1600 + n)) ∨ (∃ p ∈ es, u.odRange p.1 (ofBytes p.2) ≠ 0) → Answers (.rpdo n bus data) s fun t =>
      t.odm = u.odm ∧ t.rd PWR_ENVELOPE.WATTS = u.rd PWR_ENVELOPE.WATTS ∧
      (u.rd ODM_CTR.RPDO_REJECT + 1 < 2 ^ 48 - 1 → t.rd ODM_CTR.RPDO_REJECT = u.rd ODM_CTR.RPDO_REJECT + 1)) ∧
    (mapBytes (u.mapping (0x1600 + n)) ≤ data.length → (∀ p ∈ es, u.odRange p.1 (ofBytes p.2) = 0) →
      exec (.rpdo n bus data) s = .next (es.foldl (fun v p => (v.odApply 2 0 p.1 (ofBytes p.2)).2) u)))

/-! ## Bring-up, resets, safety, Ledger and debug (chapters 21 to 25) -/

/-- The order of bring-up (R543 to R545, R547, R563 to R567): PERST# release latches the straps and starts step 1, in recovery mode after
three failed starts or when forced. A GO starts its step only when the one before is DONE, it is idle, none runs and none has
failed, and otherwise sets CFG_ERR; before step 1 is DONE the window ignores it. A step ends DONE or FAILED with its code and its
time, or in TIMEOUT. The end of step 5 leaves every stack trained, of 6 the dictionary started, and of 10 the device enabled with
FAILS 0 and, unless something else holds it, FAULT_N released. RECOV_EXIT clears FAILS in recovery mode. -/
def Obligations.BringUpRunsInOrder : Prop :=
  let others (s t : State) (n : Nat) : Prop := ∀ k, k ≠ n → t.rd RST_BOOT_STEP.STATE k = s.rd RST_BOOT_STEP.STATE k
  (∀ (s : State) (n : Nat) (c : Instr) (e sh : Bool) (l sp : List Nat) (fs : List (Nat × Nat)) (d0 d1 : Nat),
    (n, c) ∈ [(2, Instr.fuseRead e), (3, .yieldMap), (4, .licenceCheck e), (5, .hbmTrain l), (6, .firmwareLoad e),
      (7, .microcodeBroadcast fs), (8, .bootSelftest fs sp sh d0 d1), (9, .carveoutCheck), (10, .enable)] →
    let may := s.rd RST_BOOT_STEP.STATE (n - 1) = 2 ∧ s.rd RST_BOOT_STEP.STATE n = 0 ∧
      (∀ k < 11, s.rd RST_BOOT_STEP.STATE k ≠ 1 ∧ s.rd RST_BOOT_STEP.STATE k < 3) ∧ s.on RST_BOOT_CTL.RECOVERY = false
    (s.rd RST_BOOT_STEP.STATE 1 ≠ 2 → exec c s = .next s) ∧
    (s.rd RST_BOOT_STEP.STATE 1 = 2 → ¬ may → Answers c s fun t => t.on CFG.CFG_ERR Blk.rst.idx = true ∧
      WriteEv s t [(CFG.CFG_ERR, Blk.rst.idx), (CFG.ERR_OFFSET, Blk.rst.idx)]) ∧
    (s.rd RST_BOOT_STEP.STATE 1 = 2 → may → Answers c s fun t => t.rd RST_BOOT_STEP.STATE n = 1 ∧ t.rd RST_BOOT_CTL.CUR_STEP = n ∧
      t.boot.since = s.now ∧ others s t n)) ∧
  (∀ (s : State) (n : Nat), n < 11 → s.rd RST_BOOT_STEP.STATE n = 1 → (∀ k < n, s.rd RST_BOOT_STEP.STATE k ≠ 1) →
    (Answers .bootStepDone s fun t => t.rd RST_BOOT_STEP.STATE n = (if s.boot.err = 0 then 2 else 3) ∧
      t.rd RST_BOOT_STEP.ERR n = s.boot.err % 256 ∧ t.rd RST_BOOT_STEP.ELAPSED_US n = min ((s.now - s.boot.since) / 1000) 0xFFFFFFFF ∧
      (s.on RST_BOOT_CTL.RECOVERY = false → others s t n) ∧
      (s.on RST_BOOT_CTL.RECOVERY = true → n = 1 → t.rd RST_BOOT_STEP.STATE 2 = 1) ∧
      (n = 5 → s.boot.err = 0 → ∀ m < 4, t.rd MC_STATUS.TRAIN m = 2) ∧
      (n = 5 → s.boot.err ≠ 0 → ∀ m < 4, t.rd MC_STATUS.TRAIN m = if m ∈ s.boot.untrained then 3 else 2) ∧
      (n = 6 → s.boot.err = 0 → t.rd ODM_NMT.STATE = 1 ∧ t.on ODM_NMT.RECOVERY = false) ∧
      (n = 10 → s.boot.err = 0 → s.on RST_BOOT_CTL.RECOVERY = false → t.on RST_BOOT_CTL.ENABLED = true ∧ t.rd RST_BOOT_CTL.FAILS = 0 ∧
        t.fe.run = true ∧ t.tick.run = true ∧ t.tick.first = true ∧ t.boot.rcd.fails = 0 ∧ t.boot.rcd.slot = s.rd RST_BOOT_INFO.FW_SLOT ∧
        ((∀ x ∈ s.saf.causes, x = 0 ∨ x = 5) → (∀ k < 3, s.rd SAF_INC.OPEN k = 0) → s.rd SAF_ROUTED.HIT = 0 → s.saf.routedLevel = [] →
          s.saf.safeWait = false → t.on SAF_STATUS.FAULT = false))) ∧
    (2 ≤ n → s.now < s.boot.since + stepLimit n → exec .bootStepTimeout s = .next s) ∧
    (2 ≤ n → s.boot.since + stepLimit n ≤ s.now → Answers .bootStepTimeout s fun t => t.rd RST_BOOT_STEP.STATE n = 4 ∧ others s t n ∧
      t.mem = s.mem)) ∧
  (∀ s : State, (∀ k < 11, s.rd RST_BOOT_STEP.STATE k ≠ 1) → exec .bootStepDone s = .next s ∧ exec .bootStepTimeout s = .next s) ∧
  (∀ (s : State) (d : Nat) (recov jt : Bool),
    (s.boot.perst = false → exec (.perstRelease d recov jt) s = .next s) ∧
    (s.boot.perst = true → Answers (.perstRelease d recov jt) s fun t =>
      let fails := max (s.rd RST_BOOT_CTL.FAILS) (if s.boot.answers then s.recRead.fails else 0)
      t.boot.perst = false ∧ t.boot.latched = true ∧ t.boot.jtagMode = jt ∧ t.on RST_BOOT_CTL.FORCED = (recov || t.boot.three) ∧
      t.on RST_BOOT_CTL.RECOVERY = (recov || t.boot.three || decide (3 ≤ fails)) ∧ t.rd RST_BOOT_CTL.FAILS = min 3 fails ∧
      t.rd RST_BOOT_CTL.CUR_STEP = 1 ∧
      (s.boot.latched = false → t.rd GLB_DEVNUM.DEV_ID = d % 4 ∧ t.boot.three = (d % 4 == 3) ∧ t.rd PXL_STATUS.JOINED = 2 ^ (d % 4) % 8) ∧
      (s.boot.latched = true → t.rd GLB_DEVNUM.DEV_ID = s.rd GLB_DEVNUM.DEV_ID) ∧
      (s.boot.por = false → s.boot.hold = false → t.rd RST_BOOT_STEP.STATE 1 = 1 ∧ t.boot.since = s.now) ∧ others s t 1)) ∧
  (∀ s : State, s.winUp .rst = true →
    (s.on RST_BOOT_CTL.RECOVERY = true → Answers .recovExit s fun t => t.rd RST_BOOT_CTL.FAILS = 0 ∧ t.boot.rcd.fails = 0 ∧
      t.rd RST_BOOT_CTL.RECOVERY = s.rd RST_BOOT_CTL.RECOVERY) ∧
    (s.on RST_BOOT_CTL.RECOVERY = false → Answers .recovExit s fun t => t.on CFG.CFG_ERR Blk.rst.idx = true ∧
      WriteEv s t [(CFG.CFG_ERR, Blk.rst.idx), (CFG.ERR_OFFSET, Blk.rst.idx)]) ∧
    (Answers .trialReq s fun t => t.boot.rcd = { s.boot.rcd with trial := true, seq := s.recRead.seq + 1 } ∧ t.on RST_BOOT_SEL.TRIAL_REQ = true ∧
      WriteOnly { s with boot := t.boot } t [(RST_BOOT_SEL.TRIAL_REQ, 0)]))

/-- What the steps do (R463, R543, R550 to R556, R559 to R562, R564, R568): step 2 takes the identity from the fuses and counts the start;
3 maps the twelve lowest good clusters of each quadrant in order; 4 applies the accepted licence with the highest serial number;
5 trains; 6 boots the slot to try first or falls back to the other; 7 and 8 broadcast, test and retire; 9 wants a partition. Each
fails with its code. The slots' own checks are `licSlot` and `slotCheck`. -/
def Obligations.BringUpStepsDoTheirWork : Prop :=
  let may (s : State) (n : Nat) : Prop := s.rd RST_BOOT_STEP.STATE 1 = 2 ∧ s.rd RST_BOOT_STEP.STATE (n - 1) = 2 ∧ s.rd RST_BOOT_STEP.STATE n = 0 ∧
    (∀ k < 11, s.rd RST_BOOT_STEP.STATE k ≠ 1 ∧ s.rd RST_BOOT_STEP.STATE k < 3) ∧ s.on RST_BOOT_CTL.RECOVERY = false
  let go (s : State) (n : Nat) : State := { (s.wr RST_BOOT_CTL.CUR_STEP 0 n).wr RST_BOOT_STEP.STATE n 1 with
    boot := { s.boot with since := s.now, err := 0 } }
  (∀ (s : State) (e : Bool), may s 2 → Answers (.fuseRead e) s fun t =>
    (s.boot.fuses.crcOk = false → t = { go s 2 with boot := { s.boot with since := s.now, err := 1 } }) ∧
    (s.boot.fuses.crcOk = true → t.rd GLB_UID_LO.UID = s.boot.fuses.uid % 2 ^ 64 ∧ t.rd GLB_UID_HI.UID = s.boot.fuses.uid / 2 ^ 64 % 2 ^ 64 ∧
      t.boot.err = (if s.flashOk e then 0 else 2) ∧
      (s.flashOk e = true → t.rd RST_BOOT_CTL.FAILS = min 3 (max (s.rd RST_BOOT_CTL.FAILS) s.recRead.fails + 1) ∧
        t.boot.rcd.fails = min 3 (max (s.rd RST_BOOT_CTL.FAILS) s.recRead.fails + 1) ∧ t.boot.rcd.repairs = s.recRead.repairs))) ∧
  (∀ s : State, may s 3 →
    let good (q : Nat) : List Nat := bitList (s.boot.fuses.good.getD q 0) 13
    ((∃ q < 4, (good q).length < 12) → Answers .yieldMap s fun t => t = { go s 3 with boot := { s.boot with since := s.now, err := 3 } }) ∧
    ((∀ q < 4, 12 ≤ (good q).length) → s.boot.rcd.repairs = [] → Answers .yieldMap s fun t => t.boot.err = 0 ∧
      t.rd RST_BOOT_INFO.REPAIR_SKIP = 0 ∧ ∀ q < 4, t.rd GLB_YIELD.GOOD q = s.boot.fuses.good.getD q 0 % 2 ^ 13 ∧
        ∀ j < 12, some (bits (t.rd GLB_YIELD.PHYS q) (4 * j) 4) = (good q)[j]?)) ∧
  (∀ (s : State) (e : Bool), may s 4 →
    (s.flashOk e = false → Answers (.licenceCheck e) s fun t => t = { go s 4 with boot := { s.boot with since := s.now, err := 2 } }) ∧
    (s.flashOk e = true → (∀ j < 8, (s.licSlot j).1 ≠ 2) → Answers (.licenceCheck e) s fun t => t.boot.err = 4 ∧
      t.rd GLB_ID.VARIANT = s.rd GLB_ID.VARIANT ∧ t.cap = s.cap ∧ ∀ j < 8, bits (t.rd RST_BOOT_LIC.RES) (3 * j) 3 = (s.licSlot j).1) ∧
    ∀ k < 8, s.flashOk e = true → (s.licSlot k).1 = 2 →
      (∀ j < 8, (s.licSlot j).1 = 2 → (s.licSlot j).2.2 < (s.licSlot k).2.2 ∨ ((s.licSlot j).2.2 = (s.licSlot k).2.2 ∧ k ≤ j)) →
      Answers (.licenceCheck e) s fun t => t.boot.err = 0 ∧ t.rd GLB_ID.VARIANT = (s.licSlot k).2.1 ∧ t.rd RST_BOOT_INFO.LIC_SLOT = k ∧
        t.cap.valid = true ∧ t.cap.gen = 0 ∧ ∀ j < 8, bits (t.rd RST_BOOT_LIC.RES) (3 * j) 3 = if j = k then 1 else (s.licSlot j).1) ∧
  (∀ (s : State) (l : List Nat), may s 5 → Answers (.hbmTrain l) s fun t => (∀ m < 4, t.rd MC_STATUS.TRAIN m = 1) ∧
    (t.boot.err = 0 ↔ ∀ m ∈ l, 4 ≤ m) ∧ (t.boot.err ≠ 0 → t.boot.err = 5) ∧ (∀ m, m ∈ t.boot.untrained ↔ m ∈ l ∧ m < 4)) ∧
  (∀ (s : State) (e : Bool), may s 6 →
    let slot := if s.boot.rcd.trial then 1 - s.boot.rcd.slot % 2 else s.boot.rcd.slot % 2
    (s.hbmBytes < (s.rd RST_BOOT_FW.FW_PA + 1) * 2 ^ 26 → Answers (.firmwareLoad e) s fun t => t.boot.err = 7 ∧ t.mem = s.mem) ∧
    ((s.rd RST_BOOT_FW.FW_PA + 1) * 2 ^ 26 ≤ s.hbmBytes → s.flashOk e = false → Answers (.firmwareLoad e) s fun t => t.boot.err = 2 ∧
      t.mem = s.mem) ∧
    ((s.rd RST_BOOT_FW.FW_PA + 1) * 2 ^ 26 ≤ s.hbmBytes → s.flashOk e = true → Answers (.firmwareLoad e) s fun t =>
      t.boot.rcd.trial = false ∧
      (s.slotCheck slot = 0 → t.boot.err = 0 ∧ t.rd RST_BOOT_INFO.FW_SLOT = slot ∧ t.rd RST_BOOT_INFO.FW_FALLBACK = s.rd RST_BOOT_INFO.FW_FALLBACK) ∧
      (s.slotCheck slot ≠ 0 → t.on RST_BOOT_INFO.FW_FALLBACK = true ∧
        t.rd (if slot = 0 then RST_BOOT_INFO.FWA_ERR else RST_BOOT_INFO.FWB_ERR) = s.slotCheck slot) ∧
      (s.slotCheck slot ≠ 0 → s.slotCheck (1 - slot) = 0 → t.boot.err = 0 ∧ t.rd RST_BOOT_INFO.FW_SLOT = 1 - slot) ∧
      (s.slotCheck slot ≠ 0 → s.slotCheck (1 - slot) ≠ 0 → t.boot.err = 6 ∧ t.mem = s.mem))) ∧
  (∀ (s : State) (fs : List (Nat × Nat)), may s 7 →
    let u := (go s 7).ucodeFail fs
    exec (.microcodeBroadcast fs) s = .next (if (List.range 48).any (u.inTable 1) || (List.range 12).any (u.inTable 3) then u else
      { u with boot := { u.boot with err := 8 } })) ∧
  (∀ (s : State) (sh : Bool) (d0 d1 : Nat), may s 8 → d0 < 2 ^ 16 → d1 < 2 ^ 16 →
    (let u := (go s 8).ageMeasure d0 d1
    exec (.bootSelftest [] [] sh d0 d1) s = .next (if sh then { u with boot := { u.boot with err := 9 } } else u)) ∧
    ∀ typ k, typ ≤ 3 → s.inTable (unitClass typ) k = true → Answers (.bootSelftest [(typ, k)] [] false d0 d1) s fun t =>
      let r := ((go s 8).count ASY_CTR.LASTING).retire typ k
      t = (r.2.testRec 0 typ k true r.1 0).ageMeasure d0 d1) ∧
  (∀ s : State, (may s 9 → exec .carveoutCheck s = .next (if (List.range 8).any s.partOn then go s 9 else
      { go s 9 with boot := { s.boot with since := s.now, err := 0xA } })) ∧
    (may s 10 → exec .enable s = .next (go s 10)))

/-- The flash port (R548, R549): one operation at a time; a GO while one runs, or without a fit length or address, sets CFG_ERR. A
program or erase outside what the driver may write ends PROTECTED and changes nothing, and an operation beyond the device fails.
READ fills the buffer, PROGRAM clears bits and checks what it wrote, ERASE sets a 4 KiB sector to 0xFF; nothing else in the flash
changes. That programming only clears bits is the model's reading (log entry 50). -/
def Obligations.FlashPortWorks : Prop :=
  (∀ (s : State) (op : Nat) (c : Instr), (op, c) ∈ [(0, Instr.flashRead), (1, .flashProgram), (2, .flashErase)] → s.winUp .rst = true →
    let a := s.rd RST_FLASH.ADDR
    let n := if op = 2 then 4096 else s.rd RST_FLASH.LEN
    let fit := 0 < n ∧ n ≤ 4096 ∧ (op = 2 → a % 4096 = 0)
    let there := s.boot.answers = true ∧ a + n ≤ s.boot.mib * 0x100000
    let may := s.flashMay (flashPart a) = true ∧ s.flashMay (flashPart (a + n - 1)) = true
    let busy := s.fl RST_FLASH.BUSY 0 true
    (s.rd RST_FLASH.OP ≠ op → exec c s = .next s) ∧
    (s.rd RST_FLASH.OP = op → s.on RST_FLASH.BUSY = true ∨ ¬ fit → Answers c s fun t => t.on CFG.CFG_ERR Blk.rst.idx = true ∧
      WriteEv s t [(CFG.CFG_ERR, Blk.rst.idx), (CFG.ERR_OFFSET, Blk.rst.idx)]) ∧
    (s.rd RST_FLASH.OP = op → s.on RST_FLASH.BUSY = false → fit →
      (¬ there → exec c s = .next { busy with boot := { s.boot with result := 2 } }) ∧
      (there → op ≠ 0 → ¬ may → exec c s = .next { busy with boot := { s.boot with result := 1 } }) ∧
      (there → op = 0 → flashPart a ≠ 2 → flashPart a ≠ 5 → exec c s = .next { busy with
        boot := { s.boot with result := 0, buf := s.flashRead a n ++ s.boot.buf.drop n } }) ∧
      (there → may → op = 1 → s.boot.buf.length = 4096 → s.boot.flash.wf = true → Answers c s fun t => t.on RST_FLASH.BUSY = true ∧
        (∀ i < n, t.flashRead (a + i) 1 = [(s.boot.flash.get (a + i)).not &&& (s.boot.buf.getD i 0)]) ∧
        (∀ x, x < a ∨ a + n ≤ x → t.boot.flash.get x = s.boot.flash.get x) ∧
        (t.boot.result = 0 ↔ t.flashRead a n = s.boot.buf.take n)) ∧
      (there → may → op = 2 → Answers c s fun t => t.on RST_FLASH.BUSY = true ∧ t.boot.result = 0 ∧
        (∀ i < n, t.flashRead (a + i) 1 = [0xFF]) ∧ ∀ x, x < a ∨ a + n ≤ x → t.boot.flash.get x = s.boot.flash.get x))) ∧
  (∀ s : State, s.on RST_FLASH.BUSY = false → exec .flashDone s = .next s) ∧
  (∀ s : State, s.on RST_FLASH.BUSY = true → Answers .flashDone s fun t => t.on RST_FLASH.BUSY = false ∧
    t.rd RST_FLASH.RESULT = s.boot.result % 4 ∧ WriteOnly s t [(RST_FLASH.BUSY, 0), (RST_FLASH.RESULT, 0)])

/-- Full and power-on resets (R541, R547, R569, R570, R653): a full reset leaves HBM as nothing has written it, no context, group, teardown or
shadow, Tally values 0 and committed configuration at its reset values; it keeps the timestamp, the Ledger's ring, the counters of the
always-on domain and host memory, reports its cause, and step 1 of bring-up starts unless PERST# or a supply holds the device. A start
that it interrupts leaves its step in the boot record. A power-on reset also starts the time again. -/
def Obligations.FullResetsKeepTheAlwaysOn : Prop :=
  let full (s t : State) (cause : Nat) : Prop :=
    t.rd RST_STATUS.LAST_FULL = cause ∧ t.now = s.now ∧ t.pending = s.pending ∧ t.mem.host = s.mem.host ∧ t.mem.hbm = [] ∧ t.mem.l2 = [] ∧
    t.mem.poison = [] ∧ t.ldg.bytes = s.ldg.bytes ∧ t.area = s.area ∧ t.tds = [] ∧ t.shadows = [] ∧ t.sh.grps = [] ∧ t.fe.strms = [] ∧
    t.cap.valid = false ∧ t.boot.fuses = s.boot.fuses ∧ t.pwr.off = false ∧
    (∀ c, t.rd FE_CTX.STATE c = 0) ∧ (∀ q, t.rd FE_Q.STATE q = 0) ∧ (∀ k, t.tval k = 0) ∧ t.rd FE_TICK_COUNT.COUNT = 0 ∧
    t.rd PWR_STATUS.STATE = 0 ∧ t.on RST_BOOT_CTL.ENABLED = false ∧ t.on SAF_STATUS.FAULT = true ∧ t.rd PXL_STATUS.JOINED = 2 ^ s.dev % 8 ∧
    (∀ F i, fldOf F.fid = some F → F.acc = .rw → F.ctr = false → evFld F = false → F.among (keptFull ++ CFG.fields ++ [PXL_CFG.EXPECT]) = false →
      t.rd F i = F.reset) ∧
    (∀ F i, F.among (LDG_HEAD.fields ++ LDG_TAIL.fields ++ LDG_MIRRORED.fields ++ LDG_TIME.fields ++ RST_CTR.fields ++ PWR_CTR.fields) = true →
      t.rd F i = s.rd F i) ∧
    (∀ k, 2 ≤ k → s.rd RST_BOOT_CTL.CUR_STEP = k → s.on RST_BOOT_CTL.ENABLED = false → s.on RST_BOOT_CTL.RECOVERY = false →
      t.boot.rcd.failStep = k ∧ t.boot.rcd.failErr = s.rd RST_BOOT_STEP.ERR k)
  let idle (t : State) : Prop := ∀ k, k ≠ 1 → t.rd RST_BOOT_STEP.STATE k = 0
  let starts (s t : State) : Prop := idle t ∧ t.rd RST_BOOT_STEP.STATE 1 = 1 ∧ t.boot.since = s.now
  let free (s : State) : Prop := s.boot.por = false ∧ s.boot.perst = false ∧ s.boot.hold = false
  (∀ s : State, free s →
    (Answers .hotReset s fun t => full s t 2 ∧ starts s t) ∧
    (s.winUp .rst = true → (Answers (.fullReset 0 0xA5) s fun t => full s t 3 ∧ starts s t) ∧
      ∀ key, key ≠ 0xA5 → Answers (.fullReset 0 key) s fun t => t.on CFG.CFG_ERR Blk.rst.idx = true ∧
        WriteEv s t [(CFG.CFG_ERR, Blk.rst.idx), (CFG.ERR_OFFSET, Blk.rst.idx)]) ∧
    (∀ key, (s.winUp .rst = false → exec (.fullReset 0 key) s = .next s) ∧
      (s.saf.wantFull = false → exec (.fullReset 1 key) s = .next s) ∧
      (s.saf.wantFull = true → Answers (.fullReset 1 key) s fun t => full s t 4 ∧ starts s t)) ∧
    (Answers .perstAssert s fun t => full s t 1 ∧ idle t ∧ t.rd RST_BOOT_STEP.STATE 1 = 0 ∧ t.boot.perst = true) ∧
    (Answers (.supplyBelowPor false) s fun t => full s t 5 ∧ idle t ∧ t.rd RST_BOOT_STEP.STATE 1 = 0 ∧ t.boot.hold = true)) ∧
  (∀ s : State, s.boot.perst = true → exec .perstAssert s = .next s) ∧
  (∀ s : State, Answers (.supplyBelowPor true) s fun t => (∀ F i, t.rd F i = F.reset) ∧ t.now = 0 ∧ t.boot.por = true ∧ t.mem.hbm = [] ∧
    t.mem.host = s.mem.host ∧ t.ldg.bytes = [] ∧ t.ldg.flash = s.ldg.flash ∧ t.ldg.flashSeq = s.ldg.flashSeq ∧ t.boot.fuses = s.boot.fuses ∧ t.area = s.area ∧
    t.shadows = [] ∧ t.cap.valid = false ∧ t.pending = s.pending) ∧
  (∀ s : State,
    (s.boot.por = true → s.boot.hold = false → Answers (.powerOn true) s fun t => t.boot.por = false ∧
      t.rd LDG_TIME.OPSEC = s.area.opsec % 2 ^ LDG_TIME.OPSEC.w ∧ t.rd LDG_TIME.PCYC = (s.area.pcyc + 1) % 2 ^ LDG_TIME.PCYC.w ∧
      (s.area.nextInc ≠ 0 → t.rd LDG_INCIDENT.NEXT = s.area.nextInc % 2 ^ LDG_INCIDENT.NEXT.w) ∧ t.area.seq = s.area.seq + 1 ∧
      (s.boot.perst = false → t.rd RST_BOOT_STEP.STATE 1 = 1) ∧
      (s.boot.perst = true → t.rd RST_BOOT_STEP.STATE 1 = s.rd RST_BOOT_STEP.STATE 1)) ∧
    (s.boot.por = false → s.boot.hold = true → s.boot.perst = false → Answers (.powerOn true) s fun t => t.boot.hold = false ∧
      t.rd RST_BOOT_STEP.STATE 1 = 1 ∧ t.rd LDG_TIME.PCYC = s.rd LDG_TIME.PCYC) ∧
    (s.boot.por = false → s.boot.hold = false → exec (.powerOn true) s = .next s))

/-- A warm reset (R571 to R575): WARM needs its key, an enabled device and none running, and otherwise sets CFG_ERR; recovery's request
merges with one that runs. It starts with an incident, FAULT_N and RESIGN to the peers of a manager, and takes the narrower resets
over. Its steps run in order: fetchers and tick stop; ACTIVE contexts end FAULTED with WARM_RESET and their queues are disabled; the L2
is cleaned; the domains not kept are reset and their configuration restored, with HBM as it was; Foreman A is checked; the last step
starts fetchers and tick again. A step that fails leads to L4. -/
def Obligations.WarmResetRunsItsSteps : Prop :=
  (∀ (s : State) (key : Nat),
    (s.winUp .rst = false → exec (.warmReset 0 key) s = .next s) ∧
    (s.winUp .rst = true → key ≠ 0xA5 ∨ s.on RST_BOOT_CTL.ENABLED = false ∨ s.on RST_STATUS.WARM_ACTIVE = true →
      Answers (.warmReset 0 key) s fun t => t.on CFG.CFG_ERR Blk.rst.idx = true ∧
        WriteEv s t [(CFG.CFG_ERR, Blk.rst.idx), (CFG.ERR_OFFSET, Blk.rst.idx)]) ∧
    (s.saf.wantWarm = false → exec (.warmReset 1 key) s = .next s) ∧
    (s.saf.wantWarm = true → s.on RST_STATUS.WARM_ACTIVE = true →
      exec (.warmReset 1 key) s = .next { s with saf := { s.saf with wantWarm := false } }) ∧
    ∀ src ≤ 1, (src = 0 → s.winUp .rst = true ∧ key = 0xA5) → (src = 1 → s.saf.wantWarm = true) → s.on RST_BOOT_CTL.ENABLED = true →
      s.on RST_STATUS.WARM_ACTIVE = false → s.rd PWR_STATUS.STATE = 0 → Answers (.warmReset src key) s fun t =>
        t.on RST_STATUS.WARM_ACTIVE = true ∧ t.rd RST_STATUS.WARM_STEP = 1 ∧ t.rsts = [] ∧ t.rd RST_STATUS.PART_ACTIVE = 0 ∧
        (src = 0 → t.rd RST_STATUS.LAST_WARM = 1 ∧ t.on SAF_INC.OPEN 2 = true ∧ t.on SAF_STATUS.FAULT = true) ∧
        (src = 1 → t.rd RST_STATUS.LAST_WARM = if s.rd SAF_INC.SOURCE 2 = 0x72 then 3 else 2) ∧
        (∀ k, (∃ r ∈ s.rsts, r.slot = some k) → t.on RST_BLOCK.BUSY k = false ∧ t.rd RST_BLOCK.RESULT k = 3) ∧
        (∀ p < 2, s.on GLB_DEVNUM.MANAGER = true → s.rd PXL_STATUS.JOINED ≠ 2 ^ s.dev → s.rd PXL_PORT.STATE p = 2 ∨ s.rd PXL_PORT.STATE p = 3 →
          Out.pxl p 7 [] ∈ t.out.drop s.out.length) ∧
        t.mem = s.mem ∧ t.fe = s.fe ∧ t.sh = s.sh ∧ t.tds = s.tds) ∧
  (∀ (s : State) (ok u : Bool) (fs : List (Nat × Nat)),
    (s.on RST_STATUS.WARM_ACTIVE = false → exec (.warmStepDone ok u fs) s = .next s) ∧
    (s.on RST_STATUS.WARM_ACTIVE = true → s.saf.wantFull = true → Answers (.warmStepDone ok u fs) s fun t =>
      t.on RST_STATUS.WARM_FAILED = true ∧ WriteOnly s t [(RST_STATUS.WARM_FAILED, 0)]) ∧
    (s.on RST_STATUS.WARM_ACTIVE = true → s.saf.wantFull = false →
      (ok = false ∨ (s.rd RST_STATUS.WARM_STEP = 6 ∧ s.foremanOk = false) → s.rd SAF_INC.LEVEL 2 ≤ 5 → Answers (.warmStepDone ok u fs) s fun t =>
        t.on RST_STATUS.WARM_FAILED = true ∧ t.saf.wantFull = true ∧ t.mem = s.mem) ∧
      (ok = true → s.rd RST_STATUS.WARM_STEP = 1 → Answers (.warmStepDone ok u fs) s fun t =>
        t.rd RST_STATUS.WARM_STEP = 2 ∧ WriteOnly s t [(RST_STATUS.WARM_STEP, 0)]) ∧
      (ok = true → s.rd RST_STATUS.WARM_STEP = 2 → Answers (.warmStepDone ok u fs) s fun t =>
        t.rd RST_STATUS.WARM_STEP = 3 ∧ t.fe = { s.fe with run := false } ∧ t.tick.run = false ∧
        WriteOnly { s with fe := t.fe, tick := t.tick } t [(RST_STATUS.WARM_STEP, 0)]) ∧
      (ok = true → s.rd RST_STATUS.WARM_STEP = 3 → s.tds = [] → (∀ p < 4, (s.pipe p).pend = none ∧ (s.pipe p).applied = none) →
        Answers (.warmStepDone ok u fs) s fun t => t.rd RST_STATUS.WARM_STEP = 4 ∧ t.tds = [] ∧ t.fe.strms = [] ∧
          (∀ c < 1024, s.rd FE_CTX.STATE c = 1 → t.rd FE_CTX.STATE c = 3 ∧ t.rd FE_CTX.FAULT_CODE c = 0xB2 ∧ t.on FE_CTX.EN c = true ∧
            t.rd FE_CTX.INCIDENT c = s.rd SAF_INC.INCIDENT 2 % 2 ^ 32 ∧ ∀ q < 2048, s.rd FE_Q.CTX q = c → t.rd FE_Q.STATE q = 0) ∧
          (∀ c, s.rd FE_CTX.STATE c ≠ 1 → t.rd FE_CTX.STATE c = s.rd FE_CTX.STATE c) ∧
          (∀ n < 12, t.on LOOM_STATUS.OWNED n = false) ∧ (∀ p < 4, t.on GLZ_PIPE.EN p = false) ∧ (∀ p < 8, t.rd FE_CHN.FREE_SEQ p = 0) ∧
          t.heaps = [] ∧ t.crd = {}) ∧
      (ok = true → s.rd RST_STATUS.WARM_STEP = 4 → (s.saf.noClean = true → Answers (.warmStepDone ok u fs) s fun t =>
          t.rd RST_STATUS.WARM_STEP = 5 ∧ WriteOnly s t [(RST_STATUS.WARM_STEP, 0)]) ∧
        (s.saf.noClean = false → s.quietMem → (s.mem.l2.map (·.1)).Nodup → Answers (.warmStepDone ok u fs) s fun t =>
          t.rd RST_STATUS.WARM_STEP = 5 ∧ (∀ k l, t.mem.l2.get? k = some l → l.dirty = 0) ∧
          ∀ pa, s.nearPa pa → t.homeByte pa = s.lineByte pa)) ∧
      (ok = true → s.rd RST_STATUS.WARM_STEP = 5 → Answers (.warmStepDone ok u fs) s fun t => t.rd RST_STATUS.WARM_STEP = 6 ∧
        t.mem.l2 = [] ∧ t.mem.hbm = s.mem.hbm ∧ t.mem.host = s.mem.host ∧ t.mem.poison = s.mem.poison ∧ t.sh = {} ∧ t.looms = [] ∧
        t.rd PXL_STATUS.EPOCH = 0 ∧ t.now = s.now ∧ t.ldg = s.ldg ∧ t.cap = s.cap ∧ t.fe = s.fe ∧ t.irq = s.irq ∧
        (∀ F i, fldOf F.fid = some F → F.acc = .rw → F.ctr = false → F.among CFG.fields = false → t.rd F i = s.rd F i) ∧
        (∀ F i, fldOf F.fid = some F → F.ctr = true → warmKept (F.blk i) = false → F.among (keptWarm ++ CFG.fields) = false →
          t.rd F i = F.reset)) ∧
      (ok = true → s.rd RST_STATUS.WARM_STEP = 6 → s.foremanOk = true → Answers (.warmStepDone ok u fs) s fun t =>
        t.rd RST_STATUS.WARM_STEP = 7 ∧ WriteOnly s t [(RST_STATUS.WARM_STEP, 0)]) ∧
      (ok = true → s.rd RST_STATUS.WARM_STEP = 7 → exec (.warmStepDone ok u fs) s = .next ((s.ucodeFail fs).wr RST_STATUS.WARM_STEP 0 8)) ∧
      (ok = true → s.rd RST_STATUS.WARM_STEP = 8 → s.saf.incUnit = none → Answers (.warmStepDone ok u fs) s fun t =>
        t.rd RST_STATUS.WARM_STEP = 9 ∧ WriteOnly s t [(RST_STATUS.WARM_STEP, 0)]) ∧
      (ok = true → s.rd RST_STATUS.WARM_STEP = 9 → Answers (.warmStepDone ok u fs) s fun t => t.mem = s.mem ∧
        (s.saf.safeWait = false → s.odm.waiting = [] → t.on RST_STATUS.WARM_ACTIVE = false ∧ t.rd RST_STATUS.WARM_STEP = 0 ∧ t.fe.run = true ∧ t.tick.run = true ∧
          t.tick.first = true ∧ t.on SAF_INC.OPEN 2 = false ∧
          ((∀ c ∈ s.saf.causes, c = 5) → s.rd SAF_ROUTED.HIT = 0 → s.saf.routedLevel = [] → t.on SAF_STATUS.FAULT = false)))))

/-- Partition, block and function-level resets (R571, R576 to R580): which requests set CFG_ERR and which are absorbed; a partition's ACTIVE
contexts tear down with PART_RESET and its heap, rays and fetching stop; a block reset runs to idle or, after IDLE_US, isolates the
block, whose contexts fault; an FLR frees the function's contexts and its vectors, and of the PF also disables queues, Patterns
and targets. -/
def Obligations.NarrowResets : Prop :=
  (∀ (s : State) (p : Nat), p < 8 →
    let act := s.rd RST_STATUS.PART_ACTIVE
    let ok := s.partOn p = true ∧ bit act p = false ∧ popc act 8 < 2 ∧ s.on RST_STATUS.WARM_ACTIVE = false
    s.rd PWR_STATUS.STATE = 0 → (s.winUp .rst = true → s.saf.wantPart = [] → ¬ ok → Answers (.partitionReset p true) s fun t =>
      t.on CFG.CFG_ERR Blk.rst.idx = true ∧ WriteEv s t [(CFG.CFG_ERR, Blk.rst.idx), (CFG.ERR_OFFSET, Blk.rst.idx)]) ∧
    (s.saf.wantPart.contains p = false → exec (.partitionReset p false) s = .next s) ∧
    ∀ host, (host = true → s.winUp .rst = true) → (host = false → s.saf.wantPart.contains p = true) → ok →
      Answers (.partitionReset p host) s fun t => bit (t.rd RST_STATUS.PART_ACTIVE) p = true ∧ p ∈ t.fe.held ∧
        (∀ c < 1024, s.rd FE_CTX.STATE c = 1 → s.rd FE_CTX.PART c = p → t.rd FE_CTX.STATE c = 2 ∧
          ∃ td, t.tds.get? c = some td ∧ td.driver = false ∧ td.code = 0xB1) ∧
        t.heaps.get? p = none ∧ t.rd FE_CHN.FREE_SEQ p = 0 ∧ t.crd.pools.get? p = none ∧ (∀ r ∈ t.crd.held, r.part ≠ p) ∧
        (∀ u < 48, bit (s.rd FE_PART.CLUSTERS p) u = true → s.present 1 u = true → ∃ r ∈ t.rsts, r.typ = 1 ∧ r.unit = u ∧ r.phase = 1) ∧
        (s.rd RST_CTR.PART_RESETS + 1 < 2 ^ RST_CTR.PART_RESETS.w - 1 → t.rd RST_CTR.PART_RESETS = s.rd RST_CTR.PART_RESETS + 1)) ∧
  (∀ (s : State) (p : Nat), p < 8 →
    (bit (s.rd RST_STATUS.PART_ACTIVE) p = false ∨ s.partBusy p = true → exec (.partitionResetDone p) s = .next s) ∧
    (bit (s.rd RST_STATUS.PART_ACTIVE) p = true → s.partBusy p = false → Answers (.partitionResetDone p) s fun t =>
      bit (t.rd RST_STATUS.PART_ACTIVE) p = false ∧ p ∉ t.fe.held ∧ t.mem = s.mem ∧ t.tds = s.tds ∧
      ∀ k < 8, k ≠ p → bit (t.rd RST_STATUS.PART_ACTIVE) k = bit (s.rd RST_STATUS.PART_ACTIVE) k)) ∧
  (∀ (s : State) (slot typ unit core : Nat), slot < 8 → typ < 8 → unit < 64 → core < 4 → s.winUp .rst = true →
    let l := [(RST_BLOCK.TYPE, slot), (RST_BLOCK.UNIT, slot), (RST_BLOCK.CORE, slot)]
    let named (t : State) : Prop := t.rd RST_BLOCK.TYPE slot = typ ∧ t.rd RST_BLOCK.UNIT slot = unit ∧ t.rd RST_BLOCK.CORE slot = core
    (s.on RST_BLOCK.BUSY slot = true → Answers (.blockReset slot typ unit core) s fun t => t.on CFG.CFG_ERR Blk.rst.idx = true ∧
      WriteEv s t [(CFG.CFG_ERR, Blk.rst.idx), (CFG.ERR_OFFSET, Blk.rst.idx)]) ∧
    (s.on RST_BLOCK.BUSY slot = false → s.blkPresent typ unit = false → Answers (.blockReset slot typ unit core) s fun t =>
      t.on CFG.CFG_ERR Blk.rst.idx = true ∧ WriteEv s t ((CFG.CFG_ERR, Blk.rst.idx) :: (CFG.ERR_OFFSET, Blk.rst.idx) :: l)) ∧
    (s.on RST_BLOCK.BUSY slot = false → s.blkPresent typ unit = true →
      (s.on RST_STATUS.WARM_ACTIVE = true ∨ s.blkTaken typ unit core = true →
        Answers (.blockReset slot typ unit core) s fun t => named t ∧ t.rd RST_BLOCK.RESULT slot = 3 ∧
          WriteOnly s t ((RST_BLOCK.RESULT, slot) :: l)) ∧
      (s.on RST_STATUS.WARM_ACTIVE = false → s.blkTaken typ unit core = false →
        Answers (.blockReset slot typ unit core) s fun t => named t ∧ t.on RST_BLOCK.BUSY slot = true ∧ t.rd RST_BLOCK.RESULT slot = 0 ∧
          t.rsts = s.rsts ++ [{ typ := typ, unit := unit, core := core, slot := some slot, since := s.now }] ∧
          (typ = 4 → ∀ p < 4, t.on GLZ_PIPE.EN p = false) ∧ (typ ≠ 4 → t.mem = s.mem ∧ t.fe = s.fe ∧ t.sh = s.sh ∧ t.tly = s.tly)))) ∧
  (∀ (s : State) (typ unit core : Nat), s.rsts.find? (fun r => r.isFor typ unit core) = none →
    exec (.idleTimeout typ unit core) s = .next s ∧ exec (.blockResetDone typ unit core) s = .next s) ∧
  (∀ (s : State) (typ unit core : Nat) (r : BlkRst), s.rsts.find? (fun r => r.isFor typ unit core) = some r →
    (r.phase ≠ 0 ∨ s.blkIdle typ unit core = true ∨ s.now < r.since + s.rd RST_CFG.IDLE_US * 1000 →
      exec (.idleTimeout typ unit core) s = .next s) ∧
    (r.phase = 0 → s.blkIdle typ unit core = false → exec (.blockResetDone typ unit core) s = .next s) ∧
    (r.phase = 0 → s.blkIdle typ unit core = false → r.since + s.rd RST_CFG.IDLE_US * 1000 ≤ s.now →
      Answers (.idleTimeout typ unit core) s fun t =>
        t.rsts = s.rsts.map (fun (x : BlkRst) => if x.isFor typ unit core then { x with phase := 1 } else x) ∧
        (∀ c ∈ s.unitCtxs typ unit core, s.rd FE_CTX.STATE c = 1 → t.rd FE_CTX.STATE c = 2 ∧
          ∃ td, t.tds.get? c = some td ∧ td.driver = false ∧ td.code = r.code)) ∧
    (r.phase ≠ 0 ∨ s.blkIdle typ unit core = true → r.test = false → Answers (.blockResetDone typ unit core) s fun t =>
      t.rsts = s.otherRsts typ unit core ∧ ∀ k, r.slot = some k → t.on RST_BLOCK.BUSY k = false ∧
        t.rd RST_BLOCK.RESULT k = if r.phase = 0 then 1 else 2)) ∧
  (∀ (s : State) (n : Nat), n = 0 ∨ 63 < n ∨ s.bus.vfEn = false ∨ s.bus.numVfs < n → exec (.vfFlr n) s = .next s) ∧
  (∀ s : State, s.rd PWR_STATUS.STATE = 0 → s.pwr.entry = none →
    let ends (t : State) (c : Nat) : Prop :=
      (s.rd FE_CTX.STATE c = 1 → t.rd FE_CTX.STATE c = 2 ∧ t.on FE_CTX.EN c = false ∧ ∃ td, t.tds.get? c = some td ∧ td.driver = true) ∧
      (s.rd FE_CTX.STATE c = 3 → t.rd FE_CTX.STATE c = 0 ∧ t.on FE_CTX.EN c = false)
    (∀ n, 0 < n → n ≤ 63 → s.bus.vfEn = true → n ≤ s.bus.numVfs → Answers (.vfFlr n) s fun t =>
      let own (c : Nat) : Prop := s.rd GLB_VF_MAP.CTX_BASE n ≤ c ∧ c < s.rd GLB_VF_MAP.CTX_BASE n + s.rd GLB_VF_MAP.CTX_COUNT n
      (∀ c, own c → ends t c) ∧ (∀ c, ¬ own c → t.rd FE_CTX.STATE c = s.rd FE_CTX.STATE c ∧ t.rd FE_CTX.EN c = s.rd FE_CTX.EN c) ∧
      n ∉ t.bus.msixEn ∧ (∀ f, f ≠ n → (f ∈ t.bus.msixEn ↔ f ∈ s.bus.msixEn)) ∧ t.bus.latch.get? n = none ∧ t.bus.splitLow.get? n = none ∧
      t.mem = s.mem ∧ t.sh = s.sh) ∧
    (s.boot.por = false → s.boot.perst = false → s.boot.hold = false → Answers .pfFlr s fun t => (∀ c < 1024, ends t c) ∧
      (s.pats.slots = [] → ∀ q < 2048, t.rd FE_Q.STATE q = 0) ∧ (∀ n < 1024, t.on FE_PAT.EN n = false) ∧ t.bus.vfEn = false ∧
      (∀ n < 64, t.rd GLB_VF_MAP.CTX_COUNT n = 0 ∧ t.rd INTC_TGT.EN n = 0 ∧ n ∉ t.bus.msixEn)))

/-- The power states (R581 to R590): an entry is refused with its reason or begins, and stops fetching and the tick; DOZE drops translations,
NAP and OFF clean the L2 first, put HBM into self-refresh and lose the Beams and their ownership; a wake source that meets an entry aborts it, and
an enabled one returns the device to ACTIVE; a failed check of NAP exit asks for a warm reset. An access brings back one domain, which is
gated again after 100 µs. -/
def Obligations.PowerStatesEnterAndWake : Prop :=
  (∀ (s : State) (kind : Nat) (c : Instr), (kind, c) ∈ [(1, Instr.dozeEntry), (2, .napEntry), (3, .offEntry 0xA5)] → s.winUp .rst = true →
    let busy := (∃ p < 4, s.on GLZ_PIPE.EN p = true) ∨ s.rd FE_STATUS.IDLE ≠ 0x1F ∨ s.sh.grps ≠ [] ∨ s.rd PRS_STATUS.BUSY ≠ 0 ∨
      (∃ q < 2048, s.on FE_Q.DB_PENDING q = true) ∨ (∃ n < 12, s.on LOOM_STATUS.BUSY n = true ∨ s.on LOOM_STATUS.SAVED n = true) ∨
      s.on RST_STATUS.WARM_ACTIVE = true ∨ s.rsts ≠ []
    let answersWith (n : Nat) : Prop := Answers c s fun t => t.rd PWR_STATUS.RESULT = n ∧ WriteOnly s t [(PWR_STATUS.RESULT, 0)]
    (s.on RST_BOOT_CTL.ENABLED = false → answersWith 5) ∧ (s.on RST_BOOT_CTL.ENABLED = true → busy → answersWith 2) ∧
    (s.on RST_BOOT_CTL.ENABLED = true → s.allIdle = true → kind = 2 → s.rd PXL_STATUS.JOINED ≠ 2 ^ s.dev → answersWith 3) ∧
    (s.on RST_BOOT_CTL.ENABLED = true → s.allIdle = true → (kind = 2 → s.rd PXL_STATUS.JOINED = 2 ^ s.dev) → Answers c s fun t =>
      t.on PWR_STATUS.ENTERING = true ∧ t.rd PWR_STATUS.RESULT = 0 ∧ t.fe = { s.fe with run := false } ∧ t.tick.run = false ∧
      t.pwr = { s.pwr with entry := some (kind, s.now), ask := false } ∧
      WriteOnly { s with fe := t.fe, tick := t.tick, pwr := t.pwr } t [(PWR_STATUS.ENTERING, 0), (PWR_STATUS.RESULT, 0)])) ∧
  (∀ (s : State) (key : Nat), s.winUp .rst = true → key ≠ 0xA5 → Answers (.offEntry key) s fun t => t.rd PWR_STATUS.RESULT = 6 ∧
    WriteOnly s t [(PWR_STATUS.RESULT, 0)]) ∧
  (∀ s : State, s.pwr.entry = none → exec .powerEntryDone s = .next s ∧ exec .entryAbort s = .next s) ∧
  (∀ (s : State) (kind since : Nat), s.pwr.entry = some (kind, since) →
    (s.pwr.ask = true → exec .powerEntryDone s = .next s) ∧
    (s.pwr.ask = false ∨ kind = 3 → exec .entryAbort s = .next s) ∧
    (s.pwr.ask = true → kind ≠ 3 → Answers .entryAbort s fun t => t.on PWR_STATUS.ENTERING = false ∧ t.rd PWR_STATUS.RESULT = 4 ∧
      t.fe.run = true ∧ t.tick.run = true ∧ t.pwr = { s.pwr with entry := none, ask := false } ∧ t.rd PWR_STATUS.STATE = s.rd PWR_STATUS.STATE ∧
      t.mem = s.mem ∧ t.sh = s.sh ∧ t.fe.strms = s.fe.strms) ∧
    (s.pwr.ask = false → kind = 1 → Answers .powerEntryDone s fun t => t.rd PWR_STATUS.STATE = 1 ∧ t.on PWR_STATUS.ENTERING = false ∧
      t.rd PWR_STATUS.RESULT = 1 ∧ t.pwr.entry = none ∧ t.mmu.tlb = [] ∧ t.mem = s.mem ∧ t.looms = s.looms ∧ t.fe = s.fe) ∧
    (s.pwr.ask = false → kind = 2 ∨ kind = 3 → s.quietMem → (s.mem.l2.map (·.1)).Nodup → s.on DBG_TRACE.TRACE_EN = false →
      Answers .powerEntryDone s fun t => t.on PWR_STATUS.ENTERING = false ∧ t.rd PWR_STATUS.RESULT = 1 ∧ t.mem.l2 = [] ∧ t.mmu.tlb = [] ∧
        (∀ pa, s.nearPa pa → t.homeByte pa = s.lineByte pa) ∧ (∀ m < 4, t.on MC_STATUS.SELF_REFRESH m = true) ∧
        (∀ n, (t.loom n).beam = []) ∧ (∀ n < 12, t.on LOOM_STATUS.OWNED n = false) ∧ t.levelOf 0 = 0 ∧ t.levelOf 1 = 0 ∧
        (kind = 2 → t.rd PWR_STATUS.STATE = 2 ∧ t.pwr.off = s.pwr.off) ∧
        (kind = 3 → t.on PWR_STATUS.OFF_READY = true ∧ t.pwr.off = true ∧ t.rd ODM_NMT.STATE = 0))) ∧
  (∀ (s : State) (src : Nat) (ok : Bool), src < 4 → s.pwr.off = false →
    let st := s.rd PWR_STATUS.STATE
    let runs (t : State) : Prop := t.rd PWR_STATUS.STATE = 0 ∧ t.fe.run = true ∧ t.tick.run = true ∧ t.tick.first = true ∧ t.pwr.ask = false
    (st ≠ 0 → s.wakeEn src = false ∨ (src = 1 ∧ st = 2) → exec (.wake src ok) s = .next s) ∧
    (st = 1 → src ≠ 3 → s.wakeEn src = true → Answers (.wake src ok) s fun t => runs t ∧ bit (t.rd PWR_WAKE_SRC.SRC) src = true ∧
      t.mem = s.mem ∧ t.fe.strms = s.fe.strms) ∧
    (st = 2 → src ≠ 1 → src ≠ 3 → s.wakeEn src = true → ok = true → s.on DBG_TRACE.TRACE_EN = false → Answers (.wake src ok) s fun t => runs t ∧
      bit (t.rd PWR_WAKE_SRC.SRC) src = true ∧ (∀ m < 4, t.on MC_STATUS.SELF_REFRESH m = false) ∧
      t.rd ODM_NMT.STATE = s.odm.nmtNap % 2 ^ ODM_NMT.STATE.w ∧ t.mem = s.mem) ∧
    (st = 2 → src ≠ 1 → src ≠ 3 → s.wakeEn src = true → ok = false → s.rd SAF_INC.LEVEL 2 ≤ 5 → Answers (.wake src ok) s fun t => t.fe.run = s.fe.run ∧
      t.rd PWR_STATUS.STATE = 0 ∧ (t.saf.wantWarm = true ∨ t.saf.wantFull = true)) ∧
    (st = 0 → s.pwr.entry = none → exec (.wake src ok) s = .next s) ∧
    (st = 0 → s.pwr.entry ≠ none → s.wakeEn src = true → Answers (.wake src ok) s fun t => t.pwr.ask = true ∧
      bit (t.rd PWR_WAKE_SRC.SRC) src = true ∧ WriteOnly { s with pwr := t.pwr } t [(PWR_WAKE_SRC.SRC, 0)]) ∧
    (st ≠ 0 → s.pwr.ask = true → s.on DBG_TRACE.TRACE_EN = false → Answers (.wake 4 true) s fun t => runs t ∧ t.mem = s.mem) ∧
    (st = 2 → s.on PWR_WAKE_EN.CAN = true → Answers .wakeIn s fun t => t.pwr.ask = true ∧ bit (t.rd PWR_WAKE_SRC.SRC) 1 = true ∧
      WriteOnly { s with pwr := t.pwr } t [(PWR_WAKE_SRC.SRC, 0)]) ∧
    (st ≠ 2 ∨ s.on PWR_WAKE_EN.CAN = false → exec .wakeIn s = .next s) ∧
    (s.winUp .rst = true → st ≠ 0 → Answers .activeCmd s fun t => t.pwr.ask = true ∧ t.on PWR_WAKE_SRC.ACCESS = true ∧
      WriteOnly { s with pwr := t.pwr } t [(PWR_WAKE_SRC.ACCESS, 0)]) ∧
    (s.winUp .rst = true → st = 0 → s.pwr.entry = none → exec .activeCmd s = .next s)) ∧
  (∀ (s : State) (g : Nat) (level : Bool), g < 16 → Answers (.gpioEdge g level) s fun t => bit (t.rd GLB_GPIO.IN) g = level ∧
    (∀ k < 16, k ≠ g → bit (t.rd GLB_GPIO.IN) k = bit (s.rd GLB_GPIO.IN) k) ∧
    WriteOnly { s with pwr := t.pwr } t [(GLB_GPIO.IN, 0), (PWR_WAKE_SRC.GPIO, 0)] ∧
    (bit (s.rd PWR_WAKE_EN.GPIO) g = false ∨ bit (s.rd GLB_GPIO.DIR) g = true → t.pwr = s.pwr) ∧
    (s.pwr.off = false → s.rd PWR_STATUS.STATE ≠ 0 → bit (s.rd PWR_WAKE_EN.GPIO) g = true → bit (s.rd GLB_GPIO.DIR) g = false →
      bit (s.rd GLB_GPIO.IN) g = !level → bit (s.rd GLB_GPIO.FALL) g = !level → t.pwr.ask = true ∧ bit (t.rd PWR_WAKE_SRC.GPIO) g = true)) ∧
  (∀ (s : State) (a d : Nat), domainOf a = some d → (s.unitThere a = false → exec (.domainWakeAccess a) s = .next s) ∧
    (s.unitThere a = true → s.pwr.off = false → s.on RST_BOOT_CTL.ENABLED = true → s.rd PWR_STATUS.STATE = 0 →
      (s.gatedUnit a = none → exec (.domainWakeAccess a) s = .next s) ∧
      ∀ u, s.gatedUnit a = some u → Answers (.domainWakeAccess a) s fun t => t.rd PWR_STATUS.STATE = 0 ∧
        t.pwr.woken.get? u = some s.now ∧ ((s.pwr.woken.get? u).isNone = true →
          s.rd PWR_CTR.DOMAIN_WAKES + 1 < 2 ^ PWR_CTR.DOMAIN_WAKES.w - 1 →
          t.rd PWR_CTR.DOMAIN_WAKES = s.rd PWR_CTR.DOMAIN_WAKES + 1) ∧ t.fe = s.fe ∧ t.mem = s.mem)) ∧
  (∀ (s : State) (a d : Nat), domainOf a = some d → s.unitThere a = true → s.pwr.off = false →
    s.on RST_BOOT_CTL.ENABLED = true → s.rd PWR_STATUS.STATE = 1 →
    Answers (.domainWakeAccess a) s fun t => t.rd PWR_STATUS.STATE = 1 ∧ t.pwr.woken.get? d = some s.now ∧
      (d < 4 → bit (t.rd PWR_DOMAIN.CLUSTERS_Q) d = true) ∧ (4 ≤ d → d < 8 → bit (t.rd PWR_DOMAIN.LOOMS_Q) (d - 4) = true) ∧
      ((s.pwr.woken.get? d).isNone = true → s.rd PWR_CTR.DOMAIN_WAKES + 1 < 2 ^ PWR_CTR.DOMAIN_WAKES.w - 1 →
        t.rd PWR_CTR.DOMAIN_WAKES = s.rd PWR_CTR.DOMAIN_WAKES + 1) ∧ t.fe = s.fe ∧ t.mem = s.mem) ∧
  (∀ (s : State) (d : Nat),
    (s.pwr.woken.get? d = none → exec (.domainRegate d) s = .next s) ∧
    ∀ since, s.pwr.woken.get? d = some since → (s.now < since + 100000 → exec (.domainRegate d) s = .next s) ∧
      (since + 100000 ≤ s.now → Answers (.domainRegate d) s fun t => t.pwr.woken.get? d = none ∧
        (s.rd PWR_STATUS.STATE = 1 → d < 4 → bit (t.rd PWR_DOMAIN.CLUSTERS_Q) d = false) ∧ t.mem = s.mem))

/-- Detection and the fault outputs (R594, R595, R599, R601 to R604). A core patrol's mismatch asks for the cluster's reset and test; a
fabric replay is an L0 incident, a second failure L3 without the L2's clean; a lockstep error and a watchdog of shared logic open the device
incident at L3 or L4; a unit's watchdog faults its contexts and resets its block. A recovery that overruns 1 ms degrades. SAFE_REQ_N
reports, holds, stops the partitions of SAFE_PARTS or asks for a warm reset, and waits during a reset. -/
def Obligations.FaultsAreContained : Prop :=
  let quiet (s : State) : Prop := (∀ k < 3, s.rd SAF_INC.OPEN k = 0) ∧ s.saf.l0 = []
  let device (s t : State) (l : Nat) : Prop := t.on SAF_INC.OPEN 2 = true ∧ t.on SAF_STATUS.FAULT = true ∧ RecordOnly s t ∧
    (s.on SAF_INC.OPEN 2 = false → t.rd SAF_INC.LEVEL 2 = l ∧ (if l = 4 then t.saf.wantWarm = true else t.saf.wantFull = true))
  (∀ (s : State) (c k : Nat),
    exec (.corePatrol c k false) s = .next s ∧ (s.coreUp c k = false → exec (.corePatrol c k true) s = .next s) ∧
    (c < 48 → k < 4 → s.coreUp c k = true → exec (.corePatrol c k true) s = .next (State.count { s with
      rsts := s.rsts ++ [{ typ := 1, unit := c, since := s.now, code := 0xB0, inc := 0, test := true, trigger := 6 }] } RST_CTR.BLOCK_RESETS))) ∧
  (∀ s : State, quiet s →
    (Answers (.fabricCrcError false) s fun t => RecordOnly s t ∧ t.saf.l0 = [] ∧ (∀ k < 3, t.rd SAF_INC.OPEN k = 0) ∧
      t.saf.wantWarm = s.saf.wantWarm ∧ t.rd LDG_INCIDENT.NEXT = (s.rd LDG_INCIDENT.NEXT + 1) % 2 ^ LDG_INCIDENT.NEXT.w ∧
      (s.rd SAF_CTR.L0 + 1 < 2 ^ SAF_CTR.L0.w - 1 → t.rd SAF_CTR.L0 = s.rd SAF_CTR.L0 + 1)) ∧
    (Answers (.fabricCrcError true) s fun t => device s t 4 ∧ t.saf.noClean = true ∧ t.on SAF_STATUS.SHARED = true ∧
      t.rd SAF_INC.INCIDENT 2 = s.rd LDG_INCIDENT.NEXT % 2 ^ SAF_INC.INCIDENT.w)) ∧
  (∀ s : State,
    (Answers (.lockstepError false) s fun t => device s t 4 ∧ t.on SAF_STATUS.LOCKSTEP = true ∧ t.on SAF_STATUS.SHARED = true) ∧
    (Answers (.lockstepError true) s fun t => device s t 5 ∧ t.rd SAF_STATUS.LOCKSTEP = s.rd SAF_STATUS.LOCKSTEP)) ∧
  (∀ (s : State) (unit : Nat),
    (∀ kind, 4 ≤ kind → kind ≤ 6 → Answers (.watchdogFire kind unit) s fun t => device s t 4 ∧ t.on SAF_STATUS.WDOG = true ∧
      t.on SAF_STATUS.SHARED = true) ∧
    (Answers (.watchdogFire 7 unit) s fun t => device s t 5 ∧ t.on SAF_STATUS.WDOG = true ∧ t.rd SAF_STATUS.SHARED = s.rd SAF_STATUS.SHARED) ∧
    (∀ kind, 8 ≤ kind → exec (.watchdogFire kind unit) s = .next s) ∧
    let work (kind : Nat) : Prop := (kind = 0 ∧ s.present 1 unit = true ∧ ∃ p ∈ s.sh.grps, clusterOf p.1 = unit) ∨
      (kind = 1 ∧ s.present 3 unit = true ∧ s.on LOOM_STATUS.BUSY unit = true ∧ s.on LOOM_STATUS.WAITING unit = false) ∨
      (kind = 2 ∧ s.present 2 unit = true ∧ ∃ b ∈ s.crd.batches, b.2.rtu = some unit) ∨
      (kind = 3 ∧ s.present 8 unit = true ∧ s.prsCtxs ≠ [])
    ∀ kind < 4, (¬ work kind → exec (.watchdogFire kind unit) s = .next s) ∧
      (work kind → Answers (.watchdogFire kind unit) s fun t =>
        let typ := if kind = 1 then 2 else if kind = 3 then 3 else 1
        t.on SAF_STATUS.WDOG = true ∧ (∃ r ∈ t.rsts, r.typ = typ ∧ (typ < 3 → r.unit = unit)) ∧
        (kind ≠ 2 → ∀ c ∈ s.unitCtxs typ unit 0, s.rd FE_CTX.STATE c = 1 → t.rd FE_CTX.STATE c = 2 ∧
          ∃ td, t.tds.get? c = some td ∧ td.driver = false ∧ td.code = 0xD0) ∧ t.mem = s.mem ∧ t.sh = s.sh)) ∧
  (∀ (s : State) (k : Nat),
    (2 ≤ k ∨ s.on SAF_INC.OPEN k = false ∨ s.now < s.rd SAF_INC.DETECT_TIME k + 1000000 → exec (.recoveryOverrun k) s = .next s) ∧
    (k < 2 → s.on SAF_INC.OPEN k = true → s.rd SAF_INC.DETECT_TIME k + 1000000 ≤ s.now → Answers (.recoveryOverrun k) s fun t =>
      s.rd SAF_INC.INCIDENT k ∈ t.saf.overrun ∧ RecordOnly s t ∧
      (s.saf.overrun.contains (s.rd SAF_INC.INCIDENT k) = false → bit (s.rd SAF_CFG.DEG_MASK) 1 = true → t.on SAF_STATUS.DEGRADED = true))) ∧
  (∀ s : State, Answers .capGenRead s fun t => t.rdata = s.cap.gen ∧ t.saf.shrunk = false ∧ RecordOnly { s with rdata := t.rdata } t) ∧
  (∀ s : State,
    (s.on SAF_STATUS.SAFE_REQ = true ∨ s.boot.por = true → exec .safeReqAssert s = .next s) ∧
    (s.on SAF_STATUS.SAFE_REQ = false → s.boot.por = false →
      let a := s.rd SAF_CFG.SAFE_ACTION
      let late := s.on RST_BOOT_CTL.ENABLED = false ∨ (s.on RST_STATUS.WARM_ACTIVE = true ∧ a ≠ 3)
      (late → Answers .safeReqAssert s fun t => t.on SAF_STATUS.SAFE_REQ = true ∧ t.saf.safeWait = true ∧ t.saf.hold = s.saf.hold ∧
        RecordOnly s t) ∧
      (¬ late → Answers .safeReqAssert s fun t => t.on SAF_STATUS.SAFE_REQ = true ∧ t.mem = s.mem ∧ t.sh = s.sh ∧
        (a = 0 → RecordOnly s t ∧ t.saf.hold = s.saf.hold) ∧ (a = 1 → t.saf.hold = true ∧ t.fe = s.fe ∧ t.tds = s.tds) ∧
        (a = 2 → t.on SAF_STATUS.FAULT = true ∧ ∀ c < 1024,
          let stop := s.rd FE_CTX.STATE c = 1 ∧ bit (s.rd SAF_CFG.SAFE_PARTS) (s.rd FE_CTX.PART c) = true
          (stop → t.rd FE_CTX.STATE c = 2 ∧ ∃ td, t.tds.get? c = some td ∧ td.driver = false ∧ td.code = 0xD1) ∧
          (¬ stop → t.rd FE_CTX.STATE c = s.rd FE_CTX.STATE c ∧ t.tds.get? c = s.tds.get? c)) ∧
        (a = 3 → t.on SAF_STATUS.FAULT = true ∧ RecordOnly s t ∧
          (s.on RST_STATUS.WARM_ACTIVE = false → s.on SAF_INC.OPEN 2 = false → t.on SAF_INC.OPEN 2 = true ∧ t.saf.wantWarm = true)))) ∧
    (s.on SAF_STATUS.SAFE_REQ = false → exec .safeReqRelease s = .next s) ∧
    (s.on SAF_STATUS.SAFE_REQ = true → Answers .safeReqRelease s fun t => t.on SAF_STATUS.SAFE_REQ = false ∧ t.saf.hold = false ∧
      t.saf.safeWait = false ∧ t.fe = s.fe ∧ t.mem = s.mem ∧ t.tds = s.tds ∧
      ((∀ c ∈ s.saf.causes, c = 4) → (∀ k < 3, s.rd SAF_INC.OPEN k = 0) → s.rd SAF_ROUTED.HIT = 0 → s.saf.routedLevel = [] →
        t.on SAF_STATUS.FAULT = false)))

/-- The Assayer (R606 to R608, R610 to R612): one test runs at a time; one that passes is transient and the third within 24 operating
hours lasting; a lasting cluster or RTU takes its quadrant's unused spare and keeps its number, and otherwise the unit leaves the
capability table. A measurement plans the voltage of each level, withdraws those above their limit, and sets the margin. -/
def Obligations.AssayerTestsAndMeasures : Prop :=
  (∀ s : State, s.asy.queue = [] → exec .assayerTestStart s = .next s) ∧
  (∀ (s : State) (t : Test) (r : List Test), s.asy.queue = t :: r →
    (s.testReady t = false → exec .assayerTestStart s = .next s) ∧
    (s.testReady t = true → Answers .assayerTestStart s fun u => u.asy.running = some { t with since := s.now } ∧ u.asy.queue = r ∧
      u.on ASY_STATUS.TESTING = true ∧ u.rd ASY_STATUS.UNIT_TYPE = t.typ % 8 ∧ u.rd ASY_STATUS.UNIT = t.unit % 64 ∧
      (s.rd ASY_CTR.TESTS + 1 < 2 ^ ASY_CTR.TESTS.w - 1 → u.rd ASY_CTR.TESTS = s.rd ASY_CTR.TESTS + 1) ∧
      (t.typ = 1 → u.on LOOM_CHK_STATUS.TESTING t.unit = true) ∧ (t.typ = 2 → ∀ b ∈ u.crd.batches, b.2.rtu ≠ some t.unit) ∧
      u.cap = s.cap ∧ u.mem = s.mem ∧ u.sh = s.sh)) ∧
  (∀ (s : State) (fail : Bool), s.asy.running = none → exec (.testVerdict fail) s = .next s) ∧
  (∀ (s : State) (t : Test) (fail : Bool), s.asy.running = some t →
    let near := ((s.asy.transients.get? (64 * t.typ + t.unit)).getD []).filter (fun x => s.rd LDG_TIME.OPSEC < x + 86400)
    let lasting := fail = true ∨ 2 ≤ near.length
    let spare := (t.typ = 0 ∨ t.typ = 2) ∧ s.inTable 0x10 (t.unit / 12) = true
    Answers (.testVerdict fail) s fun u => u.asy.running = none ∧ u.on ASY_STATUS.TESTING = false ∧ u.on ASY_STATUS.VERDICT = true ∧
      (u.on ASY_STATUS.LASTING = true ↔ lasting) ∧
      (¬ lasting → u.cap = s.cap ∧ u.asy.transients.get? (64 * t.typ + t.unit) = some (s.rd LDG_TIME.OPSEC :: near) ∧
        (s.rd ASY_CTR.TRANSIENT + 1 < 2 ^ ASY_CTR.TRANSIENT.w - 1 → u.rd ASY_CTR.TRANSIENT = s.rd ASY_CTR.TRANSIENT + 1)) ∧
      (lasting → u.on ASY_STATUS.RETIRED = true ∧ u.cap.gen = s.cap.gen + 1) ∧
      (lasting → spare → u.inTable 0x10 (t.unit / 12) = false ∧ (∀ c, c ≠ 0x10 → u.capEnt c = s.capEnt c) ∧ u.saf.shrunk = s.saf.shrunk ∧
        ∀ k, s.sparePos (t.unit / 12) = some k → bits (u.rd GLB_YIELD.PHYS (t.unit / 12)) (4 * (t.unit % 12)) 4 = k) ∧
      (lasting → ¬ spare → t.typ ≤ 3 → u.inTable (unitClass t.typ) t.unit = false ∧ u.saf.shrunk = true ∧
        (t.typ = 0 → u.inTable 2 t.unit = false))) ∧
  (∀ (s : State) (d0 d1 : Nat),
    (s.rd LDG_TIME.OPSEC < s.asy.lastMeas + 86400 → s.pwr.bump = [] → exec (.ageingMeasure d0 d1) s = .next s) ∧
    (s.asy.lastMeas + 86400 ≤ s.rd LDG_TIME.OPSEC ∨ s.pwr.bump ≠ [] → s.on DBG_TRACE.TRACE_EN = false →
      Answers (.ageingMeasure d0 d1) s fun t => (∀ r < 2,
          let d := (if r = 0 then d0 else d1) % 0x10000
          t.rd ASY_AGE.DEGR r = d ∧ t.rd ASY_AGE.MEAS_OPSEC r = s.rd LDG_TIME.OPSEC % 2 ^ ASY_AGE.MEAS_OPSEC.w ∧
          (∀ l < 4, bits (t.rd PWR_AVS.V0_3 r) (16 * l) 16 = s.planned r l d % 2 ^ 16 ∧
            bits (t.rd PWR_AVS.V4_7 r) (16 * l) 16 = s.planned r (l + 4) d % 2 ^ 16) ∧
          (∀ l < 8, (r, l) ∈ t.asy.withdrawn ↔ (r, l) ∈ s.asy.withdrawn ∨ s.vmaxOf r l < s.planned r l d) ∧
          (∀ l < 8, (r, l) ∉ t.asy.withdrawn → l ≤ t.rd ASY_AGE.TOP_LEVEL r ∧
            t.rd ASY_AGE.MARGIN_MV r ≤ s.vmaxOf r l - s.planned r l d) ∧
          t.levelOf r ≤ t.rd ASY_AGE.TOP_LEVEL r ∧ (t.levelOf r ≠ s.levelOf r → t.levelOf r = t.rd ASY_AGE.TOP_LEVEL r)) ∧
        t.rd ASY_STATUS.MARGIN_MV = min (t.rd ASY_AGE.MARGIN_MV 0) (t.rd ASY_AGE.MARGIN_MV 1) ∧ t.asy.lastMeas = s.rd LDG_TIME.OPSEC ∧
        (t.rd ASY_STATUS.MARGIN_MV < s.rd ASY_CFG.EOL_MARGIN_MV → t.on ASY_STATUS.EOL = true) ∧
        (s.on ASY_STATUS.EOL = true → t.on ASY_STATUS.EOL = true) ∧ t.fe = s.fe ∧ t.mem = s.mem ∧ t.sh = s.sh))

/-- Appending (R617, R618, R621 to R623, R629): the next waiting record, the fault collection unit's first within its clock, is counted while
the ring is frozen, merges into an equal last record, or opens a new one at HEAD, which removes the records that it overlaps; where it
does not fit before the end of the ring a PAD fills the rest; after a loss a MIRROR_GAP comes first.

The mirror, clears and freezes (R625, R626, R628 to R630): the next settled record in record order is mirrored; the state area takes
the present values; a clear leaves the CLEARED record alone; one agent holds a freeze, and any other's freeze, unfreeze or clear is
refused; a freeze ends with its summary, also after FREEZE_MS. -/
def Obligations.LedgerWork : Prop :=
  (
  (∀ s : State, (∀ r ∈ s.ldg.wait, r.fcu = false ∧ s.foremanB = false) → exec .ledgerAppend s = .next s) ∧
  (∀ (s : State) (a b : LRec), s.ldg.wait = [a, b] → a.fcu = false → b.fcu = true → a.time = b.time → s.foremanB = true →
    Answers .ledgerAppend s fun t => t.ldg.wait = [a]) ∧
  (∀ (s : State) (r : LRec), s.ldg.wait = [r] → r.fcu = true ∨ s.foremanB = true →
    let n := (24 + r.body.length + 7) / 8 * 8
    let o := s.rd LDG_HEAD.OFFSET
    let at_ (p : Nat) : LEnt := {
      off := p, typ := r.typ, len := n / 8, flags := r.sev + (if r.fcu then 4 else 0), rep := 1,
      seq := s.rd LDG_SEQ.SEQ, opsec := s.rd LDG_TIME.OPSEC, pcyc := s.rd LDG_TIME.PCYC, time := r.time, body := r.body, changed := s.now }
    (s.on LDG_STATUS.FROZEN = true → Answers .ledgerAppend s fun t => t.ldg.wait = [] ∧ t.ldg.ring = s.ldg.ring ∧ t.ldg.bytes = s.ldg.bytes ∧
      t.ldg.fzMissed = s.ldg.fzMissed + 1 ∧ t.ldg.fzLast = r.time ∧ t.rd LDG_SEQ.SEQ = s.rd LDG_SEQ.SEQ ∧
      (s.rd LDG_CTR.MISSED + 1 < 2 ^ LDG_CTR.MISSED.w - 1 → t.rd LDG_CTR.MISSED = s.rd LDG_CTR.MISSED + 1)) ∧
    (s.on LDG_STATUS.FROZEN = false → s.ldgMerges r = true → ∀ e, s.ldg.ring.getLast? = some e → Answers .ledgerAppend s fun t =>
      t.ldg.wait = [] ∧ t.ldg.ring = s.ldg.ring.dropLast ++ [{ e with rep := e.rep + 1, time := r.time, changed := s.now }] ∧
      t.rd LDG_SEQ.SEQ = s.rd LDG_SEQ.SEQ ∧ t.rd LDG_HEAD.OFFSET = o ∧
      (s.rd LDG_CTR.REPEATS + 1 < 2 ^ LDG_CTR.REPEATS.w - 1 → t.rd LDG_CTR.REPEATS = s.rd LDG_CTR.REPEATS + 1)) ∧
    (s.on LDG_STATUS.FROZEN = false → s.ldgMerges r = false → s.ldg.gapLost = 0 → o < ldgBytes → o % 8 = 0 → r.body.length ≤ 1000 →
      (o + n ≤ ldgBytes → Answers .ledgerAppend s fun t => t.ldg.wait = [] ∧
        t.ldg.ring = s.ldg.ring.filter (fun e => !(e.meets o n || e.off == (o + n) % ldgBytes)) ++ [at_ o] ∧
        t.rd LDG_HEAD.OFFSET = (o + n) % ldgBytes ∧ t.rd LDG_SEQ.SEQ = (s.rd LDG_SEQ.SEQ + 1) % 2 ^ LDG_SEQ.SEQ.w ∧
        (s.ldg.bytes.wf = true → r.typ ≠ 0 → ∀ k < 24 + r.body.length, t.ldg.bytes.get (o + k) = (at_ o).image.getD k 0) ∧
        (∀ k, k < o ∨ o + n ≤ k → t.ldg.bytes.get k = s.ldg.bytes.get k) ∧ t.mem = s.mem ∧
        (s.rd LDG_CTR.RECORDS + 1 < 2 ^ LDG_CTR.RECORDS.w - 1 → t.rd LDG_CTR.RECORDS = s.rd LDG_CTR.RECORDS + 1)) ∧
      (ldgBytes < o + n → Answers .ledgerAppend s fun t => t.rd LDG_HEAD.OFFSET = n ∧
        t.rd LDG_SEQ.SEQ = (s.rd LDG_SEQ.SEQ + 1) % 2 ^ LDG_SEQ.SEQ.w ∧ t.ldg.ring.getLast? = some (at_ 0) ∧
        ∃ e ∈ t.ldg.ring, e.typ = 0 ∧ e.off = o ∧ e.len = (ldgBytes - o) / 8)) ∧
    (s.on LDG_STATUS.FROZEN = false → s.ldgMerges r = false → s.ldg.gapLost ≠ 0 → o < ldgBytes → o % 8 = 0 → r.body.length ≤ 1000 →
      Answers .ledgerAppend s fun t => ∃ e ∈ t.ldg.ring, e.typ = 4 ∧ e.seq = s.rd LDG_SEQ.SEQ ∧
        e.body = leBytes 8 s.ldg.gapLost ++ leBytes 8 s.ldg.gapFirst))
  ) ∧ (
  (∀ s : State,
    (∀ ok, s.nextMirror false = none → exec (.mirrorWrite ok) s = .next s) ∧
    (∀ e, s.nextMirror false = some e →
      (e ∈ s.ldg.ring ∧ e.mirrored = false ∧ e.typ ≠ 0 ∧
        (s.ldg.ring.getLast? = some e → e.changed + s.rd LDG_CFG.MIRROR_HOLD_MS * 1000000 ≤ s.now)) ∧
      (Answers (.mirrorWrite true) s fun t => t.ldg.flash = (if e.typ = 1 then [e] else s.ldg.flash ++ [e]) ∧ t.ldg.flashSeq = e.seq + 1 ∧ e ∉ t.ldg.ring ∧
        { e with mirrored := true } ∈ t.ldg.ring ∧ t.ldg.bytes = s.ldg.bytes ∧
        WriteOnly { s with ldg := t.ldg } t [(LDG_MIRRORED.OFFSET, 0)] ∧ t.rd LDG_MIRRORED.OFFSET = (e.off + 8 * e.len) % ldgBytes) ∧
      (Answers (.mirrorWrite false) s fun t => t.ldg = s.ldg ∧
        (s.rd LDG_CTR.MIRROR_ERR + 1 < 2 ^ LDG_CTR.MIRROR_ERR.w - 1 → t.rd LDG_CTR.MIRROR_ERR = s.rd LDG_CTR.MIRROR_ERR + 1))) ∧
    (exec (.stateAreaWrite true) s = .next { s with area := { s.area with
      seq := s.area.seq + 1, opsec := s.rd LDG_TIME.OPSEC, pcyc := s.rd LDG_TIME.PCYC,
      nextInc := s.rd LDG_INCIDENT.NEXT, downUs := s.rd SAF_CTR.DOWN_US, lastWrite := s.rd LDG_TIME.OPSEC } }) ∧
    (Answers (.stateAreaWrite false) s fun t => t.area = s.area ∧ t.ldg = s.ldg)) ∧
  (∀ (s : State) (who node key : Nat),
    (2 < who → exec (.ledgerClear who node key) s = .next s ∧ exec (.ledgerFreeze who) s = .next s ∧ exec (.ledgerUnfreeze who) s = .next s) ∧
    (s.winUp .ldg = true → key ≠ 0x5A → Answers (.ledgerClear 0 node key) s fun t => t.on CFG.CFG_ERR Blk.ldg.idx = true ∧
      WriteEv s t [(CFG.CFG_ERR, Blk.ldg.idx), (CFG.ERR_OFFSET, Blk.ldg.idx)]) ∧
    (who = 1 ∨ who = 2 → key ≠ 0x65706977 → exec (.ledgerClear who node key) s = .next { s with rdata := 0x06090030 }) ∧
    (who ≤ 2 → (who = 0 → s.winUp .ldg = true) →
      let sign := if who = 0 then 0x5A else 0x65706977
      let refused (c : Instr) : Prop := (who ≠ 0 → exec c s = .next { s with rdata := 0x08000022 }) ∧
        (who = 0 → Answers c s fun t => t.on CFG.CFG_ERR Blk.ldg.idx = true ∧
          WriteEv { s with rdata := t.rdata } t [(CFG.CFG_ERR, Blk.ldg.idx), (CFG.ERR_OFFSET, Blk.ldg.idx)])
      (s.on LDG_STATUS.FROZEN = true → s.rd LDG_STATUS.OWNER ≠ who →
        refused (.ledgerFreeze who) ∧ refused (.ledgerUnfreeze who) ∧ refused (.ledgerClear who node sign)) ∧
      (s.on LDG_STATUS.FROZEN = true → s.rd LDG_STATUS.OWNER = who → exec (.ledgerFreeze who) s = .next { s with rdata := 0 }) ∧
      (s.on LDG_STATUS.FROZEN = false → exec (.ledgerUnfreeze who) s = .next { s with rdata := 0 }) ∧
      (s.on LDG_STATUS.FROZEN = false → Answers (.ledgerFreeze who) s fun t => t.on LDG_STATUS.FROZEN = true ∧ t.rd LDG_STATUS.OWNER = who ∧
        t.ldg = { s.ldg with fzFirst := 0, fzLast := 0, fzSev := [0, 0, 0, 0], fzTypes := [], fzOther := 0, fzMissed := 0, fzSince := s.now } ∧
        t.rdata = 0 ∧ WriteOnly { s with ldg := t.ldg, rdata := 0 } t [(LDG_STATUS.FROZEN, 0), (LDG_STATUS.OWNER, 0)]) ∧
      (s.on LDG_STATUS.FROZEN = false → s.ldg.gapLost = 0 → s.rd LDG_HEAD.OFFSET + 40 ≤ ldgBytes → Answers (.ledgerClear who node sign) s fun t =>
        t.ldg.flash = [] ∧ t.ldg.wait = s.ldg.wait ∧ (∃ e, t.ldg.ring = [e] ∧ e.typ = 1 ∧ e.seq = s.rd LDG_SEQ.SEQ ∧
          e.body = leBytes 1 who ++ leBytes 1 (if who = 2 then node else 0) ++ leBytes 6 0 ++
            leBytes 8 (s.ldg.ring.filter (fun e => e.typ != 0)).length) ∧
        t.rd LDG_INCIDENT.NEXT = s.rd LDG_INCIDENT.NEXT ∧ t.rd LDG_TIME.OPSEC = s.rd LDG_TIME.OPSEC ∧ t.mem = s.mem) ∧
      (s.on LDG_STATUS.FROZEN = true → s.rd LDG_STATUS.OWNER = who → s.ldg.gapLost = 0 → s.ldg.fzTypes.length ≤ 16 → s.ldg.fzSev.length = 4 →
        s.rd LDG_HEAD.OFFSET < ldgBytes → (∀ e, s.ldg.ring.getLast? = some e → e.typ ≠ 2) → Answers (.ledgerUnfreeze who) s fun t =>
        t.on LDG_STATUS.FROZEN = false ∧ t.rdata = 0 ∧ ∃ e, t.ldg.ring.getLast? = some e ∧ e.typ = 2 ∧ e.seq = s.rd LDG_SEQ.SEQ ∧
          e.body.take 24 = leBytes 8 s.ldg.fzMissed ++ leBytes 8 s.ldg.fzFirst ++ leBytes 8 s.ldg.fzLast))) ∧
  (∀ s : State,
    (s.on LDG_STATUS.FROZEN = false ∨ s.now < s.ldg.fzSince + s.rd LDG_CFG.FREEZE_MS * 1000000 → exec .freezeTimeout s = .next s) ∧
    (s.on LDG_STATUS.FROZEN = true → s.ldg.fzSince + s.rd LDG_CFG.FREEZE_MS * 1000000 ≤ s.now → Answers .freezeTimeout s fun t =>
      t.on LDG_STATUS.FROZEN = false ∧ t.rd LDG_STATUS.OWNER = 0 ∧ t.mem = s.mem ∧ t.fe = s.fe))
  )

/-- Halting and stepping groups (R212, R213, R636 to R638): a halt of a DEBUG group takes effect at once where it waits and else at its
next boundary; one of no such group is refused and counted; a context's halt also stays for groups placed later; a resume releases and a
step issues one instruction, each only of a halted group; a write that names a group whose step runs sets CFG_ERR. DBG_ACC reads or writes
one register of the halted group, or sets ERR. -/
def Obligations.DebuggerHaltsGroups : Prop :=
  let shOnly (s t : State) : Prop := t = { s with regs := t.regs, sh := t.sh, irq := t.irq, out := t.out, freeCtr := t.freeCtr }
  (∀ (s : State) (cl co sl ctx : Nat), cl < 64 → co < 4 → sl < 64 → ctx < 1024 → s.winUp .dbg = true →
    let g := (cl * 4 + co) * 48 + sl
    let said (c : Instr) (n : Nat) : Prop := Answers c s fun t => t.rd DBG_HALT_STATUS.LAST = n ∧ t.sh = s.sh ∧ shOnly s t
    let busy (c : Instr) : Prop := Answers c s fun t => t.on CFG.CFG_ERR Blk.dbg.idx = true ∧
      WriteEv s t [(CFG.CFG_ERR, Blk.dbg.idx), (CFG.ERR_OFFSET, Blk.dbg.idx)]
    let takes (c : Instr) (y : Grp) : Prop := Answers c s fun t => t.rd DBG_HALT_STATUS.LAST = 0 ∧ t.sh.grps.get? g = some y ∧
      (∀ k, k ≠ g → t.sh.grps.get? k = s.sh.grps.get? k) ∧ shOnly s t ∧ t.sh = { s.sh with grps := t.sh.grps }
    (∀ x, s.sh.grps.get? g = some x → x.stepping ≠ 0 →
      busy (.halt cl co sl false ctx) ∧ busy (.resume cl co sl false ctx) ∧ busy (.step cl co sl false ctx)) ∧
    (s.sh.grps.get? g = none → said (.resume cl co sl false ctx) 3 ∧ said (.step cl co sl false ctx) 3 ∧
      (s.present 1 cl = false → said (.halt cl co sl false ctx) 2) ∧ (s.present 1 cl = true → said (.halt cl co sl false ctx) 1)) ∧
    (∀ x, s.sh.grps.get? g = some x → x.stepping = 0 →
      (s.present 1 cl = true → s.debugGrp g = false → said (.halt cl co sl false ctx) 1) ∧
      (s.present 1 cl = true → s.debugGrp g = true → x.halted = true ∨ x.ended = true → said (.halt cl co sl false ctx) 0) ∧
      (s.present 1 cl = true → s.debugGrp g = true → x.halted = false → x.ended = false → takes (.halt cl co sl false ctx)
        (if x.wait = .none then { x with haltReq := true } else { x with halted := true, haltReq := false, stepping := 0 })) ∧
      (x.halted = false → said (.resume cl co sl false ctx) 3 ∧ said (.step cl co sl false ctx) 3) ∧
      (x.halted = true → takes (.resume cl co sl false ctx) { x with halted := false, haltReq := false, stepping := 0 } ∧
        takes (.step cl co sl false ctx) { x with halted := false, stepping := 1 })) ∧
    ((∀ d ∈ s.sh.disps, d.2.ctx = ctx → d.2.kd.debug = false) → said (.halt cl co sl true ctx) 1) ∧
    ((∃ d ∈ s.sh.disps, d.2.ctx = ctx ∧ d.2.kd.debug = true) → Answers (.halt cl co sl true ctx) s fun t =>
      t.rd DBG_HALT_STATUS.LAST = 0 ∧ ctx ∈ t.sh.sticky ∧ ∀ k x, s.sh.grps.get? k = some x → x.ctx = ctx → s.debugGrp k = true →
        x.ended = false → ∃ y, t.sh.grps.get? k = some y ∧ (y.halted = true ∨ y.haltReq = true)) ∧
    (ctx ∈ s.sh.sticky → Answers (.resume cl co sl true ctx) s fun t => t.rd DBG_HALT_STATUS.LAST = 0 ∧ ctx ∉ t.sh.sticky ∧
      ∀ k x, s.sh.grps.get? k = some x → x.ctx = ctx → s.debugGrp k = true →
        t.sh.grps.get? k = some { x with halted := false, haltReq := false, stepping := 0 }) ∧
    said (.step cl co sl true ctx) 3) ∧
  (∀ (s : State) (g : Nat), s.sh.grps.get? g = none → exec (.groupHalted g) s = .next s) ∧
  (∀ (s : State) (g : Nat) (x : Grp), s.sh.grps.get? g = some x →
    let due := (x.haltReq = true ∨ x.stepping = 2) ∧ x.wait = .none ∧ x.rets = [] ∧ x.ended = false
    (¬ due → exec (.groupHalted g) s = .next s) ∧
    (due → Answers (.groupHalted g) s fun t => t.sh.grps.get? g = some { x with halted := true, haltReq := false, stepping := 0 } ∧
      (∀ k, k ≠ g → t.sh.grps.get? k = s.sh.grps.get? k) ∧ shOnly s t)) ∧
  (∀ (s : State) (space reg lane : Nat) (write : Bool), space < 2 → reg < 512 → lane < 32 → s.winUp .dbg = true →
    let bad := Answers (.dbgAcc space reg lane write) s fun t => t.on DBG_ACC.ERR = true ∧ t.sh = s.sh ∧
      t.rd DBG_DATA.DATA = s.rd DBG_DATA.DATA ∧
      WriteOnly s t [(DBG_ACC.SPACE, 0), (DBG_ACC.REG, 0), (DBG_ACC.LANE, 0), (DBG_ACC.WRITE, 0), (DBG_ACC.ERR, 0)]
    (s.genv s.dbgGroup = none → bad) ∧
    ∀ e, s.genv s.dbgGroup = some e →
      (e.grp.halted = false ∨ dbgRead e space reg lane = none → bad) ∧
      (∀ v, e.grp.halted = true → dbgRead e space reg lane = some v → Answers (.dbgAcc space reg lane write) s fun t =>
        t.on DBG_ACC.ERR = false ∧
        (write = false → t.rd DBG_DATA.DATA = v % 2 ^ 64 ∧ t.sh = s.sh) ∧
        (write = true → GrpOnly { s with regs := t.regs } t s.dbgGroup (dbgWrite e.grp space reg lane (s.rd DBG_DATA.DATA)))))

/-- The TAP (R633 to R635): IDCODE shifts the identity out; EXTEST and CLAMP drive the pins only while PERST# is asserted and otherwise act
as BYPASS; a sample changes no pin (the boundary's cells are free values, log entry 51); DBGACC is refused unless JTAG_EN is set, and for
a write of the GLB window, and is not offered in recovery mode. -/
def Obligations.TapInstructions : Prop :=
  let only (s t : State) : Prop := t = { s with out := t.out, jtag := t.jtag, freeCtr := t.freeCtr }
  ∀ s : State,
    (Answers .idcode s fun t => t.jtag.ir = 1 ∧ t.jtag.pins = none ∧ only s t ∧
      t.out = s.out ++ [.tdo 32 (s.rd GLB_ID.BASE * 2 ^ 28 + 0x9240 * 2 ^ 12 + Config.jedecId % 2 ^ 11 * 2 + 1)]) ∧
    (Answers .bypass s fun t => t.jtag.ir = 0x1F ∧ t.jtag.pins = none ∧ t.out = s.out ++ [.tdo 1 0] ∧ only s t) ∧
    (∀ v, Answers (.extest v) s fun t => only s t ∧ t.jtag.ir = 0 ∧
      (s.boot.perst = true → t.jtag.pins = some v) ∧ (s.boot.perst = false → t.jtag.pins = none ∧ t.out = s.out ++ [.tdo 1 0])) ∧
    (Answers .clamp s fun t => only s t ∧ t.jtag.ir = 3 ∧ t.out = s.out ++ [.tdo 1 0] ∧
      t.jtag.pins = if s.boot.perst then some s.jtag.dr else none) ∧
    (∀ v, Answers (.samplePreload v) s fun t => only s t ∧ t.jtag.ir = 2 ∧ t.jtag.dr = v ∧ t.jtag.pins = none ∧
      t.out = s.out ++ [.tdo 0 t.jtag.cap]) ∧
    ∀ (a : Nat) (write wide : Bool) (d : Nat),
      (s.on RST_BOOT_CTL.RECOVERY = true → exec (.dbgacc a write wide d) s = exec .bypass s) ∧
      (s.on RST_BOOT_CTL.RECOVERY = false → s.on DBG_CFG.JTAG_EN = false ∨ (write = true ∧ Blk.ofAddr (a % 2 ^ 24 * 4 / 8 * 8) = some .glb) →
        Answers (.dbgacc a write wide d) s fun t => only s t ∧ t.jtag.ir = 0x10 ∧ ∃ w, t.out = s.out ++ [.tdo 100 w] ∧ bits w 90 2 = 2) ∧
      (s.on RST_BOOT_CTL.RECOVERY = false → s.on DBG_CFG.JTAG_EN = true → write = false → wide = true → a % 2 = 0 → s.winUp .glb = true →
        Blk.ofAddr (a % 2 ^ 24 * 4) = some .glb → Answers (.dbgacc a write wide d) s fun t => only s t ∧
          ∃ w, t.out = s.out ++ [.tdo 100 w] ∧ bits w 90 2 = 0 ∧ bits w 26 64 = s.pfWord (a % 2 ^ 24 * 4) % 2 ^ 64)
end

