-- ==== Sys2Proof/Laws/Access.lean ====
section
/-! SUPPORT. What follows an access through a context's translation: the laws by which a proof goes on after it without
unfolding it. -/

namespace Sys2Proof.Machine

theorem State.onRead_some {r : State × Option (List Byte)} {u : State} {b : List Byte} (h : r = (u, some b))
    (f : State → List Byte → State) : State.onRead r f = f u b := by subst h; rfl

theorem State.onRead_none {r : State × Option (List Byte)} {u : State} (h : r = (u, none)) (f : State → List Byte → State) :
    State.onRead r f = u := by subst h; rfl

theorem State.onOk_true {r : State × Bool} {u : State} (h : r = (u, true)) (f : State → State) : State.onOk r f = f u := by
  subst h; rfl

theorem State.onOk_false {r : State × Bool} {u : State} (h : r = (u, false)) (f : State → State) : State.onOk r f = u := by
  subst h; rfl

theorem State.doneIf_eq (sid pid : Nat) (r : State × Bool) : State.doneIf sid pid r = if r.2 then r.1.donePkt sid pid else r.1 := rfl

/-- A copy of no bytes does nothing. -/
theorem State.copyLoop_zero (c e f : Nat) (s : State) (a b : Nat) : State.copyLoop c e (f + 1) s a b 0 = (s, true) := by
  rw [State.copyLoop, if_pos rfl]

/-- A fill of no bytes does nothing. -/
theorem State.fillLoop_zero (c e f : Nat) (pat : List Byte) (s : State) (a : Nat) : State.fillLoop c e pat (f + 1) s a 0 = (s, true) := by
  rw [State.fillLoop, if_pos rfl]

end Sys2Proof.Machine
end

