-- ==== Sys2Proof/Laws/Exec.lean ====
section
/-! SUPPORT. One equation for each command: what exec calls. -/

namespace Sys2Proof.Machine

variable (s : State)

@[simp] theorem exec_registerWrite (func : Nat) (sp : Space) (off size v : Nat) : exec (.registerWrite func sp off size v) s = execRegisterWrite func sp off size v s := rfl
@[simp] theorem exec_commit (b : Blk) : exec (.commit b) s = execCommit b s := rfl
@[simp] theorem exec_discard (b : Blk) : exec (.discard b) s = execDiscard b s := rfl
@[simp] theorem exec_counterClear (func : Nat) (sp : Space) (off : Nat) (clr : Bool) : exec (.counterClear func sp off clr) s = execCounterClear func sp off clr s := rfl
@[simp] theorem exec_lowWordRead (func : Nat) (sp : Space) (off : Nat) (wide : Bool) : exec (.lowWordRead func sp off wide) s = execLowWordRead func sp off wide s := rfl
@[simp] theorem exec_highWordRead (func : Nat) (sp : Space) (off : Nat) : exec (.highWordRead func sp off) s = execHighWordRead func sp off s := rfl
@[simp] theorem exec_barAccessMisaligned (func : Nat) (sp : Space) (off : Nat) : exec (.barAccessMisaligned func sp off) s = execBarAccessMisaligned func sp off s := rfl
@[simp] theorem exec_controlInterval (core loom : Tele) (fixed tj busy guard : Nat) (resp : Bool) : exec (.controlInterval core loom fixed tj busy guard resp) s = execControlInterval core loom fixed tj busy guard resp s := rfl
@[simp] theorem exec_regulatorAck (r : Nat) : exec (.regulatorAck r) s = execRegulatorAck r s := rfl
@[simp] theorem exec_regulatorAckTimeout (r : Nat) : exec (.regulatorAckTimeout r) s = execRegulatorAckTimeout r s := rfl
@[simp] theorem exec_linkUp (speed width : Nat) (flit : Bool) : exec (.linkUp speed width flit) s = execLinkUp speed width flit s := rfl
@[simp] theorem exec_linkDown : exec (.linkDown) s = execLinkDown s := rfl
@[simp] theorem exec_hostRequestError (c eng : Nat) : exec (.hostRequestError c eng) s = execHostRequestError c eng s := rfl
@[simp] theorem exec_vfEnable (n : Nat) : exec (.vfEnable n) s = execVfEnable n s := rfl
@[simp] theorem exec_vfDisable (n : Nat) : exec (.vfDisable n) s = execVfDisable n s := rfl
@[simp] theorem exec_l2WayHandover (w : Nat) : exec (.l2WayHandover w) s = execL2WayHandover w s := rfl
@[simp] theorem exec_ctxEnable (c part : Nat) : exec (.ctxEnable c part) s = execCtxEnable c part s := rfl
@[simp] theorem exec_ctxTeardownRequest (c part : Nat) : exec (.ctxTeardownRequest c part) s = execCtxTeardownRequest c part s := rfl
@[simp] theorem exec_ctxFree (c part : Nat) : exec (.ctxFree c part) s = execCtxFree c part s := rfl
@[simp] theorem exec_teardownStepDone (c : Nat) : exec (.teardownStepDone c) s = execTeardownStepDone c s := rfl
@[simp] theorem exec_claimGo : exec (.claimGo) s = execClaimGo s := rfl
@[simp] theorem exec_doorbell (func c slot value : Nat) : exec (.doorbell func c slot value) s = execDoorbell func c slot value s := rfl
@[simp] theorem exec_queueEnable (q : Nat) : exec (.queueEnable q) s = execQueueEnable q s := rfl
@[simp] theorem exec_queueDrain (q : Nat) : exec (.queueDrain q) s = execQueueDrain q s := rfl
@[simp] theorem exec_queueDrainDone (q : Nat) : exec (.queueDrainDone q) s = execQueueDrainDone q s := rfl
@[simp] theorem exec_queueFree (q : Nat) : exec (.queueFree q) s = execQueueFree q s := rfl
@[simp] theorem exec_sampleAndClear (q : Nat) : exec (.sampleAndClear q) s = execSampleAndClear q s := rfl
@[simp] theorem exec_entryFetch (q : Nat) : exec (.entryFetch q) s = execEntryFetch q s := rfl
@[simp] theorem exec_idleSample (q : Nat) : exec (.idleSample q) s = execIdleSample q s := rfl
@[simp] theorem exec_tsliceExpiry (k : Nat) : exec (.tsliceExpiry k) s = execTsliceExpiry k s := rfl
@[simp] theorem exec_queueFaultComplete (q : Nat) : exec (.queueFaultComplete q) s = execQueueFaultComplete q s := rfl
@[simp] theorem exec_nop (sid : Nat) : exec (.nop sid) s = execNop sid s := rfl
@[simp] theorem exec_signal (sid : Nat) : exec (.signal sid) s = execSignal sid s := rfl
@[simp] theorem exec_wait (sid : Nat) : exec (.wait sid) s = execWait sid s := rfl
@[simp] theorem exec_waitTimeout (sid : Nat) : exec (.waitTimeout sid) s = execWaitTimeout sid s := rfl
@[simp] theorem exec_writeImm (sid : Nat) : exec (.writeImm sid) s = execWriteImm sid s := rfl
@[simp] theorem exec_timestamp (sid : Nat) : exec (.timestamp sid) s = execTimestamp sid s := rfl
@[simp] theorem exec_dispatch (sid : Nat) : exec (.dispatch sid) s = execDispatch sid s := rfl
@[simp] theorem exec_dispatchIndirect (sid : Nat) : exec (.dispatchIndirect sid) s = execDispatchIndirect sid s := rfl
@[simp] theorem exec_copy (sid : Nat) : exec (.copy sid) s = execCopy sid s := rfl
@[simp] theorem exec_fill (sid : Nat) : exec (.fill sid) s = execFill sid s := rfl
@[simp] theorem exec_claim (sid : Nat) : exec (.claim sid) s = execClaim sid s := rfl
@[simp] theorem exec_alloc (sid : Nat) : exec (.alloc sid) s = execAlloc sid s := rfl
@[simp] theorem exec_free (sid : Nat) : exec (.free sid) s = execFree sid s := rfl
@[simp] theorem exec_entryComplete (q : Nat) : exec (.entryComplete q) s = execEntryComplete q s := rfl
@[simp] theorem exec_tallySignal (t : Nat) (vs : List Nat) : exec (.tallySignal t vs) s = execTallySignal t vs s := rfl
@[simp] theorem exec_exportWriteError (t : Nat) : exec (.exportWriteError t) s = execExportWriteError t s := rfl
@[simp] theorem exec_waitPoll (t k : Nat) : exec (.waitPoll t k) s = execWaitPoll t k s := rfl
@[simp] theorem exec_signalWrite (func t v : Nat) : exec (.signalWrite func t v) s = execSignalWrite func t v s := rfl
@[simp] theorem exec_signalLowWrite (func t v : Nat) : exec (.signalLowWrite func t v) s = execSignalLowWrite func t v s := rfl
@[simp] theorem exec_signalHighWrite (func t v : Nat) : exec (.signalHighWrite func t v) s = execSignalHighWrite func t v s := rfl
@[simp] theorem exec_apertureAccess (c eng va : Nat) (write : Bool) (size v : Nat) : exec (.apertureAccess c eng va write size v) s = execApertureAccess c eng va write size v s := rfl
@[simp] theorem exec_tlyInitGo : exec (.tlyInitGo) s = execTlyInitGo s := rfl
@[simp] theorem exec_lwClr : exec (.lwClr) s = execLwClr s := rfl
@[simp] theorem exec_launchPattern (sid : Nat) : exec (.launchPattern sid) s = execLaunchPattern sid s := rfl
@[simp] theorem exec_snapshotWritten (l : Nat) : exec (.snapshotWritten l) s = execSnapshotWritten l s := rfl
@[simp] theorem exec_patternNodeReady (l i : Nat) : exec (.patternNodeReady l i) s = execPatternNodeReady l i s := rfl
@[simp] theorem exec_patternLaunchComplete (l : Nat) : exec (.patternLaunchComplete l) s = execPatternLaunchComplete l s := rfl
@[simp] theorem exec_patEditGo : exec (.patEditGo) s = execPatEditGo s := rfl
@[simp] theorem exec_pageWalk (c va acc eng : Nat) : exec (.pageWalk c va acc eng) s = execPageWalk c va acc eng s := rfl
@[simp] theorem exec_pteWrGo : exec (.pteWrGo) s = execPteWrGo s := rfl
@[simp] theorem exec_pteWrDone : exec (.pteWrDone) s = execPteWrDone s := rfl
@[simp] theorem exec_invReqGo : exec (.invReqGo) s = execInvReqGo s := rfl
@[simp] theorem exec_invStart : exec (.invStart) s = execInvStart s := rfl
@[simp] theorem exec_invAck (e : Nat) : exec (.invAck e) s = execInvAck e s := rfl
@[simp] theorem exec_invTimeoutExpiry : exec (.invTimeoutExpiry) s = execInvTimeoutExpiry s := rfl
@[simp] theorem exec_workgroupPlace (d : Nat) : exec (.workgroupPlace d) s = execWorkgroupPlace d s := rfl
@[simp] theorem exec_hitArrival (g lane : Nat) : exec (.hitArrival g lane) s = execHitArrival g lane s := rfl
@[simp] theorem exec_preemptRequest (c : Nat) : exec (.preemptRequest c) s = execPreemptRequest c s := rfl
@[simp] theorem exec_stopTimeout (c : Nat) : exec (.stopTimeout c) s = execStopTimeout c s := rfl
@[simp] theorem exec_saveComplete (c : Nat) : exec (.saveComplete c) s = execSaveComplete c s := rfl
@[simp] theorem exec_restoreComplete (core : Nat) : exec (.restoreComplete core) s = execRestoreComplete core s := rfl
@[simp] theorem exec_ctrlNop (g : Nat) (i : Ins) : exec (.ctrlNop g i) s = execCtrlNop g i s := rfl
@[simp] theorem exec_br (g : Nat) (i : Ins) : exec (.br g i) s = execBr g i s := rfl
@[simp] theorem exec_brZ (g : Nat) (i : Ins) : exec (.brZ g i) s = execBrZ g i s := rfl
@[simp] theorem exec_brNz (g : Nat) (i : Ins) : exec (.brNz g i) s = execBrNz g i s := rfl
@[simp] theorem exec_brExecz (g : Nat) (i : Ins) : exec (.brExecz g i) s = execBrExecz g i s := rfl
@[simp] theorem exec_brExecnz (g : Nat) (i : Ins) : exec (.brExecnz g i) s = execBrExecnz g i s := rfl
@[simp] theorem exec_ifOp (g : Nat) (i : Ins) : exec (.ifOp g i) s = execIf g i s := rfl
@[simp] theorem exec_elseOp (g : Nat) (i : Ins) : exec (.elseOp g i) s = execElse g i s := rfl
@[simp] theorem exec_endif (g : Nat) (i : Ins) : exec (.endif g i) s = execEndif g i s := rfl
@[simp] theorem exec_breakOp (g : Nat) (i : Ins) : exec (.breakOp g i) s = execBreak g i s := rfl
@[simp] theorem exec_call (g : Nat) (i : Ins) : exec (.call g i) s = execCall g i s := rfl
@[simp] theorem exec_ret (g : Nat) (i : Ins) : exec (.ret g i) s = execRet g i s := rfl
@[simp] theorem exec_trap (g : Nat) (i : Ins) : exec (.trap g i) s = execTrap g i s := rfl
@[simp] theorem exec_rtt (g : Nat) (i : Ins) : exec (.rtt g i) s = execRtt g i s := rfl
@[simp] theorem exec_yield (g : Nat) (i : Ins) : exec (.yield g i) s = execYield g i s := rfl
@[simp] theorem exec_endOp (g : Nat) (i : Ins) : exec (.endOp g i) s = execEnd g i s := rfl
@[simp] theorem exec_setmode (g : Nat) (i : Ins) : exec (.setmode g i) s = execSetmode g i s := rfl
@[simp] theorem exec_getreg (g : Nat) (i : Ins) : exec (.getreg g i) s = execGetreg g i s := rfl
@[simp] theorem exec_setreg (g : Nat) (i : Ins) : exec (.setreg g i) s = execSetreg g i s := rfl
@[simp] theorem exec_ld (g : Nat) (i : Ins) : exec (.ld g i) s = execLd g i s := rfl
@[simp] theorem exec_st (g : Nat) (i : Ins) : exec (.st g i) s = execSt g i s := rfl
@[simp] theorem exec_sld (g : Nat) (i : Ins) : exec (.sld g i) s = execSld g i s := rfl
@[simp] theorem exec_texSample (g : Nat) (i : Ins) : exec (.texSample g i) s = execTexSample g i s := rfl
@[simp] theorem exec_texFetch (g : Nat) (i : Ins) : exec (.texFetch g i) s = execTexFetch g i s := rfl
@[simp] theorem exec_texGather (g : Nat) (i : Ins) : exec (.texGather g i) s = execTexGather g i s := rfl
@[simp] theorem exec_texStore (g : Nat) (i : Ins) : exec (.texStore g i) s = execTexStore g i s := rfl
@[simp] theorem exec_attrInterp (g : Nat) (i : Ins) : exec (.attrInterp g i) s = execAttrInterp g i s := rfl
@[simp] theorem exec_tileLd (g : Nat) (i : Ins) : exec (.tileLd g i) s = execTileLd g i s := rfl
@[simp] theorem exec_atomAdd (g : Nat) (i : Ins) : exec (.atomAdd g i) s = execAtomAdd g i s := rfl
@[simp] theorem exec_atomSub (g : Nat) (i : Ins) : exec (.atomSub g i) s = execAtomSub g i s := rfl
@[simp] theorem exec_atomMinS (g : Nat) (i : Ins) : exec (.atomMinS g i) s = execAtomMinS g i s := rfl
@[simp] theorem exec_atomMinU (g : Nat) (i : Ins) : exec (.atomMinU g i) s = execAtomMinU g i s := rfl
@[simp] theorem exec_atomMaxS (g : Nat) (i : Ins) : exec (.atomMaxS g i) s = execAtomMaxS g i s := rfl
@[simp] theorem exec_atomMaxU (g : Nat) (i : Ins) : exec (.atomMaxU g i) s = execAtomMaxU g i s := rfl
@[simp] theorem exec_atomAnd (g : Nat) (i : Ins) : exec (.atomAnd g i) s = execAtomAnd g i s := rfl
@[simp] theorem exec_atomOr (g : Nat) (i : Ins) : exec (.atomOr g i) s = execAtomOr g i s := rfl
@[simp] theorem exec_atomXor (g : Nat) (i : Ins) : exec (.atomXor g i) s = execAtomXor g i s := rfl
@[simp] theorem exec_atomSwap (g : Nat) (i : Ins) : exec (.atomSwap g i) s = execAtomSwap g i s := rfl
@[simp] theorem exec_atomCas (g : Nat) (i : Ins) : exec (.atomCas g i) s = execAtomCas g i s := rfl
@[simp] theorem exec_atomFaddF32 (g : Nat) (i : Ins) : exec (.atomFaddF32 g i) s = execAtomFaddF32 g i s := rfl
@[simp] theorem exec_atomFaddF64 (g : Nat) (i : Ins) : exec (.atomFaddF64 g i) s = execAtomFaddF64 g i s := rfl
@[simp] theorem exec_atomFminF32 (g : Nat) (i : Ins) : exec (.atomFminF32 g i) s = execAtomFminF32 g i s := rfl
@[simp] theorem exec_atomFmaxF32 (g : Nat) (i : Ins) : exec (.atomFmaxF32 g i) s = execAtomFmaxF32 g i s := rfl
@[simp] theorem exec_bar (g : Nat) (i : Ins) : exec (.bar g i) s = execBar g i s := rfl
@[simp] theorem exec_fence (g : Nat) (i : Ins) : exec (.fence g i) s = execFence g i s := rfl
@[simp] theorem exec_tlyWait (g : Nat) (i : Ins) : exec (.tlyWait g i) s = execTlyWait g i s := rfl
@[simp] theorem exec_tlyWaitTimeout (g : Nat) : exec (.tlyWaitTimeout g) s = execTlyWaitTimeout g s := rfl
@[simp] theorem exec_tlySignal (g : Nat) (i : Ins) : exec (.tlySignal g i) s = execTlySignal g i s := rfl
@[simp] theorem exec_tlyRead (g : Nat) (i : Ins) : exec (.tlyRead g i) s = execTlyRead g i s := rfl
@[simp] theorem exec_rayEmitReturn (g : Nat) (i : Ins) : exec (.rayEmitReturn g i) s = execRayEmitReturn g i s := rfl
@[simp] theorem exec_rayEmitShade (g : Nat) (i : Ins) : exec (.rayEmitShade g i) s = execRayEmitShade g i s := rfl
@[simp] theorem exec_rayEmitSpool (g : Nat) (i : Ins) : exec (.rayEmitSpool g i) s = execRayEmitSpool g i s := rfl
@[simp] theorem exec_gmmaBf16 (g : Nat) (i : Ins) : exec (.gmmaBf16 g i) s = execGmmaBf16 g i s := rfl
@[simp] theorem exec_gmmaF16 (g : Nat) (i : Ins) : exec (.gmmaF16 g i) s = execGmmaF16 g i s := rfl
@[simp] theorem exec_gmmaSf84 (g : Nat) (i : Ins) : exec (.gmmaSf84 g i) s = execGmmaSf84 g i s := rfl
@[simp] theorem exec_gmmaSf85 (g : Nat) (i : Ins) : exec (.gmmaSf85 g i) s = execGmmaSf85 g i s := rfl
@[simp] theorem exec_gmmaI8 (g : Nat) (i : Ins) : exec (.gmmaI8 g i) s = execGmmaI8 g i s := rfl
@[simp] theorem exec_loomIssue (g : Nat) (i : Ins) : exec (.loomIssue g i) s = execLoomIssue g i s := rfl
@[simp] theorem exec_valuAdd (g : Nat) (i : Ins) (t : NTy) : exec (.valuAdd g i t) s = execValuAdd g i t s := rfl
@[simp] theorem exec_valuSub (g : Nat) (i : Ins) (t : NTy) : exec (.valuSub g i t) s = execValuSub g i t s := rfl
@[simp] theorem exec_valuMul (g : Nat) (i : Ins) (t : NTy) : exec (.valuMul g i t) s = execValuMul g i t s := rfl
@[simp] theorem exec_valuFma (g : Nat) (i : Ins) (t : NTy) : exec (.valuFma g i t) s = execValuFma g i t s := rfl
@[simp] theorem exec_valuMin (g : Nat) (i : Ins) (t : NTy) : exec (.valuMin g i t) s = execValuMin g i t s := rfl
@[simp] theorem exec_valuMax (g : Nat) (i : Ins) (t : NTy) : exec (.valuMax g i t) s = execValuMax g i t s := rfl
@[simp] theorem exec_valuMinimum (g : Nat) (i : Ins) (t : NTy) : exec (.valuMinimum g i t) s = execValuMinimum g i t s := rfl
@[simp] theorem exec_valuMaximum (g : Nat) (i : Ins) (t : NTy) : exec (.valuMaximum g i t) s = execValuMaximum g i t s := rfl
@[simp] theorem exec_valuFloor (g : Nat) (i : Ins) (t : NTy) : exec (.valuFloor g i t) s = execValuFloor g i t s := rfl
@[simp] theorem exec_valuCeil (g : Nat) (i : Ins) (t : NTy) : exec (.valuCeil g i t) s = execValuCeil g i t s := rfl
@[simp] theorem exec_valuTrunc (g : Nat) (i : Ins) (t : NTy) : exec (.valuTrunc g i t) s = execValuTrunc g i t s := rfl
@[simp] theorem exec_valuRndne (g : Nat) (i : Ins) (t : NTy) : exec (.valuRndne g i t) s = execValuRndne g i t s := rfl
@[simp] theorem exec_valuFract (g : Nat) (i : Ins) (t : NTy) : exec (.valuFract g i t) s = execValuFract g i t s := rfl
@[simp] theorem exec_valuLdexp (g : Nat) (i : Ins) (t : NTy) : exec (.valuLdexp g i t) s = execValuLdexp g i t s := rfl
@[simp] theorem exec_valuFrexp (g : Nat) (i : Ins) (t : NTy) : exec (.valuFrexp g i t) s = execValuFrexp g i t s := rfl
@[simp] theorem exec_valuSel (g : Nat) (i : Ins) (t : NTy) : exec (.valuSel g i t) s = execValuSel g i t s := rfl
@[simp] theorem exec_valuMulLo (g : Nat) (i : Ins) (t : NTy) : exec (.valuMulLo g i t) s = execValuMulLo g i t s := rfl
@[simp] theorem exec_valuMulHi (g : Nat) (i : Ins) (t : NTy) : exec (.valuMulHi g i t) s = execValuMulHi g i t s := rfl
@[simp] theorem exec_valuMadLo (g : Nat) (i : Ins) (t : NTy) : exec (.valuMadLo g i t) s = execValuMadLo g i t s := rfl
@[simp] theorem exec_valuAnd (g : Nat) (i : Ins) (t : NTy) : exec (.valuAnd g i t) s = execValuAnd g i t s := rfl
@[simp] theorem exec_valuOr (g : Nat) (i : Ins) (t : NTy) : exec (.valuOr g i t) s = execValuOr g i t s := rfl
@[simp] theorem exec_valuXor (g : Nat) (i : Ins) (t : NTy) : exec (.valuXor g i t) s = execValuXor g i t s := rfl
@[simp] theorem exec_valuNot (g : Nat) (i : Ins) (t : NTy) : exec (.valuNot g i t) s = execValuNot g i t s := rfl
@[simp] theorem exec_valuShl (g : Nat) (i : Ins) (t : NTy) : exec (.valuShl g i t) s = execValuShl g i t s := rfl
@[simp] theorem exec_valuShr (g : Nat) (i : Ins) (t : NTy) : exec (.valuShr g i t) s = execValuShr g i t s := rfl
@[simp] theorem exec_valuSar (g : Nat) (i : Ins) (t : NTy) : exec (.valuSar g i t) s = execValuSar g i t s := rfl
@[simp] theorem exec_valuBfe (g : Nat) (i : Ins) (t : NTy) : exec (.valuBfe g i t) s = execValuBfe g i t s := rfl
@[simp] theorem exec_valuBfi (g : Nat) (i : Ins) (t : NTy) : exec (.valuBfi g i t) s = execValuBfi g i t s := rfl
@[simp] theorem exec_valuPopc (g : Nat) (i : Ins) (t : NTy) : exec (.valuPopc g i t) s = execValuPopc g i t s := rfl
@[simp] theorem exec_valuClz (g : Nat) (i : Ins) (t : NTy) : exec (.valuClz g i t) s = execValuClz g i t s := rfl
@[simp] theorem exec_valuCtz (g : Nat) (i : Ins) (t : NTy) : exec (.valuCtz g i t) s = execValuCtz g i t s := rfl
@[simp] theorem exec_valuBrev (g : Nat) (i : Ins) (t : NTy) : exec (.valuBrev g i t) s = execValuBrev g i t s := rfl
@[simp] theorem exec_valuDot4 (g : Nat) (i : Ins) (t : NTy) : exec (.valuDot4 g i t) s = execValuDot4 g i t s := rfl
@[simp] theorem exec_valuMov (g : Nat) (i : Ins) : exec (.valuMov g i) s = execValuMov g i s := rfl
@[simp] theorem exec_valuPerm (g : Nat) (i : Ins) : exec (.valuPerm g i) s = execValuPerm g i s := rfl
@[simp] theorem exec_valuReadlane (g : Nat) (i : Ins) : exec (.valuReadlane g i) s = execValuReadlane g i s := rfl
@[simp] theorem exec_valuWritelane (g : Nat) (i : Ins) : exec (.valuWritelane g i) s = execValuWritelane g i s := rfl
@[simp] theorem exec_valuBcast (g : Nat) (i : Ins) : exec (.valuBcast g i) s = execValuBcast g i s := rfl
@[simp] theorem exec_valu64Add (g : Nat) (i : Ins) (t : NTy) : exec (.valu64Add g i t) s = execValu64Add g i t s := rfl
@[simp] theorem exec_valu64Sub (g : Nat) (i : Ins) (t : NTy) : exec (.valu64Sub g i t) s = execValu64Sub g i t s := rfl
@[simp] theorem exec_valu64Mul (g : Nat) (i : Ins) : exec (.valu64Mul g i) s = execValu64Mul g i s := rfl
@[simp] theorem exec_valu64Fma (g : Nat) (i : Ins) : exec (.valu64Fma g i) s = execValu64Fma g i s := rfl
@[simp] theorem exec_valu64Min (g : Nat) (i : Ins) : exec (.valu64Min g i) s = execValu64Min g i s := rfl
@[simp] theorem exec_valu64Max (g : Nat) (i : Ins) : exec (.valu64Max g i) s = execValu64Max g i s := rfl
@[simp] theorem exec_valu64Minimum (g : Nat) (i : Ins) : exec (.valu64Minimum g i) s = execValu64Minimum g i s := rfl
@[simp] theorem exec_valu64Maximum (g : Nat) (i : Ins) : exec (.valu64Maximum g i) s = execValu64Maximum g i s := rfl
@[simp] theorem exec_valu64Floor (g : Nat) (i : Ins) : exec (.valu64Floor g i) s = execValu64Floor g i s := rfl
@[simp] theorem exec_valu64Ceil (g : Nat) (i : Ins) : exec (.valu64Ceil g i) s = execValu64Ceil g i s := rfl
@[simp] theorem exec_valu64Trunc (g : Nat) (i : Ins) : exec (.valu64Trunc g i) s = execValu64Trunc g i s := rfl
@[simp] theorem exec_valu64Rndne (g : Nat) (i : Ins) : exec (.valu64Rndne g i) s = execValu64Rndne g i s := rfl
@[simp] theorem exec_valu64Fract (g : Nat) (i : Ins) : exec (.valu64Fract g i) s = execValu64Fract g i s := rfl
@[simp] theorem exec_valu64Ldexp (g : Nat) (i : Ins) : exec (.valu64Ldexp g i) s = execValu64Ldexp g i s := rfl
@[simp] theorem exec_valu64And (g : Nat) (i : Ins) : exec (.valu64And g i) s = execValu64And g i s := rfl
@[simp] theorem exec_valu64Or (g : Nat) (i : Ins) : exec (.valu64Or g i) s = execValu64Or g i s := rfl
@[simp] theorem exec_valu64Xor (g : Nat) (i : Ins) : exec (.valu64Xor g i) s = execValu64Xor g i s := rfl
@[simp] theorem exec_valu64Shl (g : Nat) (i : Ins) : exec (.valu64Shl g i) s = execValu64Shl g i s := rfl
@[simp] theorem exec_valu64Shr (g : Nat) (i : Ins) : exec (.valu64Shr g i) s = execValu64Shr g i s := rfl
@[simp] theorem exec_valu64Sar (g : Nat) (i : Ins) : exec (.valu64Sar g i) s = execValu64Sar g i s := rfl
@[simp] theorem exec_valu64MulLo (g : Nat) (i : Ins) : exec (.valu64MulLo g i) s = execValu64MulLo g i s := rfl
@[simp] theorem exec_vcmpEq (g : Nat) (i : Ins) (t : NTy) (sig : Bool) : exec (.vcmpEq g i t sig) s = execVcmpEq g i t sig s := rfl
@[simp] theorem exec_vcmpNe (g : Nat) (i : Ins) (t : NTy) (sig : Bool) : exec (.vcmpNe g i t sig) s = execVcmpNe g i t sig s := rfl
@[simp] theorem exec_vcmpLt (g : Nat) (i : Ins) (t : NTy) (sig : Bool) : exec (.vcmpLt g i t sig) s = execVcmpLt g i t sig s := rfl
@[simp] theorem exec_vcmpLe (g : Nat) (i : Ins) (t : NTy) (sig : Bool) : exec (.vcmpLe g i t sig) s = execVcmpLe g i t sig s := rfl
@[simp] theorem exec_vcmpGt (g : Nat) (i : Ins) (t : NTy) (sig : Bool) : exec (.vcmpGt g i t sig) s = execVcmpGt g i t sig s := rfl
@[simp] theorem exec_vcmpGe (g : Nat) (i : Ins) (t : NTy) (sig : Bool) : exec (.vcmpGe g i t sig) s = execVcmpGe g i t sig s := rfl
@[simp] theorem exec_vcmpOrd (g : Nat) (i : Ins) (t : NTy) (sig : Bool) : exec (.vcmpOrd g i t sig) s = execVcmpOrd g i t sig s := rfl
@[simp] theorem exec_vcmpUnord (g : Nat) (i : Ins) (t : NTy) (sig : Bool) : exec (.vcmpUnord g i t sig) s = execVcmpUnord g i t sig s := rfl
@[simp] theorem exec_vcmpClass (g : Nat) (i : Ins) (t : NTy) : exec (.vcmpClass g i t) s = execVcmpClass g i t s := rfl
@[simp] theorem exec_cvt (g : Nat) (i : Ins) (a b : NTy) : exec (.cvt g i a b) s = execCvt g i a b s := rfl
@[simp] theorem exec_sfuRcp (g : Nat) (i : Ins) (t : NTy) : exec (.sfuRcp g i t) s = execSfuRcp g i t s := rfl
@[simp] theorem exec_sfuRsq (g : Nat) (i : Ins) (t : NTy) : exec (.sfuRsq g i t) s = execSfuRsq g i t s := rfl
@[simp] theorem exec_sfuSqrt (g : Nat) (i : Ins) (t : NTy) : exec (.sfuSqrt g i t) s = execSfuSqrt g i t s := rfl
@[simp] theorem exec_sfuExp2 (g : Nat) (i : Ins) (t : NTy) : exec (.sfuExp2 g i t) s = execSfuExp2 g i t s := rfl
@[simp] theorem exec_sfuLog2 (g : Nat) (i : Ins) (t : NTy) : exec (.sfuLog2 g i t) s = execSfuLog2 g i t s := rfl
@[simp] theorem exec_sfuSin (g : Nat) (i : Ins) (t : NTy) : exec (.sfuSin g i t) s = execSfuSin g i t s := rfl
@[simp] theorem exec_sfuCos (g : Nat) (i : Ins) (t : NTy) : exec (.sfuCos g i t) s = execSfuCos g i t s := rfl
@[simp] theorem exec_saluAdd (g : Nat) (i : Ins) (t : NTy) : exec (.saluAdd g i t) s = execSaluAdd g i t s := rfl
@[simp] theorem exec_saluSub (g : Nat) (i : Ins) (t : NTy) : exec (.saluSub g i t) s = execSaluSub g i t s := rfl
@[simp] theorem exec_saluMulLo (g : Nat) (i : Ins) (t : NTy) : exec (.saluMulLo g i t) s = execSaluMulLo g i t s := rfl
@[simp] theorem exec_saluAnd (g : Nat) (i : Ins) (t : NTy) : exec (.saluAnd g i t) s = execSaluAnd g i t s := rfl
@[simp] theorem exec_saluOr (g : Nat) (i : Ins) (t : NTy) : exec (.saluOr g i t) s = execSaluOr g i t s := rfl
@[simp] theorem exec_saluXor (g : Nat) (i : Ins) (t : NTy) : exec (.saluXor g i t) s = execSaluXor g i t s := rfl
@[simp] theorem exec_saluNot (g : Nat) (i : Ins) (t : NTy) : exec (.saluNot g i t) s = execSaluNot g i t s := rfl
@[simp] theorem exec_saluShl (g : Nat) (i : Ins) (t : NTy) : exec (.saluShl g i t) s = execSaluShl g i t s := rfl
@[simp] theorem exec_saluShr (g : Nat) (i : Ins) (t : NTy) : exec (.saluShr g i t) s = execSaluShr g i t s := rfl
@[simp] theorem exec_saluSar (g : Nat) (i : Ins) (t : NTy) : exec (.saluSar g i t) s = execSaluSar g i t s := rfl
@[simp] theorem exec_saluMin (g : Nat) (i : Ins) (t : NTy) : exec (.saluMin g i t) s = execSaluMin g i t s := rfl
@[simp] theorem exec_saluMax (g : Nat) (i : Ins) (t : NTy) : exec (.saluMax g i t) s = execSaluMax g i t s := rfl
@[simp] theorem exec_saluCmp (g : Nat) (i : Ins) (t : NTy) (lt eq gt : Bool) : exec (.saluCmp g i t lt eq gt) s = execSaluCmp g i t lt eq gt s := rfl
@[simp] theorem exec_saluMov (g : Nat) (i : Ins) (t : NTy) : exec (.saluMov g i t) s = execSaluMov g i t s := rfl
@[simp] theorem exec_saluCsel (g : Nat) (i : Ins) (t : NTy) : exec (.saluCsel g i t) s = execSaluCsel g i t s := rfl
@[simp] theorem exec_saluPmov (g : Nat) (i : Ins) : exec (.saluPmov g i) s = execSaluPmov g i s := rfl
@[simp] theorem exec_draft (sid : Nat) : exec (.draft sid) s = execDraft sid s := rfl
@[simp] theorem exec_draftAccept (thread : Bool) (src : Nat) : exec (.draftAccept thread src) s = execDraftAccept thread src s := rfl
@[simp] theorem exec_matmul (n : Nat) : exec (.matmul n) s = execMatmul n s := rfl
@[simp] theorem exec_convOp (n : Nat) : exec (.convOp n) s = execConv n s := rfl
@[simp] theorem exec_loadW (n : Nat) : exec (.loadW n) s = execLoadW n s := rfl
@[simp] theorem exec_loadA (n : Nat) : exec (.loadA n) s = execLoadA n s := rfl
@[simp] theorem exec_storeBolt (n : Nat) : exec (.storeBolt n) s = execStoreBolt n s := rfl
@[simp] theorem exec_rowCheck (n kind pass slice row piece : Nat) (errM errE : Int) : exec (.rowCheck n kind pass slice row piece errM errE) s = execRowCheck n kind pass slice row piece errM errE s := rfl
@[simp] theorem exec_chunkCheck (n col : Nat) (corr : Bool) (errM errE : Int) : exec (.chunkCheck n col corr errM errE) s = execChunkCheck n col corr errM errE s := rfl
@[simp] theorem exec_draftComplete (n : Nat) : exec (.draftComplete n) s = execDraftComplete n s := rfl
@[simp] theorem exec_loomRelease (n : Nat) : exec (.loomRelease n) s = execLoomRelease n s := rfl
@[simp] theorem exec_loomReleaseDone (n : Nat) : exec (.loomReleaseDone n) s = execLoomReleaseDone n s := rfl
@[simp] theorem exec_loomStopReq (n : Nat) (full : Bool) : exec (.loomStopReq n full) s = execLoomStopReq n full s := rfl
@[simp] theorem exec_loomStopPoint (n : Nat) : exec (.loomStopPoint n) s = execLoomStopPoint n s := rfl
@[simp] theorem exec_loomSaveDone (n : Nat) : exec (.loomSaveDone n) s = execLoomSaveDone n s := rfl
@[simp] theorem exec_loomStopRestore (n : Nat) : exec (.loomStopRestore n) s = execLoomStopRestore n s := rfl
@[simp] theorem exec_loomRestoreDone (n : Nat) : exec (.loomRestoreDone n) s = execLoomRestoreDone n s := rfl
@[simp] theorem exec_batchTimeout (b : Nat) : exec (.batchTimeout b) s = execBatchTimeout b s := rfl
@[simp] theorem exec_batchDispatch (b : Nat) : exec (.batchDispatch b) s = execBatchDispatch b s := rfl
@[simp] theorem exec_traversalComplete (b k : Nat) : exec (.traversalComplete b k) s = execTraversalComplete b k s := rfl
@[simp] theorem exec_hitShadeLaunch (b : Nat) : exec (.hitShadeLaunch b) s = execHitShadeLaunch b s := rfl
@[simp] theorem exec_poolReturn (p : Nat) : exec (.poolReturn p) s = execPoolReturn p s := rfl
@[simp] theorem exec_rayDeadlock (p : Nat) : exec (.rayDeadlock p) s = execRayDeadlock p s := rfl
@[simp] theorem exec_dupCompare (b k odd : Nat) : exec (.dupCompare b k odd) s = execDupCompare b k odd s := rfl
@[simp] theorem exec_rtuPatrol (n : Nat) (fail : Bool) : exec (.rtuPatrol n fail) s = execRtuPatrol n fail s := rfl
@[simp] theorem exec_activationComplete (a : Nat) : exec (.activationComplete a) s = execActivationComplete a s := rfl
@[simp] theorem exec_gfxState (sid : Nat) : exec (.gfxState sid) s = execGfxState sid s := rfl
@[simp] theorem exec_renderPassBegin (sid : Nat) : exec (.renderPassBegin sid) s = execRenderPassBegin sid s := rfl
@[simp] theorem exec_draw (sid : Nat) : exec (.draw sid) s = execDraw sid s := rfl
@[simp] theorem exec_drawIndexed (sid : Nat) : exec (.drawIndexed sid) s = execDrawIndexed sid s := rfl
@[simp] theorem exec_drawIndirect (sid : Nat) : exec (.drawIndirect sid) s = execDrawIndirect sid s := rfl
@[simp] theorem exec_renderPassEnd (sid : Nat) : exec (.renderPassEnd sid) s = execRenderPassEnd sid s := rfl
@[simp] theorem exec_partialFlush (id : Nat) : exec (.partialFlush id) s = execPartialFlush id s := rfl
@[simp] theorem exec_tileStart (id : Nat) : exec (.tileStart id) s = execTileStart id s := rfl
@[simp] theorem exec_tileStore (id tile : Nat) : exec (.tileStore id tile) s = execTileStore id tile s := rfl
@[simp] theorem exec_displayCommit (sid : Nat) : exec (.displayCommit sid) s = execDisplayCommit sid s := rfl
@[simp] theorem exec_frameStart (p : Nat) : exec (.frameStart p) s = execFrameStart p s := rfl
@[simp] theorem exec_layerUnderrun (p x y n : Nat) : exec (.layerUnderrun p x y n) s = execLayerUnderrun p x y n s := rfl
@[simp] theorem exec_writebackDone (p : Nat) : exec (.writebackDone p) s = execWritebackDone p s := rfl
@[simp] theorem exec_crcRegionDone (p r : Nat) : exec (.crcRegionDone p r) s = execCrcRegionDone p r s := rfl
@[simp] theorem exec_pipeCommit (p : Nat) : exec (.pipeCommit p) s = execPipeCommit p s := rfl
@[simp] theorem exec_pipeDiscard (p : Nat) : exec (.pipeDiscard p) s = execPipeDiscard p s := rfl
@[simp] theorem exec_pipeEnable (p : Nat) (en : Bool) : exec (.pipeEnable p en) s = execPipeEnable p en s := rfl
@[simp] theorem exec_dpTrainGo (o : Nat) : exec (.dpTrainGo o) s = execDpTrainGo o s := rfl
@[simp] theorem exec_dpTrainDone (o : Nat) (ok : Bool) (rate lanes : Nat) : exec (.dpTrainDone o ok rate lanes) s = execDpTrainDone o ok rate lanes s := rfl
@[simp] theorem exec_hpdChange (o : Nat) (level : Bool) : exec (.hpdChange o level) s = execHpdChange o level s := rfl
@[simp] theorem exec_dpLinkLost (o : Nat) : exec (.dpLinkLost o) s = execDpLinkLost o s := rfl
@[simp] theorem exec_auxGo (o : Nat) : exec (.auxGo o) s = execAuxGo o s := rfl
@[simp] theorem exec_auxDone (o result data : Nat) : exec (.auxDone o result data) s = execAuxDone o result data s := rfl
@[simp] theorem exec_aphyLockLost (o : Nat) : exec (.aphyLockLost o) s = execAphyLockLost o s := rfl
@[simp] theorem exec_dsiCmd (o v : Nat) : exec (.dsiCmd o v) s = execDsiCmd o v s := rfl
@[simp] theorem exec_compress (sid : Nat) : exec (.compress sid) s = execCompress sid s := rfl
@[simp] theorem exec_decompress (sid : Nat) : exec (.decompress sid) s = execDecompress sid s := rfl
@[simp] theorem exec_pressJobEnd (e : Nat) : exec (.pressJobEnd e) s = execPressJobEnd e s := rfl
@[simp] theorem exec_tickStart : exec (.tickStart) s = execTickStart s := rfl
@[simp] theorem exec_syncInEdge : exec (.syncInEdge) s = execSyncInEdge s := rfl
@[simp] theorem exec_tickSelfStart : exec (.tickSelfStart) s = execTickSelfStart s := rfl
@[simp] theorem exec_syncOutPulse : exec (.syncOutPulse) s = execSyncOutPulse s := rfl
@[simp] theorem exec_budgetExhausted (p k : Nat) : exec (.budgetExhausted p k) s = execBudgetExhausted p k s := rfl
@[simp] theorem exec_startBy (q : Nat) : exec (.startBy q) s = execStartBy q s := rfl
@[simp] theorem exec_rtDeadline (q : Nat) : exec (.rtDeadline q) s = execRtDeadline q s := rfl
@[simp] theorem exec_rtJobComplete (q : Nat) : exec (.rtJobComplete q) s = execRtJobComplete q s := rfl
@[simp] theorem exec_sweepJobDone (id : Nat) : exec (.sweepJobDone id) s = execSweepJobDone id s := rfl
@[simp] theorem exec_patrolScrub (line lo hi : Nat) : exec (.patrolScrub line lo hi) s = execPatrolScrub line lo hi s := rfl
@[simp] theorem exec_sramScrub (kind unit res pos c : Nat) : exec (.sramScrub kind unit res pos c) s = execSramScrub kind unit res pos c s := rfl
@[simp] theorem exec_hbmTempRead (m t : Nat) : exec (.hbmTempRead m t) s = execHbmTempRead m t s := rfl
@[simp] theorem exec_eyeRecentre (m pc : Nat) : exec (.eyeRecentre m pc) s = execEyeRecentre m pc s := rfl
@[simp] theorem exec_l2Clean : exec (.l2Clean) s = execL2Clean s := rfl
@[simp] theorem exec_l2Invalidate : exec (.l2Invalidate) s = execL2Invalidate s := rfl
@[simp] theorem exec_l2CleanInvalidate : exec (.l2CleanInvalidate) s = execL2CleanInvalidate s := rfl
@[simp] theorem exec_l2MaintDone : exec (.l2MaintDone) s = execL2MaintDone s := rfl
@[simp] theorem exec_pxlTrainingDone (p : Nat) (ok narrow slow : Bool) (lat : Nat) : exec (.pxlTrainingDone p ok narrow slow lat) s = execPxlTrainingDone p ok narrow slow lat s := rfl
@[simp] theorem exec_identityExchange (p family rev devId mgr epoch : Nat) : exec (.identityExchange p family rev devId mgr epoch) s = execIdentityExchange p family rev devId mgr epoch s := rfl
@[simp] theorem exec_remoteRequest (p kind a n op : Nat) (data : List Nat) : exec (.remoteRequest p kind a n op data) s = execRemoteRequest p kind a n op data s := rfl
@[simp] theorem exec_forwardedSignal (i v : Nat) : exec (.forwardedSignal i v) s = execForwardedSignal i v s := rfl
@[simp] theorem exec_mirrorRefused (i : Nat) : exec (.mirrorRefused i) s = execMirrorRefused i s := rfl
@[simp] theorem exec_tickBroadcast (p n : Nat) : exec (.tickBroadcast p n) s = execTickBroadcast p n s := rfl
@[simp] theorem exec_heartbeatSend : exec (.heartbeatSend) s = execHeartbeatSend s := rfl
@[simp] theorem exec_heartbeatReceive (p : Nat) : exec (.heartbeatReceive p) s = execHeartbeatReceive p s := rfl
@[simp] theorem exec_hbTimeout (d : Nat) : exec (.hbTimeout d) s = execHbTimeout d s := rfl
@[simp] theorem exec_silenceReport (p d : Nat) (silent : Bool) : exec (.silenceReport p d silent) s = execSilenceReport p d silent s := rfl
@[simp] theorem exec_resign (p : Nat) : exec (.resign p) s = execResign p s := rfl
@[simp] theorem exec_managerMessage (p epoch : Nat) : exec (.managerMessage p epoch) s = execManagerMessage p epoch s := rfl
@[simp] theorem exec_flitNak (p : Nat) (again : Bool) : exec (.flitNak p again) s = execFlitNak p again s := rfl
@[simp] theorem exec_lossOfLock (p : Nat) : exec (.lossOfLock p) s = execLossOfLock p s := rfl
@[simp] theorem exec_pxlRetrainDone (p : Nat) (ok narrow slow : Bool) (lat : Nat) : exec (.pxlRetrainDone p ok narrow slow lat) s = execPxlRetrainDone p ok narrow slow lat s := rfl
@[simp] theorem exec_reqTimeout (c eng d : Nat) : exec (.reqTimeout c eng d) s = execReqTimeout c eng d s := rfl
@[simp] theorem exec_healthWord (d w : Nat) : exec (.healthWord d w) s = execHealthWord d w s := rfl
@[simp] theorem exec_sourceDeassert (n : Nat) : exec (.sourceDeassert n) s = execSourceDeassert n s := rfl
@[simp] theorem exec_intcClaim (t : Nat) : exec (.intcClaim t) s = execIntcClaim t s := rfl
@[simp] theorem exec_intcComplete (t n : Nat) : exec (.intcComplete t n) s = execIntcComplete t n s := rfl
@[simp] theorem exec_maskWrite (fm pf : Bool) (n value : Nat) : exec (.maskWrite fm pf n value) s = execMaskWrite fm pf n value s := rfl
@[simp] theorem exec_intcRelease (n : Nat) : exec (.intcRelease n) s = execIntcRelease n s := rfl
@[simp] theorem exec_modTimer (m : Nat) : exec (.modTimer m) s = execModTimer m s := rfl
@[simp] theorem exec_idleHintSet (v : Nat) : exec (.idleHintSet v) s = execIdleHintSet v s := rfl
@[simp] theorem exec_vectorUnmask (func v : Nat) : exec (.vectorUnmask func v) s = execVectorUnmask func v s := rfl
@[simp] theorem exec_swSet (k m : Nat) : exec (.swSet k m) s = execSwSet k m s := rfl
@[simp] theorem exec_swClr (k m : Nat) : exec (.swClr k m) s = execSwClr k m s := rfl
@[simp] theorem exec_usdoUpload (bus c idx sub : Nat) (more : Bool) : exec (.usdoUpload bus c idx sub more) s = execUsdoUpload bus c idx sub more s := rfl
@[simp] theorem exec_usdoDownload (bus c idx sub : Nat) (data : List Nat) (more : Bool) : exec (.usdoDownload bus c idx sub data more) s = execUsdoDownload bus c idx sub data more s := rfl
@[simp] theorem exec_usdoTimeout (c : Nat) : exec (.usdoTimeout c) s = execUsdoTimeout c s := rfl
@[simp] theorem exec_storeParameters (bus c sig : Nat) : exec (.storeParameters bus c sig) s = execStoreParameters bus c sig s := rfl
@[simp] theorem exec_restoreDefaults (bus c sig : Nat) : exec (.restoreDefaults bus c sig) s = execRestoreDefaults bus c sig s := rfl
@[simp] theorem exec_saveDone : exec (.saveDone) s = execSaveDone s := rfl
@[simp] theorem exec_nmtStart (node bus : Nat) : exec (.nmtStart node bus) s = execNmtStart node bus s := rfl
@[simp] theorem exec_nmtStop (node bus : Nat) : exec (.nmtStop node bus) s = execNmtStop node bus s := rfl
@[simp] theorem exec_nmtEnterPreop (node bus : Nat) : exec (.nmtEnterPreop node bus) s = execNmtEnterPreop node bus s := rfl
@[simp] theorem exec_nmtResetNode (node bus : Nat) : exec (.nmtResetNode node bus) s = execNmtResetNode node bus s := rfl
@[simp] theorem exec_nmtResetComm (node bus : Nat) : exec (.nmtResetComm node bus) s = execNmtResetComm node bus s := rfl
@[simp] theorem exec_heartbeatProduce : exec (.heartbeatProduce) s = execHeartbeatProduce s := rfl
@[simp] theorem exec_heartbeatConsume (node bus : Nat) : exec (.heartbeatConsume node bus) s = execHeartbeatConsume node bus s := rfl
@[simp] theorem exec_heartbeatLost (i : Nat) : exec (.heartbeatLost i) s = execHeartbeatLost i s := rfl
@[simp] theorem exec_syncReceive (bus ago : Nat) (good : Bool) : exec (.syncReceive bus ago good) s = execSyncReceive bus ago good s := rfl
@[simp] theorem exec_syncTickDelay : exec (.syncTickDelay) s = execSyncTickDelay s := rfl
@[simp] theorem exec_syncProduce : exec (.syncProduce) s = execSyncProduce s := rfl
@[simp] theorem exec_emcySend : exec (.emcySend) s = execEmcySend s := rfl
@[simp] theorem exec_busOff (k : Nat) : exec (.busOff k) s = execBusOff k s := rfl
@[simp] theorem exec_busOffRecover (k : Nat) : exec (.busOffRecover k) s = execBusOffRecover k s := rfl
@[simp] theorem exec_rpdo (n bus : Nat) (data : List Nat) : exec (.rpdo n bus data) s = execRpdo n bus data s := rfl
@[simp] theorem exec_tpdo (n : Nat) : exec (.tpdo n) s = execTpdo n s := rfl
@[simp] theorem exec_mbxRead : exec (.mbxRead) s = execMbxRead s := rfl
@[simp] theorem exec_mbxWrite : exec (.mbxWrite) s = execMbxWrite s := rfl
@[simp] theorem exec_mbxSave : exec (.mbxSave) s = execMbxSave s := rfl
@[simp] theorem exec_mbxRestore : exec (.mbxRestore) s = execMbxRestore s := rfl
@[simp] theorem exec_powerOn (rated : Bool) : exec (.powerOn rated) s = execPowerOn rated s := rfl
@[simp] theorem exec_perstRelease (devId : Nat) (recov jtag : Bool) : exec (.perstRelease devId recov jtag) s = execPerstRelease devId recov jtag s := rfl
@[simp] theorem exec_fuseRead (readErr : Bool) : exec (.fuseRead readErr) s = execFuseRead readErr s := rfl
@[simp] theorem exec_yieldMap : exec (.yieldMap) s = execYieldMap s := rfl
@[simp] theorem exec_licenceCheck (readErr : Bool) : exec (.licenceCheck readErr) s = execLicenceCheck readErr s := rfl
@[simp] theorem exec_hbmTrain (fails : List Nat) : exec (.hbmTrain fails) s = execHbmTrain fails s := rfl
@[simp] theorem exec_firmwareLoad (readErr : Bool) : exec (.firmwareLoad readErr) s = execFirmwareLoad readErr s := rfl
@[simp] theorem exec_microcodeBroadcast (fails : List (Nat × Nat)) : exec (.microcodeBroadcast fails) s = execMicrocodeBroadcast fails s := rfl
@[simp] theorem exec_bootSelftest (fails : List (Nat × Nat)) (spares : List Nat) (shared : Bool) (d0 d1 : Nat) : exec (.bootSelftest fails spares shared d0 d1) s = execBootSelftest fails spares shared d0 d1 s := rfl
@[simp] theorem exec_carveoutCheck : exec (.carveoutCheck) s = execCarveoutCheck s := rfl
@[simp] theorem exec_enable : exec (.enable) s = execEnable s := rfl
@[simp] theorem exec_bootStepDone : exec (.bootStepDone) s = execBootStepDone s := rfl
@[simp] theorem exec_bootStepTimeout : exec (.bootStepTimeout) s = execBootStepTimeout s := rfl
@[simp] theorem exec_recovExit : exec (.recovExit) s = execRecovExit s := rfl
@[simp] theorem exec_trialReq : exec (.trialReq) s = execTrialReq s := rfl
@[simp] theorem exec_flashRead : exec (.flashRead) s = execFlashRead s := rfl
@[simp] theorem exec_flashProgram : exec (.flashProgram) s = execFlashProgram s := rfl
@[simp] theorem exec_flashErase : exec (.flashErase) s = execFlashErase s := rfl
@[simp] theorem exec_flashDone : exec (.flashDone) s = execFlashDone s := rfl
@[simp] theorem exec_warmReset (src key : Nat) : exec (.warmReset src key) s = execWarmReset src key s := rfl
@[simp] theorem exec_warmStepDone (ok unitFail : Bool) (fails : List (Nat × Nat)) : exec (.warmStepDone ok unitFail fails) s = execWarmStepDone ok unitFail fails s := rfl
@[simp] theorem exec_fullReset (src key : Nat) : exec (.fullReset src key) s = execFullReset src key s := rfl
@[simp] theorem exec_hotReset : exec (.hotReset) s = execHotReset s := rfl
@[simp] theorem exec_partitionReset (p : Nat) (host : Bool) : exec (.partitionReset p host) s = execPartitionReset p host s := rfl
@[simp] theorem exec_partitionResetDone (p : Nat) : exec (.partitionResetDone p) s = execPartitionResetDone p s := rfl
@[simp] theorem exec_blockReset (slot typ unit core : Nat) : exec (.blockReset slot typ unit core) s = execBlockReset slot typ unit core s := rfl
@[simp] theorem exec_idleTimeout (typ unit core : Nat) : exec (.idleTimeout typ unit core) s = execIdleTimeout typ unit core s := rfl
@[simp] theorem exec_blockResetDone (typ unit core : Nat) : exec (.blockResetDone typ unit core) s = execBlockResetDone typ unit core s := rfl
@[simp] theorem exec_vfFlr (n : Nat) : exec (.vfFlr n) s = execVfFlr n s := rfl
@[simp] theorem exec_pfFlr : exec (.pfFlr) s = execPfFlr s := rfl
@[simp] theorem exec_dozeEntry : exec (.dozeEntry) s = execDozeEntry s := rfl
@[simp] theorem exec_napEntry : exec (.napEntry) s = execNapEntry s := rfl
@[simp] theorem exec_offEntry (key : Nat) : exec (.offEntry key) s = execOffEntry key s := rfl
@[simp] theorem exec_activeCmd : exec (.activeCmd) s = execActiveCmd s := rfl
@[simp] theorem exec_entryAbort : exec (.entryAbort) s = execEntryAbort s := rfl
@[simp] theorem exec_wake (src : Nat) (ok : Bool) : exec (.wake src ok) s = execWake src ok s := rfl
@[simp] theorem exec_wakeIn : exec (.wakeIn) s = execWakeIn s := rfl
@[simp] theorem exec_gpioEdge (g : Nat) (level : Bool) : exec (.gpioEdge g level) s = execGpioEdge g level s := rfl
@[simp] theorem exec_domainWakeAccess (a : Nat) : exec (.domainWakeAccess a) s = execDomainWakeAccess a s := rfl
@[simp] theorem exec_domainRegate (d : Nat) : exec (.domainRegate d) s = execDomainRegate d s := rfl
@[simp] theorem exec_supplyBelowPor (aon : Bool) : exec (.supplyBelowPor aon) s = execSupplyBelowPor aon s := rfl
@[simp] theorem exec_corePatrol (c k : Nat) (fail : Bool) : exec (.corePatrol c k fail) s = execCorePatrol c k fail s := rfl
@[simp] theorem exec_watchdogFire (kind unit : Nat) : exec (.watchdogFire kind unit) s = execWatchdogFire kind unit s := rfl
@[simp] theorem exec_fabricCrcError (again : Bool) : exec (.fabricCrcError again) s = execFabricCrcError again s := rfl
@[simp] theorem exec_lockstepError (b : Bool) : exec (.lockstepError b) s = execLockstepError b s := rfl
@[simp] theorem exec_voltageMonitor (sup mv : Nat) : exec (.voltageMonitor sup mv) s = execVoltageMonitor sup mv s := rfl
@[simp] theorem exec_clockMonitor (d n : Nat) : exec (.clockMonitor d n) s = execClockMonitor d n s := rfl
@[simp] theorem exec_refclkLoss : exec (.refclkLoss) s = execRefclkLoss s := rfl
@[simp] theorem exec_tempSensorRead (t : Nat) : exec (.tempSensorRead t) s = execTempSensorRead t s := rfl
@[simp] theorem exec_safeReqAssert : exec (.safeReqAssert) s = execSafeReqAssert s := rfl
@[simp] theorem exec_safeReqRelease : exec (.safeReqRelease) s = execSafeReqRelease s := rfl
@[simp] theorem exec_recoveryOverrun (k : Nat) : exec (.recoveryOverrun k) s = execRecoveryOverrun k s := rfl
@[simp] theorem exec_assayerTestStart : exec (.assayerTestStart) s = execAssayerTestStart s := rfl
@[simp] theorem exec_testVerdict (fail : Bool) : exec (.testVerdict fail) s = execTestVerdict fail s := rfl
@[simp] theorem exec_ageingMeasure (d0 d1 : Nat) : exec (.ageingMeasure d0 d1) s = execAgeingMeasure d0 d1 s := rfl
@[simp] theorem exec_ledgerAppend : exec (.ledgerAppend) s = execLedgerAppend s := rfl
@[simp] theorem exec_mirrorWrite (ok : Bool) : exec (.mirrorWrite ok) s = execMirrorWrite ok s := rfl
@[simp] theorem exec_stateAreaWrite (ok : Bool) : exec (.stateAreaWrite ok) s = execStateAreaWrite ok s := rfl
@[simp] theorem exec_ledgerClear (who node key : Nat) : exec (.ledgerClear who node key) s = execLedgerClear who node key s := rfl
@[simp] theorem exec_ledgerFreeze (who : Nat) : exec (.ledgerFreeze who) s = execLedgerFreeze who s := rfl
@[simp] theorem exec_ledgerUnfreeze (who : Nat) : exec (.ledgerUnfreeze who) s = execLedgerUnfreeze who s := rfl
@[simp] theorem exec_freezeTimeout : exec (.freezeTimeout) s = execFreezeTimeout s := rfl
@[simp] theorem exec_halt (cluster core slot : Nat) (byCtx : Bool) (ctx : Nat) : exec (.halt cluster core slot byCtx ctx) s = execHalt cluster core slot byCtx ctx s := rfl
@[simp] theorem exec_groupHalted (g : Nat) : exec (.groupHalted g) s = execGroupHalted g s := rfl
@[simp] theorem exec_resume (cluster core slot : Nat) (byCtx : Bool) (ctx : Nat) : exec (.resume cluster core slot byCtx ctx) s = execResume cluster core slot byCtx ctx s := rfl
@[simp] theorem exec_step (cluster core slot : Nat) (byCtx : Bool) (ctx : Nat) : exec (.step cluster core slot byCtx ctx) s = execStep cluster core slot byCtx ctx s := rfl
@[simp] theorem exec_dbgAcc (space reg lane : Nat) (write : Bool) : exec (.dbgAcc space reg lane write) s = execDbgAcc space reg lane write s := rfl
@[simp] theorem exec_loomHalt (n : Nat) : exec (.loomHalt n) s = execLoomHalt n s := rfl
@[simp] theorem exec_loomResume (n : Nat) : exec (.loomResume n) s = execLoomResume n s := rfl
@[simp] theorem exec_loomStep (n : Nat) : exec (.loomStep n) s = execLoomStep n s := rfl
@[simp] theorem exec_extest (v : Nat) : exec (.extest v) s = execExtest v s := rfl
@[simp] theorem exec_idcode : exec (.idcode) s = execIdcode s := rfl
@[simp] theorem exec_samplePreload (v : Nat) : exec (.samplePreload v) s = execSamplePreload v s := rfl
@[simp] theorem exec_clamp : exec (.clamp) s = execClamp s := rfl
@[simp] theorem exec_dbgacc (off4 : Nat) (write wide : Bool) (data : Nat) : exec (.dbgacc off4 write wide data) s = execDbgacc off4 write wide data s := rfl
@[simp] theorem exec_bypass : exec (.bypass) s = execBypass s := rfl
@[simp] theorem exec_perstAssert : exec (.perstAssert) s = execPerstAssert s := rfl
@[simp] theorem exec_powerEntryDone : exec (.powerEntryDone) s = execPowerEntryDone s := rfl
@[simp] theorem exec_copyComplete (e : Nat) : exec (.copyComplete e) s = execCopyComplete e s := rfl
@[simp] theorem exec_capGenRead : exec (.capGenRead) s = execCapGenRead s := rfl
@[simp] theorem exec_aphyLinkLocked (o : Nat) : exec (.aphyLinkLocked o) s = execAphyLinkLocked o s := rfl

end Sys2Proof.Machine
end

