-- ==== Sys2Proof/Laws/Memory.lean ====
section
/-! SUPPORT. Laws of byte-addressed memories: a read after a write, and that every operation keeps the canonical form. -/

namespace Sys2Proof.Machine

/-- The canonical form as a pairwise relation and a condition on each entry. -/
theorem Memory.wf_iff (m : Memory) :
    m.wf = true ↔ m.Pairwise (fun a b => a.1 < b.1) ∧ ∀ p ∈ m, p.2 ≠ 0 := by
  induction m with
  | nil => simp [Memory.wf]
  | cons a r ih =>
    obtain ⟨k, v⟩ := a
    cases r with
    | nil => simp [Memory.wf]
    | cons b r =>
      obtain ⟨k', v'⟩ := b
      simp only [Memory.wf, Bool.and_eq_true, bne_iff_ne, decide_eq_true_eq, ih, List.pairwise_cons, List.mem_cons,
        forall_eq_or_imp]
      constructor
      · rintro ⟨⟨h1, h2⟩, ⟨h3, h4⟩, h5, h6⟩
        exact ⟨⟨⟨h2, fun p hp => Nat.lt_trans h2 (h3 p hp)⟩, h3, h4⟩, h1, h5, h6⟩
      · rintro ⟨⟨⟨h2, _⟩, h3, h4⟩, h1, h5, h6⟩
        exact ⟨⟨h1, h2⟩, ⟨h3, h4⟩, h5, h6⟩

@[simp] theorem Memory.wf_nil : Memory.wf [] = true := rfl

/-- Dropping entries keeps the canonical form. -/
theorem Memory.wf_filter {m : Memory} (p : Host.Cell → Bool) (h : m.wf = true) : Memory.wf (m.filter p) = true := by
  rw [Memory.wf_iff] at *
  exact ⟨h.1.filter p, fun q hq => h.2 q (List.mem_filter.mp hq).1⟩

theorem Memory.wf_zero {m : Memory} (lo hi : Nat) (h : m.wf = true) : (m.zero lo hi).wf = true := Memory.wf_filter _ h

theorem Memory.mem_set {m : Memory} {x : Nat} {v : Byte} {e : Host.Cell} (h : e ∈ m.set x v) :
    (e = (x, v) ∧ v ≠ 0) ∨ e ∈ m := by
  induction m with
  | nil => simp only [Memory.set] at h; split at h <;> simp_all
  | cons p r ih =>
    obtain ⟨k, w⟩ := p
    simp only [Memory.set] at h
    split at h
    · split at h
      · exact .inr (List.mem_cons_of_mem _ h)
      · rcases List.mem_cons.mp h with h | h
        · exact .inl ⟨h, ‹_›⟩
        · exact .inr (List.mem_cons_of_mem _ h)
    · split at h
      · split at h <;> simp_all
      · rcases List.mem_cons.mp h with h | h
        · simp_all
        · rcases ih h with h | h <;> simp_all

theorem Memory.wf_set {m : Memory} (x : Nat) (v : Byte) (h : m.wf = true) : (m.set x v).wf = true := by
  rw [Memory.wf_iff] at *
  obtain ⟨h1, h2⟩ := h
  refine ⟨?_, fun e he => ?_⟩
  · clear h2
    induction m with
    | nil => simp only [Memory.set]; split <;> simp
    | cons p r ih =>
      obtain ⟨k, w⟩ := p
      obtain ⟨h3, h4⟩ := List.pairwise_cons.mp h1
      simp only [Memory.set]
      split
      · next e =>
        subst e
        split
        · exact h4
        · exact List.pairwise_cons.mpr ⟨h3, h4⟩
      · split
        · next lt =>
          split
          · exact h1
          · refine List.pairwise_cons.mpr ⟨fun e he => ?_, h1⟩
            rcases List.mem_cons.mp he with rfl | he
            · exact lt
            · exact Nat.lt_trans lt (h3 e he)
        · next ne nlt =>
          refine List.pairwise_cons.mpr ⟨fun e he => ?_, ih h4⟩
          rcases Memory.mem_set he with ⟨rfl, _⟩ | he
          · exact Nat.lt_of_le_of_ne (Nat.le_of_not_lt nlt) (Ne.symm ne)
          · exact h3 e he
  · rcases Memory.mem_set he with ⟨rfl, hv⟩ | he
    · exact hv
    · exact h2 e he

theorem Memory.wf_write {m : Memory} (a : Nat) (l : List Byte) (h : m.wf = true) : (m.write a l).wf = true := by
  induction l generalizing m a with
  | nil => exact h
  | cons b r ih => exact ih _ (Memory.wf_set a b h)

theorem Memory.wf_foldl {α : Type} {m : Memory} {f : Memory → α → Memory} (l : List α) (h : m.wf = true)
    (hf : ∀ m a, m.wf = true → (f m a).wf = true) : Memory.wf (l.foldl f m) = true := by
  induction l generalizing m with
  | nil => exact h
  | cons a r ih => exact ih (hf m a h)

theorem Memory.wf_writeMask {m : Memory} (a k : Nat) (l : List Byte) (h : m.wf = true) : (m.writeMask a k l).wf = true := by
  induction l generalizing m a k with
  | nil => exact h
  | cons b r ih =>
    simp only [Memory.writeMask]
    split
    · exact ih _ _ (Memory.wf_set a b h)
    · exact ih _ _ h

theorem Memory.get_eq_zero {m : Memory} {x : Nat} (h : ∀ p ∈ m, p.1 ≠ x) : m.get x = 0 := by
  induction m with
  | nil => rfl
  | cons p r ih =>
    obtain ⟨k, w⟩ := p
    simp only [Memory.get, h (k, w) (List.mem_cons_self ..), if_false]
    exact ih (fun p hp => h p (List.mem_cons_of_mem _ hp))

/-- A byte read after a write of one byte, in a memory in canonical form. -/
theorem Memory.get_set {m : Memory} (x y : Nat) (v : Byte) (h : m.wf = true) :
    (m.set x v).get y = if y = x then v else m.get y := by
  rw [Memory.wf_iff] at h
  obtain ⟨h, -⟩ := h
  induction m with
  | nil =>
    rw [Memory.set]
    split
    · next hv => simp [hv, Memory.get]
    · by_cases hy : y = x
      · simp [hy, Memory.get]
      · rw [if_neg hy]; simp only [Memory.get, if_neg (Ne.symm hy)]
  | cons p r ih =>
    obtain ⟨k, w⟩ := p
    obtain ⟨h3, h4⟩ := List.pairwise_cons.mp h
    have hr : ∀ z, z ≤ k → Memory.get r z = 0 := fun z hz =>
      Memory.get_eq_zero (fun p hp e => by have := h3 p hp; simp only at this; omega)
    simp only [Memory.set]
    split
    · next e =>
      subst e
      split
      · next hv =>
        subst hv
        simp only [Memory.get]
        by_cases hy : y = x
        · subst hy; simp [hr y (Nat.le_refl _)]
        · simp [hy, Ne.symm hy]
      · simp only [Memory.get]
        by_cases hy : y = x
        · simp [hy]
        · simp [hy, Ne.symm hy]
    · split
      · next ne lt =>
        split
        · next hv =>
          subst hv
          by_cases hy : y = x
          · subst hy; simp [Memory.get, hr y (by omega), Ne.symm ne]
          · simp [hy]
        · by_cases hy : y = x
          · subst hy; simp [Memory.get]
          · simp [Memory.get, hy, Ne.symm hy]
      · next ne nlt =>
        simp only [Memory.get, ih h4]
        by_cases hk : k = y
        · subst hk; simp [Ne.symm ne]
        · simp [hk]

/-- A run of bytes written leaves every address outside it. -/
theorem Memory.get_write_other {m : Memory} (a y : Nat) (l : List Byte) (h : m.wf = true) (hy : y < a ∨ a + l.length ≤ y) :
    (m.write a l).get y = m.get y := by
  induction l generalizing m a with
  | nil => rfl
  | cons b r ih =>
    simp only [List.length_cons] at hy
    rw [Memory.write, ih _ (Memory.wf_set a b h) (by omega), Memory.get_set a y b h, if_neg (by omega)]

end Sys2Proof.Machine
end

