-- ==== Sys2Proof/Laws/Maps.lean ====
section
/-! SUPPORT. Laws of the sparse maps: what a read answers after a write, and that writes keep the order of the keys. -/

namespace Sys2Proof.Machine

@[simp] theorem RMap.get?_put (m : RMap) (x y : Nat × Nat) (v : Nat) :
    (m.put x v).get? y = if x = y then some v else m.get? y := by
  induction m with
  | nil => simp [RMap.put, RMap.get?]
  | cons p r ih =>
    obtain ⟨k, w⟩ := p
    simp only [RMap.put]
    split
    · subst x; simp only [RMap.get?]; split <;> simp_all
    · split
      · simp only [RMap.get?]
      · simp only [RMap.get?, ih]; split <;> split <;> simp_all

@[simp] theorem RMap.get?_del (m : RMap) (x y : Nat × Nat) :
    (m.del x).get? y = if x = y then none else m.get? y := by
  induction m with
  | nil => simp [RMap.del, RMap.get?]
  | cons p r ih =>
    obtain ⟨k, w⟩ := p
    simp only [RMap.del, List.filter] at ih ⊢
    by_cases h : k = x
    · subst h; simp only [bne_self_eq_false, ih, RMap.get?]; split <;> simp_all
    · have hk : (k != x) = true := by simpa using h
      simp only [hk, RMap.get?, ih]
      split <;> split <;> simp_all

@[simp] theorem NMap.get?_put {α : Type} (m : NMap α) (x y : Nat) (v : α) :
    (m.put x v).get? y = if x = y then some v else m.get? y := by
  induction m with
  | nil => simp [NMap.put, NMap.get?]
  | cons p r ih =>
    obtain ⟨k, w⟩ := p
    simp only [NMap.put]
    split
    · subst x; simp only [NMap.get?]; split <;> simp_all
    · split
      · simp only [NMap.get?]
      · simp only [NMap.get?, ih]; split <;> split <;> simp_all

@[simp] theorem NMap.get?_del {α : Type} (m : NMap α) (x y : Nat) :
    (m.del x).get? y = if x = y then none else m.get? y := by
  induction m with
  | nil => simp [NMap.del, NMap.get?]
  | cons p r ih =>
    obtain ⟨k, w⟩ := p
    simp only [NMap.del, List.filter] at ih ⊢
    by_cases h : k = x
    · subst h; simp only [bne_self_eq_false, ih, NMap.get?]; split <;> simp_all
    · have hk : (k != x) = true := by simpa using h
      simp only [hk, NMap.get?, ih]
      split <;> split <;> simp_all

@[simp] theorem NMap.get?_upd {α : Type} (m : NMap α) (x y : Nat) (f : α → α) :
    (m.upd x f).get? y = if x = y then (m.get? y).map f else m.get? y := by
  induction m with
  | nil => simp [NMap.upd, NMap.get?]
  | cons p r ih =>
    obtain ⟨k, w⟩ := p
    simp only [NMap.upd, List.map_cons] at ih ⊢
    by_cases h : k = x
    · subst h; simp only [if_true, NMap.get?, ih]; split <;> simp_all
    · simp only [h, if_false, NMap.get?, ih]; split <;> split <;> simp_all

theorem keyLt_trans {a b c : Nat × Nat} (h : keyLt a b = true) (k : keyLt b c = true) : keyLt a c = true := by
  simp only [keyLt, Bool.or_eq_true, decide_eq_true_eq, Bool.and_eq_true, beq_iff_eq] at *; omega

theorem keyLt_total {a b : Nat × Nat} (h : a ≠ b) (k : keyLt a b = false) : keyLt b a = true := by
  obtain ⟨a1, a2⟩ := a; obtain ⟨b1, b2⟩ := b
  simp only [keyLt, Bool.or_eq_false_iff, decide_eq_false_iff_not, Bool.and_eq_false_iff, Bool.or_eq_true,
    decide_eq_true_eq, Bool.and_eq_true, beq_iff_eq, beq_eq_false_iff_ne, ne_eq, Prod.mk.injEq, not_and] at *
  omega

/-- A sorted store as a pairwise relation. -/
theorem RMap.sorted_iff (m : RMap) : m.sorted = true ↔ m.Pairwise (fun a b => keyLt a.1 b.1 = true) := by
  induction m with
  | nil => simp [RMap.sorted]
  | cons a r ih =>
    cases r with
    | nil => simp [RMap.sorted]
    | cons b r =>
      rw [RMap.sorted, Bool.and_eq_true, ih, List.pairwise_cons (a := a)]
      constructor
      · rintro ⟨h, k⟩
        refine ⟨fun c hc => ?_, k⟩
        rcases List.mem_cons.mp hc with rfl | hc
        · exact h
        · exact keyLt_trans h ((List.pairwise_cons.mp k).1 c hc)
      · rintro ⟨h, k⟩
        exact ⟨h b (List.mem_cons_self ..), k⟩

theorem RMap.sorted_filter {m : RMap} (p : (Nat × Nat) × Nat → Bool) (h : m.sorted = true) :
    RMap.sorted (m.filter p) = true :=
  (RMap.sorted_iff _).2 (((RMap.sorted_iff _).1 h).filter p)

theorem RMap.mem_put {m : RMap} {x : Nat × Nat} {v : Nat} {e : (Nat × Nat) × Nat} (h : e ∈ m.put x v) : e = (x, v) ∨ e ∈ m := by
  induction m with
  | nil => simpa [RMap.put] using h
  | cons p r ih =>
    simp only [RMap.put] at h
    split at h
    · rcases List.mem_cons.mp h with h | h <;> simp_all
    · split at h
      · simpa using h
      · rcases List.mem_cons.mp h with h | h
        · simp_all
        · rcases ih h with h | h <;> simp_all

theorem RMap.sorted_put {m : RMap} (x : Nat × Nat) (v : Nat) (h : m.sorted = true) : (m.put x v).sorted = true := by
  rw [RMap.sorted_iff] at *
  induction m with
  | nil => simp [RMap.put]
  | cons p r ih =>
    obtain ⟨k, w⟩ := p
    obtain ⟨h1, h2⟩ := List.pairwise_cons.mp h
    simp only [RMap.put]
    split
    · next e => subst e; exact List.pairwise_cons.mpr ⟨h1, h2⟩
    · split
      · next lt =>
        refine List.pairwise_cons.mpr ⟨fun e he => ?_, h⟩
        rcases List.mem_cons.mp he with rfl | he
        · exact lt
        · exact keyLt_trans lt (h1 e he)
      · next ne nlt =>
        refine List.pairwise_cons.mpr ⟨fun e he => ?_, ih h2⟩
        rcases RMap.mem_put he with rfl | he
        · exact keyLt_total ne (by simpa using nlt)
        · exact h1 e he

end Sys2Proof.Machine
end

