-- ==== Sys2Proof/Laws/State.lean ====
section
/-! SUPPORT. One lemma for each part of State that an update leaves: an update through an operation of the model changes its
own part alone. -/

namespace Sys2Proof.Machine

variable (s : State)

@[simp] theorem State.wr_now (F : Fld) (i v : Nat) : (s.wr F i v).now = s.now := rfl
@[simp] theorem State.wr_freeCtr (F : Fld) (i v : Nat) : (s.wr F i v).freeCtr = s.freeCtr := rfl
@[simp] theorem State.wr_shadows (F : Fld) (i v : Nat) : (s.wr F i v).shadows = s.shadows := rfl
@[simp] theorem State.wr_rdata (F : Fld) (i v : Nat) : (s.wr F i v).rdata = s.rdata := rfl
@[simp] theorem State.wr_out (F : Fld) (i v : Nat) : (s.wr F i v).out = s.out := rfl
@[simp] theorem State.wr_bus (F : Fld) (i v : Nat) : (s.wr F i v).bus = s.bus := rfl
@[simp] theorem State.wr_irq (F : Fld) (i v : Nat) : (s.wr F i v).irq = s.irq := rfl
@[simp] theorem State.wr_cap (F : Fld) (i v : Nat) : (s.wr F i v).cap = s.cap := rfl
@[simp] theorem State.wr_ldg (F : Fld) (i v : Nat) : (s.wr F i v).ldg = s.ldg := rfl
@[simp] theorem State.wr_area (F : Fld) (i v : Nat) : (s.wr F i v).area = s.area := rfl
@[simp] theorem State.wr_tds (F : Fld) (i v : Nat) : (s.wr F i v).tds = s.tds := rfl
@[simp] theorem State.wr_saf (F : Fld) (i v : Nat) : (s.wr F i v).saf = s.saf := rfl
@[simp] theorem State.wr_asy (F : Fld) (i v : Nat) : (s.wr F i v).asy = s.asy := rfl
@[simp] theorem State.wr_mem (F : Fld) (i v : Nat) : (s.wr F i v).mem = s.mem := rfl
@[simp] theorem State.wr_fe (F : Fld) (i v : Nat) : (s.wr F i v).fe = s.fe := rfl
@[simp] theorem State.wr_tly (F : Fld) (i v : Nat) : (s.wr F i v).tly = s.tly := rfl
@[simp] theorem State.wr_heaps (F : Fld) (i v : Nat) : (s.wr F i v).heaps = s.heaps := rfl
@[simp] theorem State.wr_mmu (F : Fld) (i v : Nat) : (s.wr F i v).mmu = s.mmu := rfl
@[simp] theorem State.wr_pats (F : Fld) (i v : Nat) : (s.wr F i v).pats = s.pats := rfl
@[simp] theorem State.wr_sh (F : Fld) (i v : Nat) : (s.wr F i v).sh = s.sh := rfl
@[simp] theorem State.wr_looms (F : Fld) (i v : Nat) : (s.wr F i v).looms = s.looms := rfl
@[simp] theorem State.wr_routes (F : Fld) (i v : Nat) : (s.wr F i v).routes = s.routes := rfl
@[simp] theorem State.wr_crd (F : Fld) (i v : Nat) : (s.wr F i v).crd = s.crd := rfl
@[simp] theorem State.wr_gfx (F : Fld) (i v : Nat) : (s.wr F i v).gfx = s.gfx := rfl
@[simp] theorem State.wr_glz (F : Fld) (i v : Nat) : (s.wr F i v).glz = s.glz := rfl
@[simp] theorem State.wr_prs (F : Fld) (i v : Nat) : (s.wr F i v).prs = s.prs := rfl
@[simp] theorem State.wr_rt (F : Fld) (i v : Nat) : (s.wr F i v).rt = s.rt := rfl
@[simp] theorem State.wr_tick (F : Fld) (i v : Nat) : (s.wr F i v).tick = s.tick := rfl
@[simp] theorem State.wr_mesh (F : Fld) (i v : Nat) : (s.wr F i v).mesh = s.mesh := rfl
@[simp] theorem State.wr_odm (F : Fld) (i v : Nat) : (s.wr F i v).odm = s.odm := rfl
@[simp] theorem State.wr_boot (F : Fld) (i v : Nat) : (s.wr F i v).boot = s.boot := rfl
@[simp] theorem State.wr_pwr (F : Fld) (i v : Nat) : (s.wr F i v).pwr = s.pwr := rfl
@[simp] theorem State.wr_jtag (F : Fld) (i v : Nat) : (s.wr F i v).jtag = s.jtag := rfl
@[simp] theorem State.wr_rsts (F : Fld) (i v : Nat) : (s.wr F i v).rsts = s.rsts := rfl
@[simp] theorem State.wr_emcyQ (F : Fld) (i v : Nat) : (s.wr F i v).emcyQ = s.emcyQ := rfl
@[simp] theorem State.wr_errField (F : Fld) (i v : Nat) : (s.wr F i v).errField = s.errField := rfl
@[simp] theorem State.wr_errReg (F : Fld) (i v : Nat) : (s.wr F i v).errReg = s.errReg := rfl
@[simp] theorem State.wr_pending (F : Fld) (i v : Nat) : (s.wr F i v).pending = s.pending := rfl

@[simp] theorem State.fl_now (F : Fld) (i : Nat) (b : Bool) : (s.fl F i b).now = s.now := rfl
@[simp] theorem State.fl_freeCtr (F : Fld) (i : Nat) (b : Bool) : (s.fl F i b).freeCtr = s.freeCtr := rfl
@[simp] theorem State.fl_shadows (F : Fld) (i : Nat) (b : Bool) : (s.fl F i b).shadows = s.shadows := rfl
@[simp] theorem State.fl_rdata (F : Fld) (i : Nat) (b : Bool) : (s.fl F i b).rdata = s.rdata := rfl
@[simp] theorem State.fl_out (F : Fld) (i : Nat) (b : Bool) : (s.fl F i b).out = s.out := rfl
@[simp] theorem State.fl_bus (F : Fld) (i : Nat) (b : Bool) : (s.fl F i b).bus = s.bus := rfl
@[simp] theorem State.fl_irq (F : Fld) (i : Nat) (b : Bool) : (s.fl F i b).irq = s.irq := rfl
@[simp] theorem State.fl_cap (F : Fld) (i : Nat) (b : Bool) : (s.fl F i b).cap = s.cap := rfl
@[simp] theorem State.fl_ldg (F : Fld) (i : Nat) (b : Bool) : (s.fl F i b).ldg = s.ldg := rfl
@[simp] theorem State.fl_area (F : Fld) (i : Nat) (b : Bool) : (s.fl F i b).area = s.area := rfl
@[simp] theorem State.fl_tds (F : Fld) (i : Nat) (b : Bool) : (s.fl F i b).tds = s.tds := rfl
@[simp] theorem State.fl_saf (F : Fld) (i : Nat) (b : Bool) : (s.fl F i b).saf = s.saf := rfl
@[simp] theorem State.fl_asy (F : Fld) (i : Nat) (b : Bool) : (s.fl F i b).asy = s.asy := rfl
@[simp] theorem State.fl_mem (F : Fld) (i : Nat) (b : Bool) : (s.fl F i b).mem = s.mem := rfl
@[simp] theorem State.fl_fe (F : Fld) (i : Nat) (b : Bool) : (s.fl F i b).fe = s.fe := rfl
@[simp] theorem State.fl_tly (F : Fld) (i : Nat) (b : Bool) : (s.fl F i b).tly = s.tly := rfl
@[simp] theorem State.fl_heaps (F : Fld) (i : Nat) (b : Bool) : (s.fl F i b).heaps = s.heaps := rfl
@[simp] theorem State.fl_mmu (F : Fld) (i : Nat) (b : Bool) : (s.fl F i b).mmu = s.mmu := rfl
@[simp] theorem State.fl_pats (F : Fld) (i : Nat) (b : Bool) : (s.fl F i b).pats = s.pats := rfl
@[simp] theorem State.fl_sh (F : Fld) (i : Nat) (b : Bool) : (s.fl F i b).sh = s.sh := rfl
@[simp] theorem State.fl_looms (F : Fld) (i : Nat) (b : Bool) : (s.fl F i b).looms = s.looms := rfl
@[simp] theorem State.fl_routes (F : Fld) (i : Nat) (b : Bool) : (s.fl F i b).routes = s.routes := rfl
@[simp] theorem State.fl_crd (F : Fld) (i : Nat) (b : Bool) : (s.fl F i b).crd = s.crd := rfl
@[simp] theorem State.fl_gfx (F : Fld) (i : Nat) (b : Bool) : (s.fl F i b).gfx = s.gfx := rfl
@[simp] theorem State.fl_glz (F : Fld) (i : Nat) (b : Bool) : (s.fl F i b).glz = s.glz := rfl
@[simp] theorem State.fl_prs (F : Fld) (i : Nat) (b : Bool) : (s.fl F i b).prs = s.prs := rfl
@[simp] theorem State.fl_rt (F : Fld) (i : Nat) (b : Bool) : (s.fl F i b).rt = s.rt := rfl
@[simp] theorem State.fl_tick (F : Fld) (i : Nat) (b : Bool) : (s.fl F i b).tick = s.tick := rfl
@[simp] theorem State.fl_mesh (F : Fld) (i : Nat) (b : Bool) : (s.fl F i b).mesh = s.mesh := rfl
@[simp] theorem State.fl_odm (F : Fld) (i : Nat) (b : Bool) : (s.fl F i b).odm = s.odm := rfl
@[simp] theorem State.fl_boot (F : Fld) (i : Nat) (b : Bool) : (s.fl F i b).boot = s.boot := rfl
@[simp] theorem State.fl_pwr (F : Fld) (i : Nat) (b : Bool) : (s.fl F i b).pwr = s.pwr := rfl
@[simp] theorem State.fl_jtag (F : Fld) (i : Nat) (b : Bool) : (s.fl F i b).jtag = s.jtag := rfl
@[simp] theorem State.fl_rsts (F : Fld) (i : Nat) (b : Bool) : (s.fl F i b).rsts = s.rsts := rfl
@[simp] theorem State.fl_emcyQ (F : Fld) (i : Nat) (b : Bool) : (s.fl F i b).emcyQ = s.emcyQ := rfl
@[simp] theorem State.fl_errField (F : Fld) (i : Nat) (b : Bool) : (s.fl F i b).errField = s.errField := rfl
@[simp] theorem State.fl_errReg (F : Fld) (i : Nat) (b : Bool) : (s.fl F i b).errReg = s.errReg := rfl
@[simp] theorem State.fl_pending (F : Fld) (i : Nat) (b : Bool) : (s.fl F i b).pending = s.pending := rfl

@[simp] theorem State.wrSh_now (F : Fld) (i v : Nat) : (s.wrSh F i v).now = s.now := rfl
@[simp] theorem State.wrSh_freeCtr (F : Fld) (i v : Nat) : (s.wrSh F i v).freeCtr = s.freeCtr := rfl
@[simp] theorem State.wrSh_regs (F : Fld) (i v : Nat) : (s.wrSh F i v).regs = s.regs := rfl
@[simp] theorem State.wrSh_rdata (F : Fld) (i v : Nat) : (s.wrSh F i v).rdata = s.rdata := rfl
@[simp] theorem State.wrSh_out (F : Fld) (i v : Nat) : (s.wrSh F i v).out = s.out := rfl
@[simp] theorem State.wrSh_bus (F : Fld) (i v : Nat) : (s.wrSh F i v).bus = s.bus := rfl
@[simp] theorem State.wrSh_irq (F : Fld) (i v : Nat) : (s.wrSh F i v).irq = s.irq := rfl
@[simp] theorem State.wrSh_cap (F : Fld) (i v : Nat) : (s.wrSh F i v).cap = s.cap := rfl
@[simp] theorem State.wrSh_ldg (F : Fld) (i v : Nat) : (s.wrSh F i v).ldg = s.ldg := rfl
@[simp] theorem State.wrSh_area (F : Fld) (i v : Nat) : (s.wrSh F i v).area = s.area := rfl
@[simp] theorem State.wrSh_tds (F : Fld) (i v : Nat) : (s.wrSh F i v).tds = s.tds := rfl
@[simp] theorem State.wrSh_saf (F : Fld) (i v : Nat) : (s.wrSh F i v).saf = s.saf := rfl
@[simp] theorem State.wrSh_asy (F : Fld) (i v : Nat) : (s.wrSh F i v).asy = s.asy := rfl
@[simp] theorem State.wrSh_mem (F : Fld) (i v : Nat) : (s.wrSh F i v).mem = s.mem := rfl
@[simp] theorem State.wrSh_fe (F : Fld) (i v : Nat) : (s.wrSh F i v).fe = s.fe := rfl
@[simp] theorem State.wrSh_tly (F : Fld) (i v : Nat) : (s.wrSh F i v).tly = s.tly := rfl
@[simp] theorem State.wrSh_heaps (F : Fld) (i v : Nat) : (s.wrSh F i v).heaps = s.heaps := rfl
@[simp] theorem State.wrSh_mmu (F : Fld) (i v : Nat) : (s.wrSh F i v).mmu = s.mmu := rfl
@[simp] theorem State.wrSh_pats (F : Fld) (i v : Nat) : (s.wrSh F i v).pats = s.pats := rfl
@[simp] theorem State.wrSh_sh (F : Fld) (i v : Nat) : (s.wrSh F i v).sh = s.sh := rfl
@[simp] theorem State.wrSh_looms (F : Fld) (i v : Nat) : (s.wrSh F i v).looms = s.looms := rfl
@[simp] theorem State.wrSh_routes (F : Fld) (i v : Nat) : (s.wrSh F i v).routes = s.routes := rfl
@[simp] theorem State.wrSh_crd (F : Fld) (i v : Nat) : (s.wrSh F i v).crd = s.crd := rfl
@[simp] theorem State.wrSh_gfx (F : Fld) (i v : Nat) : (s.wrSh F i v).gfx = s.gfx := rfl
@[simp] theorem State.wrSh_glz (F : Fld) (i v : Nat) : (s.wrSh F i v).glz = s.glz := rfl
@[simp] theorem State.wrSh_prs (F : Fld) (i v : Nat) : (s.wrSh F i v).prs = s.prs := rfl
@[simp] theorem State.wrSh_rt (F : Fld) (i v : Nat) : (s.wrSh F i v).rt = s.rt := rfl
@[simp] theorem State.wrSh_tick (F : Fld) (i v : Nat) : (s.wrSh F i v).tick = s.tick := rfl
@[simp] theorem State.wrSh_mesh (F : Fld) (i v : Nat) : (s.wrSh F i v).mesh = s.mesh := rfl
@[simp] theorem State.wrSh_odm (F : Fld) (i v : Nat) : (s.wrSh F i v).odm = s.odm := rfl
@[simp] theorem State.wrSh_boot (F : Fld) (i v : Nat) : (s.wrSh F i v).boot = s.boot := rfl
@[simp] theorem State.wrSh_pwr (F : Fld) (i v : Nat) : (s.wrSh F i v).pwr = s.pwr := rfl
@[simp] theorem State.wrSh_jtag (F : Fld) (i v : Nat) : (s.wrSh F i v).jtag = s.jtag := rfl
@[simp] theorem State.wrSh_rsts (F : Fld) (i v : Nat) : (s.wrSh F i v).rsts = s.rsts := rfl
@[simp] theorem State.wrSh_emcyQ (F : Fld) (i v : Nat) : (s.wrSh F i v).emcyQ = s.emcyQ := rfl
@[simp] theorem State.wrSh_errField (F : Fld) (i v : Nat) : (s.wrSh F i v).errField = s.errField := rfl
@[simp] theorem State.wrSh_errReg (F : Fld) (i v : Nat) : (s.wrSh F i v).errReg = s.errReg := rfl
@[simp] theorem State.wrSh_pending (F : Fld) (i v : Nat) : (s.wrSh F i v).pending = s.pending := rfl
@[simp] theorem State.wrSh_rd (F : Fld) (i v : Nat) (G : Fld) (k : Nat) : (s.wrSh F i v).rd G k = s.rd G k := rfl

@[simp] theorem State.emit_now (o : Out) : (s.emit o).now = s.now := rfl
@[simp] theorem State.emit_freeCtr (o : Out) : (s.emit o).freeCtr = s.freeCtr := rfl
@[simp] theorem State.emit_regs (o : Out) : (s.emit o).regs = s.regs := rfl
@[simp] theorem State.emit_shadows (o : Out) : (s.emit o).shadows = s.shadows := rfl
@[simp] theorem State.emit_rdata (o : Out) : (s.emit o).rdata = s.rdata := rfl
@[simp] theorem State.emit_bus (o : Out) : (s.emit o).bus = s.bus := rfl
@[simp] theorem State.emit_irq (o : Out) : (s.emit o).irq = s.irq := rfl
@[simp] theorem State.emit_cap (o : Out) : (s.emit o).cap = s.cap := rfl
@[simp] theorem State.emit_ldg (o : Out) : (s.emit o).ldg = s.ldg := rfl
@[simp] theorem State.emit_area (o : Out) : (s.emit o).area = s.area := rfl
@[simp] theorem State.emit_tds (o : Out) : (s.emit o).tds = s.tds := rfl
@[simp] theorem State.emit_saf (o : Out) : (s.emit o).saf = s.saf := rfl
@[simp] theorem State.emit_asy (o : Out) : (s.emit o).asy = s.asy := rfl
@[simp] theorem State.emit_mem (o : Out) : (s.emit o).mem = s.mem := rfl
@[simp] theorem State.emit_fe (o : Out) : (s.emit o).fe = s.fe := rfl
@[simp] theorem State.emit_tly (o : Out) : (s.emit o).tly = s.tly := rfl
@[simp] theorem State.emit_heaps (o : Out) : (s.emit o).heaps = s.heaps := rfl
@[simp] theorem State.emit_mmu (o : Out) : (s.emit o).mmu = s.mmu := rfl
@[simp] theorem State.emit_pats (o : Out) : (s.emit o).pats = s.pats := rfl
@[simp] theorem State.emit_sh (o : Out) : (s.emit o).sh = s.sh := rfl
@[simp] theorem State.emit_looms (o : Out) : (s.emit o).looms = s.looms := rfl
@[simp] theorem State.emit_routes (o : Out) : (s.emit o).routes = s.routes := rfl
@[simp] theorem State.emit_crd (o : Out) : (s.emit o).crd = s.crd := rfl
@[simp] theorem State.emit_gfx (o : Out) : (s.emit o).gfx = s.gfx := rfl
@[simp] theorem State.emit_glz (o : Out) : (s.emit o).glz = s.glz := rfl
@[simp] theorem State.emit_prs (o : Out) : (s.emit o).prs = s.prs := rfl
@[simp] theorem State.emit_rt (o : Out) : (s.emit o).rt = s.rt := rfl
@[simp] theorem State.emit_tick (o : Out) : (s.emit o).tick = s.tick := rfl
@[simp] theorem State.emit_mesh (o : Out) : (s.emit o).mesh = s.mesh := rfl
@[simp] theorem State.emit_odm (o : Out) : (s.emit o).odm = s.odm := rfl
@[simp] theorem State.emit_boot (o : Out) : (s.emit o).boot = s.boot := rfl
@[simp] theorem State.emit_pwr (o : Out) : (s.emit o).pwr = s.pwr := rfl
@[simp] theorem State.emit_jtag (o : Out) : (s.emit o).jtag = s.jtag := rfl
@[simp] theorem State.emit_rsts (o : Out) : (s.emit o).rsts = s.rsts := rfl
@[simp] theorem State.emit_emcyQ (o : Out) : (s.emit o).emcyQ = s.emcyQ := rfl
@[simp] theorem State.emit_errField (o : Out) : (s.emit o).errField = s.errField := rfl
@[simp] theorem State.emit_errReg (o : Out) : (s.emit o).errReg = s.errReg := rfl
@[simp] theorem State.emit_pending (o : Out) : (s.emit o).pending = s.pending := rfl
@[simp] theorem State.emit_rd (o : Out) (G : Fld) (k : Nat) : (s.emit o).rd G k = s.rd G k := rfl

@[simp] theorem State.updStrm_now (n : Nat) (f : Strm → Strm) : (s.updStrm n f).now = s.now := rfl
@[simp] theorem State.updStrm_freeCtr (n : Nat) (f : Strm → Strm) : (s.updStrm n f).freeCtr = s.freeCtr := rfl
@[simp] theorem State.updStrm_regs (n : Nat) (f : Strm → Strm) : (s.updStrm n f).regs = s.regs := rfl
@[simp] theorem State.updStrm_shadows (n : Nat) (f : Strm → Strm) : (s.updStrm n f).shadows = s.shadows := rfl
@[simp] theorem State.updStrm_rdata (n : Nat) (f : Strm → Strm) : (s.updStrm n f).rdata = s.rdata := rfl
@[simp] theorem State.updStrm_out (n : Nat) (f : Strm → Strm) : (s.updStrm n f).out = s.out := rfl
@[simp] theorem State.updStrm_bus (n : Nat) (f : Strm → Strm) : (s.updStrm n f).bus = s.bus := rfl
@[simp] theorem State.updStrm_irq (n : Nat) (f : Strm → Strm) : (s.updStrm n f).irq = s.irq := rfl
@[simp] theorem State.updStrm_cap (n : Nat) (f : Strm → Strm) : (s.updStrm n f).cap = s.cap := rfl
@[simp] theorem State.updStrm_ldg (n : Nat) (f : Strm → Strm) : (s.updStrm n f).ldg = s.ldg := rfl
@[simp] theorem State.updStrm_area (n : Nat) (f : Strm → Strm) : (s.updStrm n f).area = s.area := rfl
@[simp] theorem State.updStrm_tds (n : Nat) (f : Strm → Strm) : (s.updStrm n f).tds = s.tds := rfl
@[simp] theorem State.updStrm_saf (n : Nat) (f : Strm → Strm) : (s.updStrm n f).saf = s.saf := rfl
@[simp] theorem State.updStrm_asy (n : Nat) (f : Strm → Strm) : (s.updStrm n f).asy = s.asy := rfl
@[simp] theorem State.updStrm_mem (n : Nat) (f : Strm → Strm) : (s.updStrm n f).mem = s.mem := rfl
@[simp] theorem State.updStrm_tly (n : Nat) (f : Strm → Strm) : (s.updStrm n f).tly = s.tly := rfl
@[simp] theorem State.updStrm_heaps (n : Nat) (f : Strm → Strm) : (s.updStrm n f).heaps = s.heaps := rfl
@[simp] theorem State.updStrm_mmu (n : Nat) (f : Strm → Strm) : (s.updStrm n f).mmu = s.mmu := rfl
@[simp] theorem State.updStrm_pats (n : Nat) (f : Strm → Strm) : (s.updStrm n f).pats = s.pats := rfl
@[simp] theorem State.updStrm_sh (n : Nat) (f : Strm → Strm) : (s.updStrm n f).sh = s.sh := rfl
@[simp] theorem State.updStrm_looms (n : Nat) (f : Strm → Strm) : (s.updStrm n f).looms = s.looms := rfl
@[simp] theorem State.updStrm_routes (n : Nat) (f : Strm → Strm) : (s.updStrm n f).routes = s.routes := rfl
@[simp] theorem State.updStrm_crd (n : Nat) (f : Strm → Strm) : (s.updStrm n f).crd = s.crd := rfl
@[simp] theorem State.updStrm_gfx (n : Nat) (f : Strm → Strm) : (s.updStrm n f).gfx = s.gfx := rfl
@[simp] theorem State.updStrm_glz (n : Nat) (f : Strm → Strm) : (s.updStrm n f).glz = s.glz := rfl
@[simp] theorem State.updStrm_prs (n : Nat) (f : Strm → Strm) : (s.updStrm n f).prs = s.prs := rfl
@[simp] theorem State.updStrm_rt (n : Nat) (f : Strm → Strm) : (s.updStrm n f).rt = s.rt := rfl
@[simp] theorem State.updStrm_tick (n : Nat) (f : Strm → Strm) : (s.updStrm n f).tick = s.tick := rfl
@[simp] theorem State.updStrm_mesh (n : Nat) (f : Strm → Strm) : (s.updStrm n f).mesh = s.mesh := rfl
@[simp] theorem State.updStrm_odm (n : Nat) (f : Strm → Strm) : (s.updStrm n f).odm = s.odm := rfl
@[simp] theorem State.updStrm_boot (n : Nat) (f : Strm → Strm) : (s.updStrm n f).boot = s.boot := rfl
@[simp] theorem State.updStrm_pwr (n : Nat) (f : Strm → Strm) : (s.updStrm n f).pwr = s.pwr := rfl
@[simp] theorem State.updStrm_jtag (n : Nat) (f : Strm → Strm) : (s.updStrm n f).jtag = s.jtag := rfl
@[simp] theorem State.updStrm_rsts (n : Nat) (f : Strm → Strm) : (s.updStrm n f).rsts = s.rsts := rfl
@[simp] theorem State.updStrm_emcyQ (n : Nat) (f : Strm → Strm) : (s.updStrm n f).emcyQ = s.emcyQ := rfl
@[simp] theorem State.updStrm_errField (n : Nat) (f : Strm → Strm) : (s.updStrm n f).errField = s.errField := rfl
@[simp] theorem State.updStrm_errReg (n : Nat) (f : Strm → Strm) : (s.updStrm n f).errReg = s.errReg := rfl
@[simp] theorem State.updStrm_pending (n : Nat) (f : Strm → Strm) : (s.updStrm n f).pending = s.pending := rfl
@[simp] theorem State.updStrm_rd (n : Nat) (f : Strm → Strm) (G : Fld) (k : Nat) : (s.updStrm n f).rd G k = s.rd G k := rfl

@[simp] theorem State.updGrp_now (n : Nat) (f : Grp → Grp) : (s.updGrp n f).now = s.now := rfl
@[simp] theorem State.updGrp_freeCtr (n : Nat) (f : Grp → Grp) : (s.updGrp n f).freeCtr = s.freeCtr := rfl
@[simp] theorem State.updGrp_regs (n : Nat) (f : Grp → Grp) : (s.updGrp n f).regs = s.regs := rfl
@[simp] theorem State.updGrp_shadows (n : Nat) (f : Grp → Grp) : (s.updGrp n f).shadows = s.shadows := rfl
@[simp] theorem State.updGrp_rdata (n : Nat) (f : Grp → Grp) : (s.updGrp n f).rdata = s.rdata := rfl
@[simp] theorem State.updGrp_out (n : Nat) (f : Grp → Grp) : (s.updGrp n f).out = s.out := rfl
@[simp] theorem State.updGrp_bus (n : Nat) (f : Grp → Grp) : (s.updGrp n f).bus = s.bus := rfl
@[simp] theorem State.updGrp_irq (n : Nat) (f : Grp → Grp) : (s.updGrp n f).irq = s.irq := rfl
@[simp] theorem State.updGrp_cap (n : Nat) (f : Grp → Grp) : (s.updGrp n f).cap = s.cap := rfl
@[simp] theorem State.updGrp_ldg (n : Nat) (f : Grp → Grp) : (s.updGrp n f).ldg = s.ldg := rfl
@[simp] theorem State.updGrp_area (n : Nat) (f : Grp → Grp) : (s.updGrp n f).area = s.area := rfl
@[simp] theorem State.updGrp_tds (n : Nat) (f : Grp → Grp) : (s.updGrp n f).tds = s.tds := rfl
@[simp] theorem State.updGrp_saf (n : Nat) (f : Grp → Grp) : (s.updGrp n f).saf = s.saf := rfl
@[simp] theorem State.updGrp_asy (n : Nat) (f : Grp → Grp) : (s.updGrp n f).asy = s.asy := rfl
@[simp] theorem State.updGrp_mem (n : Nat) (f : Grp → Grp) : (s.updGrp n f).mem = s.mem := rfl
@[simp] theorem State.updGrp_fe (n : Nat) (f : Grp → Grp) : (s.updGrp n f).fe = s.fe := rfl
@[simp] theorem State.updGrp_tly (n : Nat) (f : Grp → Grp) : (s.updGrp n f).tly = s.tly := rfl
@[simp] theorem State.updGrp_heaps (n : Nat) (f : Grp → Grp) : (s.updGrp n f).heaps = s.heaps := rfl
@[simp] theorem State.updGrp_mmu (n : Nat) (f : Grp → Grp) : (s.updGrp n f).mmu = s.mmu := rfl
@[simp] theorem State.updGrp_pats (n : Nat) (f : Grp → Grp) : (s.updGrp n f).pats = s.pats := rfl
@[simp] theorem State.updGrp_looms (n : Nat) (f : Grp → Grp) : (s.updGrp n f).looms = s.looms := rfl
@[simp] theorem State.updGrp_routes (n : Nat) (f : Grp → Grp) : (s.updGrp n f).routes = s.routes := rfl
@[simp] theorem State.updGrp_crd (n : Nat) (f : Grp → Grp) : (s.updGrp n f).crd = s.crd := rfl
@[simp] theorem State.updGrp_gfx (n : Nat) (f : Grp → Grp) : (s.updGrp n f).gfx = s.gfx := rfl
@[simp] theorem State.updGrp_glz (n : Nat) (f : Grp → Grp) : (s.updGrp n f).glz = s.glz := rfl
@[simp] theorem State.updGrp_prs (n : Nat) (f : Grp → Grp) : (s.updGrp n f).prs = s.prs := rfl
@[simp] theorem State.updGrp_rt (n : Nat) (f : Grp → Grp) : (s.updGrp n f).rt = s.rt := rfl
@[simp] theorem State.updGrp_tick (n : Nat) (f : Grp → Grp) : (s.updGrp n f).tick = s.tick := rfl
@[simp] theorem State.updGrp_mesh (n : Nat) (f : Grp → Grp) : (s.updGrp n f).mesh = s.mesh := rfl
@[simp] theorem State.updGrp_odm (n : Nat) (f : Grp → Grp) : (s.updGrp n f).odm = s.odm := rfl
@[simp] theorem State.updGrp_boot (n : Nat) (f : Grp → Grp) : (s.updGrp n f).boot = s.boot := rfl
@[simp] theorem State.updGrp_pwr (n : Nat) (f : Grp → Grp) : (s.updGrp n f).pwr = s.pwr := rfl
@[simp] theorem State.updGrp_jtag (n : Nat) (f : Grp → Grp) : (s.updGrp n f).jtag = s.jtag := rfl
@[simp] theorem State.updGrp_rsts (n : Nat) (f : Grp → Grp) : (s.updGrp n f).rsts = s.rsts := rfl
@[simp] theorem State.updGrp_emcyQ (n : Nat) (f : Grp → Grp) : (s.updGrp n f).emcyQ = s.emcyQ := rfl
@[simp] theorem State.updGrp_errField (n : Nat) (f : Grp → Grp) : (s.updGrp n f).errField = s.errField := rfl
@[simp] theorem State.updGrp_errReg (n : Nat) (f : Grp → Grp) : (s.updGrp n f).errReg = s.errReg := rfl
@[simp] theorem State.updGrp_pending (n : Nat) (f : Grp → Grp) : (s.updGrp n f).pending = s.pending := rfl
@[simp] theorem State.updGrp_rd (n : Nat) (f : Grp → Grp) (G : Fld) (k : Nat) : (s.updGrp n f).rd G k = s.rd G k := rfl

@[simp] theorem State.updWg_now (n : Nat) (f : Wg → Wg) : (s.updWg n f).now = s.now := rfl
@[simp] theorem State.updWg_freeCtr (n : Nat) (f : Wg → Wg) : (s.updWg n f).freeCtr = s.freeCtr := rfl
@[simp] theorem State.updWg_regs (n : Nat) (f : Wg → Wg) : (s.updWg n f).regs = s.regs := rfl
@[simp] theorem State.updWg_shadows (n : Nat) (f : Wg → Wg) : (s.updWg n f).shadows = s.shadows := rfl
@[simp] theorem State.updWg_rdata (n : Nat) (f : Wg → Wg) : (s.updWg n f).rdata = s.rdata := rfl
@[simp] theorem State.updWg_out (n : Nat) (f : Wg → Wg) : (s.updWg n f).out = s.out := rfl
@[simp] theorem State.updWg_bus (n : Nat) (f : Wg → Wg) : (s.updWg n f).bus = s.bus := rfl
@[simp] theorem State.updWg_irq (n : Nat) (f : Wg → Wg) : (s.updWg n f).irq = s.irq := rfl
@[simp] theorem State.updWg_cap (n : Nat) (f : Wg → Wg) : (s.updWg n f).cap = s.cap := rfl
@[simp] theorem State.updWg_ldg (n : Nat) (f : Wg → Wg) : (s.updWg n f).ldg = s.ldg := rfl
@[simp] theorem State.updWg_area (n : Nat) (f : Wg → Wg) : (s.updWg n f).area = s.area := rfl
@[simp] theorem State.updWg_tds (n : Nat) (f : Wg → Wg) : (s.updWg n f).tds = s.tds := rfl
@[simp] theorem State.updWg_saf (n : Nat) (f : Wg → Wg) : (s.updWg n f).saf = s.saf := rfl
@[simp] theorem State.updWg_asy (n : Nat) (f : Wg → Wg) : (s.updWg n f).asy = s.asy := rfl
@[simp] theorem State.updWg_mem (n : Nat) (f : Wg → Wg) : (s.updWg n f).mem = s.mem := rfl
@[simp] theorem State.updWg_fe (n : Nat) (f : Wg → Wg) : (s.updWg n f).fe = s.fe := rfl
@[simp] theorem State.updWg_tly (n : Nat) (f : Wg → Wg) : (s.updWg n f).tly = s.tly := rfl
@[simp] theorem State.updWg_heaps (n : Nat) (f : Wg → Wg) : (s.updWg n f).heaps = s.heaps := rfl
@[simp] theorem State.updWg_mmu (n : Nat) (f : Wg → Wg) : (s.updWg n f).mmu = s.mmu := rfl
@[simp] theorem State.updWg_pats (n : Nat) (f : Wg → Wg) : (s.updWg n f).pats = s.pats := rfl
@[simp] theorem State.updWg_looms (n : Nat) (f : Wg → Wg) : (s.updWg n f).looms = s.looms := rfl
@[simp] theorem State.updWg_routes (n : Nat) (f : Wg → Wg) : (s.updWg n f).routes = s.routes := rfl
@[simp] theorem State.updWg_crd (n : Nat) (f : Wg → Wg) : (s.updWg n f).crd = s.crd := rfl
@[simp] theorem State.updWg_gfx (n : Nat) (f : Wg → Wg) : (s.updWg n f).gfx = s.gfx := rfl
@[simp] theorem State.updWg_glz (n : Nat) (f : Wg → Wg) : (s.updWg n f).glz = s.glz := rfl
@[simp] theorem State.updWg_prs (n : Nat) (f : Wg → Wg) : (s.updWg n f).prs = s.prs := rfl
@[simp] theorem State.updWg_rt (n : Nat) (f : Wg → Wg) : (s.updWg n f).rt = s.rt := rfl
@[simp] theorem State.updWg_tick (n : Nat) (f : Wg → Wg) : (s.updWg n f).tick = s.tick := rfl
@[simp] theorem State.updWg_mesh (n : Nat) (f : Wg → Wg) : (s.updWg n f).mesh = s.mesh := rfl
@[simp] theorem State.updWg_odm (n : Nat) (f : Wg → Wg) : (s.updWg n f).odm = s.odm := rfl
@[simp] theorem State.updWg_boot (n : Nat) (f : Wg → Wg) : (s.updWg n f).boot = s.boot := rfl
@[simp] theorem State.updWg_pwr (n : Nat) (f : Wg → Wg) : (s.updWg n f).pwr = s.pwr := rfl
@[simp] theorem State.updWg_jtag (n : Nat) (f : Wg → Wg) : (s.updWg n f).jtag = s.jtag := rfl
@[simp] theorem State.updWg_rsts (n : Nat) (f : Wg → Wg) : (s.updWg n f).rsts = s.rsts := rfl
@[simp] theorem State.updWg_emcyQ (n : Nat) (f : Wg → Wg) : (s.updWg n f).emcyQ = s.emcyQ := rfl
@[simp] theorem State.updWg_errField (n : Nat) (f : Wg → Wg) : (s.updWg n f).errField = s.errField := rfl
@[simp] theorem State.updWg_errReg (n : Nat) (f : Wg → Wg) : (s.updWg n f).errReg = s.errReg := rfl
@[simp] theorem State.updWg_pending (n : Nat) (f : Wg → Wg) : (s.updWg n f).pending = s.pending := rfl
@[simp] theorem State.updWg_rd (n : Nat) (f : Wg → Wg) (G : Fld) (k : Nat) : (s.updWg n f).rd G k = s.rd G k := rfl

@[simp] theorem State.updDisp_now (n : Nat) (f : Disp → Disp) : (s.updDisp n f).now = s.now := rfl
@[simp] theorem State.updDisp_freeCtr (n : Nat) (f : Disp → Disp) : (s.updDisp n f).freeCtr = s.freeCtr := rfl
@[simp] theorem State.updDisp_regs (n : Nat) (f : Disp → Disp) : (s.updDisp n f).regs = s.regs := rfl
@[simp] theorem State.updDisp_shadows (n : Nat) (f : Disp → Disp) : (s.updDisp n f).shadows = s.shadows := rfl
@[simp] theorem State.updDisp_rdata (n : Nat) (f : Disp → Disp) : (s.updDisp n f).rdata = s.rdata := rfl
@[simp] theorem State.updDisp_out (n : Nat) (f : Disp → Disp) : (s.updDisp n f).out = s.out := rfl
@[simp] theorem State.updDisp_bus (n : Nat) (f : Disp → Disp) : (s.updDisp n f).bus = s.bus := rfl
@[simp] theorem State.updDisp_irq (n : Nat) (f : Disp → Disp) : (s.updDisp n f).irq = s.irq := rfl
@[simp] theorem State.updDisp_cap (n : Nat) (f : Disp → Disp) : (s.updDisp n f).cap = s.cap := rfl
@[simp] theorem State.updDisp_ldg (n : Nat) (f : Disp → Disp) : (s.updDisp n f).ldg = s.ldg := rfl
@[simp] theorem State.updDisp_area (n : Nat) (f : Disp → Disp) : (s.updDisp n f).area = s.area := rfl
@[simp] theorem State.updDisp_tds (n : Nat) (f : Disp → Disp) : (s.updDisp n f).tds = s.tds := rfl
@[simp] theorem State.updDisp_saf (n : Nat) (f : Disp → Disp) : (s.updDisp n f).saf = s.saf := rfl
@[simp] theorem State.updDisp_asy (n : Nat) (f : Disp → Disp) : (s.updDisp n f).asy = s.asy := rfl
@[simp] theorem State.updDisp_mem (n : Nat) (f : Disp → Disp) : (s.updDisp n f).mem = s.mem := rfl
@[simp] theorem State.updDisp_fe (n : Nat) (f : Disp → Disp) : (s.updDisp n f).fe = s.fe := rfl
@[simp] theorem State.updDisp_tly (n : Nat) (f : Disp → Disp) : (s.updDisp n f).tly = s.tly := rfl
@[simp] theorem State.updDisp_heaps (n : Nat) (f : Disp → Disp) : (s.updDisp n f).heaps = s.heaps := rfl
@[simp] theorem State.updDisp_mmu (n : Nat) (f : Disp → Disp) : (s.updDisp n f).mmu = s.mmu := rfl
@[simp] theorem State.updDisp_pats (n : Nat) (f : Disp → Disp) : (s.updDisp n f).pats = s.pats := rfl
@[simp] theorem State.updDisp_looms (n : Nat) (f : Disp → Disp) : (s.updDisp n f).looms = s.looms := rfl
@[simp] theorem State.updDisp_routes (n : Nat) (f : Disp → Disp) : (s.updDisp n f).routes = s.routes := rfl
@[simp] theorem State.updDisp_crd (n : Nat) (f : Disp → Disp) : (s.updDisp n f).crd = s.crd := rfl
@[simp] theorem State.updDisp_gfx (n : Nat) (f : Disp → Disp) : (s.updDisp n f).gfx = s.gfx := rfl
@[simp] theorem State.updDisp_glz (n : Nat) (f : Disp → Disp) : (s.updDisp n f).glz = s.glz := rfl
@[simp] theorem State.updDisp_prs (n : Nat) (f : Disp → Disp) : (s.updDisp n f).prs = s.prs := rfl
@[simp] theorem State.updDisp_rt (n : Nat) (f : Disp → Disp) : (s.updDisp n f).rt = s.rt := rfl
@[simp] theorem State.updDisp_tick (n : Nat) (f : Disp → Disp) : (s.updDisp n f).tick = s.tick := rfl
@[simp] theorem State.updDisp_mesh (n : Nat) (f : Disp → Disp) : (s.updDisp n f).mesh = s.mesh := rfl
@[simp] theorem State.updDisp_odm (n : Nat) (f : Disp → Disp) : (s.updDisp n f).odm = s.odm := rfl
@[simp] theorem State.updDisp_boot (n : Nat) (f : Disp → Disp) : (s.updDisp n f).boot = s.boot := rfl
@[simp] theorem State.updDisp_pwr (n : Nat) (f : Disp → Disp) : (s.updDisp n f).pwr = s.pwr := rfl
@[simp] theorem State.updDisp_jtag (n : Nat) (f : Disp → Disp) : (s.updDisp n f).jtag = s.jtag := rfl
@[simp] theorem State.updDisp_rsts (n : Nat) (f : Disp → Disp) : (s.updDisp n f).rsts = s.rsts := rfl
@[simp] theorem State.updDisp_emcyQ (n : Nat) (f : Disp → Disp) : (s.updDisp n f).emcyQ = s.emcyQ := rfl
@[simp] theorem State.updDisp_errField (n : Nat) (f : Disp → Disp) : (s.updDisp n f).errField = s.errField := rfl
@[simp] theorem State.updDisp_errReg (n : Nat) (f : Disp → Disp) : (s.updDisp n f).errReg = s.errReg := rfl
@[simp] theorem State.updDisp_pending (n : Nat) (f : Disp → Disp) : (s.updDisp n f).pending = s.pending := rfl
@[simp] theorem State.updDisp_rd (n : Nat) (f : Disp → Disp) (G : Fld) (k : Nat) : (s.updDisp n f).rd G k = s.rd G k := rfl

@[simp] theorem State.updOdm_now (f : Odm → Odm) : (s.updOdm f).now = s.now := rfl
@[simp] theorem State.updOdm_freeCtr (f : Odm → Odm) : (s.updOdm f).freeCtr = s.freeCtr := rfl
@[simp] theorem State.updOdm_regs (f : Odm → Odm) : (s.updOdm f).regs = s.regs := rfl
@[simp] theorem State.updOdm_shadows (f : Odm → Odm) : (s.updOdm f).shadows = s.shadows := rfl
@[simp] theorem State.updOdm_rdata (f : Odm → Odm) : (s.updOdm f).rdata = s.rdata := rfl
@[simp] theorem State.updOdm_out (f : Odm → Odm) : (s.updOdm f).out = s.out := rfl
@[simp] theorem State.updOdm_bus (f : Odm → Odm) : (s.updOdm f).bus = s.bus := rfl
@[simp] theorem State.updOdm_irq (f : Odm → Odm) : (s.updOdm f).irq = s.irq := rfl
@[simp] theorem State.updOdm_cap (f : Odm → Odm) : (s.updOdm f).cap = s.cap := rfl
@[simp] theorem State.updOdm_ldg (f : Odm → Odm) : (s.updOdm f).ldg = s.ldg := rfl
@[simp] theorem State.updOdm_area (f : Odm → Odm) : (s.updOdm f).area = s.area := rfl
@[simp] theorem State.updOdm_tds (f : Odm → Odm) : (s.updOdm f).tds = s.tds := rfl
@[simp] theorem State.updOdm_saf (f : Odm → Odm) : (s.updOdm f).saf = s.saf := rfl
@[simp] theorem State.updOdm_asy (f : Odm → Odm) : (s.updOdm f).asy = s.asy := rfl
@[simp] theorem State.updOdm_mem (f : Odm → Odm) : (s.updOdm f).mem = s.mem := rfl
@[simp] theorem State.updOdm_fe (f : Odm → Odm) : (s.updOdm f).fe = s.fe := rfl
@[simp] theorem State.updOdm_tly (f : Odm → Odm) : (s.updOdm f).tly = s.tly := rfl
@[simp] theorem State.updOdm_heaps (f : Odm → Odm) : (s.updOdm f).heaps = s.heaps := rfl
@[simp] theorem State.updOdm_mmu (f : Odm → Odm) : (s.updOdm f).mmu = s.mmu := rfl
@[simp] theorem State.updOdm_pats (f : Odm → Odm) : (s.updOdm f).pats = s.pats := rfl
@[simp] theorem State.updOdm_sh (f : Odm → Odm) : (s.updOdm f).sh = s.sh := rfl
@[simp] theorem State.updOdm_looms (f : Odm → Odm) : (s.updOdm f).looms = s.looms := rfl
@[simp] theorem State.updOdm_routes (f : Odm → Odm) : (s.updOdm f).routes = s.routes := rfl
@[simp] theorem State.updOdm_crd (f : Odm → Odm) : (s.updOdm f).crd = s.crd := rfl
@[simp] theorem State.updOdm_gfx (f : Odm → Odm) : (s.updOdm f).gfx = s.gfx := rfl
@[simp] theorem State.updOdm_glz (f : Odm → Odm) : (s.updOdm f).glz = s.glz := rfl
@[simp] theorem State.updOdm_prs (f : Odm → Odm) : (s.updOdm f).prs = s.prs := rfl
@[simp] theorem State.updOdm_rt (f : Odm → Odm) : (s.updOdm f).rt = s.rt := rfl
@[simp] theorem State.updOdm_tick (f : Odm → Odm) : (s.updOdm f).tick = s.tick := rfl
@[simp] theorem State.updOdm_mesh (f : Odm → Odm) : (s.updOdm f).mesh = s.mesh := rfl
@[simp] theorem State.updOdm_boot (f : Odm → Odm) : (s.updOdm f).boot = s.boot := rfl
@[simp] theorem State.updOdm_pwr (f : Odm → Odm) : (s.updOdm f).pwr = s.pwr := rfl
@[simp] theorem State.updOdm_jtag (f : Odm → Odm) : (s.updOdm f).jtag = s.jtag := rfl
@[simp] theorem State.updOdm_rsts (f : Odm → Odm) : (s.updOdm f).rsts = s.rsts := rfl
@[simp] theorem State.updOdm_emcyQ (f : Odm → Odm) : (s.updOdm f).emcyQ = s.emcyQ := rfl
@[simp] theorem State.updOdm_errField (f : Odm → Odm) : (s.updOdm f).errField = s.errField := rfl
@[simp] theorem State.updOdm_errReg (f : Odm → Odm) : (s.updOdm f).errReg = s.errReg := rfl
@[simp] theorem State.updOdm_pending (f : Odm → Odm) : (s.updOdm f).pending = s.pending := rfl
@[simp] theorem State.updOdm_rd (f : Odm → Odm) (G : Fld) (k : Nat) : (s.updOdm f).rd G k = s.rd G k := rfl

@[simp] theorem State.updCrd_now (f : Crd → Crd) : (s.updCrd f).now = s.now := rfl
@[simp] theorem State.updCrd_freeCtr (f : Crd → Crd) : (s.updCrd f).freeCtr = s.freeCtr := rfl
@[simp] theorem State.updCrd_regs (f : Crd → Crd) : (s.updCrd f).regs = s.regs := rfl
@[simp] theorem State.updCrd_shadows (f : Crd → Crd) : (s.updCrd f).shadows = s.shadows := rfl
@[simp] theorem State.updCrd_rdata (f : Crd → Crd) : (s.updCrd f).rdata = s.rdata := rfl
@[simp] theorem State.updCrd_out (f : Crd → Crd) : (s.updCrd f).out = s.out := rfl
@[simp] theorem State.updCrd_bus (f : Crd → Crd) : (s.updCrd f).bus = s.bus := rfl
@[simp] theorem State.updCrd_irq (f : Crd → Crd) : (s.updCrd f).irq = s.irq := rfl
@[simp] theorem State.updCrd_cap (f : Crd → Crd) : (s.updCrd f).cap = s.cap := rfl
@[simp] theorem State.updCrd_ldg (f : Crd → Crd) : (s.updCrd f).ldg = s.ldg := rfl
@[simp] theorem State.updCrd_area (f : Crd → Crd) : (s.updCrd f).area = s.area := rfl
@[simp] theorem State.updCrd_tds (f : Crd → Crd) : (s.updCrd f).tds = s.tds := rfl
@[simp] theorem State.updCrd_saf (f : Crd → Crd) : (s.updCrd f).saf = s.saf := rfl
@[simp] theorem State.updCrd_asy (f : Crd → Crd) : (s.updCrd f).asy = s.asy := rfl
@[simp] theorem State.updCrd_mem (f : Crd → Crd) : (s.updCrd f).mem = s.mem := rfl
@[simp] theorem State.updCrd_fe (f : Crd → Crd) : (s.updCrd f).fe = s.fe := rfl
@[simp] theorem State.updCrd_tly (f : Crd → Crd) : (s.updCrd f).tly = s.tly := rfl
@[simp] theorem State.updCrd_heaps (f : Crd → Crd) : (s.updCrd f).heaps = s.heaps := rfl
@[simp] theorem State.updCrd_mmu (f : Crd → Crd) : (s.updCrd f).mmu = s.mmu := rfl
@[simp] theorem State.updCrd_pats (f : Crd → Crd) : (s.updCrd f).pats = s.pats := rfl
@[simp] theorem State.updCrd_sh (f : Crd → Crd) : (s.updCrd f).sh = s.sh := rfl
@[simp] theorem State.updCrd_looms (f : Crd → Crd) : (s.updCrd f).looms = s.looms := rfl
@[simp] theorem State.updCrd_routes (f : Crd → Crd) : (s.updCrd f).routes = s.routes := rfl
@[simp] theorem State.updCrd_gfx (f : Crd → Crd) : (s.updCrd f).gfx = s.gfx := rfl
@[simp] theorem State.updCrd_glz (f : Crd → Crd) : (s.updCrd f).glz = s.glz := rfl
@[simp] theorem State.updCrd_prs (f : Crd → Crd) : (s.updCrd f).prs = s.prs := rfl
@[simp] theorem State.updCrd_rt (f : Crd → Crd) : (s.updCrd f).rt = s.rt := rfl
@[simp] theorem State.updCrd_tick (f : Crd → Crd) : (s.updCrd f).tick = s.tick := rfl
@[simp] theorem State.updCrd_mesh (f : Crd → Crd) : (s.updCrd f).mesh = s.mesh := rfl
@[simp] theorem State.updCrd_odm (f : Crd → Crd) : (s.updCrd f).odm = s.odm := rfl
@[simp] theorem State.updCrd_boot (f : Crd → Crd) : (s.updCrd f).boot = s.boot := rfl
@[simp] theorem State.updCrd_pwr (f : Crd → Crd) : (s.updCrd f).pwr = s.pwr := rfl
@[simp] theorem State.updCrd_jtag (f : Crd → Crd) : (s.updCrd f).jtag = s.jtag := rfl
@[simp] theorem State.updCrd_rsts (f : Crd → Crd) : (s.updCrd f).rsts = s.rsts := rfl
@[simp] theorem State.updCrd_emcyQ (f : Crd → Crd) : (s.updCrd f).emcyQ = s.emcyQ := rfl
@[simp] theorem State.updCrd_errField (f : Crd → Crd) : (s.updCrd f).errField = s.errField := rfl
@[simp] theorem State.updCrd_errReg (f : Crd → Crd) : (s.updCrd f).errReg = s.errReg := rfl
@[simp] theorem State.updCrd_pending (f : Crd → Crd) : (s.updCrd f).pending = s.pending := rfl
@[simp] theorem State.updCrd_rd (f : Crd → Crd) (G : Fld) (k : Nat) : (s.updCrd f).rd G k = s.rd G k := rfl

@[simp] theorem State.updPipe_now (n : Nat) (f : GPipe → GPipe) : (s.updPipe n f).now = s.now := rfl
@[simp] theorem State.updPipe_freeCtr (n : Nat) (f : GPipe → GPipe) : (s.updPipe n f).freeCtr = s.freeCtr := rfl
@[simp] theorem State.updPipe_regs (n : Nat) (f : GPipe → GPipe) : (s.updPipe n f).regs = s.regs := rfl
@[simp] theorem State.updPipe_shadows (n : Nat) (f : GPipe → GPipe) : (s.updPipe n f).shadows = s.shadows := rfl
@[simp] theorem State.updPipe_rdata (n : Nat) (f : GPipe → GPipe) : (s.updPipe n f).rdata = s.rdata := rfl
@[simp] theorem State.updPipe_out (n : Nat) (f : GPipe → GPipe) : (s.updPipe n f).out = s.out := rfl
@[simp] theorem State.updPipe_bus (n : Nat) (f : GPipe → GPipe) : (s.updPipe n f).bus = s.bus := rfl
@[simp] theorem State.updPipe_irq (n : Nat) (f : GPipe → GPipe) : (s.updPipe n f).irq = s.irq := rfl
@[simp] theorem State.updPipe_cap (n : Nat) (f : GPipe → GPipe) : (s.updPipe n f).cap = s.cap := rfl
@[simp] theorem State.updPipe_ldg (n : Nat) (f : GPipe → GPipe) : (s.updPipe n f).ldg = s.ldg := rfl
@[simp] theorem State.updPipe_area (n : Nat) (f : GPipe → GPipe) : (s.updPipe n f).area = s.area := rfl
@[simp] theorem State.updPipe_tds (n : Nat) (f : GPipe → GPipe) : (s.updPipe n f).tds = s.tds := rfl
@[simp] theorem State.updPipe_saf (n : Nat) (f : GPipe → GPipe) : (s.updPipe n f).saf = s.saf := rfl
@[simp] theorem State.updPipe_asy (n : Nat) (f : GPipe → GPipe) : (s.updPipe n f).asy = s.asy := rfl
@[simp] theorem State.updPipe_mem (n : Nat) (f : GPipe → GPipe) : (s.updPipe n f).mem = s.mem := rfl
@[simp] theorem State.updPipe_fe (n : Nat) (f : GPipe → GPipe) : (s.updPipe n f).fe = s.fe := rfl
@[simp] theorem State.updPipe_tly (n : Nat) (f : GPipe → GPipe) : (s.updPipe n f).tly = s.tly := rfl
@[simp] theorem State.updPipe_heaps (n : Nat) (f : GPipe → GPipe) : (s.updPipe n f).heaps = s.heaps := rfl
@[simp] theorem State.updPipe_mmu (n : Nat) (f : GPipe → GPipe) : (s.updPipe n f).mmu = s.mmu := rfl
@[simp] theorem State.updPipe_pats (n : Nat) (f : GPipe → GPipe) : (s.updPipe n f).pats = s.pats := rfl
@[simp] theorem State.updPipe_sh (n : Nat) (f : GPipe → GPipe) : (s.updPipe n f).sh = s.sh := rfl
@[simp] theorem State.updPipe_looms (n : Nat) (f : GPipe → GPipe) : (s.updPipe n f).looms = s.looms := rfl
@[simp] theorem State.updPipe_routes (n : Nat) (f : GPipe → GPipe) : (s.updPipe n f).routes = s.routes := rfl
@[simp] theorem State.updPipe_crd (n : Nat) (f : GPipe → GPipe) : (s.updPipe n f).crd = s.crd := rfl
@[simp] theorem State.updPipe_gfx (n : Nat) (f : GPipe → GPipe) : (s.updPipe n f).gfx = s.gfx := rfl
@[simp] theorem State.updPipe_prs (n : Nat) (f : GPipe → GPipe) : (s.updPipe n f).prs = s.prs := rfl
@[simp] theorem State.updPipe_rt (n : Nat) (f : GPipe → GPipe) : (s.updPipe n f).rt = s.rt := rfl
@[simp] theorem State.updPipe_tick (n : Nat) (f : GPipe → GPipe) : (s.updPipe n f).tick = s.tick := rfl
@[simp] theorem State.updPipe_mesh (n : Nat) (f : GPipe → GPipe) : (s.updPipe n f).mesh = s.mesh := rfl
@[simp] theorem State.updPipe_odm (n : Nat) (f : GPipe → GPipe) : (s.updPipe n f).odm = s.odm := rfl
@[simp] theorem State.updPipe_boot (n : Nat) (f : GPipe → GPipe) : (s.updPipe n f).boot = s.boot := rfl
@[simp] theorem State.updPipe_pwr (n : Nat) (f : GPipe → GPipe) : (s.updPipe n f).pwr = s.pwr := rfl
@[simp] theorem State.updPipe_jtag (n : Nat) (f : GPipe → GPipe) : (s.updPipe n f).jtag = s.jtag := rfl
@[simp] theorem State.updPipe_rsts (n : Nat) (f : GPipe → GPipe) : (s.updPipe n f).rsts = s.rsts := rfl
@[simp] theorem State.updPipe_emcyQ (n : Nat) (f : GPipe → GPipe) : (s.updPipe n f).emcyQ = s.emcyQ := rfl
@[simp] theorem State.updPipe_errField (n : Nat) (f : GPipe → GPipe) : (s.updPipe n f).errField = s.errField := rfl
@[simp] theorem State.updPipe_errReg (n : Nat) (f : GPipe → GPipe) : (s.updPipe n f).errReg = s.errReg := rfl
@[simp] theorem State.updPipe_pending (n : Nat) (f : GPipe → GPipe) : (s.updPipe n f).pending = s.pending := rfl
@[simp] theorem State.updPipe_rd (n : Nat) (f : GPipe → GPipe) (G : Fld) (k : Nat) : (s.updPipe n f).rd G k = s.rd G k := rfl

@[simp] theorem State.updBoot_now (f : Boot → Boot) : (s.updBoot f).now = s.now := rfl
@[simp] theorem State.updBoot_freeCtr (f : Boot → Boot) : (s.updBoot f).freeCtr = s.freeCtr := rfl
@[simp] theorem State.updBoot_regs (f : Boot → Boot) : (s.updBoot f).regs = s.regs := rfl
@[simp] theorem State.updBoot_shadows (f : Boot → Boot) : (s.updBoot f).shadows = s.shadows := rfl
@[simp] theorem State.updBoot_rdata (f : Boot → Boot) : (s.updBoot f).rdata = s.rdata := rfl
@[simp] theorem State.updBoot_out (f : Boot → Boot) : (s.updBoot f).out = s.out := rfl
@[simp] theorem State.updBoot_bus (f : Boot → Boot) : (s.updBoot f).bus = s.bus := rfl
@[simp] theorem State.updBoot_irq (f : Boot → Boot) : (s.updBoot f).irq = s.irq := rfl
@[simp] theorem State.updBoot_cap (f : Boot → Boot) : (s.updBoot f).cap = s.cap := rfl
@[simp] theorem State.updBoot_ldg (f : Boot → Boot) : (s.updBoot f).ldg = s.ldg := rfl
@[simp] theorem State.updBoot_area (f : Boot → Boot) : (s.updBoot f).area = s.area := rfl
@[simp] theorem State.updBoot_tds (f : Boot → Boot) : (s.updBoot f).tds = s.tds := rfl
@[simp] theorem State.updBoot_saf (f : Boot → Boot) : (s.updBoot f).saf = s.saf := rfl
@[simp] theorem State.updBoot_asy (f : Boot → Boot) : (s.updBoot f).asy = s.asy := rfl
@[simp] theorem State.updBoot_mem (f : Boot → Boot) : (s.updBoot f).mem = s.mem := rfl
@[simp] theorem State.updBoot_fe (f : Boot → Boot) : (s.updBoot f).fe = s.fe := rfl
@[simp] theorem State.updBoot_tly (f : Boot → Boot) : (s.updBoot f).tly = s.tly := rfl
@[simp] theorem State.updBoot_heaps (f : Boot → Boot) : (s.updBoot f).heaps = s.heaps := rfl
@[simp] theorem State.updBoot_mmu (f : Boot → Boot) : (s.updBoot f).mmu = s.mmu := rfl
@[simp] theorem State.updBoot_pats (f : Boot → Boot) : (s.updBoot f).pats = s.pats := rfl
@[simp] theorem State.updBoot_sh (f : Boot → Boot) : (s.updBoot f).sh = s.sh := rfl
@[simp] theorem State.updBoot_looms (f : Boot → Boot) : (s.updBoot f).looms = s.looms := rfl
@[simp] theorem State.updBoot_routes (f : Boot → Boot) : (s.updBoot f).routes = s.routes := rfl
@[simp] theorem State.updBoot_crd (f : Boot → Boot) : (s.updBoot f).crd = s.crd := rfl
@[simp] theorem State.updBoot_gfx (f : Boot → Boot) : (s.updBoot f).gfx = s.gfx := rfl
@[simp] theorem State.updBoot_glz (f : Boot → Boot) : (s.updBoot f).glz = s.glz := rfl
@[simp] theorem State.updBoot_prs (f : Boot → Boot) : (s.updBoot f).prs = s.prs := rfl
@[simp] theorem State.updBoot_rt (f : Boot → Boot) : (s.updBoot f).rt = s.rt := rfl
@[simp] theorem State.updBoot_tick (f : Boot → Boot) : (s.updBoot f).tick = s.tick := rfl
@[simp] theorem State.updBoot_mesh (f : Boot → Boot) : (s.updBoot f).mesh = s.mesh := rfl
@[simp] theorem State.updBoot_odm (f : Boot → Boot) : (s.updBoot f).odm = s.odm := rfl
@[simp] theorem State.updBoot_pwr (f : Boot → Boot) : (s.updBoot f).pwr = s.pwr := rfl
@[simp] theorem State.updBoot_jtag (f : Boot → Boot) : (s.updBoot f).jtag = s.jtag := rfl
@[simp] theorem State.updBoot_rsts (f : Boot → Boot) : (s.updBoot f).rsts = s.rsts := rfl
@[simp] theorem State.updBoot_emcyQ (f : Boot → Boot) : (s.updBoot f).emcyQ = s.emcyQ := rfl
@[simp] theorem State.updBoot_errField (f : Boot → Boot) : (s.updBoot f).errField = s.errField := rfl
@[simp] theorem State.updBoot_errReg (f : Boot → Boot) : (s.updBoot f).errReg = s.errReg := rfl
@[simp] theorem State.updBoot_pending (f : Boot → Boot) : (s.updBoot f).pending = s.pending := rfl
@[simp] theorem State.updBoot_rd (f : Boot → Boot) (G : Fld) (k : Nat) : (s.updBoot f).rd G k = s.rd G k := rfl

@[simp] theorem State.updLdg_now (f : Ledger → Ledger) : (s.updLdg f).now = s.now := rfl
@[simp] theorem State.updLdg_freeCtr (f : Ledger → Ledger) : (s.updLdg f).freeCtr = s.freeCtr := rfl
@[simp] theorem State.updLdg_regs (f : Ledger → Ledger) : (s.updLdg f).regs = s.regs := rfl
@[simp] theorem State.updLdg_shadows (f : Ledger → Ledger) : (s.updLdg f).shadows = s.shadows := rfl
@[simp] theorem State.updLdg_rdata (f : Ledger → Ledger) : (s.updLdg f).rdata = s.rdata := rfl
@[simp] theorem State.updLdg_out (f : Ledger → Ledger) : (s.updLdg f).out = s.out := rfl
@[simp] theorem State.updLdg_bus (f : Ledger → Ledger) : (s.updLdg f).bus = s.bus := rfl
@[simp] theorem State.updLdg_irq (f : Ledger → Ledger) : (s.updLdg f).irq = s.irq := rfl
@[simp] theorem State.updLdg_cap (f : Ledger → Ledger) : (s.updLdg f).cap = s.cap := rfl
@[simp] theorem State.updLdg_area (f : Ledger → Ledger) : (s.updLdg f).area = s.area := rfl
@[simp] theorem State.updLdg_tds (f : Ledger → Ledger) : (s.updLdg f).tds = s.tds := rfl
@[simp] theorem State.updLdg_saf (f : Ledger → Ledger) : (s.updLdg f).saf = s.saf := rfl
@[simp] theorem State.updLdg_asy (f : Ledger → Ledger) : (s.updLdg f).asy = s.asy := rfl
@[simp] theorem State.updLdg_mem (f : Ledger → Ledger) : (s.updLdg f).mem = s.mem := rfl
@[simp] theorem State.updLdg_fe (f : Ledger → Ledger) : (s.updLdg f).fe = s.fe := rfl
@[simp] theorem State.updLdg_tly (f : Ledger → Ledger) : (s.updLdg f).tly = s.tly := rfl
@[simp] theorem State.updLdg_heaps (f : Ledger → Ledger) : (s.updLdg f).heaps = s.heaps := rfl
@[simp] theorem State.updLdg_mmu (f : Ledger → Ledger) : (s.updLdg f).mmu = s.mmu := rfl
@[simp] theorem State.updLdg_pats (f : Ledger → Ledger) : (s.updLdg f).pats = s.pats := rfl
@[simp] theorem State.updLdg_sh (f : Ledger → Ledger) : (s.updLdg f).sh = s.sh := rfl
@[simp] theorem State.updLdg_looms (f : Ledger → Ledger) : (s.updLdg f).looms = s.looms := rfl
@[simp] theorem State.updLdg_routes (f : Ledger → Ledger) : (s.updLdg f).routes = s.routes := rfl
@[simp] theorem State.updLdg_crd (f : Ledger → Ledger) : (s.updLdg f).crd = s.crd := rfl
@[simp] theorem State.updLdg_gfx (f : Ledger → Ledger) : (s.updLdg f).gfx = s.gfx := rfl
@[simp] theorem State.updLdg_glz (f : Ledger → Ledger) : (s.updLdg f).glz = s.glz := rfl
@[simp] theorem State.updLdg_prs (f : Ledger → Ledger) : (s.updLdg f).prs = s.prs := rfl
@[simp] theorem State.updLdg_rt (f : Ledger → Ledger) : (s.updLdg f).rt = s.rt := rfl
@[simp] theorem State.updLdg_tick (f : Ledger → Ledger) : (s.updLdg f).tick = s.tick := rfl
@[simp] theorem State.updLdg_mesh (f : Ledger → Ledger) : (s.updLdg f).mesh = s.mesh := rfl
@[simp] theorem State.updLdg_odm (f : Ledger → Ledger) : (s.updLdg f).odm = s.odm := rfl
@[simp] theorem State.updLdg_boot (f : Ledger → Ledger) : (s.updLdg f).boot = s.boot := rfl
@[simp] theorem State.updLdg_pwr (f : Ledger → Ledger) : (s.updLdg f).pwr = s.pwr := rfl
@[simp] theorem State.updLdg_jtag (f : Ledger → Ledger) : (s.updLdg f).jtag = s.jtag := rfl
@[simp] theorem State.updLdg_rsts (f : Ledger → Ledger) : (s.updLdg f).rsts = s.rsts := rfl
@[simp] theorem State.updLdg_emcyQ (f : Ledger → Ledger) : (s.updLdg f).emcyQ = s.emcyQ := rfl
@[simp] theorem State.updLdg_errField (f : Ledger → Ledger) : (s.updLdg f).errField = s.errField := rfl
@[simp] theorem State.updLdg_errReg (f : Ledger → Ledger) : (s.updLdg f).errReg = s.errReg := rfl
@[simp] theorem State.updLdg_pending (f : Ledger → Ledger) : (s.updLdg f).pending = s.pending := rfl
@[simp] theorem State.updLdg_rd (f : Ledger → Ledger) (G : Fld) (k : Nat) : (s.updLdg f).rd G k = s.rd G k := rfl

@[simp] theorem State.updLoom_now (n : Nat) (f : Lm → Lm) : (s.updLoom n f).now = s.now := rfl
@[simp] theorem State.updLoom_freeCtr (n : Nat) (f : Lm → Lm) : (s.updLoom n f).freeCtr = s.freeCtr := rfl
@[simp] theorem State.updLoom_regs (n : Nat) (f : Lm → Lm) : (s.updLoom n f).regs = s.regs := rfl
@[simp] theorem State.updLoom_shadows (n : Nat) (f : Lm → Lm) : (s.updLoom n f).shadows = s.shadows := rfl
@[simp] theorem State.updLoom_rdata (n : Nat) (f : Lm → Lm) : (s.updLoom n f).rdata = s.rdata := rfl
@[simp] theorem State.updLoom_out (n : Nat) (f : Lm → Lm) : (s.updLoom n f).out = s.out := rfl
@[simp] theorem State.updLoom_bus (n : Nat) (f : Lm → Lm) : (s.updLoom n f).bus = s.bus := rfl
@[simp] theorem State.updLoom_irq (n : Nat) (f : Lm → Lm) : (s.updLoom n f).irq = s.irq := rfl
@[simp] theorem State.updLoom_cap (n : Nat) (f : Lm → Lm) : (s.updLoom n f).cap = s.cap := rfl
@[simp] theorem State.updLoom_ldg (n : Nat) (f : Lm → Lm) : (s.updLoom n f).ldg = s.ldg := rfl
@[simp] theorem State.updLoom_area (n : Nat) (f : Lm → Lm) : (s.updLoom n f).area = s.area := rfl
@[simp] theorem State.updLoom_tds (n : Nat) (f : Lm → Lm) : (s.updLoom n f).tds = s.tds := rfl
@[simp] theorem State.updLoom_saf (n : Nat) (f : Lm → Lm) : (s.updLoom n f).saf = s.saf := rfl
@[simp] theorem State.updLoom_asy (n : Nat) (f : Lm → Lm) : (s.updLoom n f).asy = s.asy := rfl
@[simp] theorem State.updLoom_mem (n : Nat) (f : Lm → Lm) : (s.updLoom n f).mem = s.mem := rfl
@[simp] theorem State.updLoom_fe (n : Nat) (f : Lm → Lm) : (s.updLoom n f).fe = s.fe := rfl
@[simp] theorem State.updLoom_tly (n : Nat) (f : Lm → Lm) : (s.updLoom n f).tly = s.tly := rfl
@[simp] theorem State.updLoom_heaps (n : Nat) (f : Lm → Lm) : (s.updLoom n f).heaps = s.heaps := rfl
@[simp] theorem State.updLoom_mmu (n : Nat) (f : Lm → Lm) : (s.updLoom n f).mmu = s.mmu := rfl
@[simp] theorem State.updLoom_pats (n : Nat) (f : Lm → Lm) : (s.updLoom n f).pats = s.pats := rfl
@[simp] theorem State.updLoom_sh (n : Nat) (f : Lm → Lm) : (s.updLoom n f).sh = s.sh := rfl
@[simp] theorem State.updLoom_routes (n : Nat) (f : Lm → Lm) : (s.updLoom n f).routes = s.routes := rfl
@[simp] theorem State.updLoom_crd (n : Nat) (f : Lm → Lm) : (s.updLoom n f).crd = s.crd := rfl
@[simp] theorem State.updLoom_gfx (n : Nat) (f : Lm → Lm) : (s.updLoom n f).gfx = s.gfx := rfl
@[simp] theorem State.updLoom_glz (n : Nat) (f : Lm → Lm) : (s.updLoom n f).glz = s.glz := rfl
@[simp] theorem State.updLoom_prs (n : Nat) (f : Lm → Lm) : (s.updLoom n f).prs = s.prs := rfl
@[simp] theorem State.updLoom_rt (n : Nat) (f : Lm → Lm) : (s.updLoom n f).rt = s.rt := rfl
@[simp] theorem State.updLoom_tick (n : Nat) (f : Lm → Lm) : (s.updLoom n f).tick = s.tick := rfl
@[simp] theorem State.updLoom_mesh (n : Nat) (f : Lm → Lm) : (s.updLoom n f).mesh = s.mesh := rfl
@[simp] theorem State.updLoom_odm (n : Nat) (f : Lm → Lm) : (s.updLoom n f).odm = s.odm := rfl
@[simp] theorem State.updLoom_boot (n : Nat) (f : Lm → Lm) : (s.updLoom n f).boot = s.boot := rfl
@[simp] theorem State.updLoom_pwr (n : Nat) (f : Lm → Lm) : (s.updLoom n f).pwr = s.pwr := rfl
@[simp] theorem State.updLoom_jtag (n : Nat) (f : Lm → Lm) : (s.updLoom n f).jtag = s.jtag := rfl
@[simp] theorem State.updLoom_rsts (n : Nat) (f : Lm → Lm) : (s.updLoom n f).rsts = s.rsts := rfl
@[simp] theorem State.updLoom_emcyQ (n : Nat) (f : Lm → Lm) : (s.updLoom n f).emcyQ = s.emcyQ := rfl
@[simp] theorem State.updLoom_errField (n : Nat) (f : Lm → Lm) : (s.updLoom n f).errField = s.errField := rfl
@[simp] theorem State.updLoom_errReg (n : Nat) (f : Lm → Lm) : (s.updLoom n f).errReg = s.errReg := rfl
@[simp] theorem State.updLoom_pending (n : Nat) (f : Lm → Lm) : (s.updLoom n f).pending = s.pending := rfl
@[simp] theorem State.updLoom_rd (n : Nat) (f : Lm → Lm) (G : Fld) (k : Nat) : (s.updLoom n f).rd G k = s.rd G k := rfl

@[simp] theorem State.updLaunch_now (n : Nat) (f : Launch → Launch) : (s.updLaunch n f).now = s.now := rfl
@[simp] theorem State.updLaunch_freeCtr (n : Nat) (f : Launch → Launch) : (s.updLaunch n f).freeCtr = s.freeCtr := rfl
@[simp] theorem State.updLaunch_regs (n : Nat) (f : Launch → Launch) : (s.updLaunch n f).regs = s.regs := rfl
@[simp] theorem State.updLaunch_shadows (n : Nat) (f : Launch → Launch) : (s.updLaunch n f).shadows = s.shadows := rfl
@[simp] theorem State.updLaunch_rdata (n : Nat) (f : Launch → Launch) : (s.updLaunch n f).rdata = s.rdata := rfl
@[simp] theorem State.updLaunch_out (n : Nat) (f : Launch → Launch) : (s.updLaunch n f).out = s.out := rfl
@[simp] theorem State.updLaunch_bus (n : Nat) (f : Launch → Launch) : (s.updLaunch n f).bus = s.bus := rfl
@[simp] theorem State.updLaunch_irq (n : Nat) (f : Launch → Launch) : (s.updLaunch n f).irq = s.irq := rfl
@[simp] theorem State.updLaunch_cap (n : Nat) (f : Launch → Launch) : (s.updLaunch n f).cap = s.cap := rfl
@[simp] theorem State.updLaunch_ldg (n : Nat) (f : Launch → Launch) : (s.updLaunch n f).ldg = s.ldg := rfl
@[simp] theorem State.updLaunch_area (n : Nat) (f : Launch → Launch) : (s.updLaunch n f).area = s.area := rfl
@[simp] theorem State.updLaunch_tds (n : Nat) (f : Launch → Launch) : (s.updLaunch n f).tds = s.tds := rfl
@[simp] theorem State.updLaunch_saf (n : Nat) (f : Launch → Launch) : (s.updLaunch n f).saf = s.saf := rfl
@[simp] theorem State.updLaunch_asy (n : Nat) (f : Launch → Launch) : (s.updLaunch n f).asy = s.asy := rfl
@[simp] theorem State.updLaunch_mem (n : Nat) (f : Launch → Launch) : (s.updLaunch n f).mem = s.mem := rfl
@[simp] theorem State.updLaunch_fe (n : Nat) (f : Launch → Launch) : (s.updLaunch n f).fe = s.fe := rfl
@[simp] theorem State.updLaunch_tly (n : Nat) (f : Launch → Launch) : (s.updLaunch n f).tly = s.tly := rfl
@[simp] theorem State.updLaunch_heaps (n : Nat) (f : Launch → Launch) : (s.updLaunch n f).heaps = s.heaps := rfl
@[simp] theorem State.updLaunch_mmu (n : Nat) (f : Launch → Launch) : (s.updLaunch n f).mmu = s.mmu := rfl
@[simp] theorem State.updLaunch_sh (n : Nat) (f : Launch → Launch) : (s.updLaunch n f).sh = s.sh := rfl
@[simp] theorem State.updLaunch_looms (n : Nat) (f : Launch → Launch) : (s.updLaunch n f).looms = s.looms := rfl
@[simp] theorem State.updLaunch_routes (n : Nat) (f : Launch → Launch) : (s.updLaunch n f).routes = s.routes := rfl
@[simp] theorem State.updLaunch_crd (n : Nat) (f : Launch → Launch) : (s.updLaunch n f).crd = s.crd := rfl
@[simp] theorem State.updLaunch_gfx (n : Nat) (f : Launch → Launch) : (s.updLaunch n f).gfx = s.gfx := rfl
@[simp] theorem State.updLaunch_glz (n : Nat) (f : Launch → Launch) : (s.updLaunch n f).glz = s.glz := rfl
@[simp] theorem State.updLaunch_prs (n : Nat) (f : Launch → Launch) : (s.updLaunch n f).prs = s.prs := rfl
@[simp] theorem State.updLaunch_rt (n : Nat) (f : Launch → Launch) : (s.updLaunch n f).rt = s.rt := rfl
@[simp] theorem State.updLaunch_tick (n : Nat) (f : Launch → Launch) : (s.updLaunch n f).tick = s.tick := rfl
@[simp] theorem State.updLaunch_mesh (n : Nat) (f : Launch → Launch) : (s.updLaunch n f).mesh = s.mesh := rfl
@[simp] theorem State.updLaunch_odm (n : Nat) (f : Launch → Launch) : (s.updLaunch n f).odm = s.odm := rfl
@[simp] theorem State.updLaunch_boot (n : Nat) (f : Launch → Launch) : (s.updLaunch n f).boot = s.boot := rfl
@[simp] theorem State.updLaunch_pwr (n : Nat) (f : Launch → Launch) : (s.updLaunch n f).pwr = s.pwr := rfl
@[simp] theorem State.updLaunch_jtag (n : Nat) (f : Launch → Launch) : (s.updLaunch n f).jtag = s.jtag := rfl
@[simp] theorem State.updLaunch_rsts (n : Nat) (f : Launch → Launch) : (s.updLaunch n f).rsts = s.rsts := rfl
@[simp] theorem State.updLaunch_emcyQ (n : Nat) (f : Launch → Launch) : (s.updLaunch n f).emcyQ = s.emcyQ := rfl
@[simp] theorem State.updLaunch_errField (n : Nat) (f : Launch → Launch) : (s.updLaunch n f).errField = s.errField := rfl
@[simp] theorem State.updLaunch_errReg (n : Nat) (f : Launch → Launch) : (s.updLaunch n f).errReg = s.errReg := rfl
@[simp] theorem State.updLaunch_pending (n : Nat) (f : Launch → Launch) : (s.updLaunch n f).pending = s.pending := rfl
@[simp] theorem State.updLaunch_rd (n : Nat) (f : Launch → Launch) (G : Fld) (k : Nat) : (s.updLaunch n f).rd G k = s.rd G k := rfl

@[simp] theorem State.updPwr_now (f : Pwr → Pwr) : (s.updPwr f).now = s.now := rfl
@[simp] theorem State.updPwr_freeCtr (f : Pwr → Pwr) : (s.updPwr f).freeCtr = s.freeCtr := rfl
@[simp] theorem State.updPwr_regs (f : Pwr → Pwr) : (s.updPwr f).regs = s.regs := rfl
@[simp] theorem State.updPwr_shadows (f : Pwr → Pwr) : (s.updPwr f).shadows = s.shadows := rfl
@[simp] theorem State.updPwr_rdata (f : Pwr → Pwr) : (s.updPwr f).rdata = s.rdata := rfl
@[simp] theorem State.updPwr_out (f : Pwr → Pwr) : (s.updPwr f).out = s.out := rfl
@[simp] theorem State.updPwr_bus (f : Pwr → Pwr) : (s.updPwr f).bus = s.bus := rfl
@[simp] theorem State.updPwr_irq (f : Pwr → Pwr) : (s.updPwr f).irq = s.irq := rfl
@[simp] theorem State.updPwr_cap (f : Pwr → Pwr) : (s.updPwr f).cap = s.cap := rfl
@[simp] theorem State.updPwr_ldg (f : Pwr → Pwr) : (s.updPwr f).ldg = s.ldg := rfl
@[simp] theorem State.updPwr_area (f : Pwr → Pwr) : (s.updPwr f).area = s.area := rfl
@[simp] theorem State.updPwr_tds (f : Pwr → Pwr) : (s.updPwr f).tds = s.tds := rfl
@[simp] theorem State.updPwr_saf (f : Pwr → Pwr) : (s.updPwr f).saf = s.saf := rfl
@[simp] theorem State.updPwr_asy (f : Pwr → Pwr) : (s.updPwr f).asy = s.asy := rfl
@[simp] theorem State.updPwr_mem (f : Pwr → Pwr) : (s.updPwr f).mem = s.mem := rfl
@[simp] theorem State.updPwr_fe (f : Pwr → Pwr) : (s.updPwr f).fe = s.fe := rfl
@[simp] theorem State.updPwr_tly (f : Pwr → Pwr) : (s.updPwr f).tly = s.tly := rfl
@[simp] theorem State.updPwr_heaps (f : Pwr → Pwr) : (s.updPwr f).heaps = s.heaps := rfl
@[simp] theorem State.updPwr_mmu (f : Pwr → Pwr) : (s.updPwr f).mmu = s.mmu := rfl
@[simp] theorem State.updPwr_pats (f : Pwr → Pwr) : (s.updPwr f).pats = s.pats := rfl
@[simp] theorem State.updPwr_sh (f : Pwr → Pwr) : (s.updPwr f).sh = s.sh := rfl
@[simp] theorem State.updPwr_looms (f : Pwr → Pwr) : (s.updPwr f).looms = s.looms := rfl
@[simp] theorem State.updPwr_routes (f : Pwr → Pwr) : (s.updPwr f).routes = s.routes := rfl
@[simp] theorem State.updPwr_crd (f : Pwr → Pwr) : (s.updPwr f).crd = s.crd := rfl
@[simp] theorem State.updPwr_gfx (f : Pwr → Pwr) : (s.updPwr f).gfx = s.gfx := rfl
@[simp] theorem State.updPwr_glz (f : Pwr → Pwr) : (s.updPwr f).glz = s.glz := rfl
@[simp] theorem State.updPwr_prs (f : Pwr → Pwr) : (s.updPwr f).prs = s.prs := rfl
@[simp] theorem State.updPwr_rt (f : Pwr → Pwr) : (s.updPwr f).rt = s.rt := rfl
@[simp] theorem State.updPwr_tick (f : Pwr → Pwr) : (s.updPwr f).tick = s.tick := rfl
@[simp] theorem State.updPwr_mesh (f : Pwr → Pwr) : (s.updPwr f).mesh = s.mesh := rfl
@[simp] theorem State.updPwr_odm (f : Pwr → Pwr) : (s.updPwr f).odm = s.odm := rfl
@[simp] theorem State.updPwr_boot (f : Pwr → Pwr) : (s.updPwr f).boot = s.boot := rfl
@[simp] theorem State.updPwr_jtag (f : Pwr → Pwr) : (s.updPwr f).jtag = s.jtag := rfl
@[simp] theorem State.updPwr_rsts (f : Pwr → Pwr) : (s.updPwr f).rsts = s.rsts := rfl
@[simp] theorem State.updPwr_emcyQ (f : Pwr → Pwr) : (s.updPwr f).emcyQ = s.emcyQ := rfl
@[simp] theorem State.updPwr_errField (f : Pwr → Pwr) : (s.updPwr f).errField = s.errField := rfl
@[simp] theorem State.updPwr_errReg (f : Pwr → Pwr) : (s.updPwr f).errReg = s.errReg := rfl
@[simp] theorem State.updPwr_pending (f : Pwr → Pwr) : (s.updPwr f).pending = s.pending := rfl
@[simp] theorem State.updPwr_rd (f : Pwr → Pwr) (G : Fld) (k : Nat) : (s.updPwr f).rd G k = s.rd G k := rfl

@[simp] theorem State.updPass_now (n : Nat) (f : GPass → GPass) : (s.updPass n f).now = s.now := rfl
@[simp] theorem State.updPass_freeCtr (n : Nat) (f : GPass → GPass) : (s.updPass n f).freeCtr = s.freeCtr := rfl
@[simp] theorem State.updPass_regs (n : Nat) (f : GPass → GPass) : (s.updPass n f).regs = s.regs := rfl
@[simp] theorem State.updPass_shadows (n : Nat) (f : GPass → GPass) : (s.updPass n f).shadows = s.shadows := rfl
@[simp] theorem State.updPass_rdata (n : Nat) (f : GPass → GPass) : (s.updPass n f).rdata = s.rdata := rfl
@[simp] theorem State.updPass_out (n : Nat) (f : GPass → GPass) : (s.updPass n f).out = s.out := rfl
@[simp] theorem State.updPass_bus (n : Nat) (f : GPass → GPass) : (s.updPass n f).bus = s.bus := rfl
@[simp] theorem State.updPass_irq (n : Nat) (f : GPass → GPass) : (s.updPass n f).irq = s.irq := rfl
@[simp] theorem State.updPass_cap (n : Nat) (f : GPass → GPass) : (s.updPass n f).cap = s.cap := rfl
@[simp] theorem State.updPass_ldg (n : Nat) (f : GPass → GPass) : (s.updPass n f).ldg = s.ldg := rfl
@[simp] theorem State.updPass_area (n : Nat) (f : GPass → GPass) : (s.updPass n f).area = s.area := rfl
@[simp] theorem State.updPass_tds (n : Nat) (f : GPass → GPass) : (s.updPass n f).tds = s.tds := rfl
@[simp] theorem State.updPass_saf (n : Nat) (f : GPass → GPass) : (s.updPass n f).saf = s.saf := rfl
@[simp] theorem State.updPass_asy (n : Nat) (f : GPass → GPass) : (s.updPass n f).asy = s.asy := rfl
@[simp] theorem State.updPass_mem (n : Nat) (f : GPass → GPass) : (s.updPass n f).mem = s.mem := rfl
@[simp] theorem State.updPass_fe (n : Nat) (f : GPass → GPass) : (s.updPass n f).fe = s.fe := rfl
@[simp] theorem State.updPass_tly (n : Nat) (f : GPass → GPass) : (s.updPass n f).tly = s.tly := rfl
@[simp] theorem State.updPass_heaps (n : Nat) (f : GPass → GPass) : (s.updPass n f).heaps = s.heaps := rfl
@[simp] theorem State.updPass_mmu (n : Nat) (f : GPass → GPass) : (s.updPass n f).mmu = s.mmu := rfl
@[simp] theorem State.updPass_pats (n : Nat) (f : GPass → GPass) : (s.updPass n f).pats = s.pats := rfl
@[simp] theorem State.updPass_sh (n : Nat) (f : GPass → GPass) : (s.updPass n f).sh = s.sh := rfl
@[simp] theorem State.updPass_looms (n : Nat) (f : GPass → GPass) : (s.updPass n f).looms = s.looms := rfl
@[simp] theorem State.updPass_routes (n : Nat) (f : GPass → GPass) : (s.updPass n f).routes = s.routes := rfl
@[simp] theorem State.updPass_crd (n : Nat) (f : GPass → GPass) : (s.updPass n f).crd = s.crd := rfl
@[simp] theorem State.updPass_glz (n : Nat) (f : GPass → GPass) : (s.updPass n f).glz = s.glz := rfl
@[simp] theorem State.updPass_prs (n : Nat) (f : GPass → GPass) : (s.updPass n f).prs = s.prs := rfl
@[simp] theorem State.updPass_rt (n : Nat) (f : GPass → GPass) : (s.updPass n f).rt = s.rt := rfl
@[simp] theorem State.updPass_tick (n : Nat) (f : GPass → GPass) : (s.updPass n f).tick = s.tick := rfl
@[simp] theorem State.updPass_mesh (n : Nat) (f : GPass → GPass) : (s.updPass n f).mesh = s.mesh := rfl
@[simp] theorem State.updPass_odm (n : Nat) (f : GPass → GPass) : (s.updPass n f).odm = s.odm := rfl
@[simp] theorem State.updPass_boot (n : Nat) (f : GPass → GPass) : (s.updPass n f).boot = s.boot := rfl
@[simp] theorem State.updPass_pwr (n : Nat) (f : GPass → GPass) : (s.updPass n f).pwr = s.pwr := rfl
@[simp] theorem State.updPass_jtag (n : Nat) (f : GPass → GPass) : (s.updPass n f).jtag = s.jtag := rfl
@[simp] theorem State.updPass_rsts (n : Nat) (f : GPass → GPass) : (s.updPass n f).rsts = s.rsts := rfl
@[simp] theorem State.updPass_emcyQ (n : Nat) (f : GPass → GPass) : (s.updPass n f).emcyQ = s.emcyQ := rfl
@[simp] theorem State.updPass_errField (n : Nat) (f : GPass → GPass) : (s.updPass n f).errField = s.errField := rfl
@[simp] theorem State.updPass_errReg (n : Nat) (f : GPass → GPass) : (s.updPass n f).errReg = s.errReg := rfl
@[simp] theorem State.updPass_pending (n : Nat) (f : GPass → GPass) : (s.updPass n f).pending = s.pending := rfl
@[simp] theorem State.updPass_rd (n : Nat) (f : GPass → GPass) (G : Fld) (k : Nat) : (s.updPass n f).rd G k = s.rd G k := rfl

@[simp] theorem State.ledger_now (a b : Nat) (l : List Byte) (c : Bool) : (s.ledger a b l c).now = s.now := rfl
@[simp] theorem State.ledger_freeCtr (a b : Nat) (l : List Byte) (c : Bool) : (s.ledger a b l c).freeCtr = s.freeCtr := rfl
@[simp] theorem State.ledger_regs (a b : Nat) (l : List Byte) (c : Bool) : (s.ledger a b l c).regs = s.regs := rfl
@[simp] theorem State.ledger_shadows (a b : Nat) (l : List Byte) (c : Bool) : (s.ledger a b l c).shadows = s.shadows := rfl
@[simp] theorem State.ledger_rdata (a b : Nat) (l : List Byte) (c : Bool) : (s.ledger a b l c).rdata = s.rdata := rfl
@[simp] theorem State.ledger_out (a b : Nat) (l : List Byte) (c : Bool) : (s.ledger a b l c).out = s.out := rfl
@[simp] theorem State.ledger_bus (a b : Nat) (l : List Byte) (c : Bool) : (s.ledger a b l c).bus = s.bus := rfl
@[simp] theorem State.ledger_irq (a b : Nat) (l : List Byte) (c : Bool) : (s.ledger a b l c).irq = s.irq := rfl
@[simp] theorem State.ledger_cap (a b : Nat) (l : List Byte) (c : Bool) : (s.ledger a b l c).cap = s.cap := rfl
@[simp] theorem State.ledger_area (a b : Nat) (l : List Byte) (c : Bool) : (s.ledger a b l c).area = s.area := rfl
@[simp] theorem State.ledger_tds (a b : Nat) (l : List Byte) (c : Bool) : (s.ledger a b l c).tds = s.tds := rfl
@[simp] theorem State.ledger_saf (a b : Nat) (l : List Byte) (c : Bool) : (s.ledger a b l c).saf = s.saf := rfl
@[simp] theorem State.ledger_asy (a b : Nat) (l : List Byte) (c : Bool) : (s.ledger a b l c).asy = s.asy := rfl
@[simp] theorem State.ledger_mem (a b : Nat) (l : List Byte) (c : Bool) : (s.ledger a b l c).mem = s.mem := rfl
@[simp] theorem State.ledger_fe (a b : Nat) (l : List Byte) (c : Bool) : (s.ledger a b l c).fe = s.fe := rfl
@[simp] theorem State.ledger_tly (a b : Nat) (l : List Byte) (c : Bool) : (s.ledger a b l c).tly = s.tly := rfl
@[simp] theorem State.ledger_heaps (a b : Nat) (l : List Byte) (c : Bool) : (s.ledger a b l c).heaps = s.heaps := rfl
@[simp] theorem State.ledger_mmu (a b : Nat) (l : List Byte) (c : Bool) : (s.ledger a b l c).mmu = s.mmu := rfl
@[simp] theorem State.ledger_pats (a b : Nat) (l : List Byte) (c : Bool) : (s.ledger a b l c).pats = s.pats := rfl
@[simp] theorem State.ledger_sh (a b : Nat) (l : List Byte) (c : Bool) : (s.ledger a b l c).sh = s.sh := rfl
@[simp] theorem State.ledger_looms (a b : Nat) (l : List Byte) (c : Bool) : (s.ledger a b l c).looms = s.looms := rfl
@[simp] theorem State.ledger_routes (a b : Nat) (l : List Byte) (c : Bool) : (s.ledger a b l c).routes = s.routes := rfl
@[simp] theorem State.ledger_crd (a b : Nat) (l : List Byte) (c : Bool) : (s.ledger a b l c).crd = s.crd := rfl
@[simp] theorem State.ledger_gfx (a b : Nat) (l : List Byte) (c : Bool) : (s.ledger a b l c).gfx = s.gfx := rfl
@[simp] theorem State.ledger_glz (a b : Nat) (l : List Byte) (c : Bool) : (s.ledger a b l c).glz = s.glz := rfl
@[simp] theorem State.ledger_prs (a b : Nat) (l : List Byte) (c : Bool) : (s.ledger a b l c).prs = s.prs := rfl
@[simp] theorem State.ledger_rt (a b : Nat) (l : List Byte) (c : Bool) : (s.ledger a b l c).rt = s.rt := rfl
@[simp] theorem State.ledger_tick (a b : Nat) (l : List Byte) (c : Bool) : (s.ledger a b l c).tick = s.tick := rfl
@[simp] theorem State.ledger_mesh (a b : Nat) (l : List Byte) (c : Bool) : (s.ledger a b l c).mesh = s.mesh := rfl
@[simp] theorem State.ledger_odm (a b : Nat) (l : List Byte) (c : Bool) : (s.ledger a b l c).odm = s.odm := rfl
@[simp] theorem State.ledger_boot (a b : Nat) (l : List Byte) (c : Bool) : (s.ledger a b l c).boot = s.boot := rfl
@[simp] theorem State.ledger_pwr (a b : Nat) (l : List Byte) (c : Bool) : (s.ledger a b l c).pwr = s.pwr := rfl
@[simp] theorem State.ledger_jtag (a b : Nat) (l : List Byte) (c : Bool) : (s.ledger a b l c).jtag = s.jtag := rfl
@[simp] theorem State.ledger_rsts (a b : Nat) (l : List Byte) (c : Bool) : (s.ledger a b l c).rsts = s.rsts := rfl
@[simp] theorem State.ledger_emcyQ (a b : Nat) (l : List Byte) (c : Bool) : (s.ledger a b l c).emcyQ = s.emcyQ := rfl
@[simp] theorem State.ledger_errField (a b : Nat) (l : List Byte) (c : Bool) : (s.ledger a b l c).errField = s.errField := rfl
@[simp] theorem State.ledger_errReg (a b : Nat) (l : List Byte) (c : Bool) : (s.ledger a b l c).errReg = s.errReg := rfl
@[simp] theorem State.ledger_pending (a b : Nat) (l : List Byte) (c : Bool) : (s.ledger a b l c).pending = s.pending := rfl
@[simp] theorem State.ledger_rd (a b : Nat) (l : List Byte) (c : Bool) (G : Fld) (k : Nat) : (s.ledger a b l c).rd G k = s.rd G k := rfl

end Sys2Proof.Machine
end

