-- ==== Sys2Proof/Laws/Regs.lean ====
section
/-! SUPPORT. Laws of registers: what a field reads after a write of it and of another, of its flag form and of its shadow. -/

namespace Sys2Proof.Machine

variable (s : State)

/-- A field reads what was written, cut to its width. -/
@[simp] theorem State.rd_wr_same (F : Fld) (i v : Nat) : (s.wr F i v).rd F i = v % 2 ^ F.w := by
  simp only [State.rd, State.wr]
  split <;> simp_all

/-- A write leaves every other field and instance. -/
theorem State.rd_wr_other {F G : Fld} {i k : Nat} (v : Nat) (h : (F.fid, i) ≠ (G.fid, k)) : (s.wr F i v).rd G k = s.rd G k := by
  simp only [State.rd, State.wr]
  split <;> simp [h]

@[simp] theorem State.rd_wr_fid {F G : Fld} {i k : Nat} (v : Nat) (h : F.fid ≠ G.fid) : (s.wr F i v).rd G k = s.rd G k :=
  s.rd_wr_other v (fun e => h (Prod.mk.inj e).1)

@[simp] theorem State.rd_wr_inst {F G : Fld} {i k : Nat} (v : Nat) (h : i ≠ k) : (s.wr F i v).rd G k = s.rd G k :=
  s.rd_wr_other v (fun e => h (Prod.mk.inj e).2)

@[simp] theorem State.rd_fl_fid {F G : Fld} {i k : Nat} (b : Bool) (h : F.fid ≠ G.fid) : (s.fl F i b).rd G k = s.rd G k :=
  s.rd_wr_fid _ h

@[simp] theorem State.rd_fl_inst {F G : Fld} {i k : Nat} (b : Bool) (h : i ≠ k) : (s.fl F i b).rd G k = s.rd G k :=
  s.rd_wr_inst _ h

/-- A flag reads as it was set, in a field of at least one bit. -/
theorem State.on_fl_same (F : Fld) (i : Nat) (b : Bool) (h : 0 < F.w) : (s.fl F i b).on F i = b := by
  have h2 : 1 < 2 ^ F.w := Nat.one_lt_two_pow (by omega)
  cases b <;> simp [State.on, State.fl, b2n, Nat.mod_eq_of_lt h2]

/-- A shadow reads what was written, cut to its width (R10). -/
@[simp] theorem State.rdSh_wrSh_same (F : Fld) (i v : Nat) : (s.wrSh F i v).rdSh F i = v % 2 ^ F.w := by
  by_cases h : v % 2 ^ F.w = s.rd F i
  · simp only [State.rdSh, State.wrSh, if_pos h, RMap.get?_del, if_true, Option.getD_none]; exact h.symm
  · simp [State.rdSh, State.wrSh, if_neg h]

/-- A shadow's write leaves every committed value. -/
@[simp] theorem State.rd_wrSh (F G : Fld) (i k v : Nat) : (s.wrSh F i v).rd G k = s.rd G k := rfl

/-- A register write keeps the store in its order. -/
theorem State.wr_sorted (F : Fld) (i v : Nat) (h : s.regs.sorted = true) : (s.wr F i v).regs.sorted = true := by
  simp only [State.wr]
  split
  · exact RMap.sorted_filter _ h
  · exact RMap.sorted_put _ _ h

end Sys2Proof.Machine
end

