-- ==== Sys2Proof/Laws/Kept.lean ====
section
/-! SUPPORT. What every command keeps, as one relation between the state before and after: the time (which only
a power-on reset starts again), the queue of waiting
commands, the fuses, what has left the device, and the canonical form of the data. One lemma for each operation of the
model follows in the files Kept*.lean. -/

namespace Sys2Proof.Machine

/-- State `t` keeps of `s` what no command may change. -/
structure Kept (s t : State) : Prop where
  now : t.now = s.now ∨ t.now = 0
  pending : t.pending = s.pending
  fuses : t.boot.fuses = s.boot.fuses
  out : s.out <+: t.out
  free : s.freeCtr ≤ t.freeCtr
  canon : s.canon → t.canon

theorem Kept.refl (s : State) : Kept s s := ⟨.inl rfl, rfl, rfl, List.prefix_refl _, Nat.le_refl _, id⟩

theorem id_kept {s t : State} (h : Kept s t) : Kept s (id t) := h

theorem Kept.trans {s t u : State} (h : Kept s t) (k : Kept t u) : Kept s u :=
  ⟨k.now.elim (fun e => h.now.imp e.trans e.trans) .inr, k.pending.trans h.pending, k.fuses.trans h.fuses, h.out.trans k.out, Nat.le_trans h.free k.free,
    k.canon ∘ h.canon⟩

/-- An update of the parts that the relation does not speak of, or of no more than it allows. -/
theorem Kept.upd {s X : State} (h : Kept s X) {fc regs shadows rdata out bus irq cap ldg area tds saf asy mem fe tly heaps
    mmu pats sh looms routes crd gfx glz prs rt tick mesh odm boot pwr jtag rsts emcyQ errField errReg}
    (h1 : X.freeCtr ≤ fc) (h2 : X.regs.sorted = true → regs.sorted = true) (h3 : X.out <+: out)
    (h4 : X.ldg.bytes.wf = true → ldg.bytes.wf = true) (h5 : X.mem.hbm.wf = true → mem.hbm.wf = true)
    (h6 : X.mem.host.wf = true → mem.host.wf = true) (h7 : boot.fuses = X.boot.fuses)
    (h8 : X.boot.flash.wf = true → boot.flash.wf = true) :
    Kept s ⟨X.now, fc, regs, shadows, rdata, out, bus, irq, cap, ldg, area, tds, saf, asy, mem, fe, tly, heaps, mmu, pats, sh,
      looms, routes, crd, gfx, glz, prs, rt, tick, mesh, odm, boot, pwr, jtag, rsts, emcyQ, errField, errReg, X.pending⟩ :=
  h.trans ⟨.inl rfl, rfl, h7, h3, h1, fun c => ⟨h5 c.1, h6 c.2.1, h4 c.2.2.1, h8 c.2.2.2.1, h2 c.2.2.2.2⟩⟩

/-- As `Kept.upd`, for an update of the other parts alone. -/
theorem Kept.upd0 {s X : State} (h : Kept s X) {shadows rdata bus irq cap ldg area tds saf asy mem fe tly heaps
    mmu pats sh looms routes crd gfx glz prs rt tick mesh odm boot pwr jtag rsts emcyQ errField errReg}
    (h4 : X.ldg.bytes.wf = true → ldg.bytes.wf = true) (h5 : X.mem.hbm.wf = true → mem.hbm.wf = true)
    (h6 : X.mem.host.wf = true → mem.host.wf = true) (h7 : boot.fuses = X.boot.fuses)
    (h8 : X.boot.flash.wf = true → boot.flash.wf = true) :
    Kept s ⟨X.now, X.freeCtr, X.regs, shadows, rdata, X.out, bus, irq, cap, ldg, area, tds, saf, asy, mem, fe, tly, heaps, mmu,
      pats, sh, looms, routes, crd, gfx, glz, prs, rt, tick, mesh, odm, boot, pwr, jtag, rsts, emcyQ, errField, errReg,
      X.pending⟩ :=
  h.upd (Nat.le_refl _) id (List.prefix_refl _) h4 h5 h6 h7 h8

/-- As `Kept.upd0`, with uses of free values counted. -/
theorem Kept.upd1 {s X : State} (h : Kept s X) {n shadows rdata bus irq cap ldg area tds saf asy mem fe tly heaps
    mmu pats sh looms routes crd gfx glz prs rt tick mesh odm boot pwr jtag rsts emcyQ errField errReg}
    (h4 : X.ldg.bytes.wf = true → ldg.bytes.wf = true) (h5 : X.mem.hbm.wf = true → mem.hbm.wf = true)
    (h6 : X.mem.host.wf = true → mem.host.wf = true) (h7 : boot.fuses = X.boot.fuses)
    (h8 : X.boot.flash.wf = true → boot.flash.wf = true) :
    Kept s ⟨X.now, X.freeCtr + n, X.regs, shadows, rdata, X.out, bus, irq, cap, ldg, area, tds, saf, asy, mem, fe, tly, heaps,
      mmu, pats, sh, looms, routes, crd, gfx, glz, prs, rt, tick, mesh, odm, boot, pwr, jtag, rsts, emcyQ, errField, errReg,
      X.pending⟩ :=
  h.upd (Nat.le_add_right ..) id (List.prefix_refl _) h4 h5 h6 h7 h8

theorem Kept.ite {s X Y : State} {c : Prop} [Decidable c] (h : Kept s X) (k : Kept s Y) : Kept s (if c then X else Y) := by
  split
  · exact h
  · exact k

theorem Kept.ite1 {β : Type} {s : State} {X Y : State × β} {c : Prop} [Decidable c] (h : Kept s X.1) (k : Kept s Y.1) :
    Kept s (if c then X else Y).1 := by
  split
  · exact h
  · exact k

theorem Kept.ite2 {β : Type} {s : State} {X Y : β × State} {c : Prop} [Decidable c] (h : Kept s X.2) (k : Kept s Y.2) :
    Kept s (if c then X else Y).2 := by
  split
  · exact h
  · exact k

theorem Kept.foldl {α : Type} {s X : State} {f : State → α → State} {l : List α} (h : Kept s X)
    (hf : ∀ t a, Kept s t → Kept s (f t a)) : Kept s (l.foldl f X) := by
  induction l generalizing X with
  | nil => exact h
  | cons a r ih => exact ih (hf _ _ h)

theorem Kept.foldl1 {α β : Type} {s : State} {X : State × β} {f : State × β → α → State × β} {l : List α} (h : Kept s X.1)
    (hf : ∀ t b a, Kept s t → Kept s (f (t, b) a).1) : Kept s (l.foldl f X).1 := by
  induction l generalizing X with
  | nil => exact h
  | cons a r ih => exact ih (hf _ _ _ h)

theorem Kept.foldl2 {α β : Type} {s : State} {X : β × State} {f : β × State → α → β × State} {l : List α} (h : Kept s X.2)
    (hf : ∀ b t a, Kept s t → Kept s (f (b, t) a).2) : Kept s (l.foldl f X).2 := by
  induction l generalizing X with
  | nil => exact h
  | cons a r ih => exact ih (hf _ _ _ h)

theorem Kept.of_eq1 {β : Type} {s t : State} {r : β} {X : State × β} (h : Kept s X.1) (e : X = (t, r)) : Kept s t := by
  rw [e] at h; exact h

theorem Kept.of_eq2 {β : Type} {s t : State} {r : β} {X : β × State} (h : Kept s X.2) (e : X = (r, t)) : Kept s t := by
  rw [e] at h; exact h

theorem Kept.of_eq3 {β γ : Type} {s t : State} {r : β} {q : γ} {X : β × γ × State} (h : Kept s X.2.2) (e : X = (r, q, t)) :
    Kept s t := by
  rw [e] at h; exact h

/-- The outcome is a next state that keeps of `s` what no command may change. -/
def KeptO (s : State) (o : Host.Outcome State Fault Refusal) : Prop := ∃ t, o = .next t ∧ Kept s t

theorem KeptO.ite {s : State} {X Y : Host.Outcome State Fault Refusal} {c : Prop} [Decidable c] (h : KeptO s X) (k : KeptO s Y) :
    KeptO s (if c then X else Y) := by
  split
  · exact h
  · exact k

theorem Kept.next {s t : State} (h : Kept s t) : KeptO s (.next t) := ⟨t, rfl, h⟩

end Sys2Proof.Machine
end

