-- ==== Sys2Proof/Laws/KeptRegs.lean ====
section
/-! SUPPORT. Every operation of Machine/Regs.lean keeps what no command may change. -/

namespace Sys2Proof.Machine

set_option linter.all false

theorem State.wr_kept {s0 : State} (s : State) (F : Fld) (i v : Nat) (h : Kept s0 s) : Kept s0 (s.wr F i v) :=
  h.upd (Nat.le_refl _) (s.wr_sorted F i v) (List.prefix_refl _) id id id rfl id

theorem State.fl_kept {s0 : State} (s : State) (F : Fld) (i : Nat) (b : Bool) (hk : Kept s0 s) : Kept s0 (State.fl s F i b) := by
  unfold State.fl
  repeat' (first
    | with_reducible assumption
    | with_reducible apply State.wr_kept
    | with_reducible rfl
    | with_reducible exact fun h => h
    | dsimp only
    | split)

theorem State.wrSh_kept {s0 : State} (s : State) (F : Fld) (i v : Nat) (hk : Kept s0 s) : Kept s0 (State.wrSh s F i v) := by
  unfold State.wrSh
  repeat' (first
    | with_reducible assumption
    | with_reducible rfl
    | with_reducible exact fun h => h
    | dsimp only
    | with_reducible apply Kept.ite
    | split
    | with_reducible refine Kept.upd0 ?_ ?_ ?_ ?_ ?_ ?_)

theorem State.wrs_kept {s0 : State} (s : State) (i : Nat) (l : List (Fld × Nat)) (hk : Kept s0 s) : Kept s0 (State.wrs s i l) := by
  unfold State.wrs
  repeat' (first
    | with_reducible assumption
    | with_reducible apply State.wr_kept
    | with_reducible refine Kept.foldl ?_ (fun _ _ _ => ?_)
    | with_reducible refine Kept.foldl1 ?_ (fun _ _ _ _ => ?_)
    | with_reducible refine Kept.foldl2 ?_ (fun _ _ _ _ => ?_)
    | with_reducible refine Kept.of_eq1 ?_ (by assumption)
    | with_reducible refine Kept.of_eq2 ?_ (by assumption)
    | with_reducible rfl
    | with_reducible exact fun h => h
    | dsimp only
    | split)

theorem State.free_kept {s0 : State} (s : State) (k : Nat) (h : Kept s0 s) : Kept s0 (s.free k).2 :=
  h.upd (Nat.le_succ _) id (List.prefix_refl _) id id id rfl id

theorem State.freeBytes_kept {s0 : State} (s : State) (k n : Nat) (h : Kept s0 s) : Kept s0 (s.freeBytes k n).2 :=
  h.upd (Nat.le_succ _) id (List.prefix_refl _) id id id rfl id

theorem State.emit_kept {s0 : State} (s : State) (o : Out) (h : Kept s0 s) : Kept s0 (s.emit o) :=
  h.upd (Nat.le_refl _) id (List.prefix_append ..) id id id rfl id

end Sys2Proof.Machine
end

