-- ==== Sys2Proof/Laws/KeptEvents.lean ====
section
/-! SUPPORT. Every operation of Machine/Events.lean keeps what no command may change. -/

namespace Sys2Proof.Machine

set_option linter.all false

theorem State.hostDo_kept {s0 s : State} {b : Blk} {f : State → Host.Outcome State Fault Refusal} (h : Kept s0 s)
    (hf : KeptO s0 (f s)) : KeptO s0 (s.hostDo b f) := by
  unfold State.hostDo
  split
  · exact hf
  · exact h.next

theorem State.bump_kept {s0 : State} (s : State) (F : Fld) (i : Nat) (n : Nat) (hk : Kept s0 s) : Kept s0 (State.bump s F i n).1 := by
  unfold State.bump
  repeat' (first
    | with_reducible assumption
    | with_reducible apply State.wr_kept
    | with_reducible refine Kept.of_eq1 ?_ (by assumption)
    | with_reducible rfl
    | with_reducible exact fun h => h
    | dsimp only
    | with_reducible apply Kept.ite
    | with_reducible apply Kept.ite1
    | with_reducible apply Kept.ite2
    | split
    | with_reducible refine Kept.upd0 ?_ ?_ ?_ ?_ ?_ ?_)

theorem State.msiWith_kept {s0 : State} (drop : State → State) (s : State) (v : Nat) (h_drop : ∀ a0, Kept s0 a0 → Kept s0 (drop a0)) (hk : Kept s0 s) : Kept s0 (State.msiWith drop s v) := by
  unfold State.msiWith
  repeat' (first
    | with_reducible assumption
    | with_reducible apply h_drop
    | with_reducible apply State.emit_kept
    | with_reducible apply State.fl_kept
    | with_reducible rfl
    | with_reducible exact fun h => h
    | dsimp only
    | with_reducible apply Kept.ite
    | split
    | with_reducible refine Kept.upd0 ?_ ?_ ?_ ?_ ?_ ?_)

theorem State.sendHeldWith_kept {s0 : State} (drop : State → State) (s : State) (m : Nat) (h_drop : ∀ a0, Kept s0 a0 → Kept s0 (drop a0)) (hk : Kept s0 s) : Kept s0 (State.sendHeldWith drop s m) := by
  unfold State.sendHeldWith
  repeat' (first
    | with_reducible assumption
    | intro _
    | with_reducible apply h_drop
    | with_reducible apply State.msiWith_kept
    | with_reducible apply State.emit_kept
    | with_reducible apply State.fl_kept
    | with_reducible rfl
    | with_reducible exact fun h => h
    | dsimp only
    | with_reducible apply Kept.ite
    | split
    | with_reducible refine Kept.upd0 ?_ ?_ ?_ ?_ ?_ ?_)

theorem State.notifyVecWith_kept {s0 : State} (drop : State → State) (s : State) (m : Nat) (h_drop : ∀ a0, Kept s0 a0 → Kept s0 (drop a0)) (hk : Kept s0 s) : Kept s0 (State.notifyVecWith drop s m) := by
  unfold State.notifyVecWith
  repeat' (first
    | with_reducible assumption
    | intro _
    | with_reducible apply h_drop
    | with_reducible apply State.sendHeldWith_kept
    | with_reducible apply State.free_kept
    | with_reducible apply State.fl_kept
    | with_reducible refine Kept.of_eq2 ?_ (by assumption)
    | with_reducible rfl
    | with_reducible exact fun h => h
    | dsimp only
    | with_reducible apply Kept.ite
    | with_reducible apply Kept.ite1
    | with_reducible apply Kept.ite2
    | split
    | with_reducible refine Kept.upd0 ?_ ?_ ?_ ?_ ?_ ?_)

theorem State.notifyTgtWith_kept {s0 : State} (drop : State → State) (s : State) (t : Nat) (h_drop : ∀ a0, Kept s0 a0 → Kept s0 (drop a0)) (hk : Kept s0 s) : Kept s0 (State.notifyTgtWith drop s t) := by
  unfold State.notifyTgtWith
  repeat' (first
    | with_reducible assumption
    | intro _
    | with_reducible apply h_drop
    | with_reducible apply State.notifyVecWith_kept
    | with_reducible rfl
    | with_reducible exact fun h => h
    | dsimp only
    | with_reducible apply Kept.ite
    | split)

theorem State.pendWith_kept {s0 : State} (drop : State → State) (s : State) (n : Nat) (h_drop : ∀ a0, Kept s0 a0 → Kept s0 (drop a0)) (hk : Kept s0 s) : Kept s0 (State.pendWith drop s n) := by
  unfold State.pendWith
  repeat' (first
    | with_reducible assumption
    | intro _
    | with_reducible apply h_drop
    | with_reducible apply State.notifyTgtWith_kept
    | with_reducible apply State.wr_kept
    | with_reducible refine Kept.foldl ?_ (fun _ _ _ => ?_)
    | with_reducible refine Kept.foldl1 ?_ (fun _ _ _ _ => ?_)
    | with_reducible refine Kept.foldl2 ?_ (fun _ _ _ _ => ?_)
    | with_reducible refine Kept.of_eq1 ?_ (by assumption)
    | with_reducible refine Kept.of_eq2 ?_ (by assumption)
    | with_reducible rfl
    | with_reducible exact fun h => h
    | dsimp only
    | split)

theorem State.assertWith_kept {s0 : State} (drop : State → State) (s : State) (n : Nat) (h_drop : ∀ a0, Kept s0 a0 → Kept s0 (drop a0)) (hk : Kept s0 s) : Kept s0 (State.assertWith drop s n) := by
  unfold State.assertWith
  repeat' (first
    | with_reducible assumption
    | intro _
    | with_reducible apply h_drop
    | with_reducible apply State.pendWith_kept
    | with_reducible apply State.fl_kept
    | with_reducible rfl
    | with_reducible exact fun h => h
    | dsimp only
    | with_reducible apply Kept.ite
    | split)

theorem State.linkDrop_kept {s0 : State} (s : State) (hk : Kept s0 s) : Kept s0 (State.linkDrop s) := by
  unfold State.linkDrop
  repeat' (first
    | with_reducible assumption
    | intro _
    | with_reducible apply State.assertWith_kept
    | with_reducible apply State.bump_kept
    | with_reducible apply id_kept
    | with_reducible refine Kept.of_eq1 ?_ (by assumption)
    | with_reducible rfl
    | with_reducible exact fun h => h
    | dsimp only
    | with_reducible apply Kept.ite
    | with_reducible apply Kept.ite1
    | with_reducible apply Kept.ite2
    | split)

theorem State.msi_kept {s0 : State} (s : State) (v : Nat) (hk : Kept s0 s) : Kept s0 (State.msi s v) := by
  unfold State.msi
  repeat' (first
    | with_reducible assumption
    | intro _
    | with_reducible apply State.linkDrop_kept
    | with_reducible apply State.msiWith_kept
    | with_reducible rfl
    | with_reducible exact fun h => h
    | dsimp only
    | split)

theorem State.notifyVec_kept {s0 : State} (s : State) (v : Nat) (hk : Kept s0 s) : Kept s0 (State.notifyVec s v) := by
  unfold State.notifyVec
  repeat' (first
    | with_reducible assumption
    | intro _
    | with_reducible apply State.linkDrop_kept
    | with_reducible apply State.notifyVecWith_kept
    | with_reducible rfl
    | with_reducible exact fun h => h
    | dsimp only
    | split)

theorem State.raise_kept {s0 : State} (s : State) (n : Nat) (hk : Kept s0 s) : Kept s0 (State.raise s n) := by
  unfold State.raise
  repeat' (first
    | with_reducible assumption
    | intro _
    | with_reducible apply State.linkDrop_kept
    | with_reducible apply State.assertWith_kept
    | with_reducible rfl
    | with_reducible exact fun h => h
    | dsimp only
    | split)

theorem State.syncLevel_kept {s0 : State} (s : State) (n : Nat) (hk : Kept s0 s) : Kept s0 (State.syncLevel s n) := by
  unfold State.syncLevel
  repeat' (first
    | with_reducible assumption
    | with_reducible apply State.raise_kept
    | with_reducible apply State.fl_kept
    | with_reducible rfl
    | with_reducible exact fun h => h
    | dsimp only
    | with_reducible apply Kept.ite
    | split)

theorem State.syncSaf_kept {s0 : State} (s : State) (hk : Kept s0 s) : Kept s0 (State.syncSaf s) := by
  unfold State.syncSaf
  repeat' (first
    | with_reducible assumption
    | with_reducible apply State.syncLevel_kept
    | with_reducible refine Kept.foldl ?_ (fun _ _ _ => ?_)
    | with_reducible refine Kept.foldl1 ?_ (fun _ _ _ _ => ?_)
    | with_reducible refine Kept.foldl2 ?_ (fun _ _ _ _ => ?_)
    | with_reducible refine Kept.of_eq1 ?_ (by assumption)
    | with_reducible refine Kept.of_eq2 ?_ (by assumption)
    | with_reducible rfl
    | with_reducible exact fun h => h
    | dsimp only
    | split)

theorem State.countN_kept {s0 : State} (s : State) (F : Fld) (i n : Nat) (hk : Kept s0 s) : Kept s0 (State.countN s F i n) := by
  unfold State.countN
  repeat' (first
    | with_reducible assumption
    | with_reducible apply State.syncLevel_kept
    | with_reducible apply State.raise_kept
    | with_reducible apply State.bump_kept
    | with_reducible refine Kept.of_eq1 ?_ (by assumption)
    | with_reducible rfl
    | with_reducible exact fun h => h
    | dsimp only
    | with_reducible apply Kept.ite
    | with_reducible apply Kept.ite1
    | with_reducible apply Kept.ite2
    | split
    | with_reducible refine Kept.upd0 ?_ ?_ ?_ ?_ ?_ ?_)

theorem State.count_kept {s0 : State} (s : State) (F : Fld) (i : Nat) (hk : Kept s0 s) : Kept s0 (State.count s F i) := by
  unfold State.count
  repeat' (first
    | with_reducible assumption
    | with_reducible apply State.countN_kept
    | with_reducible rfl
    | with_reducible exact fun h => h
    | dsimp only
    | split)

theorem State.pmu_kept {s0 : State} (s : State) (ev u p : Nat) (n : Nat) (hk : Kept s0 s) : Kept s0 (State.pmu s ev u p n) := by
  unfold State.pmu
  repeat' (first
    | with_reducible assumption
    | with_reducible apply State.countN_kept
    | with_reducible refine Kept.foldl ?_ (fun _ _ _ => ?_)
    | with_reducible refine Kept.foldl1 ?_ (fun _ _ _ _ => ?_)
    | with_reducible refine Kept.foldl2 ?_ (fun _ _ _ _ => ?_)
    | with_reducible refine Kept.of_eq1 ?_ (by assumption)
    | with_reducible refine Kept.of_eq2 ?_ (by assumption)
    | with_reducible rfl
    | with_reducible exact fun h => h
    | dsimp only
    | with_reducible apply Kept.ite
    | split)

theorem State.cfgErr_kept {s0 : State} (s : State) (b : Blk) (off : Nat) (hk : Kept s0 s) : Kept s0 (State.cfgErr s b off) := by
  unfold State.cfgErr
  repeat' (first
    | with_reducible assumption
    | with_reducible apply State.raise_kept
    | with_reducible apply State.fl_kept
    | with_reducible apply State.wr_kept
    | with_reducible rfl
    | with_reducible exact fun h => h
    | dsimp only
    | split)

theorem State.refuse_kept {s0 : State} (s : State) (b : Blk) (hk : Kept s0 s) : Kept s0 (State.refuse s b) := by
  unfold State.refuse
  repeat' (first
    | with_reducible assumption
    | with_reducible apply State.cfgErr_kept
    | with_reducible apply State.fl_kept
    | with_reducible rfl
    | with_reducible exact fun h => h
    | dsimp only
    | split)

theorem State.ledger_kept {s0 : State} (s : State) (typ sev : Nat) (body : List Byte) (fcu : Bool) (hk : Kept s0 s) : Kept s0 (State.ledger s typ sev body fcu) := by
  unfold State.ledger
  repeat' (first
    | with_reducible assumption
    | with_reducible rfl
    | with_reducible exact fun h => h
    | dsimp only
    | split
    | with_reducible refine Kept.upd0 ?_ ?_ ?_ ?_ ?_ ?_)

theorem State.emcy_kept {s0 : State} (s : State) (code src inc : Nat) (hk : Kept s0 s) : Kept s0 (State.emcy s code src inc) := by
  unfold State.emcy
  repeat' (first
    | with_reducible assumption
    | with_reducible apply State.ledger_kept
    | with_reducible apply State.count_kept
    | with_reducible apply State.raise_kept
    | with_reducible rfl
    | with_reducible exact fun h => h
    | dsimp only
    | with_reducible apply Kept.ite
    | split
    | with_reducible refine Kept.upd0 ?_ ?_ ?_ ?_ ?_ ?_)

theorem State.linkRec_kept {s0 : State} (s : State) (kind index state : Nat) (hk : Kept s0 s) : Kept s0 (State.linkRec s kind index state) := by
  unfold State.linkRec
  repeat' (first
    | with_reducible assumption
    | with_reducible apply State.ledger_kept
    | with_reducible apply State.freeBytes_kept
    | with_reducible refine Kept.of_eq2 ?_ (by assumption)
    | with_reducible rfl
    | with_reducible exact fun h => h
    | dsimp only
    | split)

theorem State.emcyClear_kept {s0 : State} (s : State) (hk : Kept s0 s) : Kept s0 (State.emcyClear s) := by
  unfold State.emcyClear
  repeat' (first
    | with_reducible assumption
    | with_reducible apply State.emcy_kept
    | with_reducible rfl
    | with_reducible exact fun h => h
    | dsimp only
    | with_reducible apply Kept.ite
    | split
    | with_reducible refine Kept.upd0 ?_ ?_ ?_ ?_ ?_ ?_)

theorem State.safUpdate_kept {s0 : State} (s : State) (hk : Kept s0 s) : Kept s0 (State.safUpdate s) := by
  unfold State.safUpdate
  repeat' (first
    | with_reducible assumption
    | with_reducible apply State.emcyClear_kept
    | with_reducible apply State.emcy_kept
    | with_reducible apply State.ledger_kept
    | with_reducible apply State.countN_kept
    | with_reducible apply State.syncSaf_kept
    | with_reducible apply State.emit_kept
    | with_reducible apply State.fl_kept
    | with_reducible apply State.wr_kept
    | with_reducible rfl
    | with_reducible exact fun h => h
    | dsimp only
    | with_reducible apply Kept.ite
    | split
    | with_reducible refine Kept.upd0 ?_ ?_ ?_ ?_ ?_ ?_)

theorem State.routeHit_kept {s0 : State} (s : State) (i : Nat) (hk : Kept s0 s) : Kept s0 (State.routeHit s i) := by
  unfold State.routeHit
  repeat' (first
    | with_reducible assumption
    | with_reducible apply State.safUpdate_kept
    | with_reducible apply State.wr_kept
    | with_reducible rfl
    | with_reducible exact fun h => h
    | dsimp only
    | split)

theorem State.routeLevel_kept {s0 : State} (s : State) (i : Nat) (b : Bool) (hk : Kept s0 s) : Kept s0 (State.routeLevel s i b) := by
  unfold State.routeLevel
  repeat' (first
    | with_reducible assumption
    | with_reducible apply State.routeHit_kept
    | with_reducible apply State.safUpdate_kept
    | with_reducible rfl
    | with_reducible exact fun h => h
    | dsimp only
    | with_reducible apply Kept.ite
    | split
    | with_reducible refine Kept.upd0 ?_ ?_ ?_ ?_ ?_ ?_)

theorem State.incRec_kept {s0 : State} (s : State) (num act lvl owner src : Nat) (hk : Kept s0 s) : Kept s0 (State.incRec s num act lvl owner src) := by
  unfold State.incRec
  repeat' (first
    | with_reducible assumption
    | with_reducible apply State.ledger_kept
    | with_reducible rfl
    | with_reducible exact fun h => h
    | dsimp only
    | with_reducible apply Kept.ite
    | split)

theorem State.incOpenSlot_kept {s0 : State} (s : State) (k num lvl owner src det : Nat) (hk : Kept s0 s) : Kept s0 (State.incOpenSlot s k num lvl owner src det) := by
  unfold State.incOpenSlot
  repeat' (first
    | with_reducible assumption
    | with_reducible apply State.wrs_kept
    | with_reducible rfl
    | with_reducible exact fun h => h
    | dsimp only
    | split)

theorem State.incNew_kept {s0 : State} (s : State) (hk : Kept s0 s) : Kept s0 (State.incNew s).2 := by
  unfold State.incNew
  repeat' (first
    | with_reducible assumption
    | with_reducible apply State.count_kept
    | with_reducible apply State.wr_kept
    | with_reducible refine Kept.of_eq2 ?_ (by assumption)
    | with_reducible rfl
    | with_reducible exact fun h => h
    | dsimp only
    | split)

theorem State.incWant_kept {s0 : State} (s : State) (lvl o : Nat) (hk : Kept s0 s) : Kept s0 (State.incWant s lvl o) := by
  unfold State.incWant
  repeat' (first
    | with_reducible assumption
    | with_reducible rfl
    | with_reducible exact fun h => h
    | dsimp only
    | with_reducible apply Kept.ite
    | split
    | with_reducible refine Kept.upd0 ?_ ?_ ?_ ?_ ?_ ?_)

theorem State.incDevice_kept {s0 : State} (s : State) (lvl src : Nat) (hk : Kept s0 s) : Kept s0 (State.incDevice s lvl src).2 := by
  unfold State.incDevice
  repeat' (first
    | with_reducible assumption
    | with_reducible apply State.incWant_kept
    | with_reducible apply State.incNew_kept
    | with_reducible apply State.incOpenSlot_kept
    | with_reducible apply State.incRec_kept
    | with_reducible apply State.count_kept
    | with_reducible apply State.fl_kept
    | with_reducible apply State.wr_kept
    | with_reducible refine Kept.of_eq2 ?_ (by assumption)
    | with_reducible rfl
    | with_reducible exact fun h => h
    | dsimp only
    | with_reducible apply Kept.ite
    | with_reducible apply Kept.ite1
    | with_reducible apply Kept.ite2
    | split
    | with_reducible refine Kept.upd0 ?_ ?_ ?_ ?_ ?_ ?_)

theorem State.incident_kept {s0 : State} (s : State) (lvl owner src : Nat) (hk : Kept s0 s) : Kept s0 (State.incident s lvl owner src).2 := by
  unfold State.incident
  repeat' (first
    | with_reducible assumption
    | with_reducible apply State.incDevice_kept
    | with_reducible apply State.incWant_kept
    | with_reducible apply State.incNew_kept
    | with_reducible apply State.incOpenSlot_kept
    | with_reducible apply State.incRec_kept
    | with_reducible apply State.safUpdate_kept
    | with_reducible apply State.count_kept
    | with_reducible apply State.wr_kept
    | with_reducible refine Kept.of_eq2 ?_ (by assumption)
    | with_reducible rfl
    | with_reducible exact fun h => h
    | dsimp only
    | with_reducible apply Kept.ite
    | with_reducible apply Kept.ite1
    | with_reducible apply Kept.ite2
    | split
    | with_reducible refine Kept.upd0 ?_ ?_ ?_ ?_ ?_ ?_)

theorem State.incClose_kept {s0 : State} (s : State) (k : Nat) (hk : Kept s0 s) : Kept s0 (State.incClose s k) := by
  unfold State.incClose
  repeat' (first
    | with_reducible assumption
    | with_reducible apply State.incRec_kept
    | with_reducible apply State.safUpdate_kept
    | with_reducible apply State.count_kept
    | with_reducible apply State.fl_kept
    | with_reducible apply State.wr_kept
    | with_reducible rfl
    | with_reducible exact fun h => h
    | dsimp only
    | with_reducible apply Kept.ite
    | split
    | with_reducible refine Kept.upd0 ?_ ?_ ?_ ?_ ?_ ?_)

theorem State.incDone_kept {s0 : State} (s : State) (n : Nat) (hk : Kept s0 s) : Kept s0 (State.incDone s n) := by
  unfold State.incDone
  repeat' (first
    | with_reducible assumption
    | with_reducible apply State.incClose_kept
    | with_reducible apply State.incRec_kept
    | with_reducible apply State.safUpdate_kept
    | with_reducible apply State.count_kept
    | with_reducible rfl
    | with_reducible exact fun h => h
    | dsimp only
    | with_reducible apply Kept.ite
    | split
    | with_reducible refine Kept.upd0 ?_ ?_ ?_ ?_ ?_ ?_)

theorem State.incRetryFailed_kept {s0 : State} (s : State) (n owner src : Nat) (hk : Kept s0 s) : Kept s0 (State.incRetryFailed s n owner src).2 := by
  unfold State.incRetryFailed
  repeat' (first
    | with_reducible assumption
    | with_reducible apply State.incident_kept
    | with_reducible apply State.incOpenSlot_kept
    | with_reducible apply State.incRec_kept
    | with_reducible apply State.safUpdate_kept
    | with_reducible apply State.count_kept
    | with_reducible refine Kept.of_eq2 ?_ (by assumption)
    | with_reducible rfl
    | with_reducible exact fun h => h
    | dsimp only
    | split
    | with_reducible refine Kept.upd0 ?_ ?_ ?_ ?_ ?_ ?_)

theorem State.wakeAsk_kept {s0 : State} (s : State) (F : Fld) (m : Nat) (hk : Kept s0 s) : Kept s0 (State.wakeAsk s F m) := by
  unfold State.wakeAsk
  repeat' (first
    | with_reducible assumption
    | with_reducible apply State.wr_kept
    | with_reducible rfl
    | with_reducible exact fun h => h
    | dsimp only
    | with_reducible apply Kept.ite
    | split
    | with_reducible refine Kept.upd0 ?_ ?_ ?_ ?_ ?_ ?_)

theorem State.wakeAccess_kept {s0 : State} (s : State) (hk : Kept s0 s) : Kept s0 (State.wakeAccess s) := by
  unfold State.wakeAccess
  repeat' (first
    | with_reducible assumption
    | with_reducible apply State.wakeAsk_kept
    | with_reducible rfl
    | with_reducible exact fun h => h
    | dsimp only
    | split)

end Sys2Proof.Machine
end

