-- ==== Sys2Proof/Laws/KeptFlash.lean ====
section
/-! SUPPORT. Every operation of Machine/Flash.lean keeps what no command may change. -/

namespace Sys2Proof.Machine

set_option linter.all false

theorem State.updBoot_kept {s0 : State} (s : State) (f : Boot → Boot) (h : Kept s0 s) (h1 : ∀ b, (f b).fuses = b.fuses)
    (h2 : ∀ b : Boot, b.flash.wf = true → (f b).flash.wf = true) : Kept s0 (s.updBoot f) :=
  h.upd (Nat.le_refl _) id (List.prefix_refl _) id id id (h1 _) (h2 _)

theorem State.flashErase_kept {s0 : State} (s : State) (lo hi : Nat) (h : Kept s0 s) : Kept s0 (s.flashErase lo hi) :=
  State.updBoot_kept _ _ h (fun _ => rfl) (fun _ h => Memory.wf_zero _ _ h)

theorem State.flashProgram_kept {s0 : State} (s : State) (a : Nat) (bs : List Byte) (h : Kept s0 s) :
    Kept s0 (s.flashProgram a bs) := by
  unfold State.flashProgram
  exact State.updBoot_kept _ _ h (fun _ => rfl) (fun _ h => Memory.wf_write _ _ h)

theorem State.flashStore_kept {s0 : State} (s : State) (a : Nat) (bs : List Byte) (hk : Kept s0 s) : Kept s0 (State.flashStore s a bs) := by
  unfold State.flashStore
  repeat' (first
    | with_reducible assumption
    | with_reducible apply State.flashProgram_kept
    | with_reducible apply State.flashErase_kept
    | with_reducible rfl
    | with_reducible exact fun h => h
    | dsimp only
    | split)

theorem State.recWrite_kept {s0 : State} (s : State) (r : BootRec) (hk : Kept s0 s) : Kept s0 (State.recWrite s r) := by
  unfold State.recWrite
  repeat' (first
    | with_reducible assumption
    | with_reducible apply State.flashStore_kept
    | with_reducible apply State.updBoot_kept
    | with_reducible apply State.fl_kept
    | with_reducible rfl
    | with_reducible exact fun h => h
    | dsimp only
    | with_reducible apply Kept.ite
    | split
    | exact fun _ => rfl
    | exact fun _ h => h
    | exact fun h => h
    | rfl
    | with_reducible refine Kept.upd0 ?_ ?_ ?_ ?_ ?_ ?_)

theorem State.addRepair_kept {s0 : State} (s : State) (cls unit act : Nat) (hk : Kept s0 s) : Kept s0 (State.addRepair s cls unit act) := by
  unfold State.addRepair
  repeat' (first
    | with_reducible assumption
    | with_reducible apply State.recWrite_kept
    | with_reducible rfl
    | with_reducible exact fun h => h
    | dsimp only
    | with_reducible apply Kept.ite
    | split
    | with_reducible refine Kept.upd0 ?_ ?_ ?_ ?_ ?_ ?_)

end Sys2Proof.Machine
end

