-- ==== Sys2Proof/Laws/KeptMem.lean ====
section
/-! SUPPORT. Every operation of Machine/Mem.lean keeps what no command may change. -/

namespace Sys2Proof.Machine

set_option linter.all false

theorem State.mcLog_kept {s0 : State} (s : State) (m L half kind syms inc : Nat) (hk : Kept s0 s) : Kept s0 (State.mcLog s m L half kind syms inc) := by
  unfold State.mcLog
  repeat' (first
    | with_reducible assumption
    | with_reducible apply State.ledger_kept
    | with_reducible apply State.wr_kept
    | with_reducible rfl
    | with_reducible exact fun h => h
    | dsimp only
    | with_reducible apply Kept.ite
    | split)

theorem State.poisonUsed_kept {s0 : State} (s : State) (hk : Kept s0 s) : Kept s0 (State.poisonUsed s) := by
  unfold State.poisonUsed
  repeat' (first
    | with_reducible assumption
    | with_reducible apply State.wr_kept
    | with_reducible refine Kept.foldl ?_ (fun _ _ _ => ?_)
    | with_reducible refine Kept.foldl1 ?_ (fun _ _ _ _ => ?_)
    | with_reducible refine Kept.foldl2 ?_ (fun _ _ _ _ => ?_)
    | with_reducible refine Kept.of_eq1 ?_ (by assumption)
    | with_reducible refine Kept.of_eq2 ?_ (by assumption)
    | with_reducible rfl
    | with_reducible exact fun h => h
    | dsimp only
    | split)

theorem State.poisonLine_kept {s0 : State} (s : State) (L : Nat) (hk : Kept s0 s) : Kept s0 (State.poisonLine s L) := by
  unfold State.poisonLine
  repeat' (first
    | with_reducible assumption
    | with_reducible apply State.poisonUsed_kept
    | with_reducible apply State.routeHit_kept
    | with_reducible apply State.raise_kept
    | with_reducible rfl
    | with_reducible exact fun h => h
    | dsimp only
    | with_reducible apply Kept.ite
    | split
    | with_reducible refine Kept.upd0 ?_ ?_ ?_ ?_ ?_ ?_)

theorem State.unpoison_kept {s0 : State} (s : State) (L : Nat) (hk : Kept s0 s) : Kept s0 (State.unpoison s L) := by
  unfold State.unpoison
  repeat' (first
    | with_reducible assumption
    | with_reducible apply State.poisonUsed_kept
    | with_reducible rfl
    | with_reducible exact fun h => h
    | dsimp only
    | with_reducible apply Kept.ite
    | split
    | with_reducible refine Kept.upd0 ?_ ?_ ?_ ?_ ?_ ?_)

theorem State.uncorrShared_kept {s0 : State} (s : State) (hk : Kept s0 s) : Kept s0 (State.uncorrShared s) := by
  unfold State.uncorrShared
  repeat' (first
    | with_reducible assumption
    | with_reducible apply State.incident_kept
    | with_reducible apply State.raise_kept
    | with_reducible apply State.fl_kept
    | with_reducible refine Kept.of_eq2 ?_ (by assumption)
    | with_reducible rfl
    | with_reducible exact fun h => h
    | dsimp only
    | split)

theorem State.mcCheck_kept {s0 : State} (s : State) (L need : Nat) (scrub : Bool) (hk : Kept s0 s) : Kept s0 (State.mcCheck s L need scrub).1 := by
  unfold State.mcCheck
  repeat' (first
    | with_reducible assumption
    | with_reducible apply State.mcLog_kept
    | with_reducible apply State.count_kept
    | with_reducible apply State.raise_kept
    | with_reducible refine Kept.foldl ?_ (fun _ _ _ => ?_)
    | with_reducible refine Kept.of_eq1 ?_ (by assumption)
    | with_reducible refine Kept.foldl1 ?_ (fun _ _ _ _ => ?_)
    | with_reducible refine Kept.foldl2 ?_ (fun _ _ _ _ => ?_)
    | with_reducible refine Kept.of_eq2 ?_ (by assumption)
    | with_reducible rfl
    | with_reducible exact fun h => h
    | dsimp only
    | with_reducible apply Kept.ite
    | with_reducible apply Kept.ite1
    | with_reducible apply Kept.ite2
    | split
    | with_reducible refine Kept.upd0 ?_ ?_ ?_ ?_ ?_ ?_)

theorem State.zeroLine_kept {s0 : State} (s : State) (L : Nat) (hk : Kept s0 s) : Kept s0 (State.zeroLine s L) := by
  unfold State.zeroLine
  repeat' (first
    | with_reducible assumption
    | with_reducible apply State.unpoison_kept
    | with_reducible rfl
    | with_reducible exact fun h => h
    | exact Memory.wf_filter _
    | exact Memory.wf_zero _ _
    | exact Memory.wf_writeMask _ _ _
    | exact Memory.wf_write _ _
    | dsimp only
    | with_reducible apply Kept.ite
    | split
    | with_reducible refine Kept.upd0 ?_ ?_ ?_ ?_ ?_ ?_)

theorem State.sweepAhead_kept {s0 : State} (s : State) (L : Nat) (hk : Kept s0 s) : Kept s0 (State.sweepAhead s L) := by
  unfold State.sweepAhead
  repeat' (first
    | with_reducible assumption
    | with_reducible apply State.zeroLine_kept
    | with_reducible rfl
    | with_reducible exact fun h => h
    | dsimp only
    | with_reducible apply Kept.ite
    | split
    | with_reducible refine Kept.upd0 ?_ ?_ ?_ ?_ ?_ ?_)

theorem State.mcWrite_kept {s0 : State} (s : State) (L mask : Nat) (data : List Byte) (hk : Kept s0 s) : Kept s0 (State.mcWrite s L mask data).1 := by
  unfold State.mcWrite
  repeat' (first
    | with_reducible assumption
    | with_reducible apply State.mcCheck_kept
    | with_reducible apply State.unpoison_kept
    | with_reducible apply State.poisonLine_kept
    | with_reducible apply State.pmu_kept
    | with_reducible refine Kept.of_eq1 ?_ (by assumption)
    | with_reducible rfl
    | with_reducible exact fun h => h
    | exact Memory.wf_filter _
    | exact Memory.wf_zero _ _
    | exact Memory.wf_writeMask _ _ _
    | exact Memory.wf_write _ _
    | dsimp only
    | with_reducible apply Kept.ite
    | with_reducible apply Kept.ite1
    | with_reducible apply Kept.ite2
    | split
    | with_reducible refine Kept.upd0 ?_ ?_ ?_ ?_ ?_ ?_)

theorem State.backWrite_kept {s0 : State} (s : State) (key mask : Nat) (data : List Byte) (hk : Kept s0 s) : Kept s0 (State.backWrite s key mask data).1 := by
  unfold State.backWrite
  repeat' (first
    | with_reducible assumption
    | with_reducible apply State.mcWrite_kept
    | with_reducible refine Kept.of_eq1 ?_ (by assumption)
    | with_reducible rfl
    | with_reducible exact fun h => h
    | exact Memory.wf_filter _
    | exact Memory.wf_zero _ _
    | exact Memory.wf_writeMask _ _ _
    | exact Memory.wf_write _ _
    | dsimp only
    | with_reducible apply Kept.ite
    | with_reducible apply Kept.ite1
    | with_reducible apply Kept.ite2
    | split
    | with_reducible refine Kept.upd0 ?_ ?_ ?_ ?_ ?_ ?_)

theorem State.backRead_kept {s0 : State} (s : State) (key need : Nat) (hk : Kept s0 s) : Kept s0 (State.backRead s key need).1 := by
  unfold State.backRead
  repeat' (first
    | with_reducible assumption
    | with_reducible apply State.mcCheck_kept
    | with_reducible apply State.pmu_kept
    | with_reducible refine Kept.of_eq1 ?_ (by assumption)
    | with_reducible rfl
    | with_reducible exact fun h => h
    | exact Memory.wf_filter _
    | exact Memory.wf_zero _ _
    | exact Memory.wf_writeMask _ _ _
    | exact Memory.wf_write _ _
    | dsimp only
    | with_reducible apply Kept.ite
    | with_reducible apply Kept.ite1
    | with_reducible apply Kept.ite2
    | split)

theorem State.cleanLine_kept {s0 : State} (s : State) (key : Nat) (hk : Kept s0 s) : Kept s0 (State.cleanLine s key) := by
  unfold State.cleanLine
  repeat' (first
    | with_reducible assumption
    | with_reducible apply State.backWrite_kept
    | with_reducible apply State.count_kept
    | with_reducible apply State.raise_kept
    | with_reducible refine Kept.of_eq1 ?_ (by assumption)
    | with_reducible rfl
    | with_reducible exact fun h => h
    | dsimp only
    | with_reducible apply Kept.ite
    | with_reducible apply Kept.ite1
    | with_reducible apply Kept.ite2
    | split
    | with_reducible refine Kept.upd0 ?_ ?_ ?_ ?_ ?_ ?_)

theorem State.dropLine_kept {s0 : State} (s : State) (key : Nat) (hk : Kept s0 s) : Kept s0 (State.dropLine s key) := by
  unfold State.dropLine
  repeat' (first
    | with_reducible assumption
    | with_reducible rfl
    | with_reducible exact fun h => h
    | dsimp only
    | split
    | with_reducible refine Kept.upd0 ?_ ?_ ?_ ?_ ?_ ?_)

theorem State.evictLine_kept {s0 : State} (s : State) (key : Nat) (hk : Kept s0 s) : Kept s0 (State.evictLine s key) := by
  unfold State.evictLine
  repeat' (first
    | with_reducible assumption
    | with_reducible apply State.dropLine_kept
    | with_reducible apply State.cleanLine_kept
    | with_reducible rfl
    | with_reducible exact fun h => h
    | dsimp only
    | split)

theorem State.allocLine_kept {s0 : State} (s : State) (key : Nat) (hub : Bool) (l : L2Line) (hk : Kept s0 s) : Kept s0 (State.allocLine s key hub l) := by
  unfold State.allocLine
  repeat' (first
    | with_reducible assumption
    | with_reducible apply State.evictLine_kept
    | with_reducible rfl
    | with_reducible exact fun h => h
    | dsimp only
    | split
    | with_reducible refine Kept.upd0 ?_ ?_ ?_ ?_ ?_ ?_)

theorem State.l2Look_kept {s0 : State} (s : State) (key : Nat) (hk : Kept s0 s) : Kept s0 (State.l2Look s key).1 := by
  unfold State.l2Look
  repeat' (first
    | with_reducible assumption
    | with_reducible apply State.pmu_kept
    | with_reducible apply State.count_kept
    | with_reducible refine Kept.of_eq1 ?_ (by assumption)
    | with_reducible rfl
    | with_reducible exact fun h => h
    | dsimp only
    | split
    | with_reducible refine Kept.upd0 ?_ ?_ ?_ ?_ ?_ ?_)

theorem State.lineRead_kept {s0 : State} (s : State) (pa n cache : Nat) (hub : Bool) (hk : Kept s0 s) : Kept s0 (State.lineRead s pa n cache hub).1 := by
  unfold State.lineRead
  repeat' (first
    | with_reducible assumption
    | with_reducible apply State.l2Look_kept
    | with_reducible apply State.allocLine_kept
    | with_reducible apply State.backRead_kept
    | with_reducible apply State.sweepAhead_kept
    | with_reducible refine Kept.of_eq1 ?_ (by assumption)
    | with_reducible rfl
    | with_reducible exact fun h => h
    | dsimp only
    | with_reducible apply Kept.ite
    | with_reducible apply Kept.ite1
    | with_reducible apply Kept.ite2
    | split
    | with_reducible refine Kept.upd0 ?_ ?_ ?_ ?_ ?_ ?_)

theorem State.lineWrite_kept {s0 : State} (s : State) (pa cache : Nat) (hub : Bool) (bs : List Byte) (hk : Kept s0 s) : Kept s0 (State.lineWrite s pa cache hub bs).1 := by
  unfold State.lineWrite
  repeat' (first
    | with_reducible assumption
    | with_reducible apply State.l2Look_kept
    | with_reducible apply State.allocLine_kept
    | with_reducible apply State.backWrite_kept
    | with_reducible apply State.sweepAhead_kept
    | with_reducible refine Kept.of_eq1 ?_ (by assumption)
    | with_reducible rfl
    | with_reducible exact fun h => h
    | dsimp only
    | with_reducible apply Kept.ite
    | with_reducible apply Kept.ite1
    | with_reducible apply Kept.ite2
    | split
    | with_reducible refine Kept.upd0 ?_ ?_ ?_ ?_ ?_ ?_)

theorem State.reqErr_kept {s0 : State} (s : State) (d : Nat) (hk : Kept s0 s) : Kept s0 (State.reqErr s d) := by
  unfold State.reqErr
  repeat' (first
    | with_reducible assumption
    | with_reducible apply State.count_kept
    | with_reducible rfl
    | with_reducible exact fun h => h
    | dsimp only
    | split)

theorem State.pxlReq_kept {s0 : State} (s : State) (d kind : Nat) (w : List Nat) (hk : Kept s0 s) : Kept s0 (State.pxlReq s d kind w).1 := by
  unfold State.pxlReq
  repeat' (first
    | with_reducible assumption
    | with_reducible apply State.emit_kept
    | with_reducible apply State.free_kept
    | with_reducible refine Kept.of_eq1 ?_ (by assumption)
    | with_reducible refine Kept.of_eq2 ?_ (by assumption)
    | with_reducible rfl
    | with_reducible exact fun h => h
    | dsimp only
    | split)

theorem State.physRead_kept {s0 : State} (s : State) (pa n cache : Nat) (hub : Bool) (hk : Kept s0 s) : Kept s0 (State.physRead s pa n cache hub).1 := by
  unfold State.physRead
  repeat' (first
    | with_reducible assumption
    | with_reducible apply State.pxlReq_kept
    | with_reducible apply State.reqErr_kept
    | with_reducible apply State.lineRead_kept
    | with_reducible apply State.freeBytes_kept
    | with_reducible refine Kept.foldl ?_ (fun _ _ _ => ?_)
    | with_reducible refine Kept.of_eq1 ?_ (by assumption)
    | with_reducible refine Kept.of_eq2 ?_ (by assumption)
    | with_reducible refine Kept.foldl1 ?_ (fun _ _ _ _ => ?_)
    | with_reducible refine Kept.foldl2 ?_ (fun _ _ _ _ => ?_)
    | with_reducible rfl
    | with_reducible exact fun h => h
    | exact Memory.wf_filter _
    | exact Memory.wf_zero _ _
    | exact Memory.wf_writeMask _ _ _
    | exact Memory.wf_write _ _
    | dsimp only
    | with_reducible apply Kept.ite
    | with_reducible apply Kept.ite1
    | with_reducible apply Kept.ite2
    | split)

theorem State.physWrite_kept {s0 : State} (s : State) (pa cache : Nat) (bs : List Byte) (hub : Bool) (hk : Kept s0 s) : Kept s0 (State.physWrite s pa cache bs hub).1 := by
  unfold State.physWrite
  repeat' (first
    | with_reducible assumption
    | with_reducible apply State.pxlReq_kept
    | with_reducible apply State.reqErr_kept
    | with_reducible apply State.lineWrite_kept
    | with_reducible refine Kept.foldl ?_ (fun _ _ _ => ?_)
    | with_reducible refine Kept.of_eq1 ?_ (by assumption)
    | with_reducible refine Kept.foldl1 ?_ (fun _ _ _ _ => ?_)
    | with_reducible refine Kept.foldl2 ?_ (fun _ _ _ _ => ?_)
    | with_reducible refine Kept.of_eq2 ?_ (by assumption)
    | with_reducible rfl
    | with_reducible exact fun h => h
    | exact Memory.wf_filter _
    | exact Memory.wf_zero _ _
    | exact Memory.wf_writeMask _ _ _
    | exact Memory.wf_write _ _
    | dsimp only
    | with_reducible apply Kept.ite
    | with_reducible apply Kept.ite1
    | with_reducible apply Kept.ite2
    | split)

theorem State.trace_kept {s0 : State} (s : State) (kind part unit value : Nat) (hk : Kept s0 s) : Kept s0 (State.trace s kind part unit value) := by
  unfold State.trace
  repeat' (first
    | with_reducible assumption
    | with_reducible apply State.physWrite_kept
    | with_reducible apply State.count_kept
    | with_reducible apply State.raise_kept
    | with_reducible apply State.wr_kept
    | with_reducible refine Kept.of_eq1 ?_ (by assumption)
    | with_reducible rfl
    | with_reducible exact fun h => h
    | dsimp only
    | with_reducible apply Kept.ite
    | with_reducible apply Kept.ite1
    | with_reducible apply Kept.ite2
    | split)

theorem State.sweepRegs_kept {s0 : State} (s : State) (hk : Kept s0 s) : Kept s0 (State.sweepRegs s) := by
  unfold State.sweepRegs
  repeat' (first
    | with_reducible assumption
    | with_reducible apply State.fl_kept
    | with_reducible apply State.wr_kept
    | with_reducible rfl
    | with_reducible exact fun h => h
    | dsimp only
    | split)

theorem State.sweepTake_kept {s0 : State}  (fuel : Nat) (x1 : State) (hk : Kept s0 x1) : Kept s0 (State.sweepTake fuel x1) := by
  induction fuel generalizing x1 with
  | zero =>
    unfold State.sweepTake
    repeat' (first
      | with_reducible assumption
      | with_reducible apply State.sweepRegs_kept
      | with_reducible rfl
      | with_reducible exact fun h => h
      | dsimp only
      | with_reducible apply Kept.ite
      | split
      | with_reducible refine Kept.upd0 ?_ ?_ ?_ ?_ ?_ ?_)
  | succ f ih =>
    unfold State.sweepTake
    repeat' (first
      | with_reducible assumption
      | with_reducible apply ih
      | with_reducible apply State.sweepRegs_kept
      | with_reducible rfl
      | with_reducible exact fun h => h
      | dsimp only
      | with_reducible apply Kept.ite
      | split
      | with_reducible refine Kept.upd0 ?_ ?_ ?_ ?_ ?_ ?_)

theorem State.sweepAdd_kept {s0 : State} (s : State) (lo hi : Nat) (d : SweepDone) (hk : Kept s0 s) : Kept s0 (State.sweepAdd s lo hi d) := by
  unfold State.sweepAdd
  repeat' (first
    | with_reducible assumption
    | with_reducible apply State.sweepTake_kept
    | with_reducible apply id_kept
    | with_reducible rfl
    | with_reducible exact fun h => h
    | dsimp only
    | with_reducible apply Kept.ite
    | with_reducible apply KeptO.ite
    | split
    | with_reducible refine Kept.upd0 ?_ ?_ ?_ ?_ ?_ ?_)

theorem State.sweepZero_kept {s0 : State} (s : State) (j : SweepJob) (hk : Kept s0 s) : Kept s0 (State.sweepZero s j) := by
  unfold State.sweepZero
  repeat' (first
    | with_reducible assumption
    | with_reducible apply State.poisonUsed_kept
    | with_reducible rfl
    | with_reducible exact fun h => h
    | exact Memory.wf_filter _
    | exact Memory.wf_zero _ _
    | exact Memory.wf_writeMask _ _ _
    | exact Memory.wf_write _ _
    | dsimp only
    | split
    | with_reducible refine Kept.upd0 ?_ ?_ ?_ ?_ ?_ ?_)

theorem State.clearSync_kept {s0 : State} (s : State) (hk : Kept s0 s) : Kept s0 (State.clearSync s) := by
  unfold State.clearSync
  repeat' (first
    | with_reducible assumption
    | with_reducible apply State.fl_kept
    | with_reducible refine Kept.foldl ?_ (fun _ _ _ => ?_)
    | with_reducible refine Kept.foldl1 ?_ (fun _ _ _ _ => ?_)
    | with_reducible refine Kept.foldl2 ?_ (fun _ _ _ _ => ?_)
    | with_reducible refine Kept.of_eq1 ?_ (by assumption)
    | with_reducible refine Kept.of_eq2 ?_ (by assumption)
    | with_reducible rfl
    | with_reducible exact fun h => h
    | dsimp only
    | split
    | with_reducible refine Kept.upd0 ?_ ?_ ?_ ?_ ?_ ?_)

end Sys2Proof.Machine
end

