-- ==== Sys2Proof/Laws/KeptStreams.lean ====
section
/-! SUPPORT. Every operation of Machine/Streams.lean keeps what no command may change. -/

namespace Sys2Proof.Machine

set_option linter.all false

theorem State.updStrm_kept {s0 : State} (s : State) (sid : Nat) (f : Strm → Strm) (hk : Kept s0 s) : Kept s0 (State.updStrm s sid f) := by
  unfold State.updStrm
  repeat' (first
    | with_reducible assumption
    | with_reducible rfl
    | with_reducible exact fun h => h
    | dsimp only
    | split
    | with_reducible refine Kept.upd0 ?_ ?_ ?_ ?_ ?_ ?_)

theorem State.feSync_kept {s0 : State} (s : State) (k : Nat) (hk : Kept s0 s) : Kept s0 (State.feSync s k) := by
  unfold State.feSync
  repeat' (first
    | with_reducible assumption
    | with_reducible apply State.wr_kept
    | with_reducible rfl
    | with_reducible exact fun h => h
    | dsimp only
    | split)

theorem State.startPkt_kept {s0 : State} (s : State) (sid pid : Nat) (hk : Kept s0 s) : Kept s0 (State.startPkt s sid pid) := by
  unfold State.startPkt
  repeat' (first
    | with_reducible assumption
    | with_reducible apply State.countN_kept
    | with_reducible apply State.feSync_kept
    | with_reducible apply State.updStrm_kept
    | with_reducible apply State.count_kept
    | with_reducible rfl
    | with_reducible exact fun h => h
    | dsimp only
    | split
    | with_reducible refine Kept.upd0 ?_ ?_ ?_ ?_ ?_ ?_)

theorem State.donePkt_kept {s0 : State} (s : State) (sid pid : Nat) (hk : Kept s0 s) : Kept s0 (State.donePkt s sid pid) := by
  unfold State.donePkt
  repeat' (first
    | with_reducible assumption
    | with_reducible apply State.feSync_kept
    | with_reducible apply State.updStrm_kept
    | with_reducible rfl
    | with_reducible exact fun h => h
    | dsimp only
    | split
    | with_reducible refine Kept.upd0 ?_ ?_ ?_ ?_ ?_ ?_)

theorem State.queueFault_kept {s0 : State} (s : State) (sid code seq : Nat) (hk : Kept s0 s) : Kept s0 (State.queueFault s sid code seq) := by
  unfold State.queueFault
  repeat' (first
    | with_reducible assumption
    | with_reducible apply State.feSync_kept
    | with_reducible apply State.updStrm_kept
    | with_reducible rfl
    | with_reducible exact fun h => h
    | dsimp only
    | split
    | with_reducible refine Kept.upd0 ?_ ?_ ?_ ?_ ?_ ?_)

theorem State.pktFault_kept {s0 : State} (s : State) (sid code pid : Nat) (hk : Kept s0 s) : Kept s0 (State.pktFault s sid code pid) := by
  unfold State.pktFault
  repeat' (first
    | with_reducible assumption
    | with_reducible apply State.queueFault_kept
    | with_reducible apply State.feSync_kept
    | with_reducible apply State.updStrm_kept
    | with_reducible rfl
    | with_reducible exact fun h => h
    | dsimp only
    | split
    | with_reducible refine Kept.upd0 ?_ ?_ ?_ ?_ ?_ ?_)

theorem State.tdBegin_kept {s0 : State} (s : State) (c : Nat) (t : Teardown) (hk : Kept s0 s) : Kept s0 (State.tdBegin s c t) := by
  unfold State.tdBegin
  repeat' (first
    | with_reducible assumption
    | with_reducible apply State.feSync_kept
    | with_reducible apply State.wr_kept
    | with_reducible refine Kept.foldl ?_ (fun _ _ _ => ?_)
    | with_reducible refine Kept.foldl1 ?_ (fun _ _ _ _ => ?_)
    | with_reducible refine Kept.foldl2 ?_ (fun _ _ _ _ => ?_)
    | with_reducible refine Kept.of_eq1 ?_ (by assumption)
    | with_reducible refine Kept.of_eq2 ?_ (by assumption)
    | with_reducible rfl
    | with_reducible exact fun h => h
    | dsimp only
    | with_reducible apply Kept.ite
    | split
    | with_reducible refine Kept.upd0 ?_ ?_ ?_ ?_ ?_ ?_)

theorem State.tdPoison_kept {s0 : State} (s : State) (c t : Nat) (hk : Kept s0 s) : Kept s0 (State.tdPoison s c t) := by
  unfold State.tdPoison
  repeat' (first
    | with_reducible assumption
    | with_reducible refine Kept.foldl ?_ (fun _ _ _ => ?_)
    | with_reducible refine Kept.foldl1 ?_ (fun _ _ _ _ => ?_)
    | with_reducible refine Kept.foldl2 ?_ (fun _ _ _ _ => ?_)
    | with_reducible refine Kept.of_eq1 ?_ (by assumption)
    | with_reducible refine Kept.of_eq2 ?_ (by assumption)
    | with_reducible rfl
    | with_reducible exact fun h => h
    | dsimp only
    | with_reducible apply Kept.ite
    | with_reducible apply Kept.ite1
    | with_reducible apply Kept.ite2
    | with_reducible apply KeptO.ite
    | split
    | with_reducible refine Kept.upd0 ?_ ?_ ?_ ?_ ?_ ?_
    | with_reducible refine Kept.upd1 ?_ ?_ ?_ ?_ ?_ ?_)

theorem State.ctxFault_kept {s0 : State} (s : State) (c code : Nat) (inc : Nat) (engine : Nat) (detail : List Byte) (hk : Kept s0 s) : Kept s0 (State.ctxFault s c code inc engine detail) := by
  unfold State.ctxFault
  repeat' (first
    | with_reducible assumption
    | with_reducible apply State.tdBegin_kept
    | with_reducible rfl
    | with_reducible exact fun h => h
    | dsimp only
    | with_reducible apply Kept.ite
    | split)

end Sys2Proof.Machine
end

