-- ==== Sys2Proof/Laws/KeptTally.lean ====
section
/-! SUPPORT. Every operation of Machine/Tally.lean keeps what no command may change. -/

namespace Sys2Proof.Machine

set_option linter.all false

theorem State.updGrp_kept {s0 : State} (s : State) (g : Nat) (f : Grp → Grp) (hk : Kept s0 s) : Kept s0 (State.updGrp s g f) := by
  unfold State.updGrp
  repeat' (first
    | with_reducible assumption
    | with_reducible rfl
    | with_reducible exact fun h => h
    | dsimp only
    | split
    | with_reducible refine Kept.upd0 ?_ ?_ ?_ ?_ ?_ ?_)

theorem State.waitSync_kept {s0 : State} (s : State) (t : Nat) (hk : Kept s0 s) : Kept s0 (State.waitSync s t) := by
  unfold State.waitSync
  repeat' (first
    | with_reducible assumption
    | with_reducible apply State.fl_kept
    | with_reducible apply State.wr_kept
    | with_reducible rfl
    | with_reducible exact fun h => h
    | dsimp only
    | split)

theorem State.dropWait_kept {s0 : State} (s : State) (w : TWait) (hk : Kept s0 s) : Kept s0 (State.dropWait s w) := by
  unfold State.dropWait
  repeat' (first
    | with_reducible assumption
    | with_reducible apply State.waitSync_kept
    | with_reducible apply State.wr_kept
    | with_reducible rfl
    | with_reducible exact fun h => h
    | dsimp only
    | with_reducible apply Kept.ite
    | split
    | with_reducible refine Kept.upd0 ?_ ?_ ?_ ?_ ?_ ?_)

theorem State.wakeWaiter_kept {s0 : State} (s : State) (who : Waiter) (poisoned : Bool) (hk : Kept s0 s) : Kept s0 (State.wakeWaiter s who poisoned) := by
  unfold State.wakeWaiter
  repeat' (first
    | with_reducible assumption
    | with_reducible apply State.pend_kept
    | with_reducible apply State.updGrp_kept
    | with_reducible apply State.pktFault_kept
    | with_reducible apply State.donePkt_kept
    | with_reducible apply State.updStrm_kept
    | with_reducible apply State.fl_kept
    | with_reducible apply id_kept
    | with_reducible rfl
    | with_reducible exact fun h => h
    | dsimp only
    | with_reducible apply Kept.ite
    | split
    | with_reducible refine Kept.upd0 ?_ ?_ ?_ ?_ ?_ ?_)

theorem State.settle_kept {s0 : State} (s : State) (t : Nat) (hk : Kept s0 s) : Kept s0 (State.settle s t) := by
  unfold State.settle
  repeat' (first
    | with_reducible assumption
    | with_reducible apply State.wakeWaiter_kept
    | with_reducible apply State.dropWait_kept
    | with_reducible refine Kept.foldl ?_ (fun _ _ _ => ?_)
    | with_reducible refine Kept.foldl1 ?_ (fun _ _ _ _ => ?_)
    | with_reducible refine Kept.foldl2 ?_ (fun _ _ _ _ => ?_)
    | with_reducible refine Kept.of_eq1 ?_ (by assumption)
    | with_reducible refine Kept.of_eq2 ?_ (by assumption)
    | with_reducible rfl
    | with_reducible exact fun h => h
    | dsimp only
    | split)

theorem State.mirrorOut_kept {s0 : State} (s : State) (t : Nat) (hk : Kept s0 s) : Kept s0 (State.mirrorOut s t) := by
  unfold State.mirrorOut
  repeat' (first
    | with_reducible assumption
    | with_reducible apply State.emit_kept
    | with_reducible refine Kept.foldl ?_ (fun _ _ _ => ?_)
    | with_reducible refine Kept.foldl1 ?_ (fun _ _ _ _ => ?_)
    | with_reducible refine Kept.foldl2 ?_ (fun _ _ _ _ => ?_)
    | with_reducible refine Kept.of_eq1 ?_ (by assumption)
    | with_reducible refine Kept.of_eq2 ?_ (by assumption)
    | with_reducible rfl
    | with_reducible exact fun h => h
    | dsimp only
    | split
    | with_reducible refine Kept.upd0 ?_ ?_ ?_ ?_ ?_ ?_)

theorem State.heapSync_kept {s0 : State} (s : State) (p : Nat) (hk : Kept s0 s) : Kept s0 (State.heapSync s p) := by
  unfold State.heapSync
  repeat' (first
    | with_reducible assumption
    | with_reducible apply State.wr_kept
    | with_reducible rfl
    | with_reducible exact fun h => h
    | dsimp only
    | split)

theorem State.quarRelease_kept {s0 : State} (s : State) (t : Nat) (hk : Kept s0 s) : Kept s0 (State.quarRelease s t) := by
  unfold State.quarRelease
  repeat' (first
    | with_reducible assumption
    | with_reducible apply State.heapSync_kept
    | with_reducible refine Kept.foldl ?_ (fun _ _ _ => ?_)
    | with_reducible refine Kept.foldl1 ?_ (fun _ _ _ _ => ?_)
    | with_reducible refine Kept.foldl2 ?_ (fun _ _ _ _ => ?_)
    | with_reducible refine Kept.of_eq1 ?_ (by assumption)
    | with_reducible refine Kept.of_eq2 ?_ (by assumption)
    | with_reducible rfl
    | with_reducible exact fun h => h
    | dsimp only
    | with_reducible apply Kept.ite
    | split
    | with_reducible refine Kept.upd0 ?_ ?_ ?_ ?_ ?_ ?_)

theorem State.exportLost_kept {s0 : State} (s : State) (hk : Kept s0 s) : Kept s0 (State.exportLost s) := by
  unfold State.exportLost
  repeat' (first
    | with_reducible assumption
    | with_reducible apply State.count_kept
    | with_reducible apply State.raise_kept
    | with_reducible rfl
    | with_reducible exact fun h => h
    | dsimp only
    | split)

theorem State.exportErr_kept {s0 : State} (s : State) (t : Nat) (hk : Kept s0 s) : Kept s0 (State.exportErr s t) := by
  unfold State.exportErr
  repeat' (first
    | with_reducible assumption
    | with_reducible apply State.exportLost_kept
    | with_reducible refine Kept.foldl ?_ (fun _ _ _ => ?_)
    | with_reducible refine Kept.foldl1 ?_ (fun _ _ _ _ => ?_)
    | with_reducible refine Kept.foldl2 ?_ (fun _ _ _ _ => ?_)
    | with_reducible refine Kept.of_eq1 ?_ (by assumption)
    | with_reducible refine Kept.of_eq2 ?_ (by assumption)
    | with_reducible rfl
    | with_reducible exact fun h => h
    | dsimp only
    | with_reducible apply Kept.ite
    | with_reducible apply Kept.ite1
    | with_reducible apply Kept.ite2
    | with_reducible apply KeptO.ite
    | split
    | with_reducible refine Kept.upd0 ?_ ?_ ?_ ?_ ?_ ?_
    | with_reducible refine Kept.upd1 ?_ ?_ ?_ ?_ ?_ ?_)

theorem State.exportOne_kept {s0 : State} (s : State) (t : Nat) (hk : Kept s0 s) : Kept s0 (State.exportOne s t).1 := by
  unfold State.exportOne
  repeat' (first
    | with_reducible assumption
    | with_reducible apply State.exportErr_kept
    | with_reducible apply State.exportLost_kept
    | with_reducible apply State.physWrite_kept
    | with_reducible apply State.notifyVec_kept
    | with_reducible apply State.msi_kept
    | with_reducible apply State.linkDrop_kept
    | with_reducible apply State.emit_kept
    | with_reducible refine Kept.of_eq1 ?_ (by assumption)
    | with_reducible rfl
    | with_reducible exact fun h => h
    | exact Memory.wf_filter _
    | exact Memory.wf_zero _ _
    | exact Memory.wf_writeMask _ _ _
    | exact Memory.wf_write _ _
    | dsimp only
    | with_reducible apply Kept.ite
    | with_reducible apply Kept.ite1
    | with_reducible apply Kept.ite2
    | split)

theorem State.setTally_kept {s0 : State} (s : State) (t v : Nat) (hk : Kept s0 s) : Kept s0 (State.setTally s t v).1 := by
  unfold State.setTally
  repeat' (first
    | with_reducible assumption
    | with_reducible apply State.exportOne_kept
    | with_reducible apply State.quarRelease_kept
    | with_reducible apply State.mirrorOut_kept
    | with_reducible apply State.settle_kept
    | with_reducible apply State.raise_kept
    | with_reducible apply State.fl_kept
    | with_reducible apply State.wr_kept
    | with_reducible refine Kept.of_eq1 ?_ (by assumption)
    | with_reducible rfl
    | with_reducible exact fun h => h
    | dsimp only
    | with_reducible apply Kept.ite
    | with_reducible apply Kept.ite1
    | with_reducible apply Kept.ite2
    | split)

theorem State.regress_kept {s0 : State} (s : State) (t v : Nat) (hk : Kept s0 s) : Kept s0 (State.regress s t v) := by
  unfold State.regress
  repeat' (first
    | with_reducible assumption
    | with_reducible apply State.count_kept
    | with_reducible apply State.raise_kept
    | with_reducible apply State.wr_kept
    | with_reducible rfl
    | with_reducible exact fun h => h
    | dsimp only
    | split)

theorem State.signalStep_kept {s0 : State} (s : State) (t v base : Nat) (pz : Bool) (hk : Kept s0 s) : Kept s0 (State.signalStep s t v base pz).1 := by
  unfold State.signalStep
  repeat' (first
    | with_reducible assumption
    | with_reducible apply State.regress_kept
    | with_reducible apply State.setTally_kept
    | with_reducible apply State.pmu_kept
    | with_reducible refine Kept.of_eq1 ?_ (by assumption)
    | with_reducible rfl
    | with_reducible exact fun h => h
    | dsimp only
    | with_reducible apply Kept.ite
    | with_reducible apply Kept.ite1
    | with_reducible apply Kept.ite2
    | split)

theorem State.signalChain_kept {s0 : State}  (fuel : Nat) (x1 : State) (t : Nat) (v : Nat) (pz : Bool) (hk : Kept s0 x1) : Kept s0 (State.signalChain fuel x1 t v pz) := by
  induction fuel generalizing x1 t v pz with
  | zero =>
    unfold State.signalChain
    repeat' (first
      | with_reducible assumption
      | with_reducible apply State.signalStep_kept
      | with_reducible refine Kept.of_eq1 ?_ (by assumption)
      | with_reducible rfl
      | with_reducible exact fun h => h
      | dsimp only
      | split
      | with_reducible refine Kept.upd0 ?_ ?_ ?_ ?_ ?_ ?_)
  | succ f ih =>
    unfold State.signalChain
    repeat' (first
      | with_reducible assumption
      | with_reducible apply ih
      | with_reducible apply State.signalStep_kept
      | with_reducible refine Kept.of_eq1 ?_ (by assumption)
      | with_reducible rfl
      | with_reducible exact fun h => h
      | dsimp only
      | split
      | with_reducible refine Kept.upd0 ?_ ?_ ?_ ?_ ?_ ?_)

theorem State.signal_kept {s0 : State} (s : State) (t v : Nat) (hk : Kept s0 s) : Kept s0 (State.signal s t v) := by
  unfold State.signal
  repeat' (first
    | with_reducible assumption
    | with_reducible apply State.signalChain_kept
    | with_reducible rfl
    | with_reducible exact fun h => h
    | dsimp only
    | split)

theorem State.poisonTally_kept {s0 : State} (s : State) (t : Nat) (hk : Kept s0 s) : Kept s0 (State.poisonTally s t) := by
  unfold State.poisonTally
  repeat' (first
    | with_reducible assumption
    | with_reducible apply State.signalChain_kept
    | with_reducible rfl
    | with_reducible exact fun h => h
    | dsimp only
    | split)

theorem State.signalMany_kept {s0 : State} (s : State) (t : Nat) (vs : List Nat) (hk : Kept s0 s) : Kept s0 (State.signalMany s t vs) := by
  unfold State.signalMany
  repeat' (first
    | with_reducible assumption
    | with_reducible apply State.signalChain_kept
    | with_reducible apply State.signalStep_kept
    | with_reducible refine Kept.foldl ?_ (fun _ _ _ => ?_)
    | with_reducible refine Kept.of_eq1 ?_ (by assumption)
    | with_reducible refine Kept.foldl1 ?_ (fun _ _ _ _ => ?_)
    | with_reducible refine Kept.foldl2 ?_ (fun _ _ _ _ => ?_)
    | with_reducible refine Kept.of_eq2 ?_ (by assumption)
    | with_reducible rfl
    | with_reducible exact fun h => h
    | dsimp only
    | split
    | with_reducible refine Kept.upd0 ?_ ?_ ?_ ?_ ?_ ?_)

theorem State.initTally_kept {s0 : State} (s : State) (t v : Nat) (hk : Kept s0 s) : Kept s0 (State.initTally s t v) := by
  unfold State.initTally
  repeat' (first
    | with_reducible assumption
    | with_reducible apply State.signalChain_kept
    | with_reducible apply State.setTally_kept
    | with_reducible apply State.fl_kept
    | with_reducible apply State.wr_kept
    | with_reducible refine Kept.of_eq1 ?_ (by assumption)
    | with_reducible rfl
    | with_reducible exact fun h => h
    | dsimp only
    | split
    | with_reducible refine Kept.upd0 ?_ ?_ ?_ ?_ ?_ ?_)

theorem State.pushWait_kept {s0 : State} (s : State) (w : TWait) (hk : Kept s0 s) : Kept s0 (State.pushWait s w) := by
  unfold State.pushWait
  repeat' (first
    | with_reducible assumption
    | with_reducible apply State.waitSync_kept
    | with_reducible rfl
    | with_reducible exact fun h => h
    | dsimp only
    | split
    | with_reducible refine Kept.upd0 ?_ ?_ ?_ ?_ ?_ ?_)

theorem State.addWait_kept {s0 : State} (s : State) (t target : Nat) (who : Waiter) (hk : Kept s0 s) : Kept s0 (State.addWait s t target who).1 := by
  unfold State.addWait
  repeat' (first
    | with_reducible assumption
    | with_reducible apply State.pushWait_kept
    | with_reducible apply State.pmu_kept
    | with_reducible apply State.count_kept
    | with_reducible apply State.raise_kept
    | with_reducible apply State.free_kept
    | with_reducible apply State.wr_kept
    | with_reducible refine Kept.of_eq1 ?_ (by assumption)
    | with_reducible refine Kept.of_eq2 ?_ (by assumption)
    | with_reducible rfl
    | with_reducible exact fun h => h
    | dsimp only
    | with_reducible apply Kept.ite
    | with_reducible apply Kept.ite1
    | with_reducible apply Kept.ite2
    | split
    | with_reducible refine Kept.upd0 ?_ ?_ ?_ ?_ ?_ ?_)

theorem State.dropWaits_kept {s0 : State} (s : State) (who : Waiter) (hk : Kept s0 s) : Kept s0 (State.dropWaits s who) := by
  unfold State.dropWaits
  repeat' (first
    | with_reducible assumption
    | with_reducible apply State.dropWait_kept
    | with_reducible refine Kept.foldl ?_ (fun _ _ _ => ?_)
    | with_reducible refine Kept.foldl1 ?_ (fun _ _ _ _ => ?_)
    | with_reducible refine Kept.foldl2 ?_ (fun _ _ _ _ => ?_)
    | with_reducible refine Kept.of_eq1 ?_ (by assumption)
    | with_reducible refine Kept.of_eq2 ?_ (by assumption)
    | with_reducible rfl
    | with_reducible exact fun h => h
    | dsimp only
    | split)

theorem State.paRead_kept {s0 : State} (s : State) (pa n cache : Nat) (hk : Kept s0 s) : Kept s0 (State.paRead s pa n cache).1 := by
  unfold State.paRead
  repeat' (first
    | with_reducible assumption
    | with_reducible apply State.physRead_kept
    | with_reducible refine Kept.of_eq1 ?_ (by assumption)
    | with_reducible rfl
    | with_reducible exact fun h => h
    | dsimp only
    | with_reducible apply Kept.ite
    | with_reducible apply Kept.ite1
    | with_reducible apply Kept.ite2
    | split)

theorem State.paWrite_kept {s0 : State} (s : State) (pa cache : Nat) (bs : List Byte) (hk : Kept s0 s) : Kept s0 (State.paWrite s pa cache bs).1 := by
  unfold State.paWrite
  repeat' (first
    | with_reducible assumption
    | with_reducible apply State.signal_kept
    | with_reducible apply State.physWrite_kept
    | with_reducible refine Kept.of_eq1 ?_ (by assumption)
    | with_reducible rfl
    | with_reducible exact fun h => h
    | dsimp only
    | with_reducible apply Kept.ite
    | with_reducible apply Kept.ite1
    | with_reducible apply Kept.ite2
    | split)

end Sys2Proof.Machine
end

