-- ==== Sys2Proof/Laws/KeptMmu.lean ====
section
/-! SUPPORT. Every operation of Machine/Mmu.lean keeps what no command may change. -/

namespace Sys2Proof.Machine

set_option linter.all false

theorem State.walkFill_kept {s0 : State} (s : State) (w : WalkE) (hk : Kept s0 s) : Kept s0 (State.walkFill s w) := by
  unfold State.walkFill
  repeat' (first
    | with_reducible assumption
    | with_reducible refine Kept.foldl ?_ (fun _ _ _ => ?_)
    | with_reducible refine Kept.foldl1 ?_ (fun _ _ _ _ => ?_)
    | with_reducible refine Kept.foldl2 ?_ (fun _ _ _ _ => ?_)
    | with_reducible refine Kept.of_eq1 ?_ (by assumption)
    | with_reducible refine Kept.of_eq2 ?_ (by assumption)
    | with_reducible rfl
    | with_reducible exact fun h => h
    | dsimp only
    | with_reducible apply Kept.ite
    | with_reducible apply Kept.ite1
    | with_reducible apply Kept.ite2
    | with_reducible apply KeptO.ite
    | split
    | with_reducible refine Kept.upd0 ?_ ?_ ?_ ?_ ?_ ?_
    | with_reducible refine Kept.upd1 ?_ ?_ ?_ ?_ ?_ ?_)

theorem State.walkFrom_kept {s0 : State} (s : State) (c va : Nat) (lvl : Nat) (table : Nat) (hk : Kept s0 s) : Kept s0 (State.walkFrom s c va lvl table).1 := by
  induction lvl generalizing s table with
  | zero =>
    unfold State.walkFrom
    repeat' (first
      | with_reducible assumption
      | with_reducible apply State.walkFill_kept
      | with_reducible apply State.physRead_kept
      | with_reducible apply State.count_kept
      | with_reducible apply State.raise_kept
      | with_reducible refine Kept.of_eq1 ?_ (by assumption)
      | with_reducible rfl
      | with_reducible exact fun h => h
      | dsimp only
      | with_reducible apply Kept.ite
      | with_reducible apply Kept.ite1
      | with_reducible apply Kept.ite2
      | split
      | with_reducible refine Kept.upd0 ?_ ?_ ?_ ?_ ?_ ?_)
  | succ f ih =>
    unfold State.walkFrom
    repeat' (first
      | with_reducible assumption
      | with_reducible apply ih
      | with_reducible apply State.walkFill_kept
      | with_reducible apply State.physRead_kept
      | with_reducible apply State.count_kept
      | with_reducible apply State.raise_kept
      | with_reducible refine Kept.of_eq1 ?_ (by assumption)
      | with_reducible rfl
      | with_reducible exact fun h => h
      | dsimp only
      | with_reducible apply Kept.ite
      | with_reducible apply Kept.ite1
      | with_reducible apply Kept.ite2
      | split
      | with_reducible refine Kept.upd0 ?_ ?_ ?_ ?_ ?_ ?_)

theorem State.walk_kept {s0 : State} (s : State) (c va : Nat) (hk : Kept s0 s) : Kept s0 (State.walk s c va).1 := by
  unfold State.walk
  repeat' (first
    | with_reducible assumption
    | with_reducible apply State.walkFrom_kept
    | with_reducible apply State.count_kept
    | with_reducible refine Kept.of_eq1 ?_ (by assumption)
    | with_reducible rfl
    | with_reducible exact fun h => h
    | dsimp only
    | with_reducible apply Kept.ite
    | with_reducible apply Kept.ite1
    | with_reducible apply Kept.ite2
    | split
    | with_reducible refine Kept.upd0 ?_ ?_ ?_ ?_ ?_ ?_)

theorem State.tlbFill_kept {s0 : State} (s : State) (e : TlbE) (hk : Kept s0 s) : Kept s0 (State.tlbFill s e) := by
  unfold State.tlbFill
  repeat' (first
    | with_reducible assumption
    | with_reducible rfl
    | with_reducible exact fun h => h
    | dsimp only
    | split
    | with_reducible refine Kept.upd0 ?_ ?_ ?_ ?_ ?_ ?_)

theorem State.tlbGet_kept {s0 : State} (s : State) (c va : Nat) (ks : List Nat) (hk : Kept s0 s) :
    Kept s0 (State.tlbGet s c va ks).1 := by
  induction ks with
  | nil => exact hk
  | cons k r ih =>
    unfold State.tlbGet
    split
    · exact hk
    · split
      · rename_i h
        exact State.tlbFill_kept _ _ (by rw [h] at ih; exact ih)
      · exact ih

theorem State.mmuFault_kept {s0 : State} (s : State) (c va code acc lvl eng : Nat) (inc : Nat) (hk : Kept s0 s) : Kept s0 (State.mmuFault s c va code acc lvl eng inc) := by
  unfold State.mmuFault
  repeat' (first
    | with_reducible assumption
    | with_reducible apply State.ctxFault_kept
    | with_reducible apply State.count_kept
    | with_reducible apply State.wr_kept
    | with_reducible rfl
    | with_reducible exact fun h => h
    | dsimp only
    | with_reducible apply Kept.ite
    | split)

theorem State.walkFault_kept {s0 : State} (s : State) (c va code acc lvl eng : Nat) (hk : Kept s0 s) : Kept s0 (State.walkFault s c va code acc lvl eng) := by
  unfold State.walkFault
  repeat' (first
    | with_reducible assumption
    | with_reducible apply State.incident_kept
    | with_reducible apply State.mmuFault_kept
    | with_reducible refine Kept.foldl ?_ (fun _ _ _ => ?_)
    | with_reducible refine Kept.foldl1 ?_ (fun _ _ _ _ => ?_)
    | with_reducible refine Kept.foldl2 ?_ (fun _ _ _ _ => ?_)
    | with_reducible refine Kept.of_eq1 ?_ (by assumption)
    | with_reducible refine Kept.of_eq2 ?_ (by assumption)
    | with_reducible rfl
    | with_reducible exact fun h => h
    | dsimp only
    | with_reducible apply Kept.ite
    | with_reducible apply Kept.ite1
    | with_reducible apply Kept.ite2
    | with_reducible apply KeptO.ite
    | split
    | with_reducible refine Kept.upd0 ?_ ?_ ?_ ?_ ?_ ?_
    | with_reducible refine Kept.upd1 ?_ ?_ ?_ ?_ ?_ ?_)

theorem State.lookup_kept {s0 : State} (s : State) (c va acc eng : Nat) (hk : Kept s0 s) : Kept s0 (State.lookup s c va acc eng).1 := by
  unfold State.lookup
  repeat' (first
    | with_reducible assumption
    | with_reducible apply State.tlbGet_kept
    | with_reducible apply State.walkFault_kept
    | with_reducible apply State.mmuFault_kept
    | with_reducible apply State.tlbFill_kept
    | with_reducible apply State.walk_kept
    | with_reducible refine Kept.of_eq1 ?_ (by assumption)
    | with_reducible refine Kept.foldl ?_ (fun _ _ _ => ?_)
    | with_reducible rfl
    | with_reducible exact fun h => h
    | dsimp only
    | with_reducible apply Kept.ite
    | with_reducible apply Kept.ite1
    | with_reducible apply Kept.ite2
    | split
    | with_reducible refine Kept.upd0 ?_ ?_ ?_ ?_ ?_ ?_)

theorem State.translate_kept {s0 : State} (s : State) (c va acc eng : Nat) (hk : Kept s0 s) : Kept s0 (State.translate s c va acc eng).1 := by
  unfold State.translate
  repeat' (first
    | with_reducible assumption
    | with_reducible apply State.lookup_kept
    | with_reducible apply State.mmuFault_kept
    | with_reducible refine Kept.of_eq1 ?_ (by assumption)
    | with_reducible rfl
    | with_reducible exact fun h => h
    | dsimp only
    | with_reducible apply Kept.ite
    | with_reducible apply Kept.ite1
    | with_reducible apply Kept.ite2
    | split
    | with_reducible refine Kept.upd0 ?_ ?_ ?_ ?_ ?_ ?_)

theorem State.accFault_kept {s0 : State} (s : State) (c e eng : Nat) (va acc : Nat) (hk : Kept s0 s) : Kept s0 (State.accFault s c e eng va acc) := by
  unfold State.accFault
  repeat' (first
    | with_reducible assumption
    | with_reducible apply State.mmuFault_kept
    | with_reducible apply State.ctxFault_kept
    | with_reducible apply State.incident_kept
    | with_reducible refine Kept.of_eq2 ?_ (by assumption)
    | with_reducible rfl
    | with_reducible exact fun h => h
    | dsimp only
    | with_reducible apply Kept.ite
    | with_reducible apply Kept.ite1
    | with_reducible apply Kept.ite2
    | split)

theorem State.vread_kept {s0 : State} (s : State) (c eng va n : Nat) (acc : Nat) (hk : Kept s0 s) : Kept s0 (State.vread s c eng va n acc).1 := by
  unfold State.vread
  repeat' (first
    | with_reducible assumption
    | with_reducible apply State.accFault_kept
    | with_reducible apply State.translate_kept
    | with_reducible apply State.paRead_kept
    | with_reducible refine Kept.foldl ?_ (fun _ _ _ => ?_)
    | with_reducible refine Kept.of_eq1 ?_ (by assumption)
    | with_reducible refine Kept.foldl1 ?_ (fun _ _ _ _ => ?_)
    | with_reducible refine Kept.foldl2 ?_ (fun _ _ _ _ => ?_)
    | with_reducible refine Kept.of_eq2 ?_ (by assumption)
    | with_reducible rfl
    | with_reducible exact fun h => h
    | dsimp only
    | split
    | with_reducible refine Kept.upd0 ?_ ?_ ?_ ?_ ?_ ?_)

theorem State.onRead_kept {α : Type} {s0 : State} (r : State × Option α) (f : State → α → State) (h : Kept s0 r.1)
    (hf : ∀ t b, Kept s0 t → Kept s0 (f t b)) : Kept s0 (State.onRead r f) := by
  unfold State.onRead
  split
  · exact h
  · exact hf _ _ h

theorem State.onOk_kept {s0 : State} (r : State × Bool) (f : State → State) (h : Kept s0 r.1)
    (hf : ∀ t, Kept s0 t → Kept s0 (f t)) : Kept s0 (State.onOk r f) := by
  unfold State.onOk
  split
  · exact hf _ h
  · exact h

theorem State.vwrite_kept {s0 : State} (s : State) (c eng va : Nat) (bs : List Byte) (hk : Kept s0 s) : Kept s0 (State.vwrite s c eng va bs).1 := by
  unfold State.vwrite
  repeat' (first
    | with_reducible assumption
    | with_reducible apply State.accFault_kept
    | with_reducible apply State.translate_kept
    | with_reducible apply State.paWrite_kept
    | with_reducible refine Kept.foldl ?_ (fun _ _ _ => ?_)
    | with_reducible refine Kept.of_eq1 ?_ (by assumption)
    | with_reducible refine Kept.foldl1 ?_ (fun _ _ _ _ => ?_)
    | with_reducible refine Kept.foldl2 ?_ (fun _ _ _ _ => ?_)
    | with_reducible refine Kept.of_eq2 ?_ (by assumption)
    | with_reducible rfl
    | with_reducible exact fun h => h
    | dsimp only
    | split
    | with_reducible refine Kept.upd0 ?_ ?_ ?_ ?_ ?_ ?_)

theorem State.vreadN_kept {s0 : State} (s : State) (c eng va n : Nat) (hk : Kept s0 s) : Kept s0 (State.vreadN s c eng va n).1 := by
  unfold State.vreadN
  repeat' (first
    | with_reducible assumption
    | with_reducible apply State.vread_kept
    | with_reducible refine Kept.of_eq1 ?_ (by assumption)
    | with_reducible rfl
    | with_reducible exact fun h => h
    | dsimp only
    | split
    | with_reducible refine Kept.upd0 ?_ ?_ ?_ ?_ ?_ ?_)

theorem State.invDrop_kept {s0 : State} (s : State) (i : Inv) (p : Nat → Bool) (hk : Kept s0 s) : Kept s0 (State.invDrop s i p) := by
  unfold State.invDrop
  repeat' (first
    | with_reducible assumption
    | with_reducible rfl
    | with_reducible exact fun h => h
    | dsimp only
    | with_reducible apply Kept.ite
    | split
    | with_reducible refine Kept.upd0 ?_ ?_ ?_ ?_ ?_ ?_)

theorem State.invSync_kept {s0 : State} (s : State) (hk : Kept s0 s) : Kept s0 (State.invSync s) := by
  unfold State.invSync
  repeat' (first
    | with_reducible assumption
    | with_reducible apply State.wrs_kept
    | with_reducible rfl
    | with_reducible exact fun h => h
    | dsimp only
    | split)

theorem State.invDevice_kept {s0 : State} (s : State) (i : Inv) (hk : Kept s0 s) : Kept s0 (State.invDevice s i) := by
  unfold State.invDevice
  repeat' (first
    | with_reducible assumption
    | with_reducible rfl
    | with_reducible exact fun h => h
    | dsimp only
    | split
    | with_reducible refine Kept.upd0 ?_ ?_ ?_ ?_ ?_ ?_)

end Sys2Proof.Machine
end

