-- ==== Sys2Proof/Laws/KeptStartBy.lean ====
section
/-! SUPPORT. Every operation of Machine/StartBy.lean keeps what no command may change. -/

namespace Sys2Proof.Machine

set_option linter.all false

theorem State.platSync_kept {s0 : State} (s : State) (hk : Kept s0 s) : Kept s0 (State.platSync s) := by
  unfold State.platSync
  repeat' (first
    | with_reducible assumption
    | with_reducible apply State.wr_kept
    | with_reducible rfl
    | with_reducible exact fun h => h
    | dsimp only
    | split)

theorem State.rtNew_kept {s0 : State} (s : State) (q : Nat) (hk : Kept s0 s) : Kept s0 (State.rtNew s q) := by
  unfold State.rtNew
  repeat' (first
    | with_reducible assumption
    | with_reducible apply State.wr_kept
    | with_reducible rfl
    | with_reducible exact fun h => h
    | dsimp only
    | with_reducible apply Kept.ite
    | split
    | with_reducible refine Kept.upd0 ?_ ?_ ?_ ?_ ?_ ?_)

theorem State.rtJoin_kept {s0 : State} (s : State) (q : Nat) (hk : Kept s0 s) : Kept s0 (State.rtJoin s q) := by
  unfold State.rtJoin
  repeat' (first
    | with_reducible assumption
    | with_reducible apply State.rtNew_kept
    | with_reducible rfl
    | with_reducible exact fun h => h
    | dsimp only
    | with_reducible apply Kept.ite
    | split
    | with_reducible refine Kept.upd0 ?_ ?_ ?_ ?_ ?_ ?_)

end Sys2Proof.Machine
end

