-- ==== Sys2Proof/Laws/KeptQueues.lean ====
section
/-! SUPPORT. Every operation of Machine/Queues.lean keeps what no command may change. -/

namespace Sys2Proof.Machine

set_option linter.all false

theorem State.rtOpen_kept {s0 : State} (s : State) (q : Nat) (hk : Kept s0 s) : Kept s0 (State.rtOpen s q) := by
  unfold State.rtOpen
  repeat' (first
    | with_reducible assumption
    | with_reducible apply State.trace_kept
    | with_reducible apply State.wr_kept
    | with_reducible rfl
    | with_reducible exact fun h => h
    | dsimp only
    | with_reducible apply Kept.ite
    | split
    | with_reducible refine Kept.upd0 ?_ ?_ ?_ ?_ ?_ ?_)

theorem State.doorbell_kept {s0 : State} (s : State) (func c slot value : Nat) (hk : Kept s0 s) : Kept s0 (State.doorbell s func c slot value) := by
  unfold State.doorbell
  repeat' (first
    | with_reducible assumption
    | with_reducible apply State.rtOpen_kept
    | with_reducible apply State.queueFault_kept
    | with_reducible apply State.feSync_kept
    | with_reducible apply State.updStrm_kept
    | with_reducible apply State.count_kept
    | with_reducible apply State.raise_kept
    | with_reducible apply State.fl_kept
    | with_reducible apply State.wr_kept
    | with_reducible rfl
    | with_reducible exact fun h => h
    | dsimp only
    | with_reducible apply Kept.ite
    | with_reducible apply KeptO.ite
    | split
    | with_reducible refine Kept.upd0 ?_ ?_ ?_ ?_ ?_ ?_)

theorem execDoorbell_kept {s0 : State} (func c slot value : Nat) (s : State) (hk : Kept s0 s) : KeptO s0 (execDoorbell func c slot value s) := by
  unfold execDoorbell
  repeat' (first
    | with_reducible assumption
    | with_reducible apply Kept.next
    | with_reducible apply State.doorbell_kept
    | with_reducible apply State.wakeAccess_kept
    | with_reducible rfl
    | with_reducible exact fun h => h
    | dsimp only
    | with_reducible apply Kept.ite
    | with_reducible apply KeptO.ite
    | split)

theorem execQueueEnable_kept {s0 : State} (q : Nat) (s : State) (hk : Kept s0 s) : KeptO s0 (execQueueEnable q s) := by
  unfold execQueueEnable
  repeat' (first
    | with_reducible assumption
    | with_reducible apply Kept.next
    | with_reducible refine State.hostDo_kept ?_ ?_
    | with_reducible apply State.rtJoin_kept
    | with_reducible apply State.feSync_kept
    | with_reducible apply State.cfgErr_kept
    | with_reducible apply State.fl_kept
    | with_reducible apply State.wr_kept
    | with_reducible rfl
    | with_reducible exact fun h => h
    | exact Memory.wf_filter _
    | exact Memory.wf_zero _ _
    | exact Memory.wf_writeMask _ _ _
    | exact Memory.wf_write _ _
    | dsimp only
    | with_reducible apply Kept.ite
    | with_reducible apply KeptO.ite
    | split
    | with_reducible refine Kept.upd0 ?_ ?_ ?_ ?_ ?_ ?_)

theorem execQueueDrain_kept {s0 : State} (q : Nat) (s : State) (hk : Kept s0 s) : KeptO s0 (execQueueDrain q s) := by
  unfold execQueueDrain
  repeat' (first
    | with_reducible assumption
    | with_reducible apply Kept.next
    | with_reducible refine State.hostDo_kept ?_ ?_
    | with_reducible apply State.feSync_kept
    | with_reducible apply State.updStrm_kept
    | with_reducible apply State.fl_kept
    | with_reducible apply State.wr_kept
    | with_reducible rfl
    | with_reducible exact fun h => h
    | exact Memory.wf_filter _
    | exact Memory.wf_zero _ _
    | exact Memory.wf_writeMask _ _ _
    | exact Memory.wf_write _ _
    | dsimp only
    | with_reducible apply Kept.ite
    | with_reducible apply KeptO.ite
    | split
    | with_reducible refine Kept.upd0 ?_ ?_ ?_ ?_ ?_ ?_)

theorem State.queueOff_kept {s0 : State} (s : State) (q : Nat) (hk : Kept s0 s) : Kept s0 (State.queueOff s q) := by
  unfold State.queueOff
  repeat' (first
    | with_reducible assumption
    | with_reducible apply State.fl_kept
    | with_reducible apply State.wr_kept
    | with_reducible rfl
    | with_reducible exact fun h => h
    | dsimp only
    | split
    | with_reducible refine Kept.upd0 ?_ ?_ ?_ ?_ ?_ ?_)

theorem execQueueDrainDone_kept {s0 : State} (q : Nat) (s : State) (hk : Kept s0 s) : KeptO s0 (execQueueDrainDone q s) := by
  unfold execQueueDrainDone
  repeat' (first
    | with_reducible assumption
    | with_reducible apply Kept.next
    | with_reducible apply State.queueOff_kept
    | with_reducible apply State.feSync_kept
    | with_reducible rfl
    | with_reducible exact fun h => h
    | dsimp only
    | with_reducible apply Kept.ite
    | with_reducible apply KeptO.ite
    | split
    | with_reducible refine Kept.upd0 ?_ ?_ ?_ ?_ ?_ ?_)

theorem execQueueFree_kept {s0 : State} (q : Nat) (s : State) (hk : Kept s0 s) : KeptO s0 (execQueueFree q s) := by
  unfold execQueueFree
  repeat' (first
    | with_reducible assumption
    | with_reducible apply Kept.next
    | with_reducible refine State.hostDo_kept ?_ ?_
    | with_reducible apply State.queueOff_kept
    | with_reducible apply State.feSync_kept
    | with_reducible rfl
    | with_reducible exact fun h => h
    | exact Memory.wf_filter _
    | exact Memory.wf_zero _ _
    | exact Memory.wf_writeMask _ _ _
    | exact Memory.wf_write _ _
    | dsimp only
    | with_reducible apply Kept.ite
    | with_reducible apply KeptO.ite
    | split)

theorem execSampleAndClear_kept {s0 : State} (q : Nat) (s : State) (hk : Kept s0 s) : KeptO s0 (execSampleAndClear q s) := by
  unfold execSampleAndClear
  repeat' (first
    | with_reducible assumption
    | with_reducible apply Kept.next
    | with_reducible apply State.updStrm_kept
    | with_reducible apply State.count_kept
    | with_reducible apply State.fl_kept
    | with_reducible rfl
    | with_reducible exact fun h => h
    | dsimp only
    | with_reducible apply Kept.ite
    | with_reducible apply KeptO.ite
    | split
    | with_reducible refine Kept.upd0 ?_ ?_ ?_ ?_ ?_ ?_)

theorem execIdleSample_kept {s0 : State} (q : Nat) (s : State) (hk : Kept s0 s) : KeptO s0 (execIdleSample q s) := by
  unfold execIdleSample
  repeat' (first
    | with_reducible assumption
    | with_reducible apply Kept.next
    | with_reducible apply State.feSync_kept
    | with_reducible apply State.updStrm_kept
    | with_reducible rfl
    | with_reducible exact fun h => h
    | dsimp only
    | with_reducible apply Kept.ite
    | with_reducible apply KeptO.ite
    | split
    | with_reducible refine Kept.upd0 ?_ ?_ ?_ ?_ ?_ ?_)

theorem State.addEntry_kept {s0 : State} (s : State) (sid seq : Nat) (irq bar : Bool) (ps : List Pkt) (code : Nat) (rest : Option (Nat × Nat × Bool)) (hk : Kept s0 s) :
    Kept s0 (State.addEntry s sid seq irq bar ps code rest) := by
  unfold State.addEntry
  repeat' (first
    | with_reducible assumption
    | with_reducible apply State.queueFault_kept
    | with_reducible apply State.updStrm_kept
    | with_reducible rfl
    | with_reducible exact fun h => h
    | dsimp only
    | with_reducible apply Kept.ite
    | with_reducible apply KeptO.ite
    | split
    | with_reducible refine Kept.upd0 ?_ ?_ ?_ ?_ ?_ ?_)

theorem State.reachOne_kept {s0 : State} (s : State) (sid : Nat) (st : Strm) (e : Ent) (hk : Kept s0 s) : Kept s0 (State.reachOne s sid st e).1 := by
  unfold State.reachOne
  repeat' (first
    | with_reducible assumption
    | with_reducible apply State.updStrm_kept
    | with_reducible apply State.vread_kept
    | with_reducible apply State.queueFault_kept
    | with_reducible apply State.acquire_kept
    | with_reducible refine Kept.foldl ?_ (fun _ _ _ => ?_)
    | with_reducible refine Kept.foldl1 ?_ (fun _ _ _ _ => ?_)
    | with_reducible refine Kept.foldl2 ?_ (fun _ _ _ _ => ?_)
    | with_reducible refine Kept.of_eq1 ?_ (by assumption)
    | with_reducible refine Kept.of_eq2 ?_ (by assumption)
    | with_reducible rfl
    | with_reducible exact fun h => h
    | dsimp only
    | with_reducible apply Kept.ite
    | with_reducible apply Kept.ite1
    | with_reducible apply Kept.ite2
    | with_reducible apply KeptO.ite
    | split
    | with_reducible refine Kept.upd0 ?_ ?_ ?_ ?_ ?_ ?_
    | with_reducible refine Kept.upd1 ?_ ?_ ?_ ?_ ?_ ?_)

theorem State.reachOn_kept {s0 : State} (f : Nat) (s : State) (sid : Nat) (hk : Kept s0 s) : Kept s0 (State.reachOn f s sid) := by
  induction f generalizing s with
  | zero => exact hk
  | succ f ih =>
    unfold State.reachOn
    repeat' (first
      | with_reducible assumption
      | with_reducible apply ih
      | with_reducible apply State.reachOne_kept
      | with_reducible refine Kept.of_eq1 ?_ (by assumption)
      | split)

theorem State.reach_kept {s0 : State} (s : State) (sid : Nat) (hk : Kept s0 s) : Kept s0 (State.reach s sid) := by
  unfold State.reach
  split
  · exact hk
  · exact State.feSync_kept _ _ (State.reachOn_kept _ _ _ hk)

theorem State.entryIn_kept {s0 : State} (s : State) (q : Nat) (st : Strm) (e : List Byte) (hk : Kept s0 s) :
    Kept s0 (State.entryIn s q st e) := by
  unfold State.entryIn
  repeat' (first
    | with_reducible assumption
    | with_reducible apply State.reach_kept
    | with_reducible apply State.addEntry_kept
    | with_reducible apply State.queueFault_kept
    | with_reducible apply State.feSync_kept
    | with_reducible apply State.updStrm_kept
    | with_reducible apply State.count_kept
    | with_reducible apply State.wr_kept
    | dsimp only
    | with_reducible apply Kept.ite)

theorem execEntryFetch_kept {s0 : State} (q : Nat) (s : State) (hk : Kept s0 s) : KeptO s0 (execEntryFetch q s) := by
  unfold execEntryFetch
  repeat' (first
    | with_reducible assumption
    | with_reducible apply Kept.next
    | with_reducible apply State.entryIn_kept
    | with_reducible apply State.reach_kept
    | with_reducible apply State.queueFault_kept
    | with_reducible apply State.vread_kept
    | with_reducible refine Kept.of_eq1 ?_ (by assumption)
    | split)

theorem State.sliceEnd_kept {s0 : State} (s : State) (k m : Nat) (hk : Kept s0 s) : Kept s0 (State.sliceEnd s k m) := by
  unfold State.sliceEnd
  repeat' (first
    | with_reducible assumption
    | with_reducible refine Kept.foldl ?_ (fun _ _ _ => ?_)
    | with_reducible refine Kept.foldl1 ?_ (fun _ _ _ _ => ?_)
    | with_reducible refine Kept.foldl2 ?_ (fun _ _ _ _ => ?_)
    | with_reducible refine Kept.of_eq1 ?_ (by assumption)
    | with_reducible refine Kept.of_eq2 ?_ (by assumption)
    | with_reducible rfl
    | with_reducible exact fun h => h
    | dsimp only
    | with_reducible apply Kept.ite
    | with_reducible apply Kept.ite1
    | with_reducible apply Kept.ite2
    | with_reducible apply KeptO.ite
    | split
    | with_reducible refine Kept.upd0 ?_ ?_ ?_ ?_ ?_ ?_
    | with_reducible refine Kept.upd1 ?_ ?_ ?_ ?_ ?_ ?_)

theorem execTsliceExpiry_kept {s0 : State} (k : Nat) (s : State) (hk : Kept s0 s) : KeptO s0 (execTsliceExpiry k s) :=
  Kept.next (Kept.foldl hk (fun t m h => State.sliceEnd_kept t k m h))

theorem State.select_kept {s0 : State} (s : State) (sid : Nat) (st : Strm) (hk : Kept s0 s) : Kept s0 (State.select s sid st) := by
  unfold State.select
  repeat' (first
    | with_reducible assumption
    | with_reducible refine Kept.foldl ?_ (fun _ _ _ => ?_)
    | with_reducible refine Kept.foldl1 ?_ (fun _ _ _ _ => ?_)
    | with_reducible refine Kept.foldl2 ?_ (fun _ _ _ _ => ?_)
    | with_reducible refine Kept.of_eq1 ?_ (by assumption)
    | with_reducible refine Kept.of_eq2 ?_ (by assumption)
    | with_reducible rfl
    | with_reducible exact fun h => h
    | dsimp only
    | with_reducible apply Kept.ite
    | with_reducible apply Kept.ite1
    | with_reducible apply Kept.ite2
    | with_reducible apply KeptO.ite
    | split
    | with_reducible refine Kept.upd0 ?_ ?_ ?_ ?_ ?_ ?_
    | with_reducible refine Kept.upd1 ?_ ?_ ?_ ?_ ?_ ?_)

theorem State.dispatch_kept {s0 : State} (s : State) (sid : Nat) (st : Strm) (p : Pkt) (hk : Kept s0 s) : Kept s0 (State.dispatch s sid st p) := by
  unfold State.dispatch
  repeat' (first
    | with_reducible assumption
    | with_reducible apply State.select_kept
    | with_reducible apply State.startPkt_kept
    | with_reducible rfl
    | with_reducible exact fun h => h
    | dsimp only
    | with_reducible apply Kept.ite
    | split
    | with_reducible refine Kept.upd0 ?_ ?_ ?_ ?_ ?_ ?_)

theorem execNop_kept {s0 : State} (sid : Nat) (s : State) (hk : Kept s0 s) : KeptO s0 (execNop sid s) := by
  unfold execNop
  repeat' (first
    | with_reducible assumption
    | with_reducible apply Kept.next
    | with_reducible apply State.dispatch_kept
    | with_reducible apply State.donePkt_kept
    | with_reducible rfl
    | with_reducible exact fun h => h
    | dsimp only
    | split
    | with_reducible refine Kept.upd0 ?_ ?_ ?_ ?_ ?_ ?_)

theorem execSignal_kept {s0 : State} (sid : Nat) (s : State) (hk : Kept s0 s) : KeptO s0 (execSignal sid s) := by
  unfold execSignal
  repeat' (first
    | with_reducible assumption
    | with_reducible apply Kept.next
    | with_reducible apply State.signal_kept
    | with_reducible apply State.ctxFault_kept
    | with_reducible apply State.donePkt_kept
    | with_reducible apply State.startPkt_kept
    | with_reducible rfl
    | with_reducible exact fun h => h
    | dsimp only
    | with_reducible apply Kept.ite
    | with_reducible apply KeptO.ite
    | split
    | with_reducible refine Kept.upd0 ?_ ?_ ?_ ?_ ?_ ?_)

theorem execWait_kept {s0 : State} (sid : Nat) (s : State) (hk : Kept s0 s) : KeptO s0 (execWait sid s) := by
  unfold execWait
  repeat' (first
    | with_reducible assumption
    | with_reducible apply Kept.next
    | with_reducible apply State.dispatch_kept
    | with_reducible apply State.addWait_kept
    | with_reducible apply State.ctxFault_kept
    | with_reducible apply State.pktFault_kept
    | with_reducible apply State.donePkt_kept
    | with_reducible apply State.feSync_kept
    | with_reducible apply State.updStrm_kept
    | with_reducible refine Kept.of_eq1 ?_ (by assumption)
    | with_reducible rfl
    | with_reducible exact fun h => h
    | dsimp only
    | with_reducible apply Kept.ite
    | with_reducible apply Kept.ite1
    | with_reducible apply Kept.ite2
    | with_reducible apply KeptO.ite
    | split
    | with_reducible refine Kept.upd0 ?_ ?_ ?_ ?_ ?_ ?_)

theorem execWaitTimeout_kept {s0 : State} (sid : Nat) (s : State) (hk : Kept s0 s) : KeptO s0 (execWaitTimeout sid s) := by
  unfold execWaitTimeout
  repeat' (first
    | with_reducible assumption
    | with_reducible apply Kept.next
    | with_reducible apply State.dropWaits_kept
    | with_reducible apply State.pktFault_kept
    | with_reducible apply State.updStrm_kept
    | with_reducible rfl
    | with_reducible exact fun h => h
    | dsimp only
    | with_reducible apply Kept.ite
    | with_reducible apply KeptO.ite
    | split
    | with_reducible refine Kept.upd0 ?_ ?_ ?_ ?_ ?_ ?_)

theorem State.doneIf_kept {s0 : State} (sid pid : Nat) (r : State × Bool) (h : Kept s0 r.1) :
    Kept s0 (State.doneIf sid pid r) := by
  unfold State.doneIf
  split
  · exact State.donePkt_kept _ _ _ h
  · exact h

theorem execWriteImm_kept {s0 : State} (sid : Nat) (s : State) (hk : Kept s0 s) : KeptO s0 (execWriteImm sid s) := by
  unfold execWriteImm
  repeat' (first
    | with_reducible assumption
    | with_reducible apply Kept.next
    | with_reducible apply State.doneIf_kept
    | with_reducible apply State.vwrite_kept
    | with_reducible apply State.startPkt_kept
    | with_reducible refine Kept.of_eq1 ?_ (by assumption)
    | with_reducible rfl
    | with_reducible exact fun h => h
    | dsimp only
    | split
    | with_reducible refine Kept.upd0 ?_ ?_ ?_ ?_ ?_ ?_)

theorem execTimestamp_kept {s0 : State} (sid : Nat) (s : State) (hk : Kept s0 s) : KeptO s0 (execTimestamp sid s) := by
  unfold execTimestamp
  repeat' (first
    | with_reducible assumption
    | with_reducible apply Kept.next
    | with_reducible apply State.doneIf_kept
    | with_reducible apply State.vwrite_kept
    | with_reducible apply State.startPkt_kept
    | with_reducible refine Kept.of_eq1 ?_ (by assumption)
    | with_reducible rfl
    | with_reducible exact fun h => h
    | dsimp only
    | split
    | with_reducible refine Kept.upd0 ?_ ?_ ?_ ?_ ?_ ?_)

theorem State.copyLoop_kept {s0 : State} (c e : Nat) (fuel : Nat) (x1 : State) (src : Nat) (dst : Nat) (n : Nat) (hk : Kept s0 x1) : Kept s0 (State.copyLoop c e fuel x1 src dst n).1 := by
  induction fuel generalizing x1 src dst n with
  | zero =>
    unfold State.copyLoop
    repeat' (first
      | with_reducible assumption
      | with_reducible apply State.vwrite_kept
      | with_reducible apply State.vread_kept
      | with_reducible refine Kept.of_eq1 ?_ (by assumption)
      | with_reducible rfl
      | with_reducible exact fun h => h
      | dsimp only
      | with_reducible apply Kept.ite
      | with_reducible apply Kept.ite1
      | with_reducible apply Kept.ite2
      | split
      | with_reducible refine Kept.upd0 ?_ ?_ ?_ ?_ ?_ ?_)
  | succ f ih =>
    unfold State.copyLoop
    repeat' (first
      | with_reducible assumption
      | with_reducible apply ih
      | with_reducible apply State.vwrite_kept
      | with_reducible apply State.vread_kept
      | with_reducible refine Kept.of_eq1 ?_ (by assumption)
      | with_reducible rfl
      | with_reducible exact fun h => h
      | dsimp only
      | with_reducible apply Kept.ite
      | with_reducible apply Kept.ite1
      | with_reducible apply Kept.ite2
      | split
      | with_reducible refine Kept.upd0 ?_ ?_ ?_ ?_ ?_ ?_)

theorem State.fillLoop_kept {s0 : State} (c e : Nat) (pat : List Byte) (fuel : Nat) (x1 : State) (dst : Nat) (n : Nat) (hk : Kept s0 x1) : Kept s0 (State.fillLoop c e pat fuel x1 dst n).1 := by
  induction fuel generalizing x1 dst n with
  | zero =>
    unfold State.fillLoop
    repeat' (first
      | with_reducible assumption
      | with_reducible apply State.vwrite_kept
      | with_reducible refine Kept.of_eq1 ?_ (by assumption)
      | with_reducible rfl
      | with_reducible exact fun h => h
      | dsimp only
      | with_reducible apply Kept.ite
      | with_reducible apply Kept.ite1
      | with_reducible apply Kept.ite2
      | split
      | with_reducible refine Kept.upd0 ?_ ?_ ?_ ?_ ?_ ?_)
  | succ f ih =>
    unfold State.fillLoop
    repeat' (first
      | with_reducible assumption
      | with_reducible apply ih
      | with_reducible apply State.vwrite_kept
      | with_reducible refine Kept.of_eq1 ?_ (by assumption)
      | with_reducible rfl
      | with_reducible exact fun h => h
      | dsimp only
      | with_reducible apply Kept.ite
      | with_reducible apply Kept.ite1
      | with_reducible apply Kept.ite2
      | split
      | with_reducible refine Kept.upd0 ?_ ?_ ?_ ?_ ?_ ?_)

theorem State.heapTake_kept {s0 : State} (s : State) (p : Nat) (r : HRun) (hk : Kept s0 s) : Kept s0 (State.heapTake s p r) := by
  unfold State.heapTake
  repeat' (first
    | with_reducible assumption
    | with_reducible apply State.heapSync_kept
    | with_reducible refine Kept.foldl ?_ (fun _ _ _ => ?_)
    | with_reducible refine Kept.foldl1 ?_ (fun _ _ _ _ => ?_)
    | with_reducible refine Kept.foldl2 ?_ (fun _ _ _ _ => ?_)
    | with_reducible refine Kept.of_eq1 ?_ (by assumption)
    | with_reducible refine Kept.of_eq2 ?_ (by assumption)
    | with_reducible rfl
    | with_reducible exact fun h => h
    | dsimp only
    | with_reducible apply Kept.ite
    | with_reducible apply Kept.ite1
    | with_reducible apply Kept.ite2
    | with_reducible apply KeptO.ite
    | split
    | with_reducible refine Kept.upd0 ?_ ?_ ?_ ?_ ?_ ?_
    | with_reducible refine Kept.upd1 ?_ ?_ ?_ ?_ ?_ ?_)

theorem execAlloc_kept {s0 : State} (sid : Nat) (s : State) (hk : Kept s0 s) : KeptO s0 (execAlloc sid s) := by
  unfold execAlloc
  repeat' (first
    | with_reducible assumption
    | with_reducible apply State.heapTake_kept
    | with_reducible apply Kept.next
    | with_reducible apply State.doneIf_kept
    | with_reducible apply State.dispatch_kept
    | with_reducible apply State.vwrite_kept
    | with_reducible apply State.heapSync_kept
    | with_reducible apply State.ctxFault_kept
    | with_reducible apply State.updStrm_kept
    | with_reducible apply State.sweepAdd_kept
    | with_reducible apply State.count_kept
    | with_reducible apply State.raise_kept
    | with_reducible refine Kept.of_eq1 ?_ (by assumption)
    | with_reducible rfl
    | with_reducible exact fun h => h
    | dsimp only
    | with_reducible apply Kept.ite
    | with_reducible apply Kept.ite1
    | with_reducible apply Kept.ite2
    | with_reducible apply KeptO.ite
    | split
    | with_reducible refine Kept.upd0 ?_ ?_ ?_ ?_ ?_ ?_)

theorem execFree_kept {s0 : State} (sid : Nat) (s : State) (hk : Kept s0 s) : KeptO s0 (execFree sid s) := by
  unfold execFree
  repeat' (first
    | with_reducible assumption
    | with_reducible apply Kept.next
    | with_reducible apply State.dispatch_kept
    | with_reducible apply State.quarRelease_kept
    | with_reducible apply State.heapSync_kept
    | with_reducible apply State.ctxFault_kept
    | with_reducible apply State.pktFault_kept
    | with_reducible apply State.donePkt_kept
    | with_reducible apply State.wr_kept
    | with_reducible rfl
    | with_reducible exact fun h => h
    | dsimp only
    | with_reducible apply Kept.ite
    | with_reducible apply KeptO.ite
    | split
    | with_reducible refine Kept.upd0 ?_ ?_ ?_ ?_ ?_ ?_)

theorem State.claimAdd_kept {s0 : State} (s : State) (pa pages tally value ctx : Nat) (reg : Bool) (sid pid : Nat) (hk : Kept s0 s) : Kept s0 (State.claimAdd s pa pages tally value ctx reg sid pid) := by
  unfold State.claimAdd
  repeat' (first
    | with_reducible assumption
    | with_reducible apply State.sweepAdd_kept
    | with_reducible apply State.ledger_kept
    | with_reducible rfl
    | with_reducible exact fun h => h
    | dsimp only
    | split)

theorem execClaim_kept {s0 : State} (sid : Nat) (s : State) (hk : Kept s0 s) : KeptO s0 (execClaim sid s) := by
  unfold execClaim
  repeat' (first
    | with_reducible assumption
    | with_reducible apply Kept.next
    | with_reducible apply State.claimAdd_kept
    | with_reducible apply State.dispatch_kept
    | with_reducible apply State.ctxFault_kept
    | with_reducible apply State.updStrm_kept
    | with_reducible rfl
    | with_reducible exact fun h => h
    | dsimp only
    | with_reducible apply Kept.ite
    | with_reducible apply KeptO.ite
    | split
    | with_reducible refine Kept.upd0 ?_ ?_ ?_ ?_ ?_ ?_)

theorem execClaimGo_kept {s0 : State} (s : State) (hk : Kept s0 s) : KeptO s0 (execClaimGo s) := by
  unfold execClaimGo
  repeat' (first
    | with_reducible assumption
    | with_reducible apply Kept.next
    | with_reducible refine State.hostDo_kept ?_ ?_
    | with_reducible apply State.claimAdd_kept
    | with_reducible apply State.cfgErr_kept
    | with_reducible apply State.fl_kept
    | with_reducible rfl
    | with_reducible exact fun h => h
    | exact Memory.wf_filter _
    | exact Memory.wf_zero _ _
    | exact Memory.wf_writeMask _ _ _
    | exact Memory.wf_write _ _
    | dsimp only
    | with_reducible apply Kept.ite
    | with_reducible apply KeptO.ite
    | split)

theorem State.cplWrite_kept {s0 : State} (s : State) (q c v : Nat) (hk : Kept s0 s) : Kept s0 (State.cplWrite s q c v).1 := by
  unfold State.cplWrite
  repeat' (first
    | with_reducible assumption
    | with_reducible apply State.accFault_kept
    | with_reducible apply State.translate_kept
    | with_reducible apply State.paWrite_kept
    | with_reducible apply State.linkDrop_kept
    | with_reducible refine Kept.of_eq1 ?_ (by assumption)
    | with_reducible rfl
    | with_reducible exact fun h => h
    | exact Memory.wf_filter _
    | exact Memory.wf_zero _ _
    | exact Memory.wf_writeMask _ _ _
    | exact Memory.wf_write _ _
    | dsimp only
    | with_reducible apply Kept.ite
    | with_reducible apply Kept.ite1
    | with_reducible apply Kept.ite2
    | split
    | with_reducible refine Kept.upd0 ?_ ?_ ?_ ?_ ?_ ?_)

theorem State.entriesDone_kept {s0 : State} (s : State) (q : Nat) (st : Strm) (hk : Kept s0 s) : Kept s0 (State.entriesDone s q st) := by
  unfold State.entriesDone
  repeat' (first
    | with_reducible assumption
    | with_reducible apply State.updStrm_kept
    | with_reducible apply State.wr_kept
    | with_reducible apply State.cplWrite_kept
    | with_reducible apply State.notifyVec_kept
    | with_reducible apply State.feSync_kept
    | with_reducible refine Kept.foldl ?_ (fun _ _ _ => ?_)
    | with_reducible refine Kept.foldl1 ?_ (fun _ _ _ _ => ?_)
    | with_reducible refine Kept.foldl2 ?_ (fun _ _ _ _ => ?_)
    | with_reducible refine Kept.of_eq1 ?_ (by assumption)
    | with_reducible refine Kept.of_eq2 ?_ (by assumption)
    | with_reducible rfl
    | with_reducible exact fun h => h
    | dsimp only
    | with_reducible apply Kept.ite
    | with_reducible apply Kept.ite1
    | with_reducible apply Kept.ite2
    | with_reducible apply KeptO.ite
    | split
    | with_reducible refine Kept.upd0 ?_ ?_ ?_ ?_ ?_ ?_
    | with_reducible refine Kept.upd1 ?_ ?_ ?_ ?_ ?_ ?_)

theorem execEntryComplete_kept {s0 : State} (q : Nat) (s : State) (hk : Kept s0 s) : KeptO s0 (execEntryComplete q s) := by
  unfold execEntryComplete
  repeat' (first
    | with_reducible assumption
    | with_reducible apply State.entriesDone_kept
    | with_reducible apply Kept.next
    | with_reducible apply State.cplWrite_kept
    | with_reducible apply State.feSync_kept
    | with_reducible apply State.updStrm_kept
    | with_reducible apply State.notifyVec_kept
    | with_reducible apply State.wr_kept
    | with_reducible rfl
    | with_reducible exact fun h => h
    | dsimp only
    | with_reducible apply Kept.ite
    | with_reducible apply KeptO.ite
    | split
    | with_reducible refine Kept.upd0 ?_ ?_ ?_ ?_ ?_ ?_)

theorem execQueueFaultComplete_kept {s0 : State} (q : Nat) (s : State) (hk : Kept s0 s) : KeptO s0 (execQueueFaultComplete q s) := by
  unfold execQueueFaultComplete
  repeat' (first
    | with_reducible assumption
    | with_reducible apply State.entriesDone_kept
    | with_reducible apply Kept.next
    | with_reducible apply State.feSync_kept
    | with_reducible apply State.updStrm_kept
    | with_reducible apply State.raise_kept
    | with_reducible apply State.wrs_kept
    | with_reducible rfl
    | with_reducible exact fun h => h
    | dsimp only
    | with_reducible apply Kept.ite
    | with_reducible apply KeptO.ite
    | split
    | with_reducible refine Kept.upd0 ?_ ?_ ?_ ?_ ?_ ?_)

end Sys2Proof.Machine
end

