-- ==== Sys2Proof/Laws/KeptShader.lean ====
section
/-! SUPPORT. Every operation of Machine/Shader.lean keeps what no command may change. -/

namespace Sys2Proof.Machine

set_option linter.all false

theorem State.updWg_kept {s0 : State} (s : State) (w : Nat) (f : Wg → Wg) (hk : Kept s0 s) : Kept s0 (State.updWg s w f) := by
  unfold State.updWg
  repeat' (first
    | with_reducible assumption
    | with_reducible rfl
    | with_reducible exact fun h => h
    | dsimp only
    | split
    | with_reducible refine Kept.upd0 ?_ ?_ ?_ ?_ ?_ ?_)

theorem State.updDisp_kept {s0 : State} (s : State) (d : Nat) (f : Disp → Disp) (hk : Kept s0 s) : Kept s0 (State.updDisp s d f) := by
  unfold State.updDisp
  repeat' (first
    | with_reducible assumption
    | with_reducible rfl
    | with_reducible exact fun h => h
    | dsimp only
    | split
    | with_reducible refine Kept.upd0 ?_ ?_ ?_ ?_ ?_ ?_)

theorem State.sclSync_kept {s0 : State} (s : State) (core : Nat) (hk : Kept s0 s) : Kept s0 (State.sclSync s core) := by
  unfold State.sclSync
  repeat' (first
    | with_reducible assumption
    | with_reducible apply State.fl_kept
    | with_reducible apply State.wr_kept
    | with_reducible rfl
    | with_reducible exact fun h => h
    | dsimp only
    | split)

theorem State.haltSync_kept {s0 : State} (s : State) (hk : Kept s0 s) : Kept s0 (State.haltSync s) := by
  unfold State.haltSync
  repeat' (first
    | with_reducible assumption
    | with_reducible apply State.wrs_kept
    | with_reducible rfl
    | with_reducible exact fun h => h
    | dsimp only
    | split
    | with_reducible refine Kept.upd0 ?_ ?_ ?_ ?_ ?_ ?_)

theorem State.haltGroup_kept {s0 : State} (s : State) (g : Nat) (hk : Kept s0 s) : Kept s0 (State.haltGroup s g) := by
  unfold State.haltGroup
  repeat' (first
    | with_reducible assumption
    | with_reducible apply State.haltSync_kept
    | with_reducible apply State.sclSync_kept
    | with_reducible apply State.updGrp_kept
    | with_reducible apply State.raise_kept
    | with_reducible rfl
    | with_reducible exact fun h => h
    | dsimp only
    | split
    | with_reducible refine Kept.upd0 ?_ ?_ ?_ ?_ ?_ ?_)

theorem State.trapNow_kept {s0 : State} (s : State) (e : GEnv) (cause info : Nat) (hk : Kept s0 s) : Kept s0 (State.trapNow s e cause info) := by
  unfold State.trapNow
  repeat' (first
    | with_reducible assumption
    | with_reducible apply State.count_kept
    | with_reducible apply State.ctxFault_kept
    | with_reducible apply State.updGrp_kept
    | with_reducible refine Kept.foldl ?_ (fun _ _ _ => ?_)
    | with_reducible refine Kept.foldl1 ?_ (fun _ _ _ _ => ?_)
    | with_reducible refine Kept.foldl2 ?_ (fun _ _ _ _ => ?_)
    | with_reducible refine Kept.of_eq1 ?_ (by assumption)
    | with_reducible refine Kept.of_eq2 ?_ (by assumption)
    | with_reducible rfl
    | with_reducible exact fun h => h
    | dsimp only
    | with_reducible apply Kept.ite
    | with_reducible apply Kept.ite1
    | with_reducible apply Kept.ite2
    | with_reducible apply KeptO.ite
    | split
    | with_reducible refine Kept.upd0 ?_ ?_ ?_ ?_ ?_ ?_
    | with_reducible refine Kept.upd1 ?_ ?_ ?_ ?_ ?_ ?_)

theorem State.trap_kept {s0 : State} (s : State) (e : GEnv) (cause info : Nat) (hk : Kept s0 s) : Kept s0 (State.trap s e cause info) := by
  unfold State.trap
  repeat' (first
    | with_reducible assumption
    | with_reducible apply State.trapNow_kept
    | with_reducible apply State.updGrp_kept
    | with_reducible apply State.ctxFault_kept
    | with_reducible apply State.count_kept
    | with_reducible apply id_kept
    | with_reducible rfl
    | with_reducible exact fun h => h
    | dsimp only
    | with_reducible apply Kept.ite
    | split
    | with_reducible refine Kept.upd0 ?_ ?_ ?_ ?_ ?_ ?_)

theorem State.trapGo_kept {s0 : State} (s : State) (g : Nat) (hk : Kept s0 s) : Kept s0 (State.trapGo s g) := by
  unfold State.trapGo
  repeat' (first
    | with_reducible assumption
    | with_reducible apply State.updGrp_kept
    | with_reducible apply State.trapNow_kept
    | with_reducible refine Kept.foldl ?_ (fun _ _ _ => ?_)
    | with_reducible refine Kept.foldl1 ?_ (fun _ _ _ _ => ?_)
    | with_reducible refine Kept.foldl2 ?_ (fun _ _ _ _ => ?_)
    | with_reducible refine Kept.of_eq1 ?_ (by assumption)
    | with_reducible refine Kept.of_eq2 ?_ (by assumption)
    | with_reducible rfl
    | with_reducible exact fun h => h
    | dsimp only
    | with_reducible apply Kept.ite
    | with_reducible apply Kept.ite1
    | with_reducible apply Kept.ite2
    | with_reducible apply KeptO.ite
    | split
    | with_reducible refine Kept.upd0 ?_ ?_ ?_ ?_ ?_ ?_
    | with_reducible refine Kept.upd1 ?_ ?_ ?_ ?_ ?_ ?_)

theorem State.trapFree_kept {s0 : State} (s : State) (e : GEnv) (cause : Nat) (hk : Kept s0 s) : Kept s0 (State.trapFree s e cause) := by
  unfold State.trapFree
  repeat' (first
    | with_reducible assumption
    | with_reducible apply State.trap_kept
    | with_reducible apply State.free_kept
    | with_reducible refine Kept.of_eq2 ?_ (by assumption)
    | with_reducible rfl
    | with_reducible exact fun h => h
    | dsimp only
    | split)

theorem State.icDrop_kept {s0 : State} (s : State) (c : Nat) (f : Nat → Bool) (hk : Kept s0 s) : Kept s0 (State.icDrop s c f) := by
  unfold State.icDrop
  repeat' (first
    | with_reducible assumption
    | with_reducible refine Kept.foldl ?_ (fun _ _ _ => ?_)
    | with_reducible refine Kept.foldl1 ?_ (fun _ _ _ _ => ?_)
    | with_reducible refine Kept.foldl2 ?_ (fun _ _ _ _ => ?_)
    | with_reducible refine Kept.of_eq1 ?_ (by assumption)
    | with_reducible refine Kept.of_eq2 ?_ (by assumption)
    | with_reducible rfl
    | with_reducible exact fun h => h
    | dsimp only
    | with_reducible apply Kept.ite
    | with_reducible apply Kept.ite1
    | with_reducible apply Kept.ite2
    | with_reducible apply KeptO.ite
    | split
    | with_reducible refine Kept.upd0 ?_ ?_ ?_ ?_ ?_ ?_
    | with_reducible refine Kept.upd1 ?_ ?_ ?_ ?_ ?_ ?_)

theorem State.fetchLine_kept {s0 : State} (s : State) (c core va n : Nat) (hk : Kept s0 s) : Kept s0 (State.fetchLine s c core va n).1 := by
  unfold State.fetchLine
  repeat' (first
    | with_reducible assumption
    | with_reducible apply State.translate_kept
    | with_reducible apply State.accFault_kept
    | with_reducible apply State.paRead_kept
    | with_reducible refine Kept.foldl ?_ (fun _ _ _ => ?_)
    | with_reducible refine Kept.foldl1 ?_ (fun _ _ _ _ => ?_)
    | with_reducible refine Kept.foldl2 ?_ (fun _ _ _ _ => ?_)
    | with_reducible refine Kept.of_eq1 ?_ (by assumption)
    | with_reducible refine Kept.of_eq2 ?_ (by assumption)
    | with_reducible rfl
    | with_reducible exact fun h => h
    | dsimp only
    | with_reducible apply Kept.ite
    | with_reducible apply Kept.ite1
    | with_reducible apply Kept.ite2
    | with_reducible apply KeptO.ite
    | split
    | with_reducible refine Kept.upd0 ?_ ?_ ?_ ?_ ?_ ?_
    | with_reducible refine Kept.upd1 ?_ ?_ ?_ ?_ ?_ ?_)

theorem State.fetchWord_kept {s0 : State} (s : State) (c core va : Nat) (hk : Kept s0 s) : Kept s0 (State.fetchWord s c core va).1 := by
  unfold State.fetchWord
  repeat' (first
    | with_reducible assumption
    | with_reducible apply State.fetchLine_kept
    | with_reducible refine Kept.foldl ?_ (fun _ _ _ => ?_)
    | with_reducible refine Kept.foldl1 ?_ (fun _ _ _ _ => ?_)
    | with_reducible refine Kept.foldl2 ?_ (fun _ _ _ _ => ?_)
    | with_reducible refine Kept.of_eq1 ?_ (by assumption)
    | with_reducible refine Kept.of_eq2 ?_ (by assumption)
    | with_reducible rfl
    | with_reducible exact fun h => h
    | dsimp only
    | with_reducible apply Kept.ite
    | with_reducible apply Kept.ite1
    | with_reducible apply Kept.ite2
    | with_reducible apply KeptO.ite
    | split
    | with_reducible refine Kept.upd0 ?_ ?_ ?_ ?_ ?_ ?_
    | with_reducible refine Kept.upd1 ?_ ?_ ?_ ?_ ?_ ?_)

theorem State.fetch_kept {s0 : State} (s : State) (e : GEnv) (hk : Kept s0 s) : Kept s0 (State.fetch s e).1 := by
  unfold State.fetch
  repeat' (first
    | with_reducible assumption
    | with_reducible apply State.fetchWord_kept
    | with_reducible refine Kept.foldl ?_ (fun _ _ _ => ?_)
    | with_reducible refine Kept.foldl1 ?_ (fun _ _ _ _ => ?_)
    | with_reducible refine Kept.foldl2 ?_ (fun _ _ _ _ => ?_)
    | with_reducible refine Kept.of_eq1 ?_ (by assumption)
    | with_reducible refine Kept.of_eq2 ?_ (by assumption)
    | with_reducible rfl
    | with_reducible exact fun h => h
    | dsimp only
    | with_reducible apply Kept.ite
    | with_reducible apply Kept.ite1
    | with_reducible apply Kept.ite2
    | with_reducible apply KeptO.ite
    | split
    | with_reducible refine Kept.upd0 ?_ ?_ ?_ ?_ ?_ ?_
    | with_reducible refine Kept.upd1 ?_ ?_ ?_ ?_ ?_ ?_)

theorem State.issue_kept {s0 : State} (s : State) (k : OpCode) (g : Nat) (i : Ins) (scalar : Bool) (ops : List Opd) (mods : Nat) (lit : Bool) (chk : GEnv → Option Nat) (run : State → GEnv → State) (h_run : ∀ a0 a1, Kept s0 a0 → Kept s0 (run a0 a1)) (hk : Kept s0 s) : Kept s0 (State.issue s k g i scalar ops mods lit chk run) := by
  unfold State.issue
  repeat' (first
    | with_reducible assumption
    | with_reducible apply State.fetch_kept
    | with_reducible apply h_run
    | with_reducible apply State.trapFree_kept
    | with_reducible apply State.haltGroup_kept
    | with_reducible apply State.translate_kept
    | with_reducible apply State.updGrp_kept
    | with_reducible apply State.pmu_kept
    | with_reducible apply State.count_kept
    | with_reducible refine Kept.of_eq1 ?_ (by assumption)
    | with_reducible rfl
    | with_reducible exact fun h => h
    | dsimp only
    | with_reducible apply Kept.ite
    | with_reducible apply Kept.ite1
    | with_reducible apply Kept.ite2
    | split
    | with_reducible refine Kept.upd0 ?_ ?_ ?_ ?_ ?_ ?_)

theorem State.setGrp_kept {s0 : State} (s : State) (g : Nat) (x : Grp) (hk : Kept s0 s) : Kept s0 (State.setGrp s g x) := by
  unfold State.setGrp
  repeat' (first
    | with_reducible assumption
    | with_reducible apply State.updGrp_kept
    | with_reducible rfl
    | with_reducible exact fun h => h
    | dsimp only
    | split)

theorem State.barRelease_kept {s0 : State} (s : State) (wid : Nat) (hk : Kept s0 s) : Kept s0 (State.barRelease s wid) := by
  unfold State.barRelease
  repeat' (first
    | with_reducible assumption
    | with_reducible apply State.updWg_kept
    | with_reducible refine Kept.foldl ?_ (fun _ _ _ => ?_)
    | with_reducible refine Kept.foldl1 ?_ (fun _ _ _ _ => ?_)
    | with_reducible refine Kept.foldl2 ?_ (fun _ _ _ _ => ?_)
    | with_reducible refine Kept.of_eq1 ?_ (by assumption)
    | with_reducible refine Kept.of_eq2 ?_ (by assumption)
    | with_reducible rfl
    | with_reducible exact fun h => h
    | dsimp only
    | with_reducible apply Kept.ite
    | split
    | with_reducible refine Kept.upd0 ?_ ?_ ?_ ?_ ?_ ?_)

theorem State.l1Drop_kept {s0 : State} (s : State) (c : Nat) (f : Nat → Bool) (hk : Kept s0 s) : Kept s0 (State.l1Drop s c f) := by
  unfold State.l1Drop
  repeat' (first
    | with_reducible assumption
    | with_reducible rfl
    | with_reducible exact fun h => h
    | dsimp only
    | split
    | with_reducible refine Kept.upd0 ?_ ?_ ?_ ?_ ?_ ?_)

theorem State.pktAcquire_kept {s0 : State} (s : State) (c clusters : Nat) (hk : Kept s0 s) : Kept s0 (State.pktAcquire s c clusters) := by
  unfold State.pktAcquire
  repeat' (first
    | with_reducible assumption
    | with_reducible apply State.l1Drop_kept
    | with_reducible apply State.icDrop_kept
    | with_reducible refine Kept.foldl ?_ (fun _ _ _ => ?_)
    | with_reducible refine Kept.foldl1 ?_ (fun _ _ _ _ => ?_)
    | with_reducible refine Kept.foldl2 ?_ (fun _ _ _ _ => ?_)
    | with_reducible refine Kept.of_eq1 ?_ (by assumption)
    | with_reducible refine Kept.of_eq2 ?_ (by assumption)
    | with_reducible rfl
    | with_reducible exact fun h => h
    | dsimp only
    | with_reducible apply Kept.ite
    | with_reducible apply Kept.ite1
    | with_reducible apply Kept.ite2
    | with_reducible apply KeptO.ite
    | split
    | with_reducible refine Kept.upd0 ?_ ?_ ?_ ?_ ?_ ?_
    | with_reducible refine Kept.upd1 ?_ ?_ ?_ ?_ ?_ ?_)

theorem State.acquire_kept {s0 : State} (s : State) (e : GEnv) (sc : Nat) (hk : Kept s0 s) : Kept s0 (State.acquire s e sc) := by
  unfold State.acquire
  repeat' (first
    | with_reducible assumption
    | with_reducible apply State.l1Drop_kept
    | with_reducible apply id_kept
    | with_reducible rfl
    | with_reducible exact fun h => h
    | dsimp only
    | with_reducible apply Kept.ite
    | split)

theorem State.coreLine_kept {s0 : State} (s : State) (c core va n : Nat) (seen : List Nat) (hk : Kept s0 s) : Kept s0 (State.coreLine s c core va n seen).1 := by
  unfold State.coreLine
  repeat' (first
    | with_reducible assumption
    | with_reducible apply State.accFault_kept
    | with_reducible apply State.translate_kept
    | with_reducible apply State.paRead_kept
    | with_reducible apply State.pmu_kept
    | with_reducible refine Kept.of_eq1 ?_ (by assumption)
    | with_reducible rfl
    | with_reducible exact fun h => h
    | dsimp only
    | with_reducible apply Kept.ite
    | with_reducible apply Kept.ite1
    | with_reducible apply Kept.ite2
    | split
    | with_reducible refine Kept.upd0 ?_ ?_ ?_ ?_ ?_ ?_)

theorem State.coreRead_kept {s0 : State} (s : State) (c core va n : Nat) (seen : List Nat) (hk : Kept s0 s) : Kept s0 (State.coreRead s c core va n seen).1 := by
  unfold State.coreRead
  repeat' (first
    | with_reducible assumption
    | with_reducible apply State.coreLine_kept
    | with_reducible refine Kept.foldl ?_ (fun _ _ _ => ?_)
    | with_reducible refine Kept.of_eq1 ?_ (by assumption)
    | with_reducible refine Kept.foldl1 ?_ (fun _ _ _ _ => ?_)
    | with_reducible refine Kept.foldl2 ?_ (fun _ _ _ _ => ?_)
    | with_reducible refine Kept.of_eq2 ?_ (by assumption)
    | with_reducible rfl
    | with_reducible exact fun h => h
    | dsimp only
    | split
    | with_reducible refine Kept.upd0 ?_ ?_ ?_ ?_ ?_ ?_)

theorem State.coreWrite_kept {s0 : State} (s : State) (c core va : Nat) (bs : List Byte) (hk : Kept s0 s) : Kept s0 (State.coreWrite s c core va bs).1 := by
  unfold State.coreWrite
  repeat' (first
    | with_reducible assumption
    | with_reducible apply State.accFault_kept
    | with_reducible apply State.translate_kept
    | with_reducible apply State.paWrite_kept
    | with_reducible refine Kept.of_eq1 ?_ (by assumption)
    | with_reducible rfl
    | with_reducible exact fun h => h
    | dsimp only
    | with_reducible apply Kept.ite
    | with_reducible apply Kept.ite1
    | with_reducible apply Kept.ite2
    | split
    | with_reducible refine Kept.upd0 ?_ ?_ ?_ ?_ ?_ ?_)

theorem State.wpTake_kept {s0 : State} (s : State) (e : GEnv) (i : Ins) (k : Nat) (hk : Kept s0 s) : Kept s0 (State.wpTake s e i k) := by
  unfold State.wpTake
  repeat' (first
    | with_reducible assumption
    | with_reducible apply State.trapFree_kept
    | with_reducible apply State.haltGroup_kept
    | with_reducible apply State.updGrp_kept
    | with_reducible apply State.count_kept
    | with_reducible apply id_kept
    | with_reducible rfl
    | with_reducible exact fun h => h
    | dsimp only
    | with_reducible apply Kept.ite
    | split
    | with_reducible refine Kept.upd0 ?_ ?_ ?_ ?_ ?_ ?_)

theorem State.dispCheck_kept {s0 : State} (s : State) (d : Nat) (hk : Kept s0 s) : Kept s0 (State.dispCheck s d) := by
  unfold State.dispCheck
  repeat' (first
    | with_reducible assumption
    | with_reducible apply State.donePkt_kept
    | with_reducible rfl
    | with_reducible exact fun h => h
    | dsimp only
    | with_reducible apply Kept.ite
    | with_reducible apply KeptO.ite
    | split
    | with_reducible refine Kept.upd0 ?_ ?_ ?_ ?_ ?_ ?_)

theorem State.wgEnded_kept {s0 : State} (s : State) (d : Nat) (hk : Kept s0 s) : Kept s0 (State.wgEnded s d) := by
  unfold State.wgEnded
  repeat' (first
    | with_reducible assumption
    | with_reducible apply State.dispCheck_kept
    | with_reducible apply State.updDisp_kept
    | with_reducible refine Kept.foldl ?_ (fun _ _ _ => ?_)
    | with_reducible refine Kept.foldl1 ?_ (fun _ _ _ _ => ?_)
    | with_reducible refine Kept.foldl2 ?_ (fun _ _ _ _ => ?_)
    | with_reducible refine Kept.of_eq1 ?_ (by assumption)
    | with_reducible refine Kept.of_eq2 ?_ (by assumption)
    | with_reducible rfl
    | with_reducible exact fun h => h
    | dsimp only
    | with_reducible apply Kept.ite
    | split
    | with_reducible refine Kept.upd0 ?_ ?_ ?_ ?_ ?_ ?_)

theorem State.grpGone_kept {s0 : State} (s : State) (g : Nat) (hk : Kept s0 s) : Kept s0 (State.grpGone s g) := by
  unfold State.grpGone
  repeat' (first
    | with_reducible assumption
    | with_reducible apply State.wgEnded_kept
    | with_reducible apply State.haltSync_kept
    | with_reducible apply State.sclSync_kept
    | with_reducible apply State.updWg_kept
    | with_reducible rfl
    | with_reducible exact fun h => h
    | dsimp only
    | with_reducible apply Kept.ite
    | split
    | with_reducible refine Kept.upd0 ?_ ?_ ?_ ?_ ?_ ?_)

end Sys2Proof.Machine
end

