-- ==== Sys2Proof/Laws/KeptShCtrl.lean ====
section
/-! SUPPORT. Every operation of Machine/ShCtrl.lean keeps what no command may change. -/

namespace Sys2Proof.Machine

set_option linter.all false

theorem State.ctl_kept {s0 : State} (s : State) (op : Nat) (g : Nat) (i : Ins) (ops : List Opd) (needExt : Bool) (xmask : Nat) (f : Grp → Grp) (hk : Kept s0 s) : Kept s0 (State.ctl s op g i ops needExt xmask f) := by
  unfold State.ctl
  repeat' (first
    | with_reducible assumption
    | intro _
    | with_reducible apply State.issue_kept
    | with_reducible apply State.updGrp_kept
    | with_reducible rfl
    | with_reducible exact fun h => h
    | dsimp only
    | with_reducible apply Kept.ite
    | split)

theorem execCtrlNop_kept {s0 : State} (g : Nat) (i : Ins) (s : State) (hk : Kept s0 s) : KeptO s0 (execCtrlNop g i s) := by
  unfold execCtrlNop
  repeat' (first
    | with_reducible assumption
    | with_reducible apply Kept.next
    | with_reducible apply State.ctl_kept
    | with_reducible apply id_kept
    | with_reducible rfl
    | with_reducible exact fun h => h
    | dsimp only
    | split)

theorem execBr_kept {s0 : State} (g : Nat) (i : Ins) (s : State) (hk : Kept s0 s) : KeptO s0 (execBr g i s) := by
  unfold execBr
  repeat' (first
    | with_reducible assumption
    | with_reducible apply Kept.next
    | with_reducible apply State.ctl_kept
    | with_reducible rfl
    | with_reducible exact fun h => h
    | dsimp only
    | split
    | with_reducible refine Kept.upd0 ?_ ?_ ?_ ?_ ?_ ?_)

theorem execBrZ_kept {s0 : State} (g : Nat) (i : Ins) (s : State) (hk : Kept s0 s) : KeptO s0 (execBrZ g i s) := by
  unfold execBrZ
  repeat' (first
    | with_reducible assumption
    | with_reducible apply Kept.next
    | with_reducible apply State.ctl_kept
    | with_reducible rfl
    | with_reducible exact fun h => h
    | dsimp only
    | with_reducible apply Kept.ite
    | with_reducible apply KeptO.ite
    | split
    | with_reducible refine Kept.upd0 ?_ ?_ ?_ ?_ ?_ ?_)

theorem execBrNz_kept {s0 : State} (g : Nat) (i : Ins) (s : State) (hk : Kept s0 s) : KeptO s0 (execBrNz g i s) := by
  unfold execBrNz
  repeat' (first
    | with_reducible assumption
    | with_reducible apply Kept.next
    | with_reducible apply State.ctl_kept
    | with_reducible rfl
    | with_reducible exact fun h => h
    | dsimp only
    | with_reducible apply Kept.ite
    | with_reducible apply KeptO.ite
    | split
    | with_reducible refine Kept.upd0 ?_ ?_ ?_ ?_ ?_ ?_)

theorem execBrExecz_kept {s0 : State} (g : Nat) (i : Ins) (s : State) (hk : Kept s0 s) : KeptO s0 (execBrExecz g i s) := by
  unfold execBrExecz
  repeat' (first
    | with_reducible assumption
    | with_reducible apply Kept.next
    | with_reducible apply State.ctl_kept
    | with_reducible rfl
    | with_reducible exact fun h => h
    | dsimp only
    | with_reducible apply Kept.ite
    | with_reducible apply KeptO.ite
    | split
    | with_reducible refine Kept.upd0 ?_ ?_ ?_ ?_ ?_ ?_)

theorem execBrExecnz_kept {s0 : State} (g : Nat) (i : Ins) (s : State) (hk : Kept s0 s) : KeptO s0 (execBrExecnz g i s) := by
  unfold execBrExecnz
  repeat' (first
    | with_reducible assumption
    | with_reducible apply Kept.next
    | with_reducible apply State.ctl_kept
    | with_reducible rfl
    | with_reducible exact fun h => h
    | dsimp only
    | with_reducible apply Kept.ite
    | with_reducible apply KeptO.ite
    | split
    | with_reducible refine Kept.upd0 ?_ ?_ ?_ ?_ ?_ ?_)

theorem execIf_kept {s0 : State} (g : Nat) (i : Ins) (s : State) (hk : Kept s0 s) : KeptO s0 (execIf g i s) := by
  unfold execIf
  repeat' (first
    | with_reducible assumption
    | with_reducible apply Kept.next
    | with_reducible apply State.ctl_kept
    | with_reducible rfl
    | with_reducible exact fun h => h
    | dsimp only
    | split)

theorem execElse_kept {s0 : State} (g : Nat) (i : Ins) (s : State) (hk : Kept s0 s) : KeptO s0 (execElse g i s) := by
  unfold execElse
  repeat' (first
    | with_reducible assumption
    | with_reducible apply Kept.next
    | with_reducible apply State.ctl_kept
    | with_reducible rfl
    | with_reducible exact fun h => h
    | dsimp only
    | split)

theorem execEndif_kept {s0 : State} (g : Nat) (i : Ins) (s : State) (hk : Kept s0 s) : KeptO s0 (execEndif g i s) := by
  unfold execEndif
  repeat' (first
    | with_reducible assumption
    | with_reducible apply Kept.next
    | with_reducible apply State.ctl_kept
    | with_reducible rfl
    | with_reducible exact fun h => h
    | dsimp only
    | split)

theorem execBreak_kept {s0 : State} (g : Nat) (i : Ins) (s : State) (hk : Kept s0 s) : KeptO s0 (execBreak g i s) := by
  unfold execBreak
  repeat' (first
    | with_reducible assumption
    | with_reducible apply Kept.next
    | with_reducible apply State.ctl_kept
    | with_reducible rfl
    | with_reducible exact fun h => h
    | dsimp only
    | split)

theorem execCall_kept {s0 : State} (g : Nat) (i : Ins) (s : State) (hk : Kept s0 s) : KeptO s0 (execCall g i s) := by
  unfold execCall
  repeat' (first
    | with_reducible assumption
    | with_reducible apply Kept.next
    | with_reducible apply State.ctl_kept
    | with_reducible rfl
    | with_reducible exact fun h => h
    | dsimp only
    | split
    | with_reducible refine Kept.upd0 ?_ ?_ ?_ ?_ ?_ ?_)

theorem execRet_kept {s0 : State} (g : Nat) (i : Ins) (s : State) (hk : Kept s0 s) : KeptO s0 (execRet g i s) := by
  unfold execRet
  repeat' (first
    | with_reducible assumption
    | intro _
    | with_reducible apply Kept.next
    | with_reducible apply State.issue_kept
    | with_reducible apply State.updGrp_kept
    | with_reducible rfl
    | with_reducible exact fun h => h
    | dsimp only
    | with_reducible apply Kept.ite
    | with_reducible apply KeptO.ite
    | split
    | with_reducible refine Kept.upd0 ?_ ?_ ?_ ?_ ?_ ?_)

theorem execTrap_kept {s0 : State} (g : Nat) (i : Ins) (s : State) (hk : Kept s0 s) : KeptO s0 (execTrap g i s) := by
  unfold execTrap
  repeat' (first
    | with_reducible assumption
    | intro _
    | with_reducible apply Kept.next
    | with_reducible apply State.issue_kept
    | with_reducible apply State.trap_kept
    | with_reducible apply State.updGrp_kept
    | with_reducible rfl
    | with_reducible exact fun h => h
    | dsimp only
    | with_reducible apply Kept.ite
    | with_reducible apply KeptO.ite
    | split
    | with_reducible refine Kept.upd0 ?_ ?_ ?_ ?_ ?_ ?_)

theorem execRtt_kept {s0 : State} (g : Nat) (i : Ins) (s : State) (hk : Kept s0 s) : KeptO s0 (execRtt g i s) := by
  unfold execRtt
  repeat' (first
    | with_reducible assumption
    | intro _
    | with_reducible apply Kept.next
    | with_reducible apply State.issue_kept
    | with_reducible apply State.trap_kept
    | with_reducible apply State.updGrp_kept
    | with_reducible rfl
    | with_reducible exact fun h => h
    | dsimp only
    | with_reducible apply Kept.ite
    | with_reducible apply KeptO.ite
    | split
    | with_reducible refine Kept.upd0 ?_ ?_ ?_ ?_ ?_ ?_)

theorem execYield_kept {s0 : State} (g : Nat) (i : Ins) (s : State) (hk : Kept s0 s) : KeptO s0 (execYield g i s) := by
  unfold execYield
  repeat' (first
    | with_reducible assumption
    | intro _
    | with_reducible apply Kept.next
    | with_reducible apply State.issue_kept
    | with_reducible apply State.updGrp_kept
    | with_reducible rfl
    | with_reducible exact fun h => h
    | dsimp only
    | with_reducible apply Kept.ite
    | with_reducible apply KeptO.ite
    | split
    | with_reducible refine Kept.upd0 ?_ ?_ ?_ ?_ ?_ ?_)

theorem execSetmode_kept {s0 : State} (g : Nat) (i : Ins) (s : State) (hk : Kept s0 s) : KeptO s0 (execSetmode g i s) := by
  unfold execSetmode
  repeat' (first
    | with_reducible assumption
    | with_reducible apply State.free_kept
    | intro _
    | with_reducible apply Kept.next
    | with_reducible apply State.issue_kept
    | with_reducible apply State.updGrp_kept
    | with_reducible rfl
    | with_reducible exact fun h => h
    | dsimp only
    | with_reducible apply Kept.ite
    | with_reducible apply KeptO.ite
    | split
    | with_reducible refine Kept.upd0 ?_ ?_ ?_ ?_ ?_ ?_)

theorem execGetreg_kept {s0 : State} (g : Nat) (i : Ins) (s : State) (hk : Kept s0 s) : KeptO s0 (execGetreg g i s) := by
  unfold execGetreg
  repeat' (first
    | with_reducible assumption
    | intro _
    | with_reducible apply Kept.next
    | with_reducible apply State.issue_kept
    | with_reducible apply State.trap_kept
    | with_reducible apply State.updGrp_kept
    | with_reducible rfl
    | with_reducible exact fun h => h
    | dsimp only
    | with_reducible apply Kept.ite
    | with_reducible apply KeptO.ite
    | split)

theorem execSetreg_kept {s0 : State} (g : Nat) (i : Ins) (s : State) (hk : Kept s0 s) : KeptO s0 (execSetreg g i s) := by
  unfold execSetreg
  repeat' (first
    | with_reducible assumption
    | intro _
    | with_reducible apply Kept.next
    | with_reducible apply State.issue_kept
    | with_reducible apply State.trap_kept
    | with_reducible apply State.updGrp_kept
    | with_reducible rfl
    | with_reducible exact fun h => h
    | dsimp only
    | with_reducible apply Kept.ite
    | with_reducible apply KeptO.ite
    | split
    | with_reducible refine Kept.upd0 ?_ ?_ ?_ ?_ ?_ ?_)

theorem execBar_kept {s0 : State} (g : Nat) (i : Ins) (s : State) (hk : Kept s0 s) : KeptO s0 (execBar g i s) := by
  unfold execBar
  repeat' (first
    | with_reducible assumption
    | intro _
    | with_reducible apply Kept.next
    | with_reducible apply State.barRelease_kept
    | with_reducible apply State.issue_kept
    | with_reducible apply State.updWg_kept
    | with_reducible apply State.updGrp_kept
    | with_reducible rfl
    | with_reducible exact fun h => h
    | dsimp only
    | with_reducible apply Kept.ite
    | with_reducible apply KeptO.ite
    | split
    | with_reducible refine Kept.upd0 ?_ ?_ ?_ ?_ ?_ ?_)

theorem execFence_kept {s0 : State} (g : Nat) (i : Ins) (s : State) (hk : Kept s0 s) : KeptO s0 (execFence g i s) := by
  unfold execFence
  repeat' (first
    | with_reducible assumption
    | intro _
    | with_reducible apply Kept.next
    | with_reducible apply State.acquire_kept
    | with_reducible apply State.issue_kept
    | with_reducible rfl
    | with_reducible exact fun h => h
    | dsimp only
    | with_reducible apply Kept.ite
    | with_reducible apply KeptO.ite
    | split)

theorem State.tlyArg_kept {s0 : State} (s : State) (e : GEnv) (i : Ins) (hk : Kept s0 s) : Kept s0 (State.tlyArg s e i).1 := by
  unfold State.tlyArg
  repeat' (first
    | with_reducible assumption
    | with_reducible apply State.ctxFault_kept
    | with_reducible apply id_kept
    | with_reducible refine Kept.of_eq1 ?_ (by assumption)
    | with_reducible rfl
    | with_reducible exact fun h => h
    | dsimp only
    | with_reducible apply Kept.ite
    | with_reducible apply Kept.ite1
    | with_reducible apply Kept.ite2
    | split)

theorem execTlyWait_kept {s0 : State} (g : Nat) (i : Ins) (s : State) (hk : Kept s0 s) : KeptO s0 (execTlyWait g i s) := by
  unfold execTlyWait
  repeat' (first
    | with_reducible assumption
    | intro _
    | with_reducible apply Kept.next
    | with_reducible apply State.tlyArg_kept
    | with_reducible apply State.acquire_kept
    | with_reducible apply State.issue_kept
    | with_reducible apply State.addWait_kept
    | with_reducible apply State.updGrp_kept
    | with_reducible refine Kept.of_eq1 ?_ (by assumption)
    | with_reducible rfl
    | with_reducible exact fun h => h
    | dsimp only
    | with_reducible apply Kept.ite
    | with_reducible apply Kept.ite1
    | with_reducible apply Kept.ite2
    | with_reducible apply KeptO.ite
    | split
    | with_reducible refine Kept.upd0 ?_ ?_ ?_ ?_ ?_ ?_)

theorem execTlyWaitTimeout_kept {s0 : State} (g : Nat) (s : State) (hk : Kept s0 s) : KeptO s0 (execTlyWaitTimeout g s) := by
  unfold execTlyWaitTimeout
  repeat' (first
    | with_reducible assumption
    | with_reducible apply Kept.next
    | with_reducible apply State.dropWaits_kept
    | with_reducible apply State.updGrp_kept
    | with_reducible rfl
    | with_reducible exact fun h => h
    | dsimp only
    | with_reducible apply Kept.ite
    | with_reducible apply KeptO.ite
    | split
    | with_reducible refine Kept.upd0 ?_ ?_ ?_ ?_ ?_ ?_)

theorem execTlySignal_kept {s0 : State} (g : Nat) (i : Ins) (s : State) (hk : Kept s0 s) : KeptO s0 (execTlySignal g i s) := by
  unfold execTlySignal
  repeat' (first
    | with_reducible assumption
    | intro _
    | with_reducible apply Kept.next
    | with_reducible apply State.tlyArg_kept
    | with_reducible apply State.issue_kept
    | with_reducible apply State.signal_kept
    | with_reducible refine Kept.of_eq1 ?_ (by assumption)
    | with_reducible rfl
    | with_reducible exact fun h => h
    | dsimp only
    | with_reducible apply Kept.ite
    | with_reducible apply Kept.ite1
    | with_reducible apply Kept.ite2
    | with_reducible apply KeptO.ite
    | split
    | with_reducible refine Kept.upd0 ?_ ?_ ?_ ?_ ?_ ?_)

theorem execTlyRead_kept {s0 : State} (g : Nat) (i : Ins) (s : State) (hk : Kept s0 s) : KeptO s0 (execTlyRead g i s) := by
  unfold execTlyRead
  repeat' (first
    | with_reducible assumption
    | intro _
    | with_reducible apply Kept.next
    | with_reducible apply State.tlyArg_kept
    | with_reducible apply State.acquire_kept
    | with_reducible apply State.issue_kept
    | with_reducible apply State.updGrp_kept
    | with_reducible refine Kept.of_eq1 ?_ (by assumption)
    | with_reducible rfl
    | with_reducible exact fun h => h
    | dsimp only
    | with_reducible apply Kept.ite
    | with_reducible apply Kept.ite1
    | with_reducible apply Kept.ite2
    | with_reducible apply KeptO.ite
    | split
    | with_reducible refine Kept.upd0 ?_ ?_ ?_ ?_ ?_ ?_)

end Sys2Proof.Machine
end

