-- ==== Sys2Proof/Laws/KeptShMem.lean ====
section
/-! SUPPORT. Every operation of Machine/ShMem.lean keeps what no command may change. -/

namespace Sys2Proof.Machine

set_option linter.all false

theorem State.loadLanes_kept {s0 : State} (e : GEnv) (i : Ins) (x0 : List Nat) (x1 : State) (x2 : List Nat) (x3 : Grp) (hk : Kept s0 x1) : Kept s0 (State.loadLanes e i x0 x1 x2 x3).1 := by
  induction x0 generalizing x1 x2 x3 with
  | nil =>
    unfold State.loadLanes
    repeat' (first
      | with_reducible assumption
      | with_reducible apply State.coreRead_kept
      | with_reducible apply id_kept
      | with_reducible refine Kept.of_eq1 ?_ (by assumption)
      | with_reducible rfl
      | with_reducible exact fun h => h
      | dsimp only
      | with_reducible apply Kept.ite
      | with_reducible apply Kept.ite1
      | with_reducible apply Kept.ite2
      | split
      | with_reducible refine Kept.upd0 ?_ ?_ ?_ ?_ ?_ ?_)
  | cons a r ih =>
    unfold State.loadLanes
    repeat' (first
      | with_reducible assumption
      | with_reducible apply ih
      | with_reducible apply State.coreRead_kept
      | with_reducible apply id_kept
      | with_reducible refine Kept.of_eq1 ?_ (by assumption)
      | with_reducible rfl
      | with_reducible exact fun h => h
      | dsimp only
      | with_reducible apply Kept.ite
      | with_reducible apply Kept.ite1
      | with_reducible apply Kept.ite2
      | split
      | with_reducible refine Kept.upd0 ?_ ?_ ?_ ?_ ?_ ?_)

theorem execLd_kept {s0 : State} (g : Nat) (i : Ins) (s : State) (hk : Kept s0 s) : KeptO s0 (execLd g i s) := by
  unfold execLd
  repeat' (first
    | with_reducible assumption
    | intro _
    | with_reducible apply Kept.next
    | with_reducible apply State.loadLanes_kept
    | with_reducible apply State.wpTake_kept
    | with_reducible apply State.acquire_kept
    | with_reducible apply State.setGrp_kept
    | with_reducible apply State.issue_kept
    | with_reducible refine Kept.of_eq1 ?_ (by assumption)
    | with_reducible rfl
    | with_reducible exact fun h => h
    | dsimp only
    | with_reducible apply Kept.ite
    | with_reducible apply Kept.ite1
    | with_reducible apply Kept.ite2
    | with_reducible apply KeptO.ite
    | split
    | with_reducible refine Kept.upd0 ?_ ?_ ?_ ?_ ?_ ?_)

theorem State.storeLanes_kept {s0 : State} (e : GEnv) (i : Ins) (x0 : List Nat) (x1 : State) (hk : Kept s0 x1) : Kept s0 (State.storeLanes e i x0 x1) := by
  induction x0 generalizing x1 with
  | nil =>
    unfold State.storeLanes
    repeat' (first
      | with_reducible assumption
      | with_reducible apply State.coreWrite_kept
      | with_reducible apply State.updWg_kept
      | with_reducible apply id_kept
      | with_reducible refine Kept.of_eq1 ?_ (by assumption)
      | with_reducible rfl
      | with_reducible exact fun h => h
      | dsimp only
      | with_reducible apply Kept.ite
      | with_reducible apply Kept.ite1
      | with_reducible apply Kept.ite2
      | split
      | with_reducible refine Kept.upd0 ?_ ?_ ?_ ?_ ?_ ?_)
  | cons a r ih =>
    unfold State.storeLanes
    repeat' (first
      | with_reducible assumption
      | with_reducible apply ih
      | with_reducible apply State.coreWrite_kept
      | with_reducible apply State.updWg_kept
      | with_reducible apply id_kept
      | with_reducible refine Kept.of_eq1 ?_ (by assumption)
      | with_reducible rfl
      | with_reducible exact fun h => h
      | dsimp only
      | with_reducible apply Kept.ite
      | with_reducible apply Kept.ite1
      | with_reducible apply Kept.ite2
      | split
      | with_reducible refine Kept.upd0 ?_ ?_ ?_ ?_ ?_ ?_)

theorem execSt_kept {s0 : State} (g : Nat) (i : Ins) (s : State) (hk : Kept s0 s) : KeptO s0 (execSt g i s) := by
  unfold execSt
  repeat' (first
    | with_reducible assumption
    | intro _
    | with_reducible apply Kept.next
    | with_reducible apply State.storeLanes_kept
    | with_reducible apply State.wpTake_kept
    | with_reducible apply State.issue_kept
    | with_reducible rfl
    | with_reducible exact fun h => h
    | dsimp only
    | with_reducible apply Kept.ite
    | with_reducible apply KeptO.ite
    | split
    | with_reducible refine Kept.upd0 ?_ ?_ ?_ ?_ ?_ ?_)

theorem execSld_kept {s0 : State} (g : Nat) (i : Ins) (s : State) (hk : Kept s0 s) : KeptO s0 (execSld g i s) := by
  unfold execSld
  repeat' (first
    | with_reducible assumption
    | intro _
    | with_reducible apply Kept.next
    | with_reducible apply State.wpTake_kept
    | with_reducible apply State.coreRead_kept
    | with_reducible apply State.acquire_kept
    | with_reducible apply State.issue_kept
    | with_reducible apply State.updGrp_kept
    | with_reducible apply id_kept
    | with_reducible refine Kept.foldl ?_ (fun _ _ _ => ?_)
    | with_reducible refine Kept.of_eq1 ?_ (by assumption)
    | with_reducible refine Kept.foldl1 ?_ (fun _ _ _ _ => ?_)
    | with_reducible refine Kept.foldl2 ?_ (fun _ _ _ _ => ?_)
    | with_reducible refine Kept.of_eq2 ?_ (by assumption)
    | with_reducible rfl
    | with_reducible exact fun h => h
    | dsimp only
    | with_reducible apply Kept.ite
    | with_reducible apply Kept.ite1
    | with_reducible apply Kept.ite2
    | with_reducible apply KeptO.ite
    | split
    | with_reducible refine Kept.upd0 ?_ ?_ ?_ ?_ ?_ ?_)

theorem State.atomLane_kept {s0 : State} (s : State) (e : GEnv) (op : Atom) (va w x new : Nat) (xs : List Nat) (hk : Kept s0 s) : Kept s0 (State.atomLane s e op va w x new xs).1 := by
  unfold State.atomLane
  repeat' (first
    | with_reducible assumption
    | with_reducible apply State.pxlReq_kept
    | with_reducible apply State.freeBytes_kept
    | with_reducible apply State.accFault_kept
    | with_reducible apply State.translate_kept
    | with_reducible apply State.physWrite_kept
    | with_reducible apply State.physRead_kept
    | with_reducible apply id_kept
    | with_reducible refine Kept.of_eq1 ?_ (by assumption)
    | with_reducible rfl
    | with_reducible exact fun h => h
    | dsimp only
    | with_reducible apply Kept.ite
    | with_reducible apply Kept.ite1
    | with_reducible apply Kept.ite2
    | split
    | with_reducible refine Kept.upd0 ?_ ?_ ?_ ?_ ?_ ?_)

theorem State.atomLanes_kept {s0 : State} (e : GEnv) (i : Ins) (op : Atom) (w : Nat) (x0 : List Nat) (x1 : State) (x2 : Grp) (x3 : NMap Nat) (hk : Kept s0 x1) : Kept s0 (State.atomLanes e i op w x0 x1 x2 x3).1 := by
  induction x0 generalizing x1 x2 x3 with
  | nil =>
    unfold State.atomLanes
    repeat' (first
      | with_reducible assumption
      | with_reducible apply State.atomLane_kept
      | with_reducible apply State.updWg_kept
      | with_reducible refine Kept.of_eq1 ?_ (by assumption)
      | with_reducible rfl
      | with_reducible exact fun h => h
      | dsimp only
      | with_reducible apply Kept.ite
      | with_reducible apply Kept.ite1
      | with_reducible apply Kept.ite2
      | split
      | with_reducible refine Kept.upd0 ?_ ?_ ?_ ?_ ?_ ?_)
  | cons a r ih =>
    unfold State.atomLanes
    repeat' (first
      | with_reducible assumption
      | with_reducible apply ih
      | with_reducible apply State.atomLane_kept
      | with_reducible apply State.updWg_kept
      | with_reducible refine Kept.of_eq1 ?_ (by assumption)
      | with_reducible rfl
      | with_reducible exact fun h => h
      | dsimp only
      | with_reducible apply Kept.ite
      | with_reducible apply Kept.ite1
      | with_reducible apply Kept.ite2
      | split
      | with_reducible refine Kept.upd0 ?_ ?_ ?_ ?_ ?_ ?_)

theorem State.atomHost_kept {s0 : State} (e : GEnv) (i : Ins) (x0 : List Nat) (x1 : State) (hk : Kept s0 x1) : Kept s0 (State.atomHost e i x0 x1).1 := by
  induction x0 generalizing x1 with
  | nil =>
    unfold State.atomHost
    repeat' (first
      | with_reducible assumption
      | with_reducible apply State.translate_kept
      | with_reducible apply id_kept
      | with_reducible refine Kept.of_eq1 ?_ (by assumption)
      | with_reducible rfl
      | with_reducible exact fun h => h
      | dsimp only
      | with_reducible apply Kept.ite
      | with_reducible apply Kept.ite1
      | with_reducible apply Kept.ite2
      | split
      | with_reducible refine Kept.upd0 ?_ ?_ ?_ ?_ ?_ ?_)
  | cons a r ih =>
    unfold State.atomHost
    repeat' (first
      | with_reducible assumption
      | with_reducible apply ih
      | with_reducible apply State.translate_kept
      | with_reducible apply id_kept
      | with_reducible refine Kept.of_eq1 ?_ (by assumption)
      | with_reducible rfl
      | with_reducible exact fun h => h
      | dsimp only
      | with_reducible apply Kept.ite
      | with_reducible apply Kept.ite1
      | with_reducible apply Kept.ite2
      | split
      | with_reducible refine Kept.upd0 ?_ ?_ ?_ ?_ ?_ ?_)

theorem State.atom_kept {s0 : State} (s : State) (g : Nat) (i : Ins) (op : Atom) (w32 w64 : Bool) (h : Kept s0 s) :
    Kept s0 (State.atom s g i op w32 w64) := by
  unfold State.atom
  refine State.issue_kept _ _ _ _ _ _ _ _ _ _ (fun t e ht => ?_) h
  dsimp only
  split
  · exact State.wpTake_kept _ _ _ _ ht
  · repeat' (first
      | with_reducible assumption
      | with_reducible apply State.atomLanes_kept
      | with_reducible apply State.atomHost_kept
      | with_reducible apply State.acquire_kept
      | with_reducible apply State.setGrp_kept
      | with_reducible apply State.ctxFault_kept
      | with_reducible refine Kept.of_eq1 ?_ (by assumption)
      | split)

theorem execAtomAdd_kept {s0 : State} (g : Nat) (i : Ins) (s : State) (hk : Kept s0 s) : KeptO s0 (execAtomAdd g i s) := by
  unfold execAtomAdd
  repeat' (first
    | with_reducible assumption
    | with_reducible apply Kept.next
    | with_reducible apply State.atom_kept
    | with_reducible rfl
    | with_reducible exact fun h => h
    | dsimp only
    | split)

theorem execAtomSub_kept {s0 : State} (g : Nat) (i : Ins) (s : State) (hk : Kept s0 s) : KeptO s0 (execAtomSub g i s) := by
  unfold execAtomSub
  repeat' (first
    | with_reducible assumption
    | with_reducible apply Kept.next
    | with_reducible apply State.atom_kept
    | with_reducible rfl
    | with_reducible exact fun h => h
    | dsimp only
    | split)

theorem execAtomMinS_kept {s0 : State} (g : Nat) (i : Ins) (s : State) (hk : Kept s0 s) : KeptO s0 (execAtomMinS g i s) := by
  unfold execAtomMinS
  repeat' (first
    | with_reducible assumption
    | with_reducible apply Kept.next
    | with_reducible apply State.atom_kept
    | with_reducible rfl
    | with_reducible exact fun h => h
    | dsimp only
    | split)

theorem execAtomMinU_kept {s0 : State} (g : Nat) (i : Ins) (s : State) (hk : Kept s0 s) : KeptO s0 (execAtomMinU g i s) := by
  unfold execAtomMinU
  repeat' (first
    | with_reducible assumption
    | with_reducible apply Kept.next
    | with_reducible apply State.atom_kept
    | with_reducible rfl
    | with_reducible exact fun h => h
    | dsimp only
    | split)

theorem execAtomMaxS_kept {s0 : State} (g : Nat) (i : Ins) (s : State) (hk : Kept s0 s) : KeptO s0 (execAtomMaxS g i s) := by
  unfold execAtomMaxS
  repeat' (first
    | with_reducible assumption
    | with_reducible apply Kept.next
    | with_reducible apply State.atom_kept
    | with_reducible rfl
    | with_reducible exact fun h => h
    | dsimp only
    | split)

theorem execAtomMaxU_kept {s0 : State} (g : Nat) (i : Ins) (s : State) (hk : Kept s0 s) : KeptO s0 (execAtomMaxU g i s) := by
  unfold execAtomMaxU
  repeat' (first
    | with_reducible assumption
    | with_reducible apply Kept.next
    | with_reducible apply State.atom_kept
    | with_reducible rfl
    | with_reducible exact fun h => h
    | dsimp only
    | split)

theorem execAtomAnd_kept {s0 : State} (g : Nat) (i : Ins) (s : State) (hk : Kept s0 s) : KeptO s0 (execAtomAnd g i s) := by
  unfold execAtomAnd
  repeat' (first
    | with_reducible assumption
    | with_reducible apply Kept.next
    | with_reducible apply State.atom_kept
    | with_reducible rfl
    | with_reducible exact fun h => h
    | dsimp only
    | split)

theorem execAtomOr_kept {s0 : State} (g : Nat) (i : Ins) (s : State) (hk : Kept s0 s) : KeptO s0 (execAtomOr g i s) := by
  unfold execAtomOr
  repeat' (first
    | with_reducible assumption
    | with_reducible apply Kept.next
    | with_reducible apply State.atom_kept
    | with_reducible rfl
    | with_reducible exact fun h => h
    | dsimp only
    | split)

theorem execAtomXor_kept {s0 : State} (g : Nat) (i : Ins) (s : State) (hk : Kept s0 s) : KeptO s0 (execAtomXor g i s) := by
  unfold execAtomXor
  repeat' (first
    | with_reducible assumption
    | with_reducible apply Kept.next
    | with_reducible apply State.atom_kept
    | with_reducible rfl
    | with_reducible exact fun h => h
    | dsimp only
    | split)

theorem execAtomSwap_kept {s0 : State} (g : Nat) (i : Ins) (s : State) (hk : Kept s0 s) : KeptO s0 (execAtomSwap g i s) := by
  unfold execAtomSwap
  repeat' (first
    | with_reducible assumption
    | with_reducible apply Kept.next
    | with_reducible apply State.atom_kept
    | with_reducible rfl
    | with_reducible exact fun h => h
    | dsimp only
    | split)

theorem execAtomCas_kept {s0 : State} (g : Nat) (i : Ins) (s : State) (hk : Kept s0 s) : KeptO s0 (execAtomCas g i s) := by
  unfold execAtomCas
  repeat' (first
    | with_reducible assumption
    | with_reducible apply Kept.next
    | with_reducible apply State.atom_kept
    | with_reducible rfl
    | with_reducible exact fun h => h
    | dsimp only
    | split)

theorem execAtomFaddF32_kept {s0 : State} (g : Nat) (i : Ins) (s : State) (hk : Kept s0 s) : KeptO s0 (execAtomFaddF32 g i s) := by
  unfold execAtomFaddF32
  repeat' (first
    | with_reducible assumption
    | with_reducible apply Kept.next
    | with_reducible apply State.atom_kept
    | with_reducible rfl
    | with_reducible exact fun h => h
    | dsimp only
    | split)

theorem execAtomFaddF64_kept {s0 : State} (g : Nat) (i : Ins) (s : State) (hk : Kept s0 s) : KeptO s0 (execAtomFaddF64 g i s) := by
  unfold execAtomFaddF64
  repeat' (first
    | with_reducible assumption
    | with_reducible apply Kept.next
    | with_reducible apply State.atom_kept
    | with_reducible rfl
    | with_reducible exact fun h => h
    | dsimp only
    | split)

theorem execAtomFminF32_kept {s0 : State} (g : Nat) (i : Ins) (s : State) (hk : Kept s0 s) : KeptO s0 (execAtomFminF32 g i s) := by
  unfold execAtomFminF32
  repeat' (first
    | with_reducible assumption
    | with_reducible apply Kept.next
    | with_reducible apply State.atom_kept
    | with_reducible rfl
    | with_reducible exact fun h => h
    | dsimp only
    | split)

theorem execAtomFmaxF32_kept {s0 : State} (g : Nat) (i : Ins) (s : State) (hk : Kept s0 s) : KeptO s0 (execAtomFmaxF32 g i s) := by
  unfold execAtomFmaxF32
  repeat' (first
    | with_reducible assumption
    | with_reducible apply Kept.next
    | with_reducible apply State.atom_kept
    | with_reducible rfl
    | with_reducible exact fun h => h
    | dsimp only
    | split)

end Sys2Proof.Machine
end

