-- ==== Sys2Proof/Laws/KeptShMtx.lean ====
section
/-! SUPPORT. Every operation of Machine/ShMtx.lean keeps what no command may change. -/

namespace Sys2Proof.Machine

set_option linter.all false

theorem State.gmma_kept {s0 : State} (s : State) (op : Nat) (g : Nat) (i : Ins) (c4 : Nat) (hk : Kept s0 s) : Kept s0 (State.gmma s op g i c4) := by
  unfold State.gmma
  repeat' (first
    | with_reducible assumption
    | intro _
    | with_reducible apply State.setGrp_kept
    | with_reducible apply State.issue_kept
    | with_reducible apply State.pmu_kept
    | with_reducible apply State.fl_kept
    | with_reducible refine Kept.foldl ?_ (fun _ _ _ => ?_)
    | with_reducible refine Kept.foldl1 ?_ (fun _ _ _ _ => ?_)
    | with_reducible refine Kept.foldl2 ?_ (fun _ _ _ _ => ?_)
    | with_reducible refine Kept.of_eq1 ?_ (by assumption)
    | with_reducible refine Kept.of_eq2 ?_ (by assumption)
    | with_reducible rfl
    | with_reducible exact fun h => h
    | dsimp only
    | with_reducible apply Kept.ite
    | with_reducible apply Kept.ite1
    | with_reducible apply Kept.ite2
    | split)

theorem execGmmaBf16_kept {s0 : State} (g : Nat) (i : Ins) (s : State) (hk : Kept s0 s) : KeptO s0 (execGmmaBf16 g i s) := by
  unfold execGmmaBf16
  repeat' (first
    | with_reducible assumption
    | with_reducible apply Kept.next
    | with_reducible apply State.gmma_kept
    | with_reducible rfl
    | with_reducible exact fun h => h
    | dsimp only
    | split)

theorem execGmmaF16_kept {s0 : State} (g : Nat) (i : Ins) (s : State) (hk : Kept s0 s) : KeptO s0 (execGmmaF16 g i s) := by
  unfold execGmmaF16
  repeat' (first
    | with_reducible assumption
    | with_reducible apply Kept.next
    | with_reducible apply State.gmma_kept
    | with_reducible rfl
    | with_reducible exact fun h => h
    | dsimp only
    | split)

theorem execGmmaSf84_kept {s0 : State} (g : Nat) (i : Ins) (s : State) (hk : Kept s0 s) : KeptO s0 (execGmmaSf84 g i s) := by
  unfold execGmmaSf84
  repeat' (first
    | with_reducible assumption
    | with_reducible apply Kept.next
    | with_reducible apply State.gmma_kept
    | with_reducible rfl
    | with_reducible exact fun h => h
    | dsimp only
    | split)

theorem execGmmaSf85_kept {s0 : State} (g : Nat) (i : Ins) (s : State) (hk : Kept s0 s) : KeptO s0 (execGmmaSf85 g i s) := by
  unfold execGmmaSf85
  repeat' (first
    | with_reducible assumption
    | with_reducible apply Kept.next
    | with_reducible apply State.gmma_kept
    | with_reducible rfl
    | with_reducible exact fun h => h
    | dsimp only
    | split)

theorem execGmmaI8_kept {s0 : State} (g : Nat) (i : Ins) (s : State) (hk : Kept s0 s) : KeptO s0 (execGmmaI8 g i s) := by
  unfold execGmmaI8
  repeat' (first
    | with_reducible assumption
    | with_reducible apply Kept.next
    | with_reducible apply State.gmma_kept
    | with_reducible rfl
    | with_reducible exact fun h => h
    | dsimp only
    | split)

end Sys2Proof.Machine
end

