-- ==== Sys2Proof/Laws/KeptCompute.lean ====
section
/-! SUPPORT. Every operation of Machine/Compute.lean keeps what no command may change. -/

namespace Sys2Proof.Machine

set_option linter.all false

theorem State.queueTest_kept {s0 : State} (s : State) (typ unit trigger inc : Nat) (hk : Kept s0 s) : Kept s0 (State.queueTest s typ unit trigger inc) := by
  unfold State.queueTest
  repeat' (first
    | with_reducible assumption
    | with_reducible rfl
    | with_reducible exact fun h => h
    | dsimp only
    | with_reducible apply Kept.ite
    | split
    | with_reducible refine Kept.upd0 ?_ ?_ ?_ ?_ ?_ ?_)

theorem State.startReset_kept {s0 : State} (s : State) (r : BlkRst) (hk : Kept s0 s) : Kept s0 (State.startReset s r) := by
  unfold State.startReset
  repeat' (first
    | with_reducible assumption
    | with_reducible apply State.count_kept
    | with_reducible rfl
    | with_reducible exact fun h => h
    | dsimp only
    | with_reducible apply Kept.ite
    | split
    | with_reducible refine Kept.upd0 ?_ ?_ ?_ ?_ ?_ ?_)

theorem State.askTest_kept {s0 : State} (s : State) (typ unit trigger inc : Nat) (code : Nat) (hk : Kept s0 s) : Kept s0 (State.askTest s typ unit trigger inc code) := by
  unfold State.askTest
  repeat' (first
    | with_reducible assumption
    | with_reducible apply State.startReset_kept
    | with_reducible apply State.queueTest_kept
    | with_reducible rfl
    | with_reducible exact fun h => h
    | dsimp only
    | with_reducible apply Kept.ite
    | split
    | with_reducible refine Kept.upd0 ?_ ?_ ?_ ?_ ?_ ?_)

theorem State.readKdesc_kept {s0 : State} (s : State) (c eng va : Nat) (hk : Kept s0 s) : Kept s0 (State.readKdesc s c eng va).1 := by
  unfold State.readKdesc
  repeat' (first
    | with_reducible assumption
    | with_reducible apply State.vread_kept
    | with_reducible apply State.ctxFault_kept
    | with_reducible refine Kept.of_eq1 ?_ (by assumption)
    | with_reducible rfl
    | with_reducible exact fun h => h
    | dsimp only
    | with_reducible apply Kept.ite
    | with_reducible apply Kept.ite1
    | with_reducible apply Kept.ite2
    | split
    | with_reducible refine Kept.upd0 ?_ ?_ ?_ ?_ ?_ ?_)

theorem State.launchGrid_kept {s0 : State} (s : State) (sid : Nat) (st : Strm) (p : Pkt) (kva gx gy gz mask : Nat) (hk : Kept s0 s) : Kept s0 (State.launchGrid s sid st p kva gx gy gz mask) := by
  unfold State.launchGrid
  repeat' (first
    | with_reducible assumption
    | with_reducible apply State.pktAcquire_kept
    | with_reducible apply State.readKdesc_kept
    | with_reducible apply State.acquire_kept
    | with_reducible apply State.l1Drop_kept
    | with_reducible apply State.ctxFault_kept
    | with_reducible apply State.donePkt_kept
    | with_reducible refine Kept.of_eq1 ?_ (by assumption)
    | with_reducible rfl
    | with_reducible exact fun h => h
    | dsimp only
    | with_reducible apply Kept.ite
    | with_reducible apply Kept.ite1
    | with_reducible apply Kept.ite2
    | with_reducible apply KeptO.ite
    | split
    | with_reducible refine Kept.upd0 ?_ ?_ ?_ ?_ ?_ ?_)

theorem execDispatch_kept {s0 : State} (sid : Nat) (s : State) (hk : Kept s0 s) : KeptO s0 (execDispatch sid s) := by
  unfold execDispatch
  repeat' (first
    | with_reducible assumption
    | with_reducible apply Kept.next
    | with_reducible apply State.launchGrid_kept
    | with_reducible apply State.dispatch_kept
    | with_reducible rfl
    | with_reducible exact fun h => h
    | dsimp only
    | split
    | with_reducible refine Kept.upd0 ?_ ?_ ?_ ?_ ?_ ?_)

theorem execDispatchIndirect_kept {s0 : State} (sid : Nat) (s : State) (hk : Kept s0 s) : KeptO s0 (execDispatchIndirect sid s) := by
  unfold execDispatchIndirect
  repeat' (first
    | with_reducible assumption
    | intro _
    | with_reducible apply Kept.next
    | with_reducible apply State.launchGrid_kept
    | with_reducible apply State.dispatch_kept
    | with_reducible apply State.onRead_kept
    | with_reducible apply State.vread_kept
    | with_reducible refine Kept.of_eq1 ?_ (by assumption)
    | with_reducible rfl
    | with_reducible exact fun h => h
    | dsimp only
    | split
    | with_reducible refine Kept.upd0 ?_ ?_ ?_ ?_ ?_ ?_)

theorem State.setSplit_kept {s0 : State} (s : State) (core split : Nat) (hk : Kept s0 s) : Kept s0 (State.setSplit s core split) := by
  unfold State.setSplit
  repeat' (first
    | with_reducible assumption
    | with_reducible apply State.wr_kept
    | with_reducible rfl
    | with_reducible exact fun h => h
    | dsimp only
    | with_reducible apply Kept.ite
    | split
    | with_reducible refine Kept.upd0 ?_ ?_ ?_ ?_ ?_ ?_)

theorem State.tagCore_kept {s0 : State} (s : State) (core c : Nat) (hk : Kept s0 s) : Kept s0 (State.tagCore s core c) := by
  unfold State.tagCore
  repeat' (first
    | with_reducible assumption
    | with_reducible refine Kept.foldl ?_ (fun _ _ _ => ?_)
    | with_reducible refine Kept.foldl1 ?_ (fun _ _ _ _ => ?_)
    | with_reducible refine Kept.foldl2 ?_ (fun _ _ _ _ => ?_)
    | with_reducible refine Kept.of_eq1 ?_ (by assumption)
    | with_reducible refine Kept.of_eq2 ?_ (by assumption)
    | with_reducible rfl
    | with_reducible exact fun h => h
    | dsimp only
    | with_reducible apply Kept.ite
    | with_reducible apply Kept.ite1
    | with_reducible apply Kept.ite2
    | with_reducible apply KeptO.ite
    | split
    | with_reducible refine Kept.upd0 ?_ ?_ ?_ ?_ ?_ ?_
    | with_reducible refine Kept.upd1 ?_ ?_ ?_ ?_ ?_ ?_)

theorem State.startGrp_kept {s0 : State} (s : State) (g : Nat) (y : Grp) (hk : Kept s0 s) : Kept s0 (State.startGrp s g y) := by
  unfold State.startGrp
  repeat' (first
    | with_reducible assumption
    | with_reducible rfl
    | with_reducible exact fun h => h
    | dsimp only
    | split
    | with_reducible refine Kept.upd1 ?_ ?_ ?_ ?_ ?_ ?_
    | with_reducible refine Kept.upd0 ?_ ?_ ?_ ?_ ?_ ?_)

theorem State.placeOn_kept {s0 : State} (s : State) (d : Nat) (x : Disp) (core idx n : Nat) (init : Nat → Grp → Grp) (lanes : Nat → Nat) (hk : Kept s0 s) : Kept s0 (State.placeOn s d x core idx n init lanes) := by
  unfold State.placeOn
  repeat' (first
    | with_reducible assumption
    | with_reducible apply State.tagCore_kept
    | with_reducible apply State.startGrp_kept
    | with_reducible apply State.setSplit_kept
    | with_reducible apply State.sclSync_kept
    | with_reducible apply State.updDisp_kept
    | with_reducible refine Kept.foldl ?_ (fun _ _ _ => ?_)
    | with_reducible refine Kept.foldl1 ?_ (fun _ _ _ _ => ?_)
    | with_reducible refine Kept.foldl2 ?_ (fun _ _ _ _ => ?_)
    | with_reducible refine Kept.of_eq1 ?_ (by assumption)
    | with_reducible refine Kept.of_eq2 ?_ (by assumption)
    | with_reducible rfl
    | with_reducible exact fun h => h
    | dsimp only
    | split
    | with_reducible refine Kept.upd1 ?_ ?_ ?_ ?_ ?_ ?_
    | with_reducible refine Kept.upd0 ?_ ?_ ?_ ?_ ?_ ?_)

theorem execPreemptRequest_kept {s0 : State} (c : Nat) (s : State) (hk : Kept s0 s) : KeptO s0 (execPreemptRequest c s) := by
  unfold execPreemptRequest
  repeat' (first
    | with_reducible assumption
    | with_reducible apply Kept.next
    | with_reducible apply State.updWg_kept
    | with_reducible apply State.trace_kept
    | with_reducible apply State.count_kept
    | with_reducible refine Kept.foldl ?_ (fun _ _ _ => ?_)
    | with_reducible refine Kept.foldl1 ?_ (fun _ _ _ _ => ?_)
    | with_reducible refine Kept.foldl2 ?_ (fun _ _ _ _ => ?_)
    | with_reducible refine Kept.of_eq1 ?_ (by assumption)
    | with_reducible refine Kept.of_eq2 ?_ (by assumption)
    | with_reducible rfl
    | with_reducible exact fun h => h
    | dsimp only
    | with_reducible apply Kept.ite
    | with_reducible apply Kept.ite1
    | with_reducible apply Kept.ite2
    | with_reducible apply KeptO.ite
    | split
    | with_reducible refine Kept.upd0 ?_ ?_ ?_ ?_ ?_ ?_)

theorem execStopTimeout_kept {s0 : State} (c : Nat) (s : State) (hk : Kept s0 s) : KeptO s0 (execStopTimeout c s) := by
  unfold execStopTimeout
  repeat' (first
    | with_reducible assumption
    | with_reducible apply Kept.next
    | with_reducible rfl
    | with_reducible exact fun h => h
    | dsimp only
    | with_reducible apply Kept.ite
    | with_reducible apply KeptO.ite
    | split
    | with_reducible refine Kept.upd0 ?_ ?_ ?_ ?_ ?_ ?_)

theorem State.savePiece_kept {s0 : State} (s : State) (c eng : Nat) (area : Bool) (a : Nat) (bs : List Byte) (hk : Kept s0 s) : Kept s0 (State.savePiece s c eng area a bs).1 := by
  unfold State.savePiece
  repeat' (first
    | with_reducible assumption
    | with_reducible apply State.vwrite_kept
    | with_reducible apply State.accFault_kept
    | with_reducible apply State.physWrite_kept
    | with_reducible refine Kept.of_eq1 ?_ (by assumption)
    | with_reducible rfl
    | with_reducible exact fun h => h
    | dsimp only
    | with_reducible apply Kept.ite
    | with_reducible apply Kept.ite1
    | with_reducible apply Kept.ite2
    | split
    | with_reducible refine Kept.upd0 ?_ ?_ ?_ ?_ ?_ ?_)

theorem State.saveWg_kept {s0 : State} (s : State) (wid : Nat) (w : Wg) (x : Disp) (hk : Kept s0 s) : Kept s0 (State.saveWg s wid w x) := by
  unfold State.saveWg
  repeat' (first
    | with_reducible assumption
    | with_reducible apply State.savePiece_kept
    | with_reducible apply State.ctl_kept
    | with_reducible apply State.haltSync_kept
    | with_reducible apply State.sclSync_kept
    | with_reducible apply State.dropWaits_kept
    | with_reducible apply State.freeBytes_kept
    | with_reducible apply State.fl_kept
    | with_reducible refine Kept.foldl ?_ (fun _ _ _ => ?_)
    | with_reducible refine Kept.of_eq1 ?_ (by assumption)
    | with_reducible refine Kept.of_eq2 ?_ (by assumption)
    | with_reducible refine Kept.foldl1 ?_ (fun _ _ _ _ => ?_)
    | with_reducible refine Kept.foldl2 ?_ (fun _ _ _ _ => ?_)
    | with_reducible rfl
    | with_reducible exact fun h => h
    | dsimp only
    | with_reducible apply Kept.ite
    | with_reducible apply Kept.ite1
    | with_reducible apply Kept.ite2
    | split
    | exact fun _ h => Memory.wf_write _ _ h
    | exact fun _ _ => Memory.wf_foldl _ rfl (fun _ _ h => Memory.wf_write _ _ h)
    | (intro _ h; split <;> first | exact h | exact Memory.wf_write _ _ h)
    | with_reducible refine Kept.upd0 ?_ ?_ ?_ ?_ ?_ ?_)

theorem State.lateStop_kept {s0 : State} (s : State) (since bound : Nat) (hk : Kept s0 s) : Kept s0 (State.lateStop s since bound) := by
  unfold State.lateStop
  repeat' (first
    | with_reducible assumption
    | with_reducible apply State.count_kept
    | with_reducible apply State.raise_kept
    | with_reducible rfl
    | with_reducible exact fun h => h
    | dsimp only
    | with_reducible apply Kept.ite
    | split)

theorem State.gfxStopped_kept {s0 : State} (s : State) (hk : Kept s0 s) : Kept s0 (State.gfxStopped s) := by
  unfold State.gfxStopped
  repeat' (first
    | with_reducible assumption
    | with_reducible apply State.lateStop_kept
    | with_reducible apply State.trace_kept
    | with_reducible refine Kept.foldl ?_ (fun _ _ _ => ?_)
    | with_reducible refine Kept.foldl1 ?_ (fun _ _ _ _ => ?_)
    | with_reducible refine Kept.foldl2 ?_ (fun _ _ _ _ => ?_)
    | with_reducible refine Kept.of_eq1 ?_ (by assumption)
    | with_reducible refine Kept.of_eq2 ?_ (by assumption)
    | with_reducible rfl
    | with_reducible exact fun h => h
    | dsimp only
    | with_reducible apply Kept.ite
    | with_reducible apply Kept.ite1
    | with_reducible apply Kept.ite2
    | with_reducible apply KeptO.ite
    | split
    | with_reducible refine Kept.upd0 ?_ ?_ ?_ ?_ ?_ ?_
    | with_reducible refine Kept.upd1 ?_ ?_ ?_ ?_ ?_ ?_)

theorem execSaveComplete_kept {s0 : State} (c : Nat) (s : State) (hk : Kept s0 s) : KeptO s0 (execSaveComplete c s) := by
  unfold execSaveComplete
  repeat' (first
    | with_reducible assumption
    | with_reducible apply Kept.next
    | with_reducible apply State.lateStop_kept
    | with_reducible apply State.saveWg_kept
    | with_reducible apply State.trace_kept
    | with_reducible refine Kept.foldl ?_ (fun _ _ _ => ?_)
    | with_reducible refine Kept.foldl1 ?_ (fun _ _ _ _ => ?_)
    | with_reducible refine Kept.foldl2 ?_ (fun _ _ _ _ => ?_)
    | with_reducible refine Kept.of_eq1 ?_ (by assumption)
    | with_reducible refine Kept.of_eq2 ?_ (by assumption)
    | with_reducible rfl
    | with_reducible exact fun h => h
    | dsimp only
    | with_reducible apply Kept.ite
    | with_reducible apply KeptO.ite
    | split
    | with_reducible refine Kept.upd0 ?_ ?_ ?_ ?_ ?_ ?_)

theorem State.ysaveSync_kept {s0 : State} (s : State) (p : Nat) (hk : Kept s0 s) : Kept s0 (State.ysaveSync s p) := by
  unfold State.ysaveSync
  repeat' (first
    | with_reducible assumption
    | with_reducible apply State.fl_kept
    | with_reducible rfl
    | with_reducible exact fun h => h
    | dsimp only
    | split)

theorem State.readImage_kept {s0 : State} (c eng : Nat) (area : Bool) (x0 : List (Nat × List Byte)) (x1 : State) (x2 : List Byte) (hk : Kept s0 x1) : Kept s0 (State.readImage c eng area x0 x1 x2).1 := by
  induction x0 generalizing x1 x2 with
  | nil =>
    unfold State.readImage
    repeat' (first
      | with_reducible assumption
      | with_reducible apply State.vread_kept
      | with_reducible apply State.accFault_kept
      | with_reducible apply State.physRead_kept
      | with_reducible refine Kept.of_eq1 ?_ (by assumption)
      | with_reducible rfl
      | with_reducible exact fun h => h
      | dsimp only
      | with_reducible apply Kept.ite
      | with_reducible apply Kept.ite1
      | with_reducible apply Kept.ite2
      | split
      | with_reducible refine Kept.upd0 ?_ ?_ ?_ ?_ ?_ ?_)
  | cons a r ih =>
    unfold State.readImage
    repeat' (first
      | with_reducible assumption
      | with_reducible apply ih
      | with_reducible apply State.vread_kept
      | with_reducible apply State.accFault_kept
      | with_reducible apply State.physRead_kept
      | with_reducible refine Kept.of_eq1 ?_ (by assumption)
      | with_reducible rfl
      | with_reducible exact fun h => h
      | dsimp only
      | with_reducible apply Kept.ite
      | with_reducible apply Kept.ite1
      | with_reducible apply Kept.ite2
      | split
      | with_reducible refine Kept.upd0 ?_ ?_ ?_ ?_ ?_ ?_)

theorem State.resumeWg_kept {s0 : State} (s : State) (v : SavedWg) (x : Disp) (core : Nat) (hk : Kept s0 s) : Kept s0 (State.resumeWg s v x core) := by
  unfold State.resumeWg
  repeat' (first
    | with_reducible assumption
    | with_reducible apply State.tagCore_kept
    | with_reducible apply State.ysaveSync_kept
    | with_reducible apply State.setSplit_kept
    | with_reducible apply State.haltSync_kept
    | with_reducible apply State.sclSync_kept
    | with_reducible apply State.addWait_kept
    | with_reducible apply State.wakeWaiter_kept
    | with_reducible refine Kept.foldl ?_ (fun _ _ _ => ?_)
    | with_reducible refine Kept.of_eq1 ?_ (by assumption)
    | with_reducible refine Kept.foldl1 ?_ (fun _ _ _ _ => ?_)
    | with_reducible refine Kept.foldl2 ?_ (fun _ _ _ _ => ?_)
    | with_reducible refine Kept.of_eq2 ?_ (by assumption)
    | with_reducible rfl
    | with_reducible exact fun h => h
    | dsimp only
    | with_reducible apply Kept.ite
    | with_reducible apply Kept.ite1
    | with_reducible apply Kept.ite2
    | with_reducible apply KeptO.ite
    | split
    | with_reducible refine Kept.upd0 ?_ ?_ ?_ ?_ ?_ ?_)

theorem execRestoreComplete_kept {s0 : State} (core : Nat) (s : State) (hk : Kept s0 s) : KeptO s0 (execRestoreComplete core s) := by
  unfold execRestoreComplete
  repeat' (first
    | with_reducible assumption
    | with_reducible apply Kept.next
    | with_reducible apply State.resumeWg_kept
    | with_reducible apply State.readImage_kept
    | with_reducible apply State.ysaveSync_kept
    | with_reducible apply State.ctxFault_kept
    | with_reducible apply State.trace_kept
    | with_reducible refine Kept.of_eq1 ?_ (by assumption)
    | with_reducible rfl
    | with_reducible exact fun h => h
    | dsimp only
    | with_reducible apply Kept.ite
    | with_reducible apply Kept.ite1
    | with_reducible apply Kept.ite2
    | with_reducible apply KeptO.ite
    | split
    | with_reducible refine Kept.upd0 ?_ ?_ ?_ ?_ ?_ ?_)

end Sys2Proof.Machine
end

