-- ==== Sys2Proof/Laws/KeptRaster.lean ====
section
/-! SUPPORT. Every operation of Machine/Raster.lean keeps what no command may change. -/

namespace Sys2Proof.Machine

set_option linter.all false

theorem State.updPass_kept {s0 : State} (s : State) (id : Nat) (f : GPass → GPass) (hk : Kept s0 s) : Kept s0 (State.updPass s id f) := by
  unfold State.updPass
  repeat' (first
    | with_reducible assumption
    | with_reducible apply id_kept
    | with_reducible rfl
    | with_reducible exact fun h => h
    | dsimp only
    | split
    | with_reducible refine Kept.upd0 ?_ ?_ ?_ ?_ ?_ ?_)

theorem State.gfxFault_kept {s0 : State} (s : State) (c code : Nat) (hk : Kept s0 s) : Kept s0 (State.gfxFault s c code) := by
  unfold State.gfxFault
  repeat' (first
    | with_reducible assumption
    | with_reducible apply State.ctxFault_kept
    | with_reducible rfl
    | with_reducible exact fun h => h
    | dsimp only
    | split)

theorem State.nodeEnd_kept {s0 : State} (s : State) (sid : Nat) (hk : Kept s0 s) : Kept s0 (State.nodeEnd s sid) := by
  unfold State.nodeEnd
  repeat' (first
    | with_reducible assumption
    | with_reducible apply State.gfxFault_kept
    | with_reducible rfl
    | with_reducible exact fun h => h
    | dsimp only
    | with_reducible apply Kept.ite
    | with_reducible apply KeptO.ite
    | split
    | with_reducible refine Kept.upd0 ?_ ?_ ?_ ?_ ?_ ?_)

theorem execGfxState_kept {s0 : State} (sid : Nat) (s : State) (hk : Kept s0 s) : KeptO s0 (execGfxState sid s) := by
  unfold execGfxState
  repeat' (first
    | with_reducible assumption
    | with_reducible apply Kept.next
    | with_reducible apply State.nodeEnd_kept
    | with_reducible apply State.dispatch_kept
    | with_reducible apply State.donePkt_kept
    | with_reducible rfl
    | with_reducible exact fun h => h
    | dsimp only
    | with_reducible apply Kept.ite
    | with_reducible apply KeptO.ite
    | split
    | with_reducible refine Kept.upd0 ?_ ?_ ?_ ?_ ?_ ?_)

theorem State.vaLocal_kept {s0 : State} (s : State) (c va : Nat) (hk : Kept s0 s) : Kept s0 (State.vaLocal s c va).1 := by
  unfold State.vaLocal
  repeat' (first
    | with_reducible assumption
    | with_reducible apply State.translate_kept
    | with_reducible refine Kept.of_eq1 ?_ (by assumption)
    | with_reducible rfl
    | with_reducible exact fun h => h
    | dsimp only
    | split
    | with_reducible refine Kept.upd0 ?_ ?_ ?_ ?_ ?_ ?_)

theorem execRenderPassBegin_kept {s0 : State} (sid : Nat) (s : State) (hk : Kept s0 s) : KeptO s0 (execRenderPassBegin sid s) := by
  unfold execRenderPassBegin
  repeat' (first
    | with_reducible assumption
    | intro _
    | with_reducible apply Kept.next
    | with_reducible apply State.vaLocal_kept
    | with_reducible apply State.nodeEnd_kept
    | with_reducible apply State.gfxFault_kept
    | with_reducible apply State.dispatch_kept
    | with_reducible apply State.vwrite_kept
    | with_reducible apply State.onOk_kept
    | with_reducible apply State.onRead_kept
    | with_reducible apply State.vread_kept
    | with_reducible apply State.ctxFault_kept
    | with_reducible apply State.freeBytes_kept
    | with_reducible refine Kept.of_eq1 ?_ (by assumption)
    | with_reducible refine Kept.of_eq2 ?_ (by assumption)
    | with_reducible rfl
    | with_reducible exact fun h => h
    | dsimp only
    | with_reducible apply Kept.ite
    | with_reducible apply Kept.ite1
    | with_reducible apply Kept.ite2
    | with_reducible apply KeptO.ite
    | split
    | with_reducible refine Kept.upd0 ?_ ?_ ?_ ?_ ?_ ?_)

theorem State.readStage_kept {s0 : State} (s : State) (c eng va loc : Nat) (hk : Kept s0 s) : Kept s0 (State.readStage s c eng va loc).1 := by
  unfold State.readStage
  repeat' (first
    | with_reducible assumption
    | with_reducible apply State.vread_kept
    | with_reducible apply State.ctxFault_kept
    | with_reducible refine Kept.of_eq1 ?_ (by assumption)
    | with_reducible rfl
    | with_reducible exact fun h => h
    | dsimp only
    | with_reducible apply Kept.ite
    | with_reducible apply Kept.ite1
    | with_reducible apply Kept.ite2
    | split
    | with_reducible refine Kept.upd0 ?_ ?_ ?_ ?_ ?_ ?_)

theorem State.drawState_kept {s0 : State} (s : State) (g : GPass) (pso dyn : Nat) (hk : Kept s0 s) : Kept s0 (State.drawState s g pso dyn).1 := by
  unfold State.drawState
  repeat' (first
    | with_reducible assumption
    | with_reducible apply State.readStage_kept
    | with_reducible apply State.gfxFault_kept
    | with_reducible apply State.vread_kept
    | with_reducible refine Kept.foldl ?_ (fun _ _ _ => ?_)
    | with_reducible refine Kept.of_eq1 ?_ (by assumption)
    | with_reducible refine Kept.foldl1 ?_ (fun _ _ _ _ => ?_)
    | with_reducible refine Kept.foldl2 ?_ (fun _ _ _ _ => ?_)
    | with_reducible refine Kept.of_eq2 ?_ (by assumption)
    | with_reducible rfl
    | with_reducible exact fun h => h
    | dsimp only
    | with_reducible apply Kept.ite
    | with_reducible apply Kept.ite1
    | with_reducible apply Kept.ite2
    | split
    | with_reducible refine Kept.upd0 ?_ ?_ ?_ ?_ ?_ ?_)

theorem State.gfxDisp_kept {s0 : State} (s : State) (id : Nat) (g : GPass) (stage tile n cl : Nat) (k : KDesc) (hk : Kept s0 s) : Kept s0 (State.gfxDisp s id g stage tile n cl k) := by
  unfold State.gfxDisp
  repeat' (first
    | with_reducible assumption
    | with_reducible apply id_kept
    | with_reducible rfl
    | with_reducible exact fun h => h
    | dsimp only
    | split
    | with_reducible refine Kept.upd0 ?_ ?_ ?_ ?_ ?_ ?_)

theorem State.readIndices_kept {s0 : State} (s : State) (c eng va size : Nat) (restart : Bool) (a : DrawArgs) (hk : Kept s0 s) : Kept s0 (State.readIndices s c eng va size restart a).1 := by
  unfold State.readIndices
  repeat' (first
    | with_reducible assumption
    | with_reducible apply State.vread_kept
    | with_reducible apply State.count_kept
    | with_reducible refine Kept.of_eq1 ?_ (by assumption)
    | with_reducible rfl
    | with_reducible exact fun h => h
    | dsimp only
    | with_reducible apply Kept.ite
    | with_reducible apply Kept.ite1
    | with_reducible apply Kept.ite2
    | split
    | with_reducible refine Kept.upd0 ?_ ?_ ?_ ?_ ?_ ?_)

theorem State.mkDraw_kept {s0 : State} (s : State) (g : GPass) (num sub : Nat) (st : GState) (vin : List Byte) (ks : List KDesc) (a : DrawArgs) (idx : Option (Nat × Nat × Bool)) (hk : Kept s0 s) : Kept s0 (State.mkDraw s g num sub st vin ks a idx).1 := by
  unfold State.mkDraw
  repeat' (first
    | with_reducible assumption
    | with_reducible apply State.readIndices_kept
    | with_reducible apply State.count_kept
    | with_reducible refine Kept.of_eq1 ?_ (by assumption)
    | with_reducible rfl
    | with_reducible exact fun h => h
    | dsimp only
    | with_reducible apply Kept.ite
    | with_reducible apply Kept.ite1
    | with_reducible apply Kept.ite2
    | split
    | with_reducible refine Kept.upd0 ?_ ?_ ?_ ?_ ?_ ?_)

theorem State.binGo_kept {s0 : State} (id : Nat) (x0 : List GPrim) (x1 : State) (hk : Kept s0 x1) : Kept s0 (State.binGo id x0 x1) := by
  induction x0 generalizing x1 with
  | nil =>
    unfold State.binGo
    repeat' (first
      | with_reducible assumption
      | with_reducible apply State.gfxFault_kept
      | with_reducible apply State.updPass_kept
      | with_reducible apply State.vwrite_kept
      | with_reducible apply State.pmu_kept
      | with_reducible apply State.freeBytes_kept
      | with_reducible apply id_kept
      | with_reducible refine Kept.foldl ?_ (fun _ _ _ => ?_)
      | with_reducible refine Kept.of_eq1 ?_ (by assumption)
      | with_reducible refine Kept.of_eq2 ?_ (by assumption)
      | with_reducible refine Kept.foldl1 ?_ (fun _ _ _ _ => ?_)
      | with_reducible refine Kept.foldl2 ?_ (fun _ _ _ _ => ?_)
      | with_reducible rfl
      | with_reducible exact fun h => h
      | dsimp only
      | with_reducible apply Kept.ite
      | with_reducible apply Kept.ite1
      | with_reducible apply Kept.ite2
      | split
      | with_reducible refine Kept.upd0 ?_ ?_ ?_ ?_ ?_ ?_)
  | cons a r ih =>
    unfold State.binGo
    repeat' (first
      | with_reducible assumption
      | with_reducible apply ih
      | with_reducible apply State.gfxFault_kept
      | with_reducible apply State.updPass_kept
      | with_reducible apply State.vwrite_kept
      | with_reducible apply State.pmu_kept
      | with_reducible apply State.freeBytes_kept
      | with_reducible apply id_kept
      | with_reducible refine Kept.foldl ?_ (fun _ _ _ => ?_)
      | with_reducible refine Kept.of_eq1 ?_ (by assumption)
      | with_reducible refine Kept.of_eq2 ?_ (by assumption)
      | with_reducible refine Kept.foldl1 ?_ (fun _ _ _ _ => ?_)
      | with_reducible refine Kept.foldl2 ?_ (fun _ _ _ _ => ?_)
      | with_reducible rfl
      | with_reducible exact fun h => h
      | dsimp only
      | with_reducible apply Kept.ite
      | with_reducible apply Kept.ite1
      | with_reducible apply Kept.ite2
      | split
      | with_reducible refine Kept.upd0 ?_ ?_ ?_ ?_ ?_ ?_)

theorem State.drawGo_kept {s0 : State} (s : State) (id : Nat) (fuel : Nat) (hk : Kept s0 s) : Kept s0 (State.drawGo s id fuel) := by
  induction fuel generalizing s with
  | zero =>
    unfold State.drawGo
    repeat' (first
      | with_reducible assumption
      | with_reducible apply State.gfxDisp_kept
      | with_reducible apply State.updPass_kept
      | with_reducible apply id_kept
      | with_reducible rfl
      | with_reducible exact fun h => h
      | dsimp only
      | with_reducible apply Kept.ite
      | split
      | with_reducible refine Kept.upd0 ?_ ?_ ?_ ?_ ?_ ?_)
  | succ f ih =>
    unfold State.drawGo
    repeat' (first
      | with_reducible assumption
      | with_reducible apply ih
      | with_reducible apply State.gfxDisp_kept
      | with_reducible apply State.updPass_kept
      | with_reducible apply id_kept
      | with_reducible rfl
      | with_reducible exact fun h => h
      | dsimp only
      | with_reducible apply Kept.ite
      | split
      | with_reducible refine Kept.upd0 ?_ ?_ ?_ ?_ ?_ ?_)

theorem State.drawNext_kept {s0 : State} (s : State) (id : Nat) (hk : Kept s0 s) : Kept s0 (State.drawNext s id) := by
  unfold State.drawNext
  repeat' (first
    | with_reducible assumption
    | with_reducible apply State.updPass_kept
    | with_reducible apply State.drawGo_kept
    | with_reducible apply id_kept
    | with_reducible rfl
    | with_reducible exact fun h => h
    | dsimp only
    | with_reducible apply Kept.ite
    | split
    | with_reducible refine Kept.upd0 ?_ ?_ ?_ ?_ ?_ ?_)

theorem State.geomDone_kept {s0 : State} (s : State) (id : Nat) (hk : Kept s0 s) : Kept s0 (State.geomDone s id) := by
  unfold State.geomDone
  repeat' (first
    | with_reducible assumption
    | with_reducible apply State.drawNext_kept
    | with_reducible apply State.binGo_kept
    | with_reducible apply id_kept
    | with_reducible rfl
    | with_reducible exact fun h => h
    | dsimp only
    | split
    | with_reducible refine Kept.upd0 ?_ ?_ ?_ ?_ ?_ ?_)

theorem State.binResume_kept {s0 : State} (s : State) (hk : Kept s0 s) : Kept s0 (State.binResume s) := by
  unfold State.binResume
  repeat' (first
    | with_reducible assumption
    | with_reducible apply State.binGo_kept
    | with_reducible apply State.updPass_kept
    | with_reducible apply State.drawNext_kept
    | with_reducible refine Kept.foldl ?_ (fun _ _ _ => ?_)
    | with_reducible refine Kept.foldl1 ?_ (fun _ _ _ _ => ?_)
    | with_reducible refine Kept.foldl2 ?_ (fun _ _ _ _ => ?_)
    | with_reducible refine Kept.of_eq1 ?_ (by assumption)
    | with_reducible refine Kept.of_eq2 ?_ (by assumption)
    | with_reducible rfl
    | with_reducible exact fun h => h
    | dsimp only
    | with_reducible apply Kept.ite
    | with_reducible apply Kept.ite1
    | with_reducible apply Kept.ite2
    | with_reducible apply KeptO.ite
    | split
    | with_reducible refine Kept.upd0 ?_ ?_ ?_ ?_ ?_ ?_
    | with_reducible refine Kept.upd1 ?_ ?_ ?_ ?_ ?_ ?_)

theorem State.drawPkt_kept {s0 : State} (s : State) (sid op : Nat) (mk : State → Nat → GPass → GState → List Byte → List KDesc → Pkt → State × Option (List GDraw)) (h_mk : ∀ a0 a1 a2 a3 a4 a5 a6, Kept s0 a0 → Kept s0 (mk a0 a1 a2 a3 a4 a5 a6).1) (hk : Kept s0 s) : Kept s0 (State.drawPkt s sid op mk) := by
  unfold State.drawPkt
  repeat' (first
    | with_reducible assumption
    | with_reducible apply State.pktAcquire_kept
    | with_reducible apply h_mk
    | with_reducible apply State.drawNext_kept
    | with_reducible apply State.drawState_kept
    | with_reducible apply State.nodeEnd_kept
    | with_reducible apply State.gfxFault_kept
    | with_reducible apply State.updPass_kept
    | with_reducible apply State.acquire_kept
    | with_reducible apply State.l1Drop_kept
    | with_reducible apply State.dispatch_kept
    | with_reducible apply id_kept
    | with_reducible refine Kept.of_eq1 ?_ (by assumption)
    | with_reducible rfl
    | with_reducible exact fun h => h
    | dsimp only
    | with_reducible apply Kept.ite
    | with_reducible apply Kept.ite1
    | with_reducible apply Kept.ite2
    | split
    | with_reducible refine Kept.upd0 ?_ ?_ ?_ ?_ ?_ ?_)

theorem execDraw_kept {s0 : State} (sid : Nat) (s : State) (hk : Kept s0 s) : KeptO s0 (execDraw sid s) := by
  unfold execDraw
  repeat' (first
    | with_reducible assumption
    | intro _
    | with_reducible apply Kept.next
    | with_reducible apply State.drawPkt_kept
    | with_reducible apply State.mkDraw_kept
    | with_reducible refine Kept.of_eq1 ?_ (by assumption)
    | with_reducible rfl
    | with_reducible exact fun h => h
    | dsimp only
    | split
    | with_reducible refine Kept.upd0 ?_ ?_ ?_ ?_ ?_ ?_)

theorem execDrawIndexed_kept {s0 : State} (sid : Nat) (s : State) (hk : Kept s0 s) : KeptO s0 (execDrawIndexed sid s) := by
  unfold execDrawIndexed
  repeat' (first
    | with_reducible assumption
    | intro _
    | with_reducible apply Kept.next
    | with_reducible apply State.drawPkt_kept
    | with_reducible apply State.mkDraw_kept
    | with_reducible refine Kept.of_eq1 ?_ (by assumption)
    | with_reducible rfl
    | with_reducible exact fun h => h
    | dsimp only
    | split
    | with_reducible refine Kept.upd0 ?_ ?_ ?_ ?_ ?_ ?_)

theorem State.indirect_kept {s0 : State} (g : GPass) (gs : GState) (vin : List Byte) (ks : List KDesc) (p : Pkt) (x0 : List Nat) (x1 : State) (x2 : List GDraw) (hk : Kept s0 x1) : Kept s0 (State.indirect g gs vin ks p x0 x1 x2).1 := by
  induction x0 generalizing x1 x2 with
  | nil =>
    unfold State.indirect
    repeat' (first
      | with_reducible assumption
      | with_reducible apply State.mkDraw_kept
      | with_reducible apply State.vread_kept
      | with_reducible refine Kept.of_eq1 ?_ (by assumption)
      | with_reducible rfl
      | with_reducible exact fun h => h
      | dsimp only
      | with_reducible apply Kept.ite
      | with_reducible apply Kept.ite1
      | with_reducible apply Kept.ite2
      | split
      | with_reducible refine Kept.upd0 ?_ ?_ ?_ ?_ ?_ ?_)
  | cons a r ih =>
    unfold State.indirect
    repeat' (first
      | with_reducible assumption
      | with_reducible apply ih
      | with_reducible apply State.mkDraw_kept
      | with_reducible apply State.vread_kept
      | with_reducible refine Kept.of_eq1 ?_ (by assumption)
      | with_reducible rfl
      | with_reducible exact fun h => h
      | dsimp only
      | with_reducible apply Kept.ite
      | with_reducible apply Kept.ite1
      | with_reducible apply Kept.ite2
      | split
      | with_reducible refine Kept.upd0 ?_ ?_ ?_ ?_ ?_ ?_)

theorem execDrawIndirect_kept {s0 : State} (sid : Nat) (s : State) (hk : Kept s0 s) : KeptO s0 (execDrawIndirect sid s) := by
  unfold execDrawIndirect
  repeat' (first
    | with_reducible assumption
    | intro _
    | with_reducible apply Kept.next
    | with_reducible apply State.indirect_kept
    | with_reducible apply State.drawPkt_kept
    | with_reducible refine Kept.of_eq1 ?_ (by assumption)
    | with_reducible rfl
    | with_reducible exact fun h => h
    | dsimp only
    | split)

theorem State.attribute_kept {s0 : State} (s : State) (c eng : Nat) (vin : List Byte) (k vert inst : Nat) (hk : Kept s0 s) : Kept s0 (State.attribute s c eng vin k vert inst).1 := by
  unfold State.attribute
  repeat' (first
    | with_reducible assumption
    | with_reducible apply State.vread_kept
    | with_reducible refine Kept.of_eq1 ?_ (by assumption)
    | with_reducible rfl
    | with_reducible exact fun h => h
    | dsimp only
    | with_reducible apply Kept.ite
    | with_reducible apply Kept.ite1
    | with_reducible apply Kept.ite2
    | split
    | with_reducible refine Kept.upd0 ?_ ?_ ?_ ?_ ?_ ?_)

theorem State.vertexIn_kept {s0 : State} (c eng lane vert inst : Nat) (vin : List Byte) (x0 : List Nat) (x1 : State) (x2 : Grp) (hk : Kept s0 x1) : Kept s0 (State.vertexIn c eng lane vert inst vin x0 x1 x2).1 := by
  induction x0 generalizing x1 x2 with
  | nil =>
    unfold State.vertexIn
    repeat' (first
      | with_reducible assumption
      | with_reducible apply State.attribute_kept
      | with_reducible refine Kept.foldl ?_ (fun _ _ _ => ?_)
      | with_reducible refine Kept.of_eq1 ?_ (by assumption)
      | with_reducible refine Kept.foldl1 ?_ (fun _ _ _ _ => ?_)
      | with_reducible refine Kept.foldl2 ?_ (fun _ _ _ _ => ?_)
      | with_reducible refine Kept.of_eq2 ?_ (by assumption)
      | with_reducible rfl
      | with_reducible exact fun h => h
      | dsimp only
      | split
      | with_reducible refine Kept.upd0 ?_ ?_ ?_ ?_ ?_ ?_)
  | cons a r ih =>
    unfold State.vertexIn
    repeat' (first
      | with_reducible assumption
      | with_reducible apply ih
      | with_reducible apply State.attribute_kept
      | with_reducible refine Kept.foldl ?_ (fun _ _ _ => ?_)
      | with_reducible refine Kept.of_eq1 ?_ (by assumption)
      | with_reducible refine Kept.foldl1 ?_ (fun _ _ _ _ => ?_)
      | with_reducible refine Kept.foldl2 ?_ (fun _ _ _ _ => ?_)
      | with_reducible refine Kept.of_eq2 ?_ (by assumption)
      | with_reducible rfl
      | with_reducible exact fun h => h
      | dsimp only
      | split
      | with_reducible refine Kept.upd0 ?_ ?_ ?_ ?_ ?_ ?_)

theorem State.vertsIn_kept {s0 : State} (c eng inst : Nat) (d : GDraw) (x0 : List (Nat × Nat)) (x1 : State) (x2 : Grp) (hk : Kept s0 x1) : Kept s0 (State.vertsIn c eng inst d x0 x1 x2).1 := by
  induction x0 generalizing x1 x2 with
  | nil =>
    unfold State.vertsIn
    repeat' (first
      | with_reducible assumption
      | with_reducible apply State.vertexIn_kept
      | with_reducible refine Kept.of_eq1 ?_ (by assumption)
      | with_reducible rfl
      | with_reducible exact fun h => h
      | dsimp only
      | split
      | with_reducible refine Kept.upd0 ?_ ?_ ?_ ?_ ?_ ?_)
  | cons a r ih =>
    unfold State.vertsIn
    repeat' (first
      | with_reducible assumption
      | with_reducible apply ih
      | with_reducible apply State.vertexIn_kept
      | with_reducible refine Kept.of_eq1 ?_ (by assumption)
      | with_reducible rfl
      | with_reducible exact fun h => h
      | dsimp only
      | split
      | with_reducible refine Kept.upd0 ?_ ?_ ?_ ?_ ?_ ?_)

theorem State.gfxPlace_kept {s0 : State} (s : State) (d : Nat) (x : Disp) (core lanes : Nat) (regs : Grp → Grp) (loc : List Byte) (hk : Kept s0 s) : Kept s0 (State.gfxPlace s d x core lanes regs loc) := by
  unfold State.gfxPlace
  repeat' (first
    | with_reducible assumption
    | with_reducible apply State.placeOn_kept
    | with_reducible apply State.updWg_kept
    | with_reducible rfl
    | with_reducible exact fun h => h
    | dsimp only
    | with_reducible apply Kept.ite
    | with_reducible apply KeptO.ite
    | split)

theorem State.placeGfx_kept {s0 : State} (s : State) (d : Nat) (x : Disp) (stage id tile : Nat) (hk : Kept s0 s) : Kept s0 (State.placeGfx s d x stage id tile) := by
  unfold State.placeGfx
  repeat' (first
    | with_reducible assumption
    | with_reducible apply State.gfxPlace_kept
    | with_reducible apply State.vertsIn_kept
    | with_reducible apply id_kept
    | with_reducible refine Kept.foldl ?_ (fun _ _ _ => ?_)
    | with_reducible refine Kept.of_eq1 ?_ (by assumption)
    | with_reducible refine Kept.foldl1 ?_ (fun _ _ _ _ => ?_)
    | with_reducible refine Kept.foldl2 ?_ (fun _ _ _ _ => ?_)
    | with_reducible refine Kept.of_eq2 ?_ (by assumption)
    | with_reducible rfl
    | with_reducible exact fun h => h
    | dsimp only
    | with_reducible apply Kept.ite
    | with_reducible apply Kept.ite1
    | with_reducible apply Kept.ite2
    | with_reducible apply KeptO.ite
    | split
    | with_reducible refine Kept.upd0 ?_ ?_ ?_ ?_ ?_ ?_)

theorem execWorkgroupPlace_kept {s0 : State} (d : Nat) (s : State) (hk : Kept s0 s) : KeptO s0 (execWorkgroupPlace d s) := by
  unfold execWorkgroupPlace
  repeat' (first
    | with_reducible assumption
    | with_reducible apply Kept.next
    | with_reducible apply State.placeGfx_kept
    | with_reducible apply State.placeOn_kept
    | with_reducible apply id_kept
    | with_reducible rfl
    | with_reducible exact fun h => h
    | dsimp only
    | split
    | with_reducible refine Kept.upd0 ?_ ?_ ?_ ?_ ?_ ?_)

theorem State.tileGo_kept {s0 : State} (s : State) (id : Nat) (t : GTile) (hk : Kept s0 s) : Kept s0 (State.tileGo s id t) := by
  unfold State.tileGo
  repeat' (first
    | with_reducible assumption
    | with_reducible apply State.gfxDisp_kept
    | with_reducible apply State.updPass_kept
    | with_reducible apply id_kept
    | with_reducible rfl
    | with_reducible exact fun h => h
    | dsimp only
    | with_reducible apply Kept.ite
    | split
    | with_reducible refine Kept.upd0 ?_ ?_ ?_ ?_ ?_ ?_)

theorem State.gfxEnd_kept {s0 : State} (s : State) (e : GEnv) (hk : Kept s0 s) : Kept s0 (State.gfxEnd s e) := by
  unfold State.gfxEnd
  repeat' (first
    | with_reducible assumption
    | with_reducible apply State.updPass_kept
    | with_reducible apply State.count_kept
    | with_reducible apply id_kept
    | with_reducible refine Kept.foldl ?_ (fun _ _ _ => ?_)
    | with_reducible refine Kept.foldl1 ?_ (fun _ _ _ _ => ?_)
    | with_reducible refine Kept.foldl2 ?_ (fun _ _ _ _ => ?_)
    | with_reducible refine Kept.of_eq1 ?_ (by assumption)
    | with_reducible refine Kept.of_eq2 ?_ (by assumption)
    | with_reducible rfl
    | with_reducible exact fun h => h
    | dsimp only
    | with_reducible apply Kept.ite
    | with_reducible apply Kept.ite1
    | with_reducible apply Kept.ite2
    | split
    | with_reducible refine Kept.upd0 ?_ ?_ ?_ ?_ ?_ ?_)

theorem State.stageDone_kept {s0 : State} (s : State) (stage id tile : Nat) (hk : Kept s0 s) : Kept s0 (State.stageDone s stage id tile) := by
  unfold State.stageDone
  repeat' (first
    | with_reducible assumption
    | with_reducible apply State.tileGo_kept
    | with_reducible apply State.geomDone_kept
    | with_reducible apply State.gfxDisp_kept
    | with_reducible apply State.updPass_kept
    | with_reducible apply id_kept
    | with_reducible rfl
    | with_reducible exact fun h => h
    | dsimp only
    | with_reducible apply Kept.ite
    | with_reducible apply Kept.ite1
    | with_reducible apply Kept.ite2
    | split
    | with_reducible refine Kept.upd1 ?_ ?_ ?_ ?_ ?_ ?_
    | with_reducible refine Kept.upd0 ?_ ?_ ?_ ?_ ?_ ?_)

theorem State.gfxGo_kept {s0 : State} (s : State) (hk : Kept s0 s) : Kept s0 (State.gfxGo s) := by
  unfold State.gfxGo
  repeat' (first
    | with_reducible assumption
    | with_reducible apply State.stageDone_kept
    | with_reducible apply id_kept
    | with_reducible refine Kept.foldl ?_ (fun _ _ _ => ?_)
    | with_reducible refine Kept.foldl1 ?_ (fun _ _ _ _ => ?_)
    | with_reducible refine Kept.foldl2 ?_ (fun _ _ _ _ => ?_)
    | with_reducible refine Kept.of_eq1 ?_ (by assumption)
    | with_reducible refine Kept.of_eq2 ?_ (by assumption)
    | with_reducible rfl
    | with_reducible exact fun h => h
    | dsimp only
    | split
    | with_reducible refine Kept.upd0 ?_ ?_ ?_ ?_ ?_ ?_)

theorem State.loadRows_kept {s0 : State} (c eng : Nat) (p : GPass) (a tile : Nat) (x0 : List Nat) (x1 : State) (x2 : Memory) (hk : Kept s0 x1) : Kept s0 (State.loadRows c eng p a tile x0 x1 x2).1 := by
  induction x0 generalizing x1 x2 with
  | nil =>
    unfold State.loadRows
    repeat' (first
      | with_reducible assumption
      | with_reducible apply State.vread_kept
      | with_reducible refine Kept.of_eq1 ?_ (by assumption)
      | with_reducible rfl
      | with_reducible exact fun h => h
      | dsimp only
      | split
      | with_reducible refine Kept.upd0 ?_ ?_ ?_ ?_ ?_ ?_)
  | cons a r ih =>
    unfold State.loadRows
    repeat' (first
      | with_reducible assumption
      | with_reducible apply ih
      | with_reducible apply State.vread_kept
      | with_reducible refine Kept.of_eq1 ?_ (by assumption)
      | with_reducible rfl
      | with_reducible exact fun h => h
      | dsimp only
      | split
      | with_reducible refine Kept.upd0 ?_ ?_ ?_ ?_ ?_ ?_)

theorem State.loadAtts_kept {s0 : State} (c eng : Nat) (p : GPass) (tile : Nat) (x0 : List Nat) (x1 : State) (x2 : Memory) (hk : Kept s0 x1) : Kept s0 (State.loadAtts c eng p tile x0 x1 x2).1 := by
  induction x0 generalizing x1 x2 with
  | nil =>
    unfold State.loadAtts
    repeat' (first
      | with_reducible assumption
      | with_reducible apply State.loadRows_kept
      | with_reducible apply State.freeBytes_kept
      | with_reducible refine Kept.of_eq1 ?_ (by assumption)
      | with_reducible refine Kept.of_eq2 ?_ (by assumption)
      | with_reducible rfl
      | with_reducible exact fun h => h
      | dsimp only
      | with_reducible apply Kept.ite
      | with_reducible apply Kept.ite1
      | with_reducible apply Kept.ite2
      | split
      | with_reducible refine Kept.upd0 ?_ ?_ ?_ ?_ ?_ ?_)
  | cons a r ih =>
    unfold State.loadAtts
    repeat' (first
      | with_reducible assumption
      | with_reducible apply ih
      | with_reducible apply State.loadRows_kept
      | with_reducible apply State.freeBytes_kept
      | with_reducible refine Kept.of_eq1 ?_ (by assumption)
      | with_reducible refine Kept.of_eq2 ?_ (by assumption)
      | with_reducible rfl
      | with_reducible exact fun h => h
      | dsimp only
      | with_reducible apply Kept.ite
      | with_reducible apply Kept.ite1
      | with_reducible apply Kept.ite2
      | split
      | with_reducible refine Kept.upd0 ?_ ?_ ?_ ?_ ?_ ?_)

theorem execTileStart_kept {s0 : State} (id : Nat) (s : State) (hk : Kept s0 s) : KeptO s0 (execTileStart id s) := by
  unfold execTileStart
  repeat' (first
    | with_reducible assumption
    | with_reducible apply State.tagCore_kept
    | with_reducible apply Kept.next
    | with_reducible apply State.loadAtts_kept
    | with_reducible apply State.tileGo_kept
    | with_reducible apply State.updPass_kept
    | with_reducible apply State.setSplit_kept
    | with_reducible apply State.vread_kept
    | with_reducible apply id_kept
    | with_reducible refine Kept.of_eq1 ?_ (by assumption)
    | with_reducible rfl
    | with_reducible exact fun h => h
    | dsimp only
    | with_reducible apply Kept.ite
    | with_reducible apply Kept.ite1
    | with_reducible apply Kept.ite2
    | with_reducible apply KeptO.ite
    | split
    | with_reducible refine Kept.upd0 ?_ ?_ ?_ ?_ ?_ ?_)

theorem State.putRows_kept {s0 : State} (c eng : Nat) (x0 : List (Nat × List Byte)) (x1 : State) (hk : Kept s0 x1) : Kept s0 (State.putRows c eng x0 x1).1 := by
  induction x0 generalizing x1 with
  | nil =>
    unfold State.putRows
    repeat' (first
      | with_reducible assumption
      | with_reducible apply State.vwrite_kept
      | with_reducible refine Kept.of_eq1 ?_ (by assumption)
      | with_reducible rfl
      | with_reducible exact fun h => h
      | dsimp only
      | split
      | with_reducible refine Kept.upd0 ?_ ?_ ?_ ?_ ?_ ?_)
  | cons a r ih =>
    unfold State.putRows
    repeat' (first
      | with_reducible assumption
      | with_reducible apply ih
      | with_reducible apply State.vwrite_kept
      | with_reducible refine Kept.of_eq1 ?_ (by assumption)
      | with_reducible rfl
      | with_reducible exact fun h => h
      | dsimp only
      | split
      | with_reducible refine Kept.upd0 ?_ ?_ ?_ ?_ ?_ ?_)

theorem State.storeAtts_kept {s0 : State} (eng : Nat) (p : GPass) (t : GTile) (x0 : List Nat) (x1 : State) (x2 : Nat) (hk : Kept s0 x1) : Kept s0 (State.storeAtts eng p t x0 x1 x2).1 := by
  induction x0 generalizing x1 x2 with
  | nil =>
    unfold State.storeAtts
    repeat' (first
      | with_reducible assumption
      | with_reducible apply State.putRows_kept
      | with_reducible apply State.vread_kept
      | with_reducible refine Kept.of_eq1 ?_ (by assumption)
      | with_reducible rfl
      | with_reducible exact fun h => h
      | dsimp only
      | with_reducible apply Kept.ite
      | with_reducible apply Kept.ite1
      | with_reducible apply Kept.ite2
      | split
      | with_reducible refine Kept.upd0 ?_ ?_ ?_ ?_ ?_ ?_)
  | cons a r ih =>
    unfold State.storeAtts
    repeat' (first
      | with_reducible assumption
      | with_reducible apply ih
      | with_reducible apply State.putRows_kept
      | with_reducible apply State.vread_kept
      | with_reducible refine Kept.of_eq1 ?_ (by assumption)
      | with_reducible rfl
      | with_reducible exact fun h => h
      | dsimp only
      | with_reducible apply Kept.ite
      | with_reducible apply Kept.ite1
      | with_reducible apply Kept.ite2
      | split
      | with_reducible refine Kept.upd0 ?_ ?_ ?_ ?_ ?_ ?_)

theorem State.passPkts_kept {s0 : State} (s : State) (p : GPass) (hk : Kept s0 s) : Kept s0 (State.passPkts s p) := by
  unfold State.passPkts
  repeat' (first
    | with_reducible assumption
    | with_reducible apply State.donePkt_kept
    | with_reducible refine Kept.foldl ?_ (fun _ _ _ => ?_)
    | with_reducible refine Kept.foldl1 ?_ (fun _ _ _ _ => ?_)
    | with_reducible refine Kept.foldl2 ?_ (fun _ _ _ _ => ?_)
    | with_reducible refine Kept.of_eq1 ?_ (by assumption)
    | with_reducible refine Kept.of_eq2 ?_ (by assumption)
    | with_reducible rfl
    | with_reducible exact fun h => h
    | dsimp only
    | split
    | with_reducible refine Kept.upd0 ?_ ?_ ?_ ?_ ?_ ?_)

theorem State.passEnd_kept {s0 : State} (s : State) (id : Nat) (p : GPass) (hk : Kept s0 s) : Kept s0 (State.passEnd s id p) := by
  unfold State.passEnd
  repeat' (first
    | with_reducible assumption
    | with_reducible apply State.passPkts_kept
    | with_reducible apply State.putRows_kept
    | with_reducible apply State.free_kept
    | with_reducible apply id_kept
    | with_reducible refine Kept.of_eq1 ?_ (by assumption)
    | with_reducible refine Kept.of_eq2 ?_ (by assumption)
    | with_reducible rfl
    | with_reducible exact fun h => h
    | dsimp only
    | with_reducible apply Kept.ite
    | with_reducible apply Kept.ite1
    | with_reducible apply Kept.ite2
    | split
    | with_reducible refine Kept.upd0 ?_ ?_ ?_ ?_ ?_ ?_)

theorem State.flushEnd_kept {s0 : State} (s : State) (id : Nat) (p : GPass) (hk : Kept s0 s) : Kept s0 (State.flushEnd s id p) := by
  unfold State.flushEnd
  repeat' (first
    | with_reducible assumption
    | with_reducible apply State.drawNext_kept
    | with_reducible apply State.binGo_kept
    | with_reducible apply State.updPass_kept
    | with_reducible apply id_kept
    | with_reducible rfl
    | with_reducible exact fun h => h
    | dsimp only
    | split
    | with_reducible refine Kept.upd0 ?_ ?_ ?_ ?_ ?_ ?_)

theorem State.tileDone'_kept {s0 : State} (s : State) (id : Nat) (t : GTile) (skips : Nat) (hk : Kept s0 s) : Kept s0 (State.tileDone' s id t skips) := by
  unfold State.tileDone'
  repeat' (first
    | with_reducible assumption
    | with_reducible apply State.flushEnd_kept
    | with_reducible apply State.passEnd_kept
    | with_reducible apply State.updPass_kept
    | with_reducible apply id_kept
    | with_reducible rfl
    | with_reducible exact fun h => h
    | dsimp only
    | with_reducible apply Kept.ite
    | split
    | with_reducible refine Kept.upd0 ?_ ?_ ?_ ?_ ?_ ?_)

theorem State.shownTile_kept {s0 : State} (s : State) (id : Nat) (p : GPass) (t : GTile) (hk : Kept s0 s) :
    Kept s0 (State.shownTile s id p t).2 := by
  unfold State.shownTile
  repeat' (first
    | with_reducible assumption
    | with_reducible apply State.freeBytes_kept
    | dsimp only
    | with_reducible apply Kept.ite2
    | split)

theorem execTileStore_kept {s0 : State} (id tile : Nat) (s : State) (hk : Kept s0 s) : KeptO s0 (execTileStore id tile s) := by
  unfold execTileStore
  repeat' (first
    | with_reducible assumption
    | with_reducible apply Kept.next
    | with_reducible apply State.tileDone'_kept
    | with_reducible apply State.storeAtts_kept
    | with_reducible apply State.vwrite_kept
    | with_reducible apply State.shownTile_kept
    | with_reducible apply id_kept
    | with_reducible refine Kept.of_eq1 ?_ (by assumption)
    | with_reducible rfl
    | with_reducible exact fun h => h
    | dsimp only
    | with_reducible apply Kept.ite
    | with_reducible apply Kept.ite1
    | with_reducible apply Kept.ite2
    | with_reducible apply KeptO.ite
    | split
    | with_reducible refine Kept.upd0 ?_ ?_ ?_ ?_ ?_ ?_)

theorem execPartialFlush_kept {s0 : State} (id : Nat) (s : State) (hk : Kept s0 s) : KeptO s0 (execPartialFlush id s) := by
  unfold execPartialFlush
  repeat' (first
    | with_reducible assumption
    | with_reducible apply Kept.next
    | with_reducible apply State.flushEnd_kept
    | with_reducible apply State.updPass_kept
    | with_reducible apply State.pmu_kept
    | with_reducible apply State.count_kept
    | with_reducible apply State.raise_kept
    | with_reducible apply id_kept
    | with_reducible rfl
    | with_reducible exact fun h => h
    | dsimp only
    | with_reducible apply Kept.ite
    | with_reducible apply KeptO.ite
    | split
    | with_reducible refine Kept.upd0 ?_ ?_ ?_ ?_ ?_ ?_)

theorem State.sigHeaders_kept {s0 : State} (eng : Nat) (p : GPass) (x0 : List Nat) (x1 : State) (x2 : List Nat) (hk : Kept s0 x1) : Kept s0 (State.sigHeaders eng p x0 x1 x2).1 := by
  induction x0 generalizing x1 x2 with
  | nil =>
    unfold State.sigHeaders
    repeat' (first
      | with_reducible assumption
      | with_reducible apply State.vread_kept
      | with_reducible refine Kept.of_eq1 ?_ (by assumption)
      | with_reducible rfl
      | with_reducible exact fun h => h
      | dsimp only
      | with_reducible apply Kept.ite
      | with_reducible apply Kept.ite1
      | with_reducible apply Kept.ite2
      | split
      | with_reducible refine Kept.upd0 ?_ ?_ ?_ ?_ ?_ ?_)
  | cons a r ih =>
    unfold State.sigHeaders
    repeat' (first
      | with_reducible assumption
      | with_reducible apply ih
      | with_reducible apply State.vread_kept
      | with_reducible refine Kept.of_eq1 ?_ (by assumption)
      | with_reducible rfl
      | with_reducible exact fun h => h
      | dsimp only
      | with_reducible apply Kept.ite
      | with_reducible apply Kept.ite1
      | with_reducible apply Kept.ite2
      | split
      | with_reducible refine Kept.upd0 ?_ ?_ ?_ ?_ ?_ ?_)

theorem execRenderPassEnd_kept {s0 : State} (sid : Nat) (s : State) (hk : Kept s0 s) : KeptO s0 (execRenderPassEnd sid s) := by
  unfold execRenderPassEnd
  repeat' (first
    | with_reducible assumption
    | with_reducible apply State.pktAcquire_kept
    | with_reducible apply State.acquire_kept
    | with_reducible apply State.l1Drop_kept
    | with_reducible apply Kept.next
    | with_reducible apply State.sigHeaders_kept
    | with_reducible apply State.gfxFault_kept
    | with_reducible apply State.updPass_kept
    | with_reducible apply State.dispatch_kept
    | with_reducible apply id_kept
    | with_reducible refine Kept.of_eq1 ?_ (by assumption)
    | with_reducible rfl
    | with_reducible exact fun h => h
    | dsimp only
    | with_reducible apply Kept.ite
    | with_reducible apply Kept.ite1
    | with_reducible apply Kept.ite2
    | with_reducible apply KeptO.ite
    | split
    | with_reducible refine Kept.upd0 ?_ ?_ ?_ ?_ ?_ ?_)

theorem execEnd_kept {s0 : State} (g : Nat) (i : Ins) (s : State) (hk : Kept s0 s) : KeptO s0 (execEnd g i s) := by
  unfold execEnd
  repeat' (first
    | with_reducible assumption
    | intro _
    | with_reducible apply Kept.next
    | with_reducible apply State.gfxGo_kept
    | with_reducible apply State.gfxEnd_kept
    | with_reducible apply State.grpGone_kept
    | with_reducible apply State.barRelease_kept
    | with_reducible apply State.issue_kept
    | with_reducible apply State.updWg_kept
    | with_reducible apply State.updGrp_kept
    | with_reducible rfl
    | with_reducible exact fun h => h
    | dsimp only
    | with_reducible apply Kept.ite
    | with_reducible apply KeptO.ite
    | split
    | with_reducible refine Kept.upd0 ?_ ?_ ?_ ?_ ?_ ?_)

theorem State.gfxTeardown_kept {s0 : State} (s : State) (c : Nat) (hk : Kept s0 s) : Kept s0 (State.gfxTeardown s c) := by
  unfold State.gfxTeardown
  repeat' (first
    | with_reducible assumption
    | with_reducible refine Kept.foldl ?_ (fun _ _ _ => ?_)
    | with_reducible refine Kept.foldl1 ?_ (fun _ _ _ _ => ?_)
    | with_reducible refine Kept.foldl2 ?_ (fun _ _ _ _ => ?_)
    | with_reducible refine Kept.of_eq1 ?_ (by assumption)
    | with_reducible refine Kept.of_eq2 ?_ (by assumption)
    | with_reducible rfl
    | with_reducible exact fun h => h
    | dsimp only
    | split
    | with_reducible refine Kept.upd0 ?_ ?_ ?_ ?_ ?_ ?_)

end Sys2Proof.Machine
end

