-- ==== Sys2Proof/Laws/KeptLoom.lean ====
section
/-! SUPPORT. Every operation of Machine/Loom.lean keeps what no command may change. -/

namespace Sys2Proof.Machine

set_option linter.all false

theorem State.shRead_kept {s0 : State} (s : State) (n c va len : Nat) (hk : Kept s0 s) : Kept s0 (State.shRead s n c va len).1 := by
  unfold State.shRead
  repeat' (first
    | with_reducible assumption
    | with_reducible apply State.vread_kept
    | with_reducible apply State.countN_kept
    | with_reducible refine Kept.of_eq1 ?_ (by assumption)
    | with_reducible rfl
    | with_reducible exact fun h => h
    | dsimp only
    | split
    | with_reducible refine Kept.upd0 ?_ ?_ ?_ ?_ ?_ ?_)

theorem State.shElts_kept {s0 : State} (s : State) (n c va o w cnt : Nat) (hk : Kept s0 s) : Kept s0 (State.shElts s n c va o w cnt).1 := by
  unfold State.shElts
  repeat' (first
    | with_reducible assumption
    | with_reducible apply State.shRead_kept
    | with_reducible refine Kept.of_eq1 ?_ (by assumption)
    | with_reducible rfl
    | with_reducible exact fun h => h
    | dsimp only
    | with_reducible apply Kept.ite
    | with_reducible apply Kept.ite1
    | with_reducible apply Kept.ite2
    | split
    | with_reducible refine Kept.upd0 ?_ ?_ ?_ ?_ ?_ ?_)

theorem State.shPut_kept {s0 : State} (s : State) (n c va o w : Nat) (vals : List Nat) (hk : Kept s0 s) : Kept s0 (State.shPut s n c va o w vals).1 := by
  unfold State.shPut
  repeat' (first
    | with_reducible assumption
    | with_reducible apply State.vwrite_kept
    | with_reducible apply State.vread_kept
    | with_reducible apply State.countN_kept
    | with_reducible refine Kept.foldl ?_ (fun _ _ _ => ?_)
    | with_reducible refine Kept.of_eq1 ?_ (by assumption)
    | with_reducible refine Kept.foldl1 ?_ (fun _ _ _ _ => ?_)
    | with_reducible refine Kept.foldl2 ?_ (fun _ _ _ _ => ?_)
    | with_reducible refine Kept.of_eq2 ?_ (by assumption)
    | with_reducible rfl
    | with_reducible exact fun h => h
    | dsimp only
    | with_reducible apply Kept.ite
    | with_reducible apply Kept.ite1
    | with_reducible apply Kept.ite2
    | split
    | with_reducible refine Kept.upd0 ?_ ?_ ?_ ?_ ?_ ?_)

theorem State.updLoom_kept {s0 : State} (s : State) (n : Nat) (f : Lm → Lm) (hk : Kept s0 s) : Kept s0 (State.updLoom s n f) := by
  unfold State.updLoom
  repeat' (first
    | with_reducible assumption
    | with_reducible rfl
    | with_reducible exact fun h => h
    | dsimp only
    | split
    | with_reducible refine Kept.upd0 ?_ ?_ ?_ ?_ ?_ ?_)

theorem State.loadW_kept {s0 : State} (n : Nat) (d : LDraft) (x0 : List (Nat × Nat × Nat)) (x1 : State) (hk : Kept s0 x1) : Kept s0 (State.loadW n d x0 x1).1 := by
  induction x0 generalizing x1 with
  | nil =>
    unfold State.loadW
    repeat' (first
      | with_reducible assumption
      | with_reducible apply State.updLoom_kept
      | with_reducible apply State.shElts_kept
      | with_reducible apply State.shRead_kept
      | with_reducible refine Kept.foldl ?_ (fun _ _ _ => ?_)
      | with_reducible refine Kept.of_eq1 ?_ (by assumption)
      | with_reducible refine Kept.foldl1 ?_ (fun _ _ _ _ => ?_)
      | with_reducible refine Kept.foldl2 ?_ (fun _ _ _ _ => ?_)
      | with_reducible refine Kept.of_eq2 ?_ (by assumption)
      | with_reducible rfl
      | with_reducible exact fun h => h
      | dsimp only
      | with_reducible apply Kept.ite
      | with_reducible apply Kept.ite1
      | with_reducible apply Kept.ite2
      | split
      | with_reducible refine Kept.upd0 ?_ ?_ ?_ ?_ ?_ ?_)
  | cons a r ih =>
    unfold State.loadW
    repeat' (first
      | with_reducible assumption
      | with_reducible apply ih
      | with_reducible apply State.updLoom_kept
      | with_reducible apply State.shElts_kept
      | with_reducible apply State.shRead_kept
      | with_reducible refine Kept.foldl ?_ (fun _ _ _ => ?_)
      | with_reducible refine Kept.of_eq1 ?_ (by assumption)
      | with_reducible refine Kept.foldl1 ?_ (fun _ _ _ _ => ?_)
      | with_reducible refine Kept.foldl2 ?_ (fun _ _ _ _ => ?_)
      | with_reducible refine Kept.of_eq2 ?_ (by assumption)
      | with_reducible rfl
      | with_reducible exact fun h => h
      | dsimp only
      | with_reducible apply Kept.ite
      | with_reducible apply Kept.ite1
      | with_reducible apply Kept.ite2
      | split
      | with_reducible refine Kept.upd0 ?_ ?_ ?_ ?_ ?_ ?_)

theorem State.loadA0_kept {s0 : State} (n : Nat) (d : LDraft) (x0 : List Nat) (x1 : State) (hk : Kept s0 x1) : Kept s0 (State.loadA0 n d x0 x1).1 := by
  induction x0 generalizing x1 with
  | nil =>
    unfold State.loadA0
    repeat' (first
      | with_reducible assumption
      | with_reducible apply State.updLoom_kept
      | with_reducible apply State.shElts_kept
      | with_reducible apply State.shRead_kept
      | with_reducible refine Kept.foldl ?_ (fun _ _ _ => ?_)
      | with_reducible refine Kept.of_eq1 ?_ (by assumption)
      | with_reducible refine Kept.foldl1 ?_ (fun _ _ _ _ => ?_)
      | with_reducible refine Kept.foldl2 ?_ (fun _ _ _ _ => ?_)
      | with_reducible refine Kept.of_eq2 ?_ (by assumption)
      | with_reducible rfl
      | with_reducible exact fun h => h
      | dsimp only
      | with_reducible apply Kept.ite
      | with_reducible apply Kept.ite1
      | with_reducible apply Kept.ite2
      | split
      | with_reducible refine Kept.upd0 ?_ ?_ ?_ ?_ ?_ ?_)
  | cons a r ih =>
    unfold State.loadA0
    repeat' (first
      | with_reducible assumption
      | with_reducible apply ih
      | with_reducible apply State.updLoom_kept
      | with_reducible apply State.shElts_kept
      | with_reducible apply State.shRead_kept
      | with_reducible refine Kept.foldl ?_ (fun _ _ _ => ?_)
      | with_reducible refine Kept.of_eq1 ?_ (by assumption)
      | with_reducible refine Kept.foldl1 ?_ (fun _ _ _ _ => ?_)
      | with_reducible refine Kept.foldl2 ?_ (fun _ _ _ _ => ?_)
      | with_reducible refine Kept.of_eq2 ?_ (by assumption)
      | with_reducible rfl
      | with_reducible exact fun h => h
      | dsimp only
      | with_reducible apply Kept.ite
      | with_reducible apply Kept.ite1
      | with_reducible apply Kept.ite2
      | split
      | with_reducible refine Kept.upd0 ?_ ?_ ?_ ?_ ?_ ?_)

theorem State.loadA1_kept {s0 : State} (n : Nat) (d : LDraft) (m0 cnt : Nat) (x0 : List Nat) (x1 : State) (hk : Kept s0 x1) : Kept s0 (State.loadA1 n d m0 cnt x0 x1).1 := by
  induction x0 generalizing x1 with
  | nil =>
    unfold State.loadA1
    repeat' (first
      | with_reducible assumption
      | with_reducible apply State.updLoom_kept
      | with_reducible apply State.shElts_kept
      | with_reducible apply State.shRead_kept
      | with_reducible refine Kept.foldl ?_ (fun _ _ _ => ?_)
      | with_reducible refine Kept.of_eq1 ?_ (by assumption)
      | with_reducible refine Kept.foldl1 ?_ (fun _ _ _ _ => ?_)
      | with_reducible refine Kept.foldl2 ?_ (fun _ _ _ _ => ?_)
      | with_reducible refine Kept.of_eq2 ?_ (by assumption)
      | with_reducible rfl
      | with_reducible exact fun h => h
      | dsimp only
      | with_reducible apply Kept.ite
      | with_reducible apply Kept.ite1
      | with_reducible apply Kept.ite2
      | split
      | with_reducible refine Kept.upd0 ?_ ?_ ?_ ?_ ?_ ?_)
  | cons a r ih =>
    unfold State.loadA1
    repeat' (first
      | with_reducible assumption
      | with_reducible apply ih
      | with_reducible apply State.updLoom_kept
      | with_reducible apply State.shElts_kept
      | with_reducible apply State.shRead_kept
      | with_reducible refine Kept.foldl ?_ (fun _ _ _ => ?_)
      | with_reducible refine Kept.of_eq1 ?_ (by assumption)
      | with_reducible refine Kept.foldl1 ?_ (fun _ _ _ _ => ?_)
      | with_reducible refine Kept.foldl2 ?_ (fun _ _ _ _ => ?_)
      | with_reducible refine Kept.of_eq2 ?_ (by assumption)
      | with_reducible rfl
      | with_reducible exact fun h => h
      | dsimp only
      | with_reducible apply Kept.ite
      | with_reducible apply Kept.ite1
      | with_reducible apply Kept.ite2
      | split
      | with_reducible refine Kept.upd0 ?_ ?_ ?_ ?_ ?_ ?_)

theorem State.convPix_kept {s0 : State} (s : State) (n : Nat) (d : LDraft) (p : Nat) (hk : Kept s0 s) : Kept s0 (State.convPix s n d p).1 := by
  unfold State.convPix
  repeat' (first
    | with_reducible assumption
    | with_reducible apply State.shElts_kept
    | with_reducible apply State.shRead_kept
    | with_reducible refine Kept.of_eq1 ?_ (by assumption)
    | with_reducible rfl
    | with_reducible exact fun h => h
    | dsimp only
    | with_reducible apply Kept.ite
    | with_reducible apply Kept.ite1
    | with_reducible apply Kept.ite2
    | split
    | with_reducible refine Kept.upd0 ?_ ?_ ?_ ?_ ?_ ?_)

theorem State.loadDirect_kept {s0 : State} (n : Nat) (d : LDraft) (b : Nat) (x0 : List Nat) (x1 : State) (hk : Kept s0 x1) : Kept s0 (State.loadDirect n d b x0 x1).1 := by
  induction x0 generalizing x1 with
  | nil =>
    unfold State.loadDirect
    repeat' (first
      | with_reducible assumption
      | with_reducible apply State.convPix_kept
      | with_reducible apply State.updLoom_kept
      | with_reducible refine Kept.foldl ?_ (fun _ _ _ => ?_)
      | with_reducible refine Kept.of_eq1 ?_ (by assumption)
      | with_reducible refine Kept.foldl1 ?_ (fun _ _ _ _ => ?_)
      | with_reducible refine Kept.foldl2 ?_ (fun _ _ _ _ => ?_)
      | with_reducible refine Kept.of_eq2 ?_ (by assumption)
      | with_reducible rfl
      | with_reducible exact fun h => h
      | dsimp only
      | split
      | with_reducible refine Kept.upd0 ?_ ?_ ?_ ?_ ?_ ?_)
  | cons a r ih =>
    unfold State.loadDirect
    repeat' (first
      | with_reducible assumption
      | with_reducible apply ih
      | with_reducible apply State.convPix_kept
      | with_reducible apply State.updLoom_kept
      | with_reducible refine Kept.foldl ?_ (fun _ _ _ => ?_)
      | with_reducible refine Kept.of_eq1 ?_ (by assumption)
      | with_reducible refine Kept.foldl1 ?_ (fun _ _ _ _ => ?_)
      | with_reducible refine Kept.foldl2 ?_ (fun _ _ _ _ => ?_)
      | with_reducible refine Kept.of_eq2 ?_ (by assumption)
      | with_reducible rfl
      | with_reducible exact fun h => h
      | dsimp only
      | split
      | with_reducible refine Kept.upd0 ?_ ?_ ?_ ?_ ?_ ?_)

theorem State.loadPacked_kept {s0 : State} (n : Nat) (d : LDraft) (x0 : List (Nat × Nat)) (x1 : State) (hk : Kept s0 x1) : Kept s0 (State.loadPacked n d x0 x1).1 := by
  induction x0 generalizing x1 with
  | nil =>
    unfold State.loadPacked
    repeat' (first
      | with_reducible assumption
      | with_reducible apply State.convPix_kept
      | with_reducible apply State.updLoom_kept
      | with_reducible refine Kept.foldl ?_ (fun _ _ _ => ?_)
      | with_reducible refine Kept.of_eq1 ?_ (by assumption)
      | with_reducible refine Kept.foldl1 ?_ (fun _ _ _ _ => ?_)
      | with_reducible refine Kept.foldl2 ?_ (fun _ _ _ _ => ?_)
      | with_reducible refine Kept.of_eq2 ?_ (by assumption)
      | with_reducible rfl
      | with_reducible exact fun h => h
      | dsimp only
      | split
      | with_reducible refine Kept.upd0 ?_ ?_ ?_ ?_ ?_ ?_)
  | cons a r ih =>
    unfold State.loadPacked
    repeat' (first
      | with_reducible assumption
      | with_reducible apply ih
      | with_reducible apply State.convPix_kept
      | with_reducible apply State.updLoom_kept
      | with_reducible refine Kept.foldl ?_ (fun _ _ _ => ?_)
      | with_reducible refine Kept.of_eq1 ?_ (by assumption)
      | with_reducible refine Kept.foldl1 ?_ (fun _ _ _ _ => ?_)
      | with_reducible refine Kept.foldl2 ?_ (fun _ _ _ _ => ?_)
      | with_reducible refine Kept.of_eq2 ?_ (by assumption)
      | with_reducible rfl
      | with_reducible exact fun h => h
      | dsimp only
      | split
      | with_reducible refine Kept.upd0 ?_ ?_ ?_ ?_ ?_ ?_)

theorem State.loadBlock_kept {s0 : State} (s : State) (n : Nat) (d : LDraft) (b : Nat) (hk : Kept s0 s) : Kept s0 (State.loadBlock s n d b).1 := by
  unfold State.loadBlock
  repeat' (first
    | with_reducible assumption
    | with_reducible apply State.loadPacked_kept
    | with_reducible apply State.loadDirect_kept
    | with_reducible apply State.loadA1_kept
    | with_reducible apply State.loadA0_kept
    | with_reducible refine Kept.of_eq1 ?_ (by assumption)
    | with_reducible rfl
    | with_reducible exact fun h => h
    | dsimp only
    | with_reducible apply Kept.ite
    | with_reducible apply Kept.ite1
    | with_reducible apply Kept.ite2
    | split)

theorem State.loadPair_kept {s0 : State} (s : State) (n : Nat) (d : LDraft) (b : Nat) (hk : Kept s0 s) : Kept s0 (State.loadPair s n d b).1 := by
  unfold State.loadPair
  repeat' (first
    | with_reducible assumption
    | with_reducible apply State.loadBlock_kept
    | with_reducible refine Kept.foldl ?_ (fun _ _ _ => ?_)
    | with_reducible refine Kept.foldl1 ?_ (fun _ _ _ _ => ?_)
    | with_reducible refine Kept.foldl2 ?_ (fun _ _ _ _ => ?_)
    | with_reducible refine Kept.of_eq1 ?_ (by assumption)
    | with_reducible refine Kept.of_eq2 ?_ (by assumption)
    | with_reducible rfl
    | with_reducible exact fun h => h
    | dsimp only
    | with_reducible apply Kept.ite
    | with_reducible apply Kept.ite1
    | with_reducible apply Kept.ite2
    | with_reducible apply KeptO.ite
    | split
    | with_reducible refine Kept.upd0 ?_ ?_ ?_ ?_ ?_ ?_
    | with_reducible refine Kept.upd1 ?_ ?_ ?_ ?_ ?_ ?_)

theorem State.epiPairs_kept {s0 : State} (s : State) (n : Nat) (d : LDraft) (t : Nat) (hk : Kept s0 s) : Kept s0 (State.epiPairs s n d t).1 := by
  unfold State.epiPairs
  repeat' (first
    | with_reducible assumption
    | with_reducible apply State.shRead_kept
    | with_reducible refine Kept.of_eq1 ?_ (by assumption)
    | with_reducible rfl
    | with_reducible exact fun h => h
    | dsimp only
    | with_reducible apply Kept.ite
    | with_reducible apply Kept.ite1
    | with_reducible apply Kept.ite2
    | split
    | with_reducible refine Kept.upd0 ?_ ?_ ?_ ?_ ?_ ?_)

theorem State.outRow_kept {s0 : State} (s : State) (n : Nat) (d : LDraft) (m n0 w : Nat) (es : List (Nat × Nat)) (hk : Kept s0 s) : Kept s0 (State.outRow s n d m n0 w es).1 := by
  unfold State.outRow
  repeat' (first
    | with_reducible assumption
    | with_reducible apply State.shPut_kept
    | with_reducible refine Kept.of_eq1 ?_ (by assumption)
    | with_reducible rfl
    | with_reducible exact fun h => h
    | dsimp only
    | with_reducible apply Kept.ite
    | with_reducible apply Kept.ite1
    | with_reducible apply Kept.ite2
    | split
    | with_reducible refine Kept.upd0 ?_ ?_ ?_ ?_ ?_ ?_)

theorem State.outElt_kept {s0 : State} (s : State) (n : Nat) (d : LDraft) (m c w : Nat) (e : Nat × Nat) (hk : Kept s0 s) : Kept s0 (State.outElt s n d m c w e).1 := by
  unfold State.outElt
  repeat' (first
    | with_reducible assumption
    | with_reducible apply State.shPut_kept
    | with_reducible refine Kept.of_eq1 ?_ (by assumption)
    | with_reducible rfl
    | with_reducible exact fun h => h
    | dsimp only
    | with_reducible apply Kept.ite
    | with_reducible apply Kept.ite1
    | with_reducible apply Kept.ite2
    | split
    | with_reducible refine Kept.upd0 ?_ ?_ ?_ ?_ ?_ ?_)

theorem State.drainRows_kept {s0 : State} (n : Nat) (d : LDraft) (pairs : List (Nat × Nat)) (t m0 : Nat) (row : Nat → Nat) (x0 : List Nat) (x1 : State) (hk : Kept s0 x1) : Kept s0 (State.drainRows n d pairs t m0 row x0 x1).1 := by
  induction x0 generalizing x1 with
  | nil =>
    unfold State.drainRows
    repeat' (first
      | with_reducible assumption
      | with_reducible apply State.outElt_kept
      | with_reducible apply State.outRow_kept
      | with_reducible apply State.updLoom_kept
      | with_reducible apply State.free_kept
      | with_reducible apply State.fl_kept
      | with_reducible apply id_kept
      | with_reducible refine Kept.foldl ?_ (fun _ _ _ => ?_)
      | with_reducible refine Kept.of_eq1 ?_ (by assumption)
      | with_reducible refine Kept.of_eq2 ?_ (by assumption)
      | with_reducible refine Kept.foldl1 ?_ (fun _ _ _ _ => ?_)
      | with_reducible refine Kept.foldl2 ?_ (fun _ _ _ _ => ?_)
      | with_reducible rfl
      | with_reducible exact fun h => h
      | dsimp only
      | with_reducible apply Kept.ite
      | with_reducible apply Kept.ite1
      | with_reducible apply Kept.ite2
      | split
      | with_reducible refine Kept.upd0 ?_ ?_ ?_ ?_ ?_ ?_)
  | cons a r ih =>
    unfold State.drainRows
    repeat' (first
      | with_reducible assumption
      | with_reducible apply ih
      | with_reducible apply State.outElt_kept
      | with_reducible apply State.outRow_kept
      | with_reducible apply State.updLoom_kept
      | with_reducible apply State.free_kept
      | with_reducible apply State.fl_kept
      | with_reducible apply id_kept
      | with_reducible refine Kept.foldl ?_ (fun _ _ _ => ?_)
      | with_reducible refine Kept.of_eq1 ?_ (by assumption)
      | with_reducible refine Kept.of_eq2 ?_ (by assumption)
      | with_reducible refine Kept.foldl1 ?_ (fun _ _ _ _ => ?_)
      | with_reducible refine Kept.foldl2 ?_ (fun _ _ _ _ => ?_)
      | with_reducible rfl
      | with_reducible exact fun h => h
      | dsimp only
      | with_reducible apply Kept.ite
      | with_reducible apply Kept.ite1
      | with_reducible apply Kept.ite2
      | split
      | with_reducible refine Kept.upd0 ?_ ?_ ?_ ?_ ?_ ?_)

theorem State.drainTile_kept {s0 : State} (s : State) (n : Nat) (d : LDraft) (b t : Nat) (hk : Kept s0 s) : Kept s0 (State.drainTile s n d b t).1 := by
  unfold State.drainTile
  repeat' (first
    | with_reducible assumption
    | with_reducible apply State.drainRows_kept
    | with_reducible apply State.epiPairs_kept
    | with_reducible refine Kept.of_eq1 ?_ (by assumption)
    | with_reducible rfl
    | with_reducible exact fun h => h
    | dsimp only
    | split
    | with_reducible refine Kept.upd0 ?_ ?_ ?_ ?_ ?_ ?_)

theorem State.drainStore_kept {s0 : State} (n : Nat) (d : LDraft) (x0 : List Nat) (x1 : State) (hk : Kept s0 x1) : Kept s0 (State.drainStore n d x0 x1).1 := by
  induction x0 generalizing x1 with
  | nil =>
    unfold State.drainStore
    repeat' (first
      | with_reducible assumption
      | with_reducible apply State.drainRows_kept
      | with_reducible apply State.epiPairs_kept
      | with_reducible refine Kept.of_eq1 ?_ (by assumption)
      | with_reducible rfl
      | with_reducible exact fun h => h
      | dsimp only
      | split
      | with_reducible refine Kept.upd0 ?_ ?_ ?_ ?_ ?_ ?_)
  | cons a r ih =>
    unfold State.drainStore
    repeat' (first
      | with_reducible assumption
      | with_reducible apply ih
      | with_reducible apply State.drainRows_kept
      | with_reducible apply State.epiPairs_kept
      | with_reducible refine Kept.of_eq1 ?_ (by assumption)
      | with_reducible rfl
      | with_reducible exact fun h => h
      | dsimp only
      | split
      | with_reducible refine Kept.upd0 ?_ ?_ ?_ ?_ ?_ ?_)

end Sys2Proof.Machine
end

