-- ==== Sys2Proof/Laws/KeptRays.lean ====
section
/-! SUPPORT. Every operation of Machine/Rays.lean keeps what no command may change. -/

namespace Sys2Proof.Machine

set_option linter.all false

theorem State.rtuRead_kept {s0 : State} (s : State) (n c va : Nat) (hk : Kept s0 s) : Kept s0 (State.rtuRead s n c va).1 := by
  unfold State.rtuRead
  repeat' (first
    | with_reducible assumption
    | with_reducible apply State.vread_kept
    | with_reducible refine Kept.of_eq1 ?_ (by assumption)
    | with_reducible rfl
    | with_reducible exact fun h => h
    | dsimp only
    | split)

theorem State.travStep_kept {s0 : State} (s : State) (n : Nat) (r : Ray) (x : Trav) (hk : Kept s0 s) : Kept s0 (State.travStep s n r x).1 := by
  unfold State.travStep
  repeat' (first
    | with_reducible assumption
    | with_reducible apply State.rtuRead_kept
    | with_reducible refine Kept.foldl ?_ (fun _ _ _ => ?_)
    | with_reducible refine Kept.of_eq1 ?_ (by assumption)
    | with_reducible refine Kept.foldl1 ?_ (fun _ _ _ _ => ?_)
    | with_reducible refine Kept.foldl2 ?_ (fun _ _ _ _ => ?_)
    | with_reducible refine Kept.of_eq2 ?_ (by assumption)
    | with_reducible rfl
    | with_reducible exact fun h => h
    | dsimp only
    | with_reducible apply Kept.ite
    | with_reducible apply Kept.ite1
    | with_reducible apply Kept.ite2
    | split
    | with_reducible refine Kept.upd0 ?_ ?_ ?_ ?_ ?_ ?_)

theorem State.travRun_kept {s0 : State} (n : Nat) (r : Ray) (fuel : Nat) (x1 : State) (x2 : Trav) (hk : Kept s0 x1) : Kept s0 (State.travRun n r fuel x1 x2).1 := by
  induction fuel generalizing x1 x2 with
  | zero =>
    unfold State.travRun
    repeat' (first
      | with_reducible assumption
      | with_reducible apply State.travStep_kept
      | with_reducible refine Kept.of_eq1 ?_ (by assumption)
      | with_reducible rfl
      | with_reducible exact fun h => h
      | dsimp only
      | with_reducible apply Kept.ite
      | with_reducible apply Kept.ite1
      | with_reducible apply Kept.ite2
      | split)
  | succ f ih =>
    unfold State.travRun
    repeat' (first
      | with_reducible assumption
      | with_reducible apply ih
      | with_reducible apply State.travStep_kept
      | with_reducible refine Kept.of_eq1 ?_ (by assumption)
      | with_reducible rfl
      | with_reducible exact fun h => h
      | dsimp only
      | with_reducible apply Kept.ite
      | with_reducible apply Kept.ite1
      | with_reducible apply Kept.ite2
      | split)

theorem State.traverse_kept {s0 : State} (s : State) (n : Nat) (r : Ray) (hk : Kept s0 s) : Kept s0 (State.traverse s n r).1 := by
  unfold State.traverse
  repeat' (first
    | with_reducible assumption
    | with_reducible apply State.travRun_kept
    | with_reducible refine Kept.of_eq1 ?_ (by assumption)
    | with_reducible rfl
    | with_reducible exact fun h => h
    | dsimp only
    | with_reducible apply Kept.ite
    | with_reducible apply Kept.ite1
    | with_reducible apply Kept.ite2
    | split)

end Sys2Proof.Machine
end

