-- ==== Sys2Proof/Laws/KeptCarder.lean ====
section
/-! SUPPORT. Every operation of Machine/Carder.lean keeps what no command may change. -/

namespace Sys2Proof.Machine

set_option linter.all false

theorem State.updCrd_kept {s0 : State} (s : State) (f : Crd → Crd) (hk : Kept s0 s) : Kept s0 (State.updCrd s f) := by
  unfold State.updCrd
  repeat' (first
    | with_reducible assumption
    | with_reducible rfl
    | with_reducible exact fun h => h
    | dsimp only
    | split
    | with_reducible refine Kept.upd0 ?_ ?_ ?_ ?_ ?_ ?_)

theorem State.countFirst_kept {s0 : State} (s : State) (F : Fld) (i n src : Nat) (hk : Kept s0 s) : Kept s0 (State.countFirst s F i n src) := by
  unfold State.countFirst
  repeat' (first
    | with_reducible assumption
    | with_reducible apply State.countN_kept
    | with_reducible apply State.raise_kept
    | with_reducible rfl
    | with_reducible exact fun h => h
    | dsimp only
    | with_reducible apply Kept.ite
    | split)

theorem State.crdMoved_kept {s0 : State} (s : State) (p : Nat) (hk : Kept s0 s) : Kept s0 (State.crdMoved s p) := by
  unfold State.crdMoved
  repeat' (first
    | with_reducible assumption
    | with_reducible apply State.updCrd_kept
    | with_reducible rfl
    | with_reducible exact fun h => h
    | dsimp only
    | with_reducible apply Kept.ite
    | split
    | with_reducible refine Kept.upd0 ?_ ?_ ?_ ?_ ?_ ?_)

theorem State.crdSync_kept {s0 : State} (s : State) (hk : Kept s0 s) : Kept s0 (State.crdSync s) := by
  unfold State.crdSync
  repeat' (first
    | with_reducible assumption
    | with_reducible apply State.updCrd_kept
    | with_reducible apply State.wrs_kept
    | with_reducible refine Kept.foldl ?_ (fun _ _ _ => ?_)
    | with_reducible refine Kept.foldl1 ?_ (fun _ _ _ _ => ?_)
    | with_reducible refine Kept.foldl2 ?_ (fun _ _ _ _ => ?_)
    | with_reducible refine Kept.of_eq1 ?_ (by assumption)
    | with_reducible refine Kept.of_eq2 ?_ (by assumption)
    | with_reducible rfl
    | with_reducible exact fun h => h
    | dsimp only
    | with_reducible apply Kept.ite
    | split
    | with_reducible refine Kept.upd0 ?_ ?_ ?_ ?_ ?_ ?_)

theorem State.batchOf_kept {s0 : State} (s : State) (b : Nat) (hk : Kept s0 s) : Kept s0 (State.batchOf s b) := by
  unfold State.batchOf
  repeat' (first
    | with_reducible assumption
    | with_reducible apply State.updCrd_kept
    | with_reducible rfl
    | with_reducible exact fun h => h
    | dsimp only
    | split
    | with_reducible refine Kept.upd0 ?_ ?_ ?_ ?_ ?_ ?_)

theorem State.bucketIn_kept {s0 : State} (s : State) (r : Ray) (hk : Kept s0 s) : Kept s0 (State.bucketIn s r) := by
  unfold State.bucketIn
  repeat' (first
    | with_reducible assumption
    | with_reducible apply State.batchOf_kept
    | with_reducible apply State.countFirst_kept
    | with_reducible apply State.updCrd_kept
    | with_reducible rfl
    | with_reducible exact fun h => h
    | dsimp only
    | with_reducible apply Kept.ite
    | with_reducible apply KeptO.ite
    | split
    | with_reducible refine Kept.upd0 ?_ ?_ ?_ ?_ ?_ ?_)

theorem State.unitComp_kept {s0 : State} (s : State) (n q : Int) (h : Kept s0 s) : Kept s0 (s.unitComp n q).2 := by
  exact State.free_kept s 29 h

theorem State.worldNormal_kept {s0 : State} (s : State) (x : Hit) (h : Kept s0 s) : Kept s0 (s.worldNormal x).2 := by
  unfold State.worldNormal
  refine Kept.foldl2 h (fun b t a ht => ?_)
  dsimp only
  with_reducible apply State.unitComp_kept
  exact ht

theorem State.actFor_kept {s0 : State} (s : State) (r : Ray) (rs : List Ray) (hk : Kept s0 s) : Kept s0 (State.actFor s r rs).1 := by
  unfold State.actFor
  repeat' (first
    | with_reducible assumption
    | with_reducible apply State.updCrd_kept
    | with_reducible apply State.vread_kept
    | with_reducible apply State.ctxFault_kept
    | with_reducible apply id_kept
    | with_reducible refine Kept.of_eq1 ?_ (by assumption)
    | with_reducible rfl
    | with_reducible exact fun h => h
    | dsimp only
    | with_reducible apply Kept.ite
    | with_reducible apply Kept.ite1
    | with_reducible apply Kept.ite2
    | with_reducible apply KeptO.ite
    | split
    | with_reducible refine Kept.upd0 ?_ ?_ ?_ ?_ ?_ ?_)

theorem State.updAct_kept {s0 : State} (s : State) (id : Nat) (f : Activation → Activation) (hk : Kept s0 s) : Kept s0 (State.updAct s id f) := by
  unfold State.updAct
  repeat' (first
    | with_reducible assumption
    | with_reducible apply State.updCrd_kept
    | with_reducible apply id_kept
    | with_reducible rfl
    | with_reducible exact fun h => h
    | dsimp only
    | with_reducible apply Kept.ite
    | split
    | with_reducible refine Kept.upd0 ?_ ?_ ?_ ?_ ?_ ?_)

theorem State.spoolHit_kept {s0 : State} (s : State) (r : Ray) (h : List Byte) (hk : Kept s0 s) : Kept s0 (State.spoolHit s r h) := by
  unfold State.spoolHit
  repeat' (first
    | with_reducible assumption
    | with_reducible apply State.updAct_kept
    | with_reducible apply State.updLoom_kept
    | with_reducible apply id_kept
    | with_reducible refine Kept.foldl ?_ (fun _ _ _ => ?_)
    | with_reducible refine Kept.foldl1 ?_ (fun _ _ _ _ => ?_)
    | with_reducible refine Kept.foldl2 ?_ (fun _ _ _ _ => ?_)
    | with_reducible refine Kept.of_eq1 ?_ (by assumption)
    | with_reducible refine Kept.of_eq2 ?_ (by assumption)
    | with_reducible rfl
    | with_reducible exact fun h => h
    | dsimp only
    | with_reducible apply Kept.ite
    | split
    | with_reducible refine Kept.upd0 ?_ ?_ ?_ ?_ ?_ ?_)

theorem State.hitOut_kept {s0 : State} (s : State) (b : Option Nat) (r : Ray) (h : List Byte) (hk : Kept s0 s) : Kept s0 (State.hitOut s b r h) := by
  unfold State.hitOut
  repeat' (first
    | with_reducible assumption
    | with_reducible apply State.spoolHit_kept
    | with_reducible apply State.crdMoved_kept
    | with_reducible apply State.updCrd_kept
    | with_reducible apply State.dispCheck_kept
    | with_reducible refine Kept.foldl ?_ (fun _ _ _ => ?_)
    | with_reducible refine Kept.foldl1 ?_ (fun _ _ _ _ => ?_)
    | with_reducible refine Kept.foldl2 ?_ (fun _ _ _ _ => ?_)
    | with_reducible refine Kept.of_eq1 ?_ (by assumption)
    | with_reducible refine Kept.of_eq2 ?_ (by assumption)
    | with_reducible rfl
    | with_reducible exact fun h => h
    | dsimp only
    | with_reducible apply Kept.ite
    | with_reducible apply KeptO.ite
    | split
    | with_reducible refine Kept.upd0 ?_ ?_ ?_ ?_ ?_ ?_)

theorem State.takeRay_kept {s0 : State} (s : State) (r : Ray) (pool : Bool) (hk : Kept s0 s) : Kept s0 (State.takeRay s r pool) := by
  unfold State.takeRay
  repeat' (first
    | with_reducible assumption
    | with_reducible apply State.accFault_kept
    | with_reducible apply State.hitOut_kept
    | with_reducible apply State.updAct_kept
    | with_reducible apply State.bucketIn_kept
    | with_reducible apply State.countFirst_kept
    | with_reducible apply State.updCrd_kept
    | with_reducible apply State.physWrite_kept
    | with_reducible apply State.count_kept
    | with_reducible apply State.freeBytes_kept
    | with_reducible refine Kept.of_eq1 ?_ (by assumption)
    | with_reducible refine Kept.of_eq2 ?_ (by assumption)
    | with_reducible rfl
    | with_reducible exact fun h => h
    | dsimp only
    | with_reducible apply Kept.ite
    | with_reducible apply Kept.ite1
    | with_reducible apply Kept.ite2
    | split
    | with_reducible refine Kept.upd0 ?_ ?_ ?_ ?_ ?_ ?_)

theorem State.crdPump_kept {s0 : State}  (fuel : Nat) (x1 : State) (hk : Kept s0 x1) : Kept s0 (State.crdPump fuel x1) := by
  induction fuel generalizing x1 with
  | zero =>
    unfold State.crdPump
    repeat' (first
      | with_reducible assumption
      | with_reducible apply State.takeRay_kept
      | with_reducible apply State.actFor_kept
      | with_reducible apply State.updCrd_kept
      | with_reducible apply State.updGrp_kept
      | with_reducible refine Kept.of_eq1 ?_ (by assumption)
      | with_reducible rfl
      | with_reducible exact fun h => h
      | dsimp only
      | with_reducible apply Kept.ite
      | with_reducible apply Kept.ite1
      | with_reducible apply Kept.ite2
      | split
      | with_reducible refine Kept.upd0 ?_ ?_ ?_ ?_ ?_ ?_)
  | succ f ih =>
    unfold State.crdPump
    repeat' (first
      | with_reducible assumption
      | with_reducible apply ih
      | with_reducible apply State.takeRay_kept
      | with_reducible apply State.actFor_kept
      | with_reducible apply State.updCrd_kept
      | with_reducible apply State.updGrp_kept
      | with_reducible refine Kept.of_eq1 ?_ (by assumption)
      | with_reducible rfl
      | with_reducible exact fun h => h
      | dsimp only
      | with_reducible apply Kept.ite
      | with_reducible apply Kept.ite1
      | with_reducible apply Kept.ite2
      | split
      | with_reducible refine Kept.upd0 ?_ ?_ ?_ ?_ ?_ ?_)

theorem State.poolWait_kept {s0 : State} (s : State) (p : Nat) (hk : Kept s0 s) : Kept s0 (State.poolWait s p) := by
  unfold State.poolWait
  repeat' (first
    | with_reducible assumption
    | with_reducible apply State.free_kept
    | with_reducible apply State.countFirst_kept
    | with_reducible refine Kept.foldl ?_ (fun _ _ _ => ?_)
    | with_reducible refine Kept.foldl1 ?_ (fun _ _ _ _ => ?_)
    | with_reducible refine Kept.foldl2 ?_ (fun _ _ _ _ => ?_)
    | with_reducible refine Kept.of_eq1 ?_ (by assumption)
    | with_reducible refine Kept.of_eq2 ?_ (by assumption)
    | with_reducible rfl
    | with_reducible exact fun h => h
    | dsimp only
    | with_reducible apply Kept.ite
    | with_reducible apply Kept.ite1
    | with_reducible apply Kept.ite2
    | with_reducible apply KeptO.ite
    | split
    | with_reducible refine Kept.upd0 ?_ ?_ ?_ ?_ ?_ ?_
    | with_reducible refine Kept.upd1 ?_ ?_ ?_ ?_ ?_ ?_)

theorem State.crdGo_kept {s0 : State} (s : State) (hk : Kept s0 s) : Kept s0 (State.crdGo s) := by
  unfold State.crdGo
  exact State.gfxGo_kept _ (State.crdSync_kept _ (Kept.foldl (State.crdPump_kept _ _ hk) fun _ _ h => State.poolWait_kept _ _ h))

theorem State.emitRays_kept {s0 : State} (s : State) (e : GEnv) (i : Ins) (kind tgt : Nat) (hk : Kept s0 s) : Kept s0 (State.emitRays s e i kind tgt) := by
  unfold State.emitRays
  repeat' (first
    | with_reducible assumption
    | with_reducible apply State.poolWait_kept
    | with_reducible apply State.crdPump_kept
    | with_reducible apply State.actFor_kept
    | with_reducible apply State.crdSync_kept
    | with_reducible apply State.countFirst_kept
    | with_reducible apply State.updCrd_kept
    | with_reducible apply State.updGrp_kept
    | with_reducible apply State.ctxFault_kept
    | with_reducible apply State.free_kept
    | with_reducible apply id_kept
    | with_reducible refine Kept.of_eq1 ?_ (by assumption)
    | with_reducible refine Kept.of_eq2 ?_ (by assumption)
    | with_reducible rfl
    | with_reducible exact fun h => h
    | dsimp only
    | with_reducible apply Kept.ite
    | with_reducible apply Kept.ite1
    | with_reducible apply Kept.ite2
    | split
    | with_reducible refine Kept.upd0 ?_ ?_ ?_ ?_ ?_ ?_)

theorem State.rayEmit_kept {s0 : State} (s : State) (g : Nat) (i : Ins) (kind : Nat) (hk : Kept s0 s) : Kept s0 (State.rayEmit s g i kind) := by
  unfold State.rayEmit
  repeat' (first
    | with_reducible assumption
    | intro _
    | with_reducible apply State.emitRays_kept
    | with_reducible apply State.issue_kept
    | with_reducible rfl
    | with_reducible exact fun h => h
    | dsimp only
    | with_reducible apply Kept.ite
    | split
    | with_reducible refine Kept.upd0 ?_ ?_ ?_ ?_ ?_ ?_)

theorem execRayEmitReturn_kept {s0 : State} (g : Nat) (i : Ins) (s : State) (hk : Kept s0 s) : KeptO s0 (execRayEmitReturn g i s) := by
  unfold execRayEmitReturn
  repeat' (first
    | with_reducible assumption
    | with_reducible apply Kept.next
    | with_reducible apply State.rayEmit_kept
    | with_reducible rfl
    | with_reducible exact fun h => h
    | dsimp only
    | split)

theorem execRayEmitShade_kept {s0 : State} (g : Nat) (i : Ins) (s : State) (hk : Kept s0 s) : KeptO s0 (execRayEmitShade g i s) := by
  unfold execRayEmitShade
  repeat' (first
    | with_reducible assumption
    | with_reducible apply Kept.next
    | with_reducible apply State.rayEmit_kept
    | with_reducible rfl
    | with_reducible exact fun h => h
    | dsimp only
    | split)

theorem execRayEmitSpool_kept {s0 : State} (g : Nat) (i : Ins) (s : State) (hk : Kept s0 s) : KeptO s0 (execRayEmitSpool g i s) := by
  unfold execRayEmitSpool
  repeat' (first
    | with_reducible assumption
    | with_reducible apply Kept.next
    | with_reducible apply State.rayEmit_kept
    | with_reducible rfl
    | with_reducible exact fun h => h
    | dsimp only
    | split)

theorem execHitArrival_kept {s0 : State} (g lane : Nat) (s : State) (hk : Kept s0 s) : KeptO s0 (execHitArrival g lane s) := by
  unfold execHitArrival
  repeat' (first
    | with_reducible assumption
    | with_reducible apply State.crdMoved_kept
    | with_reducible apply State.trapGo_kept
    | with_reducible apply Kept.next
    | with_reducible apply State.updCrd_kept
    | with_reducible apply State.gfxGo_kept
    | with_reducible apply State.grpGone_kept
    | with_reducible apply State.setGrp_kept
    | with_reducible refine Kept.foldl ?_ (fun _ _ _ => ?_)
    | with_reducible refine Kept.foldl1 ?_ (fun _ _ _ _ => ?_)
    | with_reducible refine Kept.foldl2 ?_ (fun _ _ _ _ => ?_)
    | with_reducible refine Kept.of_eq1 ?_ (by assumption)
    | with_reducible refine Kept.of_eq2 ?_ (by assumption)
    | with_reducible rfl
    | with_reducible exact fun h => h
    | dsimp only
    | with_reducible apply Kept.ite
    | with_reducible apply KeptO.ite
    | split
    | with_reducible refine Kept.upd0 ?_ ?_ ?_ ?_ ?_ ?_)

theorem execBatchTimeout_kept {s0 : State} (b : Nat) (s : State) (hk : Kept s0 s) : KeptO s0 (execBatchTimeout b s) := by
  unfold execBatchTimeout
  repeat' (first
    | with_reducible assumption
    | with_reducible apply Kept.next
    | with_reducible apply State.batchOf_kept
    | with_reducible apply State.crdSync_kept
    | with_reducible rfl
    | with_reducible exact fun h => h
    | dsimp only
    | with_reducible apply Kept.ite
    | with_reducible apply KeptO.ite
    | split
    | with_reducible refine Kept.upd0 ?_ ?_ ?_ ?_ ?_ ?_)

theorem execBatchDispatch_kept {s0 : State} (b : Nat) (s : State) (hk : Kept s0 s) : KeptO s0 (execBatchDispatch b s) := by
  unfold execBatchDispatch
  repeat' (first
    | with_reducible assumption
    | with_reducible apply Kept.next
    | with_reducible apply State.crdSync_kept
    | with_reducible apply State.crdMoved_kept
    | with_reducible apply State.updCrd_kept
    | with_reducible apply State.count_kept
    | with_reducible refine Kept.foldl ?_ (fun _ _ _ => ?_)
    | with_reducible refine Kept.foldl1 ?_ (fun _ _ _ _ => ?_)
    | with_reducible refine Kept.foldl2 ?_ (fun _ _ _ _ => ?_)
    | with_reducible refine Kept.of_eq1 ?_ (by assumption)
    | with_reducible refine Kept.of_eq2 ?_ (by assumption)
    | with_reducible rfl
    | with_reducible exact fun h => h
    | dsimp only
    | with_reducible apply Kept.ite
    | with_reducible apply KeptO.ite
    | split
    | with_reducible refine Kept.upd0 ?_ ?_ ?_ ?_ ?_ ?_)

theorem State.castCount_kept {s0 : State} (s : State) (n p : Nat) (x : Trav) (lone : Bool) (hk : Kept s0 s) : Kept s0 (State.castCount s n p x lone) := by
  unfold State.castCount
  repeat' (first
    | with_reducible assumption
    | with_reducible apply State.countFirst_kept
    | with_reducible apply State.pmu_kept
    | with_reducible apply State.countN_kept
    | with_reducible apply State.free_kept
    | with_reducible refine Kept.of_eq2 ?_ (by assumption)
    | with_reducible rfl
    | with_reducible exact fun h => h
    | dsimp only
    | split)

theorem State.recast_kept {s0 : State} (s : State) (n : Nat) (r : Ray) (hk : Kept s0 s) : Kept s0 (State.recast s n r) := by
  unfold State.recast
  repeat' (first
    | with_reducible assumption
    | with_reducible apply State.traverse_kept
    | with_reducible apply State.ctxFault_kept
    | with_reducible apply State.castCount_kept
    | with_reducible refine Kept.foldl ?_ (fun _ _ _ => ?_)
    | with_reducible refine Kept.foldl1 ?_ (fun _ _ _ _ => ?_)
    | with_reducible refine Kept.foldl2 ?_ (fun _ _ _ _ => ?_)
    | with_reducible refine Kept.of_eq1 ?_ (by assumption)
    | with_reducible refine Kept.of_eq2 ?_ (by assumption)
    | with_reducible rfl
    | with_reducible exact fun h => h
    | dsimp only
    | with_reducible apply Kept.ite
    | with_reducible apply Kept.ite1
    | with_reducible apply Kept.ite2
    | with_reducible apply KeptO.ite
    | split
    | with_reducible refine Kept.upd0 ?_ ?_ ?_ ?_ ?_ ?_
    | with_reducible refine Kept.upd1 ?_ ?_ ?_ ?_ ?_ ?_)

theorem State.recastOn_kept {s0 : State} (s : State) (n : Option Nat) (r : Ray) (hk : Kept s0 s) : Kept s0 (State.recastOn s n r) := by
  unfold State.recastOn
  repeat' (first
    | with_reducible assumption
    | with_reducible apply State.recast_kept
    | with_reducible refine Kept.foldl ?_ (fun _ _ _ => ?_)
    | with_reducible refine Kept.foldl1 ?_ (fun _ _ _ _ => ?_)
    | with_reducible refine Kept.foldl2 ?_ (fun _ _ _ _ => ?_)
    | with_reducible refine Kept.of_eq1 ?_ (by assumption)
    | with_reducible refine Kept.of_eq2 ?_ (by assumption)
    | with_reducible rfl
    | with_reducible exact fun h => h
    | dsimp only
    | with_reducible apply Kept.ite
    | with_reducible apply Kept.ite1
    | with_reducible apply Kept.ite2
    | with_reducible apply KeptO.ite
    | split
    | with_reducible refine Kept.upd0 ?_ ?_ ?_ ?_ ?_ ?_
    | with_reducible refine Kept.upd1 ?_ ?_ ?_ ?_ ?_ ?_)

theorem State.batchSettle_kept {s0 : State} (s : State) (b : Nat) (hk : Kept s0 s) : Kept s0 (State.batchSettle s b) := by
  unfold State.batchSettle
  repeat' (first
    | with_reducible assumption
    | with_reducible apply State.updCrd_kept
    | with_reducible rfl
    | with_reducible exact fun h => h
    | dsimp only
    | with_reducible apply Kept.ite
    | split
    | with_reducible refine Kept.upd0 ?_ ?_ ?_ ?_ ?_ ?_)

theorem execTraversalComplete_kept {s0 : State} (b k : Nat) (s : State) (hk : Kept s0 s) : KeptO s0 (execTraversalComplete b k s) := by
  unfold execTraversalComplete
  repeat' (first
    | with_reducible assumption
    | with_reducible apply State.recast_kept
    | with_reducible apply Kept.next
    | with_reducible apply State.batchSettle_kept
    | with_reducible apply State.castCount_kept
    | with_reducible apply State.crdGo_kept
    | with_reducible apply State.hitOut_kept
    | with_reducible apply State.worldNormal_kept
    | with_reducible apply State.updCrd_kept
    | with_reducible apply State.traverse_kept
    | with_reducible apply State.ctxFault_kept
    | with_reducible refine Kept.of_eq1 ?_ (by assumption)
    | with_reducible refine Kept.of_eq2 ?_ (by assumption)
    | with_reducible rfl
    | with_reducible exact fun h => h
    | dsimp only
    | with_reducible apply Kept.ite
    | with_reducible apply Kept.ite1
    | with_reducible apply Kept.ite2
    | with_reducible apply KeptO.ite
    | split
    | with_reducible refine Kept.upd0 ?_ ?_ ?_ ?_ ?_ ?_)

theorem State.dupOdd_kept {s0 : State} (s : State) (n m odd : Nat) (third : Option Nat) (r : Ray) (out : State → State)
    (ho : ∀ t, Kept s0 t → Kept s0 (out t)) (hk : Kept s0 s) : Kept s0 (State.dupOdd s n m odd third r out) := by
  unfold State.dupOdd
  repeat' (first
    | with_reducible assumption
    | with_reducible apply State.ctxFault_kept
    | with_reducible apply State.askTest_kept
    | with_reducible apply State.crdSync_kept
    | with_reducible apply State.incRetryFailed_kept
    | with_reducible apply State.incDone_kept
    | with_reducible apply State.incident_kept
    | with_reducible apply ho
    | with_reducible refine Kept.foldl ?_ (fun _ _ _ => ?_)
    | with_reducible refine Kept.of_eq2 ?_ (by assumption)
    | with_reducible rfl
    | with_reducible exact fun h => h
    | dsimp only
    | with_reducible apply Kept.ite
    | with_reducible apply Kept.ite1
    | with_reducible apply Kept.ite2
    | split)

theorem execDupCompare_kept {s0 : State} (b k odd : Nat) (s : State) (hk : Kept s0 s) : KeptO s0 (execDupCompare b k odd s) := by
  unfold execDupCompare
  repeat' (first
    | with_reducible assumption
    | with_reducible apply Kept.next
    | with_reducible refine State.dupOdd_kept _ _ _ _ _ _ _ (fun _ _ => ?_) ?_
    | with_reducible apply State.recastOn_kept
    | with_reducible apply State.updCrd_kept
    | with_reducible apply State.hitOut_kept
    | with_reducible apply State.batchSettle_kept
    | with_reducible apply State.crdGo_kept
    | with_reducible apply State.count_kept
    | with_reducible apply State.raise_kept
    | with_reducible rfl
    | with_reducible exact fun h => h
    | dsimp only
    | with_reducible apply Kept.ite
    | with_reducible apply KeptO.ite
    | split)

theorem State.hitKdesc_kept {s0 : State} (s : State) (ds : List Nat) (r : Ray) (hk : Kept s0 s) : Kept s0 (State.hitKdesc s ds r).1 := by
  unfold State.hitKdesc
  repeat' (first
    | with_reducible assumption
    | with_reducible apply State.readKdesc_kept
    | with_reducible apply State.ctxFault_kept
    | with_reducible refine Kept.foldl ?_ (fun _ _ _ => ?_)
    | with_reducible refine Kept.foldl1 ?_ (fun _ _ _ _ => ?_)
    | with_reducible refine Kept.foldl2 ?_ (fun _ _ _ _ => ?_)
    | with_reducible refine Kept.of_eq1 ?_ (by assumption)
    | with_reducible refine Kept.of_eq2 ?_ (by assumption)
    | with_reducible rfl
    | with_reducible exact fun h => h
    | dsimp only
    | with_reducible apply Kept.ite
    | with_reducible apply Kept.ite1
    | with_reducible apply Kept.ite2
    | with_reducible apply KeptO.ite
    | split
    | with_reducible refine Kept.upd0 ?_ ?_ ?_ ?_ ?_ ?_
    | with_reducible refine Kept.upd1 ?_ ?_ ?_ ?_ ?_ ?_)

theorem State.keepKdesc_kept {s0 : State} (s : State) (ds : List Nat) (va : Nat) (kd : KDesc) (hk : Kept s0 s) : Kept s0 (State.keepKdesc s ds va kd) := by
  unfold State.keepKdesc
  repeat' (first
    | with_reducible assumption
    | with_reducible refine Kept.foldl ?_ (fun _ _ _ => ?_)
    | with_reducible refine Kept.foldl1 ?_ (fun _ _ _ _ => ?_)
    | with_reducible refine Kept.foldl2 ?_ (fun _ _ _ _ => ?_)
    | with_reducible refine Kept.of_eq1 ?_ (by assumption)
    | with_reducible refine Kept.of_eq2 ?_ (by assumption)
    | with_reducible rfl
    | with_reducible exact fun h => h
    | dsimp only
    | with_reducible apply Kept.ite
    | with_reducible apply Kept.ite1
    | with_reducible apply Kept.ite2
    | with_reducible apply KeptO.ite
    | split
    | with_reducible refine Kept.upd0 ?_ ?_ ?_ ?_ ?_ ?_
    | with_reducible refine Kept.upd1 ?_ ?_ ?_ ?_ ?_ ?_)

theorem execHitShadeLaunch_kept {s0 : State} (b : Nat) (s : State) (hk : Kept s0 s) : KeptO s0 (execHitShadeLaunch b s) := by
  unfold execHitShadeLaunch
  repeat' (first
    | with_reducible assumption
    | with_reducible apply State.hitKdesc_kept
    | with_reducible apply State.keepKdesc_kept
    | with_reducible apply Kept.next
    | with_reducible apply State.crdGo_kept
    | with_reducible apply State.crdMoved_kept
    | with_reducible apply State.updCrd_kept
    | with_reducible apply State.placeOn_kept
    | with_reducible apply State.readKdesc_kept
    | with_reducible apply State.ctxFault_kept
    | with_reducible apply id_kept
    | with_reducible refine Kept.foldl ?_ (fun _ _ _ => ?_)
    | with_reducible refine Kept.of_eq1 ?_ (by assumption)
    | with_reducible refine Kept.foldl1 ?_ (fun _ _ _ _ => ?_)
    | with_reducible refine Kept.foldl2 ?_ (fun _ _ _ _ => ?_)
    | with_reducible refine Kept.of_eq2 ?_ (by assumption)
    | with_reducible rfl
    | with_reducible exact fun h => h
    | dsimp only
    | with_reducible apply Kept.ite
    | with_reducible apply Kept.ite1
    | with_reducible apply Kept.ite2
    | with_reducible apply KeptO.ite
    | split
    | with_reducible refine Kept.upd0 ?_ ?_ ?_ ?_ ?_ ?_)

theorem execPoolReturn_kept {s0 : State} (p : Nat) (s : State) (hk : Kept s0 s) : KeptO s0 (execPoolReturn p s) := by
  unfold execPoolReturn
  repeat' (first
    | with_reducible assumption
    | with_reducible apply Kept.next
    | with_reducible apply State.crdGo_kept
    | with_reducible apply State.bucketIn_kept
    | with_reducible apply State.crdSync_kept
    | with_reducible apply State.updCrd_kept
    | with_reducible apply State.accFault_kept
    | with_reducible apply State.physRead_kept
    | with_reducible refine Kept.of_eq1 ?_ (by assumption)
    | with_reducible rfl
    | with_reducible exact fun h => h
    | dsimp only
    | with_reducible apply Kept.ite
    | with_reducible apply Kept.ite1
    | with_reducible apply Kept.ite2
    | with_reducible apply KeptO.ite
    | split
    | with_reducible refine Kept.upd0 ?_ ?_ ?_ ?_ ?_ ?_)

theorem execRayDeadlock_kept {s0 : State} (p : Nat) (s : State) (hk : Kept s0 s) : KeptO s0 (execRayDeadlock p s) := by
  unfold execRayDeadlock
  repeat' (first
    | with_reducible assumption
    | with_reducible apply Kept.next
    | with_reducible apply State.ctxFault_kept
    | with_reducible refine Kept.foldl ?_ (fun _ _ _ => ?_)
    | with_reducible refine Kept.foldl1 ?_ (fun _ _ _ _ => ?_)
    | with_reducible refine Kept.foldl2 ?_ (fun _ _ _ _ => ?_)
    | with_reducible refine Kept.of_eq1 ?_ (by assumption)
    | with_reducible refine Kept.of_eq2 ?_ (by assumption)
    | with_reducible rfl
    | with_reducible exact fun h => h
    | dsimp only
    | with_reducible apply Kept.ite
    | with_reducible apply KeptO.ite
    | split
    | with_reducible refine Kept.upd0 ?_ ?_ ?_ ?_ ?_ ?_)

theorem execRtuPatrol_kept {s0 : State} (n : Nat) (fail : Bool) (s : State) (hk : Kept s0 s) : KeptO s0 (execRtuPatrol n fail s) := by
  unfold execRtuPatrol
  repeat' (first
    | with_reducible assumption
    | with_reducible apply Kept.next
    | with_reducible apply State.castCount_kept
    | with_reducible apply State.askTest_kept
    | with_reducible apply State.raise_kept
    | with_reducible apply State.free_kept
    | with_reducible refine Kept.of_eq2 ?_ (by assumption)
    | with_reducible rfl
    | with_reducible exact fun h => h
    | dsimp only
    | with_reducible apply Kept.ite
    | with_reducible apply Kept.ite1
    | with_reducible apply Kept.ite2
    | with_reducible apply KeptO.ite
    | split)

theorem execActivationComplete_kept {s0 : State} (a : Nat) (s : State) (hk : Kept s0 s) : KeptO s0 (execActivationComplete a s) := by
  unfold execActivationComplete
  repeat' (first
    | with_reducible assumption
    | with_reducible apply Kept.next
    | with_reducible apply State.crdGo_kept
    | with_reducible apply State.updCrd_kept
    | with_reducible apply State.signal_kept
    | with_reducible apply id_kept
    | with_reducible rfl
    | with_reducible exact fun h => h
    | dsimp only
    | with_reducible apply Kept.ite
    | with_reducible apply KeptO.ite
    | split
    | with_reducible refine Kept.upd0 ?_ ?_ ?_ ?_ ?_ ?_)

theorem State.crdTeardown_kept {s0 : State} (s : State) (c : Nat) (hk : Kept s0 s) : Kept s0 (State.crdTeardown s c).1 := by
  unfold State.crdTeardown
  repeat' (first
    | with_reducible assumption
    | with_reducible apply State.crdGo_kept
    | with_reducible apply State.updCrd_kept
    | with_reducible refine Kept.of_eq1 ?_ (by assumption)
    | with_reducible rfl
    | with_reducible exact fun h => h
    | dsimp only
    | with_reducible apply Kept.ite
    | with_reducible apply Kept.ite1
    | with_reducible apply Kept.ite2
    | split
    | with_reducible refine Kept.upd0 ?_ ?_ ?_ ?_ ?_ ?_)

theorem State.crdEmpty_kept {s0 : State} (s : State) (p : Nat) (hk : Kept s0 s) : Kept s0 (State.crdEmpty s p) := by
  unfold State.crdEmpty
  repeat' (first
    | with_reducible assumption
    | with_reducible apply State.crdSync_kept
    | with_reducible apply State.updCrd_kept
    | with_reducible rfl
    | with_reducible exact fun h => h
    | dsimp only
    | split
    | with_reducible refine Kept.upd0 ?_ ?_ ?_ ?_ ?_ ?_)

theorem State.rtuDrop_kept {s0 : State} (s : State) (n : Nat) (hk : Kept s0 s) : Kept s0 (State.rtuDrop s n) := by
  unfold State.rtuDrop
  repeat' (first
    | with_reducible assumption
    | with_reducible apply State.updCrd_kept
    | with_reducible rfl
    | with_reducible exact fun h => h
    | dsimp only
    | with_reducible apply Kept.ite
    | split
    | with_reducible refine Kept.upd0 ?_ ?_ ?_ ?_ ?_ ?_)

end Sys2Proof.Machine
end

