-- ==== Sys2Proof/Laws/KeptLoomCmds.lean ====
section
/-! SUPPORT. Every operation of Machine/LoomCmds.lean keeps what no command may change. -/

namespace Sys2Proof.Machine

set_option linter.all false

theorem State.loomSync_kept {s0 : State} (s : State) (n : Nat) (hk : Kept s0 s) : Kept s0 (State.loomSync s n) := by
  unfold State.loomSync
  repeat' (first
    | with_reducible assumption
    | with_reducible apply State.wrs_kept
    | with_reducible rfl
    | with_reducible exact fun h => h
    | dsimp only
    | split)

theorem State.updDraft_kept {s0 : State} (s : State) (n id : Nat) (f : LDraft → LDraft) (hk : Kept s0 s) : Kept s0 (State.updDraft s n id f) := by
  unfold State.updDraft
  repeat' (first
    | with_reducible assumption
    | with_reducible apply State.updLoom_kept
    | with_reducible apply id_kept
    | with_reducible rfl
    | with_reducible exact fun h => h
    | dsimp only
    | with_reducible apply Kept.ite
    | split
    | with_reducible refine Kept.upd0 ?_ ?_ ?_ ?_ ?_ ?_)

theorem State.dropDraft_kept {s0 : State} (s : State) (n id : Nat) (hk : Kept s0 s) : Kept s0 (State.dropDraft s n id) := by
  unfold State.dropDraft
  repeat' (first
    | with_reducible assumption
    | with_reducible apply State.loomSync_kept
    | with_reducible apply State.updLoom_kept
    | with_reducible apply id_kept
    | with_reducible rfl
    | with_reducible exact fun h => h
    | dsimp only
    | split
    | with_reducible refine Kept.upd0 ?_ ?_ ?_ ?_ ?_ ?_)

theorem State.loomClaim_kept {s0 : State} (s : State) (n c : Nat) (hk : Kept s0 s) : Kept s0 (State.loomClaim s n c).1 := by
  unfold State.loomClaim
  repeat' (first
    | with_reducible assumption
    | with_reducible apply State.wrs_kept
    | with_reducible refine Kept.of_eq1 ?_ (by assumption)
    | with_reducible rfl
    | with_reducible exact fun h => h
    | dsimp only
    | with_reducible apply Kept.ite
    | with_reducible apply Kept.ite1
    | with_reducible apply Kept.ite2
    | split)

theorem State.loomClear_kept {s0 : State} (s : State) (n : Nat) (hk : Kept s0 s) : Kept s0 (State.loomClear s n) := by
  unfold State.loomClear
  repeat' (first
    | with_reducible assumption
    | with_reducible apply State.updLoom_kept
    | with_reducible rfl
    | with_reducible exact fun h => h
    | dsimp only
    | split
    | with_reducible refine Kept.upd0 ?_ ?_ ?_ ?_ ?_ ?_)

theorem State.loomWait_kept {s0 : State} (s : State) (n : Nat) (hk : Kept s0 s) : Kept s0 (State.loomWait s n) := by
  unfold State.loomWait
  repeat' (first
    | with_reducible assumption
    | with_reducible apply State.updDraft_kept
    | with_reducible apply State.loomSync_kept
    | with_reducible apply State.addWait_kept
    | with_reducible apply id_kept
    | with_reducible refine Kept.of_eq1 ?_ (by assumption)
    | with_reducible rfl
    | with_reducible exact fun h => h
    | dsimp only
    | with_reducible apply Kept.ite
    | with_reducible apply Kept.ite1
    | with_reducible apply Kept.ite2
    | split
    | with_reducible refine Kept.upd0 ?_ ?_ ?_ ?_ ?_ ?_)

theorem execLoomIssue_kept {s0 : State} (g : Nat) (i : Ins) (s : State) (hk : Kept s0 s) : KeptO s0 (execLoomIssue g i s) := by
  unfold execLoomIssue
  repeat' (first
    | with_reducible assumption
    | intro _
    | with_reducible apply Kept.next
    | with_reducible apply State.issue_kept
    | with_reducible apply State.updGrp_kept
    | with_reducible rfl
    | with_reducible exact fun h => h
    | dsimp only
    | with_reducible apply Kept.ite
    | with_reducible apply KeptO.ite
    | split
    | with_reducible refine Kept.upd0 ?_ ?_ ?_ ?_ ?_ ?_)

theorem execDraft_kept {s0 : State} (sid : Nat) (s : State) (hk : Kept s0 s) : KeptO s0 (execDraft sid s) := by
  unfold execDraft
  repeat' (first
    | with_reducible assumption
    | with_reducible apply State.select_kept
    | with_reducible apply Kept.next
    | with_reducible rfl
    | with_reducible exact fun h => h
    | dsimp only
    | with_reducible apply Kept.ite
    | with_reducible apply KeptO.ite
    | split
    | with_reducible refine Kept.upd0 ?_ ?_ ?_ ?_ ?_ ?_)

theorem State.loomAccept_kept {s0 : State} (s : State) (n c va prio : Nat) (src : Option (Nat × Nat)) (hk : Kept s0 s) : Kept s0 (State.loomAccept s n c va prio src).1 := by
  unfold State.loomAccept
  repeat' (first
    | with_reducible assumption
    | with_reducible apply State.loomWait_kept
    | with_reducible apply State.loomClaim_kept
    | with_reducible apply State.updLoom_kept
    | with_reducible apply State.vread_kept
    | with_reducible apply State.ctxFault_kept
    | with_reducible apply id_kept
    | with_reducible refine Kept.of_eq1 ?_ (by assumption)
    | with_reducible rfl
    | with_reducible exact fun h => h
    | dsimp only
    | with_reducible apply Kept.ite
    | with_reducible apply Kept.ite1
    | with_reducible apply Kept.ite2
    | with_reducible apply KeptO.ite
    | split
    | with_reducible refine Kept.upd0 ?_ ?_ ?_ ?_ ?_ ?_)

theorem execDraftAccept_kept {s0 : State} (thread : Bool) (src : Nat) (s : State) (hk : Kept s0 s) : KeptO s0 (execDraftAccept thread src s) := by
  unfold execDraftAccept
  repeat' (first
    | with_reducible assumption
    | with_reducible apply Kept.next
    | with_reducible apply State.loomAccept_kept
    | with_reducible apply State.vread_kept
    | with_reducible apply State.updGrp_kept
    | with_reducible apply State.ctxFault_kept
    | with_reducible apply State.startPkt_kept
    | with_reducible refine Kept.of_eq1 ?_ (by assumption)
    | with_reducible rfl
    | with_reducible exact fun h => h
    | dsimp only
    | with_reducible apply Kept.ite
    | with_reducible apply Kept.ite1
    | with_reducible apply Kept.ite2
    | with_reducible apply KeptO.ite
    | split
    | with_reducible refine Kept.upd0 ?_ ?_ ?_ ?_ ?_ ?_)

theorem State.draftPkt_kept {s0 : State} (s : State) (src : Option (Nat × Nat)) (hk : Kept s0 s) : Kept s0 (State.draftPkt s src) := by
  unfold State.draftPkt
  repeat' (first
    | with_reducible assumption
    | with_reducible apply State.donePkt_kept
    | with_reducible rfl
    | with_reducible exact fun h => h
    | dsimp only
    | with_reducible apply Kept.ite
    | split
    | with_reducible refine Kept.upd0 ?_ ?_ ?_ ?_ ?_ ?_)

theorem State.draftStatus_kept {s0 : State} (s : State) (n : Nat) (d : LDraft) (code : Nat) (hk : Kept s0 s) : Kept s0 (State.draftStatus s n d code).1 := by
  unfold State.draftStatus
  repeat' (first
    | with_reducible assumption
    | with_reducible apply State.vwrite_kept
    | with_reducible apply State.free_kept
    | with_reducible refine Kept.of_eq1 ?_ (by assumption)
    | with_reducible refine Kept.of_eq2 ?_ (by assumption)
    | with_reducible rfl
    | with_reducible exact fun h => h
    | dsimp only
    | with_reducible apply Kept.ite
    | with_reducible apply Kept.ite1
    | with_reducible apply Kept.ite2
    | split)

theorem State.loomTest_kept {s0 : State} (s : State) (n inc : Nat) (hk : Kept s0 s) : Kept s0 (State.loomTest s n inc) := by
  unfold State.loomTest
  repeat' (first
    | with_reducible assumption
    | with_reducible apply State.updLoom_kept
    | with_reducible apply State.askTest_kept
    | with_reducible rfl
    | with_reducible exact fun h => h
    | dsimp only
    | with_reducible apply Kept.ite
    | split
    | with_reducible refine Kept.upd0 ?_ ?_ ?_ ?_ ?_ ?_)

theorem execDraftComplete_kept {s0 : State} (n : Nat) (s : State) (hk : Kept s0 s) : KeptO s0 (execDraftComplete n s) := by
  unfold execDraftComplete
  repeat' (first
    | with_reducible assumption
    | with_reducible apply Kept.next
    | with_reducible apply State.loomTest_kept
    | with_reducible apply State.draftStatus_kept
    | with_reducible apply State.draftPkt_kept
    | with_reducible apply State.loomWait_kept
    | with_reducible apply State.dropDraft_kept
    | with_reducible apply State.signal_kept
    | with_reducible apply State.count_kept
    | with_reducible apply id_kept
    | with_reducible refine Kept.of_eq1 ?_ (by assumption)
    | with_reducible rfl
    | with_reducible exact fun h => h
    | dsimp only
    | with_reducible apply Kept.ite
    | with_reducible apply Kept.ite1
    | with_reducible apply Kept.ite2
    | with_reducible apply KeptO.ite
    | split
    | with_reducible refine Kept.upd0 ?_ ?_ ?_ ?_ ?_ ?_)

theorem State.skipDraft_kept {s0 : State} (s : State) (n : Nat) (d : LDraft) (hk : Kept s0 s) : Kept s0 (State.skipDraft s n d) := by
  unfold State.skipDraft
  repeat' (first
    | with_reducible assumption
    | with_reducible apply State.queueFault_kept
    | with_reducible apply State.updStrm_kept
    | with_reducible apply State.draftPkt_kept
    | with_reducible apply State.tdPoison_kept
    | with_reducible apply State.draftStatus_kept
    | with_reducible apply State.dropDraft_kept
    | with_reducible apply State.loomSync_kept
    | with_reducible apply State.updLoom_kept
    | with_reducible apply State.dropWaits_kept
    | with_reducible apply State.ctxFault_kept
    | with_reducible apply State.pktFault_kept
    | with_reducible apply State.count_kept
    | with_reducible apply State.fl_kept
    | with_reducible apply id_kept
    | with_reducible refine Kept.foldl ?_ (fun _ _ _ => ?_)
    | with_reducible refine Kept.of_eq1 ?_ (by assumption)
    | with_reducible refine Kept.foldl1 ?_ (fun _ _ _ _ => ?_)
    | with_reducible refine Kept.foldl2 ?_ (fun _ _ _ _ => ?_)
    | with_reducible refine Kept.of_eq2 ?_ (by assumption)
    | with_reducible rfl
    | with_reducible exact fun h => h
    | dsimp only
    | split
    | with_reducible refine Kept.upd0 ?_ ?_ ?_ ?_ ?_ ?_)

theorem State.loomCur_kept {s0 : State} (s : State) (n : Nat) (d : LDraft) (hk : Kept s0 s) : Kept s0 (State.loomCur s n d) := by
  unfold State.loomCur
  repeat' (first
    | with_reducible assumption
    | with_reducible apply State.wrs_kept
    | with_reducible rfl
    | with_reducible exact fun h => h
    | dsimp only
    | split)

theorem State.startDraft_kept {s0 : State} (s : State) (n op : Nat) (run : State → LDraft → State) (h_run : ∀ a0 a1, Kept s0 a0 → Kept s0 (run a0 a1)) (hk : Kept s0 s) : Kept s0 (State.startDraft s n op run) := by
  unfold State.startDraft
  repeat' (first
    | with_reducible assumption
    | with_reducible apply h_run
    | with_reducible apply State.skipDraft_kept
    | with_reducible apply State.loomWait_kept
    | with_reducible apply State.updDraft_kept
    | with_reducible apply id_kept
    | with_reducible rfl
    | with_reducible exact fun h => h
    | dsimp only
    | with_reducible apply Kept.ite
    | split
    | with_reducible refine Kept.upd0 ?_ ?_ ?_ ?_ ?_ ?_)

theorem State.startMat_kept {s0 : State} (n : Nat) (s : State) (d : LDraft) (hk : Kept s0 s) : Kept s0 (State.startMat n s d) := by
  unfold State.startMat
  repeat' (first
    | with_reducible assumption
    | with_reducible apply State.loadPair_kept
    | with_reducible apply State.loomCur_kept
    | with_reducible apply State.loadBlock_kept
    | with_reducible apply State.loadW_kept
    | with_reducible refine Kept.of_eq1 ?_ (by assumption)
    | with_reducible rfl
    | with_reducible exact fun h => h
    | dsimp only
    | with_reducible apply Kept.ite
    | with_reducible apply Kept.ite1
    | with_reducible apply Kept.ite2
    | split)

theorem execMatmul_kept {s0 : State} (n : Nat) (s : State) (hk : Kept s0 s) : KeptO s0 (execMatmul n s) := by
  unfold execMatmul
  repeat' (first
    | with_reducible assumption
    | intro _
    | with_reducible apply Kept.next
    | with_reducible apply State.startMat_kept
    | with_reducible apply State.startDraft_kept
    | with_reducible rfl
    | with_reducible exact fun h => h
    | dsimp only
    | split)

theorem execConv_kept {s0 : State} (n : Nat) (s : State) (hk : Kept s0 s) : KeptO s0 (execConv n s) := by
  unfold execConv
  repeat' (first
    | with_reducible assumption
    | intro _
    | with_reducible apply Kept.next
    | with_reducible apply State.startMat_kept
    | with_reducible apply State.startDraft_kept
    | with_reducible rfl
    | with_reducible exact fun h => h
    | dsimp only
    | split)

theorem State.shuttled_kept {s0 : State} (n : Nat) (d : LDraft) (r : State × Bool) (h : Kept s0 r.1) :
    Kept s0 (State.shuttled n d r) := by
  unfold State.shuttled
  repeat' (first
    | with_reducible assumption
    | with_reducible apply State.updLoom_kept
    | with_reducible apply State.updDraft_kept
    | with_reducible apply State.loomSync_kept
    | with_reducible apply State.loomPump_kept
    | with_reducible apply State.pmu_kept
    | with_reducible apply State.count_kept
    | with_reducible apply State.countN_kept
    | split)

theorem execLoadW_kept {s0 : State} (n : Nat) (s : State) (hk : Kept s0 s) : KeptO s0 (execLoadW n s) := by
  unfold execLoadW
  repeat' (first
    | with_reducible assumption
    | intro _
    | with_reducible apply Kept.next
    | with_reducible apply State.shuttled_kept
    | with_reducible apply State.startDraft_kept
    | with_reducible apply State.loadW_kept
    | with_reducible refine Kept.of_eq1 ?_ (by assumption)
    | with_reducible rfl
    | with_reducible exact fun h => h
    | dsimp only
    | with_reducible apply Kept.ite
    | with_reducible apply Kept.ite1
    | with_reducible apply Kept.ite2
    | with_reducible apply KeptO.ite
    | split)

theorem execLoadA_kept {s0 : State} (n : Nat) (s : State) (hk : Kept s0 s) : KeptO s0 (execLoadA n s) := by
  unfold execLoadA
  repeat' (first
    | with_reducible assumption
    | intro _
    | with_reducible apply Kept.next
    | with_reducible apply State.shuttled_kept
    | with_reducible apply State.startDraft_kept
    | with_reducible apply State.loadA1_kept
    | with_reducible apply State.loadA0_kept
    | with_reducible refine Kept.of_eq1 ?_ (by assumption)
    | with_reducible rfl
    | with_reducible exact fun h => h
    | dsimp only
    | with_reducible apply Kept.ite
    | with_reducible apply Kept.ite1
    | with_reducible apply Kept.ite2
    | with_reducible apply KeptO.ite
    | split)

theorem execStoreBolt_kept {s0 : State} (n : Nat) (s : State) (hk : Kept s0 s) : KeptO s0 (execStoreBolt n s) := by
  unfold execStoreBolt
  repeat' (first
    | with_reducible assumption
    | intro _
    | with_reducible apply Kept.next
    | with_reducible apply State.shuttled_kept
    | with_reducible apply State.startDraft_kept
    | with_reducible apply State.drainStore_kept
    | with_reducible refine Kept.of_eq1 ?_ (by assumption)
    | with_reducible rfl
    | with_reducible exact fun h => h
    | dsimp only
    | split)

theorem State.loomEscalate_kept {s0 : State} (s : State) (n : Nat) (d : LDraft) (hk : Kept s0 s) : Kept s0 (State.loomEscalate s n d) := by
  unfold State.loomEscalate
  repeat' (first
    | with_reducible assumption
    | with_reducible apply State.tdPoison_kept
    | with_reducible apply State.loomTest_kept
    | with_reducible apply State.dropDraft_kept
    | with_reducible apply State.ctxFault_kept
    | with_reducible apply State.incRetryFailed_kept
    | with_reducible apply State.incident_kept
    | with_reducible apply State.count_kept
    | with_reducible apply State.raise_kept
    | with_reducible apply State.fl_kept
    | with_reducible apply id_kept
    | with_reducible refine Kept.of_eq2 ?_ (by assumption)
    | with_reducible rfl
    | with_reducible exact fun h => h
    | dsimp only
    | with_reducible apply Kept.ite
    | with_reducible apply Kept.ite1
    | with_reducible apply Kept.ite2
    | split
    | with_reducible refine Kept.upd0 ?_ ?_ ?_ ?_ ?_ ?_)

theorem State.retryInc_kept {s0 : State} (s : State) (n : Nat) (d : LDraft) (hk : Kept s0 s) : Kept s0 (State.retryInc s n d).2 := by
  unfold State.retryInc
  repeat' (first
    | with_reducible assumption
    | with_reducible apply State.incident_kept
    | with_reducible refine Kept.foldl ?_ (fun _ _ _ => ?_)
    | with_reducible refine Kept.foldl1 ?_ (fun _ _ _ _ => ?_)
    | with_reducible refine Kept.foldl2 ?_ (fun _ _ _ _ => ?_)
    | with_reducible refine Kept.of_eq1 ?_ (by assumption)
    | with_reducible refine Kept.of_eq2 ?_ (by assumption)
    | with_reducible rfl
    | with_reducible exact fun h => h
    | dsimp only
    | with_reducible apply Kept.ite
    | with_reducible apply Kept.ite1
    | with_reducible apply Kept.ite2
    | with_reducible apply KeptO.ite
    | split
    | with_reducible refine Kept.upd0 ?_ ?_ ?_ ?_ ?_ ?_
    | with_reducible refine Kept.upd1 ?_ ?_ ?_ ?_ ?_ ?_)

theorem State.mismatch_kept {s0 : State} (s : State) (n : Nat) (d : LDraft) (kind pass slice : Nat) (row col : Option Nat) (piece diff limit : Nat) (hk : Kept s0 s) : Kept s0 (State.mismatch s n d kind pass slice row col piece diff limit) := by
  unfold State.mismatch
  repeat' (first
    | with_reducible assumption
    | with_reducible apply State.retryInc_kept
    | with_reducible apply State.loomCur_kept
    | with_reducible apply State.loomEscalate_kept
    | with_reducible apply State.updDraft_kept
    | with_reducible apply State.updLoom_kept
    | with_reducible apply State.incident_kept
    | with_reducible apply State.count_kept
    | with_reducible apply State.raise_kept
    | with_reducible apply State.wrs_kept
    | with_reducible apply State.fl_kept
    | with_reducible apply id_kept
    | with_reducible refine Kept.of_eq2 ?_ (by assumption)
    | with_reducible rfl
    | with_reducible exact fun h => h
    | dsimp only
    | with_reducible apply Kept.ite
    | with_reducible apply Kept.ite1
    | with_reducible apply Kept.ite2
    | split
    | with_reducible refine Kept.upd0 ?_ ?_ ?_ ?_ ?_ ?_)

theorem execRowCheck_kept {s0 : State} (n kind pass slice row piece : Nat) (errM errE : Int) (s : State) (hk : Kept s0 s) : KeptO s0 (execRowCheck n kind pass slice row piece errM errE s) := by
  unfold execRowCheck
  repeat' (first
    | with_reducible assumption
    | with_reducible apply Kept.next
    | with_reducible apply State.mismatch_kept
    | with_reducible rfl
    | with_reducible exact fun h => h
    | dsimp only
    | with_reducible apply Kept.ite
    | with_reducible apply KeptO.ite
    | split
    | with_reducible refine Kept.upd0 ?_ ?_ ?_ ?_ ?_ ?_)

theorem State.tileDone_kept {s0 : State} (s : State) (n : Nat) (d : LDraft) (hk : Kept s0 s) : Kept s0 (State.tileDone s n d) := by
  unfold State.tileDone
  repeat' (first
    | with_reducible assumption
    | with_reducible apply State.loomCur_kept
    | with_reducible apply State.updDraft_kept
    | with_reducible apply State.drainTile_kept
    | with_reducible apply State.loadBlock_kept
    | with_reducible apply State.updLoom_kept
    | with_reducible apply State.incDone_kept
    | with_reducible apply State.fl_kept
    | with_reducible apply id_kept
    | with_reducible refine Kept.of_eq1 ?_ (by assumption)
    | with_reducible rfl
    | with_reducible exact fun h => h
    | dsimp only
    | with_reducible apply Kept.ite
    | with_reducible apply Kept.ite1
    | with_reducible apply Kept.ite2
    | split
    | with_reducible refine Kept.upd0 ?_ ?_ ?_ ?_ ?_ ?_)

theorem execChunkCheck_kept {s0 : State} (n col : Nat) (corr : Bool) (errM errE : Int) (s : State) (hk : Kept s0 s) : KeptO s0 (execChunkCheck n col corr errM errE s) := by
  unfold execChunkCheck
  repeat' (first
    | with_reducible assumption
    | with_reducible apply Kept.next
    | with_reducible apply State.tileDone_kept
    | with_reducible apply State.mismatch_kept
    | with_reducible apply State.loomCur_kept
    | with_reducible apply State.updDraft_kept
    | with_reducible apply State.loomSync_kept
    | with_reducible apply State.updLoom_kept
    | with_reducible apply State.pmu_kept
    | with_reducible apply State.count_kept
    | with_reducible apply State.countN_kept
    | with_reducible apply State.raise_kept
    | with_reducible apply State.wr_kept
    | with_reducible apply id_kept
    | with_reducible rfl
    | with_reducible exact fun h => h
    | dsimp only
    | with_reducible apply Kept.ite
    | with_reducible apply KeptO.ite
    | split
    | with_reducible refine Kept.upd0 ?_ ?_ ?_ ?_ ?_ ?_)

theorem execLoomRelease_kept {s0 : State} (n : Nat) (s : State) (hk : Kept s0 s) : KeptO s0 (execLoomRelease n s) := by
  unfold execLoomRelease
  repeat' (first
    | with_reducible assumption
    | with_reducible apply Kept.next
    | with_reducible refine State.hostDo_kept ?_ ?_
    | with_reducible apply State.loomClear_kept
    | with_reducible apply State.loomSync_kept
    | with_reducible apply State.cfgErr_kept
    | with_reducible apply State.wrs_kept
    | with_reducible apply State.fl_kept
    | with_reducible rfl
    | with_reducible exact fun h => h
    | exact Memory.wf_filter _
    | exact Memory.wf_zero _ _
    | exact Memory.wf_writeMask _ _ _
    | exact Memory.wf_write _ _
    | dsimp only
    | with_reducible apply Kept.ite
    | with_reducible apply KeptO.ite
    | split)

theorem execLoomReleaseDone_kept {s0 : State} (n : Nat) (s : State) (hk : Kept s0 s) : KeptO s0 (execLoomReleaseDone n s) := by
  unfold execLoomReleaseDone
  repeat' (first
    | with_reducible assumption
    | with_reducible apply Kept.next
    | with_reducible apply State.loomSync_kept
    | with_reducible apply State.fl_kept
    | with_reducible rfl
    | with_reducible exact fun h => h
    | dsimp only
    | with_reducible apply Kept.ite
    | with_reducible apply KeptO.ite
    | split)

theorem execLoomStopReq_kept {s0 : State} (n : Nat) (full : Bool) (s : State) (hk : Kept s0 s) : KeptO s0 (execLoomStopReq n full s) := by
  unfold execLoomStopReq
  repeat' (first
    | with_reducible assumption
    | with_reducible apply Kept.next
    | with_reducible apply State.updLoom_kept
    | with_reducible apply State.trace_kept
    | with_reducible apply State.cfgErr_kept
    | with_reducible apply State.count_kept
    | with_reducible apply State.wrs_kept
    | with_reducible rfl
    | with_reducible exact fun h => h
    | dsimp only
    | with_reducible apply Kept.ite
    | with_reducible apply KeptO.ite
    | split
    | with_reducible refine Kept.upd0 ?_ ?_ ?_ ?_ ?_ ?_)

theorem State.stopEnd_kept {s0 : State} (s : State) (n : Nat) (hk : Kept s0 s) : Kept s0 (State.stopEnd s n) := by
  unfold State.stopEnd
  repeat' (first
    | with_reducible assumption
    | with_reducible apply State.lateStop_kept
    | with_reducible apply State.trace_kept
    | with_reducible apply State.free_kept
    | with_reducible apply State.wr_kept
    | with_reducible refine Kept.of_eq2 ?_ (by assumption)
    | with_reducible rfl
    | with_reducible exact fun h => h
    | dsimp only
    | split)

theorem execLoomStopPoint_kept {s0 : State} (n : Nat) (s : State) (hk : Kept s0 s) : KeptO s0 (execLoomStopPoint n s) := by
  unfold execLoomStopPoint
  repeat' (first
    | with_reducible assumption
    | with_reducible apply Kept.next
    | with_reducible apply State.stopEnd_kept
    | with_reducible apply State.loomSync_kept
    | with_reducible apply State.wrs_kept
    | with_reducible apply State.wr_kept
    | with_reducible rfl
    | with_reducible exact fun h => h
    | dsimp only
    | with_reducible apply Kept.ite
    | with_reducible apply KeptO.ite
    | split)

theorem execLoomSaveDone_kept {s0 : State} (n : Nat) (s : State) (hk : Kept s0 s) : KeptO s0 (execLoomSaveDone n s) := by
  unfold execLoomSaveDone
  repeat' (first
    | with_reducible assumption
    | with_reducible apply Kept.next
    | with_reducible apply State.stopEnd_kept
    | with_reducible apply State.loomSync_kept
    | with_reducible apply State.updLoom_kept
    | with_reducible apply State.physWrite_kept
    | with_reducible apply State.countN_kept
    | with_reducible apply State.freeBytes_kept
    | with_reducible apply State.wrs_kept
    | with_reducible apply id_kept
    | with_reducible refine Kept.foldl ?_ (fun _ _ _ => ?_)
    | with_reducible refine Kept.of_eq1 ?_ (by assumption)
    | with_reducible refine Kept.of_eq2 ?_ (by assumption)
    | with_reducible refine Kept.foldl1 ?_ (fun _ _ _ _ => ?_)
    | with_reducible refine Kept.foldl2 ?_ (fun _ _ _ _ => ?_)
    | with_reducible rfl
    | with_reducible exact fun h => h
    | dsimp only
    | with_reducible apply Kept.ite
    | with_reducible apply Kept.ite1
    | with_reducible apply Kept.ite2
    | with_reducible apply KeptO.ite
    | split
    | with_reducible refine Kept.upd0 ?_ ?_ ?_ ?_ ?_ ?_)

theorem execLoomStopRestore_kept {s0 : State} (n : Nat) (s : State) (hk : Kept s0 s) : KeptO s0 (execLoomStopRestore n s) := by
  unfold execLoomStopRestore
  repeat' (first
    | with_reducible assumption
    | with_reducible apply Kept.next
    | with_reducible apply State.loomSync_kept
    | with_reducible apply State.cfgErr_kept
    | with_reducible apply State.wr_kept
    | with_reducible rfl
    | with_reducible exact fun h => h
    | dsimp only
    | with_reducible apply Kept.ite
    | with_reducible apply KeptO.ite
    | split)

theorem execLoomRestoreDone_kept {s0 : State} (n : Nat) (s : State) (hk : Kept s0 s) : KeptO s0 (execLoomRestoreDone n s) := by
  unfold execLoomRestoreDone
  repeat' (first
    | with_reducible assumption
    | with_reducible apply State.loadPair_kept
    | with_reducible apply State.tdPoison_kept
    | with_reducible apply State.incDone_kept
    | with_reducible apply State.loomTest_kept
    | with_reducible apply Kept.next
    | with_reducible apply State.loomCur_kept
    | with_reducible apply State.loomClear_kept
    | with_reducible apply State.loomSync_kept
    | with_reducible apply State.loadBlock_kept
    | with_reducible apply State.updLoom_kept
    | with_reducible apply State.ctxFault_kept
    | with_reducible apply State.trace_kept
    | with_reducible apply State.physRead_kept
    | with_reducible apply State.countN_kept
    | with_reducible apply State.wr_kept
    | with_reducible refine Kept.foldl ?_ (fun _ _ _ => ?_)
    | with_reducible refine Kept.of_eq1 ?_ (by assumption)
    | with_reducible refine Kept.foldl1 ?_ (fun _ _ _ _ => ?_)
    | with_reducible refine Kept.foldl2 ?_ (fun _ _ _ _ => ?_)
    | with_reducible refine Kept.of_eq2 ?_ (by assumption)
    | with_reducible rfl
    | with_reducible exact fun h => h
    | dsimp only
    | with_reducible apply Kept.ite
    | with_reducible apply Kept.ite1
    | with_reducible apply Kept.ite2
    | with_reducible apply KeptO.ite
    | split
    | with_reducible refine Kept.upd0 ?_ ?_ ?_ ?_ ?_ ?_)

theorem State.loomTeardown_kept {s0 : State} (s : State) (c : Nat) (hk : Kept s0 s) : Kept s0 (State.loomTeardown s c).1 := by
  unfold State.loomTeardown
  repeat' (first
    | with_reducible assumption
    | with_reducible apply State.loomTest_kept
    | with_reducible apply State.loomWait_kept
    | with_reducible apply State.loomSync_kept
    | with_reducible apply State.updLoom_kept
    | with_reducible apply State.dropWaits_kept
    | with_reducible apply State.incDone_kept
    | with_reducible apply State.fl_kept
    | with_reducible apply State.wr_kept
    | with_reducible apply id_kept
    | with_reducible refine Kept.foldl ?_ (fun _ _ _ => ?_)
    | with_reducible refine Kept.of_eq1 ?_ (by assumption)
    | with_reducible refine Kept.foldl1 ?_ (fun _ _ _ _ => ?_)
    | with_reducible refine Kept.foldl2 ?_ (fun _ _ _ _ => ?_)
    | with_reducible refine Kept.of_eq2 ?_ (by assumption)
    | with_reducible rfl
    | with_reducible exact fun h => h
    | dsimp only
    | with_reducible apply Kept.ite
    | with_reducible apply Kept.ite1
    | with_reducible apply Kept.ite2
    | split
    | with_reducible refine Kept.upd0 ?_ ?_ ?_ ?_ ?_ ?_)

theorem State.loomFree_kept {s0 : State} (s : State) (c : Nat) (hk : Kept s0 s) : Kept s0 (State.loomFree s c) := by
  unfold State.loomFree
  repeat' (first
    | with_reducible assumption
    | with_reducible apply State.loomClear_kept
    | with_reducible apply State.loomSync_kept
    | with_reducible apply State.wrs_kept
    | with_reducible refine Kept.foldl ?_ (fun _ _ _ => ?_)
    | with_reducible refine Kept.foldl1 ?_ (fun _ _ _ _ => ?_)
    | with_reducible refine Kept.foldl2 ?_ (fun _ _ _ _ => ?_)
    | with_reducible refine Kept.of_eq1 ?_ (by assumption)
    | with_reducible refine Kept.of_eq2 ?_ (by assumption)
    | with_reducible rfl
    | with_reducible exact fun h => h
    | dsimp only
    | with_reducible apply Kept.ite
    | split)

theorem State.loomDbg_kept {s0 : State} (s : State) (n : Nat) (f : State → State) (h_f : ∀ a0, Kept s0 a0 → Kept s0 (f a0)) (hk : Kept s0 s) : Kept s0 (State.loomDbg s n f) := by
  unfold State.loomDbg
  repeat' (first
    | with_reducible assumption
    | with_reducible apply h_f
    | with_reducible apply State.count_kept
    | with_reducible rfl
    | with_reducible exact fun h => h
    | dsimp only
    | with_reducible apply Kept.ite
    | split
    | with_reducible refine Kept.upd0 ?_ ?_ ?_ ?_ ?_ ?_)

theorem State.loomHalt_kept {s0 : State} (s : State) (n : Nat) (hk : Kept s0 s) : Kept s0 (State.loomHalt s n) := by
  unfold State.loomHalt
  repeat' (first
    | with_reducible assumption
    | intro _
    | with_reducible apply State.loomDbg_kept
    | with_reducible apply State.loomSync_kept
    | with_reducible apply State.updLoom_kept
    | with_reducible apply State.raise_kept
    | with_reducible apply State.wr_kept
    | with_reducible rfl
    | with_reducible exact fun h => h
    | dsimp only
    | with_reducible apply Kept.ite
    | split
    | with_reducible refine Kept.upd0 ?_ ?_ ?_ ?_ ?_ ?_)

theorem execLoomHalt_kept {s0 : State} (n : Nat) (s : State) (hk : Kept s0 s) : KeptO s0 (execLoomHalt n s) := by
  unfold execLoomHalt
  repeat' (first
    | with_reducible assumption
    | with_reducible apply Kept.next
    | with_reducible refine State.hostDo_kept ?_ ?_
    | with_reducible apply State.loomHalt_kept
    | with_reducible rfl
    | with_reducible exact fun h => h
    | exact Memory.wf_filter _
    | exact Memory.wf_zero _ _
    | exact Memory.wf_writeMask _ _ _
    | exact Memory.wf_write _ _
    | dsimp only
    | split)

theorem State.loomResume_kept {s0 : State} (s : State) (n : Nat) (hk : Kept s0 s) : Kept s0 (State.loomResume s n) := by
  unfold State.loomResume
  repeat' (first
    | with_reducible assumption
    | with_reducible apply State.loomSync_kept
    | with_reducible apply State.updLoom_kept
    | with_reducible apply State.wr_kept
    | with_reducible rfl
    | with_reducible exact fun h => h
    | dsimp only
    | with_reducible apply Kept.ite
    | split
    | with_reducible refine Kept.upd0 ?_ ?_ ?_ ?_ ?_ ?_)

theorem execLoomResume_kept {s0 : State} (n : Nat) (s : State) (hk : Kept s0 s) : KeptO s0 (execLoomResume n s) := by
  unfold execLoomResume
  repeat' (first
    | with_reducible assumption
    | with_reducible apply Kept.next
    | with_reducible refine State.hostDo_kept ?_ ?_
    | with_reducible apply State.loomResume_kept
    | with_reducible rfl
    | with_reducible exact fun h => h
    | exact Memory.wf_filter _
    | exact Memory.wf_zero _ _
    | exact Memory.wf_writeMask _ _ _
    | exact Memory.wf_write _ _
    | dsimp only
    | split)

theorem State.loomStep_kept {s0 : State} (s : State) (n : Nat) (hk : Kept s0 s) : Kept s0 (State.loomStep s n) := by
  unfold State.loomStep
  repeat' (first
    | with_reducible assumption
    | with_reducible apply State.updLoom_kept
    | with_reducible apply State.count_kept
    | with_reducible apply State.wr_kept
    | with_reducible rfl
    | with_reducible exact fun h => h
    | dsimp only
    | with_reducible apply Kept.ite
    | split
    | with_reducible refine Kept.upd0 ?_ ?_ ?_ ?_ ?_ ?_)

theorem execLoomStep_kept {s0 : State} (n : Nat) (s : State) (hk : Kept s0 s) : KeptO s0 (execLoomStep n s) := by
  unfold execLoomStep
  repeat' (first
    | with_reducible assumption
    | with_reducible apply Kept.next
    | with_reducible refine State.hostDo_kept ?_ ?_
    | with_reducible apply State.loomStep_kept
    | with_reducible rfl
    | with_reducible exact fun h => h
    | exact Memory.wf_filter _
    | exact Memory.wf_zero _ _
    | exact Memory.wf_writeMask _ _ _
    | exact Memory.wf_write _ _
    | dsimp only
    | split)

end Sys2Proof.Machine
end

