-- ==== Sys2Proof/Laws/KeptMmuCmds.lean ====
section
/-! SUPPORT. Every operation of Machine/MmuCmds.lean keeps what no command may change. -/

namespace Sys2Proof.Machine

set_option linter.all false

theorem execPageWalk_kept {s0 : State} (c va acc eng : Nat) (s : State) (hk : Kept s0 s) : KeptO s0 (execPageWalk c va acc eng s) := by
  unfold execPageWalk
  repeat' (first
    | with_reducible assumption
    | with_reducible apply Kept.next
    | with_reducible apply State.translate_kept
    | with_reducible refine Kept.of_eq1 ?_ (by assumption)
    | with_reducible rfl
    | with_reducible exact fun h => h
    | dsimp only
    | with_reducible apply Kept.ite
    | with_reducible apply Kept.ite1
    | with_reducible apply Kept.ite2
    | with_reducible apply KeptO.ite
    | split)

theorem execPteWrGo_kept {s0 : State} (s : State) (hk : Kept s0 s) : KeptO s0 (execPteWrGo s) := by
  unfold execPteWrGo
  repeat' (first
    | with_reducible assumption
    | with_reducible apply Kept.next
    | with_reducible refine State.hostDo_kept ?_ ?_
    | with_reducible apply State.cfgErr_kept
    | with_reducible apply State.fl_kept
    | with_reducible rfl
    | with_reducible exact fun h => h
    | exact Memory.wf_filter _
    | exact Memory.wf_zero _ _
    | exact Memory.wf_writeMask _ _ _
    | exact Memory.wf_write _ _
    | dsimp only
    | with_reducible apply Kept.ite
    | with_reducible apply KeptO.ite
    | split
    | with_reducible refine Kept.upd0 ?_ ?_ ?_ ?_ ?_ ?_)

theorem execPteWrDone_kept {s0 : State} (s : State) (hk : Kept s0 s) : KeptO s0 (execPteWrDone s) := by
  unfold execPteWrDone
  repeat' (first
    | with_reducible assumption
    | with_reducible apply Kept.next
    | with_reducible apply State.physWrite_kept
    | with_reducible apply State.uncorrShared_kept
    | with_reducible apply State.fl_kept
    | with_reducible refine Kept.of_eq1 ?_ (by assumption)
    | with_reducible rfl
    | with_reducible exact fun h => h
    | dsimp only
    | with_reducible apply Kept.ite
    | with_reducible apply Kept.ite1
    | with_reducible apply Kept.ite2
    | with_reducible apply KeptO.ite
    | split
    | with_reducible refine Kept.upd0 ?_ ?_ ?_ ?_ ?_ ?_)

theorem execInvReqGo_kept {s0 : State} (s : State) (hk : Kept s0 s) : KeptO s0 (execInvReqGo s) := by
  unfold execInvReqGo
  repeat' (first
    | with_reducible assumption
    | with_reducible apply Kept.next
    | with_reducible refine State.hostDo_kept ?_ ?_
    | with_reducible apply State.invSync_kept
    | with_reducible apply State.cfgErr_kept
    | with_reducible apply State.wr_kept
    | with_reducible rfl
    | with_reducible exact fun h => h
    | exact Memory.wf_filter _
    | exact Memory.wf_zero _ _
    | exact Memory.wf_writeMask _ _ _
    | exact Memory.wf_write _ _
    | dsimp only
    | with_reducible apply Kept.ite
    | with_reducible apply KeptO.ite
    | split
    | with_reducible refine Kept.upd0 ?_ ?_ ?_ ?_ ?_ ?_)

theorem State.invDone_kept {s0 : State} (s : State) (hk : Kept s0 s) : Kept s0 (State.invDone s) := by
  unfold State.invDone
  repeat' (first
    | with_reducible assumption
    | with_reducible apply State.invSync_kept
    | with_reducible apply State.signal_kept
    | with_reducible apply State.wr_kept
    | with_reducible rfl
    | with_reducible exact fun h => h
    | dsimp only
    | with_reducible apply Kept.ite
    | split
    | with_reducible refine Kept.upd0 ?_ ?_ ?_ ?_ ?_ ?_)

theorem execInvStart_kept {s0 : State} (s : State) (hk : Kept s0 s) : KeptO s0 (execInvStart s) := by
  unfold execInvStart
  repeat' (first
    | with_reducible assumption
    | with_reducible apply Kept.next
    | with_reducible apply State.invDone_kept
    | with_reducible apply State.invSync_kept
    | with_reducible apply State.invDrop_kept
    | with_reducible apply State.wr_kept
    | with_reducible rfl
    | with_reducible exact fun h => h
    | dsimp only
    | split
    | with_reducible refine Kept.upd0 ?_ ?_ ?_ ?_ ?_ ?_)

theorem execInvAck_kept {s0 : State} (e : Nat) (s : State) (hk : Kept s0 s) : KeptO s0 (execInvAck e s) := by
  unfold execInvAck
  repeat' (first
    | with_reducible assumption
    | with_reducible apply Kept.next
    | with_reducible apply State.invDone_kept
    | with_reducible apply State.invDrop_kept
    | with_reducible apply State.wr_kept
    | with_reducible rfl
    | with_reducible exact fun h => h
    | dsimp only
    | with_reducible apply Kept.ite
    | with_reducible apply KeptO.ite
    | split
    | with_reducible refine Kept.upd0 ?_ ?_ ?_ ?_ ?_ ?_)

end Sys2Proof.Machine
end

