-- ==== Sys2Proof/Laws/KeptPatterns.lean ====
section
/-! SUPPORT. Every operation of Machine/Patterns.lean keeps what no command may change. -/

namespace Sys2Proof.Machine

set_option linter.all false

theorem State.patSync_kept {s0 : State} (s : State) (n : Nat) (hk : Kept s0 s) : Kept s0 (State.patSync s n) := by
  unfold State.patSync
  repeat' (first
    | with_reducible assumption
    | with_reducible apply State.wr_kept
    | with_reducible rfl
    | with_reducible exact fun h => h
    | dsimp only
    | split)

theorem State.patRetire_kept {s0 : State} (s : State) (n : Nat) (hk : Kept s0 s) : Kept s0 (State.patRetire s n) := by
  unfold State.patRetire
  repeat' (first
    | with_reducible assumption
    | with_reducible apply State.patSync_kept
    | with_reducible apply State.signal_kept
    | with_reducible refine Kept.foldl ?_ (fun _ _ _ => ?_)
    | with_reducible refine Kept.foldl1 ?_ (fun _ _ _ _ => ?_)
    | with_reducible refine Kept.foldl2 ?_ (fun _ _ _ _ => ?_)
    | with_reducible refine Kept.of_eq1 ?_ (by assumption)
    | with_reducible refine Kept.of_eq2 ?_ (by assumption)
    | with_reducible rfl
    | with_reducible exact fun h => h
    | dsimp only
    | with_reducible apply Kept.ite
    | split
    | with_reducible refine Kept.upd0 ?_ ?_ ?_ ?_ ?_ ?_)

theorem State.patStatus_kept {s0 : State} (s : State) (n c o v : Nat) (hk : Kept s0 s) : Kept s0 (State.patStatus s n c o v) := by
  unfold State.patStatus
  repeat' (first
    | with_reducible assumption
    | with_reducible apply State.vwrite_kept
    | with_reducible refine Kept.of_eq1 ?_ (by assumption)
    | with_reducible rfl
    | with_reducible exact fun h => h
    | dsimp only
    | split)

theorem State.patEnable_kept {s0 : State} (s : State) (n : Nat) (hk : Kept s0 s) : Kept s0 (State.patEnable s n) := by
  unfold State.patEnable
  repeat' (first
    | with_reducible assumption
    | with_reducible apply State.patStatus_kept
    | with_reducible apply State.patSync_kept
    | with_reducible apply State.wr_kept
    | with_reducible rfl
    | with_reducible exact fun h => h
    | dsimp only
    | with_reducible apply Kept.ite
    | split
    | with_reducible refine Kept.upd0 ?_ ?_ ?_ ?_ ?_ ?_)

theorem execPatEditGo_kept {s0 : State} (s : State) (hk : Kept s0 s) : KeptO s0 (execPatEditGo s) := by
  unfold execPatEditGo
  repeat' (first
    | with_reducible assumption
    | with_reducible apply Kept.next
    | with_reducible refine State.hostDo_kept ?_ ?_
    | with_reducible apply State.patStatus_kept
    | with_reducible apply State.patRetire_kept
    | with_reducible apply State.patSync_kept
    | with_reducible apply State.count_kept
    | with_reducible apply State.raise_kept
    | with_reducible apply State.wr_kept
    | with_reducible rfl
    | with_reducible exact fun h => h
    | exact Memory.wf_filter _
    | exact Memory.wf_zero _ _
    | exact Memory.wf_writeMask _ _ _
    | exact Memory.wf_write _ _
    | dsimp only
    | with_reducible apply Kept.ite
    | with_reducible apply KeptO.ite
    | split
    | with_reducible refine Kept.upd0 ?_ ?_ ?_ ?_ ?_ ?_)

theorem State.readNodes_kept {s0 : State} (c va params : Nat) (n : Nat) (i : Nat) (x2 : State) (hk : Kept s0 x2) : Kept s0 (State.readNodes c va params n i x2).1 := by
  induction n generalizing i x2 with
  | zero =>
    unfold State.readNodes
    repeat' (first
      | with_reducible assumption
      | with_reducible apply State.vread_kept
      | with_reducible refine Kept.of_eq1 ?_ (by assumption)
      | with_reducible rfl
      | with_reducible exact fun h => h
      | dsimp only
      | split
      | with_reducible refine Kept.upd0 ?_ ?_ ?_ ?_ ?_ ?_)
  | succ f ih =>
    unfold State.readNodes
    repeat' (first
      | with_reducible assumption
      | with_reducible apply ih
      | with_reducible apply State.vread_kept
      | with_reducible refine Kept.of_eq1 ?_ (by assumption)
      | with_reducible rfl
      | with_reducible exact fun h => h
      | dsimp only
      | split
      | with_reducible refine Kept.upd0 ?_ ?_ ?_ ?_ ?_ ?_)

theorem State.updLaunch_kept {s0 : State} (s : State) (l : Nat) (f : Launch → Launch) (hk : Kept s0 s) : Kept s0 (State.updLaunch s l f) := by
  unfold State.updLaunch
  repeat' (first
    | with_reducible assumption
    | with_reducible rfl
    | with_reducible exact fun h => h
    | dsimp only
    | split
    | with_reducible refine Kept.upd0 ?_ ?_ ?_ ?_ ?_ ?_)

theorem State.snapHere_kept {s0 : State} (s : State) (c va n : Nat) (hk : Kept s0 s) : Kept s0 (State.snapHere s c va n).1 := by
  unfold State.snapHere
  repeat' (first
    | with_reducible assumption
    | with_reducible apply State.translate_kept
    | with_reducible refine Kept.foldl ?_ (fun _ _ _ => ?_)
    | with_reducible refine Kept.foldl1 ?_ (fun _ _ _ _ => ?_)
    | with_reducible refine Kept.foldl2 ?_ (fun _ _ _ _ => ?_)
    | with_reducible refine Kept.of_eq1 ?_ (by assumption)
    | with_reducible refine Kept.of_eq2 ?_ (by assumption)
    | with_reducible rfl
    | with_reducible exact fun h => h
    | dsimp only
    | with_reducible apply Kept.ite
    | with_reducible apply Kept.ite1
    | with_reducible apply Kept.ite2
    | with_reducible apply KeptO.ite
    | split
    | with_reducible refine Kept.upd0 ?_ ?_ ?_ ?_ ?_ ?_
    | with_reducible refine Kept.upd1 ?_ ?_ ?_ ?_ ?_ ?_)

theorem execLaunchPattern_kept {s0 : State} (sid : Nat) (s : State) (hk : Kept s0 s) : KeptO s0 (execLaunchPattern sid s) := by
  unfold execLaunchPattern
  repeat' (first
    | with_reducible assumption
    | with_reducible apply State.snapHere_kept
    | with_reducible apply Kept.next
    | with_reducible apply State.readNodes_kept
    | with_reducible apply State.dispatch_kept
    | with_reducible apply State.vread_kept
    | with_reducible apply State.translate_kept
    | with_reducible apply State.pktFault_kept
    | with_reducible apply State.feSync_kept
    | with_reducible apply State.updStrm_kept
    | with_reducible apply State.count_kept
    | with_reducible apply id_kept
    | with_reducible refine Kept.of_eq1 ?_ (by assumption)
    | with_reducible rfl
    | with_reducible exact fun h => h
    | dsimp only
    | with_reducible apply Kept.ite
    | with_reducible apply Kept.ite1
    | with_reducible apply Kept.ite2
    | with_reducible apply KeptO.ite
    | split
    | with_reducible refine Kept.upd0 ?_ ?_ ?_ ?_ ?_ ?_)

theorem execSnapshotWritten_kept {s0 : State} (l : Nat) (s : State) (hk : Kept s0 s) : KeptO s0 (execSnapshotWritten l s) := by
  unfold execSnapshotWritten
  repeat' (first
    | with_reducible assumption
    | with_reducible apply Kept.next
    | with_reducible apply State.updLaunch_kept
    | with_reducible apply State.patStatus_kept
    | with_reducible apply State.vwrite_kept
    | with_reducible apply State.vread_kept
    | with_reducible refine Kept.foldl ?_ (fun _ _ _ => ?_)
    | with_reducible refine Kept.of_eq1 ?_ (by assumption)
    | with_reducible refine Kept.foldl1 ?_ (fun _ _ _ _ => ?_)
    | with_reducible refine Kept.foldl2 ?_ (fun _ _ _ _ => ?_)
    | with_reducible refine Kept.of_eq2 ?_ (by assumption)
    | with_reducible rfl
    | with_reducible exact fun h => h
    | dsimp only
    | with_reducible apply Kept.ite
    | with_reducible apply Kept.ite1
    | with_reducible apply Kept.ite2
    | with_reducible apply KeptO.ite
    | split
    | with_reducible refine Kept.upd0 ?_ ?_ ?_ ?_ ?_ ?_)

theorem execPatternNodeReady_kept {s0 : State} (l i : Nat) (s : State) (hk : Kept s0 s) : KeptO s0 (execPatternNodeReady l i s) := by
  unfold execPatternNodeReady
  repeat' (first
    | with_reducible assumption
    | with_reducible apply Kept.next
    | with_reducible apply State.updLaunch_kept
    | with_reducible apply State.addEntry_kept
    | with_reducible apply State.vread_kept
    | with_reducible apply State.feSync_kept
    | with_reducible refine Kept.foldl ?_ (fun _ _ _ => ?_)
    | with_reducible refine Kept.of_eq1 ?_ (by assumption)
    | with_reducible refine Kept.foldl1 ?_ (fun _ _ _ _ => ?_)
    | with_reducible refine Kept.foldl2 ?_ (fun _ _ _ _ => ?_)
    | with_reducible refine Kept.of_eq2 ?_ (by assumption)
    | with_reducible rfl
    | with_reducible exact fun h => h
    | dsimp only
    | with_reducible apply Kept.ite
    | with_reducible apply Kept.ite1
    | with_reducible apply Kept.ite2
    | with_reducible apply KeptO.ite
    | split
    | with_reducible refine Kept.upd0 ?_ ?_ ?_ ?_ ?_ ?_)

theorem State.dropNodes_kept {s0 : State} (s : State) (l : Nat) (hk : Kept s0 s) : Kept s0 (State.dropNodes s l) := by
  unfold State.dropNodes
  repeat' (first
    | with_reducible assumption
    | with_reducible rfl
    | with_reducible exact fun h => h
    | dsimp only
    | split
    | with_reducible refine Kept.upd0 ?_ ?_ ?_ ?_ ?_ ?_)

theorem State.snapFreed_kept {s0 : State} (s : State) (n r j : Nat) (hk : Kept s0 s) : Kept s0 (State.snapFreed s n r j) := by
  unfold State.snapFreed
  repeat' (first
    | with_reducible assumption
    | with_reducible apply State.updLaunch_kept
    | with_reducible apply State.feSync_kept
    | with_reducible apply State.updStrm_kept
    | with_reducible rfl
    | with_reducible exact fun h => h
    | dsimp only
    | split
    | with_reducible refine Kept.upd0 ?_ ?_ ?_ ?_ ?_ ?_)

theorem execPatternLaunchComplete_kept {s0 : State} (l : Nat) (s : State) (hk : Kept s0 s) : KeptO s0 (execPatternLaunchComplete l s) := by
  unfold execPatternLaunchComplete
  repeat' (first
    | with_reducible assumption
    | with_reducible apply Kept.next
    | with_reducible apply State.snapFreed_kept
    | with_reducible apply State.dropNodes_kept
    | with_reducible apply State.patStatus_kept
    | with_reducible apply State.patRetire_kept
    | with_reducible apply State.donePkt_kept
    | with_reducible apply State.feSync_kept
    | with_reducible apply State.updStrm_kept
    | with_reducible refine Kept.foldl ?_ (fun _ _ _ => ?_)
    | with_reducible refine Kept.foldl1 ?_ (fun _ _ _ _ => ?_)
    | with_reducible refine Kept.foldl2 ?_ (fun _ _ _ _ => ?_)
    | with_reducible refine Kept.of_eq1 ?_ (by assumption)
    | with_reducible refine Kept.of_eq2 ?_ (by assumption)
    | with_reducible rfl
    | with_reducible exact fun h => h
    | dsimp only
    | with_reducible apply Kept.ite
    | with_reducible apply KeptO.ite
    | split
    | with_reducible refine Kept.upd0 ?_ ?_ ?_ ?_ ?_ ?_)

theorem State.patTeardown_kept {s0 : State} (s : State) (c : Nat) (hk : Kept s0 s) : Kept s0 (State.patTeardown s c) := by
  unfold State.patTeardown
  repeat' (first
    | with_reducible assumption
    | with_reducible apply State.dropNodes_kept
    | with_reducible apply State.patRetire_kept
    | with_reducible refine Kept.foldl ?_ (fun _ _ _ => ?_)
    | with_reducible refine Kept.foldl1 ?_ (fun _ _ _ _ => ?_)
    | with_reducible refine Kept.foldl2 ?_ (fun _ _ _ _ => ?_)
    | with_reducible refine Kept.of_eq1 ?_ (by assumption)
    | with_reducible refine Kept.of_eq2 ?_ (by assumption)
    | with_reducible rfl
    | with_reducible exact fun h => h
    | dsimp only
    | split
    | with_reducible refine Kept.upd0 ?_ ?_ ?_ ?_ ?_ ?_)

end Sys2Proof.Machine
end

