-- ==== Sys2Proof/Laws/KeptTicks.lean ====
section
/-! SUPPORT. Every operation of Machine/Ticks.lean keeps what no command may change. -/

namespace Sys2Proof.Machine

set_option linter.all false

theorem State.rtRecompute_kept {s0 : State} (s : State) (hk : Kept s0 s) : Kept s0 (State.rtRecompute s) := by
  unfold State.rtRecompute
  repeat' (first
    | with_reducible assumption
    | with_reducible apply State.platSync_kept
    | with_reducible apply State.wr_kept
    | with_reducible refine Kept.foldl ?_ (fun _ _ _ => ?_)
    | with_reducible refine Kept.foldl1 ?_ (fun _ _ _ _ => ?_)
    | with_reducible refine Kept.foldl2 ?_ (fun _ _ _ _ => ?_)
    | with_reducible refine Kept.of_eq1 ?_ (by assumption)
    | with_reducible refine Kept.of_eq2 ?_ (by assumption)
    | with_reducible rfl
    | with_reducible exact fun h => h
    | dsimp only
    | with_reducible apply Kept.ite
    | split
    | with_reducible refine Kept.upd0 ?_ ?_ ?_ ?_ ?_ ?_)

theorem State.pmuSnap_kept {s0 : State} (s : State) (hk : Kept s0 s) : Kept s0 (State.pmuSnap s) := by
  unfold State.pmuSnap
  repeat' (first
    | with_reducible assumption
    | with_reducible apply State.count_kept
    | with_reducible apply State.wr_kept
    | with_reducible refine Kept.foldl ?_ (fun _ _ _ => ?_)
    | with_reducible refine Kept.foldl1 ?_ (fun _ _ _ _ => ?_)
    | with_reducible refine Kept.foldl2 ?_ (fun _ _ _ _ => ?_)
    | with_reducible refine Kept.of_eq1 ?_ (by assumption)
    | with_reducible refine Kept.of_eq2 ?_ (by assumption)
    | with_reducible rfl
    | with_reducible exact fun h => h
    | dsimp only
    | split)

theorem State.applyRel_kept {s0 : State} (s : State) (rel : RMap) (hk : Kept s0 s) : Kept s0 (State.applyRel s rel) := by
  unfold State.applyRel
  repeat' (first
    | with_reducible assumption
    | with_reducible apply State.wrSh_kept
    | with_reducible apply State.wr_kept
    | with_reducible refine Kept.foldl ?_ (fun _ _ _ => ?_)
    | with_reducible refine Kept.foldl1 ?_ (fun _ _ _ _ => ?_)
    | with_reducible refine Kept.foldl2 ?_ (fun _ _ _ _ => ?_)
    | with_reducible refine Kept.of_eq1 ?_ (by assumption)
    | with_reducible refine Kept.of_eq2 ?_ (by assumption)
    | with_reducible rfl
    | with_reducible exact fun h => h
    | dsimp only
    | split
    | with_reducible refine Kept.upd0 ?_ ?_ ?_ ?_ ?_ ?_)

theorem State.shRel_kept {s0 : State} (s : State) (rel : RMap) (hk : Kept s0 s) : Kept s0 (State.shRel s rel) := by
  unfold State.shRel
  repeat' (first
    | with_reducible assumption
    | with_reducible apply State.wrSh_kept
    | with_reducible refine Kept.foldl ?_ (fun _ _ _ => ?_)
    | with_reducible refine Kept.foldl1 ?_ (fun _ _ _ _ => ?_)
    | with_reducible refine Kept.foldl2 ?_ (fun _ _ _ _ => ?_)
    | with_reducible refine Kept.of_eq1 ?_ (by assumption)
    | with_reducible refine Kept.of_eq2 ?_ (by assumption)
    | with_reducible rfl
    | with_reducible exact fun h => h
    | dsimp only
    | split
    | with_reducible refine Kept.upd0 ?_ ?_ ?_ ?_ ?_ ?_)

theorem State.tickStart_kept {s0 : State} (s : State) (num : Option Nat) (self : Bool) (hk : Kept s0 s) : Kept s0 (State.tickStart s num self) := by
  unfold State.tickStart
  repeat' (first
    | with_reducible assumption
    | with_reducible apply State.applyRel_kept
    | with_reducible apply State.pmuSnap_kept
    | with_reducible apply State.rtNew_kept
    | with_reducible apply State.feSync_kept
    | with_reducible apply State.trace_kept
    | with_reducible apply State.emit_kept
    | with_reducible apply State.wrs_kept
    | with_reducible apply State.fl_kept
    | with_reducible apply State.wr_kept
    | with_reducible refine Kept.foldl ?_ (fun _ _ _ => ?_)
    | with_reducible refine Kept.foldl1 ?_ (fun _ _ _ _ => ?_)
    | with_reducible refine Kept.foldl2 ?_ (fun _ _ _ _ => ?_)
    | with_reducible refine Kept.of_eq1 ?_ (by assumption)
    | with_reducible refine Kept.of_eq2 ?_ (by assumption)
    | with_reducible rfl
    | with_reducible exact fun h => h
    | dsimp only
    | with_reducible apply Kept.ite
    | split
    | with_reducible refine Kept.upd0 ?_ ?_ ?_ ?_ ?_ ?_)

theorem State.freeRun_kept {s0 : State} (s : State) (n : Nat) (hk : Kept s0 s) : Kept s0 (State.freeRun s n) := by
  unfold State.freeRun
  repeat' (first
    | with_reducible assumption
    | with_reducible apply State.routeLevel_kept
    | with_reducible apply State.syncLevel_kept
    | with_reducible apply State.wr_kept
    | with_reducible rfl
    | with_reducible exact fun h => h
    | dsimp only
    | with_reducible apply Kept.ite
    | split)

theorem State.extTick_kept {s0 : State} (s : State) (src : Nat) (num : Option Nat) (hk : Kept s0 s) : Kept s0 (State.extTick s src num) := by
  unfold State.extTick
  repeat' (first
    | with_reducible assumption
    | with_reducible apply State.freeRun_kept
    | with_reducible apply State.tickStart_kept
    | with_reducible apply State.count_kept
    | with_reducible rfl
    | with_reducible exact fun h => h
    | dsimp only
    | with_reducible apply Kept.ite
    | split
    | with_reducible refine Kept.upd0 ?_ ?_ ?_ ?_ ?_ ?_)

theorem execTickStart_kept {s0 : State} (s : State) (hk : Kept s0 s) : KeptO s0 (execTickStart s) := by
  unfold execTickStart
  repeat' (first
    | with_reducible assumption
    | with_reducible apply Kept.next
    | with_reducible apply State.freeRun_kept
    | with_reducible apply State.tickStart_kept
    | with_reducible rfl
    | with_reducible exact fun h => h
    | dsimp only
    | with_reducible apply Kept.ite
    | with_reducible apply KeptO.ite
    | split)

theorem execSyncInEdge_kept {s0 : State} (s : State) (hk : Kept s0 s) : KeptO s0 (execSyncInEdge s) := by
  unfold execSyncInEdge
  repeat' (first
    | with_reducible assumption
    | with_reducible apply Kept.next
    | with_reducible apply State.extTick_kept
    | with_reducible rfl
    | with_reducible exact fun h => h
    | dsimp only
    | with_reducible apply Kept.ite
    | with_reducible apply KeptO.ite
    | split
    | with_reducible refine Kept.upd0 ?_ ?_ ?_ ?_ ?_ ?_)

theorem execTickSelfStart_kept {s0 : State} (s : State) (hk : Kept s0 s) : KeptO s0 (execTickSelfStart s) := by
  unfold execTickSelfStart
  repeat' (first
    | with_reducible assumption
    | with_reducible apply Kept.next
    | with_reducible apply State.freeRun_kept
    | with_reducible apply State.tickStart_kept
    | with_reducible apply State.count_kept
    | with_reducible apply State.raise_kept
    | with_reducible rfl
    | with_reducible exact fun h => h
    | dsimp only
    | with_reducible apply Kept.ite
    | with_reducible apply KeptO.ite
    | split)

theorem execSyncOutPulse_kept {s0 : State} (s : State) (hk : Kept s0 s) : KeptO s0 (execSyncOutPulse s) := by
  unfold execSyncOutPulse
  repeat' (first
    | with_reducible assumption
    | with_reducible apply Kept.next
    | with_reducible apply State.emit_kept
    | with_reducible rfl
    | with_reducible exact fun h => h
    | dsimp only
    | with_reducible apply Kept.ite
    | with_reducible apply KeptO.ite
    | split
    | with_reducible refine Kept.upd0 ?_ ?_ ?_ ?_ ?_ ?_)

theorem execBudgetExhausted_kept {s0 : State} (p k : Nat) (s : State) (hk : Kept s0 s) : KeptO s0 (execBudgetExhausted p k s) := by
  unfold execBudgetExhausted
  repeat' (first
    | with_reducible assumption
    | with_reducible apply Kept.next
    | with_reducible apply State.feSync_kept
    | with_reducible apply State.trace_kept
    | with_reducible apply State.count_kept
    | with_reducible apply State.raise_kept
    | with_reducible apply State.wr_kept
    | with_reducible refine Kept.foldl ?_ (fun _ _ _ => ?_)
    | with_reducible refine Kept.foldl1 ?_ (fun _ _ _ _ => ?_)
    | with_reducible refine Kept.foldl2 ?_ (fun _ _ _ _ => ?_)
    | with_reducible refine Kept.of_eq1 ?_ (by assumption)
    | with_reducible refine Kept.of_eq2 ?_ (by assumption)
    | with_reducible rfl
    | with_reducible exact fun h => h
    | dsimp only
    | with_reducible apply Kept.ite
    | with_reducible apply KeptO.ite
    | split)

theorem State.charge_kept {s0 : State} (s : State) (p k ns : Nat) (rt : Bool) (hk : Kept s0 s) : Kept s0 (State.charge s p k ns rt) := by
  unfold State.charge
  repeat' (first
    | with_reducible assumption
    | with_reducible apply State.countN_kept
    | with_reducible apply State.wr_kept
    | with_reducible rfl
    | with_reducible exact fun h => h
    | dsimp only
    | with_reducible apply Kept.ite
    | split)

theorem State.idleWork_kept {s0 : State} (s : State) (hk : Kept s0 s) : Kept s0 (State.idleWork s) := by
  unfold State.idleWork
  repeat' (first
    | with_reducible assumption
    | with_reducible apply State.charge_kept
    | with_reducible apply State.wr_kept
    | with_reducible refine Kept.foldl ?_ (fun _ _ _ => ?_)
    | with_reducible refine Kept.foldl1 ?_ (fun _ _ _ _ => ?_)
    | with_reducible refine Kept.foldl2 ?_ (fun _ _ _ _ => ?_)
    | with_reducible refine Kept.of_eq1 ?_ (by assumption)
    | with_reducible refine Kept.of_eq2 ?_ (by assumption)
    | with_reducible rfl
    | with_reducible exact fun h => h
    | dsimp only
    | with_reducible apply Kept.ite
    | split
    | with_reducible refine Kept.upd0 ?_ ?_ ?_ ?_ ?_ ?_)

theorem State.clocks_kept {s0 : State} (s : State) (F : Fld) (i ev u p : Nat) (hk : Kept s0 s) : Kept s0 (State.clocks s F i ev u p) := by
  unfold State.clocks
  repeat' (first
    | with_reducible assumption
    | with_reducible apply State.free_kept
    | with_reducible apply State.countN_kept
    | with_reducible apply State.pmu_kept
    | with_reducible refine Kept.foldl ?_ (fun _ _ _ => ?_)
    | with_reducible refine Kept.foldl1 ?_ (fun _ _ _ _ => ?_)
    | with_reducible refine Kept.foldl2 ?_ (fun _ _ _ _ => ?_)
    | with_reducible refine Kept.of_eq1 ?_ (by assumption)
    | with_reducible refine Kept.of_eq2 ?_ (by assumption)
    | with_reducible rfl
    | with_reducible exact fun h => h
    | dsimp only
    | with_reducible apply Kept.ite
    | with_reducible apply Kept.ite1
    | with_reducible apply Kept.ite2
    | with_reducible apply KeptO.ite
    | split
    | with_reducible refine Kept.upd0 ?_ ?_ ?_ ?_ ?_ ?_
    | with_reducible refine Kept.upd1 ?_ ?_ ?_ ?_ ?_ ?_)

theorem State.pmuClocks_kept {s0 : State} (s : State) (ev u p : Nat) (hk : Kept s0 s) : Kept s0 (State.pmuClocks s ev u p) := by
  unfold State.pmuClocks
  repeat' (first
    | with_reducible assumption
    | with_reducible apply State.free_kept
    | with_reducible apply State.pmu_kept
    | with_reducible refine Kept.foldl ?_ (fun _ _ _ => ?_)
    | with_reducible refine Kept.foldl1 ?_ (fun _ _ _ _ => ?_)
    | with_reducible refine Kept.foldl2 ?_ (fun _ _ _ _ => ?_)
    | with_reducible refine Kept.of_eq1 ?_ (by assumption)
    | with_reducible refine Kept.of_eq2 ?_ (by assumption)
    | with_reducible rfl
    | with_reducible exact fun h => h
    | dsimp only
    | with_reducible apply Kept.ite
    | with_reducible apply Kept.ite1
    | with_reducible apply Kept.ite2
    | with_reducible apply KeptO.ite
    | split
    | with_reducible refine Kept.upd0 ?_ ?_ ?_ ?_ ?_ ?_
    | with_reducible refine Kept.upd1 ?_ ?_ ?_ ?_ ?_ ?_)

theorem State.atomStall_kept {s0 : State} (s : State) (sl : Nat) (hk : Kept s0 s) : Kept s0 (State.atomStall s sl) := by
  unfold State.atomStall
  repeat' (first
    | with_reducible assumption
    | with_reducible apply State.free_kept
    | with_reducible apply State.countN_kept
    | with_reducible apply State.pmu_kept
    | with_reducible apply State.raise_kept
    | with_reducible refine Kept.foldl ?_ (fun _ _ _ => ?_)
    | with_reducible refine Kept.foldl1 ?_ (fun _ _ _ _ => ?_)
    | with_reducible refine Kept.foldl2 ?_ (fun _ _ _ _ => ?_)
    | with_reducible refine Kept.of_eq1 ?_ (by assumption)
    | with_reducible refine Kept.of_eq2 ?_ (by assumption)
    | with_reducible rfl
    | with_reducible exact fun h => h
    | dsimp only
    | with_reducible apply Kept.ite
    | with_reducible apply Kept.ite1
    | with_reducible apply Kept.ite2
    | with_reducible apply KeptO.ite
    | split
    | with_reducible refine Kept.upd0 ?_ ?_ ?_ ?_ ?_ ?_
    | with_reducible refine Kept.upd1 ?_ ?_ ?_ ?_ ?_ ?_)

theorem State.idleClocks_kept {s0 : State} (s : State) (hk : Kept s0 s) : Kept s0 (State.idleClocks s) := by
  unfold State.idleClocks
  repeat' (first
    | with_reducible assumption
    | with_reducible apply State.pmuClocks_kept
    | with_reducible apply State.clocks_kept
    | with_reducible apply State.atomStall_kept
    | with_reducible apply State.free_kept
    | with_reducible apply State.countN_kept
    | with_reducible refine Kept.foldl ?_ (fun _ _ _ => ?_)
    | with_reducible refine Kept.foldl1 ?_ (fun _ _ _ _ => ?_)
    | with_reducible refine Kept.foldl2 ?_ (fun _ _ _ _ => ?_)
    | with_reducible refine Kept.of_eq1 ?_ (by assumption)
    | with_reducible refine Kept.of_eq2 ?_ (by assumption)
    | with_reducible rfl
    | with_reducible exact fun h => h
    | dsimp only
    | with_reducible apply Kept.ite
    | with_reducible apply Kept.ite1
    | with_reducible apply Kept.ite2
    | with_reducible apply KeptO.ite
    | split
    | with_reducible refine Kept.upd0 ?_ ?_ ?_ ?_ ?_ ?_
    | with_reducible refine Kept.upd1 ?_ ?_ ?_ ?_ ?_ ?_)

/-- Time advances on an empty queue, by 10 ns; the rest is kept as by a command. -/
theorem State.idleTime_kept (s : State) : Kept { s with now := s.now + 10 } s.idleTime :=
  State.gfxStopped_kept _ <| State.binResume_kept _ (State.idleClocks_kept _ (State.idleWork_kept _ (Kept.refl _)))

theorem execStartBy_kept {s0 : State} (q : Nat) (s : State) (hk : Kept s0 s) : KeptO s0 (execStartBy q s) := by
  unfold execStartBy
  repeat' (first
    | with_reducible assumption
    | with_reducible apply Kept.next
    | with_reducible apply State.rtOpen_kept
    | with_reducible apply State.trace_kept
    | with_reducible rfl
    | with_reducible exact fun h => h
    | dsimp only
    | with_reducible apply Kept.ite
    | with_reducible apply KeptO.ite
    | split
    | with_reducible refine Kept.upd0 ?_ ?_ ?_ ?_ ?_ ?_)

theorem State.rtMiss_kept {s0 : State} (s : State) (q deadline : Nat) (hk : Kept s0 s) : Kept s0 (State.rtMiss s q deadline) := by
  unfold State.rtMiss
  repeat' (first
    | with_reducible assumption
    | with_reducible apply State.trace_kept
    | with_reducible apply State.emcy_kept
    | with_reducible apply State.count_kept
    | with_reducible apply State.raise_kept
    | with_reducible rfl
    | with_reducible exact fun h => h
    | dsimp only
    | with_reducible apply Kept.ite
    | split
    | with_reducible refine Kept.upd0 ?_ ?_ ?_ ?_ ?_ ?_)

theorem execRtDeadline_kept {s0 : State} (q : Nat) (s : State) (hk : Kept s0 s) : KeptO s0 (execRtDeadline q s) := by
  unfold execRtDeadline
  repeat' (first
    | with_reducible assumption
    | with_reducible apply Kept.next
    | with_reducible apply State.rtMiss_kept
    | with_reducible apply State.trace_kept
    | with_reducible apply State.wr_kept
    | with_reducible rfl
    | with_reducible exact fun h => h
    | dsimp only
    | with_reducible apply Kept.ite
    | with_reducible apply KeptO.ite
    | split
    | with_reducible refine Kept.upd0 ?_ ?_ ?_ ?_ ?_ ?_)

theorem execRtJobComplete_kept {s0 : State} (q : Nat) (s : State) (hk : Kept s0 s) : KeptO s0 (execRtJobComplete q s) := by
  unfold execRtJobComplete
  repeat' (first
    | with_reducible assumption
    | with_reducible apply Kept.next
    | with_reducible apply State.trace_kept
    | with_reducible apply State.wr_kept
    | with_reducible rfl
    | with_reducible exact fun h => h
    | dsimp only
    | with_reducible apply Kept.ite
    | with_reducible apply KeptO.ite
    | split
    | with_reducible refine Kept.upd0 ?_ ?_ ?_ ?_ ?_ ?_)

end Sys2Proof.Machine
end

