-- ==== Sys2Proof/Laws/KeptDisplay.lean ====
section
/-! SUPPORT. Every operation of Machine/Display.lean keeps what no command may change. -/

namespace Sys2Proof.Machine

set_option linter.all false

theorem State.updPipe_kept {s0 : State} (s : State) (p : Nat) (f : GPipe → GPipe) (hk : Kept s0 s) : Kept s0 (State.updPipe s p f) := by
  unfold State.updPipe
  repeat' (first
    | with_reducible assumption
    | with_reducible rfl
    | with_reducible exact fun h => h
    | dsimp only
    | split
    | with_reducible refine Kept.upd0 ?_ ?_ ?_ ?_ ?_ ?_)

theorem State.glzRelease_kept {s0 : State} (s : State) (c : GSet) (hk : Kept s0 s) : Kept s0 (State.glzRelease s c) := by
  unfold State.glzRelease
  repeat' (first
    | with_reducible assumption
    | with_reducible apply State.signal_kept
    | with_reducible rfl
    | with_reducible exact fun h => h
    | dsimp only
    | with_reducible apply Kept.ite
    | split)

theorem State.dropPend_kept {s0 : State} (s : State) (p : Nat) (hk : Kept s0 s) : Kept s0 (State.dropPend s p) := by
  unfold State.dropPend
  repeat' (first
    | with_reducible assumption
    | with_reducible apply State.updPipe_kept
    | with_reducible apply State.dropWaits_kept
    | with_reducible apply State.fl_kept
    | with_reducible rfl
    | with_reducible exact fun h => h
    | dsimp only
    | split
    | with_reducible refine Kept.upd0 ?_ ?_ ?_ ?_ ?_ ?_)

theorem execDisplayCommit_kept {s0 : State} (sid : Nat) (s : State) (hk : Kept s0 s) : KeptO s0 (execDisplayCommit sid s) := by
  unfold execDisplayCommit
  repeat' (first
    | with_reducible assumption
    | with_reducible apply State.pend_kept
    | intro _
    | with_reducible apply Kept.next
    | with_reducible apply State.dropPend_kept
    | with_reducible apply State.glzRelease_kept
    | with_reducible apply State.updPipe_kept
    | with_reducible apply State.dispatch_kept
    | with_reducible apply State.onRead_kept
    | with_reducible apply State.vread_kept
    | with_reducible apply State.addWait_kept
    | with_reducible apply State.ctxFault_kept
    | with_reducible apply State.donePkt_kept
    | with_reducible apply State.count_kept
    | with_reducible apply State.fl_kept
    | with_reducible refine Kept.of_eq1 ?_ (by assumption)
    | with_reducible rfl
    | with_reducible exact fun h => h
    | dsimp only
    | with_reducible apply Kept.ite
    | with_reducible apply Kept.ite1
    | with_reducible apply Kept.ite2
    | with_reducible apply KeptO.ite
    | split
    | with_reducible refine Kept.upd0 ?_ ?_ ?_ ?_ ?_ ?_)

theorem State.wrLut_kept {s0 : State} (s : State) (k v : Nat) (hk : Kept s0 s) : Kept s0 (State.wrLut s k v) := by
  unfold State.wrLut
  repeat' (first
    | with_reducible assumption
    | with_reducible rfl
    | with_reducible exact fun h => h
    | dsimp only
    | with_reducible apply Kept.ite
    | split
    | with_reducible refine Kept.upd0 ?_ ?_ ?_ ?_ ?_ ?_)

theorem State.wrLutShadow_kept {s0 : State} (s : State) (k v : Nat) (hk : Kept s0 s) : Kept s0 (State.wrLutShadow s k v) := by
  unfold State.wrLutShadow
  repeat' (first
    | with_reducible assumption
    | with_reducible rfl
    | with_reducible exact fun h => h
    | dsimp only
    | with_reducible apply Kept.ite
    | split
    | with_reducible refine Kept.upd0 ?_ ?_ ?_ ?_ ?_ ?_)

theorem State.pipeApply_kept {s0 : State} (s : State) (p : Nat) (hk : Kept s0 s) : Kept s0 (State.pipeApply s p) := by
  unfold State.pipeApply
  repeat' (first
    | with_reducible assumption
    | with_reducible apply State.wrLut_kept
    | with_reducible apply State.updPipe_kept
    | with_reducible apply State.applyRel_kept
    | with_reducible refine Kept.foldl ?_ (fun _ _ _ => ?_)
    | with_reducible refine Kept.foldl1 ?_ (fun _ _ _ _ => ?_)
    | with_reducible refine Kept.foldl2 ?_ (fun _ _ _ _ => ?_)
    | with_reducible refine Kept.of_eq1 ?_ (by assumption)
    | with_reducible refine Kept.of_eq2 ?_ (by assumption)
    | with_reducible rfl
    | with_reducible exact fun h => h
    | dsimp only
    | split
    | with_reducible refine Kept.upd0 ?_ ?_ ?_ ?_ ?_ ?_)

theorem execPipeCommit_kept {s0 : State} (p : Nat) (s : State) (hk : Kept s0 s) : KeptO s0 (execPipeCommit p s) := by
  unfold execPipeCommit
  repeat' (first
    | with_reducible assumption
    | with_reducible apply Kept.next
    | with_reducible refine State.hostDo_kept ?_ ?_
    | with_reducible apply State.pipeApply_kept
    | with_reducible apply State.updPipe_kept
    | with_reducible apply State.cfgErr_kept
    | with_reducible apply State.fl_kept
    | with_reducible refine Kept.foldl ?_ (fun _ _ _ => ?_)
    | with_reducible refine Kept.foldl1 ?_ (fun _ _ _ _ => ?_)
    | with_reducible refine Kept.foldl2 ?_ (fun _ _ _ _ => ?_)
    | with_reducible refine Kept.of_eq1 ?_ (by assumption)
    | with_reducible refine Kept.of_eq2 ?_ (by assumption)
    | with_reducible rfl
    | with_reducible exact fun h => h
    | exact Memory.wf_filter _
    | exact Memory.wf_zero _ _
    | exact Memory.wf_writeMask _ _ _
    | exact Memory.wf_write _ _
    | dsimp only
    | with_reducible apply Kept.ite
    | with_reducible apply KeptO.ite
    | split
    | with_reducible refine Kept.upd0 ?_ ?_ ?_ ?_ ?_ ?_)

theorem execPipeDiscard_kept {s0 : State} (p : Nat) (s : State) (hk : Kept s0 s) : KeptO s0 (execPipeDiscard p s) := by
  unfold execPipeDiscard
  repeat' (first
    | with_reducible assumption
    | with_reducible apply Kept.next
    | with_reducible refine State.hostDo_kept ?_ ?_
    | with_reducible apply State.wrLutShadow_kept
    | with_reducible apply State.shRel_kept
    | with_reducible refine Kept.foldl ?_ (fun _ _ _ => ?_)
    | with_reducible refine Kept.foldl1 ?_ (fun _ _ _ _ => ?_)
    | with_reducible refine Kept.foldl2 ?_ (fun _ _ _ _ => ?_)
    | with_reducible refine Kept.of_eq1 ?_ (by assumption)
    | with_reducible refine Kept.of_eq2 ?_ (by assumption)
    | with_reducible rfl
    | with_reducible exact fun h => h
    | exact Memory.wf_filter _
    | exact Memory.wf_zero _ _
    | exact Memory.wf_writeMask _ _ _
    | exact Memory.wf_write _ _
    | dsimp only
    | split
    | with_reducible refine Kept.upd0 ?_ ?_ ?_ ?_ ?_ ?_)

theorem execPipeEnable_kept {s0 : State} (p : Nat) (en : Bool) (s : State) (hk : Kept s0 s) : KeptO s0 (execPipeEnable p en s) := by
  unfold execPipeEnable
  repeat' (first
    | with_reducible assumption
    | with_reducible apply Kept.next
    | with_reducible refine State.hostDo_kept ?_ ?_
    | with_reducible apply State.fl_kept
    | with_reducible apply State.wr_kept
    | with_reducible rfl
    | with_reducible exact fun h => h
    | exact Memory.wf_filter _
    | exact Memory.wf_zero _ _
    | exact Memory.wf_writeMask _ _ _
    | exact Memory.wf_write _ _
    | dsimp only
    | with_reducible apply Kept.ite
    | with_reducible apply KeptO.ite
    | split)

theorem State.layerRow_kept {s0 : State} (s : State) (c : Nat) (l : GLayer) (y : Nat) (hk : Kept s0 s) : Kept s0 (State.layerRow s c l y).1 := by
  unfold State.layerRow
  repeat' (first
    | with_reducible assumption
    | with_reducible apply State.vread_kept
    | with_reducible refine Kept.of_eq1 ?_ (by assumption)
    | with_reducible rfl
    | with_reducible exact fun h => h
    | dsimp only
    | with_reducible apply Kept.ite
    | with_reducible apply Kept.ite1
    | with_reducible apply Kept.ite2
    | split
    | with_reducible refine Kept.upd0 ?_ ?_ ?_ ?_ ?_ ?_)

theorem State.overLayer_kept {s0 : State} (s : State) (p c : Nat) (l : GLayer) (img : List (List Px)) (hk : Kept s0 s) : Kept s0 (State.overLayer s p c l img).1 := by
  unfold State.overLayer
  repeat' (first
    | with_reducible assumption
    | with_reducible apply State.layerRow_kept
    | with_reducible refine Kept.foldl ?_ (fun _ _ _ => ?_)
    | with_reducible refine Kept.of_eq1 ?_ (by assumption)
    | with_reducible refine Kept.foldl1 ?_ (fun _ _ _ _ => ?_)
    | with_reducible refine Kept.foldl2 ?_ (fun _ _ _ _ => ?_)
    | with_reducible refine Kept.of_eq2 ?_ (by assumption)
    | with_reducible rfl
    | with_reducible exact fun h => h
    | dsimp only
    | with_reducible apply Kept.ite
    | with_reducible apply Kept.ite1
    | with_reducible apply Kept.ite2
    | split
    | with_reducible refine Kept.upd0 ?_ ?_ ?_ ?_ ?_ ?_)

theorem State.overLayers_kept {s0 : State} (s : State) (p c : Nat) (ls : List GLayer) (img : List (List Px)) (hk : Kept s0 s) : Kept s0 (State.overLayers s p c ls img).1 := by
  unfold State.overLayers
  repeat' (first
    | with_reducible assumption
    | with_reducible apply State.overLayer_kept
    | with_reducible refine Kept.foldl ?_ (fun _ _ _ => ?_)
    | with_reducible refine Kept.of_eq1 ?_ (by assumption)
    | with_reducible refine Kept.foldl1 ?_ (fun _ _ _ _ => ?_)
    | with_reducible refine Kept.foldl2 ?_ (fun _ _ _ _ => ?_)
    | with_reducible refine Kept.of_eq2 ?_ (by assumption)
    | with_reducible rfl
    | with_reducible exact fun h => h
    | dsimp only
    | split)

theorem State.flatRead_kept {s0 : State} (s : State) (p w h : Nat) (bg : Px) (hk : Kept s0 s) : Kept s0 (State.flatRead s p w h bg).1 := by
  unfold State.flatRead
  repeat' (first
    | with_reducible assumption
    | with_reducible apply State.physRead_kept
    | with_reducible apply State.uncorrShared_kept
    | with_reducible refine Kept.of_eq1 ?_ (by assumption)
    | with_reducible rfl
    | with_reducible exact fun h => h
    | dsimp only
    | with_reducible apply Kept.ite
    | with_reducible apply Kept.ite1
    | with_reducible apply Kept.ite2
    | split
    | with_reducible refine Kept.upd0 ?_ ?_ ?_ ?_ ?_ ?_)

theorem State.compose_kept {s0 : State} (s : State) (p : Nat) (fresh : Bool) (hk : Kept s0 s) : Kept s0 (State.compose s p fresh).1 := by
  unfold State.compose
  repeat' (first
    | with_reducible assumption
    | with_reducible apply State.flatRead_kept
    | with_reducible apply State.overLayers_kept
    | with_reducible apply State.updPipe_kept
    | with_reducible apply State.physWrite_kept
    | with_reducible apply State.count_kept
    | with_reducible refine Kept.of_eq1 ?_ (by assumption)
    | with_reducible rfl
    | with_reducible exact fun h => h
    | dsimp only
    | with_reducible apply Kept.ite
    | with_reducible apply Kept.ite1
    | with_reducible apply Kept.ite2
    | split
    | with_reducible refine Kept.upd0 ?_ ?_ ?_ ?_ ?_ ?_)

theorem State.wbRows_kept {s0 : State} (s : State) (c va pitch : Nat) (rows : List (List Byte)) (hk : Kept s0 s) : Kept s0 (State.wbRows s c va pitch rows).1 := by
  unfold State.wbRows
  repeat' (first
    | with_reducible assumption
    | with_reducible apply State.vwrite_kept
    | with_reducible refine Kept.foldl ?_ (fun _ _ _ => ?_)
    | with_reducible refine Kept.of_eq1 ?_ (by assumption)
    | with_reducible refine Kept.foldl1 ?_ (fun _ _ _ _ => ?_)
    | with_reducible refine Kept.foldl2 ?_ (fun _ _ _ _ => ?_)
    | with_reducible refine Kept.of_eq2 ?_ (by assumption)
    | with_reducible rfl
    | with_reducible exact fun h => h
    | dsimp only
    | with_reducible apply Kept.ite
    | with_reducible apply Kept.ite1
    | with_reducible apply Kept.ite2
    | split)

theorem State.writeback_kept {s0 : State} (s : State) (p : Nat) (img : List (List Px)) (hk : Kept s0 s) : Kept s0 (State.writeback s p img) := by
  unfold State.writeback
  repeat' (first
    | with_reducible assumption
    | with_reducible apply State.wbRows_kept
    | with_reducible apply State.updPipe_kept
    | with_reducible refine Kept.of_eq1 ?_ (by assumption)
    | with_reducible rfl
    | with_reducible exact fun h => h
    | dsimp only
    | with_reducible apply Kept.ite
    | with_reducible apply Kept.ite1
    | with_reducible apply Kept.ite2
    | split
    | with_reducible refine Kept.upd0 ?_ ?_ ?_ ?_ ?_ ?_)

theorem execWritebackDone_kept {s0 : State} (p : Nat) (s : State) (hk : Kept s0 s) : KeptO s0 (execWritebackDone p s) := by
  unfold execWritebackDone
  repeat' (first
    | with_reducible assumption
    | with_reducible apply Kept.next
    | with_reducible apply State.updPipe_kept
    | with_reducible apply State.signal_kept
    | with_reducible rfl
    | with_reducible exact fun h => h
    | dsimp only
    | split
    | with_reducible refine Kept.upd0 ?_ ?_ ?_ ?_ ?_ ?_)

theorem State.staleSync_kept {s0 : State} (s : State) (p : Nat) (hk : Kept s0 s) : Kept s0 (State.staleSync s p) := by
  unfold State.staleSync
  repeat' (first
    | with_reducible assumption
    | with_reducible apply State.routeLevel_kept
    | with_reducible apply State.syncLevel_kept
    | with_reducible rfl
    | with_reducible exact fun h => h
    | dsimp only
    | with_reducible apply Kept.ite
    | split)

theorem State.sendFrame_kept {s0 : State} (s : State) (p : Nat) (hk : Kept s0 s) : Kept s0 (State.sendFrame s p) := by
  unfold State.sendFrame
  repeat' (first
    | with_reducible assumption
    | with_reducible apply State.emit_kept
    | with_reducible rfl
    | with_reducible exact fun h => h
    | dsimp only
    | with_reducible apply Kept.ite
    | split)

theorem State.dsiSend_kept {s0 : State} (s : State) (p : Nat) (hk : Kept s0 s) : Kept s0 (State.dsiSend s p) := by
  unfold State.dsiSend
  repeat' (first
    | with_reducible assumption
    | with_reducible apply State.emit_kept
    | with_reducible apply State.wr_kept
    | with_reducible refine Kept.foldl ?_ (fun _ _ _ => ?_)
    | with_reducible refine Kept.foldl1 ?_ (fun _ _ _ _ => ?_)
    | with_reducible refine Kept.foldl2 ?_ (fun _ _ _ _ => ?_)
    | with_reducible refine Kept.of_eq1 ?_ (by assumption)
    | with_reducible refine Kept.of_eq2 ?_ (by assumption)
    | with_reducible rfl
    | with_reducible exact fun h => h
    | dsimp only
    | with_reducible apply Kept.ite
    | split
    | with_reducible refine Kept.upd0 ?_ ?_ ?_ ?_ ?_ ?_)

theorem State.pipeStop_kept {s0 : State} (s : State) (p : Nat) (hk : Kept s0 s) : Kept s0 (State.pipeStop s p) := by
  unfold State.pipeStop
  repeat' (first
    | with_reducible assumption
    | with_reducible apply State.sendFrame_kept
    | with_reducible apply State.staleSync_kept
    | with_reducible apply State.pipeApply_kept
    | with_reducible apply State.dropPend_kept
    | with_reducible apply State.glzRelease_kept
    | with_reducible apply State.updPipe_kept
    | with_reducible apply State.wrs_kept
    | with_reducible rfl
    | with_reducible exact fun h => h
    | dsimp only
    | split
    | with_reducible refine Kept.upd0 ?_ ?_ ?_ ?_ ?_ ?_)

theorem State.pipesOff_kept {s0 : State} (s : State) (hk : Kept s0 s) : Kept s0 (State.pipesOff s) := by
  unfold State.pipesOff
  repeat' (first
    | with_reducible assumption
    | with_reducible apply State.pipeStop_kept
    | with_reducible apply State.wr_kept
    | with_reducible refine Kept.foldl ?_ (fun _ _ _ => ?_)
    | with_reducible refine Kept.foldl1 ?_ (fun _ _ _ _ => ?_)
    | with_reducible refine Kept.foldl2 ?_ (fun _ _ _ _ => ?_)
    | with_reducible refine Kept.of_eq1 ?_ (by assumption)
    | with_reducible refine Kept.of_eq2 ?_ (by assumption)
    | with_reducible rfl
    | with_reducible exact fun h => h
    | dsimp only
    | split)

theorem State.frameCase_kept {s0 : State} (s : State) (p : Nat) (hk : Kept s0 s) : Kept s0 (State.frameCase s p).1 := by
  unfold State.frameCase
  repeat' (first
    | with_reducible assumption
    | with_reducible apply State.dropPend_kept
    | with_reducible apply State.glzRelease_kept
    | with_reducible apply State.updPipe_kept
    | with_reducible apply State.fl_kept
    | with_reducible apply State.wr_kept
    | with_reducible refine Kept.of_eq1 ?_ (by assumption)
    | with_reducible rfl
    | with_reducible exact fun h => h
    | dsimp only
    | with_reducible apply Kept.ite
    | with_reducible apply Kept.ite1
    | with_reducible apply Kept.ite2
    | split
    | with_reducible refine Kept.upd0 ?_ ?_ ?_ ?_ ?_ ?_)

theorem execFrameStart_kept {s0 : State} (p : Nat) (s : State) (hk : Kept s0 s) : KeptO s0 (execFrameStart p s) := by
  unfold execFrameStart
  repeat' (first
    | with_reducible assumption
    | with_reducible apply Kept.next
    | with_reducible apply State.frameCase_kept
    | with_reducible apply State.pipeStop_kept
    | with_reducible apply State.dsiSend_kept
    | with_reducible apply State.sendFrame_kept
    | with_reducible apply State.staleSync_kept
    | with_reducible apply State.writeback_kept
    | with_reducible apply State.compose_kept
    | with_reducible apply State.pipeApply_kept
    | with_reducible apply State.updPipe_kept
    | with_reducible apply State.extTick_kept
    | with_reducible apply State.count_kept
    | with_reducible apply State.raise_kept
    | with_reducible apply State.fl_kept
    | with_reducible apply State.wr_kept
    | with_reducible refine Kept.of_eq1 ?_ (by assumption)
    | with_reducible rfl
    | with_reducible exact fun h => h
    | dsimp only
    | with_reducible apply Kept.ite
    | with_reducible apply Kept.ite1
    | with_reducible apply Kept.ite2
    | with_reducible apply KeptO.ite
    | split
    | with_reducible refine Kept.upd0 ?_ ?_ ?_ ?_ ?_ ?_)

theorem execLayerUnderrun_kept {s0 : State} (p x y n : Nat) (s : State) (hk : Kept s0 s) : KeptO s0 (execLayerUnderrun p x y n s) := by
  unfold execLayerUnderrun
  repeat' (first
    | with_reducible assumption
    | with_reducible apply Kept.next
    | with_reducible apply State.updPipe_kept
    | with_reducible apply State.count_kept
    | with_reducible apply State.raise_kept
    | with_reducible apply State.fl_kept
    | with_reducible rfl
    | with_reducible exact fun h => h
    | dsimp only
    | with_reducible apply Kept.ite
    | with_reducible apply KeptO.ite
    | split
    | with_reducible refine Kept.upd0 ?_ ?_ ?_ ?_ ?_ ?_)

theorem execCrcRegionDone_kept {s0 : State} (p r : Nat) (s : State) (hk : Kept s0 s) : KeptO s0 (execCrcRegionDone p r s) := by
  unfold execCrcRegionDone
  repeat' (first
    | with_reducible assumption
    | with_reducible apply Kept.next
    | with_reducible apply State.updPipe_kept
    | with_reducible apply State.routeHit_kept
    | with_reducible apply State.count_kept
    | with_reducible apply State.raise_kept
    | with_reducible apply State.wr_kept
    | with_reducible rfl
    | with_reducible exact fun h => h
    | dsimp only
    | with_reducible apply Kept.ite
    | with_reducible apply KeptO.ite
    | split
    | with_reducible refine Kept.upd0 ?_ ?_ ?_ ?_ ?_ ?_)

theorem State.glzTeardown_kept {s0 : State} (s : State) (c : Nat) (hk : Kept s0 s) : Kept s0 (State.glzTeardown s c).1 := by
  unfold State.glzTeardown
  repeat' (first
    | with_reducible assumption
    | with_reducible apply State.dropPend_kept
    | with_reducible apply State.updPipe_kept
    | with_reducible apply State.free_kept
    | with_reducible apply State.fl_kept
    | with_reducible apply State.wr_kept
    | with_reducible refine Kept.foldl ?_ (fun _ _ _ => ?_)
    | with_reducible refine Kept.of_eq1 ?_ (by assumption)
    | with_reducible refine Kept.of_eq2 ?_ (by assumption)
    | with_reducible refine Kept.foldl1 ?_ (fun _ _ _ _ => ?_)
    | with_reducible refine Kept.foldl2 ?_ (fun _ _ _ _ => ?_)
    | with_reducible rfl
    | with_reducible exact fun h => h
    | dsimp only
    | with_reducible apply Kept.ite
    | with_reducible apply Kept.ite1
    | with_reducible apply Kept.ite2
    | split
    | with_reducible refine Kept.upd0 ?_ ?_ ?_ ?_ ?_ ?_)

theorem execDpTrainGo_kept {s0 : State} (o : Nat) (s : State) (hk : Kept s0 s) : KeptO s0 (execDpTrainGo o s) := by
  unfold execDpTrainGo
  repeat' (first
    | with_reducible assumption
    | with_reducible apply Kept.next
    | with_reducible refine State.hostDo_kept ?_ ?_
    | with_reducible apply State.wr_kept
    | with_reducible rfl
    | with_reducible exact fun h => h
    | exact Memory.wf_filter _
    | exact Memory.wf_zero _ _
    | exact Memory.wf_writeMask _ _ _
    | exact Memory.wf_write _ _
    | dsimp only
    | with_reducible apply Kept.ite
    | with_reducible apply KeptO.ite
    | split
    | with_reducible refine Kept.upd0 ?_ ?_ ?_ ?_ ?_ ?_)

theorem execDpTrainDone_kept {s0 : State} (o : Nat) (ok : Bool) (rate lanes : Nat) (s : State) (hk : Kept s0 s) : KeptO s0 (execDpTrainDone o ok rate lanes s) := by
  unfold execDpTrainDone
  repeat' (first
    | with_reducible assumption
    | with_reducible apply Kept.next
    | with_reducible apply State.linkRec_kept
    | with_reducible apply State.wrs_kept
    | with_reducible apply State.wr_kept
    | with_reducible rfl
    | with_reducible exact fun h => h
    | dsimp only
    | with_reducible apply Kept.ite
    | with_reducible apply KeptO.ite
    | split
    | with_reducible refine Kept.upd0 ?_ ?_ ?_ ?_ ?_ ?_)

theorem State.dpLost_kept {s0 : State} (s : State) (o : Nat) (hk : Kept s0 s) : Kept s0 (State.dpLost s o) := by
  unfold State.dpLost
  repeat' (first
    | with_reducible assumption
    | with_reducible apply State.linkRec_kept
    | with_reducible apply State.count_kept
    | with_reducible apply State.raise_kept
    | with_reducible apply State.wr_kept
    | with_reducible rfl
    | with_reducible exact fun h => h
    | dsimp only
    | with_reducible apply Kept.ite
    | split
    | with_reducible refine Kept.upd0 ?_ ?_ ?_ ?_ ?_ ?_)

theorem execHpdChange_kept {s0 : State} (o : Nat) (level : Bool) (s : State) (hk : Kept s0 s) : KeptO s0 (execHpdChange o level s) := by
  unfold execHpdChange
  repeat' (first
    | with_reducible assumption
    | with_reducible apply Kept.next
    | with_reducible apply State.dpLost_kept
    | with_reducible apply State.raise_kept
    | with_reducible apply State.fl_kept
    | with_reducible rfl
    | with_reducible exact fun h => h
    | dsimp only
    | with_reducible apply Kept.ite
    | with_reducible apply KeptO.ite
    | split)

theorem execDpLinkLost_kept {s0 : State} (o : Nat) (s : State) (hk : Kept s0 s) : KeptO s0 (execDpLinkLost o s) := by
  unfold execDpLinkLost
  repeat' (first
    | with_reducible assumption
    | with_reducible apply Kept.next
    | with_reducible apply State.dpLost_kept
    | with_reducible rfl
    | with_reducible exact fun h => h
    | dsimp only
    | with_reducible apply Kept.ite
    | with_reducible apply KeptO.ite
    | split)

theorem execAuxGo_kept {s0 : State} (o : Nat) (s : State) (hk : Kept s0 s) : KeptO s0 (execAuxGo o s) := by
  unfold execAuxGo
  repeat' (first
    | with_reducible assumption
    | with_reducible apply Kept.next
    | with_reducible refine State.hostDo_kept ?_ ?_
    | with_reducible apply State.cfgErr_kept
    | with_reducible apply State.emit_kept
    | with_reducible apply State.fl_kept
    | with_reducible rfl
    | with_reducible exact fun h => h
    | exact Memory.wf_filter _
    | exact Memory.wf_zero _ _
    | exact Memory.wf_writeMask _ _ _
    | exact Memory.wf_write _ _
    | dsimp only
    | with_reducible apply Kept.ite
    | with_reducible apply KeptO.ite
    | split)

theorem execAuxDone_kept {s0 : State} (o result data : Nat) (s : State) (hk : Kept s0 s) : KeptO s0 (execAuxDone o result data s) := by
  unfold execAuxDone
  repeat' (first
    | with_reducible assumption
    | with_reducible apply Kept.next
    | with_reducible apply State.fl_kept
    | with_reducible apply State.wr_kept
    | with_reducible rfl
    | with_reducible exact fun h => h
    | dsimp only
    | with_reducible apply Kept.ite
    | with_reducible apply KeptO.ite
    | split)

theorem execAphyLockLost_kept {s0 : State} (o : Nat) (s : State) (hk : Kept s0 s) : KeptO s0 (execAphyLockLost o s) := by
  unfold execAphyLockLost
  repeat' (first
    | with_reducible assumption
    | with_reducible apply Kept.next
    | with_reducible apply State.linkRec_kept
    | with_reducible apply State.count_kept
    | with_reducible apply State.raise_kept
    | with_reducible apply State.fl_kept
    | with_reducible rfl
    | with_reducible exact fun h => h
    | dsimp only
    | with_reducible apply Kept.ite
    | with_reducible apply KeptO.ite
    | split)

theorem execAphyLinkLocked_kept {s0 : State} (o : Nat) (s : State) (hk : Kept s0 s) : KeptO s0 (execAphyLinkLocked o s) := by
  unfold execAphyLinkLocked
  repeat' (first
    | with_reducible assumption
    | with_reducible apply Kept.next
    | with_reducible apply State.linkRec_kept
    | with_reducible apply State.fl_kept
    | with_reducible rfl
    | with_reducible exact fun h => h
    | dsimp only
    | with_reducible apply Kept.ite
    | with_reducible apply KeptO.ite
    | split)

theorem execDsiCmd_kept {s0 : State} (o v : Nat) (s : State) (hk : Kept s0 s) : KeptO s0 (execDsiCmd o v s) := by
  unfold execDsiCmd
  repeat' (first
    | with_reducible assumption
    | with_reducible apply Kept.next
    | with_reducible refine State.hostDo_kept ?_ ?_
    | with_reducible apply State.cfgErr_kept
    | with_reducible apply State.wr_kept
    | with_reducible rfl
    | with_reducible exact fun h => h
    | exact Memory.wf_filter _
    | exact Memory.wf_zero _ _
    | exact Memory.wf_writeMask _ _ _
    | exact Memory.wf_write _ _
    | dsimp only
    | with_reducible apply Kept.ite
    | with_reducible apply KeptO.ite
    | split
    | with_reducible refine Kept.upd0 ?_ ?_ ?_ ?_ ?_ ?_)

end Sys2Proof.Machine
end

