-- ==== Sys2Proof/Laws/KeptPress.lean ====
section
/-! SUPPORT. Every operation of Machine/Press.lean keeps what no command may change. -/

namespace Sys2Proof.Machine

set_option linter.all false

theorem State.prsTake_kept {s0 : State} (s : State) (e work c : Nat) (hk : Kept s0 s) : Kept s0 (State.prsTake s e work c) := by
  unfold State.prsTake
  repeat' (first
    | with_reducible assumption
    | with_reducible apply State.wrs_kept
    | with_reducible apply State.wr_kept
    | with_reducible rfl
    | with_reducible exact fun h => h
    | dsimp only
    | split)

theorem State.prsFree_kept {s0 : State} (s : State) (e : Nat) (hk : Kept s0 s) : Kept s0 (State.prsFree s e) := by
  unfold State.prsFree
  repeat' (first
    | with_reducible assumption
    | with_reducible apply State.wr_kept
    | with_reducible rfl
    | with_reducible exact fun h => h
    | dsimp only
    | split
    | with_reducible refine Kept.upd0 ?_ ?_ ?_ ?_ ?_ ?_)

theorem State.prsMove_kept {s0 : State} (s : State) (sid : Nat) (st : Strm) (p : Pkt) (e work : Nat) (hk : Kept s0 s) : Kept s0 (State.prsMove s sid st p e work) := by
  unfold State.prsMove
  repeat' (first
    | with_reducible assumption
    | with_reducible apply State.prsTake_kept
    | with_reducible apply State.dispatch_kept
    | with_reducible rfl
    | with_reducible exact fun h => h
    | dsimp only
    | split
    | with_reducible refine Kept.upd0 ?_ ?_ ?_ ?_ ?_ ?_)

theorem execCopy_kept {s0 : State} (sid : Nat) (s : State) (hk : Kept s0 s) : KeptO s0 (execCopy sid s) := by
  unfold execCopy
  repeat' (first
    | with_reducible assumption
    | with_reducible apply State.dispatch_kept
    | with_reducible apply State.donePkt_kept
    | with_reducible apply Kept.next
    | with_reducible apply State.prsMove_kept
    | with_reducible apply State.copyLoop_kept
    | with_reducible refine Kept.of_eq1 ?_ (by assumption)
    | with_reducible rfl
    | with_reducible exact fun h => h
    | dsimp only
    | split
    | with_reducible refine Kept.upd0 ?_ ?_ ?_ ?_ ?_ ?_)

theorem execFill_kept {s0 : State} (sid : Nat) (s : State) (hk : Kept s0 s) : KeptO s0 (execFill sid s) := by
  unfold execFill
  repeat' (first
    | with_reducible assumption
    | with_reducible apply Kept.next
    | with_reducible apply State.prsMove_kept
    | with_reducible apply State.fillLoop_kept
    | with_reducible refine Kept.of_eq1 ?_ (by assumption)
    | with_reducible rfl
    | with_reducible exact fun h => h
    | dsimp only
    | split
    | with_reducible refine Kept.upd0 ?_ ?_ ?_ ?_ ?_ ?_)

theorem execCopyComplete_kept {s0 : State} (e : Nat) (s : State) (hk : Kept s0 s) : KeptO s0 (execCopyComplete e s) := by
  unfold execCopyComplete
  repeat' (first
    | with_reducible assumption
    | with_reducible apply Kept.next
    | with_reducible apply State.prsFree_kept
    | with_reducible apply State.donePkt_kept
    | with_reducible rfl
    | with_reducible exact fun h => h
    | dsimp only
    | with_reducible apply Kept.ite
    | with_reducible apply KeptO.ite
    | split
    | with_reducible refine Kept.upd0 ?_ ?_ ?_ ?_ ?_ ?_)

theorem State.prsStart_kept {s0 : State} (s : State) (sid want : Nat) (hk : Kept s0 s) : Kept s0 (State.prsStart s sid want) := by
  unfold State.prsStart
  repeat' (first
    | with_reducible assumption
    | intro _
    | with_reducible apply State.prsTake_kept
    | with_reducible apply State.dispatch_kept
    | with_reducible apply State.onRead_kept
    | with_reducible apply State.vread_kept
    | with_reducible apply State.ctxFault_kept
    | with_reducible refine Kept.of_eq1 ?_ (by assumption)
    | with_reducible rfl
    | with_reducible exact fun h => h
    | dsimp only
    | with_reducible apply Kept.ite
    | with_reducible apply Kept.ite1
    | with_reducible apply Kept.ite2
    | split
    | with_reducible refine Kept.upd0 ?_ ?_ ?_ ?_ ?_ ?_)

theorem execCompress_kept {s0 : State} (sid : Nat) (s : State) (hk : Kept s0 s) : KeptO s0 (execCompress sid s) := by
  unfold execCompress
  repeat' (first
    | with_reducible assumption
    | with_reducible apply Kept.next
    | with_reducible apply State.prsStart_kept
    | with_reducible rfl
    | with_reducible exact fun h => h
    | dsimp only
    | split)

theorem execDecompress_kept {s0 : State} (sid : Nat) (s : State) (hk : Kept s0 s) : KeptO s0 (execDecompress sid s) := by
  unfold execDecompress
  repeat' (first
    | with_reducible assumption
    | with_reducible apply Kept.next
    | with_reducible apply State.prsStart_kept
    | with_reducible rfl
    | with_reducible exact fun h => h
    | dsimp only
    | split)

theorem State.consumed_kept {s0 : State} (s : State) (lo n : Nat) (hk : Kept s0 s) : Kept s0 (State.consumed s lo n).2 := by
  unfold State.consumed
  repeat' (first
    | with_reducible assumption
    | with_reducible apply State.free_kept
    | with_reducible refine Kept.of_eq2 ?_ (by assumption)
    | with_reducible rfl
    | with_reducible exact fun h => h
    | dsimp only
    | split)

theorem State.decompress_kept {s0 : State} (s : State) (x : PStream) (inp : List Byte) (outB ratio : Nat) (hk : Kept s0 s) : Kept s0 (State.decompress s x inp outB ratio).2 := by
  unfold State.decompress
  repeat' (first
    | with_reducible assumption
    | with_reducible apply State.consumed_kept
    | with_reducible refine Kept.of_eq2 ?_ (by assumption)
    | with_reducible rfl
    | with_reducible exact fun h => h
    | dsimp only
    | with_reducible apply Kept.ite
    | with_reducible apply Kept.ite1
    | with_reducible apply Kept.ite2
    | split
    | with_reducible refine Kept.upd0 ?_ ?_ ?_ ?_ ?_ ?_)

theorem State.compressed_kept {s0 : State} (s : State) (fmt e : Nat) (inp prior : List Byte) (n : Nat) (hk : Kept s0 s) : Kept s0 (State.compressed s fmt e inp prior n).2 := by
  unfold State.compressed
  repeat' (first
    | with_reducible assumption
    | with_reducible apply State.freeBytes_kept
    | with_reducible apply State.free_kept
    | with_reducible refine Kept.of_eq2 ?_ (by assumption)
    | with_reducible rfl
    | with_reducible exact fun h => h
    | dsimp only
    | with_reducible apply Kept.ite
    | with_reducible apply Kept.ite1
    | with_reducible apply Kept.ite2
    | split)

theorem State.compress_kept {s0 : State} (s : State) (x : PStream) (inp : List Byte) (outB e : Nat) (hk : Kept s0 s) : Kept s0 (State.compress s x inp outB e).2 := by
  unfold State.compress
  repeat' (first
    | with_reducible assumption
    | with_reducible apply State.compressed_kept
    | with_reducible apply State.consumed_kept
    | with_reducible refine Kept.of_eq2 ?_ (by assumption)
    | with_reducible rfl
    | with_reducible exact fun h => h
    | dsimp only
    | with_reducible apply Kept.ite
    | with_reducible apply Kept.ite1
    | with_reducible apply Kept.ite2
    | split
    | with_reducible refine Kept.upd0 ?_ ?_ ?_ ?_ ?_ ?_)

theorem State.loadStream_kept {s0 : State} (s : State) (e : Nat) (j : PJob) (hk : Kept s0 s) : Kept s0 (State.loadStream s e j).1 := by
  unfold State.loadStream
  repeat' (first
    | with_reducible assumption
    | with_reducible apply State.vread_kept
    | with_reducible refine Kept.of_eq1 ?_ (by assumption)
    | with_reducible rfl
    | with_reducible exact fun h => h
    | dsimp only
    | with_reducible apply Kept.ite
    | with_reducible apply Kept.ite1
    | with_reducible apply Kept.ite2
    | split
    | with_reducible refine Kept.upd0 ?_ ?_ ?_ ?_ ?_ ?_)

theorem State.saveStream_kept {s0 : State} (s : State) (e : Nat) (j : PJob) (x : PStream) (hk : Kept s0 s) : Kept s0 (State.saveStream s e j x).1 := by
  unfold State.saveStream
  repeat' (first
    | with_reducible assumption
    | with_reducible apply State.vwrite_kept
    | with_reducible apply State.freeBytes_kept
    | with_reducible apply State.free_kept
    | with_reducible refine Kept.of_eq1 ?_ (by assumption)
    | with_reducible refine Kept.of_eq2 ?_ (by assumption)
    | with_reducible rfl
    | with_reducible exact fun h => h
    | dsimp only
    | split
    | with_reducible refine Kept.upd0 ?_ ?_ ?_ ?_ ?_ ?_)

theorem State.prsFinish_kept {s0 : State} (s : State) (e : Nat) (j : PJob) (r : PRes) (hk : Kept s0 s) : Kept s0 (State.prsFinish s e j r) := by
  unfold State.prsFinish
  repeat' (first
    | with_reducible assumption
    | with_reducible apply State.saveStream_kept
    | with_reducible apply State.prsFree_kept
    | with_reducible apply State.vwrite_kept
    | with_reducible apply State.signal_kept
    | with_reducible apply State.donePkt_kept
    | with_reducible apply State.ledger_kept
    | with_reducible apply State.pmu_kept
    | with_reducible apply State.count_kept
    | with_reducible apply State.countN_kept
    | with_reducible apply State.raise_kept
    | with_reducible refine Kept.of_eq1 ?_ (by assumption)
    | with_reducible rfl
    | with_reducible exact fun h => h
    | dsimp only
    | with_reducible apply Kept.ite
    | with_reducible apply Kept.ite1
    | with_reducible apply Kept.ite2
    | split
    | with_reducible refine Kept.upd0 ?_ ?_ ?_ ?_ ?_ ?_)

theorem State.undefRes_kept {s0 : State} (s : State) (r : PRes) (hk : Kept s0 s) : Kept s0 (State.undefRes s r).2 := by
  unfold State.undefRes
  repeat' (first
    | with_reducible assumption
    | with_reducible apply State.freeBytes_kept
    | with_reducible apply State.free_kept
    | dsimp only)

theorem State.clashRes_kept {s0 : State} (s : State) (r : PRes) (hk : Kept s0 s) : Kept s0 (State.clashRes s r).2 := by
  unfold State.clashRes
  repeat' (first
    | with_reducible assumption
    | with_reducible apply State.free_kept
    | with_reducible apply State.undefRes_kept
    | with_reducible refine Kept.foldl ?_ (fun _ _ _ => ?_)
    | with_reducible refine Kept.foldl1 ?_ (fun _ _ _ _ => ?_)
    | with_reducible refine Kept.foldl2 ?_ (fun _ _ _ _ => ?_)
    | with_reducible refine Kept.of_eq1 ?_ (by assumption)
    | with_reducible refine Kept.of_eq2 ?_ (by assumption)
    | with_reducible rfl
    | with_reducible exact fun h => h
    | dsimp only
    | with_reducible apply Kept.ite
    | with_reducible apply Kept.ite1
    | with_reducible apply Kept.ite2
    | with_reducible apply KeptO.ite
    | split
    | with_reducible refine Kept.upd0 ?_ ?_ ?_ ?_ ?_ ?_
    | with_reducible refine Kept.upd1 ?_ ?_ ?_ ?_ ?_ ?_)

theorem State.openRes_kept {s0 : State} (s : State) (e : Nat) (j : PJob) (r : PRes) (hk : Kept s0 s) : Kept s0 (State.openRes s e j r).2 := by
  unfold State.openRes
  repeat' (first
    | with_reducible assumption
    | with_reducible apply State.clashRes_kept
    | with_reducible apply State.undefRes_kept
    | with_reducible refine Kept.foldl ?_ (fun _ _ _ => ?_)
    | with_reducible refine Kept.foldl1 ?_ (fun _ _ _ _ => ?_)
    | with_reducible refine Kept.foldl2 ?_ (fun _ _ _ _ => ?_)
    | with_reducible refine Kept.of_eq1 ?_ (by assumption)
    | with_reducible refine Kept.of_eq2 ?_ (by assumption)
    | with_reducible rfl
    | with_reducible exact fun h => h
    | dsimp only
    | with_reducible apply Kept.ite
    | with_reducible apply Kept.ite1
    | with_reducible apply Kept.ite2
    | with_reducible apply KeptO.ite
    | split
    | with_reducible refine Kept.upd0 ?_ ?_ ?_ ?_ ?_ ?_
    | with_reducible refine Kept.upd1 ?_ ?_ ?_ ?_ ?_ ?_)

theorem execPressJobEnd_kept {s0 : State} (e : Nat) (s : State) (hk : Kept s0 s) : KeptO s0 (execPressJobEnd e s) := by
  unfold execPressJobEnd
  repeat' (first
    | with_reducible assumption
    | with_reducible apply State.openRes_kept
    | with_reducible apply Kept.next
    | with_reducible apply State.prsFinish_kept
    | with_reducible apply State.loadStream_kept
    | with_reducible apply State.undefRes_kept
    | with_reducible apply State.compress_kept
    | with_reducible apply State.decompress_kept
    | with_reducible apply State.vread_kept
    | with_reducible refine Kept.of_eq1 ?_ (by assumption)
    | with_reducible refine Kept.of_eq2 ?_ (by assumption)
    | with_reducible rfl
    | with_reducible exact fun h => h
    | dsimp only
    | with_reducible apply Kept.ite
    | with_reducible apply Kept.ite1
    | with_reducible apply Kept.ite2
    | with_reducible apply KeptO.ite
    | split
    | with_reducible refine Kept.upd0 ?_ ?_ ?_ ?_ ?_ ?_)

theorem State.prsTeardown_kept {s0 : State} (s : State) (c : Nat) (hk : Kept s0 s) : Kept s0 (State.prsTeardown s c).1 := by
  unfold State.prsTeardown
  repeat' (first
    | with_reducible assumption
    | with_reducible apply State.prsFree_kept
    | with_reducible refine Kept.foldl ?_ (fun _ _ _ => ?_)
    | with_reducible refine Kept.of_eq1 ?_ (by assumption)
    | with_reducible refine Kept.foldl1 ?_ (fun _ _ _ _ => ?_)
    | with_reducible refine Kept.foldl2 ?_ (fun _ _ _ _ => ?_)
    | with_reducible refine Kept.of_eq2 ?_ (by assumption)
    | with_reducible rfl
    | with_reducible exact fun h => h
    | dsimp only
    | with_reducible apply Kept.ite
    | with_reducible apply Kept.ite1
    | with_reducible apply Kept.ite2
    | split
    | with_reducible refine Kept.upd0 ?_ ?_ ?_ ?_ ?_ ?_)

end Sys2Proof.Machine
end

