-- ==== Sys2Proof/Laws/KeptMemCmds.lean ====
section
/-! SUPPORT. Every operation of Machine/MemCmds.lean keeps what no command may change. -/

namespace Sys2Proof.Machine

set_option linter.all false

theorem execSweepJobDone_kept {s0 : State} (id : Nat) (s : State) (hk : Kept s0 s) : KeptO s0 (execSweepJobDone id s) := by
  unfold execSweepJobDone
  repeat' (first
    | with_reducible assumption
    | with_reducible apply Kept.next
    | with_reducible apply State.vwrite_kept
    | with_reducible apply State.signal_kept
    | with_reducible apply State.donePkt_kept
    | with_reducible apply State.updStrm_kept
    | with_reducible apply State.clearSync_kept
    | with_reducible apply State.sweepZero_kept
    | with_reducible apply State.sweepTake_kept
    | with_reducible apply State.pmu_kept
    | with_reducible apply State.countN_kept
    | with_reducible apply State.fl_kept
    | with_reducible apply id_kept
    | with_reducible refine Kept.foldl ?_ (fun _ _ _ => ?_)
    | with_reducible refine Kept.of_eq1 ?_ (by assumption)
    | with_reducible refine Kept.foldl1 ?_ (fun _ _ _ _ => ?_)
    | with_reducible refine Kept.foldl2 ?_ (fun _ _ _ _ => ?_)
    | with_reducible refine Kept.of_eq2 ?_ (by assumption)
    | with_reducible rfl
    | with_reducible exact fun h => h
    | dsimp only
    | with_reducible apply Kept.ite
    | with_reducible apply Kept.ite1
    | with_reducible apply Kept.ite2
    | with_reducible apply KeptO.ite
    | split
    | with_reducible refine Kept.upd0 ?_ ?_ ?_ ?_ ?_ ?_)

theorem State.corrCount_kept {s0 : State} (s : State) (typ unit : Nat) (hk : Kept s0 s) : Kept s0 (State.corrCount s typ unit) := by
  unfold State.corrCount
  repeat' (first
    | with_reducible assumption
    | with_reducible apply State.askTest_kept
    | with_reducible rfl
    | with_reducible exact fun h => h
    | dsimp only
    | with_reducible apply Kept.ite
    | split
    | with_reducible refine Kept.upd0 ?_ ?_ ?_ ?_ ?_ ?_)

theorem execPatrolScrub_kept {s0 : State} (L lo hi : Nat) (s : State) (hk : Kept s0 s) : KeptO s0 (execPatrolScrub L lo hi s) := by
  unfold execPatrolScrub
  repeat' (first
    | with_reducible assumption
    | with_reducible apply Kept.next
    | with_reducible apply State.mcCheck_kept
    | with_reducible apply State.uncorrShared_kept
    | with_reducible refine Kept.of_eq1 ?_ (by assumption)
    | with_reducible rfl
    | with_reducible exact fun h => h
    | exact Memory.wf_filter _
    | exact Memory.wf_zero _ _
    | exact Memory.wf_writeMask _ _ _
    | exact Memory.wf_write _ _
    | dsimp only
    | with_reducible apply Kept.ite
    | with_reducible apply Kept.ite1
    | with_reducible apply Kept.ite2
    | with_reducible apply KeptO.ite
    | split
    | with_reducible refine Kept.upd0 ?_ ?_ ?_ ?_ ?_ ?_)

theorem State.unitUncorr_kept {s0 : State} (s : State) (typ unit owner c eng : Nat) (hk : Kept s0 s) : Kept s0 (State.unitUncorr s typ unit owner c eng) := by
  unfold State.unitUncorr
  repeat' (first
    | with_reducible assumption
    | with_reducible apply State.askTest_kept
    | with_reducible apply State.ctxFault_kept
    | with_reducible apply State.incident_kept
    | with_reducible apply State.ledger_kept
    | with_reducible refine Kept.of_eq2 ?_ (by assumption)
    | with_reducible rfl
    | with_reducible exact fun h => h
    | dsimp only
    | split)

theorem State.readError_kept {s0 : State} (s : State) (kind unit res at_ c : Nat) (hk : Kept s0 s) : Kept s0 (State.readError s kind unit res at_ c) := by
  unfold State.readError
  repeat' (first
    | with_reducible assumption
    | with_reducible apply State.corrCount_kept
    | with_reducible apply State.unitUncorr_kept
    | with_reducible apply State.uncorrShared_kept
    | with_reducible refine Kept.foldl ?_ (fun _ _ _ => ?_)
    | with_reducible refine Kept.foldl1 ?_ (fun _ _ _ _ => ?_)
    | with_reducible refine Kept.foldl2 ?_ (fun _ _ _ _ => ?_)
    | with_reducible refine Kept.of_eq1 ?_ (by assumption)
    | with_reducible refine Kept.of_eq2 ?_ (by assumption)
    | with_reducible rfl
    | with_reducible exact fun h => h
    | dsimp only
    | with_reducible apply Kept.ite
    | with_reducible apply Kept.ite1
    | with_reducible apply Kept.ite2
    | with_reducible apply KeptO.ite
    | split
    | with_reducible refine Kept.upd0 ?_ ?_ ?_ ?_ ?_ ?_
    | with_reducible refine Kept.upd1 ?_ ?_ ?_ ?_ ?_ ?_)

theorem execSramScrub_kept {s0 : State} (kind unit res at_ c : Nat) (s : State) (hk : Kept s0 s) : KeptO s0 (execSramScrub kind unit res at_ c s) := by
  unfold execSramScrub
  repeat' (first
    | with_reducible assumption
    | with_reducible apply State.readError_kept
    | with_reducible apply Kept.next
    | with_reducible apply State.unitUncorr_kept
    | with_reducible apply State.corrCount_kept
    | with_reducible apply State.dropLine_kept
    | with_reducible apply State.poisonLine_kept
    | with_reducible apply State.ledger_kept
    | with_reducible apply State.count_kept
    | with_reducible apply State.raise_kept
    | with_reducible rfl
    | with_reducible exact fun h => h
    | dsimp only
    | with_reducible apply Kept.ite
    | with_reducible apply KeptO.ite
    | split
    | with_reducible refine Kept.upd0 ?_ ?_ ?_ ?_ ?_ ?_)

theorem State.monitorOff_kept {s0 : State} (s : State) (hk : Kept s0 s) : Kept s0 (State.monitorOff s) := by
  unfold State.monitorOff
  repeat' (first
    | with_reducible assumption
    | with_reducible apply State.safUpdate_kept
    | with_reducible apply State.wr_kept
    | with_reducible rfl
    | with_reducible exact fun h => h
    | dsimp only
    | with_reducible apply Kept.ite
    | split
    | with_reducible refine Kept.upd0 ?_ ?_ ?_ ?_ ?_ ?_)

theorem State.monRec_kept {s0 : State} (s : State) (inc kind : Nat) (unit value : Option Nat) (faultN : Bool) (hk : Kept s0 s) : Kept s0 (State.monRec s inc kind unit value faultN) := by
  unfold State.monRec
  repeat' (first
    | with_reducible assumption
    | with_reducible apply State.ledger_kept
    | with_reducible apply State.freeBytes_kept
    | with_reducible refine Kept.of_eq2 ?_ (by assumption)
    | with_reducible rfl
    | with_reducible exact fun h => h
    | dsimp only
    | with_reducible apply Kept.ite
    | with_reducible apply Kept.ite1
    | with_reducible apply Kept.ite2
    | split
    | with_reducible refine Kept.upd0 ?_ ?_ ?_ ?_ ?_ ?_)

theorem State.emcyCond_kept {s0 : State} (s : State) (code : Nat) (b : Bool) (hk : Kept s0 s) : Kept s0 (State.emcyCond s code b) := by
  unfold State.emcyCond
  repeat' (first
    | with_reducible assumption
    | with_reducible rfl
    | with_reducible exact fun h => h
    | dsimp only
    | with_reducible apply Kept.ite
    | split
    | with_reducible refine Kept.upd0 ?_ ?_ ?_ ?_ ?_ ?_)

theorem execHbmTempRead_kept {s0 : State} (m t : Nat) (s : State) (hk : Kept s0 s) : KeptO s0 (execHbmTempRead m t s) := by
  unfold execHbmTempRead
  repeat' (first
    | with_reducible assumption
    | with_reducible apply Kept.next
    | with_reducible apply State.emcyCond_kept
    | with_reducible apply State.monRec_kept
    | with_reducible apply State.monitorOff_kept
    | with_reducible apply State.emcyClear_kept
    | with_reducible apply State.emcy_kept
    | with_reducible apply State.raise_kept
    | with_reducible apply State.fl_kept
    | with_reducible apply State.wr_kept
    | with_reducible rfl
    | with_reducible exact fun h => h
    | dsimp only
    | with_reducible apply Kept.ite
    | with_reducible apply KeptO.ite
    | split
    | with_reducible refine Kept.upd0 ?_ ?_ ?_ ?_ ?_ ?_)

theorem execEyeRecentre_kept {s0 : State} (_m _pc : Nat) (s : State) (hk : Kept s0 s) : KeptO s0 (execEyeRecentre _m _pc s) := by
  unfold execEyeRecentre
  repeat' (first
    | with_reducible assumption
    | with_reducible apply Kept.next
    | with_reducible rfl
    | with_reducible exact fun h => h
    | dsimp only
    | split)

theorem State.l2Sync_kept {s0 : State} (s : State) (hk : Kept s0 s) : Kept s0 (State.l2Sync s) := by
  unfold State.l2Sync
  repeat' (first
    | with_reducible assumption
    | with_reducible apply State.fl_kept
    | with_reducible rfl
    | with_reducible exact fun h => h
    | dsimp only
    | split)

theorem State.maintLines_kept {s0 : State} (s : State) (op : Nat) (p : Nat → L2Line → Bool) (hk : Kept s0 s) : Kept s0 (State.maintLines s op p) := by
  unfold State.maintLines
  repeat' (first
    | with_reducible assumption
    | with_reducible apply State.evictLine_kept
    | with_reducible apply State.dropLine_kept
    | with_reducible apply State.cleanLine_kept
    | with_reducible refine Kept.foldl ?_ (fun _ _ _ => ?_)
    | with_reducible refine Kept.foldl1 ?_ (fun _ _ _ _ => ?_)
    | with_reducible refine Kept.foldl2 ?_ (fun _ _ _ _ => ?_)
    | with_reducible refine Kept.of_eq1 ?_ (by assumption)
    | with_reducible refine Kept.of_eq2 ?_ (by assumption)
    | with_reducible rfl
    | with_reducible exact fun h => h
    | dsimp only
    | with_reducible apply Kept.ite
    | split)

theorem State.maintGo_kept {s0 : State} (s : State) (op : Nat) (hk : Kept s0 s) : Kept s0 (State.maintGo s op) := by
  unfold State.maintGo
  repeat' (first
    | with_reducible assumption
    | with_reducible apply State.maintLines_kept
    | with_reducible apply State.l2Sync_kept
    | with_reducible apply State.cfgErr_kept
    | with_reducible apply State.fl_kept
    | with_reducible rfl
    | with_reducible exact fun h => h
    | dsimp only
    | with_reducible apply Kept.ite
    | split)

theorem execL2Clean_kept {s0 : State} (s : State) (hk : Kept s0 s) : KeptO s0 (execL2Clean s) := by
  unfold execL2Clean
  repeat' (first
    | with_reducible assumption
    | with_reducible apply Kept.next
    | with_reducible refine State.hostDo_kept ?_ ?_
    | with_reducible apply State.maintGo_kept
    | with_reducible rfl
    | with_reducible exact fun h => h
    | exact Memory.wf_filter _
    | exact Memory.wf_zero _ _
    | exact Memory.wf_writeMask _ _ _
    | exact Memory.wf_write _ _
    | dsimp only
    | split)

theorem execL2Invalidate_kept {s0 : State} (s : State) (hk : Kept s0 s) : KeptO s0 (execL2Invalidate s) := by
  unfold execL2Invalidate
  repeat' (first
    | with_reducible assumption
    | with_reducible apply Kept.next
    | with_reducible refine State.hostDo_kept ?_ ?_
    | with_reducible apply State.maintGo_kept
    | with_reducible rfl
    | with_reducible exact fun h => h
    | exact Memory.wf_filter _
    | exact Memory.wf_zero _ _
    | exact Memory.wf_writeMask _ _ _
    | exact Memory.wf_write _ _
    | dsimp only
    | split)

theorem execL2CleanInvalidate_kept {s0 : State} (s : State) (hk : Kept s0 s) : KeptO s0 (execL2CleanInvalidate s) := by
  unfold execL2CleanInvalidate
  repeat' (first
    | with_reducible assumption
    | with_reducible apply Kept.next
    | with_reducible refine State.hostDo_kept ?_ ?_
    | with_reducible apply State.maintGo_kept
    | with_reducible rfl
    | with_reducible exact fun h => h
    | exact Memory.wf_filter _
    | exact Memory.wf_zero _ _
    | exact Memory.wf_writeMask _ _ _
    | exact Memory.wf_write _ _
    | dsimp only
    | split)

theorem execL2MaintDone_kept {s0 : State} (s : State) (hk : Kept s0 s) : KeptO s0 (execL2MaintDone s) := by
  unfold execL2MaintDone
  repeat' (first
    | with_reducible assumption
    | with_reducible apply Kept.next
    | with_reducible apply State.l2Sync_kept
    | with_reducible apply State.signal_kept
    | with_reducible apply State.fl_kept
    | with_reducible rfl
    | with_reducible exact fun h => h
    | dsimp only
    | with_reducible apply Kept.ite
    | with_reducible apply KeptO.ite
    | split)

theorem execL2WayHandover_kept {s0 : State} (w : Nat) (s : State) (hk : Kept s0 s) : KeptO s0 (execL2WayHandover w s) := by
  unfold execL2WayHandover
  repeat' (first
    | with_reducible assumption
    | with_reducible apply Kept.next
    | with_reducible apply State.maintLines_kept
    | with_reducible apply State.l2Sync_kept
    | with_reducible apply State.clearSync_kept
    | with_reducible rfl
    | with_reducible exact fun h => h
    | dsimp only
    | with_reducible apply Kept.ite
    | with_reducible apply KeptO.ite
    | split
    | with_reducible refine Kept.upd0 ?_ ?_ ?_ ?_ ?_ ?_)

end Sys2Proof.Machine
end

