-- ==== Sys2Proof/Laws/KeptLedgerCmds.lean ====
section
/-! SUPPORT. Every operation of Machine/LedgerCmds.lean keeps what no command may change. -/

namespace Sys2Proof.Machine

set_option linter.all false

theorem State.updLdg_kept {s0 : State} (s : State) (f : Ledger → Ledger) (h : Kept s0 s)
    (h1 : ∀ l : Ledger, l.bytes.wf = true → (f l).bytes.wf = true) : Kept s0 (s.updLdg f) :=
  h.upd (Nat.le_refl _) id (List.prefix_refl _) (h1 _) id id rfl id

theorem State.tailSync_kept {s0 : State} (s : State) (hk : Kept s0 s) : Kept s0 (State.tailSync s) := by
  unfold State.tailSync
  repeat' (first
    | with_reducible assumption
    | with_reducible apply State.wr_kept
    | with_reducible rfl
    | with_reducible exact fun h => h
    | dsimp only
    | split
    | with_reducible refine Kept.upd0 ?_ ?_ ?_ ?_ ?_ ?_)

theorem State.ldgMake_kept {s0 : State} (s : State) (o n : Nat) (hk : Kept s0 s) : Kept s0 (State.ldgMake s o n) := by
  unfold State.ldgMake
  repeat' (first
    | with_reducible assumption
    | with_reducible apply State.updLdg_kept
    | with_reducible apply State.count_kept
    | with_reducible apply State.raise_kept
    | with_reducible refine Kept.foldl ?_ (fun _ _ _ => ?_)
    | with_reducible refine Kept.foldl1 ?_ (fun _ _ _ _ => ?_)
    | with_reducible refine Kept.foldl2 ?_ (fun _ _ _ _ => ?_)
    | with_reducible refine Kept.of_eq1 ?_ (by assumption)
    | with_reducible refine Kept.of_eq2 ?_ (by assumption)
    | with_reducible rfl
    | with_reducible exact fun h => h
    | dsimp only
    | with_reducible apply Kept.ite
    | split
    | exact fun _ => rfl
    | exact fun _ h => h
    | exact fun h => h
    | rfl
    | with_reducible refine Kept.upd0 ?_ ?_ ?_ ?_ ?_ ?_)

theorem State.ldgPlace_kept {s0 : State} (s : State) (e : LEnt) (hk : Kept s0 s) : Kept s0 (State.ldgPlace s e) := by
  unfold State.ldgPlace
  repeat' (first
    | with_reducible assumption
    | with_reducible apply State.ldgMake_kept
    | with_reducible apply State.tailSync_kept
    | with_reducible apply State.updLdg_kept
    | with_reducible apply State.wr_kept
    | with_reducible rfl
    | with_reducible exact fun h => h
    | dsimp only
    | split
    | exact fun _ h => Memory.wf_write _ _ h
    | exact fun _ _ => Memory.wf_foldl _ rfl (fun _ _ h => Memory.wf_write _ _ h)
    | (intro _ h; split <;> first | exact h | exact Memory.wf_write _ _ h)
    | exact fun _ => rfl
    | exact fun _ h => h
    | exact fun h => h
    | rfl
    | with_reducible refine Kept.upd0 ?_ ?_ ?_ ?_ ?_ ?_)

theorem State.ldgOpen_kept {s0 : State} (s : State) (r : LRec) (hk : Kept s0 s) : Kept s0 (State.ldgOpen s r) := by
  unfold State.ldgOpen
  repeat' (first
    | with_reducible assumption
    | with_reducible apply State.ldgPlace_kept
    | with_reducible apply State.count_kept
    | with_reducible apply State.raise_kept
    | with_reducible apply State.wr_kept
    | with_reducible rfl
    | with_reducible exact fun h => h
    | dsimp only
    | with_reducible apply Kept.ite
    | split)

theorem State.ldgGap_kept {s0 : State} (s : State) (hk : Kept s0 s) : Kept s0 (State.ldgGap s) := by
  unfold State.ldgGap
  repeat' (first
    | with_reducible assumption
    | with_reducible apply State.ldgOpen_kept
    | with_reducible apply State.updLdg_kept
    | with_reducible rfl
    | with_reducible exact fun h => h
    | dsimp only
    | with_reducible apply Kept.ite
    | split
    | exact fun _ => rfl
    | exact fun _ h => h
    | exact fun h => h
    | rfl
    | with_reducible refine Kept.upd0 ?_ ?_ ?_ ?_ ?_ ?_)

theorem State.ldgMiss_kept {s0 : State} (s : State) (r : LRec) (hk : Kept s0 s) : Kept s0 (State.ldgMiss s r) := by
  unfold State.ldgMiss
  repeat' (first
    | with_reducible assumption
    | with_reducible apply State.updLdg_kept
    | with_reducible apply State.count_kept
    | with_reducible rfl
    | with_reducible exact fun h => h
    | dsimp only
    | with_reducible apply Kept.ite
    | split
    | exact fun _ => rfl
    | exact fun _ h => h
    | exact fun h => h
    | rfl
    | with_reducible refine Kept.upd0 ?_ ?_ ?_ ?_ ?_ ?_)

theorem State.ldgTake_kept {s0 : State} (s : State) (r : LRec) (hk : Kept s0 s) : Kept s0 (State.ldgTake s r) := by
  unfold State.ldgTake
  repeat' (first
    | with_reducible assumption
    | with_reducible apply State.ldgMiss_kept
    | with_reducible apply State.ldgGap_kept
    | with_reducible apply State.ldgOpen_kept
    | with_reducible apply State.updLdg_kept
    | with_reducible apply State.count_kept
    | with_reducible rfl
    | with_reducible exact fun h => h
    | dsimp only
    | with_reducible apply Kept.ite
    | split
    | exact fun _ h => Memory.wf_write _ _ h
    | exact fun _ _ => Memory.wf_foldl _ rfl (fun _ _ h => Memory.wf_write _ _ h)
    | (intro _ h; split <;> first | exact h | exact Memory.wf_write _ _ h)
    | exact fun _ => rfl
    | exact fun _ h => h
    | exact fun h => h
    | rfl
    | with_reducible refine Kept.upd0 ?_ ?_ ?_ ?_ ?_ ?_)

theorem execLedgerAppend_kept {s0 : State} (s : State) (hk : Kept s0 s) : KeptO s0 (execLedgerAppend s) := by
  unfold execLedgerAppend
  repeat' (first
    | with_reducible assumption
    | with_reducible apply Kept.next
    | with_reducible apply State.ldgTake_kept
    | with_reducible apply State.updLdg_kept
    | with_reducible rfl
    | with_reducible exact fun h => h
    | dsimp only
    | split
    | exact fun _ => rfl
    | exact fun _ h => h
    | exact fun h => h
    | rfl
    | with_reducible refine Kept.upd0 ?_ ?_ ?_ ?_ ?_ ?_)

theorem State.mirrored_kept {s0 : State} (s : State) (e : LEnt) (hk : Kept s0 s) : Kept s0 (State.mirrored s e) := by
  unfold State.mirrored
  repeat' (first
    | with_reducible assumption
    | with_reducible apply State.updLdg_kept
    | with_reducible apply State.wr_kept
    | with_reducible rfl
    | with_reducible exact fun h => h
    | dsimp only
    | with_reducible apply Kept.ite
    | split
    | exact fun _ => rfl
    | exact fun _ h => h
    | exact fun h => h
    | rfl
    | with_reducible refine Kept.upd0 ?_ ?_ ?_ ?_ ?_ ?_)

theorem State.mirrorErr_kept {s0 : State} (s : State) (hk : Kept s0 s) : Kept s0 (State.mirrorErr s) := by
  unfold State.mirrorErr
  repeat' (first
    | with_reducible assumption
    | with_reducible apply State.count_kept
    | with_reducible apply State.raise_kept
    | with_reducible rfl
    | with_reducible exact fun h => h
    | dsimp only
    | split)

theorem execMirrorWrite_kept {s0 : State} (ok : Bool) (s : State) (hk : Kept s0 s) : KeptO s0 (execMirrorWrite ok s) := by
  unfold execMirrorWrite
  repeat' (first
    | with_reducible assumption
    | with_reducible apply Kept.next
    | with_reducible apply State.mirrorErr_kept
    | with_reducible apply State.mirrored_kept
    | with_reducible rfl
    | with_reducible exact fun h => h
    | dsimp only
    | with_reducible apply Kept.ite
    | with_reducible apply KeptO.ite
    | split
    | with_reducible refine Kept.upd0 ?_ ?_ ?_ ?_ ?_ ?_)

theorem State.areaWrite_kept {s0 : State} (s : State) (hk : Kept s0 s) : Kept s0 (State.areaWrite s) := by
  unfold State.areaWrite
  repeat' (first
    | with_reducible assumption
    | with_reducible rfl
    | with_reducible exact fun h => h
    | dsimp only
    | split
    | with_reducible refine Kept.upd0 ?_ ?_ ?_ ?_ ?_ ?_)

theorem execStateAreaWrite_kept {s0 : State} (ok : Bool) (s : State) (hk : Kept s0 s) : KeptO s0 (execStateAreaWrite ok s) := by
  unfold execStateAreaWrite
  repeat' (first
    | with_reducible assumption
    | with_reducible apply Kept.next
    | with_reducible apply State.areaWrite_kept
    | with_reducible apply State.mirrorErr_kept
    | with_reducible rfl
    | with_reducible exact fun h => h
    | dsimp only
    | with_reducible apply Kept.ite
    | with_reducible apply KeptO.ite
    | split)

theorem State.mirrorAll_kept {s0 : State}  (fuel : Nat) (x1 : State) (hk : Kept s0 x1) : Kept s0 (State.mirrorAll fuel x1) := by
  induction fuel generalizing x1 with
  | zero =>
    unfold State.mirrorAll
    repeat' (first
      | with_reducible assumption
      | with_reducible apply State.mirrored_kept
      | with_reducible rfl
      | with_reducible exact fun h => h
      | dsimp only
      | split
      | with_reducible refine Kept.upd0 ?_ ?_ ?_ ?_ ?_ ?_)
  | succ f ih =>
    unfold State.mirrorAll
    repeat' (first
      | with_reducible assumption
      | with_reducible apply ih
      | with_reducible apply State.mirrored_kept
      | with_reducible rfl
      | with_reducible exact fun h => h
      | dsimp only
      | split
      | with_reducible refine Kept.upd0 ?_ ?_ ?_ ?_ ?_ ?_)

theorem State.ldgReload_kept {s0 : State} (s : State) (hk : Kept s0 s) : Kept s0 (State.ldgReload s) := by
  unfold State.ldgReload
  repeat' (first
    | with_reducible assumption
    | with_reducible apply State.mirrored_kept
    | with_reducible apply State.ldgTake_kept
    | with_reducible apply State.tailSync_kept
    | with_reducible apply State.updLdg_kept
    | with_reducible apply State.wr_kept
    | with_reducible refine Kept.foldl ?_ (fun _ _ _ => ?_)
    | with_reducible refine Kept.foldl1 ?_ (fun _ _ _ _ => ?_)
    | with_reducible refine Kept.foldl2 ?_ (fun _ _ _ _ => ?_)
    | with_reducible refine Kept.of_eq1 ?_ (by assumption)
    | with_reducible refine Kept.of_eq2 ?_ (by assumption)
    | with_reducible rfl
    | with_reducible exact fun h => h
    | dsimp only
    | split
    | exact fun _ h => Memory.wf_write _ _ h
    | exact fun _ _ => Memory.wf_foldl _ rfl (fun _ _ h => Memory.wf_write _ _ h)
    | (intro _ h; split <;> first | exact h | exact Memory.wf_write _ _ h)
    | exact fun _ => rfl
    | exact fun _ h => h
    | exact fun h => h
    | rfl
    | with_reducible refine Kept.upd0 ?_ ?_ ?_ ?_ ?_ ?_)

theorem State.ldgRefuse_kept {s0 : State} (s : State) (who : Nat) (hk : Kept s0 s) : Kept s0 (State.ldgRefuse s who).1 := by
  unfold State.ldgRefuse
  repeat' (first
    | with_reducible assumption
    | with_reducible apply State.cfgErr_kept
    | with_reducible refine Kept.of_eq1 ?_ (by assumption)
    | with_reducible rfl
    | with_reducible exact fun h => h
    | dsimp only
    | with_reducible apply Kept.ite
    | with_reducible apply Kept.ite1
    | with_reducible apply Kept.ite2
    | split)

theorem State.ldgClear_kept {s0 : State} (s : State) (who node : Nat) (hk : Kept s0 s) : Kept s0 (State.ldgClear s who node).1 := by
  unfold State.ldgClear
  repeat' (first
    | with_reducible assumption
    | with_reducible apply State.ldgRefuse_kept
    | with_reducible apply State.ldgTake_kept
    | with_reducible apply State.tailSync_kept
    | with_reducible apply State.updLdg_kept
    | with_reducible apply State.raise_kept
    | with_reducible refine Kept.of_eq1 ?_ (by assumption)
    | with_reducible rfl
    | with_reducible exact fun h => h
    | dsimp only
    | with_reducible apply Kept.ite
    | with_reducible apply Kept.ite1
    | with_reducible apply Kept.ite2
    | split
    | exact fun _ => rfl
    | exact fun _ h => h
    | exact fun h => h
    | rfl
    | with_reducible refine Kept.upd0 ?_ ?_ ?_ ?_ ?_ ?_)

theorem State.ldgFreeze_kept {s0 : State} (s : State) (who : Nat) (hk : Kept s0 s) : Kept s0 (State.ldgFreeze s who).1 := by
  unfold State.ldgFreeze
  repeat' (first
    | with_reducible assumption
    | with_reducible apply State.ldgRefuse_kept
    | with_reducible apply State.updLdg_kept
    | with_reducible apply State.fl_kept
    | with_reducible apply State.wr_kept
    | with_reducible refine Kept.of_eq1 ?_ (by assumption)
    | with_reducible rfl
    | with_reducible exact fun h => h
    | dsimp only
    | with_reducible apply Kept.ite
    | with_reducible apply Kept.ite1
    | with_reducible apply Kept.ite2
    | split
    | exact fun _ => rfl
    | exact fun _ h => h
    | exact fun h => h
    | rfl
    | with_reducible refine Kept.upd0 ?_ ?_ ?_ ?_ ?_ ?_)

theorem State.ldgThaw_kept {s0 : State} (s : State) (hk : Kept s0 s) : Kept s0 (State.ldgThaw s) := by
  unfold State.ldgThaw
  repeat' (first
    | with_reducible assumption
    | with_reducible apply State.ldgTake_kept
    | with_reducible apply State.fl_kept
    | with_reducible apply State.wr_kept
    | with_reducible rfl
    | with_reducible exact fun h => h
    | dsimp only
    | with_reducible apply Kept.ite
    | split)

theorem State.ldgUnfreeze_kept {s0 : State} (s : State) (who : Nat) (hk : Kept s0 s) : Kept s0 (State.ldgUnfreeze s who).1 := by
  unfold State.ldgUnfreeze
  repeat' (first
    | with_reducible assumption
    | with_reducible apply State.ldgThaw_kept
    | with_reducible apply State.ldgRefuse_kept
    | with_reducible refine Kept.of_eq1 ?_ (by assumption)
    | with_reducible rfl
    | with_reducible exact fun h => h
    | dsimp only
    | with_reducible apply Kept.ite
    | with_reducible apply Kept.ite1
    | with_reducible apply Kept.ite2
    | split)

theorem execLedgerClear_kept {s0 : State} (who node key : Nat) (s : State) (hk : Kept s0 s) : KeptO s0 (execLedgerClear who node key s) := by
  unfold execLedgerClear
  repeat' (first
    | with_reducible assumption
    | with_reducible apply Kept.next
    | with_reducible apply State.ldgClear_kept
    | with_reducible apply State.cfgErr_kept
    | with_reducible refine Kept.of_eq1 ?_ (by assumption)
    | with_reducible rfl
    | with_reducible exact fun h => h
    | dsimp only
    | with_reducible apply Kept.ite
    | with_reducible apply Kept.ite1
    | with_reducible apply Kept.ite2
    | with_reducible apply KeptO.ite
    | split
    | with_reducible refine Kept.upd0 ?_ ?_ ?_ ?_ ?_ ?_)

theorem execLedgerFreeze_kept {s0 : State} (who : Nat) (s : State) (hk : Kept s0 s) : KeptO s0 (execLedgerFreeze who s) := by
  unfold execLedgerFreeze
  repeat' (first
    | with_reducible assumption
    | with_reducible apply Kept.next
    | with_reducible apply State.ldgFreeze_kept
    | with_reducible refine Kept.of_eq1 ?_ (by assumption)
    | with_reducible rfl
    | with_reducible exact fun h => h
    | dsimp only
    | with_reducible apply Kept.ite
    | with_reducible apply Kept.ite1
    | with_reducible apply Kept.ite2
    | with_reducible apply KeptO.ite
    | split
    | with_reducible refine Kept.upd0 ?_ ?_ ?_ ?_ ?_ ?_)

theorem execLedgerUnfreeze_kept {s0 : State} (who : Nat) (s : State) (hk : Kept s0 s) : KeptO s0 (execLedgerUnfreeze who s) := by
  unfold execLedgerUnfreeze
  repeat' (first
    | with_reducible assumption
    | with_reducible apply Kept.next
    | with_reducible apply State.ldgUnfreeze_kept
    | with_reducible refine Kept.of_eq1 ?_ (by assumption)
    | with_reducible rfl
    | with_reducible exact fun h => h
    | dsimp only
    | with_reducible apply Kept.ite
    | with_reducible apply Kept.ite1
    | with_reducible apply Kept.ite2
    | with_reducible apply KeptO.ite
    | split
    | with_reducible refine Kept.upd0 ?_ ?_ ?_ ?_ ?_ ?_)

theorem execFreezeTimeout_kept {s0 : State} (s : State) (hk : Kept s0 s) : KeptO s0 (execFreezeTimeout s) := by
  unfold execFreezeTimeout
  repeat' (first
    | with_reducible assumption
    | with_reducible apply Kept.next
    | with_reducible apply State.ldgThaw_kept
    | with_reducible apply State.raise_kept
    | with_reducible rfl
    | with_reducible exact fun h => h
    | dsimp only
    | with_reducible apply Kept.ite
    | with_reducible apply KeptO.ite
    | split)

end Sys2Proof.Machine
end

