-- ==== Sys2Proof/Laws/KeptIntc.lean ====
section
/-! SUPPORT. Every operation of Machine/Intc.lean keeps what no command may change. -/

namespace Sys2Proof.Machine

set_option linter.all false

theorem State.notifyTgt_kept {s0 : State} (s : State) (t : Nat) (hk : Kept s0 s) : Kept s0 (State.notifyTgt s t) := by
  unfold State.notifyTgt
  repeat' (first
    | with_reducible assumption
    | intro _
    | with_reducible apply State.linkDrop_kept
    | with_reducible apply State.notifyTgtWith_kept
    | with_reducible rfl
    | with_reducible exact fun h => h
    | dsimp only
    | split)

theorem State.pend_kept {s0 : State} (s : State) (n : Nat) (hk : Kept s0 s) : Kept s0 (State.pend s n) := by
  unfold State.pend
  repeat' (first
    | with_reducible assumption
    | intro _
    | with_reducible apply State.linkDrop_kept
    | with_reducible apply State.pendWith_kept
    | with_reducible rfl
    | with_reducible exact fun h => h
    | dsimp only
    | split)

theorem execSourceDeassert_kept {s0 : State} (n : Nat) (s : State) (hk : Kept s0 s) : KeptO s0 (execSourceDeassert n s) := by
  unfold execSourceDeassert
  repeat' (first
    | with_reducible assumption
    | with_reducible apply Kept.next
    | with_reducible apply State.fl_kept
    | with_reducible rfl
    | with_reducible exact fun h => h
    | dsimp only
    | with_reducible apply Kept.ite
    | with_reducible apply KeptO.ite
    | split)

theorem execIntcClaim_kept {s0 : State} (t : Nat) (s : State) (hk : Kept s0 s) : KeptO s0 (execIntcClaim t s) := by
  unfold execIntcClaim
  repeat' (first
    | with_reducible assumption
    | with_reducible apply Kept.next
    | with_reducible apply State.wrs_kept
    | with_reducible rfl
    | with_reducible exact fun h => h
    | dsimp only
    | with_reducible apply Kept.ite
    | with_reducible apply KeptO.ite
    | split
    | with_reducible refine Kept.upd0 ?_ ?_ ?_ ?_ ?_ ?_)

theorem State.endClaim_kept {s0 : State} (s : State) (n : Nat) (hk : Kept s0 s) : Kept s0 (State.endClaim s n) := by
  unfold State.endClaim
  repeat' (first
    | with_reducible assumption
    | with_reducible apply State.pend_kept
    | with_reducible apply State.fl_kept
    | with_reducible apply State.wr_kept
    | with_reducible rfl
    | with_reducible exact fun h => h
    | dsimp only
    | with_reducible apply Kept.ite
    | split)

theorem execIntcComplete_kept {s0 : State} (t n : Nat) (s : State) (hk : Kept s0 s) : KeptO s0 (execIntcComplete t n s) := by
  unfold execIntcComplete
  repeat' (first
    | with_reducible assumption
    | with_reducible apply Kept.next
    | with_reducible apply State.endClaim_kept
    | with_reducible apply State.cfgErr_kept
    | with_reducible apply State.free_kept
    | with_reducible refine Kept.of_eq2 ?_ (by assumption)
    | with_reducible rfl
    | with_reducible exact fun h => h
    | dsimp only
    | with_reducible apply Kept.ite
    | with_reducible apply Kept.ite1
    | with_reducible apply Kept.ite2
    | with_reducible apply KeptO.ite
    | split)

theorem State.release_kept {s0 : State} (s : State) (n : Nat) (hk : Kept s0 s) : Kept s0 (State.release s n) := by
  unfold State.release
  repeat' (first
    | with_reducible assumption
    | with_reducible apply State.endClaim_kept
    | with_reducible apply State.cfgErr_kept
    | with_reducible rfl
    | with_reducible exact fun h => h
    | dsimp only
    | with_reducible apply Kept.ite
    | split)

theorem execIntcRelease_kept {s0 : State} (n : Nat) (s : State) (hk : Kept s0 s) : KeptO s0 (execIntcRelease n s) := by
  unfold execIntcRelease
  repeat' (first
    | with_reducible assumption
    | with_reducible apply Kept.next
    | with_reducible refine State.hostDo_kept ?_ ?_
    | with_reducible apply State.release_kept
    | with_reducible rfl
    | with_reducible exact fun h => h
    | exact Memory.wf_filter _
    | exact Memory.wf_zero _ _
    | exact Memory.wf_writeMask _ _ _
    | exact Memory.wf_write _ _
    | dsimp only
    | split)

theorem execMaskWrite_kept {s0 : State} (fm pf : Bool) (n value : Nat) (s : State) (hk : Kept s0 s) : KeptO s0 (execMaskWrite fm pf n value s) := by
  unfold execMaskWrite
  repeat' (first
    | with_reducible assumption
    | with_reducible apply Kept.next
    | with_reducible apply State.notifyTgt_kept
    | with_reducible apply State.cfgErr_kept
    | with_reducible apply State.wr_kept
    | with_reducible refine Kept.foldl ?_ (fun _ _ _ => ?_)
    | with_reducible refine Kept.foldl1 ?_ (fun _ _ _ _ => ?_)
    | with_reducible refine Kept.foldl2 ?_ (fun _ _ _ _ => ?_)
    | with_reducible refine Kept.of_eq1 ?_ (by assumption)
    | with_reducible refine Kept.of_eq2 ?_ (by assumption)
    | with_reducible rfl
    | with_reducible exact fun h => h
    | dsimp only
    | with_reducible apply Kept.ite
    | with_reducible apply KeptO.ite
    | split)

theorem State.sendHeld_kept {s0 : State} (s : State) (m : Nat) (hk : Kept s0 s) : Kept s0 (State.sendHeld s m) := by
  unfold State.sendHeld
  repeat' (first
    | with_reducible assumption
    | intro _
    | with_reducible apply State.linkDrop_kept
    | with_reducible apply State.sendHeldWith_kept
    | with_reducible rfl
    | with_reducible exact fun h => h
    | dsimp only
    | split)

theorem execModTimer_kept {s0 : State} (m : Nat) (s : State) (hk : Kept s0 s) : KeptO s0 (execModTimer m s) := by
  unfold execModTimer
  repeat' (first
    | with_reducible assumption
    | with_reducible apply Kept.next
    | with_reducible apply State.sendHeld_kept
    | with_reducible rfl
    | with_reducible exact fun h => h
    | dsimp only
    | with_reducible apply Kept.ite
    | with_reducible apply KeptO.ite
    | split
    | with_reducible refine Kept.upd0 ?_ ?_ ?_ ?_ ?_ ?_)

theorem execIdleHintSet_kept {s0 : State} (v : Nat) (s : State) (hk : Kept s0 s) : KeptO s0 (execIdleHintSet v s) := by
  unfold execIdleHintSet
  repeat' (first
    | with_reducible assumption
    | with_reducible apply Kept.next
    | with_reducible refine State.hostDo_kept ?_ ?_
    | with_reducible apply State.sendHeld_kept
    | with_reducible apply State.fl_kept
    | with_reducible rfl
    | with_reducible exact fun h => h
    | exact Memory.wf_filter _
    | exact Memory.wf_zero _ _
    | exact Memory.wf_writeMask _ _ _
    | exact Memory.wf_write _ _
    | dsimp only
    | with_reducible apply Kept.ite
    | with_reducible apply KeptO.ite
    | split)

theorem State.pbaFlush_kept {s0 : State} (s : State) (v : Nat) (hk : Kept s0 s) : Kept s0 (State.pbaFlush s v) := by
  unfold State.pbaFlush
  repeat' (first
    | with_reducible assumption
    | with_reducible apply State.msi_kept
    | with_reducible rfl
    | with_reducible exact fun h => h
    | dsimp only
    | with_reducible apply Kept.ite
    | split
    | with_reducible refine Kept.upd0 ?_ ?_ ?_ ?_ ?_ ?_)

theorem execVectorUnmask_kept {s0 : State} (func v : Nat) (s : State) (hk : Kept s0 s) : KeptO s0 (execVectorUnmask func v s) := by
  unfold execVectorUnmask
  repeat' (first
    | with_reducible assumption
    | with_reducible apply Kept.next
    | with_reducible apply State.pbaFlush_kept
    | with_reducible rfl
    | with_reducible exact fun h => h
    | dsimp only
    | with_reducible apply Kept.ite
    | with_reducible apply KeptO.ite
    | split
    | with_reducible refine Kept.upd0 ?_ ?_ ?_ ?_ ?_ ?_)

theorem State.swSync_kept {s0 : State} (s : State) (k m : Nat) (hk : Kept s0 s) : Kept s0 (State.swSync s k m) := by
  unfold State.swSync
  repeat' (first
    | with_reducible assumption
    | with_reducible apply State.syncLevel_kept
    | with_reducible refine Kept.foldl ?_ (fun _ _ _ => ?_)
    | with_reducible refine Kept.foldl1 ?_ (fun _ _ _ _ => ?_)
    | with_reducible refine Kept.foldl2 ?_ (fun _ _ _ _ => ?_)
    | with_reducible refine Kept.of_eq1 ?_ (by assumption)
    | with_reducible refine Kept.of_eq2 ?_ (by assumption)
    | with_reducible rfl
    | with_reducible exact fun h => h
    | dsimp only
    | split)

theorem execSwSet_kept {s0 : State} (k m : Nat) (s : State) (hk : Kept s0 s) : KeptO s0 (execSwSet k m s) := by
  unfold execSwSet
  repeat' (first
    | with_reducible assumption
    | with_reducible apply Kept.next
    | with_reducible refine State.hostDo_kept ?_ ?_
    | with_reducible apply State.swSync_kept
    | with_reducible apply State.wr_kept
    | with_reducible rfl
    | with_reducible exact fun h => h
    | exact Memory.wf_filter _
    | exact Memory.wf_zero _ _
    | exact Memory.wf_writeMask _ _ _
    | exact Memory.wf_write _ _
    | dsimp only
    | with_reducible apply Kept.ite
    | with_reducible apply KeptO.ite
    | split)

theorem execSwClr_kept {s0 : State} (k m : Nat) (s : State) (hk : Kept s0 s) : KeptO s0 (execSwClr k m s) := by
  unfold execSwClr
  repeat' (first
    | with_reducible assumption
    | with_reducible apply Kept.next
    | with_reducible refine State.hostDo_kept ?_ ?_
    | with_reducible apply State.swSync_kept
    | with_reducible apply State.wr_kept
    | with_reducible rfl
    | with_reducible exact fun h => h
    | exact Memory.wf_filter _
    | exact Memory.wf_zero _ _
    | exact Memory.wf_writeMask _ _ _
    | exact Memory.wf_write _ _
    | dsimp only
    | with_reducible apply Kept.ite
    | with_reducible apply KeptO.ite
    | split)

end Sys2Proof.Machine
end

