-- ==== Sys2Proof/Laws/KeptPower.lean ====
section
/-! SUPPORT. Every operation of Machine/Power.lean keeps what no command may change. -/

namespace Sys2Proof.Machine

set_option linter.all false

theorem State.updPwr_kept {s0 : State} (s : State) (f : Pwr → Pwr) (hk : Kept s0 s) : Kept s0 (State.updPwr s f) := by
  unfold State.updPwr
  repeat' (first
    | with_reducible assumption
    | with_reducible rfl
    | with_reducible exact fun h => h
    | dsimp only
    | split
    | with_reducible refine Kept.upd0 ?_ ?_ ?_ ?_ ?_ ?_)

theorem State.setLevel_kept {s0 : State} (s : State) (r l : Nat) (hk : Kept s0 s) : Kept s0 (State.setLevel s r l) := by
  unfold State.setLevel
  repeat' (first
    | with_reducible assumption
    | with_reducible apply State.rtRecompute_kept
    | with_reducible apply State.trace_kept
    | with_reducible apply State.wr_kept
    | with_reducible rfl
    | with_reducible exact fun h => h
    | dsimp only
    | with_reducible apply Kept.ite
    | split)

theorem State.askVolt_kept {s0 : State} (s : State) (r l : Nat) (hk : Kept s0 s) : Kept s0 (State.askVolt s r l) := by
  unfold State.askVolt
  repeat' (first
    | with_reducible assumption
    | with_reducible apply State.updPwr_kept
    | with_reducible apply State.wrs_kept
    | with_reducible rfl
    | with_reducible exact fun h => h
    | dsimp only
    | split
    | with_reducible refine Kept.upd0 ?_ ?_ ?_ ?_ ?_ ?_)

theorem State.lowerTo_kept {s0 : State} (s : State) (r l : Nat) (hk : Kept s0 s) : Kept s0 (State.lowerTo s r l) := by
  unfold State.lowerTo
  repeat' (first
    | with_reducible assumption
    | with_reducible apply State.askVolt_kept
    | with_reducible apply State.setLevel_kept
    | with_reducible rfl
    | with_reducible exact fun h => h
    | dsimp only
    | with_reducible apply Kept.ite
    | split)

theorem State.lowerOne_kept {s0 : State} (s : State) (r : Nat) (hk : Kept s0 s) : Kept s0 (State.lowerOne s r) := by
  unfold State.lowerOne
  repeat' (first
    | with_reducible assumption
    | with_reducible apply State.lowerTo_kept
    | with_reducible rfl
    | with_reducible exact fun h => h
    | dsimp only
    | split)

theorem State.powerRec_kept {s0 : State} (s : State) (kind : Nat) (hk : Kept s0 s) : Kept s0 (State.powerRec s kind) := by
  unfold State.powerRec
  repeat' (first
    | with_reducible assumption
    | with_reducible apply State.ledger_kept
    | with_reducible apply State.freeBytes_kept
    | with_reducible refine Kept.of_eq2 ?_ (by assumption)
    | with_reducible rfl
    | with_reducible exact fun h => h
    | dsimp only
    | split)

theorem State.raiseOne_kept {s0 : State} (s : State) (r : Nat) (hk : Kept s0 s) : Kept s0 (State.raiseOne s r) := by
  unfold State.raiseOne
  repeat' (first
    | with_reducible assumption
    | with_reducible apply State.askVolt_kept
    | with_reducible rfl
    | with_reducible exact fun h => h
    | dsimp only
    | split)

theorem State.raiseWith_kept {s0 : State} (s : State) (r : Nat) (second : Option Nat) (hk : Kept s0 s) : Kept s0 (State.raiseWith s r second) := by
  unfold State.raiseWith
  repeat' (first
    | with_reducible assumption
    | with_reducible apply State.raiseOne_kept
    | with_reducible apply State.updPwr_kept
    | with_reducible refine Kept.foldl ?_ (fun _ _ _ => ?_)
    | with_reducible refine Kept.foldl1 ?_ (fun _ _ _ _ => ?_)
    | with_reducible refine Kept.foldl2 ?_ (fun _ _ _ _ => ?_)
    | with_reducible refine Kept.of_eq1 ?_ (by assumption)
    | with_reducible refine Kept.of_eq2 ?_ (by assumption)
    | with_reducible rfl
    | with_reducible exact fun h => h
    | dsimp only
    | with_reducible apply Kept.ite
    | with_reducible apply Kept.ite1
    | with_reducible apply Kept.ite2
    | with_reducible apply KeptO.ite
    | split
    | with_reducible refine Kept.upd0 ?_ ?_ ?_ ?_ ?_ ?_
    | with_reducible refine Kept.upd1 ?_ ?_ ?_ ?_ ?_ ?_)

theorem State.raiseStep_kept {s0 : State} (s : State) (busy : Nat) (below0 below1 : Int) (hk : Kept s0 s) : Kept s0 (State.raiseStep s busy below0 below1) := by
  unfold State.raiseStep
  repeat' (first
    | with_reducible assumption
    | with_reducible apply State.raiseWith_kept
    | with_reducible apply State.raiseOne_kept
    | with_reducible apply State.updPwr_kept
    | with_reducible rfl
    | with_reducible exact fun h => h
    | dsimp only
    | with_reducible apply Kept.ite
    | split
    | with_reducible refine Kept.upd0 ?_ ?_ ?_ ?_ ?_ ?_)

theorem State.avsMute_kept {s0 : State} (s : State) (hk : Kept s0 s) : Kept s0 (State.avsMute s) := by
  unfold State.avsMute
  repeat' (first
    | with_reducible assumption
    | with_reducible apply State.setLevel_kept
    | with_reducible apply State.updPwr_kept
    | with_reducible apply State.routeLevel_kept
    | with_reducible refine Kept.foldl ?_ (fun _ _ _ => ?_)
    | with_reducible refine Kept.foldl1 ?_ (fun _ _ _ _ => ?_)
    | with_reducible refine Kept.foldl2 ?_ (fun _ _ _ _ => ?_)
    | with_reducible refine Kept.of_eq1 ?_ (by assumption)
    | with_reducible refine Kept.of_eq2 ?_ (by assumption)
    | with_reducible rfl
    | with_reducible exact fun h => h
    | dsimp only
    | with_reducible apply Kept.ite
    | split
    | with_reducible refine Kept.upd0 ?_ ?_ ?_ ?_ ?_ ?_)

theorem State.tjReport_kept {s0 : State} (s : State) (fixed tj : Nat) (hk : Kept s0 s) : Kept s0 (State.tjReport s fixed tj) := by
  unfold State.tjReport
  repeat' (first
    | with_reducible assumption
    | with_reducible apply State.wr_kept
    | with_reducible apply State.emcyCond_kept
    | with_reducible apply State.emcy_kept
    | with_reducible apply State.emcyClear_kept
    | with_reducible refine Kept.foldl ?_ (fun _ _ _ => ?_)
    | with_reducible refine Kept.foldl1 ?_ (fun _ _ _ _ => ?_)
    | with_reducible refine Kept.foldl2 ?_ (fun _ _ _ _ => ?_)
    | with_reducible refine Kept.of_eq1 ?_ (by assumption)
    | with_reducible refine Kept.of_eq2 ?_ (by assumption)
    | with_reducible rfl
    | with_reducible exact fun h => h
    | dsimp only
    | with_reducible apply Kept.ite
    | with_reducible apply Kept.ite1
    | with_reducible apply Kept.ite2
    | with_reducible apply KeptO.ite
    | split
    | with_reducible refine Kept.upd0 ?_ ?_ ?_ ?_ ?_ ?_
    | with_reducible refine Kept.upd1 ?_ ?_ ?_ ?_ ?_ ?_)

theorem State.avsReport_kept {s0 : State} (s : State) (core loom : Tele) (fixed tj : Nat) (hk : Kept s0 s) : Kept s0 (State.avsReport s core loom fixed tj) := by
  unfold State.avsReport
  repeat' (first
    | with_reducible assumption
    | with_reducible apply State.tjReport_kept
    | with_reducible apply State.updPwr_kept
    | with_reducible apply State.emcyCond_kept
    | with_reducible apply State.routeLevel_kept
    | with_reducible apply State.emcyClear_kept
    | with_reducible apply State.emcy_kept
    | with_reducible apply State.wrs_kept
    | with_reducible apply State.wr_kept
    | with_reducible rfl
    | with_reducible exact fun h => h
    | dsimp only
    | with_reducible apply Kept.ite
    | split
    | with_reducible refine Kept.upd0 ?_ ?_ ?_ ?_ ?_ ?_)

theorem State.guardRaise_kept {s0 : State} (s : State) (guard : Nat) (hk : Kept s0 s) : Kept s0 (State.guardRaise s guard) := by
  unfold State.guardRaise
  repeat' (first
    | with_reducible assumption
    | with_reducible apply State.askVolt_kept
    | with_reducible apply State.updPwr_kept
    | with_reducible apply State.bump_kept
    | with_reducible refine Kept.foldl ?_ (fun _ _ _ => ?_)
    | with_reducible refine Kept.of_eq1 ?_ (by assumption)
    | with_reducible refine Kept.foldl1 ?_ (fun _ _ _ _ => ?_)
    | with_reducible refine Kept.foldl2 ?_ (fun _ _ _ _ => ?_)
    | with_reducible refine Kept.of_eq2 ?_ (by assumption)
    | with_reducible rfl
    | with_reducible exact fun h => h
    | dsimp only
    | with_reducible apply Kept.ite
    | with_reducible apply Kept.ite1
    | with_reducible apply Kept.ite2
    | split
    | with_reducible refine Kept.upd0 ?_ ?_ ?_ ?_ ?_ ?_)

theorem State.levelsDown_kept {s0 : State} (s : State) (hot over0 over1 high : Bool) (hk : Kept s0 s) : Kept s0 (State.levelsDown s hot over0 over1 high) := by
  unfold State.levelsDown
  repeat' (first
    | with_reducible assumption
    | with_reducible apply State.lowerOne_kept
    | with_reducible rfl
    | with_reducible exact fun h => h
    | dsimp only
    | with_reducible apply Kept.ite
    | split)

theorem execControlInterval_kept {s0 : State} (core loom : Tele) (fixed tj busy guard : Nat) (resp : Bool) (s : State) (hk : Kept s0 s) : KeptO s0 (execControlInterval core loom fixed tj busy guard resp s) := by
  unfold execControlInterval
  repeat' (first
    | with_reducible assumption
    | with_reducible apply State.tjReport_kept
    | with_reducible apply Kept.next
    | with_reducible apply State.levelsDown_kept
    | with_reducible apply State.guardRaise_kept
    | with_reducible apply State.avsReport_kept
    | with_reducible apply State.avsMute_kept
    | with_reducible apply State.raiseStep_kept
    | with_reducible apply State.updPwr_kept
    | with_reducible rfl
    | with_reducible exact fun h => h
    | dsimp only
    | with_reducible apply Kept.ite
    | with_reducible apply KeptO.ite
    | split
    | with_reducible refine Kept.upd0 ?_ ?_ ?_ ?_ ?_ ?_)

theorem State.regMiss_kept {s0 : State} (s : State) (r : Nat) (hk : Kept s0 s) : Kept s0 (State.regMiss s r) := by
  unfold State.regMiss
  repeat' (first
    | with_reducible assumption
    | with_reducible apply State.updPwr_kept
    | with_reducible apply State.fl_kept
    | with_reducible apply State.count_kept
    | with_reducible apply State.raise_kept
    | with_reducible apply State.powerRec_kept
    | with_reducible apply State.emcy_kept
    | with_reducible refine Kept.foldl ?_ (fun _ _ _ => ?_)
    | with_reducible refine Kept.foldl1 ?_ (fun _ _ _ _ => ?_)
    | with_reducible refine Kept.foldl2 ?_ (fun _ _ _ _ => ?_)
    | with_reducible refine Kept.of_eq1 ?_ (by assumption)
    | with_reducible refine Kept.of_eq2 ?_ (by assumption)
    | with_reducible rfl
    | with_reducible exact fun h => h
    | dsimp only
    | with_reducible apply Kept.ite
    | with_reducible apply Kept.ite1
    | with_reducible apply Kept.ite2
    | with_reducible apply KeptO.ite
    | split
    | with_reducible refine Kept.upd0 ?_ ?_ ?_ ?_ ?_ ?_
    | with_reducible refine Kept.upd1 ?_ ?_ ?_ ?_ ?_ ?_)

theorem execRegulatorAck_kept {s0 : State} (r : Nat) (s : State) (hk : Kept s0 s) : KeptO s0 (execRegulatorAck r s) := by
  unfold execRegulatorAck
  repeat' (first
    | with_reducible assumption
    | with_reducible apply State.regMiss_kept
    | with_reducible apply Kept.next
    | with_reducible apply State.setLevel_kept
    | with_reducible apply State.updPwr_kept
    | with_reducible apply State.wrs_kept
    | with_reducible rfl
    | with_reducible exact fun h => h
    | dsimp only
    | with_reducible apply Kept.ite
    | with_reducible apply KeptO.ite
    | split
    | with_reducible refine Kept.upd0 ?_ ?_ ?_ ?_ ?_ ?_)

theorem execRegulatorAckTimeout_kept {s0 : State} (r : Nat) (s : State) (hk : Kept s0 s) : KeptO s0 (execRegulatorAckTimeout r s) := by
  unfold execRegulatorAckTimeout
  repeat' (first
    | with_reducible assumption
    | with_reducible apply State.regMiss_kept
    | with_reducible apply Kept.next
    | with_reducible apply State.powerRec_kept
    | with_reducible apply State.updPwr_kept
    | with_reducible apply State.emcy_kept
    | with_reducible apply State.count_kept
    | with_reducible apply State.raise_kept
    | with_reducible apply State.fl_kept
    | with_reducible rfl
    | with_reducible exact fun h => h
    | dsimp only
    | with_reducible apply Kept.ite
    | with_reducible apply KeptO.ite
    | split
    | with_reducible refine Kept.upd0 ?_ ?_ ?_ ?_ ?_ ?_)

theorem State.monIncident_kept {s0 : State} (s : State) (lvl : Nat) (value : Option Nat) (hk : Kept s0 s) : Kept s0 (State.monIncident s lvl value) := by
  unfold State.monIncident
  repeat' (first
    | with_reducible assumption
    | with_reducible apply State.monRec_kept
    | with_reducible apply State.incident_kept
    | with_reducible refine Kept.of_eq2 ?_ (by assumption)
    | with_reducible rfl
    | with_reducible exact fun h => h
    | dsimp only
    | split)

theorem execVoltageMonitor_kept {s0 : State} (sup mv : Nat) (s : State) (hk : Kept s0 s) : KeptO s0 (execVoltageMonitor sup mv s) := by
  unfold execVoltageMonitor
  repeat' (first
    | with_reducible assumption
    | with_reducible apply Kept.next
    | with_reducible apply State.monIncident_kept
    | with_reducible apply State.lowerTo_kept
    | with_reducible apply State.updPwr_kept
    | with_reducible apply State.monRec_kept
    | with_reducible apply State.monitorOff_kept
    | with_reducible apply State.safUpdate_kept
    | with_reducible apply State.fl_kept
    | with_reducible rfl
    | with_reducible exact fun h => h
    | dsimp only
    | with_reducible apply Kept.ite
    | with_reducible apply KeptO.ite
    | split
    | with_reducible refine Kept.upd0 ?_ ?_ ?_ ?_ ?_ ?_)

theorem execClockMonitor_kept {s0 : State} (d n : Nat) (s : State) (hk : Kept s0 s) : KeptO s0 (execClockMonitor d n s) := by
  unfold execClockMonitor
  repeat' (first
    | with_reducible assumption
    | with_reducible apply Kept.next
    | with_reducible apply State.monIncident_kept
    | with_reducible apply State.fl_kept
    | with_reducible rfl
    | with_reducible exact fun h => h
    | dsimp only
    | with_reducible apply Kept.ite
    | with_reducible apply KeptO.ite
    | split)

theorem execRefclkLoss_kept {s0 : State} (s : State) (hk : Kept s0 s) : KeptO s0 (execRefclkLoss s) := by
  unfold execRefclkLoss
  repeat' (first
    | with_reducible assumption
    | with_reducible apply Kept.next
    | with_reducible apply State.monIncident_kept
    | with_reducible apply State.fl_kept
    | with_reducible rfl
    | with_reducible exact fun h => h
    | dsimp only
    | split)

theorem execTempSensorRead_kept {s0 : State} (t : Nat) (s : State) (hk : Kept s0 s) : KeptO s0 (execTempSensorRead t s) := by
  unfold execTempSensorRead
  repeat' (first
    | with_reducible assumption
    | with_reducible apply Kept.next
    | with_reducible apply State.powerRec_kept
    | with_reducible apply State.lowerTo_kept
    | with_reducible apply State.updPwr_kept
    | with_reducible apply State.monRec_kept
    | with_reducible apply State.monitorOff_kept
    | with_reducible apply State.safUpdate_kept
    | with_reducible apply State.fl_kept
    | with_reducible rfl
    | with_reducible exact fun h => h
    | dsimp only
    | with_reducible apply Kept.ite
    | with_reducible apply KeptO.ite
    | split
    | with_reducible refine Kept.upd0 ?_ ?_ ?_ ?_ ?_ ?_)

end Sys2Proof.Machine
end

