-- ==== Sys2Proof/Laws/KeptTeardown.lean ====
section
/-! SUPPORT. Every operation of Machine/Teardown.lean keeps what no command may change. -/

namespace Sys2Proof.Machine

set_option linter.all false

theorem State.shTeardown_kept {s0 : State} (s : State) (c : Nat) (hk : Kept s0 s) : Kept s0 (State.shTeardown s c) := by
  unfold State.shTeardown
  repeat' (first
    | with_reducible assumption
    | with_reducible apply State.ysaveSync_kept
    | with_reducible apply State.haltSync_kept
    | with_reducible apply State.sclSync_kept
    | with_reducible apply State.dropWaits_kept
    | with_reducible refine Kept.foldl ?_ (fun _ _ _ => ?_)
    | with_reducible refine Kept.foldl1 ?_ (fun _ _ _ _ => ?_)
    | with_reducible refine Kept.foldl2 ?_ (fun _ _ _ _ => ?_)
    | with_reducible refine Kept.of_eq1 ?_ (by assumption)
    | with_reducible refine Kept.of_eq2 ?_ (by assumption)
    | with_reducible rfl
    | with_reducible exact fun h => h
    | dsimp only
    | split
    | with_reducible refine Kept.upd0 ?_ ?_ ?_ ?_ ?_ ?_)

theorem State.engStop_kept {s0 : State} (s : State) (c : Nat) (hk : Kept s0 s) : Kept s0 (State.engStop s c) := by
  unfold State.engStop
  repeat' (first
    | with_reducible assumption
    | with_reducible apply State.shTeardown_kept
    | with_reducible apply State.prsTeardown_kept
    | with_reducible apply State.glzTeardown_kept
    | with_reducible apply State.patTeardown_kept
    | with_reducible apply State.loomTeardown_kept
    | with_reducible apply State.crdTeardown_kept
    | with_reducible apply State.gfxTeardown_kept
    | with_reducible apply State.dropWaits_kept
    | with_reducible refine Kept.foldl ?_ (fun _ _ _ => ?_)
    | with_reducible refine Kept.of_eq1 ?_ (by assumption)
    | with_reducible refine Kept.foldl1 ?_ (fun _ _ _ _ => ?_)
    | with_reducible refine Kept.foldl2 ?_ (fun _ _ _ _ => ?_)
    | with_reducible refine Kept.of_eq2 ?_ (by assumption)
    | with_reducible rfl
    | with_reducible exact fun h => h
    | dsimp only
    | split
    | with_reducible refine Kept.upd0 ?_ ?_ ?_ ?_ ?_ ?_)

theorem State.faultKept_kept {s0 : State} (s : State) (q : Nat) (hk : Kept s0 s) : Kept s0 (State.faultKept s q) := by
  unfold State.faultKept
  repeat' (first
    | with_reducible assumption
    | with_reducible apply State.wrs_kept
    | with_reducible refine Kept.foldl ?_ (fun _ _ _ => ?_)
    | with_reducible refine Kept.foldl1 ?_ (fun _ _ _ _ => ?_)
    | with_reducible refine Kept.foldl2 ?_ (fun _ _ _ _ => ?_)
    | with_reducible refine Kept.of_eq1 ?_ (by assumption)
    | with_reducible refine Kept.of_eq2 ?_ (by assumption)
    | with_reducible rfl
    | with_reducible exact fun h => h
    | dsimp only
    | with_reducible apply Kept.ite
    | with_reducible apply Kept.ite1
    | with_reducible apply Kept.ite2
    | with_reducible apply KeptO.ite
    | split
    | with_reducible refine Kept.upd0 ?_ ?_ ?_ ?_ ?_ ?_
    | with_reducible refine Kept.upd1 ?_ ?_ ?_ ?_ ?_ ?_)

theorem State.ctxQueuesOff_kept {s0 : State} (s : State) (c : Nat) (hk : Kept s0 s) : Kept s0 (State.ctxQueuesOff s c) := by
  unfold State.ctxQueuesOff
  repeat' (first
    | with_reducible assumption
    | with_reducible apply State.faultKept_kept
    | with_reducible apply State.queueOff_kept
    | with_reducible apply State.feSync_kept
    | with_reducible refine Kept.foldl ?_ (fun _ _ _ => ?_)
    | with_reducible refine Kept.foldl1 ?_ (fun _ _ _ _ => ?_)
    | with_reducible refine Kept.foldl2 ?_ (fun _ _ _ _ => ?_)
    | with_reducible refine Kept.of_eq1 ?_ (by assumption)
    | with_reducible refine Kept.of_eq2 ?_ (by assumption)
    | with_reducible rfl
    | with_reducible exact fun h => h
    | dsimp only
    | split
    | with_reducible refine Kept.upd0 ?_ ?_ ?_ ?_ ?_ ?_)

theorem State.ctxFaultRec_kept {s0 : State} (s : State) (c : Nat) (t : Teardown) (hk : Kept s0 s) : Kept s0 (State.ctxFaultRec s c t) := by
  unfold State.ctxFaultRec
  repeat' (first
    | with_reducible assumption
    | with_reducible apply State.ledger_kept
    | with_reducible rfl
    | with_reducible exact fun h => h
    | dsimp only
    | split)

theorem State.ctxEnd_kept {s0 : State} (s : State) (c : Nat) (t : Teardown) (hk : Kept s0 s) : Kept s0 (State.ctxEnd s c t) := by
  unfold State.ctxEnd
  repeat' (first
    | with_reducible assumption
    | with_reducible apply State.wrs_kept
    | with_reducible rfl
    | with_reducible exact fun h => h
    | dsimp only
    | with_reducible apply Kept.ite
    | split
    | with_reducible refine Kept.upd0 ?_ ?_ ?_ ?_ ?_ ?_)

theorem State.incSettle_kept {s0 : State} (s : State) (hk : Kept s0 s) : Kept s0 (State.incSettle s) := by
  unfold State.incSettle
  repeat' (first
    | with_reducible assumption
    | with_reducible apply State.incClose_kept
    | with_reducible refine Kept.foldl ?_ (fun _ _ _ => ?_)
    | with_reducible refine Kept.foldl1 ?_ (fun _ _ _ _ => ?_)
    | with_reducible refine Kept.foldl2 ?_ (fun _ _ _ _ => ?_)
    | with_reducible refine Kept.of_eq1 ?_ (by assumption)
    | with_reducible refine Kept.of_eq2 ?_ (by assumption)
    | with_reducible rfl
    | with_reducible exact fun h => h
    | dsimp only
    | with_reducible apply Kept.ite
    | split)

theorem State.tdStep_kept {s0 : State} (s : State) (c n : Nat) (hk : Kept s0 s) : Kept s0 (State.tdStep s c n) := by
  unfold State.tdStep
  repeat' (first
    | with_reducible assumption
    | with_reducible rfl
    | with_reducible exact fun h => h
    | dsimp only
    | split
    | with_reducible refine Kept.upd0 ?_ ?_ ?_ ?_ ?_ ?_)

theorem execTeardownStepDone_kept {s0 : State} (c : Nat) (s : State) (hk : Kept s0 s) : KeptO s0 (execTeardownStepDone c s) := by
  unfold execTeardownStepDone
  repeat' (first
    | with_reducible assumption
    | with_reducible apply State.icDrop_kept
    | with_reducible apply Kept.next
    | with_reducible apply State.tdStep_kept
    | with_reducible apply State.incSettle_kept
    | with_reducible apply State.ctxEnd_kept
    | with_reducible apply State.ctxFaultRec_kept
    | with_reducible apply State.ctxQueuesOff_kept
    | with_reducible apply State.engStop_kept
    | with_reducible apply State.loomFree_kept
    | with_reducible apply State.invDevice_kept
    | with_reducible apply State.poisonTally_kept
    | with_reducible apply State.raise_kept
    | with_reducible refine Kept.foldl ?_ (fun _ _ _ => ?_)
    | with_reducible refine Kept.foldl1 ?_ (fun _ _ _ _ => ?_)
    | with_reducible refine Kept.foldl2 ?_ (fun _ _ _ _ => ?_)
    | with_reducible refine Kept.of_eq1 ?_ (by assumption)
    | with_reducible refine Kept.of_eq2 ?_ (by assumption)
    | with_reducible rfl
    | with_reducible exact fun h => h
    | dsimp only
    | with_reducible apply Kept.ite
    | with_reducible apply KeptO.ite
    | split
    | with_reducible refine Kept.upd0 ?_ ?_ ?_ ?_ ?_ ?_)

theorem State.lostFault_kept {s0 : State} (s : State) (c inc eng : Nat) (hk : Kept s0 s) : Kept s0 (State.lostFault s c inc eng) := by
  unfold State.lostFault
  repeat' (first
    | with_reducible assumption
    | with_reducible apply State.free_kept
    | with_reducible apply State.mmuFault_kept
    | with_reducible refine Kept.foldl ?_ (fun _ _ _ => ?_)
    | with_reducible refine Kept.foldl1 ?_ (fun _ _ _ _ => ?_)
    | with_reducible refine Kept.foldl2 ?_ (fun _ _ _ _ => ?_)
    | with_reducible refine Kept.of_eq1 ?_ (by assumption)
    | with_reducible refine Kept.of_eq2 ?_ (by assumption)
    | with_reducible rfl
    | with_reducible exact fun h => h
    | dsimp only
    | with_reducible apply Kept.ite
    | with_reducible apply Kept.ite1
    | with_reducible apply Kept.ite2
    | with_reducible apply KeptO.ite
    | split
    | with_reducible refine Kept.upd0 ?_ ?_ ?_ ?_ ?_ ?_
    | with_reducible refine Kept.upd1 ?_ ?_ ?_ ?_ ?_ ?_)

theorem State.lateFault_kept {s0 : State} (s : State) (cs : List Nat) (inc eng : Nat) (hk : Kept s0 s) : Kept s0 (State.lateFault s cs inc eng) := by
  unfold State.lateFault
  repeat' (first
    | with_reducible assumption
    | with_reducible apply State.lostFault_kept
    | with_reducible apply State.engStop_kept
    | with_reducible refine Kept.foldl ?_ (fun _ _ _ => ?_)
    | with_reducible refine Kept.foldl1 ?_ (fun _ _ _ _ => ?_)
    | with_reducible refine Kept.foldl2 ?_ (fun _ _ _ _ => ?_)
    | with_reducible refine Kept.of_eq1 ?_ (by assumption)
    | with_reducible refine Kept.of_eq2 ?_ (by assumption)
    | with_reducible rfl
    | with_reducible exact fun h => h
    | dsimp only
    | with_reducible apply Kept.ite
    | with_reducible apply Kept.ite1
    | with_reducible apply Kept.ite2
    | with_reducible apply KeptO.ite
    | split
    | with_reducible refine Kept.upd0 ?_ ?_ ?_ ?_ ?_ ?_
    | with_reducible refine Kept.upd1 ?_ ?_ ?_ ?_ ?_ ?_)

theorem State.isolate_kept {s0 : State} (s : State) (typ unit core code inc : Nat) (hk : Kept s0 s) : Kept s0 (State.isolate s typ unit core code inc) := by
  unfold State.isolate
  repeat' (first
    | with_reducible assumption
    | with_reducible apply State.engStop_kept
    | with_reducible apply State.ctxFault_kept
    | with_reducible refine Kept.foldl ?_ (fun _ _ _ => ?_)
    | with_reducible refine Kept.foldl1 ?_ (fun _ _ _ _ => ?_)
    | with_reducible refine Kept.foldl2 ?_ (fun _ _ _ _ => ?_)
    | with_reducible refine Kept.of_eq1 ?_ (by assumption)
    | with_reducible refine Kept.of_eq2 ?_ (by assumption)
    | with_reducible rfl
    | with_reducible exact fun h => h
    | dsimp only
    | split)

theorem State.rstOnly_kept {s0 : State} (s : State) (r : BlkRst) (hk : Kept s0 s) : Kept s0 (State.rstOnly s r) := by
  unfold State.rstOnly
  repeat' (first
    | with_reducible assumption
    | with_reducible apply State.count_kept
    | with_reducible apply State.raise_kept
    | with_reducible refine Kept.foldl ?_ (fun _ _ _ => ?_)
    | with_reducible refine Kept.foldl1 ?_ (fun _ _ _ _ => ?_)
    | with_reducible refine Kept.foldl2 ?_ (fun _ _ _ _ => ?_)
    | with_reducible refine Kept.of_eq1 ?_ (by assumption)
    | with_reducible refine Kept.of_eq2 ?_ (by assumption)
    | with_reducible rfl
    | with_reducible exact fun h => h
    | dsimp only
    | with_reducible apply Kept.ite
    | with_reducible apply Kept.ite1
    | with_reducible apply Kept.ite2
    | with_reducible apply KeptO.ite
    | split
    | with_reducible refine Kept.upd0 ?_ ?_ ?_ ?_ ?_ ?_
    | with_reducible refine Kept.upd1 ?_ ?_ ?_ ?_ ?_ ?_)

theorem State.lateReset_kept {s0 : State} (s : State) (typ unit n e : Nat) (hk : Kept s0 s) : Kept s0 (State.lateReset s typ unit n e) := by
  have h := fun cs => State.lateFault_kept s cs n e hk
  unfold State.lateReset
  refine State.rstOnly_kept _ _ ?_
  generalize (if typ = 4 then s.glzCtxs else s.unitCtxs typ unit 0) = cs
  generalize hs : s.lateFault cs n e = x
  have hx : Kept s0 x := hs ▸ h cs
  by_cases ht : typ = 4
  · rw [if_pos ht]; exact State.pipesOff_kept x hx
  · rw [if_neg ht]; exact hx

theorem State.invLate_kept {s0 : State} (s : State) (e : Nat) (hk : Kept s0 s) : Kept s0 (State.invLate s e) := by
  unfold State.invLate
  repeat' (first
    | with_reducible assumption
    | with_reducible apply State.lateReset_kept
    | with_reducible apply State.lostFault_kept
    | with_reducible apply State.lateFault_kept
    | with_reducible apply State.pipesOff_kept
    | with_reducible apply State.isolate_kept
    | with_reducible apply State.monRec_kept
    | with_reducible apply State.pipeStop_kept
    | with_reducible apply State.ctxFault_kept
    | with_reducible apply State.incident_kept
    | with_reducible apply State.count_kept
    | with_reducible apply State.raise_kept
    | with_reducible apply State.wr_kept
    | with_reducible refine Kept.foldl ?_ (fun _ _ _ => ?_)
    | with_reducible refine Kept.of_eq2 ?_ (by assumption)
    | with_reducible refine Kept.foldl1 ?_ (fun _ _ _ _ => ?_)
    | with_reducible refine Kept.foldl2 ?_ (fun _ _ _ _ => ?_)
    | with_reducible refine Kept.of_eq1 ?_ (by assumption)
    | with_reducible rfl
    | with_reducible exact fun h => h
    | dsimp only
    | with_reducible apply Kept.ite
    | with_reducible apply Kept.ite1
    | with_reducible apply Kept.ite2
    | split
    | with_reducible refine Kept.upd0 ?_ ?_ ?_ ?_ ?_ ?_)

theorem execInvTimeoutExpiry_kept {s0 : State} (s : State) (hk : Kept s0 s) : KeptO s0 (execInvTimeoutExpiry s) := by
  unfold execInvTimeoutExpiry
  repeat' (first
    | with_reducible assumption
    | with_reducible apply Kept.next
    | with_reducible apply State.invLate_kept
    | with_reducible apply State.invDone_kept
    | with_reducible refine Kept.foldl ?_ (fun _ _ _ => ?_)
    | with_reducible refine Kept.foldl1 ?_ (fun _ _ _ _ => ?_)
    | with_reducible refine Kept.foldl2 ?_ (fun _ _ _ _ => ?_)
    | with_reducible refine Kept.of_eq1 ?_ (by assumption)
    | with_reducible refine Kept.of_eq2 ?_ (by assumption)
    | with_reducible rfl
    | with_reducible exact fun h => h
    | dsimp only
    | with_reducible apply Kept.ite
    | with_reducible apply KeptO.ite
    | split
    | with_reducible refine Kept.upd0 ?_ ?_ ?_ ?_ ?_ ?_)

end Sys2Proof.Machine
end

