-- ==== Sys2Proof/Laws/KeptAssayer.lean ====
section
/-! SUPPORT. Every operation of Machine/Assayer.lean keeps what no command may change. -/

namespace Sys2Proof.Machine

set_option linter.all false

theorem State.capEdit_kept {s0 : State} (s : State) (cls : Nat) (f : CapEnt → CapEnt) (hk : Kept s0 s) : Kept s0 (State.capEdit s cls f) := by
  unfold State.capEdit
  repeat' (first
    | with_reducible assumption
    | with_reducible rfl
    | with_reducible exact fun h => h
    | dsimp only
    | with_reducible apply Kept.ite
    | split
    | with_reducible refine Kept.upd0 ?_ ?_ ?_ ?_ ?_ ?_)

theorem State.dropCarder_kept {s0 : State} (s : State) (hk : Kept s0 s) : Kept s0 (State.dropCarder s) := by
  unfold State.dropCarder
  repeat' (first
    | with_reducible assumption
    | with_reducible apply State.capEdit_kept
    | with_reducible rfl
    | with_reducible exact fun h => h
    | dsimp only
    | with_reducible apply Kept.ite
    | split
    | with_reducible refine Kept.upd0 ?_ ?_ ?_ ?_ ?_ ?_)

theorem State.disableUnit_kept {s0 : State} (s : State) (typ u : Nat) (hk : Kept s0 s) : Kept s0 (State.disableUnit s typ u) := by
  unfold State.disableUnit
  repeat' (first
    | with_reducible assumption
    | with_reducible apply State.dropCarder_kept
    | with_reducible apply State.capEdit_kept
    | with_reducible apply State.count_kept
    | with_reducible apply State.wr_kept
    | with_reducible refine Kept.foldl ?_ (fun _ _ _ => ?_)
    | with_reducible refine Kept.foldl1 ?_ (fun _ _ _ _ => ?_)
    | with_reducible refine Kept.foldl2 ?_ (fun _ _ _ _ => ?_)
    | with_reducible refine Kept.of_eq1 ?_ (by assumption)
    | with_reducible refine Kept.of_eq2 ?_ (by assumption)
    | with_reducible rfl
    | with_reducible exact fun h => h
    | dsimp only
    | with_reducible apply Kept.ite
    | split
    | with_reducible refine Kept.upd0 ?_ ?_ ?_ ?_ ?_ ?_)

theorem State.mapSpare_kept {s0 : State} (s : State) (u : Nat) (hk : Kept s0 s) : Kept s0 (State.mapSpare s u) := by
  unfold State.mapSpare
  repeat' (first
    | with_reducible assumption
    | with_reducible apply State.wr_kept
    | with_reducible rfl
    | with_reducible exact fun h => h
    | dsimp only
    | split
    | with_reducible refine Kept.upd0 ?_ ?_ ?_ ?_ ?_ ?_)

theorem State.capChanged_kept {s0 : State} (s : State) (hk : Kept s0 s) : Kept s0 (State.capChanged s) := by
  unfold State.capChanged
  repeat' (first
    | with_reducible assumption
    | with_reducible apply State.emcy_kept
    | with_reducible apply State.raise_kept
    | with_reducible rfl
    | with_reducible exact fun h => h
    | dsimp only
    | split
    | with_reducible refine Kept.upd0 ?_ ?_ ?_ ?_ ?_ ?_)

theorem State.retire_kept {s0 : State} (s : State) (typ u : Nat) (hk : Kept s0 s) : Kept s0 (State.retire s typ u).2 := by
  unfold State.retire
  repeat' (first
    | with_reducible assumption
    | with_reducible apply State.capChanged_kept
    | with_reducible apply State.mapSpare_kept
    | with_reducible apply State.disableUnit_kept
    | with_reducible apply State.capEdit_kept
    | with_reducible apply State.rtuDrop_kept
    | with_reducible apply State.addRepair_kept
    | with_reducible apply State.routeHit_kept
    | with_reducible apply State.count_kept
    | with_reducible apply State.fl_kept
    | with_reducible refine Kept.of_eq2 ?_ (by assumption)
    | with_reducible rfl
    | with_reducible exact fun h => h
    | dsimp only
    | with_reducible apply Kept.ite
    | with_reducible apply Kept.ite1
    | with_reducible apply Kept.ite2
    | split
    | with_reducible refine Kept.upd0 ?_ ?_ ?_ ?_ ?_ ?_)

theorem execAssayerTestStart_kept {s0 : State} (s : State) (hk : Kept s0 s) : KeptO s0 (execAssayerTestStart s) := by
  unfold execAssayerTestStart
  repeat' (first
    | with_reducible assumption
    | with_reducible apply Kept.next
    | with_reducible apply State.loomSync_kept
    | with_reducible apply State.rtuDrop_kept
    | with_reducible apply State.crdSync_kept
    | with_reducible apply State.count_kept
    | with_reducible apply State.wrs_kept
    | with_reducible apply State.fl_kept
    | with_reducible rfl
    | with_reducible exact fun h => h
    | dsimp only
    | with_reducible apply Kept.ite
    | with_reducible apply KeptO.ite
    | split
    | with_reducible refine Kept.upd0 ?_ ?_ ?_ ?_ ?_ ?_)

theorem State.third_kept {s0 : State} (s : State) (key : Nat) (hk : Kept s0 s) : Kept s0 (State.third s key).2 := by
  unfold State.third
  repeat' (first
    | with_reducible assumption
    | with_reducible refine Kept.of_eq2 ?_ (by assumption)
    | with_reducible rfl
    | with_reducible exact fun h => h
    | dsimp only
    | with_reducible apply Kept.ite
    | with_reducible apply Kept.ite1
    | with_reducible apply Kept.ite2
    | split
    | with_reducible refine Kept.upd0 ?_ ?_ ?_ ?_ ?_ ?_)

theorem State.testRec_kept {s0 : State} (s : State) (inc typ unit : Nat) (lasting : Bool) (act trigger : Nat) (hk : Kept s0 s) : Kept s0 (State.testRec s inc typ unit lasting act trigger) := by
  unfold State.testRec
  repeat' (first
    | with_reducible assumption
    | with_reducible apply State.ledger_kept
    | with_reducible rfl
    | with_reducible exact fun h => h
    | dsimp only
    | with_reducible apply Kept.ite
    | split)

theorem State.verdict_kept {s0 : State} (s : State) (typ unit inc trigger : Nat) (lasting : Bool) (hk : Kept s0 s) : Kept s0 (State.verdict s typ unit inc trigger lasting) := by
  unfold State.verdict
  repeat' (first
    | with_reducible assumption
    | with_reducible apply State.testRec_kept
    | with_reducible apply State.retire_kept
    | with_reducible apply State.count_kept
    | with_reducible apply State.wrs_kept
    | with_reducible refine Kept.of_eq2 ?_ (by assumption)
    | with_reducible rfl
    | with_reducible exact fun h => h
    | dsimp only
    | with_reducible apply Kept.ite
    | with_reducible apply Kept.ite1
    | with_reducible apply Kept.ite2
    | split)

theorem execTestVerdict_kept {s0 : State} (fail : Bool) (s : State) (hk : Kept s0 s) : KeptO s0 (execTestVerdict fail s) := by
  unfold execTestVerdict
  repeat' (first
    | with_reducible assumption
    | with_reducible apply Kept.next
    | with_reducible apply State.verdict_kept
    | with_reducible apply State.third_kept
    | with_reducible apply State.loomWait_kept
    | with_reducible apply State.loomSync_kept
    | with_reducible apply State.crdGo_kept
    | with_reducible apply State.safUpdate_kept
    | with_reducible apply State.fl_kept
    | with_reducible refine Kept.of_eq2 ?_ (by assumption)
    | with_reducible rfl
    | with_reducible exact fun h => h
    | dsimp only
    | with_reducible apply Kept.ite
    | with_reducible apply Kept.ite1
    | with_reducible apply Kept.ite2
    | with_reducible apply KeptO.ite
    | split
    | with_reducible refine Kept.upd0 ?_ ?_ ?_ ?_ ?_ ?_)

theorem State.measure_kept {s0 : State} (s : State) (r d : Nat) (hk : Kept s0 s) : Kept s0 (State.measure s r d) := by
  unfold State.measure
  repeat' (first
    | with_reducible assumption
    | with_reducible apply State.powerRec_kept
    | with_reducible apply State.lowerTo_kept
    | with_reducible apply State.ledger_kept
    | with_reducible apply State.count_kept
    | with_reducible apply State.wrs_kept
    | with_reducible apply State.fl_kept
    | with_reducible refine Kept.foldl ?_ (fun _ _ _ => ?_)
    | with_reducible refine Kept.foldl1 ?_ (fun _ _ _ _ => ?_)
    | with_reducible refine Kept.foldl2 ?_ (fun _ _ _ _ => ?_)
    | with_reducible refine Kept.of_eq1 ?_ (by assumption)
    | with_reducible refine Kept.of_eq2 ?_ (by assumption)
    | with_reducible rfl
    | with_reducible exact fun h => h
    | dsimp only
    | with_reducible apply Kept.ite
    | with_reducible apply Kept.ite1
    | with_reducible apply Kept.ite2
    | split
    | with_reducible refine Kept.upd0 ?_ ?_ ?_ ?_ ?_ ?_)

theorem State.ageMeasure_kept {s0 : State} (s : State) (d0 d1 : Nat) (hk : Kept s0 s) : Kept s0 (State.ageMeasure s d0 d1) := by
  unfold State.ageMeasure
  repeat' (first
    | with_reducible assumption
    | with_reducible apply State.measure_kept
    | with_reducible apply State.updPwr_kept
    | with_reducible apply State.safUpdate_kept
    | with_reducible apply State.emcy_kept
    | with_reducible apply State.bump_kept
    | with_reducible apply State.fl_kept
    | with_reducible apply State.wr_kept
    | with_reducible refine Kept.of_eq1 ?_ (by assumption)
    | with_reducible rfl
    | with_reducible exact fun h => h
    | dsimp only
    | with_reducible apply Kept.ite
    | with_reducible apply Kept.ite1
    | with_reducible apply Kept.ite2
    | split
    | with_reducible refine Kept.upd0 ?_ ?_ ?_ ?_ ?_ ?_)

theorem execAgeingMeasure_kept {s0 : State} (d0 d1 : Nat) (s : State) (hk : Kept s0 s) : KeptO s0 (execAgeingMeasure d0 d1 s) := by
  unfold execAgeingMeasure
  repeat' (first
    | with_reducible assumption
    | with_reducible apply Kept.next
    | with_reducible apply State.ageMeasure_kept
    | with_reducible apply State.bump_kept
    | with_reducible refine Kept.of_eq1 ?_ (by assumption)
    | with_reducible rfl
    | with_reducible exact fun h => h
    | dsimp only
    | with_reducible apply Kept.ite
    | with_reducible apply Kept.ite1
    | with_reducible apply Kept.ite2
    | with_reducible apply KeptO.ite
    | split)

end Sys2Proof.Machine
end

