-- ==== Sys2Proof/Laws/KeptDictionary.lean ====
section
/-! SUPPORT. Every operation of Machine/Dictionary.lean keeps what no command may change. -/

namespace Sys2Proof.Machine

set_option linter.all false

theorem State.odGet_kept {s0 : State} (s : State) (e : OdE) (hk : Kept s0 s) : Kept s0 (State.odGet s e).2 := by
  unfold State.odGet
  repeat' (first
    | with_reducible assumption
    | with_reducible apply State.free_kept
    | with_reducible refine Kept.of_eq2 ?_ (by assumption)
    | with_reducible rfl
    | with_reducible exact fun h => h
    | dsimp only
    | with_reducible apply Kept.ite
    | with_reducible apply Kept.ite1
    | with_reducible apply Kept.ite2
    | split
    | with_reducible refine Kept.upd0 ?_ ?_ ?_ ?_ ?_ ?_)

theorem State.odSet_kept {s0 : State} (s : State) (e : OdE) (v : Nat) (hk : Kept s0 s) : Kept s0 (State.odSet s e v) := by
  unfold State.odSet
  repeat' (first
    | with_reducible assumption
    | with_reducible rfl
    | with_reducible exact fun h => h
    | dsimp only
    | with_reducible apply Kept.ite
    | split
    | with_reducible refine Kept.upd0 ?_ ?_ ?_ ?_ ?_ ?_)

theorem State.odEnvelope_kept {s0 : State} (s : State) (v : Nat) (hk : Kept s0 s) : Kept s0 (State.odEnvelope s v) := by
  unfold State.odEnvelope
  repeat' (first
    | with_reducible assumption
    | with_reducible apply State.powerRec_kept
    | with_reducible apply State.wrSh_kept
    | with_reducible apply State.wr_kept
    | with_reducible rfl
    | with_reducible exact fun h => h
    | dsimp only
    | with_reducible apply Kept.ite
    | split)

theorem State.odSave_kept {s0 : State} (s : State) (defaults mbx : Bool) (hk : Kept s0 s) : Kept s0 (State.odSave s defaults mbx) := by
  unfold State.odSave
  repeat' (first
    | with_reducible assumption
    | with_reducible rfl
    | with_reducible exact fun h => h
    | dsimp only
    | with_reducible apply Kept.ite
    | split
    | with_reducible refine Kept.upd0 ?_ ?_ ?_ ?_ ?_ ?_)

theorem State.hbSync_kept {s0 : State} (s : State) (hk : Kept s0 s) : Kept s0 (State.hbSync s) := by
  unfold State.hbSync
  repeat' (first
    | with_reducible assumption
    | with_reducible apply State.fl_kept
    | with_reducible apply State.syncLevel_kept
    | with_reducible apply State.routeLevel_kept
    | with_reducible apply State.emcyClear_kept
    | with_reducible refine Kept.foldl ?_ (fun _ _ _ => ?_)
    | with_reducible refine Kept.foldl1 ?_ (fun _ _ _ _ => ?_)
    | with_reducible refine Kept.foldl2 ?_ (fun _ _ _ _ => ?_)
    | with_reducible refine Kept.of_eq1 ?_ (by assumption)
    | with_reducible refine Kept.of_eq2 ?_ (by assumption)
    | with_reducible rfl
    | with_reducible exact fun h => h
    | dsimp only
    | with_reducible apply Kept.ite
    | with_reducible apply Kept.ite1
    | with_reducible apply Kept.ite2
    | with_reducible apply KeptO.ite
    | split
    | with_reducible refine Kept.upd0 ?_ ?_ ?_ ?_ ?_ ?_
    | with_reducible refine Kept.upd1 ?_ ?_ ?_ ?_ ?_ ?_)

theorem State.watchSync_kept {s0 : State} (s : State) (old : Nat → Nat) (hk : Kept s0 s) : Kept s0 (State.watchSync s old) := by
  unfold State.watchSync
  repeat' (first
    | with_reducible assumption
    | with_reducible apply State.hbSync_kept
    | with_reducible refine Kept.foldl ?_ (fun _ _ _ => ?_)
    | with_reducible refine Kept.foldl1 ?_ (fun _ _ _ _ => ?_)
    | with_reducible refine Kept.foldl2 ?_ (fun _ _ _ _ => ?_)
    | with_reducible refine Kept.of_eq1 ?_ (by assumption)
    | with_reducible refine Kept.of_eq2 ?_ (by assumption)
    | with_reducible rfl
    | with_reducible exact fun h => h
    | dsimp only
    | with_reducible apply Kept.ite
    | with_reducible apply Kept.ite1
    | with_reducible apply Kept.ite2
    | with_reducible apply KeptO.ite
    | split
    | with_reducible refine Kept.upd0 ?_ ?_ ?_ ?_ ?_ ?_
    | with_reducible refine Kept.upd1 ?_ ?_ ?_ ?_ ?_ ?_)

theorem State.odPut_kept {s0 : State} (s : State) (e : OdE) (v : Nat) (hk : Kept s0 s) : Kept s0 (State.odPut s e v) := by
  unfold State.odPut
  repeat' (first
    | with_reducible assumption
    | with_reducible apply State.odSet_kept
    | with_reducible apply State.watchSync_kept
    | with_reducible apply State.hbSync_kept
    | with_reducible refine Kept.foldl ?_ (fun _ _ _ => ?_)
    | with_reducible refine Kept.foldl1 ?_ (fun _ _ _ _ => ?_)
    | with_reducible refine Kept.foldl2 ?_ (fun _ _ _ _ => ?_)
    | with_reducible refine Kept.of_eq1 ?_ (by assumption)
    | with_reducible refine Kept.of_eq2 ?_ (by assumption)
    | with_reducible rfl
    | with_reducible exact fun h => h
    | dsimp only
    | with_reducible apply Kept.ite
    | with_reducible apply Kept.ite1
    | with_reducible apply Kept.ite2
    | with_reducible apply KeptO.ite
    | split
    | with_reducible refine Kept.upd0 ?_ ?_ ?_ ?_ ?_ ?_
    | with_reducible refine Kept.upd1 ?_ ?_ ?_ ?_ ?_ ?_)

theorem State.odApply_kept {s0 : State} (s : State) (who node : Nat) (e : OdE) (v : Nat) (hk : Kept s0 s) : Kept s0 (State.odApply s who node e v).2 := by
  unfold State.odApply
  repeat' (first
    | with_reducible assumption
    | with_reducible apply State.odPut_kept
    | with_reducible apply State.odSave_kept
    | with_reducible apply State.odEnvelope_kept
    | with_reducible apply State.odSet_kept
    | with_reducible apply State.ldgUnfreeze_kept
    | with_reducible apply State.ldgFreeze_kept
    | with_reducible apply State.ldgClear_kept
    | with_reducible refine Kept.of_eq1 ?_ (by assumption)
    | with_reducible refine Kept.of_eq2 ?_ (by assumption)
    | with_reducible rfl
    | with_reducible exact fun h => h
    | dsimp only
    | with_reducible apply Kept.ite
    | with_reducible apply Kept.ite1
    | with_reducible apply Kept.ite2
    | split
    | with_reducible refine Kept.upd0 ?_ ?_ ?_ ?_ ?_ ?_)

theorem State.odWrite_kept {s0 : State} (s : State) (who node idx sub : Nat) (bs : List Byte) (hk : Kept s0 s) : Kept s0 (State.odWrite s who node idx sub bs).2 := by
  unfold State.odWrite
  repeat' (first
    | with_reducible assumption
    | with_reducible apply State.odApply_kept
    | with_reducible refine Kept.of_eq2 ?_ (by assumption)
    | with_reducible rfl
    | with_reducible exact fun h => h
    | dsimp only
    | with_reducible apply Kept.ite
    | with_reducible apply Kept.ite1
    | with_reducible apply Kept.ite2
    | split
    | with_reducible refine Kept.upd0 ?_ ?_ ?_ ?_ ?_ ?_)

theorem State.odRead_kept {s0 : State} (s : State) (idx sub : Nat) (hk : Kept s0 s) : Kept s0 (State.odRead s idx sub).2.2 := by
  unfold State.odRead
  repeat' (first
    | with_reducible assumption
    | with_reducible apply State.odGet_kept
    | with_reducible refine Kept.of_eq2 ?_ (by assumption)
    | with_reducible refine Kept.of_eq3 ?_ (by assumption)
    | with_reducible rfl
    | with_reducible exact fun h => h
    | dsimp only
    | with_reducible apply Kept.ite
    | with_reducible apply Kept.ite1
    | with_reducible apply Kept.ite2
    | split
    | with_reducible refine Kept.upd0 ?_ ?_ ?_ ?_ ?_ ?_)

theorem State.odLoad_kept {s0 : State} (s : State) (which : Nat → Bool) (hk : Kept s0 s) : Kept s0 (State.odLoad s which) := by
  unfold State.odLoad
  repeat' (first
    | with_reducible assumption
    | with_reducible apply State.odEnvelope_kept
    | with_reducible apply State.odSet_kept
    | with_reducible refine Kept.foldl ?_ (fun _ _ _ => ?_)
    | with_reducible refine Kept.foldl1 ?_ (fun _ _ _ _ => ?_)
    | with_reducible refine Kept.foldl2 ?_ (fun _ _ _ _ => ?_)
    | with_reducible refine Kept.of_eq1 ?_ (by assumption)
    | with_reducible refine Kept.of_eq2 ?_ (by assumption)
    | with_reducible rfl
    | with_reducible exact fun h => h
    | dsimp only
    | with_reducible apply Kept.ite
    | split
    | with_reducible refine Kept.upd0 ?_ ?_ ?_ ?_ ?_ ?_)

end Sys2Proof.Machine
end

