-- ==== Sys2Proof/Laws/KeptCanopen.lean ====
section
/-! SUPPORT. Every operation of Machine/Canopen.lean keeps what no command may change. -/

namespace Sys2Proof.Machine

set_option linter.all false

theorem State.updOdm_kept {s0 : State} (s : State) (f : Odm → Odm) (hk : Kept s0 s) : Kept s0 (State.updOdm s f) := by
  unfold State.updOdm
  repeat' (first
    | with_reducible assumption
    | with_reducible rfl
    | with_reducible exact fun h => h
    | dsimp only
    | split
    | with_reducible refine Kept.upd0 ?_ ?_ ?_ ?_ ?_ ?_)

theorem State.sendCan_kept {s0 : State} (s : State) (cob : Nat) (d : List Nat) (hk : Kept s0 s) : Kept s0 (State.sendCan s cob d) := by
  unfold State.sendCan
  repeat' (first
    | with_reducible assumption
    | with_reducible apply State.count_kept
    | with_reducible apply State.emit_kept
    | with_reducible refine Kept.foldl ?_ (fun _ _ _ => ?_)
    | with_reducible refine Kept.foldl1 ?_ (fun _ _ _ _ => ?_)
    | with_reducible refine Kept.foldl2 ?_ (fun _ _ _ _ => ?_)
    | with_reducible refine Kept.of_eq1 ?_ (by assumption)
    | with_reducible refine Kept.of_eq2 ?_ (by assumption)
    | with_reducible rfl
    | with_reducible exact fun h => h
    | dsimp only
    | with_reducible apply Kept.ite
    | split)

theorem State.sendUsdo_kept {s0 : State} (s : State) (bus client code : Nat) (bs : List Byte) (hk : Kept s0 s) : Kept s0 (State.sendUsdo s bus client code bs) := by
  unfold State.sendUsdo
  repeat' (first
    | with_reducible assumption
    | with_reducible apply State.count_kept
    | with_reducible apply State.emit_kept
    | with_reducible rfl
    | with_reducible exact fun h => h
    | dsimp only
    | with_reducible apply Kept.ite
    | split)

theorem State.canRx_kept {s0 : State} (s : State) (bus cob : Nat) (hk : Kept s0 s) : Kept s0 (State.canRx s bus cob).2 := by
  unfold State.canRx
  repeat' (first
    | with_reducible assumption
    | with_reducible apply State.updOdm_kept
    | with_reducible apply State.count_kept
    | with_reducible refine Kept.of_eq2 ?_ (by assumption)
    | with_reducible rfl
    | with_reducible exact fun h => h
    | dsimp only
    | with_reducible apply Kept.ite
    | with_reducible apply Kept.ite1
    | with_reducible apply Kept.ite2
    | split
    | with_reducible refine Kept.upd0 ?_ ?_ ?_ ?_ ?_ ?_)

theorem State.nmtSet_kept {s0 : State} (s : State) (st : Nat) (hk : Kept s0 s) : Kept s0 (State.nmtSet s st) := by
  unfold State.nmtSet
  repeat' (first
    | with_reducible assumption
    | with_reducible apply State.raise_kept
    | with_reducible apply State.wr_kept
    | with_reducible rfl
    | with_reducible exact fun h => h
    | dsimp only
    | with_reducible apply Kept.ite
    | split)

theorem State.bootUp_kept {s0 : State} (s : State) (hk : Kept s0 s) : Kept s0 (State.bootUp s) := by
  unfold State.bootUp
  repeat' (first
    | with_reducible assumption
    | with_reducible apply State.nmtSet_kept
    | with_reducible apply State.sendCan_kept
    | with_reducible apply State.updOdm_kept
    | with_reducible apply State.wrs_kept
    | with_reducible apply State.fl_kept
    | with_reducible apply State.wr_kept
    | with_reducible rfl
    | with_reducible exact fun h => h
    | dsimp only
    | split
    | with_reducible refine Kept.upd0 ?_ ?_ ?_ ?_ ?_ ?_)

theorem State.odmStart_kept {s0 : State} (s : State) (recovery : Bool) (hk : Kept s0 s) : Kept s0 (State.odmStart s recovery) := by
  unfold State.odmStart
  repeat' (first
    | with_reducible assumption
    | with_reducible apply State.bootUp_kept
    | with_reducible apply State.odLoad_kept
    | with_reducible apply State.emcy_kept
    | with_reducible apply State.fl_kept
    | with_reducible rfl
    | with_reducible exact fun h => h
    | dsimp only
    | with_reducible apply Kept.ite
    | split)

theorem State.commError_kept {s0 : State} (s : State) (hk : Kept s0 s) : Kept s0 (State.commError s) := by
  unfold State.commError
  repeat' (first
    | with_reducible assumption
    | with_reducible apply State.nmtSet_kept
    | with_reducible rfl
    | with_reducible exact fun h => h
    | dsimp only
    | with_reducible apply Kept.ite
    | split)

theorem State.nmtCmd_kept {s0 : State} (s : State) (node bus : Nat) (f : State → State) (h_f : ∀ a0, Kept s0 a0 → Kept s0 (f a0)) (hk : Kept s0 s) : Kept s0 (State.nmtCmd s node bus f) := by
  unfold State.nmtCmd
  repeat' (first
    | with_reducible assumption
    | with_reducible apply h_f
    | with_reducible apply State.canRx_kept
    | with_reducible refine Kept.of_eq2 ?_ (by assumption)
    | with_reducible rfl
    | with_reducible exact fun h => h
    | dsimp only
    | with_reducible apply Kept.ite
    | with_reducible apply Kept.ite1
    | with_reducible apply Kept.ite2
    | split)

theorem execNmtStart_kept {s0 : State} (node bus : Nat) (s : State) (hk : Kept s0 s) : KeptO s0 (execNmtStart node bus s) := by
  unfold execNmtStart
  repeat' (first
    | with_reducible assumption
    | intro _
    | with_reducible apply Kept.next
    | with_reducible apply State.nmtCmd_kept
    | with_reducible apply State.nmtSet_kept
    | with_reducible rfl
    | with_reducible exact fun h => h
    | dsimp only
    | split)

theorem execNmtStop_kept {s0 : State} (node bus : Nat) (s : State) (hk : Kept s0 s) : KeptO s0 (execNmtStop node bus s) := by
  unfold execNmtStop
  repeat' (first
    | with_reducible assumption
    | intro _
    | with_reducible apply Kept.next
    | with_reducible apply State.nmtCmd_kept
    | with_reducible apply State.nmtSet_kept
    | with_reducible rfl
    | with_reducible exact fun h => h
    | dsimp only
    | split)

theorem execNmtEnterPreop_kept {s0 : State} (node bus : Nat) (s : State) (hk : Kept s0 s) : KeptO s0 (execNmtEnterPreop node bus s) := by
  unfold execNmtEnterPreop
  repeat' (first
    | with_reducible assumption
    | intro _
    | with_reducible apply Kept.next
    | with_reducible apply State.nmtCmd_kept
    | with_reducible apply State.nmtSet_kept
    | with_reducible rfl
    | with_reducible exact fun h => h
    | dsimp only
    | split)

theorem State.resetComm_kept {s0 : State} (s : State) (which : Nat → Bool) (hk : Kept s0 s) : Kept s0 (State.resetComm s which) := by
  unfold State.resetComm
  repeat' (first
    | with_reducible assumption
    | with_reducible apply State.watchSync_kept
    | with_reducible apply State.bootUp_kept
    | with_reducible apply State.nmtSet_kept
    | with_reducible apply State.odLoad_kept
    | with_reducible rfl
    | with_reducible exact fun h => h
    | dsimp only
    | split
    | with_reducible refine Kept.upd0 ?_ ?_ ?_ ?_ ?_ ?_)

theorem execNmtResetComm_kept {s0 : State} (node bus : Nat) (s : State) (hk : Kept s0 s) : KeptO s0 (execNmtResetComm node bus s) := by
  unfold execNmtResetComm
  repeat' (first
    | with_reducible assumption
    | intro _
    | with_reducible apply Kept.next
    | with_reducible apply State.resetComm_kept
    | with_reducible apply State.nmtCmd_kept
    | with_reducible rfl
    | with_reducible exact fun h => h
    | dsimp only
    | split)

theorem execNmtResetNode_kept {s0 : State} (node bus : Nat) (s : State) (hk : Kept s0 s) : KeptO s0 (execNmtResetNode node bus s) := by
  unfold execNmtResetNode
  repeat' (first
    | with_reducible assumption
    | intro _
    | with_reducible apply Kept.next
    | with_reducible apply State.resetComm_kept
    | with_reducible apply State.nmtCmd_kept
    | with_reducible apply State.incident_kept
    | with_reducible refine Kept.of_eq2 ?_ (by assumption)
    | with_reducible rfl
    | with_reducible exact fun h => h
    | dsimp only
    | with_reducible apply Kept.ite
    | with_reducible apply Kept.ite1
    | with_reducible apply Kept.ite2
    | with_reducible apply KeptO.ite
    | split)

theorem execHeartbeatProduce_kept {s0 : State} (s : State) (hk : Kept s0 s) : KeptO s0 (execHeartbeatProduce s) := by
  unfold execHeartbeatProduce
  repeat' (first
    | with_reducible assumption
    | with_reducible apply Kept.next
    | with_reducible apply State.sendCan_kept
    | with_reducible apply State.updOdm_kept
    | with_reducible rfl
    | with_reducible exact fun h => h
    | dsimp only
    | with_reducible apply Kept.ite
    | with_reducible apply KeptO.ite
    | split
    | with_reducible refine Kept.upd0 ?_ ?_ ?_ ?_ ?_ ?_)

theorem execHeartbeatConsume_kept {s0 : State} (node bus : Nat) (s : State) (hk : Kept s0 s) : KeptO s0 (execHeartbeatConsume node bus s) := by
  unfold execHeartbeatConsume
  repeat' (first
    | with_reducible assumption
    | with_reducible apply Kept.next
    | with_reducible apply State.hbSync_kept
    | with_reducible apply State.canRx_kept
    | with_reducible apply State.updOdm_kept
    | with_reducible refine Kept.foldl ?_ (fun _ _ _ => ?_)
    | with_reducible refine Kept.of_eq2 ?_ (by assumption)
    | with_reducible refine Kept.foldl1 ?_ (fun _ _ _ _ => ?_)
    | with_reducible refine Kept.foldl2 ?_ (fun _ _ _ _ => ?_)
    | with_reducible refine Kept.of_eq1 ?_ (by assumption)
    | with_reducible rfl
    | with_reducible exact fun h => h
    | dsimp only
    | with_reducible apply Kept.ite
    | with_reducible apply Kept.ite1
    | with_reducible apply Kept.ite2
    | with_reducible apply KeptO.ite
    | split
    | with_reducible refine Kept.upd0 ?_ ?_ ?_ ?_ ?_ ?_)

theorem execHeartbeatLost_kept {s0 : State} (i : Nat) (s : State) (hk : Kept s0 s) : KeptO s0 (execHeartbeatLost i s) := by
  unfold execHeartbeatLost
  repeat' (first
    | with_reducible assumption
    | with_reducible apply Kept.next
    | with_reducible apply State.hbSync_kept
    | with_reducible apply State.commError_kept
    | with_reducible apply State.updOdm_kept
    | with_reducible apply State.emcy_kept
    | with_reducible rfl
    | with_reducible exact fun h => h
    | dsimp only
    | with_reducible apply Kept.ite
    | with_reducible apply KeptO.ite
    | split
    | with_reducible refine Kept.upd0 ?_ ?_ ?_ ?_ ?_ ?_)

theorem execSyncReceive_kept {s0 : State} (bus ago : Nat) (good : Bool) (s : State) (hk : Kept s0 s) : KeptO s0 (execSyncReceive bus ago good s) := by
  unfold execSyncReceive
  repeat' (first
    | with_reducible assumption
    | with_reducible apply Kept.next
    | with_reducible apply State.canRx_kept
    | with_reducible apply State.updOdm_kept
    | with_reducible apply State.count_kept
    | with_reducible apply State.raise_kept
    | with_reducible refine Kept.foldl ?_ (fun _ _ _ => ?_)
    | with_reducible refine Kept.of_eq2 ?_ (by assumption)
    | with_reducible refine Kept.foldl1 ?_ (fun _ _ _ _ => ?_)
    | with_reducible refine Kept.foldl2 ?_ (fun _ _ _ _ => ?_)
    | with_reducible refine Kept.of_eq1 ?_ (by assumption)
    | with_reducible rfl
    | with_reducible exact fun h => h
    | dsimp only
    | with_reducible apply Kept.ite
    | with_reducible apply Kept.ite1
    | with_reducible apply Kept.ite2
    | with_reducible apply KeptO.ite
    | split
    | with_reducible refine Kept.upd0 ?_ ?_ ?_ ?_ ?_ ?_)

theorem execSyncTickDelay_kept {s0 : State} (s : State) (hk : Kept s0 s) : KeptO s0 (execSyncTickDelay s) := by
  unfold execSyncTickDelay
  repeat' (first
    | with_reducible assumption
    | with_reducible apply Kept.next
    | with_reducible apply State.updOdm_kept
    | with_reducible apply State.extTick_kept
    | with_reducible apply State.count_kept
    | with_reducible apply State.raise_kept
    | with_reducible rfl
    | with_reducible exact fun h => h
    | dsimp only
    | with_reducible apply Kept.ite
    | with_reducible apply KeptO.ite
    | split
    | with_reducible refine Kept.upd0 ?_ ?_ ?_ ?_ ?_ ?_)

theorem execSyncProduce_kept {s0 : State} (s : State) (hk : Kept s0 s) : KeptO s0 (execSyncProduce s) := by
  unfold execSyncProduce
  repeat' (first
    | with_reducible assumption
    | with_reducible apply Kept.next
    | with_reducible apply State.sendCan_kept
    | with_reducible apply State.updOdm_kept
    | with_reducible rfl
    | with_reducible exact fun h => h
    | dsimp only
    | with_reducible apply Kept.ite
    | with_reducible apply KeptO.ite
    | split
    | with_reducible refine Kept.upd0 ?_ ?_ ?_ ?_ ?_ ?_)

theorem execEmcySend_kept {s0 : State} (s : State) (hk : Kept s0 s) : KeptO s0 (execEmcySend s) := by
  unfold execEmcySend
  repeat' (first
    | with_reducible assumption
    | with_reducible apply Kept.next
    | with_reducible apply State.sendCan_kept
    | with_reducible apply State.updOdm_kept
    | with_reducible apply State.count_kept
    | with_reducible rfl
    | with_reducible exact fun h => h
    | dsimp only
    | with_reducible apply Kept.ite
    | with_reducible apply KeptO.ite
    | split
    | with_reducible refine Kept.upd0 ?_ ?_ ?_ ?_ ?_ ?_)

theorem execBusOff_kept {s0 : State} (k : Nat) (s : State) (hk : Kept s0 s) : KeptO s0 (execBusOff k s) := by
  unfold execBusOff
  repeat' (first
    | with_reducible assumption
    | with_reducible apply Kept.next
    | with_reducible apply State.commError_kept
    | with_reducible apply State.linkRec_kept
    | with_reducible apply State.count_kept
    | with_reducible apply State.raise_kept
    | with_reducible apply State.wr_kept
    | with_reducible rfl
    | with_reducible exact fun h => h
    | dsimp only
    | with_reducible apply Kept.ite
    | with_reducible apply KeptO.ite
    | split)

theorem execBusOffRecover_kept {s0 : State} (k : Nat) (s : State) (hk : Kept s0 s) : KeptO s0 (execBusOffRecover k s) := by
  unfold execBusOffRecover
  repeat' (first
    | with_reducible assumption
    | with_reducible apply Kept.next
    | with_reducible apply State.linkRec_kept
    | with_reducible apply State.emcy_kept
    | with_reducible apply State.wrs_kept
    | with_reducible rfl
    | with_reducible exact fun h => h
    | dsimp only
    | with_reducible apply Kept.ite
    | with_reducible apply KeptO.ite
    | split)

theorem State.usdoAnswer_kept {s0 : State} (bus c : Nat) (more : Bool) (r : Nat × List Byte × State) (hk : Kept s0 r.2.2) :
    Kept s0 (State.usdoAnswer bus c more r) := by
  unfold State.usdoAnswer
  repeat' (first
    | with_reducible assumption
    | with_reducible apply State.sendUsdo_kept
    | with_reducible apply State.count_kept
    | with_reducible apply State.updOdm_kept
    | with_reducible refine Kept.foldl ?_ (fun _ _ _ => ?_)
    | with_reducible refine Kept.foldl1 ?_ (fun _ _ _ _ => ?_)
    | with_reducible refine Kept.foldl2 ?_ (fun _ _ _ _ => ?_)
    | with_reducible refine Kept.of_eq1 ?_ (by assumption)
    | with_reducible refine Kept.of_eq2 ?_ (by assumption)
    | with_reducible rfl
    | with_reducible exact fun h => h
    | dsimp only
    | with_reducible apply Kept.ite
    | with_reducible apply Kept.ite1
    | with_reducible apply Kept.ite2
    | with_reducible apply KeptO.ite
    | split
    | with_reducible refine Kept.upd0 ?_ ?_ ?_ ?_ ?_ ?_
    | with_reducible refine Kept.upd1 ?_ ?_ ?_ ?_ ?_ ?_)

theorem State.mbxEnd_kept {s0 : State} (s : State) (code len : Nat) (hk : Kept s0 s) : Kept s0 (State.mbxEnd s code len) := by
  unfold State.mbxEnd
  repeat' (first
    | with_reducible assumption
    | with_reducible apply State.count_kept
    | with_reducible apply State.wrs_kept
    | with_reducible apply State.raise_kept
    | with_reducible refine Kept.foldl ?_ (fun _ _ _ => ?_)
    | with_reducible refine Kept.foldl1 ?_ (fun _ _ _ _ => ?_)
    | with_reducible refine Kept.foldl2 ?_ (fun _ _ _ _ => ?_)
    | with_reducible refine Kept.of_eq1 ?_ (by assumption)
    | with_reducible refine Kept.of_eq2 ?_ (by assumption)
    | with_reducible rfl
    | with_reducible exact fun h => h
    | dsimp only
    | with_reducible apply Kept.ite
    | with_reducible apply Kept.ite1
    | with_reducible apply Kept.ite2
    | with_reducible apply KeptO.ite
    | split
    | with_reducible refine Kept.upd0 ?_ ?_ ?_ ?_ ?_ ?_
    | with_reducible refine Kept.upd1 ?_ ?_ ?_ ?_ ?_ ?_)

theorem State.mbxServe_kept {s0 : State} (s : State) (op : Nat) (hk : Kept s0 s) : Kept s0 (State.mbxServe s op) := by
  unfold State.mbxServe
  repeat' (first
    | with_reducible assumption
    | with_reducible apply State.odRead_kept
    | with_reducible apply State.updOdm_kept
    | with_reducible apply State.mbxEnd_kept
    | with_reducible apply State.odWrite_kept
    | with_reducible apply State.odSave_kept
    | with_reducible refine Kept.foldl ?_ (fun _ _ _ => ?_)
    | with_reducible refine Kept.foldl1 ?_ (fun _ _ _ _ => ?_)
    | with_reducible refine Kept.foldl2 ?_ (fun _ _ _ _ => ?_)
    | with_reducible refine Kept.of_eq1 ?_ (by assumption)
    | with_reducible refine Kept.of_eq2 ?_ (by assumption)
    | with_reducible rfl
    | with_reducible exact fun h => h
    | dsimp only
    | with_reducible apply Kept.ite
    | with_reducible apply Kept.ite1
    | with_reducible apply Kept.ite2
    | with_reducible apply KeptO.ite
    | split
    | with_reducible refine Kept.upd0 ?_ ?_ ?_ ?_ ?_ ?_
    | with_reducible refine Kept.upd1 ?_ ?_ ?_ ?_ ?_ ?_)

theorem State.rpdoServe_kept {s0 : State} (s : State) (n : Nat) (data : List Nat) (hk : Kept s0 s) : Kept s0 (State.rpdoServe s n data) := by
  unfold State.rpdoServe
  repeat' (first
    | with_reducible assumption
    | with_reducible apply State.count_kept
    | with_reducible apply State.emcy_kept
    | with_reducible apply State.odApply_kept
    | with_reducible refine Kept.foldl ?_ (fun _ _ _ => ?_)
    | with_reducible refine Kept.foldl1 ?_ (fun _ _ _ _ => ?_)
    | with_reducible refine Kept.foldl2 ?_ (fun _ _ _ _ => ?_)
    | with_reducible refine Kept.of_eq1 ?_ (by assumption)
    | with_reducible refine Kept.of_eq2 ?_ (by assumption)
    | with_reducible rfl
    | with_reducible exact fun h => h
    | dsimp only
    | with_reducible apply Kept.ite
    | with_reducible apply Kept.ite1
    | with_reducible apply Kept.ite2
    | with_reducible apply KeptO.ite
    | split
    | with_reducible refine Kept.upd0 ?_ ?_ ?_ ?_ ?_ ?_
    | with_reducible refine Kept.upd1 ?_ ?_ ?_ ?_ ?_ ?_)

theorem State.odServe_kept {s0 : State} (s : State) (r : OdReq) (hk : Kept s0 s) : Kept s0 (State.odServe s r) := by
  unfold State.odServe
  repeat' (first
    | with_reducible assumption
    | with_reducible apply State.mbxServe_kept
    | with_reducible apply State.rpdoServe_kept
    | with_reducible apply State.usdoAnswer_kept
    | with_reducible apply State.odRead_kept
    | with_reducible apply State.odWrite_kept
    | with_reducible refine Kept.foldl ?_ (fun _ _ _ => ?_)
    | with_reducible refine Kept.foldl1 ?_ (fun _ _ _ _ => ?_)
    | with_reducible refine Kept.foldl2 ?_ (fun _ _ _ _ => ?_)
    | with_reducible refine Kept.of_eq1 ?_ (by assumption)
    | with_reducible refine Kept.of_eq2 ?_ (by assumption)
    | with_reducible rfl
    | with_reducible exact fun h => h
    | dsimp only
    | with_reducible apply Kept.ite
    | with_reducible apply Kept.ite1
    | with_reducible apply Kept.ite2
    | with_reducible apply KeptO.ite
    | split
    | with_reducible refine Kept.upd0 ?_ ?_ ?_ ?_ ?_ ?_
    | with_reducible refine Kept.upd1 ?_ ?_ ?_ ?_ ?_ ?_)

theorem State.odWait_kept {s0 : State} (s : State) (r : OdReq) (hk : Kept s0 s) : Kept s0 (State.odWait s r) := by
  unfold State.odWait
  repeat' (first
    | with_reducible assumption
    | with_reducible apply State.updOdm_kept
    | with_reducible refine Kept.foldl ?_ (fun _ _ _ => ?_)
    | with_reducible refine Kept.foldl1 ?_ (fun _ _ _ _ => ?_)
    | with_reducible refine Kept.foldl2 ?_ (fun _ _ _ _ => ?_)
    | with_reducible refine Kept.of_eq1 ?_ (by assumption)
    | with_reducible refine Kept.of_eq2 ?_ (by assumption)
    | with_reducible rfl
    | with_reducible exact fun h => h
    | dsimp only
    | with_reducible apply Kept.ite
    | with_reducible apply Kept.ite1
    | with_reducible apply Kept.ite2
    | with_reducible apply KeptO.ite
    | split
    | with_reducible refine Kept.upd0 ?_ ?_ ?_ ?_ ?_ ?_
    | with_reducible refine Kept.upd1 ?_ ?_ ?_ ?_ ?_ ?_)

theorem State.odTake_kept {s0 : State} (s : State) (r : OdReq) (hk : Kept s0 s) : Kept s0 (State.odTake s r) := by
  unfold State.odTake
  repeat' (first
    | with_reducible assumption
    | with_reducible apply State.odWait_kept
    | with_reducible apply State.odServe_kept
    | with_reducible refine Kept.foldl ?_ (fun _ _ _ => ?_)
    | with_reducible refine Kept.foldl1 ?_ (fun _ _ _ _ => ?_)
    | with_reducible refine Kept.foldl2 ?_ (fun _ _ _ _ => ?_)
    | with_reducible refine Kept.of_eq1 ?_ (by assumption)
    | with_reducible refine Kept.of_eq2 ?_ (by assumption)
    | with_reducible rfl
    | with_reducible exact fun h => h
    | dsimp only
    | with_reducible apply Kept.ite
    | with_reducible apply Kept.ite1
    | with_reducible apply Kept.ite2
    | with_reducible apply KeptO.ite
    | split
    | with_reducible refine Kept.upd0 ?_ ?_ ?_ ?_ ?_ ?_
    | with_reducible refine Kept.upd1 ?_ ?_ ?_ ?_ ?_ ?_)

theorem State.odDrain_kept {s0 : State} (s : State) (hk : Kept s0 s) : Kept s0 (State.odDrain s) := by
  unfold State.odDrain
  repeat' (first
    | with_reducible assumption
    | with_reducible apply State.odServe_kept
    | with_reducible apply State.updOdm_kept
    | with_reducible refine Kept.foldl ?_ (fun _ _ _ => ?_)
    | with_reducible refine Kept.foldl1 ?_ (fun _ _ _ _ => ?_)
    | with_reducible refine Kept.foldl2 ?_ (fun _ _ _ _ => ?_)
    | with_reducible refine Kept.of_eq1 ?_ (by assumption)
    | with_reducible refine Kept.of_eq2 ?_ (by assumption)
    | with_reducible rfl
    | with_reducible exact fun h => h
    | dsimp only
    | with_reducible apply Kept.ite
    | with_reducible apply Kept.ite1
    | with_reducible apply Kept.ite2
    | with_reducible apply KeptO.ite
    | split
    | with_reducible refine Kept.upd0 ?_ ?_ ?_ ?_ ?_ ?_
    | with_reducible refine Kept.upd1 ?_ ?_ ?_ ?_ ?_ ?_)

theorem State.usdo_kept {s0 : State} (s : State) (bus c : Nat) (r : OdReq) (hk : Kept s0 s) : Kept s0 (State.usdo s bus c r) := by
  unfold State.usdo
  repeat' (first
    | with_reducible assumption
    | with_reducible apply State.canRx_kept
    | with_reducible apply State.count_kept
    | with_reducible apply State.sendUsdo_kept
    | with_reducible apply State.odTake_kept
    | with_reducible refine Kept.foldl ?_ (fun _ _ _ => ?_)
    | with_reducible refine Kept.foldl1 ?_ (fun _ _ _ _ => ?_)
    | with_reducible refine Kept.foldl2 ?_ (fun _ _ _ _ => ?_)
    | with_reducible refine Kept.of_eq1 ?_ (by assumption)
    | with_reducible refine Kept.of_eq2 ?_ (by assumption)
    | with_reducible rfl
    | with_reducible exact fun h => h
    | dsimp only
    | with_reducible apply Kept.ite
    | with_reducible apply Kept.ite1
    | with_reducible apply Kept.ite2
    | with_reducible apply KeptO.ite
    | split
    | with_reducible refine Kept.upd0 ?_ ?_ ?_ ?_ ?_ ?_
    | with_reducible refine Kept.upd1 ?_ ?_ ?_ ?_ ?_ ?_)

theorem execUsdoUpload_kept {s0 : State} (bus c idx sub : Nat) (more : Bool) (s : State) (hk : Kept s0 s) : KeptO s0 (execUsdoUpload bus c idx sub more s) := by
  unfold execUsdoUpload
  repeat' (first
    | with_reducible assumption
    | intro _
    | with_reducible apply Kept.next
    | with_reducible apply State.usdo_kept
    | with_reducible apply State.odRead_kept
    | with_reducible refine Kept.of_eq3 ?_ (by assumption)
    | with_reducible rfl
    | with_reducible exact fun h => h
    | dsimp only
    | with_reducible apply Kept.ite
    | with_reducible apply Kept.ite1
    | with_reducible apply Kept.ite2
    | with_reducible apply KeptO.ite
    | split)

theorem execUsdoDownload_kept {s0 : State} (bus c idx sub : Nat) (data : List Nat) (more : Bool) (s : State) (hk : Kept s0 s) : KeptO s0 (execUsdoDownload bus c idx sub data more s) := by
  unfold execUsdoDownload
  repeat' (first
    | with_reducible assumption
    | intro _
    | with_reducible apply Kept.next
    | with_reducible apply State.usdo_kept
    | with_reducible apply State.odWrite_kept
    | with_reducible refine Kept.of_eq2 ?_ (by assumption)
    | with_reducible rfl
    | with_reducible exact fun h => h
    | dsimp only
    | with_reducible apply Kept.ite
    | with_reducible apply Kept.ite1
    | with_reducible apply Kept.ite2
    | with_reducible apply KeptO.ite
    | split)

theorem execUsdoTimeout_kept {s0 : State} (c : Nat) (s : State) (hk : Kept s0 s) : KeptO s0 (execUsdoTimeout c s) := by
  unfold execUsdoTimeout
  repeat' (first
    | with_reducible assumption
    | with_reducible apply Kept.next
    | with_reducible apply State.sendUsdo_kept
    | with_reducible apply State.updOdm_kept
    | with_reducible apply State.count_kept
    | with_reducible rfl
    | with_reducible exact fun h => h
    | dsimp only
    | with_reducible apply Kept.ite
    | with_reducible apply KeptO.ite
    | split
    | with_reducible refine Kept.upd0 ?_ ?_ ?_ ?_ ?_ ?_)

theorem execStoreParameters_kept {s0 : State} (bus c sig : Nat) (s : State) (hk : Kept s0 s) : KeptO s0 (execStoreParameters bus c sig s) := by
  unfold execStoreParameters
  repeat' (first
    | with_reducible assumption
    | intro _
    | with_reducible apply Kept.next
    | with_reducible apply State.usdo_kept
    | with_reducible apply State.odWrite_kept
    | with_reducible refine Kept.of_eq2 ?_ (by assumption)
    | with_reducible rfl
    | with_reducible exact fun h => h
    | dsimp only
    | split)

theorem execRestoreDefaults_kept {s0 : State} (bus c sig : Nat) (s : State) (hk : Kept s0 s) : KeptO s0 (execRestoreDefaults bus c sig s) := by
  unfold execRestoreDefaults
  repeat' (first
    | with_reducible assumption
    | intro _
    | with_reducible apply Kept.next
    | with_reducible apply State.usdo_kept
    | with_reducible apply State.odWrite_kept
    | with_reducible refine Kept.of_eq2 ?_ (by assumption)
    | with_reducible rfl
    | with_reducible exact fun h => h
    | dsimp only
    | split)

theorem execSaveDone_kept {s0 : State} (s : State) (hk : Kept s0 s) : KeptO s0 (execSaveDone s) := by
  unfold execSaveDone
  repeat' (first
    | with_reducible assumption
    | with_reducible apply Kept.next
    | with_reducible apply State.mbxEnd_kept
    | with_reducible apply State.updOdm_kept
    | with_reducible apply State.raise_kept
    | with_reducible refine Kept.foldl ?_ (fun _ _ _ => ?_)
    | with_reducible refine Kept.foldl1 ?_ (fun _ _ _ _ => ?_)
    | with_reducible refine Kept.foldl2 ?_ (fun _ _ _ _ => ?_)
    | with_reducible refine Kept.of_eq1 ?_ (by assumption)
    | with_reducible refine Kept.of_eq2 ?_ (by assumption)
    | with_reducible rfl
    | with_reducible exact fun h => h
    | dsimp only
    | with_reducible apply Kept.ite
    | with_reducible apply KeptO.ite
    | split
    | with_reducible refine Kept.upd0 ?_ ?_ ?_ ?_ ?_ ?_)

theorem State.sample_kept {s0 : State} (s : State) (ws : List Nat) (hk : Kept s0 s) : Kept s0 (State.sample s ws).2 := by
  unfold State.sample
  repeat' (first
    | with_reducible assumption
    | with_reducible apply State.odGet_kept
    | with_reducible refine Kept.foldl ?_ (fun _ _ _ => ?_)
    | with_reducible refine Kept.of_eq2 ?_ (by assumption)
    | with_reducible refine Kept.foldl1 ?_ (fun _ _ _ _ => ?_)
    | with_reducible refine Kept.foldl2 ?_ (fun _ _ _ _ => ?_)
    | with_reducible refine Kept.of_eq1 ?_ (by assumption)
    | with_reducible rfl
    | with_reducible exact fun h => h
    | dsimp only
    | split
    | with_reducible refine Kept.upd0 ?_ ?_ ?_ ?_ ?_ ?_)

theorem execTpdo_kept {s0 : State} (n : Nat) (s : State) (hk : Kept s0 s) : KeptO s0 (execTpdo n s) := by
  unfold execTpdo
  repeat' (first
    | with_reducible assumption
    | with_reducible apply Kept.next
    | with_reducible apply State.sample_kept
    | with_reducible apply State.sendCan_kept
    | with_reducible apply State.updOdm_kept
    | with_reducible refine Kept.of_eq2 ?_ (by assumption)
    | with_reducible rfl
    | with_reducible exact fun h => h
    | dsimp only
    | with_reducible apply Kept.ite
    | with_reducible apply Kept.ite1
    | with_reducible apply Kept.ite2
    | with_reducible apply KeptO.ite
    | split
    | with_reducible refine Kept.upd0 ?_ ?_ ?_ ?_ ?_ ?_)

theorem execRpdo_kept {s0 : State} (n bus : Nat) (data : List Nat) (s : State) (hk : Kept s0 s) : KeptO s0 (execRpdo n bus data s) := by
  unfold execRpdo
  repeat' (first
    | with_reducible assumption
    | with_reducible apply State.odTake_kept
    | with_reducible apply Kept.next
    | with_reducible apply State.canRx_kept
    | with_reducible apply State.odApply_kept
    | with_reducible apply State.emcy_kept
    | with_reducible apply State.count_kept
    | with_reducible refine Kept.foldl ?_ (fun _ _ _ => ?_)
    | with_reducible refine Kept.of_eq2 ?_ (by assumption)
    | with_reducible refine Kept.foldl1 ?_ (fun _ _ _ _ => ?_)
    | with_reducible refine Kept.foldl2 ?_ (fun _ _ _ _ => ?_)
    | with_reducible refine Kept.of_eq1 ?_ (by assumption)
    | with_reducible rfl
    | with_reducible exact fun h => h
    | dsimp only
    | with_reducible apply Kept.ite
    | with_reducible apply Kept.ite1
    | with_reducible apply Kept.ite2
    | with_reducible apply KeptO.ite
    | split)

theorem State.mbxGo_kept {s0 : State} (s : State) (op : Nat) (hk : Kept s0 s) : Kept s0 (State.mbxGo s op) := by
  unfold State.mbxGo
  repeat' (first
    | with_reducible assumption
    | with_reducible apply State.cfgErr_kept
    | with_reducible apply State.fl_kept
    | with_reducible apply State.wr_kept
    | with_reducible apply State.odTake_kept
    | with_reducible refine Kept.foldl ?_ (fun _ _ _ => ?_)
    | with_reducible refine Kept.foldl1 ?_ (fun _ _ _ _ => ?_)
    | with_reducible refine Kept.foldl2 ?_ (fun _ _ _ _ => ?_)
    | with_reducible refine Kept.of_eq1 ?_ (by assumption)
    | with_reducible refine Kept.of_eq2 ?_ (by assumption)
    | with_reducible rfl
    | with_reducible exact fun h => h
    | dsimp only
    | with_reducible apply Kept.ite
    | with_reducible apply Kept.ite1
    | with_reducible apply Kept.ite2
    | with_reducible apply KeptO.ite
    | split
    | with_reducible refine Kept.upd0 ?_ ?_ ?_ ?_ ?_ ?_
    | with_reducible refine Kept.upd1 ?_ ?_ ?_ ?_ ?_ ?_)

theorem execMbxRead_kept {s0 : State} (s : State) (hk : Kept s0 s) : KeptO s0 (execMbxRead s) := by
  unfold execMbxRead
  repeat' (first
    | with_reducible assumption
    | intro _
    | with_reducible apply Kept.next
    | with_reducible apply State.mbxGo_kept
    | with_reducible apply State.mbxEnd_kept
    | with_reducible apply State.updOdm_kept
    | with_reducible apply State.odRead_kept
    | with_reducible refine Kept.of_eq3 ?_ (by assumption)
    | with_reducible rfl
    | with_reducible exact fun h => h
    | dsimp only
    | with_reducible apply Kept.ite
    | with_reducible apply Kept.ite1
    | with_reducible apply Kept.ite2
    | with_reducible apply KeptO.ite
    | split
    | with_reducible refine Kept.upd0 ?_ ?_ ?_ ?_ ?_ ?_)

theorem execMbxWrite_kept {s0 : State} (s : State) (hk : Kept s0 s) : KeptO s0 (execMbxWrite s) := by
  unfold execMbxWrite
  repeat' (first
    | with_reducible assumption
    | intro _
    | with_reducible apply Kept.next
    | with_reducible apply State.mbxGo_kept
    | with_reducible apply State.mbxEnd_kept
    | with_reducible apply State.updOdm_kept
    | with_reducible apply State.odWrite_kept
    | with_reducible refine Kept.of_eq2 ?_ (by assumption)
    | with_reducible rfl
    | with_reducible exact fun h => h
    | dsimp only
    | with_reducible apply Kept.ite
    | with_reducible apply Kept.ite1
    | with_reducible apply Kept.ite2
    | with_reducible apply KeptO.ite
    | split
    | with_reducible refine Kept.upd0 ?_ ?_ ?_ ?_ ?_ ?_)

theorem execMbxSave_kept {s0 : State} (s : State) (hk : Kept s0 s) : KeptO s0 (execMbxSave s) := by
  unfold execMbxSave
  repeat' (first
    | with_reducible assumption
    | intro _
    | with_reducible apply Kept.next
    | with_reducible apply State.mbxGo_kept
    | with_reducible apply State.mbxEnd_kept
    | with_reducible apply State.odSave_kept
    | with_reducible rfl
    | with_reducible exact fun h => h
    | dsimp only
    | with_reducible apply Kept.ite
    | with_reducible apply KeptO.ite
    | split)

theorem execMbxRestore_kept {s0 : State} (s : State) (hk : Kept s0 s) : KeptO s0 (execMbxRestore s) := by
  unfold execMbxRestore
  repeat' (first
    | with_reducible assumption
    | intro _
    | with_reducible apply Kept.next
    | with_reducible apply State.mbxGo_kept
    | with_reducible apply State.mbxEnd_kept
    | with_reducible apply State.odSave_kept
    | with_reducible rfl
    | with_reducible exact fun h => h
    | dsimp only
    | with_reducible apply Kept.ite
    | with_reducible apply KeptO.ite
    | split)

end Sys2Proof.Machine
end

