-- ==== Sys2Proof/Laws/KeptTallyCmds.lean ====
section
/-! SUPPORT. Every operation of Machine/TallyCmds.lean keeps what no command may change. -/

namespace Sys2Proof.Machine

set_option linter.all false

theorem execTallySignal_kept {s0 : State} (t : Nat) (vs : List Nat) (s : State) (hk : Kept s0 s) : KeptO s0 (execTallySignal t vs s) := by
  unfold execTallySignal
  repeat' (first
    | with_reducible assumption
    | with_reducible apply Kept.next
    | with_reducible apply State.signalMany_kept
    | with_reducible rfl
    | with_reducible exact fun h => h
    | dsimp only
    | with_reducible apply Kept.ite
    | with_reducible apply KeptO.ite
    | split)

theorem execExportWriteError_kept {s0 : State} (t : Nat) (s : State) (hk : Kept s0 s) : KeptO s0 (execExportWriteError t s) := by
  unfold execExportWriteError
  repeat' (first
    | with_reducible assumption
    | with_reducible apply Kept.next
    | with_reducible apply State.exportLost_kept
    | with_reducible rfl
    | with_reducible exact fun h => h
    | dsimp only
    | with_reducible apply Kept.ite
    | with_reducible apply KeptO.ite
    | split
    | with_reducible refine Kept.upd0 ?_ ?_ ?_ ?_ ?_ ?_)

theorem State.polledGlz_kept {s0 : State} (s : State) (who : Waiter) (hk : Kept s0 s) : Kept s0 (State.polledGlz s who) := by
  unfold State.polledGlz
  repeat' (first
    | with_reducible assumption
    | with_reducible apply State.pend_kept
    | with_reducible refine Kept.foldl ?_ (fun _ _ _ => ?_)
    | with_reducible refine Kept.foldl1 ?_ (fun _ _ _ _ => ?_)
    | with_reducible refine Kept.foldl2 ?_ (fun _ _ _ _ => ?_)
    | with_reducible refine Kept.of_eq1 ?_ (by assumption)
    | with_reducible refine Kept.of_eq2 ?_ (by assumption)
    | with_reducible rfl
    | with_reducible exact fun h => h
    | dsimp only
    | with_reducible apply Kept.ite
    | with_reducible apply Kept.ite1
    | with_reducible apply Kept.ite2
    | with_reducible apply KeptO.ite
    | split
    | with_reducible refine Kept.upd0 ?_ ?_ ?_ ?_ ?_ ?_
    | with_reducible refine Kept.upd1 ?_ ?_ ?_ ?_ ?_ ?_)

theorem execWaitPoll_kept {s0 : State} (t k : Nat) (s : State) (hk : Kept s0 s) : KeptO s0 (execWaitPoll t k s) := by
  unfold execWaitPoll
  repeat' (first
    | with_reducible assumption
    | with_reducible apply State.polledGlz_kept
    | with_reducible apply Kept.next
    | with_reducible apply State.wakeWaiter_kept
    | with_reducible apply State.dropWait_kept
    | with_reducible apply State.waitSync_kept
    | with_reducible apply State.free_kept
    | with_reducible apply State.wr_kept
    | with_reducible refine Kept.of_eq2 ?_ (by assumption)
    | with_reducible rfl
    | with_reducible exact fun h => h
    | dsimp only
    | with_reducible apply Kept.ite
    | with_reducible apply Kept.ite1
    | with_reducible apply Kept.ite2
    | with_reducible apply KeptO.ite
    | split
    | with_reducible refine Kept.upd0 ?_ ?_ ?_ ?_ ?_ ?_)

theorem State.vfViol_kept {s0 : State} (s : State) (n : Nat) (hk : Kept s0 s) : Kept s0 (State.vfViol s n) := by
  unfold State.vfViol
  repeat' (first
    | with_reducible assumption
    | with_reducible apply State.count_kept
    | with_reducible apply State.raise_kept
    | with_reducible apply State.wr_kept
    | with_reducible rfl
    | with_reducible exact fun h => h
    | dsimp only
    | split)

theorem State.accErr_kept {s0 : State} (s : State) (spl : Bool) (func bar off : Nat) (hk : Kept s0 s) : Kept s0 (State.accErr s spl func bar off) := by
  unfold State.accErr
  repeat' (first
    | with_reducible assumption
    | with_reducible apply State.raise_kept
    | with_reducible apply State.wrs_kept
    | with_reducible apply State.fl_kept
    | with_reducible rfl
    | with_reducible exact fun h => h
    | dsimp only
    | with_reducible apply Kept.ite
    | split)

theorem State.setLow_kept {s0 : State} (s : State) (f : Nat) (x : Option (Nat × Nat)) (hk : Kept s0 s) : Kept s0 (State.setLow s f x) := by
  unfold State.setLow
  repeat' (first
    | with_reducible assumption
    | with_reducible rfl
    | with_reducible exact fun h => h
    | dsimp only
    | split
    | with_reducible refine Kept.upd0 ?_ ?_ ?_ ?_ ?_ ?_)

theorem State.bar2_kept {s0 : State} (s : State) (func t : Nat) (f : State → State) (h_f : ∀ a0, Kept s0 a0 → Kept s0 (f a0)) (hk : Kept s0 s) : Kept s0 (State.bar2 s func t f) := by
  unfold State.bar2
  repeat' (first
    | with_reducible assumption
    | with_reducible apply h_f
    | with_reducible apply State.vfViol_kept
    | with_reducible apply State.wakeAccess_kept
    | with_reducible rfl
    | with_reducible exact fun h => h
    | dsimp only
    | with_reducible apply Kept.ite
    | split)

theorem execSignalWrite_kept {s0 : State} (func t v : Nat) (s : State) (hk : Kept s0 s) : KeptO s0 (execSignalWrite func t v s) := by
  unfold execSignalWrite
  repeat' (first
    | with_reducible assumption
    | intro _
    | with_reducible apply Kept.next
    | with_reducible apply State.bar2_kept
    | with_reducible apply State.setLow_kept
    | with_reducible apply State.signal_kept
    | with_reducible rfl
    | with_reducible exact fun h => h
    | dsimp only
    | with_reducible apply Kept.ite
    | with_reducible apply KeptO.ite
    | split
    | with_reducible refine Kept.upd0 ?_ ?_ ?_ ?_ ?_ ?_)

theorem execSignalLowWrite_kept {s0 : State} (func t v : Nat) (s : State) (hk : Kept s0 s) : KeptO s0 (execSignalLowWrite func t v s) := by
  unfold execSignalLowWrite
  repeat' (first
    | with_reducible assumption
    | intro _
    | with_reducible apply Kept.next
    | with_reducible apply State.bar2_kept
    | with_reducible apply State.setLow_kept
    | with_reducible rfl
    | with_reducible exact fun h => h
    | dsimp only
    | split)

theorem execSignalHighWrite_kept {s0 : State} (func t v : Nat) (s : State) (hk : Kept s0 s) : KeptO s0 (execSignalHighWrite func t v s) := by
  unfold execSignalHighWrite
  repeat' (first
    | with_reducible assumption
    | intro _
    | with_reducible apply Kept.next
    | with_reducible apply State.bar2_kept
    | with_reducible apply State.setLow_kept
    | with_reducible apply State.accErr_kept
    | with_reducible apply State.signal_kept
    | with_reducible rfl
    | with_reducible exact fun h => h
    | dsimp only
    | with_reducible apply Kept.ite
    | with_reducible apply KeptO.ite
    | split
    | with_reducible refine Kept.upd0 ?_ ?_ ?_ ?_ ?_ ?_)

theorem execApertureAccess_kept {s0 : State} (c eng va : Nat) (write : Bool) (size v : Nat) (s : State) (hk : Kept s0 s) : KeptO s0 (execApertureAccess c eng va write size v s) := by
  unfold execApertureAccess
  repeat' (first
    | with_reducible assumption
    | with_reducible apply Kept.next
    | with_reducible apply State.accFault_kept
    | with_reducible apply State.translate_kept
    | with_reducible apply State.paWrite_kept
    | with_reducible apply State.paRead_kept
    | with_reducible refine Kept.of_eq1 ?_ (by assumption)
    | with_reducible rfl
    | with_reducible exact fun h => h
    | dsimp only
    | with_reducible apply Kept.ite
    | with_reducible apply Kept.ite1
    | with_reducible apply Kept.ite2
    | with_reducible apply KeptO.ite
    | split
    | with_reducible refine Kept.upd0 ?_ ?_ ?_ ?_ ?_ ?_)

theorem execTlyInitGo_kept {s0 : State} (s : State) (hk : Kept s0 s) : KeptO s0 (execTlyInitGo s) := by
  unfold execTlyInitGo
  repeat' (first
    | with_reducible assumption
    | with_reducible apply Kept.next
    | with_reducible refine State.hostDo_kept ?_ ?_
    | with_reducible apply State.initTally_kept
    | with_reducible rfl
    | with_reducible exact fun h => h
    | exact Memory.wf_filter _
    | exact Memory.wf_zero _ _
    | exact Memory.wf_writeMask _ _ _
    | exact Memory.wf_write _ _
    | dsimp only
    | split)

theorem execLwClr_kept {s0 : State} (s : State) (hk : Kept s0 s) : KeptO s0 (execLwClr s) := by
  unfold execLwClr
  repeat' (first
    | with_reducible assumption
    | with_reducible apply Kept.next
    | with_reducible refine State.hostDo_kept ?_ ?_
    | with_reducible apply State.wr_kept
    | with_reducible rfl
    | with_reducible exact fun h => h
    | exact Memory.wf_filter _
    | exact Memory.wf_zero _ _
    | exact Memory.wf_writeMask _ _ _
    | exact Memory.wf_write _ _
    | dsimp only
    | split)

end Sys2Proof.Machine
end

