-- ==== Sys2Proof/Laws/KeptPowerStates.lean ====
section
/-! SUPPORT. Every operation of Machine/PowerStates.lean keeps what no command may change. -/

namespace Sys2Proof.Machine

set_option linter.all false

theorem State.domSync_kept {s0 : State} (s : State) (hk : Kept s0 s) : Kept s0 (State.domSync s) := by
  unfold State.domSync
  repeat' (first
    | with_reducible assumption
    | with_reducible apply State.wrs_kept
    | with_reducible refine Kept.foldl ?_ (fun _ _ _ => ?_)
    | with_reducible refine Kept.foldl1 ?_ (fun _ _ _ _ => ?_)
    | with_reducible refine Kept.foldl2 ?_ (fun _ _ _ _ => ?_)
    | with_reducible refine Kept.of_eq1 ?_ (by assumption)
    | with_reducible refine Kept.of_eq2 ?_ (by assumption)
    | with_reducible rfl
    | with_reducible exact fun h => h
    | dsimp only
    | with_reducible apply Kept.ite
    | split)

theorem State.selfRefresh_kept {s0 : State} (s : State) (b : Bool) (hk : Kept s0 s) : Kept s0 (State.selfRefresh s b) := by
  unfold State.selfRefresh
  repeat' (first
    | with_reducible assumption
    | with_reducible apply State.fl_kept
    | with_reducible apply State.wr_kept
    | with_reducible refine Kept.foldl ?_ (fun _ _ _ => ?_)
    | with_reducible refine Kept.foldl1 ?_ (fun _ _ _ _ => ?_)
    | with_reducible refine Kept.foldl2 ?_ (fun _ _ _ _ => ?_)
    | with_reducible refine Kept.of_eq1 ?_ (by assumption)
    | with_reducible refine Kept.of_eq2 ?_ (by assumption)
    | with_reducible rfl
    | with_reducible exact fun h => h
    | dsimp only
    | with_reducible apply Kept.ite
    | split)

theorem State.runAll_kept {s0 : State} (s : State) (b : Bool) (hk : Kept s0 s) : Kept s0 (State.runAll s b) := by
  unfold State.runAll
  repeat' (first
    | with_reducible assumption
    | with_reducible rfl
    | with_reducible exact fun h => h
    | dsimp only
    | split
    | with_reducible refine Kept.upd0 ?_ ?_ ?_ ?_ ?_ ?_)

theorem State.enter_kept {s0 : State} (s : State) (kind : Nat) (hk : Kept s0 s) : Kept s0 (State.enter s kind) := by
  unfold State.enter
  repeat' (first
    | with_reducible assumption
    | with_reducible apply State.runAll_kept
    | with_reducible apply State.updPwr_kept
    | with_reducible apply State.fl_kept
    | with_reducible apply State.wr_kept
    | with_reducible rfl
    | with_reducible exact fun h => h
    | dsimp only
    | with_reducible apply Kept.ite
    | split
    | with_reducible refine Kept.upd0 ?_ ?_ ?_ ?_ ?_ ?_)

theorem execDozeEntry_kept {s0 : State} (s : State) (hk : Kept s0 s) : KeptO s0 (execDozeEntry s) := by
  unfold execDozeEntry
  repeat' (first
    | with_reducible assumption
    | with_reducible apply Kept.next
    | with_reducible refine State.hostDo_kept ?_ ?_
    | with_reducible apply State.enter_kept
    | with_reducible rfl
    | with_reducible exact fun h => h
    | exact Memory.wf_filter _
    | exact Memory.wf_zero _ _
    | exact Memory.wf_writeMask _ _ _
    | exact Memory.wf_write _ _
    | dsimp only
    | split)

theorem execNapEntry_kept {s0 : State} (s : State) (hk : Kept s0 s) : KeptO s0 (execNapEntry s) := by
  unfold execNapEntry
  repeat' (first
    | with_reducible assumption
    | with_reducible apply Kept.next
    | with_reducible refine State.hostDo_kept ?_ ?_
    | with_reducible apply State.enter_kept
    | with_reducible rfl
    | with_reducible exact fun h => h
    | exact Memory.wf_filter _
    | exact Memory.wf_zero _ _
    | exact Memory.wf_writeMask _ _ _
    | exact Memory.wf_write _ _
    | dsimp only
    | split)

theorem execOffEntry_kept {s0 : State} (key : Nat) (s : State) (hk : Kept s0 s) : KeptO s0 (execOffEntry key s) := by
  unfold execOffEntry
  repeat' (first
    | with_reducible assumption
    | with_reducible apply Kept.next
    | with_reducible refine State.hostDo_kept ?_ ?_
    | with_reducible apply State.enter_kept
    | with_reducible apply State.wr_kept
    | with_reducible rfl
    | with_reducible exact fun h => h
    | exact Memory.wf_filter _
    | exact Memory.wf_zero _ _
    | exact Memory.wf_writeMask _ _ _
    | exact Memory.wf_write _ _
    | dsimp only
    | with_reducible apply Kept.ite
    | with_reducible apply KeptO.ite
    | split)

theorem State.napLoss_kept {s0 : State} (s : State) (hk : Kept s0 s) : Kept s0 (State.napLoss s) := by
  unfold State.napLoss
  repeat' (first
    | with_reducible assumption
    | with_reducible apply State.ysaveSync_kept
    | with_reducible apply State.wrs_kept
    | with_reducible refine Kept.foldl ?_ (fun _ _ _ => ?_)
    | with_reducible refine Kept.foldl1 ?_ (fun _ _ _ _ => ?_)
    | with_reducible refine Kept.foldl2 ?_ (fun _ _ _ _ => ?_)
    | with_reducible refine Kept.of_eq1 ?_ (by assumption)
    | with_reducible refine Kept.of_eq2 ?_ (by assumption)
    | with_reducible rfl
    | with_reducible exact fun h => h
    | dsimp only
    | split
    | with_reducible refine Kept.upd0 ?_ ?_ ?_ ?_ ?_ ?_)

theorem execPowerEntryDone_kept {s0 : State} (s : State) (hk : Kept s0 s) : KeptO s0 (execPowerEntryDone s) := by
  unfold execPowerEntryDone
  repeat' (first
    | with_reducible assumption
    | with_reducible apply Kept.next
    | with_reducible apply State.napLoss_kept
    | with_reducible apply State.selfRefresh_kept
    | with_reducible apply State.domSync_kept
    | with_reducible apply State.powerRec_kept
    | with_reducible apply State.lowerTo_kept
    | with_reducible apply State.updPwr_kept
    | with_reducible apply State.mirrorAll_kept
    | with_reducible apply State.areaWrite_kept
    | with_reducible apply State.maintLines_kept
    | with_reducible apply State.count_kept
    | with_reducible apply State.fl_kept
    | with_reducible apply State.wr_kept
    | with_reducible rfl
    | with_reducible exact fun h => h
    | dsimp only
    | with_reducible apply Kept.ite
    | with_reducible apply KeptO.ite
    | split
    | with_reducible refine Kept.upd0 ?_ ?_ ?_ ?_ ?_ ?_)

theorem execEntryAbort_kept {s0 : State} (s : State) (hk : Kept s0 s) : KeptO s0 (execEntryAbort s) := by
  unfold execEntryAbort
  repeat' (first
    | with_reducible assumption
    | with_reducible apply Kept.next
    | with_reducible apply State.runAll_kept
    | with_reducible apply State.updPwr_kept
    | with_reducible apply State.count_kept
    | with_reducible apply State.raise_kept
    | with_reducible apply State.fl_kept
    | with_reducible apply State.wr_kept
    | with_reducible rfl
    | with_reducible exact fun h => h
    | dsimp only
    | with_reducible apply Kept.ite
    | with_reducible apply KeptO.ite
    | split
    | with_reducible refine Kept.upd0 ?_ ?_ ?_ ?_ ?_ ?_)

theorem State.napExit_kept {s0 : State} (s : State) (hk : Kept s0 s) : Kept s0 (State.napExit s) := by
  unfold State.napExit
  repeat' (first
    | with_reducible assumption
    | with_reducible apply State.selfRefresh_kept
    | with_reducible apply State.setLevel_kept
    | with_reducible apply State.updPwr_kept
    | with_reducible apply State.wrs_kept
    | with_reducible apply State.wr_kept
    | with_reducible rfl
    | with_reducible exact fun h => h
    | dsimp only
    | with_reducible apply Kept.ite
    | split
    | with_reducible refine Kept.upd0 ?_ ?_ ?_ ?_ ?_ ?_)

theorem State.wakeEnd_kept {s0 : State} (s : State) (hk : Kept s0 s) : Kept s0 (State.wakeEnd s) := by
  unfold State.wakeEnd
  repeat' (first
    | with_reducible assumption
    | with_reducible apply State.runAll_kept
    | with_reducible apply State.domSync_kept
    | with_reducible apply State.powerRec_kept
    | with_reducible apply State.updPwr_kept
    | with_reducible apply State.raise_kept
    | with_reducible apply State.wrs_kept
    | with_reducible rfl
    | with_reducible exact fun h => h
    | dsimp only
    | split
    | with_reducible refine Kept.upd0 ?_ ?_ ?_ ?_ ?_ ?_)

theorem State.wakeNow_kept {s0 : State} (s : State) (ok : Bool) (hk : Kept s0 s) : Kept s0 (State.wakeNow s ok) := by
  unfold State.wakeNow
  repeat' (first
    | with_reducible assumption
    | with_reducible apply State.wakeEnd_kept
    | with_reducible apply State.napExit_kept
    | with_reducible apply State.domSync_kept
    | with_reducible apply State.updPwr_kept
    | with_reducible apply State.incident_kept
    | with_reducible apply State.wr_kept
    | with_reducible refine Kept.of_eq2 ?_ (by assumption)
    | with_reducible rfl
    | with_reducible exact fun h => h
    | dsimp only
    | with_reducible apply Kept.ite
    | with_reducible apply Kept.ite1
    | with_reducible apply Kept.ite2
    | split
    | with_reducible refine Kept.upd0 ?_ ?_ ?_ ?_ ?_ ?_)

theorem execWake_kept {s0 : State} (src : Nat) (ok : Bool) (s : State) (hk : Kept s0 s) : KeptO s0 (execWake src ok s) := by
  unfold execWake
  repeat' (first
    | with_reducible assumption
    | with_reducible apply Kept.next
    | with_reducible apply State.wakeNow_kept
    | with_reducible apply State.extTick_kept
    | with_reducible apply State.wakeAsk_kept
    | with_reducible rfl
    | with_reducible exact fun h => h
    | dsimp only
    | with_reducible apply Kept.ite
    | with_reducible apply KeptO.ite
    | split)

theorem execWakeIn_kept {s0 : State} (s : State) (hk : Kept s0 s) : KeptO s0 (execWakeIn s) := by
  unfold execWakeIn
  repeat' (first
    | with_reducible assumption
    | with_reducible apply Kept.next
    | with_reducible apply State.wakeAsk_kept
    | with_reducible rfl
    | with_reducible exact fun h => h
    | dsimp only
    | with_reducible apply Kept.ite
    | with_reducible apply KeptO.ite
    | split)

theorem execGpioEdge_kept {s0 : State} (g : Nat) (level : Bool) (s : State) (hk : Kept s0 s) : KeptO s0 (execGpioEdge g level s) := by
  unfold execGpioEdge
  repeat' (first
    | with_reducible assumption
    | with_reducible apply Kept.next
    | with_reducible apply State.wakeAsk_kept
    | with_reducible apply State.wr_kept
    | with_reducible rfl
    | with_reducible exact fun h => h
    | dsimp only
    | with_reducible apply Kept.ite
    | with_reducible apply KeptO.ite
    | split)

theorem execActiveCmd_kept {s0 : State} (s : State) (hk : Kept s0 s) : KeptO s0 (execActiveCmd s) := by
  unfold execActiveCmd
  repeat' (first
    | with_reducible assumption
    | with_reducible apply Kept.next
    | with_reducible refine State.hostDo_kept ?_ ?_
    | with_reducible apply State.wakeAccess_kept
    | with_reducible rfl
    | with_reducible exact fun h => h
    | exact Memory.wf_filter _
    | exact Memory.wf_zero _ _
    | exact Memory.wf_writeMask _ _ _
    | exact Memory.wf_write _ _
    | dsimp only
    | split)

theorem State.wakeDomain_kept {s0 : State} (s : State) (d : Nat) (hk : Kept s0 s) : Kept s0 (State.wakeDomain s d) := by
  unfold State.wakeDomain
  repeat' (first
    | with_reducible assumption
    | with_reducible apply State.count_kept
    | with_reducible apply State.updPwr_kept
    | with_reducible apply State.domSync_kept
    | with_reducible refine Kept.foldl ?_ (fun _ _ _ => ?_)
    | with_reducible refine Kept.foldl1 ?_ (fun _ _ _ _ => ?_)
    | with_reducible refine Kept.foldl2 ?_ (fun _ _ _ _ => ?_)
    | with_reducible refine Kept.of_eq1 ?_ (by assumption)
    | with_reducible refine Kept.of_eq2 ?_ (by assumption)
    | with_reducible rfl
    | with_reducible exact fun h => h
    | dsimp only
    | with_reducible apply Kept.ite
    | with_reducible apply Kept.ite1
    | with_reducible apply Kept.ite2
    | with_reducible apply KeptO.ite
    | split
    | with_reducible refine Kept.upd0 ?_ ?_ ?_ ?_ ?_ ?_
    | with_reducible refine Kept.upd1 ?_ ?_ ?_ ?_ ?_ ?_)

theorem execDomainWakeAccess_kept {s0 : State} (a : Nat) (s : State) (hk : Kept s0 s) : KeptO s0 (execDomainWakeAccess a s) := by
  unfold execDomainWakeAccess
  repeat' (first
    | with_reducible assumption
    | with_reducible apply State.wakeDomain_kept
    | with_reducible apply Kept.next
    | with_reducible apply State.napExit_kept
    | with_reducible apply State.domSync_kept
    | with_reducible apply State.updPwr_kept
    | with_reducible apply State.count_kept
    | with_reducible apply State.wr_kept
    | with_reducible rfl
    | with_reducible exact fun h => h
    | dsimp only
    | with_reducible apply Kept.ite
    | with_reducible apply KeptO.ite
    | split
    | with_reducible refine Kept.upd0 ?_ ?_ ?_ ?_ ?_ ?_)

theorem execDomainRegate_kept {s0 : State} (d : Nat) (s : State) (hk : Kept s0 s) : KeptO s0 (execDomainRegate d s) := by
  unfold execDomainRegate
  repeat' (first
    | with_reducible assumption
    | with_reducible apply Kept.next
    | with_reducible apply State.domSync_kept
    | with_reducible apply State.updPwr_kept
    | with_reducible rfl
    | with_reducible exact fun h => h
    | dsimp only
    | with_reducible apply Kept.ite
    | with_reducible apply KeptO.ite
    | split
    | with_reducible refine Kept.upd0 ?_ ?_ ?_ ?_ ?_ ?_)

end Sys2Proof.Machine
end

