-- ==== Sys2Proof/Laws/KeptResets.lean ====
section
/-! SUPPORT. Every operation of Machine/Resets.lean keeps what no command may change. -/

namespace Sys2Proof.Machine

set_option linter.all false

theorem State.wipe_kept {s0 : State} (s : State) (keep : Fld → Nat → Bool) (h : Kept s0 s) : Kept s0 (s.wipe keep) :=
  h.upd (Nat.le_refl _) (RMap.sorted_filter _) (List.prefix_refl _) id id id rfl id

theorem State.startLost_kept {s0 : State} (s : State) (hk : Kept s0 s) : Kept s0 (State.startLost s) := by
  unfold State.startLost
  repeat' (first
    | with_reducible assumption
    | with_reducible apply State.recWrite_kept
    | with_reducible rfl
    | with_reducible exact fun h => h
    | dsimp only
    | with_reducible apply Kept.ite
    | split
    | with_reducible refine Kept.upd0 ?_ ?_ ?_ ?_ ?_ ?_)

theorem State.bootStart_kept {s0 : State} (s : State) (hk : Kept s0 s) : Kept s0 (State.bootStart s) := by
  unfold State.bootStart
  repeat' (first
    | with_reducible assumption
    | with_reducible apply State.updBoot_kept
    | with_reducible apply State.wrs_kept
    | with_reducible rfl
    | with_reducible exact fun h => h
    | dsimp only
    | split
    | exact fun _ => rfl
    | exact fun _ h => h
    | exact fun h => h
    | rfl
    | with_reducible refine Kept.upd0 ?_ ?_ ?_ ?_ ?_ ?_)

theorem State.tryStart_kept {s0 : State} (s : State) (hk : Kept s0 s) : Kept s0 (State.tryStart s) := by
  unfold State.tryStart
  repeat' (first
    | with_reducible assumption
    | with_reducible apply State.bootStart_kept
    | with_reducible rfl
    | with_reducible exact fun h => h
    | dsimp only
    | with_reducible apply Kept.ite
    | split)

theorem State.meshOwn_kept {s0 : State} (s : State) (hk : Kept s0 s) : Kept s0 (State.meshOwn s) := by
  unfold State.meshOwn
  repeat' (first
    | with_reducible assumption
    | with_reducible apply State.wrs_kept
    | with_reducible rfl
    | with_reducible exact fun h => h
    | dsimp only
    | split)

theorem State.fullKeep_kept {s0 : State} (s : State) (h : Kept s0 s) : Kept s0 s.fullKeep :=
  h.trans ⟨.inl rfl, rfl, rfl, List.prefix_refl _, Nat.le_refl _,
    fun c => ⟨rfl, c.2.1, c.2.2.1, c.2.2.2.1, c.2.2.2.2⟩⟩

theorem State.fullReset_kept {s0 : State} (s : State) (cause : Nat) (hk : Kept s0 s) : Kept s0 (State.fullReset s cause) := by
  unfold State.fullReset
  repeat' (first
    | with_reducible assumption
    | with_reducible apply State.fullKeep_kept
    | with_reducible apply State.meshOwn_kept
    | with_reducible apply State.startLost_kept
    | with_reducible apply State.wipe_kept
    | with_reducible apply State.incClose_kept
    | with_reducible apply State.safUpdate_kept
    | with_reducible apply State.fl_kept
    | with_reducible apply State.wr_kept
    | with_reducible rfl
    | with_reducible exact fun h => h
    | dsimp only
    | with_reducible apply Kept.ite
    | split
    | with_reducible refine Kept.upd0 ?_ ?_ ?_ ?_ ?_ ?_)

theorem execFullReset_kept {s0 : State} (src key : Nat) (s : State) (hk : Kept s0 s) : KeptO s0 (execFullReset src key s) := by
  unfold execFullReset
  repeat' (first
    | with_reducible assumption
    | with_reducible apply Kept.next
    | with_reducible apply State.fullReset_kept
    | with_reducible apply State.tryStart_kept
    | with_reducible apply State.wakeAsk_kept
    | with_reducible apply State.cfgErr_kept
    | with_reducible rfl
    | with_reducible exact fun h => h
    | dsimp only
    | with_reducible apply Kept.ite
    | with_reducible apply KeptO.ite
    | split)

theorem execHotReset_kept {s0 : State} (s : State) (hk : Kept s0 s) : KeptO s0 (execHotReset s) := by
  unfold execHotReset
  repeat' (first
    | with_reducible assumption
    | with_reducible apply Kept.next
    | with_reducible apply State.fullReset_kept
    | with_reducible apply State.tryStart_kept
    | with_reducible apply State.wakeAsk_kept
    | with_reducible rfl
    | with_reducible exact fun h => h
    | dsimp only
    | with_reducible apply Kept.ite
    | with_reducible apply KeptO.ite
    | split)

theorem execPerstAssert_kept {s0 : State} (s : State) (hk : Kept s0 s) : KeptO s0 (execPerstAssert s) := by
  unfold execPerstAssert
  repeat' (first
    | with_reducible assumption
    | with_reducible apply Kept.next
    | with_reducible apply State.fullReset_kept
    | with_reducible apply State.updBoot_kept
    | with_reducible rfl
    | with_reducible exact fun h => h
    | dsimp only
    | with_reducible apply Kept.ite
    | with_reducible apply KeptO.ite
    | split
    | exact fun _ => rfl
    | exact fun _ h => h
    | exact fun h => h
    | rfl
    | with_reducible refine Kept.upd0 ?_ ?_ ?_ ?_ ?_ ?_)

theorem execPowerOn_kept {s0 : State} (s : State) (h : Kept s0 s) : KeptO s0 (execPowerOn true s) := by
  unfold execPowerOn
  repeat' (first
    | with_reducible assumption
    | with_reducible apply Kept.next
    | with_reducible apply State.areaWrite_kept
    | with_reducible apply State.tryStart_kept
    | with_reducible apply State.wrs_kept
    | with_reducible apply State.updBoot_kept
    | exact fun _ => rfl
    | exact fun _ h => h
    | contradiction
    | split)

theorem State.porKeep_kept {s0 : State} (s : State) (h : Kept s0 s) : Kept s0 s.porKeep :=
  h.trans ⟨.inr rfl, rfl, rfl, List.prefix_refl _, Nat.le_refl _, fun c => ⟨rfl, c.2.1, rfl, c.2.2.2.1, rfl⟩⟩

theorem execSupplyBelowPor_kept {s0 : State} (aon : Bool) (s : State) (hk : Kept s0 s) : KeptO s0 (execSupplyBelowPor aon s) := by
  unfold execSupplyBelowPor
  repeat' (first
    | with_reducible assumption
    | with_reducible apply Kept.next
    | with_reducible apply State.porKeep_kept
    | with_reducible apply State.fullReset_kept
    | with_reducible apply State.startLost_kept
    | with_reducible apply State.updBoot_kept
    | with_reducible rfl
    | with_reducible exact fun h => h
    | dsimp only
    | with_reducible apply Kept.ite
    | with_reducible apply KeptO.ite
    | split
    | exact fun _ => rfl
    | exact fun _ h => h
    | exact fun h => h
    | rfl
    | with_reducible refine Kept.upd0 ?_ ?_ ?_ ?_ ?_ ?_)

theorem execBlockReset_kept {s0 : State} (slot typ unit core : Nat) (s : State) (hk : Kept s0 s) : KeptO s0 (execBlockReset slot typ unit core s) := by
  unfold execBlockReset
  repeat' (first
    | with_reducible assumption
    | with_reducible apply Kept.next
    | with_reducible refine State.hostDo_kept ?_ ?_
    | with_reducible apply State.pipesOff_kept
    | with_reducible apply State.cfgErr_kept
    | with_reducible apply State.count_kept
    | with_reducible apply State.wrs_kept
    | with_reducible apply State.wr_kept
    | with_reducible rfl
    | with_reducible exact fun h => h
    | exact Memory.wf_filter _
    | exact Memory.wf_zero _ _
    | exact Memory.wf_writeMask _ _ _
    | exact Memory.wf_write _ _
    | dsimp only
    | with_reducible apply Kept.ite
    | with_reducible apply KeptO.ite
    | split
    | with_reducible refine Kept.upd0 ?_ ?_ ?_ ?_ ?_ ?_)

theorem execIdleTimeout_kept {s0 : State} (typ unit core : Nat) (s : State) (hk : Kept s0 s) : KeptO s0 (execIdleTimeout typ unit core s) := by
  unfold execIdleTimeout
  repeat' (first
    | with_reducible assumption
    | with_reducible apply Kept.next
    | with_reducible apply State.isolate_kept
    | with_reducible apply State.count_kept
    | with_reducible apply State.raise_kept
    | with_reducible rfl
    | with_reducible exact fun h => h
    | dsimp only
    | with_reducible apply Kept.ite
    | with_reducible apply KeptO.ite
    | split
    | with_reducible refine Kept.upd0 ?_ ?_ ?_ ?_ ?_ ?_)

theorem State.blkClear_kept {s0 : State} (s : State) (typ unit core : Nat) (hk : Kept s0 s) : Kept s0 (State.blkClear s typ unit core) := by
  unfold State.blkClear
  repeat' (first
    | with_reducible assumption
    | with_reducible apply State.loomClear_kept
    | with_reducible apply State.crdSync_kept
    | with_reducible apply State.updLoom_kept
    | with_reducible apply State.wr_kept
    | with_reducible rfl
    | with_reducible exact fun h => h
    | dsimp only
    | with_reducible apply Kept.ite
    | with_reducible apply KeptO.ite
    | split
    | with_reducible refine Kept.upd0 ?_ ?_ ?_ ?_ ?_ ?_)

theorem State.blkSaved_kept {s0 : State} (s : State) (typ unit code inc : Nat) (hk : Kept s0 s) : Kept s0 (State.blkSaved s typ unit code inc) := by
  unfold State.blkSaved
  repeat' (first
    | with_reducible assumption
    | with_reducible apply State.engStop_kept
    | with_reducible apply State.ctxFault_kept
    | with_reducible rfl
    | with_reducible exact fun h => h
    | dsimp only
    | with_reducible apply Kept.ite
    | split
    | with_reducible refine Kept.upd0 ?_ ?_ ?_ ?_ ?_ ?_)

theorem State.blkLeft_kept {s0 : State} (s : State) (typ unit core code inc : Nat) (hk : Kept s0 s) : Kept s0 (State.blkLeft s typ unit core code inc) := by
  unfold State.blkLeft
  repeat' (first
    | with_reducible assumption
    | with_reducible apply State.isolate_kept
    | with_reducible rfl
    | with_reducible exact fun h => h
    | dsimp only
    | with_reducible apply Kept.ite
    | split)

theorem execBlockResetDone_kept {s0 : State} (typ unit core : Nat) (s : State) (hk : Kept s0 s) : KeptO s0 (execBlockResetDone typ unit core s) := by
  unfold execBlockResetDone
  repeat' (first
    | with_reducible assumption
    | with_reducible apply Kept.next
    | with_reducible apply State.blkLeft_kept
    | with_reducible apply State.blkSaved_kept
    | with_reducible apply State.blkClear_kept
    | with_reducible apply State.incSettle_kept
    | with_reducible apply State.loomWait_kept
    | with_reducible apply State.loomSync_kept
    | with_reducible apply State.crdGo_kept
    | with_reducible apply State.queueTest_kept
    | with_reducible apply State.raise_kept
    | with_reducible apply State.wrs_kept
    | with_reducible rfl
    | with_reducible exact fun h => h
    | dsimp only
    | with_reducible apply Kept.ite
    | with_reducible apply KeptO.ite
    | split
    | with_reducible refine Kept.upd0 ?_ ?_ ?_ ?_ ?_ ?_)

theorem State.partBlk_kept {s0 : State} (s : State) (n typ u : Nat) (hk : Kept s0 s) : Kept s0 (State.partBlk s n typ u) := by
  unfold State.partBlk
  repeat' (first
    | with_reducible assumption
    | with_reducible apply State.wrs_kept
    | with_reducible apply State.isolate_kept
    | with_reducible refine Kept.foldl ?_ (fun _ _ _ => ?_)
    | with_reducible refine Kept.foldl1 ?_ (fun _ _ _ _ => ?_)
    | with_reducible refine Kept.foldl2 ?_ (fun _ _ _ _ => ?_)
    | with_reducible refine Kept.of_eq1 ?_ (by assumption)
    | with_reducible refine Kept.of_eq2 ?_ (by assumption)
    | with_reducible rfl
    | with_reducible exact fun h => h
    | dsimp only
    | with_reducible apply Kept.ite
    | with_reducible apply Kept.ite1
    | with_reducible apply Kept.ite2
    | with_reducible apply KeptO.ite
    | split
    | with_reducible refine Kept.upd0 ?_ ?_ ?_ ?_ ?_ ?_
    | with_reducible refine Kept.upd1 ?_ ?_ ?_ ?_ ?_ ?_)

theorem execPartitionReset_kept {s0 : State} (p : Nat) (host : Bool) (s : State) (hk : Kept s0 s) : KeptO s0 (execPartitionReset p host s) := by
  unfold execPartitionReset
  repeat' (first
    | with_reducible assumption
    | with_reducible apply State.partBlk_kept
    | with_reducible apply Kept.next
    | with_reducible apply State.wakeNow_kept
    | with_reducible apply State.isolate_kept
    | with_reducible apply State.crdEmpty_kept
    | with_reducible apply State.heapSync_kept
    | with_reducible apply State.ctxFault_kept
    | with_reducible apply State.wakeAsk_kept
    | with_reducible apply State.cfgErr_kept
    | with_reducible apply State.count_kept
    | with_reducible apply State.wr_kept
    | with_reducible refine Kept.foldl ?_ (fun _ _ _ => ?_)
    | with_reducible refine Kept.foldl1 ?_ (fun _ _ _ _ => ?_)
    | with_reducible refine Kept.foldl2 ?_ (fun _ _ _ _ => ?_)
    | with_reducible refine Kept.of_eq1 ?_ (by assumption)
    | with_reducible refine Kept.of_eq2 ?_ (by assumption)
    | with_reducible rfl
    | with_reducible exact fun h => h
    | dsimp only
    | with_reducible apply Kept.ite
    | with_reducible apply KeptO.ite
    | split
    | with_reducible refine Kept.upd0 ?_ ?_ ?_ ?_ ?_ ?_)

theorem execPartitionResetDone_kept {s0 : State} (p : Nat) (s : State) (hk : Kept s0 s) : KeptO s0 (execPartitionResetDone p s) := by
  unfold execPartitionResetDone
  repeat' (first
    | with_reducible assumption
    | with_reducible apply Kept.next
    | with_reducible apply State.incClose_kept
    | with_reducible apply State.raise_kept
    | with_reducible apply State.wr_kept
    | with_reducible refine Kept.foldl ?_ (fun _ _ _ => ?_)
    | with_reducible refine Kept.foldl1 ?_ (fun _ _ _ _ => ?_)
    | with_reducible refine Kept.foldl2 ?_ (fun _ _ _ _ => ?_)
    | with_reducible refine Kept.of_eq1 ?_ (by assumption)
    | with_reducible refine Kept.of_eq2 ?_ (by assumption)
    | with_reducible rfl
    | with_reducible exact fun h => h
    | dsimp only
    | with_reducible apply Kept.ite
    | with_reducible apply KeptO.ite
    | split
    | with_reducible refine Kept.upd0 ?_ ?_ ?_ ?_ ?_ ?_)

theorem State.absorb_kept {s0 : State} (s : State) (hk : Kept s0 s) : Kept s0 (State.absorb s) := by
  unfold State.absorb
  repeat' (first
    | with_reducible assumption
    | with_reducible apply State.wrs_kept
    | with_reducible apply State.wr_kept
    | with_reducible refine Kept.foldl ?_ (fun _ _ _ => ?_)
    | with_reducible refine Kept.foldl1 ?_ (fun _ _ _ _ => ?_)
    | with_reducible refine Kept.foldl2 ?_ (fun _ _ _ _ => ?_)
    | with_reducible refine Kept.of_eq1 ?_ (by assumption)
    | with_reducible refine Kept.of_eq2 ?_ (by assumption)
    | with_reducible rfl
    | with_reducible exact fun h => h
    | dsimp only
    | split
    | with_reducible refine Kept.upd0 ?_ ?_ ?_ ?_ ?_ ?_)

theorem State.warmBegin_kept {s0 : State} (s : State) (host : Bool) (hk : Kept s0 s) : Kept s0 (State.warmBegin s host) := by
  unfold State.warmBegin
  repeat' (first
    | with_reducible assumption
    | with_reducible apply State.absorb_kept
    | with_reducible apply State.incident_kept
    | with_reducible apply State.safUpdate_kept
    | with_reducible apply State.count_kept
    | with_reducible apply State.emit_kept
    | with_reducible apply State.wrs_kept
    | with_reducible refine Kept.foldl ?_ (fun _ _ _ => ?_)
    | with_reducible refine Kept.of_eq2 ?_ (by assumption)
    | with_reducible refine Kept.foldl1 ?_ (fun _ _ _ _ => ?_)
    | with_reducible refine Kept.foldl2 ?_ (fun _ _ _ _ => ?_)
    | with_reducible refine Kept.of_eq1 ?_ (by assumption)
    | with_reducible rfl
    | with_reducible exact fun h => h
    | dsimp only
    | with_reducible apply Kept.ite
    | with_reducible apply Kept.ite1
    | with_reducible apply Kept.ite2
    | split
    | with_reducible refine Kept.upd0 ?_ ?_ ?_ ?_ ?_ ?_)

theorem execWarmReset_kept {s0 : State} (src key : Nat) (s : State) (hk : Kept s0 s) : KeptO s0 (execWarmReset src key s) := by
  unfold execWarmReset
  repeat' (first
    | with_reducible assumption
    | with_reducible apply Kept.next
    | with_reducible apply State.warmBegin_kept
    | with_reducible apply State.wakeNow_kept
    | with_reducible apply State.updPwr_kept
    | with_reducible apply State.wakeAsk_kept
    | with_reducible apply State.cfgErr_kept
    | with_reducible apply State.fl_kept
    | with_reducible rfl
    | with_reducible exact fun h => h
    | dsimp only
    | with_reducible apply Kept.ite
    | with_reducible apply KeptO.ite
    | split
    | with_reducible refine Kept.upd0 ?_ ?_ ?_ ?_ ?_ ?_)

theorem State.warmStop_kept {s0 : State} (s : State) (hk : Kept s0 s) : Kept s0 (State.warmStop s) := by
  unfold State.warmStop
  repeat' (first
    | with_reducible assumption
    | with_reducible apply State.pipesOff_kept
    | with_reducible apply State.ctxEnd_kept
    | with_reducible apply State.ctxQueuesOff_kept
    | with_reducible apply State.engStop_kept
    | with_reducible apply State.loomFree_kept
    | with_reducible apply State.poisonTally_kept
    | with_reducible apply State.heapSync_kept
    | with_reducible apply State.dropWait_kept
    | with_reducible apply State.tdBegin_kept
    | with_reducible apply State.raise_kept
    | with_reducible apply State.wrs_kept
    | with_reducible apply State.wr_kept
    | with_reducible refine Kept.foldl ?_ (fun _ _ _ => ?_)
    | with_reducible refine Kept.foldl1 ?_ (fun _ _ _ _ => ?_)
    | with_reducible refine Kept.foldl2 ?_ (fun _ _ _ _ => ?_)
    | with_reducible refine Kept.of_eq1 ?_ (by assumption)
    | with_reducible refine Kept.of_eq2 ?_ (by assumption)
    | with_reducible rfl
    | with_reducible exact fun h => h
    | dsimp only
    | with_reducible apply Kept.ite
    | split
    | with_reducible refine Kept.upd0 ?_ ?_ ?_ ?_ ?_ ?_)

theorem State.warmDomains_kept {s0 : State} (s : State) (hk : Kept s0 s) : Kept s0 (State.warmDomains s) := by
  unfold State.warmDomains
  repeat' (first
    | with_reducible assumption
    | with_reducible apply State.wipe_kept
    | with_reducible apply State.fl_kept
    | with_reducible apply State.wr_kept
    | with_reducible rfl
    | with_reducible exact fun h => h
    | dsimp only
    | with_reducible apply Kept.ite
    | split
    | with_reducible refine Kept.upd0 ?_ ?_ ?_ ?_ ?_ ?_)

theorem State.ucodeFail_kept {s0 : State} (s : State) (fails : List (Nat × Nat)) (hk : Kept s0 s) : Kept s0 (State.ucodeFail s fails) := by
  unfold State.ucodeFail
  repeat' (first
    | with_reducible assumption
    | with_reducible apply State.retire_kept
    | with_reducible apply State.syncSaf_kept
    | with_reducible refine Kept.foldl ?_ (fun _ _ _ => ?_)
    | with_reducible refine Kept.of_eq2 ?_ (by assumption)
    | with_reducible refine Kept.foldl1 ?_ (fun _ _ _ _ => ?_)
    | with_reducible refine Kept.foldl2 ?_ (fun _ _ _ _ => ?_)
    | with_reducible refine Kept.of_eq1 ?_ (by assumption)
    | with_reducible rfl
    | with_reducible exact fun h => h
    | dsimp only
    | with_reducible apply Kept.ite
    | with_reducible apply Kept.ite1
    | with_reducible apply Kept.ite2
    | split)

theorem State.safeHold_kept {s0 : State} (s : State) (hk : Kept s0 s) : Kept s0 (State.safeHold s) := by
  unfold State.safeHold
  refine Kept.foldl ?_ (fun _ _ _ => ?_)
  · exact Kept.upd0 hk id id id rfl id
  · exact State.feSync_kept _ _ (by assumption)

theorem State.safeApply_kept {s0 : State} (s : State) (hk : Kept s0 s) : Kept s0 (State.safeApply s) := by
  unfold State.safeApply
  repeat' (first
    | with_reducible assumption
    | with_reducible apply State.safeHold_kept
    | with_reducible apply State.ctxFault_kept
    | with_reducible apply State.incident_kept
    | with_reducible apply State.safUpdate_kept
    | with_reducible apply State.ledger_kept
    | with_reducible refine Kept.foldl ?_ (fun _ _ _ => ?_)
    | with_reducible refine Kept.of_eq2 ?_ (by assumption)
    | with_reducible refine Kept.foldl1 ?_ (fun _ _ _ _ => ?_)
    | with_reducible refine Kept.foldl2 ?_ (fun _ _ _ _ => ?_)
    | with_reducible refine Kept.of_eq1 ?_ (by assumption)
    | with_reducible rfl
    | with_reducible exact fun h => h
    | dsimp only
    | with_reducible apply Kept.ite
    | with_reducible apply Kept.ite1
    | with_reducible apply Kept.ite2
    | split
    | with_reducible refine Kept.upd0 ?_ ?_ ?_ ?_ ?_ ?_)

theorem State.safeLate_kept {s0 : State} (s : State) (hk : Kept s0 s) : Kept s0 (State.safeLate s) := by
  unfold State.safeLate
  repeat' (first
    | with_reducible assumption
    | with_reducible apply State.safeApply_kept
    | with_reducible rfl
    | with_reducible exact fun h => h
    | dsimp only
    | with_reducible apply Kept.ite
    | split
    | with_reducible refine Kept.upd0 ?_ ?_ ?_ ?_ ?_ ?_)

theorem State.warmEnd_kept {s0 : State} (s : State) (hk : Kept s0 s) : Kept s0 (State.warmEnd s) := by
  unfold State.warmEnd
  repeat' (first
    | with_reducible assumption
    | with_reducible apply State.odDrain_kept
    | with_reducible apply State.safeLate_kept
    | with_reducible apply State.runAll_kept
    | with_reducible apply State.incClose_kept
    | with_reducible apply State.safUpdate_kept
    | with_reducible apply State.raise_kept
    | with_reducible apply State.wrs_kept
    | with_reducible rfl
    | with_reducible exact fun h => h
    | dsimp only
    | split
    | with_reducible refine Kept.upd0 ?_ ?_ ?_ ?_ ?_ ?_)

theorem State.warmFail_kept {s0 : State} (s : State) (hk : Kept s0 s) : Kept s0 (State.warmFail s) := by
  unfold State.warmFail
  repeat' (first
    | with_reducible assumption
    | with_reducible apply State.incident_kept
    | with_reducible apply State.fl_kept
    | with_reducible refine Kept.of_eq2 ?_ (by assumption)
    | with_reducible rfl
    | with_reducible exact fun h => h
    | dsimp only
    | split)

theorem execWarmStepDone_kept {s0 : State} (ok unitFail : Bool) (fails : List (Nat × Nat)) (s : State) (hk : Kept s0 s) : KeptO s0 (execWarmStepDone ok unitFail fails s) := by
  unfold execWarmStepDone
  repeat' (first
    | with_reducible assumption
    | with_reducible apply Kept.next
    | with_reducible apply State.warmFail_kept
    | with_reducible apply State.warmEnd_kept
    | with_reducible apply State.ucodeFail_kept
    | with_reducible apply State.warmDomains_kept
    | with_reducible apply State.warmStop_kept
    | with_reducible apply State.runAll_kept
    | with_reducible apply State.verdict_kept
    | with_reducible apply State.maintLines_kept
    | with_reducible apply State.fl_kept
    | with_reducible apply State.wr_kept
    | with_reducible rfl
    | with_reducible exact fun h => h
    | dsimp only
    | with_reducible apply Kept.ite
    | with_reducible apply KeptO.ite
    | split
    | with_reducible refine Kept.upd0 ?_ ?_ ?_ ?_ ?_ ?_)

theorem State.flrCtx_kept {s0 : State} (s : State) (c : Nat) (hk : Kept s0 s) : Kept s0 (State.flrCtx s c) := by
  unfold State.flrCtx
  repeat' (first
    | with_reducible assumption
    | with_reducible apply State.tdBegin_kept
    | with_reducible apply State.wrs_kept
    | with_reducible apply State.fl_kept
    | with_reducible rfl
    | with_reducible exact fun h => h
    | dsimp only
    | with_reducible apply Kept.ite
    | split
    | with_reducible refine Kept.upd0 ?_ ?_ ?_ ?_ ?_ ?_)

theorem State.flrLow_kept {s0 : State} (s : State) (f : Nat) (hk : Kept s0 s) : Kept s0 (State.flrLow s f) := by
  unfold State.flrLow
  repeat' (first
    | with_reducible assumption
    | with_reducible rfl
    | with_reducible exact fun h => h
    | dsimp only
    | split
    | with_reducible refine Kept.upd0 ?_ ?_ ?_ ?_ ?_ ?_)

theorem State.flrMsix_kept {s0 : State} (s : State) (f : Nat) (vs : List Nat) (hk : Kept s0 s) : Kept s0 (State.flrMsix s f vs) := by
  unfold State.flrMsix
  repeat' (first
    | with_reducible assumption
    | with_reducible apply State.fl_kept
    | with_reducible refine Kept.foldl ?_ (fun _ _ _ => ?_)
    | with_reducible refine Kept.foldl1 ?_ (fun _ _ _ _ => ?_)
    | with_reducible refine Kept.foldl2 ?_ (fun _ _ _ _ => ?_)
    | with_reducible refine Kept.of_eq1 ?_ (by assumption)
    | with_reducible refine Kept.of_eq2 ?_ (by assumption)
    | with_reducible rfl
    | with_reducible exact fun h => h
    | dsimp only
    | split
    | with_reducible refine Kept.upd0 ?_ ?_ ?_ ?_ ?_ ?_)

theorem State.flrWake_kept {s0 : State} (s : State) (hk : Kept s0 s) : Kept s0 (State.flrWake s) := by
  unfold State.flrWake
  repeat' (first
    | with_reducible assumption
    | with_reducible apply State.wakeNow_kept
    | with_reducible apply State.wakeAsk_kept
    | with_reducible rfl
    | with_reducible exact fun h => h
    | dsimp only
    | with_reducible apply Kept.ite
    | split)

theorem execVfFlr_kept {s0 : State} (n : Nat) (s : State) (hk : Kept s0 s) : KeptO s0 (execVfFlr n s) := by
  unfold execVfFlr
  repeat' (first
    | with_reducible assumption
    | with_reducible apply Kept.next
    | with_reducible apply State.flrWake_kept
    | with_reducible apply State.flrMsix_kept
    | with_reducible apply State.flrLow_kept
    | with_reducible apply State.flrCtx_kept
    | with_reducible apply State.ctxQueuesOff_kept
    | with_reducible refine Kept.foldl ?_ (fun _ _ _ => ?_)
    | with_reducible refine Kept.foldl1 ?_ (fun _ _ _ _ => ?_)
    | with_reducible refine Kept.foldl2 ?_ (fun _ _ _ _ => ?_)
    | with_reducible refine Kept.of_eq1 ?_ (by assumption)
    | with_reducible refine Kept.of_eq2 ?_ (by assumption)
    | with_reducible rfl
    | with_reducible exact fun h => h
    | dsimp only
    | with_reducible apply Kept.ite
    | with_reducible apply KeptO.ite
    | split)

theorem execPfFlr_kept {s0 : State} (s : State) (hk : Kept s0 s) : KeptO s0 (execPfFlr s) := by
  unfold execPfFlr
  repeat' (first
    | with_reducible assumption
    | with_reducible apply Kept.next
    | with_reducible apply State.flrWake_kept
    | with_reducible apply State.flrMsix_kept
    | with_reducible apply State.flrLow_kept
    | with_reducible apply State.flrCtx_kept
    | with_reducible apply State.release_kept
    | with_reducible apply State.ldgThaw_kept
    | with_reducible apply State.patRetire_kept
    | with_reducible apply State.queueOff_kept
    | with_reducible apply State.feSync_kept
    | with_reducible apply State.wrs_kept
    | with_reducible apply State.fl_kept
    | with_reducible refine Kept.foldl ?_ (fun _ _ _ => ?_)
    | with_reducible refine Kept.foldl1 ?_ (fun _ _ _ _ => ?_)
    | with_reducible refine Kept.foldl2 ?_ (fun _ _ _ _ => ?_)
    | with_reducible refine Kept.of_eq1 ?_ (by assumption)
    | with_reducible refine Kept.of_eq2 ?_ (by assumption)
    | with_reducible rfl
    | with_reducible exact fun h => h
    | dsimp only
    | with_reducible apply Kept.ite
    | with_reducible apply KeptO.ite
    | split
    | with_reducible refine Kept.upd0 ?_ ?_ ?_ ?_ ?_ ?_)

end Sys2Proof.Machine
end

