-- ==== Sys2Proof/Laws/KeptBringup.lean ====
section
/-! SUPPORT. Every operation of Machine/Bringup.lean keeps what no command may change. -/

namespace Sys2Proof.Machine

set_option linter.all false

theorem State.goStep_kept {s0 : State} (s : State) (n : Nat) (f : State → State) (h_f : ∀ a0, Kept s0 a0 → Kept s0 (f a0)) (hk : Kept s0 s) : Kept s0 (State.goStep s n f) := by
  unfold State.goStep
  repeat' (first
    | with_reducible assumption
    | with_reducible apply h_f
    | with_reducible apply State.updBoot_kept
    | with_reducible apply State.cfgErr_kept
    | with_reducible apply State.wr_kept
    | with_reducible rfl
    | with_reducible exact fun h => h
    | dsimp only
    | with_reducible apply Kept.ite
    | split
    | exact fun _ => rfl
    | exact fun _ h => h
    | exact fun h => h
    | rfl
    | with_reducible refine Kept.upd0 ?_ ?_ ?_ ?_ ?_ ?_)

theorem State.stepErr_kept {s0 : State} (s : State) (e : Nat) (hk : Kept s0 s) : Kept s0 (State.stepErr s e) := by
  unfold State.stepErr
  repeat' (first
    | with_reducible assumption
    | with_reducible apply State.updBoot_kept
    | with_reducible rfl
    | with_reducible exact fun h => h
    | dsimp only
    | split
    | exact fun _ => rfl
    | exact fun _ h => h
    | exact fun h => h
    | rfl
    | with_reducible refine Kept.upd0 ?_ ?_ ?_ ?_ ?_ ?_)

theorem State.fuseRead_kept {s0 : State} (s : State) (readErr count : Bool) (hk : Kept s0 s) : Kept s0 (State.fuseRead s readErr count) := by
  unfold State.fuseRead
  repeat' (first
    | with_reducible assumption
    | with_reducible apply State.stepErr_kept
    | with_reducible apply State.recWrite_kept
    | with_reducible apply State.updBoot_kept
    | with_reducible apply State.count_kept
    | with_reducible apply State.wrs_kept
    | with_reducible apply State.wr_kept
    | with_reducible refine Kept.foldl ?_ (fun _ _ _ => ?_)
    | with_reducible refine Kept.foldl1 ?_ (fun _ _ _ _ => ?_)
    | with_reducible refine Kept.foldl2 ?_ (fun _ _ _ _ => ?_)
    | with_reducible refine Kept.of_eq1 ?_ (by assumption)
    | with_reducible refine Kept.of_eq2 ?_ (by assumption)
    | with_reducible rfl
    | with_reducible exact fun h => h
    | dsimp only
    | with_reducible apply Kept.ite
    | split
    | exact fun _ => rfl
    | exact fun _ h => h
    | exact fun h => h
    | rfl
    | with_reducible refine Kept.upd0 ?_ ?_ ?_ ?_ ?_ ?_)

theorem execFuseRead_kept {s0 : State} (readErr : Bool) (s : State) (hk : Kept s0 s) : KeptO s0 (execFuseRead readErr s) := by
  unfold execFuseRead
  repeat' (first
    | with_reducible assumption
    | intro _
    | with_reducible apply Kept.next
    | with_reducible apply State.fuseRead_kept
    | with_reducible apply State.goStep_kept
    | with_reducible rfl
    | with_reducible exact fun h => h
    | dsimp only
    | split)

theorem State.repairs_kept {s0 : State} (s : State) (l : List (Nat × Nat × Nat)) (spares : List Nat) (hk : Kept s0 s) : Kept s0 (State.repairs s l spares) := by
  unfold State.repairs
  repeat' (first
    | with_reducible assumption
    | with_reducible apply State.mapSpare_kept
    | with_reducible apply State.updBoot_kept
    | with_reducible apply State.wr_kept
    | with_reducible refine Kept.foldl ?_ (fun _ _ _ => ?_)
    | with_reducible refine Kept.foldl1 ?_ (fun _ _ _ _ => ?_)
    | with_reducible refine Kept.foldl2 ?_ (fun _ _ _ _ => ?_)
    | with_reducible refine Kept.of_eq1 ?_ (by assumption)
    | with_reducible refine Kept.of_eq2 ?_ (by assumption)
    | with_reducible rfl
    | with_reducible exact fun h => h
    | dsimp only
    | with_reducible apply Kept.ite
    | with_reducible apply Kept.ite1
    | with_reducible apply Kept.ite2
    | split
    | exact fun _ => rfl
    | exact fun _ h => h
    | exact fun h => h
    | rfl
    | with_reducible refine Kept.upd0 ?_ ?_ ?_ ?_ ?_ ?_)

theorem execYieldMap_kept {s0 : State} (s : State) (hk : Kept s0 s) : KeptO s0 (execYieldMap s) := by
  unfold execYieldMap
  repeat' (first
    | with_reducible assumption
    | intro _
    | with_reducible apply Kept.next
    | with_reducible apply State.repairs_kept
    | with_reducible apply State.stepErr_kept
    | with_reducible apply State.goStep_kept
    | with_reducible apply State.wrs_kept
    | with_reducible refine Kept.foldl ?_ (fun _ _ _ => ?_)
    | with_reducible refine Kept.foldl1 ?_ (fun _ _ _ _ => ?_)
    | with_reducible refine Kept.foldl2 ?_ (fun _ _ _ _ => ?_)
    | with_reducible refine Kept.of_eq1 ?_ (by assumption)
    | with_reducible refine Kept.of_eq2 ?_ (by assumption)
    | with_reducible rfl
    | with_reducible exact fun h => h
    | dsimp only
    | with_reducible apply Kept.ite
    | with_reducible apply KeptO.ite
    | split)

theorem State.capAbsent_kept {s0 : State} (s : State) (hk : Kept s0 s) : Kept s0 (State.capAbsent s) := by
  unfold State.capAbsent
  repeat' (first
    | with_reducible assumption
    | with_reducible apply State.disableUnit_kept
    | with_reducible apply State.capEdit_kept
    | with_reducible refine Kept.foldl ?_ (fun _ _ _ => ?_)
    | with_reducible refine Kept.foldl1 ?_ (fun _ _ _ _ => ?_)
    | with_reducible refine Kept.foldl2 ?_ (fun _ _ _ _ => ?_)
    | with_reducible refine Kept.of_eq1 ?_ (by assumption)
    | with_reducible refine Kept.of_eq2 ?_ (by assumption)
    | with_reducible rfl
    | with_reducible exact fun h => h
    | dsimp only
    | with_reducible apply Kept.ite
    | split
    | with_reducible refine Kept.upd0 ?_ ?_ ?_ ?_ ?_ ?_)

theorem execLicenceCheck_kept {s0 : State} (readErr : Bool) (s : State) (hk : Kept s0 s) : KeptO s0 (execLicenceCheck readErr s) := by
  unfold execLicenceCheck
  repeat' (first
    | with_reducible assumption
    | intro _
    | with_reducible apply Kept.next
    | with_reducible apply State.capAbsent_kept
    | with_reducible apply State.stepErr_kept
    | with_reducible apply State.goStep_kept
    | with_reducible apply State.wrs_kept
    | with_reducible apply State.wr_kept
    | with_reducible refine Kept.foldl ?_ (fun _ _ _ => ?_)
    | with_reducible refine Kept.foldl1 ?_ (fun _ _ _ _ => ?_)
    | with_reducible refine Kept.foldl2 ?_ (fun _ _ _ _ => ?_)
    | with_reducible refine Kept.of_eq1 ?_ (by assumption)
    | with_reducible refine Kept.of_eq2 ?_ (by assumption)
    | with_reducible rfl
    | with_reducible exact fun h => h
    | dsimp only
    | with_reducible apply Kept.ite
    | with_reducible apply KeptO.ite
    | split
    | with_reducible refine Kept.upd0 ?_ ?_ ?_ ?_ ?_ ?_)

theorem execHbmTrain_kept {s0 : State} (fails : List Nat) (s : State) (hk : Kept s0 s) : KeptO s0 (execHbmTrain fails s) := by
  unfold execHbmTrain
  repeat' (first
    | with_reducible assumption
    | intro _
    | with_reducible apply Kept.next
    | with_reducible apply State.stepErr_kept
    | with_reducible apply State.goStep_kept
    | with_reducible apply State.updBoot_kept
    | with_reducible apply State.wr_kept
    | with_reducible refine Kept.foldl ?_ (fun _ _ _ => ?_)
    | with_reducible refine Kept.foldl1 ?_ (fun _ _ _ _ => ?_)
    | with_reducible refine Kept.foldl2 ?_ (fun _ _ _ _ => ?_)
    | with_reducible refine Kept.of_eq1 ?_ (by assumption)
    | with_reducible refine Kept.of_eq2 ?_ (by assumption)
    | with_reducible rfl
    | with_reducible exact fun h => h
    | dsimp only
    | with_reducible apply Kept.ite
    | with_reducible apply KeptO.ite
    | split
    | exact fun _ => rfl
    | exact fun _ h => h
    | exact fun h => h
    | rfl
    | with_reducible refine Kept.upd0 ?_ ?_ ?_ ?_ ?_ ?_)

theorem State.slotLoad_kept {s0 : State} (s : State) (k : Nat) (hk : Kept s0 s) : Kept s0 (State.slotLoad s k) := by
  unfold State.slotLoad
  repeat' (first
    | with_reducible assumption
    | with_reducible apply State.updBoot_kept
    | with_reducible apply State.wrs_kept
    | with_reducible refine Kept.foldl ?_ (fun _ _ _ => ?_)
    | with_reducible refine Kept.foldl1 ?_ (fun _ _ _ _ => ?_)
    | with_reducible refine Kept.foldl2 ?_ (fun _ _ _ _ => ?_)
    | with_reducible refine Kept.of_eq1 ?_ (by assumption)
    | with_reducible refine Kept.of_eq2 ?_ (by assumption)
    | with_reducible rfl
    | with_reducible exact fun h => h
    | exact Memory.wf_filter _
    | exact Memory.wf_zero _ _
    | exact Memory.wf_writeMask _ _ _
    | exact Memory.wf_write _ _
    | dsimp only
    | with_reducible apply Kept.ite
    | split
    | exact fun _ => rfl
    | exact fun _ h => h
    | exact fun h => h
    | rfl
    | with_reducible refine Kept.upd0 ?_ ?_ ?_ ?_ ?_ ?_)

theorem execFirmwareLoad_kept {s0 : State} (readErr : Bool) (s : State) (hk : Kept s0 s) : KeptO s0 (execFirmwareLoad readErr s) := by
  unfold execFirmwareLoad
  repeat' (first
    | with_reducible assumption
    | intro _
    | with_reducible apply Kept.next
    | with_reducible apply State.slotLoad_kept
    | with_reducible apply State.stepErr_kept
    | with_reducible apply State.goStep_kept
    | with_reducible apply State.recWrite_kept
    | with_reducible apply State.fl_kept
    | with_reducible apply State.wr_kept
    | with_reducible rfl
    | with_reducible exact fun h => h
    | exact Memory.wf_filter _
    | exact Memory.wf_zero _ _
    | exact Memory.wf_writeMask _ _ _
    | exact Memory.wf_write _ _
    | dsimp only
    | with_reducible apply Kept.ite
    | with_reducible apply KeptO.ite
    | split
    | with_reducible refine Kept.upd0 ?_ ?_ ?_ ?_ ?_ ?_)

theorem State.startRec_kept {s0 : State} (s : State) (hk : Kept s0 s) : Kept s0 (State.startRec s) := by
  unfold State.startRec
  repeat' (first
    | with_reducible assumption
    | with_reducible apply State.ldgTake_kept
    | with_reducible refine Kept.foldl ?_ (fun _ _ _ => ?_)
    | with_reducible refine Kept.foldl1 ?_ (fun _ _ _ _ => ?_)
    | with_reducible refine Kept.foldl2 ?_ (fun _ _ _ _ => ?_)
    | with_reducible refine Kept.of_eq1 ?_ (by assumption)
    | with_reducible refine Kept.of_eq2 ?_ (by assumption)
    | with_reducible rfl
    | with_reducible exact fun h => h
    | dsimp only
    | split)

theorem State.foremanStart_kept {s0 : State} (s : State) (recovery : Bool) (hk : Kept s0 s) : Kept s0 (State.foremanStart s recovery) := by
  unfold State.foremanStart
  repeat' (first
    | with_reducible assumption
    | with_reducible apply State.startRec_kept
    | with_reducible apply State.domSync_kept
    | with_reducible apply State.odmStart_kept
    | with_reducible apply State.ldgThaw_kept
    | with_reducible apply State.ldgReload_kept
    | with_reducible rfl
    | with_reducible exact fun h => h
    | dsimp only
    | with_reducible apply Kept.ite
    | split)

theorem execMicrocodeBroadcast_kept {s0 : State} (fails : List (Nat × Nat)) (s : State) (hk : Kept s0 s) : KeptO s0 (execMicrocodeBroadcast fails s) := by
  unfold execMicrocodeBroadcast
  repeat' (first
    | with_reducible assumption
    | intro _
    | with_reducible apply Kept.next
    | with_reducible apply State.stepErr_kept
    | with_reducible apply State.goStep_kept
    | with_reducible apply State.ucodeFail_kept
    | with_reducible rfl
    | with_reducible exact fun h => h
    | dsimp only
    | with_reducible apply Kept.ite
    | with_reducible apply KeptO.ite
    | split)

theorem execBootSelftest_kept {s0 : State} (fails : List (Nat × Nat)) (spares : List Nat) (shared : Bool) (d0 d1 : Nat) (s : State) (hk : Kept s0 s) : KeptO s0 (execBootSelftest fails spares shared d0 d1 s) := by
  unfold execBootSelftest
  repeat' (first
    | with_reducible assumption
    | intro _
    | with_reducible apply Kept.next
    | with_reducible apply State.stepErr_kept
    | with_reducible apply State.goStep_kept
    | with_reducible apply State.ageMeasure_kept
    | with_reducible apply State.testRec_kept
    | with_reducible apply State.retire_kept
    | with_reducible apply State.capChanged_kept
    | with_reducible apply State.capEdit_kept
    | with_reducible apply State.count_kept
    | with_reducible refine Kept.foldl ?_ (fun _ _ _ => ?_)
    | with_reducible refine Kept.of_eq2 ?_ (by assumption)
    | with_reducible refine Kept.foldl1 ?_ (fun _ _ _ _ => ?_)
    | with_reducible refine Kept.foldl2 ?_ (fun _ _ _ _ => ?_)
    | with_reducible refine Kept.of_eq1 ?_ (by assumption)
    | with_reducible rfl
    | with_reducible exact fun h => h
    | dsimp only
    | with_reducible apply Kept.ite
    | with_reducible apply Kept.ite1
    | with_reducible apply Kept.ite2
    | with_reducible apply KeptO.ite
    | split
    | with_reducible refine Kept.upd0 ?_ ?_ ?_ ?_ ?_ ?_)

theorem execCarveoutCheck_kept {s0 : State} (s : State) (hk : Kept s0 s) : KeptO s0 (execCarveoutCheck s) := by
  unfold execCarveoutCheck
  repeat' (first
    | with_reducible assumption
    | intro _
    | with_reducible apply Kept.next
    | with_reducible apply State.stepErr_kept
    | with_reducible apply State.goStep_kept
    | with_reducible rfl
    | with_reducible exact fun h => h
    | dsimp only
    | with_reducible apply Kept.ite
    | with_reducible apply KeptO.ite
    | split)

theorem execEnable_kept {s0 : State} (s : State) (hk : Kept s0 s) : KeptO s0 (execEnable s) := by
  unfold execEnable
  repeat' (first
    | with_reducible assumption
    | intro _
    | with_reducible apply Kept.next
    | with_reducible apply State.goStep_kept
    | with_reducible apply id_kept
    | with_reducible rfl
    | with_reducible exact fun h => h
    | dsimp only
    | split)

theorem State.enabled_kept {s0 : State} (s : State) (hk : Kept s0 s) : Kept s0 (State.enabled s) := by
  unfold State.enabled
  repeat' (first
    | with_reducible assumption
    | with_reducible apply State.safeLate_kept
    | with_reducible apply State.runAll_kept
    | with_reducible apply State.domSync_kept
    | with_reducible apply State.recWrite_kept
    | with_reducible apply State.incClose_kept
    | with_reducible apply State.safUpdate_kept
    | with_reducible apply State.fl_kept
    | with_reducible apply State.wr_kept
    | with_reducible rfl
    | with_reducible exact fun h => h
    | dsimp only
    | with_reducible apply Kept.ite
    | split
    | with_reducible refine Kept.upd0 ?_ ?_ ?_ ?_ ?_ ?_)

theorem State.failRec_kept {s0 : State} (s : State) (n e : Nat) (hk : Kept s0 s) : Kept s0 (State.failRec s n e) := by
  unfold State.failRec
  repeat' (first
    | with_reducible assumption
    | with_reducible apply State.recWrite_kept
    | with_reducible rfl
    | with_reducible exact fun h => h
    | dsimp only
    | with_reducible apply Kept.ite
    | split
    | with_reducible refine Kept.upd0 ?_ ?_ ?_ ?_ ?_ ?_)

theorem State.recoveryFuses_kept {s0 : State} (s : State) (hk : Kept s0 s) : Kept s0 (State.recoveryFuses s) := by
  unfold State.recoveryFuses
  repeat' (first
    | with_reducible assumption
    | with_reducible apply State.fuseRead_kept
    | with_reducible apply State.updBoot_kept
    | with_reducible apply State.wr_kept
    | with_reducible rfl
    | with_reducible exact fun h => h
    | dsimp only
    | split
    | exact fun _ => rfl
    | exact fun _ h => h
    | exact fun h => h
    | rfl
    | with_reducible refine Kept.upd0 ?_ ?_ ?_ ?_ ?_ ?_)

theorem State.stepDone_kept {s0 : State} (s : State) (n : Nat) (hk : Kept s0 s) : Kept s0 (State.stepDone s n) := by
  unfold State.stepDone
  repeat' (first
    | with_reducible assumption
    | with_reducible apply State.enabled_kept
    | with_reducible apply State.foremanStart_kept
    | with_reducible apply State.domSync_kept
    | with_reducible apply State.fl_kept
    | with_reducible apply State.wr_kept
    | with_reducible refine Kept.foldl ?_ (fun _ _ _ => ?_)
    | with_reducible refine Kept.foldl1 ?_ (fun _ _ _ _ => ?_)
    | with_reducible refine Kept.foldl2 ?_ (fun _ _ _ _ => ?_)
    | with_reducible refine Kept.of_eq1 ?_ (by assumption)
    | with_reducible refine Kept.of_eq2 ?_ (by assumption)
    | with_reducible rfl
    | with_reducible exact fun h => h
    | dsimp only
    | with_reducible apply Kept.ite
    | split)

theorem execBootStepDone_kept {s0 : State} (s : State) (hk : Kept s0 s) : KeptO s0 (execBootStepDone s) := by
  unfold execBootStepDone
  repeat' (first
    | with_reducible assumption
    | with_reducible apply Kept.next
    | with_reducible apply State.stepDone_kept
    | with_reducible apply State.recoveryFuses_kept
    | with_reducible apply State.failRec_kept
    | with_reducible apply State.foremanStart_kept
    | with_reducible apply State.wrs_kept
    | with_reducible apply State.wr_kept
    | with_reducible refine Kept.foldl ?_ (fun _ _ _ => ?_)
    | with_reducible refine Kept.foldl1 ?_ (fun _ _ _ _ => ?_)
    | with_reducible refine Kept.foldl2 ?_ (fun _ _ _ _ => ?_)
    | with_reducible refine Kept.of_eq1 ?_ (by assumption)
    | with_reducible refine Kept.of_eq2 ?_ (by assumption)
    | with_reducible rfl
    | with_reducible exact fun h => h
    | dsimp only
    | with_reducible apply Kept.ite
    | with_reducible apply KeptO.ite
    | split
    | with_reducible refine Kept.upd0 ?_ ?_ ?_ ?_ ?_ ?_)

theorem execBootStepTimeout_kept {s0 : State} (s : State) (hk : Kept s0 s) : KeptO s0 (execBootStepTimeout s) := by
  unfold execBootStepTimeout
  repeat' (first
    | with_reducible assumption
    | with_reducible apply Kept.next
    | with_reducible apply State.failRec_kept
    | with_reducible apply State.wrs_kept
    | with_reducible rfl
    | with_reducible exact fun h => h
    | dsimp only
    | with_reducible apply Kept.ite
    | with_reducible apply KeptO.ite
    | split
    | with_reducible refine Kept.upd0 ?_ ?_ ?_ ?_ ?_ ?_)

theorem execPerstRelease_kept {s0 : State} (devId : Nat) (recov jtag : Bool) (s : State) (hk : Kept s0 s) : KeptO s0 (execPerstRelease devId recov jtag s) := by
  unfold execPerstRelease
  repeat' (first
    | with_reducible assumption
    | with_reducible apply Kept.next
    | with_reducible apply State.meshOwn_kept
    | with_reducible apply State.tryStart_kept
    | with_reducible apply State.updBoot_kept
    | with_reducible apply State.wrs_kept
    | with_reducible apply State.wr_kept
    | with_reducible rfl
    | with_reducible exact fun h => h
    | dsimp only
    | with_reducible apply Kept.ite
    | with_reducible apply KeptO.ite
    | split
    | exact fun _ => rfl
    | exact fun _ h => h
    | exact fun h => h
    | rfl
    | with_reducible refine Kept.upd0 ?_ ?_ ?_ ?_ ?_ ?_)

theorem execRecovExit_kept {s0 : State} (s : State) (hk : Kept s0 s) : KeptO s0 (execRecovExit s) := by
  unfold execRecovExit
  repeat' (first
    | with_reducible assumption
    | with_reducible apply Kept.next
    | with_reducible apply State.recWrite_kept
    | with_reducible apply State.cfgErr_kept
    | with_reducible apply State.wr_kept
    | with_reducible rfl
    | with_reducible exact fun h => h
    | dsimp only
    | with_reducible apply Kept.ite
    | with_reducible apply KeptO.ite
    | split
    | with_reducible refine Kept.upd0 ?_ ?_ ?_ ?_ ?_ ?_)

theorem execTrialReq_kept {s0 : State} (s : State) (hk : Kept s0 s) : KeptO s0 (execTrialReq s) := by
  unfold execTrialReq
  repeat' (first
    | with_reducible assumption
    | with_reducible apply Kept.next
    | with_reducible apply State.recWrite_kept
    | with_reducible rfl
    | with_reducible exact fun h => h
    | dsimp only
    | with_reducible apply Kept.ite
    | with_reducible apply KeptO.ite
    | split
    | with_reducible refine Kept.upd0 ?_ ?_ ?_ ?_ ?_ ?_)

theorem State.flashGo_kept {s0 : State} (s : State) (op : Nat) (f : State → Nat → Nat → State) (h_f : ∀ a0 a1 a2, Kept s0 a0 → Kept s0 (f a0 a1 a2)) (hk : Kept s0 s) : Kept s0 (State.flashGo s op f) := by
  unfold State.flashGo
  repeat' (first
    | with_reducible assumption
    | with_reducible apply h_f
    | with_reducible apply State.updBoot_kept
    | with_reducible apply State.cfgErr_kept
    | with_reducible apply State.fl_kept
    | with_reducible rfl
    | with_reducible exact fun h => h
    | dsimp only
    | with_reducible apply Kept.ite
    | split
    | exact fun _ => rfl
    | exact fun _ h => h
    | exact fun h => h
    | rfl
    | with_reducible refine Kept.upd0 ?_ ?_ ?_ ?_ ?_ ?_)

theorem execFlashRead_kept {s0 : State} (s : State) (hk : Kept s0 s) : KeptO s0 (execFlashRead s) := by
  unfold execFlashRead
  repeat' (first
    | with_reducible assumption
    | intro _
    | with_reducible apply Kept.next
    | with_reducible apply State.flashGo_kept
    | with_reducible apply State.updBoot_kept
    | with_reducible apply State.freeBytes_kept
    | with_reducible refine Kept.of_eq2 ?_ (by assumption)
    | with_reducible rfl
    | with_reducible exact fun h => h
    | dsimp only
    | with_reducible apply Kept.ite
    | with_reducible apply Kept.ite1
    | with_reducible apply Kept.ite2
    | with_reducible apply KeptO.ite
    | split
    | exact fun _ => rfl
    | exact fun _ h => h
    | exact fun h => h
    | rfl
    | with_reducible refine Kept.upd0 ?_ ?_ ?_ ?_ ?_ ?_)

theorem State.flashSync_kept {s0 : State} (s : State) (a n : Nat) (hk : Kept s0 s) : Kept s0 (State.flashSync s a n) := by
  unfold State.flashSync
  repeat' (first
    | with_reducible assumption
    | with_reducible apply State.updOdm_kept
    | with_reducible apply State.updBoot_kept
    | with_reducible rfl
    | with_reducible exact fun h => h
    | dsimp only
    | with_reducible apply Kept.ite
    | split
    | exact fun _ => rfl
    | exact fun _ h => h
    | exact fun h => h
    | rfl
    | with_reducible refine Kept.upd0 ?_ ?_ ?_ ?_ ?_ ?_)

theorem execFlashProgram_kept {s0 : State} (s : State) (hk : Kept s0 s) : KeptO s0 (execFlashProgram s) := by
  unfold execFlashProgram
  repeat' (first
    | with_reducible assumption
    | intro _
    | with_reducible apply Kept.next
    | with_reducible apply State.flashSync_kept
    | with_reducible apply State.flashGo_kept
    | with_reducible apply State.flashProgram_kept
    | with_reducible apply State.updBoot_kept
    | with_reducible rfl
    | with_reducible exact fun h => h
    | dsimp only
    | with_reducible apply Kept.ite
    | with_reducible apply KeptO.ite
    | split
    | exact fun _ => rfl
    | exact fun _ h => h
    | exact fun h => h
    | rfl
    | with_reducible refine Kept.upd0 ?_ ?_ ?_ ?_ ?_ ?_)

theorem execFlashErase_kept {s0 : State} (s : State) (hk : Kept s0 s) : KeptO s0 (execFlashErase s) := by
  unfold execFlashErase
  repeat' (first
    | with_reducible assumption
    | intro _
    | with_reducible apply Kept.next
    | with_reducible apply State.flashSync_kept
    | with_reducible apply State.flashGo_kept
    | with_reducible apply State.flashErase_kept
    | with_reducible rfl
    | with_reducible exact fun h => h
    | dsimp only
    | split)

theorem execFlashDone_kept {s0 : State} (s : State) (hk : Kept s0 s) : KeptO s0 (execFlashDone s) := by
  unfold execFlashDone
  repeat' (first
    | with_reducible assumption
    | with_reducible apply Kept.next
    | with_reducible apply State.wrs_kept
    | with_reducible rfl
    | with_reducible exact fun h => h
    | dsimp only
    | with_reducible apply Kept.ite
    | with_reducible apply KeptO.ite
    | split)

end Sys2Proof.Machine
end

