-- ==== Sys2Proof/Laws/KeptContexts.lean ====
section
/-! SUPPORT. Every operation of Machine/Contexts.lean keeps what no command may change. -/

namespace Sys2Proof.Machine

set_option linter.all false

theorem State.ctxPart_kept {s0 : State} (s : State) (c part : Nat) (hk : Kept s0 s) : Kept s0 (State.ctxPart s c part) := by
  unfold State.ctxPart
  repeat' (first
    | with_reducible assumption
    | with_reducible apply State.cfgErr_kept
    | with_reducible apply State.wr_kept
    | with_reducible rfl
    | with_reducible exact fun h => h
    | dsimp only
    | with_reducible apply Kept.ite
    | split)

theorem State.ctxWrite_kept {s0 : State} (s : State) (c : Nat) (en : Bool) (part : Nat) (hk : Kept s0 s) : Kept s0 (State.ctxWrite s c en part) := by
  unfold State.ctxWrite
  repeat' (first
    | with_reducible assumption
    | with_reducible apply State.ctxPart_kept
    | with_reducible apply State.tdBegin_kept
    | with_reducible apply State.cfgErr_kept
    | with_reducible apply State.fl_kept
    | with_reducible apply State.wr_kept
    | with_reducible rfl
    | with_reducible exact fun h => h
    | dsimp only
    | with_reducible apply Kept.ite
    | split)

theorem execCtxEnable_kept {s0 : State} (c part : Nat) (s : State) (hk : Kept s0 s) : KeptO s0 (execCtxEnable c part s) := by
  unfold execCtxEnable
  repeat' (first
    | with_reducible assumption
    | with_reducible apply Kept.next
    | with_reducible refine State.hostDo_kept ?_ ?_
    | with_reducible apply State.ctxWrite_kept
    | with_reducible rfl
    | with_reducible exact fun h => h
    | exact Memory.wf_filter _
    | exact Memory.wf_zero _ _
    | exact Memory.wf_writeMask _ _ _
    | exact Memory.wf_write _ _
    | dsimp only
    | with_reducible apply Kept.ite
    | with_reducible apply KeptO.ite
    | split)

theorem execCtxTeardownRequest_kept {s0 : State} (c part : Nat) (s : State) (hk : Kept s0 s) : KeptO s0 (execCtxTeardownRequest c part s) := by
  unfold execCtxTeardownRequest
  repeat' (first
    | with_reducible assumption
    | with_reducible apply Kept.next
    | with_reducible refine State.hostDo_kept ?_ ?_
    | with_reducible apply State.ctxWrite_kept
    | with_reducible rfl
    | with_reducible exact fun h => h
    | exact Memory.wf_filter _
    | exact Memory.wf_zero _ _
    | exact Memory.wf_writeMask _ _ _
    | exact Memory.wf_write _ _
    | dsimp only
    | with_reducible apply Kept.ite
    | with_reducible apply KeptO.ite
    | split)

theorem execCtxFree_kept {s0 : State} (c part : Nat) (s : State) (hk : Kept s0 s) : KeptO s0 (execCtxFree c part s) := by
  unfold execCtxFree
  repeat' (first
    | with_reducible assumption
    | with_reducible apply Kept.next
    | with_reducible refine State.hostDo_kept ?_ ?_
    | with_reducible apply State.ctxWrite_kept
    | with_reducible rfl
    | with_reducible exact fun h => h
    | exact Memory.wf_filter _
    | exact Memory.wf_zero _ _
    | exact Memory.wf_writeMask _ _ _
    | exact Memory.wf_write _ _
    | dsimp only
    | with_reducible apply Kept.ite
    | with_reducible apply KeptO.ite
    | split)

end Sys2Proof.Machine
end

