-- ==== Sys2Proof/Laws/KeptDebug.lean ====
section
/-! SUPPORT. Every operation of Machine/Debug.lean keeps what no command may change. -/

namespace Sys2Proof.Machine

set_option linter.all false

theorem State.dbgName_kept {s0 : State} (s : State) (cluster core slot : Nat) (byCtx : Bool) (ctx : Nat) (hk : Kept s0 s) : Kept s0 (State.dbgName s cluster core slot byCtx ctx) := by
  unfold State.dbgName
  repeat' (first
    | with_reducible assumption
    | with_reducible apply State.haltSync_kept
    | with_reducible apply State.wrs_kept
    | with_reducible rfl
    | with_reducible exact fun h => h
    | dsimp only
    | split)

theorem State.dbgLast_kept {s0 : State} (s : State) (v : Nat) (hk : Kept s0 s) : Kept s0 (State.dbgLast s v) := by
  unfold State.dbgLast
  repeat' (first
    | with_reducible assumption
    | with_reducible apply State.wr_kept
    | with_reducible rfl
    | with_reducible exact fun h => h
    | dsimp only
    | split)

theorem State.askHalt_kept {s0 : State} (s : State) (g : Nat) (hk : Kept s0 s) : Kept s0 (State.askHalt s g) := by
  unfold State.askHalt
  repeat' (first
    | with_reducible assumption
    | with_reducible apply State.haltGroup_kept
    | with_reducible apply State.updGrp_kept
    | with_reducible rfl
    | with_reducible exact fun h => h
    | dsimp only
    | with_reducible apply Kept.ite
    | split
    | with_reducible refine Kept.upd0 ?_ ?_ ?_ ?_ ?_ ?_)

theorem State.dbgHalt_kept {s0 : State} (s : State) (cluster core slot : Nat) (byCtx : Bool) (ctx : Nat) (hk : Kept s0 s) : Kept s0 (State.dbgHalt s cluster core slot byCtx ctx) := by
  unfold State.dbgHalt
  repeat' (first
    | with_reducible assumption
    | with_reducible apply State.askHalt_kept
    | with_reducible apply State.dbgLast_kept
    | with_reducible apply State.dbgName_kept
    | with_reducible apply State.cfgErr_kept
    | with_reducible apply State.count_kept
    | with_reducible refine Kept.foldl ?_ (fun _ _ _ => ?_)
    | with_reducible refine Kept.foldl1 ?_ (fun _ _ _ _ => ?_)
    | with_reducible refine Kept.foldl2 ?_ (fun _ _ _ _ => ?_)
    | with_reducible refine Kept.of_eq1 ?_ (by assumption)
    | with_reducible refine Kept.of_eq2 ?_ (by assumption)
    | with_reducible rfl
    | with_reducible exact fun h => h
    | dsimp only
    | with_reducible apply Kept.ite
    | split
    | with_reducible refine Kept.upd0 ?_ ?_ ?_ ?_ ?_ ?_)

theorem execHalt_kept {s0 : State} (cluster core slot : Nat) (byCtx : Bool) (ctx : Nat) (s : State) (hk : Kept s0 s) : KeptO s0 (execHalt cluster core slot byCtx ctx s) := by
  unfold execHalt
  repeat' (first
    | with_reducible assumption
    | with_reducible apply Kept.next
    | with_reducible refine State.hostDo_kept ?_ ?_
    | with_reducible apply State.dbgHalt_kept
    | with_reducible rfl
    | with_reducible exact fun h => h
    | exact Memory.wf_filter _
    | exact Memory.wf_zero _ _
    | exact Memory.wf_writeMask _ _ _
    | exact Memory.wf_write _ _
    | dsimp only
    | split)

theorem execGroupHalted_kept {s0 : State} (g : Nat) (s : State) (hk : Kept s0 s) : KeptO s0 (execGroupHalted g s) := by
  unfold execGroupHalted
  repeat' (first
    | with_reducible assumption
    | with_reducible apply Kept.next
    | with_reducible apply State.haltGroup_kept
    | with_reducible rfl
    | with_reducible exact fun h => h
    | dsimp only
    | with_reducible apply Kept.ite
    | with_reducible apply KeptO.ite
    | split
    | with_reducible refine Kept.upd0 ?_ ?_ ?_ ?_ ?_ ?_)

theorem State.release1_kept {s0 : State} (s : State) (g : Nat) (hk : Kept s0 s) : Kept s0 (State.release1 s g) := by
  unfold State.release1
  repeat' (first
    | with_reducible assumption
    | with_reducible apply State.sclSync_kept
    | with_reducible apply State.updGrp_kept
    | with_reducible rfl
    | with_reducible exact fun h => h
    | dsimp only
    | split
    | with_reducible refine Kept.upd0 ?_ ?_ ?_ ?_ ?_ ?_)

theorem State.dbgResume_kept {s0 : State} (s : State) (cluster core slot : Nat) (byCtx : Bool) (ctx : Nat) (hk : Kept s0 s) : Kept s0 (State.dbgResume s cluster core slot byCtx ctx) := by
  unfold State.dbgResume
  repeat' (first
    | with_reducible assumption
    | with_reducible apply State.release1_kept
    | with_reducible apply State.dbgLast_kept
    | with_reducible apply State.dbgName_kept
    | with_reducible apply State.haltSync_kept
    | with_reducible apply State.cfgErr_kept
    | with_reducible refine Kept.foldl ?_ (fun _ _ _ => ?_)
    | with_reducible refine Kept.foldl1 ?_ (fun _ _ _ _ => ?_)
    | with_reducible refine Kept.foldl2 ?_ (fun _ _ _ _ => ?_)
    | with_reducible refine Kept.of_eq1 ?_ (by assumption)
    | with_reducible refine Kept.of_eq2 ?_ (by assumption)
    | with_reducible rfl
    | with_reducible exact fun h => h
    | dsimp only
    | with_reducible apply Kept.ite
    | split
    | with_reducible refine Kept.upd0 ?_ ?_ ?_ ?_ ?_ ?_)

theorem execResume_kept {s0 : State} (cluster core slot : Nat) (byCtx : Bool) (ctx : Nat) (s : State) (hk : Kept s0 s) : KeptO s0 (execResume cluster core slot byCtx ctx s) := by
  unfold execResume
  repeat' (first
    | with_reducible assumption
    | with_reducible apply Kept.next
    | with_reducible refine State.hostDo_kept ?_ ?_
    | with_reducible apply State.dbgResume_kept
    | with_reducible rfl
    | with_reducible exact fun h => h
    | exact Memory.wf_filter _
    | exact Memory.wf_zero _ _
    | exact Memory.wf_writeMask _ _ _
    | exact Memory.wf_write _ _
    | dsimp only
    | split)

theorem State.dbgStep_kept {s0 : State} (s : State) (cluster core slot : Nat) (byCtx : Bool) (ctx : Nat) (hk : Kept s0 s) : Kept s0 (State.dbgStep s cluster core slot byCtx ctx) := by
  unfold State.dbgStep
  repeat' (first
    | with_reducible assumption
    | with_reducible apply State.dbgLast_kept
    | with_reducible apply State.dbgName_kept
    | with_reducible apply State.haltSync_kept
    | with_reducible apply State.sclSync_kept
    | with_reducible apply State.updGrp_kept
    | with_reducible apply State.cfgErr_kept
    | with_reducible apply State.count_kept
    | with_reducible rfl
    | with_reducible exact fun h => h
    | dsimp only
    | with_reducible apply Kept.ite
    | split
    | with_reducible refine Kept.upd0 ?_ ?_ ?_ ?_ ?_ ?_)

theorem execStep_kept {s0 : State} (cluster core slot : Nat) (byCtx : Bool) (ctx : Nat) (s : State) (hk : Kept s0 s) : KeptO s0 (execStep cluster core slot byCtx ctx s) := by
  unfold execStep
  repeat' (first
    | with_reducible assumption
    | with_reducible apply Kept.next
    | with_reducible refine State.hostDo_kept ?_ ?_
    | with_reducible apply State.dbgStep_kept
    | with_reducible rfl
    | with_reducible exact fun h => h
    | exact Memory.wf_filter _
    | exact Memory.wf_zero _ _
    | exact Memory.wf_writeMask _ _ _
    | exact Memory.wf_write _ _
    | dsimp only
    | split)

theorem State.dbgAccess_kept {s0 : State} (s : State) (space reg lane : Nat) (write : Bool) (hk : Kept s0 s) : Kept s0 (State.dbgAccess s space reg lane write) := by
  unfold State.dbgAccess
  repeat' (first
    | with_reducible assumption
    | with_reducible apply State.updGrp_kept
    | with_reducible apply State.wrs_kept
    | with_reducible apply State.fl_kept
    | with_reducible apply State.wr_kept
    | with_reducible rfl
    | with_reducible exact fun h => h
    | dsimp only
    | with_reducible apply Kept.ite
    | split
    | with_reducible refine Kept.upd0 ?_ ?_ ?_ ?_ ?_ ?_)

theorem execDbgAcc_kept {s0 : State} (space reg lane : Nat) (write : Bool) (s : State) (hk : Kept s0 s) : KeptO s0 (execDbgAcc space reg lane write s) := by
  unfold execDbgAcc
  repeat' (first
    | with_reducible assumption
    | with_reducible apply Kept.next
    | with_reducible refine State.hostDo_kept ?_ ?_
    | with_reducible apply State.dbgAccess_kept
    | with_reducible rfl
    | with_reducible exact fun h => h
    | exact Memory.wf_filter _
    | exact Memory.wf_zero _ _
    | exact Memory.wf_writeMask _ _ _
    | exact Memory.wf_write _ _
    | dsimp only
    | split)

theorem State.tap_kept {s0 : State} (s : State) (ir dr : Nat) (hk : Kept s0 s) : Kept s0 (State.tap s ir dr) := by
  unfold State.tap
  repeat' (first
    | with_reducible assumption
    | with_reducible rfl
    | with_reducible exact fun h => h
    | dsimp only
    | split
    | with_reducible refine Kept.upd0 ?_ ?_ ?_ ?_ ?_ ?_)

theorem State.tapBypass_kept {s0 : State} (s : State) (hk : Kept s0 s) : Kept s0 (State.tapBypass s) := by
  unfold State.tapBypass
  repeat' (first
    | with_reducible assumption
    | with_reducible apply State.emit_kept
    | with_reducible rfl
    | with_reducible exact fun h => h
    | dsimp only
    | split)

theorem State.tapCapture_kept {s0 : State} (s : State) (hk : Kept s0 s) : Kept s0 (State.tapCapture s) := by
  unfold State.tapCapture
  repeat' (first
    | with_reducible assumption
    | with_reducible apply State.emit_kept
    | with_reducible apply State.free_kept
    | with_reducible refine Kept.of_eq2 ?_ (by assumption)
    | with_reducible rfl
    | with_reducible exact fun h => h
    | dsimp only
    | split
    | with_reducible refine Kept.upd0 ?_ ?_ ?_ ?_ ?_ ?_)

theorem execExtest_kept {s0 : State} (v : Nat) (s : State) (hk : Kept s0 s) : KeptO s0 (execExtest v s) := by
  unfold execExtest
  repeat' (first
    | with_reducible assumption
    | with_reducible apply Kept.next
    | with_reducible apply State.tapCapture_kept
    | with_reducible apply State.tapBypass_kept
    | with_reducible apply State.tap_kept
    | with_reducible rfl
    | with_reducible exact fun h => h
    | dsimp only
    | with_reducible apply Kept.ite
    | with_reducible apply KeptO.ite
    | split
    | with_reducible refine Kept.upd0 ?_ ?_ ?_ ?_ ?_ ?_)

theorem execIdcode_kept {s0 : State} (s : State) (hk : Kept s0 s) : KeptO s0 (execIdcode s) := by
  unfold execIdcode
  repeat' (first
    | with_reducible assumption
    | with_reducible apply Kept.next
    | with_reducible apply State.tap_kept
    | with_reducible apply State.emit_kept
    | with_reducible rfl
    | with_reducible exact fun h => h
    | dsimp only
    | split)

theorem execSamplePreload_kept {s0 : State} (v : Nat) (s : State) (hk : Kept s0 s) : KeptO s0 (execSamplePreload v s) := by
  unfold execSamplePreload
  repeat' (first
    | with_reducible assumption
    | with_reducible apply Kept.next
    | with_reducible apply State.tapCapture_kept
    | with_reducible apply State.tap_kept
    | with_reducible rfl
    | with_reducible exact fun h => h
    | dsimp only
    | split)

theorem execClamp_kept {s0 : State} (s : State) (hk : Kept s0 s) : KeptO s0 (execClamp s) := by
  unfold execClamp
  repeat' (first
    | with_reducible assumption
    | with_reducible apply Kept.next
    | with_reducible apply State.tapBypass_kept
    | with_reducible apply State.tap_kept
    | with_reducible rfl
    | with_reducible exact fun h => h
    | dsimp only
    | with_reducible apply Kept.ite
    | with_reducible apply KeptO.ite
    | split
    | with_reducible refine Kept.upd0 ?_ ?_ ?_ ?_ ?_ ?_)

theorem execBypass_kept {s0 : State} (s : State) (hk : Kept s0 s) : KeptO s0 (execBypass s) := by
  unfold execBypass
  repeat' (first
    | with_reducible assumption
    | with_reducible apply Kept.next
    | with_reducible apply State.tapBypass_kept
    | with_reducible apply State.tap_kept
    | with_reducible rfl
    | with_reducible exact fun h => h
    | dsimp only
    | split)

end Sys2Proof.Machine
end

