-- ==== Sys2Proof/Laws/KeptLink.lean ====
section
/-! SUPPORT. Every operation of Machine/Link.lean keeps what no command may change. -/

namespace Sys2Proof.Machine

set_option linter.all false

theorem State.notifyOpen_kept {s0 : State} (s : State) (p : Nat → Bool) (hk : Kept s0 s) : Kept s0 (State.notifyOpen s p) := by
  unfold State.notifyOpen
  repeat' (first
    | with_reducible assumption
    | with_reducible apply State.notifyTgt_kept
    | with_reducible refine Kept.foldl ?_ (fun _ _ _ => ?_)
    | with_reducible refine Kept.foldl1 ?_ (fun _ _ _ _ => ?_)
    | with_reducible refine Kept.foldl2 ?_ (fun _ _ _ _ => ?_)
    | with_reducible refine Kept.of_eq1 ?_ (by assumption)
    | with_reducible refine Kept.of_eq2 ?_ (by assumption)
    | with_reducible rfl
    | with_reducible exact fun h => h
    | dsimp only
    | with_reducible apply Kept.ite
    | split)

theorem execLinkUp_kept {s0 : State} (speed width : Nat) (flit : Bool) (s : State) (hk : Kept s0 s) : KeptO s0 (execLinkUp speed width flit s) := by
  unfold execLinkUp
  repeat' (first
    | with_reducible assumption
    | with_reducible apply Kept.next
    | with_reducible apply State.notifyOpen_kept
    | with_reducible apply State.emcyClear_kept
    | with_reducible apply State.linkRec_kept
    | with_reducible apply State.syncLevel_kept
    | with_reducible apply State.raise_kept
    | with_reducible apply State.wrs_kept
    | with_reducible rfl
    | with_reducible exact fun h => h
    | dsimp only
    | with_reducible apply Kept.ite
    | with_reducible apply KeptO.ite
    | split
    | with_reducible refine Kept.upd0 ?_ ?_ ?_ ?_ ?_ ?_)

theorem execLinkDown_kept {s0 : State} (s : State) (hk : Kept s0 s) : KeptO s0 (execLinkDown s) := by
  unfold execLinkDown
  repeat' (first
    | with_reducible assumption
    | with_reducible apply Kept.next
    | with_reducible apply State.linkRec_kept
    | with_reducible apply State.emcy_kept
    | with_reducible apply State.syncLevel_kept
    | with_reducible apply State.wrs_kept
    | with_reducible rfl
    | with_reducible exact fun h => h
    | dsimp only
    | with_reducible apply Kept.ite
    | with_reducible apply KeptO.ite
    | split
    | with_reducible refine Kept.upd0 ?_ ?_ ?_ ?_ ?_ ?_)

theorem execHostRequestError_kept {s0 : State} (c eng : Nat) (s : State) (hk : Kept s0 s) : KeptO s0 (execHostRequestError c eng s) := by
  unfold execHostRequestError
  repeat' (first
    | with_reducible assumption
    | with_reducible apply Kept.next
    | with_reducible apply State.ctxFault_kept
    | with_reducible rfl
    | with_reducible exact fun h => h
    | dsimp only
    | with_reducible apply Kept.ite
    | with_reducible apply KeptO.ite
    | split)

theorem State.dropHeld_kept {s0 : State} (s : State) (vs : List Nat) (hk : Kept s0 s) : Kept s0 (State.dropHeld s vs) := by
  unfold State.dropHeld
  repeat' (first
    | with_reducible assumption
    | with_reducible apply State.fl_kept
    | with_reducible refine Kept.foldl ?_ (fun _ _ _ => ?_)
    | with_reducible refine Kept.foldl1 ?_ (fun _ _ _ _ => ?_)
    | with_reducible refine Kept.foldl2 ?_ (fun _ _ _ _ => ?_)
    | with_reducible refine Kept.of_eq1 ?_ (by assumption)
    | with_reducible refine Kept.of_eq2 ?_ (by assumption)
    | with_reducible rfl
    | with_reducible exact fun h => h
    | dsimp only
    | with_reducible apply Kept.ite
    | with_reducible apply Kept.ite1
    | with_reducible apply Kept.ite2
    | with_reducible apply KeptO.ite
    | split
    | with_reducible refine Kept.upd0 ?_ ?_ ?_ ?_ ?_ ?_
    | with_reducible refine Kept.upd1 ?_ ?_ ?_ ?_ ?_ ?_)

theorem State.lendEntries_kept {s0 : State} (s : State) (vs : List Nat) (hk : Kept s0 s) : Kept s0 (State.lendEntries s vs) := by
  unfold State.lendEntries
  repeat' (first
    | with_reducible assumption
    | with_reducible apply State.dropHeld_kept
    | with_reducible refine Kept.foldl ?_ (fun _ _ _ => ?_)
    | with_reducible refine Kept.foldl1 ?_ (fun _ _ _ _ => ?_)
    | with_reducible refine Kept.foldl2 ?_ (fun _ _ _ _ => ?_)
    | with_reducible refine Kept.of_eq1 ?_ (by assumption)
    | with_reducible refine Kept.of_eq2 ?_ (by assumption)
    | with_reducible rfl
    | with_reducible exact fun h => h
    | dsimp only
    | with_reducible apply Kept.ite
    | with_reducible apply Kept.ite1
    | with_reducible apply Kept.ite2
    | with_reducible apply KeptO.ite
    | split
    | with_reducible refine Kept.upd0 ?_ ?_ ?_ ?_ ?_ ?_
    | with_reducible refine Kept.upd1 ?_ ?_ ?_ ?_ ?_ ?_)

theorem State.returnEntries_kept {s0 : State} (s : State) (vs : List Nat) (hk : Kept s0 s) : Kept s0 (State.returnEntries s vs) := by
  unfold State.returnEntries
  repeat' (first
    | with_reducible assumption
    | with_reducible apply State.dropHeld_kept
    | with_reducible refine Kept.foldl ?_ (fun _ _ _ => ?_)
    | with_reducible refine Kept.foldl1 ?_ (fun _ _ _ _ => ?_)
    | with_reducible refine Kept.foldl2 ?_ (fun _ _ _ _ => ?_)
    | with_reducible refine Kept.of_eq1 ?_ (by assumption)
    | with_reducible refine Kept.of_eq2 ?_ (by assumption)
    | with_reducible rfl
    | with_reducible exact fun h => h
    | dsimp only
    | with_reducible apply Kept.ite
    | with_reducible apply Kept.ite1
    | with_reducible apply Kept.ite2
    | with_reducible apply KeptO.ite
    | split
    | with_reducible refine Kept.upd0 ?_ ?_ ?_ ?_ ?_ ?_
    | with_reducible refine Kept.upd1 ?_ ?_ ?_ ?_ ?_ ?_)

theorem execVfDisable_kept {s0 : State} (n : Nat) (s : State) (hk : Kept s0 s) : KeptO s0 (execVfDisable n s) := by
  unfold execVfDisable
  repeat' (first
    | with_reducible assumption
    | with_reducible apply State.returnEntries_kept
    | with_reducible apply Kept.next
    | with_reducible apply State.notifyOpen_kept
    | with_reducible rfl
    | with_reducible exact fun h => h
    | dsimp only
    | with_reducible apply Kept.ite
    | with_reducible apply KeptO.ite
    | split
    | with_reducible refine Kept.upd0 ?_ ?_ ?_ ?_ ?_ ?_)

theorem execVfEnable_kept {s0 : State} (n : Nat) (s : State) (hk : Kept s0 s) : KeptO s0 (execVfEnable n s) := by
  unfold execVfEnable
  repeat' (first
    | with_reducible assumption
    | with_reducible apply execVfDisable_kept
    | with_reducible apply State.lendEntries_kept
    | with_reducible apply Kept.next
    | with_reducible apply State.raise_kept
    | with_reducible apply State.fl_kept
    | with_reducible refine Kept.foldl ?_ (fun _ _ _ => ?_)
    | with_reducible refine Kept.foldl1 ?_ (fun _ _ _ _ => ?_)
    | with_reducible refine Kept.foldl2 ?_ (fun _ _ _ _ => ?_)
    | with_reducible refine Kept.of_eq1 ?_ (by assumption)
    | with_reducible refine Kept.of_eq2 ?_ (by assumption)
    | with_reducible rfl
    | with_reducible exact fun h => h
    | dsimp only
    | with_reducible apply Kept.ite
    | with_reducible apply KeptO.ite
    | split
    | with_reducible refine Kept.upd0 ?_ ?_ ?_ ?_ ?_ ?_)

end Sys2Proof.Machine
end

