-- ==== Sys2Proof/Laws/KeptPexlink.lean ====
section
/-! SUPPORT. Every operation of Machine/Pexlink.lean keeps what no command may change. -/

namespace Sys2Proof.Machine

set_option linter.all false

theorem State.tellPeers_kept {s0 : State} (s : State) (q : Nat → Bool) (kind : Nat) (w : List Nat) (hk : Kept s0 s) : Kept s0 (State.tellPeers s q kind w) := by
  unfold State.tellPeers
  repeat' (first
    | with_reducible assumption
    | with_reducible apply State.emit_kept
    | with_reducible refine Kept.foldl ?_ (fun _ _ _ => ?_)
    | with_reducible refine Kept.foldl1 ?_ (fun _ _ _ _ => ?_)
    | with_reducible refine Kept.foldl2 ?_ (fun _ _ _ _ => ?_)
    | with_reducible refine Kept.of_eq1 ?_ (by assumption)
    | with_reducible refine Kept.of_eq2 ?_ (by assumption)
    | with_reducible rfl
    | with_reducible exact fun h => h
    | dsimp only
    | with_reducible apply Kept.ite
    | split)

theorem State.portSet_kept {s0 : State} (s : State) (p st : Nat) (hk : Kept s0 s) : Kept s0 (State.portSet s p st) := by
  unfold State.portSet
  repeat' (first
    | with_reducible assumption
    | with_reducible apply State.routeLevel_kept
    | with_reducible apply State.emcyClear_kept
    | with_reducible apply State.linkRec_kept
    | with_reducible apply State.emcy_kept
    | with_reducible apply State.syncLevel_kept
    | with_reducible apply State.wr_kept
    | with_reducible rfl
    | with_reducible exact fun h => h
    | dsimp only
    | with_reducible apply Kept.ite
    | split)

theorem State.mirrorLost_kept {s0 : State} (s : State) (i : Nat) (hk : Kept s0 s) : Kept s0 (State.mirrorLost s i) := by
  unfold State.mirrorLost
  repeat' (first
    | with_reducible assumption
    | with_reducible apply State.raise_kept
    | with_reducible apply State.wr_kept
    | with_reducible rfl
    | with_reducible exact fun h => h
    | dsimp only
    | split)

theorem State.mirrorsLost_kept {s0 : State} (s : State) (d : Nat) (hk : Kept s0 s) : Kept s0 (State.mirrorsLost s d) := by
  unfold State.mirrorsLost
  repeat' (first
    | with_reducible assumption
    | with_reducible apply State.mirrorLost_kept
    | with_reducible refine Kept.foldl ?_ (fun _ _ _ => ?_)
    | with_reducible refine Kept.foldl1 ?_ (fun _ _ _ _ => ?_)
    | with_reducible refine Kept.foldl2 ?_ (fun _ _ _ _ => ?_)
    | with_reducible refine Kept.of_eq1 ?_ (by assumption)
    | with_reducible refine Kept.of_eq2 ?_ (by assumption)
    | with_reducible rfl
    | with_reducible exact fun h => h
    | dsimp only
    | with_reducible apply Kept.ite
    | split)

theorem State.portTrained_kept {s0 : State} (s : State) (p : Nat) (narrow slow : Bool) (lat : Nat) (hk : Kept s0 s) : Kept s0 (State.portTrained s p narrow slow lat) := by
  unfold State.portTrained
  repeat' (first
    | with_reducible assumption
    | with_reducible apply State.portSet_kept
    | with_reducible apply State.wrs_kept
    | with_reducible rfl
    | with_reducible exact fun h => h
    | dsimp only
    | with_reducible apply Kept.ite
    | split)

theorem State.portDown_kept {s0 : State} (s : State) (p : Nat) (hk : Kept s0 s) : Kept s0 (State.portDown s p) := by
  unfold State.portDown
  repeat' (first
    | with_reducible assumption
    | with_reducible apply State.mirrorsLost_kept
    | with_reducible apply State.portSet_kept
    | with_reducible rfl
    | with_reducible exact fun h => h
    | dsimp only
    | split)

theorem execPxlTrainingDone_kept {s0 : State} (p : Nat) (ok narrow slow : Bool) (lat : Nat) (s : State) (hk : Kept s0 s) : KeptO s0 (execPxlTrainingDone p ok narrow slow lat s) := by
  unfold execPxlTrainingDone
  repeat' (first
    | with_reducible assumption
    | with_reducible apply Kept.next
    | with_reducible apply State.portDown_kept
    | with_reducible apply State.portTrained_kept
    | with_reducible rfl
    | with_reducible exact fun h => h
    | dsimp only
    | with_reducible apply Kept.ite
    | with_reducible apply KeptO.ite
    | split)

theorem State.roleSet_kept {s0 : State} (s : State) (mgr epoch : Nat) (hk : Kept s0 s) : Kept s0 (State.roleSet s mgr epoch) := by
  unfold State.roleSet
  repeat' (first
    | with_reducible assumption
    | with_reducible apply State.ledger_kept
    | with_reducible apply State.wrs_kept
    | with_reducible rfl
    | with_reducible exact fun h => h
    | dsimp only
    | split
    | with_reducible refine Kept.upd0 ?_ ?_ ?_ ?_ ?_ ?_)

theorem State.noQuorum_kept {s0 : State} (s : State) (b : Bool) (hk : Kept s0 s) : Kept s0 (State.noQuorum s b) := by
  unfold State.noQuorum
  repeat' (first
    | with_reducible assumption
    | with_reducible apply State.routeLevel_kept
    | with_reducible apply State.emcyClear_kept
    | with_reducible apply State.emcy_kept
    | with_reducible apply State.raise_kept
    | with_reducible apply State.fl_kept
    | with_reducible rfl
    | with_reducible exact fun h => h
    | dsimp only
    | with_reducible apply Kept.ite
    | split)

theorem State.takeOver_kept {s0 : State} (s : State) (hk : Kept s0 s) : Kept s0 (State.takeOver s) := by
  unfold State.takeOver
  repeat' (first
    | with_reducible assumption
    | with_reducible apply State.noQuorum_kept
    | with_reducible apply State.roleSet_kept
    | with_reducible apply State.emit_kept
    | with_reducible apply State.wr_kept
    | with_reducible refine Kept.foldl ?_ (fun _ _ _ => ?_)
    | with_reducible refine Kept.foldl1 ?_ (fun _ _ _ _ => ?_)
    | with_reducible refine Kept.foldl2 ?_ (fun _ _ _ _ => ?_)
    | with_reducible refine Kept.of_eq1 ?_ (by assumption)
    | with_reducible refine Kept.of_eq2 ?_ (by assumption)
    | with_reducible rfl
    | with_reducible exact fun h => h
    | dsimp only
    | with_reducible apply Kept.ite
    | split
    | with_reducible refine Kept.upd0 ?_ ?_ ?_ ?_ ?_ ?_)

theorem State.roleCheck_kept {s0 : State} (s : State) (hk : Kept s0 s) : Kept s0 (State.roleCheck s) := by
  unfold State.roleCheck
  repeat' (first
    | with_reducible assumption
    | with_reducible apply State.takeOver_kept
    | with_reducible apply State.noQuorum_kept
    | with_reducible rfl
    | with_reducible exact fun h => h
    | dsimp only
    | with_reducible apply Kept.ite
    | split)

theorem execIdentityExchange_kept {s0 : State} (p family rev devId mgr epoch : Nat) (s : State) (hk : Kept s0 s) : KeptO s0 (execIdentityExchange p family rev devId mgr epoch s) := by
  unfold execIdentityExchange
  repeat' (first
    | with_reducible assumption
    | with_reducible apply Kept.next
    | with_reducible apply State.roleCheck_kept
    | with_reducible apply State.roleSet_kept
    | with_reducible apply State.portSet_kept
    | with_reducible apply State.raise_kept
    | with_reducible apply State.emit_kept
    | with_reducible apply State.wr_kept
    | with_reducible rfl
    | with_reducible exact fun h => h
    | dsimp only
    | with_reducible apply Kept.ite
    | with_reducible apply KeptO.ite
    | split
    | with_reducible refine Kept.upd0 ?_ ?_ ?_ ?_ ?_ ?_)

theorem execHeartbeatSend_kept {s0 : State} (s : State) (hk : Kept s0 s) : KeptO s0 (execHeartbeatSend s) := by
  unfold execHeartbeatSend
  repeat' (first
    | with_reducible assumption
    | with_reducible apply Kept.next
    | with_reducible apply State.tellPeers_kept
    | with_reducible rfl
    | with_reducible exact fun h => h
    | dsimp only
    | with_reducible apply Kept.ite
    | with_reducible apply KeptO.ite
    | split
    | with_reducible refine Kept.upd0 ?_ ?_ ?_ ?_ ?_ ?_)

theorem State.silence_kept {s0 : State} (s : State) (d : Nat) (b : Bool) (hk : Kept s0 s) : Kept s0 (State.silence s d b) := by
  unfold State.silence
  repeat' (first
    | with_reducible assumption
    | with_reducible apply State.roleCheck_kept
    | with_reducible apply State.tellPeers_kept
    | with_reducible rfl
    | with_reducible exact fun h => h
    | dsimp only
    | with_reducible apply Kept.ite
    | split
    | with_reducible refine Kept.upd0 ?_ ?_ ?_ ?_ ?_ ?_)

theorem execHeartbeatReceive_kept {s0 : State} (p : Nat) (s : State) (hk : Kept s0 s) : KeptO s0 (execHeartbeatReceive p s) := by
  unfold execHeartbeatReceive
  repeat' (first
    | with_reducible assumption
    | with_reducible apply Kept.next
    | with_reducible apply State.silence_kept
    | with_reducible rfl
    | with_reducible exact fun h => h
    | dsimp only
    | with_reducible apply Kept.ite
    | with_reducible apply KeptO.ite
    | split
    | with_reducible refine Kept.upd0 ?_ ?_ ?_ ?_ ?_ ?_)

theorem execHbTimeout_kept {s0 : State} (d : Nat) (s : State) (hk : Kept s0 s) : KeptO s0 (execHbTimeout d s) := by
  unfold execHbTimeout
  repeat' (first
    | with_reducible assumption
    | with_reducible apply Kept.next
    | with_reducible apply State.silence_kept
    | with_reducible apply State.mirrorsLost_kept
    | with_reducible rfl
    | with_reducible exact fun h => h
    | dsimp only
    | with_reducible apply Kept.ite
    | with_reducible apply KeptO.ite
    | split
    | with_reducible refine Kept.upd0 ?_ ?_ ?_ ?_ ?_ ?_)

theorem execSilenceReport_kept {s0 : State} (p d : Nat) (silent : Bool) (s : State) (hk : Kept s0 s) : KeptO s0 (execSilenceReport p d silent s) := by
  unfold execSilenceReport
  repeat' (first
    | with_reducible assumption
    | with_reducible apply Kept.next
    | with_reducible apply State.roleCheck_kept
    | with_reducible rfl
    | with_reducible exact fun h => h
    | dsimp only
    | with_reducible apply Kept.ite
    | with_reducible apply KeptO.ite
    | split
    | with_reducible refine Kept.upd0 ?_ ?_ ?_ ?_ ?_ ?_)

theorem execResign_kept {s0 : State} (p : Nat) (s : State) (hk : Kept s0 s) : KeptO s0 (execResign p s) := by
  unfold execResign
  repeat' (first
    | with_reducible assumption
    | with_reducible apply Kept.next
    | with_reducible apply State.takeOver_kept
    | with_reducible rfl
    | with_reducible exact fun h => h
    | dsimp only
    | with_reducible apply Kept.ite
    | with_reducible apply KeptO.ite
    | split)

theorem execManagerMessage_kept {s0 : State} (p epoch : Nat) (s : State) (hk : Kept s0 s) : KeptO s0 (execManagerMessage p epoch s) := by
  unfold execManagerMessage
  repeat' (first
    | with_reducible assumption
    | with_reducible apply Kept.next
    | with_reducible apply State.noQuorum_kept
    | with_reducible apply State.roleSet_kept
    | with_reducible rfl
    | with_reducible exact fun h => h
    | dsimp only
    | with_reducible apply Kept.ite
    | with_reducible apply KeptO.ite
    | split)

theorem execTickBroadcast_kept {s0 : State} (p n : Nat) (s : State) (hk : Kept s0 s) : KeptO s0 (execTickBroadcast p n s) := by
  unfold execTickBroadcast
  repeat' (first
    | with_reducible assumption
    | with_reducible apply Kept.next
    | with_reducible apply State.extTick_kept
    | with_reducible rfl
    | with_reducible exact fun h => h
    | dsimp only
    | with_reducible apply Kept.ite
    | with_reducible apply KeptO.ite
    | split)

theorem State.remoteWait_kept {s0 : State} (s : State) (p i t : Nat) (hk : Kept s0 s) : Kept s0 (State.remoteWait s p i t) := by
  unfold State.remoteWait
  repeat' (first
    | with_reducible assumption
    | with_reducible apply State.dropWaits_kept
    | with_reducible apply State.pushWait_kept
    | with_reducible apply State.pmu_kept
    | with_reducible apply State.count_kept
    | with_reducible apply State.raise_kept
    | with_reducible apply State.emit_kept
    | with_reducible apply State.free_kept
    | with_reducible apply State.wr_kept
    | with_reducible refine Kept.of_eq2 ?_ (by assumption)
    | with_reducible rfl
    | with_reducible exact fun h => h
    | dsimp only
    | with_reducible apply Kept.ite
    | with_reducible apply Kept.ite1
    | with_reducible apply Kept.ite2
    | split
    | with_reducible refine Kept.upd0 ?_ ?_ ?_ ?_ ?_ ?_)

theorem State.answerErr_kept {s0 : State} (s : State) (p : Nat) (viol : Bool) (hk : Kept s0 s) : Kept s0 (State.answerErr s p viol) := by
  unfold State.answerErr
  repeat' (first
    | with_reducible assumption
    | with_reducible apply State.count_kept
    | with_reducible apply State.emit_kept
    | with_reducible rfl
    | with_reducible exact fun h => h
    | dsimp only
    | with_reducible apply Kept.ite
    | split)

theorem State.serveAtomic_kept {s0 : State} (s : State) (p pa n op : Nat) (data : List Nat) (hk : Kept s0 s) : Kept s0 (State.serveAtomic s p pa n op data) := by
  unfold State.serveAtomic
  repeat' (first
    | with_reducible assumption
    | with_reducible apply State.answerErr_kept
    | with_reducible apply State.physRead_kept
    | with_reducible apply State.physWrite_kept
    | with_reducible apply State.emit_kept
    | with_reducible refine Kept.foldl ?_ (fun _ _ _ => ?_)
    | with_reducible refine Kept.foldl1 ?_ (fun _ _ _ _ => ?_)
    | with_reducible refine Kept.foldl2 ?_ (fun _ _ _ _ => ?_)
    | with_reducible refine Kept.of_eq1 ?_ (by assumption)
    | with_reducible refine Kept.of_eq2 ?_ (by assumption)
    | with_reducible rfl
    | with_reducible exact fun h => h
    | dsimp only
    | with_reducible apply Kept.ite
    | with_reducible apply Kept.ite1
    | with_reducible apply Kept.ite2
    | with_reducible apply KeptO.ite
    | split
    | with_reducible refine Kept.upd0 ?_ ?_ ?_ ?_ ?_ ?_
    | with_reducible refine Kept.upd1 ?_ ?_ ?_ ?_ ?_ ?_)

theorem State.serve_kept {s0 : State} (s : State) (p kind a n op : Nat) (data : List Nat) (hk : Kept s0 s) : Kept s0 (State.serve s p kind a n op data) := by
  unfold State.serve
  repeat' (first
    | with_reducible assumption
    | with_reducible apply State.serveAtomic_kept
    | with_reducible apply State.answerErr_kept
    | with_reducible apply State.remoteWait_kept
    | with_reducible apply State.dropWaits_kept
    | with_reducible apply State.signal_kept
    | with_reducible apply State.signalChain_kept
    | with_reducible apply State.physWrite_kept
    | with_reducible apply State.physRead_kept
    | with_reducible apply State.count_kept
    | with_reducible apply State.emit_kept
    | with_reducible refine Kept.of_eq1 ?_ (by assumption)
    | with_reducible rfl
    | with_reducible exact fun h => h
    | dsimp only
    | with_reducible apply Kept.ite
    | with_reducible apply Kept.ite1
    | with_reducible apply Kept.ite2
    | split
    | with_reducible refine Kept.upd0 ?_ ?_ ?_ ?_ ?_ ?_)

theorem execRemoteRequest_kept {s0 : State} (p kind a n op : Nat) (data : List Nat) (s : State) (hk : Kept s0 s) : KeptO s0 (execRemoteRequest p kind a n op data s) := by
  unfold execRemoteRequest
  repeat' (first
    | with_reducible assumption
    | with_reducible apply Kept.next
    | with_reducible apply State.serve_kept
    | with_reducible apply State.answerErr_kept
    | with_reducible rfl
    | with_reducible exact fun h => h
    | dsimp only
    | with_reducible apply Kept.ite
    | with_reducible apply KeptO.ite
    | split)

theorem execForwardedSignal_kept {s0 : State} (i v : Nat) (s : State) (hk : Kept s0 s) : KeptO s0 (execForwardedSignal i v s) := by
  unfold execForwardedSignal
  repeat' (first
    | with_reducible assumption
    | with_reducible apply Kept.next
    | with_reducible apply State.signalChain_kept
    | with_reducible rfl
    | with_reducible exact fun h => h
    | dsimp only
    | with_reducible apply Kept.ite
    | with_reducible apply KeptO.ite
    | split)

theorem execMirrorRefused_kept {s0 : State} (i : Nat) (s : State) (hk : Kept s0 s) : KeptO s0 (execMirrorRefused i s) := by
  unfold execMirrorRefused
  repeat' (first
    | with_reducible assumption
    | with_reducible apply Kept.next
    | with_reducible apply State.mirrorLost_kept
    | with_reducible rfl
    | with_reducible exact fun h => h
    | dsimp only
    | with_reducible apply Kept.ite
    | with_reducible apply KeptO.ite
    | split)

theorem State.retrain_kept {s0 : State} (s : State) (p : Nat) (hk : Kept s0 s) : Kept s0 (State.retrain s p) := by
  unfold State.retrain
  repeat' (first
    | with_reducible assumption
    | with_reducible apply State.portSet_kept
    | with_reducible apply State.count_kept
    | with_reducible rfl
    | with_reducible exact fun h => h
    | dsimp only
    | split
    | with_reducible refine Kept.upd0 ?_ ?_ ?_ ?_ ?_ ?_)

theorem execFlitNak_kept {s0 : State} (p : Nat) (again : Bool) (s : State) (hk : Kept s0 s) : KeptO s0 (execFlitNak p again s) := by
  unfold execFlitNak
  repeat' (first
    | with_reducible assumption
    | with_reducible apply Kept.next
    | with_reducible apply State.retrain_kept
    | with_reducible apply State.count_kept
    | with_reducible rfl
    | with_reducible exact fun h => h
    | dsimp only
    | with_reducible apply Kept.ite
    | with_reducible apply KeptO.ite
    | split
    | with_reducible refine Kept.upd0 ?_ ?_ ?_ ?_ ?_ ?_)

theorem execLossOfLock_kept {s0 : State} (p : Nat) (s : State) (hk : Kept s0 s) : KeptO s0 (execLossOfLock p s) := by
  unfold execLossOfLock
  repeat' (first
    | with_reducible assumption
    | with_reducible apply Kept.next
    | with_reducible apply State.retrain_kept
    | with_reducible rfl
    | with_reducible exact fun h => h
    | dsimp only
    | with_reducible apply Kept.ite
    | with_reducible apply KeptO.ite
    | split)

theorem execPxlRetrainDone_kept {s0 : State} (p : Nat) (ok narrow slow : Bool) (lat : Nat) (s : State) (hk : Kept s0 s) : KeptO s0 (execPxlRetrainDone p ok narrow slow lat s) := by
  unfold execPxlRetrainDone
  repeat' (first
    | with_reducible assumption
    | with_reducible apply Kept.next
    | with_reducible apply State.portDown_kept
    | with_reducible apply State.portTrained_kept
    | with_reducible rfl
    | with_reducible exact fun h => h
    | dsimp only
    | with_reducible apply Kept.ite
    | with_reducible apply KeptO.ite
    | split)

theorem execReqTimeout_kept {s0 : State} (c eng d : Nat) (s : State) (hk : Kept s0 s) : KeptO s0 (execReqTimeout c eng d s) := by
  unfold execReqTimeout
  repeat' (first
    | with_reducible assumption
    | with_reducible apply Kept.next
    | with_reducible apply State.ctxFault_kept
    | with_reducible apply State.reqErr_kept
    | with_reducible rfl
    | with_reducible exact fun h => h
    | dsimp only
    | with_reducible apply Kept.ite
    | with_reducible apply KeptO.ite
    | split)

theorem execHealthWord_kept {s0 : State} (d w : Nat) (s : State) (hk : Kept s0 s) : KeptO s0 (execHealthWord d w s) := by
  unfold execHealthWord
  repeat' (first
    | with_reducible assumption
    | with_reducible apply Kept.next
    | with_reducible apply State.tellPeers_kept
    | with_reducible rfl
    | with_reducible exact fun h => h
    | dsimp only
    | with_reducible apply Kept.ite
    | with_reducible apply KeptO.ite
    | split
    | with_reducible refine Kept.upd0 ?_ ?_ ?_ ?_ ?_ ?_)

end Sys2Proof.Machine
end

