-- ==== Sys2Proof/Laws/KeptRecovery.lean ====
section
/-! SUPPORT. Every operation of Machine/Recovery.lean keeps what no command may change. -/

namespace Sys2Proof.Machine

set_option linter.all false

theorem execCorePatrol_kept {s0 : State} (c k : Nat) (fail : Bool) (s : State) (hk : Kept s0 s) : KeptO s0 (execCorePatrol c k fail s) := by
  unfold execCorePatrol
  repeat' (first
    | with_reducible assumption
    | with_reducible apply Kept.next
    | with_reducible apply State.askTest_kept
    | with_reducible rfl
    | with_reducible exact fun h => h
    | dsimp only
    | with_reducible apply Kept.ite
    | with_reducible apply KeptO.ite
    | split)

theorem State.retryToL3_kept {s0 : State} (s : State) (n : Nat) (hk : Kept s0 s) : Kept s0 (State.retryToL3 s n) := by
  unfold State.retryToL3
  repeat' (first
    | with_reducible assumption
    | with_reducible apply State.incident_kept
    | with_reducible apply State.incWant_kept
    | with_reducible apply State.incOpenSlot_kept
    | with_reducible apply State.incRec_kept
    | with_reducible apply State.safUpdate_kept
    | with_reducible apply State.count_kept
    | with_reducible apply State.fl_kept
    | with_reducible refine Kept.of_eq2 ?_ (by assumption)
    | with_reducible rfl
    | with_reducible exact fun h => h
    | dsimp only
    | with_reducible apply Kept.ite
    | with_reducible apply Kept.ite1
    | with_reducible apply Kept.ite2
    | split
    | with_reducible refine Kept.upd0 ?_ ?_ ?_ ?_ ?_ ?_)

theorem execFabricCrcError_kept {s0 : State} (again : Bool) (s : State) (hk : Kept s0 s) : KeptO s0 (execFabricCrcError again s) := by
  unfold execFabricCrcError
  repeat' (first
    | with_reducible assumption
    | with_reducible apply Kept.next
    | with_reducible apply State.retryToL3_kept
    | with_reducible apply State.incDone_kept
    | with_reducible apply State.incident_kept
    | with_reducible refine Kept.of_eq2 ?_ (by assumption)
    | with_reducible rfl
    | with_reducible exact fun h => h
    | dsimp only
    | with_reducible apply Kept.ite
    | with_reducible apply Kept.ite1
    | with_reducible apply Kept.ite2
    | with_reducible apply KeptO.ite
    | split
    | with_reducible refine Kept.upd0 ?_ ?_ ?_ ?_ ?_ ?_)

theorem execLockstepError_kept {s0 : State} (b : Bool) (s : State) (hk : Kept s0 s) : KeptO s0 (execLockstepError b s) := by
  unfold execLockstepError
  repeat' (first
    | with_reducible assumption
    | with_reducible apply Kept.next
    | with_reducible apply State.monRec_kept
    | with_reducible apply State.incident_kept
    | with_reducible apply State.safUpdate_kept
    | with_reducible apply State.fl_kept
    | with_reducible refine Kept.of_eq2 ?_ (by assumption)
    | with_reducible rfl
    | with_reducible exact fun h => h
    | dsimp only
    | with_reducible apply Kept.ite
    | with_reducible apply Kept.ite1
    | with_reducible apply Kept.ite2
    | with_reducible apply KeptO.ite
    | split)

theorem State.wdogUnit_kept {s0 : State} (s : State) (typ unit owner : Nat) (cs : List Nat) (hk : Kept s0 s) : Kept s0 (State.wdogUnit s typ unit owner cs) := by
  unfold State.wdogUnit
  repeat' (first
    | with_reducible assumption
    | with_reducible apply State.monRec_kept
    | with_reducible apply State.startReset_kept
    | with_reducible apply State.ctxFault_kept
    | with_reducible apply State.incident_kept
    | with_reducible refine Kept.foldl ?_ (fun _ _ _ => ?_)
    | with_reducible refine Kept.of_eq2 ?_ (by assumption)
    | with_reducible refine Kept.foldl1 ?_ (fun _ _ _ _ => ?_)
    | with_reducible refine Kept.foldl2 ?_ (fun _ _ _ _ => ?_)
    | with_reducible refine Kept.of_eq1 ?_ (by assumption)
    | with_reducible rfl
    | with_reducible exact fun h => h
    | dsimp only
    | split)

theorem State.wdogShared_kept {s0 : State} (s : State) (lvl : Nat) (hk : Kept s0 s) : Kept s0 (State.wdogShared s lvl) := by
  unfold State.wdogShared
  repeat' (first
    | with_reducible assumption
    | with_reducible apply State.monRec_kept
    | with_reducible apply State.incident_kept
    | with_reducible apply State.fl_kept
    | with_reducible refine Kept.of_eq2 ?_ (by assumption)
    | with_reducible rfl
    | with_reducible exact fun h => h
    | dsimp only
    | with_reducible apply Kept.ite
    | with_reducible apply Kept.ite1
    | with_reducible apply Kept.ite2
    | split)

theorem execWatchdogFire_kept {s0 : State} (kind unit : Nat) (s : State) (hk : Kept s0 s) : KeptO s0 (execWatchdogFire kind unit s) := by
  unfold execWatchdogFire
  repeat' (first
    | with_reducible assumption
    | with_reducible apply Kept.next
    | with_reducible apply State.wdogShared_kept
    | with_reducible apply State.wdogUnit_kept
    | with_reducible apply State.safUpdate_kept
    | with_reducible apply State.fl_kept
    | with_reducible rfl
    | with_reducible exact fun h => h
    | dsimp only
    | with_reducible apply Kept.ite
    | with_reducible apply KeptO.ite
    | split)

theorem execRecoveryOverrun_kept {s0 : State} (k : Nat) (s : State) (hk : Kept s0 s) : KeptO s0 (execRecoveryOverrun k s) := by
  unfold execRecoveryOverrun
  repeat' (first
    | with_reducible assumption
    | with_reducible apply Kept.next
    | with_reducible apply State.safUpdate_kept
    | with_reducible rfl
    | with_reducible exact fun h => h
    | dsimp only
    | with_reducible apply Kept.ite
    | with_reducible apply KeptO.ite
    | split
    | with_reducible refine Kept.upd0 ?_ ?_ ?_ ?_ ?_ ?_)

theorem execCapGenRead_kept {s0 : State} (s : State) (hk : Kept s0 s) : KeptO s0 (execCapGenRead s) := by
  unfold execCapGenRead
  repeat' (first
    | with_reducible assumption
    | with_reducible apply Kept.next
    | with_reducible apply State.safUpdate_kept
    | with_reducible rfl
    | with_reducible exact fun h => h
    | dsimp only
    | split
    | with_reducible refine Kept.upd0 ?_ ?_ ?_ ?_ ?_ ?_)

theorem execSafeReqAssert_kept {s0 : State} (s : State) (hk : Kept s0 s) : KeptO s0 (execSafeReqAssert s) := by
  unfold execSafeReqAssert
  repeat' (first
    | with_reducible assumption
    | with_reducible apply Kept.next
    | with_reducible apply State.safeApply_kept
    | with_reducible apply State.safUpdate_kept
    | with_reducible apply State.fl_kept
    | with_reducible rfl
    | with_reducible exact fun h => h
    | dsimp only
    | with_reducible apply Kept.ite
    | with_reducible apply KeptO.ite
    | split
    | with_reducible refine Kept.upd0 ?_ ?_ ?_ ?_ ?_ ?_)

theorem execSafeReqRelease_kept {s0 : State} (s : State) (hk : Kept s0 s) : KeptO s0 (execSafeReqRelease s) := by
  unfold execSafeReqRelease
  repeat' (first
    | with_reducible assumption
    | with_reducible apply Kept.next
    | with_reducible apply State.feSync_kept
    | with_reducible apply State.safUpdate_kept
    | with_reducible apply State.ledger_kept
    | with_reducible apply State.fl_kept
    | with_reducible refine Kept.foldl ?_ (fun _ _ _ => ?_)
    | with_reducible refine Kept.foldl1 ?_ (fun _ _ _ _ => ?_)
    | with_reducible refine Kept.foldl2 ?_ (fun _ _ _ _ => ?_)
    | with_reducible refine Kept.of_eq1 ?_ (by assumption)
    | with_reducible refine Kept.of_eq2 ?_ (by assumption)
    | with_reducible rfl
    | with_reducible exact fun h => h
    | dsimp only
    | with_reducible apply Kept.ite
    | with_reducible apply KeptO.ite
    | split
    | with_reducible refine Kept.upd0 ?_ ?_ ?_ ?_ ?_ ?_)

end Sys2Proof.Machine
end

