-- ==== Sys2Proof/Laws/KeptCommit.lean ====
section
/-! SUPPORT. Every operation of Machine/Commit.lean keeps what no command may change. -/

namespace Sys2Proof.Machine

set_option linter.all false

theorem State.withKeys_kept {s0 : State} (s : State) (ks : List (Nat × Nat)) (hk : Kept s0 s) : Kept s0 (State.withKeys s ks) := by
  unfold State.withKeys
  repeat' (first
    | with_reducible assumption
    | with_reducible apply State.wr_kept
    | with_reducible refine Kept.foldl ?_ (fun _ _ _ => ?_)
    | with_reducible refine Kept.foldl1 ?_ (fun _ _ _ _ => ?_)
    | with_reducible refine Kept.foldl2 ?_ (fun _ _ _ _ => ?_)
    | with_reducible refine Kept.of_eq1 ?_ (by assumption)
    | with_reducible refine Kept.of_eq2 ?_ (by assumption)
    | with_reducible rfl
    | with_reducible exact fun h => h
    | dsimp only
    | split
    | with_reducible refine Kept.upd0 ?_ ?_ ?_ ?_ ?_ ?_)

theorem State.loomZero_kept {s0 : State} (s : State) (n : Nat) (hk : Kept s0 s) : Kept s0 (State.loomZero s n) := by
  unfold State.loomZero
  repeat' (first
    | with_reducible assumption
    | with_reducible apply State.wrs_kept
    | with_reducible rfl
    | with_reducible exact fun h => h
    | dsimp only
    | split
    | with_reducible refine Kept.upd0 ?_ ?_ ?_ ?_ ?_ ?_)

theorem State.carve_kept {s0 : State} (s t : State) (hk : Kept s0 s) : Kept s0 (State.carve s t) := by
  unfold State.carve
  repeat' (first
    | with_reducible assumption
    | with_reducible apply State.loomZero_kept
    | with_reducible apply State.initTally_kept
    | with_reducible apply State.clearSync_kept
    | with_reducible apply State.sweepAdd_kept
    | with_reducible refine Kept.foldl ?_ (fun _ _ _ => ?_)
    | with_reducible refine Kept.foldl1 ?_ (fun _ _ _ _ => ?_)
    | with_reducible refine Kept.foldl2 ?_ (fun _ _ _ _ => ?_)
    | with_reducible refine Kept.of_eq1 ?_ (by assumption)
    | with_reducible refine Kept.of_eq2 ?_ (by assumption)
    | with_reducible rfl
    | with_reducible exact fun h => h
    | dsimp only
    | split
    | with_reducible refine Kept.upd0 ?_ ?_ ?_ ?_ ?_ ?_)

theorem State.queueInit_kept {s0 : State} (s : State) (q : Nat) (hk : Kept s0 s) : Kept s0 (State.queueInit s q) := by
  unfold State.queueInit
  repeat' (first
    | with_reducible assumption
    | with_reducible apply State.wrs_kept
    | with_reducible rfl
    | with_reducible exact fun h => h
    | dsimp only
    | split)

theorem State.patFlip_kept {s0 : State} (s t : State) (n : Nat) (hk : Kept s0 s) : Kept s0 (State.patFlip s t n) := by
  unfold State.patFlip
  repeat' (first
    | with_reducible assumption
    | with_reducible apply State.patEnable_kept
    | with_reducible apply State.patRetire_kept
    | with_reducible rfl
    | with_reducible exact fun h => h
    | dsimp only
    | with_reducible apply Kept.ite
    | split)

theorem State.feApplied_kept {s0 : State} (s t : State) (ks : List (Nat × Nat)) (hk : Kept s0 s) : Kept s0 (State.feApplied s t ks) := by
  unfold State.feApplied
  repeat' (first
    | with_reducible assumption
    | with_reducible apply State.patFlip_kept
    | with_reducible apply State.queueInit_kept
    | with_reducible apply State.carve_kept
    | with_reducible apply State.domSync_kept
    | with_reducible apply State.rtRecompute_kept
    | with_reducible apply State.heapSync_kept
    | with_reducible apply State.feSync_kept
    | with_reducible apply State.wr_kept
    | with_reducible refine Kept.foldl ?_ (fun _ _ _ => ?_)
    | with_reducible refine Kept.foldl1 ?_ (fun _ _ _ _ => ?_)
    | with_reducible refine Kept.foldl2 ?_ (fun _ _ _ _ => ?_)
    | with_reducible refine Kept.of_eq1 ?_ (by assumption)
    | with_reducible refine Kept.of_eq2 ?_ (by assumption)
    | with_reducible rfl
    | with_reducible exact fun h => h
    | dsimp only
    | with_reducible apply Kept.ite
    | split
    | with_reducible refine Kept.upd0 ?_ ?_ ?_ ?_ ?_ ?_)

theorem State.tlyApplied_kept {s0 : State} (s t : State) (ks : List (Nat × Nat)) (hk : Kept s0 s) : Kept s0 (State.tlyApplied s t ks) := by
  unfold State.tlyApplied
  repeat' (first
    | with_reducible assumption
    | with_reducible apply State.signalChain_kept
    | with_reducible apply State.exportOne_kept
    | with_reducible refine Kept.foldl ?_ (fun _ _ _ => ?_)
    | with_reducible refine Kept.of_eq1 ?_ (by assumption)
    | with_reducible refine Kept.foldl1 ?_ (fun _ _ _ _ => ?_)
    | with_reducible refine Kept.foldl2 ?_ (fun _ _ _ _ => ?_)
    | with_reducible refine Kept.of_eq2 ?_ (by assumption)
    | with_reducible rfl
    | with_reducible exact fun h => h
    | dsimp only
    | with_reducible apply Kept.ite
    | with_reducible apply Kept.ite1
    | with_reducible apply Kept.ite2
    | split
    | with_reducible refine Kept.upd0 ?_ ?_ ?_ ?_ ?_ ?_)

theorem State.pxlApplied_kept {s0 : State} (s t : State) (ks : List (Nat × Nat)) (hk : Kept s0 s) : Kept s0 (State.pxlApplied s t ks) := by
  unfold State.pxlApplied
  repeat' (first
    | with_reducible assumption
    | with_reducible apply State.mirrorsLost_kept
    | with_reducible apply State.mirrorLost_kept
    | with_reducible apply State.portSet_kept
    | with_reducible apply State.emit_kept
    | with_reducible apply State.wrs_kept
    | with_reducible apply State.wr_kept
    | with_reducible refine Kept.foldl ?_ (fun _ _ _ => ?_)
    | with_reducible refine Kept.foldl1 ?_ (fun _ _ _ _ => ?_)
    | with_reducible refine Kept.foldl2 ?_ (fun _ _ _ _ => ?_)
    | with_reducible refine Kept.of_eq1 ?_ (by assumption)
    | with_reducible refine Kept.of_eq2 ?_ (by assumption)
    | with_reducible rfl
    | with_reducible exact fun h => h
    | dsimp only
    | with_reducible apply Kept.ite
    | split)

theorem State.glzApplied_kept {s0 : State} (s t : State) (ks : List (Nat × Nat)) (hk : Kept s0 s) : Kept s0 (State.glzApplied s t ks) := by
  unfold State.glzApplied
  repeat' (first
    | with_reducible assumption
    | with_reducible apply State.fl_kept
    | with_reducible apply State.wr_kept
    | with_reducible refine Kept.foldl ?_ (fun _ _ _ => ?_)
    | with_reducible refine Kept.foldl1 ?_ (fun _ _ _ _ => ?_)
    | with_reducible refine Kept.foldl2 ?_ (fun _ _ _ _ => ?_)
    | with_reducible refine Kept.of_eq1 ?_ (by assumption)
    | with_reducible refine Kept.of_eq2 ?_ (by assumption)
    | with_reducible rfl
    | with_reducible exact fun h => h
    | dsimp only
    | with_reducible apply Kept.ite
    | split)

theorem State.intcApplied_kept {s0 : State} (s : State) (ks : List (Nat × Nat)) (hk : Kept s0 s) : Kept s0 (State.intcApplied s ks) := by
  unfold State.intcApplied
  repeat' (first
    | with_reducible assumption
    | with_reducible apply State.sendHeld_kept
    | with_reducible refine Kept.foldl ?_ (fun _ _ _ => ?_)
    | with_reducible refine Kept.foldl1 ?_ (fun _ _ _ _ => ?_)
    | with_reducible refine Kept.foldl2 ?_ (fun _ _ _ _ => ?_)
    | with_reducible refine Kept.of_eq1 ?_ (by assumption)
    | with_reducible refine Kept.of_eq2 ?_ (by assumption)
    | with_reducible rfl
    | with_reducible exact fun h => h
    | dsimp only
    | with_reducible apply Kept.ite
    | split
    | with_reducible refine Kept.upd0 ?_ ?_ ?_ ?_ ?_ ?_)

theorem State.dbgApplied_kept {s0 : State} (s : State) (ks : List (Nat × Nat)) (hk : Kept s0 s) : Kept s0 (State.dbgApplied s ks) := by
  unfold State.dbgApplied
  repeat' (first
    | with_reducible assumption
    | with_reducible apply State.wrs_kept
    | with_reducible refine Kept.foldl ?_ (fun _ _ _ => ?_)
    | with_reducible refine Kept.foldl1 ?_ (fun _ _ _ _ => ?_)
    | with_reducible refine Kept.foldl2 ?_ (fun _ _ _ _ => ?_)
    | with_reducible refine Kept.of_eq1 ?_ (by assumption)
    | with_reducible refine Kept.of_eq2 ?_ (by assumption)
    | with_reducible rfl
    | with_reducible exact fun h => h
    | dsimp only
    | split)

theorem State.applied_kept {s0 : State} (s : State) (b : Blk) (t : State) (ks : List (Nat × Nat)) (hk : Kept s0 s) : Kept s0 (State.applied s b t ks) := by
  unfold State.applied
  repeat' (first
    | with_reducible assumption
    | with_reducible apply State.dbgApplied_kept
    | with_reducible apply State.intcApplied_kept
    | with_reducible apply State.glzApplied_kept
    | with_reducible apply State.pxlApplied_kept
    | with_reducible apply State.tlyApplied_kept
    | with_reducible apply State.feApplied_kept
    | with_reducible apply State.powerRec_kept
    | with_reducible apply State.safUpdate_kept
    | with_reducible refine Kept.foldl ?_ (fun _ _ _ => ?_)
    | with_reducible refine Kept.foldl1 ?_ (fun _ _ _ _ => ?_)
    | with_reducible refine Kept.foldl2 ?_ (fun _ _ _ _ => ?_)
    | with_reducible refine Kept.of_eq1 ?_ (by assumption)
    | with_reducible refine Kept.of_eq2 ?_ (by assumption)
    | with_reducible rfl
    | with_reducible exact fun h => h
    | dsimp only
    | with_reducible apply Kept.ite
    | split
    | with_reducible refine Kept.upd0 ?_ ?_ ?_ ?_ ?_ ?_)

theorem State.applyShadows_kept {s0 : State} (s : State) (b : Blk) (hk : Kept s0 s) : Kept s0 (State.applyShadows s b) := by
  unfold State.applyShadows
  repeat' (first
    | with_reducible assumption
    | with_reducible apply State.withKeys_kept
    | with_reducible refine Kept.foldl ?_ (fun _ _ _ => ?_)
    | with_reducible refine Kept.foldl1 ?_ (fun _ _ _ _ => ?_)
    | with_reducible refine Kept.foldl2 ?_ (fun _ _ _ _ => ?_)
    | with_reducible refine Kept.of_eq1 ?_ (by assumption)
    | with_reducible refine Kept.of_eq2 ?_ (by assumption)
    | with_reducible rfl
    | with_reducible exact fun h => h
    | dsimp only
    | split
    | with_reducible refine Kept.upd0 ?_ ?_ ?_ ?_ ?_ ?_)

theorem State.commit_kept {s0 : State} (s : State) (b : Blk) (hk : Kept s0 s) : Kept s0 (State.commit s b) := by
  unfold State.commit
  repeat' (first
    | with_reducible assumption
    | with_reducible apply State.applyShadows_kept
    | with_reducible apply State.applied_kept
    | with_reducible apply State.withKeys_kept
    | with_reducible apply State.refuse_kept
    | with_reducible rfl
    | with_reducible exact fun h => h
    | dsimp only
    | with_reducible apply Kept.ite
    | split)

theorem State.discard_kept {s0 : State} (s : State) (b : Blk) (hk : Kept s0 s) : Kept s0 (State.discard s b) := by
  unfold State.discard
  repeat' (first
    | with_reducible assumption
    | with_reducible apply State.shRel_kept
    | with_reducible rfl
    | with_reducible exact fun h => h
    | dsimp only
    | with_reducible apply Kept.ite
    | split
    | with_reducible refine Kept.upd0 ?_ ?_ ?_ ?_ ?_ ?_)

theorem execCommit_kept {s0 : State} (b : Blk) (s : State) (hk : Kept s0 s) : KeptO s0 (execCommit b s) := by
  unfold execCommit
  repeat' (first
    | with_reducible assumption
    | with_reducible apply Kept.next
    | with_reducible apply State.commit_kept
    | with_reducible rfl
    | with_reducible exact fun h => h
    | dsimp only
    | with_reducible apply Kept.ite
    | with_reducible apply KeptO.ite
    | split)

theorem execDiscard_kept {s0 : State} (b : Blk) (s : State) (hk : Kept s0 s) : KeptO s0 (execDiscard b s) := by
  unfold execDiscard
  repeat' (first
    | with_reducible assumption
    | with_reducible apply Kept.next
    | with_reducible apply State.discard_kept
    | with_reducible rfl
    | with_reducible exact fun h => h
    | dsimp only
    | with_reducible apply Kept.ite
    | with_reducible apply KeptO.ite
    | split)

end Sys2Proof.Machine
end

