-- ==== Sys2Proof/Laws/KeptHost.lean ====
section
/-! SUPPORT. Every operation of Machine/Host.lean keeps what no command may change. -/

namespace Sys2Proof.Machine

set_option linter.all false

theorem State.readWord_kept {s0 : State} (s : State) (func : Nat) (sp : Space) (o : Nat) (hk : Kept s0 s) : Kept s0 (State.readWord s func sp o).2 := by
  unfold State.readWord
  repeat' (first
    | with_reducible assumption
    | intro _
    | with_reducible apply State.bar2_kept
    | with_reducible apply State.vfViol_kept
    | with_reducible apply State.wakeAccess_kept
    | with_reducible apply State.safUpdate_kept
    | with_reducible refine Kept.of_eq2 ?_ (by assumption)
    | with_reducible rfl
    | with_reducible exact fun h => h
    | dsimp only
    | with_reducible apply Kept.ite
    | with_reducible apply Kept.ite1
    | with_reducible apply Kept.ite2
    | split
    | with_reducible refine Kept.upd0 ?_ ?_ ?_ ?_ ?_ ?_)

theorem execLowWordRead_kept {s0 : State} (func : Nat) (sp : Space) (off : Nat) (wide : Bool) (s : State) (hk : Kept s0 s) : KeptO s0 (execLowWordRead func sp off wide s) := by
  unfold execLowWordRead
  repeat' (first
    | with_reducible assumption
    | with_reducible apply Kept.next
    | with_reducible apply State.readWord_kept
    | with_reducible refine Kept.of_eq2 ?_ (by assumption)
    | with_reducible rfl
    | with_reducible exact fun h => h
    | dsimp only
    | with_reducible apply Kept.ite
    | with_reducible apply Kept.ite1
    | with_reducible apply Kept.ite2
    | with_reducible apply KeptO.ite
    | split
    | with_reducible refine Kept.upd0 ?_ ?_ ?_ ?_ ?_ ?_)

theorem execHighWordRead_kept {s0 : State} (func : Nat) (sp : Space) (off : Nat) (s : State) (hk : Kept s0 s) : KeptO s0 (execHighWordRead func sp off s) := by
  unfold execHighWordRead
  repeat' (first
    | with_reducible assumption
    | with_reducible apply Kept.next
    | with_reducible apply State.readWord_kept
    | with_reducible refine Kept.of_eq2 ?_ (by assumption)
    | with_reducible rfl
    | with_reducible exact fun h => h
    | dsimp only
    | with_reducible apply Kept.ite
    | with_reducible apply Kept.ite1
    | with_reducible apply Kept.ite2
    | with_reducible apply KeptO.ite
    | split
    | with_reducible refine Kept.upd0 ?_ ?_ ?_ ?_ ?_ ?_)

theorem execBarAccessMisaligned_kept {s0 : State} (func : Nat) (sp : Space) (off : Nat) (s : State) (hk : Kept s0 s) : KeptO s0 (execBarAccessMisaligned func sp off s) := by
  unfold execBarAccessMisaligned
  repeat' (first
    | with_reducible assumption
    | intro _
    | with_reducible apply Kept.next
    | with_reducible apply State.bar2_kept
    | with_reducible apply State.accErr_kept
    | with_reducible rfl
    | with_reducible exact fun h => h
    | dsimp only
    | with_reducible apply Kept.ite
    | with_reducible apply KeptO.ite
    | split
    | with_reducible refine Kept.upd0 ?_ ?_ ?_ ?_ ?_ ?_)

theorem State.fldWrite_kept {s0 : State} (s : State) (F : Fld) (i m v : Nat) (hk : Kept s0 s) : Kept s0 (State.fldWrite s F i m v) := by
  unfold State.fldWrite
  repeat' (first
    | with_reducible assumption
    | with_reducible apply State.wrSh_kept
    | with_reducible apply State.wr_kept
    | with_reducible rfl
    | with_reducible exact fun h => h
    | dsimp only
    | with_reducible apply Kept.ite
    | split
    | with_reducible refine Kept.upd0 ?_ ?_ ?_ ?_ ?_ ?_)

theorem State.regWrite_kept {s0 : State} (s : State) (a m v : Nat) (hk : Kept s0 s) : Kept s0 (State.regWrite s a m v) := by
  unfold State.regWrite
  repeat' (first
    | with_reducible assumption
    | with_reducible apply State.fldWrite_kept
    | with_reducible refine Kept.foldl ?_ (fun _ _ _ => ?_)
    | with_reducible refine Kept.foldl1 ?_ (fun _ _ _ _ => ?_)
    | with_reducible refine Kept.foldl2 ?_ (fun _ _ _ _ => ?_)
    | with_reducible refine Kept.of_eq1 ?_ (by assumption)
    | with_reducible refine Kept.of_eq2 ?_ (by assumption)
    | with_reducible rfl
    | with_reducible exact fun h => h
    | dsimp only
    | split)

theorem State.gpioPins_kept {s0 : State} (s t : State) (hk : Kept s0 s) : Kept s0 (State.gpioPins s t) := by
  unfold State.gpioPins
  repeat' (first
    | with_reducible assumption
    | with_reducible apply State.emit_kept
    | with_reducible refine Kept.foldl ?_ (fun _ _ _ => ?_)
    | with_reducible refine Kept.foldl1 ?_ (fun _ _ _ _ => ?_)
    | with_reducible refine Kept.foldl2 ?_ (fun _ _ _ _ => ?_)
    | with_reducible refine Kept.of_eq1 ?_ (by assumption)
    | with_reducible refine Kept.of_eq2 ?_ (by assumption)
    | with_reducible rfl
    | with_reducible exact fun h => h
    | dsimp only
    | with_reducible apply Kept.ite
    | split)

theorem State.afterWrite_kept {s0 : State} (s t : State) (b : Blk) (a : Nat) (hk : Kept s0 s) : Kept s0 (State.afterWrite s t b a) := by
  unfold State.afterWrite
  repeat' (first
    | with_reducible assumption
    | with_reducible apply State.gpioPins_kept
    | with_reducible apply State.haltSync_kept
    | with_reducible apply State.safUpdate_kept
    | with_reducible rfl
    | with_reducible exact fun h => h
    | dsimp only
    | with_reducible apply Kept.ite
    | split
    | with_reducible refine Kept.upd0 ?_ ?_ ?_ ?_ ?_ ?_)

theorem State.msixWrite_kept {s0 : State} (s : State) (base o m v : Nat) (hk : Kept s0 s) : Kept s0 (State.msixWrite s base o m v) := by
  unfold State.msixWrite
  repeat' (first
    | with_reducible assumption
    | with_reducible rfl
    | with_reducible exact fun h => h
    | dsimp only
    | with_reducible apply Kept.ite
    | split
    | with_reducible refine Kept.upd0 ?_ ?_ ?_ ?_ ?_ ?_)

theorem State.ctxWord_kept {s0 : State} (s : State) (c m v : Nat) (hk : Kept s0 s) : Kept s0 (State.ctxWord s c m v) := by
  unfold State.ctxWord
  repeat' (first
    | with_reducible assumption
    | with_reducible apply State.ctxPart_kept
    | with_reducible rfl
    | with_reducible exact fun h => h
    | dsimp only
    | with_reducible apply Kept.ite
    | split)

theorem State.plainWrite_kept {s0 : State} (s : State) (b : Blk) (a m v : Nat) (hk : Kept s0 s) : Kept s0 (State.plainWrite s b a m v) := by
  unfold State.plainWrite
  repeat' (first
    | with_reducible assumption
    | with_reducible apply State.afterWrite_kept
    | with_reducible apply State.regWrite_kept
    | with_reducible rfl
    | with_reducible exact fun h => h
    | dsimp only
    | split)

theorem State.glbWrite_kept {s0 : State} (s : State) (o a m v : Nat) (hk : Kept s0 s) : Kept s0 (State.glbWrite s o a m v) := by
  unfold State.glbWrite
  repeat' (first
    | with_reducible assumption
    | with_reducible apply State.plainWrite_kept
    | with_reducible apply State.msixWrite_kept
    | with_reducible rfl
    | with_reducible exact fun h => h
    | dsimp only
    | with_reducible apply Kept.ite
    | split)

theorem State.glzWrite_kept {s0 : State} (s : State) (o a m v : Nat) (hk : Kept s0 s) : Kept s0 (State.glzWrite s o a m v) := by
  unfold State.glzWrite
  repeat' (first
    | with_reducible assumption
    | with_reducible apply State.plainWrite_kept
    | with_reducible apply State.wrLutShadow_kept
    | with_reducible rfl
    | with_reducible exact fun h => h
    | dsimp only
    | with_reducible apply Kept.ite
    | split
    | with_reducible refine Kept.upd0 ?_ ?_ ?_ ?_ ?_ ?_)

theorem State.rstWrite_kept {s0 : State} (s : State) (o a off m v : Nat) (hk : Kept s0 s) : Kept s0 (State.rstWrite s o a off m v) := by
  unfold State.rstWrite
  repeat' (first
    | with_reducible assumption
    | with_reducible apply State.regWrite_kept
    | with_reducible apply State.updBoot_kept
    | with_reducible apply State.cfgErr_kept
    | with_reducible rfl
    | with_reducible exact fun h => h
    | dsimp only
    | with_reducible apply Kept.ite
    | split
    | exact fun _ => rfl
    | exact fun _ h => h
    | exact fun h => h
    | rfl
    | with_reducible refine Kept.upd0 ?_ ?_ ?_ ?_ ?_ ?_)

theorem State.odmWrite_kept {s0 : State} (s : State) (o a off m v : Nat) (hk : Kept s0 s) : Kept s0 (State.odmWrite s o a off m v) := by
  unfold State.odmWrite
  repeat' (first
    | with_reducible assumption
    | with_reducible apply State.regWrite_kept
    | with_reducible apply State.updOdm_kept
    | with_reducible apply State.cfgErr_kept
    | with_reducible rfl
    | with_reducible exact fun h => h
    | dsimp only
    | with_reducible apply Kept.ite
    | split
    | with_reducible refine Kept.upd0 ?_ ?_ ?_ ?_ ?_ ?_)

theorem State.feWrite_kept {s0 : State} (s : State) (o a m v : Nat) (hk : Kept s0 s) : Kept s0 (State.feWrite s o a m v) := by
  unfold State.feWrite
  repeat' (first
    | with_reducible assumption
    | with_reducible apply State.ctxWord_kept
    | with_reducible apply State.regWrite_kept
    | with_reducible rfl
    | with_reducible exact fun h => h
    | dsimp only
    | with_reducible apply Kept.ite
    | split)

theorem State.blkWrite_kept {s0 : State} (s : State) (b : Blk) (a off m v : Nat) (hk : Kept s0 s) : Kept s0 (State.blkWrite s b a off m v) := by
  unfold State.blkWrite
  repeat' (first
    | with_reducible assumption
    | with_reducible apply State.feWrite_kept
    | with_reducible apply State.odmWrite_kept
    | with_reducible apply State.rstWrite_kept
    | with_reducible apply State.glzWrite_kept
    | with_reducible apply State.glbWrite_kept
    | with_reducible apply State.plainWrite_kept
    | with_reducible apply State.cfgErr_kept
    | with_reducible apply State.fl_kept
    | with_reducible rfl
    | with_reducible exact fun h => h
    | dsimp only
    | with_reducible apply Kept.ite
    | split
    | with_reducible refine Kept.upd0 ?_ ?_ ?_ ?_ ?_ ?_)

theorem State.pfWrite_kept {s0 : State} (s : State) (a off m v : Nat) (hk : Kept s0 s) : Kept s0 (State.pfWrite s a off m v) := by
  unfold State.pfWrite
  repeat' (first
    | with_reducible assumption
    | with_reducible apply State.blkWrite_kept
    | with_reducible rfl
    | with_reducible exact fun h => h
    | dsimp only
    | with_reducible apply Kept.ite
    | split
    | with_reducible refine Kept.upd0 ?_ ?_ ?_ ?_ ?_ ?_)

theorem State.vfWrite_kept {s0 : State} (s : State) (n a m v : Nat) (hk : Kept s0 s) : Kept s0 (State.vfWrite s n a m v) := by
  unfold State.vfWrite
  repeat' (first
    | with_reducible assumption
    | with_reducible apply State.msixWrite_kept
    | with_reducible rfl
    | with_reducible exact fun h => h
    | dsimp only
    | with_reducible apply Kept.ite
    | split)

theorem State.msixCtl_kept {s0 : State} (s : State) (f m v : Nat) (hk : Kept s0 s) : Kept s0 (State.msixCtl s f m v) := by
  unfold State.msixCtl
  repeat' (first
    | with_reducible assumption
    | with_reducible apply State.pbaFlush_kept
    | with_reducible refine Kept.foldl ?_ (fun _ _ _ => ?_)
    | with_reducible refine Kept.foldl1 ?_ (fun _ _ _ _ => ?_)
    | with_reducible refine Kept.foldl2 ?_ (fun _ _ _ _ => ?_)
    | with_reducible refine Kept.of_eq1 ?_ (by assumption)
    | with_reducible refine Kept.of_eq2 ?_ (by assumption)
    | with_reducible rfl
    | with_reducible exact fun h => h
    | dsimp only
    | with_reducible apply Kept.ite
    | with_reducible apply Kept.ite1
    | with_reducible apply Kept.ite2
    | with_reducible apply KeptO.ite
    | split
    | with_reducible refine Kept.upd0 ?_ ?_ ?_ ?_ ?_ ?_
    | with_reducible refine Kept.upd1 ?_ ?_ ?_ ?_ ?_ ?_)

theorem State.cfgSpWrite_kept {s0 : State} (s : State) (f o m v : Nat) (hk : Kept s0 s) : Kept s0 (State.cfgSpWrite s f o m v) := by
  unfold State.cfgSpWrite
  repeat' (first
    | with_reducible assumption
    | with_reducible apply State.msixCtl_kept
    | with_reducible apply State.pbaFlush_kept
    | with_reducible refine Kept.foldl ?_ (fun _ _ _ => ?_)
    | with_reducible refine Kept.foldl1 ?_ (fun _ _ _ _ => ?_)
    | with_reducible refine Kept.foldl2 ?_ (fun _ _ _ _ => ?_)
    | with_reducible refine Kept.of_eq1 ?_ (by assumption)
    | with_reducible refine Kept.of_eq2 ?_ (by assumption)
    | with_reducible rfl
    | with_reducible exact fun h => h
    | dsimp only
    | with_reducible apply Kept.ite
    | split
    | with_reducible refine Kept.upd0 ?_ ?_ ?_ ?_ ?_ ?_)

theorem execRegisterWrite_kept {s0 : State} (func : Nat) (sp : Space) (off size v : Nat) (s : State) (hk : Kept s0 s) : KeptO s0 (execRegisterWrite func sp off size v s) := by
  unfold execRegisterWrite
  repeat' (first
    | with_reducible assumption
    | intro _
    | with_reducible apply Kept.next
    | with_reducible apply State.cfgSpWrite_kept
    | with_reducible apply State.vfWrite_kept
    | with_reducible apply State.pfWrite_kept
    | with_reducible apply State.regWrite_kept
    | with_reducible apply State.bar2_kept
    | with_reducible rfl
    | with_reducible exact fun h => h
    | dsimp only
    | with_reducible apply Kept.ite
    | with_reducible apply KeptO.ite
    | split
    | with_reducible refine Kept.upd0 ?_ ?_ ?_ ?_ ?_ ?_)

theorem State.ctrClear_kept {s0 : State} (s : State) (F : Fld) (i : Nat) (hk : Kept s0 s) : Kept s0 (State.ctrClear s F i) := by
  unfold State.ctrClear
  repeat' (first
    | with_reducible assumption
    | with_reducible apply State.wr_kept
    | with_reducible rfl
    | with_reducible exact fun h => h
    | dsimp only
    | with_reducible apply Kept.ite
    | split
    | with_reducible refine Kept.upd0 ?_ ?_ ?_ ?_ ?_ ?_)

theorem execCounterClear_kept {s0 : State} (func : Nat) (sp : Space) (off : Nat) (clr : Bool) (s : State) (hk : Kept s0 s) : KeptO s0 (execCounterClear func sp off clr s) := by
  unfold execCounterClear
  repeat' (first
    | with_reducible assumption
    | intro _
    | with_reducible apply Kept.next
    | with_reducible apply State.ctrClear_kept
    | with_reducible apply State.bar2_kept
    | with_reducible apply State.safUpdate_kept
    | with_reducible refine Kept.foldl ?_ (fun _ _ _ => ?_)
    | with_reducible refine Kept.foldl1 ?_ (fun _ _ _ _ => ?_)
    | with_reducible refine Kept.foldl2 ?_ (fun _ _ _ _ => ?_)
    | with_reducible refine Kept.of_eq1 ?_ (by assumption)
    | with_reducible refine Kept.of_eq2 ?_ (by assumption)
    | with_reducible rfl
    | with_reducible exact fun h => h
    | dsimp only
    | with_reducible apply Kept.ite
    | with_reducible apply KeptO.ite
    | split
    | with_reducible refine Kept.upd0 ?_ ?_ ?_ ?_ ?_ ?_)

theorem State.dbgaccOut_kept {s0 : State} (s : State) (off4 : Nat) (write wide : Bool) (data res : Nat) (hk : Kept s0 s) : Kept s0 (State.dbgaccOut s off4 write wide data res) := by
  unfold State.dbgaccOut
  repeat' (first
    | with_reducible assumption
    | with_reducible apply State.emit_kept
    | with_reducible rfl
    | with_reducible exact fun h => h
    | dsimp only
    | split)

theorem State.jtagWrite_kept {s0 : State} (s : State) (a off m v : Nat) (hk : Kept s0 s) : Kept s0 (State.jtagWrite s a off m v) := by
  unfold State.jtagWrite
  repeat' (first
    | with_reducible assumption
    | with_reducible apply State.ctrClear_kept
    | with_reducible apply State.blkWrite_kept
    | with_reducible apply State.discard_kept
    | with_reducible apply State.commit_kept
    | with_reducible apply State.dbgAccess_kept
    | with_reducible apply State.dbgStep_kept
    | with_reducible apply State.dbgResume_kept
    | with_reducible apply State.dbgHalt_kept
    | with_reducible apply State.loomStep_kept
    | with_reducible apply State.loomResume_kept
    | with_reducible apply State.loomHalt_kept
    | with_reducible apply State.wr_kept
    | with_reducible refine Kept.foldl ?_ (fun _ _ _ => ?_)
    | with_reducible refine Kept.foldl1 ?_ (fun _ _ _ _ => ?_)
    | with_reducible refine Kept.foldl2 ?_ (fun _ _ _ _ => ?_)
    | with_reducible refine Kept.of_eq1 ?_ (by assumption)
    | with_reducible refine Kept.of_eq2 ?_ (by assumption)
    | with_reducible rfl
    | with_reducible exact fun h => h
    | dsimp only
    | with_reducible apply Kept.ite
    | split)

theorem execDbgacc_kept {s0 : State} (off4 : Nat) (write wide : Bool) (data : Nat) (s : State) (hk : Kept s0 s) : KeptO s0 (execDbgacc off4 write wide data s) := by
  unfold execDbgacc
  repeat' (first
    | with_reducible assumption
    | with_reducible apply Kept.next
    | with_reducible apply State.jtagWrite_kept
    | with_reducible apply State.dbgaccOut_kept
    | with_reducible apply State.tapBypass_kept
    | with_reducible apply State.tap_kept
    | with_reducible rfl
    | with_reducible exact fun h => h
    | dsimp only
    | with_reducible apply Kept.ite
    | with_reducible apply KeptO.ite
    | split
    | with_reducible refine Kept.upd0 ?_ ?_ ?_ ?_ ?_ ?_)

end Sys2Proof.Machine
end

