-- ==== Sys2Proof/Laws/KeptShAlu.lean ====
section
/-! SUPPORT. Every operation of Machine/ShAlu.lean keeps what no command may change. -/

namespace Sys2Proof.Machine

set_option linter.all false

theorem State.vecOp_kept {s0 : State} (s : State) (cls : Nat) (g : Nat) (i : Ins) (t : NTy) (bad : Bool) (srcs : List Opd) (mods : Nat) (f : Grp → Nat → Res) (hk : Kept s0 s) : Kept s0 (State.vecOp s cls g i t bad srcs mods f) := by
  unfold State.vecOp
  repeat' (first
    | with_reducible assumption
    | intro _
    | with_reducible apply State.setGrp_kept
    | with_reducible apply State.issue_kept
    | with_reducible apply State.fl_kept
    | with_reducible refine Kept.foldl ?_ (fun _ _ _ => ?_)
    | with_reducible refine Kept.foldl1 ?_ (fun _ _ _ _ => ?_)
    | with_reducible refine Kept.foldl2 ?_ (fun _ _ _ _ => ?_)
    | with_reducible refine Kept.of_eq1 ?_ (by assumption)
    | with_reducible refine Kept.of_eq2 ?_ (by assumption)
    | with_reducible rfl
    | with_reducible exact fun h => h
    | dsimp only
    | with_reducible apply Kept.ite
    | split)

theorem State.elOp_kept {s0 : State} (s : State) (cls : Nat) (g : Nat) (i : Ins) (t : NTy) (ts : List NTy) (ns : Nat) (f : NTy → Nat → Nat → Nat → Res) (hk : Kept s0 s) : Kept s0 (State.elOp s cls g i t ts ns f) := by
  unfold State.elOp
  repeat' (first
    | with_reducible assumption
    | with_reducible apply State.vecOp_kept
    | with_reducible rfl
    | with_reducible exact fun h => h
    | dsimp only
    | with_reducible apply Kept.ite
    | split)

theorem State.addCarry_kept {s0 : State} (s : State) (g : Nat) (i : Ins) (t : NTy) (sub : Bool) (hk : Kept s0 s) : Kept s0 (State.addCarry s g i t sub) := by
  unfold State.addCarry
  repeat' (first
    | with_reducible assumption
    | intro _
    | with_reducible apply State.setGrp_kept
    | with_reducible apply State.issue_kept
    | with_reducible refine Kept.foldl ?_ (fun _ _ _ => ?_)
    | with_reducible refine Kept.foldl1 ?_ (fun _ _ _ _ => ?_)
    | with_reducible refine Kept.foldl2 ?_ (fun _ _ _ _ => ?_)
    | with_reducible refine Kept.of_eq1 ?_ (by assumption)
    | with_reducible refine Kept.of_eq2 ?_ (by assumption)
    | with_reducible rfl
    | with_reducible exact fun h => h
    | dsimp only
    | with_reducible apply Kept.ite
    | split)

theorem execValuAdd_kept {s0 : State} (g : Nat) (i : Ins) (t : NTy) (s : State) (hk : Kept s0 s) : KeptO s0 (execValuAdd g i t s) := by
  unfold execValuAdd
  repeat' (first
    | with_reducible assumption
    | with_reducible apply Kept.next
    | with_reducible apply State.addCarry_kept
    | with_reducible apply State.elOp_kept
    | with_reducible rfl
    | with_reducible exact fun h => h
    | dsimp only
    | with_reducible apply Kept.ite
    | with_reducible apply KeptO.ite
    | split)

theorem execValuSub_kept {s0 : State} (g : Nat) (i : Ins) (t : NTy) (s : State) (hk : Kept s0 s) : KeptO s0 (execValuSub g i t s) := by
  unfold execValuSub
  repeat' (first
    | with_reducible assumption
    | with_reducible apply Kept.next
    | with_reducible apply State.addCarry_kept
    | with_reducible apply State.elOp_kept
    | with_reducible rfl
    | with_reducible exact fun h => h
    | dsimp only
    | with_reducible apply Kept.ite
    | with_reducible apply KeptO.ite
    | split)

theorem execValuMul_kept {s0 : State} (g : Nat) (i : Ins) (t : NTy) (s : State) (hk : Kept s0 s) : KeptO s0 (execValuMul g i t s) := by
  unfold execValuMul
  repeat' (first
    | with_reducible assumption
    | with_reducible apply Kept.next
    | with_reducible apply State.elOp_kept
    | with_reducible rfl
    | with_reducible exact fun h => h
    | dsimp only
    | split)

theorem execValuFma_kept {s0 : State} (g : Nat) (i : Ins) (t : NTy) (s : State) (hk : Kept s0 s) : KeptO s0 (execValuFma g i t s) := by
  unfold execValuFma
  repeat' (first
    | with_reducible assumption
    | with_reducible apply Kept.next
    | with_reducible apply State.elOp_kept
    | with_reducible rfl
    | with_reducible exact fun h => h
    | dsimp only
    | split)

theorem execValuMin_kept {s0 : State} (g : Nat) (i : Ins) (t : NTy) (s : State) (hk : Kept s0 s) : KeptO s0 (execValuMin g i t s) := by
  unfold execValuMin
  repeat' (first
    | with_reducible assumption
    | with_reducible apply Kept.next
    | with_reducible apply State.elOp_kept
    | with_reducible rfl
    | with_reducible exact fun h => h
    | dsimp only
    | split)

theorem execValuMax_kept {s0 : State} (g : Nat) (i : Ins) (t : NTy) (s : State) (hk : Kept s0 s) : KeptO s0 (execValuMax g i t s) := by
  unfold execValuMax
  repeat' (first
    | with_reducible assumption
    | with_reducible apply Kept.next
    | with_reducible apply State.elOp_kept
    | with_reducible rfl
    | with_reducible exact fun h => h
    | dsimp only
    | split)

theorem execValuMinimum_kept {s0 : State} (g : Nat) (i : Ins) (t : NTy) (s : State) (hk : Kept s0 s) : KeptO s0 (execValuMinimum g i t s) := by
  unfold execValuMinimum
  repeat' (first
    | with_reducible assumption
    | with_reducible apply Kept.next
    | with_reducible apply State.elOp_kept
    | with_reducible rfl
    | with_reducible exact fun h => h
    | dsimp only
    | split)

theorem execValuMaximum_kept {s0 : State} (g : Nat) (i : Ins) (t : NTy) (s : State) (hk : Kept s0 s) : KeptO s0 (execValuMaximum g i t s) := by
  unfold execValuMaximum
  repeat' (first
    | with_reducible assumption
    | with_reducible apply Kept.next
    | with_reducible apply State.elOp_kept
    | with_reducible rfl
    | with_reducible exact fun h => h
    | dsimp only
    | split)

theorem execValuFloor_kept {s0 : State} (g : Nat) (i : Ins) (t : NTy) (s : State) (hk : Kept s0 s) : KeptO s0 (execValuFloor g i t s) := by
  unfold execValuFloor
  repeat' (first
    | with_reducible assumption
    | with_reducible apply Kept.next
    | with_reducible apply State.elOp_kept
    | with_reducible rfl
    | with_reducible exact fun h => h
    | dsimp only
    | split)

theorem execValuCeil_kept {s0 : State} (g : Nat) (i : Ins) (t : NTy) (s : State) (hk : Kept s0 s) : KeptO s0 (execValuCeil g i t s) := by
  unfold execValuCeil
  repeat' (first
    | with_reducible assumption
    | with_reducible apply Kept.next
    | with_reducible apply State.elOp_kept
    | with_reducible rfl
    | with_reducible exact fun h => h
    | dsimp only
    | split)

theorem execValuTrunc_kept {s0 : State} (g : Nat) (i : Ins) (t : NTy) (s : State) (hk : Kept s0 s) : KeptO s0 (execValuTrunc g i t s) := by
  unfold execValuTrunc
  repeat' (first
    | with_reducible assumption
    | with_reducible apply Kept.next
    | with_reducible apply State.elOp_kept
    | with_reducible rfl
    | with_reducible exact fun h => h
    | dsimp only
    | split)

theorem execValuRndne_kept {s0 : State} (g : Nat) (i : Ins) (t : NTy) (s : State) (hk : Kept s0 s) : KeptO s0 (execValuRndne g i t s) := by
  unfold execValuRndne
  repeat' (first
    | with_reducible assumption
    | with_reducible apply Kept.next
    | with_reducible apply State.elOp_kept
    | with_reducible rfl
    | with_reducible exact fun h => h
    | dsimp only
    | split)

theorem execValuFract_kept {s0 : State} (g : Nat) (i : Ins) (t : NTy) (s : State) (hk : Kept s0 s) : KeptO s0 (execValuFract g i t s) := by
  unfold execValuFract
  repeat' (first
    | with_reducible assumption
    | with_reducible apply Kept.next
    | with_reducible apply State.elOp_kept
    | with_reducible rfl
    | with_reducible exact fun h => h
    | dsimp only
    | split)

theorem State.ldexpOp_kept {s0 : State} (s : State) (cls : Nat) (g : Nat) (i : Ins) (t : NTy) (ts : List NTy) (hk : Kept s0 s) : Kept s0 (State.ldexpOp s cls g i t ts) := by
  unfold State.ldexpOp
  repeat' (first
    | with_reducible assumption
    | with_reducible apply State.vecOp_kept
    | with_reducible rfl
    | with_reducible exact fun h => h
    | dsimp only
    | with_reducible apply Kept.ite
    | split)

theorem execValuLdexp_kept {s0 : State} (g : Nat) (i : Ins) (t : NTy) (s : State) (hk : Kept s0 s) : KeptO s0 (execValuLdexp g i t s) := by
  unfold execValuLdexp
  repeat' (first
    | with_reducible assumption
    | with_reducible apply Kept.next
    | with_reducible apply State.ldexpOp_kept
    | with_reducible rfl
    | with_reducible exact fun h => h
    | dsimp only
    | split)

theorem execValuFrexp_kept {s0 : State} (g : Nat) (i : Ins) (t : NTy) (s : State) (hk : Kept s0 s) : KeptO s0 (execValuFrexp g i t s) := by
  unfold execValuFrexp
  repeat' (first
    | with_reducible assumption
    | intro _
    | with_reducible apply Kept.next
    | with_reducible apply State.setGrp_kept
    | with_reducible apply State.issue_kept
    | with_reducible apply State.free_kept
    | with_reducible apply State.fl_kept
    | with_reducible refine Kept.foldl ?_ (fun _ _ _ => ?_)
    | with_reducible refine Kept.of_eq2 ?_ (by assumption)
    | with_reducible refine Kept.foldl1 ?_ (fun _ _ _ _ => ?_)
    | with_reducible refine Kept.foldl2 ?_ (fun _ _ _ _ => ?_)
    | with_reducible refine Kept.of_eq1 ?_ (by assumption)
    | with_reducible rfl
    | with_reducible exact fun h => h
    | dsimp only
    | with_reducible apply Kept.ite
    | with_reducible apply Kept.ite1
    | with_reducible apply Kept.ite2
    | with_reducible apply KeptO.ite
    | split)

theorem execValuSel_kept {s0 : State} (g : Nat) (i : Ins) (t : NTy) (s : State) (hk : Kept s0 s) : KeptO s0 (execValuSel g i t s) := by
  unfold execValuSel
  repeat' (first
    | with_reducible assumption
    | with_reducible apply Kept.next
    | with_reducible apply State.vecOp_kept
    | with_reducible rfl
    | with_reducible exact fun h => h
    | dsimp only
    | with_reducible apply Kept.ite
    | with_reducible apply KeptO.ite
    | split)

theorem execValuMulLo_kept {s0 : State} (g : Nat) (i : Ins) (t : NTy) (s : State) (hk : Kept s0 s) : KeptO s0 (execValuMulLo g i t s) := by
  unfold execValuMulLo
  repeat' (first
    | with_reducible assumption
    | with_reducible apply Kept.next
    | with_reducible apply State.elOp_kept
    | with_reducible rfl
    | with_reducible exact fun h => h
    | dsimp only
    | split)

theorem execValuMulHi_kept {s0 : State} (g : Nat) (i : Ins) (t : NTy) (s : State) (hk : Kept s0 s) : KeptO s0 (execValuMulHi g i t s) := by
  unfold execValuMulHi
  repeat' (first
    | with_reducible assumption
    | with_reducible apply Kept.next
    | with_reducible apply State.elOp_kept
    | with_reducible rfl
    | with_reducible exact fun h => h
    | dsimp only
    | split)

theorem execValuMadLo_kept {s0 : State} (g : Nat) (i : Ins) (t : NTy) (s : State) (hk : Kept s0 s) : KeptO s0 (execValuMadLo g i t s) := by
  unfold execValuMadLo
  repeat' (first
    | with_reducible assumption
    | with_reducible apply Kept.next
    | with_reducible apply State.elOp_kept
    | with_reducible rfl
    | with_reducible exact fun h => h
    | dsimp only
    | split)

theorem execValuAnd_kept {s0 : State} (g : Nat) (i : Ins) (t : NTy) (s : State) (hk : Kept s0 s) : KeptO s0 (execValuAnd g i t s) := by
  unfold execValuAnd
  repeat' (first
    | with_reducible assumption
    | with_reducible apply Kept.next
    | with_reducible apply State.elOp_kept
    | with_reducible rfl
    | with_reducible exact fun h => h
    | dsimp only
    | split)

theorem execValuOr_kept {s0 : State} (g : Nat) (i : Ins) (t : NTy) (s : State) (hk : Kept s0 s) : KeptO s0 (execValuOr g i t s) := by
  unfold execValuOr
  repeat' (first
    | with_reducible assumption
    | with_reducible apply Kept.next
    | with_reducible apply State.elOp_kept
    | with_reducible rfl
    | with_reducible exact fun h => h
    | dsimp only
    | split)

theorem execValuXor_kept {s0 : State} (g : Nat) (i : Ins) (t : NTy) (s : State) (hk : Kept s0 s) : KeptO s0 (execValuXor g i t s) := by
  unfold execValuXor
  repeat' (first
    | with_reducible assumption
    | with_reducible apply Kept.next
    | with_reducible apply State.elOp_kept
    | with_reducible rfl
    | with_reducible exact fun h => h
    | dsimp only
    | split)

theorem execValuNot_kept {s0 : State} (g : Nat) (i : Ins) (t : NTy) (s : State) (hk : Kept s0 s) : KeptO s0 (execValuNot g i t s) := by
  unfold execValuNot
  repeat' (first
    | with_reducible assumption
    | with_reducible apply Kept.next
    | with_reducible apply State.elOp_kept
    | with_reducible rfl
    | with_reducible exact fun h => h
    | dsimp only
    | split)

theorem execValuShl_kept {s0 : State} (g : Nat) (i : Ins) (t : NTy) (s : State) (hk : Kept s0 s) : KeptO s0 (execValuShl g i t s) := by
  unfold execValuShl
  repeat' (first
    | with_reducible assumption
    | with_reducible apply Kept.next
    | with_reducible apply State.elOp_kept
    | with_reducible rfl
    | with_reducible exact fun h => h
    | dsimp only
    | split)

theorem execValuShr_kept {s0 : State} (g : Nat) (i : Ins) (t : NTy) (s : State) (hk : Kept s0 s) : KeptO s0 (execValuShr g i t s) := by
  unfold execValuShr
  repeat' (first
    | with_reducible assumption
    | with_reducible apply Kept.next
    | with_reducible apply State.elOp_kept
    | with_reducible rfl
    | with_reducible exact fun h => h
    | dsimp only
    | split)

theorem execValuSar_kept {s0 : State} (g : Nat) (i : Ins) (t : NTy) (s : State) (hk : Kept s0 s) : KeptO s0 (execValuSar g i t s) := by
  unfold execValuSar
  repeat' (first
    | with_reducible assumption
    | with_reducible apply Kept.next
    | with_reducible apply State.elOp_kept
    | with_reducible rfl
    | with_reducible exact fun h => h
    | dsimp only
    | split)

theorem execValuBfe_kept {s0 : State} (g : Nat) (i : Ins) (t : NTy) (s : State) (hk : Kept s0 s) : KeptO s0 (execValuBfe g i t s) := by
  unfold execValuBfe
  repeat' (first
    | with_reducible assumption
    | with_reducible apply Kept.next
    | with_reducible apply State.elOp_kept
    | with_reducible rfl
    | with_reducible exact fun h => h
    | dsimp only
    | split)

theorem execValuBfi_kept {s0 : State} (g : Nat) (i : Ins) (t : NTy) (s : State) (hk : Kept s0 s) : KeptO s0 (execValuBfi g i t s) := by
  unfold execValuBfi
  repeat' (first
    | with_reducible assumption
    | with_reducible apply Kept.next
    | with_reducible apply State.elOp_kept
    | with_reducible rfl
    | with_reducible exact fun h => h
    | dsimp only
    | split)

theorem execValuPopc_kept {s0 : State} (g : Nat) (i : Ins) (t : NTy) (s : State) (hk : Kept s0 s) : KeptO s0 (execValuPopc g i t s) := by
  unfold execValuPopc
  repeat' (first
    | with_reducible assumption
    | with_reducible apply Kept.next
    | with_reducible apply State.elOp_kept
    | with_reducible rfl
    | with_reducible exact fun h => h
    | dsimp only
    | split)

theorem execValuClz_kept {s0 : State} (g : Nat) (i : Ins) (t : NTy) (s : State) (hk : Kept s0 s) : KeptO s0 (execValuClz g i t s) := by
  unfold execValuClz
  repeat' (first
    | with_reducible assumption
    | with_reducible apply Kept.next
    | with_reducible apply State.elOp_kept
    | with_reducible rfl
    | with_reducible exact fun h => h
    | dsimp only
    | split)

theorem execValuCtz_kept {s0 : State} (g : Nat) (i : Ins) (t : NTy) (s : State) (hk : Kept s0 s) : KeptO s0 (execValuCtz g i t s) := by
  unfold execValuCtz
  repeat' (first
    | with_reducible assumption
    | with_reducible apply Kept.next
    | with_reducible apply State.elOp_kept
    | with_reducible rfl
    | with_reducible exact fun h => h
    | dsimp only
    | split)

theorem execValuBrev_kept {s0 : State} (g : Nat) (i : Ins) (t : NTy) (s : State) (hk : Kept s0 s) : KeptO s0 (execValuBrev g i t s) := by
  unfold execValuBrev
  repeat' (first
    | with_reducible assumption
    | with_reducible apply Kept.next
    | with_reducible apply State.elOp_kept
    | with_reducible rfl
    | with_reducible exact fun h => h
    | dsimp only
    | split)

theorem execValuDot4_kept {s0 : State} (g : Nat) (i : Ins) (t : NTy) (s : State) (hk : Kept s0 s) : KeptO s0 (execValuDot4 g i t s) := by
  unfold execValuDot4
  repeat' (first
    | with_reducible assumption
    | with_reducible apply Kept.next
    | with_reducible apply State.vecOp_kept
    | with_reducible refine Kept.foldl ?_ (fun _ _ _ => ?_)
    | with_reducible refine Kept.foldl1 ?_ (fun _ _ _ _ => ?_)
    | with_reducible refine Kept.foldl2 ?_ (fun _ _ _ _ => ?_)
    | with_reducible refine Kept.of_eq1 ?_ (by assumption)
    | with_reducible refine Kept.of_eq2 ?_ (by assumption)
    | with_reducible rfl
    | with_reducible exact fun h => h
    | dsimp only
    | split)

theorem execValuMov_kept {s0 : State} (g : Nat) (i : Ins) (s : State) (hk : Kept s0 s) : KeptO s0 (execValuMov g i s) := by
  unfold execValuMov
  repeat' (first
    | with_reducible assumption
    | with_reducible apply Kept.next
    | with_reducible apply State.elOp_kept
    | with_reducible rfl
    | with_reducible exact fun h => h
    | dsimp only
    | split)

theorem execValuPerm_kept {s0 : State} (g : Nat) (i : Ins) (s : State) (hk : Kept s0 s) : KeptO s0 (execValuPerm g i s) := by
  unfold execValuPerm
  repeat' (first
    | with_reducible assumption
    | with_reducible apply Kept.next
    | with_reducible apply State.vecOp_kept
    | with_reducible rfl
    | with_reducible exact fun h => h
    | dsimp only
    | split)

theorem execValuReadlane_kept {s0 : State} (g : Nat) (i : Ins) (s : State) (hk : Kept s0 s) : KeptO s0 (execValuReadlane g i s) := by
  unfold execValuReadlane
  repeat' (first
    | with_reducible assumption
    | intro _
    | with_reducible apply Kept.next
    | with_reducible apply State.issue_kept
    | with_reducible apply State.updGrp_kept
    | with_reducible rfl
    | with_reducible exact fun h => h
    | dsimp only
    | with_reducible apply Kept.ite
    | with_reducible apply KeptO.ite
    | split)

theorem execValuWritelane_kept {s0 : State} (g : Nat) (i : Ins) (s : State) (hk : Kept s0 s) : KeptO s0 (execValuWritelane g i s) := by
  unfold execValuWritelane
  repeat' (first
    | with_reducible assumption
    | intro _
    | with_reducible apply Kept.next
    | with_reducible apply State.issue_kept
    | with_reducible apply State.updGrp_kept
    | with_reducible rfl
    | with_reducible exact fun h => h
    | dsimp only
    | with_reducible apply Kept.ite
    | with_reducible apply KeptO.ite
    | split)

theorem execValuBcast_kept {s0 : State} (g : Nat) (i : Ins) (s : State) (hk : Kept s0 s) : KeptO s0 (execValuBcast g i s) := by
  unfold execValuBcast
  repeat' (first
    | with_reducible assumption
    | with_reducible apply Kept.next
    | with_reducible apply State.vecOp_kept
    | with_reducible rfl
    | with_reducible exact fun h => h
    | dsimp only
    | split)

theorem execValu64Add_kept {s0 : State} (g : Nat) (i : Ins) (t : NTy) (s : State) (hk : Kept s0 s) : KeptO s0 (execValu64Add g i t s) := by
  unfold execValu64Add
  repeat' (first
    | with_reducible assumption
    | with_reducible apply Kept.next
    | with_reducible apply State.elOp_kept
    | with_reducible rfl
    | with_reducible exact fun h => h
    | dsimp only
    | split)

theorem execValu64Sub_kept {s0 : State} (g : Nat) (i : Ins) (t : NTy) (s : State) (hk : Kept s0 s) : KeptO s0 (execValu64Sub g i t s) := by
  unfold execValu64Sub
  repeat' (first
    | with_reducible assumption
    | with_reducible apply Kept.next
    | with_reducible apply State.elOp_kept
    | with_reducible rfl
    | with_reducible exact fun h => h
    | dsimp only
    | split)

theorem execValu64Mul_kept {s0 : State} (g : Nat) (i : Ins) (s : State) (hk : Kept s0 s) : KeptO s0 (execValu64Mul g i s) := by
  unfold execValu64Mul
  repeat' (first
    | with_reducible assumption
    | with_reducible apply Kept.next
    | with_reducible apply State.elOp_kept
    | with_reducible rfl
    | with_reducible exact fun h => h
    | dsimp only
    | split)

theorem execValu64Fma_kept {s0 : State} (g : Nat) (i : Ins) (s : State) (hk : Kept s0 s) : KeptO s0 (execValu64Fma g i s) := by
  unfold execValu64Fma
  repeat' (first
    | with_reducible assumption
    | with_reducible apply Kept.next
    | with_reducible apply State.elOp_kept
    | with_reducible rfl
    | with_reducible exact fun h => h
    | dsimp only
    | split)

theorem execValu64Min_kept {s0 : State} (g : Nat) (i : Ins) (s : State) (hk : Kept s0 s) : KeptO s0 (execValu64Min g i s) := by
  unfold execValu64Min
  repeat' (first
    | with_reducible assumption
    | with_reducible apply Kept.next
    | with_reducible apply State.elOp_kept
    | with_reducible rfl
    | with_reducible exact fun h => h
    | dsimp only
    | split)

theorem execValu64Max_kept {s0 : State} (g : Nat) (i : Ins) (s : State) (hk : Kept s0 s) : KeptO s0 (execValu64Max g i s) := by
  unfold execValu64Max
  repeat' (first
    | with_reducible assumption
    | with_reducible apply Kept.next
    | with_reducible apply State.elOp_kept
    | with_reducible rfl
    | with_reducible exact fun h => h
    | dsimp only
    | split)

theorem execValu64Minimum_kept {s0 : State} (g : Nat) (i : Ins) (s : State) (hk : Kept s0 s) : KeptO s0 (execValu64Minimum g i s) := by
  unfold execValu64Minimum
  repeat' (first
    | with_reducible assumption
    | with_reducible apply Kept.next
    | with_reducible apply State.elOp_kept
    | with_reducible rfl
    | with_reducible exact fun h => h
    | dsimp only
    | split)

theorem execValu64Maximum_kept {s0 : State} (g : Nat) (i : Ins) (s : State) (hk : Kept s0 s) : KeptO s0 (execValu64Maximum g i s) := by
  unfold execValu64Maximum
  repeat' (first
    | with_reducible assumption
    | with_reducible apply Kept.next
    | with_reducible apply State.elOp_kept
    | with_reducible rfl
    | with_reducible exact fun h => h
    | dsimp only
    | split)

theorem execValu64Floor_kept {s0 : State} (g : Nat) (i : Ins) (s : State) (hk : Kept s0 s) : KeptO s0 (execValu64Floor g i s) := by
  unfold execValu64Floor
  repeat' (first
    | with_reducible assumption
    | with_reducible apply Kept.next
    | with_reducible apply State.elOp_kept
    | with_reducible rfl
    | with_reducible exact fun h => h
    | dsimp only
    | split)

theorem execValu64Ceil_kept {s0 : State} (g : Nat) (i : Ins) (s : State) (hk : Kept s0 s) : KeptO s0 (execValu64Ceil g i s) := by
  unfold execValu64Ceil
  repeat' (first
    | with_reducible assumption
    | with_reducible apply Kept.next
    | with_reducible apply State.elOp_kept
    | with_reducible rfl
    | with_reducible exact fun h => h
    | dsimp only
    | split)

theorem execValu64Trunc_kept {s0 : State} (g : Nat) (i : Ins) (s : State) (hk : Kept s0 s) : KeptO s0 (execValu64Trunc g i s) := by
  unfold execValu64Trunc
  repeat' (first
    | with_reducible assumption
    | with_reducible apply Kept.next
    | with_reducible apply State.elOp_kept
    | with_reducible rfl
    | with_reducible exact fun h => h
    | dsimp only
    | split)

theorem execValu64Rndne_kept {s0 : State} (g : Nat) (i : Ins) (s : State) (hk : Kept s0 s) : KeptO s0 (execValu64Rndne g i s) := by
  unfold execValu64Rndne
  repeat' (first
    | with_reducible assumption
    | with_reducible apply Kept.next
    | with_reducible apply State.elOp_kept
    | with_reducible rfl
    | with_reducible exact fun h => h
    | dsimp only
    | split)

theorem execValu64Fract_kept {s0 : State} (g : Nat) (i : Ins) (s : State) (hk : Kept s0 s) : KeptO s0 (execValu64Fract g i s) := by
  unfold execValu64Fract
  repeat' (first
    | with_reducible assumption
    | with_reducible apply Kept.next
    | with_reducible apply State.elOp_kept
    | with_reducible rfl
    | with_reducible exact fun h => h
    | dsimp only
    | split)

theorem execValu64Ldexp_kept {s0 : State} (g : Nat) (i : Ins) (s : State) (hk : Kept s0 s) : KeptO s0 (execValu64Ldexp g i s) := by
  unfold execValu64Ldexp
  repeat' (first
    | with_reducible assumption
    | with_reducible apply Kept.next
    | with_reducible apply State.ldexpOp_kept
    | with_reducible rfl
    | with_reducible exact fun h => h
    | dsimp only
    | split)

theorem execValu64And_kept {s0 : State} (g : Nat) (i : Ins) (s : State) (hk : Kept s0 s) : KeptO s0 (execValu64And g i s) := by
  unfold execValu64And
  repeat' (first
    | with_reducible assumption
    | with_reducible apply Kept.next
    | with_reducible apply State.elOp_kept
    | with_reducible rfl
    | with_reducible exact fun h => h
    | dsimp only
    | split)

theorem execValu64Or_kept {s0 : State} (g : Nat) (i : Ins) (s : State) (hk : Kept s0 s) : KeptO s0 (execValu64Or g i s) := by
  unfold execValu64Or
  repeat' (first
    | with_reducible assumption
    | with_reducible apply Kept.next
    | with_reducible apply State.elOp_kept
    | with_reducible rfl
    | with_reducible exact fun h => h
    | dsimp only
    | split)

theorem execValu64Xor_kept {s0 : State} (g : Nat) (i : Ins) (s : State) (hk : Kept s0 s) : KeptO s0 (execValu64Xor g i s) := by
  unfold execValu64Xor
  repeat' (first
    | with_reducible assumption
    | with_reducible apply Kept.next
    | with_reducible apply State.elOp_kept
    | with_reducible rfl
    | with_reducible exact fun h => h
    | dsimp only
    | split)

theorem State.shift64_kept {s0 : State} (s : State) (g : Nat) (i : Ins) (f : NTy → Nat → Nat → Nat → Res) (hk : Kept s0 s) : Kept s0 (State.shift64 s g i f) := by
  unfold State.shift64
  repeat' (first
    | with_reducible assumption
    | with_reducible apply State.vecOp_kept
    | with_reducible rfl
    | with_reducible exact fun h => h
    | dsimp only
    | split)

theorem execValu64Shl_kept {s0 : State} (g : Nat) (i : Ins) (s : State) (hk : Kept s0 s) : KeptO s0 (execValu64Shl g i s) := by
  unfold execValu64Shl
  repeat' (first
    | with_reducible assumption
    | with_reducible apply Kept.next
    | with_reducible apply State.shift64_kept
    | with_reducible rfl
    | with_reducible exact fun h => h
    | dsimp only
    | split)

theorem execValu64Shr_kept {s0 : State} (g : Nat) (i : Ins) (s : State) (hk : Kept s0 s) : KeptO s0 (execValu64Shr g i s) := by
  unfold execValu64Shr
  repeat' (first
    | with_reducible assumption
    | with_reducible apply Kept.next
    | with_reducible apply State.shift64_kept
    | with_reducible rfl
    | with_reducible exact fun h => h
    | dsimp only
    | split)

theorem execValu64Sar_kept {s0 : State} (g : Nat) (i : Ins) (s : State) (hk : Kept s0 s) : KeptO s0 (execValu64Sar g i s) := by
  unfold execValu64Sar
  repeat' (first
    | with_reducible assumption
    | with_reducible apply Kept.next
    | with_reducible apply State.shift64_kept
    | with_reducible rfl
    | with_reducible exact fun h => h
    | dsimp only
    | split)

theorem execValu64MulLo_kept {s0 : State} (g : Nat) (i : Ins) (s : State) (hk : Kept s0 s) : KeptO s0 (execValu64MulLo g i s) := by
  unfold execValu64MulLo
  repeat' (first
    | with_reducible assumption
    | with_reducible apply Kept.next
    | with_reducible apply State.elOp_kept
    | with_reducible rfl
    | with_reducible exact fun h => h
    | dsimp only
    | split)

theorem State.vcmp_kept {s0 : State} (s : State) (g : Nat) (i : Ins) (t : NTy) (ts : List NTy) (w1 : Nat) (f : Grp → Nat → Bool × Nat) (hk : Kept s0 s) : Kept s0 (State.vcmp s g i t ts w1 f) := by
  unfold State.vcmp
  repeat' (first
    | with_reducible assumption
    | intro _
    | with_reducible apply State.setGrp_kept
    | with_reducible apply State.issue_kept
    | with_reducible apply State.fl_kept
    | with_reducible refine Kept.foldl ?_ (fun _ _ _ => ?_)
    | with_reducible refine Kept.foldl1 ?_ (fun _ _ _ _ => ?_)
    | with_reducible refine Kept.foldl2 ?_ (fun _ _ _ _ => ?_)
    | with_reducible refine Kept.of_eq1 ?_ (by assumption)
    | with_reducible refine Kept.of_eq2 ?_ (by assumption)
    | with_reducible rfl
    | with_reducible exact fun h => h
    | dsimp only
    | with_reducible apply Kept.ite
    | split)

theorem State.vrel_kept {s0 : State} (s : State) (g : Nat) (i : Ins) (t : NTy) (ts : List NTy) (sig lt eq gt un : Bool) (hk : Kept s0 s) : Kept s0 (State.vrel s g i t ts sig lt eq gt un) := by
  unfold State.vrel
  repeat' (first
    | with_reducible assumption
    | with_reducible apply State.vcmp_kept
    | with_reducible rfl
    | with_reducible exact fun h => h
    | dsimp only
    | split)

theorem execVcmpEq_kept {s0 : State} (g : Nat) (i : Ins) (t : NTy) (sig : Bool) (s : State) (hk : Kept s0 s) : KeptO s0 (execVcmpEq g i t sig s) := by
  unfold execVcmpEq
  repeat' (first
    | with_reducible assumption
    | with_reducible apply Kept.next
    | with_reducible apply State.vrel_kept
    | with_reducible rfl
    | with_reducible exact fun h => h
    | dsimp only
    | split)

theorem execVcmpNe_kept {s0 : State} (g : Nat) (i : Ins) (t : NTy) (sig : Bool) (s : State) (hk : Kept s0 s) : KeptO s0 (execVcmpNe g i t sig s) := by
  unfold execVcmpNe
  repeat' (first
    | with_reducible assumption
    | with_reducible apply Kept.next
    | with_reducible apply State.vrel_kept
    | with_reducible rfl
    | with_reducible exact fun h => h
    | dsimp only
    | split)

theorem execVcmpLt_kept {s0 : State} (g : Nat) (i : Ins) (t : NTy) (sig : Bool) (s : State) (hk : Kept s0 s) : KeptO s0 (execVcmpLt g i t sig s) := by
  unfold execVcmpLt
  repeat' (first
    | with_reducible assumption
    | with_reducible apply Kept.next
    | with_reducible apply State.vrel_kept
    | with_reducible rfl
    | with_reducible exact fun h => h
    | dsimp only
    | split)

theorem execVcmpLe_kept {s0 : State} (g : Nat) (i : Ins) (t : NTy) (sig : Bool) (s : State) (hk : Kept s0 s) : KeptO s0 (execVcmpLe g i t sig s) := by
  unfold execVcmpLe
  repeat' (first
    | with_reducible assumption
    | with_reducible apply Kept.next
    | with_reducible apply State.vrel_kept
    | with_reducible rfl
    | with_reducible exact fun h => h
    | dsimp only
    | split)

theorem execVcmpGt_kept {s0 : State} (g : Nat) (i : Ins) (t : NTy) (sig : Bool) (s : State) (hk : Kept s0 s) : KeptO s0 (execVcmpGt g i t sig s) := by
  unfold execVcmpGt
  repeat' (first
    | with_reducible assumption
    | with_reducible apply Kept.next
    | with_reducible apply State.vrel_kept
    | with_reducible rfl
    | with_reducible exact fun h => h
    | dsimp only
    | split)

theorem execVcmpGe_kept {s0 : State} (g : Nat) (i : Ins) (t : NTy) (sig : Bool) (s : State) (hk : Kept s0 s) : KeptO s0 (execVcmpGe g i t sig s) := by
  unfold execVcmpGe
  repeat' (first
    | with_reducible assumption
    | with_reducible apply Kept.next
    | with_reducible apply State.vrel_kept
    | with_reducible rfl
    | with_reducible exact fun h => h
    | dsimp only
    | split)

theorem execVcmpOrd_kept {s0 : State} (g : Nat) (i : Ins) (t : NTy) (sig : Bool) (s : State) (hk : Kept s0 s) : KeptO s0 (execVcmpOrd g i t sig s) := by
  unfold execVcmpOrd
  repeat' (first
    | with_reducible assumption
    | with_reducible apply Kept.next
    | with_reducible apply State.vrel_kept
    | with_reducible rfl
    | with_reducible exact fun h => h
    | dsimp only
    | split)

theorem execVcmpUnord_kept {s0 : State} (g : Nat) (i : Ins) (t : NTy) (sig : Bool) (s : State) (hk : Kept s0 s) : KeptO s0 (execVcmpUnord g i t sig s) := by
  unfold execVcmpUnord
  repeat' (first
    | with_reducible assumption
    | with_reducible apply Kept.next
    | with_reducible apply State.vrel_kept
    | with_reducible rfl
    | with_reducible exact fun h => h
    | dsimp only
    | split)

theorem execVcmpClass_kept {s0 : State} (g : Nat) (i : Ins) (t : NTy) (s : State) (hk : Kept s0 s) : KeptO s0 (execVcmpClass g i t s) := by
  unfold execVcmpClass
  repeat' (first
    | with_reducible assumption
    | with_reducible apply Kept.next
    | with_reducible apply State.vcmp_kept
    | with_reducible rfl
    | with_reducible exact fun h => h
    | dsimp only
    | split)

theorem execCvt_kept {s0 : State} (g : Nat) (i : Ins) (a b : NTy) (s : State) (hk : Kept s0 s) : KeptO s0 (execCvt g i a b s) := by
  unfold execCvt
  repeat' (first
    | with_reducible assumption
    | intro _
    | with_reducible apply Kept.next
    | with_reducible apply State.setGrp_kept
    | with_reducible apply State.issue_kept
    | with_reducible apply State.fl_kept
    | with_reducible refine Kept.foldl ?_ (fun _ _ _ => ?_)
    | with_reducible refine Kept.foldl1 ?_ (fun _ _ _ _ => ?_)
    | with_reducible refine Kept.foldl2 ?_ (fun _ _ _ _ => ?_)
    | with_reducible refine Kept.of_eq1 ?_ (by assumption)
    | with_reducible refine Kept.of_eq2 ?_ (by assumption)
    | with_reducible rfl
    | with_reducible exact fun h => h
    | dsimp only
    | with_reducible apply Kept.ite
    | with_reducible apply KeptO.ite
    | split)

theorem State.sfuOp_kept {s0 : State} (s : State) (g : Nat) (i : Ins) (t : NTy) (ts : List NTy) (op : Sfu) (hk : Kept s0 s) : Kept s0 (State.sfuOp s g i t ts op) := by
  unfold State.sfuOp
  repeat' (first
    | with_reducible assumption
    | with_reducible apply State.elOp_kept
    | with_reducible rfl
    | with_reducible exact fun h => h
    | dsimp only
    | split)

theorem execSfuRcp_kept {s0 : State} (g : Nat) (i : Ins) (t : NTy) (s : State) (hk : Kept s0 s) : KeptO s0 (execSfuRcp g i t s) := by
  unfold execSfuRcp
  repeat' (first
    | with_reducible assumption
    | with_reducible apply Kept.next
    | with_reducible apply State.sfuOp_kept
    | with_reducible rfl
    | with_reducible exact fun h => h
    | dsimp only
    | split)

theorem execSfuRsq_kept {s0 : State} (g : Nat) (i : Ins) (t : NTy) (s : State) (hk : Kept s0 s) : KeptO s0 (execSfuRsq g i t s) := by
  unfold execSfuRsq
  repeat' (first
    | with_reducible assumption
    | with_reducible apply Kept.next
    | with_reducible apply State.sfuOp_kept
    | with_reducible rfl
    | with_reducible exact fun h => h
    | dsimp only
    | split)

theorem execSfuSqrt_kept {s0 : State} (g : Nat) (i : Ins) (t : NTy) (s : State) (hk : Kept s0 s) : KeptO s0 (execSfuSqrt g i t s) := by
  unfold execSfuSqrt
  repeat' (first
    | with_reducible assumption
    | with_reducible apply Kept.next
    | with_reducible apply State.sfuOp_kept
    | with_reducible rfl
    | with_reducible exact fun h => h
    | dsimp only
    | split)

theorem execSfuExp2_kept {s0 : State} (g : Nat) (i : Ins) (t : NTy) (s : State) (hk : Kept s0 s) : KeptO s0 (execSfuExp2 g i t s) := by
  unfold execSfuExp2
  repeat' (first
    | with_reducible assumption
    | with_reducible apply Kept.next
    | with_reducible apply State.sfuOp_kept
    | with_reducible rfl
    | with_reducible exact fun h => h
    | dsimp only
    | split)

theorem execSfuLog2_kept {s0 : State} (g : Nat) (i : Ins) (t : NTy) (s : State) (hk : Kept s0 s) : KeptO s0 (execSfuLog2 g i t s) := by
  unfold execSfuLog2
  repeat' (first
    | with_reducible assumption
    | with_reducible apply Kept.next
    | with_reducible apply State.sfuOp_kept
    | with_reducible rfl
    | with_reducible exact fun h => h
    | dsimp only
    | split)

theorem execSfuSin_kept {s0 : State} (g : Nat) (i : Ins) (t : NTy) (s : State) (hk : Kept s0 s) : KeptO s0 (execSfuSin g i t s) := by
  unfold execSfuSin
  repeat' (first
    | with_reducible assumption
    | with_reducible apply Kept.next
    | with_reducible apply State.sfuOp_kept
    | with_reducible rfl
    | with_reducible exact fun h => h
    | dsimp only
    | split)

theorem execSfuCos_kept {s0 : State} (g : Nat) (i : Ins) (t : NTy) (s : State) (hk : Kept s0 s) : KeptO s0 (execSfuCos g i t s) := by
  unfold execSfuCos
  repeat' (first
    | with_reducible assumption
    | with_reducible apply Kept.next
    | with_reducible apply State.sfuOp_kept
    | with_reducible rfl
    | with_reducible exact fun h => h
    | dsimp only
    | split)

theorem State.salu_kept {s0 : State} (s : State) (g : Nat) (i : Ins) (t d : NTy) (ns : Nat) (w1 : Nat) (f : Nat → Nat → Nat → Nat) (hk : Kept s0 s) : Kept s0 (State.salu s g i t d ns w1 f) := by
  unfold State.salu
  repeat' (first
    | with_reducible assumption
    | intro _
    | with_reducible apply State.setGrp_kept
    | with_reducible apply State.issue_kept
    | with_reducible rfl
    | with_reducible exact fun h => h
    | dsimp only
    | with_reducible apply Kept.ite
    | split)

theorem State.salu2_kept {s0 : State} (s : State) (g : Nat) (i : Ins) (t : NTy) (f : NTy → Nat → Nat → Nat → Res) (hk : Kept s0 s) : Kept s0 (State.salu2 s g i t f) := by
  unfold State.salu2
  repeat' (first
    | with_reducible assumption
    | with_reducible apply State.salu_kept
    | with_reducible rfl
    | with_reducible exact fun h => h
    | dsimp only
    | split)

theorem execSaluAdd_kept {s0 : State} (g : Nat) (i : Ins) (t : NTy) (s : State) (hk : Kept s0 s) : KeptO s0 (execSaluAdd g i t s) := by
  unfold execSaluAdd
  repeat' (first
    | with_reducible assumption
    | with_reducible apply Kept.next
    | with_reducible apply State.salu2_kept
    | with_reducible rfl
    | with_reducible exact fun h => h
    | dsimp only
    | split)

theorem execSaluSub_kept {s0 : State} (g : Nat) (i : Ins) (t : NTy) (s : State) (hk : Kept s0 s) : KeptO s0 (execSaluSub g i t s) := by
  unfold execSaluSub
  repeat' (first
    | with_reducible assumption
    | with_reducible apply Kept.next
    | with_reducible apply State.salu2_kept
    | with_reducible rfl
    | with_reducible exact fun h => h
    | dsimp only
    | split)

theorem execSaluMulLo_kept {s0 : State} (g : Nat) (i : Ins) (t : NTy) (s : State) (hk : Kept s0 s) : KeptO s0 (execSaluMulLo g i t s) := by
  unfold execSaluMulLo
  repeat' (first
    | with_reducible assumption
    | with_reducible apply Kept.next
    | with_reducible apply State.salu2_kept
    | with_reducible rfl
    | with_reducible exact fun h => h
    | dsimp only
    | split)

theorem execSaluAnd_kept {s0 : State} (g : Nat) (i : Ins) (t : NTy) (s : State) (hk : Kept s0 s) : KeptO s0 (execSaluAnd g i t s) := by
  unfold execSaluAnd
  repeat' (first
    | with_reducible assumption
    | with_reducible apply Kept.next
    | with_reducible apply State.salu2_kept
    | with_reducible rfl
    | with_reducible exact fun h => h
    | dsimp only
    | split)

theorem execSaluOr_kept {s0 : State} (g : Nat) (i : Ins) (t : NTy) (s : State) (hk : Kept s0 s) : KeptO s0 (execSaluOr g i t s) := by
  unfold execSaluOr
  repeat' (first
    | with_reducible assumption
    | with_reducible apply Kept.next
    | with_reducible apply State.salu2_kept
    | with_reducible rfl
    | with_reducible exact fun h => h
    | dsimp only
    | split)

theorem execSaluXor_kept {s0 : State} (g : Nat) (i : Ins) (t : NTy) (s : State) (hk : Kept s0 s) : KeptO s0 (execSaluXor g i t s) := by
  unfold execSaluXor
  repeat' (first
    | with_reducible assumption
    | with_reducible apply Kept.next
    | with_reducible apply State.salu2_kept
    | with_reducible rfl
    | with_reducible exact fun h => h
    | dsimp only
    | split)

theorem execSaluNot_kept {s0 : State} (g : Nat) (i : Ins) (t : NTy) (s : State) (hk : Kept s0 s) : KeptO s0 (execSaluNot g i t s) := by
  unfold execSaluNot
  repeat' (first
    | with_reducible assumption
    | with_reducible apply Kept.next
    | with_reducible apply State.salu_kept
    | with_reducible rfl
    | with_reducible exact fun h => h
    | dsimp only
    | split)

theorem execSaluShl_kept {s0 : State} (g : Nat) (i : Ins) (t : NTy) (s : State) (hk : Kept s0 s) : KeptO s0 (execSaluShl g i t s) := by
  unfold execSaluShl
  repeat' (first
    | with_reducible assumption
    | with_reducible apply Kept.next
    | with_reducible apply State.salu_kept
    | with_reducible rfl
    | with_reducible exact fun h => h
    | dsimp only
    | split)

theorem execSaluShr_kept {s0 : State} (g : Nat) (i : Ins) (t : NTy) (s : State) (hk : Kept s0 s) : KeptO s0 (execSaluShr g i t s) := by
  unfold execSaluShr
  repeat' (first
    | with_reducible assumption
    | with_reducible apply Kept.next
    | with_reducible apply State.salu_kept
    | with_reducible rfl
    | with_reducible exact fun h => h
    | dsimp only
    | split)

theorem execSaluSar_kept {s0 : State} (g : Nat) (i : Ins) (t : NTy) (s : State) (hk : Kept s0 s) : KeptO s0 (execSaluSar g i t s) := by
  unfold execSaluSar
  repeat' (first
    | with_reducible assumption
    | with_reducible apply Kept.next
    | with_reducible apply State.salu_kept
    | with_reducible rfl
    | with_reducible exact fun h => h
    | dsimp only
    | split)

theorem execSaluMin_kept {s0 : State} (g : Nat) (i : Ins) (t : NTy) (s : State) (hk : Kept s0 s) : KeptO s0 (execSaluMin g i t s) := by
  unfold execSaluMin
  repeat' (first
    | with_reducible assumption
    | with_reducible apply Kept.next
    | with_reducible apply State.salu2_kept
    | with_reducible rfl
    | with_reducible exact fun h => h
    | dsimp only
    | split)

theorem execSaluMax_kept {s0 : State} (g : Nat) (i : Ins) (t : NTy) (s : State) (hk : Kept s0 s) : KeptO s0 (execSaluMax g i t s) := by
  unfold execSaluMax
  repeat' (first
    | with_reducible assumption
    | with_reducible apply Kept.next
    | with_reducible apply State.salu2_kept
    | with_reducible rfl
    | with_reducible exact fun h => h
    | dsimp only
    | split)

theorem execSaluCmp_kept {s0 : State} (g : Nat) (i : Ins) (t : NTy) (lt eq gt : Bool) (s : State) (hk : Kept s0 s) : KeptO s0 (execSaluCmp g i t lt eq gt s) := by
  unfold execSaluCmp
  repeat' (first
    | with_reducible assumption
    | with_reducible apply Kept.next
    | with_reducible apply State.salu_kept
    | with_reducible rfl
    | with_reducible exact fun h => h
    | dsimp only
    | split)

theorem execSaluMov_kept {s0 : State} (g : Nat) (i : Ins) (t : NTy) (s : State) (hk : Kept s0 s) : KeptO s0 (execSaluMov g i t s) := by
  unfold execSaluMov
  repeat' (first
    | with_reducible assumption
    | with_reducible apply Kept.next
    | with_reducible apply State.salu_kept
    | with_reducible rfl
    | with_reducible exact fun h => h
    | dsimp only
    | split)

theorem execSaluCsel_kept {s0 : State} (g : Nat) (i : Ins) (t : NTy) (s : State) (hk : Kept s0 s) : KeptO s0 (execSaluCsel g i t s) := by
  unfold execSaluCsel
  repeat' (first
    | with_reducible assumption
    | with_reducible apply Kept.next
    | with_reducible apply State.salu_kept
    | with_reducible rfl
    | with_reducible exact fun h => h
    | dsimp only
    | with_reducible apply Kept.ite
    | with_reducible apply KeptO.ite
    | split)

theorem execSaluPmov_kept {s0 : State} (g : Nat) (i : Ins) (s : State) (hk : Kept s0 s) : KeptO s0 (execSaluPmov g i s) := by
  unfold execSaluPmov
  repeat' (first
    | with_reducible assumption
    | intro _
    | with_reducible apply Kept.next
    | with_reducible apply State.issue_kept
    | with_reducible apply State.updGrp_kept
    | with_reducible rfl
    | with_reducible exact fun h => h
    | dsimp only
    | with_reducible apply Kept.ite
    | with_reducible apply KeptO.ite
    | split)

end Sys2Proof.Machine
end

