-- ==== Sys2Proof/Laws/KeptTextures.lean ====
section
/-! SUPPORT. Every operation of Machine/Textures.lean keeps what no command may change. -/

namespace Sys2Proof.Machine

set_option linter.all false

theorem State.texel_kept {s0 : State} (s : State) (e : GEnv) (m : Img) (l x y sl : Nat) (hk : Kept s0 s) : Kept s0 (State.texel s e m l x y sl).1 := by
  unfold State.texel
  repeat' (first
    | with_reducible assumption
    | with_reducible apply State.coreRead_kept
    | with_reducible apply id_kept
    | with_reducible refine Kept.of_eq1 ?_ (by assumption)
    | with_reducible rfl
    | with_reducible exact fun h => h
    | dsimp only
    | split
    | with_reducible refine Kept.upd0 ?_ ?_ ?_ ?_ ?_ ?_)

theorem State.readTaps_kept {s0 : State} (e : GEnv) (m : Img) (p : Smp) (x0 : List Tap) (x1 : State) (x2 : List (List Nat × Nat)) (hk : Kept s0 x1) : Kept s0 (State.readTaps e m p x0 x1 x2).1 := by
  induction x0 generalizing x1 x2 with
  | nil =>
    unfold State.readTaps
    repeat' (first
      | with_reducible assumption
      | with_reducible apply State.texel_kept
      | with_reducible refine Kept.of_eq1 ?_ (by assumption)
      | with_reducible rfl
      | with_reducible exact fun h => h
      | dsimp only
      | with_reducible apply Kept.ite
      | with_reducible apply Kept.ite1
      | with_reducible apply Kept.ite2
      | split
      | with_reducible refine Kept.upd0 ?_ ?_ ?_ ?_ ?_ ?_)
  | cons a r ih =>
    unfold State.readTaps
    repeat' (first
      | with_reducible assumption
      | with_reducible apply ih
      | with_reducible apply State.texel_kept
      | with_reducible refine Kept.of_eq1 ?_ (by assumption)
      | with_reducible rfl
      | with_reducible exact fun h => h
      | dsimp only
      | with_reducible apply Kept.ite
      | with_reducible apply Kept.ite1
      | with_reducible apply Kept.ite2
      | split
      | with_reducible refine Kept.upd0 ?_ ?_ ?_ ?_ ?_ ?_)

theorem State.texLanes_kept {s0 : State} (f : State → Nat → State × Option (List Nat)) (dst : Nat) (x0 : List Nat) (x1 : State) (x2 : Grp) (h_f : ∀ a0 a1, Kept s0 a0 → Kept s0 (f a0 a1).1) (hk : Kept s0 x1) : Kept s0 (State.texLanes f dst x0 x1 x2).1 := by
  induction x0 generalizing x1 x2 with
  | nil =>
    unfold State.texLanes
    repeat' (first
      | with_reducible assumption
      | intro _
      | with_reducible rfl
      | with_reducible exact fun h => h
      | dsimp only
      | split
      | with_reducible refine Kept.upd0 ?_ ?_ ?_ ?_ ?_ ?_)
  | cons a r ih =>
    unfold State.texLanes
    repeat' (first
      | with_reducible assumption
      | intro _
      | with_reducible apply ih
      | with_reducible apply h_f
      | with_reducible refine Kept.of_eq1 ?_ (by assumption)
      | with_reducible rfl
      | with_reducible exact fun h => h
      | dsimp only
      | split
      | with_reducible refine Kept.upd0 ?_ ?_ ?_ ?_ ?_ ?_)

theorem State.texOp_kept {s0 : State} (s : State) (op : Nat) (g : Nat) (i : Ins) (mods span : Nat) (more : List Opd) (f : GEnv → Img → Smp → State → Nat → State × Option (List Nat)) (h_f : ∀ a0 a1 a2 a3 a4, Kept s0 a3 → Kept s0 (f a0 a1 a2 a3 a4).1) (hk : Kept s0 s) : Kept s0 (State.texOp s op g i mods span more f) := by
  unfold State.texOp
  repeat' (first
    | with_reducible assumption
    | intro _
    | with_reducible apply h_f
    | with_reducible apply State.texLanes_kept
    | with_reducible apply State.setGrp_kept
    | with_reducible apply State.issue_kept
    | with_reducible apply State.ctxFault_kept
    | with_reducible refine Kept.of_eq1 ?_ (by assumption)
    | with_reducible rfl
    | with_reducible exact fun h => h
    | dsimp only
    | with_reducible apply Kept.ite
    | with_reducible apply Kept.ite1
    | with_reducible apply Kept.ite2
    | split
    | with_reducible refine Kept.upd0 ?_ ?_ ?_ ?_ ?_ ?_)

theorem State.texSampled_kept {s0 : State} (i : Ins) (e : GEnv) (m : Img) (p : Smp) (s : State) (l : Nat) (hk : Kept s0 s) : Kept s0 (State.texSampled i e m p s l).1 := by
  unfold State.texSampled
  repeat' (first
    | with_reducible assumption
    | intro _
    | with_reducible apply Kept.next
    | with_reducible apply State.readTaps_kept
    | with_reducible apply State.free_kept
    | with_reducible refine Kept.of_eq1 ?_ (by assumption)
    | with_reducible refine Kept.of_eq2 ?_ (by assumption)
    | with_reducible rfl
    | with_reducible exact fun h => h
    | dsimp only
    | with_reducible apply Kept.ite
    | with_reducible apply Kept.ite1
    | with_reducible apply Kept.ite2
    | split)

theorem execTexSample_kept {s0 : State} (g : Nat) (i : Ins) (s : State) (hk : Kept s0 s) : KeptO s0 (execTexSample g i s) :=
  (State.texOp_kept s _ g i _ _ _ _ (fun e m p s l h => State.texSampled_kept i e m p s l h) hk).next

theorem State.texFetched_kept {s0 : State} (i : Ins) (e : GEnv) (m : Img) (p : Smp) (s : State) (l : Nat) (hk : Kept s0 s) : Kept s0 (State.texFetched i e m p s l).1 := by
  unfold State.texFetched
  repeat' (first
    | with_reducible assumption
    | intro _
    | with_reducible apply Kept.next
    | with_reducible apply State.texel_kept
    | with_reducible apply State.free_kept
    | with_reducible refine Kept.of_eq2 ?_ (by assumption)
    | with_reducible rfl
    | with_reducible exact fun h => h
    | dsimp only
    | with_reducible apply Kept.ite
    | with_reducible apply Kept.ite1
    | with_reducible apply Kept.ite2
    | split)

theorem execTexFetch_kept {s0 : State} (g : Nat) (i : Ins) (s : State) (hk : Kept s0 s) : KeptO s0 (execTexFetch g i s) :=
  (State.texOp_kept s _ g i _ _ _ _ (fun e m p s l h => State.texFetched_kept i e m p s l h) hk).next

theorem State.texGathered_kept {s0 : State} (i : Ins) (e : GEnv) (m : Img) (p : Smp) (s : State) (l : Nat) (hk : Kept s0 s) : Kept s0 (State.texGathered i e m p s l).1 := by
  unfold State.texGathered
  repeat' (first
    | with_reducible assumption
    | intro _
    | with_reducible apply Kept.next
    | with_reducible apply State.readTaps_kept
    | with_reducible refine Kept.of_eq1 ?_ (by assumption)
    | with_reducible rfl
    | with_reducible exact fun h => h
    | dsimp only
    | with_reducible apply Kept.ite
    | with_reducible apply Kept.ite1
    | with_reducible apply Kept.ite2
    | split)

theorem execTexGather_kept {s0 : State} (g : Nat) (i : Ins) (s : State) (hk : Kept s0 s) : KeptO s0 (execTexGather g i s) :=
  (State.texOp_kept s _ g i _ _ _ _ (fun e m p s l h => State.texGathered_kept i e m p s l h) hk).next

theorem State.texStores_kept {s0 : State} (e : GEnv) (i : Ins) (m : Img) (x0 : List Nat) (x1 : State) (hk : Kept s0 x1) : Kept s0 (State.texStores e i m x0 x1) := by
  induction x0 generalizing x1 with
  | nil =>
    unfold State.texStores
    repeat' (first
      | with_reducible assumption
      | with_reducible apply State.coreWrite_kept
      | with_reducible apply id_kept
      | with_reducible refine Kept.of_eq1 ?_ (by assumption)
      | with_reducible rfl
      | with_reducible exact fun h => h
      | dsimp only
      | split
      | with_reducible refine Kept.upd0 ?_ ?_ ?_ ?_ ?_ ?_)
  | cons a r ih =>
    unfold State.texStores
    repeat' (first
      | with_reducible assumption
      | with_reducible apply ih
      | with_reducible apply State.coreWrite_kept
      | with_reducible apply id_kept
      | with_reducible refine Kept.of_eq1 ?_ (by assumption)
      | with_reducible rfl
      | with_reducible exact fun h => h
      | dsimp only
      | split
      | with_reducible refine Kept.upd0 ?_ ?_ ?_ ?_ ?_ ?_)

theorem execTexStore_kept {s0 : State} (g : Nat) (i : Ins) (s : State) (hk : Kept s0 s) : KeptO s0 (execTexStore g i s) := by
  unfold execTexStore
  repeat' (first
    | with_reducible assumption
    | intro _
    | with_reducible apply Kept.next
    | with_reducible apply State.texStores_kept
    | with_reducible apply State.issue_kept
    | with_reducible apply State.ctxFault_kept
    | with_reducible rfl
    | with_reducible exact fun h => h
    | dsimp only
    | with_reducible apply Kept.ite
    | with_reducible apply KeptO.ite
    | split)

theorem execAttrInterp_kept {s0 : State} (g : Nat) (i : Ins) (s : State) (hk : Kept s0 s) : KeptO s0 (execAttrInterp g i s) := by
  unfold execAttrInterp
  repeat' (first
    | with_reducible assumption
    | intro _
    | with_reducible apply Kept.next
    | with_reducible apply State.setGrp_kept
    | with_reducible apply State.issue_kept
    | with_reducible refine Kept.foldl ?_ (fun _ _ _ => ?_)
    | with_reducible refine Kept.foldl1 ?_ (fun _ _ _ _ => ?_)
    | with_reducible refine Kept.foldl2 ?_ (fun _ _ _ _ => ?_)
    | with_reducible refine Kept.of_eq1 ?_ (by assumption)
    | with_reducible refine Kept.of_eq2 ?_ (by assumption)
    | with_reducible rfl
    | with_reducible exact fun h => h
    | dsimp only
    | with_reducible apply Kept.ite
    | with_reducible apply KeptO.ite
    | split
    | with_reducible refine Kept.upd0 ?_ ?_ ?_ ?_ ?_ ?_)

theorem execTileLd_kept {s0 : State} (g : Nat) (i : Ins) (s : State) (hk : Kept s0 s) : KeptO s0 (execTileLd g i s) := by
  unfold execTileLd
  repeat' (first
    | with_reducible assumption
    | intro _
    | with_reducible apply Kept.next
    | with_reducible apply State.sample_kept
    | with_reducible apply State.setGrp_kept
    | with_reducible apply State.issue_kept
    | with_reducible refine Kept.foldl ?_ (fun _ _ _ => ?_)
    | with_reducible refine Kept.of_eq2 ?_ (by assumption)
    | with_reducible refine Kept.foldl1 ?_ (fun _ _ _ _ => ?_)
    | with_reducible refine Kept.foldl2 ?_ (fun _ _ _ _ => ?_)
    | with_reducible refine Kept.of_eq1 ?_ (by assumption)
    | with_reducible rfl
    | with_reducible exact fun h => h
    | dsimp only
    | with_reducible apply Kept.ite
    | with_reducible apply Kept.ite1
    | with_reducible apply Kept.ite2
    | with_reducible apply KeptO.ite
    | split
    | with_reducible refine Kept.upd0 ?_ ?_ ?_ ?_ ?_ ?_)

end Sys2Proof.Machine
end

