-- ==== Sys2Proof/Laws/Notify.lean ====
section
/-! SUPPORT. What an interrupt source's assertion and the delivery of a notification may change (chapter 19): one lemma for
each operation, and register writes as `WriteOnly`. -/

namespace Sys2Proof.Machine

theorem NotifyOnly.refl (s : State) : NotifyOnly s s := ⟨fun _ _ _ => rfl, rfl⟩

theorem NotifyOnly.trans {s t u : State} (h : NotifyOnly s t) (k : NotifyOnly t u) : NotifyOnly s u :=
  ⟨fun F i e => (k.rd F i e).trans (h.rd F i e), by rw [k.rest, h.rest]⟩

theorem NotifyOnly.wr {s t : State} (h : NotifyOnly s t) (F : Fld) (i v : Nat) (hF : evFld F = true) : NotifyOnly s (t.wr F i v) :=
  h.trans ⟨fun G k e => t.rd_wr_fid v (fun f => by simp [evFld, f] at hF e; simp_all), rfl⟩

theorem NotifyOnly.fl {s t : State} (h : NotifyOnly s t) (F : Fld) (i : Nat) (b : Bool) (hF : evFld F = true) :
    NotifyOnly s (t.fl F i b) := h.wr F i _ hF

theorem NotifyOnly.irq {s t : State} (h : NotifyOnly s t) (q : Irq) : NotifyOnly s { t with irq := q } :=
  h.trans ⟨fun _ _ _ => rfl, rfl⟩

theorem NotifyOnly.emit {s t : State} (h : NotifyOnly s t) (o : Out) : NotifyOnly s (t.emit o) := h.trans ⟨fun _ _ _ => rfl, rfl⟩

theorem NotifyOnly.free {s t : State} (h : NotifyOnly s t) (k : Nat) : NotifyOnly s (t.free k).2 := h.trans ⟨fun _ _ _ => rfl, rfl⟩

/-- A field found by its number has that number. -/
theorem fldOf_fid {n : Nat} {F : Fld} (h : fldOf n = some F) : F.fid = n := by simpa using List.find?_some h

theorem NotifyOnly.ite {s X Y : State} {c : Prop} [Decidable c] (h : NotifyOnly s X) (k : NotifyOnly s Y) :
    NotifyOnly s (if c then X else Y) := by
  split
  · exact h
  · exact k

theorem NotifyOnly.ite1 {s : State} {X Y : State × Bool} {c : Prop} [Decidable c] (h : NotifyOnly s X.1) (k : NotifyOnly s Y.1) :
    NotifyOnly s (if c then X else Y).1 := by
  split
  · exact h
  · exact k

/-- A counter's occurrences write the counter and, on the step that reaches its end, its OVF field (R14). -/
theorem NotifyOnly.bump {s t : State} {F : Fld} (h : NotifyOnly s t) (i n : Nat) (hF : evFld F = true)
    (ho : ∀ o b, F.ovf = some (o, b) → ∀ O, fldOf o = some O → evFld O = true) : NotifyOnly s (t.bump F i n).1 := by
  unfold State.bump
  dsimp only
  refine NotifyOnly.ite1 h (NotifyOnly.ite1 (h.wr _ _ _ hF) ?_)
  split
  · next o b e =>
    split
    · next O f => exact (h.wr _ _ _ hF).wr _ _ _ (ho o b e O f)
    · exact h.wr _ _ _ hF
  · exact h.wr _ _ _ hF

theorem NotifyOnly.bumpDrop {s t : State} (h : NotifyOnly s t) : NotifyOnly s (t.bump GLB_LINK_DROP.COUNT).1 :=
  h.bump _ _ rfl (fun o b e O f => by
    have hO : O.fid = 8 := (fldOf_fid f).trans (congrArg Prod.fst (Option.some.inj e)).symm
    simp [evFld, hO, GLB_LINK_DROP.OVF])

/-- What a discarded message counts keeps to what notifications may change. -/
def NotifyOnly.Drop (drop : State → State) : Prop := ∀ s t, NotifyOnly s t → NotifyOnly s (drop t)

variable {s t : State} {drop : State → State}

theorem NotifyOnly.msiWith (hd : NotifyOnly.Drop drop) (h : NotifyOnly s t) (v : Nat) : NotifyOnly s (State.msiWith drop t v) := by
  unfold State.msiWith
  dsimp only
  exact NotifyOnly.ite (hd _ _ h) (NotifyOnly.ite ((h.fl _ _ _ rfl).emit _) (NotifyOnly.ite h (h.irq _)))

theorem NotifyOnly.sendHeldWith (hd : NotifyOnly.Drop drop) (h : NotifyOnly s t) (m : Nat) :
    NotifyOnly s (State.sendHeldWith drop t m) := by
  unfold State.sendHeldWith
  dsimp only
  exact NotifyOnly.ite (NotifyOnly.msiWith hd ((h.irq _).fl _ _ _ rfl) m) ((h.irq _).emit _)

theorem NotifyOnly.notifyVecWith (hd : NotifyOnly.Drop drop) (h : NotifyOnly s t) (m : Nat) :
    NotifyOnly s (State.notifyVecWith drop t m) := by
  unfold State.notifyVecWith
  by_cases hm : m < 2048
  · simp only [if_pos hm]
    exact NotifyOnly.ite (NotifyOnly.sendHeldWith hd h m) ((h.irq _).fl _ _ _ rfl)
  · simp only [if_neg hm]
    exact NotifyOnly.ite (NotifyOnly.sendHeldWith hd (h.free 1) m) ((h.free 1).irq _)

theorem NotifyOnly.notifyTgtWith (hd : NotifyOnly.Drop drop) (h : NotifyOnly s t) (k : Nat) :
    NotifyOnly s (State.notifyTgtWith drop t k) := by
  unfold State.notifyTgtWith
  split
  · exact NotifyOnly.notifyVecWith hd h _
  · split
    · exact NotifyOnly.notifyVecWith hd h _
    · exact h

theorem NotifyOnly.foldl {α : Type} {f : State → α → State} (l : List α) (h : NotifyOnly s t)
    (hf : ∀ t a, NotifyOnly s t → NotifyOnly s (f t a)) : NotifyOnly s (l.foldl f t) := by
  induction l generalizing t with
  | nil => exact h
  | cons a r ih => exact ih (hf _ _ h)

theorem NotifyOnly.pendWith (hd : NotifyOnly.Drop drop) (h : NotifyOnly s t) (n : Nat) : NotifyOnly s (State.pendWith drop t n) :=
  NotifyOnly.foldl _ (h.wr _ _ _ rfl) (fun _ _ k => NotifyOnly.notifyTgtWith hd k _)

theorem NotifyOnly.assertWith (hd : NotifyOnly.Drop drop) (h : NotifyOnly s t) (n : Nat) : NotifyOnly s (State.assertWith drop t n) := by
  unfold State.assertWith
  dsimp only
  have k : NotifyOnly s (if srcIsLevel n then t.fl INTC_SRC.ASSERTED n true else t) := NotifyOnly.ite (h.fl _ _ _ rfl) h
  exact NotifyOnly.ite h (NotifyOnly.ite k (NotifyOnly.ite (NotifyOnly.pendWith hd k n) (NotifyOnly.ite (k.fl _ _ _ rfl) k)))

theorem NotifyOnly.drop_id : NotifyOnly.Drop id := fun _ _ h => h

theorem NotifyOnly.linkDrop : NotifyOnly.Drop State.linkDrop := by
  intro s t h
  unfold State.linkDrop
  exact NotifyOnly.ite (NotifyOnly.assertWith NotifyOnly.drop_id h.bumpDrop _) h.bumpDrop

/-- A source's assertion delivers notifications and does nothing else (R508). -/
theorem State.raise_only (s : State) (n : Nat) : NotifyOnly s (s.raise n) :=
  NotifyOnly.assertWith NotifyOnly.linkDrop (NotifyOnly.refl s) n

/-- A notification to a vector (R511). -/
theorem State.notifyVec_only (s : State) (v : Nat) : NotifyOnly s (s.notifyVec v) :=
  NotifyOnly.notifyVecWith NotifyOnly.linkDrop (NotifyOnly.refl s) v

/-- A message on a vector (R512). -/
theorem State.msi_only (s : State) (v : Nat) : NotifyOnly s (s.msi v) := NotifyOnly.msiWith NotifyOnly.linkDrop (NotifyOnly.refl s) v

/-- A level source follows its condition (R504). -/
theorem State.syncLevel_only (s : State) (n : Nat) : NotifyOnly s (s.syncLevel n) := by
  unfold State.syncLevel
  split
  · exact s.raise_only n
  · exact (NotifyOnly.refl s).fl _ _ _ rfl

@[simp] theorem State.rd_raise (s : State) (n : Nat) {F : Fld} (i : Nat) (h : evFld F = false) : (s.raise n).rd F i = s.rd F i :=
  (s.raise_only n).rd F i h

@[simp] theorem State.rd_notifyVec (s : State) (n : Nat) {F : Fld} (i : Nat) (h : evFld F = false) :
    (s.notifyVec n).rd F i = s.rd F i := (s.notifyVec_only n).rd F i h

@[simp] theorem State.rd_syncLevel (s : State) (n : Nat) {F : Fld} (i : Nat) (h : evFld F = false) :
    (s.syncLevel n).rd F i = s.rd F i := (s.syncLevel_only n).rd F i h

/-! ### Register writes -/

theorem RegsKept.refl (s : State) (l : List (Fld × Nat)) : RegsKept s s l := fun _ _ _ => rfl

theorem RegsKept.wr {s t : State} {l : List (Fld × Nat)} (h : RegsKept s t l) (F : Fld) (i v : Nat) (hF : (F, i) ∈ l) :
    RegsKept s (t.wr F i v) l := fun G k e => (t.rd_wr_other v (e _ hF)).trans (h G k e)

theorem RegsKept.fl {s t : State} {l : List (Fld × Nat)} (h : RegsKept s t l) (F : Fld) (i : Nat) (b : Bool) (hF : (F, i) ∈ l) :
    RegsKept s (t.fl F i b) l := h.wr F i _ hF

theorem RegsKept.ev {s t : State} {l : List (Fld × Nat)} (h : RegsKept s t l) : RegsKeptEv s t l := fun F i _ e => h F i e

theorem RegsKeptEv.refl (s : State) (l : List (Fld × Nat)) : RegsKeptEv s s l := fun _ _ _ _ => rfl

theorem RegsKeptEv.wr {s t : State} {l : List (Fld × Nat)} (h : RegsKeptEv s t l) (F : Fld) (i v : Nat) (hF : (F, i) ∈ l) :
    RegsKeptEv s (t.wr F i v) l := fun G k g e => (t.rd_wr_other v (e _ hF)).trans (h G k g e)

theorem RegsKeptEv.fl {s t : State} {l : List (Fld × Nat)} (h : RegsKeptEv s t l) (F : Fld) (i : Nat) (b : Bool) (hF : (F, i) ∈ l) :
    RegsKeptEv s (t.fl F i b) l := h.wr F i _ hF

theorem RegsKeptEv.notify {s t u : State} {l : List (Fld × Nat)} (h : RegsKeptEv s t l) (k : NotifyOnly t u) : RegsKeptEv s u l :=
  fun G j g e => (k.rd G j g).trans (h G j g e)

theorem RegsKeptEv.raise {s t : State} {l : List (Fld × Nat)} (h : RegsKeptEv s t l) (n : Nat) : RegsKeptEv s (t.raise n) l :=
  h.notify (t.raise_only n)

theorem WriteOnly.refl (s : State) (l : List (Fld × Nat)) : WriteOnly s s l := ⟨fun _ _ _ => rfl, rfl⟩

theorem WriteOnly.wr {s t : State} {l : List (Fld × Nat)} (h : WriteOnly s t l) (F : Fld) (i v : Nat) (hF : (F, i) ∈ l) :
    WriteOnly s (t.wr F i v) l :=
  ⟨h.rd.wr F i v hF, congrArg (fun u : State => { u with regs := (t.wr F i v).regs }) h.rest⟩

theorem WriteOnly.fl {s t : State} {l : List (Fld × Nat)} (h : WriteOnly s t l) (F : Fld) (i : Nat) (b : Bool) (hF : (F, i) ∈ l) :
    WriteOnly s (t.fl F i b) l := h.wr F i _ hF

theorem WriteEv.refl (s : State) (l : List (Fld × Nat)) : WriteEv s s l := ⟨fun _ _ _ _ => rfl, rfl⟩

theorem WriteOnly.ev {s t : State} {l : List (Fld × Nat)} (h : WriteOnly s t l) : WriteEv s t l :=
  ⟨h.rd.ev, by rw [h.rest]⟩

theorem WriteEv.wr {s t : State} {l : List (Fld × Nat)} (h : WriteEv s t l) (F : Fld) (i v : Nat) (hF : (F, i) ∈ l) :
    WriteEv s (t.wr F i v) l :=
  ⟨h.rd.wr F i v hF, congrArg (fun u : State => { u with regs := (t.wr F i v).regs }) h.rest⟩

theorem WriteEv.fl {s t : State} {l : List (Fld × Nat)} (h : WriteEv s t l) (F : Fld) (i : Nat) (b : Bool) (hF : (F, i) ∈ l) :
    WriteEv s (t.fl F i b) l := h.wr F i _ hF

theorem WriteEv.notify {s t u : State} {l : List (Fld × Nat)} (h : WriteEv s t l) (k : NotifyOnly t u) : WriteEv s u l :=
  ⟨h.rd.notify k, by rw [k.rest, h.rest]⟩

theorem WriteEv.raise {s t : State} {l : List (Fld × Nat)} (h : WriteEv s t l) (n : Nat) : WriteEv s (t.raise n) l :=
  h.notify (t.raise_only n)

theorem WriteEv.ite {s X Y : State} {l : List (Fld × Nat)} {c : Prop} [Decidable c] (h : WriteEv s X l) (k : WriteEv s Y l) :
    WriteEv s (if c then X else Y) l := by
  split
  · exact h
  · exact k

/-- A forbidden write sets its block's CFG_ERR and ERR_OFFSET and delivers an event (R13). -/
theorem State.cfgErr_ev (s : State) (b : Blk) (off : Nat) :
    WriteEv s (s.cfgErr b off) [(CFG.CFG_ERR, b.idx), (CFG.ERR_OFFSET, b.idx)] :=
  (((WriteOnly.refl s _).fl _ _ _ (by simp)).wr _ _ _ (by simp)).ev.raise _

end Sys2Proof.Machine
end

