-- ==== Sys2Proof/Laws/Record.lean ====
section
/-! SUPPORT. What the recording of events may change (chapters 19, 20, 23 and 24): one lemma for each operation of
Machine/Events.lean and for the records of the monitors, so that a proof goes on after it without unfolding it. -/

namespace Sys2Proof.Machine
variable {s t u : State}
theorem RecordOnly.refl (s : State) : RecordOnly s s := ⟨fun _ _ _ => rfl, ⟨[], by simp⟩, rfl⟩
theorem NotifyOnly.ldg (h : NotifyOnly s t) : t.ldg = s.ldg := by rw [h.rest]
theorem NotifyOnly.saf (h : NotifyOnly s t) : t.saf = s.saf := by rw [h.rest]
theorem NotifyOnly.pwr (h : NotifyOnly s t) : t.pwr = s.pwr := by rw [h.rest]
theorem RecordOnly.notify (h : RecordOnly s t) (k : NotifyOnly t u) : RecordOnly s u := by
  refine ⟨fun F i e => ?_, ?_, ?_⟩
  · have : evFld F = false := by simp [recFld] at e; exact e.1
    rw [k.rd F i this, h.rd F i e]
  · rw [k.ldg]; exact h.ldg
  · rw [k.rest, h.rest]
theorem RecordOnly.wr (h : RecordOnly s t) (F : Fld) (i v : Nat) (hF : recFld F = true) : RecordOnly s (t.wr F i v) := by
  refine ⟨fun G k e => ?_, h.ldg, congrArg (fun u : State => { u with regs := (t.wr F i v).regs }) h.rest⟩
  have : F.fid ≠ G.fid := by
    intro f
    have : recFld F = recFld G := by simp only [recFld, evFld, Fld.among, f]
    rw [this, e] at hF; cases hF
  rw [State.rd_wr_fid _ _ this]; exact h.rd G k e
theorem RecordOnly.fl (h : RecordOnly s t) (F : Fld) (i : Nat) (b : Bool) (hF : recFld F = true) : RecordOnly s (t.fl F i b) := h.wr F i _ hF
theorem RecordOnly.emit (h : RecordOnly s t) (o : Out) : RecordOnly s (t.emit o) := ⟨h.rd, h.ldg, congrArg (fun u : State => { u with out := (t.emit o).out }) h.rest⟩
theorem RecordOnly.free (h : RecordOnly s t) (k n : Nat) : RecordOnly s (t.freeBytes k n).2 := ⟨h.rd, h.ldg, congrArg (fun u : State => { u with freeCtr := t.freeCtr + 1 }) h.rest⟩
theorem RecordOnly.ledger (h : RecordOnly s t) (a b : Nat) (l : List Byte) (f : Bool) : RecordOnly s (t.ledger a b l f) := by
  refine ⟨h.rd, ?_, congrArg (fun u : State => { u with ldg := (t.ledger a b l f).ldg }) h.rest⟩
  obtain ⟨r, e⟩ := h.ldg
  unfold State.ledger; rw [e]; simp only [List.append_assoc]; exact ⟨_, rfl⟩
theorem RecordOnly.safs (h : RecordOnly s t) (x : Saf) : RecordOnly s { t with saf := x } := ⟨h.rd, h.ldg, congrArg (fun u : State => { u with saf := x }) h.rest⟩
theorem RecordOnly.em (h : RecordOnly s t) (x) : RecordOnly s { t with emcyQ := x } := ⟨h.rd, h.ldg, congrArg (fun u : State => { u with emcyQ := x }) h.rest⟩
theorem RecordOnly.ef (h : RecordOnly s t) (x) : RecordOnly s { t with errField := x } := ⟨h.rd, h.ldg, congrArg (fun u : State => { u with errField := x }) h.rest⟩
theorem RecordOnly.er (h : RecordOnly s t) (x) : RecordOnly s { t with errReg := x } := ⟨h.rd, h.ldg, congrArg (fun u : State => { u with errReg := x }) h.rest⟩
theorem RecordOnly.trans (h : RecordOnly s t) (k : RecordOnly t u) : RecordOnly s u := by
  refine ⟨fun F i e => (k.rd F i e).trans (h.rd F i e), ?_, by rw [k.rest, h.rest]⟩
  obtain ⟨r, e⟩ := h.ldg; obtain ⟨q, f⟩ := k.ldg
  exact ⟨r ++ q, by rw [f, e]; simp⟩
theorem RecordOnly.bump (h : RecordOnly s t) (F : Fld) (i n : Nat) (hF : recFld F = true)
    (ho : ∀ o b, F.ovf = some (o, b) → ∀ O, fldOf o = some O → recFld O = true) : RecordOnly s (t.bump F i n).1 := by
  unfold State.bump; dsimp only
  split
  · exact h
  · split
    · exact h.wr _ _ _ hF
    · split
      · rename_i o b e
        split
        · rename_i O f; exact (h.wr _ _ _ hF).wr _ _ _ (ho o b e O f)
        · exact h.wr _ _ _ hF
      · exact h.wr _ _ _ hF
theorem RecordOnly.countN (h : RecordOnly s t) (F : Fld) (i n : Nat) (hF : recFld F = true)
    (ho : ∀ o b, F.ovf = some (o, b) → ∀ O, fldOf o = some O → recFld O = true) : RecordOnly s (t.countN F i n) := by
  have k := h.bump F i n hF ho
  unfold State.countN
  generalize t.bump F i n = r at *
  obtain ⟨x, o⟩ := r
  dsimp only at *
  split
  · exact k
  · split
    · exact k.notify (State.syncLevel_only _ _)
    · exact k.notify (State.raise_only _ _)

/-- A counter whose OVF field is one of the recording's fields too. -/
def ctrRec (F : Fld) : Bool := recFld F && match F.ovf with
  | some (o, _) => recFld { fid := o, addr := 0, w := 1, acc := .ro }
  | none => true
theorem RecordOnly.countR (h : RecordOnly s t) (F : Fld) (i n : Nat) (hF : ctrRec F = true) : RecordOnly s (t.countN F i n) := by
  simp only [ctrRec, Bool.and_eq_true] at hF
  refine h.countN F i n hF.1 (fun o b e O f => ?_)
  have := fldOf_fid f
  simpa [e, recFld, evFld, Fld.among, this] using hF.2
theorem RecordOnly.count (h : RecordOnly s t) (F : Fld) (i : Nat) (hF : ctrRec F = true) : RecordOnly s (t.count F i) := h.countR F i 1 hF
theorem RecordOnly.ite (h : RecordOnly s t) (k : RecordOnly s u) {c : Prop} [Decidable c] : RecordOnly s (if c then t else u) := by
  split <;> assumption
theorem RecordOnly.foldl {α : Type} {f : State → α → State} (l : List α) (h : RecordOnly s t)
    (hf : ∀ t a, RecordOnly s t → RecordOnly s (f t a)) : RecordOnly s (l.foldl f t) := by
  induction l generalizing t with
  | nil => exact h
  | cons a r ih => exact ih (hf _ _ h)


theorem RecordOnly.upd {s X : State} (h : RecordOnly s X) {fc out irq saf q ef er} :
    RecordOnly s ⟨X.now, fc, X.regs, X.shadows, X.rdata, out, X.bus, irq, X.cap, X.ldg, X.area, X.tds, saf, X.asy, X.mem, X.fe, X.tly, X.heaps,
      X.mmu, X.pats, X.sh, X.looms, X.routes, X.crd, X.gfx, X.glz, X.prs, X.rt, X.tick, X.mesh, X.odm, X.boot, X.pwr, X.jtag, X.rsts, q, ef, er, X.pending⟩ :=
  ⟨h.rd, h.ldg, congrArg (fun u : State => { u with freeCtr := fc, out := out, irq := irq, saf := saf, emcyQ := q, errField := ef, errReg := er }) h.rest⟩
theorem RecordOnly.of_eq {β : Type} {r : β} {X : β × State} (h : RecordOnly s X.2) (e : X = (r, t)) : RecordOnly s t := by
  rw [e] at h; exact h
theorem RecordOnly.wrs (h : RecordOnly s t) (i : Nat) (l : List (Fld × Nat)) (hl : l.all (fun p => recFld p.1) = true) :
    RecordOnly s (t.wrs i l) := by
  unfold State.wrs
  induction l generalizing t with
  | nil => exact h
  | cons a r ih => simp at hl; exact ih (h.wr _ _ _ hl.1) (by simpa using hl.2)

theorem State.emcy_only (c a b : Nat) (h : RecordOnly s t) : RecordOnly s (t.emcy c a b) := by
  unfold State.emcy
  repeat' (first
    | with_reducible assumption
    | dsimp only
    | with_reducible refine RecordOnly.wr ?_ _ _ _ (by decide)
    | with_reducible refine RecordOnly.fl ?_ _ _ _ (by decide)
    | with_reducible refine RecordOnly.wrs ?_ _ _ (by simp only [List.all_cons, List.all_nil]; decide)
    | with_reducible refine RecordOnly.ledger ?_ _ _ _ _
    | with_reducible refine RecordOnly.emit ?_ _
    | with_reducible refine RecordOnly.free ?_ _ _
    | with_reducible refine RecordOnly.notify ?_ (State.raise_only _ _)
    | with_reducible refine RecordOnly.count ?_ _ _ (by decide)
    | with_reducible refine RecordOnly.countR ?_ _ _ _ (by decide)
    | with_reducible refine RecordOnly.foldl _ ?_ (fun _ _ _ => ?_)
    | with_reducible refine RecordOnly.notify ?_ (State.syncLevel_only _ _)
    | with_reducible refine RecordOnly.of_eq ?_ (by assumption)
    | with_reducible rfl
    | split
    | with_reducible refine RecordOnly.upd ?_)

theorem State.emcyClear_only  (h : RecordOnly s t) : RecordOnly s (t.emcyClear ) := by
  unfold State.emcyClear
  repeat' (first
    | with_reducible assumption
    | dsimp only
    | with_reducible apply State.emcy_only
    | with_reducible refine RecordOnly.wr ?_ _ _ _ (by decide)
    | with_reducible refine RecordOnly.fl ?_ _ _ _ (by decide)
    | with_reducible refine RecordOnly.wrs ?_ _ _ (by simp only [List.all_cons, List.all_nil]; decide)
    | with_reducible refine RecordOnly.ledger ?_ _ _ _ _
    | with_reducible refine RecordOnly.emit ?_ _
    | with_reducible refine RecordOnly.free ?_ _ _
    | with_reducible refine RecordOnly.notify ?_ (State.raise_only _ _)
    | with_reducible refine RecordOnly.count ?_ _ _ (by decide)
    | with_reducible refine RecordOnly.countR ?_ _ _ _ (by decide)
    | with_reducible refine RecordOnly.foldl _ ?_ (fun _ _ _ => ?_)
    | with_reducible refine RecordOnly.notify ?_ (State.syncLevel_only _ _)
    | with_reducible refine RecordOnly.of_eq ?_ (by assumption)
    | with_reducible rfl
    | split
    | with_reducible refine RecordOnly.upd ?_)

theorem State.syncSaf_only (h : RecordOnly s t) : RecordOnly s t.syncSaf := by
  unfold State.syncSaf
  exact RecordOnly.foldl _ h (fun _ _ k => k.notify (State.syncLevel_only _ _))

theorem State.linkRec_only (a b c : Nat) (h : RecordOnly s t) : RecordOnly s (t.linkRec a b c) := by
  unfold State.linkRec
  repeat' (first
    | with_reducible assumption
    | dsimp only
    | with_reducible apply State.emcy_only
    | with_reducible apply State.emcyClear_only
    | with_reducible apply State.syncSaf_only
    | with_reducible refine RecordOnly.wr ?_ _ _ _ (by decide)
    | with_reducible refine RecordOnly.fl ?_ _ _ _ (by decide)
    | with_reducible refine RecordOnly.wrs ?_ _ _ (by simp only [List.all_cons, List.all_nil]; decide)
    | with_reducible refine RecordOnly.ledger ?_ _ _ _ _
    | with_reducible refine RecordOnly.emit ?_ _
    | with_reducible refine RecordOnly.free ?_ _ _
    | with_reducible refine RecordOnly.notify ?_ (State.raise_only _ _)
    | with_reducible refine RecordOnly.count ?_ _ _ (by decide)
    | with_reducible refine RecordOnly.countR ?_ _ _ _ (by decide)
    | with_reducible refine RecordOnly.foldl _ ?_ (fun _ _ _ => ?_)
    | with_reducible refine RecordOnly.notify ?_ (State.syncLevel_only _ _)
    | with_reducible refine RecordOnly.of_eq ?_ (by assumption)
    | with_reducible rfl
    | split
    | with_reducible refine RecordOnly.upd ?_)

theorem State.safUpdate_only (h : RecordOnly s t) : RecordOnly s t.safUpdate := by
  unfold State.safUpdate
  repeat' (first
    | with_reducible assumption
    | dsimp only
    | with_reducible apply State.emcy_only
    | with_reducible apply State.emcyClear_only
    | with_reducible apply State.syncSaf_only
    | with_reducible apply State.linkRec_only
    | with_reducible refine RecordOnly.wr ?_ _ _ _ (by decide)
    | with_reducible refine RecordOnly.fl ?_ _ _ _ (by decide)
    | with_reducible refine RecordOnly.wrs ?_ _ _ (by simp only [List.all_cons, List.all_nil]; decide)
    | with_reducible refine RecordOnly.ledger ?_ _ _ _ _
    | with_reducible refine RecordOnly.emit ?_ _
    | with_reducible refine RecordOnly.free ?_ _ _
    | with_reducible refine RecordOnly.notify ?_ (State.raise_only _ _)
    | with_reducible refine RecordOnly.count ?_ _ _ (by decide)
    | with_reducible refine RecordOnly.countR ?_ _ _ _ (by decide)
    | with_reducible refine RecordOnly.foldl _ ?_ (fun _ _ _ => ?_)
    | with_reducible refine RecordOnly.notify ?_ (State.syncLevel_only _ _)
    | with_reducible refine RecordOnly.of_eq ?_ (by assumption)
    | with_reducible rfl
    | split
    | with_reducible refine RecordOnly.upd ?_)

theorem State.routeHit_only (i : Nat) (h : RecordOnly s t) : RecordOnly s (t.routeHit i) := by
  unfold State.routeHit
  repeat' (first
    | with_reducible assumption
    | dsimp only
    | with_reducible apply State.emcy_only
    | with_reducible apply State.emcyClear_only
    | with_reducible apply State.syncSaf_only
    | with_reducible apply State.linkRec_only
    | with_reducible apply State.safUpdate_only
    | with_reducible refine RecordOnly.wr ?_ _ _ _ (by decide)
    | with_reducible refine RecordOnly.fl ?_ _ _ _ (by decide)
    | with_reducible refine RecordOnly.wrs ?_ _ _ (by simp only [List.all_cons, List.all_nil]; decide)
    | with_reducible refine RecordOnly.ledger ?_ _ _ _ _
    | with_reducible refine RecordOnly.emit ?_ _
    | with_reducible refine RecordOnly.free ?_ _ _
    | with_reducible refine RecordOnly.notify ?_ (State.raise_only _ _)
    | with_reducible refine RecordOnly.count ?_ _ _ (by decide)
    | with_reducible refine RecordOnly.countR ?_ _ _ _ (by decide)
    | with_reducible refine RecordOnly.foldl _ ?_ (fun _ _ _ => ?_)
    | with_reducible refine RecordOnly.notify ?_ (State.syncLevel_only _ _)
    | with_reducible refine RecordOnly.of_eq ?_ (by assumption)
    | with_reducible rfl
    | split
    | with_reducible refine RecordOnly.upd ?_)

theorem State.routeLevel_only (i : Nat) (b : Bool) (h : RecordOnly s t) : RecordOnly s (t.routeLevel i b) := by
  unfold State.routeLevel
  repeat' (first
    | with_reducible assumption
    | dsimp only
    | with_reducible apply State.emcy_only
    | with_reducible apply State.emcyClear_only
    | with_reducible apply State.syncSaf_only
    | with_reducible apply State.linkRec_only
    | with_reducible apply State.safUpdate_only
    | with_reducible apply State.routeHit_only
    | with_reducible refine RecordOnly.wr ?_ _ _ _ (by decide)
    | with_reducible refine RecordOnly.fl ?_ _ _ _ (by decide)
    | with_reducible refine RecordOnly.wrs ?_ _ _ (by simp only [List.all_cons, List.all_nil]; decide)
    | with_reducible refine RecordOnly.ledger ?_ _ _ _ _
    | with_reducible refine RecordOnly.emit ?_ _
    | with_reducible refine RecordOnly.free ?_ _ _
    | with_reducible refine RecordOnly.notify ?_ (State.raise_only _ _)
    | with_reducible refine RecordOnly.count ?_ _ _ (by decide)
    | with_reducible refine RecordOnly.countR ?_ _ _ _ (by decide)
    | with_reducible refine RecordOnly.foldl _ ?_ (fun _ _ _ => ?_)
    | with_reducible refine RecordOnly.notify ?_ (State.syncLevel_only _ _)
    | with_reducible refine RecordOnly.of_eq ?_ (by assumption)
    | with_reducible rfl
    | split
    | with_reducible refine RecordOnly.upd ?_)

theorem State.incRec_only (a b c d e : Nat) (h : RecordOnly s t) : RecordOnly s (t.incRec a b c d e) := by
  unfold State.incRec
  repeat' (first
    | with_reducible assumption
    | dsimp only
    | with_reducible apply State.emcy_only
    | with_reducible apply State.emcyClear_only
    | with_reducible apply State.syncSaf_only
    | with_reducible apply State.linkRec_only
    | with_reducible apply State.safUpdate_only
    | with_reducible apply State.routeHit_only
    | with_reducible apply State.routeLevel_only
    | with_reducible refine RecordOnly.wr ?_ _ _ _ (by decide)
    | with_reducible refine RecordOnly.fl ?_ _ _ _ (by decide)
    | with_reducible refine RecordOnly.wrs ?_ _ _ (by simp only [List.all_cons, List.all_nil]; decide)
    | with_reducible refine RecordOnly.ledger ?_ _ _ _ _
    | with_reducible refine RecordOnly.emit ?_ _
    | with_reducible refine RecordOnly.free ?_ _ _
    | with_reducible refine RecordOnly.notify ?_ (State.raise_only _ _)
    | with_reducible refine RecordOnly.count ?_ _ _ (by decide)
    | with_reducible refine RecordOnly.countR ?_ _ _ _ (by decide)
    | with_reducible refine RecordOnly.foldl _ ?_ (fun _ _ _ => ?_)
    | with_reducible refine RecordOnly.notify ?_ (State.syncLevel_only _ _)
    | with_reducible refine RecordOnly.of_eq ?_ (by assumption)
    | with_reducible rfl
    | split
    | with_reducible refine RecordOnly.upd ?_)

theorem State.incOpenSlot_only (a b c d e f : Nat) (h : RecordOnly s t) : RecordOnly s (t.incOpenSlot a b c d e f) := by
  unfold State.incOpenSlot
  repeat' (first
    | with_reducible assumption
    | dsimp only
    | with_reducible apply State.emcy_only
    | with_reducible apply State.emcyClear_only
    | with_reducible apply State.syncSaf_only
    | with_reducible apply State.linkRec_only
    | with_reducible apply State.safUpdate_only
    | with_reducible apply State.routeHit_only
    | with_reducible apply State.routeLevel_only
    | with_reducible apply State.incRec_only
    | with_reducible refine RecordOnly.wr ?_ _ _ _ (by decide)
    | with_reducible refine RecordOnly.fl ?_ _ _ _ (by decide)
    | with_reducible refine RecordOnly.wrs ?_ _ _ (by simp only [List.all_cons, List.all_nil]; decide)
    | with_reducible refine RecordOnly.ledger ?_ _ _ _ _
    | with_reducible refine RecordOnly.emit ?_ _
    | with_reducible refine RecordOnly.free ?_ _ _
    | with_reducible refine RecordOnly.notify ?_ (State.raise_only _ _)
    | with_reducible refine RecordOnly.count ?_ _ _ (by decide)
    | with_reducible refine RecordOnly.countR ?_ _ _ _ (by decide)
    | with_reducible refine RecordOnly.foldl _ ?_ (fun _ _ _ => ?_)
    | with_reducible refine RecordOnly.notify ?_ (State.syncLevel_only _ _)
    | with_reducible refine RecordOnly.of_eq ?_ (by assumption)
    | with_reducible rfl
    | split
    | with_reducible refine RecordOnly.upd ?_)

theorem State.incNew_only  (h : RecordOnly s t) : RecordOnly s (t.incNew ).2 := by
  unfold State.incNew
  repeat' (first
    | with_reducible assumption
    | dsimp only
    | with_reducible apply State.emcy_only
    | with_reducible apply State.emcyClear_only
    | with_reducible apply State.syncSaf_only
    | with_reducible apply State.linkRec_only
    | with_reducible apply State.safUpdate_only
    | with_reducible apply State.routeHit_only
    | with_reducible apply State.routeLevel_only
    | with_reducible apply State.incRec_only
    | with_reducible apply State.incOpenSlot_only
    | with_reducible refine RecordOnly.wr ?_ _ _ _ (by decide)
    | with_reducible refine RecordOnly.fl ?_ _ _ _ (by decide)
    | with_reducible refine RecordOnly.wrs ?_ _ _ (by simp only [List.all_cons, List.all_nil]; decide)
    | with_reducible refine RecordOnly.ledger ?_ _ _ _ _
    | with_reducible refine RecordOnly.emit ?_ _
    | with_reducible refine RecordOnly.free ?_ _ _
    | with_reducible refine RecordOnly.notify ?_ (State.raise_only _ _)
    | with_reducible refine RecordOnly.count ?_ _ _ (by decide)
    | with_reducible refine RecordOnly.countR ?_ _ _ _ (by decide)
    | with_reducible refine RecordOnly.foldl _ ?_ (fun _ _ _ => ?_)
    | with_reducible refine RecordOnly.notify ?_ (State.syncLevel_only _ _)
    | with_reducible refine RecordOnly.of_eq ?_ (by assumption)
    | with_reducible rfl
    | split
    | with_reducible refine RecordOnly.upd ?_)

theorem State.incWant_only (a b : Nat) (h : RecordOnly s t) : RecordOnly s (t.incWant a b) := by
  unfold State.incWant
  repeat' (first
    | with_reducible assumption
    | dsimp only
    | with_reducible apply State.emcy_only
    | with_reducible apply State.emcyClear_only
    | with_reducible apply State.syncSaf_only
    | with_reducible apply State.linkRec_only
    | with_reducible apply State.safUpdate_only
    | with_reducible apply State.routeHit_only
    | with_reducible apply State.routeLevel_only
    | with_reducible apply State.incRec_only
    | with_reducible apply State.incOpenSlot_only
    | with_reducible apply State.incNew_only
    | with_reducible refine RecordOnly.wr ?_ _ _ _ (by decide)
    | with_reducible refine RecordOnly.fl ?_ _ _ _ (by decide)
    | with_reducible refine RecordOnly.wrs ?_ _ _ (by simp only [List.all_cons, List.all_nil]; decide)
    | with_reducible refine RecordOnly.ledger ?_ _ _ _ _
    | with_reducible refine RecordOnly.emit ?_ _
    | with_reducible refine RecordOnly.free ?_ _ _
    | with_reducible refine RecordOnly.notify ?_ (State.raise_only _ _)
    | with_reducible refine RecordOnly.count ?_ _ _ (by decide)
    | with_reducible refine RecordOnly.countR ?_ _ _ _ (by decide)
    | with_reducible refine RecordOnly.foldl _ ?_ (fun _ _ _ => ?_)
    | with_reducible refine RecordOnly.notify ?_ (State.syncLevel_only _ _)
    | with_reducible refine RecordOnly.of_eq ?_ (by assumption)
    | with_reducible rfl
    | split
    | with_reducible refine RecordOnly.upd ?_)

theorem State.incDevice_only (a b : Nat) (h : RecordOnly s t) : RecordOnly s (t.incDevice a b).2 := by
  unfold State.incDevice
  repeat' (first
    | with_reducible assumption
    | dsimp only
    | with_reducible apply State.emcy_only
    | with_reducible apply State.emcyClear_only
    | with_reducible apply State.syncSaf_only
    | with_reducible apply State.linkRec_only
    | with_reducible apply State.safUpdate_only
    | with_reducible apply State.routeHit_only
    | with_reducible apply State.routeLevel_only
    | with_reducible apply State.incRec_only
    | with_reducible apply State.incOpenSlot_only
    | with_reducible apply State.incNew_only
    | with_reducible apply State.incWant_only
    | with_reducible refine RecordOnly.wr ?_ _ _ _ (by decide)
    | with_reducible refine RecordOnly.fl ?_ _ _ _ (by decide)
    | with_reducible refine RecordOnly.wrs ?_ _ _ (by simp only [List.all_cons, List.all_nil]; decide)
    | with_reducible refine RecordOnly.ledger ?_ _ _ _ _
    | with_reducible refine RecordOnly.emit ?_ _
    | with_reducible refine RecordOnly.free ?_ _ _
    | with_reducible refine RecordOnly.notify ?_ (State.raise_only _ _)
    | with_reducible refine RecordOnly.count ?_ _ _ (by decide)
    | with_reducible refine RecordOnly.countR ?_ _ _ _ (by decide)
    | with_reducible refine RecordOnly.foldl _ ?_ (fun _ _ _ => ?_)
    | with_reducible refine RecordOnly.notify ?_ (State.syncLevel_only _ _)
    | with_reducible refine RecordOnly.of_eq ?_ (by assumption)
    | with_reducible rfl
    | split
    | with_reducible refine RecordOnly.upd ?_)

theorem State.incident_only (a b c : Nat) (h : RecordOnly s t) : RecordOnly s (t.incident a b c).2 := by
  unfold State.incident
  repeat' (first
    | with_reducible assumption
    | dsimp only
    | with_reducible apply State.emcy_only
    | with_reducible apply State.emcyClear_only
    | with_reducible apply State.syncSaf_only
    | with_reducible apply State.linkRec_only
    | with_reducible apply State.safUpdate_only
    | with_reducible apply State.routeHit_only
    | with_reducible apply State.routeLevel_only
    | with_reducible apply State.incRec_only
    | with_reducible apply State.incOpenSlot_only
    | with_reducible apply State.incNew_only
    | with_reducible apply State.incWant_only
    | with_reducible apply State.incDevice_only
    | with_reducible refine RecordOnly.wr ?_ _ _ _ (by decide)
    | with_reducible refine RecordOnly.fl ?_ _ _ _ (by decide)
    | with_reducible refine RecordOnly.wrs ?_ _ _ (by simp only [List.all_cons, List.all_nil]; decide)
    | with_reducible refine RecordOnly.ledger ?_ _ _ _ _
    | with_reducible refine RecordOnly.emit ?_ _
    | with_reducible refine RecordOnly.free ?_ _ _
    | with_reducible refine RecordOnly.notify ?_ (State.raise_only _ _)
    | with_reducible refine RecordOnly.count ?_ _ _ (by decide)
    | with_reducible refine RecordOnly.countR ?_ _ _ _ (by decide)
    | with_reducible refine RecordOnly.foldl _ ?_ (fun _ _ _ => ?_)
    | with_reducible refine RecordOnly.notify ?_ (State.syncLevel_only _ _)
    | with_reducible refine RecordOnly.of_eq ?_ (by assumption)
    | with_reducible rfl
    | split
    | with_reducible refine RecordOnly.upd ?_)

theorem incClosed_rec (l : Nat) : ctrRec (incClosedCtr l) = true := by
  unfold incClosedCtr
  repeat' split
  all_goals decide
theorem State.incClose_only (k : Nat) (h : RecordOnly s t) : RecordOnly s (t.incClose k) := by
  unfold State.incClose
  split
  · exact State.safUpdate_only (RecordOnly.upd (State.incRec_only _ _ _ _ _ (RecordOnly.count ((h.fl _ _ _ (by decide)).wr _ _ _ (by decide)) _ _ (incClosed_rec _))))
  · exact h

theorem State.incDone_only (k : Nat) (h : RecordOnly s t) : RecordOnly s (t.incDone k) := by
  unfold State.incDone
  repeat' (first
    | with_reducible assumption
    | dsimp only
    | with_reducible apply State.emcy_only
    | with_reducible apply State.emcyClear_only
    | with_reducible apply State.syncSaf_only
    | with_reducible apply State.linkRec_only
    | with_reducible apply State.safUpdate_only
    | with_reducible apply State.routeHit_only
    | with_reducible apply State.routeLevel_only
    | with_reducible apply State.incRec_only
    | with_reducible apply State.incOpenSlot_only
    | with_reducible apply State.incNew_only
    | with_reducible apply State.incWant_only
    | with_reducible apply State.incDevice_only
    | with_reducible apply State.incident_only
    | with_reducible apply State.incClose_only
    | with_reducible refine RecordOnly.wr ?_ _ _ _ (by decide)
    | with_reducible refine RecordOnly.fl ?_ _ _ _ (by decide)
    | with_reducible refine RecordOnly.wrs ?_ _ _ (by simp only [List.all_cons, List.all_nil]; decide)
    | with_reducible refine RecordOnly.ledger ?_ _ _ _ _
    | with_reducible refine RecordOnly.emit ?_ _
    | with_reducible refine RecordOnly.free ?_ _ _
    | with_reducible refine RecordOnly.notify ?_ (State.raise_only _ _)
    | with_reducible refine RecordOnly.count ?_ _ _ (by decide)
    | with_reducible refine RecordOnly.countR ?_ _ _ _ (by decide)
    | with_reducible refine RecordOnly.foldl _ ?_ (fun _ _ _ => ?_)
    | with_reducible refine RecordOnly.notify ?_ (State.syncLevel_only _ _)
    | with_reducible refine RecordOnly.of_eq ?_ (by assumption)
    | with_reducible rfl
    | split
    | with_reducible refine RecordOnly.upd ?_)

theorem State.incRetryFailed_only (a b c : Nat) (h : RecordOnly s t) : RecordOnly s (t.incRetryFailed a b c).2 := by
  unfold State.incRetryFailed
  repeat' (first
    | with_reducible assumption
    | dsimp only
    | with_reducible apply State.emcy_only
    | with_reducible apply State.emcyClear_only
    | with_reducible apply State.syncSaf_only
    | with_reducible apply State.linkRec_only
    | with_reducible apply State.safUpdate_only
    | with_reducible apply State.routeHit_only
    | with_reducible apply State.routeLevel_only
    | with_reducible apply State.incRec_only
    | with_reducible apply State.incOpenSlot_only
    | with_reducible apply State.incNew_only
    | with_reducible apply State.incWant_only
    | with_reducible apply State.incDevice_only
    | with_reducible apply State.incident_only
    | with_reducible apply State.incClose_only
    | with_reducible apply State.incDone_only
    | with_reducible refine RecordOnly.wr ?_ _ _ _ (by decide)
    | with_reducible refine RecordOnly.fl ?_ _ _ _ (by decide)
    | with_reducible refine RecordOnly.wrs ?_ _ _ (by simp only [List.all_cons, List.all_nil]; decide)
    | with_reducible refine RecordOnly.ledger ?_ _ _ _ _
    | with_reducible refine RecordOnly.emit ?_ _
    | with_reducible refine RecordOnly.free ?_ _ _
    | with_reducible refine RecordOnly.notify ?_ (State.raise_only _ _)
    | with_reducible refine RecordOnly.count ?_ _ _ (by decide)
    | with_reducible refine RecordOnly.countR ?_ _ _ _ (by decide)
    | with_reducible refine RecordOnly.foldl _ ?_ (fun _ _ _ => ?_)
    | with_reducible refine RecordOnly.notify ?_ (State.syncLevel_only _ _)
    | with_reducible refine RecordOnly.of_eq ?_ (by assumption)
    | with_reducible rfl
    | split
    | with_reducible refine RecordOnly.upd ?_)

theorem State.emcyCond_only (c : Nat) (b : Bool) (h : RecordOnly s t) : RecordOnly s (t.emcyCond c b) := by
  unfold State.emcyCond
  repeat' (first
    | with_reducible assumption
    | dsimp only
    | with_reducible apply State.emcy_only
    | with_reducible apply State.emcyClear_only
    | with_reducible apply State.syncSaf_only
    | with_reducible apply State.linkRec_only
    | with_reducible apply State.safUpdate_only
    | with_reducible apply State.routeHit_only
    | with_reducible apply State.routeLevel_only
    | with_reducible apply State.incRec_only
    | with_reducible apply State.incOpenSlot_only
    | with_reducible apply State.incNew_only
    | with_reducible apply State.incWant_only
    | with_reducible apply State.incDevice_only
    | with_reducible apply State.incident_only
    | with_reducible apply State.incClose_only
    | with_reducible apply State.incDone_only
    | with_reducible apply State.incRetryFailed_only
    | with_reducible refine RecordOnly.wr ?_ _ _ _ (by decide)
    | with_reducible refine RecordOnly.fl ?_ _ _ _ (by decide)
    | with_reducible refine RecordOnly.wrs ?_ _ _ (by simp only [List.all_cons, List.all_nil]; decide)
    | with_reducible refine RecordOnly.ledger ?_ _ _ _ _
    | with_reducible refine RecordOnly.emit ?_ _
    | with_reducible refine RecordOnly.free ?_ _ _
    | with_reducible refine RecordOnly.notify ?_ (State.raise_only _ _)
    | with_reducible refine RecordOnly.count ?_ _ _ (by decide)
    | with_reducible refine RecordOnly.countR ?_ _ _ _ (by decide)
    | with_reducible refine RecordOnly.foldl _ ?_ (fun _ _ _ => ?_)
    | with_reducible refine RecordOnly.notify ?_ (State.syncLevel_only _ _)
    | with_reducible refine RecordOnly.of_eq ?_ (by assumption)
    | with_reducible rfl
    | split
    | with_reducible refine RecordOnly.upd ?_)

theorem State.monRec_only (a b : Nat) (c d : Option Nat) (e : Bool) (h : RecordOnly s t) : RecordOnly s (t.monRec a b c d e) := by
  unfold State.monRec
  repeat' (first
    | with_reducible assumption
    | dsimp only
    | with_reducible apply State.emcy_only
    | with_reducible apply State.emcyClear_only
    | with_reducible apply State.syncSaf_only
    | with_reducible apply State.linkRec_only
    | with_reducible apply State.safUpdate_only
    | with_reducible apply State.routeHit_only
    | with_reducible apply State.routeLevel_only
    | with_reducible apply State.incRec_only
    | with_reducible apply State.incOpenSlot_only
    | with_reducible apply State.incNew_only
    | with_reducible apply State.incWant_only
    | with_reducible apply State.incDevice_only
    | with_reducible apply State.incident_only
    | with_reducible apply State.incClose_only
    | with_reducible apply State.incDone_only
    | with_reducible apply State.incRetryFailed_only
    | with_reducible apply State.emcyCond_only
    | with_reducible refine RecordOnly.wr ?_ _ _ _ (by decide)
    | with_reducible refine RecordOnly.fl ?_ _ _ _ (by decide)
    | with_reducible refine RecordOnly.wrs ?_ _ _ (by simp only [List.all_cons, List.all_nil]; decide)
    | with_reducible refine RecordOnly.ledger ?_ _ _ _ _
    | with_reducible refine RecordOnly.emit ?_ _
    | with_reducible refine RecordOnly.free ?_ _ _
    | with_reducible refine RecordOnly.notify ?_ (State.raise_only _ _)
    | with_reducible refine RecordOnly.count ?_ _ _ (by decide)
    | with_reducible refine RecordOnly.countR ?_ _ _ _ (by decide)
    | with_reducible refine RecordOnly.foldl _ ?_ (fun _ _ _ => ?_)
    | with_reducible refine RecordOnly.notify ?_ (State.syncLevel_only _ _)
    | with_reducible refine RecordOnly.of_eq ?_ (by assumption)
    | with_reducible rfl
    | split
    | with_reducible refine RecordOnly.upd ?_)

theorem State.monIncident_only (a : Nat) (b : Option Nat) (h : RecordOnly s t) : RecordOnly s (t.monIncident a b) := by
  unfold State.monIncident
  repeat' (first
    | with_reducible assumption
    | dsimp only
    | with_reducible apply State.emcy_only
    | with_reducible apply State.emcyClear_only
    | with_reducible apply State.syncSaf_only
    | with_reducible apply State.linkRec_only
    | with_reducible apply State.safUpdate_only
    | with_reducible apply State.routeHit_only
    | with_reducible apply State.routeLevel_only
    | with_reducible apply State.incRec_only
    | with_reducible apply State.incOpenSlot_only
    | with_reducible apply State.incNew_only
    | with_reducible apply State.incWant_only
    | with_reducible apply State.incDevice_only
    | with_reducible apply State.incident_only
    | with_reducible apply State.incClose_only
    | with_reducible apply State.incDone_only
    | with_reducible apply State.incRetryFailed_only
    | with_reducible apply State.emcyCond_only
    | with_reducible apply State.monRec_only
    | with_reducible refine RecordOnly.wr ?_ _ _ _ (by decide)
    | with_reducible refine RecordOnly.fl ?_ _ _ _ (by decide)
    | with_reducible refine RecordOnly.wrs ?_ _ _ (by simp only [List.all_cons, List.all_nil]; decide)
    | with_reducible refine RecordOnly.ledger ?_ _ _ _ _
    | with_reducible refine RecordOnly.emit ?_ _
    | with_reducible refine RecordOnly.free ?_ _ _
    | with_reducible refine RecordOnly.notify ?_ (State.raise_only _ _)
    | with_reducible refine RecordOnly.count ?_ _ _ (by decide)
    | with_reducible refine RecordOnly.countR ?_ _ _ _ (by decide)
    | with_reducible refine RecordOnly.foldl _ ?_ (fun _ _ _ => ?_)
    | with_reducible refine RecordOnly.notify ?_ (State.syncLevel_only _ _)
    | with_reducible refine RecordOnly.of_eq ?_ (by assumption)
    | with_reducible rfl
    | split
    | with_reducible refine RecordOnly.upd ?_)

end Sys2Proof.Machine
end

