-- ==== Sys2Proof/Laws/MemOnly.lean ====
section
/-! SUPPORT. What an access to memory may change (chapter 17): one lemma for each operation of Machine/Mem.lean and for the trace, so that
a proof goes on after it without unfolding it. -/

namespace Sys2Proof.Machine
variable {s t u : State}

theorem MemOnly.refl (s : State) : MemOnly s s := ⟨fun _ _ _ => rfl, rfl⟩

theorem RecordOnly.memOnly (k : RecordOnly s t) : MemOnly s t := by
  refine ⟨fun F i e => k.rd F i (by simp [memFld] at e; exact e.1), ?_⟩
  have h := k.rest
  rw [h]

theorem MemOnly.trans (h : MemOnly s t) (k : MemOnly t u) : MemOnly s u :=
  ⟨fun F i e => (k.rd F i e).trans (h.rd F i e), by rw [k.rest, h.rest]⟩

theorem MemOnly.record (h : MemOnly s t) (k : RecordOnly t u) : MemOnly s u := h.trans k.memOnly

theorem MemOnly.notify (h : MemOnly s t) (k : NotifyOnly t u) : MemOnly s u := h.record ((RecordOnly.refl t).notify k)

theorem MemOnly.raise (h : MemOnly s t) (n : Nat) : MemOnly s (t.raise n) := h.notify (State.raise_only _ _)

theorem MemOnly.incident (h : MemOnly s t) (a b c : Nat) : MemOnly s (t.incident a b c).2 := h.record (State.incident_only a b c (RecordOnly.refl t))

theorem MemOnly.routeHit (h : MemOnly s t) (i : Nat) : MemOnly s (t.routeHit i) := h.record (State.routeHit_only i (RecordOnly.refl t))

theorem MemOnly.wr (h : MemOnly s t) (F : Fld) (i v : Nat) (hF : memFld F = true) : MemOnly s (t.wr F i v) := by
  refine ⟨fun G k e => ?_, congrArg (fun u : State => { u with regs := (t.wr F i v).regs }) h.rest⟩
  have : F.fid ≠ G.fid := by
    intro f
    have : memFld F = memFld G := by simp only [memFld, recFld, evFld, Fld.among, f]
    rw [this, e] at hF; cases hF
  rw [State.rd_wr_fid _ _ this]; exact h.rd G k e

theorem MemOnly.fl (h : MemOnly s t) (F : Fld) (i : Nat) (b : Bool) (hF : memFld F = true) : MemOnly s (t.fl F i b) := h.wr F i _ hF

theorem MemOnly.emit (h : MemOnly s t) (o : Out) : MemOnly s (t.emit o) := ⟨h.rd, congrArg (fun u : State => { u with out := (t.emit o).out }) h.rest⟩

theorem MemOnly.free (h : MemOnly s t) (k n : Nat) : MemOnly s (t.freeBytes k n).2 := ⟨h.rd, congrArg (fun u : State => { u with freeCtr := t.freeCtr + 1 }) h.rest⟩

theorem MemOnly.free1 (h : MemOnly s t) (k : Nat) : MemOnly s (t.free k).2 := ⟨h.rd, congrArg (fun u : State => { u with freeCtr := t.freeCtr + 1 }) h.rest⟩

theorem MemOnly.ledger (h : MemOnly s t) (a b : Nat) (l : List Byte) (f : Bool) : MemOnly s (t.ledger a b l f) :=
  h.record ((RecordOnly.refl t).ledger a b l f)

/-- A counter whose OVF field is one of an access's fields too. -/
def ctrMem (F : Fld) : Bool := memFld F && match F.ovf with
  | some (o, _) => memFld { fid := o, addr := 0, w := 1, acc := .ro }
  | none => true

theorem MemOnly.countN (h : MemOnly s t) (F : Fld) (i n : Nat) (hF : ctrMem F = true) : MemOnly s (t.countN F i n) := by
  simp only [ctrMem, Bool.and_eq_true] at hF
  have k : MemOnly s (t.bump F i n).1 := by
    unfold State.bump; dsimp only
    split
    · exact h
    · split
      · exact h.wr _ _ _ hF.1
      · split
        · rename_i o b e
          split
          · rename_i O f
            have := fldOf_fid f
            exact (h.wr _ _ _ hF.1).wr _ _ _ (by simpa [e, memFld, recFld, evFld, Fld.among, this] using hF.2)
          · exact h.wr _ _ _ hF.1
        · exact h.wr _ _ _ hF.1
  unfold State.countN
  generalize t.bump F i n = r at *
  obtain ⟨x, o⟩ := r
  dsimp only at *
  split
  · exact k
  · split
    · exact k.notify (State.syncLevel_only _ _)
    · exact k.notify (State.raise_only _ _)

theorem MemOnly.count (h : MemOnly s t) (F : Fld) (i : Nat) (hF : ctrMem F = true) : MemOnly s (t.count F i) := h.countN F i 1 hF

theorem MemOnly.foldl {α : Type} {f : State → α → State} (l : List α) (h : MemOnly s t)
    (hf : ∀ t a, MemOnly s t → MemOnly s (f t a)) : MemOnly s (l.foldl f t) := by
  induction l generalizing t with
  | nil => exact h
  | cons a r ih => exact ih (hf _ _ h)

theorem MemOnly.foldl1 {α β : Type} {f : State × β → α → State × β} (l : List α) {x : State × β} (h : MemOnly s x.1)
    (hf : ∀ t b a, MemOnly s t → MemOnly s (f (t, b) a).1) : MemOnly s (l.foldl f x).1 := by
  induction l generalizing x with
  | nil => exact h
  | cons a r ih => exact ih (hf _ _ _ h)

theorem MemOnly.of_eq2 {β : Type} {r : β} {X : β × State} (h : MemOnly s X.2) (e : X = (r, t)) : MemOnly s t := by
  rw [e] at h; exact h

theorem MemOnly.of_eq1 {β : Type} {r : β} {X : State × β} (h : MemOnly s X.1) (e : X = (t, r)) : MemOnly s t := by
  rw [e] at h; exact h

theorem MemOnly.ite1 {β : Type} {X Y : State × β} {c : Prop} [Decidable c] (h : MemOnly s X.1) (k : MemOnly s Y.1) :
    MemOnly s (if c then X else Y).1 := by
  split <;> assumption

theorem MemOnly.upd {s X : State} (h : MemOnly s X) {fc out irq ldg saf q ef er mem} :
    MemOnly s ⟨X.now, fc, X.regs, X.shadows, X.rdata, out, X.bus, irq, X.cap, ldg, X.area, X.tds, saf, X.asy, mem, X.fe, X.tly, X.heaps,
      X.mmu, X.pats, X.sh, X.looms, X.routes, X.crd, X.gfx, X.glz, X.prs, X.rt, X.tick, X.mesh, X.odm, X.boot, X.pwr, X.jtag, X.rsts, q, ef, er, X.pending⟩ :=
  ⟨h.rd, congrArg (fun u : State => { u with freeCtr := fc, out := out, irq := irq, ldg := ldg, saf := saf, emcyQ := q, errField := ef, errReg := er, mem := mem }) h.rest⟩

theorem State.pmu_only (a b c d : Nat) (h : MemOnly s t) : MemOnly s (t.pmu a b c d) := by
  unfold State.pmu
  repeat' (first
    | with_reducible assumption
    | with_reducible rfl
    | dsimp only
    | with_reducible refine MemOnly.wr ?_ _ _ _ (by decide +kernel)
    | with_reducible refine MemOnly.fl ?_ _ _ _ (by decide +kernel)
    | with_reducible refine MemOnly.ledger ?_ _ _ _ _
    | with_reducible refine MemOnly.emit ?_ _
    | with_reducible refine MemOnly.free ?_ _ _
    | with_reducible refine MemOnly.free1 ?_ _
    | with_reducible apply MemOnly.raise
    | with_reducible apply MemOnly.incident
    | with_reducible apply MemOnly.routeHit
    | with_reducible refine MemOnly.count ?_ _ _ (by decide +kernel)
    | with_reducible refine MemOnly.countN ?_ _ _ _ (by decide +kernel)
    | with_reducible refine MemOnly.foldl _ ?_ (fun _ _ _ => ?_)
    | with_reducible refine MemOnly.foldl1 _ ?_ (fun _ _ _ _ => ?_)
    | with_reducible refine MemOnly.of_eq1 ?_ (by assumption)
    | with_reducible refine MemOnly.of_eq2 ?_ (by assumption)
    | with_reducible apply MemOnly.ite1
    | split
    | with_reducible refine MemOnly.upd ?_)

theorem State.mcLog_only (a b c d e f : Nat) (h : MemOnly s t) : MemOnly s (t.mcLog a b c d e f) := by
  unfold State.mcLog
  repeat' (first
    | with_reducible assumption
    | with_reducible rfl
    | dsimp only
    | with_reducible apply State.pmu_only
    | with_reducible refine MemOnly.wr ?_ _ _ _ (by decide +kernel)
    | with_reducible refine MemOnly.fl ?_ _ _ _ (by decide +kernel)
    | with_reducible refine MemOnly.ledger ?_ _ _ _ _
    | with_reducible refine MemOnly.emit ?_ _
    | with_reducible refine MemOnly.free ?_ _ _
    | with_reducible refine MemOnly.free1 ?_ _
    | with_reducible apply MemOnly.raise
    | with_reducible apply MemOnly.incident
    | with_reducible apply MemOnly.routeHit
    | with_reducible refine MemOnly.count ?_ _ _ (by decide +kernel)
    | with_reducible refine MemOnly.countN ?_ _ _ _ (by decide +kernel)
    | with_reducible refine MemOnly.foldl _ ?_ (fun _ _ _ => ?_)
    | with_reducible refine MemOnly.foldl1 _ ?_ (fun _ _ _ _ => ?_)
    | with_reducible refine MemOnly.of_eq1 ?_ (by assumption)
    | with_reducible refine MemOnly.of_eq2 ?_ (by assumption)
    | with_reducible apply MemOnly.ite1
    | split
    | with_reducible refine MemOnly.upd ?_)

theorem State.poisonUsed_only  (h : MemOnly s t) : MemOnly s (t.poisonUsed ) := by
  unfold State.poisonUsed
  repeat' (first
    | with_reducible assumption
    | with_reducible rfl
    | dsimp only
    | with_reducible apply State.mcLog_only
    | with_reducible apply State.pmu_only
    | with_reducible refine MemOnly.wr ?_ _ _ _ (by decide +kernel)
    | with_reducible refine MemOnly.fl ?_ _ _ _ (by decide +kernel)
    | with_reducible refine MemOnly.ledger ?_ _ _ _ _
    | with_reducible refine MemOnly.emit ?_ _
    | with_reducible refine MemOnly.free ?_ _ _
    | with_reducible refine MemOnly.free1 ?_ _
    | with_reducible apply MemOnly.raise
    | with_reducible apply MemOnly.incident
    | with_reducible apply MemOnly.routeHit
    | with_reducible refine MemOnly.count ?_ _ _ (by decide +kernel)
    | with_reducible refine MemOnly.countN ?_ _ _ _ (by decide +kernel)
    | with_reducible refine MemOnly.foldl _ ?_ (fun _ _ _ => ?_)
    | with_reducible refine MemOnly.foldl1 _ ?_ (fun _ _ _ _ => ?_)
    | with_reducible refine MemOnly.of_eq1 ?_ (by assumption)
    | with_reducible refine MemOnly.of_eq2 ?_ (by assumption)
    | with_reducible apply MemOnly.ite1
    | split
    | with_reducible refine MemOnly.upd ?_)

theorem State.uncorrShared_only  (h : MemOnly s t) : MemOnly s (t.uncorrShared ) := by
  unfold State.uncorrShared
  repeat' (first
    | with_reducible assumption
    | with_reducible rfl
    | dsimp only
    | with_reducible apply State.poisonUsed_only
    | with_reducible apply State.mcLog_only
    | with_reducible apply State.pmu_only
    | with_reducible refine MemOnly.wr ?_ _ _ _ (by decide +kernel)
    | with_reducible refine MemOnly.fl ?_ _ _ _ (by decide +kernel)
    | with_reducible refine MemOnly.ledger ?_ _ _ _ _
    | with_reducible refine MemOnly.emit ?_ _
    | with_reducible refine MemOnly.free ?_ _ _
    | with_reducible refine MemOnly.free1 ?_ _
    | with_reducible apply MemOnly.raise
    | with_reducible apply MemOnly.incident
    | with_reducible apply MemOnly.routeHit
    | with_reducible refine MemOnly.count ?_ _ _ (by decide +kernel)
    | with_reducible refine MemOnly.countN ?_ _ _ _ (by decide +kernel)
    | with_reducible refine MemOnly.foldl _ ?_ (fun _ _ _ => ?_)
    | with_reducible refine MemOnly.foldl1 _ ?_ (fun _ _ _ _ => ?_)
    | with_reducible refine MemOnly.of_eq1 ?_ (by assumption)
    | with_reducible refine MemOnly.of_eq2 ?_ (by assumption)
    | with_reducible apply MemOnly.ite1
    | split
    | with_reducible refine MemOnly.upd ?_)

theorem State.poisonLine_only (a : Nat) (h : MemOnly s t) : MemOnly s (t.poisonLine a) := by
  unfold State.poisonLine
  repeat' (first
    | with_reducible assumption
    | with_reducible rfl
    | dsimp only
    | with_reducible apply State.uncorrShared_only
    | with_reducible apply State.poisonUsed_only
    | with_reducible apply State.mcLog_only
    | with_reducible apply State.pmu_only
    | with_reducible refine MemOnly.wr ?_ _ _ _ (by decide +kernel)
    | with_reducible refine MemOnly.fl ?_ _ _ _ (by decide +kernel)
    | with_reducible refine MemOnly.ledger ?_ _ _ _ _
    | with_reducible refine MemOnly.emit ?_ _
    | with_reducible refine MemOnly.free ?_ _ _
    | with_reducible refine MemOnly.free1 ?_ _
    | with_reducible apply MemOnly.raise
    | with_reducible apply MemOnly.incident
    | with_reducible apply MemOnly.routeHit
    | with_reducible refine MemOnly.count ?_ _ _ (by decide +kernel)
    | with_reducible refine MemOnly.countN ?_ _ _ _ (by decide +kernel)
    | with_reducible refine MemOnly.foldl _ ?_ (fun _ _ _ => ?_)
    | with_reducible refine MemOnly.foldl1 _ ?_ (fun _ _ _ _ => ?_)
    | with_reducible refine MemOnly.of_eq1 ?_ (by assumption)
    | with_reducible refine MemOnly.of_eq2 ?_ (by assumption)
    | with_reducible apply MemOnly.ite1
    | split
    | with_reducible refine MemOnly.upd ?_)

theorem State.unpoison_only (a : Nat) (h : MemOnly s t) : MemOnly s (t.unpoison a) := by
  unfold State.unpoison
  repeat' (first
    | with_reducible assumption
    | with_reducible rfl
    | dsimp only
    | with_reducible apply State.poisonLine_only
    | with_reducible apply State.uncorrShared_only
    | with_reducible apply State.poisonUsed_only
    | with_reducible apply State.mcLog_only
    | with_reducible apply State.pmu_only
    | with_reducible refine MemOnly.wr ?_ _ _ _ (by decide +kernel)
    | with_reducible refine MemOnly.fl ?_ _ _ _ (by decide +kernel)
    | with_reducible refine MemOnly.ledger ?_ _ _ _ _
    | with_reducible refine MemOnly.emit ?_ _
    | with_reducible refine MemOnly.free ?_ _ _
    | with_reducible refine MemOnly.free1 ?_ _
    | with_reducible apply MemOnly.raise
    | with_reducible apply MemOnly.incident
    | with_reducible apply MemOnly.routeHit
    | with_reducible refine MemOnly.count ?_ _ _ (by decide +kernel)
    | with_reducible refine MemOnly.countN ?_ _ _ _ (by decide +kernel)
    | with_reducible refine MemOnly.foldl _ ?_ (fun _ _ _ => ?_)
    | with_reducible refine MemOnly.foldl1 _ ?_ (fun _ _ _ _ => ?_)
    | with_reducible refine MemOnly.of_eq1 ?_ (by assumption)
    | with_reducible refine MemOnly.of_eq2 ?_ (by assumption)
    | with_reducible apply MemOnly.ite1
    | split
    | with_reducible refine MemOnly.upd ?_)

theorem State.mcCheck_only (a b : Nat) (c : Bool) (h : MemOnly s t) : MemOnly s (t.mcCheck a b c).1 := by
  unfold State.mcCheck
  repeat' (first
    | with_reducible assumption
    | with_reducible rfl
    | dsimp only
    | with_reducible apply State.unpoison_only
    | with_reducible apply State.poisonLine_only
    | with_reducible apply State.uncorrShared_only
    | with_reducible apply State.poisonUsed_only
    | with_reducible apply State.mcLog_only
    | with_reducible apply State.pmu_only
    | with_reducible refine MemOnly.wr ?_ _ _ _ (by decide +kernel)
    | with_reducible refine MemOnly.fl ?_ _ _ _ (by decide +kernel)
    | with_reducible refine MemOnly.ledger ?_ _ _ _ _
    | with_reducible refine MemOnly.emit ?_ _
    | with_reducible refine MemOnly.free ?_ _ _
    | with_reducible refine MemOnly.free1 ?_ _
    | with_reducible apply MemOnly.raise
    | with_reducible apply MemOnly.incident
    | with_reducible apply MemOnly.routeHit
    | with_reducible refine MemOnly.count ?_ _ _ (by decide +kernel)
    | with_reducible refine MemOnly.countN ?_ _ _ _ (by decide +kernel)
    | with_reducible refine MemOnly.foldl _ ?_ (fun _ _ _ => ?_)
    | with_reducible refine MemOnly.foldl1 _ ?_ (fun _ _ _ _ => ?_)
    | with_reducible refine MemOnly.of_eq1 ?_ (by assumption)
    | with_reducible refine MemOnly.of_eq2 ?_ (by assumption)
    | with_reducible apply MemOnly.ite1
    | split
    | with_reducible refine MemOnly.upd ?_)

theorem State.zeroLine_only (a : Nat) (h : MemOnly s t) : MemOnly s (t.zeroLine a) := by
  unfold State.zeroLine
  repeat' (first
    | with_reducible assumption
    | with_reducible rfl
    | dsimp only
    | with_reducible apply State.mcCheck_only
    | with_reducible apply State.unpoison_only
    | with_reducible apply State.poisonLine_only
    | with_reducible apply State.uncorrShared_only
    | with_reducible apply State.poisonUsed_only
    | with_reducible apply State.mcLog_only
    | with_reducible apply State.pmu_only
    | with_reducible refine MemOnly.wr ?_ _ _ _ (by decide +kernel)
    | with_reducible refine MemOnly.fl ?_ _ _ _ (by decide +kernel)
    | with_reducible refine MemOnly.ledger ?_ _ _ _ _
    | with_reducible refine MemOnly.emit ?_ _
    | with_reducible refine MemOnly.free ?_ _ _
    | with_reducible refine MemOnly.free1 ?_ _
    | with_reducible apply MemOnly.raise
    | with_reducible apply MemOnly.incident
    | with_reducible apply MemOnly.routeHit
    | with_reducible refine MemOnly.count ?_ _ _ (by decide +kernel)
    | with_reducible refine MemOnly.countN ?_ _ _ _ (by decide +kernel)
    | with_reducible refine MemOnly.foldl _ ?_ (fun _ _ _ => ?_)
    | with_reducible refine MemOnly.foldl1 _ ?_ (fun _ _ _ _ => ?_)
    | with_reducible refine MemOnly.of_eq1 ?_ (by assumption)
    | with_reducible refine MemOnly.of_eq2 ?_ (by assumption)
    | with_reducible apply MemOnly.ite1
    | split
    | with_reducible refine MemOnly.upd ?_)

theorem State.sweepAhead_only (a : Nat) (h : MemOnly s t) : MemOnly s (t.sweepAhead a) := by
  unfold State.sweepAhead
  repeat' (first
    | with_reducible assumption
    | with_reducible rfl
    | dsimp only
    | with_reducible apply State.zeroLine_only
    | with_reducible apply State.mcCheck_only
    | with_reducible apply State.unpoison_only
    | with_reducible apply State.poisonLine_only
    | with_reducible apply State.uncorrShared_only
    | with_reducible apply State.poisonUsed_only
    | with_reducible apply State.mcLog_only
    | with_reducible apply State.pmu_only
    | with_reducible refine MemOnly.wr ?_ _ _ _ (by decide +kernel)
    | with_reducible refine MemOnly.fl ?_ _ _ _ (by decide +kernel)
    | with_reducible refine MemOnly.ledger ?_ _ _ _ _
    | with_reducible refine MemOnly.emit ?_ _
    | with_reducible refine MemOnly.free ?_ _ _
    | with_reducible refine MemOnly.free1 ?_ _
    | with_reducible apply MemOnly.raise
    | with_reducible apply MemOnly.incident
    | with_reducible apply MemOnly.routeHit
    | with_reducible refine MemOnly.count ?_ _ _ (by decide +kernel)
    | with_reducible refine MemOnly.countN ?_ _ _ _ (by decide +kernel)
    | with_reducible refine MemOnly.foldl _ ?_ (fun _ _ _ => ?_)
    | with_reducible refine MemOnly.foldl1 _ ?_ (fun _ _ _ _ => ?_)
    | with_reducible refine MemOnly.of_eq1 ?_ (by assumption)
    | with_reducible refine MemOnly.of_eq2 ?_ (by assumption)
    | with_reducible apply MemOnly.ite1
    | split
    | with_reducible refine MemOnly.upd ?_)

theorem State.mcWrite_only (a b : Nat) (c : List Byte) (h : MemOnly s t) : MemOnly s (t.mcWrite a b c).1 := by
  unfold State.mcWrite
  repeat' (first
    | with_reducible assumption
    | with_reducible rfl
    | dsimp only
    | with_reducible apply State.sweepAhead_only
    | with_reducible apply State.zeroLine_only
    | with_reducible apply State.mcCheck_only
    | with_reducible apply State.unpoison_only
    | with_reducible apply State.poisonLine_only
    | with_reducible apply State.uncorrShared_only
    | with_reducible apply State.poisonUsed_only
    | with_reducible apply State.mcLog_only
    | with_reducible apply State.pmu_only
    | with_reducible refine MemOnly.wr ?_ _ _ _ (by decide +kernel)
    | with_reducible refine MemOnly.fl ?_ _ _ _ (by decide +kernel)
    | with_reducible refine MemOnly.ledger ?_ _ _ _ _
    | with_reducible refine MemOnly.emit ?_ _
    | with_reducible refine MemOnly.free ?_ _ _
    | with_reducible refine MemOnly.free1 ?_ _
    | with_reducible apply MemOnly.raise
    | with_reducible apply MemOnly.incident
    | with_reducible apply MemOnly.routeHit
    | with_reducible refine MemOnly.count ?_ _ _ (by decide +kernel)
    | with_reducible refine MemOnly.countN ?_ _ _ _ (by decide +kernel)
    | with_reducible refine MemOnly.foldl _ ?_ (fun _ _ _ => ?_)
    | with_reducible refine MemOnly.foldl1 _ ?_ (fun _ _ _ _ => ?_)
    | with_reducible refine MemOnly.of_eq1 ?_ (by assumption)
    | with_reducible refine MemOnly.of_eq2 ?_ (by assumption)
    | with_reducible apply MemOnly.ite1
    | split
    | with_reducible refine MemOnly.upd ?_)

theorem State.backWrite_only (a b : Nat) (c : List Byte) (h : MemOnly s t) : MemOnly s (t.backWrite a b c).1 := by
  unfold State.backWrite
  repeat' (first
    | with_reducible assumption
    | with_reducible rfl
    | dsimp only
    | with_reducible apply State.mcWrite_only
    | with_reducible apply State.sweepAhead_only
    | with_reducible apply State.zeroLine_only
    | with_reducible apply State.mcCheck_only
    | with_reducible apply State.unpoison_only
    | with_reducible apply State.poisonLine_only
    | with_reducible apply State.uncorrShared_only
    | with_reducible apply State.poisonUsed_only
    | with_reducible apply State.mcLog_only
    | with_reducible apply State.pmu_only
    | with_reducible refine MemOnly.wr ?_ _ _ _ (by decide +kernel)
    | with_reducible refine MemOnly.fl ?_ _ _ _ (by decide +kernel)
    | with_reducible refine MemOnly.ledger ?_ _ _ _ _
    | with_reducible refine MemOnly.emit ?_ _
    | with_reducible refine MemOnly.free ?_ _ _
    | with_reducible refine MemOnly.free1 ?_ _
    | with_reducible apply MemOnly.raise
    | with_reducible apply MemOnly.incident
    | with_reducible apply MemOnly.routeHit
    | with_reducible refine MemOnly.count ?_ _ _ (by decide +kernel)
    | with_reducible refine MemOnly.countN ?_ _ _ _ (by decide +kernel)
    | with_reducible refine MemOnly.foldl _ ?_ (fun _ _ _ => ?_)
    | with_reducible refine MemOnly.foldl1 _ ?_ (fun _ _ _ _ => ?_)
    | with_reducible refine MemOnly.of_eq1 ?_ (by assumption)
    | with_reducible refine MemOnly.of_eq2 ?_ (by assumption)
    | with_reducible apply MemOnly.ite1
    | split
    | with_reducible refine MemOnly.upd ?_)

theorem State.backRead_only (a b : Nat) (h : MemOnly s t) : MemOnly s (t.backRead a b).1 := by
  unfold State.backRead
  repeat' (first
    | with_reducible assumption
    | with_reducible rfl
    | dsimp only
    | with_reducible apply State.backWrite_only
    | with_reducible apply State.mcWrite_only
    | with_reducible apply State.sweepAhead_only
    | with_reducible apply State.zeroLine_only
    | with_reducible apply State.mcCheck_only
    | with_reducible apply State.unpoison_only
    | with_reducible apply State.poisonLine_only
    | with_reducible apply State.uncorrShared_only
    | with_reducible apply State.poisonUsed_only
    | with_reducible apply State.mcLog_only
    | with_reducible apply State.pmu_only
    | with_reducible refine MemOnly.wr ?_ _ _ _ (by decide +kernel)
    | with_reducible refine MemOnly.fl ?_ _ _ _ (by decide +kernel)
    | with_reducible refine MemOnly.ledger ?_ _ _ _ _
    | with_reducible refine MemOnly.emit ?_ _
    | with_reducible refine MemOnly.free ?_ _ _
    | with_reducible refine MemOnly.free1 ?_ _
    | with_reducible apply MemOnly.raise
    | with_reducible apply MemOnly.incident
    | with_reducible apply MemOnly.routeHit
    | with_reducible refine MemOnly.count ?_ _ _ (by decide +kernel)
    | with_reducible refine MemOnly.countN ?_ _ _ _ (by decide +kernel)
    | with_reducible refine MemOnly.foldl _ ?_ (fun _ _ _ => ?_)
    | with_reducible refine MemOnly.foldl1 _ ?_ (fun _ _ _ _ => ?_)
    | with_reducible refine MemOnly.of_eq1 ?_ (by assumption)
    | with_reducible refine MemOnly.of_eq2 ?_ (by assumption)
    | with_reducible apply MemOnly.ite1
    | split
    | with_reducible refine MemOnly.upd ?_)

theorem State.cleanLine_only (a : Nat) (h : MemOnly s t) : MemOnly s (t.cleanLine a) := by
  unfold State.cleanLine
  repeat' (first
    | with_reducible assumption
    | with_reducible rfl
    | dsimp only
    | with_reducible apply State.backRead_only
    | with_reducible apply State.backWrite_only
    | with_reducible apply State.mcWrite_only
    | with_reducible apply State.sweepAhead_only
    | with_reducible apply State.zeroLine_only
    | with_reducible apply State.mcCheck_only
    | with_reducible apply State.unpoison_only
    | with_reducible apply State.poisonLine_only
    | with_reducible apply State.uncorrShared_only
    | with_reducible apply State.poisonUsed_only
    | with_reducible apply State.mcLog_only
    | with_reducible apply State.pmu_only
    | with_reducible refine MemOnly.wr ?_ _ _ _ (by decide +kernel)
    | with_reducible refine MemOnly.fl ?_ _ _ _ (by decide +kernel)
    | with_reducible refine MemOnly.ledger ?_ _ _ _ _
    | with_reducible refine MemOnly.emit ?_ _
    | with_reducible refine MemOnly.free ?_ _ _
    | with_reducible refine MemOnly.free1 ?_ _
    | with_reducible apply MemOnly.raise
    | with_reducible apply MemOnly.incident
    | with_reducible apply MemOnly.routeHit
    | with_reducible refine MemOnly.count ?_ _ _ (by decide +kernel)
    | with_reducible refine MemOnly.countN ?_ _ _ _ (by decide +kernel)
    | with_reducible refine MemOnly.foldl _ ?_ (fun _ _ _ => ?_)
    | with_reducible refine MemOnly.foldl1 _ ?_ (fun _ _ _ _ => ?_)
    | with_reducible refine MemOnly.of_eq1 ?_ (by assumption)
    | with_reducible refine MemOnly.of_eq2 ?_ (by assumption)
    | with_reducible apply MemOnly.ite1
    | split
    | with_reducible refine MemOnly.upd ?_)

theorem State.dropLine_only (a : Nat) (h : MemOnly s t) : MemOnly s (t.dropLine a) := by
  unfold State.dropLine
  repeat' (first
    | with_reducible assumption
    | with_reducible rfl
    | dsimp only
    | with_reducible apply State.cleanLine_only
    | with_reducible apply State.backRead_only
    | with_reducible apply State.backWrite_only
    | with_reducible apply State.mcWrite_only
    | with_reducible apply State.sweepAhead_only
    | with_reducible apply State.zeroLine_only
    | with_reducible apply State.mcCheck_only
    | with_reducible apply State.unpoison_only
    | with_reducible apply State.poisonLine_only
    | with_reducible apply State.uncorrShared_only
    | with_reducible apply State.poisonUsed_only
    | with_reducible apply State.mcLog_only
    | with_reducible apply State.pmu_only
    | with_reducible refine MemOnly.wr ?_ _ _ _ (by decide +kernel)
    | with_reducible refine MemOnly.fl ?_ _ _ _ (by decide +kernel)
    | with_reducible refine MemOnly.ledger ?_ _ _ _ _
    | with_reducible refine MemOnly.emit ?_ _
    | with_reducible refine MemOnly.free ?_ _ _
    | with_reducible refine MemOnly.free1 ?_ _
    | with_reducible apply MemOnly.raise
    | with_reducible apply MemOnly.incident
    | with_reducible apply MemOnly.routeHit
    | with_reducible refine MemOnly.count ?_ _ _ (by decide +kernel)
    | with_reducible refine MemOnly.countN ?_ _ _ _ (by decide +kernel)
    | with_reducible refine MemOnly.foldl _ ?_ (fun _ _ _ => ?_)
    | with_reducible refine MemOnly.foldl1 _ ?_ (fun _ _ _ _ => ?_)
    | with_reducible refine MemOnly.of_eq1 ?_ (by assumption)
    | with_reducible refine MemOnly.of_eq2 ?_ (by assumption)
    | with_reducible apply MemOnly.ite1
    | split
    | with_reducible refine MemOnly.upd ?_)

theorem State.evictLine_only (a : Nat) (h : MemOnly s t) : MemOnly s (t.evictLine a) := by
  unfold State.evictLine
  repeat' (first
    | with_reducible assumption
    | with_reducible rfl
    | dsimp only
    | with_reducible apply State.dropLine_only
    | with_reducible apply State.cleanLine_only
    | with_reducible apply State.backRead_only
    | with_reducible apply State.backWrite_only
    | with_reducible apply State.mcWrite_only
    | with_reducible apply State.sweepAhead_only
    | with_reducible apply State.zeroLine_only
    | with_reducible apply State.mcCheck_only
    | with_reducible apply State.unpoison_only
    | with_reducible apply State.poisonLine_only
    | with_reducible apply State.uncorrShared_only
    | with_reducible apply State.poisonUsed_only
    | with_reducible apply State.mcLog_only
    | with_reducible apply State.pmu_only
    | with_reducible refine MemOnly.wr ?_ _ _ _ (by decide +kernel)
    | with_reducible refine MemOnly.fl ?_ _ _ _ (by decide +kernel)
    | with_reducible refine MemOnly.ledger ?_ _ _ _ _
    | with_reducible refine MemOnly.emit ?_ _
    | with_reducible refine MemOnly.free ?_ _ _
    | with_reducible refine MemOnly.free1 ?_ _
    | with_reducible apply MemOnly.raise
    | with_reducible apply MemOnly.incident
    | with_reducible apply MemOnly.routeHit
    | with_reducible refine MemOnly.count ?_ _ _ (by decide +kernel)
    | with_reducible refine MemOnly.countN ?_ _ _ _ (by decide +kernel)
    | with_reducible refine MemOnly.foldl _ ?_ (fun _ _ _ => ?_)
    | with_reducible refine MemOnly.foldl1 _ ?_ (fun _ _ _ _ => ?_)
    | with_reducible refine MemOnly.of_eq1 ?_ (by assumption)
    | with_reducible refine MemOnly.of_eq2 ?_ (by assumption)
    | with_reducible apply MemOnly.ite1
    | split
    | with_reducible refine MemOnly.upd ?_)

theorem State.allocLine_only (a : Nat) (b : Bool) (c : L2Line) (h : MemOnly s t) : MemOnly s (t.allocLine a b c) := by
  unfold State.allocLine
  repeat' (first
    | with_reducible assumption
    | with_reducible rfl
    | dsimp only
    | with_reducible apply State.evictLine_only
    | with_reducible apply State.dropLine_only
    | with_reducible apply State.cleanLine_only
    | with_reducible apply State.backRead_only
    | with_reducible apply State.backWrite_only
    | with_reducible apply State.mcWrite_only
    | with_reducible apply State.sweepAhead_only
    | with_reducible apply State.zeroLine_only
    | with_reducible apply State.mcCheck_only
    | with_reducible apply State.unpoison_only
    | with_reducible apply State.poisonLine_only
    | with_reducible apply State.uncorrShared_only
    | with_reducible apply State.poisonUsed_only
    | with_reducible apply State.mcLog_only
    | with_reducible apply State.pmu_only
    | with_reducible refine MemOnly.wr ?_ _ _ _ (by decide +kernel)
    | with_reducible refine MemOnly.fl ?_ _ _ _ (by decide +kernel)
    | with_reducible refine MemOnly.ledger ?_ _ _ _ _
    | with_reducible refine MemOnly.emit ?_ _
    | with_reducible refine MemOnly.free ?_ _ _
    | with_reducible refine MemOnly.free1 ?_ _
    | with_reducible apply MemOnly.raise
    | with_reducible apply MemOnly.incident
    | with_reducible apply MemOnly.routeHit
    | with_reducible refine MemOnly.count ?_ _ _ (by decide +kernel)
    | with_reducible refine MemOnly.countN ?_ _ _ _ (by decide +kernel)
    | with_reducible refine MemOnly.foldl _ ?_ (fun _ _ _ => ?_)
    | with_reducible refine MemOnly.foldl1 _ ?_ (fun _ _ _ _ => ?_)
    | with_reducible refine MemOnly.of_eq1 ?_ (by assumption)
    | with_reducible refine MemOnly.of_eq2 ?_ (by assumption)
    | with_reducible apply MemOnly.ite1
    | split
    | with_reducible refine MemOnly.upd ?_)

theorem State.l2Look_only (a : Nat) (h : MemOnly s t) : MemOnly s (t.l2Look a).1 := by
  unfold State.l2Look
  repeat' (first
    | with_reducible assumption
    | with_reducible rfl
    | dsimp only
    | with_reducible apply State.allocLine_only
    | with_reducible apply State.evictLine_only
    | with_reducible apply State.dropLine_only
    | with_reducible apply State.cleanLine_only
    | with_reducible apply State.backRead_only
    | with_reducible apply State.backWrite_only
    | with_reducible apply State.mcWrite_only
    | with_reducible apply State.sweepAhead_only
    | with_reducible apply State.zeroLine_only
    | with_reducible apply State.mcCheck_only
    | with_reducible apply State.unpoison_only
    | with_reducible apply State.poisonLine_only
    | with_reducible apply State.uncorrShared_only
    | with_reducible apply State.poisonUsed_only
    | with_reducible apply State.mcLog_only
    | with_reducible apply State.pmu_only
    | with_reducible refine MemOnly.wr ?_ _ _ _ (by decide +kernel)
    | with_reducible refine MemOnly.fl ?_ _ _ _ (by decide +kernel)
    | with_reducible refine MemOnly.ledger ?_ _ _ _ _
    | with_reducible refine MemOnly.emit ?_ _
    | with_reducible refine MemOnly.free ?_ _ _
    | with_reducible refine MemOnly.free1 ?_ _
    | with_reducible apply MemOnly.raise
    | with_reducible apply MemOnly.incident
    | with_reducible apply MemOnly.routeHit
    | with_reducible refine MemOnly.count ?_ _ _ (by decide +kernel)
    | with_reducible refine MemOnly.countN ?_ _ _ _ (by decide +kernel)
    | with_reducible refine MemOnly.foldl _ ?_ (fun _ _ _ => ?_)
    | with_reducible refine MemOnly.foldl1 _ ?_ (fun _ _ _ _ => ?_)
    | with_reducible refine MemOnly.of_eq1 ?_ (by assumption)
    | with_reducible refine MemOnly.of_eq2 ?_ (by assumption)
    | with_reducible apply MemOnly.ite1
    | split
    | with_reducible refine MemOnly.upd ?_)

theorem State.lineRead_only (a b c : Nat) (d : Bool) (h : MemOnly s t) : MemOnly s (t.lineRead a b c d).1 := by
  unfold State.lineRead
  repeat' (first
    | with_reducible assumption
    | with_reducible rfl
    | dsimp only
    | with_reducible apply State.l2Look_only
    | with_reducible apply State.allocLine_only
    | with_reducible apply State.evictLine_only
    | with_reducible apply State.dropLine_only
    | with_reducible apply State.cleanLine_only
    | with_reducible apply State.backRead_only
    | with_reducible apply State.backWrite_only
    | with_reducible apply State.mcWrite_only
    | with_reducible apply State.sweepAhead_only
    | with_reducible apply State.zeroLine_only
    | with_reducible apply State.mcCheck_only
    | with_reducible apply State.unpoison_only
    | with_reducible apply State.poisonLine_only
    | with_reducible apply State.uncorrShared_only
    | with_reducible apply State.poisonUsed_only
    | with_reducible apply State.mcLog_only
    | with_reducible apply State.pmu_only
    | with_reducible refine MemOnly.wr ?_ _ _ _ (by decide +kernel)
    | with_reducible refine MemOnly.fl ?_ _ _ _ (by decide +kernel)
    | with_reducible refine MemOnly.ledger ?_ _ _ _ _
    | with_reducible refine MemOnly.emit ?_ _
    | with_reducible refine MemOnly.free ?_ _ _
    | with_reducible refine MemOnly.free1 ?_ _
    | with_reducible apply MemOnly.raise
    | with_reducible apply MemOnly.incident
    | with_reducible apply MemOnly.routeHit
    | with_reducible refine MemOnly.count ?_ _ _ (by decide +kernel)
    | with_reducible refine MemOnly.countN ?_ _ _ _ (by decide +kernel)
    | with_reducible refine MemOnly.foldl _ ?_ (fun _ _ _ => ?_)
    | with_reducible refine MemOnly.foldl1 _ ?_ (fun _ _ _ _ => ?_)
    | with_reducible refine MemOnly.of_eq1 ?_ (by assumption)
    | with_reducible refine MemOnly.of_eq2 ?_ (by assumption)
    | with_reducible apply MemOnly.ite1
    | split
    | with_reducible refine MemOnly.upd ?_)

theorem State.lineWrite_only (a b : Nat) (c : Bool) (d : List Byte) (h : MemOnly s t) : MemOnly s (t.lineWrite a b c d).1 := by
  unfold State.lineWrite
  repeat' (first
    | with_reducible assumption
    | with_reducible rfl
    | dsimp only
    | with_reducible apply State.lineRead_only
    | with_reducible apply State.l2Look_only
    | with_reducible apply State.allocLine_only
    | with_reducible apply State.evictLine_only
    | with_reducible apply State.dropLine_only
    | with_reducible apply State.cleanLine_only
    | with_reducible apply State.backRead_only
    | with_reducible apply State.backWrite_only
    | with_reducible apply State.mcWrite_only
    | with_reducible apply State.sweepAhead_only
    | with_reducible apply State.zeroLine_only
    | with_reducible apply State.mcCheck_only
    | with_reducible apply State.unpoison_only
    | with_reducible apply State.poisonLine_only
    | with_reducible apply State.uncorrShared_only
    | with_reducible apply State.poisonUsed_only
    | with_reducible apply State.mcLog_only
    | with_reducible apply State.pmu_only
    | with_reducible refine MemOnly.wr ?_ _ _ _ (by decide +kernel)
    | with_reducible refine MemOnly.fl ?_ _ _ _ (by decide +kernel)
    | with_reducible refine MemOnly.ledger ?_ _ _ _ _
    | with_reducible refine MemOnly.emit ?_ _
    | with_reducible refine MemOnly.free ?_ _ _
    | with_reducible refine MemOnly.free1 ?_ _
    | with_reducible apply MemOnly.raise
    | with_reducible apply MemOnly.incident
    | with_reducible apply MemOnly.routeHit
    | with_reducible refine MemOnly.count ?_ _ _ (by decide +kernel)
    | with_reducible refine MemOnly.countN ?_ _ _ _ (by decide +kernel)
    | with_reducible refine MemOnly.foldl _ ?_ (fun _ _ _ => ?_)
    | with_reducible refine MemOnly.foldl1 _ ?_ (fun _ _ _ _ => ?_)
    | with_reducible refine MemOnly.of_eq1 ?_ (by assumption)
    | with_reducible refine MemOnly.of_eq2 ?_ (by assumption)
    | with_reducible apply MemOnly.ite1
    | split
    | with_reducible refine MemOnly.upd ?_)

theorem State.reqErr_only (a : Nat) (h : MemOnly s t) : MemOnly s (t.reqErr a) := by
  unfold State.reqErr
  repeat' (first
    | with_reducible assumption
    | with_reducible rfl
    | dsimp only
    | with_reducible apply State.lineWrite_only
    | with_reducible apply State.lineRead_only
    | with_reducible apply State.l2Look_only
    | with_reducible apply State.allocLine_only
    | with_reducible apply State.evictLine_only
    | with_reducible apply State.dropLine_only
    | with_reducible apply State.cleanLine_only
    | with_reducible apply State.backRead_only
    | with_reducible apply State.backWrite_only
    | with_reducible apply State.mcWrite_only
    | with_reducible apply State.sweepAhead_only
    | with_reducible apply State.zeroLine_only
    | with_reducible apply State.mcCheck_only
    | with_reducible apply State.unpoison_only
    | with_reducible apply State.poisonLine_only
    | with_reducible apply State.uncorrShared_only
    | with_reducible apply State.poisonUsed_only
    | with_reducible apply State.mcLog_only
    | with_reducible apply State.pmu_only
    | with_reducible refine MemOnly.wr ?_ _ _ _ (by decide +kernel)
    | with_reducible refine MemOnly.fl ?_ _ _ _ (by decide +kernel)
    | with_reducible refine MemOnly.ledger ?_ _ _ _ _
    | with_reducible refine MemOnly.emit ?_ _
    | with_reducible refine MemOnly.free ?_ _ _
    | with_reducible refine MemOnly.free1 ?_ _
    | with_reducible apply MemOnly.raise
    | with_reducible apply MemOnly.incident
    | with_reducible apply MemOnly.routeHit
    | with_reducible refine MemOnly.count ?_ _ _ (by decide +kernel)
    | with_reducible refine MemOnly.countN ?_ _ _ _ (by decide +kernel)
    | with_reducible refine MemOnly.foldl _ ?_ (fun _ _ _ => ?_)
    | with_reducible refine MemOnly.foldl1 _ ?_ (fun _ _ _ _ => ?_)
    | with_reducible refine MemOnly.of_eq1 ?_ (by assumption)
    | with_reducible refine MemOnly.of_eq2 ?_ (by assumption)
    | with_reducible apply MemOnly.ite1
    | split
    | with_reducible refine MemOnly.upd ?_)

theorem State.pxlReq_only (a b : Nat) (c : List Nat) (h : MemOnly s t) : MemOnly s (t.pxlReq a b c).1 := by
  unfold State.pxlReq
  repeat' (first
    | with_reducible assumption
    | with_reducible rfl
    | dsimp only
    | with_reducible apply State.reqErr_only
    | with_reducible apply State.lineWrite_only
    | with_reducible apply State.lineRead_only
    | with_reducible apply State.l2Look_only
    | with_reducible apply State.allocLine_only
    | with_reducible apply State.evictLine_only
    | with_reducible apply State.dropLine_only
    | with_reducible apply State.cleanLine_only
    | with_reducible apply State.backRead_only
    | with_reducible apply State.backWrite_only
    | with_reducible apply State.mcWrite_only
    | with_reducible apply State.sweepAhead_only
    | with_reducible apply State.zeroLine_only
    | with_reducible apply State.mcCheck_only
    | with_reducible apply State.unpoison_only
    | with_reducible apply State.poisonLine_only
    | with_reducible apply State.uncorrShared_only
    | with_reducible apply State.poisonUsed_only
    | with_reducible apply State.mcLog_only
    | with_reducible apply State.pmu_only
    | with_reducible refine MemOnly.wr ?_ _ _ _ (by decide +kernel)
    | with_reducible refine MemOnly.fl ?_ _ _ _ (by decide +kernel)
    | with_reducible refine MemOnly.ledger ?_ _ _ _ _
    | with_reducible refine MemOnly.emit ?_ _
    | with_reducible refine MemOnly.free ?_ _ _
    | with_reducible refine MemOnly.free1 ?_ _
    | with_reducible apply MemOnly.raise
    | with_reducible apply MemOnly.incident
    | with_reducible apply MemOnly.routeHit
    | with_reducible refine MemOnly.count ?_ _ _ (by decide +kernel)
    | with_reducible refine MemOnly.countN ?_ _ _ _ (by decide +kernel)
    | with_reducible refine MemOnly.foldl _ ?_ (fun _ _ _ => ?_)
    | with_reducible refine MemOnly.foldl1 _ ?_ (fun _ _ _ _ => ?_)
    | with_reducible refine MemOnly.of_eq1 ?_ (by assumption)
    | with_reducible refine MemOnly.of_eq2 ?_ (by assumption)
    | with_reducible apply MemOnly.ite1
    | split
    | with_reducible refine MemOnly.upd ?_)

theorem State.physRead_only (a b c : Nat) (d : Bool) (h : MemOnly s t) : MemOnly s (t.physRead a b c d).1 := by
  unfold State.physRead
  repeat' (first
    | with_reducible assumption
    | with_reducible rfl
    | dsimp only
    | with_reducible apply State.pxlReq_only
    | with_reducible apply State.reqErr_only
    | with_reducible apply State.lineWrite_only
    | with_reducible apply State.lineRead_only
    | with_reducible apply State.l2Look_only
    | with_reducible apply State.allocLine_only
    | with_reducible apply State.evictLine_only
    | with_reducible apply State.dropLine_only
    | with_reducible apply State.cleanLine_only
    | with_reducible apply State.backRead_only
    | with_reducible apply State.backWrite_only
    | with_reducible apply State.mcWrite_only
    | with_reducible apply State.sweepAhead_only
    | with_reducible apply State.zeroLine_only
    | with_reducible apply State.mcCheck_only
    | with_reducible apply State.unpoison_only
    | with_reducible apply State.poisonLine_only
    | with_reducible apply State.uncorrShared_only
    | with_reducible apply State.poisonUsed_only
    | with_reducible apply State.mcLog_only
    | with_reducible apply State.pmu_only
    | with_reducible refine MemOnly.wr ?_ _ _ _ (by decide +kernel)
    | with_reducible refine MemOnly.fl ?_ _ _ _ (by decide +kernel)
    | with_reducible refine MemOnly.ledger ?_ _ _ _ _
    | with_reducible refine MemOnly.emit ?_ _
    | with_reducible refine MemOnly.free ?_ _ _
    | with_reducible refine MemOnly.free1 ?_ _
    | with_reducible apply MemOnly.raise
    | with_reducible apply MemOnly.incident
    | with_reducible apply MemOnly.routeHit
    | with_reducible refine MemOnly.count ?_ _ _ (by decide +kernel)
    | with_reducible refine MemOnly.countN ?_ _ _ _ (by decide +kernel)
    | with_reducible refine MemOnly.foldl _ ?_ (fun _ _ _ => ?_)
    | with_reducible refine MemOnly.foldl1 _ ?_ (fun _ _ _ _ => ?_)
    | with_reducible refine MemOnly.of_eq1 ?_ (by assumption)
    | with_reducible refine MemOnly.of_eq2 ?_ (by assumption)
    | with_reducible apply MemOnly.ite1
    | split
    | with_reducible refine MemOnly.upd ?_)

theorem State.physWrite_only (a b : Nat) (c : List Byte) (d : Bool) (h : MemOnly s t) : MemOnly s (t.physWrite a b c d).1 := by
  unfold State.physWrite
  repeat' (first
    | with_reducible assumption
    | with_reducible rfl
    | dsimp only
    | with_reducible apply State.physRead_only
    | with_reducible apply State.pxlReq_only
    | with_reducible apply State.reqErr_only
    | with_reducible apply State.lineWrite_only
    | with_reducible apply State.lineRead_only
    | with_reducible apply State.l2Look_only
    | with_reducible apply State.allocLine_only
    | with_reducible apply State.evictLine_only
    | with_reducible apply State.dropLine_only
    | with_reducible apply State.cleanLine_only
    | with_reducible apply State.backRead_only
    | with_reducible apply State.backWrite_only
    | with_reducible apply State.mcWrite_only
    | with_reducible apply State.sweepAhead_only
    | with_reducible apply State.zeroLine_only
    | with_reducible apply State.mcCheck_only
    | with_reducible apply State.unpoison_only
    | with_reducible apply State.poisonLine_only
    | with_reducible apply State.uncorrShared_only
    | with_reducible apply State.poisonUsed_only
    | with_reducible apply State.mcLog_only
    | with_reducible apply State.pmu_only
    | with_reducible refine MemOnly.wr ?_ _ _ _ (by decide +kernel)
    | with_reducible refine MemOnly.fl ?_ _ _ _ (by decide +kernel)
    | with_reducible refine MemOnly.ledger ?_ _ _ _ _
    | with_reducible refine MemOnly.emit ?_ _
    | with_reducible refine MemOnly.free ?_ _ _
    | with_reducible refine MemOnly.free1 ?_ _
    | with_reducible apply MemOnly.raise
    | with_reducible apply MemOnly.incident
    | with_reducible apply MemOnly.routeHit
    | with_reducible refine MemOnly.count ?_ _ _ (by decide +kernel)
    | with_reducible refine MemOnly.countN ?_ _ _ _ (by decide +kernel)
    | with_reducible refine MemOnly.foldl _ ?_ (fun _ _ _ => ?_)
    | with_reducible refine MemOnly.foldl1 _ ?_ (fun _ _ _ _ => ?_)
    | with_reducible refine MemOnly.of_eq1 ?_ (by assumption)
    | with_reducible refine MemOnly.of_eq2 ?_ (by assumption)
    | with_reducible apply MemOnly.ite1
    | split
    | with_reducible refine MemOnly.upd ?_)

theorem State.trace_only (a b c d : Nat) (h : MemOnly s t) : MemOnly s (t.trace a b c d) := by
  unfold State.trace
  repeat' (first
    | with_reducible assumption
    | with_reducible rfl
    | dsimp only
    | with_reducible apply State.physWrite_only
    | with_reducible apply State.physRead_only
    | with_reducible apply State.pxlReq_only
    | with_reducible apply State.reqErr_only
    | with_reducible apply State.lineWrite_only
    | with_reducible apply State.lineRead_only
    | with_reducible apply State.l2Look_only
    | with_reducible apply State.allocLine_only
    | with_reducible apply State.evictLine_only
    | with_reducible apply State.dropLine_only
    | with_reducible apply State.cleanLine_only
    | with_reducible apply State.backRead_only
    | with_reducible apply State.backWrite_only
    | with_reducible apply State.mcWrite_only
    | with_reducible apply State.sweepAhead_only
    | with_reducible apply State.zeroLine_only
    | with_reducible apply State.mcCheck_only
    | with_reducible apply State.unpoison_only
    | with_reducible apply State.poisonLine_only
    | with_reducible apply State.uncorrShared_only
    | with_reducible apply State.poisonUsed_only
    | with_reducible apply State.mcLog_only
    | with_reducible apply State.pmu_only
    | with_reducible refine MemOnly.wr ?_ _ _ _ (by decide +kernel)
    | with_reducible refine MemOnly.fl ?_ _ _ _ (by decide +kernel)
    | with_reducible refine MemOnly.ledger ?_ _ _ _ _
    | with_reducible refine MemOnly.emit ?_ _
    | with_reducible refine MemOnly.free ?_ _ _
    | with_reducible refine MemOnly.free1 ?_ _
    | with_reducible apply MemOnly.raise
    | with_reducible apply MemOnly.incident
    | with_reducible apply MemOnly.routeHit
    | with_reducible refine MemOnly.count ?_ _ _ (by decide +kernel)
    | with_reducible refine MemOnly.countN ?_ _ _ _ (by decide +kernel)
    | with_reducible refine MemOnly.foldl _ ?_ (fun _ _ _ => ?_)
    | with_reducible refine MemOnly.foldl1 _ ?_ (fun _ _ _ _ => ?_)
    | with_reducible refine MemOnly.of_eq1 ?_ (by assumption)
    | with_reducible refine MemOnly.of_eq2 ?_ (by assumption)
    | with_reducible apply MemOnly.ite1
    | split
    | with_reducible refine MemOnly.upd ?_)

theorem State.sweepRegs_only  (h : MemOnly s t) : MemOnly s (t.sweepRegs ) := by
  unfold State.sweepRegs
  repeat' (first
    | with_reducible assumption
    | with_reducible rfl
    | dsimp only
    | with_reducible apply State.trace_only
    | with_reducible apply State.physWrite_only
    | with_reducible apply State.physRead_only
    | with_reducible apply State.pxlReq_only
    | with_reducible apply State.reqErr_only
    | with_reducible apply State.lineWrite_only
    | with_reducible apply State.lineRead_only
    | with_reducible apply State.l2Look_only
    | with_reducible apply State.allocLine_only
    | with_reducible apply State.evictLine_only
    | with_reducible apply State.dropLine_only
    | with_reducible apply State.cleanLine_only
    | with_reducible apply State.backRead_only
    | with_reducible apply State.backWrite_only
    | with_reducible apply State.mcWrite_only
    | with_reducible apply State.sweepAhead_only
    | with_reducible apply State.zeroLine_only
    | with_reducible apply State.mcCheck_only
    | with_reducible apply State.unpoison_only
    | with_reducible apply State.poisonLine_only
    | with_reducible apply State.uncorrShared_only
    | with_reducible apply State.poisonUsed_only
    | with_reducible apply State.mcLog_only
    | with_reducible apply State.pmu_only
    | with_reducible refine MemOnly.wr ?_ _ _ _ (by decide +kernel)
    | with_reducible refine MemOnly.fl ?_ _ _ _ (by decide +kernel)
    | with_reducible refine MemOnly.ledger ?_ _ _ _ _
    | with_reducible refine MemOnly.emit ?_ _
    | with_reducible refine MemOnly.free ?_ _ _
    | with_reducible refine MemOnly.free1 ?_ _
    | with_reducible apply MemOnly.raise
    | with_reducible apply MemOnly.incident
    | with_reducible apply MemOnly.routeHit
    | with_reducible refine MemOnly.count ?_ _ _ (by decide +kernel)
    | with_reducible refine MemOnly.countN ?_ _ _ _ (by decide +kernel)
    | with_reducible refine MemOnly.foldl _ ?_ (fun _ _ _ => ?_)
    | with_reducible refine MemOnly.foldl1 _ ?_ (fun _ _ _ _ => ?_)
    | with_reducible refine MemOnly.of_eq1 ?_ (by assumption)
    | with_reducible refine MemOnly.of_eq2 ?_ (by assumption)
    | with_reducible apply MemOnly.ite1
    | split
    | with_reducible refine MemOnly.upd ?_)

theorem State.maintLines_only (a : Nat) (p : Nat → L2Line → Bool) (h : MemOnly s t) : MemOnly s (t.maintLines a p) := by
  unfold State.maintLines
  repeat' (first
    | with_reducible assumption
    | with_reducible rfl
    | dsimp only
    | with_reducible apply State.sweepRegs_only
    | with_reducible apply State.trace_only
    | with_reducible apply State.physWrite_only
    | with_reducible apply State.physRead_only
    | with_reducible apply State.pxlReq_only
    | with_reducible apply State.reqErr_only
    | with_reducible apply State.lineWrite_only
    | with_reducible apply State.lineRead_only
    | with_reducible apply State.l2Look_only
    | with_reducible apply State.allocLine_only
    | with_reducible apply State.evictLine_only
    | with_reducible apply State.dropLine_only
    | with_reducible apply State.cleanLine_only
    | with_reducible apply State.backRead_only
    | with_reducible apply State.backWrite_only
    | with_reducible apply State.mcWrite_only
    | with_reducible apply State.sweepAhead_only
    | with_reducible apply State.zeroLine_only
    | with_reducible apply State.mcCheck_only
    | with_reducible apply State.unpoison_only
    | with_reducible apply State.poisonLine_only
    | with_reducible apply State.uncorrShared_only
    | with_reducible apply State.poisonUsed_only
    | with_reducible apply State.mcLog_only
    | with_reducible apply State.pmu_only
    | with_reducible refine MemOnly.wr ?_ _ _ _ (by decide +kernel)
    | with_reducible refine MemOnly.fl ?_ _ _ _ (by decide +kernel)
    | with_reducible refine MemOnly.ledger ?_ _ _ _ _
    | with_reducible refine MemOnly.emit ?_ _
    | with_reducible refine MemOnly.free ?_ _ _
    | with_reducible refine MemOnly.free1 ?_ _
    | with_reducible apply MemOnly.raise
    | with_reducible apply MemOnly.incident
    | with_reducible apply MemOnly.routeHit
    | with_reducible refine MemOnly.count ?_ _ _ (by decide +kernel)
    | with_reducible refine MemOnly.countN ?_ _ _ _ (by decide +kernel)
    | with_reducible refine MemOnly.foldl _ ?_ (fun _ _ _ => ?_)
    | with_reducible refine MemOnly.foldl1 _ ?_ (fun _ _ _ _ => ?_)
    | with_reducible refine MemOnly.of_eq1 ?_ (by assumption)
    | with_reducible refine MemOnly.of_eq2 ?_ (by assumption)
    | with_reducible apply MemOnly.ite1
    | split
    | with_reducible refine MemOnly.upd ?_)

end Sys2Proof.Machine
end

