-- ==== Sys2Proof/Laws/Shader.lean ====
section
/-! SUPPORT. What the issue of a shader instruction comes to, once for every instruction, and what writing a lane's
registers does. -/

namespace Sys2Proof.Machine

/-- An instruction that issues and raises no trap runs its effect. -/
theorem State.issue_run {s : State} {k : OpCode} {g : Nat} {i : Ins} {sc : Bool} {ops : List Opd} {mods : Nat} {lit : Bool} {e0 e : GEnv} {u : State}
    (h : Issues s k g i sc ops mods lit e0 u e) {chk : GEnv → Option Nat} (hc : chk e0 = none) (run : State → GEnv → State) :
    s.issue k g i sc ops mods lit chk run = run u e := by
  obtain ⟨h1, h2, h3, hp, ⟨v, ⟨w, x, h4, h4a, h4b⟩, h5, h6⟩, h7, h8, h9, h10, h11⟩ := h
  unfold State.issue
  simp only [h1, h2, h3, hp, h4, h4a, h4b, h5, h7, h8, h9, hc, Bool.not_true, Bool.and_false, Bool.false_or, Bool.false_eq_true, if_false,
    ne_eq, not_true_eq_false, decide_false]
  unfold State.issued at h6
  simp only [← h6, h10]

/-- An instruction that issues and meets a trap cause traps with it. -/
theorem State.issue_trap {s : State} {k : OpCode} {g : Nat} {i : Ins} {sc : Bool} {ops : List Opd} {mods : Nat} {lit : Bool} {e0 e : GEnv} {u : State}
    (h : Issues s k g i sc ops mods lit e0 u e) {chk : GEnv → Option Nat} {c : Nat} (hc : chk e0 = some c) (run : State → GEnv → State) :
    ∃ v, s.fetches k i e0 v ∧
      s.issue k g i sc ops mods lit chk run = (v.updGrp g (fun x => { x with skipBp := false })).trapFree e0 c := by
  obtain ⟨h1, h2, h3, hp, ⟨v, ⟨w, x, h4, h4a, h4b⟩, h5, h6⟩, h7, h8, h9, h10, h11⟩ := h
  refine ⟨v, ⟨w, x, h4, h4a, h4b⟩, ?_⟩
  unfold State.issue
  simp only [h1, h2, h3, hp, h4, h4a, h4b, h5, h7, h8, h9, hc, Bool.not_true, Bool.and_false, Bool.false_or, Bool.false_eq_true, if_false,
    ne_eq, not_true_eq_false, decide_false]

/-- Vector register `r` of lane `l` after one was written. -/
theorem Grp.rv_wv (x : Grp) {l r l' r' v : Nat} (h : l < 32) (h' : l' < 32) :
    (x.wv l r v).rv l' r' = if l = l' ∧ r = r' then v % 2 ^ 32 else x.rv l' r' := by
  unfold Grp.wv Grp.rv Grp.fill
  simp only [NMap.get?_put]
  by_cases k : l = l' ∧ r = r'
  · rw [if_pos (by omega), if_pos k]; rfl
  · rw [if_neg (by omega), if_neg k]

/-- A lane's result as a vector instruction writes it. -/
def laneStep (w d : Nat) (x : Grp) (r : Nat × Nat × Nat) : Grp := (x.dst w d r.1 r.2.1).fl r.2.2

theorem laneStep_rest (w d : Nat) (x : Grp) (r : Nat × Nat × Nat) (h : d < 0x100) :
    laneStep w d x r = { x with v := (laneStep w d x r).v, status := x.status ||| r.2.2 } := by
  unfold laneStep Grp.dst Grp.fl
  rw [if_pos h]; split <;> rfl

theorem laneStep_rv (w d : Nat) (x : Grp) (r : Nat × Nat × Nat) (h : d < 0x100) (hl : r.1 < 32) {l k : Nat} (h' : l < 32) :
    (laneStep w d x r).rv l k = if r.1 = l ∧ d = k then r.2.1 % 2 ^ 32
      else if r.1 = l ∧ w = 64 ∧ d + 1 = k then bits r.2.1 32 32 else x.rv l k := by
  have e (y : Grp) (f : Nat) : (y.fl f).rv l k = y.rv l k := rfl
  unfold laneStep Grp.dst
  rw [if_pos h, e]
  by_cases w64 : w = 64
  · rw [if_pos w64, Grp.rv_wv _ hl h', Grp.rv_wv _ hl h']
    by_cases a : r.1 = l ∧ d + 1 = k
    · rw [if_pos a, if_neg (by omega), if_pos ⟨a.1, w64, a.2⟩]; rfl
    · rw [if_neg a]
      by_cases b : r.1 = l ∧ d = k
      · rw [if_pos b, if_pos b]
      · rw [if_neg b, if_neg b, if_neg (by omega)]
  · rw [if_neg w64, Grp.rv_wv _ hl h']
    by_cases b : r.1 = l ∧ d = k
    · rw [if_pos b, if_pos b]
    · rw [if_neg b, if_neg b, if_neg (by omega)]

/-- Writing the results of lanes, none named twice: every lane's registers and flags. -/
theorem laneFold (w d : Nat) (h : d < 0x100) (f : Nat → Nat × Nat) : ∀ (ls : List Nat) (x : Grp), ls.Nodup → (∀ l ∈ ls, l < 32) →
    let y := (ls.map (fun l => (l, f l))).foldl (laneStep w d) x
    (∀ l k, l < 32 → y.rv l k = if l ∈ ls ∧ d = k then (f l).1 % 2 ^ 32
      else if l ∈ ls ∧ w = 64 ∧ d + 1 = k then bits (f l).1 32 32 else x.rv l k) ∧
    y.status = ls.foldl (fun m l => m ||| (f l).2) x.status ∧ y = { x with v := y.v, status := y.status } := by
  intro ls
  induction ls with
  | nil => intro x _ _; simp
  | cons a r ih =>
    intro x hn hl
    have hn' := List.nodup_cons.1 hn
    have ha : a < 32 := hl a (by simp)
    obtain ⟨h1, h2, h3⟩ := ih (laneStep w d x (a, f a)) hn'.2 (fun l k => hl l (by simp [k]))
    have e := laneStep_rest w d x (a, f a) h
    simp only [List.map_cons, List.foldl_cons] at *
    refine ⟨fun l k k' => ?_, ?_, ?_⟩
    · rw [h1 l k k', laneStep_rv w d x (a, f a) h ha k']
      by_cases q : l = a
      · subst q
        simp only [hn'.1, false_and, if_false, true_and, List.mem_cons, true_or]
      · have q' : a ≠ l := fun z => q z.symm
        simp only [List.mem_cons, q, q', false_or, false_and, if_false]
    · rw [h2, e]
    · rw [h3, e]

theorem bitList_nodup (v n : Nat) : (bitList v n).Nodup := List.Pairwise.filter _ List.nodup_range

theorem mem_bitList {v n l : Nat} : l ∈ bitList v n ↔ l < n ∧ bit v l = true := by simp [bitList]

/-- What a vector instruction's results in its active lanes come to. -/
theorem laneWrite_of (x : Grp) (i : Ins) (w : Nat) (hw : w = 32 ∨ w = 64) (hd : i.dst < 0x100) (f : Nat → Nat × Nat) :
    LaneWrite x (((x.lanesOf i).map (fun l => (l, f l))).foldl (laneStep w i.dst) x) i (w / 32) f := by
  obtain ⟨h1, h2, h3⟩ := laneFold w i.dst hd f (x.lanesOf i) x (bitList_nodup _ _) (fun l h => (mem_bitList.1 h).1)
  refine ⟨fun l k hl hk ha => ?_, fun l r hl hr => ?_, h2, h3⟩
  · have m : l ∈ x.lanesOf i := mem_bitList.2 ⟨hl, ha⟩
    rw [h1 l _ hl]
    have : k = 0 ∨ (k = 1 ∧ w = 64) := by omega
    rcases this with rfl | ⟨rfl, q⟩
    · rw [if_pos ⟨m, rfl⟩]; simp [bits]
    · rw [if_neg (by omega), if_pos ⟨m, q, rfl⟩]
  · rw [h1 l r hl]
    rcases hr with hr | hr
    · have m : l ∉ x.lanesOf i := fun m => by simp [(mem_bitList.1 m).2] at hr
      simp [m]
    · rw [if_neg (by omega), if_neg (by omega)]

/-- A legal vector destination is a vector register. -/
theorem dst_lt {s : State} {k : OpCode} {g : Nat} {i : Ins} {ops : List Opd} {n mods : Nat} {lit : Bool} {e0 e : GEnv} {u : State}
    (h : Issues s k g i false (⟨i.dst, .v, n⟩ :: ops) mods lit e0 u e) : i.dst < 0x100 := by
  have z := h.legal
  simp only [List.all_cons, Bool.and_eq_true] at z
  have z := z.1
  unfold Opd.legal at z
  by_cases q : i.dst < 0x100
  · exact q
  · exfalso; rw [if_neg q] at z
    revert z
    repeat' split
    all_goals simp

theorem NTy.regW_cases (t : NTy) : t.regW = 32 ∨ t.regW = 64 := by unfold NTy.regW; split <;> simp

/-- Changing the group in a slot changes that one. -/
theorem GrpOnly.upd {u : State} {g : Nat} {x : Grp} (h : u.sh.grps.get? g = some x) (f : Grp → Grp) : GrpOnly u (u.updGrp g f) g (f x) :=
  ⟨by simp [State.updGrp, h], fun k hk => by simp [State.updGrp, Ne.symm hk], rfl⟩

/-- The group that comes to run stands in its slot. -/
theorem Issues.slot {s : State} {k : OpCode} {g : Nat} {i : Ins} {sc : Bool} {ops : List Opd} {mods : Nat} {lit : Bool} {e0 e : GEnv} {u : State}
    (h : Issues s k g i sc ops mods lit e0 u e) : u.sh.grps.get? g = some e.grp := by
  have z := h.run
  unfold State.genv at z
  split at z
  · cases z
  · rename_i x hx
    split at z
    · cases z
    · simp only [Option.map_eq_some_iff] at z
      obtain ⟨d, _, rfl⟩ := z
      exact hx

/-- A vector instruction that issues writes its lanes' results. -/
theorem State.vecOp_lanes {s : State} {cls : Nat} {g : Nat} {i : Ins} {t : NTy} {srcs : List Opd} {mods : Nat} {e0 e : GEnv} {u : State}
    (h : Issues s ⟨cls, none⟩ g i false (⟨i.dst, .v, t.regW / 32⟩ :: srcs) mods true e0 u e) (f : Grp → Nat → Res) {bad : Bool} (hb : bad = false) :
    ∃ y, GrpOnly u (s.vecOp cls g i t bad srcs mods f) g y ∧ LaneWrite e.grp y i (t.regW / 32) (f e.grp) := by
  subst hb
  refine ⟨_, ?_, laneWrite_of e.grp i t.regW t.regW_cases (dst_lt h) (f e.grp)⟩
  unfold State.vecOp
  rw [State.issue_run h rfl]
  exact GrpOnly.upd h.slot (fun _ => _)

end Sys2Proof.Machine
end

