-- ==== Sys2Proof/Laws/Streams.lean ====
section
/-! SUPPORT. Laws of the fetchers' status and of the start of a teardown (chapters 03 and 04). -/

namespace Sys2Proof.Machine

/-- Only the fetcher's status fields follow the streams. -/
theorem State.feSync_only (s : State) (k : Nat) :
    WriteOnly s (s.feSync k) [(FE_FETCH.READY, k), (FE_FETCH.BLOCKED, k), (FE_STATUS.IDLE, 0)] :=
  (((WriteOnly.refl s _).wr _ _ _ (by simp)).wr _ _ _ (by simp)).wr _ _ _ (by simp)

@[simp] theorem State.rd_feSync (s : State) (k : Nat) {F : Fld} (i : Nat)
    (h : F.fid ≠ FE_FETCH.READY.fid ∧ F.fid ≠ FE_FETCH.BLOCKED.fid ∧ F.fid ≠ FE_STATUS.IDLE.fid) : (s.feSync k).rd F i = s.rd F i :=
  (s.feSync_only k).rd F i (by
    intro p hp e
    simp at hp
    obtain rfl | rfl | rfl := hp
    · exact h.1 (Prod.mk.inj e).1.symm
    · exact h.2.1 (Prod.mk.inj e).1.symm
    · exact h.2.2 (Prod.mk.inj e).1.symm)

@[simp] theorem State.feSync_fe (s : State) (k : Nat) : (s.feSync k).fe = s.fe := by rw [(s.feSync_only k).rest]
@[simp] theorem State.feSync_tds (s : State) (k : Nat) : (s.feSync k).tds = s.tds := by rw [(s.feSync_only k).rest]
@[simp] theorem State.feSync_mem (s : State) (k : Nat) : (s.feSync k).mem = s.mem := by rw [(s.feSync_only k).rest]
@[simp] theorem State.feSync_sh (s : State) (k : Nat) : (s.feSync k).sh = s.sh := by rw [(s.feSync_only k).rest]

/-- The start of a teardown writes the context's STATE and the fetchers' status. -/
theorem State.rd_tdBegin (s : State) (c : Nat) (t : Teardown) {F : Fld} (i : Nat)
    (h : F.fid ≠ FE_FETCH.READY.fid ∧ F.fid ≠ FE_FETCH.BLOCKED.fid ∧ F.fid ≠ FE_STATUS.IDLE.fid) :
    (s.tdBegin c t).rd F i = (s.wr FE_CTX.STATE c 2).rd F i := by
  simp only [State.tdBegin, List.foldl, State.rd_feSync, h, and_self, ne_eq, not_false_eq_true]
  rfl

/-- The teardown that a start records. -/
theorem State.tds_tdBegin (s : State) (c : Nat) (t : Teardown) :
    (s.tdBegin c t).tds.get? c = some { t with step := 1, poison := t.poison ++ s.signalTallies c } := by
  simp only [State.tdBegin, List.foldl, State.feSync_tds, NMap.get?_put, if_true]

end Sys2Proof.Machine
end

