-- ==== Sys2Proof/Tests/Slice0.lean ====
section
/-! SUPPORT. Tests of the model: what is ill formed is refused, no word spells a command, one-step tests whose expected values
come from the spec, and for every statement with hypotheses a state and operands that meet them together. -/

namespace Sys2Proof.Tests

set_option Elab.async false

open Sys2Proof.Machine

/-- Register fields set one after the other. -/
def setRegs (s : State) (l : List (Fld × Nat × Nat)) : State := l.foldl (fun s p => s.wr p.1 p.2.1 p.2.2) s

/-- A device whose bring-up has ended and which is enabled: the capability table holds every class that a window asks for. -/
def up : State :=
  { setRegs State.reset
      (((List.range 10).map (fun k => (RST_BOOT_STEP.STATE, k + 1, 2))) ++ [(RST_BOOT_CTL.ENABLED, 0, 1), (GLB_LINK.UP, 0, 1)])
    with
      cap := { valid := true, gen := 1, ents :=
        [⟨1, false, 48, 2 ^ 48 - 1⟩, ⟨2, false, 48, 2 ^ 48 - 1⟩, ⟨3, false, 12, 2 ^ 12 - 1⟩, ⟨4, false, 4, 15⟩, ⟨5, false, 4, 15⟩,
         ⟨6, false, 2, 3⟩, ⟨7, false, 2, 3⟩, ⟨8, false, 6, 63⟩, ⟨9, false, 4, 15⟩, ⟨0xA, false, 1, 1⟩, ⟨0xB, false, 1, 1⟩, ⟨0xC, false, 1, 1⟩,
         ⟨0x100, false, 0x8000, 0⟩] }
      boot := { por := false, perst := false, latched := true }
      fe := { run := true } }

/-- A device on which context 5 of partition 0 is ACTIVE, with its first 512 GiB of addresses at the same addresses of HBM, and
queue 7 of it ACTIVE with a ring of 16 entries of which 3 wait. -/
def work : State :=
  { setRegs up [(FE_PART.EN, 0, 1), (FE_CTX.STATE, 5, 1), (FE_CTX.EN, 5, 1), (FE_Q.STATE, 7, 1), (FE_Q.EN, 7, 1), (FE_Q.CTX, 7, 5),
      (FE_Q.SLOT, 7, 2), (FE_Q.LOG2_SIZE, 7, 4), (FE_Q.RING_VA, 7, 0x10), (FE_Q.WPTR, 7, 3), (FE_Q.PRIO, 7, 1)] with
    mmu := { tlb := [⟨64, 5, 0, 2 ^ 39, 0, 15⟩] }
    fe := { run := true, strms := [(7, { q := 7, cls := 0, ctx := 5, ready := true, inPass := true, sampled := 3, nextSeq := 1 })] } }

/-- The same with one packet at the head of queue 7, for fetcher `cls`. -/
def withPkt (cls op : Nat) (w : List Nat) : State :=
  let e : Ent := { seq := 1, irq := false, pkts := [{ pid := 0, op := op, w := w, barrier := false, acquire := false }] }
  { work with fe := { run := true, strms := [(7, { q := 7, cls := cls, ctx := 5, nextSeq := 2, nextPid := 1, ents := [e] })] } }

/-- A device with one group of context 5 in the last slot of the shader cores, in a workgroup with local store, scratch and a
trap handler. -/
def shader : State :=
  let kd : KDesc := { vregs := 64, code := 0x20000, trapVa := 0x30000, localBytes := 0x8000, scratchVa := 0x100000, scratchBytes := 0x1000,
                      flags := 8 }
  { work with sh := {
      grps := [(9215, { wg := 1, ctx := 5, gi := 0, lanes := 2 ^ 32 - 1, exec := 2 ^ 32 - 1, pc := 0x20000 })]
      wgs := [(1, { disp := 1, idx := 0, cluster := 47, core := 3, slots := [9215], groups := 1 })]
      disps := [(1, { kind := .compute, ctx := 5, part := 0, prio := 1, sid := 7, pid := 0, gx := 1, gy := 1, gz := 1,
                      clusters := 2 ^ 48 - 1, kd := kd })] } }

/-- The group of `shader`, changed. -/
def shaderWith (f : Grp → Grp) : State := shader.updGrp 9215 f

/-- An instruction whose operands are v0, v4, v8 and v12. -/
def vins : Ins := { dst := 0, src0 := 4, src1 := 8, src2 := 12 }

/-- An instruction whose operands are s0, s4, s8 and s12. -/
def sins : Ins := { dst := 0x100, src0 := 0x104, src1 := 0x108, src2 := 0x10C }

/-- The group `e0` at its next instruction, of `n` bytes. -/
def runsAs (e0 e : GEnv) (n : Nat) : Bool :=
  decide (e.wg = e0.wg ∧ e.disp = e0.disp ∧ e.grp = { e0.grp with
    skipBp := false, pc := e0.grp.pc + n, stepping := if e0.grp.stepping = 1 then 2 else e0.grp.stepping })

/-- The base word of an instruction (R218); OP is 0 where the spec numbers none. -/
def wordOf (k : OpCode) (i : Ins) : Nat :=
  k.op.getD 0 + k.cls * 2 ^ 8 + b2n i.ext * 2 ^ 12 + b2n i.ge * 2 ^ 13 + i.pg * 2 ^ 14 + b2n i.pgn * 2 ^ 17 + i.dst * 2 ^ 18 +
  i.src0 * 2 ^ 27 + i.src1 * 2 ^ 36 + i.src2 * 2 ^ 45 + i.md * 2 ^ 54

/-- The words `w` and `x` stand at the PC of group `g`, in the instruction cache of its cluster. -/
def withWords (s : State) (g w x : Nat) : State :=
  match s.genv g with
  | none => s
  | some e => match s.translate e.grp.ctx e.grp.pc 3 (coreTlb (coreOf g)) with
    | (_, some (pa, _)) =>
      let l : ILine := { cluster := clusterOf g, ctx := e.grp.ctx, key := pa / 128, data := List.replicate (pa % 128) 0 ++ leBytes 8 w ++ leBytes 8 x }
      { s with sh := { s.sh with icache := [l] } }
    | _ => s

/-- The instruction `i` of opcode `k` stands at the PC of group `g`. -/
def withCode (s : State) (k : OpCode) (g : Nat) (i : Ins) : State := withWords s g (wordOf k i) i.x

/-- The conditions of `Issues` but for the instruction in memory, which is put there, computed. -/
def issuesB (s0 : State) (k : OpCode) (g : Nat) (i : Ins) (scalar : Bool) (ops : List Opd) (mods : Nat) (lit : Bool) : Bool :=
  let s := withCode s0 k g i
  (s.genv g).any fun e0 =>
    let r := s.fetch e0
    s.canIssue e0 && !e0.grp.hitWait ops && !s.pipeHeld k g && r.2.any (fun p => opKnown p.1 && k.picks i p.1 p.2) && (r.1.bpHit e0).isNone &&
    !(scalar && i.ge) && ops.all (·.legal scalar e0.disp.kd.vregs i.ext lit) && decide (i.md - (i.md &&& mods) = 0) &&
    ((r.1.issued g i e0.disp.part).genv g).any (fun e => runsAs e0 e (insLen i))

/-- What `issuesB` says. -/
theorem issuesB_spec {s : State} {k : OpCode} {g : Nat} {i : Ins} {scalar : Bool} {ops : List Opd} {mods : Nat} {lit : Bool}
    (h : issuesB s k g i scalar ops mods lit = true) : ∃ e0 u e, Issues (withCode s k g i) k g i scalar ops mods lit e0 u e := by
  obtain ⟨e0, h0, h⟩ := (Option.any_eq_true _ _).1 h
  simp only [Bool.and_eq_true, Bool.not_eq_true', decide_eq_true_eq] at h
  obtain ⟨⟨⟨⟨⟨⟨⟨⟨hc, hw⟩, hp⟩, hf⟩, hb⟩, hg⟩, hl⟩, hm⟩, hr⟩ := h
  obtain ⟨e, h1, he⟩ := (Option.any_eq_true _ _).1 hr
  obtain ⟨q, hq, hk⟩ := (Option.any_eq_true _ _).1 hf
  simp only [Bool.and_eq_true] at hk
  exact ⟨e0, _, e, h0, hc, hw, hp, ⟨_, ⟨q.1, q.2, Prod.ext rfl hq, hk.1, hk.2⟩, Option.isNone_iff_eq_none.1 hb, rfl⟩, hg, hl, hm, h1,
    of_decide_eq_true he⟩

/-- The states at the issue of an instruction of a group: after the fetch, and the group before and after it. -/
def issuedAt (s0 : State) (k : OpCode) (g : Nat) (i : Ins) : Option (State × GEnv × GEnv) :=
  let s := withCode s0 k g i
  (s.genv g).bind fun e0 =>
    let u := (s.fetch e0).1.issued g i e0.disp.part
    (u.genv g).map fun e => (u, e0, e)

/-- The instruction issues, and `p` holds of the state after the fetch and of the group before and after it. -/
def issuesAnd (s : State) (k : OpCode) (g : Nat) (i : Ins) (scalar : Bool) (ops : List Opd) (mods : Nat) (lit : Bool)
    (p : State → GEnv → GEnv → Bool) : Bool :=
  issuesB s k g i scalar ops mods lit && (issuedAt s k g i).any fun r => p r.1 r.2.1 r.2.2

/-- Bytes `n` with these numbers of these lengths at these offsets, and zeros between them. -/
def bytesOf (n : Nat) (l : List (Nat × Nat × Nat)) : List Byte := (l.foldl (fun m p => Memory.write m p.1 (leBytes p.2.1 p.2.2)) ([] : Memory)).read 0 n

/-- A Draft of one output of Loom `n`. -/
def draftBytes (n op : Nat) : List Byte :=
  bytesOf 256 [(0, 1, n), (1, 1, op), (4, 4, 1), (8, 4, 1), (0xC, 4, 1), (0x10, 4, 1), (0x14, 2, 1), (dA + 4, 2, 1), (dW + 4, 2, 256)]

/-! ## Witnesses: the machine as a whole, registers and the host -/

/-- A command waits. -/
theorem witness_StepRunsFront : ({ up with pending := [.claimGo, .lwClr] } : State).pending = .claimGo :: [.lwClr] := rfl

theorem witness_IdleStepAndNoWords : State.reset.pending = [] ∧ up.pending = [] := ⟨rfl, rfl⟩

/-- Reset meets the canonical form and a step from it goes on. -/
theorem witness_StepKeepsCanonicalForm : State.reset.canon ∧ ∃ t, step State.reset = .next t := ⟨by unfold State.canon; decide +kernel, _, rfl⟩

theorem witness_StepKeepsFusesAndRecord : ∃ t, step { up with pending := [.lwClr] } = .next t := ⟨_, rfl⟩

/-- A plain, an RO, a W1C and a Staged field are reached by a write of their word. -/
theorem witness_RegisterWrites :
    up.RegWordAt .rst (RST_CFG.IDLE_US.addrAt 0) 100 ∧ (RST_CFG.IDLE_US, 0) ∈ fieldsAt (RST_CFG.IDLE_US.addrAt 0) ∧
    up.fldThere RST_CFG.IDLE_US 0 = true ∧ RST_CFG.IDLE_US.staged = true ∧ RST_CFG.IDLE_US.acc = .rw ∧
    up.RegWordAt .fe (FE_CTX.PTBR.addrAt 1023) (2 ^ 64 - 1) ∧ (FE_CTX.PTBR, 1023) ∈ fieldsAt (FE_CTX.PTBR.addrAt 1023) ∧
    FE_CTX.PTBR.acc = .rw ∧ up.RegWordAt .glb (GLB_ID.DIE.addrAt 0) 0 ∧ (GLB_ID.DIE, 0) ∈ fieldsAt 0 ∧ GLB_ID.DIE.acc = .ro ∧
    up.RegWordAt .glb (GLB_ACC_ERR.SIZE.addrAt 0) 1 ∧ GLB_ACC_ERR.SIZE.acc = .w1c := by
  refine ⟨?_, ?_, ?_, ?_, ?_, ?_, ?_, ?_, ?_, ?_, ?_, ?_, ?_⟩ <;> first | decide +kernel | (constructor <;> decide +kernel)

/-- A write by a VF, one in OFF, one before bring-up, one of PTBR of a context in use, and one of CFG_STATUS. -/
theorem witness_RegisterWrites_elsewhere :
    (1 ≠ 0 ∧ ¬ (0x300000 ≤ GLB_ID.DIE.addrAt 0 ∧ GLB_ID.DIE.addrAt 0 < 0x300200)) ∧
    ({ up with pwr := { off := true } } : State).pwr.off = true ∧ State.reset.winUp .fe = false ∧
    (Blk.ofAddr (FE_CTX.PTBR.addrAt 1023) = some .fe ∧ FE_CTX.PTBR.addrAt 1023 % 8 = 0 ∧ up.pwr.off = false ∧
      (setRegs up [(FE_CTX.STATE, 1023, 1)]).winUp .fe = true ∧
      (setRegs up [(FE_CTX.STATE, 1023, 1)]).forbidden (FE_CTX.PTBR.addrAt 1023) (2 ^ 64 - 1) 0 = true) ∧
    (Blk.ofAddr 0x300FF8 = some .fe ∧ 0x300FF8 - Blk.fe.base = 0xFF8 ∧ up.winUp .fe = true) := by decide +kernel

/-- No changed shadow; a legal idle time waits in a shadow; an illegal one. -/
theorem witness_CommitDiscardAndClear :
    (up.winUp .rst = true ∧ hasCommit .rst = true ∧ up.changed .rst = []) ∧
    (let s := up.wrSh RST_CFG.IDLE_US 0 10000
     s.changed .rst ≠ [] ∧ commitRules .rst s (s.withKeys (s.blkKeys .rst)) (s.changed .rst) = true) ∧
    (let s := up.wrSh RST_CFG.IDLE_US 0 10001
     s.changed .rst ≠ [] ∧ commitRules .rst s (s.withKeys (s.blkKeys .rst)) (s.changed .rst) = false) ∧
    up.tick.rel = [] ∧
    (up.funcUp 0 = true ∧ up.blkUp .tly = true ∧ alignDown (8191 * 64) 8 / 64 < 8192 ∧ up.vfTally 0 8191 = true) ∧
    (Blk.ofAddr (alignDown (FE_DB_DROP.COUNT.addrAt 0) 8) = some .fe ∧ up.winUp .fe = true ∧
      (FE_DB_DROP.COUNT, 0) ∈ clrTargets (alignDown (FE_DB_DROP.COUNT.addrAt 0) 8) false ∧
      up.fldThere FE_DB_DROP.COUNT 0 = true) := by decide +kernel

/-- A latched word and none; a link to be trained at the lowest and at the highest rate, up and down; VFs at both ends of
their number. -/
theorem witness_HostReads :
    ((8 % 8 = 0) ∧ ({ up with bus := { latch := [(0, latchKey .bar0 8, 7)] } } : State).bus.latch.get? 0 = some (latchKey .bar0 8, 7) ∧
      up.bus.latch.get? 0 = none) ∧
    (up.funcUp 0 = true ∧ up.winUp .glb = true ∧ Space.bar2 ≠ .cfg) ∧ fieldsAt 0xFFE00 = [] ∧
    (up.boot.por = false ∧ up.boot.perst = false ∧ up.boot.hold = false ∧ up.rd RST_BOOT_STEP.STATE 1 ≠ 0 ∧ (1 ≤ 6 ∧ 6 ≤ 6) ∧
      16 ∈ [1, 2, 4, 8, 16] ∧ up.bus.down = false ∧ up.errReg = 0) ∧
    (up.on GLB_LINK.UP = true ∧ up.on RST_BOOT_CTL.ENABLED = true) ∧
    ((setRegs up [(RST_BOOT_CTL.ENABLED, 0, 0)]).on GLB_LINK.UP = true ∧
      (setRegs up [(RST_BOOT_CTL.ENABLED, 0, 0)]).on RST_BOOT_CTL.ENABLED = false) ∧
    (1 ≤ 63 ∧ 63 ≤ 63 ∧ up.rd RST_BOOT_STEP.STATE 1 ≠ 0 ∧
      (setRegs up [(INTC_TGT.EN, 63, 1), (INTC_TGT.VECTOR, 63, 2047)]).on INTC_TGT.EN 63 = true ∧
      (setRegs up [(INTC_TGT.EN, 63, 1), (INTC_TGT.VECTOR, 63, 2047)]).lentTo 2047 = none) ∧
    (let s : State := { up with bus := { vfEn := true, numVfs := 63 } }
     s.bus.vfEn = true ∧ 62 < s.bus.numVfs) := by decide +kernel

/-- A device whose rails stand at level 3 of a plan. -/
def railed : State := setRegs up [(PWR_AVS.LEVEL, 0, 3), (PWR_AVS.LEVEL, 1, 3), (PWR_AVS.V0_3, 0, 0x02EE02EE02EE02EE),
  (PWR_AVS.V0_3, 1, 0x02EE02EE02EE02EE), (ASY_AGE.VMAX, 0, 0x0320032003200320), (ASY_AGE.VMAX, 2, 0x0320032003200320),
  (ASY_AGE.TOP_LEVEL, 0, 7), (ASY_AGE.TOP_LEVEL, 1, 7)]

/-- A control interval with and without an answer of the AVSBus, and one that raises rail 0. -/
theorem witness_PowerControl_intervals :
    (railed.rd RST_BOOT_STEP.STATE 6 = 2 ∧ railed.pwr.off = false ∧ railed.rd PWR_STATUS.STATE ≠ 2 ∧ railed.on DBG_TRACE.TRACE_EN = false) ∧
    ({ railed with pwr := { mute := 9 } } : State).pwr.mute = 9 ∧
    (let s : State := { railed with pwr := { below := 9 } }
     s.pwr.mute = 0 ∧ toSigned 8 105 ≤ 105 ∧ s.pwr.hot = [] ∧ s.errReg = 0 ∧ s.pwr.second = none ∧ 9 ≤ s.pwr.below ∧
     100 * (100 + 100 + 84) < 95 * s.rd PWR_ENVELOPE.WATTS ∧ s.wantsUp 0 (bit 1 0) = true ∧ s.wantsUp 1 (bit 1 1) = false) := by
  decide +kernel

/-- A request of the AVSBus answered, and one that is over its time by nothing. -/
theorem witness_PowerControl_regulators :
    (let s : State := { setRegs railed [(PWR_AVS.PENDING, 1, 1)] with pwr := { raising := [(1, 4, 0)] }, now := 500000 }
     s.on PWR_AVS.PENDING 1 = true ∧ s.pwr.raising.get? 1 = some (4, 0) ∧ s.on DBG_TRACE.TRACE_EN = false ∧ 0 + 500000 ≤ s.now ∧ 0 + 500000 ≥ s.now ∧ 0 + 500000 < ({ s with now := 500001 } : State).now ∧
     s.rd PWR_AVS.NACKS 1 + 1 < 2 ^ PWR_AVS.NACKS.w) := by decide +kernel

/-- Voltages at the ends of the ranges (highest 800 mV, plan 750 mV), clocks, and temperatures. -/
theorem witness_PowerControl_monitors :
    (861 > railed.vmaxOf 1 (railed.levelOf 1) + 60 ∧ railed.pwr.excess.get? 1 = none ∧ railed.on DBG_TRACE.TRACE_EN = false) ∧
    (689 + 60 < railed.plan 0 (railed.levelOf 0) ∧ 689 ≤ railed.vmaxOf 0 (railed.levelOf 0) + 60) ∧
    (railed.plan 0 (railed.levelOf 0) ≤ 690 + 60 ∧ 860 ≤ railed.vmaxOf 0 (railed.levelOf 0) + 60) ∧
    (nominalMv[6]? = some 400 ∧ 20 * 421 > 21 * 400 ∧ ¬ (20 * 420 > 21 * 400 ∨ 20 * 420 < 19 * 400)) ∧
    (50 * 1250 > 51 * 1200 ∧ ¬ (50 * 1224 > 51 * 1200 ∨ 50 * 1224 < 49 * 1200)) ∧ railed.on SAF_INC.OPEN 2 = false ∧
    (toSigned 8 110 ≥ 110 ∧ railed.on SAF_STATUS.THERMAL_CLAMP = false ∧ toSigned 8 99 < 100 ∧ toSigned 8 0x80 < 100 ∧
      100 ≤ toSigned 8 109 ∧ toSigned 8 109 < 110 ∧ toSigned 8 125 ≥ 125 ∧ railed.pwr.monOff = false) := by decide +kernel

/-! ## Witnesses: contexts, queues and packets -/

theorem witness_ContextsStartAndEnd_start :
    (up.winUp .fe = true ∧ up.rd FE_CTX.STATE 1023 = 0 ∧ up.on FE_CTX.EN 1023 = false ∧ work.partOn 0 = true ∧ work.winUp .fe = true ∧
      work.rd FE_CTX.STATE 1023 = 0 ∧ up.partOn 7 = false ∧ up.rd FE_CTX.PART 1023 = 0) ∧
    (work.on FE_CTX.EN 5 = true ∧ 0 = work.rd FE_CTX.PART 5 ∧ work.rd FE_CTX.STATE 5 = 1) ∧
    (let s := setRegs work [(FE_CTX.STATE, 5, 3)]
     s.rd FE_CTX.STATE 5 = 3 ∧ s.on FE_CTX.EN 5 = true ∧ s.winUp .fe = true) ∧
    (let s := setRegs work [(FE_CTX.STATE, 5, 2)]
     s.rd FE_CTX.STATE 5 = 2 ∧ s.on FE_CTX.EN 5 = !false) ∧ work.rd FE_CTX.STATE 1023 ≠ 1 := by decide +kernel

/-- Teardowns at every step, of the driver and of the device. -/
theorem witness_ContextsStartAndEnd_end :
    let s := fun (step : Nat) (d : Bool) => ({ work with tds := [(5, { step := step, driver := d })] } : State)
    (∀ step ∈ [1, 2, 3, 4, 5], ∀ d ∈ [true, false],
      ((s step d).tds.get? 5).map (fun td => (td.step, td.driver, td.poison)) = some (step, d, []) ∧ (s step d).ctxInvBusy 5 = false) ∧
    ({ s 4 true with mmu := { running := some { ticket := 0, scope := 1, ctx := 5 } } } : State).ctxInvBusy 5 = true := by
  decide +kernel

theorem witness_ClaimsAndWays :
    (let s := setRegs up [(FE_CLAIM.PA, 0, 0x7FFFFF), (FE_CLAIM.PAGES, 0, 1)]
     s.winUp .fe = true ∧ s.on FE_CLAIM.BUSY = false ∧ s.claimOk (fun F => s.rd F) = true) ∧
    (let s := setRegs up [(FE_CLAIM.PA, 0, 0x7FFFFF), (FE_CLAIM.PAGES, 0, 2)]
     s.winUp .fe = true ∧ s.claimOk (fun F => s.rd F) = false) ∧
    (setRegs up [(FE_CLAIM.BUSY, 0, 1)]).on FE_CLAIM.BUSY = true ∧
    (let s : State := { up with mem := { ways := [(15, [0, 1])] } }
     (∃ x ∈ s.mem.ways, x.1 = 15) ∧ ∀ x ∈ s.mem.ways, x.1 ≠ 14) := by decide +kernel

theorem witness_QueuesAndDoorbells :
    (let s := setRegs work [(FE_Q.CTX, 2047, 5), (FE_Q.SLOT, 2047, 3)]
     s.winUp .fe = true ∧ s.rd FE_Q.STATE 2047 = 0 ∧ s.on FE_Q.EN 2047 = false ∧ s.ctxActive (s.rd FE_Q.CTX 2047) = true ∧
     s.slotQueue (s.rd FE_Q.CTX 2047) (s.rd FE_Q.SLOT 2047) = none ∧ s.rd FE_Q.PRIO 2047 ≠ 3) ∧
    (let s := setRegs work [(FE_Q.CTX, 2047, 5), (FE_Q.SLOT, 2047, 2)]
     (s.slotQueue (s.rd FE_Q.CTX 2047) (s.rd FE_Q.SLOT 2047)).isSome = true) ∧
    work.rd FE_Q.STATE 7 = 1 ∧ (setRegs work [(FE_Q.STATE, 7, 3)]).rd FE_Q.STATE 7 = 3 ∧
    (let s := setRegs work [(FE_Q.STATE, 7, 2)]
     ∃ st, s.fe.strms.get? 7 = some st ∧ s.rd FE_Q.STATE 7 = 2 ∧ st.ents = [] ∧ st.fault = none) ∧
    (let s : State := { work with fe := { strms := [(7, { q := 7, cls := 0, ctx := 5, fault := some (1, 9) })] } }
     ∃ st, s.fe.strms.get? 7 = some st ∧ st.fault = some (1, 9) ∧ s.ctxActive st.ctx = true ∧ (∀ p ∈ st.pkts, p.st = 2) ∧ (∀ e ∈ st.ents, e.rest = none) ∧
       s.on FE_Q.CPL_EN 7 = false) := by
  refine ⟨?_, ?_, ?_, ?_, ⟨_, rfl, ?_⟩, ⟨_, rfl, ?_⟩⟩ <;> decide +kernel

theorem witness_QueuesAndDoorbells_passes :
    (work.on RST_STATUS.WARM_ACTIVE = false ∧ work.blkUp .fe = true ∧ work.pwr.off = false ∧ work.slotQueue 5 2 = some 7 ∧ 15 < 0x10000 ∧
      15 < work.ringSize 7 ∧ (∃ st, work.fe.strms.get? 7 = some st ∧ st.fault = none ∧ st.inPass = true ∧ st.ready = true) ∧
      work.rt.get? 7 = none ∧ work.slotQueue 5 1 = none ∧ work.rd FE_DB_DROP.COUNT + 1 < 2 ^ 48 - 1) ∧
    (let s : State := { work with fe := { run := true, strms := [(7, { q := 7, cls := 3, ctx := 5, ready := true })] } }
     (∃ st, s.fe.strms.get? 7 = some st ∧ st.ready = true ∧ st.inPass = false ∧ s.rd FE_FETCH.EXTRA_PASS st.cls + 1 < 2 ^ 48 - 1) ∧
     s.fe.run = true ∧ s.rd FE_Q.WPTR 7 ≠ s.rd FE_Q.RPTR 7 ∧ (setRegs s [(FE_Q.RPTR, 7, 3)]).rd FE_Q.RPTR 7 = s.rd FE_Q.WPTR 7) ∧
    (let s := setRegs work [(FE_Q.RPTR, 7, 3)]
     ∃ st, s.fe.strms.get? 7 = some st ∧ st.inPass = true ∧ s.rd FE_Q.RPTR 7 = st.sampled) ∧
    (let s : State := { work with fe := { work.fe with sel := [(0, 7, 0)] } }
     s.fe.sel.get? (8 * 0 + 0) = some (7, 0) ∧ s.rd FE_Q.TSLICE (s.strmQ 7) * 1000 ≤ 10000000 - 0 ∧
     5 - 0 < s.rd FE_Q.TSLICE (s.strmQ 7) * 1000) := by
  refine ⟨⟨?_, ?_, ?_, ?_, ?_, ?_, ⟨_, rfl, ?_⟩, ?_⟩, ⟨⟨_, rfl, ?_⟩, ?_⟩, ⟨_, rfl, ?_⟩, ?_, ?_, ?_⟩ <;> decide +kernel

/-- An indirect entry of which words are still to be read while a packet waits to be dispatched. -/
theorem witness_EntriesAreFetchedAndComplete_reading :
    let st : Strm := { q := 7, cls := 0, ctx := 5, ents := [⟨4, false, [⟨0, 0, [], false, false, false, 0⟩], false, some (0x8000, 3, false)⟩] }
    st.reading.isSome = true ∧ st.nextPkt.isSome = true := by decide +kernel

/-- A ring entry with sequence 1 and one NOP of no payload, in HBM at the ring's first entry; and one with a stale sequence. -/
theorem witness_EntriesAreFetchedAndComplete_fetch :
    let s (q : Nat) : State := { work with mem := { hbm := Memory.write [] 0x10000 (leBytes 8 q ++ leBytes 4 0 ++ leBytes 4 1 ++ leBytes 4 0) } }
    (∀ q ∈ [1, 2], (s q).fe.run = true ∧ (s q).ctxActive 5 = true ∧ (s q).rd FE_Q.STATE 7 = 1 ∧ (s q).rd FE_Q.RPTR 7 ≠ 3 ∧
      bit ((s q).rd RST_STATUS.PART_ACTIVE) ((s q).partOf 5) = false ∧
      ((s q).vread 5 60 ((s q).rd FE_Q.RING_VA 7 * 0x1000 + (s q).rd FE_Q.RPTR 7 * 64) 64).2.map
        (fun e => (field e 0 8, field e 8 4, field e 12 4, ((s q).parsePkts 0 false 13 (wordsOf (e.drop 16) (field e 12 4)) 0).2))
        = some (q, 0, 1, 0)) := by decide +kernel

theorem witness_EntriesAreFetchedAndComplete_complete :
    let s : State := { work with fe := { strms := [(7, { q := 7, cls := 0, ctx := 5, ents := [⟨4, false, [], false, none⟩, ⟨5, false, [⟨0, 0, [], false, false, false, 2⟩], false, none⟩, ⟨6, false, [⟨1, 0, [], false, false, false, 1⟩], false, none⟩] })] } }
    (s.fe.strms.get? 7).bind (fun st => (doneEnts st.ents).getLast?.map (·.seq)) = some 5 ∧ s.on FE_Q.CPL_EN 7 = false ∧
    s.ctxActive 5 = true ∧ s.ctxActive 6 = false ∧ s.on FE_Q.MSI_EN 7 = false ∧ (setRegs s [(FE_Q.MSI_EN, 7, 1)]).on FE_Q.MSI_EN 7 = true := by decide +kernel

/-- The common packets at the head of a queue, on Tallies below, at and above the target and on a poisoned one, and at the end
of the Tally numbers. -/
theorem witness_CommonPackets :
    ((withPkt 0 0 []).canRun 7 0).isSome = true ∧
    (let s := withPkt 0 1 [8191, 5, 0]
     (s.canDefer 7 1).map (fun r => (pw1 r.2.w 1, r.1.ctx)) = some (8191, 5) ∧ s.tallyOk 0 8191 = true ∧ s.tallyOk 0 8192 = false) ∧
    (let s := withPkt 0 2 [9, 100, 0, 0]
     (s.canRun 7 2).map (fun r => pw1 r.2.w 1) = some 9 ∧ s.tallyOk (s.partOf 5) 9 = true ∧ s.poisoned 9 = false ∧ s.tval 9 < 100) ∧
    (let s := setRegs (withPkt 0 2 [9, 100, 0, 0]) [(TLY_SLOT.VALUE, 9, poison), (TLY_SLOT.POISONED, 9, 1)]
     s.poisoned 9 = true) ∧
    (let s : State := { work with now := 1000, fe := { run := true, strms := [(7, { q := 7, cls := 0, ctx := 5, waitPid := some 0, waitEnd := some 1000 })] } }
     ∃ st, s.fe.strms.get? 7 = some st ∧ st.waitPid = some 0 ∧ st.waitEnd = some 1000 ∧ 1000 ≤ s.now ∧ st.fault = none ∧ st.node = none) ∧
    (∀ op ∈ [3, 4], let s := withPkt 0 op [0x8000, 0, 1, 2]
     (s.canDefer 7 op).map (fun r => pw2 r.2.w 1) = some 0x8000 ∧ ((s.startPkt 7 0).vwrite 5 60 0x8000 (leBytes 8 s.now)).2 = true) := by
  refine ⟨?_, ?_, ?_, ?_, ⟨_, rfl, ?_⟩, ?_⟩ <;> decide +kernel

/-- A partition without a heap and with one, a run of it that another context had, none that fits, and a run to be freed. -/
theorem witness_CopyClassPackets :
    let h := fun (s : State) => setRegs s [(FE_CHN.HEAP_BLOCKS, 0, 64), (FE_CHN.HEAP_VA, 0, 2)]
    ((withPkt 3 0x43 [4, 0x8000, 0]).canRun 7 0x43).isSome = true ∧ work.rd FE_CHN.HEAP_BLOCKS 0 = 0 ∧
    ((withPkt 3 0x44 [0x30000, 0]).canRun 7 0x44).isSome = true ∧
    ((h (withPkt 3 0x43 [4, 0x8000, 0])).rd FE_CHN.HEAP_BLOCKS 0 ≠ 0 ∧ heapFit {} (heapMeta 64) 64 4 = some 1 ∧ heapForeign [] 1 4 5 = false ∧
      heapForeign [⟨4, 4, 6, 0⟩] 1 4 5 = true ∧ heapForeign [⟨4, 4, 5, 0⟩, ⟨4, 4, 6, 0⟩] 1 4 5 = false ∧ heapFit {} (heapMeta 64) 64 64 = none ∧ heapFit {} (heapMeta 64) 64 63 = some 1 ∧
      ((h (withPkt 3 0x43 [4, 0x8000, 0])).vwrite 5 60 0x8000 (leBytes 8 0)).2 = true) ∧
    (let s : State := { h (withPkt 3 0x44 [0x30000, 0]) with heaps := [(0, { live := [⟨1, 4, 5, 0⟩] })] }
     (s.canRun 7 0x44).map (fun r => pw2 r.2.w 1) = some 0x30000 ∧
     ((s.heaps.get? 0).getD {}).live.find? (fun r => (s.rd FE_CHN.HEAP_VA 0 + r.blk) * 0x10000 == 0x30000) = some ⟨1, 4, 5, 0⟩ ∧
     s.tval (s.rd FE_CHN.RETIRE_TALLY 0) < s.rd FE_CHN.FREE_SEQ 0 + 1) ∧
    (let s := withPkt 3 0x42 [0x8000, 0, 1, 0, 0x50007, 7, 0]
     (s.canRun 7 0x42).map (fun r => (bits (pw2 r.2.w 1) 0 48, pw2 r.2.w 3, bits (pw1 r.2.w 5) 16 10)) = some (0x8000, 1, 5) ∧
     s.rangeOk 0 0x8000 0x9000 = true ∧ s.tallyOk 0 7 = true) := by decide +kernel

/-- Tallies below, at and above a signal, and a poisoned one. -/
theorem witness_SignalsRaiseOrAreDiscarded :
    let s := setRegs up [(TLY_SLOT.VALUE, 8191, 7)]
    (s.tval 8191 ≠ poison ∧ 7 = s.tval 8191 ∧ 6 < s.tval 8191 ∧ s.tval 8191 < 8 ∧ s.rd TLY_SLOT.REGRESS 8191 + 1 < 2 ^ 48 - 1 ∧
      (∀ w ∈ s.tly.waits, w.tally ≠ 8191) ∧ s.on TLY_EXP.EN 8191 = false ∧ ∀ p < 8, s.rd FE_CHN.HEAP_BLOCKS p = 0) ∧
    (setRegs up [(TLY_SLOT.VALUE, 0, poison)]).tval 0 = poison := by decide +kernel

/-- A word held for its function and none, and a VF whose Tallies are another's. -/
theorem witness_TalliesFromHostAndEngines_host :
    up.blkUp .tly = true ∧ up.pwr.off = false ∧ up.vfTally 0 8191 = true ∧ up.bus.splitLow.get? 0 = none ∧
    (up.setLow 0 (some (8191, 7))).bus.splitLow.get? 0 = some (8191, 7) ∧
    (let s : State := { up with bus := { vfEn := true, numVfs := 63 } }
     s.vfTally 63 8191 = false ∧ s.blkUp .tly = true ∧ s.rd GLB_VF_VIOL.COUNT + 1 < 2 ^ 48 - 1) := by decide +kernel

/-- A context's page of the Tally aperture: a store to SIGNAL of the last Tally and to another word, of 8 bytes and of 4. -/
theorem witness_TalliesFromHostAndEngines_engines :
    (let s : State := { work with mmu := { tlb := [⟨64, 5, 0, 0x80000, 0xFFFFFFF80000, 15⟩] } }
     s.ctxActive 5 = true ∧ inAperture (0xFFFFFFF80000 + 8191 * 64 + 8) = true ∧ bits (0xFFFFFFF80000 + 8191 * 64 + 8) 48 2 = s.dev ∧
     (8191 * 64 + 8) % 64 = 8 ∧ (8191 * 64 + 8) / 64 = 8191 ∧ (∀ acc ∈ [0, 1], (s.translate 5 (8191 * 64 + 8) acc 47).2 =
       some (0xFFFFFFF80000 + 8191 * 64 + 8, 0)) ∧ 8191 * 64 % 64 ≠ 8 ∧ (4 ≠ 8 : Prop)) ∧
    (let s := setRegs up [(TLY_INIT.TALLY, 0, 8191), (TLY_INIT.VALUE, 0, 5), (TLY_POOL.FREE, 0, 16384)]
     s.winUp .tly = true ∧ s.rd TLY_INIT.VALUE ≠ poison ∧ (∀ w ∈ s.tly.waits, w.tally ≠ s.rd TLY_INIT.TALLY) ∧
     s.on TLY_EXP.EN (s.rd TLY_INIT.TALLY) = false ∧ (∀ p < 8, s.rd FE_CHN.HEAP_BLOCKS p = 0) ∧ 0 < s.rd TLY_POOL.FREE ∧
     s.rd TLY_POOL.FREE ≤ 16384) ∧
    (let s := setRegs up [(TLY_EXP.EN, 8191, 1)]
     s.on TLY_EXP.EN 8191 = true ∧ up.rd TLY_EXP_ERR.COUNT + 1 < 2 ^ 48 - 1 ∧ inAperture (s.rd TLY_EXP.PA 8191 * 8) = false ∧
     bits (s.rd TLY_EXP.PA 8191 * 8) 48 2 ≠ 3) ∧
    (let s : State := { up with tly := { waits := [⟨3, 9, .strm 7, true⟩] } }
     (s.tly.waits.filter (fun w => w.tally == 3 && w.polling))[0]? = some ⟨3, 9, .strm 7, true⟩ ∧ s.poisoned 3 = false ∧ s.tval 3 < 9 ∧
     9 ≤ (setRegs s [(TLY_SLOT.VALUE, 3, 9)]).tval 3 ∧ (setRegs s [(TLY_POOL.FREE, 0, 0)]).rd TLY_POOL.FREE = 0) := by decide +kernel

/-- A Pattern of one node and one parameter word in HBM: descriptor at 0x40000, snapshots at 0x50000, parameters at 0x60000, the
node's packet at 0x61000. -/
def patMem : Memory :=
  Memory.write (Memory.write [] 0x40000 (leBytes 4 1 ++ leBytes 4 1 ++ leBytes 8 0x60000 ++ leBytes 8 0x50000 ++ leBytes 4 1))
    0x40040 (leBytes 1 0 ++ leBytes 1 0 ++ leBytes 2 0 ++ leBytes 4 1 ++ leBytes 8 0x61000)

/-- A device with that Pattern in slot 1023, enabled, revision 1, and a LAUNCH packet on queue 7. -/
def patState : State :=
  { setRegs (withPkt 0 5 [1023]) [(FE_PAT.EN, 1023, 1), (FE_PAT.CTX, 1023, 5), (FE_PAT.REV, 1023, 1), (FE_PAT_EDIT.PATTERN, 0, 1023)] with
    mem := { hbm := patMem }
    pats := { slots := [(1023, { revs := [(1, 0x40000)] })] } }

theorem witness_PatternsAreEditedAndRun_edit :
    (up.winUp .fe = true ∧ up.on FE_PAT.EN 0 = false) ∧
    (patState.winUp .fe = true ∧ patState.on FE_PAT.EN 1023 = true ∧ patState.rd FE_PAT.INUSE 1023 ≠ 4 ∧ patState.rd FE_PAT.REV 1023 + 1 < 2 ^ 64) ∧
    (setRegs patState [(FE_PAT.INUSE, 1023, 4)]).rd FE_PAT.INUSE 1023 = 4 ∧
    ((patState.canRun 7 5).map (fun r => bits (pw1 r.2.w 1) 0 10) = some 1023 ∧ patState.rd FE_PAT.CTX 1023 = 5 ∧
      (setRegs patState [(FE_PAT.CTX, 1023, 6)]).rd FE_PAT.CTX 1023 ≠ 5) := by decide +kernel

/-- The checks on the descriptor that a launch reads all hold. -/
theorem witness_PatternsAreEditedAndRun_launch :
    (patState.vread 5 60 0x40000 64).2.any (fun h => decide (1 ≤ field h 0 4 ∧ field h 0 4 ≤ 256 ∧ field h 4 4 ≤ 4096 ∧ field h 8 8 % 4 = 0 ∧
      field h 0x10 8 % 256 = 0 ∧ 1 ≤ field h 0x18 4 ∧ field h 0x18 4 ≤ 64 ∧ field h 0x1C 36 = 0)) = true ∧
    (State.readNodes 5 0x40000 1 1 0 patState).2.1 = true ∧ (State.readNodes 5 0x40000 1 1 0 patState).2.2.map (·.length) = some 1 ∧
    (patState.snapHere 5 0x50000 (1 * snapSize 1)).2 = some true ∧ (patState.snapHere 5 0x50000 (16 * snapSize 1)).2.isSome = true := by
  decide +kernel

/-- A launch with a slot, before and after its snapshot, and one whose node has completed. -/
theorem witness_PatternsAreEditedAndRun_run :
    let nd : PNode := { cls := 0, preds := [], words := 1, va := 0x61000, subst := [] }
    let la : Launch := { pat := 1023, rev := 1, sid := 7, pid := 0, seq := 1, ctx := 5, desc := 0x40000, num := 1, patches := [], tag := 0,
                         nodes := [nd], paramWords := 1, paramVa := 0x60000, snapVa := 0x50000, slots := 1, slot := some 0 }
    let s := fun (l : Launch) => ({ patState with pats := { patState.pats with launches := [(0, l)] } } : State)
    ((s la).pats.launches.get? 0 = some la ∧ ((s la).vread 5 60 0x60000 4).2.isSome = true ∧
      ((s la).vwrite 5 60 0x50000 (leBytes 64 1 ++ leBytes 4 0)).2 = true) ∧
    ((s { la with snapped := true }).fe.strms.get? 7).isSome = true ∧ (nd.preds.all fun k => (s la).nodeDone 0 k) = true ∧
      ((s la).vread 5 60 0x61000 4).2.isSome = true ∧ ((s la).vread 5 60 0x50040 4).2.isSome = true ∧
    (let d : PNode := { nd with st := 2 }
     let t : State := (s { la with snapped := true, nodes := [d] })
     let t : State := { t with fe := { t.fe with strms := t.fe.strms.put (nodeSid 0 0) { q := 7, cls := 0, ctx := 5, node := some (0, 0) } } }
     t.nodeDone 0 0 = true ∧ (t.fe.strms.get? 7).any (fun q => q.node.isNone) = true) := by decide +kernel

/-! ## Witnesses: translation and shader cores -/

/-- The entry `e` of the table at 0x10000 for address 0 at every level. -/
def walkAt (e : Nat) : State := { up with mem := { hbm := Memory.write [] 0x10000 (leBytes 8 e) } }

/-- Entries of every kind that the walk tells apart. -/
theorem witness_TranslationAndInvalidation_walks :
    (up.tableOk 0x10000 = true ∧ up.tableOk 0x7FFFFF000 = true ∧ up.tableOk 0x800000000 = false) ∧
    (∀ e ∈ [0, 1 + 2 ^ 50, 3 + 4, 3 + 0x10, 3 + 0x100 + 4, 3 + 0x40000004, 1 + 0x20000, 1 + 0x800000000],
      ∀ lvl ∈ [0, 1, 2, 3], ((walkAt e).physRead (0x10000 + 8 * bits 0 (12 + 9 * lvl) 9) 8 0 true).2 = (leBytes 8 e, 0)) ∧
    contigOk ((List.range 16).map (fun i => 3 + 0x100 + 4 + 0x20000 + i * 0x1000)) = true ∧
    contigOk ((List.range 16).map (fun i => 3 + 0x100 + 4 + 0x20000 + i * 0x2000)) = false ∧
    (let s : State := { walkAt 3 with mem := { (walkAt 3).mem with poison := [0x10000 / 128] } }
     (s.physRead 0x10000 8 0 true).2.2 ≠ 0) ∧
    (let s : State := { walkAt (3 + 0x104) with mem := { (walkAt (3 + 0x104)).mem with hbm := Memory.write [] 0x10078 (leBytes 8 (3 + 0x104)), poison := [0x10080 / 128] } }
     (s.physRead 0x10078 8 0 true).2 = (leBytes 8 (3 + 0x104), 0) ∧ (s.physRead 0x10080 128 0 true).2.2 ≠ 0) := by decide +kernel

theorem witness_TranslationAndInvalidation_faults :
    work.ctxActive 5 = true ∧ 2 ^ 48 ≤ 2 ^ 64 - 1 ∧ (work.tlbFind 64 5 (2 ^ 39 - 1)).isSome = true ∧
    (work.tlbFill ⟨47, 5, 0, 0x1000, 0, 1⟩).tlbFind 47 5 0xFFF = some ⟨47, 5, 0, 0x1000, 0, 1⟩ ∧
    (let m := Memory.write (Memory.write (Memory.write [] 0x10000 (leBytes 8 (1 + 0x11000))) 0x11000 (leBytes 8 (1 + 0x12000))) 0x12000 (leBytes 8 (3 + 4))
     let s : State := { setRegs up [(FE_CTX.STATE, 5, 1), (FE_CTX.PTBR, 5, 0x10)] with mem := { hbm := m } }
     (∀ k ∈ tlbPath 0 ++ tlbPath 319, s.tlbFind k 5 0 = none) ∧ isRequester 0 = true ∧ isRequester 319 = true ∧
     (s.walk 5 0).1.invHolds 5 0 0x200000 = false ∧ ({ s with mmu := { running := some { ticket := 0, scope := 1, ctx := 5 } } } : State).invHolds 5 0 0x200000 = true ∧
     (s.walk 5 0).2 = .page 0 0x200000 0 1 ∧ bit 1 (permBit 0) = true ∧
     (s.walk 5 0x200000).2 = .fail 0x21 1) := by decide +kernel

theorem witness_TranslationAndInvalidation_writes :
    let i : Inv := { ticket := 1, scope := 1, ctx := 5, tallyEn := true, tally := 8191, value := 9 }
    let run := fun (m a : Nat) => ({ setRegs up [(MMU_INV_ACKMASK.MASK, 0, m), (MMU_INV_ACKED.MASK, 0, a)] with mmu := { running := some i } } : State)
    (up.winUp .mmu = true ∧ up.on MMU_PTE_WR.BUSY = false ∧ (setRegs up [(MMU_PTE_WR.BUSY, 0, 1)]).on MMU_PTE_WR.BUSY = true) ∧
    ({ up with mmu := { pte := some (8, 3) } } : State).mmu.pte = some (8, 3) ∧
    (up.mmu.fifo.length < 16 ∧ up.mmu.nextTicket < 2 ^ 64 ∧ 16 ≤ (List.replicate 16 i).length) ∧
    (let s : State := { work with mmu := { work.mmu with fifo := [i] } }
     s.mmu.running = none ∧ (s.mmu.dev ++ s.mmu.fifo).head? = some i ∧ s.invAuto (s.invMask i) % 2 ^ 64 ≠ s.invMask i % 2 ^ 64) ∧
    ((run (2 ^ 64 - 1) 1).mmu.running = some i ∧ bit ((run (2 ^ 64 - 1) 1).rd MMU_INV_ACKMASK.MASK) 63 = true ∧
      bit ((run (2 ^ 64 - 1) 1).rd MMU_INV_ACKED.MASK) 63 = false ∧
      setBit ((run (2 ^ 64 - 1) 1).rd MMU_INV_ACKED.MASK) 63 true ≠ (run (2 ^ 64 - 1) 1).rd MMU_INV_ACKMASK.MASK ∧
      setBit ((run (2 ^ 63 + 1) 1).rd MMU_INV_ACKED.MASK) 63 true = (run (2 ^ 63 + 1) 1).rd MMU_INV_ACKMASK.MASK) ∧
    ((run 1 0).now < (run 1 0).mmu.since + (setRegs (run 1 0) [(MMU_INV_TIMEOUT.US, 0, 1)]).rd MMU_INV_TIMEOUT.US * 1000 ∧
      ({ run 1 0 with now := 10000000 } : State).mmu.since + (run 1 0).rd MMU_INV_TIMEOUT.US * 1000 ≤ 10000000) := by decide +kernel

/-- A kernel descriptor: one group of 32 lanes and 8 vector registers, with a save area. -/
def kdBytes : List Byte :=
  leBytes 8 0x20000 ++ leBytes 8 0 ++ leBytes 2 32 ++ leBytes 2 1 ++ leBytes 2 1 ++ leBytes 2 8 ++ leBytes 8 0 ++ leBytes 16 0 ++ leBytes 8 0 ++
  leBytes 8 0x80000

/-- A DISPATCH with this grid and mask. -/
def dispatched (op gx mask : Nat) : State :=
  { setRegs (withPkt 0 op [0x40000, 0, if op = 0x10 then gx else 0x48000, if op = 0x10 then 1 else 0, if op = 0x10 then 1 else mask,
      if op = 0x10 then mask else 0, 0]) [(FE_PART.CLUSTERS, 0, 3)] with
    mem := { hbm := Memory.write (Memory.write [] 0x40000 kdBytes) 0x48000 (leBytes 4 gx ++ leBytes 4 1 ++ leBytes 4 1) } }

theorem witness_ComputeWork_dispatches :
    (∀ op ∈ [0x10, 0x11], ((dispatched op 2 1).canRun 7 op).isSome = true) ∧ (4 &&& 3 ≠ 4 ∧ 1 &&& 3 = 1) ∧
    ((dispatched 0x10 2 1).canRun 7 0x10).map (fun r => (pw1 r.2.w 3, pw1 r.2.w 4, pw1 r.2.w 5, pw2 r.2.w 6, r.2.acquire)) = some (2, 1, 1, 1, false) ∧
    ((dispatched 0x11 2 1).canRun 7 0x11).map (fun r => (pw2 r.2.w 3, pw2 r.2.w 5)) = some (0x48000, 1) ∧
    ((dispatched 0x10 2 1).vread 5 0 0x40000 256).2.any (fun b => kdescRsv b && (kdescOf b).okRegs && (kdescOf b).okWg) = true ∧
    ((dispatched 0x11 2 1).vread 5 60 0x48000 12).2.map (fun b => (field b 0 4, field b 4 4, field b 8 4)) = some (2, 1, 1) := by decide +kernel

/-- A dispatch of two workgroups of which one is to be placed; one for which there is no core; and stops. -/
theorem witness_ComputeWork_placement :
    let x : Disp := { kind := .compute, ctx := 5, part := 0, prio := 1, sid := 7, pid := 0, kd := kdescOf (kdBytes ++ leBytes 192 0), gx := 2, gy := 1,
                      gz := 1, clusters := 2 ^ 47, next := 1 }
    let s : State := { setRegs work [(FE_PART.CLUSTERS, 0, 2 ^ 47)] with sh := { disps := [(1, x)] } }
    (s.dispReady 1 = some x ∧ (s.placeCore x x.kd.groups).isSome = true ∧ x.kd.okWg = true) ∧
    (s.placeCore { x with clusters := 0 } x.kd.groups = none) ∧ s.stopCluster 47 = false ∧
    (setRegs s [(FE_BUDGET.EXHAUSTED, 0, 1), (FE_BUDGET.OVERRUN, 0, 1), (FE_PART.EN, 0, 1)]).stopCluster 47 = true := by decide +kernel

/-- A stopped workgroup with a save area. -/
theorem witness_ComputeWork_saves :
    let s := shaderWith (fun x => { x with preempt := true })
    let t : State := s.updWg 1 (fun w => { w with stop := 1 })
    (s.sh.wgs.filter (fun p => p.2.cluster == 47 && s.wgAsked p.1) = s.sh.wgs ∧ (s.sh.grps.map (·.1)).Nodup ∧
      (s.sh.wgs.get? 1).map (fun w => s.wgSavable 1 w) = some false) ∧
    (t.sh.wgs.get? 1).map (fun w => t.wgSavable 1 w) = some true := by decide +kernel

/-- A saved workgroup whose image is sound, and one whose image is not. -/
theorem witness_ComputeWork_restores :
    let d := leBytes 8 1
    let w : Wg := { disp := 1, idx := 0, cluster := 47, core := 3, slots := [], groups := 1 }
    let v := fun crc => ({ disp := 1, idx := 0, cluster := 47, core := 3, groups := [], ended := [], wgs := w, image := [(0x80000, d)], crc := crc,
                           full := true } : SavedWg)
    let s := fun crc => ({ shader with sh := { shader.sh with saved := [v crc] }, mem := { hbm := Memory.write [] 0x80000 d } } : State)
    (∀ crc ∈ [0, crc32c d], (State.readImage 5 47 false [(0x80000, d)] (s crc) []).2 = some d ∧ (s crc).stopCluster 47 = false ∧
      (s crc).fe.held.contains 0 = false ∧ ((s crc).sh.disps.get? 1).any (fun x => (s crc).coreFits x.kd 0 190) = true ∧
      (s crc).on DBG_TRACE.TRACE_EN = false ∧ (s crc).ctxActive 5 = true) ∧ crc32c d ≠ 0 := by decide +kernel

/-- Every command of the CTRL class with the operands it takes. -/
theorem witness_ControlAndTraps_groups :
    let br : Ins := { sins with ext := true, x := 2 ^ 32 - 1 }
    let pr : Ins := { sins with ext := true, src0 := 0x187 }
    (∀ p ∈ ([(0, sins, []), (1, br, []), (2, br, [⟨br.src0, .s, 1⟩]), (3, br, [⟨br.src0, .s, 1⟩]), (4, br, []), (5, br, []),
      (6, pr, [⟨pr.dst, .s, 1⟩, ⟨pr.src0, .p, 1⟩]), (7, br, [⟨br.src0, .s, 1⟩]), (8, sins, [⟨sins.src0, .s, 1⟩]), (9, { pr with ext := false }, [⟨pr.src0, .p, 1⟩]),
      (0xA, br, [⟨br.dst, .s, 2⟩]), (0x10, sins, [⟨sins.src0, .any, 1⟩, ⟨sins.src1, .any, 1⟩]), (0x12, sins, [⟨sins.src0, .s, 2⟩])] :
        List (Nat × Ins × List Opd)),
      issuesB shader (ctrlOp p.1) 9215 p.2.1 true p.2.2 0 false = true) ∧
    issuesAnd (shaderWith fun x => { x with sg := [(8, 32)], gmmaAt := some 0 }) (ctrlOp 0x10) 9215 sins true
      [⟨sins.src0, .any, 1⟩, ⟨sins.src1, .any, 1⟩] 0 false (fun u _ e => u.gmmaBusy e && e.grp.s32 sins sins.src1 == 32) = true ∧
    (∀ x ≤ 5, issuesB shader (ctrlOp 0x11) 9215 { sins with ext := true, x := x } true [⟨0x100, .s, if x = 0 ∨ x = 5 then 2 else 1⟩] 0 false = true) ∧
    issuesAnd shader (ctrlOp 0xB) 9215 sins true [⟨sins.src0, .s, 2⟩] 0 false (fun _ _ e => e.grp.s64 sins sins.src0 % 8 == 0) = true ∧
    issuesAnd (shaderWith fun x => { x with trap := { inHandler := true } }) (ctrlOp 0xD) 9215 sins true [] 0 false (fun _ e0 _ => e0.grp.trap.inHandler) = true ∧
    issuesAnd (shaderWith fun x => { x with preempt := true }) (ctrlOp 0xE) 9215 { sins with ext := true, x := 2 ^ 23 + 64 } true [] 0 false
      (fun _ e0 e => e0.grp.preempt && e.disp.kd.yields && e0.grp.rets.isEmpty) = true := by decide +kernel

/-- A group that fetches and may trap, one that is halted, one whose next word is undefined or another instruction, one whose trap
waits, and a return to an address out of alignment. -/
theorem witness_ControlAndTraps_traps :
    (∀ k ∈ [ctrlOp 1, ctrlOp 0xD, ctrlOp 0x12, ⟨6, some 2⟩, ⟨8, some 0⟩, ⟨5, none⟩, ⟨0, none⟩], ∀ i ∈ [{ sins with ge := true }, { vins with md := 64 }],
      let s := withCode shader k 9215 i
      (s.genv 9215).any (fun e => s.canIssue e && e.grp.rets.isEmpty && !s.pipeHeld k 9215 && (s.fetch e).2.any (fun p => opKnown p.1 && k.picks i p.1 p.2) &&
        ((s.fetch e).1.bpHit e).isNone && !e.grp.trap.inHandler && e.disp.kd.vregs == 64) = true) ∧
    (∀ w ∈ [0x900, 0xF00], let s := withWords shader 9215 w 0
      (s.genv 9215).any (fun e => s.canIssue e && (s.fetch e).2 == some (w, 0) && ((s.fetch e).1.bpHit e).isNone && opKnown w == (w == 0x900)) = true) ∧
    insOf 0x900 0 ≠ sins ∧ opKnown 0 = true ∧ wordBits 0 8 4 ≠ 9 ∧
    ((shaderWith fun x => { x with halted := true }).genv 9215).any (fun e => !shader.canIssue e) = true ∧
    (∀ l ∈ [[], [(0, 1)]], ((shaderWith fun x => { x with trapReq := some (1, 0), rets := l }).genv 9215).any
      (fun e => e.grp.trapReq == some (1, 0) && e.grp.rets == l && !e.grp.trap.inHandler && e.disp.kd.trapVa != 0) = true) ∧
    issuesAnd (shaderWith fun x => { x with sg := [(4, 4)] }) (ctrlOp 0xB) 9215 sins true [⟨sins.src0, .s, 2⟩] 0 false
      (fun _ e _ => e.grp.s64 sins sins.src0 % 8 != 0) = true ∧
    issuesB shader (ctrlOp 0xC) 9215 { sins with src0 := 0x1C1 } true [⟨0x1C1, .inl, 1⟩] 0 false = true := by decide +kernel

/-- The end of a group without and with a pending emission. -/
theorem witness_ControlAndTraps_ends :
    issuesAnd shader (ctrlOp 0xF) 9215 sins true [] 0 false (fun u _ e => decide (e.disp.kind = .compute ∧ u.sh.wgs.get? e.grp.wg = some e.wg ∧ e.wg.arrived = [] ∧
      e.grp.rets = [] ∧ u.gfx.passes = [])) = true ∧
    issuesAnd (shaderWith fun x => { x with rets := [(0, 1)] }) (ctrlOp 0xF) 9215 sins true [] 0 false (fun _ _ e => !e.grp.rets.isEmpty) = true := by decide +kernel

/-- Loads and stores of four bytes, in the local store and of memory, whole and out of alignment. -/
theorem witness_LoadsStoresAndAtomics_accesses :
    let loc : Ins := { vins with md := 9 }
    let glb : Ins := { vins with md := 8 }
    (sizeBytes loc = 4 ∧ memIllegal loc 2 = false ∧ memIllegal loc 1 = false ∧ memIllegal glb 2 = false) ∧
    issuesAnd shader ⟨6, some 0⟩ 9215 loc false (⟨loc.dst, .v, 1⟩ :: addrOpds loc) 0x7F false (fun _ e0 _ => (accTrap e0 loc 4).isNone) = true ∧
    issuesAnd (shaderWith fun x => { x with v := [(32 * 4, 0x8000)] }) ⟨6, some 0⟩ 9215 loc false (⟨loc.dst, .v, 1⟩ :: addrOpds loc) 0x7F false
      (fun _ e0 _ => accTrap e0 loc 4 == some 4) = true ∧
    issuesAnd shader ⟨6, some 0⟩ 9215 glb false (⟨glb.dst, .v, 1⟩ :: addrOpds glb) 0x7F false (fun u e0 e => (accTrap e0 glb 4).isNone &&
      (u.wpLanes e glb 0 4).isNone && (State.loadLanes e glb (e.grp.lanesOf glb) u [] e.grp).2.2) = true ∧
    issuesAnd shader ⟨6, some 1⟩ 9215 loc false (⟨loc.src2, .v, 1⟩ :: addrOpds loc) 0x7F false (fun u e0 e => (accTrap e0 loc 4).isNone &&
      (u.wpLanes e loc 1 4).isNone && decide (u.sh.wgs.get? e.grp.wg = some e.wg)) = true ∧
    (∀ n ∈ [1, 2, 4, 8, 16], let i : Ins := { sins with dst := 0x110, src1 := 0x1C0 + n, md := 8 }
      issuesAnd shader ⟨6, some 2⟩ 9215 i true [⟨i.dst, .s, n⟩, ⟨i.src0, .s, 2⟩] 0x7F false (fun u e0 e => !memIllegal i 2 && bits i.md 0 2 == 0 && ordOf i == 0 &&
        (u.wpHit e 0 [(0, 4 * n)]).isNone && (u.coreRead 5 191 0 (4 * n)).2.2.isSome &&
        decide ((u.coreRead 5 191 0 (4 * n)).1.sh.grps.get? 9215 = some e.grp) && e0.id == 9215) = true) := by decide +kernel

/-- Every atomic in a defined form, in the local store, at memory and on a host page. -/
theorem witness_LoadsStoresAndAtomics_atomics :
    let i := fun (w64 : Bool) (sp : Nat) => ({ vins with md := sp + 8 + (if w64 then 4 else 0) } : Ins)
    (∀ r ∈ atomTable, atomForm (i (!r.2.2.1) 1) r.2.2.1 r.2.2.2) ∧
    (∀ r ∈ atomTable, ∀ sp ∈ [0, 1], let j := i (!r.2.2.1) sp
      issuesAnd shader ⟨7, some r.2.1.code⟩ 9215 j false (atomOpds j r.2.1) 0x4F false (fun u e0 e => (accTrap e0 j (if bit j.md 2 then 8 else 4)).isNone &&
        u.ctxActive e.grp.ctx && (u.wpLanes e j 2 8).isNone && (State.atomLanes e j r.2.1 (if bit j.md 2 then 64 else 32) (e.grp.writers j) u e.grp []).2.2) = true) ∧
    (∃ r ∈ atomTable, r.2.1.host = false) ∧
    (let s : State := { shader with mmu := { tlb := [⟨64, 5, 0, 2 ^ 39, 3 * 2 ^ 48, 15⟩] } }
     issuesAnd s ⟨7, some 6⟩ 9215 (i false 0) false (atomOpds (i false 0) .and) 0x4F false (fun u _ e =>
       (State.atomHost e (i false 0) (e.grp.writers (i false 0)) u).2) = true) ∧
    issuesAnd (shaderWith fun x => { x with v := [(32 * 4, 2)] }) ⟨7, some 0⟩ 9215 (i false 1) false (atomOpds (i false 1) .add) 0x4F false
      (fun _ e0 _ => accTrap e0 (i false 1) 4 == some 3) = true := by
  simp only [atomForm]; decide +kernel

theorem witness_SyncClass :
    let two : State := shader.updWg 1 (fun w => { w with groups := 2 })
    let i : Ins := { sins with src0 := 0x1CF }
    let f : Ins := { sins with ext := true, x := 3 * 2 ^ 32 }
    (∀ s ∈ [shader, two], issuesAnd s ⟨8, some 0⟩ 9215 i true [⟨i.src0, .inl, 1⟩] 0 false (fun u _ e => decide (u.sh.wgs.get? e.grp.wg = some e.wg ∧
      e.grp.wait = .none ∧ e.wg.arrived = [] ∧ i.x = 0)) = true) ∧
    ((shader.sh.wgs.get? 1).map fun w => Wg.barFull { w with arrived := [(15, [0])] } 15) = some true ∧
    ((two.sh.wgs.get? 1).map fun w => Wg.barFull { w with arrived := [(15, [0])] } 15) = some false ∧
    ((∀ x ∈ [3 * 2 ^ 32 + 2 ^ 35, 3 * 2 ^ 32], issuesB shader ⟨8, some 1⟩ 9215 { f with x := x } true [] 0x7F false = true) ∧ ordOk { f with x := 3 * 2 ^ 32 + 2 ^ 35 } = true ∧
      ordOf { f with x := 3 * 2 ^ 32 + 2 ^ 35 } ≠ 0) ∧
    (ordOk f = true ∧ bits f.x 16 16 = 0 ∧ bits f.x 0 32 = 0 ∧ scopeOf f = 3 ∧ ordOf f ≠ 1) ∧
    (∀ t ∈ [0, 8191, 8192], ∀ v ∈ [0, 1], let s := shaderWith fun x => { x with sg := [(4, t), (8, v)] }
      issuesAnd s ⟨8, some 2⟩ 9215 f true [⟨f.dst, .s, 1⟩, ⟨f.src0, .s, 1⟩, ⟨f.src1, .s, 2⟩] 0 false (fun u _ e =>
        u.tallyOk (u.partOf e.grp.ctx) (e.grp.s32 f f.src0) == decide (t < 8192) && !u.poisoned t && e.grp.s64 f f.src1 == v) = true) ∧
    issuesB shader ⟨8, some 3⟩ 9215 f true [⟨f.src0, .s, 1⟩, ⟨f.src1, .s, 2⟩] 0 false = true ∧
    issuesB shader ⟨8, some 4⟩ 9215 f true [⟨f.dst, .s, 2⟩, ⟨f.src0, .s, 1⟩] 0 false = true ∧
    (let s := shaderWith fun x => { x with wait := .tally 0 (some 0) }
     (s.sh.grps.get? 9215).any (fun x => x.wait == .tally 0 (some 0)) = true ∧ 0 ≤ s.now) := by decide +kernel

/-- Every element-wise command issues with every type of its row, in its first and last registers. -/
theorem witness_VectorCommands_elements :
    (∀ p ∈ ([(0, valuTable), (1, valu64Table), (4, sfuTable)] : List (Nat × List ElRow)), ∀ r ∈ p.2, ∀ t ∈ r.2.1,
      issuesB shader ⟨p.1, none⟩ 9215 { vins with dst := 62 } false (⟨62, .v, t.regW / 32⟩ :: elSrcs vins t r.2.2.1) 0x3F true = true) ∧
    (∀ r ∈ addTable, ∀ t ∈ r.2.1, carryForm vins t = false ∧
      issuesB shader ⟨0, none⟩ 9215 vins false (⟨0, .v, t.regW / 32⟩ :: elSrcs vins t 2) 0x3F true = true) ∧
    (∀ t ∈ intTys, carryForm { vins with src2 := 0x187 } t = true ∧
      issuesB shader ⟨0, none⟩ 9215 { vins with src2 := 0x187 } false [⟨0, .v, 1⟩, ⟨0x187, .p, 1⟩, ⟨4, .any, 1⟩, ⟨8, .any, 1⟩] 0x3F true = true) := by
  decide +kernel

/-- All fourteen number types. -/
def allTys : List NTy := [.f64, .f32, .f16, .bf16, .sf84, .sf85, .sf6, .i64, .u64, .i32, .u32, .i8, .u8, .i4]

theorem witness_VectorCommands_others :
    (∀ p ∈ ([(0, [⟨0, .v, 1⟩, ⟨4, .any, 1⟩, ⟨8, .any, 1⟩]), (1, [⟨0, .v, 2⟩, ⟨4, .any, 2⟩, ⟨8, .any, 1⟩]),
        (0, [⟨0, .v, 1⟩, ⟨4, .any, 1⟩, ⟨8, .any, 1⟩, ⟨12, .any, 1⟩]), (0, [⟨0, .v, 1⟩, ⟨4, .any, 1⟩]), (0, [⟨0, .v, 2⟩, ⟨4, .any, 1⟩])] :
        List (Nat × List Opd)),
      issuesB shader ⟨p.1, none⟩ 9215 { vins with md := 0x3F } false p.2 0x3F true = true) ∧
    issuesB shader ⟨0, none⟩ 9215 { vins with src2 := 0x180 } false [⟨0, .v, 1⟩, ⟨0x180, .p, 1⟩, ⟨4, .any, 1⟩, ⟨8, .any, 1⟩] 0x3F true = true ∧
    issuesB shader ⟨0, none⟩ 9215 { vins with dst := 0x17F, src1 := 0x1DF } false [⟨0x17F, .s, 1⟩, ⟨4, .v, 1⟩, ⟨0x1DF, .sc, 1⟩] 0x3F true = true ∧
    issuesB shader ⟨0, none⟩ 9215 { vins with src0 := 0x188, src1 := 0x1DF } false [⟨0, .v, 1⟩, ⟨0x188, .sc, 1⟩, ⟨0x1DF, .sc, 1⟩] 0x3F true = true ∧
    (∀ a ∈ allTys, ∀ b ∈ allTys, cvtOk a b = true → issuesB shader ⟨3, none⟩ 9215 { vins with src0 := 32 } false
      [⟨0, .v, cvtRegs b (cvtElts a b)⟩, ⟨32, .any, cvtRegs a (cvtElts a b)⟩] 0 true = true) ∧ cvtOk .f64 .f32 = true := by decide +kernel

theorem witness_ComparesAndScalars :
    (∀ r ∈ vcmpTable, ∀ t ∈ r.2.1, issuesB shader ⟨2, none⟩ 9215 { vins with dst := 0x187 } false
      [⟨0x187, .p, 1⟩, ⟨4, .any, t.regW / 32⟩, ⟨8, .any, t.regW / 32⟩] 0x3F true = true) ∧
    (∀ t ∈ ([.f64, .f32, .f16] : List NTy), issuesB shader ⟨2, none⟩ 9215 { vins with dst := 0x180 } false
      [⟨0x180, .p, 1⟩, ⟨4, .any, t.regW / 32⟩, ⟨8, .any, 1⟩] 0x3F true = true) ∧
    (∀ r ∈ saluTable, ∀ t ∈ sTys, issuesB shader ⟨5, none⟩ 9215 sins true
      (⟨0x100, .dst, t.regW / 32⟩ :: ([⟨0x104, .any, t.regW / 32⟩, ⟨0x108, .any, r.2.2.1 t⟩] : List Opd).take r.2.1) 0 true = true) ∧
    (∀ t ∈ sTys, issuesB shader ⟨5, none⟩ 9215 sins true [⟨0x100, .dst, 1⟩, ⟨0x104, .any, t.regW / 32⟩, ⟨0x108, .any, t.regW / 32⟩] 0 true = true ∧
      issuesB shader ⟨5, none⟩ 9215 sins true [⟨0x100, .dst, t.regW / 32⟩, ⟨0x104, .any, t.regW / 32⟩, ⟨0x108, .any, t.regW / 32⟩, ⟨0x10C, .any, 1⟩] 0 true = true) ∧
    issuesB shader ⟨5, none⟩ 9215 { sins with dst := 0x187 } true [⟨0x187, .p, 1⟩, ⟨0x104, .s, 1⟩] 0 true = true ∧
    issuesB shader ⟨5, none⟩ 9215 { sins with src0 := 0x187 } true [⟨0x100, .s, 1⟩, ⟨0x187, .p, 1⟩] 0 true = true := by decide +kernel

/-- A product with B at the last place in the local store, one beyond it, one out of alignment, one with a lane off, an overlap. -/
theorem witness_MatrixProducts :
    let i : Ins := { dst := 0, src0 := 16, src1 := 0x100, src2 := 32 }
    let at_ := fun (a x : Nat) => shaderWith fun y => { y with sg := [(0, a)], exec := x }
    (∀ op ∈ [0, 1, 2, 3, 4], ∀ p ∈ [(0x7E00, 2 ^ 32 - 1), (0x7E80, 2 ^ 32 - 1), (64, 2 ^ 32 - 1), (0, 1)],
      issuesAnd (at_ p.1 p.2) ⟨0xB, some op⟩ 9215 i false (gmmaOpds i) 1 false
      (fun _ _ e => e.grp.s32 i i.src1 == p.1 && e.disp.kd.localBytes == 0x8000 && e.grp.active i == p.2 && !bit e.grp.status 8) = true) ∧
    i.x = 0 ∧ bit i.md 0 = false ∧ i.dst + 16 ≤ i.src0 ∧
    issuesB shader ⟨0xB, some 0⟩ 9215 { i with src0 := 8 } false (gmmaOpds { i with src0 := 8 }) 1 false = true ∧ ¬ (8 + 8 ≤ i.dst ∨ i.dst + 16 ≤ 8) := by
  decide +kernel

theorem witness_FormatsRoundTheirOwnValues :
    (fp16.isNaN 0x7BFF = false ∧ fp16.isInf 0x7BFF = false ∧ 0x7BFF < 2 ^ fp16.width) ∧ (0 ≠ sf6.nan ∧ 0 < 2 ^ (1 + sf6.eb + sf6.mb)) ∧
    fp32.isNaN (2 ^ 31) = false := by decide +kernel

/-! ## Witnesses: Looms, rays, graphics, display and Press -/

/-- Partition 0 owns Loom 11, and a Draft stands at 0x40000. -/
def loomState (op : Nat) : State :=
  { setRegs (withPkt 2 0x30 [0x40000, 0, 1]) [(FE_PART.LOOMS, 0, 2 ^ 11)] with mem := { hbm := Memory.write [] 0x40000 (draftBytes 11 op) } }

theorem witness_LoomsAcceptDrafts :
    (∀ a ∈ [0x100, 0x101], let s := shaderWith fun x => { x with sg := [(4, a)], exec := 1 }
      issuesAnd s ⟨0xC, some 0⟩ 9215 sins false [⟨0x104, .any, 2⟩] 0 false (fun _ _ e => ((e.grp.lanesOf sins).map fun l => e.grp.src sins .u64 64 sins.src0 l) == [a]) = true) ∧
    (((loomState 0).canRun 7 0x30).isSome = true ∧ (loomState 0).routes.get? 7 = none) ∧
    (let s : State := { loomState 0 with routes := [(7, { pid := 0, va := 0x40000, left := 1 })] }
     (s.routes.get? 7).isSome = true ∧ s.ctxActive 5 = true ∧ (s.fe.strms.get? 7).any (fun st => !s.strmHeld st) = true ∧
     (s.vread 5 60 0x40000 1).2.map (fun b => field b 0 1 % 16) = some 11 ∧ bit (s.rd FE_PART.LOOMS 0) 11 = true ∧ s.loomRoom 11 false = true ∧
     (s.loomAccept 11 5 0x40000 1 (some (7, 0))).2 = true ∧ (setRegs s [(LOOM_RELEASE.CLEARING, 11, 1)]).loomRoom 11 false = false ∧
     bit ((setRegs s [(FE_PART.LOOMS, 0, 1)]).rd FE_PART.LOOMS 0) 11 = false) ∧
    (let s : State := { loomState 0 with sh := (shaderWith fun x => { x with wait := .loom [0x40000] }).sh }
     (s.genv 9215).any (fun e => e.grp.wait == .loom [0x40000] && s.ctxActive e.grp.ctx && bit (s.rd FE_PART.LOOMS e.disp.part) 11) = true ∧
     s.loomRoom 11 true = true ∧ (s.loomAccept 11 5 0x40000 1 none).2 = true) ∧
    ((loomState 0).loomClaim 11 5).2 = true ∧ (up.loomClaim 11 5).2 = false ∧
    (let d : LDraft := { id := 0, va := 0x40000, ctx := 5, prio := 1, raw := draftBytes 11 0, src := none }
     d.bad = false ∧ d.waitEn = false ∧ d.sigEn = false ∧ LDraft.bad { d with raw := draftBytes 11 5 } = true ∧
     LDraft.sigEn { d with raw := bytesOf 256 [(0x98, 2, 0x9FFF)] } = true) ∧
    (let s := setRegs (loomState 0) [(LOOM_STATUS.OWNED, 11, 1), (LOOM_STATUS.OWNER, 11, 6)]
     s.on FE_PART.LOOM_SHARE (s.partOf 5) = false ∧ s.on LOOM_STATUS.OWNED 11 = true ∧ s.rd LOOM_STATUS.OWNER 11 ≠ 5) := by decide +kernel

/-- Loom 11 with this Draft. -/
def withDraft (d : LDraft) (f : Lm → Lm := fun l => l) : State := { loomState 0 with looms := [(11, f { drafts := [d], nextId := 1 })] }

/-- A Draft of Loom 11 with this OP, with a wait in this state. -/
def opDraft (op w : Nat) : LDraft :=
  let b := bytesOf 256 ([(0, 1, 11), (1, 1, op), (4, 4, 1)] ++ if w = 0 then [] else [(0x88, 2, 0x9FFF), (0x90, 8, 7)])
  { id := 0, va := 0x40000, ctx := 5, prio := 1, src := none, waitSt := w, raw := b }

theorem witness_DraftsRunAndAreChecked_run :
    (∀ op ∈ [0, 1, 2, 3, 4], ∀ w ∈ [0, 1, 2, 3],
      (((withDraft (opDraft op w)).loomWait 11).canStart 11 op).map (fun x => (x.waitEn, x.waitSt)) = some (w != 0, w)) ∧
    ((withDraft (opDraft 0 0)).loomWait 11).canStart 11 1 = none ∧
    (let e : LDraft := { opDraft 0 0 with st := 2 }
     ((withDraft e).loom 11).drafts.find? (fun d => d.st == 2) = some e ∧ (withDraft e).ctxActive e.ctx = true ∧
     ((withDraft e).draftStatus 11 e 0).2 = true ∧ e.statusVa = 0 ∧ e.src = none) := by decide +kernel

theorem witness_DraftsRunAndAreChecked_checks :
    let d := fun (tries : Nat) => ({ id := 0, va := 0x40000, ctx := 5, prio := 1, src := none, raw := draftBytes 11 0, st := 1, tries := tries } : LDraft)
    let s := fun (t : Nat) => setRegs (withDraft (d t)) [(LOOM_CHK_CFG.RETRY_MAX, 11, 1)]
    ((s 0).loomRuns 11 = some (d 0) ∧ (s 0).ctxActive 5 = true ∧ (d 0).tries < (s 0).rd LOOM_CHK_CFG.RETRY_MAX 11 ∧ ((d 0).accInit && (d 0).comp) = false ∧
      (s 0).rd LOOM_CHK_CTR.MISMATCH 11 + 1 < 2 ^ 48 - 1 ∧ (s 0).rd LOOM_CHK_CTR.CHUNKS 11 + 1 < 2 ^ 64 - 1) ∧
    ((d 0).rowIn 0 0 0 = true ∧ (d 0).isInt = false ∧ (d 0).edgeSum ((s 0).loom 11) 0 0 0 = some ⟨0, 0⟩ ∧
      (d 0).laneSum ((s 0).loom 11) false 0 0 0 = some ⟨0, 0⟩ ∧ (d 0).laneSum ((s 0).loom 11) true 0 0 0 = some ⟨0, 0⟩ ∧
      ((s 0).rowVerdict 11 (d 0) 0 0 0 ⟨1, 0⟩).1 = true ∧ ((s 0).rowVerdict 11 (d 0) 0 0 0 ⟨1, -113⟩).1 = false) ∧
    ((d 0).chunkRmws ((s 0).loom 11) false 0 = [(⟨0, -149⟩, ⟨0, 0⟩, ⟨0, -149⟩)].map some ∧ 0 < (d 0).cols (d 0).t ∧
      ((s 0).chunkVerdict 11 (d 0) false 0 ⟨1, 0⟩).1 = true) ∧
    (let a : LDraft := { d 0 with raw := bytesOf 256 [(0, 1, 11), (4, 4, 0x11), (8, 4, 1), (0xC, 4, 1), (0x10, 4, 1), (0x14, 2, 1)], dups := [3] }
     a.accInit = true ∧ a.comp = false ∧ 0 < a.mb a.b ∧ 0 < a.cols a.t ∧ 3 ∈ a.dups ∧ (s 0).ctxActive 5 = true) ∧
    (LDraft.accInit { d 0 with raw := bytesOf 256 [(4, 4, 0x15)] } && LDraft.comp { d 0 with raw := bytesOf 256 [(4, 4, 0x15)] }) = true ∧
    LDraft.isInt { d 0 with raw := bytesOf 256 [(2, 1, 2)] } = true ∧
    ((s 1).loomRuns 11 = some (d 1) ∧ (s 1).rd LOOM_CHK_CFG.RETRY_MAX 11 ≤ (d 1).tries) ∧
    ((d 0).chunks (d 0).b ≤ (d 0).chunk + 1 ∧ (d 0).dest = 0 ∧ (d 0).inc = none ∧ (d 0).T ≤ (d 0).t + 1 ∧ (d 0).blocks ≤ (d 0).b + 1) ∧
    (let w : LDraft := { d 0 with raw := bytesOf 256 [(4, 4, 1), (8, 4, 512), (0xC, 4, 0x1000), (0x10, 4, 257), (0x14, 2, 512)] }
     w.chunk + 1 < w.chunks w.b ∧ w.chunks w.b ≤ { w with chunk := 1 }.chunk + 1 ∧ w.t + 1 < w.T) := by decide +kernel

theorem witness_LoomsReleaseStopAndRestore :
    let d : LDraft := { id := 0, va := 0x40000, ctx := 5, prio := 1, src := none, raw := draftBytes 11 0, st := 1 }
    let v := fun (crc : Nat) => (⟨some d, true, [], [], [], [(0x40000, leBytes 8 1)], crc, 5⟩ : LSave)
    let own := setRegs up [(LOOM_STATUS.OWNED, 11, 1)]
    (own.winUp (.loom 11) = true ∧ own.on LOOM_STATUS.OWNED 11 = true ∧ (own.loom 11).drafts = [] ∧ (own.loom 11).save = none ∧
      own.on LOOM_RELEASE.CLEARING 11 = false ∧ up.on LOOM_STATUS.OWNED 11 = false) ∧
    (up.on DBG_TRACE.TRACE_EN = false ∧ up.rd LOOM_STOP.STATE 11 = 0) ∧
    (let s := setRegs up [(LOOM_STOP.STATE, 11, 1)]
     s.rd LOOM_STOP.STATE 11 = 1 ∧ (s.loom 11).dbg ≠ 2 ∧ (∀ d ∈ (s.loom 11).drafts, d.st = 0) ∧ (s.loom 11).stopAt = false ∧ (s.loom 11).ended = none) ∧
    (let s := setRegs (withDraft d (fun l => { l with stopAt := true })) [(LOOM_STOP.STATE, 11, 1)]
     s.rd LOOM_STOP.STATE 11 = 1 ∧ (s.loom 11).dbg ≠ 2 ∧ (∀ d ∈ (s.loom 11).drafts, d.st ≠ 2) ∧ (s.loom 11).stopAt = true) ∧
    (let s := setRegs (withDraft d) [(LOOM_STOP.STATE, 11, 2)]
     s.rd LOOM_STOP.STATE 11 = 2 ∧ (s.loom 11).streaming = some d) ∧
    (∀ crc ∈ [0, crc32c (leBytes 8 1)], let s : State := { setRegs (withDraft d (fun l => { l with drafts := [], save := some (v crc) }))
        [(LOOM_STOP.STATE, 11, 4)] with mem := { hbm := Memory.write [] 0x40000 (leBytes 8 1) } }
      s.rd LOOM_STOP.STATE 11 = 4 ∧ (s.loom 11).save = some (v crc) ∧ (∀ d ∈ (s.loom 11).drafts, d.st = 0) ∧
      (s.physRead 0x40000 8 0).2.1 = leBytes 8 1 ∧ s.ctxActive 5 = true) ∧ crc32c (leBytes 8 1) ≠ 0 ∧
    (let s := setRegs (loomState 0) [(DBG_CFG.LOOM_DBG_PARTS, 0, 1)]
     s.winUp .dbg = true ∧ s.ownerOf FE_PART.LOOMS 11 = some 0 ∧ bit (s.rd DBG_CFG.LOOM_DBG_PARTS) 0 = true) ∧
    (up.ownerOf FE_PART.LOOMS 11 = none ∧ up.rd DBG_CTR.HALT_REFUSED + 1 < 2 ^ 48 - 1) := by decide +kernel

/-- A ray that misses at once, or that is traversed, in lane 0 of the group, from v8 on; partition 0 has clusters 46 and 47. -/
def rayState (kind : Nat) (dir : Nat) : State :=
  let rg := fun (k v : Nat) => (32 * (8 + k), v)
  let v := [rg 4 dir, rg 7 0x3F800000, rg 8 0x80000, rg 11 (if kind = 0 then 0 else 0x800)]
  let s := shaderWith fun x => { x with exec := 1, sg := [(4, 0x1000)], v := v }
  setRegs s [(FE_PART.CLUSTERS, 0, 3 * 2 ^ 46), (FE_PART.CRD_QUOTA, 0, 1)]

/-- The emitting instruction of this target kind. -/
def emits (kind : Nat) : Ins := { dst := if kind = 0 then 24 else 0, src0 := 8, src1 := 0x104, md := kind }

/-- Its operands. -/
def emitOpds (kind : Nat) : List Opd := ⟨8, .v, 12⟩ :: if kind = 0 then [⟨24, .v, 8⟩] else [⟨0x104, .s, 2⟩]

theorem witness_RaysAreEmittedAndReturn_emitted :
    (∀ kind ∈ [0, 1, 2], ∀ dir ∈ [0, 0x3F800000], issuesAnd (rayState kind dir) ⟨0xA, some 0⟩ 9215 (emits kind) false (emitOpds kind) 3 false (fun u e0 e =>
      let rs := e.raysOf (emits kind) kind (if kind = 0 then 0 else e.grp.s64 (emits kind) 0x104)
      bits (emits kind).md 0 2 == kind && e0.grp.rets.length < 2 && rs.length == 1 && rs.all (fun r => !r.invalid && r.missNow == (dir == 0)) &&
      u.crd.held.isEmpty && u.inStore 0 + 1 ≤ u.rd FE_PART.CRD_QUOTA 0 * 1024 && u.crd.slots.length + 1 ≤ 262144) = true) ∧
    (rayState 0 0).partRtus 0 = [46, 47] ∧ up.partRtus 0 = [] := by decide +kernel

/-- A ray of partition 0 with this root. -/
def ray (kind root : Nat) : Ray :=
  let b := bytesOf 48 [(0x10, 4, 0x3F800000), (0x1C, 4, 0x3F800000), (0x20, 8, root), (0x2D, 1, if kind = 0 then 0 else 8)]
  { raw := b, kind := kind, ctx := 5, part := 0, tgt := 0x40000, ds := [1], clusters := 2 ^ 47, q := 7, prio := 1, grp := 9215, reg := 24, lane := 31 }

/-- The Carder of a shader device holds this. -/
def crdState (c : Crd) : State := { rayState 0 0 with crd := c }

theorem witness_RaysAreEmittedAndReturn_return :
    (let a : Activation := { id := 0, ctx := 5, va := 0x1000, desc := bytesOf 32 [(0, 1, 0), (6, 2, 1), (8, 8, 1)] }
     (crdState { acts := [a] }).crd.acts.find? (fun a => a.ctx == 5 && a.va == 0x1000 && a.accepted < a.expect) = some a ∧ a.accepted + 1 ≤ a.expect) ∧
    (let s := crdState { rets := [(ray 0 0x80000, leBytes 32 1)] }
     s.crd.rets.find? (fun p => p.1.grp == 9215 && p.1.lane == 31) = some (ray 0 0x80000, leBytes 32 1) ∧
     (s.sh.grps.get? 9215).any (fun x => !x.ended && x.trapReq.isNone) = true ∧ ∀ p ∈ s.crd.rets, p.1.grp ≠ 9215 ∨ p.1.lane ≠ 30) ∧
    ((shaderWith fun x => { x with rets := [(0, 1), (8, 1)] }).genv 9215).any (fun e => 2 ≤ e.grp.rets.length) = true ∧
    ((shaderWith fun x => { x with wait := .ray }).sh.grps.get? 9215).any (fun x => x.wait == .ray) = true := by decide +kernel

theorem witness_RaysAreCastAndDelivered_cast :
    (let s := crdState { buckets := [(3, [ray 0 0x80000])] }
     s.crd.buckets.get? 3 = some (ray 0 0x80000 :: []) ∧ (ray 0 0x80000).since + 1000 * (setRegs s [(CRD_CFG.BATCH_US, 0, 0)]).rd CRD_CFG.BATCH_US ≤ s.now ∧
     ¬ ((ray 0 0x80000).since + 1000 * (setRegs s [(CRD_CFG.BATCH_US, 0, 1)]).rd CRD_CFG.BATCH_US ≤ s.now)) ∧
    (let s := crdState { batches := [(3, { rays := [ray 0 0x80000] })] }
     (s.crd.batches.get? 3).any (fun x => x.rays == [ray 0 0x80000] && x.rtu.isNone) = true ∧ s.ctxActive 5 = true ∧
     (s.partRtus 0).filter s.rtuUp = [46, 47] ∧ s.rtuLoad 46 < 4 ∧ s.rd CRD_CTR.BATCHES + 1 < 2 ^ CRD_CTR.BATCHES.w - 1 ∧
     s.rd CRD_CTR.PARTIAL + 1 < 2 ^ CRD_CTR.PARTIAL.w - 1) ∧
    (let b : Batch := { rtu := some 46, rays := [ray 0 0x80000] }
     let s := crdState { batches := [(0, b), (1, b), (2, b), (3, b), (4, { b with rtu := some 47 }), (5, { b with rtu := some 47 }),
       (6, { b with rtu := some 47 }), (7, { b with rtu := some 47 })] }
     ∀ m ∈ (s.partRtus 0).filter s.rtuUp, 4 ≤ s.rtuLoad m) ∧
    (∀ x ∈ [(0x80000, 2), (2 ^ 40, 3)], ((rayState 0 0).traverse 47 (ray 0 x.1)).2.fin = x.2) ∧
    (let m : Ray := { ray 0 0x80000 with raw := bytesOf 48 [(0x20, 8, 0x80000)] }
     m.missNow = true ∧ ((rayState 0 0).traverse 47 m).2.fin = 1) ∧
    (let s := crdState { batches := [(3, { rtu := some 46, rays := [], cmps := [(ray 0 0x80000, [])] })] }
     (s.crd.batches.get? 3).any (fun x => x.rtu == some 46 && x.cmps[0]? == some (ray 0 0x80000, [])) = true ∧ s.dupRtu 0 46 = 47 ∧
     (∀ q ∈ s.partRtus 0, q = 46 ∨ q = 47) ∧
     let w := setRegs s [(FE_PART.CLUSTERS, 0, 7 * 2 ^ 45)]
     (w.partRtus 0).find? (fun q => q != 46 && q != w.dupRtu 0 46) = some 47 ∧ (w.recast 47 { ray 0 0x80000 with raw := bytesOf 48 [(0x20, 8, 0x80000)] }).ctxActive 5 = true) := by
  decide +kernel

/-- A kernel descriptor for hit shading at 0x40000, and for another shape at 0x41000. -/
def hitState : State :=
  { crdState { batches := [(3, { rays := [], hits := [(ray 1 0x80000, leBytes 32 7)] })] } with
    mem := { hbm := Memory.write (Memory.write [] 0x40000 kdBytes) 0x41000 (kdBytes.set 0x10 64) } }

theorem witness_RaysAreCastAndDelivered_delivered :
    ((hitState.crd.batches.get? 3).any (fun x => x.rays.isEmpty && x.cmps.isEmpty && x.hits.length == 1) = true ∧ hitState.ctxActive 5 = true ∧
      hitState.fe.held.contains 0 = false ∧ hitState.sh.saved = [] ∧
      ((hitState.readKdesc 5 47 0x40000).2).any (fun k => k.wgx == 32 && k.wgy == 1 && k.wgz == 1) = true ∧
      ((hitState.readKdesc 5 47 0x41000).2).any (fun k => k.wgx != 32) = true ∧ (hitState.hitKdesc [1] (ray 1 0x80000)).2.isSome = true ∧
      (hitState.hitKdesc [1] { ray 1 0x80000 with tgt := 0x41000 }).2 = none ∧ (hitState.sh.disps.get? 1).all (·.hitKds.isEmpty) = true) ∧
    (let d : Disp := { kind := .hit [1], ctx := 5, part := 0, prio := 1, sid := 0, pid := 0, kd := kdescOf (kdBytes ++ leBytes 192 0), gx := 1, gy := 1,
                       gz := 1, clusters := 2 ^ 47, q := 7 }
     (hitState.placeCore d 1).isSome = true ∧ hitState.placeCore { d with clusters := 0 } 1 = none) ∧
    (let s := setRegs (crdState { pools := [(0, [ray 1 0x80000])], poolNext := [(0, 1)] }) [(CRD_POOL.SIZE, 0, 1)]
     s.crd.pools.get? 0 = some [ray 1 0x80000] ∧ s.inStore 0 < s.rd FE_PART.CRD_QUOTA 0 * 1024 ∧ s.crd.slots.length < 262144 ∧
     (s.physRead 0 64 0).2.2 = 0 ∧ (setRegs s [(FE_PART.CRD_QUOTA, 0, 0)]).rd FE_PART.CRD_QUOTA 0 * 1024 ≤ s.inStore 0) ∧
    (let s := crdState { held := [ray 1 0x80000], full := [(0, 0)] }
     s.crd.full.get? 0 = some 0 ∧ (∃ r ∈ s.crd.held, r.part = 0) ∧ (∀ r ∈ s.crd.held, r.part = 0 → r.ctx = 5) ∧ s.now < 0 + 1000000 ∧
     ¬ (1000000 < 0 + 1000000)) ∧
    (up.rtuUp 47 = true ∧ up.rtuUp 48 = false) ∧
    (let a : Activation := { id := 0, ctx := 5, va := 0x1000, desc := bytesOf 32 [(8, 8, 1)] }
     let s := crdState { acts := [a] }
     s.crd.acts.find? (fun y => y.id == 0) = some a ∧ s.ctxActive a.ctx = true ∧ a.written < a.expect ∧
     ¬ ({ a with written := 1 }.written < { a with written := 1 }.expect)) := by decide +kernel

/-- The descriptor of a render pass of one tile without attachments, with a bin pool at 0x100000 and this flush area. -/
def passBytes (flush : Nat) : List Byte := bytesOf 512 [(0, 2, 32), (2, 2, 32), (8, 8, 0x100000), (0x10, 4, 0x100000), (0x18, 8, flush)]

/-- A pass that stream 7 has open. -/
def pass (flush : Nat) : GPass := { sid := 7, q := 7, ctx := 5, part := 0, prio := 1, desc := passBytes flush, clusters := 2 ^ 47 }

/-- A PSO at 0x40000 with its vertex kernel at 0x41000 and its input table at 0x42000, the pass's descriptor at 0x44000, and this
packet at the head of queue 7. -/
def gfxState (op : Nat) (w : List Nat) (g : Gfx) : State :=
  let pso := bytesOf 256 [(0, 8, 0x41000), (0x20, 8, 0x42000), (0x29, 1, 1)]
  let m := Memory.write (Memory.write (Memory.write (Memory.write [] 0x40000 pso) 0x41000 kdBytes) 0x42000 [1]) 0x44000 (passBytes 0)
  { setRegs (withPkt 1 op w) [(FE_PART.CLUSTERS, 0, 3 * 2 ^ 46)] with mem := { hbm := m }, gfx := g }

theorem witness_RenderPassesTakeDraws :
    (∀ f ∈ [0, 0x200000], (pass f).ok = true ∧ (pass f).idle = true) ∧ ({ pass 0 with desc := bytesOf 512 [] } : GPass).ok = false ∧
    ((gfxState 0x20 [0x40000, 0, 0, 0] {}).canRun 7 0x20).isSome = true ∧
    (let s := gfxState 0x21 [0x44000, 0] {}
     (s.canRun 7 0x21).isSome = true ∧ s.passOf 7 = none ∧ (s.vread 5 60 0x44000 512).2.isSome = true ∧ (s.vaLocal 5 0x100000).2 = true ∧
     (({ s with mmu := { tlb := [⟨64, 5, 0, 2 ^ 39, 3 * 2 ^ 48, 15⟩] } } : State).vaLocal 5 0x100000).2 = false) ∧
    (let o : Gfx := { states := [(7, 0x40000, 0)], passes := [(0, pass 0)], next := 1 }
     (∀ r ∈ [(0x22, [3, 1, 0, 0]), (0x23, [0x45000, 0, 3, 1, 0, 0, 0, 0]), (0x24, [0x45000, 0, 1, 16, 0, 0, 0])], let s := gfxState r.1 r.2 o
       (s.canRun 7 r.1).any (fun q => !q.2.acquire) = true ∧ s.passOf 7 = some (0, pass 0) ∧ s.gfx.states.get? 7 = some (0x40000, 0) ∧
       s.passHeld (pass 0) = false ∧ (s.drawState (pass 0) 0x40000 0).2.isSome = true) ∧
     ((gfxState 0x25 [] o).canRun 7 0x25).isSome = true ∧ bit (pass 0).flags 1 = false ∧ ({ pass 0 with phase := 3 } : GPass).idle = false ∧
     ((gfxState 0x23 [] o).readIndices 5 47 0x45000 0 false ⟨3, 1, 0, 0, 0⟩).2.isSome = true) ∧
    (gfxState 0x22 [3, 1, 0, 0] {}).passOf 7 = none ∧ (pass 0).flushVa = 0 ∧ (pass 0x200000).flushVa ≠ 0 ∧
    (let gs : GState := { pso := bytesOf 256 [], dyn := dynZero (pass 0), fs := none }
     let q : GPrim := { draw := 0, prim := 0, tris := [⟨[(0, 0), (0x1000, 0), (0, 0x1000)], [0, 0, 0]⟩], front := true, verts := [] }
     q.tileList gs 32 32 = [0] ∧ q.prim / 4096 ≤ (pass 0).binRun ∧ (pass 0).poolBytes < 0x100000 + 32 + 48 * (gs.nout + 1)) := by decide +kernel

/-- One tile pass with a colour attachment of this load and store, whose image is at 0x200000 and whose signatures are at 0x280000. -/
def attPass (load store : Nat) : GPass :=
  { pass 0 with
    desc := bytesOf 512 [(0, 2, 32), (2, 2, 1), (5, 1, 1), (6, 1, 2), (8, 8, 0x100000), (0x10, 4, 0x100000), (0x40, 8, 0x200000),
      (0x48, 4, 128), (0x4C, 1, 1), (0x4D, 1, load), (0x4E, 1, store), (0x58, 8, 0x280000)] }

/-- A primitive of draw 0 that touches the first tile. -/
def prim : GPrim := { draw := 0, prim := 0, tris := [], front := true, verts := [[0, 0, 0, 0, 7]], tiles := [0] }

theorem witness_TilesAreShadedAndStored :
    (∀ mk ∈ [[], [0]], let p := { pass 0x200000 with tiles := [0], phase := 3, marked := mk }
     let s := gfxState 0x25 [] { passes := [(0, p)] }
     let cores := (bitList p.clusters 48).flatMap fun c => (List.range 4).map (4 * c + ·)
     s.gfx.passes.get? 0 = some p ∧ 2 ≤ p.phase ∧ s.ctxActive p.ctx = true ∧ s.fe.held.contains p.part = false ∧ s.saf.hold = false ∧
     cores.find? (s.tileFits p) = some 188 ∧ ([] : List Nat).find? (s.tileFits p) = none ∧
     ((s.setSplit 188 3).vread p.ctx 47 (p.flushVa + p.tileBytes * 0) p.tileBytes).2.isSome = true ∧
     (State.loadAtts p.ctx 47 p 0 p.atts (s.setSplit 188 3) []).2.isSome = true) ∧
    ((attPass 1 0).load 0 = 1 ∧ (attPass 1 0).store 0 ≠ 1 ∧ bit (attPass 1 0).flags 1 = true) ∧
    (∀ ph ∈ [2, 3], ∀ b ∈ [false, true], let t : GTile := { idx := 0, core := 188, mem := [], work := [], busy := b }
     let p := { pass 0x200000 with phase := ph, run := [t] }
     let s := gfxState 0x25 [] { passes := [(0, p)] }
     (p.run.find? fun t => t.idx == 0) = some t ∧ s.ctxActive p.ctx = true ∧ s.poolShared 0 p = false ∧
     (s.vwrite p.ctx 47 (p.flushVa + p.tileBytes * 0) (t.mem.read 0 p.tileBytes)).2 = true ∧ (State.storeAtts 47 p t p.atts s 0).2 = some 0) ∧
    ((gfxState 0x25 [] {}).vread 5 47 ((attPass 1 0).sigVa 0 + 0x40) 4).2 = some [0, 0, 0, 0] ∧
    (let p := { pass 0 with phase := 1, bins := [prim] }
     (p.allTiles.filter fun k => p.bins.any fun b => b.tiles.contains k) = [0] ∧ up.rd PMU_FIXED.GFX_FLUSHES + 1 < 2 ^ PMU_FIXED.GFX_FLUSHES.w - 1) := by
  decide +kernel

/-- An image of 4 by 4 texels at 0x80000 in s8 to s15 with `mips` levels, a sampler in s16 to s19, and one active lane. -/
def texState (mips : Nat) : State :=
  shaderWith fun x => { x with exec := 1, sg := [(8, 0x80000), (10, 0x40004), (11, 1 + mips * 0x10000 + 0x1000000), (12, 1)] }

/-- A texture instruction on v4, with its descriptors at s8. -/
def texIns : Ins := { dst := 0, src0 := 4, src1 := 0x108, src2 := 12 }

/-- The registers that the coordinates of the group's image instruction span. -/
def texSpan (s : State) (n : Nat) : Nat := ((s.sh.grps.get? 9215).map fun x => x.texSpan texIns n).getD 1

/-- A fragment group of the first tile of pass 0. -/
def fragState : State :=
  let p := { attPass 1 0 with states := [(0, { pso := bytesOf 256 [(0x2A, 1, 1)], dyn := [], fs := none })],
                              run := [{ idx := 0, core := 191, mem := [], work := [], prim := some prim }] }
  let s := shaderWith fun x => { x with exec := 1 }
  { s with sh := { s.sh with disps := s.sh.disps.map fun d => (d.1, { d.2 with kind := .gfx 1 0 0 }) }, gfx := { passes := [(0, p)] } }

theorem witness_TexturesAndTiles :
    (∀ r ∈ ([(1, 12, 0x10, State.texSampled), (0, 8, 0x11, State.texFetched), (6, 12, 0x12, State.texGathered)] :
        List (Nat × Nat × Nat × (Ins → GEnv → Img → Smp → State → Nat → State × Option (List Nat)))),
      let ops : Nat → List Opd := fun m => [⟨0, .v, 4⟩, ⟨4, .v, texSpan (texState m) r.2.1⟩, ⟨0x108, .s, r.2.1⟩] ++ if r.2.1 = 8 then [⟨12, .any, 1⟩] else []
      issuesAnd (texState 1) ⟨6, some r.2.2.1⟩ 9215 texIns false (ops 1) r.1 false (fun u _ e =>
        let m := e.grp.imgOf 0x108
        let p : Smp := if r.2.1 = 12 then e.grp.smpOf 0x108 else ⟨[]⟩
        m.ok && (r.2.1 != 12 || p.ok) && (State.texLanes (r.2.2.2 texIns e m p) 0 (e.grp.lanesOf texIns) u e.grp).2.isSome) = true ∧
      issuesAnd (texState 0) ⟨6, some r.2.2.1⟩ 9215 texIns false (ops 0) r.1 false (fun _ _ e => !(e.grp.imgOf 0x108).ok) = true) ∧
    issuesAnd (texState 1) ⟨6, some 0x11⟩ 9215 { texIns with src2 := 0x1C1 } false
      [⟨0, .v, 4⟩, ⟨4, .v, texSpan (texState 1) 8⟩, ⟨0x108, .s, 8⟩, ⟨0x1C1, .any, 1⟩] 0 false (fun _ _ e =>
      (e.grp.imgOf 0x108).ok && (e.grp.lanesOf texIns).all fun l => (e.grp.imgOf 0x108).mips ≤ e.grp.src texIns .u32 32 0x1C1 l) = true ∧
    (∀ x ∈ [0, 4], issuesAnd ((texState 1).updGrp 9215 fun y => y.wv 0 4 x) ⟨6, some 0x13⟩ 9215 texIns false [⟨4, .v, texSpan (texState 1) 8⟩, ⟨0x108, .s, 8⟩, ⟨12, .v, 4⟩] 0 false
      (fun _ _ e => let m := e.grp.imgOf 0x108
        m.ok && (e.grp.writers texIns).all fun l => (m.inside 0 (e.grp.coordsOf texIns m.coords l)).isNone == (x == 4)) = true) ∧
    issuesAnd (texState 0) ⟨6, some 0x13⟩ 9215 texIns false [⟨4, .v, texSpan (texState 0) 8⟩, ⟨0x108, .s, 8⟩, ⟨12, .v, 4⟩] 0 false (fun _ _ e => !(e.grp.imgOf 0x108).ok) = true ∧
    (∀ s ∈ [fragState, shader], ∀ md ∈ [0, 8],
      issuesAnd s ⟨6, some 0x14⟩ 9215 { dst := 0, src0 := 0x1C0, src2 := 12, md := md } false
        ([⟨0, .v, 4⟩, ⟨0x1C0, .inl, 1⟩] ++ if md = 8 then [] else [⟨12, .v, 2⟩]) 8 false (fun u _ e =>
        u.gfx == s.gfx && (s.fragOf e).all fun f => e.grp.named { dst := 0, src0 := 0x1C0 } < f.2.2.2.nout) = true) ∧
    (∀ s ∈ [fragState, shader], issuesAnd s ⟨6, some 0x15⟩ 9215 { dst := 0, src0 := 0x1C0 } false [⟨0, .v, 4⟩, ⟨0x1C0, .inl, 1⟩] 0 false (fun u _ e =>
        u.gfx == s.gfx && (s.fragOf e).all fun f => f.1.atts.contains (e.grp.named { dst := 0, src0 := 0x1C0 })) = true) ∧
    (fragState.genv 9215).any (fun e => (fragState.fragOf e).isSome) = true ∧ (shader.genv 9215).any (fun e => (shader.fragOf e).isNone) = true := by
  decide +kernel

/-- Pipe 0 of partition 0 with a picture of 2 by 2 pixels, a DISPLAY_COMMIT at the head of queue 7, and its descriptor at 0x40000. -/
def glzState (d : List Byte) : State :=
  let s := setRegs (withPkt 3 0x50 [0, 0x40000, 0]) ([(FE_PART.PIPES, 0, 1), (FE_TICK_CFG.PIPE, 0, 1), (FE_PART.EN, 1, 1), (FE_PART.TLY_BASE, 1, 127), (FE_PART.TLY_COUNT, 1, 1), (GLZ_PIPE.LAYERS, 0, 1), (GLZ_PIPE.PIXCLK, 0, 25000)] ++
    pipeTiming.map fun F => (F, 0, 2))
  { s with mem := { hbm := Memory.write [] 0x40000 d } }

/-- A descriptor of one layer of 2 by 2 pixels, with these flags. -/
def setBytes (n fl tal : Nat) : List Byte :=
  bytesOf 128 [(0, 1, n), (1, 1, fl), (2, 2, tal), (0x40, 8, 0x80000), (0x50, 4, 64), (0x58, 1, 3), (0x64, 2, 2), (0x66, 2, 2)]

/-- A set of pipe 0. -/
def gset (wait : Nat) : GSet := { ctx := 5, raw := (setBytes 1 0 0).take 64, layers := [layerOf ((setBytes 1 0 0).drop 64)], wait := wait }

theorem witness_DisplayCommitsAndFrames :
    (∀ r ∈ [(setBytes 1 0 0, true), (setBytes 1 16 0, false), (setBytes 1 1 8191, true)], let s := glzState r.1
      (s.canRun 7 0x50).isSome = true ∧ bit (s.rd FE_PART.PIPES (s.partOf 5)) 0 = true ∧ bit (up.rd FE_PART.PIPES 0) 0 = false ∧
      (s.vread 5 62 0x40000 64).2.isSome = true ∧ popc (s.rd GLZ_PIPE.LAYERS 0) 24 = 1 ∧ (s.vread 5 62 0x40040 64).2.isSome = true ∧
      (commitOk (r.1.take 64) (s.rd GLZ_PIPE.OCSC 0) && (layerOf (r.1.drop 64)).ok (s.rd GLZ_PIPE.H_ACTIVE 0) (s.rd GLZ_PIPE.V_ACTIVE 0)) = r.2 ∧
      s.tallyOk 0 8191 = false ∧ (s.pipe 0).pend = none ∧ s.rd GLZ_PIPE.REPLACED 0 + 1 < 2 ^ 48 - 1) ∧
    (let s := glzState []
     s.present 5 0 = true ∧ s.winUp .glz = true ∧ s.on GLZ_PIPE.EN 0 = false ∧ (s.pipe 0).run = false ∧ s.pipeCommitOk 0 = true ∧
     up.pipeCommitOk 0 = false ∧ s.pipeChanged 0 = false ∧ (s.wrSh GLZ_PIPE.STALE_LIMIT 0 3).pipeChanged 0 = true ∧
     (s.wrSh GLZ_PIPE.STALE_LIMIT 0 3).pipeCommitOk 0 = true ∧ (s.wrSh GLZ_PIPE.PIXCLK 0 3).pipeChanged 0 = true ∧
     (s.wrSh GLZ_PIPE.PIXCLK 0 3).pipeCommitOk 0 = false ∧ (∀ F ∈ [GLZ_PIPE.OUT, GLZ_PIPE.LAYERS, GLZ_PIPE.PIXCLK, GLZ_PIPE.H_ACTIVE, GLZ_PIPE.V_ACTIVE], s.rdSh F 0 < 2 ^ F.w) ∧
     (s.pipe 0).rel = [] ∧ (s.pipe 0).relLut = []) ∧
    (∀ w ∈ [0, 1, 2], let s := setRegs ((glzState []).updPipe 0 fun x => { x with pend := some (gset w) }) [(GLZ_PIPE.EN, 0, 1)]
     s.on GLZ_PIPE.EN 0 = true ∧ (s.pipe 0).rel = [] ∧ (s.pipe 0).relLut = [] ∧ s.tickPipe ≠ 0 ∧ s.pendSeen (gset w) = decide (w ≠ 1)) ∧
    (let s := setRegs (glzState []) [(GLZ_PIPE.EN, 0, 1)]
     (s.pipe 0).pend = none ∧ (s.pipe 0).applied = none ∧ s.tickPipe ≠ 0 ∧ 0 < s.rd GLZ_PIPE.H_ACTIVE 0 * s.rd GLZ_PIPE.V_ACTIVE 0) ∧
    (let s := setRegs ((glzState []).updPipe 0 fun x => { x with run := true, applied := some (gset 0), width := 2, img := [1, 2, 3, 4], wb := [(5, 0, 1)] })
        [(GLZ_CRC.EN, 0, 1), (GLZ_CRC.CMP_EN, 0, 1)]
     s.on GLZ_PIPE.EN 0 = false ∧ (s.pipe 0).run = true ∧ (s.pipe 0).applied ≠ none ∧ 1 < (s.pipe 0).width ∧
     1 * (s.pipe 0).width + 1 < (s.pipe 0).img.length ∧ s.on GLZ_PIPE.UNDERRUN 0 = false ∧ s.rd GLZ_PIPE.UNDERRUNS 0 + 1 < 2 ^ 48 - 1 ∧
     s.on GLZ_CRC.EN 0 = true ∧ (s.pipe 0).crcDone.contains 0 = false ∧ s.on GLZ_CRC.CMP_EN 0 = true ∧ s.rd GLZ_CRC.MISMATCH 0 + 1 < 2 ^ 48 - 1 ∧
     (s.pipe 0).wb = (5, 0, 1) :: []) := by decide +kernel

theorem witness_DisplayLinks :
    (∀ st ∈ [0, 1, 2], let s := setRegs up [(GLZ_DP.EN, 0, 1), (GLZ_DP.STATE, 0, st), (GLZ_DP.AUX_BUSY, 0, st), (GLZ_DP.HPD, 0, 1), (GLZ_DP.RATE, 0, 1), (GLZ_DP.FALLBACK, 0, 0), (GLZ_DP.AUTO_RETRAIN, 0, 0),
        (GLZ_DP.AUX_LEN, 0, 7), (GLZ_APHY.EN, 0, 1), (GLZ_APHY.LOCKED, 0, 1)]
      s.winUp .glz = true ∧ s.present 6 0 = true ∧ s.present 7 0 = true ∧ s.on GLZ_DP.EN 0 = true ∧ up.on GLZ_DP.EN 0 = false ∧
      s.on GLZ_DP.AUX_BUSY 0 = decide (st = 1) ∧ s.rd GLZ_DP.STATE 0 = st ∧ s.glz.retrain.contains 0 = false ∧ s.rd GLZ_DP.RATE 0 = 1 ∧
      s.on GLZ_DP.FALLBACK 0 = false ∧ s.on GLZ_DP.AUTO_RETRAIN 0 = false ∧ s.on GLZ_DP.HPD 0 = true ∧ s.rd GLZ_DP.RETRAINS 0 + 1 < 2 ^ 48 - 1 ∧
      s.on GLZ_DP.AUX_WRITE 0 = false ∧ s.rd GLZ_DP.AUX_LEN 0 = 7 ∧ s.rd GLZ_DP.AUX_DATA0 0 < 2 ^ 64 ∧ s.on GLZ_APHY.EN 0 = true ∧
      s.on GLZ_APHY.LOCKED 0 = true ∧ s.rd GLZ_APHY.RESTARTS 0 + 1 < 2 ^ 48 - 1 ∧ ((s.glz.dsi.get? 0).getD []).length < 16) ∧
    (up.on GLZ_DP.AUTO_RETRAIN 0 = true ∧
     up.on GLZ_DP.FALLBACK 0 = true) ∧
    16 ≤ ((({ up with glz := { dsi := [(0, List.replicate 16 0)] } } : State).glz.dsi.get? 0).getD []).length := by decide +kernel

/-- A COMPRESS packet at the head of queue 7 with its descriptor at 0x40000, of a run-length job with this operation and flags. -/
def prsState (op fl : Nat) : State :=
  { withPkt 4 0x48 [0x40000, 0] with mem := { hbm := Memory.write [] 0x40000 (bytesOf 64 [(0, 1, op), (2, 1, fl), (8, 8, 0x50000), (0x10, 4, 16),
      (0x18, 8, 0x60000), (0x20, 4, 64), (0x30, 8, 0x70000)]) } }

theorem witness_PressWork :
    (∀ op ∈ [0x40, 0x41], ((withPkt 4 op [0x40000, 0, 0x50000, 0, 128, 0]).canRun 7 op).isSome = true) ∧ work.prsPick = some 0 ∧
    (let s := { withPkt 4 0x40 [] with fe := { (withPkt 4 0x40 []).fe with copies := [(0, (7, 0, 5))] } }
     s.fe.copies.get? 0 = some (7, 0, 5) ∧ s.ctxActive 5 = true ∧ (s.fe.strms.get? 7).isSome = true) ∧
    (∀ x ∈ [(0, 4, true), (1, 0, true), (0, 16, false)], let s := prsState x.1 x.2.1
      (s.canRun 7 0x48).isSome = true ∧ s.prsPick = some 0 ∧ (s.vread 5 (prsUnit 0) 0x40000 64).2.isSome = true ∧
      ((s.vread 5 (prsUnit 0) 0x40000 64).2).any (fun d => pressOk d == x.2.2 && !bit (field d 2 1) 0 && !bit (field d 2 1) 3) = true) ∧
    (let s := prsState 0 4
     let j : PJob := { sid := 7, pid := 0, ctx := 5, va := 0x40000, desc := bytesOf 64 [(2, 1, 4), (8, 8, 0x50000), (0x10, 4, 16), (0x18, 8, 0x60000),
       (0x20, 4, 64), (0x30, 8, 0x70000)], ratio := 0 }
     ({ s with prs := { jobs := [(0, j)] } } : State).prs.jobs.get? 0 = some j ∧ s.ctxActive j.ctx = true ∧
     (s.vread j.ctx (prsUnit 0) (j.f 8 8) (j.f 0x10 8)).2.isSome = true ∧ j.resume = false ∧ j.f 0 1 = 0) := by decide +kernel

/-- The tick of this source runs since `base`, its first start behind it, with a period of 1,000 µs and a tolerance of 10 µs. -/
def tickState (src base : Nat) : State :=
  { setRegs work [(FE_TICK_CFG.SRC, 0, src), (FE_TICK_CFG.PERIOD_US, 0, 1000), (FE_TICK_CFG.TOL_US, 0, 10), (FE_BUDGET.CL_LIMIT, 0, 5),
      (FE_BUDGET.CL_USED, 0, 5000)] with tick := { run := true, base := base, edge := some base }, now := 1000000 }

/-- Queue 7 has this Realtime job. -/
def rtState (r : RtJob) : State := { tickState 0 0 with rt := [(7, r)] }

theorem witness_TicksBudgetsAndRealtime :
    (∀ src ∈ [0, 1, 4], ∀ base ∈ [0, 900000, 999999], let s := tickState src base
      s.tick.run = true ∧ s.tickSrc = src ∧ s.tick.rel = [] ∧ s.on DBG_TRACE.TRACE_EN = false ∧ s.now < 2 ^ 64 ∧ s.tick.first = false ∧
      s.tick.self = false) ∧
    ((0 + 1000 * 1000 ≤ (tickState 0 0).now) ∧ ¬ (900000 + 1000 * 1000 ≤ (tickState 0 0).now) ∧
      ((tickState 1 0).now - 0) * fabricMHz ((tickState 1 0).rd PWR_LEVEL.CORE) ≥ 8000 ∧
      ((tickState 1 0).now - 999999) * fabricMHz ((tickState 1 0).rd PWR_LEVEL.CORE) < 8000) ∧
    (let s := tickState 0 0
     s.on FE_PART.EN 0 = true ∧ s.rd (limitFld 0) 0 ≠ 0xFFFFFFFF ∧ 1000 * s.rd (limitFld 0) 0 ≤ s.rd (usedFld 0) 0 ∧
     bit (s.rd FE_BUDGET.EXHAUSTED 0) 0 = false ∧ s.rd (usedFld 1) 0 < 1000 * s.rd (limitFld 1) 0) ∧
    (∀ sb ∈ [0, 2000000], let r : RtJob := { startBy := sb, deadline := 500000 }
     let s := rtState r
     s.rt.get? 7 = some r ∧ (s.fe.strms.get? 7).isSome = true ∧ s.ctxActive (s.rd FE_Q.CTX 7) = true ∧ r.later = [] ∧ r.deadline ≤ s.now ∧
     s.rtHeld 7 = true ∧ (setRegs s [(FE_Q.WPTR, 7, 0)]).rtHeld 7 = false ∧ s.rd FE_RT.MISSES 7 + 1 < 2 ^ 48 - 1) ∧
    (∀ l ∈ [[], [(3, 4, none)], [(3, 4, some 5)]], let r : RtJob := { startBy := 0, deadline := 500000, phase := 2, j := 0, missed := true, later := l }
     (rtState r).rt.get? 7 = some r ∧ r.j ≤ (rtState r).rd FE_Q.COMPLETED 7 ∧ (rtState r).rd FE_Q.COMPLETED 7 < 1) := by decide +kernel

/-- A finished Sweep job over 1 MiB at 2 MiB, and an L2 line of HBM, with this maintenance operation committed. -/
def memState (d : SweepDone) (op busy : Nat) : State :=
  { setRegs work [(MC_SCRUB_CFG.EN, 0, 1), (L2_MAINT.OP, 0, op), (L2_MAINT.BUSY, 0, busy), (L2_MAINT.SCOPE, 0, 2), (MC_STATUS.TRAIN, 0, 2), (PMU_CTL.EN, 0, 0)] with
    mem := { hbm := [(0x200001, 9)], jobs := [{ id := 3, lo := 0x200000, hi := 0x300000, done := d }] } }

/-- A clean line of zeros. -/
def zeroLine : L2Line := { way := 1, held := 2 ^ 128 - 1, dirty := 0, data := List.replicate 128 0, used := 0 }

/-- The L2 holds one clean line of HBM, at line number 100. -/
def l2State (op busy : Nat) : State := { memState (.part []) op busy with mem := { l2 := [(100, zeroLine)] } }

theorem l2State_quiet (op busy : Nat) (h : (l2State op busy).dev < 3) (hl : (l2State op busy).hostUp = true)
    (hn : (l2State op busy).nearPa (100 * 128)) (hh : ∀ o < 128, (l2State op busy).homeByte (100 * 128 + o) = 0) : (l2State op busy).quietMem := by
  refine ⟨rfl, rfl, ⟨rfl, rfl, rfl⟩, h, hl, ⟨rfl, rfl⟩, fun k l hk => ?_⟩
  have hk' : 100 = k ∧ zeroLine = l := by simpa [l2State, NMap.get?, List.find?] using hk
  obtain ⟨rfl, rfl⟩ := hk'
  refine ⟨hn, rfl, fun o ho => ⟨fun hb => ?_, fun _ _ => ?_⟩⟩
  · simp [zeroLine, bit] at hb
  · rw [hh o ho]
    have : ∀ o < 128, zeroLine.data.getD o 0 = 0 := by decide +kernel
    exact this o ho

theorem witness_MemorySystem :
    (∀ d ∈ [SweepDone.part [0], .claim 3 1 16 true 0 0, .claim 3 1 16 false 7 0, .alloc 0 7 0 5 0x1000 0x80000], let s := memState d 0 0
     s.mem.jobs.find? (fun k => k.id == 3) = some { id := 3, lo := 0x200000, hi := 0x300000, done := d } ∧ s.on PMU_CTL.EN = false ∧ s.dev < 4 ∧
     (∀ k ∈ s.mem.waitParts ++ s.mem.waitJobs, k.id ≠ 3) ∧ (∀ j ∈ s.mem.jobs, j.id ≠ 4) ∧
     (∀ k ∈ s.mem.jobs, SweepJob.waitsFor { id := 3, lo := 0x200000, hi := 0x300000, done := d } k = false)) ∧
    SweepJob.waitsFor { id := 4, lo := 0x300000, hi := 0x400000, done := .claim 3 1 16 false 7 0 }
      { id := 3, lo := 0x200000, hi := 0x300000, done := .alloc 0 7 0 5 0x1000 0x80000 } = true ∧
    SweepJob.waitsFor { id := 4, lo := 0x2FFFFF, hi := 0x400000, done := .claim 3 1 16 false 8 0 }
      { id := 3, lo := 0x200000, hi := 0x300000, done := .part [0] } = true ∧
    SweepJob.waitsFor { id := 4, lo := 0x300000, hi := 0x400000, done := .claim 3 1 16 true 0 0 }
      { id := 3, lo := 0x200000, hi := 0x300000, done := .claim 3 1 16 false 0 0 } = false ∧
    (∀ lo ∈ [1, 3, 7], let s := memState (.part []) 0 0
     s.on MC_SCRUB_CFG.EN = true ∧ s.rd MC_STATUS.TRAIN (stackOf 0) = 2 ∧ 0 < s.hbmBytes ∧ s.mem.upsets.get? 0 = none ∧ s.mem.upsets.get? 1 = none ∧
     0 ∉ s.mem.poison ∧ 0 < popc lo 36 ∧ (popc lo 36 ≤ 2 ↔ lo ≠ 7) ∧ s.rd MC_ECC_CTR.SCRUB_CORR 0 + 1 < 2 ^ MC_ECC_CTR.SCRUB_CORR.w - 1 ∧
     s.rd MC_ECC_CTR.UNCORR 0 + 1 < 2 ^ MC_ECC_CTR.UNCORR.w - 1) ∧
    ((setRegs up [(MC_SCRUB_CFG.EN, 0, 0)]).on MC_SCRUB_CFG.EN = false ∧ (l2State 0 0).mem.l2.get? 100 ≠ none ∧ sliceOf (bits 100 0 41) < 48 ∧
     bits 100 41 2 ≠ 3 ∧ up.present 3 0 = true ∧ up.present 0xC 0 = true) ∧
    (toSigned 8 104 < 105 ∧ 105 ≤ toSigned 8 105 ∧ 95 ≤ toSigned 8 95 ∧ up.pwr.monOff = false) ∧
    (∀ op ∈ [0, 1, 2], let s := l2State op 0
     s.winUp .l2 = true ∧ s.on L2_MAINT.BUSY = false ∧ s.rd L2_MAINT.OP = op ∧ (s.mem.l2.map (·.1)).Nodup ∧
     (s.mem.l2.get? 100).any (fun l => s.maintCovers 100 l) = true ∧ (l2State op 1).on L2_MAINT.BUSY = true ∧ s.on L2_MAINT.TALLY_EN = false ∧
     (setRegs (l2State op 1) [(L2_MAINT.TALLY_EN, 0, 1)]).on L2_MAINT.TALLY_EN = true) := by decide +kernel

theorem witness_MemorySystem_quiet : ∀ op ∈ [0, 1, 2], (l2State op 0).quietMem := by
  intro op h
  have h' : op = 0 ∨ op = 1 ∨ op = 2 := by simpa using h
  obtain rfl | rfl | rfl := h' <;> exact l2State_quiet _ _ (by decide +kernel) (by decide +kernel) (.inr (by decide +kernel)) (by decide +kernel)

/-- Device 0 of three, its manager, with port 0 in this state; device 1 has joined behind it, and mirror 2 is bound to it. -/
def meshState (st mgr : Nat) : State :=
  { setRegs (tickState 4 0) [(PXL_PORT.STATE, 0, st), (PXL_PORT.EN, 0, 1), (PXL_PORT.PEER, 0, 1), (PXL_STATUS.JOINED, 0, 7), (PXL_CFG.EXPECT, 0, 7),
      (PXL_STATUS.MANAGER_ID, 0, mgr), (GLB_DEVNUM.MANAGER, 0, if mgr = 0 then 1 else 0), (PXL_MIRROR.EN, 2, 1), (PXL_MIRROR.STATE, 2, 1),
      (PXL_MIRROR.HOME_DEV, 2, 1), (PXL_MIRROR.LOCAL_TALLY, 2, 4), (PXL_CFG.HB_TIMEOUT_US, 0, 500), (TLY_POOL.FREE, 0, 9), (PXL_STATUS.EPOCH, 0, 4),
      (PXL_CFG.REPLAY_LIMIT, 0, 4)] with mesh := { hb := [(1, 0)] } }

theorem witness_PortsTrainAndJoin :
    (∀ st ∈ [1, 2, 3, 4, 5], let s := meshState st 0
     s.rd PXL_PORT.STATE 0 = st ∧ s.on PXL_PORT.EN 0 = true ∧ s.portOpen 0 = decide (st = 2 ∨ st = 3) ∧ s.mesh.silent = [] ∧ s.dev = 0) ∧
    (let s := meshState 2 0
     peerOf s.dev 0 = 1 ∧ bit (s.rd PXL_CFG.EXPECT) 1 = true ∧ s.rd GLB_ID.FAMILY + 1 ≠ s.rd GLB_ID.FAMILY ∧ s.on GLB_DEVNUM.MANAGER = true ∧
     s.rd PXL_STATUS.MANAGER_ID = s.dev ∧ s.rd PXL_STATUS.EPOCH = 4 ∧ s.rd PXL_PORT.RETRAINS 0 + 1 < 2 ^ 48 - 1 ∧
     s.rd PXL_PORT.REPLAYS 0 + 1 < 2 ^ 48 - 1 ∧ ¬ ((s.mesh.replays.get? 0).getD 0 + 1 ≥ s.rd PXL_CFG.REPLAY_LIMIT) ∧
     ((({ s with mesh := { s.mesh with replays := [(0, 3)] } } : State).mesh.replays.get? 0).getD 0 + 1 ≥ s.rd PXL_CFG.REPLAY_LIMIT)) := by
  decide +kernel

theorem witness_MeshRoles :
    (∀ m ∈ [0, 1], let s := meshState 2 m
     s.mesh.sent = none ∧ s.peerUp 0 = true ∧ s.peerUp 1 = false ∧ peerOf s.dev 0 ∉ s.mesh.silent ∧ s.mesh.hb.get? 1 = some 0 ∧
     bit (s.rd PXL_STATUS.JOINED) 1 = true ∧ 1 ≠ s.dev ∧ s.dev < 3 ∧ 0 + s.rd PXL_CFG.HB_TIMEOUT_US * 1000 ≤ s.now ∧
     s.isSuccessor = decide (m = 1) ∧ popc (s.rd PXL_CFG.EXPECT) 3 = 3 ∧
     bit (s.rd PXL_STATUS.JOINED) s.dev = true ∧ s.mesh.told = none ∧ s.on GLB_DEVNUM.MANAGER = decide (m = 0) ∧ s.peerUp (portTo s.dev 1) = true ∧
     s.rd PXL_STATUS.EPOCH < 5 ∧ s.portOpen 0 = true) ∧
    (let s := setRegs (meshState 2 1) [(PXL_CFG.EXPECT, 0, 3)]
     popc (s.rd PXL_CFG.EXPECT) 3 = 2 ∧ s.isSuccessor = true ∧ 1 = s.rd PXL_STATUS.MANAGER_ID) ∧
    (let s := { meshState 2 1 with mesh := { hb := [(1, 0)], reports := [(2, 1)], silent := [1], sent := some 1000000 } }
     3 < 2 * ((bitList (s.rd PXL_CFG.EXPECT) 3).filter fun x => x = s.dev ∨ (x, 1) ∈ s.mesh.reports).length ∧ 1 ∈ s.mesh.silent ∧
     s.now < 1000000 + 100000 ∧ 0 + 100000 ≤ s.now) := by decide +kernel

theorem witness_MeshTraffic :
    (let s := meshState 2 1
     s.peerUp 0 = true ∧ s.on RST_STATUS.WARM_ACTIVE = false ∧ (setRegs s [(RST_STATUS.WARM_ACTIVE, 0, 1)]).on RST_STATUS.WARM_ACTIVE = true ∧
     s.sharedTally 3 = true ∧ (setRegs s [(FE_PART.TLY_COUNT, 0, 1)]).sharedTally 3 = false ∧ s.sharedMem 0x1000 8 = true ∧ s.sharedMem 0 0 = false ∧
     (s.physRead (s.dev * 2 ^ 48 + 0x1000) 8 0).2.2 = 0 ∧ (s.physWrite (s.dev * 2 ^ 48 + 0x1000) 0 (leBytes 8 7)).2 = 0 ∧ Atom.add ∈ atomOps ∧
     (∀ w ∈ s.tly.waits, w.who ≠ .remote 0 5) ∧ 0 < s.rd TLY_POOL.FREE ∧ s.rd PXL_PORT.VIOL 0 + 1 < 2 ^ 48 - 1) ∧
    (let s := meshState 2 1
     s.on PXL_MIRROR.EN 2 = true ∧ s.rd PXL_MIRROR.STATE 2 = 1 ∧ s.peerUp (portTo s.dev (s.rd PXL_MIRROR.HOME_DEV 2)) = true ∧
     s.rd PXL_MIRROR.STATE 3 ≠ 1 ∧ s.rd PXL_STATUS.MANAGER_ID = peerOf s.dev 0 ∧ s.tick.run = true ∧ s.tickSrc = 4 ∧ s.tick.rel = [] ∧
     s.on DBG_TRACE.TRACE_EN = false ∧ s.now < 2 ^ 64 ∧ s.tick.first = false ∧
     ¬ (s.now + s.rd FE_TICK_CFG.TOL_US * 1000 < s.tick.base + s.rd FE_TICK_CFG.PERIOD_US * 1000) ∧ s.rd FE_TICK_CTR.SKEW + 1 < 2 ^ 48 - 1 ∧
     s.ctxActive 5 = true ∧ bit (s.rd PXL_STATUS.JOINED) 2 = true ∧ 2 ≠ s.dev) := by decide +kernel

/-- A software source (0x600), a level source (2) and an edge source (0x20) in this state, claimed by target 5. -/
def intcState (st : Nat) : State :=
  setRegs up [(INTC_SRC.STATE, 0x600, st), (INTC_SRC.STATE, 2, st), (INTC_SRC.STATE, 0x20, st), (INTC_SRC.CLAIMANT, 0x600, 5), (INTC_SRC.CLAIMANT, 2, 1),
    (INTC_SRC.CLAIMANT, 0x20, 5), (INTC_SRC.HOST_MASK, 0x600, 8), (INTC_SRC.HOST_MASK, 0x20, 8)]

/-- Vector 9 holds two notifications since time 0, and so does Foreman hart 1. -/
def heldState (timer : Nat) : State :=
  { setRegs up [(INTC_MOD.TIMER_US, 9, timer), (INTC_FMOD.TIMER_US, 1, timer)] with
    irq := { held := [(9, (2, 0)), (2049, (2, 0))], pba := [7, 9] }, bus := { msixEn := [0], unmasked := [9] }, now := 5000 }

theorem witness_SourcesAndMessages :
    (srcIsLevel 2 = true ∧ up.levelCond 3 = false ∧ srcIsLevel 3 = true ∧ srcIsLevel 0x20 = false ∧ up.levelCond 2 = true) ∧
    (let s := intcState 1
     s.winUp .intc = true ∧ s.regs.sorted = true ∧ s.rd INTC_SRC.STATE 0x20 = 1 ∧ s.inMask 5 0x20 = true ∧ s.inMask 5 0x600 = true ∧
     (∀ k < 0x20, s.inMask 5 k = false)) ∧
    (let s := intcState 2
     s.rd INTC_SRC.STATE 0x20 = 2 ∧ s.rd INTC_SRC.CLAIMANT 0x20 = 5 ∧ s.rd INTC_SRC.CLAIMANT 2 < 2 ∧ 2 ≤ s.rd INTC_SRC.CLAIMANT 0x20 ∧
     s.rd INTC_SRC.STATE 0x21 ≠ 2 ∧ srcExists 0x20 = true ∧ (setRegs s [(RST_BOOT_STEP.STATE, 6, 1), (RST_BOOT_STEP.STATE, 7, 0)]).on RST_BOOT_STEP.STATE 6 = true ∧
     s.rd RST_BOOT_STEP.STATE 7 = 2) ∧
    (∀ t ∈ [0, 4, 6], let s := heldState t
     s.irq.held.get? 9 = some (2, 0) ∧ s.irq.held.get? 2049 = some (2, 0) ∧ s.on GLB_LINK.UP = true ∧ s.rd INTC_MOD.TIMER_US 9 = t ∧
     s.rd INTC_FMOD.TIMER_US 1 = t ∧ s.now = 5000 ∧ s.winUp .intc = true ∧ s.entryOpen 9 = true ∧ s.irq.held.get? 8 = none ∧ (s.lentTo 9).getD 0 = 0 ∧
     9 ∈ s.irq.pba ∧ 8 ∉ s.irq.pba ∧ (s.bus.msixEn.contains 0 && !s.bus.funcMask.contains 0) = true) ∧
    (let s := { heldState 4 with bus := {} }
     s.entryOpen 9 = false ∧ (setRegs s [(GLB_LINK.UP, 0, 0)]).on GLB_LINK.UP = false ∧
     s.rd GLB_LINK_DROP.COUNT + 1 < 2 ^ GLB_LINK_DROP.COUNT.w - 1) ∧
    (up.rd INTC_SW.SET 0 < 2 ^ 64 ∧ bit 1 0 = true ∧ up.srcPresent 0x600 = true ∧ up.srcUp 0x600 = true ∧ up.on INTC_SRC.ASSERTED 0x600 = false ∧
      up.rd INTC_SRC.STATE 0x600 = 0) := by decide +kernel

/-- The node on both buses in NMT state `st`, with this dictionary and this of the rest. -/
def canState (st : Nat) (l : List (Nat × Nat)) (o : Odm) : State :=
  { setRegs up [(ODM_CAN.RUN, 0, 1), (ODM_CAN.RUN, 1, 1), (ODM_NMT.STATE, 0, st), (ODM_NMT.NODE_ID, 0, 5), (FE_TICK_CFG.SRC, 0, 2)] with
    odm := { o with ent := l }, now := 3000000000 }

theorem witness_TheCanNodeRuns :
    (∀ st ∈ [0, 1, 2, 3], let s := canState st [] {}
     s.nodeUp = true ∧ s.canUp 0 = true ∧ s.canUp 1 = true ∧ (s.canRx 0 0).1 = true ∧ (s.canRx 0 0).2.rd ODM_NMT.STATE = st ∧
     (s.canRx 0 0x703).1 = true ∧ (s.canRx 0 0).2.rd ODM_NMT.NODE_ID = 5) ∧
    up.nodeUp = false ∧ ((canState 1 [] { rx := [(0x80, 1, 2999950000)] }).canRx 0 0x80).1 = false ∧
    (let s := setRegs (canState 2 [(odKey 0x2000 3, 1)] {}) [(RST_BOOT_CTL.ENABLED, 0, 1)]
     (s.canRx 0 0).1 = true ∧ (s.canRx 0 0).2.odVal 0x2000 3 = 1 ∧ (s.canRx 0 0).2.on RST_BOOT_CTL.ENABLED = true ∧
     (s.canRx 0 0).2.odStored.isNone = true ∧
     (({ s with odm := { s.odm with copies := [(1, [(odKey 0x1017 0, 200)])] } } : State).odStored.getD []).get? (odKey 0x1017 0) = some 200) := by decide +kernel

theorem witness_TheCanNodeRuns_services :
    (∀ at_ ∈ [0, 2999999999], let s := canState 2 [(odKey 0x1017 0, 100)] { hbAt := at_ }
     s.nodeUp = true ∧ s.rd ODM_NMT.STATE ≠ 0 ∧ s.odVal 0x1017 0 = 100) ∧
    (∀ t0 ∈ [0, 2999999999], ∀ b ∈ [0, 1], let s := canState 2 [(odKey 0x1016 1, 0x30064), (odKey 0x1029 1, b)] { seen := [(1, t0)] }
     s.nodeUp = true ∧ s.odm.seen.get? 1 = some t0 ∧ s.odVal 0x1016 1 % 0x10000 = 100 ∧ bits (s.odVal 0x1016 1) 16 7 = 3 ∧ s.odVal 0x1029 1 = b) ∧
    (∀ g ∈ [false, true], ∀ t0 ∈ [0, 3000000000], let s := canState 1 [] { sof := some (t0, g) }
     (s.canRx 0 (s.odVal 0x1005 0 % 0x800)).1 = true ∧ (s.canRx 0 (s.odVal 0x1005 0 % 0x800)).2.rd FE_TICK_CFG.SRC = 2 ∧
     s.odm.sof = some (t0, g) ∧ s.syncDelay * 1000 ≤ 3000000000 ∧ 0 < s.syncDelay) ∧
    (∀ l ∈ [[(odKey 0x1005 0, 0x40000080), (odKey 0x1006 0, 1000)], [(odKey 0x1005 0, 0x40000080), (odKey 0x1006 0, 0)]], let s := canState 1 l {}
     s.nodeUp = true ∧ bit (s.odVal 0x1005 0) 30 = true ∧ s.rd FE_TICK_STATUS.SRC_ACT ≠ 2 ∧ s.odVal 0x2002 2 ≠ 1) ∧
    (∀ t0 ∈ [none, some 2999999999, some 0], let s := { canState 2 [(odKey 0x1015 0, 10)] { emcyAt := t0 } with emcyQ := [(0x1000, 2, 3)] }
     s.emcyQ = (0x1000, 2, 3) :: [] ∧ s.nodeUp = true ∧ s.odVal 0x1015 0 = 10) ∧
    (∀ b ∈ [0, 2], let s := setRegs (canState 2 [] {}) [(ODM_CAN.BUS, 0, b)]
     s.nodeUp = true ∧ s.on ODM_CAN.RUN 0 = true ∧ s.rd ODM_CAN.BUS 0 = b ∧ s.canUp 1 = true ∧ s.rd ODM_CAN.BUS_OFF 0 + 1 < 2 ^ 48 - 1) := by
  decide +kernel

theorem witness_TheDictionaryIsServed :
    (let s := canState 2 [] {}
     (s.odFind 0x1017 9).2 = none ∧ (∀ e ∈ odTable, e.idx ≠ 0x1100) ∧ (s.odFind 0x1000 0).2.any (fun e => e.acc ≤ 1) = true ∧
     (s.odFind 0x1017 0).2.any (fun e => e.keep && e.idx != 0x2300 && e.idx != 0x1016 && e.idx != 0x2003 && e.size == 2 && s.odRange e 100 == 0) = true ∧
     (s.odFind 0x2300 1).2.any (fun e => 2 ≤ e.acc && s.odRange e 1 != 0) = true ∧ (∃ e ∈ odTable, e.acc = 2) ∧
     s.on RST_BOOT_CTL.RECOVERY = false ∧ s.odWaits 0x1017 0 = false ∧ s.odm.waiting = [] ∧ (s.canRx 0 0x603).1 = true ∧
     s.odm.sess.get? 3 = none ∧ s.odm.sess.length < 4 ∧ s.odm.saving = none) ∧
    (let s := setRegs (canState 2 [] {}) [(RST_STATUS.WARM_ACTIVE, 0, 1)]
     (s.canRx 0 0x603).1 = true ∧ (s.canRx 0 0x603).2.odWaits 0x2400 1 = true ∧ s.odm.sess.get? 3 = none ∧ s.odm.sess.length < 4) ∧
    (let s := canState 2 [] { sess := [(3, (0, 1))] }
     s.odm.sess.get? 3 = some (0, 1) ∧ 1 + 1000000000 ≤ s.now ∧ s.now < 2999999999 + 1000000000) ∧
    (let s := canState 2 [] { sess := [(1, (0, 1)), (2, (0, 1)), (4, (0, 1)), (5, (0, 1))] }
     s.odm.sess.get? 3 = none ∧ 4 ≤ s.odm.sess.length) ∧
    ((canState 2 [] { saving := some [(1, 2)], mbx := true }).odm.saving = some [(1, 2)]) ∧
    (∀ op ∈ [0, 1, 2, 3], ∀ b ∈ [0, 1], let s := setRegs (canState 2 [] {}) [(ODM_MBX_CMD.OP, 0, op), (ODM_MBX_CMD.INDEX, 0, 0x1017), (ODM_MBX_CTL.BUSY, 0, b),
        (ODM_MBX_CMD.LENGTH, 0, 2)]
     s.winUp .odm = true ∧ s.odWaits (s.rd ODM_MBX_CMD.INDEX) (s.rd ODM_MBX_CMD.SUB) = false ∧ s.rd ODM_MBX_CMD.OP = op ∧
     s.on ODM_MBX_CTL.BUSY = decide (b = 1) ∧ s.rd ODM_MBX_CMD.INDEX ≠ 0x1010 ∧ s.rd ODM_MBX_CMD.INDEX ≠ 0x1011) ∧
    (let s := canState 2 [(odKey 0x1400 1, 0x205), (odKey 0x1600 0, 1), (odKey 0x1600 1, 0x23000110), (odKey 0x1800 1, 0x180)] {}
     s.on ODM_NMT.RECOVERY = false ∧ bit (s.odVal 0x1800 1) 31 = false ∧ (s.canRx 0 (s.odVal 0x1400 1 % 0x800)).1 = true ∧
     (let u := (s.canRx 0 (s.odVal 0x1400 1 % 0x800)).2
      u.rd ODM_NMT.STATE = 2 ∧ u.on ODM_NMT.RECOVERY = false ∧ bit (u.odVal 0x1400 1) 31 = false ∧ mapBytes (u.mapping 0x1600) = 2 ∧
      (∀ p ∈ State.rpdoVals [200, 0] (u.mapping 0x1600) 0, u.odRange p.1 (ofBytes p.2) = 0) ∧
      (∃ p ∈ State.rpdoVals [1, 0] (u.mapping 0x1600) 0, u.odRange p.1 (ofBytes p.2) ≠ 0) ∧ u.rd ODM_CTR.RPDO_REJECT + 1 < 2 ^ 48 - 1)) := by
  decide +kernel

/-- The start in which the bring-up steps below `n` are DONE, step `n` has this state since time 0, and 9 ms have passed. -/
def bootState (n st : Nat) : State :=
  { setRegs State.reset (((List.range (n - 1)).map fun k => (RST_BOOT_STEP.STATE, k + 1, 2)) ++ [(RST_BOOT_STEP.STATE, n, st)]) with
    boot := { por := false, perst := false, latched := true }, now := 9000000 }

theorem witness_BringUpRunsInOrder :
    (∀ n ∈ [2, 3, 4, 5, 6, 7, 8, 9, 10], let s := bootState n 0
     s.rd RST_BOOT_STEP.STATE 1 = 2 ∧ s.rd RST_BOOT_STEP.STATE (n - 1) = 2 ∧ s.rd RST_BOOT_STEP.STATE n = 0 ∧
     (∀ k < 11, s.rd RST_BOOT_STEP.STATE k ≠ 1 ∧ s.rd RST_BOOT_STEP.STATE k < 3) ∧ s.on RST_BOOT_CTL.RECOVERY = false ∧ s.winUp .rst = true ∧
     (let t := bootState n 1
      t.rd RST_BOOT_STEP.STATE n = 1 ∧ (∀ k < n, t.rd RST_BOOT_STEP.STATE k ≠ 1) ∧ (t.boot.since + stepLimit n ≤ t.now ↔ n = 2 ∨ n = 10))) ∧
    (let s := bootState 1 0
     s.rd RST_BOOT_STEP.STATE 1 ≠ 2 ∧ s.boot.perst = false ∧ s.boot.por = false ∧ s.boot.hold = false) ∧
    (let s := bootState 10 1
     s.boot.err = 0 ∧ (∀ x ∈ s.saf.causes, x = 0 ∨ x = 5) ∧ (∀ k < 3, s.rd SAF_INC.OPEN k = 0) ∧ s.rd SAF_ROUTED.HIT = 0 ∧ s.saf.routedLevel = [] ∧
     s.saf.safeWait = false ∧ (setRegs s [(RST_BOOT_CTL.RECOVERY, 0, 1)]).on RST_BOOT_CTL.RECOVERY = true) ∧
    (State.reset.boot.perst = true ∧ State.reset.boot.latched = false) := by decide +kernel

theorem witness_BringUpStepsDoTheirWork :
    (let s := bootState 2 0
     s.boot.fuses.crcOk = true ∧ s.flashOk false = true ∧ s.flashOk true = false ∧ ({ crcOk := false } : Fuses).crcOk = false) ∧
    (let s := bootState 3 0
     (∀ q < 4, 12 ≤ (bitList (s.boot.fuses.good.getD q 0) 13).length) ∧ s.boot.rcd.repairs = [] ∧
     ∃ q < 4, (bitList (({ good := [0x7FF] } : Fuses).good.getD q 0) 13).length < 12) ∧
    (∀ j < 8, ((bootState 4 0).licSlot j).1 = 0) ∧
    (let s := setRegs { bootState 6 0 with cap := up.cap } [(RST_BOOT_FW.FW_PA, 0, 3)]
     (s.rd RST_BOOT_FW.FW_PA + 1) * 2 ^ 26 ≤ s.hbmBytes ∧ (bootState 6 0).hbmBytes < ((bootState 6 0).rd RST_BOOT_FW.FW_PA + 1) * 2 ^ 26) ∧
    (let s := { bootState 8 0 with cap := up.cap }
     s.inTable (unitClass 1) 3 = true ∧ s.inTable (unitClass 0) 47 = true) := by decide +kernel

/-- The flash holds this licence in slot 0 and is erased elsewhere; no licence can be written out, for the key is a constant of Config. -/
def licState (b : List Byte) : State :=
  { bootState 4 0 with boot := { (bootState 4 0).boot with flash := Memory.write [] 0x10000 (b.map fun x => ~~~x) } }

theorem write_get (l : List Byte) : ∀ (m : Memory) (a i : Nat), m.wf = true → i < l.length → (m.write a l).get (a + i) = l.getD i 0 := by
  induction l with
  | nil => intro m a i _ h; simp at h
  | cons b r ih =>
    intro m a i hm h
    rw [Memory.write]
    cases i with
    | zero =>
      show ((m.set a b).write (a + 1) r).get a = b
      rw [Memory.get_write_other (a + 1) a r (Memory.wf_set a b hm) (by omega), Memory.get_set a a b hm, if_pos rfl]
    | succ i => rw [show a + (i + 1) = a + 1 + i by omega, ih _ _ i (Memory.wf_set a b hm) (by simpa using h)]; simp

theorem read_map (m : Memory) : ∀ (n a : Nat), m.read a n = (List.range n).map fun i => m.get (a + i) := by
  intro n
  induction n with
  | zero => intro a; rfl
  | succ n ih =>
    intro a
    rw [Memory.read, ih, List.range_succ_eq_map, List.map_cons, List.map_map]
    congr 1
    apply List.map_congr_left
    intro i _
    show m.get (a + 1 + i) = m.get (a + (i + 1))
    congr 1; omega

/-- A licence that its key signed is accepted: every clause of LICENCE_CHECK is met in slot 0, and no other slot holds anything. -/
theorem witness_BringUpStepsDoTheirWork_licence (b : List Byte) (hl : b.length = 512) (he : erased b = false)
    (hf : ¬ (field b 0 4 ≠ 0x43494C53 ∨ field b 4 2 ≠ 1 ∨ field b 6 1 > 2 ∨ field b 7 1 > 3 ∨ field b 0x40 384 ≠ 0))
    (hu : field b 8 16 = 0) (hv : edVerify (Config.licenceKey (field b 7 1)) (b.take 0x1C0) (b.drop 0x1C0) = true) :
    (licState b).flashOk false = true ∧ ((licState b).licSlot 0).1 = 2 ∧ ∀ j < 8, ((licState b).licSlot j).1 = 2 → j = 0 := by
  have hw : Memory.wf [] = true := rfl
  have h0 : (licState b).flashRead 0x10000 512 = b := by
    show (Memory.read (Memory.write [] 0x10000 (b.map fun x => ~~~x)) 0x10000 512).map (fun x => ~~~x) = b
    rw [read_map, List.map_map]
    apply List.ext_getElem
    · simp [hl]
    · intro i h1 h2
      simp only [List.getElem_map, List.getElem_range, Function.comp]
      rw [write_get _ _ _ _ hw (by simpa using h2)]
      simp [List.getD, h2]
  refine ⟨rfl, ?_, fun j hj h2 => ?_⟩
  · show (State.licSlot (licState b) 0).1 = 2
    unfold State.licSlot
    rw [show 0x10000 + 0x200 * 0 = 0x10000 from rfl, h0]
    have hr : bit (licState b).boot.fuses.revoked (field b 7 1) = false := by
      show bit 0 (field b 7 1) = false
      simp [bit]
    have hu' : field b 8 16 = (licState b).boot.fuses.uid := hu
    simp [he, hf, hr, hu', hv]
  · by_cases hj0 : j = 0
    · exact hj0
    · exfalso
      have hr : (licState b).flashRead (0x10000 + 0x200 * j) 512 = List.replicate 512 0xFF := by
        show (Memory.read (Memory.write [] 0x10000 (b.map fun x => ~~~x)) (0x10000 + 0x200 * j) 512).map (fun x => ~~~x) = _
        rw [read_map, List.map_map, List.eq_replicate_iff]
        refine ⟨by simp, fun x hx => ?_⟩
        obtain ⟨i, hi, rfl⟩ := List.mem_map.1 hx
        show ~~~(Memory.get (Memory.write [] 0x10000 (b.map fun x => ~~~x)) (0x10000 + 0x200 * j + i)) = 0xFF
        rw [Memory.get_write_other _ _ _ hw (.inr (by simp [hl]; omega))]
        show ~~~(0 : Byte) = 0xFF
        decide
      have he' : erased (List.replicate 512 (0xFF : Byte)) = true := by decide +kernel
      generalize List.replicate 512 (0xFF : Byte) = z at hr he'
      unfold State.licSlot at h2
      rw [hr] at h2
      simp [he'] at h2

/-- The port's registers are set for this operation on 16 bytes of the licence partition, or on a sector of it. -/
def flashState (op busy addr len : Nat) : State :=
  setRegs up [(RST_FLASH.OP, 0, op), (RST_FLASH.BUSY, 0, busy), (RST_FLASH.ADDR, 0, addr), (RST_FLASH.LEN, 0, len)]

theorem witness_FlashPortWorks :
    (∀ op ∈ [0, 1, 2], let s := flashState op 0 0x11000 16
     let n := if op = 2 then 4096 else 16
     s.winUp .rst = true ∧ s.rd RST_FLASH.OP = op ∧ s.on RST_FLASH.BUSY = false ∧ (flashState op 1 0x11000 16).on RST_FLASH.BUSY = true ∧
     0 < n ∧ n ≤ 4096 ∧ s.rd RST_FLASH.LEN = 16 ∧ s.rd RST_FLASH.ADDR % 4096 = 0 ∧ s.boot.answers = true ∧
     s.rd RST_FLASH.ADDR + n ≤ s.boot.mib * 0x100000 ∧ s.flashMay (flashPart 0x11000) = true ∧ s.flashMay (flashPart (0x11000 + n - 1)) = true ∧
     flashPart 0x11000 ≠ 2 ∧ flashPart 0x11000 ≠ 5 ∧ s.flashMay (flashPart 0) = false ∧ s.boot.flash.wf = true) ∧
    (flashState 2 0 0x11008 16).rd RST_FLASH.ADDR % 4096 ≠ 0 ∧ (flashState 1 0 0x11000 0).rd RST_FLASH.LEN = 0 ∧
    up.boot.mib * 0x100000 < 0x4000000 + 16 := by decide +kernel

theorem witness_FlashPortWorks_buffer : (flashState 1 0 0x11000 16).boot.buf.length = 4096 := List.length_replicate

theorem witness_FullResetsKeepTheAlwaysOn :
    (∀ s ∈ [bootState 7 1, work], s.boot.por = false ∧ s.boot.perst = false ∧ s.boot.hold = false ∧ s.winUp .rst = true ∧ s.saf.wantFull = false) ∧
    (let s := setRegs (bootState 7 1) [(RST_BOOT_CTL.CUR_STEP, 0, 7)]
     s.rd RST_BOOT_CTL.CUR_STEP = 7 ∧ s.on RST_BOOT_CTL.ENABLED = false ∧ s.on RST_BOOT_CTL.RECOVERY = false) ∧
    (State.reset.boot.por = true ∧ State.reset.boot.hold = false ∧ State.reset.boot.perst = true ∧ State.reset.winUp .rst = false) ∧
    (∃ F ∈ LDG_TIME.fields, F.among (LDG_HEAD.fields ++ LDG_TIME.fields) = true) ∧
    (fldOf FE_PART.CLUSTERS.fid = some FE_PART.CLUSTERS ∧ FE_PART.CLUSTERS.acc = .rw ∧ FE_PART.CLUSTERS.ctr = false ∧ evFld FE_PART.CLUSTERS = false ∧
      FE_PART.CLUSTERS.among (keptFull ++ CFG.fields ++ [PXL_CFG.EXPECT]) = false) := by decide +kernel

/-- A warm reset runs on a device with work and is at this step. -/
def warmState (k : Nat) (dead : Bool) : State :=
  { setRegs work [(RST_STATUS.WARM_ACTIVE, 0, 1), (RST_STATUS.WARM_STEP, 0, k), (SAF_INC.LEVEL, 2, 4)] with saf := { wantFull := dead, causes := [] } }

theorem witness_WarmResetRunsItsSteps :
    (up.winUp .rst = true ∧ up.on RST_BOOT_CTL.ENABLED = true ∧ up.on RST_STATUS.WARM_ACTIVE = false ∧ up.rd PWR_STATUS.STATE = 0 ∧
      up.saf.wantWarm = false ∧ (setRegs (meshState 2 0) [(RST_BLOCK.BUSY, 1, 1)]).rd PXL_STATUS.JOINED ≠ 2 ^ up.dev ∧
      (meshState 2 0).on GLB_DEVNUM.MANAGER = true) ∧
    (∀ k ∈ [1, 2, 3, 4, 5, 6, 7, 8, 9], let s := warmState k false
     s.on RST_STATUS.WARM_ACTIVE = true ∧ s.saf.wantFull = false ∧ s.rd RST_STATUS.WARM_STEP = k ∧ s.rd SAF_INC.LEVEL 2 ≤ 5 ∧ s.tds = [] ∧
     (∀ p < 4, (s.pipe p).pend = none ∧ (s.pipe p).applied = none) ∧ s.rd FE_CTX.STATE 5 = 1 ∧ s.rd FE_Q.CTX 7 = 5 ∧ s.saf.noClean = false ∧
     s.foremanOk = true ∧ s.saf.incUnit = none ∧ s.saf.safeWait = false ∧ s.odm.waiting = [] ∧ (∀ c ∈ s.saf.causes, c = 5) ∧ s.rd SAF_ROUTED.HIT = 0 ∧ s.saf.routedLevel = []) ∧
    (warmState 1 true).saf.wantFull = true ∧ (setRegs (l2State 0 0) [(RST_STATUS.WARM_ACTIVE, 0, 1), (RST_STATUS.WARM_STEP, 0, 4)]).rd RST_STATUS.WARM_STEP = 4 ∧
    ((l2State 0 0).mem.l2.map (·.1)).Nodup := by decide +kernel

/-- A reset of Loom 2 by slot 1 is in this phase, and a Draft of context 5 is active there. -/
def rstState (ph : Nat) : State :=
  { setRegs work [(RST_BLOCK.BUSY, 1, 1)] with rsts := [{ typ := 2, unit := 2, slot := some 1, since := 0, phase := ph }], now := 900000000 }

theorem witness_NarrowResets :
    (work.partOn 0 = true ∧ bit (work.rd RST_STATUS.PART_ACTIVE) 0 = false ∧ popc (work.rd RST_STATUS.PART_ACTIVE) 8 < 2 ∧
      work.on RST_STATUS.WARM_ACTIVE = false ∧ work.rd PWR_STATUS.STATE = 0 ∧ work.winUp .rst = true ∧ work.saf.wantPart = [] ∧
      work.partOn 1 = false ∧ work.rd FE_CTX.STATE 5 = 1 ∧ work.rd FE_CTX.PART 5 = 0) ∧
    (let s := setRegs work [(RST_STATUS.PART_ACTIVE, 0, 1)]
     bit (s.rd RST_STATUS.PART_ACTIVE) 0 = true ∧ s.partBusy 0 = false ∧ (setRegs (rstState 0) [(FE_PART.LOOMS, 0, 4)]).partBusy 0 = true) ∧
    (let s := rstState 0
     s.on RST_BLOCK.BUSY 1 = true ∧ s.on RST_BLOCK.BUSY 0 = false ∧ s.blkPresent 2 2 = true ∧ s.blkPresent 2 40 = false ∧ s.blkPresent 4 0 = true ∧
     s.blkTaken 2 2 0 = true ∧ s.blkTaken 2 3 0 = false ∧ s.rsts.find? (fun r => r.isFor 2 3 0) = none ∧
     (s.rsts.find? fun r => r.isFor 2 2 0).any (fun r => r.phase == 0 && decide (r.since + s.rd RST_CFG.IDLE_US * 1000 ≤ s.now) && !r.test) = true ∧
     s.blkIdle 2 2 0 = true) ∧
    (let s := { rstState 0 with rsts := [{ typ := 3, since := 0 }], fe := { work.fe with copies := [(0, (7, 0, 5))] } }
     s.blkIdle 3 0 0 = false ∧ s.unitCtxs 3 0 0 = [5] ∧ (s.rsts.find? fun r => r.isFor 3 0 0).isSome = true) ∧
    (let s := { setRegs work [(GLB_VF_MAP.CTX_BASE, 1, 5), (GLB_VF_MAP.CTX_COUNT, 1, 2)] with bus := { vfEn := true, numVfs := 2, msixEn := [0, 1] } }
     s.bus.vfEn = true ∧ 1 ≤ s.bus.numVfs ∧ s.pwr.entry = none ∧ s.rd GLB_VF_MAP.CTX_BASE 1 ≤ 5 ∧
     5 < s.rd GLB_VF_MAP.CTX_BASE 1 + s.rd GLB_VF_MAP.CTX_COUNT 1 ∧ s.pats.slots = [] ∧ s.boot.por = false ∧ s.boot.perst = false ∧ s.boot.hold = false) := by
  decide +kernel

/-- The device in this power state, with an entry of this kind that has begun, and with every wake source enabled. -/
def pwrState (st : Nat) (e : Option (Nat × Nat)) (ask : Bool) : State :=
  { setRegs up [(PWR_STATUS.STATE, 0, st), (PWR_WAKE_EN.CAN, 0, 1), (PWR_WAKE_EN.PEXLINK, 0, 1), (PWR_WAKE_EN.SYNC_IN, 0, 1), (PWR_WAKE_EN.GPIO, 0, 3),
      (SAF_INC.LEVEL, 2, 4), (PXL_STATUS.JOINED, 0, 1)] with pwr := { entry := e, ask := ask, woken := [(3, 0)] }, now := 100000 }

theorem witness_PowerStatesEnterAndWake :
    (up.winUp .rst = true ∧ (setRegs up [(RST_BOOT_CTL.ENABLED, 0, 0)]).on RST_BOOT_CTL.ENABLED = false ∧ (pwrState 0 none false).allIdle = true ∧
      (pwrState 0 none false).rd PXL_STATUS.JOINED = 2 ^ (pwrState 0 none false).dev ∧
      (setRegs (pwrState 0 none false) [(PXL_STATUS.JOINED, 0, 3)]).rd PXL_STATUS.JOINED ≠ 2 ^ up.dev ∧ shader.sh.grps ≠ []) ∧
    (∀ k ∈ [1, 2, 3], ∀ a ∈ [false, true], (pwrState 0 (some (k, 0)) a).pwr.entry = some (k, 0) ∧ (pwrState 0 (some (k, 0)) a).pwr.ask = a ∧
      (pwrState 0 (some (k, 0)) a).on DBG_TRACE.TRACE_EN = false) ∧
    (∀ st ∈ [0, 1, 2], let s := pwrState st none true
     s.pwr.off = false ∧ s.rd PWR_STATUS.STATE = st ∧ (∀ src < 4, s.wakeEn src = true) ∧ (setRegs s [(PWR_WAKE_EN.CAN, 0, 0)]).wakeEn 1 = false ∧ s.rd SAF_INC.LEVEL 2 ≤ 5 ∧
     s.on PWR_WAKE_EN.CAN = true ∧ s.winUp .rst = true ∧ bit (s.rd PWR_WAKE_EN.GPIO) 1 = true ∧ bit (s.rd GLB_GPIO.DIR) 1 = false ∧
     bit (s.rd GLB_GPIO.IN) 1 = false ∧ bit (s.rd GLB_GPIO.FALL) 1 = false ∧ s.on RST_BOOT_CTL.ENABLED = true) ∧
    domainOf (Blk.scl 3).base = some 0 ∧ domainOf (Blk.loom 3).base = some 5 ∧ up.unitThere (Blk.scl 3).base = true ∧ State.reset.unitThere (Blk.scl 3).base = false ∧
    (setRegs work [(FE_PART.CLUSTERS, 0, 8)]).gatedUnit (Blk.scl 3).base = none ∧ work.gatedUnit (Blk.scl 3).base = some 19 ∧ work.rd PWR_STATUS.STATE 0 = 0 ∧
    (let s := pwrState 1 none false
     s.pwr.woken.get? 3 = some 0 ∧ 0 + 100000 ≤ s.now ∧ s.pwr.woken.get? 2 = none ∧ (s.pwr.woken.get? 2).isNone = true ∧
     s.rd PWR_CTR.DOMAIN_WAKES + 1 < 2 ^ PWR_CTR.DOMAIN_WAKES.w - 1) := by decide +kernel

theorem witness_FaultsAreContained :
    (up.coreUp 47 3 = true ∧ up.coreUp 48 0 = false ∧ (∀ k < 3, up.rd SAF_INC.OPEN k = 0) ∧ up.saf.l0 = [] ∧ up.on SAF_INC.OPEN 2 = false) ∧
    (up.rd SAF_CTR.L0 + 1 < 2 ^ SAF_CTR.L0.w - 1) ∧
    (let s := { setRegs shader [(LOOM_STATUS.BUSY, 2, 1)] with
       crd := { batches := [(0, { rtu := some 47, rays := [] })] }, fe := { shader.fe with copies := [(0, (7, 0, 5))] } }
     s.present 1 47 = true ∧ (∃ p ∈ s.sh.grps, clusterOf p.1 = 47) ∧ s.present 3 2 = true ∧ s.on LOOM_STATUS.BUSY 2 = true ∧
     s.on LOOM_STATUS.WAITING 2 = false ∧ s.present 2 47 = true ∧ s.present 8 0 = true ∧ s.prsCtxs ≠ [] ∧ s.unitCtxs 0 47 3 = [5] ∧
     s.rd FE_CTX.STATE 5 = 1 ∧ up.sh.grps = []) ∧
    (let s := { setRegs work [(SAF_INC.OPEN, 0, 1), (SAF_CFG.DEG_MASK, 0, 2)] with now := 1000000 }
     s.on SAF_INC.OPEN 0 = true ∧ s.rd SAF_INC.DETECT_TIME 0 + 1000000 ≤ s.now ∧ s.saf.overrun.contains (s.rd SAF_INC.INCIDENT 0) = false ∧
     bit (s.rd SAF_CFG.DEG_MASK) 1 = true ∧ up.on SAF_INC.OPEN 0 = false) ∧
    (∀ a ∈ [0, 1, 2, 3], let s := setRegs work [(SAF_CFG.SAFE_ACTION, 0, a), (SAF_CFG.SAFE_PARTS, 0, 1)]
     s.on SAF_STATUS.SAFE_REQ = false ∧ s.boot.por = false ∧ s.rd SAF_CFG.SAFE_ACTION = a ∧ s.on RST_BOOT_CTL.ENABLED = true ∧
     s.on RST_STATUS.WARM_ACTIVE = false ∧ s.rd FE_CTX.STATE 5 = 1 ∧ bit (s.rd SAF_CFG.SAFE_PARTS) (s.rd FE_CTX.PART 5) = true ∧
     s.on SAF_INC.OPEN 2 = false) ∧
    (let s := { setRegs work [(SAF_STATUS.SAFE_REQ, 0, 1)] with saf := { causes := [4] } }
     s.on SAF_STATUS.SAFE_REQ = true ∧ (∀ c ∈ s.saf.causes, c = 4) ∧ s.rd SAF_ROUTED.HIT = 0 ∧ s.saf.routedLevel = []) := by decide +kernel

theorem witness_AssayerTestsAndMeasures :
    (∀ tr ∈ [[], [(64 * 0 + 13, [5, 6])]], let t : Test := { typ := 0, unit := 13, trigger := 1, inc := 0, since := 0 }
     let a : Asy := { running := some t, queue := [t], transients := tr }
     let s := setRegs { up with asy := a, cap := { up.cap with ents := up.cap.ents ++ [⟨0x10, false, 4, 15⟩] } } [(LDG_TIME.OPSEC, 0, 90000)]
     s.asy.running = some t ∧ s.asy.queue = t :: [] ∧ s.testReady t = false ∧ ({ s with asy := { a with running := none } } : State).testReady t = true ∧
     s.inTable 0x10 (13 / 12) = true ∧ up.inTable 0x10 1 = false ∧ s.rd ASY_CTR.TESTS + 1 < 2 ^ ASY_CTR.TESTS.w - 1 ∧
     s.rd ASY_CTR.TRANSIENT + 1 < 2 ^ ASY_CTR.TRANSIENT.w - 1) ∧
    (let s := setRegs up [(LDG_TIME.OPSEC, 0, 90000)]
     s.asy.lastMeas + 86400 ≤ s.rd LDG_TIME.OPSEC ∧ s.on DBG_TRACE.TRACE_EN = false ∧ up.rd LDG_TIME.OPSEC < up.asy.lastMeas + 86400 ∧ up.pwr.bump = [] ∧
     s.on ASY_STATUS.EOL = false ∧ (setRegs s [(ASY_STATUS.EOL, 0, 1)]).on ASY_STATUS.EOL = true) := by decide +kernel

/-- The Ledger with these waiting records, this ring, HEAD at `head`, and frozen by the PF where `fz` is 1. -/
def ldgState (wait : List LRec) (ring : List LEnt) (head fz gap : Nat) : State :=
  { setRegs up [(LDG_HEAD.OFFSET, 0, head), (LDG_STATUS.FROZEN, 0, fz)] with
    ldg := { wait := wait, ring := ring, gapLost := gap, fzSev := [0, 0, 0, 0] }, now := 3000000000 }

/-- A record of type 0x20 with a body of 16 bytes, of the fault collection unit or of Foreman B. -/
def ldgRec (fcu : Bool) : LRec := { typ := 0x20, sev := 1, fcu := fcu, time := 7, body := leBytes 16 5 }

/-- The same record in the ring. -/
def ldgEnt : LEnt := { off := 0, typ := 0x20, len := 5, flags := 1, rep := 1, seq := 0, opsec := 0, pcyc := 0, time := 3, body := leBytes 16 5, changed := 0 }

theorem witness_LedgerWork :
    ((∀ r ∈ State.reset.ldg.wait, r.fcu = false ∧ State.reset.foremanB = false) ∧ up.foremanB = true ∧ (ldgRec true).fcu = true ∧
      (ldgRec false).time = (ldgRec true).time) ∧
    (∀ fcu ∈ [false, true], ∀ head ∈ [0, 0x3FFF0], ∀ gap ∈ [0, 4], let s := ldgState [ldgRec fcu] [] head 0 gap
     s.ldg.wait = [ldgRec fcu] ∧ s.on LDG_STATUS.FROZEN = false ∧ s.ldgMerges (ldgRec fcu) = false ∧ s.ldg.gapLost = gap ∧
     s.rd LDG_HEAD.OFFSET < ldgBytes ∧ s.rd LDG_HEAD.OFFSET % 8 = 0 ∧ (ldgRec fcu).body.length ≤ 1000 ∧
     (ldgBytes < s.rd LDG_HEAD.OFFSET + 40 ↔ head = 0x3FFF0) ∧ s.ldg.bytes.wf = true ∧ s.rd LDG_CTR.RECORDS + 1 < 2 ^ LDG_CTR.RECORDS.w - 1) ∧
    (let s := ldgState [ldgRec false] [ldgEnt] 40 0 0
     s.ldgMerges (ldgRec false) = true ∧ s.ldg.ring.getLast? = some ldgEnt ∧ s.nextMirror false = some ldgEnt ∧
     (ldgState [] [] 0 0 0).nextMirror false = none) ∧
    (let s := ldgState [ldgRec false] [ldgEnt] 40 1 0
     s.on LDG_STATUS.FROZEN = true ∧ s.rd LDG_STATUS.OWNER = 0 ∧ s.winUp .ldg = true ∧ s.ldg.fzTypes.length ≤ 16 ∧ s.ldg.fzSev.length = 4 ∧
     s.rd LDG_HEAD.OFFSET + 40 ≤ ldgBytes ∧ (∀ e, some ldgEnt = some e → e.typ ≠ 2) ∧ s.ldg.fzSince + s.rd LDG_CFG.FREEZE_MS * 1000000 ≤ s.now ∧
     s.rd LDG_CTR.MISSED + 1 < 2 ^ LDG_CTR.MISSED.w - 1) := by
  refine ⟨by decide +kernel, by decide +kernel, by decide +kernel, ?_⟩
  refine ⟨by decide +kernel, by decide +kernel, by decide +kernel, by decide +kernel, by decide +kernel, by decide +kernel, ?_, by decide +kernel,
    by decide +kernel⟩
  intro e h
  obtain rfl := Option.some.inj h
  decide

/-- The group of `shader` in a kernel with debugging. -/
def dbgState (f : Grp → Grp) : State :=
  let s := shaderWith f
  setRegs { s with sh := { s.sh with disps := s.sh.disps.map fun d => (d.1, { d.2 with kd := { d.2.kd with flags := 12 } }) } }
    [(DBG_HALT.CLUSTER, 0, 47), (DBG_HALT.CORE, 0, 3), (DBG_HALT.SLOT, 0, 47)]

theorem witness_DebuggerHaltsGroups :
    (let s := dbgState fun x => x
     s.winUp .dbg = true ∧ (47 * 4 + 3) * 48 + 47 = 9215 ∧ (s.sh.grps.get? 9215).any (fun x => x.stepping == 0 && !x.halted && !x.ended) = true ∧
     s.present 1 47 = true ∧ s.present 1 48 = false ∧ s.debugGrp 9215 = true ∧ shader.debugGrp 9215 = false ∧ s.sh.grps.get? 9214 = none ∧
     (∃ d ∈ s.sh.disps, d.2.ctx = 5 ∧ d.2.kd.debug = true) ∧ (∀ d ∈ shader.sh.disps, d.2.ctx = 5 → d.2.kd.debug = false) ∧ s.dbgGroup = 9215) ∧
    (((dbgState fun x => { x with stepping := 2 }).sh.grps.get? 9215).any (fun x => x.stepping != 0 && decide (x.wait = .none ∧ x.rets = [] ∧ x.ended = false)) = true) ∧
    (let s := dbgState fun x => { x with halted := true }
     (s.sh.grps.get? 9215).any (fun x => x.halted && x.stepping == 0) = true ∧
     (s.genv 9215).any (fun e => e.grp.halted && (dbgRead e 0 0x100 0).isSome && (dbgRead e 0 0x1FF 0).isNone) = true ∧
     5 ∈ ({ s with sh := { s.sh with sticky := [5] } } : State).sh.sticky) := by decide +kernel

theorem witness_TapInstructions :
    State.reset.boot.perst = true ∧ up.boot.perst = false ∧ up.on RST_BOOT_CTL.RECOVERY = false ∧
    (setRegs up [(RST_BOOT_CTL.RECOVERY, 0, 1)]).on RST_BOOT_CTL.RECOVERY = true ∧ up.on DBG_CFG.JTAG_EN = false ∧
    (setRegs up [(DBG_CFG.JTAG_EN, 0, 1)]).on DBG_CFG.JTAG_EN = true ∧ Blk.ofAddr (2 % 2 ^ 24 * 4) = some .glb ∧ up.winUp .glb = true := by
  decide +kernel

/-! ## Smoke tests of well-formedness -/

/-- The instruction of no effect on v0 to v12. -/
theorem test_wf_accepts : (Instr.valuAdd 9215 vins .u32).wf = true ∧ (Instr.registerWrite 63 .bar2 0x7FFF8 8 (2 ^ 64 - 1)).wf = true := by decide

theorem test_wf_refuses_blocks : (Instr.commit (.loom 12)).wf = false ∧ (Instr.discard (.scl 48)).wf = false := by decide

theorem test_wf_refuses_fields :
    ∀ i ∈ [{ vins with pg := 8 }, { vins with dst := 512 }, { vins with src0 := 512 }, { vins with src1 := 512 }, { vins with src2 := 512 },
      { vins with md := 1024 }, { vins with ext := true, x := 2 ^ 64 }, { vins with x := 1 }], Ins.wf i = false := by decide

theorem test_wf_refuses_offsets :
    (Instr.registerWrite 0 .bar0 0x4000000 8 0).wf = false ∧ (Instr.registerWrite 0 .bar2 0x80000 8 0).wf = false ∧
    (Instr.lowWordRead 0 .cfg 0x1000 true).wf = false ∧ (Instr.registerWrite 64 .bar0 0 8 0).wf = false ∧
    (Instr.registerWrite 0 .bar0 0 8 (2 ^ 64)).wf = false := by decide

theorem test_wf_refuses_numbers :
    ∀ c ∈ [Instr.ctxEnable 1024 0, .hostRequestError 0 64, .queueEnable 2048, .tallySignal 8192 [], .hitArrival 9216 0, .ld 9216 vins,
      .ld 0 { vins with dst := 512 }, .signalWrite 0 0 (2 ^ 64), .idleHintSet 2048, .vectorUnmask 64 0, .nmtStart 0 2, .gpioEdge 16 true,
      .remoteRequest 0 2 0 0 0 [256], .usdoDownload 0 0 0 0 [256] false, .forwardedSignal 0 (2 ^ 64), .groupHalted 9216], c.wf = false := by decide

/-- No word spells a command: the table gives no row bits. -/
theorem test_decode (n w : Nat) : decodeTableWord n w = none ∧ up.withFetchWord n w = up := ⟨rfl, rfl⟩

/-! ## One step -/

/-- The step of the command at the front answers a next state of which `p` holds. -/
def steps (s : State) (c : Instr) (p : State → Bool) : Bool :=
  match step { s with pending := [c] } with
  | .next t => p t && t.pending.isEmpty
  | _ => false

/-- Lane `l` of the group's register `r`. -/
def lane (s : State) (l r : Nat) : Nat := ((s.sh.grps.get? 9215).map fun x => x.rv l r).getD 0

/-- 0xFFFFFFFF + 2 wraps to 1, in the active lanes only. -/
theorem test_add_wraps :
    steps (withCode (shaderWith fun x => { x with exec := 1, v := [(32 * 4, 2 ^ 32 - 1), (32 * 8, 2), (32 * 8 + 1, 3)] }) ⟨0, none⟩ 9215 vins) (.valuAdd 9215 vins .u32)
      (fun t => lane t 0 0 == 1 && lane t 1 0 == 0) = true := by decide +kernel

/-- FP32 to SF8-4 and SF8-5 with flags: the table under R267. -/
theorem test_convert :
    convert .f32 .sf84 0x3E99999A = (0x2A, flNX) ∧ convert .f32 .sf85 0x3E99999A = (0x35, flNX) ∧
    convert .f32 .sf84 0x43F50000 = (0x7F, flNX) ∧ convert .f32 .sf84 0x43FA0000 = (0x7F, flOF + flNX) ∧
    convert .f32 .sf85 0x43FA0000 = (0x60, flNX) ∧ convert .f32 .sf84 0xBA800000 = (0x00, flUF + flNX) ∧
    convert .f32 .sf85 0xBA800000 = (0x94, 0) ∧ convert .f32 .sf84 0xBB400000 = (0x82, flUF + flNX) ∧
    convert .f32 .sf84 0x7FC00000 = (0x80, 0) ∧ convert .f32 .sf84 0x7F800000 = (0x7F, flOF) := by decide +kernel

/-- 3.9, 3.0, 0.7, -1.3 and 0.2 as an SB4 block: the worked example under R265. -/
theorem test_sb4 : sb4Block [0x4079999A, 0x40400000, 0x3F333333, 0xBFA66666, 0x3E4CCCCD] = (128, [7, 6, 1, 11, 0], true) := by decide +kernel

/-- Three lanes add 1.0, 2^-24 and 2^-24 to one word of 0.0: the worked example under R236. -/
theorem test_fadd_in_lane_order :
    steps (withCode (shaderWith fun x => { x with exec := 7, v := [(32 * 12, 0x3F800000), (32 * 12 + 1, 0x33800000), (32 * 12 + 2, 0x33800000)] })
      ⟨7, some 0x10⟩ 9215 { vins with md := 8 }) (.atomFaddF32 9215 { vins with md := 8 })
      (fun t => lane t 0 0 == 0 && lane t 1 0 == 0x3F800000 && lane t 2 0 == 0x3F800000) = true := by decide +kernel

/-- Where the HBM line 0x082468A0 lies: the worked example under R461. -/
theorem test_line_home : stackOf 0x082468A0 = 1 ∧ pcOf 0x082468A0 = 17 ∧ sliceOf 0x082468A0 = 20 ∧ setOf 0x082468A0 = 216 := by decide +kernel

/-- A coverage layer over 800: the worked example under R400. -/
theorem test_blend : blendC 2 255 192 600 800 = 649 ∧ blendC 2 128 192 600 800 = 725 := by decide +kernel

/-- Level 7 of VDD_LOOM at D = 3.00 %: 774 mV, rounded up to 775 (the worked example under R612). -/
theorem test_planned_voltage : (setRegs up [(ASY_AGE.VT0, 3, 750 * 2 ^ 48), (ASY_AGE.SENS, 1, 8 * 2 ^ 56)]).planned 1 7 300 = 775 := by decide +kernel

/-- Device 1 takes the manager's role over when device 2's report makes a majority: the worked example under R502. -/
theorem test_takeover :
    steps { setRegs up [(GLB_DEVNUM.DEV_ID, 0, 1), (PXL_PORT.STATE, 1, 2), (PXL_PORT.PEER, 1, 2), (PXL_STATUS.JOINED, 0, 7), (PXL_CFG.EXPECT, 0, 7)] with
        mesh := { silent := [0] } } (.silenceReport 1 0 true)
      (fun t => t.on GLB_DEVNUM.MANAGER && t.rd PXL_STATUS.MANAGER_ID == 1 && t.rd PXL_STATUS.EPOCH == 1) = true := by decide +kernel

/-- A rising WAKE of an NMT start command reaches OPERATIONAL (R526). -/
theorem test_nmt_start : steps (canState 1 [] {}) (.nmtStart 0 0) (fun t => t.rd ODM_NMT.STATE == 2) = true := by decide +kernel

/-- A write of INTC_SW bit 3 makes source 0x603 pending (R511). -/
theorem test_software_source : steps up (.swSet 0 8) (fun t => t.rd INTC_SRC.STATE 0x603 == 1 && t.rd INTC_SW.SET 0 == 8) = true := by decide +kernel

/-- BYPASS shifts one 0 out (R634). -/
theorem test_bypass : steps up .bypass (fun t => t.out == [.tdo 1 0]) = true := by decide +kernel

/-- A power-on outside the supplies' ratings is the one stop of the model (R652). -/
theorem test_ratings : exec (.powerOn false) State.reset = .fault .ratings := rfl

end Sys2Proof.Tests
end

/-! ## The register table and the writes of its fields -/

section
/-! PROOFS. The fields of the register table are told apart by their numbers and fit their words; what a write of a register word
and the clear of a counter do to a field. -/

namespace Sys2Proof.Machine

/-! ### The table -/

/-- The fields are numbered in the order of the table. -/
theorem regTable_fids : regTable.map (·.fid) = List.range 804 := by decide +kernel

/-- Every field has a bit and lies in its word. -/
theorem regTable_fits : ∀ F ∈ regTable, 0 < F.w ∧ F.lo + F.w ≤ 64 := by decide +kernel

theorem regTable_pairwise : regTable.Pairwise (fun F G => F.fid ≠ G.fid) :=
  List.pairwise_map.mp (by rw [regTable_fids]; exact List.nodup_range)

/-- Of fields with numbers of their own two with one number are the same. -/
theorem fid_inj_of_pairwise {l : List Fld} (hl : l.Pairwise (fun F G => F.fid ≠ G.fid)) {F G : Fld} (hF : F ∈ l) (hG : G ∈ l)
    (h : F.fid = G.fid) : F = G := by
  induction l with
  | nil => cases hF
  | cons H r ih =>
    obtain ⟨hH, hr⟩ := List.pairwise_cons.mp hl
    rcases List.mem_cons.mp hF with rfl | memF
    · rcases List.mem_cons.mp hG with rfl | memG
      · rfl
      · exact absurd h (hH G memG)
    · rcases List.mem_cons.mp hG with rfl | memG
      · exact absurd h.symm (hH F memF)
      · exact ih hr memF memG

theorem regTable_fid_inj {F G : Fld} (hF : F ∈ regTable) (hG : G ∈ regTable) (h : F.fid = G.fid) : F = G :=
  fid_inj_of_pairwise regTable_pairwise hF hG h

theorem regTable_of_fldOf {n : Nat} {F : Fld} (h : fldOf n = some F) : F ∈ regTable := by
  unfold fldOf at h
  exact List.mem_of_find?_eq_some h

theorem fldOf_fid_of_mem {F : Fld} (hF : F ∈ regTable) : fldOf F.fid = some F := by
  cases h : fldOf F.fid with
  | none => exact absurd (beq_self_eq_true F.fid) (List.find?_eq_none.mp h F hF)
  | some G => rw [regTable_fid_inj (regTable_of_fldOf h) hF (fldOf_fid h)]

theorem mem_fieldsAt {a i : Nat} {F : Fld} : (F, i) ∈ fieldsAt a ↔ F ∈ regTable ∧ F.instAt a = some i := by
  simp [fieldsAt]

/-- A word holds a field once. -/
theorem fieldsAt_fid_pairwise (a : Nat) : (fieldsAt a).Pairwise (fun p q => p.1.fid ≠ q.1.fid) := by
  refine List.Pairwise.filterMap _ (fun F G hFG p hp q hq => ?_) regTable_pairwise
  obtain ⟨i, -, rfl⟩ := Option.map_eq_some_iff.mp hp
  obtain ⟨j, -, rfl⟩ := Option.map_eq_some_iff.mp hq
  exact hFG

/-- The other fields of a word stand before and behind one of its fields. -/
theorem fieldsAt_split {a : Nat} {p : Fld × Nat} (h : p ∈ fieldsAt a) :
    ∃ l r, fieldsAt a = l ++ p :: r ∧ ∀ q ∈ l ++ r, q.1.fid ≠ p.1.fid := by
  obtain ⟨l, r, e⟩ := List.append_of_mem h
  have k := fieldsAt_fid_pairwise a
  rw [e, List.pairwise_append, List.pairwise_cons] at k
  obtain ⟨-, ⟨hr, -⟩, hl⟩ := k
  refine ⟨l, r, e, fun q hq => ?_⟩
  rcases List.mem_append.mp hq with hq | hq
  · exact hl q hq p (List.mem_cons_self ..)
  · exact (hr q hq).symm

/-! ### Bits -/

theorem bit_eq_testBit (v i : Nat) : bit v i = v.testBit i := Nat.testBit_eq_decide_div_mod_eq.symm

theorem bits_lt (v lo w : Nat) : bits v lo w < 2 ^ w := Nat.mod_lt _ (Nat.two_pow_pos w)

/-- Bits of a word of ones. -/
theorem bits_ones {lo w : Nat} (h : lo + w ≤ 64) : bits (2 ^ 64 - 1) lo w = 2 ^ w - 1 := by
  refine Nat.eq_of_testBit_eq fun j => ?_
  simp only [bits, Nat.testBit_mod_two_pow, Nat.testBit_div_two_pow, Nat.testBit_two_pow_sub_one]
  by_cases hj : j < w
  · simp [hj]; omega
  · simp [hj]

/-- A merge of all bits of a field, in its width, is the new value. -/
theorem merge_ones_mod (old : Nat) {w v : Nat} (hv : v < 2 ^ w) : merge old (2 ^ w - 1) v % 2 ^ w = v := by
  have e : old - old % 2 ^ w = 2 ^ w * (old / 2 ^ w) := by have := Nat.div_add_mod old (2 ^ w); omega
  rw [merge, Nat.and_two_pow_sub_one_eq_mod, Nat.and_two_pow_sub_one_eq_mod, e, Nat.mod_eq_of_lt hv, Nat.mul_add_mod, Nat.mod_eq_of_lt hv]

theorem merge_ones_pos (old : Nat) {w v : Nat} (hv : v < 2 ^ w) (h0 : v ≠ 0) : merge old (2 ^ w - 1) v ≠ 0 :=
  fun e => h0 (by have := merge_ones_mod old hv; rw [e, Nat.zero_mod] at this; exact this.symm)

/-- Clearing a bit keeps the others. -/
theorem testBit_setBit_false (v b k : Nat) : (setBit v b false).testBit k = (decide (k ≠ b) && v.testBit k) := by
  have e : setBit v b false = 2 ^ (b + 1) * (v / 2 ^ (b + 1)) + v % 2 ^ b := by
    have h1 := Nat.div_add_mod v (2 ^ b)
    have h2 := Nat.div_add_mod (v / 2 ^ b) 2
    have h3 : v / 2 ^ (b + 1) = v / 2 ^ b / 2 := by rw [Nat.pow_succ, Nat.div_div_eq_div_mul]
    simp only [setBit, setBits, bits, b2n, h3, Nat.pow_one, Bool.false_eq_true, if_false, Nat.zero_mod, Nat.zero_mul]
    generalize v / 2 ^ b / 2 = q at *
    generalize v / 2 ^ b % 2 = d at *
    rw [← h2] at h1
    have h4 : 2 ^ b * (2 * q + d) = 2 ^ (b + 1) * q + d * 2 ^ b := by
      rw [Nat.pow_succ, Nat.mul_add, Nat.mul_assoc, Nat.mul_comm d]
    omega
  have hlt : v % 2 ^ b < 2 ^ (b + 1) := Nat.lt_of_lt_of_le (Nat.mod_lt _ (Nat.two_pow_pos b)) (Nat.pow_le_pow_right (by omega) (by omega))
  rw [e, Nat.testBit_two_pow_mul_add _ hlt, Nat.testBit_mod_two_pow, Nat.testBit_div_two_pow]
  rcases Nat.lt_trichotomy k b with h | rfl | h
  · simp [h, Nat.lt_succ_of_lt h, Nat.ne_of_lt h]
  · simp
  · rw [if_neg (by omega), show k - (b + 1) + (b + 1) = k by omega]; simp [Nat.ne_of_gt h]

/-! ### Reads after writes -/

variable (s : State)

theorem State.rdSh_wr_other {F G : Fld} {i k : Nat} (v : Nat) (h : (F.fid, i) ≠ (G.fid, k)) : (s.wr F i v).rdSh G k = s.rdSh G k := by
  simp only [State.rdSh, State.wr_shadows, s.rd_wr_other v h]

theorem State.rdSh_wrSh_other {F G : Fld} {i k : Nat} (v : Nat) (h : (F.fid, i) ≠ (G.fid, k)) :
    (s.wrSh F i v).rdSh G k = s.rdSh G k := by
  simp only [State.rdSh, State.rd_wrSh]
  simp only [State.wrSh]
  split <;> simp [h]

/-- Which units are present is the capability table's alone (R2, R68). -/
theorem State.fldThere_congr {s t : State} (h : t.cap = s.cap) (F : Fld) (i : Nat) : t.fldThere F i = s.fldThere F i := by
  simp only [State.fldThere, State.present, State.capEnt, h]

/-! ### A write of a field and of a word (R9, R10) -/

/-- A write of a field changes registers and shadows alone. -/
theorem State.fldWrite_rest (F : Fld) (i m v : Nat) :
    s.fldWrite F i m v = { s with regs := (s.fldWrite F i m v).regs, shadows := (s.fldWrite F i m v).shadows } := by
  unfold State.fldWrite
  split
  · rfl
  · split
    any_goals rfl
    extract_lets n
    split
    · rfl
    · split <;> rfl

/-- A write of a field leaves every other key, a field with its number, and its shadow. -/
theorem State.fldWrite_other {F G : Fld} {i k : Nat} (m v : Nat) (h : (F.fid, i) ≠ (G.fid, k)) :
    (s.fldWrite F i m v).rd G k = s.rd G k ∧ (s.fldWrite F i m v).rdSh G k = s.rdSh G k := by
  unfold State.fldWrite
  split
  · exact ⟨rfl, rfl⟩
  · split
    any_goals exact ⟨rfl, rfl⟩
    · exact ⟨s.rd_wr_other _ h, s.rdSh_wr_other _ h⟩
    · extract_lets n
      split
      · exact ⟨rfl, s.rdSh_wrSh_other _ h⟩
      · split
        · exact ⟨rfl, rfl⟩
        · exact ⟨s.rd_wr_other _ h, s.rdSh_wr_other _ h⟩

/-- From `s` to `u` field `F` with number `i` took a write of the value `x` as its type says (R9, R10; assumption 9). -/
def TakesWrite (s u : State) (F : Fld) (i x : Nat) : Prop :=
  if s.fldThere F i = false ∨ F.among ownRow ∨ F.acc = .ro ∨ F.acc = .rc ∨ F.acc = .wo ∨ F.acc = .w1s then u.rd F i = s.rd F i
  else if F.acc = .w1c then u.rd F i = (s.rd F i - (s.rd F i &&& x)) % 2 ^ F.w
  else if F.staged then u.rdSh F i = x ∧ u.rd F i = s.rd F i
  else F.ctr = false ∨ x ≠ 0 → u.rd F i = x

theorem TakesWrite.congr {s s' u u' : State} {F : Fld} {i x : Nat} (h : TakesWrite s u F i x) (hc : s'.cap = s.cap)
    (hs : s'.rd F i = s.rd F i) (hu : u'.rd F i = u.rd F i) (hsh : u'.rdSh F i = u.rdSh F i) : TakesWrite s' u' F i x := by
  unfold TakesWrite at *
  rw [State.fldThere_congr hc, hs, hu, hsh]
  exact h

/-- A write of all bits of a field acts by the field's type. -/
theorem State.fldWrite_takes {F : Fld} (hF : F ∈ regTable) (i v : Nat) :
    TakesWrite s (s.fldWrite F i (bits (2 ^ 64 - 1) F.lo F.w) (bits v F.lo F.w)) F i (bits v F.lo F.w) := by
  obtain ⟨hw, hlo⟩ := regTable_fits F hF
  have hx := bits_lt v F.lo F.w
  have hm : 2 ^ F.w - 1 ≠ 0 := by have := Nat.one_lt_two_pow (n := F.w) (by omega); omega
  rw [bits_ones hlo]
  generalize bits v F.lo F.w = x at *
  unfold TakesWrite State.fldWrite
  by_cases hn : s.fldThere F i = false
  · simp [hn]
  have ht : s.fldThere F i = true := by simpa using hn
  by_cases ho : F.among ownRow = true
  · simp [ho]
  simp only [hm, ht, ho, not_true_eq_false, or_self, if_false, Bool.true_eq_false, false_or, Bool.false_eq_true]
  cases ha : F.acc with
  | ro => simp
  | rc => simp
  | wo => simp
  | w1s => simp
  | w1c => simp [Nat.and_two_pow_sub_one_eq_mod, Nat.mod_eq_of_lt hx]
  | rw =>
    simp only [reduceCtorEq, or_self, if_false]
    split
    · exact ⟨by rw [State.rdSh_wrSh_same, merge_ones_mod _ hx], rfl⟩
    · intro hc
      rw [if_neg, State.rd_wr_same, merge_ones_mod _ hx]
      rintro ⟨c, z⟩
      rcases hc with hc | hc
      · simp [hc] at c
      · exact merge_ones_pos _ hx hc z

/-- The write of a word, field by field of a list. -/
def State.fldsWrite (s : State) (m v : Nat) (l : List (Fld × Nat)) : State :=
  l.foldl (fun s p => s.fldWrite p.1 p.2 (bits m p.1.lo p.1.w) (bits v p.1.lo p.1.w)) s

theorem State.regWrite_eq (a m v : Nat) : s.regWrite a m v = s.fldsWrite m v (fieldsAt a) := rfl

theorem State.fldsWrite_rest (m v : Nat) (l : List (Fld × Nat)) :
    s.fldsWrite m v l = { s with regs := (s.fldsWrite m v l).regs, shadows := (s.fldsWrite m v l).shadows } := by
  induction l generalizing s with
  | nil => rfl
  | cons p r ih =>
    have h := s.fldWrite_rest p.1 p.2 (bits m p.1.lo p.1.w) (bits v p.1.lo p.1.w)
    have k := ih (s.fldWrite p.1 p.2 (bits m p.1.lo p.1.w) (bits v p.1.lo p.1.w))
    simp only [State.fldsWrite, List.foldl_cons] at *
    rw [k, h]

theorem State.fldsWrite_cap (m v : Nat) (l : List (Fld × Nat)) : (s.fldsWrite m v l).cap = s.cap := by rw [s.fldsWrite_rest]

theorem State.fldsWrite_other (m v : Nat) {l : List (Fld × Nat)} {G : Fld} {k : Nat} (h : ∀ p ∈ l, (p.1.fid, p.2) ≠ (G.fid, k)) :
    (s.fldsWrite m v l).rd G k = s.rd G k ∧ (s.fldsWrite m v l).rdSh G k = s.rdSh G k := by
  induction l generalizing s with
  | nil => exact ⟨rfl, rfl⟩
  | cons p r ih =>
    obtain ⟨hp, hr⟩ := List.forall_mem_cons.mp h
    obtain ⟨h1, h2⟩ := s.fldWrite_other (bits m p.1.lo p.1.w) (bits v p.1.lo p.1.w) hp
    obtain ⟨k1, k2⟩ := ih (s.fldWrite p.1 p.2 (bits m p.1.lo p.1.w) (bits v p.1.lo p.1.w)) hr
    exact ⟨k1.trans h1, k2.trans h2⟩

/-- A write of a register word changes no field outside the word. -/
theorem State.regWrite_regsKept (a m v : Nat) : RegsKept s (s.regWrite a m v) (fieldsAt a) :=
  fun _ _ h => (s.fldsWrite_other m v h).1

/-- A write of a whole register word acts on each of its fields by the field's type: the fields before and behind it in the word
do not touch it. -/
theorem State.regWrite_takes {a : Nat} (v : Nat) {F : Fld} {i : Nat} (h : (F, i) ∈ fieldsAt a) :
    TakesWrite s (s.regWrite a (2 ^ 64 - 1) v) F i (bits v F.lo F.w) := by
  obtain ⟨l, r, e, hn⟩ := fieldsAt_split h
  have key : ∀ q ∈ l ++ r, (q.1.fid, q.2) ≠ (F.fid, i) := fun q hq e => hn q hq (Prod.mk.inj e).1
  obtain ⟨hl, hr⟩ := List.forall_mem_append.mp key
  let b := s.fldsWrite (2 ^ 64 - 1) v l
  let c := b.fldWrite F i (bits (2 ^ 64 - 1) F.lo F.w) (bits v F.lo F.w)
  have hu : s.regWrite a (2 ^ 64 - 1) v = c.fldsWrite (2 ^ 64 - 1) v r := by
    simp only [State.regWrite_eq, State.fldsWrite, e, List.foldl_append, List.foldl_cons, b, c]
  obtain ⟨h1, h2⟩ := c.fldsWrite_other (2 ^ 64 - 1) v hr
  rw [hu]
  exact (b.fldWrite_takes (mem_fieldsAt.mp h).1 i v).congr (s.fldsWrite_cap ..).symm (s.fldsWrite_other (2 ^ 64 - 1) v hl).1.symm h1 h2

/-! ### The clear of a counter (R15) -/

/-- No bit of a field is set in `t` that is not set in `s`. -/
def State.FewerBits (s t : State) : Prop := ∀ F ∈ regTable, ∀ i k, (t.rd F i).testBit k = true → (s.rd F i).testBit k = true

theorem State.FewerBits.refl : s.FewerBits s := fun _ _ _ _ h => h

theorem State.FewerBits.trans {s t u : State} (h : s.FewerBits t) (k : t.FewerBits u) : s.FewerBits u :=
  fun F hF i n e => h F hF i n (k F hF i n e)

/-- A field that is written with a value of fewer bits. -/
theorem State.FewerBits.wr {s : State} {F : Fld} (hF : F ∈ regTable) (i v : Nat)
    (h : ∀ k, v.testBit k = true → (s.rd F i).testBit k = true) : s.FewerBits (s.wr F i v) := by
  intro G hG j k e
  by_cases hk : (F.fid, i) = (G.fid, j)
  · obtain ⟨hf, rfl⟩ := Prod.mk.inj hk
    obtain rfl := regTable_fid_inj hF hG hf
    rw [State.rd_wr_same, Nat.testBit_mod_two_pow, Bool.and_eq_true] at e
    exact h k e.2
  · rwa [s.rd_wr_other v hk] at e

/-- A counter's OVF bit is cleared, where it has one. -/
def State.ovfClear (s : State) (F : Fld) (i : Nat) : State := match F.ovf with
  | some (o, b) => match fldOf o with
    | some O => s.wr O i (setBit (s.rd O i) b false)
    | none => s
  | none => s

theorem State.ovfClear_fewer (F : Fld) (i : Nat) : s.FewerBits (s.ovfClear F i) := by
  unfold State.ovfClear
  split
  · split
    next O h =>
      refine State.FewerBits.wr (regTable_of_fldOf h) _ _ fun k e => ?_
      rw [testBit_setBit_false, Bool.and_eq_true] at e
      exact e.2
    · exact State.FewerBits.refl s
  · exact State.FewerBits.refl s

/-- A clear of a counter whose unit is present writes its registers: the counter's own field, then its OVF bit. -/
theorem State.ctrClear_rd {F : Fld} {i : Nat} (h : s.fldThere F i = true) (G : Fld) (k : Nat) :
    (s.ctrClear F i).rd G k = ((s.wr F i 0).ovfClear F i).rd G k := by
  unfold State.ctrClear State.ovfClear
  rw [if_neg (by simp [h])]
  cases F.ovf with
  | none =>
    dsimp only
    split
    · rfl
    · split <;> rfl
  | some p =>
    obtain ⟨o, k⟩ := p
    dsimp only
    cases fldOf o with
    | none =>
      dsimp only
      split
      · rfl
      · split <;> rfl
    | some O =>
      dsimp only
      split
      · rfl
      · split <;> rfl

theorem State.ctrClear_cap (F : Fld) (i : Nat) : (s.ctrClear F i).cap = s.cap := by
  unfold State.ctrClear
  repeat' split
  all_goals rfl

theorem State.ctrClear_fewer {F : Fld} (hF : F ∈ regTable) (i : Nat) : s.FewerBits (s.ctrClear F i) := by
  by_cases h : s.fldThere F i = true
  · intro G hG k n e
    rw [s.ctrClear_rd h] at e
    exact (State.FewerBits.wr hF i 0 (by simp)).trans (State.ovfClear_fewer _ F i) G hG k n e
  · unfold State.ctrClear
    rw [if_pos h]
    exact State.FewerBits.refl s

/-- In `t` counter `F` with number `i` reads 0 and its OVF bit is clear. -/
def State.CtrZero (t : State) (F : Fld) (i : Nat) : Prop :=
  t.rd F i = 0 ∧ ∀ o k O, F.ovf = some (o, k) → fldOf o = some O → k < O.w → bit (t.rd O i) k = false

theorem State.CtrZero.fewer {t u : State} {F : Fld} {i : Nat} (hF : F ∈ regTable) (h : t.CtrZero F i) (k : t.FewerBits u) :
    u.CtrZero F i := by
  refine ⟨Nat.eq_of_testBit_eq fun j => ?_, fun o j O ho hO hj => ?_⟩
  · rw [Nat.zero_testBit, Bool.eq_false_iff]
    intro e
    have z := k F hF i j e
    rw [h.1, Nat.zero_testBit] at z
    cases z
  · have z := h.2 o j O ho hO hj
    rw [bit_eq_testBit, Bool.eq_false_iff] at z ⊢
    exact fun e => z (k O (regTable_of_fldOf hO) i j e)

theorem State.ctrClear_zero {F : Fld} {i : Nat} (hF : F ∈ regTable) (h : s.fldThere F i = true) : (s.ctrClear F i).CtrZero F i := by
  constructor
  · rw [s.ctrClear_rd h]
    exact Nat.eq_of_testBit_eq fun j => by
      rw [Nat.zero_testBit, Bool.eq_false_iff]
      intro e
      simpa using (s.wr F i 0).ovfClear_fewer F i F hF i j e
  · intro o k O ho hO hk
    rw [s.ctrClear_rd h, State.ovfClear, ho]
    dsimp only
    rw [hO]
    dsimp only
    rw [State.rd_wr_same, bit_eq_testBit, Nat.testBit_mod_two_pow, testBit_setBit_false]
    simp

/-- The clears of a list of counters. -/
def State.ctrsClear (s : State) (l : List (Fld × Nat)) : State := l.foldl (fun s p => s.ctrClear p.1 p.2) s

theorem State.ctrsClear_fewer {l : List (Fld × Nat)} (hl : ∀ p ∈ l, p.1 ∈ regTable) : s.FewerBits (s.ctrsClear l) := by
  induction l generalizing s with
  | nil => exact State.FewerBits.refl s
  | cons p r ih =>
    obtain ⟨hp, hr⟩ := List.forall_mem_cons.mp hl
    exact (s.ctrClear_fewer hp p.2).trans (ih (s.ctrClear p.1 p.2) hr)

/-- Clears of several counters make each of them 0 whose unit is present: what follows one of them only clears more. -/
theorem State.ctrsClear_zero {l : List (Fld × Nat)} (hl : ∀ p ∈ l, p.1 ∈ regTable) {p : Fld × Nat} (hp : p ∈ l)
    (h : s.fldThere p.1 p.2 = true) : (s.ctrsClear l).CtrZero p.1 p.2 := by
  induction l generalizing s with
  | nil => cases hp
  | cons q r ih =>
    obtain ⟨hq, hr⟩ := List.forall_mem_cons.mp hl
    rcases List.mem_cons.mp hp with rfl | hp
    · exact (s.ctrClear_zero hq h).fewer hq (State.ctrsClear_fewer (s.ctrClear p.1 p.2) hr)
    · exact ih (s.ctrClear q.1 q.2) hr hp (by rw [State.fldThere_congr (s.ctrClear_cap ..)]; exact h)

theorem clrTargets_mem {a : Nat} {clr : Bool} {p : Fld × Nat} (h : p ∈ clrTargets a clr) : p.1 ∈ regTable := by
  unfold clrTargets at h
  dsimp only at h
  split at h
  · split at h
    · obtain ⟨q, -, hp⟩ := List.mem_flatMap.mp h
      obtain ⟨F, hF, rfl⟩ := List.mem_map.mp hp
      exact (List.mem_filter.mp hF).1
    · cases h
  · exact (mem_fieldsAt (F := p.1) (i := p.2).mp (List.mem_filter.mp h).1).1

end Sys2Proof.Machine
end

/-! ## Register writes of the host (O8) -/

section
/-! PROOFS. A whole-word write of the physical function: where it goes, and that it is ignored or refused elsewhere. -/

namespace Sys2Proof.Machine

variable {s : State} {b : Blk} {a v : Nat}

/-- A whole-word write of the physical function to BAR0, in a device that is not in OFF. -/
theorem registerWrite_pf (on : s.pwr.off = false) (ha : a % 8 = 0) (hv : v < 2 ^ 64) :
    exec (.registerWrite 0 .bar0 a 8 v) s = .next (s.pfWrite a a (2 ^ 64 - 1) v) := by
  have hd : alignDown a 8 = a := Nat.div_mul_cancel (Nat.dvd_of_mod_eq_zero ha)
  have hm : v % 18446744073709551616 = v := Nat.mod_eq_of_lt hv
  simp [execRegisterWrite, State.funcUp, on, ha, hd, hm]

/-- A write of a virtual function outside its MSI-X table is ignored (R48). -/
theorem registerWrite_vf {n : Nat} (hn : n ≠ 0) (ha : a % 8 = 0) (hm : ¬ (0x300000 ≤ a ∧ a < 0x300200)) :
    exec (.registerWrite n .bar0 a 8 v) s = .next s := by
  have hd : alignDown a 8 = a := Nat.div_mul_cancel (Nat.dvd_of_mod_eq_zero ha)
  have hw : ∀ m x, s.vfWrite n a m x = s := fun m x => if_neg fun h => hm ⟨h.1, h.2.1⟩
  simp [execRegisterWrite, hn, hd, hw]

/-- A write in OFF is ignored (R590). -/
theorem registerWrite_off {n : Nat} (hoff : s.pwr.off = true) : exec (.registerWrite n .bar0 a 8 v) s = .next s := by
  simp [execRegisterWrite, hoff]

/-- A write of a window that does not answer is ignored (R2, R545, R566). -/
theorem State.pfWrite_down (hb : Blk.ofAddr a = some b) (hw : s.winUp b = false) (off m : Nat) : s.pfWrite a off m v = s := by
  simp [State.pfWrite, hb, hw]

theorem State.pfWrite_up (hb : Blk.ofAddr a = some b) (hw : s.winUp b = true) (off m : Nat) :
    s.pfWrite a off m v = s.blkWrite b a (off - b.base) m v := by
  simp [State.pfWrite, hb, hw]

/-- A write that the block forbids now is a configuration error (R13). -/
theorem State.blkWrite_forbidden {off m : Nat} (h1 : a - b.base ≠ 0xFF0) (h2 : a - b.base ≠ 0xFF8) (hf : s.forbidden a m v = true) :
    s.blkWrite b a off m v = s.cfgErr b off := by
  unfold State.blkWrite
  extract_lets o
  rw [if_neg h1, if_neg h2, if_pos hf]

/-- The contexts' words stand at multiples of 16 of the window, whose base is one. -/
theorem fe_offset_mod (a : Nat) (h : 0x300000 ≤ a) : (a - Blk.fe.base) % 16 = a % 16 := by
  simp only [Blk.base]; omega

theorem fe_base_le (h : Blk.ofAddr a = some .fe) : 0x300000 ≤ a := by
  refine Nat.le_of_not_lt fun hlt => ?_
  unfold Blk.ofAddr at h
  by_cases h1 : a < 0x100000
  · rw [if_pos h1] at h
    cases h
  · rw [if_neg h1] at h
    by_cases h2 : a < 0x200000
    · rw [if_pos h2] at h
      cases h
    · rw [if_neg h2, if_pos hlt] at h
      cases h

theorem State.glzWrite_regs {o : Nat} (h : lutAt o = none) (m : Nat) : s.glzWrite o a m v = s.plainWrite .glz a m v := by
  unfold State.glzWrite
  rw [h]

/-- A write of a word of register fields writes the fields, and what follows the write in the block follows. -/
theorem State.RegWordAt.pfWrite (h : s.RegWordAt b a v) :
    s.pfWrite a a (2 ^ 64 - 1) v = (s.regWrite a (2 ^ 64 - 1) v).afterWrite s b a := by
  obtain ⟨-, up, blk, -, ⟨c1, c2⟩, allowed, table, gamma, buf, ctx⟩ := h
  rw [State.pfWrite_up blk up]
  unfold State.blkWrite
  dsimp only
  rw [if_neg c1, if_neg c2, if_neg (by rw [allowed]; decide)]
  cases b with
  | glb => exact if_neg (table rfl)
  | glz => exact State.glzWrite_regs (gamma rfl) _
  | rst => exact if_neg (buf.1 rfl)
  | odm => exact if_neg (buf.2 rfl)
  | fe => exact if_neg (by rw [fe_offset_mod a (fe_base_le blk)]; exact ctx rfl)
  | _ => rfl

/-- What a configuration error leaves before its event (R13). -/
def State.cfgErrSet (s : State) (b : Blk) (off : Nat) : State :=
  (s.fl CFG.CFG_ERR b.idx true).wr CFG.ERR_OFFSET b.idx (bits off 2 18)

theorem State.cfgErrSet_writes (s : State) (b : Blk) (off : Nat) :
    WriteOnly s (s.cfgErrSet b off) [(CFG.CFG_ERR, b.idx), (CFG.ERR_OFFSET, b.idx)] :=
  ((WriteOnly.refl s _).fl _ _ _ (by simp)).wr _ _ _ (by simp)

theorem State.cfgErrSet_on (s : State) (b : Blk) (off : Nat) : (s.cfgErrSet b off).on CFG.CFG_ERR b.idx = true := by
  rw [State.cfgErrSet, State.on, State.rd_wr_fid _ _ (by decide)]
  exact s.on_fl_same _ _ _ (by decide)

theorem State.cfgErrSet_offset (s : State) (b : Blk) (off : Nat) : (s.cfgErrSet b off).rd CFG.ERR_OFFSET b.idx = bits off 2 18 := by
  rw [State.cfgErrSet, State.rd_wr_same]
  exact Nat.mod_eq_of_lt (bits_lt ..)

/-- A bit of CFG_STATUS is cleared where the write has its bit set. -/
def State.cfgClear (s : State) (b : Blk) (v : Nat) (F : Fld) : State := if bit v F.lo then s.fl F b.idx false else s

theorem State.blkWrite_status {off : Nat} (ho : a - b.base = 0xFF8) (hv : v < 2 ^ 64) :
    s.blkWrite b a off (2 ^ 64 - 1) v = (s.cfgClear b v CFG.CFG_ERR).cfgClear b v CFG.REFUSED := by
  have hm : (2 ^ 64 - 1) &&& v = v := by rw [Nat.and_comm, Nat.and_two_pow_sub_one_eq_mod, Nat.mod_eq_of_lt hv]
  unfold State.blkWrite
  extract_lets o clr
  rw [if_neg (show o ≠ 0xFF0 by omega), if_pos ho]
  simp only [clr, hm]
  rfl

theorem State.cfgClear_writes {s t : State} {l : List (Fld × Nat)} (h : WriteOnly s t l) {F : Fld} (hF : (F, b.idx) ∈ l) :
    WriteOnly s (t.cfgClear b v F) l := by
  unfold State.cfgClear
  split
  · exact h.fl F _ _ hF
  · exact h

theorem State.cfgClear_clears (t : State) {F : Fld} (hF : 0 < F.w) (h : bit v F.lo = true) : (t.cfgClear b v F).on F b.idx = false := by
  rw [State.cfgClear, if_pos h]
  exact t.on_fl_same F _ _ hF

theorem State.cfgClear_unset (t : State) {F : Fld} (h : bit v F.lo = false) : t.cfgClear b v F = t := by
  rw [State.cfgClear, if_neg (by simp [h])]

theorem State.rd_cfgClear_other (t : State) {F G : Fld} (i : Nat) (h : F.fid ≠ G.fid) : (t.cfgClear b v F).rd G i = t.rd G i := by
  unfold State.cfgClear
  split
  · exact t.rd_fl_fid _ h
  · rfl

/-- Settles O8, from the fold of a word's fields (`State.regWrite_takes`) and the cases of a block's write. -/
theorem registerWrites : Obligations.RegisterWrites := by
  unfold Obligations.RegisterWrites Answers
  refine ⟨fun s b a v hv h => ?_, fun s b a v hv hb ha => ⟨fun n hn hm => registerWrite_vf hn ha hm, ?_, ?_, ?_⟩⟩
  · rw [registerWrite_pf h.on h.whole hv, h.pfWrite]
    exact ⟨_, rfl, s.regWrite a (2 ^ 64 - 1) v, rfl, s.fldsWrite_rest _ _ _, s.regWrite_regsKept _ _ _,
      fun F i _ hi => s.regWrite_takes v hi⟩
  · rintro (hoff | hw)
    · exact registerWrite_off hoff
    · cases hoff : s.pwr.off with
      | true => exact registerWrite_off hoff
      | false => rw [registerWrite_pf hoff ha hv, State.pfWrite_down hb hw]
  · intro on hw h1 h2 hf
    rw [registerWrite_pf on ha hv, State.pfWrite_up hb hw, State.blkWrite_forbidden h1 h2 hf]
    exact ⟨_, rfl, s.cfgErrSet b (a - b.base), rfl, s.cfgErrSet_writes _ _, s.cfgErrSet_on _ _, s.cfgErrSet_offset _ _⟩
  · intro on hw ho
    rw [registerWrite_pf on ha hv, State.pfWrite_up hb hw, State.blkWrite_status ho hv]
    have hne : CFG.REFUSED.fid ≠ CFG.CFG_ERR.fid := by decide
    have hw : 0 < CFG.REFUSED.w ∧ 0 < CFG.CFG_ERR.w := by decide
    refine ⟨_, rfl, State.cfgClear_writes (State.cfgClear_writes (WriteOnly.refl s _) (by simp)) (by simp), fun h => ?_, fun h => ?_,
      State.cfgClear_clears _ hw.1, fun h => ?_⟩
    · rw [State.on, State.rd_cfgClear_other _ _ hne]; exact State.cfgClear_clears (F := CFG.CFG_ERR) s hw.2 h
    · rw [State.rd_cfgClear_other _ _ hne, State.cfgClear_unset (F := CFG.CFG_ERR) s h]
    · rw [State.cfgClear_unset (F := CFG.REFUSED) _ h, State.rd_cfgClear_other _ _ hne.symm]

end Sys2Proof.Machine
end

/-! ## COMMIT, DISCARD and counter clears (O9) -/

section
/-! PROOFS. What a commit of a block applies, what a refusal and a discard leave, and the two forms of a counter's clear. -/

namespace Sys2Proof.Machine

variable {s : State} {b : Blk}

theorem RMap.get?_eq_none {m : RMap} {k : Nat × Nat} (h : k ∉ m.map (·.1)) : m.get? k = none := by
  induction m with
  | nil => rfl
  | cons e r ih =>
    rw [List.map_cons, List.mem_cons, not_or] at h
    rw [RMap.get?, if_neg (Ne.symm h.1), ih h.2]

theorem RMap.get?_filter_key (m : RMap) (q : Nat × Nat → Bool) (k : Nat × Nat) :
    RMap.get? (m.filter fun e => q e.1) k = if q k then m.get? k else none := by
  induction m with
  | nil => simp [RMap.get?]
  | cons e r ih =>
    rw [List.filter_cons]
    by_cases hk : e.1 = k
    · subst hk
      cases hq : q e.1 <;> simp [RMap.get?, ih, hq]
    · cases hq : q e.1 <;> simp [RMap.get?, ih, hk]

/-! ### Shadows that go into force (R12) -/

/-- The keys that a commit of a block puts into force at once: those of its shadows that no tick start applies. -/
def State.nowKeys (s : State) (b : Blk) : List (Nat × Nat) := (s.blkKeys b).filter (fun k => !isTickFld k.1)

theorem State.mem_nowKeys {k : Nat × Nat} :
    k ∈ s.nowKeys b ↔ k ∈ s.shadows.map (·.1) ∧ commitBlk k = some b ∧ isTickFld k.1 = false := by
  have e : k ∈ s.blkKeys b ↔ (k ∈ s.shadows.map (·.1) ∧ commitBlk k = some b) ∨
      k ∈ (if b = .fe then (s.tick.rel.map (·.1)).filter (fun k => isTickFld k.1) else []) := by
    simp only [State.blkKeys, List.mem_eraseDups, List.mem_append, List.mem_filter, beq_iff_eq]
  rw [State.nowKeys, List.mem_filter, e]
  constructor
  · rintro ⟨(⟨h1, h2⟩ | h), ht⟩
    · exact ⟨h1, h2, by simpa using ht⟩
    · split at h
      · rw [(List.mem_filter.mp h).2] at ht; cases ht
      · cases h
  · rintro ⟨h1, h2, ht⟩
    exact ⟨.inl ⟨h1, h2⟩, by simp [ht]⟩

theorem State.withKeys_cons (k : Nat × Nat) (r : List (Nat × Nat)) : s.withKeys (k :: r) = (s.withKeys [k]).withKeys r := by
  unfold State.withKeys
  rw [List.foldl_cons, List.foldl_cons, List.foldl_nil]

theorem State.withKeys_one_rest (k : Nat × Nat) : s.withKeys [k] = { s with regs := (s.withKeys [k]).regs } := by
  unfold State.withKeys
  rw [List.foldl_cons, List.foldl_nil]
  split <;> rfl

theorem State.withKeys_rest (ks : List (Nat × Nat)) : s.withKeys ks = { s with regs := (s.withKeys ks).regs } := by
  induction ks generalizing s with
  | nil => rfl
  | cons k r ih => rw [State.withKeys_cons, ih, State.withKeys_one_rest k]

theorem State.withKeys_one_other {F : Fld} {i : Nat} {k : Nat × Nat} (h : (F.fid, i) ≠ k) :
    (s.withKeys [k]).rd F i = s.rd F i ∧ (s.withKeys [k]).rdSh F i = s.rdSh F i := by
  unfold State.withKeys
  rw [List.foldl_cons, List.foldl_nil]
  split
  next G hG =>
    have hk : (G.fid, k.2) ≠ (F.fid, i) := fun e => h (by rw [← e, fldOf_fid hG])
    exact ⟨s.rd_wr_other _ hk, s.rdSh_wr_other _ hk⟩
  · exact ⟨rfl, rfl⟩

/-- The field of a key that goes into force takes its shadow, and its shadow then reads the same. -/
theorem State.withKeys_one_same {F : Fld} (hF : F ∈ regTable) (i : Nat) : (s.withKeys [(F.fid, i)]).rd F i = s.rdSh F i % 2 ^ F.w ∧
    (s.withKeys [(F.fid, i)]).rdSh F i % 2 ^ F.w = s.rdSh F i % 2 ^ F.w := by
  have e : s.withKeys [(F.fid, i)] = s.wr F i (s.rdSh F i) := by
    unfold State.withKeys
    rw [List.foldl_cons, List.foldl_nil, fldOf_fid_of_mem hF]
  rw [e]
  refine ⟨s.rd_wr_same F i _, ?_⟩
  rw [State.rdSh, State.rd_wr_same, State.wr_shadows]
  cases hs : s.shadows.get? (F.fid, i) with
  | none => rw [Option.getD_none, Nat.mod_mod]
  | some x => simp [State.rdSh, hs]

/-- Of a field whose key is among those that go into force the shadow is committed; any other keeps its value. -/
theorem State.rd_withKeys {F : Fld} (hF : F ∈ regTable) (i : Nat) (ks : List (Nat × Nat)) :
    ((F.fid, i) ∈ ks → (s.withKeys ks).rd F i % 2 ^ F.w = s.rdSh F i % 2 ^ F.w) ∧
    ((F.fid, i) ∉ ks → (s.withKeys ks).rd F i = s.rd F i) := by
  induction ks generalizing s with
  | nil => exact ⟨fun h => absurd h List.not_mem_nil, fun _ => rfl⟩
  | cons k r ih =>
    rw [State.withKeys_cons]
    obtain ⟨ih1, ih2⟩ := ih (s := s.withKeys [k])
    by_cases hk : (F.fid, i) = k
    · subst hk
      obtain ⟨h1, h2⟩ := s.withKeys_one_same hF i
      refine ⟨fun _ => ?_, fun h => absurd (List.mem_cons_self ..) h⟩
      by_cases hr : (F.fid, i) ∈ r
      · rw [ih1 hr, h2]
      · rw [ih2 hr, h1, Nat.mod_mod]
    · obtain ⟨h1, h2⟩ := s.withKeys_one_other hk
      refine ⟨fun h => ?_, fun h => ?_⟩
      · rw [ih1 ((List.mem_cons.mp h).resolve_left hk), h2]
      · rw [ih2 (fun hr => h (List.mem_cons_of_mem _ hr)), h1]

theorem State.applyShadows_rd (F : Fld) (i : Nat) : (s.applyShadows b).rd F i = (s.withKeys (s.nowKeys b)).rd F i := rfl

theorem State.applyShadows_rest : s.applyShadows b =
    { s with regs := (s.applyShadows b).regs, shadows := (s.applyShadows b).shadows,
             tick := { s.tick with rel := (s.applyShadows b).tick.rel } } := by
  unfold State.applyShadows
  dsimp only
  rw [State.withKeys_rest]

/-- A commit puts every shadow of its block into force but the tick's (R12). -/
theorem State.applyShadows_commits {F : Fld} (hF : F ∈ regTable) (i : Nat)
    (h : commitBlk (F.fid, i) = some b ∧ isTickFld F.fid = false) :
    (s.applyShadows b).rd F i % 2 ^ F.w = s.rdSh F i % 2 ^ F.w := by
  rw [State.applyShadows_rd]
  by_cases hk : (F.fid, i) ∈ s.shadows.map (·.1)
  · exact (s.rd_withKeys hF i _).1 (State.mem_nowKeys.mpr ⟨hk, h⟩)
  · rw [(s.rd_withKeys hF i _).2 fun m => hk (State.mem_nowKeys.mp m).1, State.rdSh, RMap.get?_eq_none hk, Option.getD_none]

/-- No field of another block changes, and no tick field, which waits for the next tick start (R435). -/
theorem State.applyShadows_keeps {F : Fld} (hF : F ∈ regTable) (i : Nat)
    (h : ¬ (commitBlk (F.fid, i) = some b ∧ isTickFld F.fid = false)) : (s.applyShadows b).rd F i = s.rd F i := by
  rw [State.applyShadows_rd]
  exact (s.rd_withKeys hF i _).2 fun m => h (State.mem_nowKeys.mp m).2

/-! ### A refused commit and a discard (R71, R72) -/

theorem State.commit_same (h : s.changed b = []) : s.commit b = s := by
  unfold State.commit
  rw [h]
  rfl

theorem State.commit_applied (h : s.changed b ≠ []) (hr : commitRules b s (s.withKeys (s.blkKeys b)) (s.changed b) = true) :
    s.commit b = (s.applyShadows b).applied b s (s.changed b) := by
  unfold State.commit
  dsimp only
  rw [if_neg (by simpa using h), if_pos hr]

theorem State.commit_refused (h : s.changed b ≠ []) (hr : commitRules b s (s.withKeys (s.blkKeys b)) (s.changed b) = false) :
    s.commit b = ((s.fl CFG.REFUSED b.idx true).cfgErrSet b 0xFF0).raise b.cfgSrc := by
  unfold State.commit
  dsimp only
  rw [if_neg (by simpa using h), if_neg (by rw [hr]; decide)]
  rfl

/-- What a refusal leaves before its event. -/
theorem State.refusal_writes : WriteOnly s ((s.fl CFG.REFUSED b.idx true).cfgErrSet b 0xFF0)
    [(CFG.CFG_ERR, b.idx), (CFG.REFUSED, b.idx), (CFG.ERR_OFFSET, b.idx)] :=
  (((WriteOnly.refl s _).fl _ _ _ (by simp)).fl _ _ _ (by simp)).wr _ _ _ (by simp)

theorem State.refusal_on : ((s.fl CFG.REFUSED b.idx true).cfgErrSet b 0xFF0).on CFG.REFUSED b.idx = true := by
  rw [State.cfgErrSet, State.on, State.rd_wr_fid _ _ (by decide), State.rd_fl_fid _ _ (by decide)]
  exact s.on_fl_same _ _ _ (by decide)

theorem State.shRel_cons (p : (Nat × Nat) × Nat) (r : RMap) : s.shRel (p :: r) = (s.shRel [p]).shRel r := by
  unfold State.shRel
  rw [List.foldl_cons, List.foldl_cons, List.foldl_nil]

theorem State.shRel_one_rest (p : (Nat × Nat) × Nat) : s.shRel [p] = { s with shadows := (s.shRel [p]).shadows } := by
  unfold State.shRel
  rw [List.foldl_cons, List.foldl_nil]
  split <;> rfl

/-- A discard changes shadows alone. -/
theorem State.shRel_rest (rel : RMap) : s.shRel rel = { s with shadows := (s.shRel rel).shadows } := by
  induction rel generalizing s with
  | nil => rfl
  | cons p r ih => rw [State.shRel_cons, ih, State.shRel_one_rest p]

theorem State.discard_rest : s.discard b = { s with shadows := (s.discard b).shadows } := by
  unfold State.discard
  dsimp only
  split
  · rw [State.shRel_rest]
  · rfl

/-- A discard takes the shadows of its block, where no Tick field is released (R72). -/
theorem State.discard_shadows (h : b = .fe → s.tick.rel = []) :
    (s.discard b).shadows = s.shadows.filter fun e => commitBlk e.1 != some b := by
  unfold State.discard
  dsimp only
  split
  next hb => rw [h hb]; rfl
  · rfl

theorem State.discard_rdSh (h : b = .fe → s.tick.rel = []) (F : Fld) (i : Nat) :
    (s.discard b).rdSh F i = if commitBlk (F.fid, i) = some b then s.rd F i else s.rdSh F i := by
  have hr : (s.discard b).rd F i = s.rd F i := by rw [State.discard_rest]; rfl
  rw [State.rdSh, State.discard_shadows h, RMap.get?_filter_key s.shadows (fun k => commitBlk k != some b), hr]
  by_cases hc : commitBlk (F.fid, i) = some b <;> simp [hc, State.rdSh]

/-! ### Counter clears (R15) -/

/-- The fields that do not belong to a Tally's slot lie below BAR2's words, or are those of CFG_STATUS above them. -/
theorem regTable_places : ∀ F ∈ regTable, F ∈ TLY_SLOT.fields ∨ 0x20000000 ≤ F.addr ∨
    F.addr + F.s1 * (F.n / F.n2) + F.s2 * F.n2 < 0x10000000 := by decide +kernel

theorem regTable_n2_pos : ∀ F ∈ regTable, 0 < F.n2 := by decide +kernel

theorem Fld.instAt_some {F : Fld} {a i : Nat} (h : F.instAt a = some i) : F.addr ≤ a ∧ i < F.n ∧ F.addrAt i = a := by
  unfold Fld.instAt at h
  split at h
  · cases h
  next hle =>
    extract_lets d j at h
    by_cases hj : (decide (j < F.n) && F.addrAt j == a) = true
    · rw [if_pos hj] at h
      obtain rfl := Option.some.inj h
      simp only [Bool.and_eq_true, decide_eq_true_eq, beq_iff_eq] at hj
      exact ⟨Nat.le_of_not_lt hle, hj⟩
    · rw [if_neg hj] at h
      cases h

/-- A word of a Tally's slot holds fields of TLY_SLOT only. -/
theorem fieldsAt_tally {a : Nat} (h1 : 0x10000000 ≤ a) (h2 : a < 0x20000000) {p : Fld × Nat} (hp : p ∈ fieldsAt a) :
    p.1 ∈ TLY_SLOT.fields := by
  obtain ⟨F, i⟩ := p
  obtain ⟨hF, hi⟩ := mem_fieldsAt.mp hp
  obtain ⟨hle, hn, e⟩ := Fld.instAt_some hi
  rcases regTable_places F hF with h | h | h
  · exact h
  · omega
  · have hd : F.s1 * (i / F.n2) ≤ F.s1 * (F.n / F.n2) := Nat.mul_le_mul_left _ (Nat.div_le_div_right (by omega))
    have hm : F.s2 * (i % F.n2) ≤ F.s2 * F.n2 := Nat.mul_le_mul_left _ (Nat.le_of_lt (Nat.mod_lt _ (regTable_n2_pos F hF)))
    simp only [Fld.addrAt] at e
    omega

/-- A Tally's slot has no CLR bit. -/
theorem tlySlot_clrBits : ∀ F ∈ TLY_SLOT.fields, F.among clrBits = false := by decide +kernel

/-- The unit behind a Tally's slot is always there: no table of optional units has its fields. -/
theorem tlySlot_there {F : Fld} (hF : F ∈ TLY_SLOT.fields) (i : Nat) : s.fldThere F i = true := by
  have hp : pipeOfKey (F.fid, i) = none := by
    have key : ∀ F ∈ TLY_SLOT.fields, fldOf F.fid = some F ∧
        [GLZ_PIPE.MAT0, GLZ_PIPE.MAT1, GLZ_PIPE.MAT2, GLZ_PIPE.MAT3].contains F = false ∧ GLZ_PIPE.fields.contains F = false ∧
        GLZ_CRC.fields.contains F = false := by decide +kernel
    obtain ⟨h, h1, h2, h3⟩ := key F hF
    unfold pipeOfKey
    rw [h]
    simp only [h1, h2, h3, Bool.false_eq_true, if_false]
  have key : ∀ F ∈ TLY_SLOT.fields, ∀ l ∈ [RTU_CTR.fields, PRS_ENG.fields, GLZ_DP.fields, GLZ_APHY.fields, PXL_PORT.fields,
      L2_SLICE_CTR.fields, MC_ERRLOG.fields, MC_STATUS.fields ++ MC_ECC_CTR.fields ++ MC_ERRLOG_WPTR.fields, INTC_SRC.fields,
      GLB_VF_MAP.fields], F.among l = false := by decide +kernel
  have h := key F hF
  simp only [List.forall_mem_cons] at h
  simp only [State.fldThere, h, hp, Bool.false_eq_true, if_false]

theorem clrTargets_tally {a : Nat} {clr : Bool} (h1 : 0x10000000 ≤ a) (h2 : a < 0x20000000) {p : Fld × Nat}
    (hp : p ∈ clrTargets a clr) : p.1 ∈ TLY_SLOT.fields := by
  cases clr with
  | false => exact fieldsAt_tally h1 h2 (List.mem_filter.mp hp).1
  | true =>
    have hno : (fieldsAt a).any (fun p => p.1.among clrBits) = false := by
      rw [List.any_eq_false]
      exact fun q hq => by rw [tlySlot_clrBits q.1 (fieldsAt_tally h1 h2 hq)]; decide
    simp [clrTargets, hno] at hp

/-- A clear through BAR2 of a Tally that responds to the function (R52). -/
theorem counterClear_bar2 {f off : Nat} {clr : Bool} (hf : s.funcUp f = true) (on : s.pwr.off = false) (up : s.blkUp .tly = true)
    (ht : alignDown off 8 / 64 < 8192) (hv : s.vfTally f (alignDown off 8 / 64) = true) :
    exec (.counterClear f .bar2 off clr) s =
      .next (s.ctrsClear (clrTargets (0x10000000 + alignDown off 8) clr)).wakeAccess := by
  rw [exec_counterClear]
  unfold execCounterClear
  dsimp only
  rw [if_neg (by simp [hf, on])]
  unfold State.bar2
  rw [if_neg (by simp [up, on, ht]), if_neg (by simp [hv])]
  rfl

/-- A clear through BAR0 by the physical function. -/
theorem counterClear_bar0 {off : Nat} {clr : Bool} (on : s.pwr.off = false) (hb : Blk.ofAddr (alignDown off 8) = some b)
    (hw : s.winUp b = true) :
    exec (.counterClear 0 .bar0 off clr) s = .next (
      if b = .saf then (s.ctrsClear (clrTargets (alignDown off 8) clr)).safUpdate else s.ctrsClear (clrTargets (alignDown off 8) clr)) := by
  rw [exec_counterClear]
  unfold execCounterClear
  dsimp only
  rw [if_neg (by simp [State.funcUp, on]), hb]
  dsimp only
  rw [if_neg (by simp [hw])]
  rfl

/-- Settles O9, from the shadows that a commit applies (`State.applyShadows_commits`), those that a discard takes
(`State.discard_rdSh`) and the clears of a word's counters (`State.ctrsClear_zero`). -/
theorem commitDiscardAndClear : Obligations.CommitDiscardAndClear := by
  unfold Obligations.CommitDiscardAndClear Answers
  refine ⟨fun s b hw hc => ?_, fun s b hw hc => ?_, fun s f off clr hf on up ht hv => ?_, fun s b off clr on hb hw => ?_⟩
  · have e : exec (.commit b) s = .next (s.commit b) := by rw [exec_commit, execCommit, if_pos (by simp [hw, hc])]
    rw [e]
    refine ⟨fun h => by rw [State.commit_same h], fun h hr => ?_, fun h hr => ?_⟩
    · rw [State.commit_applied h hr]
      refine ⟨_, rfl, s.applyShadows b, rfl, State.applyShadows_rest, fun F hF i => ?_⟩
      have hc := State.applyShadows_commits (s := s) (b := b) hF i
      have hk := State.applyShadows_keeps (s := s) (b := b) hF i
      -- as a variable, so that no tactic unfolds the search through the table behind it
      generalize commitBlk (F.fid, i) = c at hc hk ⊢
      split
      next h => exact hc h
      next h => exact hk h
    · rw [State.commit_refused h hr]
      refine ⟨_, rfl, _, rfl, State.refusal_writes, State.cfgErrSet_on _ _ _, State.refusal_on, ?_⟩
      rw [State.cfgErrSet_offset]
      decide
  · have e : exec (.discard b) s = .next (s.discard b) := by rw [exec_discard, execDiscard, if_pos (by simp [hw, hc])]
    exact ⟨_, e, State.discard_rest, fun h F _ i => State.discard_rdSh h F i⟩
  · refine ⟨_, counterClear_bar2 hf on up ht hv, _, rfl, fun p hp => ?_⟩
    have hlt : 0x10000000 + alignDown off 8 < 0x20000000 := by omega
    exact s.ctrsClear_zero (fun _ => clrTargets_mem) hp (tlySlot_there (clrTargets_tally (by omega) hlt hp) _)
  · refine ⟨_, counterClear_bar0 on hb hw, s.ctrsClear (clrTargets (alignDown off 8) clr), rfl, fun p hp h => ?_⟩
    exact s.ctrsClear_zero (fun _ => clrTargets_mem) hp h

end Sys2Proof.Machine
end

/-! ## Host reads, the PCIe link and SR-IOV (O10) -/

section
/-! PROOFS. The latch of half-word reads, misaligned accesses, the link's two events, and the lending of MSI-X entries. -/

namespace Sys2Proof.Machine

variable {s t u : State}

/-! ### Reads (R17, R57, R7) -/

theorem lowWordRead_wide {f off : Nat} {sp : Space} (ho : off % 8 = 0) : exec (.lowWordRead f sp off true) s =
    .next { (s.readWord f sp off).2 with rdata := (s.readWord f sp off).1 } := by
  rw [exec_lowWordRead, execLowWordRead, if_neg (by simp [ho])]
  rfl

/-- The low half of a word of configuration space latches nothing. -/
theorem lowWordRead_cfg {f off : Nat} (ho : off % 8 = 0) : exec (.lowWordRead f .cfg off false) s =
    .next { (s.readWord f .cfg off).2 with rdata := (s.readWord f .cfg off).1 % 2 ^ 32 } := by
  rw [exec_lowWordRead, execLowWordRead, if_neg (by simp [ho])]
  rfl

/-- The low half of a word of a BAR latches the high half for its function. -/
theorem lowWordRead_bar {f off : Nat} {sp : Space} (ho : off % 8 = 0) (hs : sp ≠ .cfg) : exec (.lowWordRead f sp off false) s =
    .next { (s.readWord f sp off).2 with
      rdata := (s.readWord f sp off).1 % 2 ^ 32
      bus := { (s.readWord f sp off).2.bus with
        latch := (s.readWord f sp off).2.bus.latch.put f (latchKey sp off, (s.readWord f sp off).1 / 2 ^ 32) } } := by
  rw [exec_lowWordRead, execLowWordRead, if_neg (by simp [ho])]
  cases sp with
  | bar0 => rfl
  | bar2 => rfl
  | cfg => exact absurd rfl hs

theorem highWordRead_latched {f off h : Nat} {sp : Space} (ho : off % 8 = 0)
    (hl : s.bus.latch.get? f = some (latchKey sp off, h)) : exec (.highWordRead f sp (off + 4)) s =
    .next { s with rdata := h, bus := { s.bus with latch := s.bus.latch.del f } } := by
  rw [exec_highWordRead, execHighWordRead, if_neg (by omega), hl]
  simp only [Nat.add_sub_cancel, if_true]

theorem highWordRead_current {f off : Nat} {sp : Space} (ho : off % 8 = 0)
    (hl : ∀ h, s.bus.latch.get? f ≠ some (latchKey sp off, h)) : exec (.highWordRead f sp (off + 4)) s =
    .next { (s.readWord f sp off).2 with rdata := (s.readWord f sp off).1 / 2 ^ 32 } := by
  rw [exec_highWordRead, execHighWordRead, if_neg (by omega)]
  rcases hg : s.bus.latch.get? f with _ | ⟨k, h⟩
  · rfl
  · have hk : k ≠ latchKey sp off := fun e => hl h (by rw [hg, e])
    simp only [Nat.add_sub_cancel]
    rw [if_neg hk]

/-- What a misaligned access leaves before its event (R57). -/
def State.sizeErr (s : State) (f bar off : Nat) : State :=
  ({ s with rdata := 0 }.fl GLB_ACC_ERR.SIZE 0 true).wrs 0 [(GLB_ACC_ERR.BAR, bar), (GLB_ACC_ERR.FUNC, f), (GLB_ACC_ERR.OFFSET, off)]

theorem barAccessMisaligned_sets {f off : Nat} {sp : Space} (hf : s.funcUp f = true) (hg : s.winUp .glb = true) (hs : sp ≠ .cfg) :
    exec (.barAccessMisaligned f sp off) s = .next ((s.sizeErr f (if sp = .bar0 then 0 else 1) off).raise 0x24) := by
  have hn : ¬ (¬ State.funcUp { s with rdata := 0 } f ∨ ¬ State.winUp { s with rdata := 0 } .glb) :=
    not_or.mpr ⟨Classical.not_not.mpr hf, Classical.not_not.mpr hg⟩
  rw [exec_barAccessMisaligned]
  unfold execBarAccessMisaligned
  dsimp only
  rw [if_neg hn]
  cases sp with
  | bar0 => rfl
  | bar2 => rfl
  | cfg => exact absurd rfl hs

theorem State.wrs_three (x : State) (F G H : Fld) (a b c : Nat) :
    x.wrs 0 [(F, a), (G, b), (H, c)] = ((x.wr F 0 a).wr G 0 b).wr H 0 c := rfl

theorem State.sizeErr_writes (f bar off : Nat) : WriteOnly { s with rdata := 0 } (s.sizeErr f bar off)
    [(GLB_ACC_ERR.SIZE, 0), (GLB_ACC_ERR.BAR, 0), (GLB_ACC_ERR.FUNC, 0), (GLB_ACC_ERR.OFFSET, 0)] := by
  rw [State.sizeErr, State.wrs_three]
  exact ((((WriteOnly.refl _ _).fl _ _ _ (by simp)).wr _ _ _ (by simp)).wr _ _ _ (by simp)).wr _ _ _ (by simp)

theorem State.sizeErr_reads (f bar off : Nat) : (s.sizeErr f bar off).on GLB_ACC_ERR.SIZE = true ∧
    (s.sizeErr f bar off).rd GLB_ACC_ERR.BAR = bar % 2 ∧ (s.sizeErr f bar off).rd GLB_ACC_ERR.FUNC = f % 256 ∧
    (s.sizeErr f bar off).rd GLB_ACC_ERR.OFFSET = off % 2 ^ 32 := by
  rw [State.sizeErr, State.wrs_three]
  refine ⟨?_, ?_, ?_, State.rd_wr_same _ _ _ _⟩
  · rw [State.on, State.rd_wr_fid _ _ (by decide), State.rd_wr_fid _ _ (by decide), State.rd_wr_fid _ _ (by decide)]
    exact State.on_fl_same _ _ _ _ (by decide)
  · rw [State.rd_wr_fid _ _ (by decide), State.rd_wr_fid _ _ (by decide), State.rd_wr_same]
    rfl
  · rw [State.rd_wr_fid _ _ (by decide), State.rd_wr_same]
    rfl

/-- A word without fields reads as 0 (R7). -/
theorem State.regWord_empty {a : Nat} (h : fieldsAt a = []) : s.regWord a = 0 := by rw [State.regWord, h]; rfl

/-! ### The link (R41, R42, R47, R59) -/

theorem NotifyOnly.bus (h : NotifyOnly s t) : t.bus = s.bus := by rw [h.rest]
theorem NotifyOnly.errReg (h : NotifyOnly s t) : t.errReg = s.errReg := by rw [h.rest]
theorem RecordOnly.bus (h : RecordOnly s t) : t.bus = s.bus := by rw [h.rest]
theorem RecordOnly.mem (h : RecordOnly s t) : t.mem = s.mem := by rw [h.rest]
theorem RecordOnly.fe (h : RecordOnly s t) : t.fe = s.fe := by rw [h.rest]
theorem RecordOnly.tick (h : RecordOnly s t) : t.tick = s.tick := by rw [h.rest]

theorem NotifyOnly.record (h : NotifyOnly s t) : RecordOnly s t := (RecordOnly.refl s).notify h

/-- The notifications of targets whose entries the PF has again deliver and do nothing else (R51). -/
theorem State.notifyOpen_only (s : State) (p : Nat → Bool) : NotifyOnly s (s.notifyOpen p) :=
  NotifyOnly.foldl _ (NotifyOnly.refl s) fun _ _ h => NotifyOnly.ite (NotifyOnly.notifyTgtWith NotifyOnly.linkDrop h _) h

/-- The five fields of GLB_LINK. -/
def State.linkSet (s : State) (speed width flit up below : Nat) : State :=
  s.wrs 0 [(GLB_LINK.SPEED, speed), (GLB_LINK.WIDTH, width), (GLB_LINK.FLIT, flit), (GLB_LINK.UP, up), (GLB_LINK.BELOW_MIN, below)]

theorem State.linkSet_eq (speed width flit up below : Nat) : s.linkSet speed width flit up below =
    ((((s.wr GLB_LINK.SPEED 0 speed).wr GLB_LINK.WIDTH 0 width).wr GLB_LINK.FLIT 0 flit).wr GLB_LINK.UP 0 up).wr
      GLB_LINK.BELOW_MIN 0 below := rfl

theorem State.linkSet_writes (speed width flit up below : Nat) : WriteOnly s (s.linkSet speed width flit up below)
    [(GLB_LINK.SPEED, 0), (GLB_LINK.WIDTH, 0), (GLB_LINK.FLIT, 0), (GLB_LINK.UP, 0), (GLB_LINK.BELOW_MIN, 0)] := by
  rw [State.linkSet_eq]
  exact (((((WriteOnly.refl s _).wr _ _ _ (by simp)).wr _ _ _ (by simp)).wr _ _ _ (by simp)).wr _ _ _ (by simp)).wr _ _ _ (by simp)

/-- GLB_LINK holds these values: its fields read them. -/
structure State.LinkReads (t : State) (speed width flit up below : Nat) : Prop where
  speed : t.rd GLB_LINK.SPEED = speed % 2 ^ 4
  width : t.rd GLB_LINK.WIDTH = width % 2 ^ 5
  flit : t.rd GLB_LINK.FLIT = flit % 2
  up : t.rd GLB_LINK.UP = up % 2
  below : t.rd GLB_LINK.BELOW_MIN = below % 2

theorem State.linkSet_reads (speed width flit up below : Nat) :
    (s.linkSet speed width flit up below).LinkReads speed width flit up below := by
  rw [State.linkSet_eq]
  constructor
  · rw [State.rd_wr_fid _ _ (by decide), State.rd_wr_fid _ _ (by decide), State.rd_wr_fid _ _ (by decide), State.rd_wr_fid _ _ (by decide),
      State.rd_wr_same]
    rfl
  · rw [State.rd_wr_fid _ _ (by decide), State.rd_wr_fid _ _ (by decide), State.rd_wr_fid _ _ (by decide), State.rd_wr_same]
    rfl
  · rw [State.rd_wr_fid _ _ (by decide), State.rd_wr_fid _ _ (by decide), State.rd_wr_same]
    rfl
  · rw [State.rd_wr_fid _ _ (by decide), State.rd_wr_same]
    rfl
  · rw [State.rd_wr_same]
    rfl

theorem State.LinkReads.bus {speed width flit up below : Nat} (h : s.LinkReads speed width flit up below) (b : Bus) :
    State.LinkReads { s with bus := b } speed width flit up below := ⟨h.speed, h.width, h.flit, h.up, h.below⟩

/-- What is recorded and notified leaves GLB_LINK. -/
theorem State.LinkReads.record {speed width flit up below : Nat} (h : s.LinkReads speed width flit up below) (k : RecordOnly s t) :
    t.LinkReads speed width flit up below :=
  ⟨(k.rd _ _ (by decide)).trans h.speed, (k.rd _ _ (by decide)).trans h.width, (k.rd _ _ (by decide)).trans h.flit,
    (k.rd _ _ (by decide)).trans h.up, (k.rd _ _ (by decide)).trans h.below⟩

/-- The link of a rate and width below 16 GT/s or ×4 (R42). -/
def linkBelow (speed width : Nat) : Bool := speed < 4 || width < 4

/-- FLIT mode (R41). -/
def linkFlit (speed : Nat) (flit : Bool) : Bool := (flit && 4 ≤ speed) || speed == 6

/-- The trained link, before what is recorded of it. -/
def State.trained (s : State) (speed width : Nat) (flit : Bool) : State :=
  { s.linkSet speed width (b2n (linkFlit speed flit)) 1 (b2n (linkBelow speed width)) with bus := { s.bus with down := false } }

/-- What follows a training: the level of source 0x22 ends, a link that was down is recorded and its targets are notified, and
a link below the minimum raises its event. -/
def State.trainedEvents (t : State) (was below : Bool) : State :=
  let t := t.syncLevel 0x22
  let t := if was then t.linkRec 0 0 1 else t
  let t := if below then t.raise 0x21 else t
  if was then t.notifyOpen (fun _ => true) else t

theorem linkUp_trains {speed width : Nat} {flit : Bool} (hp : s.boot.por = false) (hq : s.boot.perst = false) (hh : s.boot.hold = false)
    (h1 : s.rd RST_BOOT_STEP.STATE 1 ≠ 0) (hs : 1 ≤ speed ∧ speed ≤ 6) (hw : width ∈ [1, 2, 4, 8, 16]) :
    exec (.linkUp speed width flit) s =
      .next ((s.trained speed width flit).trainedEvents s.bus.down (linkBelow speed width)).emcyClear := by
  have hc : [1, 2, 4, 8, 16].contains width = true := List.contains_iff_mem.mpr hw
  rw [exec_linkUp, execLinkUp, if_neg]
  · rfl
  · simp only [hp, hq, hh, hc]
    simp
    omega

theorem State.trainedEvents_record (was below : Bool) : RecordOnly s (s.trainedEvents was below) := by
  have h1 : RecordOnly s (s.syncLevel 0x22) := (s.syncLevel_only _).record
  have h2 : RecordOnly s (if was then (s.syncLevel 0x22).linkRec 0 0 1 else s.syncLevel 0x22) :=
    (State.linkRec_only 0 0 1 h1).ite h1
  unfold State.trainedEvents
  dsimp only
  generalize (if was then (s.syncLevel 0x22).linkRec 0 0 1 else s.syncLevel 0x22) = x at *
  have h3 : RecordOnly s (if below then x.raise 0x21 else x) := (h2.notify (x.raise_only _)).ite h2
  exact (h3.notify (State.notifyOpen_only _ _)).ite h3

/-- On a link that was not down a training notifies and records nothing (R41). -/
theorem State.trainedEvents_notify (below : Bool) : NotifyOnly s (s.trainedEvents false below) :=
  NotifyOnly.ite ((s.syncLevel_only 0x22).trans (State.raise_only _ _)) (s.syncLevel_only 0x22)

theorem State.emcyClear_none (h : s.errReg = 0) : s.emcyClear = s := by
  unfold State.emcyClear
  rw [if_neg (by simp [h])]

/-- What follows a training is recorded and notified. -/
theorem State.trained_record (speed width : Nat) (flit : Bool) : RecordOnly (s.trained speed width flit)
    ((s.trained speed width flit).trainedEvents s.bus.down (linkBelow speed width)).emcyClear :=
  State.emcyClear_only (State.trainedEvents_record _ _)

theorem State.trained_kept (speed width : Nat) (flit : Bool) : RegsKept s (s.trained speed width flit)
    [(GLB_LINK.SPEED, 0), (GLB_LINK.WIDTH, 0), (GLB_LINK.FLIT, 0), (GLB_LINK.UP, 0), (GLB_LINK.BELOW_MIN, 0)] :=
  (s.linkSet_writes speed width _ 1 _).rd

theorem State.trained_rest (speed width : Nat) (flit : Bool) :
    s.trained speed width flit = { s with regs := (s.trained speed width flit).regs, bus := { s.bus with down := false } } := by
  unfold State.trained
  rw [(s.linkSet_writes speed width _ 1 _).rest]

/-- An enabled device whose link goes down, before what is recorded of it (R47). -/
def State.lostLink (s : State) : State :=
  { s.linkSet 0 0 0 0 0 with bus := { (s.linkSet 0 0 0 0 0).bus with down := true } }

/-- What follows: its level source, its Ledger record and its EMCY. -/
def State.linkLost (s : State) : State := ((s.lostLink.syncLevel 0x22).linkRec 0 0 0).emcy 0x8110 0x22 s.lostLink.lastInc

theorem linkDown_enabled (hu : s.on GLB_LINK.UP = true) (he : s.on RST_BOOT_CTL.ENABLED = true) : exec .linkDown s = .next s.linkLost := by
  have he' : ¬ ¬ (s.linkSet 0 0 0 0 0).on RST_BOOT_CTL.ENABLED = true := by
    rw [Classical.not_not, State.on, (s.linkSet_writes 0 0 0 0 0).rd _ _ (by decide)]; exact he
  rw [exec_linkDown, execLinkDown, if_neg (by simp [hu])]
  exact if_neg he'

theorem linkDown_disabled (hu : s.on GLB_LINK.UP = true) (he : s.on RST_BOOT_CTL.ENABLED = false) :
    exec .linkDown s = .next (s.linkSet 0 0 0 0 0) := by
  have he' : ¬ (s.linkSet 0 0 0 0 0).on RST_BOOT_CTL.ENABLED = true := by
    rw [State.on, (s.linkSet_writes 0 0 0 0 0).rd _ _ (by decide)]; exact ne_true_of_eq_false he
  rw [exec_linkDown, execLinkDown, if_neg (by simp [hu])]
  exact if_pos he'

/-- An occurrence of a counter outside the SAF/ASY window leaves the error register. -/
theorem State.count_errReg (F : Fld) (i : Nat) : (s.count F i).errReg = s.errReg := by
  have hb : (s.bump F i 1).1.errReg = s.errReg := by
    unfold State.bump
    dsimp only
    repeat' split
    all_goals rfl
  unfold State.count State.countN
  generalize s.bump F i 1 = r at *
  obtain ⟨x, o⟩ := r
  dsimp only at *
  split
  · exact hb
  · split
    · rw [(x.syncLevel_only _).errReg, hb]
    · rw [(x.raise_only _).errReg, hb]

/-- An EMCY event sets its bits of the error register (R533). -/
theorem State.emcy_errReg {code : Nat} (hc : code ≠ 0) (src inc : Nat) : (s.emcy code src inc).errReg = s.errReg ||| emcyBits code := by
  unfold State.emcy
  dsimp only
  rw [if_neg hc]
  split
  · rw [(State.raise_only _ _).errReg, State.count_errReg]
    rfl
  · rfl

/-- The error register takes the communication bit (R533). -/
theorem State.linkLost_errReg : bit s.linkLost.errReg 4 = true := by
  rw [State.linkLost, State.emcy_errReg (by decide), bit_eq_testBit, Nat.testBit_or, show (emcyBits 0x8110).testBit 4 = true by decide,
    Bool.or_true]

/-- A link record joins the records that wait for the Ledger (R619). -/
theorem State.linkRec_wait (a b c : Nat) : ∃ x, (s.linkRec a b c).ldg.wait = s.ldg.wait ++ [x] := ⟨_, rfl⟩

theorem RecordOnly.wait (h : RecordOnly s t) : ∃ r, t.ldg.wait = s.ldg.wait ++ r := by
  obtain ⟨r, e⟩ := h.ldg
  exact ⟨r, by rw [e]⟩

/-- What a link-down leaves: everything of it is recorded, the Ledger's record first. -/
theorem State.lostLink_record :
    RecordOnly s.lostLink s.linkLost :=
  State.emcy_only _ _ _ (State.linkRec_only _ _ _ (State.syncLevel_only _ _).record)

theorem State.lostLink_wait : ∃ r, s.linkLost.ldg.wait = s.ldg.wait ++ r ∧ r ≠ [] := by
  obtain ⟨x, hx⟩ := (s.lostLink.syncLevel 0x22).linkRec_wait 0 0 0
  obtain ⟨r, hr⟩ := (State.emcy_only 0x8110 0x22 s.lostLink.lastInc (RecordOnly.refl ((s.lostLink.syncLevel 0x22).linkRec 0 0 0))).wait
  refine ⟨x :: r, ?_, by simp⟩
  rw [State.linkLost, hr, hx, (s.lostLink.syncLevel_only 0x22).ldg, List.append_assoc]
  rfl

theorem State.lostLink_rest : s.lostLink = { s with regs := s.lostLink.regs, bus := { s.bus with down := true } } := by
  unfold State.lostLink
  rw [(s.linkSet_writes 0 0 0 0 0).rest]

/-! ### SR-IOV (R50, R51) -/

/-- The entries that are lent: of the 32 entries of each of the VFs 1 to NumVFs, VF 1's the highest (R50). -/
theorem State.lentTo_isSome {v : Nat} :
    (s.lentTo v).isSome = true ↔ s.bus.vfEn = true ∧ v < 2048 ∧ 32 ≤ v ∧ 2048 ≤ v + 32 * s.bus.numVfs := by
  unfold State.lentTo
  dsimp only
  have e : (if (s.bus.vfEn && decide (1 ≤ (2048 - v + 31) / 32) && decide ((2048 - v + 31) / 32 ≤ s.bus.numVfs) &&
      decide ((2048 - v + 31) / 32 ≤ 63) && decide (v < 2048)) = true then some ((2048 - v + 31) / 32) else none).isSome = true ↔
      (s.bus.vfEn && decide (1 ≤ (2048 - v + 31) / 32) && decide ((2048 - v + 31) / 32 ≤ s.bus.numVfs) &&
      decide ((2048 - v + 31) / 32 ≤ 63) && decide (v < 2048)) = true := by
    split <;> simp_all
  rw [e]
  simp only [Bool.and_eq_true, decide_eq_true_eq]
  constructor
  · rintro ⟨⟨⟨⟨h1, h2⟩, h3⟩, h4⟩, h5⟩
    exact ⟨h1, by omega⟩
  · rintro ⟨h1, h2, h3, h4⟩
    exact ⟨⟨⟨⟨h1, by omega⟩, by omega⟩, by omega⟩, h2⟩

theorem State.lentTo_none_iff {v : Nat} : s.lentTo v = none ↔ ¬ (s.bus.vfEn = true ∧ v < 2048 ∧ 32 ≤ v ∧ 2048 ≤ v + 32 * s.bus.numVfs) := by
  rw [← State.lentTo_isSome]
  simp

theorem State.lentTo_congr (h : t.bus = s.bus) (v : Nat) : t.lentTo v = s.lentTo v := by simp only [State.lentTo, h]

/-- From `s` to `t` entries stay lent as they are and vector `v` holds what it held. -/
structure HeldKept (v : Nat) (s t : State) : Prop where
  bus : t.bus = s.bus
  held : t.irq.held.get? v = s.irq.held.get? v

theorem HeldKept.refl (v : Nat) (s : State) : HeldKept v s s := ⟨rfl, rfl⟩

theorem HeldKept.wr {v : Nat} (h : HeldKept v s t) (F : Fld) (i x : Nat) : HeldKept v s (t.wr F i x) := ⟨h.bus, h.held⟩

theorem HeldKept.ite {v : Nat} {c : Prop} [Decidable c] (h : HeldKept v s t) (k : HeldKept v s u) : HeldKept v s (if c then t else u) := by
  split
  · exact h
  · exact k

theorem HeldKept.foldl {α : Type} {v : Nat} {f : State → α → State} (l : List α) (h : HeldKept v s t)
    (hf : ∀ t a, HeldKept v s t → HeldKept v s (f t a)) : HeldKept v s (l.foldl f t) := by
  induction l generalizing t with
  | nil => exact h
  | cons a r ih => exact ih (hf _ _ h)

section
variable {v : Nat} {drop : State → State} (hd : ∀ t, HeldKept v s t → HeldKept v s (drop t))
include hd

theorem HeldKept.msiWith (h : HeldKept v s t) (m : Nat) : HeldKept v s (t.msiWith drop m) := by
  unfold State.msiWith
  exact HeldKept.ite (hd t h) (HeldKept.ite ⟨h.bus, h.held⟩ (HeldKept.ite h ⟨h.bus, h.held⟩))

theorem HeldKept.sendHeldWith (h : HeldKept v s t) {m : Nat} (hm : m ≠ v) : HeldKept v s (t.sendHeldWith drop m) := by
  unfold State.sendHeldWith
  have k : HeldKept v s { t with irq := { t.irq with held := t.irq.held.del m } } := ⟨h.bus, by rw [NMap.get?_del, if_neg hm, h.held]⟩
  exact HeldKept.ite (HeldKept.msiWith hd (k.wr _ _ _) m) ⟨k.bus, k.held⟩

theorem HeldKept.notifyVecWith (h : HeldKept v s t) {m : Nat} (hm : m ≠ v) : HeldKept v s (t.notifyVecWith drop m) := by
  unfold State.notifyVecWith
  have put : ∀ (t : State) (x : Nat × Nat), HeldKept v s t → HeldKept v s { t with irq := { t.irq with held := t.irq.held.put m x } } :=
    fun t x k => ⟨k.bus, by rw [NMap.get?_put, if_neg hm, k.held]⟩
  by_cases hv : m < 2048
  · simp only [if_pos hv]
    exact HeldKept.ite (HeldKept.sendHeldWith hd h hm) ((put _ _ h).wr _ _ _)
  · simp only [if_neg hv]
    have k : HeldKept v s (t.free 1).2 := ⟨h.bus, h.held⟩
    exact HeldKept.ite (HeldKept.sendHeldWith hd k hm) (put _ _ k)

/-- A target is notified on a vector that is not lent, or a hart's. -/
theorem HeldKept.notifyTgtWith (h : HeldKept v s t) (hl : (s.lentTo v).isSome = true) (k : Nat) :
    HeldKept v s (t.notifyTgtWith drop k) := by
  have hv := (State.lentTo_isSome.mp hl).2.1
  unfold State.notifyTgtWith
  split
  · exact HeldKept.notifyVecWith hd h (by omega)
  · split
    next hn =>
      refine HeldKept.notifyVecWith hd h fun e => ?_
      rw [e, State.lentTo_congr h.bus, Bool.and_eq_true] at hn
      rw [Option.isNone_iff_eq_none] at hn
      simp [hn.2] at hl
    · exact h

theorem HeldKept.assertWith (h : HeldKept v s t) (hl : (s.lentTo v).isSome = true) (n : Nat) : HeldKept v s (t.assertWith drop n) := by
  have pend : ∀ t, HeldKept v s t → HeldKept v s (t.pendWith drop n) := fun t k =>
    HeldKept.foldl _ (k.wr _ _ _) fun _ _ k => HeldKept.notifyTgtWith hd k hl _
  unfold State.assertWith
  dsimp only
  have k : HeldKept v s (if srcIsLevel n then t.fl INTC_SRC.ASSERTED n true else t) := HeldKept.ite (h.wr _ _ _) h
  exact HeldKept.ite h (HeldKept.ite k (HeldKept.ite (pend _ k) (HeldKept.ite (k.wr _ _ _) k)))
end

theorem HeldKept.bump {v : Nat} (h : HeldKept v s t) (F : Fld) (i n : Nat) : HeldKept v s (t.bump F i n).1 := by
  unfold State.bump
  dsimp only
  repeat' split
  all_goals exact ⟨h.bus, h.held⟩

/-- A source's assertion holds nothing for a vector that is lent (R51). -/
theorem HeldKept.raise {v : Nat} (h : HeldKept v s t) (hl : (s.lentTo v).isSome = true) (n : Nat) : HeldKept v s (t.raise n) :=
  HeldKept.assertWith (fun _ k => HeldKept.ite (HeldKept.assertWith (fun _ k => k) (k.bump _ _ _) hl _) (k.bump _ _ _)) h hl n

/-! What the notifications that follow leave, and what a transfer of entries does. -/

theorem State.dropHeld_only (s : State) (vs : List Nat) : NotifyOnly s (s.dropHeld vs) :=
  NotifyOnly.foldl _ ((NotifyOnly.refl s).irq _) fun _ _ h => h.fl _ _ _ rfl

/-- The register writes of a discard leave what is held. -/
theorem State.dropHeld_held (s : State) (vs : List Nat) :
    (s.dropHeld vs).irq.held = s.irq.held.filter (fun p => !vs.contains p.1) := by
  have h : ∀ (l : List Nat) (t : State), (l.foldl (fun s v => s.fl INTC_MOD.HELD v false) t).irq = t.irq := by
    intro l
    induction l with
    | nil => exact fun _ => rfl
    | cons a r ih => exact fun t => ih _
  rw [State.dropHeld, h]

theorem NMap.get?_filter_key {α : Type} (m : NMap α) (q : Nat → Bool) (k : Nat) :
    NMap.get? (m.filter fun e => q e.1) k = if q k then m.get? k else none := by
  induction m with
  | nil => simp [NMap.get?]
  | cons e r ih =>
    rw [List.filter_cons]
    by_cases hk : e.1 = k
    · subst hk
      cases hq : q e.1 <;> simp [NMap.get?, ih, hq]
    · cases hq : q e.1 <;> simp [NMap.get?, ih, hk]

theorem State.dropHeld_get {vs : List Nat} {v : Nat} (h : v ∈ vs) : (s.dropHeld vs).irq.held.get? v = none := by
  rw [State.dropHeld_held, NMap.get?_filter_key _ (fun k => !vs.contains k)]
  simp [h]

theorem State.lendEntries_held {vs : List Nat} {v : Nat} (h : v ∈ vs) : (s.lendEntries vs).irq.held.get? v = none := by
  unfold State.lendEntries
  exact State.dropHeld_get h

/-- A transfer of entries changes what the PCIe port and the moderation hold, and the HELD fields. -/
structure LendOnly (s t : State) : Prop where
  rd : ∀ F i, evFld F = false → t.rd F i = s.rd F i
  rest : t = { s with regs := t.regs, irq := t.irq, out := t.out, freeCtr := t.freeCtr, bus := t.bus }

theorem LendOnly.notify (h : LendOnly s t) (k : NotifyOnly t u) : LendOnly s u :=
  ⟨fun F i e => (k.rd F i e).trans (h.rd F i e), by rw [k.rest, h.rest]⟩

theorem LendOnly.kept (h : LendOnly s t) (l : List (Fld × Nat)) : RegsKeptEv s t l := fun F i e _ => h.rd F i e

theorem LendOnly.of_bus {b : Bus} (h : LendOnly { s with bus := b } t) : LendOnly s t := ⟨h.rd, h.rest⟩

theorem LendOnly.writeEv {l : List (Fld × Nat)} (h : LendOnly s t) (k : WriteEv t u l) : RegsKeptEv s u l ∧
    u = { s with regs := u.regs, irq := u.irq, out := u.out, freeCtr := u.freeCtr, bus := u.bus } :=
  ⟨fun F i e n => (k.rd F i e n).trans (h.rd F i e), by rw [k.rest, h.rest]⟩

theorem State.lendEntries_only (s : State) (vs : List Nat) : LendOnly s (s.lendEntries vs) := by
  unfold State.lendEntries
  refine LendOnly.notify ?_ (State.dropHeld_only _ vs)
  exact ⟨fun _ _ _ => rfl, rfl⟩

theorem State.returnEntries_only (s : State) (vs : List Nat) : LendOnly s (s.returnEntries vs) := by
  unfold State.returnEntries
  refine LendOnly.notify ?_ (State.dropHeld_only _ vs)
  exact ⟨fun _ _ _ => rfl, rfl⟩

/-- Entries that go to VFs are masked; the PF's mask bits are kept (log entry 60). -/
theorem State.lendEntries_bus (s : State) (vs : List Nat) : (s.lendEntries vs).bus.vfEn = s.bus.vfEn ∧
    (s.lendEntries vs).bus.numVfs = s.bus.numVfs ∧
    ∀ v ∈ vs, v ∉ (s.lendEntries vs).bus.unmasked ∧ (v ∈ (s.lendEntries vs).bus.keptUnmasked ↔ v ∈ s.bus.unmasked) := by
  rw [State.lendEntries, (State.dropHeld_only _ vs).bus]
  refine ⟨rfl, rfl, fun v hv => ?_⟩
  simp [hv]

/-- Entries that come back are unmasked as the PF left them (log entry 60). -/
theorem State.returnEntries_bus (s : State) (vs : List Nat) : (s.returnEntries vs).bus.vfEn = s.bus.vfEn ∧
    (s.returnEntries vs).bus.numVfs = s.bus.numVfs ∧ (s.returnEntries vs).bus.msixEn = s.bus.msixEn ∧
    (s.returnEntries vs).bus.latch = s.bus.latch ∧
    ∀ v ∈ vs, v ∈ (s.returnEntries vs).bus.unmasked ↔ v ∈ s.bus.keptUnmasked := by
  rw [State.returnEntries, (State.dropHeld_only _ vs).bus]
  refine ⟨rfl, rfl, rfl, rfl, fun v hv => ?_⟩
  simp [hv]

/-- NumVFs shrinks: functions above it are gone. -/
def State.vfShrunk (s : State) (n : Nat) : State :=
  { s with
    bus := { s.bus with
      vfEn := n != 0, numVfs := n, msixEn := s.bus.msixEn.filter (fun f => f ≤ n), funcMask := s.bus.funcMask.filter (fun f => f ≤ n),
      cfg := s.bus.cfg.filter (fun p => p.1 / 4096 ≤ n),
      latch := s.bus.latch.filter (fun p => p.1 ≤ n), splitLow := s.bus.splitLow.filter (fun p => p.1 ≤ n) } }

/-- The entries that a shrinking from `m` to `n` VFs gives back. -/
def backEntries (n m : Nat) : List Nat := (List.range 2048).filter (fun v => n < (2048 - v + 31) / 32 && (2048 - v + 31) / 32 ≤ m)

theorem mem_backEntries {n m v : Nat} (h : 2048 - 32 * m ≤ v) (k : v < 2048 - 32 * n) : v ∈ backEntries n m := by
  simp only [backEntries, List.mem_filter, List.mem_range, Bool.and_eq_true, decide_eq_true_eq]
  omega

/-- What a smaller NumVFs leaves. -/
def State.vfReturned (s : State) (n : Nat) : State :=
  ((s.vfShrunk n).returnEntries (backEntries n s.bus.numVfs)).notifyOpen
    fun t => (backEntries n s.bus.numVfs).contains ((s.vfShrunk n).rd INTC_TGT.VECTOR t)

theorem vfDisable_returns {n : Nat} (he : s.bus.vfEn = true) (hn : n < s.bus.numVfs) :
    exec (.vfDisable n) s = .next (s.vfReturned n) := by
  rw [exec_vfDisable, execVfDisable, if_neg (by simp [he, hn])]
  rfl

theorem State.vfReturned_only (s : State) (n : Nat) : LendOnly s (s.vfReturned n) :=
  (LendOnly.of_bus ((s.vfShrunk n).returnEntries_only (backEntries n s.bus.numVfs))).notify (State.notifyOpen_only _ _)

theorem State.vfReturned_bus (s : State) (n : Nat) : (s.vfReturned n).bus.vfEn = (n != 0) ∧ (s.vfReturned n).bus.numVfs = n ∧
    (s.vfReturned n).bus.msixEn = s.bus.msixEn.filter (fun f => f ≤ n) ∧
    (s.vfReturned n).bus.latch = s.bus.latch.filter (fun p => p.1 ≤ n) ∧
    ∀ v ∈ backEntries n s.bus.numVfs, v ∈ (s.vfReturned n).bus.unmasked ↔ v ∈ s.bus.keptUnmasked := by
  rw [State.vfReturned, (State.notifyOpen_only _ _).bus]
  exact (s.vfShrunk n).returnEntries_bus _

/-- VF Enable with NumVFs `n`, before the entries are lent. -/
def State.vfGrown (s : State) (n : Nat) : State := { s with bus := { s.bus with vfEn := true, numVfs := n } }

/-- The entry is lent to a VF and was not before. -/
def State.newlyLent (s : State) (n v : Nat) : Bool := !(s.lentTo v).isSome && ((s.vfGrown n).lentTo v).isSome

/-- The entries that become lent. -/
def State.newEntries (s : State) (n : Nat) : List Nat := (List.range 2048).filter (s.newlyLent n)

/-- The committed bindings of exports and of host targets to entries that become lent. -/
def State.newBindings (s : State) (n : Nat) : Nat :=
  (s.regs.filter (fun e => e.1.1 == TLY_EXP.MSI_EN.fid && e.2 == 1 && s.newlyLent n (s.rd TLY_EXP.VECTOR e.1.2))).length +
  ((List.range 64).filter (fun k => s.on INTC_TGT.EN k && s.newlyLent n (s.rd INTC_TGT.VECTOR k))).length

/-- A binding to a lent entry is a configuration error of GLB (R51). -/
def State.bindingErr (s : State) : State := (s.fl CFG.CFG_ERR 0 true).raise 0x20

/-- What VF Enable leaves. -/
def State.vfLent (s : State) (n : Nat) : State :=
  (List.range (s.newBindings n)).foldl (fun s _ => s.bindingErr) ((s.vfGrown n).lendEntries (s.newEntries n))

theorem vfEnable_lends {n : Nat} (h1 : 1 ≤ n) (h2 : n ≤ 63) (hb : s.rd RST_BOOT_STEP.STATE 1 ≠ 0)
    (hn : s.bus.vfEn = true → s.bus.numVfs < n) : exec (.vfEnable n) s = .next (s.vfLent n) := by
  rw [exec_vfEnable, execVfEnable, if_neg (by omega), if_neg (fun h => absurd (hn h.1) (by omega))]
  rfl

theorem vfEnable_shrinks {n : Nat} (h1 : 1 ≤ n) (h2 : n ≤ 63) (hb : s.rd RST_BOOT_STEP.STATE 1 ≠ 0) (he : s.bus.vfEn = true)
    (hn : n ≤ s.bus.numVfs) : exec (.vfEnable n) s = exec (.vfDisable n) s := by
  rw [exec_vfEnable, execVfEnable, if_neg (by omega), if_pos ⟨he, hn⟩, exec_vfDisable]

/-- Each binding error sets CFG_ERR and notifies. -/
theorem State.bindingErr_writes (s : State) : WriteEv s s.bindingErr [(CFG.CFG_ERR, 0)] :=
  ((WriteEv.refl s _).fl _ _ _ (by simp)).raise _

theorem WriteEv.trans {l : List (Fld × Nat)} (h : WriteEv s t l) (k : WriteEv t u l) : WriteEv s u l :=
  ⟨fun F i e n => (k.rd F i e n).trans (h.rd F i e n), by rw [k.rest, h.rest]⟩

theorem State.bindingErrs_writes (n : Nat) (s : State) :
    WriteEv s ((List.range n).foldl (fun s _ => s.bindingErr) s) [(CFG.CFG_ERR, 0)] := by
  generalize List.range n = l
  induction l generalizing s with
  | nil => exact WriteEv.refl s _
  | cons a r ih => exact s.bindingErr_writes.trans (ih s.bindingErr)

theorem State.bindingErrs_on {n : Nat} (hn : n ≠ 0) (s : State) :
    ((List.range n).foldl (fun s _ => s.bindingErr) s).on CFG.CFG_ERR 0 = true := by
  obtain ⟨k, rfl⟩ := Nat.exists_eq_succ_of_ne_zero hn
  rw [List.range_succ, List.foldl_append, List.foldl_cons, List.foldl_nil, State.on, State.bindingErr, State.rd_raise _ _ _ (by decide)]
  exact State.on_fl_same _ _ _ _ (by decide)

theorem State.bindingErrs_held {v : Nat} (n : Nat) (s : State) (hl : (s.lentTo v).isSome = true) :
    HeldKept v s ((List.range n).foldl (fun s _ => s.bindingErr) s) :=
  HeldKept.foldl _ (HeldKept.refl v s) fun _ _ h => (h.wr _ _ _).raise hl _

theorem State.vfLent_bus (s : State) (n : Nat) : (s.vfLent n).bus = ((s.vfGrown n).lendEntries (s.newEntries n)).bus := by
  rw [State.vfLent, (State.bindingErrs_writes _ _).rest]

theorem State.vfLent_lentTo (s : State) {n v : Nat} :
    ((s.vfLent n).lentTo v).isSome = true ↔ v < 2048 ∧ 32 ≤ v ∧ 2048 ≤ v + 32 * n := by
  obtain ⟨h1, h2, -⟩ := (s.vfGrown n).lendEntries_bus (s.newEntries n)
  rw [State.lentTo_isSome, State.vfLent_bus, h1, h2]
  simp [State.vfGrown]

theorem State.mem_newEntries {n v : Nat} (hn : n ≤ 63) (h1 : 2048 - 32 * n ≤ v) (h2 : v < 2048) (hl : s.lentTo v = none) :
    v ∈ s.newEntries n := by
  rw [State.newEntries, List.mem_filter, List.mem_range]
  refine ⟨h2, ?_⟩
  rw [State.newlyLent, Bool.and_eq_true, State.lentTo_isSome, hl]
  exact ⟨rfl, rfl, h2, by omega, by simp only [State.vfGrown]; omega⟩

theorem State.vfLent_rest (s : State) (n : Nat) : RegsKeptEv s (s.vfLent n) [(CFG.CFG_ERR, 0)] ∧
    s.vfLent n = { s with regs := (s.vfLent n).regs, irq := (s.vfLent n).irq, out := (s.vfLent n).out,
                          freeCtr := (s.vfLent n).freeCtr, bus := (s.vfLent n).bus } :=
  (LendOnly.of_bus ((s.vfGrown n).lendEntries_only (s.newEntries n))).writeEv (State.bindingErrs_writes _ _)

/-- A bound target whose entry becomes lent makes a configuration error. -/
theorem State.newBindings_pos {n k : Nat} (hk : k < 64) (he : s.on INTC_TGT.EN k = true)
    (hv : s.rd INTC_TGT.VECTOR k ∈ s.newEntries n) : s.newBindings n ≠ 0 := by
  have hm : k ∈ (List.range 64).filter (fun k => s.on INTC_TGT.EN k && s.newlyLent n (s.rd INTC_TGT.VECTOR k)) := by
    rw [List.mem_filter, List.mem_range, he, (List.mem_filter.mp hv).2]
    exact ⟨hk, rfl⟩
  have := List.length_pos_of_mem hm
  unfold State.newBindings
  omega

/-! ### The obligation -/

/-- Half-word reads, misaligned accesses and reserved words. -/
theorem reads_latch_the_high_half (f : Nat) (sp : Space) (off : Nat) (ho : off % 8 = 0) :
    Answers (.lowWordRead f sp off true) s (fun t => t = { (s.readWord f sp off).2 with rdata := (s.readWord f sp off).1 }) ∧
    Answers (.lowWordRead f sp off false) s (fun t => t.rdata = (s.readWord f sp off).1 % 2 ^ 32 ∧
      t.bus.latch.get? f = if sp = .cfg then (s.readWord f sp off).2.bus.latch.get? f
        else some (latchKey sp off, (s.readWord f sp off).1 / 2 ^ 32)) ∧
    (∀ h, s.bus.latch.get? f = some (latchKey sp off, h) → Answers (.highWordRead f sp (off + 4)) s fun t =>
      t = { s with rdata := h, bus := t.bus } ∧ t.bus.latch.get? f = none) ∧
    ((∀ h, s.bus.latch.get? f ≠ some (latchKey sp off, h)) → Answers (.highWordRead f sp (off + 4)) s fun t =>
      t = { (s.readWord f sp off).2 with rdata := (s.readWord f sp off).1 / 2 ^ 32 }) := by
  refine ⟨⟨_, lowWordRead_wide ho, rfl⟩, ?_, fun h hl => ⟨_, highWordRead_latched ho hl, rfl, by simp⟩,
    fun hl => ⟨_, highWordRead_current ho hl, rfl⟩⟩
  by_cases hs : sp = .cfg
  · subst hs
    exact ⟨_, lowWordRead_cfg ho, rfl, by rw [if_pos rfl]⟩
  · exact ⟨_, lowWordRead_bar ho hs, rfl, by rw [if_neg hs]; simp⟩

theorem barAccessMisaligned_leaves (f off : Nat) {sp : Space} (hf : s.funcUp f = true) (hg : s.winUp .glb = true) (hs : sp ≠ .cfg) :
    Answers (.barAccessMisaligned f sp off) s fun t => ∃ u : State, t = u.raise 0x24 ∧ u.rdata = 0 ∧
      WriteOnly { s with rdata := 0 } u [(GLB_ACC_ERR.SIZE, 0), (GLB_ACC_ERR.BAR, 0), (GLB_ACC_ERR.FUNC, 0), (GLB_ACC_ERR.OFFSET, 0)] ∧
      u.on GLB_ACC_ERR.SIZE = true ∧ u.rd GLB_ACC_ERR.BAR = (if sp = .bar0 then 0 else 1) ∧
      u.rd GLB_ACC_ERR.FUNC = f % 256 ∧ u.rd GLB_ACC_ERR.OFFSET = off % 2 ^ 32 := by
  have hw := s.sizeErr_writes f (if sp = .bar0 then 0 else 1) off
  obtain ⟨h1, h2, h3, h4⟩ := s.sizeErr_reads f (if sp = .bar0 then 0 else 1) off
  refine ⟨_, barAccessMisaligned_sets hf hg hs, _, rfl, by rw [hw.rest], hw, h1, ?_, h3, h4⟩
  rw [h2]
  split <;> rfl

theorem linkUp_leaves {speed width : Nat} {flit : Bool} (hp : s.boot.por = false) (hq : s.boot.perst = false) (hh : s.boot.hold = false)
    (h1 : s.rd RST_BOOT_STEP.STATE 1 ≠ 0) (hs : 1 ≤ speed ∧ speed ≤ 6) (hw : width ∈ [1, 2, 4, 8, 16]) :
    Answers (.linkUp speed width flit) s fun t => t.rd GLB_LINK.SPEED = speed ∧ t.rd GLB_LINK.WIDTH = width ∧
      t.on GLB_LINK.UP = true ∧ t.rd GLB_LINK.FLIT = b2n ((flit && 4 ≤ speed) || speed == 6) ∧
      (t.on GLB_LINK.BELOW_MIN = true ↔ speed < 4 ∨ width < 4) ∧ t.bus = { s.bus with down := false } ∧ t.mem = s.mem ∧
      t.fe = s.fe ∧ t.tick = s.tick ∧
      (s.bus.down = false → s.errReg = 0 → t = { s with regs := t.regs, irq := t.irq, out := t.out, freeCtr := t.freeCtr } ∧
        RegsKeptEv s t [(GLB_LINK.SPEED, 0), (GLB_LINK.WIDTH, 0), (GLB_LINK.FLIT, 0), (GLB_LINK.UP, 0), (GLB_LINK.BELOW_MIN, 0)]) := by
  have hrec := s.trained_record speed width flit
  have hrest := s.trained_rest speed width flit
  have hb : ∀ b, b2n b % 2 = b2n b := by decide
  have hw32 : width < 2 ^ 5 := by
    simp only [List.mem_cons, List.not_mem_nil, or_false] at hw
    omega
  obtain ⟨hspeed, hwidth, hflit, hup, hbelow⟩ := ((s.linkSet_reads _ _ _ _ _).bus _).record hrec
  refine ⟨_, linkUp_trains hp hq hh h1 hs hw, ?_, ?_, ?_, ?_, ?_, ?_, ?_, ?_, ?_, fun hd he => ?_⟩
  · rw [hspeed]; exact Nat.mod_eq_of_lt (by omega)
  · rw [hwidth]; exact Nat.mod_eq_of_lt hw32
  · rw [State.on, hup]; rfl
  · rw [hflit, hb]; rfl
  · rw [State.on, hbelow, hb, linkBelow]
    by_cases h4 : speed < 4 <;> by_cases h5 : width < 4 <;> simp [h4, h5, b2n]
  · rw [hrec.bus, hrest]
  · rw [hrec.mem, hrest]
  · rw [hrec.fe, hrest]
  · rw [hrec.tick, hrest]
  · rw [hd]
    have hn : NotifyOnly (s.trained speed width flit) ((s.trained speed width flit).trainedEvents false (linkBelow speed width)) :=
      State.trainedEvents_notify _
    rw [State.emcyClear_none (by rw [hn.errReg, hrest]; exact he)]
    refine ⟨?_, (s.trained_kept speed width flit).ev.notify hn⟩
    have hbus : ({ s.bus with down := false } : Bus) = s.bus := by rw [← hd]
    rw [hn.rest, hrest, hbus]

theorem linkDown_leaves (hu : s.on GLB_LINK.UP = true) :
    Answers .linkDown s fun t => t.rd GLB_LINK.SPEED = 0 ∧ t.rd GLB_LINK.WIDTH = 0 ∧
      t.on GLB_LINK.FLIT = false ∧ t.on GLB_LINK.UP = false ∧ t.on GLB_LINK.BELOW_MIN = false ∧ t.mem = s.mem ∧ t.fe = s.fe ∧
      t.tick = s.tick ∧
      (s.on RST_BOOT_CTL.ENABLED = true → t.bus = { s.bus with down := true } ∧ (∃ r, t.ldg.wait = s.ldg.wait ++ r ∧ r ≠ []) ∧
        bit t.errReg 4 = true) ∧
      (s.on RST_BOOT_CTL.ENABLED = false → t = { s with regs := t.regs }) := by
  have off : ∀ {t : State} {F : Fld}, t.rd F = 0 % 2 → t.on F = false := fun h => by rw [State.on, h]; rfl
  cases he : s.on RST_BOOT_CTL.ENABLED with
  | true =>
    have hrec := s.lostLink_record
    have hrest := s.lostLink_rest
    obtain ⟨hspeed, hwidth, hflit, hup, hbelow⟩ := ((s.linkSet_reads 0 0 0 0 0).bus _).record hrec
    refine ⟨_, linkDown_enabled hu he, hspeed, hwidth, off hflit, off hup, off hbelow, ?_, ?_, ?_,
      fun _ => ⟨?_, s.lostLink_wait, State.linkLost_errReg⟩, fun h => by cases h⟩
    · rw [hrec.mem, hrest]
    · rw [hrec.fe, hrest]
    · rw [hrec.tick, hrest]
    · rw [hrec.bus, hrest]
  | false =>
    have hrest := (s.linkSet_writes 0 0 0 0 0).rest
    obtain ⟨hspeed, hwidth, hflit, hup, hbelow⟩ := s.linkSet_reads 0 0 0 0 0
    refine ⟨_, linkDown_disabled hu he, hspeed, hwidth, off hflit, off hup, off hbelow, ?_, ?_, ?_, fun h => by (cases h), fun _ => hrest⟩
    all_goals rw [hrest]

/-- VF Enable and a larger NumVFs (R50, R51). -/
theorem vfEnable_leaves {n : Nat} (h1 : 1 ≤ n) (h2 : n ≤ 63) (hb : s.rd RST_BOOT_STEP.STATE 1 ≠ 0)
    (hn : s.bus.vfEn = true → s.bus.numVfs < n) :
    Answers (.vfEnable n) s fun t => t.bus.vfEn = true ∧ t.bus.numVfs = n ∧
      (∀ v, 2048 - 32 * n ≤ v → v < 2048 → (t.lentTo v).isSome = true ∧ ((s.lentTo v) = none → v ∉ t.bus.unmasked ∧
        (v ∈ t.bus.keptUnmasked ↔ v ∈ s.bus.unmasked) ∧ t.irq.held.get? v = none)) ∧
      (∀ v, v < 2048 - 32 * n → t.lentTo v = none) ∧
      RegsKeptEv s t [(CFG.CFG_ERR, 0)] ∧ t = { s with regs := t.regs, irq := t.irq, out := t.out, freeCtr := t.freeCtr, bus := t.bus } ∧
      ((∃ k < 64, s.on INTC_TGT.EN k = true ∧ s.lentTo (s.rd INTC_TGT.VECTOR k) = none ∧
        2048 - 32 * n ≤ s.rd INTC_TGT.VECTOR k ∧ s.rd INTC_TGT.VECTOR k < 2048) → t.on CFG.CFG_ERR 0 = true) := by
  have hbus := s.vfLent_bus n
  obtain ⟨he, hnum, hlend⟩ := (s.vfGrown n).lendEntries_bus (s.newEntries n)
  obtain ⟨hkept, hrest⟩ := s.vfLent_rest n
  refine ⟨_, vfEnable_lends h1 h2 hb hn, by rw [hbus, he]; rfl, by rw [hbus, hnum]; rfl, fun v hv hv2 => ?_, fun v hv => ?_, hkept, hrest,
    ?_⟩
  · have hl : ((s.vfLent n).lentTo v).isSome = true := s.vfLent_lentTo.mpr (by omega)
    refine ⟨hl, fun hnone => ?_⟩
    have hm := s.mem_newEntries h2 hv hv2 hnone
    obtain ⟨hun, hkeep⟩ := hlend v hm
    rw [hbus]
    refine ⟨hun, hkeep, ?_⟩
    rw [State.lentTo_congr hbus] at hl
    exact ((State.bindingErrs_held (s.newBindings n) _ hl).held).trans (State.lendEntries_held hm)
  · rw [← Option.not_isSome_iff_eq_none, s.vfLent_lentTo]
    omega
  · rintro ⟨k, hk, hon, hnone, hv1, hv2⟩
    exact State.bindingErrs_on (State.newBindings_pos hk hon (s.mem_newEntries h2 hv1 hv2 hnone)) _

/-- A smaller NumVFs, or VF Enable cleared (R51). -/
theorem vfDisable_leaves {n : Nat} (he : s.bus.vfEn = true) (hn : n < s.bus.numVfs) :
    Answers (.vfDisable n) s fun t => t.bus.numVfs = n ∧ (t.bus.vfEn = true ↔ n ≠ 0) ∧
      (∀ v, v < 2048 - 32 * n → t.lentTo v = none) ∧ (∀ f, n < f → f ∉ t.bus.msixEn ∧ t.bus.latch.get? f = none) ∧
      (∀ v, 2048 - 32 * s.bus.numVfs ≤ v → v < 2048 - 32 * n → (v ∈ t.bus.unmasked ↔ v ∈ s.bus.keptUnmasked)) ∧
      RegsKeptEv s t [] ∧ t = { s with regs := t.regs, irq := t.irq, out := t.out, freeCtr := t.freeCtr, bus := t.bus } := by
  obtain ⟨hv, hnum, hmsix, hlatch, hback⟩ := s.vfReturned_bus n
  have honly := s.vfReturned_only n
  refine ⟨_, vfDisable_returns he hn, hnum, by rw [hv, bne_iff_ne], fun v h => ?_, fun f h => ⟨?_, ?_⟩,
    fun v h k => hback v (mem_backEntries h k), honly.kept _, honly.rest⟩
  · rw [State.lentTo_none_iff, hnum]
    omega
  · rw [hmsix]
    simp [h]
  · rw [hlatch, NMap.get?_filter_key _ (fun k => decide (k ≤ n)), if_neg (by simp [h])]

/-- Settles O10: each clause is one of the lemmas above, on reads, the link and the functions. -/
theorem hostReads : Obligations.HostReads := by
  unfold Obligations.HostReads
  refine ⟨⟨fun s f sp off ho => reads_latch_the_high_half f sp off ho, fun s f sp off hf hg hs => barAccessMisaligned_leaves f off hf hg hs,
      fun s a h => s.regWord_empty h⟩,
    ⟨fun s speed width flit hp hq hh h1 hs hw => linkUp_leaves hp hq hh h1 hs hw, fun s hu => linkDown_leaves hu⟩,
    fun s n h1 h2 hb he hn => vfEnable_shrinks h1 h2 hb he hn, fun s n h1 h2 hb hn => vfEnable_leaves h1 h2 hb hn,
    fun s n he hn => vfDisable_leaves he hn⟩

end Sys2Proof.Machine
end

/-! ## Tallies (O19) -/

section
/-! PROOFS. A display commit's wait that a poll releases counts as released 1 µs later, which the statement's clause of the polling
wait does not say. -/

namespace Sys2Proof.Machine

/-- Display pipe 0 polls Tally 0 for value 0, which it holds: the READY wait of a display commit that met an empty pool. -/
def polledPipe : State :=
  { tly := { waits := [⟨0, 0, .glz 0, true⟩] }
    glz := { pipes := [(0, { pend := some { ctx := 0, raw := [], layers := [], wait := 1 } })] } }

/-- When the pending commit of pipe 0 counts as ready (R405). -/
def State.readyAt (s : State) : Option Nat := (s.glz.pipes.get? 0).bind fun x => x.pend.bind fun c => c.at_

/-- The poll that sees the value counts 1 µs later than the wake of a registered wait (R405). -/
theorem polledPipe_readyAt : ∃ t, exec (.waitPoll 0 0) polledPipe = .next t ∧ t.readyAt = some 1000 := ⟨_, rfl, by decide +kernel⟩

theorem polledPipe_wake_readyAt (b : Bool) :
    ((polledPipe.dropWait ⟨0, 0, .glz 0, true⟩).wakeWaiter (.glz 0) b).readyAt = some 0 := by cases b <;> decide +kernel

/-- Refutes O19: where the polling wait that goes on is a display commit's, `State.polledGlz` adds R405's microsecond, which
the clause of WAIT_POLL leaves out. -/
theorem not_talliesFromHostAndEngines : ¬ Obligations.TalliesFromHostAndEngines := by
  unfold Obligations.TalliesFromHostAndEngines
  rintro ⟨-, -, -, -, -, h⟩
  have hp := (h polledPipe 0 0 ⟨0, 0, .glz 0, true⟩ (by decide +kernel) rfl).1 (.inr (by decide +kernel))
  obtain ⟨t, ht, hr⟩ := polledPipe_readyAt
  rw [ht] at hp
  have e : t = (polledPipe.dropWait ⟨0, 0, .glz 0, true⟩).wakeWaiter (.glz 0) (polledPipe.poisoned 0) := by injection hp
  rw [e, polledPipe_wake_readyAt] at hr
  cases hr

end Sys2Proof.Machine
end

/-! ## Translation and invalidation (O21) -/

section
/-! PROOFS. INV_START drops from the caches that stand behind ack bit 64 (`State.invDrop`). Four numbers past the 192 micro-TLBs,
384 to 387, have that ack bit beside the MMU's own 64, and the statement's clause tells the MMU's entries by the number alone. -/

namespace Sys2Proof.Machine

/-- An entry of cache 384, which is no cache of R170 but has the ack bit of the MMU's. -/
def strayEntry : TlbE := { eng := 384, ctx := 0, va := 0, size := 0x1000, pa := 0, rights := 1 }

/-- A request of scope 3, which covers every translation (R171). -/
def invEverything : Inv := { ticket := 1, scope := 3 }

/-- The request waits alone while the stray entry is held. -/
def strayState : State := { mmu := { tlb := [strayEntry], fifo := [invEverything] } }

/-- The entry's cache is not the MMU's by its number and no requester's, and yet stands behind the MMU's ack bit. -/
theorem strayEntry_ackBit : strayEntry.eng ≠ 64 ∧ isRequester strayEntry.eng = false ∧ ackBit strayEntry.eng = 64 := by decide

/-- The acknowledgement of the FE, bit 60, is still to come: INV_START acknowledges absent engines only. -/
theorem strayState_waits :
    strayState.invAuto (strayState.invMask invEverything) % 2 ^ 64 ≠ strayState.invMask invEverything % 2 ^ 64 := by decide +kernel

/-- INV_START drops the stray entry with the MMU's own. -/
theorem strayState_start : ∃ t, exec .invStart strayState = .next t ∧ strayEntry ∉ t.mmu.tlb := ⟨_, rfl, by decide +kernel⟩

/-- Refutes O21: the clause of INV_START keeps every entry whose cache number is not 64, and a state may hold one of cache 384,
whose ack bit is 64 too and which goes with the MMU's own. -/
theorem not_translationAndInvalidation : ¬ Obligations.TranslationAndInvalidation := by
  unfold Obligations.TranslationAndInvalidation
  rintro ⟨-, -, -, -, -, hstart, -⟩
  obtain ⟨t, ht, -, -, -, -, -, -, hkeep, -⟩ := hstart strayState invEverything rfl rfl strayState_waits
  obtain ⟨u, hu, hgone⟩ := strayState_start
  obtain rfl : t = u := by rw [ht] at hu; injection hu
  exact hgone (hkeep strayEntry List.mem_cons_self strayEntry_ackBit.1)

end Sys2Proof.Machine
end
